-- ==== Sys2Proof/Syntax.lean ====
section
/-! DEFINITION. The commands of the block, whole: one constructor of Instr per row of spec/opcode_table.json,
and the small types of their operands. -/

namespace Sys2Proof

/-- A dictionary request: the owner ID stamped at the path it came by (R22, R336) and the tick at which the
dictionary engine serves it. -/
structure Req where
  owner : Nat
  t : Nat
  deriving DecidableEq, Repr

/-- One side of one crossing lane: the region, its side (0 north, 1 east, 2 south, 3 west) and the lane (R84, R143).
For a sending command the sending region, for a receiving command the receiving region. -/
structure Lane where
  r : Nat
  side : Nat
  lane : Nat
  deriving DecidableEq, Repr

/-- What a slot miss reports beside its region (R90, R91): cause, slot index, tag, lower-level code and the frame or
round cycle of the slot. -/
structure MissInfo where
  cause : Nat
  slot : Nat
  tag : Nat
  lower : Nat
  cycle : Nat
  deriving DecidableEq, Repr

/-- One block memory: region, block and block memory of the block (R156). -/
structure BmSel where
  r : Nat
  b : Nat
  m : Nat
  deriving DecidableEq, Repr

/-- The two ports of a block memory (R156). -/
inductive BmPort where
  | a
  | b
  deriving DecidableEq, Repr

/-- A unit of on-chip memory with an error code of its own (R157, R164, R230). -/
inductive MemUnit where
  | bm (m : BmSel)
  | spBank (r bank : Nat)
  | im (r b : Nat)
  | cm (r b : Nat)
  | ds (r b : Nat)
  deriving DecidableEq, Repr

/-- One slice group: region and block (R200). -/
structure Grp where
  r : Nat
  b : Nat
  deriving DecidableEq, Repr

/-- What the fabric presents to a group in an issue cycle (R205, R209, R229): the elements of buses X, Y and Z with their valid
signals, sg_go, and the tick of the cycle. -/
structure Issue where
  x : BitVec 256
  y : BitVec 256
  z : BitVec 256
  xv : Bool := true
  yv : Bool := true
  zv : Bool := true
  go : Bool := true
  t : Nat
  deriving DecidableEq, Repr

/-- What a read of a coded word finds beside the errors that the model holds already: nothing, a single-bit error at
a bit, or an error that the code cannot correct. -/
inductive EccOutcome where
  | clean
  | single (bit : Nat)
  | uncorrectable (bit : Nat)
  deriving DecidableEq, Repr

/-- What the load of a metadata line from DRAM finds (R277, R282, R284). -/
inductive LoadOutcome where
  | verified
  | tagFailed
  | uncorrectable
  deriving DecidableEq, Repr

/-- What the SPD of one DIMM says (R239 to R241): channel, capacity in GB, ranks, device width, device capacity in Gb,
whether it is a registered ECC DIMM of a listed kind, tRFC1 in ns, the rates it supports in MT/s, and tRP, tRCD, tAA
and tRAS in ps. -/
structure Dimm where
  channel : Nat
  gb : Nat
  ranks : Nat
  width : Nat
  devGb : Nat
  registered : Bool
  trfc1 : Nat
  rates : List Nat
  trp : Nat
  trcd : Nat
  taa : Nat
  tras : Nat
  deriving DecidableEq, Repr

/-- An output that a logic cell presents to routing (R109): Y, Z, Q0, Q1 and the carry out. -/
inductive CellOut where
  | y | z | q0 | q1 | co
  deriving DecidableEq, Repr

/-- The source of a flip-flop's data input (R109). -/
inductive DataSel where
  | y | z | sum | d
  deriving DecidableEq, Repr

/-- The lookup table of a cell (R108): one table of L5 to L0, or two tables that share L3 to L0, Y with L4 and Z with L5 as
the top bit of the index. -/
inductive Lut where
  | whole (table : BitVec 64)
  | split (y z : BitVec 32)
  deriving DecidableEq, Repr

/-- A flip-flop (R109, R111): its data source and INIT; clock K1 instead of K0; one of the enables E0 to E3, or constant 1;
one of the user reset nets, or none. -/
structure FlipFlop where
  data : DataSel := .y
  init : Bool := false
  k1 : Bool := false
  enable : Option (Fin 4) := none
  urst : Option (Fin 4) := none
  deriving DecidableEq, Repr

/-- A logic cell (R108, R109). -/
structure Cell where
  lut : Lut := .whole 0#64
  ff0 : FlipFlop := {}
  ff1 : FlipFlop := {}
  deriving DecidableEq, Repr

/-- The segmented wire kinds (R113). -/
inductive SegKind where
  | l1 | l2 | l4 | l8 | l16
  deriving DecidableEq, Repr

/-- A routing wire (R113): a segmented wire by the cluster where it starts, its direction (0 north, 1 east, 2 south, 3 west)
and number; a spine by its segment, its row or column and its number; a local wire of a cluster. -/
inductive Wire where
  | seg (kind : SegKind) (x y dir i : Nat)
  | hspine (s y i : Nat)
  | vspine (x s i : Nat)
  | local (x y i : Nat)
  deriving DecidableEq, Repr

/-- What an input of a routing multiplexer takes: a cell output, a wire, or output n of a hard unit that routing meets at a
cluster. -/
inductive Source where
  | cell (x y k : Nat) (o : CellOut)
  | wire (w : Wire)
  | hard (x y n : Nat)
  deriving DecidableEq, Repr

/-- What a routing multiplexer drives (R115): a wire, a clock enable E0 to E3 of a cluster, or an input of a cell, L0 to L5
and 6 for the direct input D. -/
inductive Sink where
  | wire (w : Wire)
  | enable (x y e : Nat)
  | cellIn (x y k pin : Nat)
  deriving DecidableEq, Repr

/-- The settings that configuration frames carry (R351, R108 to R117, R130, R156, R179, R187, R223, R69, R73). The manual
publishes no bit layout of a frame, so a frame command carries its bits and beside them the settings they encode. -/
inductive Setting where
  | bmMode (r b m : Nat) (bypass : Bool) (net : Nat)
  | queue (r k mode width hi lo : Nat)
  | group (r b net start : Nat) (atRelease : Bool) (evEnable : BitVec 4) (entry bound : List Nat) (view : Nat)
  | net (r n divA divB : Nat) (srcA srcB : Option Nat) (gate : Bool)
  | bankUse (bb : Nat)
  /-- the reflex cell of a test point: what feeds its output register with rfx_out and rfx_oe, R64, R69 -/
  | reflex (tp : Nat) (out oe : Source)
  | rfxOeConst (tp : Nat)
  | driveWords (tp : Nat)
  /-- input n of probe multiplexer m of block b takes a cell output of the block, R130 -/
  | probeInput (r b m n : Nat) (src : Source)
  /-- the gate of block b on a wire or carry chain that leaves it drives v while the block is safe, R116 -/
  | boundaryDefault (r b : Nat) (src : Source) (v : Bool)
  /-- cell k of cluster (x, y), R108 -/
  | cell (r x y k : Nat) (c : Cell)
  /-- the clock nets K0 and K1 of a cluster, R111 -/
  | cluster (r x y k0 k1 : Nat)
  /-- the carry into cell 0 of row 0 of a column, R112 -/
  | carryIn (r x : Nat) (v : Bool)
  /-- the inputs of a routing multiplexer by select code, and its select, R115 -/
  | route (r : Nat) (sink : Sink) (inputs : List Source) (sel : Nat)
  deriving DecidableEq, Repr

/-- The header of a stream (R357): reservedZero says that every reserved field is 0, section holds the owner and the
region mask of entry p of the partition section. -/
structure StreamHeader where
  magic : BitVec 32
  device : BitVec 32
  version : Nat
  partMask : BitVec 8
  keyId : Nat
  length : Nat
  reservedZero : Bool
  section_ : List (Nat × BitVec 32)
  nonce : BitVec 96 := 0#96
  deriving DecidableEq, Repr

/-- The register that a REGISTER_WRITE names: a dictionary entry, a BAR0 register of a host port (R305), an EtherCAT
slave controller register (R319 to R323), or a register of Lantern's peripheral range (R409, R449). -/
inductive Register where
  | dict (idx sub : Nat)
  | bar0 (h offset : Nat)
  | esc (addr : Nat)
  | lanternWindowBase
  | lanternMonitorVector
  deriving DecidableEq, Repr

/-- How a write of Lantern's flash or of the octal flash ends (R417, R419): the image or stream header written is
valid (with its version, rollback index and owner policy, or with its length), or invalid, the source was cut short, or the flash
failed. -/
inductive FlashOutcome where
  | valid (version rollback length : Nat) (policy : List Nat)
  | invalid
  | cutShort
  | flashError
  deriving DecidableEq, Repr

/-- One command of the block: one constructor per row of spec/opcode_table.json. The table gives the rows no
operand fields; the operands are the ports, registers and parameters that the row's rule names. -/
inductive Instr where
  /-- P00_SUPPLY_GOOD (R32). The P00 supply becomes good and the device leaves OFF for STANDBY. -/
  | p00SupplyGood
  /-- P00_SUPPLY_FAIL (R32). The P00 supply fails and the device goes to OFF from any state. -/
  | p00SupplyFail
  /-- MAIN_SUPPLIES_GOOD (R492). The main supplies become good while MAIN_EN is high and the device enters BOOT. -/
  | mainSuppliesGood (mode : BitVec 3) (refClk : Bool)
  /-- MAIN_SUPPLIES_LOST (R414). The main supplies cease to be good in BOOT and the device returns to STANDBY. -/
  | mainSuppliesLost
  /-- MAIN_RAIL_COLLAPSE (R495). A main rail falls below 85 % outside OFF, STANDBY and BOOT; P01-P19 are isolated and turned off, the fault is recorded in P00 and the device enters STANDBY. -/
  | mainRailCollapse (rails : BitVec 5)
  /-- WAKE_PULSE (R492). A low pulse of at least 1 us on WAKE_N raises MAIN_EN again after an orderly shutdown. -/
  | wakePulse (mode : BitVec 3) (refClk : Bool)
  /-- REF_CLK_START (R19). REF_CLK starts, the PLLs of C32, C33 and C35 lock, and BOOT continues with a fresh watchdog timeout. -/
  | refClkStart
  /-- DOMAIN_POWER_GOOD (R414). A domain's voltage monitor reports good and its isolation is released before the next domain is powered. -/
  | domainPowerGood (d : Nat)
  /-- DOMAIN_POWER_TIMEOUT (R414). A domain is not good within 2 ms in BOOT; this is a power fault and the device stays in BOOT with ALERT_N low. -/
  | domainPowerTimeout (d : Nat)
  /-- IMAGE_START (R413). Verification and copying of the image end; the Keep loads the key slot store and the image starts. -/
  | imageStart
  /-- ENTER_REDUCED (R413). The image applies its owner policy, serves the SII, powers P19 and enters REDUCED. -/
  | enterReduced (vcco : List Nat) (dimms : List Dimm)
  /-- VOLTAGE_MONITOR_FAULT (R21). A domain's supply stays outside its limits for more than 1 us, which is a chip-level power fault. -/
  | voltageMonitorFault (d : Nat) (mV : Nat) (t : Nat)
  /-- CLOCK_LOSS (R18). A clock monitor sees its clock outside +-10 % for more than 1 us after it had started; the action follows R17. -/
  | clockLoss (c : Nat) (kHz : Nat) (t : Nat)
  /-- SHUTDOWN (R33). Action 1 of 0x2E01 takes the device to CLOSING and starts the closing sequence. -/
  | shutdown (q : Req) (serial : Nat)
  /-- RECOVER (R34). Action 2 of 0x2E01 returns the device from SAFE to REDUCED and resets the islands that SAFE stopped. -/
  | recover (q : Req) (serial : Nat)
  /-- RECOVER_RELEASE (R34). The hard reset of a recovered region is released at its planned net-0 edge or frame cycle 0. -/
  | recoverRelease (r : Nat)
  /-- CLOSING_SELF_REFRESH_DONE (R398). Cupola's dirty lines are written back and every channel is in self-refresh; P11-P13 turn off and the closing test starts. -/
  | closingSelfRefreshDone
  /-- RECORD_SEALED (R398). Lantern finishes writing the closing record, sets the intact bit, turns off the remaining domains and the device enters STANDBY. -/
  | recordSealed
  /-- DISCIPLINE_SOURCE_WRITE (R39). A write of 0x2301:01 selects a discipline source; a change to none sends Belfry to FREE. -/
  | disciplineSourceWrite (q : Req) (v : Nat)
  /-- DC_MEASUREMENT (R38). The 1 ms measurement of the tick count against DC system time arrives. -/
  | dcMeasurement (offset : Int) (t : Nat)
  /-- PPS_IN_EDGE (R38). A PPS_IN edge of the set polarity is measured against its designated time. -/
  | ppsInEdge (fine : Nat)
  /-- CORRECTION_SERIAL (R45). A new serial in 0x2302:01 applies the offset in 0x2302:02 as one measurement. -/
  | correctionSerial (q : Req) (serial : Nat)
  /-- PPS_WINDOW_CLOSE (R38). The 1 s +- 1 ms window of a designated PPS time closes without an edge and 0x2301:04 advances. -/
  | ppsWindowClose
  /-- SOURCE_TIMEOUT (R39). The source delivers no valid measurement for its limit; Belfry goes from LOCKED to HOLDOVER or from LOCKING to FREE. -/
  | sourceTimeout
  /-- HOLDOVER_LIMIT_EXPIRY (R39). The holdover limit in 0x2301:03 expires and Belfry enters FREE. -/
  | holdoverLimitExpiry
  /-- BELFRY_STEP (R46). The step command 0x2E30 steps the tick count to :03 when R42 permits. -/
  | belfryStep (q : Req) (serial : Nat)
  /-- PPS_OUT_RISE (R44). PPS_OUT rises at a tick whose count is a multiple of 10^9 while it is enabled. -/
  | ppsOutRise
  /-- PPS_OUT_FALL (R44). PPS_OUT falls 10,000,000 ticks after its rise. -/
  | ppsOutFall
  /-- BANK_MODE_WRITE (R49). A write of 0x24bb:01 parks the bank, sets direct mode or sets vane mode. -/
  | bankModeWrite (q : Req) (bb : Nat) (v : Nat)
  /-- IO_VOLTAGE_WRITE (R48). A write of 0x24bb:02 sets the voltage code and ends a VCCO park when the code matches. -/
  | ioVoltageWrite (q : Req) (bb : Nat) (v : Nat)
  /-- DIRECT_OUTPUT_WRITE (R50). A write of the direct-mode output enable or level drives the pins within 1 us. -/
  | directOutputWrite (q : Req) (bb : Nat) (level : Bool) (v : BitVec 64)
  /-- PATTERN_CONTROL_WRITE (R50). A write of 0x24bb:10 starts the pattern generator once or in a loop, or stops it. -/
  | patternControlWrite (q : Req) (bb : Nat) (v : Nat)
  /-- PATTERN_ENTRY_APPLY (R50). Pattern entry k is applied at tick S + k x P. -/
  | patternEntryApply (bb : Nat)
  /-- PATTERN_RUN_END (R50). A run-once pattern stops one period after its last entry and 0x24bb:10 returns to 0. -/
  | patternRunEnd (bb : Nat)
  /-- CLEAR_CONTENTION (R53). A write of 0x24bb:13 clears the contention mask bits written as 1. -/
  | clearContention (q : Req) (bb : Nat) (mask : BitVec 64)
  /-- BANK_CONTROL_WRITE (R52). A tb_ctl_we pulse writes a pin's pull through the slow bus in vane mode, or is counted outside vane mode. -/
  | bankControlWrite (bb : Nat) (pin : Nat) (pull : Nat) (t : Nat)
  /-- VCCO_FAULT (R48). VCCO leaves its code's band while the bank is unparked; the bank parks and reports vcco_mismatch. -/
  | vccoFault (bb : Nat) (mV : Nat) (t : Nat)
  /-- VCCO_RECOVERY (R48). VCCO has stayed within its code's band for 1 ms and the VCCO park ends. -/
  | vccoRecovery (bb : Nat) (mV : Nat) (t : Nat)
  /-- VANE_EVENT_WORD (R58). A vane accepts a timed event word and queues it, or discards it as late or out of order. -/
  | vaneEventWord (tp : Nat) (word : BitVec 32) (t : Nat)
  /-- EPOCH (R56). An EPOCH word changes the queue epoch at its acceptance. -/
  | epoch (tp : Nat) (word : BitVec 32) (t : Nat)
  /-- VANE_NOP (R56). A NOP word reaches its instant and does nothing. -/
  | vaneNop (tp : Nat)
  /-- DRIVE_LOW (R56). At its instant the vane enables the output driving low. -/
  | driveLow (tp : Nat)
  /-- DRIVE_HIGH (R56). At its instant the vane enables the output driving high. -/
  | driveHigh (tp : Nat)
  /-- RELEASE (R56). At its instant the vane disables the output and the pull applies. -/
  | release (tp : Nat)
  /-- CAPTURE_RISE (R62). At its instant the vane arms capture of the next rising edge. -/
  | captureRise (tp : Nat)
  /-- CAPTURE_FALL (R62). At its instant the vane arms capture of the next falling edge. -/
  | captureFall (tp : Nat)
  /-- CAPTURE_ANY (R62). At its instant the vane arms capture of the next edge of either direction. -/
  | captureAny (tp : Nat)
  /-- SAMPLE (R56). At its instant the vane writes the pin level into the capture FIFO. -/
  | sample (tp : Nat) (level : Bool)
  /-- WINDOW_LOW (R63). At its instant the vane opens a compare window expecting low. -/
  | windowLow (tp : Nat) (level : Bool)
  /-- WINDOW_HIGH (R63). At its instant the vane opens a compare window expecting high. -/
  | windowHigh (tp : Nat) (level : Bool)
  /-- WINDOW_CLOSE (R63). At its instant the vane closes the open window and pulses vane_win_done. -/
  | windowClose (tp : Nat)
  /-- DISARM (R56). At its instant the vane cancels an armed capture and writes a no-edge entry. -/
  | disarm (tp : Nat)
  /-- REFLEX_ARM (R70). At its instant the pin's driver is handed to the reflex path. -/
  | reflexArm (tp : Nat)
  /-- REFLEX_DISARM (R70). At its instant the pin's driver returns to the vane. -/
  | reflexDisarm (tp : Nat)
  /-- PARK (R56). At its instant the vane sets its pin to the bank's park level. -/
  | park (tp : Nat)
  /-- CAPTURE_EDGE (R62). An edge that matches the armed capture is recorded in the capture FIFO and the capture disarms. -/
  | captureEdge (tp : Nat) (rising : Bool) (fine : Nat)
  /-- WINDOW_DEVIATION (R63). A deviation of 500 ps or longer in an open window writes a window-fail entry and sets vane_fail. -/
  | windowDeviation (tp : Nat) (fine : Nat) (level : Bool) (ps : Nat)
  /-- CAPTURE_POP (R64). vane_cap_pop removes the head entry of the capture FIFO. -/
  | capturePop (tp : Nat) (t : Nat)
  /-- VANE_FAIL_CLEAR (R64). vane_fail_clr clears the sticky vane_fail. -/
  | vaneFailClear (tp : Nat) (t : Nat)
  /-- CALIBRATION_RUN (R68). A full calibration of the standby delay line ends, every 10 ms. -/
  | calibrationRun (tp : Nat)
  /-- LINE_SWITCH (R68). The vane switches delay lines at a tick with no timed word in it or in the next tick. -/
  | lineSwitch (tp : Nat)
  /-- CALIBRATION_DEFERRED (R68). No free tick for a line switch occurs within 10 ms; the switch waits and 0x107u_u007 is raised. -/
  | calibrationDeferred (tp : Nat)
  /-- CALIBRATION_LIMIT (R68). 100 ms pass after the last switch; calib_degraded is set and 0x107u_u008 is raised. -/
  | calibrationLimit (tp : Nat)
  /-- SCHEDULED_TOKEN_SEND (R144). The send register takes the scheduled token of a send slot and its handshake starts. -/
  | scheduledTokenSend (l : Lane) (valid : Bool) (data : BitVec 32) (t : Nat)
  /-- UNSCHEDULED_TOKEN_SEND (R147). The lane takes an unscheduled token in a free send cycle while xs_ready is 1. -/
  | unscheduledTokenSend (l : Lane) (data : BitVec 32) (t : Nat)
  /-- TOKEN_RELEASE (R144). The receiver releases a landed token to its fabric at its receive entry, or delivers poison or an invalid token. -/
  | tokenRelease (l : Lane) (landed : Bool) (t : Nat)
  /-- SLOT_MISS (R92). The schedule engine detects a slot miss; it fences the region and breaks the contract if ARMED, or counts the miss if BROKEN. -/
  | slotMiss (r : Nat) (m : MissInfo) (t : Nat)
  /-- REARM (R96). The re-arm command 0x2E25 is checked and waits for its frame boundary. -/
  | rearm (q : Req) (serial : Nat) (p : Nat) (frame : Nat)
  /-- REARM_BOUNDARY (R96). At the named frame boundary the first-miss entries clear and the contract becomes ARMED. -/
  | rearmBoundary (p : Nat)
  /-- SEQUENCER_OVERRUN (R222). An event handler has not returned by cycle a + B; a miss with cause 9 is detected. -/
  | sequencerOverrun (r : Nat) (b : Nat) (ev : Nat) (t : Nat)
  /-- CLOCK_SWITCH (R120). A new clk_sel value is sampled at the old input and a glitch-free switch of the net begins. -/
  | clockSwitch (r : Nat) (net : Nat) (sel : Bool) (t : Nat)
  /-- CLOCK_SWITCH_COMPLETE (R120). The first edge of the new input reaches the net's output and clk_cur changes. -/
  | clockSwitchComplete (r : Nat) (net : Nat) (t : Nat)
  /-- CLOCK_SWITCH_STALL (R121). A switch has not completed within 64 net-0 cycles and 0x301u_u001 is raised. -/
  | clockSwitchStall (r : Nat) (net : Nat) (t : Nat)
  /-- CLOCK_GATE_CHANGE (R122). A new clk_en value sampled at the multiplexer output suppresses or passes the net's edges. -/
  | clockGateChange (r : Nat) (net : Nat) (en : Bool) (t : Nat)
  /-- USER_RESET (R126). urst_in[n] puts the flip-flops that select user reset net n at INIT. -/
  | userReset (r : Nat) (n : Nat) (v : Bool) (t : Nat)
  /-- PROBE_SELECT_WRITE (R132). A write of a probe select in 0x2C20 or 0x2Crr takes effect within 1 us. -/
  | probeSelectWrite (q : Req) (idx : Nat) (sub : Nat) (v : Nat)
  /-- ISLAND_UNLOCK (R140). The unlock indicator or the region clock monitor detects lost lock and the region is fenced. -/
  | islandUnlock (r : Nat) (detector : Nat) (t : Nat)
  /-- ISLAND_RESTART (R150). The restart command 0x2E05 locks the standby synthesizer and asserts the region's hard reset. -/
  | islandRestart (q : Req) (serial : Nat) (r : Nat) (frame : Nat)
  /-- STANDBY_LOCK_DONE (R141). A standby synthesizer locks to its ratio for a waiting commit or restart. -/
  | standbyLockDone (r : Nat)
  /-- STANDBY_LOCK_TIMEOUT (R151). The standby does not lock within 40 us; the restart ends with status 5. -/
  | standbyLockTimeout (r : Nat)
  /-- ISLAND_RESTART_RELEASE (R150). At the release edge the fence lifts, poison ends and the region runs from INIT. -/
  | islandRestartRelease (r : Nat)
  /-- BM_READ (R159). A block memory port reads a word, with data two cycles later and ECC handled. -/
  | bmRead (m : BmSel) (port : BmPort) (addr : Nat) (t : Nat)
  /-- BM_WRITE (R159). A block memory port writes a word, subject to the collision rules. -/
  | bmWrite (m : BmSel) (port : BmPort) (addr : Nat) (data : BitVec 40) (t : Nat)
  /-- BM_BIT_SET (R161). A block memory port ORs a mask into a word atomically and returns the old word. -/
  | bmBitSet (m : BmSel) (port : BmPort) (addr : Nat) (mask : BitVec 40) (t : Nat)
  /-- BM_BIT_CLEAR (R161). A block memory port clears masked bits of a word atomically and returns the old word. -/
  | bmBitClear (m : BmSel) (port : BmPort) (addr : Nat) (mask : BitVec 40) (t : Nat)
  /-- DEMAND_WRITE_BACK (R162). The corrected word held in the demand register is written back in a maintenance cycle. -/
  | demandWriteBack (u : MemUnit) (t : Nat)
  /-- SP_READ (R167). A scratchpad port reads a 256-bit word, winning or stalling at its bank. -/
  | spRead (r : Nat) (port : Nat) (addr : Nat) (sched : Bool) (t : Nat)
  /-- SP_WRITE (R167). A scratchpad port writes the enabled lanes of a word, winning or stalling at its bank. -/
  | spWrite (r : Nat) (port : Nat) (addr : Nat) (lanes : BitVec 4) (data : BitVec 256) (sched : Bool) (t : Nat)
  /-- SP_STALL_RETRY (R166). A stalled scratchpad access competes again for its bank. -/
  | spStallRetry (r : Nat) (port : Nat) (t : Nat)
  /-- MEMORY_DATA_READ (R175). A read of 0x25ii:11 transfers memory words from 0x25ii:10 and advances the address. -/
  | memoryDataRead (q : Req) (r : Nat)
  /-- MEMORY_DATA_WRITE (R175). A write of 0x25ii:11 stores memory words at 0x25ii:10 and advances the address. -/
  | memoryDataWrite (q : Req) (r : Nat) (data : Bytes)
  /-- REGION_CLEAR_END (R170). The clear of a removed region's memories ends and a waiting commit may add it. -/
  | regionClearEnd (r : Nat)
  /-- QUEUE_PUSH (R180). The write side pushes an item into the packing register, completing a word or stalling. -/
  | queuePush (r : Nat) (k : Nat) (item : BitVec 32) (close : Bool) (t : Nat)
  /-- QUEUE_CLOSE (R181). A close strobe completes the partial word with its byte mask. -/
  | queueClose (r : Nat) (k : Nat) (t : Nat)
  /-- QUEUE_POP (R183). The read side pops the head word, or stalls on an empty queue. -/
  | queuePop (r : Nat) (k : Nat) (t : Nat)
  /-- HELD_POP_TAKE (R183). A held pop takes the head word in the first cycle with depth 1 or more. -/
  | heldPopTake (r : Nat) (k : Nat) (t : Nat)
  /-- HELD_PUSH_COMPLETE (R184). A held push completes its word in the first cycle in which a pop is taken. -/
  | heldPushComplete (r : Nat) (k : Nat) (t : Nat)
  /-- WATERMARK_CLEAR (R187). q_wm_clr clears both sticky watermark flags of a queue block. -/
  | watermarkClear (r : Nat) (k : Nat) (t : Nat)
  /-- CLEAR_WATERMARKS (R197). A write of 0x25ii:30 clears the watermark flags of the named queue blocks. -/
  | clearWatermarks (q : Req) (r : Nat) (mask : BitVec 16)
  /-- QUEUE_POINTER_MISMATCH (R188). A pointer pair mismatches; the queue block resets, and the region is fenced or the event logged. -/
  | queuePointerMismatch (r : Nat) (k : Nat) (which : Nat) (t : Nat)
  /-- DUAL_CLOCK_WORD_READABLE (R190). A word completed by the other island becomes readable, or freed space reaches the writer. -/
  | dualClockWordReadable (r : Nat) (k : Nat) (freed : Bool) (t : Nat)
  /-- HOST_QUEUE_PUSH (R192). A posted BAR4 dword write pushes an item into a host-fed queue block. -/
  | hostQueuePush (h : Nat) (offset : Nat) (data : BitVec 32) (full : Bool) (t : Nat)
  /-- HOST_QUEUE_CLOSE (R310). A write to the window's close address is a close strobe. -/
  | hostQueueClose (h : Nat) (offset : Nat) (t : Nat)
  /-- HOST_QUEUE_POP (R192). A BAR4 read at 0x000 pops the head word of a host-drained queue block with its mask. -/
  | hostQueuePop (h : Nat) (offset : Nat) (t : Nat)
  /-- NOP (R209). The sequencer issues NOP. -/
  | nop (g : Grp) (x : Issue)
  /-- STOP (R209). The group enters STOP after its in-flight instructions and pulses sg_done. -/
  | stop (g : Grp) (x : Issue)
  /-- JMP (R209). The sequencer jumps to the target and ends an active loop. -/
  | jmp (g : Grp) (x : Issue)
  /-- DJNZ (R209). The sequencer decrements Ai and branches when the result is not 0. -/
  | djnz (g : Grp) (x : Issue)
  /-- LOOP (R217). The sequencer runs the loop body count times. -/
  | loop (g : Grp) (x : Issue)
  /-- REP (R218). The sequencer issues the next instruction n times without interruption. -/
  | rep (g : Grp) (x : Issue)
  /-- RET (R220). The event handler ends and the main register set returns, or the next pending event is entered. -/
  | ret (g : Grp) (x : Issue)
  /-- WAITG (R209). The sequencer waits until sg_go is 1. -/
  | waitg (g : Grp) (x : Issue)
  /-- EVMASK (R219). The sequencer sets the mask that defers events. -/
  | evmask (g : Grp) (x : Issue)
  /-- SETA (R209). The sequencer sets address register Ai. -/
  | seta (g : Grp) (x : Issue)
  /-- ADDA (R209). The sequencer adds a signed increment to Ai. -/
  | adda (g : Grp) (x : Issue)
  /-- SETM (R209). The sequencer sets modifier Mi. -/
  | setm (g : Grp) (x : Issue)
  /-- CLRF (R209). The sequencer clears the flags or initializes BIX. -/
  | clrf (g : Grp) (x : Issue)
  /-- MAC (R210). Each enabled lane adds P x Q to ACCd. -/
  | mac (g : Grp) (x : Issue)
  /-- MSU (R210). Each enabled lane subtracts P x Q from ACCd. -/
  | msu (g : Grp) (x : Issue)
  /-- MUL (R210). Each enabled lane sets ACCd to P x Q. -/
  | mul (g : Grp) (x : Issue)
  /-- ADD (R210). Each enabled lane sets ACCd to ACCa plus extended P. -/
  | add (g : Grp) (x : Issue)
  /-- SUB (R210). Each enabled lane sets ACCd to ACCa minus extended P. -/
  | sub (g : Grp) (x : Issue)
  /-- ABSD (R210). Each enabled lane adds the absolute difference of P and Q to ACCd. -/
  | absd (g : Grp) (x : Issue)
  /-- MOVA (R210). Each enabled lane copies ACCa from its source lane to ACCd. -/
  | mova (g : Grp) (x : Issue)
  /-- LDA (R210). Each enabled lane loads extended P shifted left into ACCd. -/
  | lda (g : Grp) (x : Issue)
  /-- SHA (R210). Each enabled lane shifts ACCa into ACCd. -/
  | sha (g : Grp) (x : Issue)
  /-- MINA (R210). Each enabled lane keeps the signed minimum of ACCd and ACCa. -/
  | mina (g : Grp) (x : Issue)
  /-- MAXA (R210). Each enabled lane keeps the signed maximum of ACCd and ACCa. -/
  | maxa (g : Grp) (x : Issue)
  /-- FMA (R213). Each enabled lane performs an FP32 fused multiply-add into ACCd. -/
  | fma (g : Grp) (x : Issue)
  /-- FMS (R213). Each enabled lane performs an FP32 fused multiply-subtract into ACCd. -/
  | fms (g : Grp) (x : Issue)
  /-- FMUL (R213). Each enabled lane sets ACCd to the FP32 product of P and Q. -/
  | fmul (g : Grp) (x : Issue)
  /-- FADD (R213). Each enabled lane sets ACCd to ACCa plus P in FP32. -/
  | fadd (g : Grp) (x : Issue)
  /-- CVTF (R210). Each enabled lane converts scaled integer ACCa to FP32. -/
  | cvtf (g : Grp) (x : Issue)
  /-- CVTI (R213). Each enabled lane converts FP32 ACCa to a scaled, rounded integer. -/
  | cvti (g : Grp) (x : Issue)
  /-- ACS2 (R215). Each enabled lane performs a two-way add-compare-select and writes decision bits. -/
  | acs2 (g : Grp) (x : Issue)
  /-- ACS4 (R215). Each enabled lane performs a four-way add-compare-select and writes decision bits. -/
  | acs4 (g : Grp) (x : Issue)
  /-- MINP (R216). Each enabled lane performs a min-plus step and updates BIX. -/
  | minp (g : Grp) (x : Issue)
  /-- OUT (R214). Each enabled lane writes conv(ACCa), or BIX, to OUTR. -/
  | out (g : Grp) (x : Issue)
  /-- STC (R214). Each enabled lane stores conv(ACCa) into a coefficient element. -/
  | stc (g : Grp) (x : Issue)
  /-- SG_EVENT_ASSERT (R219). A rising event input sets its pending bit. -/
  | sgEventAssert (g : Grp) (n : Nat) (t : Nat)
  /-- EVENT_ENTRY (R220). At an instruction boundary the sequencer takes the pending event and switches to the shadow set. -/
  | eventEntry (g : Grp) (t : Nat)
  /-- SG_START (R224). sg_start starts a stopped group at its start address. -/
  | sgStart (g : Grp) (t : Nat)
  /-- SG_STOP (R224). sg_stop stops the group at the next boundary. -/
  | sgStop (g : Grp) (t : Nat)
  /-- START_MASK_WRITE (R233). A write of 0x25ii:36 starts each named group. -/
  | startMaskWrite (q : Req) (r : Nat) (mask : BitVec 64)
  /-- STOP_MASK_WRITE (R233). A write of 0x25ii:37 stops each named group. -/
  | stopMaskWrite (q : Req) (r : Nat) (mask : BitVec 64)
  /-- CLEAR_FLAGS (R233). A write of 0x25ii:3F clears both flag sets of each named group. -/
  | clearFlags (q : Req) (r : Nat) (mask : BitVec 64)
  /-- CM_READ (R226). The fabric reads a coefficient row when the sequencer leaves an access free. -/
  | cmRead (g : Grp) (row : Nat) (t : Nat)
  /-- CM_WRITE (R226). The fabric writes a coefficient row when the sequencer leaves an access free. -/
  | cmWrite (g : Grp) (row : Nat) (data : BitVec 256) (t : Nat)
  /-- DS_READ (R227). The fabric reads a decision store halfword. -/
  | dsRead (g : Grp) (addr : Nat) (t : Nat)
  /-- IM_WRITE (R228). The fabric writes an instruction word while the group is in STOP, or the write is discarded. -/
  | imWrite (g : Grp) (addr : Nat) (data : BitVec 64) (t : Nat)
  /-- GROUP_MEMORY_DATA_READ (R235). A read of 0x25ii:34 transfers group memory units and advances 0x25ii:33. -/
  | groupMemoryDataRead (q : Req) (r : Nat)
  /-- GROUP_MEMORY_DATA_WRITE (R235). A write of 0x25ii:34 stores group memory units and advances 0x25ii:33. -/
  | groupMemoryDataWrite (q : Req) (r : Nat) (data : Bytes)
  /-- CHANNEL_TRAINING_END (R243). A DRAM channel finishes training or fails; the channel set and capacity are formed and dram_ok may be set. -/
  | channelTrainingEnd (c : Nat) (ok : Bool) (ms : Nat) (t : Nat)
  /-- RATE_CHANGE (R244). The rate change command 0x2E26 changes the DRAM rate through self-refresh, or is held pending. -/
  | rateChange (q : Req) (serial : Nat) (rate : Nat)
  /-- RATE_CHANGE_DONE (R244). The change completes with a loaded or newly trained set, or the previous rate is restored. -/
  | rateChangeDone (ok : Bool)
  /-- REFRESH_ROUND (R245). At each round start the hub issues PREab and then REFab on every rank. -/
  | refreshRound
  /-- HOT_SPAN_REFRESH (R245). While hot refresh is engaged, the refresh sequence repeats at tick 1,950 of the round. -/
  | hotSpanRefresh
  /-- DIMM_TEMPERATURE_POLL (R246). Each DIMM sensor is read once per millisecond; an unreadable sensor or over-temperature is acted on. -/
  | dimmTemperaturePoll (c : Nat) (dimm : Nat) (reading : Option Int) (t : Nat)
  /-- SCHEDULED_READ_REQUEST (R250). A scheduled read is accepted in its request slot and its window starts. -/
  | scheduledReadRequest (r : Nat) (h : Nat) (addr : Nat) (pinned : Bool) (t : Nat)
  /-- SCHEDULED_WRITE_REQUEST (R252). A scheduled write is accepted in its request slot and completed inside its window. -/
  | scheduledWriteRequest (r : Nat) (h : Nat) (addr : Nat) (pinned : Bool) (mask : BitVec 32) (data : Bytes) (t : Nat)
  /-- SCHEDULED_RETURN_SLOT (R250). The read data of a window is placed in the port's return register at hub cycle 64 or 72. -/
  | scheduledReturnSlot (r : Nat) (h : Nat) (t : Nat)
  /-- BEST_EFFORT_READ (R255). A best-effort read is accepted and queued in order for its channel. -/
  | bestEffortRead (src : Nat) (addr : Nat) (tag : Nat) (t : Nat)
  /-- BEST_EFFORT_WRITE (R255). A best-effort write is accepted and queued for its channel. -/
  | bestEffortWrite (src : Nat) (addr : Nat) (mask : BitVec 32) (data : Bytes) (tag : Nat) (t : Nat)
  /-- BEST_EFFORT_READ_RETURN (R255). The data of a best-effort read returns to its source in order. -/
  | bestEffortReadReturn (src : Nat)
  /-- BEST_EFFORT_WRITE_ACK (R255). A best-effort write completes and hub_wack or the host completion is signaled. -/
  | bestEffortWriteAck (src : Nat)
  /-- WRITE_CRC_ERROR (R260). A DIMM signals a write CRC error and the hub resends the write, up to 4 times. -/
  | writeCrcError (src : Nat)
  /-- SELF_REFRESH_ENTRY (R258). An idle non-window channel enters self-refresh after the idle time. -/
  | selfRefreshEntry (c : Nat)
  /-- SELF_REFRESH_EXIT (R259). A request after SRE makes the channel exit self-refresh and serves it after tXS. -/
  | selfRefreshExit (c : Nat)
  /-- DRAM_SCRUB_READ (R262). Patrol scrub reads the next raw DRAM line as O7 and writes back corrections. -/
  | dramScrubRead (err : EccOutcome)
  /-- METADATA_LOAD (R277). A metadata line missing from the cache is read from DRAM and verified from the root. -/
  | metadataLoad (rr : Nat) (level : Nat) (addr : Nat) (out : LoadOutcome) (t : Nat)
  /-- METADATA_WRITE_BACK (R278). A dirty metadata line is written back as best-effort traffic of O7. -/
  | metadataWriteBack (addr : Nat) (ecc : Bool) (t : Nat)
  /-- PAGE_REWRITE_DONE (R279). The background rewrite of an overflowed page ends and its re-encryption entry frees. -/
  | pageRewriteDone (rr : Nat) (page : Nat)
  /-- RIGHTS_WRITE (R270). A write of 0x27rr:06 or :07 changes live rights for requests accepted after it. -/
  | rightsWrite (q : Req) (rr : Nat) (write : Bool) (v : Nat)
  /-- REGION_DEFINE (R293). Action 1 of 0x2E27 defines a protection region and starts its initialization. -/
  | regionDefine (q : Req) (serial : Nat) (rr : Nat)
  /-- REGION_DELETE (R293). Action 2 of 0x2E27 destroys the key and frees the region, zero-filling an open one. -/
  | regionDelete (q : Req) (serial : Nat) (rr : Nat)
  /-- REGION_REKEY (R280). Action 3 of 0x2E27 starts a re-key sweep under a new key. -/
  | regionRekey (q : Req) (serial : Nat) (rr : Nat)
  /-- REGION_REINITIALIZE (R285). Action 4 of 0x2E27 writes fresh metadata for a poison entry or a failed region. -/
  | regionReinitialize (q : Req) (serial : Nat) (rr : Nat) (entry : Nat)
  /-- METADATA_INIT_DONE (R287). Metadata initialization ends and the region enters state 2. -/
  | metadataInitDone (rr : Nat)
  /-- REGION_ZERO_FILL_DONE (R287). The zero fill of a deleted open region ends and it enters state 0. -/
  | regionZeroFillDone (rr : Nat)
  /-- REKEY_SWEEP_DONE (R280). The re-key sweep ends, the old key is destroyed and the region returns to state 2. -/
  | rekeySweepDone (rr : Nat)
  /-- REINITIALIZE_DONE (R285). The covered lines read as 0; the entry is removed or the region returns to state 2. -/
  | reinitializeDone (rr : Nat)
  /-- FUNDAMENTAL_RESET (R303). PERST_N resets one host port only. -/
  | fundamentalReset (h : Nat)
  /-- HOT_RESET (R303). A hot reset resets one host port only. -/
  | hotReset (h : Nat)
  /-- FUNCTION_LEVEL_RESET (R303). A function level reset resets one host port only. -/
  | functionLevelReset (h : Nat)
  /-- PCIE_LINK_DOWN (R303). A port's link goes down, which resets that port only. -/
  | pcieLinkDown (h : Nat)
  /-- PCIE_LINK_UP (R317). A port's link reaches state 2. -/
  | pcieLinkUp (h : Nat) (speed : Nat) (width : Nat)
  /-- PORT_EVENT_CLEAR (R307). A write of 1 to a port event bit clears it. -/
  | portEventClear (h : Nat) (mask : BitVec 32)
  /-- DMA_ENABLE (R308). Setting enable sets P and C to 0 and starts the DMA channel. -/
  | dmaEnable (h : Nat) (c : Nat) (vector : Nat)
  /-- DMA_DISABLE (R308). Clearing enable stops the channel after its present descriptor is written back. -/
  | dmaDisable (h : Nat) (c : Nat)
  /-- DMA_RESUME (R314). The resume bit continues a channel from the error or fault-stopped state at slot C. -/
  | dmaResume (h : Nat) (c : Nat)
  /-- DMA_DOORBELL (R313). A doorbell write advances P, is ignored as stale, or is an overrun. -/
  | dmaDoorbell (h : Nat) (c : Nat) (v : BitVec 32)
  /-- DMA_DESCRIPTOR_START (R311). The channel reads the descriptor at slot C and starts moving its bytes. -/
  | dmaDescriptorStart (h : Nat) (c : Nat) (desc : Bytes) (data : Bytes)
  /-- DMA_DESCRIPTOR_FINISH (R312). The descriptor's transfers complete; the result is written back, C advances and MSI-X may be sent. -/
  | dmaDescriptorFinish (h : Nat) (c : Nat)
  /-- BAR2_READ (R309). A BAR2 read reaches hub address window base + o as the port's owner. -/
  | bar2Read (h : Nat) (offset : Nat) (len : Nat)
  /-- BAR2_WRITE (R309). A BAR2 write reaches hub address window base + o as the port's owner. -/
  | bar2Write (h : Nat) (offset : Nat) (data : Bytes)
  /-- MAILBOX_DOORBELL (R345). A doorbell write of a new value takes the PCIe mailbox request into service. -/
  | mailboxDoorbell (h : Nat) (v : BitVec 32) (t : Nat)
  /-- PARTITION_OWNER_WRITE (R300). A write of 0x211p:01 sets or clears the partition's owner. -/
  | partitionOwnerWrite (q : Req) (p : Nat) (v : Nat)
  /-- PARTITION_CLAIM_WRITE (R300). A write of 0x211p:02 changes the regions claimed by the partition. -/
  | partitionClaimWrite (q : Req) (p : Nat) (mask : BitVec 32)
  /-- PARTITION_RESET (R301). The command 0x2E21 asserts the hard reset of every region of the partition. -/
  | partitionReset (q : Req) (serial : Nat) (p : Nat) (frame : Nat)
  /-- PARTITION_RESET_RELEASE (R301). The partition's hard reset is released at the planned edge. -/
  | partitionResetRelease (p : Nat)
  /-- AL_STATE_REQUEST (R330). The master requests an EtherCAT state; the interface changes state or refuses with an AL status code. -/
  | alStateRequest (st : Nat)
  /-- SYNC_ACTIVATION (R323). A write of ESC register 0x0981 activates the cyclic unit with the SYNC0 and SYNC1 settings. -/
  | syncActivation (bits : BitVec 8) (cycle0 : Nat) (start : Nat) (cycle1 : Nat)
  /-- SYNC0_EVENT (R323). The DC unit generates a SYNC0 event, which is the process data event in mode 2. -/
  | sync0Event (t : Nat)
  /-- SM2_BUFFER_WRITE (R326). The master completes an SM2 output buffer write. -/
  | sm2BufferWrite (words : List (BitVec 32)) (t : Nat)
  /-- SM3_BUFFER_READ (R326). The master completes an SM3 input buffer read. -/
  | sm3BufferRead (t : Nat)
  /-- PROCESS_OUTPUT_APPLY (R326). A partition's outputs take effect at its apply edge and pd_o_new pulses. -/
  | processOutputApply (p : Nat)
  /-- PROCESS_INPUT_LATCH (R327). A partition's input words are latched at its latch edge into the SM3 buffer. -/
  | processInputLatch (p : Nat)
  /-- PD_INPUT_WRITE (R329). The fabric writes an assigned input word through pd_i_we. -/
  | pdInputWrite (r : Nat) (w : Nat) (v : BitVec 32) (t : Nat)
  /-- SM_WATCHDOG_EXPIRY (R328). The SM2 watchdog expires and the interface falls to SAFEOP with code 0x001B. -/
  | smWatchdogExpiry
  /-- MAILBOX_WRITE (R333). An EtherCAT mailbox write is accepted, or discarded as a repeat by its counter. -/
  | mailboxWrite (counter : Nat) (data : Bytes)
  /-- MAILBOX_REPEAT_REQUEST (R333). The master toggles the SM1 repeat request and the device places its last response again. -/
  | mailboxRepeatRequest
  /-- SDO_DOWNLOAD (R337). The dictionary engine serves an SDO download initiate, or a complete-access write, on any path. -/
  | sdoDownload (q : Req) (idx : Nat) (sub : Nat) (complete : Bool) (data : Bytes) (total : Nat)
  /-- SDO_UPLOAD (R337). The dictionary engine serves an SDO upload initiate, or a complete-access read, on any path. -/
  | sdoUpload (q : Req) (idx : Nat) (sub : Nat) (complete : Bool) (segmented : Bool)
  /-- SDO_DOWNLOAD_SEGMENT (R337). A download segment arrives; the last segment makes the write take effect. -/
  | sdoDownloadSegment (q : Req) (toggle : Bool) (last : Bool) (data : Bytes)
  /-- SDO_UPLOAD_SEGMENT (R337). An upload segment returns the next bytes of the value taken at initiate. -/
  | sdoUploadSegment (q : Req) (toggle : Bool)
  /-- SDO_INFORMATION (R319). The dictionary engine answers an SDO information request. -/
  | sdoInformation (q : Req) (idx : Nat) (sub : Nat)
  /-- SDO_TRANSFER_TIMEOUT (R337). A segmented transfer idle for 1 s is aborted with 0x0504_0000. -/
  | sdoTransferTimeout (owner : Nat)
  /-- REGISTER_WRITE (R6). A write to an entry or register that has no row of its own takes effect by its change class after the access checks. -/
  | registerWrite (q : Req) (reg : Register) (v : Nat)
  /-- FOE_WRITE_STREAM (R334). An FoE write of file STREAM starts a stream load as O5. -/
  | foeWriteStream (t : Nat)
  /-- FOE_WRITE_FIRMWARE (R334). An FoE write of file FIRMWARE starts a firmware image write, or a recovery write in BOOT. -/
  | foeWriteFirmware (t : Nat)
  /-- FOE_READ_LOG (R428). An FoE read of file LOG returns the ring and then the pending entries. -/
  | foeReadLog
  /-- FOE_DATA_PACKET (R334). An FoE data packet is taken, or a wrong packet number aborts the transfer. -/
  | foeDataPacket (number : Nat) (bytes : Nat) (last : Bool)
  /-- SII_WRITE (R321). The master writes the alias or checksum word in INIT, or gets a command error. -/
  | siiWrite (word : Nat) (v : BitVec 16)
  /-- SII_READ (R321). The master reads the SII, which stays busy until entry to REDUCED. -/
  | siiRead (word : Nat)
  /-- ECAT_LINK_LOST (R349). A port's PHY reports link down. -/
  | ecatLinkLost (p : Nat)
  /-- ECAT_LINK_UP (R349). A port's PHY reports link up. -/
  | ecatLinkUp (p : Nat)
  /-- LOAD_FROM_HOST (R355). Load command 0x2E22 with source 1 reads a stream from host memory through a scatter list. -/
  | loadFromHost (q : Req) (serial : Nat) (addr : Nat) (entries : Nat)
  /-- LOAD_FROM_FLASH (R356). Load command 0x2E22 with source 2 reads a stream from the octal SPI flash. -/
  | loadFromFlash (q : Req) (serial : Nat) (addr : Nat)
  /-- BOOT_STREAM_LOAD (R372). The loader loads and commits the boot stream of directory entry 0 or 1 as O7 when the self-test ends. -/
  | bootStreamLoad
  /-- STREAM_HEADER_RECEIVED (R360). 128 bytes have arrived and the header stage checks them. -/
  | streamHeaderReceived (hdr : StreamHeader)
  /-- FRAMES (R358). A FRAMES command writes n frames into staging. -/
  | frames (addr : BitVec 32) (frames : List (BitVec 2048)) (set : List Setting)
  /-- FILL (R358). A FILL command writes one 256-byte frame to n consecutive frames. -/
  | fill (addr : BitVec 32) (n : Nat) (frame : BitVec 2048) (set : List Setting)
  /-- REGION (R358). A REGION command stages a region's ratio, partition and window bindings. -/
  | region (r : Nat) (word : BitVec 32)
  /-- TABLE (R358). A TABLE command stages a region's slot table. -/
  | table (r : Nat) (entries : List (BitVec 64))
  /-- CONTRACT (R358). A CONTRACT command stages a partition's frame exponent. -/
  | contract (p : Nat) (k : Nat)
  /-- PDMAP (R358). A PDMAP command stages a region's process word assignments. -/
  | pdmap (r : Nat) (outMask : BitVec 256) (inMask : BitVec 256)
  /-- END (R358). The END command closes the stream body. -/
  | streamEnd
  /-- STREAM_TAG_CHECK (R360). The tag arrives, is verified, and the content checks report; the stream is staged or refused. -/
  | streamTagCheck (tagOk : Bool) (extra : Nat)
  /-- STREAM_CUT_SHORT (R360). The source ends before the declared length and the load fails with code 10. -/
  | streamCutShort
  /-- TWIN_REBUILD_END (R353). The rebuild of a region's twin from the active plane ends and its invalid bit clears. -/
  | twinRebuildEnd (r : Nat)
  /-- COMMIT_NEXT_BOUNDARY (R364). A commit in mode 0 waits for its conditions and takes the next frame boundary. -/
  | commitNextBoundary (q : Req) (serial : Nat) (mask : BitVec 8)
  /-- COMMIT_AT_FRAME (R364). A commit in mode 1 targets the frame in 0x2210:04. -/
  | commitAtFrame (q : Req) (serial : Nat) (mask : BitVec 8) (target : Nat)
  /-- COMMIT_AT_INSTANT (R364). A commit in mode 2 targets the tick in 0x2210:04. -/
  | commitAtInstant (q : Req) (serial : Nat) (mask : BitVec 8) (target : Nat)
  /-- COMMIT_GATE (R370). A commit in mode 3 waits for its conditions and then for GATE. -/
  | commitGate (q : Req) (serial : Nat) (mask : BitVec 8)
  /-- COMMIT_CANCEL (R368). A write of TRUE to 0x2211:01 ends a busy commit before t_c - 64. -/
  | commitCancel (q : Req)
  /-- COMMIT_CONDITIONS_MET (R365). Every condition of a waiting mode-0 or mode-3 commit holds and its instant is set or GATE is released. -/
  | commitConditionsMet
  /-- COMMIT_FREEZE (R366). At t_c - 64 the conditions are checked and staging is frozen; the commit cannot be cancelled. -/
  | commitFreeze
  /-- COMMIT_RESET_ASSERT (R366). At t_c - 48 the vanes flush, hub ports close and the regions' hard reset is asserted; the planes are copied. -/
  | commitResetAssert
  /-- COMMIT_INSTANT (R366). At t_c the islands switch, banks change mode, assignments change and the contract is armed or cleared. -/
  | commitInstant
  /-- COMMIT_RELEASE (R366). At the release edge the hard reset is released, queues reset, groups may start and poison ends. -/
  | commitRelease
  /-- GATE_DRIVE_CHANGE (R369). At a tick with count mod 65,536 = 32,768 the device changes its GATE drive. -/
  | gateDriveChange
  /-- GATE_SAMPLE (R370). At a tick with count mod 65,536 = 0 a waiting GATE commit samples GATE and sets t_c when it is high. -/
  | gateSample (high : Bool)
  /-- GATE_WAIT_LIMIT (R380). GATE stays low for the wait limit while a mode-3 commit is ready; 0x40C0_0007 is logged once. -/
  | gateWaitLimit
  /-- FRAME_CHECK (R385). Watchtower reads a frame in its slot, compares its CRC and repairs it from the twin or the syndrome. -/
  | frameCheck (flips : List Nat) (twinFlips : List Nat) (crc : EccOutcome)
  /-- PASS_END (R384). A readback pass ends and Watchtower sends its heartbeat to Lantern. -/
  | passEnd (us : Nat)
  /-- HEARTBEAT_MISSED (R392). No heartbeat arrives within 600 ms, which is a chip-level fault. -/
  | heartbeatMissed
  /-- VOTER_MISMATCH (R391). A triplicated Watchtower register disagrees; it is corrected, or Watchtower stops. -/
  | voterMismatch (all : Bool)
  /-- ON_CHIP_SCRUB_ACCESS (R393). Patrol scrub reads an on-chip memory word in a maintenance cycle. -/
  | onChipScrubAccess (u : MemUnit) (addr : Nat) (err : EccOutcome) (t : Nat)
  /-- SCRUB_PERIOD_END (R394). A sweep period ends before its sweep and the sweep is counted as starved. -/
  | scrubPeriodEnd (dram : Bool) (unit : Nat)
  /-- SELF_TEST_STEP_END (R395). One step of one quarter of the power-up or closing test ends and the next begins. -/
  | selfTestStepEnd (failures : List (BitVec 64)) (patterns : Nat)
  /-- TEST_BLOCK_MEMORIES (R402). Action 1 of 0x2E29 tests the 8 block memories of one block. -/
  | testBlockMemories (q : Req) (serial : Nat) (r : Nat) (b : Nat)
  /-- TEST_SCRATCHPAD_BANK (R402). Action 2 of 0x2E29 tests one scratchpad bank. -/
  | testScratchpadBank (q : Req) (serial : Nat) (r : Nat) (b : Nat)
  /-- TEST_GROUP_MEMORIES (R402). Action 3 of 0x2E29 tests the memories of one slice group. -/
  | testGroupMemories (q : Req) (serial : Nat) (r : Nat) (b : Nat)
  /-- TEST_DRAM_CHANNEL (R402). Action 4 of 0x2E29 tests one DRAM channel. -/
  | testDramChannel (q : Req) (serial : Nat) (c : Nat)
  /-- ACCEPT_POWER_UP_RESULT (R397). Action 5 of 0x2E29 lets O0 accept result 2, excluding failed regions and setting selftest_ok. -/
  | acceptPowerUpResult (q : Req) (serial : Nat)
  /-- ON_DEMAND_TEST_END (R403). An on-demand test ends, reports failures in 0x2982 and frees the unit. -/
  | onDemandTestEnd (failures : List (BitVec 64)) (us : Nat)
  /-- FLASH_WRITE_IMAGE (R417). Action 1 of 0x2E2A writes a firmware image into the slot not running. -/
  | flashWriteImage (q : Req) (serial : Nat) (addr : Nat) (entries : Nat)
  /-- CONFIRM_IMAGE (R418). Action 2 of 0x2E2A marks the running image as confirmed. -/
  | confirmImage (q : Req) (serial : Nat)
  /-- ADVANCE_ROLLBACK (R418). Action 3 of 0x2E2A burns fuses up to the running image's rollback index. -/
  | advanceRollback (q : Req) (serial : Nat)
  /-- WRITE_BOOT_STREAM_ENTRY0 (R419). Action 4 of 0x2E2A writes a boot stream and then directory entry 0. -/
  | writeBootStreamEntry0 (q : Req) (serial : Nat) (addr : Nat) (entries : Nat)
  /-- WRITE_BOOT_STREAM_ENTRY1 (R419). Action 5 of 0x2E2A writes a boot stream and then directory entry 1. -/
  | writeBootStreamEntry1 (q : Req) (serial : Nat) (addr : Nat) (entries : Nat)
  /-- FLASH_OPERATION_END (R417). A flash write ends; the image is read back and made pending, or the directory entry is rewritten. -/
  | flashOperationEnd (out : FlashOutcome)
  /-- SENSOR_SAMPLE (R422). Every 100 us the sensors are read and warnings, sensor failures and thermal faults are judged. -/
  | sensorSample (readings : List (Option Int)) (t : Nat)
  /-- WATCHDOG_KICK (R429). The kick sequence reloads the watchdog, and any other value is an immediate expiry. -/
  | watchdogKick (v : BitVec 32)
  /-- WATCHDOG_TIMEOUT_WRITE (R429). A write of 0x2030:01 sets the timeout and reloads the counter. -/
  | watchdogTimeoutWrite (q : Req) (v : Nat)
  /-- WATCHDOG_EXPIRY (R430). The watchdog expires; this is a chip-level fault outside BOOT and Lantern's core restarts. -/
  | watchdogExpiry (t : Nat)
  /-- SRAM_ERROR (R410). Lantern's SRAM finds a single-bit error, corrected and written back, or an uncorrectable one that acts as an expiry. -/
  | sramError (uncorrectable : Bool) (t : Nat)
  /-- LOG_RING_WRITE (R426). Lantern writes pending entries to the flash ring, oldest first. -/
  | logRingWrite (n : Nat)
  /-- LOG_READ (R428). A read of 0x2B01:01 returns entries from the read sequence and advances it. -/
  | logRead (q : Req)
  /-- CLEAR_STICKY (R425). A write of 0x2002:02 clears the sticky health bits written as 1. -/
  | clearSticky (q : Req) (mask : BitVec 32)
  /-- INSTALL_KEY (R434). Action 1 of 0x2E2C unwraps a blob and stores a stream key in a slot. -/
  | installKey (q : Req) (serial : Nat) (slot : Nat) (blob : Bytes)
  /-- DELETE_KEY (R435). Action 2 of 0x2E2C deletes a stream key slot. -/
  | deleteKey (q : Req) (serial : Nat) (slot : Nat)
  /-- REVOKE_KEY (R434). Action 3 of 0x2E2C burns a slot's revocation fuse. -/
  | revokeKey (q : Req) (serial : Nat) (slot : Nat)
  /-- IDCODE (R439). The IDCODE instruction shifts out 0x2AE8_1C4B. -/
  | idcode
  /-- SAMPLE_PRELOAD (R439). The SAMPLE/PRELOAD instruction samples the balls; preload has no effect. -/
  | samplePreload (balls : Bytes)
  /-- BYPASS (R439). BYPASS, and every other code, selects the 1-bit bypass register. -/
  | bypass (code : BitVec 8) (bit : Bool)
  /-- DMBOX_READ (R441). A DMBOX scan with op 0b01 reads a mailbox offset as O6. -/
  | dmboxRead (offset : Nat)
  /-- DMBOX_WRITE (R441). A DMBOX scan with op 0b10 writes a mailbox offset as O6. -/
  | dmboxWrite (offset : Nat) (data : BitVec 32)
  /-- DMBOX_POLL (R441). A DMBOX scan with op 0b00 only shifts out the result of the previous operation. -/
  | dmboxPoll
  /-- TRDRAIN (R442). A TRDRAIN capture removes up to 8 bytes from the debug-port trace sink. -/
  | trdrain
  /-- DEBUG_SESSION_OPEN (R440). A write of TRUE to 0x2C00:01 opens the JTAG access path. -/
  | debugSessionOpen (q : Req)
  /-- DEBUG_SESSION_CLOSE (R440). A write of FALSE to 0x2C00:01 ends the session, clears the watchdog hold and reloads the watchdog. -/
  | debugSessionClose (q : Req)
  /-- TAP_RESET (R440). TRST_N low or Test-Logic-Reset ends the debug session. -/
  | tapReset
  /-- HALT (R443). Action 1 of 0x2E2D schedules a halt of the partition at tick t_h. -/
  | halt (q : Req) (serial : Nat) (r : Nat)
  /-- RESUME (R446). Action 2 of 0x2E2D schedules the restart of a halted partition. -/
  | resume (q : Req) (serial : Nat) (r : Nat)
  /-- STEP (R447). Action 3 of 0x2E2D runs a halted partition for n ticks and halts it again. -/
  | step (q : Req) (serial : Nat) (r : Nat) (n : Nat)
  /-- HALT_TICK (R443). At t_h the island clocks are gated, freeze options apply and an ARMED contract becomes SUSPENDED. -/
  | haltTick (r : Nat)
  /-- RESTART_TICK (R446). At the restart tick the islands run again and a SUSPENDED contract becomes ARMED. -/
  | restartTick (r : Nat)
  /-- MONITOR_ENTER (R449). Action 1 of 0x2C02:04 takes Lantern's core into its monitor. -/
  | monitorEnter (q : Req)
  /-- EBREAK (R449). EBREAK with 0x2C02:06 TRUE takes Lantern's core into its monitor. -/
  | ebreak (pc : BitVec 32)
  /-- BREAKPOINT_MATCH (R449). A hardware breakpoint comparator matches and Lantern's core enters its monitor. -/
  | breakpointMatch (unit : Nat) (pc : BitVec 32)
  /-- MONITOR_RESUME (R449). Action 2 of 0x2C02:04 sets the resume request that the monitor reads. -/
  | monitorResume (q : Req)
  /-- WATCHDOG_HOLD (R431). A write of 0x2C02:03 holds or releases the watchdog; releasing reloads it. -/
  | watchdogHold (q : Req) (v : Bool)
  /-- OBSERVE_QUEUE_HEAD (R453). A read of 0x2C6x returns a queue head word without popping it while the region is halted. -/
  | observeQueueHead (q : Req) (r : Nat) (k : Nat)
  /-- OBSERVE_CAPTURE_HEAD (R453). A read of 0x2C8x returns a capture FIFO head entry without popping it while halted. -/
  | observeCaptureHead (q : Req) (bb : Nat) (n : Nat)
  /-- LANTERN_STIMULUS (R454). A write to a Lantern stimulus register emits a trace packet. -/
  | lanternStimulus (port : Nat) (len : Nat) (data : BitVec 32) (t : Nat)
  /-- FABRIC_STIMULUS (R455). stim_we emits a fabric stimulus packet. -/
  | fabricStimulus (r : Nat) (port : Nat) (len : Nat) (data : BitVec 32) (t : Nat)
  /-- PROBE_TRACE_SAMPLE (R457). The probe unit samples its selected concentrator outputs at a tick, and a packet is emitted where they differ from the previous sample. -/
  | probeTraceSample (t : Nat)
  /-- TRACE_ENABLE (R458). A write of 0x2C10:02 starts or stops trace. -/
  | traceEnable (q : Req) (v : Bool)
  /-- TRACE_PACKET_WRITE (R458). The trace path writes one packet, or a loss packet, from its FIFO to the sink. -/
  | tracePacketWrite (err : Nat) (t : Nat)
  /-- TRIGGER_FIRE (R460). An armed trigger's source matches; it performs its actions and disarms. -/
  | triggerFire (n : Nat) (t : Nat)
  /-- INJECTION_ENABLE (R486). A write of 0x2DFF:01 enables injection, or disables it and discards armed injections and overrides. -/
  | injectionEnable (q : Req) (v : Bool)
  /-- INJECT_SELF_TEST_FAILURE (R408). 0x2D00:01 adds a failure entry to the next test of its unit. -/
  | injectSelfTestFailure (q : Req) (v : BitVec 64)
  /-- INJECT_CLOSING_TEST_CUT_SHORT (R408). 0x2D00:02 stops the next closing test after a given completion index. -/
  | injectClosingTestCutShort (q : Req) (v : Nat)
  /-- INJECT_CLOCK_SWITCH_STALL (R136). 0x2D10:03 arms a 64-cycle stall on the next switch of the target net. -/
  | injectClockSwitchStall (q : Req)
  /-- INJECT_MEMORY_BIT_FLIP (R177). Code 1 of 0x2D20:04 flips the target bit of a memory word. -/
  | injectMemoryBitFlip (q : Req)
  /-- INJECT_MEMORY_DOUBLE_FLIP (R177). Code 2 of 0x2D20:04 flips the target bit and the next bit of its codeword. -/
  | injectMemoryDoubleFlip (q : Req)
  /-- INJECT_WRITE_POINTER_MISMATCH (R199). Code 1 of 0x2D30:03 corrupts a write pointer copy. -/
  | injectWritePointerMismatch (q : Req)
  /-- INJECT_READ_POINTER_MISMATCH (R199). Code 2 of 0x2D30:03 corrupts a read pointer copy. -/
  | injectReadPointerMismatch (q : Req)
  /-- INJECT_ILLEGAL_INSTRUCTION (R238). Code 1 of 0x2D40:04 makes the next issued instruction illegal. -/
  | injectIllegalInstruction (q : Req)
  /-- INJECT_COEFFICIENT_BIT_FLIP (R238). Code 2 of 0x2D40:04 flips data bit 0 of a coefficient element. -/
  | injectCoefficientBitFlip (q : Req)
  /-- INJECT_COEFFICIENT_DOUBLE_FLIP (R238). Code 3 of 0x2D40:04 flips data bits 0 and 1 of a coefficient element. -/
  | injectCoefficientDoubleFlip (q : Req)
  /-- INJECT_INSTRUCTION_BIT_FLIP (R238). Code 4 of 0x2D40:04 flips bit 0 of an instruction word. -/
  | injectInstructionBitFlip (q : Req)
  /-- INJECT_INSTRUCTION_DOUBLE_FLIP (R238). Code 5 of 0x2D40:04 flips bits 0 and 1 of an instruction word. -/
  | injectInstructionDoubleFlip (q : Req)
  /-- INJECT_UNLOCK (R155). 0x2D50:02 raises the unlock indicator of the target region. -/
  | injectUnlock (q : Req)
  /-- INJECT_SOURCE_LOSS (R78). 0x2D60:01 discards Belfry's measurements as if the source were absent. -/
  | injectSourceLoss (q : Req) (v : Bool)
  /-- INJECT_PPS_DISPLACEMENT (R78). 0x2D60:02 displaces the measured instant of every PPS_IN edge. -/
  | injectPpsDisplacement (q : Req) (v : BitVec 32)
  /-- INJECT_MISS_CROSSING_LATE (R106). Cause 1 of 0x2D62:02 injects a late crossing at the next receive entry. -/
  | injectMissCrossingLate (q : Req)
  /-- INJECT_MISS_BANK_CONFLICT (R106). Cause 2 of 0x2D62:02 injects a bank conflict at the next class 0x3 entry. -/
  | injectMissBankConflict (q : Req)
  /-- INJECT_MISS_UNPLANNED_BANK (R106). Cause 3 of 0x2D62:02 injects an unplanned bank access at once. -/
  | injectMissUnplannedBank (q : Req)
  /-- INJECT_MISS_HUB_NOT_READY (R106). Cause 4 of 0x2D62:02 injects hub not ready at the next request entry. -/
  | injectMissHubNotReady (q : Req)
  /-- INJECT_MISS_WINDOW_TARGET (R106). Cause 5 of 0x2D62:02 injects a window target miss at the next request entry. -/
  | injectMissWindowTarget (q : Req)
  /-- INJECT_MISS_HUB_LATE (R106). Cause 6 of 0x2D62:02 injects hub late at the next return entry. -/
  | injectMissHubLate (q : Req)
  /-- INJECT_MISS_QUEUE_STALL (R106). Cause 7 of 0x2D62:02 injects a queue stall at the next class 0x6 entry. -/
  | injectMissQueueStall (q : Req)
  /-- INJECT_MISS_VANE_LATE (R106). Cause 8 of 0x2D62:02 injects a vane-late miss at once. -/
  | injectMissVaneLate (q : Req)
  /-- INJECT_MISS_SEQUENCER_OVERRUN (R106). Cause 9 of 0x2D62:02 injects a sequencer overrun at once. -/
  | injectMissSequencerOverrun (q : Req)
  /-- INJECT_VANE_LATE (R78). Code 1 of 0x2D70:02 injects a late word at the target test point. -/
  | injectVaneLate (q : Req)
  /-- INJECT_VANE_OUT_OF_ORDER (R78). Code 2 of 0x2D70:02 injects an out-of-order word. -/
  | injectVaneOutOfOrder (q : Req)
  /-- INJECT_VANE_FIFO_OVERFLOW (R78). Code 3 of 0x2D70:02 injects a capture FIFO overflow. -/
  | injectVaneFifoOverflow (q : Req)
  /-- INJECT_VANE_RATE_VIOLATION (R78). Code 4 of 0x2D70:02 injects a rate violation. -/
  | injectVaneRateViolation (q : Req)
  /-- INJECT_VANE_CONTENTION (R78). Code 5 of 0x2D70:02 injects pin contention. -/
  | injectVaneContention (q : Req)
  /-- INJECT_VANE_VCCO_FAULT (R78). Code 6 of 0x2D70:02 injects a VCCO fault. -/
  | injectVaneVccoFault (q : Req)
  /-- INJECT_VANE_CALIBRATION_LIMIT (R78). Code 7 of 0x2D70:02 injects calibration beyond limit. -/
  | injectVaneCalibrationLimit (q : Req)
  /-- INJECT_DRAM_CORRECTABLE (R267). Code 1 of 0x2D80:02 injects a correctable error on the channel's next read. -/
  | injectDramCorrectable (q : Req)
  /-- INJECT_DRAM_UNCORRECTABLE (R267). Code 2 of 0x2D80:02 injects an uncorrectable error on the next read. -/
  | injectDramUncorrectable (q : Req)
  /-- INJECT_DRAM_CRC_ERROR (R267). Code 3 of 0x2D80:02 injects CRC errors on the next write and its retries. -/
  | injectDramCrcError (q : Req)
  /-- INJECT_TRAINING_FAILURE (R267). Code 4 of 0x2D80:02 fails the channel's next training. -/
  | injectTrainingFailure (q : Req)
  /-- INJECT_DIMM_TEMPERATURE (R267). 0x2D80:03 overrides the temperature reported for DIMM 0 of the target. -/
  | injectDimmTemperature (q : Req) (v : BitVec 16)
  /-- INJECT_DIMM_SENSOR_FAILURE (R267). 0x2D80:04 makes sideband reads of the target's sensors fail. -/
  | injectDimmSensorFailure (q : Req) (v : Bool)
  /-- INJECT_TAG_FAILURE (R295). Code 1 of 0x2D90:03 fails the tag of the next verified read in the target region. -/
  | injectTagFailure (q : Req)
  /-- INJECT_METADATA_UNCORRECTABLE (R295). Code 2 of 0x2D90:03 injects an uncorrectable error in a metadata line at the target level. -/
  | injectMetadataUncorrectable (q : Req)
  /-- INJECT_MINOR_OVERFLOW (R295). Code 3 of 0x2D90:03 makes the next write overflow. -/
  | injectMinorOverflow (q : Req)
  /-- INJECT_MAJOR_WRAP (R295). Code 4 of 0x2D90:03 makes the next overflow wrap the major counter. -/
  | injectMajorWrap (q : Req)
  /-- INJECT_CACHE_CORRECTABLE (R295). Code 5 of 0x2D90:03 injects a correctable cache error on the next hit. -/
  | injectCacheCorrectable (q : Req)
  /-- INJECT_PCIE_LINK_DOWN (R318). Code 1 of 0x2DA0:03 takes the target port's link down. -/
  | injectPcieLinkDown (q : Req)
  /-- INJECT_DMA_ERROR (R318). Code 2 of 0x2DA0:03 gives error code 1 to the channel's next request. -/
  | injectDmaError (q : Req)
  /-- INJECT_DOORBELL_OVERRUN (R318). Code 3 of 0x2DA0:03 injects a doorbell overrun on the channel. -/
  | injectDoorbellOverrun (q : Req)
  /-- INJECT_ECAT_LINK_LOSS (R350). Code 1 of 0x2DB0:02 drops the target port's link for 10 ms. -/
  | injectEcatLinkLoss (q : Req)
  /-- INJECT_SM_WATCHDOG (R350). Code 2 of 0x2DB0:02 expires the SM2 watchdog. -/
  | injectSmWatchdog (q : Req)
  /-- INJECT_EVENT_MISSED (R350). Code 3 of 0x2DB0:02 counts the next E as missed. -/
  | injectEventMissed (q : Req)
  /-- INJECT_MAILBOX_REPEAT (R350). Code 4 of 0x2DB0:02 treats the next mailbox write as a repeat. -/
  | injectMailboxRepeat (q : Req)
  /-- INJECT_STREAM_TAG_FAILURE (R382). Code 1 of 0x2DC0:01 fails the next stream's tag. -/
  | injectStreamTagFailure (q : Req)
  /-- INJECT_STREAM_CUT_SHORT (R382). Code 2 of 0x2DC0:01 cuts the next stream short after 4,096 body bytes. -/
  | injectStreamCutShort (q : Req)
  /-- INJECT_STANDBY_LOCK_FAILURE (R382). Code 3 of 0x2DC0:01 fails the next standby lock. -/
  | injectStandbyLockFailure (q : Req)
  /-- INJECT_BOOT_DIRECTORY_EMPTY (R382). Code 4 of 0x2DC0:01 makes directory entry 0 read as empty at the next boot. -/
  | injectBootDirectoryEmpty (q : Req)
  /-- INJECT_FRAME_BIT_FLIP (R408). Code 1 of 0x2DD0:02 flips 1 active bit of the target frame. -/
  | injectFrameBitFlip (q : Req)
  /-- INJECT_FRAME_TRIPLE_FLIP (R408). Code 2 of 0x2DD0:02 flips 3 active bits of the target frame. -/
  | injectFrameTripleFlip (q : Req)
  /-- INJECT_FRAME_AND_TWIN_FLIP (R408). Code 3 of 0x2DD0:02 flips 3 active and 3 twin bits. -/
  | injectFrameAndTwinFlip (q : Req)
  /-- INJECT_FRAME_STUCK_BIT (R408). Code 4 of 0x2DD0:02 holds 1 active bit stuck until the next commit. -/
  | injectFrameStuckBit (q : Req)
  /-- INJECT_WITHHELD_HEARTBEAT (R408). Code 5 of 0x2DD0:02 withholds one heartbeat. -/
  | injectWithheldHeartbeat (q : Req)
  /-- INJECT_PASS_POINTER_CORRUPTION (R408). Code 6 of 0x2DD0:02 corrupts one copy of the pass pointer. -/
  | injectPassPointerCorruption (q : Req)
  /-- INJECT_CRC_SINGLE_ERROR (R487). Code 1 of 0x2DD1:02 injects a single-bit error into the target's active CRC. -/
  | injectCrcSingleError (q : Req)
  /-- INJECT_CRC_UNCORRECTABLE (R487). Code 2 of 0x2DD1:02 injects an uncorrectable error into the target's active CRC. -/
  | injectCrcUncorrectable (q : Req)
  /-- INJECT_SENSOR_FAILURE (R438). Code 1 of 0x2DE0:03 fails the target sensor. -/
  | injectSensorFailure (q : Req)
  /-- INJECT_POWER_FAULT (R438). Code 2 of 0x2DE0:03 injects a power fault of the target domain. -/
  | injectPowerFault (q : Req)
  /-- INJECT_CLOCK_LOSS (R438). Code 3 of 0x2DE0:03 injects a clock loss of the target domain. -/
  | injectClockLoss (q : Req)
  /-- INJECT_WATCHDOG_EXPIRY (R438). Code 4 of 0x2DE0:03 injects a watchdog expiry. -/
  | injectWatchdogExpiry (q : Req)
  /-- INJECT_SRAM_UNCORRECTABLE (R438). Code 5 of 0x2DE0:03 injects an uncorrectable SRAM error. -/
  | injectSramUncorrectable (q : Req)
  /-- INJECT_SRAM_CORRECTABLE (R438). Code 6 of 0x2DE0:03 injects a correctable SRAM error. -/
  | injectSramCorrectable (q : Req)
  /-- INJECT_SENSOR_TEMPERATURE (R438). 0x2DE0:02 overrides the temperature reported for the target sensor. -/
  | injectSensorTemperature (q : Req) (v : BitVec 16)
  /-- INJECT_TRACE_SINK_ERROR (R469). Code 1 of 0x2DF0:01 makes the next DRAM sink write end with error code 1. -/
  | injectTraceSinkError (q : Req)
  /-- INJECT_TRACE_PACKET_DROP (R469). Code 2 of 0x2DF0:01 drops the next trace packet. -/
  | injectTracePacketDrop (q : Req)
  /-- INJECT_TRIGGER_FIRE (R469). Code 3 of 0x2DF0:01 fires trigger 0 at once if it is armed. -/
  | injectTriggerFire (q : Req)
  /-- CLOCK_RETURN (R18). A clock that its monitor reported lost comes back within +-10 % of its set frequency, so the loss condition clears. -/
  | clockReturn (c : Nat)
  /-- VOLTAGE_RETURN (R21). A domain supply that its monitor reported outside its limits comes back within them, so the power fault condition clears. -/
  | voltageReturn (d : Nat)
  /-- SM1_MAILBOX_READ (R335). The master reads the SM1 mailbox-in buffer, which frees it for the next waiting response or CoE emergency. -/
  | sm1MailboxRead
  /-- UNSCHEDULED_TOKEN_DELIVERY (R147). An unscheduled token is delivered to the receiving region in sending order, no earlier than 3 receiver cycles after it was sent and with no upper bound; a receiver held in reset loses it. -/
  | unscheduledTokenDelivery (l : Lane) (t : Nat)
  deriving DecidableEq, Repr

end Sys2Proof
end

