-- ==== Sys2Proof/Machine/Routing.lean ====
section
/-! DEFINITION. The fabric as its configuration names it: clusters and blocks, the functions of a cell, the reach of the
routing wires and what a routing multiplexer may take (R107, R108, R112 to R115). -/

namespace Sys2Proof.Machine

open Sys2Proof

/-! ### Geometry (R107) -/

/-- The block that holds cluster (x, y). -/
def blockOf (x y : Nat) : Nat := y / 32 * 8 + x / 16

/-- The first cluster of a block; the block covers 16 columns and 32 rows from it. -/
def blockX (b : Nat) : Nat := 16 * (b % 8)
def blockY (b : Nat) : Nat := 32 * (b / 8)

/-- A cluster of a region, and a cell of it. -/
def clusterOk (x y : Nat) : Bool := decide (x < 128) && decide (y < 256)
def cellOk (x y k : Nat) : Bool := clusterOk x y && decide (k < 8)

/-! ### The cell (R108, R112) -/

/-- Outputs Y and Z of a lookup table for L5 to L0. -/
def lutY (t : Lut) (l : BitVec 6) : Bool :=
  match t with
  | .whole f => f.getLsbD l.toNat
  | .split y _ => y.getLsbD (l.toNat % 32)
def lutZ (t : Lut) (l : BitVec 6) : Bool :=
  match t with
  | .whole f => f.getLsbD (l.toNat % 32)
  | .split _ z => z.getLsbD (l.toNat % 16 + 16 * (l.getLsbD 5).toNat)

/-- The sum and the carry out of a carry stage with propagate Y and generate Z. -/
def carrySum (y cin : Bool) : Bool := y ^^ cin
def carryOut (y z cin : Bool) : Bool := z || (y && cin)

/-! ### Wires (R113, R114) -/

def segLength : SegKind → Nat
  | .l1 => 1 | .l2 => 2 | .l4 => 4 | .l8 => 8 | .l16 => 16

/-- Wires of a kind that start at a cluster in one direction. -/
def segWires : SegKind → Nat
  | .l1 | .l2 | .l4 => 8
  | .l8 | .l16 => 4

/-- The cluster that a segmented wire reaches: at most the last cluster of the region. -/
def segEnd (kind : SegKind) (x y dir : Nat) : Nat × Nat :=
  let n := segLength kind
  match dir with
  | 0 => (x, min 255 (y + n))
  | 1 => (min 127 (x + n), y)
  | 2 => (x, y - n)
  | _ => (x - n, y)

/-- A wire of a region. -/
def wireOk : Wire → Bool
  | .seg kind x y dir i => clusterOk x y && decide (dir < 4) && decide (i < segWires kind)
  | .hspine s y i => decide (s < 2) && decide (y < 256) && decide (i < 16)
  | .vspine x s i => decide (x < 128) && decide (s < 4) && decide (i < 16)
  | .local x y i => clusterOk x y && decide (i < 16)

/-- Cluster (x, y) can take the wire: the far end of a segmented wire, any cluster along a spine segment. -/
def wireTaps (w : Wire) (x y : Nat) : Bool :=
  match w with
  | .seg kind a b dir _ => segEnd kind a b dir == (x, y)
  | .hspine s b _ => y == b && x / 64 == s
  | .vspine a s _ => x == a && y / 64 == s
  | .local a b _ => x == a && y == b

/-- A source that cluster (x, y) can take. -/
def sourceTaps (s : Source) (x y : Nat) : Bool :=
  match s with
  | .cell a b _ _ => x == a && y == b
  | .hard a b _ => x == a && y == b
  | .wire w => wireTaps w x y

/-! ### Multiplexers (R113, R115) -/

/-- A multiplexer of the sink can have the source as an input: a local wire takes cell outputs of its cluster, a spine takes
sources of any cluster along its segment, everything else takes sources of its own cluster. -/
def sinkTakes (k : Sink) (s : Source) : Bool :=
  match k with
  | .wire (.local x y _) => (match s with | .cell .. => sourceTaps s x y | _ => false)
  | .wire (.seg _ x y _ _) => sourceTaps s x y
  | .wire (.hspine sg y _) => (List.range 64).any fun i => sourceTaps s (sg * 64 + i) y
  | .wire (.vspine x sg _) => (List.range 64).any fun i => sourceTaps s x (sg * 64 + i)
  | .enable x y _ => sourceTaps s x y
  | .cellIn x y _ _ => sourceTaps s x y

/-- A sink of a region. -/
def sinkOk : Sink → Bool
  | .wire w => wireOk w
  | .enable x y e => clusterOk x y && decide (e < 4)
  | .cellIn x y k pin => cellOk x y k && decide (pin < 7)

/-- A source of a region. -/
def sourceOk : Source → Bool
  | .cell x y k _ => cellOk x y k
  | .wire w => wireOk w
  | .hard x y _ => clusterOk x y

/-- The bits of a multiplexer's select: ceil(log2 m) for m inputs. -/
def selectBits (m : Nat) : Nat := if m ≤ 1 then 0 else Nat.log2 (m - 1) + 1

/-- The input that a select code chooses; none for constant 0: code 0, and a code of at least m (R115). -/
def muxInput (inputs : List Source) (sel : Nat) : Option Source := if sel = 0 then none else inputs[sel]?

/-! ### Well-formed settings -/

/-- A divider tap (R117). -/
def divisorOk (d : Nat) : Bool := d == 1 || d == 2 || d == 4 || d == 8 || d == 16

/-- An input of a net: a divider tap of its own, or the output of a lower-numbered net (R117). -/
def netInputOk (n d : Nat) (src : Option Nat) : Bool :=
  match src with
  | none => divisorOk d
  | some s => decide (s < n)

/-- A setting names units that the device has, and no connection that its multiplexers cannot make. -/
def settingOk : Setting → Bool
  | .bmMode r b m _ net => decide (r < 32) && decide (b < 64) && decide (m < 8) && decide (net < 16)
  | .queue r k mode width _ _ => decide (r < 32) && decide (k < 16) && decide (mode < 8) && decide (width < 4)
  | .group r b net .. => decide (r < 32) && decide (b < 64) && decide (net < 16)
  | .net r n divA divB srcA srcB _ =>
    decide (r < 32) && decide (1 ≤ n) && decide (n < 16) && netInputOk n divA srcA && netInputOk n divB srcB
  | .bankUse bb => decide (bb < 24)
  | .reflex tp out oe => decide (tp < 1536) && sourceOk out && sourceOk oe
  | .rfxOeConst tp => decide (tp < 1536)
  | .driveWords tp => decide (tp < 1536)
  | .probeInput r b m n src =>
    decide (r < 32) && decide (b < 64) && decide (m < 2) && decide (n < 56) &&
      match src with
      | .cell x y k _ => cellOk x y k && blockOf x y == b
      | _ => false
  | .boundaryDefault r b src _ => decide (r < 32) && decide (b < 64) && sourceOk src
  | .cell r x y k _ => decide (r < 32) && cellOk x y k
  | .cluster r x y k0 k1 => decide (r < 32) && clusterOk x y && decide (k0 < 16) && decide (k1 < 16)
  | .carryIn r x _ => decide (r < 32) && decide (x < 128)
  | .route r sink inputs sel =>
    decide (r < 32) && sinkOk sink && decide (sel < 2 ^ selectBits inputs.length) &&
      inputs.all fun s => sourceOk s && sinkTakes sink s

end Sys2Proof.Machine
end

