-- ==== Sys2Proof/Config.lean ====
section
/-! DEFINITION. The free values: what the manual leaves open, as constants without a body, so that nothing can be
proved of the value of one. A first Nat argument is the free-value counter of the state, unless said otherwise. -/

namespace Sys2Proof.Config

/-- Data of a block memory access that a collision made undefined (R160). -/
opaque collisionData : Nat → BitVec 40

/-- A byte of DRAM that nothing has written since the last training or define (R243, R269): by training epoch and hub
address. -/
opaque dramByte : Nat → Nat → BitVec 8

/-- The phase of an island within its window, before it is limited to 0 to 500 ps (R139): by the free-value counter of the
switch or restart that fixed it (none: the phase of power-up) and the region. -/
opaque phaseOffset : Option Nat → Nat → Nat

/-- A word of an on-chip memory whose contents are undefined after an on-demand test ended early (R403): by epoch and
word address. -/
opaque undefinedWord : Nat → Nat → BitVec 256

/-- Whether a deviation shorter than 500 ps is detected (R63). -/
opaque shortDeviationSeen : Nat → Bool

/-- Whether a second of the always-on oscillator ends within an idle step (R17, R396), by counter. -/
opaque secondPasses : Nat → Bool

/-- A slot of the trace buffer that no packet has filled since trace was last disabled (R459). -/
opaque traceSlot : Nat → BitVec 128

/-- The device public key of the Keep (R432, R436): by byte number. -/
opaque devicePublicKey : Nat → BitVec 8

/-- Whether the Keep's AES-KW unwrap of a blob for a slot verifies (R434). -/
opaque blobUnwraps : Nat → List (BitVec 8) → Bool

/-- The serial number in the fuses (R432). -/
opaque serialNumber : BitVec 32

/-- The expected pattern count of a complete self-test at stepping 1.0 (R395, R399). -/
opaque expectedPatterns : Nat

/-- Which bits an injection of code 1 to 4 flips in a frame (R408): by counter and the number of the flip. -/
opaque injectedBit : Nat → Nat → Nat

/-- The value a dictionary read gives of a quantity that the device measures and no command has stated: the voltage of a
supply, the frequency of a clock, a temperature (R423). By counter. -/
opaque measured : Nat → Nat

/-- The levels of a bank's pins that the device does not drive, at a read of 0x24bb:0B (R53): by counter. -/
opaque pinLevels : Nat → BitVec 64

/-- The level at a test point that the device does not drive, at the edge that begins a region cycle (R64). -/
opaque ballLevel : Nat → Nat → Bool

/-- The text of a firmware version (0x100A, R346), whose form the manual does not give. -/
opaque versionText : Nat → List (BitVec 8)

/-- The 8 check bits of a block memory word of 32 data bits at a word address (R157; the code itself is not given). -/
opaque bmCheck : BitVec 32 → Nat → BitVec 8

/-- What a code finds in a word whose error pattern is neither clean, one bit nor two bits (R157, R164, R230): 0 clean,
1 uncorrectable, n + 2 a correction at bit n. By pattern and address. -/
opaque eccOutcome : Nat → Nat → Nat

/-- The bit position recorded for an uncorrectable word (0x25ii:18, R163), by error pattern. -/
opaque reportedBit : Nat → Nat

/-- Whether FP tininess is judged before rounding (R213 leaves it open, as IEEE 754 does). -/
opaque tinyBeforeRounding : Bool

/-- Whether a fused multiply-add of zero times infinity and a quiet NaN is invalid (R213, IEEE 754 7.2). -/
opaque fmaNanInvalid : Bool

/-- What conv of R214 gives for a shift above 79, which no rule states: by shift, mode bits and accumulator. -/
opaque convBeyond : Nat → Nat → BitVec 80 → BitVec 32

/-- The CoE frame of a response, whose layout the standard gives and the manual does not (R345): by kind of answer, code and
data. -/
opaque coeFrame : Nat → Nat → List (BitVec 8) → List (BitVec 8)

/-- The PC of Lantern's core when a monitor request takes it (R449), which follows from firmware that the model does not
run. -/
opaque lanternPc : Nat → BitVec 32

/-- The level that output n of a hard unit presents to routing at cluster (x, y) (the manual names no routing input of a hard
unit): by region, island cycle, x, y and n. -/
opaque hardLevel : Nat → Nat → Nat → Nat → Nat → Bool

/-- The level of a source inside a combinational loop, for which the manual gives none: by region and island cycle. -/
opaque loopLevel : Nat → Nat → Source → Bool

/-- The tag of a miss with cause 3 that a hub access outside every entry makes: R90 gives the tag for a bank alone. -/
opaque strayHubTag : Nat → Nat

/-- The data of a scheduled token of a send slot in which nothing was presented: it is marked not valid (R144). -/
opaque idleToken : Nat → BitVec 32

/-- The AES-256 keys that the Keep generates, in the order of their generation (R271). -/
opaque regionKey : Nat → BitVec 256

/-- The stream keys that the Keep has been given, in the order of their loading, and its record key (R357, R399). -/
opaque slotKey : Nat → BitVec 256
opaque recordKey : BitVec 256

end Sys2Proof.Config
end

