-- ==== Sys2Proof/Machine/DictTable.lean ====
section
/-! DEFINITION. The object dictionary's entries, from the object tables of the manual: index range, subindex range, type,
access, change class, owners, default and range of values. Where the Default column shows no number the entry holds 0
here, and the state says what it reads. -/

namespace Sys2Proof.Machine

/-- CoE basic types (00, Reading tables). -/
inductive Ty where
  | bool | u8 | u16 | u32 | u64 | i16 | i32 | i64 | vstr | octet
  deriving DecidableEq, Repr

/-- Access codes (R5). -/
inductive Acc where
  | ro | rw | wo
  deriving DecidableEq, Repr

/-- Change classes (R6). -/
inductive Chg where
  | none | live | stopped
  deriving DecidableEq, Repr

/-- What an Owner column adds to the owners that it lists: the owner of a partition (P), of every partition named (S),
an owner with the memory right (M), the owner of a protection region (Rg), an owner with the partition right, and the
owner C of R440. -/
inductive Scope where
  | none | part | stream | memory | region | partRight | config
  deriving DecidableEq, Repr

/-- The range an entry states. -/
inductive Rng where
  | any
  | le (hi : Nat)
  | btw (lo hi : Nat)
  /-- 0 to hi, or the one value all -/
  | orAll (hi all : Nat)
  /-- from minus lo to hi, of a signed type -/
  | sbtw (lo hi : Nat)
  /-- no bit outside the mask (R8) -/
  | mask (m : Nat)
  /-- a multiple of n -/
  | mult (n : Nat)
  /-- a multiple of 64, at least n -/
  | mult64 (n : Nat)
  /-- a multiple of n, from n to hi -/
  | multTo (n hi : Nat)
  /-- an octet string of n bytes -/
  | len (n : Nat)
  deriving DecidableEq, Repr

/-- One row of an object table. -/
structure Entry where
  lo : Nat
  hi : Nat
  sub : Nat
  subHi : Nat
  ty : Ty
  acc : Acc
  chg : Chg
  own : BitVec 8
  scope : Scope
  restricted : Bool
  dflt : Nat
  rng : Rng
  deriving DecidableEq, Repr

namespace DictTable

/-- A read-only entry. -/
def ro (lo hi sub subHi : Nat) (ty : Ty) (dflt : Nat) : Entry :=
  ⟨lo, hi, sub, subHi, ty, .ro, .none, 0xFF#8, .none, false, dflt, .any⟩

/-- Objects 0x1000 to 0x10FF, piece 1 (R346). -/
def page10a : List Entry :=
  [ ro 0x1000 0x1000 0x00 0x00 .u32 0  -- Device type
  , ro 0x1001 0x1001 0x00 0x00 .u8 0  -- Error register
  , ro 0x1008 0x1008 0x00 0x00 .vstr 0  -- Device name
  , ro 0x1009 0x1009 0x00 0x00 .vstr 0  -- Hardware version
  , ro 0x100A 0x100A 0x00 0x00 .vstr 0  -- Software version
  , ro 0x1018 0x1018 0x00 0x00 .u8 4  -- Highest subindex
  , ro 0x1018 0x1018 0x01 0x01 .u32 2686  -- Vendor ID
  , ro 0x1018 0x1018 0x02 0x02 .u32 2273  -- Product code
  , ro 0x1018 0x1018 0x03 0x03 .u32 65536  -- Revision
  , ro 0x1018 0x1018 0x04 0x04 .u32 0  -- Serial number
  , ro 0x10F1 0x10F1 0x00 0x00 .u8 2  -- Highest subindex
  , ro 0x10F1 0x10F1 0x01 0x01 .u32 0  -- Local error reaction
  , ⟨0x10F1, 0x10F1, 0x02, 0x02, .u16, .rw, .stopped, 0x21#8, .none, false, 4, .btw 1 15⟩  -- Sync error limit
  ]

/-- Objects 0x1600 to 0x16FF, piece 1 (R346). -/
def page16a : List Entry :=
  [ ro 0x1600 0x1603 0x00 0x00 .u8 64  -- RxPDO entries
  , ro 0x1600 0x1603 0x01 0x40 .u32 0  -- RxPDO mapping
  ]

/-- Objects 0x1A00 to 0x1AFF, piece 1 (R346). -/
def page1Aa : List Entry :=
  [ ro 0x1A04 0x1A04 0x00 0x00 .u8 4  -- TxPDO entries
  , ro 0x1A04 0x1A04 0x01 0x04 .u32 0  -- TxPDO mapping
  , ro 0x1A00 0x1A03 0x00 0x00 .u8 64  -- TxPDO entries
  , ro 0x1A00 0x1A03 0x01 0x40 .u32 0  -- TxPDO mapping
  ]

/-- Objects 0x1C00 to 0x1CFF, piece 1 (R346). -/
def page1Ca : List Entry :=
  [ ro 0x1C00 0x1C00 0x00 0x00 .u8 4  -- Highest subindex
  , ro 0x1C00 0x1C00 0x01 0x04 .u8 0  -- SM types
  , ⟨0x1C12, 0x1C12, 0x00, 0x00, .u8, .rw, .stopped, 0x21#8, .none, false, 0, .le 4⟩  -- RxPDOs assigned
  , ⟨0x1C12, 0x1C12, 0x01, 0x04, .u16, .rw, .stopped, 0x21#8, .none, false, 0, .btw 0x1600 0x1603⟩  -- RxPDO assignment
  , ⟨0x1C13, 0x1C13, 0x00, 0x00, .u8, .rw, .stopped, 0x21#8, .none, false, 1, .le 5⟩  -- TxPDOs assigned
  , ⟨0x1C13, 0x1C13, 0x01, 0x05, .u16, .rw, .stopped, 0x21#8, .none, false, 0, .btw 0x1A00 0x1A04⟩  -- TxPDO assignment
  , ro 0x1C32 0x1C32 0x00 0x00 .u8 32  -- Highest subindex
  , ⟨0x1C32, 0x1C32, 0x01, 0x01, .u16, .rw, .stopped, 0x21#8, .none, false, 0, .le 2⟩  -- Sync mode
  , ro 0x1C32 0x1C32 0x02 0x02 .u32 0  -- Cycle time
  , ro 0x1C32 0x1C32 0x04 0x04 .u16 7  -- Modes supported
  , ro 0x1C32 0x1C32 0x05 0x05 .u32 12500  -- Minimum cycle time
  , ro 0x1C32 0x1C32 0x0B 0x0B .u16 0  -- Events missed
  , ro 0x1C32 0x1C32 0x20 0x20 .bool 0  -- Sync error
  , ro 0x1C33 0x1C33 0x00 0x00 .u8 32  -- Highest subindex
  , ro 0x1C33 0x1C33 0x01 0x01 .u16 0  -- Sync mode
  , ro 0x1C33 0x1C33 0x02 0x02 .u32 0  -- Cycle time
  , ro 0x1C33 0x1C33 0x04 0x04 .u16 7  -- Modes supported
  , ro 0x1C33 0x1C33 0x05 0x05 .u32 12500  -- Minimum cycle time
  , ro 0x1C33 0x1C33 0x0B 0x0B .u16 0  -- Events missed
  , ro 0x1C33 0x1C33 0x20 0x20 .bool 0  -- Sync error
  ]

/-- Objects 0x2000 to 0x20FF, piece 1 (R30, R348, R420, R425). -/
def page20a : List Entry :=
  [ ro 0x2001 0x2001 0x00 0x00 .u8 4  -- Highest subindex
  , ro 0x2001 0x2001 0x01 0x01 .u8 3  -- Device state
  , ro 0x2001 0x2001 0x02 0x02 .u8 2  -- Previous state
  , ro 0x2001 0x2001 0x03 0x03 .u32 0  -- Transition cause
  , ro 0x2001 0x2001 0x04 0x04 .u8 0  -- Readiness
  , ro 0x2010 0x2010 0x00 0x00 .u8 9  -- Highest subindex
  , ro 0x2010 0x2010 0x01 0x01 .u8 1  -- AL state
  , ro 0x2010 0x2010 0x02 0x02 .u16 0  -- AL status code
  , ro 0x2010 0x2010 0x03 0x03 .u16 0  -- Station address
  , ro 0x2010 0x2010 0x04 0x04 .u16 0  -- Station alias
  , ro 0x2010 0x2010 0x05 0x05 .u8 0  -- Link status
  , ro 0x2010 0x2010 0x06 0x06 .u32 0  -- Mailbox repeats
  , ro 0x2010 0x2010 0x07 0x07 .u32 0  -- Emergencies dropped
  , ro 0x2010 0x2010 0x08 0x08 .u32 0  -- Watchdog expiries
  , ro 0x2010 0x2010 0x09 0x09 .u8 1  -- DC role
  , ro 0x2020 0x2020 0x00 0x00 .u8 7  -- Highest subindex
  , ro 0x2020 0x2020 0x01 0x01 .u8 0  -- Running slot
  , ro 0x2020 0x2020 0x02 0x02 .u32 0  -- Running version
  , ro 0x2020 0x2020 0x03 0x03 .bool 0  -- Running confirmed
  , ro 0x2020 0x2020 0x04 0x04 .u32 0  -- Slot A version
  , ro 0x2020 0x2020 0x05 0x05 .u32 0  -- Slot B version
  , ro 0x2020 0x2020 0x06 0x06 .u8 255  -- Pending slot
  , ro 0x2020 0x2020 0x07 0x07 .u64 0  -- DRAM window base
  , ro 0x2002 0x2002 0x00 0x00 .u8 7  -- Highest subindex
  , ro 0x2002 0x2002 0x01 0x01 .u32 0  -- Health
  ]

/-- Objects 0x2000 to 0x20FF, piece 2 (R425, R431, R436). -/
def page20b : List Entry :=
  [ ⟨0x2002, 0x2002, 0x02, 0x02, .u32, .wo, .live, 0x21#8, .none, false, 0, .mask 0xFFF⟩  -- Clear sticky
  , ro 0x2002 0x2002 0x03 0x03 .u32 0  -- Last chip-level fault
  , ⟨0x2002, 0x2002, 0x04, 0x04, .u32, .rw, .live, 0x21#8, .none, false, 912, .mask 0xFFC⟩  -- Alert mask
  , ro 0x2002 0x2002 0x05 0x05 .u8 0  -- State at fault
  , ro 0x2002 0x2002 0x06 0x06 .bool 0  -- Power loss seen
  , ro 0x2002 0x2002 0x07 0x07 .u32 0  -- SRAM corrections
  , ro 0x2030 0x2030 0x00 0x00 .u8 4  -- Highest subindex
  , ⟨0x2030, 0x2030, 0x01, 0x01, .u32, .rw, .live, 0x01#8, .none, false, 1000, .btw 10 60000⟩  -- Timeout
  , ro 0x2030 0x2030 0x02 0x02 .u32 0  -- Remaining
  , ro 0x2030 0x2030 0x03 0x03 .u32 0  -- Expiries
  , ro 0x2030 0x2030 0x04 0x04 .bool 0  -- Held
  , ro 0x2040 0x2040 0x00 0x00 .u8 6  -- Highest subindex
  , ro 0x2040 0x2040 0x01 0x01 .octet 0  -- Device public key
  , ro 0x2040 0x2040 0x02 0x02 .u16 0  -- Occupied slots
  , ro 0x2040 0x2040 0x03 0x03 .u16 0  -- Revoked slots
  , ro 0x2040 0x2040 0x04 0x04 .u8 0  -- Rollback count
  , ro 0x2040 0x2040 0x05 0x05 .octet 0  -- Slot installers
  , ro 0x2040 0x2040 0x06 0x06 .u32 0  -- Requests served
  ]

/-- Objects 0x2100 to 0x21FF, piece 1 (R297, R299). -/
def page21a : List Entry :=
  [ ro 0x2100 0x2100 0x00 0x00 .u8 9  -- Highest subindex
  , ro 0x2100 0x2100 0x01 0x01 .u16 15  -- Rights of O0
  , ⟨0x2100, 0x2100, 0x02, 0x02, .u16, .rw, .live, 0x01#8, .none, false, 15, .mask 15⟩  -- Rights of O1 (HA)
  , ⟨0x2100, 0x2100, 0x03, 0x05, .u16, .rw, .live, 0x01#8, .none, false, 10, .mask 15⟩  -- Rights of O2–O4 (HB–HD)
  , ⟨0x2100, 0x2100, 0x06, 0x06, .u16, .rw, .live, 0x01#8, .none, false, 15, .mask 15⟩  -- Rights of O5
  , ⟨0x2100, 0x2100, 0x07, 0x07, .u16, .rw, .live, 0x01#8, .none, false, 0, .mask 15⟩  -- Rights of O6
  , ro 0x2100 0x2100 0x08 0x08 .u16 0  -- Rights of O7
  , ro 0x2100 0x2100 0x09 0x09 .u8 0  -- Requester
  , ro 0x2110 0x2117 0x00 0x00 .u8 4  -- Highest subindex
  , ⟨0x2110, 0x2117, 0x01, 0x01, .u8, .rw, .stopped, 0x00#8, .partRight, false, 255, .orAll 5 255⟩  -- Owner
  , ⟨0x2110, 0x2117, 0x02, 0x02, .u32, .rw, .live, 0x00#8, .partRight, false, 0, .any⟩  -- Claimed regions
  , ro 0x2110 0x2117 0x03 0x03 .u32 0  -- Committed regions
  , ro 0x2110 0x2117 0x04 0x04 .u8 0  -- Partition state
  ]

/-- Objects 0x2200 to 0x22FF, piece 1 (R376, R377, R379). -/
def page22a : List Entry :=
  [ ro 0x2200 0x2200 0x00 0x00 .u8 10  -- Highest subindex
  , ro 0x2200 0x2200 0x01 0x01 .u8 0  -- Loader state
  , ro 0x2200 0x2200 0x02 0x02 .u8 0  -- Source
  , ro 0x2200 0x2200 0x03 0x03 .u8 0  -- Requester
  , ro 0x2200 0x2200 0x04 0x04 .u64 0  -- Declared length
  , ro 0x2200 0x2200 0x05 0x05 .u64 0  -- Bytes received
  , ro 0x2200 0x2200 0x06 0x06 .u8 0  -- Last result
  , ro 0x2200 0x2200 0x07 0x07 .u32 0  -- Streams verified
  , ro 0x2200 0x2200 0x08 0x08 .u32 0  -- Streams refused
  , ro 0x2200 0x2200 0x09 0x09 .u32 0  -- Twin invalid
  , ro 0x2200 0x2200 0x0A 0x0A .u8 0  -- Boot mode
  , ro 0x2210 0x2210 0x00 0x00 .u8 5  -- Highest subindex
  , ⟨0x2210, 0x2210, 0x01, 0x01, .u32, .rw, .live, 0x01#8, .stream, false, 0, .any⟩  -- Command serial
  , ⟨0x2210, 0x2210, 0x02, 0x02, .u8, .rw, .live, 0x01#8, .stream, false, 0, .any⟩  -- Partition mask
  , ⟨0x2210, 0x2210, 0x03, 0x03, .u8, .rw, .live, 0x01#8, .stream, false, 0, .le 3⟩  -- Commit mode
  , ⟨0x2210, 0x2210, 0x04, 0x04, .u64, .rw, .live, 0x01#8, .stream, false, 0, .any⟩  -- Target
  , ro 0x2210 0x2210 0x05 0x05 .u64 0  -- Last commit instant
  , ro 0x2211 0x2211 0x00 0x00 .u8 1  -- Highest subindex
  , ⟨0x2211, 0x2211, 0x01, 0x01, .bool, .wo, .live, 0x01#8, .stream, false, 0, .le 1⟩  -- Cancel
  , ro 0x2220 0x2227 0x00 0x00 .u8 6  -- Highest subindex
  , ro 0x2220 0x2227 0x01 0x01 .u8 0  -- Staged state
  , ro 0x2220 0x2227 0x02 0x02 .u64 0  -- Stream length
  , ro 0x2220 0x2227 0x03 0x03 .u8 0  -- Key ID
  , ro 0x2220 0x2227 0x04 0x04 .u32 0  -- Region mask
  , ro 0x2220 0x2227 0x05 0x05 .u8 0  -- Frame exponent
  ]

/-- Objects 0x2200 to 0x22FF, piece 2 (R379, R380). -/
def page22b : List Entry :=
  [ ro 0x2220 0x2227 0x06 0x06 .u8 0  -- Stream partitions
  , ro 0x2230 0x2230 0x00 0x00 .u8 4  -- Highest subindex
  , ro 0x2230 0x2230 0x01 0x01 .bool 0  -- GATE level
  , ro 0x2230 0x2230 0x02 0x02 .bool 0  -- Own drive
  , ro 0x2230 0x2230 0x03 0x03 .u64 0  -- Last rise
  , ⟨0x2230, 0x2230, 0x04, 0x04, .u16, .rw, .live, 0x21#8, .none, false, 10, .any⟩  -- Wait limit
  ]

/-- Objects 0x2300 to 0x23FF, piece 1 (R45). -/
def page23a : List Entry :=
  [ ro 0x2300 0x2300 0x00 0x00 .u8 5  -- Highest subindex
  , ro 0x2300 0x2300 0x01 0x01 .u8 0  -- State
  , ro 0x2300 0x2300 0x02 0x02 .bool 1  -- Precision flag
  , ro 0x2300 0x2300 0x03 0x03 .u64 0  -- Tick count
  , ro 0x2300 0x2300 0x04 0x04 .i64 0  -- Last offset
  , ro 0x2300 0x2300 0x05 0x05 .i32 0  -- Frequency correction
  , ro 0x2301 0x2301 0x00 0x00 .u8 7  -- Highest subindex
  , ⟨0x2301, 0x2301, 0x01, 0x01, .u8, .rw, .live, 0x21#8, .none, false, 0, .le 3⟩  -- Discipline source
  , ⟨0x2301, 0x2301, 0x02, 0x02, .u16, .rw, .live, 0x21#8, .none, false, 20, .btw 1 1000⟩  -- Lock threshold
  , ⟨0x2301, 0x2301, 0x03, 0x03, .u16, .rw, .live, 0x21#8, .none, false, 60, .btw 1 3600⟩  -- Holdover limit
  , ⟨0x2301, 0x2301, 0x04, 0x04, .u64, .rw, .live, 0x21#8, .none, false, 0, .any⟩  -- Next PPS time
  , ⟨0x2301, 0x2301, 0x05, 0x05, .u8, .rw, .live, 0x21#8, .none, false, 0, .le 1⟩  -- Step policy
  , ⟨0x2301, 0x2301, 0x06, 0x06, .bool, .rw, .live, 0x21#8, .none, false, 0, .le 1⟩  -- PPS_OUT enable
  , ⟨0x2301, 0x2301, 0x07, 0x07, .u8, .rw, .stopped, 0x21#8, .none, false, 0, .le 1⟩  -- PPS_IN polarity
  , ro 0x2302 0x2302 0x00 0x00 .u8 2  -- Highest subindex
  , ⟨0x2302, 0x2302, 0x01, 0x01, .u32, .rw, .live, 0x3F#8, .none, false, 0, .any⟩  -- Correction serial
  , ⟨0x2302, 0x2302, 0x02, 0x02, .i64, .rw, .live, 0x3F#8, .none, false, 0, .any⟩  -- Correction offset
  , ro 0x2303 0x2303 0x00 0x00 .u8 1  -- Highest subindex
  , ro 0x2303 0x2303 0x01 0x01 .u64 0  -- Last PPS_IN edge
  ]

/-- Objects 0x2400 to 0x24FF, piece 1 (R53, R75). -/
def page24a : List Entry :=
  [ ro 0x2400 0x2417 0x00 0x00 .u8 19  -- Highest subindex
  , ⟨0x2400, 0x2417, 0x01, 0x01, .u8, .rw, .live, 0x21#8, .part, false, 1, .le 2⟩  -- Bank mode
  , ⟨0x2400, 0x2417, 0x02, 0x02, .u8, .rw, .stopped, 0x21#8, .part, false, 0, .le 5⟩  -- I/O voltage
  , ⟨0x2400, 0x2417, 0x03, 0x03, .u8, .rw, .stopped, 0x21#8, .part, false, 1, .le 3⟩  -- Drive strength
  , ⟨0x2400, 0x2417, 0x04, 0x04, .u8, .rw, .stopped, 0x21#8, .part, false, 1, .le 1⟩  -- Slew
  , ⟨0x2400, 0x2417, 0x05, 0x05, .u8, .rw, .live, 0x21#8, .part, false, 0, .le 3⟩  -- Pull
  , ⟨0x2400, 0x2417, 0x06, 0x06, .bool, .rw, .stopped, 0x21#8, .part, false, 1, .le 1⟩  -- Hysteresis
  , ⟨0x2400, 0x2417, 0x07, 0x07, .u8, .rw, .live, 0x21#8, .part, false, 0, .le 3⟩  -- Park level
  , ⟨0x2400, 0x2417, 0x08, 0x08, .u32, .rw, .stopped, 0x21#8, .part, false, 0, .any⟩  -- Pair mode
  , ⟨0x2400, 0x2417, 0x09, 0x09, .u64, .rw, .live, 0x21#8, .part, false, 0, .any⟩  -- Output enable
  , ⟨0x2400, 0x2417, 0x0A, 0x0A, .u64, .rw, .live, 0x21#8, .part, false, 0, .any⟩  -- Output level
  , ro 0x2400 0x2417 0x0B 0x0B .u64 0  -- Input level
  , ⟨0x2400, 0x2417, 0x0C, 0x0C, .octet, .rw, .stopped, 0x21#8, .part, false, 0, .len 4096⟩  -- Pattern table
  , ⟨0x2400, 0x2417, 0x0D, 0x0D, .u64, .rw, .stopped, 0x21#8, .part, false, 0, .any⟩  -- Pattern start
  , ⟨0x2400, 0x2417, 0x0E, 0x0E, .u32, .rw, .stopped, 0x21#8, .part, false, 1000, .btw 1000 4294967295⟩  -- Pattern period
  , ⟨0x2400, 0x2417, 0x0F, 0x0F, .u16, .rw, .stopped, 0x21#8, .part, false, 1, .btw 1 256⟩  -- Pattern length
  , ⟨0x2400, 0x2417, 0x10, 0x10, .u8, .rw, .live, 0x21#8, .part, false, 0, .le 2⟩  -- Pattern control
  , ro 0x2400 0x2417 0x11 0x11 .u32 0  -- Bank status
  , ro 0x2400 0x2417 0x12 0x12 .u64 0  -- Contention mask
  , ⟨0x2400, 0x2417, 0x13, 0x13, .u64, .wo, .live, 0x21#8, .part, false, 0, .any⟩  -- Clear contention
  , ro 0x2418 0x2418 0x00 0x00 .u8 7  -- Highest subindex
  , ⟨0x2418, 0x2418, 0x01, 0x01, .bool, .rw, .live, 0x41#8, .none, false, 1, .le 1⟩  -- Calibration enable
  , ro 0x2418 0x2418 0x02 0x02 .u16 10  -- Calibration interval
  , ro 0x2418 0x2418 0x03 0x03 .u32 0  -- Late words
  , ro 0x2418 0x2418 0x04 0x04 .u32 0  -- Out-of-order words
  ]

/-- Objects 0x2400 to 0x24FF, piece 2 (R65, R75). -/
def page24b : List Entry :=
  [ ro 0x2418 0x2418 0x05 0x05 .u32 0  -- Rate violations
  , ro 0x2418 0x2418 0x06 0x06 .u32 0  -- Lost capture entries
  , ro 0x2418 0x2418 0x07 0x07 .u32 0  -- Contentions
  , ro 0x2420 0x2437 0x00 0x00 .u8 64  -- Highest subindex
  , ⟨0x2420, 0x2437, 0x01, 0x40, .i16, .rw, .stopped, 0x21#8, .part, false, 0, .sbtw 128 127⟩  -- Deskew
  , ro 0x2440 0x2457 0x00 0x00 .u8 64  -- Highest subindex
  , ⟨0x2440, 0x2457, 0x01, 0x40, .i16, .rw, .stopped, 0x21#8, .part, false, 0, .sbtw 128 127⟩  -- Deskew
  ]

/-- Objects 0x2500 to 0x25FF, piece 1 (R101, R102, R103). -/
def page25a : List Entry :=
  [ ro 0x2520 0x2520 0x00 0x00 .u8 6  -- Highest subindex
  , ro 0x2520 0x2520 0x01 0x01 .u16 3900  -- Round length
  , ro 0x2520 0x2520 0x02 0x02 .u16 450  -- Refresh span
  , ro 0x2520 0x2520 0x03 0x03 .u16 1950  -- Hot span start
  , ro 0x2520 0x2520 0x04 0x04 .u16 450  -- Hot span length
  , ro 0x2520 0x2520 0x05 0x05 .bool 0  -- Hot refresh
  , ro 0x2520 0x2520 0x06 0x06 .u8 0  -- Armed partitions
  , ro 0x2521 0x2528 0x00 0x00 .u8 14  -- Highest subindex
  , ro 0x2521 0x2528 0x01 0x01 .u8 0  -- Contract status
  , ro 0x2521 0x2528 0x02 0x02 .u8 0  -- Frame exponent
  , ro 0x2521 0x2528 0x03 0x03 .u32 0  -- Region mask
  , ro 0x2521 0x2528 0x04 0x04 .u64 0  -- Armed at frame
  , ro 0x2521 0x2528 0x05 0x05 .u8 0  -- First miss cause
  , ro 0x2521 0x2528 0x06 0x06 .u8 0  -- First miss region
  , ro 0x2521 0x2528 0x07 0x07 .u16 0  -- First miss slot index
  , ro 0x2521 0x2528 0x08 0x08 .u16 0  -- First miss tag
  , ro 0x2521 0x2528 0x09 0x09 .u64 0  -- First miss frame
  , ro 0x2521 0x2528 0x0A 0x0A .u64 0  -- First miss tick
  , ro 0x2521 0x2528 0x0B 0x0B .u32 0  -- First miss cycle
  , ro 0x2521 0x2528 0x0C 0x0C .u32 0  -- Misses while broken
  , ro 0x2521 0x2528 0x0D 0x0D .bool 0  -- First miss injected
  , ro 0x2521 0x2528 0x0E 0x0E .u64 0  -- Frames skipped
  , ro 0x2530 0x254F 0x00 0x00 .u8 8  -- Highest subindex
  , ro 0x2530 0x254F 0x01 0x01 .u16 0  -- Table entries
  , ro 0x2530 0x254F 0x02 0x02 .u32 0  -- Frame cycles
  ]

/-- Objects 0x2500 to 0x25FF, piece 2 (R103, R152, R174). -/
def page25b : List Entry :=
  [ ro 0x2530 0x254F 0x03 0x03 .u16 0  -- Round cycles
  , ro 0x2530 0x254F 0x04 0x04 .u16 0  -- Hub read latency
  , ro 0x2530 0x254F 0x05 0x05 .u16 0  -- Hub read latency, pinned
  , ro 0x2530 0x254F 0x06 0x06 .u64 0  -- Slots checked
  , ro 0x2530 0x254F 0x07 0x07 .u32 0  -- Misses
  , ro 0x2530 0x254F 0x08 0x08 .u8 0  -- Last miss cause
  , ro 0x2500 0x251F 0x00 0x00 .u8 63  -- Highest subindex
  , ro 0x2500 0x251F 0x01 0x01 .u8 80  -- Ratio code
  , ro 0x2500 0x251F 0x02 0x02 .u8 1  -- Ratio numerator
  , ro 0x2500 0x251F 0x03 0x03 .u8 10  -- Ratio denominator
  , ro 0x2500 0x251F 0x04 0x04 .u32 100000000  -- Island frequency
  , ro 0x2500 0x251F 0x05 0x05 .u8 2  -- Island state
  , ro 0x2500 0x251F 0x06 0x06 .u32 0  -- Fence cause
  , ro 0x2500 0x251F 0x07 0x07 .u32 0  -- Lock losses
  , ro 0x2500 0x251F 0x08 0x08 .u32 0  -- Late handshakes
  , ro 0x2500 0x251F 0x09 0x09 .u32 0  -- Poison tokens received
  , ro 0x2500 0x251F 0x0A 0x0A .u32 0  -- Tokens discarded
  , ro 0x2500 0x251F 0x0B 0x0B .u16 0  -- Phase offset
  , ⟨0x2500, 0x251F, 0x10, 0x10, .u32, .rw, .live, 0x61#8, .part, true, 0, .any⟩  -- Memory address
  , ⟨0x2500, 0x251F, 0x11, 0x11, .octet, .rw, .live, 0x61#8, .part, true, 0, .any⟩  -- Memory data
  , ⟨0x2500, 0x251F, 0x12, 0x12, .u16, .rw, .live, 0x61#8, .part, false, 1, .btw 1 64⟩  -- Transfer words
  , ro 0x2500 0x251F 0x13 0x13 .u32 0  -- Block memory collisions
  , ro 0x2500 0x251F 0x14 0x14 .u32 0  -- Block memory corrections
  , ro 0x2500 0x251F 0x15 0x15 .u32 0  -- Scratchpad corrections
  , ro 0x2500 0x251F 0x16 0x16 .u32 0  -- Scratchpad stall cycles
  ]

/-- Objects 0x2500 to 0x25FF, piece 3 (R174, R197, R233). -/
def page25c : List Entry :=
  [ ro 0x2500 0x251F 0x17 0x17 .u32 0  -- Last error address
  , ro 0x2500 0x251F 0x18 0x18 .u16 0  -- Last error bit
  , ro 0x2500 0x251F 0x19 0x19 .u16 0  -- Spare rows used
  , ro 0x2500 0x251F 0x1A 0x1A .u8 0  -- Spare columns used
  , ro 0x2500 0x251F 0x1B 0x1B .u16 0  -- Unrepairable block memories
  , ro 0x2500 0x251F 0x1C 0x1C .u16 0  -- Unrepairable banks
  , ro 0x2500 0x251F 0x1D 0x1D .u8 0  -- Clear state
  , ro 0x2500 0x251F 0x1E 0x1E .u32 0  -- Unit-under-test accesses
  , ro 0x2500 0x251F 0x20 0x2F .u64 0  -- Queue status
  , ⟨0x2500, 0x251F, 0x30, 0x30, .u16, .wo, .live, 0x41#8, .part, false, 0, .any⟩  -- Clear watermarks
  , ro 0x2500 0x251F 0x31 0x31 .u32 0  -- Pointer mismatches
  , ro 0x2500 0x251F 0x32 0x32 .u32 0  -- Pushes discarded
  , ⟨0x2500, 0x251F, 0x33, 0x33, .u32, .rw, .live, 0x61#8, .part, true, 0, .any⟩  -- Group memory address
  , ⟨0x2500, 0x251F, 0x34, 0x34, .octet, .rw, .live, 0x61#8, .part, true, 0, .any⟩  -- Group memory data
  , ⟨0x2500, 0x251F, 0x35, 0x35, .u16, .rw, .live, 0x61#8, .part, false, 1, .btw 1 64⟩  -- Transfer units
  , ⟨0x2500, 0x251F, 0x36, 0x36, .u64, .wo, .live, 0x61#8, .part, false, 0, .any⟩  -- Start mask
  , ⟨0x2500, 0x251F, 0x37, 0x37, .u64, .wo, .live, 0x61#8, .part, false, 0, .any⟩  -- Stop mask
  , ro 0x2500 0x251F 0x38 0x38 .u64 0  -- Running mask
  , ro 0x2500 0x251F 0x39 0x39 .u16 0  -- Last sequencer fault
  , ro 0x2500 0x251F 0x3A 0x3A .u64 0  -- Flag summary
  , ro 0x2500 0x251F 0x3B 0x3B .u32 0  -- Group memory corrections
  , ro 0x2500 0x251F 0x3C 0x3C .u32 0  -- Instruction writes refused
  , ro 0x2500 0x251F 0x3D 0x3D .u32 0  -- Event overruns
  , ro 0x2500 0x251F 0x3E 0x3E .u64 0  -- Sequencer observe
  , ⟨0x2500, 0x251F, 0x3F, 0x3F, .u64, .wo, .live, 0x61#8, .part, false, 0, .any⟩  -- Clear flags
  ]

/-- Objects 0x2600 to 0x26FF, piece 1 (R263, R264). -/
def page26a : List Entry :=
  [ ro 0x2600 0x2600 0x00 0x00 .u8 10  -- Highest subindex
  , ro 0x2600 0x2600 0x01 0x01 .u8 1  -- Hub state
  , ro 0x2600 0x2600 0x02 0x02 .u16 0  -- Present rate
  , ro 0x2600 0x2600 0x03 0x03 .u8 0  -- Channel set
  , ro 0x2600 0x2600 0x04 0x04 .u64 0  -- Capacity
  , ro 0x2600 0x2600 0x05 0x05 .u8 0  -- Window channels
  , ro 0x2600 0x2600 0x06 0x06 .u8 0  -- Window-capable channels
  , ro 0x2600 0x2600 0x07 0x07 .u16 0  -- Tags in use
  , ro 0x2600 0x2600 0x08 0x08 .u16 0  -- Pending rate
  , ⟨0x2600, 0x2600, 0x09, 0x09, .u32, .rw, .live, 0x21#8, .none, false, 0, .any⟩  -- Idle self-refresh time
  , ro 0x2600 0x2600 0x0A 0x0A .u16 0  -- Target rate
  , ro 0x2601 0x2601 0x00 0x00 .u8 4  -- Highest subindex
  , ro 0x2601 0x2601 0x01 0x04 .u16 0  -- Trained set
  , ro 0x2610 0x2617 0x00 0x00 .u8 16  -- Highest subindex
  , ro 0x2610 0x2617 0x01 0x01 .u8 1  -- Channel state
  , ro 0x2610 0x2617 0x02 0x02 .u8 0  -- Map-out cause
  , ro 0x2610 0x2617 0x03 0x03 .u8 0  -- DIMMs
  , ro 0x2610 0x2617 0x04 0x04 .u16 0  -- DIMM capacity
  , ro 0x2610 0x2617 0x05 0x05 .u8 0  -- Ranks per DIMM
  , ro 0x2610 0x2617 0x06 0x06 .u8 0  -- Device width
  , ro 0x2610 0x2617 0x07 0x07 .i16 0  -- DIMM 0 temperature
  , ro 0x2610 0x2617 0x08 0x08 .i16 0  -- DIMM 1 temperature
  , ro 0x2610 0x2617 0x09 0x09 .u32 0  -- Corrected errors
  , ro 0x2610 0x2617 0x0A 0x0A .u32 0  -- Uncorrectable errors
  , ro 0x2610 0x2617 0x0B 0x0B .u32 0  -- Write CRC retries
  ]

/-- Objects 0x2600 to 0x26FF, piece 2 (R264). -/
def page26b : List Entry :=
  [ ro 0x2610 0x2617 0x0C 0x0C .u64 0  -- Last error address
  , ro 0x2610 0x2617 0x0D 0x0D .u32 0  -- Self-refresh entries
  , ro 0x2610 0x2617 0x0E 0x0E .u32 0  -- Self-refresh aborts
  , ro 0x2610 0x2617 0x0F 0x0F .u32 0  -- Scheduled requests not accepted
  , ro 0x2610 0x2617 0x10 0x10 .u32 0  -- Training time
  ]

/-- Objects 0x2700 to 0x27FF, piece 1 (R289, R291). -/
def page27a : List Entry :=
  [ ro 0x2700 0x2700 0x00 0x00 .u8 11  -- Highest subindex
  , ro 0x2700 0x2700 0x01 0x01 .u8 0  -- Regions defined
  , ro 0x2700 0x2700 0x02 0x02 .u32 8388608  -- Cache size
  , ro 0x2700 0x2700 0x03 0x03 .u32 6291456  -- Pinned limit
  , ro 0x2700 0x2700 0x04 0x04 .u32 0  -- Pinned in use
  , ro 0x2700 0x2700 0x05 0x05 .u32 0  -- Metadata misses
  , ro 0x2700 0x2700 0x06 0x06 .u32 0  -- Rights refusals
  , ro 0x2700 0x2700 0x07 0x07 .u32 0  -- Minor overflows
  , ro 0x2700 0x2700 0x08 0x08 .u8 0  -- Re-encryption entries in use
  , ro 0x2700 0x2700 0x09 0x09 .u32 0  -- Cache corrections
  , ro 0x2700 0x2700 0x0A 0x0A .u32 0  -- Unverifiable results
  , ro 0x2700 0x2700 0x0B 0x0B .u8 0  -- Poison entries in use
  , ro 0x2710 0x274F 0x00 0x00 .u8 14  -- Highest subindex
  , ro 0x2710 0x274F 0x01 0x01 .u8 0  -- State
  , ⟨0x2710, 0x274F, 0x02, 0x02, .u64, .rw, .stopped, 0x00#8, .memory, false, 0, .any⟩  -- Base
  , ⟨0x2710, 0x274F, 0x03, 0x03, .u8, .rw, .stopped, 0x00#8, .memory, false, 24, .btw 24 40⟩  -- Size exponent
  , ⟨0x2710, 0x274F, 0x04, 0x04, .u8, .rw, .stopped, 0x00#8, .memory, false, 0, .le 3⟩  -- Mode
  , ⟨0x2710, 0x274F, 0x05, 0x05, .u64, .rw, .stopped, 0x00#8, .memory, false, 0, .mult 65536⟩  -- Metadata base
  , ⟨0x2710, 0x274F, 0x06, 0x06, .u8, .rw, .live, 0x00#8, .region, false, 0, .any⟩  -- Read rights
  , ⟨0x2710, 0x274F, 0x07, 0x07, .u8, .rw, .live, 0x00#8, .region, false, 0, .any⟩  -- Write rights
  , ro 0x2710 0x274F 0x08 0x08 .u8 0  -- Region owner
  , ro 0x2710 0x274F 0x09 0x09 .u32 0  -- Key generation
  , ro 0x2710 0x274F 0x0A 0x0A .u32 0  -- Highest major
  , ro 0x2710 0x274F 0x0B 0x0B .u8 0  -- Tree levels
  , ro 0x2710 0x274F 0x0C 0x0C .u32 0  -- Sweep pointer
  ]

/-- Objects 0x2700 to 0x27FF, piece 2 (R290, R291). -/
def page27b : List Entry :=
  [ ro 0x2710 0x274F 0x0D 0x0D .u64 0  -- Last failure address
  , ro 0x2710 0x274F 0x0E 0x0E .u8 0  -- Last failure code
  , ro 0x2701 0x2701 0x00 0x00 .u8 64  -- Highest subindex
  , ro 0x2701 0x2701 0x01 0x40 .u64 0  -- Poison entry
  ]

/-- Objects 0x2800 to 0x28FF, piece 1 (R316). -/
def page28a : List Entry :=
  [ ro 0x2800 0x2803 0x00 0x00 .u8 12  -- Highest subindex
  , ro 0x2800 0x2803 0x01 0x01 .u8 0  -- Link state
  , ro 0x2800 0x2803 0x02 0x02 .u8 0  -- Link speed
  , ro 0x2800 0x2803 0x03 0x03 .u8 0  -- Link width
  , ⟨0x2800, 0x2803, 0x04, 0x04, .u8, .rw, .stopped, 0x01#8, .none, false, 41, .btw 30 41⟩  -- BAR2 size
  , ro 0x2800 0x2803 0x05 0x05 .u8 0  -- Port owner
  , ro 0x2800 0x2803 0x06 0x06 .u32 0  -- BAR2 errors
  , ro 0x2800 0x2803 0x07 0x07 .u8 0  -- Last BAR2 error code
  , ro 0x2800 0x2803 0x08 0x08 .u64 0  -- Last BAR2 error address
  , ro 0x2800 0x2803 0x09 0x09 .u32 0  -- Stale doorbells
  , ro 0x2800 0x2803 0x0A 0x0A .u32 0  -- DMA errors
  , ro 0x2800 0x2803 0x0B 0x0B .u32 0  -- Link downs
  , ro 0x2800 0x2803 0x0C 0x0C .u32 0  -- Queue window refusals
  ]

/-- Objects 0x2900 to 0x29FF, piece 1 (R404, R405). -/
def page29a : List Entry :=
  [ ro 0x2900 0x2900 0x00 0x00 .u8 13  -- Highest subindex
  , ro 0x2900 0x2900 0x01 0x01 .u8 0  -- State
  , ro 0x2900 0x2900 0x02 0x02 .u32 0  -- Passes
  , ro 0x2900 0x2900 0x03 0x03 .u32 0  -- Last pass time
  , ro 0x2900 0x2900 0x04 0x04 .u32 0  -- Frames checked
  , ro 0x2900 0x2900 0x05 0x05 .u32 0  -- Twin repairs
  , ro 0x2900 0x2900 0x06 0x06 .u32 0  -- Syndrome repairs
  , ro 0x2900 0x2900 0x07 0x07 .u32 0  -- Twin frames rewritten
  , ro 0x2900 0x2900 0x08 0x08 .u32 0  -- Regions fenced
  , ro 0x2900 0x2900 0x09 0x09 .u32 0  -- Last repaired frame
  , ro 0x2900 0x2900 0x0A 0x0A .u64 0  -- Last repair tick
  , ro 0x2900 0x2900 0x0B 0x0B .u32 0  -- Corrections
  , ro 0x2900 0x2900 0x0C 0x0C .u32 0  -- Reload required
  , ro 0x2900 0x2900 0x0D 0x0D .u32 0  -- First unrepairable frame
  , ro 0x2910 0x2910 0x00 0x00 .u8 7  -- Highest subindex
  , ⟨0x2910, 0x2910, 0x01, 0x01, .u32, .rw, .live, 0x21#8, .none, false, 1000, .btw 100 60000⟩  -- On-chip sweep period
  , ⟨0x2910, 0x2910, 0x02, 0x02, .u32, .rw, .live, 0x21#8, .none, false, 86400, .btw 3600 604800⟩  -- DRAM sweep period
  , ⟨0x2910, 0x2910, 0x03, 0x03, .bool, .rw, .live, 0x21#8, .none, false, 1, .le 1⟩  -- DRAM scrub enable
  , ro 0x2910 0x2910 0x04 0x04 .u32 0  -- On-chip sweeps
  , ro 0x2910 0x2910 0x05 0x05 .u32 0  -- DRAM sweeps
  , ro 0x2910 0x2910 0x06 0x06 .u32 0  -- Starved sweeps
  , ro 0x2910 0x2910 0x07 0x07 .u64 0  -- DRAM scrub position
  , ro 0x2980 0x2980 0x00 0x00 .u8 7  -- Highest subindex
  , ro 0x2980 0x2980 0x01 0x01 .u8 1  -- Power-up test
  , ro 0x2980 0x2980 0x02 0x02 .u8 0  -- Completion index
  ]

/-- Objects 0x2900 to 0x29FF, piece 2 (R405). -/
def page29b : List Entry :=
  [ ⟨0x2980, 0x2980, 0x03, 0x03, .bool, .rw, .live, 0x01#8, .none, false, 1, .le 1⟩  -- Skip enable
  , ro 0x2980 0x2980 0x04 0x04 .u8 0  -- Record check
  , ro 0x2980 0x2980 0x05 0x05 .u32 0  -- Record age
  , ro 0x2980 0x2980 0x06 0x06 .u16 0  -- Failure entries
  , ro 0x2980 0x2980 0x07 0x07 .u32 0  -- Excluded regions
  , ro 0x2981 0x2981 0x00 0x00 .u8 1  -- Highest subindex
  , ro 0x2981 0x2981 0x01 0x01 .octet 0  -- Failure list
  , ro 0x2982 0x2982 0x00 0x00 .u8 4  -- Highest subindex
  , ro 0x2982 0x2982 0x01 0x01 .u32 0  -- Last on-demand unit
  , ro 0x2982 0x2982 0x02 0x02 .u16 0  -- Failures
  , ro 0x2982 0x2982 0x03 0x03 .u64 0  -- First failure
  , ro 0x2982 0x2982 0x04 0x04 .u32 0  -- Duration
  ]

/-- Objects 0x2A00 to 0x2AFF, piece 1 (R423). -/
def page2Aa : List Entry :=
  [ ro 0x2A00 0x2A00 0x00 0x00 .u8 5  -- Highest subindex
  , ⟨0x2A00, 0x2A00, 0x01, 0x01, .i16, .rw, .live, 0x21#8, .none, false, 380, .btw 200 400⟩  -- Warning threshold
  , ⟨0x2A00, 0x2A00, 0x02, 0x02, .i16, .rw, .live, 0x21#8, .none, false, 20, .btw 4 80⟩  -- Hysteresis
  , ro 0x2A00 0x2A00 0x03 0x03 .i16 420  -- Fault threshold
  , ro 0x2A00 0x2A00 0x04 0x04 .i16 0  -- Highest reading
  , ro 0x2A00 0x2A00 0x05 0x05 .u64 0  -- Failed sensors
  , ro 0x2A01 0x2A01 0x01 0x28 .i16 0  -- Temperature
  , ro 0x2A02 0x2A02 0x01 0x14 .u16 0  -- Voltage
  , ro 0x2A03 0x2A03 0x01 0x28 .u32 0  -- Clock frequency
  , ro 0x2A01 0x2A01 0x00 0x00 .u8 40  -- Highest subindex
  , ro 0x2A02 0x2A02 0x00 0x00 .u8 20  -- Highest subindex
  , ro 0x2A03 0x2A03 0x00 0x00 .u8 40  -- Highest subindex
  ]

/-- Objects 0x2B00 to 0x2BFF, piece 1 (R428). -/
def page2Ba : List Entry :=
  [ ro 0x2B00 0x2B00 0x00 0x00 .u8 7  -- Highest subindex
  , ro 0x2B00 0x2B00 0x01 0x01 .u32 0  -- Newest sequence
  , ro 0x2B00 0x2B00 0x02 0x02 .u32 0  -- Oldest in ring
  , ro 0x2B00 0x2B00 0x03 0x03 .u32 0  -- Oldest in buffer
  , ⟨0x2B00, 0x2B00, 0x04, 0x04, .u32, .rw, .live, 0x7F#8, .none, false, 0, .any⟩  -- Read sequence
  , ⟨0x2B00, 0x2B00, 0x05, 0x05, .u8, .rw, .live, 0x7F#8, .none, false, 64, .btw 1 64⟩  -- Read count
  , ro 0x2B00 0x2B00 0x06 0x06 .u32 0  -- Entries lost
  , ro 0x2B00 0x2B00 0x07 0x07 .u16 0  -- Entries pending
  , ro 0x2B01 0x2B01 0x00 0x00 .u8 1  -- Highest subindex
  , ro 0x2B01 0x2B01 0x01 0x01 .octet 0  -- Log entries
  ]

/-- Objects 0x2C00 to 0x2CFF, piece 1 (R133, R134, R461, R462, R463). -/
def page2Ca : List Entry :=
  [ ro 0x2C20 0x2C20 0x00 0x00 .u8 8  -- Highest subindex
  , ⟨0x2C20, 0x2C20, 0x01, 0x08, .u16, .rw, .live, 0x41#8, .part, false, 65535, .orAll 255 65535⟩  -- PROBE0–PROBE7 source
  , ro 0x2C40 0x2C5F 0x00 0x00 .u8 136  -- Highest subindex
  , ⟨0x2C40, 0x2C5F, 0x01, 0x80, .u8, .rw, .live, 0x41#8, .part, false, 62, .le 63⟩  -- Block probe select
  , ⟨0x2C40, 0x2C5F, 0x81, 0x88, .u8, .rw, .live, 0x41#8, .part, false, 255, .orAll 127 255⟩  -- Concentrator select
  , ro 0x2C00 0x2C00 0x00 0x00 .u8 6  -- Highest subindex
  , ⟨0x2C00, 0x2C00, 0x01, 0x01, .bool, .rw, .live, 0x01#8, .config, false, 0, .le 1⟩  -- Access enable
  , ro 0x2C00 0x2C00 0x02 0x02 .bool 0  -- Session active
  , ⟨0x2C00, 0x2C00, 0x03, 0x03, .bool, .rw, .live, 0x41#8, .none, false, 0, .le 1⟩  -- Belfry compare freeze
  , ⟨0x2C00, 0x2C00, 0x04, 0x04, .bool, .rw, .live, 0x41#8, .none, false, 0, .le 1⟩  -- Best-effort freeze
  , ro 0x2C00 0x2C00 0x05 0x05 .u8 0  -- Halted partitions
  , ro 0x2C00 0x2C00 0x06 0x06 .u32 0  -- Halted regions
  , ro 0x2C02 0x2C02 0x00 0x00 .u8 7  -- Highest subindex
  , ⟨0x2C02, 0x2C02, 0x01, 0x01, .u8, .rw, .live, 0x41#8, .none, false, 3, .btw 1 7⟩  -- Debug level
  , ro 0x2C02 0x2C02 0x02 0x02 .u8 0  -- Monitor state
  , ⟨0x2C02, 0x2C02, 0x03, 0x03, .bool, .rw, .live, 0x40#8, .none, false, 0, .le 1⟩  -- Watchdog hold
  , ⟨0x2C02, 0x2C02, 0x04, 0x04, .u8, .wo, .live, 0x41#8, .none, false, 0, .btw 1 2⟩  -- Monitor request
  , ro 0x2C02 0x2C02 0x05 0x05 .u32 0  -- Debug exceptions
  , ⟨0x2C02, 0x2C02, 0x06, 0x06, .bool, .rw, .live, 0x41#8, .none, false, 0, .le 1⟩  -- EBREAK to monitor
  , ⟨0x2C02, 0x2C02, 0x07, 0x07, .octet, .rw, .live, 0x41#8, .none, true, 0, .len 64⟩  -- Monitor data
  , ro 0x2C08 0x2C0F 0x00 0x00 .u8 6  -- Highest subindex
  , ro 0x2C08 0x2C0F 0x01 0x01 .u8 0  -- Halt state
  , ⟨0x2C08, 0x2C0F, 0x02, 0x02, .u8, .rw, .live, 0x41#8, .part, false, 1, .le 2⟩  -- Vane option
  , ⟨0x2C08, 0x2C0F, 0x03, 0x03, .bool, .rw, .live, 0x41#8, .part, false, 0, .le 1⟩  -- Process data freeze
  , ro 0x2C08 0x2C0F 0x04 0x04 .u64 0  -- Halt tick
  ]

/-- Objects 0x2C00 to 0x2CFF, piece 2 (R463, R464, R465, R466). -/
def page2Cb : List Entry :=
  [ ro 0x2C08 0x2C0F 0x05 0x05 .u64 0  -- Restart tick
  , ro 0x2C08 0x2C0F 0x06 0x06 .u32 0  -- Halts
  , ro 0x2C10 0x2C10 0x00 0x00 .u8 11  -- Highest subindex
  , ⟨0x2C10, 0x2C10, 0x01, 0x01, .u8, .rw, .stopped, 0x41#8, .none, false, 1, .le 3⟩  -- Sink
  , ⟨0x2C10, 0x2C10, 0x02, 0x02, .bool, .rw, .live, 0x41#8, .none, false, 0, .le 1⟩  -- Trace enable
  , ⟨0x2C10, 0x2C10, 0x03, 0x03, .u8, .rw, .stopped, 0x41#8, .none, false, 0, .le 1⟩  -- Full policy
  , ⟨0x2C10, 0x2C10, 0x04, 0x04, .u64, .rw, .stopped, 0x41#8, .none, false, 0, .mult 64⟩  -- DRAM base
  , ⟨0x2C10, 0x2C10, 0x05, 0x05, .u64, .rw, .stopped, 0x41#8, .none, false, 4096, .mult64 4096⟩  -- DRAM size
  , ⟨0x2C10, 0x2C10, 0x06, 0x06, .u32, .rw, .live, 0x41#8, .none, false, 0, .any⟩  -- Lantern port enable
  , ⟨0x2C10, 0x2C10, 0x07, 0x07, .u64, .rw, .live, 0x41#8, .none, false, 0, .any⟩  -- Fabric port enable
  , ⟨0x2C10, 0x2C10, 0x08, 0x08, .octet, .rw, .live, 0x41#8, .none, false, 0, .len 16⟩  -- Probe trace select
  , ro 0x2C10 0x2C10 0x09 0x09 .u64 0  -- Packets written
  , ro 0x2C10 0x2C10 0x0A 0x0A .u32 0  -- Packets lost
  , ro 0x2C10 0x2C10 0x0B 0x0B .u8 0  -- Trace state
  , ro 0x2C11 0x2C11 0x00 0x00 .u8 2  -- Highest subindex
  , ⟨0x2C11, 0x2C11, 0x01, 0x01, .u16, .rw, .live, 0x41#8, .none, false, 0, .any⟩  -- Read slot
  , ⟨0x2C11, 0x2C11, 0x02, 0x02, .octet, .ro, .none, 0x41#8, .none, true, 0, .any⟩  -- Buffer slots
  , ro 0x2C18 0x2C1B 0x00 0x00 .u8 5  -- Highest subindex
  , ⟨0x2C18, 0x2C1B, 0x01, 0x01, .u8, .rw, .live, 0x41#8, .none, false, 0, .le 4⟩  -- Source
  , ⟨0x2C18, 0x2C1B, 0x02, 0x02, .u64, .rw, .live, 0x41#8, .none, false, 0, .any⟩  -- Operand
  , ⟨0x2C18, 0x2C1B, 0x03, 0x03, .u8, .rw, .live, 0x41#8, .none, false, 0, .mask 15⟩  -- Action
  , ⟨0x2C18, 0x2C1B, 0x04, 0x04, .u8, .rw, .live, 0x41#8, .none, false, 0, .le 31⟩  -- Region
  , ⟨0x2C18, 0x2C1B, 0x05, 0x05, .bool, .rw, .live, 0x41#8, .none, false, 0, .le 1⟩  -- Armed
  , ro 0x2C60 0x2C7F 0x00 0x00 .u8 16  -- Highest subindex
  , ro 0x2C80 0x2C97 0x00 0x00 .u8 64  -- Highest subindex
  ]

/-- Objects 0x2C00 to 0x2CFF, piece 3 (R453). -/
def page2Cc : List Entry :=
  [ ⟨0x2C60, 0x2C7F, 0x01, 0x10, .octet, .ro, .none, 0x41#8, .part, true, 0, .any⟩  -- Queue head
  , ⟨0x2C80, 0x2C97, 0x01, 0x40, .u32, .ro, .none, 0x41#8, .part, true, 0, .any⟩  -- Capture head
  ]

/-- Objects 0x2D00 to 0x2DFF, piece 1 (R78, R106, R136, R155, R177, R199). -/
def page2Da : List Entry :=
  [ ro 0x2D60 0x2D60 0x00 0x00 .u8 2  -- Highest subindex
  , ⟨0x2D60, 0x2D60, 0x01, 0x01, .bool, .rw, .live, 0x41#8, .none, false, 0, .le 1⟩  -- Source loss
  , ⟨0x2D60, 0x2D60, 0x02, 0x02, .i32, .rw, .live, 0x41#8, .none, false, 0, .any⟩  -- PPS_IN displacement
  , ro 0x2D70 0x2D70 0x00 0x00 .u8 2  -- Highest subindex
  , ⟨0x2D70, 0x2D70, 0x01, 0x01, .u16, .rw, .live, 0x41#8, .none, false, 0, .le 1535⟩  -- Target test point
  , ⟨0x2D70, 0x2D70, 0x02, 0x02, .u8, .wo, .live, 0x41#8, .none, false, 0, .btw 1 7⟩  -- Vane fault
  , ro 0x2D62 0x2D62 0x00 0x00 .u8 2  -- Highest subindex
  , ⟨0x2D62, 0x2D62, 0x01, 0x01, .u8, .rw, .live, 0x41#8, .none, false, 0, .le 31⟩  -- Target region
  , ⟨0x2D62, 0x2D62, 0x02, 0x02, .u8, .wo, .live, 0x41#8, .none, false, 0, .btw 1 9⟩  -- Inject cause
  , ro 0x2D10 0x2D10 0x00 0x00 .u8 3  -- Highest subindex
  , ⟨0x2D10, 0x2D10, 0x01, 0x01, .u8, .rw, .live, 0x41#8, .none, false, 0, .le 31⟩  -- Target region
  , ⟨0x2D10, 0x2D10, 0x02, 0x02, .u8, .rw, .live, 0x41#8, .none, false, 1, .btw 1 15⟩  -- Target net
  , ⟨0x2D10, 0x2D10, 0x03, 0x03, .bool, .wo, .live, 0x41#8, .none, false, 0, .le 1⟩  -- Inject stall
  , ro 0x2D50 0x2D50 0x00 0x00 .u8 2  -- Highest subindex
  , ⟨0x2D50, 0x2D50, 0x01, 0x01, .u8, .rw, .live, 0x41#8, .none, false, 0, .le 31⟩  -- Target region
  , ⟨0x2D50, 0x2D50, 0x02, 0x02, .bool, .wo, .live, 0x41#8, .none, false, 0, .le 1⟩  -- Inject unlock
  , ro 0x2D20 0x2D20 0x00 0x00 .u8 4  -- Highest subindex
  , ⟨0x2D20, 0x2D20, 0x01, 0x01, .u8, .rw, .live, 0x41#8, .none, false, 0, .le 31⟩  -- Target region
  , ⟨0x2D20, 0x2D20, 0x02, 0x02, .u32, .rw, .live, 0x41#8, .none, false, 0, .any⟩  -- Target address
  , ⟨0x2D20, 0x2D20, 0x03, 0x03, .u16, .rw, .live, 0x41#8, .none, false, 0, .le 287⟩  -- Target bit
  , ⟨0x2D20, 0x2D20, 0x04, 0x04, .u8, .wo, .live, 0x41#8, .none, false, 0, .btw 1 2⟩  -- Inject
  , ro 0x2D30 0x2D30 0x00 0x00 .u8 3  -- Highest subindex
  , ⟨0x2D30, 0x2D30, 0x01, 0x01, .u8, .rw, .live, 0x41#8, .none, false, 0, .le 31⟩  -- Target region
  , ⟨0x2D30, 0x2D30, 0x02, 0x02, .u8, .rw, .live, 0x41#8, .none, false, 0, .le 15⟩  -- Target queue block
  , ⟨0x2D30, 0x2D30, 0x03, 0x03, .u8, .wo, .live, 0x41#8, .none, false, 0, .btw 1 2⟩  -- Inject mismatch
  ]

/-- Objects 0x2D00 to 0x2DFF, piece 2 (R238, R267, R295, R318, R350, R382, R408). -/
def page2Db : List Entry :=
  [ ro 0x2D40 0x2D40 0x00 0x00 .u8 4  -- Highest subindex
  , ⟨0x2D40, 0x2D40, 0x01, 0x01, .u8, .rw, .live, 0x41#8, .none, false, 0, .le 31⟩  -- Target region
  , ⟨0x2D40, 0x2D40, 0x02, 0x02, .u8, .rw, .live, 0x41#8, .none, false, 0, .le 63⟩  -- Target block
  , ⟨0x2D40, 0x2D40, 0x03, 0x03, .u16, .rw, .live, 0x41#8, .none, false, 0, .any⟩  -- Target index
  , ⟨0x2D40, 0x2D40, 0x04, 0x04, .u8, .wo, .live, 0x41#8, .none, false, 0, .btw 1 5⟩  -- Inject
  , ro 0x2D80 0x2D80 0x00 0x00 .u8 4  -- Highest subindex
  , ⟨0x2D80, 0x2D80, 0x01, 0x01, .u8, .rw, .live, 0x41#8, .none, false, 0, .le 7⟩  -- Target channel
  , ⟨0x2D80, 0x2D80, 0x02, 0x02, .u8, .wo, .live, 0x41#8, .none, false, 0, .btw 1 4⟩  -- Inject
  , ⟨0x2D80, 0x2D80, 0x03, 0x03, .i16, .rw, .live, 0x41#8, .none, false, 32767, .any⟩  -- Temperature override
  , ⟨0x2D80, 0x2D80, 0x04, 0x04, .bool, .rw, .live, 0x41#8, .none, false, 0, .le 1⟩  -- Sensor failure
  , ro 0x2D90 0x2D90 0x00 0x00 .u8 3  -- Highest subindex
  , ⟨0x2D90, 0x2D90, 0x01, 0x01, .u8, .rw, .live, 0x41#8, .none, false, 0, .le 63⟩  -- Target region
  , ⟨0x2D90, 0x2D90, 0x02, 0x02, .u8, .rw, .live, 0x41#8, .none, false, 1, .le 10⟩  -- Target level
  , ⟨0x2D90, 0x2D90, 0x03, 0x03, .u8, .wo, .live, 0x41#8, .none, false, 0, .btw 1 5⟩  -- Inject
  , ro 0x2DA0 0x2DA0 0x00 0x00 .u8 3  -- Highest subindex
  , ⟨0x2DA0, 0x2DA0, 0x01, 0x01, .u8, .rw, .live, 0x41#8, .none, false, 0, .le 3⟩  -- Target port
  , ⟨0x2DA0, 0x2DA0, 0x02, 0x02, .u8, .rw, .live, 0x41#8, .none, false, 0, .le 15⟩  -- Target channel
  , ⟨0x2DA0, 0x2DA0, 0x03, 0x03, .u8, .wo, .live, 0x41#8, .none, false, 0, .btw 1 3⟩  -- Inject
  , ro 0x2DB0 0x2DB0 0x00 0x00 .u8 2  -- Highest subindex
  , ⟨0x2DB0, 0x2DB0, 0x01, 0x01, .u8, .rw, .live, 0x41#8, .none, false, 0, .le 1⟩  -- Target port
  , ⟨0x2DB0, 0x2DB0, 0x02, 0x02, .u8, .wo, .live, 0x41#8, .none, false, 0, .btw 1 4⟩  -- Inject
  , ro 0x2DC0 0x2DC0 0x00 0x00 .u8 1  -- Highest subindex
  , ⟨0x2DC0, 0x2DC0, 0x01, 0x01, .u8, .wo, .live, 0x41#8, .none, false, 0, .btw 1 4⟩  -- Inject
  , ro 0x2DD0 0x2DD0 0x00 0x00 .u8 2  -- Highest subindex
  , ⟨0x2DD0, 0x2DD0, 0x01, 0x01, .u32, .rw, .live, 0x41#8, .none, false, 0, .mask 0x03FF83FF⟩  -- Target frame
  ]

/-- Objects 0x2D00 to 0x2DFF, piece 3 (R408, R438, R469, R486, R487). -/
def page2Dc : List Entry :=
  [ ⟨0x2DD0, 0x2DD0, 0x02, 0x02, .u8, .wo, .live, 0x41#8, .none, false, 0, .btw 1 6⟩  -- Inject
  , ro 0x2D00 0x2D00 0x00 0x00 .u8 2  -- Highest subindex
  , ⟨0x2D00, 0x2D00, 0x01, 0x01, .u64, .rw, .live, 0x41#8, .none, false, 0, .mask 0xFFFFFFFF0000FFFF⟩  -- Inject failure
  , ⟨0x2D00, 0x2D00, 0x02, 0x02, .u8, .rw, .live, 0x41#8, .none, false, 0, .le 39⟩  -- Cut short
  , ro 0x2DE0 0x2DE0 0x00 0x00 .u8 3  -- Highest subindex
  , ⟨0x2DE0, 0x2DE0, 0x01, 0x01, .u8, .rw, .live, 0x41#8, .none, false, 0, .le 39⟩  -- Target
  , ⟨0x2DE0, 0x2DE0, 0x02, 0x02, .i16, .rw, .live, 0x41#8, .none, false, 32767, .any⟩  -- Temperature override
  , ⟨0x2DE0, 0x2DE0, 0x03, 0x03, .u8, .wo, .live, 0x41#8, .none, false, 0, .btw 1 6⟩  -- Inject
  , ro 0x2DF0 0x2DF0 0x00 0x00 .u8 1  -- Highest subindex
  , ⟨0x2DF0, 0x2DF0, 0x01, 0x01, .u8, .wo, .live, 0x41#8, .none, false, 0, .btw 1 3⟩  -- Inject
  , ro 0x2DFF 0x2DFF 0x00 0x00 .u8 4  -- Highest subindex
  , ⟨0x2DFF, 0x2DFF, 0x01, 0x01, .bool, .rw, .live, 0x01#8, .none, false, 0, .le 1⟩  -- Injection enable
  , ro 0x2DFF 0x2DFF 0x02 0x02 .u8 0  -- Injections armed
  , ro 0x2DFF 0x2DFF 0x03 0x03 .u32 0  -- Injections applied
  , ro 0x2DFF 0x2DFF 0x04 0x04 .u32 0  -- Last injected code
  , ro 0x2DD1 0x2DD1 0x00 0x00 .u8 2  -- Highest subindex
  , ⟨0x2DD1, 0x2DD1, 0x01, 0x01, .u32, .rw, .live, 0x41#8, .none, false, 0, .mask 0x03FF83FF⟩  -- Target frame
  , ⟨0x2DD1, 0x2DD1, 0x02, 0x02, .u8, .wo, .live, 0x41#8, .none, false, 0, .btw 1 2⟩  -- Inject
  ]

/-- Objects 0x2E00 to 0x2EFF, piece 1 (R33, R46, R104, R153, R265, R293). -/
def page2Ea : List Entry :=
  [ ro 0x2E01 0x2E01 0x00 0x00 .u8 3  -- Highest subindex
  , ⟨0x2E01, 0x2E01, 0x01, 0x01, .u32, .rw, .live, 0x3F#8, .none, false, 0, .any⟩  -- Command serial
  , ro 0x2E01 0x2E01 0x02 0x02 .u8 0  -- Status
  , ⟨0x2E01, 0x2E01, 0x03, 0x03, .u8, .rw, .live, 0x3F#8, .none, false, 0, .le 2⟩  -- Action
  , ro 0x2E30 0x2E30 0x00 0x00 .u8 3  -- Highest subindex
  , ⟨0x2E30, 0x2E30, 0x01, 0x01, .u32, .rw, .live, 0x21#8, .none, false, 0, .any⟩  -- Command serial
  , ro 0x2E30 0x2E30 0x02 0x02 .u8 0  -- Status
  , ⟨0x2E30, 0x2E30, 0x03, 0x03, .u64, .rw, .live, 0x21#8, .none, false, 0, .any⟩  -- New tick count
  , ro 0x2E25 0x2E25 0x00 0x00 .u8 4  -- Highest subindex
  , ⟨0x2E25, 0x2E25, 0x01, 0x01, .u32, .rw, .live, 0x41#8, .part, false, 0, .any⟩  -- Command serial
  , ro 0x2E25 0x2E25 0x02 0x02 .u8 0  -- Status
  , ⟨0x2E25, 0x2E25, 0x03, 0x03, .u8, .rw, .live, 0x41#8, .part, false, 0, .le 7⟩  -- Partition
  , ⟨0x2E25, 0x2E25, 0x04, 0x04, .u64, .rw, .live, 0x41#8, .part, false, 0, .any⟩  -- Re-arm frame
  , ro 0x2E05 0x2E05 0x00 0x00 .u8 4  -- Highest subindex
  , ⟨0x2E05, 0x2E05, 0x01, 0x01, .u32, .rw, .live, 0x41#8, .part, false, 0, .any⟩  -- Command serial
  , ro 0x2E05 0x2E05 0x02 0x02 .u8 0  -- Status
  , ⟨0x2E05, 0x2E05, 0x03, 0x03, .u8, .rw, .live, 0x41#8, .part, false, 0, .le 31⟩  -- Region
  , ⟨0x2E05, 0x2E05, 0x04, 0x04, .u64, .rw, .live, 0x41#8, .part, false, 0, .any⟩  -- Release frame
  , ro 0x2E26 0x2E26 0x00 0x00 .u8 3  -- Highest subindex
  , ⟨0x2E26, 0x2E26, 0x01, 0x01, .u32, .rw, .live, 0x21#8, .none, false, 0, .any⟩  -- Command serial
  , ro 0x2E26 0x2E26 0x02 0x02 .u8 0  -- Status
  , ⟨0x2E26, 0x2E26, 0x03, 0x03, .u16, .rw, .live, 0x21#8, .none, false, 0, .any⟩  -- Rate
  , ro 0x2E27 0x2E27 0x00 0x00 .u8 5  -- Highest subindex
  , ⟨0x2E27, 0x2E27, 0x01, 0x01, .u32, .rw, .live, 0x7F#8, .none, false, 0, .any⟩  -- Command serial
  , ro 0x2E27 0x2E27 0x02 0x02 .u8 0  -- Status
  ]

/-- Objects 0x2E00 to 0x2EFF, piece 2 (R293, R301, R377, R378, R406, R419). -/
def page2Eb : List Entry :=
  [ ⟨0x2E27, 0x2E27, 0x03, 0x03, .u8, .rw, .live, 0x7F#8, .none, false, 0, .le 63⟩  -- Region
  , ⟨0x2E27, 0x2E27, 0x04, 0x04, .u8, .rw, .live, 0x7F#8, .none, false, 0, .le 4⟩  -- Action
  , ⟨0x2E27, 0x2E27, 0x05, 0x05, .u8, .rw, .live, 0x7F#8, .none, false, 255, .orAll 63 255⟩  -- Poison entry
  , ro 0x2E21 0x2E21 0x00 0x00 .u8 4  -- Highest subindex
  , ⟨0x2E21, 0x2E21, 0x01, 0x01, .u32, .rw, .live, 0x41#8, .part, false, 0, .any⟩  -- Command serial
  , ro 0x2E21 0x2E21 0x02 0x02 .u8 0  -- Status
  , ⟨0x2E21, 0x2E21, 0x03, 0x03, .u8, .rw, .live, 0x41#8, .part, false, 0, .le 7⟩  -- Partition
  , ⟨0x2E21, 0x2E21, 0x04, 0x04, .u64, .rw, .live, 0x41#8, .part, false, 0, .any⟩  -- Release frame
  , ro 0x2E00 0x2E00 0x00 0x00 .u8 2  -- Highest subindex
  , ⟨0x2E00, 0x2E00, 0x01, 0x01, .u32, .rw, .live, 0x01#8, .stream, false, 0, .any⟩  -- Command serial
  , ro 0x2E00 0x2E00 0x02 0x02 .u8 0  -- Status
  , ro 0x2E22 0x2E22 0x00 0x00 .u8 6  -- Highest subindex
  , ⟨0x2E22, 0x2E22, 0x01, 0x01, .u32, .rw, .live, 0x3F#8, .none, false, 0, .any⟩  -- Command serial
  , ro 0x2E22 0x2E22 0x02 0x02 .u8 0  -- Status
  , ⟨0x2E22, 0x2E22, 0x03, 0x03, .u8, .rw, .live, 0x3F#8, .none, false, 1, .btw 1 2⟩  -- Source
  , ⟨0x2E22, 0x2E22, 0x04, 0x04, .u64, .rw, .live, 0x3F#8, .none, false, 0, .any⟩  -- Address
  , ⟨0x2E22, 0x2E22, 0x05, 0x05, .u16, .rw, .live, 0x3F#8, .none, false, 1, .btw 1 65535⟩  -- List entries
  , ro 0x2E22 0x2E22 0x06 0x06 .u8 0  -- Result
  , ro 0x2E29 0x2E29 0x00 0x00 .u8 5  -- Highest subindex
  , ⟨0x2E29, 0x2E29, 0x01, 0x01, .u32, .rw, .live, 0x41#8, .part, false, 0, .any⟩  -- Command serial
  , ro 0x2E29 0x2E29 0x02 0x02 .u8 0  -- Status
  , ⟨0x2E29, 0x2E29, 0x03, 0x03, .u8, .rw, .live, 0x41#8, .part, false, 0, .le 5⟩  -- Action
  , ⟨0x2E29, 0x2E29, 0x04, 0x04, .u8, .rw, .live, 0x41#8, .part, false, 0, .le 31⟩  -- Region or channel
  , ⟨0x2E29, 0x2E29, 0x05, 0x05, .u8, .rw, .live, 0x41#8, .part, false, 0, .le 63⟩  -- Block or bank
  , ro 0x2E2A 0x2E2A 0x00 0x00 .u8 5  -- Highest subindex
  ]

/-- Objects 0x2E00 to 0x2EFF, piece 3 (R419, R435, R467). -/
def page2Ec : List Entry :=
  [ ⟨0x2E2A, 0x2E2A, 0x01, 0x01, .u32, .rw, .live, 0x3F#8, .none, false, 0, .any⟩  -- Command serial
  , ro 0x2E2A 0x2E2A 0x02 0x02 .u8 0  -- Status
  , ⟨0x2E2A, 0x2E2A, 0x03, 0x03, .u8, .rw, .live, 0x3F#8, .none, false, 0, .le 5⟩  -- Action
  , ⟨0x2E2A, 0x2E2A, 0x04, 0x04, .u64, .rw, .live, 0x3F#8, .none, false, 0, .any⟩  -- Address
  , ⟨0x2E2A, 0x2E2A, 0x05, 0x05, .u16, .rw, .live, 0x3F#8, .none, false, 1, .btw 1 65535⟩  -- List entries
  , ro 0x2E2C 0x2E2C 0x00 0x00 .u8 5  -- Highest subindex
  , ⟨0x2E2C, 0x2E2C, 0x01, 0x01, .u32, .rw, .live, 0x3F#8, .none, false, 0, .any⟩  -- Command serial
  , ro 0x2E2C 0x2E2C 0x02 0x02 .u8 0  -- Status
  , ⟨0x2E2C, 0x2E2C, 0x03, 0x03, .u8, .rw, .live, 0x3F#8, .none, false, 0, .le 3⟩  -- Action
  , ⟨0x2E2C, 0x2E2C, 0x04, 0x04, .u8, .rw, .live, 0x3F#8, .none, false, 0, .le 15⟩  -- Slot
  , ⟨0x2E2C, 0x2E2C, 0x05, 0x05, .octet, .wo, .live, 0x3F#8, .none, false, 0, .len 137⟩  -- Blob
  , ro 0x2E2D 0x2E2D 0x00 0x00 .u8 5  -- Highest subindex
  , ⟨0x2E2D, 0x2E2D, 0x01, 0x01, .u32, .rw, .live, 0x41#8, .part, false, 0, .any⟩  -- Command serial
  , ro 0x2E2D 0x2E2D 0x02 0x02 .u8 0  -- Status
  , ⟨0x2E2D, 0x2E2D, 0x03, 0x03, .u8, .rw, .live, 0x41#8, .part, false, 0, .le 3⟩  -- Action
  , ⟨0x2E2D, 0x2E2D, 0x04, 0x04, .u8, .rw, .live, 0x41#8, .part, false, 0, .le 31⟩  -- Region
  , ⟨0x2E2D, 0x2E2D, 0x05, 0x05, .u32, .rw, .live, 0x41#8, .part, false, 1024, .multTo 64 16777216⟩  -- Step ticks
  ]

/-- Objects 0x6000 to 0x60FF, piece 1 (R347). -/
def page60a : List Entry :=
  [ ro 0x6000 0x6003 0x00 0x00 .u8 64  -- Highest subindex
  , ro 0x6000 0x6003 0x01 0x40 .u32 0  -- Input word
  ]

/-- Objects 0x6100 to 0x61FF, piece 1 (R347). -/
def page61a : List Entry :=
  [ ro 0x6100 0x6100 0x00 0x00 .u8 4  -- Highest subindex
  , ro 0x6100 0x6100 0x01 0x01 .u32 0  -- Device status
  , ro 0x6100 0x6100 0x02 0x02 .u32 0  -- Contract summary
  , ro 0x6100 0x6100 0x03 0x03 .u32 0  -- Event instant
  , ro 0x6100 0x6100 0x04 0x04 .u32 0  -- Log count
  ]

/-- Objects 0x7000 to 0x70FF, piece 1 (R347). -/
def page70a : List Entry :=
  [ ro 0x7000 0x7003 0x00 0x00 .u8 64  -- Highest subindex
  , ro 0x7000 0x7003 0x01 0x40 .u32 0  -- Output word
  ]

/-- The entries whose index has this high byte. -/
def page (hi : Nat) : List Entry :=
  match hi with
  | 0x10 => page10a
  | 0x16 => page16a
  | 0x1A => page1Aa
  | 0x1C => page1Ca
  | 0x20 => page20a ++ page20b
  | 0x21 => page21a
  | 0x22 => page22a ++ page22b
  | 0x23 => page23a
  | 0x24 => page24a ++ page24b
  | 0x25 => page25a ++ page25b ++ page25c
  | 0x26 => page26a ++ page26b
  | 0x27 => page27a ++ page27b
  | 0x28 => page28a
  | 0x29 => page29a ++ page29b
  | 0x2A => page2Aa
  | 0x2B => page2Ba
  | 0x2C => page2Ca ++ page2Cb ++ page2Cc
  | 0x2D => page2Da ++ page2Db ++ page2Dc
  | 0x2E => page2Ea ++ page2Eb ++ page2Ec
  | 0x60 => page60a
  | 0x61 => page61a
  | 0x70 => page70a
  | _ => []

/-- The row of an entry. -/
def find (idx sub : Nat) : Option Entry :=
  (page (idx / 256)).find? fun e =>
    decide (e.lo ≤ idx) && decide (idx ≤ e.hi) && decide (e.sub ≤ sub) && decide (sub ≤ e.subHi)

/-- Whether the object exists. -/
def hasObject (idx : Nat) : Bool :=
  (page (idx / 256)).any fun e => decide (e.lo ≤ idx) && decide (idx ≤ e.hi)

/-- Defaults that the tables give by a formula: the PDO mappings, the assignments and the SM types (R346). -/
def formula (idx sub : Nat) : Option Nat :=
  if sub = 0 then none
  else if 0x1600 ≤ idx ∧ idx ≤ 0x1603 then some ((0x7000 + (idx - 0x1600)) * 65536 + sub * 256 + 0x20)
  else if 0x1A00 ≤ idx ∧ idx ≤ 0x1A03 then some ((0x6000 + (idx - 0x1A00)) * 65536 + sub * 256 + 0x20)
  else if idx = 0x1A04 then some (0x61000020 + sub * 256)
  else if idx = 0x1C00 then some sub
  else if idx = 0x1C12 then some (0x1600 + sub - 1)
  else if idx = 0x1C13 then some (if sub = 1 then 0x1A04 else 0x1A00 + sub - 2)
  else none

/-- The default of an entry (0 where there is none). -/
def dflt (idx sub : Nat) : Nat :=
  match find idx sub with
  | some e => (formula idx sub).getD e.dflt
  | none => 0

end DictTable

/-- Bytes of a type; 0 for strings. -/
def Ty.bytes : Ty → Nat
  | .bool => 1 | .u8 => 1 | .u16 => 2 | .u32 => 4 | .u64 => 8
  | .i16 => 2 | .i32 => 4 | .i64 => 8 | .vstr => 0 | .octet => 0

end Sys2Proof.Machine
end

