-- ==== Sys2Proof/Machine/State.lean ====
section
/-! DEFINITION. The state of the device as plain data, and State.reset: the values at entry to REDUCED after power-up,
the reset that the Default columns of the manual name (R9, R30). Collections indexed by a unit number are tables
(sorted lists of number and record) in which a unit that is not listed holds its reset record. -/

namespace Sys2Proof.Machine

open Sys2Proof

/-- A table of records by unit number. -/
abbrev Tab (α : Type) := List (Nat × α)

/-- Words of a memory by address, canonical: addresses rise and no listed word is 0 (R169, R225). -/
abbrev Mem (w : Nat) := List (Nat × BitVec w)

/-- Device states (R29). -/
inductive DeviceState where
  | off | standby | boot | reduced | full | closing | safe
  deriving DecidableEq, Repr

/-- State of a clock monitor (R18). -/
inductive ClockState where
  | running | notStarted | lost
  deriving DecidableEq, Repr

/-- The device as a whole (01). -/
structure Device where
  /-- present state, R29; reset REDUCED -/
  st : DeviceState := .reduced
  /-- previous state 0x2001:02, R30; reset BOOT -/
  prev : DeviceState := .boot
  /-- transition cause 0x2001:03, 32 bits, R30; reset 0 -/
  cause : Nat := 0
  /-- readiness bits of 0x2001:04, R31; reset 0 -/
  selftestOk : Bool := false
  timebaseOk : Bool := false
  configOk : Bool := false
  dramOk : Bool := false
  /-- power domains P00 to P19 that are on, R20 -/
  power : BitVec 20 := BitVec.allOnes 20
  /-- domains whose supply is outside its limits, R21 -/
  powerFault : BitVec 20 := 0#20
  /-- the 40 clock monitors, R18; unlisted: running -/
  clocks : Tab ClockState := []
  /-- MAIN_EN, R492 -/
  mainEn : Bool := true
  /-- the main supplies are good, R491 -/
  mainGood : Bool := true
  /-- REF_CLK runs, R19 -/
  refClk : Bool := true
  /-- BOOT stays with ALERT_N low: power fault, R414 -/
  bootFault : Bool := false
  /-- the ROM is in recovery, R416 -/
  recovery : Bool := false
  /-- MODE[2:0] as latched at BOOT, R372 -/
  mode : BitVec 3 := 0#3
  /-- the device drives GATE low, R369 -/
  gateDrive : Bool := true
  /-- GATE level at the last sample, R380 -/
  gateLevel : Bool := false
  /-- CLOSING was entered from SAFE, R398 -/
  closingFromSafe : Bool := false
  /-- steps of CLOSING done: banks parked, self-refresh done, R398 -/
  closingStage : Nat := 0
  /-- a detection was withheld since the last chip-level entry, R475 -/
  withheld : Bool := false
  /-- conditions whose event is raised and not yet cleared, R472: event codes -/
  raised : List Nat := []
  /-- detection tick of the last chip-level fault, R475 -/
  faultTick : Option Nat := none
  /-- tick of the last entry to FULL or CLOSING, which a fault of the same C36 cycle takes back, and the owner that commanded it,
  R35 -/
  decidedAt : Option (Nat × Nat) := none
  /-- measured values of the voltage monitors (mV) and the clock monitors (kHz), R423: unlisted: nominal -/
  volts : Tab Nat := []
  freqs : Tab Nat := []
  deriving DecidableEq, Repr

/-- Belfry states (R39). -/
inductive BelfryState where
  | free | locking | locked | holdover
  deriving DecidableEq, Repr

/-- Belfry (02). Its parameters 0x2301 and 0x2302 stand in the register store. -/
structure Belfry where
  /-- tick count, 64 bits, R36; reset DESIGN CHOICE 0 -/
  tick : Nat := 0
  st : BelfryState := .free
  /-- last offset in ps, 0x2300:04, R45; reset 0 -/
  offset : Int := 0
  /-- frequency correction c in parts per 10^12, R510; reset 0 -/
  corr : Int := 0
  /-- frequency term i, R510; reset 0 -/
  term : Int := 0
  /-- consecutive good measurements, R38 -/
  good : Nat := 0
  /-- consecutive missing PPS edges, R38 -/
  missed : Nat := 0
  /-- tick of the last correction of source 3, R510 -/
  lastCorr : Option Int := none
  /-- centre of the window of the next PPS_IN edge in fine steps, 1 s after the edge before; none: no window, R38 -/
  ppsWin : Option Nat := none
  /-- no measurement of the present source has come since the source was changed, R45 -/
  fresh : Bool := false
  /-- the return of correction and term to 0: its start and the two values, R40 -/
  returnFrom : Option (Nat × Int × Int) := none
  /-- PPS_OUT, R44 -/
  pps : Bool := false
  ppsFall : Nat := 0
  /-- correction held by the compare freeze of R445 -/
  frozenCorr : Option Int := none
  deriving DecidableEq, Repr

/-- A test-point bank (02 R48 to R54). Its plain registers 0x24bb:03 to :0F stand in the register store. -/
structure Bank where
  /-- bank mode 0x24bb:01, R49; reset 1 -/
  mode : Nat := 1
  /-- voltage code 0x24bb:02, R48; reset 5, the board's 3.3 V (DESIGN CHOICE) -/
  code : Nat := 5
  /-- measured VCCO in mV -/
  mV : Nat := 3300
  /-- fault park, R72 -/
  faultParked : Bool := false
  /-- VCCO park, R48 -/
  vccoParked : Bool := false
  /-- output enable 0x24bb:09 and level 0x24bb:0A of direct mode, R50 -/
  oe : BitVec 64 := 0#64
  level : BitVec 64 := 0#64
  /-- drivers as the vanes set them: enable and level, R59 -/
  vOe : BitVec 64 := 0#64
  vLevel : BitVec 64 := 0#64
  /-- pins that are at park level through PARK, or stay at it after a park of the bank until their first action or
  direct-mode output write, R64, R72 -/
  parkedPins : BitVec 64 := 0#64
  /-- region cycle of the last change of a driver, and enables and levels at the edge that began it: what the test-point input
  registers took there, R64, R69 -/
  shown : Option (Nat × BitVec 64 × BitVec 64) := none
  /-- drive state that park level 3 holds -/
  holdOe : BitVec 64 := 0#64
  holdLevel : BitVec 64 := 0#64
  /-- queue epoch that the bank's vanes took at the last entry to vane mode or step, R57, R43 -/
  qeBase : Nat := 0
  /-- the committed configuration of the carrying region uses the bank, R49 -/
  used : Bool := false
  /-- pattern table, R50: unlisted entries 0 -/
  pattern : Mem 128 := []
  /-- pattern control 0x24bb:10 and the number of the next entry -/
  patCtl : Nat := 0
  patNext : Nat := 0
  /-- instant at which the next pattern entry is due -/
  patDue : Nat := 0
  /-- contention mask 0x24bb:12, R53 -/
  contention : BitVec 64 := 0#64
  /-- pulls written through the bank control port, R52 -/
  ctlPull : Tab Nat := []
  deriving DecidableEq, Repr

/-- Vane actions (R56). -/
inductive Act where
  | nop | driveLow | driveHigh | release | captureRise | captureFall | captureAny | sample
  | windowLow | windowHigh | windowClose | disarm | reflexArm | reflexDisarm | park | epoch
  deriving DecidableEq, Repr

/-- Which edge an armed capture waits for (R62). -/
inductive EdgeSel where
  | rise | fall | any
  deriving DecidableEq, Repr

/-- A vane (02 R55 to R71). -/
structure Vane where
  /-- queue epoch QE, 42 bits, R57; none: the bank's -/
  qe : Option Nat := none
  /-- event queue: action and instant in fine steps before deskew, R57, R58 -/
  queue : List (Act × Nat × BitVec 32) := []
  /-- instant of the last word queued, R58 -/
  last : Option Nat := none
  /-- region cycle of the last word accepted: one word at each region clock edge, R58 -/
  accepted : Option Nat := none
  /-- armed capture and the instant from which it counts, R62 -/
  armed : Option (EdgeSel × Nat) := none
  /-- open window: expected level, and whether it has failed, R63 -/
  window : Option (Bool × Bool) := none
  /-- region cycles in which vane_win_done pulses, each with its vane_win_fail, R63 -/
  winOut : List (Nat × Bool) := []
  /-- capture FIFO, oldest first, R61 -/
  fifo : List (BitVec 32) := []
  /-- region cycle of the last pop, and the entry that it removed: the next one shows from the following cycle on, R64 -/
  popped : Option (Nat × BitVec 32) := none
  /-- epoch of the previous entry written, R61 -/
  fifoEpoch : Option Nat := none
  /-- entries lost in the present overflow episode, R61 -/
  lost : Nat := 0
  /-- instant of the last drive transition in fine steps, R59 -/
  lastDrive : Option Nat := none
  /-- vane_fail, and the region cycle of the last failure, R64 -/
  fail : Bool := false
  failAt : Option Nat := none
  /-- the reflex path holds the driver, R70, and the instant of the REFLEX_ARM, R74 -/
  reflex : Bool := false
  reflexAt : Nat := 0
  /-- drive and capture deskew, R65 -/
  driveDeskew : Int := 0
  capDeskew : Int := 0
  /-- the delay line in use, whether the standby line is calibrated and waits, and the limit flag, R68 -/
  line : Bool := false
  calibrated : Bool := false
  deferred : Bool := false
  degraded : Bool := false
  deriving DecidableEq, Repr

/-- Contract status codes (R94). -/
inductive Contract where
  | none | armed | broken | suspended
  deriving DecidableEq, Repr

/-- Halt states of a partition (R463). -/
inductive HaltState where
  | running | pending | halted | stepping
  deriving DecidableEq, Repr

/-- A miss record (R91, R102). -/
structure MissRecord where
  cause : Nat
  region : Nat
  slot : Nat
  tag : Nat
  frame : Nat
  tick : Nat
  cycle : Nat
  injected : Bool
  deriving DecidableEq, Repr

/-- A partition: owner and claim (11 R299), contract (03 R102), run control (16 R463), reset command (R301). -/
structure Partition where
  /-- 0x211p:01, 0xFF for none -/
  owner : Nat := 0xFF
  /-- 0x211p:02 -/
  claim : BitVec 32 := 0#32
  /-- 0x211p:03 and 0x2521 + p:03 -/
  regions : BitVec 32 := 0#32
  /-- a stream is committed to it -/
  committed : Bool := false
  status : Contract := .none
  /-- frame exponent k -/
  k : Nat := 0
  /-- the committed stream holds slot tables -/
  tables : Bool := false
  /-- first miss (0x252x:05 to :0B, :0D) -/
  firstMiss : Option MissRecord := none
  /-- re-arm waiting for this tick, R96 -/
  rearmAt : Option Nat := none
  /-- halt state, halt tick due, restart tick due, ticks to step, R443 to R447 -/
  halt : HaltState := .running
  haltAt : Option Nat := none
  restartAt : Option Nat := none
  stepTicks : Option Nat := none
  haltTick : Nat := 0
  /-- the region that the busy run-control command names, R467 -/
  runCmd : Option Nat := none
  /-- freeze options as read at t_h: vanes, process data, best-effort service, R445 -/
  vaneOpt : Nat := 0
  pdFrozen : Bool := false
  beFrozen : Bool := false
  /-- partition reset release due, and whether its command is still busy, R301 -/
  resetAt : Option Nat := none
  resetCmd : Bool := false
  deriving DecidableEq, Repr

/-- The standby synthesizer of a region (R141). -/
inductive Standby where
  | idle | locking (m : Nat) | locked (m : Nat)
  deriving DecidableEq, Repr

/-- A switch of a net's multiplexer in progress (R120, R121, R136). -/
structure NetSwitch where
  /-- the new input -/
  sel : Bool
  /-- the falling edge of the old input at which the output is held low, in half net-0 cycles -/
  fall : Nat
  /-- rising edges of the new input since then -/
  seen : Nat := 0
  /-- net-0 cycles since the switch began -/
  cycles : Nat := 0
  /-- its stall is raised, R121 -/
  stalled : Bool := false
  /-- an injected stall holds the new input, R136 -/
  injected : Bool := false
  deriving DecidableEq, Repr

/-- A clock net 1 to 15 of a region (R117 to R122). -/
structure Net where
  /-- divisors of inputs A and B, or the lower net that feeds them -/
  divA : Nat := 1
  divB : Nat := 1
  srcA : Option Nat := none
  srcB : Option Nat := none
  /-- the gate stage is enabled -/
  gate : Bool := false
  /-- clk_sel as presented, and clk_cur -/
  sel : Bool := false
  cur : Bool := false
  switching : Option NetSwitch := none
  /-- the next switch is held by an injected stall, R136 -/
  hold : Bool := false
  /-- clk_en as presented, as last sampled, and whether the last edge of the multiplexer passed the gate, R122 -/
  enIn : Bool := true
  en : Bool := true
  passed : Bool := true
  /-- rising edges of the net so far -/
  edges : Nat := 0
  deriving DecidableEq, Repr

/-- A region: island (05 R138 to R155), resets (04 R124), schedule (03 R103). -/
structure Region where
  /-- ratio code M, R138; reset 80 -/
  m : Nat := 80
  /-- configured by a committed stream of this partition -/
  part : Option Nat := none
  /-- fenced, R26, with the code 0x25ii:06 kept in the register store -/
  fenced : Bool := false
  /-- halted by debug, R443 -/
  halted : Bool := false
  /-- restart in progress: its release tick, R150 -/
  restartAt : Option Nat := none
  /-- unlock indicator by real detection and by injection, R140, R155 -/
  unlock : Bool := false
  unlockInj : Bool := false
  /-- hard reset asserted (before the first commit it is), R124 -/
  inReset : Bool := true
  /-- net-0 cycle of the last release edge, R125, R137 -/
  released : Nat := 0
  /-- nets whose flip-flops have left the reset, R125 -/
  live : BitVec 16 := 0#16
  /-- island cycle 0 of the count, in island periods after tick count 0, and the count at which a stopped island clock
  stands, R26, R27, R142 -/
  isleBase : Int := 0
  isleHold : Option Nat := none
  /-- the net-0 edges before this cycle have acted on the nets and flip-flops of the record -/
  settled : Nat := 0
  /-- flip-flops that hold another value than INIT, by ((x * 256 + y) * 8 + cell) * 2 + number, R109 -/
  ff : Tab Bool := []
  /-- the same before the last edge -/
  ffWas : Tab Bool := []
  /-- reflex output registers by test point, enable and level, and what they held before the last edge, R69 -/
  rfx : Tab (Bool × Bool) := []
  rfxWas : Tab (Bool × Bool) := []
  /-- probe concentrator outputs of a region whose island clock is stopped, R131 -/
  heldProbe : BitVec 8 := 0#8
  standby : Standby := .idle
  /-- phase offset 0x25ii:0B: the free-value counter it was taken at; none: the region's own of power-up, R139 -/
  phase : Option Nat := none
  /-- user reset registers urst0 to urst3, R126 -/
  urst : BitVec 4 := 0#4
  nets : Tab Net := []
  /-- net-0 cycle from which the dividers count, R118 -/
  divStart : Nat := 0
  /-- settings of the committed stream, R351 -/
  settings : List Setting := []
  /-- slot table, R83, without the end entry -/
  slots : List (BitVec 64) := []
  /-- last miss record, R91 -/
  lastMiss : Option MissRecord := none
  /-- hub port window bindings (channel of the set), R251 -/
  port0 : Option Nat := none
  port1 : Option Nat := none
  /-- process words assigned, R325 -/
  pdOut : BitVec 256 := 0#256
  pdIn : BitVec 256 := 0#256
  /-- blocks in their safe state, R25; blk_safe lags them by one net-0 cycle: the cycle of the last change, and the blocks
  before it, R137 -/
  safeBlocks : BitVec 64 := 0#64
  safeSince : Nat := 0
  safeBefore : BitVec 64 := 0#64
  /-- a clear of the region's memories runs, R170 -/
  clearing : Bool := false
  /-- a lone region's halt state (outside every partition), R443 -/
  lone : HaltState := .running
  loneAt : Option Nat := none
  loneRestart : Option Nat := none
  loneStep : Option Nat := none
  loneCmd : Bool := false
  /-- tick of the last halt, R443 -/
  haltedAt : Nat := 0
  /-- a partition reset's release fell in the halt, R301 -/
  relDue : Bool := false
  /-- covered slot cycles checked before the tick from which the engine checks now, R91, R103 -/
  checked : Nat := 0
  checkedAt : Option Nat := none
  /-- reset pulse of a recover command waits for this tick, R34 -/
  recoverAt : Option Nat := none
  deriving DecidableEq, Repr

/-- A token (R143), with the island cycle of the receiver in which it is released (R144) or from which it may be delivered
(R147). -/
structure Token where
  data : BitVec 32 := 0#32
  valid : Bool := false
  due : Nat := 0
  deriving DecidableEq, Repr

/-- A delivery at the receiving end of a lane: xr_data, xr_valid, xr_poison and xr_sched, shown in one island cycle of the
receiver (R148). -/
structure Delivery where
  data : BitVec 32
  valid : Bool
  poison : Bool
  sched : Bool
  cycle : Nat
  deriving DecidableEq, Repr

/-- A crossing lane, keyed by its sending end (05 R143 to R148). -/
structure LaneState where
  /-- scheduled tokens sent and not yet released, oldest first -/
  inFlight : List Token := []
  /-- unscheduled tokens in the sender's buffer, oldest first -/
  buffer : List Token := []
  /-- the sender's island cycle whose token the send register holds: one token per cycle, R143 -/
  sent : Option Nat := none
  delivered : Option Delivery := none
  deriving DecidableEq, Repr

/-- The operation of a block memory access (R158). -/
inductive BmOp where
  | read | write | set | clear
  deriving DecidableEq, Repr

/-- Result of an access at a memory port: data, corrected, error, unit under test, collision or busy, and the cycle of the
memory's clock in which it is shown (R158, R159, R167). -/
structure PortOut where
  data : BitVec 256 := 0#256
  cor : Bool := false
  err : Bool := false
  uut : Bool := false
  coll : Bool := false
  valid : Bool := false
  at_ : Nat := 0
  deriving DecidableEq, Repr

/-- One access at a block memory: cycle, operation, word and the old word (R160). -/
structure BmAccess where
  cyc : Nat
  op : BmOp
  addr : Nat
  /-- the word and its flipped bits before the access -/
  old : BitVec 40
  oldErr : BitVec 40 × Bool
  cancelled : Bool := false
  deriving DecidableEq, Repr

/-- A block memory's ports: the last access of each and of maintenance, and the results that are still to be shown (06). -/
structure BmState where
  lastA : Option BmAccess := none
  lastB : Option BmAccess := none
  maint : Option BmAccess := none
  outA : List PortOut := []
  outB : List PortOut := []
  deriving DecidableEq, Repr

/-- A scratchpad access (R165). -/
structure SpAccess where
  port : Nat
  we : Bool
  lanes : BitVec 4
  addr : Nat
  data : BitVec 256
  sched : Bool
  /-- cycle in which it was presented -/
  cyc : Nat
  deriving DecidableEq, Repr

/-- A scratchpad bank: the access it served last, with the cycle and the word before it (R166), and the cycle of its last
maintenance access (R168). -/
structure SpBank where
  served : Option (SpAccess × Nat × BitVec 256 × (BitVec 288 × Bool)) := none
  maint : Option Nat := none
  deriving DecidableEq, Repr

/-- A scratchpad port (R165, R166). -/
structure SpPort where
  /-- stalled access, and the last cycle in which it competed -/
  held : Option SpAccess := none
  tried : Nat := 0
  /-- cycle of the last access taken, and the cycle in which a held one won -/
  taken : Option Nat := none
  freed : Option Nat := none
  /-- results that are still to be shown -/
  out : List PortOut := []
  deriving DecidableEq, Repr

/-- On-chip memories (06). Keys: block memory word = region × 2^19 + the address of R173; scratchpad word =
region × 65,536 + index; block memory = (region × 64 + block) × 8 + number; bank = region × 16 + bank;
port = region × 8 + port. -/
structure Memories where
  bm : Mem 40 := []
  sp : Mem 256 := []
  /-- bits of a stored word that are flipped, and whether an injection flipped them (R177) -/
  bmErr : Tab (BitVec 40 × Bool) := []
  spErr : Tab (BitVec 288 × Bool) := []
  bmState : Tab BmState := []
  banks : Tab SpBank := []
  ports : Tab SpPort := []
  /-- demand registers (R162): unit key to word address -/
  demandBm : Tab (Option Nat) := []
  demandSp : Tab (Option Nat) := []
  /-- block memories in bypass mode (R156) -/
  bypass : Tab Bool := []
  /-- clock net of a block memory (R156) -/
  bmNet : Tab Nat := []
  /-- memories marked unrepairable (R172, R397) -/
  badBm : List Nat := []
  badBank : List Nat := []
  /-- units whose contents are undefined, with the epoch and the words written since (R403) -/
  undef : List (MemUnit × Nat × List Nat) := []
  deriving DecidableEq, Repr

/-- What one side of a queue block shows throughout a cycle: the depth that it sees, the watermark flags, and whether its port
holds an access (R182 to R184, R187, R195). -/
structure QueueShow where
  cyc : Nat
  depth : Nat
  hi : Bool
  lo : Bool
  held : Bool
  pack : Nat
  deriving DecidableEq, Repr

/-- A queue block (07), keyed region × 16 + q. Cycles are those of the writing or of the reading side; the fields hold what the
next cycle starts from, and `shownW` and `shownR` what the last cycle with a change shows. -/
structure Queue where
  mode : Nat := 0
  width : Nat := 0
  hi : Nat := 0
  lo : Nat := 0
  /-- complete words, oldest first: data and mask -/
  words : List (BitVec 128 × BitVec 16) := []
  /-- packing register, bytes in order -/
  pack : List Byte := []
  /-- held push: the item's bytes and the writer's cycle, and the cycle in which it can complete, R184 -/
  heldPush : Option (List Byte × Nat) := none
  pushReady : Option Nat := none
  /-- the pop port holds a pop, and the cycle in which it can take a word, R183 -/
  heldPop : Bool := false
  popReady : Option Nat := none
  wmHi : Bool := false
  wmLo : Bool := false
  /-- a reader cycle whose changes are judged: its flags without them, and its depth, R187 -/
  wmAt : Option (Nat × Bool × Bool × Nat) := none
  /-- the write side's copy of the flags, and changes that it takes in later writer cycles, R195 -/
  wmSeen : Bool × Bool := (false, false)
  wmLog : List (Nat × Bool × Bool) := []
  disabled : Bool := false
  /-- write and read pointer pairs, R188 -/
  wptr : Nat := 0
  wptr2 : Nat := 0
  rptr : Nat := 0
  rptr2 : Nat := 0
  /-- ticks of the last pointer mismatches, newest first, and whether one was injected, R189 -/
  mism : List (Nat × Bool) := []
  /-- words that are not yet readable, and pops that the writer does not yet see, oldest first: the cycle that begins at the
  second edge of the side that sees the change, R190 -/
  unread : List Nat := []
  unfreed : List Nat := []
  /-- popped words with their masks and the cycle in which each is shown, R183 -/
  out : List (Nat × BitVec 128 × BitVec 16) := []
  /-- cycles in which q_reset is 1 on the write side and on the read side, R188, R194 -/
  resetW : Option Nat := none
  resetR : Option Nat := none
  /-- cycle of the last push presented, and of the last pop taken, R184, R185 -/
  pushCycle : Option Nat := none
  popCycle : Option Nat := none
  shownW : Option QueueShow := none
  shownR : Option QueueShow := none
  deriving DecidableEq, Repr

/-- States of a slice group (R224). -/
inductive GroupState where
  | stop | run | wait | fault
  deriving DecidableEq, Repr

/-- LOOP bookkeeping (R202, R217): first and last word of the body, and whether a second pass has begun. -/
structure LoopState where
  first : Nat
  last : Nat
  again : Bool := false
  deriving DecidableEq, Repr

/-- One register set of a sequencer (R202). -/
structure RegSet where
  a : Tab (BitVec 14) := []
  m : Tab (BitVec 32) := []
  lc : BitVec 16 := 0#16
  loop : Option LoopState := none
  flags : BitVec 5 := 0#5
  deriving DecidableEq, Repr

/-- A write in the pipeline (R207): the issue cycle of the writer, the register (lane × 16 + accumulator, 8 for BIX), and
the value before the write, which operand reads still see. -/
structure InFlight where
  cycle : Nat
  reg : Nat
  old : BitVec 80
  deriving DecidableEq, Repr

/-- A pending event (R219, R222): the net-0 cycle and the group cycle of its assertion, and whether its overrun is reported. -/
structure EvMark where
  net0 : Nat
  cyc : Nat
  late : Bool := false
  deriving DecidableEq, Repr

/-- The active event handler (R220 to R222): its event, the instructions it has issued, the net-0 cycle of the assertion,
and whether its overrun is reported. -/
structure Handler where
  ev : Nat
  issued : Nat := 0
  since : Nat
  late : Bool := false
  deriving DecidableEq, Repr

/-- A fabric access to a coefficient row that waits for a free access: the cycle in which it competes next, and what it does
(R226). -/
structure CmAccess where
  cyc : Nat
  we : Bool
  row : Nat
  data : BitVec 256
  deriving DecidableEq, Repr

/-- A slice group (08), keyed region × 64 + block. Its cycles are edges of its net (R201). -/
structure Group where
  st : GroupState := .stop
  pc : Nat := 0
  main : RegSet := {}
  shadow : RegSet := {}
  /-- ACC: key lane × 16 + number; the value after all writes issued so far -/
  acc : Tab (BitVec 80) := []
  /-- writes of the last issue cycles, oldest first -/
  pipe : List InFlight := []
  bix : Tab (BitVec 16) := []
  outr : Tab (BitVec 32) := []
  /-- cycles in which sl_out_valid is 1, and its lanes (R214) -/
  shown : List (Nat × BitVec 8) := []
  /-- last issue cycle, and the empty issue cycles that must follow it (R209, R220) -/
  last : Option Nat := none
  gap : Nat := 0
  /-- active handler, and the address at which the interrupted code continues -/
  handler : Option Handler := none
  saved : Nat := 0
  pending : BitVec 4 := 0#4
  /-- EVMASK; R202 gives no reset value: DESIGN CHOICE all enabled -/
  evMask : BitVec 4 := 0xF#4
  evStart : Tab EvMark := []
  /-- repetitions left of a REP, R218 -/
  rep : Nat := 0
  stopReq : Bool := false
  /-- cycles of the last start and of the last stop, R224 -/
  startAt : Option Nat := none
  stopAt : Option Nat := none
  /-- a stop has taken effect: the cycle in which the group enters STOP, and whether STOP did it (R209, R224) -/
  stopping : Option (Nat × Bool) := none
  /-- the words at the event entries were fetched at the start of the group, or are still to be, from the tick of a release
  edge on, R221 -/
  fetched : Bool := false
  fetchAt : Option Nat := none
  /-- cycle in which sg_done is 1 -/
  done : Option Nat := none
  /-- cycle of the last issue that took elements, and the buses: bit 0 X, 1 Y, 2 Z (R205) -/
  took : Option (Nat × BitVec 3) := none
  /-- settings, R223 -/
  net : Nat := 0
  start : Nat := 0
  atRelease : Bool := false
  evEnable : BitVec 4 := 0#4
  entry : List Nat := []
  bound : List Nat := []
  view : Nat := 0
  /-- a coefficient access of the fabric that waits, and the cycle of the last one taken; cycle of the last STC (R226) -/
  cmHeld : Option CmAccess := none
  cmTaken : Option Nat := none
  stcAt : Option Nat := none
  /-- results at the fabric ports: coefficient row and decision halfword -/
  cmOut : List PortOut := []
  dsOut : List PortOut := []
  /-- writes of the last cycles into the coefficient memory and the decision store, oldest first: cycle, index, value
  before the write (R203, R215, R227) -/
  cmPipe : List (Nat × Nat × BitVec 32) := []
  dsPipe : List (Nat × Nat × BitVec 16) := []
  /-- cycle of the last maintenance access to each memory: key space (R168) -/
  maint : Tab Nat := []
  deriving DecidableEq, Repr

/-- Slice groups and their memories. Keys of a word: (region × 64 + block) × 16,384 + index. -/
structure Slices where
  groups : Tab Group := []
  im : Mem 64 := []
  cm : Mem 32 := []
  ds : Mem 16 := []
  /-- number of wrong bits of a stored word (1 corrected, 2 not), and whether they are injected: key space, then word -/
  err : Tab (Nat × Bool) := []
  /-- demand registers (R162, R230): key group × 4 + space -/
  demand : Tab (Option Nat) := []
  deriving DecidableEq, Repr

/-- Channel states of the hub (R264). -/
inductive ChannelState where
  | empty | training | ready | mappedOut | idle | selfRefresh
  deriving DecidableEq, Repr

/-- A DRAM channel (09). Its counters and the entries that a training refreshes stand in the register store. -/
structure Channel where
  st : ChannelState := .training
  /-- 0x26cc:02 -/
  mapOut : Nat := 0
  /-- what the SPDs of its DIMMs say, R239 -/
  dimms : List Dimm := []
  /-- consecutive failed sensor polls of DIMM 0 and 1, R246 -/
  fails : Tab Nat := []
  /-- a DIMM reports above 85 °C, or its sensor has been unreadable 3 times -/
  hot : Tab Bool := []
  /-- last scheduled window of each bank: key bank; write, row, tick, R252 -/
  windows : Tab (Bool × Nat × Nat) := []
  /-- an on-demand test holds the channel, R262 -/
  underTest : Bool := false
  /-- tick at which the channel last took or completed a request: it is idle from there, R258 -/
  usedAt : Nat := 0
  deriving DecidableEq, Repr

/-- A best-effort request in flight (R255): source, write, hub address, tag, result code, data, CRC retries so far. -/
structure Request where
  src : Nat
  we : Bool
  addr : Nat
  tag : Nat
  code : Nat
  data : Bytes
  retries : Nat := 0
  /-- the result is discarded: the requester was fenced or reset, R26, R303 -/
  drop : Bool := false
  deriving DecidableEq, Repr

/-- A scheduled read in flight (R90, R250): result code, data, the tick at which the return register holds it, its address,
and the round cycle of its request, by which a return slot finds the request it matches. -/
structure Window where
  code : Nat
  data : Bytes
  due : Nat
  addr : Nat
  inj : Bool
  cycle : Nat
  deriving DecidableEq, Repr

/-- Fresh metadata in a span: its start, the size exponent of its region, the key, the major counter of every counter line, and the
tree counter of every line (R274, R280, R285). -/
structure MetaSpan where
  base : Nat
  exp : Nat
  key : Nat
  major : Nat := 0
  count : Nat := 0
  deriving DecidableEq, Repr

/-- What a range of DRAM was filled with: zeros, undefined contents of an epoch, or the fresh metadata of a span (R269, R273,
R402). -/
inductive Blank where
  | zeros
  | undefined (epoch : Nat)
  | fresh (x : MetaSpan)
  deriving DecidableEq, Repr

/-- A range of DRAM that was filled: from, to (exclusive), one channel of it or all, and with what. -/
structure Fill where
  lo : Nat
  hi : Nat
  channel : Option Nat
  blank : Blank
  deriving DecidableEq, Repr

/-- The memory hub (09). -/
structure Hub where
  /-- 0x2600:01 -/
  st : Nat := 1
  rate : Nat := 0
  set_ : BitVec 8 := 0#8
  capacity : Nat := 0
  /-- window-capable channels, R241 -/
  window : BitVec 8 := 0#8
  target : Nat := 0
  /-- pending rate, and the owner that asked, R244 -/
  pending : Nat := 0
  pendingOwner : Nat := 0
  /-- trained sets 0x2601:01 to :04 with the order number of their last use, R244 -/
  trained : List (Nat × Nat) := []
  uses : Nat := 0
  channels : Tab Channel := []
  /-- a rate change in progress: new rate, and whether it trains, R244 -/
  changing : Option (Nat × Bool) := none
  hotRefresh : Bool := false
  /-- ticks of the last refresh sequence of a round and of a hot span, R245 -/
  refreshAt : Option Nat := none
  hotAt : Option Nat := none
  /-- epoch of the contents: raised whenever contents become undefined, R243, R269 -/
  epoch : Nat := 0
  /-- DRAM bytes written since their range was filled: metadata as stored; data of a region with a key as its requests see it (the
  ciphertext is Chip.rawLine), all other data as stored -/
  mem : List Host.Cell := []
  /-- the epoch of bytes in no filled range -/
  base : Nat := 0
  /-- ranges that were filled, newest first -/
  fills : List Fill := []
  /-- lines with an uncorrectable error as stored, R261 -/
  badLines : List Nat := []
  /-- requests in flight, oldest first -/
  queue : List Request := []
  /-- last result at each source: code, data, tag -/
  results : Tab (Nat × Bytes × Nat) := []
  /-- scheduled reads in flight by port 2r + h, oldest first -/
  windowsOut : Tab (List Window) := []
  /-- return register of each port: data, code -/
  returned : Tab (Nat × Bytes) := []
  /-- what a fabric port delivered last, by port 2r + h with the region cycle of its delivery: a scheduled read, a best-effort read
  with its tag, and a write's acknowledgement, R248 -/
  schedOut : Tab (Nat × Nat × Bytes) := []
  readOut : Tab (Nat × Nat × Bytes × Nat) := []
  ackOut : Tab (Nat × Nat × Nat) := []
  /-- last scheduled write of each port: address, tick, CRC retries -/
  writes : Tab (Nat × Nat × Nat) := []
  deriving DecidableEq, Repr

/-- A protection region of Cupola (10). Entries 0x27rr:02 to :07 stand in the register store. -/
structure ProtRegion where
  st : Nat := 0
  owner : Nat := 0
  keyGen : Nat := 0
  /-- numbers of its key, R271, and of the key that pages not yet swept use, R280 -/
  key : Nat := 0
  oldKey : Nat := 0
  /-- the counter that parents hold for metadata lines not listed in Cupola.tree -/
  treeBase : Nat := 0
  /-- highest major counter H -/
  high : Nat := 0
  sweep : Nat := 0
  failAddr : Nat := 0
  failCode : Nat := 0
  deriving DecidableEq, Repr

/-- Cupola (10). Keys: hub page = address / 4096, hub line = address / 64. -/
structure Cupola where
  regions : Tab ProtRegion := []
  /-- major counters by ranges of hub pages, newest first: from, to (exclusive), value; elsewhere 0 -/
  major : List (Nat × Nat × Nat) := []
  /-- minor counters of hub lines -/
  minor : Tab Nat := []
  /-- metadata lines of sealed regions in the cache, most recently used first: hub address and dirty; the metadata of a
  pinned-sealed region is always resident -/
  cache : List (Nat × Bool) := []
  /-- dirty lines of pinned-sealed regions -/
  pinnedDirty : List Nat := []
  /-- counters held in the parents of metadata lines, by hub address, R277; of a line not listed, its region's treeBase -/
  tree : Tab Nat := []
  /-- re-encryption table: region, page, lines not yet rewritten, the old counter line, R279 -/
  reenc : List (Nat × Nat × BitVec 64 × BitVec 512) := []
  /-- poison list: slot to (region, level, first data line address), R290 -/
  poison : Tab (Nat × Nat × Nat) := []
  /-- reinitialize command in progress: region, entry -/
  reinit : Option (Nat × Nat) := none
  /-- region whose re-key is the busy command of 0x2E27 -/
  sweepCmd : Option Nat := none
  /-- pinned bytes in use 0x2700:04 -/
  pinned : Nat := 0
  deriving DecidableEq, Repr

/-- A DMA channel (11 R308). -/
structure Dma where
  base : Nat := 0
  size : Nat := 0
  vector : Option Nat := none
  enable : Bool := false
  p : BitVec 32 := 0#32
  c : BitVec 32 := 0#32
  /-- 0 disabled; 1 idle; 2 active; 3 error; 4 fault-stopped; 5 setup error -/
  st : Nat := 0
  err : Nat := 0
  /-- descriptor in progress: interrupt flag, result code, bytes moved -/
  cur : Option (Bool × Nat × Nat) := none
  /-- bytes of the descriptor in progress that go to host memory, R311 -/
  out : Bytes := []
  /-- last status written back: result word and bytes moved -/
  back : Option (BitVec 32 × Nat) := none
  injErr : Bool := false
  deriving DecidableEq, Repr

/-- A mailbox of R344 (a port's, or the debug port's). -/
structure Mailbox where
  req : Mem 8 := []
  resp : List Byte := []
  doorbell : BitVec 32 := 0#32
  respSeq : BitVec 32 := 0#32
  inService : Bool := false
  ctl : BitVec 32 := 0x1100#32
  ignored : Nat := 0
  deriving DecidableEq, Repr

/-- A host port (11). Its object 0x28hh stands in the register store. -/
structure HostPort where
  /-- 0 down; 1 training; 2 up -/
  link : Nat := 0
  speed : Nat := 0
  width : Nat := 0
  events : BitVec 32 := 0#32
  evEnable : BitVec 32 := 0#32
  windowBase : Nat := 0
  /-- MSI-X table: key vector × 4 + dword, and masked vectors; reset masked -/
  msix : Tab (BitVec 32) := []
  pba : BitVec 64 := 0#64
  /-- vectors sent, newest first -/
  sent : List Nat := []
  dma : Tab Dma := []
  mbox : Mailbox := {}
  /-- completion of the last BAR read: 0 data, 1 Unsupported Request, 2 Completer Abort -/
  cpl : Nat := 0
  data : Bytes := []
  deriving DecidableEq, Repr

/-- EtherCAT AL states (R348). -/
inductive Al where
  | init | preop | bootstrap | safeop | op
  deriving DecidableEq, Repr

/-- The field network (12). -/
structure Ecat where
  al : Al := .init
  code : Nat := 0
  held : Option Nat := none
  station : Nat := 0
  alias_ : Nat := 0
  link : BitVec 2 := 0#2
  /-- ESC registers by address: sync managers, FMMUs, distributed clocks, watchdogs; one not listed holds its reset value -/
  esc : Tab Nat := []
  sii : Mem 16 := []
  eepromBusy : Bool := false
  eepromError : Bool := false
  siiData : BitVec 16 := 0#16
  syncActive : Bool := false
  /-- an activation with a SYNC0 cycle below 12,500 ns was not performed, R323 -/
  syncRefused : Bool := false
  cycle0 : Nat := 0
  start0 : Nat := 0
  cycle1 : Nat := 0
  /-- outputs: the last SM2 buffer completed, whether it is new since the last E, the buffer that E took, and the edges at
  which partitions apply it, R326 -/
  sm2 : Tab (BitVec 32) := []
  sm2New : Bool := false
  taken : Tab (BitVec 32) := []
  applyDue : Tab Nat := []
  /-- outputs as last applied, 0x7000 -/
  applied : Tab (BitVec 32) := []
  /-- inputs as the fabric wrote them; per word the frame of its last write and the value at the start of that frame,
  R327 -/
  inputs : Tab (BitVec 32) := []
  inHist : Tab (Nat × BitVec 32) := []
  /-- words latched at a frame start before E, with that tick per partition; latches that wait for their edge after E -/
  preIn : Tab (BitVec 32) := []
  preAt : Tab Nat := []
  latchDue : Tab Nat := []
  /-- inputs as latched for the last E, 0x6000 -/
  latched : Tab (BitVec 32) := []
  /-- the buffer that the last read of SM3 returned -/
  sm3 : List (BitVec 32) := []
  /-- the last E, and whether there was one -/
  ev : Nat := 0
  evSeen : Bool := false
  misses : Nat := 0
  /-- tick of the last pd_o_new and pd_i_latch pulse per partition, R329 -/
  pdNew : Tab Nat := []
  pdLatch : Tab Nat := []
  /-- the request in SM0 -/
  sm0 : Bytes := []
  /-- mailbox: counters; the last response placed; SM1 with the responses that wait behind it, each with its counter;
  emergencies that wait, R333, R335 -/
  lastCounter : Nat := 0
  respCounter : Nat := 0
  lastResp : Option (Nat × Bytes) := none
  sm1 : List (Nat × Bytes) := []
  emergencies : List Bytes := []
  /-- FoE transfer: file (0 none, 1 STREAM, 2 FIRMWARE), next packet, bytes, the last answer (0 ACK, 1 BUSY, else the FoE error
  code), and the data of the last read -/
  foe : Nat := 0
  foePacket : Nat := 0
  foeBytes : Nat := 0
  foeLast : Bool := false
  foeReply : Nat := 0
  foeData : Bytes := []
  deriving DecidableEq, Repr

/-- The answer of the dictionary on a path (R337, R339). -/
inductive Reply where
  | none
  | done
  | abort (code : Nat)
  | data (d : Bytes)
  | info (idx sub type access : Nat)
  | unavailable
  deriving DecidableEq, Repr

/-- A segmented transfer open on a path (R337). -/
structure Segment where
  upload : Bool
  idx : Nat
  sub : Nat
  complete : Bool
  toggle : Bool
  total : Nat
  data : Bytes
  deriving DecidableEq, Repr

/-- A command object (R341, R342), keyed by object index. -/
structure Cmd where
  serials : Tab Nat := []
  status : Tab Nat := []
  last : Nat := 0
  /-- owner of the command that is busy -/
  busy : Option Nat := none
  deriving DecidableEq, Repr

/-- The dictionary engine (12). -/
structure Dict where
  /-- registers by index × 256 + subindex; an entry not listed holds its Default -/
  od : Tab Nat := []
  /-- OCTET_STRING entries by index × 256 + subindex -/
  octets : Tab Bytes := []
  cmds : Tab Cmd := []
  replies : Tab Reply := []
  segs : Tab Segment := []
  /-- per path: log read sequence and count (R428) -/
  logSeq : Tab Nat := []
  logCount : Tab Nat := []
  deriving DecidableEq, Repr

/-- A run of frames with one content or one CRC: first linear frame number, count, value. -/
structure FrameRun where
  first : Nat
  count : Nat
  frame : BitVec 2048
  deriving DecidableEq, Repr

/-- A region's staged record (R352). -/
structure Record where
  m : Nat := 80
  part : Nat := 0
  port0 : Option Nat := none
  port1 : Option Nat := none
  slots : List (BitVec 64) := []
  pdOut : BitVec 256 := 0#256
  pdIn : BitVec 256 := 0#256
  deriving DecidableEq, Repr

/-- A verified staged stream (R362, R379). -/
structure Staged where
  parts : BitVec 8 := 0#8
  length : Nat := 0
  keyId : Nat := 0
  requester : Nat := 0
  /-- partition to owner, region mask and k -/
  section_ : List (Nat × Nat × BitVec 32 × Nat) := []
  records : Tab Record := []
  settings : List Setting := []
  deriving DecidableEq, Repr

/-- The stream being ingested (R360). -/
structure Load where
  source : Nat := 0
  requester : Nat := 0
  viaCommand : Bool := false
  hdr : Option StreamHeader := none
  /-- the stream key, taken once at the header stage, R433 -/
  keyTaken : Nat := 0
  received : Nat := 0
  /-- code of the ingest or content stage found so far -/
  content : Nat := 0
  /-- frames written per region, and the spans written: first frame number and the number after the last -/
  frames : Tab Nat := []
  spans : List (Nat × Nat) := []
  records : Tab Record := []
  /-- regions with a REGION, a TABLE and a PDMAP command so far -/
  regioned : List Nat := []
  tabled : List Nat := []
  pdmapped : List Nat := []
  ks : Tab Nat := []
  settings : List Setting := []
  ended : Bool := false
  /-- directory entry of a boot load -/
  boot : Option Nat := none
  deriving DecidableEq, Repr

/-- A commit in progress (R363 to R366). -/
structure Commit where
  mask : BitVec 8
  mode : Nat
  target : Nat
  owner : Nat
  tc : Option Nat := none
  /-- 0 waiting; 1 frozen (from t_c - 64); 2 reset asserted; 3 committed, release to come -/
  phase : Nat := 0
  /-- GATE was sampled high or the wait limit was logged -/
  waitLogged : Bool := false
  /-- tick at which every condition of a waiting commit held -/
  readyAt : Option Nat := none
  /-- regions that the commit configures or removes, set at the instant -/
  regions : BitVec 32 := 0#32
  removed : BitVec 32 := 0#32
  staged : List Staged := []
  deriving DecidableEq, Repr

/-- Configuration loader, planes and commit (13). -/
structure Loader where
  load : Option Load := none
  /-- streams whose header has not passed while another stream is the present one, oldest first, R354 -/
  next : List Load := []
  /-- 0x2200:02, :03 of the present or last stream -/
  rebuilding : BitVec 32 := 0#32
  twinInvalid : BitVec 32 := 0#32
  staged : List Staged := []
  active : List FrameRun := []
  staging : List FrameRun := []
  /-- CRC-32C recorded per frame, of the active plane and of the staging plane: runs that hold the frame each CRC was computed from -/
  activeRef : List FrameRun := []
  stagingRef : List FrameRun := []
  commit : Option Commit := none
  /-- directory entry 0 reads as empty at the next boot, R382 -/
  injDir : Bool := false
  /-- boot directory: lengths of entries 0 and 1 (0 empty), R356 -/
  dir0 : Nat := 0
  dir1 : Nat := 0
  /-- boot rule: 0 not begun; 1 a boot stream loads or waits for its commit; 2 both entries failed, R372 -/
  bootTried : Nat := 0
  /-- partitions of a verified boot stream whose commit waits for a busy one to end -/
  bootWait : BitVec 8 := 0#8
  deriving DecidableEq, Repr

/-- Watchtower and scrub (14). -/
structure Watch where
  /-- 0 reading; 1 paused; 2 stopped -/
  st : Nat := 0
  /-- pass pointer, held three times, R391 -/
  ptr : Nat := 0
  ptr2 : Nat := 0
  ptr3 : Nat := 0
  /-- frames that mismatched, and frames checked, in this pass -/
  mismatches : Nat := 0
  checked : Nat := 0
  /-- frames repaired: linear number to the pass number of the repair, R386 -/
  repaired : Tab Nat := []
  /-- tick of the last clean readback per frame -/
  clean : Tab Nat := []
  /-- frames found unrepairable -/
  bad : List Nat := []
  /-- frames whose stuck bit does not hold a repair, R408 code 4: linear number to bit -/
  stuck : Tab Nat := []
  /-- a heartbeat was withheld by an injection -/
  withheld : Bool := false
  /-- DRAM scrub: hub address of the next line 0x2910:07 -/
  scrubPtr : Nat := 0
  deriving DecidableEq, Repr

/-- A sealed self-test record (R399). -/
structure TestRecord where
  kind : Nat
  result : Nat
  index : Nat
  patterns : Nat
  expected : Nat
  entries : List (BitVec 64)
  overflow : Bool
  seq : Nat
  sealed : Nat
  macOk : Bool
  deriving DecidableEq, Repr

/-- An on-demand test in progress (R402). -/
structure OnDemand where
  action : Nat
  r : Nat
  b : Nat
  deriving DecidableEq, Repr

/-- Built-in self-test (14). -/
structure SelfTest where
  /-- 0x2980:01; reset 1 -/
  st : Nat := 1
  index : Nat := 0
  patterns : Nat := 0
  recordCheck : Nat := 1
  recordAge : Nat := 0xFFFFFFFF
  failures : List (BitVec 64) := []
  tooMany : Bool := false
  excluded : BitVec 32 := 0#32
  closing : Bool := false
  record : Option TestRecord := none
  /-- a failure of the present test was injected -/
  injected : Bool := false
  /-- entries of on-demand tests kept for the next record, R403 -/
  kept : List (BitVec 64) := []
  onDemand : Option OnDemand := none
  deriving DecidableEq, Repr

/-- P00: what survives STANDBY (14 R396, 15 R424, R495). -/
structure Aon where
  intact : Bool := false
  seq : Nat := 0
  seconds : Nat := 0
  powerLoss : Bool := true
  faultCode : Nat := 0
  faultState : Nat := 0
  /-- the fault record's entry has not reached the ring: its time in seconds, R476, R495 -/
  unlogged : Option Nat := none
  expiries : Nat := 0
  skipEnable : Bool := true
  deriving DecidableEq, Repr

/-- A firmware slot (R411, R412): policy holds the rights of O0 to O7 of the image's owner policy. -/
structure Slot where
  version : Nat := 0
  rollback : Nat := 0
  valid : Bool := false
  policy : List Nat := [15, 15, 10, 10, 10, 15, 0, 0]
  deriving DecidableEq, Repr

/-- A flash operation in progress (R417, R419). -/
structure FlashOp where
  action : Nat
  owner : Nat
  foe : Bool
  deriving DecidableEq, Repr

/-- A stream key slot (R434, R435). -/
structure KeySlot where
  owner : Option Nat := none
  /-- number of its key among the keys that have been loaded -/
  key : Nat := 0
  revoked : Bool := false
  deriving DecidableEq, Repr

/-- Lantern (15). -/
structure Lantern where
  /-- the image runs -/
  running : Bool := true
  slotA : Slot := { version := 1, rollback := 0, valid := true }
  slotB : Slot := {}
  /-- running slot: false A, true B -/
  runB : Bool := false
  confirmed : Option Bool := some false
  pendingSlot : Option Bool := none
  trial : Bool := false
  op : Option FlashOp := none
  rollback : Nat := 0
  keys : Tab KeySlot := []
  windowBase : Nat := 0
  debugPc : BitVec 32 := 0#32
  monitorVector : BitVec 32 := 0#32
  inMonitor : Bool := false
  resumeReq : Bool := false
  /-- LR reservation of the core (R451) -/
  reservation : Option (BitVec 32) := none
  /-- watchdog: held, counter reloads counted, kick stage -/
  held : Bool := false
  /-- milliseconds left at the last reload or hold, and the tick of it (R429, R431) -/
  remaining : Nat := 1000
  reloadAt : Nat := 0
  /-- tick at which the debug port began the present hold (R431) -/
  heldAt : Option Nat := none
  kickHalf : Bool := false
  /-- sensors: last reading, consecutive readings at or above 105 °C, consecutive invalid samples -/
  temps : Tab Int := []
  hotRuns : Tab Nat := []
  invalid : Tab Nat := []
  failed : BitVec 64 := 0#64
  warm : BitVec 64 := 0#64
  warning : Bool := false
  highest : Option Int := none
  /-- sticky health bits log_loss, fw_fallback, wdog_seen, sram_corrected -/
  logLoss : Bool := false
  fwFallback : Bool := false
  wdogSeen : Bool := false
  sramCorrected : Bool := false
  injSensors : BitVec 64 := 0#64
  deriving DecidableEq, Repr

/-- A log entry (R477). -/
structure LogEntry where
  seq : Nat
  code : Nat
  tick : Nat
  sev : Nat
  injected : Bool
  flags : Nat
  dev : Nat
  owner : Nat
  d0 : Nat
  d1 : Nat
  d2 : Nat
  deriving DecidableEq, Repr

/-- The event log (15 R426, R427). -/
structure Log where
  next : Nat := 0
  /-- recent buffer, oldest first -/
  recent : List LogEntry := []
  /-- flash ring, oldest first -/
  ring : List LogEntry := []
  /-- entries of the buffer not yet in the ring -/
  pending : Nat := 0
  episode : Bool := false
  deriving DecidableEq, Repr

/-- A trace packet (R456). -/
structure Packet where
  kind : Nat
  len : Nat
  port : Nat
  time : Nat
  payload : BitVec 32
  deriving DecidableEq, Repr

/-- Debug and trace (16). -/
structure Debug where
  session : Bool := false
  /-- JTAG: data register shifted out by the last scan -/
  dr : BitVec 72 := 0#72
  boundary : Bytes := []
  /-- result of the previous DMBOX operation: status and data -/
  dmStatus : Nat := 0
  dmData : BitVec 32 := 0#32
  mbox : Mailbox := {}
  /-- debug-port sink FIFO, bytes oldest first (4 KB) -/
  sink : Bytes := []
  fifo : List Packet := []
  /-- loss packet due: packets lost since the last one written -/
  lossDue : Nat := 0
  /-- trace buffer: slot contents, write slot -/
  slots : Tab (BitVec 128) := []
  writeSlot : Nat := 0
  /-- bytes written to the DRAM sink, and the line that is being filled -/
  dramPos : Nat := 0
  line : Bytes := []
  state : Nat := 0
  enabled : Bool := false
  lastProbe : BitVec 8 := 0#8
  /-- trigger sources (R460): per trigger the level of its concentrator output at the last sample and the tick of its last rise; the
  tick of the last miss of a partition, and of the last write to a fabric port -/
  trigLevel : Tab Bool := []
  roseAt : Tab Nat := []
  missAt : Tab Nat := []
  portAt : Tab Nat := []
  /-- slots are undefined as of this epoch (R459) -/
  epoch : Nat := 0
  deriving DecidableEq, Repr

/-- An injection armed and not yet applied (R486): object and code, target, second target. -/
structure Armed where
  obj : Nat
  code : Nat
  target : Nat
  target2 : Nat
  deriving DecidableEq, Repr

/-- Injection (17 R484 to R488). -/
structure Inject where
  enabled : Bool := false
  armed : List Armed := []
  deriving DecidableEq, Repr

/-- The whole device: every piece of state but the queue of commands. -/
structure Chip where
  dev : Device := {}
  belfry : Belfry := {}
  banks : Tab Bank := []
  vanes : Tab Vane := []
  parts : Tab Partition := []
  regions : Tab Region := []
  lanes : Tab LaneState := []
  mem : Memories := {}
  queues : Tab Queue := []
  slices : Slices := {}
  hub : Hub := {}
  cupola : Cupola := {}
  ports : Tab HostPort := []
  ecat : Ecat := {}
  dict : Dict := {}
  loader : Loader := {}
  watch : Watch := {}
  test : SelfTest := {}
  aon : Aon := {}
  lantern : Lantern := {}
  log : Log := {}
  dbg : Debug := {}
  inject : Inject := {}
  /-- MODEL'S OWN: the free-value counter -/
  free : Nat := 0
  deriving DecidableEq, Repr

/-- The machine: the device, and the commands that wait, first in, first out. -/
structure State extends Chip where
  pending : List Instr := []
  deriving DecidableEq, Repr

/-- No command of this model ends in a fault: the device's own faults (region fence, SAFE, error codes) are effects on
the state. The one constructor stands for a dictionary path or unit that cannot exist; nothing raises it. -/
inductive Fault where
  /-- raised by no command; safe -/
  | impossible
  deriving DecidableEq, Repr

/-- Reasons for which a command has no meaning here. Every command of the table has one, so nothing is refused. -/
inductive Refusal where
  /-- raised by exec for a command that has no meaning yet; safe -/
  | notModelled (mnemonic : String)
  deriving DecidableEq, Repr

/-- The device right after entry to REDUCED (R9, R30): every field at its Default. -/
def State.reset : State := {}

end Sys2Proof.Machine
end

