-- ==== Sys2Proof/Machine/Ops.lean ====
section
/-! DEFINITION. The named operations: tables and memories, the register store, units by number, events and the log,
contracts, commands, and the outcomes of a command. -/

namespace Sys2Proof.Machine

open Sys2Proof

/-! ### Tables and memories -/

/-- The record of unit k; d where it is not listed. -/
def Tab.get {α : Type} (d : α) : Tab α → Nat → α
  | [], _ => d
  | (i, a) :: t, k => if i = k then a else Tab.get d t k

/-- The table with record v for unit k. -/
def Tab.set {α : Type} : Tab α → Nat → α → Tab α
  | [], k, v => [(k, v)]
  | (i, a) :: t, k, v =>
    if i = k then (k, v) :: t
    else if k < i then (k, v) :: (i, a) :: t
    else (i, a) :: Tab.set t k v

/-- The table with the record of unit k changed by f. -/
def Tab.mod {α : Type} (d : α) (t : Tab α) (k : Nat) (f : α → α) : Tab α :=
  Tab.set t k (f (Tab.get d t k))

/-- The table with every listed record whose key satisfies p changed by f. -/
def Tab.mapIf {α : Type} (p : Nat → Bool) (f : α → α) (t : Tab α) : Tab α :=
  t.map fun x => if p x.1 then (x.1, f x.2) else x

/-- The table without the listed keys that satisfy p. -/
def Tab.drop {α : Type} (p : Nat → Bool) (t : Tab α) : Tab α :=
  t.filter fun x => !p x.1

/-- Keys rise strictly. -/
def Tab.sorted {α : Type} : Tab α → Bool
  | [] => true
  | [_] => true
  | a :: b :: t => decide (a.1 < b.1) && Tab.sorted (b :: t)

/-- A word of a memory; a word that is not listed is 0 (R169). -/
def Mem.get {w : Nat} (m : Mem w) (k : Nat) : BitVec w := Tab.get 0#w m k

/-- The memory with word k set to v, in canonical form. -/
def Mem.set {w : Nat} (m : Mem w) (k : Nat) (v : BitVec w) : Mem w :=
  if v = 0#w then Tab.drop (fun i => i == k) m else Tab.set m k v

/-- The memory with every word from lo up to hi (exclusive) 0. -/
def Mem.clear {w : Nat} (m : Mem w) (lo hi : Nat) : Mem w :=
  Tab.drop (fun i => decide (lo ≤ i) && decide (i < hi)) m

/-- The canonical form: addresses rise strictly and no listed word is 0. -/
def Mem.wf {w : Nat} (m : Mem w) : Bool :=
  Tab.sorted m && m.all fun x => x.2 != 0#w

/-- The DRAM bytes: a byte that is not listed has not been written since its epoch began. -/
def cellGet (m : List Host.Cell) (a : Nat) : Option Byte :=
  match m with
  | [] => none
  | (i, v) :: t => if i = a then some v else cellGet t a

/-- The canonical form of the DRAM bytes: addresses rise strictly. -/
def cellsWf (m : List Host.Cell) : Bool := Tab.sorted (α := BitVec 8) m

/-! ### Bits and bytes -/

/-- Bit k of a number. -/
def bit (n k : Nat) : Bool := n.testBit k

/-- The numbers below w whose bit is set. -/
def bitsOf (n w : Nat) : List Nat := (List.range w).filter fun k => n.testBit k

/-- Bits [lo + w - 1 : lo]. -/
def field (n lo w : Nat) : Nat := n / 2 ^ lo % 2 ^ w

/-- A Bool as a bit at position k. -/
def flag (b : Bool) (k : Nat) : Nat := if b then 2 ^ k else 0

/-- The mask of the numbers below w that satisfy p. -/
def maskOf (w : Nat) (p : Nat → Bool) : Nat := (List.range w).foldl (fun m k => m + flag (p k) k) 0

/-- A number with bit k. -/
def setBit (n k : Nat) : Nat := if n.testBit k then n else n + 2 ^ k

/-- The n bytes of a value, little-endian. -/
def toBytes : Nat → Nat → Bytes
  | 0, _ => []
  | n + 1, v => BitVec.ofNat 8 v :: toBytes n (v / 256)

/-- The value of bytes, little-endian. -/
def ofBytes : Bytes → Nat
  | [] => 0
  | b :: bs => b.toNat + 256 * ofBytes bs

/-- A signed number of w bits as raw bits. -/
def rawInt (w : Nat) (v : Int) : Nat := (BitVec.ofInt w v).toNat

/-- Raw bits of w bits as a signed number. -/
def signed (w : Nat) (n : Nat) : Int := (BitVec.ofNat w n).toInt

/-- The signed maximum of saturating counters of 32 bits. -/
def sat32 (n : Nat) : Nat := min n 0xFFFFFFFF

/-- v limited to a to b. -/
def clampInt (v a b : Int) : Int := max a (min v b)

/-- The first multiple of m at or after n. -/
def nextMultiple (n m : Nat) : Nat := (n + m - 1) / m * m

/-! ### Outcomes -/

/-- The outcome of a command. -/
abbrev Out := Host.Outcome State Fault Refusal

/-- A command whose effect on the device is f: the queue is not its concern. -/
def act (s : State) (f : Chip → Chip) : Out :=
  .next { s with toChip := f s.toChip }

/-! ### Units by number -/

def Chip.region (b : Chip) (r : Nat) : Region := Tab.get {} b.regions r
def Chip.modRegion (b : Chip) (r : Nat) (f : Region → Region) : Chip :=
  { b with regions := Tab.mod {} b.regions r f }

def Chip.part (b : Chip) (p : Nat) : Partition := Tab.get {} b.parts p
def Chip.modPart (b : Chip) (p : Nat) (f : Partition → Partition) : Chip :=
  { b with parts := Tab.mod {} b.parts p f }

def Chip.bank (b : Chip) (k : Nat) : Bank := Tab.get {} b.banks k
def Chip.modBank (b : Chip) (k : Nat) (f : Bank → Bank) : Chip :=
  { b with banks := Tab.mod {} b.banks k f }

def Chip.vane (b : Chip) (tp : Nat) : Vane := Tab.get {} b.vanes tp
def Chip.modVane (b : Chip) (tp : Nat) (f : Vane → Vane) : Chip :=
  { b with vanes := Tab.mod {} b.vanes tp f }

def Chip.port (b : Chip) (h : Nat) : HostPort := Tab.get {} b.ports h
def Chip.modPort (b : Chip) (h : Nat) (f : HostPort → HostPort) : Chip :=
  { b with ports := Tab.mod {} b.ports h f }

def Chip.prot (b : Chip) (rr : Nat) : ProtRegion := Tab.get {} b.cupola.regions rr
def Chip.modProt (b : Chip) (rr : Nat) (f : ProtRegion → ProtRegion) : Chip :=
  { b with cupola := { b.cupola with regions := Tab.mod {} b.cupola.regions rr f } }

def Chip.channel (b : Chip) (c : Nat) : Channel := Tab.get {} b.hub.channels c
def Chip.modChannel (b : Chip) (c : Nat) (f : Channel → Channel) : Chip :=
  { b with hub := { b.hub with channels := Tab.mod {} b.hub.channels c f } }

def Chip.cmd (b : Chip) (idx : Nat) : Cmd := Tab.get {} b.dict.cmds idx
def Chip.modCmd (b : Chip) (idx : Nat) (f : Cmd → Cmd) : Chip :=
  { b with dict := { b.dict with cmds := Tab.mod {} b.dict.cmds idx f } }

/-- Every number below n, one after the other. -/
def Chip.forEach (b : Chip) (l : List Nat) (f : Chip → Nat → Chip) : Chip := l.foldl f b

/-! ### The register store -/

/-- The key of a dictionary entry. -/
def key (idx sub : Nat) : Nat := idx * 256 + sub

/-- A plain register of the dictionary: its stored value, or its Default (R9). -/
def Chip.reg (b : Chip) (idx sub : Nat) : Nat :=
  Tab.get (DictTable.dflt idx sub) b.dict.od (key idx sub)

def Chip.setReg (b : Chip) (idx sub v : Nat) : Chip :=
  { b with dict := { b.dict with od := Tab.set b.dict.od (key idx sub) v } }

/-- Counters saturate at 0xFFFF_FFFF (R75, R102, R152, R348, R376, R404). -/
def Chip.count (b : Chip) (idx sub : Nat) : Chip :=
  b.setReg idx sub (sat32 (b.reg idx sub + 1))

/-- A counter raised by n, saturating. -/
def Chip.countBy (b : Chip) (idx sub n : Nat) : Chip :=
  b.setReg idx sub (sat32 (b.reg idx sub + n))

/-- The Keep serves a request: a key drawn, taken, installed or deleted, a slot revoked, or a record's MAC (R433, R436, log entry
144). -/
def Chip.keepServed (b : Chip) : Chip := b.count 0x2040 6

/-- The registers of an object return to their Defaults. -/
def Chip.clearRegs (b : Chip) (idx lo hi : Nat) : Chip :=
  { b with dict := { b.dict with
      od := Tab.drop (fun k => decide (key idx lo ≤ k) && decide (k ≤ key idx hi)) b.dict.od } }

/-- The next free value's number. -/
def Chip.tookFree (b : Chip) : Chip := { b with free := b.free + 1 }

/-! ### Time -/

/-- The tick at which a command's event falls is never before the present tick (log entry 5). The count has 64 bits (R36). -/
def Chip.upTo (b : Chip) (t : Nat) : Chip :=
  { b with belfry := { b.belfry with tick := max b.belfry.tick t % 2 ^ 64 } }

/-- The seconds counter of P00 passes or does not pass to its next second (R396, log entry 116). -/
def Chip.secondMayPass (b : Chip) : Chip :=
  let f := b.free
  if b.dev.power.getLsbD 0 then
    { b.tookFree with
      aon := { b.aon with
        seconds := if Config.secondPasses f then (b.aon.seconds + 1) % 2 ^ 32 else b.aon.seconds } }
  else b

/-- Nothing is commanded: one tick passes, while P16 is on, and a second of P00 may end (R36, log entry 6). -/
def Chip.idle (b : Chip) : Chip :=
  let b := b.secondMayPass
  if b.dev.power.getLsbD 16 then { b with belfry := { b.belfry with tick := (b.belfry.tick + 1) % 2 ^ 64 } } else b

/-- The present tick count (R36). -/
def Chip.now (b : Chip) : Nat := b.belfry.tick

/-- The compare freeze of R445 holds Belfry's correction. -/
def Chip.frozen (b : Chip) : Bool := b.belfry.frozenCorr.isSome

/-- A value on its way back to 0 at 1 ppm per second: 1 part in 10^12 per 1,000 ticks (R40). -/
def rampTo0 (v : Int) (ticks : Nat) : Int :=
  let d : Int := ticks / 1000
  if 0 ≤ v then max 0 (v - d) else min 0 (v + d)

/-- The present correction and frequency term, part-way through a return where there is one (R40, R445, R510). -/
def Chip.corrNow (b : Chip) : Int :=
  match b.belfry.frozenCorr, b.belfry.returnFrom with
  | some c, _ => c
  | none, some (t, c, _) => rampTo0 c (b.now - t)
  | none, none => b.belfry.corr
def Chip.termNow (b : Chip) : Int :=
  match b.belfry.frozenCorr, b.belfry.returnFrom with
  | some _, some (_, _, i) => i
  | none, some (t, _, i) => rampTo0 i (b.now - t)
  | _, none => b.belfry.term

/-- The compare freeze begins to hold the correction, and a return to 0 pauses (R445, R510). -/
def Chip.holdCorr (b : Chip) : Chip :=
  let c := b.corrNow
  let i := b.termNow
  let t := b.now
  { b with belfry := { b.belfry with frozenCorr := some c, returnFrom := b.belfry.returnFrom.map fun _ => (t, c, i) } }

/-- The compare freeze ends, and a paused return goes on from here. -/
def Chip.releaseCorr (b : Chip) : Chip :=
  let t := b.now
  if b.frozen then
    { b with belfry := { b.belfry with
        frozenCorr := none
        returnFrom := b.belfry.returnFrom.map fun (x : Nat × Int × Int) => (t, x.2.1, x.2.2) } }
  else b

/-- The island period in progress at the present tick, counted from tick count 0: one period is M/8 ticks (R138). -/
def Chip.period (b : Chip) (r : Nat) : Nat := b.now * 8 / (b.region r).m

/-- The offset of a region's edges after the 3.0 ns point, in ps (R139, R152). -/
def Chip.phaseOf (b : Chip) (r : Nat) : Nat := Config.phaseOffset (b.region r).phase r % 501

/-- tb_count as a region samples it at the edge that began its present cycle: the count of the tick edge that precedes that edge by
at least 3 ns and less than 4 ns (R37, R139). -/
def Chip.tbCount (b : Chip) (r : Nat) : Nat :=
  let ps := b.period r * (b.region r).m * 125
  (if ps % 1000 < 500 then ps / 1000 else (ps + b.phaseOf r) / 1000) % 2 ^ 64

/-- The present tick is an edge of the island's generator. -/
def Chip.onEdge (b : Chip) (r : Nat) : Bool := b.now * 8 % (b.region r).m == 0

/-- The island cycle of a region: net-0 cycles that its island clock has counted. It stands while the clock is stopped by a
halt, a fence or SAFE (R26, R27, R142), and runs on through a switch of ratio. -/
def Chip.isle (b : Chip) (r : Nat) : Nat :=
  match (b.region r).isleHold with
  | some c => c
  | none => ((b.period r : Int) - (b.region r).isleBase).toNat

/-- The first tick in island cycle c, while the clock runs. -/
def Chip.isleTick (b : Chip) (r c : Nat) : Nat :=
  (((c : Int) + (b.region r).isleBase).toNat * (b.region r).m + 7) / 8

/-- The island clock stops in cycle c; one that is stopped stays as it is. -/
def Chip.stopIsle (b : Chip) (r c : Nat) : Chip :=
  b.modRegion r fun g => { g with isleHold := some (g.isleHold.getD c) }

/-- The island clock goes on from its count: the next edge is the generator's next edge at or after the present tick (R142). -/
def Chip.startIsle (b : Chip) (r : Nat) : Chip :=
  let p : Int := b.period r
  let edge := if b.onEdge r then 1 else 0
  b.modRegion r fun g =>
    match g.isleHold with
    | some c => { g with isleHold := none, isleBase := p - (c + edge) }
    | none => g

/-- A region's island count goes on from cycle c after a change of its ratio or of the tick count. -/
def Chip.rebaseIsle (b : Chip) (r c : Nat) : Chip :=
  let p : Int := b.period r
  b.modRegion r fun g => { g with isleBase := p - c }

/-! ### The region grid (R11 to R16) -/

/-- The region that carries a bank (R12). -/
def bankRegion (k : Nat) : Nat :=
  if k ≤ 1 then 0
  else if k ≤ 8 then k - 1
  else if k = 9 then 7
  else if k = 10 then 15
  else if k = 11 then 23
  else if k = 12 then 31
  else if k ≤ 20 then 44 - k
  else if k = 21 then 24
  else if k = 22 then 16
  else 8

/-- The banks of a region (R12). -/
def regionBanks (r : Nat) : List Nat := (List.range 24).filter fun k => bankRegion k == r

/-- The bank of a test point, and its position (R13). -/
def tpBank (tp : Nat) : Nat := tp / 64
def tpPos (tp : Nat) : Nat := tp % 64

/-- The region beside a region: side 0 north, 1 east, 2 south, 3 west (R11, R143). -/
def neighbor (r side : Nat) : Option Nat :=
  match side with
  | 0 => if r < 24 then some (r + 8) else none
  | 1 => if r % 8 < 7 ∧ r < 32 then some (r + 1) else none
  | 2 => if 8 ≤ r ∧ r < 32 then some (r - 8) else none
  | 3 => if 0 < r % 8 ∧ r < 32 then some (r - 1) else none
  | _ => none

/-- The opposite side. -/
def opposite (side : Nat) : Nat := (side + 2) % 4

/-- The power domain of a region's quarter (R20). -/
def regionDomain (r : Nat) : Nat := 3 + r / 4

/-- Whether a power domain is on (R20). -/
def Chip.powered (b : Chip) (d : Nat) : Bool := b.dev.power.getLsbD d

/-! ### Owners and partitions -/

/-- The owner of a partition, if it has one (R299). -/
def Chip.partOwner (b : Chip) (p : Nat) : Option Nat :=
  if (b.part p).owner = 0xFF then none else some (b.part p).owner

/-- The partition that holds a region (R298). -/
def Chip.regionPart (b : Chip) (r : Nat) : Option Nat := (b.region r).part

/-- The owner of the partition that holds a region (R23). -/
def Chip.regionOwner (b : Chip) (r : Nat) : Option Nat :=
  match b.regionPart r with
  | some p => b.partOwner p
  | none => none

/-- The regions of a partition's committed stream. -/
def Chip.partRegions (b : Chip) (p : Nat) : List Nat := bitsOf (b.part p).regions.toNat 32

/-- The rights of an owner (R296, R297): O0 holds all, O7 none. -/
def Chip.rights (b : Chip) (o : Nat) : Nat :=
  if o = 0 then 0xF else if o = 7 then 0 else b.reg 0x2100 (o + 1)

def Chip.hasStream (b : Chip) (o : Nat) : Bool := bit (b.rights o) 3
def Chip.hasPartition (b : Chip) (o : Nat) : Bool := bit (b.rights o) 2
def Chip.hasMemory (b : Chip) (o : Nat) : Bool := bit (b.rights o) 1
def Chip.hasControl (b : Chip) (o : Nat) : Bool := bit (b.rights o) 0

/-! ### Device states -/

/-- State codes (R29). -/
def DeviceState.code : DeviceState → Nat
  | .off => 0 | .standby => 1 | .boot => 2 | .reduced => 3 | .full => 4 | .closing => 5 | .safe => 6

/-- REDUCED or FULL. -/
def Chip.serving (b : Chip) : Bool := b.dev.st == .reduced || b.dev.st == .full

/-- What the monitor of a clock domain C00 to C39 reports (R18). -/
def Chip.clockState (b : Chip) (c : Nat) : ClockState := Tab.get .running b.dev.clocks c

/-- The device is past BOOT and not in STANDBY (R29). -/
def Chip.fromReduced (b : Chip) : Bool :=
  match b.dev.st with
  | .reduced | .full | .closing | .safe => true
  | _ => false

/-- From REDUCED on the dictionary answers, while C35 runs, which clocks its engine (R12, R17, R29, R338). -/
def Chip.dictAlive (b : Chip) : Bool := b.fromReduced && b.clockState 35 == .running

/-- The readiness word 0x2001:04 (R31). -/
def Chip.readiness (b : Chip) : Nat :=
  flag b.dev.selftestOk 3 + flag b.dev.timebaseOk 2 + flag b.dev.configOk 1 + flag b.dev.dramOk 0

/-! ### MSI-X and port events (R305, R307) -/

/-- Dword i of an MSI-X table entry: 0 address low, 1 address high, 2 data, 3 vector control; entries are masked at
reset. -/
def HostPort.msixDword (p : HostPort) (v i : Nat) : BitVec 32 :=
  Tab.get (if i = 3 then 1#32 else 0#32) p.msix (v * 4 + i)

/-- Send an MSI-X vector, or leave it pending while it is masked. -/
def HostPort.send (p : HostPort) (v : Nat) : HostPort :=
  if (p.msixDword v 3).getLsbD 0 then { p with pba := p.pba ||| (1#64 <<< v) }
  else { p with sent := v :: p.sent }

/-- Set a port event bit; vector 0 is sent when an enabled bit changes from 0 to 1 (R307). -/
def HostPort.raise (p : HostPort) (k : Nat) : HostPort :=
  if p.events.getLsbD k then p
  else
    let q := { p with events := p.events ||| (1#32 <<< k) }
    if p.evEnable.getLsbD k then q.send 0 else q

/-- Raise a port event bit of an owner's port: O1 to O4 are the ports HA to HD (R22). -/
def Chip.raiseOwner (b : Chip) (o : Option Nat) (k : Nat) : Chip :=
  match o with
  | some n => if 1 ≤ n ∧ n ≤ 4 then b.modPort (n - 1) fun p => p.raise k else b
  | none => b

/-- Raise a port event bit at every port. -/
def Chip.raiseAll (b : Chip) (k : Nat) : Chip :=
  b.forEach [1, 2, 3, 4] fun b o => b.raiseOwner (some o) k

/-! ### Events and the log (17) -/

/-- An event to log: code, severity, what it names and its detail (R470, R471, R479, R481). -/
structure Ev where
  code : Nat
  sev : Nat
  inj : Bool := false
  owner : Option Nat := none
  part : Option Nat := none
  d0 : Nat := 0
  d1 : Nat := 0
  d2 : Nat := 0
  /-- device state code at detection, where it is not the present one -/
  dev : Option Nat := none

/-- The event code of a level, subsystem, unit and code (R470). -/
def evCode (level sub unit code : Nat) : Nat :=
  level * 2 ^ 28 + sub * 2 ^ 20 + unit % 256 * 2 ^ 12 + code

/-- The owner byte (R479). -/
def ownerByte (o p : Option Nat) : Nat :=
  (match o with | some n => 0x80 + n % 8 * 16 | none => 0) + (match p with | some n => 8 + n % 8 | none => 0)

/-- The precision flag (R41). -/
def Chip.imprecise (b : Chip) : Bool := b.belfry.st != .locked

/-- The error register 0x1001 (R335). -/
def Chip.errorReg (b : Chip) : Nat :=
  flag (b.dev.st == .safe) 0 + flag ((List.range 8).any fun p => (b.part p).status == .broken) 7

/-- AL state PREOP or higher (R335). -/
def Al.preopOrHigher : Al → Bool
  | .preop | .safeop | .op => true
  | _ => false

/-- Put one entry into the recent buffer; when 256 entries are unwritten the oldest of them is lost (R426, R427). -/
def Log.push (l : Log) (e : LogEntry) : Log :=
  let r := l.recent ++ [e]
  { l with
    next := (l.next + 1) % 2 ^ 32
    recent := if 256 < r.length then r.drop 1 else r
    pending := min 256 (l.pending + 1) }

/-- Lantern writes up to n pending entries to the flash ring, oldest first; the ring holds 8,192 (R426). An episode of
losses ends when an entry is written (R427). -/
def Log.writeOut (l : Log) (n : Nat) : Log :=
  let k := min n l.pending
  let out := (l.recent.drop (l.recent.length - l.pending)).take k
  let ring := l.ring ++ out
  { l with
    ring := ring.drop (ring.length - 8192)
    pending := l.pending - k
    episode := l.episode && k == 0 }

/-- The detection tick of an event: for a detector of a region, clocked by its island, tb_count in the cycle of detection, and otherwise
the tick count (R37, R477). -/
def Chip.detectionTick (b : Chip) (code : Nat) : Nat :=
  let r := code / 2 ^ 12 % 256
  if 1 ≤ code / 2 ^ 28 ∧ code / 2 ^ 28 ≤ 3 ∧ [1, 2, 3, 4, 6].contains (code / 2 ^ 20 % 256) = true ∧ r < 32 then b.tbCount r
  else b.now

/-- The entry that an event makes (R477, R478). -/
def Chip.entry (b : Chip) (e : Ev) (noLower : Bool) : LogEntry :=
  let aon := b.dev.st == .boot && !b.powered 16
  { seq := b.log.next
    code := e.code
    tick := if aon then b.aon.seconds else b.detectionTick e.code
    sev := e.sev
    injected := e.inj
    flags := flag aon 2 + flag noLower 1 + flag (aon || b.imprecise) 0
    dev := e.dev.getD b.dev.st.code
    owner := ownerByte e.owner e.part
    d0 := e.d0
    d1 := e.d1
    d2 := e.d2 }

/-- A CoE emergency: error code 0xFF00, the error register, the event code and the severity byte (R335, R478). -/
def emergencyBytes (err code sevByte : Nat) : Bytes :=
  toBytes 2 0xFF00 ++ toBytes 1 err ++ toBytes 4 code ++ toBytes 1 sevByte

/-- The device places a response in SM1, numbered 1 to 7 in turn; it waits while the buffer is full (R333). -/
def Ecat.place (e : Ecat) (m : Bytes) : Ecat :=
  let n := e.respCounter % 7 + 1
  { e with respCounter := n, lastResp := some (n, m), sm1 := e.sm1 ++ [(n, m)] }

/-- Queue the emergency of an entry of severity degraded or above; on overflow the oldest is dropped (R335). -/
def Chip.emergency (b : Chip) (e : LogEntry) : Chip :=
  if 3 ≤ e.sev ∧ b.ecat.al.preopOrHigher = true then
    let m := emergencyBytes b.errorReg e.code (e.sev + flag e.injected 7)
    if b.ecat.sm1 = [] then { b with ecat := b.ecat.place m }
    else if b.ecat.emergencies.length < 16 then
      { b with ecat := { b.ecat with emergencies := b.ecat.emergencies ++ [m] } }
    else
      { b with ecat := { b.ecat with emergencies := b.ecat.emergencies.drop 1 ++ [m] } }.count 0x2010 0x07
  else b

/-- Enter one entry: the buffer, the log count 0x6100:04, port events and the emergency. -/
def Chip.pushEntry (b : Chip) (e : Ev) (noLower : Bool) : Chip :=
  let le := b.entry e noLower
  let lost := b.log.pending = 256
  let b := { b with log := b.log.push le }
  let b := if lost then { b with lantern := { b.lantern with logLoss := true } }.count 0x2B00 0x06 else b
  let b := b.setReg 0x6100 4 ((b.reg 0x6100 4 + 1) % 2 ^ 32)
  let b := b.raiseOwner e.owner 3
  let po : Option Nat := match e.part with | some p => b.partOwner p | none => none
  let b := if po = e.owner then b else b.raiseOwner po 3
  b.emergency le

/-- Log an event. Block-level and region-level detections in SAFE are withheld (R475); the first entry lost of an
episode makes 0x40E0_0017 (R427). -/
def Chip.logAs (b : Chip) (e : Ev) (noLower : Bool) : Chip :=
  let level := e.code / 2 ^ 28
  if b.dev.st = .safe ∧ (level = 2 ∨ level = 3) then { b with dev := { b.dev with withheld := true } }
  else
    let lost := b.log.pending = 256
    let b := b.pushEntry e noLower
    if lost ∧ b.log.episode = false then
      { b with log := { b.log with episode := true } }.pushEntry { code := 0x40E00017, sev := 3 } false
    else b

def Chip.logEvent (b : Chip) (e : Ev) : Chip := b.logAs e false

/-- The place of an entry among those that arrive in one C36 cycle: the level, highest first, the subsystem, the unit (R480). -/
def LogEntry.rank (e : LogEntry) : Nat := (15 - e.code / 2 ^ 28) * 2 ^ 16 + e.code / 2 ^ 12 % 2 ^ 16

/-- A threshold entry made in addition, which follows the entry of its fault (R480, R482). -/
def LogEntry.threshold (e : LogEntry) : Bool :=
  let f := (e.code / 2 ^ 20, e.code % 2 ^ 12)
  f == (0x103, 2) || f == (0x409, 5) || f == (0x40D, 2)

/-- An entry takes its place in a list that is in order. -/
def insertEntry (e : LogEntry) : List LogEntry → List LogEntry
  | [] => [e]
  | x :: l => if !x.threshold && decide (e.rank < x.rank) then e :: x :: l else x :: insertEntry e l

/-- The entries of one arrival, in the order of R480. -/
def arrivalOrder (l : List LogEntry) : List LogEntry :=
  l.foldl (fun acc e => if e.threshold then acc ++ [e] else insertEntry e acc) []

/-- The entries made since sequence number n arrive together: they take their numbers in the order of R480. -/
def Log.arrive (l : Log) (n : Nat) : Log :=
  let k := (l.next + 2 ^ 32 - n) % 2 ^ 32
  if k ≤ 1 ∨ l.pending < k then l
  else
    let old := l.recent.take (l.recent.length - k)
    let new := arrivalOrder (l.recent.drop (l.recent.length - k))
    { l with recent := old ++ new.mapIdx fun i e => { e with seq := (n + i) % 2 ^ 32 } }

/-- The entry of a region's event: of level 2 or 3 it names the partition that holds the region, and its owner (R479). -/
def Chip.regionEv (b : Chip) (r code sev : Nat) (inj : Bool) (d0 d1 d2 : Nat) : Ev :=
  let named := code / 2 ^ 28 == 2 || code / 2 ^ 28 == 3
  { code := code, sev := sev, inj := inj, owner := if named then b.regionOwner r else none,
    part := if named then b.regionPart r else none, d0 := d0, d1 := d1, d2 := d2 }

/-- What a contract or partition entry names (R479). -/
def Chip.partEv (b : Chip) (p code sev : Nat) (d0 d1 d2 : Nat) : Ev :=
  { code := code, sev := sev, owner := b.partOwner p, part := some p, d0 := d0, d1 := d1, d2 := d2 }

/-- An injection has been applied (R486): the counter, and the event code of the detection. -/
def Chip.injected (b : Chip) (code : Nat) : Chip :=
  (b.count 0x2DFF 3).setReg 0x2DFF 4 code

/-- Log an event; one that was injected counts as an applied injection. -/
def Chip.logInj (b : Chip) (e : Ev) : Chip := (if e.inj then b.injected e.code else b).logEvent e

/-! ### Commands of the dictionary (R341, R342) -/

/-- The status of the last command that an owner started. -/
def Chip.setStatus (b : Chip) (idx owner st : Nat) : Chip :=
  b.modCmd idx fun c => { c with status := Tab.set c.status owner st, last := st }

/-- The command becomes busy, status 1. -/
def Chip.beginCmd (b : Chip) (idx owner : Nat) : Chip :=
  (b.setStatus idx owner 1).modCmd idx fun c => { c with busy := some owner }

/-- A busy command ends with a status; nothing where none is busy. -/
def Chip.endCmd (b : Chip) (idx st : Nat) : Chip :=
  match (b.cmd idx).busy with
  | some o => (b.setStatus idx o st).modCmd idx fun c => { c with busy := none }
  | none => b

/-! ### Contracts (R94, R95) -/

/-- The contract status changes; the partition's owner sees port event contract (R307). -/
def Chip.setContract (b : Chip) (p : Nat) (st : Contract) : Chip :=
  if (b.part p).status = st then b
  else (b.modPart p fun q => { q with status := st }).raiseOwner (b.partOwner p) 1

/-- ARMED or SUSPENDED becomes BROKEN (R95). -/
def Chip.breakContract (b : Chip) (p : Nat) : Chip :=
  match (b.part p).status with
  | .armed | .suspended => b.setContract p .broken
  | _ => b

/-- Break the contract of the partition that holds a region. -/
def Chip.breakRegion (b : Chip) (r : Nat) : Chip :=
  match b.regionPart r with
  | some p => b.breakContract p
  | none => b

/-- Any partition ARMED. -/
def Chip.anyArmed (b : Chip) : Bool := (List.range 8).any fun p => (b.part p).status == .armed

end Sys2Proof.Machine
end

