-- ==== Sys2Proof/Machine/Slots.lean ====
section
/-! DEFINITION. Slot tables: the fields of an entry, the cycle of a region, the entry that covers a cycle, and the count of
covered cycles that the schedule engine has checked (R80, R83, R84, R86, R91, R103). -/

namespace Sys2Proof.Machine

open Sys2Proof

/-! ### Entries (R83) -/

def entryBase (e : BitVec 64) : Bool := e.getLsbD 63
def entryOffset (e : BitVec 64) : Nat := field e.toNat 43 20
def entryCount (e : BitVec 64) : Nat := field e.toNat 31 12 + 1
def entryClass (e : BitVec 64) : Nat := field e.toNat 27 4
def entryResource (e : BitVec 64) : Nat := field e.toNat 16 11
def entryStep (e : BitVec 64) : Nat := field e.toNat 12 4 + 1
def entryTag (e : BitVec 64) : Nat := field e.toNat 0 12

/-- The cycles that an entry covers. -/
def entryCycles (e : BitVec 64) : List Nat :=
  (List.range (entryCount e)).map fun i => entryOffset e + i * entryStep e

/-- The entry covers cycle c. -/
def entryCovers (e : BitVec 64) (c : Nat) : Bool :=
  let d := c - entryOffset e
  decide (entryOffset e ≤ c) && d % entryStep e == 0 && decide (d / entryStep e < entryCount e)

/-! ### Cycles of a region (R80, R86, R138) -/

/-- The frame exponent of a region's partition, where it holds slot tables. -/
def Chip.regionK (b : Chip) (r : Nat) : Option Nat :=
  match b.regionPart r with
  | some p => if (b.part p).tables then some (b.part p).k else none
  | none => none

/-- The frame cycle of a region at the present tick (R80). -/
def Chip.frameCycle (b : Chip) (r : Nat) : Nat :=
  match b.regionK r with
  | some k => b.now % 2 ^ k * 8 / (b.region r).m
  | none => 0

/-- The round cycle of a region at the present tick (R86). -/
def Chip.roundCycle (b : Chip) (r : Nat) : Nat := b.now % 3900 * 8 / (b.region r).m

/-- The cycle against which an entry counts: a round cycle or a frame cycle. -/
def Chip.entryCycle (b : Chip) (r : Nat) (e : BitVec 64) : Nat :=
  if entryBase e then b.roundCycle r else b.frameCycle r

/-- The first entry of a class and resource that covers the present cycle, with its slot index. -/
def Chip.slotAt (b : Chip) (r cls res : Nat) : Option (Nat × BitVec 64) :=
  match b.regionK r with
  | none => none
  | some _ =>
    ((b.region r).slots.zipIdx.find? fun x =>
      entryClass x.1 == cls && entryResource x.1 == res && entryCovers x.1 (b.entryCycle r x.1)).map
      fun x => (x.2, x.1)

/-- The same one region cycle later: what the next cycle holds. -/
def Chip.slotNext (b : Chip) (r cls res : Nat) : Bool :=
  match b.regionK r with
  | none => false
  | some k =>
    let f := 2 ^ k * 8 / (b.region r).m
    (b.region r).slots.any fun e =>
      entryClass e == cls && entryResource e == res && !entryBase e && entryCovers e ((b.frameCycle r + 1) % f)

/-- What a miss of a slot's entry reports (R90, R91). -/
def Chip.slotMissInfo (b : Chip) (r cause : Nat) (x : Nat × BitVec 64) : MissInfo :=
  { cause := cause, slot := x.1, tag := entryTag x.2, lower := 0, cycle := b.entryCycle r x.2 }

/-- A miss that no single entry is at fault for (R90). -/
def Chip.looseMissInfo (b : Chip) (r cause tag lower : Nat) : MissInfo :=
  { cause := cause, slot := 0xFFFF, tag := tag, lower := lower, cycle := b.frameCycle r }

/-! ### Slots checked (R91, R103) -/

/-- Cycles x below hi with x mod period = o. -/
def residues (hi period o : Nat) : Nat := (hi + period - 1 - o) / period

/-- Covered cycles of an entry between two absolute cycles of the region. -/
def entryBetween (e : BitVec 64) (period lo hi : Nat) : Nat :=
  (entryCycles e).foldl (fun n c => n + (residues hi period c - residues lo period c)) 0

/-- Covered cycles of a region between two ticks. -/
def Chip.slotsBetween (b : Chip) (r k t0 t1 : Nat) : Nat :=
  let g := b.region r
  let frame := 2 ^ k * 8 / g.m
  let round := 31200 / g.m
  g.slots.foldl (fun n e =>
    n + entryBetween e (if entryBase e then round else frame) (t0 * 8 / g.m) (t1 * 8 / g.m)) 0

/-- Slots checked so far (0x25rr:06). -/
def Chip.slotsChecked (b : Chip) (r : Nat) : Nat :=
  let g := b.region r
  match g.checkedAt, b.regionK r with
  | some t, some k => g.checked + b.slotsBetween r k t b.now
  | _, _ => g.checked

/-- The engine stops checking a region's slots. -/
def Chip.stopSlots (b : Chip) (r : Nat) : Chip :=
  let n := b.slotsChecked r
  b.modRegion r fun g => { g with checked := n, checkedAt := none }

/-- The engine checks a region's slots from now on, where its partition holds slot tables. -/
def Chip.startSlots (b : Chip) (r : Nat) : Chip :=
  if (b.regionK r).isSome then b.modRegion r fun g => { g with checkedAt := some b.now } else b

/-! ### Running clocks and regions -/

/-- C34 runs: the host ports stop without it (R17). -/
def Chip.hostClock (b : Chip) : Bool := b.clockState 34 == .running

/-- The host ports answer: from the moment P14 is powered, while C34 runs (R17, R304). -/
def Chip.hostOn (b : Chip) : Bool := b.powered 14 && b.hostClock

/-- Debug and trace run: P19 is on, and C38 runs (R17, R20). -/
def Chip.debugOn (b : Chip) : Bool := b.powered 19 && b.clockState 38 == .running

/-- The region's island clock runs, so its fabric presents and takes (R25, R26, R27, R124, R443). -/
def Chip.fabricRuns (b : Chip) (r : Nat) : Bool :=
  let g := b.region r
  b.serving && !g.fenced && !g.halted && !g.inReset

/-- A block drives its outputs and takes its inputs: its region runs and it is not in its safe state (R25). -/
def Chip.blockRuns (b : Chip) (r blk : Nat) : Bool := b.fabricRuns r && !(b.region r).safeBlocks.getLsbD blk

/-! ### Armed injections (R485, R486) -/

/-- An injection of an object with this code and target is armed. -/
def Chip.isArmed (b : Chip) (obj code target : Nat) : Bool :=
  b.inject.armed.any fun a => a.obj == obj && a.code == code && a.target == target

/-- An injection is armed. -/
def Chip.armInject (b : Chip) (obj code target target2 : Nat) : Chip :=
  { b with inject := { b.inject with
      armed := b.inject.armed ++ [{ obj := obj, code := code, target := target, target2 := target2 }] } }

/-- The oldest such injection is no longer armed. -/
def Chip.unarm (b : Chip) (obj code target : Nat) : Chip :=
  { b with inject := { b.inject with
      armed := b.inject.armed.eraseP fun a => a.obj == obj && a.code == code && a.target == target } }

/-- An armed injection is applied with an event code. -/
def Chip.applyArmed (b : Chip) (obj code target ev : Nat) : Chip := (b.unarm obj code target).injected ev

/-- An armed injection at a word is applied. -/
def Chip.applyAt (b : Chip) (obj target ev : Nat) : Chip :=
  if b.inject.armed.any fun a => a.obj == obj && a.target == target then
    { b with inject := { b.inject with
        armed := b.inject.armed.eraseP fun a => a.obj == obj && a.target == target } }.injected ev
  else b

/-- The armed injections at a word are removed by a write (R177, R238). -/
def Chip.unarmAt (b : Chip) (obj target : Nat) : Chip :=
  { b with inject := { b.inject with
      armed := b.inject.armed.filter fun a => !(a.obj == obj && a.target == target) } }

end Sys2Proof.Machine
end

