-- ==== Sys2Proof/Machine/Fabric.lean ====
section
/-! DEFINITION. The fabric as it runs: levels of routing and cells, clock nets, flip-flops, and the probe network (R107 to R126,
R130, R131). A region's record is settled up to a net-0 cycle; a view runs it on to the present one. -/

namespace Sys2Proof.Machine

open Sys2Proof

/-! ### The committed configuration of a region -/

def Region.cellAt (g : Region) (x y k : Nat) : Cell :=
  (g.settings.findSome? fun s =>
    match s with
    | .cell _ a b c v => if a = x ∧ b = y ∧ c = k then some v else none
    | _ => none).getD {}

/-- The clock nets K0 and K1 of a cluster (R111). -/
def Region.clusterNets (g : Region) (x y : Nat) : Nat × Nat :=
  (g.settings.findSome? fun s =>
    match s with
    | .cluster _ a b k0 k1 => if a = x ∧ b = y then some (k0, k1) else none
    | _ => none).getD (0, 0)

/-- The constant carry into cell 0 of row 0 of a column (R112). -/
def Region.carryConst (g : Region) (x : Nat) : Bool :=
  (g.settings.findSome? fun s =>
    match s with
    | .carryIn _ a v => if a = x then some v else none
    | _ => none).getD false

/-- The source that the multiplexer of a sink chooses; none for constant 0, which a sink without a setting drives (R115). -/
def Region.driver (g : Region) (k : Sink) : Option Source :=
  (g.settings.findSome? fun s =>
    match s with
    | .route _ a inputs sel => if a = k then some (muxInput inputs sel) else none
    | _ => none).getD none

/-- The declared default of a block's gate on a wire or carry chain: 0 where the stream declares none (R116). -/
def Region.gateDefault (g : Region) (blk : Nat) (s : Source) : Bool :=
  (g.settings.findSome? fun x =>
    match x with
    | .boundaryDefault _ b a v => if b = blk ∧ a = s then some v else none
    | _ => none).getD false

/-- The cell output that the stream assigned to a probe input (R130). -/
def Region.probeSource (g : Region) (blk m n : Nat) : Option Source :=
  g.settings.findSome? fun x =>
    match x with
    | .probeInput _ b i j s => if b = blk ∧ i = m ∧ j = n then some s else none
    | _ => none

/-- The cells that the stream configures. -/
def Region.cells (g : Region) : List (Nat × Nat × Nat × Cell) :=
  g.settings.filterMap fun s =>
    match s with
    | .cell _ x y k c => some (x, y, k, c)
    | _ => none

/-- The reflex cells of a region's test points: the sources of rfx_out and rfx_oe, and whether rfx_oe is constant 1 (R64, R69, R73). -/
def Region.reflexes (g : Region) : List (Nat × Source × Source × Bool) :=
  g.settings.filterMap fun s =>
    match s with
    | .reflex tp out oe => some (tp, out, oe, g.settings.contains (.rfxOeConst tp))
    | _ => none

/-! ### Block boundary gates (R116) -/

/-- The cluster at which a spine takes what drives it. -/
def spineTap (w : Wire) (s : Source) : Nat × Nat :=
  match s with
  | .cell x y _ _ => (x, y)
  | .hard x y _ => (x, y)
  | .wire (.seg kind x y dir _) => segEnd kind x y dir
  | .wire (.local x y _) => (x, y)
  | .wire (.hspine _ y _) => (match w with | .vspine x _ _ => (x, y) | _ => (0, y))
  | .wire (.vspine x _ _) => (match w with | .hspine _ y _ => (x, y) | _ => (x, 0))

/-- The block from whose area a source comes. -/
def Region.sourceBlock (g : Region) (s : Source) : Nat :=
  match s with
  | .cell x y _ _ => blockOf x y
  | .hard x y _ => blockOf x y
  | .wire (.seg _ x y _ _) => blockOf x y
  | .wire (.local x y _) => blockOf x y
  | .wire w =>
    match g.driver (.wire w) with
    | some d => blockOf (spineTap w d).1 (spineTap w d).2
    | none => 64

/-- What cluster (x, y) sees of a source: the gate of a safe block drives its default on what leaves the block (R25, R116). -/
def Region.gated (g : Region) (level : Source → Bool) (x y : Nat) (s : Source) : Bool :=
  let blk := g.sourceBlock s
  if blk != blockOf x y && g.safeBlocks.getLsbD blk then g.gateDefault blk s else level s

/-! ### Levels (R108 to R115) -/

/-- The key of a flip-flop. -/
def ffKey (x y k i : Nat) : Nat := ((x * 256 + y) * 8 + k) * 2 + i

/-- The configuration of flip-flop 0 or 1 of a cell. -/
def ffOf (c : Cell) (i : Nat) : FlipFlop := if i = 0 then c.ff0 else c.ff1

/-- Q0 or Q1 of a cell. -/
def Region.q (g : Region) (x y k i : Nat) : Bool := Tab.get (ffOf (g.cellAt x y k) i).init g.ff (ffKey x y k i)

/-- The level at a cluster's sink: of what its multiplexer chooses, or 0. -/
def Region.sinkLevel (g : Region) (level : Source → Bool) (x y : Nat) (k : Sink) : Bool :=
  match g.driver k with
  | some s => g.gated level x y s
  | none => false

/-- L5 to L0 of a cell. -/
def Region.lutInputs (g : Region) (level : Source → Bool) (x y k : Nat) : BitVec 6 :=
  (List.range 6).foldl (fun l p => if g.sinkLevel level x y (.cellIn x y k p) then l ||| (1#6 <<< p) else l) 0#6

/-- The carry into a cell (R112): of the cell below, through a gate where the chain passes a block's edge. -/
def Region.carryIn (g : Region) (level : Source → Bool) (x y k : Nat) : Bool :=
  if 0 < k then level (.cell x y (k - 1) .co)
  else if 0 < y then g.gated level x y (.cell x (y - 1) 7 .co)
  else g.carryConst x

/-- An output of a cell. -/
def Region.cellOut (g : Region) (level : Source → Bool) (x y k : Nat) (o : CellOut) : Bool :=
  let l := g.lutInputs level x y k
  let t := (g.cellAt x y k).lut
  match o with
  | .y => lutY t l
  | .z => lutZ t l
  | .q0 => g.q x y k 0
  | .q1 => g.q x y k 1
  | .co => carryOut (lutY t l) (lutZ t l) (g.carryIn level x y k)

/-- The level of a source: the first argument bounds the depth, which only a combinational loop exceeds. -/
def Region.level (g : Region) (hard : Nat → Nat → Nat → Bool) (loop : Source → Bool) : Nat → Source → Bool
  | 0, s => loop s
  | n + 1, s =>
    match s with
    | .hard x y k => hard x y k
    | .cell x y k o => g.cellOut (g.level hard loop n) x y k o
    | .wire w =>
      match g.driver (.wire w) with
      | none => false
      | some d =>
        match w with
        | .seg _ x y _ _ => g.gated (g.level hard loop n) x y d
        | .local x y _ => g.gated (g.level hard loop n) x y d
        | _ => g.gated (g.level hard loop n) (spineTap w d).1 (spineTap w d).2 d

/-- The depth of routing without loops: every multiplexer and every cell output once. -/
def Region.depth (g : Region) : Nat := 5 * g.settings.length + 2049

/-- The level of a source in island cycle c. -/
def Region.levelIn (g : Region) (r c : Nat) (s : Source) : Bool :=
  g.level (Config.hardLevel r c) (Config.loopLevel r c) g.depth s

/-! ### Clock nets (R117 to R122, R136) -/

/-- The tap or lower net of an input, and its divisor. -/
def Net.src (x : Net) (sel : Bool) : Option Nat := if sel then x.srcB else x.srcA
def Net.div (x : Net) (sel : Bool) : Nat := if sel then x.divB else x.divA

/-- The record of a net; a net without a setting follows net 0. -/
def Region.net (g : Region) (n : Nat) : Net := Tab.get {} g.nets n

/-- A divider has an edge in cycle c (R118). -/
def Region.tapEdge (g : Region) (d c : Nat) : Bool := decide (g.divStart ≤ c) && (c - g.divStart) % d == 0

/-- An input of a net rises in cycle c, where rise holds the nets that rise in it. -/
def Region.inputEdge (g : Region) (rise : BitVec 16) (c : Nat) (x : Net) (sel : Bool) : Bool :=
  match x.src sel with
  | some s => rise.getLsbD s
  | none => g.tapEdge (x.div sel) c

/-- The high phase of an input in half net-0 cycles: half the period of the tap that it comes from. -/
def Region.inputHigh (g : Region) (x : Net) (sel : Bool) : Nat → Nat
  | 0 => 1
  | fuel + 1 =>
    match x.src sel with
    | none => x.div sel
    | some s => g.inputHigh (g.net s) (g.net s).cur fuel

/-- The multiplexer of a net in cycle c, and whether its output rises (R120, R121): a switch begins at an edge of the old input,
the last one taken from it, and ends at the second edge of the new input after the old one has fallen. -/
def Region.muxEdge (g : Region) (rise : BitVec 16) (c : Nat) (x : Net) : Net × Bool :=
  match x.switching with
  | none =>
    let up := g.inputEdge rise c x x.cur
    if up && x.sel != x.cur then
      ({ x with
          hold := false
          switching := some { sel := x.sel, fall := 2 * c + g.inputHigh x x.cur 16, injected := x.hold } }, true)
    else (x, up)
  | some w =>
    let w := { w with cycles := w.cycles + 1 }
    let counts := !w.injected && decide (w.fall < 2 * c) && g.inputEdge rise c x w.sel
    if counts && w.seen == 1 then ({ x with cur := w.sel, switching := none }, true)
    else ({ x with switching := some { w with seen := if counts then w.seen + 1 else w.seen } }, false)

/-- The gate of a net at an edge of its multiplexer (R122): the edge passes as the sample before it says, and clk_en is sampled
again. -/
def Net.gateEdge (x : Net) (up : Bool) : Net × Bool :=
  if !up then (x, false)
  else
    let pass := !x.gate || x.en
    ({ x with en := x.enIn, passed := pass, edges := if pass then x.edges + 1 else x.edges }, pass)

/-- Every net of a region in cycle c, lower numbers first, and the nets that rise in it. -/
def Region.netsEdge (g : Region) (c : Nat) : Tab Net × BitVec 16 :=
  g.nets.foldl (fun acc e =>
    let m := g.muxEdge acc.2 c e.2
    let o := m.1.gateEdge m.2
    (acc.1 ++ [(e.1, o.1)], if o.2 then acc.2 else acc.2 &&& ~~~(1#16 <<< e.1))) ([], BitVec.allOnes 16)

/-! ### Flip-flops (R109, R111, R124 to R126) -/

/-- The value that a flip-flop takes at an edge of its net: INIT under its block's reset or its user reset; the data where its
enable is 1; else its own. -/
def Region.ffNext (g : Region) (level : Source → Bool) (x y k i : Nat) : Bool :=
  let cell := g.cellAt x y k
  let f := ffOf cell i
  let urst := match f.urst with
    | some n => g.urst.getLsbD n.val
    | none => false
  let enabled := match f.enable with
    | some e => g.sinkLevel level x y (.enable x y e.val)
    | none => true
  if g.safeBlocks.getLsbD (blockOf x y) || urst then f.init
  else if enabled then
    match f.data with
    | .y => level (.cell x y k .y)
    | .z => level (.cell x y k .z)
    | .sum => carrySum (level (.cell x y k .y)) (g.carryIn level x y k)
    | .d => g.sinkLevel level x y (.cellIn x y k 6)
  else g.q x y k i

/-- Every flip-flop at the edges of the nets that rise: one whose net has left the reset loads (R125). -/
def Region.ffsEdge (g : Region) (level : Source → Bool) (rise : BitVec 16) : Tab Bool :=
  g.cells.foldl (fun t c =>
    let x := c.1
    let y := c.2.1
    let k := c.2.2.1
    [0, 1].foldl (fun t i =>
      let f := ffOf c.2.2.2 i
      let ns := g.clusterNets x y
      let n := if f.k1 then ns.2 else ns.1
      if rise.getLsbD n && g.live.getLsbD n then
        let v := g.ffNext level x y k i
        if v = f.init then Tab.drop (fun j => j == ffKey x y k i) t else Tab.set t (ffKey x y k i) v
      else t) t) g.ff

/-- The output registers of the reflex cells: enable and level (R69). -/
def Region.rfxEdge (g : Region) (level : Source → Bool) : Tab (Bool × Bool) :=
  g.reflexes.map fun x => (x.1, x.2.2.2 || level x.2.2.1, level x.2.1)

/-! ### Net-0 cycles -/

/-- The net-0 edge that begins cycle c of region r. Flip-flops and output registers see the levels of the cycle before it. -/
def Region.edge (g : Region) (r c : Nat) : Region :=
  let n := g.netsEdge c
  if g.inReset then { g with nets := n.1, settled := c + 1 }
  else
    { g with
      nets := n.1
      ff := g.ffsEdge (g.levelIn r (c - 1)) n.2
      ffWas := g.ff
      rfx := g.rfxEdge (g.levelIn r (c - 1))
      rfxWas := g.rfx
      live := g.live ||| n.2
      settled := c + 1 }

/-- n edges from the one that is due. -/
def Region.run (r : Nat) : Nat → Region → Region
  | 0, g => g
  | n + 1, g => Region.run r n (g.edge r g.settled)

/-- The record with the edges before cycle c acted on; a region without nets,
cells and reflex cells has nothing that they change. -/
def Region.settle (g : Region) (r c : Nat) : Region :=
  if g.nets.isEmpty && g.cells.isEmpty && g.reflexes.isEmpty then { g with settled := max g.settled c } else g.run r (c - g.settled)

/-- The region as it is in its present island cycle. -/
def Chip.regionNow (b : Chip) (r : Nat) : Region := (b.region r).settle r (b.isle r + 1)

/-- A record of which the edge that begins cycle c + 1 may have acted, as it was in cycle c. -/
def Region.before (g : Region) (c : Nat) : Region :=
  if g.settled = c + 2 then
    { g with ff := g.ffWas, safeBlocks := if g.safeSince = c + 1 then g.safeBefore else g.safeBlocks }
  else g

/-- The region's record in cycle c, the present one or the one before it. -/
def Chip.regionIn (b : Chip) (r c : Nat) : Region := ((b.region r).settle r (c + 1)).before c

/-- The edges before the present cycle act; with `through`, the edge that begins it too. What a command presents in a cycle is
what the edge that begins the cycle samples (log entry 126). -/
def Chip.settleRegion (b : Chip) (r : Nat) (through : Bool) : Chip :=
  let c := b.isle r + if through then 1 else 0
  b.modRegion r fun g => g.settle r c

/-- Edges of net n of a region so far: its own cycle count (R119). A net without a setting counts as net 0. -/
def Chip.netCycle (b : Chip) (r n : Nat) : Nat :=
  match (b.region r).nets.find? fun x => x.1 == n with
  | some _ => ((b.regionNow r).net n).edges
  | none => b.isle r

/-- A net runs: its multiplexer is not switching, its gate passed the last edge, and so for the nets that it comes from. -/
def Region.netRuns (g : Region) : Nat → Nat → Bool
  | 0, _ => true
  | fuel + 1, n =>
    let x := g.net n
    x.switching.isNone && (!x.gate || x.passed) &&
      match x.src x.cur with
      | some s => g.netRuns fuel s
      | none => true
def Chip.netRuns (b : Chip) (r n : Nat) : Bool := n == 0 || (b.regionNow r).netRuns 16 n

/-- Net-0 cycles in one cycle of a net, while its inputs are as they are (R117, R118). -/
def Region.netPeriod (g : Region) (n : Nat) : Nat := if n = 0 then 1 else g.inputHigh (g.net n) (g.net n).cur 16

/-! ### Probes (R130, R131) -/

/-- The contract status of a region's partition (R94). -/
def Contract.code : Contract → Nat
  | .none => 0 | .armed => 1 | .broken => 2 | .suspended => 3

def Chip.regionStatus (b : Chip) (r : Nat) : Nat :=
  match b.regionPart r with
  | some p => (b.part p).status.code
  | none => 0

/-- Input n of a probe multiplexer of a block in cycle c, whose frame cycle is fc where the partition has frames. -/
def Chip.probeInput (b : Chip) (r blk m n c : Nat) (fc : Option Nat) : Bool :=
  let g := b.regionIn r c
  if n < 56 then
    match g.probeSource blk m n with
    | some s => g.levelIn r c s
    | none => false
  else
    match n with
    | 56 => g.inReset || g.safeBlocks.getLsbD blk
    | 57 => g.safeBlocks.getLsbD blk
    | 58 => fc == some 0
    | 59 => bit (b.regionStatus r) 0
    | 60 => bit (b.regionStatus r) 1
    | 61 => g.tapEdge 2 c
    | 63 => true
    | _ => false

/-- Probe line 2b + m of a region in cycle c. -/
def Chip.probeLine (b : Chip) (r line c : Nat) (fc : Option Nat) : Bool :=
  b.probeInput r (line / 2) (line % 2) (b.reg (0x2C40 + r) (line + 1)) c fc

/-- Concentrator output j of a region: the line that it selects, as registered at the edge that began the present cycle; a
region whose island clock is stopped shows the last registered value. -/
def Chip.concentrator (b : Chip) (r j : Nat) : Bool :=
  if (b.region r).isleHold.isSome then (b.region r).heldProbe.getLsbD j
  else
    let line := b.reg (0x2C40 + r) (0x81 + j)
    let fc := (b.regionK r).map fun k =>
      let f := 2 ^ k * 8 / (b.region r).m
      (b.frameCycle r + f - 1) % f
    decide (line < 128) && b.probeLine r line (b.isle r - 1) fc

/-- The level that the router sends to ball PROBEn (R131, R133). -/
def Chip.probeBall (b : Chip) (n : Nat) : Bool :=
  let v := b.reg 0x2C20 (n + 1)
  decide (v < 256) && b.concentrator (v / 8) (v % 8)

/-- The island clock of a region stops in cycle c, and its concentrator keeps what it registered last. -/
def Chip.gateIsle (b : Chip) (r c : Nat) : Chip :=
  let v := (List.range 8).foldl (fun v j => if b.concentrator r j then v ||| (1#8 <<< j) else v) 0#8
  (b.modRegion r fun g => { g with heldProbe := v }).stopIsle r c

/-! ### blk_safe (R137) -/

/-- The blocks of a region that are in their safe state change: blk_safe follows in the next net-0 cycle. -/
def Chip.setSafe (b : Chip) (r : Nat) (v : BitVec 64) : Chip :=
  let c := b.isle r
  (b.settleRegion r true).modRegion r fun g =>
    { g with
      safeBlocks := v
      safeSince := c
      safeBefore := if g.safeSince = c then g.safeBefore else g.safeBlocks }

end Sys2Proof.Machine
end

