-- ==== Sys2Proof/Machine/QueueSides.lean ====
section
/-! DEFINITION. The two sides of a queue block: their clocks, the words and the free space that pass from one to the other, the
watermark flags, and what each side shows in a cycle (R178 to R191, R194). -/

namespace Sys2Proof.Machine

open Sys2Proof

/-- The key of a queue block. -/
def queueKey (r q : Nat) : Nat := r * 16 + q

def Chip.queue (b : Chip) (k : Nat) : Queue := Tab.get {} b.queues k
def Chip.modQueue (b : Chip) (k : Nat) (f : Queue → Queue) : Chip := { b with queues := Tab.mod {} b.queues k f }

/-- The region from which a dual-clock queue block takes its items (R179). -/
def queueSource (k : Nat) : Option Nat := neighbor (k / 16) (k % 16 / 4)

/-- The region whose fabric writes a queue block; none where a host port writes it (R179). -/
def Queue.writer (q : Queue) (k : Nat) : Option Nat :=
  match q.mode with
  | 1 | 4 => some (k / 16)
  | 2 => queueSource k
  | _ => none

/-- The region whose fabric reads a queue block; none where a host port reads it. -/
def Queue.reader (q : Queue) (k : Nat) : Option Nat :=
  match q.mode with
  | 1 | 2 | 3 => some (k / 16)
  | _ => none

/-- The cycle of a side: its region's island cycle, or the cycle of C34, of two ticks, at a host port (R17, R192). -/
def Chip.sideCycle (b : Chip) (side : Option Nat) : Nat :=
  match side with
  | some r => b.isle r
  | none => b.now / 2

/-- A queue block whose two sides run on different clocks. -/
def Queue.split (q : Queue) : Bool := q.mode == 2 || q.mode == 3 || q.mode == 4

/-! ### The clocks of the two sides (R190, R192) -/

/-- The time, in eighths of a tick, of the edge that begins cycle c of a side. -/
def Chip.sideEdge (b : Chip) (side : Option Nat) (c : Nat) : Nat :=
  match side with
  | some r => ((c : Int) + (b.region r).isleBase).toNat * (b.region r).m
  | none => c * 16

/-- The cycle of a side at a time in eighths of a tick. -/
def Chip.sideAt (b : Chip) (side : Option Nat) (e : Nat) : Nat :=
  match side with
  | some r =>
    match (b.region r).isleHold with
    | some c => c
    | none => ((e / (b.region r).m : Nat) - (b.region r).isleBase).toNat
  | none => e / 16

/-- The tick at which the next cycle of a side begins. -/
def Chip.sideTickNext (b : Chip) (side : Option Nat) : Nat := (b.sideEdge side (b.sideCycle side + 1) + 7) / 8

/-- What the two sides of a queue block have to know of time: their present cycles, and for a change at the end of a cycle of one
side the cycle that begins at the second edge after it of the other (R190). -/
structure QueueClock where
  cw : Nat
  cr : Nat
  toR : Nat → Nat
  toW : Nat → Nat

def Chip.queueClock (b : Chip) (k : Nat) (q : Queue) : QueueClock :=
  let w := q.writer k
  let r := q.reader k
  { cw := b.sideCycle w
    cr := b.sideCycle r
    toR := fun c => b.sideAt r (b.sideEdge w (c + 1)) + 2
    toW := fun c => b.sideAt w (b.sideEdge r (c + 1)) + 2 }

/-! ### Depth and watermarks (R182, R187, R190) -/

/-- The depth that the read side sees in the cycle after the last change. -/
def Queue.readDepth (q : Queue) : Nat := q.words.length - q.unread.length

/-- The depth that the write side sees. -/
def Queue.writeDepth (q : Queue) : Nat := if q.split then q.words.length + q.unfreed.length else q.readDepth

/-- The sticky flags after a change in reader cycle c from the depth `before` in that cycle: a crossing from it to the depth of
the next cycle sets one (R187). All changes of one cycle are judged together. -/
def Queue.judge (q : Queue) (c before : Nat) : Queue :=
  let base := match q.wmAt with
    | some (x, hi, lo, d) => if x = c then (hi, lo, d) else (q.wmHi, q.wmLo, before)
    | none => (q.wmHi, q.wmLo, before)
  let after := q.readDepth
  { q with
    wmAt := some (c, base)
    wmHi := base.1 || (decide (base.2.2 < q.hi) && decide (q.hi ≤ after))
    wmLo := base.2.1 || (decide (q.lo < base.2.2) && decide (after ≤ q.lo)) }

/-- A change of the flags reaches the write side's copy, which lags as in R190: at the third edge (log entry 132). -/
def Queue.logFlags (q : Queue) (x : QueueClock) (c : Nat) : Queue :=
  if q.split then
    let n := x.toW c + 1
    let last := match q.wmLog.getLast? with
      | some e => (e.2.1, e.2.2)
      | none => q.wmSeen
    if last = (q.wmHi, q.wmLo) then q
    else { q with wmLog := q.wmLog.filter (fun e => e.1 != n) ++ [(n, q.wmHi, q.wmLo)] }
  else { q with wmSeen := (q.wmHi, q.wmLo) }

/-- A change in reader cycle c, with its watermark flags. -/
def Queue.change (q : Queue) (x : QueueClock) (c : Nat) (f : Queue → Queue) : Queue :=
  ((f q).judge c q.readDepth).logFlags x c

/-! ### Words in and out (R180 to R183) -/

/-- The word that a packing register of bytes completes, with its mask (R180, R181). -/
def packedWord (l : List Byte) : BitVec 128 × BitVec 16 :=
  (BitVec.ofNat 128 (ofBytes l), BitVec.ofNat 16 (2 ^ l.length - 1))

/-- A word of bytes is completed in writer cycle c; in same-clock mode a held pop can take it in the next cycle. -/
def Queue.enter (q : Queue) (x : QueueClock) (l : List Byte) (c : Nat) : Queue :=
  let f := fun (q : Queue) =>
    { q with
      words := q.words ++ [packedWord l]
      pack := []
      heldPush := none
      pushReady := none
      popReady := if q.split || q.popReady.isSome || !q.heldPop then q.popReady else some (c + 1)
      wptr := (q.wptr + 1) % 256
      wptr2 := (q.wptr2 + 1) % 256
      unread := if q.split then q.unread ++ [x.toR c] else [] }
  if q.split then f q else q.change x c f

/-- The head word is taken in reader cycle c: it is shown in the next one (R183). A push that was held since an earlier cycle can
complete in this one (R184), as the writer sees the free space (R190). -/
def Queue.leave (q : Queue) (x : QueueClock) (c : Nat) : Queue :=
  match q.words with
  | [] => q
  | w :: t =>
    q.change x c fun q =>
      { q with
        words := t
        heldPop := false
        popReady := none
        pushReady := if q.split || q.pushReady.isSome || q.heldPush.isNone then q.pushReady else some c
        rptr := (q.rptr + 1) % 256
        rptr2 := (q.rptr2 + 1) % 256
        popCycle := some c
        out := (q.out.filter fun o => decide (c ≤ o.1)) ++ [(c + 1, w)]
        unfreed := if q.split then q.unfreed ++ [x.toW c] else [] }

/-- The oldest word that is not yet readable becomes so in reader cycle c (R190): the depth of c − 1 rises to that of c. -/
def Queue.arrive (q : Queue) (x : QueueClock) (c : Nat) : Queue :=
  q.change x (c - 1) fun q =>
    { q with
      unread := q.unread.drop 1
      popReady := if q.heldPop && q.popReady.isNone then some c else q.popReady }

/-- The writer sees the oldest pop from its cycle c on. -/
def Queue.freed (q : Queue) (c : Nat) : Queue :=
  { q with
    unfreed := q.unfreed.drop 1
    pushReady := if q.heldPush.isSome && q.pushReady.isNone then some c else q.pushReady }

/-- The held push completes its word in writer cycle c, and the held pop takes the head in reader cycle c. -/
def Queue.completePush (q : Queue) (x : QueueClock) (c : Nat) : Queue :=
  match q.heldPush with
  | some (bytes, _) => q.enter x (q.pack ++ bytes) c
  | none => q

/-! ### What cycles before the present one have brought -/

/-- A held pop takes its word, and a held push completes, in the cycle in which it can, if that is past. -/
def Queue.catchUp (q : Queue) (x : QueueClock) : Queue :=
  let q := match q.popReady with
    | some c => if c < x.cr && q.heldPop && !q.disabled then q.leave x c else q
    | none => q
  match q.pushReady with
  | some c => if decide (c < x.cw) then q.completePush x c else q
  | none => q

/-- Words and free space that the third edge has made visible; the second edge of each lies in the list. -/
def Queue.arrivals (q : Queue) (x : QueueClock) : Queue :=
  let q := (q.unread.filter fun c => decide (c + 1 ≤ x.cr)).foldl (fun q c => (q.arrive x (c + 1)).catchUp x) q
  (q.unfreed.filter fun c => decide (c + 1 ≤ x.cw)).foldl (fun q c => (q.freed (c + 1)).catchUp x) q

/-- The write side's copy of the flags takes what is due. -/
def Queue.takeFlags (q : Queue) (cw : Nat) : Queue :=
  match (q.wmLog.filter fun e => decide (e.1 ≤ cw)).getLast? with
  | some e => { q with wmSeen := e.2, wmLog := q.wmLog.filter fun e => decide (cw < e.1) }
  | none => q

/-- What both sides show in the present cycle, unless a change of this cycle has noted it already. -/
def Queue.capture (q : Queue) (x : QueueClock) : Queue :=
  let fresh := fun (o : Option QueueShow) (c : Nat) => match o with
    | some s => s.cyc != c
    | none => true
  { q with
    shownW := if fresh q.shownW x.cw then
        some { cyc := x.cw, depth := q.writeDepth, hi := q.wmSeen.1, lo := q.wmSeen.2, held := q.heldPush.isSome,
               pack := q.pack.length }
      else q.shownW
    shownR := if fresh q.shownR x.cr then
        some { cyc := x.cr, depth := q.readDepth, hi := q.wmHi, lo := q.wmLo, held := q.heldPop, pack := q.pack.length }
      else q.shownR }

/-- The queue block in its present cycle, with what it shows throughout the cycle noted. -/
def Queue.settle (q : Queue) (x : QueueClock) : Queue :=
  ((((q.catchUp x).arrivals x).catchUp x).takeFlags x.cw).capture x

/-- Reset of a queue block: depth 0, empty packing register, nothing held, flags clear; q_reset is 1 in the present cycle of each
side (R188, R194). A word popped before is still shown. -/
def Queue.reset (q : Queue) (cw cr : Nat) : Queue :=
  { q with
    words := []
    pack := []
    heldPush := none
    pushReady := none
    heldPop := false
    popReady := none
    wmHi := false
    wmLo := false
    wmAt := none
    wmSeen := (false, false)
    wmLog := []
    unread := []
    unfreed := []
    pushCycle := none
    popCycle := none
    wptr := 0
    wptr2 := 0
    rptr := 0
    rptr2 := 0
    resetW := some cw
    resetR := some cr
    shownW := none
    shownR := none }

end Sys2Proof.Machine
end

