-- ==== Sys2Proof/Machine/Regions.lean ====
section
/-! DEFINITION. Pins and banks at park level, the hard reset of a region, the region fence and slot misses: the
containment that many commands share (R25, R26, R71, R72, R92, R124, R125). -/

namespace Sys2Proof.Machine

open Sys2Proof

/-! ### Pins -/

/-- A vector of 64 pins with one pin changed. -/
def setPin (v : BitVec 64) (n : Nat) (x : Bool) : BitVec 64 :=
  if x then v ||| (1#64 <<< n) else v &&& ~~~(1#64 <<< n)

/-- A bank is parked as a whole: mode 0, a fault park or a VCCO park (R48, R49, R72). -/
def Bank.parked (k : Bank) : Bool := k.mode == 0 || k.faultParked || k.vccoParked

/-- Pins that stay at park level once a fault park or a VCCO park of the bank has ended, until their first action or output write; no
other pin of direct mode is at park level (R48, R49, R72). -/
def Bank.staysParked (q : Bank) : BitVec 64 := if q.faultParked || q.vccoParked then q.parkedPins else 0#64

/-- Enable and level of pin n of a bank at park level 0x24bb:07. -/
def Chip.parkDrive (b : Chip) (k n : Nat) : Bool × Bool :=
  match b.reg (0x2400 + k) 7 with
  | 0 => (false, false)
  | 1 => (true, false)
  | 2 => (true, true)
  | _ => ((b.bank k).holdOe.getLsbD n, (b.bank k).holdLevel.getLsbD n)

/-- Pins 2j and 2j + 1 of a bank form a pair (0x24bb:08). -/
def Chip.paired (b : Chip) (k n : Nat) : Bool := bit (b.reg (0x2400 + k) 8) (n / 2)

/-- What the vane of a bank in vane mode sets on pin n: a parked pin is at park level, and the odd pin of a pair whose even pin a
PARK action holds is at the complement of it (R72, log entry 133). -/
def Chip.vaneDrive (b : Chip) (k n : Nat) : Bool × Bool :=
  let bk := b.bank k
  if bk.parkedPins.getLsbD n then b.parkDrive k n
  else if b.paired k n && n % 2 == 1 && bk.parkedPins.getLsbD (n - 1) then
    ((b.parkDrive k (n - 1)).1, !(b.parkDrive k (n - 1)).2)
  else (bk.vOe.getLsbD n, bk.vLevel.getLsbD n)

/-- The reflex output register of a test point in the present region cycle, enable and level (R69, R70). -/
def Chip.rfxDrive (b : Chip) (tp : Nat) : Bool × Bool :=
  Tab.get (false, false) (b.regionNow (bankRegion (tpBank tp))).rfx tp

/-- Enable and level of a test point where rfx is what the reflex path drives. -/
def Chip.pinWith (b : Chip) (rfx : Bool × Bool) (tp : Nat) : Bool × Bool :=
  let k := tpBank tp
  let n := tpPos tp
  let bk := b.bank k
  if bk.parked then b.parkDrive k n
  else if bk.mode = 1 then
    if bk.parkedPins.getLsbD n then b.parkDrive k n else (bk.oe.getLsbD n, bk.level.getLsbD n)
  else if (b.vane tp).reflex then rfx
  else b.vaneDrive k n

/-- Enable and level with which the device drives a test point (R49, R50, R70 to R74). DESIGN CHOICE (log entry 150): in direct mode
pair mode has no effect on the pins; the spec states the pair's drive for the vanes (R53). -/
def Chip.pinDrive (b : Chip) (tp : Nat) : Bool × Bool := b.pinWith (b.rfxDrive tp) tp

/-- The same at the edge that began the present region cycle, where no driver has changed since: a reflex output still stands as its
register drove it before that edge (R69). -/
def Chip.pinAtEdge (b : Chip) (tp : Nat) : Bool × Bool :=
  b.pinWith (Tab.get (false, false) (b.regionNow (bankRegion (tpBank tp))).rfxWas tp) tp

/-- A bit of each of 64 pins. -/
def pinsOf (f : Nat → Bool) : BitVec 64 := (List.range 64).foldl (fun v n => setPin v n (f n)) 0#64

/-- A driver of bank k is about to change: what its pins showed at the edge that began the present region cycle stays noted. -/
def Chip.noteDrive (b : Chip) (k : Nat) : Chip :=
  let c := b.isle (bankRegion k)
  let oe := pinsOf fun n => (b.pinAtEdge (k * 64 + n)).1
  let level := pinsOf fun n => (b.pinAtEdge (k * 64 + n)).2
  b.modBank k fun q => { q with shown := match q.shown with
    | some x => if x.1 = c then some x else some (c, oe, level)
    | none => some (c, oe, level) }

/-- A change of a bank's drivers. -/
def Chip.modPins (b : Chip) (k : Nat) (f : Bank → Bank) : Chip := (b.noteDrive k).modBank k f

/-- Drivers of a bank's pins as the vanes and the reflex paths set them. -/
def Chip.vaneDrivers (b : Chip) (k : Nat) : BitVec 64 × BitVec 64 :=
  b.vanes.foldl (fun d x =>
    if tpBank x.1 = k ∧ x.2.reflex = true then
      (setPin d.1 (tpPos x.1) (b.rfxDrive x.1).1, setPin d.2 (tpPos x.1) (b.rfxDrive x.1).2)
    else d) ((b.bank k).vOe, (b.bank k).vLevel)

/-- Drivers of a bank's pins before a park. -/
def Chip.bankDrivers (b : Chip) (k : Nat) : BitVec 64 × BitVec 64 :=
  if (b.bank k).mode = 1 then ((b.bank k).oe, (b.bank k).level) else b.vaneDrivers k

/-- An open window of a vane closes: vane_win_done pulses in the first region cycle after c that no earlier pulse takes (R63). -/
def Vane.winClose (v : Vane) (c : Nat) : Vane :=
  match v.window with
  | some (_, failed) =>
    let next := match v.winOut.getLast? with
      | some x => max (c + 1) (x.1 + 1)
      | none => c + 1
    { v with window := none, winOut := (v.winOut.filter fun x => decide (c ≤ x.1)) ++ [(next, failed)] }
  | none => v

/-- A vane flushes its event queue, forgets the last word queued, disarms its capture and closes an open window without
an entry, in region cycle c (R43, R58, R63). -/
def Vane.clear (v : Vane) (c : Nat) : Vane :=
  let v := v.winClose c
  { v with queue := [], last := none, armed := none }

/-- The same, and the reflex hold ends (R71, R366, R445). -/
def Vane.flush (v : Vane) (c : Nat) : Vane :=
  let v := v.clear c
  { v with reflex := false }

/-- Every vane of a bank flushes; pins of the reflex path keep their level and enable. -/
def Chip.flushBank (b : Chip) (k : Nat) : Chip :=
  let d := b.vaneDrivers k
  let c := b.isle (bankRegion k)
  { (b.modPins k fun q => { q with vOe := d.1, vLevel := d.2 }) with
    vanes := Tab.mapIf (fun tp => tpBank tp == k) (fun (v : Vane) => v.flush c) b.vanes }

/-- A bank parks its pins (R71): one that is at park level already holds what it held. A pattern that runs stops (R50). -/
def Chip.parkBank (b : Chip) (k : Nat) : Chip :=
  let d := b.bankDrivers k
  let held := if (b.bank k).parked then BitVec.allOnes 64 else (b.bank k).parkedPins
  (b.flushBank k).modBank k fun q =>
    { q with
      holdOe := q.holdOe &&& held ||| d.1 &&& ~~~held
      holdLevel := q.holdLevel &&& held ||| d.2 &&& ~~~held
      parkedPins := BitVec.allOnes 64
      patCtl := 0 }

/-- A park by a region fence or a chip-level fault (R72). -/
def Chip.faultPark (b : Chip) (k : Nat) : Chip :=
  (b.parkBank k).modBank k fun q => { q with faultParked := true }

/-- The fault park of a region's banks ends (R72). -/
def Chip.endFaultPark (b : Chip) (r : Nat) : Chip :=
  b.forEach (regionBanks r) fun b k => b.modPins k fun q => { q with faultParked := false }

/-- A bank enters vane mode: QE and the last word queued start afresh (R49, R57, R58). Each pin keeps its state. -/
def Chip.toVaneMode (b : Chip) (k : Nat) : Chip :=
  let bk := b.bank k
  let qe := b.now / 2 ^ 22 % 2 ^ 42
  let b := b.modPins k fun q =>
    { q with
      mode := 2
      vOe := if bk.mode = 1 then q.oe else q.vOe
      vLevel := if bk.mode = 1 then q.level else q.vLevel
      parkedPins := if bk.mode = 0 then BitVec.allOnes 64 else q.parkedPins
      patCtl := 0
      qeBase := qe }
  { b with vanes := Tab.mapIf (fun tp => tpBank tp == k) (fun v => { v with qe := none, last := none }) b.vanes }

/-- A bank that is not in vane mode enters it. -/
def Chip.enterVaneMode (b : Chip) (k : Nat) : Chip := if (b.bank k).mode = 2 then b else b.toVaneMode k

/-- A bank leaves vane mode: pulls written through the bank control port end (R52), and the vanes flush. -/
def Chip.leaveVaneMode (b : Chip) (k : Nat) : Chip :=
  if (b.bank k).mode = 2 then (b.flushBank k).modBank k fun q => { q with ctlPull := [] } else b

/-- The queue epoch of a vane (R57). -/
def Chip.vaneQe (b : Chip) (tp : Nat) : Nat :=
  match (b.vane tp).qe with
  | some q => q
  | none => (b.bank (tpBank tp)).qeBase

/-! ### Blocks, groups and queue blocks under reset -/

/-- The key of a block's slice group. -/
def groupKey (r blk : Nat) : Nat := r * 64 + blk
def ofRegion64 (r k : Nat) : Bool := k / 64 == r
def ofRegion16 (r k : Nat) : Bool := k / 16 == r

/-- Under the hard reset a group stops; its memories and settings stay (R224, R225). A group in FAULT stays there: only the end of
its block's safe state ends it (R25, R231). -/
def Group.halt (g : Group) : Group :=
  { g with
    st := if g.st = .fault then .fault else .stop
    pending := 0#4
    evStart := []
    handler := none
    rep := 0
    stopReq := false
    stopping := none
    fetchAt := none
    cmHeld := none }

/-- The registers of a group take their values of R202. -/
def Group.registers (g : Group) : Group :=
  { g with
    pc := g.start
    main := {}
    shadow := {}
    acc := []
    pipe := []
    bix := []
    outr := []
    shown := []
    last := none
    gap := 0
    fetched := false
    fetchAt := none
    handler := none
    pending := 0#4
    evMask := 0xF#4
    evStart := []
    rep := 0
    stopReq := false
    stopping := none
    startAt := none
    stopAt := none
    done := none
    took := none
    cmHeld := none
    cmTaken := none
    stcAt := none
    cmOut := []
    dsOut := []
    cmPipe := []
    dsPipe := []
    maint := [] }

/-- A group at the release edge, which begins cycle c at tick t (R202, R224): one that starts fetches in c, its entry words too
(R207, R221). -/
def Group.release (g : Group) (c t : Nat) : Group :=
  if g.atRelease then
    { g.registers with st := .run, last := some (c - 1), gap := 2, fetched := true, fetchAt := some t }
  else { g.registers with st := .stop }

/-! ### Queue blocks under reset -/

/-- The queue blocks of a region reset; a commit or an island restart also ends a disabled state (R189, R194). -/
def Chip.resetQueues (b : Chip) (r : Nat) (enable : Bool) : Chip :=
  let f := fun (x : Nat × Queue) =>
    if ofRegion16 r x.1 then
      let n := x.2.reset (b.sideCycle (x.2.writer x.1)) (b.sideCycle (x.2.reader x.1))
      (x.1, if enable then { n with disabled := false, mism := [] } else n)
    else x
  { b with queues := b.queues.map f }

/-- What is held for the dual-clock queue blocks that a region writes is discarded: the packing register (R191), and with it a
push that completes its word (DESIGN CHOICE, log entry 131). -/
def Chip.dropPacking (b : Chip) (r : Nat) : Chip :=
  { b with queues := b.queues.map fun x =>
      if x.2.mode = 2 ∧ queueSource x.1 = some r then
        (x.1, { x.2.settle (b.queueClock x.1 x.2) with pack := [], heldPush := none, pushReady := none, shownW := none })
      else x }

/-- A fenced home region discards and counts the pushes that the write ports of its dual-clock queue blocks hold, so that
q_wrdy is 1 (R191; DESIGN CHOICE, log entry 131). -/
def Chip.dropHeld (b : Chip) (r : Nat) : Chip :=
  let now := fun (x : Nat × Queue) =>
    if ofRegion16 r x.1 && x.2.mode == 2 then (x.1, x.2.settle (b.queueClock x.1 x.2)) else x
  let b := { b with queues := b.queues.map now }
  let hit := fun (x : Nat × Queue) => ofRegion16 r x.1 && x.2.mode == 2 && x.2.heldPush.isSome
  let drop := fun (x : Nat × Queue) =>
    if hit x then (x.1, { x.2 with heldPush := none, pushReady := none, shownW := none }) else x
  { b with queues := b.queues.map drop }.countBy (0x2500 + r) 0x32 (b.queues.filter hit).length

/-! ### Lanes -/

/-- The key of a lane by its sending end. -/
def laneKey (l : Lane) : Nat := (l.r * 4 + l.side) * 256 + l.lane

/-- The resource of a lane in a slot table (R84). -/
def laneRes (l : Lane) : Nat := l.side * 512 + l.lane

/-- The sending end of the lane whose receiving end is l. -/
def senderOf (l : Lane) : Option Lane :=
  match neighbor l.r l.side with
  | some n => some { r := n, side := opposite l.side, lane := l.lane }
  | none => none

def Chip.lane (b : Chip) (l : Lane) : LaneState := Tab.get {} b.lanes (laneKey l)
def Chip.modLane (b : Chip) (l : Lane) (f : LaneState → LaneState) : Chip :=
  { b with lanes := Tab.mod {} b.lanes (laneKey l) f }

/-- Unscheduled tokens in the senders' buffers toward a region that is fenced are discarded and counted in the sender's
0x25ii:0A (R147). -/
def Chip.dropToward (b : Chip) (r : Nat) : Chip :=
  b.forEach [0, 1, 2, 3] fun b side =>
    match neighbor r side with
    | none => b
    | some n =>
      let mine := fun k => k / 256 == n * 4 + opposite side
      let lost := (b.lanes.filter fun x => mine x.1).foldl (fun c x => c + x.2.buffer.length) 0
      { b with lanes := Tab.mapIf mine (fun l => { l with buffer := [] }) b.lanes }.countBy (0x2500 + n) 0x0A lost

/-- Unscheduled tokens of a sender that is fenced stop (R146). -/
def Chip.stopLanes (b : Chip) (r : Nat) : Chip :=
  { b with lanes := Tab.mapIf (fun k => k / 1024 == r) (fun l => { l with buffer := [], inFlight := [] }) b.lanes }

/-- A lane, by the key of its sending end, leads toward a region. -/
def laneToward (r k : Nat) : Bool := neighbor (k / 1024) (k / 256 % 4) == some r

/-- Scheduled tokens between sending and release are lost when the sender or the receiver is reset or the receiver is
fenced. -/
def Chip.loseTokens (b : Chip) (r : Nat) : Chip :=
  { b with lanes := Tab.mapIf (fun k => k / 1024 == r || laneToward r k) (fun l => { l with inFlight := [] }) b.lanes }


/-- The hard reset tree of a region is asserted: every flip-flop takes its INIT value (R124), capture FIFOs clear (R61), groups
stop (R224), user reset registers clear, and tokens on the region's lanes are lost. -/
def Chip.assertReset (b : Chip) (r : Nat) : Chip :=
  let b := ((b.stopSlots r).dropPacking r).settleRegion r true
  let b := (b.loseTokens r).modRegion r fun g =>
    { g with inReset := true, relDue := false, urst := 0#4, ff := [], live := 0#16 }
  { b with
    vanes := Tab.mapIf (fun tp => bankRegion (tpBank tp) == r)
      (fun v => { v with fifo := [], fifoEpoch := none, lost := 0, popped := none }) b.vanes
    slices := { b.slices with groups := Tab.mapIf (ofRegion64 r) Group.halt b.slices.groups } }

/-- The release edge of a region's hard reset (R125): dividers count from here (R118), groups take their values of
R202. A block in its safe state keeps its own reset (R25). -/
def Chip.releaseReset (b : Chip) (r : Nat) : Chip :=
  let c := b.isle r
  let safe := (b.region r).safeBlocks
  let b := (b.settleRegion r false).modRegion r fun g =>
    { g with inReset := false, relDue := false, released := c, divStart := c }
  let f := fun (x : Nat × Group) =>
    if ofRegion64 r x.1 && !safe.getLsbD (x.1 % 64) then (x.1, x.2.release (b.netCycle r x.2.net) b.now) else x
  { b with slices := { b.slices with groups := b.slices.groups.map f } }.startSlots r

/-- The hub ports of a region take no new request; results of requests in flight are discarded (R26, R366). -/
def Chip.flushHubPorts (b : Chip) (r : Nat) : Chip :=
  { b with hub := { b.hub with
      windowsOut := Tab.drop (fun k => k / 2 == r) b.hub.windowsOut
      returned := Tab.drop (fun k => k / 2 == r) b.hub.returned
      schedOut := Tab.drop (fun k => k / 2 == r) b.hub.schedOut
      readOut := Tab.drop (fun k => k / 2 == r) b.hub.readOut
      ackOut := Tab.drop (fun k => k / 2 == r) b.hub.ackOut
      queue := b.hub.queue.map fun q => if q.src < 64 ∧ q.src / 2 = r then { q with drop := true } else q } }

/-! ### On-demand tests -/

/-- The memory units that an on-demand test of actions 1 to 3 holds (R402). -/
def OnDemand.units (o : OnDemand) : List MemUnit :=
  match o.action with
  | 1 => (List.range 8).map fun m => MemUnit.bm ⟨o.r, o.b, m⟩
  | 2 => [MemUnit.spBank o.r o.b]
  | 3 => [MemUnit.im o.r o.b, MemUnit.cm o.r o.b, MemUnit.ds o.r o.b]
  | _ => []

/-- An on-demand test in the region ends with status 6, and its units' contents are undefined until written (R403). -/
def Chip.abandonOnDemand (b : Chip) (hit : OnDemand → Bool) : Chip :=
  match b.test.onDemand with
  | some o =>
    if o.action ≤ 3 ∧ hit o = true then
      let u := o.units.map fun x => (x, b.free, ([] : List Nat))
      { (b.tookFree.endCmd 0x2E29 6) with
        test := { b.test with onDemand := none }
        mem := { b.mem with undef := u ++ b.mem.undef.filter fun x => !o.units.contains x.1 } }
    else b
  | none => b

/-! ### Fence -/

/-- The ratio to which a staged stream needs a region's standby synthesizer (R141). -/
def Chip.wantedRatio (b : Chip) (r : Nat) : Option Nat :=
  match b.loader.staged.find? fun s => s.records.any fun x => x.1 == r with
  | some s =>
    let m := (Tab.get {} s.records r).m
    if m = (b.region r).m then none else some m
  | none => none

/-- The standby synthesizer of a region is free: it locks to the ratio that a staged stream needs. -/
def Chip.freeRegionStandby (b : Chip) (r : Nat) : Chip :=
  let s : Standby := match b.wantedRatio r with
    | some m => .locking m
    | none => .idle
  b.modRegion r fun g => { g with standby := s }

/-- The island restart of a region in progress ends with a status (R151). -/
def Chip.endRestart (b : Chip) (r st : Nat) : Chip :=
  match (b.region r).restartAt with
  | some _ => ((b.endCmd 0x2E05 st).modRegion r fun g => { g with restartAt := none }).freeRegionStandby r
  | none => b

/-- A partition reset in progress ends with a status; the planned release stays (R301). -/
def Chip.endPartReset (b : Chip) (p st : Nat) : Chip :=
  if (b.part p).resetCmd then (b.endCmd 0x2E21 st).modPart p fun q => { q with resetCmd := false } else b

/-- A re-arm that waits ends with a status (R96). -/
def Chip.endRearm (b : Chip) (p st : Nat) : Chip :=
  match (b.part p).rearmAt with
  | some _ => (b.endCmd 0x2E25 st).modPart p fun q => { q with rearmAt := none }
  | none => b

/-- A pending halt whose named region is fenced ends with status 6 (R467). -/
def Chip.endPendingHalt (b : Chip) (r : Nat) : Chip :=
  match b.regionPart r with
  | some p =>
    if (b.part p).halt = .pending ∧ (b.part p).runCmd = some r then
      (b.endCmd 0x2E2D 6).modPart p fun q => { q with halt := .running, haltAt := none, runCmd := none }
    else b
  | none =>
    if (b.region r).lone = .pending then
      (if (b.region r).loneCmd then b.endCmd 0x2E2D 6 else b).modRegion r fun g =>
        { g with lone := .running, loneAt := none, loneCmd := false }
    else b

/-- A region is fenced (R26). The event makes the fence's one log entry; a further cause in a fenced region makes none
and only ends an island restart in progress with status 3. -/
def Chip.fence (b : Chip) (r : Nat) (e : Ev) : Chip :=
  if (b.region r).fenced then b.endRestart r 3
  else
    let b := ((((b.stopSlots r).dropPacking r).dropHeld r).gateIsle r (b.isle r)).modRegion r fun g => { g with fenced := true }
    let b := b.setReg (0x2500 + r) 0x06 e.code
    let b := b.forEach (regionBanks r) Chip.faultPark
    let b := (((b.dropToward r).loseTokens r).stopLanes r).flushHubPorts r
    let b := b.breakRegion r
    let b := match b.regionPart r with
      | some p => (b.endPartReset p 3).endRearm p 3
      | none => b
    let b := (b.abandonOnDemand fun o => o.r == r).endPendingHalt r
    let b := b.raiseOwner (b.regionOwner r) 2
    b.logEvent e

/-! ### Queue pointers (R188, R189, R199) -/

/-- A queue block is named by a class 0x6 entry of its region (R196). -/
def Chip.queueScheduled (b : Chip) (k : Nat) : Bool :=
  (b.regionK (k / 16)).isSome && (b.region (k / 16)).slots.any fun e => entryClass e == 6 && entryResource e == k % 16

/-- The fourth mismatch within one second disables the queue block (R189); an injected one counts (R488). One that is disabled
already makes no further entry (DESIGN CHOICE, log entry 131). -/
def Chip.disableQueue (b : Chip) (k which : Nat) (inj : Bool) : Chip :=
  let q := b.queue k
  let r := k / 16
  let l := (b.now, inj) :: q.mism.take 3
  let b := b.modQueue k fun q => { q with mism := l }
  match l with
  | [_, _, _, (t, _)] =>
    if b.now - t < 1000000000 ∧ q.disabled = false then
      (b.modQueue k fun q => { q with disabled := true }).logEvent
        (b.regionEv r (evCode 1 3 r 2) 3 (l.any fun x => x.2) (k % 16 + which * 256) 0 0)
    else b
  | _ => b

/-- A pointer mismatch (R188): pair 1 write, 2 read. DESIGN CHOICE (log entry 131): an unused block compares no pointers. -/
def Chip.mismatch (b : Chip) (k which : Nat) (inj : Bool) : Chip :=
  let r := k / 16
  let hard := b.queueScheduled k && (match b.regionPart r with | some p => (b.part p).status == .armed | none => false)
  let b := (b.modQueue k fun q => q.reset (b.sideCycle (q.writer k)) (b.sideCycle (q.reader k))).count (0x2500 + r) 0x31
  let code := if hard then evCode 3 3 r 1 else evCode 1 3 r 1
  let e := b.regionEv r code (if hard then 4 else 3) inj (k % 16 + which * 256) 0 0
  let b := if hard then b.fence r e else b.logEvent e
  let b := if inj then b.injected code else b
  b.disableQueue k which inj

/-- The side whose clock advances a pointer: 1 write, 2 read. -/
def Chip.pointerSide (b : Chip) (k which : Nat) : Option Nat :=
  let q := b.queue k
  if which = 1 then q.writer k else q.reader k

/-- The clock of a queue block's pointer runs, and so the pair is compared; no clock advances the pointers of an unused
block. -/
def Chip.pointerRuns (b : Chip) (k which : Nat) : Bool :=
  (b.queue k).mode != 0 &&
    match b.pointerSide k which with
    | some r => b.fabricRuns r
    | none => b.hostClock

/-- An injected mismatch is applied in the next cycle of its pointer's clock (R199): in the present one, where that clock has
just started. -/
def Chip.injectQueue (b : Chip) (k : Nat) : Chip :=
  b.forEach [1, 2] fun b which =>
    if b.isArmed 0x2D30 which k && b.pointerRuns k which then (b.unarm 0x2D30 which k).mismatch k which true else b

/-- The armed mismatches of the queue blocks whose pointers the clock of region r advances. -/
def Chip.injectQueues (b : Chip) (r : Nat) : Chip :=
  (b.queues.filter fun x => x.2.writer x.1 == some r || x.2.reader x.1 == some r).foldl (fun b x => b.injectQueue x.1) b

/-- A region leaves its reset: its pointers are compared from this edge on. -/
def Chip.releaseRegion (b : Chip) (r : Nat) : Chip := (b.releaseReset r).injectQueues r

/-! ### Slot misses (R90 to R93) -/

/-- The miss record of a region (R91). -/
def Chip.missRecord (b : Chip) (r : Nat) (m : MissInfo) (k : Nat) (inj : Bool) : MissRecord :=
  { cause := m.cause, region := r, slot := m.slot, tag := m.tag, frame := b.now / 2 ^ k, tick := b.tbCount r,
    cycle := m.cycle, injected := inj }

/-- The region checks its slots at the present tick: not under reset (R366), and not while halted (R444); a miss in the tick of
the halt still counts (R93). -/
def Chip.checksSlots (b : Chip) (r : Nat) : Bool :=
  let g := b.region r
  !g.inReset && (!g.halted || g.haltedAt == b.now)

/-- A slot miss (R92): in an ARMED partition the region is fenced and the contract becomes BROKEN, as it does where the
partition became SUSPENDED in the same tick (R93); while BROKEN the miss is counted; otherwise no slot is checked. A miss of an
ARMED partition that another one of the same tick precedes counts as one while BROKEN (R93). -/
def Chip.slotMissAs (b : Chip) (r : Nat) (m : MissInfo) (inj preceded : Bool) : Chip :=
  match if b.checksSlots r then b.regionPart r else none with
  | none => b
  | some p =>
    let q := b.part p
    let rec' := b.missRecord r m q.k inj
    let seen := fun (b : Chip) =>
      let b := ((b.count (0x2530 + r) 7).setReg (0x2530 + r) 8 m.cause).modRegion r fun g => { g with lastMiss := some rec' }
      { b with dbg := { b.dbg with missAt := Tab.set b.dbg.missAt p b.now } }
    let breaks := q.status == .armed || q.status == .suspended && q.haltTick == b.now
    if breaks && !preceded then
      let b := seen b
      let b := b.modPart p fun q => { q with firstMiss := some rec' }
      b.fence r (b.regionEv r (evCode 3 6 r (0x100 + m.cause)) 4 inj m.lower (m.slot + m.tag * 2 ^ 16) m.cycle)
    else if breaks || q.status == .broken then (seen b).count (0x2521 + p) 0x0C
    else b

/-- A slot miss that no other one of its tick precedes. -/
def Chip.slotMiss (b : Chip) (r : Nat) (m : MissInfo) (inj : Bool) : Chip := b.slotMissAs r m inj false

/-! ### Edges of a generator -/

/-- The tick of the first edge of a region's generator at or after tick t, and of the second edge after it (R125). -/
def Chip.firstEdge (b : Chip) (r t : Nat) : Nat :=
  let m := (b.region r).m
  ((t * 8 + m - 1) / m * m + 7) / 8
def Chip.secondEdge (b : Chip) (r t : Nat) : Nat :=
  let m := (b.region r).m
  ((t * 8 / m + 2) * m + 7) / 8

/-- A list of ticks and regions, earliest first. -/
def insertTick (x : Nat × Nat) : List (Nat × Nat) → List (Nat × Nat)
  | [] => [x]
  | y :: l => if x.1 < y.1 then x :: y :: l else y :: insertTick x l

/-- Each region of a list at its tick, in the order of the ticks. -/
def Chip.inTickOrder (b : Chip) (l : List (Nat × Nat)) (f : Chip → Nat → Chip) : Chip :=
  (l.foldl (fun acc x => insertTick x acc) []).foldl (fun b x => f (b.upTo x.1) x.2) b

/-! ### Late crossings (R145) -/

/-- What a receive slot at the receiving end l delivers: the token due in this cycle has left the lane. -/
def Chip.deliver (b : Chip) (l tx : Lane) (data : BitVec 32) (valid poison : Bool) : Chip :=
  let c := b.isle l.r
  b.modLane tx fun x =>
    { x with
      inFlight := x.inFlight.filter fun k => decide (c < k.due)
      delivered := some { data := data, valid := valid, poison := poison, sched := true, cycle := c } }

/-- The effect of a late handshake on its lane, with the sender locked (R145): it is counted, and the slot delivers a token
that is not valid; the handshake that completes later is discarded. -/
def Chip.lateToken (b : Chip) (l : Lane) : Chip :=
  let b := b.count (0x2500 + l.r) 8
  match senderOf l with
  | some tx => b.deliver l tx 0#32 false false
  | none => b

/-- The lane of a receive entry of region r's table. -/
def Chip.receiveLane (b : Chip) (r slot : Nat) : Option Lane :=
  match (b.region r).slots[slot]? with
  | some e =>
    if entryClass e = 2 then some { r := r, side := entryResource e / 512, lane := entryResource e % 256 } else none
  | none => none

/-- A block enters its safe state (R25): its contract breaks; the event is the fault's one entry. -/
def Chip.blockSafe (b : Chip) (r blk : Nat) (e : Ev) : Chip :=
  let b := b.setSafe r (setPin (b.region r).safeBlocks blk true)
  let gone := fun k => blockOf (k / 4096) (k / 16 % 256) == blk
  let b := b.modRegion r fun g => { g with ff := Tab.drop gone g.ff }
  (b.breakRegion r).logEvent e

end Sys2Proof.Machine
end

