-- ==== Sys2Proof/Machine/Access.lean ====
section
/-! DEFINITION. Access to the dictionary: arrival and answer of a request, the checks of a write, owner scopes, and the
serials of the command objects (R5 to R8, R336 to R343, R485, R486). -/

namespace Sys2Proof.Machine

open Sys2Proof

/-- The outcome of a write's effect: the abort code of an entry's own rule, or the device after it. -/
abbrev Res := Except Nat Chip

/-! ### Arrival and answer -/

/-- The response frame of an answer: its layout is the standard's, which the manual does not repeat (R345). -/
def Reply.frame : Reply → Bytes
  | .none => Config.coeFrame 0 0 []
  | .done => Config.coeFrame 1 0 []
  | .abort c => Config.coeFrame 2 c []
  | .data d => Config.coeFrame 3 0 d
  | .info idx sub type access => Config.coeFrame 4 (idx * 2 ^ 24 + sub * 2 ^ 16 + type * 2 ^ 8 + access) []
  | .unavailable => Config.coeFrame 5 0 []

/-- The response of a request in service (R345). -/
def Mailbox.respond (m : Mailbox) (frame : Bytes) : Mailbox :=
  { m with resp := frame, respSeq := m.doorbell, inService := false }

/-- The vector of 0x080C is sent where its enable is set. -/
def HostPort.respond (p : HostPort) (frame : Bytes) : HostPort :=
  let q := { p with mbox := p.mbox.respond frame }
  if p.mbox.ctl.getLsbD 0 then q.send (p.mbox.ctl.toNat / 256 % 64) else q

/-- The response goes out on the owner's path: a port's mailbox or the debug port's with a request in service, or SM1. -/
def Chip.sendResponse (b : Chip) (o : Nat) (frame : Bytes) : Chip :=
  if 1 ≤ o ∧ o ≤ 4 then
    if (b.port (o - 1)).mbox.inService then b.modPort (o - 1) fun p => p.respond frame else b
  else if o = 5 then
    if b.ecat.al = .init then b else { b with ecat := b.ecat.place frame }
  else if o = 6 ∧ b.dbg.mbox.inService = true then
    { b with dbg := { b.dbg with mbox := b.dbg.mbox.respond frame } }
  else b

/-- The answer to the last request on an owner's path. -/
def Chip.answer (b : Chip) (o : Nat) (r : Reply) : Chip :=
  { b with dict := { b.dict with replies := Tab.set b.dict.replies o r } }.sendResponse o r.frame

/-- A new initiate aborts the open segmented transfer of its path (R337). -/
def Chip.closeSegment (b : Chip) (o : Nat) : Chip :=
  { b with dict := { b.dict with segs := Tab.drop (fun k => k == o) b.dict.segs } }

/-- A request is served at its tick; before REDUCED nothing answers (R29, R338). -/
def Chip.request (b : Chip) (q : Req) (f : Chip → Chip) : Chip :=
  let b := b.upTo q.t
  if b.dictAlive then f (b.closeSegment q.owner) else b.answer q.owner .unavailable

/-- Answer a write with its outcome; a refused write has no effect. -/
def Chip.finish (b : Chip) (o : Nat) (r : Res) : Chip :=
  match r with
  | .ok b' => b'.answer o .done
  | .error a => b.answer o (.abort a)

/-! ### Owner scopes -/

def Chip.ownsPart (b : Chip) (o p : Nat) : Bool := b.partOwner p == some o
def Chip.ownsRegion (b : Chip) (o r : Nat) : Bool := b.regionOwner r == some o
def Chip.ownsSome (b : Chip) (o : Nat) : Bool := (List.range 8).any fun p => b.ownsPart o p

/-- The region that a write of 0x2C20 names: in the value, or for 0xFFFF in the present value (R133). -/
def Chip.probeRegion (b : Chip) (sub v : Nat) : Option Nat :=
  let w := if v = 0xFFFF then b.reg 0x2C20 sub else v
  if w < 256 then some (w / 8) else none

/-- The owners that an Owner column's scope adds for a write of value v; a value of 0x2C20 that names no region is refused for its range
alone to the owner of a partition (R53, R133, R134, R174, R233, R291, R298, R341,
R363, R463). The scope of a serial is checked by Chip.serialScope. -/
def Chip.inScope (b : Chip) (o idx sub v : Nat) (sc : Scope) : Bool :=
  match sc with
  | .none => false
  | .config => b.hasControl o
  | .partRight => b.hasPartition o
  | .memory => b.hasMemory o
  | .region => (b.prot (idx - 0x2710)).st != 0 && (b.prot (idx - 0x2710)).owner == o
  | .stream => b.ownsSome o && b.hasStream o
  | .part =>
    if idx < 0x2460 then b.ownsRegion o (bankRegion (idx % 32))
    else if idx < 0x2520 then b.ownsRegion o (idx - 0x2500)
    else if idx < 0x2C20 then b.ownsPart o (idx - 0x2C08)
    else if idx = 0x2C20 then
      match b.probeRegion sub v with
      | some r => b.ownsRegion o r
      | none => v != 0xFFFF && b.ownsSome o
    else if idx < 0x2C60 then b.ownsRegion o (idx - 0x2C40)
    else if idx < 0x2C80 then b.ownsRegion o (idx - 0x2C60)
    else if idx < 0x2C98 then b.ownsRegion o (bankRegion (idx - 0x2C80))
    else b.ownsSome o

/-- An owner that may write an entry (R7); 0x2E01 needs the device-control right of O1 to O5 (R33). -/
def Chip.mayWrite (b : Chip) (o idx sub v : Nat) (e : Entry) : Bool :=
  (e.own.getLsbD o && (idx != 0x2E01 || b.hasControl o)) || b.inScope o idx sub v e.scope

/-- An owner that may read a read-restricted entry (R7). -/
def Chip.mayRead (b : Chip) (o idx sub : Nat) (e : Entry) : Bool :=
  !e.restricted || e.own.getLsbD o || b.inScope o idx sub 0xFFFF e.scope

/-! ### Checks of a write -/

/-- Objects that need Lantern (R338): the command area and the objects of the Lantern chapter. -/
def needsLantern (idx : Nat) : Bool :=
  idx / 256 == 0x2E || idx / 256 == 0x2A || idx / 256 == 0x2B || idx == 0x2002 || idx == 0x2020 || idx == 0x2030 ||
    idx == 0x2040 || idx == 0x2DE0

/-- Lantern serves the dictionary: its image runs, and the monitor does not hold its level-6 work back (R338, R450). -/
def Chip.lanternServes (b : Chip) : Bool :=
  b.lantern.running && !(b.lantern.inMonitor && decide (6 ≤ b.reg 0x2C02 1))

/-- The inject entries of R485, with whether each is an override entry. -/
def injectEntry (idx sub : Nat) : Option Bool :=
  match idx, sub with
  | 0x2D00, 1 | 0x2D00, 2 | 0x2D60, 1 | 0x2D60, 2 | 0x2D80, 3 | 0x2D80, 4 | 0x2DE0, 2 => some true
  | 0x2D10, 3 | 0x2D20, 4 | 0x2D30, 3 | 0x2D40, 4 | 0x2D50, 2 | 0x2D62, 2 | 0x2D70, 2 | 0x2D80, 2 | 0x2D90, 3
  | 0x2DA0, 3 | 0x2DB0, 2 | 0x2DC0, 1 | 0x2DD0, 2 | 0x2DD1, 2 | 0x2DE0, 3 | 0x2DF0, 1 => some false
  | _, _ => none

/-- Process data runs in SAFEOP and OP (R340). -/
def Chip.pdRuns (b : Chip) : Bool := b.ecat.al == .safeop || b.ecat.al == .op

/-- A stopped-only entry's unit runs (R6, R45, R53, R65, R291, R299, R316, R340, R464). -/
def Chip.unitRuns (b : Chip) (idx sub : Nat) : Bool :=
  if idx < 0x2000 then b.pdRuns
  else if idx < 0x2200 then (b.part (idx - 0x2110)).committed
  else if idx = 0x2301 then b.reg 0x2301 1 == 2
  else if idx < 0x2418 then
    if 0x0C ≤ sub ∧ sub ≤ 0x0F then (b.bank (idx - 0x2400)).patCtl != 0 else !(b.bank (idx - 0x2400)).parked
  else if idx < 0x2460 then !(b.bank (idx % 32)).parked
  else if idx < 0x2800 then (b.prot (idx - 0x2710)).st != 0
  else if idx < 0x2900 then (b.port (idx - 0x2800)).link == 2
  else b.dbg.enabled

/-- The value lies in the range that its entry states; signed entries are compared as signed numbers. -/
def Entry.inRange (e : Entry) (v : Nat) : Bool :=
  match e.rng with
  | .any => true
  | .le hi => decide (v ≤ hi)
  | .btw lo hi => decide (lo ≤ v) && decide (v ≤ hi)
  | .orAll hi all => decide (v ≤ hi) || v == all
  | .sbtw lo hi =>
    let n := signed (8 * e.ty.bytes) v
    decide (-(lo : Int) ≤ n) && decide (n ≤ (hi : Int))
  | .mask m => (v &&& m) == v
  | .mult n => v % n == 0
  | .multTo n hi => v % n == 0 && decide (n ≤ v) && decide (v ≤ hi)
  | .mult64 n => v % 64 == 0 && decide (n ≤ v)
  | .len _ => true

/-- The length of the data fits the entry's type (R339). -/
def Entry.lengthOk (e : Entry) (len : Nat) : Bool :=
  match e.ty with
  | .octet | .vstr =>
    match e.rng with
    | .len n => len == n
    | _ => true
  | t => len == t.bytes

/-- The checks of a write, in the order object, subindex, Lantern, access, owner, length, injection gate, stopped-only,
range (R5 to R8, R338, R339, R485; the order is the model's, log entry 11). -/
def Chip.checkWrite (b : Chip) (o idx sub len v : Nat) : Except Nat Entry :=
  if !DictTable.hasObject idx then .error 0x06020000
  else match DictTable.find idx sub with
  | none => .error 0x06090011
  | some e =>
    if needsLantern idx && !b.lanternServes then .error 0x08000021
    else if e.acc = .ro then .error 0x06010002
    else if !b.mayWrite o idx sub v e && !(sub == 1 && (idx == 0x2E00 || idx == 0x2210 || idx == 0x2E29)) then
      .error 0x06010000
    else if 4096 < len then .error 0x05040005
    else if !e.lengthOk len then .error 0x06070010
    else if !b.inject.enabled && (match injectEntry idx sub with
        | some true => v != e.dflt
        | some false => true
        | none => false) then .error 0x08000022
    else if e.chg = .stopped ∧ b.unitRuns idx sub = true then .error 0x08000022
    else if !e.inRange v then .error 0x06090030
    else .ok e

/-- A write of a number to an entry, with the entry's effect. -/
def Chip.writeEntry (b : Chip) (o idx sub v : Nat) (eff : Chip → Res) : Res :=
  match b.checkWrite o idx sub (match DictTable.find idx sub with | some e => e.ty.bytes | none => 0) v with
  | .ok _ => eff b
  | .error a => .error a

/-- A dictionary-write command: the write of one entry, served and answered. -/
def Chip.writeRow (b : Chip) (q : Req) (idx sub v : Nat) (eff : Chip → Res) : Chip :=
  b.request q fun b => b.finish q.owner (b.writeEntry q.owner idx sub v eff)

/-! ### Command objects (R341 to R343) -/

/-- 0x2E00 is the face of 0x2210 in the command area (R363). -/
def cmdKey (idx : Nat) : Nat := if idx = 0x2E00 then 0x2210 else idx

/-- The owner may start the command with the parameters as they stand (R104, R153, R301, R341, R467). The objects whose
tables give a status for the case check it themselves. -/
def Chip.serialScope (b : Chip) (o idx : Nat) : Bool :=
  if idx = 0x2E25 ∨ idx = 0x2E21 then o == 0 || o == 6 || b.ownsPart o (b.reg idx 3)
  else if idx = 0x2E05 then o == 0 || o == 6 || b.ownsRegion o (b.reg idx 3)
  else if idx = 0x2E2D then o == 0 || o == 6 || b.ownsRegion o (b.reg idx 4)
  else true

/-- A write of subindex 1 of a command object: a serial that is not new does nothing; while a command of the object is
busy, or from an owner outside the scope, a new serial is refused; otherwise it is stored and the command starts. -/
def Chip.serial (b : Chip) (o idx n : Nat) (start : Chip → Nat → Chip) : Res :=
  let k := cmdKey idx
  if Tab.get 0 (b.cmd k).serials o = n then .ok b
  else if (b.cmd k).busy.isSome then .error 0x08000022
  else if !b.serialScope o idx then .error 0x06010000
  else .ok (start (b.modCmd k fun c => { c with serials := Tab.set c.serials o n }) o)

/-- The parameters of a complete-access write, each stored after its checks, with the first refusal among them. -/
def Chip.storeParams (b : Chip) (o idx : Nat) : List (Nat × Nat) → Chip × Option Nat
  | [] => (b, none)
  | (sub, v) :: t =>
    match b.writeEntry o idx sub v fun b => .ok (b.setReg idx sub v) with
    | .ok b => b.storeParams o idx t
    | .error a => ((b.storeParams o idx t).1, some a)

/-- The end of a complete-access write of a command object: the serial takes effect after every other subindex has been
stored, and the write is refused in whole with the abort of the first subindex that is refused, subindex 1 before the
parameters (R337, R343). -/
def wholeWrite (stored : Chip × Option Nat) (serial : Chip → Res) : Res :=
  match serial stored.1, stored.2 with
  | .ok b, none => .ok b
  | .ok _, some a => .error a
  | .error a, _ => .error a

/-- A command row: the complete-access write of its object, parameters first and then the serial (R343). -/
def Chip.commandRow (b : Chip) (q : Req) (idx n : Nat) (params : List (Nat × Nat)) (start : Chip → Nat → Chip) : Chip :=
  b.request q fun b =>
    b.finish q.owner
      (wholeWrite (b.storeParams q.owner (cmdKey idx) params) fun b =>
        b.writeEntry q.owner idx 1 n fun b => b.serial q.owner idx n start)

end Sys2Proof.Machine
end

