-- ==== Sys2Proof/Machine/Cipher.lean ====
section
/-! DEFINITION. AES-256-GCM, the cipher that R272 names. PRESUMED: block cipher and mode are those of FIPS 197 and
SP 800-38D, which the manual names and does not repeat (log entry 138). -/

namespace Sys2Proof.Machine

open Sys2Proof

/-! ### AES-256 -/

/-- The substitution box as one number: its byte x is the value for x. -/
def aesBox : Nat :=
  0x16bb54b00f2d99416842e6bf0d89a18cdf2855cee9871e9b948ed9691198f8e19e1dc186b95735610ef6034866b53e708a8bbd4b1f74dde8c6b4a61c2e2578ba08ae7a65eaf4566ca94ed58d6d37c8e779e4959162acd3c25c2406490a3a32e0db0b5ede14b8ee4688902a22dc4f816073195d643d7ea7c41744975fec130ccdd2f3ff1021dab6bcf5389d928f40a351a89f3c507f02f94585334d43fbaaefd0cf584c4a39becb6a5bb1fc20ed00d153842fe329b3d63b52a05a6e1b1a2c830975b227ebe28012079a059618c323c7041531d871f1e5a534ccf73f362693fdb7c072a49cafa2d4adf04759fa7dc982ca76abd7fe2b670130c56f6bf27b777c63

def subByte (x : Byte) : Byte := BitVec.ofNat 8 (aesBox >>> (8 * x.toNat))

/-- The product by x in the field of AES. -/
def xtime (x : Byte) : Byte := if x.getLsbD 7 then (x <<< 1) ^^^ 0x1b#8 else x <<< 1

/-- The exclusive or of two byte strings, as long as the shorter. -/
def xorBytes (a b : Bytes) : Bytes := List.zipWith (· ^^^ ·) a b

/-- The bytes of a number of n bytes, the most significant first. -/
def bigEndian (n v : Nat) : Bytes := (List.range n).map fun i => BitVec.ofNat 8 (v >>> (8 * (n - 1 - i)))

/-- The number that bytes spell, the most significant first. -/
def ofBigEndian (l : Bytes) : Nat := l.foldl (fun v x => v * 256 + x.toNat) 0

/-- Word i of the key schedule from the words before it. -/
def nextKeyWord (w : List Bytes) (i : Nat) : Bytes :=
  let t := w.getD (i - 1) []
  let t :=
    if i % 8 = 0 then
      xorBytes ((t.drop 1 ++ t.take 1).map subByte) [1#8 <<< (i / 8 - 1), 0#8, 0#8, 0#8]
    else if i % 8 = 4 then t.map subByte
    else t
  xorBytes (w.getD (i - 8) []) t

/-- The 60 words of the key schedule. -/
def keyWords (key : BitVec 256) : List Bytes :=
  let k := bigEndian 32 key.toNat
  (List.range 52).foldl (fun w i => w ++ [nextKeyWord w (i + 8)]) ((List.range 8).map fun i => (k.drop (4 * i)).take 4)

def roundKey (w : List Bytes) (r : Nat) : Bytes := ((w.drop (4 * r)).take 4).flatten

/-- The rows of a block are shifted; a block holds its columns one after another. -/
def shiftRows (s : Bytes) : Bytes := (List.range 16).map fun i => s.getD ((i + 4 * (i % 4)) % 16) 0#8

/-- Row r of the mixed column c. -/
def mixByte (s : Bytes) (c r : Nat) : Byte :=
  let x := fun (j : Nat) => s.getD (4 * c + (r + j) % 4) 0#8
  xtime (x 0) ^^^ xtime (x 1) ^^^ x 1 ^^^ x 2 ^^^ x 3

def mixColumns (s : Bytes) : Bytes := (List.range 16).map fun i => mixByte s (i / 4) (i % 4)

/-- One block under a key. -/
def aesBlock (key : BitVec 256) (s : Bytes) : Bytes :=
  let w := keyWords key
  let mid := (List.range 13).foldl
    (fun s r => xorBytes (mixColumns (shiftRows (s.map subByte))) (roundKey w (r + 1))) (xorBytes s (roundKey w 0))
  xorBytes (shiftRows (mid.map subByte)) (roundKey w 14)

/-! ### GCM -/

/-- The product in the field of GHASH: bit 127 stands for the power 0. -/
def ghashMul (x y : BitVec 128) : BitVec 128 :=
  ((List.range 128).foldl (fun (z : BitVec 128 × BitVec 128) i =>
    (if x.getLsbD (127 - i) then z.1 ^^^ z.2 else z.1,
      if z.2.getLsbD 0 then (z.2 >>> 1) ^^^ (0xe1#128 <<< 120) else z.2 >>> 1)) (0#128, y)).1

/-- The blocks of 16 bytes of a string, the last filled with zeros. -/
def blocks16 (l : Bytes) : List (BitVec 128) :=
  (List.range ((l.length + 15) / 16)).map fun i =>
    let x := (l.drop (16 * i)).take 16
    BitVec.ofNat 128 (ofBigEndian (x ++ List.replicate (16 - x.length) 0#8))

def ghash (h : BitVec 128) (l : List (BitVec 128)) : BitVec 128 := l.foldl (fun y x => ghashMul (y ^^^ x) h) 0#128

/-- Counter block n of an IV, encrypted: block 1 masks the tag, blocks from 2 on are the keystream. -/
def gcmBlock (key : BitVec 256) (iv : BitVec 96) (n : Nat) : Bytes := aesBlock key (bigEndian 16 (iv.toNat * 2 ^ 32 + n))

/-- The keystream of a 64-byte line: 4 blocks (R272). -/
def lineKeystream (key : BitVec 256) (iv : BitVec 96) : Bytes := ((List.range 4).map fun i => gcmBlock key iv (i + 2)).flatten

/-- The tag over associated data and a text that stands as it is stored. -/
def gcmTag (key : BitVec 256) (iv : BitVec 96) (aad text : Bytes) : Bytes :=
  let h := BitVec.ofNat 128 (ofBigEndian (aesBlock key (bigEndian 16 0)))
  let len := BitVec.ofNat 128 (8 * aad.length * 2 ^ 64 + 8 * text.length)
  xorBytes (bigEndian 16 (ghash h (blocks16 aad ++ blocks16 text ++ [len])).toNat) (gcmBlock key iv 1)

/-- The tag truncated to 64 bits: its first 8 bytes (R272). -/
def gcmTag64 (key : BitVec 256) (iv : BitVec 96) (aad text : Bytes) : Bytes := (gcmTag key iv aad text).take 8

/-- A text of any length under the keystream of GCM: encryption and decryption (R357). -/
def gcmText (key : BitVec 256) (iv : BitVec 96) (text : Bytes) : Bytes :=
  xorBytes text ((List.range ((text.length + 15) / 16)).map fun i => gcmBlock key iv (i + 2)).flatten

/-! ### CMAC -/

/-- The double of a block in the field of CMAC. -/
def cmacDouble (x : BitVec 128) : BitVec 128 := if x.getLsbD 127 then (x <<< 1) ^^^ 0x87#128 else x <<< 1

/-- AES-256-CMAC over a text of whole blocks, of which a record is one (R399). PRESUMED: as in SP 800-38B. -/
def cmacBlocks (key : BitVec 256) (text : Bytes) : Bytes :=
  let k1 := cmacDouble (BitVec.ofNat 128 (ofBigEndian (aesBlock key (bigEndian 16 0))))
  let l := blocks16 text
  let enc := fun (x : BitVec 128) => BitVec.ofNat 128 (ofBigEndian (aesBlock key (bigEndian 16 x.toNat)))
  bigEndian 16 (enc ((l.dropLast.foldl (fun y x => enc (y ^^^ x)) 0#128) ^^^ (l.getLastD 0#128) ^^^ k1)).toNat

end Sys2Proof.Machine
end

