-- ==== Sys2Proof/Machine/Planes.lean ====
section
/-! DEFINITION. The configuration planes as runs of equal frames, the settings that a committed stream gives the hard
blocks, staged streams, and the parts of a commit that several commands share (R351 to R353, R362 to R368). -/

namespace Sys2Proof.Machine

open Sys2Proof

/-! ### Planes -/

/-- Frames of a block and of a region (R351). -/
def blockFrames : Nat := 544
def regionFrames : Nat := 34816

/-- The number of a frame in address order: frame, then block, then region (R358). -/
def frameNo (r blk f : Nat) : Nat := (r * 64 + blk) * blockFrames + f

/-- The number that a frame address names; none where a reserved bit is set or a field is out of range (R351). -/
def frameOf (a : BitVec 32) : Option Nat :=
  let n := a.toNat
  let f := n % 1024
  if n < 2 ^ 26 ∧ field n 10 5 = 0 ∧ f < blockFrames then some (frameNo (field n 21 5) (field n 15 6) f) else none

/-- The frame address of a frame number. -/
def frameAddr (n : Nat) : Nat :=
  n / regionFrames * 2 ^ 21 + n / blockFrames % 64 * 2 ^ 15 + n % blockFrames

/-- The frame at a number; a frame in no run is the empty frame, all 0 (R366). -/
def runGet (l : List FrameRun) (n : Nat) : BitVec 2048 :=
  match l with
  | [] => 0#2048
  | x :: t => if x.first ≤ n ∧ n < x.first + x.count then x.frame else runGet t n

/-- The part of a run below a number, and the part from a number on. -/
def FrameRun.below (x : FrameRun) (n : Nat) : List FrameRun :=
  if x.first < n then [{ x with count := min x.count (n - x.first) }] else []
def FrameRun.above (x : FrameRun) (n : Nat) : List FrameRun :=
  if n < x.first + x.count then
    [{ x with first := max x.first n, count := x.first + x.count - max x.first n }]
  else []

/-- The plane without the frames lo to hi (exclusive): they are empty. -/
def runCut (l : List FrameRun) (lo hi : Nat) : List FrameRun :=
  l.flatMap fun x => if x.first + x.count ≤ lo ∨ hi ≤ x.first then [x] else x.below lo ++ x.above hi

/-- The frames lo to hi (exclusive) of a plane. -/
def runSlice (l : List FrameRun) (lo hi : Nat) : List FrameRun :=
  l.flatMap fun x => (x.above lo).flatMap fun y => y.below hi

/-- A run put at its place in a plane that holds none of its frames. -/
def runInsert (x : FrameRun) : List FrameRun → List FrameRun
  | [] => [x]
  | y :: t => if x.first < y.first then x :: y :: t else y :: runInsert x t

/-- Frames lo to lo + n hold the frame f. -/
def runPut (l : List FrameRun) (lo n : Nat) (f : BitVec 2048) : List FrameRun :=
  let l := runCut l lo (lo + n)
  if n = 0 ∨ f = 0#2048 then l else runInsert { first := lo, count := n, frame := f } l

/-- The plane dst with the frames lo to hi of the plane src. -/
def runCopy (dst src : List FrameRun) (lo hi : Nat) : List FrameRun :=
  (runSlice src lo hi).foldl (fun l x => runInsert x l) (runCut dst lo hi)

/-- Copy a region's frames from one plane to another. -/
def copyRegion (dst src : List FrameRun) (r : Nat) : List FrameRun :=
  runCopy dst src (r * regionFrames) ((r + 1) * regionFrames)

/-- A frame with one bit flipped. -/
def flipBit (f : BitVec 2048) (k : Nat) : BitVec 2048 := f ^^^ (1#2048 <<< (k % 2048))

/-! ### The CRC of a frame (R352, R385) -/

/-- The CRC register c after the next n bits of f, bit 0 first. The match makes Lean's kernel compute each step before the next. -/
def crcBits : Nat → Nat → Nat → Nat
  | 0, _, c => c
  | n + 1, f, c =>
    match if c % 2 = f % 2 then c / 2 else (c / 2) ^^^ 0x82F63B78 with
    | 0 => crcBits n (f / 2) 0
    | k + 1 => crcBits n (f / 2) (k + 1)

/-- CRC-32C over the 256 bytes of a frame, bit 0 of word 0 first. PRESUMED: the Castagnoli CRC as it is commonly computed (log
entry 143). -/
def frameCrc (f : BitVec 2048) : BitVec 32 := ~~~(BitVec.ofNat 32 (crcBits 2048 f.toNat 0xFFFFFFFF))

/-- Two frames have one CRC. -/
def sameCrc (f g : BitVec 2048) : Bool := decide (f = g) || frameCrc f == frameCrc g

/-- The one or two bits whose inversion gives frame f the CRC of frame g, where the syndrome locates them: it does so exactly for an
error of up to 3 bits, and an error of more may read as one of 2. -/
def locateBits (f g : BitVec 2048) : Option (List Nat) :=
  let d := (List.range 2048).filter fun i => f.getLsbD i != g.getLsbD i
  if d.length ≤ 2 then some d
  else if d.length = 3 then none
  else
    let hit := fun (l : List Nat) => frameCrc (l.foldl flipBit f) == frameCrc g
    ((List.range 2048).map (fun i => [i]) ++ (List.range 2048).flatMap fun i => (List.range i).map fun j => [j, i]).find? hit

/-! ### Settings of the hard blocks -/

/-- The region that a setting concerns. -/
def settingRegion : Setting → Nat
  | .bmMode r .. => r
  | .queue r .. => r
  | .group r .. => r
  | .net r .. => r
  | .bankUse bb => bankRegion bb
  | .reflex tp _ _ => bankRegion (tpBank tp)
  | .rfxOeConst tp => bankRegion (tpBank tp)
  | .driveWords tp => bankRegion (tpBank tp)
  | .probeInput r .. => r
  | .boundaryDefault r .. => r
  | .cell r .. => r
  | .cluster r .. => r
  | .carryIn r .. => r
  | .route r .. => r

/-- The key of a block memory. -/
def bmKey (r blk m : Nat) : Nat := (r * 64 + blk) * 8 + m

/-- A setting takes effect in its hard block. -/
def Chip.applySetting (b : Chip) (x : Setting) : Chip :=
  match x with
  | .bmMode r k m bypass net =>
    { b with mem := { b.mem with
        bypass := Tab.set b.mem.bypass (bmKey r k m) bypass
        bmNet := Tab.set b.mem.bmNet (bmKey r k m) net } }
  | .queue r k mode width hi lo =>
    { b with queues := Tab.mod {} b.queues (queueKey r k) fun q =>
        { q with mode := mode, width := width, hi := hi, lo := lo } }
  | .group r k net start atRelease evEnable entry bound view =>
    { b with slices := { b.slices with groups := Tab.mod {} b.slices.groups (groupKey r k) fun g =>
        { g with
          net := net
          start := start
          atRelease := atRelease
          evEnable := evEnable
          entry := entry
          bound := bound
          view := view } } }
  | .net r n divA divB srcA srcB gate =>
    b.modRegion r fun g => { g with nets := Tab.set g.nets n { divA, divB, srcA, srcB, gate } }
  | _ => b

/-- A queue block and a slice group that no configuration uses. -/
def Queue.unused (q : Queue) : Queue := { q with mode := 0, width := 0, hi := 0, lo := 0 }
def Group.unused (g : Group) : Group :=
  { g with
    net := 0
    start := 0
    atRelease := false
    evEnable := 0#4
    entry := []
    bound := []
    view := 0 }

/-- A region's hard blocks return to unused and take the settings of its committed stream (R351). -/
def Chip.applySettings (b : Chip) (r : Nat) (l : List Setting) : Chip :=
  let mine := l.filter fun x => settingRegion x == r
  let gs := Tab.mapIf (ofRegion64 r) Group.unused b.slices.groups
  let b := { b with
    mem := { b.mem with
      bypass := Tab.drop (fun k => k / 512 == r) b.mem.bypass
      bmNet := Tab.drop (fun k => k / 512 == r) b.mem.bmNet
      bmState := Tab.drop (fun k => k / 512 == r) b.mem.bmState }
    queues := Tab.mapIf (ofRegion16 r) Queue.unused b.queues
    slices := { b.slices with groups := gs } }
  let b := (b.settleRegion r true).modRegion r fun g => { g with nets := [], settings := mine }
  mine.foldl Chip.applySetting b

/-! ### Staged streams (R362) -/

def Staged.regionMask (s : Staged) : BitVec 32 := s.section_.foldl (fun m x => m ||| x.2.2.1) 0#32
def Staged.maskOf (s : Staged) (p : Nat) : BitVec 32 :=
  match s.section_.find? fun x => x.1 == p with
  | some x => x.2.2.1
  | none => 0#32
def Staged.kOf (s : Staged) (p : Nat) : Nat :=
  match s.section_.find? fun x => x.1 == p with
  | some x => x.2.2.2
  | none => 0

/-- The staged stream of a partition. -/
def Chip.stagedOf (b : Chip) (p : Nat) : Option Staged := b.loader.staged.find? fun s => s.parts.getLsbD p

/-- Regions whose twin is invalid and that no stream uses any more are rebuilt from the active plane (R353). -/
def Chip.rebuild (b : Chip) (mask : BitVec 32) : Chip :=
  { b with loader := { b.loader with rebuilding := b.loader.rebuilding ||| (mask &&& b.loader.twinInvalid) } }

/-- The standby synthesizers of the regions of a stream are free again. -/
def Chip.freeStandby (b : Chip) (mask : BitVec 32) : Chip :=
  b.forEach (bitsOf mask.toNat 32) fun b r =>
    if (b.region r).restartAt.isSome then b else b.freeRegionStandby r

/-- A staged stream is discarded whole (R362). -/
def Chip.dropStaged (b : Chip) (hit : Staged → Bool) : Chip :=
  let out := b.loader.staged.filter hit
  let mask := out.foldl (fun m s => m ||| s.regionMask) 0#32
  let b := { b with loader := { b.loader with staged := b.loader.staged.filter fun s => !hit s } }
  (b.rebuild mask).freeStandby mask

/-! ### Commit (R364 to R368) -/

/-- The staged streams that a commit names. -/
def Chip.commitStreams (b : Chip) (mask : BitVec 8) : List Staged :=
  b.loader.staged.filter fun s => (s.parts &&& mask) != 0#8

/-- The largest frame exponent of the streams with slot tables, or 10 (R364). -/
def kmax (l : List Staged) : Nat :=
  let ks := l.flatMap fun s => s.section_.map fun x => x.2.2.2
  if ks.all (· == 0) then 10 else ks.foldl max 0

/-- Every partition of the command has a staged stream, and the command names every partition of each (R365). -/
def Chip.commitStaged (b : Chip) (mask : BitVec 8) : Bool :=
  mask != 0#8 && ((bitsOf mask.toNat 8).all fun p => (b.stagedOf p).isSome) &&
    (b.commitStreams mask).all fun s => (s.parts &&& ~~~mask) == 0#8

/-- The locks are made (R365). -/
def Chip.commitLocked (b : Chip) (mask : BitVec 8) : Bool :=
  (b.commitStreams mask).all fun s => s.records.all fun x =>
    (b.region x.1).m == x.2.m || (b.region x.1).standby == .locked x.2.m

/-- A channel that can carry windows: ready and window-capable (R251, R264). -/
def Chip.windowOk (b : Chip) (c : Nat) : Bool :=
  (b.channel c).st == .ready && b.hub.window.getLsbD c

/-- An on-demand test holds a block of the region (R402). -/
def Chip.testHolds (b : Chip) (r : Nat) : Bool :=
  match b.test.onDemand with
  | some o => decide (o.action ≤ 3) && o.r == r
  | none => false

/-- Debug holds a region halted, or has been asked to halt it (R365, R368). -/
def Chip.haltAsked (b : Chip) (r : Nat) : Bool :=
  (b.region r).halted || match b.regionPart r with
    | some p => (b.part p).halt == .pending
    | none => (b.region r).lone == .pending

/-- The conditions of R365, but for the staged streams and the locks. -/
def Chip.commitRest (b : Chip) (mask : BitVec 8) : Bool :=
  b.serving &&
  (b.commitStreams mask).all fun s =>
    (s.records.all fun x =>
      let r := x.1
      (!(b.region r).clearing || (b.region r).part.isSome) &&
      (match x.2.port0 with | some c => b.windowOk c | none => true) &&
      (match x.2.port1 with | some c => b.windowOk c | none => true) &&
      !b.haltAsked r && !b.testHolds r) &&
    (s.section_.all fun x => (b.partRegions x.1).all fun r => !b.haltAsked r && !b.testHolds r)

/-- Every condition of R365. -/
def Chip.commitReady (b : Chip) (mask : BitVec 8) : Bool :=
  b.commitStaged mask && b.commitLocked mask && b.commitRest mask

/-- The detail of a commit entry (R481): commit status and the low bits of the instant. -/
def Chip.commitEv (_b : Chip) (c : Commit) (p code sev status : Nat) (inj : Bool) : Ev :=
  { code := evCode 4 12 p code, sev := sev, inj := inj, owner := some c.owner, part := some p,
    d0 := status * 2 ^ 16, d1 := c.tc.getD 0 % 2 ^ 32 }

/-- The lowest partition of a mask, or 0. -/
def lowestPart (mask : Nat) : Nat := (bitsOf mask 8).headD 0

/-- The commit of a boot stream, as O7: mode 3 if MODE[2] is 1, else mode 0 (R372). It is busy in 0x2210 as any commit is; while
another commit is busy it waits for that one's end. -/
def Chip.bootCommit (b : Chip) (parts : BitVec 8) : Chip :=
  if b.loader.commit.isSome then { b with loader := { b.loader with bootWait := parts } }
  else
    let c : Commit := { mask := parts, mode := if b.dev.mode.getLsbD 2 then 3 else 0, target := 0, owner := 7 }
    { (b.beginCmd 0x2210 7) with loader := { b.loader with commit := some c, bootWait := 0#8 } }

/-- A commit ends with a status; status 7 is logged (R381). -/
def Chip.endCommit (b : Chip) (st : Nat) (inj : Bool) : Chip :=
  match b.loader.commit with
  | none => b
  | some c =>
    let b := { b with loader := { b.loader with commit := none } }
    let b := if st = 7 then b.logEvent (b.commitEv c (lowestPart c.mask.toNat) 4 3 7 inj) else b
    let b := b.endCmd 0x2210 st
    if b.loader.bootWait = 0#8 then b else b.bootCommit b.loader.bootWait

/-- The regions that a commit configures: those of its streams' region masks. -/
def commitRegions (l : List Staged) : BitVec 32 := l.foldl (fun m s => m ||| s.regionMask) 0#32

/-- The regions that a commit removes: held by a partition of the command and not in its new mask (R366). -/
def Chip.commitRemoved (b : Chip) (l : List Staged) : BitVec 32 :=
  l.foldl (fun m s => s.section_.foldl (fun m x => m ||| ((b.part x.1).regions &&& ~~~x.2.2.1)) m) 0#32

/-- The staged record of a region. -/
def recordOf (l : List Staged) (r : Nat) : Record :=
  match l.find? fun s => s.regionMask.getLsbD r with
  | some s => Tab.get {} s.records r
  | none => {}

def settingsOf (l : List Staged) (r : Nat) : List Setting :=
  match l.find? fun s => s.regionMask.getLsbD r with
  | some s => s.settings
  | none => []

/-- −32 to −8: the active latches take the staging values, and records and CRCs become active; a removed region takes
the empty configuration in both planes (R366). What hung on the old frames ends: stuck bits of injection code 4
(R408) and the notes of repairs. -/
def Chip.commitCopy (b : Chip) (c : Commit) : Chip :=
  let conf := bitsOf c.regions.toNat 32
  let rem := bitsOf c.removed.toNat 32
  let gone := fun n => c.regions.getLsbD (n / regionFrames) || c.removed.getLsbD (n / regionFrames)
  let ld := conf.foldl (fun (ld : Loader) r =>
    { ld with active := copyRegion ld.active ld.staging r, activeRef := copyRegion ld.activeRef ld.stagingRef r }) b.loader
  let ld := rem.foldl (fun (ld : Loader) r =>
    { ld with active := copyRegion ld.active [] r, activeRef := copyRegion ld.activeRef [] r,
              staging := copyRegion ld.staging [] r, stagingRef := copyRegion ld.stagingRef [] r }) ld
  let b := { b with
    loader := ld
    watch := { b.watch with
      stuck := Tab.drop gone b.watch.stuck
      repaired := Tab.drop gone b.watch.repaired
      clean := Tab.drop gone b.watch.clean
      bad := b.watch.bad.filter fun n => !gone n } }
  let b := b.forEach conf fun b r =>
    let rc := recordOf c.staged r
    (b.applySettings r (settingsOf c.staged r)).modRegion r fun g =>
      { g with slots := rc.slots, port0 := rc.port0, port1 := rc.port1 }
  b.forEach rem fun b r =>
    (b.applySettings r []).modRegion r fun g => { g with slots := [], port0 := none, port1 := none }

/-- −48: vanes flush and pins hold, hub ports close, and the hard reset is asserted (R366). -/
def Chip.commitAssert (b : Chip) (c : Commit) : Chip :=
  b.forEach (bitsOf (c.regions ||| c.removed).toNat 32) fun b r =>
    ((b.forEach (regionBanks r) Chip.flushBank).assertReset r).flushHubPorts r

/-- Frame cycles, hub latencies and the ratio of a region (R80, R87, R138, R152). -/
def frameCycles (k m : Nat) : Nat := 2 ^ k * 8 / m
def hubLatency (m : Nat) : Nat := (700 + m - 1) / m + 4
def hubLatencyPinned (m : Nat) : Nat := (780 + m - 1) / m + 4

/-- A base-1 entry: round-relative (R83). -/
def baseOne (e : BitVec 64) : Bool := e.getLsbD 63

/-- The schedule objects of a region at a commit (R103). -/
def Chip.setSchedule (b : Chip) (r k m : Nat) (slots : List (BitVec 64)) : Chip :=
  let i := 0x2530 + r
  let b := b.setReg i 1 slots.length
  let b := b.setReg i 2 (if k = 0 then 0 else frameCycles k m)
  let b := b.setReg i 3 (if slots.any baseOne then 31200 / m else 0)
  let b := b.setReg i 4 (hubLatency m)
  let b := b.setReg i 5 (hubLatencyPinned m)
  (b.clearRegs i 7 8).modRegion r fun g => { g with checked := 0 }

/-- The schedule objects of a region that leaves its partition: it has no table, and no latency is promised (log entry 137). -/
def Chip.clearSchedule (b : Chip) (r : Nat) : Chip :=
  (b.clearRegs (0x2530 + r) 1 8).modRegion r fun g => { g with checked := 0 }

/-- The ratio objects of a region (R152). -/
def Chip.setRatio (b : Chip) (r m : Nat) : Chip :=
  let g := Nat.gcd 8 m
  let b := b.setReg (0x2500 + r) 1 m
  let b := b.setReg (0x2500 + r) 2 (8 / g)
  let b := b.setReg (0x2500 + r) 3 (m / g)
  b.setReg (0x2500 + r) 4 (8 * 10 ^ 9 / m)

/-- An island takes the ratio m from its standby synthesizer and counts its cycles on; a switch fixes a new phase (R139,
R141). -/
def Chip.switchIsland (b : Chip) (r m : Nat) : Chip :=
  if (b.region r).m = m then b
  else
    let f := b.free
    let c := b.isle r
    ((b.tookFree).modRegion r fun g => { g with m := m, standby := .idle, phase := some f }).rebaseIsle r c

/-- A bank follows its region's new configuration (R49); under a park its pins stay at park level (R48, R72). -/
def Chip.commitBank (b : Chip) (l : List Setting) (k : Nat) : Chip :=
  let uses := l.contains (Setting.bankUse k)
  let was := (b.bank k).used
  let b := b.modBank k fun q => { q with used := uses }
  if uses then b.enterVaneMode k
  else if was then
    (b.leaveVaneMode k).modPins k fun q => { q with mode := 1, oe := 0#64, parkedPins := q.staysParked }
  else b

/-- A command that a commit of its regions supersedes ends with status 6 (R96, R151, R301). -/
def Chip.supersede (b : Chip) (regions : BitVec 32) (p : Nat) : Chip :=
  let b := b.forEach (bitsOf regions.toNat 32) fun b r => b.endRestart r 6
  let b := (b.endPartReset p 6).modPart p fun q => { q with resetAt := none }
  b.endRearm p 6

/-- The partition records at the instant (R95, R102, R300): the contract is ARMED where the stream holds slot tables. -/
def Chip.commitPart (b : Chip) (c : Commit) (s : Staged) (p : Nat) (broken : Bool) : Chip :=
  let k := s.kOf p
  let mask := s.maskOf p
  let t := c.tc.getD b.now
  let b := (b.supersede (mask ||| (b.part p).regions) p).clearRegs (0x2521 + p) 5 0x0E
  let b := b.modPart p fun q =>
    { q with
      regions := mask
      committed := true
      k := k
      tables := k != 0
      firstMiss := none }
  let b := (b.setReg (0x2521 + p) 2 k).setReg (0x2521 + p) 4 (if k = 0 then 0 else t / 2 ^ k)
  let b := b.setContract p (if k = 0 then .none else if broken then .broken else .armed)
  let b := if k = 0 ∨ broken = true then b
    else b.logEvent (b.partEv p (evCode 4 6 p 0x20) 1 (t / 2 ^ k % 2 ^ 32) (t / 2 ^ k / 2 ^ 32) 0)
  b.logEvent (b.commitEv c p 3 1 0 false)

/-- The instant: islands switch, banks change mode, assignments change, partitions and contracts follow (R366). -/
def Chip.commitInstant (b : Chip) (c : Commit) (broken : Bool) : Chip :=
  let b := b.setReg 0x2210 5 (c.tc.getD b.now)
  let b := b.forEach (bitsOf c.removed.toNat 32) fun b r =>
    let b := b.forEach (regionBanks r) (Chip.commitBank · [] ·)
    ((b.setSafe r 0#64).modRegion r fun g => { g with part := none, pdOut := 0#256, pdIn := 0#256 }).clearSchedule r
  let b := c.staged.foldl (fun b s => s.section_.foldl (fun b x =>
    let p := x.1
    let b := b.commitPart c s p broken
    b.forEach (bitsOf x.2.2.1.toNat 32) fun b r =>
      let rc := Tab.get {} s.records r
      let b := (b.switchIsland r rc.m).setRatio r rc.m
      let b := b.setSchedule r x.2.2.2 rc.m rc.slots
      let b := b.forEach (regionBanks r) (Chip.commitBank · s.settings ·)
      (b.setSafe r 0#64).modRegion r fun g => { g with part := some p, pdOut := rc.pdOut, pdIn := rc.pdIn }) b) b
  let left := b.reg 0x2900 0x0C &&& (2 ^ 32 - 1 - (c.regions ||| c.removed).toNat)
  let b := b.setReg 0x2900 0x0C left
  let b := if left = 0 then b.setReg 0x2900 0x0D 0 else b
  { b with loader := { b.loader with
      staged := b.loader.staged.filter fun s => (s.parts &&& c.mask) == 0#8 } }

/-- A region that a commit configured is released: fence and poison end, queues reset, groups start (R366). -/
def Chip.commitReleaseRegion (b : Chip) (r : Nat) : Chip :=
  let b := b.modRegion r fun g => { g with fenced := false, unlock := false, unlockInj := false }
  (((b.startIsle r).endFaultPark r).resetQueues r true).releaseRegion r

/-- The release edge of the regions that a commit configured, each at its first net-0 edge from the instant on, which is frame
cycle 0 in a partition with slot tables (R125);
a removed region stays under reset at M = 80 while its memories are cleared (R170). -/
def Chip.commitReleaseRegions (b : Chip) (c : Commit) : Chip :=
  let t := c.tc.getD b.now
  let b := b.inTickOrder ((bitsOf c.regions.toNat 32).map fun r => (b.firstEdge r t, r)) Chip.commitReleaseRegion
  let b := b.forEach (bitsOf c.removed.toNat 32) fun b r =>
    let b := (b.switchIsland r 80).setRatio r 80
    let b := ((b.startIsle r).endFaultPark r).resetQueues r true
    b.modRegion r fun g => { g with fenced := false, unlock := false, unlockInj := false, clearing := true }
  { b with loader := { b.loader with twinInvalid := b.loader.twinInvalid &&& ~~~(c.regions ||| c.removed) } }

end Sys2Proof.Machine
end

