-- ==== Sys2Proof/Machine/Faults.lean ====
section
/-! DEFINITION. Device states and chip-level faults: the change of state, entry to FULL, entry to SAFE with everything it
stops, and what is lost when power goes (R27 to R35, R362, R368, R414, R475, R495). -/

namespace Sys2Proof.Machine

open Sys2Proof

/-! ### Change of state -/

/-- The device state becomes st (R29, R30); every port's owner sees event bit device (R307). -/
def Chip.toState (b : Chip) (st : DeviceState) (cause : Nat) : Chip :=
  { b with dev := { b.dev with prev := b.dev.st, cause := cause, st := st } }.raiseAll 0

/-- A change of state that 0x40E0_0020 records (R483): the entry carries the new and the previous state and the cause. -/
def Chip.changeState (b : Chip) (st : DeviceState) (cause : Nat) (noLower : Bool) : Chip :=
  let prev := b.dev.st
  let b := b.toState st cause
  b.logAs { code := 0x40E00020, sev := 1, d0 := st.code + prev.code * 256, d1 := cause } noLower

/-- The present C36 cycle holds tick t: a cycle is 2.5 ns, and cycle n begins at the instant 2.5 n of the tick count (R35,
log entry 136). -/
def Chip.sameDecision (b : Chip) (t : Option Nat) : Bool :=
  match t with
  | some t => t * 2 / 5 == b.now * 2 / 5
  | none => false

/-- The device's state decision of the present cycle is noted, with the owner that commanded it. -/
def Chip.decided (b : Chip) (o : Nat) : Chip := { b with dev := { b.dev with decidedAt := some (b.now, o) } }

/-- REDUCED becomes FULL when all four readiness bits are 1 (R32). -/
def Chip.tryFull (b : Chip) : Chip :=
  if b.dev.st = .reduced ∧ b.readiness = 15 then (b.changeState .full 0 false).decided 0 else b

/-- The readiness bits whose conditions hold without an event of their own: Belfry LOCKED or its source none, and no boot
stream selected by MODE (R31, R41; log entry 14). -/
def Chip.standingReady (b : Chip) : Chip :=
  { b with dev := { b.dev with
      timebaseOk := b.dev.timebaseOk || b.reg 0x2301 1 == 0 || b.belfry.st == .locked
      configOk := b.dev.configOk || b.dev.mode.toNat % 4 == 0 } }

/-- timebase_ok is set when Belfry is LOCKED or its source is set to none (R31, R41; log entry 14). -/
def Chip.setTimebaseOk (b : Chip) : Chip := if b.serving then b.standingReady.tryFull else b

def Chip.setSelftestOk (b : Chip) : Chip :=
  { b.standingReady with dev := { b.standingReady.dev with selftestOk := true } }.tryFull
def Chip.setDramOk (b : Chip) : Chip :=
  { b.standingReady with dev := { b.standingReady.dev with dramOk := true } }.tryFull

/-! ### Loads that end (R360, R361) -/

/-- A stream fails before or after its header stage (R361): the results are written, every code but 7, 8 and 9 is logged, and
the source is answered; an FoE stream with FoE error 0x8000. -/
def Chip.refuseStream (b : Chip) (l : Load) (code : Nat) (inj : Bool) : Chip :=
  let b := (b.setReg 0x2200 6 code).count 0x2200 8
  let p := match l.hdr with | some h => lowestPart h.partMask.toNat | none => 0
  let b := if code = 7 ∨ code = 8 ∨ code = 9 then b
    else b.logEvent { code := evCode 4 12 p 2, sev := 3, inj := inj, owner := some l.requester, part := some p,
                      d0 := code + l.source * 256 }
  if l.viaCommand then (b.setReg 0x2E22 6 code).endCmd 0x2E22 2
  else if l.source = 5 then { b with ecat := { b.ecat with foe := 0, foeReply := 0x8000 } }
  else b

/-- The loader takes a stream; while another is the present one it waits for its header stage (R354, R360). -/
def Chip.pushLoad (b : Chip) (l : Load) : Chip :=
  if b.loader.load.isSome then { b with loader := { b.loader with next := b.loader.next ++ [l] } }
  else { (b.setReg 0x2200 2 l.source).setReg 0x2200 3 l.requester with loader := { b.loader with load := some l } }

/-- The boot stream of directory entry n is loaded as O7 (R372). -/
def bootLoad (n : Nat) : Load := { source := 6, requester := 7, boot := some n }

/-- Both directory entries have failed. -/
def Chip.noBootStream (b : Chip) : Chip :=
  { (b.logEvent { code := 0x40C00006, sev := 3, owner := some 7 }) with loader := { b.loader with bootTried := 2 } }

/-- The stream of entry 0 has failed, or the entry is empty: entry 1 is loaded in its place. -/
def Chip.bootFallback (b : Chip) (inj : Bool) : Chip :=
  let b := b.logEvent { code := 0x40C00005, sev := 3, inj := inj, owner := some 7 }
  if b.loader.dir1 = 0 then b.noBootStream else b.pushLoad (bootLoad 1)

/-- What follows when a boot stream fails. Outside REDUCED and FULL entry 1 meets code 9 as well. -/
def Chip.bootFailed (b : Chip) (l : Load) (code : Nat) : Chip :=
  match l.boot with
  | none => b
  | some 0 => if code = 9 then (b.logEvent { code := 0x40C00005, sev := 3, owner := some 7 }).noBootStream else b.bootFallback false
  | some _ => b.noBootStream

/-- Another stream becomes the present one. -/
def Chip.nextLoad (b : Chip) : Chip :=
  match b.loader.next with
  | [] => b
  | l :: t =>
    { (b.setReg 0x2200 2 l.source).setReg 0x2200 3 l.requester with
      loader := { b.loader with load := some l, next := t } }

/-- The regions into which a load has written frames. -/
def Load.touched (l : Load) : BitVec 32 :=
  l.frames.foldl (fun (m : BitVec 32) x => if x.1 < 32 then m ||| (1#32 <<< x.1) else m) 0#32

/-- The present load fails (R361): its staging frames are discarded and their twins are rebuilt. -/
def Chip.endLoad (b : Chip) (code : Nat) (inj : Bool) : Chip :=
  match b.loader.load with
  | none => b
  | some l =>
    let b := { b with loader := { b.loader with load := none } }
    let b := (b.rebuild l.touched).nextLoad
    (b.refuseStream l code inj).bootFailed l code

/-- The loads of some sources fail. -/
def Chip.endLoads (b : Chip) (hit : Load → Bool) (code : Nat) : Chip :=
  let out := b.loader.next.filter hit
  let b := { b with loader := { b.loader with next := b.loader.next.filter fun l => !hit l } }
  let b := match b.loader.load with
    | some l => if hit l then b.endLoad code false else b
    | none => b
  out.foldl (fun b l => (b.refuseStream l code false).bootFailed l code) b

/-! ### Entry to SAFE -/

/-- A DMA channel that moves a descriptor stops at it: code 7 is written back, C passes it, and the channel is
fault-stopped (R304, R314). -/
def Dma.faultStop (d : Dma) : Dma :=
  if d.st = 2 then
    match d.cur with
    | some (_, _, moved) =>
      { d with
        st := 4
        err := 7
        cur := none
        back := some (0xF0000000#32, moved)
        c := d.c + 1#32 }
    | none => { d with st := 4, err := 7 }
  else d

/-- Every DMA channel of every port stops (R27, R304); descriptors that end so are counted in 0x28hh:0A (R474). -/
def Chip.stopDma (b : Chip) : Chip :=
  let b := b.ports.foldl (fun b x =>
    b.countBy (0x2800 + x.1) 0x0A (x.2.dma.filter fun y => y.2.st == 2 && y.2.cur.isSome).length) b
  { b with ports := b.ports.map fun x =>
      let p := x.2
      let hit := p.dma.filter fun y => y.2.st == 2 && y.2.cur.isSome
      let p' := { p with dma := p.dma.map fun y => (y.1, y.2.faultStop) }
      (x.1, hit.foldl (fun q y => q.send (y.2.vector.getD (1 + y.1))) p') }

/-- OP falls to SAFEOP in SAFE, SAFEOP and OP to PREOP in CLOSING (R330). -/
def Ecat.forcedFall (e : Ecat) (closing : Bool) : Ecat :=
  match e.al with
  | .op => if closing then { e with al := .preop, code := 0x8002 } else { e with al := .safeop, code := 0x8001 }
  | .safeop => if closing then { e with al := .preop, code := 0x8002 } else e
  | _ => e

/-- A busy run-control command ends with status 6, and what was pending with it (R448, R467). -/
def Chip.endRunControl (b : Chip) : Chip :=
  let b := b.endCmd 0x2E2D 6
  { b with
    parts := Tab.mapIf (fun _ => true)
      (fun q =>
        { q with
          haltAt := none
          restartAt := none
          stepTicks := none
          runCmd := none
          halt := if q.halt = .pending then .running else if q.halt = .stepping then .halted else q.halt }) b.parts
    regions := Tab.mapIf (fun _ => true)
      (fun g =>
        { g with
          loneAt := none
          loneRestart := none
          loneStep := none
          loneCmd := false
          lone := if g.lone = .pending then .running else if g.lone = .stepping then .halted else g.lone }) b.regions }

/-- A completed commit sets config_ok where the boot mode names it (R372). -/
def Chip.bootCommitted (b : Chip) (c : Commit) : Chip :=
  let hit := match b.dev.mode.toNat % 4 with
    | 1 => b.loader.bootTried == 2 || c.staged.any fun s => s.requester == 7
    | 0 => false
    | _ => true
  if hit then { b with dev := { b.dev with configOk := true } } else b

/-- A commit that a chip-level fault meets: before t_c − 64 it ends with status 5; from then on the new configuration is
active with the contract BROKEN, and its regions stay in SAFE (R368). -/
def Chip.commitInSafe (b : Chip) : Chip :=
  match b.loader.commit with
  | none => b
  | some c =>
    if c.phase = 0 then b.endCommit 5 false
    else
      let b := if c.phase = 1 then (b.commitAssert c).commitCopy c else b
      let b := if c.phase ≤ 2 then b.commitInstant c true else b
      let b := b.forEach (bitsOf c.regions.toNat 32) fun b r =>
        b.modRegion r fun g => { g with fenced := false, unlock := false, unlockInj := false }
      let b := b.forEach (bitsOf c.removed.toNat 32) fun b r =>
        ((b.switchIsland r 80).setRatio r 80).modRegion r fun g =>
          { g with fenced := false, unlock := false, unlockInj := false, clearing := true }
      let b := { b with loader := { b.loader with
        twinInvalid := b.loader.twinInvalid &&& ~~~(c.regions ||| c.removed) } }
      (b.bootCommitted c).endCommit 0 false

/-- What stops at entry to SAFE: banks park, contracts break, host DMA stops, and everything in progress that depends on
the islands ends (R27, R96, R151, R301, R362, R368, R397, R403). -/
def Chip.stopForSafe (b : Chip) : Chip :=
  let b := b.commitInSafe
  let b := b.forEach (List.range 24) Chip.faultPark
  let b := b.forEach (List.range 8) fun b p =>
    let b := ((b.breakContract p).endPartReset p 7).endRearm p 7
    b.modPart p fun q => { q with resetAt := none }
  let b := b.forEach (List.range 32) fun b r =>
    (((b.endRestart r 7).stopSlots r).gateIsle r (b.isle r)).modRegion r fun g => { g with recoverAt := none }
  let b := b.endRunControl
  let b := b.abandonOnDemand fun _ => true
  let b := (b.endLoads (fun _ => true) 9).dropStaged fun _ => true
  let b := b.stopDma
  { b with
    ecat := b.ecat.forcedFall false
    test := { b.test with
      st := if b.test.st = 1 then 0 else b.test.st
      closing := false }
    watch := { b.watch with st := if b.watch.st = 1 then 0 else b.watch.st } }

/-- Subsystem and unit of an event code, for the order of R475. -/
def faultRank (code : Nat) : Nat := code / 4096 % 2 ^ 16

/-- A fault prevails over the entry to FULL or CLOSING of its own C36 cycle: the device is again in the state before it, the domains
of CLOSING are on, and the shutdown command has lost (R35). -/
def Chip.takeBack (b : Chip) : Chip :=
  match b.dev.decidedAt with
  | none => b
  | some (t, o) =>
    if !b.sameDecision (some t) then b
    else
      match b.dev.st with
      | .full => { b with dev := { b.dev with st := .reduced, decidedAt := none } }
      | .closing =>
        { b.setStatus 0x2E01 o 2 with dev := { b.dev with
            st := b.dev.prev
            decidedAt := none
            closingStage := 0
            power := b.dev.power ||| 7#20 <<< 16 } }
      | _ => b

/-- A chip-level fault (R27, R35, R475). In REDUCED, FULL and CLOSING the device stops what SAFE stops and enters SAFE;
in SAFE the fault makes its entry and the P00 fault record takes it. Two faults of one tick leave the code of the
lower subsystem, then the lower unit. In BOOT the entry alone is made; in OFF and STANDBY nothing watches. -/
def Chip.chipFault (b : Chip) (e : Ev) : Chip :=
  let b := b.takeBack
  let first := b.log.next
  match b.dev.st with
  | .reduced | .full | .closing =>
    let old := b.dev.st
    let b := (b.stopForSafe).toState .safe e.code
    let b := { b with
      dev := { b.dev with withheld := false, faultTick := some b.now }
      aon := { b.aon with faultCode := e.code, faultState := old.code } }
    let b := b.logEvent { e with dev := some old.code }
    { b with log := b.log.arrive first }
  | .safe =>
    let tie := b.dev.faultTick = some b.now
    let keep := tie && decide (faultRank b.aon.faultCode ≤ faultRank e.code)
    let b := if keep then b
      else if tie then { b with
        dev := { b.dev with cause := e.code }
        aon := { b.aon with faultCode := e.code } }
      else { b with
        dev := { b.dev with faultTick := some b.now }
        aon := { b.aon with faultCode := e.code, faultState := 6 } }
    let no := b.dev.withheld && !tie
    ({ b with dev := { b.dev with withheld := false } }).logAs e no
  | .boot => b.logEvent e
  | _ => b

/-- A clock domain whose loss leads to SAFE (R17). -/
def clockToSafe (c : Nat) : Bool := c == 32 || c == 33 || c == 36 || c == 37 || c == 39

/-- A chip-level fault condition is present (R34, R35). -/
def Chip.faultPresent (b : Chip) : Bool :=
  b.dev.powerFault != 0#20 || (b.dev.clocks.any fun x => clockToSafe x.1 && x.2 == .lost) ||
    (b.lantern.hotRuns.any fun x => decide (2 ≤ x.2)) ||
    decide (4 ≤ (bitsOf b.lantern.failed.toNat 40).length) ||
    (b.dev.raised.any fun c => decide (c / 2 ^ 20 = 0x408) && decide (c % 4096 = 8)) || b.watch.st == 2

/-- The unlock indicator or the region's clock monitor detects lost lock (R140): detector 1, 2, or 3 for the lock of a
restart. Each detection counts in 0x25ii:07; the first fences the region, the second is not logged. The clock monitor leaves
the indicator as it is. -/
def Chip.lockLost (b : Chip) (r detector : Nat) (inj : Bool) : Chip :=
  let b := b.count (0x2500 + r) 7
  let b := if detector = 2 then b
    else b.modRegion r fun g => { g with unlock := g.unlock || !inj, unlockInj := g.unlockInj || inj }
  b.fence r (b.regionEv r (evCode 3 5 r 1) 4 inj detector 0 0)

/-! ### Loss of power -/

/-- What P00, the fuses and the flash memories keep when every other domain is off: the always-on values, the flash ring,
firmware slots, keys, self-test record, SII, boot directory, and the latched MODE. Everything else of the device is
lost and holds its reset value. -/
def Chip.powerDown (b : Chip) (st : DeviceState) (power : BitVec 20) : Chip :=
  { dev := {
      st := st
      prev := b.dev.st
      power := power
      mainEn := b.dev.mainEn
      mainGood := b.dev.mainGood
      refClk := b.dev.refClk
      mode := b.dev.mode }
    banks := b.banks.map fun x => (x.1, { code := 0, mV := x.2.mV })
    ecat := { sii := b.ecat.sii }
    loader := { dir0 := b.loader.dir0, dir1 := b.loader.dir1, injDir := b.loader.injDir }
    test := { record := b.test.record }
    hub := { epoch := b.hub.epoch + 1, base := b.hub.epoch + 1 }
    aon := b.aon
    lantern := {
      running := false
      slotA := b.lantern.slotA
      slotB := b.lantern.slotB
      confirmed := b.lantern.confirmed
      pendingSlot := b.lantern.pendingSlot
      trial := b.lantern.trial
      rollback := b.lantern.rollback
      keys := b.lantern.keys }
    log := {
      ring := b.log.ring
      next := match b.log.ring.getLast? with
        | some e => (e.seq + 1) % 2 ^ 32
        | none => 0 }
    free := b.free }

end Sys2Proof.Machine
end

