-- ==== Sys2Proof/Machine/Spans.lean ====
section
/-! DEFINITION. What Cupola puts into DRAM: the layout of a metadata span, counter lines and tree nodes, the IVs, ciphertext and
tags (R272 to R276). Byte i of a line holds its bits [8i + 7:8i]. DESIGN CHOICE where the manual gives no order of bytes: the
associated data is the address with its most significant byte first, a tag stands in the order of its bytes, and a metadata line is
authenticated as the text of GCM, a tree node without its own tag (log entry 139). -/

namespace Sys2Proof.Machine

open Sys2Proof

/-! ### The span (R274, R276) -/

/-- Tree levels in DRAM of a region of 2^s bytes. -/
def treeLevels (s : Nat) : Nat := (s - 10) / 3 - 1

/-- Bytes of tree level n of a region of S bytes, and the bytes of metadata that a pinned region keeps resident. -/
def levelSize (S n : Nat) : Nat := max 64 (S / (512 * 8 ^ (n - 1)))
def treeBytes (s n : Nat) : Nat := (List.range n).foldl (fun t i => t + levelSize (2 ^ s) (i + 1)) 0
def metaBytes (s : Nat) : Nat := 2 ^ s / 8 + 2 ^ s / 64 + 2 ^ s / 512 + treeBytes s (treeLevels s)

/-- The area of a span of a region of 2^s bytes that an offset lies in. -/
inductive MetaArea where
  | tags | counters | counterTags
  | tree (n : Nat)
  | unused
  deriving DecidableEq, Repr

def areaOf (s o : Nat) : MetaArea :=
  let S := 2 ^ s
  let t := o - S / 8 - S / 64 - S / 512
  if o < S / 8 then .tags
  else if o < S / 8 + S / 64 then .counters
  else if o < S / 8 + S / 64 + S / 512 then .counterTags
  else
    match (List.range (treeLevels s)).find? fun i => decide (t < treeBytes s (i + 1)) with
    | some i => .tree (i + 1)
    | none => .unused

/-! ### IVs (R272) -/

/-- Bits [95:61] of every IV: the address of the line. -/
def ivLine (a : Nat) : Nat := a / 64 % 2 ^ 35 * 2 ^ 61

def ivData (a major minor : Nat) : BitVec 96 := BitVec.ofNat 96 (ivLine a + major % 2 ^ 32 * 2 ^ 29 + minor % 128 * 2 ^ 22)
def ivVeiled (a keyGen : Nat) : BitVec 96 := BitVec.ofNat 96 (ivLine a + keyGen % 2 ^ 32 * 2 ^ 29 + 3)
def ivCounter (a n : Nat) : BitVec 96 := BitVec.ofNat 96 (ivLine a + n % 2 ^ 56 * 2 ^ 5 + 1)
def ivNode (a n : Nat) : BitVec 96 := BitVec.ofNat 96 (ivLine a + n % 2 ^ 56 * 2 ^ 5 + 2)

/-- The associated data: the 8-byte hub address of the line. -/
def lineAad (a : Nat) : Bytes := bigEndian 8 (a / 64 * 64)

/-! ### Lines (R275, R276) -/

/-- The n bytes of a bit string, its least significant bits first. -/
def littleEndian (n v : Nat) : Bytes := (List.range n).map fun i => BitVec.ofNat 8 (v >>> (8 * i))

/-- A counter line: the major counter, 32 reserved bits of 0, and 64 minor counters of 7 bits. -/
def counterLine (major : Nat) (minor : Nat → Nat) : BitVec 512 :=
  BitVec.ofNat 512 (major % 2 ^ 32 * 2 ^ 480 + (List.range 64).foldl (fun t j => t + minor j % 128 * 2 ^ (7 * j)) 0)

def counterBytes (x : BitVec 512) : Bytes := littleEndian 64 x.toNat

/-- The major counter and the minor counter of line j that a counter line holds. -/
def lineMajor (x : BitVec 512) : Nat := (x.extractLsb' 480 32).toNat
def lineMinor (x : BitVec 512) (j : Nat) : Nat := (x.extractLsb' (7 * j) 7).toNat

/-- The eight counters of a tree node as its bytes 8 to 63. -/
def nodeCounters (c : Nat → Nat) : Bytes :=
  littleEndian 56 ((List.range 8).foldl (fun t j => t + c j % 2 ^ 56 * 2 ^ (56 * j)) 0)

/-- The tags of a counter line and of a tree node under the counter that the parent holds. -/
def counterTag (key : BitVec 256) (a n : Nat) (line : Bytes) : Bytes := gcmTag64 key (ivCounter a n) (lineAad a) line
def nodeTag (key : BitVec 256) (a n : Nat) (counters : Bytes) : Bytes := gcmTag64 key (ivNode a n) (lineAad a) counters

/-- A tree node: its own tag, then its counters. -/
def nodeLine (key : BitVec 256) (a n : Nat) (c : Nat → Nat) : Bytes := nodeTag key a n (nodeCounters c) ++ nodeCounters c

/-! ### Fresh metadata (R273, R280) -/

/-- Byte a of a span as define, a sweep or a reinitialization of the region writes it; none in the tag area and past the tree, which
are not written. -/
def MetaSpan.byte (x : MetaSpan) (a : Nat) : Option Byte :=
  let S := 2 ^ x.exp
  let o := a - x.base
  let line := counterBytes (counterLine x.major fun _ => 0)
  match areaOf x.exp o with
  | .counters => some (line.getD (o % 64) 0#8)
  | .counterTags =>
    let page := (o - S / 8 - S / 64) / 8
    some ((counterTag (Config.regionKey x.key) (x.base + S / 8 + page * 64) x.count line).getD (o % 8) 0#8)
  | .tree _ => some ((nodeLine (Config.regionKey x.key) (a / 64 * 64) x.count fun _ => x.count).getD (a % 64) 0#8)
  | .tags | .unused => none

end Sys2Proof.Machine
end

