-- ==== Sys2Proof/Machine/Hub.lean ====
section
/-! DEFINITION. The DRAM hub's channels: supported DIMMs, the reference, training, the channel set, the address map, and
the bytes of DRAM (R239 to R244, R264). -/

namespace Sys2Proof.Machine

open Sys2Proof

/-! ### DIMMs (R239 to R241) -/

/-- The DIMMs of a channel. -/
def dimmsOf (l : List Dimm) (c : Nat) : List Dimm := l.filter fun d => d.channel == c

/-- Capacity, ranks, device width and device capacity of the supported DIMMs. -/
def supportedKinds : List (Nat × Nat × Nat × Nat) :=
  [(16, 1, 8, 16), (32, 1, 4, 16), (32, 2, 8, 16), (64, 2, 4, 16), (64, 1, 4, 32), (128, 2, 4, 32)]

def Dimm.kind (d : Dimm) : Nat × Nat × Nat × Nat := (d.gb, d.ranks, d.width, d.devGb)
def dimmSupported (d : Dimm) : Bool := d.registered && decide (d.trfc1 ≤ 410) && supportedKinds.contains (Dimm.kind d)

/-- The rates that the hub supports (R241). -/
def hubRates : List Nat := [4800, 5200, 5600, 6000, 6400]

/-- The latencies that a window channel needs, in ps (R241). -/
def dimmWindow (d : Dimm) : Bool :=
  decide (d.trp ≤ 16250) && decide (d.trcd ≤ 16250) && decide (d.taa ≤ 16250) && decide (d.tras ≤ 32000)

/-- The populated channels. -/
def populated (l : List Dimm) : List Nat := (List.range 8).filter fun c => !(dimmsOf l c).isEmpty

/-- The reference: the lowest-numbered populated channel whose DIMMs are all supported (R240). -/
def referenceOf (l : List Dimm) : Option Nat := (populated l).find? fun c => (dimmsOf l c).all dimmSupported

/-- The map-out cause of a populated channel before any channel trains: 0 none, 2 unsupported, 3 mismatch (R240). -/
def spdCause (l : List Dimm) (c : Nat) : Nat :=
  if (dimmsOf l c).all dimmSupported then
    match referenceOf l with
    | some x => if (dimmsOf l c).map Dimm.kind = (dimmsOf l x).map Dimm.kind then 0 else 3
    | none => 2
  else 2

/-! ### The channel set (R240) -/

/-- The aligned groups of 8, 4, 2 and 1 channels, larger and lower first. -/
def alignedGroups : List (List Nat) :=
  [8, 4, 2, 1].flatMap fun n => (List.range (8 / n)).map fun j => (List.range n).map fun i => j * n + i

/-- The largest aligned group in which every channel is ready. -/
def largestGroup (ready : Nat → Bool) : List Nat := (alignedGroups.find? fun g => g.all ready).getD []

/-- Channels of the present set, in order. -/
def Chip.channelSet (b : Chip) : List Nat := bitsOf b.hub.set_.toNat 8

/-- The DIMMs of the set. -/
def Chip.setDimms (b : Chip) : List Dimm := b.channelSet.flatMap fun c => (b.channel c).dimms

/-- A rate that every DIMM of the set supports. -/
def Chip.rateSupported (b : Chip) (v : Nat) : Bool :=
  hubRates.contains v && !b.channelSet.isEmpty && b.setDimms.all fun d => d.rates.contains v

/-- The highest such rate (R241). -/
def Chip.bestRate (b : Chip) : Nat := hubRates.foldl (fun m v => if b.rateSupported v then v else m) 0

/-- A channel whose DIMMs meet the latencies is window-capable. -/
def Chip.windowCapable (b : Chip) (c : Nat) : Bool := !(b.channel c).dimms.isEmpty && (b.channel c).dimms.all dimmWindow

/-- A set of channels as bits. -/
def channelMask (l : List Nat) : BitVec 8 := l.foldl (fun m c => m ||| (1#8 <<< c)) 0#8

/-! ### Trained sets (R244) -/

/-- A rate's set is used now; a fifth rate replaces the set that has gone unused the longest. -/
def Hub.useSet (h : Hub) (rate : Nat) : Hub :=
  let n := h.uses + 1
  if h.trained.any fun x => x.1 == rate then
    { h with uses := n, trained := h.trained.map fun x => if x.1 = rate then (rate, n) else x }
  else if h.trained.length < 4 then { h with uses := n, trained := h.trained ++ [(rate, n)] }
  else
    let oldest := h.trained.foldl (fun m x => min m x.2) n
    { h with uses := n, trained := h.trained.map fun x => if x.2 = oldest then (rate, n) else x }

/-! ### The address map (R242) -/

/-- Widths of the fields: column line, channel, rank and row. -/
structure HubMap where
  w : Nat
  c : Nat
  k : Nat
  row : Nat
  perDimm : Nat
  deriving DecidableEq, Repr

def Chip.hubMap (b : Chip) : HubMap :=
  match b.setDimms with
  | d :: _ =>
    let n := (match b.channelSet with | c :: _ => (b.channel c).dimms.length | [] => 0)
    { w := if d.width = 4 then 7 else 6, c := Nat.log2 b.channelSet.length, k := Nat.log2 (n * d.ranks),
      row := if d.devGb = 32 then 17 else 16, perDimm := d.ranks }
  | [] => { w := 6, c := 0, k := 0, row := 16, perDimm := 1 }

/-- The channel of a hub address. -/
def Chip.hubChannel (b : Chip) (a : Nat) : Nat :=
  let m := b.hubMap
  b.channelSet.getD (field a (7 + m.w) m.c) 0

/-- Bank group, bank and rank with the subchannel: the bank within its channel. -/
def Chip.hubBank (b : Chip) (a : Nat) : Nat :=
  let m := b.hubMap
  field a (7 + m.w + m.c) (5 + m.k) * 2 + field a 6 1
def Chip.hubRank (b : Chip) (a : Nat) : Nat := let m := b.hubMap; field a (12 + m.w + m.c) m.k
def Chip.hubRow (b : Chip) (a : Nat) : Nat := let m := b.hubMap; field a (12 + m.w + m.c + m.k) m.row
/-- The DIMM of a hub address. -/
def Chip.hubDimm (b : Chip) (a : Nat) : Nat := b.hubRank a / max 1 b.hubMap.perDimm

/-! ### Contents -/

/-- Every byte of DRAM is undefined: a new epoch begins (R243). -/
def Chip.undefineDram (b : Chip) : Chip :=
  { b with hub := { b.hub with
      epoch := b.hub.epoch + 1
      base := b.hub.epoch + 1
      mem := []
      fills := []
      badLines := [] } }

/-- A fill reaches an address. -/
def Chip.reaches (b : Chip) (x : Fill) (a : Nat) : Bool :=
  decide (x.lo ≤ a) && decide (a < x.hi) &&
    match x.channel with
    | some c => b.hubChannel a == c
    | none => true

/-- A range is filled; what was there is gone. -/
def Chip.layFill (b : Chip) (x : Fill) : Chip :=
  let keep := fun (y : Fill) => x.channel.isSome || !(decide (x.lo ≤ y.lo) && decide (y.hi ≤ x.hi))
  { b with hub := { b.hub with
      mem := b.hub.mem.filter fun y => !b.reaches x y.1
      fills := x :: b.hub.fills.filter keep } }

/-- A range of bytes, of one channel or of all, is filled: with zeros, or with undefined contents. -/
def Chip.fillRange (b : Chip) (lo hi : Nat) (channel : Option Nat) (zero : Bool) : Chip :=
  let b := { b with hub := { b.hub with epoch := b.hub.epoch + 1 } }
  b.layFill { lo, hi, channel, blank := if zero then .zeros else .undefined b.hub.epoch }

/-- The areas of a span that define and a sweep write hold fresh metadata (R273, R274, R280). -/
def Chip.freshSpan (b : Chip) (x : MetaSpan) : Chip :=
  b.layFill { lo := x.base + 2 ^ x.exp / 8, hi := x.base + metaBytes x.exp, channel := none, blank := .fresh x }

/-- What a byte that nothing has written holds. -/
def Chip.unwrittenByte (b : Chip) (a : Nat) : Blank :=
  match b.hub.fills.find? fun x => b.reaches x a with
  | some x => x.blank
  | none => .undefined b.hub.base

/-- Its value: 0 in a range of zeros, a free value where contents are undefined. -/
def Blank.byte (x : Blank) (a : Nat) : Byte :=
  match x with
  | .zeros => 0#8
  | .undefined e => Config.dramByte e a
  | .fresh x => (x.byte a).getD 0#8

def Chip.dramByte (b : Chip) (a : Nat) : Byte :=
  match cellGet b.hub.mem a with
  | some v => v
  | none => (b.unwrittenByte a).byte a

/-- A byte is stored; a zero in a range of zeros leaves no entry. -/
def Chip.dramStore (b : Chip) (a : Nat) (v : Byte) : Chip :=
  { b with hub := { b.hub with
      mem := if v = 0#8 ∧ b.unwrittenByte a = .zeros then Tab.drop (α := BitVec 8) (fun i => i == a) b.hub.mem
        else Tab.set (α := BitVec 8) b.hub.mem a v } }

/-- n bytes from an address. -/
def Chip.dramBytes (b : Chip) (a n : Nat) : Bytes := (List.range n).map fun i => b.dramByte (a + i)

/-- Bytes stored from an address where the mask enables them. -/
def Chip.dramWrite (b : Chip) (a : Nat) (mask : Nat → Bool) (d : Bytes) : Chip :=
  d.zipIdx.foldl (fun b x => if mask x.2 then b.dramStore (a + x.2) x.1 else b) b

/-! ### Training (R240, R243) -/

/-- A channel is mapped out (R240). -/
def Chip.mapChannelOut (b : Chip) (c cause : Nat) (inj : Bool) : Chip :=
  (b.modChannel c fun x => { x with st := .mappedOut, mapOut := cause }).logEvent
    { code := evCode 4 8 c 2, sev := 3, inj := inj }

/-- The entries :03 to :06 of a channel are refreshed at each training (R264). -/
def Chip.refreshChannel (b : Chip) (c : Nat) : Chip :=
  let l := (b.channel c).dimms
  let i := 0x2610 + c
  let b := (b.setReg i 3 l.length).setReg i 4 (match l with | d :: _ => d.gb | [] => 0)
  (b.setReg i 5 (match l with | d :: _ => d.ranks | [] => 0)).setReg i 6 (match l with | d :: _ => d.width | [] => 0)

/-- No channel trains any more: the set forms and dram_ok is set; contents are undefined (R240, R241, R243). -/
def Chip.formSet (b : Chip) : Chip :=
  let grp := largestGroup fun c => (b.channel c).st == .ready
  let b := b.forEach (List.range 8) fun b c =>
    if (b.channel c).st = .ready ∧ grp.contains c = false then b.modChannel c fun x => { x with st := .idle } else b
  let b := { b with hub := { b.hub with set_ := channelMask grp } }
  let per := match grp with | c :: _ => ((b.channel c).dimms.map fun d => d.gb).foldl (· + ·) 0 | [] => 0
  let rate := b.bestRate
  let b := { b with hub := { b.hub with
    st := if grp.isEmpty then 0 else 2
    capacity := grp.length * per * 2 ^ 30
    window := channelMask ((List.range 8).filter b.windowCapable)
    target := rate
    rate := rate } }
  let b := if grp.isEmpty then b else { b with hub := b.hub.useSet rate }
  b.undefineDram.setDramOk

/-- A check that training is over. -/
def Chip.trainingOver (b : Chip) : Bool := (List.range 8).all fun c => (b.channel c).st != .training

/-- Training starts: SPDs are compared, and every channel that matches the reference trains (R240, R243). -/
def Chip.startTraining (b : Chip) (l : List Dimm) : Chip :=
  let b := { b with hub := { b.hub with
    st := 1
    channels := (List.range 8).map fun c =>
      (c, { st := if (dimmsOf l c).isEmpty then .empty else .training, dimms := dimmsOf l c }) } }
  let b := b.forEach (populated l) fun b c =>
    let b := b.refreshChannel c
    if spdCause l c = 0 then b else b.mapChannelOut c (spdCause l c) false
  if b.trainingOver then b.formSet else b

end Sys2Proof.Machine
end

