-- ==== Sys2Proof/Machine/AlStates.lean ====
section
/-! DEFINITION. The EtherCAT state machine: which AL states the device state permits, the checks of a transition and its
outcome (R320, R323, R330 to R332). -/

namespace Sys2Proof.Machine

open Sys2Proof

/-- Codes of the AL states (R348). -/
def Al.code : Al → Nat
  | .init => 1 | .preop => 2 | .bootstrap => 3 | .safeop => 4 | .op => 8

/-- The AL state that a request names. -/
def alOfCode (n : Nat) : Option Al :=
  match n with
  | 1 => some .init | 2 => some .preop | 3 => some .bootstrap | 4 => some .safeop | 8 => some .op
  | _ => none

/-- Transitions of the EtherCAT standard (R331, code 0x0011 for any other). -/
def alMay : Al → Al → Bool
  | .init, .preop | .init, .bootstrap | .bootstrap, .init => true
  | .preop, .init | .preop, .safeop => true
  | .safeop, .init | .safeop, .preop | .safeop, .op => true
  | .op, .init | .op, .preop | .op, .safeop => true
  | a, b => a == b

/-- Reset values of the slave controller's registers: FMMUs, sync managers, KB of process RAM and ports (R319), the SM2 watchdog's
divider and time, which are 100 ms (R328), and the sync managers' registers, which the manual gives as the SII defaults for SM0 and
SM1 (R332). SM2 and SM3 start with the lengths of the default assignment. PRESUMED: the addresses are the standard's, and the
watchdog's pair is 2,498 and 1,000 (log entry 142). -/
def escReset (addr : Nat) : Nat :=
  match addr with
  | 0x004 => 3 | 0x005 => 4 | 0x006 => 16 | 0x007 => 0x0F | 0x400 => 2498 | 0x420 => 1000
  | 0x800 => 0x1000 | 0x802 => 1024 | 0x808 => 0x1400 | 0x80A => 1024 | 0x81A => 16
  | _ => 0

/-- A register of the slave controller. -/
def Chip.escReg (b : Chip) (addr : Nat) : Nat := Tab.get (escReset addr) b.ecat.esc addr

/-- Start address and length of sync manager n. -/
def Chip.smStart (b : Chip) (n : Nat) : Nat := b.escReg (0x800 + 8 * n)
def Chip.smLength (b : Chip) (n : Nat) : Nat := b.escReg (0x802 + 8 * n)

/-- A mailbox sync manager: 128 to 1,024 bytes in process RAM (R332). -/
def Chip.mailboxOk (b : Chip) (n : Nat) : Bool :=
  decide (128 ≤ b.smLength n) && decide (b.smLength n ≤ 1024) && decide (0x1000 ≤ b.smStart n) &&
    decide (b.smStart n + b.smLength n ≤ 0x5000)

/-- The RxPDOs assigned (R346): their numbers, in order. -/
def Chip.rxPdos (b : Chip) : List Nat := (List.range (b.reg 0x1C12 0)).map fun i => b.reg 0x1C12 (i + 1) - 0x1600

/-- The TxPDOs assigned: 0 to 3, and 4 for the status words. -/
def Chip.txPdos (b : Chip) : List Nat := (List.range (b.reg 0x1C13 0)).map fun i => b.reg 0x1C13 (i + 1) - 0x1A00

/-- Bytes of the assigned outputs and inputs (R324). -/
def Chip.rxBytes (b : Chip) : Nat := 256 * b.rxPdos.length
def Chip.txBytes (b : Chip) : Nat := (b.txPdos.map fun n => if n = 4 then 16 else 256).sum

/-- The refusal of SAFEOP by the process data settings (R323, R331). -/
def Chip.pdRefusal (b : Chip) : Option Nat :=
  if b.smLength 2 ≠ b.rxBytes then some 0x001D
  else if b.smLength 3 ≠ b.txBytes then some 0x001E
  else if b.ecat.syncRefused || (b.reg 0x1C32 1 == 2 && !b.ecat.syncActive) then some 0x0030
  else none

/-- The AL status code with which a request is refused (R330, R331): by the device state, as a jump, or by the settings. -/
def Chip.alRefusal (b : Chip) (st : Al) : Option Nat :=
  let fromBoot := b.dev.st == .boot
  if b.dev.st == .safe && st == .op then some 0x8001
  else if b.dev.st == .closing && (st == .safeop || st == .op) then some 0x8002
  else if st == .bootstrap && !(fromBoot && b.dev.recovery) then some 0x0013
  else if fromBoot && !(st == .init || st == .bootstrap) then some 0x0011
  else if !alMay b.ecat.al st then some 0x0011
  else
    match b.ecat.al, st with
    | .init, .preop => if b.mailboxOk 0 && b.mailboxOk 1 then none else some 0x0016
    | .preop, .safeop => b.pdRefusal
    | _, _ => none

/-- The AL state changes by the master's request: 0x40B0_0001 is logged, and OP clears the sync error (R346, R349). -/
def Chip.alEnter (b : Chip) (st : Al) : Chip :=
  let same := b.ecat.al == st
  let b := { b with ecat := { b.ecat with al := st, code := 0, held := none } }
  let b := if st = .op then { b.setReg 0x1C32 0x20 0 with ecat := { b.ecat with misses := 0 } } else b
  if same then b else b.logEvent { code := 0x40B00001, sev := 1, d0 := st.code }

/-- A request of the master: the change, or the refusal with its code. -/
def Chip.alRequest (b : Chip) (st : Al) : Chip :=
  match b.alRefusal st with
  | some c => { b with ecat := { b.ecat with code := c } }
  | none => b.alEnter st

/-- The request held while the firmware was being started is processed at entry to REDUCED (R330). -/
def Chip.heldRequest (b : Chip) : Chip :=
  match b.ecat.held with
  | none => b
  | some n =>
    let b := { b with ecat := { b.ecat with held := none } }
    match alOfCode n with
    | some st => b.alRequest st
    | none => b

end Sys2Proof.Machine
end

