-- ==== Sys2Proof/Machine/Injections.lean ====
section
/-! DEFINITION. Injections that flip stored bits, and the end of injection: armed injections are discarded and override
entries return to their Defaults (R177, R238, R408, R486). -/

namespace Sys2Proof.Machine

open Sys2Proof

/-- A frame loses the flips of an injection: the active frame, and for code 3 the twin, hold their content again. -/
def Chip.undoFrame (b : Chip) (code n : Nat) : Chip :=
  let ref := runGet b.loader.activeRef n
  { b with
    loader := { b.loader with
      active := runPut b.loader.active n 1 ref
      staging := if code = 3 then runPut b.loader.staging n 1 (runGet b.loader.stagingRef n) else b.loader.staging }
    watch := { b.watch with stuck := if code = 4 then Tab.drop (fun k => k == n) b.watch.stuck else b.watch.stuck } }

/-- The bits that code 1 or 2 of 0x2D20 flips in a block memory word: bit n, and the next bit (R177). -/
def bmFlipBits (code n : Nat) : BitVec 40 := (1#40 <<< n) ||| (if code = 2 then 1#40 <<< ((n + 1) % 40) else 0#40)

/-- The bits in a scratchpad word: the next bit lies in the same lane. -/
def spFlipBits (code n : Nat) : BitVec 288 :=
  (1#288 <<< n) ||| (if code = 2 then 1#288 <<< (72 * (n / 72) + (n % 72 + 1) % 72) else 0#288)

/-- Stored bits of a block memory word flip. -/
def Chip.flipBm (b : Chip) (k : Nat) (f : BitVec 40) : Chip :=
  let g := (Tab.get (0#40, false) b.mem.bmErr k).1 ^^^ f
  { b with mem := { b.mem with
      bmErr := if g = 0#40 then Tab.drop (fun i => i == k) b.mem.bmErr else Tab.set b.mem.bmErr k (g, true) } }

/-- Stored bits of a scratchpad word flip. -/
def Chip.flipSp (b : Chip) (k : Nat) (f : BitVec 288) : Chip :=
  let g := (Tab.get (0#288, false) b.mem.spErr k).1 ^^^ f
  { b with mem := { b.mem with
      spErr := if g = 0#288 then Tab.drop (fun i => i == k) b.mem.spErr else Tab.set b.mem.spErr k (g, true) } }

/-- Wrong bits that a code of 0x2D40 makes in a word (R238). -/
def gmFlipCount (code : Nat) : Nat := if code = 3 ∨ code = 5 then 2 else 1

/-- The wrong bits of a group memory word become n. -/
def Chip.setGmErr (b : Chip) (k n : Nat) : Chip :=
  { b with slices := { b.slices with
      err := if n = 0 then Tab.drop (fun i => i == k) b.slices.err else Tab.set b.slices.err k (n, true) } }

/-- An armed injection that changed stored bits is taken back. -/
def Chip.undoInjection (b : Chip) (a : Armed) : Chip :=
  if a.obj = 0x2D20 then
    if a.target < 2 ^ 32 then b.flipBm a.target (bmFlipBits a.code a.target2)
    else b.flipSp (a.target - 2 ^ 32) (spFlipBits a.code a.target2)
  else if a.obj = 0x2D40 ∧ a.code ≠ 1 then
    b.setGmErr a.target ((Tab.get (0, false) b.slices.err a.target).1 - gmFlipCount a.code)
  else if a.obj = 0x2DD0 then
    if a.code ≤ 4 then b.undoFrame a.code a.target
    else if a.code = 6 then { b with watch := { b.watch with ptr2 := b.watch.ptr } }
    else b
  else b

/-- Injection ends (R486): every armed injection is discarded, and the override entries hold their Defaults. -/
def Chip.disableInjection (b : Chip) : Chip :=
  let b := b.inject.armed.foldl Chip.undoInjection b
  let b := { b with
    inject := {}
    loader := { b.loader with injDir := false } }
  ((((b.clearRegs 0x2D00 1 2).clearRegs 0x2D60 1 2).clearRegs 0x2D80 3 4).clearRegs 0x2DE0 2 2)

end Sys2Proof.Machine
end

