-- ==== Sys2Proof/Machine/Power.lean ====
section
/-! DEFINITION. Power, clocks and device states: the supplies, BOOT, entry to REDUCED, shutdown and CLOSING, recover, and
the clock and voltage monitors (R17 to R35, R396, R398, R411 to R416, R491 to R495). -/

namespace Sys2Proof.Machine

open Sys2Proof

/-! ### Supplies and BOOT -/

/-- The order in which BOOT powers the domains (R493). -/
def powerOrder : List Nat := [1, 2, 15, 14, 11, 12, 13, 16, 17, 18, 3, 4, 5, 6, 7, 8, 9, 10, 19]

/-- The next domain to power. -/
def Chip.nextDomain (b : Chip) : Option Nat := powerOrder.find? fun d => !b.powered d

/-- Entry to BOOT (R413): MODE is latched, every clock but the always-on one has not started, GATE is driven low, and no
debug session is open (R440). -/
def Chip.enterBoot (b : Chip) (mode : BitVec 3) (refClk : Bool) : Chip :=
  let b := b.powerDown .boot 1#20
  { b with
    dev := { b.dev with
      prev := .standby
      mainGood := true
      mode := mode
      refClk := refClk
      gateDrive := true
      clocks := (List.range 39).map fun c => (c, ClockState.notStarted) }
    lantern := { b.lantern with remaining := 2000, held := !refClk } }

/-- STANDBY: only P00 is on (R20). -/
def Chip.enterStandby (b : Chip) (gate mainEn : Bool) : Chip :=
  let b := b.powerDown .standby 1#20
  { b with dev := { b.dev with gateDrive := gate, mainEn := mainEn } }

/-- P00_SUPPLY_GOOD (R32, R424, R492): P00 powers up with the power-loss flag set and its bits lost. -/
def Chip.p00Good (b : Chip) : Chip :=
  if b.dev.st = .off then
    let b := b.enterStandby true true
    { b with aon := {} , dev := { b.dev with mainGood := false } }
  else b

def execP00SupplyGood (s : State) : Out := act s Chip.p00Good

/-- P00_SUPPLY_FAIL (R32, R35): OFF from any state; nothing is driven. -/
def Chip.p00Fail (b : Chip) : Chip :=
  let b := b.powerDown .off 0#20
  { b with dev := { b.dev with gateDrive := false, mainGood := false, mainEn := false }, aon := {} }

def execP00SupplyFail (s : State) : Out := act s Chip.p00Fail

/-- MAIN_SUPPLIES_GOOD (R32, R492). -/
def Chip.mainGoodEvent (b : Chip) (mode : BitVec 3) (refClk : Bool) : Chip :=
  if b.dev.st = .standby then
    if b.dev.mainEn then b.enterBoot mode refClk else { b with dev := { b.dev with mainGood := true } }
  else b

def execMainSuppliesGood (mode : BitVec 3) (refClk : Bool) (s : State) : Out :=
  act s fun b => b.mainGoodEvent mode refClk

/-- MAIN_SUPPLIES_LOST (R32, R414): BOOT returns to STANDBY with MAIN_EN high and GATE low; main rails removed in STANDBY
cause no event (R495). -/
def Chip.mainLost (b : Chip) : Chip :=
  match b.dev.st with
  | .boot =>
    let b := b.enterStandby true true
    { b with dev := { b.dev with mainGood := false } }
  | .standby => { b with dev := { b.dev with mainGood := false } }
  | _ => b

def execMainSuppliesLost (s : State) : Out := act s Chip.mainLost

/-- The unit index of the rail that fell: the first of VCORE, VDDQ, VPHY, VPLL and VIO (R495). -/
def railUnit (rails : BitVec 5) : Nat :=
  if rails.getLsbD 0 then 1 else if rails.getLsbD 1 then 12 else if rails.getLsbD 2 then 14
  else if rails.getLsbD 3 then 0x14 else 0x15

/-- MAIN_RAIL_COLLAPSE (R495). -/
def Chip.railCollapse (b : Chip) (rails : BitVec 5) : Chip :=
  match b.dev.st with
  | .reduced | .full | .closing | .safe =>
    if rails = 0#5 then b
    else
      let old := b.dev.st.code
      let b := b.enterStandby true true
      { b with
        dev := { b.dev with mainGood := false }
        aon := { b.aon with
          faultCode := evCode 4 14 (railUnit rails) 5
          faultState := old
          intact := false
          unlogged := some b.aon.seconds } }
  | _ => b

def execMainRailCollapse (rails : BitVec 5) (s : State) : Out := act s fun b => b.railCollapse rails

/-- WAKE_PULSE (R492): MAIN_EN rises again; main rails that stayed on count as becoming good. -/
def Chip.wake (b : Chip) (mode : BitVec 3) (refClk : Bool) : Chip :=
  if b.dev.st = .standby ∧ b.dev.mainEn = false then
    let b := { b with dev := { b.dev with mainEn := true } }
    if b.dev.mainGood then b.enterBoot mode refClk else b
  else b

def execWakePulse (mode : BitVec 3) (refClk : Bool) (s : State) : Out := act s fun b => b.wake mode refClk

/-- REF_CLK_START (R19): C35 starts where P15 is on, and BOOT continues, with a fresh watchdog timeout. -/
def Chip.refStart (b : Chip) : Chip :=
  let b := { b with dev := { b.dev with
    refClk := true
    clocks := if b.powered 15 && b.clockState 35 == .notStarted then Tab.drop (fun c => c == 35) b.dev.clocks
      else b.dev.clocks } }
  if b.dev.st = .boot then { b with lantern := { b.lantern with held := false, remaining := 2000 } } else b

def execRefClkStart (s : State) : Out := act s Chip.refStart

/-- The clock domains that start with a power domain (R10, R17). -/
def domainClocks (d : Nat) : List Nat :=
  match d with
  | 1 => [36] | 2 => [37] | 11 => [33] | 14 => [34] | 15 => [35] | 16 => [32] | 19 => [38]
  | _ => if 3 ≤ d ∧ d ≤ 10 then (List.range 4).map (4 * (d - 3) + ·) else []

/-- A domain is on, and its clocks run; C35 comes from REF_CLK and waits for it (R17, R19). -/
def Chip.powerOn (b : Chip) (d : Nat) : Chip :=
  { b with dev := { b.dev with
      power := b.dev.power ||| (1#20 <<< d)
      clocks := Tab.drop (fun c => (domainClocks d).contains c && (b.dev.refClk || c != 35)) b.dev.clocks } }

/-- The ROM powers a domain now: P11 and what follows it wait for REF_CLK (R19). -/
def Chip.mayPower (b : Chip) (d : Nat) : Bool := b.dev.refClk || [1, 2, 15, 14].contains d

/-- DOMAIN_POWER_GOOD (R19, R36, R414, R493): the next domain of the order is good. From P11 on, REF_CLK must run; P19
waits for the image. Belfry's count starts at 0 when P16 is good. -/
def Chip.domainGood (b : Chip) (d : Nat) : Chip :=
  if b.dev.st = .boot ∧ b.dev.bootFault = false ∧ b.nextDomain = some d ∧
      b.mayPower d = true ∧ (d ≠ 19 ∨ b.lantern.running = true) then
    let b := b.powerOn d
    if d = 16 then { b with belfry := {} } else b
  else b

def execDomainPowerGood (d : Nat) (s : State) : Out := act s fun b => b.domainGood d

/-- A fault that keeps the device in BOOT: the entry has severity halt and P00 keeps it (R414, R476). -/
def Chip.bootHalt (b : Chip) (code d0 : Nat) : Chip :=
  let b := { b with
    dev := { b.dev with bootFault := true }
    aon := { b.aon with faultCode := code, faultState := 2, unlogged := some b.aon.seconds } }
  b.logEvent { code := code, sev := 6, d0 := d0 }

/-- DOMAIN_POWER_TIMEOUT (R414): of the domain that is being powered. -/
def Chip.domainTimeout (b : Chip) (d : Nat) : Chip :=
  if b.dev.st = .boot ∧ b.dev.bootFault = false ∧ b.nextDomain = some d ∧
      b.mayPower d = true ∧ (d ≠ 19 ∨ b.lantern.running = true) then b.bootHalt (evCode 4 14 d 5) 0
  else b

def execDomainPowerTimeout (d : Nat) (s : State) : Out := act s fun b => b.domainTimeout d

/-! ### Slot selection and the image (R412, R413, R415, R416) -/

/-- A slot is a candidate: its image is valid and its rollback index is at least the fuse count (R412, R415). -/
def Chip.candidate (b : Chip) (isB : Bool) : Bool :=
  let s := if isB then b.lantern.slotB else b.lantern.slotA
  s.valid && decide (b.lantern.rollback ≤ s.rollback)

/-- The fallback entry of R415. -/
def Chip.logFallback (b : Chip) : Chip :=
  { b with lantern := { b.lantern with fwFallback := true } }.logEvent { code := 0x40E00013, sev := 3 }

/-- The ROM selects the image (R415); none: recovery. -/
def Chip.selectSlot (b : Chip) : Chip × Option Bool :=
  let pend := match b.lantern.pendingSlot with
    | some p => if b.candidate p && !b.lantern.trial then some p else none
    | none => none
  match pend with
  | some p => ({ b with lantern := { b.lantern with trial := true } }, some p)
  | none =>
    let b := if b.lantern.trial then
        { b with lantern := { b.lantern with pendingSlot := none, trial := false } }.logFallback
      else b
    let conf := b.lantern.confirmed.getD false
    if b.lantern.confirmed.isSome && b.candidate conf then (b, some conf)
    else if b.candidate (!conf) then (b.logFallback, some (!conf))
    else if b.lantern.confirmed.isNone && b.candidate conf then (b.logFallback, some conf)
    else (b, none)

/-- Entry to recovery (R416): the device stays in BOOT. -/
def Chip.enterRecovery (b : Chip) : Chip :=
  let b := { b with
    dev := { b.dev with recovery := true }
    aon := { b.aon with faultCode := 0x40E0001B, faultState := 2, unlogged := some b.aon.seconds } }
  b.logEvent { code := 0x40E0001B, sev := 6 }

/-- An entry of the P00 fault record that has not reached the ring is logged once, with flag aon_time (R476, R495). -/
def Chip.logUnlogged (b : Chip) : Chip :=
  match b.aon.unlogged with
  | none => b
  | some t =>
    let e : LogEntry :=
      { seq := b.log.next
        code := b.aon.faultCode
        tick := t
        sev := if b.aon.faultState = 2 then 6 else 5
        injected := false
        flags := 5
        dev := b.aon.faultState
        owner := 0
        d0 := 0
        d1 := 0
        d2 := 0 }
    { b with log := b.log.push e, aon := { b.aon with unlogged := none } }

/-- All domains but P19 are on. -/
def Chip.domainsReady (b : Chip) : Bool := (powerOrder.all fun d => d == 19 || b.powered d)

/-- The watchdog's counter is reloaded (R429). -/
def Chip.reloadWatchdog (b : Chip) : Chip :=
  { b with lantern := { b.lantern with remaining := b.reg 0x2030 1, reloadAt := b.now } }

/-- IMAGE_START (R413, R415): the selected image starts; where there is none the ROM enters recovery. An entry of this
BOOT's recent buffer reaches the ring from now on, so the fault record is logged only if its entry is in no buffer.
From REDUCED on the running image starts again after an expiry (R430). -/
def Chip.imageStart (b : Chip) : Chip :=
  if b.dev.st = .boot ∧ b.dev.bootFault = false ∧ b.lantern.running = false ∧ b.domainsReady = true ∧
      b.dev.recovery = false then
    match b.selectSlot with
    | (b, none) => b.enterRecovery
    | (b, some p) =>
      let held := b.log.recent.any fun e => e.code == b.aon.faultCode && e.sev == 6
      let b := { b with lantern := { b.lantern with running := true, runB := p } }.reloadWatchdog
      if held then { b with aon := { b.aon with unlogged := none } } else b.logUnlogged
  else if b.fromReduced && !b.lantern.running then
    { b with lantern := { b.lantern with running := true } }.reloadWatchdog
  else b

def execImageStart (s : State) : Out := act s Chip.imageStart

/-! ### Entry to REDUCED -/

/-- Nominal level of a voltage code, in mV (R47). -/
def codeLevel (c : Nat) : Nat :=
  match c with
  | 1 => 1200 | 2 => 1500 | 3 => 1800 | 4 => 2500 | 5 => 3300 | _ => 0

/-- A code matches a measured VCCO: within ±10 % of its level (R48). -/
def codeMatches (c mV : Nat) : Bool :=
  decide (1 ≤ c) && decide (c ≤ 5) && decide (codeLevel c * 9 ≤ mV * 10) && decide (mV * 10 ≤ codeLevel c * 11)

def distance (a b : Nat) : Nat := (a - b) + (b - a)

/-- The code of a measured VCCO: the nearest level that matches, the lower code of two equally near, or 0 (R48). -/
def measuredCode (mV : Nat) : Nat :=
  [1, 2, 3, 4, 5].foldl (fun best c =>
    if codeMatches c mV && (best == 0 || decide (distance (codeLevel c) mV < distance (codeLevel best) mV)) then c
    else best) 0

/-- A bank measures its VCCO at entry to REDUCED; with code 0 it stays parked in mode 0 (R48, R53). -/
def bankAtEntry (mV : Nat) : Bank :=
  let none := measuredCode mV == 0
  { mode := if none then 0 else 1, code := measuredCode mV, mV := mV, vccoParked := none
    parkedPins := if none then BitVec.allOnes 64 else 0#64 }

/-- Every bank measures its VCCO again at the entry to REDUCED from SAFE: the code follows, the mode and the park of a fault stay
(R48, log entry 135). -/
def Chip.measureBanks (b : Chip) : Chip :=
  b.forEach (List.range 24) fun b k =>
    if codeMatches (b.bank k).code (b.bank k).mV && (b.bank k).code == measuredCode (b.bank k).mV then b
    else
      let b := if (b.bank k).parked then b else b.parkBank k
      b.modBank k fun q => { q with code := measuredCode q.mV, vccoParked := measuredCode q.mV == 0 }

/-- The counters of the vanes are 0 at every entry to REDUCED, and the Keep's requests and the highest reading count from it (R75,
R423, R436). -/
def Chip.clearSession (b : Chip) : Chip :=
  { (b.clearRegs 0x2418 3 7).clearRegs 0x2040 6 6 with lantern := { b.lantern with highest := none } }

/-- The age of a sealed record in seconds of P00's counter (R396, R405). -/
def Chip.recordAge (b : Chip) (r : TestRecord) : Nat := (b.aon.seconds + 2 ^ 32 - r.sealed) % 2 ^ 32

/-- The first condition of R396 that fails, as 0x2980:04; 0: the power-up test is skipped. -/
def Chip.skipCheck (b : Chip) : Nat :=
  if b.aon.skipEnable = false then 7
  else
    match b.test.record with
    | none => 1
    | some r =>
      if r.kind ≠ 1 then 1
      else if r.macOk = false then 2
      else if r.seq ≠ b.aon.seq ∨ b.aon.intact = false then 3
      else if 604800 ≤ b.recordAge r then 4
      else if r.index ≠ 40 ∨ r.patterns ≠ r.expected then 5
      else if r.result = 2 then 6
      else 0

/-- The firmware slot of the running image. -/
def Chip.runningSlot (b : Chip) : Slot := if b.lantern.runB then b.lantern.slotB else b.lantern.slotA

/-- The owner policy of the running image applies; its entries of O0 and O7 are ignored, and reserved bits are cleared
(R297, R412). -/
def Chip.applyPolicy (b : Chip) : Chip :=
  b.forEach [1, 2, 3, 4, 5, 6] fun b o => b.setReg 0x2100 (o + 1) (b.runningSlot.policy.getD o 0 % 16)

/-! ### Failure entries and the repair map (R172, R400, R401) -/

def failKind (e : BitVec 64) : Nat := field e.toNat 60 4
def failRegion (e : BitVec 64) : Nat := field e.toNat 55 5
def failBlock (e : BitVec 64) : Nat := field e.toNat 49 6
def failAddress (e : BitVec 64) : Nat := field e.toNat 32 17
def failBit (e : BitVec 64) : Nat := field e.toNat 0 16

/-- A failure in a block memory or a scratchpad bank. -/
def failsMemory (e : BitVec 64) : Bool := failKind e == 2 || failKind e == 3

/-- The block memory or bank of a memory's failure entry. -/
def failUnit (e : BitVec 64) : Nat :=
  if failKind e = 2 then bmKey (failRegion e) (failBlock e) (failAddress e / 1024 % 8)
  else failRegion e * 16 + failAddress e % 16

/-- The row or the column that fails. -/
def failSpare (e : BitVec 64) : Nat := if failKind e = 2 then failAddress e % 1024 / 8 else failBit e

/-- Units of a kind with more failing rows or columns than spares. -/
def beyondSpares (l : List (BitVec 64)) (kind spares : Nat) : List Nat :=
  let mine := l.filter fun e => failKind e == kind
  ((mine.map failUnit).eraseDups).filter fun u =>
    decide (spares < (((mine.filter fun e => failUnit e == u).map failSpare).eraseDups).length)

/-- Spare rows (kind 2, 2 per block memory) or columns (kind 3, 4 per bank) that the repair map uses in a region (R172). -/
def sparesUsed (l : List (BitVec 64)) (kind spares r : Nat) : Nat :=
  let mine := l.filter fun e => failKind e == kind && failRegion e == r
  ((mine.map failUnit).eraseDups).foldl (fun n u =>
    n + min spares (((mine.filter fun e => failUnit e == u).map failSpare).eraseDups).length) 0

/-- The entries from which Lantern builds the repair map: those of a complete record whose MAC verifies. -/
def Chip.repairEntries (b : Chip) : List (BitVec 64) :=
  match b.test.record with
  | some r => if r.macOk && r.index == 40 then r.entries else []
  | none => []

/-- The read sequence of every path at entry to REDUCED (R428): the oldest entry of the ring, of the buffer, or the next. -/
def Chip.firstLogSeq (b : Chip) : Nat :=
  match b.log.ring, b.log.recent with
  | e :: _, _ => e.seq
  | [], e :: _ => e.seq
  | [], [] => b.log.next

/-- The units at entry to REDUCED: banks measure their VCCO (R48), the power-up test starts or is
skipped (R396), Watchtower pauses while it runs (R392), the repair map leaves some memories
unrepairable (R172), every path's log read sequence starts (R428), and the alias is loaded from the SII (R320). -/
def Chip.unitsAtEntry (b : Chip) (vcco : List Nat) (skip : Nat) : Chip :=
  { b with
    banks := (List.range 24).map fun k => (k, bankAtEntry (vcco.getD k 0))
    test := { b.test with
      st := if skip = 0 then 2 else 1
      recordCheck := skip
      recordAge := match b.test.record with | some r => b.recordAge r | none => 0xFFFFFFFF }
    watch := { b.watch with st := if skip = 0 then 0 else 1 }
    mem := { b.mem with badBm := beyondSpares b.repairEntries 2 2, badBank := beyondSpares b.repairEntries 3 4 }
    inject := {}
    dict := { b.dict with logSeq := (List.range 7).map fun o => (o, b.firstLogSeq) }
    ecat := { b.ecat with alias_ := (Mem.get b.ecat.sii 4).toNat } }

/-- The spare objects of the repair map (0x25ii:19, :1A). -/
def Chip.repairObjects (b : Chip) : Chip :=
  let l := b.repairEntries
  b.forEach (l.map failRegion).eraseDups fun b r =>
    (b.setReg (0x2500 + r) 0x19 (sparesUsed l 2 2 r)).setReg (0x2500 + r) 0x1A (sparesUsed l 3 4 r)

/-- The readiness bits that entry to REDUCED itself sets; training starts (R31, R243, R372, R396). -/
def Chip.readyAtEntry (b : Chip) (dimms : List Dimm) (skip : Nat) : Chip :=
  let b1 : Chip := b.standingReady
  let b2 : Chip := if skip = 0 then b1.setSelftestOk.logEvent { code := 0x41000002, sev := 1 } else b1
  b2.startTraining dimms

/-- ENTER_REDUCED (R413): the image applies its owner policy, serves the SII, powers P19 and enters REDUCED. -/
def Chip.enterReduced (b : Chip) (vcco : List Nat) (dimms : List Dimm) : Chip :=
  if b.dev.st = .boot ∧ b.lantern.running = true ∧ b.dev.bootFault = false ∧ b.domainsReady = true then
    let skip := b.skipCheck
    let b1 := (((b.clearSession.powerOn 19).applyPolicy).unitsAtEntry vcco skip).repairObjects.changeState .reduced 0 false
    b1.heldRequest.readyAtEntry dimms skip
  else b

def execEnterReduced (vcco : List Nat) (dimms : List Dimm) (s : State) : Out :=
  act s fun b => b.enterReduced vcco dimms

/-! ### Monitors -/

/-- VOLTAGE_MONITOR_FAULT (R21, R414, R472): a persisting condition raises its event once. -/
def Chip.voltageFault (b : Chip) (d mV : Nat) (inj : Bool) : Chip :=
  if b.dev.powerFault.getLsbD d ∨ b.powered d = false then b
  else
    let b := { b with dev := { b.dev with
      powerFault := b.dev.powerFault ||| (1#20 <<< d)
      volts := Tab.set b.dev.volts d mV } }
    if b.dev.st = .boot then b.bootHalt (evCode 4 14 d 5) mV
    else b.chipFault { code := evCode 4 14 d 5, sev := 5, inj := inj, d0 := mV }

def execVoltageMonitorFault (d mV t : Nat) (s : State) : Out :=
  act s fun b => (b.upTo t).voltageFault d mV false

/-- VOLTAGE_RETURN (R21): the condition clears. -/
def Chip.voltageReturn (b : Chip) (d : Nat) : Chip :=
  { b with dev := { b.dev with
      powerFault := b.dev.powerFault &&& ~~~(1#20 <<< d)
      volts := Tab.drop (fun k => k == d) b.dev.volts } }

def execVoltageReturn (d : Nat) (s : State) : Out := act s fun b => b.voltageReturn d

/-- CLOCK_LOSS (R17, R18): only a clock that has run can be lost. A region's clock fences the region (R140); C32, C33,
C36, C37 and C39 lead to SAFE; C34, C35 and C38 stop their service. -/
def Chip.clockLost (b : Chip) (c kHz : Nat) (inj : Bool) : Chip :=
  if b.clockState c ≠ .running ∨ b.dev.st = .off ∨ b.dev.st = .standby then b
  else
    let b := { b with dev := { b.dev with
      clocks := Tab.set b.dev.clocks c .lost
      freqs := Tab.set b.dev.freqs c kHz } }
    if c < 32 then b.lockLost c 2 inj
    else if clockToSafe c then b.chipFault { code := evCode 4 14 c 6, sev := 5, inj := inj, d0 := kHz }
    else b.logEvent { code := evCode 4 14 c 7, sev := 3, inj := inj, d0 := kHz }

def execClockLoss (c kHz t : Nat) (s : State) : Out := act s fun b => (b.upTo t).clockLost c kHz false

/-- CLOCK_RETURN (R18): the loss condition clears. -/
def Chip.clockReturn (b : Chip) (c : Nat) : Chip :=
  if b.clockState c = .lost then
    { b with dev := { b.dev with
        clocks := Tab.drop (fun k => k == c) b.dev.clocks
        freqs := Tab.drop (fun k => k == c) b.dev.freqs } }
  else b

def execClockReturn (c : Nat) (s : State) : Out := act s fun b => b.clockReturn c

/-! ### Shutdown and CLOSING (R32, R398, R494) -/

/-- Domains that are off from now on. -/
def Chip.powerOff (b : Chip) (l : List Nat) : Chip :=
  { b with dev := { b.dev with power := l.foldl (fun p d => p &&& ~~~(1#20 <<< d)) b.dev.power } }

/-- Entry to CLOSING: the banks park and P17, P18 and P16 go off; staged streams are lost, a load and a busy commit end,
and SAFEOP and OP fall to PREOP (R20, R330, R362, R365, R398). -/
def Chip.enterClosing (b : Chip) : Chip :=
  let fromSafe := b.dev.st == .safe
  let b := b.changeState .closing 0 false
  let b := b.endCommit 5 false
  let b := (b.endLoads (fun _ => true) 9).dropStaged fun _ => true
  let b := if (b.cmd 0x2E26).busy.isSome then b.endCmd 0x2E26 6 else b
  let b := b.forEach (List.range 24) Chip.parkBank
  let b := { b with
    dev := { b.dev with closingFromSafe := fromSafe, closingStage := 1 }
    hub := { b.hub with pending := 0, changing := none }
    ecat := b.ecat.forcedFall true }
  b.powerOff [17, 18, 16]

/-- Action 1 of 0x2E01 (R32, R35, R301): a partition reset or other command in progress keeps its own course. -/
def Chip.startShutdown (b : Chip) (o : Nat) : Chip :=
  if b.dev.st == .safe && b.sameDecision b.dev.faultTick then b.setStatus 0x2E01 o 2
  else if b.serving || b.dev.st == .safe then ((b.enterClosing).decided o).setStatus 0x2E01 o 0
  else b.setStatus 0x2E01 o 2

/-- Frame boundary at least 40 µs away, for the release of a region of a partition with slot tables (R34, R150, R301). -/
def Chip.releaseFrame (b : Chip) (p : Nat) : Nat := nextMultiple (b.now + 40000) (2 ^ (b.part p).k)

/-- The planned release edge of a region: frame cycle 0 of a frame in a partition with slot tables, and otherwise the second
net-0 edge after the source is removed, 5 ns after it is asserted (R34, R125, R301). -/
def Chip.planRelease (b : Chip) (p r : Nat) : Nat :=
  if (b.part p).tables then b.releaseFrame p else b.secondEdge r (b.now + 5)

/-- Action 2 of 0x2E01 (R34, R35): SAFE returns to REDUCED; every region that is not fenced restarts its island clock
under its hard reset, with its release planned; halt states end (R448). -/
def Chip.startRecover (b : Chip) (o : Nat) : Chip :=
  if b.dev.st ≠ .safe then b.setStatus 0x2E01 o 2
  else if b.faultPresent || b.sameDecision b.dev.faultTick then b.setStatus 0x2E01 o 3
  else
    let no := b.dev.withheld
    let b := { b.releaseCorr with
      dev := { b.dev with withheld := false, faultTick := none }
      parts := Tab.mapIf (fun _ => true)
        (fun q => { q with halt := .running, pdFrozen := false, beFrozen := false }) b.parts }
    let b := b.forEach (List.range 32) fun b r =>
      let b := b.modRegion r fun g => { g with lone := .running, halted := false }
      if (b.region r).fenced then b
      else
        let b := b.startIsle r
        match b.regionPart r with
        | some p =>
          let t := b.planRelease p r
          (b.assertReset r).modRegion r fun g => { g with recoverAt := some t }
        | none => b
    let b := b.clearSession.measureBanks
    let b := (b.changeState .reduced 0 no).disableInjection.clearRegs 0x2DFF 3 3
    (b.setStatus 0x2E01 o 0).tryFull

/-- The serial of 0x2E01 (R33). -/
def Chip.startDevice (b : Chip) (o : Nat) : Chip :=
  match b.reg 0x2E01 3 with
  | 1 => b.startShutdown o
  | 2 => b.startRecover o
  | _ => b.setStatus 0x2E01 o 2

def execShutdown (q : Req) (serial : Nat) (s : State) : Out :=
  act s fun b => b.commandRow q 0x2E01 serial [(3, 1)] Chip.startDevice

def execRecover (q : Req) (serial : Nat) (s : State) : Out :=
  act s fun b => b.commandRow q 0x2E01 serial [(3, 2)] Chip.startDevice

/-- RECOVER_RELEASE (R34, R72, R125). -/
def Chip.recoverRelease (b : Chip) (r : Nat) : Chip :=
  match (b.region r).recoverAt with
  | none => b
  | some t =>
    let b := (b.upTo t).modRegion r fun g => { g with recoverAt := none }
    if (b.region r).fenced then b else ((b.endFaultPark r).resetQueues r false).releaseRegion r

def execRecoverRelease (r : Nat) (s : State) : Out := act s fun b => b.recoverRelease r

/-- The intact bit is cleared and the sequence number raised (R398). -/
def Chip.clearIntact (b : Chip) : Chip :=
  { b with aon := { b.aon with intact := false, seq := (b.aon.seq + 1) % 2 ^ 32 } }

/-- In an orderly shutdown Lantern writes the pending log entries before it turns off P01 (log entry 16). -/
def Chip.flushLog (b : Chip) : Chip := { b with log := b.log.writeOut 256 }

end Sys2Proof.Machine
end

