-- ==== Sys2Proof/Machine/Banks.lean ====
section
/-! DEFINITION. Test-point banks: modes, I/O voltage, direct outputs, the pattern generator, the slow bus and VCCO
(R47 to R54, R74). -/

namespace Sys2Proof.Machine

open Sys2Proof

/-- The carrying region's partition is ARMED (R49). -/
def Chip.bankArmed (b : Chip) (k : Nat) : Bool :=
  match b.regionPart (bankRegion k) with
  | some p => (b.part p).status == .armed
  | none => false

/-- A write of 0x24bb:01 (R49, R71, R72): an accepted write of the mode ends a fault park. -/
def Chip.setBankMode (b : Chip) (k v : Nat) : Res :=
  match v with
  | 0 =>
    let b := (b.parkBank k).leaveVaneMode k
    .ok (b.modBank k fun q => { q with mode := 0, faultParked := false })
  | 1 =>
    if (b.bank k).mode = 2 ∧ b.bankArmed k = true then .error 0x08000022
    else .ok ((b.leaveVaneMode k).modPins k fun q =>
      { q with mode := 1, parkedPins := q.staysParked, faultParked := false })
  | _ =>
    if (b.bank k).used then .ok ((b.enterVaneMode k).modPins k fun q => { q with faultParked := false })
    else .error 0x08000022

def execBankModeWrite (q : Req) (bb v : Nat) (s : State) : Out :=
  act s fun b => b.writeRow q (0x2400 + bb) 1 v fun b => b.setBankMode bb v

/-- A write of 0x24bb:02 (R48): a code that matches the measured VCCO ends a VCCO park at once; another one parks. -/
def Chip.setVoltage (b : Chip) (k v : Nat) : Res :=
  let ok := codeMatches v (b.bank k).mV
  .ok (b.modPins k fun q => { q with code := v, vccoParked := !ok })

def execIoVoltageWrite (q : Req) (bb v : Nat) (s : State) : Out :=
  act s fun b => b.writeRow q (0x2400 + bb) 2 v fun b => b.setVoltage bb v

/-- The largest drive strength code of a voltage code (R47). -/
def maxStrength (code : Nat) : Nat := if code = 1 then 1 else if code = 2 then 2 else 3

/-- A write of 0x24bb:09 or :0A (R50, R52, R72): refused in vane mode; in direct mode the pins follow. -/
def Chip.setDirect (b : Chip) (k : Nat) (level : Bool) (v : BitVec 64) : Res :=
  if (b.bank k).mode = 2 then .error 0x08000022
  else
    let open_ := (b.bank k).mode = 1 ∧ (b.bank k).parked = false
    .ok (b.modPins k fun q =>
      { q with
        oe := if level then q.oe else v
        level := if level then v else q.level
        parkedPins := if open_ then 0#64 else q.parkedPins })

def execDirectOutputWrite (q : Req) (bb : Nat) (level : Bool) (v : BitVec 64) (s : State) : Out :=
  act s fun b =>
    b.writeRow q (0x2400 + bb) (if level then 0x0A else 9) v.toNat fun b => b.setDirect bb level v

/-- A write of 0x24bb:10 (R50). -/
def Chip.setPattern (b : Chip) (k v : Nat) : Res :=
  if v = 0 then .ok (b.modBank k fun q => { q with patCtl := 0 })
  else if (b.bank k).mode ≠ 1 ∨ (b.bank k).parked = true then .error 0x08000022
  else
    let start := b.reg (0x2400 + k) 0x0D
    if start < b.now then .error 0x08000022
    else .ok (b.modBank k fun q => { q with patCtl := v, patNext := 0, patDue := start })

def execPatternControlWrite (q : Req) (bb v : Nat) (s : State) : Out :=
  act s fun b => b.writeRow q (0x2400 + bb) 0x10 v fun b => b.setPattern bb v

def Chip.patLength (b : Chip) (k : Nat) : Nat := b.reg (0x2400 + k) 0x0F

/-- PATTERN_ENTRY_APPLY (R50): entry k at tick S + k × P; in loop mode entry 0 follows the last one.
DESIGN CHOICE (log entry 149): the registers 0x24bb:09 and :0A take the entry's values, and read as them afterwards. -/
def Chip.patternApply (b : Chip) (k : Nat) : Chip :=
  let bk := b.bank k
  if bk.patCtl = 0 ∨ (bk.patCtl = 1 ∧ b.patLength k ≤ bk.patNext) then b
  else
    let n := if b.patLength k ≤ bk.patNext then 0 else bk.patNext
    let e := Mem.get bk.pattern n
    let period := b.reg (0x2400 + k) 0x0E
    (b.upTo bk.patDue).modPins k fun q =>
      { q with
        oe := BitVec.ofNat 64 e.toNat
        level := BitVec.ofNat 64 (e.toNat / 2 ^ 64)
        parkedPins := 0#64
        patNext := n + 1
        patDue := q.patDue + period }

def execPatternEntryApply (bb : Nat) (s : State) : Out := act s fun b => b.patternApply bb

/-- PATTERN_RUN_END (R50): at tick S + L × P. -/
def Chip.patternEnd (b : Chip) (k : Nat) : Chip :=
  let bk := b.bank k
  if bk.patCtl = 1 ∧ b.patLength k ≤ bk.patNext then
    (b.upTo bk.patDue).modBank k fun q => { q with patCtl := 0 }
  else b

def execPatternRunEnd (bb : Nat) (s : State) : Out := act s fun b => b.patternEnd bb

/-- A write of 0x24bb:13 (R53). -/
def Chip.clearContention (b : Chip) (k : Nat) (mask : BitVec 64) : Chip :=
  b.modBank k fun q => { q with contention := q.contention &&& ~~~mask }

def execClearContention (q : Req) (bb : Nat) (mask : BitVec 64) (s : State) : Out :=
  act s fun b => b.writeRow q (0x2400 + bb) 0x13 mask.toNat fun b => .ok (b.clearContention bb mask)

/-- The pull in force at a pin: in vane mode one written through the bank control port overrides 0x24bb:05 (R52). -/
def Chip.pinPull (b : Chip) (k pin : Nat) : Nat :=
  if (b.bank k).mode = 2 then Tab.get (b.reg (0x2400 + k) 5) (b.bank k).ctlPull pin else b.reg (0x2400 + k) 5

/-- BANK_CONTROL_WRITE (R52). -/
def Chip.bankControl (b : Chip) (k pin pull : Nat) : Chip :=
  if b.fabricRuns (bankRegion k) = false then b
  else if (b.bank k).mode = 2 then b.modBank k fun q => { q with ctlPull := Tab.set q.ctlPull pin pull }
  else b.count 0x2418 7

def execBankControlWrite (bb pin pull t : Nat) (s : State) : Out :=
  act s fun b => (b.upTo t).bankControl bb pin pull

/-- An event of a bank (R76, R481): the test point, or 0xFFFF for the whole bank, and the word concerned. -/
def bankEv (k code sev : Nat) (inj : Bool) (tp word : Nat) : Ev :=
  { code := evCode 1 7 k code, sev := sev, inj := inj, d0 := tp, d1 := word }

/-- The park of a VCCO fault (R48, R71): an unparked bank parks and the event is raised; a parked one only shows the
mismatch. -/
def Chip.vccoPark (b : Chip) (k : Nat) (inj : Bool) : Chip :=
  let was := (b.bank k).parked
  let b := if was then b else b.parkBank k
  let b := b.modBank k fun q => { q with vccoParked := true }
  if was then b else b.logEvent (bankEv k 6 3 inj 0xFFFF 0)

/-- VCCO_FAULT: the measured voltage, and the park where it does not match the bank's code. -/
def Chip.vccoFault (b : Chip) (k mV : Nat) : Chip :=
  let hit := codeMatches (b.bank k).code mV
  let b := b.modBank k fun q => { q with mV := mV }
  if hit then b else b.vccoPark k false

def execVccoFault (bb mV t : Nat) (s : State) : Out := act s fun b => (b.upTo t).vccoFault bb mV

/-- VCCO_RECOVERY (R48): the bank serves its mode again. -/
def Chip.vccoRecover (b : Chip) (k mV : Nat) : Chip :=
  if codeMatches (b.bank k).code mV then b.modPins k fun q => { q with mV := mV, vccoParked := false } else b

def execVccoRecovery (bb mV t : Nat) (s : State) : Out := act s fun b => (b.upTo t).vccoRecover bb mV

/-- The bank status (R54). -/
def Chip.bankStatus (b : Chip) (k : Nat) : Nat :=
  let q := b.bank k
  let mine := b.vanes.filter fun x => tpBank x.1 == k
  flag (mine.any fun x => x.2.degraded) 7 + flag q.vccoParked 6 + flag (q.patCtl != 0) 5 +
    flag (q.contention != 0#64) 4 + flag (mine.any fun x => x.2.reflex) 3 + flag q.faultParked 2 + q.mode % 4

end Sys2Proof.Machine
end

