-- ==== Sys2Proof/Machine/Belfry.lean ====
section
/-! DEFINITION. Belfry: discipline, the control law, steps, PPS (R36 to R46, R510). -/

namespace Sys2Proof.Machine

open Sys2Proof

def Chip.source (b : Chip) : Nat := b.reg 0x2301 1

/-- The lock threshold in ps (R45). -/
def Chip.threshold (b : Chip) : Nat := b.reg 0x2301 2 * 1000

/-- A Belfry event: the last offset stands in bytes 0 to 7 of the detail (R76, R481). -/
def Chip.belfryEv (b : Chip) (code sev : Nat) (inj : Bool) : Ev :=
  let w := rawInt 64 b.belfry.offset
  { code := 0x40600000 + code, sev := sev, inj := inj, d0 := w % 2 ^ 32, d1 := w / 2 ^ 32 }

/-- What an injection of 0x2D60 causes: the loss of the source, or a displaced PPS_IN edge of source 2 (R78, R484). -/
def Chip.belfryInj (b : Chip) : Bool := b.reg 0x2D60 1 == 1 || (b.source == 2 && b.reg 0x2D60 2 != 0)

/-- Belfry enters FREE: it keeps counting, and its correction begins its return to 0 (R40). -/
def Chip.toFree (b : Chip) (inj : Bool) : Chip :=
  let c := b.corrNow
  let i := b.termNow
  let b := { b with belfry := { b.belfry with st := .free, good := 0, missed := 0, returnFrom := some (b.now, c, i) } }
  b.logInj (b.belfryEv 3 3 inj)

/-- Belfry enters HOLDOVER: the correction takes the frequency term (R39, R510). -/
def Chip.toHoldover (b : Chip) : Chip :=
  let b := { b with belfry := { b.belfry with st := .holdover, good := 0, corr := b.belfry.term } }
  b.logInj (b.belfryEv 2 3 b.belfryInj)

/-- A tick that is kept as the start of an interval moves with a step of the count from old to n. -/
def moveTick (old n t : Nat) : Nat := ((t : Int) + n - old).toNat

/-- Intervals run on over a step of the count (log entry 123): the marks from which they are measured move with it.
Ticks that a rule names on the count, as of a halt, a restart, a re-arm or a pattern, stay (R42, R443). -/
def Chip.moveMarks (b : Chip) (old n : Nat) : Chip :=
  let f := moveTick old n
  let d : Int := (n : Int) - old
  { b with
    belfry := { b.belfry with
      lastCorr := b.belfry.lastCorr.map fun t => t + d
      ppsFall := f b.belfry.ppsFall
      ppsWin := b.belfry.ppsWin.map fun t => moveTick (old * 64) (n * 64) t
      returnFrom := b.belfry.returnFrom.map fun (x : Nat × Int × Int) => (f x.1, x.2.1, x.2.2) }
    vanes := Tab.mapIf (fun _ => true) (fun (v : Vane) =>
      { v with lastDrive := v.lastDrive.map (moveTick (old * 64) (n * 64)) }) b.vanes
    regions := Tab.mapIf (fun _ => true) (fun (g : Region) =>
      { g with
        haltedAt := f g.haltedAt }) b.regions
    queues := Tab.mapIf (fun _ => true) (fun (q : Queue) =>
      { q with
        mism := q.mism.map fun (x : Nat × Bool) => (f x.1, x.2) }) b.queues
    hub := { b.hub with
      refreshAt := b.hub.refreshAt.map f
      hotAt := b.hub.hotAt.map f
      channels := Tab.mapIf (fun _ => true) (fun (c : Channel) =>
        { c with windows := c.windows.map fun (x : Nat × Bool × Nat × Nat) => (x.1, x.2.1, x.2.2.1, f x.2.2.2) })
        b.hub.channels
      windowsOut := Tab.mapIf (fun _ => true) (fun (l : List Window) =>
        l.map fun (w : Window) => { w with due := f w.due }) b.hub.windowsOut }
    loader := { b.loader with
      commit := b.loader.commit.map fun (c : Commit) => { c with readyAt := c.readyAt.map f } }
    watch := { b.watch with clean := Tab.mapIf (fun _ => true) f b.watch.clean }
    lantern := { b.lantern with reloadAt := f b.lantern.reloadAt, heldAt := b.lantern.heldAt.map f } }

def Vane.noEpoch (v : Vane) : Vane := { v with qe := none }

/-- The tick count steps to n at one tick edge: the islands count on, every vane flushes and takes a new queue epoch, and a SUSPENDED contract
breaks (R43, R95). -/
def Chip.stepTo (b : Chip) (n : Nat) (inj : Bool) : Chip :=
  let n := n % 2 ^ 64
  let live := (List.range 32).filter fun r => (b.region r).checkedAt.isSome
  let b := b.forEach live Chip.stopSlots
  let b := b.moveMarks b.now n
  let cycles := (List.range 32).map fun r => (r, b.isle r)
  let b := { b with belfry := { b.belfry with tick := n } }
  let b := cycles.foldl (fun b x => b.rebaseIsle x.1 x.2) b
  let b := b.forEach live Chip.startSlots
  let b := b.forEach (List.range 24) fun b k => b.modBank k fun q => { q with qeBase := n / 2 ^ 22 }
  let b := { b with vanes := b.vanes.map fun (x : Nat × Vane) => (x.1, (x.2.clear (b.isle (bankRegion (tpBank x.1)))).noEpoch) }
  let b := b.forEach (List.range 8) fun b p => if (b.part p).status = .suspended then b.setContract p .broken else b
  b.logInj (b.belfryEv 4 1 inj)

/-- Whether an offset at entry to LOCKING calls for a step (R42). -/
def Chip.wantsStep (b : Chip) (x : Int) : Bool := decide (1000000 < x.natAbs) && b.reg 0x2301 5 == 0

/-- The control law of R510 with the offset x in ps and the interval T in ns; divisions truncate toward zero. -/
def Chip.controlLaw (b : Chip) (x : Int) (T : Nat) : Chip :=
  if b.frozen then b
  else
    let lim : Int := 100000000
    let i := clampInt (b.termNow - Int.tdiv (x * 1000000000) (16 * (T : Int))) (-lim) lim
    let c := clampInt (i - Int.tdiv (x * 1000000000) (4 * (T : Int))) (-lim) lim
    { b with belfry := { b.belfry with term := i, corr := c, returnFrom := none } }

/-- Measurements in a row that R38 needs for LOCKED. -/
def lockNeeds (source : Nat) : Nat :=
  match source with
  | 1 => 1000
  | 2 => 2
  | _ => 8

/-- In LOCKING a measurement within the threshold counts; enough of them in a row lock Belfry (R38). -/
def Chip.countGood (b : Chip) (x : Int) : Chip :=
  if b.belfry.st ≠ .locking then b
  else
    let g := if x.natAbs ≤ b.threshold then b.belfry.good + 1 else 0
    let b := { b with belfry := { b.belfry with good := g } }
    if lockNeeds b.source ≤ g then
      let b := { b with belfry := { b.belfry with st := .locked } }
      (b.logEvent (b.belfryEv 1 1 false)).setTimebaseOk
    else b

/-- A measurement enters LOCKING: from FREE or HOLDOVER, from LOCKED beyond ten times the threshold, and as the first
one after a change of the source (R39, R45). -/
def Chip.entersLocking (b : Chip) (x : Int) : Bool :=
  b.belfry.fresh || (match b.belfry.st with
    | .free | .holdover => true
    | .locked => decide (10 * b.threshold < x.natAbs)
    | .locking => false)

/-- A valid measurement of the selected source; T gives the interval (R38, R39, R42, R510). The measurement that enters
LOCKING and calls for a step makes it or has it withheld; one that leads to a step changes neither term nor
correction. DESIGN CHOICE (log entry 147): the step leaves out the sub-nanosecond rest of the offset, toward zero, and a count that
would be negative is 0. -/
def Chip.measure (b : Chip) (x : Int) (T : Chip → Nat) : Chip :=
  let enters := b.entersLocking x
  let b := { b with belfry := { b.belfry with offset := x, missed := 0, fresh := false } }
  let law := fun (b : Chip) => (b.countGood x).controlLaw x (T b)
  if enters then
    let b := { b with belfry := { b.belfry with
      st := .locking
      good := 0
      corr := b.corrNow
      term := b.termNow
      returnFrom := none
      lastCorr := none } }
    if b.wantsStep x then
      if b.anyArmed || b.frozen then law (b.logInj (b.belfryEv 5 1 b.belfryInj))
      else b.stepTo ((b.now : Int) - Int.tdiv x 1000).toNat b.belfryInj
    else law b
  else law b

/-- Injection discards measurements as if the source were absent (R78). -/
def Chip.sourceLost (b : Chip) : Bool := b.reg 0x2D60 1 == 1

/-- DC_MEASUREMENT (R38). -/
def Chip.dcMeasure (b : Chip) (x : Int) : Chip :=
  if b.source = 1 ∧ b.powered 16 = true ∧ b.sourceLost = false then b.measure x (fun _ => 1000000) else b

def execDcMeasurement (offset : Int) (t : Nat) (s : State) : Out := act s fun b => (b.upTo t).dcMeasure offset

/-- The source delivers nothing for its limit (R38, R39). -/
def Chip.sourceSilent (b : Chip) : Chip :=
  let b := { b with belfry := { b.belfry with ppsWin := none } }
  match b.belfry.st with
  | .locked => b.toHoldover
  | .locking => b.toFree b.belfryInj
  | _ => b

def execSourceTimeout (s : State) : Out :=
  act s fun b => if b.source = 0 then b else b.sourceSilent

/-- HOLDOVER_LIMIT_EXPIRY (R39). -/
def Chip.holdoverExpiry (b : Chip) : Chip := if b.belfry.st = .holdover then b.toFree b.belfryInj else b

def execHoldoverLimitExpiry (s : State) : Out := act s Chip.holdoverExpiry

/-- The measured instant of a PPS_IN edge in fine steps, displaced by the injection (R78). -/
def Chip.ppsInstant (b : Chip) (fine : Nat) : Nat :=
  ((fine : Int) + signed 32 (b.reg 0x2D60 2) * 64).toNat

/-- The offset in ps of an edge at an instant in fine steps against a designated tick. -/
def edgeOffset (fine tick : Nat) : Int := Int.tdiv ((fine : Int) * 125) 8 - (tick : Int) * 1000

/-- The nearest multiple of 10^9 ticks (R38). DESIGN CHOICE (log entry 148): of two equally near ones the later. -/
def nearestSecond (tick : Nat) : Nat := (tick + 500000000) / 1000000000 * 1000000000

/-- One second in fine steps, and the half width of a PPS window. -/
def ppsSecond : Nat := 64000000000
def ppsHalf : Nat := 64000000

/-- The edge falls outside its window of 1 s ± 1 ms after the edge before (R38). -/
def Chip.ppsOutside (b : Chip) (f : Nat) : Bool :=
  match b.belfry.ppsWin with
  | some c => decide (f + ppsHalf < c) || decide (c + ppsHalf < f)
  | none => false

/-- PPS_IN_EDGE (R38, R76, R78): with source 2 an edge inside its window is measured against its designated time, or the
nearest second; one outside raises 0x4060_0006. -/
def Chip.ppsEdge (b : Chip) (fine : Nat) : Chip :=
  let f := b.ppsInstant fine
  let b := (b.upTo (fine / 64)).setReg 0x2303 1 (f % 2 ^ 64)
  if b.source ≠ 2 ∨ b.sourceLost = true then b
  else if b.ppsOutside f then b.logInj { b.belfryEv 6 3 false with inj := b.reg 0x2D60 2 != 0 }
  else
    let d := b.reg 0x2301 4
    let b := if d = 0 then b else b.setReg 0x2301 4 ((d + 1000000000) % 2 ^ 64)
    let b := { b with belfry := { b.belfry with ppsWin := some (f + ppsSecond) } }
    b.measure (edgeOffset f (if d = 0 then nearestSecond (f / 64) else d)) fun _ => 1000000000

def execPpsInEdge (fine : Nat) (s : State) : Out := act s fun b => b.ppsEdge fine

/-- PPS_WINDOW_CLOSE (R38): the designated time advances; two missing edges are the loss of source 2, after which the
next edge has no window. -/
def Chip.ppsMissing (b : Chip) : Chip :=
  if b.source ≠ 2 then b
  else
    let d := b.reg 0x2301 4
    let b := match b.belfry.ppsWin with
      | some c => b.upTo ((c + ppsHalf) / 64)
      | none => b
    let b := if d = 0 then b else b.setReg 0x2301 4 ((d + 1000000000) % 2 ^ 64)
    let n := b.belfry.missed + 1
    let b := { b with belfry := { b.belfry with
      missed := n
      ppsWin := if 2 ≤ n then none else b.belfry.ppsWin.map fun c => c + ppsSecond } }
    if 2 ≤ n then b.sourceSilent else b

def execPpsWindowClose (s : State) : Out := act s Chip.ppsMissing

/-- A write of 0x2302:01 (R45, R510): a new serial is one measurement of source 3. DESIGN CHOICE (log entry 146): two corrections
within one tick, for which the spec states no T, count T as 1. -/
def Chip.correction (b : Chip) (n : Nat) : Chip :=
  if b.reg 0x2302 1 = n then b
  else
    let b := b.setReg 0x2302 1 n
    if b.source ≠ 3 ∨ b.sourceLost = true then b
    else
      let now : Int := b.now
      let b := b.measure (signed 64 (b.reg 0x2302 2)) fun b =>
        match b.belfry.lastCorr with
        | some t => max 1 (min 4000000000 (now - t).toNat)
        | none => 1000000000
      -- one that led to a step has moved the count, and the next correction is again the first
      { b with belfry := { b.belfry with lastCorr := if b.now = now then some now else none } }

def execCorrectionSerial (q : Req) (serial : Nat) (s : State) : Out :=
  act s fun b => b.writeRow q 0x2302 1 serial fun b => .ok (b.correction serial)

/-- A write of 0x2301:01 (R39, R40, R45). -/
def Chip.setSource (b : Chip) (v : Nat) : Chip :=
  let old := b.source
  let b := b.setReg 0x2301 1 v
  if v = 0 then (if b.belfry.st = .free then b else b.toFree false).setTimebaseOk
  else if v = old then b
  else
    { b with belfry := { b.belfry with
        st := if b.belfry.st = .locked then .locking else b.belfry.st
        good := 0
        missed := 0
        lastCorr := none
        ppsWin := none
        fresh := true } }

def execDisciplineSourceWrite (q : Req) (v : Nat) (s : State) : Out :=
  act s fun b => b.writeRow q 0x2301 1 v fun b => .ok (b.setSource v)

/-- The serial of 0x2E30 (R42, R46). -/
def Chip.startStep (b : Chip) (o : Nat) : Chip :=
  let withheld := b.logEvent (b.belfryEv 5 1 false)
  if b.anyArmed then withheld.setStatus 0x2E30 o 2
  else if b.frozen then withheld.setStatus 0x2E30 o 3
  else (b.stepTo (b.reg 0x2E30 3) false).setStatus 0x2E30 o 0

def execBelfryStep (q : Req) (serial : Nat) (s : State) : Out :=
  act s fun b => b.commandRow q 0x2E30 serial [] Chip.startStep

/-- PPS_OUT_RISE (R44): the next tick whose count is a multiple of 10^9; a count that wraps passes through 0 (R36). -/
def Chip.ppsRise (b : Chip) : Chip :=
  if b.reg 0x2301 6 = 1 ∧ b.powered 16 = true then
    let t := nextMultiple b.now 1000000000
    let t := if t < 2 ^ 64 then t else 0
    { b with belfry := { b.belfry with tick := t, pps := true, ppsFall := t + 10000000 } }
  else b

def execPpsOutRise (s : State) : Out := act s Chip.ppsRise

/-- PPS_OUT_FALL (R44). -/
def Chip.ppsFallEvent (b : Chip) : Chip :=
  if b.belfry.pps then
    let b := b.upTo b.belfry.ppsFall
    { b with belfry := { b.belfry with pps := false } }
  else b

def execPpsOutFall (s : State) : Out := act s Chip.ppsFallEvent

/-- A write of 0x2301:06: PPS_OUT is low while it is FALSE (R44). -/
def Chip.setPpsEnable (b : Chip) (v : Nat) : Chip :=
  let b := b.setReg 0x2301 6 v
  if v = 0 then { b with belfry := { b.belfry with pps := false } } else b

end Sys2Proof.Machine
end

