-- ==== Sys2Proof/Machine/Fp.lean ====
section
/-! DEFINITION. IEEE 754 binary32 with exact intermediate values: the FP arithmetic of the slices (R213). -/

namespace Sys2Proof.Machine

/-- A binary32 datum: a finite value is (−1)^s × m × 2^e. -/
inductive Fp where
  | nan (signaling : Bool)
  | inf (s : Bool)
  | fin (s : Bool) (m : Nat) (e : Int)
  deriving DecidableEq, Repr

/-- A result and the FP flags it sets: invalid, overflow, underflow. -/
structure FpResult where
  bits : BitVec 32
  fi : Bool := false
  fo : Bool := false
  fu : Bool := false
  deriving DecidableEq, Repr

/-- Read 32 bits. -/
def fpOf (b : BitVec 32) : Fp :=
  let n := b.toNat
  let s := b.getLsbD 31
  let x : Nat := n / 2 ^ 23 % 256
  let f : Nat := n % 2 ^ 23
  if x = 255 then (if f = 0 then .inf s else .nan (!b.getLsbD 22))
  else if x = 0 then .fin s f (-149)
  else .fin s (f + 2 ^ 23) ((x : Int) - 150)

/-- The sign bit. -/
def fpSign (s : Bool) : Nat := if s then 2 ^ 31 else 0

/-- The one NaN result (R213). -/
def fpNan : BitVec 32 := 0x7FC00000#32
def fpInf (s : Bool) : BitVec 32 := BitVec.ofNat 32 (fpSign s + 0x7F800000)
def fpZero (s : Bool) : BitVec 32 := BitVec.ofNat 32 (fpSign s)

/-- An invalid operation: NaN with FI. -/
def fpInvalid : FpResult := { bits := fpNan, fi := true }

/-- m / 2^d rounded to nearest, ties to even, and whether it is inexact. -/
def roundShift (m d : Nat) : Nat × Bool :=
  let q := m / 2 ^ d
  let r := m % 2 ^ d
  let up := 2 ^ d < 2 * r || (2 * r == 2 ^ d && q % 2 == 1)
  (if up then q + 1 else q, r != 0)

/-- m × 2^e in units of 2^q, rounded. -/
def scaleTo (m : Nat) (e q : Int) : Nat × Bool :=
  if q ≤ e then (m * 2 ^ (e - q).toNat, false) else roundShift m (q - e).toNat

/-- Round (−1)^s × m × 2^e to binary32. A tiny and inexact result sets FU; whether tiny is judged before rounding is an
open value. -/
def fpRound (s : Bool) (m : Nat) (e : Int) : FpResult :=
  if m = 0 then { bits := fpZero s }
  else
    let top : Int := (Nat.log2 m : Int) + e
    let q : Int := max (top - 23) (-149)
    let (n, inexact) := scaleTo m e q
    let field : Int := if n < 2 ^ 23 then 0 else q + 150 + (if n < 2 ^ 24 then 0 else 1)
    if 255 ≤ field then { bits := fpInf s, fo := true }
    else
      -- the fraction field carries into the exponent field
      let bits := (q + 149).toNat * 2 ^ 23 + n
      let free := (scaleTo m e (top - 23)).1
      let tiny := decide (top < -126) && (Config.tinyBeforeRounding || !(top == -127 && free == 2 ^ 24))
      { bits := BitVec.ofNat 32 (fpSign s + bits), fu := tiny && inexact }

/-- The sum of two finite values, rounded once; an exact zero sum of opposite signs is +0. -/
def fpSum (s : Bool) (m : Nat) (e : Int) (s' : Bool) (m' : Nat) (e' : Int) : FpResult :=
  let q := min e e'
  let x : Int := (m * 2 ^ (e - q).toNat : Nat)
  let y : Int := (m' * 2 ^ (e' - q).toNat : Nat)
  let z := (if s then -x else x) + (if s' then -y else y)
  if z = 0 then { bits := fpZero (s && s') } else fpRound (decide (z < 0)) z.natAbs q

def Fp.isNan : Fp → Bool
  | .nan _ => true
  | _ => false
def Fp.isSignaling : Fp → Bool
  | .nan s => s
  | _ => false
def Fp.isInf : Fp → Bool
  | .inf _ => true
  | _ => false
def Fp.isZero : Fp → Bool
  | .fin _ m _ => m == 0
  | _ => false
def Fp.neg : Fp → Fp
  | .nan s => .nan s
  | .inf s => .inf (!s)
  | .fin s m e => .fin (!s) m e

/-- Zero times infinity. -/
def zeroInf (p q : Fp) : Bool := (p.isZero && q.isInf) || (p.isInf && q.isZero)

/-- The product of two data that are no NaN and no zero times infinity, before rounding. -/
def fpProduct (p q : Fp) : Fp :=
  match p, q with
  | .fin s m e, .fin s' m' e' => .fin (s != s') (m * m') (e + e')
  | .inf s, .inf s' => .inf (s != s')
  | .inf s, .fin s' _ _ => .inf (s != s')
  | .fin s _ _, .inf s' => .inf (s != s')
  | _, _ => .nan false

/-- c + p × q with one rounding (FMA, R213); a negated product gives FMS. -/
def fpFma (c p q : Fp) : FpResult :=
  if c.isSignaling || p.isSignaling || q.isSignaling then fpInvalid
  else if zeroInf p q then
    if c.isNan then { bits := fpNan, fi := Config.fmaNanInvalid } else fpInvalid
  else if c.isNan || p.isNan || q.isNan then { bits := fpNan }
  else
    match c, fpProduct p q with
    | .inf s, .inf s' => if s = s' then { bits := fpInf s } else fpInvalid
    | .inf s, _ => { bits := fpInf s }
    | _, .inf s => { bits := fpInf s }
    | .fin s m e, .fin s' m' e' => fpSum s m e s' m' e'
    | _, _ => { bits := fpNan }

/-- p × q (FMUL). -/
def fpMul (p q : Fp) : FpResult :=
  if p.isSignaling || q.isSignaling || zeroInf p q then fpInvalid
  else if p.isNan || q.isNan then { bits := fpNan }
  else
    match fpProduct p q with
    | .inf s => { bits := fpInf s }
    | .fin s m e => fpRound s m e
    | .nan _ => { bits := fpNan }

/-- c + p (FADD). -/
def fpAdd (c p : Fp) : FpResult := fpFma c p (.fin false 1 0)

/-- An integer times 2^−k as binary32 (CVTF). -/
def fpOfInt (v : Int) (k : Nat) : FpResult := fpRound (decide (v < 0)) v.natAbs (-(k : Int))

/-- A binary32 datum times 2^k, rounded to an integer, ties to even (CVTI): none for a NaN; an infinity is beyond every
integer. -/
def fpToInt (p : Fp) (k : Nat) : Option Int :=
  match p with
  | .nan _ => none
  | .inf s => some (if s then -(2 ^ 200) else 2 ^ 200)
  | .fin s m e =>
    let n := (scaleTo m (e + k) 0).1
    some (if s then -(n : Int) else n)

end Sys2Proof.Machine
end

