-- ==== Sys2Proof/Machine/Vanes.lean ====
section
/-! DEFINITION. Vanes: event words, their execution, captures, windows, the capture FIFO, calibration (R55 to R70, R74). -/

namespace Sys2Proof.Machine

open Sys2Proof

/-! ### Event words (R55 to R58) -/

/-- The action of a code (R56). -/
def actOf (n : Nat) : Act :=
  match n % 16 with
  | 0 => .nop | 1 => .driveLow | 2 => .driveHigh | 3 => .release | 4 => .captureRise | 5 => .captureFall
  | 6 => .captureAny | 7 => .sample | 8 => .windowLow | 9 => .windowHigh | 10 => .windowClose | 11 => .disarm
  | 12 => .reflexArm | 13 => .reflexDisarm | 14 => .park | _ => .epoch

def wordAction (w : BitVec 32) : Nat := field w.toNat 28 4
def wordFine (w : BitVec 32) : Nat := field w.toNat 22 6
def wordOffset (w : BitVec 32) : Nat := field w.toNat 0 22

/-- The instant of a timed word in fine steps, 64 to a tick (R57). -/
def Chip.wordInstant (b : Chip) (tp : Nat) (w : BitVec 32) : Nat :=
  (b.vaneQe tp * 2 ^ 22 + wordOffset w) * 64 + wordFine w

/-- vane_ev_ready (R64). -/
def Chip.vaneReady (b : Chip) (tp : Nat) : Bool :=
  let bk := b.bank (tpBank tp)
  bk.mode == 2 && !bk.parked && decide ((b.vane tp).queue.length < 16)

/-- EPOCH words at the head of the queue do nothing and leave it (R56). -/
def dropEpochs (q : List (Act × Nat × BitVec 32)) : List (Act × Nat × BitVec 32) := q.dropWhile fun x => x.1 == .epoch

/-- The higher-numbered bank of a corner region (R12, R90). -/
def highBank (k : Nat) : Bool := [1, 9, 13, 21].contains k

/-- A late word: counted, and reported to the schedule engine as cause 8 (R58, R77, R90). -/
def Chip.lateWord (b : Chip) (tp : Nat) (inj : Bool) : Chip :=
  let r := bankRegion (tpBank tp)
  (b.count 0x2418 3).slotMiss r
    { cause := 8, slot := 0xFFFF, tag := tpPos tp + flag (highBank (tpBank tp)) 6, lower := evCode 1 7 (tpBank tp) 1, cycle := b.frameCycle r } inj

/-- An out-of-order word: counted and logged (R58). -/
def Chip.disorderWord (b : Chip) (tp : Nat) (w : BitVec 32) (inj : Bool) : Chip :=
  (b.count 0x2418 4).logEvent (bankEv (tpBank tp) 2 3 inj tp w.toNat)

/-- Queue an accepted word; EPOCH words that reach the head at once leave it (R56, R58). -/
def Chip.queueWord (b : Chip) (tp : Nat) (a : Act) (inst : Nat) (w : BitVec 32) (last : Option Nat) : Chip :=
  b.modVane tp fun v => { v with queue := dropEpochs (v.queue ++ [(a, inst, w)]), last := last }

/-- The checks of a timed word at its acceptance (R58). -/
def Chip.acceptTimed (b : Chip) (tp : Nat) (w : BitVec 32) : Chip :=
  let inst := b.wordInstant tp w
  if inst < (b.now + 12) * 64 then b.lateWord tp false
  else if decide ((b.now + 8388608) * 64 < inst) ||
      (match (b.vane tp).last with | some l => decide (inst < l) | none => false) then
    b.disorderWord tp w false
  else b.queueWord tp (actOf (wordAction w)) inst w (some inst)

/-- An EPOCH word at its acceptance (R56, R58). -/
def Chip.acceptEpoch (b : Chip) (tp : Nat) (w : BitVec 32) : Chip :=
  if wordFine w ≠ 0 then b.disorderWord tp w false
  else
    let qe := if wordOffset w = 0 then b.now / 2 ^ 22 % 2 ^ 42 else (b.vaneQe tp + wordOffset w) % 2 ^ 42
    let last := (b.vane tp).last
    (b.modVane tp fun v => { v with qe := some qe }).queueWord tp .epoch 0 w last

/-- A vane accepts a word while vane_ev_ready is 1 and its region's clock runs, one word at each region clock edge, which is at most
one per tick (R58, R64). -/
def Chip.vaneWord (b : Chip) (tp : Nat) (w : BitVec 32) : Chip :=
  let r := bankRegion (tpBank tp)
  let c := b.isle r
  if b.vaneReady tp && b.fabricRuns r && (b.vane tp).accepted != some c then
    let b := b.modVane tp fun v => { v with accepted := some c }
    if wordAction w = 15 then b.acceptEpoch tp w else b.acceptTimed tp w
  else b

def execVaneEventWord (tp : Nat) (word : BitVec 32) (t : Nat) (s : State) : Out :=
  act s fun b => (b.upTo t).vaneWord tp word

/-- EPOCH: the same acceptance, for a word whose action is EPOCH (R56). -/
def execEpoch (tp : Nat) (word : BitVec 32) (t : Nat) (s : State) : Out :=
  act s fun b => if wordAction word = 15 then (b.upTo t).vaneWord tp word else b

/-! ### The capture FIFO (R60, R61) -/

/-- A capture entry (R60). -/
def capEntry (kind : Nat) (level : Bool) (fine offset : Nat) : BitVec 32 :=
  BitVec.ofNat 32 (kind * 2 ^ 29 + flag level 28 + fine % 64 * 2 ^ 22 + offset % 2 ^ 22)

/-- One entry is lost; the event is raised once per episode (R61). -/
def Chip.loseEntry (b : Chip) (tp : Nat) (e : BitVec 32) (inj : Bool) : Chip :=
  let lost := (b.vane tp).lost
  let b := (b.modVane tp fun v => { v with lost := v.lost + 1 }).count 0x2418 6
  if lost = 0 then b.logEvent (bankEv (tpBank tp) 3 3 inj tp e.toNat) else b

/-- One entry into the FIFO, or one entry lost (R61). -/
def Chip.fifoPut (b : Chip) (tp : Nat) (e : BitVec 32) : Chip :=
  let v := b.vane tp
  if v.fifo.length < 32 ∧ (v.lost = 0 ∨ field e.toNat 29 3 = 7) then
    b.modVane tp fun v => { v with fifo := v.fifo ++ [e], lost := if field e.toNat 29 3 = 7 then 0 else v.lost }
  else b.loseEntry tp e false

/-- After an overflow the first entry that finds space is the overflow entry (R61). -/
def Chip.fifoOverflow (b : Chip) (tp : Nat) : Chip :=
  let v := b.vane tp
  if 0 < v.lost ∧ v.fifo.length < 32 then b.fifoPut tp (capEntry 7 false 0 (min v.lost 4194303)) else b

/-- Write a capture entry for an instant in fine steps, with the epoch entry that it needs before it (R60, R61). -/
def Chip.capture (b : Chip) (tp kind : Nat) (level : Bool) (inst : Nat) : Chip :=
  let epoch := inst / 64 / 2 ^ 22
  let b := b.fifoOverflow tp
  let b := if (b.vane tp).fifoEpoch = some epoch then b else b.fifoPut tp (capEntry 6 false 0 epoch)
  let b := if (b.vane tp).lost = 0 then b.modVane tp fun v => { v with fifoEpoch := some epoch } else b
  b.fifoPut tp (capEntry kind level inst (inst / 64))

/-! ### Execution of words -/

/-- The head of the queue, when it is a word of this action. -/
def Chip.headWord (b : Chip) (tp : Nat) (a : Act) : Option Nat :=
  match (b.vane tp).queue with
  | (x, inst, _) :: _ => if x = a then some inst else none
  | [] => none

/-- The actions that set the pin's driver (R57). -/
def Act.drives : Act → Bool
  | .driveLow | .driveHigh | .release | .park | .reflexArm | .reflexDisarm => true
  | _ => false

/-- The instant at which an action takes effect: with the drive deskew for one that sets the driver, with the capture deskew for
every other (R57, R67). -/
def Vane.deskewed (v : Vane) (a : Act) (inst : Nat) : Nat :=
  ((inst : Int) + if a.drives then v.driveDeskew else v.capDeskew).toNat

/-- The head word leaves the queue at its instant with deskew, and its effect f follows, which counts on the instant before deskew
(R67); a word that is not at the head waits. -/
def Chip.runWord (b : Chip) (tp : Nat) (a : Act) (f : Chip → Nat → Chip) : Chip :=
  match b.headWord tp a with
  | none => b
  | some inst =>
    f ((b.upTo ((b.vane tp).deskewed a inst / 64)).modVane tp fun v => { v with queue := dropEpochs (v.queue.drop 1) }) inst

def execVaneNop (tp : Nat) (s : State) : Out := act s fun b => b.runWord tp .nop fun b _ => b

/-- Minimum interval between drive transitions of a voltage code, in ps (R47). -/
def minInterval (code : Nat) : Nat :=
  match code with
  | 2 => 2500 | 3 => 2000 | 5 => 5000 | _ => 3333

/-- Contention on a pin (R74): the mask bit, the counter, and the event once per pin until the bit is cleared. -/
def Chip.contend (b : Chip) (tp : Nat) (inj : Bool) : Chip :=
  let k := tpBank tp
  let seen := (b.bank k).contention.getLsbD (tpPos tp)
  let b := (b.modBank k fun q => { q with contention := setPin q.contention (tpPos tp) true }).count 0x2418 7
  if seen then b else b.logEvent (bankEv k 5 3 inj tp 0)

/-- A later drive, RELEASE or PARK word of the same instant sets the pin in place of this one (R58). -/
def Chip.superseded (b : Chip) (tp inst : Nat) : Bool :=
  (b.vane tp).queue.any fun x =>
    x.2.1 == inst && (x.1 == .driveLow || x.1 == .driveHigh || x.1 == .release || x.1 == .park)

/-- The transition follows the previous one by less than the minimum interval (R59); one fine step is 15,625 fs. -/
def Chip.tooSoon (b : Chip) (tp inst : Nat) : Bool :=
  match (b.vane tp).lastDrive with
  | some l => decide ((inst - l) * 15625 < minInterval (b.bank (tpBank tp)).code * 1000)
  | none => false

/-- A rate violation (R59). -/
def Chip.rateViolation (b : Chip) (tp : Nat) (inj : Bool) : Chip :=
  (b.count 0x2418 5).logEvent (bankEv (tpBank tp) 4 3 inj tp 0)

/-- The vane sets pin n's driver to enable and level; parked says that this is its park level, and level 3 holds what the pin showed
(R59, R64). -/
def Bank.drivePin (q : Bank) (n : Nat) (oe level parked : Bool) : Bank :=
  let keep := q.parkedPins.getLsbD n
  { q with
    vOe := setPin q.vOe n oe
    vLevel := if oe then setPin q.vLevel n level else q.vLevel
    parkedPins := setPin q.parkedPins n parked
    holdOe := if parked && !keep then setPin q.holdOe n (q.vOe.getLsbD n) else q.holdOe
    holdLevel := if parked && !keep then setPin q.holdLevel n (q.vLevel.getLsbD n) else q.holdLevel }

/-- The vane sets its pin's driver; in pair mode the odd pin takes the complement (R74). -/
def Chip.setDriver (b : Chip) (tp : Nat) (oe level parked : Bool) : Chip :=
  let k := tpBank tp
  let n := tpPos tp
  let pair := b.paired k n
  b.modPins k fun q =>
    let q := q.drivePin n oe level parked
    if pair then q.drivePin (n + 1) oe (!level) false else q

/-- A drive, RELEASE or PARK action (R58, R59, R74). One that follows a REFLEX_ARM of the same instant is no contention: it sets the
vane's driver, and the reflex path keeps the pin (log entry 134). -/
def Chip.driveAction (b : Chip) (tp inst : Nat) (oe level parked : Bool) : Chip :=
  let k := tpBank tp
  let n := tpPos tp
  let q := b.bank k
  let v := b.vane tp
  if (v.reflex && v.reflexAt != inst) || (b.paired k n && n % 2 == 1) then b.contend tp false
  else if b.superseded tp inst then b
  else
    let same := q.vOe.getLsbD n == oe && (!oe || q.vLevel.getLsbD n == level)
    if same then b.setDriver tp oe level parked
    else if b.tooSoon tp inst then
      b.rateViolation tp false
    else (b.setDriver tp oe level parked).modVane tp fun v => { v with lastDrive := some inst }

def execDriveLow (tp : Nat) (s : State) : Out :=
  act s fun b => b.runWord tp .driveLow fun b i => b.driveAction tp i true false false
def execDriveHigh (tp : Nat) (s : State) : Out :=
  act s fun b => b.runWord tp .driveHigh fun b i => b.driveAction tp i true true false
def execRelease (tp : Nat) (s : State) : Out :=
  act s fun b => b.runWord tp .release fun b i => b.driveAction tp i false false false

/-- Enable and level of a pin at park level, where level 3 holds what the vane drives, or what the pin holds already (0x24bb:07). -/
def Chip.pinParkDrive (b : Chip) (tp : Nat) : Bool × Bool :=
  let q := b.bank (tpBank tp)
  let n := tpPos tp
  if b.reg (0x2400 + tpBank tp) 7 = 3 ∧ q.parkedPins.getLsbD n = false then (q.vOe.getLsbD n, q.vLevel.getLsbD n)
  else b.parkDrive (tpBank tp) n

def execPark (tp : Nat) (s : State) : Out :=
  act s fun b => b.runWord tp .park fun b i =>
    b.driveAction tp i (b.pinParkDrive tp).1 (b.pinParkDrive tp).2 true

/-- An armed capture; one that is armed already is replaced (R62). -/
def Chip.arm (b : Chip) (tp : Nat) (e : EdgeSel) (inst : Nat) : Chip :=
  b.modVane tp fun v => { v with armed := some (e, inst) }

def execCaptureRise (tp : Nat) (s : State) : Out :=
  act s fun b => b.runWord tp .captureRise fun b i => b.arm tp .rise i
def execCaptureFall (tp : Nat) (s : State) : Out :=
  act s fun b => b.runWord tp .captureFall fun b i => b.arm tp .fall i
def execCaptureAny (tp : Nat) (s : State) : Out :=
  act s fun b => b.runWord tp .captureAny fun b i => b.arm tp .any i

def execSample (tp : Nat) (level : Bool) (s : State) : Out :=
  act s fun b => b.runWord tp .sample fun b i => b.capture tp 2 level i

/-- DISARM: a no-edge entry if a capture was armed (R56). -/
def Chip.disarm (b : Chip) (tp inst : Nat) : Chip :=
  if (b.vane tp).armed.isSome then (b.modVane tp fun v => { v with armed := none }).capture tp 4 false inst else b

def execDisarm (tp : Nat) (s : State) : Out := act s fun b => b.runWord tp .disarm fun b i => b.disarm tp i

/-- An open window closes: vane_win_done pulses with its result (R63). -/
def Chip.closeWindow (b : Chip) (tp : Nat) : Chip :=
  let c := b.isle (bankRegion (tpBank tp))
  b.modVane tp fun v => v.winClose c

/-- The first deviation in an open window: its entry and vane_fail (R63). -/
def Chip.failWindow (b : Chip) (tp : Nat) (level : Bool) (inst : Nat) : Chip :=
  let c := b.isle (bankRegion (tpBank tp))
  (b.modVane tp fun v =>
    { v with
      fail := true
      failAt := some c
      window := v.window.map fun (x : Bool × Bool) => (x.1, true) }).capture tp 5 level inst

/-- A window action closes the open window and opens its own; a wrong level at the opening instant fails there (R63). -/
def Chip.openWindow (b : Chip) (tp : Nat) (expect level : Bool) (inst : Nat) : Chip :=
  let b := (b.closeWindow tp).modVane tp fun v => { v with window := some (expect, false) }
  if level = expect then b else b.failWindow tp level inst

def execWindowLow (tp : Nat) (level : Bool) (s : State) : Out :=
  act s fun b => b.runWord tp .windowLow fun b i => b.openWindow tp false level i
def execWindowHigh (tp : Nat) (level : Bool) (s : State) : Out :=
  act s fun b => b.runWord tp .windowHigh fun b i => b.openWindow tp true level i
def execWindowClose (tp : Nat) (s : State) : Out :=
  act s fun b => b.runWord tp .windowClose fun b _ => b.closeWindow tp

/-- REFLEX_ARM: the pin's driver goes to the reflex path (R70, R72). -/
def Chip.reflexArm (b : Chip) (tp inst : Nat) : Chip :=
  (b.modPins (tpBank tp) fun q => { q with parkedPins := setPin q.parkedPins (tpPos tp) false }).modVane tp fun v =>
    { v with reflex := true, reflexAt := inst }

def execReflexArm (tp : Nat) (s : State) : Out :=
  act s fun b => b.runWord tp .reflexArm fun b i => b.reflexArm tp i

/-- REFLEX_DISARM: the driver returns to the vane; the pin keeps its level until the next drive action (R56, R70). -/
def Chip.reflexDisarm (b : Chip) (tp : Nat) : Chip :=
  if (b.vane tp).reflex then
    let d := b.rfxDrive tp
    (b.modPins (tpBank tp) fun q =>
      { q with vOe := setPin q.vOe (tpPos tp) d.1, vLevel := setPin q.vLevel (tpPos tp) d.2 }).modVane tp fun v =>
        { v with reflex := false }
  else b

def execReflexDisarm (tp : Nat) (s : State) : Out :=
  act s fun b => b.runWord tp .reflexDisarm fun b _ => b.reflexDisarm tp

/-! ### Edges, deviations, fabric ports -/

/-- An instant at the ball with the capture deskew removed (R60, R67). -/
def Chip.recorded (b : Chip) (tp fine : Nat) : Nat := ((fine : Int) - (b.vane tp).capDeskew).toNat

def EdgeSel.matches (e : EdgeSel) (rising : Bool) : Bool :=
  match e with
  | .rise => rising
  | .fall => !rising
  | .any => true

/-- CAPTURE_EDGE (R62): the first matching edge at or after the armed instant is recorded. -/
def Chip.captureEdge (b : Chip) (tp : Nat) (rising : Bool) (fine : Nat) : Chip :=
  let i := b.recorded tp fine
  match (b.vane tp).armed with
  | some (e, from_) =>
    if e.matches rising && decide (from_ ≤ i) then
      (b.modVane tp fun v => { v with armed := none }).capture tp (if rising then 0 else 1) rising i
    else b
  | none => b

def execCaptureEdge (tp : Nat) (rising : Bool) (fine : Nat) (s : State) : Out :=
  act s fun b => (b.upTo (fine / 64)).captureEdge tp rising fine

/-- WINDOW_DEVIATION (R63): one shorter than 500 ps is detected or not, as a free value says. -/
def Chip.deviation (b : Chip) (tp fine : Nat) (level : Bool) (ps : Nat) : Chip :=
  match (b.vane tp).window with
  | some (expect, false) =>
    if level = expect then b
    else if 500 ≤ ps then b.failWindow tp level (b.recorded tp fine)
    else
      let f := b.free
      let b := b.tookFree
      if Config.shortDeviationSeen f then b.failWindow tp level (b.recorded tp fine) else b
  | _ => b

def execWindowDeviation (tp fine : Nat) (level : Bool) (ps : Nat) (s : State) : Out :=
  act s fun b => (b.upTo (fine / 64)).deviation tp fine level ps

/-- CAPTURE_POP (R64): one entry in a region cycle. -/
def Chip.capturePop (b : Chip) (tp : Nat) : Chip :=
  let r := bankRegion (tpBank tp)
  let c := b.isle r
  match (b.vane tp).fifo with
  | e :: rest =>
    if b.fabricRuns r && ((b.vane tp).popped.map fun (x : Nat × BitVec 32) => x.1) != some c then
      b.modVane tp fun v => { v with fifo := rest, popped := some (c, e) }
    else b
  | [] => b

def execCapturePop (tp t : Nat) (s : State) : Out := act s fun b => (b.upTo t).capturePop tp

/-- VANE_FAIL_CLEAR (R64): a failure in the same region cycle sets vane_fail again. -/
def Chip.vaneFailClear (b : Chip) (tp : Nat) : Chip :=
  let r := bankRegion (tpBank tp)
  let c := b.isle r
  if b.fabricRuns r then b.modVane tp fun v => { v with fail := v.fail && v.failAt == some c } else b

def execVaneFailClear (tp t : Nat) (s : State) : Out := act s fun b => (b.upTo t).vaneFailClear tp

/-! ### Calibration (R68) -/

/-- CALIBRATION_RUN: a full calibration of the standby line ends; none runs while 0x2418:01 is FALSE. -/
def Chip.calibrated (b : Chip) (tp : Nat) : Chip :=
  if b.reg 0x2418 1 = 1 then b.modVane tp fun v => { v with calibrated := true } else b

def execCalibrationRun (tp : Nat) (s : State) : Out := act s fun b => b.calibrated tp

/-- No timed word of the vane falls within the present tick or the next. -/
def Chip.tickFree (b : Chip) (tp : Nat) : Bool :=
  (b.vane tp).queue.all fun x => x.1 == .epoch || (x.2.1 / 64 != b.now && x.2.1 / 64 != b.now + 1)

/-- LINE_SWITCH: the lines change roles, and a deferral or a passed limit ends. -/
def Chip.lineSwitch (b : Chip) (tp : Nat) : Chip :=
  if (b.vane tp).calibrated && b.tickFree tp then
    b.modVane tp fun v => { v with line := !v.line, calibrated := false, deferred := false, degraded := false }
  else b

def execLineSwitch (tp : Nat) (s : State) : Out := act s fun b => b.lineSwitch tp

/-- CALIBRATION_DEFERRED. -/
def Chip.calibrationDeferred (b : Chip) (tp : Nat) : Chip :=
  if (b.vane tp).calibrated && !(b.vane tp).deferred then
    (b.modVane tp fun v => { v with deferred := true }).logEvent (bankEv (tpBank tp) 7 1 false tp 0)
  else b

def execCalibrationDeferred (tp : Nat) (s : State) : Out := act s fun b => b.calibrationDeferred tp

/-- CALIBRATION_LIMIT. -/
def Chip.calibrationLimit (b : Chip) (tp : Nat) (inj : Bool) : Chip :=
  if (b.vane tp).degraded then b
  else (b.modVane tp fun v => { v with degraded := true }).logEvent (bankEv (tpBank tp) 8 3 inj tp 0)

def execCalibrationLimit (tp : Nat) (s : State) : Out := act s fun b => b.calibrationLimit tp false

end Sys2Proof.Machine
end

