-- ==== Sys2Proof/Machine/Schedule.lean ====
section
/-! DEFINITION. The schedule engine's commands: slot misses and the re-arm command (R90 to R96, R104). -/

namespace Sys2Proof.Machine

open Sys2Proof

/-- A slot miss as it is seen (R90 to R93): an armed injection of the cause is applied by it (R106). A late crossing takes the
effect of R145 on its lane. -/
def Chip.missAs (b : Chip) (r : Nat) (m : MissInfo) (preceded : Bool) : Chip :=
  let inj := b.isArmed 0x2D62 m.cause r
  let b := if inj then b.applyArmed 0x2D62 m.cause r (evCode 3 6 r (0x100 + m.cause)) else b
  let b := match if m.cause = 1 && b.checksSlots r && (b.regionPart r).isSome then b.receiveLane r m.slot else none with
    | some l => b.lateToken l
    | none => b
  b.slotMissAs r m inj preceded

def Chip.missSeen (b : Chip) (r : Nat) (m : MissInfo) : Chip := b.missAs r m false

/-- A command that waits reports a miss of the same partition at the present tick that comes before (r, slot) in the order of
R93. -/
def Chip.precedes (b : Chip) (r slot : Nat) (c : Instr) : Bool :=
  match c with
  | .slotMiss r' m t =>
    decide (t ≤ b.now) && (b.regionPart r').isSome && b.regionPart r' == b.regionPart r && b.checksSlots r' &&
      (decide (r' < r) || r' == r && decide (m.slot < slot))
  | _ => false

/-- SLOT_MISS: of the misses of one tick that wait, the lowest region and slot breaks the contract (R93). -/
def execSlotMiss (r : Nat) (m : MissInfo) (t : Nat) (s : State) : Out :=
  act s fun b =>
    let b := b.upTo t
    b.missAs r m (s.pending.any (b.precedes r m.slot))

/-- A region of the partition satisfies f. -/
def Chip.partAny (b : Chip) (p : Nat) (f : Region → Bool) : Bool := (b.partRegions p).any fun r => f (b.region r)

/-- A named frame of a partition has begun (R96, R151, R301); 0 names none. -/
def Chip.frameBegun (b : Chip) (p frame : Nat) : Bool := frame != 0 && decide (frame * 2 ^ (b.part p).k ≤ b.now)

/-- The next frame boundary of a partition. -/
def Chip.nextBoundary (b : Chip) (p : Nat) : Nat := (b.now / 2 ^ (b.part p).k + 1) * 2 ^ (b.part p).k

/-- The serial of 0x2E25 (R96, R104, R511). -/
def Chip.startRearm (b : Chip) (o : Nat) : Chip :=
  let p := b.reg 0x2E25 3
  let frame := b.reg 0x2E25 4
  if b.dev.st ≠ .full then b.setStatus 0x2E25 o 5
  else if (b.part p).status = .none then b.setStatus 0x2E25 o 4
  else if (b.part p).status ≠ .broken then b.setStatus 0x2E25 o 2
  else if b.partAny p fun g => g.fenced || g.halted || g.safeBlocks != 0#64 then b.setStatus 0x2E25 o 3
  else if b.frameBegun p frame then b.setStatus 0x2E25 o 2
  else
    let t := if frame = 0 then b.nextBoundary p else frame * 2 ^ (b.part p).k
    (b.beginCmd 0x2E25 o).modPart p fun q => { q with rearmAt := some t }

def execRearm (q : Req) (serial p frame : Nat) (s : State) : Out :=
  act s fun b => b.commandRow q 0x2E25 serial [(3, p), (4, frame)] Chip.startRearm

/-- REARM_BOUNDARY (R96): the first-miss entries and the miss-while-broken count clear, and the contract is ARMED. -/
def Chip.rearmBoundary (b : Chip) (p : Nat) : Chip :=
  match (b.part p).rearmAt with
  | none => b
  | some t =>
    let b := (b.upTo t).modPart p fun q => { q with rearmAt := none, firstMiss := none }
    let f := t / 2 ^ (b.part p).k
    let b := ((b.setReg (0x2521 + p) 0x0C 0).setReg (0x2521 + p) 4 f).setContract p .armed
    let b := b.endCmd 0x2E25 0
    b.logEvent (b.partEv p (evCode 4 6 p 0x21) 1 (f % 2 ^ 32) (f / 2 ^ 32) 0)

def execRearmBoundary (p : Nat) (s : State) : Out := act s fun b => b.rearmBoundary p

end Sys2Proof.Machine
end

