-- ==== Sys2Proof/Machine/Islands.lean ====
section
/-! DEFINITION. Clock islands: lost lock, the standby synthesizer and the island restart (R138 to R142, R150 to R155). -/

namespace Sys2Proof.Machine

open Sys2Proof

/-- ISLAND_UNLOCK (R140, R142): the unlock indicator does not rise during a halt. -/
def Chip.islandUnlock (b : Chip) (r detector : Nat) : Chip :=
  if (b.region r).halted && detector == 1 then b else b.lockLost r detector false

def execIslandUnlock (r detector t : Nat) (s : State) : Out :=
  act s fun b => (b.upTo t).islandUnlock r detector

/-- A fence cause is present (R151, R387): a real unlock, a lost region clock, or a required reload. -/
def Chip.causePresent (b : Chip) (r : Nat) : Bool :=
  (b.region r).unlock || b.clockState r == .lost || bit (b.reg 0x2900 0x0C) r

/-- A region halted by a debug command (R443, R448). -/
def Chip.debugHalted (b : Chip) (r : Nat) : Bool := (b.region r).halted

/-- The partition of a region, where it holds slot tables. -/
def Chip.tabledPart (b : Chip) (r : Nat) : Option Nat :=
  match b.regionPart r with
  | some p => if (b.part p).tables then some p else none
  | none => none

/-- The serial of 0x2E05 (R150, R151, R153, R511). -/
def Chip.startRestart (b : Chip) (o : Nat) : Chip :=
  let r := b.reg 0x2E05 3
  let frame := b.reg 0x2E05 4
  let begun := match b.tabledPart r with | some p => b.frameBegun p frame | none => false
  if !b.serving then b.setStatus 0x2E05 o 4
  else if !(b.region r).fenced || b.debugHalted r then b.setStatus 0x2E05 o 2
  else if b.causePresent r then b.setStatus 0x2E05 o 3
  else if begun then b.setStatus 0x2E05 o 2
  else
    let t := match b.tabledPart r with
      | some p => if frame = 0 then b.releaseFrame p else frame * 2 ^ (b.part p).k
      | none => b.now
    ((b.beginCmd 0x2E05 o).assertReset r).modRegion r fun g =>
      { g with restartAt := some t, standby := .locking g.m }

def execIslandRestart (q : Req) (serial r frame : Nat) (s : State) : Out :=
  act s fun b => b.commandRow q 0x2E05 serial [(3, r), (4, frame)] Chip.startRestart

/-- A standby synthesizer does not lock (R151, R365, R368, R382): a restart ends with status 5; a busy commit that waits
for the lock ends with status 7, and the loader locks the standby again while the stream stays staged. -/
def Chip.standbyFailed (b : Chip) (r : Nat) (inj : Bool) : Chip :=
  match (b.region r).standby, (b.region r).restartAt with
  | .locking _, some _ =>
    (b.endRestart r 5).logEvent (b.regionEv r (evCode 3 5 r 2) 3 inj 3 0 0)
  | .locking _, none =>
    match b.loader.commit with
    | some c =>
      if c.phase = 0 && (b.commitStreams c.mask).any fun s => s.regionMask.getLsbD r then b.endCommit 7 inj else b
    | none => b
  | _, _ => b

/-- STANDBY_LOCK_DONE (R141, R150): an injected lock failure takes its place (R382). In a region without slot tables the
release edge of a restart is the second edge after the lock; in one with them a lock after the named frame has begun puts it at
the next frame boundary (log entry 128). -/
def Chip.standbyLocked (b : Chip) (r : Nat) : Chip :=
  match (b.region r).standby with
  | .locking m =>
    if b.isArmed 0x2DC0 3 0 then
      let ev := if (b.region r).restartAt.isSome then evCode 3 5 r 2 else evCode 4 12 ((b.regionPart r).getD 0) 4
      (b.applyArmed 0x2DC0 3 0 ev).standbyFailed r true
    else
      let late := fun (t : Nat) =>
        match b.tabledPart r with
        | none => b.secondEdge r b.now
        | some p => if t < b.now then b.nextBoundary p else t
      b.modRegion r fun g => { g with standby := .locked m, restartAt := g.restartAt.map late }
  | _ => b

def execStandbyLockDone (r : Nat) (s : State) : Out := act s fun b => b.standbyLocked r

/-- STANDBY_LOCK_TIMEOUT (R151). -/
def execStandbyLockTimeout (r : Nat) (s : State) : Out := act s fun b => b.standbyFailed r false

/-- ISLAND_RESTART_RELEASE (R150): the island runs on its standby with a new phase (R139), the fence and poison end, the
banks leave their fault park (R72), queue blocks reset (R194), and the region runs from INIT. A standby that locks after the named
frame has begun releases at the next frame boundary (DESIGN CHOICE, log entry 128). -/
def Chip.restartRelease (b : Chip) (r : Nat) : Chip :=
  match (b.region r).restartAt, (b.region r).standby with
  | some t, .locked _ =>
    let b := (b.upTo t).startIsle r
    let f := b.free
    let b := b.tookFree.modRegion r fun g =>
      { g with restartAt := none, fenced := false, unlock := false, unlockInj := false, phase := some f }
    let b := (((b.freeRegionStandby r).endFaultPark r).resetQueues r true).releaseRegion r
    (b.endCmd 0x2E05 0).logEvent (b.regionEv r (evCode 3 5 r 3) 1 false 0 0 0)
  | _, _ => b

def execIslandRestartRelease (r : Nat) (s : State) : Out := act s fun b => b.restartRelease r

end Sys2Proof.Machine
end

