-- ==== Sys2Proof/Machine/Crossing.lean ====
section
/-! DEFINITION. Crossing lanes: scheduled and unscheduled tokens, their release, delivery and poison (R143 to R148). -/

namespace Sys2Proof.Machine

open Sys2Proof

/-- The receiver's cycle in progress as the crossing counts it: floor(s × Rr / Rs) for the sender's cycle s, both counted from
the same tick (R81, R144). -/
def Chip.landingCycle (b : Chip) (tx rx : Nat) : Nat := b.period tx * (b.region tx).m / (b.region rx).m

/-- Island cycle of the receiver 3 cycles after that of landing (R81, R144). -/
def Chip.releaseCycle (b : Chip) (tx rx : Nat) : Nat :=
  b.isle rx + b.landingCycle tx rx + 3 - b.period rx

/-- The lane's send register holds no token of sender cycle c: one token per lane may be sent in each sender cycle (R143). -/
def Chip.laneFree (b : Chip) (l : Lane) (c : Nat) : Bool := (b.lane l).sent != some c

/-- SCHEDULED_TOKEN_SEND (R144, R147): a send entry covers the cycle; toward a fenced receiver the token is discarded. -/
def Chip.sendScheduled (b : Chip) (l : Lane) (valid : Bool) (data : BitVec 32) : Chip :=
  match neighbor l.r l.side with
  | none => b
  | some n =>
    let c := b.isle l.r
    if !b.fabricRuns l.r || (b.slotAt l.r 1 (laneRes l)).isNone || !b.laneFree l c then b
    else if (b.region n).fenced then (b.modLane l fun x => { x with sent := some c }).count (0x2500 + l.r) 0x0A
    else
      let due := b.releaseCycle l.r n
      b.modLane l fun x =>
        { x with
          sent := some c
          inFlight := if (b.region n).inReset then x.inFlight
            else x.inFlight ++ [{ data := data, valid := valid, due := due }] }

def execScheduledTokenSend (l : Lane) (valid : Bool) (data : BitVec 32) (t : Nat) (s : State) : Out :=
  act s fun b => (b.upTo t).sendScheduled l valid data

/-- xs_ready (R147): no send entry covers the next cycle, and the buffer has room or the receiver is fenced. -/
def Chip.laneReady (b : Chip) (l : Lane) (n : Nat) : Bool :=
  !b.slotNext l.r 1 (laneRes l) && ((b.region n).fenced || decide ((b.lane l).buffer.length < 4))

/-- UNSCHEDULED_TOKEN_SEND (R147): presented in this cycle, it takes the next sender cycle of the lane; it is delivered no earlier
than 3 receiver cycles later. -/
def Chip.sendUnscheduled (b : Chip) (l : Lane) (data : BitVec 32) : Chip :=
  match neighbor l.r l.side with
  | none => b
  | some n =>
    let c := b.isle l.r + 1
    if !b.fabricRuns l.r || !b.laneReady l n || !b.laneFree l c then b
    else if (b.region n).fenced then (b.modLane l fun x => { x with sent := some c }).count (0x2500 + l.r) 0x0A
    else
      let due := b.isle n + 3
      b.modLane l fun x =>
        { x with sent := some c, buffer := x.buffer ++ [{ data := data, valid := true, due := due }] }

def execUnscheduledTokenSend (l : Lane) (data : BitVec 32) (t : Nat) (s : State) : Out :=
  act s fun b => (b.upTo t).sendUnscheduled l data

/-- The token of the present receive slot of a lane. In a send slot in which nothing was presented a token marked not valid
was sent (R144). -/
def Chip.landedToken (b : Chip) (tx : Lane) (c : Nat) : Token :=
  ((b.lane tx).inFlight.find? fun k => k.due == c).getD { data := Config.idleToken b.free, valid := false, due := c }

/-- TOKEN_RELEASE (R144 to R146): the receive slot of the lane at the receiving region l.r, once in its cycle. -/
def Chip.releaseToken (b : Chip) (l : Lane) (landed : Bool) : Chip :=
  match senderOf l, b.slotAt l.r 2 (laneRes l) with
  | some tx, some x =>
    let c := b.isle l.r
    if !b.fabricRuns l.r || ((b.lane tx).delivered.any fun d => d.cycle == c) then b
    else if b.isArmed 0x2D62 1 l.r then
      ((b.applyArmed 0x2D62 1 l.r (evCode 3 6 l.r 0x101)).lateToken l).slotMiss l.r (b.slotMissInfo l.r 1 x) true
    else
      let g := b.region tx.r
      if g.fenced || g.unlock || g.unlockInj then
        (b.deliver l tx 0#32 false true).count (0x2500 + l.r) 9
      else if landed then
        let k := b.landedToken tx c
        b.tookFree.deliver l tx k.data k.valid false
      else (b.lateToken l).slotMiss l.r (b.slotMissInfo l.r 1 x) false
  | _, _ => b

def execTokenRelease (l : Lane) (landed : Bool) (t : Nat) (s : State) : Out :=
  act s fun b => (b.upTo t).releaseToken l landed

/-- UNSCHEDULED_TOKEN_DELIVERY (R147): in sending order, in a receiver cycle from the third after the token was sent that no
receive entry covers, one token in a cycle; a receiver held in reset loses the token. -/
def Chip.deliverUnscheduled (b : Chip) (l : Lane) : Chip :=
  match senderOf l with
  | none => b
  | some tx =>
    let g := b.region l.r
    let c := b.isle l.r
    match (b.lane tx).buffer with
    | k :: rest =>
      if !b.serving || g.fenced || g.halted || (b.region tx.r).fenced || (b.slotAt l.r 2 (laneRes l)).isSome ||
          decide (c < k.due) || ((b.lane tx).delivered.any fun d => d.cycle == c) then b
      else b.modLane tx fun x =>
        { x with
          buffer := rest
          delivered := if g.inReset then x.delivered
            else some { data := k.data, valid := true, poison := false, sched := false, cycle := c } }
    | [] => b

def execUnscheduledTokenDelivery (l : Lane) (t : Nat) (s : State) : Out :=
  act s fun b => (b.upTo t).deliverUnscheduled l

end Sys2Proof.Machine
end

