-- ==== Sys2Proof/Machine/Nets.lean ====
section
/-! DEFINITION. Regional clock nets, user resets and probe selects (R117 to R122, R126, R130 to R136). -/

namespace Sys2Proof.Machine

open Sys2Proof

/-- The record of a net in the present cycle. -/
def Chip.net (b : Chip) (r n : Nat) : Net := (b.regionNow r).net n
def Chip.modNet (b : Chip) (r n : Nat) (f : Net → Net) : Chip :=
  b.modRegion r fun g => { g with nets := Tab.mod {} g.nets n f }

/-- CLOCK_SWITCH (R120, R121, R136): clk_sel has a new value from this cycle on. The old input samples it at its next rising edge,
and while a switch is in progress nothing does. An armed stall holds the switch that it begins. -/
def Chip.clockSwitch (b : Chip) (r n : Nat) (sel : Bool) : Chip :=
  if !b.fabricRuns r || n == 0 then b
  else
    let b := b.settleRegion r false
    let x := (b.region r).net n
    let hold := x.switching.isNone && x.cur != sel && !x.hold && b.isArmed 0x2D10 n r
    let b := if hold then b.unarm 0x2D10 n r else b
    b.modNet r n fun x => { x with sel := sel, hold := x.hold || hold }

def execClockSwitch (r net : Nat) (sel : Bool) (t : Nat) (s : State) : Out :=
  act s fun b => (b.upTo t).clockSwitch r net sel

/-- CLOCK_SWITCH_COMPLETE (R120, R121): the second rising edge of the new input after the old one fell has come, and clk_cur shows
the new input. -/
def Chip.switchComplete (b : Chip) (r n : Nat) : Chip :=
  if b.fabricRuns r && n != 0 then b.settleRegion r true else b

def execClockSwitchComplete (r net t : Nat) (s : State) : Out :=
  act s fun b => (b.upTo t).switchComplete r net

/-- CLOCK_SWITCH_STALL (R121, R136): a switch that has not ended 64 net-0 cycles after it began raises the event once; one that
an injected stall held then completes. -/
def Chip.switchStall (b : Chip) (r n : Nat) : Chip :=
  if !b.fabricRuns r then b
  else
    let b := b.settleRegion r true
    match ((b.region r).net n).switching with
    | some w =>
      if w.stalled || decide (w.cycles < 64) then b
      else
        let code := evCode 3 1 r 1
        let b := b.logEvent (b.regionEv r code 3 w.injected n 0 0)
        if w.injected then
          (b.injected code).modNet r n fun x => { x with cur := w.sel, switching := none }
        else b.modNet r n fun x => { x with switching := some { w with stalled := true } }
    | none => b

def execClockSwitchStall (r net t : Nat) (s : State) : Out :=
  act s fun b => (b.upTo t).switchStall r net

/-- CLOCK_GATE_CHANGE (R122): clk_en has a new value from this cycle on, which the net's gate samples at the rising edges of its
multiplexer. -/
def Chip.gateChange (b : Chip) (r n : Nat) (en : Bool) : Chip :=
  if b.fabricRuns r && n != 0 then
    (b.settleRegion r false).modNet r n fun x => { x with enIn := en }
  else b

def execClockGateChange (r net : Nat) (en : Bool) (t : Nat) (s : State) : Out :=
  act s fun b => (b.upTo t).gateChange r net en

/-- USER_RESET (R126): the distribution register takes urst_in[n] at the edge that begins this cycle; the flip-flops that name the
net take INIT at the next edges of their own nets while it is 1. -/
def Chip.userReset (b : Chip) (r n : Nat) (v : Bool) : Chip :=
  if b.fabricRuns r then
    (b.settleRegion r true).modRegion r fun g =>
      { g with urst := if v then g.urst ||| (1#4 <<< n) else g.urst &&& ~~~(1#4 <<< n) }
  else b

def execUserReset (r n : Nat) (v : Bool) (t : Nat) (s : State) : Out :=
  act s fun b => (b.upTo t).userReset r n v

/-- PROBE_SELECT_WRITE (R131 to R134): the select takes the value. -/
def execProbeSelectWrite (q : Req) (idx sub v : Nat) (s : State) : Out :=
  act s fun b =>
    if idx = 0x2C20 ∨ 0x2C40 ≤ idx ∧ idx < 0x2C60 then
      b.writeRow q idx sub v fun b => .ok (b.setReg idx sub v)
    else b

end Sys2Proof.Machine
end

