-- ==== Sys2Proof/Machine/Memories.lean ====
section
/-! DEFINITION. Block memories and scratchpads: ports, collisions, bank arbitration, ECC, maintenance and dictionary access
(R156 to R177). A block memory word is kept as its 32 data bits below the sum (exclusive or) of its 8 upper bits and the
check bits of that data, so that a word written in ECC mode has upper bits 0. -/

namespace Sys2Proof.Machine

open Sys2Proof

/-! ### Words and codes -/

/-- The key of a block memory word (R173) and its parts. -/
def bmWordKey (m : BmSel) (addr : Nat) : Nat := bmKey m.r m.b m.m * 1024 + addr % 1024
def bmUnit (k : Nat) : Nat := k / 1024
def spWordKey (r i : Nat) : Nat := r * 65536 + i % 65536

/-- A number of bits that are 1. -/
def ones (n w : Nat) : Nat := (bitsOf n w).length

/-- What a code finds in an error pattern: none, a correction at a bit, or an uncorrectable error. -/
inductive Found where
  | clean
  | single (bit : Nat)
  | double
  deriving DecidableEq, Repr

/-- A single-error-correcting, double-error-detecting code on a pattern of w bits (R157, R164). -/
def eccFind (pattern addr w : Nat) : Found :=
  match ones pattern w with
  | 0 => .clean
  | 1 => .single ((bitsOf pattern w).headD 0)
  | 2 => .double
  | _ =>
    match Config.eccOutcome pattern addr with
    | 0 => .clean
    | 1 => .double
    | n + 2 => .single (n % w)

/-- The unit of a key is held in a record of undefined contents, and this word has not been written since (R403). -/
def Chip.undefIn (b : Chip) (u : MemUnit) (k : Nat) : Option Nat :=
  match b.mem.undef.find? fun x => x.1 == u with
  | some x => if x.2.2.contains k then none else some x.2.1
  | none => none

/-- A word has been written. -/
def Chip.noteWritten (b : Chip) (u : MemUnit) (k : Nat) : Chip :=
  match b.undefIn u k with
  | some _ => { b with mem := { b.mem with
      undef := b.mem.undef.map fun x => if x.1 == u then (x.1, x.2.1, k :: x.2.2) else x } }
  | none => b

def Chip.bmBypass (b : Chip) (k : Nat) : Bool := Tab.get false b.mem.bypass (bmUnit k)

def bmSelOf (k : Nat) : BmSel := ⟨k / 524288, k / 8192 % 64, k / 1024 % 8⟩

/-- The stored word of a key, without its flipped bits. -/
def Chip.bmStored (b : Chip) (k : Nat) : BitVec 40 :=
  match b.undefIn (.bm (bmSelOf k)) k with
  | some e => BitVec.setWidth 40 (BitVec.setWidth 32 (Config.undefinedWord e k))
  | none => Mem.get b.mem.bm k

def Chip.bmFlips (b : Chip) (k : Nat) : BitVec 40 × Bool := Tab.get (0#40, false) b.mem.bmErr k

def low32 (w : BitVec 40) : BitVec 32 := BitVec.setWidth 32 w
def high8 (w : BitVec 40) : BitVec 8 := BitVec.setWidth 8 (w >>> 32)
def join40 (hi : BitVec 8) (lo : BitVec 32) : BitVec 40 := hi ++ lo

/-- The 40 bits of a word as a bypass port sees them. -/
def bypassBits (w flips : BitVec 40) (addr : Nat) : BitVec 40 :=
  join40 (high8 w ^^^ Config.bmCheck (low32 w) addr) (low32 w) ^^^ flips

/-- The error pattern of a word in ECC mode: the sum with the code word of its data bits as they were stored. A word written in
bypass mode differs from that code word by its upper bits. -/
def bmPattern (w flips : BitVec 40) : BitVec 40 := join40 (high8 w) 0#32 ^^^ flips

/-- What the code finds in a word in ECC mode. -/
def Chip.bmFound (b : Chip) (k : Nat) : Found := eccFind (bmPattern (b.bmStored k) (b.bmFlips k).1).toNat k 40

/-- The data bits as stored, and corrected at a bit. -/
def bitsWith (w flips : BitVec 40) : BitVec 32 := low32 (w ^^^ flips)
def corrected (d : BitVec 32) (bit : Nat) : BitVec 32 := if bit < 32 then d ^^^ (1#32 <<< bit) else d

/-- Store a word, as its port drives it; flipped bits go, and an injection not yet applied is removed (R177). -/
def Chip.bmStore (b : Chip) (k : Nat) (d : BitVec 40) : Chip :=
  let w := if b.bmBypass k then join40 (high8 d ^^^ Config.bmCheck (low32 d) (k % 1024)) (low32 d)
    else BitVec.setWidth 40 (low32 d)
  let b := b.noteWritten (.bm (bmSelOf k)) k
  ({ b with mem := { b.mem with
      bm := Mem.set b.mem.bm k w
      bmErr := Tab.drop (fun i => i == k) b.mem.bmErr } }).unarmAt 0x2D20 k

/-! ### Detections (R162, R163) -/

/-- A word and a bit are recorded in 0x25ii:17 and :18. -/
def Chip.noteError (b : Chip) (r addr bit : Nat) (hard : Bool) : Chip :=
  (b.setReg (0x2500 + r) 0x17 addr).setReg (0x2500 + r) 0x18 (bit + flag hard 15)

/-- A correction: counted and logged (R162, R167); reader 0 fabric, 1 bit-set or bit-clear, 2 scrub, 3 dictionary. -/
def Chip.memCorrection (b : Chip) (r space addr bit reader key : Nat) (inj : Bool) : Chip :=
  let code := evCode 1 2 r (1 + space)
  let b := (b.count (0x2500 + r) (0x14 + space)).noteError r addr bit false
  let b := b.logEvent (b.regionEv r code 2 inj addr (bit + reader * 65536) 0)
  if inj then b.applyAt 0x2D20 key code else b

/-- An uncorrectable word (R163): a region with a committed configuration is fenced. -/
def Chip.uncorrectable (b : Chip) (r space addr bit reader key : Nat) (inj : Bool) : Chip :=
  let b := b.noteError r addr bit true
  let conf := (b.regionPart r).isSome
  let code := if conf then evCode 3 2 r (1 + space) else evCode 1 2 r 4
  let e := b.regionEv r code (if conf then 4 else 3) inj addr (bit + 0x8000 + reader * 65536) 0
  let b := if conf then b.fence r e else b.logEvent e
  if inj then b.applyAt 0x2D20 key code else b

/-- The address of a block memory word in the layout of R173. -/
def bmAddress (k : Nat) : Nat := k % 524288
def spAddress (k : Nat) : Nat := 2 ^ 31 + k % 65536

/-- The one-entry demand register of a memory takes an address while it is empty (R162). -/
def Chip.demandTake (b : Chip) (sp : Bool) (unit k : Nat) : Chip :=
  if sp then
    if (Tab.get none b.mem.demandSp unit).isNone then
      { b with mem := { b.mem with demandSp := Tab.set b.mem.demandSp unit (some k) } }
    else b
  else if (Tab.get none b.mem.demandBm unit).isNone then
    { b with mem := { b.mem with demandBm := Tab.set b.mem.demandBm unit (some k) } }
  else b

/-- A read of a block memory word by a reader: data, corrected, error, and the device after its detections. -/
def Chip.bmRead (b : Chip) (k reader : Nat) : Chip × BitVec 40 × Bool × Bool :=
  let w := b.bmStored k
  let f := b.bmFlips k
  let r := k / 524288
  if b.bmBypass k then (b, bypassBits w f.1 (k % 1024), false, false)
  else
    let d := bitsWith w f.1
    match b.bmFound k with
    | .clean => (b, BitVec.setWidth 40 d, false, false)
    | .single n =>
      let b := b.demandTake false (bmUnit k) k
      (b.memCorrection r 0 (bmAddress k) n reader k f.2, BitVec.setWidth 40 (corrected d n), true, false)
    | .double =>
      (b.uncorrectable r 0 (bmAddress k) (Config.reportedBit f.1.toNat % 40) reader k f.2, BitVec.setWidth 40 d, false, true)

/-! ### Block memory ports (R156 to R161) -/

def Chip.bmState (b : Chip) (u : Nat) : BmState := Tab.get {} b.mem.bmState u
def Chip.modBm (b : Chip) (u : Nat) (f : BmState → BmState) : Chip :=
  { b with mem := { b.mem with bmState := Tab.mod {} b.mem.bmState u f } }

/-- A bit-set or bit-clear. -/
def BmOp.rmw : BmOp → Bool
  | .set | .clear => true
  | _ => false

/-- The last access of a port of a block memory, and its output. -/
def BmState.last (x : BmState) : BmPort → Option BmAccess
  | .a => x.lastA
  | .b => x.lastB
def BmState.out (x : BmState) : BmPort → List PortOut
  | .a => x.outA
  | .b => x.outB
def BmState.setLast (x : BmState) (p : BmPort) (a : Option BmAccess) : BmState :=
  match p with
  | .a => { x with lastA := a }
  | .b => { x with lastB := a }
def BmState.setOut (x : BmState) (p : BmPort) (o : List PortOut) : BmState :=
  match p with
  | .a => { x with outA := o }
  | .b => { x with outB := o }
def otherPort : BmPort → BmPort
  | .a => .b
  | .b => .a

/-- The results of a port with one more; those of cycles before c are over. -/
def addOut (l : List PortOut) (c : Nat) (o : PortOut) : List PortOut := l.filter (fun x => decide (c ≤ x.at_)) ++ [o]

/-- The result that is shown in cycle c, if there is one. -/
def outIn (l : List PortOut) (c : Nat) : Option PortOut := l.find? fun x => x.at_ == c

/-- An on-demand test holds the memory (R171, R402). -/
def Chip.underTest (b : Chip) (u : MemUnit) : Bool :=
  match b.test.onDemand with
  | some o => o.units.contains u
  | none => false

/-- The port takes an access in this cycle: not in the second cycle of its bit-set or bit-clear, nor twice in one. -/
def Chip.bmFree (b : Chip) (u : Nat) (p : BmPort) (c : Nat) : Bool :=
  match (b.bmState u).last p with
  | some x => !(x.cyc == c || (x.op.rmw && x.cyc + 1 == c))
  | none => true

/-- The other port's access that meets an access to this word in cycle c. -/
def Chip.bmMeets (b : Chip) (u : Nat) (p : BmPort) (addr c : Nat) : Option BmAccess :=
  match (b.bmState u).last (otherPort p) with
  | some x =>
    if x.addr = addr ∧ x.cancelled = false ∧ (x.cyc = c ∨ (x.op.rmw = true ∧ x.cyc + 1 = c)) then some x else none
  | none => none

/-- An access lands its write in cycle c: a write of c, or the write-back of a bit-set or bit-clear of c − 1. -/
def BmAccess.lands (x : BmAccess) (c : Nat) : Bool := (x.op == .write && x.cyc == c) || (x.op.rmw && x.cyc + 1 == c)

/-- Data that a collision made undefined (R160): a free value. -/
def Chip.collided (b : Chip) (k : Nat) : Chip × BitVec 40 :=
  let d := Config.collisionData b.free
  (b.tookFree, if b.bmBypass k then d else BitVec.setWidth 40 (low32 d))

/-- The word goes back to what it was before an access that is discarded or cancelled. -/
def Chip.bmUndo (b : Chip) (k : Nat) (x : BmAccess) : Chip :=
  { b with mem := { b.mem with
      bm := Mem.set b.mem.bm k x.old
      bmErr := if x.oldErr.1 = 0#40 then Tab.drop (fun i => i == k) b.mem.bmErr else Tab.set b.mem.bmErr k x.oldErr } }

/-- The result of an access of cycle c changes before it is shown. -/
def BmState.changeOut (x : BmState) (p : BmPort) (c : Nat) (f : PortOut → PortOut) : BmState :=
  x.setOut p ((x.out p).map fun o => if o.at_ = c + 2 then f o else o)

/-- Port B's access is discarded or cancelled: its result shows bm_busy_b, and a write is counted once (R160). -/
def Chip.bLoses (b : Chip) (u k : Nat) (x : BmAccess) (cancel : Bool) : Chip :=
  let r := k / 524288
  let spoil := cancel && x.op.rmw
  let (b, d) := if spoil then b.collided k else (b, 0#40)
  let b := if x.op = .read then b else b.count (0x2500 + r) 0x13
  b.modBm u fun s =>
    { s with lastB := some { x with cancelled := true } }.changeOut .b x.cyc fun o =>
      { o with data := if spoil then BitVec.setWidth 256 d else o.data, coll := true }

/-- A plain read of port p in cycle c becomes undefined (R160 rule 1). -/
def Chip.readSpoiled (b : Chip) (u k : Nat) (p : BmPort) (c : Nat) : Chip :=
  let (b, d) := b.collided k
  b.modBm u fun s => s.changeOut p c fun o =>
    { o with data := BitVec.setWidth 256 d, coll := true, cor := false, err := false }

/-- The result that an access of a port in cycle c gives: it is shown two cycles later (R159). -/
def Chip.bmOut (b : Chip) (u : Nat) (p : BmPort) (c : Nat) (d : BitVec 40) (cor err coll uut valid : Bool) : Chip :=
  b.modBm u fun s =>
    s.setOut p (addOut (s.out p) c { data := BitVec.setWidth 256 d, cor, err, uut, coll, valid, at_ := c + 2 })

/-- The record of an access. -/
def Chip.bmNote (b : Chip) (u : Nat) (p : BmPort) (c addr : Nat) (op : BmOp) (old : BitVec 40)
    (oe : BitVec 40 × Bool) (cancelled : Bool) : Chip :=
  b.modBm u fun s => s.setLast p (some { cyc := c, op, addr, old, oldErr := oe, cancelled })

/-- A word before the other port's access of this cycle. -/
def Chip.bmWithOld (b : Chip) (k : Nat) (y : BmAccess) (f : Chip → Chip × BitVec 40 × Bool × Bool) :
    Chip × BitVec 40 × Bool × Bool :=
  let now := b.mem.bm
  let err := b.mem.bmErr
  let (b', d) := f (b.bmUndo k y)
  ({ b' with mem := { b'.mem with bm := now, bmErr := err } }, d)

/-- A maintenance write of cycle c to the word meets an access of port A (R160, R168): the write gives way to a write, a bit-set
or a bit-clear. -/
def Chip.maintMeets (b : Chip) (u addr c : Nat) : Option BmAccess :=
  match (b.bmState u).maint with
  | some x => if x.addr = addr ∧ x.cyc = c ∧ x.op = .write then some x else none
  | none => none

/-- What a port-A access does to a maintenance write that it meets. -/
def Chip.maintLoses (b : Chip) (u k addr c : Nat) : Chip :=
  match b.maintMeets u addr c with
  | some x => (b.bmUndo k x).modBm u fun s => { s with maint := some { x with cancelled := true } }
  | none => b

/-- A read at a port (R159, R160); spoiled: a command that waits writes the word through the other port in this cycle. -/
def Chip.bmPortRead (b : Chip) (m : BmSel) (p : BmPort) (addr c : Nat) (spoiled : Bool) : Chip :=
  let k := bmWordKey m addr
  let u := bmUnit k
  let old := b.bmStored k
  let oe := b.bmFlips k
  let undefined := fun (b : Chip) =>
    let (b, d) := b.collided k
    (b.bmOut u p c d false false true false true).bmNote u p c addr .read old oe false
  let plain := fun (b : Chip) =>
    let (b, d, cor, err) := b.bmRead k 0
    (b.bmOut u p c d cor err false false true).bmNote u p c addr .read old oe false
  match b.bmMeets u p addr c with
  | some y =>
    if y.lands c then undefined b
    else if y.op.rmw then
      let (b, d, cor, err) := b.bmWithOld k y fun b => b.bmRead k 0
      (b.bmOut u p c d cor err false false true).bmNote u p c addr .read old oe false
    else plain b
  | none => if spoiled || (p == .a && (b.maintMeets u addr c).isSome) then undefined b else plain b

/-- The result of a port-B access that writes nothing. -/
def Chip.bDiscarded (b : Chip) (u r addr c : Nat) (op : BmOp) (k : Nat) : Chip :=
  let old := b.bmStored k
  let oe := b.bmFlips k
  let (b, d) := if op.rmw then b.collided k else (b, 0#40)
  ((b.count (0x2500 + r) 0x13).bmOut u .b c d false false true false op.rmw).bmNote u .b c addr op old oe true

/-- A write at a port (R159, R160). -/
def Chip.bmPortWrite (b : Chip) (m : BmSel) (p : BmPort) (addr c : Nat) (d : BitVec 40) : Chip :=
  let k := bmWordKey m addr
  let u := bmUnit k
  let store := fun (b : Chip) =>
    let b := b.maintLoses u k addr c
    let old := b.bmStored k
    let oe := b.bmFlips k
    ((b.bmStore k d).bmOut u p c 0#40 false false false false false).bmNote u p c addr .write old oe false
  match b.bmMeets u p addr c with
  | none => store b
  | some y =>
    if y.op = .read then
      store (if ((b.bmState u).out (otherPort p)).any (fun o => o.at_ == c + 2 && o.coll) then b
        else b.readSpoiled u k (otherPort p) c)
    else if p = .b then b.bDiscarded u m.r addr c .write k
    else store (b.bLoses u k y (y.cyc == c))

/-- A bit-set or bit-clear at a port (R160, R161): the old word is returned; an uncorrectable word is not written. -/
def Chip.bmPortRmw (b : Chip) (m : BmSel) (p : BmPort) (addr c : Nat) (op : BmOp) (mask : BitVec 40) : Chip :=
  let k := bmWordKey m addr
  let u := bmUnit k
  let run := fun (b : Chip) =>
    let b := b.maintLoses u k addr c
    let old := b.bmStored k
    let oe := b.bmFlips k
    let (b, d, cor, err) := b.bmRead k 1
    let n := if op = .set then d ||| mask else d &&& ~~~mask
    let b := if err then b else b.bmStore k n
    (b.bmOut u p c d cor err false false true).bmNote u p c addr op old oe false
  match b.bmMeets u p addr c with
  | none => run b
  | some y =>
    if y.op = .read then run b
    else if p = .b then b.bDiscarded u m.r addr c op k
    else run ((b.bmUndo k y).bLoses u k y (y.cyc == c))

/-- The result of an access to a memory under test (R171): data 0, discarded, counted. -/
def Chip.bmTested (b : Chip) (m : BmSel) (p : BmPort) (c : Nat) : Chip :=
  (b.count (0x2500 + m.r) 0x1E).bmOut (bmKey m.r m.b m.m) p c 0#40 false false false true true

/-- The cycle of a block memory at the present tick, and whether its clock runs and its block presents accesses. -/
def Chip.bmCycle (b : Chip) (m : BmSel) : Nat := b.netCycle m.r (Tab.get 0 b.mem.bmNet (bmKey m.r m.b m.m))
def Chip.bmRuns (b : Chip) (m : BmSel) : Bool :=
  b.blockRuns m.r m.b && b.netRuns m.r (Tab.get 0 b.mem.bmNet (bmKey m.r m.b m.m))

/-- An access at a block memory port: the block runs, its net passes edges, and the port is ready (R158). -/
def Chip.bmAccess (b : Chip) (m : BmSel) (p : BmPort) (f : Chip → Nat → Chip) : Chip :=
  let c := b.bmCycle m
  if !b.bmRuns m || !b.bmFree (bmKey m.r m.b m.m) p c then b
  else if b.underTest (.bm m) then b.bmTested m p c
  else f b c

/-- A command that waits writes word addr of block memory m through the other port than p in cycle c. -/
def Chip.writesToo (b : Chip) (m : BmSel) (p : BmPort) (addr c : Nat) (x : Instr) : Bool :=
  match x with
  | .bmWrite m' p' a' _ t =>
    m' == m && p' == otherPort p && a' == addr && b.bmFree (bmKey m.r m.b m.m) p' c && (b.upTo t).bmCycle m == c
  | _ => false

/-- A read meets a write of the same word in its cycle whichever of the two commands comes first (R160). -/
def execBmRead (m : BmSel) (port : BmPort) (addr t : Nat) (s : State) : Out :=
  act s fun b => (b.upTo t).bmAccess m port fun b c =>
    b.bmPortRead m port addr c (s.pending.any (b.writesToo m port addr c))

def execBmWrite (m : BmSel) (port : BmPort) (addr : Nat) (data : BitVec 40) (t : Nat) (s : State) : Out :=
  act s fun b => (b.upTo t).bmAccess m port fun b c => b.bmPortWrite m port addr c data

def execBmBitSet (m : BmSel) (port : BmPort) (addr : Nat) (mask : BitVec 40) (t : Nat) (s : State) : Out :=
  act s fun b => (b.upTo t).bmAccess m port fun b c => b.bmPortRmw m port addr c .set mask

def execBmBitClear (m : BmSel) (port : BmPort) (addr : Nat) (mask : BitVec 40) (t : Nat) (s : State) : Out :=
  act s fun b => (b.upTo t).bmAccess m port fun b c => b.bmPortRmw m port addr c .clear mask

/-! ### Scratchpad (R164 to R167) -/

def bankKey (r k : Nat) : Nat := r * 16 + k
def portKey (r p : Nat) : Nat := r * 8 + p

def Chip.spStored (b : Chip) (k : Nat) : BitVec 256 :=
  match b.undefIn (.spBank (k / 65536) (k % 16)) k with
  | some e => Config.undefinedWord e k
  | none => Mem.get b.mem.sp k

def Chip.spFlips (b : Chip) (k : Nat) : BitVec 288 × Bool := Tab.get (0#288, false) b.mem.spErr k

/-- The 72 flipped bits of the code word of lane j. -/
def laneFlips (f : BitVec 288) (j : Nat) : Nat := field f.toNat (72 * j) 72

/-- The data bits of a word with the flips of its lanes. -/
def spBits (w : BitVec 256) (f : BitVec 288) : BitVec 256 :=
  (List.range 4).foldl (fun x j => x ^^^ (BitVec.ofNat 256 (laneFlips f j % 2 ^ 64) <<< (64 * j))) w

/-- One lane of a read: its detection and its data. -/
def Chip.spLane (k reader : Nat) (x : Chip × BitVec 256 × Bool × Bool) (j : Nat) : Chip × BitVec 256 × Bool × Bool :=
  let (b, d, cor, err) := x
  let f := b.spFlips k
  let r := k / 65536
  match eccFind (laneFlips f.1 j) k 72 with
  | .clean => x
  | .single n =>
    let b := (b.demandTake true (bankKey r (k % 16)) k).memCorrection r 1 (spAddress k) (72 * j + n) reader (2 ^ 32 + k) f.2
    (b, if n < 64 then d ^^^ (1#256 <<< (64 * j + n)) else d, true, err)
  | .double =>
    (b.uncorrectable r 1 (spAddress k) (72 * j + Config.reportedBit (laneFlips f.1 j) % 72) reader (2 ^ 32 + k) f.2, d, cor, true)

/-- A read of a scratchpad word by a reader. -/
def Chip.spRead (b : Chip) (k reader : Nat) : Chip × BitVec 256 × Bool × Bool :=
  [0, 1, 2, 3].foldl (Chip.spLane k reader) (b, spBits (b.spStored k) (b.spFlips k).1, false, false)

/-- The bits of a 288-bit column word that belong to the lanes of a mask. -/
def laneMask288 (lanes : BitVec 4) : BitVec 288 :=
  (List.range 4).foldl (fun x j =>
    if lanes.getLsbD j then x ||| (BitVec.setWidth 288 (BitVec.allOnes 72) <<< (72 * j)) else x) 0#288
def laneMask256 (lanes : BitVec 4) : BitVec 256 :=
  (List.range 4).foldl (fun x j =>
    if lanes.getLsbD j then x ||| (BitVec.setWidth 256 (BitVec.allOnes 64) <<< (64 * j)) else x) 0#256

/-- Store the enabled lanes of a word; their flipped bits go, and an injection of a word without flips is removed. -/
def Chip.spStore (b : Chip) (k : Nat) (lanes : BitVec 4) (d : BitVec 256) : Chip :=
  let m := laneMask256 lanes
  let w := (b.spStored k &&& ~~~m) ||| (d &&& m)
  let f := b.spFlips k
  let g := f.1 &&& ~~~(laneMask288 lanes)
  let b := b.noteWritten (.spBank (k / 65536) (k % 16)) k
  let b := { b with mem := { b.mem with
    sp := Mem.set b.mem.sp k w
    spErr := if g = 0#288 then Tab.drop (fun i => i == k) b.mem.spErr else Tab.set b.mem.spErr k (g, f.2) } }
  if g = 0#288 then b.unarmAt 0x2D20 (2 ^ 32 + k) else b

def Chip.spPort (b : Chip) (r p : Nat) : SpPort := Tab.get {} b.mem.ports (portKey r p)
def Chip.modSpPort (b : Chip) (r p : Nat) (f : SpPort → SpPort) : Chip :=
  { b with mem := { b.mem with ports := Tab.mod {} b.mem.ports (portKey r p) f } }
def Chip.spServed (b : Chip) (r k : Nat) : Option (SpAccess × Nat × BitVec 256 × (BitVec 288 × Bool)) :=
  (Tab.get {} b.mem.banks (bankKey r k)).served

/-- The bank of a word index (R164). -/
def spBankOf (addr : Nat) : Nat := addr % 16

/-- The order of R166 in cycle c: class, age, port. -/
def SpAccess.rank (a : SpAccess) (c : Nat) : Nat :=
  ((if a.sched then (if a.cyc = c then 0 else 1) else 2) * 2 ^ 64 + a.cyc) * 8 + a.port

/-- An access wins its bank in cycle c: its result is shown 3 cycles later (R167), and a port whose held access wins is ready
again in the next cycle (R166). -/
def Chip.spServe (b : Chip) (r : Nat) (a : SpAccess) (c : Nat) : Chip :=
  let k := spWordKey r a.addr
  let old := b.spStored k
  let oe := b.spFlips k
  let free := fun (p : SpPort) => { p with held := none, freed := if a.cyc < c then some c else p.freed }
  let b := if a.we then (b.spStore k a.lanes a.data).modSpPort r a.port free
    else
      let (b, d, cor, err) := b.spRead k 0
      b.modSpPort r a.port fun p =>
        { free p with out := addOut p.out c { data := d, cor, err, valid := true, at_ := c + 3 } }
  { b with mem := { b.mem with
      banks := Tab.mod {} b.mem.banks (bankKey r (spBankOf a.addr)) fun x => { x with served := some (a, c, old, oe) } } }

/-- An access loses its bank: it is held, an unscheduled one counts a stall cycle, and one that is presented as scheduled
in this cycle within a slot is a miss with cause 2 (R90, R166). -/
def Chip.spLose (b : Chip) (r : Nat) (a : SpAccess) (c : Nat) : Chip :=
  let b := b.modSpPort r a.port fun p => { p with held := some a, tried := c }
  if !a.sched then b.count (0x2500 + r) 0x16
  else if a.cyc = c then
    match b.slotAt r 3 (spBankOf a.addr) with
    | some x => b.slotMiss r (b.slotMissInfo r 2 x) false
    | none => b
  else b

/-- Undo of the access that a better one displaces in the same cycle. -/
def Chip.spUndo (b : Chip) (r : Nat) (a : SpAccess) (c : Nat) (old : BitVec 256) (oe : BitVec 288 × Bool) : Chip :=
  let k := spWordKey r a.addr
  let b := b.modSpPort r a.port fun p => { p with out := p.out.filter fun o => o.at_ != c + 3 }
  if a.we then
    { b with mem := { b.mem with
        sp := Mem.set b.mem.sp k old
        spErr := if oe.1 = 0#288 then Tab.drop (fun i => i == k) b.mem.spErr else Tab.set b.mem.spErr k oe } }
  else b

/-- An access competes for its bank in cycle c (R166). -/
def Chip.spCompete (b : Chip) (r : Nat) (a : SpAccess) (c : Nat) : Chip :=
  match b.spServed r (spBankOf a.addr) with
  | some (z, cz, old, oe) =>
    if cz ≠ c then b.spServe r a c
    else if a.rank c < z.rank c then ((b.spUndo r z c old oe).spServe r a c).spLose r z c
    else b.spLose r a c
  | none => b.spServe r a c

/-- A scheduled access outside every slot of its bank is a miss with cause 3; an armed injection of cause 2 applies at the
next covered cycle (R90, R106). -/
def Chip.spCheck (b : Chip) (r bank : Nat) (sched : Bool) : Chip :=
  match b.slotAt r 3 bank with
  | some x =>
    if b.isArmed 0x2D62 2 r then
      (b.applyArmed 0x2D62 2 r (evCode 3 6 r 0x102)).slotMiss r (b.slotMissInfo r 2 x) true
    else b
  | none => if sched then b.slotMiss r (b.looseMissInfo r 3 bank 0) false else b

/-- A port is ready in cycle c: it holds no access from an earlier cycle, and none that wins in this one (R165, R166). -/
def SpPort.ready (p : SpPort) (c : Nat) : Bool :=
  (match p.held with
    | some a => a.cyc == c
    | none => true) && p.freed != some c

/-- The port takes an access that is presented in cycle c: it is ready, and none has been presented in the cycle. -/
def SpPort.takes (p : SpPort) (c : Nat) : Bool := p.held.isNone && p.freed != some c && p.taken != some c

/-- An access presented at a scratchpad port (R165, R166, R171). -/
def Chip.spPresent (b : Chip) (r port addr : Nat) (we : Bool) (lanes : BitVec 4) (data : BitVec 256) (sched : Bool) :
    Chip :=
  let c := b.isle r
  if !b.fabricRuns r || !(b.spPort r port).takes c then b
  else if b.underTest (.spBank r (spBankOf addr)) then
    (b.count (0x2500 + r) 0x1E).modSpPort r port fun p =>
      { p with taken := some c, out := addOut p.out c { uut := true, valid := !we, at_ := c + 3 } }
  else
    let b := b.spCheck r (spBankOf addr) sched
    if b.fabricRuns r then
      (b.modSpPort r port fun p => { p with taken := some c }).spCompete r { port, we, lanes, addr, data, sched, cyc := c } c
    else b

/-- SP_STALL_RETRY (R166): a held access competes again, once in a later cycle. -/
def Chip.spRetry (b : Chip) (r port : Nat) : Chip :=
  let c := b.isle r
  match (b.spPort r port).held with
  | some a =>
    if b.fabricRuns r && decide ((b.spPort r port).tried < c) then b.spCompete r a c else b
  | none => b

/-- The access that a command presents, or presents again, at the scratchpad of region r in cycle c. -/
def Chip.spWaiting (b : Chip) (r c : Nat) (x : Instr) : Option SpAccess :=
  let fresh := fun (a : SpAccess) (t : Nat) =>
    if (b.upTo t).isle r = c ∧ (b.spPort r a.port).takes c = true then some a else none
  match x with
  | .spRead r' port addr sched t =>
    if r' = r then fresh { port, we := false, lanes := 0#4, addr, data := 0#256, sched, cyc := c } t else none
  | .spWrite r' port addr lanes data sched t =>
    if r' = r then fresh { port, we := true, lanes, addr, data, sched, cyc := c } t else none
  | .spStallRetry r' port t =>
    if r' = r ∧ (b.upTo t).isle r = c ∧ (b.spPort r port).tried < c then (b.spPort r port).held else none
  | _ => none

/-- An access goes to its bank: presented in this cycle, or again. -/
def Chip.spRun (b : Chip) (r : Nat) (a : SpAccess) : Chip :=
  if a.cyc = b.isle r then b.spPresent r a.port a.addr a.we a.lanes a.data a.sched else b.spRetry r a.port

/-- Accesses in the order of R166. -/
def insertRank (c : Nat) (x : SpAccess) : List SpAccess → List SpAccess
  | [] => [x]
  | y :: l => if x.rank c < y.rank c then x :: y :: l else y :: insertRank c x l

/-- The accesses of waiting commands to the bank of word addr in cycle c that come before rank n, best first. -/
def Chip.spBefore (b : Chip) (r addr n c : Nat) (l : List Instr) : List SpAccess :=
  (l.filterMap (b.spWaiting r c)).foldl (fun acc y =>
    if spBankOf y.addr = spBankOf addr ∧ y.rank c < n then insertRank c y acc else acc) []

/-- An access and those of waiting commands that its bank serves before it in this cycle (R166); their commands then find them
done. -/
def Chip.spTogether (b : Chip) (r : Nat) (a : SpAccess) (l : List Instr) : Chip :=
  let c := b.isle r
  ((b.spBefore r a.addr (a.rank c) c l).foldl (fun b y => b.spRun r y) b).spRun r a

def execSpRead (r port addr : Nat) (sched : Bool) (t : Nat) (s : State) : Out :=
  act s fun b =>
    let b := b.upTo t
    b.spTogether r { port, we := false, lanes := 0#4, addr, data := 0#256, sched, cyc := b.isle r } s.pending

def execSpWrite (r port addr : Nat) (lanes : BitVec 4) (data : BitVec 256) (sched : Bool) (t : Nat) (s : State) : Out :=
  act s fun b =>
    let b := b.upTo t
    b.spTogether r { port, we := true, lanes, addr, data, sched, cyc := b.isle r } s.pending

def execSpStallRetry (r port t : Nat) (s : State) : Out :=
  act s fun b =>
    let b := b.upTo t
    match (b.spPort r port).held with
    | some a => b.spTogether r a s.pending
    | none => b

/-! ### Maintenance (R162, R168) -/

/-- The island clock of a region passes edges: not in SAFE, under a fence or in a debug halt (R26, R27, R444). -/
def Chip.islandTurns (b : Chip) (r : Nat) : Bool := b.serving && !(b.region r).fenced && !(b.region r).halted

/-- The present cycle of a block memory is a maintenance cycle: port B is free, and no maintenance access has taken it. -/
def Chip.bmMaintenance (b : Chip) (m : BmSel) : Bool :=
  let u := bmKey m.r m.b m.m
  let c := b.bmCycle m
  b.islandTurns m.r && b.netRuns m.r (Tab.get 0 b.mem.bmNet u) && b.bmFree u .b c &&
    match (b.bmState u).maint with
    | some x => x.cyc != c
    | none => true

/-- The present cycle of a bank is a maintenance cycle. -/
def Chip.spMaintenance (b : Chip) (r k : Nat) : Bool :=
  let x : SpBank := Tab.get {} b.mem.banks (bankKey r k)
  b.islandTurns r && x.maint != some (b.isle r) &&
    match x.served with
    | some (_, c, _) => c != b.isle r
    | none => true

/-- The corrected word of a block memory goes back: a single wrong bit is repaired. -/
def Chip.bmRepair (b : Chip) (k : Nat) : Chip :=
  match b.bmFound k with
  | .single n =>
    let d := corrected (bitsWith (b.bmStored k) (b.bmFlips k).1) n
    { b with mem := { b.mem with
        bm := Mem.set b.mem.bm k (BitVec.setWidth 40 d)
        bmErr := Tab.drop (fun i => i == k) b.mem.bmErr } }
  | _ => b

/-- The corrected lanes of a scratchpad word go back. -/
def Chip.spRepair (b : Chip) (k : Nat) : Chip :=
  let f := b.spFlips k
  let g := (List.range 4).foldl (fun (x : BitVec 288) j =>
    match eccFind (laneFlips f.1 j) k 72 with
    | .single _ => x &&& ~~~(BitVec.setWidth 288 (BitVec.allOnes 72) <<< (72 * j))
    | _ => x) f.1
  { b with mem := { b.mem with
      spErr := if g = 0#288 then Tab.drop (fun i => i == k) b.mem.spErr else Tab.set b.mem.spErr k (g, f.2) } }

/-- A maintenance access to a block memory word in the present cycle, with the word before it (R168). -/
def Chip.bmMaint (b : Chip) (m : BmSel) (k : Nat) (op : BmOp) (f : Chip → Chip) : Chip :=
  let c := b.bmCycle m
  let x : BmAccess := { cyc := c, op, addr := k % 1024, old := b.bmStored k, oldErr := b.bmFlips k }
  (f b).modBm (bmKey m.r m.b m.m) fun s => { s with maint := some x }

/-- A maintenance write in the present cycle (R160, R168): port A's write, bit-set or bit-clear of the word discards it, and
port A's plain read of it becomes undefined. -/
def Chip.bmMaintWrite (b : Chip) (m : BmSel) (k : Nat) (f : Chip → Chip) : Chip :=
  let c := b.bmCycle m
  let u := bmKey m.r m.b m.m
  match (b.bmState u).lastA with
  | some x =>
    if x.addr = k % 1024 ∧ x.cancelled = false ∧ (x.cyc = c ∨ (x.op.rmw = true ∧ x.cyc + 1 = c)) then
      if x.op = .read then (b.readSpoiled u k .a c).bmMaint m k .write f
      else b.bmMaint m k .read id
    else b.bmMaint m k .write f
  | none => b.bmMaint m k .write f

def Chip.spMaint (b : Chip) (r bank : Nat) : Chip :=
  let c := b.isle r
  { b with mem := { b.mem with
      banks := Tab.mod {} b.mem.banks (bankKey r bank) fun x => { x with maint := some c } } }

/-- A demand register gives up its address; a word written since has no flipped bits left to repair (R168). -/
def Chip.demandBack (b : Chip) (u : MemUnit) : Chip :=
  match u with
  | .bm m =>
    let k := bmKey m.r m.b m.m
    match Tab.get none b.mem.demandBm k with
    | some w =>
      if b.bmMaintenance m then
        let b := b.bmMaintWrite m w fun b => b.bmRepair w
        { b with mem := { b.mem with demandBm := Tab.set b.mem.demandBm k none } }
      else b
    | none => b
  | .spBank r bk =>
    match Tab.get none b.mem.demandSp (bankKey r bk) with
    | some w =>
      if b.spMaintenance r bk then
        let b := (b.spRepair w).spMaint r bk
        { b with mem := { b.mem with demandSp := Tab.set b.mem.demandSp (bankKey r bk) none } }
      else b
    | none => b
  | _ => b

/-! ### The dictionary's access (R171, R173 to R175) -/

/-- The power-up self-test holds the memories (R171, R374). -/
def Chip.testHoldsAll (b : Chip) : Bool := b.test.st == 1

/-- The units that a transfer of n words from address a touches. -/
def transferUnits (r a n : Nat) : List MemUnit :=
  if a < 2 ^ 31 then [MemUnit.bm ⟨r, field a 13 6, field a 10 3⟩]
  else (List.range n).map fun i => MemUnit.spBank r ((field a 0 16 + i) % 16)

/-- The checks of a transfer: 0 where it is accepted (R171, R175). -/
def Chip.transferCheck (b : Chip) (r a n : Nat) : Nat :=
  let sp := decide (2 ^ 31 ≤ a)
  if b.testHoldsAll || (transferUnits r a n).any b.underTest then 0x08000020
  else if n = 0 ∨ (if sp then 8 else 64) < n then 0x06090030
  else if (if sp then decide (65536 < field a 0 16 + n) else decide (1024 < field a 0 10 + n)) then 0x06090030
  else 0

/-- A refused access to a memory under test is counted (R171). -/
def Chip.transferRefused (b : Chip) (r a : Nat) : Chip :=
  if a = 0x08000020 then b.count (0x2500 + r) 0x1E else b

/-- The address after n words (R175). -/
def nextAddress (a n : Nat) : Nat :=
  if a < 2 ^ 31 then (a + n) % 2 ^ 19 else 2 ^ 31 + (a + n) % 65536

/-- Bytes of a word of a transfer. -/
def Chip.wordBytes (b : Chip) (r a : Nat) : Nat :=
  if 2 ^ 31 ≤ a then 32 else if b.bmBypass (r * 524288 + a % 524288) then 8 else 4

/-- The tick at which the next cycle of a block memory's net begins, while the net is as it is. -/
def Chip.nextNetTick (b : Chip) (r n : Nat) : Nat :=
  let g := b.regionNow r
  let p := g.netPeriod n
  let c := b.isle r
  b.isleTick r (if n = 0 then c + 1 else c + p - (c - g.divStart) % p)

/-- A dictionary access waits for a maintenance cycle of its memory: the next cycle, where the present one is none. A memory
whose clock is stopped has no fabric access to wait for (log entry 129). -/
def Chip.awaitMaintenance (b : Chip) (r a : Nat) : Chip :=
  if !b.islandTurns r then b
  else if 2 ^ 31 ≤ a then
    if b.spMaintenance r (a % 16) then b else b.upTo (b.isleTick r (b.isle r + 1))
  else
    let m := bmSelOf (r * 524288 + a % 524288)
    let n := Tab.get 0 b.mem.bmNet (bmKey m.r m.b m.m)
    if b.bmMaintenance m || !b.netRuns r n then b
    else
      let b := b.upTo (b.nextNetTick r n)
      if b.bmMaintenance m then b else b.upTo (b.nextNetTick r n)

/-- One word of a read in a maintenance cycle: its bytes, or the refusal of an uncorrectable word (R163, R168). -/
def Chip.readWord (b : Chip) (r a : Nat) : Chip × Option Bytes :=
  let b := b.awaitMaintenance r a
  if 2 ^ 31 ≤ a then
    let (b, d, _, err) := (b.spMaint r (a % 16)).spRead (spWordKey r (a % 65536)) 3
    (b, if err then none else some (toBytes 32 d.toNat))
  else
    let n := b.wordBytes r a
    let k := r * 524288 + a % 524288
    let (b, d, _, err) := (b.bmMaint (bmSelOf k) k .read id).bmRead k 3
    (b, if err then none else some (toBytes n d.toNat))

/-- The words of a read, one after the other. -/
def Chip.readWords (b : Chip) (r a : Nat) : Nat → Chip × Option Bytes
  | 0 => (b, some [])
  | n + 1 =>
    match b.readWord r a with
    | (b, none) => (b, none)
    | (b, some x) =>
      match b.readWords r (a + 1) n with
      | (b, none) => (b, none)
      | (b, some y) => (b, some (x ++ y))

/-- A read of 0x25ii:11 on path o: the device after it and the data, or an abort; an observe read leaves the address
(R175, R452). -/
def Chip.memoryRead (b : Chip) (o r : Nat) : Chip × Except Nat Bytes :=
  let a := b.reg (0x2500 + r) 0x10
  let n := b.reg (0x2500 + r) 0x12
  match b.transferCheck r a n with
  | 0 =>
    match b.readWords r a n with
    | (b, some d) => (if o = 6 then b else b.setReg (0x2500 + r) 0x10 (nextAddress a n), .ok d)
    | (b, none) => (b, .error 0x06060000)
  | e => (b.transferRefused r e, .error e)

/-- The words of a write. -/
def Chip.writeWords (b : Chip) (r a w : Nat) (d : Bytes) : Nat → Chip
  | 0 => b
  | n + 1 =>
    let v := ofBytes (d.take w)
    let k := r * 524288 + a % 524288
    let b := b.awaitMaintenance r a
    let b := if 2 ^ 31 ≤ a then (b.spStore (spWordKey r (a % 65536)) 0xF#4 (BitVec.ofNat 256 v)).spMaint r (a % 16)
      else b.bmMaintWrite (bmSelOf k) k fun b => b.bmStore k (BitVec.ofNat 40 v)
    b.writeWords r (a + 1) w (d.drop w) n

/-- A nonzero upper byte of a word in bypass mode (R175). -/
def upperBytes (w : Nat) (d : Bytes) : Bool :=
  w == 8 && d.zipIdx.any fun x => x.2 % 8 > 4 && x.1 != 0#8

/-- A write of 0x25ii:11: the device after it and the abort, if there is one. -/
def Chip.memoryWrite (b : Chip) (r : Nat) (d : Bytes) : Chip × Except Nat Unit :=
  let a := b.reg (0x2500 + r) 0x10
  let n := b.reg (0x2500 + r) 0x12
  let w := b.wordBytes r a
  match b.transferCheck r a n with
  | 0 =>
    if d.length ≠ n * w then (b, .error 0x06070010)
    else if upperBytes w d then (b, .error 0x06090030)
    else ((b.writeWords r a w d n).setReg (0x2500 + r) 0x10 (nextAddress a n), .ok ())
  | e => (b.transferRefused r e, .error e)

/-- An upload request of one entry with its own effect: the checks of R5 and R7, then f. -/
def Chip.readRow (b : Chip) (q : Req) (idx sub : Nat) (f : Chip → Chip × Except Nat Bytes) : Chip :=
  b.request q fun b =>
    match DictTable.find idx sub with
    | none => b.answer q.owner (.abort 0x06090011)
    | some e =>
      if e.acc = .wo then b.answer q.owner (.abort 0x06010001)
      else if b.mayRead q.owner idx sub e then
        match f b with
        | (b, .ok d) => b.answer q.owner (.data d)
        | (b, .error a) => b.answer q.owner (.abort a)
      else b.answer q.owner (.abort 0x06010000)

/-- A download request of an OCTET_STRING entry with its own effect. -/
def Chip.writeBytesRow (b : Chip) (q : Req) (idx sub : Nat) (d : Bytes) (f : Chip → Chip × Except Nat Unit) : Chip :=
  b.request q fun b =>
    match b.checkWrite q.owner idx sub d.length 0 with
    | .error a => b.answer q.owner (.abort a)
    | .ok _ =>
      match f b with
      | (b, .ok _) => b.answer q.owner .done
      | (b, .error a) => b.answer q.owner (.abort a)

def execMemoryDataRead (q : Req) (r : Nat) (s : State) : Out :=
  act s fun b => b.readRow q (0x2500 + r) 0x11 fun b => b.memoryRead q.owner r

def execMemoryDataWrite (q : Req) (r : Nat) (data : Bytes) (s : State) : Out :=
  act s fun b => b.writeBytesRow q (0x2500 + r) 0x11 data fun b => b.memoryWrite r data

/-! ### Clearing (R170) -/

/-- The group memories of a region hold 0 (R225); a word key is (region × 64 + block) × 16,384 + index. -/
def Chip.clearGroups (b : Chip) (r : Nat) : Chip :=
  let lo := r * 1048576
  let hi := (r + 1) * 1048576
  { b with slices := { b.slices with
      im := Mem.clear b.slices.im lo hi
      cm := Mem.clear b.slices.cm lo hi
      ds := Mem.clear b.slices.ds lo hi
      err := Tab.drop (fun k => k % 2 ^ 32 / 1048576 == r) b.slices.err
      demand := Tab.drop (fun k => k / 256 == r) b.slices.demand } }

/-- REGION_CLEAR_END: every word of the region's block memories and scratchpad is 0 with valid check bits. -/
def Chip.clearEnd (b : Chip) (r : Nat) : Chip :=
  if (b.region r).clearing then
    let b := { b with mem := { b.mem with
      bm := Mem.clear b.mem.bm (r * 524288) ((r + 1) * 524288)
      sp := Mem.clear b.mem.sp (r * 65536) ((r + 1) * 65536)
      bmErr := Tab.drop (fun k => k / 524288 == r) b.mem.bmErr
      spErr := Tab.drop (fun k => k / 65536 == r) b.mem.spErr
      demandBm := Tab.drop (fun k => k / 512 == r) b.mem.demandBm
      demandSp := Tab.drop (fun k => k / 16 == r) b.mem.demandSp
      undef := b.mem.undef.filter fun x =>
        match x.1 with
        | .bm m => m.r != r
        | .spBank r' _ => r' != r
        | .im r' _ => r' != r
        | .cm r' _ => r' != r
        | .ds r' _ => r' != r } }
    let b := b.clearGroups r
    let hit := fun (a : Armed) => a.obj == 0x2D20 &&
      (if a.target < 2 ^ 32 then a.target / 524288 == r else (a.target - 2 ^ 32) / 65536 == r) ||
      a.obj == 0x2D40 && a.code != 1 && a.target % 2 ^ 32 / 1048576 == r
    let b := { b with inject := { b.inject with armed := b.inject.armed.filter fun a => !hit a } }
    (b.clearRegs (0x2500 + r) 0x17 0x18).modRegion r fun g => { g with clearing := false }
  else b

def execRegionClearEnd (r : Nat) (s : State) : Out := act s fun b => b.clearEnd r

end Sys2Proof.Machine
end

