-- ==== Sys2Proof/Machine/Flags.lean ====
section
/-! DEFINITION. The flag computations of the slices: narrowing of exact integer results to 80 bits, the conversion of OUT
and STC, and the sticky flags (R202, R212 to R214). -/

namespace Sys2Proof.Machine

open Sys2Proof

/-- Flag bits of R202: AV integer wrap, SV saturation, FI, FO, FU. -/
def flagAV : BitVec 5 := 1#5
def flagSV : BitVec 5 := 2#5
def flagFI : BitVec 5 := 4#5
def flagFO : BitVec 5 := 8#5
def flagFU : BitVec 5 := 16#5

/-- An exact integer result narrowed to 80 bits (R212): it wraps and sets AV, or with saturation clamps and sets SV. -/
def narrow (sat : Bool) (v : Int) : BitVec 80 × BitVec 5 :=
  if -(2 ^ 79) ≤ v ∧ v ≤ 2 ^ 79 - 1 then (BitVec.ofInt 80 v, 0#5)
  else if sat then (BitVec.ofInt 80 (if v < 0 then -(2 ^ 79) else 2 ^ 79 - 1), flagSV)
  else (BitVec.ofInt 80 v, flagAV)

/-- An FP result in an accumulator, with its flags (R213). -/
def fpWrite (r : FpResult) : BitVec 80 × BitVec 5 :=
  (BitVec.setWidth 80 r.bits,
   (if r.fi then flagFI else 0#5) ||| (if r.fo then flagFO else 0#5) ||| (if r.fu then flagFU else 0#5))

/-- CVTI's result (R213): saturation sets SV; a NaN gives 0 and sets FI. -/
def cvtiWrite (v : Option Int) : BitVec 80 × BitVec 5 :=
  match v with
  | none => (0#80, flagFI)
  | some n => narrow true n

/-- A number shifted right by k and rounded: 0 toward minus infinity, 1 half up, 2 half to even (R214). -/
def convRound (v : Int) (k mode : Nat) : Int :=
  let d : Int := 2 ^ k
  let q := v / d
  let r := v % d
  match mode with
  | 0 => q
  | 1 => if d ≤ 2 * r then q + 1 else q
  | _ => if d < 2 * r || (2 * r == d && q % 2 == 1) then q + 1 else q

/-- conv (R214): shift, round, and saturate to a signed 32-bit value with SV, or keep the low 32 bits. -/
def conv (acc : BitVec 80) (shift mode : Nat) (sat : Bool) : BitVec 32 × BitVec 5 :=
  if 79 < shift then (Config.convBeyond shift (mode + flag sat 2) acc, 0#5)
  else
    let v := convRound acc.toInt shift mode
    if sat && decide (v < -(2 ^ 31)) then (0x80000000#32, flagSV)
    else if sat && decide (2 ^ 31 - 1 < v) then (0x7FFFFFFF#32, flagSV)
    else (BitVec.ofInt 32 v, 0#5)

end Sys2Proof.Machine
end

