-- ==== Sys2Proof/Machine/Operands.lean ====
section
/-! DEFINITION. The operand forms of the slice-group sequencer: instruction fields, sources of P and Q, address registers
and their post-modify, accumulator reads behind the pipeline (R203 to R211). -/

namespace Sys2Proof.Machine

open Sys2Proof

/-! ### Instruction fields (R208) -/

def wOp (w : BitVec 64) : Nat := field w.toNat 58 6
def wAccD (w : BitVec 64) : Nat := field w.toNat 55 3
def wAccA (w : BitVec 64) : Nat := field w.toNat 52 3
def wPSrc (w : BitVec 64) : Nat := field w.toNat 48 4
def wQSrc (w : BitVec 64) : Nat := field w.toNat 44 4
def wPAreg (w : BitVec 64) : Nat := field w.toNat 41 3
def wQAreg (w : BitVec 64) : Nat := field w.toNat 38 3
def wPMod (w : BitVec 64) : Bool := w.getLsbD 37
def wQMod (w : BitVec 64) : Bool := w.getLsbD 36
def wLanes (w : BitVec 64) : Nat := field w.toNat 28 8
def wMode (w : BitVec 64) : Nat := field w.toNat 24 4
def wImm (w : BitVec 64) : Nat := field w.toNat 0 24
/-- The register that imm[23:21] names, and its post-modify bit imm[20] (R215, R216). -/
def wKreg (w : BitVec 64) : Nat := field w.toNat 21 3
def wKMod (w : BitVec 64) : Bool := w.getLsbD 20

def wLane (w : BitVec 64) (l : Nat) : Bool := bit (wLanes w) l

/-! ### Use of operands (R210) -/

/-- The instruction has operand P, and operand Q. -/
def usesP (op : Nat) : Bool := [0x10, 0x11, 0x12, 0x13, 0x14, 0x15, 0x17, 0x20, 0x21, 0x22, 0x23, 0x28, 0x29, 0x2A].contains op
def usesQ (op : Nat) : Bool := [0x10, 0x11, 0x12, 0x15, 0x20, 0x21, 0x22, 0x29].contains op

/-- The instruction reads an accumulator as an operand. -/
def readsAcc (op : Nat) : Bool :=
  [0x13, 0x14, 0x16, 0x18, 0x19, 0x1A, 0x23, 0x24, 0x25, 0x28, 0x29, 0x2A, 0x30, 0x31].contains op

/-- The opcodes of R209 and R210. -/
def isControl (op : Nat) : Bool := decide (op ≤ 0x0C)
def opDefined (op : Nat) : Bool :=
  decide (op ≤ 0x0C) || (decide (0x10 ≤ op) && decide (op ≤ 0x1A)) || (decide (0x20 ≤ op) && decide (op ≤ 0x25)) ||
    (decide (0x28 ≤ op) && decide (op ≤ 0x2A)) || op == 0x30 || op == 0x31

/-- A source code that names an address register. -/
def srcAddr (c : Nat) : Bool := c == 1 || c == 2

/-- MINP reads its address register where it names no other lane (R216). -/
def minpOwn (w : BitVec 64) : Bool := wMode w / 4 == 0

/-- The address registers that an instruction post-modifies, each once (R206, R215, R216). -/
def modified (w : BitVec 64) : List Nat :=
  let op := wOp w
  let p := if (usesP op && srcAddr (wPSrc w) || op == 0x31) && wPMod w then [wPAreg w] else []
  let q := if usesQ op && srcAddr (wQSrc w) && wQMod w then [wQAreg w] else []
  let k := if (op == 0x28 || op == 0x29 || (op == 0x2A && minpOwn w)) && wKMod w then [wKreg w] else []
  (p ++ q ++ k).eraseDups

/-! ### Address registers (R206) -/

def RegSet.addr (s : RegSet) (i : Nat) : BitVec 14 := Tab.get 0#14 s.a i
def RegSet.modifier (s : RegSet) (i : Nat) : BitVec 32 := Tab.get 0#32 s.m i

/-- The least number of bits whose range holds n values. -/
def ceilLog2 (n : Nat) : Nat := if n ≤ 1 then 0 else Nat.log2 (n - 1) + 1

/-- The low b bits of a number in reverse order. -/
def reverseBits (b n : Nat) : Nat := (List.range b).foldl (fun x i => x + flag (n.testBit i) (b - 1 - i)) 0

/-- A modifier is legal when used (R206, R211). -/
def modifierLegal (m : BitVec 32) : Bool :=
  match field m.toNat 30 2 with
  | 0 | 1 => true
  | 2 => decide (1 ≤ field m.toNat 16 4) && decide (field m.toNat 16 4 ≤ 14)
  | _ => false

/-- The post-modified value of an address register. -/
def postModify (a : BitVec 14) (m : BitVec 32) : BitVec 14 :=
  let inc := signed 16 (field m.toNat 0 16)
  match field m.toNat 30 2 with
  | 1 =>
    let lc := field m.toNat 16 14 + 1
    let base := a.toNat / 2 ^ ceilLog2 lc * 2 ^ ceilLog2 lc
    let t : Int := (a.toNat - base : Nat) + inc
    let t := if (lc : Int) ≤ t then t - lc else if t < 0 then t + lc else t
    BitVec.ofInt 14 ((base : Int) + t)
  | 2 =>
    let b := field m.toNat 16 4
    let low := reverseBits b (a.toNat % 2 ^ b)
    let sum := (((low : Int) + inc) % (2 ^ b : Int)).toNat
    BitVec.ofNat 14 (a.toNat / 2 ^ b * 2 ^ b + reverseBits b sum)
  | _ => BitVec.ofInt 14 ((a.toNat : Int) + inc)

/-- Every named register post-modified. -/
def RegSet.modifyAll (s : RegSet) (l : List Nat) : RegSet :=
  l.foldl (fun s i => { s with a := Tab.set s.a i (postModify (s.addr i) (s.modifier i)) }) s

/-! ### Register set in use (R220) -/

def Group.regs (g : Group) : RegSet := if g.handler.isSome then g.shadow else g.main
def Group.setRegs (g : Group) (s : RegSet) : Group :=
  if g.handler.isSome then { g with shadow := s } else { g with main := s }
def Group.modRegs (g : Group) (f : RegSet → RegSet) : Group := g.setRegs (f g.regs)

/-! ### Accumulators behind the pipeline (R207) -/

def accKey (lane n : Nat) : Nat := lane * 16 + n

/-- The latest value of an accumulator: what the forwarded accumulate stage sees. -/
def Group.accNow (g : Group) (lane n : Nat) : BitVec 80 := Tab.get 0#80 g.acc (accKey lane n)
def Group.bixNow (g : Group) (lane : Nat) : BitVec 16 := Tab.get 0#16 g.bix lane

/-- The value of a register that an operand read of an instruction issued in cycle c sees: writes issued 1, 2 or 3 cycles
before it are not seen. -/
def Group.pipeRead (g : Group) (c reg : Nat) (now : BitVec 80) : BitVec 80 :=
  match g.pipe.find? fun x => x.reg == reg && decide (c < x.cycle + 4) with
  | some x => x.old
  | none => now

def Group.accRead (g : Group) (c lane n : Nat) : BitVec 80 := g.pipeRead c (accKey lane n) (g.accNow lane n)
def Group.bixRead (g : Group) (c lane : Nat) : BitVec 16 :=
  BitVec.setWidth 16 (g.pipeRead c (accKey lane 8) (BitVec.setWidth 80 (g.bixNow lane)))

/-- A write in issue cycle c; writes that every read sees leave the record. -/
def Group.accWrite (g : Group) (c lane n : Nat) (v : BitVec 80) : Group :=
  { g with
    acc := Tab.set g.acc (accKey lane n) v
    pipe := (g.pipe.filter fun x => decide (c < x.cycle + 4)) ++
      [{ cycle := c, reg := accKey lane n, old := g.accNow lane n }] }
def Group.bixWrite (g : Group) (c lane : Nat) (v : BitVec 16) : Group :=
  { g with
    bix := Tab.set g.bix lane v
    pipe := (g.pipe.filter fun x => decide (c < x.cycle + 4)) ++
      [{ cycle := c, reg := accKey lane 8, old := BitVec.setWidth 80 (g.bixNow lane) }] }

/-- OUTR of a lane as the fabric sees it in cycle c (R214): a write of issue cycle i shows from i + 4 on. -/
def Group.outrSeen (g : Group) (c lane : Nat) : BitVec 32 :=
  BitVec.setWidth 32 (g.pipeRead c (accKey lane 9) (BitVec.setWidth 80 (Tab.get 0#32 g.outr lane)))
def Group.outrWrite (g : Group) (c lane : Nat) (v : BitVec 32) : Group :=
  { g with
    outr := Tab.set g.outr lane v
    pipe := (g.pipe.filter fun x => decide (c < x.cycle + 4)) ++
      [{ cycle := c, reg := accKey lane 9, old := BitVec.setWidth 80 (Tab.get 0#32 g.outr lane) }] }

/-- Flags of an operation are sticky in the set in use. -/
def Group.setFlags (g : Group) (f : BitVec 5) : Group := g.modRegs fun s => { s with flags := s.flags ||| f }

/-! ### Group memories: keys and words (R203, R225) -/

def memKey (g : Grp) (i : Nat) : Nat := groupKey g.r g.b * 16384 + i
def imUnit (g : Grp) : MemUnit := .im g.r g.b
def cmUnit (g : Grp) : MemUnit := .cm g.r g.b
def dsUnit (g : Grp) : MemUnit := .ds g.r g.b

def Chip.group (b : Chip) (g : Grp) : Group := Tab.get {} b.slices.groups (groupKey g.r g.b)
def Chip.modGroup (b : Chip) (g : Grp) (f : Group → Group) : Chip :=
  { b with slices := { b.slices with groups := Tab.mod {} b.slices.groups (groupKey g.r g.b) f } }

def Chip.imWord (b : Chip) (g : Grp) (i : Nat) : BitVec 64 :=
  match b.undefIn (imUnit g) (memKey g i) with
  | some e => BitVec.setWidth 64 (Config.undefinedWord e (memKey g i))
  | none => Mem.get b.slices.im (memKey g i)
def Chip.cmWord (b : Chip) (g : Grp) (i : Nat) : BitVec 32 :=
  match b.undefIn (cmUnit g) (memKey g i) with
  | some e => BitVec.setWidth 32 (Config.undefinedWord e (memKey g i))
  | none => Mem.get b.slices.cm (memKey g i)
def Chip.dsWord (b : Chip) (g : Grp) (i : Nat) : BitVec 16 :=
  match b.undefIn (dsUnit g) (memKey g i) with
  | some e => BitVec.setWidth 16 (Config.undefinedWord e (memKey g i))
  | none => Mem.get b.slices.ds (memKey g i)

/-- A coefficient element as it stood at the start of cycle c: writes of c and later are not seen (R203). -/
def Chip.cmAt (b : Chip) (g : Grp) (i c : Nat) : BitVec 32 :=
  match (b.group g).cmPipe.find? fun x => x.2.1 == i && decide (c ≤ x.1) with
  | some x => x.2.2
  | none => b.cmWord g i

/-- A decision halfword as it stood at the start of cycle c (R227). -/
def Chip.dsAt (b : Chip) (g : Grp) (i c : Nat) : BitVec 16 :=
  match (b.group g).dsPipe.find? fun x => x.2.1 == i && decide (c ≤ x.1) with
  | some x => x.2.2
  | none => b.dsWord g i

/-! ### P and Q (R204) -/

/-- What an instruction issued in cycle c works on. -/
structure Ctx where
  g : Grp
  w : BitVec 64
  c : Nat
  x : Issue

/-- Lane L of a 256-bit bus. -/
def busLane (v : BitVec 256) (l : Nat) : BitVec 32 := BitVec.setWidth 32 (v >>> (32 * l))

/-- The coefficient elements that a source reads: a row, or one element. -/
def srcElements (s : RegSet) (src areg : Nat) : List Nat :=
  let a := (s.addr areg).toNat
  match src with
  | 1 => (List.range 8).map fun l => 8 * (a / 8) + l
  | 2 => [a]
  | _ => []

/-- The value of a source at a lane; coefficient operands are read in the cycle before issue. -/
def Chip.operandAt (b : Chip) (k : Ctx) (src areg l : Nat) : BitVec 32 :=
  let s := (b.group k.g).regs
  let a := (s.addr areg).toNat
  match src with
  | 1 => b.cmAt k.g (8 * (a / 8) + l) (k.c - 1)
  | 2 => b.cmAt k.g a (k.c - 1)
  | 3 => busLane k.x.x l
  | 4 => busLane k.x.x 0
  | 5 => busLane k.x.y l
  | 6 => busLane k.x.y 0
  | 7 => busLane k.x.z l
  | 8 => busLane k.x.z 0
  | 9 => BitVec.signExtend 32 (BitVec.ofNat 16 (wImm k.w))
  | 0xA => BitVec.setWidth 32 s.lc
  | 0xB => BitVec.ofNat 32 l
  | _ => 0#32

def Chip.opP (b : Chip) (k : Ctx) (l : Nat) : BitVec 32 := b.operandAt k (wPSrc k.w) (wPAreg k.w) l
def Chip.opQ (b : Chip) (k : Ctx) (l : Nat) : BitVec 32 := b.operandAt k (wQSrc k.w) (wQAreg k.w) l

/-- P or Q as an exact number, signed or unsigned. -/
def extInt (unsigned : Bool) (v : BitVec 32) : Int := if unsigned then v.toNat else v.toInt

/-- The signedness of mode [25:24] (R210): P unsigned, Q unsigned. -/
def pUnsigned (w : BitVec 64) : Bool := wMode w % 4 == 1 || wMode w % 4 == 3
def qUnsigned (w : BitVec 64) : Bool := wMode w % 4 == 1 || wMode w % 4 == 2
def wSat (w : BitVec 64) : Bool := bit (wMode w) 2

/-- The lane that lane L reads under the lane source of mode [27:26] (R210). -/
def sourceLane (w : BitVec 64) (l : Nat) : Nat :=
  (l + (match wMode w / 4 with | 0 => 0 | 1 => 1 | 2 => 2 | _ => 4)) % 8

/-! ### Buses (R205) -/

/-- The bus of a source code: 0 X, 1 Y, 2 Z. -/
def srcBus (c : Nat) : Option Nat := if 3 ≤ c ∧ c ≤ 8 then some ((c - 3) / 2) else none

/-- The buses that an instruction names. -/
def busesOf (w : BitVec 64) : BitVec 3 :=
  let one := fun (used : Bool) (c : Nat) =>
    match srcBus c with
    | some n => if used then 1#3 <<< n else 0#3
    | none => 0#3
  one (usesP (wOp w)) (wPSrc w) ||| one (usesQ (wOp w)) (wQSrc w)

/-- The buses whose valid signal is 1. -/
def busValids (x : Issue) : BitVec 3 := BitVec.ofNat 3 (flag x.xv 0 + flag x.yv 1 + flag x.zv 2)

/-- An instruction waits: for a bus that it names, or WAITG for sg_go (R205, R209). -/
def waits (w : BitVec 64) (x : Issue) : Bool := busesOf w &&& ~~~(busValids x) != 0#3 || (wOp w == 7 && !x.go)

/-! ### Legality (R211) -/

/-- The operands of an instruction are legal: sources, modifiers, shifts, accumulators, rounding. -/
def operandsLegal (s : RegSet) (w : BitVec 64) : Bool :=
  let op := wOp w
  (!usesP op || decide (wPSrc w ≤ 0xB)) && (!usesQ op || decide (wQSrc w ≤ 0xB)) &&
    ((modified w).all fun i => modifierLegal (s.modifier i)) &&
    (op != 0x18 || decide ((signed 8 (field (wImm w) 0 8)).natAbs ≤ 79)) &&
    (op != 0x17 || decide (field (wImm w) 0 6 ≤ 47)) &&
    (op != 0x28 || wAccA w != 7) && (op != 0x29 || wAccA w == 0 || wAccA w == 4) &&
    (op != 0x30 || bit (wMode w) 3 || wMode w % 4 != 3) && (op != 0x31 || wMode w % 4 != 3)

end Sys2Proof.Machine
end

