-- ==== Sys2Proof/Machine/GroupMem.lean ====
section
/-! DEFINITION. Group memories: detections, sequencer faults, the group cycle, event entry, the fabric's ports, maintenance and
dictionary access (R201, R219, R220, R225 to R235). -/

namespace Sys2Proof.Machine

open Sys2Proof

/-! ### Faults and detections (R230, R231) -/

/-- A sequencer fault (R231): the group enters FAULT under the block reset, and the block its safe state. A block in its
safe state already makes no further entry. -/
def Chip.seqFault (b : Chip) (g : Grp) (code lane space idx : Nat) (inj : Bool) : Chip :=
  if (b.region g.r).safeBlocks.getLsbD g.b then b
  else
    let b := b.modGroup g fun x => { x.registers with st := .fault }
    let b := b.setReg (0x2500 + g.r) 0x39 (g.b * 256 + code)
    b.blockSafe g.r g.b
      (b.regionEv g.r (evCode 2 4 g.r code) 4 inj (g.b + lane * 256 + space * 65536) idx 0)

/-- The key of a word of a space (0 instruction, 1 coefficient, 2 decision) in the error record. -/
def gmKey (g : Grp) (space i : Nat) : Nat := (space + 1) * 2 ^ 32 + memKey g i

def Chip.gmErr (b : Chip) (g : Grp) (space i : Nat) : Nat × Bool := Tab.get (0, false) b.slices.err (gmKey g space i)

/-- A correction (R230): counted, logged, and held in the demand register while that is empty. -/
def Chip.gmCorrection (b : Chip) (g : Grp) (space i lane : Nat) (inj : Bool) : Chip :=
  let code := evCode 1 4 g.r 1
  let b := (b.count (0x2500 + g.r) 0x3B).logEvent
    (b.regionEv g.r code 2 inj (g.b + lane * 256 + space * 65536) i 0)
  let k := groupKey g.r g.b * 4 + space
  let b := if (Tab.get none b.slices.demand k).isNone then
      { b with slices := { b.slices with demand := Tab.set b.slices.demand k (some i) } }
    else b
  if inj then b.applyAt 0x2D40 (gmKey g space i) code else b

/-- An uncorrectable word (R230): a sequencer fault in a region with committed configuration. -/
def Chip.gmHard (b : Chip) (g : Grp) (space i lane : Nat) (inj : Bool) : Chip :=
  let conf := (b.regionPart g.r).isSome
  let code := if conf then evCode 2 4 g.r 5 else evCode 1 4 g.r 4
  let b := if conf then b.seqFault g 5 lane space i inj
    else b.logEvent (b.regionEv g.r code 3 inj (g.b + lane * 256 + space * 65536) i 0)
  if inj then b.applyAt 0x2D40 (gmKey g space i) code else b

/-- A reader meets a word: the device after its detection, corrected, uncorrectable. -/
def Chip.gmMeet (b : Chip) (g : Grp) (space i lane : Nat) : Chip × Bool × Bool :=
  match b.gmErr g space i with
  | (0, _) => (b, false, false)
  | (1, inj) => (b.gmCorrection g space i lane inj, true, false)
  | (_, inj) => (b.gmHard g space i lane inj, false, true)

/-- A reader meets words one after the other, with the lane of each. -/
def Chip.gmMeetAll (b : Chip) (g : Grp) (space : Nat) (l : List (Nat × Nat)) : Chip × Bool × Bool :=
  l.foldl (fun x i =>
    let (b, cor, err) := x
    let (b, c, e) := b.gmMeet g space i.1 i.2
    (b, cor || c, err || e)) (b, false, false)

/-! ### Stores -/

/-- A write of a word removes its wrong bits and an injection that waits. -/
def Chip.gmClean (b : Chip) (g : Grp) (space i : Nat) (u : MemUnit) : Chip :=
  let k := gmKey g space i
  let b := b.noteWritten u (memKey g i)
  { b with slices := { b.slices with err := Tab.drop (fun x => x == k) b.slices.err } }.unarmAt 0x2D40 k

def Chip.imStore (b : Chip) (g : Grp) (i : Nat) (v : BitVec 64) : Chip :=
  let b := b.gmClean g 0 i (imUnit g)
  { b with slices := { b.slices with im := Mem.set b.slices.im (memKey g i) v } }

/-- A coefficient element written in cycle c (R203). -/
def Chip.cmStore (b : Chip) (g : Grp) (i c : Nat) (v : BitVec 32) : Chip :=
  let old := b.cmWord g i
  let b := (b.gmClean g 1 i (cmUnit g)).modGroup g fun x =>
    { x with cmPipe := (x.cmPipe.filter fun y => decide (c < y.1 + 8)) ++ [(c, i, old)] }
  { b with slices := { b.slices with cm := Mem.set b.slices.cm (memKey g i) v } }

/-- A decision halfword that a write of cycle c changes at the end of that cycle (R215). -/
def Chip.dsStore (b : Chip) (g : Grp) (i c : Nat) (v : BitVec 16) : Chip :=
  let old := b.dsWord g i
  let b := (b.gmClean g 2 i (dsUnit g)).modGroup g fun x =>
    { x with dsPipe := (x.dsPipe.filter fun y => decide (c < y.1 + 8)) ++ [(c, i, old)] }
  { b with slices := { b.slices with ds := Mem.set b.slices.ds (memKey g i) v } }

/-! ### Group cycles (R201) -/

/-- The group cycle at the present tick: edges of the group's net. -/
def Chip.groupCycle (b : Chip) (g : Grp) : Nat := b.netCycle g.r (b.group g).net

/-- The group's net passes edges and its block runs. -/
def Chip.groupClock (b : Chip) (g : Grp) : Bool := b.blockRuns g.r g.b && b.netRuns g.r (b.group g).net

/-- The net-0 cycle of the last edge of a net, while the net is as it is. -/
def Chip.lastEdge0 (b : Chip) (r n : Nat) : Nat :=
  let g := b.regionNow r
  let c := b.isle r
  if n = 0 then c else c - (c - g.divStart) % g.netPeriod n

/-- The net-0 cycle in which the present group cycle began. -/
def Chip.groupNet0 (b : Chip) (g : Grp) : Nat := b.lastEdge0 g.r (b.group g).net

/-- The tick at which a group cycle up to the present one began, while the net is as it is. -/
def Chip.groupTick (b : Chip) (g : Grp) (c : Nat) : Nat :=
  let n := (b.group g).net
  min b.now (b.isleTick g.r (b.groupNet0 g - (b.groupCycle g - c) * (b.regionNow g.r).netPeriod n))

/-- The tick at which the k-th next group cycle begins; now for k = 0. -/
def Chip.groupTickIn (b : Chip) (g : Grp) (k : Nat) : Nat :=
  let n := (b.group g).net
  if k = 0 then b.now else b.isleTick g.r (b.groupNet0 g + k * (b.regionNow g.r).netPeriod n)

/-- The device does something as of an earlier tick. -/
def Chip.asOf (b : Chip) (t : Nat) (f : Chip → Chip) : Chip :=
  let d := f { b with belfry := { b.belfry with tick := t } }
  { d with belfry := { d.belfry with tick := b.now } }

/-- A slice group is under an on-demand test (R232). -/
def Chip.groupUnderTest (b : Chip) (g : Grp) : Bool :=
  b.underTest (imUnit g) || b.underTest (cmUnit g) || b.underTest (dsUnit g)

/-- An access to a group under test is counted (R232). -/
def Chip.groupTested (b : Chip) (g : Grp) : Chip := b.count (0x2500 + g.r) 0x1E

/-! ### The sequencer between instructions (R217, R219 to R221, R224) -/

/-- The sequencer runs or waits, and no stop has taken effect (R224). -/
def Group.running (x : Group) : Bool := (x.st == .run || x.st == .wait) && x.stopping.isNone

/-- Four pending bits with bit n set to v. -/
def setEv (p : BitVec 4) (n : Nat) (v : Bool) : BitVec 4 :=
  if v then p ||| (1#4 <<< n) else p &&& ~~~(1#4 <<< n)

/-- The mark of a pending event. -/
def Group.evMark (x : Group) (ev : Nat) : EvMark := Tab.get { net0 := 0, cyc := 0 } x.evStart ev

/-- The boundary at which a pending event may be taken: at or after the cycle after its assertion, and at or after the
last issue cycle (R219). -/
def Group.eventBoundary (x : Group) (ev : Nat) : Nat := max ((x.evMark ev).cyc + 1) (x.last.getD 0)

/-- The lowest-numbered pending event that EVMASK allows at boundary c. -/
def Group.eventReady (x : Group) (c : Nat) : Option Nat :=
  (List.range 4).find? fun e => x.pending.getLsbD e && x.evMask.getLsbD e && decide ((x.evMark e).cyc + 1 ≤ c)

/-- The handler of an event begins after boundary c (R220): the shadow set is in use from c + 1. -/
def Group.enter (x : Group) (ev c pc : Nat) : Group :=
  let a := x.evMark ev
  { x with
    st := .run
    handler := some { ev := ev, since := a.net0, late := a.late }
    saved := pc
    pc := x.entry.getD ev 0
    pending := setEv x.pending ev false
    evStart := Tab.drop (fun k => k == ev) x.evStart
    last := some c
    gap := 0 }

/-- An event is taken at boundary c, if no handler is active and no REP is under way (R218, R219). -/
def Group.takeEvent (x : Group) (c : Nat) : Group :=
  if x.running ∧ x.handler = none ∧ x.rep = 0 then
    match x.eventReady c with
    | some ev => x.enter ev c x.pc
    | none => x
  else x

/-- The group enters STOP (R224): its pending bits, its active handler and its counts end. -/
def Group.stopped (x : Group) : Group :=
  { x with
    st := .stop, pending := 0#4, evStart := [], handler := none, rep := 0, stopReq := false, stopping := none, gap := 0 }

/-- A stop that has taken effect is complete in its cycle. -/
def Group.settle (x : Group) (c : Nat) : Group :=
  match x.stopping with
  | some (n, byStop) => if n ≤ c then { x.stopped with done := if byStop then some n else x.done } else x
  | none => x

/-- A stop takes effect at boundary c: the group enters STOP when the instructions in flight have completed, those of the two
cycles before (log entry 130). -/
def Group.stopAfter (x : Group) (c : Nat) (prev : Option Nat) (byStop : Bool) : Group :=
  let n := match prev with
    | some l => max (c + 1) (l + 3)
    | none => c + 1
  { x with stopping := some (n, byStop), stopReq := false }

/-- The fetch of this pass is served by the loop cache (R217). -/
def Group.cached (x : Group) : Bool :=
  match x.regs.loop with
  | some l => l.again && decide (l.last < l.first + 16) && decide (l.first ≤ x.pc) && decide (x.pc ≤ l.last)
  | none => false

/-- The three words at the entry of each enabled event are fetched when the group starts (R221). -/
def Chip.prefetch (b : Chip) (g : Grp) : Chip :=
  let x := b.group g
  b.forEach ((List.range 4).filter fun e => x.evEnable.getLsbD e) fun b e =>
    (b.gmMeetAll g 0 ((List.range 3).map fun i => (x.entry.getD e 0 + i, 0xFF))).1

/-! ### The fabric's access to coefficients (R203, R226) -/

/-- The coefficient accesses of an instruction's operands. -/
def coefficientReads (w : BitVec 64) : Nat :=
  flag (usesP (wOp w) && srcAddr (wPSrc w)) 0 + flag (usesQ (wOp w) && srcAddr (wQSrc w)) 0

/-- The sequencer's coefficient accesses in cycle c: both for an STC, which leaves none; else those of the instruction that can
issue in c + 1. -/
def Chip.cmUse (b : Chip) (g : Grp) (c : Nat) : Nat :=
  let x := b.group g
  if x.stcAt = some c then 2
  else
    let y := x.takeEvent c
    let ready := match y.last with
      | some l => decide (l + y.gap ≤ c)
      | none => true
    if y.running && ready && decide (y.pc < 4096) then coefficientReads (b.imWord g y.pc) else 0

/-- A row of elements as one 256-bit word. -/
def rowBits (l : List (BitVec 32)) : BitVec 256 := BitVec.ofNat 256 (ofBytes (l.flatMap fun x => toBytes 4 x.toNat))

/-- The elements of a row. -/
def rowElements (row : Nat) : List Nat := (List.range 8).map fun e => 8 * (row % 2048) + e

/-- A fabric access is taken in cycle c: read data is shown two cycles later. -/
def Chip.cmTake (b : Chip) (g : Grp) (a : CmAccess) (c : Nat) : Chip :=
  let b := b.modGroup g fun x => { x with cmHeld := none, cmTaken := some c }
  if a.we then b.forEach (List.range 8) fun b e => b.cmStore g (8 * (a.row % 2048) + e) c (busLane a.data e)
  else
    let d := rowBits ((rowElements a.row).map fun i => b.cmAt g i c)
    let (b, cor, err) := b.gmMeetAll g 1 ((rowElements a.row).map fun i => (i, 0xFF))
    b.modGroup g fun x =>
      { x with cmOut := addOut x.cmOut c { data := d, cor, err, valid := true, at_ := c + 2 } }

/-- An access that waits competes in each cycle before c; nothing has issued since it was presented, so what the sequencer
uses is the same from the end of its empty cycles on. -/
def Chip.cmSettle (b : Chip) (g : Grp) (c : Nat) : Chip :=
  match (b.group g).cmHeld with
  | none => b
  | some a =>
    match (List.range 4).find? fun k => decide (a.cyc + k < c) && decide (b.cmUse g (a.cyc + k) ≤ 1) with
    | some k => b.asOf (b.groupTick g (a.cyc + k)) fun b => b.cmTake g a (a.cyc + k)
    | none => b.modGroup g fun x => { x with cmHeld := some { a with cyc := max a.cyc c } }

/-- The group with everything that was due in cycles before the present one. -/
def Chip.settleGroup (b : Chip) (g : Grp) : Chip :=
  let b := match (b.group g).fetchAt with
    | some t => (b.modGroup g fun x => { x with fetchAt := none }).asOf t fun b => b.prefetch g
    | none => b
  let c := b.groupCycle g
  (b.cmSettle g c).modGroup g fun x => x.settle c

/-- The group in its present cycle. -/
def Chip.groupNow (b : Chip) (g : Grp) : Group := (b.settleGroup g).group g

/-- The group and cycle data of a command that issues an instruction. -/
def issueOf : Instr → Option (Grp × Issue)
  | .nop g x | .stop g x | .jmp g x | .djnz g x | .loop g x | .rep g x | .ret g x | .waitg g x | .evmask g x | .seta g x
  | .adda g x | .setm g x | .clrf g x | .mac g x | .msu g x | .mul g x | .add g x | .sub g x | .absd g x | .mova g x
  | .lda g x | .sha g x | .mina g x | .maxa g x | .fma g x | .fms g x | .fmul g x | .fadd g x | .cvtf g x | .cvti g x
  | .acs2 g x | .acs4 g x | .minp g x | .out g x | .stc g x => some (g, x)
  | _ => none

/-- A command that waits issues an instruction of group g in its present cycle. -/
def Chip.issuesToo (b : Chip) (g : Grp) (i : Instr) : Bool :=
  match issueOf i with
  | some (h, x) => h == g && (b.upTo x.t).groupCycle g == b.groupCycle g
  | none => false

/-- cm_en (R226): an access is taken in this cycle if the sequencer leaves it one, and else waits; `later` says that commands
of this cycle still wait, and with them what the sequencer uses. -/
def Chip.cmPresent (b : Chip) (g : Grp) (we : Bool) (row : Nat) (data : BitVec 256) (later : Bool) : Chip :=
  let b := b.settleGroup g
  let c := b.groupCycle g
  let x := b.group g
  if !b.groupClock g then b
  else if b.underTest (cmUnit g) then
    let b := b.groupTested g
    if we then b
    else b.modGroup g fun x => { x with cmOut := addOut x.cmOut c { uut := true, valid := true, at_ := c + 2 } }
  else if x.cmHeld.isSome || x.cmTaken == some c then b
  else
    let b := b.modGroup g fun x => { x with cmHeld := some { cyc := c, we, row, data } }
    if later then b else b.cmSettle g (c + 1)

def execCmRead (g : Grp) (row t : Nat) (s : State) : Out :=
  act s fun b =>
    let b := b.upTo t
    b.cmPresent g false row 0#256 (s.pending.any (b.issuesToo g))

def execCmWrite (g : Grp) (row : Nat) (data : BitVec 256) (t : Nat) (s : State) : Out :=
  act s fun b =>
    let b := b.upTo t
    b.cmPresent g true row data (s.pending.any (b.issuesToo g))

/-- DS_READ (R227): the halfword as it stood at the start of the cycle, shown two cycles later. -/
def Chip.dsRead (b : Chip) (g : Grp) (addr : Nat) : Chip :=
  let b := b.settleGroup g
  let c := b.groupCycle g
  let i := addr % 4096
  let show_ := fun (b : Chip) (o : PortOut) =>
    b.modGroup g fun x => { x with dsOut := addOut x.dsOut c { o with valid := true, at_ := c + 2 } }
  if !b.groupClock g then b
  else if b.underTest (dsUnit g) then show_ (b.groupTested g) { uut := true }
  else
    let d := BitVec.setWidth 256 (b.dsAt g i c)
    let (b, cor, err) := b.gmMeet g 2 i 0xFF
    show_ b { data := d, cor, err }

def execDsRead (g : Grp) (addr t : Nat) (s : State) : Out := act s fun b => (b.upTo t).dsRead g addr

/-- IM_WRITE (R228, R232): only in STOP; in any other state, FAULT among them, it is discarded and counted. -/
def Chip.imWrite (b : Chip) (g : Grp) (addr : Nat) (data : BitVec 64) : Chip :=
  let b := b.settleGroup g
  let x := b.group g
  if !(b.groupClock g || (x.st == .fault && b.fabricRuns g.r && b.netRuns g.r x.net)) then b
  else if b.underTest (imUnit g) then b.groupTested g
  else if x.st = .stop then b.imStore g (addr % 4096) data
  else b.count (0x2500 + g.r) 0x3C

def execImWrite (g : Grp) (addr : Nat) (data : BitVec 64) (t : Nat) (s : State) : Out :=
  act s fun b => (b.upTo t).imWrite g addr data

/-! ### Maintenance (R162, R168, R230) -/

/-- The corrected word of a group memory goes back. -/
def Chip.gmRepair (b : Chip) (g : Grp) (space i : Nat) : Chip :=
  let k := gmKey g space i
  if (b.gmErr g space i).1 = 1 then
    { b with slices := { b.slices with err := Tab.drop (fun x => x == k) b.slices.err } }
  else b

/-- No reader or writer takes a memory of the group in cycle c (R168, R203, R217, R227): the instruction memory is free while
nothing is fetched, or the loop cache serves the fetch; a coefficient access while the sequencer leaves one and the fabric does not
take it; the decision store in a cycle without a fabric read and without an ACS write. -/
def Chip.gmIdle (b : Chip) (g : Grp) (space c : Nat) : Bool :=
  let x := b.group g
  match space with
  | 0 => x.st != .run || x.stopping.isSome || x.cached
  | 1 => decide (b.cmUse g c ≤ 1) && x.cmHeld.isNone && x.cmTaken != some c
  | _ => !(x.dsOut.any fun o => o.at_ == c + 2) && !(x.dsPipe.any fun y => y.1 == c)

/-- The present cycle of a group memory is a maintenance cycle: its clock passes edges, no reader takes it, and no maintenance
access has. -/
def Chip.gmMaintenance (b : Chip) (g : Grp) (space : Nat) : Bool :=
  let c := b.groupCycle g
  b.islandTurns g.r && b.netRuns g.r (b.group g).net && Tab.get 0 (b.group g).maint space != c && b.gmIdle g space c

/-- A maintenance access takes the present cycle. -/
def Chip.gmMaint (b : Chip) (g : Grp) (space : Nat) : Chip :=
  let c := b.groupCycle g
  b.modGroup g fun x => { x with maint := Tab.set x.maint space c }

def Chip.gmDemand (b : Chip) (g : Grp) (space : Nat) : Chip :=
  let b := b.settleGroup g
  let k := groupKey g.r g.b * 4 + space
  match Tab.get none b.slices.demand k with
  | some i =>
    if b.gmMaintenance g space then
      let b := (b.gmRepair g space i).gmMaint g space
      { b with slices := { b.slices with demand := Tab.set b.slices.demand k none } }
    else b
  | none => b

/-- DEMAND_WRITE_BACK (R162, R230) of any on-chip memory. -/
def Chip.demandWriteBack (b : Chip) (u : MemUnit) : Chip :=
  match u with
  | .bm m => b.demandBack (.bm m)
  | .spBank r k => b.demandBack (.spBank r k)
  | .im r blk => b.gmDemand ⟨r, blk⟩ 0
  | .cm r blk => b.gmDemand ⟨r, blk⟩ 1
  | .ds r blk => b.gmDemand ⟨r, blk⟩ 2

def execDemandWriteBack (u : MemUnit) (t : Nat) (s : State) : Out := act s fun b => (b.upTo t).demandWriteBack u

/-! ### The dictionary's access (R233 to R235) -/

/-- Space, group and index of an address (R234). -/
def gmSpace (a : Nat) : Nat := field a 30 2
def gmGroup (r a : Nat) : Grp := ⟨r, field a 18 6⟩
def gmIndex (a : Nat) : Nat := field a 0 14
def gmSize (space : Nat) : Nat := if space = 1 then 16384 else 4096
def gmBytes (space : Nat) : Nat := if space = 0 then 8 else if space = 1 then 4 else 2
def gmUnit (r a : Nat) : MemUnit :=
  match gmSpace a with
  | 0 => imUnit (gmGroup r a)
  | 1 => cmUnit (gmGroup r a)
  | _ => dsUnit (gmGroup r a)

/-- The checks of a transfer: 0 where it is accepted. -/
def Chip.gmCheck (b : Chip) (r a n : Nat) (write : Bool) : Nat :=
  if b.testHoldsAll || b.underTest (gmUnit r a) then 0x08000020
  else if write && gmSpace a == 0 && (b.groupNow (gmGroup r a)).st != .stop then 0x08000022
  else if gmSize (gmSpace a) < gmIndex a + n then 0x06090030
  else 0

/-- The address after n units: the index field advances. -/
def gmNext (a n : Nat) : Nat := a - gmIndex a + (gmIndex a + n) % 16384

/-- The bytes of one unit. -/
def Chip.gmUnitBytes (b : Chip) (g : Grp) (space i : Nat) : Bytes :=
  match space with
  | 0 => toBytes 8 (b.imWord g i).toNat
  | 1 => toBytes 4 (b.cmWord g i).toNat
  | _ => toBytes 2 (b.dsWord g i).toNat

/-- A dictionary access waits for a maintenance cycle of its memory: the next cycle, where the present one is none (R235). A
memory whose clock is stopped, or that the sequencer never leaves free, is not waited for longer (log entry 129). -/
def Chip.awaitGroup (b : Chip) (g : Grp) (space : Nat) : Chip :=
  let b := b.settleGroup g
  if !b.islandTurns g.r || !b.netRuns g.r (b.group g).net || b.gmMaintenance g space then b
  else (b.upTo (b.groupTickIn g 1)).settleGroup g

def Chip.gmReadUnits (b : Chip) (g : Grp) (space i : Nat) : Nat → Chip × Option Bytes
  | 0 => (b, some [])
  | n + 1 =>
    match ((b.awaitGroup g space).gmMaint g space).gmMeet g space i 0xFF with
    | (b, _, true) => (b, none)
    | (b, _, false) =>
      match b.gmReadUnits g space (i + 1) n with
      | (b', none) => (b', none)
      | (b', some d) => (b', some (b.gmUnitBytes g space i ++ d))

/-- A read of 0x25ii:34 on path o; an observe read leaves the address (R235, R452). -/
def Chip.groupRead (b : Chip) (o r : Nat) : Chip × Except Nat Bytes :=
  let a := b.reg (0x2500 + r) 0x33
  let n := b.reg (0x2500 + r) 0x35
  match b.gmCheck r a n false with
  | 0 =>
    match b.gmReadUnits (gmGroup r a) (gmSpace a) (gmIndex a) n with
    | (b, some d) => (if o = 6 then b else b.setReg (0x2500 + r) 0x33 (gmNext a n), .ok d)
    | (b, none) => (b, .error 0x06060000)
  | e => (b.transferRefused r e, .error e)

/-- One unit stored. -/
def Chip.gmStore (b : Chip) (g : Grp) (space i v : Nat) : Chip :=
  match space with
  | 0 => b.imStore g i (BitVec.ofNat 64 v)
  | 1 => b.cmStore g i (b.groupCycle g) (BitVec.ofNat 32 v)
  | _ => b.dsStore g i (b.groupCycle g) (BitVec.ofNat 16 v)

def Chip.gmWriteUnits (b : Chip) (g : Grp) (space i : Nat) (d : Bytes) : Nat → Chip
  | 0 => b
  | n + 1 =>
    let w := gmBytes space
    let b := (b.awaitGroup g space).gmMaint g space
    (b.gmStore g space i (ofBytes (d.take w))).gmWriteUnits g space (i + 1) (d.drop w) n

/-- A write of 0x25ii:34. -/
def Chip.groupWrite (b : Chip) (r : Nat) (d : Bytes) : Chip × Except Nat Unit :=
  let a := b.reg (0x2500 + r) 0x33
  let n := b.reg (0x2500 + r) 0x35
  match b.gmCheck r a n true with
  | 0 =>
    if d.length ≠ n * gmBytes (gmSpace a) then (b, .error 0x06070010)
    else ((b.gmWriteUnits (gmGroup r a) (gmSpace a) (gmIndex a) d n).setReg (0x2500 + r) 0x33 (gmNext a n), .ok ())
  | e => (b.transferRefused r e, .error e)

def execGroupMemoryDataRead (q : Req) (r : Nat) (s : State) : Out :=
  act s fun b => b.readRow q (0x2500 + r) 0x34 fun b => b.groupRead q.owner r

def execGroupMemoryDataWrite (q : Req) (r : Nat) (data : Bytes) (s : State) : Out :=
  act s fun b => b.writeBytesRow q (0x2500 + r) 0x34 data fun b => b.groupWrite r data

end Sys2Proof.Machine
end

