-- ==== Sys2Proof/Machine/Sequencer.lean ====
section
/-! DEFINITION. The slice-group sequencer: events and shadow switching, start and stop, the issue of an instruction with
its loops, and the control instructions (R207 to R211, R217 to R224, R233). -/

namespace Sys2Proof.Machine

open Sys2Proof

/-! ### Events (R219 to R222) -/

/-- The cycle in which the next instruction can issue: after the empty cycles that a start, a branch or RET leaves, and not
before the present one. An event whose boundary passes before it is taken first. -/
def Group.nextIssue (x : Group) (now : Nat) : Group × Nat :=
  let free := match x.last with
    | some l => l + 1 + x.gap
    | none => 0
  let c := max now free
  let first := (List.range 4).foldl (fun m e =>
    if x.pending.getLsbD e && x.evMask.getLsbD e then min m (x.eventBoundary e) else m) c
  if x.handler.isNone && x.rep == 0 && decide (first < c) then (x.takeEvent first, max now (first + 1)) else (x, c)

/-- An overrun of the bound (R222): counted in every contract status, and a miss of cause 9. -/
def Chip.overrun (b : Chip) (g : Grp) (ev : Nat) : Chip :=
  (b.count (0x2500 + g.r) 0x3D).missSeen g.r (b.looseMissInfo g.r 9 (g.b * 4 + ev) 0)

/-- The present net-0 cycle lies beyond the bound of an assertion. -/
def Chip.overdue (b : Chip) (g : Grp) (ev since c : Nat) : Bool := decide (since + (b.group g).bound.getD ev 0 < c)

/-- SG_EVENT_ASSERT (R219): ignored in STOP and FAULT, and while the bit is set. -/
def Chip.assertEvent (b : Chip) (g : Grp) (n : Nat) : Chip :=
  let b := b.settleGroup g
  let x := b.group g
  if b.groupClock g && (x.st == .run || x.st == .wait) && x.evEnable.getLsbD n && !x.pending.getLsbD n then
    let a : EvMark := { net0 := b.groupNet0 g, cyc := b.groupCycle g }
    b.modGroup g fun x => { x with pending := setEv x.pending n true, evStart := Tab.set x.evStart n a }
  else b

def execSgEventAssert (g : Grp) (n t : Nat) (s : State) : Out := act s fun b => (b.upTo t).assertEvent g n

/-- EVENT_ENTRY (R219, R220): the present cycle is a boundary in which nothing issues after it. -/
def Chip.enterEvent (b : Chip) (g : Grp) : Chip :=
  let b := b.settleGroup g
  let c := b.groupCycle g
  if b.groupClock g && decide (((b.group g).last.getD 0) ≤ c) then b.modGroup g fun x => x.takeEvent c else b

def execEventEntry (g : Grp) (t : Nat) (s : State) : Out := act s fun b => (b.upTo t).enterEvent g

/-- The bound of an event that still waits. -/
def Chip.waitingOverrun (b : Chip) (g : Grp) (ev c : Nat) : Chip :=
  let x := b.group g
  let a := x.evMark ev
  if x.pending.getLsbD ev && !a.late && b.overdue g ev a.net0 c then
    (b.modGroup g fun x => { x with evStart := Tab.set x.evStart ev { a with late := true } }).overrun g ev
  else b

/-- SEQUENCER_OVERRUN (R222): the handler's RET has not issued by the bound. It is seen once per assertion. -/
def Chip.overrunSeen (b : Chip) (g : Grp) (ev : Nat) : Chip :=
  let b := b.settleGroup g
  let x := b.group g
  let c := b.isle g.r
  match x.handler with
  | some h =>
    if h.ev = ev ∧ h.late = false ∧ b.overdue g ev h.since c = true then
      (b.modGroup g fun x => { x with handler := some { h with late := true } }).overrun g ev
    else b.waitingOverrun g ev c
  | none => b.waitingOverrun g ev c

def execSequencerOverrun (r blk ev t : Nat) (s : State) : Out := act s fun b => (b.upTo t).overrunSeen ⟨r, blk⟩ ev

/-! ### Start and stop (R224) -/

/-- A start: only from STOP, and not in the cycle of a stop. The first instruction is fetched in the next cycle, and issues two
cycles after that (R207). -/
def Chip.startGroup (b : Chip) (g : Grp) : Chip :=
  let b := b.settleGroup g
  if b.groupUnderTest g then b.groupTested g
  else
    let x := b.group g
    let c := b.groupCycle g
    if b.groupClock g && x.st == .stop && x.stopAt != some c then
      (b.modGroup g fun x => { x with
        st := .run
        pc := x.start
        pending := 0#4
        evStart := []
        fetched := true
        startAt := some c
        last := some c
        gap := 2 }).prefetch g
    else b

/-- A stop takes effect at the next boundary: not inside a REP (R218). -/
def Chip.stopGroup (b : Chip) (g : Grp) : Chip :=
  let b := b.settleGroup g
  let x := b.group g
  let c := b.groupCycle g
  if b.groupClock g && x.running then
    if x.rep = 0 then b.modGroup g fun x => x.stopAfter c x.last false
    else b.modGroup g fun x => { x with stopReq := true }
  else if x.st = .stop then b.modGroup g fun x => { x with stopAt := some c }
  else b

def execSgStart (g : Grp) (t : Nat) (s : State) : Out := act s fun b => (b.upTo t).startGroup g
def execSgStop (g : Grp) (t : Nat) (s : State) : Out := act s fun b => (b.upTo t).stopGroup g

/-- The groups that a mask of region r names. -/
def maskGroups (r : Nat) (mask : BitVec 64) : List Grp := (bitsOf mask.toNat 64).map fun k => ⟨r, k⟩

def Chip.startMask (b : Chip) (r : Nat) (mask : BitVec 64) : Chip := (maskGroups r mask).foldl Chip.startGroup b
def Chip.stopMask (b : Chip) (r : Nat) (mask : BitVec 64) : Chip := (maskGroups r mask).foldl Chip.stopGroup b

/-- Both flag sets of each named group are cleared (R233). -/
def Chip.clearFlagMask (b : Chip) (r : Nat) (mask : BitVec 64) : Chip :=
  (maskGroups r mask).foldl (fun b g => (b.settleGroup g).modGroup g fun x => { x with
    main := { x.main with flags := 0#5 }
    shadow := { x.shadow with flags := 0#5 } }) b

def execStartMaskWrite (q : Req) (r : Nat) (mask : BitVec 64) (s : State) : Out :=
  act s fun b => b.writeRow q (0x2500 + r) 0x36 mask.toNat fun b => .ok (b.startMask r mask)

def execStopMaskWrite (q : Req) (r : Nat) (mask : BitVec 64) (s : State) : Out :=
  act s fun b => b.writeRow q (0x2500 + r) 0x37 mask.toNat fun b => .ok (b.stopMask r mask)

def execClearFlags (q : Req) (r : Nat) (mask : BitVec 64) (s : State) : Out :=
  act s fun b => b.writeRow q (0x2500 + r) 0x3F mask.toNat fun b => .ok (b.clearFlagMask r mask)

/-! ### Issue (R207 to R211, R217, R218) -/

/-- Where the sequencer goes after an instruction. -/
inductive Flow where
  | next
  | jump (target : Nat)
  | loop (last : Nat) (count : BitVec 16)
  | rep (n : Nat)
  | stop
  | ret
  deriving DecidableEq, Repr

/-- What an instruction does: the device and the flow, or the code of a sequencer fault. -/
abbrev Eff := Except Nat (Chip × Flow)

/-- The fetched word's errors: prefetched and cached words are not read again. -/
def Chip.fetchMeet (b : Chip) (g : Grp) : Chip × Bool :=
  let x := b.group g
  let prefetched := x.fetched &&
    (match x.handler with
    | some h => decide (x.entry.getD h.ev 0 ≤ x.pc) && decide (x.pc < x.entry.getD h.ev 0 + 3)
    | none => false)
  if x.cached || prefetched then (b, false)
  else
    let (b, _, err) := b.gmMeet g 0 x.pc 0xFF
    (b, err)

/-- The coefficient elements that the operands read, with the lane of each: a row, or one element for all lanes. -/
def operandReads (s : RegSet) (w : BitVec 64) : List (Nat × Nat) :=
  let one := fun src areg => (srcElements s src areg).zipIdx.map fun x => (x.1, if src == 1 then x.2 else 0xFF)
  (if usesP (wOp w) then one (wPSrc w) (wPAreg w) else []) ++ (if usesQ (wOp w) then one (wQSrc w) (wQAreg w) else [])

/-- After the last word of a loop body another pass begins, or the loop ends (R217). -/
def Group.advance (x : Group) : Group :=
  match x.regs.loop with
  | some l =>
    if x.pc = l.last then
      if x.regs.lc = 0#16 then
        { x.modRegs fun s => { s with loop := none } with pc := x.pc + 1 }
      else
        { x.modRegs fun s => { s with lc := s.lc - 1#16, loop := some { l with again := true } } with pc := l.first }
    else { x with pc := x.pc + 1 }
  | none => { x with pc := x.pc + 1 }

/-- A taken branch ends an active loop and leaves two issue cycles empty (R209). -/
def Group.branch (x : Group) (target : Nat) : Group :=
  { x.modRegs fun s => { s with loop := none } with pc := target, gap := 2 }

/-- The end of a handler (R220, R222) in issue cycle c: a late RET is an overrun; then another event is entered, or the
interrupted code continues after two empty cycles. -/
def Chip.endHandler (b : Chip) (g : Grp) (c : Nat) : Chip :=
  match (b.group g).handler with
  | some h =>
    let b := if !h.late && b.overdue g h.ev h.since (b.groupNet0 g) then b.overrun g h.ev else b
    b.modGroup g fun x => { x with handler := none, pc := x.saved, gap := 2 }.takeEvent c
  | none => b

/-- The sequencer after an instruction of issue cycle c (R217, R218, R224). -/
def Chip.follow (b : Chip) (k : Ctx) (fl : Flow) : Chip :=
  let prev := (b.group k.g).last
  let b := b.modGroup k.g fun x =>
    { x.modRegs fun s => s.modifyAll (modified k.w) with
      st := .run
      last := some k.c
      gap := 0
      took := if busesOf k.w = 0#3 then x.took else some (k.c, busesOf k.w)
      handler := x.handler.map fun h => { h with issued := h.issued + 1 } }
  let b := match fl with
    | .next => b.modGroup k.g fun x =>
      if 1 < x.rep then { x with rep := x.rep - 1 } else { x with rep := 0 }.advance
    | .jump a => b.modGroup k.g fun x => x.branch a
    | .loop last n => b.modGroup k.g fun x =>
      { x.modRegs fun s => { s with lc := n, loop := some { first := x.pc + 1, last := last } } with pc := x.pc + 1 }
    | .rep n => b.modGroup k.g fun x => { x with rep := n, pc := x.pc + 1 }
    | .stop => b.modGroup k.g fun x => { x.stopAfter k.c prev true with pc := x.pc + 1 }
    | .ret => b.endHandler k.g k.c
  let x := b.group k.g
  if x.stopReq && x.rep == 0 then b.modGroup k.g fun x => x.stopAfter k.c x.last false else b

/-- The instruction word is legal where it stands (R211), with the fault code of R231 where it is not. -/
def Chip.illegal (b : Chip) (g : Grp) (w : BitVec 64) : Option Nat :=
  let x := b.group g
  let op := wOp w
  if !opDefined op || !operandsLegal x.regs w then some 1
  else if x.rep != 0 && isControl op && op != 0 then some 1
  else if op = 6 ∧ x.handler = none then some 4
  else match x.handler with
    | some h => if h.issued < 3 ∧ readsAcc op = true then some 2 else none
    | none => none

/-- The instruction of opcode op at the PC issues with effect f, where the word there has that opcode. While it waits for a
bus or for sg_go, nothing issues (R205). An injected illegal instruction, an illegal word, an uncorrectable word or operand is a
sequencer fault instead. -/
def Chip.issueAt (b : Chip) (g : Grp) (x : Issue) (op c : Nat) (f : Chip → Ctx → Eff) : Chip :=
  let pc := (b.group g).pc
  if 4096 ≤ pc then b.seqFault g 3 0xFF 0 4096 false
  else
    let (b, err) := b.fetchMeet g
    if err then b
    else
      let w := b.imWord g pc
      if wOp w ≠ op ∧ opDefined (wOp w) = true then b
      else if waits w x then b.modGroup g fun x => { x with st := .wait }
      else if b.isArmed 0x2D40 1 (groupKey g.r g.b) then
        (b.applyArmed 0x2D40 1 (groupKey g.r g.b) (evCode 2 4 g.r 1)).seqFault g 1 0xFF 0 pc true
      else
        match b.illegal g w with
        | some code => b.seqFault g code 0xFF 0 pc false
        | none =>
          let (b, _, err) := b.gmMeetAll g 1 (operandReads (b.group g).regs w)
          if err then b
          else
            let k : Ctx := { g, w, c, x }
            match f b k with
            | .ok (b, fl) => b.follow k fl
            | .error code => b.seqFault g code 0xFF 0 pc false

/-- The group in the cycle in which it can issue next: it has entered an event whose boundary has passed, and time has moved
on to that cycle. -/
def Chip.toIssue (b : Chip) (g : Grp) : Chip :=
  let b := b.settleGroup g
  let now := b.groupCycle g
  let n := (b.group g).nextIssue now
  ((b.modGroup g fun _ => n.1).upTo (b.groupTickIn g (n.2 - now))).settleGroup g

/-- The group may issue: it is in RUN or WAIT, its clock passes edges and it is not under test. -/
def Chip.mayIssue (b : Chip) (g : Grp) : Bool := b.groupClock g && (b.groupNow g).running && !b.groupUnderTest g

/-- An issue row: the running group issues its next instruction, at the row's tick or in the first cycle after it in
which the sequencer can issue. -/
def Chip.issue (b : Chip) (g : Grp) (x : Issue) (op : Nat) (f : Chip → Ctx → Eff) : Chip :=
  let b := b.upTo x.t
  if b.mayIssue g then
    let b := b.toIssue g
    b.issueAt g x op (b.groupCycle g) f
  else b.settleGroup g

/-! ### Control instructions (R209) -/

/-- The register number of SETA, ADDA, SETM and DJNZ. -/
def wReg (w : BitVec 64) : Nat := field w.toNat 55 3
def wTarget (w : BitVec 64) : Nat := field w.toNat 0 12

def execNop (g : Grp) (x : Issue) (s : State) : Out :=
  act s fun b => b.issue g x 0x00 fun b _ => .ok (b, .next)

def execStop (g : Grp) (x : Issue) (s : State) : Out :=
  act s fun b => b.issue g x 0x01 fun b _ => .ok (b, .stop)

def execJmp (g : Grp) (x : Issue) (s : State) : Out :=
  act s fun b => b.issue g x 0x02 fun b k => .ok (b, .jump (wTarget k.w))

/-- DJNZ: Ai ← (Ai − 1) mod 2^14; branch where the result is not 0. -/
def djnzEff (b : Chip) (k : Ctx) : Eff :=
  let i := wReg k.w
  let v := (b.group k.g).regs.addr i - 1#14
  .ok (b.modGroup k.g fun x => x.modRegs fun s => { s with a := Tab.set s.a i v },
    if v = 0#14 then .next else .jump (wTarget k.w))

def execDjnz (g : Grp) (x : Issue) (s : State) : Out := act s fun b => b.issue g x 0x03 djnzEff

/-- LOOP (R217): illegal while a loop is active, or with its end at or below its own address. -/
def loopEff (b : Chip) (k : Ctx) : Eff :=
  let x := b.group k.g
  let last := field k.w.toNat 16 12
  if x.regs.loop.isSome || decide (last ≤ x.pc) then .error 1
  else .ok (b, .loop last (BitVec.ofNat 16 (field k.w.toNat 0 16)))

def execLoop (g : Grp) (x : Issue) (s : State) : Out := act s fun b => b.issue g x 0x04 loopEff

/-- REP (R218): illegal as the last word of a loop body. -/
def repEff (b : Chip) (k : Ctx) : Eff :=
  let x := b.group k.g
  match x.regs.loop with
  | some l => if x.pc = l.last then .error 1 else .ok (b, .rep (wTarget k.w + 1))
  | none => .ok (b, .rep (wTarget k.w + 1))

def execRep (g : Grp) (x : Issue) (s : State) : Out := act s fun b => b.issue g x 0x05 repEff

def execRet (g : Grp) (x : Issue) (s : State) : Out :=
  act s fun b => b.issue g x 0x06 fun b _ => .ok (b, .ret)

/-- WAITG issues in a cycle in which sg_go is 1, and waits till then. -/
def execWaitg (g : Grp) (x : Issue) (s : State) : Out :=
  act s fun b => b.issue g x 0x07 fun b _ => .ok (b, .next)

def execEvmask (g : Grp) (x : Issue) (s : State) : Out :=
  act s fun b => b.issue g x 0x08 fun b k =>
    .ok (b.modGroup k.g fun x => { x with evMask := BitVec.ofNat 4 (field k.w.toNat 0 4) }, .next)

/-- An address register written. -/
def Chip.setAddr (b : Chip) (k : Ctx) (i : Nat) (v : BitVec 14) : Chip :=
  b.modGroup k.g fun x => x.modRegs fun s => { s with a := Tab.set s.a i v }

def execSeta (g : Grp) (x : Issue) (s : State) : Out :=
  act s fun b => b.issue g x 0x09 fun b k =>
    .ok (b.setAddr k (wReg k.w) (BitVec.ofNat 14 (field k.w.toNat 0 14)), .next)

def execAdda (g : Grp) (x : Issue) (s : State) : Out :=
  act s fun b => b.issue g x 0x0A fun b k =>
    let i := wReg k.w
    .ok (b.setAddr k i ((b.group k.g).regs.addr i + BitVec.ofInt 14 (signed 16 (field k.w.toNat 0 16))), .next)

def execSetm (g : Grp) (x : Issue) (s : State) : Out :=
  act s fun b => b.issue g x 0x0B fun b k =>
    .ok (b.modGroup k.g fun x => x.modRegs fun s =>
      { s with m := Tab.set s.m (wReg k.w) (BitVec.ofNat 32 (field k.w.toNat 0 32)) }, .next)

/-- CLRF: [0] the flags of the set in use; [1] BIX ← L in every lane; [2] BIX ← 0 unless [1] is set. -/
def clrfEff (b : Chip) (k : Ctx) : Eff :=
  let f := field k.w.toNat 0 3
  let b := if bit f 0 then b.modGroup k.g fun x => x.modRegs fun s => { s with flags := 0#5 } else b
  .ok (if bit f 1 || bit f 2 then
      b.modGroup k.g fun x => (List.range 8).foldl (fun x l =>
        x.bixWrite k.c l (if bit f 1 then BitVec.ofNat 16 l else 0#16)) x
    else b, .next)

def execClrf (g : Grp) (x : Issue) (s : State) : Out := act s fun b => b.issue g x 0x0C clrfEff

end Sys2Proof.Machine
end

