-- ==== Sys2Proof/Machine/Slices.lean ====
section
/-! DEFINITION. The datapath instructions of the slices: what each does per enabled lane (R207, R210 to R216). -/

namespace Sys2Proof.Machine

open Sys2Proof

/-- The enabled lanes of an instruction. -/
def enabled (w : BitVec 64) : List Nat := (List.range 8).filter (wLane w)

/-- Every enabled lane writes ACCd with a value and its flags. Values are formed from the device as it stood before the
instruction, so no lane sees another's write. -/
def accEff (b : Chip) (k : Ctx) (f : Nat → BitVec 80 × BitVec 5) : Eff :=
  .ok (b.modGroup k.g fun x => (enabled k.w).foldl (fun x l =>
    (x.accWrite k.c l (wAccD k.w) (f l).1).setFlags (f l).2) x, .next)

/-- ACCd as the forwarded accumulate stage sees it, and ACCa as an operand read sees it. -/
def Chip.accD (b : Chip) (k : Ctx) (l : Nat) : BitVec 80 := (b.group k.g).accNow l (wAccD k.w)
def Chip.accA (b : Chip) (k : Ctx) (l : Nat) : BitVec 80 := (b.group k.g).accRead k.c l (wAccA k.w)

/-- P × Q at the selected signedness (R212). -/
def Chip.product (b : Chip) (k : Ctx) (l : Nat) : Int :=
  extInt (pUnsigned k.w) (b.opP k l) * extInt (qUnsigned k.w) (b.opQ k l)

/-- P extended as mode [24] selects. -/
def Chip.extP (b : Chip) (k : Ctx) (l : Nat) : Int := extInt (bit (wMode k.w) 0) (b.opP k l)
def Chip.extQ (b : Chip) (k : Ctx) (l : Nat) : Int := extInt (bit (wMode k.w) 0) (b.opQ k l)

/-! ### Integer instructions (R210, R212) -/

def macEff (b : Chip) (k : Ctx) : Eff :=
  accEff b k fun l => narrow (wSat k.w) ((b.accD k l).toInt + b.product k l)
def execMac (g : Grp) (x : Issue) (s : State) : Out := act s fun b => b.issue g x 0x10 macEff

def msuEff (b : Chip) (k : Ctx) : Eff :=
  accEff b k fun l => narrow (wSat k.w) ((b.accD k l).toInt - b.product k l)
def execMsu (g : Grp) (x : Issue) (s : State) : Out := act s fun b => b.issue g x 0x11 msuEff

def mulEff (b : Chip) (k : Ctx) : Eff := accEff b k fun l => narrow false (b.product k l)
def execMul (g : Grp) (x : Issue) (s : State) : Out := act s fun b => b.issue g x 0x12 mulEff

def addEff (b : Chip) (k : Ctx) : Eff :=
  accEff b k fun l => narrow (wSat k.w) ((b.accA k l).toInt + b.extP k l)
def execAdd (g : Grp) (x : Issue) (s : State) : Out := act s fun b => b.issue g x 0x13 addEff

def subEff (b : Chip) (k : Ctx) : Eff :=
  accEff b k fun l => narrow (wSat k.w) ((b.accA k l).toInt - b.extP k l)
def execSub (g : Grp) (x : Issue) (s : State) : Out := act s fun b => b.issue g x 0x14 subEff

def absdEff (b : Chip) (k : Ctx) : Eff :=
  accEff b k fun l => narrow false ((b.accD k l).toInt + ((b.extP k l - b.extQ k l).natAbs : Nat))
def execAbsd (g : Grp) (x : Issue) (s : State) : Out := act s fun b => b.issue g x 0x15 absdEff

def movaEff (b : Chip) (k : Ctx) : Eff := accEff b k fun l => (b.accA k (sourceLane k.w l), 0#5)
def execMova (g : Grp) (x : Issue) (s : State) : Out := act s fun b => b.issue g x 0x16 movaEff

def ldaEff (b : Chip) (k : Ctx) : Eff :=
  accEff b k fun l => narrow false (b.extP k l * 2 ^ field (wImm k.w) 0 6)
def execLda (g : Grp) (x : Issue) (s : State) : Out := act s fun b => b.issue g x 0x17 ldaEff

/-- SHA: positive shifts left, negative shifts arithmetic right. -/
def shift80 (v : BitVec 80) (n : Int) : BitVec 80 × BitVec 5 :=
  if 0 ≤ n then narrow false (v.toInt * 2 ^ n.toNat) else narrow false (v.toInt / 2 ^ n.natAbs)

def shaEff (b : Chip) (k : Ctx) : Eff :=
  accEff b k fun l => shift80 (b.accA k l) (signed 8 (field (wImm k.w) 0 8))
def execSha (g : Grp) (x : Issue) (s : State) : Out := act s fun b => b.issue g x 0x18 shaEff

def minaEff (b : Chip) (k : Ctx) : Eff :=
  accEff b k fun l => (if (b.accA k l).toInt < (b.accD k l).toInt then b.accA k l else b.accD k l, 0#5)
def execMina (g : Grp) (x : Issue) (s : State) : Out := act s fun b => b.issue g x 0x19 minaEff

def maxaEff (b : Chip) (k : Ctx) : Eff :=
  accEff b k fun l => (if (b.accD k l).toInt < (b.accA k l).toInt then b.accA k l else b.accD k l, 0#5)
def execMaxa (g : Grp) (x : Issue) (s : State) : Out := act s fun b => b.issue g x 0x1A maxaEff

/-! ### FP instructions (R213) -/

/-- The FP32 value in an accumulator. -/
def accFp (v : BitVec 80) : Fp := fpOf (BitVec.setWidth 32 v)

def fmaEff (b : Chip) (k : Ctx) : Eff :=
  accEff b k fun l => fpWrite (fpFma (accFp (b.accD k l)) (fpOf (b.opP k l)) (fpOf (b.opQ k l)))
def execFma (g : Grp) (x : Issue) (s : State) : Out := act s fun b => b.issue g x 0x20 fmaEff

def fmsEff (b : Chip) (k : Ctx) : Eff :=
  accEff b k fun l => fpWrite (fpFma (accFp (b.accD k l)) (fpOf (b.opP k l)).neg (fpOf (b.opQ k l)))
def execFms (g : Grp) (x : Issue) (s : State) : Out := act s fun b => b.issue g x 0x21 fmsEff

def fmulEff (b : Chip) (k : Ctx) : Eff :=
  accEff b k fun l => fpWrite (fpMul (fpOf (b.opP k l)) (fpOf (b.opQ k l)))
def execFmul (g : Grp) (x : Issue) (s : State) : Out := act s fun b => b.issue g x 0x22 fmulEff

def faddEff (b : Chip) (k : Ctx) : Eff :=
  accEff b k fun l => fpWrite (fpAdd (accFp (b.accA k l)) (fpOf (b.opP k l)))
def execFadd (g : Grp) (x : Issue) (s : State) : Out := act s fun b => b.issue g x 0x23 faddEff

def cvtfEff (b : Chip) (k : Ctx) : Eff :=
  accEff b k fun l => fpWrite (fpOfInt (b.accA k l).toInt (field (wImm k.w) 0 7))
def execCvtf (g : Grp) (x : Issue) (s : State) : Out := act s fun b => b.issue g x 0x24 cvtfEff

def cvtiEff (b : Chip) (k : Ctx) : Eff :=
  accEff b k fun l => cvtiWrite (fpToInt (accFp (b.accA k l)) (field (wImm k.w) 0 7))
def execCvti (g : Grp) (x : Issue) (s : State) : Out := act s fun b => b.issue g x 0x25 cvtiEff

/-! ### Trellis steps (R215) -/

/-- Branch metric j: unsigned halves of P, then of Q. -/
def branchMetric (p q : BitVec 32) (j : Nat) : Nat := field (if j < 2 then p else q).toNat (16 * (j % 2)) 16

/-- The sums of one lane: value and flags of each path. -/
def Chip.paths (b : Chip) (k : Ctx) (n l : Nat) : List (BitVec 80 × BitVec 5) :=
  (List.range n).map fun j =>
    narrow false (((b.group k.g).accRead k.c l (wAccA k.w + j)).toInt + branchMetric (b.opP k l) (b.opQ k l) j)

/-- The winner: the smallest sum, the lower index among equals. -/
def winner (l : List (BitVec 80 × BitVec 5)) : Nat × BitVec 80 :=
  l.zipIdx.foldl (fun (w : Nat × BitVec 80) x => if x.1.1.toInt < w.2.toInt then (x.2, x.1.1) else w)
    (0, (l.headD (0#80, 0#5)).1)

/-- The decision bits of all lanes, n bits a lane; a disabled lane gives 0. -/
def Chip.decisions (b : Chip) (k : Ctx) (n width : Nat) : Nat :=
  (enabled k.w).foldl (fun d l => d + (winner (b.paths k n l)).1 * 2 ^ (width * l)) 0

/-- ACCd of each enabled lane takes the winner; wrapped sums set AV. -/
def acsLanes (b : Chip) (k : Ctx) (n : Nat) : Chip :=
  b.modGroup k.g fun x => (enabled k.w).foldl (fun x l =>
    let p := b.paths k n l
    (x.accWrite k.c l (wAccD k.w) (winner p).2).setFlags (p.foldl (fun f y => f ||| y.2) 0#5)) x

/-- ACS2: one byte at byte address Ak[12:0] of the decision store, at the end of the second cycle after issue. -/
def acs2Eff (b : Chip) (k : Ctx) : Eff :=
  let a := ((b.group k.g).regs.addr (wKreg k.w)).toNat % 8192
  let d := b.decisions k 2 1
  let old := (b.dsWord k.g (a / 2)).toNat
  let v := if a % 2 = 0 then old / 256 * 256 + d else old % 256 + d * 256
  .ok ((acsLanes b k 2).dsStore k.g (a / 2) (k.c + 2) (BitVec.ofNat 16 v), .next)
def execAcs2 (g : Grp) (x : Issue) (s : State) : Out := act s fun b => b.issue g x 0x28 acs2Eff

/-- ACS4: one halfword at halfword address Ak[12:1]. -/
def acs4Eff (b : Chip) (k : Ctx) : Eff :=
  let a := ((b.group k.g).regs.addr (wKreg k.w)).toNat % 8192
  .ok ((acsLanes b k 4).dsStore k.g (a / 2) (k.c + 2) (BitVec.ofNat 16 (b.decisions k 4 2)), .next)
def execAcs4 (g : Grp) (x : Issue) (s : State) : Out := act s fun b => b.issue g x 0x29 acs4Eff

/-! ### Min-plus step (R216) -/

/-- MINP in one lane: t = ACCa of the source lane + P; where it is less, ACCd and BIX take it. -/
def minpLane (b : Chip) (k : Ctx) (x : Group) (l : Nat) : Group :=
  let src := sourceLane k.w l
  let t := narrow false ((b.accA k src).toInt + (b.opP k l).toInt)
  let x := x.setFlags t.2
  if t.1.toInt < (b.accD k l).toInt then
    let ix := if minpOwn k.w then BitVec.setWidth 16 ((b.group k.g).regs.addr (wKreg k.w))
      else (b.group k.g).bixRead k.c src
    (x.accWrite k.c l (wAccD k.w) t.1).bixWrite k.c l ix
  else x

def minpEff (b : Chip) (k : Ctx) : Eff :=
  .ok (b.modGroup k.g fun x => (enabled k.w).foldl (minpLane b k) x, .next)
def execMinp (g : Grp) (x : Issue) (s : State) : Out := act s fun b => b.issue g x 0x2A minpEff

/-! ### Results (R214) -/

/-- conv of ACCa as the instruction's fields select. -/
def Chip.converted (b : Chip) (k : Ctx) (l : Nat) : BitVec 32 × BitVec 5 :=
  conv (b.accA k l) (field (wImm k.w) 0 7) (wMode k.w % 4) (bit (wMode k.w) 2)

/-- OUT: OUTR ← conv(ACCa), or BIX with mode [27]; sl_out shows it 4 cycles after issue. -/
def outEff (b : Chip) (k : Ctx) : Eff :=
  let v := fun l => if bit (wMode k.w) 3 then (BitVec.setWidth 32 ((b.group k.g).bixRead k.c l), 0#5) else b.converted k l
  .ok (b.modGroup k.g fun x =>
    let x := (enabled k.w).foldl (fun (x : Group) l => (x.outrWrite k.c l (v l).1).setFlags (v l).2) x
    { x with shown := (x.shown.filter fun y => decide (k.c ≤ y.1)) ++ [(k.c + 4, BitVec.ofNat 8 (wLanes k.w))] }, .next)
def execOut (g : Grp) (x : Issue) (s : State) : Out := act s fun b => b.issue g x 0x30 outEff

/-- STC: coefficient element 8 × (A[13:3]) + L ← conv(ACCa), in the issue cycle. -/
def stcEff (b : Chip) (k : Ctx) : Eff :=
  let a := ((b.group k.g).regs.addr (wPAreg k.w)).toNat / 8 * 8
  let d := (enabled k.w).foldl (fun d l => d.cmStore k.g (a + l) k.c (b.converted k l).1) b
  .ok (d.modGroup k.g fun x =>
    { (enabled k.w).foldl (fun x l => x.setFlags (b.converted k l).2) x with stcAt := some k.c }, .next)
def execStc (g : Grp) (x : Issue) (s : State) : Out := act s fun b => b.issue g x 0x31 stcEff

end Sys2Proof.Machine
end

