-- ==== Sys2Proof/Machine/Cupola.lean ====
section
/-! DEFINITION. Cupola: protection regions, rights, counters and tree, the metadata cache, failed checks, poison, and the
region command (R268 to R295). Data of a region with a key stands in Hub.mem as its requests see it; Chip.rawLine is what the
DIMM holds. -/

namespace Sys2Proof.Machine

open Sys2Proof

/-! ### Regions (R268, R274, R276) -/

def Chip.protReg (b : Chip) (rr sub : Nat) : Nat := b.reg (0x2710 + rr) sub
def Chip.protBase (b : Chip) (rr : Nat) : Nat := b.protReg rr 2
def Chip.protExp (b : Chip) (rr : Nat) : Nat := b.protReg rr 3
def Chip.protMode (b : Chip) (rr : Nat) : Nat := b.protReg rr 4
def Chip.protSize (b : Chip) (rr : Nat) : Nat := 2 ^ b.protExp rr

/-- The ranges that a region takes: its data, and in modes 2 and 3 its metadata span. -/
def Chip.protRanges (b : Chip) (rr : Nat) : List (Nat × Nat) :=
  let base := b.protBase rr
  let size := b.protSize rr
  let m := b.protReg rr 5
  (base, base + size) :: (if 2 ≤ b.protMode rr then [(m, m + size * 5 / 32)] else [])

/-- The defined region that holds a hub address as data. -/
def Chip.protAt (b : Chip) (a : Nat) : Option Nat :=
  (List.range 64).find? fun rr =>
    (b.prot rr).st != 0 && decide (b.protBase rr ≤ a) && decide (a < b.protBase rr + b.protSize rr)

/-- Bytes of data beneath a metadata line of a level (R290). -/
def coverOf (level : Nat) : Nat :=
  match level with
  | 0 => 512
  | 1 => 4096
  | n => 4096 * 8 ^ (n - 1)

/-- The hub address of the metadata line of a level over data address a (R274): 0 tag line, 1 counter line, n ≥ 2 tree
level n − 1. -/
def Chip.metaAddr (b : Chip) (rr level a : Nat) : Nat :=
  let o := a - b.protBase rr
  let S := b.protSize rr
  let m := b.protReg rr 5
  match level with
  | 0 => m + o / 512 * 64
  | 1 => m + S / 8 + o / 4096 * 64
  | n => m + S / 8 + S / 64 + S / 512 + treeBytes (b.protExp rr) (n - 2) + o / (32768 * 8 ^ (n - 2)) * 64

/-- The line of the counter-tag area over data address a. -/
def Chip.counterTagAddr (b : Chip) (rr a : Nat) : Nat :=
  b.protReg rr 5 + b.protSize rr / 8 + b.protSize rr / 64 + (a - b.protBase rr) / 32768 * 64

/-- The region whose metadata span holds an address. -/
def Chip.spanAt (b : Chip) (a : Nat) : Option Nat :=
  (List.range 64).find? fun rr =>
    (b.prot rr).st != 0 && decide (2 ≤ b.protMode rr) && decide (b.protReg rr 5 ≤ a) &&
      decide (a < b.protReg rr 5 + b.protSize rr * 5 / 32)

/-- The area of a metadata address of a region. -/
def Chip.metaArea (b : Chip) (rr m : Nat) : MetaArea := areaOf (b.protExp rr) (m - b.protReg rr 5)

/-- The first byte of an area of the span of a region. -/
def Chip.areaBase (b : Chip) (rr : Nat) (x : MetaArea) : Nat :=
  let S := b.protSize rr
  b.protReg rr 5 + match x with
    | .tags => 0
    | .counters => S / 8
    | .counterTags => S / 8 + S / 64
    | .tree n => S / 8 + S / 64 + S / 512 + treeBytes (b.protExp rr) (n - 1)
    | .unused => metaBytes (b.protExp rr)

/-- The poison level of an area, and the bytes of data beneath one of its lines (R284, R290). -/
def MetaArea.level : MetaArea → Nat
  | .tags => 0
  | .counters | .counterTags => 1
  | .tree n => n + 1
  | .unused => 0

def MetaArea.cover : MetaArea → Nat
  | .tags => 512
  | .counters => 4096
  | .counterTags => 32768
  | .tree n => 4096 * 8 ^ n
  | .unused => 0

/-- The level of a metadata address of a region and the first data address beneath it. -/
def Chip.metaPlace (b : Chip) (rr m : Nat) : Nat × Nat :=
  let x := b.metaArea rr m
  (x.level, b.protBase rr + (m - b.areaBase rr x) / 64 * x.cover)

/-- A data address is beneath a poison entry (R284). -/
def Chip.poisoned (b : Chip) (rr a : Nat) : Bool :=
  b.cupola.poison.any fun x => x.2.1 == rr && decide (x.2.2.2 ≤ a) && decide (a < x.2.2.2 + coverOf x.2.2.1)

/-! ### Rights (R270, R282, R284, R287) -/

/-- Bit o of a rights mask of a region. -/
def Chip.protRight (b : Chip) (rr o : Nat) (write : Bool) : Bool := bit (b.protReg rr (if write then 7 else 6)) o

/-- The error code that Cupola gives a request before it looks at the line: 0 where it is served. -/
def Chip.cupolaCode (b : Chip) (o a : Nat) (we part : Bool) : Nat :=
  if b.hub.capacity ≤ a then 4
  else
    match b.protAt a with
    | none => 4
    | some rr =>
      let st := (b.prot rr).st
      if st = 4 then 2
      else if st = 5 ∨ b.cupola.reinit = some (rr, 0xFF) then 3
      else if st ≠ 2 ∧ st ≠ 3 then 4
      else if !b.protRight rr o we || (part && !b.protRight rr o false) then 4
      else if b.poisoned rr a then 3
      else 0

/-- Counters of a result (R289, R291). -/
def Chip.cupolaNote (b : Chip) (a code : Nat) : Chip :=
  let b := if code = 4 then b.count 0x2700 6 else if code = 3 then b.count 0x2700 0x0A else b
  match b.protAt a with
  | some rr =>
    if code = 2 ∨ code = 3 then b.modProt rr fun p => { p with failAddr := a, failCode := code } else b
  | none => b

/-- An event of a protection region (R294, R479, R481). -/
def Chip.cupolaEv (b : Chip) (rr code sev : Nat) (inj : Bool) (a err part level : Nat) : Ev :=
  { code := evCode 4 9 rr code, sev := sev, inj := inj, owner := some (b.prot rr).owner,
    d0 := a % 2 ^ 32, d1 := a / 2 ^ 32, d2 := err + part * 256 + level * 65536 }

/-- A region changes state: its owner sees port event cupola (R307), and a re-key command ends with the state it entered
(R293). -/
def Chip.setProt (b : Chip) (rr st : Nat) (f : ProtRegion → ProtRegion) : Chip :=
  let old := (b.prot rr).st
  let b := b.modProt rr fun p => { f p with st := st }
  let b := if old = st then b else b.raiseOwner (some (b.prot rr).owner) 4
  if old = 3 ∧ st ≠ 3 ∧ b.cupola.sweepCmd = some rr then
    { b with cupola := { b.cupola with sweepCmd := none } }.endCmd 0x2E27 0
  else b

/-! ### Failed checks (R282 to R284) -/

/-- A failed integrity check: the region enters state 4 and the security alarm is raised. -/
def Chip.tamper (b : Chip) (rr a : Nat) (part : Bool) (level : Nat) (inj : Bool) : Chip :=
  let b := b.setProt rr 4 fun p => { p with failAddr := a, failCode := 2 }
  b.chipFault (b.cupolaEv rr 3 5 inj a (if part then 5 else 2) (if part then 1 else 0) level)

/-- A slot of the poison list that holds no entry. -/
def Chip.freePoison (b : Chip) : Option Nat :=
  (List.range 64).find? fun n => !(b.cupola.poison.any fun x => x.1 == n)

/-- An entry of the poison list; with the list full the region enters state 5. -/
def Chip.addPoison (b : Chip) (rr level first : Nat) (inj : Bool) : Chip :=
  if b.cupola.poison.any fun x => x.2 == (rr, level, first) then b
  else
    match b.freePoison with
    | some n => { b with cupola := { b.cupola with poison := Tab.set b.cupola.poison n (rr, level, first) } }
    | none =>
      if (b.prot rr).st = 2 ∨ (b.prot rr).st = 3 then
        (b.setProt rr 5 id).logEvent (b.cupolaEv rr 5 3 inj first 3 0 level)
      else b

/-- Every data line beneath the metadata line at address m is poisoned; a line of counter tags stands over 8 pages. -/
def Chip.poisonLine (b : Chip) (rr m : Nat) (inj : Bool) : Chip :=
  let area := b.metaArea rr m
  let x := b.metaPlace rr m
  if area = .unused then b
  else
    let b := b.logEvent (b.cupolaEv rr 4 3 inj x.2 3 0 x.1)
    let n := if area = .counterTags then 8 else 1
    (List.range n).foldl (fun b i => b.addPoison rr x.1 (x.2 + i * 4096) inj) b

/-! ### Counters (R273, R275) -/

/-- The minor counter of the line of a hub address. -/
def Chip.minorOf (b : Chip) (a : Nat) : Nat := Tab.get 0 b.cupola.minor (a / 64)
def Chip.majorOf (b : Chip) (a : Nat) : Nat :=
  match b.cupola.major.find? fun x => decide (x.1 ≤ a / 4096) && decide (a / 4096 < x.2.1) with
  | some x => x.2.2
  | none => 0

/-- The counter line of a hub page. -/
def Chip.counterLineOf (b : Chip) (page : Nat) : BitVec 512 :=
  counterLine (b.majorOf (page * 4096)) fun j => Tab.get 0 b.cupola.minor (page * 64 + j)

/-! ### What stands on the DIMM (R271, R272, R274 to R277) -/

/-- The key and the key generation that a region's lines stand under: until a sweep has passed them, those before it. -/
def Chip.protKey (b : Chip) (rr : Nat) : BitVec 256 :=
  Config.regionKey (if (b.prot rr).st = 3 then (b.prot rr).oldKey else (b.prot rr).key)
def Chip.protGen (b : Chip) (rr : Nat) : Nat :=
  if (b.prot rr).st = 3 then (b.prot rr).keyGen - 1 else (b.prot rr).keyGen

/-- The counter line that a line stands under: of a line not yet rewritten, the old one (R279). -/
def Chip.countersFor (b : Chip) (a : Nat) : BitVec 512 :=
  match b.cupola.reenc.find? fun x => x.2.1 == a / 4096 && x.2.2.1.getLsbD (a / 64 % 64) with
  | some x => x.2.2.2
  | none => b.counterLineOf (a / 4096)

/-- The IV of a data line. -/
def Chip.lineIv (b : Chip) (rr a : Nat) : BitVec 96 :=
  if b.protMode rr = 1 then ivVeiled a (b.protGen rr)
  else ivData a (lineMajor (b.countersFor a)) (lineMinor (b.countersFor a) (a / 64 % 64))

/-- The line stands encrypted: every line of a veiled region, the written lines of a sealed one (R269, R273). -/
def Chip.encrypted (b : Chip) (rr a : Nat) : Bool := b.protMode rr == 1 || (decide (2 ≤ b.protMode rr) && b.minorOf a != 0)

/-- The ciphertext of a data line, and its tag. -/
def Chip.cipherLine (b : Chip) (rr a : Nat) : Bytes :=
  xorBytes (b.dramBytes (a / 64 * 64) 64) (lineKeystream (b.protKey rr) (b.lineIv rr a))
def Chip.dataTag (b : Chip) (rr a : Nat) : Bytes := gcmTag64 (b.protKey rr) (b.lineIv rr a) (lineAad a) (b.cipherLine rr a)

/-- The 64 bytes that the DIMM holds at a line. -/
def Chip.rawLine (b : Chip) (a : Nat) : Bytes :=
  match b.protAt a with
  | some rr => if b.encrypted rr a then b.cipherLine rr a else b.dramBytes (a / 64 * 64) 64
  | none => b.dramBytes (a / 64 * 64) 64

/-- The counter that the parent of a counter line or a tree node holds for it. -/
def Chip.treeCounter (b : Chip) (m : Nat) : Nat :=
  Tab.get (match b.spanAt m with | some rr => (b.prot rr).treeBase | none => 0) b.cupola.tree m

/-- A metadata line as it goes back to DRAM. Lines of tags keep the tags of data lines that have not been written; a counter tag is
that of its counter line as DRAM holds it. -/
def Chip.metaLine (b : Chip) (rr m : Nat) : Bytes :=
  let data := (b.metaPlace rr m).2
  match b.metaArea rr m with
  | .tags => ((List.range 8).map fun j =>
      if b.minorOf (data + 64 * j) = 0 then b.dramBytes (m + 8 * j) 8 else b.dataTag rr (data + 64 * j)).flatten
  | .counters => counterBytes (b.counterLineOf (data / 4096))
  | .counterTags => ((List.range 8).map fun j =>
      let c := b.metaAddr rr 1 (data + 4096 * j)
      counterTag (b.protKey rr) c (b.treeCounter c) (b.dramBytes c 64)).flatten
  | .tree n =>
    let below := fun (j : Nat) => b.metaAddr rr n (data + 4096 * 8 ^ (n - 1) * j)
    nodeLine (b.protKey rr) m (b.treeCounter m) fun j => b.treeCounter (below j)
  | .unused => b.dramBytes m 64

/-- A metadata line is stored. -/
def Chip.storeMeta (b : Chip) (rr m : Nat) : Chip := b.dramWrite m (fun _ => true) (b.metaLine rr m)

/-- Keys of the hub lines and pages of a range. -/
def inRange (unit lo hi k : Nat) : Bool := decide (lo ≤ k * unit) && decide (k * unit < hi)

/-- The lines of a range of which some byte is listed, and those that have been written in a sealed region. -/
def Chip.listedLines (b : Chip) (lo hi : Nat) : List Nat :=
  ((b.hub.mem.filter fun x => decide (lo ≤ x.1) && decide (x.1 < hi)).map fun x => x.1 / 64).dedup
def Chip.writtenLines (b : Chip) (lo hi : Nat) : List Nat :=
  (b.cupola.minor.filter fun x => inRange 64 lo hi x.1 && x.2 != 0).map fun x => x.1

/-- Lines are left as the DIMM holds them: nothing decrypts them any more (R285, R287). -/
def Chip.leaveRaw (b : Chip) (lines : List Nat) : Chip :=
  let raw := lines.map fun k => (k, b.rawLine (k * 64))
  raw.foldl (fun b x => b.dramWrite (x.1 * 64) (fun _ => true) x.2) b

/-- The data of a region whose key goes stays as ciphertext; unlisted bytes of a veiled region stay undefined. -/
def Chip.leaveCipher (b : Chip) (rr : Nat) : Chip :=
  let lo := b.protBase rr
  let hi := lo + b.protSize rr
  if b.protMode rr = 1 then
    let raw := (b.listedLines lo hi).map fun k => (k, b.rawLine (k * 64))
    raw.foldl (fun b x => b.dramWrite (x.1 * 64) (fun _ => true) x.2) (b.fillRange lo hi none false)
  else b.leaveRaw (b.writtenLines lo hi)

/-! ### Re-keying (R280) -/

/-- The Keep generates a key for a region (R271). -/
def Chip.newKey (b : Chip) (rr : Nat) : Chip := ((b.modProt rr fun p => { p with key := b.free }).tookFree).keepServed

/-- A re-key sweep starts under a new key. -/
def Chip.startRekey (b : Chip) (rr : Nat) : Chip :=
  let b := b.setProt rr 3 fun p => { p with keyGen := p.keyGen + 1, sweep := 0, oldKey := p.key }
  let b := b.newKey rr
  b.logEvent (b.cupolaEv rr 6 1 false 0 0 0 0)

/-- The metadata of a region as a sweep leaves it in DRAM: fresh but for the counter lines of written pages, their tags, and the
tags of written lines. -/
def Chip.sweepMeta (b : Chip) (rr : Nat) : Chip :=
  let lo := b.protBase rr
  let lines := b.writtenLines lo (lo + b.protSize rr)
  let b := b.freshSpan { base := b.protReg rr 5, exp := b.protExp rr, key := (b.prot rr).key }
  let b := ((lines.map fun k => b.metaAddr rr 1 (k * 64)).dedup).foldl (fun b m => b.storeMeta rr m) b
  let b := ((lines.map fun k => b.counterTagAddr rr (k * 64)).dedup).foldl (fun b m => b.storeMeta rr m) b
  ((lines.map fun k => b.metaAddr rr 0 (k * 64)).dedup).foldl (fun b m => b.storeMeta rr m) b

/-- The sweep ends: every written line has minor counter 1 under major counter 0, tree counters are 0, and the region
returns to state 2. -/
def Chip.endRekey (b : Chip) (rr : Nat) : Chip :=
  let lo := b.protBase rr
  let hi := lo + b.protSize rr
  let m := b.protReg rr 5
  let isSealed := decide (2 ≤ b.protMode rr)
  let span := fun (k : Nat) => isSealed && inRange 1 m (m + b.protSize rr * 5 / 32) k
  let b := { b with cupola := { b.cupola with
    major := b.cupola.major.filter fun x => !(inRange 4096 lo hi x.1)
    minor := Tab.mapIf (inRange 64 lo hi) (fun _ => 1) b.cupola.minor
    tree := Tab.drop span b.cupola.tree
    cache := b.cupola.cache.map fun (x : Nat × Bool) => (x.1, x.2 && !span x.1)
    pinnedDirty := b.cupola.pinnedDirty.filter fun k => !span k
    reenc := b.cupola.reenc.filter fun x => x.1 != rr } }
  let b := b.setProt rr 2 fun p => { p with high := 0, treeBase := 0, sweep := b.protSize rr / 4096 }
  let b := if isSealed then b.sweepMeta rr else b
  b.logEvent (b.cupolaEv rr 7 1 false 0 0 0 0)

/-! ### The metadata cache (R277, R278) -/

/-- Lines that the cache holds beside the pinned ones. -/
def Chip.cacheRoom (b : Chip) : Nat := (8388608 - b.cupola.pinned) / 64

/-- The cache holds a line. -/
def Chip.cached (b : Chip) (rr m : Nat) : Bool := b.protMode rr == 3 || b.cupola.cache.any fun x => x.1 == m

/-- The cache takes a line as its most recent. -/
def Chip.cacheInsert (b : Chip) (m : Nat) (dirty : Bool) : Chip :=
  { b with cupola := { b.cupola with cache := (m, dirty) :: b.cupola.cache.filter fun x => x.1 != m } }

/-- A hit: an armed correctable cache error is corrected and counted (R278, R295). -/
def Chip.cacheHit (b : Chip) (rr a : Nat) : Chip :=
  if b.isArmed 0x2D90 5 rr then
    let b := b.applyArmed 0x2D90 5 rr (evCode 4 9 rr 9)
    (b.count 0x2700 9).logEvent (b.cupolaEv rr 9 2 true a 0 0 0)
  else b

/-- An uncorrectable metadata error is armed for a level of a region. -/
def Chip.armedMeta (b : Chip) (rr level : Nat) : Bool :=
  b.inject.armed.any fun x => x.obj == 0x2D90 && x.code == 2 && x.target == rr && x.target2 == level

/-- It is applied. -/
def Chip.applyMeta (b : Chip) (rr level : Nat) : Chip :=
  { b with inject := { b.inject with armed := b.inject.armed.eraseP fun x =>
      x.obj == 0x2D90 && x.code == 2 && x.target == rr && x.target2 == level } }.injected (evCode 4 9 rr 4)

/-- A line of a pinned-sealed region is dirty. -/
def Chip.pinDirty (b : Chip) (m : Nat) : Chip :=
  { b with cupola := { b.cupola with pinnedDirty := m :: b.cupola.pinnedDirty.filter fun x => x != m } }

/-- A metadata line is needed: a hit, or a load from DRAM that verifies, unless an armed error meets it. False: the line
cannot be verified. -/
def Chip.useMeta (b : Chip) (rr level m a : Nat) (dirty : Bool) : Chip × Bool :=
  if b.protMode rr = 3 then
    let b := b.cacheHit rr a
    (if dirty then b.pinDirty m else b, true)
  else
    match b.cupola.cache.find? fun x => x.1 == m with
    | some x => ((b.cacheHit rr a).cacheInsert m (x.2 || dirty), true)
    | none =>
      let b := b.count 0x2700 5
      if b.armedMeta rr level then ((b.applyMeta rr level).poisonLine rr m true, false)
      else (b.cacheInsert m dirty, true)

/-- The tree nodes above a level over data address a that have to be loaded, from the top down: those beneath the lowest node that
the cache holds, which is trusted (R277). -/
def Chip.missingAbove (b : Chip) (rr level a : Nat) : List (Nat × Nat) :=
  (((List.range (treeLevels (b.protExp rr))).map fun i => (i + 2, b.metaAddr rr (i + 2) a)).filter fun x =>
    decide (level < x.1)).takeWhile (fun x => !b.cached rr x.2) |>.reverse

/-- Metadata lines are needed one after another, until one cannot be verified. -/
def Chip.useLines (b : Chip) (rr a : Nat) (l : List (Nat × Nat × Bool)) : Chip × Bool :=
  l.foldl (fun (x : Chip × Bool) y => if x.2 then x.1.useMeta rr y.1 y.2.1 a y.2.2 else x) (b, true)

/-- A tree node is needed, with the chain above it where the cache does not hold it. -/
def Chip.useNode (b : Chip) (rr level a : Nat) (dirty : Bool) : Chip × Bool :=
  let m := b.metaAddr rr level a
  let above := if b.cached rr m then [] else (b.missingAbove rr level a).map fun x => (x.1, x.2, false)
  b.useLines rr a (above ++ [(level, m, dirty)])

/-- A line goes back to DRAM. The counter that its parent holds for a counter line or a tree node increases by 1, and the parent
changes with it; a counter line's new tag goes to its line of counter tags. Past 2^56 − 1 the region is re-keyed. -/
def Chip.writeBackMeta (b : Chip) (m : Nat) : Chip :=
  match b.spanAt m with
  | none => b
  | some rr =>
    let n := b.treeCounter m + 1
    let data := (b.metaPlace rr m).2
    let raise := fun (b : Chip) => { b with cupola := { b.cupola with tree := Tab.set b.cupola.tree m n } }.storeMeta rr m
    let parent := fun (b : Chip) (level : Nat) =>
      if level ≤ treeLevels (b.protExp rr) + 1 then (b.useNode rr level data true).1 else b
    let rekey := fun (b : Chip) => if (b.prot rr).st = 2 then b.startRekey rr else b
    match b.metaArea rr m with
    | .tags | .counterTags => b.storeMeta rr m
    | .counters =>
      if n < 2 ^ 56 then parent ((raise b).useMeta rr 1 (b.counterTagAddr rr data) data true).1 2 else rekey b
    | .tree k => if n < 2 ^ 56 then parent (raise b) (k + 2) else rekey b
    | .unused => b

/-- The least recently used lines leave while the cache has no room, the dirty ones by a write-back. -/
def Chip.evict (fuel : Nat) (b : Chip) : Chip :=
  match fuel with
  | 0 => b
  | f + 1 =>
    if b.cacheRoom < b.cupola.cache.length then
      match b.cupola.cache.getLast? with
      | none => b
      | some x =>
        let b : Chip := { b with cupola := { b.cupola with cache := b.cupola.cache.dropLast } }
        Chip.evict f (if x.2 then b.writeBackMeta x.1 else b)
    else b

/-- After a use of the cache: lines leave until it has room. A write-back makes the parent dirty, and a tree has at most 10
levels, so that the bound is not met. -/
def Chip.trimCache (b : Chip) : Chip := b.evict (16 * (b.cupola.cache.length + 1))

/-- The metadata of a data line: the counter line and its tag, with the chain above it where it is not in the cache, and the tag
line where it is needed. -/
def Chip.useChain (b : Chip) (rr a : Nat) (tag dirty : Bool) : Chip × Bool :=
  let counter := b.metaAddr rr 1 a
  let lines :=
    (if b.cached rr counter then [(1, counter, dirty)]
      else (b.missingAbove rr 1 a).map (fun x => (x.1, x.2, false)) ++
        [(1, counter, dirty), (1, b.counterTagAddr rr a, false)]) ++
    (if tag then [(0, b.metaAddr rr 0 a, dirty)] else [])
  let x := b.useLines rr a lines
  (x.1.trimCache, x.2)

/-- Every dirty line goes back, children before their parents (R278). -/
def Chip.flushCache (b : Chip) : Chip :=
  let dirty := fun (b : Chip) => (b.cupola.cache.filter fun x => x.2).map (fun x => x.1) ++ b.cupola.pinnedDirty
  let clean := fun (b : Chip) (m : Nat) => { b with cupola := { b.cupola with
    cache := b.cupola.cache.map fun (x : Nat × Bool) => if x.1 = m then (m, false) else x
    pinnedDirty := b.cupola.pinnedDirty.filter fun x => x != m } }
  let rank := fun (b : Chip) (m : Nat) =>
    match b.spanAt m with
    | some rr =>
      match b.metaArea rr m with
      | .counters => 0
      | .counterTags | .tags => 1
      | .tree n => n + 1
      | .unused => 0
    | none => 0
  (List.range 12).foldl (fun b k =>
    ((dirty b).filter fun m => rank b m == k).foldl (fun b m => (clean b m).writeBackMeta m) b) b

/-! ### Overflow (R279) -/

/-- The line waits in a re-encryption entry. -/
def Chip.waitsRewrite (b : Chip) (a : Nat) : Bool :=
  b.cupola.reenc.any fun x => x.2.1 == a / 4096 && x.2.2.1.getLsbD (a / 64 % 64)

/-- A write of the line would overflow. -/
def Chip.overflows (b : Chip) (rr a : Nat) : Bool :=
  decide (2 ≤ b.protMode rr) && !b.waitsRewrite a && (b.minorOf a == 127 || b.isArmed 0x2D90 3 rr)

/-- A re-encryption entry is free for the region: 4 of the 16 are reserved for pinned-sealed regions. -/
def Chip.reencFree (b : Chip) (rr : Nat) : Bool :=
  let pinned := (b.cupola.reenc.filter fun x => b.protMode x.1 == 3).length
  if b.protMode rr = 3 then decide (pinned < 4) else decide (b.cupola.reenc.length - pinned < 12)

/-- The overflow would wrap the page's major counter. -/
def Chip.wraps (b : Chip) (rr a : Nat) : Bool := decide (0xFFFFFFFF ≤ b.majorOf a) || b.isArmed 0x2D90 4 rr

/-- A write that has to wait: for a free entry, or for the sweep that a major wrap starts. -/
def Chip.writeWaits (b : Chip) (rr a : Nat) : Bool := b.overflows rr a && (!b.reencFree rr || b.wraps rr a)

/-- A write that meets a major wrap starts the re-key of its region. -/
def Chip.wrapRekey (b : Chip) (rr a : Nat) : Chip :=
  if b.overflows rr a && b.wraps rr a && (b.prot rr).st == 2 then
    let b := if b.isArmed 0x2D90 4 rr then b.applyArmed 0x2D90 4 rr (evCode 4 9 rr 6) else b
    b.startRekey rr
  else b

/-- The lines of a page with a nonzero minor counter, but the one that overflows. -/
def Chip.rewriteMask (b : Chip) (a : Nat) : BitVec 64 :=
  (List.range 64).foldl (fun m j =>
    if j ≠ a / 64 % 64 ∧ Tab.get 0 b.cupola.minor (a / 4096 * 64 + j) ≠ 0 then m ||| (1#64 <<< j) else m) 0#64

/-- The page takes a new major counter; its other lines are rewritten in the background (R279). -/
def Chip.overflowPage (b : Chip) (rr a : Nat) : Chip :=
  let b := if b.isArmed 0x2D90 3 rr then b.applyArmed 0x2D90 3 rr 0 else b
  let v := b.majorOf a + 1
  let p := a / 4096
  let mask := b.rewriteMask a
  let b := (b.count 0x2700 7).modProt rr fun x => { x with high := max x.high v }
  { b with cupola := { b.cupola with
      major := (p, p + 1, v) :: b.cupola.major.filter fun x => !(x.1 == p && x.2.1 == p + 1)
      minor := Tab.set b.cupola.minor (a / 64) 1
      reenc := b.cupola.reenc ++ [(rr, p, mask, b.counterLineOf p)] } }

/-- A write raises the line's minor counter. -/
def Chip.bumpMinor (b : Chip) (rr a : Nat) : Chip :=
  if b.waitsRewrite a then
    { b with cupola := { b.cupola with
        minor := Tab.set b.cupola.minor (a / 64) 1
        reenc := b.cupola.reenc.map fun x =>
          if x.2.1 = a / 4096 then (x.1, x.2.1, x.2.2.1 &&& ~~~(1#64 <<< (a / 64 % 64)), x.2.2.2) else x } }
  else if b.overflows rr a then b.overflowPage rr a
  else { b with cupola := { b.cupola with minor := Tab.set b.cupola.minor (a / 64) (b.minorOf a + 1) } }

/-! ### Lines in DRAM (R247, R260, R261) -/

/-- The detail of a DRAM event (R481). -/
def Chip.dramEv (b : Chip) (c code sev : Nat) (inj : Bool) (a err : Nat) : Ev :=
  { code := evCode 4 8 c code, sev := sev, inj := inj, d0 := a % 2 ^ 32, d1 := a / 2 ^ 32, d2 := b.hubDimm a + err * 256 }

/-- A line is read at its DIMM: corrected or uncorrectable errors are counted; a best-effort read logs what it finds. The
flags say: uncorrectable, injected. -/
def Chip.readLine (b : Chip) (a : Nat) (sched : Bool) : Chip × Bool × Bool :=
  let c := b.hubChannel a
  let i := 0x2610 + c
  let two := b.isArmed 0x2D80 2 c && !(b.inject.armed.find? fun x =>
    x.obj == 0x2D80 && x.target == c && (x.code == 1 || x.code == 2)).any fun x => x.code == 1
  let b := if two then
      { b with hub := { b.hub with badLines := (a / 64) :: b.hub.badLines } }.applyArmed 0x2D80 2 c
        (if sched then 0x30800001 else evCode 4 8 c 4)
    else b
  if b.hub.badLines.contains (a / 64) then
    let b := (b.count i 0x0A).setReg i 0x0C a
    (if sched then b else b.logEvent (b.dramEv c 4 3 two a 1), true, two)
  else if b.isArmed 0x2D80 1 c then
    let b := ((b.applyArmed 0x2D80 1 c (evCode 4 8 c 3)).count i 9).setReg i 0x0C a
    (b.logEvent (b.dramEv c 3 2 true a 0), false, false)
  else (b, false, false)

/-- An armed CRC error: the write and its 4 retries fail (R260, R267). -/
def Chip.writeFails (b : Chip) (a : Nat) (sched : Bool) : Chip × Bool :=
  let c := b.hubChannel a
  if b.isArmed 0x2D80 3 c then
    let b := ((b.applyArmed 0x2D80 3 c (evCode 4 8 c 6)).countBy (0x2610 + c) 0x0B 4).setReg (0x2610 + c) 0x0C a
    (if sched then b else b.logEvent (b.dramEv c 6 3 true a 1), true)
  else (b, false)

/-! ### Requests -/

/-- What a request ends with: error code, data, and whether an injection caused the code. -/
structure Served where
  code : Nat
  data : Bytes
  inj : Bool := false
  deriving DecidableEq, Repr

/-- An error carries data 0 (R249). -/
def failWith (n code : Nat) (inj : Bool) : Served := { code, data := List.replicate n 0#8, inj }

/-- A tag failure is armed for the region. -/
def Chip.tagFails (b : Chip) (rr a : Nat) (part : Bool) : Chip × Bool :=
  if b.isArmed 0x2D90 1 rr then ((b.applyArmed 0x2D90 1 rr (evCode 4 9 rr 3)).tamper rr a part 0 true, true)
  else (b, false)

/-- A read of n bytes that lie in one line (R273, R277, R282, R284). -/
def Chip.serveRead (b : Chip) (rr a n : Nat) (sched : Bool) : Chip × Served :=
  let plain := fun (b : Chip) =>
    match b.readLine a sched with
    | (b, true, inj) => (b, failWith n 1 inj)
    | (b, false, _) => (b, { code := 0, data := b.dramBytes a n })
  if b.protMode rr < 2 then plain b
  else
    let fresh := b.minorOf a == 0
    match b.useChain rr a (!fresh) false with
    | (b, false) => (b.cupolaNote a 3, failWith n 3 true)
    | (b, true) =>
      if fresh then (b, failWith n 0 false)
      else
        match plain b with
        | (b, { code := 0, data := d, inj := _ }) =>
          match b.tagFails rr a false with
          | (b, true) => (b.cupolaNote a 2, failWith n 2 true)
          | (b, false) => (b, { code := 0, data := d })
        | x => x

/-- The old line of a write that does not replace it whole. -/
def Chip.oldLine (b : Chip) (rr a : Nat) (sched : Bool) : Chip × Served :=
  match b.readLine a sched with
  | (b, true, inj) => (b, failWith 0 1 inj)
  | (b, false, _) =>
    if 2 ≤ b.protMode rr then
      match b.tagFails rr a true with
      | (b, true) => (b.cupolaNote a 2, failWith 0 5 true)
      | (b, false) => (b, failWith 0 0 false)
    else (b, failWith 0 0 false)

/-- The bytes of a write are stored; a whole line ends an uncorrectable error. -/
def Chip.storeLine (b : Chip) (a : Nat) (mask : Nat → Bool) (d : Bytes) (whole : Bool) : Chip :=
  let b := b.dramWrite a mask d
  if whole then { b with hub := { b.hub with badLines := b.hub.badLines.filter fun x => x != a / 64 } } else b

/-- A write of bytes that lie in one line (R247, R273, R279, R283): of a line not yet written, the rest is 0. -/
def Chip.serveWrite (b : Chip) (rr a : Nat) (mask : Nat → Bool) (d : Bytes) (whole sched : Bool) : Chip × Served :=
  let isSealed := decide (2 ≤ b.protMode rr)
  let fresh := isSealed && b.minorOf a == 0
  match if isSealed then b.useChain rr a true true else (b, true) with
  | (b, false) => (b.cupolaNote a 3, failWith 0 3 true)
  | (b, true) =>
    match if whole || fresh then (b, failWith 0 0 false) else b.oldLine rr a sched with
    | (b, { code := 0, data := _, inj := _ }) =>
      match b.writeFails a sched with
      | (b, true) => (b, failWith 0 1 true)
      | (b, false) =>
        let b := if isSealed then b.bumpMinor rr a else b
        let b := if fresh then b.dramWrite (a / 64 * 64) (fun _ => true) (List.replicate 64 0#8) else b
        (b.storeLine a mask d whole, failWith 0 0 false)
    | x => x

/-- A request of owner o for bytes within one line: the unit under test, Cupola's checks, then the line (R249, R262). -/
def Chip.serve (b : Chip) (o : Nat) (we : Bool) (a : Nat) (mask : Nat → Bool) (d : Bytes) (n : Nat) : Chip × Served :=
  let whole := we && n == 64 && (List.range 64).all mask
  let part := we && !((List.range n).all mask)
  if decide (a < b.hub.capacity) && (b.channel (b.hubChannel a)).underTest then (b, failWith n 6 false)
  else
    match b.cupolaCode o a we part, b.protAt a with
    | 0, some rr => if we then b.serveWrite rr a mask d whole false else b.serveRead rr a n false
    | code, _ => (b.cupolaNote a code, failWith n code false)

/-! ### Metadata traffic (R277, R278, R284) -/

/-- METADATA_LOAD: a line of a level over data address addr that is not in the cache is read and verified. -/
def Chip.loadMeta (b : Chip) (rr level addr : Nat) (out : LoadOutcome) : Chip :=
  let m := b.metaAddr rr level addr
  if (b.prot rr).st ≠ 2 ∧ (b.prot rr).st ≠ 3 ∨ b.protMode rr ≠ 2 ∨ (b.cupola.cache.any fun x => x.1 == m) = true ∨
      treeLevels (b.protExp rr) + 1 < level ∨ b.protAt addr ≠ some rr then b
  else
    let b := b.count 0x2700 5
    if b.armedMeta rr level then ((b.applyMeta rr level).poisonLine rr m true).cupolaNote addr 3
    else
      match out with
      | .verified => (b.cacheInsert m false).trimCache
      | .uncorrectable => (b.poisonLine rr m false).cupolaNote addr 3
      | .tagFailed => if level = 0 then (b.cacheInsert m false).trimCache else b.tamper rr addr false level false

def execMetadataLoad (rr level addr : Nat) (out : LoadOutcome) (t : Nat) (s : State) : Out :=
  act s fun b => (b.upTo t).loadMeta rr level addr out

/-- METADATA_WRITE_BACK: a dirty line goes back; with an uncorrectable error in the cache a dirty line poisons what lies
beneath it, and a clean one is discarded and read again from DRAM. -/
def Chip.metaWriteBack (b : Chip) (m : Nat) (ecc : Bool) : Chip :=
  match b.spanAt m with
  | none => b
  | some rr =>
    let dirty := b.cupola.pinnedDirty.contains m || b.cupola.cache.any fun x => x.1 == m && x.2
    let clean : Chip := { b with cupola := { b.cupola with
      cache := b.cupola.cache.map fun (y : Nat × Bool) => if y.1 = m then (m, false) else y
      pinnedDirty := b.cupola.pinnedDirty.filter fun x => x != m } }
    let gone : Chip := { clean with cupola := { clean.cupola with cache := clean.cupola.cache.filter fun y => y.1 != m } }
    if b.metaArea rr m = .unused ∨ b.cached rr m = false then b
    else if ecc && dirty then gone.poisonLine rr m false
    else if ecc then (if b.protMode rr = 3 then b else gone.cacheInsert m false).count 0x2700 5
    else if dirty then (clean.writeBackMeta m).trimCache
    else b

def execMetadataWriteBack (addr : Nat) (ecc : Bool) (t : Nat) (s : State) : Out :=
  act s fun b => (b.upTo t).metaWriteBack addr ecc

/-- PAGE_REWRITE_DONE: the lines still in the mask take minor counter 1, and the entry frees. -/
def Chip.rewriteDone (b : Chip) (rr page : Nat) : Chip :=
  match b.cupola.reenc.find? fun x => x.1 == rr && x.2.1 == page with
  | some x =>
    { b with cupola := { b.cupola with
        minor := (bitsOf x.2.2.1.toNat 64).foldl (fun m j => Tab.set m (page * 64 + j) 1) b.cupola.minor
        reenc := b.cupola.reenc.erase x } }
  | none => b

def execPageRewriteDone (rr page : Nat) (s : State) : Out := act s fun b => b.rewriteDone rr page

/-- RIGHTS_WRITE (R270, R292): live rights of a region, by its owner. -/
def execRightsWrite (q : Req) (rr : Nat) (write : Bool) (v : Nat) (s : State) : Out :=
  act s fun b =>
    let sub := if write then 7 else 6
    b.writeRow q (0x2710 + rr) sub v fun b => .ok (b.setReg (0x2710 + rr) sub v)

/-! ### The region command (R287, R288, R293) -/

/-- Two ranges overlap. -/
def overlap (x y : Nat × Nat) : Bool := decide (x.1 < y.2) && decide (y.1 < x.2)

/-- The descriptor is valid (R268). -/
def Chip.descriptorOk (b : Chip) (rr : Nat) : Bool :=
  let own := b.protRanges rr
  b.protBase rr % b.protSize rr == 0 && own.all (fun x => decide (x.2 ≤ b.hub.capacity)) &&
    (match own with
    | [x, y] => b.protReg rr 5 % 65536 == 0 && !overlap x y
    | _ => true) &&
    (List.range 64).all fun j =>
      j == rr || (b.prot j).st == 0 || own.all fun x => (b.protRanges j).all fun y => !overlap x y

/-- Contents at define (R269, R273): of a veiled region undefined; of every other the lines stand as left in DRAM, and a sealed one
reads them as 0 by their minor counters. -/
def Chip.defineContents (b : Chip) (rr : Nat) : Chip :=
  if b.protMode rr = 1 then b.fillRange (b.protBase rr) (b.protBase rr + b.protSize rr) none false else b

/-- Action 1. -/
def Chip.defineRegion (b : Chip) (o rr : Nat) : Chip :=
  let pin := if b.protMode rr = 3 then metaBytes (b.protExp rr) else 0
  if (b.prot rr).st ≠ 0 ∨ b.hub.st ≠ 2 then b.setStatus 0x2E27 o 4
  else if !b.hasMemory o then b.setStatus 0x2E27 o 5
  else if !b.descriptorOk rr then b.setStatus 0x2E27 o 2
  else if 6291456 < b.cupola.pinned + pin then b.setStatus 0x2E27 o 3
  else
    let mode := b.protMode rr
    let b := b.setProt rr 1 fun _ => { owner := o, keyGen := if mode = 0 then 0 else 1 }
    let b := if mode = 0 then b else b.newKey rr
    let b := (b.setReg (0x2710 + rr) 6 0).setReg (0x2710 + rr) 7 0
    let b := { b with cupola := { b.cupola with pinned := b.cupola.pinned + pin } }
    let b := (b.logEvent (b.cupolaEv rr 1 1 false 0 0 0 0)).defineContents rr
    if mode < 2 then (b.setProt rr 2 id).setStatus 0x2E27 o 0
    else b.beginCmd 0x2E27 o

/-- The counters, cache lines and poison entries of a region go. -/
def Chip.forgetRegion (b : Chip) (rr : Nat) : Chip :=
  let lo := b.protBase rr
  let hi := lo + b.protSize rr
  let m := b.protReg rr 5
  let mhi := if 2 ≤ b.protMode rr then m + b.protSize rr * 5 / 32 else m
  { b with cupola := { b.cupola with
      major := b.cupola.major.filter fun x => !(inRange 4096 lo hi x.1)
      minor := Tab.drop (inRange 64 lo hi) b.cupola.minor
      reinit := b.cupola.reinit.filter fun x => x.1 != rr
      cache := b.cupola.cache.filter fun x => !(inRange 1 m mhi x.1)
      pinnedDirty := b.cupola.pinnedDirty.filter fun x => !(inRange 1 m mhi x)
      tree := Tab.drop (inRange 1 m mhi) b.cupola.tree
      reenc := b.cupola.reenc.filter fun x => x.1 != rr
      poison := b.cupola.poison.filter fun x => x.2.1 != rr
      pinned := b.cupola.pinned - (if b.protMode rr = 3 then metaBytes (b.protExp rr) else 0) } }

/-- The region is free. -/
def Chip.freeRegion (b : Chip) (rr : Nat) : Chip :=
  let b := b.logEvent (b.cupolaEv rr 2 1 false 0 0 0 0)
  b.setProt rr 0 fun p => { p with keyGen := 0, key := 0, oldKey := 0 }

/-- Action 2: the key is destroyed at once; an open region is filled with zeros first. -/
def Chip.deleteRegion (b : Chip) (o rr : Nat) : Chip :=
  let p := b.prot rr
  if p.st = 0 ∨ p.st = 6 then b.setStatus 0x2E27 o 4
  else if o ≠ 0 ∧ o ≠ p.owner then b.setStatus 0x2E27 o 5
  else if b.protMode rr = 0 then
    let b := b.logEvent (b.cupolaEv rr 2 1 false 0 0 0 0)
    (b.setProt rr 6 id).beginCmd 0x2E27 o
  else
    (((b.leaveCipher rr).forgetRegion rr).freeRegion rr).setStatus 0x2E27 o 0

/-- Action 3. -/
def Chip.rekeyRegion (b : Chip) (o rr : Nat) : Chip :=
  let p := b.prot rr
  if p.st ≠ 2 ∨ b.protMode rr = 0 then b.setStatus 0x2E27 o 4
  else if o ≠ p.owner then b.setStatus 0x2E27 o 5
  else
    { (b.startRekey rr) with cupola := { (b.startRekey rr).cupola with sweepCmd := some rr } }.beginCmd 0x2E27 o

/-- Action 4: one poison entry in state 2, the whole region in state 5. -/
def Chip.reinitRegion (b : Chip) (o rr entry : Nat) : Chip :=
  let p := b.prot rr
  if p.st ≠ 2 ∧ p.st ≠ 5 then b.setStatus 0x2E27 o 4
  else if o ≠ p.owner then b.setStatus 0x2E27 o 5
  else if (p.st == 5 && entry != 0xFF) ||
      (p.st == 2 && !(b.cupola.poison.any fun x => x.1 == entry && x.2.1 == rr)) then b.setStatus 0x2E27 o 6
  else
    let b := if 0xFFFFFFFF ≤ p.high then b.startRekey rr else b
    { b with cupola := { b.cupola with reinit := some (rr, entry) } }.beginCmd 0x2E27 o

/-- A new serial of 0x2E27 performs :04 on :03. -/
def Chip.startRegionCmd (b : Chip) (o : Nat) : Chip :=
  let rr := b.reg 0x2E27 3
  match b.reg 0x2E27 4 with
  | 1 => b.defineRegion o rr
  | 2 => b.deleteRegion o rr
  | 3 => b.rekeyRegion o rr
  | 4 => b.reinitRegion o rr (b.reg 0x2E27 5)
  | _ => b.setStatus 0x2E27 o 4

def execRegionDefine (q : Req) (serial rr : Nat) (s : State) : Out :=
  act s fun b => b.commandRow q 0x2E27 serial [(3, rr), (4, 1)] Chip.startRegionCmd
def execRegionDelete (q : Req) (serial rr : Nat) (s : State) : Out :=
  act s fun b => b.commandRow q 0x2E27 serial [(3, rr), (4, 2)] Chip.startRegionCmd
def execRegionRekey (q : Req) (serial rr : Nat) (s : State) : Out :=
  act s fun b => b.commandRow q 0x2E27 serial [(3, rr), (4, 3)] Chip.startRegionCmd
def execRegionReinitialize (q : Req) (serial rr entry : Nat) (s : State) : Out :=
  act s fun b => b.commandRow q 0x2E27 serial [(3, rr), (4, 4), (5, entry)] Chip.startRegionCmd

/-- METADATA_INIT_DONE: counter lines, counter tags and tree are written, state 1 becomes 2, and every page counts as initialized. -/
def execMetadataInitDone (rr : Nat) (s : State) : Out :=
  act s fun b =>
    if (b.prot rr).st = 1 then
      let b := b.freshSpan { base := b.protReg rr 5, exp := b.protExp rr, key := (b.prot rr).key }
      (b.setProt rr 2 fun p => { p with sweep := b.protSize rr / 4096 }).endCmd 0x2E27 0
    else b

/-- REGION_ZERO_FILL_DONE: the range holds zeros, and the region is free. -/
def execRegionZeroFillDone (rr : Nat) (s : State) : Out :=
  act s fun b =>
    if (b.prot rr).st = 6 then
      let b := b.fillRange (b.protBase rr) (b.protBase rr + b.protSize rr) none true
      ((b.forgetRegion rr).freeRegion rr).endCmd 0x2E27 0
    else b

/-- REKEY_SWEEP_DONE: a re-key command ends with it. -/
def execRekeySweepDone (rr : Nat) (s : State) : Out :=
  act s fun b =>
    if (b.prot rr).st = 3 then b.endRekey rr else b

/-- A range of data lines reads as 0; where its counter lines were poisoned they take the major counter H + 1. Its metadata in the
cache is dirty, and no line of it waits for a rewrite any more. -/
def Chip.freshLines (b : Chip) (rr level lo hi : Nat) : Chip :=
  let b := b.leaveRaw (b.writtenLines lo hi)
  let mask := fun (page : Nat) => (List.range 64).foldl (fun (v : BitVec 64) j =>
    if decide (lo ≤ page * 4096 + 64 * j) && decide (page * 4096 + 64 * j < hi) then v &&& ~~~(1#64 <<< j) else v)
    (BitVec.allOnes 64)
  let b := { b with cupola := { b.cupola with
    minor := Tab.drop (inRange 64 lo hi) b.cupola.minor
    reenc := (b.cupola.reenc.map fun (x : Nat × Nat × BitVec 64 × BitVec 512) =>
      (x.1, x.2.1, x.2.2.1 &&& mask x.2.1, x.2.2.2)).filter fun x => x.2.2.1 != 0#64 || decide (x.2.1 * 4096 < lo) ||
        decide (hi ≤ x.2.1 * 4096) } }
  if level = 0 then b
  else
    let h := (b.prot rr).high + 1
    let keep := fun (x : Nat × Nat × Nat) => !(decide (lo / 4096 ≤ x.1) && decide (x.2.1 ≤ hi / 4096))
    { b with cupola := { b.cupola with major := (lo / 4096, hi / 4096, h) :: b.cupola.major.filter keep } }.modProt rr
      fun p => { p with high := h }

/-- The metadata over reinitialized lines: of the whole region every counter line, counter tag and tree node is written under risen
counters; of one entry its line is dirty, and a tree node has fresh counter lines beneath it. -/
def Chip.freshMeta (b : Chip) (rr : Nat) (entry : Option (Nat × Nat)) : Chip :=
  let m := b.protReg rr 5
  let span := fun (k : Nat) => inRange 1 m (m + b.protSize rr * 5 / 32) k
  let x : MetaSpan := { base := m, exp := b.protExp rr, key := (b.prot rr).key, major := (b.prot rr).high }
  match entry with
  | none =>
    let n := ((b.cupola.tree.filter fun y => span y.1).map fun y => y.2).foldl max (b.prot rr).treeBase + 1
    let b := { b with cupola := { b.cupola with
      tree := Tab.drop span b.cupola.tree
      cache := b.cupola.cache.filter fun y => !span y.1
      pinnedDirty := b.cupola.pinnedDirty.filter fun y => !span y } }.modProt rr fun p => { p with treeBase := n }
    b.freshSpan { x with count := n }
  | some (level, first) =>
    let line := b.metaAddr rr (max 1 level) first
    let b := if level < 2 then b
      else b.layFill { lo := b.metaAddr rr 1 first, hi := b.metaAddr rr 1 first + coverOf level / 64, channel := none, blank := .fresh x }
    let b := if b.protMode rr = 3 then b.pinDirty line else b.cacheInsert line true
    if level = 0 then (b.useMeta rr 0 (b.metaAddr rr 0 first) first true).1.trimCache else b.trimCache

/-- REINITIALIZE_DONE (R285). A region that has left states 2 and 5 is not reinitialized: the command ends as refused by state. -/
def Chip.reinitDone (b : Chip) (rr : Nat) : Chip :=
  match b.cupola.reinit with
  | some (r, entry) =>
    let st := (b.prot rr).st
    if r ≠ rr ∨ st = 3 then b
    else
      let b := { b with cupola := { b.cupola with reinit := none } }
      if st ≠ 2 ∧ st ≠ 5 then b.endCmd 0x2E27 4
      else
        let lo := b.protBase rr
        let hi := lo + b.protSize rr
        let b := if entry = 0xFF then
            let b := (b.freshLines rr 1 lo hi).setProt rr 2 id
            let b := { b with cupola := { b.cupola with poison := b.cupola.poison.filter fun x => x.2.1 != rr } }
            b.freshMeta rr none
          else
            match b.cupola.poison.find? fun x => x.1 == entry with
            | some x =>
              let b := b.freshLines rr x.2.2.1 x.2.2.2 (min hi (x.2.2.2 + coverOf x.2.2.1))
              let b := { b with cupola := { b.cupola with poison := Tab.drop (fun k => k == entry) b.cupola.poison } }
              b.freshMeta rr (some x.2.2)
            | none => b
        (b.logEvent (b.cupolaEv rr 8 1 false lo 0 0 0)).endCmd 0x2E27 0
  | none => b

def execReinitializeDone (rr : Nat) (s : State) : Out := act s fun b => b.reinitDone rr

end Sys2Proof.Machine
end

