-- ==== Sys2Proof/Machine/SlotTable.lean ====
section
/-! DEFINITION. What the loader checks of a stream's slot tables: the refusals of result code 16 (R80, R83 to R87, R118,
R186, R251, R360). -/

namespace Sys2Proof.Machine

open Sys2Proof

/-- The entries before the end entry (R84). -/
def liveSlots : List (BitVec 64) → List (BitVec 64)
  | [] => []
  | e :: t => if entryClass e = 0 then [] else e :: liveSlots t

/-- After the end entry every entry is 0, and its own resource is 0 (R84). -/
def endOk : List (BitVec 64) → Bool
  | [] => true
  | e :: t => if entryClass e = 0 then entryResource e == 0 && t.all (· == 0#64) else endOk t

/-- The base that a class uses, and the resource bits that it names (R84). -/
def classBase (c : Nat) : Bool := c == 4 || c == 5
def classMask (c : Nat) : Nat :=
  match c with
  | 1 | 2 => 0x6FF
  | 3 | 6 => 0x00F
  | 4 => 0x007
  | 5 => 0x005
  | _ => 0

/-- The last cycle that an entry covers. -/
def entryLast (e : BitVec 64) : Nat := entryOffset e + (entryCount e - 1) * entryStep e

/-- The position of an entry in the order by base, then by offset. -/
def entryRank (e : BitVec 64) : Nat := (if entryBase e then 2 ^ 20 else 0) + entryOffset e

def rising : List Nat → Bool
  | a :: b :: t => decide (a ≤ b) && rising (b :: t)
  | _ => true

/-- One entry by itself: its class, base and resource bits, and its cycles within the frame or the round (R84 to R86). -/
def entryOk (k m : Nat) (e : BitVec 64) : Bool :=
  let c := entryClass e
  decide (1 ≤ c) && decide (c ≤ 6) && entryBase e == classBase c && (entryResource e &&& classMask c) == entryResource e &&
    (if entryBase e then 31200 % m == 0 && decide (entryLast e < 31200 / m)
     else decide (entryLast e < frameCycles k m))

/-- No element of the list stands before one that it clashes with. -/
def pairwiseOk {α : Type} (clash : α → α → Bool) : List α → Bool
  | [] => true
  | x :: t => t.all (fun y => !clash x y) && pairwiseOk clash t

/-- Two entries of class 3 cover one bank in one cycle. -/
def bankClash (a c : BitVec 64) : Bool :=
  entryClass a == 3 && entryClass c == 3 && entryResource a == entryResource c &&
    (entryCycles a).any fun x => entryCovers c x

/-- The latency of a hub request: to a pinned-sealed target or to another (R87). -/
def latencyOf (m : Nat) (e : BitVec 64) : Nat := if bit (entryResource e) 2 then hubLatencyPinned m else hubLatency m

/-- Cycles lo to hi, in eighths of a tick of the round, meet a reserved span (R86). -/
def meetsSpan (m lo hi : Nat) : Bool :=
  decide (lo * m < 450 * 8) || (decide (lo * m < 2400 * 8) && decide (1950 * 8 ≤ hi * m))

/-- The cycles from a request to its return clear the spans and stay within the round (R86). -/
def requestOk (m : Nat) (e : BitVec 64) : Bool :=
  entryClass e != 4 || (entryCycles e).all fun c =>
    decide (c + latencyOf m e < 31200 / m) && !meetsSpan m c (c + latencyOf m e)

/-- The request of a return: a read on the same port with the same pinned bit (R85). -/
def returnOk (m : Nat) (l : List (BitVec 64)) (e : BitVec 64) : Bool :=
  entryClass e != 5 || (entryCycles e).all fun c => l.any fun q =>
    entryClass q == 4 && entryResource q == entryResource e && decide (latencyOf m e ≤ c) &&
      entryCovers q (c - latencyOf m e)

/-- A region's table by itself; modes gives the mode of each queue block (R84 to R87, R186). -/
def tableOk (k m : Nat) (modes : Nat → Nat) (l : List (BitVec 64)) : Bool :=
  let t := liveSlots l
  endOk l && rising (t.map entryRank) && t.all (entryOk k m) && pairwiseOk bankClash t && t.all (requestOk m) &&
    t.all (returnOk m t) && t.all fun e => entryClass e != 6 || modes (entryResource e) == 1

/-! ### Lanes (R81, R85) -/

/-- Cycles that the entries of a class cover on one lane; the resource holds side and lane. -/
def laneCycles (l : List (BitVec 64)) (cls res : Nat) : List Nat :=
  (l.filter fun e => entryClass e == cls && entryResource e == res).flatMap entryCycles

/-- The receiver cycle of a send in cycle s (R81). -/
def deliveryCycle (s mSend mRecv fRecv : Nat) : Nat :=
  let c := s * mSend / mRecv + 3
  if fRecv ≤ c then c - fRecv else c

/-- Two lists of cycles hold the same cycles, each once. -/
def sameCycles (a c : List Nat) : Bool :=
  pairwiseOk (· == ·) a && pairwiseOk (· == ·) c && a.length == c.length && a.all fun x => c.contains x

/-- The lanes, as resources, that a table names in a class. -/
def lanesOf (l : List (BitVec 64)) (cls : Nat) : List Nat :=
  ((l.filter fun e => entryClass e == cls).map entryResource).eraseDups

/-- What the loader knows of a region of the partition: ratio code and live slots. -/
abbrev RegionPlan := Tab (Nat × List (BitVec 64))

/-- The lanes that region r names in a class agree with the opposite lanes of the adjacent regions, which must lie in the
same partition (R85). -/
def lanesOk (k : Nat) (plan : RegionPlan) (r : Nat) : Bool :=
  let mine := Tab.get (80, []) plan r
  let ok := fun (cls res : Nat) =>
    match neighbor r (res / 512) with
    | none => false
    | some n =>
      if plan.any fun x => x.1 == n then
        let other := Tab.get (80, []) plan n
        let res' := opposite (res / 512) * 512 + res % 512
        if cls = 1 then
          sameCycles ((laneCycles mine.2 1 res).map fun s => deliveryCycle s mine.1 other.1 (frameCycles k other.1))
            (laneCycles other.2 2 res')
        else
          sameCycles ((laneCycles other.2 1 res').map fun s => deliveryCycle s other.1 mine.1 (frameCycles k mine.1))
            (laneCycles mine.2 2 res)
      else false
  (lanesOf mine.2 1).all (ok 1) && (lanesOf mine.2 2).all (ok 2)

/-! ### Partitions and windows -/

/-- The largest divisor that a region's nets use (R117, R118). -/
def largestDivisor (l : List Setting) (r : Nat) : Nat :=
  l.foldl (fun d x =>
    match x with
    | .net rr _ divA divB srcA srcB _ =>
      if rr = r then max d (max (if srcA.isNone then divA else 1) (if srcB.isNone then divB else 1)) else d
    | _ => d) 1

/-- The frame of every region of the partition is a whole number of cycles, and of its largest divisor (R80, R118). -/
def frameOk (k m d : Nat) : Bool := 2 ^ k * 8 % m == 0 && frameCycles k m % d == 0

/-- The tables of one partition. -/
def partTablesOk (k : Nat) (plan : RegionPlan) (raw : Nat → List (BitVec 64)) (modes : Nat → Nat → Nat)
    (l : List Setting) : Bool :=
  plan.all fun x =>
    frameOk k x.2.1 (largestDivisor l x.1) && tableOk k x.2.1 (modes x.1) (raw x.1) && lanesOk k plan x.1

/-- Window starts of a region's hub ports by channel, in eighths of a tick of the round; none where a port with requests
is bound to no channel (R251). -/
def windowStarts (m : Nat) (l : List (BitVec 64)) (port0 port1 : Option Nat) : Option (List (Nat × Nat)) :=
  l.foldl (fun acc e =>
    match acc with
    | none => none
    | some a =>
      if entryClass e = 4 then
        match if bit (entryResource e) 0 then port1 else port0 with
        | some ch => some (a ++ (entryCycles e).map fun c => (ch, c * m))
        | none => none
      else some a) (some [])

/-- Windows of one channel that start less than 5 ticks apart (R251). -/
def windowsClash (a c : Nat × Nat) : Bool :=
  a.1 == c.1 && decide ((a.2 - c.2) + (c.2 - a.2) < 40)

/-- No two windows of a channel start less than 5 ticks apart, and no more than 4 within any 25 ticks (R251). -/
def windowsOk (l : List (Nat × Nat)) : Bool :=
  pairwiseOk windowsClash l && l.all fun x =>
    decide ((l.filter fun y => y.1 == x.1 && decide (x.2 ≤ y.2) && decide (y.2 < x.2 + 200)).length ≤ 4)

end Sys2Proof.Machine
end

