-- ==== Sys2Proof/Machine/Dram.lean ====
section
/-! DEFINITION. The DRAM hub's commands: training and rate changes, refresh, temperatures, scheduled windows, best-effort
service, self-refresh, errors and scrub (R243 to R267). -/

namespace Sys2Proof.Machine

open Sys2Proof

/-! ### Training and rate changes (R243, R244, R265) -/

/-- The rate changes that a command may start with the hub ready: checks, then self-refresh and the new set. The lowest status among the
conditions that hold is reported (R511). -/
def Chip.changeRate (b : Chip) (o rate : Nat) : Chip :=
  let windows := (List.range 8).any fun p =>
    (b.part p).status == .armed && (b.partRegions p).any fun r => (b.region r).slots.any fun e => entryClass e == 4
  if windows then b.setStatus 0x2E26 o 3
  else if !b.rateSupported rate then b.setStatus 0x2E26 o 4
  else if b.hub.rate = rate then b.setStatus 0x2E26 o 0
  else
    let trains := !(b.hub.trained.any fun x => x.1 == rate)
    { b with hub := { b.hub with st := 3, changing := some (rate, trains) } }.beginCmd 0x2E26 o

/-- A new serial of 0x2E26: held while training is in progress. -/
def Chip.startRate (b : Chip) (o : Nat) : Chip :=
  let rate := b.reg 0x2E26 3
  if !b.serving then b.setStatus 0x2E26 o 4
  else if b.hub.st = 1 then
    { b with hub := { b.hub with pending := rate, pendingOwner := o } }.setStatus 0x2E26 o 2
  else b.changeRate o rate

def execRateChange (q : Req) (serial rate : Nat) (s : State) : Out :=
  act s fun b => b.commandRow q 0x2E26 serial [(3, rate)] Chip.startRate

/-- A pending change is applied when training ends. -/
def Chip.applyPending (b : Chip) : Chip :=
  if b.hub.pending = 0 then b
  else
    let o := b.hub.pendingOwner
    let rate := b.hub.pending
    { b with hub := { b.hub with pending := 0 } }.changeRate o rate

/-- CHANNEL_TRAINING_END (R240, R243): a channel is trained or mapped out; with the last the set forms. -/
def Chip.trainingEnd (b : Chip) (c : Nat) (ok : Bool) (ms : Nat) : Chip :=
  if (b.channel c).st = .training ∧ b.hub.st = 1 then
    let inj := b.isArmed 0x2D80 4 c
    let b := (b.refreshChannel c).setReg (0x2610 + c) 0x10 ms
    let b := if inj then (b.applyArmed 0x2D80 4 c (evCode 4 8 c 2)).mapChannelOut c 1 true
      else if ok then
        (b.modChannel c fun x => { x with st := .ready }).logEvent { code := evCode 4 8 c 1, sev := 1 }
      else b.mapChannelOut c 1 false
    if b.trainingOver then b.formSet.applyPending else b
  else b

def execChannelTrainingEnd (c : Nat) (ok : Bool) (ms t : Nat) (s : State) : Out :=
  act s fun b => (b.upTo t).trainingEnd c ok ms

/-- An armed training failure of a channel of the set meets the training of a rate change. -/
def Chip.rateTrainFails (b : Chip) : Option Nat := b.channelSet.find? fun c => b.isArmed 0x2D80 4 c

/-- RATE_CHANGE_DONE (R244): the set of the new rate is loaded or trained, or the previous rate is restored. Training leaves
contents undefined (R243). -/
def Chip.rateDone (b : Chip) (ok : Bool) : Chip :=
  match b.hub.st, b.hub.changing with
  | 3, some (rate, trains) =>
    let fail := if trains then b.rateTrainFails else none
    let b := match fail with | some c => b.applyArmed 0x2D80 4 c (evCode 4 8 c 2) | none => b
    let b := if trains then b.undefineDram else b
    let good := ok && fail.isNone
    let hub := { b.hub with st := 2, changing := none }
    let hub := if good then ({ hub with rate := rate } : Hub).useSet rate else hub
    let b := { b with hub := hub }
    if good then (b.logEvent { code := 0x40800009, sev := 1 }).endCmd 0x2E26 0 else b.endCmd 0x2E26 5
  | _, _ => b

def execRateChangeDone (ok : Bool) (s : State) : Out := act s fun b => b.rateDone ok

/-! ### Refresh and temperatures (R98, R245, R246) -/

/-- Channels on which the hub refreshes: powered, trained and not in self-refresh. -/
def Chip.refreshes (b : Chip) : Bool :=
  (List.range 8).any fun c => (b.channel c).st == .ready || (b.channel c).st == .idle

/-- A DIMM reports more than 85 °C, or counts as doing so. -/
def Chip.hotWanted (b : Chip) : Bool := (List.range 8).any fun c => (b.channel c).hot.any fun x => x.2

/-- The next tick at or after the present one that stands at offset o of a refresh round (R86, R245). -/
def Chip.roundTick (b : Chip) (o : Nat) : Nat := nextMultiple (b.now + 3900 - o) 3900 + o - 3900

/-- REFRESH_ROUND (R98, R245): at tick 0 of a round, PREab and REFab on every rank; hot refresh engages and releases at a round boundary. -/
def Chip.refreshRound (b : Chip) : Chip :=
  let b := b.upTo (b.roundTick 0)
  let b := if b.hotWanted = b.hub.hotRefresh then b
    else { b with hub := { b.hub with hotRefresh := b.hotWanted } }.logEvent
      { code := if b.hotWanted then 0x40600010 else 0x40600011, sev := 1 }
  if b.refreshes then { b with hub := { b.hub with refreshAt := some b.now } } else b

def execRefreshRound (s : State) : Out := act s Chip.refreshRound

/-- HOT_SPAN_REFRESH (R98, R245): the same sequence at tick 1,950. -/
def Chip.hotSpan (b : Chip) : Chip :=
  let b := b.upTo (b.roundTick 1950)
  if b.hub.hotRefresh && b.refreshes then { b with hub := { b.hub with hotAt := some b.now } } else b

def execHotSpanRefresh (s : State) : Out := act s Chip.hotSpan

/-- The condition of an event, raised once while it lasts (R472). -/
def Chip.raiseOnce (b : Chip) (code : Nat) (f : Chip → Chip) : Chip :=
  if b.dev.raised.contains code then b
  else f { b with dev := { b.dev with raised := code :: b.dev.raised } }

def Chip.conditionEnds (b : Chip) (code : Nat) : Chip :=
  { b with dev := { b.dev with raised := b.dev.raised.filter fun x => x != code } }

/-- The register of a DIMM's temperature as a 16-bit raw value. -/
def tempRaw (v : Int) : Nat := rawInt 16 v

/-- A sensor that is read: the entry :07 or :08, hot above 85 °C, and a thermal fault above 95 °C (R246). -/
def Chip.dimmRead (b : Chip) (c d : Nat) (v : Int) (inj : Bool) : Chip :=
  let b := b.setReg (0x2610 + c) (7 + d) (tempRaw v)
  let b := b.modChannel c fun x => { x with
    fails := Tab.set x.fails d 0
    hot := Tab.set x.hot d (decide (340 < v)) }
  let quiet := (b.channel c).fails.all fun x => decide (x.2 < 3)
  let b := if quiet then b.conditionEnds (evCode 4 8 c 7) else b
  let code := evCode 4 8 c 8
  if 380 < v then
    b.raiseOnce code fun b =>
      (if inj then b.injected code else b).chipFault { code := code, sev := 5, inj := inj, d2 := d }
  else if (List.range 2).all fun i => decide (signed 16 (b.reg (0x2610 + c) (7 + i)) ≤ 380) then b.conditionEnds code
  else b

/-- A sensor that cannot be read: from the third poll it counts as above 85 °C (R246). -/
def Chip.dimmUnread (b : Chip) (c d : Nat) (inj : Bool) : Chip :=
  let n := Tab.get 0 (b.channel c).fails d + 1
  let b := b.modChannel c fun x => { x with fails := Tab.set x.fails d n }
  if n < 3 then b
  else
    (b.modChannel c fun x => { x with hot := Tab.set x.hot d true }).raiseOnce (evCode 4 8 c 7) fun b =>
      let b := if inj then b.injected (evCode 4 8 c 7) else b
      b.logEvent { code := evCode 4 8 c 7, sev := 3, inj := inj, d2 := d }

/-- DIMM_TEMPERATURE_POLL (R246, R267): reading in units of 0.25 °C; an override or a failure of 0x2D80 stands in its
place. -/
def Chip.dimmPoll (b : Chip) (c d : Nat) (reading : Option Int) : Chip :=
  if (b.channel c).dimms.length ≤ d then b
  else
    let hit := b.inject.enabled && b.reg 0x2D80 1 == c
    let ovr := b.reg 0x2D80 3
    if hit && b.reg 0x2D80 4 == 1 then b.dimmUnread c d true
    else if hit && d == 0 && ovr != 0x7FFF then b.dimmRead c d (signed 16 ovr) true
    else
      match reading with
      | some v => b.dimmRead c d v false
      | none => b.dimmUnread c d false

def execDimmTemperaturePoll (c dimm : Nat) (reading : Option Int) (t : Nat) (s : State) : Out :=
  act s fun b => (b.upTo t).dimmPoll c dimm reading

/-! ### Scheduled windows (R250 to R252, R286) -/

/-- The window channel that the stream binds to a port (R251). -/
def Chip.windowChannel (b : Chip) (r h : Nat) : Option Nat := if h = 0 then (b.region r).port0 else (b.region r).port1

/-- The least distance in ticks from the last scheduled window of the bank (R252). -/
def bankSpacing (write sameRow : Bool) : Nat :=
  if write then (if sameRow then 20 else 90) else (if sameRow then 5 else 50)

/-- The bank spacing is kept. -/
def Chip.spacingOk (b : Chip) (c a : Nat) : Bool :=
  match (b.channel c).windows.find? fun x => x.1 == b.hubBank a with
  | some x => decide (x.2.2.2 + bankSpacing x.2.1 (x.2.2.1 == b.hubRow a) ≤ b.now)
  | none => true

/-- The hub port takes the request: its address lies in the window channel, the channel is ready and the bank free. -/
def Chip.windowTaken (b : Chip) (r h a : Nat) : Bool :=
  match b.windowChannel r h with
  | some c => b.hub.st == 2 && decide (a < b.hub.capacity) && b.hubChannel a == c && b.windowOk c && b.spacingOk c a
  | none => false

/-- The target of a scheduled request (R286): 0 served, 3 unverifiable, 4 and 5 the causes of a miss. -/
def Chip.windowTarget (b : Chip) (o : Option Nat) (a : Nat) (we part pinned : Bool) : Nat :=
  match b.protAt a, o with
  | some rr, some o =>
    let st := (b.prot rr).st
    if (st ≠ 2 ∧ st ≠ 3) ∨ b.protMode rr = 2 ∨ decide (b.protMode rr = 3) ≠ pinned ∨ b.protRight rr o we = false ∨
        (part = true ∧ b.protRight rr o false = false) then 5
    else if b.poisoned rr a then 3
    else if we && b.writeWaits rr a then 4
    else 0
  | _, _ => 5

/-- The window starts: the bank remembers it. -/
def Chip.beginWindow (b : Chip) (a : Nat) (we : Bool) : Chip :=
  let c := b.hubChannel a
  b.modChannel c fun x => { x with windows := Tab.set x.windows (b.hubBank a) (we, b.hubRow a, b.now), usedAt := b.now }

/-- A region is fenced by a scheduled request that failed (R261, R286). -/
def Chip.fencePort (b : Chip) (r sub code a err : Nat) (inj : Bool) : Chip :=
  let rr := b.protAt a
  let ev := b.regionEv r (evCode 3 sub r code) 4 inj (a % 2 ^ 32) (a / 2 ^ 32)
    (if sub = 8 then b.hubDimm a + err * 256 else err)
  b.fence r (if sub = 9 then { ev with owner := rr.map fun x => (b.prot x).owner } else ev)

/-- The request slot of a port that covers the present cycle. -/
def Chip.requestSlot (b : Chip) (r h : Nat) (we pinned : Bool) : Option (Nat × BitVec 64) :=
  b.slotAt r 4 (h + flag we 1 + flag pinned 2)

/-- An injected miss of cause 4 or 5 meets the request slot (R106). -/
def Chip.armedWindow (b : Chip) (r : Nat) : Option Nat := [4, 5].find? fun c => b.isArmed 0x2D62 c r

/-- A scheduled request in a cycle that no request entry covers starts nothing: where the region has slot tables, a miss with cause 3
(R89, log entry 20). -/
def Chip.strayRequest (b : Chip) (r : Nat) : Chip :=
  if b.fabricRuns r && (b.regionK r).isSome then
    b.tookFree.missSeen r (b.looseMissInfo r 3 (Config.strayHubTag b.free % 4096) 0)
  else b

/-- A scheduled request in its slot: accepted, or a miss with cause 4 or 5; f serves it. -/
def Chip.scheduled (b : Chip) (r h a : Nat) (we part pinned : Bool) (f : Chip → Nat → Chip) : Chip :=
  match b.requestSlot r h we pinned with
  | none => b.strayRequest r
  | some x =>
    if !b.fabricRuns r then b
    else
      match b.armedWindow r with
      | some c => b.missSeen r (b.slotMissInfo r c x)
      | none =>
        let refuse := fun (b : Chip) =>
          (match b.windowChannel r h with | some c => b.count (0x2610 + c) 0x0F | none => b).missSeen r (b.slotMissInfo r 4 x)
        if !b.windowTaken r h a then refuse b
        else
          match b.windowTarget (b.regionOwner r) a we part pinned with
          | 5 => b.missSeen r (b.slotMissInfo r 5 x)
          | 4 => refuse (match b.protAt a with | some rr => b.wrapRekey rr a | none => b)
          | 3 => f (b.beginWindow a we) 3
          | _ => f (b.beginWindow a we) 0

/-- A read in flight to the return register of a port: 64 hub cycles, or 72 for a pinned-sealed target (R82, R250). -/
def Chip.sendWindow (b : Chip) (r h a : Nat) (pinned : Bool) (x : Served) : Chip :=
  let k := 2 * r + h
  let due := b.now + (if pinned then 90 else 80)
  let w : Window := { code := x.code, data := x.data, due := due, addr := a, inj := x.inj, cycle := b.roundCycle r }
  { b with hub := { b.hub with windowsOut := Tab.set b.hub.windowsOut k (Tab.get [] b.hub.windowsOut k ++ [w]) } }

/-- SCHEDULED_READ_REQUEST (R250, R286). -/
def Chip.schedRead (b : Chip) (r h addr : Nat) (pinned : Bool) : Chip :=
  let a := addr / 32 * 32
  b.scheduled r h a false false pinned fun b code =>
    match code, b.protAt a with
    | 0, some rr =>
      let (b, x) := b.serveRead rr a 32 true
      if x.code = 2 then b else b.sendWindow r h a pinned x
    | code, _ => (b.cupolaNote a code).sendWindow r h a pinned (failWith 32 code false)

def execScheduledReadRequest (r h addr : Nat) (pinned : Bool) (t : Nat) (s : State) : Out :=
  act s fun b => (b.upTo t).schedRead r h addr pinned

/-- SCHEDULED_WRITE_REQUEST (R87, R252, R261, R283, R286). -/
def Chip.schedWrite (b : Chip) (r h addr : Nat) (pinned : Bool) (mask : BitVec 32) (d : Bytes) : Chip :=
  let a := addr / 32 * 32
  b.scheduled r h a true (mask != BitVec.allOnes 32) pinned fun b code =>
    match code, b.protAt a with
    | 0, some rr =>
      let b := { b with hub := { b.hub with writes := Tab.set b.hub.writes (2 * r + h) (a, b.now, 0) } }
      let retry := b.isArmed 0x2D80 3 (b.hubChannel a)
      let (b, x) := b.serveWrite rr a mask.getLsbD d false true
      match x.code with
      | 1 => b.fencePort r 8 (if retry then 2 else 1) a 1 x.inj
      | 3 => b.fencePort r 9 2 a 3 x.inj
      | _ => b
    | code, _ => (b.cupolaNote a code).fencePort r 9 2 a code false

def execScheduledWriteRequest (r h addr : Nat) (pinned : Bool) (mask : BitVec 32) (data : Bytes) (t : Nat) (s : State) :
    Out :=
  act s fun b => (b.upTo t).schedWrite r h addr pinned mask data

/-- The last window of a list that satisfies f, with the windows behind it. -/
def lastWindow (f : Window → Bool) : List Window → Option (Window × List Window)
  | [] => none
  | w :: l =>
    match lastWindow f l with
    | some x => some x
    | none => if f w then some (w, l) else none

/-- The windows in flight on a port from the request that a return entry matches in the present cycle on: the request
stands a hub latency of the region before its return (R85, R87). -/
def Chip.matchingWindow (b : Chip) (r h : Nat) (e : BitVec 64) : Option (Window × List Window) :=
  lastWindow (fun w => w.cycle + latencyOf (b.region r).m e == b.roundCycle r) (Tab.get [] b.hub.windowsOut (2 * r + h))

/-- The return entry of a port that covers the present cycle, open or pinned. -/
def Chip.returnEntry (b : Chip) (r h : Nat) : Option (Nat × BitVec 64) :=
  match b.slotAt r 5 h with
  | some x => some x
  | none => b.slotAt r 5 (h + 4)

/-- SCHEDULED_RETURN_SLOT (R84, R90, R250, R261, R286): the data of the matching request is handed over; it is a miss with
cause 6 where that data is late; a slot whose request slot was not used is no miss. -/
def Chip.returnSlot (b : Chip) (r h : Nat) : Chip :=
  match b.returnEntry r h with
  | none => b
  | some x =>
    if !b.fabricRuns r then b
    else if b.isArmed 0x2D62 6 r then b.missSeen r (b.slotMissInfo r 6 x)
    else
      match b.matchingWindow r h x.2 with
      | none => b
      | some (w, rest) =>
        if b.now < w.due then b.missSeen r (b.slotMissInfo r 6 x)
        else
          let k := 2 * r + h
          let b := { b with hub := { b.hub with
            windowsOut := Tab.set b.hub.windowsOut k rest
            returned := Tab.set b.hub.returned k (w.code, w.data)
            schedOut := Tab.set b.hub.schedOut k (b.isle r, w.code, w.data) } }
          match w.code with
          | 1 => b.fencePort r 8 1 w.addr 1 w.inj
          | 3 => b.fencePort r 9 1 w.addr 3 w.inj
          | _ => b

def execScheduledReturnSlot (r h t : Nat) (s : State) : Out := act s fun b => (b.upTo t).returnSlot r h

/-! ### Best-effort service (R254 to R257) -/

/-- The owner of a source: a fabric port carries the owner of its region's partition, a host port its own (R22, R23). -/
def Chip.sourceOwner (b : Chip) (src : Nat) : Option Nat :=
  if src < 64 then b.regionOwner (src / 2)
  else if src < 68 then some (src - 63)
  else if src = 68 then some 0
  else if src = 69 then some 6
  else if src = 70 then some 6
  else some 7

/-- Debug freezes best-effort service while any partition is halted (R445). -/
def Chip.bestEffortFrozen (b : Chip) : Bool :=
  (List.range 8).any fun p => (b.part p).beFrozen

/-- The bounds of R257 leave room for a request of a source to an address. -/
def Chip.hubRoom (b : Chip) (src a : Nat) : Bool :=
  decide (b.hub.queue.length < 1024) && decide ((b.hub.queue.filter fun q => q.src == src).length < 128) &&
    decide ((b.hub.queue.filter fun q => b.hubChannel q.addr == b.hubChannel a).length < 64)

/-- The channel takes a best-effort request (R243, R249, R259): 0 it waits, 1 it is served, or an error code + 1. -/
def Chip.channelTakes (b : Chip) (a : Nat) : Nat :=
  if b.hub.st = 1 ∨ b.hub.st = 3 then 0
  else if b.hub.capacity ≤ a then 1
  else
    match (b.channel (b.hubChannel a)).st with
    | .ready => 1
    | .selfRefresh => if b.dev.st = .closing then 8 else 1
    | .mappedOut | .empty => 8
    | _ => 0

/-- A write that would have to wait for a re-encryption entry or a sweep. -/
def Chip.requestWaits (b : Chip) (a : Nat) : Bool :=
  match b.protAt a with | some rr => b.writeWaits rr a | none => false

/-- hub_rdy: the source can present a request, and it is taken. -/
def Chip.hubReady (b : Chip) (src a : Nat) (we : Bool) : Bool :=
  !b.bestEffortFrozen && b.hubRoom src a && b.channelTakes a != 0 && !(we && b.requestWaits a) &&
    (decide (64 ≤ src) || b.fabricRuns (src / 2)) && (b.serving || b.dev.st == .safe || b.dev.st == .closing) &&
    (b.sourceOwner src).isSome

/-- The channel of an address takes or completes a request now, and is idle from here (R258). -/
def Chip.useChannel (b : Chip) (a : Nat) : Chip := b.modChannel (b.hubChannel a) fun x => { x with usedAt := b.now }

/-- A request is performed in the order of acceptance (R254, R281); its result waits in the queue. -/
def Chip.accept (b : Chip) (src a : Nat) (we : Bool) (mask : Nat → Bool) (d : Bytes) (tag : Nat) : Chip :=
  if b.hubReady src a we then
    let (b, x) := if b.channelTakes a = 8 then (b, failWith 32 7 false)
      else b.serve ((b.sourceOwner src).getD 7) we a mask d 32
    let b := b.useChannel a
    { b with hub := { b.hub with queue := b.hub.queue ++ [{ src, we, addr := a, tag, code := x.code, data := x.data }] } }
  else if we && b.channelTakes a == 1 then
    match b.protAt a with | some rr => b.wrapRekey rr a | none => b
  else b

def execBestEffortRead (src addr tag t : Nat) (s : State) : Out :=
  act s fun b => (b.upTo t).accept src (addr / 32 * 32) false (fun _ => true) [] tag

def execBestEffortWrite (src addr : Nat) (mask : BitVec 32) (data : Bytes) (tag t : Nat) (s : State) : Out :=
  act s fun b => (b.upTo t).accept src (addr / 32 * 32) true mask.getLsbD data tag

/-- The region cycle in which a fabric port last delivered a best-effort read, or acknowledged a write. -/
def Chip.portShown (b : Chip) (src : Nat) (we : Bool) : Option Nat :=
  if we then (b.hub.ackOut.find? fun x => x.1 == src).map fun x => x.2.1
  else (b.hub.readOut.find? fun x => x.1 == src).map fun x => x.2.1

/-- A result may be delivered: its channel is out of self-refresh, and a fabric port has delivered none of its kind in the present
cycle; read data wait where a return entry of the port covers the cycle (R88, R248, R259). -/
def Chip.mayReturn (b : Chip) (q : Request) : Bool :=
  ((b.channel (b.hubChannel q.addr)).st != .selfRefresh || q.code != 0) &&
    (decide (64 ≤ q.src) ||
      (b.portShown q.src q.we != some (b.isle (q.src / 2)) &&
        (b.slotAt (q.src / 2) 5 (q.src % 2)).isNone && (b.slotAt (q.src / 2) 5 (q.src % 2 + 4)).isNone))

/-- A fabric port shows a result in the present region cycle (R248). -/
def Hub.show_ (h : Hub) (q : Request) (c : Nat) : Hub :=
  if 64 ≤ q.src then h
  else if q.we then { h with ackOut := Tab.set h.ackOut q.src (c, q.code, q.tag) }
  else { h with readOut := Tab.set h.readOut q.src (c, q.code, q.data, q.tag) }

/-- The oldest request of a source completes (R255): its result reaches the source unless the requester was fenced or
reset. -/
def Chip.completeOldest (b : Chip) (src : Nat) (we : Bool) : Chip :=
  match b.hub.queue.find? fun q => q.src == src with
  | some q =>
    if q.we = we ∧ b.mayReturn q = true then
      let h : Hub := { b.hub with
        queue := b.hub.queue.erase q
        results := if q.drop then b.hub.results else Tab.set b.hub.results src (q.code, q.data, q.tag) }
      let b : Chip := { b with hub := if q.drop then h else h.show_ q (b.isle (src / 2)) }
      b.useChannel q.addr
    else b
  | none => b

def execBestEffortReadReturn (src : Nat) (s : State) : Out := act s fun b => b.completeOldest src false
def execBestEffortWriteAck (src : Nat) (s : State) : Out := act s fun b => b.completeOldest src true

/-! ### Write CRC (R260, R261) -/

/-- The bytes of a write that failed for good are undefined: which write DRAM kept is not stated. -/
def Chip.undefineHalf (b : Chip) (a : Nat) : Chip := b.fillRange a (a + 32) none false

/-- The first request of the queue that equals q is replaced. -/
def replaceFirst (q q' : Request) : List Request → List Request
  | [] => []
  | y :: t => if y = q then q' :: t else y :: replaceFirst q q' t

/-- WRITE_CRC_ERROR: the hub resends; after 4 retries the write has failed. A best-effort write of the source comes before
the scheduled write of its port. -/
def Chip.crcError (b : Chip) (src : Nat) : Chip :=
  match b.hub.queue.find? fun q => q.src == src && q.we && q.code == 0 with
  | some q =>
    let c := b.hubChannel q.addr
    let put := fun (b : Chip) (q' : Request) =>
      { b with hub := { b.hub with queue := replaceFirst q q' b.hub.queue } }
    if q.retries < 4 then put (b.count (0x2610 + c) 0x0B) { q with retries := q.retries + 1 }
    else
      let b := (put b { q with code := 1 }).undefineHalf q.addr
      (b.setReg (0x2610 + c) 0x0C q.addr).logEvent (b.dramEv c 6 3 false q.addr 1)
  | none =>
    match b.hub.writes.find? fun x => x.1 == src with
    | some (_, a, t, n) =>
      let c := b.hubChannel a
      if src < 64 ∧ b.now ≤ t + 80 then
        if n < 4 then
          { b with hub := { b.hub with writes := Tab.set b.hub.writes src (a, t, n + 1) } }.count (0x2610 + c) 0x0B
        else
          let b := { b with hub := { b.hub with writes := Tab.drop (fun k => k == src) b.hub.writes } }
          ((b.undefineHalf a).setReg (0x2610 + c) 0x0C a).fencePort (src / 2) 8 2 a 1 false
      else b
    | none => b

def execWriteCrcError (src : Nat) (s : State) : Out := act s fun b => b.crcError src

/-! ### Self-refresh (R258, R259) -/

/-- The window channels of all committed streams (0x2600:05). -/
def Chip.windowChannels (b : Chip) : List Nat :=
  (List.range 8).filter fun c => (List.range 32).any fun r =>
    (b.regionPart r).isSome && ((b.region r).port0 == some c || (b.region r).port1 == some c)

/-- SELF_REFRESH_ENTRY: once the channel has been idle for the time in 0x2600:09; a request accepted before the commit point aborts
the entry. -/
def Chip.selfRefreshEntry (b : Chip) (c : Nat) : Chip :=
  let x := b.channel c
  if b.hub.st = 2 ∧ (x.st = .ready ∨ x.st = .idle) ∧ b.windowChannels.contains c = false ∧ b.reg 0x2600 9 ≠ 0 then
    let b := b.upTo (x.usedAt + b.reg 0x2600 9 * 1000)
    if b.hub.queue.any fun q => b.hubChannel q.addr == c then b.count (0x2610 + c) 0x0E
    else (b.modChannel c fun x => { x with st := .selfRefresh }).count (0x2610 + c) 0x0D
  else b

def execSelfRefreshEntry (c : Nat) (s : State) : Out := act s fun b => b.selfRefreshEntry c

/-- SELF_REFRESH_EXIT: the channel serves requests again; in CLOSING no exit follows. -/
def Chip.selfRefreshExit (b : Chip) (c : Nat) : Chip :=
  if (b.channel c).st = .selfRefresh ∧ b.dev.st ≠ .closing then
    b.modChannel c fun x => { x with st := if b.hub.set_.getLsbD c then .ready else .idle }
  else b

def execSelfRefreshExit (c : Nat) (s : State) : Out := act s fun b => b.selfRefreshExit c

/-- CLOSING_SELF_REFRESH_DONE (R278, R288, R398, R494): dirty metadata has gone back to DRAM; P12, P13 and P11 go off; the closing test starts, or after SAFE the
device goes to STANDBY at once. -/
def Chip.selfRefreshDone (b : Chip) : Chip :=
  if b.dev.st = .closing ∧ b.dev.closingStage = 1 then
    let b := b.flushCache.clearIntact
    if b.dev.closingFromSafe then b.flushLog.enterStandby false false
    else
      let b := b.powerOff [12, 13, 11]
      { b with
        cupola := {}
        hub := { b.hub with st := 0 }
        dev := { b.dev with closingStage := 2 }
        test := { b.test with closing := true, index := 0, patterns := 0, failures := [], tooMany := false }
        watch := { b.watch with st := 1 } }
  else b

def execClosingSelfRefreshDone (s : State) : Out := act s Chip.selfRefreshDone

/-! ### Patrol scrub (R262, R393) -/

/-- DRAM_SCRUB_READ: the next raw line below the capacity, whatever region or span it lies in; an uncorrectable metadata
line poisons what lies beneath it (R284). -/
def Chip.dramScrub (b : Chip) (err : EccOutcome) : Chip :=
  if b.hub.st ≠ 2 ∨ b.hub.capacity = 0 ∨ b.bestEffortFrozen = true ∨ b.reg 0x2910 3 = 0 then b
  else
    let a := b.watch.scrubPtr % b.hub.capacity
    let c := b.hubChannel a
    let b := if b.hub.capacity ≤ a + 64 then b.count 0x2910 5 else b
    let b := { b with watch := { b.watch with scrubPtr := (a + 64) % b.hub.capacity } }
    if (b.channel c).underTest then b
    else
      let (b, bad, _) := b.readLine a false
      let span := b.spanAt a
      let poison := fun (b : Chip) =>
        match span with
        | some rr => b.poisonLine rr a false
        | none => b
      if bad then poison b
      else
        match err with
        | .clean => b
        | .single _ => ((b.count (0x2610 + c) 9).setReg (0x2610 + c) 0x0C a).logEvent (b.dramEv c 3 2 false a 0)
        | .uncorrectable _ =>
          let b := { b with hub := { b.hub with badLines := (a / 64) :: b.hub.badLines } }
          let b := (b.count (0x2610 + c) 0x0A).setReg (0x2610 + c) 0x0C a
          poison (b.logEvent (b.dramEv c 4 3 false a 1))

def execDramScrubRead (err : EccOutcome) (s : State) : Out := act s fun b => b.dramScrub err

end Sys2Proof.Machine
end

