-- ==== Sys2Proof/Machine/Owners.lean ====
section
/-! DEFINITION. Owners and partitions: the owner and the claim of a partition, and the partition reset (R298 to R301). -/

namespace Sys2Proof.Machine

open Sys2Proof

/-- A write of 0x211p:01 (R299, R300, R317): the entry names the owner after the event, or for a clear the owner before. -/
def Chip.setPartOwner (b : Chip) (p v : Nat) : Chip :=
  let old := b.partOwner p
  let b := b.modPart p fun q => { q with owner := v }
  if v = 0xFF then b.logEvent { code := evCode 4 10 p 0x11, sev := 1, owner := old, part := some p }
  else b.logEvent { code := evCode 4 10 p 0x10, sev := 1, owner := some v, part := some p }

def execPartitionOwnerWrite (q : Req) (p v : Nat) (s : State) : Out :=
  act s fun b => b.writeRow q (0x2110 + p) 1 v fun b => .ok (b.setPartOwner p v)

/-- A region of the mask is claimed by another partition. -/
def Chip.claimedElsewhere (b : Chip) (p : Nat) (mask : BitVec 32) : Bool :=
  (List.range 8).any fun j => j != p && (b.part j).claim &&& mask != 0#32

/-- A write of 0x211p:02 (R300); a region that the acceptance of a failed test excluded is refused (R397). -/
def Chip.setClaim (b : Chip) (p : Nat) (mask : BitVec 32) : Res :=
  if b.claimedElsewhere p mask || (mask &&& b.test.excluded) != 0#32 then .error 0x06090030
  else if (b.part p).regions &&& ~~~mask ≠ 0#32 then .error 0x08000022
  else .ok (b.modPart p fun q => { q with claim := mask })

def execPartitionClaimWrite (q : Req) (p : Nat) (mask : BitVec 32) (s : State) : Out :=
  act s fun b => b.writeRow q (0x2110 + p) 2 mask.toNat fun b => b.setClaim p mask

/-- The serial of 0x2E21, its conditions in the order of R511 (R301). -/
def Chip.startPartReset (b : Chip) (o : Nat) : Chip :=
  let p := b.reg 0x2E21 3
  let frame := b.reg 0x2E21 4
  let q := b.part p
  if !b.serving then b.setStatus 0x2E21 o 5
  else if !q.committed then b.setStatus 0x2E21 o 4
  else if q.status = .armed ∨ q.status = .suspended then b.setStatus 0x2E21 o 2
  else if b.partAny p fun g => g.fenced || g.halted then b.setStatus 0x2E21 o 3
  else if q.tables && b.frameBegun p frame then b.setStatus 0x2E21 o 2
  else
    let t := if q.tables then (if frame = 0 then b.releaseFrame p else frame * 2 ^ q.k) else b.now + 5
    let b := b.forEach (b.partRegions p) fun b r => (b.assertReset r).setSafe r 0#64
    (b.beginCmd 0x2E21 o).modPart p fun q => { q with resetAt := some t, resetCmd := true }

def execPartitionReset (q : Req) (serial p frame : Nat) (s : State) : Out :=
  act s fun b => b.commandRow q 0x2E21 serial [(3, p), (4, frame)] Chip.startPartReset

/-- PARTITION_RESET_RELEASE (R301, R317): every region that is neither fenced nor halted is released at the planned edge, which
without slot tables is its second net-0 edge after the source is removed (R125); the command ends where no fence or halt has
ended it. -/
def Chip.partResetRelease (b : Chip) (p : Nat) : Chip :=
  match (b.part p).resetAt with
  | none => b
  | some t =>
    let tabled := (b.part p).tables
    let b := (b.upTo t).modPart p fun q => { q with resetAt := none }
    let b := b.forEach (b.partRegions p) fun b r =>
      if (b.region r).halted then b.modRegion r fun g => { g with relDue := true } else b
    let go := (b.partRegions p).filter fun r => !(b.region r).fenced && !(b.region r).halted
    let b := b.inTickOrder (go.map fun r => (if tabled then t else b.secondEdge r t, r)) Chip.releaseRegion
    if go.isEmpty then b.endPartReset p 0
    else (b.endPartReset p 0).logEvent (b.partEv p (evCode 4 10 p 0x12) 1 0 0 0)

def execPartitionResetRelease (p : Nat) (s : State) : Out := act s fun b => b.partResetRelease p

end Sys2Proof.Machine
end

