-- ==== Sys2Proof/Machine/Ports.lean ====
section
/-! DEFINITION. The PCIe host ports: resets and links, port events, DMA channels and BAR2 (R302 to R314). -/

namespace Sys2Proof.Machine

open Sys2Proof

/-! ### Resets and links (R303, R317) -/

/-- A port event of the host hub names the port's owner (R479). -/
def portEv (h code sev : Nat) (inj : Bool) (d0 d1 : Nat) : Ev :=
  { code := evCode 4 10 h code, sev := sev, inj := inj, owner := some (h + 1), d0 := d0, d1 := d1 }

/-- A reset of a port (R303): BAR0 returns to its reset values, DMA channels are disabled, results of requests that the hub
has taken are discarded, and a stream that the port reads is cut short (R360); a mailbox request in service is served and
its response discarded (R345). -/
def Chip.resetPort (b : Chip) (h : Nat) : Chip :=
  let b := b.modPort h fun p => { link := p.link, speed := p.speed, width := p.width }
  let b := b.endLoads (fun l => l.source == h + 1) 10
  { b with hub := { b.hub with queue := b.hub.queue.map fun q => if q.src = 64 + h then { q with drop := true } else q } }

def execFundamentalReset (h : Nat) (s : State) : Out := act s fun b => b.resetPort h

def execHotReset (h : Nat) (s : State) : Out :=
  act s fun b => (b.resetPort h).logEvent (portEv h 3 1 false 0 0)

def execFunctionLevelReset (h : Nat) (s : State) : Out :=
  act s fun b => (b.resetPort h).logEvent (portEv h 3 1 false 0 0)

/-- A link goes down. -/
def Chip.linkDown (b : Chip) (h : Nat) (inj : Bool) : Chip :=
  let b := (b.resetPort h).modPort h fun p => { p with link := 0, speed := 0, width := 0 }
  (b.count (0x2800 + h) 0x0B).logEvent (portEv h 2 1 inj 0 0)

def execPcieLinkDown (h : Nat) (s : State) : Out :=
  act s fun b => if (b.port h).link = 0 then b else b.linkDown h false

/-- PCIE_LINK_UP: a link of a speed and a width that the port supports (R302, R316). -/
def execPcieLinkUp (h speed width : Nat) (s : State) : Out :=
  act s fun b =>
    if (b.port h).link = 2 ∨ b.hostOn = false ∨ (1 ≤ speed ∧ speed ≤ 5) = False ∨ [1, 2, 4, 8].contains width = false then b
    else (b.modPort h fun p => { p with link := 2, speed := speed, width := width }).logEvent (portEv h 1 1 false 0 0)

/-- PORT_EVENT_CLEAR (R307): writing 1 clears. -/
def execPortEventClear (h : Nat) (mask : BitVec 32) (s : State) : Out :=
  act s fun b => if b.hostOn then b.modPort h fun p => { p with events := p.events &&& ~~~mask } else b

/-! ### DMA (R308, R311 to R314) -/

def HostPort.channel (p : HostPort) (c : Nat) : Dma := Tab.get {} p.dma c
def Chip.modDma (b : Chip) (h c : Nat) (f : Dma → Dma) : Chip :=
  b.modPort h fun p => { p with dma := Tab.set p.dma c (f (p.channel c)) }
def Chip.dma (b : Chip) (h c : Nat) : Dma := (b.port h).channel c

/-- The ring's entry count. -/
def Dma.entries (d : Dma) : Nat := 2 ^ (d.size % 32)

/-- Idle or active: active where a descriptor waits. -/
def Dma.ready (d : Dma) : Dma := { d with st := if d.p = d.c then 1 else 2 }

/-- DMA_ENABLE: a change of enable from 0 to 1 sets P and C to 0 and starts the channel. -/
def Dma.start (d : Dma) (vector : Nat) : Dma :=
  if d.enable then { d with vector := some vector }
  else
    let d := { d with vector := some vector, enable := true, p := 0#32, c := 0#32 }
    if 4 ≤ d.size % 32 ∧ d.size % 32 ≤ 16 then { d with st := 1 } else { d with st := 5 }

def execDmaEnable (h c vector : Nat) (s : State) : Out := act s fun b => if b.hostOn then b.modDma h c fun d => d.start vector else b

/-- DMA_DISABLE: the channel stops after the present descriptor is written back. -/
def Dma.stop (d : Dma) : Dma :=
  let d := { d with enable := false }
  if d.cur.isSome then d else { d with st := 0 }

def execDmaDisable (h c : Nat) (s : State) : Out := act s fun b => if b.hostOn then b.modDma h c Dma.stop else b

/-- DMA_RESUME: from the error or the fault-stopped state the channel continues at slot C; from the latter after a recover command
(R304), that is not in SAFE. -/
def Dma.resume (d : Dma) (inSafe : Bool) : Dma :=
  if (d.st = 3 ∨ (d.st = 4 ∧ inSafe = false)) ∧ d.enable = true then d.ready else d

def execDmaResume (h c : Nat) (s : State) : Out :=
  act s fun b => if b.hostOn then b.modDma h c fun d => d.resume (b.dev.st == .safe) else b

/-- An overrun (R313). -/
def Chip.dmaOverrun (b : Chip) (h c : Nat) (inj : Bool) : Chip :=
  let d := b.dma h c
  (b.modDma h c fun d => { d with st := 3 }).logEvent (portEv h 5 3 inj c d.c.toNat)

/-- DMA_DOORBELL (R313): differences are taken modulo 2^32. A doorbell of a channel that is disabled has no effect. -/
def Chip.doorbell (b : Chip) (h c : Nat) (v : BitVec 32) : Chip :=
  let d := b.dma h c
  if !b.hostOn || !d.enable then b
  else if b.isArmed 0x2DA0 3 (h * 16 + c) then
    (b.applyArmed 0x2DA0 3 (h * 16 + c) (evCode 4 10 h 5)).dmaOverrun h c true
  else if d.entries < (v - d.c).toNat then b.dmaOverrun h c false
  else if (d.p - d.c).toNat ≤ (v - d.c).toNat then
    b.modDma h c fun d => if d.st = 1 ∨ (d.st = 2 ∧ d.cur.isNone) then ({ d with p := v } : Dma).ready else { d with p := v }
  else b.count (0x2800 + h) 9

def execDmaDoorbell (h c : Nat) (v : BitVec 32) (s : State) : Out := act s fun b => b.doorbell h c v

/-- The piece of a transfer at an address with n bytes left: a whole line, or what lies in one half-line. -/
def pieceLen (a n : Nat) : Nat := if a % 64 = 0 ∧ 64 ≤ n then 64 else min n (32 - a % 32)

/-- Bytes written to DRAM piece by piece, until a piece ends with an error: the code and the bytes moved (R314). -/
def Chip.putBytes (b : Chip) (o a : Nat) (d : Bytes) (moved : Nat) : Nat → Chip × Nat × Nat
  | 0 => (b, 0, moved)
  | fuel + 1 =>
    if d = [] then (b, 0, moved)
    else
      let n := pieceLen a d.length
      let base := if n = 64 then a else a / 32 * 32
      let lo := a - base
      let (b, x) := b.serve o true base (fun i => decide (lo ≤ i) && decide (i < lo + n))
        (List.replicate lo 0#8 ++ d.take n) (if n = 64 then 64 else 32)
      if x.code = 0 then b.putBytes o (a + n) (d.drop n) (moved + n) fuel else (b, x.code, moved)

/-- Bytes read from DRAM piece by piece, until a piece ends with an error: the code and the bytes so far. -/
def Chip.getBytes (b : Chip) (o a n : Nat) (got : Bytes) : Nat → Chip × Nat × Bytes
  | 0 => (b, 0, got)
  | fuel + 1 =>
    if n = 0 then (b, 0, got)
    else
      let k := pieceLen a n
      let (b, x) := b.serve o false a (fun _ => true) [] k
      if x.code = 0 then b.getBytes o (a + k) (n - k) (got ++ x.data) fuel else (b, x.code, got)

/-- The fields of a descriptor that the device acts on (R311); the host address in bytes 0 to 7 goes to the host. -/
def descHub (d : Bytes) : Nat := ofBytes ((d.drop 8).take 8)
def descLen (d : Bytes) : Nat := ofBytes ((d.drop 16).take 4)
def descFlags (d : Bytes) : Nat := ofBytes ((d.drop 20).take 4)

/-- Bits that must be 0 are 0, and the length lies in its range. -/
def descOk (d : Bytes) : Bool :=
  decide (descHub d < 2 ^ 41) && decide (1 ≤ descLen d) && decide (descLen d ≤ 2 ^ 31) && decide (descFlags d < 4)

/-- The hub takes the port's requests now (R244, R445); in a rate change or a freeze they wait. -/
def Chip.hubServes (b : Chip) : Bool := !b.bestEffortFrozen && b.hub.st != 3

/-- A channel in self-refresh during CLOSING (R259, R304). -/
def Chip.closedChannel (b : Chip) (a : Nat) : Bool :=
  b.dev.st == .closing && (b.channel (b.hubChannel a)).st == .selfRefresh

/-- DMA_DESCRIPTOR_START (R304, R311, R312): the descriptor at slot C is read and its bytes move; data is what host memory
holds, for a transfer to DRAM. In SAFE host DMA stands still (R27). -/
def Chip.startDesc (b : Chip) (h c : Nat) (desc data : Bytes) : Chip :=
  let d := b.dma h c
  let put := fun (b : Chip) (code moved : Nat) (out : Bytes) =>
    b.modDma h c fun d => { d with cur := some (bit (descFlags desc) 1, code, moved), out := out }
  if b.hostOn = false ∨ b.dev.st = .safe ∨ d.st ≠ 2 ∨ d.cur.isSome = true ∨ b.hubServes = false then b
  else if b.isArmed 0x2DA0 2 (h * 16 + c) then
    (put (b.applyArmed 0x2DA0 2 (h * 16 + c) (evCode 4 10 h 4)) 1 0 []).modDma h c fun d => { d with injErr := true }
  else if !descOk desc then put b 4 0 []
  else if !b.dev.dramOk || b.closedChannel (descHub desc) then put b 7 0 []
  else if bit (descFlags desc) 0 then
    let (b, code, got) := b.getBytes (h + 1) (descHub desc) (descLen desc) [] (descLen desc)
    put b code got.length got
  else
    let (b, code, moved) := b.putBytes (h + 1) (descHub desc) (data.take (descLen desc)) 0 (descLen desc)
    put b code moved []

def execDmaDescriptorStart (h c : Nat) (desc data : Bytes) (s : State) : Out :=
  act s fun b => b.startDesc h c desc data

/-- The MSI-X vector of a channel. -/
def Dma.vec (d : Dma) (c : Nat) : Nat := d.vector.getD (1 + c)

/-- DMA_DESCRIPTOR_FINISH (R312, R314): the result is written back and C advances; an error stops the channel and sends the
vector whatever the flag says. -/
def Chip.finishDesc (b : Chip) (h c : Nat) : Chip :=
  let d := b.dma h c
  match if b.hostOn then d.cur else none with
  | none => b
  | some (intr, code, moved) =>
    let b := b.modDma h c fun d =>
      let d := { d with
        cur := none
        injErr := false
        back := some (BitVec.ofNat 32 (2 ^ 31 + code * 2 ^ 28), moved)
        c := d.c + 1#32 }
      if code ≠ 0 then { d with st := 3, err := code } else if d.enable then d.ready else { d with st := 0 }
    let b := if intr || code != 0 then b.modPort h fun p => p.send (d.vec c) else b
    if code = 0 then b
    else (b.count (0x2800 + h) 0x0A).logEvent (portEv h 4 3 d.injErr (c + code * 256) d.c.toNat)

def execDmaDescriptorFinish (h c : Nat) (s : State) : Out := act s fun b => b.finishDesc h c

/-! ### BAR2 (R304, R309) -/

/-- An error of BAR2 is counted and recorded. -/
def Chip.bar2Error (b : Chip) (h code a : Nat) : Chip :=
  ((b.count (0x2800 + h) 6).setReg (0x2800 + h) 7 code).setReg (0x2800 + h) 8 a

/-- The answer to a read of a BAR: 0 data, 1 Unsupported Request, 2 Completer Abort. -/
def Chip.answerBar (b : Chip) (h cpl : Nat) (d : Bytes) : Chip := b.modPort h fun p => { p with cpl := cpl, data := d }

/-- A request lies in BAR2, which is 2^s2 bytes. -/
def Chip.inBar2 (b : Chip) (h offset len : Nat) : Bool := decide (offset + len ≤ 2 ^ b.reg (0x2800 + h) 4)

/-- BAR2_READ. -/
def Chip.bar2Read (b : Chip) (h offset len : Nat) : Chip :=
  let a := (b.port h).windowBase + offset
  if !b.hostOn || !b.hubServes || !b.inBar2 h offset len then b
  else if !b.dev.dramOk || b.closedChannel a then (b.bar2Error h 7 a).answerBar h 2 []
  else
    let (b, code, d) := b.getBytes (h + 1) a len [] len
    if code = 0 then b.answerBar h 0 d else (b.bar2Error h code (a + d.length)).answerBar h (if code = 4 then 1 else 2) []

def execBar2Read (h offset len : Nat) (s : State) : Out := act s fun b => b.bar2Read h offset len

/-- BAR2_WRITE: a write that ends with an error is discarded. -/
def Chip.bar2Write (b : Chip) (h offset : Nat) (d : Bytes) : Chip :=
  let a := (b.port h).windowBase + offset
  if !b.hostOn || !b.hubServes || !b.inBar2 h offset d.length then b
  else if !b.dev.dramOk || b.closedChannel a then b.bar2Error h 7 a
  else
    let (b, code, moved) := b.putBytes (h + 1) a d 0 d.length
    if code = 0 then b else b.bar2Error h code (a + moved)

def execBar2Write (h offset : Nat) (data : Bytes) (s : State) : Out := act s fun b => b.bar2Write h offset data

end Sys2Proof.Machine
end

