-- ==== Sys2Proof/Machine/Loader.lean ====
section
/-! DEFINITION. The configuration loader: starting a load, the header stage, the body commands, the content checks, and the
staged stream (R354 to R362, R372, R374, R378, R382). -/

namespace Sys2Proof.Machine

open Sys2Proof

/-! ### Starting a load -/

/-- The serial of 0x2E22 (R354, R355, R378): source 1 outside a PCIe mailbox is refused with result 6. -/
def Chip.startLoad (b : Chip) (o : Nat) : Chip :=
  let host := b.reg 0x2E22 3 == 1
  let l : Load := { source := if host then o else 6, requester := o, viaCommand := true }
  let b := b.beginCmd 0x2E22 o
  if host && !(decide (1 ≤ o) && decide (o ≤ 4)) then b.refuseStream { l with source := 0 } 6 false else b.pushLoad l

def execLoadFromHost (q : Req) (serial addr entries : Nat) (s : State) : Out :=
  act s fun b => b.commandRow q 0x2E22 serial [(3, 1), (4, addr), (5, entries)] Chip.startLoad

def execLoadFromFlash (q : Req) (serial addr : Nat) (s : State) : Out :=
  act s fun b => b.commandRow q 0x2E22 serial [(3, 2), (4, addr)] Chip.startLoad

/-- BOOT_STREAM_LOAD (R372, R374, R382): once per BOOT, when no power-up test runs. -/
def Chip.bootStream (b : Chip) : Chip :=
  if b.serving = false ∨ b.dev.mode.toNat % 4 ≠ 1 ∨ b.loader.bootTried ≠ 0 ∨ b.test.st = 1 then b
  else
    let inj := b.loader.injDir
    let b := { b with loader := { b.loader with bootTried := 1, injDir := false } }
    if inj then (b.injected 0x40C00005).bootFallback true
    else if b.loader.dir0 = 0 then b.bootFallback false
    else b.pushLoad (bootLoad 0)

def execBootStreamLoad (s : State) : Out := act s Chip.bootStream

/-! ### Header stage (R357, R360) -/

/-- Entry p of the partition section: owner and region mask. -/
def sectionOf (h : StreamHeader) (p : Nat) : Nat × BitVec 32 := h.section_.getD p (0, 0#32)

def streamParts (h : StreamHeader) : List Nat := bitsOf h.partMask.toNat 8

/-- The 128 bytes of a header whose reserved fields are 0, the additional authenticated data (R357). -/
def StreamHeader.bytes (h : StreamHeader) : Bytes :=
  toBytes 4 h.magic.toNat ++ toBytes 4 h.device.toNat ++ toBytes 2 h.version ++ toBytes 2 0 ++ toBytes 1 h.partMask.toNat ++
    toBytes 1 h.keyId ++ toBytes 2 0 ++ toBytes 8 h.length ++ toBytes 12 h.nonce.toNat ++ toBytes 28 0 ++
    (List.range 8).flatMap fun p => toBytes 4 (sectionOf h p).1 ++ toBytes 4 (sectionOf h p).2.toNat

/-- The tag of a stream over its header and the ciphertext of its body, and the body that a ciphertext carries: STREAM_TAG_CHECK says
whether the tag received is this one, and the body commands are those of this body. -/
def streamIv (h : StreamHeader) : BitVec 96 := BitVec.ofNat 96 (ofBigEndian (toBytes 12 h.nonce.toNat))
def Load.streamKey (l : Load) : BitVec 256 := Config.slotKey l.keyTaken
def Load.streamTag (l : Load) (h : StreamHeader) (cipher : Bytes) : Bytes :=
  gcmTag l.streamKey (streamIv h) (StreamHeader.bytes h) cipher
def Load.streamBody (l : Load) (h : StreamHeader) (cipher : Bytes) : Bytes := gcmText l.streamKey (streamIv h) cipher

/-- The region mask of the whole stream. -/
def streamRegions (h : StreamHeader) : BitVec 32 := (streamParts h).foldl (fun m p => m ||| (sectionOf h p).2) 0#32

/-- The partition of the section that names a region. -/
def streamPart (h : StreamHeader) (r : Nat) : Option Nat := (streamParts h).find? fun p => (sectionOf h p).2.getLsbD r

/-- The key slot of the stream is not usable (R434). -/
def Chip.keyMissing (b : Chip) (id : Nat) : Bool :=
  let k : KeySlot := Tab.get {} b.lantern.keys id
  decide (16 ≤ id) || k.owner.isNone || k.revoked

/-- A partition of the stream is refused to the requester: code 6 (R296, R298, R300, R360). For a boot stream only an
assigned partition is refused, and an unassigned one may take no region that another partition claims. -/
def Chip.partRefused (b : Chip) (o : Nat) (h : StreamHeader) (p : Nat) : Bool :=
  let e := sectionOf h p
  match b.partOwner p with
  | none => o != 7 || decide (5 < e.1) || b.claimedElsewhere p e.2
  | some w => w != o || e.1 != o || (e.2 &&& ~~~(b.part p).claim) != 0#32

def Chip.ownerRefused (b : Chip) (o : Nat) (h : StreamHeader) : Bool :=
  (o != 7 && !b.hasStream o) || (streamParts h).any (b.partRefused o h)

/-- A busy commit that names a partition of the stream and is not in GATE mode, or has entered its window: code 8. -/
def Chip.commitArmed (b : Chip) (h : StreamHeader) : Bool :=
  match b.loader.commit with
  | some c => (c.mask &&& h.partMask) != 0#8 && (c.mode != 3 || c.phase != 0)
  | none => false

/-- The first failure of the header stage, or 0. -/
def Chip.headerCode (b : Chip) (o : Nat) (h : StreamHeader) (busy : Bool) : Nat :=
  if h.magic ≠ 0x534C4541#32 then 1
  else if h.device ≠ 0xAE810100#32 then 2
  else if h.version ≠ 1 then 3
  else if b.keyMissing h.keyId then 4
  else if h.length < 148 ∨ 536870912 < h.length then 5
  else if b.ownerRefused o h then 6
  else if busy then 7
  else if b.commitArmed h then 8
  else if b.serving then 0
  else 9

/-- The reserved fields of the header, and the section entries outside the mask, are 0 (R357). -/
def headerZero (h : StreamHeader) : Bool :=
  h.reservedZero && (List.range 8).all fun p => h.partMask.getLsbD p || sectionOf h p == (0, 0#32)

def Chip.modLoad (b : Chip) (f : Load → Load) : Chip :=
  { b with loader := { b.loader with load := b.loader.load.map f } }

/-- A failure of the content stage; the lowest code is kept. -/
def Chip.note (b : Chip) (code : Nat) : Chip :=
  b.modLoad fun l => if l.content = 0 ∨ code < l.content then { l with content := code } else l

/-- The header passes: the staged streams that it replaces are discarded whole (R362). -/
def Chip.headerPassed (b : Chip) (h : StreamHeader) : Chip :=
  let b := b.dropStaged fun s => (s.parts &&& h.partMask) != 0#8
  let b := (b.setReg 0x2200 4 h.length).setReg 0x2200 5 128
  let taken := (Tab.get {} b.lantern.keys h.keyId : KeySlot).key
  let b := (b.modLoad fun l => { l with hdr := some h, keyTaken := taken, received := 128 }).keepServed
  if (headerZero h) then b else b.note 13

/-- STREAM_HEADER_RECEIVED: the header of the oldest stream that has none; while the power-up test runs, streams wait. -/
def Chip.header (b : Chip) (h : StreamHeader) : Chip :=
  if b.test.st = 1 then b
  else
    match b.loader.load with
    | none => b
    | some l =>
      if l.hdr.isNone then
        let code := b.headerCode l.requester h false
        if code = 0 then b.headerPassed h else b.endLoad code false
      else
        match b.loader.next with
        | [] => b
        | n :: t =>
          let code := b.headerCode n.requester h true
          let b := { b with loader := { b.loader with next := t } }
          (b.refuseStream n code false).bootFailed n code

def execStreamHeaderReceived (h : StreamHeader) (s : State) : Out := act s fun b => b.header h

/-! ### Body commands (R358, R359) -/

/-- The injected cut: the next stream ends after 4,096 body bytes (R382). -/
def Chip.injectedCut (b : Chip) : Chip :=
  match b.loader.load with
  | some { hdr := some h, received := n, .. } =>
    if 128 + 4096 < n ∧ b.isArmed 0x2DC0 2 0 = true then
      (b.applyArmed 0x2DC0 2 0 (evCode 4 12 (lowestPart h.partMask.toNat) 2)).endLoad 10 true
    else b
  | _ => b

/-- A body command of n bytes arrives. Data past the body, or after END, is a malformed body. -/
def Chip.body (b : Chip) (n : Nat) (f : StreamHeader → Chip → Chip) : Chip :=
  match b.loader.load with
  | none => b
  | some l =>
    match l.hdr with
    | none => b
    | some h =>
      let got := l.received + n
      let b := (b.modLoad fun l => { l with received := got }).setReg 0x2200 5 got
      let b := if l.ended = true ∨ h.length - 16 < got then b.note 13 else f h b
      b.injectedCut

/-- Frames lo to hi (exclusive) of region r are written: the twin is invalid from the first of them (R353); a frame written
twice is refused (R359). -/
def Chip.touchFrames (b : Chip) (r lo hi : Nat) : Chip :=
  let twice := match b.loader.load with
    | some l => l.spans.any fun x => decide (x.1 < hi) && decide (lo < x.2)
    | none => false
  let b := if twice then b.note 14 else b
  let b := b.modLoad fun l =>
    { l with frames := Tab.mod 0 l.frames r fun n => n + (hi - lo), spans := (lo, hi) :: l.spans }
  { b with loader := { b.loader with
      twinInvalid := b.loader.twinInvalid ||| (1#32 <<< r)
      rebuilding := b.loader.rebuilding &&& ~~~(1#32 <<< r) } }

/-- The part of frames lo to hi that lies in region r: written with put, or refused where the stream does not name the
region. -/
def Chip.writeRegion (b : Chip) (h : StreamHeader) (lo hi r : Nat) (put : Nat → Nat → List FrameRun → List FrameRun) :
    Chip :=
  let a := max lo (r * regionFrames)
  let z := min hi ((r + 1) * regionFrames)
  if z ≤ a then b
  else if (streamRegions h).getLsbD r then
    let b := b.touchFrames r a z
    { b with loader := { b.loader with staging := put a z b.loader.staging, stagingRef := put a z b.loader.stagingRef } }
  else b.note 14

/-- n frames from a frame address on; the address advances by frame, then block, then region. -/
def Chip.writeFrames (b : Chip) (h : StreamHeader) (addr : BitVec 32) (n : Nat)
    (put : Nat → Nat → Nat → List FrameRun → List FrameRun) : Chip :=
  match frameOf addr with
  | none => b.note 13
  | some lo =>
    if 32 * regionFrames < lo + n then b.note 13
    else b.forEach (List.range 32) fun b r => b.writeRegion h lo (lo + n) r (put lo)

/-- The settings that the frames carry. -/
def Chip.addSettings (b : Chip) (l : List Setting) : Chip := b.modLoad fun x => { x with settings := x.settings ++ l }

/-- A list of frames put into a plane, the first at number lo; those from a to z (exclusive) are written. -/
def putFrames (l : List (BitVec 2048)) (lo a z : Nat) (plane : List FrameRun) : List FrameRun :=
  ((l.drop (a - lo)).take (z - a)).zipIdx.foldl (fun pl x => runPut pl (a + x.2) 1 x.1) plane

def execFrames (addr : BitVec 32) (l : List (BitVec 2048)) (set : List Setting) (s : State) : Out :=
  act s fun b => b.body (8 + 256 * l.length) fun h b =>
    (b.writeFrames h addr l.length (putFrames l)).addSettings set

def execFill (addr : BitVec 32) (n : Nat) (f : BitVec 2048) (set : List Setting) (s : State) : Out :=
  act s fun b => b.body 264 fun h b =>
    (b.writeFrames h addr n fun _ a z plane => runPut plane a (z - a) f).addSettings set

/-- A command for a region: reserved operand bits are malformed, a region outside the stream or named twice is refused. -/
def Chip.forRegion (b : Chip) (h : StreamHeader) (r : Nat) (seen : Load → List Nat) (f : Chip → Chip) : Chip :=
  if 32 ≤ r then b.note 13
  else if !(streamRegions h).getLsbD r then b.note 14
  else if (match b.loader.load with | some l => (seen l).contains r | none => false) then b.note 14
  else f b

/-- A hub port's window channel lies outside the channel set. -/
def Chip.outsideSet (b : Chip) (c : Option Nat) : Bool :=
  match c with
  | some c => !b.hub.set_.getLsbD c
  | none => false

/-- REGION: M, partition and window channels (R138, R251, R358 to R360). -/
def Chip.regionRecord (b : Chip) (h : StreamHeader) (r : Nat) (w : BitVec 32) : Chip :=
  let n := w.toNat
  let m := field n 0 8
  let port0 := if bit n 14 then some (field n 11 3) else none
  let port1 := if bit n 18 then some (field n 15 3) else none
  let b := if 2 ^ 19 ≤ n then b.note 13 else b
  let b := if streamPart h r ≠ some (field n 8 3) then b.note 14 else b
  let b := if m < 8 ∨ 80 < m ∨ b.outsideSet port0 = true ∨ b.outsideSet port1 = true then b.note 15 else b
  b.modLoad fun l =>
    { l with
      regioned := r :: l.regioned
      records := Tab.mod {} l.records r fun x =>
        { x with m := m, part := field n 8 3, port0 := port0, port1 := port1 } }

def execRegion (r : Nat) (w : BitVec 32) (s : State) : Out :=
  act s fun b => b.body 8 fun h b => b.forRegion h r (·.regioned) fun b => b.regionRecord h r w

/-- TABLE: 1 to 4,096 entries. -/
def Chip.tableRecord (b : Chip) (r : Nat) (l : List (BitVec 64)) : Chip :=
  let b := if l.length = 0 ∨ 4096 < l.length then b.note 13 else b
  b.modLoad fun x =>
    { x with tabled := r :: x.tabled, records := Tab.mod {} x.records r fun y => { y with slots := l } }

def execTable (r : Nat) (entries : List (BitVec 64)) (s : State) : Out :=
  act s fun b => b.body (8 + 8 * entries.length) fun h b =>
    b.forRegion h r (·.tabled) fun b => b.tableRecord r entries

/-- CONTRACT: a partition's frame exponent, 10 to 20 (R79, R359, R360). -/
def Chip.contractRecord (b : Chip) (h : StreamHeader) (p k : Nat) : Chip :=
  let twice := match b.loader.load with
    | some l => l.ks.any fun x => x.1 == p
    | none => false
  if 8 ≤ p ∨ 32 ≤ k then b.note 13
  else if h.partMask.getLsbD p = false ∨ twice = true then b.note 14
  else
    let b := if k < 10 ∨ 20 < k then b.note 16 else b
    b.modLoad fun l => { l with ks := Tab.set l.ks p k }

def execContract (p k : Nat) (s : State) : Out :=
  act s fun b => b.body 4 fun h b => b.contractRecord h p k

/-- A process word of the masks is assigned to a region of another partition, or twice in the stream (R325). -/
def Chip.wordConflict (b : Chip) (h : StreamHeader) (r : Nat) (out inp : BitVec 256) : Bool :=
  let hit := fun (o i : BitVec 256) => (out &&& o) != 0#256 || (inp &&& i) != 0#256
  let mine := match b.loader.load with
    | some l => l.records.any fun x => x.1 != r && hit x.2.pdOut x.2.pdIn
    | none => false
  let others := (List.range 32).any fun q =>
    match b.regionPart q with
    | some p => !h.partMask.getLsbD p && hit (b.region q).pdOut (b.region q).pdIn
    | none => false
  mine || others

/-- PDMAP: process word assignments. -/
def Chip.pdmapRecord (b : Chip) (h : StreamHeader) (r : Nat) (out inp : BitVec 256) : Chip :=
  let b := if b.wordConflict h r out inp then b.note 20 else b
  b.modLoad fun l =>
    { l with
      pdmapped := r :: l.pdmapped
      records := Tab.mod {} l.records r fun x => { x with pdOut := out, pdIn := inp } }

def execPdmap (r : Nat) (out inp : BitVec 256) (s : State) : Out :=
  act s fun b => b.body 68 fun h b => b.forRegion h r (·.pdmapped) fun b => b.pdmapRecord h r out inp

/-- END closes the body. -/
def execStreamEnd (s : State) : Out :=
  act s fun b => b.body 4 fun _ b => b.modLoad fun l => { l with ended := true }

/-- STREAM_CUT_SHORT: the source ends before the declared length. -/
def execStreamCutShort (s : State) : Out := act s fun b => b.endLoad 10 false

/-! ### Content stage (R359, R360) -/

/-- No region lies in two partitions; every region of the stream has each frame and one REGION; a partition has one CONTRACT where it has a TABLE and none
otherwise: code 14. -/
def Load.complete (l : Load) (h : StreamHeader) : Bool :=
  pairwiseOk (fun p q => (sectionOf h p).2 &&& (sectionOf h q).2 != 0#32) (streamParts h) &&
  (bitsOf (streamRegions h).toNat 32).all (fun r => Tab.get 0 l.frames r == regionFrames && l.regioned.contains r) &&
    (streamParts h).all fun p =>
      (l.tabled.any fun r => streamPart h r == some p) == (l.ks.any fun x => x.1 == p)

/-- The mode that the stream gives a queue block (R179). -/
def queueModeOf (l : List Setting) (r q : Nat) : Nat :=
  l.foldl (fun m x =>
    match x with
    | .queue rr k mode .. => if rr = r ∧ k = q then mode else m
    | _ => m) 0

/-- Ratio codes and live slots of the regions of partition p. -/
def Load.plan (l : Load) (h : StreamHeader) (p : Nat) : RegionPlan :=
  (bitsOf (sectionOf h p).2.toNat 32).map fun r =>
    (r, (Tab.get {} l.records r).m, liveSlots (Tab.get {} l.records r).slots)

/-- Window starts of the stream and of the committed regions that it leaves in place (R251). -/
def Chip.allWindows (b : Chip) (l : Load) (h : StreamHeader) : Option (List (Nat × Nat)) :=
  let mine := (bitsOf (streamRegions h).toNat 32).map fun r =>
    let x := Tab.get {} l.records r
    windowStarts x.m (liveSlots x.slots) x.port0 x.port1
  let others := (List.range 32).filterMap fun r =>
    match b.regionPart r with
    | some p =>
      if h.partMask.getLsbD p then none
      else some (windowStarts (b.region r).m (b.region r).slots (b.region r).port0 (b.region r).port1)
    | none => none
  (mine ++ others).foldl (fun acc x =>
    match acc, x with
    | some a, some y => some (a ++ y)
    | _, _ => none) (some [])

/-- Code 16. -/
def Chip.tablesOk (b : Chip) (l : Load) (h : StreamHeader) : Bool :=
  (l.ks.all fun x =>
    partTablesOk x.2 (l.plan h x.1) (fun r => (Tab.get {} l.records r).slots) (queueModeOf l.settings) l.settings) &&
  match b.allWindows l h with
  | some w => windowsOk w
  | none => false

/-- Code 17: what R73 refuses. -/
def Chip.pinsOk (b : Chip) (l : List Setting) : Bool :=
  pairwiseOk (fun x y => match x, y with | .reflex t _ _, .reflex u _ _ => t == u | _, _ => false) l &&
    l.all fun x =>
      match x with
      | .reflex t _ _ => !b.paired (tpBank t) (tpPos t)
      | .rfxOeConst t => !l.contains (.driveWords t)
      | _ => true

/-- The partition that a region has once the stream is committed. -/
def Chip.partAfter (b : Chip) (h : StreamHeader) (r : Nat) : Option Nat :=
  match streamPart h r with
  | some p => some p
  | none =>
    match b.regionPart r with
    | some p => if h.partMask.getLsbD p then none else some p
    | none => none

/-- A queue block's settings (R179, R187): width code 3 is refused in every mode. -/
def Chip.queueOk (b : Chip) (h : StreamHeader) (r q mode width hi lo : Nat) : Bool :=
  decide (width ≤ 2) &&
    (mode == 0 ||
      (decide (mode ≤ 4) && (mode != 3 || width == 2) &&
        (mode != 2 || match neighbor r (q / 4) with
          | some n => b.partAfter h n == b.partAfter h r
          | none => false) &&
        decide (1 ≤ hi) && decide (hi ≤ 256) && decide (lo ≤ 255) && decide (lo < hi)))

/-- A slice group's settings (R223). -/
def groupOk (net start : Nat) (ev : BitVec 4) (entry bound : List Nat) (view : Nat) : Bool :=
  decide (net < 16) && decide (start < 4096) && decide (view < 8) && (List.range 4).all fun n =>
    !ev.getLsbD n ||
      (decide (entry.getD n 0 ≤ 4093) && decide (2 ≤ bound.getD n 0) && decide (bound.getD n 0 ≤ 65535))

/-- Code 18. -/
def Chip.hardOk (b : Chip) (h : StreamHeader) (l : List Setting) : Bool :=
  l.all fun x =>
    match x with
    | .queue r k mode width hi lo => b.queueOk h r k mode width hi lo
    | .group _ _ net start _ ev entry bound view => groupOk net start ev entry bound view
    | _ => true

/-- Regions that hold a failure of a kind other than block memory or scratchpad, while result 2 waits for acceptance
(R397, R400). -/
def Chip.failedRegions (b : Chip) : List Nat :=
  if b.test.st = 5 then
    (b.test.failures.filter fun e => field e.toNat 60 4 != 2 && field e.toNat 60 4 != 3).map fun e => field e.toNat 55 5
  else []

/-- Code 19: an unrepairable memory that the stream uses, or a failed region (R172, R397). A stream uses a block memory that
it configures and a scratchpad bank that its slot tables name. -/
def Chip.unitsOk (b : Chip) (l : Load) (h : StreamHeader) : Bool :=
  (l.settings.all fun x =>
    match x with
    | .bmMode r k m .. => !b.mem.badBm.contains (bmKey r k m)
    | _ => true) &&
  (l.records.all fun x => (liveSlots x.2.slots).all fun e =>
    entryClass e != 3 || !b.mem.badBank.contains (x.1 * 16 + entryResource e)) &&
  b.failedRegions.all fun r => !(streamRegions h).getLsbD r

/-- The first failure of the content stage, or 0: codes 13 to 20 in their order. -/
def Chip.contentCode (b : Chip) (l : Load) (h : StreamHeader) : Nat :=
  let low := fun (code : Nat) => l.content != 0 && decide (l.content ≤ code)
  if low 13 || !l.ended || l.received != h.length - 16 then 13
  else if low 14 || !l.complete h then 14
  else if low 15 then 15
  else if low 16 || !b.tablesOk l h then 16
  else if !b.pinsOk l.settings then 17
  else if !b.hardOk h l.settings then 18
  else if !b.unitsOk l h then 19
  else l.content

/-! ### Staged streams (R141, R360, R362) -/

/-- A verified boot stream gives an unassigned partition its owner and claim (R360). -/
def Chip.adoptParts (b : Chip) (h : StreamHeader) : Chip :=
  b.forEach (streamParts h) fun b p =>
    if (b.partOwner p).isSome then b
    else
      let e := sectionOf h p
      (b.modPart p fun q => { q with owner := e.1, claim := e.2 }).logEvent
        { code := evCode 4 10 p 0x10, sev := 1, owner := some e.1, part := some p }

/-- The stream as it is staged. -/
def Load.staged (l : Load) (h : StreamHeader) : Staged :=
  { parts := h.partMask
    length := h.length
    keyId := h.keyId
    requester := l.requester
    section_ := (streamParts h).map fun p => (p, (sectionOf h p).1, (sectionOf h p).2, Tab.get 0 l.ks p)
    records := l.records.map fun x => (x.1, { x.2 with slots := liveSlots x.2.slots })
    settings := l.settings }

/-- The standby synthesizers of regions whose M changes start to lock; one that an island restart uses does so after it. -/
def Chip.lockStandbys (b : Chip) (mask : BitVec 32) : Chip :=
  b.forEach (bitsOf mask.toNat 32) fun b r =>
    if (b.region r).restartAt.isSome then b else b.freeRegionStandby r

/-- The stream is verified: result 0. -/
def Chip.streamVerified (b : Chip) (l : Load) (h : StreamHeader) : Chip :=
  let p := lowestPart h.partMask.toNat
  let b := { b with loader := { b.loader with load := none, staged := b.loader.staged ++ [l.staged h] } }
  let b := (b.lockStandbys (streamRegions h)).nextLoad
  let b := if l.requester = 7 then b.adoptParts h else b
  let b := (b.setReg 0x2200 6 0).count 0x2200 7
  let b := b.logEvent { code := evCode 4 12 p 1, sev := 1, owner := some l.requester, part := some p, d0 := l.source * 256 }
  if l.viaCommand then (b.setReg 0x2E22 6 0).endCmd 0x2E22 0
  else if l.source = 5 then { b with ecat := { b.ecat with foe := 0, foeReply := 0 } }
  else b.bootCommit h.partMask

/-- STREAM_TAG_CHECK: more bytes than declared, the tag, then the content. -/
def Chip.tagCheck (b : Chip) (ok : Bool) (extra : Nat) : Chip :=
  match b.loader.load with
  | none => b
  | some l =>
    match l.hdr with
    | none => b
    | some h =>
      let b := b.setReg 0x2200 5 (h.length + extra)
      if extra ≠ 0 then b.endLoad 11 false
      else if b.isArmed 0x2DC0 1 0 then
        (b.applyArmed 0x2DC0 1 0 (evCode 4 12 (lowestPart h.partMask.toNat) 2)).endLoad 12 true
      else if !ok then b.endLoad 12 false
      else
        let code := b.contentCode l h
        if code = 0 then b.streamVerified l h else b.endLoad code false

def execStreamTagCheck (ok : Bool) (extra : Nat) (s : State) : Out := act s fun b => b.tagCheck ok extra

end Sys2Proof.Machine
end

