-- ==== Sys2Proof/Machine/Commit.lean ====
section
/-! DEFINITION. The commit and GATE: starting and cancelling a commit, its window from t_c - 64 to the release edge, and the
sampling grid of GATE (R363 to R371, R377, R380). -/

namespace Sys2Proof.Machine

open Sys2Proof

/-! ### Starting a commit -/

/-- The owner has the stream right and owns every partition of a mask: "S" in the Owner column (R363). -/
def Chip.mayCommit (b : Chip) (o : Nat) (mask : BitVec 8) : Bool :=
  o == 0 || (b.hasStream o && (bitsOf mask.toNat 8).all fun p => b.ownsPart o p)

/-- The command names part of a staged stream only. -/
def Chip.splitsStream (b : Chip) (mask : BitVec 8) : Bool :=
  (b.commitStreams mask).any fun s => (s.parts &&& ~~~mask) != 0#8

/-- The instant of modes 1 and 2 (R364). -/
def Chip.targetTick (b : Chip) (mask : BitVec 8) (mode target : Nat) : Nat :=
  if mode = 1 then target * 2 ^ kmax (b.commitStreams mask) else target

/-- A target in mode 2 that is a multiple of 2^k for every partition with tables. -/
def Chip.targetFits (b : Chip) (mask : BitVec 8) (mode target : Nat) : Bool :=
  mode != 2 || (b.commitStreams mask).all fun s => s.section_.all fun x => x.2.2.2 == 0 || target % 2 ^ x.2.2.2 == 0

/-- The status with which a commit is refused, or 0 (R363, R364, R377, R511). Modes 0 and 3 wait for a staged stream. -/
def Chip.commitRefusal (b : Chip) (o : Nat) (mask : BitVec 8) (mode target : Nat) : Nat :=
  let timed := mode == 1 || mode == 2
  if mask = 0#8 ∨ b.splitsStream mask = true ∨ (timed && !b.commitStaged mask) = true then 2
  else if !b.mayCommit o mask then 3
  else if timed && (decide (b.targetTick mask mode target < b.now + 100000) || !b.targetFits mask mode target) then 4
  else if b.serving then 0
  else 5

/-- The serial of 0x2210. -/
def Chip.startCommit (b : Chip) (o : Nat) : Chip :=
  let mask := BitVec.ofNat 8 (b.reg 0x2210 2)
  let mode := b.reg 0x2210 3
  let target := b.reg 0x2210 4
  let st := b.commitRefusal o mask mode target
  if st ≠ 0 then b.setStatus 0x2210 o st
  else
    let tc := if mode = 1 ∨ mode = 2 then some (b.targetTick mask mode target) else none
    { (b.beginCmd 0x2210 o) with
      loader := { b.loader with
        commit := some { mask := mask, mode := mode, target := target, owner := o, tc := tc } } }

def execCommitNextBoundary (q : Req) (serial : Nat) (mask : BitVec 8) (s : State) : Out :=
  act s fun b => b.commandRow q 0x2210 serial [(2, mask.toNat), (3, 0)] Chip.startCommit

def execCommitAtFrame (q : Req) (serial : Nat) (mask : BitVec 8) (target : Nat) (s : State) : Out :=
  act s fun b => b.commandRow q 0x2210 serial [(2, mask.toNat), (3, 1), (4, target)] Chip.startCommit

def execCommitAtInstant (q : Req) (serial : Nat) (mask : BitVec 8) (target : Nat) (s : State) : Out :=
  act s fun b => b.commandRow q 0x2210 serial [(2, mask.toNat), (3, 2), (4, target)] Chip.startCommit

def execCommitGate (q : Req) (serial : Nat) (mask : BitVec 8) (s : State) : Out :=
  act s fun b => b.commandRow q 0x2210 serial [(2, mask.toNat), (3, 3)] Chip.startCommit

/-- A write of 0x2211:01 (R368): TRUE ends a busy commit before t_c - 64, for an owner that may commit its partitions. -/
def Chip.cancelCommit (b : Chip) (o v : Nat) : Res :=
  match b.loader.commit with
  | none => .ok b
  | some c =>
    if !b.mayCommit o c.mask then .error 0x06010000
    else .ok (if v = 1 ∧ c.phase = 0 then b.endCommit 6 false else b)

def execCommitCancel (q : Req) (s : State) : Out :=
  act s fun b => b.writeRow q 0x2211 1 1 fun b => b.cancelCommit q.owner 1

/-! ### The conditions and the window (R365, R366) -/

def Chip.modCommit (b : Chip) (f : Commit → Commit) : Chip :=
  { b with loader := { b.loader with commit := b.loader.commit.map f } }

/-- COMMIT_CONDITIONS_MET: in mode 0 the instant is the first boundary at least 64 ticks away. -/
def Chip.conditionsMet (b : Chip) : Chip :=
  match b.loader.commit with
  | none => b
  | some c =>
    if (c.mode = 0 ∨ c.mode = 3) ∧ c.phase = 0 ∧ c.tc.isNone = true ∧ b.commitReady c.mask = true then
      b.modCommit fun x =>
        { x with
          readyAt := some b.now
          tc := if c.mode = 0 then some (nextMultiple (b.now + 64) (2 ^ kmax (b.commitStreams c.mask))) else none }
    else b

def execCommitConditionsMet (s : State) : Out := act s Chip.conditionsMet

/-- COMMIT_FREEZE: at t_c - 64 a condition that does not hold ends a commit of mode 1 or 2, and lets another wait again. -/
def Chip.freezeCommit (b : Chip) : Chip :=
  match b.loader.commit with
  | some { phase := 0, tc := some t, mask := mask, mode := mode, .. } =>
    let b := b.upTo (t - 64)
    if b.commitReady mask then
      let l := b.commitStreams mask
      b.modCommit fun x =>
        { x with phase := 1, staged := l, regions := commitRegions l, removed := b.commitRemoved l }
    else if mode = 1 ∨ mode = 2 then b.endCommit 7 false
    else b.modCommit fun x => { x with tc := none, readyAt := none }
  | _ => b

def execCommitFreeze (s : State) : Out := act s Chip.freezeCommit

/-- COMMIT_RESET_ASSERT: at t_c - 48 the reset is asserted, and the planes are copied until t_c - 8. -/
def Chip.commitResets (b : Chip) : Chip :=
  match b.loader.commit with
  | some c =>
    match c.phase, c.tc with
    | 1, some t => ((((b.upTo (t - 48)).commitAssert c).commitCopy c)).modCommit fun x => { x with phase := 2 }
    | _, _ => b
  | none => b

def execCommitResetAssert (s : State) : Out := act s Chip.commitResets

/-- COMMIT_INSTANT. -/
def Chip.commitTakes (b : Chip) : Chip :=
  match b.loader.commit with
  | some c =>
    match c.phase, c.tc with
    | 2, some t => ((b.upTo t).commitInstant c false).modCommit fun x => { x with phase := 3 }
    | _, _ => b
  | none => b

def execCommitInstant (s : State) : Out := act s Chip.commitTakes

/-- COMMIT_RELEASE: the commit is done; config_ok follows the boot mode (R372). -/
def Chip.commitDone (b : Chip) : Chip :=
  match b.loader.commit with
  | some c =>
    if c.phase = 3 then (((b.commitReleaseRegions c).bootCommitted c).endCommit 0 false).tryFull else b
  | none => b

def execCommitRelease (s : State) : Out := act s Chip.commitDone

/-! ### GATE (R369, R370, R380) -/

/-- The device drives GATE low after BOOT: in SAFE, and while a commit in mode 3 waits for a condition. -/
def Chip.holdsGate (b : Chip) : Bool :=
  b.dev.st == .safe || match b.loader.commit with
    | some c => c.mode == 3 && c.phase == 0 && !b.commitReady c.mask
    | none => false

/-- The first tick at or after n whose count mod 65,536 is r. -/
def gridTick (n r : Nat) : Nat := if n ≤ r then r else nextMultiple (n - r) 65536 + r

/-- GATE_DRIVE_CHANGE. -/
def Chip.gateDriveChange (b : Chip) : Chip :=
  if b.fromReduced && b.powered 16 then
    let b := b.upTo (gridTick b.now 32768)
    { b with dev := { b.dev with gateDrive := b.holdsGate } }
  else b

def execGateDriveChange (s : State) : Out := act s Chip.gateDriveChange

/-- GATE_SAMPLE: the line is low while this device drives it. -/
def Chip.gateSample (b : Chip) (high : Bool) : Chip :=
  if b.fromReduced && b.powered 16 then
    let b := b.upTo (gridTick b.now 0)
    let v := high && !b.dev.gateDrive
    let b := if v && !b.dev.gateLevel then b.setReg 0x2230 3 b.now else b
    let b := { b with dev := { b.dev with gateLevel := v } }
    match b.loader.commit with
    | none => b
    | some c =>
      if c.mode = 3 ∧ c.phase = 0 ∧ c.tc.isNone = true ∧ v = true ∧ b.commitReady c.mask = true then
        b.modCommit fun x => { x with tc := some (nextMultiple (b.now + 65536) (2 ^ kmax (b.commitStreams c.mask))) }
      else b
  else b

def execGateSample (high : Bool) (s : State) : Out := act s fun b => b.gateSample high

/-- GATE_WAIT_LIMIT: logged once for a commit. -/
def Chip.gateWaitLimit (b : Chip) : Chip :=
  match b.loader.commit with
  | none => b
  | some c =>
    if c.mode = 3 ∧ c.phase = 0 ∧ c.tc.isNone = true ∧ c.waitLogged = false ∧ b.dev.gateLevel = false ∧
        b.commitReady c.mask = true then
      let b := b.upTo (c.readyAt.getD b.now + b.reg 0x2230 4 * 10 ^ 9)
      (b.modCommit fun x => { x with waitLogged := true }).logEvent
        { code := 0x40C00007, sev := 1, owner := some c.owner }
    else b

def execGateWaitLimit (s : State) : Out := act s Chip.gateWaitLimit

end Sys2Proof.Machine
end

