-- ==== Sys2Proof/Machine/Watchtower.lean ====
section
/-! DEFINITION. Watchtower: readback of the active plane and its repair, the voter and the heartbeat, and patrol scrub of the
on-chip memories (R383 to R394, R408, R487). -/

namespace Sys2Proof.Machine

open Sys2Proof

/-! ### The triplicated registers and the heartbeat (R391, R392) -/

/-- The target of the injections of 0x2DD0 that name no frame. -/
def noFrame : Nat := 2 ^ 32

/-- All three copies disagree: Watchtower stops. -/
def Chip.stopWatch (b : Chip) : Chip := { b with watch := { b.watch with st := 2 } }

/-- One copy was rewritten from the other two. -/
def Chip.voterCorrection (b : Chip) (inj : Bool) : Chip :=
  (b.count 0x2900 0x0B).logEvent { code := 0x40D00003, sev := 2, inj := inj, d0 := b.watch.mismatches }

/-- The majority vote of the pass pointer. -/
def Chip.vote (b : Chip) : Chip :=
  let w := b.watch
  if w.ptr = w.ptr2 ∧ w.ptr = w.ptr3 then b
  else if w.ptr ≠ w.ptr2 ∧ w.ptr ≠ w.ptr3 ∧ w.ptr2 ≠ w.ptr3 then b.stopWatch
  else
    let v := if w.ptr = w.ptr2 then w.ptr else if w.ptr = w.ptr3 then w.ptr else w.ptr2
    let b := { b with watch := { w with ptr := v, ptr2 := v, ptr3 := v } }
    let inj := b.isArmed 0x2DD0 6 noFrame
    let b := if inj then b.applyArmed 0x2DD0 6 noFrame 0x40D00003 else b
    b.voterCorrection inj

/-- VOTER_MISMATCH: a register disagrees in one copy, or in all. -/
def Chip.voterMismatch (b : Chip) (all : Bool) : Chip :=
  if all then b.stopWatch
  else if b.watch.ptr = b.watch.ptr2 ∧ b.watch.ptr = b.watch.ptr3 then b.voterCorrection false
  else b.vote

def execVoterMismatch (all : Bool) (s : State) : Out := act s fun b => b.voterMismatch all

/-- HEARTBEAT_MISSED: a chip-level fault, unless a self-test has paused Watchtower. -/
def Chip.heartbeatMissed (b : Chip) : Chip :=
  if b.watch.st = 1 then b
  else
    let inj := b.watch.withheld
    let b := { b with watch := { b.watch with withheld := false } }
    b.chipFault { code := 0x40D00001, sev := 5, inj := inj, d0 := b.watch.mismatches }

def execHeartbeatMissed (s : State) : Out := act s Chip.heartbeatMissed

/-! ### Frames (R384 to R390) -/

/-- Bits that two frames do not share, ascending. -/
def frameDiff (x y : BitVec 2048) : List Nat := bitsOf (x ^^^ y).toNat 2048

/-- First and second bit of a detail, 0xFFFF for none (R481). -/
def bitPair (l : List Nat) : Nat := l.getD 0 0xFFFF + l.getD 1 0xFFFF * 65536

def Chip.activeFrame (b : Chip) (n : Nat) : BitVec 2048 := runGet b.loader.active n
def Chip.twinFrame (b : Chip) (n : Nat) : BitVec 2048 := runGet b.loader.staging n
def Chip.refFrame (b : Chip) (n : Nat) : BitVec 2048 := runGet b.loader.activeRef n

/-- The bits of a frame change. -/
def flipAll (f : BitVec 2048) (l : List Nat) : BitVec 2048 := l.foldl flipBit f

/-- The active frame matches its CRC. -/
def Chip.crcMatches (b : Chip) (n : Nat) : Bool := sameCrc (b.activeFrame n) (b.refFrame n)

/-- Active latches of a frame take a value; a stuck bit keeps the value it holds (R408). -/
def Chip.writeActive (b : Chip) (n : Nat) (f : BitVec 2048) : Chip :=
  let f := match b.watch.stuck.find? fun x => x.1 == n with
    | some x => if f.getLsbD x.2 = (b.activeFrame n).getLsbD x.2 then f else flipBit f x.2
    | none => f
  { b with loader := { b.loader with active := runPut b.loader.active n 1 f } }

def Chip.writeTwin (b : Chip) (n : Nat) (f : BitVec 2048) : Chip :=
  { b with loader := { b.loader with staging := runPut b.loader.staging n 1 f } }

def Chip.writeRef (b : Chip) (n : Nat) (f : BitVec 2048) : Chip :=
  { b with loader := { b.loader with activeRef := runPut b.loader.activeRef n 1 f } }

/-- The region's twin is valid (R353). -/
def Chip.twinValid (b : Chip) (n : Nat) : Bool := !b.loader.twinInvalid.getLsbD (n / regionFrames)

/-- An injection has changed the frame or its CRC and is not yet detected. -/
def Chip.frameArmed (b : Chip) (n : Nat) : Bool :=
  b.inject.armed.any fun a => (a.obj == 0x2DD0 || a.obj == 0x2DD1) && a.target == n

/-- The injections of a frame are applied, with the code of their detection. -/
def Chip.applyFrame (b : Chip) (n ev : Nat) : Chip := (b.applyAt 0x2DD0 n ev).applyAt 0x2DD1 n ev

/-- An entry of Watchtower for a frame (R407, R481). Before the frame's first clean readback the ticks count from the region's release
edge on its running island clock (DESIGN CHOICE, log entry 151). -/
def Chip.frameEv (b : Chip) (n level code sev : Nat) (diff : List Nat) : Ev :=
  let r := n / regionFrames
  let since := match b.watch.clean.find? fun x => x.1 == n with
    | some x => b.now - x.2
    | none => b.now - b.isleTick r (b.region r).released
  b.regionEv r (evCode level 13 r code) sev (b.frameArmed n) (frameAddr n) (bitPair diff) (since % 2 ^ 32)

/-- The frame was read clean. -/
def Chip.frameClean (b : Chip) (n : Nat) : Chip :=
  { b with watch := { b.watch with clean := Tab.set b.watch.clean n b.now } }

/-- A frame is unrepairable, with code 1 where a repair did not hold and code 2 otherwise (R386, R387): the region is fenced
and needs a reload. A frame already found so is not detected again. -/
def Chip.unrepairable (b : Chip) (n code : Nat) (diff : List Nat) : Chip :=
  if b.watch.bad.contains n then b
  else
    let r := n / regionFrames
    let e := b.frameEv n 3 code 4 diff
    let b := { b with watch := { b.watch with bad := n :: b.watch.bad } }
    let b := if b.reg 0x2900 0x0C = 0 then b.setReg 0x2900 0x0D (frameAddr n) else b
    let b := (b.count 0x2900 8).setReg 0x2900 0x0C (setBit (b.reg 0x2900 0x0C) r)
    (b.fence r e).applyFrame n e.code

/-- A repair is recorded and the frame read again at once. -/
def Chip.repaired (b : Chip) (n code : Nat) (diff : List Nat) : Chip :=
  let b := b.count 0x2900 (4 + code)
  let b := (b.setReg 0x2900 9 (frameAddr n)).setReg 0x2900 0x0A b.now
  if b.crcMatches n then
    let e := b.frameEv n 1 code 2 diff
    let b := (b.logEvent e).applyFrame n e.code
    { b with watch := { b.watch with repaired := Tab.set b.watch.repaired n (b.reg 0x2900 2) } }.frameClean n
  else b.unrepairable n 1 diff

/-- The methods of R385: the twin, where its frame has the same CRC, then the bits that the syndrome locates. -/
def Chip.repairFrame (b : Chip) (n : Nat) : Chip :=
  let f := b.activeFrame n
  let ref := b.refFrame n
  if b.twinValid n && sameCrc (b.twinFrame n) ref then
    (b.writeActive n (b.twinFrame n)).repaired n 1 (frameDiff f (b.twinFrame n))
  else
    match locateBits f ref with
    | some l =>
      let b := b.writeActive n (flipAll f l)
      let b := if b.twinValid n then
          ((b.writeTwin n (b.activeFrame n)).dropStaged fun s => s.regionMask.getLsbD (n / regionFrames)).count 0x2900 7
        else b
      b.repaired n 2 l
    | none => b.unrepairable n 2 (frameDiff f ref)

/-- A frame mismatches: a repair within the last 4 passes has not held (R386); the 65th of a pass raises the alarm (R388). -/
def Chip.frameMismatch (b : Chip) (n : Nat) : Chip :=
  let inj := b.frameArmed n
  let b := { b with watch := { b.watch with mismatches := b.watch.mismatches + 1 } }
  let again : Bool := b.watch.repaired.any fun (x : Nat × Nat) => x.1 == n && decide (b.reg 0x2900 2 ≤ x.2 + 4)
  let b := if b.watch.bad.contains n then b
    else if again then b.unrepairable n 1 (frameDiff (b.activeFrame n) (b.refFrame n))
    else b.repairFrame n
  if b.watch.mismatches = 65 then b.chipFault { code := 0x40D00002, sev := 5, inj := inj, d0 := 65 } else b

/-- An injected error of the frame's stored CRC, if one is armed (R487). -/
def Chip.crcInjected (b : Chip) (n : Nat) : Option Bool :=
  if b.isArmed 0x2DD1 2 n then some true else if b.isArmed 0x2DD1 1 n then some false else none

/-- The stored CRC cannot be corrected (R390): where the active frame equals a valid twin the CRC is recomputed. -/
def Chip.crcLost (b : Chip) (n : Nat) : Chip :=
  if b.twinValid n = true ∧ b.twinFrame n = b.activeFrame n then
    ((b.writeRef n (b.activeFrame n)).applyAt 0x2DD1 n (b.reg 0x2DFF 4)).frameClean n
  else b.unrepairable n 2 []

/-- A frame is compared with its CRC. -/
def Chip.compareFrame (b : Chip) (n : Nat) : Chip :=
  if b.crcMatches n then b.frameClean n else b.frameMismatch n

/-- The CRC of a frame is read, and the frame compared. A corrected CRC has no event: the code of the last injected
detection stays. -/
def Chip.checkFrame (b : Chip) (n : Nat) (crc : EccOutcome) : Chip :=
  match b.crcInjected n with
  | some true => b.crcLost n
  | some false => ((b.applyArmed 0x2DD1 1 n (b.reg 0x2DFF 4)).count 0x2900 0x0B).compareFrame n
  | none =>
    match crc with
    | .clean => b.compareFrame n
    | .single _ => (b.count 0x2900 0x0B).compareFrame n
    | .uncorrectable _ => b.crcLost n

/-- Watchtower leaves the regions of a commit alone from t_c - 64 to the release edge (R389). -/
def Chip.inCommit (b : Chip) (r : Nat) : Bool :=
  match b.loader.commit with
  | some c => c.phase != 0 && (c.regions ||| c.removed).getLsbD r
  | none => false

/-- The bits that an injection flips: free values, the n of them distinct (R408). -/
def injectedBits (epoch n : Nat) : List Nat :=
  let x := Config.injectedBit epoch 0
  ([x, x + 1 + Config.injectedBit epoch 1 % 1000, x + 1001 + Config.injectedBit epoch 2 % 1000].map (· % 2048)).take n

/-- The flips of codes 1 to 4 of 0x2DD0 in the target frame (R408). -/
def Chip.flipFrame (b : Chip) (code n : Nat) : Chip :=
  let l := injectedBits b.free (if code = 2 ∨ code = 3 then 3 else 1)
  let b := b.tookFree
  let b := b.writeActive n (flipAll (b.activeFrame n) l)
  let b := if code = 3 then
      let l := injectedBits b.free 3
      (b.tookFree).writeTwin n (flipAll (b.twinFrame n) l)
    else b
  if code = 4 then { b with watch := { b.watch with stuck := Tab.set b.watch.stuck n (l.headD 0) } } else b

/-- An injection armed for a frame that a commit has rewritten applies to its new configuration (R488). -/
def Chip.reflip (b : Chip) (n : Nat) : Chip :=
  if b.activeFrame n ≠ b.refFrame n then b
  else
    match b.inject.armed.find? fun a => a.obj == 0x2DD0 && a.target == n && a.code != 4 with
    | some a => b.flipFrame a.code n
    | none => b

/-- FRAME_CHECK: the frame at the pass pointer, with the bits that have changed in its active latches and in its twin, and
what the CRC store finds. A frame of a region without committed configuration keeps its slot idle. -/
def Chip.frameCheck (b : Chip) (flips twinFlips : List Nat) (crc : EccOutcome) : Chip :=
  let b := b.vote
  if b.watch.st ≠ 0 then b
  else
    let n := b.watch.ptr
    let r := n / regionFrames
    let m := (n + 1) % (32 * regionFrames)
    let b := { b with watch := { b.watch with ptr := m, ptr2 := m, ptr3 := m } }
    let b := if flips = [] then b else b.writeActive n (flipAll (b.activeFrame n) flips)
    let b := if twinFlips = [] then b else b.writeTwin n (flipAll (b.twinFrame n) twinFlips)
    if (b.regionPart r).isNone || b.inCommit r then b
    else ({ b with watch := { b.watch with checked := b.watch.checked + 1 } }.reflip n).checkFrame n crc

def execFrameCheck (flips twinFlips : List Nat) (crc : EccOutcome) (s : State) : Out :=
  act s fun b => b.frameCheck flips twinFlips crc

/-- PASS_END: the pass counts, and a heartbeat goes to Lantern unless an injection withholds it. -/
def Chip.passEnd (b : Chip) (us : Nat) : Chip :=
  if b.watch.st ≠ 0 then b
  else
    let b := ((b.count 0x2900 2).setReg 0x2900 3 us).setReg 0x2900 4 b.watch.checked
    let b := { b with watch := { b.watch with ptr := 0, ptr2 := 0, ptr3 := 0, mismatches := 0, checked := 0 } }
    if b.isArmed 0x2DD0 5 noFrame then
      let b := b.applyArmed 0x2DD0 5 noFrame 0x40D00001
      { b with watch := { b.watch with withheld := true } }
    else b

def execPassEnd (us : Nat) (s : State) : Out := act s fun b => b.passEnd us

/-! ### Rebuilding a twin (R353, R389) -/

/-- Frame numbers from lo to hi at which a run of a plane begins or ends. -/
def runEdges (l : List FrameRun) (lo hi : Nat) : List Nat :=
  (l.flatMap fun x => [x.first, x.first + x.count]).filter fun n => decide (lo < n) && decide (n < hi)

/-- A number put into a rising list. -/
def insertUp (n : Nat) : List Nat → List Nat
  | [] => [n]
  | a :: t => if n < a then n :: a :: t else if n = a then a :: t else a :: insertUp n t

/-- Frames between consecutive edges that two planes do not share. -/
def diffBetween (x y : List FrameRun) : List Nat → List Nat
  | a :: c :: t =>
    (if runGet x a = runGet y a then [] else (List.range (c - a)).map (a + ·)) ++ diffBetween x y (c :: t)
  | _ => []

/-- Frames from lo to hi (exclusive) that two planes do not share. -/
def planeDiff (x y : List FrameRun) (lo hi : Nat) : List Nat :=
  diffBetween x y ((runEdges x lo hi ++ runEdges y lo hi).foldl (fun l n => insertUp n l) [lo, hi])

/-- TWIN_REBUILD_END: each active frame is checked before it is copied, with the twin still invalid; then the staging plane of
the region equals its active plane again. -/
def Chip.rebuildEnd (b : Chip) (r : Nat) : Chip :=
  if b.loader.rebuilding.getLsbD r then
    let l := planeDiff b.loader.active b.loader.activeRef (r * regionFrames) ((r + 1) * regionFrames)
    let b := if (b.regionPart r).isSome then b.forEach l fun b n => if b.crcMatches n then b else b.frameMismatch n else b
    { b with loader := { b.loader with
        staging := copyRegion b.loader.staging b.loader.active r
        stagingRef := copyRegion b.loader.stagingRef b.loader.activeRef r
        rebuilding := b.loader.rebuilding &&& ~~~(1#32 <<< r)
        twinInvalid := b.loader.twinInvalid &&& ~~~(1#32 <<< r) } }
  else b

def execTwinRebuildEnd (r : Nat) (s : State) : Out := act s fun b => b.rebuildEnd r

/-! ### Patrol scrub of on-chip memories (R393, R394) -/

/-- The bits that an access finds wrong in a word of code words of c bits: one, or two of one code word for an error that the
code cannot correct. -/
def foundFlips (w c : Nat) (e : EccOutcome) : BitVec w :=
  match e with
  | .clean => 0#w
  | .single n => 1#w <<< (n % w)
  | .uncorrectable n => (1#w <<< (n % w)) ||| (1#w <<< (n % w / c * c + (n % w + 1) % c))

/-- A block memory word is read in a maintenance cycle; a corrected word is written back (R162, R168). -/
def Chip.scrubBm (b : Chip) (m : BmSel) (addr : Nat) (e : EccOutcome) : Chip :=
  let k := bmWordKey m addr
  if !b.bmMaintenance m || b.bmBypass k then b
  else
    let held := b.mem.demandBm
    let f := b.bmFlips k
    let b := if e = .clean then b
      else { b with mem := { b.mem with bmErr := Tab.set b.mem.bmErr k (f.1 ||| foundFlips 40 40 e, f.2) } }
    let found := b.bmFound k
    let b := (b.bmRead k 2).1
    let b := match found with
      | .single _ => b.bmMaintWrite m k fun b => b.bmRepair k
      | _ => b.bmMaint m k .read id
    { b with mem := { b.mem with demandBm := held } }

/-- A scratchpad word. -/
def Chip.scrubSp (b : Chip) (r bank addr : Nat) (e : EccOutcome) : Chip :=
  let k := spWordKey r (addr % 4096 * 16 + bank)
  if !b.spMaintenance r bank then b
  else
    let held := b.mem.demandSp
    let f := b.spFlips k
    let b := if e = .clean then b
      else { b with mem := { b.mem with spErr := Tab.set b.mem.spErr k (f.1 ||| foundFlips 288 72 e, f.2) } }
    let b := ((b.spRead k 2).1.spRepair k).spMaint r bank
    { b with mem := { b.mem with demandSp := held } }

/-- A word of a group memory (R230). -/
def Chip.scrubGroup (b : Chip) (g : Grp) (space addr : Nat) (e : EccOutcome) : Chip :=
  let b := b.settleGroup g
  if !b.gmMaintenance g space then b
  else
    let i := addr % gmSize space
    let k := gmKey g space i
    let held := b.slices.demand
    let x := b.gmErr g space i
    let n := match e with | .clean => 0 | .single _ => 1 | .uncorrectable _ => 2
    let b := if n = 0 then b
      else { b with slices := { b.slices with err := Tab.set b.slices.err k (max x.1 n, x.2) } }
    let b := ((b.gmMeet g space i 0xFF).1.gmRepair g space i).gmMaint g space
    { b with slices := { b.slices with demand := held } }

/-- The last word of the sweep, in the order of regions, blocks, memories and words (log entry 30). -/
def lastScrubbed (u : MemUnit) (addr : Nat) : Bool :=
  match u with
  | .ds r blk => r == 31 && blk == 63 && addr == 4095
  | _ => false

/-- ON_CHIP_SCRUB_ACCESS: a self-test keeps scrub from the memories that it holds. -/
def Chip.scrub (b : Chip) (u : MemUnit) (addr : Nat) (e : EccOutcome) : Chip :=
  if b.testHoldsAll || b.underTest u then b
  else
    let last := lastScrubbed u addr && (b.settleGroup ⟨31, 63⟩).gmMaintenance ⟨31, 63⟩ 2
    let b := match u with
      | .bm m => b.scrubBm m addr e
      | .spBank r k => b.scrubSp r k addr e
      | .im r blk => b.scrubGroup ⟨r, blk⟩ 0 addr e
      | .cm r blk => b.scrubGroup ⟨r, blk⟩ 1 addr e
      | .ds r blk => b.scrubGroup ⟨r, blk⟩ 2 addr e
    if last then b.count 0x2910 4 else b

def execOnChipScrubAccess (u : MemUnit) (addr : Nat) (err : EccOutcome) (t : Nat) (s : State) : Out :=
  act s fun b => (b.upTo t).scrub u addr err

/-- SCRUB_PERIOD_END: a starved sweep; the unit is the region, or 0x20 and the channel. -/
def execScrubPeriodEnd (dram : Bool) (unit : Nat) (s : State) : Out :=
  act s fun b => (b.count 0x2910 6).logEvent
    { code := evCode 1 13 (if dram then 0x20 + unit else unit) 4, sev := 1 }

end Sys2Proof.Machine
end

