-- ==== Sys2Proof/Machine/SelfTest.lean ====
section
/-! DEFINITION. The built-in self-test: steps of the power-up and the closing test, on-demand tests, and the acceptance of a
failed power-up test (R395 to R407). -/

namespace Sys2Proof.Machine

open Sys2Proof

/-! ### Failures -/

/-- The kinds that a step of a quarter tests (R395). -/
def stepKinds (step : Nat) : List Nat :=
  match step with
  | 0 => [0, 1]
  | 1 => [7]
  | 2 => [2, 4]
  | 3 => [3, 5]
  | _ => [6]

/-- The entry of 0x2D00:01, where it is set and a test of its unit runs (R408). -/
def Chip.injectedFailure (b : Chip) (tested : BitVec 64 → Bool) : List (BitVec 64) :=
  let e := BitVec.ofNat 64 (b.reg 0x2D00 1)
  if b.inject.enabled && e != 0#64 && tested e then [e] else []

/-- First failure entry across bytes 0 to 7 of a detail (R481). -/
def failureEv (code sev : Nat) (inj : Bool) (l : List (BitVec 64)) : Ev :=
  let e := (l.headD 0#64).toNat
  { code := code, sev := sev, inj := inj, d0 := e % 2 ^ 32, d1 := e / 2 ^ 32 }

/-! ### The power-up test (R396, R397, R399) -/

/-- The result of a completed test. -/
def testResult (l : List (BitVec 64)) (tooMany : Bool) : Nat :=
  if l = [] then 0 else if !tooMany && l.all failsMemory then 1 else 2

/-- Every failing memory is unrepairable for this session (R172, R397). -/
def Chip.markFailing (b : Chip) (l : List (BitVec 64)) : Chip :=
  { b with mem := { b.mem with
      badBm := b.mem.badBm ++ (l.filter fun e => failKind e == 2).map failUnit
      badBank := b.mem.badBank ++ (l.filter fun e => failKind e == 3).map failUnit } }

/-- The record that a completed test leaves in flash. -/
def Chip.testRecord (b : Chip) (kind result : Nat) : TestRecord :=
  let all := b.test.failures ++ b.test.kept
  { kind := kind
    result := result
    index := b.test.index
    patterns := b.test.patterns
    expected := Config.expectedPatterns
    entries := all.take 256
    overflow := b.test.tooMany || decide (256 < all.length)
    seq := b.aon.seq
    sealed := b.aon.seconds
    macOk := true }

/-- The bytes of a record but for its MAC, and the MAC under the Keep's record key (R399). -/
def TestRecord.body (x : TestRecord) : Bytes :=
  toBytes 4 0x4B434F4C ++ toBytes 4 Config.serialNumber.toNat ++ toBytes 4 x.seq ++ toBytes 4 x.sealed ++
    toBytes 1 x.kind ++ toBytes 1 x.result ++ toBytes 1 x.index ++ toBytes 1 0 ++ toBytes 4 x.patterns ++
    toBytes 4 x.expected ++ toBytes 2 x.entries.length ++ toBytes 1 (flag x.overflow 0) ++ toBytes 1 0 ++
    (List.range 256).flatMap fun i => toBytes 8 (x.entries.getD i 0#64).toNat
def TestRecord.mac (x : TestRecord) : Bytes := cmacBlocks Config.recordKey x.body

/-- The record of 2,096 bytes as it stands in flash. -/
def TestRecord.bytes (x : TestRecord) : Bytes := x.body ++ x.mac

/-- What the tests leave in the memories: 0 with valid check bits (R395). -/
def Chip.clearedMemories (b : Chip) : Chip :=
  { b with
    mem := { b.mem with
      bm := []
      sp := []
      bmErr := []
      spErr := []
      demandBm := []
      demandSp := []
      undef := [] }
    slices := { b.slices with im := [], cm := [], ds := [], err := [], demand := [] }
    loader := { b.loader with active := [], activeRef := [], staging := [], stagingRef := [] } }

/-- The power-up test ends with its result, and its record is sealed; Watchtower reads again (R392, R396, R399, R424). -/
def Chip.powerUpEnd (b : Chip) : Chip :=
  let res := testResult b.test.failures b.test.tooMany
  let inj := b.test.injected
  let ev := failureEv (match res with | 0 => 0x41000001 | 1 => 0x41000003 | _ => 0x41000004)
    (if res = 0 then 1 else 3) inj b.test.failures
  let rec' := b.testRecord 2 res
  let b := ((b.clearedMemories).setReg 0x2980 6 (min 256 b.test.failures.length)).keepServed
  let b := { b with
    aon := { b.aon with intact := true, powerLoss := false }
    test := { b.test with st := 3 + res, record := some rec', kept := [] }
    watch := { b.watch with st := 0 } }
  let b := if res = 1 then b.markFailing b.test.failures else b
  let b := if inj then b.injected ev.code else b
  let b := b.logEvent ev
  if res = 2 then b else b.setSelftestOk

/-! ### Steps (R395, R398) -/

/-- The closing test is abandoned: no record is written (R398, R408). -/
def Chip.closingAbandoned (b : Chip) : Chip := b.flushLog.enterStandby false false

/-- A step of the closing test has ended: a quarter whose part ends goes off, and P14 with the whole test (R494). -/
def Chip.closingStep (b : Chip) : Chip :=
  let n := b.test.index
  let cut := b.reg 0x2D00 2
  if b.inject.enabled && cut != 0 && n == cut then b.closingAbandoned
  else
    let b := if n % 5 = 0 then b.powerOff [2 + n / 5] else b
    if n = 40 then { b.powerOff [14] with dev := { b.dev with closingStage := 3 } } else b

/-- SELF_TEST_STEP_END. -/
def Chip.testStep (b : Chip) (l : List (BitVec 64)) (patterns : Nat) : Chip :=
  let up := b.test.st == 1 && b.serving
  let closing := b.dev.st == .closing && b.dev.closingStage == 2
  if up || closing then
    let n := b.test.index
    let more := b.injectedFailure fun e => failRegion e / 4 == n / 5 && (stepKinds (n % 5)).contains (failKind e)
    let all := b.test.failures ++ l ++ more
    let b := { b with test := { b.test with
      index := n + 1
      patterns := b.test.patterns + patterns
      failures := all.take 256
      tooMany := b.test.tooMany || decide (256 < all.length)
      injected := b.test.injected || more != [] } }
    if closing then b.closingStep else if n + 1 = 40 then b.powerUpEnd else b
  else b

def execSelfTestStepEnd (failures : List (BitVec 64)) (patterns : Nat) (s : State) : Out :=
  act s fun b => b.testStep failures patterns

/-- RECORD_SEALED (R398, R399, R424, R494): only a closing test that reached index 40 writes a record. -/
def Chip.recordSealed (b : Chip) : Chip :=
  if b.dev.st = .closing ∧ b.dev.closingStage = 3 ∧ b.test.index = 40 then
    let rec' := b.testRecord 1 (testResult b.test.failures b.test.tooMany)
    let inj := b.test.injected
    let b := if inj then b.injected 0x41000005 else b
    let b := { b with
      test := { b.test with record := some rec' }
      aon := { b.aon with intact := true, powerLoss := false } }
    (b.logEvent (failureEv 0x41000005 1 inj b.test.failures)).flushLog.enterStandby false false
  else b

def execRecordSealed (s : State) : Out := act s Chip.recordSealed

/-! ### On-demand tests (R402, R403, R406) -/

/-- 0x25ii:05 (R152). -/
def Chip.islandState (b : Chip) (r : Nat) : Nat :=
  let g := b.region r
  if !b.powered (regionDomain r) then 0
  else if b.clockState r == .notStarted then 1
  else if g.restartAt.isSome then 5
  else if g.fenced then 4
  else if b.dev.st == .safe then 6
  else if g.halted && decide (b.firstEdge r g.haltedAt ≤ b.now) then 3
  else 2

/-- A protection region is in one of the states 1 to 6 (R287). -/
def Chip.protDefined (b : Chip) : Bool := (List.range 64).any fun rr => (b.prot rr).st != 0

/-- The owner may run an action on a region. -/
def Chip.mayTest (b : Chip) (o action r : Nat) : Bool :=
  match action with
  | 5 => o == 0
  | 4 => o == 0 || o == 6
  | _ => o == 0 || o == 6 || b.ownsRegion o r

/-- The unit that the parameters name exists; a channel must be trained. -/
def Chip.testUnitOk (b : Chip) (action r k : Nat) : Bool :=
  match action with
  | 1 | 3 => decide (r < 32) && decide (k < 64)
  | 2 => decide (r < 32) && decide (k < 16)
  | 4 => decide (r < 8) && ((b.channel r).st == .ready || (b.channel r).st == .idle || (b.channel r).st == .selfRefresh)
  | 5 => true
  | _ => false

/-- Status 3 of actions 1 to 3. -/
def Chip.testRegionBusy (b : Chip) (action r k : Nat) : Bool :=
  let armed := match b.regionPart r with
    | some p => (b.part p).status == .armed
    | none => false
  armed || b.islandState r != 2 || (action == 3 && (b.groupNow ⟨r, k⟩).st != .stop)

/-- The status with which 0x2E29 refuses, or 0; the lowest number among the conditions that hold (R511). -/
def Chip.testRefusal (b : Chip) (o action r k : Nat) : Nat :=
  if !b.mayTest o action r || !b.testUnitOk action r k || (action != 5 && (!b.serving || b.test.st == 1)) then 2
  else if decide (action ≤ 3) && b.testRegionBusy action r k then 3
  else if action == 4 && (b.protDefined || b.windowChannels.contains r || b.hub.st != 2) then 4
  else if action != 5 && b.test.onDemand.isSome then 7
  else if action == 5 && b.test.st != 5 then 8
  else 0

/-- Acceptance (R397): failed regions are excluded and leave every claim. -/
def Chip.acceptResult (b : Chip) (o : Nat) : Chip :=
  let out := b.failedRegions.foldl (fun (m : BitVec 32) r => m ||| (1#32 <<< r)) 0#32
  let b := { b with
    test := { b.test with st := 6, excluded := out }
    parts := Tab.mapIf (fun _ => true) (fun q => { q with claim := q.claim &&& ~~~out }) b.parts }
  ((b.setStatus 0x2E29 o 0).logEvent (failureEv 0x41000009 1 false b.test.failures)).setSelftestOk

/-- The serial of 0x2E29. -/
def Chip.startTest (b : Chip) (o : Nat) : Chip :=
  let action := b.reg 0x2E29 3
  let r := b.reg 0x2E29 4
  let k := b.reg 0x2E29 5
  let st := b.testRefusal o action r k
  if st ≠ 0 then b.setStatus 0x2E29 o st
  else if action = 5 then b.acceptResult o
  else
    let b := { b with test := { b.test with onDemand := some { action := action, r := r, b := k } } }
    let b := if action = 4 then b.modChannel r fun x => { x with underTest := true } else b
    b.beginCmd 0x2E29 o

def execTestBlockMemories (q : Req) (serial r b : Nat) (s : State) : Out :=
  act s fun c => c.commandRow q 0x2E29 serial [(3, 1), (4, r), (5, b)] Chip.startTest

def execTestScratchpadBank (q : Req) (serial r b : Nat) (s : State) : Out :=
  act s fun c => c.commandRow q 0x2E29 serial [(3, 2), (4, r), (5, b)] Chip.startTest

def execTestGroupMemories (q : Req) (serial r b : Nat) (s : State) : Out :=
  act s fun c => c.commandRow q 0x2E29 serial [(3, 3), (4, r), (5, b)] Chip.startTest

def execTestDramChannel (q : Req) (serial c : Nat) (s : State) : Out :=
  act s fun b => b.commandRow q 0x2E29 serial [(3, 4), (4, c)] Chip.startTest

def execAcceptPowerUpResult (q : Req) (serial : Nat) (s : State) : Out :=
  act s fun b => b.commandRow q 0x2E29 serial [(3, 5)] Chip.startTest

/-- A unit holds 0 with valid check bits. -/
def Chip.clearUnit (b : Chip) (u : MemUnit) : Chip :=
  let b := { b with mem := { b.mem with undef := b.mem.undef.filter fun x => x.1 != u } }
  let group := fun (b : Chip) (r blk space : Nat) =>
    { b with slices := { b.slices with
        err := Tab.drop (fun k => k / 2 ^ 32 == space + 1 && k % 2 ^ 32 / 16384 == groupKey r blk) b.slices.err
        demand := Tab.drop (fun k => k == groupKey r blk * 4 + space) b.slices.demand } }
  match u with
  | .bm m =>
    let k := bmKey m.r m.b m.m
    { b with mem := { b.mem with
        bm := Mem.clear b.mem.bm (k * 1024) ((k + 1) * 1024)
        bmErr := Tab.drop (fun x => x / 1024 == k) b.mem.bmErr
        demandBm := Tab.drop (fun x => x == k) b.mem.demandBm } }
  | .spBank r bank =>
    let hit := fun (x : Nat) => x / 65536 == r && x % 16 == bank
    { b with mem := { b.mem with
        sp := Tab.drop hit b.mem.sp
        spErr := Tab.drop hit b.mem.spErr
        demandSp := Tab.drop (fun x => x == bankKey r bank) b.mem.demandSp } }
  | .im r blk =>
    let b := group b r blk 0
    { b with slices := { b.slices with im := Mem.clear b.slices.im (groupKey r blk * 16384) ((groupKey r blk + 1) * 16384) } }
  | .cm r blk =>
    let b := group b r blk 1
    { b with slices := { b.slices with cm := Mem.clear b.slices.cm (groupKey r blk * 16384) ((groupKey r blk + 1) * 16384) } }
  | .ds r blk =>
    let b := group b r blk 2
    { b with slices := { b.slices with ds := Mem.clear b.slices.ds (groupKey r blk * 16384) ((groupKey r blk + 1) * 16384) } }

/-- A failure entry concerns the unit of an on-demand test. -/
def OnDemand.covers (o : OnDemand) (e : BitVec 64) : Bool :=
  match o.action with
  | 1 => failKind e == 2 && failRegion e == o.r && failBlock e == o.b
  | 2 => failKind e == 3 && failRegion e == o.r && failAddress e % 16 == o.b
  | 3 => failKind e == 4 && failRegion e == o.r && failBlock e == o.b
  | _ => false

/-- ON_DEMAND_TEST_END. -/
def Chip.onDemandEnd (b : Chip) (l : List (BitVec 64)) (us : Nat) : Chip :=
  match b.test.onDemand with
  | none => b
  | some o =>
    let more := b.injectedFailure o.covers
    let all := l ++ more
    let unit := if o.action = 4 then 0x20 + o.r else o.r
    let ev := failureEv (evCode 4 16 unit (if all = [] then 7 else 8)) (if all = [] then 1 else 3) (more != []) all
    let b := { b with test := { b.test with onDemand := none, kept := b.test.kept ++ all.filter failsMemory } }
    let b := b.forEach (List.range o.units.length) fun b i => b.clearUnit (o.units.getD i (.im 0 0))
    let b := if o.action = 4 then
        let b := b.modChannel o.r fun x => { x with underTest := false }
        let b := { b with hub := { b.hub with badLines := b.hub.badLines.filter fun x => b.hubChannel (x * 64) != o.r } }
        b.fillRange 0 b.hub.capacity (some o.r) true
      else b
    let b := ((b.setReg 0x2982 1 (o.action * 2 ^ 24 + o.r * 2 ^ 16 + o.b)).setReg 0x2982 2 all.length).setReg 0x2982 3
      (all.headD 0#64).toNat
    let b := (b.setReg 0x2982 4 us).endCmd 0x2E29 (if all = [] then 0 else 5)
    let b := if more = [] then b else b.injected ev.code
    b.logEvent ev

def execOnDemandTestEnd (failures : List (BitVec 64)) (us : Nat) (s : State) : Out :=
  act s fun b => b.onDemandEnd failures us

end Sys2Proof.Machine
end

