-- ==== Sys2Proof/Machine/Lantern.lean ====
section
/-! DEFINITION. Lantern (ch. 15): firmware and boot stream writes, the sensors, the watchdog and the SRAM, the log, and the
stream keys of the Keep (R409 to R438). -/

namespace Sys2Proof.Machine

open Sys2Proof

/-! ### Flash operations (R417 to R419) -/

/-- The running image is confirmed (R418). -/
def Chip.imageConfirmed (b : Chip) : Bool := b.lantern.confirmed == some b.lantern.runB

/-- The loader reads the octal flash (0x2200:02 is 6). -/
def Chip.loaderOnFlash (b : Chip) : Bool :=
  let hit := fun (l : Load) => l.source == 6
  (match b.loader.load with | some l => hit l | none => false) || b.loader.next.any hit

/-- Actions 4 and 5 write a boot stream. -/
def bootAction (a : Nat) : Bool := a == 4 || a == 5

/-- The owner lacks the right that an action needs, or the command does not come through a PCIe mailbox (R419). -/
def Chip.flashNoRight (b : Chip) (o a : Nat) : Bool :=
  match a with
  | 1 => !b.hasControl o || !(decide (1 ≤ o) && decide (o ≤ 4))
  | 2 => !b.hasControl o
  | 3 => o != 0
  | 4 | 5 => !b.hasStream o || !(decide (1 ≤ o) && decide (o ≤ 4))
  | _ => true

/-- Action 2: the running image is confirmed, and the next BOOT starts it with no trial (R418). -/
def Chip.confirm (b : Chip) : Chip :=
  let l := b.lantern
  let pend := if l.pendingSlot = some l.runB then none else l.pendingSlot
  { b with lantern := { l with confirmed := some l.runB, pendingSlot := pend, trial := false } }.logEvent
    { code := 0x40E00015, sev := 1 }

/-- Action 3: fuses burn until the rollback count equals the running image's index; they cannot be cleared (R418). -/
def Chip.burnRollback (b : Chip) : Chip :=
  { b with lantern := { b.lantern with rollback := max b.lantern.rollback b.runningSlot.rollback } }.logEvent
    { code := 0x40E00016, sev := 1 }

/-- The serial of 0x2E2A; the lowest status of the conditions that hold (R511). -/
def Chip.startFlash (b : Chip) (o : Nat) : Chip :=
  let a := b.reg 0x2E2A 3
  if b.flashNoRight o a then b.setStatus 0x2E2A o 2
  else if (a == 2 && b.imageConfirmed) || ((a == 1 || a == 3) && !b.imageConfirmed) then b.setStatus 0x2E2A o 3
  else if b.lantern.op.isSome || (bootAction a && b.loaderOnFlash) then b.setStatus 0x2E2A o 7
  else if a = 2 then b.confirm.setStatus 0x2E2A o 0
  else if a = 3 then b.burnRollback.setStatus 0x2E2A o 0
  else { b.beginCmd 0x2E2A o with lantern := { b.lantern with op := some { action := a, owner := o, foe := false } } }

def execFlashWriteImage (q : Req) (serial addr entries : Nat) (s : State) : Out :=
  act s fun b => b.commandRow q 0x2E2A serial [(3, 1), (4, addr), (5, entries)] Chip.startFlash

def execConfirmImage (q : Req) (serial : Nat) (s : State) : Out :=
  act s fun b => b.commandRow q 0x2E2A serial [(3, 2)] Chip.startFlash

def execAdvanceRollback (q : Req) (serial : Nat) (s : State) : Out :=
  act s fun b => b.commandRow q 0x2E2A serial [(3, 3)] Chip.startFlash

def execWriteBootStreamEntry0 (q : Req) (serial addr entries : Nat) (s : State) : Out :=
  act s fun b => b.commandRow q 0x2E2A serial [(3, 4), (4, addr), (5, entries)] Chip.startFlash

def execWriteBootStreamEntry1 (q : Req) (serial addr entries : Nat) (s : State) : Out :=
  act s fun b => b.commandRow q 0x2E2A serial [(3, 5), (4, addr), (5, entries)] Chip.startFlash

/-- The slot that an image is written into: the one that is not running; in recovery slot A (R416, R417). -/
def Chip.targetSlot (b : Chip) : Bool := if b.dev.recovery then false else !b.lantern.runB

/-- A firmware slot takes a content. -/
def Lantern.setSlot (l : Lantern) (isB : Bool) (x : Slot) : Lantern :=
  if isB then { l with slotB := x } else { l with slotA := x }

/-- An image that fails leaves the slot invalid and nothing pending; in recovery it leaves slot A invalid (R416, R417). -/
def Chip.imageFailed (b : Chip) : Chip :=
  let l := b.lantern.setSlot b.targetSlot {}
  { b with lantern := if b.dev.recovery then l else { l with pendingSlot := none } }

/-- A valid image becomes the pending slot; in recovery the ROM restarts at slot selection (R416, R417). -/
def Chip.imageWritten (b : Chip) (x : Slot) : Chip :=
  let t := b.targetSlot
  let l := b.lantern.setSlot t x
  if b.dev.recovery then { b with lantern := l, dev := { b.dev with recovery := false } }
  else
    { b with lantern := { l with pendingSlot := some t, trial := false } }.logEvent { code := 0x40E00014, sev := 1 }

/-- The directory entry is rewritten (R356, R419). -/
def Chip.bootWritten (b : Chip) (a len : Nat) : Chip :=
  let l := b.loader
  { b with loader := if a = 4 then { l with dir0 := len } else { l with dir1 := len } }.logEvent
    { code := 0x40E0001A, sev := 1 }

/-- The status with which an operation ends, and its effect. -/
def Chip.flashResult (b : Chip) (a : Nat) (out : FlashOutcome) : Chip × Nat :=
  let fail := fun (b : Chip) => if bootAction a then b else b.imageFailed
  match out with
  | .valid version rollback length policy =>
    if bootAction a then (b.bootWritten a length, 0)
    else if b.lantern.rollback ≤ rollback ∧ rollback ≤ 64 then
      (b.imageWritten { version := version, rollback := rollback, valid := true, policy := policy }, 0)
    else (b.imageFailed, 4)
  | .invalid => (fail b, 4)
  | .cutShort => (fail b, 5)
  | .flashError => (fail b, 6)

/-- FLASH_OPERATION_END (R416, R417, R419): the command ends with its status, and an FoE write with an ACK or 0x8000. -/
def Chip.flashEnd (b : Chip) (out : FlashOutcome) : Chip :=
  match b.lantern.op with
  | none => b
  | some op =>
    let (b, st) := { b with lantern := { b.lantern with op := none } }.flashResult op.action out
    if op.foe then { b with ecat := { b.ecat with foe := 0, foeReply := if st = 0 then 0 else 0x8000 } }
    else b.endCmd 0x2E2A st

def execFlashOperationEnd (out : FlashOutcome) (s : State) : Out := act s fun b => b.flashEnd out

/-! ### Sensors (R421, R422) -/

/-- A sensor has failed: it is marked and excluded; the fourth is a chip-level thermal fault (R422, R482). -/
def Chip.sensorFails (b : Chip) (n : Nat) (inj : Bool) : Chip :=
  let l := b.lantern
  let b := { b with lantern := { l with
    failed := l.failed ||| (1#64 <<< n)
    warm := l.warm &&& ~~~(1#64 <<< n)
    hotRuns := Tab.drop (fun k => k == n) l.hotRuns
    injSensors := if inj then l.injSensors ||| (1#64 <<< n) else l.injSensors } }
  let b := if inj then b.applyArmed 0x2DE0 1 n (evCode 4 14 n 4) else b
  let b := b.logEvent { code := evCode 4 14 n 4, sev := 3, inj := inj }
  if (bitsOf b.lantern.failed.toNat 40).length = 4 then
    b.chipFault { code := evCode 4 14 n 3, sev := 5, inj := b.lantern.injSensors != 0#64 }
  else b

/-- The temperature that a sensor reports (R438): nothing where its failure is injected, the override where it is the
target, with whether the reading is injected. -/
def Chip.sensorReading (b : Chip) (n : Nat) (reading : Option Int) : Option Int × Bool :=
  if b.isArmed 0x2DE0 1 n then (none, true)
  else if b.reg 0x2DE0 1 = n ∧ b.reg 0x2DE0 2 ≠ 0x7FFF then (some (signed 16 (b.reg 0x2DE0 2)), true)
  else (reading, false)

/-- A valid reading: highest reading, warning, and two consecutive readings at or above the fault threshold. -/
def Chip.sensorRead (b : Chip) (n : Nat) (v : Int) (inj : Bool) : Chip :=
  let l := b.lantern
  let run := if 420 ≤ v then Tab.get 0 l.hotRuns n + 1 else 0
  let b := { b with lantern := { l with
    temps := Tab.set l.temps n v
    highest := some (match l.highest with | some h => max h v | none => v)
    invalid := Tab.drop (fun k => k == n) l.invalid
    hotRuns := if run = 0 then Tab.drop (fun k => k == n) l.hotRuns else Tab.set l.hotRuns n run } }
  let d0 := rawInt 32 v
  let b :=
    if signed 16 (b.reg 0x2A00 1) ≤ v ∧ l.warm.getLsbD n = false then
      let b := { b with lantern := { b.lantern with warm := b.lantern.warm ||| (1#64 <<< n) } }
      let b := if inj then b.injected (evCode 4 14 n 1) else b
      b.logEvent { code := evCode 4 14 n 1, sev := 3, inj := inj, d0 := d0 }
    else if v < signed 16 (b.reg 0x2A00 1) - signed 16 (b.reg 0x2A00 2) then
      { b with lantern := { b.lantern with warm := b.lantern.warm &&& ~~~(1#64 <<< n) } }
    else b
  if run = 2 then
    let b := if inj then b.injected (evCode 4 14 n 3) else b
    b.chipFault { code := evCode 4 14 n 3, sev := 5, inj := inj, d0 := d0 }
  else b

/-- One sensor of a sample (R422); a failed sensor is excluded. -/
def Chip.sensorOne (b : Chip) (n : Nat) (reading : Option Int) : Chip :=
  if b.lantern.failed.getLsbD n then b
  else
    match b.sensorReading n reading with
    | (some v, inj) => b.sensorRead n v inj
    | (none, inj) =>
      let k := Tab.get 0 b.lantern.invalid n + 1
      let b := { b with lantern := { b.lantern with invalid := Tab.set b.lantern.invalid n k } }
      if 10 ≤ k then b.sensorFails n inj else b

/-- The last sensor that was warm before a sample and is not after it. -/
def lastCooled (old new : BitVec 64) : Nat :=
  ((bitsOf (old &&& ~~~new).toNat 40).getLast?).getD 0

/-- SENSOR_SAMPLE (R421, R422): the warning holds from the first sensor at the threshold until every sensor has fallen below
it by the hysteresis. -/
def Chip.sensorSample (b : Chip) (readings : List (Option Int)) : Chip :=
  if !b.powered 1 then b
  else
    let old := b.lantern.warm
    let b := b.forEach (List.range 40) fun b n => b.sensorOne n (readings.getD n none)
    let n := lastCooled old b.lantern.warm
    let cleared := b.lantern.warning && b.lantern.warm == 0#64
    let b := { b with lantern := { b.lantern with warning := b.lantern.warm != 0#64 } }
    if cleared then b.logEvent { code := evCode 4 14 n 2, sev := 1, d0 := rawInt 32 (Tab.get 0 b.lantern.temps n) } else b

def execSensorSample (readings : List (Option Int)) (t : Nat) (s : State) : Out :=
  act s fun b => (b.upTo t).sensorSample readings

/-! ### Watchdog and SRAM (R410, R429 to R431) -/

/-- An expiry: Lantern's core is reset, and outside BOOT it is a chip-level fault (R415, R430). -/
def Chip.expire (b : Chip) (code : Nat) (inj : Bool) : Chip :=
  let b := { b with
    aon := { b.aon with expiries := sat32 (b.aon.expiries + 1) }
    lantern := { b.lantern with
      running := false
      wdogSeen := true
      inMonitor := false
      resumeReq := false
      reservation := none
      kickHalf := false } }
  let b := if inj then b.injected code else b
  if b.dev.st = .boot then
    { b with
      dev := { b.dev with recovery := false }
      lantern := { b.lantern with remaining := 2000, reloadAt := b.now } }
  else b.chipFault { code := code, sev := 5, inj := inj }

/-- The watchdog counts at tick t: it is not held, or the hold came in the C39 cycle of t, 40 ticks long, in which an expiry wins
(R17, R431). -/
def Chip.watchdogCounts (b : Chip) (t : Nat) : Bool := !b.lantern.held || b.lantern.heldAt.any fun n => t / 40 == n / 40

/-- WATCHDOG_EXPIRY (R430, R431): while the watchdog is held its counter stands. -/
def execWatchdogExpiry (t : Nat) (s : State) : Out :=
  act s fun b => if b.powered 1 && b.watchdogCounts t then (b.upTo t).expire 0x40E00010 false else b

/-- A single-bit error of the SRAM is corrected, written back and counted (R410). -/
def Chip.sramCorrect (b : Chip) (inj : Bool) : Chip :=
  let b := { b with lantern := { b.lantern with sramCorrected := true } }.count 0x2002 7
  let b := if inj then b.injected 0x40E00012 else b
  b.logEvent { code := 0x40E00012, sev := 2, inj := inj }

def execSramError (uncorrectable : Bool) (t : Nat) (s : State) : Out :=
  act s fun b =>
    if !b.powered 1 then b
    else if uncorrectable then (b.upTo t).expire 0x40E00011 false
    else (b.upTo t).sramCorrect false

/-- WATCHDOG_KICK (R429, R431): 0x0000_A5C3 and then 0x0000_3C5A reload the counter; while the watchdog is held a kick has
no effect. -/
def Chip.kick (b : Chip) (v : BitVec 32) : Chip :=
  if !b.lantern.running then b
  else if v = 0xA5C3#32 then { b with lantern := { b.lantern with kickHalf := true } }
  else if v = 0x3C5A#32 then
    let half := b.lantern.kickHalf
    let b := { b with lantern := { b.lantern with kickHalf := false } }
    if half && !b.lantern.held then b.reloadWatchdog else b
  else b.expire 0x40E00010 false

def execWatchdogKick (v : BitVec 32) (s : State) : Out := act s fun b => b.kick v

/-- WATCHDOG_TIMEOUT_WRITE (R429). -/
def execWatchdogTimeoutWrite (q : Req) (v : Nat) (s : State) : Out :=
  act s fun b => b.writeRow q 0x2030 1 v fun b => .ok (b.setReg 0x2030 1 v).reloadWatchdog

/-- Milliseconds left of the watchdog's timeout (R429, R431). -/
def Chip.watchdogLeft (b : Chip) : Nat :=
  if b.lantern.held then b.lantern.remaining else b.lantern.remaining - (b.now - b.lantern.reloadAt) / 1000000

/-! ### The log and the health word (R424 to R428) -/

/-- LOG_RING_WRITE (R426, R450): the ring writer is part of the image, at level 6. -/
def execLogRingWrite (n : Nat) (s : State) : Out :=
  act s fun b => if b.lanternServes then { b with log := b.log.writeOut n } else b

/-- The entries held in the ring or the buffer, in sequence order: those of the buffer not yet written follow the ring. -/
def Log.held (l : Log) : List LogEntry :=
  let old := l.recent.take (l.recent.length - l.pending)
  let ring := l.ring.filter fun e => !(old.any fun x => x.seq == e.seq)
  ring ++ l.recent

/-- Whether a sequence number is at or after another (R426: 32 bits, running on). -/
def seqAfter (n start : Nat) : Bool := decide ((n + 2 ^ 32 - start) % 2 ^ 32 < 2 ^ 31)

/-- The 32 bytes of an entry (R477, R478). -/
def LogEntry.bytes (e : LogEntry) : Bytes :=
  toBytes 4 e.seq ++ toBytes 4 e.code ++ toBytes 8 e.tick ++ toBytes 1 (e.sev + flag e.injected 7) ++ toBytes 1 e.flags ++
    toBytes 1 e.dev ++ toBytes 1 e.owner ++ toBytes 4 e.d0 ++ toBytes 4 e.d1 ++ toBytes 4 e.d2

/-- The read sequence of a path (R428). -/
def Chip.logStart (b : Chip) (o : Nat) : Nat := Tab.get 0 b.dict.logSeq o

/-- The read count of a path. -/
def Chip.logCount (b : Chip) (o : Nat) : Nat := Tab.get 64 b.dict.logCount o

/-- What a read of 0x2B01:01 by a path returns, or its abort code (R428). -/
def Chip.logRead (b : Chip) (o : Nat) : Except Nat (List LogEntry) :=
  let held := b.log.held
  let start := b.logStart o
  match held with
  | [] => .ok []
  | e :: _ =>
    if e.seq ≠ start ∧ seqAfter e.seq start = true then .error 0x06090030
    else .ok ((held.filter fun e => seqAfter e.seq start).take (b.logCount o))

/-- A read of the path advances its read sequence past the last entry; an observe read leaves it (R428, R452). -/
def Chip.logAdvance (b : Chip) (o : Nat) (l : List LogEntry) : Chip :=
  match l.getLast? with
  | some e =>
    if o = 6 then b
    else { b with dict := { b.dict with logSeq := Tab.set b.dict.logSeq o ((e.seq + 1) % 2 ^ 32) } }
  | none => b

/-- LOG_READ (R428). -/
def Chip.readLog (b : Chip) (o : Nat) : Chip :=
  if !b.lanternServes then b.answer o (.abort 0x08000021)
  else
    match b.logRead o with
    | .error a => b.answer o (.abort a)
    | .ok l => (b.logAdvance o l).answer o (.data (l.flatMap LogEntry.bytes))

def execLogRead (q : Req) (s : State) : Out := act s fun b => b.request q fun b => b.readLog q.owner

/-- The sticky health bits written as 1 are cleared (R425). -/
def Chip.unstick (b : Chip) (mask : BitVec 32) : Chip :=
  let l := b.lantern
  { b with lantern := { l with
    logLoss := l.logLoss && !mask.getLsbD 11
    fwFallback := l.fwFallback && !mask.getLsbD 9
    wdogSeen := l.wdogSeen && !mask.getLsbD 6
    sramCorrected := l.sramCorrected && !mask.getLsbD 5 } }

def execClearSticky (q : Req) (mask : BitVec 32) (s : State) : Out :=
  act s fun b => b.writeRow q 0x2002 2 mask.toNat fun b => .ok (b.unstick mask)

/-! ### Stream keys (R432 to R435) -/

def Chip.keySlot (b : Chip) (n : Nat) : KeySlot := Tab.get {} b.lantern.keys n
def Chip.setKey (b : Chip) (n : Nat) (k : KeySlot) : Chip :=
  { b with lantern := { b.lantern with keys := Tab.set b.lantern.keys n k } }

/-- The owner may not install into or delete a slot: no stream right, or the slot holds another owner's key. -/
def Chip.keyNoRight (b : Chip) (o n : Nat) : Bool :=
  o != 0 && (!b.hasStream o || (match (b.keySlot n).owner with | some i => i != o | none => false))

/-- The serial of 0x2E2C; the lowest status of the conditions that hold (R511). The Keep serves the request (R433). -/
def Chip.startKey (b : Chip) (o : Nat) : Chip :=
  let a := b.reg 0x2E2C 3
  let n := b.reg 0x2E2C 4
  let k := b.keySlot n
  let done := fun (b : Chip) (x : KeySlot) (code : Nat) =>
    (((b.setKey n x).keepServed).setStatus 0x2E2C o 0).logEvent { code := code, sev := 1 }
  if (a = 1 ∨ a = 2) ∧ b.keyNoRight o n = true ∨ a = 3 ∧ o ≠ 0 ∨ a = 0 then b.setStatus 0x2E2C o 2
  else if k.revoked then b.setStatus 0x2E2C o 3
  else if a = 1 ∧ Config.blobUnwraps n (Tab.get [] b.dict.octets (key 0x2E2C 5)) = false then
    b.keepServed.setStatus 0x2E2C o 4
  else if a = 1 then done b.tookFree { owner := some o, key := b.free } 0x40E00018
  else if a = 2 then done b {} 0x40E00018
  else done b { revoked := true } 0x40E00019

/-- A command row of 0x2E2C with its blob (R434, R435). -/
def Chip.keyRow (b : Chip) (q : Req) (serial : Nat) (params : List (Nat × Nat)) (blob : Option Bytes) : Chip :=
  b.request q fun b =>
    let (c, r) := b.storeParams q.owner 0x2E2C params
    let stored : Chip × Option Nat := match blob with
      | none => (c, r)
      | some d =>
        match c.checkWrite q.owner 0x2E2C 5 d.length 0 with
        | .error a => (c, some (r.getD a))
        | .ok _ => ({ c with dict := { c.dict with octets := Tab.set c.dict.octets (key 0x2E2C 5) d } }, r)
    b.finish q.owner
      (wholeWrite stored fun b =>
        b.writeEntry q.owner 0x2E2C 1 serial fun b => b.serial q.owner 0x2E2C serial Chip.startKey)

def execInstallKey (q : Req) (serial slot : Nat) (blob : Bytes) (s : State) : Out :=
  act s fun b => b.keyRow q serial [(3, 1), (4, slot)] (some blob)

def execDeleteKey (q : Req) (serial slot : Nat) (s : State) : Out :=
  act s fun b => b.keyRow q serial [(3, 2), (4, slot)] none

def execRevokeKey (q : Req) (serial slot : Nat) (s : State) : Out :=
  act s fun b => b.keyRow q serial [(3, 3), (4, slot)] none

end Sys2Proof.Machine
end

