-- ==== Sys2Proof/Machine/FieldNet.lean ====
section
/-! DEFINITION. The field network: AL state requests, distributed clocks, the process data event with its outputs and inputs,
the EtherCAT mailbox, FoE, SII and links (R319 to R335, R349). -/

namespace Sys2Proof.Machine

open Sys2Proof

/-- The interface is powered, and C35 runs (R17, R19, R320). -/
def Chip.ecatOn (b : Chip) : Bool := b.powered 15 && b.clockState 35 == .running

/-! ### AL states -/

/-- A transition to INIT aborts the open transfers of the EtherCAT path (R332, R360). -/
def Chip.abortEcat (b : Chip) : Chip :=
  let b := b.closeSegment 5
  let b := b.endLoads (fun l => l.source == 5) 10
  let b := match b.lantern.op with
    | some op => if op.foe then b.flashEnd .cutShort else b
    | none => b
  { b with ecat := { b.ecat with foe := 0 } }

/-- AL_STATE_REQUEST (R330): in BOOT, while the firmware is being started, a request above INIT is held. -/
def Chip.alCommand (b : Chip) (n : Nat) : Chip :=
  if !b.ecatOn then b
  else
    match alOfCode n with
    | none => { b with ecat := { b.ecat with code := 0x0011 } }
    | some .init => (b.alRequest .init).abortEcat
    | some st =>
      if b.dev.st = .boot ∧ b.dev.recovery = false then { b with ecat := { b.ecat with held := some n } }
      else b.alRequest st

def execAlStateRequest (st : Nat) (s : State) : Out := act s fun b => b.alCommand st

/-- A fall of the interface to SAFEOP for an error, with its AL status code (R328). -/
def Chip.alFall (b : Chip) (code ev : Nat) (inj : Bool) : Chip :=
  ({ b with ecat := { b.ecat with al := .safeop, code := code } }).logEvent
    { code := ev, sev := 3, inj := inj, d0 := 4 + code * 65536 }

/-- The SM2 watchdog expires (R328). -/
def Chip.smWatchdog (b : Chip) (inj : Bool) : Chip :=
  let b := b.count 0x2010 8
  let b := if inj then b.injected 0x40B00002 else b
  b.alFall 0x001B 0x40B00002 inj

def execSmWatchdogExpiry (s : State) : Out :=
  act s fun b => if b.ecat.al = .op then b.smWatchdog false else b

/-! ### Distributed clocks (R322, R323) -/

/-- The DC unit follows the master with source 1; otherwise Belfry drives it (R322, 0x2010:09). -/
def Chip.dcFollows (b : Chip) : Bool := b.reg 0x2301 1 == 1

/-- The DC local time where Belfry drives it: the tick count plus the system time offset; with source 1 the unit's own time stands
outside the device's other state and comes with DC_MEASUREMENT (R322). -/
def Chip.dcTime (b : Chip) : Option Nat :=
  if b.dcFollows then none else some ((b.now + b.escReg 0x0920) % 2 ^ 64)

/-- SYNC_ACTIVATION (R323): bit 0 of ESC register 0x0981 activates the cyclic unit and bit 1 SYNC0; with a cycle below
12,500 ns it is not performed. -/
def Chip.syncActivate (b : Chip) (bits : BitVec 8) (cycle0 start cycle1 : Nat) : Chip :=
  if !b.ecatOn then b
  else
    let want := bits.getLsbD 0 && bits.getLsbD 1
    let ok := decide (12500 ≤ cycle0)
    { b with ecat := { b.ecat with
      syncActive := want && ok
      syncRefused := want && !ok
      cycle0 := cycle0
      start0 := start
      cycle1 := cycle1
      esc := Tab.set b.ecat.esc 0x981 bits.toNat } }

def execSyncActivation (bits : BitVec 8) (cycle0 start cycle1 : Nat) (s : State) : Out :=
  act s fun b => b.syncActivate bits cycle0 start cycle1

/-! ### The process data event (R324 to R329) -/

/-- Words of a partition's outputs, or of its inputs. -/
def Chip.outWords (b : Chip) (p : Nat) : List Nat :=
  bitsOf ((b.partRegions p).foldl (fun (m : BitVec 256) r => m ||| (b.region r).pdOut) 0#256).toNat 256
def Chip.inWords (b : Chip) (p : Nat) : List Nat :=
  bitsOf ((b.partRegions p).foldl (fun (m : BitVec 256) r => m ||| (b.region r).pdIn) 0#256).toNat 256

/-- Partitions with a committed stream. -/
def Chip.committedParts (b : Chip) : List Nat := (List.range 8).filter fun p => (b.part p).committed

/-- The first tick at which every region of the partition has seen a net-0 edge at or after E (R326, R327, R138). -/
def Chip.edgeAfter (b : Chip) (p e : Nat) : Nat :=
  (b.partRegions p).foldl (fun t r => max t ((nextMultiple (e * 8) (max 1 (b.region r).m) + 7) / 8)) e

/-- The edge at which a partition's outputs take effect (R326). -/
def Chip.applyEdge (b : Chip) (p e : Nat) : Nat :=
  if (b.part p).tables then nextMultiple e (2 ^ (b.part p).k) else b.edgeAfter p e

/-- The edge at which a partition's inputs are latched (R327). -/
def Chip.latchEdge (b : Chip) (p e : Nat) : Nat :=
  if (b.part p).tables then e / 2 ^ (b.part p).k * 2 ^ (b.part p).k else b.edgeAfter p e

/-- Words copied from one image to another. -/
def copyWords (l : List Nat) (src dst : Tab (BitVec 32)) : Tab (BitVec 32) :=
  l.foldl (fun t w => Tab.set t w (Tab.get 0#32 src w)) dst

/-- The words that no region has. -/
def Chip.unassignedOut (b : Chip) : List Nat :=
  let m := (List.range 32).foldl (fun (m : BitVec 256) r => m ||| (b.region r).pdOut) 0#256
  bitsOf (~~~m).toNat 256

/-- E selects the outputs: the last SM2 buffer takes effect at each partition's edge, and in 0x7000 at once for words of no
region (R325, R326). -/
def Chip.selectOutputs (b : Chip) (e : Nat) : Chip :=
  let t := b.ecat.sm2
  { b with ecat := { b.ecat with
    sm2New := false
    misses := 0
    taken := t
    applied := copyWords (b.unassignedOut.filter fun w => t.any fun x => x.1 == w) t b.ecat.applied
    applyDue := b.committedParts.foldl (fun d p => Tab.set d p (b.applyEdge p e)) b.ecat.applyDue } }

/-- E of mode 2 finds no new SM2 buffer, or counts as missed by injection (R328, R350). -/
def Chip.eventMissed (b : Chip) (inj : Bool) : Chip :=
  let b := b.setReg 0x1C32 0x0B (min 0xFFFF (b.reg 0x1C32 0x0B + 1))
  let n := b.ecat.misses + 1
  let b := { b with ecat := { b.ecat with misses := n, sm2New := false } }
  let b := if inj then b.applyArmed 0x2DB0 3 0 0x40B00003 else b
  if b.reg 0x10F1 2 ≤ n then (b.setReg 0x1C32 0x20 1).alFall 0x001A 0x40B00003 inj else b

/-- E selects the inputs: words that a frame start before E latched are taken, the rest wait for their edge (R327). -/
def Chip.selectInputs (b : Chip) (e : Nat) : Chip :=
  b.forEach b.committedParts fun b p =>
    let edge := b.latchEdge p e
    if (b.part p).tables && decide (edge ≤ Tab.get 0 b.ecat.preAt p) && (b.ecat.preAt.any fun x => x.1 == p) then
      { b with ecat := { b.ecat with latched := copyWords (b.inWords p) b.ecat.preIn b.ecat.latched } }
    else { b with ecat := { b.ecat with latchDue := Tab.set b.ecat.latchDue p edge } }

/-- The process data event E (R326 to R328): process data runs in SAFEOP and OP, and outputs apply in OP only. -/
def Chip.pdEvent (b : Chip) (e : Nat) : Chip :=
  if !b.pdRuns then b
  else
    let mode2 := b.reg 0x1C32 1 == 2
    let b := if mode2 then b.setReg 0x1C32 2 b.ecat.cycle0
      else if b.ecat.evSeen then b.setReg 0x1C32 2 ((e - b.ecat.ev) % 2 ^ 32) else b
    let inj := b.isArmed 0x2DB0 3 0
    let miss := b.ecat.al == .op && (inj || (mode2 && !b.ecat.sm2New))
    let b := { b with ecat := { b.ecat with ev := e, evSeen := true } }
    let b := b.selectInputs e
    if miss then b.eventMissed inj
    else if b.ecat.al = .op then b.selectOutputs e
    else { b with ecat := { b.ecat with sm2New := false } }

/-- SYNC0_EVENT (R323, R326). -/
def Chip.sync0 (b : Chip) (t : Nat) : Chip :=
  if b.ecat.syncActive && b.ecatOn then
    let b := b.upTo t
    if b.reg 0x1C32 1 = 2 then b.pdEvent t else b
  else b

def execSync0Event (t : Nat) (s : State) : Out := act s fun b => b.sync0 t

/-- The output words of an SM2 buffer: the assigned PDOs in order, 64 words each (R324). -/
def Chip.sm2Words (b : Chip) (words : List (BitVec 32)) : Tab (BitVec 32) :=
  let index := b.rxPdos.flatMap fun n => (List.range 64).map fun i => n * 64 + i
  (index.zip words).foldl (fun t x => Tab.set t x.1 x.2) b.ecat.sm2

/-- SM2_BUFFER_WRITE (R326): E of modes 0 and 1. -/
def Chip.sm2Write (b : Chip) (words : List (BitVec 32)) (t : Nat) : Chip :=
  if !b.pdRuns then b
  else
    let b := b.upTo t
    let b := { b with ecat := { b.ecat with sm2 := b.sm2Words words, sm2New := true } }
    if b.reg 0x1C32 1 = 2 then b else b.pdEvent t

def execSm2BufferWrite (words : List (BitVec 32)) (t : Nat) (s : State) : Out := act s fun b => b.sm2Write words t

/-- The status words of 0x6100 (R347). -/
def Chip.deviceStatus (b : Chip) : Nat :=
  let st := match b.belfry.st with
    | .free => 0 | .locking => 1 | .locked => 2 | .holdover => 3
  flag b.imprecise 24 + st * 65536 + b.readiness * 256 + b.dev.st.code

def Chip.partMaskOf (b : Chip) (c : Contract) : Nat :=
  (List.range 8).foldl (fun m p => m + flag ((b.part p).status == c) p) 0

def Chip.statusWord (b : Chip) (n : Nat) : Nat :=
  match n with
  | 1 => b.deviceStatus
  | 2 => b.partMaskOf .armed + b.partMaskOf .broken * 256 + b.partMaskOf .suspended * 65536
  | 3 => b.ecat.ev % 2 ^ 32
  | _ => b.reg 0x6100 4

/-- An input word as the image holds it: 0 where no region has it (R325). -/
def Chip.inputWord (b : Chip) (w : Nat) : BitVec 32 :=
  if (List.range 32).any fun r => (b.region r).pdIn.getLsbD w then Tab.get 0#32 b.ecat.latched w else 0#32

/-- The SM3 buffer: the assigned TxPDOs in order (R324, R327). -/
def Chip.sm3Words (b : Chip) : List (BitVec 32) :=
  b.txPdos.flatMap fun n =>
    if n = 4 then [1, 2, 3, 4].map fun k => BitVec.ofNat 32 (b.statusWord k)
    else (List.range 64).map fun i => b.inputWord (n * 64 + i)

/-- SM3_BUFFER_READ (R326): E of mode 0 where no RxPDO is assigned. -/
def Chip.sm3Read (b : Chip) (t : Nat) : Chip :=
  if !b.pdRuns then b
  else
    let b := b.upTo t
    let b := { b with ecat := { b.ecat with sm3 := b.sm3Words } }
    if b.reg 0x1C32 1 = 0 ∧ b.reg 0x1C12 0 = 0 then b.pdEvent t else b

def execSm3BufferRead (t : Nat) (s : State) : Out := act s fun b => b.sm3Read t

/-- PROCESS_OUTPUT_APPLY (R326, R328, R445): the partition's words take effect together, and pd_o_new pulses. -/
def Chip.applyOutputs (b : Chip) (p : Nat) : Chip :=
  match b.ecat.applyDue.find? fun (x : Nat × Nat) => x.1 == p with
  | none => b
  | some (_, t) =>
    let b := b.upTo t
    let e : Ecat := { b.ecat with applyDue := Tab.drop (fun k => k == p) b.ecat.applyDue }
    if e.al = .op ∧ (b.part p).pdFrozen = false ∧ b.dev.st ≠ .safe then
      { b with ecat := { e with
        applied := copyWords (b.outWords p) e.taken e.applied
        pdNew := Tab.set e.pdNew p t } }
    else { b with ecat := e }

def execProcessOutputApply (p : Nat) (s : State) : Out := act s fun b => b.applyOutputs p

/-- An input word as it stood at the start of frame f of its partition: the latch holds every write presented before its
cycle and none presented in it or later (R329). -/
def Ecat.inputAt (e : Ecat) (w f : Nat) : BitVec 32 :=
  match e.inHist.find? fun (x : Nat × Nat × BitVec 32) => x.1 == w with
  | some (_, g, old) => if f ≤ g then old else Tab.get 0#32 e.inputs w
  | none => Tab.get 0#32 e.inputs w

/-- The partition's input words as they stood at an edge. -/
def Chip.inputsAt (b : Chip) (p edge : Nat) (dst : Tab (BitVec 32)) : Tab (BitVec 32) :=
  (b.inWords p).foldl (fun t w =>
    Tab.set t w (if (b.part p).tables then b.ecat.inputAt w (edge / 2 ^ (b.part p).k) else Tab.get 0#32 b.ecat.inputs w)) dst

/-- PROCESS_INPUT_LATCH (R327): the latch of the last E, or in a partition with slot tables the latch at a frame start that
a later E takes. -/
def Chip.latchInputs (b : Chip) (p : Nat) : Chip :=
  if !b.pdRuns || (b.part p).pdFrozen || b.dev.st == .safe || !(b.part p).committed then b
  else
    match b.ecat.latchDue.find? fun (x : Nat × Nat) => x.1 == p with
    | some (_, t) =>
      let b := b.upTo t
      { b with ecat := { b.ecat with
        latched := b.inputsAt p t b.ecat.latched
        latchDue := Tab.drop (fun k => k == p) b.ecat.latchDue
        pdLatch := Tab.set b.ecat.pdLatch p t } }
    | none =>
      if (b.part p).tables then
        let t := b.latchEdge p b.now
        { b with ecat := { b.ecat with
          preIn := b.inputsAt p t b.ecat.preIn
          preAt := Tab.set b.ecat.preAt p t
          pdLatch := Tab.set b.ecat.pdLatch p t } }
      else b

def execProcessInputLatch (p : Nat) (s : State) : Out := act s fun b => b.latchInputs p

/-- PD_INPUT_WRITE (R329): only words assigned to the region are reachable. -/
def Chip.pdWrite (b : Chip) (r w : Nat) (v : BitVec 32) (t : Nat) : Chip :=
  let b := b.upTo t
  match b.regionPart r with
  | none => b
  | some p =>
    if b.fabricRuns r && (b.region r).pdIn.getLsbD w then
      let f := b.now / 2 ^ (b.part p).k
      let old := Tab.get 0#32 b.ecat.inputs w
      let hist := match b.ecat.inHist.find? fun (x : Nat × Nat × BitVec 32) => x.1 == w with
        | some (_, g, _) => if g = f then b.ecat.inHist else Tab.set b.ecat.inHist w (f, old)
        | none => Tab.set b.ecat.inHist w (f, old)
      { b with ecat := { b.ecat with inputs := Tab.set b.ecat.inputs w v, inHist := hist } }
    else b

def execPdInputWrite (r w : Nat) (v : BitVec 32) (t : Nat) (s : State) : Out := act s fun b => b.pdWrite r w v t

/-! ### The EtherCAT mailbox (R333, R335) -/

/-- A mailbox is in use: every state but INIT. -/
def Chip.mailboxOn (b : Chip) : Bool := b.ecatOn && b.ecat.al != .init

/-- MAILBOX_WRITE (R333): a write with the counter of the last accepted write is a repeat, and so is the next write of an
injection; no request is served twice. -/
def Chip.mailboxIn (b : Chip) (counter : Nat) (data : Bytes) : Chip :=
  if !b.mailboxOn then b
  else if b.isArmed 0x2DB0 4 0 then (b.applyArmed 0x2DB0 4 0 0x40B00006).count 0x2010 6
  else if counter ≠ 0 ∧ counter = b.ecat.lastCounter then b.count 0x2010 6
  else { b with ecat := { b.ecat with lastCounter := counter, sm0 := data } }

def execMailboxWrite (counter : Nat) (data : Bytes) (s : State) : Out := act s fun b => b.mailboxIn counter data

/-- MAILBOX_REPEAT_REQUEST (R333): the last response is placed again, unchanged. -/
def Chip.mailboxAgain (b : Chip) : Chip :=
  match b.ecat.lastResp with
  | some m => if b.mailboxOn then { b with ecat := { b.ecat with sm1 := m :: b.ecat.sm1.filter fun x => x != m } } else b
  | none => b

def execMailboxRepeatRequest (s : State) : Out := act s Chip.mailboxAgain

/-- SM1_MAILBOX_READ (R335): the buffer is free for the next waiting response or emergency. -/
def Chip.sm1Read (b : Chip) : Chip :=
  if !b.mailboxOn then b
  else
    let e : Ecat := { b.ecat with sm1 := b.ecat.sm1.drop 1 }
    match e.sm1, e.emergencies with
    | [], m :: rest => { b with ecat := { e with emergencies := rest }.place m }
    | _, _ => { b with ecat := e }

def execSm1MailboxRead (s : State) : Out := act s Chip.sm1Read

/-! ### FoE (R334, R354, R374, R416 to R419, R428) -/

def Chip.foeAnswer (b : Chip) (code : Nat) : Chip := { b with ecat := { b.ecat with foeReply := code } }

/-- FoE runs on the mailbox from PREOP on. -/
def Chip.foeOn (b : Chip) : Bool := b.ecatOn && b.dictAlive && b.ecat.al.preopOrHigher

/-- FOE_WRITE_STREAM: while the power-up test runs it waits with BUSY (R374). -/
def Chip.foeStream (b : Chip) : Chip :=
  if b.ecatOn && b.ecat.al == .bootstrap then b.foeAnswer 0x8001
  else if !b.foeOn then b
  else if b.ecat.foe = 1 ∧ b.ecat.foePacket = 0 then
    if b.test.st = 1 then b.foeAnswer 1
    else { b with ecat := { b.ecat with foePacket := 1, foeReply := 0 } }
  else if b.ecat.foe ≠ 0 then b.foeAnswer 0x800B
  else if !b.hasStream 5 then b.foeAnswer 0x8002
  else
    let wait := b.test.st == 1
    let b := b.pushLoad { source := 5, requester := 5 }
    { b with ecat := { b.ecat with
      foe := 1
      foePacket := if wait then 0 else 1
      foeBytes := 0
      foeLast := false
      foeReply := if wait then 1 else 0 } }

def execFoeWriteStream (t : Nat) (s : State) : Out := act s fun b => (b.upTo t).foeStream

/-- An FoE firmware write begins. -/
def Chip.foeImage (b : Chip) : Chip :=
  { b with
    lantern := { b.lantern with op := some { action := 1, owner := 5, foe := true } }
    ecat := { b.ecat with foe := 2, foePacket := 1, foeBytes := 0, foeLast := false, foeReply := 0 } }

/-- FOE_WRITE_FIRMWARE: in recovery under the default owner table (R416); otherwise refused while the running image is
unconfirmed, and BUSY during a flash operation (R418, R419). -/
def Chip.foeFirmware (b : Chip) : Chip :=
  if b.ecatOn && b.ecat.al == .bootstrap && b.dev.recovery then
    if b.ecat.foe ≠ 0 then b.foeAnswer 0x800B else b.foeImage
  else if !b.foeOn then b
  else if b.ecat.foe ≠ 0 then b.foeAnswer 0x800B
  else if !b.hasControl 5 then b.foeAnswer 0x8002
  else if b.lantern.op.isSome || !b.lanternServes then b.foeAnswer 1
  else if !b.imageConfirmed then b.foeAnswer 0x8000
  else b.foeImage

def execFoeWriteFirmware (t : Nat) (s : State) : Out := act s fun b => (b.upTo t).foeFirmware

/-- FOE_READ_LOG (R428): the ring from oldest to newest, and then the entries not yet written. -/
def Chip.foeLog (b : Chip) : Chip :=
  if !b.foeOn then b
  else if b.ecat.foe ≠ 0 then b.foeAnswer 0x800B
  else if !b.lanternServes then b.foeAnswer 1
  else
    let l := b.log.ring ++ b.log.recent.drop (b.log.recent.length - b.log.pending)
    { b with ecat := { b.ecat with foeReply := 0, foeData := l.flatMap LogEntry.bytes } }

def execFoeReadLog (s : State) : Out := act s Chip.foeLog

/-- A transfer is aborted with an FoE error: a stream load is cut short, an image write fails (R334, R360). -/
def Chip.foeAbort (b : Chip) (code : Nat) : Chip :=
  let b := if b.ecat.foe = 1 then b.endLoads (fun l => l.source == 5) 10
    else if b.ecat.foe = 2 then b.flashEnd .cutShort else b
  { b with ecat := { b.ecat with foe := 0, foeReply := code } }

/-- FOE_DATA_PACKET (R334). The last packet of a transfer is answered when the loader or the flash has ended with it. -/
def Chip.foePacketIn (b : Chip) (number bytes : Nat) (last : Bool) : Chip :=
  if b.ecat.foe = 0 ∨ b.ecat.foePacket = 0 then b
  else if number ≠ b.ecat.foePacket ∨ b.ecat.foeLast = true then b.foeAbort 0x8005
  else
    { b with ecat := { b.ecat with
      foePacket := b.ecat.foePacket + 1
      foeBytes := b.ecat.foeBytes + bytes
      foeLast := last
      foeReply := 0 } }

def execFoeDataPacket (number bytes : Nat) (last : Bool) (s : State) : Out := act s fun b => b.foePacketIn number bytes last

/-! ### SII and links (R320, R321, R349) -/

/-- SII_WRITE: only the alias and the checksum, and only in INIT; Lantern serves the SII from REDUCED on. -/
def Chip.siiStore (b : Chip) (word : Nat) (v : BitVec 16) : Chip :=
  if !b.ecatOn then b
  else if !b.dictAlive || !b.lanternServes then { b with ecat := { b.ecat with eepromBusy := true } }
  else if (word = 4 ∨ word = 7) ∧ b.ecat.al = .init then
    { b with ecat := { b.ecat with sii := Mem.set b.ecat.sii word v, eepromError := false, eepromBusy := false } }
  else { b with ecat := { b.ecat with eepromError := true, eepromBusy := false } }

def execSiiWrite (word : Nat) (v : BitVec 16) (s : State) : Out := act s fun b => b.siiStore word v

/-- SII_READ. -/
def Chip.siiFetch (b : Chip) (word : Nat) : Chip :=
  if !b.ecatOn then b
  else if !b.dictAlive || !b.lanternServes then { b with ecat := { b.ecat with eepromBusy := true } }
  else
    { b with ecat := { b.ecat with siiData := Mem.get b.ecat.sii word, eepromBusy := false, eepromError := false } }

def execSiiRead (word : Nat) (s : State) : Out := act s fun b => b.siiFetch word

/-- A port's link goes down. -/
def Chip.ecatDown (b : Chip) (p : Nat) (inj : Bool) : Chip :=
  { b with ecat := { b.ecat with link := b.ecat.link &&& ~~~(1#2 <<< p) } }.logEvent
    { code := evCode 4 11 p 4, sev := 3, inj := inj, d0 := b.ecat.al.code + b.ecat.code * 65536 }

def execEcatLinkLost (p : Nat) (s : State) : Out :=
  act s fun b => if b.ecatOn && b.ecat.link.getLsbD p then b.ecatDown p false else b

def execEcatLinkUp (p : Nat) (s : State) : Out :=
  act s fun b =>
    if b.ecatOn && !b.ecat.link.getLsbD p then
      { b with ecat := { b.ecat with link := b.ecat.link ||| (1#2 <<< p) } }.logEvent
        { code := evCode 4 11 p 5, sev := 1, d0 := b.ecat.al.code + b.ecat.code * 65536 }
    else b

end Sys2Proof.Machine
end

