-- ==== Sys2Proof/Machine/Queues.lean ====
section
/-! DEFINITION. Queue blocks: packing, pushes, pops and stalls, watermarks, duplicated pointers, the dual-clock and the host
modes (R178 to R199, R310). -/

namespace Sys2Proof.Machine

open Sys2Proof

def Chip.settleQueue (b : Chip) (k : Nat) : Chip :=
  b.modQueue k fun q => q.settle (b.queueClock k q)

/-- What the read side and the write side show in the present cycle. -/
def Queue.readShow (q : Queue) : QueueShow := q.shownR.getD { cyc := 0, depth := 0, hi := false, lo := false, held := false, pack := 0 }
def Queue.writeShow (q : Queue) : QueueShow := q.shownW.getD { cyc := 0, depth := 0, hi := false, lo := false, held := false, pack := 0 }

/-- A change of a settled queue block. -/
def Chip.onQueue (b : Chip) (k : Nat) (f : QueueClock → Queue → Queue) : Chip :=
  b.modQueue k fun q => f (b.queueClock k q) q

/-! ### Pushes and pops (R180 to R186) -/

/-- Bytes of an item of the queue's width (R180). -/
def Queue.itemBytes (q : Queue) (item : BitVec 32) : List Byte := toBytes (2 ^ q.width) item.toNat

/-- A push is discarded and counted (R189, R191, R192). -/
def Chip.discardPush (b : Chip) (k : Nat) : Chip := b.count (0x2500 + k / 16) 0x32

/-- A push of bytes, or a close, at the write port in writer cycle c (R180, R181, R184, R185). An empty packing register is not
closed. A full same-clock queue block accepts it where a pop is taken in the cycle. -/
def Queue.push (q : Queue) (x : QueueClock) (bytes : List Byte) (close : Bool) : Queue :=
  let all := q.pack ++ bytes
  if all = [] then q
  else if all.length < 16 ∧ close = false then { q with pack := all, pushCycle := some x.cw }
  else if q.writeShow.depth < 256 ∨ (q.split = false ∧ q.popCycle = some x.cw) then
    { q.enter x all x.cw with pushCycle := some x.cw }
  else { q with heldPush := some (bytes, x.cw), pushCycle := some x.cw }

/-- q_wrdy in the present cycle (R184). -/
def Queue.wrdy (q : Queue) : Bool := q.disabled || !q.writeShow.held

/-- The write port of a fabric writer takes a push (R184, R189, R191): one item a cycle, and a close with it or alone. -/
def Chip.fabricPush (b : Chip) (k : Nat) (bytes : Queue → List Byte) (close : Bool) : Chip :=
  match (b.queue k).writer k with
  | none => b
  | some w =>
    let b := b.settleQueue k
    let q := b.queue k
    let again := q.pushCycle == some (b.sideCycle (some w)) && !(bytes q).isEmpty
    if !b.fabricRuns w || again then b
    else if q.disabled || (q.mode == 2 && (b.region (k / 16)).fenced) then
      if bytes q = [] ∧ q.pack = [] then b else b.discardPush k
    else if !q.wrdy || q.heldPush.isSome then b
    else b.onQueue k fun x q => q.push x (bytes q) close

def execQueuePush (r k : Nat) (item : BitVec 32) (close : Bool) (t : Nat) (s : State) : Out :=
  act s fun b => (b.upTo t).fabricPush (queueKey r k) (fun q => q.itemBytes item) close

def execQueueClose (r k t : Nat) (s : State) : Out :=
  act s fun b => (b.upTo t).fabricPush (queueKey r k) (fun _ => []) true

/-- The head word is popped in reader cycle c; a push that this cycle presented to the full queue block is accepted with it
(R185). -/
def Queue.take (q : Queue) (x : QueueClock) : Queue :=
  let q := q.leave x x.cr
  match q.heldPush with
  | some (_, c) => if q.split = false ∧ c = x.cw then q.completePush x c else q
  | none => q

/-- A read of a queue block in a slot of class 0x6 that stalls is a miss with cause 7 (R186); an armed injection of cause
7 applies at a covered read (R106). -/
def Chip.scheduledRead (b : Chip) (k : Nat) (stalls : Bool) : Chip :=
  let r := k / 16
  match b.slotAt r 6 (k % 16) with
  | none => b
  | some x =>
    if b.isArmed 0x2D62 7 r then
      (b.applyArmed 0x2D62 7 r (evCode 3 6 r 0x107)).slotMiss r (b.slotMissInfo r 7 x) true
    else if stalls && (b.queue k).mode == 1 then b.slotMiss r (b.slotMissInfo r 7 x) false
    else b

/-- QUEUE_POP (R183): one pop a cycle, none while q_rrdy is 0; a pop of an empty queue block is held. A disabled block stalls
every pop. -/
def Chip.pop (b : Chip) (k : Nat) : Chip :=
  match (b.queue k).reader k with
  | none => b
  | some r =>
    let b := b.settleQueue k
    let q := b.queue k
    if !b.fabricRuns r || q.readShow.held || q.heldPop || q.popCycle == some (b.sideCycle (some r)) then b
    else
      let stalls := q.disabled || q.readShow.depth == 0
      let b := b.onQueue k fun x q =>
        if stalls then
          { q with heldPop := true, popReady := if q.split || q.words.isEmpty then none else some (x.cr + 1) }
        else q.take x
      b.scheduledRead k stalls

def execQueuePop (r k t : Nat) (s : State) : Out := act s fun b => (b.upTo t).pop (queueKey r k)

/-- HELD_POP_TAKE (R183): in the first cycle with a depth of 1 or more. -/
def Chip.heldPopTake (b : Chip) (k : Nat) : Chip :=
  match (b.queue k).reader k with
  | none => b
  | some r =>
    let b := b.settleQueue k
    let q := b.queue k
    let due := match q.popReady with
      | some c => decide (c ≤ b.sideCycle (some r))
      | none => false
    if b.fabricRuns r && q.heldPop && !q.disabled && due then b.onQueue k fun x q => q.take x else b

def execHeldPopTake (r k t : Nat) (s : State) : Out := act s fun b => (b.upTo t).heldPopTake (queueKey r k)

/-- HELD_PUSH_COMPLETE (R184): in same-clock mode in the first cycle that takes a pop; otherwise once the writer sees room. -/
def Chip.heldPushComplete (b : Chip) (k : Nat) : Chip :=
  match (b.queue k).writer k with
  | none => b
  | some w =>
    let b := b.settleQueue k
    let due := match (b.queue k).pushReady with
      | some c => decide (c ≤ b.sideCycle (some w))
      | none => false
    if b.fabricRuns w && due then b.onQueue k fun x q => q.completePush x x.cw else b

def execHeldPushComplete (r k t : Nat) (s : State) : Out :=
  act s fun b => (b.upTo t).heldPushComplete (queueKey r k)

/-! ### Watermark clears, mismatches and dual-clock edges -/

/-- Both flags of a queue block clear; a crossing of the same cycle sets its flag (R187). -/
def Queue.clearMarks (q : Queue) (x : QueueClock) : Queue :=
  let before := match q.wmAt with
    | some (c, _, _, d) => if c = x.cr then d else q.readDepth
    | none => q.readDepth
  ({ q with wmAt := some (x.cr, false, false, before) }.judge x.cr before).logFlags x x.cr

def Chip.clearFlags (b : Chip) (k : Nat) : Chip := (b.settleQueue k).onQueue k fun x q => q.clearMarks x

/-- WATERMARK_CLEAR (R187): q_wm_clr of the read side. -/
def Chip.watermarkClear (b : Chip) (k : Nat) : Chip :=
  match (b.queue k).reader k with
  | some r => if b.fabricRuns r then b.clearFlags k else b
  | none => b

def execWatermarkClear (r k t : Nat) (s : State) : Out :=
  act s fun b => (b.upTo t).watermarkClear (queueKey r k)

/-- A write of 0x25ii:30 (R187, R197). -/
def Chip.clearWatermarks (b : Chip) (r mask : Nat) : Chip :=
  b.forEach (bitsOf mask 16) fun b k => b.clearFlags (queueKey r k)

def execClearWatermarks (q : Req) (r : Nat) (mask : BitVec 16) (s : State) : Out :=
  act s fun b => b.writeRow q (0x2500 + r) 0x30 mask.toNat fun b => .ok (b.clearWatermarks r mask.toNat)

/-- QUEUE_POINTER_MISMATCH (R188): pairs are compared in the cycles of their clock. -/
def Chip.pointerMismatch (b : Chip) (k which : Nat) : Chip := if b.pointerRuns k which then b.mismatch k which false else b

def execQueuePointerMismatch (r k which t : Nat) (s : State) : Out :=
  act s fun b => (b.upTo t).pointerMismatch (queueKey r k) which

/-- DUAL_CLOCK_WORD_READABLE (R190): at the second edge of the side that sees the change. What comes at the start of a cycle is
seen throughout it. -/
def Chip.dualReadable (b : Chip) (k : Nat) (freed : Bool) : Chip :=
  let b := b.settleQueue k
  let q := b.queue k
  let seen := fun (o : Option QueueShow) (d : Nat) => o.map fun s => { s with depth := d }
  if freed then
    match q.unfreed with
    | c :: _ =>
      if q.split && decide (c ≤ b.sideCycle (q.writer k)) then
        b.onQueue k fun _ q =>
          let s := q.writeShow.depth - 1
          let q := q.freed c
          { q with shownW := seen q.shownW s }
      else b
    | [] => b
  else
    match q.unread with
    | c :: _ =>
      if q.split && decide (c ≤ b.sideCycle (q.reader k)) then
        b.onQueue k fun x q =>
          let s := q.readShow.depth + 1
          let q := q.arrive x c
          { q with shownR := seen q.shownR s }
      else b
    | [] => b

def execDualClockWordReadable (r k : Nat) (freed : Bool) (t : Nat) (s : State) : Out :=
  act s fun b => (b.upTo t).dualReadable (queueKey r k) freed

/-! ### Host windows (R192, R310) -/

/-- The queue block of a BAR4 offset. -/
def windowQueue (offset : Nat) : Nat := offset / 4096 % 512

/-- The port may use the window of a queue block in host mode m. -/
def Chip.windowOpen (b : Chip) (h k : Nat) : Bool :=
  b.regionOwner (k / 16) == some (h + 1) && ((b.queue k).mode == 3 || (b.queue k).mode == 4)

/-- A host push: it never waits (R192). A host may complete several words in one cycle of C34, so the depth counts those too. -/
def Chip.hostPush (b : Chip) (h offset : Nat) (data : BitVec 32) (full : Bool) : Chip :=
  let k := windowQueue offset
  let o := offset % 4096
  if !b.hostOn then b
  else if !b.windowOpen h k then b.count (0x2800 + h) 0x0C
  else if (b.queue k).mode ≠ 3 ∨ 0x100 ≤ o then b
  else if !full then b.count (0x2800 + h) 0x0C
  else
    let b := b.settleQueue k
    let q := b.queue k
    let all := q.pack ++ toBytes 4 data.toNat
    if q.disabled then b.discardPush k
    else if all.length < 16 then b.modQueue k fun q => { q with pack := all }
    else if q.writeDepth < 256 then b.onQueue k fun x q => q.enter x all x.cw
    else b.discardPush k

def execHostQueuePush (h offset : Nat) (data : BitVec 32) (full : Bool) (t : Nat) (s : State) : Out :=
  act s fun b => (b.upTo t).hostPush h offset data full

/-- A host close strobe (R181, R192). -/
def Chip.hostClose (b : Chip) (h offset : Nat) : Chip :=
  let k := windowQueue offset
  if !b.hostOn then b
  else if !b.windowOpen h k then b.count (0x2800 + h) 0x0C
  else if (b.queue k).mode ≠ 3 ∨ offset % 4096 ≠ 0x200 then b
  else
    let b := b.settleQueue k
    let q := b.queue k
    if q.pack = [] then b
    else if q.disabled || decide (256 ≤ q.writeDepth) then b.discardPush k
    else b.onQueue k fun x q => q.enter x q.pack x.cw

def execHostQueueClose (h offset t : Nat) (s : State) : Out :=
  act s fun b => (b.upTo t).hostClose h offset

/-- The completion of a BAR4 read at a port. -/
def Chip.complete (b : Chip) (h cpl : Nat) (d : Bytes) : Chip :=
  b.modPort h fun p => { p with cpl := cpl, data := d }

/-- A read of a window (R310): at offset 0 of a host-drained block it pops the head word and returns word and mask; at
0x300 it returns the depth and the disabled bit. -/
def Chip.hostPop (b : Chip) (h offset : Nat) : Chip :=
  let k := windowQueue offset
  let o := offset % 4096
  if !b.hostOn then b
  else if !b.windowOpen h k then (b.count (0x2800 + h) 0x0C).complete h 1 []
  else
    let b := b.settleQueue k
    let q := b.queue k
    if o = 0x300 then
      let depth := if q.mode = 3 then q.writeDepth else q.readDepth
      b.complete h 0 (toBytes 4 (depth % 512 + flag q.disabled 30))
    else if o ≠ 0 ∨ q.mode ≠ 4 ∨ q.disabled = true ∨ q.readDepth = 0 then b.complete h 0 (toBytes 32 0)
    else
      match q.words with
      | w :: _ =>
        (b.onQueue k fun x q => q.leave x x.cr).complete h 0 (toBytes 16 w.1.toNat ++ toBytes 16 w.2.toNat)
      | [] => b.complete h 0 (toBytes 32 0)

def execHostQueuePop (h offset t : Nat) (s : State) : Out :=
  act s fun b => (b.upTo t).hostPop h offset

/-! ### What the sides show (R187, R188, R191, R195, R196) -/

/-- q_src_down (R191). -/
def Chip.srcDown (b : Chip) (k : Nat) : Bool :=
  (b.queue k).mode == 2 &&
    (match queueSource k with
     | some w => !b.serving || (b.region w).fenced || (b.region w).halted || (b.region w).inReset
     | none => false)

/-- The queue block in its present cycle. -/
def Chip.queueNow (b : Chip) (k : Nat) : Queue := (b.settleQueue k).queue k

/-- The queue status entry of a queue block, in the state of the present cycle. -/
def Chip.queueStatus (b : Chip) (k : Nat) : Nat :=
  let q := b.queueNow k
  let x := q.readShow
  q.hi % 512 * 2 ^ 48 + q.lo % 512 * 2 ^ 39 + q.mode % 8 * 2 ^ 33 + q.width % 4 * 2 ^ 31 + flag q.disabled 30 +
    flag (b.srcDown k) 29 + flag x.hi 28 + flag x.lo 27 + flag q.writeShow.held 26 + flag x.held 25 +
    flag (b.queueScheduled k) 24 + q.writeShow.pack % 16 * 2 ^ 16 + x.depth % 512

/-- q_wrdy, q_wlevel, q_rrdy and q_rlevel; all outputs of an unused block are 0 (R179). -/
def Chip.writeReady (b : Chip) (k : Nat) : Bool := (b.queue k).mode != 0 && (b.queueNow k).wrdy
def Chip.writeLevel (b : Chip) (k : Nat) : Nat := if (b.queue k).mode = 0 then 0 else (b.queueNow k).writeShow.depth
def Chip.readReady (b : Chip) (k : Nat) : Bool := (b.queue k).mode != 0 && !(b.queueNow k).readShow.held
def Chip.readLevel (b : Chip) (k : Nat) : Nat := if (b.queue k).mode = 0 then 0 else (b.queueNow k).readShow.depth

/-- q_rvalid, q_rdata and q_rmask: a popped word, in the one cycle that carries it. -/
def Chip.popped (b : Chip) (k : Nat) : Option (BitVec 128 × BitVec 16) :=
  let q := b.queueNow k
  if q.mode = 0 then none
  else (q.out.find? fun o => o.1 == b.sideCycle (q.reader k)).map fun o => o.2

/-- q_wm_hi and q_wm_lo on the read side, and the write side's copy. -/
def Chip.watermarkFlags (b : Chip) (k : Nat) : Bool × Bool :=
  let q := b.queueNow k
  (q.mode != 0 && q.readShow.hi, q.mode != 0 && q.readShow.lo)
def Chip.watermarkCopy (b : Chip) (k : Nat) : Bool × Bool :=
  let q := b.queueNow k
  let x := q.writeShow
  if q.mode = 1 then b.watermarkFlags k else (q.mode != 0 && x.hi, q.mode != 0 && x.lo)

/-- q_reset on the write side and on the read side: 1 for one cycle of that side's clock. -/
def Chip.queueResetW (b : Chip) (k : Nat) : Bool :=
  let q := b.queue k
  q.mode != 0 && q.resetW == some (b.sideCycle (q.writer k))
def Chip.queueResetR (b : Chip) (k : Nat) : Bool :=
  let q := b.queue k
  q.mode != 0 && q.resetR == some (b.sideCycle (q.reader k))

/-- The dual-clock queue block that region w writes as qx_*[S][j] (R195). -/
def qxBlock (w side j : Nat) : Option Nat := (neighbor w side).map fun home => queueKey home (opposite side * 4 + j)

end Sys2Proof.Machine
end

