-- ==== Sys2Proof/Machine/Debug.lean ====
section
/-! DEFINITION. Debug: the JTAG port, the session, halt, resume and step, Lantern's monitor, and the observe reads
(R439 to R453, R461 to R468). -/

namespace Sys2Proof.Machine

open Sys2Proof

/-! ### JTAG and the session (R439, R440) -/

/-- The TAP answers in every state but OFF. -/
def Chip.tapOn (b : Chip) : Bool := b.dev.st != .off

def Chip.setDr (b : Chip) (v : BitVec 72) : Chip := if b.tapOn then { b with dbg := { b.dbg with dr := v } } else b

def execIdcode (s : State) : Out := act s fun b => b.setDr 0x2AE81C4B#72

def execSamplePreload (balls : Bytes) (s : State) : Out :=
  act s fun b => if b.tapOn then { b with dbg := { b.dbg with boundary := balls } } else b

/-- The codes that select another register than BYPASS. -/
def jtagKnown (code : BitVec 8) : Bool := code == 0x01#8 || code == 0x02#8 || code == 0x20#8 || code == 0x21#8

def execBypass (code : BitVec 8) (bit : Bool) (s : State) : Out :=
  act s fun b => if jtagKnown code then b else b.setDr (if bit then 1#72 else 0#72)

/-- A session ends: the watchdog hold is cleared and the full timeout reloaded; halted partitions stay halted (R431,
R440). -/
def Chip.endSession (b : Chip) : Chip :=
  if b.dbg.session then
    let b := { b with dbg := { b.dbg with session := false } }
    let b := if b.lantern.held then { b with lantern := { b.lantern with held := false } }.reloadWatchdog else b
    b.logEvent { code := 0x40F00004, sev := 1 }
  else b

def Chip.openSession (b : Chip) : Chip :=
  if b.dbg.session then b
  else { b with dbg := { b.dbg with session := true } }.logEvent { code := 0x40F00003, sev := 1 }

/-- A write of 0x2C00:01. -/
def Chip.setAccess (b : Chip) (v : Nat) : Chip := if v = 1 then b.openSession else b.endSession

def execDebugSessionOpen (q : Req) (s : State) : Out :=
  act s fun b => b.writeRow q 0x2C00 1 1 fun b => .ok (b.setAccess 1)

def execDebugSessionClose (q : Req) (s : State) : Out :=
  act s fun b => b.writeRow q 0x2C00 1 0 fun b => .ok (b.setAccess 0)

def execTapReset (s : State) : Out := act s fun b => if b.tapOn then b.endSession else b

/-- The debug port's data path is open: a session, P19 on, and C38 running (R17, R440). -/
def Chip.debugPath (b : Chip) : Bool := b.dbg.session && b.fromReduced && b.debugOn

/-! ### Run control (R443 to R448, R467) -/

/-- The halt grid: the first multiple of 64 at least 256 ticks after t. -/
def haltGrid (t : Nat) : Nat := nextMultiple (t + 256) 64

/-- The halt state of the partition of a region, or of a lone region. -/
def Chip.haltOf (b : Chip) (r : Nat) : HaltState :=
  match b.regionPart r with
  | some p => (b.part p).halt
  | none => (b.region r).lone

/-- A halt is requested while a commit of the partition is busy: before t_c - 64 a commit in mode 1 or 2 ends with status 7 (R368). -/
def Chip.haltMeetsCommit (b : Chip) (r : Nat) : Chip :=
  match b.loader.commit, b.regionPart r with
  | some c, some p =>
    if c.phase = 0 ∧ c.mask.getLsbD p = true ∧ (c.mode = 1 ∨ c.mode = 2) then b.endCommit 7 false else b
  | _, _ => b

/-- A halt becomes pending at t_h; a command is busy with it, or a trigger has set it. -/
def Chip.planHalt (b : Chip) (r t : Nat) (cmd : Bool) : Chip :=
  let b := b.haltMeetsCommit r
  match b.regionPart r with
  | some p => b.modPart p fun q => { q with halt := .pending, haltAt := some t, runCmd := if cmd then some r else none }
  | none => b.modRegion r fun g => { g with lone := .pending, loneAt := some t, loneCmd := cmd }

/-- Action 1 of 0x2E2D. -/
def Chip.startHalt (b : Chip) (o r : Nat) : Chip :=
  if b.haltOf r ≠ .running then b.setStatus 0x2E2D o 2
  else if (b.region r).fenced then b.setStatus 0x2E2D o 3
  else if !b.serving then b.setStatus 0x2E2D o 4
  else (b.beginCmd 0x2E2D o).planHalt r (haltGrid b.now) true

/-- The period P of a partition (R97). -/
def Chip.haltPeriod (b : Chip) (p : Nat) : Nat :=
  let base1 := (b.partRegions p).any fun r => (b.region r).slots.any entryBase
  if base1 then 2 ^ (b.part p).k * 975 else 2 ^ (b.part p).k

/-- The restart tick (R97, R446). -/
def Chip.restartTickOf (b : Chip) (r : Nat) : Nat :=
  match b.tabledPart r with
  | some p => (b.part p).haltTick + nextMultiple (b.now - (b.part p).haltTick) (b.haltPeriod p)
  | none => haltGrid b.now

/-- A restart is planned; n is the length of a step. -/
def Chip.planRestart (b : Chip) (r : Nat) (n : Option Nat) : Chip :=
  let t := b.restartTickOf r
  let st : HaltState := if n.isSome then .stepping else .halted
  match b.regionPart r with
  | some p => b.modPart p fun q => { q with halt := st, restartAt := some t, stepTicks := n, runCmd := some r }
  | none => b.modRegion r fun g => { g with lone := st, loneRestart := some t, loneStep := n, loneCmd := true }

/-- A contract that a step would take off its grid (R447). -/
def Chip.suspendedAt (b : Chip) (r : Nat) : Bool :=
  match b.regionPart r with
  | some p => (b.part p).status == .suspended
  | none => false

/-- Actions 2 and 3 of 0x2E2D: a lone region that is fenced does not restart; of a partition the other regions do (R448). -/
def Chip.startResume (b : Chip) (o r : Nat) (n : Option Nat) : Chip :=
  if b.haltOf r ≠ .halted then b.setStatus 0x2E2D o 2
  else if (b.regionPart r).isNone && (b.region r).fenced then b.setStatus 0x2E2D o 3
  else if !b.serving then b.setStatus 0x2E2D o 4
  else if n.isSome && b.suspendedAt r then b.setStatus 0x2E2D o 5
  else (b.beginCmd 0x2E2D o).planRestart r n

/-- The serial of 0x2E2D; the lowest status of the conditions that hold (R511). -/
def Chip.startRun (b : Chip) (o : Nat) : Chip :=
  let r := b.reg 0x2E2D 4
  match b.reg 0x2E2D 3 with
  | 1 => b.startHalt o r
  | 2 => b.startResume o r none
  | 3 => b.startResume o r (some (b.reg 0x2E2D 5))
  | _ => b.setStatus 0x2E2D o 2

def execHalt (q : Req) (serial r : Nat) (s : State) : Out :=
  act s fun b => b.commandRow q 0x2E2D serial [(3, 1), (4, r)] Chip.startRun

def execResume (q : Req) (serial r : Nat) (s : State) : Out :=
  act s fun b => b.commandRow q 0x2E2D serial [(3, 2), (4, r)] Chip.startRun

def execStep (q : Req) (serial r n : Nat) (s : State) : Out :=
  act s fun b => b.commandRow q 0x2E2D serial [(3, 3), (4, r), (5, n)] Chip.startRun

/-- The islands of regions are gated from their first edge at or after the present tick; the engine checks no slot (R142, R443, R444). -/
def Chip.gateRegions (b : Chip) (l : List Nat) : Chip :=
  b.forEach l fun b r =>
    let c := if b.onEdge r then b.isle r - 1 else b.isle r
    ((b.stopSlots r).gateIsle r c).modRegion r fun g => { g with halted := true, haltedAt := b.now }

/-- The vane freeze option takes effect on a region's banks (R445). -/
def Chip.freezeVanes (b : Chip) (r opt : Nat) : Chip :=
  b.forEach (regionBanks r) fun b k =>
    match opt with
    | 0 => b
    | 1 => b.flushBank k
    | _ => b.parkBank k

/-- An event of run control: the partition, or 0x20 and the lone region (R468). -/
def Chip.logRun (b : Chip) (unit code : Nat) : Chip := b.logEvent { code := evCode 4 15 unit code, sev := 1 }

/-- A contract event with its frame number (R105, R481). -/
def Chip.logFrame (b : Chip) (p code : Nat) : Chip :=
  let f := b.now / 2 ^ (b.part p).k
  b.logEvent (b.partEv p (evCode 4 6 p code) 1 (f % 2 ^ 32) (f / 2 ^ 32) 0)

/-- t_h of a partition (R443, R445): an ARMED contract becomes SUSPENDED; a re-arm or a partition reset in progress ends. -/
def Chip.haltPart (b : Chip) (p : Nat) : Chip :=
  let i := 0x2C08 + p
  let opt := b.reg i 2
  let pd := b.reg i 3 == 1
  let be := b.reg 0x2C00 4 == 1
  let hold := b.reg 0x2C00 3 == 1 && b.belfry.frozenCorr.isNone
  let b := if hold then b.holdCorr else b
  let b := (b.endPartReset p 3).endRearm p 3
  let b := b.gateRegions (b.partRegions p)
  let b := b.forEach (b.partRegions p) fun b r => b.freezeVanes r opt
  let cmd := (b.part p).runCmd.isSome
  let now := b.now
  let b := b.modPart p fun q =>
    { q with
      halt := .halted
      haltAt := none
      stepTicks := none
      haltTick := now
      vaneOpt := opt
      pdFrozen := pd
      beFrozen := be
      runCmd := none }
  let b := (b.setReg i 4 b.now).count i 6
  let b := if (b.part p).status = .armed then (b.setContract p .suspended).logFrame p 0x22 else b.logRun p 1
  if cmd then b.endCmd 0x2E2D 0 else b

/-- t_h of a lone region, with vane option 1. -/
def Chip.haltLone (b : Chip) (r : Nat) : Chip :=
  let cmd := (b.region r).loneCmd
  let b := (b.gateRegions [r]).freezeVanes r 1
  let b := b.modRegion r fun g => { g with lone := .halted, loneAt := none, loneStep := none, loneCmd := false }
  let b := b.logRun (0x20 + r) 1
  if cmd then b.endCmd 0x2E2D 0 else b

/-- A commit of the partition is in its window (R368). -/
def Chip.inWindow (b : Chip) (p : Nat) : Bool :=
  match b.loader.commit with
  | some c => decide (1 ≤ c.phase) && c.mask.getLsbD p
  | none => false

/-- HALT_TICK (R443, R448): while a commit of the partition is in its window the halt waits for the next grid tick. -/
def Chip.haltAtTick (b : Chip) (r : Nat) : Chip :=
  match b.regionPart r with
  | some p =>
    match (b.part p).haltAt with
    | none => b
    | some t =>
      let b := b.upTo t
      if b.inWindow p then b.modPart p fun q => { q with haltAt := some (t + 64) } else b.haltPart p
  | none =>
    match (b.region r).loneAt with
    | none => b
    | some t => (b.upTo t).haltLone r

def execHaltTick (r : Nat) (s : State) : Out := act s fun b => b.haltAtTick r

/-- A region runs again from the cycle in which it halted: accesses in flight deliver in the same cycle, counted from
presentation, as without the halt, and dividers continue (R118, R149, R444). A fenced region does not restart. -/
def Chip.runAgain (b : Chip) (r : Nat) : Chip :=
  let g := b.region r
  let b := b.modRegion r fun g => { g with halted := false }
  if g.fenced then b
  else
    let b := b.startIsle r
    if g.inReset then b else (b.startSlots r).injectQueues r

/-- The regions of a list run again, and those whose partition reset was due are released at their second net-0 edge (R301,
R446). -/
def Chip.runRegions (b : Chip) (l : List Nat) : Chip :=
  let due := l.filter fun r => (b.region r).relDue && !(b.region r).fenced
  let at_ := due.map fun r => (b.secondEdge r b.now, r)
  (b.forEach l Chip.runAgain).inTickOrder at_ Chip.releaseRegion

/-- The restart tick of a partition (R97, R446, R447): frames skipped are added whatever the contract status was (DEDUCED, log entry 127). -/
def Chip.restartPart (b : Chip) (p : Nat) : Chip :=
  let skipped := (b.now - (b.part p).haltTick) / 2 ^ (b.part p).k
  let step := (b.part p).stepTicks
  let t := b.now
  let cmd := (b.part p).runCmd.isSome
  let b := b.modPart p fun q =>
    { q with
      restartAt := none
      pdFrozen := false
      beFrozen := false
      vaneOpt := 0
      halt := if step.isSome then .stepping else .running
      haltAt := step.map fun n => t + n
      runCmd := if step.isSome then q.runCmd else none }
  let b := b.setReg (0x2C08 + p) 5 t
  let b := if (List.range 8).any fun q => (b.part q).halt == .halted then b
    else b.releaseCorr
  let b := if (b.part p).tables then
      b.setReg (0x2521 + p) 0x0E ((b.reg (0x2521 + p) 0x0E + skipped) % 2 ^ 64)
    else b
  let b := if (b.part p).status = .suspended then (b.setContract p .armed).logFrame p 0x23 else b.logRun p 2
  let b := b.runRegions (b.partRegions p)
  if cmd && step.isNone then b.endCmd 0x2E2D 0 else b

/-- The restart tick of a lone region. -/
def Chip.restartLone (b : Chip) (r : Nat) : Chip :=
  let step := (b.region r).loneStep
  let t := b.now
  let cmd := (b.region r).loneCmd
  let b := b.modRegion r fun g =>
    { g with
      loneRestart := none
      lone := if step.isSome then .stepping else .running
      loneAt := step.map fun n => t + n
      loneCmd := step.isSome }
  let b := (b.logRun (0x20 + r) 2).runRegions [r]
  if cmd && step.isNone then b.endCmd 0x2E2D 0 else b

/-- RESTART_TICK (R446). -/
def Chip.restartAtTick (b : Chip) (r : Nat) : Chip :=
  match b.regionPart r with
  | some p =>
    match (b.part p).restartAt with
    | none => b
    | some t => (b.upTo t).restartPart p
  | none =>
    match (b.region r).loneRestart with
    | none => b
    | some t => (b.upTo t).restartLone r

def execRestartTick (r : Nat) (s : State) : Out := act s fun b => b.restartAtTick r

/-! ### Lantern's monitor (R449 to R451) -/

/-- A debug exception: the PC is saved, the LR reservation is cleared, and the monitor runs. -/
def Chip.enterMonitor (b : Chip) (pc : BitVec 32) : Chip :=
  if b.lantern.running && !b.lantern.inMonitor then
    { b with lantern := { b.lantern with inMonitor := true, debugPc := pc, reservation := none, resumeReq := false } }.count
      0x2C02 5
  else b

/-- The monitor returns through the debug PC on the resume request. -/
def Chip.leaveMonitor (b : Chip) : Chip :=
  if b.lantern.inMonitor then { b with lantern := { b.lantern with inMonitor := false, resumeReq := true } } else b

/-- A write of 0x2C02:04. -/
def Chip.monitorRequest (b : Chip) (v : Nat) : Chip :=
  match v with
  | 1 => b.tookFree.enterMonitor (Config.lanternPc b.free)
  | 2 => b.leaveMonitor
  | _ => b

def execMonitorEnter (q : Req) (s : State) : Out :=
  act s fun b => b.writeRow q 0x2C02 4 1 fun b => .ok (b.monitorRequest 1)

def execMonitorResume (q : Req) (s : State) : Out :=
  act s fun b => b.writeRow q 0x2C02 4 2 fun b => .ok (b.monitorRequest 2)

def execEbreak (pc : BitVec 32) (s : State) : Out :=
  act s fun b => if b.reg 0x2C02 6 = 1 then b.enterMonitor pc else b

def execBreakpointMatch (unit : Nat) (pc : BitVec 32) (s : State) : Out :=
  act s fun b => if unit < 4 then b.enterMonitor pc else b

/-- A write of 0x2C02:03 (R431). -/
def Chip.setHold (b : Chip) (v : Nat) : Chip :=
  if v = 1 then
    let left := b.watchdogLeft
    { b with lantern := { b.lantern with
        held := true
        remaining := left
        heldAt := if b.lantern.held then b.lantern.heldAt else some b.now } }
  else if b.lantern.held then { b with lantern := { b.lantern with held := false } }.reloadWatchdog
  else b

def execWatchdogHold (q : Req) (v : Bool) (s : State) : Out :=
  act s fun b => b.writeRow q 0x2C02 3 (if v then 1 else 0) fun b => .ok (b.setHold (if v then 1 else 0))

/-! ### Observe reads (R452, R453) -/

/-- The head of a queue block: 18 bytes, while its region is halted. -/
def Chip.queueHead (b : Chip) (r k : Nat) : Except Nat Bytes :=
  if !(b.region r).halted then .error 0x08000022
  else
    let q := b.queueNow (queueKey r k)
    match q.words with
    | (d, m) :: _ =>
      .ok (if q.readDepth = 0 then toBytes 18 0 else toBytes 16 d.toNat ++ toBytes 2 m.toNat)
    | [] => .ok (toBytes 18 0)

/-- The vane option under which a region is halted: 1 outside every partition. -/
def Chip.haltOption (b : Chip) (r : Nat) : Nat :=
  match b.regionPart r with
  | some p => (b.part p).vaneOpt
  | none => 1

/-- The head of a capture FIFO, while the bank's region is halted with vane option 1 or 2. -/
def Chip.captureHead (b : Chip) (bb n : Nat) : Except Nat Bytes :=
  let r := bankRegion bb
  if !(b.region r).halted || b.haltOption r == 0 then .error 0x08000022
  else .ok (toBytes 4 (((b.vane (bb * 64 + n)).fifo.headD 0x60000000#32).toNat))

/-- A read of an entry that is restricted to its readers (R7). -/
def Chip.restrictedRead (b : Chip) (q : Req) (idx sub : Nat) (r : Chip → Except Nat Bytes) : Chip :=
  b.request q fun b =>
    match DictTable.find idx sub with
    | none => b.answer q.owner (.abort 0x06090011)
    | some e =>
      if !b.mayRead q.owner idx sub e then b.answer q.owner (.abort 0x06010000)
      else
        match r b with
        | .error a => b.answer q.owner (.abort a)
        | .ok d => b.answer q.owner (.data d)

def execObserveQueueHead (q : Req) (r k : Nat) (s : State) : Out :=
  act s fun b => b.restrictedRead q (0x2C60 + r) (k + 1) fun b => b.queueHead r k

def execObserveCaptureHead (q : Req) (bb n : Nat) (s : State) : Out :=
  act s fun b => b.restrictedRead q (0x2C80 + bb) (n + 1) fun b => b.captureHead bb n

end Sys2Proof.Machine
end

