-- ==== Sys2Proof/Machine/Trace.lean ====
section
/-! DEFINITION. Trace: stimulus ports, probe packets, the merge FIFO, the sinks, triggers, and the debug port's drain
(R442, R454 to R460, R464, R465). -/

namespace Sys2Proof.Machine

open Sys2Proof

/-- A counter of 64 bits. -/
def Chip.count64 (b : Chip) (idx sub : Nat) : Chip := b.setReg idx sub ((b.reg idx sub + 1) % 2 ^ 64)

/-- The 16-byte slot of a packet (R456, R458). -/
def Packet.bytes (p : Packet) : Bytes :=
  let d := toBytes 1 (p.kind * 32 + (p.len - 1)) ++ toBytes 1 p.port ++ toBytes 8 p.time ++ toBytes p.len p.payload.toNat
  d ++ List.replicate (16 - d.length) 0#8

/-- Packets that the merge FIFO holds. -/
def fifoSize : Nat := 64

/-- A loss packet takes its place as soon as there is space, before any later packet (R458). -/
def Debug.placeLoss (d : Debug) : Debug :=
  if 0 < d.lossDue ∧ d.fifo.length < fifoSize then
    { d with
      fifo := d.fifo ++ [{ kind := 4, len := 4, port := 0, time := 0, payload := BitVec.ofNat 32 (sat32 d.lossDue) }]
      lossDue := 0 }
  else d

/-- The sink cannot hold the packet at the head of the FIFO: it is lost, and a loss packet before any later one carries the number;
a loss packet keeps its place (R458, R459). -/
def dropAtSink : List Packet → List Packet × Nat
  | l :: p :: rest =>
    if l.kind = 4 then
      let n := if p.kind = 4 then p.payload.toNat else 1
      ({ l with payload := BitVec.ofNat 32 (sat32 (l.payload.toNat + n)) } :: rest, if p.kind = 4 then 0 else 1)
    else ({ kind := 4, len := 4, port := 0, time := 0, payload := 1#32 } :: p :: rest, 1)
  | [l] => if l.kind = 4 then ([l], 0) else ([{ kind := 4, len := 4, port := 0, time := 0, payload := 1#32 }], 1)
  | [] => ([], 0)

/-- A packet is lost: counted in 0x2C10:0A, and a loss packet is due. -/
def Chip.losePacket (b : Chip) : Chip :=
  { b with dbg := { b.dbg with lossDue := b.dbg.lossDue + 1 } }.count 0x2C10 0x0A

/-- Trace runs. -/
def Chip.tracing (b : Chip) : Bool := b.dbg.enabled && b.dbg.state == 1 && b.debugOn

/-- A packet is emitted while trace runs (R458); an injected loss drops it (R469). -/
def Chip.emit (b : Chip) (p : Packet) : Chip :=
  if !b.tracing then b
  else if b.isArmed 0x2DF0 2 0 then (b.applyArmed 0x2DF0 2 0 0x40F00006).losePacket
  else
    let d := b.dbg.placeLoss
    let b := { b with dbg := d }
    if d.fifo.length < fifoSize then { b with dbg := { d with fifo := d.fifo ++ [p] } } else b.losePacket

/-! ### Sources -/

/-- LANTERN_STIMULUS (R454): a write of 1, 2 or 4 bytes to a port's register. -/
def execLanternStimulus (port len : Nat) (data : BitVec 32) (t : Nat) (s : State) : Out :=
  act s fun b =>
    let b := b.upTo t
    if bit (b.reg 0x2C10 6) port then b.emit { kind := 0, len := len, port := port, time := b.now, payload := data } else b

/-- FABRIC_STIMULUS (R444, R455): the stimulus ports of a region that does not run emit nothing. -/
def execFabricStimulus (r port len : Nat) (data : BitVec 32) (t : Nat) (s : State) : Out :=
  act s fun b =>
    let b := b.upTo t
    if b.fabricRuns r then
      let b := { b with dbg := { b.dbg with portAt := Tab.set b.dbg.portAt port b.now } }
      if bit (b.reg 0x2C10 7) port then
        b.emit { kind := 1, len := len, port := port, time := b.tbCount r, payload := data }
      else b
    else b

/-- The output that a probe selection names, encoded as in 0x2C20; 0xFFFF is constant 0 (R133, R457). -/
def Chip.probeOf (b : Chip) (v : Nat) : Bool := decide (v < 256) && b.concentrator (v / 8) (v % 8)

/-- The selections of 0x2C10:08. -/
def Chip.probeSelections (b : Chip) : List Nat :=
  let d := Tab.get (List.replicate 16 0xFF#8) b.dict.octets (key 0x2C10 8)
  (List.range 8).map fun j => ofBytes ((d.drop (2 * j)).take 2)

/-- The sample of the probe unit: bit j for selection j (R457). -/
def Chip.probeSample (b : Chip) : BitVec 8 :=
  BitVec.ofNat 8 (maskOf 8 fun j => b.probeOf (b.probeSelections.getD j 0xFFFF))

/-- The triggers' concentrator outputs at a sample: the tick of each rise is kept (R460). -/
def Chip.sampleTriggers (b : Chip) : Chip :=
  b.forEach (List.range 4) fun b n =>
    let v := b.probeOf (b.reg (0x2C18 + n) 2 % 65536)
    { b with dbg := { b.dbg with
      roseAt := if v && !Tab.get false b.dbg.trigLevel n then Tab.set b.dbg.roseAt n b.now else b.dbg.roseAt
      trigLevel := Tab.set b.dbg.trigLevel n v } }

/-- PROBE_TRACE_SAMPLE (R457): a packet at each tick whose sample differs from the previous one. -/
def execProbeTraceSample (t : Nat) (s : State) : Out :=
  act s fun b =>
    let b := (b.upTo t).sampleTriggers
    let v := b.probeSample
    let was := b.dbg.lastProbe
    let b := { b with dbg := { b.dbg with lastProbe := v } }
    if v = was then b
    else b.emit { kind := 2, len := 1, port := 0, time := b.now, payload := BitVec.setWidth 32 v }

/-! ### Enable and the sinks (R458, R459) -/

/-- A write of 0x2C10:02: trace starts afresh; when it is disabled the trace buffer's contents are undefined. -/
def Chip.setTrace (b : Chip) (v : Nat) : Chip :=
  if v = 1 then
    if b.dbg.enabled then b
    else
      { b.setReg 0x2C10 9 0 with dbg := { b.dbg with
          enabled := true
          state := 1
          fifo := []
          lossDue := 0
          writeSlot := 0
          dramPos := 0
          line := [] } }
  else if b.dbg.enabled then
    { b.tookFree with dbg := { b.dbg with enabled := false, state := 0, slots := [], epoch := b.free + 1 } }
  else b

def execTraceEnable (q : Req) (v : Bool) (s : State) : Out :=
  act s fun b => b.writeRow q 0x2C10 2 (if v then 1 else 0) fun b => .ok (b.setTrace (if v then 1 else 0))

/-- At the end of the sink policy 0 wraps and policy 1 stops trace. -/
def Chip.sinkEnd (b : Chip) (wrap : Debug → Debug) : Chip :=
  if b.reg 0x2C10 3 = 1 then { b with dbg := { b.dbg with state := 2 } } else { b with dbg := wrap b.dbg }

/-- A slot of the trace buffer takes a packet. -/
def Chip.bufferSlot (b : Chip) (d : Bytes) : Chip :=
  let n := b.dbg.writeSlot
  let b := { b with dbg := { b.dbg with
    slots := Tab.set b.dbg.slots n (BitVec.ofNat 128 (ofBytes d))
    writeSlot := n + 1 } }
  if n + 1 = 65536 then b.sinkEnd fun x => { x with writeSlot := 0 } else b

/-- The hub takes no request of the trace path now: it waits (R257, R445, R459). -/
def Chip.traceWaits (b : Chip) : Bool :=
  b.reg 0x2C10 1 == 2 && decide (48 ≤ b.dbg.line.length) && !b.isArmed 0x2DF0 1 0 &&
    !b.hubReady 70 (b.reg 0x2C10 4 + b.dbg.dramPos) true

/-- A line of the DRAM sink goes out as a best-effort request of O6; an error code stops trace. -/
def Chip.sinkLine (b : Chip) (d : Bytes) (err : Nat) : Chip :=
  let a := b.reg 0x2C10 4 + b.dbg.dramPos
  let inj := b.isArmed 0x2DF0 1 0
  let b := if inj then b.applyArmed 0x2DF0 1 0 0x40F00005 else b
  let (b, code) : Chip × Nat :=
    if inj then (b, 1)
    else if err ≠ 0 then (b, err)
    else if b.channelTakes a = 8 then (b, 7)
    else let (b, x) := b.serve 6 true a (fun _ => true) d 64; (b, x.code)
  let b := { b with dbg := { b.dbg with dramPos := b.dbg.dramPos + 64, line := [] } }
  if code ≠ 0 then
    { b with dbg := { b.dbg with state := 3 } }.logEvent { code := 0x40F00005, sev := 3, inj := inj }
  else if b.reg 0x2C10 5 ≤ b.dbg.dramPos then b.sinkEnd fun x => { x with dramPos := 0 }
  else b

/-- The DRAM sink takes a slot: four fill a line. -/
def Chip.dramSlot (b : Chip) (d : Bytes) (err : Nat) : Chip :=
  let l := b.dbg.line ++ d
  if l.length < 64 then { b with dbg := { b.dbg with line := l } } else b.sinkLine l err

/-- The sink takes a slot (R459). -/
def Chip.sinkTake (b : Chip) (d : Bytes) (err : Nat) : Chip :=
  match b.reg 0x2C10 1 with
  | 1 => (b.bufferSlot d).count64 0x2C10 9
  | 2 => (b.dramSlot d err).count64 0x2C10 9
  | 3 => { b with dbg := { b.dbg with sink := b.dbg.sink ++ d } }.count64 0x2C10 9
  | _ => b

/-- The debug port's FIFO of 4 KB has no room for a slot. -/
def Chip.sinkFull (b : Chip) : Bool := b.reg 0x2C10 1 == 3 && decide (4096 < b.dbg.sink.length + 16)

/-- TRACE_PACKET_WRITE (R458): one packet goes to the sink; a loss packet carries the tick at which it is written. A full debug-port
FIFO drops the packet. -/
def Chip.writePacket (b : Chip) (err : Nat) : Chip :=
  if b.dbg.state = 2 ∨ b.dbg.state = 3 ∨ b.debugOn = false ∨ b.traceWaits = true then b
  else if b.sinkFull then
    let x := dropAtSink b.dbg.placeLoss.fifo
    { b with dbg := { b.dbg.placeLoss with fifo := x.1 } }.countBy 0x2C10 0x0A x.2
  else
    match b.dbg.placeLoss.fifo with
    | [] => b
    | p :: rest =>
      let p := if p.kind = 4 then { p with time := b.now } else p
      let d := { b.dbg.placeLoss with fifo := rest }
      let b := { b with dbg := d.placeLoss }
      b.sinkTake p.bytes err

def execTracePacketWrite (err t : Nat) (s : State) : Out := act s fun b => (b.upTo t).writePacket err

/-- TRDRAIN (R442): up to 8 bytes of the sink, oldest in [7:0], and their number in [71:64]. -/
def Chip.drain (b : Chip) : Chip :=
  if !b.debugPath then b.setDr 0#72
  else
    let d := b.dbg.sink.take 8
    let b := { b with dbg := { b.dbg with sink := b.dbg.sink.drop 8 } }
    b.setDr (BitVec.ofNat 72 (d.length * 2 ^ 64 + ofBytes d))

def execTrdrain (s : State) : Out := act s Chip.drain

/-- A slot of the trace buffer; one that no packet has filled since trace was last disabled is undefined (R459). -/
def Chip.traceSlot (b : Chip) (n : Nat) : BitVec 128 :=
  match b.dbg.slots.find? fun (x : Nat × BitVec 128) => x.1 == n with
  | some x => x.2
  | none => Config.traceSlot (b.dbg.epoch * 65536 + n)

/-! ### Triggers (R460) -/

/-- The trigger's halt action meets a partition that is halted or whose halt is pending: ignored, the trigger stays armed
(R448). -/
def Chip.triggerBlocked (b : Chip) (n : Nat) : Bool :=
  bit (b.reg (0x2C18 + n) 3) 0 && b.haltOf (b.reg (0x2C18 + n) 4) != .running

/-- The source of a trigger matches at tick t: the tick count, the rise of a concentrator output in the sample of t, a miss of the
partition, or a write to the fabric port (R460). -/
def Chip.triggerMatches (b : Chip) (n t : Nat) : Bool :=
  let op := b.reg (0x2C18 + n) 2
  match b.reg (0x2C18 + n) 1 with
  | 1 => op == t
  | 2 => (b.dbg.roseAt.find? fun x => x.1 == n).any fun x => x.2 == t
  | 3 => (b.dbg.missAt.find? fun x => x.1 == op % 8).any fun x => x.2 == t
  | 4 => (b.dbg.portAt.find? fun x => x.1 == op % 64).any fun x => x.2 == t
  | _ => false

/-- A trigger fires: its actions, and it disarms. -/
def Chip.fireTrigger (b : Chip) (n t : Nat) : Chip :=
  let i := 0x2C18 + n
  let act := b.reg i 3
  let r := b.reg i 4
  let b := b.setReg i 5 0
  let b := if bit act 0 && b.serving && !(b.region r).fenced then b.planHalt r (haltGrid t) false else b
  let b := if bit act 1 then b.setTrace 1 else b
  let b := if bit act 3 then
      b.emit { kind := 3, len := 1, port := n, time := t, payload := BitVec.ofNat 32 (b.reg i 1) }
    else b
  if bit act 2 then b.setTrace 0 else b

/-- TRIGGER_FIRE: an armed trigger whose source matches. -/
def Chip.trigger (b : Chip) (n t : Nat) : Chip :=
  if b.debugOn = true ∧ b.reg (0x2C18 + n) 5 = 1 ∧ b.triggerMatches n t = true ∧ b.triggerBlocked n = false then
    (b.upTo t).fireTrigger n t
  else b

def execTriggerFire (n t : Nat) (s : State) : Out := act s fun b => b.trigger n t

end Sys2Proof.Machine
end

