-- ==== Sys2Proof/Machine/Inject.lean ====
section
/-! DEFINITION. The injection commands: the write of an inject entry to the targets that stand in the object's target
entries (R78, R106, R136, R155, R177, R199, R238, R267, R295, R318, R350, R382, R408, R438, R469, R484 to R488). -/

namespace Sys2Proof.Machine

open Sys2Proof

/-! ### Control (R486) -/

/-- A write of 0x2DFF:01. -/
def Chip.setInjection (v : Nat) (b : Chip) : Res :=
  .ok (if v = 1 then { b with inject := { b.inject with enabled := true } } else b.disableInjection)

def execInjectionEnable (q : Req) (v : Bool) (s : State) : Out :=
  act s fun b => b.writeRow q 0x2DFF 1 (flag v 0) (Chip.setInjection (flag v 0))

/-- A register that the detectors read. -/
def Chip.override (idx sub v : Nat) (b : Chip) : Res := .ok (b.setReg idx sub v)

def execInjectSelfTestFailure (q : Req) (v : BitVec 64) (s : State) : Out :=
  act s fun b => b.writeRow q 0x2D00 1 v.toNat (Chip.override 0x2D00 1 v.toNat)
def execInjectClosingTestCutShort (q : Req) (v : Nat) (s : State) : Out :=
  act s fun b => b.writeRow q 0x2D00 2 v (Chip.override 0x2D00 2 v)
def execInjectSourceLoss (q : Req) (v : Bool) (s : State) : Out :=
  act s fun b => b.writeRow q 0x2D60 1 (flag v 0) (Chip.override 0x2D60 1 (flag v 0))
def execInjectPpsDisplacement (q : Req) (v : BitVec 32) (s : State) : Out :=
  act s fun b => b.writeRow q 0x2D60 2 v.toNat (Chip.override 0x2D60 2 v.toNat)
def execInjectDimmTemperature (q : Req) (v : BitVec 16) (s : State) : Out :=
  act s fun b => b.writeRow q 0x2D80 3 v.toNat (Chip.override 0x2D80 3 v.toNat)
def execInjectDimmSensorFailure (q : Req) (v : Bool) (s : State) : Out :=
  act s fun b => b.writeRow q 0x2D80 4 (flag v 0) (Chip.override 0x2D80 4 (flag v 0))
def execInjectSensorTemperature (q : Req) (v : BitVec 16) (s : State) : Out :=
  act s fun b => b.writeRow q 0x2DE0 2 v.toNat (Chip.override 0x2DE0 2 v.toNat)

/-! ### Fabric (R136) and islands (R155) -/

/-- 0x2D10:03: one stall of the next switch; a second write before it has no further effect. -/
def Chip.injectStall (v : Nat) (b : Chip) : Res :=
  let r := b.reg 0x2D10 1
  let n := b.reg 0x2D10 2
  .ok (if v = 0 ∨ b.isArmed 0x2D10 n r = true then b else b.armInject 0x2D10 n r 0)

def execInjectClockSwitchStall (q : Req) (s : State) : Out :=
  act s fun b => b.writeRow q 0x2D10 3 1 (Chip.injectStall 1)

/-- 0x2D50:02: the unlock indicator of the target rises; while the target is fenced there is no further effect. -/
def Chip.injectUnlock (v : Nat) (b : Chip) : Res :=
  let r := b.reg 0x2D50 1
  .ok (if v = 0 ∨ (b.region r).fenced = true then b else (b.injected (evCode 3 5 r 1)).lockLost r 1 true)

def execInjectUnlock (q : Req) (s : State) : Out :=
  act s fun b => b.writeRow q 0x2D50 2 1 (Chip.injectUnlock 1)

/-! ### Memories (R177) -/

/-- 0x2D20:04: the bits flip, and the injection waits for the next read of the word. In bypass mode the data changes and
nothing detects it. -/
def Chip.injectMemory (code : Nat) (b : Chip) : Res :=
  let r := b.reg 0x2D20 1
  let a := b.reg 0x2D20 2
  let n := b.reg 0x2D20 3
  if a < 2 ^ 31 then
    let k := r * 524288 + a % 524288
    if 40 ≤ n then .error 0x06090030
    else
      let b := b.flipBm k (bmFlipBits code n)
      if b.bmBypass k then .ok (b.count 0x2DFF 3)
      else if (b.bmFlips k).1 = 0#40 then .ok (b.unarmAt 0x2D20 k)
      else .ok (b.armInject 0x2D20 code k n)
  else
    let k := r * 65536 + a % 65536
    let b := b.flipSp k (spFlipBits code n)
    if (b.spFlips k).1 = 0#288 then .ok (b.unarmAt 0x2D20 (2 ^ 32 + k)) else .ok (b.armInject 0x2D20 code (2 ^ 32 + k) n)

def execInjectMemoryBitFlip (q : Req) (s : State) : Out :=
  act s fun b => b.writeRow q 0x2D20 4 1 (Chip.injectMemory 1)
def execInjectMemoryDoubleFlip (q : Req) (s : State) : Out :=
  act s fun b => b.writeRow q 0x2D20 4 2 (Chip.injectMemory 2)

/-! ### Queue blocks (R199) -/

/-- 0x2D30:03: applied in the next cycle of the pointer's clock. -/
def Chip.injectMismatch (which : Nat) (b : Chip) : Res :=
  let k := queueKey (b.reg 0x2D30 1) (b.reg 0x2D30 2)
  let b := b.armInject 0x2D30 which k 0
  .ok (if b.pointerRuns k which then (b.upTo (b.sideTickNext (b.pointerSide k which))).injectQueue k else b)

def execInjectWritePointerMismatch (q : Req) (s : State) : Out :=
  act s fun b => b.writeRow q 0x2D30 3 1 (Chip.injectMismatch 1)
def execInjectReadPointerMismatch (q : Req) (s : State) : Out :=
  act s fun b => b.writeRow q 0x2D30 3 2 (Chip.injectMismatch 2)

/-! ### Slice groups (R238) -/

/-- The target of 0x2D40. -/
def Chip.injectGroup (b : Chip) : Grp := ⟨b.reg 0x2D40 1, b.reg 0x2D40 2⟩

/-- 0x2D40:04. A second flip of the same bits before a read takes the first back. -/
def Chip.injectSlices (code : Nat) (b : Chip) : Res :=
  let g := b.injectGroup
  if code = 1 then .ok (b.armInject 0x2D40 1 (groupKey g.r g.b) 0)
  else
    let space := if code ≤ 3 then 1 else 0
    let i := b.reg 0x2D40 3
    if gmSize space ≤ i then .error 0x06090030
    else
      let k := gmKey g space i
      let n := (b.gmErr g space i).1
      if b.isArmed 0x2D40 code k then .ok ((b.setGmErr k (n - gmFlipCount code)).unarm 0x2D40 code k)
      else .ok ((b.setGmErr k (min 2 (n + gmFlipCount code))).armInject 0x2D40 code k 0)

def execInjectIllegalInstruction (q : Req) (s : State) : Out :=
  act s fun b => b.writeRow q 0x2D40 4 1 (Chip.injectSlices 1)
def execInjectCoefficientBitFlip (q : Req) (s : State) : Out :=
  act s fun b => b.writeRow q 0x2D40 4 2 (Chip.injectSlices 2)
def execInjectCoefficientDoubleFlip (q : Req) (s : State) : Out :=
  act s fun b => b.writeRow q 0x2D40 4 3 (Chip.injectSlices 3)
def execInjectInstructionBitFlip (q : Req) (s : State) : Out :=
  act s fun b => b.writeRow q 0x2D40 4 4 (Chip.injectSlices 4)
def execInjectInstructionDoubleFlip (q : Req) (s : State) : Out :=
  act s fun b => b.writeRow q 0x2D40 4 5 (Chip.injectSlices 5)

/-! ### The schedule engine (R106) -/

/-- 0x2D62:02: causes 3, 8 and 9 at once, with slot index 0xFFFF and tag 0; the others at the next covered cycle of a
matching entry. -/
def Chip.injectMiss (cause : Nat) (b : Chip) : Res :=
  let r := b.reg 0x2D62 1
  if cause = 3 ∨ cause = 8 ∨ cause = 9 then
    .ok ((b.injected (evCode 3 6 r (0x100 + cause))).slotMiss r
      { cause := cause, slot := 0xFFFF, tag := 0, lower := 0, cycle := b.frameCycle r } true)
  else .ok (b.armInject 0x2D62 cause r 0)

def execInjectMissCrossingLate (q : Req) (s : State) : Out :=
  act s fun b => b.writeRow q 0x2D62 2 1 (Chip.injectMiss 1)
def execInjectMissBankConflict (q : Req) (s : State) : Out :=
  act s fun b => b.writeRow q 0x2D62 2 2 (Chip.injectMiss 2)
def execInjectMissUnplannedBank (q : Req) (s : State) : Out :=
  act s fun b => b.writeRow q 0x2D62 2 3 (Chip.injectMiss 3)
def execInjectMissHubNotReady (q : Req) (s : State) : Out :=
  act s fun b => b.writeRow q 0x2D62 2 4 (Chip.injectMiss 4)
def execInjectMissWindowTarget (q : Req) (s : State) : Out :=
  act s fun b => b.writeRow q 0x2D62 2 5 (Chip.injectMiss 5)
def execInjectMissHubLate (q : Req) (s : State) : Out :=
  act s fun b => b.writeRow q 0x2D62 2 6 (Chip.injectMiss 6)
def execInjectMissQueueStall (q : Req) (s : State) : Out :=
  act s fun b => b.writeRow q 0x2D62 2 7 (Chip.injectMiss 7)
def execInjectMissVaneLate (q : Req) (s : State) : Out :=
  act s fun b => b.writeRow q 0x2D62 2 8 (Chip.injectMiss 8)
def execInjectMissSequencerOverrun (q : Req) (s : State) : Out :=
  act s fun b => b.writeRow q 0x2D62 2 9 (Chip.injectMiss 9)

/-! ### Vanes (R78) -/

/-- 0x2D70:02: a fault of the target test point, at once. -/
def Chip.injectVane (code : Nat) (b : Chip) : Res :=
  let tp := b.reg 0x2D70 1
  let k := tpBank tp
  let b := b.injected (evCode 1 7 k (if code = 7 then 8 else code))
  .ok (match code with
    | 1 => b.lateWord tp true
    | 2 => b.disorderWord tp 0 true
    | 3 => b.loseEntry tp 0 true
    | 4 => b.rateViolation tp true
    | 5 => b.contend tp true
    | 6 => b.vccoPark k true
    | _ => b.calibrationLimit tp true)

def execInjectVaneLate (q : Req) (s : State) : Out :=
  act s fun b => b.writeRow q 0x2D70 2 1 (Chip.injectVane 1)
def execInjectVaneOutOfOrder (q : Req) (s : State) : Out :=
  act s fun b => b.writeRow q 0x2D70 2 2 (Chip.injectVane 2)
def execInjectVaneFifoOverflow (q : Req) (s : State) : Out :=
  act s fun b => b.writeRow q 0x2D70 2 3 (Chip.injectVane 3)
def execInjectVaneRateViolation (q : Req) (s : State) : Out :=
  act s fun b => b.writeRow q 0x2D70 2 4 (Chip.injectVane 4)
def execInjectVaneContention (q : Req) (s : State) : Out :=
  act s fun b => b.writeRow q 0x2D70 2 5 (Chip.injectVane 5)
def execInjectVaneVccoFault (q : Req) (s : State) : Out :=
  act s fun b => b.writeRow q 0x2D70 2 6 (Chip.injectVane 6)
def execInjectVaneCalibrationLimit (q : Req) (s : State) : Out :=
  act s fun b => b.writeRow q 0x2D70 2 7 (Chip.injectVane 7)

/-! ### The memory hub (R267) and Cupola (R295) -/

/-- 0x2D80:02: armed for the target channel. -/
def Chip.injectHub (code : Nat) (b : Chip) : Res := .ok (b.armInject 0x2D80 code (b.reg 0x2D80 1) 0)

def execInjectDramCorrectable (q : Req) (s : State) : Out :=
  act s fun b => b.writeRow q 0x2D80 2 1 (Chip.injectHub 1)
def execInjectDramUncorrectable (q : Req) (s : State) : Out :=
  act s fun b => b.writeRow q 0x2D80 2 2 (Chip.injectHub 2)
def execInjectDramCrcError (q : Req) (s : State) : Out :=
  act s fun b => b.writeRow q 0x2D80 2 3 (Chip.injectHub 3)
def execInjectTrainingFailure (q : Req) (s : State) : Out :=
  act s fun b => b.writeRow q 0x2D80 2 4 (Chip.injectHub 4)

/-- 0x2D90:03: armed for the target region; code 2 for the target level. -/
def Chip.injectCupola (code : Nat) (b : Chip) : Res :=
  .ok (b.armInject 0x2D90 code (b.reg 0x2D90 1) (if code = 2 then b.reg 0x2D90 2 else 0))

def execInjectTagFailure (q : Req) (s : State) : Out :=
  act s fun b => b.writeRow q 0x2D90 3 1 (Chip.injectCupola 1)
def execInjectMetadataUncorrectable (q : Req) (s : State) : Out :=
  act s fun b => b.writeRow q 0x2D90 3 2 (Chip.injectCupola 2)
def execInjectMinorOverflow (q : Req) (s : State) : Out :=
  act s fun b => b.writeRow q 0x2D90 3 3 (Chip.injectCupola 3)
def execInjectMajorWrap (q : Req) (s : State) : Out :=
  act s fun b => b.writeRow q 0x2D90 3 4 (Chip.injectCupola 4)
def execInjectCacheCorrectable (q : Req) (s : State) : Out :=
  act s fun b => b.writeRow q 0x2D90 3 5 (Chip.injectCupola 5)

/-! ### The host hub (R318) and the field network (R350) -/

/-- 0x2DA0:03. The overrun of a channel that is disabled waits for its next doorbell while enabled. -/
def Chip.injectHost (code : Nat) (b : Chip) : Res :=
  let h := b.reg 0x2DA0 1
  let c := b.reg 0x2DA0 2
  .ok (match code with
    | 1 => if (b.port h).link = 0 then b else (b.injected (evCode 4 10 h 2)).linkDown h true
    | 2 => b.armInject 0x2DA0 2 (h * 16 + c) 0
    | _ =>
      if (b.dma h c).enable then (b.injected (evCode 4 10 h 5)).dmaOverrun h c true
      else b.armInject 0x2DA0 3 (h * 16 + c) 0)

def execInjectPcieLinkDown (q : Req) (s : State) : Out :=
  act s fun b => b.writeRow q 0x2DA0 3 1 (Chip.injectHost 1)
def execInjectDmaError (q : Req) (s : State) : Out :=
  act s fun b => b.writeRow q 0x2DA0 3 2 (Chip.injectHost 2)
def execInjectDoorbellOverrun (q : Req) (s : State) : Out :=
  act s fun b => b.writeRow q 0x2DA0 3 3 (Chip.injectHost 3)

/-- 0x2DB0:02. The link that code 1 takes down comes back after 10 ms with ECAT_LINK_UP; the watchdog runs in OP only. -/
def Chip.injectField (code : Nat) (b : Chip) : Res :=
  let p := b.reg 0x2DB0 1
  .ok (match code with
    | 1 => if b.ecat.link.getLsbD p then (b.injected (evCode 4 11 p 4)).ecatDown p true else b
    | 2 => if b.ecat.al = .op then b.smWatchdog true else b
    | c => b.armInject 0x2DB0 c 0 0)

def execInjectEcatLinkLoss (q : Req) (s : State) : Out :=
  act s fun b => b.writeRow q 0x2DB0 2 1 (Chip.injectField 1)
def execInjectSmWatchdog (q : Req) (s : State) : Out :=
  act s fun b => b.writeRow q 0x2DB0 2 2 (Chip.injectField 2)
def execInjectEventMissed (q : Req) (s : State) : Out :=
  act s fun b => b.writeRow q 0x2DB0 2 3 (Chip.injectField 3)
def execInjectMailboxRepeat (q : Req) (s : State) : Out :=
  act s fun b => b.writeRow q 0x2DB0 2 4 (Chip.injectField 4)

/-! ### The loader (R382) and Watchtower (R408, R487) -/

/-- 0x2DC0:01; code 4 waits for the next boot. -/
def Chip.injectLoader (code : Nat) (b : Chip) : Res :=
  .ok (if code = 4 then { b with loader := { b.loader with injDir := true } } else b.armInject 0x2DC0 code 0 0)

def execInjectStreamTagFailure (q : Req) (s : State) : Out :=
  act s fun b => b.writeRow q 0x2DC0 1 1 (Chip.injectLoader 1)
def execInjectStreamCutShort (q : Req) (s : State) : Out :=
  act s fun b => b.writeRow q 0x2DC0 1 2 (Chip.injectLoader 2)
def execInjectStandbyLockFailure (q : Req) (s : State) : Out :=
  act s fun b => b.writeRow q 0x2DC0 1 3 (Chip.injectLoader 3)
def execInjectBootDirectoryEmpty (q : Req) (s : State) : Out :=
  act s fun b => b.writeRow q 0x2DC0 1 4 (Chip.injectLoader 4)

/-- 0x2DD0:02: codes 1 to 4 flip bits of the target frame, 5 withholds a heartbeat, 6 corrupts one copy of the pass
pointer. -/
def Chip.injectWatch (code : Nat) (b : Chip) : Res :=
  if code = 5 then .ok (b.armInject 0x2DD0 5 noFrame 0)
  else if code = 6 then
    .ok ({ b with watch := { b.watch with ptr2 := b.watch.ptr + 1 } }.armInject 0x2DD0 6 noFrame 0)
  else
    match frameOf (BitVec.ofNat 32 (b.reg 0x2DD0 1)) with
    | some n => .ok ((b.flipFrame code n).armInject 0x2DD0 code n 0)
    | none => .error 0x06090030

def execInjectFrameBitFlip (q : Req) (s : State) : Out :=
  act s fun b => b.writeRow q 0x2DD0 2 1 (Chip.injectWatch 1)
def execInjectFrameTripleFlip (q : Req) (s : State) : Out :=
  act s fun b => b.writeRow q 0x2DD0 2 2 (Chip.injectWatch 2)
def execInjectFrameAndTwinFlip (q : Req) (s : State) : Out :=
  act s fun b => b.writeRow q 0x2DD0 2 3 (Chip.injectWatch 3)
def execInjectFrameStuckBit (q : Req) (s : State) : Out :=
  act s fun b => b.writeRow q 0x2DD0 2 4 (Chip.injectWatch 4)
def execInjectWithheldHeartbeat (q : Req) (s : State) : Out :=
  act s fun b => b.writeRow q 0x2DD0 2 5 (Chip.injectWatch 5)
def execInjectPassPointerCorruption (q : Req) (s : State) : Out :=
  act s fun b => b.writeRow q 0x2DD0 2 6 (Chip.injectWatch 6)

/-- 0x2DD1:02: applied when Watchtower next reads the CRC of the target frame. -/
def Chip.injectCrc (code : Nat) (b : Chip) : Res :=
  match frameOf (BitVec.ofNat 32 (b.reg 0x2DD1 1)) with
  | some n => .ok (b.armInject 0x2DD1 code n 0)
  | none => .error 0x06090030

def execInjectCrcSingleError (q : Req) (s : State) : Out :=
  act s fun b => b.writeRow q 0x2DD1 2 1 (Chip.injectCrc 1)
def execInjectCrcUncorrectable (q : Req) (s : State) : Out :=
  act s fun b => b.writeRow q 0x2DD1 2 2 (Chip.injectCrc 2)

/-! ### Lantern (R438) and debug (R469) -/

/-- A chip-level or service detection of a monitor that was injected: its condition does not persist. -/
def Chip.injectMonitor (b : Chip) (code sev : Nat) : Chip :=
  let e : Ev := { code := code, sev := sev, inj := true }
  if sev = 5 then (b.injected code).chipFault e else (b.injected code).logEvent e

/-- 0x2DE0:03. A target out of the code's range is refused. -/
def Chip.injectLantern (code : Nat) (b : Chip) : Res :=
  let n := b.reg 0x2DE0 1
  match code with
  | 1 => .ok (b.armInject 0x2DE0 1 n 0)
  | 2 => if 20 ≤ n then .error 0x06090030 else .ok (b.injectMonitor (evCode 4 14 n 5) 5)
  | 3 =>
    if n < 32 then .error 0x06090030
    else if clockToSafe n then .ok (b.injectMonitor (evCode 4 14 n 6) 5)
    else .ok (b.injectMonitor (evCode 4 14 n 7) 3)
  | 4 => .ok (b.expire 0x40E00010 true)
  | 5 => .ok (b.expire 0x40E00011 true)
  | _ => .ok (b.sramCorrect true)

def execInjectSensorFailure (q : Req) (s : State) : Out :=
  act s fun b => b.writeRow q 0x2DE0 3 1 (Chip.injectLantern 1)
def execInjectPowerFault (q : Req) (s : State) : Out :=
  act s fun b => b.writeRow q 0x2DE0 3 2 (Chip.injectLantern 2)
def execInjectClockLoss (q : Req) (s : State) : Out :=
  act s fun b => b.writeRow q 0x2DE0 3 3 (Chip.injectLantern 3)
def execInjectWatchdogExpiry (q : Req) (s : State) : Out :=
  act s fun b => b.writeRow q 0x2DE0 3 4 (Chip.injectLantern 4)
def execInjectSramUncorrectable (q : Req) (s : State) : Out :=
  act s fun b => b.writeRow q 0x2DE0 3 5 (Chip.injectLantern 5)
def execInjectSramCorrectable (q : Req) (s : State) : Out :=
  act s fun b => b.writeRow q 0x2DE0 3 6 (Chip.injectLantern 6)

/-- 0x2DF0:01: trigger 0 fires at once if armed; no event belongs to it. -/
def Chip.injectDebug (code : Nat) (b : Chip) : Res :=
  .ok (if code = 3 then
      if b.reg 0x2C18 5 = 1 ∧ b.triggerBlocked 0 = false then (b.count 0x2DFF 3).fireTrigger 0 b.now else b
    else b.armInject 0x2DF0 code 0 0)

def execInjectTraceSinkError (q : Req) (s : State) : Out :=
  act s fun b => b.writeRow q 0x2DF0 1 1 (Chip.injectDebug 1)
def execInjectTracePacketDrop (q : Req) (s : State) : Out :=
  act s fun b => b.writeRow q 0x2DF0 1 2 (Chip.injectDebug 2)
def execInjectTriggerFire (q : Req) (s : State) : Out :=
  act s fun b => b.writeRow q 0x2DF0 1 3 (Chip.injectDebug 3)

end Sys2Proof.Machine
end

