-- ==== Sys2Proof/Machine/DictRead.lean ====
section
/-! DEFINITION. Reads of the dictionary: the value that each entry shows, with its length, and the reads that have an effect
of their own (R5, R7, R337 to R339, and the object tables of every chapter). -/

namespace Sys2Proof.Machine

open Sys2Proof

/-! ### Codes -/

def HaltState.code : HaltState → Nat
  | .running => 0 | .pending => 1 | .halted => 2 | .stepping => 3

def BelfryState.code : BelfryState → Nat
  | .free => 0 | .locking => 1 | .locked => 2 | .holdover => 3

def ChannelState.code : ChannelState → Nat
  | .empty => 0 | .training => 1 | .ready => 2 | .mappedOut => 3 | .idle => 4 | .selfRefresh => 5

def GroupState.code : GroupState → Nat
  | .stop => 0 | .run => 1 | .wait => 2 | .fault => 3

/-! ### Health and ALERT_N (R424, R425) -/

/-- The health word but for bit 0. -/
def Chip.healthBits (b : Chip) : Nat :=
  let l := b.lantern
  flag l.logLoss 11 + flag (!b.imageConfirmed) 10 + flag l.fwFallback 9 + flag (l.failed != 0#64) 8 + flag l.warning 7 +
    flag l.wdogSeen 6 + flag l.sramCorrected 5 + flag (b.reg 0x2900 0x0C != 0) 4 +
    flag ((List.range 8).any fun p => (b.part p).status == .broken) 3 +
    flag ((List.range 32).any fun r => (b.region r).fenced) 2 + flag (b.dev.st == .safe) 1

/-- ALERT_N is low. -/
def Chip.alertLow (b : Chip) : Bool :=
  (b.dev.st == .boot && (b.dev.bootFault || b.dev.recovery || !b.dev.refClk)) || b.dev.st == .safe ||
    (b.healthBits &&& b.reg 0x2002 4) != 0

/-! ### Values of the numeric entries -/

/-- Objects 0x1001 to 0x1C33 (R346). -/
def Chip.view10 (b : Chip) (idx sub : Nat) : Nat :=
  if idx = 0x1001 then b.errorReg
  else if idx = 0x1018 ∧ sub = 4 then Config.serialNumber.toNat
  else if idx = 0x1C33 then b.reg 0x1C32 sub
  else b.reg idx sub

/-- Objects 0x2001 to 0x2040 (R30, R348, R420, R425, R431, R436). -/
def Chip.view20 (b : Chip) (idx sub : Nat) : Nat :=
  let l := b.lantern
  let slotVersion := fun (x : Slot) => if x.valid then x.version else 0
  match idx, sub with
  | 0x2001, 1 => b.dev.st.code
  | 0x2001, 2 => b.dev.prev.code
  | 0x2001, 3 => b.dev.cause
  | 0x2001, 4 => b.readiness
  | 0x2010, 1 => b.ecat.al.code
  | 0x2010, 2 => b.ecat.code
  | 0x2010, 3 => b.ecat.station
  | 0x2010, 4 => b.ecat.alias_
  | 0x2010, 5 => b.ecat.link.toNat
  | 0x2010, 9 => if b.reg 0x2301 1 = 1 then 0 else 1
  | 0x2020, 1 => flag l.runB 0
  | 0x2020, 2 => b.runningSlot.version
  | 0x2020, 3 => flag b.imageConfirmed 0
  | 0x2020, 4 => slotVersion l.slotA
  | 0x2020, 5 => slotVersion l.slotB
  | 0x2020, 6 => match l.pendingSlot with | some x => flag x 0 | none => 0xFF
  | 0x2020, 7 => l.windowBase
  | 0x2002, 1 => b.healthBits + flag b.alertLow 0
  | 0x2002, 3 => b.aon.faultCode
  | 0x2002, 5 => b.aon.faultState
  | 0x2002, 6 => flag b.aon.powerLoss 0
  | 0x2030, 2 => b.watchdogLeft
  | 0x2030, 3 => b.aon.expiries
  | 0x2030, 4 => flag l.held 0
  | 0x2040, 2 => maskOf 16 fun n => (b.keySlot n).owner.isSome
  | 0x2040, 3 => maskOf 16 fun n => (b.keySlot n).revoked
  | 0x2040, 4 => l.rollback
  | _, _ => b.reg idx sub

/-- Objects 0x2100 and 0x211p (R297, R299); 0x2100:09 is the reader itself. -/
def Chip.view21 (b : Chip) (o idx sub : Nat) : Nat :=
  if idx = 0x2100 then if sub = 9 then o else b.reg idx sub
  else
    let q := b.part (idx - 0x2110)
    match sub with
    | 1 => q.owner
    | 2 => q.claim.toNat
    | 3 => q.regions.toNat
    | 4 => if q.owner = 0xFF then 0 else if q.committed then 2 else 1
    | _ => b.reg idx sub

/-- The loader state 0x2200:01. -/
def Chip.loaderState (b : Chip) : Nat :=
  if b.loader.load.isSome then if b.test.st = 1 then 1 else 2
  else if b.loader.rebuilding ≠ 0#32 then 3
  else 0

/-- The staged-stream object of a partition (R379): a load whose header has passed is loading; the stream of a commit in its
window is committing. -/
def Chip.stagedView (b : Chip) (p sub : Nat) : Nat :=
  let loading : Option StreamHeader := match b.loader.load with
    | some l => match l.hdr with
      | some h => if h.partMask.getLsbD p then some h else none
      | none => none
    | none => none
  match b.stagedOf p, loading with
  | some s, _ =>
    let e := s.section_.find? fun (x : Nat × Nat × BitVec 32 × Nat) => x.1 == p
    match sub with
    | 1 => if (match b.loader.commit with | some c => c.mask.getLsbD p && c.phase != 0 | none => false) then 3 else 2
    | 2 => s.length
    | 3 => s.keyId
    | 4 => match e with | some x => x.2.2.1.toNat | none => 0
    | 5 => match e with | some x => x.2.2.2 | none => 0
    | _ => s.parts.toNat
  | none, some h =>
    match sub with
    | 1 => 1
    | 2 => h.length
    | 3 => h.keyId
    | 4 => (sectionOf h p).2.toNat
    | 5 => 0
    | _ => h.partMask.toNat
  | none, none => 0

/-- Objects 0x2200 to 0x2230 (R376, R377, R379, R380). -/
def Chip.view22 (b : Chip) (o idx sub : Nat) : Nat :=
  match idx, sub with
  | 0x2200, 1 => b.loaderState
  | 0x2200, 9 => b.loader.twinInvalid.toNat
  | 0x2200, 0x0A => b.dev.mode.toNat
  | 0x2210, 1 => Tab.get 0 (b.cmd 0x2210).serials o
  | 0x2230, 1 => flag b.dev.gateLevel 0
  | 0x2230, 2 => flag b.dev.gateDrive 0
  | _, _ =>
    if 0x2220 ≤ idx ∧ idx ≤ 0x2227 ∧ sub ≠ 0 then b.stagedView (idx - 0x2220) sub else b.reg idx sub

/-- Objects 0x2300 to 0x2303 (R45). -/
def Chip.view23 (b : Chip) (idx sub : Nat) : Nat :=
  match idx, sub with
  | 0x2300, 1 => b.belfry.st.code
  | 0x2300, 2 => flag b.imprecise 0
  | 0x2300, 3 => b.now
  | 0x2300, 4 => rawInt 64 b.belfry.offset
  | 0x2300, 5 => rawInt 32 b.corrNow
  | _, _ => b.reg idx sub

/-- Objects 0x2400 to 0x2457 but for the pin levels and the pattern table (R53, R65, R75). -/
def Chip.view24 (b : Chip) (idx sub : Nat) : Nat :=
  if sub = 0 then b.reg idx sub
  else if idx < 0x2418 then
    let k := b.bank (idx - 0x2400)
    match sub with
    | 1 => k.mode
    | 2 => k.code
    | 9 => k.oe.toNat
    | 0x0A => k.level.toNat
    | 0x10 => k.patCtl
    | 0x11 => b.bankStatus (idx - 0x2400)
    | 0x12 => k.contention.toNat
    | _ => b.reg idx sub
  else if idx = 0x2418 then b.reg idx sub
  else if idx < 0x2440 then rawInt 16 (b.vane ((idx - 0x2420) * 64 + sub - 1)).driveDeskew
  else rawInt 16 (b.vane ((idx - 0x2440) * 64 + sub - 1)).capDeskew

/-- The state of a group in its present cycle (R224): a start shows from the next cycle on. -/
def Chip.groupShown (b : Chip) (g : Grp) : GroupState :=
  let x := b.groupNow g
  if x.running ∧ x.startAt = some (b.groupCycle g) then .stop else x.st

/-- The pending bits in the present cycle: an assertion shows from the next cycle on (R219). -/
def Chip.pendingShown (b : Chip) (g : Grp) : Nat :=
  let x := b.groupNow g
  maskOf 4 fun e => x.pending.getLsbD e && decide ((x.evMark e).cyc < b.groupCycle g)

/-- The sequencer observe entry (R236). -/
def Chip.observe (b : Chip) (g : Grp) : Nat :=
  let x := b.groupNow g
  let s := x.regs
  s.lc.toNat * 2 ^ 32 + s.flags.toNat * 2 ^ 22 + (b.groupShown g).code * 2 ^ 19 + flag x.handler.isSome 18 +
    (match x.handler with | some h => h.ev % 4 | none => 0) * 2 ^ 16 + b.pendingShown g * 2 ^ 12 + x.pc % 4096

/-- The entries of 0x25ii that are no plain registers (R152, R174, R195, R233). -/
def Chip.regionView (b : Chip) (r sub : Nat) : Nat :=
  let groups := fun (p : Group → Bool) => maskOf 64 fun k => p (b.group ⟨r, k⟩)
  let shows := fun (l : List GroupState) => maskOf 64 fun k => l.contains (b.groupShown ⟨r, k⟩)
  match sub with
  | 5 => b.islandState r
  | 0x0B => b.phaseOf r
  | 0x1B => (b.mem.badBm.filter fun k => k / 512 == r).length
  | 0x1C => maskOf 16 fun j => b.mem.badBank.contains (bankKey r j)
  | 0x1D => flag (b.region r).clearing 0
  | 0x38 => shows [.run, .wait]
  | 0x3A => groups fun g => g.main.flags != 0#5 || g.shadow.flags != 0#5
  | 0x3E => b.observe (gmGroup r (b.reg (0x2500 + r) 0x33))
  | _ => if 0x20 ≤ sub ∧ sub ≤ 0x2F then b.queueStatus (queueKey r (sub - 0x20)) else b.reg (0x2500 + r) sub

/-- The first miss of a partition (R102). -/
def MissRecord.view (m : MissRecord) (sub : Nat) : Nat :=
  match sub with
  | 5 => m.cause
  | 6 => m.region
  | 7 => m.slot
  | 8 => m.tag
  | 9 => m.frame
  | 0x0A => m.tick
  | 0x0B => m.cycle
  | _ => flag m.injected 0

/-- The contract object of a partition (R102). -/
def Chip.contractView (b : Chip) (p sub : Nat) : Nat :=
  let q := b.part p
  match sub with
  | 1 => q.status.code
  | 3 => q.regions.toNat
  | 5 | 6 | 7 | 8 | 9 | 0x0A | 0x0B | 0x0D => match q.firstMiss with | some m => m.view sub | none => 0
  | _ => b.reg (0x2521 + p) sub

/-- Objects 0x2500 to 0x254F (R101 to R103, R152). -/
def Chip.view25 (b : Chip) (idx sub : Nat) : Nat :=
  if sub = 0 then b.reg idx sub
  else if idx < 0x2520 then b.regionView (idx - 0x2500) sub
  else if idx = 0x2520 then
    match sub with
    | 5 => flag b.hub.hotRefresh 0
    | 6 => b.partMaskOf .armed
    | _ => b.reg idx sub
  else if idx < 0x2530 then b.contractView (idx - 0x2521) sub
  else if sub = 6 then b.slotsChecked (idx - 0x2530) % 2 ^ 64
  else b.reg idx sub

/-- Objects 0x2600 to 0x2617 (R263, R264). -/
def Chip.view26 (b : Chip) (idx sub : Nat) : Nat :=
  let h := b.hub
  match idx, sub with
  | 0x2600, 1 => h.st
  | 0x2600, 2 => h.rate
  | 0x2600, 3 => h.set_.toNat
  | 0x2600, 4 => h.capacity
  | 0x2600, 5 => maskOf 8 fun c => b.windowChannels.contains c
  | 0x2600, 6 => h.window.toNat
  | 0x2600, 7 => h.queue.length
  | 0x2600, 8 => h.pending
  | 0x2600, 0x0A => h.target
  | _, _ =>
    if idx = 0x2601 ∧ sub ≠ 0 then (h.trained.getD (sub - 1) (0, 0)).1
    else if 0x2610 ≤ idx ∧ sub = 1 then (b.channel (idx - 0x2610)).st.code
    else if 0x2610 ≤ idx ∧ sub = 2 then (b.channel (idx - 0x2610)).mapOut
    else b.reg idx sub

/-- The object of a protection region (R291). -/
def Chip.protView (b : Chip) (rr sub : Nat) : Nat :=
  let x := b.prot rr
  match sub with
  | 1 => x.st
  | 8 => x.owner
  | 9 => if x.st = 0 then 0 else x.keyGen
  | 0x0A => x.high
  | 0x0B => if x.st ≠ 0 ∧ 2 ≤ b.protMode rr then treeLevels (b.protExp rr) else 0
  | 0x0C => x.sweep
  | 0x0D => x.failAddr
  | 0x0E => x.failCode
  | _ => b.reg (0x2710 + rr) sub

/-- An entry of the poison list (R292): [63] used, [62:57] region, [56:53] level, [52:0] address. -/
def Chip.poisonView (b : Chip) (n : Nat) : Nat :=
  match b.cupola.poison.find? fun (x : Nat × Nat × Nat × Nat) => x.1 == n with
  | some (_, region, level, addr) => 2 ^ 63 + region * 2 ^ 57 + level * 2 ^ 53 + addr
  | none => 0

/-- Objects 0x2700 to 0x274F (R290 to R292). -/
def Chip.view27 (b : Chip) (idx sub : Nat) : Nat :=
  if sub = 0 then b.reg idx sub
  else if idx = 0x2700 then
    match sub with
    | 1 => ((List.range 64).filter fun rr => 1 ≤ (b.prot rr).st && (b.prot rr).st ≤ 5).length
    | 4 => b.cupola.pinned
    | 8 => b.cupola.reenc.length
    | 0x0B => b.cupola.poison.length
    | _ => b.reg idx sub
  else if idx = 0x2701 then b.poisonView (sub - 1)
  else b.protView (idx - 0x2710) sub

/-- Objects 0x2800 to 0x2803 (R316). -/
def Chip.view28 (b : Chip) (idx sub : Nat) : Nat :=
  let p := b.port (idx - 0x2800)
  match sub with
  | 1 => p.link
  | 2 => p.speed
  | 3 => p.width
  | 5 => idx - 0x2800 + 1
  | _ => b.reg idx sub

/-- Objects 0x2900 to 0x2982 (R389, R404, R405, R406). -/
def Chip.view29 (b : Chip) (idx sub : Nat) : Nat :=
  let t := b.test
  match idx, sub with
  | 0x2900, 1 => b.watch.st
  | 0x2910, 7 => b.watch.scrubPtr
  | 0x2980, 1 => t.st
  | 0x2980, 2 => t.index
  | 0x2980, 3 => flag b.aon.skipEnable 0
  | 0x2980, 4 => t.recordCheck
  | 0x2980, 5 => t.recordAge
  | 0x2980, 6 => t.failures.length
  | 0x2980, 7 => t.excluded.toNat
  | _, _ => b.reg idx sub

/-- Object 0x2A00 (R423). -/
def Chip.view2A (b : Chip) (idx sub : Nat) : Nat :=
  match idx, sub with
  | 0x2A00, 4 => match b.lantern.highest with | some v => rawInt 16 v | none => 0
  | 0x2A00, 5 => b.lantern.failed.toNat
  | _, _ => b.reg idx sub

/-- Object 0x2B00; :04 and :05 are the reader's own (R428). -/
def Chip.view2B (b : Chip) (o idx sub : Nat) : Nat :=
  let l := b.log
  let oldest := fun (x : List LogEntry) => match x with | e :: _ => e.seq | [] => l.next
  match idx, sub with
  | 0x2B00, 1 => (l.next + 2 ^ 32 - 1) % 2 ^ 32
  | 0x2B00, 2 => oldest l.ring
  | 0x2B00, 3 => oldest l.recent
  | 0x2B00, 4 => b.logStart o
  | 0x2B00, 5 => b.logCount o
  | 0x2B00, 7 => l.pending
  | _, _ => b.reg idx sub

/-- Objects 0x2C00 to 0x2C5F (R461 to R464). -/
def Chip.view2C (b : Chip) (idx sub : Nat) : Nat :=
  match idx, sub with
  | 0x2C00, 2 => flag b.dbg.session 0
  | 0x2C00, 5 => maskOf 8 fun p => (b.part p).halt == .halted
  | 0x2C00, 6 => maskOf 32 fun r => (b.region r).halted
  | 0x2C02, 2 => flag b.lantern.inMonitor 0
  | 0x2C02, 3 => flag b.lantern.held 0
  | 0x2C10, 2 => flag b.dbg.enabled 0
  | 0x2C10, 0x0B => b.dbg.state
  | _, _ =>
    if 0x2C08 ≤ idx ∧ idx ≤ 0x2C0F then
      match sub with
      | 1 => (b.part (idx - 0x2C08)).halt.code
      | 4 => (b.part (idx - 0x2C08)).haltTick
      | _ => b.reg idx sub
    else b.reg idx sub

/-- Object 0x2DFF (R484). -/
def Chip.view2D (b : Chip) (idx sub : Nat) : Nat :=
  match idx, sub with
  | 0x2DFF, 1 => flag b.inject.enabled 0
  | 0x2DFF, 2 => min 255 (b.inject.armed.length + (if b.loader.injDir then 1 else 0))
  | _, _ => b.reg idx sub

/-- The command objects: the reader's own serial, and the status of its last command, or of anyone's last (R342). -/
def Chip.view2E (b : Chip) (o idx sub : Nat) : Nat :=
  let c := b.cmd (cmdKey idx)
  match sub with
  | 1 => Tab.get 0 c.serials o
  | 2 => Tab.get c.last c.status o
  | _ => b.reg idx sub

/-- Process data (R347). -/
def Chip.viewPd (b : Chip) (idx sub : Nat) : Nat :=
  if sub = 0 then b.reg idx sub
  else if idx < 0x6100 then (b.inputWord ((idx - 0x6000) * 64 + sub - 1)).toNat
  else if idx = 0x6100 then b.statusWord sub
  else (Tab.get 0#32 b.ecat.applied ((idx - 0x7000) * 64 + sub - 1)).toNat

/-- The value of a numeric entry as owner o reads it. -/
def Chip.view (b : Chip) (o idx sub : Nat) : Nat :=
  match idx / 256 with
  | 0x20 => b.view20 idx sub
  | 0x21 => b.view21 o idx sub
  | 0x22 => b.view22 o idx sub
  | 0x23 => b.view23 idx sub
  | 0x24 => b.view24 idx sub
  | 0x25 => b.view25 idx sub
  | 0x26 => b.view26 idx sub
  | 0x27 => b.view27 idx sub
  | 0x28 => b.view28 idx sub
  | 0x29 => b.view29 idx sub
  | 0x2A => b.view2A idx sub
  | 0x2B => b.view2B o idx sub
  | 0x2C => b.view2C idx sub
  | 0x2D => b.view2D idx sub
  | 0x2E => b.view2E o idx sub
  | 0x60 | 0x61 | 0x70 => b.viewPd idx sub
  | _ => b.view10 idx sub

/-! ### Strings -/

def asciiBytes (s : String) : Bytes := s.toList.map fun c => BitVec.ofNat 8 c.toNat

/-- The bytes of a string entry without an effect of its own. -/
def Chip.octetView (b : Chip) (idx sub : Nat) : Bytes :=
  match idx, sub with
  | 0x1008, 0 => asciiBytes "AEL8M-4600"
  | 0x1009, 0 => asciiBytes "1.0"
  | 0x100A, 0 => Config.versionText b.runningSlot.version
  | 0x2040, 1 => (List.range 97).map Config.devicePublicKey
  | 0x2040, 5 => (List.range 16).map fun n =>
      match (b.keySlot n).owner with | some o => BitVec.ofNat 8 o | none => 0xFF#8
  | 0x2981, 1 => b.test.failures.flatMap fun e => toBytes 8 e.toNat
  | 0x2C02, 7 => Tab.get (toBytes 64 0) b.dict.octets (key idx sub)
  | 0x2C10, 8 => Tab.get (List.replicate 16 0xFF#8) b.dict.octets (key idx sub)
  | 0x2C11, 2 => (List.range 256).flatMap fun i =>
      toBytes 16 (b.traceSlot ((b.reg 0x2C11 1 + i) % 65536)).toNat
  | _, _ =>
    if 0x2400 ≤ idx ∧ idx < 0x2418 then
      (List.range 256).flatMap fun i => toBytes 16 (Mem.get (b.bank (idx - 0x2400)).pattern i).toNat
    else Tab.get [] b.dict.octets (key idx sub)

/-! ### Reads with an effect, and reads of quantities outside the device -/

/-- A free value, and the device after it. -/
def Chip.takeFree (b : Chip) (f : Nat → Nat) : Chip × Nat := (b.tookFree, f b.free)

/-- The pin levels of a bank: those that the device drives, and free values for the others (R53). -/
def Chip.inputLevels (b : Chip) (k : Nat) : Chip × Nat :=
  b.takeFree fun n => maskOf 64 fun i =>
    let d := b.pinDrive (k * 64 + i)
    if d.1 then d.2 else (Config.pinLevels n).getLsbD i

/-- A measured quantity: what the last command stated of it, or a free value (R423). -/
def Chip.measuredNow (b : Chip) (w : Nat) (t : Tab Nat) (n : Nat) : Chip × Nat :=
  match t.find? fun (x : Nat × Nat) => x.1 == n with
  | some x => (b, x.2)
  | none => b.takeFree fun i => Config.measured i % 2 ^ w

/-- A temperature reading; 0x7FFF for a failed sensor. -/
def Chip.temperature (b : Chip) (n : Nat) : Chip × Nat :=
  if b.lantern.failed.getLsbD n then (b, 0x7FFF)
  else b.measuredNow 16 (b.lantern.temps.map fun (x : Nat × Int) => (x.1, rawInt 16 x.2)) n

/-- A number as the bytes of an entry. -/
def numBytes (n : Nat) (x : Chip × Nat) : Chip × Except Nat Bytes := (x.1, .ok (toBytes n x.2))

/-- The read of an entry that its checks have passed. -/
def Chip.readEntry (b : Chip) (o idx sub : Nat) (e : Entry) : Chip × Except Nat Bytes :=
  let hi := idx / 256
  if hi = 0x24 ∧ idx < 0x2418 ∧ sub = 0x0B then numBytes 8 (b.inputLevels (idx - 0x2400))
  else if hi = 0x25 ∧ idx < 0x2520 ∧ sub = 0x11 then b.memoryRead o (idx - 0x2500)
  else if hi = 0x25 ∧ idx < 0x2520 ∧ sub = 0x34 then b.groupRead o (idx - 0x2500)
  else if hi = 0x25 ∧ idx < 0x2520 ∧ 0x20 ≤ sub ∧ sub ≤ 0x2F then
    numBytes 8 (b.settleQueue (queueKey (idx - 0x2500) (sub - 0x20)), b.view o idx sub)
  else if idx = 0x2A01 ∧ sub ≠ 0 then numBytes 2 (b.temperature (sub - 1))
  else if idx = 0x2A02 ∧ sub ≠ 0 then numBytes 2 (b.measuredNow 16 b.dev.volts (sub - 1))
  else if idx = 0x2A03 ∧ sub ≠ 0 then numBytes 4 (b.measuredNow 32 b.dev.freqs (sub - 1))
  else if idx = 0x2B01 ∧ sub = 1 then
    match b.logRead o with
    | .error a => (b, .error a)
    | .ok l => (b.logAdvance o l, .ok (l.flatMap LogEntry.bytes))
  else if 0x2C60 ≤ idx ∧ idx < 0x2C80 ∧ sub ≠ 0 then (b, b.queueHead (idx - 0x2C60) (sub - 1))
  else if 0x2C80 ≤ idx ∧ idx < 0x2C98 ∧ sub ≠ 0 then (b, b.captureHead (idx - 0x2C80) (sub - 1))
  else if e.ty.bytes = 0 then (b, .ok (b.octetView idx sub))
  else (b, .ok (toBytes e.ty.bytes (b.view o idx sub)))

/-- The refusals that every entry shares (R5, R7, R338): object, subindex, Lantern, write-only, restricted. -/
def Chip.checkRead (b : Chip) (o idx sub : Nat) : Except Nat Entry :=
  if !DictTable.hasObject idx then .error 0x06020000
  else match DictTable.find idx sub with
  | none => .error 0x06090011
  | some e =>
    if needsLantern idx && !b.lanternServes then .error 0x08000021
    else if e.acc = .wo then .error 0x06010001
    else if !b.mayRead o idx sub e then .error 0x06010000
    else .ok e

/-- The read of one entry. -/
def Chip.readOne (b : Chip) (o idx sub : Nat) : Chip × Except Nat Bytes :=
  match b.checkRead o idx sub with
  | .error a => (b, .error a)
  | .ok e => b.readEntry o idx sub e

/-! ### Complete access (R337) -/

/-- The subindices of an object above lo that exist, in ascending order. -/
def subindices (idx lo : Nat) : List Nat := (List.range 256).filter fun s => lo ≤ s && (DictTable.find idx s).isSome

/-- Subindex 0 of an object with further subindices takes 16 bits in a complete access (PRESUMED, log entry 31). -/
def wideCount (idx sub : Nat) : Bool := sub == 0 && !(subindices idx 1).isEmpty

/-- One subindex of a complete-access read; one that the owner may not read is zeros at the length of its type. -/
def Chip.wholePart (b : Chip) (o idx sub : Nat) : Chip × Except Nat Bytes :=
  match b.checkRead o idx sub with
  | .error a =>
    if a = 0x06010001 ∨ a = 0x06010000 then
      (b, .ok (toBytes (match DictTable.find idx sub with | some e => e.ty.bytes | none => 0) 0))
    else (b, .error a)
  | .ok e => if wideCount idx sub then numBytes 2 (b, b.view o idx 0) else b.readEntry o idx sub e

/-- The subindices one after the other; a refusal other than those two refuses the whole read. -/
def Chip.readParts (b : Chip) (o idx : Nat) : List Nat → Chip × Except Nat Bytes
  | [] => (b, .ok [])
  | sub :: t =>
    match b.wholePart o idx sub with
    | (b, .error a) => (b, .error a)
    | (b, .ok x) =>
      match b.readParts o idx t with
      | (b, .error a) => (b, .error a)
      | (b, .ok y) => (b, .ok (x ++ y))

/-- A complete-access read from subindex 0 or 1. -/
def Chip.readWhole (b : Chip) (o idx lo : Nat) : Chip × Except Nat Bytes :=
  if !DictTable.hasObject idx then (b, .error 0x06020000)
  else if 1 < lo then (b, .error 0x06090011)
  else b.readParts o idx (subindices idx lo)

end Sys2Proof.Machine
end

