-- ==== Sys2Proof/Machine/DictWrite.lean ====
section
/-! DEFINITION. Writes of the dictionary: after the checks that every entry shares, the rule of the entry's own object
(R5 to R8, R337 to R343). -/

namespace Sys2Proof.Machine

open Sys2Proof

/-! ### Rules of single objects -/

/-- The PDOs of an assignment differ (R346): entries above the count are ignored. -/
def Chip.assignOk (b : Chip) (idx : Nat) : Bool :=
  let l := (List.range (b.reg idx 0)).map fun i => b.reg idx (i + 1)
  l.all fun x => decide ((l.filter fun y => y == x).length ≤ 1)

/-- A plain register. -/
def Chip.storeReg (idx sub v : Nat) (b : Chip) : Res := .ok (b.setReg idx sub v)

/-- A bank's object (R48 to R53). -/
def Chip.writeBank (k sub v : Nat) (b : Chip) : Res :=
  match sub with
  | 1 => b.setBankMode k v
  | 2 => b.setVoltage k v
  | 3 => if maxStrength (b.bank k).code < v then .error 0x06090030 else b.storeReg (0x2400 + k) 3 v
  | 5 => if (b.bank k).mode = 2 then .error 0x08000022 else b.storeReg (0x2400 + k) 5 v
  | 7 => (b.noteDrive k).storeReg (0x2400 + k) 7 v
  | 9 => b.setDirect k false (BitVec.ofNat 64 v)
  | 0x0A => b.setDirect k true (BitVec.ofNat 64 v)
  | 0x10 => b.setPattern k v
  | 0x13 => .ok (b.clearContention k (BitVec.ofNat 64 v))
  | _ => b.storeReg (0x2400 + k) sub v

/-- Reserved bits of the memory address, and of the fields that space 1 does not use, are 0 (R173). -/
def memAddressOk (v : Nat) : Bool := if bit v 31 then field v 16 15 == 0 else field v 19 12 == 0

/-- The group memory address names a space and a unit of it (R234). -/
def groupAddressOk (v : Nat) : Bool :=
  field v 24 6 == 0 && field v 14 4 == 0 && gmSpace v != 3 && decide (gmIndex v < gmSize (gmSpace v))

/-- A region's object (R174, R195, R233). -/
def Chip.writeRegionEntry (r sub v : Nat) (b : Chip) : Res :=
  match sub with
  | 0x10 => if memAddressOk v then b.storeReg (0x2500 + r) 0x10 v else .error 0x06090030
  | 0x12 =>
    if bit (b.reg (0x2500 + r) 0x10) 31 && decide (8 < v) then .error 0x06090030 else b.storeReg (0x2500 + r) 0x12 v
  | 0x33 => if groupAddressOk v then b.storeReg (0x2500 + r) 0x33 v else .error 0x06090030
  | 0x30 => .ok (b.clearWatermarks r v)
  | 0x36 => .ok (b.startMask r (BitVec.ofNat 64 v))
  | 0x37 => .ok (b.stopMask r (BitVec.ofNat 64 v))
  | 0x3F => .ok (b.clearFlagMask r (BitVec.ofNat 64 v))
  | _ => b.storeReg (0x2500 + r) sub v

/-- A partition's object (R299, R300). -/
def Chip.writePart (p sub v : Nat) (b : Chip) : Res :=
  if sub = 1 then .ok (b.setPartOwner p v) else b.setClaim p (BitVec.ofNat 32 v)

/-- The deskew of a vane (R65). -/
def Chip.setDeskew (idx sub v : Nat) (b : Chip) : Res :=
  .ok (if idx < 0x2440 then b.modVane ((idx - 0x2420) * 64 + sub - 1) fun x => { x with driveDeskew := signed 16 v }
    else b.modVane ((idx - 0x2440) * 64 + sub - 1) fun x => { x with capDeskew := signed 16 v })

/-- The read sequence and the read count of a path (R428). -/
def Chip.setLogPath (o sub v : Nat) (b : Chip) : Res :=
  .ok (if sub = 4 then { b with dict := { b.dict with logSeq := Tab.set b.dict.logSeq o v } }
    else { b with dict := { b.dict with logCount := Tab.set b.dict.logCount o v } })

/-- The entries of the injection objects (R485); a target names a unit that there is (R8, R173, R351). -/
def Chip.writeInject (idx sub v : Nat) (b : Chip) : Res :=
  match idx, sub with
  | 0x2D10, 3 => b.injectStall v
  | 0x2D20, 2 => if memAddressOk v then b.storeReg 0x2D20 2 v else .error 0x06090030
  | 0x2DD0, 1 | 0x2DD1, 1 => if field v 0 10 < 544 then b.storeReg idx 1 v else .error 0x06090030
  | 0x2D20, 4 => b.injectMemory v
  | 0x2D30, 3 => b.injectMismatch v
  | 0x2D40, 4 => b.injectSlices v
  | 0x2D50, 2 => b.injectUnlock v
  | 0x2D62, 2 => b.injectMiss v
  | 0x2D70, 2 => b.injectVane v
  | 0x2D80, 2 => b.injectHub v
  | 0x2D90, 3 => b.injectCupola v
  | 0x2DA0, 3 => b.injectHost v
  | 0x2DB0, 2 => b.injectField v
  | 0x2DC0, 1 => b.injectLoader v
  | 0x2DD0, 2 => b.injectWatch v
  | 0x2DD1, 2 => b.injectCrc v
  | 0x2DE0, 3 => b.injectLantern v
  | 0x2DF0, 1 => b.injectDebug v
  | 0x2DFF, 1 => b.setInjection v
  | _, _ => b.storeReg idx sub v

/-- What a new serial of each command object starts (R341). -/
def startOf (idx : Nat) : Option (Chip → Nat → Chip) :=
  match idx with
  | 0x2E01 => some Chip.startDevice
  | 0x2E30 => some Chip.startStep
  | 0x2E25 => some Chip.startRearm
  | 0x2E05 => some Chip.startRestart
  | 0x2E26 => some Chip.startRate
  | 0x2E27 => some Chip.startRegionCmd
  | 0x2E21 => some Chip.startPartReset
  | 0x2E00 | 0x2210 => some Chip.startCommit
  | 0x2E22 => some Chip.startLoad
  | 0x2E29 => some Chip.startTest
  | 0x2E2A => some Chip.startFlash
  | 0x2E2C => some Chip.startKey
  | 0x2E2D => some Chip.startRun
  | _ => none

/-- The debug objects 0x2C00 to 0x2C98 (R440, R449, R462, R464). -/
def Chip.writeDebug (idx sub v : Nat) (b : Chip) : Res :=
  match idx, sub with
  | 0x2C00, 1 => .ok (b.setAccess v)
  | 0x2C02, 3 => .ok (b.setHold v)
  | 0x2C02, 4 => .ok (b.monitorRequest v)
  | 0x2C10, 2 => .ok (b.setTrace v)
  | _, _ => b.storeReg idx sub v

/-- The effect of a write of a number, once its checks have passed. -/
def Chip.effect (o idx sub v : Nat) (b : Chip) : Res :=
  match idx / 256 with
  | 0x20 =>
    if idx = 0x2002 ∧ sub = 2 then .ok (b.unstick (BitVec.ofNat 32 v))
    else if idx = 0x2030 then .ok (b.setReg 0x2030 1 v).reloadWatchdog
    else b.storeReg idx sub v
  | 0x21 => if idx = 0x2100 then b.storeReg idx sub v else b.writePart (idx - 0x2110) sub v
  | 0x22 =>
    if idx = 0x2210 ∧ sub = 1 then b.serial o 0x2210 v Chip.startCommit
    else if idx = 0x2211 then b.cancelCommit o v
    else b.storeReg idx sub v
  | 0x23 =>
    if idx = 0x2301 ∧ sub = 1 then .ok (b.setSource v)
    else if idx = 0x2301 ∧ sub = 6 then .ok (b.setPpsEnable v)
    else if idx = 0x2302 ∧ sub = 1 then .ok (b.correction v)
    else b.storeReg idx sub v
  | 0x24 =>
    if idx < 0x2418 then b.writeBank (idx - 0x2400) sub v
    else if idx = 0x2418 then b.storeReg idx sub v
    else b.setDeskew idx sub v
  | 0x25 => if idx < 0x2520 then b.writeRegionEntry (idx - 0x2500) sub v else b.storeReg idx sub v
  | 0x29 => if idx = 0x2980 then .ok { b with aon := { b.aon with skipEnable := v == 1 } } else b.storeReg idx sub v
  | 0x2B => b.setLogPath o sub v
  | 0x2C => b.writeDebug idx sub v
  | 0x2D => b.writeInject idx sub v
  | 0x2E =>
    if sub = 1 then
      match startOf idx with
      | some f => b.serial o idx v f
      | none => b.storeReg idx sub v
    else b.storeReg idx sub v
  | _ => b.storeReg idx sub v

/-! ### Strings -/

/-- The pattern table of a bank: 256 entries of 16 bytes (R50). -/
def patternOf (d : Bytes) : Mem 128 :=
  (List.range 256).foldl (fun m i => Mem.set m i (BitVec.ofNat 128 (ofBytes ((d.drop (16 * i)).take 16)))) []

/-- A result with the abort of a refusal, if there is one. -/
def asAbort (x : Chip × Except Nat Unit) : Chip × Option Nat :=
  (x.1, match x.2 with | .ok _ => none | .error a => some a)

/-- The eight selections of the probe trace, each as in 0x2C20 (R464). -/
def probeSelectOk (d : Bytes) : Bool :=
  (List.range 8).all fun j => let v := ofBytes ((d.drop (2 * j)).take 2); decide (v < 256) || v == 0xFFFF

/-- The effect of a write of a string. -/
def Chip.stringEffect (b : Chip) (idx sub : Nat) (d : Bytes) : Chip × Option Nat :=
  if 0x2500 ≤ idx ∧ idx < 0x2520 then
    asAbort (if sub = 0x11 then b.memoryWrite (idx - 0x2500) d else b.groupWrite (idx - 0x2500) d)
  else if idx = 0x2C10 ∧ probeSelectOk d = false then (b, some 0x06090030)
  else if 0x2400 ≤ idx ∧ idx < 0x2418 then (b.modBank (idx - 0x2400) fun q => { q with pattern := patternOf d }, none)
  else ({ b with dict := { b.dict with octets := Tab.set b.dict.octets (key idx sub) d } }, none)

/-! ### The write of one entry -/

/-- A write of the bytes of an entry, len of them counted for its length, with the abort of a refusal. -/
def Chip.writeBytes (b : Chip) (o idx sub : Nat) (d : Bytes) (len : Nat) : Chip × Option Nat :=
  match b.checkWrite o idx sub len (ofBytes d) with
  | .error a => (b, some a)
  | .ok e =>
    if e.ty.bytes = 0 then b.stringEffect idx sub d
    else
      match b.effect o idx sub (ofBytes d) with
      | .ok b => (b, none)
      | .error a => (b, some a)

/-- PDO assignments are checked once the write is whole. -/
def Chip.checkAssign (idx : Nat) (old : Chip) (x : Chip × Option Nat) : Chip × Option Nat :=
  match x.2 with
  | some a => (x.1, some a)
  | none => if (idx = 0x1C12 ∨ idx = 0x1C13) ∧ x.1.assignOk idx = false then (old, some 0x06090030) else x

/-- A write of one entry. -/
def Chip.writeOne (b : Chip) (o idx sub : Nat) (d : Bytes) : Chip × Option Nat :=
  Chip.checkAssign idx b (b.writeBytes o idx sub d d.length)

/-! ### Complete access (R337, R343) -/

/-- The bytes that a subindex takes in a complete-access write: of a string as it stands, or as its range says. -/
def Chip.wholeLength (b : Chip) (idx sub : Nat) (e : Entry) : Nat :=
  if wideCount idx sub then 2
  else if e.ty.bytes ≠ 0 then e.ty.bytes
  else
    match e.rng with
    | .len n => n
    | _ =>
      if 0x2500 ≤ idx ∧ idx < 0x2520 ∧ sub = 0x11 then
        b.reg idx 0x12 * b.wordBytes (idx - 0x2500) (b.reg idx 0x10)
      else if 0x2500 ≤ idx ∧ idx < 0x2520 ∧ sub = 0x34 then b.reg idx 0x35 * gmBytes (gmSpace (b.reg idx 0x33))
      else if e.acc = .wo ∨ e.restricted = true then 0
      else (b.octetView idx sub).length

/-- The subindices of a complete-access write but for the serial, in ascending order, each stored after its checks; bytes of
read-only subindices are passed over. The device, the first abort, the serial's bytes and the bytes that are left. -/
def Chip.storeWhole (b : Chip) (o idx : Nat) (serial : Bool) (d : Bytes) (sn : Bytes) :
    List Nat → Chip × Option Nat × Bytes × Bytes
  | [] => (b, none, sn, d)
  | sub :: t =>
    match DictTable.find idx sub with
    | none => b.storeWhole o idx serial d sn t
    | some e =>
      let n := b.wholeLength idx sub e
      if d.length < n then (b, some 0x06070010, sn, [])
      else if e.acc = .ro then b.storeWhole o idx serial (d.drop n) sn t
      else if serial && sub == 1 then b.storeWhole o idx serial (d.drop n) (d.take n) t
      else
        match b.writeBytes o idx sub (d.take n) (if e.ty.bytes = 0 then n else e.ty.bytes) with
        | (b, none) => b.storeWhole o idx serial (d.drop n) sn t
        | (b, some a) =>
          let r := b.storeWhole o idx serial (d.drop n) sn t
          (r.1, some a, r.2.2.1, r.2.2.2)

/-- A complete-access write from subindex 0 or 1: it stores every subindex, the serial last, or it is refused in whole. -/
def Chip.writeWhole (b : Chip) (o idx lo : Nat) (d : Bytes) : Res :=
  let subs := subindices idx lo
  let serial := (startOf idx).isSome
  if !DictTable.hasObject idx then .error 0x06020000
  else if 1 < lo then .error 0x06090011
  else if subs.all fun s => (match DictTable.find idx s with | some e => e.acc == .ro | none => true) then .error 0x06010002
  else
    let (c, r, sn, rest) := b.storeWhole o idx serial d [] subs
    let r : Option Nat := if r.isNone && !rest.isEmpty then some 0x06070010 else r
    let (c, r) := Chip.checkAssign idx b (c, r)
    wholeWrite (c, r) fun c =>
      if sn.isEmpty then .ok c
      else
        match c.writeBytes o idx 1 sn sn.length with
        | (c, none) => .ok c
        | (_, some a) => .error a

end Sys2Proof.Machine
end

