-- ==== Sys2Proof/Machine/Sdo.lean ====
section
/-! DEFINITION. The SDO service: downloads and uploads, expedited or segmented, of one entry or of a whole object, object
information, and the timeout of a transfer (R319, R336 to R339). -/

namespace Sys2Proof.Machine

open Sys2Proof

/-- An abort, or the completion of a download. -/
def finishWrite (o : Nat) (x : Chip × Option Nat) : Chip :=
  match x.2 with
  | none => x.1.answer o .done
  | some a => x.1.answer o (.abort a)

/-- A download that is complete takes effect. -/
def Chip.download (b : Chip) (o idx sub : Nat) (complete : Bool) (d : Bytes) : Chip :=
  if complete then b.finish o (b.writeWhole o idx sub d) else finishWrite o (b.writeOne o idx sub d)

def Chip.openSegment (b : Chip) (o : Nat) (g : Segment) : Chip :=
  { b with dict := { b.dict with segs := Tab.set b.dict.segs o g } }

/-- The open transfer of a path. -/
def Chip.segmentOf (b : Chip) (o : Nat) : Option Segment :=
  match b.dict.segs.find? fun (x : Nat × Segment) => x.1 == o with
  | some x => some x.2
  | none => none

/-- SDO_DOWNLOAD: the request carries all of the data, or opens a segmented download (R337, R339). -/
def Chip.sdoDown (b : Chip) (o idx sub : Nat) (complete : Bool) (d : Bytes) (total : Nat) : Chip :=
  if d.length = total then b.download o idx sub complete d
  else if total < d.length then b.answer o (.abort 0x06070010)
  else if 4096 < total ∧ complete = false then b.answer o (.abort 0x05040005)
  else
    (b.openSegment o { upload := false, idx := idx, sub := sub, complete := complete, toggle := false,
                       total := total, data := d }).answer o .done

def execSdoDownload (q : Req) (idx sub : Nat) (complete : Bool) (data : Bytes) (total : Nat) (s : State) : Out :=
  act s fun b => b.request q fun b => b.sdoDown q.owner idx sub complete data total

/-- SDO_UPLOAD: the value as it stands now, in the answer or in the segments that follow (R337). -/
def Chip.sdoUp (b : Chip) (o idx sub : Nat) (complete segmented : Bool) : Chip :=
  match if complete then b.readWhole o idx sub else b.readOne o idx sub with
  | (b, .error a) => b.answer o (.abort a)
  | (b, .ok d) =>
    if segmented then
      (b.openSegment o { upload := true, idx := idx, sub := sub, complete := complete, toggle := false,
                         total := d.length, data := d }).answer o (.data [])
    else b.answer o (.data d)

def execSdoUpload (q : Req) (idx sub : Nat) (complete segmented : Bool) (s : State) : Out :=
  act s fun b => b.request q fun b => b.sdoUp q.owner idx sub complete segmented

/-! ### Segments -/

/-- A segment request is served at its tick, and leaves the open transfer open. -/
def Chip.segmentRequest (b : Chip) (q : Req) (f : Chip → Chip) : Chip :=
  let b := b.upTo q.t
  if b.dictAlive then f b else b.answer q.owner .unavailable

/-- The transfer ends with an abort. -/
def Chip.abortSegment (b : Chip) (o code : Nat) : Chip := (b.closeSegment o).answer o (.abort code)

/-- SDO_DOWNLOAD_SEGMENT: the download takes effect with its last segment. -/
def Chip.downSegment (b : Chip) (o : Nat) (toggle last : Bool) (d : Bytes) : Chip :=
  match b.segmentOf o with
  | none => b.answer o (.abort 0x05040001)
  | some g =>
    let got := g.data ++ d
    if g.upload then b.abortSegment o 0x05040001
    else if toggle ≠ g.toggle then b.abortSegment o 0x05030000
    else if g.total < got.length ∨ (last = true ∧ got.length ≠ g.total) then b.abortSegment o 0x06070010
    else if last then (b.closeSegment o).download o g.idx g.sub g.complete got
    else (b.openSegment o { g with toggle := !g.toggle, data := got }).answer o .done

def execSdoDownloadSegment (q : Req) (toggle last : Bool) (data : Bytes) (s : State) : Out :=
  act s fun b => b.segmentRequest q fun b => b.downSegment q.owner toggle last data

/-- The data of an upload segment: what a mailbox of 1,024 bytes holds beside its headers (PRESUMED, log entry 32). -/
def segmentBytes : Nat := 1015

/-- SDO_UPLOAD_SEGMENT: the next bytes of the value as it stood at the initiate. -/
def Chip.upSegment (b : Chip) (o : Nat) (toggle : Bool) : Chip :=
  match b.segmentOf o with
  | none => b.answer o (.abort 0x05040001)
  | some g =>
    if !g.upload then b.abortSegment o 0x05040001
    else if toggle ≠ g.toggle then b.abortSegment o 0x05030000
    else if g.data.length ≤ segmentBytes then (b.closeSegment o).answer o (.data g.data)
    else
      (b.openSegment o { g with toggle := !g.toggle, data := g.data.drop segmentBytes }).answer o
        (.data (g.data.take segmentBytes))

def execSdoUploadSegment (q : Req) (toggle : Bool) (s : State) : Out :=
  act s fun b => b.segmentRequest q fun b => b.upSegment q.owner toggle

/-- SDO_TRANSFER_TIMEOUT (R337): a transfer idle for 1 s. -/
def execSdoTransferTimeout (owner : Nat) (s : State) : Out :=
  act s fun b =>
    match b.segmentOf owner with
    | some _ => b.abortSegment owner 0x05040000
    | none => b

/-! ### Object information -/

/-- The standard's codes of the basic types. -/
def Ty.coe : Ty → Nat
  | .bool => 0x01 | .i16 => 0x03 | .i32 => 0x04 | .u8 => 0x05 | .u16 => 0x06 | .u32 => 0x07 | .vstr => 0x09
  | .octet => 0x0A | .i64 => 0x15 | .u64 => 0x1B

/-- The standard's access bits: [2:0] read and [5:3] write in PREOP, SAFEOP and OP. -/
def Acc.coe : Acc → Nat
  | .ro => 0x07 | .wo => 0x38 | .rw => 0x3F

/-- SDO_INFORMATION (R319): type and access of an entry. -/
def Chip.sdoInfo (b : Chip) (o idx sub : Nat) : Chip :=
  if !DictTable.hasObject idx then b.answer o (.abort 0x06020000)
  else match DictTable.find idx sub with
  | none => b.answer o (.abort 0x06090011)
  | some e => b.answer o (.info idx sub e.ty.coe e.acc.coe)

def execSdoInformation (q : Req) (idx sub : Nat) (s : State) : Out :=
  act s fun b => b.request q fun b => b.sdoInfo q.owner idx sub

end Sys2Proof.Machine
end

