-- ==== Sys2Proof/Machine/Mailboxes.lean ====
section
/-! DEFINITION. The dictionary mailboxes of the host ports and of the debug port, and writes to registers that have no row of
their own: dictionary entries, BAR0, the EtherCAT slave controller and Lantern's peripheral range
(R305 to R309, R319 to R323, R344, R345, R409, R441, R449). -/

namespace Sys2Proof.Machine

open Sys2Proof

/-! ### The mailbox (R344, R345) -/

/-- Four bytes of the request buffer. -/
def Mailbox.putRequest (m : Mailbox) (offset : Nat) (v : Nat) : Mailbox :=
  if m.inService then m
  else { m with req := (List.range 4).foldl (fun r i => Mem.set r (offset + i) (BitVec.ofNat 8 (v / 256 ^ i))) m.req }

/-- The error code with which a request frame is answered at once, or 0: the type field of the standard header is 3, and
its length is at most 1,018. -/
def Mailbox.headerError (m : Mailbox) : Nat :=
  if (Mem.get m.req 5).toNat % 16 ≠ 3 then 0x0002
  else if 1018 < (Mem.get m.req 0).toNat + 256 * (Mem.get m.req 1).toNat then 0x0008
  else 0

/-- A doorbell write of V, and the frame of an answer that needs no service. -/
def Mailbox.ring (m : Mailbox) (v : BitVec 32) : Mailbox × Option Bytes :=
  if m.inService then ({ m with ignored := sat32 (m.ignored + 1) }, none)
  else if v = m.doorbell then (m, none)
  else
    ({ m with doorbell := v, inService := true },
      match m.headerError with
      | 0 => none
      | code => some (Config.coeFrame 6 code []))

/-- A 32-bit word of the mailbox; reserved offsets read 0. -/
def Mailbox.word (m : Mailbox) (ready : Bool) (offset : Nat) : BitVec 32 :=
  if offset < 0x400 then BitVec.ofNat 32 (ofBytes ((List.range 4).map fun i => Mem.get m.req (offset + i)))
  else if offset < 0x800 then BitVec.ofNat 32 (ofBytes ((m.resp.drop (offset - 0x400)).take 4))
  else if offset = 0x800 then m.doorbell
  else if offset = 0x804 then m.respSeq
  else if offset = 0x808 then BitVec.ofNat 32 (flag ready 1 + flag m.inService 0)
  else if offset = 0x80C then m.ctl
  else if offset = 0x810 then BitVec.ofNat 32 m.ignored
  else 0#32

/-- A doorbell write at a port's mailbox, which is ready from REDUCED on (R306). -/
def Chip.portDoorbell (b : Chip) (h : Nat) (v : BitVec 32) : Chip :=
  if !b.hostOn || !b.dictAlive then b
  else
    let (m, frame) := (b.port h).mbox.ring v
    b.modPort h fun p =>
      let q := { p with mbox := m }
      match frame with
      | some f => q.respond f
      | none => q

/-- MAILBOX_DOORBELL. The request that it takes is served by the SDO row of owner h + 1. -/
def execMailboxDoorbell (h : Nat) (v : BitVec 32) (t : Nat) (s : State) : Out :=
  act s fun b => (b.upTo t).portDoorbell h v

/-! ### The debug port's mailbox (R441) -/

def Chip.setMbox (b : Chip) (m : Mailbox) : Chip := { b with dbg := { b.dbg with mbox := m } }

/-- A write through DMBOX; the MSI-X fields of 0x080C are stored and have no effect. -/
def Chip.debugMailboxWrite (b : Chip) (offset : Nat) (v : BitVec 32) : Chip :=
  let m := b.dbg.mbox
  if offset < 0x400 then b.setMbox (m.putRequest offset v.toNat)
  else if offset = 0x800 then
    match m.ring v with
    | (m, some f) => b.setMbox (m.respond f)
    | (m, none) => b.setMbox m
  else if offset = 0x80C then b.setMbox { m with ctl := v &&& 0x3F01#32 }
  else b

/-- The scan shifts out the status and the data of the previous operation. -/
def Chip.shiftResult (b : Chip) : Chip := b.setDr (BitVec.ofNat 72 (b.dbg.dmStatus % 4 * 2 ^ 46 + b.dbg.dmData.toNat))

/-- The result that the next scan shifts out. -/
def Chip.dmResult (b : Chip) (status : Nat) (data : BitVec 32) : Chip :=
  { b with dbg := { b.dbg with dmStatus := status, dmData := data } }

/-- A DMBOX operation: path closed, offset out of range, or done. -/
def Chip.dmScan (b : Chip) (offset : Nat) (f : Chip → Chip × BitVec 32) : Chip :=
  if !b.tapOn then b
  else
    let b := b.shiftResult
    if !b.debugPath then b.dmResult 1 0#32
    else if 0x0813 < offset then b.dmResult 3 0#32
    else
      let (b, d) := f b
      b.dmResult 0 d

def execDmboxRead (offset : Nat) (s : State) : Out :=
  act s fun b => b.dmScan offset fun b => (b, b.dbg.mbox.word b.fromReduced (offset / 4 * 4))

def execDmboxWrite (offset : Nat) (data : BitVec 32) (s : State) : Out :=
  act s fun b => b.dmScan offset fun b => (b.debugMailboxWrite (offset / 4 * 4) data, 0#32)

/-- DMBOX_POLL: no operation. -/
def execDmboxPoll (s : State) : Out := act s fun b => if b.tapOn then b.shiftResult else b

/-! ### BAR0 (R305 to R309) -/

/-- Control of a DMA channel: vector, resume and enable. -/
def Dma.control (d : Dma) (v : Nat) (inSafe : Bool) : Dma :=
  let vector := field v 8 6
  let d := if bit v 0 then d.start vector else { d.stop with vector := some vector }
  if bit v 1 then d.resume inSafe else d

/-- A write to a channel's block at its offset; ring base and size change only while the channel is disabled. -/
def Chip.writeDma (b : Chip) (h c off v : Nat) : Chip :=
  let set_ := fun (f : Dma → Dma) => b.modDma h c fun d => if d.enable || d.cur.isSome then d else f d
  match off with
  | 0x00 => set_ fun d => { d with base := v % 2 ^ 64 / 32 * 32 }
  | 0x04 => set_ fun d => { d with base := v % 2 ^ 32 * 2 ^ 32 + d.base % 2 ^ 32 }
  | 0x08 => set_ fun d => { d with size := v % 32 }
  | 0x0C => b.modDma h c fun d => d.control v (b.dev.st == .safe)
  | 0x10 => b.doorbell h c (BitVec.ofNat 32 v)
  | _ => b

/-- A write of dword i of MSI-X entry n; a pending vector that is unmasked is sent. -/
def HostPort.writeMsix (p : HostPort) (n i : Nat) (v : BitVec 32) : HostPort :=
  let w := if i = 3 then v &&& 1#32 else v
  let p := { p with msix := Tab.set p.msix (n * 4 + i) w }
  if i = 3 ∧ w = 0#32 ∧ p.pba.getLsbD n = true then
    ({ p with pba := p.pba &&& ~~~(1#64 <<< n) } : HostPort).send n
  else p

/-- The BAR2 window base is a multiple of 2^s2; its low bits are reserved (R8, R309). -/
def Chip.setWindowBase (b : Chip) (h v : Nat) : Chip :=
  let unit := 2 ^ b.reg (0x2800 + h) 4
  b.modPort h fun p => { p with windowBase := v % 2 ^ 64 / unit * unit }

/-- A write of BAR0 at a 32-bit offset; a 64-bit register is written whole at its lower offset. Read-only and reserved
offsets are unchanged. -/
def Chip.writeBar0 (b : Chip) (h offset v : Nat) : Chip :=
  let w := BitVec.ofNat 32 v
  let o := offset / 4 * 4
  if o < 0x400 then b.modPort h fun p => { p with mbox := p.mbox.putRequest o v }
  else if o = 0x800 then b.portDoorbell h w
  else if o = 0x80C then b.modPort h fun p => { p with mbox := { p.mbox with ctl := w &&& 0x3F01#32 } }
  else if 0x2000 ≤ o ∧ o < 0x2800 then b.writeDma h ((o - 0x2000) / 128) (o % 128) v
  else if o = 0x2800 then b.modPort h fun p => { p with events := p.events &&& ~~~w }
  else if o = 0x2804 then b.modPort h fun p => { p with evEnable := w &&& 0x1F#32 }
  else if o = 0x2808 then b.setWindowBase h v
  else if o = 0x280C then b.setWindowBase h (v % 2 ^ 32 * 2 ^ 32 + (b.port h).windowBase % 2 ^ 32)
  else if 0x3000 ≤ o ∧ o < 0x3400 then b.modPort h fun p => p.writeMsix ((o - 0x3000) / 16) (o % 16 / 4) w
  else b

/-! ### The EtherCAT slave controller (R319 to R323, R330) -/

/-- A write of an ESC register by the master: station address, AL control, cyclic activation, and the plain registers. The
alias, and the AL status, are not writable. -/
def Chip.writeEsc (b : Chip) (addr v : Nat) : Chip :=
  if !b.ecatOn then b
  else
    match addr with
    | 0x0010 => { b with ecat := { b.ecat with station := v % 65536 } }
    | 0x0004 | 0x0005 | 0x0006 | 0x0007 | 0x0012 | 0x0130 | 0x0134 => b
    | 0x0120 => b.alCommand (v % 16)
    | 0x0981 => b.syncActivate (BitVec.ofNat 8 v) (b.escReg 0x09A0) (b.escReg 0x0990) (b.escReg 0x09A4)
    | _ => { b with ecat := { b.ecat with esc := Tab.set b.ecat.esc addr v } }

/-! ### REGISTER_WRITE -/

/-- A dictionary entry written with a number: a number too large for the type is sent in more bytes (R339). -/
def Chip.writeNumber (b : Chip) (o idx sub v : Nat) : Chip × Option Nat :=
  let n := match DictTable.find idx sub with
    | some e => if e.ty.bytes = 0 then b.wholeLength idx sub e else e.ty.bytes
    | none => 0
  if v < 256 ^ n then b.writeOne o idx sub (toBytes n v) else b.writeOne o idx sub (toBytes (n + 1) v)

/-- REGISTER_WRITE (R6, R8). -/
def Chip.registerWrite (b : Chip) (q : Req) (g : Register) (v : Nat) : Chip :=
  match g with
  | .dict idx sub => b.request q fun b => finishWrite q.owner (b.writeNumber q.owner idx sub v)
  | .bar0 h offset => if b.hostOn then (b.upTo q.t).writeBar0 h offset v else b.upTo q.t
  | .esc addr => (b.upTo q.t).writeEsc addr v
  | .lanternWindowBase =>
    if b.lantern.running then
      { b.upTo q.t with lantern := { b.lantern with windowBase := v % 2 ^ 64 / 2 ^ 31 * 2 ^ 31 } }
    else b.upTo q.t
  | .lanternMonitorVector =>
    if b.lantern.running then { b.upTo q.t with lantern := { b.lantern with monitorVector := BitVec.ofNat 32 v } }
    else b.upTo q.t

def execRegisterWrite (q : Req) (reg : Register) (v : Nat) (s : State) : Out :=
  act s fun b => b.registerWrite q reg v

end Sys2Proof.Machine
end

