-- ==== Sys2Proof/Machine/Dispatch.lean ====
section
/-! DEFINITION. One arm per command: a direct call of its meaning. -/

namespace Sys2Proof.Machine

open Sys2Proof

/-- The effect of a command on everything but the queue. -/
def exec (i : Instr) (s : State) : Host.Outcome State Fault Refusal :=
  match i with
  | .p00SupplyGood => Sys2Proof.Machine.execP00SupplyGood s
  | .p00SupplyFail => Sys2Proof.Machine.execP00SupplyFail s
  | .mainSuppliesGood mode refClk => Sys2Proof.Machine.execMainSuppliesGood mode refClk s
  | .mainSuppliesLost => Sys2Proof.Machine.execMainSuppliesLost s
  | .mainRailCollapse rails => Sys2Proof.Machine.execMainRailCollapse rails s
  | .wakePulse mode refClk => Sys2Proof.Machine.execWakePulse mode refClk s
  | .refClkStart => Sys2Proof.Machine.execRefClkStart s
  | .domainPowerGood d => Sys2Proof.Machine.execDomainPowerGood d s
  | .domainPowerTimeout d => Sys2Proof.Machine.execDomainPowerTimeout d s
  | .imageStart => Sys2Proof.Machine.execImageStart s
  | .enterReduced vcco dimms => Sys2Proof.Machine.execEnterReduced vcco dimms s
  | .voltageMonitorFault d mV t => Sys2Proof.Machine.execVoltageMonitorFault d mV t s
  | .clockLoss c kHz t => Sys2Proof.Machine.execClockLoss c kHz t s
  | .shutdown q serial => Sys2Proof.Machine.execShutdown q serial s
  | .recover q serial => Sys2Proof.Machine.execRecover q serial s
  | .recoverRelease r => Sys2Proof.Machine.execRecoverRelease r s
  | .closingSelfRefreshDone => Sys2Proof.Machine.execClosingSelfRefreshDone s
  | .recordSealed => Sys2Proof.Machine.execRecordSealed s
  | .disciplineSourceWrite q v => Sys2Proof.Machine.execDisciplineSourceWrite q v s
  | .dcMeasurement offset t => Sys2Proof.Machine.execDcMeasurement offset t s
  | .ppsInEdge fine => Sys2Proof.Machine.execPpsInEdge fine s
  | .correctionSerial q serial => Sys2Proof.Machine.execCorrectionSerial q serial s
  | .ppsWindowClose => Sys2Proof.Machine.execPpsWindowClose s
  | .sourceTimeout => Sys2Proof.Machine.execSourceTimeout s
  | .holdoverLimitExpiry => Sys2Proof.Machine.execHoldoverLimitExpiry s
  | .belfryStep q serial => Sys2Proof.Machine.execBelfryStep q serial s
  | .ppsOutRise => Sys2Proof.Machine.execPpsOutRise s
  | .ppsOutFall => Sys2Proof.Machine.execPpsOutFall s
  | .bankModeWrite q bb v => Sys2Proof.Machine.execBankModeWrite q bb v s
  | .ioVoltageWrite q bb v => Sys2Proof.Machine.execIoVoltageWrite q bb v s
  | .directOutputWrite q bb level v => Sys2Proof.Machine.execDirectOutputWrite q bb level v s
  | .patternControlWrite q bb v => Sys2Proof.Machine.execPatternControlWrite q bb v s
  | .patternEntryApply bb => Sys2Proof.Machine.execPatternEntryApply bb s
  | .patternRunEnd bb => Sys2Proof.Machine.execPatternRunEnd bb s
  | .clearContention q bb mask => Sys2Proof.Machine.execClearContention q bb mask s
  | .bankControlWrite bb pin pull t => Sys2Proof.Machine.execBankControlWrite bb pin pull t s
  | .vccoFault bb mV t => Sys2Proof.Machine.execVccoFault bb mV t s
  | .vccoRecovery bb mV t => Sys2Proof.Machine.execVccoRecovery bb mV t s
  | .vaneEventWord tp word t => Sys2Proof.Machine.execVaneEventWord tp word t s
  | .epoch tp word t => Sys2Proof.Machine.execEpoch tp word t s
  | .vaneNop tp => Sys2Proof.Machine.execVaneNop tp s
  | .driveLow tp => Sys2Proof.Machine.execDriveLow tp s
  | .driveHigh tp => Sys2Proof.Machine.execDriveHigh tp s
  | .release tp => Sys2Proof.Machine.execRelease tp s
  | .captureRise tp => Sys2Proof.Machine.execCaptureRise tp s
  | .captureFall tp => Sys2Proof.Machine.execCaptureFall tp s
  | .captureAny tp => Sys2Proof.Machine.execCaptureAny tp s
  | .sample tp level => Sys2Proof.Machine.execSample tp level s
  | .windowLow tp level => Sys2Proof.Machine.execWindowLow tp level s
  | .windowHigh tp level => Sys2Proof.Machine.execWindowHigh tp level s
  | .windowClose tp => Sys2Proof.Machine.execWindowClose tp s
  | .disarm tp => Sys2Proof.Machine.execDisarm tp s
  | .reflexArm tp => Sys2Proof.Machine.execReflexArm tp s
  | .reflexDisarm tp => Sys2Proof.Machine.execReflexDisarm tp s
  | .park tp => Sys2Proof.Machine.execPark tp s
  | .captureEdge tp rising fine => Sys2Proof.Machine.execCaptureEdge tp rising fine s
  | .windowDeviation tp fine level ps => Sys2Proof.Machine.execWindowDeviation tp fine level ps s
  | .capturePop tp t => Sys2Proof.Machine.execCapturePop tp t s
  | .vaneFailClear tp t => Sys2Proof.Machine.execVaneFailClear tp t s
  | .calibrationRun tp => Sys2Proof.Machine.execCalibrationRun tp s
  | .lineSwitch tp => Sys2Proof.Machine.execLineSwitch tp s
  | .calibrationDeferred tp => Sys2Proof.Machine.execCalibrationDeferred tp s
  | .calibrationLimit tp => Sys2Proof.Machine.execCalibrationLimit tp s
  | .scheduledTokenSend l valid data t => Sys2Proof.Machine.execScheduledTokenSend l valid data t s
  | .unscheduledTokenSend l data t => Sys2Proof.Machine.execUnscheduledTokenSend l data t s
  | .tokenRelease l landed t => Sys2Proof.Machine.execTokenRelease l landed t s
  | .slotMiss r m t => Sys2Proof.Machine.execSlotMiss r m t s
  | .rearm q serial p frame => Sys2Proof.Machine.execRearm q serial p frame s
  | .rearmBoundary p => Sys2Proof.Machine.execRearmBoundary p s
  | .sequencerOverrun r b ev t => Sys2Proof.Machine.execSequencerOverrun r b ev t s
  | .clockSwitch r net sel t => Sys2Proof.Machine.execClockSwitch r net sel t s
  | .clockSwitchComplete r net t => Sys2Proof.Machine.execClockSwitchComplete r net t s
  | .clockSwitchStall r net t => Sys2Proof.Machine.execClockSwitchStall r net t s
  | .clockGateChange r net en t => Sys2Proof.Machine.execClockGateChange r net en t s
  | .userReset r n v t => Sys2Proof.Machine.execUserReset r n v t s
  | .probeSelectWrite q idx sub v => Sys2Proof.Machine.execProbeSelectWrite q idx sub v s
  | .islandUnlock r detector t => Sys2Proof.Machine.execIslandUnlock r detector t s
  | .islandRestart q serial r frame => Sys2Proof.Machine.execIslandRestart q serial r frame s
  | .standbyLockDone r => Sys2Proof.Machine.execStandbyLockDone r s
  | .standbyLockTimeout r => Sys2Proof.Machine.execStandbyLockTimeout r s
  | .islandRestartRelease r => Sys2Proof.Machine.execIslandRestartRelease r s
  | .bmRead m port addr t => Sys2Proof.Machine.execBmRead m port addr t s
  | .bmWrite m port addr data t => Sys2Proof.Machine.execBmWrite m port addr data t s
  | .bmBitSet m port addr mask t => Sys2Proof.Machine.execBmBitSet m port addr mask t s
  | .bmBitClear m port addr mask t => Sys2Proof.Machine.execBmBitClear m port addr mask t s
  | .demandWriteBack u t => Sys2Proof.Machine.execDemandWriteBack u t s
  | .spRead r port addr sched t => Sys2Proof.Machine.execSpRead r port addr sched t s
  | .spWrite r port addr lanes data sched t => Sys2Proof.Machine.execSpWrite r port addr lanes data sched t s
  | .spStallRetry r port t => Sys2Proof.Machine.execSpStallRetry r port t s
  | .memoryDataRead q r => Sys2Proof.Machine.execMemoryDataRead q r s
  | .memoryDataWrite q r data => Sys2Proof.Machine.execMemoryDataWrite q r data s
  | .regionClearEnd r => Sys2Proof.Machine.execRegionClearEnd r s
  | .queuePush r k item close t => Sys2Proof.Machine.execQueuePush r k item close t s
  | .queueClose r k t => Sys2Proof.Machine.execQueueClose r k t s
  | .queuePop r k t => Sys2Proof.Machine.execQueuePop r k t s
  | .heldPopTake r k t => Sys2Proof.Machine.execHeldPopTake r k t s
  | .heldPushComplete r k t => Sys2Proof.Machine.execHeldPushComplete r k t s
  | .watermarkClear r k t => Sys2Proof.Machine.execWatermarkClear r k t s
  | .clearWatermarks q r mask => Sys2Proof.Machine.execClearWatermarks q r mask s
  | .queuePointerMismatch r k which t => Sys2Proof.Machine.execQueuePointerMismatch r k which t s
  | .dualClockWordReadable r k freed t => Sys2Proof.Machine.execDualClockWordReadable r k freed t s
  | .hostQueuePush h offset data full t => Sys2Proof.Machine.execHostQueuePush h offset data full t s
  | .hostQueueClose h offset t => Sys2Proof.Machine.execHostQueueClose h offset t s
  | .hostQueuePop h offset t => Sys2Proof.Machine.execHostQueuePop h offset t s
  | .nop g x => Sys2Proof.Machine.execNop g x s
  | .stop g x => Sys2Proof.Machine.execStop g x s
  | .jmp g x => Sys2Proof.Machine.execJmp g x s
  | .djnz g x => Sys2Proof.Machine.execDjnz g x s
  | .loop g x => Sys2Proof.Machine.execLoop g x s
  | .rep g x => Sys2Proof.Machine.execRep g x s
  | .ret g x => Sys2Proof.Machine.execRet g x s
  | .waitg g x => Sys2Proof.Machine.execWaitg g x s
  | .evmask g x => Sys2Proof.Machine.execEvmask g x s
  | .seta g x => Sys2Proof.Machine.execSeta g x s
  | .adda g x => Sys2Proof.Machine.execAdda g x s
  | .setm g x => Sys2Proof.Machine.execSetm g x s
  | .clrf g x => Sys2Proof.Machine.execClrf g x s
  | .mac g x => Sys2Proof.Machine.execMac g x s
  | .msu g x => Sys2Proof.Machine.execMsu g x s
  | .mul g x => Sys2Proof.Machine.execMul g x s
  | .add g x => Sys2Proof.Machine.execAdd g x s
  | .sub g x => Sys2Proof.Machine.execSub g x s
  | .absd g x => Sys2Proof.Machine.execAbsd g x s
  | .mova g x => Sys2Proof.Machine.execMova g x s
  | .lda g x => Sys2Proof.Machine.execLda g x s
  | .sha g x => Sys2Proof.Machine.execSha g x s
  | .mina g x => Sys2Proof.Machine.execMina g x s
  | .maxa g x => Sys2Proof.Machine.execMaxa g x s
  | .fma g x => Sys2Proof.Machine.execFma g x s
  | .fms g x => Sys2Proof.Machine.execFms g x s
  | .fmul g x => Sys2Proof.Machine.execFmul g x s
  | .fadd g x => Sys2Proof.Machine.execFadd g x s
  | .cvtf g x => Sys2Proof.Machine.execCvtf g x s
  | .cvti g x => Sys2Proof.Machine.execCvti g x s
  | .acs2 g x => Sys2Proof.Machine.execAcs2 g x s
  | .acs4 g x => Sys2Proof.Machine.execAcs4 g x s
  | .minp g x => Sys2Proof.Machine.execMinp g x s
  | .out g x => Sys2Proof.Machine.execOut g x s
  | .stc g x => Sys2Proof.Machine.execStc g x s
  | .sgEventAssert g n t => Sys2Proof.Machine.execSgEventAssert g n t s
  | .eventEntry g t => Sys2Proof.Machine.execEventEntry g t s
  | .sgStart g t => Sys2Proof.Machine.execSgStart g t s
  | .sgStop g t => Sys2Proof.Machine.execSgStop g t s
  | .startMaskWrite q r mask => Sys2Proof.Machine.execStartMaskWrite q r mask s
  | .stopMaskWrite q r mask => Sys2Proof.Machine.execStopMaskWrite q r mask s
  | .clearFlags q r mask => Sys2Proof.Machine.execClearFlags q r mask s
  | .cmRead g row t => Sys2Proof.Machine.execCmRead g row t s
  | .cmWrite g row data t => Sys2Proof.Machine.execCmWrite g row data t s
  | .dsRead g addr t => Sys2Proof.Machine.execDsRead g addr t s
  | .imWrite g addr data t => Sys2Proof.Machine.execImWrite g addr data t s
  | .groupMemoryDataRead q r => Sys2Proof.Machine.execGroupMemoryDataRead q r s
  | .groupMemoryDataWrite q r data => Sys2Proof.Machine.execGroupMemoryDataWrite q r data s
  | .channelTrainingEnd c ok ms t => Sys2Proof.Machine.execChannelTrainingEnd c ok ms t s
  | .rateChange q serial rate => Sys2Proof.Machine.execRateChange q serial rate s
  | .rateChangeDone ok => Sys2Proof.Machine.execRateChangeDone ok s
  | .refreshRound => Sys2Proof.Machine.execRefreshRound s
  | .hotSpanRefresh => Sys2Proof.Machine.execHotSpanRefresh s
  | .dimmTemperaturePoll c dimm reading t => Sys2Proof.Machine.execDimmTemperaturePoll c dimm reading t s
  | .scheduledReadRequest r h addr pinned t => Sys2Proof.Machine.execScheduledReadRequest r h addr pinned t s
  | .scheduledWriteRequest r h addr pinned mask data t => Sys2Proof.Machine.execScheduledWriteRequest r h addr pinned mask data t s
  | .scheduledReturnSlot r h t => Sys2Proof.Machine.execScheduledReturnSlot r h t s
  | .bestEffortRead src addr tag t => Sys2Proof.Machine.execBestEffortRead src addr tag t s
  | .bestEffortWrite src addr mask data tag t => Sys2Proof.Machine.execBestEffortWrite src addr mask data tag t s
  | .bestEffortReadReturn src => Sys2Proof.Machine.execBestEffortReadReturn src s
  | .bestEffortWriteAck src => Sys2Proof.Machine.execBestEffortWriteAck src s
  | .writeCrcError src => Sys2Proof.Machine.execWriteCrcError src s
  | .selfRefreshEntry c => Sys2Proof.Machine.execSelfRefreshEntry c s
  | .selfRefreshExit c => Sys2Proof.Machine.execSelfRefreshExit c s
  | .dramScrubRead err => Sys2Proof.Machine.execDramScrubRead err s
  | .metadataLoad rr level addr out t => Sys2Proof.Machine.execMetadataLoad rr level addr out t s
  | .metadataWriteBack addr ecc t => Sys2Proof.Machine.execMetadataWriteBack addr ecc t s
  | .pageRewriteDone rr page => Sys2Proof.Machine.execPageRewriteDone rr page s
  | .rightsWrite q rr write v => Sys2Proof.Machine.execRightsWrite q rr write v s
  | .regionDefine q serial rr => Sys2Proof.Machine.execRegionDefine q serial rr s
  | .regionDelete q serial rr => Sys2Proof.Machine.execRegionDelete q serial rr s
  | .regionRekey q serial rr => Sys2Proof.Machine.execRegionRekey q serial rr s
  | .regionReinitialize q serial rr entry => Sys2Proof.Machine.execRegionReinitialize q serial rr entry s
  | .metadataInitDone rr => Sys2Proof.Machine.execMetadataInitDone rr s
  | .regionZeroFillDone rr => Sys2Proof.Machine.execRegionZeroFillDone rr s
  | .rekeySweepDone rr => Sys2Proof.Machine.execRekeySweepDone rr s
  | .reinitializeDone rr => Sys2Proof.Machine.execReinitializeDone rr s
  | .fundamentalReset h => Sys2Proof.Machine.execFundamentalReset h s
  | .hotReset h => Sys2Proof.Machine.execHotReset h s
  | .functionLevelReset h => Sys2Proof.Machine.execFunctionLevelReset h s
  | .pcieLinkDown h => Sys2Proof.Machine.execPcieLinkDown h s
  | .pcieLinkUp h speed width => Sys2Proof.Machine.execPcieLinkUp h speed width s
  | .portEventClear h mask => Sys2Proof.Machine.execPortEventClear h mask s
  | .dmaEnable h c vector => Sys2Proof.Machine.execDmaEnable h c vector s
  | .dmaDisable h c => Sys2Proof.Machine.execDmaDisable h c s
  | .dmaResume h c => Sys2Proof.Machine.execDmaResume h c s
  | .dmaDoorbell h c v => Sys2Proof.Machine.execDmaDoorbell h c v s
  | .dmaDescriptorStart h c desc data => Sys2Proof.Machine.execDmaDescriptorStart h c desc data s
  | .dmaDescriptorFinish h c => Sys2Proof.Machine.execDmaDescriptorFinish h c s
  | .bar2Read h offset len => Sys2Proof.Machine.execBar2Read h offset len s
  | .bar2Write h offset data => Sys2Proof.Machine.execBar2Write h offset data s
  | .mailboxDoorbell h v t => Sys2Proof.Machine.execMailboxDoorbell h v t s
  | .partitionOwnerWrite q p v => Sys2Proof.Machine.execPartitionOwnerWrite q p v s
  | .partitionClaimWrite q p mask => Sys2Proof.Machine.execPartitionClaimWrite q p mask s
  | .partitionReset q serial p frame => Sys2Proof.Machine.execPartitionReset q serial p frame s
  | .partitionResetRelease p => Sys2Proof.Machine.execPartitionResetRelease p s
  | .alStateRequest st => Sys2Proof.Machine.execAlStateRequest st s
  | .syncActivation bits cycle0 start cycle1 => Sys2Proof.Machine.execSyncActivation bits cycle0 start cycle1 s
  | .sync0Event t => Sys2Proof.Machine.execSync0Event t s
  | .sm2BufferWrite words t => Sys2Proof.Machine.execSm2BufferWrite words t s
  | .sm3BufferRead t => Sys2Proof.Machine.execSm3BufferRead t s
  | .processOutputApply p => Sys2Proof.Machine.execProcessOutputApply p s
  | .processInputLatch p => Sys2Proof.Machine.execProcessInputLatch p s
  | .pdInputWrite r w v t => Sys2Proof.Machine.execPdInputWrite r w v t s
  | .smWatchdogExpiry => Sys2Proof.Machine.execSmWatchdogExpiry s
  | .mailboxWrite counter data => Sys2Proof.Machine.execMailboxWrite counter data s
  | .mailboxRepeatRequest => Sys2Proof.Machine.execMailboxRepeatRequest s
  | .sdoDownload q idx sub complete data total => Sys2Proof.Machine.execSdoDownload q idx sub complete data total s
  | .sdoUpload q idx sub complete segmented => Sys2Proof.Machine.execSdoUpload q idx sub complete segmented s
  | .sdoDownloadSegment q toggle last data => Sys2Proof.Machine.execSdoDownloadSegment q toggle last data s
  | .sdoUploadSegment q toggle => Sys2Proof.Machine.execSdoUploadSegment q toggle s
  | .sdoInformation q idx sub => Sys2Proof.Machine.execSdoInformation q idx sub s
  | .sdoTransferTimeout owner => Sys2Proof.Machine.execSdoTransferTimeout owner s
  | .registerWrite q reg v => Sys2Proof.Machine.execRegisterWrite q reg v s
  | .foeWriteStream t => Sys2Proof.Machine.execFoeWriteStream t s
  | .foeWriteFirmware t => Sys2Proof.Machine.execFoeWriteFirmware t s
  | .foeReadLog => Sys2Proof.Machine.execFoeReadLog s
  | .foeDataPacket number bytes last => Sys2Proof.Machine.execFoeDataPacket number bytes last s
  | .siiWrite word v => Sys2Proof.Machine.execSiiWrite word v s
  | .siiRead word => Sys2Proof.Machine.execSiiRead word s
  | .ecatLinkLost p => Sys2Proof.Machine.execEcatLinkLost p s
  | .ecatLinkUp p => Sys2Proof.Machine.execEcatLinkUp p s
  | .loadFromHost q serial addr entries => Sys2Proof.Machine.execLoadFromHost q serial addr entries s
  | .loadFromFlash q serial addr => Sys2Proof.Machine.execLoadFromFlash q serial addr s
  | .bootStreamLoad => Sys2Proof.Machine.execBootStreamLoad s
  | .streamHeaderReceived hdr => Sys2Proof.Machine.execStreamHeaderReceived hdr s
  | .frames addr frames set_ => Sys2Proof.Machine.execFrames addr frames set_ s
  | .fill addr n frame set_ => Sys2Proof.Machine.execFill addr n frame set_ s
  | .region r word => Sys2Proof.Machine.execRegion r word s
  | .table r entries => Sys2Proof.Machine.execTable r entries s
  | .contract p k => Sys2Proof.Machine.execContract p k s
  | .pdmap r outMask inMask => Sys2Proof.Machine.execPdmap r outMask inMask s
  | .streamEnd => Sys2Proof.Machine.execStreamEnd s
  | .streamTagCheck tagOk extra => Sys2Proof.Machine.execStreamTagCheck tagOk extra s
  | .streamCutShort => Sys2Proof.Machine.execStreamCutShort s
  | .twinRebuildEnd r => Sys2Proof.Machine.execTwinRebuildEnd r s
  | .commitNextBoundary q serial mask => Sys2Proof.Machine.execCommitNextBoundary q serial mask s
  | .commitAtFrame q serial mask target => Sys2Proof.Machine.execCommitAtFrame q serial mask target s
  | .commitAtInstant q serial mask target => Sys2Proof.Machine.execCommitAtInstant q serial mask target s
  | .commitGate q serial mask => Sys2Proof.Machine.execCommitGate q serial mask s
  | .commitCancel q => Sys2Proof.Machine.execCommitCancel q s
  | .commitConditionsMet => Sys2Proof.Machine.execCommitConditionsMet s
  | .commitFreeze => Sys2Proof.Machine.execCommitFreeze s
  | .commitResetAssert => Sys2Proof.Machine.execCommitResetAssert s
  | .commitInstant => Sys2Proof.Machine.execCommitInstant s
  | .commitRelease => Sys2Proof.Machine.execCommitRelease s
  | .gateDriveChange => Sys2Proof.Machine.execGateDriveChange s
  | .gateSample high => Sys2Proof.Machine.execGateSample high s
  | .gateWaitLimit => Sys2Proof.Machine.execGateWaitLimit s
  | .frameCheck flips twinFlips crc => Sys2Proof.Machine.execFrameCheck flips twinFlips crc s
  | .passEnd us => Sys2Proof.Machine.execPassEnd us s
  | .heartbeatMissed => Sys2Proof.Machine.execHeartbeatMissed s
  | .voterMismatch all => Sys2Proof.Machine.execVoterMismatch all s
  | .onChipScrubAccess u addr err t => Sys2Proof.Machine.execOnChipScrubAccess u addr err t s
  | .scrubPeriodEnd dram unit => Sys2Proof.Machine.execScrubPeriodEnd dram unit s
  | .selfTestStepEnd failures patterns => Sys2Proof.Machine.execSelfTestStepEnd failures patterns s
  | .testBlockMemories q serial r b => Sys2Proof.Machine.execTestBlockMemories q serial r b s
  | .testScratchpadBank q serial r b => Sys2Proof.Machine.execTestScratchpadBank q serial r b s
  | .testGroupMemories q serial r b => Sys2Proof.Machine.execTestGroupMemories q serial r b s
  | .testDramChannel q serial c => Sys2Proof.Machine.execTestDramChannel q serial c s
  | .acceptPowerUpResult q serial => Sys2Proof.Machine.execAcceptPowerUpResult q serial s
  | .onDemandTestEnd failures us => Sys2Proof.Machine.execOnDemandTestEnd failures us s
  | .flashWriteImage q serial addr entries => Sys2Proof.Machine.execFlashWriteImage q serial addr entries s
  | .confirmImage q serial => Sys2Proof.Machine.execConfirmImage q serial s
  | .advanceRollback q serial => Sys2Proof.Machine.execAdvanceRollback q serial s
  | .writeBootStreamEntry0 q serial addr entries => Sys2Proof.Machine.execWriteBootStreamEntry0 q serial addr entries s
  | .writeBootStreamEntry1 q serial addr entries => Sys2Proof.Machine.execWriteBootStreamEntry1 q serial addr entries s
  | .flashOperationEnd out => Sys2Proof.Machine.execFlashOperationEnd out s
  | .sensorSample readings t => Sys2Proof.Machine.execSensorSample readings t s
  | .watchdogKick v => Sys2Proof.Machine.execWatchdogKick v s
  | .watchdogTimeoutWrite q v => Sys2Proof.Machine.execWatchdogTimeoutWrite q v s
  | .watchdogExpiry t => Sys2Proof.Machine.execWatchdogExpiry t s
  | .sramError uncorrectable t => Sys2Proof.Machine.execSramError uncorrectable t s
  | .logRingWrite n => Sys2Proof.Machine.execLogRingWrite n s
  | .logRead q => Sys2Proof.Machine.execLogRead q s
  | .clearSticky q mask => Sys2Proof.Machine.execClearSticky q mask s
  | .installKey q serial slot blob => Sys2Proof.Machine.execInstallKey q serial slot blob s
  | .deleteKey q serial slot => Sys2Proof.Machine.execDeleteKey q serial slot s
  | .revokeKey q serial slot => Sys2Proof.Machine.execRevokeKey q serial slot s
  | .idcode => Sys2Proof.Machine.execIdcode s
  | .samplePreload balls => Sys2Proof.Machine.execSamplePreload balls s
  | .bypass code bit => Sys2Proof.Machine.execBypass code bit s
  | .dmboxRead offset => Sys2Proof.Machine.execDmboxRead offset s
  | .dmboxWrite offset data => Sys2Proof.Machine.execDmboxWrite offset data s
  | .dmboxPoll => Sys2Proof.Machine.execDmboxPoll s
  | .trdrain => Sys2Proof.Machine.execTrdrain s
  | .debugSessionOpen q => Sys2Proof.Machine.execDebugSessionOpen q s
  | .debugSessionClose q => Sys2Proof.Machine.execDebugSessionClose q s
  | .tapReset => Sys2Proof.Machine.execTapReset s
  | .halt q serial r => Sys2Proof.Machine.execHalt q serial r s
  | .resume q serial r => Sys2Proof.Machine.execResume q serial r s
  | .step q serial r n => Sys2Proof.Machine.execStep q serial r n s
  | .haltTick r => Sys2Proof.Machine.execHaltTick r s
  | .restartTick r => Sys2Proof.Machine.execRestartTick r s
  | .monitorEnter q => Sys2Proof.Machine.execMonitorEnter q s
  | .ebreak pc => Sys2Proof.Machine.execEbreak pc s
  | .breakpointMatch unit pc => Sys2Proof.Machine.execBreakpointMatch unit pc s
  | .monitorResume q => Sys2Proof.Machine.execMonitorResume q s
  | .watchdogHold q v => Sys2Proof.Machine.execWatchdogHold q v s
  | .observeQueueHead q r k => Sys2Proof.Machine.execObserveQueueHead q r k s
  | .observeCaptureHead q bb n => Sys2Proof.Machine.execObserveCaptureHead q bb n s
  | .lanternStimulus port len data t => Sys2Proof.Machine.execLanternStimulus port len data t s
  | .fabricStimulus r port len data t => Sys2Proof.Machine.execFabricStimulus r port len data t s
  | .probeTraceSample t => Sys2Proof.Machine.execProbeTraceSample t s
  | .traceEnable q v => Sys2Proof.Machine.execTraceEnable q v s
  | .tracePacketWrite err t => Sys2Proof.Machine.execTracePacketWrite err t s
  | .triggerFire n t => Sys2Proof.Machine.execTriggerFire n t s
  | .injectionEnable q v => Sys2Proof.Machine.execInjectionEnable q v s
  | .injectSelfTestFailure q v => Sys2Proof.Machine.execInjectSelfTestFailure q v s
  | .injectClosingTestCutShort q v => Sys2Proof.Machine.execInjectClosingTestCutShort q v s
  | .injectClockSwitchStall q => Sys2Proof.Machine.execInjectClockSwitchStall q s
  | .injectMemoryBitFlip q => Sys2Proof.Machine.execInjectMemoryBitFlip q s
  | .injectMemoryDoubleFlip q => Sys2Proof.Machine.execInjectMemoryDoubleFlip q s
  | .injectWritePointerMismatch q => Sys2Proof.Machine.execInjectWritePointerMismatch q s
  | .injectReadPointerMismatch q => Sys2Proof.Machine.execInjectReadPointerMismatch q s
  | .injectIllegalInstruction q => Sys2Proof.Machine.execInjectIllegalInstruction q s
  | .injectCoefficientBitFlip q => Sys2Proof.Machine.execInjectCoefficientBitFlip q s
  | .injectCoefficientDoubleFlip q => Sys2Proof.Machine.execInjectCoefficientDoubleFlip q s
  | .injectInstructionBitFlip q => Sys2Proof.Machine.execInjectInstructionBitFlip q s
  | .injectInstructionDoubleFlip q => Sys2Proof.Machine.execInjectInstructionDoubleFlip q s
  | .injectUnlock q => Sys2Proof.Machine.execInjectUnlock q s
  | .injectSourceLoss q v => Sys2Proof.Machine.execInjectSourceLoss q v s
  | .injectPpsDisplacement q v => Sys2Proof.Machine.execInjectPpsDisplacement q v s
  | .injectMissCrossingLate q => Sys2Proof.Machine.execInjectMissCrossingLate q s
  | .injectMissBankConflict q => Sys2Proof.Machine.execInjectMissBankConflict q s
  | .injectMissUnplannedBank q => Sys2Proof.Machine.execInjectMissUnplannedBank q s
  | .injectMissHubNotReady q => Sys2Proof.Machine.execInjectMissHubNotReady q s
  | .injectMissWindowTarget q => Sys2Proof.Machine.execInjectMissWindowTarget q s
  | .injectMissHubLate q => Sys2Proof.Machine.execInjectMissHubLate q s
  | .injectMissQueueStall q => Sys2Proof.Machine.execInjectMissQueueStall q s
  | .injectMissVaneLate q => Sys2Proof.Machine.execInjectMissVaneLate q s
  | .injectMissSequencerOverrun q => Sys2Proof.Machine.execInjectMissSequencerOverrun q s
  | .injectVaneLate q => Sys2Proof.Machine.execInjectVaneLate q s
  | .injectVaneOutOfOrder q => Sys2Proof.Machine.execInjectVaneOutOfOrder q s
  | .injectVaneFifoOverflow q => Sys2Proof.Machine.execInjectVaneFifoOverflow q s
  | .injectVaneRateViolation q => Sys2Proof.Machine.execInjectVaneRateViolation q s
  | .injectVaneContention q => Sys2Proof.Machine.execInjectVaneContention q s
  | .injectVaneVccoFault q => Sys2Proof.Machine.execInjectVaneVccoFault q s
  | .injectVaneCalibrationLimit q => Sys2Proof.Machine.execInjectVaneCalibrationLimit q s
  | .injectDramCorrectable q => Sys2Proof.Machine.execInjectDramCorrectable q s
  | .injectDramUncorrectable q => Sys2Proof.Machine.execInjectDramUncorrectable q s
  | .injectDramCrcError q => Sys2Proof.Machine.execInjectDramCrcError q s
  | .injectTrainingFailure q => Sys2Proof.Machine.execInjectTrainingFailure q s
  | .injectDimmTemperature q v => Sys2Proof.Machine.execInjectDimmTemperature q v s
  | .injectDimmSensorFailure q v => Sys2Proof.Machine.execInjectDimmSensorFailure q v s
  | .injectTagFailure q => Sys2Proof.Machine.execInjectTagFailure q s
  | .injectMetadataUncorrectable q => Sys2Proof.Machine.execInjectMetadataUncorrectable q s
  | .injectMinorOverflow q => Sys2Proof.Machine.execInjectMinorOverflow q s
  | .injectMajorWrap q => Sys2Proof.Machine.execInjectMajorWrap q s
  | .injectCacheCorrectable q => Sys2Proof.Machine.execInjectCacheCorrectable q s
  | .injectPcieLinkDown q => Sys2Proof.Machine.execInjectPcieLinkDown q s
  | .injectDmaError q => Sys2Proof.Machine.execInjectDmaError q s
  | .injectDoorbellOverrun q => Sys2Proof.Machine.execInjectDoorbellOverrun q s
  | .injectEcatLinkLoss q => Sys2Proof.Machine.execInjectEcatLinkLoss q s
  | .injectSmWatchdog q => Sys2Proof.Machine.execInjectSmWatchdog q s
  | .injectEventMissed q => Sys2Proof.Machine.execInjectEventMissed q s
  | .injectMailboxRepeat q => Sys2Proof.Machine.execInjectMailboxRepeat q s
  | .injectStreamTagFailure q => Sys2Proof.Machine.execInjectStreamTagFailure q s
  | .injectStreamCutShort q => Sys2Proof.Machine.execInjectStreamCutShort q s
  | .injectStandbyLockFailure q => Sys2Proof.Machine.execInjectStandbyLockFailure q s
  | .injectBootDirectoryEmpty q => Sys2Proof.Machine.execInjectBootDirectoryEmpty q s
  | .injectFrameBitFlip q => Sys2Proof.Machine.execInjectFrameBitFlip q s
  | .injectFrameTripleFlip q => Sys2Proof.Machine.execInjectFrameTripleFlip q s
  | .injectFrameAndTwinFlip q => Sys2Proof.Machine.execInjectFrameAndTwinFlip q s
  | .injectFrameStuckBit q => Sys2Proof.Machine.execInjectFrameStuckBit q s
  | .injectWithheldHeartbeat q => Sys2Proof.Machine.execInjectWithheldHeartbeat q s
  | .injectPassPointerCorruption q => Sys2Proof.Machine.execInjectPassPointerCorruption q s
  | .injectCrcSingleError q => Sys2Proof.Machine.execInjectCrcSingleError q s
  | .injectCrcUncorrectable q => Sys2Proof.Machine.execInjectCrcUncorrectable q s
  | .injectSensorFailure q => Sys2Proof.Machine.execInjectSensorFailure q s
  | .injectPowerFault q => Sys2Proof.Machine.execInjectPowerFault q s
  | .injectClockLoss q => Sys2Proof.Machine.execInjectClockLoss q s
  | .injectWatchdogExpiry q => Sys2Proof.Machine.execInjectWatchdogExpiry q s
  | .injectSramUncorrectable q => Sys2Proof.Machine.execInjectSramUncorrectable q s
  | .injectSramCorrectable q => Sys2Proof.Machine.execInjectSramCorrectable q s
  | .injectSensorTemperature q v => Sys2Proof.Machine.execInjectSensorTemperature q v s
  | .injectTraceSinkError q => Sys2Proof.Machine.execInjectTraceSinkError q s
  | .injectTracePacketDrop q => Sys2Proof.Machine.execInjectTracePacketDrop q s
  | .injectTriggerFire q => Sys2Proof.Machine.execInjectTriggerFire q s
  | .clockReturn c => Sys2Proof.Machine.execClockReturn c s
  | .voltageReturn d => Sys2Proof.Machine.execVoltageReturn d s
  | .sm1MailboxRead => Sys2Proof.Machine.execSm1MailboxRead s
  | .unscheduledTokenDelivery l t => Sys2Proof.Machine.execUnscheduledTokenDelivery l t s

end Sys2Proof.Machine
end

