-- ==== Sys2Proof/Machine/Step.lean ====
section
/-! DEFINITION. One step: the command at the front of the queue, or one idle tick. -/

namespace Sys2Proof.Machine

open Sys2Proof

/-- The machine without the command at the front of its queue. -/
def State.withPending (s : State) (l : List Instr) : State := { s with pending := l }

/-- A step takes the command at the front of the queue and runs it; with an empty queue one tick passes, and a second of P00
may end (log entries 6 and 116). -/
def step (s : State) : Host.Outcome State Fault Refusal :=
  match s.pending with
  | [] => .next { s with toChip := s.toChip.idle }
  | c :: rest => exec c (s.withPending rest)

/-- The machine with the command that a word spells at the front of its queue. -/
def State.withFetchWord (s : State) (nbits w : Nat) : State :=
  match decodeTableWord nbits w with
  | some c => s.withPending (c :: s.pending)
  | none => s

end Sys2Proof.Machine
end

