-- ==== Sys2Proof/Safety.lean ====
section
/-! DEFINITION. The terms in which the statements speak: the areas of the state, what a command leaves alone, the
canonical form of the memories, and the order of device states. -/

namespace Sys2Proof.Machine

open Sys2Proof

/-- The areas of the state. -/
inductive Area where
  | dev | belfry | banks | vanes | parts | regions | lanes | mem | queues | slices | hub | cupola | ports | ecat | dict
  | loader | watch | test | aon | lantern | log | dbg | inject | free
  deriving DecidableEq, Repr

/-- An area holds the same in both states. -/
def Area.same : Area → Chip → Chip → Prop
  | .dev, a, b => b.dev = a.dev
  | .belfry, a, b => b.belfry = a.belfry
  | .banks, a, b => b.banks = a.banks
  | .vanes, a, b => b.vanes = a.vanes
  | .parts, a, b => b.parts = a.parts
  | .regions, a, b => b.regions = a.regions
  | .lanes, a, b => b.lanes = a.lanes
  | .mem, a, b => b.mem = a.mem
  | .queues, a, b => b.queues = a.queues
  | .slices, a, b => b.slices = a.slices
  | .hub, a, b => b.hub = a.hub
  | .cupola, a, b => b.cupola = a.cupola
  | .ports, a, b => b.ports = a.ports
  | .ecat, a, b => b.ecat = a.ecat
  | .dict, a, b => b.dict = a.dict
  | .loader, a, b => b.loader = a.loader
  | .watch, a, b => b.watch = a.watch
  | .test, a, b => b.test = a.test
  | .aon, a, b => b.aon = a.aon
  | .lantern, a, b => b.lantern = a.lantern
  | .log, a, b => b.log = a.log
  | .dbg, a, b => b.dbg = a.dbg
  | .inject, a, b => b.inject = a.inject
  | .free, a, b => b.free = a.free

/-- The command that leads from s to t leaves the queue of commands and every area but those listed as they were. -/
def OnlyTouches (l : List Area) (s t : State) : Prop :=
  t.pending = s.pending ∧ ∀ a : Area, a ∉ l → a.same s.toChip t.toChip

/-- The state with another device and the same queue of commands. -/
def State.on (s : State) (b : Chip) : State := { s with toChip := b }

/-- The words of the group memories are the same. -/
def SlicesKept (a b : Chip) : Prop :=
  b.slices.im = a.slices.im ∧ b.slices.cm = a.slices.cm ∧ b.slices.ds = a.slices.ds

/-- What an entry of the log may change beside the log itself: the counts and the log count in the dictionary, port
events, an emergency in the field network, log_loss in Lantern, and the note that SAFE withheld it (R427, R475, R478). -/
def logAreas : List Area := [.log, .dict, .ports, .ecat, .lantern, .dev]

/-- What an answer of the dictionary may change: the reply and the response on the requester's path (R337, R345). -/
def answerAreas : List Area := [.dict, .ports, .ecat, .dbg]

/-! ### Requests of the dictionary -/

/-- The device as a request finds it: at the request's tick, its path's open transfer closed. -/
def State.served (s : State) (q : Req) : Chip := (s.toChip.upTo q.t).closeSegment q.owner

/-- The device answers, and the write of v to entry idx:sub passes every check of R5 to R8. -/
def WriteAllowed (s : State) (q : Req) (idx sub v : Nat) : Bool :=
  (s.served q).dictAlive && ((s.served q).writeEntry q.owner idx sub v Except.ok).isOk

/-- The device answers, and a write of len bytes to entry idx:sub passes every check of R5 to R8. -/
def BytesAllowed (s : State) (q : Req) (idx sub len : Nat) : Bool :=
  (s.served q).dictAlive && ((s.served q).checkWrite q.owner idx sub len 0).isOk

/-- The device answers, and the requester may read entry idx:sub (R5, R7). -/
def ReadAllowed (s : State) (q : Req) (idx sub : Nat) : Bool :=
  (s.served q).dictAlive &&
    match DictTable.find idx sub with
    | some e => e.acc != .wo && (s.served q).mayRead q.owner idx sub e
    | none => false

/-- The device with the parameters of a complete-access write stored, before its serial. -/
def State.withParams (s : State) (q : Req) (idx : Nat) (params : List (Nat × Nat)) : Chip :=
  ((s.served q).storeParams q.owner (cmdKey idx) params).1

/-- The device answers, and a complete-access write of a command object is taken: its parameters and its serial pass their
checks, the serial is new, no command of the object is busy, and the owner's scope covers the target (R341 to R343). -/
def CommandTaken (s : State) (q : Req) (idx serial : Nat) (params : List (Nat × Nat)) : Bool :=
  let b := s.withParams q idx params
  (s.served q).dictAlive && ((s.served q).storeParams q.owner (cmdKey idx) params).2.isNone &&
    (b.writeEntry q.owner idx 1 serial Except.ok).isOk &&
    decide (Tab.get 0 (b.cmd (cmdKey idx)).serials q.owner ≠ serial) && (b.cmd (cmdKey idx)).busy.isNone &&
    b.serialScope q.owner idx

/-- The last answer on an owner's path. -/
def State.reply (s : State) (o : Nat) : Reply := Tab.get .none s.dict.replies o

/-- The status of an owner's last command in a command object. -/
def State.status (s : State) (idx o : Nat) : Nat := Tab.get 0 (s.cmd (cmdKey idx)).status o

/-- The command object is busy with a command of the owner, status 1. -/
def State.busyFor (s : State) (idx o : Nat) : Prop := (s.cmd (cmdKey idx)).busy = some o ∧ s.status idx o = 1

/-! ### The slice groups -/

/-- The device in the cycle in which a slice group issues its next instruction: an event whose boundary has passed is entered (R209,
R219). -/
def State.atIssue (s : State) (g : Grp) (x : Issue) : Chip := (s.toChip.upTo x.t).toIssue g

/-- The group's cycle then. -/
def State.issueCycle (s : State) (g : Grp) (x : Issue) : Nat := (s.atIssue g x).groupCycle g

/-- What the instruction works on: the word at the PC, its issue cycle and the buses. -/
def State.issueCtx (s : State) (g : Grp) (x : Issue) : Ctx :=
  { g := g, w := (s.atIssue g x).imWord g ((s.atIssue g x).group g).pc, c := s.issueCycle g x, x := x }

/-- The group may issue: it is in RUN or WAIT, its clock passes edges and it is not under test. -/
def State.mayIssue (s : State) (g : Grp) (x : Issue) : Bool := (s.toChip.upTo x.t).mayIssue g

/-- The group issues a legal instruction of opcode op, whose word and operands are read without error and whose buses are valid. -/
def State.Issues (s : State) (g : Grp) (x : Issue) (op : Nat) : Bool :=
  let d := s.atIssue g x
  let k := s.issueCtx g x
  s.mayIssue g x && decide ((d.group g).pc < 4096) && (d.gmErr g 0 (d.group g).pc).1 == 0 &&
    !d.isArmed 0x2D40 1 (groupKey g.r g.b) && wOp k.w == op && !waits k.w x && (d.illegal g k.w).isNone &&
    ((operandReads (d.group g).regs k.w).all fun i => (d.gmErr g 1 i.1).1 == 0)

/-! ### The canonical form of the memories -/

/-- The canonical form of a configuration plane: its runs rise without overlap, none is empty, and no run holds the empty
frame. -/
def planeWf (l : List FrameRun) : Prop :=
  (l.Pairwise fun x y => x.first + x.count ≤ y.first) ∧ ∀ x ∈ l, 0 < x.count ∧ x.frame ≠ 0#2048

/-- The partition section of a staged stream names each partition once and each region for one partition (R359). -/
def Staged.sectionsApart (x : Staged) : Prop := x.section_.Pairwise fun a b => a.1 ≠ b.1 ∧ a.2.2.1 &&& b.2.2.1 = 0#32

/-- The staged streams, and those that the busy commit has taken. -/
def State.stagedStreams (s : State) : List Staged :=
  s.loader.staged ++ match s.loader.commit with
    | some c => c.staged
    | none => []

/-- The memories of the regions, the DRAM bytes, the SII and the planes are in canonical form, and the staged streams name
each region once. -/
structure State.Canonical (s : State) : Prop where
  bm : Mem.wf s.mem.bm = true
  sp : Mem.wf s.mem.sp = true
  im : Mem.wf s.slices.im = true
  cm : Mem.wf s.slices.cm = true
  ds : Mem.wf s.slices.ds = true
  sii : Mem.wf s.ecat.sii = true
  dram : cellsWf s.hub.mem = true
  active : planeWf s.loader.active
  activeRef : planeWf s.loader.activeRef
  staging : planeWf s.loader.staging
  stagingRef : planeWf s.loader.stagingRef
  streams : ∀ x ∈ s.stagedStreams, x.sectionsApart

/-! ### Device states -/

/-- The transitions of R32. -/
def DeviceState.edge : DeviceState → DeviceState → Bool
  | _, .off => true
  | .off, .standby | .standby, .boot | .boot, .standby | .boot, .reduced => true
  | .reduced, .full | .reduced, .closing | .full, .closing | .safe, .closing => true
  | .reduced, .safe | .full, .safe | .closing, .safe => true
  | .reduced, .standby | .full, .standby | .closing, .standby | .safe, .standby => true
  | .safe, .reduced => true
  | _, _ => false

end Sys2Proof.Machine
end

