-- ==== Sys2Proof/Certificates/Slice0/Obligations.lean ====
section
/-! DEFINITION. The statements for the provers, in the order of the manual's chapters. Each says what a command, or the
device as a whole, does; docstrings name the rules. -/

open Sys2Proof Sys2Proof.Machine

/-! ### The block -/

/-- A step takes the command at the front of the queue and is exec of it on the device with the rest of the queue, and
every command leaves the rest of the queue as it stands. On an empty queue one tick passes while P16 is on, a second of
P00's counter ends or does not, as a free value says, and nothing else changes (the idle step is the model's choice, log
entries 6 and 116). -/
def Obligations.StepRunsTheFrontCommand : Prop :=
  (∀ (s : State) (c : Instr) (rest : List Instr), s.pending = c :: rest →
    step s = exec c { s with pending := rest }) ∧
  (∀ (s : State) (c : Instr), ∃ t, exec c s = .next t ∧ t.pending = s.pending) ∧
  (∀ s : State, s.pending = [] → ∃ t, step s = .next t ∧ OnlyTouches [.belfry, .aon, .free] s t ∧
    t.belfry = { s.belfry with tick := if s.powered 16 then (s.now + 1) % 2 ^ 64 else s.now } ∧
    t.aon = { s.aon with
      seconds := if s.powered 0 ∧ Config.secondPasses s.free = true then (s.aon.seconds + 1) % 2 ^ 32 else s.aon.seconds })

/-! ### Chapter 01: power, clocks and device states -/

/-- The device states that a supply, a pin or the clock moves (R32, R492, R495, R19, R21): what each event makes of the
device state, the power domains and what P00 holds. -/
def Obligations.SuppliesMoveTheDeviceState : Prop :=
  (∀ s : State, s.dev.st = .off → ∃ t, exec .p00SupplyGood s = .next t ∧ t.dev.st = .standby ∧ t.dev.prev = .off ∧
    t.dev.power = 1#20 ∧ t.dev.mainEn = true ∧ t.aon.powerLoss = true ∧ t.aon.intact = false) ∧
  (∀ s : State, ∃ t, exec .p00SupplyFail s = .next t ∧ t.dev.st = .off ∧ t.dev.power = 0#20 ∧
    t.log.ring = s.log.ring ∧ t.lantern.keys = s.lantern.keys) ∧
  (∀ (s : State) (mode : BitVec 3) (ref : Bool), s.dev.st = .standby → s.dev.mainEn = true →
    ∃ t, exec (.mainSuppliesGood mode ref) s = .next t ∧ t.dev.st = .boot ∧ t.dev.prev = .standby ∧ t.dev.mode = mode ∧
      t.dev.refClk = ref ∧ t.dev.power = 1#20 ∧ t.dev.gateDrive = true ∧ t.dbg.session = false ∧ t.aon = s.aon) ∧
  (∀ s : State, s.dev.st = .boot → ∃ t, exec .mainSuppliesLost s = .next t ∧ t.dev.st = .standby ∧ t.dev.mainEn = true ∧
    t.dev.gateDrive = true ∧ t.dev.power = 1#20 ∧ t.aon = s.aon) ∧
  (∀ (s : State) (rails : BitVec 5), rails ≠ 0#5 →
    (s.dev.st = .reduced ∨ s.dev.st = .full ∨ s.dev.st = .closing ∨ s.dev.st = .safe) →
    ∃ t, exec (.mainRailCollapse rails) s = .next t ∧ t.dev.st = .standby ∧ t.dev.mainEn = true ∧ t.dev.gateDrive = true ∧
      t.dev.power = 1#20 ∧ t.aon.intact = false ∧ t.aon.faultCode = evCode 4 14 (railUnit rails) 5 ∧
      t.aon.faultState = s.dev.st.code ∧ t.aon.unlogged = some s.aon.seconds) ∧
  (∀ (s : State) (mode : BitVec 3) (ref : Bool), s.dev.st = .standby → s.dev.mainEn = false →
    ∃ t, exec (.wakePulse mode ref) s = .next t ∧ t.dev.mainEn = true ∧
      (s.dev.mainGood = true → t.dev.st = .boot ∧ t.dev.mode = mode) ∧
      (s.dev.mainGood = false → t.dev.st = .standby ∧ t.dev.power = s.dev.power)) ∧
  (∀ s : State, ∃ t, exec .refClkStart s = .next t ∧ t.dev.refClk = true ∧ t.dev.st = s.dev.st ∧
    (s.powered 15 = true → s.clockState 35 = .notStarted → t.clockState 35 = .running) ∧
    (s.dev.st = .boot → t.lantern.held = false ∧ t.lantern.remaining = 2000) ∧ OnlyTouches [.dev, .lantern] s t)

/-- BOOT powers the domains one at a time in the order of R493, P16 starts Belfry's count at 0 (R36), a domain that is not
good in time is a power fault that keeps the device in BOOT (R414), and the selected image starts (R415). At entry to
REDUCED (R413, R172, R396, R486) P19 is powered, injection is off, the power-up test starts or is skipped as R396 says, and
the device is in REDUCED, or with all readiness bits set in FULL. -/
def Obligations.BootRunsToReduced : Prop :=
  (∀ (s : State) (d : Nat), s.dev.st = .boot → s.dev.bootFault = false →
    ([1, 2, 15, 14, 11, 12, 13, 16, 17, 18, 3, 4, 5, 6, 7, 8, 9, 10, 19].find? fun n => !s.powered n) = some d →
    (s.dev.refClk = true ∨ d = 1 ∨ d = 2 ∨ d = 15 ∨ d = 14) → (d = 19 → s.lantern.running = true) →
    ∃ t, exec (.domainPowerGood d) s = .next t ∧ t.powered d = true ∧ (∀ n, n ≠ d → t.powered n = s.powered n) ∧
      (d = 15 → s.dev.refClk = false → t.clockState 35 = s.clockState 35) ∧ (d = 16 → t.belfry.tick = 0) ∧ t.dev.st = .boot ∧ OnlyTouches [.dev, .belfry] s t) ∧
  (∀ (s : State) (d : Nat), s.dev.st = .boot → s.dev.bootFault = false →
    ([1, 2, 15, 14, 11, 12, 13, 16, 17, 18, 3, 4, 5, 6, 7, 8, 9, 10, 19].find? fun n => !s.powered n) = some d →
    (s.dev.refClk = true ∨ d = 1 ∨ d = 2 ∨ d = 15 ∨ d = 14) → (d = 19 → s.lantern.running = true) →
    ∃ t, exec (.domainPowerTimeout d) s = .next t ∧ t.dev.st = .boot ∧ t.dev.bootFault = true ∧
      t.aon.faultCode = evCode 4 14 d 5 ∧ t.dev.power = s.dev.power ∧ OnlyTouches (.aon :: logAreas) s t) ∧
  (∀ (s : State) (p : Bool), s.dev.st = .boot → s.dev.bootFault = false → s.dev.recovery = false →
    s.lantern.running = false → (∀ n, n < 19 → s.powered n = true) → s.lantern.pendingSlot = none → s.lantern.trial = false →
    s.lantern.confirmed = some p → s.candidate p = true →
    ∃ t, exec .imageStart s = .next t ∧ t.lantern.running = true ∧ t.lantern.runB = p ∧ t.dev = s.dev ∧
      t.aon.unlogged = none) ∧
  (∀ (s : State) (vcco : List Nat) (dimms : List Dimm), s.dev.st = .boot → s.lantern.running = true →
    s.dev.bootFault = false → (∀ n, n < 19 → s.powered n = true) →
    ∃ t, exec (.enterReduced vcco dimms) s = .next t ∧ t.powered 19 = true ∧ t.inject = {} ∧
      t.test.st = (if s.skipCheck = 0 then 2 else 1) ∧ t.test.recordCheck = s.skipCheck ∧
      (t.dev.st = .reduced ∨ (t.dev.st = .full ∧ t.readiness = 15)) ∧
      (∀ o, 1 ≤ o → o ≤ 6 → t.rights o = s.runningSlot.policy.getD o 0 % 16) ∧ t.belfry = s.belfry)

/-- The monitors of supplies and clocks (R17, R18, R21, R472): in REDUCED and FULL a supply outside its limits and the loss
of C32, C33, C36, C37 or C39 lead to SAFE with the event code as the cause, and the state before is REDUCED where the entry to FULL
was decided in the same C36 cycle (R35); the loss of C34, C35 or C38 makes its entry and changes no state; the loss of a region's clock fences the region; and the conditions clear when the value returns. -/
def Obligations.MonitorsLeadToSafeOrFence : Prop :=
  let before := fun (s : State) (t0 : Nat) =>
    if s.dev.st = .full ∧ (s.toChip.upTo t0).sameDecision (s.dev.decidedAt.map fun x => x.1) = true then 3 else s.dev.st.code
  (∀ (s : State) (d mV t0 : Nat), d < 20 → (s.dev.st = .reduced ∨ s.dev.st = .full) → s.powered d = true →
    s.dev.powerFault.getLsbD d = false →
    ∃ t, exec (.voltageMonitorFault d mV t0) s = .next t ∧ t.dev.st = .safe ∧ t.dev.cause = evCode 4 14 d 5 ∧
      t.aon.faultCode = evCode 4 14 d 5 ∧ t.aon.faultState = before s t0) ∧
  (∀ (s : State) (c kHz t0 : Nat), (c = 32 ∨ c = 33 ∨ c = 36 ∨ c = 37 ∨ c = 39) →
    (s.dev.st = .reduced ∨ s.dev.st = .full) → s.clockState c = .running →
    ∃ t, exec (.clockLoss c kHz t0) s = .next t ∧ t.dev.st = .safe ∧ t.dev.cause = evCode 4 14 c 6 ∧
      t.aon.faultCode = evCode 4 14 c 6 ∧ t.aon.faultState = before s t0) ∧
  (∀ (s : State) (c kHz t0 : Nat), (c = 34 ∨ c = 35 ∨ c = 38) → (s.dev.st = .reduced ∨ s.dev.st = .full) →
    s.clockState c = .running →
    ∃ t, exec (.clockLoss c kHz t0) s = .next t ∧ t.dev.st = s.dev.st ∧ t.clockState c = .lost ∧
      OnlyTouches (.belfry :: logAreas) s t) ∧
  (∀ (s : State) (r kHz t0 : Nat), r < 32 → (s.dev.st = .reduced ∨ s.dev.st = .full) → s.clockState r = .running →
    ∃ t, exec (.clockLoss r kHz t0) s = .next t ∧ t.dev.st = s.dev.st ∧ t.clockState r = .lost ∧
      (t.region r).fenced = true) ∧
  (∀ (s : State) (c : Nat), s.clockState c = .lost →
    ∃ t, exec (.clockReturn c) s = .next t ∧ t.clockState c = .running ∧ OnlyTouches [.dev] s t) ∧
  (∀ (s : State) (d : Nat), ∃ t, exec (.voltageReturn d) s = .next t ∧ t.dev.powerFault.getLsbD d = false ∧
    (∀ n, n ≠ d → t.dev.powerFault.getLsbD n = s.dev.powerFault.getLsbD n) ∧ OnlyTouches [.dev] s t)

/-- The commands of 0x2E01 and what follows them (R32 to R35, R72, R398, R494): shutdown leads to CLOSING with every bank
parked and P16 to P18 off, but not in the C36 cycle of the fault that led to SAFE (R35); recover leads from SAFE to REDUCED, and at once to FULL where every readiness bit is set, but
not while a fault is present or in the cycle of one; each region's planned release ends its reset; the end of self-refresh goes on to the
closing test, or after SAFE to STANDBY. -/
def Obligations.ShutdownAndRecoverChangeTheDeviceState : Prop :=
  (∀ (s : State) (q : Req) (n : Nat), CommandTaken s q 0x2E01 n [(3, 1)] = true →
    (s.dev.st = .reduced ∨ s.dev.st = .full ∨
      s.dev.st = .safe ∧ (s.toChip.upTo q.t).sameDecision s.dev.faultTick = false) →
    ∃ t, exec (.shutdown q n) s = .next t ∧ t.dev.st = .closing ∧ t.dev.prev = s.dev.st ∧
      t.dev.closingFromSafe = decide (s.dev.st = .safe) ∧ t.status 0x2E01 q.owner = 0 ∧
      t.powered 16 = false ∧ t.powered 17 = false ∧ t.powered 18 = false ∧
      (∀ k, k < 24 → (t.bank k).parkedPins = BitVec.allOnes 64)) ∧
  (∀ (s : State) (q : Req) (n : Nat), CommandTaken s q 0x2E01 n [(3, 1)] = true → s.dev.st = .safe →
    (s.toChip.upTo q.t).sameDecision s.dev.faultTick = true →
    ∃ t, exec (.shutdown q n) s = .next t ∧ t.dev = s.dev ∧ t.status 0x2E01 q.owner = 2) ∧
  (∀ (s : State) (q : Req) (n : Nat), CommandTaken s q 0x2E01 n [(3, 2)] = true →
    s.dev.st = .safe → s.faultPresent = false → (s.toChip.upTo q.t).sameDecision s.dev.faultTick = false →
    ∃ t, exec (.recover q n) s = .next t ∧ (t.dev.st = .reduced ∨ (t.dev.st = .full ∧ t.readiness = 15)) ∧
      t.status 0x2E01 q.owner = 0 ∧ t.inject = {} ∧ (∀ r, (t.region r).fenced = (s.region r).fenced)) ∧
  (∀ (s : State) (q : Req) (n : Nat), CommandTaken s q 0x2E01 n [(3, 2)] = true →
    s.dev.st = .safe → (s.faultPresent = true ∨ (s.toChip.upTo q.t).sameDecision s.dev.faultTick = true) →
    ∃ t, exec (.recover q n) s = .next t ∧ t.dev = s.dev ∧ t.status 0x2E01 q.owner = 3) ∧
  (∀ (s : State) (r due : Nat), (s.region r).recoverAt = some due → (s.region r).fenced = false →
    ∃ t, exec (.recoverRelease r) s = .next t ∧ (t.region r).inReset = false ∧ (t.region r).recoverAt = none ∧
      (t.region r).released = (s.toChip.upTo due).isle r ∧
      ((∀ which k, s.isArmed 0x2D30 which k = false) → ∀ j, j ≠ r → t.region j = s.region j)) ∧
  (∀ s : State, s.dev.st = .closing → s.dev.closingStage = 1 → s.dev.closingFromSafe = false →
    ∃ t, exec .closingSelfRefreshDone s = .next t ∧ t.dev.st = .closing ∧ t.dev.closingStage = 2 ∧ t.aon.intact = false ∧
      t.test.closing = true ∧ t.powered 11 = false ∧ t.powered 12 = false ∧ t.powered 13 = false) ∧
  (∀ s : State, s.dev.st = .closing → s.dev.closingStage = 1 → s.dev.closingFromSafe = true →
    ∃ t, exec .closingSelfRefreshDone s = .next t ∧ t.dev.st = .standby ∧ t.aon.intact = false ∧ t.dev.mainEn = false)

/-! ### Chapter 02: time, banks and vanes -/

/-- While LOCKED, a measurement within ten times the lock threshold sets the frequency term and the correction by the
control law of R510, with x the offset in ps and T the interval in ns, and records the offset; Belfry stays LOCKED. -/
def Obligations.MeasurementsFollowTheControlLaw : Prop :=
  let law := fun (s t : State) (x : Int) (T : Nat) =>
    t.belfry.offset = x ∧ t.belfry.st = .locked ∧ t.belfry.missed = 0 ∧
      t.belfry.term = clampInt (s.belfry.term - Int.tdiv (x * 1000000000) (16 * (T : Int))) (-100000000) 100000000 ∧
      t.belfry.corr = clampInt (t.belfry.term - Int.tdiv (x * 1000000000) (4 * (T : Int))) (-100000000) 100000000
  let steady := fun (s : State) (x : Int) => s.belfry.st = .locked ∧ s.belfry.returnFrom = none ∧
    s.belfry.frozenCorr = none ∧ s.belfry.fresh = false ∧ x.natAbs ≤ 10 * s.threshold ∧ s.reg 0x2D60 1 = 0
  (∀ (s : State) (x : Int) (t0 : Nat), s.source = 1 → s.powered 16 = true → steady s x →
    ∃ t, exec (.dcMeasurement x t0) s = .next t ∧ law s t x 1000000 ∧ t.now = max s.now t0 % 2 ^ 64 ∧
      OnlyTouches [.belfry] s t) ∧
  (∀ (s : State) (x : Int) (t0 : Nat), s.source = 1 → s.powered 16 = true → s.reg 0x2D60 1 ≠ 1 →
    ∃ t, exec (.dcMeasurement x t0) s = .next t ∧ t.belfry.offset = x ∧ t.belfry.missed = 0) ∧
  (∀ (s : State) (fine : Nat), s.source = 2 → s.reg 0x2D60 2 = 0 → s.reg 0x2301 4 ≠ 0 →
    s.ppsOutside fine = false → steady s (edgeOffset fine (s.reg 0x2301 4)) →
    ∃ t, exec (.ppsInEdge fine) s = .next t ∧ law s t (edgeOffset fine (s.reg 0x2301 4)) 1000000000 ∧
      t.reg 0x2301 4 = (s.reg 0x2301 4 + 1000000000) % 2 ^ 64 ∧ t.reg 0x2303 1 = fine % 2 ^ 64 ∧
      t.belfry.ppsWin = some (fine + 64000000000) ∧
      OnlyTouches [.belfry, .dict] s t) ∧
  (∀ (s : State) (fine : Nat), ∃ t, exec (.ppsInEdge fine) s = .next t ∧ t.reg 0x2303 1 = s.ppsInstant fine % 2 ^ 64 ∧
    (s.source = 2 → s.reg 0x2D60 1 ≠ 1 → s.ppsOutside (s.ppsInstant fine) = false → t.belfry.missed = 0 ∧
      t.belfry.offset = edgeOffset (s.ppsInstant fine)
        (if s.reg 0x2301 4 = 0 then nearestSecond (s.ppsInstant fine / 64) else s.reg 0x2301 4)) ∧
    (s.source ≠ 2 ∨ s.reg 0x2D60 1 = 1 ∨ s.ppsOutside (s.ppsInstant fine) = true → t.belfry.offset = s.belfry.offset ∧
      t.belfry.st = s.belfry.st ∧ OnlyTouches (.belfry :: logAreas) s t)) ∧
  (∀ (s : State) (q : Req) (n : Nat), WriteAllowed s q 0x2302 1 n = true → s.reg 0x2302 1 ≠ n → s.source = 3 →
    s.belfry.lastCorr = none → steady s (signed 64 (s.reg 0x2302 2)) →
    ∃ t, exec (.correctionSerial q n) s = .next t ∧ law s t (signed 64 (s.reg 0x2302 2)) 1000000000 ∧
      t.reg 0x2302 1 = n ∧ t.belfry.lastCorr = some (t.now : Int) ∧ t.reply q.owner = .done) ∧
  (∀ (s : State) (q : Req) (n : Nat), WriteAllowed s q 0x2302 1 n = true →
    ∃ t, exec (.correctionSerial q n) s = .next t ∧ t.reg 0x2302 1 = n ∧ t.reply q.owner = .done ∧
      (s.reg 0x2302 1 ≠ n → s.source = 3 → s.reg 0x2D60 1 ≠ 1 → t.belfry.offset = signed 64 (s.reg 0x2302 2) ∧
        t.belfry.missed = 0) ∧
      (s.reg 0x2302 1 = n → t.belfry.offset = s.belfry.offset))

/-- The sources of Belfry (R38 to R40): silence leads from LOCKED to HOLDOVER, with the correction at the frequency term,
and from LOCKING to FREE; the second missing PPS edge does the same, and each advances the designated time; HOLDOVER
ends in FREE at its limit; another source leads from LOCKED to LOCKING; a measurement that enters LOCKING more than 1 µs
off, with step policy 0 and no contract ARMED, steps the count by the offset and leaves correction and term (R42, R510);
and the step command sets the count, flushes every vane and gives each bank the new queue epoch (R43, R46). -/
def Obligations.BelfrySourcesAndSteps : Prop :=
  (∀ s : State, s.source ≠ 0 → s.belfry.st = .locked →
    ∃ t, exec .sourceTimeout s = .next t ∧ t.belfry.st = .holdover ∧ t.belfry.corr = s.belfry.term ∧
      (∀ c, s.belfry.frozenCorr = some c → t.corrNow = c)) ∧
  (∀ s : State, s.source ≠ 0 → s.belfry.st = .locking → ∃ t, exec .sourceTimeout s = .next t ∧ t.belfry.st = .free) ∧
  (∀ s : State, s.source = 2 → s.reg 0x2301 4 ≠ 0 → s.belfry.missed = 0 →
    ∃ t, exec .ppsWindowClose s = .next t ∧ t.reg 0x2301 4 = (s.reg 0x2301 4 + 1000000000) % 2 ^ 64 ∧
      t.belfry.missed = 1 ∧ t.belfry.st = s.belfry.st ∧ OnlyTouches [.belfry, .dict] s t) ∧
  (∀ s : State, s.source = 2 → s.belfry.missed = 1 → s.belfry.st = .locked →
    ∃ t, exec .ppsWindowClose s = .next t ∧ t.belfry.st = .holdover ∧ t.belfry.corr = s.belfry.term) ∧
  (∀ s : State, s.belfry.st = .holdover → ∃ t, exec .holdoverLimitExpiry s = .next t ∧ t.belfry.st = .free ∧
    t.belfry.returnFrom = some (s.now, s.corrNow, s.termNow)) ∧
  (∀ (s : State) (q : Req) (v : Nat), WriteAllowed s q 0x2301 1 v = true → v ≠ 0 → v ≠ s.source →
    ∃ t, exec (.disciplineSourceWrite q v) s = .next t ∧ t.source = v ∧ t.reply q.owner = .done ∧
      t.belfry.st = (if s.belfry.st = .locked then .locking else s.belfry.st) ∧ t.belfry.good = 0) ∧
  (∀ (s : State) (x : Int) (t0 : Nat), s.source = 1 → s.powered 16 = true → s.reg 0x2D60 1 = 0 →
    s.entersLocking x = true → 1000000 < x.natAbs → s.reg 0x2301 5 = 0 → s.anyArmed = false →
    s.belfry.frozenCorr = none → s.belfry.returnFrom = none →
    ∃ t, exec (.dcMeasurement x t0) s = .next t ∧ t.belfry.st = .locking ∧ t.belfry.offset = x ∧
      t.now = (((max s.now t0 % 2 ^ 64 : Nat) : Int) - Int.tdiv x 1000).toNat % 2 ^ 64 ∧ t.belfry.corr = s.belfry.corr ∧
      t.belfry.term = s.belfry.term) ∧
  (∀ (s : State) (q : Req) (n : Nat), CommandTaken s q 0x2E30 n [] = true → s.anyArmed = false →
    s.belfry.frozenCorr = none →
    ∃ t, exec (.belfryStep q n) s = .next t ∧ t.now = s.reg 0x2E30 3 % 2 ^ 64 ∧ t.status 0x2E30 q.owner = 0 ∧
      (∀ k, k < 24 → (t.bank k).qeBase = s.reg 0x2E30 3 % 2 ^ 64 / 2 ^ 22) ∧
      (∀ tp, tp < 1536 → (t.vane tp).queue = [] ∧ (t.vane tp).armed = none ∧ (t.vane tp).window = none ∧
        t.vaneQe tp = s.reg 0x2E30 3 % 2 ^ 64 / 2 ^ 22))

/-- PPS_OUT (R44): while 0x2301:06 is TRUE it rises at the next tick whose count is a multiple of 10^9 and falls 10,000,000
ticks later; a rise while it is FALSE does nothing, and a write of FALSE takes it low. -/
def Obligations.PpsOutMarksEverySecond : Prop :=
  (∀ s : State, s.reg 0x2301 6 = 1 → s.powered 16 = true →
    ∃ t, exec .ppsOutRise s = .next t ∧ t.belfry.pps = true ∧ t.now % 1000000000 = 0 ∧
      (s.now ≤ 18446744073000000000 → s.now ≤ t.now ∧ t.now < s.now + 1000000000) ∧
      t.belfry.ppsFall = t.now + 10000000 ∧ OnlyTouches [.belfry] s t) ∧
  (∀ s : State, s.reg 0x2301 6 ≠ 1 → exec .ppsOutRise s = .next s) ∧
  (∀ s : State, s.belfry.pps = true →
    ∃ t, exec .ppsOutFall s = .next t ∧ t.belfry.pps = false ∧ t.now = max s.now s.belfry.ppsFall % 2 ^ 64 ∧ OnlyTouches [.belfry] s t) ∧
  (∀ (s : State) (q : Req), WriteAllowed s q 0x2301 6 0 = true →
    ∃ t, exec (.registerWrite q (.dict 0x2301 6) 0) s = .next t ∧ t.belfry.pps = false ∧ t.reg 0x2301 6 = 0)

/-- Test-point banks (R48 to R50, R52, R53, R72): an accepted write of the mode, the I/O voltage, a direct output register or
the pattern control takes effect on its bank alone, pattern entries follow at their ticks until the run ends, a contention
bit is cleared by its mask, a pull is written in vane mode and counted outside it, and VCCO outside the code's level parks the bank until it
matches again. -/
def Obligations.BankWritesAndPatterns : Prop :=
  let others := fun (s t : State) (k : Nat) => ∀ j, j ≠ k → t.bank j = s.bank j
  (∀ (s : State) (q : Req) (k v : Nat), v < 3 → k < 24 → WriteAllowed s q (0x2400 + k) 1 v = true →
    (v = 1 → (s.bank k).mode = 2 → s.bankArmed k = false) → (v = 2 → (s.bank k).used = true) →
    ∃ t, exec (.bankModeWrite q k v) s = .next t ∧ (t.bank k).mode = v ∧ (t.bank k).faultParked = false ∧
      (v = 0 → (t.bank k).parkedPins = BitVec.allOnes 64) ∧
      t.reply q.owner = .done ∧ others s t k ∧ OnlyTouches (.belfry :: .banks :: .vanes :: answerAreas) s t) ∧
  (∀ (s : State) (q : Req) (k v : Nat), k < 24 → WriteAllowed s q (0x2400 + k) 2 v = true →
    ∃ t, exec (.ioVoltageWrite q k v) s = .next t ∧ (t.bank k).code = v ∧
      (t.bank k).vccoParked = !codeMatches v (s.bank k).mV ∧ t.reply q.owner = .done ∧ others s t k ∧
      OnlyTouches (.belfry :: .banks :: answerAreas) s t) ∧
  (∀ (s : State) (q : Req) (k : Nat) (v : BitVec 64), k < 24 → WriteAllowed s q (0x2400 + k) 9 v.toNat = true →
    (s.bank k).mode ≠ 2 →
    ∃ t, exec (.directOutputWrite q k false v) s = .next t ∧ (t.bank k).oe = v ∧ (t.bank k).level = (s.bank k).level ∧
      ((s.bank k).mode = 1 → (s.bank k).parked = false → (t.bank k).parkedPins = 0#64) ∧ others s t k) ∧
  (∀ (s : State) (q : Req) (k : Nat) (v : BitVec 64), k < 24 → WriteAllowed s q (0x2400 + k) 0x0A v.toNat = true →
    (s.bank k).mode ≠ 2 →
    ∃ t, exec (.directOutputWrite q k true v) s = .next t ∧ (t.bank k).level = v ∧ (t.bank k).oe = (s.bank k).oe ∧
      others s t k) ∧
  (∀ (s : State) (q : Req) (k v : Nat), k < 24 → WriteAllowed s q (0x2400 + k) 0x10 v = true → v ≠ 0 → (s.bank k).mode = 1 →
    (s.bank k).parked = false → max s.now q.t ≤ s.reg (0x2400 + k) 0x0D →
    ∃ t, exec (.patternControlWrite q k v) s = .next t ∧ (t.bank k).patCtl = v ∧ (t.bank k).patNext = 0 ∧
      (t.bank k).patDue = s.reg (0x2400 + k) 0x0D ∧ others s t k) ∧
  (∀ (s : State) (k : Nat), (s.bank k).patCtl ≠ 0 → (s.bank k).patNext < s.reg (0x2400 + k) 0x0F →
    ∃ t, exec (.patternEntryApply k) s = .next t ∧
      (t.bank k).oe = (Mem.get (s.bank k).pattern (s.bank k).patNext).setWidth 64 ∧
      (t.bank k).level = (Mem.get (s.bank k).pattern (s.bank k).patNext >>> 64).setWidth 64 ∧
      (t.bank k).parkedPins = 0#64 ∧ (t.bank k).patNext = (s.bank k).patNext + 1 ∧
      (t.bank k).patDue = (s.bank k).patDue + s.reg (0x2400 + k) 0x0E ∧ t.now = max s.now (s.bank k).patDue % 2 ^ 64 ∧
      others s t k ∧ OnlyTouches [.belfry, .banks] s t) ∧
  (∀ (s : State) (k : Nat), (s.bank k).patCtl = 1 → s.reg (0x2400 + k) 0x0F ≤ (s.bank k).patNext →
    ∃ t, exec (.patternRunEnd k) s = .next t ∧ (t.bank k).patCtl = 0 ∧ (t.bank k).oe = (s.bank k).oe ∧
      (t.bank k).level = (s.bank k).level ∧ others s t k ∧ OnlyTouches [.belfry, .banks] s t) ∧
  (∀ (s : State) (q : Req) (k : Nat) (m : BitVec 64), k < 24 → WriteAllowed s q (0x2400 + k) 0x13 m.toNat = true →
    ∃ t, exec (.clearContention q k m) s = .next t ∧ (t.bank k).contention = (s.bank k).contention &&& ~~~m ∧ others s t k) ∧
  (∀ (s : State) (k pin pull t0 : Nat), s.fabricRuns (bankRegion k) = true → (s.bank k).mode = 2 →
    ∃ t, exec (.bankControlWrite k pin pull t0) s = .next t ∧ Tab.get 99 (t.bank k).ctlPull pin = pull ∧
      (∀ n, n ≠ pin → Tab.get 99 (t.bank k).ctlPull n = Tab.get 99 (s.bank k).ctlPull n) ∧ others s t k ∧
      OnlyTouches [.belfry, .banks] s t) ∧
  (∀ (s : State) (k pin pull t0 : Nat), s.fabricRuns (bankRegion k) = true → (s.bank k).mode ≠ 2 →
    ∃ t, exec (.bankControlWrite k pin pull t0) s = .next t ∧ t.reg 0x2418 7 = sat32 (s.reg 0x2418 7 + 1) ∧
      OnlyTouches [.belfry, .dict] s t) ∧
  (∀ (s : State) (k mV t0 : Nat), codeMatches (s.bank k).code mV = false → (s.bank k).parked = false →
    ∃ t, exec (.vccoFault k mV t0) s = .next t ∧ (t.bank k).vccoParked = true ∧ (t.bank k).mV = mV ∧
      (t.bank k).parkedPins = BitVec.allOnes 64 ∧ (t.bank k).patCtl = 0 ∧ (t.bank k).mode = (s.bank k).mode ∧
      others s t k ∧ OnlyTouches (.belfry :: .banks :: .vanes :: logAreas) s t) ∧
  (∀ (s : State) (k mV t0 : Nat), codeMatches (s.bank k).code mV = true →
    ∃ t, exec (.vccoRecovery k mV t0) s = .next t ∧ (t.bank k).vccoParked = false ∧ (t.bank k).mV = mV ∧
      (t.bank k).mode = (s.bank k).mode ∧ others s t k ∧ OnlyTouches [.belfry, .banks] s t)

/-- A vane accepts a word while vane_ev_ready is 1 and its region's clock runs (R56 to R58, R64). A timed word whose instant
lies from 12 to 8,388,608 ticks ahead, and not before the last word queued, joins the queue with that instant; one that
comes too late is counted as late; an EPOCH word sets the queue epoch; a second word in one
region cycle is not taken. -/
def Obligations.VanesAcceptEventWords : Prop :=
  let tick := fun (s : State) (t0 : Nat) => (s.toChip.upTo t0).now
  let cycle := fun (s : State) (tp t0 : Nat) => (s.toChip.upTo t0).isle (bankRegion (tpBank tp))
  let ready := fun (s : State) (tp t0 : Nat) => s.vaneReady tp = true ∧ s.fabricRuns (bankRegion (tpBank tp)) = true ∧
    (s.vane tp).accepted ≠ some (cycle s tp t0)
  let instant := fun (s : State) (tp : Nat) (w : BitVec 32) =>
    (s.vaneQe tp * 2 ^ 22 + w.toNat % 2 ^ 22) * 64 + w.toNat / 2 ^ 22 % 64
  (∀ (s : State) (tp t0 : Nat) (w : BitVec 32), ready s tp t0 → w.toNat / 2 ^ 28 ≠ 15 →
    (tick s t0 + 12) * 64 ≤ instant s tp w → instant s tp w ≤ (tick s t0 + 8388608) * 64 →
    (∀ l, (s.vane tp).last = some l → l ≤ instant s tp w) → (∀ x ∈ (s.vane tp).queue, x.1 ≠ .epoch) →
    ∃ t, exec (.vaneEventWord tp w t0) s = .next t ∧
      (t.vane tp).queue = (s.vane tp).queue ++ [(actOf (w.toNat / 2 ^ 28), instant s tp w, w)] ∧
      (t.vane tp).last = some (instant s tp w) ∧ t.now = tick s t0 ∧ (∀ j, j ≠ tp → t.vane j = s.vane j) ∧
      OnlyTouches [.belfry, .vanes] s t) ∧
  (∀ (s : State) (tp t0 : Nat) (w : BitVec 32), ready s tp t0 → w.toNat / 2 ^ 28 ≠ 15 →
    instant s tp w < (tick s t0 + 12) * 64 →
    s.regionPart (bankRegion (tpBank tp)) = none →
    ∃ t, exec (.vaneEventWord tp w t0) s = .next t ∧ t.reg 0x2418 3 = sat32 (s.reg 0x2418 3 + 1) ∧
      t.vane tp = { s.vane tp with accepted := some (cycle s tp t0) } ∧ (∀ j, j ≠ tp → t.vane j = s.vane j) ∧
      OnlyTouches [.belfry, .vanes, .dict] s t) ∧
  (∀ (s : State) (tp t0 : Nat) (w : BitVec 32), (s.vane tp).accepted = some (cycle s tp t0) →
    ∃ t, exec (.vaneEventWord tp w t0) s = .next t ∧ t.vanes = s.vanes ∧ t.now = tick s t0 ∧ OnlyTouches [.belfry] s t) ∧
  (∀ (s : State) (tp t0 : Nat) (w : BitVec 32), ready s tp t0 → w.toNat / 2 ^ 28 = 15 → w.toNat / 2 ^ 22 % 64 = 0 →
    w.toNat % 2 ^ 22 ≠ 0 →
    ∃ t, exec (.epoch tp w t0) s = .next t ∧ t.vaneQe tp = (s.vaneQe tp + w.toNat % 2 ^ 22) % 2 ^ 42 ∧
      (t.vane tp).last = (s.vane tp).last ∧ (∀ j, j ≠ tp → t.vane j = s.vane j) ∧ OnlyTouches [.belfry, .vanes] s t)

/-- The actions of a vane (R56, R59, R62 to R64, R70): at its instant the head word leaves the queue, and after it EPOCH
words that reach the head; a drive, RELEASE or PARK word sets its pin's driver alone, a capture word arms, SAMPLE and DISARM
write their entries, a window action opens or closes the window, and its pulse follows in the next region cycle, and the reflex
actions give the driver to the reflex path and return it at the level that the path drives then. The even pin of a pair drives the
odd one with the complement, and an action of the odd pin is a contention (R74). Every
other vane, and every area but time, banks and vanes, stays as it is. -/
def Obligations.VaneActionsTakeEffectAtTheirInstant : Prop :=
  let head := fun (s : State) (tp : Nat) (a : Act) (i : Nat) =>
    ∃ w rest, (s.vane tp).queue = (a, i, w) :: rest
  let then_ := fun (s : State) (tp : Nat) (a : Act) (i : Nat) => s.toChip.upTo ((s.vane tp).deskewed a i / 64)
  let ran := fun (s t : State) (tp : Nat) (a : Act) (i : Nat) =>
    (t.vane tp).queue = ((s.vane tp).queue.drop 1).dropWhile (fun x => x.1 == .epoch) ∧ t.now = (then_ s tp a i).now ∧
      (∀ j, j ≠ tp → t.vane j = s.vane j) ∧ OnlyTouches [.belfry, .banks, .vanes] s t
  let free := fun (s : State) (tp i : Nat) => (s.vane tp).reflex = false ∧ s.paired (tpBank tp) (tpPos tp) = false ∧
    s.tooSoon tp i = false ∧ ∀ x ∈ (s.vane tp).queue.tail, x.2.1 ≠ i
  let pin := fun (t : State) (tp : Nat) (oe parked : Bool) => (t.bank (tpBank tp)).vOe.getLsbD (tpPos tp) = oe ∧
    (t.bank (tpBank tp)).parkedPins.getLsbD (tpPos tp) = parked
  let room := fun (s : State) (tp i : Nat) => (s.vane tp).lost = 0 ∧ (s.vane tp).fifo.length < 32 ∧
    (s.vane tp).fifoEpoch = some (i / 64 / 2 ^ 22)
  let entered := fun (s t : State) (tp kind : Nat) (level : Bool) (i : Nat) =>
    (t.vane tp).fifo = (s.vane tp).fifo ++ [capEntry kind level i (i / 64)]
  (∀ (s : State) (tp i : Nat), head s tp .nop i → ∃ t, exec (.vaneNop tp) s = .next t ∧ ran s t tp .nop i ∧ t.banks = s.banks) ∧
  (∀ (s : State) (tp i : Nat), head s tp .driveLow i → free s tp i → ∃ t, exec (.driveLow tp) s = .next t ∧ ran s t tp .driveLow i ∧
    pin t tp true false ∧ (t.bank (tpBank tp)).vLevel.getLsbD (tpPos tp) = false) ∧
  (∀ (s : State) (tp i : Nat), head s tp .driveHigh i → free s tp i → ∃ t, exec (.driveHigh tp) s = .next t ∧ ran s t tp .driveHigh i ∧
    pin t tp true false ∧ (t.bank (tpBank tp)).vLevel.getLsbD (tpPos tp) = true) ∧
  (∀ (s : State) (tp i : Nat), head s tp .release i → free s tp i → ∃ t, exec (.release tp) s = .next t ∧ ran s t tp .release i ∧
    pin t tp false false) ∧
  (∀ (s : State) (tp i : Nat), head s tp .park i → free s tp i → ∃ t, exec (.park tp) s = .next t ∧ ran s t tp .park i ∧
    pin t tp (s.pinParkDrive tp).1 true) ∧
  (∀ (s : State) (tp i : Nat), head s tp .captureRise i → ∃ t, exec (.captureRise tp) s = .next t ∧ ran s t tp .captureRise i ∧
    (t.vane tp).armed = some (.rise, i) ∧ t.banks = s.banks) ∧
  (∀ (s : State) (tp i : Nat), head s tp .captureFall i → ∃ t, exec (.captureFall tp) s = .next t ∧ ran s t tp .captureFall i ∧
    (t.vane tp).armed = some (.fall, i) ∧ t.banks = s.banks) ∧
  (∀ (s : State) (tp i : Nat), head s tp .captureAny i → ∃ t, exec (.captureAny tp) s = .next t ∧ ran s t tp .captureAny i ∧
    (t.vane tp).armed = some (.any, i) ∧ t.banks = s.banks) ∧
  (∀ (s : State) (tp i : Nat) (level : Bool), head s tp .sample i → room s tp i →
    ∃ t, exec (.sample tp level) s = .next t ∧ ran s t tp .sample i ∧ entered s t tp 2 level i ∧ t.banks = s.banks) ∧
  (∀ (s : State) (tp i : Nat), head s tp .disarm i → room s tp i → (s.vane tp).armed.isSome = true →
    ∃ t, exec (.disarm tp) s = .next t ∧ ran s t tp .disarm i ∧ entered s t tp 4 false i ∧ (t.vane tp).armed = none) ∧
  (∀ (s : State) (tp i : Nat), head s tp .windowLow i → ∃ t, exec (.windowLow tp false) s = .next t ∧ ran s t tp .windowLow i ∧
    (t.vane tp).window = some (false, false) ∧ (t.vane tp).fail = (s.vane tp).fail) ∧
  (∀ (s : State) (tp i : Nat), head s tp .windowHigh i → ∃ t, exec (.windowHigh tp true) s = .next t ∧ ran s t tp .windowHigh i ∧
    (t.vane tp).window = some (true, false) ∧ (t.vane tp).fail = (s.vane tp).fail) ∧
  (∀ (s : State) (tp i : Nat), head s tp .windowLow i → room s tp i →
    ∃ t, exec (.windowLow tp true) s = .next t ∧ ran s t tp .windowLow i ∧ entered s t tp 5 true i ∧
      (t.vane tp).window = some (false, true) ∧ (t.vane tp).fail = true) ∧
  (∀ (s : State) (tp i : Nat) (e f : Bool), head s tp .windowClose i → (s.vane tp).window = some (e, f) →
    ∃ t, exec (.windowClose tp) s = .next t ∧ ran s t tp .windowClose i ∧ (t.vane tp).window = none ∧
      ((∀ x ∈ (s.vane tp).winOut, x.1 ≤ (then_ s tp .windowClose i).isle (bankRegion (tpBank tp))) →
        (t.vane tp).winOut.getLast? = some ((then_ s tp .windowClose i).isle (bankRegion (tpBank tp)) + 1, f))) ∧
  (∀ (s : State) (tp i : Nat), head s tp .reflexArm i →
    ∃ t, exec (.reflexArm tp) s = .next t ∧ ran s t tp .reflexArm i ∧ (t.vane tp).reflex = true ∧
      (t.vane tp).reflexAt = i ∧ (t.bank (tpBank tp)).parkedPins.getLsbD (tpPos tp) = false) ∧
  (∀ (s : State) (tp i : Nat), head s tp .reflexDisarm i → (s.vane tp).reflex = true →
    ∃ t, exec (.reflexDisarm tp) s = .next t ∧ ran s t tp .reflexDisarm i ∧ (t.vane tp).reflex = false ∧
      (t.bank (tpBank tp)).vOe.getLsbD (tpPos tp) = ((then_ s tp .reflexDisarm i).rfxDrive tp).1 ∧
      (t.bank (tpBank tp)).vLevel.getLsbD (tpPos tp) = ((then_ s tp .reflexDisarm i).rfxDrive tp).2) ∧
  (∀ (s : State) (tp i : Nat), head s tp .driveHigh i → (s.vane tp).reflex = false → s.paired (tpBank tp) (tpPos tp) = true →
    tpPos tp % 2 = 0 → s.tooSoon tp i = false → (∀ x ∈ (s.vane tp).queue.tail, x.2.1 ≠ i) →
    ∃ t, exec (.driveHigh tp) s = .next t ∧ ran s t tp .driveHigh i ∧ pin t tp true false ∧
      (t.bank (tpBank tp)).vLevel.getLsbD (tpPos tp) = true ∧ (t.bank (tpBank tp)).vOe.getLsbD (tpPos tp + 1) = true ∧
      (t.bank (tpBank tp)).vLevel.getLsbD (tpPos tp + 1) = false) ∧
  (∀ (s : State) (tp i : Nat), head s tp .driveHigh i → s.paired (tpBank tp) (tpPos tp) = true → tpPos tp % 2 = 1 →
    ∃ t, exec (.driveHigh tp) s = .next t ∧ (t.bank (tpBank tp)).contention.getLsbD (tpPos tp) = true ∧
      (t.bank (tpBank tp)).vOe = (s.bank (tpBank tp)).vOe ∧ (t.bank (tpBank tp)).vLevel = (s.bank (tpBank tp)).vLevel ∧
      t.reg 0x2418 7 = sat32 (s.reg 0x2418 7 + 1))

/-- Edges, deviations, the fabric's access and calibration (R61 to R64, R68, R76): the first matching edge from the armed
instant on is recorded and disarms; the first deviation of 500 ps or more fails its window; one pop in a region cycle
removes the oldest entry, and vane_fail is cleared but for a failure of its own cycle;
the standby line is calibrated while 0x2418:01 is TRUE, changes roles, or is deferred or over its limit with an entry. -/
def Obligations.VaneCapturesAndCalibration : Prop :=
  let cycle := fun (s : State) (tp t0 : Nat) => (s.toChip.upTo t0).isle (bankRegion (tpBank tp))
  let room := fun (s : State) (tp i : Nat) => (s.vane tp).lost = 0 ∧ (s.vane tp).fifo.length < 32 ∧
    (s.vane tp).fifoEpoch = some (i / 64 / 2 ^ 22)
  let others := fun (s t : State) (tp : Nat) => ∀ j, j ≠ tp → t.vane j = s.vane j
  (∀ (s : State) (tp fine from_ : Nat) (e : EdgeSel) (rising : Bool), (s.vane tp).armed = some (e, from_) →
    e.matches rising = true → from_ ≤ s.recorded tp fine → room s tp (s.recorded tp fine) →
    ∃ t, exec (.captureEdge tp rising fine) s = .next t ∧ (t.vane tp).armed = none ∧
      (t.vane tp).fifo = (s.vane tp).fifo ++
        [capEntry (if rising then 0 else 1) rising (s.recorded tp fine) (s.recorded tp fine / 64)] ∧ others s t tp ∧
      OnlyTouches [.belfry, .vanes] s t) ∧
  (∀ (s : State) (tp fine ps : Nat) (e : Bool), (s.vane tp).window = some (e, false) → 500 ≤ ps →
    room s tp (s.recorded tp fine) →
    ∃ t, exec (.windowDeviation tp fine (!e) ps) s = .next t ∧ (t.vane tp).fail = true ∧
      (t.vane tp).window = some (e, true) ∧
      (t.vane tp).fifo = (s.vane tp).fifo ++ [capEntry 5 (!e) (s.recorded tp fine) (s.recorded tp fine / 64)] ∧ others s t tp) ∧
  (∀ (s : State) (tp t0 : Nat), s.fabricRuns (bankRegion (tpBank tp)) = true →
    ((s.vane tp).popped.map fun x => x.1) ≠ some (cycle s tp t0) →
    ∃ t, exec (.capturePop tp t0) s = .next t ∧ (t.vane tp).fifo = (s.vane tp).fifo.tail ∧ others s t tp ∧
      OnlyTouches [.belfry, .vanes] s t) ∧
  (∀ (s : State) (tp t0 : Nat), s.fabricRuns (bankRegion (tpBank tp)) = true →
    ∃ t, exec (.vaneFailClear tp t0) s = .next t ∧ (t.vane tp).fail = ((s.vane tp).fail && (s.vane tp).failAt == some (cycle s tp t0)) ∧ others s t tp ∧
      OnlyTouches [.belfry, .vanes] s t) ∧
  (∀ (s : State) (tp : Nat), s.reg 0x2418 1 = 1 →
    ∃ t, exec (.calibrationRun tp) s = .next t ∧ (t.vane tp).calibrated = true ∧ others s t tp ∧ OnlyTouches [.vanes] s t) ∧
  (∀ (s : State) (tp : Nat), (s.vane tp).calibrated = true → s.tickFree tp = true →
    ∃ t, exec (.lineSwitch tp) s = .next t ∧ (t.vane tp).line = !(s.vane tp).line ∧ (t.vane tp).calibrated = false ∧
      (t.vane tp).degraded = false ∧ others s t tp ∧ OnlyTouches [.vanes] s t) ∧
  (∀ (s : State) (tp : Nat), (s.vane tp).calibrated = true → (s.vane tp).deferred = false →
    ∃ t, exec (.calibrationDeferred tp) s = .next t ∧ (t.vane tp).deferred = true ∧ others s t tp ∧
      OnlyTouches (.vanes :: logAreas) s t) ∧
  (∀ (s : State) (tp : Nat), (s.vane tp).degraded = false → s.log.pending < 256 →
    ∃ t, exec (.calibrationLimit tp) s = .next t ∧ (t.vane tp).degraded = true ∧ others s t tp ∧
      t.log = s.log.push (s.entry (bankEv (tpBank tp) 8 3 false tp 0) false))

/-! ### Chapters 03 to 05: schedule, nets, islands and crossings -/

/-- A slot miss (R90 to R93, R479): every miss of a checked region is its last miss record; in an ARMED partition the region is
fenced, the contract becomes BROKEN, and 0x25ii:06 holds the code, but of the misses of one tick the lowest region and slot alone
does so and the others count as misses while BROKEN; in a BROKEN one it is counted in 0x252x:0C and fences nothing; in a region that
no partition holds, one under reset, or one halted in an earlier tick, no slot is checked. -/
def Obligations.SlotMissesBreakTheContract : Prop :=
  let live := fun (s : State) (r p t0 : Nat) => r < 32 ∧ p < 8 ∧ (s.region r).part = some p ∧
    (s.toChip.upTo t0).checksSlots r = true
  let preceded := fun (s : State) (r t0 : Nat) (m : MissInfo) => s.pending.any ((s.toChip.upTo t0).precedes r m.slot)
  (∀ (s : State) (r p t0 : Nat) (m : MissInfo), live s r p t0 → ((s.part p).status = .armed ∨ (s.part p).status = .broken) →
    ∃ t, exec (.slotMiss r m t0) s = .next t ∧ (t.region r).lastMiss.map (fun x => (x.cause, x.slot, x.tag, x.tick)) =
        some (m.cause, m.slot, m.tag, (s.toChip.upTo t0).tbCount r) ∧
      t.reg (0x2530 + r) 8 = m.cause ∧ t.dev.st = s.dev.st) ∧
  (∀ (s : State) (r p t0 : Nat) (m : MissInfo), live s r p t0 → (s.part p).status = .armed → preceded s r t0 m = false →
    (s.region r).fenced = false →
    ∃ t, exec (.slotMiss r m t0) s = .next t ∧ (t.region r).fenced = true ∧ (t.part p).status = .broken ∧
      t.reg (0x2500 + r) 6 = evCode 3 6 r (0x100 + m.cause) ∧
      (∀ j, j ≠ r → (t.region j).fenced = (s.region j).fenced)) ∧
  (∀ (s : State) (r p t0 : Nat) (m : MissInfo), live s r p t0 → s.isArmed 0x2D62 m.cause r = false →
    ((s.part p).status = .broken ∨ (s.part p).status = .armed ∧ preceded s r t0 m = true) →
    ∃ t, exec (.slotMiss r m t0) s = .next t ∧ t.reg (0x2521 + p) 0x0C = sat32 (s.reg (0x2521 + p) 0x0C + 1) ∧
      (t.region r).fenced = (s.region r).fenced ∧ t.parts = s.parts ∧
      OnlyTouches [.belfry, .dict, .regions, .lanes, .dbg] s t) ∧
  (∀ (s : State) (r t0 : Nat) (m : MissInfo), s.isArmed 0x2D62 m.cause r = false →
    ((s.region r).part = none ∨ (s.toChip.upTo t0).checksSlots r = false) →
    ∃ t, exec (.slotMiss r m t0) s = .next t ∧ OnlyTouches [.belfry] s t)

/-- Re-arm (R96, R104, R511): taken in FULL for a BROKEN partition none of whose regions is fenced, halted or in a safe state,
it waits for the next frame boundary, and at it the contract is ARMED again, the first miss and the count of misses while
broken clear, and the command ends with status 0. -/
def Obligations.RearmRestoresTheContract : Prop :=
  (∀ (s : State) (q : Req) (n p : Nat), CommandTaken s q 0x2E25 n [(3, p), (4, 0)] = true → s.dev.st = .full →
    (s.part p).status = .broken → (∀ r ∈ s.partRegions p, (s.region r).fenced = false ∧ (s.region r).halted = false ∧
      (s.region r).safeBlocks = 0#64) →
    ∃ t, exec (.rearm q n p 0) s = .next t ∧ t.busyFor 0x2E25 q.owner ∧
      (t.part p).rearmAt = some ((max s.now q.t % 2 ^ 64 / 2 ^ (s.part p).k + 1) * 2 ^ (s.part p).k) ∧
      (t.part p).status = .broken ∧ (∀ j, j ≠ p → t.part j = s.part j) ∧
      OnlyTouches (.belfry :: .parts :: answerAreas) s t) ∧
  (∀ (s : State) (p due o : Nat), p < 8 → (s.part p).rearmAt = some due → (s.cmd 0x2E25).busy = some o →
    ∃ t, exec (.rearmBoundary p) s = .next t ∧ (t.part p).status = .armed ∧ (t.part p).firstMiss = none ∧
      (t.part p).rearmAt = none ∧ t.reg (0x2521 + p) 0x0C = 0 ∧ t.reg (0x2521 + p) 4 = due / 2 ^ (s.part p).k ∧
      (t.cmd 0x2E25).busy = none ∧ t.status 0x2E25 o = 0 ∧ t.now = max s.now due % 2 ^ 64 ∧ (∀ j, j ≠ p → t.part j = s.part j) ∧
      OnlyTouches (.belfry :: .parts :: logAreas) s t)

/-- Lost lock and the island restart (R139 to R141, R150, R151): a detection of lost lock counts in 0x25ii:07 and fences the
region; a restart of a fenced region whose cause has gone holds it under reset and locks its standby; the lock plans the release, at the
second edge after it, or in a partition with slot tables at the frame named, or the next one where that has begun (the model's
choice, log entry 128); the release ends the fence and the reset on the standby with a new phase; and a standby that does not lock ends the
restart with status 5. -/
def Obligations.IslandsUnlockAndRestart : Prop :=
  (∀ (s : State) (r d t0 : Nat), r < 32 → d ≠ 2 → ((s.region r).halted = false ∨ d ≠ 1) → (s.region r).fenced = false →
    ∃ t, exec (.islandUnlock r d t0) s = .next t ∧ (t.region r).fenced = true ∧ (t.region r).unlock = true ∧
      t.reg (0x2500 + r) 7 = sat32 (s.reg (0x2500 + r) 7 + 1) ∧ t.reg (0x2500 + r) 6 = evCode 3 5 r 1 ∧
      t.dev.st = s.dev.st) ∧
  (∀ (s : State) (r t0 : Nat), (s.region r).halted = true →
    ∃ t, exec (.islandUnlock r 1 t0) s = .next t ∧ OnlyTouches [.belfry] s t) ∧
  (∀ (s : State) (q : Req) (n r : Nat), CommandTaken s q 0x2E05 n [(3, r), (4, 0)] = true → s.serving = true →
    (s.region r).fenced = true → (s.region r).halted = false → s.causePresent r = false → s.tabledPart r = none →
    ∃ t, exec (.islandRestart q n r 0) s = .next t ∧ t.busyFor 0x2E05 q.owner ∧ (t.region r).inReset = true ∧
      (t.region r).standby = .locking (s.region r).m ∧ (t.region r).restartAt.isSome = true ∧
      (t.region r).fenced = true) ∧
  (∀ (s : State) (r m : Nat), (s.region r).standby = .locking m → s.isArmed 0x2DC0 3 0 = false →
    s.tabledPart r = none → (s.region r).restartAt.isSome = true →
    ∃ t, exec (.standbyLockDone r) s = .next t ∧ (t.region r).standby = .locked m ∧
      (t.region r).restartAt = some (((s.now * 8 / (s.region r).m + 2) * (s.region r).m + 7) / 8) ∧ (∀ j, j ≠ r → t.region j = s.region j) ∧
      OnlyTouches [.regions] s t) ∧
  (∀ (s : State) (r m p due : Nat), (s.region r).standby = .locking m → s.isArmed 0x2DC0 3 0 = false →
    s.tabledPart r = some p → (s.region r).restartAt = some due →
    ∃ t, exec (.standbyLockDone r) s = .next t ∧ (t.region r).standby = .locked m ∧
      (t.region r).restartAt = some (if due < s.now then (s.now / 2 ^ (s.part p).k + 1) * 2 ^ (s.part p).k else due) ∧
      OnlyTouches [.regions] s t) ∧
  (∀ (s : State) (r m due o : Nat), (s.region r).standby = .locking m → (s.region r).restartAt = some due →
    (s.cmd 0x2E05).busy = some o →
    ∃ t, exec (.standbyLockTimeout r) s = .next t ∧ (t.region r).restartAt = none ∧ t.status 0x2E05 o = 5 ∧
      (t.cmd 0x2E05).busy = none ∧ (t.region r).fenced = (s.region r).fenced) ∧
  (∀ (s : State) (r m due o : Nat), (s.region r).standby = .locked m → (s.region r).restartAt = some due →
    (s.cmd 0x2E05).busy = some o → (∀ which k, s.isArmed 0x2D30 which k = false) →
    ∃ t, exec (.islandRestartRelease r) s = .next t ∧ (t.region r).fenced = false ∧ (t.region r).inReset = false ∧
      (t.region r).unlock = false ∧ (t.region r).restartAt = none ∧
      (t.region r).released = ((s.toChip.upTo due).startIsle r).isle r ∧ (t.region r).phase = some s.free ∧ (∀ k ∈ regionBanks r, (t.bank k).faultParked = false) ∧ t.status 0x2E05 o = 0 ∧
      (t.cmd 0x2E05).busy = none ∧ (∀ j, j ≠ r → t.region j = s.region j))

/-- Tokens between regions (R143 to R148): in a send slot a token joins those in flight on its lane, for the receiver's cycle 3
after its landing, one in each sender cycle; in a receive slot the token due is delivered with its data and valid, a slot for which
none was presented delivers one that is not valid, and a fenced sender's slot delivers poison; an unscheduled token waits in the
sender's buffer and is delivered in order from 3 receiver cycles on; toward a fenced receiver a token is discarded and
counted. Every other lane stays as it is. -/
def Obligations.TokensCrossBetweenRegions : Prop :=
  let others := fun (s t : State) (l : Lane) => ∀ k, laneKey k ≠ laneKey l → t.lane k = s.lane k
  let cycle := fun (s : State) (r t0 : Nat) => (s.toChip.upTo t0).isle r
  let idle := fun (s : State) (tx : Lane) (c : Nat) => ∀ d, (s.lane tx).delivered = some d → d.cycle ≠ c
  let takes := fun (s : State) (l tx : Lane) (t0 : Nat) => senderOf l = some tx ∧ s.fabricRuns l.r = true ∧
    ((s.toChip.upTo t0).slotAt l.r 2 (laneRes l)).isSome = true ∧ s.isArmed 0x2D62 1 l.r = false ∧
    idle s tx (cycle s l.r t0)
  (∀ (s : State) (l : Lane) (v : Bool) (d : BitVec 32) (n t0 : Nat), neighbor l.r l.side = some n →
    s.fabricRuns l.r = true → ((s.toChip.upTo t0).slotAt l.r 1 (laneRes l)).isSome = true →
    (s.lane l).sent ≠ some (cycle s l.r t0) → (s.region n).fenced = false →
    ∃ t, exec (.scheduledTokenSend l v d t0) s = .next t ∧ (t.lane l).sent = some (cycle s l.r t0) ∧
      (t.lane l).inFlight = (if (s.region n).inReset then (s.lane l).inFlight
        else (s.lane l).inFlight ++ [{ data := d, valid := v, due := (s.toChip.upTo t0).releaseCycle l.r n }]) ∧
      others s t l ∧ OnlyTouches [.belfry, .lanes] s t) ∧
  (∀ (s : State) (l : Lane) (v : Bool) (d : BitVec 32) (n t0 : Nat), neighbor l.r l.side = some n →
    s.fabricRuns l.r = true → ((s.toChip.upTo t0).slotAt l.r 1 (laneRes l)).isSome = true →
    (s.lane l).sent ≠ some (cycle s l.r t0) → (s.region n).fenced = true →
    ∃ t, exec (.scheduledTokenSend l v d t0) s = .next t ∧
      t.reg (0x2500 + l.r) 0x0A = sat32 (s.reg (0x2500 + l.r) 0x0A + 1) ∧ (t.lane l).inFlight = (s.lane l).inFlight ∧
      others s t l ∧ OnlyTouches [.belfry, .lanes, .dict] s t) ∧
  (∀ (s : State) (l : Lane) (v : Bool) (d : BitVec 32) (t0 : Nat), (s.lane l).sent = some (cycle s l.r t0) →
    ∃ t, exec (.scheduledTokenSend l v d t0) s = .next t ∧ OnlyTouches [.belfry] s t) ∧
  (∀ (s : State) (l : Lane) (d : BitVec 32) (n t0 : Nat), neighbor l.r l.side = some n → s.fabricRuns l.r = true →
    (s.toChip.upTo t0).slotNext l.r 1 (laneRes l) = false → (s.lane l).sent ≠ some (cycle s l.r t0 + 1) →
    (s.lane l).buffer.length < 4 → (s.region n).fenced = false →
    ∃ t, exec (.unscheduledTokenSend l d t0) s = .next t ∧
      (t.lane l).buffer = (s.lane l).buffer ++ [{ data := d, valid := true, due := cycle s n t0 + 3 }] ∧ others s t l ∧
      OnlyTouches [.belfry, .lanes] s t) ∧
  (∀ (s : State) (l tx : Lane) (t0 : Nat), takes s l tx t0 → (s.region tx.r).fenced = false →
    (s.region tx.r).unlock = false → (s.region tx.r).unlockInj = false →
    ∃ t, exec (.tokenRelease l true t0) s = .next t ∧
      (∀ k, (s.lane tx).inFlight.find? (fun k => k.due == cycle s l.r t0) = some k →
        (t.lane tx).delivered =
          some { data := k.data, valid := k.valid, poison := false, sched := true, cycle := cycle s l.r t0 }) ∧
      ((∀ k ∈ (s.lane tx).inFlight, k.due ≠ cycle s l.r t0) →
        ∃ d, (t.lane tx).delivered =
          some { data := d, valid := false, poison := false, sched := true, cycle := cycle s l.r t0 }) ∧
      others s t tx ∧ OnlyTouches [.belfry, .lanes, .free] s t) ∧
  (∀ (s : State) (l tx : Lane) (b : Bool) (t0 : Nat), takes s l tx t0 → (s.region tx.r).fenced = true →
    ∃ t, exec (.tokenRelease l b t0) s = .next t ∧ (t.lane tx).delivered =
        some { data := 0#32, valid := false, poison := true, sched := true, cycle := cycle s l.r t0 } ∧
      t.reg (0x2500 + l.r) 9 = sat32 (s.reg (0x2500 + l.r) 9 + 1) ∧ others s t tx) ∧
  (∀ (s : State) (l tx : Lane) (k : Token) (t0 : Nat) (rest : List Token), senderOf l = some tx →
    s.fabricRuns l.r = true → (s.region tx.r).fenced = false →
    ((s.toChip.upTo t0).slotAt l.r 2 (laneRes l)).isSome = false → (s.lane tx).buffer = k :: rest →
    k.due ≤ cycle s l.r t0 → idle s tx (cycle s l.r t0) →
    ∃ t, exec (.unscheduledTokenDelivery l t0) s = .next t ∧ (t.lane tx).buffer = rest ∧
      (t.lane tx).delivered =
        some { data := k.data, valid := true, poison := false, sched := false, cycle := cycle s l.r t0 } ∧
      others s t tx ∧ OnlyTouches [.belfry, .lanes] s t)

/-- Regional nets (R120 to R122, R126, R131 to R136): a new clk_sel or clk_en stands at its net from the present cycle on; a switch
to a tap completes at the second edge of that tap after the old input has fallen, and is reported once when it has not completed
64 net-0 cycles after it began; a user reset register takes its input; and a probe select takes the value written. -/
def Obligations.NetsSwitchAndGate : Prop :=
  let cycle := fun (s : State) (r t0 : Nat) => (s.toChip.upTo t0).isle r
  let before := fun (s : State) (r t0 : Nat) => (s.region r).settle r (cycle s r t0)
  let others := fun (s t : State) (r n : Nat) (g : Region) => (∀ j, j ≠ r → t.region j = s.region j) ∧
    (∀ k, k ≠ n → (t.region r).net k = g.net k)
  (∀ (s : State) (r n t0 : Nat) (v : Bool), s.fabricRuns r = true → n ≠ 0 → s.isArmed 0x2D10 n r = false →
    ∃ t, exec (.clockSwitch r n v t0) s = .next t ∧ (t.region r).net n = { (before s r t0).net n with sel := v } ∧
      others s t r n (before s r t0) ∧ OnlyTouches [.belfry, .regions] s t) ∧
  (∀ (s : State) (r n t0 : Nat), s.fabricRuns r = true → n ≠ 0 →
    ∃ t, exec (.clockSwitchComplete r n t0) s = .next t ∧ t.region r = (s.toChip.upTo t0).regionNow r ∧
      (∀ w, (s.region r).settled ≤ cycle s r t0 → ((before s r t0).net n).switching = some w → w.injected = false →
        w.seen = 1 → w.fall < 2 * cycle s r t0 → ((before s r t0).net n).src w.sel = none →
        (before s r t0).tapEdge (((before s r t0).net n).div w.sel) (cycle s r t0) = true →
        ((t.region r).net n).cur = w.sel ∧ ((t.region r).net n).switching = none) ∧
      (∀ j, j ≠ r → t.region j = s.region j) ∧ OnlyTouches [.belfry, .regions] s t) ∧
  (∀ (s : State) (r n t0 : Nat) (w : NetSwitch), s.fabricRuns r = true →
    ((s.toChip.upTo t0).net r n).switching = some w → w.injected = false → w.stalled = false → 64 ≤ w.cycles →
    ∃ t, exec (.clockSwitchStall r n t0) s = .next t ∧
      (t.region r).net n = { (s.toChip.upTo t0).net r n with switching := some { w with stalled := true } } ∧
      others s t r n ((s.toChip.upTo t0).regionNow r) ∧ OnlyTouches (.belfry :: .regions :: logAreas) s t) ∧
  (∀ (s : State) (r n t0 : Nat) (e : Bool), s.fabricRuns r = true → n ≠ 0 →
    ∃ t, exec (.clockGateChange r n e t0) s = .next t ∧ (t.region r).net n = { (before s r t0).net n with enIn := e } ∧
      others s t r n (before s r t0) ∧ OnlyTouches [.belfry, .regions] s t) ∧
  (∀ (s : State) (r n t0 : Nat) (v : Bool), s.fabricRuns r = true → n < 4 →
    ∃ t, exec (.userReset r n v t0) s = .next t ∧ (t.region r).urst.getLsbD n = v ∧
      (∀ k, k ≠ n → (t.region r).urst.getLsbD k = (s.region r).urst.getLsbD k) ∧
      (∀ j, j ≠ r → t.region j = s.region j) ∧ OnlyTouches [.belfry, .regions] s t) ∧
  (∀ (s : State) (q : Req) (i j v : Nat), (i = 0x2C20 ∨ 0x2C40 ≤ i ∧ i < 0x2C60) → WriteAllowed s q i j v = true →
    ∃ t, exec (.probeSelectWrite q i j v) s = .next t ∧ t.reg i j = v ∧ t.reply q.owner = .done ∧
      OnlyTouches (.belfry :: answerAreas) s t)

/-! ### Chapter 06: on-chip memories -/

/-- A block memory port whose access no other access meets (R156 to R161): a read gives the stored word, a write stores the
word that its port drives, and bit-set and bit-clear give the old word and store the new one; the result is shown two net
cycles later; every other word keeps its value. Here the words are clean and in ECC mode. -/
def Obligations.BlockMemoryPortsReadAndWrite : Prop :=
  let cycle := fun (s : State) (m : BmSel) (t0 : Nat) => (s.toChip.upTo t0).bmCycle m
  let idle := fun (s : State) (m : BmSel) (p : BmPort) (a t0 : Nat) =>
    let b := s.toChip.upTo t0
    let u := bmKey m.r m.b m.m
    let c := b.bmCycle m
    b.bmRuns m = true ∧ b.bmFree u p c = true ∧ b.underTest (.bm m) = false ∧ b.bmMeets u p a c = none ∧
      b.maintMeets u a c = none ∧ s.pending.any (b.writesToo m p a c) = false
  let plain := fun (s : State) (k : Nat) => s.bmBypass k = false ∧ (s.bmFlips k).1 = 0#40 ∧ high8 (s.bmStored k) = 0#8
  let out := fun (s t : State) (m : BmSel) (p : BmPort) (t0 : Nat) (d : BitVec 32) (v : Bool) =>
    ((t.bmState (bmKey m.r m.b m.m)).out p).getLast? =
      some { data := BitVec.setWidth 256 d, valid := v, at_ := cycle s m t0 + 2 }
  let others := fun (s t : State) (k : Nat) => ∀ j, j ≠ k → Mem.get t.mem.bm j = Mem.get s.mem.bm j
  (∀ (s : State) (m : BmSel) (p : BmPort) (a t0 : Nat), a < 1024 → idle s m p a t0 → plain s (bmWordKey m a) →
    ∃ t, exec (.bmRead m p a t0) s = .next t ∧ out s t m p t0 (low32 (s.bmStored (bmWordKey m a))) true ∧
      t.mem.bm = s.mem.bm ∧ t.mem.sp = s.mem.sp ∧ OnlyTouches [.belfry, .mem] s t) ∧
  (∀ (s : State) (m : BmSel) (p : BmPort) (a t0 : Nat) (d : BitVec 40), a < 1024 → idle s m p a t0 →
    s.bmBypass (bmWordKey m a) = false →
    ∃ t, exec (.bmWrite m p a d t0) s = .next t ∧ t.bmStored (bmWordKey m a) = BitVec.setWidth 40 (low32 d) ∧
      (t.bmFlips (bmWordKey m a)).1 = 0#40 ∧ others s t (bmWordKey m a) ∧ t.mem.sp = s.mem.sp ∧
      OnlyTouches [.belfry, .mem, .inject] s t) ∧
  (∀ (s : State) (m : BmSel) (p : BmPort) (a t0 : Nat) (d : BitVec 40), a < 1024 → idle s m p a t0 →
    plain s (bmWordKey m a) →
    ∃ t, exec (.bmBitSet m p a d t0) s = .next t ∧
      low32 (t.bmStored (bmWordKey m a)) = low32 (s.bmStored (bmWordKey m a)) ||| low32 d ∧
      out s t m p t0 (low32 (s.bmStored (bmWordKey m a))) true ∧ others s t (bmWordKey m a) ∧
      OnlyTouches [.belfry, .mem, .inject] s t) ∧
  (∀ (s : State) (m : BmSel) (p : BmPort) (a t0 : Nat) (d : BitVec 40), a < 1024 → idle s m p a t0 →
    plain s (bmWordKey m a) →
    ∃ t, exec (.bmBitClear m p a d t0) s = .next t ∧
      low32 (t.bmStored (bmWordKey m a)) = low32 (s.bmStored (bmWordKey m a)) &&& ~~~(low32 d) ∧
      out s t m p t0 (low32 (s.bmStored (bmWordKey m a))) true ∧ others s t (bmWordKey m a) ∧
      OnlyTouches [.belfry, .mem, .inject] s t)

/-- Rule 1 of R160 and R171: a read that meets a write of the other port in the same cycle, whichever of the two commands comes
first, gives undefined data, with the collision flag, whatever the free value is; an access to a memory under test gives 0 with its
flag, changes no word and is counted in 0x25ii:1E. -/
def Obligations.BlockMemoryCollisionsAndTests : Prop :=
  (∀ (s : State) (m : BmSel) (p : BmPort) (a t0 : Nat),
    let b := s.toChip.upTo t0
    let u := bmKey m.r m.b m.m
    let c := b.bmCycle m
    a < 1024 → b.bmRuns m = true → b.bmFree u p c = true → b.underTest (.bm m) = false →
    ((∃ y, b.bmMeets u p a c = some y ∧ y.lands c = true) ∨
      b.bmMeets u p a c = none ∧ s.pending.any (b.writesToo m p a c) = true) →
    ∃ t o, exec (.bmRead m p a t0) s = .next t ∧ ((t.bmState u).out p).getLast? = some o ∧ o.coll = true ∧ o.valid = true ∧
      o.at_ = c + 2 ∧ t.mem.bm = s.mem.bm ∧ t.free = s.free + 1 ∧ OnlyTouches [.belfry, .mem, .free] s t) ∧
  (∀ (s : State) (m : BmSel) (p : BmPort) (a t0 : Nat) (d : BitVec 40),
    let b := s.toChip.upTo t0
    let u := bmKey m.r m.b m.m
    m.r < 32 → b.bmRuns m = true → b.bmFree u p (b.bmCycle m) = true → b.underTest (.bm m) = true →
    ∃ t o, exec (.bmWrite m p a d t0) s = .next t ∧ ((t.bmState u).out p).getLast? = some o ∧ o.uut = true ∧
      o.data = 0#256 ∧ t.mem.bm = s.mem.bm ∧
      t.reg (0x2500 + m.r) 0x1E = sat32 (s.reg (0x2500 + m.r) 0x1E + 1) ∧ OnlyTouches [.belfry, .mem, .dict] s t)

/-- Scratchpad ports (R164 to R168): an unscheduled access to a bank that serves nothing in this cycle is served; a read
gives the word three region cycles later, a write changes its lanes of its word and no other word; while the bank serves a
better access it is held and counts a stall cycle; a held access competes again in a later cycle. A demand register's word
is written back corrected in a maintenance cycle, and the clear of a region leaves zeros (R170). -/
def Obligations.ScratchpadPortsAndMaintenance : Prop :=
  let cycle := fun (s : State) (r t0 : Nat) => (s.toChip.upTo t0).isle r
  let alone := fun (s : State) (r t0 : Nat) => ∀ x ∈ s.pending, (s.toChip.upTo t0).spWaiting r (cycle s r t0) x = none
  let ready := fun (s : State) (r port a t0 : Nat) => s.fabricRuns r = true ∧
    (s.spPort r port).takes (cycle s r t0) = true ∧ s.underTest (.spBank r (spBankOf a)) = false ∧
    s.isArmed 0x2D62 2 r = false ∧ alone s r t0
  let bankFree := fun (s : State) (r a t0 : Nat) => ∀ z c o e, s.spServed r (spBankOf a) = some (z, c, o, e) → c ≠ cycle s r t0
  let others := fun (s t : State) (k : Nat) => ∀ j, j ≠ k → Mem.get t.mem.sp j = Mem.get s.mem.sp j
  (∀ (s : State) (r port a t0 : Nat), a < 65536 → ready s r port a t0 → bankFree s r a t0 →
    (s.spFlips (spWordKey r a)).1 = 0#288 →
    ∃ t, exec (.spRead r port a false t0) s = .next t ∧ (t.spPort r port).out.getLast? =
        some { data := s.spStored (spWordKey r a), valid := true, at_ := cycle s r t0 + 3 } ∧
      t.mem.sp = s.mem.sp ∧ t.mem.bm = s.mem.bm ∧ OnlyTouches [.belfry, .mem] s t) ∧
  (∀ (s : State) (r port a t0 : Nat) (lanes : BitVec 4) (d : BitVec 256), a < 65536 → ready s r port a t0 →
    bankFree s r a t0 →
    ∃ t, exec (.spWrite r port a lanes d false t0) s = .next t ∧
      t.spStored (spWordKey r a) =
        (s.spStored (spWordKey r a) &&& ~~~(laneMask256 lanes)) ||| (d &&& laneMask256 lanes) ∧
      others s t (spWordKey r a) ∧ t.mem.bm = s.mem.bm ∧ OnlyTouches [.belfry, .mem, .inject] s t) ∧
  (∀ (s : State) (r port a t0 c : Nat) (z : SpAccess) (o : BitVec 256) (e : BitVec 288 × Bool), r < 32 →
    ready s r port a t0 → c = cycle s r t0 → s.spServed r (spBankOf a) = some (z, c, o, e) →
    z.sched = true → z.cyc < 2 ^ 64 → z.port < 8 →
    ∃ t, exec (.spRead r port a false t0) s = .next t ∧ (t.spPort r port).held.isSome = true ∧ t.mem.sp = s.mem.sp ∧
      t.reg (0x2500 + r) 0x16 = sat32 (s.reg (0x2500 + r) 0x16 + 1) ∧ OnlyTouches [.belfry, .mem, .dict] s t) ∧
  (∀ (s : State) (r port t0 : Nat) (x : SpAccess), (s.spPort r port).held = some x → x.we = true → x.port = port →
    x.addr < 65536 → s.fabricRuns r = true → x.cyc < cycle s r t0 → (s.spPort r port).tried < cycle s r t0 →
    alone s r t0 → bankFree s r x.addr t0 →
    ∃ t, exec (.spStallRetry r port t0) s = .next t ∧ (t.spPort r port).held = none ∧
      t.spStored (spWordKey r x.addr) =
        (s.spStored (spWordKey r x.addr) &&& ~~~(laneMask256 x.lanes)) ||| (x.data &&& laneMask256 x.lanes) ∧
      others s t (spWordKey r x.addr)) ∧
  (∀ (s : State) (m : BmSel) (w n t0 : Nat), Tab.get none s.mem.demandBm (bmKey m.r m.b m.m) = some w →
    (s.toChip.upTo t0).bmMaintenance m = true → s.bmFound w = .single n → s.undefIn (.bm (bmSelOf w)) w = none →
    (∀ x, (s.bmState (bmKey m.r m.b m.m)).lastA = some x → x.addr = w % 1024 → x.cyc + 1 < (s.toChip.upTo t0).bmCycle m) →
    ∃ t, exec (.demandWriteBack (.bm m) t0) s = .next t ∧ (t.bmFlips w).1 = 0#40 ∧
      t.bmStored w = BitVec.setWidth 40 (corrected (bitsWith (s.bmStored w) (s.bmFlips w).1) n) ∧
      (∀ k, k ≠ w → Mem.get t.mem.bm k = Mem.get s.mem.bm k) ∧
      Tab.get none t.mem.demandBm (bmKey m.r m.b m.m) = none ∧ OnlyTouches [.belfry, .mem] s t) ∧
  (∀ (s : State) (r : Nat), (s.region r).clearing = true →
    ∃ t, exec (.regionClearEnd r) s = .next t ∧ (t.region r).clearing = false ∧
      (∀ k, Mem.get t.mem.bm k = if r * 524288 ≤ k ∧ k < (r + 1) * 524288 then 0#40 else Mem.get s.mem.bm k) ∧
      (∀ k, Mem.get t.mem.sp k = if r * 65536 ≤ k ∧ k < (r + 1) * 65536 then 0#256 else Mem.get s.mem.sp k) ∧
      (∀ j, j ≠ r → t.region j = s.region j))

/-- The memory data entry 0x25ii:11 (R171, R173 to R175): a transfer that its checks accept answers with the bytes of the
words from the address on, or stores them, and the address advances by the words moved; a read by O6 is an observe read and
leaves the address (R452). One word of a block memory in ECC mode, or of the scratchpad, is its data bits. -/
def Obligations.MemoryTransfersMoveWordsAndAdvance : Prop :=
  let one := fun (s : State) (q : Req) (r a : Nat) => ReadAllowed s q (0x2500 + r) 0x11 = true ∧
    (s.served q).transferCheck r a 1 = 0 ∧ s.reg (0x2500 + r) 0x10 = a ∧ s.reg (0x2500 + r) 0x12 = 1
  let gives := fun (s : State) (q : Req) (r a : Nat) (d : Bytes) =>
    ∃ t, exec (.memoryDataRead q r) s = .next t ∧ t.reply q.owner = .data d ∧ t.mem.bm = s.mem.bm ∧ t.mem.sp = s.mem.sp ∧
      t.reg (0x2500 + r) 0x10 = if q.owner = 6 then a else nextAddress a 1
  (∀ (s : State) (q : Req) (r a : Nat), a < 2 ^ 19 → one s q r a → s.bmBypass (r * 524288 + a) = false →
    s.bmFound (r * 524288 + a) = .clean →
    gives s q r a (toBytes 4 (bitsWith (s.bmStored (r * 524288 + a)) (s.bmFlips (r * 524288 + a)).1).toNat)) ∧
  (∀ (s : State) (q : Req) (r a : Nat), 2 ^ 31 ≤ a → one s q r a → (s.spFlips (spWordKey r (a % 65536))).1 = 0#288 →
    gives s q r a (toBytes 32 (s.spStored (spWordKey r (a % 65536))).toNat)) ∧
  (∀ (s : State) (q : Req) (r : Nat) (d : Bytes) (c : Chip), ReadAllowed s q (0x2500 + r) 0x11 = true →
    (s.served q).transferCheck r (s.reg (0x2500 + r) 0x10) (s.reg (0x2500 + r) 0x12) = 0 →
    (s.served q).readWords r (s.reg (0x2500 + r) 0x10) (s.reg (0x2500 + r) 0x12) = (c, some d) →
    ∃ t, exec (.memoryDataRead q r) s = .next t ∧ t.reply q.owner = .data d ∧ t.mem = c.mem ∧
      (q.owner ≠ 6 → t.reg (0x2500 + r) 0x10 = nextAddress (s.reg (0x2500 + r) 0x10) (s.reg (0x2500 + r) 0x12))) ∧
  (∀ (s : State) (q : Req) (r : Nat) (d : Bytes), BytesAllowed s q (0x2500 + r) 0x11 4 = true → d.length = 4 →
    s.reg (0x2500 + r) 0x12 = 1 → s.reg (0x2500 + r) 0x10 < 2 ^ 19 →
    s.bmBypass (r * 524288 + s.reg (0x2500 + r) 0x10) = false →
    (s.served q).transferCheck r (s.reg (0x2500 + r) 0x10) 1 = 0 →
    (∀ x, (s.bmState ((r * 524288 + s.reg (0x2500 + r) 0x10) / 1024)).lastA = some x →
      x.addr = s.reg (0x2500 + r) 0x10 % 1024 →
      x.cyc + 1 < ((s.served q).awaitMaintenance r (s.reg (0x2500 + r) 0x10)).bmCycle
        (bmSelOf (r * 524288 + s.reg (0x2500 + r) 0x10))) →
    ∃ t, exec (.memoryDataWrite q r d) s = .next t ∧ t.reply q.owner = .done ∧
      t.bmStored (r * 524288 + s.reg (0x2500 + r) 0x10) = BitVec.ofNat 40 (ofBytes d) ∧
      (∀ k, k ≠ r * 524288 + s.reg (0x2500 + r) 0x10 → Mem.get t.mem.bm k = Mem.get s.mem.bm k) ∧
      t.mem.sp = s.mem.sp ∧ t.reg (0x2500 + r) 0x10 = (s.reg (0x2500 + r) 0x10 + 1) % 2 ^ 19) ∧
  (∀ (s : State) (q : Req) (r a k : Nat) (d : Bytes), BytesAllowed s q (0x2500 + r) 0x11 32 = true → d.length = 32 →
    s.reg (0x2500 + r) 0x12 = 1 → s.reg (0x2500 + r) 0x10 = a → 2 ^ 31 ≤ a → k = spWordKey r (a % 65536) →
    (s.served q).transferCheck r a 1 = 0 →
    ∃ t, exec (.memoryDataWrite q r d) s = .next t ∧ t.reply q.owner = .done ∧
      t.spStored k = BitVec.ofNat 256 (ofBytes d) ∧ (∀ j, j ≠ k → Mem.get t.mem.sp j = Mem.get s.mem.sp j) ∧
      t.mem.bm = s.mem.bm ∧ t.reg (0x2500 + r) 0x10 = nextAddress a 1) ∧
  (∀ (s : State) (q : Req) (r a n : Nat) (d : Bytes), BytesAllowed s q (0x2500 + r) 0x11 d.length = true →
    s.reg (0x2500 + r) 0x10 = a → s.reg (0x2500 + r) 0x12 = n → (s.served q).transferCheck r a n = 0 →
    d.length = n * (s.served q).wordBytes r a → upperBytes ((s.served q).wordBytes r a) d = false →
    ∃ t, exec (.memoryDataWrite q r d) s = .next t ∧ t.reply q.owner = .done ∧
      t.mem = ((s.served q).writeWords r a ((s.served q).wordBytes r a) d n).mem ∧
      t.reg (0x2500 + r) 0x10 = nextAddress a n)

/-! ### Chapter 07: queue blocks -/

/-- A same-clock queue block (R180 to R185): an item's bytes join the packing register until 16 bytes or a close complete a
word, which enters behind the others; a full block holds the push until a pop makes room; a pop takes the oldest word, with
its mask, shown one cycle later, and a pop of an empty block is held until a word is there. Every other block and every
area but time and queues stays as it is. The block counts as it is in the present cycle, with what its held accesses have done in the
cycles before. -/
def Obligations.QueueBlocksPackPushAndPop : Prop :=
  let open_ := fun (s : State) (r k : Nat) => r < 32 ∧ k < 16 ∧ (s.queue (queueKey r k)).mode = 1 ∧ s.fabricRuns r = true
  let cyc := fun (s : State) (r t0 : Nat) => (s.toChip.upTo t0).isle r
  let now := fun (s : State) (r k t0 : Nat) => (s.toChip.upTo t0).queueNow (queueKey r k)
  let rest := fun (s t : State) (r k : Nat) => (∀ j, j ≠ queueKey r k → t.queue j = s.queue j) ∧
    OnlyTouches [.belfry, .queues] s t
  let pushes := fun (s : State) (r k t0 : Nat) => (now s r k t0).disabled = false ∧ (now s r k t0).heldPush = none ∧
    (now s r k t0).wrdy = true ∧ (now s r k t0).pushCycle ≠ some (cyc s r t0)
  let pops := fun (s : State) (r k t0 : Nat) => (now s r k t0).disabled = false ∧ (now s r k t0).readShow.held = false ∧
    (now s r k t0).heldPop = false ∧ (now s r k t0).popCycle ≠ some (cyc s r t0) ∧ (s.toChip.upTo t0).slotAt r 6 k = none
  (∀ (s : State) (r k t0 : Nat) (x : BitVec 32), open_ s r k → pushes s r k t0 →
    ((now s r k t0).pack ++ (now s r k t0).itemBytes x).length < 16 →
    ∃ t, exec (.queuePush r k x false t0) s = .next t ∧ rest s t r k ∧
      (t.queue (queueKey r k)).pack = (now s r k t0).pack ++ (now s r k t0).itemBytes x ∧
      (t.queue (queueKey r k)).words = (now s r k t0).words) ∧
  (∀ (s : State) (r k t0 : Nat) (x : BitVec 32), open_ s r k → pushes s r k t0 → (now s r k t0).writeShow.depth < 256 →
    ∃ t, exec (.queuePush r k x true t0) s = .next t ∧ rest s t r k ∧ (t.queue (queueKey r k)).pack = [] ∧
      (t.queue (queueKey r k)).words = (now s r k t0).words ++
        [packedWord ((now s r k t0).pack ++ (now s r k t0).itemBytes x)]) ∧
  (∀ (s : State) (r k t0 : Nat), open_ s r k → pushes s r k t0 → (now s r k t0).writeShow.depth < 256 →
    (now s r k t0).pack ≠ [] →
    ∃ t, exec (.queueClose r k t0) s = .next t ∧ rest s t r k ∧ (t.queue (queueKey r k)).pack = [] ∧
      (t.queue (queueKey r k)).words = (now s r k t0).words ++ [packedWord (now s r k t0).pack]) ∧
  (∀ (s : State) (r k t0 : Nat) (x : BitVec 32), open_ s r k → pushes s r k t0 → 256 ≤ (now s r k t0).writeShow.depth →
    (now s r k t0).popCycle ≠ some (cyc s r t0) →
    ∃ t, exec (.queuePush r k x true t0) s = .next t ∧ rest s t r k ∧ (t.queue (queueKey r k)).heldPush.isSome = true ∧
      (t.queue (queueKey r k)).words = (now s r k t0).words) ∧
  (∀ (s : State) (r k t0 : Nat) (w : BitVec 128 × BitVec 16) (l : List (BitVec 128 × BitVec 16)), open_ s r k →
    pops s r k t0 → (now s r k t0).heldPush = none → (now s r k t0).readShow.depth ≠ 0 → (now s r k t0).words = w :: l →
    ∃ t, exec (.queuePop r k t0) s = .next t ∧ rest s t r k ∧ (t.queue (queueKey r k)).words = l ∧
      (t.queue (queueKey r k)).out.getLast? = some (cyc s r t0 + 1, w)) ∧
  (∀ (s : State) (r k t0 : Nat), open_ s r k → pops s r k t0 → (now s r k t0).readShow.depth = 0 →
    ∃ t, exec (.queuePop r k t0) s = .next t ∧ rest s t r k ∧ (t.queue (queueKey r k)).heldPop = true ∧
      (t.queue (queueKey r k)).words = (now s r k t0).words) ∧
  (∀ (s : State) (r k t0 c : Nat) (w : BitVec 128 × BitVec 16) (l : List (BitVec 128 × BitVec 16)), open_ s r k →
    (now s r k t0).disabled = false → (now s r k t0).heldPush = none → (now s r k t0).heldPop = true →
    (now s r k t0).popReady = some c → c ≤ cyc s r t0 → (now s r k t0).words = w :: l →
    ∃ t, exec (.heldPopTake r k t0) s = .next t ∧ rest s t r k ∧ (t.queue (queueKey r k)).words = l ∧
      (t.queue (queueKey r k)).heldPop = false ∧ (t.queue (queueKey r k)).out.getLast? = some (cyc s r t0 + 1, w)) ∧
  (∀ (s : State) (r k t0 c e : Nat) (b : List Byte), open_ s r k → (now s r k t0).heldPush = some (b, e) →
    (now s r k t0).pushReady = some c → c ≤ cyc s r t0 →
    ∃ t, exec (.heldPushComplete r k t0) s = .next t ∧ rest s t r k ∧ (t.queue (queueKey r k)).heldPush = none ∧
      (t.queue (queueKey r k)).words = (now s r k t0).words ++ [packedWord ((now s r k t0).pack ++ b)]) ∧
  (∀ (s : State) (r k t0 : Nat) (x : BitVec 32) (f : Bool), open_ s r k → (now s r k t0).disabled = true →
    (now s r k t0).pushCycle ≠ some (cyc s r t0) →
    ∃ t, exec (.queuePush r k x f t0) s = .next t ∧ t.reg (0x2500 + r) 0x32 = sat32 (s.reg (0x2500 + r) 0x32 + 1) ∧
      (t.queue (queueKey r k)).words = (now s r k t0).words ∧ OnlyTouches [.belfry, .queues, .dict] s t)

/-- Watermark flags, pointer mismatches and the dual-clock mode (R187 to R190, R197): a clear in a cycle that changes no
depth leaves both flags clear, by the fabric or by the dictionary's mask; a mismatch resets its block and is counted in
0x25ii:31, and where a slot of an ARMED partition names the block it fences the region; a word becomes readable, and its place free,
from the second edge of the other side on. -/
def Obligations.QueueFlagsMismatchesAndVisibility : Prop :=
  let quiet := fun (b : Chip) (k : Nat) =>
    ((b.queueNow k).wmAt.map fun x => x.1) ≠ some (b.sideCycle ((b.queue k).reader k))
  let now := fun (s : State) (r k t0 : Nat) => (s.toChip.upTo t0).queueNow (queueKey r k)
  (∀ (s : State) (r k t0 : Nat), r < 32 → k < 16 → (s.queue (queueKey r k)).reader (queueKey r k) = some r →
    s.fabricRuns r = true → quiet (s.toChip.upTo t0) (queueKey r k) →
    ∃ t, exec (.watermarkClear r k t0) s = .next t ∧ (t.queue (queueKey r k)).wmHi = false ∧
      (t.queue (queueKey r k)).wmLo = false ∧ (t.queue (queueKey r k)).words = (now s r k t0).words ∧
      (∀ j, j ≠ queueKey r k → t.queue j = s.queue j) ∧ OnlyTouches [.belfry, .queues] s t) ∧
  (∀ (s : State) (q : Req) (r : Nat) (m : BitVec 16), r < 32 → WriteAllowed s q (0x2500 + r) 0x30 m.toNat = true →
    (∀ k, k < 16 → quiet (s.served q) (queueKey r k)) →
    ∃ t, exec (.clearWatermarks q r m) s = .next t ∧ t.reply q.owner = .done ∧
      (∀ k, k < 16 → m.getLsbD k = true → (t.queue (queueKey r k)).wmHi = false ∧ (t.queue (queueKey r k)).wmLo = false) ∧
      (∀ k, k < 16 → m.getLsbD k = false → t.queue (queueKey r k) = s.queue (queueKey r k)) ∧
      OnlyTouches (.belfry :: .queues :: answerAreas) s t) ∧
  (∀ (s : State) (r k which t0 : Nat), r < 32 → k < 16 → s.pointerRuns (queueKey r k) which = true →
    s.queueScheduled (queueKey r k) = false →
    ∃ t, exec (.queuePointerMismatch r k which t0) s = .next t ∧ (t.queue (queueKey r k)).words = [] ∧
      (t.queue (queueKey r k)).pack = [] ∧ (t.queue (queueKey r k)).wptr = 0 ∧ (t.queue (queueKey r k)).rptr = 0 ∧
      t.reg (0x2500 + r) 0x31 = sat32 (s.reg (0x2500 + r) 0x31 + 1) ∧
      (∀ j, j ≠ queueKey r k → t.queue j = s.queue j) ∧ OnlyTouches (.belfry :: .queues :: logAreas) s t) ∧
  (∀ (s : State) (r k which t0 p : Nat), r < 32 → k < 16 → s.pointerRuns (queueKey r k) which = true →
    s.queueScheduled (queueKey r k) = true → (s.region r).part = some p → (s.part p).status = .armed →
    (s.region r).fenced = false →
    ∃ t, exec (.queuePointerMismatch r k which t0) s = .next t ∧ (t.region r).fenced = true ∧ (t.part p).status = .broken ∧
      t.reg (0x2500 + r) 6 = evCode 3 3 r 1) ∧
  (∀ (s : State) (r k t0 c : Nat) (l : List Nat), (s.queue (queueKey r k)).split = true →
    (now s r k t0).unread = c :: l →
    c ≤ (s.toChip.upTo t0).sideCycle ((s.queue (queueKey r k)).reader (queueKey r k)) →
    ∃ t, exec (.dualClockWordReadable r k false t0) s = .next t ∧ (t.queue (queueKey r k)).unread = l ∧
      (t.queue (queueKey r k)).words = (now s r k t0).words ∧ OnlyTouches [.belfry, .queues] s t) ∧
  (∀ (s : State) (r k t0 c : Nat) (l : List Nat), (s.queue (queueKey r k)).split = true →
    (now s r k t0).unfreed = c :: l →
    c ≤ (s.toChip.upTo t0).sideCycle ((s.queue (queueKey r k)).writer (queueKey r k)) →
    ∃ t, exec (.dualClockWordReadable r k true t0) s = .next t ∧ (t.queue (queueKey r k)).unfreed = l ∧
      (t.queue (queueKey r k)).words = (now s r k t0).words ∧ OnlyTouches [.belfry, .queues] s t)

/-- The host's windows (R192, R310): through a window that is open to its port, a dword joins the packing register, a close
strobe completes the word, and a read at offset 0 takes the oldest word with its mask; through any other window nothing is
written, a read is an Unsupported Request, and both are counted in 0x28hh:0C. Without C34 nothing happens (R17). -/
def Obligations.HostQueueWindows : Prop :=
  let now := fun (s : State) (k t0 : Nat) => (s.toChip.upTo t0).queueNow k
  (∀ (s : State) (h o t0 : Nat) (d : BitVec 32), s.hostOn = true → s.windowOpen h (windowQueue o) = true →
    (s.queue (windowQueue o)).mode = 3 → o % 4096 < 0x100 → (now s (windowQueue o) t0).disabled = false →
    (now s (windowQueue o) t0).pack.length < 12 →
    ∃ t, exec (.hostQueuePush h o d true t0) s = .next t ∧
      (t.queue (windowQueue o)).pack = (now s (windowQueue o) t0).pack ++ toBytes 4 d.toNat ∧
      (∀ j, j ≠ windowQueue o → t.queue j = s.queue j) ∧ OnlyTouches [.belfry, .queues] s t) ∧
  (∀ (s : State) (h o t0 : Nat), s.hostOn = true → s.windowOpen h (windowQueue o) = true →
    (s.queue (windowQueue o)).mode = 3 → o % 4096 = 0x200 → (now s (windowQueue o) t0).disabled = false →
    (now s (windowQueue o) t0).pack ≠ [] → (now s (windowQueue o) t0).writeDepth < 256 →
    ∃ t, exec (.hostQueueClose h o t0) s = .next t ∧ (t.queue (windowQueue o)).pack = [] ∧
      (t.queue (windowQueue o)).words =
        (now s (windowQueue o) t0).words ++ [packedWord (now s (windowQueue o) t0).pack] ∧
      (∀ j, j ≠ windowQueue o → t.queue j = s.queue j) ∧ OnlyTouches [.belfry, .queues] s t) ∧
  (∀ (s : State) (h o t0 : Nat) (w : BitVec 128 × BitVec 16) (l : List (BitVec 128 × BitVec 16)), s.hostOn = true →
    s.windowOpen h (windowQueue o) = true → (s.queue (windowQueue o)).mode = 4 → o % 4096 = 0 →
    (now s (windowQueue o) t0).disabled = false → (now s (windowQueue o) t0).readDepth ≠ 0 →
    (now s (windowQueue o) t0).words = w :: l →
    ∃ t, exec (.hostQueuePop h o t0) s = .next t ∧ (t.queue (windowQueue o)).words = l ∧ (t.port h).cpl = 0 ∧
      (t.port h).data = toBytes 16 w.1.toNat ++ toBytes 16 w.2.toNat ∧
      (∀ j, j ≠ windowQueue o → t.queue j = s.queue j) ∧ OnlyTouches [.belfry, .queues, .ports] s t) ∧
  (∀ (s : State) (h o t0 : Nat) (d : BitVec 32) (f : Bool), h < 4 → s.hostOn = true → s.windowOpen h (windowQueue o) = false →
    ∃ t, exec (.hostQueuePush h o d f t0) s = .next t ∧ t.reg (0x2800 + h) 0x0C = sat32 (s.reg (0x2800 + h) 0x0C + 1) ∧
      OnlyTouches [.belfry, .dict] s t) ∧
  (∀ (s : State) (h o t0 : Nat), h < 4 → s.hostOn = true → s.windowOpen h (windowQueue o) = false →
    ∃ t, exec (.hostQueuePop h o t0) s = .next t ∧ (t.port h).cpl = 1 ∧ (t.port h).data = [] ∧
      t.reg (0x2800 + h) 0x0C = sat32 (s.reg (0x2800 + h) 0x0C + 1) ∧ OnlyTouches [.belfry, .dict, .ports] s t) ∧
  (∀ (s : State) (h o t0 : Nat) (d : BitVec 32) (f : Bool), s.hostOn = false →
    ∃ t, exec (.hostQueuePush h o d f t0) s = .next t ∧ OnlyTouches [.belfry] s t)

/-! ### Chapter 08: slice groups -/

/-- The control instructions (R207, R209, R217, R218, R220, R224) steer the sequencer and write what they name; the
accumulators, OUTR, the memories, every other group and every other area stay as they are in the issue cycle, and where no
fetch and no coefficient access of the fabric waits, as they were before it. After an instruction that does not steer, a
REP counts down, a loop body begins again, or the PC moves on; the group enters STOP when the instructions in flight have
completed (log entry 130). -/
def Obligations.ControlInstructionsSteerTheSequencer : Prop :=
  let regOf := fun (k : Ctx) => field k.w.toNat 55 3
  let low := fun (k : Ctx) (n : Nat) => field k.w.toNat 0 n
  let nextPc := fun (x : Group) => if 1 < x.rep then x.pc else
    match x.regs.loop with
    | some l => if x.pc = l.last ∧ x.regs.lc ≠ 0#16 then l.first else x.pc + 1
    | none => x.pc + 1
  let kept := fun (s t : State) (g : Grp) (x : Issue) =>
    (t.group g).acc = ((s.atIssue g x).group g).acc ∧ (t.group g).outr = ((s.atIssue g x).group g).outr ∧
    (∀ j, j ≠ groupKey g.r g.b → Tab.get {} t.slices.groups j = Tab.get {} (s.atIssue g x).slices.groups j) ∧
    SlicesKept (s.atIssue g x) t.toChip ∧ OnlyTouches [.slices] (s.on (s.atIssue g x)) t
  let regsKept := fun (s t : State) (g : Grp) (x : Issue) =>
    (∀ i, (t.group g).regs.addr i = ((s.atIssue g x).group g).regs.addr i) ∧
    (t.group g).regs.m = ((s.atIssue g x).group g).regs.m ∧ (t.group g).regs.flags = ((s.atIssue g x).group g).regs.flags ∧
    (t.group g).bix = ((s.atIssue g x).group g).bix ∧ (t.group g).st = .run
  let goes := fun (s t : State) (g : Grp) (x : Issue) => kept s t g x ∧ (t.group g).st = .run ∧
    (t.group g).pc = nextPc ((s.atIssue g x).group g) ∧ (t.group g).rep = ((s.atIssue g x).group g).rep - 1
  let issues := fun (s : State) (g : Grp) (x : Issue) (op : Nat) => s.Issues g x op = true ∧
    ((s.atIssue g x).group g).stopReq = false
  (∀ (s : State) (g : Grp) (x : Issue), (s.group g).fetchAt = none → (s.group g).cmHeld = none →
    (∀ j, j ≠ groupKey g.r g.b → Tab.get {} (s.atIssue g x).slices.groups j = Tab.get {} s.slices.groups j) ∧
    SlicesKept s.toChip (s.atIssue g x) ∧ OnlyTouches [.belfry, .slices] s (s.on (s.atIssue g x))) ∧
  (∀ (i : Grp → Issue → Instr) (op : Nat), (i, op) ∈ [(Instr.nop, 0x00), (Instr.waitg, 0x07)] →
    ∀ (s : State) (g : Grp) (x : Issue), issues s g x op →
    ∃ t, exec (i g x) s = .next t ∧ goes s t g x ∧ regsKept s t g x) ∧
  (∀ (s : State) (g : Grp) (x : Issue), issues s g x 0x01 →
    ∃ t, exec (.stop g x) s = .next t ∧ kept s t g x ∧ (t.group g).st = .run ∧
      (t.group g).pc = ((s.atIssue g x).group g).pc + 1 ∧ (t.group g).main = ((s.atIssue g x).group g).main ∧
      (t.group g).shadow = ((s.atIssue g x).group g).shadow ∧
      let n := match ((s.atIssue g x).group g).last with
        | some l => max (s.issueCycle g x + 1) (l + 3)
        | none => s.issueCycle g x + 1
      (t.group g).stopping = some (n, true) ∧ (∀ c, c < n → (t.group g).settle c = t.group g) ∧
      ∀ c, n ≤ c → ((t.group g).settle c).st = .stop ∧ ((t.group g).settle c).done = some n ∧
        ((t.group g).settle c).handler = none ∧ ((t.group g).settle c).pending = 0#4 ∧
        ((t.group g).settle c).acc = (t.group g).acc ∧ ((t.group g).settle c).main = (t.group g).main) ∧
  (∀ (s : State) (g : Grp) (x : Issue), issues s g x 0x02 →
    ∃ t, exec (.jmp g x) s = .next t ∧ kept s t g x ∧ regsKept s t g x ∧ (t.group g).pc = low (s.issueCtx g x) 12 ∧
      (t.group g).gap = 2 ∧ (t.group g).regs.loop = none) ∧
  (∀ (s : State) (g : Grp) (x : Issue), issues s g x 0x03 →
    ∃ t, exec (.djnz g x) s = .next t ∧ kept s t g x ∧
      (∀ j, (t.group g).regs.addr j = if j = regOf (s.issueCtx g x) then ((s.atIssue g x).group g).regs.addr j - 1#14
        else ((s.atIssue g x).group g).regs.addr j) ∧
      (if ((s.atIssue g x).group g).regs.addr (regOf (s.issueCtx g x)) = 1#14 then
        (t.group g).pc = nextPc ((s.atIssue g x).group g) ∧ (t.group g).gap = 0
      else (t.group g).pc = low (s.issueCtx g x) 12 ∧ (t.group g).gap = 2 ∧ (t.group g).regs.loop = none)) ∧
  (∀ (s : State) (g : Grp) (x : Issue), issues s g x 0x04 → ((s.atIssue g x).group g).regs.loop = none →
    ((s.atIssue g x).group g).pc < field (s.issueCtx g x).w.toNat 16 12 →
    ∃ t, exec (.loop g x) s = .next t ∧ kept s t g x ∧ regsKept s t g x ∧
      (t.group g).pc = ((s.atIssue g x).group g).pc + 1 ∧ (t.group g).regs.lc = BitVec.ofNat 16 (low (s.issueCtx g x) 16) ∧
      (t.group g).regs.loop =
        some { first := ((s.atIssue g x).group g).pc + 1, last := field (s.issueCtx g x).w.toNat 16 12 }) ∧
  (∀ (s : State) (g : Grp) (x : Issue), issues s g x 0x05 →
    (∀ l, ((s.atIssue g x).group g).regs.loop = some l → ((s.atIssue g x).group g).pc ≠ l.last) →
    ∃ t, exec (.rep g x) s = .next t ∧ kept s t g x ∧ regsKept s t g x ∧ (t.group g).rep = low (s.issueCtx g x) 12 + 1 ∧
      (t.group g).pc = ((s.atIssue g x).group g).pc + 1) ∧
  (∀ (s : State) (g : Grp) (x : Issue) (h : Handler), issues s g x 0x06 →
    ((s.atIssue g x).group g).handler = some h →
    (h.late = true ∨ (s.atIssue g x).overdue g h.ev h.since ((s.atIssue g x).groupNet0 g) = false) →
    ((s.atIssue g x).group g).pending &&& ((s.atIssue g x).group g).evMask = 0#4 →
    ∃ t, exec (.ret g x) s = .next t ∧ kept s t g x ∧ (t.group g).handler = none ∧
      (t.group g).pc = ((s.atIssue g x).group g).saved ∧ (t.group g).gap = 2 ∧
      (t.group g).regs = ((s.atIssue g x).group g).main ∧ (t.group g).shadow = ((s.atIssue g x).group g).shadow) ∧
  (∀ (s : State) (g : Grp) (x : Issue) (h : Handler) (ev : Nat), issues s g x 0x06 →
    ((s.atIssue g x).group g).handler = some h →
    (h.late = true ∨ (s.atIssue g x).overdue g h.ev h.since ((s.atIssue g x).groupNet0 g) = false) →
    ((s.atIssue g x).group g).eventReady (s.issueCycle g x) = some ev →
    ∃ t, exec (.ret g x) s = .next t ∧ kept s t g x ∧ (t.group g).handler.map (·.ev) = some ev ∧
      (t.group g).pc = ((s.atIssue g x).group g).entry.getD ev 0 ∧ (t.group g).gap = 0 ∧
      (t.group g).saved = ((s.atIssue g x).group g).saved ∧ (t.group g).pending.getLsbD ev = false ∧
      (t.group g).main = ((s.atIssue g x).group g).main ∧ (t.group g).shadow = ((s.atIssue g x).group g).shadow) ∧
  (∀ (s : State) (g : Grp) (x : Issue), issues s g x 0x08 →
    ∃ t, exec (.evmask g x) s = .next t ∧ goes s t g x ∧ regsKept s t g x ∧
      (t.group g).evMask = BitVec.ofNat 4 (low (s.issueCtx g x) 4)) ∧
  (∀ (s : State) (g : Grp) (x : Issue), issues s g x 0x09 →
    ∃ t, exec (.seta g x) s = .next t ∧ goes s t g x ∧
      (∀ j, (t.group g).regs.addr j = if j = regOf (s.issueCtx g x) then BitVec.ofNat 14 (low (s.issueCtx g x) 14)
        else ((s.atIssue g x).group g).regs.addr j)) ∧
  (∀ (s : State) (g : Grp) (x : Issue), issues s g x 0x0A →
    ∃ t, exec (.adda g x) s = .next t ∧ goes s t g x ∧
      (∀ j, (t.group g).regs.addr j = if j = regOf (s.issueCtx g x) then
        ((s.atIssue g x).group g).regs.addr j + BitVec.ofNat 14 (low (s.issueCtx g x) 16)
        else ((s.atIssue g x).group g).regs.addr j)) ∧
  (∀ (s : State) (g : Grp) (x : Issue), issues s g x 0x0B →
    ∃ t, exec (.setm g x) s = .next t ∧ goes s t g x ∧
      (∀ j, (t.group g).regs.modifier j = if j = regOf (s.issueCtx g x) then BitVec.ofNat 32 (low (s.issueCtx g x) 32)
        else ((s.atIssue g x).group g).regs.modifier j)) ∧
  (∀ (s : State) (g : Grp) (x : Issue), issues s g x 0x0C →
    ∃ t, exec (.clrf g x) s = .next t ∧ goes s t g x ∧
      (t.group g).regs.flags =
        (if (s.issueCtx g x).w.getLsbD 0 then 0#5 else ((s.atIssue g x).group g).regs.flags) ∧
      (∀ l, l < 8 → (t.group g).bixNow l = if (s.issueCtx g x).w.getLsbD 1 then BitVec.ofNat 16 l
        else if (s.issueCtx g x).w.getLsbD 2 then 0#16 else ((s.atIssue g x).group g).bixNow l))

/-- The integer instructions (R210, R212): each enabled lane writes ACCd with the value its row names, narrowed to 80 bits
as R212 says, and the flags of all enabled lanes join the sticky flags of the register set in use. No other accumulator,
no BIX, no OUTR, no memory and no area but time and the slices changes. P and Q are the operands of R204, accRead the
accumulator as the instruction reads it behind the pipeline, accNow as the forwarded stage sees it (R207). -/
def Obligations.IntegerInstructionsWriteAccumulators : Prop :=
  let p := fun (s : State) (g : Grp) (x : Issue) (l : Nat) =>
    extInt (bit (wMode (s.issueCtx g x).w) 0) ((s.atIssue g x).opP (s.issueCtx g x) l)
  let q := fun (s : State) (g : Grp) (x : Issue) (l : Nat) =>
    extInt (bit (wMode (s.issueCtx g x).w) 0) ((s.atIssue g x).opQ (s.issueCtx g x) l)
  let prod := fun (s : State) (g : Grp) (x : Issue) (l : Nat) =>
    extInt (pUnsigned (s.issueCtx g x).w) ((s.atIssue g x).opP (s.issueCtx g x) l) *
      extInt (qUnsigned (s.issueCtx g x).w) ((s.atIssue g x).opQ (s.issueCtx g x) l)
  let accD := fun (s : State) (g : Grp) (x : Issue) (l : Nat) =>
    ((s.atIssue g x).group g).accNow l (wAccD (s.issueCtx g x).w)
  let accA := fun (s : State) (g : Grp) (x : Issue) (l : Nat) =>
    ((s.atIssue g x).group g).accRead (s.issueCycle g x) l (wAccA (s.issueCtx g x).w)
  let sat := fun (s : State) (g : Grp) (x : Issue) => bit (wMode (s.issueCtx g x).w) 2
  let writes := fun (s t : State) (g : Grp) (x : Issue) (v : Nat → BitVec 80 × BitVec 5) =>
    (∀ l n, l < 8 → n < 8 → (t.group g).accNow l n =
      if n = wAccD (s.issueCtx g x).w ∧ wLane (s.issueCtx g x).w l = true then (v l).1
      else ((s.atIssue g x).group g).accNow l n) ∧
    (t.group g).regs.flags = (enabled (s.issueCtx g x).w).foldl (fun f l => f ||| (v l).2)
      ((s.atIssue g x).group g).regs.flags ∧
    (t.group g).bix = ((s.atIssue g x).group g).bix ∧ (t.group g).outr = ((s.atIssue g x).group g).outr ∧
    (∀ j, j ≠ groupKey g.r g.b → Tab.get {} t.slices.groups j = Tab.get {} (s.atIssue g x).slices.groups j) ∧
    SlicesKept (s.atIssue g x) t.toChip ∧ OnlyTouches [.slices] (s.on (s.atIssue g x)) t
  let issues := fun (s : State) (g : Grp) (x : Issue) (op : Nat) => s.Issues g x op = true ∧
    ((s.atIssue g x).group g).stopReq = false
  (∀ s g x, issues s g x 0x10 → ∃ t, exec (.mac g x) s = .next t ∧
    writes s t g x fun l => narrow (sat s g x) ((accD s g x l).toInt + prod s g x l)) ∧
  (∀ s g x, issues s g x 0x11 → ∃ t, exec (.msu g x) s = .next t ∧
    writes s t g x fun l => narrow (sat s g x) ((accD s g x l).toInt - prod s g x l)) ∧
  (∀ s g x, issues s g x 0x12 → ∃ t, exec (.mul g x) s = .next t ∧
    writes s t g x fun l => (BitVec.ofInt 80 (prod s g x l), 0#5)) ∧
  (∀ s g x, issues s g x 0x13 → ∃ t, exec (.add g x) s = .next t ∧
    writes s t g x fun l => narrow (sat s g x) ((accA s g x l).toInt + p s g x l)) ∧
  (∀ s g x, issues s g x 0x14 → ∃ t, exec (.sub g x) s = .next t ∧
    writes s t g x fun l => narrow (sat s g x) ((accA s g x l).toInt - p s g x l)) ∧
  (∀ s g x, issues s g x 0x15 → ∃ t, exec (.absd g x) s = .next t ∧
    writes s t g x fun l => narrow false ((accD s g x l).toInt + ((p s g x l - q s g x l).natAbs : Nat))) ∧
  (∀ s g x, issues s g x 0x16 → ∃ t, exec (.mova g x) s = .next t ∧
    writes s t g x fun l => (accA s g x (sourceLane (s.issueCtx g x).w l), 0#5)) ∧
  (∀ s g x, issues s g x 0x17 → ∃ t, exec (.lda g x) s = .next t ∧
    writes s t g x fun l => (BitVec.ofInt 80 (p s g x l * 2 ^ (wImm (s.issueCtx g x).w % 64)), 0#5)) ∧
  (∀ s g x, issues s g x 0x18 → ∃ t, exec (.sha g x) s = .next t ∧
    writes s t g x fun l =>
      let n := (BitVec.ofNat 8 (wImm (s.issueCtx g x).w)).toInt
      if 0 ≤ n then narrow false ((accA s g x l).toInt * 2 ^ n.toNat)
      else (BitVec.ofInt 80 ((accA s g x l).toInt / 2 ^ n.natAbs), 0#5)) ∧
  (∀ s g x, issues s g x 0x19 → ∃ t, exec (.mina g x) s = .next t ∧
    writes s t g x fun l => (BitVec.ofInt 80 (min (accA s g x l).toInt (accD s g x l).toInt), 0#5)) ∧
  (∀ s g x, issues s g x 0x1A → ∃ t, exec (.maxa g x) s = .next t ∧
    writes s t g x fun l => (BitVec.ofInt 80 (max (accA s g x l).toInt (accD s g x l).toInt), 0#5))

/-- The FP instructions (R213), the trellis and min-plus steps (R215, R216), OUT (R214) and STC (R203, R214): what each
enabled lane writes. The rounding and the NaN rules are those of fpFma and its neighbours; where R213 leaves a value
open they hold free values. No other group and no area but time and the slices changes. -/
def Obligations.FpTrellisAndResultInstructions : Prop :=
  let op1 := fun (s : State) (g : Grp) (x : Issue) (l : Nat) => (s.atIssue g x).opP (s.issueCtx g x) l
  let op2 := fun (s : State) (g : Grp) (x : Issue) (l : Nat) => (s.atIssue g x).opQ (s.issueCtx g x) l
  let accD := fun (s : State) (g : Grp) (x : Issue) (l : Nat) =>
    ((s.atIssue g x).group g).accNow l (wAccD (s.issueCtx g x).w)
  let accR := fun (s : State) (g : Grp) (x : Issue) (l n : Nat) =>
    ((s.atIssue g x).group g).accRead (s.issueCycle g x) l (wAccA (s.issueCtx g x).w + n)
  let fp := fun (v : BitVec 80) => fpOf (BitVec.setWidth 32 v)
  let inv := fun (r : FpResult) => (BitVec.setWidth 80 r.bits, (if r.fi then flagFI else 0#5) |||
    (if r.fo then flagFO else 0#5) ||| (if r.fu then flagFU else 0#5))
  let lanes := fun (s : State) (g : Grp) (x : Issue) => enabled (s.issueCtx g x).w
  let others := fun (s t : State) (g : Grp) (x : Issue) (l : List Area) =>
    (∀ j, j ≠ groupKey g.r g.b → Tab.get {} t.slices.groups j = Tab.get {} (s.atIssue g x).slices.groups j) ∧
    t.slices.im = (s.atIssue g x).slices.im ∧ OnlyTouches (.slices :: l) (s.on (s.atIssue g x)) t
  let flags := fun (s t : State) (g : Grp) (x : Issue) (v : Nat → BitVec 5) =>
    (t.group g).regs.flags = (lanes s g x).foldl (fun f l => f ||| v l) ((s.atIssue g x).group g).regs.flags
  let accs := fun (s t : State) (g : Grp) (x : Issue) (v : Nat → BitVec 80) => ∀ l n, l < 8 → n < 8 →
    (t.group g).accNow l n = if n = wAccD (s.issueCtx g x).w ∧ wLane (s.issueCtx g x).w l = true then v l
      else ((s.atIssue g x).group g).accNow l n
  let writes := fun (s t : State) (g : Grp) (x : Issue) (v : Nat → BitVec 80 × BitVec 5) =>
    accs s t g x (fun l => (v l).1) ∧ flags s t g x (fun l => (v l).2) ∧
    (t.group g).bix = ((s.atIssue g x).group g).bix ∧ (t.group g).outr = ((s.atIssue g x).group g).outr ∧
    t.slices.cm = (s.atIssue g x).slices.cm ∧ t.slices.ds = (s.atIssue g x).slices.ds ∧ others s t g x []
  let issues := fun (s : State) (g : Grp) (x : Issue) (op : Nat) => s.Issues g x op = true ∧
    ((s.atIssue g x).group g).stopReq = false
  let result := fun (s : State) (g : Grp) (x : Issue) (l : Nat) =>
    conv (accR s g x l 0) (wImm (s.issueCtx g x).w % 128) (wMode (s.issueCtx g x).w % 4) (bit (wMode (s.issueCtx g x).w) 2)
  let metric := fun (s : State) (g : Grp) (x : Issue) (l j : Nat) =>
    field (if j < 2 then op1 s g x l else op2 s g x l).toNat (16 * (j % 2)) 16
  let path := fun (s : State) (g : Grp) (x : Issue) (l j : Nat) => narrow false ((accR s g x l j).toInt + metric s g x l j)
  let best := fun (s : State) (g : Grp) (x : Issue) (n l j : Nat) => j < n ∧
    (∀ i, i < n → (path s g x l j).1.toInt ≤ (path s g x l i).1.toInt) ∧
    (∀ i, i < j → (path s g x l j).1.toInt < (path s g x l i).1.toInt)
  (∀ s g x, issues s g x 0x20 → ∃ t, exec (.fma g x) s = .next t ∧
    writes s t g x fun l => inv (fpFma (fp (accD s g x l)) (fpOf (op1 s g x l)) (fpOf (op2 s g x l)))) ∧
  (∀ s g x, issues s g x 0x21 → ∃ t, exec (.fms g x) s = .next t ∧
    writes s t g x fun l => inv (fpFma (fp (accD s g x l)) (fpOf (op1 s g x l)).neg (fpOf (op2 s g x l)))) ∧
  (∀ s g x, issues s g x 0x22 → ∃ t, exec (.fmul g x) s = .next t ∧
    writes s t g x fun l => inv (fpMul (fpOf (op1 s g x l)) (fpOf (op2 s g x l)))) ∧
  (∀ s g x, issues s g x 0x23 → ∃ t, exec (.fadd g x) s = .next t ∧
    writes s t g x fun l => inv (fpAdd (fp (accR s g x l 0)) (fpOf (op1 s g x l)))) ∧
  (∀ s g x, issues s g x 0x24 → ∃ t, exec (.cvtf g x) s = .next t ∧
    writes s t g x fun l => inv (fpOfInt (accR s g x l 0).toInt (wImm (s.issueCtx g x).w % 128))) ∧
  (∀ s g x, issues s g x 0x25 → ∃ t, exec (.cvti g x) s = .next t ∧
    writes s t g x fun l => match fpToInt (fp (accR s g x l 0)) (wImm (s.issueCtx g x).w % 128) with
      | some v => narrow true v
      | none => (0#80, flagFI)) ∧
  (∀ (i : Grp → Issue → Instr) (op n : Nat), (i, op, n) ∈ [(Instr.acs2, 0x28, 2), (Instr.acs4, 0x29, 4)] →
    ∀ s g x (j : Nat → Nat), issues s g x op → (∀ l, l < 8 → best s g x n l (j l)) →
    ∃ t, exec (i g x) s = .next t ∧ accs s t g x (fun l => (path s g x l (j l)).1) ∧
      flags s t g x (fun l => (List.range n).foldl (fun f i => f ||| (path s g x l i).2) 0#5) ∧
      (t.group g).bix = ((s.atIssue g x).group g).bix ∧ t.slices.cm = (s.atIssue g x).slices.cm ∧ others s t g x [.mem, .inject] ∧
      (t.dsWord g ((((s.atIssue g x).group g).regs.addr (wKreg (s.issueCtx g x).w)).toNat % 8192 / 2)).toNat =
        (let a := (((s.atIssue g x).group g).regs.addr (wKreg (s.issueCtx g x).w)).toNat % 8192
        let d := ((lanes s g x).map fun l => j l * 2 ^ (n / 2 * l)).sum
        let old := ((s.atIssue g x).dsWord g (a / 2)).toNat
        if n = 4 then d else if a % 2 = 0 then old / 256 * 256 + d else old % 256 + d * 256) ∧
      (∀ g' i, g.b < 64 → g'.b < 64 → i < 4096 → (g' ≠ g ∨ i ≠
          (((s.atIssue g x).group g).regs.addr (wKreg (s.issueCtx g x).w)).toNat % 8192 / 2) →
        t.dsWord g' i = (s.atIssue g x).dsWord g' i)) ∧
  (∀ s g x, issues s g x 0x2A → ∃ t, exec (.minp g x) s = .next t ∧ others s t g x [] ∧ t.slices.cm = (s.atIssue g x).slices.cm ∧
    t.slices.ds = (s.atIssue g x).slices.ds ∧ (t.group g).outr = ((s.atIssue g x).group g).outr ∧
    (∀ l n, l < 8 → n < 8 → (n ≠ wAccD (s.issueCtx g x).w ∨ wLane (s.issueCtx g x).w l = false) →
      (t.group g).accNow l n = ((s.atIssue g x).group g).accNow l n) ∧
    (∀ l, l < 8 → wLane (s.issueCtx g x).w l = false → (t.group g).bixNow l = ((s.atIssue g x).group g).bixNow l) ∧
    ∀ l, l < 8 → wLane (s.issueCtx g x).w l = true →
      let from_ := sourceLane (s.issueCtx g x).w l
      let v := narrow false ((accR s g x from_ 0).toInt + (op1 s g x l).toInt)
      if v.1.toInt < (accD s g x l).toInt then
        (t.group g).accNow l (wAccD (s.issueCtx g x).w) = v.1 ∧ (t.group g).bixNow l =
          (if wMode (s.issueCtx g x).w / 4 = 0 then
            BitVec.setWidth 16 (((s.atIssue g x).group g).regs.addr (wKreg (s.issueCtx g x).w))
          else ((s.atIssue g x).group g).bixRead (s.issueCycle g x) from_)
      else (t.group g).accNow l (wAccD (s.issueCtx g x).w) = accD s g x l ∧
        (t.group g).bixNow l = ((s.atIssue g x).group g).bixNow l) ∧
  (∀ s g x, issues s g x 0x30 → ∃ t, exec (.out g x) s = .next t ∧ others s t g x [] ∧
    (t.group g).bix = ((s.atIssue g x).group g).bix ∧
    flags s t g x (fun l => if bit (wMode (s.issueCtx g x).w) 3 then 0#5 else (result s g x l).2) ∧
    (t.group g).acc = ((s.atIssue g x).group g).acc ∧ t.slices.cm = (s.atIssue g x).slices.cm ∧ t.slices.ds = (s.atIssue g x).slices.ds ∧
    (t.group g).shown.getLast? = some (s.issueCycle g x + 4, BitVec.ofNat 8 (wLanes (s.issueCtx g x).w)) ∧
    ∀ l, l < 8 → Tab.get 0#32 (t.group g).outr l =
      if wLane (s.issueCtx g x).w l = false then Tab.get 0#32 ((s.atIssue g x).group g).outr l
      else if bit (wMode (s.issueCtx g x).w) 3 then
        BitVec.setWidth 32 (((s.atIssue g x).group g).bixRead (s.issueCycle g x) l)
      else (result s g x l).1) ∧
  (∀ s g x, issues s g x 0x31 → ∃ t, exec (.stc g x) s = .next t ∧ others s t g x [.mem, .inject] ∧
    (t.group g).bix = ((s.atIssue g x).group g).bix ∧ (t.group g).outr = ((s.atIssue g x).group g).outr ∧
    flags s t g x (fun l => (result s g x l).2) ∧ (t.group g).stcAt = some (s.issueCycle g x) ∧
    (t.group g).acc = ((s.atIssue g x).group g).acc ∧ t.slices.ds = (s.atIssue g x).slices.ds ∧
    let a := (((s.atIssue g x).group g).regs.addr (wPAreg (s.issueCtx g x).w)).toNat / 8 * 8
    (∀ l, l < 8 → wLane (s.issueCtx g x).w l = true → t.cmWord g (a + l) =
      (result s g x l).1) ∧
    (∀ i, i < 16384 → (∀ l, l < 8 → wLane (s.issueCtx g x).w l = true → i ≠ a + l) → t.cmWord g i = (s.atIssue g x).cmWord g i) ∧
    (∀ g' i, g.b < 64 → g'.b < 64 → g' ≠ g → i < 16384 → t.cmWord g' i = (s.atIssue g x).cmWord g' i))

/-- Every datapath instruction (R205, R206, R210, R211, R217, R218): it post-modifies each address register that its word
names, once, and the sequencer goes on; while a bus that it names is not valid, or WAITG finds sg_go 0, it does not issue
and the group is in WAIT; a word that is illegal where it stands, of whatever row, is not executed: the
group enters FAULT, its block its safe state, and 0x25ii:39 names the group and the code of R231. -/
def Obligations.IssuePostModifiesAndIllegalWordsFault : Prop :=
  let rows : List ((Grp → Issue → Instr) × Nat) := [(Instr.mac, 0x10), (Instr.msu, 0x11), (Instr.mul, 0x12),
    (Instr.add, 0x13), (Instr.sub, 0x14), (Instr.absd, 0x15), (Instr.mova, 0x16), (Instr.lda, 0x17), (Instr.sha, 0x18),
    (Instr.mina, 0x19), (Instr.maxa, 0x1A), (Instr.fma, 0x20), (Instr.fms, 0x21), (Instr.fmul, 0x22), (Instr.fadd, 0x23),
    (Instr.cvtf, 0x24), (Instr.cvti, 0x25), (Instr.acs2, 0x28), (Instr.acs4, 0x29), (Instr.minp, 0x2A),
    (Instr.out, 0x30), (Instr.stc, 0x31)]
  let control : List ((Grp → Issue → Instr) × Nat) := [(Instr.nop, 0x00), (Instr.stop, 0x01), (Instr.jmp, 0x02),
    (Instr.djnz, 0x03), (Instr.loop, 0x04), (Instr.rep, 0x05), (Instr.ret, 0x06), (Instr.waitg, 0x07),
    (Instr.evmask, 0x08), (Instr.seta, 0x09), (Instr.adda, 0x0A), (Instr.setm, 0x0B), (Instr.clrf, 0x0C)]
  (∀ (i : Grp → Issue → Instr) (op : Nat), (i, op) ∈ rows → ∀ (s : State) (g : Grp) (x : Issue),
    s.Issues g x op = true → ((s.atIssue g x).group g).stopReq = false →
    ∃ t, exec (i g x) s = .next t ∧
      (∀ j, (t.group g).regs.addr j = if j ∈ modified (s.issueCtx g x).w then
        postModify (((s.atIssue g x).group g).regs.addr j) (((s.atIssue g x).group g).regs.modifier j)
        else ((s.atIssue g x).group g).regs.addr j) ∧
      (t.group g).regs.m = ((s.atIssue g x).group g).regs.m ∧ (t.group g).st = .run ∧
      (t.group g).last = some (s.issueCycle g x) ∧ (t.group g).rep = ((s.atIssue g x).group g).rep - 1 ∧
      (t.group g).pc = (let d := (s.atIssue g x).group g
        if 1 < d.rep then d.pc else match d.regs.loop with
          | some l => if d.pc = l.last ∧ d.regs.lc ≠ 0#16 then l.first else d.pc + 1
          | none => d.pc + 1)) ∧
  (∀ (i : Grp → Issue → Instr) (op code : Nat), (i, op) ∈ rows ++ control → ∀ (s : State) (g : Grp) (x : Issue),
    g.r < 32 → g.b < 64 → s.mayIssue g x = true →
    ((s.atIssue g x).group g).pc < 4096 → ((s.atIssue g x).gmErr g 0 ((s.atIssue g x).group g).pc).1 = 0 →
    (s.atIssue g x).isArmed 0x2D40 1 (groupKey g.r g.b) = false →
    (wOp (s.issueCtx g x).w = op ∨ opDefined (wOp (s.issueCtx g x).w) = false) → waits (s.issueCtx g x).w x = false →
    (s.atIssue g x).illegal g (s.issueCtx g x).w = some code →
    ∃ t, exec (i g x) s = .next t ∧ (t.group g).st = .fault ∧ (t.region g.r).safeBlocks.getLsbD g.b = true ∧
      t.reg (0x2500 + g.r) 0x39 = g.b * 256 + code ∧ (t.group g).acc = [] ∧ SlicesKept (s.atIssue g x) t.toChip ∧
      (∀ j, j ≠ groupKey g.r g.b → Tab.get {} t.slices.groups j = Tab.get {} (s.atIssue g x).slices.groups j)) ∧
  (∀ (i : Grp → Issue → Instr) (op : Nat), (i, op) ∈ rows ++ control → ∀ (s : State) (g : Grp) (x : Issue),
    s.mayIssue g x = true → ((s.atIssue g x).group g).pc < 4096 →
    ((s.atIssue g x).gmErr g 0 ((s.atIssue g x).group g).pc).1 = 0 → wOp (s.issueCtx g x).w = op →
    waits (s.issueCtx g x).w x = true →
    ∃ t, exec (i g x) s = .next t ∧ t.group g = { (s.atIssue g x).group g with st := .wait } ∧
      (∀ j, j ≠ groupKey g.r g.b → Tab.get {} t.slices.groups j = Tab.get {} (s.atIssue g x).slices.groups j) ∧
      SlicesKept (s.atIssue g x) t.toChip ∧ OnlyTouches [.slices] (s.on (s.atIssue g x)) t) ∧
  (∀ (i : Grp → Issue → Instr) (op : Nat), (i, op) ∈ rows ++ control → ∀ (s : State) (g : Grp) (x : Issue),
    g.r < 32 → g.b < 64 → s.mayIssue g x = true → 4096 ≤ ((s.atIssue g x).group g).pc →
    ∃ t, exec (i g x) s = .next t ∧ (t.group g).st = .fault ∧ t.reg (0x2500 + g.r) 0x39 = g.b * 256 + 3)

/-- Events, start and stop (R219, R220, R222, R224, R232, R233): an enabled input asserts its pending bit; the lowest
event that EVMASK allows is entered at a boundary; a handler beyond its bound is counted once; a start and a stop, by the
fabric or by the dictionary's masks, act on STOP and RUN, a stop inside a REP after its last repetition; the flags of the
named groups clear. -/
def Obligations.EventsStartsAndStops : Prop :=
  let now := fun (s : State) (g : Grp) (t0 : Nat) => (s.toChip.upTo t0).settleGroup g
  let others := fun (b : Chip) (t : State) (g : Grp) =>
    ∀ j, j ≠ groupKey g.r g.b → Tab.get {} t.slices.groups j = Tab.get {} b.slices.groups j
  let only := fun (s t : State) (g : Grp) (t0 : Nat) => others (now s g t0) t g ∧ SlicesKept (now s g t0) t.toChip ∧
    OnlyTouches [.slices] (s.on (now s g t0)) t
  let quiet := fun (b : Chip) (g : Grp) => ∀ e i, e < 4 → i < 3 → (b.group g).evEnable.getLsbD e = true →
    (b.gmErr g 0 ((b.group g).entry.getD e 0 + i)).1 = 0
  let idle := fun (b : Chip) (g : Grp) => (b.group g).fetchAt = none ∧ (b.group g).cmHeld = none
  let named := fun (r : Nat) (m : BitVec 64) (j : Nat) => j / 64 = r ∧ m.getLsbD (j % 64) = true
  let enters := fun (x : Group) (c : Nat) => max (c + 1) ((x.last.map fun l => l + 3).getD 0)
  (∀ (s : State) (g : Grp) (n t0 : Nat), let d := now s g t0
    d.groupClock g = true → ((d.group g).st = .run ∨ (d.group g).st = .wait) → n < 4 →
    (d.group g).evEnable.getLsbD n = true → (d.group g).pending.getLsbD n = false →
    ∃ t, exec (.sgEventAssert g n t0) s = .next t ∧ only s t g t0 ∧ (t.group g).pending.getLsbD n = true ∧
      (∀ i, i < 4 → i ≠ n → (t.group g).pending.getLsbD i = (d.group g).pending.getLsbD i) ∧
      (t.group g).pc = (d.group g).pc) ∧
  (∀ (s : State) (g : Grp) (t0 ev : Nat), let d := now s g t0
    d.groupClock g = true → (d.group g).running = true → (d.group g).handler = none → (d.group g).rep = 0 →
    (d.group g).last.getD 0 ≤ d.groupCycle g → (d.group g).eventReady (d.groupCycle g) = some ev →
    ∃ t, exec (.eventEntry g t0) s = .next t ∧ only s t g t0 ∧ (t.group g).handler.map (·.ev) = some ev ∧
      (t.group g).pc = (d.group g).entry.getD ev 0 ∧ (t.group g).saved = (d.group g).pc ∧
      (t.group g).regs = (d.group g).shadow ∧ (t.group g).main = (d.group g).main ∧
      (t.group g).pending.getLsbD ev = false) ∧
  (∀ (s : State) (r blk ev t0 : Nat) (h : Handler), let d := now s ⟨r, blk⟩ t0
    r < 32 → blk < 64 → (d.group ⟨r, blk⟩).handler = some h → h.ev = ev → h.late = false →
    h.since + (d.group ⟨r, blk⟩).bound.getD ev 0 < d.isle r →
    ∃ t, exec (.sequencerOverrun r blk ev t0) s = .next t ∧
      t.reg (0x2500 + r) 0x3D = sat32 (d.reg (0x2500 + r) 0x3D + 1) ∧
      (d.regionPart r = none → d.isArmed 0x2D62 9 r = false →
        (t.group ⟨r, blk⟩).handler = some { h with late := true } ∧ others d t ⟨r, blk⟩) ∧
      ∀ p, p < 8 → d.regionPart r = some p → d.checksSlots r = true → (d.part p).status = .armed →
        (t.part p).status = .broken ∧ (t.region r).fenced = true ∧
        (t.region r).lastMiss.map (fun x => (x.cause, x.slot, x.tag)) = some (9, 0xFFFF, blk * 4 + ev)) ∧
  (∀ (s : State) (g : Grp) (t0 : Nat), let d := now s g t0
    d.groupClock g = true → d.groupUnderTest g = false → (d.group g).st = .stop →
    (d.group g).stopAt ≠ some (d.groupCycle g) → quiet d g →
    ∃ t, exec (.sgStart g t0) s = .next t ∧ only s t g t0 ∧ (t.group g).st = .run ∧ (t.group g).pc = (d.group g).start ∧
      (t.group g).pending = 0#4 ∧ (t.group g).last = some (d.groupCycle g) ∧ (t.group g).gap = 2 ∧
      (t.group g).acc = (d.group g).acc ∧ (t.group g).main = (d.group g).main) ∧
  (∀ (s : State) (g : Grp) (t0 : Nat), let d := now s g t0
    d.groupClock g = true → (d.group g).running = true →
    ∃ t, exec (.sgStop g t0) s = .next t ∧ only s t g t0 ∧ (t.group g).acc = (d.group g).acc ∧
      (t.group g).main = (d.group g).main ∧ (t.group g).pc = (d.group g).pc ∧ (t.group g).st = (d.group g).st ∧
      if (d.group g).rep = 0 then
        (t.group g).stopping = some (enters (d.group g) (d.groupCycle g), false) ∧
        ∀ c, enters (d.group g) (d.groupCycle g) ≤ c → ((t.group g).settle c).st = .stop ∧
          ((t.group g).settle c).pending = 0#4 ∧ ((t.group g).settle c).handler = none ∧
          ((t.group g).settle c).acc = (d.group g).acc ∧ ((t.group g).settle c).main = (d.group g).main
      else (t.group g).stopReq = true ∧ (t.group g).stopping = none) ∧
  (∀ (s : State) (q : Req) (r : Nat) (m : BitVec 64), r < 32 → WriteAllowed s q (0x2500 + r) 0x36 m.toNat = true →
    (∀ k, k < 64 → m.getLsbD k = true → let d := s.served q
      d.groupClock ⟨r, k⟩ = true ∧ d.groupUnderTest ⟨r, k⟩ = false ∧ idle d ⟨r, k⟩ ∧ (d.groupNow ⟨r, k⟩).st = .stop ∧
      (d.group ⟨r, k⟩).stopAt ≠ some (d.groupCycle ⟨r, k⟩) ∧ quiet d ⟨r, k⟩) →
    ∃ t, exec (.startMaskWrite q r m) s = .next t ∧ t.reply q.owner = .done ∧
      (∀ k, k < 64 → m.getLsbD k = true → (t.group ⟨r, k⟩).st = .run ∧ (t.group ⟨r, k⟩).pc = (s.group ⟨r, k⟩).start) ∧
      (∀ j, ¬ named r m j → Tab.get {} t.slices.groups j = Tab.get {} s.slices.groups j) ∧
      SlicesKept s.toChip t.toChip ∧ OnlyTouches (.belfry :: .slices :: answerAreas) s t) ∧
  (∀ (s : State) (q : Req) (r : Nat) (m : BitVec 64), r < 32 → WriteAllowed s q (0x2500 + r) 0x37 m.toNat = true →
    (∀ k, k < 64 → m.getLsbD k = true → let d := s.served q
      d.groupClock ⟨r, k⟩ = true ∧ idle d ⟨r, k⟩ ∧ (d.groupNow ⟨r, k⟩).running = true ∧ (d.groupNow ⟨r, k⟩).rep = 0) →
    ∃ t, exec (.stopMaskWrite q r m) s = .next t ∧ t.reply q.owner = .done ∧
      (∀ k, k < 64 → m.getLsbD k = true → (t.group ⟨r, k⟩).acc = (s.group ⟨r, k⟩).acc ∧ (t.group ⟨r, k⟩).stopping =
        some (enters ((s.served q).groupNow ⟨r, k⟩) ((s.served q).groupCycle ⟨r, k⟩), false)) ∧
      (∀ j, ¬ named r m j → Tab.get {} t.slices.groups j = Tab.get {} s.slices.groups j) ∧
      SlicesKept s.toChip t.toChip ∧ OnlyTouches (.belfry :: .slices :: answerAreas) s t) ∧
  (∀ (s : State) (q : Req) (r : Nat) (m : BitVec 64), r < 32 → WriteAllowed s q (0x2500 + r) 0x3F m.toNat = true →
    (∀ k, k < 64 → m.getLsbD k = true → idle s.toChip ⟨r, k⟩) →
    ∃ t, exec (.clearFlags q r m) s = .next t ∧ t.reply q.owner = .done ∧
      (∀ k, k < 64 → m.getLsbD k = true → (t.group ⟨r, k⟩).main.flags = 0#5 ∧ (t.group ⟨r, k⟩).shadow.flags = 0#5 ∧
        (t.group ⟨r, k⟩).main.a = (s.group ⟨r, k⟩).main.a ∧ (t.group ⟨r, k⟩).acc = (s.group ⟨r, k⟩).acc) ∧
      (∀ j, ¬ named r m j → Tab.get {} t.slices.groups j = Tab.get {} s.slices.groups j) ∧
      SlicesKept s.toChip t.toChip ∧ OnlyTouches (.belfry :: .slices :: answerAreas) s t)

/-- The group memories (R203, R225 to R235): the fabric reads a row or a halfword as it stood at the start of its cycle,
two group cycles later; a coefficient access is taken in a cycle in which the sequencer leaves it one, and waits else; it
writes a row, and in STOP an instruction word; the dictionary moves units at the address of 0x25ii:33, which moves on. Every
other word of the group memories stays as it is. -/
def Obligations.GroupMemoriesReadAndWrite : Prop :=
  let now := fun (s : State) (g : Grp) (t0 : Nat) => (s.toChip.upTo t0).settleGroup g
  let clean := fun (b : Chip) (g : Grp) (space i : Nat) => (b.gmErr g space i).1 = 0
  let unitV := fun (b : Chip) (g : Grp) (space i : Nat) => if space = 0 then (b.imWord g i).toNat
    else if space = 1 then (b.cmWord g i).toNat else (b.dsWord g i).toNat
  let kept := fun (b : Chip) (t : State) (w : Grp → Nat → Nat → Prop) => ∀ g space i, g.b < 64 → space < 3 →
    i < gmSize space → ¬ w g space i → unitV t.toChip g space i = unitV b g space i
  let free := fun (d : Chip) (g : Grp) => d.groupClock g = true ∧ d.underTest (cmUnit g) = false ∧
    (d.group g).cmHeld = none ∧ (d.group g).cmTaken ≠ some (d.groupCycle g)
  let left := fun (s : State) (d : Chip) (g : Grp) (t0 : Nat) => d.cmUse g (d.groupCycle g) ≤ 1 ∧
    s.pending.any ((s.toChip.upTo t0).issuesToo g) = false
  (∀ (s : State) (g : Grp) (row t0 : Nat), let d := now s g t0
    row < 2048 → free d g → left s d g t0 → (∀ e, e < 8 → clean d g 1 (8 * row + e)) →
    ∃ t, exec (.cmRead g row t0) s = .next t ∧ OnlyTouches [.slices] (s.on d) t ∧ SlicesKept d t.toChip ∧
      (t.group g).cmTaken = some (d.groupCycle g) ∧
      ∃ o, (t.group g).cmOut.getLast? = some o ∧ o.valid = true ∧ o.err = false ∧ o.cor = false ∧
        o.at_ = d.groupCycle g + 2 ∧
        ∀ e, e < 8 → busLane o.data e = d.cmAt g (8 * row + e) (d.groupCycle g)) ∧
  (∀ (s : State) (g : Grp) (row t0 : Nat) (v : BitVec 256), let d := now s g t0
    row < 2048 → g.b < 64 → free d g → left s d g t0 →
    ∃ t, exec (.cmWrite g row v t0) s = .next t ∧ OnlyTouches [.slices, .mem, .inject] (s.on d) t ∧
      (t.group g).cmTaken = some (d.groupCycle g) ∧ (∀ e, e < 8 → t.cmWord g (8 * row + e) = busLane v e) ∧
      kept d t (fun g' space i => g' = g ∧ space = 1 ∧ i / 8 = row)) ∧
  (∀ (s : State) (g : Grp) (row t0 : Nat) (i : Instr) (we : Bool) (v : BitVec 256), let d := now s g t0
    (i = .cmRead g row t0 ∧ we = false ∧ v = 0#256 ∨ i = .cmWrite g row v t0 ∧ we = true) → free d g → ¬ left s d g t0 →
    ∃ t a, exec i s = .next t ∧ OnlyTouches [.slices] (s.on d) t ∧ SlicesKept d t.toChip ∧
      (t.group g).cmHeld = some a ∧ a.we = we ∧ a.row = row ∧ a.data = v ∧ (t.group g).cmOut = (d.group g).cmOut) ∧
  (∀ (s : State) (g : Grp) (a t0 : Nat), let d := now s g t0
    a < 4096 → d.groupClock g = true → d.underTest (dsUnit g) = false → clean d g 2 a →
    ∃ t, exec (.dsRead g a t0) s = .next t ∧ OnlyTouches [.slices] (s.on d) t ∧ SlicesKept d t.toChip ∧
      ∃ o, (t.group g).dsOut.getLast? = some o ∧ o.valid = true ∧ o.at_ = d.groupCycle g + 2 ∧
        o.data = BitVec.setWidth 256 (d.dsAt g a (d.groupCycle g))) ∧
  (∀ (s : State) (g : Grp) (a t0 : Nat) (v : BitVec 64), let d := now s g t0
    a < 4096 → g.b < 64 → d.groupClock g = true → d.underTest (imUnit g) = false → (d.group g).st = .stop →
    ∃ t, exec (.imWrite g a v t0) s = .next t ∧ OnlyTouches [.slices, .mem, .inject] (s.on d) t ∧
      t.imWord g a = v ∧ kept d t (fun g' space i => g' = g ∧ space = 0 ∧ i = a)) ∧
  (∀ (s : State) (g : Grp) (a t0 : Nat) (v : BitVec 64), let d := now s g t0
    g.r < 32 → (d.groupClock g = true ∨ (d.group g).st = .fault ∧ d.fabricRuns g.r = true ∧
      d.netRuns g.r (d.group g).net = true) → d.underTest (imUnit g) = false → (d.group g).st ≠ .stop →
    ∃ t, exec (.imWrite g a v t0) s = .next t ∧ OnlyTouches [.dict] (s.on d) t ∧
      t.reg (0x2500 + g.r) 0x3C = sat32 (d.reg (0x2500 + g.r) 0x3C + 1)) ∧
  (∀ (s : State) (q : Req) (r : Nat), let a := s.reg (0x2500 + r) 0x33
    r < 32 → q.owner < 6 → ReadAllowed s q (0x2500 + r) 0x34 = true → s.reg (0x2500 + r) 0x35 = 1 →
    (s.group (gmGroup r a)).fetchAt = none → (s.group (gmGroup r a)).cmHeld = none →
    (s.served q).gmCheck r a 1 false = 0 → clean s.toChip (gmGroup r a) (gmSpace a) (gmIndex a) →
    ∃ t, exec (.groupMemoryDataRead q r) s = .next t ∧
      t.reply q.owner = .data (toBytes (gmBytes (gmSpace a)) (unitV s.toChip (gmGroup r a) (gmSpace a) (gmIndex a))) ∧
      t.reg (0x2500 + r) 0x33 = gmNext a 1 ∧ SlicesKept s.toChip t.toChip ∧
      OnlyTouches (.belfry :: .slices :: answerAreas) s t) ∧
  (∀ (s : State) (q : Req) (r n : Nat) (d : Bytes) (c : Chip), let a := s.reg (0x2500 + r) 0x33
    r < 32 → ReadAllowed s q (0x2500 + r) 0x34 = true → s.reg (0x2500 + r) 0x35 = n →
    (s.served q).gmCheck r a n false = 0 →
    (s.served q).gmReadUnits (gmGroup r a) (gmSpace a) (gmIndex a) n = (c, some d) →
    ∃ t, exec (.groupMemoryDataRead q r) s = .next t ∧ t.reply q.owner = .data d ∧ SlicesKept c t.toChip ∧
      t.reg (0x2500 + r) 0x33 = if q.owner = 6 then a else gmNext a n) ∧
  (∀ (s : State) (q : Req) (r n : Nat) (v : Bytes), let a := s.reg (0x2500 + r) 0x33
    r < 32 → BytesAllowed s q (0x2500 + r) 0x34 v.length = true → s.reg (0x2500 + r) 0x35 = n →
    (s.served q).gmCheck r a n true = 0 → v.length = n * gmBytes (gmSpace a) →
    ∃ t, exec (.groupMemoryDataWrite q r v) s = .next t ∧ t.reply q.owner = .done ∧
      SlicesKept ((s.served q).gmWriteUnits (gmGroup r a) (gmSpace a) (gmIndex a) v n) t.toChip ∧
      t.reg (0x2500 + r) 0x33 = gmNext a n) ∧
  (∀ (s : State) (q : Req) (r : Nat) (v : Bytes), let a := s.reg (0x2500 + r) 0x33
    r < 32 → BytesAllowed s q (0x2500 + r) 0x34 v.length = true → s.reg (0x2500 + r) 0x35 = 1 →
    (s.group (gmGroup r a)).fetchAt = none → (s.group (gmGroup r a)).cmHeld = none →
    (s.served q).gmCheck r a 1 true = 0 → v.length = gmBytes (gmSpace a) →
    ∃ t, exec (.groupMemoryDataWrite q r v) s = .next t ∧ t.reply q.owner = .done ∧
      unitV t.toChip (gmGroup r a) (gmSpace a) (gmIndex a) = ofBytes v ∧
      kept s.toChip t (fun g space i => g = gmGroup r a ∧ i = gmIndex a ∧ space = min 2 (gmSpace a)) ∧
      t.reg (0x2500 + r) 0x33 = gmNext a 1 ∧
      OnlyTouches (.belfry :: .slices :: .mem :: .inject :: answerAreas) s t)

/-! ### Chapter 09: the DRAM hub -/

/-- Training and rate changes (R240, R243, R244): a channel whose training ends is ready or mapped out with cause 1; with
the last one the set forms, the hub is ready and contents are undefined; a rate change waits for the end of training, or
makes the hub change through self-refresh, and ends in the new rate with status 0 or in the previous one with status 5. -/
def Obligations.TrainingAndRateChanges : Prop :=
  (∀ (s : State) (c c' ms t0 : Nat) (ok : Bool), c < 8 → c' < 8 → c' ≠ c → (s.channel c).st = .training →
    (s.channel c').st = .training → s.hub.st = 1 → s.isArmed 0x2D80 4 c = false →
    ∃ t, exec (.channelTrainingEnd c ok ms t0) s = .next t ∧
      (t.channel c).st = (if ok then .ready else .mappedOut) ∧ (t.channel c).mapOut =
        (if ok then (s.channel c).mapOut else 1) ∧ t.reg (0x2610 + c) 0x10 = ms ∧ t.hub.st = 1 ∧
      (∀ j, j ≠ c → t.channel j = s.channel j) ∧ OnlyTouches (.belfry :: .hub :: logAreas) s t) ∧
  (∀ (s : State) (c ms t0 : Nat), c < 8 → (s.channel c).st = .training → s.hub.st = 1 → s.hub.pending = 0 →
    s.isArmed 0x2D80 4 c = false → (∀ j, j < 8 → j ≠ c → (s.channel j).st ≠ .training) →
    ∃ t, exec (.channelTrainingEnd c true ms t0) s = .next t ∧
      ((t.channel c).st = .ready ∨ (t.channel c).st = .idle) ∧ t.hub.st = 2 ∧ t.hub.rate = t.hub.target ∧
      t.hub.mem = [] ∧ t.hub.base = s.hub.epoch + 1 ∧ t.dev.dramOk = true ∧ t.reg (0x2610 + c) 0x10 = ms) ∧
  (∀ (s : State) (q : Req) (n rate : Nat), CommandTaken s q 0x2E26 n [(3, rate)] = true → s.serving = true →
    s.hub.st = 1 →
    ∃ t, exec (.rateChange q n rate) s = .next t ∧ t.hub.pending = rate ∧ t.hub.pendingOwner = q.owner ∧
      t.status 0x2E26 q.owner = 2 ∧ t.hub.rate = s.hub.rate ∧ OnlyTouches (.belfry :: .hub :: answerAreas) s t) ∧
  (∀ (s : State) (q : Req) (n rate : Nat), CommandTaken s q 0x2E26 n [(3, rate)] = true → s.serving = true →
    s.hub.st = 2 → s.rateSupported rate = true → (∀ p, p < 8 → (s.part p).status ≠ .armed) →
    ∃ t, exec (.rateChange q n rate) s = .next t ∧ t.hub.rate = s.hub.rate ∧
      (if rate = s.hub.rate then t.hub = s.hub ∧ t.status 0x2E26 q.owner = 0 else
        t.hub.st = 3 ∧ t.busyFor 0x2E26 q.owner ∧
        t.hub.changing = some (rate, !(s.hub.trained.any fun x => x.1 == rate))) ∧
      OnlyTouches (.belfry :: .hub :: answerAreas) s t) ∧
  (∀ (s : State) (rate o : Nat) (trains : Bool), s.hub.st = 3 → s.hub.changing = some (rate, trains) →
    s.inject.armed = [] → (s.cmd 0x2E26).busy = some o →
    ∃ t, exec (.rateChangeDone true) s = .next t ∧ t.hub.st = 2 ∧ t.hub.rate = rate ∧ t.hub.changing = none ∧
      t.status 0x2E26 o = 0 ∧ (t.cmd 0x2E26).busy = none ∧ (trains = false → t.hub.mem = s.hub.mem) ∧
      OnlyTouches (.hub :: logAreas) s t) ∧
  (∀ (s : State) (rate o : Nat) (trains : Bool), s.hub.st = 3 → s.hub.changing = some (rate, trains) →
    s.inject.armed = [] → (s.cmd 0x2E26).busy = some o →
    ∃ t, exec (.rateChangeDone false) s = .next t ∧ t.hub.st = 2 ∧ t.hub.rate = s.hub.rate ∧ t.status 0x2E26 o = 5 ∧
      OnlyTouches [.hub, .dict] s t)

/-- Refresh rounds, hot spans and DIMM temperatures (R98, R245, R246): hot refresh engages and releases at a round; a
reading stands in 0x26cc:07 or :08, counts as hot above 85 °C, and above 95 °C is a chip-level fault; the third poll in
turn that fails counts as hot. -/
def Obligations.RefreshAndDimmTemperatures : Prop :=
  (∀ s : State, s.refreshes = true →
    ∃ t, exec .refreshRound s = .next t ∧ t.hub.refreshAt = some t.now ∧ t.hub.hotRefresh = s.hotWanted ∧
      (s.now + 3900 < 2 ^ 64 → t.now % 3900 = 0 ∧ s.now ≤ t.now ∧ t.now < s.now + 3900) ∧
      t.hub.channels = s.hub.channels ∧ OnlyTouches (.belfry :: .hub :: logAreas) s t) ∧
  (∀ s : State, s.refreshes = false →
    ∃ t, exec .refreshRound s = .next t ∧ t.hub = { s.hub with hotRefresh := s.hotWanted } ∧
      OnlyTouches (.belfry :: .hub :: logAreas) s t) ∧
  (∀ s : State, s.refreshes = true → s.hub.hotRefresh = true →
    ∃ t, exec .hotSpanRefresh s = .next t ∧ t.hub.hotAt = some t.now ∧
      (s.now + 3900 < 2 ^ 64 → t.now % 3900 = 1950 ∧ s.now ≤ t.now ∧ t.now < s.now + 3900) ∧
      OnlyTouches [.belfry, .hub] s t) ∧
  (∀ (s : State) (c d t0 : Nat) (v : Int), c < 8 → d < (s.channel c).dimms.length → s.inject.enabled = false →
    v ≤ 380 →
    ∃ t, exec (.dimmTemperaturePoll c d (some v) t0) s = .next t ∧ t.reg (0x2610 + c) (7 + d) = tempRaw v ∧
      Tab.get false (t.channel c).hot d = decide (340 < v) ∧ Tab.get 0 (t.channel c).fails d = 0 ∧
      t.dev.st = s.dev.st ∧ (∀ j, j ≠ c → t.channel j = s.channel j) ∧ OnlyTouches [.belfry, .hub, .dict, .dev] s t) ∧
  (∀ (s : State) (c d t0 : Nat) (v : Int), c < 8 → d < (s.channel c).dimms.length → s.inject.enabled = false →
    380 < v → (s.dev.st = .reduced ∨ s.dev.st = .full) → evCode 4 8 c 8 ∉ s.dev.raised →
    ∃ t, exec (.dimmTemperaturePoll c d (some v) t0) s = .next t ∧ t.dev.st = .safe ∧ t.dev.cause = evCode 4 8 c 8 ∧
      t.aon.faultCode = evCode 4 8 c 8) ∧
  (∀ (s : State) (c d t0 : Nat), c < 8 → d < (s.channel c).dimms.length → s.inject.enabled = false →
    ∃ t, exec (.dimmTemperaturePoll c d none t0) s = .next t ∧
      Tab.get 0 (t.channel c).fails d = Tab.get 0 (s.channel c).fails d + 1 ∧
      Tab.get false (t.channel c).hot d =
        (if 2 ≤ Tab.get 0 (s.channel c).fails d then true else Tab.get false (s.channel c).hot d) ∧
      (∀ j, j ≠ c → t.channel j = s.channel j) ∧ OnlyTouches (.belfry :: .hub :: logAreas) s t)

/-- Scheduled windows (R82, R87, R250 to R252, R286): a request that its slot names, in the window channel, with its right
and with the bank free is served: a read's bytes are due at hub cycle 64, or 72 for a pinned-sealed target; a write's
enabled bytes stand in DRAM at once, the rest of a sealed line not yet written as 0; the return slot hands over the data of the request that stood a hub latency before
it; the slot of an unused request is no miss; late data, injected or not, is a miss with cause 6. -/
def Obligations.ScheduledWindowsAndReturns : Prop :=
  let ready := fun (s : State) (r h a t0 : Nat) (we pinned part : Bool) (rr : Nat) =>
    ((s.toChip.upTo t0).requestSlot r h we pinned).isSome = true ∧ s.fabricRuns r = true ∧ s.inject.armed = [] ∧
    (s.toChip.upTo t0).windowTaken r h a = true ∧
    (s.toChip.upTo t0).windowTarget (s.regionOwner r) a we part pinned = 0 ∧ s.protAt a = some rr ∧
    s.protMode rr ≤ 3 ∧ a / 64 ∉ s.hub.badLines ∧ a % 32 = 0 ∧ s.cupola.cache.length ≤ s.cacheRoom
  let unwritten := fun (s : State) (rr a : Nat) => 2 ≤ s.protMode rr ∧ s.minorOf a = 0
  let before := fun (s : State) (rr a x : Nat) =>
    if 2 ≤ s.protMode rr ∧ s.minorOf a = 0 ∧ x / 64 = a / 64 then 0#8 else s.dramByte x
  let tick := fun (s : State) (t0 : Nat) => (s.toChip.upTo t0).now
  let answers := fun (s : State) (r t0 : Nat) (x : Nat × BitVec 64) (w : Window) =>
    w.cycle + latencyOf (s.region r).m x.2 = tick s t0 % 3900 * 8 / (s.region r).m
  (∀ (s : State) (r h a t0 rr : Nat) (pinned : Bool), r < 32 → h < 2 → ready s r h a t0 false pinned false rr →
    ∃ t, exec (.scheduledReadRequest r h a pinned t0) s = .next t ∧
      (∀ l, Tab.get [] s.hub.windowsOut (2 * r + h) = l → ∃ w, Tab.get [] t.hub.windowsOut (2 * r + h) = l ++ [w] ∧
        w.code = 0 ∧ w.addr = a ∧ w.due = tick s t0 + (if pinned then 90 else 80) ∧
        w.cycle = tick s t0 % 3900 * 8 / (s.region r).m ∧
        (unwritten s rr a → w.data = List.replicate 32 0#8) ∧ (¬ unwritten s rr a → w.data = s.dramBytes a 32)) ∧
      t.hub.mem = s.hub.mem ∧ OnlyTouches [.belfry, .hub] s t) ∧
  (∀ (s : State) (r h a t0 rr : Nat) (pinned : Bool) (m : BitVec 32) (d : Bytes), r < 32 → h < 2 → d.length = 32 →
    ready s r h a t0 true pinned (m != BitVec.allOnes 32) rr →
    ∃ t, exec (.scheduledWriteRequest r h a pinned m d t0) s = .next t ∧
      (∀ i, i < 32 → t.dramByte (a + i) = if m.getLsbD i then d.getD i 0#8 else before s rr a (a + i)) ∧
      (∀ x, x < a ∨ a + 32 ≤ x → t.dramByte x = before s rr a x) ∧
      Tab.get (0, 0, 0) t.hub.writes (2 * r + h) = (a, tick s t0, 0) ∧ (t.region r).fenced = (s.region r).fenced ∧
      OnlyTouches [.belfry, .hub, .cupola, .dict] s t) ∧
  (∀ (s : State) (r h t0 : Nat) (x : Nat × BitVec 64) (l0 l : List Window) (w : Window), r < 32 → h < 2 →
    s.fabricRuns r = true → s.isArmed 0x2D62 6 r = false → (s.toChip.upTo t0).returnEntry r h = some x →
    Tab.get [] s.hub.windowsOut (2 * r + h) = l0 ++ w :: l → answers s r t0 x w → (∀ v ∈ l, ¬ answers s r t0 x v) →
    w.due ≤ tick s t0 → w.code = 0 →
    ∃ t, exec (.scheduledReturnSlot r h t0) s = .next t ∧ Tab.get (9, []) t.hub.returned (2 * r + h) = (0, w.data) ∧
      Tab.get (0, 9, []) t.hub.schedOut (2 * r + h) = ((s.toChip.upTo t0).isle r, 0, w.data) ∧
      Tab.get [] t.hub.windowsOut (2 * r + h) = l ∧ OnlyTouches [.belfry, .hub] s t) ∧
  (∀ (s : State) (r h t0 : Nat) (x : Nat × BitVec 64), r < 32 → h < 2 → s.fabricRuns r = true →
    s.isArmed 0x2D62 6 r = false → (s.toChip.upTo t0).returnEntry r h = some x →
    (∀ v ∈ Tab.get [] s.hub.windowsOut (2 * r + h), ¬ answers s r t0 x v) →
    ∃ t, exec (.scheduledReturnSlot r h t0) s = .next t ∧ t.hub = s.hub ∧ (t.region r).fenced = (s.region r).fenced ∧
      OnlyTouches [.belfry] s t) ∧
  (∀ (s : State) (r h t0 p : Nat) (x : Nat × BitVec 64), r < 32 → p < 8 → s.fabricRuns r = true →
    (s.toChip.upTo t0).returnEntry r h = some x →
    (s.isArmed 0x2D62 6 r = true ∨ ∃ l0 w l, Tab.get [] s.hub.windowsOut (2 * r + h) = l0 ++ w :: l ∧
      answers s r t0 x w ∧ (∀ v ∈ l, ¬ answers s r t0 x v) ∧ tick s t0 < w.due) →
    s.regionPart r = some p → (s.part p).status = .armed → (s.region r).fenced = false →
    ∃ t, exec (.scheduledReturnSlot r h t0) s = .next t ∧ (t.region r).fenced = true ∧ (t.part p).status = .broken ∧
      (t.region r).lastMiss.map (·.cause) = some 6) ∧
  (∀ (s : State) (r h a t0 p : Nat) (pinned : Bool), r < 32 → p < 8 →
    ((s.toChip.upTo t0).requestSlot r h false pinned).isSome = false → s.fabricRuns r = true → (s.regionK r).isSome = true →
    s.regionPart r = some p → (s.part p).status = .armed → (s.region r).fenced = false →
    ∃ t, exec (.scheduledReadRequest r h a pinned t0) s = .next t ∧ (t.region r).fenced = true ∧
      (t.part p).status = .broken ∧ (t.region r).lastMiss.map (fun x => (x.cause, x.slot)) = some (3, 0xFFFF) ∧ t.hub.mem = s.hub.mem)

/-- The best-effort class (R249, R254, R255, R258 to R262): a request that the hub takes is performed at its acceptance
and its result waits behind the source's earlier ones; the oldest result of a source returns first; a resent write is
counted; idle channels enter and leave self-refresh; patrol scrub steps through the capacity. -/
def Obligations.BestEffortRequestsAndChannels : Prop :=
  let taken := fun (s : State) (src a t0 : Nat) (we part : Bool) (rr : Nat) =>
    (s.toChip.upTo t0).hubReady src a we = true ∧ s.channelTakes a = 1 ∧ a < s.hub.capacity ∧
    (s.channel (s.hubChannel a)).underTest = false ∧
    (∀ o, s.sourceOwner src = some o → s.cupolaCode o a we part = 0) ∧ s.protAt a = some rr ∧ s.inject.armed = [] ∧
    a / 64 ∉ s.hub.badLines ∧ a % 32 = 0
  let unwritten := fun (s : State) (rr a : Nat) => 2 ≤ s.protMode rr ∧ s.minorOf a = 0
  let before := fun (s : State) (rr a x : Nat) =>
    if 2 ≤ s.protMode rr ∧ s.minorOf a = 0 ∧ x / 64 = a / 64 then 0#8 else s.dramByte x
  let room := fun (s : State) (rr : Nat) => s.cupola.cache.length + treeLevels (s.protExp rr) + 4 ≤ s.cacheRoom
  (∀ (s : State) (src a tag t0 rr : Nat), taken s src a t0 false false rr →
    ∃ t d, exec (.bestEffortRead src a tag t0) s = .next t ∧
      t.hub.queue = s.hub.queue ++ [{ src := src, we := false, addr := a, tag := tag, code := 0, data := d }] ∧
      (unwritten s rr a → d = List.replicate 32 0#8) ∧
      (room s rr → (¬ unwritten s rr a → d = s.dramBytes a 32) ∧ t.hub.mem = s.hub.mem ∧
        OnlyTouches (.belfry :: .hub :: .cupola :: logAreas) s t)) ∧
  (∀ (s : State) (src a tag t0 rr : Nat) (m : BitVec 32) (d : Bytes), d.length = 32 →
    taken s src a t0 true (m != BitVec.allOnes 32) rr →
    ∃ t d', exec (.bestEffortWrite src a m d tag t0) s = .next t ∧
      t.hub.queue = s.hub.queue ++ [{ src := src, we := true, addr := a, tag := tag, code := 0, data := d' }] ∧
      (∀ i, i < 32 → m.getLsbD i = true → t.dramByte (a + i) = d.getD i 0#8) ∧
      (room s rr → (∀ i, i < 32 → m.getLsbD i = false → t.dramByte (a + i) = before s rr a (a + i)) ∧
        (∀ x, x < a ∨ a + 32 ≤ x → t.dramByte x = before s rr a x) ∧
        OnlyTouches (.belfry :: .hub :: .cupola :: logAreas) s t)) ∧
  (∀ (i : Nat → Instr) (we : Bool), (i, we) ∈ [(Instr.bestEffortReadReturn, false), (Instr.bestEffortWriteAck, true)] →
    ∀ (s : State) (src : Nat) (q : Request), (s.hub.queue.find? fun x => x.src == src) = some q → q.we = we →
    s.mayReturn q = true → q.drop = false →
    ∃ t, exec (i src) s = .next t ∧ t.hub.queue = s.hub.queue.erase q ∧
      Tab.get (9, [], 0) t.hub.results src = (q.code, q.data, q.tag) ∧ (src < 64 → if we then
        Tab.get (0, 9, 0) t.hub.ackOut src = (s.isle (src / 2), q.code, q.tag) else
        Tab.get (0, 9, [], 0) t.hub.readOut src = (s.isle (src / 2), q.code, q.data, q.tag)) ∧ OnlyTouches [.hub] s t) ∧
  (∀ (s : State) (src : Nat) (q : Request) (l : List Request), s.hub.queue = q :: l → q.src = src → q.we = true →
    q.code = 0 → q.retries < 4 →
    ∃ t, exec (.writeCrcError src) s = .next t ∧ t.hub.queue = { q with retries := q.retries + 1 } :: l ∧
      t.reg (0x2610 + s.hubChannel q.addr) 0x0B = sat32 (s.reg (0x2610 + s.hubChannel q.addr) 0x0B + 1) ∧
      t.hub.mem = s.hub.mem ∧ OnlyTouches [.hub, .dict] s t) ∧
  (∀ (s : State) (src : Nat) (q : Request) (l : List Request), s.hub.queue = q :: l → q.src = src → q.we = true →
    q.code = 0 → 4 ≤ q.retries →
    ∃ t, exec (.writeCrcError src) s = .next t ∧ t.hub.queue = { q with code := 1 } :: l ∧
      t.reg (0x2610 + s.hubChannel q.addr) 0x0C = q.addr ∧ OnlyTouches (.hub :: logAreas) s t) ∧
  (∀ (s : State) (c : Nat), c < 8 → s.hub.st = 2 → ((s.channel c).st = .ready ∨ (s.channel c).st = .idle) →
    c ∉ s.windowChannels → s.reg 0x2600 9 ≠ 0 →
    ∃ t, exec (.selfRefreshEntry c) s = .next t ∧
      (if ∃ q ∈ s.hub.queue, s.hubChannel q.addr = c then
        (t.channel c).st = (s.channel c).st ∧ t.reg (0x2610 + c) 0x0E = sat32 (s.reg (0x2610 + c) 0x0E + 1)
      else (t.channel c).st = .selfRefresh ∧ t.reg (0x2610 + c) 0x0D = sat32 (s.reg (0x2610 + c) 0x0D + 1)) ∧
      t.now = (s.toChip.upTo ((s.channel c).usedAt + s.reg 0x2600 9 * 1000)).now ∧
      (∀ j, j ≠ c → t.channel j = s.channel j) ∧ t.hub.mem = s.hub.mem ∧ OnlyTouches [.belfry, .hub, .dict] s t) ∧
  (∀ (s : State) (c : Nat), (s.channel c).st = .selfRefresh → s.dev.st ≠ .closing →
    ∃ t, exec (.selfRefreshExit c) s = .next t ∧
      (t.channel c).st = (if s.hub.set_.getLsbD c then .ready else .idle) ∧
      (∀ j, j ≠ c → t.channel j = s.channel j) ∧ t.hub.mem = s.hub.mem ∧ OnlyTouches [.hub] s t) ∧
  (∀ (s : State) (e : EccOutcome), s.hub.st = 2 → s.hub.capacity ≠ 0 → s.bestEffortFrozen = false →
    s.reg 0x2910 3 ≠ 0 → s.inject.armed = [] → (s.channel (s.hubChannel (s.watch.scrubPtr % s.hub.capacity))).underTest =
      false → s.watch.scrubPtr % s.hub.capacity / 64 ∉ s.hub.badLines →
    ∃ t, exec (.dramScrubRead e) s = .next t ∧
      t.watch.scrubPtr = (s.watch.scrubPtr % s.hub.capacity + 64) % s.hub.capacity ∧
      (s.hub.capacity ≤ s.watch.scrubPtr % s.hub.capacity + 64 → t.reg 0x2910 5 = sat32 (s.reg 0x2910 5 + 1)) ∧
      (e = .clean → OnlyTouches [.watch, .dict] s t) ∧
      (∀ b, e = .single b → t.reg (0x2610 + s.hubChannel (s.watch.scrubPtr % s.hub.capacity)) 9 =
        sat32 (s.reg (0x2610 + s.hubChannel (s.watch.scrubPtr % s.hub.capacity)) 9 + 1) ∧ t.hub = s.hub) ∧
      (∀ b, e = .uncorrectable b → s.watch.scrubPtr % s.hub.capacity / 64 ∈ t.hub.badLines))

/-! ### Chapter 10: Cupola -/

/-- The region command and the ends of its work (R268, R269, R271, R273, R280, R285, R287, R288, R293): define, delete, re-key and
reinitialize, each with the state it leaves, its status and what becomes of the range: define leaves the lines as they stand but for
a veiled region's, whose contents become undefined; with the key of a sealed region go the plain lines, and the ciphertext stays. -/
def Obligations.RegionCommandsChangeRegions : Prop :=
  let areas : List Area := .belfry :: .hub :: .cupola :: .dbg :: .free :: logAreas
  let inside := fun (s : State) (rr x : Nat) => s.protBase rr ≤ x ∧ x < s.protBase rr + s.protSize rr
  let others := fun (s t : State) (rr : Nat) => ∀ j, j ≠ rr → t.prot j = s.prot j
  (∀ (s : State) (q : Req) (n rr : Nat), rr < 64 → CommandTaken s q 0x2E27 n [(3, rr), (4, 1)] = true →
    (s.prot rr).st = 0 → s.hub.st = 2 → s.hasMemory q.owner = true → s.descriptorOk rr = true →
    s.cupola.pinned + (if s.protMode rr = 3 then metaBytes (s.protExp rr) else 0) ≤ 6291456 →
    ∃ t, exec (.regionDefine q n rr) s = .next t ∧ (t.prot rr).owner = q.owner ∧ t.protReg rr 6 = 0 ∧
      t.protReg rr 7 = 0 ∧ (t.prot rr).keyGen = (if s.protMode rr = 0 then 0 else 1) ∧
      (if s.protMode rr < 2 then (t.prot rr).st = 2 ∧ t.status 0x2E27 q.owner = 0
      else (t.prot rr).st = 1 ∧ t.busyFor 0x2E27 q.owner) ∧ (s.protMode rr ≠ 0 → (t.prot rr).key = s.free) ∧
      t.cupola.pinned = s.cupola.pinned + (if s.protMode rr = 3 then metaBytes (s.protExp rr) else 0) ∧
      (∀ x, s.protMode rr ≠ 1 ∨ ¬ inside s rr x → t.dramByte x = s.dramByte x) ∧ others s t rr ∧ OnlyTouches areas s t) ∧
  (∀ (s : State) (rr o : Nat), rr < 64 → (s.prot rr).st = 1 → (s.cmd 0x2E27).busy = some o →
    ∃ t, exec (.metadataInitDone rr) s = .next t ∧ (t.prot rr).st = 2 ∧ t.status 0x2E27 o = 0 ∧
      (t.cmd 0x2E27).busy = none ∧ others s t rr ∧ OnlyTouches [.hub, .cupola, .dict, .ports] s t ∧
      let m := s.protReg rr 5
      let x : MetaSpan := { base := m, exp := s.protExp rr, key := (s.prot rr).key }
      ∀ a, t.dramByte a = if m + 2 ^ s.protExp rr / 8 ≤ a ∧ a < m + metaBytes (s.protExp rr) then (x.byte a).getD 0#8
        else s.dramByte a) ∧
  (∀ (s : State) (q : Req) (n rr : Nat), rr < 64 → CommandTaken s q 0x2E27 n [(3, rr), (4, 2)] = true →
    (s.prot rr).st ≠ 0 → (s.prot rr).st ≠ 6 → (q.owner = 0 ∨ q.owner = (s.prot rr).owner) →
    ∃ t, exec (.regionDelete q n rr) s = .next t ∧ others s t rr ∧ OnlyTouches areas s t ∧
      if s.protMode rr = 0 then (t.prot rr).st = 6 ∧ t.busyFor 0x2E27 q.owner ∧ ∀ x, t.dramByte x = s.dramByte x
      else (t.prot rr).st = 0 ∧ (t.prot rr).keyGen = 0 ∧ t.status 0x2E27 q.owner = 0 ∧
        (∀ e ∈ t.cupola.poison, e.2.1 ≠ rr) ∧ (2 ≤ s.protMode rr → s.protBase rr % 64 = 0 → 6 ≤ s.protExp rr →
          (∀ x, inside s rr x → s.protAt x = some rr) →
          (∀ x, inside s rr x → t.dramByte x = (s.rawLine x).getD (x % 64) 0#8) ∧
          ∀ x, ¬ inside s rr x → t.dramByte x = s.dramByte x)) ∧
  (∀ (s : State) (rr o : Nat), rr < 64 → (s.prot rr).st = 6 → (s.cmd 0x2E27).busy = some o →
    ∃ t, exec (.regionZeroFillDone rr) s = .next t ∧ (t.prot rr).st = 0 ∧ t.status 0x2E27 o = 0 ∧
      (∀ x, inside s rr x → t.dramByte x = 0#8) ∧ (∀ x, ¬ inside s rr x → t.dramByte x = s.dramByte x) ∧
      others s t rr ∧ OnlyTouches (.hub :: .cupola :: logAreas) s t) ∧
  (∀ (s : State) (q : Req) (n rr : Nat), rr < 64 → CommandTaken s q 0x2E27 n [(3, rr), (4, 3)] = true →
    (s.prot rr).st = 2 → s.protMode rr ≠ 0 → (s.prot rr).owner = q.owner →
    ∃ t, exec (.regionRekey q n rr) s = .next t ∧ (t.prot rr).st = 3 ∧ (t.prot rr).keyGen = (s.prot rr).keyGen + 1 ∧
      (t.prot rr).key = s.free ∧ (t.prot rr).oldKey = (s.prot rr).key ∧ t.busyFor 0x2E27 q.owner ∧ t.hub = s.hub ∧
      others s t rr ∧ OnlyTouches areas s t) ∧
  (∀ (s : State) (rr o : Nat), rr < 64 → (s.prot rr).st = 3 → s.cupola.sweepCmd = some rr →
    (s.cmd 0x2E27).busy = some o →
    ∃ t, exec (.rekeySweepDone rr) s = .next t ∧ (t.prot rr).st = 2 ∧ (t.prot rr).high = 0 ∧ t.status 0x2E27 o = 0 ∧
      (∀ a, inside s rr (a * 64) → t.minorOf (a * 64) ≠ 0 → t.minorOf (a * 64) = 1) ∧ others s t rr ∧
      (∀ a, s.protMode rr < 2 ∨ 24 ≤ s.protExp rr ∧ (a < s.protReg rr 5 ∨ s.protReg rr 5 + metaBytes (s.protExp rr) ≤ a) →
        t.dramByte a = s.dramByte a) ∧ OnlyTouches (.hub :: .cupola :: logAreas) s t) ∧
  (∀ (s : State) (q : Req) (n rr e : Nat), rr < 64 → CommandTaken s q 0x2E27 n [(3, rr), (4, 4), (5, e)] = true →
    (s.prot rr).owner = q.owner → (s.prot rr).high < 0xFFFFFFFF →
    (((s.prot rr).st = 2 ∧ ∃ x ∈ s.cupola.poison, x.1 = e ∧ x.2.1 = rr) ∨ ((s.prot rr).st = 5 ∧ e = 0xFF)) →
    ∃ t, exec (.regionReinitialize q n rr e) s = .next t ∧ t.cupola.reinit = some (rr, e) ∧ t.busyFor 0x2E27 q.owner ∧
      (∀ j, t.prot j = s.prot j) ∧ OnlyTouches (.belfry :: .cupola :: answerAreas) s t) ∧
  (∀ (s : State) (rr e o : Nat) (x : Nat × Nat × Nat × Nat), rr < 64 → s.cupola.reinit = some (rr, e) →
    (s.prot rr).st = 2 → e ≠ 0xFF → (s.cupola.poison.find? fun y => y.1 == e) = some x →
    (s.cmd 0x2E27).busy = some o → s.inject.armed = [] → s.cupola.cache.length + 2 ≤ s.cacheRoom →
    ∃ t, exec (.reinitializeDone rr) s = .next t ∧ (∀ y ∈ t.cupola.poison, y.1 ≠ e) ∧ t.cupola.reinit = none ∧
      t.status 0x2E27 o = 0 ∧ (∀ k, x.2.2.2 ≤ k * 64 → k * 64 < x.2.2.2 + coverOf x.2.2.1 →
        k * 64 < s.protBase rr + s.protSize rr → t.minorOf (k * 64) = 0) ∧
      (x.2.2.1 < 2 → ∀ a, a < x.2.2.2 → t.dramByte a = s.dramByte a) ∧ others s t rr) ∧
  (∀ (s : State) (rr o : Nat), rr < 64 → s.cupola.reinit = some (rr, 0xFF) → (s.prot rr).st = 5 →
    (s.cmd 0x2E27).busy = some o →
    ∃ t, exec (.reinitializeDone rr) s = .next t ∧ (t.prot rr).st = 2 ∧ (∀ y ∈ t.cupola.poison, y.2.1 ≠ rr) ∧
      t.status 0x2E27 o = 0 ∧ (t.prot rr).high = (s.prot rr).high + 1 ∧
      (∀ k, inside s rr (k * 64) → t.minorOf (k * 64) = 0) ∧
      (∀ x, x < s.protBase rr → x < s.protReg rr 5 → t.dramByte x = s.dramByte x) ∧ others s t rr)

/-- Rights and metadata (R270, R277 to R279, R282, R284, R289 to R291): a request that Cupola refuses answers with its code
and zeros; a right takes effect at its write; a loaded line that verifies enters the cache, an uncorrectable one poisons
what lies beneath it, and one whose tag fails brings the region to state 4 and the device to SAFE; a dirty line that goes
back stands in DRAM and raises the counter that its parent holds; a rewritten page frees its entry. -/
def Obligations.RightsAndMetadataTraffic : Prop :=
  let loads := fun (s : State) (rr level a : Nat) => rr < 64 ∧ ((s.prot rr).st = 2 ∨ (s.prot rr).st = 3) ∧
    s.protMode rr = 2 ∧ (∀ x ∈ s.cupola.cache, x.1 ≠ s.metaAddr rr level a) ∧ level ≤ treeLevels (s.protExp rr) + 1 ∧
    s.protAt a = some rr ∧ s.inject.armed = [] ∧ 24 ≤ s.protExp rr
  let dirty := fun (s : State) (rr a : Nat) => (s.cupola.cache.find? fun x => x.1 == a) = some (a, true) ∧
    s.spanAt a = some rr ∧ s.protMode rr = 2 ∧ 24 ≤ s.protExp rr ∧ s.metaArea rr a ≠ .unused ∧ s.inject.armed = []
  let tree := fun (s : State) (rr a : Nat) => ∃ n, s.metaArea rr a = .tree n
  let counts := fun (s : State) (rr a : Nat) => s.metaArea rr a ≠ .tags ∧ s.metaArea rr a ≠ .counterTags
  (∀ (s : State) (src a tag t0 o c : Nat), (s.toChip.upTo t0).hubReady src (a / 32 * 32) false = true →
    s.channelTakes (a / 32 * 32) = 1 → s.sourceOwner src = some o →
    (s.hub.capacity ≤ a / 32 * 32 ∨ (s.channel (s.hubChannel (a / 32 * 32))).underTest = false) →
    s.cupolaCode o (a / 32 * 32) false false = c → c ≠ 0 →
    ∃ t, exec (.bestEffortRead src a tag t0) s = .next t ∧
      t.hub.queue = s.hub.queue ++
        [{ src := src, we := false, addr := a / 32 * 32, tag := tag, code := c, data := List.replicate 32 0#8 }] ∧
      (c = 4 → t.reg 0x2700 6 = sat32 (s.reg 0x2700 6 + 1)) ∧ t.hub.mem = s.hub.mem ∧
      OnlyTouches [.belfry, .hub, .cupola, .dict] s t) ∧
  (∀ (s : State) (q : Req) (rr v : Nat) (w : Bool), rr < 64 →
    WriteAllowed s q (0x2710 + rr) (if w then 7 else 6) v = true →
    ∃ t, exec (.rightsWrite q rr w v) s = .next t ∧ t.reply q.owner = .done ∧ (∀ o, t.protRight rr o w = bit v o) ∧
      (∀ o, t.protRight rr o (!w) = s.protRight rr o (!w)) ∧
      (∀ rr' o w', rr' < 64 → rr' ≠ rr → t.protRight rr' o w' = s.protRight rr' o w') ∧
      OnlyTouches (.belfry :: answerAreas) s t) ∧
  (∀ (s : State) (rr level a t0 : Nat), loads s rr level a →
    (s.cupola.cache.length < s.cacheRoom ∨ s.cupola.cache.length = s.cacheRoom ∧
      ∃ l m, s.cupola.cache = l ++ [(m, false)]) →
    ∃ t, exec (.metadataLoad rr level a .verified t0) s = .next t ∧
      t.cupola.cache = (s.metaAddr rr level a, false) ::
        (if s.cupola.cache.length < s.cacheRoom then s.cupola.cache else s.cupola.cache.dropLast) ∧ t.reg 0x2700 5 = sat32 (s.reg 0x2700 5 + 1) ∧
      t.hub = s.hub ∧ OnlyTouches (.belfry :: .cupola :: logAreas) s t) ∧
  (∀ (s : State) (rr level a t0 : Nat), loads s rr level a → s.freePoison.isSome = true →
    ∃ t, exec (.metadataLoad rr level a .uncorrectable t0) s = .next t ∧
      (∃ x ∈ t.cupola.poison, x.2 = (rr, level,
        s.protBase rr + (a - s.protBase rr) / coverOf level * coverOf level)) ∧
      (t.prot rr).failCode = 3 ∧ (t.prot rr).failAddr = a ∧ (t.prot rr).st = (s.prot rr).st ∧
      OnlyTouches (.belfry :: .cupola :: logAreas) s t) ∧
  (∀ (s : State) (rr level a t0 : Nat), loads s rr level a → 0 < level → (s.dev.st = .reduced ∨ s.dev.st = .full) →
    ∃ t, exec (.metadataLoad rr level a .tagFailed t0) s = .next t ∧ (t.prot rr).st = 4 ∧ t.dev.st = .safe ∧
      t.dev.cause = evCode 4 9 rr 3) ∧
  (∀ (s : State) (rr a t0 : Nat), dirty s rr a → s.treeCounter a + 1 < 2 ^ 56 →
    s.cupola.cache.length + treeLevels (s.protExp rr) + 4 ≤ s.cacheRoom →
    ∃ t, exec (.metadataWriteBack a false t0) s = .next t ∧ (a, true) ∉ t.cupola.cache ∧ (a, false) ∈ t.cupola.cache ∧
      t.treeCounter a = (if counts s rr a then s.treeCounter a + 1 else s.treeCounter a) ∧
      (∀ k, k ≠ a → t.treeCounter k = s.treeCounter k) ∧ (¬ tree s rr a → t.dramBytes a 64 = s.metaLine rr a) ∧
      (tree s rr a → t.dramBytes a 64 = t.metaLine rr a) ∧
      (∀ x, x < a ∨ a + 64 ≤ x → t.dramByte x = s.dramByte x) ∧ OnlyTouches [.belfry, .hub, .cupola, .dict] s t) ∧
  (∀ (s : State) (rr a t0 : Nat), dirty s rr a → s.freePoison.isSome = true →
    ∃ t, exec (.metadataWriteBack a true t0) s = .next t ∧ (∀ x ∈ t.cupola.cache, x.1 ≠ a) ∧
      (∃ x ∈ t.cupola.poison, x.2.1 = rr) ∧ OnlyTouches (.belfry :: .cupola :: logAreas) s t) ∧
  (∀ (s : State) (rr page : Nat) (m : BitVec 64) (old : BitVec 512),
    (s.cupola.reenc.find? fun x => x.1 == rr && x.2.1 == page) = some (rr, page, m, old) →
    ∃ t, exec (.pageRewriteDone rr page) s = .next t ∧ t.cupola.reenc = s.cupola.reenc.erase (rr, page, m, old) ∧
      (∀ j, j < 64 → Tab.get 0 t.cupola.minor (page * 64 + j) =
        if m.getLsbD j then 1 else Tab.get 0 s.cupola.minor (page * 64 + j)) ∧ OnlyTouches [.cupola] s t)

/-! ### Chapter 11: owners, partitions and host ports -/

/-- Partitions (R124, R299 to R301): the owner and the claim are written; the reset command asserts the hard reset of every
region of a partition whose contract is neither ARMED nor SUSPENDED and plans the release, at a frame or after 5 ns; the
release ends it for every region that is neither fenced nor halted, in a partition without slot tables at its second net-0 edge,
and the command with status 0. -/
def Obligations.PartitionsAreOwnedClaimedAndReset : Prop :=
  (∀ (s : State) (q : Req) (p v : Nat), p < 8 → WriteAllowed s q (0x2110 + p) 1 v = true →
    ∃ t, exec (.partitionOwnerWrite q p v) s = .next t ∧ (t.part p).owner = v ∧ t.reply q.owner = .done ∧
      (t.part p).claim = (s.part p).claim ∧ (∀ j, j ≠ p → t.part j = s.part j) ∧
      OnlyTouches (.belfry :: .parts :: .dbg :: logAreas) s t) ∧
  (∀ (s : State) (q : Req) (p : Nat) (m : BitVec 32), p < 8 → WriteAllowed s q (0x2110 + p) 2 m.toNat = true →
    s.claimedElsewhere p m = false → m &&& s.test.excluded = 0#32 → (s.part p).regions &&& ~~~m = 0#32 →
    ∃ t, exec (.partitionClaimWrite q p m) s = .next t ∧ (t.part p).claim = m ∧ t.reply q.owner = .done ∧
      (∀ j, j ≠ p → t.part j = s.part j) ∧ OnlyTouches (.belfry :: .parts :: answerAreas) s t) ∧
  (∀ (s : State) (q : Req) (p : Nat) (m : BitVec 32), p < 8 → WriteAllowed s q (0x2110 + p) 2 m.toNat = true →
    s.claimedElsewhere p m = true →
    ∃ t, exec (.partitionClaimWrite q p m) s = .next t ∧ t.reply q.owner = .abort 0x06090030 ∧
      OnlyTouches (.belfry :: answerAreas) s t) ∧
  (∀ (s : State) (q : Req) (n p f : Nat), CommandTaken s q 0x2E21 n [(3, p), (4, f)] = true → s.serving = true →
    (s.part p).committed = true → (s.part p).status ≠ .armed → (s.part p).status ≠ .suspended →
    (∀ r ∈ s.partRegions p, (s.region r).fenced = false ∧ (s.region r).halted = false) →
    ((s.part p).tables = false ∨ (s.served q).frameBegun p f = false) →
    ∃ t, exec (.partitionReset q n p f) s = .next t ∧ t.busyFor 0x2E21 q.owner ∧
      (∀ r ∈ s.partRegions p, (t.region r).inReset = true ∧ (t.region r).safeBlocks = 0#64) ∧
      (t.part p).resetAt = some (if (s.part p).tables = true then
        (if f = 0 then nextMultiple ((s.served q).now + 40000) (2 ^ (s.part p).k) else f * 2 ^ (s.part p).k)
        else (s.served q).now + 5) ∧
      (t.part p).status = (s.part p).status ∧ t.mem = s.mem ∧ t.slices.im = s.slices.im ∧ t.slices.cm = s.slices.cm ∧
      (∀ r, r ∉ s.partRegions p → t.region r = s.region r) ∧ (∀ j, j ≠ p → t.part j = s.part j)) ∧
  (∀ (s : State) (p due o : Nat), (s.part p).resetAt = some due → (s.part p).resetCmd = true →
    (s.cmd 0x2E21).busy = some o → s.inject.armed = [] →
    ∃ t, exec (.partitionResetRelease p) s = .next t ∧ (t.part p).resetAt = none ∧ t.status 0x2E21 o = 0 ∧
      (t.cmd 0x2E21).busy = none ∧
      (∀ r ∈ s.partRegions p, (t.region r).fenced = (s.region r).fenced ∧
        ((s.region r).fenced = false → (s.region r).halted = false →
          let u := (s.toChip.upTo due).upTo (if (s.part p).tables then due else (s.toChip.upTo due).secondEdge r due)
          (t.region r).inReset = false ∧ (t.region r).released = u.isle r ∧ (t.region r).divStart = u.isle r) ∧
        ((s.region r).halted = true → t.region r = { s.region r with relDue := true }) ∧
        ((s.region r).fenced = true → (s.region r).halted = false → t.region r = s.region r)) ∧
      (∀ r, r ∉ s.partRegions p → t.region r = s.region r))

/-- Resets, links, port events and the mailbox of a host port (R303, R307, R317, R344, R345): every reset gives the port's
registers their reset values and disables its DMA channels; the hub's results for it are discarded; a link that goes down
is counted; events clear where 1 is written; a doorbell with a new value puts the mailbox into service. -/
def Obligations.PortResetsLinksAndDoorbells : Prop :=
  let idle := fun (s : State) (h : Nat) => (∀ l, s.loader.load = some l → l.source ≠ h + 1) ∧
    ∀ l ∈ s.loader.next, l.source ≠ h + 1
  let fresh := fun (s t : State) (h : Nat) => (t.port h).dma = [] ∧ (t.port h).windowBase = 0 ∧ (t.port h).mbox = {} ∧
    (t.port h).evEnable = 0#32 ∧ (t.port h).msix = [] ∧ (t.hub.queue = s.hub.queue.map fun q =>
      if q.src = 64 + h then { q with drop := true } else q) ∧ t.dev.st = s.dev.st ∧
    (∀ j, j ≠ h → (t.port j).dma = (s.port j).dma ∧ (t.port j).mbox = (s.port j).mbox)
  (∀ (s : State) (h : Nat), h < 4 → idle s h →
    ∃ t, exec (.fundamentalReset h) s = .next t ∧ fresh s t h ∧ (t.port h).link = (s.port h).link ∧
      (t.port h).events = 0#32 ∧ OnlyTouches [.ports, .hub, .loader] s t) ∧
  (∀ (i : Nat → Instr), i ∈ [Instr.hotReset, Instr.functionLevelReset] → ∀ (s : State) (h : Nat), h < 4 → idle s h →
    ∃ t, exec (i h) s = .next t ∧ fresh s t h ∧ (t.port h).link = (s.port h).link ∧
      OnlyTouches (.hub :: .loader :: logAreas) s t) ∧
  (∀ (s : State) (h : Nat), h < 4 → idle s h → (s.port h).link ≠ 0 →
    ∃ t, exec (.pcieLinkDown h) s = .next t ∧ fresh s t h ∧ (t.port h).link = 0 ∧
      t.reg (0x2800 + h) 0x0B = sat32 (s.reg (0x2800 + h) 0x0B + 1) ∧
      OnlyTouches (.hub :: .loader :: logAreas) s t) ∧
  (∀ (s : State) (h v w : Nat), h < 4 → (s.port h).link ≠ 2 → s.hostOn = true → 1 ≤ v → v ≤ 5 → w ∈ [1, 2, 4, 8] →
    ∃ t, exec (.pcieLinkUp h v w) s = .next t ∧ (t.port h).link = 2 ∧ (t.port h).speed = v ∧ (t.port h).width = w ∧
      (t.port h).dma = (s.port h).dma ∧ OnlyTouches logAreas s t) ∧
  (∀ (s : State) (h : Nat) (m : BitVec 32), s.hostOn = true →
    ∃ t, exec (.portEventClear h m) s = .next t ∧ (t.port h).events = (s.port h).events &&& ~~~m ∧
      (t.port h).mbox = (s.port h).mbox ∧ (∀ j, j ≠ h → t.port j = s.port j) ∧ OnlyTouches [.ports] s t) ∧
  (∀ (s : State) (h t0 : Nat) (v : BitVec 32), s.dictAlive = true → s.hostOn = true →
    ∃ t, exec (.mailboxDoorbell h v t0) s = .next t ∧ (∀ j, j ≠ h → t.port j = s.port j) ∧
      OnlyTouches [.belfry, .ports] s t ∧
      (if (s.port h).mbox.inService then (t.port h).mbox.ignored = sat32 ((s.port h).mbox.ignored + 1) ∧
        (t.port h).mbox.doorbell = (s.port h).mbox.doorbell
      else if v = (s.port h).mbox.doorbell then t.port h = s.port h
      else (t.port h).mbox.doorbell = v ∧
        (if (s.port h).mbox.headerError = 0 then (t.port h).mbox.inService = true ∧
          (t.port h).mbox.respSeq = (s.port h).mbox.respSeq
        else (t.port h).mbox.inService = false ∧ (t.port h).mbox.respSeq = v)))

/-- DMA channels and BAR2 (R308, R309, R311 to R314): enable, disable and resume; the doorbell's three cases of R313; a
descriptor whose addresses the port may reach moves exactly its bytes, and its end writes the result back, advances C and
sends the vector; a BAR2 access moves its bytes at the window base. -/
def Obligations.DmaAndBar2MoveBytes : Prop :=
  let only := fun (s t : State) (h c : Nat) => OnlyTouches [.ports] s t ∧ (∀ j, j ≠ h → t.port j = s.port j) ∧
    (∀ k, k ≠ c → t.dma h k = s.dma h k)
  let reach := fun (s : State) (h a n : Nat) (w : Bool) => s.inject.armed = [] ∧ s.hubServes = true ∧
    s.dev.dramOk = true ∧ s.closedChannel a = false ∧ ∀ x, a / 64 * 64 ≤ x → x < a + n →
      s.cupolaCode (h + 1) x w w = 0 ∧ (s.channel (s.hubChannel x)).underTest = false ∧ x / 64 ∉ s.hub.badLines ∧
      s.protAt x = s.protAt (x / 64 * 64)
  let plain := fun (s : State) (a n : Nat) => ∀ x rr, a / 64 * 64 ≤ x → x < a + n → s.protAt x = some rr → s.protMode rr < 2
  let runs := fun (s : State) => s.hostOn = true ∧ s.dev.st ≠ .safe
  let stored := fun (s t : State) (a n : Nat) (d : Bytes) => (∀ i, i < n → t.dramByte (a + i) = d.getD i 0#8) ∧
    ∀ x, x < a ∨ a + n ≤ x → t.dramByte x = s.dramByte x
  (∀ (s : State) (h c v : Nat) (w : BitVec 32) (o n : Nat) (d e : Bytes) (i : Instr), s.hostOn = false →
    i ∈ [Instr.dmaEnable h c v, .dmaDisable h c, .dmaResume h c, .dmaDoorbell h c w, .dmaDescriptorStart h c d e,
      .dmaDescriptorFinish h c, .bar2Read h o n, .bar2Write h o d] → exec i s = .next s) ∧
  (∀ (s : State) (h c v : Nat), s.hostOn = true → (s.dma h c).enable = false →
    ∃ t, exec (.dmaEnable h c v) s = .next t ∧ only s t h c ∧ (t.dma h c).enable = true ∧ (t.dma h c).p = 0#32 ∧
      (t.dma h c).c = 0#32 ∧ (t.dma h c).vector = some v ∧
      (t.dma h c).st = if 4 ≤ (s.dma h c).size % 32 ∧ (s.dma h c).size % 32 ≤ 16 then 1 else 5) ∧
  (∀ (s : State) (h c : Nat), s.hostOn = true → ∃ t, exec (.dmaDisable h c) s = .next t ∧ only s t h c ∧ (t.dma h c).enable = false ∧
    (t.dma h c).cur = (s.dma h c).cur ∧ (t.dma h c).st = if (s.dma h c).cur.isSome then (s.dma h c).st else 0) ∧
  (∀ (s : State) (h c : Nat), s.hostOn = true → ((s.dma h c).st = 3 ∨ (s.dma h c).st = 4 ∧ s.dev.st ≠ .safe) →
    (s.dma h c).enable = true →
    ∃ t, exec (.dmaResume h c) s = .next t ∧ only s t h c ∧
      t.dma h c = { s.dma h c with st := if (s.dma h c).p = (s.dma h c).c then 1 else 2 }) ∧
  (∀ (s : State) (h c : Nat) (v : BitVec 32), h < 4 → c < 16 → s.hostOn = true → (s.dma h c).enable = true →
    s.isArmed 0x2DA0 3 (h * 16 + c) = false →
    ∃ t, exec (.dmaDoorbell h c v) s = .next t ∧ OnlyTouches logAreas s t ∧ (t.dma h c).c = (s.dma h c).c ∧
      (if 2 ^ ((s.dma h c).size % 32) < (v - (s.dma h c).c).toNat then (t.dma h c).st = 3 ∧ (t.dma h c).p = (s.dma h c).p
      else if ((s.dma h c).p - (s.dma h c).c).toNat ≤ (v - (s.dma h c).c).toNat then (t.dma h c).p = v
      else t.dma h c = s.dma h c ∧ t.reg (0x2800 + h) 9 = sat32 (s.reg (0x2800 + h) 9 + 1))) ∧
  (∀ (s : State) (h c : Nat) (desc data : Bytes), runs s → (s.dma h c).st = 2 → (s.dma h c).cur = none → descOk desc = true →
    bit (descFlags desc) 0 = false → descLen desc ≤ data.length → reach s h (descHub desc) (descLen desc) true →
    ∃ t, exec (.dmaDescriptorStart h c desc data) s = .next t ∧
      (t.dma h c).cur = some (bit (descFlags desc) 1, 0, descLen desc) ∧
      (plain s (descHub desc) (descLen desc) → stored s t (descHub desc) (descLen desc) data) ∧
      (t.dma h c).c = (s.dma h c).c) ∧
  (∀ (s : State) (h c : Nat) (desc data : Bytes), runs s → (s.dma h c).st = 2 → (s.dma h c).cur = none → descOk desc = true →
    bit (descFlags desc) 0 = true → reach s h (descHub desc) (descLen desc) false →
    ∃ t, exec (.dmaDescriptorStart h c desc data) s = .next t ∧
      (t.dma h c).cur = some (bit (descFlags desc) 1, 0, descLen desc) ∧ (t.dma h c).out.length = descLen desc ∧
      (plain s (descHub desc) (descLen desc) → t.hub = s.hub ∧
        (t.dma h c).out = s.dramBytes (descHub desc) (descLen desc))) ∧
  (∀ (s : State) (h c n : Nat) (i : Bool), s.hostOn = true → (s.dma h c).cur = some (i, 0, n) → (s.dma h c).enable = true →
    ∃ t, exec (.dmaDescriptorFinish h c) s = .next t ∧ OnlyTouches [.ports] s t ∧ (t.dma h c).cur = none ∧
      (t.dma h c).c = (s.dma h c).c + 1#32 ∧ (t.dma h c).back = some (0x80000000#32, n) ∧
      (t.dma h c).st = (if (s.dma h c).p = (s.dma h c).c + 1#32 then 1 else 2) ∧
      (i = false → (t.port h).sent = (s.port h).sent ∧ (t.port h).pba = (s.port h).pba) ∧
      (∀ j, j ≠ h → t.port j = s.port j)) ∧
  (∀ (s : State) (h c n e : Nat) (i : Bool), h < 4 → s.hostOn = true → e ≠ 0 → (s.dma h c).cur = some (i, e, n) →
    ∃ t, exec (.dmaDescriptorFinish h c) s = .next t ∧ (t.dma h c).st = 3 ∧ (t.dma h c).err = e ∧
      (t.dma h c).c = (s.dma h c).c + 1#32 ∧ t.reg (0x2800 + h) 0x0A = sat32 (s.reg (0x2800 + h) 0x0A + 1) ∧
      OnlyTouches logAreas s t) ∧
  (∀ (s : State) (h o n : Nat), s.hostOn = true → s.inBar2 h o n = true → reach s h ((s.port h).windowBase + o) n false →
    ∃ t, exec (.bar2Read h o n) s = .next t ∧ (t.port h).cpl = 0 ∧ (t.port h).data.length = n ∧
      (plain s ((s.port h).windowBase + o) n → t.hub = s.hub ∧
        (t.port h).data = s.dramBytes ((s.port h).windowBase + o) n)) ∧
  (∀ (s : State) (h o : Nat) (d : Bytes), s.hostOn = true → s.inBar2 h o d.length = true →
    reach s h ((s.port h).windowBase + o) d.length true → plain s ((s.port h).windowBase + o) d.length →
    ∃ t, exec (.bar2Write h o d) s = .next t ∧ stored s t ((s.port h).windowBase + o) d.length d) ∧
  (∀ (s : State) (h o : Nat) (d : Bytes), s.hostOn = true → s.inBar2 h o d.length = true →
    reach s h ((s.port h).windowBase + o) d.length true →
    ∃ t, exec (.bar2Write h o d) s = .next t ∧ t.reg (0x2800 + h) 6 = s.reg (0x2800 + h) 6 ∧
      (t.port h).cpl = (s.port h).cpl ∧ (t.port h).dma = (s.port h).dma) ∧
  (∀ (s : State) (h o n : Nat), h < 4 → s.hostOn = true → s.inBar2 h o n = true → s.hubServes = true →
    s.dev.dramOk = false →
    ∃ t, exec (.bar2Read h o n) s = .next t ∧ (t.port h).cpl = 2 ∧ t.reg (0x2800 + h) 7 = 7 ∧
      t.reg (0x2800 + h) 8 = (s.port h).windowBase + o ∧
      t.reg (0x2800 + h) 6 = sat32 (s.reg (0x2800 + h) 6 + 1) ∧ OnlyTouches [.ports, .dict] s t)

/-! ### Chapters 12 and 13: the field network and the dictionary -/

/-- AL states, the watchdog of SM2, the cyclic unit and the links (R320, R323, R328, R330, R331, R349): a request that the
device state, the standard and the settings allow is performed; any other leaves the state and shows its code; INIT ends
the open transfers; in BOOT a higher state is held. -/
def Obligations.AlStatesAndLinks : Prop :=
  (∀ (s : State) (n : Nat) (st : Al), s.ecatOn = true → alOfCode n = some st → st ≠ .init →
    (s.dev.st = .boot → s.dev.recovery = true) → s.alRefusal st = none →
    ∃ t, exec (.alStateRequest n) s = .next t ∧ t.ecat.al = st ∧ t.ecat.code = 0 ∧ OnlyTouches logAreas s t) ∧
  (∀ (s : State) (n c : Nat) (st : Al), s.ecatOn = true → alOfCode n = some st → st ≠ .init →
    (s.dev.st = .boot → s.dev.recovery = true) → s.alRefusal st = some c →
    ∃ t, exec (.alStateRequest n) s = .next t ∧ t.ecat = { s.ecat with code := c } ∧ OnlyTouches [.ecat] s t) ∧
  (∀ (s : State) (n : Nat), s.ecatOn = true → alOfCode n = none →
    ∃ t, exec (.alStateRequest n) s = .next t ∧ t.ecat = { s.ecat with code := 0x0011 } ∧ OnlyTouches [.ecat] s t) ∧
  (∀ s : State, s.ecatOn = true →
    ∃ t, exec (.alStateRequest 1) s = .next t ∧ t.ecat.al = .init ∧ t.ecat.code = 0 ∧ t.ecat.foe = 0 ∧
      t.segmentOf 5 = none) ∧
  (∀ (s : State) (n : Nat) (st : Al), s.ecatOn = true → alOfCode n = some st → st ≠ .init → s.dev.st = .boot →
    s.dev.recovery = false →
    ∃ t, exec (.alStateRequest n) s = .next t ∧ t.ecat = { s.ecat with held := some n } ∧ OnlyTouches [.ecat] s t) ∧
  (∀ s : State, s.ecat.al = .op →
    ∃ t, exec .smWatchdogExpiry s = .next t ∧ t.ecat.al = .safeop ∧ t.ecat.code = 0x001B ∧
      t.reg 0x2010 8 = sat32 (s.reg 0x2010 8 + 1) ∧ t.ecat.applied = s.ecat.applied ∧ OnlyTouches logAreas s t) ∧
  (∀ (s : State) (m : BitVec 8) (c0 st c1 : Nat), s.ecatOn = true →
    ∃ t, exec (.syncActivation m c0 st c1) s = .next t ∧
      t.ecat.syncActive = (m.getLsbD 0 && m.getLsbD 1 && decide (12500 ≤ c0)) ∧ t.ecat.cycle0 = c0 ∧ t.ecat.start0 = st ∧
      t.ecat.cycle1 = c1 ∧ t.ecat.al = s.ecat.al ∧ OnlyTouches [.ecat] s t) ∧
  (∀ (s : State) (p : Nat), p < 2 → s.ecatOn = true → s.ecat.link.getLsbD p = true →
    ∃ t, exec (.ecatLinkLost p) s = .next t ∧ t.ecat.link.getLsbD p = false ∧
      t.ecat.link.getLsbD (1 - p) = s.ecat.link.getLsbD (1 - p) ∧ t.ecat.al = s.ecat.al ∧ OnlyTouches logAreas s t) ∧
  (∀ (s : State) (p : Nat), p < 2 → s.ecatOn = true → s.ecat.link.getLsbD p = false →
    ∃ t, exec (.ecatLinkUp p) s = .next t ∧ t.ecat.link.getLsbD p = true ∧
      t.ecat.link.getLsbD (1 - p) = s.ecat.link.getLsbD (1 - p) ∧ t.ecat.al = s.ecat.al ∧ OnlyTouches logAreas s t)

/-- Process data (R324 to R329): E takes the last SM2 buffer and plans each partition's edge; at that edge the partition's
outputs take effect together; E of mode 2 without a new buffer is a miss, and at the limit OP falls to SAFEOP; inputs are
latched per partition, and SM3 reads what was latched. -/
def Obligations.ProcessDataMovesAtItsEvents : Prop :=
  let calm := fun (s : State) => s.ecat.al = .op ∧ s.isArmed 0x2DB0 3 0 = false
  (∀ (s : State) (l : List (BitVec 32)) (t0 : Nat), calm s → s.reg 0x1C32 1 ≠ 2 →
    ∃ t, exec (.sm2BufferWrite l t0) s = .next t ∧ t.ecat.sm2 = s.sm2Words l ∧ t.ecat.taken = s.sm2Words l ∧
      t.ecat.ev = t0 ∧ t.ecat.misses = 0 ∧ t.ecat.al = .op ∧
      (∀ p ∈ s.committedParts, Tab.get 0 t.ecat.applyDue p = s.applyEdge p t0) ∧
      OnlyTouches [.belfry, .ecat, .dict] s t) ∧
  (∀ (s : State) (l : List (BitVec 32)) (t0 : Nat), s.pdRuns = true → s.reg 0x1C32 1 = 2 →
    ∃ t, exec (.sm2BufferWrite l t0) s = .next t ∧ t.ecat = { s.ecat with sm2 := s.sm2Words l, sm2New := true } ∧
      OnlyTouches [.belfry, .ecat] s t) ∧
  (∀ (s : State) (t0 : Nat), calm s → s.ecatOn = true → s.ecat.syncActive = true → s.reg 0x1C32 1 = 2 →
    s.ecat.sm2New = true →
    ∃ t, exec (.sync0Event t0) s = .next t ∧ t.ecat.taken = s.ecat.sm2 ∧ t.ecat.ev = t0 ∧ t.ecat.sm2New = false ∧
      t.ecat.misses = 0 ∧ t.reg 0x1C32 2 = s.ecat.cycle0 ∧
      (∀ p ∈ s.committedParts, Tab.get 0 t.ecat.applyDue p = s.applyEdge p t0) ∧
      OnlyTouches [.belfry, .ecat, .dict] s t) ∧
  (∀ (s : State) (t0 : Nat), calm s → s.ecatOn = true → s.ecat.syncActive = true → s.reg 0x1C32 1 = 2 →
    s.ecat.sm2New = false →
    ∃ t, exec (.sync0Event t0) s = .next t ∧ t.ecat.misses = s.ecat.misses + 1 ∧ t.ecat.taken = s.ecat.taken ∧
      t.reg 0x1C32 0x0B = min 0xFFFF (s.reg 0x1C32 0x0B + 1) ∧
      (if s.reg 0x10F1 2 ≤ s.ecat.misses + 1 then t.ecat.al = .safeop ∧ t.ecat.code = 0x001A else t.ecat.al = .op)) ∧
  (∀ (s : State) (p due : Nat), (s.ecat.applyDue.find? fun (x : Nat × Nat) => x.1 == p) = some (p, due) →
    s.ecat.al = .op → (s.part p).pdFrozen = false → s.dev.st ≠ .safe →
    ∃ t, exec (.processOutputApply p) s = .next t ∧ t.now = (s.toChip.upTo due).now ∧ Tab.get 0 t.ecat.pdNew p = due ∧
      (∀ w, Tab.get 0#32 t.ecat.applied w =
        if w ∈ s.outWords p then Tab.get 0#32 s.ecat.taken w else Tab.get 0#32 s.ecat.applied w) ∧
      OnlyTouches [.belfry, .ecat] s t) ∧
  (∀ (s : State) (p due : Nat), (s.ecat.applyDue.find? fun (x : Nat × Nat) => x.1 == p) = some (p, due) →
    (s.ecat.al ≠ .op ∨ (s.part p).pdFrozen = true ∨ s.dev.st = .safe) →
    ∃ t, exec (.processOutputApply p) s = .next t ∧ t.ecat.applied = s.ecat.applied ∧ OnlyTouches [.belfry, .ecat] s t) ∧
  (∀ (s : State) (p due : Nat), (s.ecat.latchDue.find? fun (x : Nat × Nat) => x.1 == p) = some (p, due) →
    s.pdRuns = true → (s.part p).pdFrozen = false → s.dev.st ≠ .safe → (s.part p).committed = true →
    ∃ t, exec (.processInputLatch p) s = .next t ∧ Tab.get 0 t.ecat.pdLatch p = due ∧
      (∀ w, Tab.get 0#32 t.ecat.latched w = if w ∈ s.inWords p then
        (if (s.part p).tables then s.ecat.inputAt w (due / 2 ^ (s.part p).k) else Tab.get 0#32 s.ecat.inputs w)
        else Tab.get 0#32 s.ecat.latched w) ∧ OnlyTouches [.belfry, .ecat] s t) ∧
  (∀ (s : State) (r w p t0 : Nat) (v : BitVec 32), s.regionPart r = some p → s.fabricRuns r = true →
    (s.region r).pdIn.getLsbD w = true →
    ∃ t, exec (.pdInputWrite r w v t0) s = .next t ∧
      (∀ j, Tab.get 0#32 t.ecat.inputs j = if j = w then v else Tab.get 0#32 s.ecat.inputs j) ∧
      t.ecat.latched = s.ecat.latched ∧ OnlyTouches [.belfry, .ecat] s t) ∧
  (∀ (s : State) (r w p t0 : Nat) (v : BitVec 32), s.regionPart r = some p → (s.region r).pdIn.getLsbD w = false →
    ∃ t, exec (.pdInputWrite r w v t0) s = .next t ∧ OnlyTouches [.belfry] s t) ∧
  (∀ (s : State) (t0 : Nat), s.pdRuns = true → (s.reg 0x1C32 1 ≠ 0 ∨ s.reg 0x1C12 0 ≠ 0) →
    ∃ t, exec (.sm3BufferRead t0) s = .next t ∧ t.ecat.sm3 = (s.toChip.upTo t0).sm3Words ∧
      OnlyTouches [.belfry, .ecat] s t)

/-- The EtherCAT mailbox, FoE and SII (R333 to R335, R349, R354, R374, R416 to R419, R428): a repeat is not served twice;
the last response is placed again; a read frees SM1 for what waits; FoE writes begin where the right and the state permit,
and packets count up from 1; SII words 4 and 7 are written in INIT only. -/
def Obligations.FieldMailboxFoeAndSii : Prop :=
  let open_ := fun (s : State) (t0 : Nat) => (s.toChip.upTo t0).foeOn = true ∧ s.ecat.foe = 0 ∧ s.ecat.al ≠ .bootstrap
  (∀ (s : State) (c : Nat) (d : Bytes), s.mailboxOn = true → s.isArmed 0x2DB0 4 0 = false →
    (c = 0 ∨ c ≠ s.ecat.lastCounter) →
    ∃ t, exec (.mailboxWrite c d) s = .next t ∧ t.ecat = { s.ecat with lastCounter := c, sm0 := d } ∧
      OnlyTouches [.ecat] s t) ∧
  (∀ (s : State) (d : Bytes), s.mailboxOn = true → s.isArmed 0x2DB0 4 0 = false → s.ecat.lastCounter ≠ 0 →
    ∃ t, exec (.mailboxWrite s.ecat.lastCounter d) s = .next t ∧ t.reg 0x2010 6 = sat32 (s.reg 0x2010 6 + 1) ∧
      OnlyTouches [.dict] s t) ∧
  (∀ (s : State) (m : Nat × Bytes), s.mailboxOn = true → s.ecat.lastResp = some m →
    ∃ t, exec .mailboxRepeatRequest s = .next t ∧ t.ecat.sm1.head? = some m ∧
      t.ecat.respCounter = s.ecat.respCounter ∧ OnlyTouches [.ecat] s t) ∧
  (∀ (s : State) (m x : Nat × Bytes) (l : List (Nat × Bytes)), s.mailboxOn = true → s.ecat.sm1 = m :: x :: l →
    ∃ t, exec .sm1MailboxRead s = .next t ∧ t.ecat.sm1 = x :: l ∧ t.ecat.emergencies = s.ecat.emergencies ∧
      OnlyTouches [.ecat] s t) ∧
  (∀ (s : State) (m : Nat × Bytes) (e : Bytes) (l : List Bytes), s.mailboxOn = true → s.ecat.sm1 = [m] →
    s.ecat.emergencies = e :: l →
    ∃ t, exec .sm1MailboxRead s = .next t ∧ t.ecat.sm1.map (·.2) = [e] ∧ t.ecat.emergencies = l ∧
      OnlyTouches [.ecat] s t) ∧
  (∀ (s : State) (t0 : Nat), open_ s t0 → s.hasStream 5 = true → s.test.st ≠ 1 → s.loader.load = none →
    ∃ t, exec (.foeWriteStream t0) s = .next t ∧ t.ecat.foe = 1 ∧ t.ecat.foePacket = 1 ∧ t.ecat.foeReply = 0 ∧
      t.loader.load.map (·.source) = some 5 ∧ OnlyTouches [.belfry, .ecat, .loader, .dict] s t) ∧
  (∀ (s : State) (t0 : Nat), open_ s t0 → s.hasStream 5 = false →
    ∃ t, exec (.foeWriteStream t0) s = .next t ∧ t.ecat = { s.ecat with foeReply := 0x8002 } ∧
      OnlyTouches [.belfry, .ecat] s t) ∧
  (∀ (s : State) (t0 : Nat), open_ s t0 → s.hasControl 5 = true → s.lantern.op = none → s.lanternServes = true →
    s.imageConfirmed = true →
    ∃ t, exec (.foeWriteFirmware t0) s = .next t ∧ t.ecat.foe = 2 ∧ t.ecat.foePacket = 1 ∧ t.ecat.foeReply = 0 ∧
      t.lantern.op.isSome = true ∧ OnlyTouches [.belfry, .ecat, .lantern] s t) ∧
  (∀ s : State, s.foeOn = true → s.ecat.foe = 0 → s.lanternServes = true →
    ∃ t, exec .foeReadLog s = .next t ∧ t.ecat.foeReply = 0 ∧ t.log = s.log ∧
      t.ecat.foeData = (s.log.ring ++ s.log.recent.drop (s.log.recent.length - s.log.pending)).flatMap LogEntry.bytes ∧
      OnlyTouches [.ecat] s t) ∧
  (∀ (s : State) (k n : Nat) (last : Bool), s.ecat.foe ≠ 0 → k ≠ 0 → s.ecat.foePacket = k → s.ecat.foeLast = false →
    ∃ t, exec (.foeDataPacket k n last) s = .next t ∧ t.ecat.foePacket = k + 1 ∧ t.ecat.foeBytes = s.ecat.foeBytes + n ∧
      t.ecat.foeLast = last ∧ t.ecat.foeReply = 0 ∧ OnlyTouches [.ecat] s t) ∧
  (∀ (s : State) (k n : Nat) (last : Bool), s.ecat.foe ≠ 0 → s.ecat.foePacket ≠ 0 → k ≠ s.ecat.foePacket →
    ∃ t, exec (.foeDataPacket k n last) s = .next t ∧ t.ecat.foe = 0 ∧ t.ecat.foeReply = 0x8005) ∧
  (∀ (s : State) (w : Nat) (v : BitVec 16), s.ecatOn = true → s.dictAlive = true → s.lanternServes = true →
    ∃ t, exec (.siiWrite w v) s = .next t ∧ OnlyTouches [.ecat] s t ∧
      (if (w = 4 ∨ w = 7) ∧ s.ecat.al = .init then Mem.get t.ecat.sii w = v ∧ t.ecat.eepromError = false
      else t.ecat.sii = s.ecat.sii ∧ t.ecat.eepromError = true)) ∧
  (∀ (s : State) (w : Nat), s.ecatOn = true → s.dictAlive = true → s.lanternServes = true →
    ∃ t, exec (.siiRead w) s = .next t ∧ t.ecat.siiData = Mem.get s.ecat.sii w ∧ t.ecat.eepromBusy = false ∧
      t.ecat.sii = s.ecat.sii ∧ OnlyTouches [.ecat] s t)

/-- SDO transfers and register writes (R8, R305, R319, R336 to R339): a download of a plain number is stored and answered;
an object that does not exist aborts; a longer download opens a transfer whose last segment takes effect; an upload
answers with the value, or in segments; a wrong toggle bit or one idle second ends the transfer with its abort. -/
def Obligations.SdoTransfersServeTheDictionary : Prop :=
  let plain := fun (idx sub n : Nat) => 0x2600 ≤ idx ∧ idx < 0x2900 ∧ n ≠ 0 ∧
    (DictTable.find idx sub).map (fun e => e.ty.bytes) = some n
  let only := fun (s t : State) => OnlyTouches (.belfry :: answerAreas) s t
  (∀ (s : State) (q : Req) (idx sub n v : Nat), plain idx sub n → v < 256 ^ n → WriteAllowed s q idx sub v = true →
    ∃ t, exec (.sdoDownload q idx sub false (toBytes n v) n) s = .next t ∧ t.reg idx sub = v ∧ t.reply q.owner = .done ∧
      only s t) ∧
  (∀ (s : State) (q : Req) (idx sub : Nat) (d : Bytes), s.dictAlive = true → DictTable.hasObject idx = false →
    ∃ t, exec (.sdoDownload q idx sub false d d.length) s = .next t ∧ t.reply q.owner = .abort 0x06020000 ∧
      (∀ i j, t.reg i j = s.reg i j) ∧ only s t) ∧
  (∀ (s : State) (q : Req) (idx sub n : Nat) (d : Bytes), s.dictAlive = true → d.length < n → n ≤ 4096 →
    ∃ t, exec (.sdoDownload q idx sub false d n) s = .next t ∧ t.reply q.owner = .done ∧
      t.segmentOf q.owner = some { upload := false, idx := idx, sub := sub, complete := false, toggle := false,
                                   total := n, data := d } ∧
      (∀ i j, t.reg i j = s.reg i j) ∧ only s t) ∧
  (∀ (s : State) (q : Req) (g : Segment) (d : Bytes), s.dictAlive = true → s.segmentOf q.owner = some g →
    g.upload = false → (g.data ++ d).length ≤ g.total →
    ∃ t, exec (.sdoDownloadSegment q g.toggle false d) s = .next t ∧ t.reply q.owner = .done ∧
      t.segmentOf q.owner = some { g with toggle := !g.toggle, data := g.data ++ d } ∧
      (∀ i j, t.reg i j = s.reg i j) ∧ only s t) ∧
  (∀ (s : State) (q : Req) (g : Segment) (d : Bytes) (n v : Nat), s.segmentOf q.owner = some g → g.upload = false →
    g.complete = false → plain g.idx g.sub n → g.total = n → v < 256 ^ n → g.data ++ d = toBytes n v →
    WriteAllowed s q g.idx g.sub v = true →
    ∃ t, exec (.sdoDownloadSegment q g.toggle true d) s = .next t ∧ t.reply q.owner = .done ∧
      t.reg g.idx g.sub = v ∧ t.segmentOf q.owner = none ∧ only s t) ∧
  (∀ (s : State) (q : Req) (g : Segment) (x : Bool) (d : Bytes), s.dictAlive = true → s.segmentOf q.owner = some g →
    g.upload = false → x ≠ g.toggle →
    ∃ t, exec (.sdoDownloadSegment q x false d) s = .next t ∧ t.reply q.owner = .abort 0x05030000 ∧
      t.segmentOf q.owner = none ∧ (∀ i j, t.reg i j = s.reg i j) ∧ only s t) ∧
  (∀ (s : State) (q : Req) (idx sub n : Nat), (idx, sub) ∈ [(0x2600, 9), (0x2910, 3)] →
    (DictTable.find idx sub).map (fun e => e.ty.bytes) = some n → ReadAllowed s q idx sub = true →
    ∃ t, exec (.sdoUpload q idx sub false false) s = .next t ∧ t.reply q.owner = .data (toBytes n (s.reg idx sub)) ∧
      (∀ i j, t.reg i j = s.reg i j) ∧ only s t) ∧
  (∀ (s : State) (q : Req) (idx sub : Nat) (complete segmented : Bool) (c : Chip) (d : Bytes), s.dictAlive = true →
    (if complete then (s.served q).readWhole q.owner idx sub else (s.served q).readOne q.owner idx sub) = (c, .ok d) →
    ∃ t, exec (.sdoUpload q idx sub complete segmented) s = .next t ∧
      if segmented then t.reply q.owner = .data [] ∧
        t.segmentOf q.owner = some { upload := true, idx := idx, sub := sub, complete := complete, toggle := false,
                                     total := d.length, data := d }
      else t.reply q.owner = .data d ∧ t.segmentOf q.owner = c.segmentOf q.owner) ∧
  (∀ (s : State) (q : Req) (g : Segment), s.dictAlive = true → s.segmentOf q.owner = some g → g.upload = true →
    ∃ t, exec (.sdoUploadSegment q g.toggle) s = .next t ∧ only s t ∧
      t.reply q.owner = .data (g.data.take segmentBytes) ∧ t.segmentOf q.owner =
        (if g.data.length ≤ segmentBytes then none
        else some { g with toggle := !g.toggle, data := g.data.drop segmentBytes })) ∧
  (∀ (s : State) (o : Nat) (g : Segment), s.segmentOf o = some g →
    ∃ t, exec (.sdoTransferTimeout o) s = .next t ∧ t.reply o = .abort 0x05040000 ∧ t.segmentOf o = none ∧
      OnlyTouches answerAreas s t) ∧
  (∀ (s : State) (q : Req) (idx sub : Nat) (e : Entry), s.dictAlive = true → DictTable.hasObject idx = true →
    DictTable.find idx sub = some e →
    ∃ t, exec (.sdoInformation q idx sub) s = .next t ∧ t.reply q.owner = .info idx sub e.ty.coe e.acc.coe ∧ only s t) ∧
  (∀ (s : State) (q : Req) (idx sub n v : Nat), plain idx sub n → v < 256 ^ n → WriteAllowed s q idx sub v = true →
    ∃ t, exec (.registerWrite q (.dict idx sub) v) s = .next t ∧ t.reg idx sub = v ∧ t.reply q.owner = .done ∧
      only s t) ∧
  (∀ (s : State) (q : Req) (h v : Nat), s.hostOn = true →
    ∃ t, exec (.registerWrite q (.bar0 h 0x2804) v) s = .next t ∧
      (t.port h).evEnable = BitVec.ofNat 32 v &&& 0x1F#32 ∧ (t.port h).dma = (s.port h).dma ∧
      (∀ j, j ≠ h → t.port j = s.port j) ∧ OnlyTouches [.belfry, .ports] s t) ∧
  (∀ (s : State) (q : Req) (v : Nat), s.ecatOn = true →
    ∃ t, exec (.registerWrite q (.esc 0x10) v) s = .next t ∧ t.ecat = { s.ecat with station := v % 65536 } ∧
      OnlyTouches [.belfry, .ecat] s t)

/-! ### Chapter 13: configuration and commit -/

/-- A stream reaches the loader (R354, R355, R357, R360, R362, R372): the load command and the boot rule give the loader a
stream; its header passes and discards the staged streams that it replaces, or the load fails with the first code of the
header stage. -/
def Obligations.StreamsEnterTheLoader : Prop :=
  (∀ (s : State) (q : Req) (n a k : Nat), CommandTaken s q 0x2E22 n [(3, 1), (4, a), (5, k)] = true → 1 ≤ q.owner →
    q.owner ≤ 4 →
    ∃ t, exec (.loadFromHost q n a k) s = .next t ∧ t.busyFor 0x2E22 q.owner ∧
      (let l : Load := { source := q.owner, requester := q.owner, viaCommand := true }
      if s.loader.load = none then t.loader.load = some l ∧ t.loader.next = s.loader.next
      else t.loader.load = s.loader.load ∧ t.loader.next = s.loader.next ++ [l]) ∧
      OnlyTouches (.belfry :: .loader :: answerAreas) s t) ∧
  (∀ (s : State) (q : Req) (n a k : Nat), CommandTaken s q 0x2E22 n [(3, 1), (4, a), (5, k)] = true →
    (q.owner = 0 ∨ 4 < q.owner) →
    ∃ t, exec (.loadFromHost q n a k) s = .next t ∧ t.reg 0x2200 6 = 6 ∧ t.status 0x2E22 q.owner = 2 ∧
      t.loader = s.loader) ∧
  (∀ (s : State) (q : Req) (n a : Nat), CommandTaken s q 0x2E22 n [(3, 2), (4, a)] = true → s.loader.load = none →
    ∃ t, exec (.loadFromFlash q n a) s = .next t ∧ t.busyFor 0x2E22 q.owner ∧
      t.loader.load = some { source := 6, requester := q.owner, viaCommand := true } ∧ t.reg 0x2200 2 = 6 ∧
      OnlyTouches (.belfry :: .loader :: answerAreas) s t) ∧
  (∀ s : State, s.serving = true → s.dev.mode.toNat % 4 = 1 → s.loader.bootTried = 0 → s.test.st ≠ 1 →
    s.loader.injDir = false → s.loader.dir0 ≠ 0 → s.loader.load = none →
    ∃ t, exec .bootStreamLoad s = .next t ∧ t.loader.bootTried = 1 ∧
      t.loader.load = some { source := 6, requester := 7, boot := some 0 } ∧ OnlyTouches [.loader, .dict] s t) ∧
  (∀ (s : State) (h : StreamHeader) (l : Load), s.test.st ≠ 1 → s.loader.load = some l → l.hdr = none →
    s.headerCode l.requester h false = 0 →
    ∃ t, exec (.streamHeaderReceived h) s = .next t ∧ t.loader.load.map (·.hdr) = some (some h) ∧
      t.loader.load.map (·.received) = some 128 ∧ t.reg 0x2200 4 = h.length ∧
      t.loader.staged = (s.loader.staged.filter fun x => (x.parts &&& h.partMask) == 0#8) ∧
      (t.loader.load.map fun x : Load => x.keyTaken) = some (Tab.get {} s.lantern.keys h.keyId : KeySlot).key ∧
      t.reg 0x2040 6 = sat32 (s.reg 0x2040 6 + 1) ∧
      t.loader.active = s.loader.active ∧ OnlyTouches [.loader, .dict, .regions] s t) ∧
  (∀ (s : State) (h : StreamHeader) (l : Load) (c o : Nat), s.test.st ≠ 1 → s.loader.load = some l → l.hdr = none →
    s.headerCode l.requester h false = c → c ≠ 0 → s.loader.next = [] → l.viaCommand = true → l.boot = none →
    (s.cmd 0x2E22).busy = some o →
    ∃ t, exec (.streamHeaderReceived h) s = .next t ∧ t.loader.load = none ∧ t.reg 0x2200 6 = c ∧
      t.reg 0x2200 8 = sat32 (s.reg 0x2200 8 + 1) ∧ t.status 0x2E22 o = 2 ∧ t.loader.staged = s.loader.staged ∧
      (h.magic ≠ 0x534C4541#32 → c = 1) ∧ OnlyTouches (.loader :: logAreas) s t)

/-- Body commands (R353, R358, R359): frames and fills write the staging planes of the stream's regions, whose twins become
invalid; REGION, TABLE, CONTRACT and PDMAP make the staged records; END closes the body. Active planes stay as they are. -/
def Obligations.BodyCommandsFillTheStagingSide : Prop :=
  let body := fun (s : State) (h : StreamHeader) (l : Load) (n : Nat) => s.loader.load = some l ∧ l.hdr = some h ∧
    l.ended = false ∧ l.received + n ≤ h.length - 16 ∧ s.isArmed 0x2DC0 2 0 = false
  let got := fun (s t : State) (l : Load) (n : Nat) => t.loader.load.map (·.received) = some (l.received + n) ∧
    t.loader.load.map (·.content) = some l.content ∧ t.loader.active = s.loader.active ∧
    t.reg 0x2200 5 = l.received + n ∧ OnlyTouches [.loader, .dict] s t
  let span := fun (h : StreamHeader) (l : Load) (r lo n : Nat) => r < 32 ∧ (streamRegions h).getLsbD r = true ∧
    r * 34816 ≤ lo ∧ lo + n ≤ (r + 1) * 34816 ∧ 0 < n ∧ ∀ x ∈ l.spans, x.2 ≤ lo ∨ lo + n ≤ x.1
  let record := fun (t : State) (r : Nat) => t.loader.load.map fun l => Tab.get {} l.records r
  (∀ (s : State) (h : StreamHeader) (l : Load) (r lo : Nat) (a : BitVec 32) (f : List (BitVec 2048)) (c : List Setting),
    body s h l (8 + 256 * f.length) → frameOf a = some lo → span h l r lo f.length →
    ∃ t, exec (.frames a f c) s = .next t ∧ got s t l (8 + 256 * f.length) ∧
      (∀ i, i < f.length → runGet t.loader.staging (lo + i) = f.getD i 0#2048 ∧
        runGet t.loader.stagingRef (lo + i) = f.getD i 0#2048) ∧
      (∀ n, n < lo ∨ lo + f.length ≤ n → runGet t.loader.staging n = runGet s.loader.staging n) ∧
      t.loader.twinInvalid.getLsbD r = true ∧ t.loader.load.map (·.settings) = some (l.settings ++ c)) ∧
  (∀ (s : State) (h : StreamHeader) (l : Load) (r lo n : Nat) (a : BitVec 32) (f : BitVec 2048) (c : List Setting),
    body s h l 264 → frameOf a = some lo → span h l r lo n →
    ∃ t, exec (.fill a n f c) s = .next t ∧ got s t l 264 ∧
      (∀ i, runGet t.loader.staging i = if lo ≤ i ∧ i < lo + n then f else runGet s.loader.staging i) ∧
      t.loader.twinInvalid.getLsbD r = true) ∧
  (∀ (s : State) (h : StreamHeader) (l : Load) (r : Nat) (w : BitVec 32), body s h l 8 → r < 32 → r ∉ l.regioned →
    streamPart h r = some (field w.toNat 8 3) → w.toNat < 2 ^ 14 → 8 ≤ field w.toNat 0 8 → field w.toNat 0 8 ≤ 80 →
    ∃ t, exec (.region r w) s = .next t ∧ got s t l 8 ∧ (record t r).map (·.m) = some (field w.toNat 0 8) ∧
      (record t r).map (·.part) = some (field w.toNat 8 3) ∧ (record t r).map (·.port0) = some none ∧
      t.loader.staging = s.loader.staging) ∧
  (∀ (s : State) (h : StreamHeader) (l : Load) (r : Nat) (e : List (BitVec 64)), body s h l (8 + 8 * e.length) → r < 32 →
    r ∉ l.tabled → (streamRegions h).getLsbD r = true → 1 ≤ e.length → e.length ≤ 4096 →
    ∃ t, exec (.table r e) s = .next t ∧ got s t l (8 + 8 * e.length) ∧ (record t r).map (·.slots) = some e ∧
      t.loader.staging = s.loader.staging) ∧
  (∀ (s : State) (h : StreamHeader) (l : Load) (p k : Nat), body s h l 4 → p < 8 → 10 ≤ k → k ≤ 20 →
    h.partMask.getLsbD p = true → (∀ x ∈ l.ks, x.1 ≠ p) →
    ∃ t, exec (.contract p k) s = .next t ∧ got s t l 4 ∧
      (t.loader.load.map fun l => Tab.get 0 l.ks p) = some k ∧ t.loader.staging = s.loader.staging) ∧
  (∀ (s : State) (h : StreamHeader) (l : Load) (r : Nat) (o i : BitVec 256), body s h l 68 → r < 32 → r ∉ l.pdmapped →
    (streamRegions h).getLsbD r = true → s.wordConflict h r o i = false →
    ∃ t, exec (.pdmap r o i) s = .next t ∧ got s t l 68 ∧ (record t r).map (·.pdOut) = some o ∧
      (record t r).map (·.pdIn) = some i ∧ t.loader.staging = s.loader.staging) ∧
  (∀ (s : State) (h : StreamHeader) (l : Load), body s h l 4 →
    ∃ t, exec .streamEnd s = .next t ∧ got s t l 4 ∧ t.loader.load.map (·.ended) = some true ∧
      t.loader.staging = s.loader.staging) ∧
  (∀ (s : State) (h : StreamHeader) (l : Load), s.loader.load = some l → l.hdr = some h → l.ended = true →
    s.isArmed 0x2DC0 2 0 = false → l.content = 0 →
    ∃ t, exec .streamEnd s = .next t ∧ t.loader.load.map (·.content) = some 13 ∧ t.loader.staging = s.loader.staging)

/-- The verdict on a stream (R353, R360 to R362): with a good tag and no content failure it is staged with result 0; more
bytes than declared, a bad tag, a content failure or a short source fail it with codes 11, 12, 13 to 20 and 10; a twin
that is rebuilt equals the active plane of its region again. -/
def Obligations.StreamsAreStagedOrRefused : Prop :=
  let present := fun (s : State) (l : Load) (h : StreamHeader) (o : Nat) => s.loader.load = some l ∧ l.hdr = some h ∧
    s.isArmed 0x2DC0 1 0 = false ∧ s.loader.next = [] ∧ l.viaCommand = true ∧ l.boot = none ∧ l.requester ≠ 7 ∧
    (s.cmd 0x2E22).busy = some o
  let failed := fun (s t : State) (c o : Nat) => t.loader.load = none ∧ t.loader.staged = s.loader.staged ∧
    t.reg 0x2200 6 = c ∧ t.reg 0x2200 8 = sat32 (s.reg 0x2200 8 + 1) ∧ t.status 0x2E22 o = 2 ∧
    t.loader.active = s.loader.active ∧ OnlyTouches (.loader :: logAreas) s t
  let apart := fun (l : List FrameRun) => l.Pairwise fun x y => x.first + x.count ≤ y.first ∨ y.first + y.count ≤ x.first
  (∀ (s : State) (l : Load) (h : StreamHeader) (o : Nat), present s l h o → s.contentCode l h = 0 →
    ∃ t, exec (.streamTagCheck true 0) s = .next t ∧ t.loader.load = none ∧
      t.loader.staged = s.loader.staged ++ [l.staged h] ∧ t.reg 0x2200 6 = 0 ∧
      t.reg 0x2200 7 = sat32 (s.reg 0x2200 7 + 1) ∧ t.status 0x2E22 o = 0 ∧ (t.cmd 0x2E22).busy = none ∧
      t.loader.active = s.loader.active ∧ t.parts = s.parts) ∧
  (∀ (s : State) (l : Load) (h : StreamHeader) (o n : Nat) (ok : Bool), present s l h o → n ≠ 0 →
    ∃ t, exec (.streamTagCheck ok n) s = .next t ∧ failed s t 11 o) ∧
  (∀ (s : State) (l : Load) (h : StreamHeader) (o : Nat), present s l h o →
    ∃ t, exec (.streamTagCheck false 0) s = .next t ∧ failed s t 12 o) ∧
  (∀ (s : State) (l : Load) (h : StreamHeader) (o c : Nat), present s l h o → s.contentCode l h = c → c ≠ 0 →
    ∃ t, exec (.streamTagCheck true 0) s = .next t ∧ failed s t c o) ∧
  (∀ (s : State) (l : Load) (h : StreamHeader) (o : Nat), present s l h o →
    ∃ t, exec .streamCutShort s = .next t ∧ failed s t 10 o) ∧
  (∀ (s : State) (r : Nat), r < 32 → s.loader.rebuilding.getLsbD r = true → apart s.loader.active →
    (s.regionPart r = none ∨ s.loader.active = s.loader.activeRef) →
    ∃ t, exec (.twinRebuildEnd r) s = .next t ∧ t.loader.rebuilding.getLsbD r = false ∧
      t.loader.twinInvalid.getLsbD r = false ∧ t.loader.active = s.loader.active ∧
      (∀ n, r * 34816 ≤ n → n < (r + 1) * 34816 → runGet t.loader.staging n = runGet s.loader.active n) ∧
      (∀ n, n < r * 34816 ∨ (r + 1) * 34816 ≤ n → runGet t.loader.staging n = runGet s.loader.staging n) ∧
      OnlyTouches [.loader] s t)

/-- A commit from its serial to its release (R363 to R366, R368, R372): accepted, it is busy; its conditions give a commit
of mode 0 its instant; at t_c - 64 it freezes or ends with status 7; at t_c - 48 its regions enter reset and the active
planes take the staging values; at t_c its partitions hold the new configuration with the contract ARMED where there are
slot tables; at the release the fences end and it is done with status 0. -/
def Obligations.CommitsRunToTheirRelease : Prop :=
  let accepted := fun (s t : State) (q : Req) (m : BitVec 8) (mode : Nat) (tc : Option Nat) =>
    t.busyFor 0x2210 q.owner ∧ t.loader.commit.map (fun c => (c.mask, c.mode, c.owner, c.tc, c.phase)) =
      some (m, mode, q.owner, tc, 0) ∧ t.loader.staged = s.loader.staged ∧ t.loader.active = s.loader.active ∧
    OnlyTouches (.belfry :: .loader :: answerAreas) s t
  let apart := fun (l : List FrameRun) => l.Pairwise fun x y => x.first + x.count ≤ y.first ∨ y.first + y.count ≤ x.first
  (∀ (i : Req → Nat → BitVec 8 → Instr) (mode : Nat), (i, mode) ∈ [(Instr.commitNextBoundary, 0), (Instr.commitGate, 3)] →
    ∀ (s : State) (q : Req) (n : Nat) (m : BitVec 8),
    CommandTaken s q 0x2210 n [(2, m.toNat), (3, mode)] = true →
    (s.served q).commitRefusal q.owner m mode (s.reg 0x2210 4) = 0 →
    ∃ t, exec (i q n m) s = .next t ∧ accepted s t q m mode none) ∧
  (∀ (s : State) (q : Req) (n v : Nat) (m : BitVec 8), CommandTaken s q 0x2210 n [(2, m.toNat), (3, 1), (4, v)] = true →
    (s.served q).commitRefusal q.owner m 1 v = 0 →
    ∃ t, exec (.commitAtFrame q n m v) s = .next t ∧
      accepted s t q m 1 (some (v * 2 ^ kmax (s.commitStreams m)))) ∧
  (∀ (s : State) (q : Req) (n v : Nat) (m : BitVec 8), CommandTaken s q 0x2210 n [(2, m.toNat), (3, 2), (4, v)] = true →
    (s.served q).commitRefusal q.owner m 2 v = 0 →
    ∃ t, exec (.commitAtInstant q n m v) s = .next t ∧ accepted s t q m 2 (some v)) ∧
  (∀ (s : State) (q : Req) (c : Commit) (o : Nat), WriteAllowed s q 0x2211 1 1 = true → s.loader.commit = some c →
    s.mayCommit q.owner c.mask = true → c.phase = 0 → s.loader.bootWait = 0#8 → (s.cmd 0x2210).busy = some o →
    ∃ t, exec (.commitCancel q) s = .next t ∧ t.loader.commit = none ∧ t.status 0x2210 o = 6 ∧
      t.reply q.owner = .done ∧ t.loader.staged = s.loader.staged ∧
      OnlyTouches (.belfry :: .loader :: answerAreas) s t) ∧
  (∀ (s : State) (c : Commit), s.loader.commit = some c → (c.mode = 0 ∨ c.mode = 3) → c.phase = 0 → c.tc = none →
    s.commitReady c.mask = true →
    ∃ t, exec .commitConditionsMet s = .next t ∧ t.loader.commit = some { c with
      readyAt := some s.now
      tc := if c.mode = 0 then some (nextMultiple (s.now + 64) (2 ^ kmax (s.commitStreams c.mask))) else none } ∧
      OnlyTouches [.loader] s t) ∧
  (∀ (s : State) (c : Commit) (tc : Nat), s.loader.commit = some c → c.phase = 0 → c.tc = some tc →
    s.commitReady c.mask = true →
    ∃ t, exec .commitFreeze s = .next t ∧ t.now = max s.now (tc - 64) % 2 ^ 64 ∧ t.loader.commit.map (·.phase) = some 1 ∧
      t.loader.commit.map (·.staged) = some (s.commitStreams c.mask) ∧ OnlyTouches [.belfry, .loader] s t) ∧
  (∀ (s : State) (c : Commit) (tc o : Nat), s.loader.commit = some c → c.phase = 0 → c.tc = some tc →
    (c.mode = 1 ∨ c.mode = 2) → s.commitReady c.mask = false → s.loader.bootWait = 0#8 →
    (s.cmd 0x2210).busy = some o →
    ∃ t, exec .commitFreeze s = .next t ∧ t.loader.commit = none ∧ t.status 0x2210 o = 7 ∧
      t.loader.active = s.loader.active ∧ OnlyTouches (.belfry :: .loader :: logAreas) s t) ∧
  (∀ (s : State) (c : Commit) (tc : Nat), s.loader.commit = some c → c.phase = 1 → c.tc = some tc →
    apart s.loader.staging →
    ∃ t, exec .commitResetAssert s = .next t ∧ t.now = max s.now (tc - 48) % 2 ^ 64 ∧ t.loader.commit.map (·.phase) = some 2 ∧
      (∀ r, r < 32 → (c.regions ||| c.removed).getLsbD r = true → (t.region r).inReset = true) ∧
      (∀ r n, r < 32 → c.regions.getLsbD r = true → c.removed.getLsbD r = false → r * 34816 ≤ n → n < (r + 1) * 34816 →
        runGet t.loader.active n = runGet s.loader.staging n) ∧
      (∀ n, (∀ r, r < 32 → r * 34816 ≤ n → n < (r + 1) * 34816 → (c.regions ||| c.removed).getLsbD r = false) →
        runGet t.loader.active n = runGet s.loader.active n)) ∧
  (∀ (s : State) (c : Commit) (tc : Nat), s.loader.commit = some c → c.phase = 2 → c.tc = some tc →
    (c.staged.flatMap (·.section_)).Pairwise (fun a b => a.1 ≠ b.1 ∧ a.2.2.1 &&& b.2.2.1 = 0#32) →
    ∃ t, exec .commitInstant s = .next t ∧ t.now = max s.now tc % 2 ^ 64 ∧ t.reg 0x2210 5 = tc ∧
      t.loader.commit.map (·.phase) = some 3 ∧
      (∀ x ∈ c.staged, ∀ e ∈ x.section_, (t.part e.1).committed = true ∧ (t.part e.1).regions = e.2.2.1 ∧ (t.part e.1).k = e.2.2.2 ∧
        (t.part e.1).status = (if e.2.2.2 = 0 then .none else .armed) ∧
        ∀ r, r < 32 → e.2.2.1.getLsbD r = true → (t.region r).part = some e.1 ∧
          (t.region r).m = (Tab.get {} x.records r).m ∧ (t.region r).pdOut = (Tab.get {} x.records r).pdOut)) ∧
  (∀ (s : State) (c : Commit) (o : Nat), s.loader.commit = some c → c.phase = 3 → s.loader.bootWait = 0#8 →
    (s.cmd 0x2210).busy = some o → s.inject.armed = [] →
    ∃ t, exec .commitRelease s = .next t ∧ t.loader.commit = none ∧ t.status 0x2210 o = 0 ∧
      (∀ r, r < 32 → c.regions.getLsbD r = true → c.removed.getLsbD r = false → (t.region r).fenced = false ∧
        (t.region r).inReset = false ∧ (t.region r).released = (t.region r).divStart) ∧
      (∀ r, r < 32 → c.regions.getLsbD r = false → c.removed.getLsbD r = true → (t.region r).fenced = false ∧
        (t.region r).clearing = true ∧ (t.region r).m = 80) ∧
      (∀ r, r < 32 → (c.regions ||| c.removed).getLsbD r = false → t.region r = s.region r) ∧
      t.loader.active = s.loader.active)

/-- GATE (R369, R370, R380): the drive changes at count mod 65,536 = 32,768 and the line is sampled at 0; a high sample gives
a commit of mode 3 whose conditions hold its instant, at the first boundary 65,536 ticks later; the wait limit is logged
once. -/
def Obligations.GateStartsACommit : Prop :=
  let on := fun (s : State) => s.dictAlive = true ∧ s.powered 16 = true
  let grid := fun (n r t : Nat) => ∃ x, n ≤ x ∧ x % 65536 = r ∧ x < n + 65536 ∧ t = x % 2 ^ 64
  (∀ s : State, on s →
    ∃ t, exec .gateDriveChange s = .next t ∧ grid s.now 32768 t.now ∧ t.dev = { s.dev with gateDrive := s.holdsGate } ∧
      OnlyTouches [.belfry, .dev] s t) ∧
  (∀ (s : State) (v : Bool), on s → (∀ c, s.loader.commit = some c → c.mode ≠ 3) →
    ∃ t, exec (.gateSample v) s = .next t ∧ grid s.now 0 t.now ∧ t.dev.gateLevel = (v && !s.dev.gateDrive) ∧
      t.reg 0x2230 3 = (if v = true ∧ s.dev.gateDrive = false ∧ s.dev.gateLevel = false then t.now else s.reg 0x2230 3) ∧
      OnlyTouches [.belfry, .dev, .dict] s t) ∧
  (∀ (s : State) (c : Commit), on s → s.dev.gateDrive = false → s.loader.commit = some c → c.mode = 3 → c.phase = 0 →
    c.tc = none → s.commitReady c.mask = true →
    ∃ t, exec (.gateSample true) s = .next t ∧ grid s.now 0 t.now ∧
      t.loader.commit = some { c with
        tc := some (nextMultiple (t.now + 65536) (2 ^ kmax (s.commitStreams c.mask))) } ∧
      OnlyTouches [.belfry, .dev, .dict, .loader] s t) ∧
  (∀ (s : State) (c : Commit) (n : Nat), s.loader.commit = some c → c.mode = 3 → c.phase = 0 → c.tc = none →
    c.waitLogged = false → s.dev.gateLevel = false → s.commitReady c.mask = true → c.readyAt = some n →
    ∃ t, exec .gateWaitLimit s = .next t ∧ t.now = max s.now (n + s.reg 0x2230 4 * 1000000000) % 2 ^ 64 ∧
      t.loader.commit = some { c with waitLogged := true } ∧ OnlyTouches (.belfry :: .loader :: logAreas) s t)

/-! ### Chapter 14: Watchtower and self-test -/

/-- Readback (R384 to R388, R390 to R392): a clean frame is noted; a frame that changed is repaired from its twin, or by its
syndrome with its twin rewritten and the staged streams of its region discarded; a frame that no method repairs fences its
region and asks for a reload; the 65th mismatch of a pass leads to SAFE; a pass counts; a missed heartbeat leads to SAFE
unless Watchtower is paused. -/
def Obligations.ReadbackChecksAndRepairsFrames : Prop :=
  let reads := fun (s : State) (n : Nat) => s.watch.st = 0 ∧ s.watch.ptr = n ∧ s.watch.ptr2 = n ∧ s.watch.ptr3 = n ∧
    n < 1114112 ∧ (s.regionPart (n / 34816)).isSome = true ∧ s.inCommit (n / 34816) = false ∧ s.frameArmed n = false ∧
    runGet s.loader.active n = runGet s.loader.activeRef n ∧ (s.watch.stuck.find? fun x => x.1 == n) = none ∧
    n ∉ s.watch.bad ∧ ∀ x ∈ s.watch.repaired, x.1 ≠ n
  let next := fun (s t : State) (n : Nat) => t.watch.ptr = (n + 1) % 1114112 ∧ t.watch.ptr2 = t.watch.ptr ∧
    t.watch.ptr3 = t.watch.ptr ∧ t.loader.activeRef = s.loader.activeRef
  let others := fun (a b : List FrameRun) (n : Nat) => ∀ m, m ≠ n → runGet b m = runGet a m
  let repaired := fun (s t : State) (n sub : Nat) => next s t n ∧ runGet t.loader.active n = runGet s.loader.activeRef n ∧
    others s.loader.active t.loader.active n ∧ t.reg 0x2900 sub = sat32 (s.reg 0x2900 sub + 1) ∧
    t.reg 0x2900 9 = frameAddr n ∧ t.reg 0x2900 0x0A = s.now
  (∀ (s : State) (n : Nat), reads s n →
    ∃ t, exec (.frameCheck [] [] .clean) s = .next t ∧ next s t n ∧ t.watch.checked = s.watch.checked + 1 ∧
      Tab.get 0 t.watch.clean n = s.now ∧ t.watch.mismatches = s.watch.mismatches ∧ OnlyTouches [.watch] s t) ∧
  (∀ (s : State) (n k : Nat), reads s n →
    ∃ t, exec (.frameCheck [] [] (.single k)) s = .next t ∧ next s t n ∧
      t.reg 0x2900 0x0B = sat32 (s.reg 0x2900 0x0B + 1) ∧ t.loader = s.loader ∧ OnlyTouches [.watch, .dict] s t) ∧
  (∀ (s : State) (n : Nat) (l : List Nat), reads s n → l ≠ [] →
    sameCrc (flipAll (runGet s.loader.active n) l) (runGet s.loader.activeRef n) = false → s.twinValid n = true →
    runGet s.loader.staging n = runGet s.loader.activeRef n → s.watch.mismatches < 64 →
    ∃ t, exec (.frameCheck l [] .clean) s = .next t ∧ repaired s t n 5 ∧ t.loader.staging = s.loader.staging ∧
      t.loader.staged = s.loader.staged ∧ t.watch.mismatches = s.watch.mismatches + 1 ∧ t.watch.bad = s.watch.bad ∧
      OnlyTouches (.watch :: .loader :: logAreas) s t) ∧
  (∀ (s : State) (n k : Nat), reads s n → k < 2048 → s.twinValid n = true →
    sameCrc (flipAll (runGet s.loader.active n) [k]) (runGet s.loader.activeRef n) = false →
    sameCrc (runGet s.loader.staging n) (runGet s.loader.activeRef n) = false → s.watch.mismatches < 64 →
    ∃ t, exec (.frameCheck [k] [] .clean) s = .next t ∧ repaired s t n 6 ∧
      runGet t.loader.staging n = runGet s.loader.activeRef n ∧ others s.loader.staging t.loader.staging n ∧
      t.reg 0x2900 7 = sat32 (s.reg 0x2900 7 + 1) ∧
      t.loader.staged = (s.loader.staged.filter fun x => !x.regionMask.getLsbD (n / 34816)) ∧
      OnlyTouches (.watch :: .loader :: .regions :: logAreas) s t) ∧
  (∀ (s : State) (n a b c : Nat), reads s n → s.twinValid n = false → a < b → b < c → c < 2048 → s.watch.mismatches < 64 →
    sameCrc (flipAll (runGet s.loader.active n) [a, b, c]) (runGet s.loader.activeRef n) = false →
    ∃ t, exec (.frameCheck [a, b, c] [] .clean) s = .next t ∧ next s t n ∧ t.watch.bad = n :: s.watch.bad ∧
      (t.region (n / 34816)).fenced = true ∧ t.reg 0x2900 8 = sat32 (s.reg 0x2900 8 + 1) ∧
      (t.reg 0x2900 0x0C).testBit (n / 34816) = true ∧
      runGet t.loader.active n = flipAll (runGet s.loader.active n) [a, b, c]) ∧
  (∀ (s : State) (n k : Nat), reads s n → k < 2048 → s.twinValid n = true →
    runGet s.loader.staging n = runGet s.loader.activeRef n → s.watch.mismatches = 64 → s.serving = true →
    sameCrc (flipAll (runGet s.loader.active n) [k]) (runGet s.loader.activeRef n) = false →
    (∀ x, s.dev.decidedAt = some x → s.toChip.sameDecision (some x.1) = false) →
    ∃ t, exec (.frameCheck [k] [] .clean) s = .next t ∧ t.dev.st = .safe ∧ t.aon.faultCode = 0x40D00002 ∧
      t.dev.cause = 0x40D00002 ∧ t.dev.prev = s.dev.st) ∧
  (∀ (s : State) (us : Nat), s.watch.st = 0 → s.isArmed 0x2DD0 5 noFrame = false →
    ∃ t, exec (.passEnd us) s = .next t ∧ t.reg 0x2900 2 = sat32 (s.reg 0x2900 2 + 1) ∧ t.reg 0x2900 3 = us ∧
      t.reg 0x2900 4 = s.watch.checked ∧ t.watch.ptr = 0 ∧ t.watch.mismatches = 0 ∧ OnlyTouches [.watch, .dict] s t) ∧
  (∀ s : State, s.watch.st ≠ 1 → s.serving = true →
    ∃ t, exec .heartbeatMissed s = .next t ∧ t.dev.st = .safe ∧ t.aon.faultCode = 0x40D00001) ∧
  (∀ s : State, s.watch.st = 1 → exec .heartbeatMissed s = .next s)

/-- Voter and patrol scrub (R391, R393, R394): a copy of the pass pointer that disagrees is rewritten from the others,
counted and logged, and three that disagree stop Watchtower; scrub corrects a single flipped bit of a block memory word in
place and counts it; a starved sweep is counted and logged. -/
def Obligations.VoterAndScrubCorrect : Prop :=
  (∀ s : State, s.watch.ptr2 ≠ s.watch.ptr → s.watch.ptr3 = s.watch.ptr → s.isArmed 0x2DD0 6 noFrame = false →
    ∃ t, exec (.voterMismatch false) s = .next t ∧ t.watch = { s.watch with ptr2 := s.watch.ptr } ∧
      t.reg 0x2900 0x0B = sat32 (s.reg 0x2900 0x0B + 1) ∧ OnlyTouches (.watch :: logAreas) s t) ∧
  (∀ s : State, s.watch.ptr2 = s.watch.ptr → s.watch.ptr3 = s.watch.ptr →
    ∃ t, exec (.voterMismatch false) s = .next t ∧ t.reg 0x2900 0x0B = sat32 (s.reg 0x2900 0x0B + 1) ∧
      OnlyTouches logAreas s t) ∧
  (∀ s : State, ∃ t, exec (.voterMismatch true) s = .next t ∧ t.watch = { s.watch with st := 2 } ∧
    OnlyTouches [.watch] s t) ∧
  (∀ (s : State) (m : BmSel) (a n t0 : Nat), m.r < 32 → m.b < 64 → m.m < 8 → s.testHoldsAll = false →
    s.underTest (.bm m) = false → (s.toChip.upTo t0).bmMaintenance m = true → s.bmBypass (bmWordKey m a) = false →
    s.bmFlips (bmWordKey m a) = (0#40, false) → high8 (s.bmStored (bmWordKey m a)) = 0#8 →
    (∀ x, (s.bmState (bmKey m.r m.b m.m)).lastA = some x → x.addr ≠ a % 1024) →
    ∃ t, exec (.onChipScrubAccess (.bm m) a (.single n) t0) s = .next t ∧ t.bmFlips (bmWordKey m a) = (0#40, false) ∧
      (∀ k, t.bmStored k = s.bmStored k) ∧ (∀ k, t.bmFlips k = s.bmFlips k) ∧ t.mem.demandBm = s.mem.demandBm ∧
      t.reg (0x2500 + m.r) 0x14 = sat32 (s.reg (0x2500 + m.r) 0x14 + 1) ∧
      OnlyTouches (.belfry :: .mem :: logAreas) s t) ∧
  (∀ (s : State) (r k a t0 : Nat), r < 32 → s.testHoldsAll = false → s.underTest (.spBank r k) = false →
    (s.toChip.upTo t0).spMaintenance r k = true → (s.spFlips (spWordKey r (a % 4096 * 16 + k))).1 = 0#288 →
    ∃ t, exec (.onChipScrubAccess (.spBank r k) a .clean t0) s = .next t ∧ t.mem.sp = s.mem.sp ∧ t.mem.bm = s.mem.bm ∧
      (∀ j, (t.spFlips j).1 = (s.spFlips j).1) ∧ OnlyTouches [.belfry, .mem] s t) ∧
  (∀ (s : State) (r b a t0 : Nat), s.testHoldsAll = false → s.underTest (.cm r b) = false →
    ((s.toChip.upTo t0).settleGroup ⟨r, b⟩).gmMaintenance ⟨r, b⟩ 1 = true →
    (((s.toChip.upTo t0).settleGroup ⟨r, b⟩).gmErr ⟨r, b⟩ 1 (a % 16384)).1 = 0 →
    ∃ t, exec (.onChipScrubAccess (.cm r b) a .clean t0) s = .next t ∧
      t.slices.cm = ((s.toChip.upTo t0).settleGroup ⟨r, b⟩).slices.cm ∧
      t.slices.im = ((s.toChip.upTo t0).settleGroup ⟨r, b⟩).slices.im) ∧
  (∀ (s : State) (m : BmSel) (a n t0 : Nat), s.underTest (.bm m) = true →
    ∃ t, exec (.onChipScrubAccess (.bm m) a (.single n) t0) s = .next t ∧ OnlyTouches [.belfry] s t) ∧
  (∀ (s : State) (d : Bool) (u : Nat),
    ∃ t, exec (.scrubPeriodEnd d u) s = .next t ∧ t.reg 0x2910 6 = sat32 (s.reg 0x2910 6 + 1) ∧ OnlyTouches logAreas s t)

/-- Self-test (R395 to R399, R402, R403, R406): the power-up test's steps and its three results; the closing test's steps,
each quarter going off as its part ends, and the record that leads to STANDBY; on-demand tests begin, hold one unit and end
with their status, the unit holding 0; acceptance of a failed power-up test. -/
def Obligations.SelfTestsRunAndReport : Prop :=
  let quiet := fun (s : State) => s.reg 0x2D00 1 = 0 ∧ s.reg 0x2D00 2 = 0
  let holds := fun (s t : State) (q : Req) (o : OnDemand) => t.busyFor 0x2E29 q.owner ∧ t.test.onDemand = some o ∧
    OnlyTouches (.belfry :: .test :: .hub :: answerAreas) s t
  (∀ (s : State) (l : List (BitVec 64)) (n : Nat), quiet s → s.serving = true → s.test.st = 1 → s.test.index < 39 →
    ∃ t, exec (.selfTestStepEnd l n) s = .next t ∧ t.test.index = s.test.index + 1 ∧
      t.test.patterns = s.test.patterns + n ∧ t.test.failures = (s.test.failures ++ l).take 256 ∧
      t.test.st = 1 ∧ OnlyTouches [.test] s t) ∧
  (∀ (s : State) (l : List (BitVec 64)) (n r : Nat), quiet s → s.serving = true → s.test.st = 1 → s.test.index = 39 →
    s.test.tooMany = false → (s.test.failures ++ l).length ≤ 256 →
    r = (if s.test.failures ++ l = [] then 0 else if (s.test.failures ++ l).all failsMemory then 1 else 2) →
    ∃ t, exec (.selfTestStepEnd l n) s = .next t ∧ t.test.st = 3 + r ∧
      t.test.record.map (fun x => (x.kind, x.result, x.index)) = some (2, r, 40) ∧
      t.dev.selftestOk = (if r = 2 then s.dev.selftestOk else true) ∧ t.watch.st = 0 ∧
      t.aon = { s.aon with intact := true, powerLoss := false } ∧ t.reg 0x2040 6 = sat32 (s.reg 0x2040 6 + 1) ∧
      (∀ k, Mem.get t.mem.bm k = 0#40) ∧ (∀ n, runGet t.loader.active n = 0#2048) ∧
      (r = 1 → ∀ e ∈ s.test.failures ++ l, failKind e = 2 → failUnit e ∈ t.mem.badBm)) ∧
  (∀ (s : State) (l : List (BitVec 64)) (n : Nat), quiet s → s.dev.st = .closing → s.dev.closingStage = 2 →
    ∃ t, exec (.selfTestStepEnd l n) s = .next t ∧ t.test.index = s.test.index + 1 ∧
      t.dev = { s.dev with
        power := (if (s.test.index + 1) % 5 = 0 then s.dev.power &&& ~~~(1#20 <<< (2 + (s.test.index + 1) / 5))
          else s.dev.power) &&& (if s.test.index + 1 = 40 then ~~~(1#20 <<< 14) else BitVec.allOnes 20)
        closingStage := if s.test.index + 1 = 40 then 3 else 2 } ∧
      OnlyTouches [.test, .dev] s t) ∧
  (∀ s : State, s.dev.st = .closing → s.dev.closingStage = 3 → s.test.index = 40 →
    ∃ t, exec .recordSealed s = .next t ∧ t.dev.st = .standby ∧ t.dev.power = 1#20 ∧
      t.aon = { s.aon with intact := true, powerLoss := false } ∧
      t.test.record.map (fun x => (x.kind, x.index, x.patterns, x.seq, x.sealed)) =
        some (1, 40, s.test.patterns, s.aon.seq, s.aon.seconds) ∧
      t.test.record.map (fun x => (x.result, x.entries)) =
        some (testResult s.test.failures s.test.tooMany, (s.test.failures ++ s.test.kept).take 256)) ∧
  (∀ (i : Req → Nat → Nat → Nat → Instr) (k : Nat),
    (i, k) ∈ [(Instr.testBlockMemories, 1), (Instr.testScratchpadBank, 2), (Instr.testGroupMemories, 3)] →
    ∀ (s : State) (q : Req) (n r b : Nat), CommandTaken s q 0x2E29 n [(3, k), (4, r), (5, b)] = true →
    (s.served q).testRefusal q.owner k r b = 0 →
    ∃ t, exec (i q n r b) s = .next t ∧ holds s t q { action := k, r := r, b := b } ∧ t.hub = s.hub) ∧
  (∀ (s : State) (q : Req) (n c : Nat), CommandTaken s q 0x2E29 n [(3, 4), (4, c)] = true →
    (s.served q).testRefusal q.owner 4 c (s.reg 0x2E29 5) = 0 →
    ∃ t, exec (.testDramChannel q n c) s = .next t ∧ holds s t q { action := 4, r := c, b := s.reg 0x2E29 5 } ∧
      (t.channel c).underTest = true) ∧
  (∀ (s : State) (q : Req) (n : Nat), CommandTaken s q 0x2E29 n [(3, 5)] = true →
    (s.served q).testRefusal q.owner 5 (s.reg 0x2E29 4) (s.reg 0x2E29 5) = 0 →
    ∃ t, exec (.acceptPowerUpResult q n) s = .next t ∧ t.status 0x2E29 q.owner = 0 ∧ t.test.st = 6 ∧
      t.dev.selftestOk = true ∧
      (∀ e ∈ s.test.failures, failsMemory e = false → t.test.excluded.getLsbD (failRegion e) = true) ∧
      (∀ p, (t.part p).claim = (s.part p).claim &&& ~~~t.test.excluded)) ∧
  (∀ (s : State) (o : OnDemand) (l : List (BitVec 64)) (us w : Nat), quiet s → s.test.onDemand = some o → 1 ≤ o.action →
    o.action ≤ 3 → (s.cmd 0x2E29).busy = some w →
    ∃ t, exec (.onDemandTestEnd l us) s = .next t ∧ t.test.onDemand = none ∧ (t.cmd 0x2E29).busy = none ∧
      t.status 0x2E29 w = (if l = [] then 0 else 5) ∧ t.reg 0x2982 2 = l.length ∧ t.reg 0x2982 4 = us ∧
      (o.action = 1 → ∀ m a, m < 8 → a < 1024 → Mem.get t.mem.bm (bmKey o.r o.b m * 1024 + a) = 0#40) ∧
      (o.action = 2 → o.b < 16 → ∀ a, a < 4096 → Mem.get t.mem.sp (o.r * 65536 + a * 16 + o.b) = 0#256) ∧
      (o.action = 3 → ∀ a, a < 4096 → Mem.get t.slices.ds (groupKey o.r o.b * 16384 + a) = 0#16) ∧
      OnlyTouches (.test :: .mem :: .slices :: logAreas) s t)

/-! ### Chapter 15: Lantern -/

/-- Flash operations and stream keys (R416 to R419, R432 to R435): a write of an image or a boot stream runs to
FLASH_OPERATION_END and ends with its status; a good image is pending in the slot that does not run, and a bad one leaves
that slot invalid; the running image is confirmed and the rollback count burned at once; keys are installed, deleted and
revoked. Whether a blob unwraps is free. -/
def Obligations.FlashAndKeyCommandsTakeEffect : Prop :=
  let free := fun (s : State) (q : Req) (a : Nat) => (s.served q).flashNoRight q.owner a = false ∧ s.lantern.op = none
  let began := fun (s t : State) (q : Req) (a : Nat) => t.busyFor 0x2E2A q.owner ∧
    t.lantern = { s.lantern with op := some { action := a, owner := q.owner, foe := false } } ∧
    OnlyTouches (.belfry :: .lantern :: answerAreas) s t
  let runs := fun (s : State) (a o : Nat) => s.lantern.op = some { action := a, owner := o, foe := false } ∧
    (s.cmd 0x2E2A).busy = some o
  let ended := fun (s t : State) (o st : Nat) => t.lantern.op = none ∧ (t.cmd 0x2E2A).busy = none ∧
    t.status 0x2E2A o = st ∧ OnlyTouches (.lantern :: .loader :: logAreas) s t
  let slot := fun (s : State) (isB : Bool) => if isB then s.lantern.slotB else s.lantern.slotA
  let key := fun (s : State) (q : Req) (n a k : Nat) => CommandTaken s q 0x2E2C n [(3, a), (4, k)] = true ∧
    (a = 3 ∨ (s.served q).keyNoRight q.owner k = false) ∧ (s.keySlot k).revoked = false
  let keyed := fun (s t : State) (q : Req) (k : Nat) (x : KeySlot) => t.keySlot k = x ∧
    (∀ i, i ≠ k → t.keySlot i = s.keySlot i) ∧ t.status 0x2E2C q.owner = 0 ∧
    t.reg 0x2040 6 = sat32 (s.reg 0x2040 6 + 1) ∧ OnlyTouches (.belfry :: .lantern :: .dbg :: .free :: logAreas) s t
  (∀ (s : State) (q : Req) (n a e : Nat), CommandTaken s q 0x2E2A n [(3, 1), (4, a), (5, e)] = true → free s q 1 →
    s.imageConfirmed = true → ∃ t, exec (.flashWriteImage q n a e) s = .next t ∧ began s t q 1) ∧
  (∀ (s : State) (q : Req) (n a e : Nat), CommandTaken s q 0x2E2A n [(3, 4), (4, a), (5, e)] = true → free s q 4 →
    s.loaderOnFlash = false → ∃ t, exec (.writeBootStreamEntry0 q n a e) s = .next t ∧ began s t q 4) ∧
  (∀ (s : State) (q : Req) (n a e : Nat), CommandTaken s q 0x2E2A n [(3, 5), (4, a), (5, e)] = true → free s q 5 →
    s.loaderOnFlash = false → ∃ t, exec (.writeBootStreamEntry1 q n a e) s = .next t ∧ began s t q 5) ∧
  (∀ (s : State) (q : Req) (n a e : Nat), CommandTaken s q 0x2E2A n [(3, 1), (4, a), (5, e)] = true →
    (s.served q).flashNoRight q.owner 1 = true →
    ∃ t, exec (.flashWriteImage q n a e) s = .next t ∧ t.status 0x2E2A q.owner = 2 ∧ t.lantern = s.lantern) ∧
  (∀ (s : State) (q : Req) (n : Nat), CommandTaken s q 0x2E2A n [(3, 2)] = true → free s q 2 → s.imageConfirmed = false →
    ∃ t, exec (.confirmImage q n) s = .next t ∧ t.status 0x2E2A q.owner = 0 ∧
      t.lantern.confirmed = some s.lantern.runB ∧ t.lantern.trial = false ∧ t.lantern.pendingSlot ≠ some s.lantern.runB ∧
      OnlyTouches (.belfry :: .lantern :: .dbg :: logAreas) s t) ∧
  (∀ (s : State) (q : Req) (n : Nat), CommandTaken s q 0x2E2A n [(3, 3)] = true → free s q 3 → s.imageConfirmed = true →
    ∃ t, exec (.advanceRollback q n) s = .next t ∧ t.status 0x2E2A q.owner = 0 ∧
      t.lantern.rollback = max s.lantern.rollback s.runningSlot.rollback ∧ t.lantern.confirmed = s.lantern.confirmed ∧
      OnlyTouches (.belfry :: .lantern :: .dbg :: logAreas) s t) ∧
  (∀ (s : State) (o v rb len : Nat) (p : List Nat), runs s 1 o → s.dev.recovery = false → s.lantern.rollback ≤ rb →
    rb ≤ 64 →
    ∃ t, exec (.flashOperationEnd (.valid v rb len p)) s = .next t ∧ ended s t o 0 ∧
      slot t (!s.lantern.runB) = { version := v, rollback := rb, valid := true, policy := p } ∧
      slot t s.lantern.runB = slot s s.lantern.runB ∧ t.lantern.pendingSlot = some (!s.lantern.runB)) ∧
  (∀ (s : State) (o v rb len : Nat) (p : List Nat), runs s 1 o → s.dev.recovery = false → rb < s.lantern.rollback →
    ∃ t, exec (.flashOperationEnd (.valid v rb len p)) s = .next t ∧ ended s t o 4 ∧
      slot t (!s.lantern.runB) = {} ∧ slot t s.lantern.runB = slot s s.lantern.runB ∧ t.lantern.pendingSlot = none) ∧
  (∀ (out : FlashOutcome) (st : Nat), (out, st) ∈ [(FlashOutcome.invalid, 4), (.cutShort, 5), (.flashError, 6)] →
    ∀ (s : State) (o a : Nat), runs s a o → s.dev.recovery = false →
    ∃ t, exec (.flashOperationEnd out) s = .next t ∧ ended s t o st ∧ t.loader = s.loader ∧
      (a = 1 → slot t (!s.lantern.runB) = {} ∧ t.lantern.pendingSlot = none) ∧
      slot t s.lantern.runB = slot s s.lantern.runB) ∧
  (∀ (s : State) (o a v rb len : Nat) (p : List Nat), runs s a o → a = 4 ∨ a = 5 →
    ∃ t, exec (.flashOperationEnd (.valid v rb len p)) s = .next t ∧ ended s t o 0 ∧
      t.loader = (if a = 4 then { s.loader with dir0 := len } else { s.loader with dir1 := len })) ∧
  (∀ (s : State) (q : Req) (n k : Nat) (d : Bytes), key s q n 1 k → BytesAllowed s q 0x2E2C 5 d.length = true →
    ∃ t, exec (.installKey q n k d) s = .next t ∧
      (Config.blobUnwraps k d = true → keyed s t q k { owner := some q.owner, key := s.free }) ∧
      (Config.blobUnwraps k d = false → t.status 0x2E2C q.owner = 4 ∧ t.lantern = s.lantern ∧
        t.reg 0x2040 6 = sat32 (s.reg 0x2040 6 + 1))) ∧
  (∀ (s : State) (q : Req) (n k : Nat), key s q n 2 k →
    ∃ t, exec (.deleteKey q n k) s = .next t ∧ keyed s t q k {} ∧ t.free = s.free) ∧
  (∀ (s : State) (q : Req) (n k : Nat), key s q n 3 k → q.owner = 0 →
    ∃ t, exec (.revokeKey q n k) s = .next t ∧ keyed s t q k { revoked := true } ∧ t.free = s.free)

/-- Sensors, watchdog, SRAM and log (R410, R421, R422, R425 to R431): readings below the thresholds are stored; a second
reading at 105 °C leads to SAFE; ten invalid samples fail a sensor; the two kick values reload the watchdog; an expiry and
an uncorrectable SRAM word reset Lantern's core and lead to SAFE; entries reach the ring in order; a log read gives entries
from the path's read sequence on; sticky bits clear. -/
def Obligations.LanternWatchesAndLogs : Prop :=
  let plain := fun (s : State) => s.powered 1 = true ∧ s.reg 0x2DE0 2 = 0x7FFF ∧ s.loader.commit = none ∧
    ∀ n, n < 40 → s.isArmed 0x2DE0 1 n = false
  let tenths := fun (v : Nat) => signed 16 v
  let entries := fun (s : State) (q : Req) =>
    (s.log.held.filter fun x => seqAfter x.seq (s.logStart q.owner)).take (s.logCount q.owner)
  (∀ (s : State) (l : List Int) (t0 : Nat), plain s → l.length = 40 → s.lantern.failed = 0#64 → s.lantern.warm = 0#64 →
    s.lantern.warning = false → (∀ v ∈ l, v < tenths (s.reg 0x2A00 1) ∧ v < 420) →
    ∃ t, exec (.sensorSample (l.map some) t0) s = .next t ∧ (∀ n, n < 40 → Tab.get 0 t.lantern.temps n = l.getD n 0) ∧
      t.lantern.warm = 0#64 ∧ t.lantern.failed = 0#64 ∧ (∀ v ∈ l, ∃ h, t.lantern.highest = some h ∧ v ≤ h) ∧
      OnlyTouches [.belfry, .lantern] s t) ∧
  (∀ (s : State) (l : List (Option Int)) (t0 n : Nat) (v : Int), plain s → s.serving = true → n < 40 →
    l.getD n none = some v → 420 ≤ v → s.lantern.failed.getLsbD n = false → Tab.get 0 s.lantern.hotRuns n = 1 →
    ∃ t, exec (.sensorSample l t0) s = .next t ∧ t.dev.st = .safe ∧ Tab.get 0 t.lantern.temps n = v ∧
      Tab.get 0 t.lantern.hotRuns n = 2) ∧
  (∀ (s : State) (l : List (Option Int)) (t0 n : Nat), plain s → n < 40 → l.getD n none = none →
    Tab.get 0 s.lantern.invalid n = 9 →
    ∃ t, exec (.sensorSample l t0) s = .next t ∧
      t.lantern.failed.getLsbD n = true) ∧
  (∀ s : State, s.lantern.running = true →
    ∃ t, exec (.watchdogKick 0xA5C3#32) s = .next t ∧ t.lantern = { s.lantern with kickHalf := true } ∧
      OnlyTouches [.lantern] s t) ∧
  (∀ s : State, s.lantern.running = true → s.lantern.kickHalf = true → s.lantern.held = false →
    ∃ t, exec (.watchdogKick 0x3C5A#32) s = .next t ∧
      t.lantern = { s.lantern with kickHalf := false, remaining := s.reg 0x2030 1, reloadAt := s.now } ∧
      OnlyTouches [.lantern] s t) ∧
  (∀ (s : State) (v : BitVec 32), s.lantern.running = true → v ≠ 0xA5C3#32 → v ≠ 0x3C5A#32 → s.serving = true →
    ∃ t, exec (.watchdogKick v) s = .next t ∧ t.dev.st = .safe ∧ t.dev.cause = 0x40E00010 ∧
      t.lantern.running = false ∧ t.aon.expiries = sat32 (s.aon.expiries + 1)) ∧
  (∀ (s : State) (q : Req) (v : Nat), WriteAllowed s q 0x2030 1 v = true →
    ∃ t, exec (.watchdogTimeoutWrite q v) s = .next t ∧ t.reply q.owner = .done ∧ t.reg 0x2030 1 = v ∧
      t.lantern = { s.lantern with remaining := v, reloadAt := max s.now q.t % 2 ^ 64 } ∧
      OnlyTouches (.belfry :: .lantern :: answerAreas) s t) ∧
  (∀ (s : State) (t0 : Nat), s.watchdogCounts t0 = true → s.powered 1 = true → s.serving = true →
    ∃ t, exec (.watchdogExpiry t0) s = .next t ∧ t.dev.st = .safe ∧ t.dev.cause = 0x40E00010 ∧
      t.lantern.running = false ∧ t.lantern.wdogSeen = true ∧ t.aon.expiries = sat32 (s.aon.expiries + 1)) ∧
  (∀ (s : State) (t0 n : Nat), s.lantern.held = true → s.lantern.heldAt = some n → n / 40 ≠ t0 / 40 →
    exec (.watchdogExpiry t0) s = .next s) ∧
  (∀ (s : State) (t0 n : Nat), (s.lantern.held = false ∨ s.lantern.heldAt = some n ∧ n / 40 = t0 / 40) →
    s.watchdogCounts t0 = true) ∧
  (∀ (s : State) (t0 : Nat), s.powered 1 = true →
    ∃ t, exec (.sramError false t0) s = .next t ∧ t.lantern.sramCorrected = true ∧
      t.reg 0x2002 7 = sat32 (s.reg 0x2002 7 + 1) ∧ t.dev.st = s.dev.st ∧
      OnlyTouches (.belfry :: .lantern :: logAreas) s t) ∧
  (∀ (s : State) (t0 : Nat), s.powered 1 = true → s.serving = true →
    ∃ t, exec (.sramError true t0) s = .next t ∧ t.dev.st = .safe ∧ t.dev.cause = 0x40E00011 ∧
      t.lantern.running = false) ∧
  (∀ (s : State) (n : Nat), s.lanternServes = true → n ≤ s.log.pending → s.log.pending ≤ s.log.recent.length →
    ∃ t, exec (.logRingWrite n) s = .next t ∧
      t.log.ring = (s.log.ring ++ (s.log.recent.drop (s.log.recent.length - s.log.pending)).take n).drop
        (s.log.ring.length + n - 8192) ∧
      t.log.pending + n = s.log.pending ∧ t.log.recent = s.log.recent ∧ t.log.next = s.log.next ∧ OnlyTouches [.log] s t) ∧
  (∀ (s : State) (q : Req) (e : LogEntry) (l : List LogEntry), s.dictAlive = true → s.lanternServes = true →
    s.log.held = e :: l → (s.logStart q.owner = e.seq ∨ seqAfter e.seq (s.logStart q.owner) = false) →
    ∃ t, exec (.logRead q) s = .next t ∧ t.reply q.owner = .data ((entries s q).flatMap LogEntry.bytes) ∧
      t.logStart q.owner = (if q.owner = 6 then s.logStart 6 else
        ((entries s q).getLast?.map fun x => (x.seq + 1) % 2 ^ 32).getD (s.logStart q.owner)) ∧ t.log = s.log ∧
      OnlyTouches (.belfry :: answerAreas) s t) ∧
  (∀ (s : State) (q : Req), s.dictAlive = true → s.lanternServes = true → s.log.held = [] →
    ∃ t, exec (.logRead q) s = .next t ∧ t.reply q.owner = .data [] ∧ t.logStart q.owner = s.logStart q.owner ∧
      t.log = s.log ∧ OnlyTouches (.belfry :: answerAreas) s t) ∧
  (∀ (s : State) (q : Req) (e : LogEntry) (l : List LogEntry), s.dictAlive = true → s.lanternServes = true →
    s.log.held = e :: l → s.logStart q.owner ≠ e.seq → seqAfter e.seq (s.logStart q.owner) = true →
    ∃ t, exec (.logRead q) s = .next t ∧ t.reply q.owner = .abort 0x06090030 ∧ t.logStart q.owner = s.logStart q.owner) ∧
  (∀ (s : State) (q : Req) (m : BitVec 32), WriteAllowed s q 0x2002 2 m.toNat = true →
    ∃ t, exec (.clearSticky q m) s = .next t ∧ t.reply q.owner = .done ∧
      t.lantern = { s.lantern with
        logLoss := s.lantern.logLoss && !m.getLsbD 11
        fwFallback := s.lantern.fwFallback && !m.getLsbD 9
        wdogSeen := s.lantern.wdogSeen && !m.getLsbD 6
        sramCorrected := s.lantern.sramCorrected && !m.getLsbD 5 } ∧
      OnlyTouches (.belfry :: .lantern :: answerAreas) s t)

/-! ### Chapter 16: debug and trace -/

/-- Debug (R439 to R453): JTAG scans shift the identity, the bypass bit and the mailbox results out; a session opens and
closes and TAP reset ends it; a halt takes effect at the first multiple of 64 at least 256 ticks later and stops the
partition's regions, a resume restarts it a whole number of periods after its halt, and a step halts it again; Lantern's
monitor is entered and left and the watchdog held; observe reads give the heads of queues and capture FIFOs of a halted
region. The monitor's PC is a free value where a request enters it. -/
def Obligations.DebugPortHaltsAndObserves : Prop :=
  let path := fun (s : State) => s.dbg.session = true ∧ s.fromReduced = true ∧ s.debugOn = true
  let at_ := fun (s : State) (q : Req) => max s.now q.t % 2 ^ 64
  let shifted := fun (s t : State) => t.dbg.dr = BitVec.ofNat 72 (s.dbg.dmStatus % 4 * 2 ^ 46 + s.dbg.dmData.toNat)
  let grid := fun (n g : Nat) => n + 256 ≤ g ∧ g < n + 320 ∧ g % 64 = 0
  let restarts := fun (s : State) (q : Req) (p g : Nat) => (s.part p).haltTick ≤ g ∧ at_ s q ≤ g ∧
    (g - (s.part p).haltTick) % s.haltPeriod p = 0 ∧
    ((s.part p).haltTick ≤ at_ s q → g < at_ s q + s.haltPeriod p)
  let planned := fun (s t : State) (q : Req) => t.busyFor 0x2E2D q.owner ∧
    OnlyTouches (.belfry :: .parts :: .regions :: answerAreas) s t
  let ran := fun (s t : State) (p : Nat) => (∀ r ∈ s.partRegions p, (t.region r).halted = false) ∧
    ∀ r, r ∉ s.partRegions p → t.region r = s.region r
  (∀ s : State, s.dev.st ≠ .off →
    ∃ t, exec .idcode s = .next t ∧ t.dbg.dr = 0x2AE81C4B#72 ∧ OnlyTouches [.dbg] s t) ∧
  (∀ (s : State) (c : BitVec 8) (x : Bool), s.dev.st ≠ .off → c ∉ [0x01#8, 0x02#8, 0x20#8, 0x21#8] →
    ∃ t, exec (.bypass c x) s = .next t ∧ t.dbg.dr = (if x then 1#72 else 0#72) ∧ OnlyTouches [.dbg] s t) ∧
  (∀ (s : State) (d : Bytes), s.dev.st ≠ .off →
    ∃ t, exec (.samplePreload d) s = .next t ∧ t.dbg = { s.dbg with boundary := d } ∧ OnlyTouches [.dbg] s t) ∧
  (∀ s : State, s.dev.st ≠ .off → ∃ t, exec .dmboxPoll s = .next t ∧ shifted s t ∧ OnlyTouches [.dbg] s t) ∧
  (∀ (s : State) (a : Nat), s.dev.st ≠ .off → path s → a ≤ 0x813 →
    ∃ t, exec (.dmboxRead a) s = .next t ∧ shifted s t ∧ t.dbg.dmStatus = 0 ∧
      (a < 0x400 → a % 4 = 0 → ∀ i, i < 4 →
        t.dbg.dmData.toNat / 256 ^ i % 256 = (Mem.get s.dbg.mbox.req (a + i)).toNat) ∧
      (a = 0x804 → t.dbg.dmData = s.dbg.mbox.respSeq) ∧ OnlyTouches [.dbg] s t) ∧
  (∀ (s : State) (a : Nat) (v : BitVec 32), s.dev.st ≠ .off → path s → a < 0x400 → a % 4 = 0 →
    s.dbg.mbox.inService = false →
    ∃ t, exec (.dmboxWrite a v) s = .next t ∧ shifted s t ∧ t.dbg.dmStatus = 0 ∧
      (∀ i, i < 4 → Mem.get t.dbg.mbox.req (a + i) = BitVec.ofNat 8 (v.toNat / 256 ^ i)) ∧
      (∀ k, k < a ∨ a + 4 ≤ k → Mem.get t.dbg.mbox.req k = Mem.get s.dbg.mbox.req k) ∧ OnlyTouches [.dbg] s t) ∧
  (∀ (s : State) (v : BitVec 32), s.dev.st ≠ .off → path s → s.dbg.mbox.inService = false → v ≠ s.dbg.mbox.doorbell →
    s.dbg.mbox.headerError = 0 →
    ∃ t, exec (.dmboxWrite 0x800 v) s = .next t ∧ t.dbg.mbox.inService = true ∧ t.dbg.mbox.doorbell = v ∧
      OnlyTouches [.dbg] s t) ∧
  (∀ (s : State) (a : Nat), s.dev.st ≠ .off → s.dbg.session = false →
    ∃ t, exec (.dmboxRead a) s = .next t ∧ shifted s t ∧ t.dbg.dmStatus = 1 ∧ t.dbg.mbox = s.dbg.mbox) ∧
  (∀ (s : State) (a : Nat), s.dev.st ≠ .off → path s → 0x813 < a →
    ∃ t, exec (.dmboxRead a) s = .next t ∧ t.dbg.dmStatus = 3 ∧ t.dbg.mbox = s.dbg.mbox) ∧
  (∀ (s : State) (q : Req), WriteAllowed s q 0x2C00 1 1 = true → s.dbg.session = false →
    ∃ t, exec (.debugSessionOpen q) s = .next t ∧ t.dbg.session = true ∧ t.reply q.owner = .done ∧
      OnlyTouches (.belfry :: .dbg :: logAreas) s t) ∧
  (∀ (s : State) (q : Req), WriteAllowed s q 0x2C00 1 0 = true → s.dbg.session = true → s.lantern.held = true →
    ∃ t, exec (.debugSessionClose q) s = .next t ∧ t.dbg.session = false ∧ t.reply q.owner = .done ∧
      t.lantern.held = false ∧ t.lantern.remaining = s.reg 0x2030 1 ∧ OnlyTouches (.belfry :: .dbg :: logAreas) s t) ∧
  (∀ s : State, s.dev.st ≠ .off → s.dbg.session = true →
    ∃ t, exec .tapReset s = .next t ∧ t.dbg.session = false ∧ t.lantern.held = false ∧
      OnlyTouches (.dbg :: logAreas) s t) ∧
  (∀ (s : State) (q : Req) (n r : Nat), CommandTaken s q 0x2E2D n [(3, 1), (4, r)] = true → s.haltOf r = .running →
    (s.region r).fenced = false → s.serving = true →
    ∃ t g, exec (.halt q n r) s = .next t ∧ t.busyFor 0x2E2D q.owner ∧ grid (at_ s q) g ∧
      (s.loader.commit = none → planned s t q) ∧
      (∀ c o p, s.loader.commit = some c → s.regionPart r = some p → c.mask.getLsbD p = true → c.phase = 0 →
        (c.mode = 1 ∨ c.mode = 2) → s.loader.bootWait = 0#8 → (s.cmd 0x2210).busy = some o →
        t.loader.commit = none ∧ t.status 0x2210 o = 7) ∧
      (∀ p, s.regionPart r = some p → (t.part p).halt = .pending ∧ (t.part p).haltAt = some g) ∧
      (s.regionPart r = none → (t.region r).lone = .pending ∧ (t.region r).loneAt = some g)) ∧
  (∀ (s : State) (q : Req) (n r p : Nat), CommandTaken s q 0x2E2D n [(3, 2), (4, r)] = true → s.haltOf r = .halted →
    s.serving = true → s.regionPart r = some p → (s.part p).tables = true →
    ∃ t g, exec (.resume q n r) s = .next t ∧ planned s t q ∧ (t.part p).restartAt = some g ∧
      (t.part p).stepTicks = none ∧ restarts s q p g) ∧
  (∀ (s : State) (q : Req) (n r m p : Nat), CommandTaken s q 0x2E2D n [(3, 3), (4, r), (5, m)] = true →
    s.haltOf r = .halted → s.serving = true → s.regionPart r = some p → (s.part p).tables = true →
    (s.part p).status ≠ .suspended →
    ∃ t g, exec (.step q n r m) s = .next t ∧ planned s t q ∧ (t.part p).restartAt = some g ∧
      (t.part p).stepTicks = some m ∧ (t.part p).halt = .stepping ∧ restarts s q p g) ∧
  (∀ (s : State) (q : Req) (n r : Nat), CommandTaken s q 0x2E2D n [(3, 2), (4, r)] = true → s.haltOf r = .halted →
    s.serving = true → s.tabledPart r = none → ((s.regionPart r).isSome = true ∨ (s.region r).fenced = false) →
    ∃ t g, exec (.resume q n r) s = .next t ∧ planned s t q ∧ grid (at_ s q) g ∧
      (∀ p, s.regionPart r = some p → (t.part p).restartAt = some g ∧ (t.part p).stepTicks = none) ∧
      (s.regionPart r = none → (t.region r).loneRestart = some g ∧ (t.region r).loneStep = none)) ∧
  (∀ (s : State) (q : Req) (n r m : Nat), CommandTaken s q 0x2E2D n [(3, 3), (4, r), (5, m)] = true →
    s.haltOf r = .halted → s.serving = true → s.tabledPart r = none → s.suspendedAt r = false →
    ((s.regionPart r).isSome = true ∨ (s.region r).fenced = false) →
    ∃ t g, exec (.step q n r m) s = .next t ∧ planned s t q ∧ grid (at_ s q) g ∧
      (∀ p, s.regionPart r = some p → (t.part p).restartAt = some g ∧ (t.part p).stepTicks = some m ∧
        (t.part p).halt = .stepping) ∧
      (s.regionPart r = none → (t.region r).loneRestart = some g ∧ (t.region r).loneStep = some m ∧
        (t.region r).lone = .stepping)) ∧
  (∀ (s : State) (r t0 o : Nat), s.regionPart r = none → (s.region r).loneAt = some t0 → (s.region r).loneCmd = true →
    (s.cmd 0x2E2D).busy = some o →
    ∃ t, exec (.haltTick r) s = .next t ∧ t.now = max s.now t0 % 2 ^ 64 ∧ (t.region r).lone = .halted ∧
      (t.region r).halted = true ∧ (∀ k, k ≠ r → t.region k = s.region k) ∧ t.status 0x2E2D o = 0) ∧
  (∀ (s : State) (r t0 o : Nat), s.regionPart r = none → (s.region r).loneRestart = some t0 →
    (s.region r).loneStep = none → (s.region r).loneCmd = true → (s.cmd 0x2E2D).busy = some o → s.inject.armed = [] →
    ∃ t, exec (.restartTick r) s = .next t ∧ t.now = max s.now t0 % 2 ^ 64 ∧ (t.region r).lone = .running ∧
      (t.region r).halted = false ∧ (∀ k, k ≠ r → t.region k = s.region k) ∧ t.status 0x2E2D o = 0) ∧
  (∀ (s : State) (r p t0 o : Nat), p < 8 → s.regionPart r = some p → (s.part p).haltAt = some t0 → s.inWindow p = false →
    (s.part p).runCmd = some r → (s.cmd 0x2E2D).busy = some o →
    ∃ t, exec (.haltTick r) s = .next t ∧ t.now = max s.now t0 % 2 ^ 64 ∧ (t.part p).halt = .halted ∧ (t.part p).haltTick = t.now ∧
      (∀ k ∈ s.partRegions p, (t.region k).halted = true) ∧ (∀ k, k ∉ s.partRegions p → t.region k = s.region k) ∧
      ((s.part p).status = .armed → (t.part p).status = .suspended) ∧ t.reg (0x2C08 + p) 4 = t.now ∧
      t.reg (0x2C08 + p) 6 = sat32 (s.reg (0x2C08 + p) 6 + 1) ∧ t.status 0x2E2D o = 0) ∧
  (∀ (s : State) (r p t0 o : Nat), p < 8 → s.regionPart r = some p → (s.part p).restartAt = some t0 →
    (s.part p).stepTicks = none → (s.part p).runCmd = some r → (s.cmd 0x2E2D).busy = some o → s.inject.armed = [] →
    ∃ t, exec (.restartTick r) s = .next t ∧ (t.part p).halt = .running ∧ ran s t p ∧
      t.reg (0x2C08 + p) 5 = max s.now t0 % 2 ^ 64 ∧ ((s.part p).status = .suspended → (t.part p).status = .armed) ∧
      t.status 0x2E2D o = 0) ∧
  (∀ (s : State) (r p t0 m : Nat), p < 8 → s.regionPart r = some p → (s.part p).restartAt = some t0 →
    (s.part p).stepTicks = some m → s.inject.armed = [] →
    ∃ t, exec (.restartTick r) s = .next t ∧ (t.part p).halt = .stepping ∧ ran s t p ∧
      (t.part p).haltAt = some (max s.now t0 % 2 ^ 64 + m) ∧ (t.part p).runCmd = (s.part p).runCmd) ∧
  (∀ (s : State) (q : Req), WriteAllowed s q 0x2C02 4 1 = true → s.lantern.running = true → s.lantern.inMonitor = false →
    ∃ t, exec (.monitorEnter q) s = .next t ∧ t.reply q.owner = .done ∧ t.lantern.inMonitor = true ∧
      t.lantern.reservation = none ∧ t.lantern.debugPc = Config.lanternPc s.free ∧
      t.reg 0x2C02 5 = sat32 (s.reg 0x2C02 5 + 1) ∧ OnlyTouches (.belfry :: .lantern :: .free :: answerAreas) s t) ∧
  (∀ (i : BitVec 32 → Instr), i ∈ [Instr.ebreak, Instr.breakpointMatch 0, Instr.breakpointMatch 3] →
    ∀ (s : State) (pc : BitVec 32), s.reg 0x2C02 6 = 1 → s.lantern.running = true → s.lantern.inMonitor = false →
    ∃ t, exec (i pc) s = .next t ∧ t.reg 0x2C02 5 = sat32 (s.reg 0x2C02 5 + 1) ∧
      t.lantern = { s.lantern with inMonitor := true, debugPc := pc, reservation := none, resumeReq := false } ∧
      OnlyTouches [.lantern, .dict] s t) ∧
  (∀ (s : State) (q : Req), WriteAllowed s q 0x2C02 4 2 = true → s.lantern.inMonitor = true →
    ∃ t, exec (.monitorResume q) s = .next t ∧ t.reply q.owner = .done ∧
      t.lantern = { s.lantern with inMonitor := false, resumeReq := true } ∧
      OnlyTouches (.belfry :: .lantern :: answerAreas) s t) ∧
  (∀ (s : State) (q : Req), WriteAllowed s q 0x2C02 3 1 = true → s.lantern.held = false →
    ∃ t, exec (.watchdogHold q true) s = .next t ∧ t.reply q.owner = .done ∧ t.lantern = { s.lantern with
        held := true, heldAt := some (at_ s q),
        remaining := s.lantern.remaining - (at_ s q - s.lantern.reloadAt) / 1000000 } ∧
      OnlyTouches (.belfry :: .lantern :: answerAreas) s t) ∧
  (∀ (s : State) (q : Req), WriteAllowed s q 0x2C02 3 0 = true → s.lantern.held = true →
    ∃ t, exec (.watchdogHold q false) s = .next t ∧ t.reply q.owner = .done ∧ t.lantern = { s.lantern with
        held := false, remaining := s.reg 0x2030 1, reloadAt := max s.now q.t % 2 ^ 64 } ∧
      OnlyTouches (.belfry :: .lantern :: answerAreas) s t) ∧
  (∀ (s : State) (q : Req) (r k : Nat) (d : BitVec 128) (m : BitVec 16) (l : List (BitVec 128 × BitVec 16)),
    ReadAllowed s q (0x2C60 + r) (k + 1) = true → (s.region r).halted = true → ((s.served q).queueNow (queueKey r k)).words = (d, m) :: l →
    ((s.served q).queueNow (queueKey r k)).readDepth ≠ 0 →
    ∃ t, exec (.observeQueueHead q r k) s = .next t ∧ t.reply q.owner = .data (toBytes 16 d.toNat ++ toBytes 2 m.toNat) ∧
      OnlyTouches (.belfry :: answerAreas) s t) ∧
  (∀ (s : State) (q : Req) (r k : Nat), ReadAllowed s q (0x2C60 + r) (k + 1) = true → (s.region r).halted = false →
    ∃ t, exec (.observeQueueHead q r k) s = .next t ∧ t.reply q.owner = .abort 0x08000022 ∧
      OnlyTouches (.belfry :: answerAreas) s t) ∧
  (∀ (s : State) (q : Req) (bb n : Nat), ReadAllowed s q (0x2C80 + bb) (n + 1) = true →
    (s.region (bankRegion bb)).halted = true → (∀ p, s.regionPart (bankRegion bb) = some p → (s.part p).vaneOpt ≠ 0) →
    ∃ t, exec (.observeCaptureHead q bb n) s = .next t ∧
      t.reply q.owner = .data (toBytes 4 (((s.vane (bb * 64 + n)).fifo.headD 0x60000000#32).toNat)) ∧ t.vanes = s.vanes ∧
      OnlyTouches (.belfry :: answerAreas) s t)

/-- Trace (R454 to R460): stimulus writes and probe samples put packets into the merge FIFO, or count as lost where it
is full; packets go to the sink in order; a trigger whose source matches acts once and disarms. -/
def Obligations.TraceEmitsStoresAndTriggers : Prop :=
  let ready := fun (s : State) => s.tracing = true ∧ s.isArmed 0x2DF0 2 0 = false ∧ s.dbg.lossDue = 0
  let written := fun (s : State) (port t0 : Nat) =>
    s.on { s.toChip with dbg := { s.dbg with portAt := Tab.set s.dbg.portAt port (max s.now t0 % 2 ^ 64) } }
  let emitted := fun (s t : State) (p : Packet) =>
    (s.dbg.fifo.length < 64 → t.dbg = { s.dbg with fifo := s.dbg.fifo ++ [p] } ∧ OnlyTouches [.belfry, .dbg] s t) ∧
    (64 ≤ s.dbg.fifo.length → t.dbg = { s.dbg with lossDue := 1 } ∧
      t.reg 0x2C10 0x0A = sat32 (s.reg 0x2C10 0x0A + 1) ∧ OnlyTouches [.belfry, .dbg, .dict] s t)
  let drains := fun (s : State) (p : Packet) (l : List Packet) => s.dbg.state = 1 ∧ s.debugOn = true ∧
    s.dbg.lossDue = 0 ∧ s.dbg.fifo = p :: l ∧ p.kind ≠ 4
  let armed := fun (s : State) (n t0 : Nat) => n < 4 ∧ s.debugOn = true ∧ s.reg (0x2C18 + n) 5 = 1 ∧ s.reg (0x2C18 + n) 1 = 1 ∧
    s.reg (0x2C18 + n) 2 = t0 ∧ s.triggerBlocked n = false
  (∀ (s : State) (port len t0 : Nat) (d : BitVec 32), ready s → bit (s.reg 0x2C10 6) port = true →
    ∃ t, exec (.lanternStimulus port len d t0) s = .next t ∧
      emitted s t { kind := 0, len := len, port := port, time := max s.now t0 % 2 ^ 64, payload := d }) ∧
  (∀ (s : State) (port len t0 : Nat) (d : BitVec 32), bit (s.reg 0x2C10 6) port = false →
    ∃ t, exec (.lanternStimulus port len d t0) s = .next t ∧ OnlyTouches [.belfry] s t) ∧
  (∀ (s : State) (r port len t0 : Nat) (d : BitVec 32), ready s → (s.toChip.upTo t0).fabricRuns r = true →
    bit (s.reg 0x2C10 7) port = true →
    ∃ t, exec (.fabricStimulus r port len d t0) s = .next t ∧ emitted (written s port t0) t
      { kind := 1, len := len, port := port, time := (s.toChip.upTo t0).tbCount r, payload := d }) ∧
  (∀ (s : State) (r port len t0 : Nat) (d : BitVec 32), (s.toChip.upTo t0).fabricRuns r = true →
    bit (s.reg 0x2C10 7) port = false →
    ∃ t, exec (.fabricStimulus r port len d t0) s = .next t ∧ t.dbg = (written s port t0).dbg ∧
      OnlyTouches [.belfry, .dbg] s t) ∧
  (∀ (s : State) (r port len t0 : Nat) (d : BitVec 32), (s.region r).halted = true →
    ∃ t, exec (.fabricStimulus r port len d t0) s = .next t ∧ OnlyTouches [.belfry] s t) ∧
  (∀ (s : State) (x : BitVec 8) (t0 : Nat), ready s → x = (s.toChip.upTo t0).probeSample → x ≠ s.dbg.lastProbe →
    s.dbg.fifo.length < 64 →
    ∃ t, exec (.probeTraceSample t0) s = .next t ∧ t.dbg.lastProbe = x ∧ t.dbg.fifo = s.dbg.fifo ++
        [{ kind := 2, len := 1, port := 0, time := max s.now t0 % 2 ^ 64, payload := BitVec.setWidth 32 x }] ∧
      OnlyTouches [.belfry, .dbg] s t) ∧
  (∀ (s : State) (t0 : Nat), (s.toChip.upTo t0).probeSample = s.dbg.lastProbe →
    ∃ t, exec (.probeTraceSample t0) s = .next t ∧ t.dbg.fifo = s.dbg.fifo ∧ t.dbg.lastProbe = s.dbg.lastProbe ∧
      OnlyTouches [.belfry, .dbg] s t) ∧
  (∀ (s : State) (t0 : Nat),
    ∃ t, exec (.probeTraceSample t0) s = .next t ∧ ∀ n, n < 4 → Tab.get false s.dbg.trigLevel n = false →
      (s.toChip.upTo t0).probeOf (s.reg (0x2C18 + n) 2 % 65536) = true →
      Tab.get 0 t.dbg.roseAt n = max s.now t0 % 2 ^ 64) ∧
  (∀ (s : State) (q : Req), WriteAllowed s q 0x2C10 2 1 = true → s.dbg.enabled = false →
    ∃ t, exec (.traceEnable q true) s = .next t ∧ t.reply q.owner = .done ∧ t.dbg.enabled = true ∧ t.dbg.state = 1 ∧
      t.dbg.fifo = [] ∧ t.dbg.writeSlot = 0 ∧ t.reg 0x2C10 9 = 0 ∧ OnlyTouches (.belfry :: .dbg :: answerAreas) s t) ∧
  (∀ (s : State) (q : Req), WriteAllowed s q 0x2C10 2 0 = true → s.dbg.enabled = true →
    ∃ t, exec (.traceEnable q false) s = .next t ∧ t.reply q.owner = .done ∧ t.dbg.enabled = false ∧ t.dbg.state = 0 ∧
      t.dbg.fifo = s.dbg.fifo ∧ OnlyTouches (.belfry :: .dbg :: .free :: answerAreas) s t) ∧
  (∀ (s : State) (p : Packet) (l : List Packet) (e t0 : Nat), drains s p l → s.reg 0x2C10 1 = 1 →
    s.dbg.writeSlot < 65535 →
    ∃ t, exec (.tracePacketWrite e t0) s = .next t ∧ t.dbg.fifo = l ∧ t.dbg.writeSlot = s.dbg.writeSlot + 1 ∧
      t.traceSlot s.dbg.writeSlot = BitVec.ofNat 128 (ofBytes p.bytes) ∧
      t.reg 0x2C10 9 = (s.reg 0x2C10 9 + 1) % 2 ^ 64 ∧ OnlyTouches [.belfry, .dbg, .dict] s t) ∧
  (∀ (s : State) (p : Packet) (l : List Packet) (e t0 : Nat), drains s p l → s.reg 0x2C10 1 = 1 →
    s.dbg.writeSlot = 65535 →
    ∃ t, exec (.tracePacketWrite e t0) s = .next t ∧ t.dbg.fifo = l ∧
      (if s.reg 0x2C10 3 = 1 then t.dbg.state = 2 else t.dbg.state = 1 ∧ t.dbg.writeSlot = 0)) ∧
  (∀ (s : State) (p : Packet) (l : List Packet) (e t0 : Nat), drains s p l → s.reg 0x2C10 1 = 2 →
    s.dbg.line.length + p.bytes.length < 64 →
    ∃ t, exec (.tracePacketWrite e t0) s = .next t ∧ t.dbg.fifo = l ∧ t.dbg.line = s.dbg.line ++ p.bytes ∧
      t.hub = s.hub ∧ OnlyTouches [.belfry, .dbg, .dict] s t) ∧
  (∀ (s : State) (p : Packet) (l : List Packet) (e t0 : Nat), drains s p l → s.reg 0x2C10 1 = 3 →
    s.dbg.sink.length ≤ 4080 →
    ∃ t, exec (.tracePacketWrite e t0) s = .next t ∧ t.dbg.fifo = l ∧ t.dbg.sink = s.dbg.sink ++ p.bytes ∧
      OnlyTouches [.belfry, .dbg, .dict] s t) ∧
  (∀ (s : State) (n t0 r p : Nat), armed s n t0 → s.reg (0x2C18 + n) 3 = 1 → s.reg (0x2C18 + n) 4 = r → s.serving = true →
    (s.region r).fenced = false → s.regionPart r = some p → s.loader.commit = none →
    ∃ t g, exec (.triggerFire n t0) s = .next t ∧ t.reg (0x2C18 + n) 5 = 0 ∧ (t.part p).halt = .pending ∧
      (t.part p).haltAt = some g ∧ t0 + 256 ≤ g ∧ g < t0 + 320 ∧ g % 64 = 0 ∧
      OnlyTouches [.belfry, .parts, .dict] s t) ∧
  (∀ (s : State) (n t0 : Nat), armed s n t0 → s.reg (0x2C18 + n) 3 = 8 → ready s → s.dbg.fifo.length < 64 →
    ∃ t, exec (.triggerFire n t0) s = .next t ∧ t.reg (0x2C18 + n) 5 = 0 ∧ t.dbg.fifo = s.dbg.fifo ++
        [{ kind := 3, len := 1, port := n, time := t0, payload := 1#32 }] ∧ OnlyTouches [.belfry, .dbg, .dict] s t) ∧
  (∀ (s : State) (n t0 : Nat), armed s n t0 → s.reg (0x2C18 + n) 3 = 2 → s.dbg.enabled = false →
    ∃ t, exec (.triggerFire n t0) s = .next t ∧ t.reg (0x2C18 + n) 5 = 0 ∧ t.dbg.enabled = true ∧ t.dbg.state = 1 ∧
      OnlyTouches [.belfry, .dbg, .dict] s t) ∧
  (∀ (s : State) (n t0 : Nat), s.reg (0x2C18 + n) 1 = 2 → (s.dbg.roseAt.find? fun x => x.1 == n) = some (n, t0) →
    s.triggerMatches n t0 = true) ∧
  (∀ (s : State) (n t0 : Nat), s.debugOn = false ∨ s.reg (0x2C18 + n) 5 ≠ 1 ∨ s.triggerMatches n t0 = false →
    exec (.triggerFire n t0) s = .next s)

/-- R442: each TRDRAIN capture removes up to 8 bytes from the debug-port sink, the oldest in [7:0], with their number, 0 to 8,
in [71:64]. With the path closed (R440) nothing is removed and the number is 0. -/
def Obligations.DrainRemovesUpToEightBytes : Prop :=
  ∀ s : State, s.dev.st ≠ .off →
    ∃ t, exec .trdrain s = .next t ∧ OnlyTouches [.dbg] s t ∧
      if s.dbg.session = true ∧ s.fromReduced = true ∧ s.debugOn = true then
        ∃ n, n ≤ 8 ∧ n = min 8 s.dbg.sink.length ∧ s.dbg.sink = s.dbg.sink.take n ++ t.dbg.sink ∧
          t.dbg.dr.toNat / 2 ^ 64 = n ∧
          ∀ i, i < n → t.dbg.dr.toNat / 256 ^ i % 256 = (s.dbg.sink.getD i 0#8).toNat
      else t.dbg.dr.toNat / 2 ^ 64 = 0 ∧ t.dbg.sink = s.dbg.sink

/-! ### Chapter 17: fault injection -/

/-- Injection (R78, R106, R136, R155, R177, R199, R238, R267, R295, R318, R350, R382, R408, R438, R469, R485 to R488): the
enable gates it, and clearing it discards what is armed and returns the override entries to their Defaults; override
entries hold what is written; armed injections wait with their target; the others act at once as their detector would, and
count as applied. The bits that an injection flips in a frame are free values. -/
def Obligations.InjectionsArmOverrideOrAct : Prop :=
  let tick := fun (s : State) (q : Req) => s.toChip.upTo q.t
  let arms := fun (s t : State) (q : Req) (a : Armed) => t.reply q.owner = .done ∧
    t.inject.armed = s.inject.armed ++ [a] ∧ t.inject.enabled = s.inject.enabled
  let acts := fun (s t : State) (q : Req) (code : Nat) => t.reply q.owner = .done ∧
    t.reg 0x2DFF 3 = sat32 (s.reg 0x2DFF 3 + 1) ∧ t.reg 0x2DFF 4 = code ∧ t.inject = s.inject
  let set := fun (s t : State) (q : Req) (idx sub v : Nat) => t.reply q.owner = .done ∧ t.reg idx sub = v ∧
    OnlyTouches (.belfry :: answerAreas) s t
  (∀ (s : State) (q : Req), WriteAllowed s q 0x2DFF 1 1 = true →
    ∃ t, exec (.injectionEnable q true) s = .next t ∧ t.reply q.owner = .done ∧
      t.inject = { s.inject with enabled := true } ∧ OnlyTouches (.belfry :: .inject :: answerAreas) s t) ∧
  (∀ (s : State) (q : Req), WriteAllowed s q 0x2DFF 1 0 = true →
    ∃ t, exec (.injectionEnable q false) s = .next t ∧ t.reply q.owner = .done ∧ t.inject = {} ∧ t.reg 0x2D00 1 = 0 ∧
      t.reg 0x2D00 2 = 0 ∧ t.reg 0x2D60 1 = 0 ∧ t.reg 0x2D60 2 = 0 ∧ t.reg 0x2D80 3 = 0x7FFF ∧ t.reg 0x2D80 4 = 0 ∧
      t.reg 0x2DE0 2 = 0x7FFF) ∧
  (∀ (s : State) (q : Req) (v : BitVec 64), WriteAllowed s q 0x2D00 1 v.toNat = true →
    ∃ t, exec (.injectSelfTestFailure q v) s = .next t ∧ set s t q 0x2D00 1 v.toNat) ∧
  (∀ (s : State) (q : Req) (v : Nat), WriteAllowed s q 0x2D00 2 v = true →
    ∃ t, exec (.injectClosingTestCutShort q v) s = .next t ∧ set s t q 0x2D00 2 v) ∧
  (∀ (s : State) (q : Req) (v : Bool), WriteAllowed s q 0x2D60 1 (flag v 0) = true →
    ∃ t, exec (.injectSourceLoss q v) s = .next t ∧ set s t q 0x2D60 1 (flag v 0)) ∧
  (∀ (s : State) (q : Req) (v : BitVec 32), WriteAllowed s q 0x2D60 2 v.toNat = true →
    ∃ t, exec (.injectPpsDisplacement q v) s = .next t ∧ set s t q 0x2D60 2 v.toNat) ∧
  (∀ (s : State) (q : Req) (v : BitVec 16), WriteAllowed s q 0x2D80 3 v.toNat = true →
    ∃ t, exec (.injectDimmTemperature q v) s = .next t ∧ set s t q 0x2D80 3 v.toNat) ∧
  (∀ (s : State) (q : Req) (v : Bool), WriteAllowed s q 0x2D80 4 (flag v 0) = true →
    ∃ t, exec (.injectDimmSensorFailure q v) s = .next t ∧ set s t q 0x2D80 4 (flag v 0)) ∧
  (∀ (s : State) (q : Req) (v : BitVec 16), WriteAllowed s q 0x2DE0 2 v.toNat = true →
    ∃ t, exec (.injectSensorTemperature q v) s = .next t ∧ set s t q 0x2DE0 2 v.toNat) ∧
  (∀ (i : Req → Instr) (idx sub code tsub : Nat), (i, idx, sub, code, tsub) ∈ [
      (Instr.injectMissCrossingLate, 0x2D62, 2, 1, 1), (Instr.injectMissBankConflict, 0x2D62, 2, 2, 1),
      (Instr.injectMissHubNotReady, 0x2D62, 2, 4, 1), (Instr.injectMissWindowTarget, 0x2D62, 2, 5, 1),
      (Instr.injectMissHubLate, 0x2D62, 2, 6, 1), (Instr.injectMissQueueStall, 0x2D62, 2, 7, 1),
      (Instr.injectDramCorrectable, 0x2D80, 2, 1, 1), (Instr.injectDramUncorrectable, 0x2D80, 2, 2, 1),
      (Instr.injectDramCrcError, 0x2D80, 2, 3, 1), (Instr.injectTrainingFailure, 0x2D80, 2, 4, 1),
      (Instr.injectTagFailure, 0x2D90, 3, 1, 1), (Instr.injectMinorOverflow, 0x2D90, 3, 3, 1),
      (Instr.injectMajorWrap, 0x2D90, 3, 4, 1), (Instr.injectCacheCorrectable, 0x2D90, 3, 5, 1),
      (Instr.injectSensorFailure, 0x2DE0, 3, 1, 1)] →
    ∀ (s : State) (q : Req), WriteAllowed s q idx sub code = true →
    ∃ t, exec (i q) s = .next t ∧ arms s t q { obj := idx, code := code, target := s.reg idx tsub, target2 := 0 } ∧
      OnlyTouches (.belfry :: .inject :: answerAreas) s t) ∧
  (∀ (i : Req → Instr) (idx sub code : Nat), (i, idx, sub, code) ∈ [
      (Instr.injectEventMissed, 0x2DB0, 2, 3), (Instr.injectMailboxRepeat, 0x2DB0, 2, 4),
      (Instr.injectStreamTagFailure, 0x2DC0, 1, 1), (Instr.injectStreamCutShort, 0x2DC0, 1, 2),
      (Instr.injectStandbyLockFailure, 0x2DC0, 1, 3), (Instr.injectTraceSinkError, 0x2DF0, 1, 1),
      (Instr.injectTracePacketDrop, 0x2DF0, 1, 2)] →
    ∀ (s : State) (q : Req), WriteAllowed s q idx sub code = true →
    ∃ t, exec (i q) s = .next t ∧ arms s t q { obj := idx, code := code, target := 0, target2 := 0 } ∧
      OnlyTouches (.belfry :: .inject :: answerAreas) s t) ∧
  (∀ (s : State) (q : Req), WriteAllowed s q 0x2D90 3 2 = true →
    ∃ t, exec (.injectMetadataUncorrectable q) s = .next t ∧
      arms s t q { obj := 0x2D90, code := 2, target := s.reg 0x2D90 1, target2 := s.reg 0x2D90 2 } ∧
      OnlyTouches (.belfry :: .inject :: answerAreas) s t) ∧
  (∀ (s : State) (q : Req), WriteAllowed s q 0x2DA0 3 2 = true →
    ∃ t, exec (.injectDmaError q) s = .next t ∧
      arms s t q { obj := 0x2DA0, code := 2, target := s.reg 0x2DA0 1 * 16 + s.reg 0x2DA0 2, target2 := 0 } ∧
      OnlyTouches (.belfry :: .inject :: answerAreas) s t) ∧
  (∀ (s : State) (q : Req), WriteAllowed s q 0x2D10 3 1 = true → s.isArmed 0x2D10 (s.reg 0x2D10 2) (s.reg 0x2D10 1) = false →
    ∃ t, exec (.injectClockSwitchStall q) s = .next t ∧
      arms s t q { obj := 0x2D10, code := s.reg 0x2D10 2, target := s.reg 0x2D10 1, target2 := 0 } ∧
      OnlyTouches (.belfry :: .inject :: answerAreas) s t) ∧
  (∀ (s : State) (q : Req), WriteAllowed s q 0x2D40 4 1 = true →
    ∃ t, exec (.injectIllegalInstruction q) s = .next t ∧
      arms s t q { obj := 0x2D40, code := 1, target := groupKey (s.reg 0x2D40 1) (s.reg 0x2D40 2), target2 := 0 } ∧
      OnlyTouches (.belfry :: .inject :: answerAreas) s t) ∧
  (∀ (i : Req → Instr) (code space size n : Nat), (i, code, space, size, n) ∈ [
      (Instr.injectCoefficientBitFlip, 2, 1, 16384, 1), (Instr.injectCoefficientDoubleFlip, 3, 1, 16384, 2),
      (Instr.injectInstructionBitFlip, 4, 0, 4096, 1), (Instr.injectInstructionDoubleFlip, 5, 0, 4096, 2)] →
    ∀ (s : State) (q : Req) (k : Nat), WriteAllowed s q 0x2D40 4 code = true → s.reg 0x2D40 3 < size →
    k = gmKey ⟨s.reg 0x2D40 1, s.reg 0x2D40 2⟩ space (s.reg 0x2D40 3) → (Tab.get (0, false) s.slices.err k).1 = 0 →
    s.isArmed 0x2D40 code k = false →
    ∃ t, exec (i q) s = .next t ∧ arms s t q { obj := 0x2D40, code := code, target := k, target2 := 0 } ∧
      Tab.get (0, false) t.slices.err k = (n, true) ∧ t.slices.im = s.slices.im ∧ t.slices.cm = s.slices.cm ∧
      OnlyTouches (.belfry :: .inject :: .slices :: answerAreas) s t) ∧
  (∀ (i : Req → Instr) (code : Nat), (i, code) ∈ [(Instr.injectMemoryBitFlip, 1), (Instr.injectMemoryDoubleFlip, 2)] →
    ∀ (s : State) (q : Req) (a n k : Nat), WriteAllowed s q 0x2D20 4 code = true → s.reg 0x2D20 2 = a → a < 2 ^ 31 →
    s.reg 0x2D20 3 = n → n < 40 → k = s.reg 0x2D20 1 * 524288 + a % 524288 → s.bmBypass k = false →
    s.bmFlips k = (0#40, false) →
    ∃ t, exec (i q) s = .next t ∧ arms s t q { obj := 0x2D20, code := code, target := k, target2 := n } ∧
      t.bmFlips k = (if code = 1 then 1#40 <<< n else 1#40 <<< n ||| 1#40 <<< ((n + 1) % 40), true) ∧
      t.mem.bm = s.mem.bm ∧ OnlyTouches (.belfry :: .inject :: .mem :: answerAreas) s t) ∧
  (∀ (s : State) (q : Req) (which k : Nat) (i : Req → Instr),
    (i, which) ∈ [(Instr.injectWritePointerMismatch, 1), (Instr.injectReadPointerMismatch, 2)] →
    WriteAllowed s q 0x2D30 3 which = true → k = queueKey (s.reg 0x2D30 1) (s.reg 0x2D30 2) →
    s.isArmed 0x2D30 1 k = false → s.isArmed 0x2D30 2 k = false →
    ∃ t, exec (i q) s = .next t ∧ t.reply q.owner = .done ∧
      ((tick s q).pointerRuns k which = false → t.inject.armed = s.inject.armed ++
        [{ obj := 0x2D30, code := which, target := k, target2 := 0 }] ∧ t.queues = s.queues) ∧
      ((tick s q).pointerRuns k which = true → s.queueScheduled k = false → t.inject.armed = s.inject.armed ∧
        (t.queue k).words = [] ∧ t.reg (0x2500 + k / 16) 0x31 = sat32 (s.reg (0x2500 + k / 16) 0x31 + 1) ∧
        t.reg 0x2DFF 4 = evCode 1 3 (k / 16) 1)) ∧
  (∀ (s : State) (q : Req) (r : Nat), WriteAllowed s q 0x2D50 2 1 = true → s.reg 0x2D50 1 = r → r < 32 →
    (s.region r).fenced = false →
    ∃ t, exec (.injectUnlock q) s = .next t ∧ acts s t q (evCode 3 5 r 1) ∧ (t.region r).fenced = true ∧
      (t.region r).unlockInj = true ∧ t.reg (0x2500 + r) 7 = sat32 (s.reg (0x2500 + r) 7 + 1)) ∧
  (∀ (i : Req → Instr) (cause : Nat), (i, cause) ∈ [(Instr.injectMissUnplannedBank, 3), (Instr.injectMissVaneLate, 8),
      (Instr.injectMissSequencerOverrun, 9)] →
    ∀ (s : State) (q : Req) (r p : Nat), WriteAllowed s q 0x2D62 2 cause = true → s.reg 0x2D62 1 = r → r < 32 → p < 8 →
    (s.region r).part = some p → (s.region r).inReset = false → (s.region r).halted = false →
    (s.region r).fenced = false → (s.part p).status = .armed →
    ∃ t, exec (i q) s = .next t ∧ acts s t q (evCode 3 6 r (0x100 + cause)) ∧ (t.region r).fenced = true ∧
      (t.part p).status = .broken ∧
      (t.region r).lastMiss.map (fun x => (x.cause, x.slot, x.tag, x.injected)) = some (cause, 0xFFFF, 0, true)) ∧
  (∀ (i : Req → Instr) (code sub : Nat), (i, code, sub) ∈ [(Instr.injectVaneLate, 1, 3), (Instr.injectVaneOutOfOrder, 2, 4),
      (Instr.injectVaneFifoOverflow, 3, 6), (Instr.injectVaneRateViolation, 4, 5), (Instr.injectVaneContention, 5, 7)] →
    ∀ (s : State) (q : Req) (tp : Nat), WriteAllowed s q 0x2D70 2 code = true → s.reg 0x2D70 1 = tp →
    ∃ t, exec (i q) s = .next t ∧ acts s t q (evCode 1 7 (tpBank tp) code) ∧
      t.reg 0x2418 sub = sat32 (s.reg 0x2418 sub + 1)) ∧
  (∀ (s : State) (q : Req) (tp : Nat), WriteAllowed s q 0x2D70 2 6 = true → s.reg 0x2D70 1 = tp →
    ∃ t, exec (.injectVaneVccoFault q) s = .next t ∧ acts s t q (evCode 1 7 (tpBank tp) 6) ∧
      (t.bank (tpBank tp)).vccoParked = true ∧ (t.bank (tpBank tp)).mV = (s.bank (tpBank tp)).mV) ∧
  (∀ (s : State) (q : Req) (tp : Nat), WriteAllowed s q 0x2D70 2 7 = true → s.reg 0x2D70 1 = tp →
    ∃ t, exec (.injectVaneCalibrationLimit q) s = .next t ∧ acts s t q (evCode 1 7 (tpBank tp) 8) ∧
      (t.vane tp).degraded = true) ∧
  (∀ (s : State) (q : Req) (h : Nat), WriteAllowed s q 0x2DA0 3 1 = true → s.reg 0x2DA0 1 = h → h < 4 →
    (s.port h).link = 2 →
    ∃ t, exec (.injectPcieLinkDown q) s = .next t ∧ acts s t q (evCode 4 10 h 2) ∧ (t.port h).link = 0) ∧
  (∀ (s : State) (q : Req) (h c : Nat), WriteAllowed s q 0x2DA0 3 3 = true → s.reg 0x2DA0 1 = h → s.reg 0x2DA0 2 = c →
    (s.dma h c).enable = true →
    ∃ t, exec (.injectDoorbellOverrun q) s = .next t ∧ acts s t q (evCode 4 10 h 5) ∧ (t.dma h c).st = 3) ∧
  (∀ (s : State) (q : Req) (p : Nat), WriteAllowed s q 0x2DB0 2 1 = true → s.reg 0x2DB0 1 = p →
    s.ecat.link.getLsbD p = true →
    ∃ t, exec (.injectEcatLinkLoss q) s = .next t ∧ acts s t q (evCode 4 11 p 4) ∧ t.ecat.link.getLsbD p = false) ∧
  (∀ (s : State) (q : Req), WriteAllowed s q 0x2DB0 2 2 = true → s.ecat.al = .op →
    ∃ t, exec (.injectSmWatchdog q) s = .next t ∧ acts s t q 0x40B00002 ∧ t.ecat.al = .safeop ∧ t.ecat.code = 0x001B) ∧
  (∀ (s : State) (q : Req), WriteAllowed s q 0x2DC0 1 4 = true →
    ∃ t, exec (.injectBootDirectoryEmpty q) s = .next t ∧ t.reply q.owner = .done ∧ t.loader = { s.loader with injDir := true } ∧
      OnlyTouches (.belfry :: .loader :: answerAreas) s t) ∧
  (∀ (i : Req → Instr) (code w : Nat), (i, code, w) ∈ [(Instr.injectFrameBitFlip, 1, 1), (Instr.injectFrameTripleFlip, 2, 3),
      (Instr.injectFrameAndTwinFlip, 3, 3), (Instr.injectFrameStuckBit, 4, 1)] →
    ∀ (s : State) (q : Req) (n : Nat), WriteAllowed s q 0x2DD0 2 code = true →
    frameOf (BitVec.ofNat 32 (s.reg 0x2DD0 1)) = some n → (s.watch.stuck.find? fun x => x.1 == n) = none →
    ∃ t, exec (i q) s = .next t ∧ arms s t q { obj := 0x2DD0, code := code, target := n, target2 := 0 } ∧
      runGet t.loader.active n = flipAll (runGet s.loader.active n) (injectedBits s.free w) ∧
      (code ≠ 3 → t.loader.staging = s.loader.staging) ∧ t.loader.activeRef = s.loader.activeRef ∧
      OnlyTouches (.belfry :: .inject :: .loader :: .watch :: .free :: answerAreas) s t) ∧
  (∀ (s : State) (q : Req), WriteAllowed s q 0x2DD0 2 5 = true →
    ∃ t, exec (.injectWithheldHeartbeat q) s = .next t ∧
      arms s t q { obj := 0x2DD0, code := 5, target := noFrame, target2 := 0 } ∧
      OnlyTouches (.belfry :: .inject :: answerAreas) s t) ∧
  (∀ (s : State) (q : Req), WriteAllowed s q 0x2DD0 2 6 = true →
    ∃ t, exec (.injectPassPointerCorruption q) s = .next t ∧
      arms s t q { obj := 0x2DD0, code := 6, target := noFrame, target2 := 0 } ∧
      t.watch = { s.watch with ptr2 := s.watch.ptr + 1 } ∧
      OnlyTouches (.belfry :: .inject :: .watch :: answerAreas) s t) ∧
  (∀ (i : Req → Instr) (code : Nat), (i, code) ∈ [(Instr.injectCrcSingleError, 1), (Instr.injectCrcUncorrectable, 2)] →
    ∀ (s : State) (q : Req) (n : Nat), WriteAllowed s q 0x2DD1 2 code = true →
    frameOf (BitVec.ofNat 32 (s.reg 0x2DD1 1)) = some n →
    ∃ t, exec (i q) s = .next t ∧ arms s t q { obj := 0x2DD1, code := code, target := n, target2 := 0 } ∧
      OnlyTouches (.belfry :: .inject :: answerAreas) s t) ∧
  (∀ (s : State) (q : Req) (n : Nat), WriteAllowed s q 0x2DE0 3 2 = true → s.reg 0x2DE0 1 = n → n < 20 → s.serving = true →
    ∃ t, exec (.injectPowerFault q) s = .next t ∧ t.reply q.owner = .done ∧ t.dev.st = .safe ∧
      t.dev.cause = evCode 4 14 n 5) ∧
  (∀ (s : State) (q : Req) (n : Nat), WriteAllowed s q 0x2DE0 3 3 = true → s.reg 0x2DE0 1 = n →
    n ∈ [32, 33, 36, 37, 39] → s.serving = true →
    ∃ t, exec (.injectClockLoss q) s = .next t ∧ t.reply q.owner = .done ∧ t.dev.st = .safe ∧
      t.dev.cause = evCode 4 14 n 6) ∧
  (∀ (s : State) (q : Req) (n : Nat), WriteAllowed s q 0x2DE0 3 3 = true → s.reg 0x2DE0 1 = n → n ∈ [34, 35, 38] →
    ∃ t, exec (.injectClockLoss q) s = .next t ∧ acts s t q (evCode 4 14 n 7) ∧ t.dev.st = s.dev.st) ∧
  (∀ (i : Req → Instr) (code ev : Nat), (i, code, ev) ∈ [(Instr.injectWatchdogExpiry, 4, 0x40E00010),
      (Instr.injectSramUncorrectable, 5, 0x40E00011)] →
    ∀ (s : State) (q : Req), WriteAllowed s q 0x2DE0 3 code = true → s.serving = true →
    ∃ t, exec (i q) s = .next t ∧ t.reply q.owner = .done ∧ t.dev.st = .safe ∧ t.dev.cause = ev ∧
      t.lantern.running = false) ∧
  (∀ (s : State) (q : Req), WriteAllowed s q 0x2DE0 3 6 = true →
    ∃ t, exec (.injectSramCorrectable q) s = .next t ∧ acts s t q 0x40E00012 ∧ t.lantern.sramCorrected = true ∧
      t.reg 0x2002 7 = sat32 (s.reg 0x2002 7 + 1) ∧ t.dev.st = s.dev.st) ∧
  (∀ (s : State) (q : Req), WriteAllowed s q 0x2DF0 1 3 = true → s.reg 0x2C18 5 = 1 → s.triggerBlocked 0 = false →
    s.reg 0x2C18 3 = 0 →
    ∃ t, exec (.injectTriggerFire q) s = .next t ∧ t.reply q.owner = .done ∧ t.reg 0x2C18 5 = 0 ∧
      t.reg 0x2DFF 3 = sat32 (s.reg 0x2DFF 3 + 1) ∧ OnlyTouches (.belfry :: answerAreas) s t)

/-! ### The whole machine -/

/-- R32: a command leaves the device state, moves it along a transition of the table, or passes REDUCED on its way to FULL
where every readiness bit is set at entry. -/
def Obligations.DeviceStatesFollowTheTable : Prop :=
  ∀ (c : Instr) (s t : State), exec c s = .next t →
    t.dev.st = s.dev.st ∨ DeviceState.edge s.dev.st t.dev.st = true ∨
      (DeviceState.edge s.dev.st .reduced = true ∧ t.dev.st = .full ∧ t.dev.prev = .reduced ∧ t.readiness = 15)

/-- The canonical form of the memories, of the DRAM bytes, of the SII and of the configuration planes, and the staged
streams' disjoint partition sections, are kept by every step. The premises of CommitsRunToTheirRelease and of
StreamsAreStagedOrRefused about planes and sections follow from it. -/
def Obligations.StepsKeepTheCanonicalForm : Prop :=
  ∀ s t : State, s.Canonical → step s = .next t → t.Canonical

/-- The device right after reset: canonical, no command waiting, in REDUCED (R29) with the power-up test running (R396),
injection off (R486), memories and planes 0 (R169, R366), every contract NONE and every region under its hard reset at
M = 80 (R124, R152). That reset means entry to REDUCED after power-up is the model's choice (log entry 2). -/
def Obligations.ResetIsEntryToReduced : Prop :=
  State.reset.Canonical ∧ State.reset.pending = [] ∧ State.reset.dev.st = .reduced ∧ State.reset.test.st = 1 ∧
    State.reset.inject = {} ∧ (∀ k, Mem.get State.reset.mem.bm k = 0#40) ∧ (∀ k, Mem.get State.reset.mem.sp k = 0#256) ∧
    (∀ n, runGet State.reset.loader.active n = 0#2048) ∧ (∀ p, (State.reset.part p).status = .none) ∧
    (∀ r, (State.reset.region r).inReset = true ∧ (State.reset.region r).m = 80 ∧ (State.reset.region r).fenced = false) ∧
    (∀ r, r < 32 → State.reset.reg (0x2500 + r) 1 = 80) ∧ State.reset.lantern.running = true
end

