-- ==== Sys2Proof/Laws/Tables.lean ====
section
/-! SUPPORT. Tables and memories: a read after a write, and that every operation keeps the canonical form. -/

namespace Sys2Proof.Machine

open Sys2Proof

variable {α : Type}

@[simp] theorem Tab.get_nil (d : α) (k : Nat) : Tab.get d [] k = d := rfl

theorem Tab.get_cons (d : α) (i : Nat) (a : α) (t : Tab α) (k : Nat) :
    Tab.get d ((i, a) :: t) k = if i = k then a else Tab.get d t k := rfl

/-- A read after a write to the same unit gives the record written. -/
@[simp] theorem Tab.get_set_self (d : α) (t : Tab α) (k : Nat) (v : α) : Tab.get d (Tab.set t k v) k = v := by
  induction t with
  | nil => simp [Tab.set, Tab.get]
  | cons x t ih =>
    obtain ⟨i, a⟩ := x
    simp only [Tab.set]
    split
    · simp [Tab.get]
    · split
      · simp [Tab.get]
      · rename_i h _
        simp [Tab.get, h, ih]

/-- A write leaves every other unit alone. -/
@[simp] theorem Tab.get_set_ne (d : α) (t : Tab α) (k j : Nat) (v : α) (h : j ≠ k) :
    Tab.get d (Tab.set t k v) j = Tab.get d t j := by
  induction t with
  | nil => simp [Tab.set, Tab.get, Ne.symm h]
  | cons x t ih =>
    obtain ⟨i, a⟩ := x
    simp only [Tab.set]
    split
    · rename_i e
      simp [Tab.get, Ne.symm h, e]
    · split
      · simp [Tab.get, Ne.symm h]
      · simp [Tab.get, ih]

@[simp] theorem Tab.get_mod_self (d : α) (t : Tab α) (k : Nat) (f : α → α) :
    Tab.get d (Tab.mod d t k f) k = f (Tab.get d t k) := by simp [Tab.mod]

@[simp] theorem Tab.get_mod_ne (d : α) (t : Tab α) (k j : Nat) (f : α → α) (h : j ≠ k) :
    Tab.get d (Tab.mod d t k f) j = Tab.get d t j := by simp [Tab.mod, h]

/-- A key that is dropped reads as not listed. -/
theorem Tab.get_drop_hit (d : α) (p : Nat → Bool) (t : Tab α) (k : Nat) (h : p k = true) :
    Tab.get d (Tab.drop p t) k = d := by
  induction t with
  | nil => rfl
  | cons x t ih =>
    obtain ⟨i, a⟩ := x
    simp only [Tab.drop, List.filter] at *
    split
    · rename_i hp
      have : i ≠ k := by rintro rfl; simp [h] at hp
      simp [Tab.get, this, ih]
    · exact ih

/-- A key that is not dropped reads as before. -/
theorem Tab.get_drop_miss (d : α) (p : Nat → Bool) (t : Tab α) (k : Nat) (h : p k = false) :
    Tab.get d (Tab.drop p t) k = Tab.get d t k := by
  induction t with
  | nil => rfl
  | cons x t ih =>
    obtain ⟨i, a⟩ := x
    simp only [Tab.drop, List.filter] at *
    split
    · simp [Tab.get, ih]
    · rename_i hp
      have : i ≠ k := by rintro rfl; simp [h] at hp
      simp [Tab.get, this, ih]

/-- A record of the default that f keeps: mapping reads as f of what was there. -/
theorem Tab.get_mapIf (d : α) (p : Nat → Bool) (f : α → α) (hd : f d = d) (t : Tab α) (k : Nat) :
    Tab.get d (Tab.mapIf p f t) k = if p k then f (Tab.get d t k) else Tab.get d t k := by
  induction t with
  | nil => simp [Tab.mapIf, Tab.get, hd]
  | cons x t ih =>
    obtain ⟨i, a⟩ := x
    simp only [Tab.mapIf, List.map] at *
    by_cases hp : p i = true
    · simp only [hp, if_true, Tab.get]
      by_cases hk : i = k
      · subst hk; simp [hp]
      · simp only [hk, if_false]; exact ih
    · simp only [hp, if_false, Tab.get, Bool.false_eq_true]
      by_cases hk : i = k
      · subst hk; simp [hp]
      · simp only [hk, if_false]; exact ih

/-! ### Bits -/

/-- The bits of a one shifted to its place. -/
theorem getLsbD_one_shiftLeft (w d n : Nat) : (1#w <<< d).getLsbD n = (decide (n = d) && decide (d < w)) := by
  by_cases h : n = d
  · subst h
    by_cases hn : n < w
    · have : 0 < w := by omega
      simp [hn, this]
    · simp [hn]
  · by_cases hn : n < d
    · simp [hn, h]
    · have : n - d ≠ 0 := by omega
      simp [h, BitVec.getLsbD_one, this]

/-! ### Memories -/

/-- A read after a write to the same word gives the word written. -/
@[simp] theorem Mem.get_set_self {w : Nat} (m : Mem w) (k : Nat) (v : BitVec w) : (Mem.set m k v).get k = v := by
  unfold Mem.set Mem.get
  split
  · rename_i h; rw [h]; exact Tab.get_drop_hit _ _ _ _ (by simp)
  · exact Tab.get_set_self _ _ _ _

/-- A write leaves every other word alone. -/
@[simp] theorem Mem.get_set_ne {w : Nat} (m : Mem w) (k j : Nat) (v : BitVec w) (h : j ≠ k) :
    (Mem.set m k v).get j = m.get j := by
  unfold Mem.set Mem.get
  split
  · exact Tab.get_drop_miss _ _ _ _ (by simp [h])
  · exact Tab.get_set_ne _ _ _ _ _ h

/-- A cleared word is 0, and every other word is as before. -/
theorem Mem.get_clear {w : Nat} (m : Mem w) (lo hi k : Nat) :
    (Mem.clear m lo hi).get k = if lo ≤ k ∧ k < hi then 0#w else m.get k := by
  unfold Mem.clear Mem.get
  by_cases h : lo ≤ k ∧ k < hi
  · rw [if_pos h]; exact Tab.get_drop_hit _ _ _ _ (by simp [h])
  · rw [if_neg h]
    apply Tab.get_drop_miss
    simp only [Bool.and_eq_false_iff, decide_eq_false_iff_not]
    tauto

/-! ### The canonical form -/

theorem Tab.sorted_cons (x : Nat × α) (t : Tab α) :
    Tab.sorted (x :: t) = true ↔ (∀ y ∈ t, x.1 < y.1) ∧ Tab.sorted t = true := by
  induction t generalizing x with
  | nil => simp [Tab.sorted]
  | cons y t ih =>
    simp only [Tab.sorted, Bool.and_eq_true, decide_eq_true_eq, List.mem_cons, forall_eq_or_imp]
    constructor
    · rintro ⟨h, hs⟩
      exact ⟨⟨h, fun z hz => Nat.lt_trans h ((ih y).1 hs |>.1 z hz)⟩, hs⟩
    · rintro ⟨⟨h, _⟩, hs⟩
      exact ⟨h, hs⟩

theorem Tab.mem_set {t : Tab α} {k : Nat} {v : α} {y : Nat × α} (h : y ∈ Tab.set t k v) : y = (k, v) ∨ y ∈ t := by
  induction t with
  | nil => simp_all [Tab.set]
  | cons x t ih =>
    obtain ⟨i, a⟩ := x
    simp only [Tab.set] at h
    split at h
    · simp only [List.mem_cons] at h ⊢; tauto
    · split at h
      · simp only [List.mem_cons] at h ⊢; tauto
      · simp only [List.mem_cons] at h ⊢
        rcases h with h | h
        · exact .inr (.inl h)
        · rcases ih h with h | h
          · exact .inl h
          · exact .inr (.inr h)

/-- Setting a record keeps the keys rising. -/
theorem Tab.sorted_set (t : Tab α) (k : Nat) (v : α) (h : Tab.sorted t = true) : Tab.sorted (Tab.set t k v) = true := by
  induction t with
  | nil => rfl
  | cons x t ih =>
    obtain ⟨i, a⟩ := x
    rw [Tab.sorted_cons] at h
    simp only [Tab.set]
    split
    · rename_i e
      subst e
      exact (Tab.sorted_cons _ _).2 h
    · split
      · rename_i hk
        refine (Tab.sorted_cons _ _).2 ⟨?_, (Tab.sorted_cons _ _).2 h⟩
        intro y hy
        simp only [List.mem_cons] at hy
        rcases hy with rfl | hy
        · exact hk
        · exact Nat.lt_trans hk (h.1 y hy)
      · rename_i hne hk
        refine (Tab.sorted_cons _ _).2 ⟨?_, ih h.2⟩
        intro y hy
        rcases Tab.mem_set hy with rfl | hy
        · show i < k
          omega
        · exact h.1 y hy

/-- Dropping records keeps the keys rising. -/
theorem Tab.sorted_filter (p : Nat × α → Bool) (t : Tab α) (h : Tab.sorted t = true) :
    Tab.sorted (α := α) (t.filter p) = true := by
  induction t with
  | nil => rfl
  | cons x t ih =>
    rw [Tab.sorted_cons] at h
    simp only [List.filter]
    split
    · exact (Tab.sorted_cons _ _).2 ⟨fun y hy => h.1 y (List.mem_filter.1 hy).1, ih h.2⟩
    · exact ih h.2

theorem Tab.sorted_drop (p : Nat → Bool) (t : Tab α) (h : Tab.sorted t = true) : Tab.sorted (Tab.drop p t) = true :=
  Tab.sorted_filter _ t h

/-- Changing records without their keys keeps the keys rising. -/
theorem Tab.sorted_map {β : Type} (f : Nat × α → Nat × β) (hf : ∀ x, (f x).1 = x.1) (t : Tab α)
    (h : Tab.sorted t = true) : Tab.sorted (α := β) (t.map f) = true := by
  induction t with
  | nil => rfl
  | cons x t ih =>
    rw [Tab.sorted_cons] at h
    refine (Tab.sorted_cons _ _).2 ⟨?_, ih h.2⟩
    intro y hy
    obtain ⟨z, hz, rfl⟩ := List.mem_map.1 hy
    rw [hf, hf]
    exact h.1 z hz

theorem Tab.sorted_mapIf (p : Nat → Bool) (f : α → α) (t : Tab α) (h : Tab.sorted t = true) :
    Tab.sorted (Tab.mapIf p f t) = true :=
  Tab.sorted_map _ (fun x => by split <;> rfl) t h

theorem Mem.wf_nil {w : Nat} : Mem.wf ([] : Mem w) = true := rfl

theorem Mem.wf_filter {w : Nat} (p : Nat × BitVec w → Bool) (m : Mem w) (h : Mem.wf m = true) :
    Mem.wf (w := w) (m.filter p) = true := by
  simp only [Mem.wf, Bool.and_eq_true, List.all_eq_true] at *
  exact ⟨Tab.sorted_filter p m h.1, fun x hx => h.2 x (List.mem_filter.1 hx).1⟩

/-- A write of a word keeps the canonical form. -/
theorem Mem.wf_set {w : Nat} (m : Mem w) (k : Nat) (v : BitVec w) (h : Mem.wf m = true) :
    Mem.wf (Mem.set m k v) = true := by
  unfold Mem.set
  split
  · exact Mem.wf_filter _ m h
  · rename_i hv
    simp only [Mem.wf, Bool.and_eq_true, List.all_eq_true] at *
    refine ⟨Tab.sorted_set _ _ _ h.1, fun x hx => ?_⟩
    rcases Tab.mem_set hx with rfl | hx
    · simp [hv]
    · exact h.2 x hx

/-- A clear keeps the canonical form. -/
theorem Mem.wf_clear {w : Nat} (m : Mem w) (lo hi : Nat) (h : Mem.wf m = true) : Mem.wf (Mem.clear m lo hi) = true :=
  Mem.wf_filter _ m h

end Sys2Proof.Machine
end

