-- ==== Sys2Proof/Laws/State.lean ====
section
/-! SUPPORT. One lemma per part of the state and per update of it: what the named operations over State change and what
they leave alone, so that no proof unfolds a record update. -/

namespace Sys2Proof.Machine

open Sys2Proof

@[simp] theorem act_eq (s : State) (f : Chip → Chip) : act s f = .next { s with toChip := f s.toChip } := rfl
@[simp] theorem State.withPending_toChip (s : State) (l : List Instr) : ({ s with pending := l } : State).toChip = s.toChip := rfl

/-! ### modRegion -/

@[simp] theorem Chip.modRegion_dev (b : Chip) (r : Nat) (f : Region → Region) :
    (b.modRegion r f).dev = b.dev := rfl
@[simp] theorem Chip.modRegion_belfry (b : Chip) (r : Nat) (f : Region → Region) :
    (b.modRegion r f).belfry = b.belfry := rfl
@[simp] theorem Chip.modRegion_banks (b : Chip) (r : Nat) (f : Region → Region) :
    (b.modRegion r f).banks = b.banks := rfl
@[simp] theorem Chip.modRegion_vanes (b : Chip) (r : Nat) (f : Region → Region) :
    (b.modRegion r f).vanes = b.vanes := rfl
@[simp] theorem Chip.modRegion_parts (b : Chip) (r : Nat) (f : Region → Region) :
    (b.modRegion r f).parts = b.parts := rfl
@[simp] theorem Chip.modRegion_regions (b : Chip) (r : Nat) (f : Region → Region) :
    (b.modRegion r f).regions = Tab.mod {} b.regions r f := rfl
@[simp] theorem Chip.modRegion_lanes (b : Chip) (r : Nat) (f : Region → Region) :
    (b.modRegion r f).lanes = b.lanes := rfl
@[simp] theorem Chip.modRegion_mem (b : Chip) (r : Nat) (f : Region → Region) :
    (b.modRegion r f).mem = b.mem := rfl
@[simp] theorem Chip.modRegion_queues (b : Chip) (r : Nat) (f : Region → Region) :
    (b.modRegion r f).queues = b.queues := rfl
@[simp] theorem Chip.modRegion_slices (b : Chip) (r : Nat) (f : Region → Region) :
    (b.modRegion r f).slices = b.slices := rfl
@[simp] theorem Chip.modRegion_hub (b : Chip) (r : Nat) (f : Region → Region) :
    (b.modRegion r f).hub = b.hub := rfl
@[simp] theorem Chip.modRegion_cupola (b : Chip) (r : Nat) (f : Region → Region) :
    (b.modRegion r f).cupola = b.cupola := rfl
@[simp] theorem Chip.modRegion_ports (b : Chip) (r : Nat) (f : Region → Region) :
    (b.modRegion r f).ports = b.ports := rfl
@[simp] theorem Chip.modRegion_ecat (b : Chip) (r : Nat) (f : Region → Region) :
    (b.modRegion r f).ecat = b.ecat := rfl
@[simp] theorem Chip.modRegion_dict (b : Chip) (r : Nat) (f : Region → Region) :
    (b.modRegion r f).dict = b.dict := rfl
@[simp] theorem Chip.modRegion_loader (b : Chip) (r : Nat) (f : Region → Region) :
    (b.modRegion r f).loader = b.loader := rfl
@[simp] theorem Chip.modRegion_watch (b : Chip) (r : Nat) (f : Region → Region) :
    (b.modRegion r f).watch = b.watch := rfl
@[simp] theorem Chip.modRegion_test (b : Chip) (r : Nat) (f : Region → Region) :
    (b.modRegion r f).test = b.test := rfl
@[simp] theorem Chip.modRegion_aon (b : Chip) (r : Nat) (f : Region → Region) :
    (b.modRegion r f).aon = b.aon := rfl
@[simp] theorem Chip.modRegion_lantern (b : Chip) (r : Nat) (f : Region → Region) :
    (b.modRegion r f).lantern = b.lantern := rfl
@[simp] theorem Chip.modRegion_log (b : Chip) (r : Nat) (f : Region → Region) :
    (b.modRegion r f).log = b.log := rfl
@[simp] theorem Chip.modRegion_debug (b : Chip) (r : Nat) (f : Region → Region) :
    (b.modRegion r f).dbg = b.dbg := rfl
@[simp] theorem Chip.modRegion_inject (b : Chip) (r : Nat) (f : Region → Region) :
    (b.modRegion r f).inject = b.inject := rfl
@[simp] theorem Chip.modRegion_free (b : Chip) (r : Nat) (f : Region → Region) :
    (b.modRegion r f).free = b.free := rfl

/-! ### modPart -/

@[simp] theorem Chip.modPart_dev (b : Chip) (p : Nat) (f : Partition → Partition) :
    (b.modPart p f).dev = b.dev := rfl
@[simp] theorem Chip.modPart_belfry (b : Chip) (p : Nat) (f : Partition → Partition) :
    (b.modPart p f).belfry = b.belfry := rfl
@[simp] theorem Chip.modPart_banks (b : Chip) (p : Nat) (f : Partition → Partition) :
    (b.modPart p f).banks = b.banks := rfl
@[simp] theorem Chip.modPart_vanes (b : Chip) (p : Nat) (f : Partition → Partition) :
    (b.modPart p f).vanes = b.vanes := rfl
@[simp] theorem Chip.modPart_parts (b : Chip) (p : Nat) (f : Partition → Partition) :
    (b.modPart p f).parts = Tab.mod {} b.parts p f := rfl
@[simp] theorem Chip.modPart_regions (b : Chip) (p : Nat) (f : Partition → Partition) :
    (b.modPart p f).regions = b.regions := rfl
@[simp] theorem Chip.modPart_lanes (b : Chip) (p : Nat) (f : Partition → Partition) :
    (b.modPart p f).lanes = b.lanes := rfl
@[simp] theorem Chip.modPart_mem (b : Chip) (p : Nat) (f : Partition → Partition) :
    (b.modPart p f).mem = b.mem := rfl
@[simp] theorem Chip.modPart_queues (b : Chip) (p : Nat) (f : Partition → Partition) :
    (b.modPart p f).queues = b.queues := rfl
@[simp] theorem Chip.modPart_slices (b : Chip) (p : Nat) (f : Partition → Partition) :
    (b.modPart p f).slices = b.slices := rfl
@[simp] theorem Chip.modPart_hub (b : Chip) (p : Nat) (f : Partition → Partition) :
    (b.modPart p f).hub = b.hub := rfl
@[simp] theorem Chip.modPart_cupola (b : Chip) (p : Nat) (f : Partition → Partition) :
    (b.modPart p f).cupola = b.cupola := rfl
@[simp] theorem Chip.modPart_ports (b : Chip) (p : Nat) (f : Partition → Partition) :
    (b.modPart p f).ports = b.ports := rfl
@[simp] theorem Chip.modPart_ecat (b : Chip) (p : Nat) (f : Partition → Partition) :
    (b.modPart p f).ecat = b.ecat := rfl
@[simp] theorem Chip.modPart_dict (b : Chip) (p : Nat) (f : Partition → Partition) :
    (b.modPart p f).dict = b.dict := rfl
@[simp] theorem Chip.modPart_loader (b : Chip) (p : Nat) (f : Partition → Partition) :
    (b.modPart p f).loader = b.loader := rfl
@[simp] theorem Chip.modPart_watch (b : Chip) (p : Nat) (f : Partition → Partition) :
    (b.modPart p f).watch = b.watch := rfl
@[simp] theorem Chip.modPart_test (b : Chip) (p : Nat) (f : Partition → Partition) :
    (b.modPart p f).test = b.test := rfl
@[simp] theorem Chip.modPart_aon (b : Chip) (p : Nat) (f : Partition → Partition) :
    (b.modPart p f).aon = b.aon := rfl
@[simp] theorem Chip.modPart_lantern (b : Chip) (p : Nat) (f : Partition → Partition) :
    (b.modPart p f).lantern = b.lantern := rfl
@[simp] theorem Chip.modPart_log (b : Chip) (p : Nat) (f : Partition → Partition) :
    (b.modPart p f).log = b.log := rfl
@[simp] theorem Chip.modPart_debug (b : Chip) (p : Nat) (f : Partition → Partition) :
    (b.modPart p f).dbg = b.dbg := rfl
@[simp] theorem Chip.modPart_inject (b : Chip) (p : Nat) (f : Partition → Partition) :
    (b.modPart p f).inject = b.inject := rfl
@[simp] theorem Chip.modPart_free (b : Chip) (p : Nat) (f : Partition → Partition) :
    (b.modPart p f).free = b.free := rfl

/-! ### modBank -/

@[simp] theorem Chip.modBank_dev (b : Chip) (k : Nat) (f : Bank → Bank) :
    (b.modBank k f).dev = b.dev := rfl
@[simp] theorem Chip.modBank_belfry (b : Chip) (k : Nat) (f : Bank → Bank) :
    (b.modBank k f).belfry = b.belfry := rfl
@[simp] theorem Chip.modBank_banks (b : Chip) (k : Nat) (f : Bank → Bank) :
    (b.modBank k f).banks = Tab.mod {} b.banks k f := rfl
@[simp] theorem Chip.modBank_vanes (b : Chip) (k : Nat) (f : Bank → Bank) :
    (b.modBank k f).vanes = b.vanes := rfl
@[simp] theorem Chip.modBank_parts (b : Chip) (k : Nat) (f : Bank → Bank) :
    (b.modBank k f).parts = b.parts := rfl
@[simp] theorem Chip.modBank_regions (b : Chip) (k : Nat) (f : Bank → Bank) :
    (b.modBank k f).regions = b.regions := rfl
@[simp] theorem Chip.modBank_lanes (b : Chip) (k : Nat) (f : Bank → Bank) :
    (b.modBank k f).lanes = b.lanes := rfl
@[simp] theorem Chip.modBank_mem (b : Chip) (k : Nat) (f : Bank → Bank) :
    (b.modBank k f).mem = b.mem := rfl
@[simp] theorem Chip.modBank_queues (b : Chip) (k : Nat) (f : Bank → Bank) :
    (b.modBank k f).queues = b.queues := rfl
@[simp] theorem Chip.modBank_slices (b : Chip) (k : Nat) (f : Bank → Bank) :
    (b.modBank k f).slices = b.slices := rfl
@[simp] theorem Chip.modBank_hub (b : Chip) (k : Nat) (f : Bank → Bank) :
    (b.modBank k f).hub = b.hub := rfl
@[simp] theorem Chip.modBank_cupola (b : Chip) (k : Nat) (f : Bank → Bank) :
    (b.modBank k f).cupola = b.cupola := rfl
@[simp] theorem Chip.modBank_ports (b : Chip) (k : Nat) (f : Bank → Bank) :
    (b.modBank k f).ports = b.ports := rfl
@[simp] theorem Chip.modBank_ecat (b : Chip) (k : Nat) (f : Bank → Bank) :
    (b.modBank k f).ecat = b.ecat := rfl
@[simp] theorem Chip.modBank_dict (b : Chip) (k : Nat) (f : Bank → Bank) :
    (b.modBank k f).dict = b.dict := rfl
@[simp] theorem Chip.modBank_loader (b : Chip) (k : Nat) (f : Bank → Bank) :
    (b.modBank k f).loader = b.loader := rfl
@[simp] theorem Chip.modBank_watch (b : Chip) (k : Nat) (f : Bank → Bank) :
    (b.modBank k f).watch = b.watch := rfl
@[simp] theorem Chip.modBank_test (b : Chip) (k : Nat) (f : Bank → Bank) :
    (b.modBank k f).test = b.test := rfl
@[simp] theorem Chip.modBank_aon (b : Chip) (k : Nat) (f : Bank → Bank) :
    (b.modBank k f).aon = b.aon := rfl
@[simp] theorem Chip.modBank_lantern (b : Chip) (k : Nat) (f : Bank → Bank) :
    (b.modBank k f).lantern = b.lantern := rfl
@[simp] theorem Chip.modBank_log (b : Chip) (k : Nat) (f : Bank → Bank) :
    (b.modBank k f).log = b.log := rfl
@[simp] theorem Chip.modBank_debug (b : Chip) (k : Nat) (f : Bank → Bank) :
    (b.modBank k f).dbg = b.dbg := rfl
@[simp] theorem Chip.modBank_inject (b : Chip) (k : Nat) (f : Bank → Bank) :
    (b.modBank k f).inject = b.inject := rfl
@[simp] theorem Chip.modBank_free (b : Chip) (k : Nat) (f : Bank → Bank) :
    (b.modBank k f).free = b.free := rfl

/-! ### modVane -/

@[simp] theorem Chip.modVane_dev (b : Chip) (tp : Nat) (f : Vane → Vane) :
    (b.modVane tp f).dev = b.dev := rfl
@[simp] theorem Chip.modVane_belfry (b : Chip) (tp : Nat) (f : Vane → Vane) :
    (b.modVane tp f).belfry = b.belfry := rfl
@[simp] theorem Chip.modVane_banks (b : Chip) (tp : Nat) (f : Vane → Vane) :
    (b.modVane tp f).banks = b.banks := rfl
@[simp] theorem Chip.modVane_vanes (b : Chip) (tp : Nat) (f : Vane → Vane) :
    (b.modVane tp f).vanes = Tab.mod {} b.vanes tp f := rfl
@[simp] theorem Chip.modVane_parts (b : Chip) (tp : Nat) (f : Vane → Vane) :
    (b.modVane tp f).parts = b.parts := rfl
@[simp] theorem Chip.modVane_regions (b : Chip) (tp : Nat) (f : Vane → Vane) :
    (b.modVane tp f).regions = b.regions := rfl
@[simp] theorem Chip.modVane_lanes (b : Chip) (tp : Nat) (f : Vane → Vane) :
    (b.modVane tp f).lanes = b.lanes := rfl
@[simp] theorem Chip.modVane_mem (b : Chip) (tp : Nat) (f : Vane → Vane) :
    (b.modVane tp f).mem = b.mem := rfl
@[simp] theorem Chip.modVane_queues (b : Chip) (tp : Nat) (f : Vane → Vane) :
    (b.modVane tp f).queues = b.queues := rfl
@[simp] theorem Chip.modVane_slices (b : Chip) (tp : Nat) (f : Vane → Vane) :
    (b.modVane tp f).slices = b.slices := rfl
@[simp] theorem Chip.modVane_hub (b : Chip) (tp : Nat) (f : Vane → Vane) :
    (b.modVane tp f).hub = b.hub := rfl
@[simp] theorem Chip.modVane_cupola (b : Chip) (tp : Nat) (f : Vane → Vane) :
    (b.modVane tp f).cupola = b.cupola := rfl
@[simp] theorem Chip.modVane_ports (b : Chip) (tp : Nat) (f : Vane → Vane) :
    (b.modVane tp f).ports = b.ports := rfl
@[simp] theorem Chip.modVane_ecat (b : Chip) (tp : Nat) (f : Vane → Vane) :
    (b.modVane tp f).ecat = b.ecat := rfl
@[simp] theorem Chip.modVane_dict (b : Chip) (tp : Nat) (f : Vane → Vane) :
    (b.modVane tp f).dict = b.dict := rfl
@[simp] theorem Chip.modVane_loader (b : Chip) (tp : Nat) (f : Vane → Vane) :
    (b.modVane tp f).loader = b.loader := rfl
@[simp] theorem Chip.modVane_watch (b : Chip) (tp : Nat) (f : Vane → Vane) :
    (b.modVane tp f).watch = b.watch := rfl
@[simp] theorem Chip.modVane_test (b : Chip) (tp : Nat) (f : Vane → Vane) :
    (b.modVane tp f).test = b.test := rfl
@[simp] theorem Chip.modVane_aon (b : Chip) (tp : Nat) (f : Vane → Vane) :
    (b.modVane tp f).aon = b.aon := rfl
@[simp] theorem Chip.modVane_lantern (b : Chip) (tp : Nat) (f : Vane → Vane) :
    (b.modVane tp f).lantern = b.lantern := rfl
@[simp] theorem Chip.modVane_log (b : Chip) (tp : Nat) (f : Vane → Vane) :
    (b.modVane tp f).log = b.log := rfl
@[simp] theorem Chip.modVane_debug (b : Chip) (tp : Nat) (f : Vane → Vane) :
    (b.modVane tp f).dbg = b.dbg := rfl
@[simp] theorem Chip.modVane_inject (b : Chip) (tp : Nat) (f : Vane → Vane) :
    (b.modVane tp f).inject = b.inject := rfl
@[simp] theorem Chip.modVane_free (b : Chip) (tp : Nat) (f : Vane → Vane) :
    (b.modVane tp f).free = b.free := rfl

/-! ### modPort -/

@[simp] theorem Chip.modPort_dev (b : Chip) (h : Nat) (f : HostPort → HostPort) :
    (b.modPort h f).dev = b.dev := rfl
@[simp] theorem Chip.modPort_belfry (b : Chip) (h : Nat) (f : HostPort → HostPort) :
    (b.modPort h f).belfry = b.belfry := rfl
@[simp] theorem Chip.modPort_banks (b : Chip) (h : Nat) (f : HostPort → HostPort) :
    (b.modPort h f).banks = b.banks := rfl
@[simp] theorem Chip.modPort_vanes (b : Chip) (h : Nat) (f : HostPort → HostPort) :
    (b.modPort h f).vanes = b.vanes := rfl
@[simp] theorem Chip.modPort_parts (b : Chip) (h : Nat) (f : HostPort → HostPort) :
    (b.modPort h f).parts = b.parts := rfl
@[simp] theorem Chip.modPort_regions (b : Chip) (h : Nat) (f : HostPort → HostPort) :
    (b.modPort h f).regions = b.regions := rfl
@[simp] theorem Chip.modPort_lanes (b : Chip) (h : Nat) (f : HostPort → HostPort) :
    (b.modPort h f).lanes = b.lanes := rfl
@[simp] theorem Chip.modPort_mem (b : Chip) (h : Nat) (f : HostPort → HostPort) :
    (b.modPort h f).mem = b.mem := rfl
@[simp] theorem Chip.modPort_queues (b : Chip) (h : Nat) (f : HostPort → HostPort) :
    (b.modPort h f).queues = b.queues := rfl
@[simp] theorem Chip.modPort_slices (b : Chip) (h : Nat) (f : HostPort → HostPort) :
    (b.modPort h f).slices = b.slices := rfl
@[simp] theorem Chip.modPort_hub (b : Chip) (h : Nat) (f : HostPort → HostPort) :
    (b.modPort h f).hub = b.hub := rfl
@[simp] theorem Chip.modPort_cupola (b : Chip) (h : Nat) (f : HostPort → HostPort) :
    (b.modPort h f).cupola = b.cupola := rfl
@[simp] theorem Chip.modPort_ports (b : Chip) (h : Nat) (f : HostPort → HostPort) :
    (b.modPort h f).ports = Tab.mod {} b.ports h f := rfl
@[simp] theorem Chip.modPort_ecat (b : Chip) (h : Nat) (f : HostPort → HostPort) :
    (b.modPort h f).ecat = b.ecat := rfl
@[simp] theorem Chip.modPort_dict (b : Chip) (h : Nat) (f : HostPort → HostPort) :
    (b.modPort h f).dict = b.dict := rfl
@[simp] theorem Chip.modPort_loader (b : Chip) (h : Nat) (f : HostPort → HostPort) :
    (b.modPort h f).loader = b.loader := rfl
@[simp] theorem Chip.modPort_watch (b : Chip) (h : Nat) (f : HostPort → HostPort) :
    (b.modPort h f).watch = b.watch := rfl
@[simp] theorem Chip.modPort_test (b : Chip) (h : Nat) (f : HostPort → HostPort) :
    (b.modPort h f).test = b.test := rfl
@[simp] theorem Chip.modPort_aon (b : Chip) (h : Nat) (f : HostPort → HostPort) :
    (b.modPort h f).aon = b.aon := rfl
@[simp] theorem Chip.modPort_lantern (b : Chip) (h : Nat) (f : HostPort → HostPort) :
    (b.modPort h f).lantern = b.lantern := rfl
@[simp] theorem Chip.modPort_log (b : Chip) (h : Nat) (f : HostPort → HostPort) :
    (b.modPort h f).log = b.log := rfl
@[simp] theorem Chip.modPort_debug (b : Chip) (h : Nat) (f : HostPort → HostPort) :
    (b.modPort h f).dbg = b.dbg := rfl
@[simp] theorem Chip.modPort_inject (b : Chip) (h : Nat) (f : HostPort → HostPort) :
    (b.modPort h f).inject = b.inject := rfl
@[simp] theorem Chip.modPort_free (b : Chip) (h : Nat) (f : HostPort → HostPort) :
    (b.modPort h f).free = b.free := rfl

/-! ### modProt -/

@[simp] theorem Chip.modProt_dev (b : Chip) (rr : Nat) (f : ProtRegion → ProtRegion) :
    (b.modProt rr f).dev = b.dev := rfl
@[simp] theorem Chip.modProt_belfry (b : Chip) (rr : Nat) (f : ProtRegion → ProtRegion) :
    (b.modProt rr f).belfry = b.belfry := rfl
@[simp] theorem Chip.modProt_banks (b : Chip) (rr : Nat) (f : ProtRegion → ProtRegion) :
    (b.modProt rr f).banks = b.banks := rfl
@[simp] theorem Chip.modProt_vanes (b : Chip) (rr : Nat) (f : ProtRegion → ProtRegion) :
    (b.modProt rr f).vanes = b.vanes := rfl
@[simp] theorem Chip.modProt_parts (b : Chip) (rr : Nat) (f : ProtRegion → ProtRegion) :
    (b.modProt rr f).parts = b.parts := rfl
@[simp] theorem Chip.modProt_regions (b : Chip) (rr : Nat) (f : ProtRegion → ProtRegion) :
    (b.modProt rr f).regions = b.regions := rfl
@[simp] theorem Chip.modProt_lanes (b : Chip) (rr : Nat) (f : ProtRegion → ProtRegion) :
    (b.modProt rr f).lanes = b.lanes := rfl
@[simp] theorem Chip.modProt_mem (b : Chip) (rr : Nat) (f : ProtRegion → ProtRegion) :
    (b.modProt rr f).mem = b.mem := rfl
@[simp] theorem Chip.modProt_queues (b : Chip) (rr : Nat) (f : ProtRegion → ProtRegion) :
    (b.modProt rr f).queues = b.queues := rfl
@[simp] theorem Chip.modProt_slices (b : Chip) (rr : Nat) (f : ProtRegion → ProtRegion) :
    (b.modProt rr f).slices = b.slices := rfl
@[simp] theorem Chip.modProt_hub (b : Chip) (rr : Nat) (f : ProtRegion → ProtRegion) :
    (b.modProt rr f).hub = b.hub := rfl
@[simp] theorem Chip.modProt_cupola (b : Chip) (rr : Nat) (f : ProtRegion → ProtRegion) :
    (b.modProt rr f).cupola = { b.cupola with regions := Tab.mod {} b.cupola.regions rr f } := rfl
@[simp] theorem Chip.modProt_ports (b : Chip) (rr : Nat) (f : ProtRegion → ProtRegion) :
    (b.modProt rr f).ports = b.ports := rfl
@[simp] theorem Chip.modProt_ecat (b : Chip) (rr : Nat) (f : ProtRegion → ProtRegion) :
    (b.modProt rr f).ecat = b.ecat := rfl
@[simp] theorem Chip.modProt_dict (b : Chip) (rr : Nat) (f : ProtRegion → ProtRegion) :
    (b.modProt rr f).dict = b.dict := rfl
@[simp] theorem Chip.modProt_loader (b : Chip) (rr : Nat) (f : ProtRegion → ProtRegion) :
    (b.modProt rr f).loader = b.loader := rfl
@[simp] theorem Chip.modProt_watch (b : Chip) (rr : Nat) (f : ProtRegion → ProtRegion) :
    (b.modProt rr f).watch = b.watch := rfl
@[simp] theorem Chip.modProt_test (b : Chip) (rr : Nat) (f : ProtRegion → ProtRegion) :
    (b.modProt rr f).test = b.test := rfl
@[simp] theorem Chip.modProt_aon (b : Chip) (rr : Nat) (f : ProtRegion → ProtRegion) :
    (b.modProt rr f).aon = b.aon := rfl
@[simp] theorem Chip.modProt_lantern (b : Chip) (rr : Nat) (f : ProtRegion → ProtRegion) :
    (b.modProt rr f).lantern = b.lantern := rfl
@[simp] theorem Chip.modProt_log (b : Chip) (rr : Nat) (f : ProtRegion → ProtRegion) :
    (b.modProt rr f).log = b.log := rfl
@[simp] theorem Chip.modProt_debug (b : Chip) (rr : Nat) (f : ProtRegion → ProtRegion) :
    (b.modProt rr f).dbg = b.dbg := rfl
@[simp] theorem Chip.modProt_inject (b : Chip) (rr : Nat) (f : ProtRegion → ProtRegion) :
    (b.modProt rr f).inject = b.inject := rfl
@[simp] theorem Chip.modProt_free (b : Chip) (rr : Nat) (f : ProtRegion → ProtRegion) :
    (b.modProt rr f).free = b.free := rfl

/-! ### modChannel -/

@[simp] theorem Chip.modChannel_dev (b : Chip) (c : Nat) (f : Channel → Channel) :
    (b.modChannel c f).dev = b.dev := rfl
@[simp] theorem Chip.modChannel_belfry (b : Chip) (c : Nat) (f : Channel → Channel) :
    (b.modChannel c f).belfry = b.belfry := rfl
@[simp] theorem Chip.modChannel_banks (b : Chip) (c : Nat) (f : Channel → Channel) :
    (b.modChannel c f).banks = b.banks := rfl
@[simp] theorem Chip.modChannel_vanes (b : Chip) (c : Nat) (f : Channel → Channel) :
    (b.modChannel c f).vanes = b.vanes := rfl
@[simp] theorem Chip.modChannel_parts (b : Chip) (c : Nat) (f : Channel → Channel) :
    (b.modChannel c f).parts = b.parts := rfl
@[simp] theorem Chip.modChannel_regions (b : Chip) (c : Nat) (f : Channel → Channel) :
    (b.modChannel c f).regions = b.regions := rfl
@[simp] theorem Chip.modChannel_lanes (b : Chip) (c : Nat) (f : Channel → Channel) :
    (b.modChannel c f).lanes = b.lanes := rfl
@[simp] theorem Chip.modChannel_mem (b : Chip) (c : Nat) (f : Channel → Channel) :
    (b.modChannel c f).mem = b.mem := rfl
@[simp] theorem Chip.modChannel_queues (b : Chip) (c : Nat) (f : Channel → Channel) :
    (b.modChannel c f).queues = b.queues := rfl
@[simp] theorem Chip.modChannel_slices (b : Chip) (c : Nat) (f : Channel → Channel) :
    (b.modChannel c f).slices = b.slices := rfl
@[simp] theorem Chip.modChannel_hub (b : Chip) (c : Nat) (f : Channel → Channel) :
    (b.modChannel c f).hub = { b.hub with channels := Tab.mod {} b.hub.channels c f } := rfl
@[simp] theorem Chip.modChannel_cupola (b : Chip) (c : Nat) (f : Channel → Channel) :
    (b.modChannel c f).cupola = b.cupola := rfl
@[simp] theorem Chip.modChannel_ports (b : Chip) (c : Nat) (f : Channel → Channel) :
    (b.modChannel c f).ports = b.ports := rfl
@[simp] theorem Chip.modChannel_ecat (b : Chip) (c : Nat) (f : Channel → Channel) :
    (b.modChannel c f).ecat = b.ecat := rfl
@[simp] theorem Chip.modChannel_dict (b : Chip) (c : Nat) (f : Channel → Channel) :
    (b.modChannel c f).dict = b.dict := rfl
@[simp] theorem Chip.modChannel_loader (b : Chip) (c : Nat) (f : Channel → Channel) :
    (b.modChannel c f).loader = b.loader := rfl
@[simp] theorem Chip.modChannel_watch (b : Chip) (c : Nat) (f : Channel → Channel) :
    (b.modChannel c f).watch = b.watch := rfl
@[simp] theorem Chip.modChannel_test (b : Chip) (c : Nat) (f : Channel → Channel) :
    (b.modChannel c f).test = b.test := rfl
@[simp] theorem Chip.modChannel_aon (b : Chip) (c : Nat) (f : Channel → Channel) :
    (b.modChannel c f).aon = b.aon := rfl
@[simp] theorem Chip.modChannel_lantern (b : Chip) (c : Nat) (f : Channel → Channel) :
    (b.modChannel c f).lantern = b.lantern := rfl
@[simp] theorem Chip.modChannel_log (b : Chip) (c : Nat) (f : Channel → Channel) :
    (b.modChannel c f).log = b.log := rfl
@[simp] theorem Chip.modChannel_debug (b : Chip) (c : Nat) (f : Channel → Channel) :
    (b.modChannel c f).dbg = b.dbg := rfl
@[simp] theorem Chip.modChannel_inject (b : Chip) (c : Nat) (f : Channel → Channel) :
    (b.modChannel c f).inject = b.inject := rfl
@[simp] theorem Chip.modChannel_free (b : Chip) (c : Nat) (f : Channel → Channel) :
    (b.modChannel c f).free = b.free := rfl

/-! ### modCmd -/

@[simp] theorem Chip.modCmd_dev (b : Chip) (i : Nat) (f : Cmd → Cmd) :
    (b.modCmd i f).dev = b.dev := rfl
@[simp] theorem Chip.modCmd_belfry (b : Chip) (i : Nat) (f : Cmd → Cmd) :
    (b.modCmd i f).belfry = b.belfry := rfl
@[simp] theorem Chip.modCmd_banks (b : Chip) (i : Nat) (f : Cmd → Cmd) :
    (b.modCmd i f).banks = b.banks := rfl
@[simp] theorem Chip.modCmd_vanes (b : Chip) (i : Nat) (f : Cmd → Cmd) :
    (b.modCmd i f).vanes = b.vanes := rfl
@[simp] theorem Chip.modCmd_parts (b : Chip) (i : Nat) (f : Cmd → Cmd) :
    (b.modCmd i f).parts = b.parts := rfl
@[simp] theorem Chip.modCmd_regions (b : Chip) (i : Nat) (f : Cmd → Cmd) :
    (b.modCmd i f).regions = b.regions := rfl
@[simp] theorem Chip.modCmd_lanes (b : Chip) (i : Nat) (f : Cmd → Cmd) :
    (b.modCmd i f).lanes = b.lanes := rfl
@[simp] theorem Chip.modCmd_mem (b : Chip) (i : Nat) (f : Cmd → Cmd) :
    (b.modCmd i f).mem = b.mem := rfl
@[simp] theorem Chip.modCmd_queues (b : Chip) (i : Nat) (f : Cmd → Cmd) :
    (b.modCmd i f).queues = b.queues := rfl
@[simp] theorem Chip.modCmd_slices (b : Chip) (i : Nat) (f : Cmd → Cmd) :
    (b.modCmd i f).slices = b.slices := rfl
@[simp] theorem Chip.modCmd_hub (b : Chip) (i : Nat) (f : Cmd → Cmd) :
    (b.modCmd i f).hub = b.hub := rfl
@[simp] theorem Chip.modCmd_cupola (b : Chip) (i : Nat) (f : Cmd → Cmd) :
    (b.modCmd i f).cupola = b.cupola := rfl
@[simp] theorem Chip.modCmd_ports (b : Chip) (i : Nat) (f : Cmd → Cmd) :
    (b.modCmd i f).ports = b.ports := rfl
@[simp] theorem Chip.modCmd_ecat (b : Chip) (i : Nat) (f : Cmd → Cmd) :
    (b.modCmd i f).ecat = b.ecat := rfl
@[simp] theorem Chip.modCmd_dict (b : Chip) (i : Nat) (f : Cmd → Cmd) :
    (b.modCmd i f).dict = { b.dict with cmds := Tab.mod {} b.dict.cmds i f } := rfl
@[simp] theorem Chip.modCmd_loader (b : Chip) (i : Nat) (f : Cmd → Cmd) :
    (b.modCmd i f).loader = b.loader := rfl
@[simp] theorem Chip.modCmd_watch (b : Chip) (i : Nat) (f : Cmd → Cmd) :
    (b.modCmd i f).watch = b.watch := rfl
@[simp] theorem Chip.modCmd_test (b : Chip) (i : Nat) (f : Cmd → Cmd) :
    (b.modCmd i f).test = b.test := rfl
@[simp] theorem Chip.modCmd_aon (b : Chip) (i : Nat) (f : Cmd → Cmd) :
    (b.modCmd i f).aon = b.aon := rfl
@[simp] theorem Chip.modCmd_lantern (b : Chip) (i : Nat) (f : Cmd → Cmd) :
    (b.modCmd i f).lantern = b.lantern := rfl
@[simp] theorem Chip.modCmd_log (b : Chip) (i : Nat) (f : Cmd → Cmd) :
    (b.modCmd i f).log = b.log := rfl
@[simp] theorem Chip.modCmd_debug (b : Chip) (i : Nat) (f : Cmd → Cmd) :
    (b.modCmd i f).dbg = b.dbg := rfl
@[simp] theorem Chip.modCmd_inject (b : Chip) (i : Nat) (f : Cmd → Cmd) :
    (b.modCmd i f).inject = b.inject := rfl
@[simp] theorem Chip.modCmd_free (b : Chip) (i : Nat) (f : Cmd → Cmd) :
    (b.modCmd i f).free = b.free := rfl

/-! ### setReg -/

@[simp] theorem Chip.setReg_dev (b : Chip) (i j v : Nat) :
    (b.setReg i j v).dev = b.dev := rfl
@[simp] theorem Chip.setReg_belfry (b : Chip) (i j v : Nat) :
    (b.setReg i j v).belfry = b.belfry := rfl
@[simp] theorem Chip.setReg_banks (b : Chip) (i j v : Nat) :
    (b.setReg i j v).banks = b.banks := rfl
@[simp] theorem Chip.setReg_vanes (b : Chip) (i j v : Nat) :
    (b.setReg i j v).vanes = b.vanes := rfl
@[simp] theorem Chip.setReg_parts (b : Chip) (i j v : Nat) :
    (b.setReg i j v).parts = b.parts := rfl
@[simp] theorem Chip.setReg_regions (b : Chip) (i j v : Nat) :
    (b.setReg i j v).regions = b.regions := rfl
@[simp] theorem Chip.setReg_lanes (b : Chip) (i j v : Nat) :
    (b.setReg i j v).lanes = b.lanes := rfl
@[simp] theorem Chip.setReg_mem (b : Chip) (i j v : Nat) :
    (b.setReg i j v).mem = b.mem := rfl
@[simp] theorem Chip.setReg_queues (b : Chip) (i j v : Nat) :
    (b.setReg i j v).queues = b.queues := rfl
@[simp] theorem Chip.setReg_slices (b : Chip) (i j v : Nat) :
    (b.setReg i j v).slices = b.slices := rfl
@[simp] theorem Chip.setReg_hub (b : Chip) (i j v : Nat) :
    (b.setReg i j v).hub = b.hub := rfl
@[simp] theorem Chip.setReg_cupola (b : Chip) (i j v : Nat) :
    (b.setReg i j v).cupola = b.cupola := rfl
@[simp] theorem Chip.setReg_ports (b : Chip) (i j v : Nat) :
    (b.setReg i j v).ports = b.ports := rfl
@[simp] theorem Chip.setReg_ecat (b : Chip) (i j v : Nat) :
    (b.setReg i j v).ecat = b.ecat := rfl
@[simp] theorem Chip.setReg_dict (b : Chip) (i j v : Nat) :
    (b.setReg i j v).dict = { b.dict with od := Tab.set b.dict.od (key i j) v } := rfl
@[simp] theorem Chip.setReg_loader (b : Chip) (i j v : Nat) :
    (b.setReg i j v).loader = b.loader := rfl
@[simp] theorem Chip.setReg_watch (b : Chip) (i j v : Nat) :
    (b.setReg i j v).watch = b.watch := rfl
@[simp] theorem Chip.setReg_test (b : Chip) (i j v : Nat) :
    (b.setReg i j v).test = b.test := rfl
@[simp] theorem Chip.setReg_aon (b : Chip) (i j v : Nat) :
    (b.setReg i j v).aon = b.aon := rfl
@[simp] theorem Chip.setReg_lantern (b : Chip) (i j v : Nat) :
    (b.setReg i j v).lantern = b.lantern := rfl
@[simp] theorem Chip.setReg_log (b : Chip) (i j v : Nat) :
    (b.setReg i j v).log = b.log := rfl
@[simp] theorem Chip.setReg_debug (b : Chip) (i j v : Nat) :
    (b.setReg i j v).dbg = b.dbg := rfl
@[simp] theorem Chip.setReg_inject (b : Chip) (i j v : Nat) :
    (b.setReg i j v).inject = b.inject := rfl
@[simp] theorem Chip.setReg_free (b : Chip) (i j v : Nat) :
    (b.setReg i j v).free = b.free := rfl

/-! ### clearRegs -/

@[simp] theorem Chip.clearRegs_dev (b : Chip) (i lo hi : Nat) :
    (b.clearRegs i lo hi).dev = b.dev := rfl
@[simp] theorem Chip.clearRegs_belfry (b : Chip) (i lo hi : Nat) :
    (b.clearRegs i lo hi).belfry = b.belfry := rfl
@[simp] theorem Chip.clearRegs_banks (b : Chip) (i lo hi : Nat) :
    (b.clearRegs i lo hi).banks = b.banks := rfl
@[simp] theorem Chip.clearRegs_vanes (b : Chip) (i lo hi : Nat) :
    (b.clearRegs i lo hi).vanes = b.vanes := rfl
@[simp] theorem Chip.clearRegs_parts (b : Chip) (i lo hi : Nat) :
    (b.clearRegs i lo hi).parts = b.parts := rfl
@[simp] theorem Chip.clearRegs_regions (b : Chip) (i lo hi : Nat) :
    (b.clearRegs i lo hi).regions = b.regions := rfl
@[simp] theorem Chip.clearRegs_lanes (b : Chip) (i lo hi : Nat) :
    (b.clearRegs i lo hi).lanes = b.lanes := rfl
@[simp] theorem Chip.clearRegs_mem (b : Chip) (i lo hi : Nat) :
    (b.clearRegs i lo hi).mem = b.mem := rfl
@[simp] theorem Chip.clearRegs_queues (b : Chip) (i lo hi : Nat) :
    (b.clearRegs i lo hi).queues = b.queues := rfl
@[simp] theorem Chip.clearRegs_slices (b : Chip) (i lo hi : Nat) :
    (b.clearRegs i lo hi).slices = b.slices := rfl
@[simp] theorem Chip.clearRegs_hub (b : Chip) (i lo hi : Nat) :
    (b.clearRegs i lo hi).hub = b.hub := rfl
@[simp] theorem Chip.clearRegs_cupola (b : Chip) (i lo hi : Nat) :
    (b.clearRegs i lo hi).cupola = b.cupola := rfl
@[simp] theorem Chip.clearRegs_ports (b : Chip) (i lo hi : Nat) :
    (b.clearRegs i lo hi).ports = b.ports := rfl
@[simp] theorem Chip.clearRegs_ecat (b : Chip) (i lo hi : Nat) :
    (b.clearRegs i lo hi).ecat = b.ecat := rfl
@[simp] theorem Chip.clearRegs_loader (b : Chip) (i lo hi : Nat) :
    (b.clearRegs i lo hi).loader = b.loader := rfl
@[simp] theorem Chip.clearRegs_watch (b : Chip) (i lo hi : Nat) :
    (b.clearRegs i lo hi).watch = b.watch := rfl
@[simp] theorem Chip.clearRegs_test (b : Chip) (i lo hi : Nat) :
    (b.clearRegs i lo hi).test = b.test := rfl
@[simp] theorem Chip.clearRegs_aon (b : Chip) (i lo hi : Nat) :
    (b.clearRegs i lo hi).aon = b.aon := rfl
@[simp] theorem Chip.clearRegs_lantern (b : Chip) (i lo hi : Nat) :
    (b.clearRegs i lo hi).lantern = b.lantern := rfl
@[simp] theorem Chip.clearRegs_log (b : Chip) (i lo hi : Nat) :
    (b.clearRegs i lo hi).log = b.log := rfl
@[simp] theorem Chip.clearRegs_debug (b : Chip) (i lo hi : Nat) :
    (b.clearRegs i lo hi).dbg = b.dbg := rfl
@[simp] theorem Chip.clearRegs_inject (b : Chip) (i lo hi : Nat) :
    (b.clearRegs i lo hi).inject = b.inject := rfl
@[simp] theorem Chip.clearRegs_free (b : Chip) (i lo hi : Nat) :
    (b.clearRegs i lo hi).free = b.free := rfl

/-! ### closeSegment -/

@[simp] theorem Chip.closeSegment_dev (b : Chip) (o : Nat) :
    (b.closeSegment o).dev = b.dev := rfl
@[simp] theorem Chip.closeSegment_belfry (b : Chip) (o : Nat) :
    (b.closeSegment o).belfry = b.belfry := rfl
@[simp] theorem Chip.closeSegment_banks (b : Chip) (o : Nat) :
    (b.closeSegment o).banks = b.banks := rfl
@[simp] theorem Chip.closeSegment_vanes (b : Chip) (o : Nat) :
    (b.closeSegment o).vanes = b.vanes := rfl
@[simp] theorem Chip.closeSegment_parts (b : Chip) (o : Nat) :
    (b.closeSegment o).parts = b.parts := rfl
@[simp] theorem Chip.closeSegment_regions (b : Chip) (o : Nat) :
    (b.closeSegment o).regions = b.regions := rfl
@[simp] theorem Chip.closeSegment_lanes (b : Chip) (o : Nat) :
    (b.closeSegment o).lanes = b.lanes := rfl
@[simp] theorem Chip.closeSegment_mem (b : Chip) (o : Nat) :
    (b.closeSegment o).mem = b.mem := rfl
@[simp] theorem Chip.closeSegment_queues (b : Chip) (o : Nat) :
    (b.closeSegment o).queues = b.queues := rfl
@[simp] theorem Chip.closeSegment_slices (b : Chip) (o : Nat) :
    (b.closeSegment o).slices = b.slices := rfl
@[simp] theorem Chip.closeSegment_hub (b : Chip) (o : Nat) :
    (b.closeSegment o).hub = b.hub := rfl
@[simp] theorem Chip.closeSegment_cupola (b : Chip) (o : Nat) :
    (b.closeSegment o).cupola = b.cupola := rfl
@[simp] theorem Chip.closeSegment_ports (b : Chip) (o : Nat) :
    (b.closeSegment o).ports = b.ports := rfl
@[simp] theorem Chip.closeSegment_ecat (b : Chip) (o : Nat) :
    (b.closeSegment o).ecat = b.ecat := rfl
@[simp] theorem Chip.closeSegment_loader (b : Chip) (o : Nat) :
    (b.closeSegment o).loader = b.loader := rfl
@[simp] theorem Chip.closeSegment_watch (b : Chip) (o : Nat) :
    (b.closeSegment o).watch = b.watch := rfl
@[simp] theorem Chip.closeSegment_test (b : Chip) (o : Nat) :
    (b.closeSegment o).test = b.test := rfl
@[simp] theorem Chip.closeSegment_aon (b : Chip) (o : Nat) :
    (b.closeSegment o).aon = b.aon := rfl
@[simp] theorem Chip.closeSegment_lantern (b : Chip) (o : Nat) :
    (b.closeSegment o).lantern = b.lantern := rfl
@[simp] theorem Chip.closeSegment_log (b : Chip) (o : Nat) :
    (b.closeSegment o).log = b.log := rfl
@[simp] theorem Chip.closeSegment_debug (b : Chip) (o : Nat) :
    (b.closeSegment o).dbg = b.dbg := rfl
@[simp] theorem Chip.closeSegment_inject (b : Chip) (o : Nat) :
    (b.closeSegment o).inject = b.inject := rfl
@[simp] theorem Chip.closeSegment_free (b : Chip) (o : Nat) :
    (b.closeSegment o).free = b.free := rfl

/-! ### tookFree -/

@[simp] theorem Chip.tookFree_dev (b : Chip) :
    (b.tookFree).dev = b.dev := rfl
@[simp] theorem Chip.tookFree_belfry (b : Chip) :
    (b.tookFree).belfry = b.belfry := rfl
@[simp] theorem Chip.tookFree_banks (b : Chip) :
    (b.tookFree).banks = b.banks := rfl
@[simp] theorem Chip.tookFree_vanes (b : Chip) :
    (b.tookFree).vanes = b.vanes := rfl
@[simp] theorem Chip.tookFree_parts (b : Chip) :
    (b.tookFree).parts = b.parts := rfl
@[simp] theorem Chip.tookFree_regions (b : Chip) :
    (b.tookFree).regions = b.regions := rfl
@[simp] theorem Chip.tookFree_lanes (b : Chip) :
    (b.tookFree).lanes = b.lanes := rfl
@[simp] theorem Chip.tookFree_mem (b : Chip) :
    (b.tookFree).mem = b.mem := rfl
@[simp] theorem Chip.tookFree_queues (b : Chip) :
    (b.tookFree).queues = b.queues := rfl
@[simp] theorem Chip.tookFree_slices (b : Chip) :
    (b.tookFree).slices = b.slices := rfl
@[simp] theorem Chip.tookFree_hub (b : Chip) :
    (b.tookFree).hub = b.hub := rfl
@[simp] theorem Chip.tookFree_cupola (b : Chip) :
    (b.tookFree).cupola = b.cupola := rfl
@[simp] theorem Chip.tookFree_ports (b : Chip) :
    (b.tookFree).ports = b.ports := rfl
@[simp] theorem Chip.tookFree_ecat (b : Chip) :
    (b.tookFree).ecat = b.ecat := rfl
@[simp] theorem Chip.tookFree_dict (b : Chip) :
    (b.tookFree).dict = b.dict := rfl
@[simp] theorem Chip.tookFree_loader (b : Chip) :
    (b.tookFree).loader = b.loader := rfl
@[simp] theorem Chip.tookFree_watch (b : Chip) :
    (b.tookFree).watch = b.watch := rfl
@[simp] theorem Chip.tookFree_test (b : Chip) :
    (b.tookFree).test = b.test := rfl
@[simp] theorem Chip.tookFree_aon (b : Chip) :
    (b.tookFree).aon = b.aon := rfl
@[simp] theorem Chip.tookFree_lantern (b : Chip) :
    (b.tookFree).lantern = b.lantern := rfl
@[simp] theorem Chip.tookFree_log (b : Chip) :
    (b.tookFree).log = b.log := rfl
@[simp] theorem Chip.tookFree_debug (b : Chip) :
    (b.tookFree).dbg = b.dbg := rfl
@[simp] theorem Chip.tookFree_inject (b : Chip) :
    (b.tookFree).inject = b.inject := rfl
@[simp] theorem Chip.tookFree_free (b : Chip) :
    (b.tookFree).free = b.free + 1 := rfl

/-! ### upTo -/

@[simp] theorem Chip.upTo_dev (b : Chip) (t : Nat) :
    (b.upTo t).dev = b.dev := rfl
@[simp] theorem Chip.upTo_belfry (b : Chip) (t : Nat) :
    (b.upTo t).belfry = { b.belfry with tick := max b.belfry.tick t % 2 ^ 64 } := rfl
@[simp] theorem Chip.upTo_banks (b : Chip) (t : Nat) :
    (b.upTo t).banks = b.banks := rfl
@[simp] theorem Chip.upTo_vanes (b : Chip) (t : Nat) :
    (b.upTo t).vanes = b.vanes := rfl
@[simp] theorem Chip.upTo_parts (b : Chip) (t : Nat) :
    (b.upTo t).parts = b.parts := rfl
@[simp] theorem Chip.upTo_regions (b : Chip) (t : Nat) :
    (b.upTo t).regions = b.regions := rfl
@[simp] theorem Chip.upTo_lanes (b : Chip) (t : Nat) :
    (b.upTo t).lanes = b.lanes := rfl
@[simp] theorem Chip.upTo_mem (b : Chip) (t : Nat) :
    (b.upTo t).mem = b.mem := rfl
@[simp] theorem Chip.upTo_queues (b : Chip) (t : Nat) :
    (b.upTo t).queues = b.queues := rfl
@[simp] theorem Chip.upTo_slices (b : Chip) (t : Nat) :
    (b.upTo t).slices = b.slices := rfl
@[simp] theorem Chip.upTo_hub (b : Chip) (t : Nat) :
    (b.upTo t).hub = b.hub := rfl
@[simp] theorem Chip.upTo_cupola (b : Chip) (t : Nat) :
    (b.upTo t).cupola = b.cupola := rfl
@[simp] theorem Chip.upTo_ports (b : Chip) (t : Nat) :
    (b.upTo t).ports = b.ports := rfl
@[simp] theorem Chip.upTo_ecat (b : Chip) (t : Nat) :
    (b.upTo t).ecat = b.ecat := rfl
@[simp] theorem Chip.upTo_dict (b : Chip) (t : Nat) :
    (b.upTo t).dict = b.dict := rfl
@[simp] theorem Chip.upTo_loader (b : Chip) (t : Nat) :
    (b.upTo t).loader = b.loader := rfl
@[simp] theorem Chip.upTo_watch (b : Chip) (t : Nat) :
    (b.upTo t).watch = b.watch := rfl
@[simp] theorem Chip.upTo_test (b : Chip) (t : Nat) :
    (b.upTo t).test = b.test := rfl
@[simp] theorem Chip.upTo_aon (b : Chip) (t : Nat) :
    (b.upTo t).aon = b.aon := rfl
@[simp] theorem Chip.upTo_lantern (b : Chip) (t : Nat) :
    (b.upTo t).lantern = b.lantern := rfl
@[simp] theorem Chip.upTo_log (b : Chip) (t : Nat) :
    (b.upTo t).log = b.log := rfl
@[simp] theorem Chip.upTo_debug (b : Chip) (t : Nat) :
    (b.upTo t).dbg = b.dbg := rfl
@[simp] theorem Chip.upTo_inject (b : Chip) (t : Nat) :
    (b.upTo t).inject = b.inject := rfl
@[simp] theorem Chip.upTo_free (b : Chip) (t : Nat) :
    (b.upTo t).free = b.free := rfl

end Sys2Proof.Machine
end

