-- ==== Sys2Proof/Laws/Frames.lean ====
section
/-! SUPPORT. The frames of the operations that many commands share: what an event, an entry, a contract change, a
command's status and an answer leave alone. -/

namespace Sys2Proof.Machine

open Sys2Proof

/-! ### count -/

@[simp] theorem Chip.count_dev (b : Chip) (i j : Nat) :
    (b.count i j).dev = b.dev := rfl
@[simp] theorem Chip.count_belfry (b : Chip) (i j : Nat) :
    (b.count i j).belfry = b.belfry := rfl
@[simp] theorem Chip.count_banks (b : Chip) (i j : Nat) :
    (b.count i j).banks = b.banks := rfl
@[simp] theorem Chip.count_vanes (b : Chip) (i j : Nat) :
    (b.count i j).vanes = b.vanes := rfl
@[simp] theorem Chip.count_parts (b : Chip) (i j : Nat) :
    (b.count i j).parts = b.parts := rfl
@[simp] theorem Chip.count_regions (b : Chip) (i j : Nat) :
    (b.count i j).regions = b.regions := rfl
@[simp] theorem Chip.count_lanes (b : Chip) (i j : Nat) :
    (b.count i j).lanes = b.lanes := rfl
@[simp] theorem Chip.count_mem (b : Chip) (i j : Nat) :
    (b.count i j).mem = b.mem := rfl
@[simp] theorem Chip.count_queues (b : Chip) (i j : Nat) :
    (b.count i j).queues = b.queues := rfl
@[simp] theorem Chip.count_slices (b : Chip) (i j : Nat) :
    (b.count i j).slices = b.slices := rfl
@[simp] theorem Chip.count_hub (b : Chip) (i j : Nat) :
    (b.count i j).hub = b.hub := rfl
@[simp] theorem Chip.count_cupola (b : Chip) (i j : Nat) :
    (b.count i j).cupola = b.cupola := rfl
@[simp] theorem Chip.count_ports (b : Chip) (i j : Nat) :
    (b.count i j).ports = b.ports := rfl
@[simp] theorem Chip.count_ecat (b : Chip) (i j : Nat) :
    (b.count i j).ecat = b.ecat := rfl
@[simp] theorem Chip.count_loader (b : Chip) (i j : Nat) :
    (b.count i j).loader = b.loader := rfl
@[simp] theorem Chip.count_watch (b : Chip) (i j : Nat) :
    (b.count i j).watch = b.watch := rfl
@[simp] theorem Chip.count_test (b : Chip) (i j : Nat) :
    (b.count i j).test = b.test := rfl
@[simp] theorem Chip.count_aon (b : Chip) (i j : Nat) :
    (b.count i j).aon = b.aon := rfl
@[simp] theorem Chip.count_lantern (b : Chip) (i j : Nat) :
    (b.count i j).lantern = b.lantern := rfl
@[simp] theorem Chip.count_log (b : Chip) (i j : Nat) :
    (b.count i j).log = b.log := rfl
@[simp] theorem Chip.count_debug (b : Chip) (i j : Nat) :
    (b.count i j).dbg = b.dbg := rfl
@[simp] theorem Chip.count_inject (b : Chip) (i j : Nat) :
    (b.count i j).inject = b.inject := rfl
@[simp] theorem Chip.count_free (b : Chip) (i j : Nat) :
    (b.count i j).free = b.free := rfl

/-! ### countBy -/

@[simp] theorem Chip.countBy_dev (b : Chip) (i j n : Nat) :
    (b.countBy i j n).dev = b.dev := rfl
@[simp] theorem Chip.countBy_belfry (b : Chip) (i j n : Nat) :
    (b.countBy i j n).belfry = b.belfry := rfl
@[simp] theorem Chip.countBy_banks (b : Chip) (i j n : Nat) :
    (b.countBy i j n).banks = b.banks := rfl
@[simp] theorem Chip.countBy_vanes (b : Chip) (i j n : Nat) :
    (b.countBy i j n).vanes = b.vanes := rfl
@[simp] theorem Chip.countBy_parts (b : Chip) (i j n : Nat) :
    (b.countBy i j n).parts = b.parts := rfl
@[simp] theorem Chip.countBy_regions (b : Chip) (i j n : Nat) :
    (b.countBy i j n).regions = b.regions := rfl
@[simp] theorem Chip.countBy_lanes (b : Chip) (i j n : Nat) :
    (b.countBy i j n).lanes = b.lanes := rfl
@[simp] theorem Chip.countBy_mem (b : Chip) (i j n : Nat) :
    (b.countBy i j n).mem = b.mem := rfl
@[simp] theorem Chip.countBy_queues (b : Chip) (i j n : Nat) :
    (b.countBy i j n).queues = b.queues := rfl
@[simp] theorem Chip.countBy_slices (b : Chip) (i j n : Nat) :
    (b.countBy i j n).slices = b.slices := rfl
@[simp] theorem Chip.countBy_hub (b : Chip) (i j n : Nat) :
    (b.countBy i j n).hub = b.hub := rfl
@[simp] theorem Chip.countBy_cupola (b : Chip) (i j n : Nat) :
    (b.countBy i j n).cupola = b.cupola := rfl
@[simp] theorem Chip.countBy_ports (b : Chip) (i j n : Nat) :
    (b.countBy i j n).ports = b.ports := rfl
@[simp] theorem Chip.countBy_ecat (b : Chip) (i j n : Nat) :
    (b.countBy i j n).ecat = b.ecat := rfl
@[simp] theorem Chip.countBy_loader (b : Chip) (i j n : Nat) :
    (b.countBy i j n).loader = b.loader := rfl
@[simp] theorem Chip.countBy_watch (b : Chip) (i j n : Nat) :
    (b.countBy i j n).watch = b.watch := rfl
@[simp] theorem Chip.countBy_test (b : Chip) (i j n : Nat) :
    (b.countBy i j n).test = b.test := rfl
@[simp] theorem Chip.countBy_aon (b : Chip) (i j n : Nat) :
    (b.countBy i j n).aon = b.aon := rfl
@[simp] theorem Chip.countBy_lantern (b : Chip) (i j n : Nat) :
    (b.countBy i j n).lantern = b.lantern := rfl
@[simp] theorem Chip.countBy_log (b : Chip) (i j n : Nat) :
    (b.countBy i j n).log = b.log := rfl
@[simp] theorem Chip.countBy_debug (b : Chip) (i j n : Nat) :
    (b.countBy i j n).dbg = b.dbg := rfl
@[simp] theorem Chip.countBy_inject (b : Chip) (i j n : Nat) :
    (b.countBy i j n).inject = b.inject := rfl
@[simp] theorem Chip.countBy_free (b : Chip) (i j n : Nat) :
    (b.countBy i j n).free = b.free := rfl

/-! ### raiseOwner -/

@[simp] theorem Chip.raiseOwner_dev (b : Chip) (o : Option Nat) (k : Nat) :
    (b.raiseOwner o k).dev = b.dev := by
  unfold Chip.raiseOwner; split <;> (try split) <;> rfl
@[simp] theorem Chip.raiseOwner_belfry (b : Chip) (o : Option Nat) (k : Nat) :
    (b.raiseOwner o k).belfry = b.belfry := by
  unfold Chip.raiseOwner; split <;> (try split) <;> rfl
@[simp] theorem Chip.raiseOwner_banks (b : Chip) (o : Option Nat) (k : Nat) :
    (b.raiseOwner o k).banks = b.banks := by
  unfold Chip.raiseOwner; split <;> (try split) <;> rfl
@[simp] theorem Chip.raiseOwner_vanes (b : Chip) (o : Option Nat) (k : Nat) :
    (b.raiseOwner o k).vanes = b.vanes := by
  unfold Chip.raiseOwner; split <;> (try split) <;> rfl
@[simp] theorem Chip.raiseOwner_parts (b : Chip) (o : Option Nat) (k : Nat) :
    (b.raiseOwner o k).parts = b.parts := by
  unfold Chip.raiseOwner; split <;> (try split) <;> rfl
@[simp] theorem Chip.raiseOwner_regions (b : Chip) (o : Option Nat) (k : Nat) :
    (b.raiseOwner o k).regions = b.regions := by
  unfold Chip.raiseOwner; split <;> (try split) <;> rfl
@[simp] theorem Chip.raiseOwner_lanes (b : Chip) (o : Option Nat) (k : Nat) :
    (b.raiseOwner o k).lanes = b.lanes := by
  unfold Chip.raiseOwner; split <;> (try split) <;> rfl
@[simp] theorem Chip.raiseOwner_mem (b : Chip) (o : Option Nat) (k : Nat) :
    (b.raiseOwner o k).mem = b.mem := by
  unfold Chip.raiseOwner; split <;> (try split) <;> rfl
@[simp] theorem Chip.raiseOwner_queues (b : Chip) (o : Option Nat) (k : Nat) :
    (b.raiseOwner o k).queues = b.queues := by
  unfold Chip.raiseOwner; split <;> (try split) <;> rfl
@[simp] theorem Chip.raiseOwner_slices (b : Chip) (o : Option Nat) (k : Nat) :
    (b.raiseOwner o k).slices = b.slices := by
  unfold Chip.raiseOwner; split <;> (try split) <;> rfl
@[simp] theorem Chip.raiseOwner_hub (b : Chip) (o : Option Nat) (k : Nat) :
    (b.raiseOwner o k).hub = b.hub := by
  unfold Chip.raiseOwner; split <;> (try split) <;> rfl
@[simp] theorem Chip.raiseOwner_cupola (b : Chip) (o : Option Nat) (k : Nat) :
    (b.raiseOwner o k).cupola = b.cupola := by
  unfold Chip.raiseOwner; split <;> (try split) <;> rfl
@[simp] theorem Chip.raiseOwner_ecat (b : Chip) (o : Option Nat) (k : Nat) :
    (b.raiseOwner o k).ecat = b.ecat := by
  unfold Chip.raiseOwner; split <;> (try split) <;> rfl
@[simp] theorem Chip.raiseOwner_dict (b : Chip) (o : Option Nat) (k : Nat) :
    (b.raiseOwner o k).dict = b.dict := by
  unfold Chip.raiseOwner; split <;> (try split) <;> rfl
@[simp] theorem Chip.raiseOwner_loader (b : Chip) (o : Option Nat) (k : Nat) :
    (b.raiseOwner o k).loader = b.loader := by
  unfold Chip.raiseOwner; split <;> (try split) <;> rfl
@[simp] theorem Chip.raiseOwner_watch (b : Chip) (o : Option Nat) (k : Nat) :
    (b.raiseOwner o k).watch = b.watch := by
  unfold Chip.raiseOwner; split <;> (try split) <;> rfl
@[simp] theorem Chip.raiseOwner_test (b : Chip) (o : Option Nat) (k : Nat) :
    (b.raiseOwner o k).test = b.test := by
  unfold Chip.raiseOwner; split <;> (try split) <;> rfl
@[simp] theorem Chip.raiseOwner_aon (b : Chip) (o : Option Nat) (k : Nat) :
    (b.raiseOwner o k).aon = b.aon := by
  unfold Chip.raiseOwner; split <;> (try split) <;> rfl
@[simp] theorem Chip.raiseOwner_lantern (b : Chip) (o : Option Nat) (k : Nat) :
    (b.raiseOwner o k).lantern = b.lantern := by
  unfold Chip.raiseOwner; split <;> (try split) <;> rfl
@[simp] theorem Chip.raiseOwner_log (b : Chip) (o : Option Nat) (k : Nat) :
    (b.raiseOwner o k).log = b.log := by
  unfold Chip.raiseOwner; split <;> (try split) <;> rfl
@[simp] theorem Chip.raiseOwner_debug (b : Chip) (o : Option Nat) (k : Nat) :
    (b.raiseOwner o k).dbg = b.dbg := by
  unfold Chip.raiseOwner; split <;> (try split) <;> rfl
@[simp] theorem Chip.raiseOwner_inject (b : Chip) (o : Option Nat) (k : Nat) :
    (b.raiseOwner o k).inject = b.inject := by
  unfold Chip.raiseOwner; split <;> (try split) <;> rfl
@[simp] theorem Chip.raiseOwner_free (b : Chip) (o : Option Nat) (k : Nat) :
    (b.raiseOwner o k).free = b.free := by
  unfold Chip.raiseOwner; split <;> (try split) <;> rfl

/-! ### raiseAll -/

@[simp] theorem Chip.raiseAll_dev (b : Chip) (k : Nat) :
    (b.raiseAll k).dev = b.dev := by
  simp [Chip.raiseAll, Chip.forEach]
@[simp] theorem Chip.raiseAll_belfry (b : Chip) (k : Nat) :
    (b.raiseAll k).belfry = b.belfry := by
  simp [Chip.raiseAll, Chip.forEach]
@[simp] theorem Chip.raiseAll_banks (b : Chip) (k : Nat) :
    (b.raiseAll k).banks = b.banks := by
  simp [Chip.raiseAll, Chip.forEach]
@[simp] theorem Chip.raiseAll_vanes (b : Chip) (k : Nat) :
    (b.raiseAll k).vanes = b.vanes := by
  simp [Chip.raiseAll, Chip.forEach]
@[simp] theorem Chip.raiseAll_parts (b : Chip) (k : Nat) :
    (b.raiseAll k).parts = b.parts := by
  simp [Chip.raiseAll, Chip.forEach]
@[simp] theorem Chip.raiseAll_regions (b : Chip) (k : Nat) :
    (b.raiseAll k).regions = b.regions := by
  simp [Chip.raiseAll, Chip.forEach]
@[simp] theorem Chip.raiseAll_lanes (b : Chip) (k : Nat) :
    (b.raiseAll k).lanes = b.lanes := by
  simp [Chip.raiseAll, Chip.forEach]
@[simp] theorem Chip.raiseAll_mem (b : Chip) (k : Nat) :
    (b.raiseAll k).mem = b.mem := by
  simp [Chip.raiseAll, Chip.forEach]
@[simp] theorem Chip.raiseAll_queues (b : Chip) (k : Nat) :
    (b.raiseAll k).queues = b.queues := by
  simp [Chip.raiseAll, Chip.forEach]
@[simp] theorem Chip.raiseAll_slices (b : Chip) (k : Nat) :
    (b.raiseAll k).slices = b.slices := by
  simp [Chip.raiseAll, Chip.forEach]
@[simp] theorem Chip.raiseAll_hub (b : Chip) (k : Nat) :
    (b.raiseAll k).hub = b.hub := by
  simp [Chip.raiseAll, Chip.forEach]
@[simp] theorem Chip.raiseAll_cupola (b : Chip) (k : Nat) :
    (b.raiseAll k).cupola = b.cupola := by
  simp [Chip.raiseAll, Chip.forEach]
@[simp] theorem Chip.raiseAll_ecat (b : Chip) (k : Nat) :
    (b.raiseAll k).ecat = b.ecat := by
  simp [Chip.raiseAll, Chip.forEach]
@[simp] theorem Chip.raiseAll_dict (b : Chip) (k : Nat) :
    (b.raiseAll k).dict = b.dict := by
  simp [Chip.raiseAll, Chip.forEach]
@[simp] theorem Chip.raiseAll_loader (b : Chip) (k : Nat) :
    (b.raiseAll k).loader = b.loader := by
  simp [Chip.raiseAll, Chip.forEach]
@[simp] theorem Chip.raiseAll_watch (b : Chip) (k : Nat) :
    (b.raiseAll k).watch = b.watch := by
  simp [Chip.raiseAll, Chip.forEach]
@[simp] theorem Chip.raiseAll_test (b : Chip) (k : Nat) :
    (b.raiseAll k).test = b.test := by
  simp [Chip.raiseAll, Chip.forEach]
@[simp] theorem Chip.raiseAll_aon (b : Chip) (k : Nat) :
    (b.raiseAll k).aon = b.aon := by
  simp [Chip.raiseAll, Chip.forEach]
@[simp] theorem Chip.raiseAll_lantern (b : Chip) (k : Nat) :
    (b.raiseAll k).lantern = b.lantern := by
  simp [Chip.raiseAll, Chip.forEach]
@[simp] theorem Chip.raiseAll_log (b : Chip) (k : Nat) :
    (b.raiseAll k).log = b.log := by
  simp [Chip.raiseAll, Chip.forEach]
@[simp] theorem Chip.raiseAll_debug (b : Chip) (k : Nat) :
    (b.raiseAll k).dbg = b.dbg := by
  simp [Chip.raiseAll, Chip.forEach]
@[simp] theorem Chip.raiseAll_inject (b : Chip) (k : Nat) :
    (b.raiseAll k).inject = b.inject := by
  simp [Chip.raiseAll, Chip.forEach]
@[simp] theorem Chip.raiseAll_free (b : Chip) (k : Nat) :
    (b.raiseAll k).free = b.free := by
  simp [Chip.raiseAll, Chip.forEach]

/-! ### emergency -/

@[simp] theorem Chip.emergency_dev (b : Chip) (e : LogEntry) :
    (b.emergency e).dev = b.dev := by
  unfold Chip.emergency; split <;> (try split) <;> (try split) <;> rfl
@[simp] theorem Chip.emergency_belfry (b : Chip) (e : LogEntry) :
    (b.emergency e).belfry = b.belfry := by
  unfold Chip.emergency; split <;> (try split) <;> (try split) <;> rfl
@[simp] theorem Chip.emergency_banks (b : Chip) (e : LogEntry) :
    (b.emergency e).banks = b.banks := by
  unfold Chip.emergency; split <;> (try split) <;> (try split) <;> rfl
@[simp] theorem Chip.emergency_vanes (b : Chip) (e : LogEntry) :
    (b.emergency e).vanes = b.vanes := by
  unfold Chip.emergency; split <;> (try split) <;> (try split) <;> rfl
@[simp] theorem Chip.emergency_parts (b : Chip) (e : LogEntry) :
    (b.emergency e).parts = b.parts := by
  unfold Chip.emergency; split <;> (try split) <;> (try split) <;> rfl
@[simp] theorem Chip.emergency_regions (b : Chip) (e : LogEntry) :
    (b.emergency e).regions = b.regions := by
  unfold Chip.emergency; split <;> (try split) <;> (try split) <;> rfl
@[simp] theorem Chip.emergency_lanes (b : Chip) (e : LogEntry) :
    (b.emergency e).lanes = b.lanes := by
  unfold Chip.emergency; split <;> (try split) <;> (try split) <;> rfl
@[simp] theorem Chip.emergency_mem (b : Chip) (e : LogEntry) :
    (b.emergency e).mem = b.mem := by
  unfold Chip.emergency; split <;> (try split) <;> (try split) <;> rfl
@[simp] theorem Chip.emergency_queues (b : Chip) (e : LogEntry) :
    (b.emergency e).queues = b.queues := by
  unfold Chip.emergency; split <;> (try split) <;> (try split) <;> rfl
@[simp] theorem Chip.emergency_slices (b : Chip) (e : LogEntry) :
    (b.emergency e).slices = b.slices := by
  unfold Chip.emergency; split <;> (try split) <;> (try split) <;> rfl
@[simp] theorem Chip.emergency_hub (b : Chip) (e : LogEntry) :
    (b.emergency e).hub = b.hub := by
  unfold Chip.emergency; split <;> (try split) <;> (try split) <;> rfl
@[simp] theorem Chip.emergency_cupola (b : Chip) (e : LogEntry) :
    (b.emergency e).cupola = b.cupola := by
  unfold Chip.emergency; split <;> (try split) <;> (try split) <;> rfl
@[simp] theorem Chip.emergency_ports (b : Chip) (e : LogEntry) :
    (b.emergency e).ports = b.ports := by
  unfold Chip.emergency; split <;> (try split) <;> (try split) <;> rfl
@[simp] theorem Chip.emergency_loader (b : Chip) (e : LogEntry) :
    (b.emergency e).loader = b.loader := by
  unfold Chip.emergency; split <;> (try split) <;> (try split) <;> rfl
@[simp] theorem Chip.emergency_watch (b : Chip) (e : LogEntry) :
    (b.emergency e).watch = b.watch := by
  unfold Chip.emergency; split <;> (try split) <;> (try split) <;> rfl
@[simp] theorem Chip.emergency_test (b : Chip) (e : LogEntry) :
    (b.emergency e).test = b.test := by
  unfold Chip.emergency; split <;> (try split) <;> (try split) <;> rfl
@[simp] theorem Chip.emergency_aon (b : Chip) (e : LogEntry) :
    (b.emergency e).aon = b.aon := by
  unfold Chip.emergency; split <;> (try split) <;> (try split) <;> rfl
@[simp] theorem Chip.emergency_lantern (b : Chip) (e : LogEntry) :
    (b.emergency e).lantern = b.lantern := by
  unfold Chip.emergency; split <;> (try split) <;> (try split) <;> rfl
@[simp] theorem Chip.emergency_log (b : Chip) (e : LogEntry) :
    (b.emergency e).log = b.log := by
  unfold Chip.emergency; split <;> (try split) <;> (try split) <;> rfl
@[simp] theorem Chip.emergency_debug (b : Chip) (e : LogEntry) :
    (b.emergency e).dbg = b.dbg := by
  unfold Chip.emergency; split <;> (try split) <;> (try split) <;> rfl
@[simp] theorem Chip.emergency_inject (b : Chip) (e : LogEntry) :
    (b.emergency e).inject = b.inject := by
  unfold Chip.emergency; split <;> (try split) <;> (try split) <;> rfl
@[simp] theorem Chip.emergency_free (b : Chip) (e : LogEntry) :
    (b.emergency e).free = b.free := by
  unfold Chip.emergency; split <;> (try split) <;> (try split) <;> rfl

/-! ### pushEntry -/

@[simp] theorem Chip.pushEntry_dev (b : Chip) (e : Ev) (x : Bool) :
    (b.pushEntry e x).dev = b.dev := by
  simp [Chip.pushEntry, apply_ite Chip.dev]
@[simp] theorem Chip.pushEntry_belfry (b : Chip) (e : Ev) (x : Bool) :
    (b.pushEntry e x).belfry = b.belfry := by
  simp [Chip.pushEntry, apply_ite Chip.belfry]
@[simp] theorem Chip.pushEntry_banks (b : Chip) (e : Ev) (x : Bool) :
    (b.pushEntry e x).banks = b.banks := by
  simp [Chip.pushEntry, apply_ite Chip.banks]
@[simp] theorem Chip.pushEntry_vanes (b : Chip) (e : Ev) (x : Bool) :
    (b.pushEntry e x).vanes = b.vanes := by
  simp [Chip.pushEntry, apply_ite Chip.vanes]
@[simp] theorem Chip.pushEntry_parts (b : Chip) (e : Ev) (x : Bool) :
    (b.pushEntry e x).parts = b.parts := by
  simp [Chip.pushEntry, apply_ite Chip.parts]
@[simp] theorem Chip.pushEntry_regions (b : Chip) (e : Ev) (x : Bool) :
    (b.pushEntry e x).regions = b.regions := by
  simp [Chip.pushEntry, apply_ite Chip.regions]
@[simp] theorem Chip.pushEntry_lanes (b : Chip) (e : Ev) (x : Bool) :
    (b.pushEntry e x).lanes = b.lanes := by
  simp [Chip.pushEntry, apply_ite Chip.lanes]
@[simp] theorem Chip.pushEntry_mem (b : Chip) (e : Ev) (x : Bool) :
    (b.pushEntry e x).mem = b.mem := by
  simp [Chip.pushEntry, apply_ite Chip.mem]
@[simp] theorem Chip.pushEntry_queues (b : Chip) (e : Ev) (x : Bool) :
    (b.pushEntry e x).queues = b.queues := by
  simp [Chip.pushEntry, apply_ite Chip.queues]
@[simp] theorem Chip.pushEntry_slices (b : Chip) (e : Ev) (x : Bool) :
    (b.pushEntry e x).slices = b.slices := by
  simp [Chip.pushEntry, apply_ite Chip.slices]
@[simp] theorem Chip.pushEntry_hub (b : Chip) (e : Ev) (x : Bool) :
    (b.pushEntry e x).hub = b.hub := by
  simp [Chip.pushEntry, apply_ite Chip.hub]
@[simp] theorem Chip.pushEntry_cupola (b : Chip) (e : Ev) (x : Bool) :
    (b.pushEntry e x).cupola = b.cupola := by
  simp [Chip.pushEntry, apply_ite Chip.cupola]
@[simp] theorem Chip.pushEntry_loader (b : Chip) (e : Ev) (x : Bool) :
    (b.pushEntry e x).loader = b.loader := by
  simp [Chip.pushEntry, apply_ite Chip.loader]
@[simp] theorem Chip.pushEntry_watch (b : Chip) (e : Ev) (x : Bool) :
    (b.pushEntry e x).watch = b.watch := by
  simp [Chip.pushEntry, apply_ite Chip.watch]
@[simp] theorem Chip.pushEntry_test (b : Chip) (e : Ev) (x : Bool) :
    (b.pushEntry e x).test = b.test := by
  simp [Chip.pushEntry, apply_ite Chip.test]
@[simp] theorem Chip.pushEntry_aon (b : Chip) (e : Ev) (x : Bool) :
    (b.pushEntry e x).aon = b.aon := by
  simp [Chip.pushEntry, apply_ite Chip.aon]
@[simp] theorem Chip.pushEntry_debug (b : Chip) (e : Ev) (x : Bool) :
    (b.pushEntry e x).dbg = b.dbg := by
  simp [Chip.pushEntry, apply_ite Chip.dbg]
@[simp] theorem Chip.pushEntry_inject (b : Chip) (e : Ev) (x : Bool) :
    (b.pushEntry e x).inject = b.inject := by
  simp [Chip.pushEntry, apply_ite Chip.inject]
@[simp] theorem Chip.pushEntry_free (b : Chip) (e : Ev) (x : Bool) :
    (b.pushEntry e x).free = b.free := by
  simp [Chip.pushEntry, apply_ite Chip.free]

/-! ### logAs -/

@[simp] theorem Chip.logAs_belfry (b : Chip) (e : Ev) (x : Bool) :
    (b.logAs e x).belfry = b.belfry := by
  simp only [Chip.logAs]; split; · rfl
  split <;> simp
@[simp] theorem Chip.logAs_banks (b : Chip) (e : Ev) (x : Bool) :
    (b.logAs e x).banks = b.banks := by
  simp only [Chip.logAs]; split; · rfl
  split <;> simp
@[simp] theorem Chip.logAs_vanes (b : Chip) (e : Ev) (x : Bool) :
    (b.logAs e x).vanes = b.vanes := by
  simp only [Chip.logAs]; split; · rfl
  split <;> simp
@[simp] theorem Chip.logAs_parts (b : Chip) (e : Ev) (x : Bool) :
    (b.logAs e x).parts = b.parts := by
  simp only [Chip.logAs]; split; · rfl
  split <;> simp
@[simp] theorem Chip.logAs_regions (b : Chip) (e : Ev) (x : Bool) :
    (b.logAs e x).regions = b.regions := by
  simp only [Chip.logAs]; split; · rfl
  split <;> simp
@[simp] theorem Chip.logAs_lanes (b : Chip) (e : Ev) (x : Bool) :
    (b.logAs e x).lanes = b.lanes := by
  simp only [Chip.logAs]; split; · rfl
  split <;> simp
@[simp] theorem Chip.logAs_mem (b : Chip) (e : Ev) (x : Bool) :
    (b.logAs e x).mem = b.mem := by
  simp only [Chip.logAs]; split; · rfl
  split <;> simp
@[simp] theorem Chip.logAs_queues (b : Chip) (e : Ev) (x : Bool) :
    (b.logAs e x).queues = b.queues := by
  simp only [Chip.logAs]; split; · rfl
  split <;> simp
@[simp] theorem Chip.logAs_slices (b : Chip) (e : Ev) (x : Bool) :
    (b.logAs e x).slices = b.slices := by
  simp only [Chip.logAs]; split; · rfl
  split <;> simp
@[simp] theorem Chip.logAs_hub (b : Chip) (e : Ev) (x : Bool) :
    (b.logAs e x).hub = b.hub := by
  simp only [Chip.logAs]; split; · rfl
  split <;> simp
@[simp] theorem Chip.logAs_cupola (b : Chip) (e : Ev) (x : Bool) :
    (b.logAs e x).cupola = b.cupola := by
  simp only [Chip.logAs]; split; · rfl
  split <;> simp
@[simp] theorem Chip.logAs_loader (b : Chip) (e : Ev) (x : Bool) :
    (b.logAs e x).loader = b.loader := by
  simp only [Chip.logAs]; split; · rfl
  split <;> simp
@[simp] theorem Chip.logAs_watch (b : Chip) (e : Ev) (x : Bool) :
    (b.logAs e x).watch = b.watch := by
  simp only [Chip.logAs]; split; · rfl
  split <;> simp
@[simp] theorem Chip.logAs_test (b : Chip) (e : Ev) (x : Bool) :
    (b.logAs e x).test = b.test := by
  simp only [Chip.logAs]; split; · rfl
  split <;> simp
@[simp] theorem Chip.logAs_aon (b : Chip) (e : Ev) (x : Bool) :
    (b.logAs e x).aon = b.aon := by
  simp only [Chip.logAs]; split; · rfl
  split <;> simp
@[simp] theorem Chip.logAs_debug (b : Chip) (e : Ev) (x : Bool) :
    (b.logAs e x).dbg = b.dbg := by
  simp only [Chip.logAs]; split; · rfl
  split <;> simp
@[simp] theorem Chip.logAs_inject (b : Chip) (e : Ev) (x : Bool) :
    (b.logAs e x).inject = b.inject := by
  simp only [Chip.logAs]; split; · rfl
  split <;> simp
@[simp] theorem Chip.logAs_free (b : Chip) (e : Ev) (x : Bool) :
    (b.logAs e x).free = b.free := by
  simp only [Chip.logAs]; split; · rfl
  split <;> simp

/-! ### logEvent -/

@[simp] theorem Chip.logEvent_belfry (b : Chip) (e : Ev) :
    (b.logEvent e).belfry = b.belfry := Chip.logAs_belfry b e false
@[simp] theorem Chip.logEvent_banks (b : Chip) (e : Ev) :
    (b.logEvent e).banks = b.banks := Chip.logAs_banks b e false
@[simp] theorem Chip.logEvent_vanes (b : Chip) (e : Ev) :
    (b.logEvent e).vanes = b.vanes := Chip.logAs_vanes b e false
@[simp] theorem Chip.logEvent_parts (b : Chip) (e : Ev) :
    (b.logEvent e).parts = b.parts := Chip.logAs_parts b e false
@[simp] theorem Chip.logEvent_regions (b : Chip) (e : Ev) :
    (b.logEvent e).regions = b.regions := Chip.logAs_regions b e false
@[simp] theorem Chip.logEvent_lanes (b : Chip) (e : Ev) :
    (b.logEvent e).lanes = b.lanes := Chip.logAs_lanes b e false
@[simp] theorem Chip.logEvent_mem (b : Chip) (e : Ev) :
    (b.logEvent e).mem = b.mem := Chip.logAs_mem b e false
@[simp] theorem Chip.logEvent_queues (b : Chip) (e : Ev) :
    (b.logEvent e).queues = b.queues := Chip.logAs_queues b e false
@[simp] theorem Chip.logEvent_slices (b : Chip) (e : Ev) :
    (b.logEvent e).slices = b.slices := Chip.logAs_slices b e false
@[simp] theorem Chip.logEvent_hub (b : Chip) (e : Ev) :
    (b.logEvent e).hub = b.hub := Chip.logAs_hub b e false
@[simp] theorem Chip.logEvent_cupola (b : Chip) (e : Ev) :
    (b.logEvent e).cupola = b.cupola := Chip.logAs_cupola b e false
@[simp] theorem Chip.logEvent_loader (b : Chip) (e : Ev) :
    (b.logEvent e).loader = b.loader := Chip.logAs_loader b e false
@[simp] theorem Chip.logEvent_watch (b : Chip) (e : Ev) :
    (b.logEvent e).watch = b.watch := Chip.logAs_watch b e false
@[simp] theorem Chip.logEvent_test (b : Chip) (e : Ev) :
    (b.logEvent e).test = b.test := Chip.logAs_test b e false
@[simp] theorem Chip.logEvent_aon (b : Chip) (e : Ev) :
    (b.logEvent e).aon = b.aon := Chip.logAs_aon b e false
@[simp] theorem Chip.logEvent_debug (b : Chip) (e : Ev) :
    (b.logEvent e).dbg = b.dbg := Chip.logAs_debug b e false
@[simp] theorem Chip.logEvent_inject (b : Chip) (e : Ev) :
    (b.logEvent e).inject = b.inject := Chip.logAs_inject b e false
@[simp] theorem Chip.logEvent_free (b : Chip) (e : Ev) :
    (b.logEvent e).free = b.free := Chip.logAs_free b e false

/-! ### injected -/

@[simp] theorem Chip.injected_dev (b : Chip) (c : Nat) :
    (b.injected c).dev = b.dev := rfl
@[simp] theorem Chip.injected_belfry (b : Chip) (c : Nat) :
    (b.injected c).belfry = b.belfry := rfl
@[simp] theorem Chip.injected_banks (b : Chip) (c : Nat) :
    (b.injected c).banks = b.banks := rfl
@[simp] theorem Chip.injected_vanes (b : Chip) (c : Nat) :
    (b.injected c).vanes = b.vanes := rfl
@[simp] theorem Chip.injected_parts (b : Chip) (c : Nat) :
    (b.injected c).parts = b.parts := rfl
@[simp] theorem Chip.injected_regions (b : Chip) (c : Nat) :
    (b.injected c).regions = b.regions := rfl
@[simp] theorem Chip.injected_lanes (b : Chip) (c : Nat) :
    (b.injected c).lanes = b.lanes := rfl
@[simp] theorem Chip.injected_mem (b : Chip) (c : Nat) :
    (b.injected c).mem = b.mem := rfl
@[simp] theorem Chip.injected_queues (b : Chip) (c : Nat) :
    (b.injected c).queues = b.queues := rfl
@[simp] theorem Chip.injected_slices (b : Chip) (c : Nat) :
    (b.injected c).slices = b.slices := rfl
@[simp] theorem Chip.injected_hub (b : Chip) (c : Nat) :
    (b.injected c).hub = b.hub := rfl
@[simp] theorem Chip.injected_cupola (b : Chip) (c : Nat) :
    (b.injected c).cupola = b.cupola := rfl
@[simp] theorem Chip.injected_ports (b : Chip) (c : Nat) :
    (b.injected c).ports = b.ports := rfl
@[simp] theorem Chip.injected_ecat (b : Chip) (c : Nat) :
    (b.injected c).ecat = b.ecat := rfl
@[simp] theorem Chip.injected_loader (b : Chip) (c : Nat) :
    (b.injected c).loader = b.loader := rfl
@[simp] theorem Chip.injected_watch (b : Chip) (c : Nat) :
    (b.injected c).watch = b.watch := rfl
@[simp] theorem Chip.injected_test (b : Chip) (c : Nat) :
    (b.injected c).test = b.test := rfl
@[simp] theorem Chip.injected_aon (b : Chip) (c : Nat) :
    (b.injected c).aon = b.aon := rfl
@[simp] theorem Chip.injected_lantern (b : Chip) (c : Nat) :
    (b.injected c).lantern = b.lantern := rfl
@[simp] theorem Chip.injected_log (b : Chip) (c : Nat) :
    (b.injected c).log = b.log := rfl
@[simp] theorem Chip.injected_debug (b : Chip) (c : Nat) :
    (b.injected c).dbg = b.dbg := rfl
@[simp] theorem Chip.injected_inject (b : Chip) (c : Nat) :
    (b.injected c).inject = b.inject := rfl
@[simp] theorem Chip.injected_free (b : Chip) (c : Nat) :
    (b.injected c).free = b.free := rfl

/-! ### logInj -/

@[simp] theorem Chip.logInj_belfry (b : Chip) (e : Ev) :
    (b.logInj e).belfry = b.belfry := by
  simp only [Chip.logInj]; split <;> simp
@[simp] theorem Chip.logInj_banks (b : Chip) (e : Ev) :
    (b.logInj e).banks = b.banks := by
  simp only [Chip.logInj]; split <;> simp
@[simp] theorem Chip.logInj_vanes (b : Chip) (e : Ev) :
    (b.logInj e).vanes = b.vanes := by
  simp only [Chip.logInj]; split <;> simp
@[simp] theorem Chip.logInj_parts (b : Chip) (e : Ev) :
    (b.logInj e).parts = b.parts := by
  simp only [Chip.logInj]; split <;> simp
@[simp] theorem Chip.logInj_regions (b : Chip) (e : Ev) :
    (b.logInj e).regions = b.regions := by
  simp only [Chip.logInj]; split <;> simp
@[simp] theorem Chip.logInj_lanes (b : Chip) (e : Ev) :
    (b.logInj e).lanes = b.lanes := by
  simp only [Chip.logInj]; split <;> simp
@[simp] theorem Chip.logInj_mem (b : Chip) (e : Ev) :
    (b.logInj e).mem = b.mem := by
  simp only [Chip.logInj]; split <;> simp
@[simp] theorem Chip.logInj_queues (b : Chip) (e : Ev) :
    (b.logInj e).queues = b.queues := by
  simp only [Chip.logInj]; split <;> simp
@[simp] theorem Chip.logInj_slices (b : Chip) (e : Ev) :
    (b.logInj e).slices = b.slices := by
  simp only [Chip.logInj]; split <;> simp
@[simp] theorem Chip.logInj_hub (b : Chip) (e : Ev) :
    (b.logInj e).hub = b.hub := by
  simp only [Chip.logInj]; split <;> simp
@[simp] theorem Chip.logInj_cupola (b : Chip) (e : Ev) :
    (b.logInj e).cupola = b.cupola := by
  simp only [Chip.logInj]; split <;> simp
@[simp] theorem Chip.logInj_loader (b : Chip) (e : Ev) :
    (b.logInj e).loader = b.loader := by
  simp only [Chip.logInj]; split <;> simp
@[simp] theorem Chip.logInj_watch (b : Chip) (e : Ev) :
    (b.logInj e).watch = b.watch := by
  simp only [Chip.logInj]; split <;> simp
@[simp] theorem Chip.logInj_test (b : Chip) (e : Ev) :
    (b.logInj e).test = b.test := by
  simp only [Chip.logInj]; split <;> simp
@[simp] theorem Chip.logInj_aon (b : Chip) (e : Ev) :
    (b.logInj e).aon = b.aon := by
  simp only [Chip.logInj]; split <;> simp
@[simp] theorem Chip.logInj_debug (b : Chip) (e : Ev) :
    (b.logInj e).dbg = b.dbg := by
  simp only [Chip.logInj]; split <;> simp
@[simp] theorem Chip.logInj_inject (b : Chip) (e : Ev) :
    (b.logInj e).inject = b.inject := by
  simp only [Chip.logInj]; split <;> simp
@[simp] theorem Chip.logInj_free (b : Chip) (e : Ev) :
    (b.logInj e).free = b.free := by
  simp only [Chip.logInj]; split <;> simp

/-! ### setStatus -/

@[simp] theorem Chip.setStatus_dev (b : Chip) (i o st : Nat) :
    (b.setStatus i o st).dev = b.dev := rfl
@[simp] theorem Chip.setStatus_belfry (b : Chip) (i o st : Nat) :
    (b.setStatus i o st).belfry = b.belfry := rfl
@[simp] theorem Chip.setStatus_banks (b : Chip) (i o st : Nat) :
    (b.setStatus i o st).banks = b.banks := rfl
@[simp] theorem Chip.setStatus_vanes (b : Chip) (i o st : Nat) :
    (b.setStatus i o st).vanes = b.vanes := rfl
@[simp] theorem Chip.setStatus_parts (b : Chip) (i o st : Nat) :
    (b.setStatus i o st).parts = b.parts := rfl
@[simp] theorem Chip.setStatus_regions (b : Chip) (i o st : Nat) :
    (b.setStatus i o st).regions = b.regions := rfl
@[simp] theorem Chip.setStatus_lanes (b : Chip) (i o st : Nat) :
    (b.setStatus i o st).lanes = b.lanes := rfl
@[simp] theorem Chip.setStatus_mem (b : Chip) (i o st : Nat) :
    (b.setStatus i o st).mem = b.mem := rfl
@[simp] theorem Chip.setStatus_queues (b : Chip) (i o st : Nat) :
    (b.setStatus i o st).queues = b.queues := rfl
@[simp] theorem Chip.setStatus_slices (b : Chip) (i o st : Nat) :
    (b.setStatus i o st).slices = b.slices := rfl
@[simp] theorem Chip.setStatus_hub (b : Chip) (i o st : Nat) :
    (b.setStatus i o st).hub = b.hub := rfl
@[simp] theorem Chip.setStatus_cupola (b : Chip) (i o st : Nat) :
    (b.setStatus i o st).cupola = b.cupola := rfl
@[simp] theorem Chip.setStatus_ports (b : Chip) (i o st : Nat) :
    (b.setStatus i o st).ports = b.ports := rfl
@[simp] theorem Chip.setStatus_ecat (b : Chip) (i o st : Nat) :
    (b.setStatus i o st).ecat = b.ecat := rfl
@[simp] theorem Chip.setStatus_loader (b : Chip) (i o st : Nat) :
    (b.setStatus i o st).loader = b.loader := rfl
@[simp] theorem Chip.setStatus_watch (b : Chip) (i o st : Nat) :
    (b.setStatus i o st).watch = b.watch := rfl
@[simp] theorem Chip.setStatus_test (b : Chip) (i o st : Nat) :
    (b.setStatus i o st).test = b.test := rfl
@[simp] theorem Chip.setStatus_aon (b : Chip) (i o st : Nat) :
    (b.setStatus i o st).aon = b.aon := rfl
@[simp] theorem Chip.setStatus_lantern (b : Chip) (i o st : Nat) :
    (b.setStatus i o st).lantern = b.lantern := rfl
@[simp] theorem Chip.setStatus_log (b : Chip) (i o st : Nat) :
    (b.setStatus i o st).log = b.log := rfl
@[simp] theorem Chip.setStatus_debug (b : Chip) (i o st : Nat) :
    (b.setStatus i o st).dbg = b.dbg := rfl
@[simp] theorem Chip.setStatus_inject (b : Chip) (i o st : Nat) :
    (b.setStatus i o st).inject = b.inject := rfl
@[simp] theorem Chip.setStatus_free (b : Chip) (i o st : Nat) :
    (b.setStatus i o st).free = b.free := rfl

/-! ### beginCmd -/

@[simp] theorem Chip.beginCmd_dev (b : Chip) (i o : Nat) :
    (b.beginCmd i o).dev = b.dev := rfl
@[simp] theorem Chip.beginCmd_belfry (b : Chip) (i o : Nat) :
    (b.beginCmd i o).belfry = b.belfry := rfl
@[simp] theorem Chip.beginCmd_banks (b : Chip) (i o : Nat) :
    (b.beginCmd i o).banks = b.banks := rfl
@[simp] theorem Chip.beginCmd_vanes (b : Chip) (i o : Nat) :
    (b.beginCmd i o).vanes = b.vanes := rfl
@[simp] theorem Chip.beginCmd_parts (b : Chip) (i o : Nat) :
    (b.beginCmd i o).parts = b.parts := rfl
@[simp] theorem Chip.beginCmd_regions (b : Chip) (i o : Nat) :
    (b.beginCmd i o).regions = b.regions := rfl
@[simp] theorem Chip.beginCmd_lanes (b : Chip) (i o : Nat) :
    (b.beginCmd i o).lanes = b.lanes := rfl
@[simp] theorem Chip.beginCmd_mem (b : Chip) (i o : Nat) :
    (b.beginCmd i o).mem = b.mem := rfl
@[simp] theorem Chip.beginCmd_queues (b : Chip) (i o : Nat) :
    (b.beginCmd i o).queues = b.queues := rfl
@[simp] theorem Chip.beginCmd_slices (b : Chip) (i o : Nat) :
    (b.beginCmd i o).slices = b.slices := rfl
@[simp] theorem Chip.beginCmd_hub (b : Chip) (i o : Nat) :
    (b.beginCmd i o).hub = b.hub := rfl
@[simp] theorem Chip.beginCmd_cupola (b : Chip) (i o : Nat) :
    (b.beginCmd i o).cupola = b.cupola := rfl
@[simp] theorem Chip.beginCmd_ports (b : Chip) (i o : Nat) :
    (b.beginCmd i o).ports = b.ports := rfl
@[simp] theorem Chip.beginCmd_ecat (b : Chip) (i o : Nat) :
    (b.beginCmd i o).ecat = b.ecat := rfl
@[simp] theorem Chip.beginCmd_loader (b : Chip) (i o : Nat) :
    (b.beginCmd i o).loader = b.loader := rfl
@[simp] theorem Chip.beginCmd_watch (b : Chip) (i o : Nat) :
    (b.beginCmd i o).watch = b.watch := rfl
@[simp] theorem Chip.beginCmd_test (b : Chip) (i o : Nat) :
    (b.beginCmd i o).test = b.test := rfl
@[simp] theorem Chip.beginCmd_aon (b : Chip) (i o : Nat) :
    (b.beginCmd i o).aon = b.aon := rfl
@[simp] theorem Chip.beginCmd_lantern (b : Chip) (i o : Nat) :
    (b.beginCmd i o).lantern = b.lantern := rfl
@[simp] theorem Chip.beginCmd_log (b : Chip) (i o : Nat) :
    (b.beginCmd i o).log = b.log := rfl
@[simp] theorem Chip.beginCmd_debug (b : Chip) (i o : Nat) :
    (b.beginCmd i o).dbg = b.dbg := rfl
@[simp] theorem Chip.beginCmd_inject (b : Chip) (i o : Nat) :
    (b.beginCmd i o).inject = b.inject := rfl
@[simp] theorem Chip.beginCmd_free (b : Chip) (i o : Nat) :
    (b.beginCmd i o).free = b.free := rfl

/-! ### endCmd -/

@[simp] theorem Chip.endCmd_dev (b : Chip) (i st : Nat) :
    (b.endCmd i st).dev = b.dev := by
  simp only [Chip.endCmd]; split <;> rfl
@[simp] theorem Chip.endCmd_belfry (b : Chip) (i st : Nat) :
    (b.endCmd i st).belfry = b.belfry := by
  simp only [Chip.endCmd]; split <;> rfl
@[simp] theorem Chip.endCmd_banks (b : Chip) (i st : Nat) :
    (b.endCmd i st).banks = b.banks := by
  simp only [Chip.endCmd]; split <;> rfl
@[simp] theorem Chip.endCmd_vanes (b : Chip) (i st : Nat) :
    (b.endCmd i st).vanes = b.vanes := by
  simp only [Chip.endCmd]; split <;> rfl
@[simp] theorem Chip.endCmd_parts (b : Chip) (i st : Nat) :
    (b.endCmd i st).parts = b.parts := by
  simp only [Chip.endCmd]; split <;> rfl
@[simp] theorem Chip.endCmd_regions (b : Chip) (i st : Nat) :
    (b.endCmd i st).regions = b.regions := by
  simp only [Chip.endCmd]; split <;> rfl
@[simp] theorem Chip.endCmd_lanes (b : Chip) (i st : Nat) :
    (b.endCmd i st).lanes = b.lanes := by
  simp only [Chip.endCmd]; split <;> rfl
@[simp] theorem Chip.endCmd_mem (b : Chip) (i st : Nat) :
    (b.endCmd i st).mem = b.mem := by
  simp only [Chip.endCmd]; split <;> rfl
@[simp] theorem Chip.endCmd_queues (b : Chip) (i st : Nat) :
    (b.endCmd i st).queues = b.queues := by
  simp only [Chip.endCmd]; split <;> rfl
@[simp] theorem Chip.endCmd_slices (b : Chip) (i st : Nat) :
    (b.endCmd i st).slices = b.slices := by
  simp only [Chip.endCmd]; split <;> rfl
@[simp] theorem Chip.endCmd_hub (b : Chip) (i st : Nat) :
    (b.endCmd i st).hub = b.hub := by
  simp only [Chip.endCmd]; split <;> rfl
@[simp] theorem Chip.endCmd_cupola (b : Chip) (i st : Nat) :
    (b.endCmd i st).cupola = b.cupola := by
  simp only [Chip.endCmd]; split <;> rfl
@[simp] theorem Chip.endCmd_ports (b : Chip) (i st : Nat) :
    (b.endCmd i st).ports = b.ports := by
  simp only [Chip.endCmd]; split <;> rfl
@[simp] theorem Chip.endCmd_ecat (b : Chip) (i st : Nat) :
    (b.endCmd i st).ecat = b.ecat := by
  simp only [Chip.endCmd]; split <;> rfl
@[simp] theorem Chip.endCmd_loader (b : Chip) (i st : Nat) :
    (b.endCmd i st).loader = b.loader := by
  simp only [Chip.endCmd]; split <;> rfl
@[simp] theorem Chip.endCmd_watch (b : Chip) (i st : Nat) :
    (b.endCmd i st).watch = b.watch := by
  simp only [Chip.endCmd]; split <;> rfl
@[simp] theorem Chip.endCmd_test (b : Chip) (i st : Nat) :
    (b.endCmd i st).test = b.test := by
  simp only [Chip.endCmd]; split <;> rfl
@[simp] theorem Chip.endCmd_aon (b : Chip) (i st : Nat) :
    (b.endCmd i st).aon = b.aon := by
  simp only [Chip.endCmd]; split <;> rfl
@[simp] theorem Chip.endCmd_lantern (b : Chip) (i st : Nat) :
    (b.endCmd i st).lantern = b.lantern := by
  simp only [Chip.endCmd]; split <;> rfl
@[simp] theorem Chip.endCmd_log (b : Chip) (i st : Nat) :
    (b.endCmd i st).log = b.log := by
  simp only [Chip.endCmd]; split <;> rfl
@[simp] theorem Chip.endCmd_debug (b : Chip) (i st : Nat) :
    (b.endCmd i st).dbg = b.dbg := by
  simp only [Chip.endCmd]; split <;> rfl
@[simp] theorem Chip.endCmd_inject (b : Chip) (i st : Nat) :
    (b.endCmd i st).inject = b.inject := by
  simp only [Chip.endCmd]; split <;> rfl
@[simp] theorem Chip.endCmd_free (b : Chip) (i st : Nat) :
    (b.endCmd i st).free = b.free := by
  simp only [Chip.endCmd]; split <;> rfl

/-! ### setContract -/

@[simp] theorem Chip.setContract_dev (b : Chip) (p : Nat) (st : Contract) :
    (b.setContract p st).dev = b.dev := by
  simp only [Chip.setContract]; split <;> simp
@[simp] theorem Chip.setContract_belfry (b : Chip) (p : Nat) (st : Contract) :
    (b.setContract p st).belfry = b.belfry := by
  simp only [Chip.setContract]; split <;> simp
@[simp] theorem Chip.setContract_banks (b : Chip) (p : Nat) (st : Contract) :
    (b.setContract p st).banks = b.banks := by
  simp only [Chip.setContract]; split <;> simp
@[simp] theorem Chip.setContract_vanes (b : Chip) (p : Nat) (st : Contract) :
    (b.setContract p st).vanes = b.vanes := by
  simp only [Chip.setContract]; split <;> simp
@[simp] theorem Chip.setContract_regions (b : Chip) (p : Nat) (st : Contract) :
    (b.setContract p st).regions = b.regions := by
  simp only [Chip.setContract]; split <;> simp
@[simp] theorem Chip.setContract_lanes (b : Chip) (p : Nat) (st : Contract) :
    (b.setContract p st).lanes = b.lanes := by
  simp only [Chip.setContract]; split <;> simp
@[simp] theorem Chip.setContract_mem (b : Chip) (p : Nat) (st : Contract) :
    (b.setContract p st).mem = b.mem := by
  simp only [Chip.setContract]; split <;> simp
@[simp] theorem Chip.setContract_queues (b : Chip) (p : Nat) (st : Contract) :
    (b.setContract p st).queues = b.queues := by
  simp only [Chip.setContract]; split <;> simp
@[simp] theorem Chip.setContract_slices (b : Chip) (p : Nat) (st : Contract) :
    (b.setContract p st).slices = b.slices := by
  simp only [Chip.setContract]; split <;> simp
@[simp] theorem Chip.setContract_hub (b : Chip) (p : Nat) (st : Contract) :
    (b.setContract p st).hub = b.hub := by
  simp only [Chip.setContract]; split <;> simp
@[simp] theorem Chip.setContract_cupola (b : Chip) (p : Nat) (st : Contract) :
    (b.setContract p st).cupola = b.cupola := by
  simp only [Chip.setContract]; split <;> simp
@[simp] theorem Chip.setContract_ecat (b : Chip) (p : Nat) (st : Contract) :
    (b.setContract p st).ecat = b.ecat := by
  simp only [Chip.setContract]; split <;> simp
@[simp] theorem Chip.setContract_dict (b : Chip) (p : Nat) (st : Contract) :
    (b.setContract p st).dict = b.dict := by
  simp only [Chip.setContract]; split <;> simp
@[simp] theorem Chip.setContract_loader (b : Chip) (p : Nat) (st : Contract) :
    (b.setContract p st).loader = b.loader := by
  simp only [Chip.setContract]; split <;> simp
@[simp] theorem Chip.setContract_watch (b : Chip) (p : Nat) (st : Contract) :
    (b.setContract p st).watch = b.watch := by
  simp only [Chip.setContract]; split <;> simp
@[simp] theorem Chip.setContract_test (b : Chip) (p : Nat) (st : Contract) :
    (b.setContract p st).test = b.test := by
  simp only [Chip.setContract]; split <;> simp
@[simp] theorem Chip.setContract_aon (b : Chip) (p : Nat) (st : Contract) :
    (b.setContract p st).aon = b.aon := by
  simp only [Chip.setContract]; split <;> simp
@[simp] theorem Chip.setContract_lantern (b : Chip) (p : Nat) (st : Contract) :
    (b.setContract p st).lantern = b.lantern := by
  simp only [Chip.setContract]; split <;> simp
@[simp] theorem Chip.setContract_log (b : Chip) (p : Nat) (st : Contract) :
    (b.setContract p st).log = b.log := by
  simp only [Chip.setContract]; split <;> simp
@[simp] theorem Chip.setContract_debug (b : Chip) (p : Nat) (st : Contract) :
    (b.setContract p st).dbg = b.dbg := by
  simp only [Chip.setContract]; split <;> simp
@[simp] theorem Chip.setContract_inject (b : Chip) (p : Nat) (st : Contract) :
    (b.setContract p st).inject = b.inject := by
  simp only [Chip.setContract]; split <;> simp
@[simp] theorem Chip.setContract_free (b : Chip) (p : Nat) (st : Contract) :
    (b.setContract p st).free = b.free := by
  simp only [Chip.setContract]; split <;> simp

/-! ### breakContract -/

@[simp] theorem Chip.breakContract_dev (b : Chip) (p : Nat) :
    (b.breakContract p).dev = b.dev := by
  simp only [Chip.breakContract]; split <;> simp
@[simp] theorem Chip.breakContract_belfry (b : Chip) (p : Nat) :
    (b.breakContract p).belfry = b.belfry := by
  simp only [Chip.breakContract]; split <;> simp
@[simp] theorem Chip.breakContract_banks (b : Chip) (p : Nat) :
    (b.breakContract p).banks = b.banks := by
  simp only [Chip.breakContract]; split <;> simp
@[simp] theorem Chip.breakContract_vanes (b : Chip) (p : Nat) :
    (b.breakContract p).vanes = b.vanes := by
  simp only [Chip.breakContract]; split <;> simp
@[simp] theorem Chip.breakContract_regions (b : Chip) (p : Nat) :
    (b.breakContract p).regions = b.regions := by
  simp only [Chip.breakContract]; split <;> simp
@[simp] theorem Chip.breakContract_lanes (b : Chip) (p : Nat) :
    (b.breakContract p).lanes = b.lanes := by
  simp only [Chip.breakContract]; split <;> simp
@[simp] theorem Chip.breakContract_mem (b : Chip) (p : Nat) :
    (b.breakContract p).mem = b.mem := by
  simp only [Chip.breakContract]; split <;> simp
@[simp] theorem Chip.breakContract_queues (b : Chip) (p : Nat) :
    (b.breakContract p).queues = b.queues := by
  simp only [Chip.breakContract]; split <;> simp
@[simp] theorem Chip.breakContract_slices (b : Chip) (p : Nat) :
    (b.breakContract p).slices = b.slices := by
  simp only [Chip.breakContract]; split <;> simp
@[simp] theorem Chip.breakContract_hub (b : Chip) (p : Nat) :
    (b.breakContract p).hub = b.hub := by
  simp only [Chip.breakContract]; split <;> simp
@[simp] theorem Chip.breakContract_cupola (b : Chip) (p : Nat) :
    (b.breakContract p).cupola = b.cupola := by
  simp only [Chip.breakContract]; split <;> simp
@[simp] theorem Chip.breakContract_ecat (b : Chip) (p : Nat) :
    (b.breakContract p).ecat = b.ecat := by
  simp only [Chip.breakContract]; split <;> simp
@[simp] theorem Chip.breakContract_dict (b : Chip) (p : Nat) :
    (b.breakContract p).dict = b.dict := by
  simp only [Chip.breakContract]; split <;> simp
@[simp] theorem Chip.breakContract_loader (b : Chip) (p : Nat) :
    (b.breakContract p).loader = b.loader := by
  simp only [Chip.breakContract]; split <;> simp
@[simp] theorem Chip.breakContract_watch (b : Chip) (p : Nat) :
    (b.breakContract p).watch = b.watch := by
  simp only [Chip.breakContract]; split <;> simp
@[simp] theorem Chip.breakContract_test (b : Chip) (p : Nat) :
    (b.breakContract p).test = b.test := by
  simp only [Chip.breakContract]; split <;> simp
@[simp] theorem Chip.breakContract_aon (b : Chip) (p : Nat) :
    (b.breakContract p).aon = b.aon := by
  simp only [Chip.breakContract]; split <;> simp
@[simp] theorem Chip.breakContract_lantern (b : Chip) (p : Nat) :
    (b.breakContract p).lantern = b.lantern := by
  simp only [Chip.breakContract]; split <;> simp
@[simp] theorem Chip.breakContract_log (b : Chip) (p : Nat) :
    (b.breakContract p).log = b.log := by
  simp only [Chip.breakContract]; split <;> simp
@[simp] theorem Chip.breakContract_debug (b : Chip) (p : Nat) :
    (b.breakContract p).dbg = b.dbg := by
  simp only [Chip.breakContract]; split <;> simp
@[simp] theorem Chip.breakContract_inject (b : Chip) (p : Nat) :
    (b.breakContract p).inject = b.inject := by
  simp only [Chip.breakContract]; split <;> simp
@[simp] theorem Chip.breakContract_free (b : Chip) (p : Nat) :
    (b.breakContract p).free = b.free := by
  simp only [Chip.breakContract]; split <;> simp

/-! ### breakRegion -/

@[simp] theorem Chip.breakRegion_dev (b : Chip) (r : Nat) :
    (b.breakRegion r).dev = b.dev := by
  simp only [Chip.breakRegion]; split <;> simp
@[simp] theorem Chip.breakRegion_belfry (b : Chip) (r : Nat) :
    (b.breakRegion r).belfry = b.belfry := by
  simp only [Chip.breakRegion]; split <;> simp
@[simp] theorem Chip.breakRegion_banks (b : Chip) (r : Nat) :
    (b.breakRegion r).banks = b.banks := by
  simp only [Chip.breakRegion]; split <;> simp
@[simp] theorem Chip.breakRegion_vanes (b : Chip) (r : Nat) :
    (b.breakRegion r).vanes = b.vanes := by
  simp only [Chip.breakRegion]; split <;> simp
@[simp] theorem Chip.breakRegion_regions (b : Chip) (r : Nat) :
    (b.breakRegion r).regions = b.regions := by
  simp only [Chip.breakRegion]; split <;> simp
@[simp] theorem Chip.breakRegion_lanes (b : Chip) (r : Nat) :
    (b.breakRegion r).lanes = b.lanes := by
  simp only [Chip.breakRegion]; split <;> simp
@[simp] theorem Chip.breakRegion_mem (b : Chip) (r : Nat) :
    (b.breakRegion r).mem = b.mem := by
  simp only [Chip.breakRegion]; split <;> simp
@[simp] theorem Chip.breakRegion_queues (b : Chip) (r : Nat) :
    (b.breakRegion r).queues = b.queues := by
  simp only [Chip.breakRegion]; split <;> simp
@[simp] theorem Chip.breakRegion_slices (b : Chip) (r : Nat) :
    (b.breakRegion r).slices = b.slices := by
  simp only [Chip.breakRegion]; split <;> simp
@[simp] theorem Chip.breakRegion_hub (b : Chip) (r : Nat) :
    (b.breakRegion r).hub = b.hub := by
  simp only [Chip.breakRegion]; split <;> simp
@[simp] theorem Chip.breakRegion_cupola (b : Chip) (r : Nat) :
    (b.breakRegion r).cupola = b.cupola := by
  simp only [Chip.breakRegion]; split <;> simp
@[simp] theorem Chip.breakRegion_ecat (b : Chip) (r : Nat) :
    (b.breakRegion r).ecat = b.ecat := by
  simp only [Chip.breakRegion]; split <;> simp
@[simp] theorem Chip.breakRegion_dict (b : Chip) (r : Nat) :
    (b.breakRegion r).dict = b.dict := by
  simp only [Chip.breakRegion]; split <;> simp
@[simp] theorem Chip.breakRegion_loader (b : Chip) (r : Nat) :
    (b.breakRegion r).loader = b.loader := by
  simp only [Chip.breakRegion]; split <;> simp
@[simp] theorem Chip.breakRegion_watch (b : Chip) (r : Nat) :
    (b.breakRegion r).watch = b.watch := by
  simp only [Chip.breakRegion]; split <;> simp
@[simp] theorem Chip.breakRegion_test (b : Chip) (r : Nat) :
    (b.breakRegion r).test = b.test := by
  simp only [Chip.breakRegion]; split <;> simp
@[simp] theorem Chip.breakRegion_aon (b : Chip) (r : Nat) :
    (b.breakRegion r).aon = b.aon := by
  simp only [Chip.breakRegion]; split <;> simp
@[simp] theorem Chip.breakRegion_lantern (b : Chip) (r : Nat) :
    (b.breakRegion r).lantern = b.lantern := by
  simp only [Chip.breakRegion]; split <;> simp
@[simp] theorem Chip.breakRegion_log (b : Chip) (r : Nat) :
    (b.breakRegion r).log = b.log := by
  simp only [Chip.breakRegion]; split <;> simp
@[simp] theorem Chip.breakRegion_debug (b : Chip) (r : Nat) :
    (b.breakRegion r).dbg = b.dbg := by
  simp only [Chip.breakRegion]; split <;> simp
@[simp] theorem Chip.breakRegion_inject (b : Chip) (r : Nat) :
    (b.breakRegion r).inject = b.inject := by
  simp only [Chip.breakRegion]; split <;> simp
@[simp] theorem Chip.breakRegion_free (b : Chip) (r : Nat) :
    (b.breakRegion r).free = b.free := by
  simp only [Chip.breakRegion]; split <;> simp

/-! ### sendResponse -/

@[simp] theorem Chip.sendResponse_dev (b : Chip) (o : Nat) (f : Bytes) :
    (b.sendResponse o f).dev = b.dev := by
  simp only [Chip.sendResponse]; split; · split <;> rfl
  split; · split <;> rfl
  split <;> rfl
@[simp] theorem Chip.sendResponse_belfry (b : Chip) (o : Nat) (f : Bytes) :
    (b.sendResponse o f).belfry = b.belfry := by
  simp only [Chip.sendResponse]; split; · split <;> rfl
  split; · split <;> rfl
  split <;> rfl
@[simp] theorem Chip.sendResponse_banks (b : Chip) (o : Nat) (f : Bytes) :
    (b.sendResponse o f).banks = b.banks := by
  simp only [Chip.sendResponse]; split; · split <;> rfl
  split; · split <;> rfl
  split <;> rfl
@[simp] theorem Chip.sendResponse_vanes (b : Chip) (o : Nat) (f : Bytes) :
    (b.sendResponse o f).vanes = b.vanes := by
  simp only [Chip.sendResponse]; split; · split <;> rfl
  split; · split <;> rfl
  split <;> rfl
@[simp] theorem Chip.sendResponse_parts (b : Chip) (o : Nat) (f : Bytes) :
    (b.sendResponse o f).parts = b.parts := by
  simp only [Chip.sendResponse]; split; · split <;> rfl
  split; · split <;> rfl
  split <;> rfl
@[simp] theorem Chip.sendResponse_regions (b : Chip) (o : Nat) (f : Bytes) :
    (b.sendResponse o f).regions = b.regions := by
  simp only [Chip.sendResponse]; split; · split <;> rfl
  split; · split <;> rfl
  split <;> rfl
@[simp] theorem Chip.sendResponse_lanes (b : Chip) (o : Nat) (f : Bytes) :
    (b.sendResponse o f).lanes = b.lanes := by
  simp only [Chip.sendResponse]; split; · split <;> rfl
  split; · split <;> rfl
  split <;> rfl
@[simp] theorem Chip.sendResponse_mem (b : Chip) (o : Nat) (f : Bytes) :
    (b.sendResponse o f).mem = b.mem := by
  simp only [Chip.sendResponse]; split; · split <;> rfl
  split; · split <;> rfl
  split <;> rfl
@[simp] theorem Chip.sendResponse_queues (b : Chip) (o : Nat) (f : Bytes) :
    (b.sendResponse o f).queues = b.queues := by
  simp only [Chip.sendResponse]; split; · split <;> rfl
  split; · split <;> rfl
  split <;> rfl
@[simp] theorem Chip.sendResponse_slices (b : Chip) (o : Nat) (f : Bytes) :
    (b.sendResponse o f).slices = b.slices := by
  simp only [Chip.sendResponse]; split; · split <;> rfl
  split; · split <;> rfl
  split <;> rfl
@[simp] theorem Chip.sendResponse_hub (b : Chip) (o : Nat) (f : Bytes) :
    (b.sendResponse o f).hub = b.hub := by
  simp only [Chip.sendResponse]; split; · split <;> rfl
  split; · split <;> rfl
  split <;> rfl
@[simp] theorem Chip.sendResponse_cupola (b : Chip) (o : Nat) (f : Bytes) :
    (b.sendResponse o f).cupola = b.cupola := by
  simp only [Chip.sendResponse]; split; · split <;> rfl
  split; · split <;> rfl
  split <;> rfl
@[simp] theorem Chip.sendResponse_dict (b : Chip) (o : Nat) (f : Bytes) :
    (b.sendResponse o f).dict = b.dict := by
  simp only [Chip.sendResponse]; split; · split <;> rfl
  split; · split <;> rfl
  split <;> rfl
@[simp] theorem Chip.sendResponse_loader (b : Chip) (o : Nat) (f : Bytes) :
    (b.sendResponse o f).loader = b.loader := by
  simp only [Chip.sendResponse]; split; · split <;> rfl
  split; · split <;> rfl
  split <;> rfl
@[simp] theorem Chip.sendResponse_watch (b : Chip) (o : Nat) (f : Bytes) :
    (b.sendResponse o f).watch = b.watch := by
  simp only [Chip.sendResponse]; split; · split <;> rfl
  split; · split <;> rfl
  split <;> rfl
@[simp] theorem Chip.sendResponse_test (b : Chip) (o : Nat) (f : Bytes) :
    (b.sendResponse o f).test = b.test := by
  simp only [Chip.sendResponse]; split; · split <;> rfl
  split; · split <;> rfl
  split <;> rfl
@[simp] theorem Chip.sendResponse_aon (b : Chip) (o : Nat) (f : Bytes) :
    (b.sendResponse o f).aon = b.aon := by
  simp only [Chip.sendResponse]; split; · split <;> rfl
  split; · split <;> rfl
  split <;> rfl
@[simp] theorem Chip.sendResponse_lantern (b : Chip) (o : Nat) (f : Bytes) :
    (b.sendResponse o f).lantern = b.lantern := by
  simp only [Chip.sendResponse]; split; · split <;> rfl
  split; · split <;> rfl
  split <;> rfl
@[simp] theorem Chip.sendResponse_log (b : Chip) (o : Nat) (f : Bytes) :
    (b.sendResponse o f).log = b.log := by
  simp only [Chip.sendResponse]; split; · split <;> rfl
  split; · split <;> rfl
  split <;> rfl
@[simp] theorem Chip.sendResponse_inject (b : Chip) (o : Nat) (f : Bytes) :
    (b.sendResponse o f).inject = b.inject := by
  simp only [Chip.sendResponse]; split; · split <;> rfl
  split; · split <;> rfl
  split <;> rfl
@[simp] theorem Chip.sendResponse_free (b : Chip) (o : Nat) (f : Bytes) :
    (b.sendResponse o f).free = b.free := by
  simp only [Chip.sendResponse]; split; · split <;> rfl
  split; · split <;> rfl
  split <;> rfl

/-! ### answer -/

@[simp] theorem Chip.answer_dev (b : Chip) (o : Nat) (r : Reply) :
    (b.answer o r).dev = b.dev := by
  simp [Chip.answer]
@[simp] theorem Chip.answer_belfry (b : Chip) (o : Nat) (r : Reply) :
    (b.answer o r).belfry = b.belfry := by
  simp [Chip.answer]
@[simp] theorem Chip.answer_banks (b : Chip) (o : Nat) (r : Reply) :
    (b.answer o r).banks = b.banks := by
  simp [Chip.answer]
@[simp] theorem Chip.answer_vanes (b : Chip) (o : Nat) (r : Reply) :
    (b.answer o r).vanes = b.vanes := by
  simp [Chip.answer]
@[simp] theorem Chip.answer_parts (b : Chip) (o : Nat) (r : Reply) :
    (b.answer o r).parts = b.parts := by
  simp [Chip.answer]
@[simp] theorem Chip.answer_regions (b : Chip) (o : Nat) (r : Reply) :
    (b.answer o r).regions = b.regions := by
  simp [Chip.answer]
@[simp] theorem Chip.answer_lanes (b : Chip) (o : Nat) (r : Reply) :
    (b.answer o r).lanes = b.lanes := by
  simp [Chip.answer]
@[simp] theorem Chip.answer_mem (b : Chip) (o : Nat) (r : Reply) :
    (b.answer o r).mem = b.mem := by
  simp [Chip.answer]
@[simp] theorem Chip.answer_queues (b : Chip) (o : Nat) (r : Reply) :
    (b.answer o r).queues = b.queues := by
  simp [Chip.answer]
@[simp] theorem Chip.answer_slices (b : Chip) (o : Nat) (r : Reply) :
    (b.answer o r).slices = b.slices := by
  simp [Chip.answer]
@[simp] theorem Chip.answer_hub (b : Chip) (o : Nat) (r : Reply) :
    (b.answer o r).hub = b.hub := by
  simp [Chip.answer]
@[simp] theorem Chip.answer_cupola (b : Chip) (o : Nat) (r : Reply) :
    (b.answer o r).cupola = b.cupola := by
  simp [Chip.answer]
@[simp] theorem Chip.answer_loader (b : Chip) (o : Nat) (r : Reply) :
    (b.answer o r).loader = b.loader := by
  simp [Chip.answer]
@[simp] theorem Chip.answer_watch (b : Chip) (o : Nat) (r : Reply) :
    (b.answer o r).watch = b.watch := by
  simp [Chip.answer]
@[simp] theorem Chip.answer_test (b : Chip) (o : Nat) (r : Reply) :
    (b.answer o r).test = b.test := by
  simp [Chip.answer]
@[simp] theorem Chip.answer_aon (b : Chip) (o : Nat) (r : Reply) :
    (b.answer o r).aon = b.aon := by
  simp [Chip.answer]
@[simp] theorem Chip.answer_lantern (b : Chip) (o : Nat) (r : Reply) :
    (b.answer o r).lantern = b.lantern := by
  simp [Chip.answer]
@[simp] theorem Chip.answer_log (b : Chip) (o : Nat) (r : Reply) :
    (b.answer o r).log = b.log := by
  simp [Chip.answer]
@[simp] theorem Chip.answer_inject (b : Chip) (o : Nat) (r : Reply) :
    (b.answer o r).inject = b.inject := by
  simp [Chip.answer]
@[simp] theorem Chip.answer_free (b : Chip) (o : Nat) (r : Reply) :
    (b.answer o r).free = b.free := by
  simp [Chip.answer]

end Sys2Proof.Machine
end

