-- ==== Sys2Proof/Laws/Contain.lean ====
section
/-! SUPPORT. The frames of containment: parks, resets, fences and misses, and what they do to the record of a region
and to a contract. -/

namespace Sys2Proof.Machine

open Sys2Proof

/-- What every round of a loop keeps, the loop keeps. -/
theorem Chip.forEach_keep {β : Type} (g : Chip → β) (f : Chip → Nat → Chip) (h : ∀ b x, g (f b x) = g b) (l : List Nat)
    (b : Chip) : g (b.forEach l f) = g b := by
  unfold Chip.forEach
  induction l generalizing b with
  | nil => rfl
  | cons x t ih => rw [List.foldl_cons, ih, h]


/-! ### stopSlots -/

@[simp] theorem Chip.stopSlots_dev (b : Chip) (r : Nat) :
    (b.stopSlots r).dev = b.dev := rfl
@[simp] theorem Chip.stopSlots_belfry (b : Chip) (r : Nat) :
    (b.stopSlots r).belfry = b.belfry := rfl
@[simp] theorem Chip.stopSlots_banks (b : Chip) (r : Nat) :
    (b.stopSlots r).banks = b.banks := rfl
@[simp] theorem Chip.stopSlots_vanes (b : Chip) (r : Nat) :
    (b.stopSlots r).vanes = b.vanes := rfl
@[simp] theorem Chip.stopSlots_parts (b : Chip) (r : Nat) :
    (b.stopSlots r).parts = b.parts := rfl
@[simp] theorem Chip.stopSlots_lanes (b : Chip) (r : Nat) :
    (b.stopSlots r).lanes = b.lanes := rfl
@[simp] theorem Chip.stopSlots_mem (b : Chip) (r : Nat) :
    (b.stopSlots r).mem = b.mem := rfl
@[simp] theorem Chip.stopSlots_queues (b : Chip) (r : Nat) :
    (b.stopSlots r).queues = b.queues := rfl
@[simp] theorem Chip.stopSlots_slices (b : Chip) (r : Nat) :
    (b.stopSlots r).slices = b.slices := rfl
@[simp] theorem Chip.stopSlots_hub (b : Chip) (r : Nat) :
    (b.stopSlots r).hub = b.hub := rfl
@[simp] theorem Chip.stopSlots_cupola (b : Chip) (r : Nat) :
    (b.stopSlots r).cupola = b.cupola := rfl
@[simp] theorem Chip.stopSlots_ports (b : Chip) (r : Nat) :
    (b.stopSlots r).ports = b.ports := rfl
@[simp] theorem Chip.stopSlots_ecat (b : Chip) (r : Nat) :
    (b.stopSlots r).ecat = b.ecat := rfl
@[simp] theorem Chip.stopSlots_dict (b : Chip) (r : Nat) :
    (b.stopSlots r).dict = b.dict := rfl
@[simp] theorem Chip.stopSlots_loader (b : Chip) (r : Nat) :
    (b.stopSlots r).loader = b.loader := rfl
@[simp] theorem Chip.stopSlots_watch (b : Chip) (r : Nat) :
    (b.stopSlots r).watch = b.watch := rfl
@[simp] theorem Chip.stopSlots_test (b : Chip) (r : Nat) :
    (b.stopSlots r).test = b.test := rfl
@[simp] theorem Chip.stopSlots_aon (b : Chip) (r : Nat) :
    (b.stopSlots r).aon = b.aon := rfl
@[simp] theorem Chip.stopSlots_lantern (b : Chip) (r : Nat) :
    (b.stopSlots r).lantern = b.lantern := rfl
@[simp] theorem Chip.stopSlots_log (b : Chip) (r : Nat) :
    (b.stopSlots r).log = b.log := rfl
@[simp] theorem Chip.stopSlots_debug (b : Chip) (r : Nat) :
    (b.stopSlots r).dbg = b.dbg := rfl
@[simp] theorem Chip.stopSlots_inject (b : Chip) (r : Nat) :
    (b.stopSlots r).inject = b.inject := rfl
@[simp] theorem Chip.stopSlots_free (b : Chip) (r : Nat) :
    (b.stopSlots r).free = b.free := rfl

/-! ### startSlots -/

@[simp] theorem Chip.startSlots_dev (b : Chip) (r : Nat) :
    (b.startSlots r).dev = b.dev := by
  simp only [Chip.startSlots]; split <;> rfl
@[simp] theorem Chip.startSlots_belfry (b : Chip) (r : Nat) :
    (b.startSlots r).belfry = b.belfry := by
  simp only [Chip.startSlots]; split <;> rfl
@[simp] theorem Chip.startSlots_banks (b : Chip) (r : Nat) :
    (b.startSlots r).banks = b.banks := by
  simp only [Chip.startSlots]; split <;> rfl
@[simp] theorem Chip.startSlots_vanes (b : Chip) (r : Nat) :
    (b.startSlots r).vanes = b.vanes := by
  simp only [Chip.startSlots]; split <;> rfl
@[simp] theorem Chip.startSlots_parts (b : Chip) (r : Nat) :
    (b.startSlots r).parts = b.parts := by
  simp only [Chip.startSlots]; split <;> rfl
@[simp] theorem Chip.startSlots_lanes (b : Chip) (r : Nat) :
    (b.startSlots r).lanes = b.lanes := by
  simp only [Chip.startSlots]; split <;> rfl
@[simp] theorem Chip.startSlots_mem (b : Chip) (r : Nat) :
    (b.startSlots r).mem = b.mem := by
  simp only [Chip.startSlots]; split <;> rfl
@[simp] theorem Chip.startSlots_queues (b : Chip) (r : Nat) :
    (b.startSlots r).queues = b.queues := by
  simp only [Chip.startSlots]; split <;> rfl
@[simp] theorem Chip.startSlots_slices (b : Chip) (r : Nat) :
    (b.startSlots r).slices = b.slices := by
  simp only [Chip.startSlots]; split <;> rfl
@[simp] theorem Chip.startSlots_hub (b : Chip) (r : Nat) :
    (b.startSlots r).hub = b.hub := by
  simp only [Chip.startSlots]; split <;> rfl
@[simp] theorem Chip.startSlots_cupola (b : Chip) (r : Nat) :
    (b.startSlots r).cupola = b.cupola := by
  simp only [Chip.startSlots]; split <;> rfl
@[simp] theorem Chip.startSlots_ports (b : Chip) (r : Nat) :
    (b.startSlots r).ports = b.ports := by
  simp only [Chip.startSlots]; split <;> rfl
@[simp] theorem Chip.startSlots_ecat (b : Chip) (r : Nat) :
    (b.startSlots r).ecat = b.ecat := by
  simp only [Chip.startSlots]; split <;> rfl
@[simp] theorem Chip.startSlots_dict (b : Chip) (r : Nat) :
    (b.startSlots r).dict = b.dict := by
  simp only [Chip.startSlots]; split <;> rfl
@[simp] theorem Chip.startSlots_loader (b : Chip) (r : Nat) :
    (b.startSlots r).loader = b.loader := by
  simp only [Chip.startSlots]; split <;> rfl
@[simp] theorem Chip.startSlots_watch (b : Chip) (r : Nat) :
    (b.startSlots r).watch = b.watch := by
  simp only [Chip.startSlots]; split <;> rfl
@[simp] theorem Chip.startSlots_test (b : Chip) (r : Nat) :
    (b.startSlots r).test = b.test := by
  simp only [Chip.startSlots]; split <;> rfl
@[simp] theorem Chip.startSlots_aon (b : Chip) (r : Nat) :
    (b.startSlots r).aon = b.aon := by
  simp only [Chip.startSlots]; split <;> rfl
@[simp] theorem Chip.startSlots_lantern (b : Chip) (r : Nat) :
    (b.startSlots r).lantern = b.lantern := by
  simp only [Chip.startSlots]; split <;> rfl
@[simp] theorem Chip.startSlots_log (b : Chip) (r : Nat) :
    (b.startSlots r).log = b.log := by
  simp only [Chip.startSlots]; split <;> rfl
@[simp] theorem Chip.startSlots_debug (b : Chip) (r : Nat) :
    (b.startSlots r).dbg = b.dbg := by
  simp only [Chip.startSlots]; split <;> rfl
@[simp] theorem Chip.startSlots_inject (b : Chip) (r : Nat) :
    (b.startSlots r).inject = b.inject := by
  simp only [Chip.startSlots]; split <;> rfl
@[simp] theorem Chip.startSlots_free (b : Chip) (r : Nat) :
    (b.startSlots r).free = b.free := by
  simp only [Chip.startSlots]; split <;> rfl

/-! ### settleRegion -/

@[simp] theorem Chip.settleRegion_dev (b : Chip) (r : Nat) (x : Bool) :
    (b.settleRegion r x).dev = b.dev := rfl
@[simp] theorem Chip.settleRegion_belfry (b : Chip) (r : Nat) (x : Bool) :
    (b.settleRegion r x).belfry = b.belfry := rfl
@[simp] theorem Chip.settleRegion_banks (b : Chip) (r : Nat) (x : Bool) :
    (b.settleRegion r x).banks = b.banks := rfl
@[simp] theorem Chip.settleRegion_vanes (b : Chip) (r : Nat) (x : Bool) :
    (b.settleRegion r x).vanes = b.vanes := rfl
@[simp] theorem Chip.settleRegion_parts (b : Chip) (r : Nat) (x : Bool) :
    (b.settleRegion r x).parts = b.parts := rfl
@[simp] theorem Chip.settleRegion_lanes (b : Chip) (r : Nat) (x : Bool) :
    (b.settleRegion r x).lanes = b.lanes := rfl
@[simp] theorem Chip.settleRegion_mem (b : Chip) (r : Nat) (x : Bool) :
    (b.settleRegion r x).mem = b.mem := rfl
@[simp] theorem Chip.settleRegion_queues (b : Chip) (r : Nat) (x : Bool) :
    (b.settleRegion r x).queues = b.queues := rfl
@[simp] theorem Chip.settleRegion_slices (b : Chip) (r : Nat) (x : Bool) :
    (b.settleRegion r x).slices = b.slices := rfl
@[simp] theorem Chip.settleRegion_hub (b : Chip) (r : Nat) (x : Bool) :
    (b.settleRegion r x).hub = b.hub := rfl
@[simp] theorem Chip.settleRegion_cupola (b : Chip) (r : Nat) (x : Bool) :
    (b.settleRegion r x).cupola = b.cupola := rfl
@[simp] theorem Chip.settleRegion_ports (b : Chip) (r : Nat) (x : Bool) :
    (b.settleRegion r x).ports = b.ports := rfl
@[simp] theorem Chip.settleRegion_ecat (b : Chip) (r : Nat) (x : Bool) :
    (b.settleRegion r x).ecat = b.ecat := rfl
@[simp] theorem Chip.settleRegion_dict (b : Chip) (r : Nat) (x : Bool) :
    (b.settleRegion r x).dict = b.dict := rfl
@[simp] theorem Chip.settleRegion_loader (b : Chip) (r : Nat) (x : Bool) :
    (b.settleRegion r x).loader = b.loader := rfl
@[simp] theorem Chip.settleRegion_watch (b : Chip) (r : Nat) (x : Bool) :
    (b.settleRegion r x).watch = b.watch := rfl
@[simp] theorem Chip.settleRegion_test (b : Chip) (r : Nat) (x : Bool) :
    (b.settleRegion r x).test = b.test := rfl
@[simp] theorem Chip.settleRegion_aon (b : Chip) (r : Nat) (x : Bool) :
    (b.settleRegion r x).aon = b.aon := rfl
@[simp] theorem Chip.settleRegion_lantern (b : Chip) (r : Nat) (x : Bool) :
    (b.settleRegion r x).lantern = b.lantern := rfl
@[simp] theorem Chip.settleRegion_log (b : Chip) (r : Nat) (x : Bool) :
    (b.settleRegion r x).log = b.log := rfl
@[simp] theorem Chip.settleRegion_debug (b : Chip) (r : Nat) (x : Bool) :
    (b.settleRegion r x).dbg = b.dbg := rfl
@[simp] theorem Chip.settleRegion_inject (b : Chip) (r : Nat) (x : Bool) :
    (b.settleRegion r x).inject = b.inject := rfl
@[simp] theorem Chip.settleRegion_free (b : Chip) (r : Nat) (x : Bool) :
    (b.settleRegion r x).free = b.free := rfl

/-! ### stopIsle -/

@[simp] theorem Chip.stopIsle_dev (b : Chip) (r c : Nat) :
    (b.stopIsle r c).dev = b.dev := rfl
@[simp] theorem Chip.stopIsle_belfry (b : Chip) (r c : Nat) :
    (b.stopIsle r c).belfry = b.belfry := rfl
@[simp] theorem Chip.stopIsle_banks (b : Chip) (r c : Nat) :
    (b.stopIsle r c).banks = b.banks := rfl
@[simp] theorem Chip.stopIsle_vanes (b : Chip) (r c : Nat) :
    (b.stopIsle r c).vanes = b.vanes := rfl
@[simp] theorem Chip.stopIsle_parts (b : Chip) (r c : Nat) :
    (b.stopIsle r c).parts = b.parts := rfl
@[simp] theorem Chip.stopIsle_lanes (b : Chip) (r c : Nat) :
    (b.stopIsle r c).lanes = b.lanes := rfl
@[simp] theorem Chip.stopIsle_mem (b : Chip) (r c : Nat) :
    (b.stopIsle r c).mem = b.mem := rfl
@[simp] theorem Chip.stopIsle_queues (b : Chip) (r c : Nat) :
    (b.stopIsle r c).queues = b.queues := rfl
@[simp] theorem Chip.stopIsle_slices (b : Chip) (r c : Nat) :
    (b.stopIsle r c).slices = b.slices := rfl
@[simp] theorem Chip.stopIsle_hub (b : Chip) (r c : Nat) :
    (b.stopIsle r c).hub = b.hub := rfl
@[simp] theorem Chip.stopIsle_cupola (b : Chip) (r c : Nat) :
    (b.stopIsle r c).cupola = b.cupola := rfl
@[simp] theorem Chip.stopIsle_ports (b : Chip) (r c : Nat) :
    (b.stopIsle r c).ports = b.ports := rfl
@[simp] theorem Chip.stopIsle_ecat (b : Chip) (r c : Nat) :
    (b.stopIsle r c).ecat = b.ecat := rfl
@[simp] theorem Chip.stopIsle_dict (b : Chip) (r c : Nat) :
    (b.stopIsle r c).dict = b.dict := rfl
@[simp] theorem Chip.stopIsle_loader (b : Chip) (r c : Nat) :
    (b.stopIsle r c).loader = b.loader := rfl
@[simp] theorem Chip.stopIsle_watch (b : Chip) (r c : Nat) :
    (b.stopIsle r c).watch = b.watch := rfl
@[simp] theorem Chip.stopIsle_test (b : Chip) (r c : Nat) :
    (b.stopIsle r c).test = b.test := rfl
@[simp] theorem Chip.stopIsle_aon (b : Chip) (r c : Nat) :
    (b.stopIsle r c).aon = b.aon := rfl
@[simp] theorem Chip.stopIsle_lantern (b : Chip) (r c : Nat) :
    (b.stopIsle r c).lantern = b.lantern := rfl
@[simp] theorem Chip.stopIsle_log (b : Chip) (r c : Nat) :
    (b.stopIsle r c).log = b.log := rfl
@[simp] theorem Chip.stopIsle_debug (b : Chip) (r c : Nat) :
    (b.stopIsle r c).dbg = b.dbg := rfl
@[simp] theorem Chip.stopIsle_inject (b : Chip) (r c : Nat) :
    (b.stopIsle r c).inject = b.inject := rfl
@[simp] theorem Chip.stopIsle_free (b : Chip) (r c : Nat) :
    (b.stopIsle r c).free = b.free := rfl

/-! ### startIsle -/

@[simp] theorem Chip.startIsle_dev (b : Chip) (r : Nat) :
    (b.startIsle r).dev = b.dev := rfl
@[simp] theorem Chip.startIsle_belfry (b : Chip) (r : Nat) :
    (b.startIsle r).belfry = b.belfry := rfl
@[simp] theorem Chip.startIsle_banks (b : Chip) (r : Nat) :
    (b.startIsle r).banks = b.banks := rfl
@[simp] theorem Chip.startIsle_vanes (b : Chip) (r : Nat) :
    (b.startIsle r).vanes = b.vanes := rfl
@[simp] theorem Chip.startIsle_parts (b : Chip) (r : Nat) :
    (b.startIsle r).parts = b.parts := rfl
@[simp] theorem Chip.startIsle_lanes (b : Chip) (r : Nat) :
    (b.startIsle r).lanes = b.lanes := rfl
@[simp] theorem Chip.startIsle_mem (b : Chip) (r : Nat) :
    (b.startIsle r).mem = b.mem := rfl
@[simp] theorem Chip.startIsle_queues (b : Chip) (r : Nat) :
    (b.startIsle r).queues = b.queues := rfl
@[simp] theorem Chip.startIsle_slices (b : Chip) (r : Nat) :
    (b.startIsle r).slices = b.slices := rfl
@[simp] theorem Chip.startIsle_hub (b : Chip) (r : Nat) :
    (b.startIsle r).hub = b.hub := rfl
@[simp] theorem Chip.startIsle_cupola (b : Chip) (r : Nat) :
    (b.startIsle r).cupola = b.cupola := rfl
@[simp] theorem Chip.startIsle_ports (b : Chip) (r : Nat) :
    (b.startIsle r).ports = b.ports := rfl
@[simp] theorem Chip.startIsle_ecat (b : Chip) (r : Nat) :
    (b.startIsle r).ecat = b.ecat := rfl
@[simp] theorem Chip.startIsle_dict (b : Chip) (r : Nat) :
    (b.startIsle r).dict = b.dict := rfl
@[simp] theorem Chip.startIsle_loader (b : Chip) (r : Nat) :
    (b.startIsle r).loader = b.loader := rfl
@[simp] theorem Chip.startIsle_watch (b : Chip) (r : Nat) :
    (b.startIsle r).watch = b.watch := rfl
@[simp] theorem Chip.startIsle_test (b : Chip) (r : Nat) :
    (b.startIsle r).test = b.test := rfl
@[simp] theorem Chip.startIsle_aon (b : Chip) (r : Nat) :
    (b.startIsle r).aon = b.aon := rfl
@[simp] theorem Chip.startIsle_lantern (b : Chip) (r : Nat) :
    (b.startIsle r).lantern = b.lantern := rfl
@[simp] theorem Chip.startIsle_log (b : Chip) (r : Nat) :
    (b.startIsle r).log = b.log := rfl
@[simp] theorem Chip.startIsle_debug (b : Chip) (r : Nat) :
    (b.startIsle r).dbg = b.dbg := rfl
@[simp] theorem Chip.startIsle_inject (b : Chip) (r : Nat) :
    (b.startIsle r).inject = b.inject := rfl
@[simp] theorem Chip.startIsle_free (b : Chip) (r : Nat) :
    (b.startIsle r).free = b.free := rfl

/-! ### gateIsle -/

@[simp] theorem Chip.gateIsle_dev (b : Chip) (r c : Nat) :
    (b.gateIsle r c).dev = b.dev := rfl
@[simp] theorem Chip.gateIsle_belfry (b : Chip) (r c : Nat) :
    (b.gateIsle r c).belfry = b.belfry := rfl
@[simp] theorem Chip.gateIsle_banks (b : Chip) (r c : Nat) :
    (b.gateIsle r c).banks = b.banks := rfl
@[simp] theorem Chip.gateIsle_vanes (b : Chip) (r c : Nat) :
    (b.gateIsle r c).vanes = b.vanes := rfl
@[simp] theorem Chip.gateIsle_parts (b : Chip) (r c : Nat) :
    (b.gateIsle r c).parts = b.parts := rfl
@[simp] theorem Chip.gateIsle_lanes (b : Chip) (r c : Nat) :
    (b.gateIsle r c).lanes = b.lanes := rfl
@[simp] theorem Chip.gateIsle_mem (b : Chip) (r c : Nat) :
    (b.gateIsle r c).mem = b.mem := rfl
@[simp] theorem Chip.gateIsle_queues (b : Chip) (r c : Nat) :
    (b.gateIsle r c).queues = b.queues := rfl
@[simp] theorem Chip.gateIsle_slices (b : Chip) (r c : Nat) :
    (b.gateIsle r c).slices = b.slices := rfl
@[simp] theorem Chip.gateIsle_hub (b : Chip) (r c : Nat) :
    (b.gateIsle r c).hub = b.hub := rfl
@[simp] theorem Chip.gateIsle_cupola (b : Chip) (r c : Nat) :
    (b.gateIsle r c).cupola = b.cupola := rfl
@[simp] theorem Chip.gateIsle_ports (b : Chip) (r c : Nat) :
    (b.gateIsle r c).ports = b.ports := rfl
@[simp] theorem Chip.gateIsle_ecat (b : Chip) (r c : Nat) :
    (b.gateIsle r c).ecat = b.ecat := rfl
@[simp] theorem Chip.gateIsle_dict (b : Chip) (r c : Nat) :
    (b.gateIsle r c).dict = b.dict := rfl
@[simp] theorem Chip.gateIsle_loader (b : Chip) (r c : Nat) :
    (b.gateIsle r c).loader = b.loader := rfl
@[simp] theorem Chip.gateIsle_watch (b : Chip) (r c : Nat) :
    (b.gateIsle r c).watch = b.watch := rfl
@[simp] theorem Chip.gateIsle_test (b : Chip) (r c : Nat) :
    (b.gateIsle r c).test = b.test := rfl
@[simp] theorem Chip.gateIsle_aon (b : Chip) (r c : Nat) :
    (b.gateIsle r c).aon = b.aon := rfl
@[simp] theorem Chip.gateIsle_lantern (b : Chip) (r c : Nat) :
    (b.gateIsle r c).lantern = b.lantern := rfl
@[simp] theorem Chip.gateIsle_log (b : Chip) (r c : Nat) :
    (b.gateIsle r c).log = b.log := rfl
@[simp] theorem Chip.gateIsle_debug (b : Chip) (r c : Nat) :
    (b.gateIsle r c).dbg = b.dbg := rfl
@[simp] theorem Chip.gateIsle_inject (b : Chip) (r c : Nat) :
    (b.gateIsle r c).inject = b.inject := rfl
@[simp] theorem Chip.gateIsle_free (b : Chip) (r c : Nat) :
    (b.gateIsle r c).free = b.free := rfl

/-! ### setSafe -/

@[simp] theorem Chip.setSafe_dev (b : Chip) (r : Nat) (v : BitVec 64) :
    (b.setSafe r v).dev = b.dev := rfl
@[simp] theorem Chip.setSafe_belfry (b : Chip) (r : Nat) (v : BitVec 64) :
    (b.setSafe r v).belfry = b.belfry := rfl
@[simp] theorem Chip.setSafe_banks (b : Chip) (r : Nat) (v : BitVec 64) :
    (b.setSafe r v).banks = b.banks := rfl
@[simp] theorem Chip.setSafe_vanes (b : Chip) (r : Nat) (v : BitVec 64) :
    (b.setSafe r v).vanes = b.vanes := rfl
@[simp] theorem Chip.setSafe_parts (b : Chip) (r : Nat) (v : BitVec 64) :
    (b.setSafe r v).parts = b.parts := rfl
@[simp] theorem Chip.setSafe_lanes (b : Chip) (r : Nat) (v : BitVec 64) :
    (b.setSafe r v).lanes = b.lanes := rfl
@[simp] theorem Chip.setSafe_mem (b : Chip) (r : Nat) (v : BitVec 64) :
    (b.setSafe r v).mem = b.mem := rfl
@[simp] theorem Chip.setSafe_queues (b : Chip) (r : Nat) (v : BitVec 64) :
    (b.setSafe r v).queues = b.queues := rfl
@[simp] theorem Chip.setSafe_slices (b : Chip) (r : Nat) (v : BitVec 64) :
    (b.setSafe r v).slices = b.slices := rfl
@[simp] theorem Chip.setSafe_hub (b : Chip) (r : Nat) (v : BitVec 64) :
    (b.setSafe r v).hub = b.hub := rfl
@[simp] theorem Chip.setSafe_cupola (b : Chip) (r : Nat) (v : BitVec 64) :
    (b.setSafe r v).cupola = b.cupola := rfl
@[simp] theorem Chip.setSafe_ports (b : Chip) (r : Nat) (v : BitVec 64) :
    (b.setSafe r v).ports = b.ports := rfl
@[simp] theorem Chip.setSafe_ecat (b : Chip) (r : Nat) (v : BitVec 64) :
    (b.setSafe r v).ecat = b.ecat := rfl
@[simp] theorem Chip.setSafe_dict (b : Chip) (r : Nat) (v : BitVec 64) :
    (b.setSafe r v).dict = b.dict := rfl
@[simp] theorem Chip.setSafe_loader (b : Chip) (r : Nat) (v : BitVec 64) :
    (b.setSafe r v).loader = b.loader := rfl
@[simp] theorem Chip.setSafe_watch (b : Chip) (r : Nat) (v : BitVec 64) :
    (b.setSafe r v).watch = b.watch := rfl
@[simp] theorem Chip.setSafe_test (b : Chip) (r : Nat) (v : BitVec 64) :
    (b.setSafe r v).test = b.test := rfl
@[simp] theorem Chip.setSafe_aon (b : Chip) (r : Nat) (v : BitVec 64) :
    (b.setSafe r v).aon = b.aon := rfl
@[simp] theorem Chip.setSafe_lantern (b : Chip) (r : Nat) (v : BitVec 64) :
    (b.setSafe r v).lantern = b.lantern := rfl
@[simp] theorem Chip.setSafe_log (b : Chip) (r : Nat) (v : BitVec 64) :
    (b.setSafe r v).log = b.log := rfl
@[simp] theorem Chip.setSafe_debug (b : Chip) (r : Nat) (v : BitVec 64) :
    (b.setSafe r v).dbg = b.dbg := rfl
@[simp] theorem Chip.setSafe_inject (b : Chip) (r : Nat) (v : BitVec 64) :
    (b.setSafe r v).inject = b.inject := rfl
@[simp] theorem Chip.setSafe_free (b : Chip) (r : Nat) (v : BitVec 64) :
    (b.setSafe r v).free = b.free := rfl

/-! ### noteDrive -/

@[simp] theorem Chip.noteDrive_dev (b : Chip) (k : Nat) :
    (b.noteDrive k).dev = b.dev := rfl
@[simp] theorem Chip.noteDrive_belfry (b : Chip) (k : Nat) :
    (b.noteDrive k).belfry = b.belfry := rfl
@[simp] theorem Chip.noteDrive_vanes (b : Chip) (k : Nat) :
    (b.noteDrive k).vanes = b.vanes := rfl
@[simp] theorem Chip.noteDrive_parts (b : Chip) (k : Nat) :
    (b.noteDrive k).parts = b.parts := rfl
@[simp] theorem Chip.noteDrive_regions (b : Chip) (k : Nat) :
    (b.noteDrive k).regions = b.regions := rfl
@[simp] theorem Chip.noteDrive_lanes (b : Chip) (k : Nat) :
    (b.noteDrive k).lanes = b.lanes := rfl
@[simp] theorem Chip.noteDrive_mem (b : Chip) (k : Nat) :
    (b.noteDrive k).mem = b.mem := rfl
@[simp] theorem Chip.noteDrive_queues (b : Chip) (k : Nat) :
    (b.noteDrive k).queues = b.queues := rfl
@[simp] theorem Chip.noteDrive_slices (b : Chip) (k : Nat) :
    (b.noteDrive k).slices = b.slices := rfl
@[simp] theorem Chip.noteDrive_hub (b : Chip) (k : Nat) :
    (b.noteDrive k).hub = b.hub := rfl
@[simp] theorem Chip.noteDrive_cupola (b : Chip) (k : Nat) :
    (b.noteDrive k).cupola = b.cupola := rfl
@[simp] theorem Chip.noteDrive_ports (b : Chip) (k : Nat) :
    (b.noteDrive k).ports = b.ports := rfl
@[simp] theorem Chip.noteDrive_ecat (b : Chip) (k : Nat) :
    (b.noteDrive k).ecat = b.ecat := rfl
@[simp] theorem Chip.noteDrive_dict (b : Chip) (k : Nat) :
    (b.noteDrive k).dict = b.dict := rfl
@[simp] theorem Chip.noteDrive_loader (b : Chip) (k : Nat) :
    (b.noteDrive k).loader = b.loader := rfl
@[simp] theorem Chip.noteDrive_watch (b : Chip) (k : Nat) :
    (b.noteDrive k).watch = b.watch := rfl
@[simp] theorem Chip.noteDrive_test (b : Chip) (k : Nat) :
    (b.noteDrive k).test = b.test := rfl
@[simp] theorem Chip.noteDrive_aon (b : Chip) (k : Nat) :
    (b.noteDrive k).aon = b.aon := rfl
@[simp] theorem Chip.noteDrive_lantern (b : Chip) (k : Nat) :
    (b.noteDrive k).lantern = b.lantern := rfl
@[simp] theorem Chip.noteDrive_log (b : Chip) (k : Nat) :
    (b.noteDrive k).log = b.log := rfl
@[simp] theorem Chip.noteDrive_debug (b : Chip) (k : Nat) :
    (b.noteDrive k).dbg = b.dbg := rfl
@[simp] theorem Chip.noteDrive_inject (b : Chip) (k : Nat) :
    (b.noteDrive k).inject = b.inject := rfl
@[simp] theorem Chip.noteDrive_free (b : Chip) (k : Nat) :
    (b.noteDrive k).free = b.free := rfl

/-! ### modPins -/

@[simp] theorem Chip.modPins_dev (b : Chip) (k : Nat) (f : Bank → Bank) :
    (b.modPins k f).dev = b.dev := rfl
@[simp] theorem Chip.modPins_belfry (b : Chip) (k : Nat) (f : Bank → Bank) :
    (b.modPins k f).belfry = b.belfry := rfl
@[simp] theorem Chip.modPins_vanes (b : Chip) (k : Nat) (f : Bank → Bank) :
    (b.modPins k f).vanes = b.vanes := rfl
@[simp] theorem Chip.modPins_parts (b : Chip) (k : Nat) (f : Bank → Bank) :
    (b.modPins k f).parts = b.parts := rfl
@[simp] theorem Chip.modPins_regions (b : Chip) (k : Nat) (f : Bank → Bank) :
    (b.modPins k f).regions = b.regions := rfl
@[simp] theorem Chip.modPins_lanes (b : Chip) (k : Nat) (f : Bank → Bank) :
    (b.modPins k f).lanes = b.lanes := rfl
@[simp] theorem Chip.modPins_mem (b : Chip) (k : Nat) (f : Bank → Bank) :
    (b.modPins k f).mem = b.mem := rfl
@[simp] theorem Chip.modPins_queues (b : Chip) (k : Nat) (f : Bank → Bank) :
    (b.modPins k f).queues = b.queues := rfl
@[simp] theorem Chip.modPins_slices (b : Chip) (k : Nat) (f : Bank → Bank) :
    (b.modPins k f).slices = b.slices := rfl
@[simp] theorem Chip.modPins_hub (b : Chip) (k : Nat) (f : Bank → Bank) :
    (b.modPins k f).hub = b.hub := rfl
@[simp] theorem Chip.modPins_cupola (b : Chip) (k : Nat) (f : Bank → Bank) :
    (b.modPins k f).cupola = b.cupola := rfl
@[simp] theorem Chip.modPins_ports (b : Chip) (k : Nat) (f : Bank → Bank) :
    (b.modPins k f).ports = b.ports := rfl
@[simp] theorem Chip.modPins_ecat (b : Chip) (k : Nat) (f : Bank → Bank) :
    (b.modPins k f).ecat = b.ecat := rfl
@[simp] theorem Chip.modPins_dict (b : Chip) (k : Nat) (f : Bank → Bank) :
    (b.modPins k f).dict = b.dict := rfl
@[simp] theorem Chip.modPins_loader (b : Chip) (k : Nat) (f : Bank → Bank) :
    (b.modPins k f).loader = b.loader := rfl
@[simp] theorem Chip.modPins_watch (b : Chip) (k : Nat) (f : Bank → Bank) :
    (b.modPins k f).watch = b.watch := rfl
@[simp] theorem Chip.modPins_test (b : Chip) (k : Nat) (f : Bank → Bank) :
    (b.modPins k f).test = b.test := rfl
@[simp] theorem Chip.modPins_aon (b : Chip) (k : Nat) (f : Bank → Bank) :
    (b.modPins k f).aon = b.aon := rfl
@[simp] theorem Chip.modPins_lantern (b : Chip) (k : Nat) (f : Bank → Bank) :
    (b.modPins k f).lantern = b.lantern := rfl
@[simp] theorem Chip.modPins_log (b : Chip) (k : Nat) (f : Bank → Bank) :
    (b.modPins k f).log = b.log := rfl
@[simp] theorem Chip.modPins_debug (b : Chip) (k : Nat) (f : Bank → Bank) :
    (b.modPins k f).dbg = b.dbg := rfl
@[simp] theorem Chip.modPins_inject (b : Chip) (k : Nat) (f : Bank → Bank) :
    (b.modPins k f).inject = b.inject := rfl
@[simp] theorem Chip.modPins_free (b : Chip) (k : Nat) (f : Bank → Bank) :
    (b.modPins k f).free = b.free := rfl

/-! ### flushBank -/

@[simp] theorem Chip.flushBank_dev (b : Chip) (k : Nat) :
    (b.flushBank k).dev = b.dev := rfl
@[simp] theorem Chip.flushBank_belfry (b : Chip) (k : Nat) :
    (b.flushBank k).belfry = b.belfry := rfl
@[simp] theorem Chip.flushBank_parts (b : Chip) (k : Nat) :
    (b.flushBank k).parts = b.parts := rfl
@[simp] theorem Chip.flushBank_regions (b : Chip) (k : Nat) :
    (b.flushBank k).regions = b.regions := rfl
@[simp] theorem Chip.flushBank_lanes (b : Chip) (k : Nat) :
    (b.flushBank k).lanes = b.lanes := rfl
@[simp] theorem Chip.flushBank_mem (b : Chip) (k : Nat) :
    (b.flushBank k).mem = b.mem := rfl
@[simp] theorem Chip.flushBank_queues (b : Chip) (k : Nat) :
    (b.flushBank k).queues = b.queues := rfl
@[simp] theorem Chip.flushBank_slices (b : Chip) (k : Nat) :
    (b.flushBank k).slices = b.slices := rfl
@[simp] theorem Chip.flushBank_hub (b : Chip) (k : Nat) :
    (b.flushBank k).hub = b.hub := rfl
@[simp] theorem Chip.flushBank_cupola (b : Chip) (k : Nat) :
    (b.flushBank k).cupola = b.cupola := rfl
@[simp] theorem Chip.flushBank_ports (b : Chip) (k : Nat) :
    (b.flushBank k).ports = b.ports := rfl
@[simp] theorem Chip.flushBank_ecat (b : Chip) (k : Nat) :
    (b.flushBank k).ecat = b.ecat := rfl
@[simp] theorem Chip.flushBank_dict (b : Chip) (k : Nat) :
    (b.flushBank k).dict = b.dict := rfl
@[simp] theorem Chip.flushBank_loader (b : Chip) (k : Nat) :
    (b.flushBank k).loader = b.loader := rfl
@[simp] theorem Chip.flushBank_watch (b : Chip) (k : Nat) :
    (b.flushBank k).watch = b.watch := rfl
@[simp] theorem Chip.flushBank_test (b : Chip) (k : Nat) :
    (b.flushBank k).test = b.test := rfl
@[simp] theorem Chip.flushBank_aon (b : Chip) (k : Nat) :
    (b.flushBank k).aon = b.aon := rfl
@[simp] theorem Chip.flushBank_lantern (b : Chip) (k : Nat) :
    (b.flushBank k).lantern = b.lantern := rfl
@[simp] theorem Chip.flushBank_log (b : Chip) (k : Nat) :
    (b.flushBank k).log = b.log := rfl
@[simp] theorem Chip.flushBank_debug (b : Chip) (k : Nat) :
    (b.flushBank k).dbg = b.dbg := rfl
@[simp] theorem Chip.flushBank_inject (b : Chip) (k : Nat) :
    (b.flushBank k).inject = b.inject := rfl
@[simp] theorem Chip.flushBank_free (b : Chip) (k : Nat) :
    (b.flushBank k).free = b.free := rfl

/-! ### parkBank -/

@[simp] theorem Chip.parkBank_dev (b : Chip) (k : Nat) :
    (b.parkBank k).dev = b.dev := rfl
@[simp] theorem Chip.parkBank_belfry (b : Chip) (k : Nat) :
    (b.parkBank k).belfry = b.belfry := rfl
@[simp] theorem Chip.parkBank_parts (b : Chip) (k : Nat) :
    (b.parkBank k).parts = b.parts := rfl
@[simp] theorem Chip.parkBank_regions (b : Chip) (k : Nat) :
    (b.parkBank k).regions = b.regions := rfl
@[simp] theorem Chip.parkBank_lanes (b : Chip) (k : Nat) :
    (b.parkBank k).lanes = b.lanes := rfl
@[simp] theorem Chip.parkBank_mem (b : Chip) (k : Nat) :
    (b.parkBank k).mem = b.mem := rfl
@[simp] theorem Chip.parkBank_queues (b : Chip) (k : Nat) :
    (b.parkBank k).queues = b.queues := rfl
@[simp] theorem Chip.parkBank_slices (b : Chip) (k : Nat) :
    (b.parkBank k).slices = b.slices := rfl
@[simp] theorem Chip.parkBank_hub (b : Chip) (k : Nat) :
    (b.parkBank k).hub = b.hub := rfl
@[simp] theorem Chip.parkBank_cupola (b : Chip) (k : Nat) :
    (b.parkBank k).cupola = b.cupola := rfl
@[simp] theorem Chip.parkBank_ports (b : Chip) (k : Nat) :
    (b.parkBank k).ports = b.ports := rfl
@[simp] theorem Chip.parkBank_ecat (b : Chip) (k : Nat) :
    (b.parkBank k).ecat = b.ecat := rfl
@[simp] theorem Chip.parkBank_dict (b : Chip) (k : Nat) :
    (b.parkBank k).dict = b.dict := rfl
@[simp] theorem Chip.parkBank_loader (b : Chip) (k : Nat) :
    (b.parkBank k).loader = b.loader := rfl
@[simp] theorem Chip.parkBank_watch (b : Chip) (k : Nat) :
    (b.parkBank k).watch = b.watch := rfl
@[simp] theorem Chip.parkBank_test (b : Chip) (k : Nat) :
    (b.parkBank k).test = b.test := rfl
@[simp] theorem Chip.parkBank_aon (b : Chip) (k : Nat) :
    (b.parkBank k).aon = b.aon := rfl
@[simp] theorem Chip.parkBank_lantern (b : Chip) (k : Nat) :
    (b.parkBank k).lantern = b.lantern := rfl
@[simp] theorem Chip.parkBank_log (b : Chip) (k : Nat) :
    (b.parkBank k).log = b.log := rfl
@[simp] theorem Chip.parkBank_debug (b : Chip) (k : Nat) :
    (b.parkBank k).dbg = b.dbg := rfl
@[simp] theorem Chip.parkBank_inject (b : Chip) (k : Nat) :
    (b.parkBank k).inject = b.inject := rfl
@[simp] theorem Chip.parkBank_free (b : Chip) (k : Nat) :
    (b.parkBank k).free = b.free := rfl

/-! ### faultPark -/

@[simp] theorem Chip.faultPark_dev (b : Chip) (k : Nat) :
    (b.faultPark k).dev = b.dev := rfl
@[simp] theorem Chip.faultPark_belfry (b : Chip) (k : Nat) :
    (b.faultPark k).belfry = b.belfry := rfl
@[simp] theorem Chip.faultPark_parts (b : Chip) (k : Nat) :
    (b.faultPark k).parts = b.parts := rfl
@[simp] theorem Chip.faultPark_regions (b : Chip) (k : Nat) :
    (b.faultPark k).regions = b.regions := rfl
@[simp] theorem Chip.faultPark_lanes (b : Chip) (k : Nat) :
    (b.faultPark k).lanes = b.lanes := rfl
@[simp] theorem Chip.faultPark_mem (b : Chip) (k : Nat) :
    (b.faultPark k).mem = b.mem := rfl
@[simp] theorem Chip.faultPark_queues (b : Chip) (k : Nat) :
    (b.faultPark k).queues = b.queues := rfl
@[simp] theorem Chip.faultPark_slices (b : Chip) (k : Nat) :
    (b.faultPark k).slices = b.slices := rfl
@[simp] theorem Chip.faultPark_hub (b : Chip) (k : Nat) :
    (b.faultPark k).hub = b.hub := rfl
@[simp] theorem Chip.faultPark_cupola (b : Chip) (k : Nat) :
    (b.faultPark k).cupola = b.cupola := rfl
@[simp] theorem Chip.faultPark_ports (b : Chip) (k : Nat) :
    (b.faultPark k).ports = b.ports := rfl
@[simp] theorem Chip.faultPark_ecat (b : Chip) (k : Nat) :
    (b.faultPark k).ecat = b.ecat := rfl
@[simp] theorem Chip.faultPark_dict (b : Chip) (k : Nat) :
    (b.faultPark k).dict = b.dict := rfl
@[simp] theorem Chip.faultPark_loader (b : Chip) (k : Nat) :
    (b.faultPark k).loader = b.loader := rfl
@[simp] theorem Chip.faultPark_watch (b : Chip) (k : Nat) :
    (b.faultPark k).watch = b.watch := rfl
@[simp] theorem Chip.faultPark_test (b : Chip) (k : Nat) :
    (b.faultPark k).test = b.test := rfl
@[simp] theorem Chip.faultPark_aon (b : Chip) (k : Nat) :
    (b.faultPark k).aon = b.aon := rfl
@[simp] theorem Chip.faultPark_lantern (b : Chip) (k : Nat) :
    (b.faultPark k).lantern = b.lantern := rfl
@[simp] theorem Chip.faultPark_log (b : Chip) (k : Nat) :
    (b.faultPark k).log = b.log := rfl
@[simp] theorem Chip.faultPark_debug (b : Chip) (k : Nat) :
    (b.faultPark k).dbg = b.dbg := rfl
@[simp] theorem Chip.faultPark_inject (b : Chip) (k : Nat) :
    (b.faultPark k).inject = b.inject := rfl
@[simp] theorem Chip.faultPark_free (b : Chip) (k : Nat) :
    (b.faultPark k).free = b.free := rfl

/-! ### endFaultPark -/

@[simp] theorem Chip.endFaultPark_dev (b : Chip) (r : Nat) :
    (b.endFaultPark r).dev = b.dev := by
  unfold Chip.endFaultPark; apply Chip.forEach_keep Chip.dev; intros; rfl
@[simp] theorem Chip.endFaultPark_belfry (b : Chip) (r : Nat) :
    (b.endFaultPark r).belfry = b.belfry := by
  unfold Chip.endFaultPark; apply Chip.forEach_keep Chip.belfry; intros; rfl
@[simp] theorem Chip.endFaultPark_vanes (b : Chip) (r : Nat) :
    (b.endFaultPark r).vanes = b.vanes := by
  unfold Chip.endFaultPark; apply Chip.forEach_keep Chip.vanes; intros; rfl
@[simp] theorem Chip.endFaultPark_parts (b : Chip) (r : Nat) :
    (b.endFaultPark r).parts = b.parts := by
  unfold Chip.endFaultPark; apply Chip.forEach_keep Chip.parts; intros; rfl
@[simp] theorem Chip.endFaultPark_regions (b : Chip) (r : Nat) :
    (b.endFaultPark r).regions = b.regions := by
  unfold Chip.endFaultPark; apply Chip.forEach_keep Chip.regions; intros; rfl
@[simp] theorem Chip.endFaultPark_lanes (b : Chip) (r : Nat) :
    (b.endFaultPark r).lanes = b.lanes := by
  unfold Chip.endFaultPark; apply Chip.forEach_keep Chip.lanes; intros; rfl
@[simp] theorem Chip.endFaultPark_mem (b : Chip) (r : Nat) :
    (b.endFaultPark r).mem = b.mem := by
  unfold Chip.endFaultPark; apply Chip.forEach_keep Chip.mem; intros; rfl
@[simp] theorem Chip.endFaultPark_queues (b : Chip) (r : Nat) :
    (b.endFaultPark r).queues = b.queues := by
  unfold Chip.endFaultPark; apply Chip.forEach_keep Chip.queues; intros; rfl
@[simp] theorem Chip.endFaultPark_slices (b : Chip) (r : Nat) :
    (b.endFaultPark r).slices = b.slices := by
  unfold Chip.endFaultPark; apply Chip.forEach_keep Chip.slices; intros; rfl
@[simp] theorem Chip.endFaultPark_hub (b : Chip) (r : Nat) :
    (b.endFaultPark r).hub = b.hub := by
  unfold Chip.endFaultPark; apply Chip.forEach_keep Chip.hub; intros; rfl
@[simp] theorem Chip.endFaultPark_cupola (b : Chip) (r : Nat) :
    (b.endFaultPark r).cupola = b.cupola := by
  unfold Chip.endFaultPark; apply Chip.forEach_keep Chip.cupola; intros; rfl
@[simp] theorem Chip.endFaultPark_ports (b : Chip) (r : Nat) :
    (b.endFaultPark r).ports = b.ports := by
  unfold Chip.endFaultPark; apply Chip.forEach_keep Chip.ports; intros; rfl
@[simp] theorem Chip.endFaultPark_ecat (b : Chip) (r : Nat) :
    (b.endFaultPark r).ecat = b.ecat := by
  unfold Chip.endFaultPark; apply Chip.forEach_keep Chip.ecat; intros; rfl
@[simp] theorem Chip.endFaultPark_dict (b : Chip) (r : Nat) :
    (b.endFaultPark r).dict = b.dict := by
  unfold Chip.endFaultPark; apply Chip.forEach_keep Chip.dict; intros; rfl
@[simp] theorem Chip.endFaultPark_loader (b : Chip) (r : Nat) :
    (b.endFaultPark r).loader = b.loader := by
  unfold Chip.endFaultPark; apply Chip.forEach_keep Chip.loader; intros; rfl
@[simp] theorem Chip.endFaultPark_watch (b : Chip) (r : Nat) :
    (b.endFaultPark r).watch = b.watch := by
  unfold Chip.endFaultPark; apply Chip.forEach_keep Chip.watch; intros; rfl
@[simp] theorem Chip.endFaultPark_test (b : Chip) (r : Nat) :
    (b.endFaultPark r).test = b.test := by
  unfold Chip.endFaultPark; apply Chip.forEach_keep Chip.test; intros; rfl
@[simp] theorem Chip.endFaultPark_aon (b : Chip) (r : Nat) :
    (b.endFaultPark r).aon = b.aon := by
  unfold Chip.endFaultPark; apply Chip.forEach_keep Chip.aon; intros; rfl
@[simp] theorem Chip.endFaultPark_lantern (b : Chip) (r : Nat) :
    (b.endFaultPark r).lantern = b.lantern := by
  unfold Chip.endFaultPark; apply Chip.forEach_keep Chip.lantern; intros; rfl
@[simp] theorem Chip.endFaultPark_log (b : Chip) (r : Nat) :
    (b.endFaultPark r).log = b.log := by
  unfold Chip.endFaultPark; apply Chip.forEach_keep Chip.log; intros; rfl
@[simp] theorem Chip.endFaultPark_debug (b : Chip) (r : Nat) :
    (b.endFaultPark r).dbg = b.dbg := by
  unfold Chip.endFaultPark; apply Chip.forEach_keep Chip.dbg; intros; rfl
@[simp] theorem Chip.endFaultPark_inject (b : Chip) (r : Nat) :
    (b.endFaultPark r).inject = b.inject := by
  unfold Chip.endFaultPark; apply Chip.forEach_keep Chip.inject; intros; rfl
@[simp] theorem Chip.endFaultPark_free (b : Chip) (r : Nat) :
    (b.endFaultPark r).free = b.free := by
  unfold Chip.endFaultPark; apply Chip.forEach_keep Chip.free; intros; rfl

/-! ### toVaneMode -/

@[simp] theorem Chip.toVaneMode_dev (b : Chip) (k : Nat) :
    (b.toVaneMode k).dev = b.dev := rfl
@[simp] theorem Chip.toVaneMode_belfry (b : Chip) (k : Nat) :
    (b.toVaneMode k).belfry = b.belfry := rfl
@[simp] theorem Chip.toVaneMode_parts (b : Chip) (k : Nat) :
    (b.toVaneMode k).parts = b.parts := rfl
@[simp] theorem Chip.toVaneMode_regions (b : Chip) (k : Nat) :
    (b.toVaneMode k).regions = b.regions := rfl
@[simp] theorem Chip.toVaneMode_lanes (b : Chip) (k : Nat) :
    (b.toVaneMode k).lanes = b.lanes := rfl
@[simp] theorem Chip.toVaneMode_mem (b : Chip) (k : Nat) :
    (b.toVaneMode k).mem = b.mem := rfl
@[simp] theorem Chip.toVaneMode_queues (b : Chip) (k : Nat) :
    (b.toVaneMode k).queues = b.queues := rfl
@[simp] theorem Chip.toVaneMode_slices (b : Chip) (k : Nat) :
    (b.toVaneMode k).slices = b.slices := rfl
@[simp] theorem Chip.toVaneMode_hub (b : Chip) (k : Nat) :
    (b.toVaneMode k).hub = b.hub := rfl
@[simp] theorem Chip.toVaneMode_cupola (b : Chip) (k : Nat) :
    (b.toVaneMode k).cupola = b.cupola := rfl
@[simp] theorem Chip.toVaneMode_ports (b : Chip) (k : Nat) :
    (b.toVaneMode k).ports = b.ports := rfl
@[simp] theorem Chip.toVaneMode_ecat (b : Chip) (k : Nat) :
    (b.toVaneMode k).ecat = b.ecat := rfl
@[simp] theorem Chip.toVaneMode_dict (b : Chip) (k : Nat) :
    (b.toVaneMode k).dict = b.dict := rfl
@[simp] theorem Chip.toVaneMode_loader (b : Chip) (k : Nat) :
    (b.toVaneMode k).loader = b.loader := rfl
@[simp] theorem Chip.toVaneMode_watch (b : Chip) (k : Nat) :
    (b.toVaneMode k).watch = b.watch := rfl
@[simp] theorem Chip.toVaneMode_test (b : Chip) (k : Nat) :
    (b.toVaneMode k).test = b.test := rfl
@[simp] theorem Chip.toVaneMode_aon (b : Chip) (k : Nat) :
    (b.toVaneMode k).aon = b.aon := rfl
@[simp] theorem Chip.toVaneMode_lantern (b : Chip) (k : Nat) :
    (b.toVaneMode k).lantern = b.lantern := rfl
@[simp] theorem Chip.toVaneMode_log (b : Chip) (k : Nat) :
    (b.toVaneMode k).log = b.log := rfl
@[simp] theorem Chip.toVaneMode_debug (b : Chip) (k : Nat) :
    (b.toVaneMode k).dbg = b.dbg := rfl
@[simp] theorem Chip.toVaneMode_inject (b : Chip) (k : Nat) :
    (b.toVaneMode k).inject = b.inject := rfl
@[simp] theorem Chip.toVaneMode_free (b : Chip) (k : Nat) :
    (b.toVaneMode k).free = b.free := rfl

/-! ### leaveVaneMode -/

@[simp] theorem Chip.leaveVaneMode_dev (b : Chip) (k : Nat) :
    (b.leaveVaneMode k).dev = b.dev := by
  simp only [Chip.leaveVaneMode]; split <;> rfl
@[simp] theorem Chip.leaveVaneMode_belfry (b : Chip) (k : Nat) :
    (b.leaveVaneMode k).belfry = b.belfry := by
  simp only [Chip.leaveVaneMode]; split <;> rfl
@[simp] theorem Chip.leaveVaneMode_parts (b : Chip) (k : Nat) :
    (b.leaveVaneMode k).parts = b.parts := by
  simp only [Chip.leaveVaneMode]; split <;> rfl
@[simp] theorem Chip.leaveVaneMode_regions (b : Chip) (k : Nat) :
    (b.leaveVaneMode k).regions = b.regions := by
  simp only [Chip.leaveVaneMode]; split <;> rfl
@[simp] theorem Chip.leaveVaneMode_lanes (b : Chip) (k : Nat) :
    (b.leaveVaneMode k).lanes = b.lanes := by
  simp only [Chip.leaveVaneMode]; split <;> rfl
@[simp] theorem Chip.leaveVaneMode_mem (b : Chip) (k : Nat) :
    (b.leaveVaneMode k).mem = b.mem := by
  simp only [Chip.leaveVaneMode]; split <;> rfl
@[simp] theorem Chip.leaveVaneMode_queues (b : Chip) (k : Nat) :
    (b.leaveVaneMode k).queues = b.queues := by
  simp only [Chip.leaveVaneMode]; split <;> rfl
@[simp] theorem Chip.leaveVaneMode_slices (b : Chip) (k : Nat) :
    (b.leaveVaneMode k).slices = b.slices := by
  simp only [Chip.leaveVaneMode]; split <;> rfl
@[simp] theorem Chip.leaveVaneMode_hub (b : Chip) (k : Nat) :
    (b.leaveVaneMode k).hub = b.hub := by
  simp only [Chip.leaveVaneMode]; split <;> rfl
@[simp] theorem Chip.leaveVaneMode_cupola (b : Chip) (k : Nat) :
    (b.leaveVaneMode k).cupola = b.cupola := by
  simp only [Chip.leaveVaneMode]; split <;> rfl
@[simp] theorem Chip.leaveVaneMode_ports (b : Chip) (k : Nat) :
    (b.leaveVaneMode k).ports = b.ports := by
  simp only [Chip.leaveVaneMode]; split <;> rfl
@[simp] theorem Chip.leaveVaneMode_ecat (b : Chip) (k : Nat) :
    (b.leaveVaneMode k).ecat = b.ecat := by
  simp only [Chip.leaveVaneMode]; split <;> rfl
@[simp] theorem Chip.leaveVaneMode_dict (b : Chip) (k : Nat) :
    (b.leaveVaneMode k).dict = b.dict := by
  simp only [Chip.leaveVaneMode]; split <;> rfl
@[simp] theorem Chip.leaveVaneMode_loader (b : Chip) (k : Nat) :
    (b.leaveVaneMode k).loader = b.loader := by
  simp only [Chip.leaveVaneMode]; split <;> rfl
@[simp] theorem Chip.leaveVaneMode_watch (b : Chip) (k : Nat) :
    (b.leaveVaneMode k).watch = b.watch := by
  simp only [Chip.leaveVaneMode]; split <;> rfl
@[simp] theorem Chip.leaveVaneMode_test (b : Chip) (k : Nat) :
    (b.leaveVaneMode k).test = b.test := by
  simp only [Chip.leaveVaneMode]; split <;> rfl
@[simp] theorem Chip.leaveVaneMode_aon (b : Chip) (k : Nat) :
    (b.leaveVaneMode k).aon = b.aon := by
  simp only [Chip.leaveVaneMode]; split <;> rfl
@[simp] theorem Chip.leaveVaneMode_lantern (b : Chip) (k : Nat) :
    (b.leaveVaneMode k).lantern = b.lantern := by
  simp only [Chip.leaveVaneMode]; split <;> rfl
@[simp] theorem Chip.leaveVaneMode_log (b : Chip) (k : Nat) :
    (b.leaveVaneMode k).log = b.log := by
  simp only [Chip.leaveVaneMode]; split <;> rfl
@[simp] theorem Chip.leaveVaneMode_debug (b : Chip) (k : Nat) :
    (b.leaveVaneMode k).dbg = b.dbg := by
  simp only [Chip.leaveVaneMode]; split <;> rfl
@[simp] theorem Chip.leaveVaneMode_inject (b : Chip) (k : Nat) :
    (b.leaveVaneMode k).inject = b.inject := by
  simp only [Chip.leaveVaneMode]; split <;> rfl
@[simp] theorem Chip.leaveVaneMode_free (b : Chip) (k : Nat) :
    (b.leaveVaneMode k).free = b.free := by
  simp only [Chip.leaveVaneMode]; split <;> rfl

/-! ### resetQueues -/

@[simp] theorem Chip.resetQueues_dev (b : Chip) (r : Nat) (en : Bool) :
    (b.resetQueues r en).dev = b.dev := rfl
@[simp] theorem Chip.resetQueues_belfry (b : Chip) (r : Nat) (en : Bool) :
    (b.resetQueues r en).belfry = b.belfry := rfl
@[simp] theorem Chip.resetQueues_banks (b : Chip) (r : Nat) (en : Bool) :
    (b.resetQueues r en).banks = b.banks := rfl
@[simp] theorem Chip.resetQueues_vanes (b : Chip) (r : Nat) (en : Bool) :
    (b.resetQueues r en).vanes = b.vanes := rfl
@[simp] theorem Chip.resetQueues_parts (b : Chip) (r : Nat) (en : Bool) :
    (b.resetQueues r en).parts = b.parts := rfl
@[simp] theorem Chip.resetQueues_regions (b : Chip) (r : Nat) (en : Bool) :
    (b.resetQueues r en).regions = b.regions := rfl
@[simp] theorem Chip.resetQueues_lanes (b : Chip) (r : Nat) (en : Bool) :
    (b.resetQueues r en).lanes = b.lanes := rfl
@[simp] theorem Chip.resetQueues_mem (b : Chip) (r : Nat) (en : Bool) :
    (b.resetQueues r en).mem = b.mem := rfl
@[simp] theorem Chip.resetQueues_slices (b : Chip) (r : Nat) (en : Bool) :
    (b.resetQueues r en).slices = b.slices := rfl
@[simp] theorem Chip.resetQueues_hub (b : Chip) (r : Nat) (en : Bool) :
    (b.resetQueues r en).hub = b.hub := rfl
@[simp] theorem Chip.resetQueues_cupola (b : Chip) (r : Nat) (en : Bool) :
    (b.resetQueues r en).cupola = b.cupola := rfl
@[simp] theorem Chip.resetQueues_ports (b : Chip) (r : Nat) (en : Bool) :
    (b.resetQueues r en).ports = b.ports := rfl
@[simp] theorem Chip.resetQueues_ecat (b : Chip) (r : Nat) (en : Bool) :
    (b.resetQueues r en).ecat = b.ecat := rfl
@[simp] theorem Chip.resetQueues_dict (b : Chip) (r : Nat) (en : Bool) :
    (b.resetQueues r en).dict = b.dict := rfl
@[simp] theorem Chip.resetQueues_loader (b : Chip) (r : Nat) (en : Bool) :
    (b.resetQueues r en).loader = b.loader := rfl
@[simp] theorem Chip.resetQueues_watch (b : Chip) (r : Nat) (en : Bool) :
    (b.resetQueues r en).watch = b.watch := rfl
@[simp] theorem Chip.resetQueues_test (b : Chip) (r : Nat) (en : Bool) :
    (b.resetQueues r en).test = b.test := rfl
@[simp] theorem Chip.resetQueues_aon (b : Chip) (r : Nat) (en : Bool) :
    (b.resetQueues r en).aon = b.aon := rfl
@[simp] theorem Chip.resetQueues_lantern (b : Chip) (r : Nat) (en : Bool) :
    (b.resetQueues r en).lantern = b.lantern := rfl
@[simp] theorem Chip.resetQueues_log (b : Chip) (r : Nat) (en : Bool) :
    (b.resetQueues r en).log = b.log := rfl
@[simp] theorem Chip.resetQueues_debug (b : Chip) (r : Nat) (en : Bool) :
    (b.resetQueues r en).dbg = b.dbg := rfl
@[simp] theorem Chip.resetQueues_inject (b : Chip) (r : Nat) (en : Bool) :
    (b.resetQueues r en).inject = b.inject := rfl
@[simp] theorem Chip.resetQueues_free (b : Chip) (r : Nat) (en : Bool) :
    (b.resetQueues r en).free = b.free := rfl

/-! ### dropPacking -/

@[simp] theorem Chip.dropPacking_dev (b : Chip) (r : Nat) :
    (b.dropPacking r).dev = b.dev := rfl
@[simp] theorem Chip.dropPacking_belfry (b : Chip) (r : Nat) :
    (b.dropPacking r).belfry = b.belfry := rfl
@[simp] theorem Chip.dropPacking_banks (b : Chip) (r : Nat) :
    (b.dropPacking r).banks = b.banks := rfl
@[simp] theorem Chip.dropPacking_vanes (b : Chip) (r : Nat) :
    (b.dropPacking r).vanes = b.vanes := rfl
@[simp] theorem Chip.dropPacking_parts (b : Chip) (r : Nat) :
    (b.dropPacking r).parts = b.parts := rfl
@[simp] theorem Chip.dropPacking_regions (b : Chip) (r : Nat) :
    (b.dropPacking r).regions = b.regions := rfl
@[simp] theorem Chip.dropPacking_lanes (b : Chip) (r : Nat) :
    (b.dropPacking r).lanes = b.lanes := rfl
@[simp] theorem Chip.dropPacking_mem (b : Chip) (r : Nat) :
    (b.dropPacking r).mem = b.mem := rfl
@[simp] theorem Chip.dropPacking_slices (b : Chip) (r : Nat) :
    (b.dropPacking r).slices = b.slices := rfl
@[simp] theorem Chip.dropPacking_hub (b : Chip) (r : Nat) :
    (b.dropPacking r).hub = b.hub := rfl
@[simp] theorem Chip.dropPacking_cupola (b : Chip) (r : Nat) :
    (b.dropPacking r).cupola = b.cupola := rfl
@[simp] theorem Chip.dropPacking_ports (b : Chip) (r : Nat) :
    (b.dropPacking r).ports = b.ports := rfl
@[simp] theorem Chip.dropPacking_ecat (b : Chip) (r : Nat) :
    (b.dropPacking r).ecat = b.ecat := rfl
@[simp] theorem Chip.dropPacking_dict (b : Chip) (r : Nat) :
    (b.dropPacking r).dict = b.dict := rfl
@[simp] theorem Chip.dropPacking_loader (b : Chip) (r : Nat) :
    (b.dropPacking r).loader = b.loader := rfl
@[simp] theorem Chip.dropPacking_watch (b : Chip) (r : Nat) :
    (b.dropPacking r).watch = b.watch := rfl
@[simp] theorem Chip.dropPacking_test (b : Chip) (r : Nat) :
    (b.dropPacking r).test = b.test := rfl
@[simp] theorem Chip.dropPacking_aon (b : Chip) (r : Nat) :
    (b.dropPacking r).aon = b.aon := rfl
@[simp] theorem Chip.dropPacking_lantern (b : Chip) (r : Nat) :
    (b.dropPacking r).lantern = b.lantern := rfl
@[simp] theorem Chip.dropPacking_log (b : Chip) (r : Nat) :
    (b.dropPacking r).log = b.log := rfl
@[simp] theorem Chip.dropPacking_debug (b : Chip) (r : Nat) :
    (b.dropPacking r).dbg = b.dbg := rfl
@[simp] theorem Chip.dropPacking_inject (b : Chip) (r : Nat) :
    (b.dropPacking r).inject = b.inject := rfl
@[simp] theorem Chip.dropPacking_free (b : Chip) (r : Nat) :
    (b.dropPacking r).free = b.free := rfl

/-! ### dropHeld -/

@[simp] theorem Chip.dropHeld_dev (b : Chip) (r : Nat) :
    (b.dropHeld r).dev = b.dev := rfl
@[simp] theorem Chip.dropHeld_belfry (b : Chip) (r : Nat) :
    (b.dropHeld r).belfry = b.belfry := rfl
@[simp] theorem Chip.dropHeld_banks (b : Chip) (r : Nat) :
    (b.dropHeld r).banks = b.banks := rfl
@[simp] theorem Chip.dropHeld_vanes (b : Chip) (r : Nat) :
    (b.dropHeld r).vanes = b.vanes := rfl
@[simp] theorem Chip.dropHeld_parts (b : Chip) (r : Nat) :
    (b.dropHeld r).parts = b.parts := rfl
@[simp] theorem Chip.dropHeld_regions (b : Chip) (r : Nat) :
    (b.dropHeld r).regions = b.regions := rfl
@[simp] theorem Chip.dropHeld_lanes (b : Chip) (r : Nat) :
    (b.dropHeld r).lanes = b.lanes := rfl
@[simp] theorem Chip.dropHeld_mem (b : Chip) (r : Nat) :
    (b.dropHeld r).mem = b.mem := rfl
@[simp] theorem Chip.dropHeld_slices (b : Chip) (r : Nat) :
    (b.dropHeld r).slices = b.slices := rfl
@[simp] theorem Chip.dropHeld_hub (b : Chip) (r : Nat) :
    (b.dropHeld r).hub = b.hub := rfl
@[simp] theorem Chip.dropHeld_cupola (b : Chip) (r : Nat) :
    (b.dropHeld r).cupola = b.cupola := rfl
@[simp] theorem Chip.dropHeld_ports (b : Chip) (r : Nat) :
    (b.dropHeld r).ports = b.ports := rfl
@[simp] theorem Chip.dropHeld_ecat (b : Chip) (r : Nat) :
    (b.dropHeld r).ecat = b.ecat := rfl
@[simp] theorem Chip.dropHeld_loader (b : Chip) (r : Nat) :
    (b.dropHeld r).loader = b.loader := rfl
@[simp] theorem Chip.dropHeld_watch (b : Chip) (r : Nat) :
    (b.dropHeld r).watch = b.watch := rfl
@[simp] theorem Chip.dropHeld_test (b : Chip) (r : Nat) :
    (b.dropHeld r).test = b.test := rfl
@[simp] theorem Chip.dropHeld_aon (b : Chip) (r : Nat) :
    (b.dropHeld r).aon = b.aon := rfl
@[simp] theorem Chip.dropHeld_lantern (b : Chip) (r : Nat) :
    (b.dropHeld r).lantern = b.lantern := rfl
@[simp] theorem Chip.dropHeld_log (b : Chip) (r : Nat) :
    (b.dropHeld r).log = b.log := rfl
@[simp] theorem Chip.dropHeld_debug (b : Chip) (r : Nat) :
    (b.dropHeld r).dbg = b.dbg := rfl
@[simp] theorem Chip.dropHeld_inject (b : Chip) (r : Nat) :
    (b.dropHeld r).inject = b.inject := rfl
@[simp] theorem Chip.dropHeld_free (b : Chip) (r : Nat) :
    (b.dropHeld r).free = b.free := rfl

/-! ### loseTokens -/

@[simp] theorem Chip.loseTokens_dev (b : Chip) (r : Nat) :
    (b.loseTokens r).dev = b.dev := rfl
@[simp] theorem Chip.loseTokens_belfry (b : Chip) (r : Nat) :
    (b.loseTokens r).belfry = b.belfry := rfl
@[simp] theorem Chip.loseTokens_banks (b : Chip) (r : Nat) :
    (b.loseTokens r).banks = b.banks := rfl
@[simp] theorem Chip.loseTokens_vanes (b : Chip) (r : Nat) :
    (b.loseTokens r).vanes = b.vanes := rfl
@[simp] theorem Chip.loseTokens_parts (b : Chip) (r : Nat) :
    (b.loseTokens r).parts = b.parts := rfl
@[simp] theorem Chip.loseTokens_regions (b : Chip) (r : Nat) :
    (b.loseTokens r).regions = b.regions := rfl
@[simp] theorem Chip.loseTokens_mem (b : Chip) (r : Nat) :
    (b.loseTokens r).mem = b.mem := rfl
@[simp] theorem Chip.loseTokens_queues (b : Chip) (r : Nat) :
    (b.loseTokens r).queues = b.queues := rfl
@[simp] theorem Chip.loseTokens_slices (b : Chip) (r : Nat) :
    (b.loseTokens r).slices = b.slices := rfl
@[simp] theorem Chip.loseTokens_hub (b : Chip) (r : Nat) :
    (b.loseTokens r).hub = b.hub := rfl
@[simp] theorem Chip.loseTokens_cupola (b : Chip) (r : Nat) :
    (b.loseTokens r).cupola = b.cupola := rfl
@[simp] theorem Chip.loseTokens_ports (b : Chip) (r : Nat) :
    (b.loseTokens r).ports = b.ports := rfl
@[simp] theorem Chip.loseTokens_ecat (b : Chip) (r : Nat) :
    (b.loseTokens r).ecat = b.ecat := rfl
@[simp] theorem Chip.loseTokens_dict (b : Chip) (r : Nat) :
    (b.loseTokens r).dict = b.dict := rfl
@[simp] theorem Chip.loseTokens_loader (b : Chip) (r : Nat) :
    (b.loseTokens r).loader = b.loader := rfl
@[simp] theorem Chip.loseTokens_watch (b : Chip) (r : Nat) :
    (b.loseTokens r).watch = b.watch := rfl
@[simp] theorem Chip.loseTokens_test (b : Chip) (r : Nat) :
    (b.loseTokens r).test = b.test := rfl
@[simp] theorem Chip.loseTokens_aon (b : Chip) (r : Nat) :
    (b.loseTokens r).aon = b.aon := rfl
@[simp] theorem Chip.loseTokens_lantern (b : Chip) (r : Nat) :
    (b.loseTokens r).lantern = b.lantern := rfl
@[simp] theorem Chip.loseTokens_log (b : Chip) (r : Nat) :
    (b.loseTokens r).log = b.log := rfl
@[simp] theorem Chip.loseTokens_debug (b : Chip) (r : Nat) :
    (b.loseTokens r).dbg = b.dbg := rfl
@[simp] theorem Chip.loseTokens_inject (b : Chip) (r : Nat) :
    (b.loseTokens r).inject = b.inject := rfl
@[simp] theorem Chip.loseTokens_free (b : Chip) (r : Nat) :
    (b.loseTokens r).free = b.free := rfl

/-! ### assertReset -/

@[simp] theorem Chip.assertReset_dev (b : Chip) (r : Nat) :
    (b.assertReset r).dev = b.dev := rfl
@[simp] theorem Chip.assertReset_belfry (b : Chip) (r : Nat) :
    (b.assertReset r).belfry = b.belfry := rfl
@[simp] theorem Chip.assertReset_banks (b : Chip) (r : Nat) :
    (b.assertReset r).banks = b.banks := rfl
@[simp] theorem Chip.assertReset_parts (b : Chip) (r : Nat) :
    (b.assertReset r).parts = b.parts := rfl
@[simp] theorem Chip.assertReset_mem (b : Chip) (r : Nat) :
    (b.assertReset r).mem = b.mem := rfl
@[simp] theorem Chip.assertReset_hub (b : Chip) (r : Nat) :
    (b.assertReset r).hub = b.hub := rfl
@[simp] theorem Chip.assertReset_cupola (b : Chip) (r : Nat) :
    (b.assertReset r).cupola = b.cupola := rfl
@[simp] theorem Chip.assertReset_ports (b : Chip) (r : Nat) :
    (b.assertReset r).ports = b.ports := rfl
@[simp] theorem Chip.assertReset_ecat (b : Chip) (r : Nat) :
    (b.assertReset r).ecat = b.ecat := rfl
@[simp] theorem Chip.assertReset_dict (b : Chip) (r : Nat) :
    (b.assertReset r).dict = b.dict := rfl
@[simp] theorem Chip.assertReset_loader (b : Chip) (r : Nat) :
    (b.assertReset r).loader = b.loader := rfl
@[simp] theorem Chip.assertReset_watch (b : Chip) (r : Nat) :
    (b.assertReset r).watch = b.watch := rfl
@[simp] theorem Chip.assertReset_test (b : Chip) (r : Nat) :
    (b.assertReset r).test = b.test := rfl
@[simp] theorem Chip.assertReset_aon (b : Chip) (r : Nat) :
    (b.assertReset r).aon = b.aon := rfl
@[simp] theorem Chip.assertReset_lantern (b : Chip) (r : Nat) :
    (b.assertReset r).lantern = b.lantern := rfl
@[simp] theorem Chip.assertReset_log (b : Chip) (r : Nat) :
    (b.assertReset r).log = b.log := rfl
@[simp] theorem Chip.assertReset_debug (b : Chip) (r : Nat) :
    (b.assertReset r).dbg = b.dbg := rfl
@[simp] theorem Chip.assertReset_inject (b : Chip) (r : Nat) :
    (b.assertReset r).inject = b.inject := rfl
@[simp] theorem Chip.assertReset_free (b : Chip) (r : Nat) :
    (b.assertReset r).free = b.free := rfl

/-! ### releaseReset -/

@[simp] theorem Chip.releaseReset_dev (b : Chip) (r : Nat) :
    (b.releaseReset r).dev = b.dev := by
  simp [Chip.releaseReset]
@[simp] theorem Chip.releaseReset_belfry (b : Chip) (r : Nat) :
    (b.releaseReset r).belfry = b.belfry := by
  simp [Chip.releaseReset]
@[simp] theorem Chip.releaseReset_banks (b : Chip) (r : Nat) :
    (b.releaseReset r).banks = b.banks := by
  simp [Chip.releaseReset]
@[simp] theorem Chip.releaseReset_vanes (b : Chip) (r : Nat) :
    (b.releaseReset r).vanes = b.vanes := by
  simp [Chip.releaseReset]
@[simp] theorem Chip.releaseReset_parts (b : Chip) (r : Nat) :
    (b.releaseReset r).parts = b.parts := by
  simp [Chip.releaseReset]
@[simp] theorem Chip.releaseReset_lanes (b : Chip) (r : Nat) :
    (b.releaseReset r).lanes = b.lanes := by
  simp [Chip.releaseReset]
@[simp] theorem Chip.releaseReset_mem (b : Chip) (r : Nat) :
    (b.releaseReset r).mem = b.mem := by
  simp [Chip.releaseReset]
@[simp] theorem Chip.releaseReset_queues (b : Chip) (r : Nat) :
    (b.releaseReset r).queues = b.queues := by
  simp [Chip.releaseReset]
@[simp] theorem Chip.releaseReset_hub (b : Chip) (r : Nat) :
    (b.releaseReset r).hub = b.hub := by
  simp [Chip.releaseReset]
@[simp] theorem Chip.releaseReset_cupola (b : Chip) (r : Nat) :
    (b.releaseReset r).cupola = b.cupola := by
  simp [Chip.releaseReset]
@[simp] theorem Chip.releaseReset_ports (b : Chip) (r : Nat) :
    (b.releaseReset r).ports = b.ports := by
  simp [Chip.releaseReset]
@[simp] theorem Chip.releaseReset_ecat (b : Chip) (r : Nat) :
    (b.releaseReset r).ecat = b.ecat := by
  simp [Chip.releaseReset]
@[simp] theorem Chip.releaseReset_dict (b : Chip) (r : Nat) :
    (b.releaseReset r).dict = b.dict := by
  simp [Chip.releaseReset]
@[simp] theorem Chip.releaseReset_loader (b : Chip) (r : Nat) :
    (b.releaseReset r).loader = b.loader := by
  simp [Chip.releaseReset]
@[simp] theorem Chip.releaseReset_watch (b : Chip) (r : Nat) :
    (b.releaseReset r).watch = b.watch := by
  simp [Chip.releaseReset]
@[simp] theorem Chip.releaseReset_test (b : Chip) (r : Nat) :
    (b.releaseReset r).test = b.test := by
  simp [Chip.releaseReset]
@[simp] theorem Chip.releaseReset_aon (b : Chip) (r : Nat) :
    (b.releaseReset r).aon = b.aon := by
  simp [Chip.releaseReset]
@[simp] theorem Chip.releaseReset_lantern (b : Chip) (r : Nat) :
    (b.releaseReset r).lantern = b.lantern := by
  simp [Chip.releaseReset]
@[simp] theorem Chip.releaseReset_log (b : Chip) (r : Nat) :
    (b.releaseReset r).log = b.log := by
  simp [Chip.releaseReset]
@[simp] theorem Chip.releaseReset_debug (b : Chip) (r : Nat) :
    (b.releaseReset r).dbg = b.dbg := by
  simp [Chip.releaseReset]
@[simp] theorem Chip.releaseReset_inject (b : Chip) (r : Nat) :
    (b.releaseReset r).inject = b.inject := by
  simp [Chip.releaseReset]
@[simp] theorem Chip.releaseReset_free (b : Chip) (r : Nat) :
    (b.releaseReset r).free = b.free := by
  simp [Chip.releaseReset]

/-! ### dropToward -/

@[simp] theorem Chip.dropToward_dev (b : Chip) (r : Nat) :
    (b.dropToward r).dev = b.dev := by
  unfold Chip.dropToward; apply Chip.forEach_keep Chip.dev; intros; split <;> rfl
@[simp] theorem Chip.dropToward_belfry (b : Chip) (r : Nat) :
    (b.dropToward r).belfry = b.belfry := by
  unfold Chip.dropToward; apply Chip.forEach_keep Chip.belfry; intros; split <;> rfl
@[simp] theorem Chip.dropToward_banks (b : Chip) (r : Nat) :
    (b.dropToward r).banks = b.banks := by
  unfold Chip.dropToward; apply Chip.forEach_keep Chip.banks; intros; split <;> rfl
@[simp] theorem Chip.dropToward_vanes (b : Chip) (r : Nat) :
    (b.dropToward r).vanes = b.vanes := by
  unfold Chip.dropToward; apply Chip.forEach_keep Chip.vanes; intros; split <;> rfl
@[simp] theorem Chip.dropToward_parts (b : Chip) (r : Nat) :
    (b.dropToward r).parts = b.parts := by
  unfold Chip.dropToward; apply Chip.forEach_keep Chip.parts; intros; split <;> rfl
@[simp] theorem Chip.dropToward_regions (b : Chip) (r : Nat) :
    (b.dropToward r).regions = b.regions := by
  unfold Chip.dropToward; apply Chip.forEach_keep Chip.regions; intros; split <;> rfl
@[simp] theorem Chip.dropToward_mem (b : Chip) (r : Nat) :
    (b.dropToward r).mem = b.mem := by
  unfold Chip.dropToward; apply Chip.forEach_keep Chip.mem; intros; split <;> rfl
@[simp] theorem Chip.dropToward_queues (b : Chip) (r : Nat) :
    (b.dropToward r).queues = b.queues := by
  unfold Chip.dropToward; apply Chip.forEach_keep Chip.queues; intros; split <;> rfl
@[simp] theorem Chip.dropToward_slices (b : Chip) (r : Nat) :
    (b.dropToward r).slices = b.slices := by
  unfold Chip.dropToward; apply Chip.forEach_keep Chip.slices; intros; split <;> rfl
@[simp] theorem Chip.dropToward_hub (b : Chip) (r : Nat) :
    (b.dropToward r).hub = b.hub := by
  unfold Chip.dropToward; apply Chip.forEach_keep Chip.hub; intros; split <;> rfl
@[simp] theorem Chip.dropToward_cupola (b : Chip) (r : Nat) :
    (b.dropToward r).cupola = b.cupola := by
  unfold Chip.dropToward; apply Chip.forEach_keep Chip.cupola; intros; split <;> rfl
@[simp] theorem Chip.dropToward_ports (b : Chip) (r : Nat) :
    (b.dropToward r).ports = b.ports := by
  unfold Chip.dropToward; apply Chip.forEach_keep Chip.ports; intros; split <;> rfl
@[simp] theorem Chip.dropToward_ecat (b : Chip) (r : Nat) :
    (b.dropToward r).ecat = b.ecat := by
  unfold Chip.dropToward; apply Chip.forEach_keep Chip.ecat; intros; split <;> rfl
@[simp] theorem Chip.dropToward_loader (b : Chip) (r : Nat) :
    (b.dropToward r).loader = b.loader := by
  unfold Chip.dropToward; apply Chip.forEach_keep Chip.loader; intros; split <;> rfl
@[simp] theorem Chip.dropToward_watch (b : Chip) (r : Nat) :
    (b.dropToward r).watch = b.watch := by
  unfold Chip.dropToward; apply Chip.forEach_keep Chip.watch; intros; split <;> rfl
@[simp] theorem Chip.dropToward_test (b : Chip) (r : Nat) :
    (b.dropToward r).test = b.test := by
  unfold Chip.dropToward; apply Chip.forEach_keep Chip.test; intros; split <;> rfl
@[simp] theorem Chip.dropToward_aon (b : Chip) (r : Nat) :
    (b.dropToward r).aon = b.aon := by
  unfold Chip.dropToward; apply Chip.forEach_keep Chip.aon; intros; split <;> rfl
@[simp] theorem Chip.dropToward_lantern (b : Chip) (r : Nat) :
    (b.dropToward r).lantern = b.lantern := by
  unfold Chip.dropToward; apply Chip.forEach_keep Chip.lantern; intros; split <;> rfl
@[simp] theorem Chip.dropToward_log (b : Chip) (r : Nat) :
    (b.dropToward r).log = b.log := by
  unfold Chip.dropToward; apply Chip.forEach_keep Chip.log; intros; split <;> rfl
@[simp] theorem Chip.dropToward_debug (b : Chip) (r : Nat) :
    (b.dropToward r).dbg = b.dbg := by
  unfold Chip.dropToward; apply Chip.forEach_keep Chip.dbg; intros; split <;> rfl
@[simp] theorem Chip.dropToward_inject (b : Chip) (r : Nat) :
    (b.dropToward r).inject = b.inject := by
  unfold Chip.dropToward; apply Chip.forEach_keep Chip.inject; intros; split <;> rfl
@[simp] theorem Chip.dropToward_free (b : Chip) (r : Nat) :
    (b.dropToward r).free = b.free := by
  unfold Chip.dropToward; apply Chip.forEach_keep Chip.free; intros; split <;> rfl

/-! ### stopLanes -/

@[simp] theorem Chip.stopLanes_dev (b : Chip) (r : Nat) :
    (b.stopLanes r).dev = b.dev := rfl
@[simp] theorem Chip.stopLanes_belfry (b : Chip) (r : Nat) :
    (b.stopLanes r).belfry = b.belfry := rfl
@[simp] theorem Chip.stopLanes_banks (b : Chip) (r : Nat) :
    (b.stopLanes r).banks = b.banks := rfl
@[simp] theorem Chip.stopLanes_vanes (b : Chip) (r : Nat) :
    (b.stopLanes r).vanes = b.vanes := rfl
@[simp] theorem Chip.stopLanes_parts (b : Chip) (r : Nat) :
    (b.stopLanes r).parts = b.parts := rfl
@[simp] theorem Chip.stopLanes_regions (b : Chip) (r : Nat) :
    (b.stopLanes r).regions = b.regions := rfl
@[simp] theorem Chip.stopLanes_mem (b : Chip) (r : Nat) :
    (b.stopLanes r).mem = b.mem := rfl
@[simp] theorem Chip.stopLanes_queues (b : Chip) (r : Nat) :
    (b.stopLanes r).queues = b.queues := rfl
@[simp] theorem Chip.stopLanes_slices (b : Chip) (r : Nat) :
    (b.stopLanes r).slices = b.slices := rfl
@[simp] theorem Chip.stopLanes_hub (b : Chip) (r : Nat) :
    (b.stopLanes r).hub = b.hub := rfl
@[simp] theorem Chip.stopLanes_cupola (b : Chip) (r : Nat) :
    (b.stopLanes r).cupola = b.cupola := rfl
@[simp] theorem Chip.stopLanes_ports (b : Chip) (r : Nat) :
    (b.stopLanes r).ports = b.ports := rfl
@[simp] theorem Chip.stopLanes_ecat (b : Chip) (r : Nat) :
    (b.stopLanes r).ecat = b.ecat := rfl
@[simp] theorem Chip.stopLanes_dict (b : Chip) (r : Nat) :
    (b.stopLanes r).dict = b.dict := rfl
@[simp] theorem Chip.stopLanes_loader (b : Chip) (r : Nat) :
    (b.stopLanes r).loader = b.loader := rfl
@[simp] theorem Chip.stopLanes_watch (b : Chip) (r : Nat) :
    (b.stopLanes r).watch = b.watch := rfl
@[simp] theorem Chip.stopLanes_test (b : Chip) (r : Nat) :
    (b.stopLanes r).test = b.test := rfl
@[simp] theorem Chip.stopLanes_aon (b : Chip) (r : Nat) :
    (b.stopLanes r).aon = b.aon := rfl
@[simp] theorem Chip.stopLanes_lantern (b : Chip) (r : Nat) :
    (b.stopLanes r).lantern = b.lantern := rfl
@[simp] theorem Chip.stopLanes_log (b : Chip) (r : Nat) :
    (b.stopLanes r).log = b.log := rfl
@[simp] theorem Chip.stopLanes_debug (b : Chip) (r : Nat) :
    (b.stopLanes r).dbg = b.dbg := rfl
@[simp] theorem Chip.stopLanes_inject (b : Chip) (r : Nat) :
    (b.stopLanes r).inject = b.inject := rfl
@[simp] theorem Chip.stopLanes_free (b : Chip) (r : Nat) :
    (b.stopLanes r).free = b.free := rfl

/-! ### flushHubPorts -/

@[simp] theorem Chip.flushHubPorts_dev (b : Chip) (r : Nat) :
    (b.flushHubPorts r).dev = b.dev := rfl
@[simp] theorem Chip.flushHubPorts_belfry (b : Chip) (r : Nat) :
    (b.flushHubPorts r).belfry = b.belfry := rfl
@[simp] theorem Chip.flushHubPorts_banks (b : Chip) (r : Nat) :
    (b.flushHubPorts r).banks = b.banks := rfl
@[simp] theorem Chip.flushHubPorts_vanes (b : Chip) (r : Nat) :
    (b.flushHubPorts r).vanes = b.vanes := rfl
@[simp] theorem Chip.flushHubPorts_parts (b : Chip) (r : Nat) :
    (b.flushHubPorts r).parts = b.parts := rfl
@[simp] theorem Chip.flushHubPorts_regions (b : Chip) (r : Nat) :
    (b.flushHubPorts r).regions = b.regions := rfl
@[simp] theorem Chip.flushHubPorts_lanes (b : Chip) (r : Nat) :
    (b.flushHubPorts r).lanes = b.lanes := rfl
@[simp] theorem Chip.flushHubPorts_mem (b : Chip) (r : Nat) :
    (b.flushHubPorts r).mem = b.mem := rfl
@[simp] theorem Chip.flushHubPorts_queues (b : Chip) (r : Nat) :
    (b.flushHubPorts r).queues = b.queues := rfl
@[simp] theorem Chip.flushHubPorts_slices (b : Chip) (r : Nat) :
    (b.flushHubPorts r).slices = b.slices := rfl
@[simp] theorem Chip.flushHubPorts_cupola (b : Chip) (r : Nat) :
    (b.flushHubPorts r).cupola = b.cupola := rfl
@[simp] theorem Chip.flushHubPorts_ports (b : Chip) (r : Nat) :
    (b.flushHubPorts r).ports = b.ports := rfl
@[simp] theorem Chip.flushHubPorts_ecat (b : Chip) (r : Nat) :
    (b.flushHubPorts r).ecat = b.ecat := rfl
@[simp] theorem Chip.flushHubPorts_dict (b : Chip) (r : Nat) :
    (b.flushHubPorts r).dict = b.dict := rfl
@[simp] theorem Chip.flushHubPorts_loader (b : Chip) (r : Nat) :
    (b.flushHubPorts r).loader = b.loader := rfl
@[simp] theorem Chip.flushHubPorts_watch (b : Chip) (r : Nat) :
    (b.flushHubPorts r).watch = b.watch := rfl
@[simp] theorem Chip.flushHubPorts_test (b : Chip) (r : Nat) :
    (b.flushHubPorts r).test = b.test := rfl
@[simp] theorem Chip.flushHubPorts_aon (b : Chip) (r : Nat) :
    (b.flushHubPorts r).aon = b.aon := rfl
@[simp] theorem Chip.flushHubPorts_lantern (b : Chip) (r : Nat) :
    (b.flushHubPorts r).lantern = b.lantern := rfl
@[simp] theorem Chip.flushHubPorts_log (b : Chip) (r : Nat) :
    (b.flushHubPorts r).log = b.log := rfl
@[simp] theorem Chip.flushHubPorts_debug (b : Chip) (r : Nat) :
    (b.flushHubPorts r).dbg = b.dbg := rfl
@[simp] theorem Chip.flushHubPorts_inject (b : Chip) (r : Nat) :
    (b.flushHubPorts r).inject = b.inject := rfl
@[simp] theorem Chip.flushHubPorts_free (b : Chip) (r : Nat) :
    (b.flushHubPorts r).free = b.free := rfl

/-! ### abandonOnDemand -/

@[simp] theorem Chip.abandonOnDemand_dev (b : Chip) (h : OnDemand → Bool) :
    (b.abandonOnDemand h).dev = b.dev := by
  simp only [Chip.abandonOnDemand]; split <;> (try split) <;> simp
@[simp] theorem Chip.abandonOnDemand_belfry (b : Chip) (h : OnDemand → Bool) :
    (b.abandonOnDemand h).belfry = b.belfry := by
  simp only [Chip.abandonOnDemand]; split <;> (try split) <;> simp
@[simp] theorem Chip.abandonOnDemand_banks (b : Chip) (h : OnDemand → Bool) :
    (b.abandonOnDemand h).banks = b.banks := by
  simp only [Chip.abandonOnDemand]; split <;> (try split) <;> simp
@[simp] theorem Chip.abandonOnDemand_vanes (b : Chip) (h : OnDemand → Bool) :
    (b.abandonOnDemand h).vanes = b.vanes := by
  simp only [Chip.abandonOnDemand]; split <;> (try split) <;> simp
@[simp] theorem Chip.abandonOnDemand_parts (b : Chip) (h : OnDemand → Bool) :
    (b.abandonOnDemand h).parts = b.parts := by
  simp only [Chip.abandonOnDemand]; split <;> (try split) <;> simp
@[simp] theorem Chip.abandonOnDemand_regions (b : Chip) (h : OnDemand → Bool) :
    (b.abandonOnDemand h).regions = b.regions := by
  simp only [Chip.abandonOnDemand]; split <;> (try split) <;> simp
@[simp] theorem Chip.abandonOnDemand_lanes (b : Chip) (h : OnDemand → Bool) :
    (b.abandonOnDemand h).lanes = b.lanes := by
  simp only [Chip.abandonOnDemand]; split <;> (try split) <;> simp
@[simp] theorem Chip.abandonOnDemand_queues (b : Chip) (h : OnDemand → Bool) :
    (b.abandonOnDemand h).queues = b.queues := by
  simp only [Chip.abandonOnDemand]; split <;> (try split) <;> simp
@[simp] theorem Chip.abandonOnDemand_slices (b : Chip) (h : OnDemand → Bool) :
    (b.abandonOnDemand h).slices = b.slices := by
  simp only [Chip.abandonOnDemand]; split <;> (try split) <;> simp
@[simp] theorem Chip.abandonOnDemand_hub (b : Chip) (h : OnDemand → Bool) :
    (b.abandonOnDemand h).hub = b.hub := by
  simp only [Chip.abandonOnDemand]; split <;> (try split) <;> simp
@[simp] theorem Chip.abandonOnDemand_cupola (b : Chip) (h : OnDemand → Bool) :
    (b.abandonOnDemand h).cupola = b.cupola := by
  simp only [Chip.abandonOnDemand]; split <;> (try split) <;> simp
@[simp] theorem Chip.abandonOnDemand_ports (b : Chip) (h : OnDemand → Bool) :
    (b.abandonOnDemand h).ports = b.ports := by
  simp only [Chip.abandonOnDemand]; split <;> (try split) <;> simp
@[simp] theorem Chip.abandonOnDemand_ecat (b : Chip) (h : OnDemand → Bool) :
    (b.abandonOnDemand h).ecat = b.ecat := by
  simp only [Chip.abandonOnDemand]; split <;> (try split) <;> simp
@[simp] theorem Chip.abandonOnDemand_loader (b : Chip) (h : OnDemand → Bool) :
    (b.abandonOnDemand h).loader = b.loader := by
  simp only [Chip.abandonOnDemand]; split <;> (try split) <;> simp
@[simp] theorem Chip.abandonOnDemand_watch (b : Chip) (h : OnDemand → Bool) :
    (b.abandonOnDemand h).watch = b.watch := by
  simp only [Chip.abandonOnDemand]; split <;> (try split) <;> simp
@[simp] theorem Chip.abandonOnDemand_aon (b : Chip) (h : OnDemand → Bool) :
    (b.abandonOnDemand h).aon = b.aon := by
  simp only [Chip.abandonOnDemand]; split <;> (try split) <;> simp
@[simp] theorem Chip.abandonOnDemand_lantern (b : Chip) (h : OnDemand → Bool) :
    (b.abandonOnDemand h).lantern = b.lantern := by
  simp only [Chip.abandonOnDemand]; split <;> (try split) <;> simp
@[simp] theorem Chip.abandonOnDemand_log (b : Chip) (h : OnDemand → Bool) :
    (b.abandonOnDemand h).log = b.log := by
  simp only [Chip.abandonOnDemand]; split <;> (try split) <;> simp
@[simp] theorem Chip.abandonOnDemand_debug (b : Chip) (h : OnDemand → Bool) :
    (b.abandonOnDemand h).dbg = b.dbg := by
  simp only [Chip.abandonOnDemand]; split <;> (try split) <;> simp
@[simp] theorem Chip.abandonOnDemand_inject (b : Chip) (h : OnDemand → Bool) :
    (b.abandonOnDemand h).inject = b.inject := by
  simp only [Chip.abandonOnDemand]; split <;> (try split) <;> simp

/-! ### freeRegionStandby -/

@[simp] theorem Chip.freeRegionStandby_dev (b : Chip) (r : Nat) :
    (b.freeRegionStandby r).dev = b.dev := by
  simp [Chip.freeRegionStandby]
@[simp] theorem Chip.freeRegionStandby_belfry (b : Chip) (r : Nat) :
    (b.freeRegionStandby r).belfry = b.belfry := by
  simp [Chip.freeRegionStandby]
@[simp] theorem Chip.freeRegionStandby_banks (b : Chip) (r : Nat) :
    (b.freeRegionStandby r).banks = b.banks := by
  simp [Chip.freeRegionStandby]
@[simp] theorem Chip.freeRegionStandby_vanes (b : Chip) (r : Nat) :
    (b.freeRegionStandby r).vanes = b.vanes := by
  simp [Chip.freeRegionStandby]
@[simp] theorem Chip.freeRegionStandby_parts (b : Chip) (r : Nat) :
    (b.freeRegionStandby r).parts = b.parts := by
  simp [Chip.freeRegionStandby]
@[simp] theorem Chip.freeRegionStandby_lanes (b : Chip) (r : Nat) :
    (b.freeRegionStandby r).lanes = b.lanes := by
  simp [Chip.freeRegionStandby]
@[simp] theorem Chip.freeRegionStandby_mem (b : Chip) (r : Nat) :
    (b.freeRegionStandby r).mem = b.mem := by
  simp [Chip.freeRegionStandby]
@[simp] theorem Chip.freeRegionStandby_queues (b : Chip) (r : Nat) :
    (b.freeRegionStandby r).queues = b.queues := by
  simp [Chip.freeRegionStandby]
@[simp] theorem Chip.freeRegionStandby_slices (b : Chip) (r : Nat) :
    (b.freeRegionStandby r).slices = b.slices := by
  simp [Chip.freeRegionStandby]
@[simp] theorem Chip.freeRegionStandby_hub (b : Chip) (r : Nat) :
    (b.freeRegionStandby r).hub = b.hub := by
  simp [Chip.freeRegionStandby]
@[simp] theorem Chip.freeRegionStandby_cupola (b : Chip) (r : Nat) :
    (b.freeRegionStandby r).cupola = b.cupola := by
  simp [Chip.freeRegionStandby]
@[simp] theorem Chip.freeRegionStandby_ports (b : Chip) (r : Nat) :
    (b.freeRegionStandby r).ports = b.ports := by
  simp [Chip.freeRegionStandby]
@[simp] theorem Chip.freeRegionStandby_ecat (b : Chip) (r : Nat) :
    (b.freeRegionStandby r).ecat = b.ecat := by
  simp [Chip.freeRegionStandby]
@[simp] theorem Chip.freeRegionStandby_dict (b : Chip) (r : Nat) :
    (b.freeRegionStandby r).dict = b.dict := by
  simp [Chip.freeRegionStandby]
@[simp] theorem Chip.freeRegionStandby_loader (b : Chip) (r : Nat) :
    (b.freeRegionStandby r).loader = b.loader := by
  simp [Chip.freeRegionStandby]
@[simp] theorem Chip.freeRegionStandby_watch (b : Chip) (r : Nat) :
    (b.freeRegionStandby r).watch = b.watch := by
  simp [Chip.freeRegionStandby]
@[simp] theorem Chip.freeRegionStandby_test (b : Chip) (r : Nat) :
    (b.freeRegionStandby r).test = b.test := by
  simp [Chip.freeRegionStandby]
@[simp] theorem Chip.freeRegionStandby_aon (b : Chip) (r : Nat) :
    (b.freeRegionStandby r).aon = b.aon := by
  simp [Chip.freeRegionStandby]
@[simp] theorem Chip.freeRegionStandby_lantern (b : Chip) (r : Nat) :
    (b.freeRegionStandby r).lantern = b.lantern := by
  simp [Chip.freeRegionStandby]
@[simp] theorem Chip.freeRegionStandby_log (b : Chip) (r : Nat) :
    (b.freeRegionStandby r).log = b.log := by
  simp [Chip.freeRegionStandby]
@[simp] theorem Chip.freeRegionStandby_debug (b : Chip) (r : Nat) :
    (b.freeRegionStandby r).dbg = b.dbg := by
  simp [Chip.freeRegionStandby]
@[simp] theorem Chip.freeRegionStandby_inject (b : Chip) (r : Nat) :
    (b.freeRegionStandby r).inject = b.inject := by
  simp [Chip.freeRegionStandby]
@[simp] theorem Chip.freeRegionStandby_free (b : Chip) (r : Nat) :
    (b.freeRegionStandby r).free = b.free := by
  simp [Chip.freeRegionStandby]

/-! ### endRestart -/

@[simp] theorem Chip.endRestart_dev (b : Chip) (r st : Nat) :
    (b.endRestart r st).dev = b.dev := by
  simp only [Chip.endRestart]; split <;> simp
@[simp] theorem Chip.endRestart_belfry (b : Chip) (r st : Nat) :
    (b.endRestart r st).belfry = b.belfry := by
  simp only [Chip.endRestart]; split <;> simp
@[simp] theorem Chip.endRestart_banks (b : Chip) (r st : Nat) :
    (b.endRestart r st).banks = b.banks := by
  simp only [Chip.endRestart]; split <;> simp
@[simp] theorem Chip.endRestart_vanes (b : Chip) (r st : Nat) :
    (b.endRestart r st).vanes = b.vanes := by
  simp only [Chip.endRestart]; split <;> simp
@[simp] theorem Chip.endRestart_parts (b : Chip) (r st : Nat) :
    (b.endRestart r st).parts = b.parts := by
  simp only [Chip.endRestart]; split <;> simp
@[simp] theorem Chip.endRestart_lanes (b : Chip) (r st : Nat) :
    (b.endRestart r st).lanes = b.lanes := by
  simp only [Chip.endRestart]; split <;> simp
@[simp] theorem Chip.endRestart_mem (b : Chip) (r st : Nat) :
    (b.endRestart r st).mem = b.mem := by
  simp only [Chip.endRestart]; split <;> simp
@[simp] theorem Chip.endRestart_queues (b : Chip) (r st : Nat) :
    (b.endRestart r st).queues = b.queues := by
  simp only [Chip.endRestart]; split <;> simp
@[simp] theorem Chip.endRestart_slices (b : Chip) (r st : Nat) :
    (b.endRestart r st).slices = b.slices := by
  simp only [Chip.endRestart]; split <;> simp
@[simp] theorem Chip.endRestart_hub (b : Chip) (r st : Nat) :
    (b.endRestart r st).hub = b.hub := by
  simp only [Chip.endRestart]; split <;> simp
@[simp] theorem Chip.endRestart_cupola (b : Chip) (r st : Nat) :
    (b.endRestart r st).cupola = b.cupola := by
  simp only [Chip.endRestart]; split <;> simp
@[simp] theorem Chip.endRestart_ports (b : Chip) (r st : Nat) :
    (b.endRestart r st).ports = b.ports := by
  simp only [Chip.endRestart]; split <;> simp
@[simp] theorem Chip.endRestart_ecat (b : Chip) (r st : Nat) :
    (b.endRestart r st).ecat = b.ecat := by
  simp only [Chip.endRestart]; split <;> simp
@[simp] theorem Chip.endRestart_loader (b : Chip) (r st : Nat) :
    (b.endRestart r st).loader = b.loader := by
  simp only [Chip.endRestart]; split <;> simp
@[simp] theorem Chip.endRestart_watch (b : Chip) (r st : Nat) :
    (b.endRestart r st).watch = b.watch := by
  simp only [Chip.endRestart]; split <;> simp
@[simp] theorem Chip.endRestart_test (b : Chip) (r st : Nat) :
    (b.endRestart r st).test = b.test := by
  simp only [Chip.endRestart]; split <;> simp
@[simp] theorem Chip.endRestart_aon (b : Chip) (r st : Nat) :
    (b.endRestart r st).aon = b.aon := by
  simp only [Chip.endRestart]; split <;> simp
@[simp] theorem Chip.endRestart_lantern (b : Chip) (r st : Nat) :
    (b.endRestart r st).lantern = b.lantern := by
  simp only [Chip.endRestart]; split <;> simp
@[simp] theorem Chip.endRestart_log (b : Chip) (r st : Nat) :
    (b.endRestart r st).log = b.log := by
  simp only [Chip.endRestart]; split <;> simp
@[simp] theorem Chip.endRestart_debug (b : Chip) (r st : Nat) :
    (b.endRestart r st).dbg = b.dbg := by
  simp only [Chip.endRestart]; split <;> simp
@[simp] theorem Chip.endRestart_inject (b : Chip) (r st : Nat) :
    (b.endRestart r st).inject = b.inject := by
  simp only [Chip.endRestart]; split <;> simp
@[simp] theorem Chip.endRestart_free (b : Chip) (r st : Nat) :
    (b.endRestart r st).free = b.free := by
  simp only [Chip.endRestart]; split <;> simp

/-! ### endPartReset -/

@[simp] theorem Chip.endPartReset_dev (b : Chip) (p st : Nat) :
    (b.endPartReset p st).dev = b.dev := by
  simp only [Chip.endPartReset]; split <;> simp
@[simp] theorem Chip.endPartReset_belfry (b : Chip) (p st : Nat) :
    (b.endPartReset p st).belfry = b.belfry := by
  simp only [Chip.endPartReset]; split <;> simp
@[simp] theorem Chip.endPartReset_banks (b : Chip) (p st : Nat) :
    (b.endPartReset p st).banks = b.banks := by
  simp only [Chip.endPartReset]; split <;> simp
@[simp] theorem Chip.endPartReset_vanes (b : Chip) (p st : Nat) :
    (b.endPartReset p st).vanes = b.vanes := by
  simp only [Chip.endPartReset]; split <;> simp
@[simp] theorem Chip.endPartReset_regions (b : Chip) (p st : Nat) :
    (b.endPartReset p st).regions = b.regions := by
  simp only [Chip.endPartReset]; split <;> simp
@[simp] theorem Chip.endPartReset_lanes (b : Chip) (p st : Nat) :
    (b.endPartReset p st).lanes = b.lanes := by
  simp only [Chip.endPartReset]; split <;> simp
@[simp] theorem Chip.endPartReset_mem (b : Chip) (p st : Nat) :
    (b.endPartReset p st).mem = b.mem := by
  simp only [Chip.endPartReset]; split <;> simp
@[simp] theorem Chip.endPartReset_queues (b : Chip) (p st : Nat) :
    (b.endPartReset p st).queues = b.queues := by
  simp only [Chip.endPartReset]; split <;> simp
@[simp] theorem Chip.endPartReset_slices (b : Chip) (p st : Nat) :
    (b.endPartReset p st).slices = b.slices := by
  simp only [Chip.endPartReset]; split <;> simp
@[simp] theorem Chip.endPartReset_hub (b : Chip) (p st : Nat) :
    (b.endPartReset p st).hub = b.hub := by
  simp only [Chip.endPartReset]; split <;> simp
@[simp] theorem Chip.endPartReset_cupola (b : Chip) (p st : Nat) :
    (b.endPartReset p st).cupola = b.cupola := by
  simp only [Chip.endPartReset]; split <;> simp
@[simp] theorem Chip.endPartReset_ports (b : Chip) (p st : Nat) :
    (b.endPartReset p st).ports = b.ports := by
  simp only [Chip.endPartReset]; split <;> simp
@[simp] theorem Chip.endPartReset_ecat (b : Chip) (p st : Nat) :
    (b.endPartReset p st).ecat = b.ecat := by
  simp only [Chip.endPartReset]; split <;> simp
@[simp] theorem Chip.endPartReset_loader (b : Chip) (p st : Nat) :
    (b.endPartReset p st).loader = b.loader := by
  simp only [Chip.endPartReset]; split <;> simp
@[simp] theorem Chip.endPartReset_watch (b : Chip) (p st : Nat) :
    (b.endPartReset p st).watch = b.watch := by
  simp only [Chip.endPartReset]; split <;> simp
@[simp] theorem Chip.endPartReset_test (b : Chip) (p st : Nat) :
    (b.endPartReset p st).test = b.test := by
  simp only [Chip.endPartReset]; split <;> simp
@[simp] theorem Chip.endPartReset_aon (b : Chip) (p st : Nat) :
    (b.endPartReset p st).aon = b.aon := by
  simp only [Chip.endPartReset]; split <;> simp
@[simp] theorem Chip.endPartReset_lantern (b : Chip) (p st : Nat) :
    (b.endPartReset p st).lantern = b.lantern := by
  simp only [Chip.endPartReset]; split <;> simp
@[simp] theorem Chip.endPartReset_log (b : Chip) (p st : Nat) :
    (b.endPartReset p st).log = b.log := by
  simp only [Chip.endPartReset]; split <;> simp
@[simp] theorem Chip.endPartReset_debug (b : Chip) (p st : Nat) :
    (b.endPartReset p st).dbg = b.dbg := by
  simp only [Chip.endPartReset]; split <;> simp
@[simp] theorem Chip.endPartReset_inject (b : Chip) (p st : Nat) :
    (b.endPartReset p st).inject = b.inject := by
  simp only [Chip.endPartReset]; split <;> simp
@[simp] theorem Chip.endPartReset_free (b : Chip) (p st : Nat) :
    (b.endPartReset p st).free = b.free := by
  simp only [Chip.endPartReset]; split <;> simp

/-! ### endRearm -/

@[simp] theorem Chip.endRearm_dev (b : Chip) (p st : Nat) :
    (b.endRearm p st).dev = b.dev := by
  simp only [Chip.endRearm]; split <;> simp
@[simp] theorem Chip.endRearm_belfry (b : Chip) (p st : Nat) :
    (b.endRearm p st).belfry = b.belfry := by
  simp only [Chip.endRearm]; split <;> simp
@[simp] theorem Chip.endRearm_banks (b : Chip) (p st : Nat) :
    (b.endRearm p st).banks = b.banks := by
  simp only [Chip.endRearm]; split <;> simp
@[simp] theorem Chip.endRearm_vanes (b : Chip) (p st : Nat) :
    (b.endRearm p st).vanes = b.vanes := by
  simp only [Chip.endRearm]; split <;> simp
@[simp] theorem Chip.endRearm_regions (b : Chip) (p st : Nat) :
    (b.endRearm p st).regions = b.regions := by
  simp only [Chip.endRearm]; split <;> simp
@[simp] theorem Chip.endRearm_lanes (b : Chip) (p st : Nat) :
    (b.endRearm p st).lanes = b.lanes := by
  simp only [Chip.endRearm]; split <;> simp
@[simp] theorem Chip.endRearm_mem (b : Chip) (p st : Nat) :
    (b.endRearm p st).mem = b.mem := by
  simp only [Chip.endRearm]; split <;> simp
@[simp] theorem Chip.endRearm_queues (b : Chip) (p st : Nat) :
    (b.endRearm p st).queues = b.queues := by
  simp only [Chip.endRearm]; split <;> simp
@[simp] theorem Chip.endRearm_slices (b : Chip) (p st : Nat) :
    (b.endRearm p st).slices = b.slices := by
  simp only [Chip.endRearm]; split <;> simp
@[simp] theorem Chip.endRearm_hub (b : Chip) (p st : Nat) :
    (b.endRearm p st).hub = b.hub := by
  simp only [Chip.endRearm]; split <;> simp
@[simp] theorem Chip.endRearm_cupola (b : Chip) (p st : Nat) :
    (b.endRearm p st).cupola = b.cupola := by
  simp only [Chip.endRearm]; split <;> simp
@[simp] theorem Chip.endRearm_ports (b : Chip) (p st : Nat) :
    (b.endRearm p st).ports = b.ports := by
  simp only [Chip.endRearm]; split <;> simp
@[simp] theorem Chip.endRearm_ecat (b : Chip) (p st : Nat) :
    (b.endRearm p st).ecat = b.ecat := by
  simp only [Chip.endRearm]; split <;> simp
@[simp] theorem Chip.endRearm_loader (b : Chip) (p st : Nat) :
    (b.endRearm p st).loader = b.loader := by
  simp only [Chip.endRearm]; split <;> simp
@[simp] theorem Chip.endRearm_watch (b : Chip) (p st : Nat) :
    (b.endRearm p st).watch = b.watch := by
  simp only [Chip.endRearm]; split <;> simp
@[simp] theorem Chip.endRearm_test (b : Chip) (p st : Nat) :
    (b.endRearm p st).test = b.test := by
  simp only [Chip.endRearm]; split <;> simp
@[simp] theorem Chip.endRearm_aon (b : Chip) (p st : Nat) :
    (b.endRearm p st).aon = b.aon := by
  simp only [Chip.endRearm]; split <;> simp
@[simp] theorem Chip.endRearm_lantern (b : Chip) (p st : Nat) :
    (b.endRearm p st).lantern = b.lantern := by
  simp only [Chip.endRearm]; split <;> simp
@[simp] theorem Chip.endRearm_log (b : Chip) (p st : Nat) :
    (b.endRearm p st).log = b.log := by
  simp only [Chip.endRearm]; split <;> simp
@[simp] theorem Chip.endRearm_debug (b : Chip) (p st : Nat) :
    (b.endRearm p st).dbg = b.dbg := by
  simp only [Chip.endRearm]; split <;> simp
@[simp] theorem Chip.endRearm_inject (b : Chip) (p st : Nat) :
    (b.endRearm p st).inject = b.inject := by
  simp only [Chip.endRearm]; split <;> simp
@[simp] theorem Chip.endRearm_free (b : Chip) (p st : Nat) :
    (b.endRearm p st).free = b.free := by
  simp only [Chip.endRearm]; split <;> simp

/-! ### endPendingHalt -/

@[simp] theorem Chip.endPendingHalt_dev (b : Chip) (r : Nat) :
    (b.endPendingHalt r).dev = b.dev := by
  simp only [Chip.endPendingHalt]; (repeat' split) <;> simp
@[simp] theorem Chip.endPendingHalt_belfry (b : Chip) (r : Nat) :
    (b.endPendingHalt r).belfry = b.belfry := by
  simp only [Chip.endPendingHalt]; (repeat' split) <;> simp
@[simp] theorem Chip.endPendingHalt_banks (b : Chip) (r : Nat) :
    (b.endPendingHalt r).banks = b.banks := by
  simp only [Chip.endPendingHalt]; (repeat' split) <;> simp
@[simp] theorem Chip.endPendingHalt_vanes (b : Chip) (r : Nat) :
    (b.endPendingHalt r).vanes = b.vanes := by
  simp only [Chip.endPendingHalt]; (repeat' split) <;> simp
@[simp] theorem Chip.endPendingHalt_lanes (b : Chip) (r : Nat) :
    (b.endPendingHalt r).lanes = b.lanes := by
  simp only [Chip.endPendingHalt]; (repeat' split) <;> simp
@[simp] theorem Chip.endPendingHalt_mem (b : Chip) (r : Nat) :
    (b.endPendingHalt r).mem = b.mem := by
  simp only [Chip.endPendingHalt]; (repeat' split) <;> simp
@[simp] theorem Chip.endPendingHalt_queues (b : Chip) (r : Nat) :
    (b.endPendingHalt r).queues = b.queues := by
  simp only [Chip.endPendingHalt]; (repeat' split) <;> simp
@[simp] theorem Chip.endPendingHalt_slices (b : Chip) (r : Nat) :
    (b.endPendingHalt r).slices = b.slices := by
  simp only [Chip.endPendingHalt]; (repeat' split) <;> simp
@[simp] theorem Chip.endPendingHalt_hub (b : Chip) (r : Nat) :
    (b.endPendingHalt r).hub = b.hub := by
  simp only [Chip.endPendingHalt]; (repeat' split) <;> simp
@[simp] theorem Chip.endPendingHalt_cupola (b : Chip) (r : Nat) :
    (b.endPendingHalt r).cupola = b.cupola := by
  simp only [Chip.endPendingHalt]; (repeat' split) <;> simp
@[simp] theorem Chip.endPendingHalt_ports (b : Chip) (r : Nat) :
    (b.endPendingHalt r).ports = b.ports := by
  simp only [Chip.endPendingHalt]; (repeat' split) <;> simp
@[simp] theorem Chip.endPendingHalt_ecat (b : Chip) (r : Nat) :
    (b.endPendingHalt r).ecat = b.ecat := by
  simp only [Chip.endPendingHalt]; (repeat' split) <;> simp
@[simp] theorem Chip.endPendingHalt_loader (b : Chip) (r : Nat) :
    (b.endPendingHalt r).loader = b.loader := by
  simp only [Chip.endPendingHalt]; (repeat' split) <;> simp
@[simp] theorem Chip.endPendingHalt_watch (b : Chip) (r : Nat) :
    (b.endPendingHalt r).watch = b.watch := by
  simp only [Chip.endPendingHalt]; (repeat' split) <;> simp
@[simp] theorem Chip.endPendingHalt_test (b : Chip) (r : Nat) :
    (b.endPendingHalt r).test = b.test := by
  simp only [Chip.endPendingHalt]; (repeat' split) <;> simp
@[simp] theorem Chip.endPendingHalt_aon (b : Chip) (r : Nat) :
    (b.endPendingHalt r).aon = b.aon := by
  simp only [Chip.endPendingHalt]; (repeat' split) <;> simp
@[simp] theorem Chip.endPendingHalt_lantern (b : Chip) (r : Nat) :
    (b.endPendingHalt r).lantern = b.lantern := by
  simp only [Chip.endPendingHalt]; (repeat' split) <;> simp
@[simp] theorem Chip.endPendingHalt_log (b : Chip) (r : Nat) :
    (b.endPendingHalt r).log = b.log := by
  simp only [Chip.endPendingHalt]; (repeat' split) <;> simp
@[simp] theorem Chip.endPendingHalt_debug (b : Chip) (r : Nat) :
    (b.endPendingHalt r).dbg = b.dbg := by
  simp only [Chip.endPendingHalt]; (repeat' split) <;> simp
@[simp] theorem Chip.endPendingHalt_inject (b : Chip) (r : Nat) :
    (b.endPendingHalt r).inject = b.inject := by
  simp only [Chip.endPendingHalt]; (repeat' split) <;> simp
@[simp] theorem Chip.endPendingHalt_free (b : Chip) (r : Nat) :
    (b.endPendingHalt r).free = b.free := by
  simp only [Chip.endPendingHalt]; (repeat' split) <;> simp

/-! ### fence -/

@[simp] theorem Chip.fence_belfry (b : Chip) (r : Nat) (e : Ev) :
    (b.fence r e).belfry = b.belfry := by
  simp only [Chip.fence]; (repeat' split) <;> simp [Chip.forEach_keep Chip.belfry Chip.faultPark (fun _ _ => rfl)]
@[simp] theorem Chip.fence_slices (b : Chip) (r : Nat) (e : Ev) :
    (b.fence r e).slices = b.slices := by
  simp only [Chip.fence]; (repeat' split) <;> simp [Chip.forEach_keep Chip.slices Chip.faultPark (fun _ _ => rfl)]
@[simp] theorem Chip.fence_cupola (b : Chip) (r : Nat) (e : Ev) :
    (b.fence r e).cupola = b.cupola := by
  simp only [Chip.fence]; (repeat' split) <;> simp [Chip.forEach_keep Chip.cupola Chip.faultPark (fun _ _ => rfl)]
@[simp] theorem Chip.fence_loader (b : Chip) (r : Nat) (e : Ev) :
    (b.fence r e).loader = b.loader := by
  simp only [Chip.fence]; (repeat' split) <;> simp [Chip.forEach_keep Chip.loader Chip.faultPark (fun _ _ => rfl)]
@[simp] theorem Chip.fence_watch (b : Chip) (r : Nat) (e : Ev) :
    (b.fence r e).watch = b.watch := by
  simp only [Chip.fence]; (repeat' split) <;> simp [Chip.forEach_keep Chip.watch Chip.faultPark (fun _ _ => rfl)]
@[simp] theorem Chip.fence_aon (b : Chip) (r : Nat) (e : Ev) :
    (b.fence r e).aon = b.aon := by
  simp only [Chip.fence]; (repeat' split) <;> simp [Chip.forEach_keep Chip.aon Chip.faultPark (fun _ _ => rfl)]
@[simp] theorem Chip.fence_debug (b : Chip) (r : Nat) (e : Ev) :
    (b.fence r e).dbg = b.dbg := by
  simp only [Chip.fence]; (repeat' split) <;> simp [Chip.forEach_keep Chip.dbg Chip.faultPark (fun _ _ => rfl)]
@[simp] theorem Chip.fence_inject (b : Chip) (r : Nat) (e : Ev) :
    (b.fence r e).inject = b.inject := by
  simp only [Chip.fence]; (repeat' split) <;> simp [Chip.forEach_keep Chip.inject Chip.faultPark (fun _ _ => rfl)]

/-! ### slotMiss -/

@[simp] theorem Chip.slotMiss_belfry (b : Chip) (r : Nat) (m : MissInfo) (i : Bool) :
    (b.slotMiss r m i).belfry = b.belfry := by
  simp only [Chip.slotMiss, Chip.slotMissAs]; (repeat' split) <;> simp
@[simp] theorem Chip.slotMiss_slices (b : Chip) (r : Nat) (m : MissInfo) (i : Bool) :
    (b.slotMiss r m i).slices = b.slices := by
  simp only [Chip.slotMiss, Chip.slotMissAs]; (repeat' split) <;> simp
@[simp] theorem Chip.slotMiss_cupola (b : Chip) (r : Nat) (m : MissInfo) (i : Bool) :
    (b.slotMiss r m i).cupola = b.cupola := by
  simp only [Chip.slotMiss, Chip.slotMissAs]; (repeat' split) <;> simp
@[simp] theorem Chip.slotMiss_loader (b : Chip) (r : Nat) (m : MissInfo) (i : Bool) :
    (b.slotMiss r m i).loader = b.loader := by
  simp only [Chip.slotMiss, Chip.slotMissAs]; (repeat' split) <;> simp
@[simp] theorem Chip.slotMiss_watch (b : Chip) (r : Nat) (m : MissInfo) (i : Bool) :
    (b.slotMiss r m i).watch = b.watch := by
  simp only [Chip.slotMiss, Chip.slotMissAs]; (repeat' split) <;> simp
@[simp] theorem Chip.slotMiss_aon (b : Chip) (r : Nat) (m : MissInfo) (i : Bool) :
    (b.slotMiss r m i).aon = b.aon := by
  simp only [Chip.slotMiss, Chip.slotMissAs]; (repeat' split) <;> simp
@[simp] theorem Chip.slotMiss_inject (b : Chip) (r : Nat) (m : MissInfo) (i : Bool) :
    (b.slotMiss r m i).inject = b.inject := by
  simp only [Chip.slotMiss, Chip.slotMissAs]; (repeat' split) <;> simp

/-! ### blockSafe -/

@[simp] theorem Chip.blockSafe_belfry (b : Chip) (r blk : Nat) (e : Ev) :
    (b.blockSafe r blk e).belfry = b.belfry := by
  simp [Chip.blockSafe]
@[simp] theorem Chip.blockSafe_banks (b : Chip) (r blk : Nat) (e : Ev) :
    (b.blockSafe r blk e).banks = b.banks := by
  simp [Chip.blockSafe]
@[simp] theorem Chip.blockSafe_vanes (b : Chip) (r blk : Nat) (e : Ev) :
    (b.blockSafe r blk e).vanes = b.vanes := by
  simp [Chip.blockSafe]
@[simp] theorem Chip.blockSafe_lanes (b : Chip) (r blk : Nat) (e : Ev) :
    (b.blockSafe r blk e).lanes = b.lanes := by
  simp [Chip.blockSafe]
@[simp] theorem Chip.blockSafe_mem (b : Chip) (r blk : Nat) (e : Ev) :
    (b.blockSafe r blk e).mem = b.mem := by
  simp [Chip.blockSafe]
@[simp] theorem Chip.blockSafe_queues (b : Chip) (r blk : Nat) (e : Ev) :
    (b.blockSafe r blk e).queues = b.queues := by
  simp [Chip.blockSafe]
@[simp] theorem Chip.blockSafe_slices (b : Chip) (r blk : Nat) (e : Ev) :
    (b.blockSafe r blk e).slices = b.slices := by
  simp [Chip.blockSafe]
@[simp] theorem Chip.blockSafe_hub (b : Chip) (r blk : Nat) (e : Ev) :
    (b.blockSafe r blk e).hub = b.hub := by
  simp [Chip.blockSafe]
@[simp] theorem Chip.blockSafe_cupola (b : Chip) (r blk : Nat) (e : Ev) :
    (b.blockSafe r blk e).cupola = b.cupola := by
  simp [Chip.blockSafe]
@[simp] theorem Chip.blockSafe_loader (b : Chip) (r blk : Nat) (e : Ev) :
    (b.blockSafe r blk e).loader = b.loader := by
  simp [Chip.blockSafe]
@[simp] theorem Chip.blockSafe_watch (b : Chip) (r blk : Nat) (e : Ev) :
    (b.blockSafe r blk e).watch = b.watch := by
  simp [Chip.blockSafe]
@[simp] theorem Chip.blockSafe_test (b : Chip) (r blk : Nat) (e : Ev) :
    (b.blockSafe r blk e).test = b.test := by
  simp [Chip.blockSafe]
@[simp] theorem Chip.blockSafe_aon (b : Chip) (r blk : Nat) (e : Ev) :
    (b.blockSafe r blk e).aon = b.aon := by
  simp [Chip.blockSafe]
@[simp] theorem Chip.blockSafe_debug (b : Chip) (r blk : Nat) (e : Ev) :
    (b.blockSafe r blk e).dbg = b.dbg := by
  simp [Chip.blockSafe]
@[simp] theorem Chip.blockSafe_inject (b : Chip) (r blk : Nat) (e : Ev) :
    (b.blockSafe r blk e).inject = b.inject := by
  simp [Chip.blockSafe]
@[simp] theorem Chip.blockSafe_free (b : Chip) (r blk : Nat) (e : Ev) :
    (b.blockSafe r blk e).free = b.free := by
  simp [Chip.blockSafe]

/-! ### lockLost -/

@[simp] theorem Chip.lockLost_belfry (b : Chip) (r d : Nat) (i : Bool) :
    (b.lockLost r d i).belfry = b.belfry := by
  simp only [Chip.lockLost]; split <;> simp
@[simp] theorem Chip.lockLost_slices (b : Chip) (r d : Nat) (i : Bool) :
    (b.lockLost r d i).slices = b.slices := by
  simp only [Chip.lockLost]; split <;> simp
@[simp] theorem Chip.lockLost_cupola (b : Chip) (r d : Nat) (i : Bool) :
    (b.lockLost r d i).cupola = b.cupola := by
  simp only [Chip.lockLost]; split <;> simp
@[simp] theorem Chip.lockLost_loader (b : Chip) (r d : Nat) (i : Bool) :
    (b.lockLost r d i).loader = b.loader := by
  simp only [Chip.lockLost]; split <;> simp
@[simp] theorem Chip.lockLost_watch (b : Chip) (r d : Nat) (i : Bool) :
    (b.lockLost r d i).watch = b.watch := by
  simp only [Chip.lockLost]; split <;> simp
@[simp] theorem Chip.lockLost_aon (b : Chip) (r d : Nat) (i : Bool) :
    (b.lockLost r d i).aon = b.aon := by
  simp only [Chip.lockLost]; split <;> simp
@[simp] theorem Chip.lockLost_debug (b : Chip) (r d : Nat) (i : Bool) :
    (b.lockLost r d i).dbg = b.dbg := by
  simp only [Chip.lockLost]; split <;> simp
@[simp] theorem Chip.lockLost_inject (b : Chip) (r d : Nat) (i : Bool) :
    (b.lockLost r d i).inject = b.inject := by
  simp only [Chip.lockLost]; split <;> simp

/-! ### What an entry, a fence and a broken contract do -/

/-- An entry changes nothing of the device record but the note that SAFE withheld it. -/
theorem Chip.logAs_dev (b : Chip) (e : Ev) (x : Bool) :
    (b.logAs e x).dev = b.dev ∨ (b.logAs e x).dev = { b.dev with withheld := true } := by
  simp only [Chip.logAs]
  split
  · exact .inr rfl
  · split <;> simp

@[simp] theorem Chip.logAs_st (b : Chip) (e : Ev) (x : Bool) : (b.logAs e x).dev.st = b.dev.st := by
  rcases b.logAs_dev e x with h | h <;> rw [h]
@[simp] theorem Chip.logEvent_st (b : Chip) (e : Ev) : (b.logEvent e).dev.st = b.dev.st := b.logAs_st e false

/-- A contract status that is set reads back; the other partitions keep theirs. -/
@[simp] theorem Chip.setContract_status (b : Chip) (p : Nat) (st : Contract) :
    ((b.setContract p st).part p).status = st := by
  simp only [Chip.setContract]
  split
  · assumption
  · simp [Chip.part]

theorem Chip.setContract_other (b : Chip) (p j : Nat) (st : Contract) (h : j ≠ p) :
    (b.setContract p st).part j = b.part j := by
  simp only [Chip.setContract]
  split
  · rfl
  · simp [Chip.part, h]

/-- ARMED and SUSPENDED become BROKEN; any other status stays (R95). -/
theorem Chip.breakContract_status (b : Chip) (p : Nat) :
    ((b.breakContract p).part p).status =
      if (b.part p).status = .armed ∨ (b.part p).status = .suspended then .broken else (b.part p).status := by
  simp only [Chip.breakContract]
  split <;> simp_all

/-- The record of a region that is changed, and of any other. -/
@[simp] theorem Chip.region_modRegion (b : Chip) (r : Nat) (f : Region → Region) :
    (b.modRegion r f).region r = f (b.region r) := by simp [Chip.region, Chip.modRegion]
theorem Chip.region_modRegion_ne (b : Chip) (r j : Nat) (f : Region → Region) (h : j ≠ r) :
    (b.modRegion r f).region j = b.region j := by simp [Chip.region, Chip.modRegion, h]
theorem Chip.region_congr {b c : Chip} (h : b.regions = c.regions) (r : Nat) : b.region r = c.region r := by
  simp [Chip.region, h]

theorem Chip.fenced_freeRegionStandby (b : Chip) (r j : Nat) :
    ((b.freeRegionStandby r).region j).fenced = (b.region j).fenced := by
  unfold Chip.freeRegionStandby
  by_cases h : j = r
  · subst h; simp
  · simp [Chip.region_modRegion_ne, h]

theorem Chip.fenced_endRestart (b : Chip) (r st j : Nat) :
    ((b.endRestart r st).region j).fenced = (b.region j).fenced := by
  simp only [Chip.endRestart]
  split
  · rw [Chip.fenced_freeRegionStandby]
    by_cases h : j = r
    · subst h; simp [Chip.region]
    · rw [Chip.region_modRegion_ne _ _ _ _ h, Chip.region_congr (Chip.endCmd_regions _ _ _)]
  · rfl

theorem Chip.fenced_endPendingHalt (b : Chip) (r j : Nat) :
    ((b.endPendingHalt r).region j).fenced = (b.region j).fenced := by
  simp only [Chip.endPendingHalt]
  split
  · split <;> simp [Chip.region]
  · split
    · by_cases h : j = r
      · subst h; split <;> simp [Chip.region]
      · rw [Chip.region_modRegion_ne _ _ _ _ h]; split <;> simp [Chip.region]
    · rfl

/-- A fence leaves its region fenced (R26). -/
theorem Chip.fence_fenced (b : Chip) (r : Nat) (e : Ev) : ((b.fence r e).region r).fenced = true := by
  simp only [Chip.fence]
  split
  · rw [Chip.fenced_endRestart]; assumption
  · rw [Chip.region_congr (Chip.logEvent_regions _ _), Chip.region_congr (Chip.raiseOwner_regions _ _ _),
      Chip.fenced_endPendingHalt, Chip.region_congr (Chip.abandonOnDemand_regions _ _)]
    split <;>
      simp [Chip.region, Chip.forEach_keep Chip.regions Chip.faultPark (fun _ _ => rfl)]

/-- A fence changes nothing of the device record but the note that SAFE withheld its entry. -/
@[simp] theorem Chip.fence_st (b : Chip) (r : Nat) (e : Ev) : (b.fence r e).dev.st = b.dev.st := by
  simp only [Chip.fence]
  split
  · simp
  · rw [Chip.logEvent_st]
    split <;> simp [Chip.forEach_keep Chip.dev Chip.faultPark (fun _ _ => rfl)]

/-- A fence changes nothing else of the device record. -/
theorem Chip.fence_dev (b : Chip) (r : Nat) (e : Ev) :
    (b.fence r e).dev = b.dev ∨ (b.fence r e).dev = { b.dev with withheld := true } := by
  simp only [Chip.fence]
  split
  · exact .inl (by simp)
  · rcases Chip.logAs_dev _ e false with h | h
    · refine .inl (h.trans ?_)
      split <;> simp [Chip.forEach_keep Chip.dev Chip.faultPark (fun _ _ => rfl)]
    · refine .inr (h.trans ?_)
      split <;> simp [Chip.forEach_keep Chip.dev Chip.faultPark (fun _ _ => rfl)]

end Sys2Proof.Machine
end

