-- ==== Sys2Proof/Laws/Entries.lean ====
section
/-! SUPPORT. What an entry of the log leaves alone within the areas that it touches: the device record, Lantern, the field
network and the dictionary. -/

namespace Sys2Proof.Machine

open Sys2Proof

@[simp] theorem Chip.logAs_dev_prev (b : Chip) (e : Ev) (x : Bool) : (b.logAs e x).dev.prev = b.dev.prev := by
  rcases b.logAs_dev e x with h | h <;> rw [h]
@[simp] theorem Chip.logEvent_dev_prev (b : Chip) (e : Ev) : (b.logEvent e).dev.prev = b.dev.prev := b.logAs_dev_prev e false
@[simp] theorem Chip.logAs_dev_cause (b : Chip) (e : Ev) (x : Bool) : (b.logAs e x).dev.cause = b.dev.cause := by
  rcases b.logAs_dev e x with h | h <;> rw [h]
@[simp] theorem Chip.logEvent_dev_cause (b : Chip) (e : Ev) : (b.logEvent e).dev.cause = b.dev.cause := b.logAs_dev_cause e false
@[simp] theorem Chip.logAs_dev_selftestOk (b : Chip) (e : Ev) (x : Bool) : (b.logAs e x).dev.selftestOk = b.dev.selftestOk := by
  rcases b.logAs_dev e x with h | h <;> rw [h]
@[simp] theorem Chip.logEvent_dev_selftestOk (b : Chip) (e : Ev) : (b.logEvent e).dev.selftestOk = b.dev.selftestOk := b.logAs_dev_selftestOk e false
@[simp] theorem Chip.logAs_dev_timebaseOk (b : Chip) (e : Ev) (x : Bool) : (b.logAs e x).dev.timebaseOk = b.dev.timebaseOk := by
  rcases b.logAs_dev e x with h | h <;> rw [h]
@[simp] theorem Chip.logEvent_dev_timebaseOk (b : Chip) (e : Ev) : (b.logEvent e).dev.timebaseOk = b.dev.timebaseOk := b.logAs_dev_timebaseOk e false
@[simp] theorem Chip.logAs_dev_configOk (b : Chip) (e : Ev) (x : Bool) : (b.logAs e x).dev.configOk = b.dev.configOk := by
  rcases b.logAs_dev e x with h | h <;> rw [h]
@[simp] theorem Chip.logEvent_dev_configOk (b : Chip) (e : Ev) : (b.logEvent e).dev.configOk = b.dev.configOk := b.logAs_dev_configOk e false
@[simp] theorem Chip.logAs_dev_dramOk (b : Chip) (e : Ev) (x : Bool) : (b.logAs e x).dev.dramOk = b.dev.dramOk := by
  rcases b.logAs_dev e x with h | h <;> rw [h]
@[simp] theorem Chip.logEvent_dev_dramOk (b : Chip) (e : Ev) : (b.logEvent e).dev.dramOk = b.dev.dramOk := b.logAs_dev_dramOk e false
@[simp] theorem Chip.logAs_dev_power (b : Chip) (e : Ev) (x : Bool) : (b.logAs e x).dev.power = b.dev.power := by
  rcases b.logAs_dev e x with h | h <;> rw [h]
@[simp] theorem Chip.logEvent_dev_power (b : Chip) (e : Ev) : (b.logEvent e).dev.power = b.dev.power := b.logAs_dev_power e false
@[simp] theorem Chip.logAs_dev_powerFault (b : Chip) (e : Ev) (x : Bool) : (b.logAs e x).dev.powerFault = b.dev.powerFault := by
  rcases b.logAs_dev e x with h | h <;> rw [h]
@[simp] theorem Chip.logEvent_dev_powerFault (b : Chip) (e : Ev) : (b.logEvent e).dev.powerFault = b.dev.powerFault := b.logAs_dev_powerFault e false
@[simp] theorem Chip.logAs_dev_clocks (b : Chip) (e : Ev) (x : Bool) : (b.logAs e x).dev.clocks = b.dev.clocks := by
  rcases b.logAs_dev e x with h | h <;> rw [h]
@[simp] theorem Chip.logEvent_dev_clocks (b : Chip) (e : Ev) : (b.logEvent e).dev.clocks = b.dev.clocks := b.logAs_dev_clocks e false
@[simp] theorem Chip.logAs_dev_mainEn (b : Chip) (e : Ev) (x : Bool) : (b.logAs e x).dev.mainEn = b.dev.mainEn := by
  rcases b.logAs_dev e x with h | h <;> rw [h]
@[simp] theorem Chip.logEvent_dev_mainEn (b : Chip) (e : Ev) : (b.logEvent e).dev.mainEn = b.dev.mainEn := b.logAs_dev_mainEn e false
@[simp] theorem Chip.logAs_dev_mainGood (b : Chip) (e : Ev) (x : Bool) : (b.logAs e x).dev.mainGood = b.dev.mainGood := by
  rcases b.logAs_dev e x with h | h <;> rw [h]
@[simp] theorem Chip.logEvent_dev_mainGood (b : Chip) (e : Ev) : (b.logEvent e).dev.mainGood = b.dev.mainGood := b.logAs_dev_mainGood e false
@[simp] theorem Chip.logAs_dev_refClk (b : Chip) (e : Ev) (x : Bool) : (b.logAs e x).dev.refClk = b.dev.refClk := by
  rcases b.logAs_dev e x with h | h <;> rw [h]
@[simp] theorem Chip.logEvent_dev_refClk (b : Chip) (e : Ev) : (b.logEvent e).dev.refClk = b.dev.refClk := b.logAs_dev_refClk e false
@[simp] theorem Chip.logAs_dev_bootFault (b : Chip) (e : Ev) (x : Bool) : (b.logAs e x).dev.bootFault = b.dev.bootFault := by
  rcases b.logAs_dev e x with h | h <;> rw [h]
@[simp] theorem Chip.logEvent_dev_bootFault (b : Chip) (e : Ev) : (b.logEvent e).dev.bootFault = b.dev.bootFault := b.logAs_dev_bootFault e false
@[simp] theorem Chip.logAs_dev_recovery (b : Chip) (e : Ev) (x : Bool) : (b.logAs e x).dev.recovery = b.dev.recovery := by
  rcases b.logAs_dev e x with h | h <;> rw [h]
@[simp] theorem Chip.logEvent_dev_recovery (b : Chip) (e : Ev) : (b.logEvent e).dev.recovery = b.dev.recovery := b.logAs_dev_recovery e false
@[simp] theorem Chip.logAs_dev_mode (b : Chip) (e : Ev) (x : Bool) : (b.logAs e x).dev.mode = b.dev.mode := by
  rcases b.logAs_dev e x with h | h <;> rw [h]
@[simp] theorem Chip.logEvent_dev_mode (b : Chip) (e : Ev) : (b.logEvent e).dev.mode = b.dev.mode := b.logAs_dev_mode e false
@[simp] theorem Chip.logAs_dev_gateDrive (b : Chip) (e : Ev) (x : Bool) : (b.logAs e x).dev.gateDrive = b.dev.gateDrive := by
  rcases b.logAs_dev e x with h | h <;> rw [h]
@[simp] theorem Chip.logEvent_dev_gateDrive (b : Chip) (e : Ev) : (b.logEvent e).dev.gateDrive = b.dev.gateDrive := b.logAs_dev_gateDrive e false
@[simp] theorem Chip.logAs_dev_gateLevel (b : Chip) (e : Ev) (x : Bool) : (b.logAs e x).dev.gateLevel = b.dev.gateLevel := by
  rcases b.logAs_dev e x with h | h <;> rw [h]
@[simp] theorem Chip.logEvent_dev_gateLevel (b : Chip) (e : Ev) : (b.logEvent e).dev.gateLevel = b.dev.gateLevel := b.logAs_dev_gateLevel e false
@[simp] theorem Chip.logAs_dev_closingFromSafe (b : Chip) (e : Ev) (x : Bool) : (b.logAs e x).dev.closingFromSafe = b.dev.closingFromSafe := by
  rcases b.logAs_dev e x with h | h <;> rw [h]
@[simp] theorem Chip.logEvent_dev_closingFromSafe (b : Chip) (e : Ev) : (b.logEvent e).dev.closingFromSafe = b.dev.closingFromSafe := b.logAs_dev_closingFromSafe e false
@[simp] theorem Chip.logAs_dev_closingStage (b : Chip) (e : Ev) (x : Bool) : (b.logAs e x).dev.closingStage = b.dev.closingStage := by
  rcases b.logAs_dev e x with h | h <;> rw [h]
@[simp] theorem Chip.logEvent_dev_closingStage (b : Chip) (e : Ev) : (b.logEvent e).dev.closingStage = b.dev.closingStage := b.logAs_dev_closingStage e false
@[simp] theorem Chip.logAs_dev_raised (b : Chip) (e : Ev) (x : Bool) : (b.logAs e x).dev.raised = b.dev.raised := by
  rcases b.logAs_dev e x with h | h <;> rw [h]
@[simp] theorem Chip.logEvent_dev_raised (b : Chip) (e : Ev) : (b.logEvent e).dev.raised = b.dev.raised := b.logAs_dev_raised e false
@[simp] theorem Chip.logAs_dev_faultTick (b : Chip) (e : Ev) (x : Bool) : (b.logAs e x).dev.faultTick = b.dev.faultTick := by
  rcases b.logAs_dev e x with h | h <;> rw [h]
@[simp] theorem Chip.logEvent_dev_faultTick (b : Chip) (e : Ev) : (b.logEvent e).dev.faultTick = b.dev.faultTick := b.logAs_dev_faultTick e false
@[simp] theorem Chip.logAs_dev_decidedAt (b : Chip) (e : Ev) (x : Bool) : (b.logAs e x).dev.decidedAt = b.dev.decidedAt := by
  rcases b.logAs_dev e x with h | h <;> rw [h]
@[simp] theorem Chip.logEvent_dev_decidedAt (b : Chip) (e : Ev) : (b.logEvent e).dev.decidedAt = b.dev.decidedAt := b.logAs_dev_decidedAt e false
@[simp] theorem Chip.logAs_dev_volts (b : Chip) (e : Ev) (x : Bool) : (b.logAs e x).dev.volts = b.dev.volts := by
  rcases b.logAs_dev e x with h | h <;> rw [h]
@[simp] theorem Chip.logEvent_dev_volts (b : Chip) (e : Ev) : (b.logEvent e).dev.volts = b.dev.volts := b.logAs_dev_volts e false
@[simp] theorem Chip.logAs_dev_freqs (b : Chip) (e : Ev) (x : Bool) : (b.logAs e x).dev.freqs = b.dev.freqs := by
  rcases b.logAs_dev e x with h | h <;> rw [h]
@[simp] theorem Chip.logEvent_dev_freqs (b : Chip) (e : Ev) : (b.logEvent e).dev.freqs = b.dev.freqs := b.logAs_dev_freqs e false
theorem Chip.pushEntry_lantern (b : Chip) (e : Ev) (x : Bool) :
    (b.pushEntry e x).lantern = b.lantern ∨ (b.pushEntry e x).lantern = { b.lantern with logLoss := true } := by
  simp only [Chip.pushEntry]
  by_cases h : b.log.pending = 256 <;> simp [h, apply_ite Chip.lantern]

theorem Chip.logAs_lantern (b : Chip) (e : Ev) (x : Bool) :
    (b.logAs e x).lantern = b.lantern ∨ (b.logAs e x).lantern = { b.lantern with logLoss := true } := by
  simp only [Chip.logAs]
  split
  · exact .inl rfl
  · split
    · rcases Chip.pushEntry_lantern
        { b.pushEntry e x with log := { (b.pushEntry e x).log with episode := true } }
        { code := 0x40E00017, sev := 3 } false with h | h <;> rw [h] <;>
        rcases Chip.pushEntry_lantern b e x with g | g <;> simp [g]
    · exact Chip.pushEntry_lantern b e x

@[simp] theorem Chip.logAs_lantern_running (b : Chip) (e : Ev) (x : Bool) :
    (b.logAs e x).lantern.running = b.lantern.running := by rcases b.logAs_lantern e x with h | h <;> rw [h]
@[simp] theorem Chip.logEvent_lantern_running (b : Chip) (e : Ev) :
    (b.logEvent e).lantern.running = b.lantern.running := b.logAs_lantern_running e false
@[simp] theorem Chip.logAs_lantern_slotA (b : Chip) (e : Ev) (x : Bool) :
    (b.logAs e x).lantern.slotA = b.lantern.slotA := by rcases b.logAs_lantern e x with h | h <;> rw [h]
@[simp] theorem Chip.logEvent_lantern_slotA (b : Chip) (e : Ev) :
    (b.logEvent e).lantern.slotA = b.lantern.slotA := b.logAs_lantern_slotA e false
@[simp] theorem Chip.logAs_lantern_slotB (b : Chip) (e : Ev) (x : Bool) :
    (b.logAs e x).lantern.slotB = b.lantern.slotB := by rcases b.logAs_lantern e x with h | h <;> rw [h]
@[simp] theorem Chip.logEvent_lantern_slotB (b : Chip) (e : Ev) :
    (b.logEvent e).lantern.slotB = b.lantern.slotB := b.logAs_lantern_slotB e false
@[simp] theorem Chip.logAs_lantern_runB (b : Chip) (e : Ev) (x : Bool) :
    (b.logAs e x).lantern.runB = b.lantern.runB := by rcases b.logAs_lantern e x with h | h <;> rw [h]
@[simp] theorem Chip.logEvent_lantern_runB (b : Chip) (e : Ev) :
    (b.logEvent e).lantern.runB = b.lantern.runB := b.logAs_lantern_runB e false
@[simp] theorem Chip.logAs_lantern_confirmed (b : Chip) (e : Ev) (x : Bool) :
    (b.logAs e x).lantern.confirmed = b.lantern.confirmed := by rcases b.logAs_lantern e x with h | h <;> rw [h]
@[simp] theorem Chip.logEvent_lantern_confirmed (b : Chip) (e : Ev) :
    (b.logEvent e).lantern.confirmed = b.lantern.confirmed := b.logAs_lantern_confirmed e false
@[simp] theorem Chip.logAs_lantern_pendingSlot (b : Chip) (e : Ev) (x : Bool) :
    (b.logAs e x).lantern.pendingSlot = b.lantern.pendingSlot := by rcases b.logAs_lantern e x with h | h <;> rw [h]
@[simp] theorem Chip.logEvent_lantern_pendingSlot (b : Chip) (e : Ev) :
    (b.logEvent e).lantern.pendingSlot = b.lantern.pendingSlot := b.logAs_lantern_pendingSlot e false
@[simp] theorem Chip.logAs_lantern_trial (b : Chip) (e : Ev) (x : Bool) :
    (b.logAs e x).lantern.trial = b.lantern.trial := by rcases b.logAs_lantern e x with h | h <;> rw [h]
@[simp] theorem Chip.logEvent_lantern_trial (b : Chip) (e : Ev) :
    (b.logEvent e).lantern.trial = b.lantern.trial := b.logAs_lantern_trial e false
@[simp] theorem Chip.logAs_lantern_op (b : Chip) (e : Ev) (x : Bool) :
    (b.logAs e x).lantern.op = b.lantern.op := by rcases b.logAs_lantern e x with h | h <;> rw [h]
@[simp] theorem Chip.logEvent_lantern_op (b : Chip) (e : Ev) :
    (b.logEvent e).lantern.op = b.lantern.op := b.logAs_lantern_op e false
@[simp] theorem Chip.logAs_lantern_rollback (b : Chip) (e : Ev) (x : Bool) :
    (b.logAs e x).lantern.rollback = b.lantern.rollback := by rcases b.logAs_lantern e x with h | h <;> rw [h]
@[simp] theorem Chip.logEvent_lantern_rollback (b : Chip) (e : Ev) :
    (b.logEvent e).lantern.rollback = b.lantern.rollback := b.logAs_lantern_rollback e false
@[simp] theorem Chip.logAs_lantern_keys (b : Chip) (e : Ev) (x : Bool) :
    (b.logAs e x).lantern.keys = b.lantern.keys := by rcases b.logAs_lantern e x with h | h <;> rw [h]
@[simp] theorem Chip.logEvent_lantern_keys (b : Chip) (e : Ev) :
    (b.logEvent e).lantern.keys = b.lantern.keys := b.logAs_lantern_keys e false
@[simp] theorem Chip.logAs_lantern_windowBase (b : Chip) (e : Ev) (x : Bool) :
    (b.logAs e x).lantern.windowBase = b.lantern.windowBase := by rcases b.logAs_lantern e x with h | h <;> rw [h]
@[simp] theorem Chip.logEvent_lantern_windowBase (b : Chip) (e : Ev) :
    (b.logEvent e).lantern.windowBase = b.lantern.windowBase := b.logAs_lantern_windowBase e false
@[simp] theorem Chip.logAs_lantern_debugPc (b : Chip) (e : Ev) (x : Bool) :
    (b.logAs e x).lantern.debugPc = b.lantern.debugPc := by rcases b.logAs_lantern e x with h | h <;> rw [h]
@[simp] theorem Chip.logEvent_lantern_debugPc (b : Chip) (e : Ev) :
    (b.logEvent e).lantern.debugPc = b.lantern.debugPc := b.logAs_lantern_debugPc e false
@[simp] theorem Chip.logAs_lantern_monitorVector (b : Chip) (e : Ev) (x : Bool) :
    (b.logAs e x).lantern.monitorVector = b.lantern.monitorVector := by rcases b.logAs_lantern e x with h | h <;> rw [h]
@[simp] theorem Chip.logEvent_lantern_monitorVector (b : Chip) (e : Ev) :
    (b.logEvent e).lantern.monitorVector = b.lantern.monitorVector := b.logAs_lantern_monitorVector e false
@[simp] theorem Chip.logAs_lantern_inMonitor (b : Chip) (e : Ev) (x : Bool) :
    (b.logAs e x).lantern.inMonitor = b.lantern.inMonitor := by rcases b.logAs_lantern e x with h | h <;> rw [h]
@[simp] theorem Chip.logEvent_lantern_inMonitor (b : Chip) (e : Ev) :
    (b.logEvent e).lantern.inMonitor = b.lantern.inMonitor := b.logAs_lantern_inMonitor e false
@[simp] theorem Chip.logAs_lantern_resumeReq (b : Chip) (e : Ev) (x : Bool) :
    (b.logAs e x).lantern.resumeReq = b.lantern.resumeReq := by rcases b.logAs_lantern e x with h | h <;> rw [h]
@[simp] theorem Chip.logEvent_lantern_resumeReq (b : Chip) (e : Ev) :
    (b.logEvent e).lantern.resumeReq = b.lantern.resumeReq := b.logAs_lantern_resumeReq e false
@[simp] theorem Chip.logAs_lantern_reservation (b : Chip) (e : Ev) (x : Bool) :
    (b.logAs e x).lantern.reservation = b.lantern.reservation := by rcases b.logAs_lantern e x with h | h <;> rw [h]
@[simp] theorem Chip.logEvent_lantern_reservation (b : Chip) (e : Ev) :
    (b.logEvent e).lantern.reservation = b.lantern.reservation := b.logAs_lantern_reservation e false
@[simp] theorem Chip.logAs_lantern_held (b : Chip) (e : Ev) (x : Bool) :
    (b.logAs e x).lantern.held = b.lantern.held := by rcases b.logAs_lantern e x with h | h <;> rw [h]
@[simp] theorem Chip.logEvent_lantern_held (b : Chip) (e : Ev) :
    (b.logEvent e).lantern.held = b.lantern.held := b.logAs_lantern_held e false
@[simp] theorem Chip.logAs_lantern_remaining (b : Chip) (e : Ev) (x : Bool) :
    (b.logAs e x).lantern.remaining = b.lantern.remaining := by rcases b.logAs_lantern e x with h | h <;> rw [h]
@[simp] theorem Chip.logEvent_lantern_remaining (b : Chip) (e : Ev) :
    (b.logEvent e).lantern.remaining = b.lantern.remaining := b.logAs_lantern_remaining e false
@[simp] theorem Chip.logAs_lantern_reloadAt (b : Chip) (e : Ev) (x : Bool) :
    (b.logAs e x).lantern.reloadAt = b.lantern.reloadAt := by rcases b.logAs_lantern e x with h | h <;> rw [h]
@[simp] theorem Chip.logEvent_lantern_reloadAt (b : Chip) (e : Ev) :
    (b.logEvent e).lantern.reloadAt = b.lantern.reloadAt := b.logAs_lantern_reloadAt e false
@[simp] theorem Chip.logAs_lantern_heldAt (b : Chip) (e : Ev) (x : Bool) :
    (b.logAs e x).lantern.heldAt = b.lantern.heldAt := by rcases b.logAs_lantern e x with h | h <;> rw [h]
@[simp] theorem Chip.logEvent_lantern_heldAt (b : Chip) (e : Ev) :
    (b.logEvent e).lantern.heldAt = b.lantern.heldAt := b.logAs_lantern_heldAt e false
@[simp] theorem Chip.logAs_lantern_kickHalf (b : Chip) (e : Ev) (x : Bool) :
    (b.logAs e x).lantern.kickHalf = b.lantern.kickHalf := by rcases b.logAs_lantern e x with h | h <;> rw [h]
@[simp] theorem Chip.logEvent_lantern_kickHalf (b : Chip) (e : Ev) :
    (b.logEvent e).lantern.kickHalf = b.lantern.kickHalf := b.logAs_lantern_kickHalf e false
@[simp] theorem Chip.logAs_lantern_temps (b : Chip) (e : Ev) (x : Bool) :
    (b.logAs e x).lantern.temps = b.lantern.temps := by rcases b.logAs_lantern e x with h | h <;> rw [h]
@[simp] theorem Chip.logEvent_lantern_temps (b : Chip) (e : Ev) :
    (b.logEvent e).lantern.temps = b.lantern.temps := b.logAs_lantern_temps e false
@[simp] theorem Chip.logAs_lantern_hotRuns (b : Chip) (e : Ev) (x : Bool) :
    (b.logAs e x).lantern.hotRuns = b.lantern.hotRuns := by rcases b.logAs_lantern e x with h | h <;> rw [h]
@[simp] theorem Chip.logEvent_lantern_hotRuns (b : Chip) (e : Ev) :
    (b.logEvent e).lantern.hotRuns = b.lantern.hotRuns := b.logAs_lantern_hotRuns e false
@[simp] theorem Chip.logAs_lantern_invalid (b : Chip) (e : Ev) (x : Bool) :
    (b.logAs e x).lantern.invalid = b.lantern.invalid := by rcases b.logAs_lantern e x with h | h <;> rw [h]
@[simp] theorem Chip.logEvent_lantern_invalid (b : Chip) (e : Ev) :
    (b.logEvent e).lantern.invalid = b.lantern.invalid := b.logAs_lantern_invalid e false
@[simp] theorem Chip.logAs_lantern_failed (b : Chip) (e : Ev) (x : Bool) :
    (b.logAs e x).lantern.failed = b.lantern.failed := by rcases b.logAs_lantern e x with h | h <;> rw [h]
@[simp] theorem Chip.logEvent_lantern_failed (b : Chip) (e : Ev) :
    (b.logEvent e).lantern.failed = b.lantern.failed := b.logAs_lantern_failed e false
@[simp] theorem Chip.logAs_lantern_warm (b : Chip) (e : Ev) (x : Bool) :
    (b.logAs e x).lantern.warm = b.lantern.warm := by rcases b.logAs_lantern e x with h | h <;> rw [h]
@[simp] theorem Chip.logEvent_lantern_warm (b : Chip) (e : Ev) :
    (b.logEvent e).lantern.warm = b.lantern.warm := b.logAs_lantern_warm e false
@[simp] theorem Chip.logAs_lantern_warning (b : Chip) (e : Ev) (x : Bool) :
    (b.logAs e x).lantern.warning = b.lantern.warning := by rcases b.logAs_lantern e x with h | h <;> rw [h]
@[simp] theorem Chip.logEvent_lantern_warning (b : Chip) (e : Ev) :
    (b.logEvent e).lantern.warning = b.lantern.warning := b.logAs_lantern_warning e false
@[simp] theorem Chip.logAs_lantern_highest (b : Chip) (e : Ev) (x : Bool) :
    (b.logAs e x).lantern.highest = b.lantern.highest := by rcases b.logAs_lantern e x with h | h <;> rw [h]
@[simp] theorem Chip.logEvent_lantern_highest (b : Chip) (e : Ev) :
    (b.logEvent e).lantern.highest = b.lantern.highest := b.logAs_lantern_highest e false
@[simp] theorem Chip.logAs_lantern_fwFallback (b : Chip) (e : Ev) (x : Bool) :
    (b.logAs e x).lantern.fwFallback = b.lantern.fwFallback := by rcases b.logAs_lantern e x with h | h <;> rw [h]
@[simp] theorem Chip.logEvent_lantern_fwFallback (b : Chip) (e : Ev) :
    (b.logEvent e).lantern.fwFallback = b.lantern.fwFallback := b.logAs_lantern_fwFallback e false
@[simp] theorem Chip.logAs_lantern_wdogSeen (b : Chip) (e : Ev) (x : Bool) :
    (b.logAs e x).lantern.wdogSeen = b.lantern.wdogSeen := by rcases b.logAs_lantern e x with h | h <;> rw [h]
@[simp] theorem Chip.logEvent_lantern_wdogSeen (b : Chip) (e : Ev) :
    (b.logEvent e).lantern.wdogSeen = b.lantern.wdogSeen := b.logAs_lantern_wdogSeen e false
@[simp] theorem Chip.logAs_lantern_sramCorrected (b : Chip) (e : Ev) (x : Bool) :
    (b.logAs e x).lantern.sramCorrected = b.lantern.sramCorrected := by rcases b.logAs_lantern e x with h | h <;> rw [h]
@[simp] theorem Chip.logEvent_lantern_sramCorrected (b : Chip) (e : Ev) :
    (b.logEvent e).lantern.sramCorrected = b.lantern.sramCorrected := b.logAs_lantern_sramCorrected e false
@[simp] theorem Chip.logAs_lantern_injSensors (b : Chip) (e : Ev) (x : Bool) :
    (b.logAs e x).lantern.injSensors = b.lantern.injSensors := by rcases b.logAs_lantern e x with h | h <;> rw [h]
@[simp] theorem Chip.logEvent_lantern_injSensors (b : Chip) (e : Ev) :
    (b.logEvent e).lantern.injSensors = b.lantern.injSensors := b.logAs_lantern_injSensors e false
/-- What the mailbox of the field network holds apart, an entry leaves the field network alone. -/
theorem Chip.emergency_ecat (b : Chip) (e : LogEntry) : ∃ n l s m,
    (b.emergency e).ecat = { b.ecat with respCounter := n, lastResp := l, sm1 := s, emergencies := m } := by
  simp only [Chip.emergency]
  (repeat' split) <;> exact ⟨_, _, _, _, rfl⟩

theorem Chip.pushEntry_ecat (b : Chip) (e : Ev) (x : Bool) : ∃ n l s m,
    (b.pushEntry e x).ecat = { b.ecat with respCounter := n, lastResp := l, sm1 := s, emergencies := m } := by
  simp only [Chip.pushEntry]
  obtain ⟨n, l, s, m, h⟩ := Chip.emergency_ecat _ _
  refine ⟨n, l, s, m, h.trans ?_⟩
  simp [apply_ite Chip.ecat]

theorem Chip.logAs_ecat (b : Chip) (e : Ev) (x : Bool) : ∃ n l s m,
    (b.logAs e x).ecat = { b.ecat with respCounter := n, lastResp := l, sm1 := s, emergencies := m } := by
  simp only [Chip.logAs]
  split
  · exact ⟨_, _, _, _, rfl⟩
  · split
    · obtain ⟨n, l, s, m, h⟩ := Chip.pushEntry_ecat
        { b.pushEntry e x with log := { (b.pushEntry e x).log with episode := true } }
        { code := 0x40E00017, sev := 3 } false
      obtain ⟨n', l', s', m', g⟩ := Chip.pushEntry_ecat b e x
      exact ⟨n, l, s, m, by rw [h, g]⟩
    · exact Chip.pushEntry_ecat b e x

@[simp] theorem Chip.logAs_ecat_al (b : Chip) (e : Ev) (x : Bool) :
    (b.logAs e x).ecat.al = b.ecat.al := by obtain ⟨_, _, _, _, h⟩ := b.logAs_ecat e x; rw [h]
@[simp] theorem Chip.logEvent_ecat_al (b : Chip) (e : Ev) :
    (b.logEvent e).ecat.al = b.ecat.al := b.logAs_ecat_al e false
@[simp] theorem Chip.logAs_ecat_code (b : Chip) (e : Ev) (x : Bool) :
    (b.logAs e x).ecat.code = b.ecat.code := by obtain ⟨_, _, _, _, h⟩ := b.logAs_ecat e x; rw [h]
@[simp] theorem Chip.logEvent_ecat_code (b : Chip) (e : Ev) :
    (b.logEvent e).ecat.code = b.ecat.code := b.logAs_ecat_code e false
@[simp] theorem Chip.logAs_ecat_held (b : Chip) (e : Ev) (x : Bool) :
    (b.logAs e x).ecat.held = b.ecat.held := by obtain ⟨_, _, _, _, h⟩ := b.logAs_ecat e x; rw [h]
@[simp] theorem Chip.logEvent_ecat_held (b : Chip) (e : Ev) :
    (b.logEvent e).ecat.held = b.ecat.held := b.logAs_ecat_held e false
@[simp] theorem Chip.logAs_ecat_station (b : Chip) (e : Ev) (x : Bool) :
    (b.logAs e x).ecat.station = b.ecat.station := by obtain ⟨_, _, _, _, h⟩ := b.logAs_ecat e x; rw [h]
@[simp] theorem Chip.logEvent_ecat_station (b : Chip) (e : Ev) :
    (b.logEvent e).ecat.station = b.ecat.station := b.logAs_ecat_station e false
@[simp] theorem Chip.logAs_ecat_alias_ (b : Chip) (e : Ev) (x : Bool) :
    (b.logAs e x).ecat.alias_ = b.ecat.alias_ := by obtain ⟨_, _, _, _, h⟩ := b.logAs_ecat e x; rw [h]
@[simp] theorem Chip.logEvent_ecat_alias_ (b : Chip) (e : Ev) :
    (b.logEvent e).ecat.alias_ = b.ecat.alias_ := b.logAs_ecat_alias_ e false
@[simp] theorem Chip.logAs_ecat_link (b : Chip) (e : Ev) (x : Bool) :
    (b.logAs e x).ecat.link = b.ecat.link := by obtain ⟨_, _, _, _, h⟩ := b.logAs_ecat e x; rw [h]
@[simp] theorem Chip.logEvent_ecat_link (b : Chip) (e : Ev) :
    (b.logEvent e).ecat.link = b.ecat.link := b.logAs_ecat_link e false
@[simp] theorem Chip.logAs_ecat_esc (b : Chip) (e : Ev) (x : Bool) :
    (b.logAs e x).ecat.esc = b.ecat.esc := by obtain ⟨_, _, _, _, h⟩ := b.logAs_ecat e x; rw [h]
@[simp] theorem Chip.logEvent_ecat_esc (b : Chip) (e : Ev) :
    (b.logEvent e).ecat.esc = b.ecat.esc := b.logAs_ecat_esc e false
@[simp] theorem Chip.logAs_ecat_sii (b : Chip) (e : Ev) (x : Bool) :
    (b.logAs e x).ecat.sii = b.ecat.sii := by obtain ⟨_, _, _, _, h⟩ := b.logAs_ecat e x; rw [h]
@[simp] theorem Chip.logEvent_ecat_sii (b : Chip) (e : Ev) :
    (b.logEvent e).ecat.sii = b.ecat.sii := b.logAs_ecat_sii e false
@[simp] theorem Chip.logAs_ecat_eepromBusy (b : Chip) (e : Ev) (x : Bool) :
    (b.logAs e x).ecat.eepromBusy = b.ecat.eepromBusy := by obtain ⟨_, _, _, _, h⟩ := b.logAs_ecat e x; rw [h]
@[simp] theorem Chip.logEvent_ecat_eepromBusy (b : Chip) (e : Ev) :
    (b.logEvent e).ecat.eepromBusy = b.ecat.eepromBusy := b.logAs_ecat_eepromBusy e false
@[simp] theorem Chip.logAs_ecat_eepromError (b : Chip) (e : Ev) (x : Bool) :
    (b.logAs e x).ecat.eepromError = b.ecat.eepromError := by obtain ⟨_, _, _, _, h⟩ := b.logAs_ecat e x; rw [h]
@[simp] theorem Chip.logEvent_ecat_eepromError (b : Chip) (e : Ev) :
    (b.logEvent e).ecat.eepromError = b.ecat.eepromError := b.logAs_ecat_eepromError e false
@[simp] theorem Chip.logAs_ecat_siiData (b : Chip) (e : Ev) (x : Bool) :
    (b.logAs e x).ecat.siiData = b.ecat.siiData := by obtain ⟨_, _, _, _, h⟩ := b.logAs_ecat e x; rw [h]
@[simp] theorem Chip.logEvent_ecat_siiData (b : Chip) (e : Ev) :
    (b.logEvent e).ecat.siiData = b.ecat.siiData := b.logAs_ecat_siiData e false
@[simp] theorem Chip.logAs_ecat_syncActive (b : Chip) (e : Ev) (x : Bool) :
    (b.logAs e x).ecat.syncActive = b.ecat.syncActive := by obtain ⟨_, _, _, _, h⟩ := b.logAs_ecat e x; rw [h]
@[simp] theorem Chip.logEvent_ecat_syncActive (b : Chip) (e : Ev) :
    (b.logEvent e).ecat.syncActive = b.ecat.syncActive := b.logAs_ecat_syncActive e false
@[simp] theorem Chip.logAs_ecat_syncRefused (b : Chip) (e : Ev) (x : Bool) :
    (b.logAs e x).ecat.syncRefused = b.ecat.syncRefused := by obtain ⟨_, _, _, _, h⟩ := b.logAs_ecat e x; rw [h]
@[simp] theorem Chip.logEvent_ecat_syncRefused (b : Chip) (e : Ev) :
    (b.logEvent e).ecat.syncRefused = b.ecat.syncRefused := b.logAs_ecat_syncRefused e false
@[simp] theorem Chip.logAs_ecat_cycle0 (b : Chip) (e : Ev) (x : Bool) :
    (b.logAs e x).ecat.cycle0 = b.ecat.cycle0 := by obtain ⟨_, _, _, _, h⟩ := b.logAs_ecat e x; rw [h]
@[simp] theorem Chip.logEvent_ecat_cycle0 (b : Chip) (e : Ev) :
    (b.logEvent e).ecat.cycle0 = b.ecat.cycle0 := b.logAs_ecat_cycle0 e false
@[simp] theorem Chip.logAs_ecat_start0 (b : Chip) (e : Ev) (x : Bool) :
    (b.logAs e x).ecat.start0 = b.ecat.start0 := by obtain ⟨_, _, _, _, h⟩ := b.logAs_ecat e x; rw [h]
@[simp] theorem Chip.logEvent_ecat_start0 (b : Chip) (e : Ev) :
    (b.logEvent e).ecat.start0 = b.ecat.start0 := b.logAs_ecat_start0 e false
@[simp] theorem Chip.logAs_ecat_cycle1 (b : Chip) (e : Ev) (x : Bool) :
    (b.logAs e x).ecat.cycle1 = b.ecat.cycle1 := by obtain ⟨_, _, _, _, h⟩ := b.logAs_ecat e x; rw [h]
@[simp] theorem Chip.logEvent_ecat_cycle1 (b : Chip) (e : Ev) :
    (b.logEvent e).ecat.cycle1 = b.ecat.cycle1 := b.logAs_ecat_cycle1 e false
@[simp] theorem Chip.logAs_ecat_sm2 (b : Chip) (e : Ev) (x : Bool) :
    (b.logAs e x).ecat.sm2 = b.ecat.sm2 := by obtain ⟨_, _, _, _, h⟩ := b.logAs_ecat e x; rw [h]
@[simp] theorem Chip.logEvent_ecat_sm2 (b : Chip) (e : Ev) :
    (b.logEvent e).ecat.sm2 = b.ecat.sm2 := b.logAs_ecat_sm2 e false
@[simp] theorem Chip.logAs_ecat_sm2New (b : Chip) (e : Ev) (x : Bool) :
    (b.logAs e x).ecat.sm2New = b.ecat.sm2New := by obtain ⟨_, _, _, _, h⟩ := b.logAs_ecat e x; rw [h]
@[simp] theorem Chip.logEvent_ecat_sm2New (b : Chip) (e : Ev) :
    (b.logEvent e).ecat.sm2New = b.ecat.sm2New := b.logAs_ecat_sm2New e false
@[simp] theorem Chip.logAs_ecat_taken (b : Chip) (e : Ev) (x : Bool) :
    (b.logAs e x).ecat.taken = b.ecat.taken := by obtain ⟨_, _, _, _, h⟩ := b.logAs_ecat e x; rw [h]
@[simp] theorem Chip.logEvent_ecat_taken (b : Chip) (e : Ev) :
    (b.logEvent e).ecat.taken = b.ecat.taken := b.logAs_ecat_taken e false
@[simp] theorem Chip.logAs_ecat_applyDue (b : Chip) (e : Ev) (x : Bool) :
    (b.logAs e x).ecat.applyDue = b.ecat.applyDue := by obtain ⟨_, _, _, _, h⟩ := b.logAs_ecat e x; rw [h]
@[simp] theorem Chip.logEvent_ecat_applyDue (b : Chip) (e : Ev) :
    (b.logEvent e).ecat.applyDue = b.ecat.applyDue := b.logAs_ecat_applyDue e false
@[simp] theorem Chip.logAs_ecat_applied (b : Chip) (e : Ev) (x : Bool) :
    (b.logAs e x).ecat.applied = b.ecat.applied := by obtain ⟨_, _, _, _, h⟩ := b.logAs_ecat e x; rw [h]
@[simp] theorem Chip.logEvent_ecat_applied (b : Chip) (e : Ev) :
    (b.logEvent e).ecat.applied = b.ecat.applied := b.logAs_ecat_applied e false
@[simp] theorem Chip.logAs_ecat_inputs (b : Chip) (e : Ev) (x : Bool) :
    (b.logAs e x).ecat.inputs = b.ecat.inputs := by obtain ⟨_, _, _, _, h⟩ := b.logAs_ecat e x; rw [h]
@[simp] theorem Chip.logEvent_ecat_inputs (b : Chip) (e : Ev) :
    (b.logEvent e).ecat.inputs = b.ecat.inputs := b.logAs_ecat_inputs e false
@[simp] theorem Chip.logAs_ecat_inHist (b : Chip) (e : Ev) (x : Bool) :
    (b.logAs e x).ecat.inHist = b.ecat.inHist := by obtain ⟨_, _, _, _, h⟩ := b.logAs_ecat e x; rw [h]
@[simp] theorem Chip.logEvent_ecat_inHist (b : Chip) (e : Ev) :
    (b.logEvent e).ecat.inHist = b.ecat.inHist := b.logAs_ecat_inHist e false
@[simp] theorem Chip.logAs_ecat_preIn (b : Chip) (e : Ev) (x : Bool) :
    (b.logAs e x).ecat.preIn = b.ecat.preIn := by obtain ⟨_, _, _, _, h⟩ := b.logAs_ecat e x; rw [h]
@[simp] theorem Chip.logEvent_ecat_preIn (b : Chip) (e : Ev) :
    (b.logEvent e).ecat.preIn = b.ecat.preIn := b.logAs_ecat_preIn e false
@[simp] theorem Chip.logAs_ecat_preAt (b : Chip) (e : Ev) (x : Bool) :
    (b.logAs e x).ecat.preAt = b.ecat.preAt := by obtain ⟨_, _, _, _, h⟩ := b.logAs_ecat e x; rw [h]
@[simp] theorem Chip.logEvent_ecat_preAt (b : Chip) (e : Ev) :
    (b.logEvent e).ecat.preAt = b.ecat.preAt := b.logAs_ecat_preAt e false
@[simp] theorem Chip.logAs_ecat_latchDue (b : Chip) (e : Ev) (x : Bool) :
    (b.logAs e x).ecat.latchDue = b.ecat.latchDue := by obtain ⟨_, _, _, _, h⟩ := b.logAs_ecat e x; rw [h]
@[simp] theorem Chip.logEvent_ecat_latchDue (b : Chip) (e : Ev) :
    (b.logEvent e).ecat.latchDue = b.ecat.latchDue := b.logAs_ecat_latchDue e false
@[simp] theorem Chip.logAs_ecat_latched (b : Chip) (e : Ev) (x : Bool) :
    (b.logAs e x).ecat.latched = b.ecat.latched := by obtain ⟨_, _, _, _, h⟩ := b.logAs_ecat e x; rw [h]
@[simp] theorem Chip.logEvent_ecat_latched (b : Chip) (e : Ev) :
    (b.logEvent e).ecat.latched = b.ecat.latched := b.logAs_ecat_latched e false
@[simp] theorem Chip.logAs_ecat_sm3 (b : Chip) (e : Ev) (x : Bool) :
    (b.logAs e x).ecat.sm3 = b.ecat.sm3 := by obtain ⟨_, _, _, _, h⟩ := b.logAs_ecat e x; rw [h]
@[simp] theorem Chip.logEvent_ecat_sm3 (b : Chip) (e : Ev) :
    (b.logEvent e).ecat.sm3 = b.ecat.sm3 := b.logAs_ecat_sm3 e false
@[simp] theorem Chip.logAs_ecat_ev (b : Chip) (e : Ev) (x : Bool) :
    (b.logAs e x).ecat.ev = b.ecat.ev := by obtain ⟨_, _, _, _, h⟩ := b.logAs_ecat e x; rw [h]
@[simp] theorem Chip.logEvent_ecat_ev (b : Chip) (e : Ev) :
    (b.logEvent e).ecat.ev = b.ecat.ev := b.logAs_ecat_ev e false
@[simp] theorem Chip.logAs_ecat_evSeen (b : Chip) (e : Ev) (x : Bool) :
    (b.logAs e x).ecat.evSeen = b.ecat.evSeen := by obtain ⟨_, _, _, _, h⟩ := b.logAs_ecat e x; rw [h]
@[simp] theorem Chip.logEvent_ecat_evSeen (b : Chip) (e : Ev) :
    (b.logEvent e).ecat.evSeen = b.ecat.evSeen := b.logAs_ecat_evSeen e false
@[simp] theorem Chip.logAs_ecat_misses (b : Chip) (e : Ev) (x : Bool) :
    (b.logAs e x).ecat.misses = b.ecat.misses := by obtain ⟨_, _, _, _, h⟩ := b.logAs_ecat e x; rw [h]
@[simp] theorem Chip.logEvent_ecat_misses (b : Chip) (e : Ev) :
    (b.logEvent e).ecat.misses = b.ecat.misses := b.logAs_ecat_misses e false
@[simp] theorem Chip.logAs_ecat_pdNew (b : Chip) (e : Ev) (x : Bool) :
    (b.logAs e x).ecat.pdNew = b.ecat.pdNew := by obtain ⟨_, _, _, _, h⟩ := b.logAs_ecat e x; rw [h]
@[simp] theorem Chip.logEvent_ecat_pdNew (b : Chip) (e : Ev) :
    (b.logEvent e).ecat.pdNew = b.ecat.pdNew := b.logAs_ecat_pdNew e false
@[simp] theorem Chip.logAs_ecat_pdLatch (b : Chip) (e : Ev) (x : Bool) :
    (b.logAs e x).ecat.pdLatch = b.ecat.pdLatch := by obtain ⟨_, _, _, _, h⟩ := b.logAs_ecat e x; rw [h]
@[simp] theorem Chip.logEvent_ecat_pdLatch (b : Chip) (e : Ev) :
    (b.logEvent e).ecat.pdLatch = b.ecat.pdLatch := b.logAs_ecat_pdLatch e false
@[simp] theorem Chip.logAs_ecat_sm0 (b : Chip) (e : Ev) (x : Bool) :
    (b.logAs e x).ecat.sm0 = b.ecat.sm0 := by obtain ⟨_, _, _, _, h⟩ := b.logAs_ecat e x; rw [h]
@[simp] theorem Chip.logEvent_ecat_sm0 (b : Chip) (e : Ev) :
    (b.logEvent e).ecat.sm0 = b.ecat.sm0 := b.logAs_ecat_sm0 e false
@[simp] theorem Chip.logAs_ecat_lastCounter (b : Chip) (e : Ev) (x : Bool) :
    (b.logAs e x).ecat.lastCounter = b.ecat.lastCounter := by obtain ⟨_, _, _, _, h⟩ := b.logAs_ecat e x; rw [h]
@[simp] theorem Chip.logEvent_ecat_lastCounter (b : Chip) (e : Ev) :
    (b.logEvent e).ecat.lastCounter = b.ecat.lastCounter := b.logAs_ecat_lastCounter e false
@[simp] theorem Chip.logAs_ecat_foe (b : Chip) (e : Ev) (x : Bool) :
    (b.logAs e x).ecat.foe = b.ecat.foe := by obtain ⟨_, _, _, _, h⟩ := b.logAs_ecat e x; rw [h]
@[simp] theorem Chip.logEvent_ecat_foe (b : Chip) (e : Ev) :
    (b.logEvent e).ecat.foe = b.ecat.foe := b.logAs_ecat_foe e false
@[simp] theorem Chip.logAs_ecat_foePacket (b : Chip) (e : Ev) (x : Bool) :
    (b.logAs e x).ecat.foePacket = b.ecat.foePacket := by obtain ⟨_, _, _, _, h⟩ := b.logAs_ecat e x; rw [h]
@[simp] theorem Chip.logEvent_ecat_foePacket (b : Chip) (e : Ev) :
    (b.logEvent e).ecat.foePacket = b.ecat.foePacket := b.logAs_ecat_foePacket e false
@[simp] theorem Chip.logAs_ecat_foeBytes (b : Chip) (e : Ev) (x : Bool) :
    (b.logAs e x).ecat.foeBytes = b.ecat.foeBytes := by obtain ⟨_, _, _, _, h⟩ := b.logAs_ecat e x; rw [h]
@[simp] theorem Chip.logEvent_ecat_foeBytes (b : Chip) (e : Ev) :
    (b.logEvent e).ecat.foeBytes = b.ecat.foeBytes := b.logAs_ecat_foeBytes e false
@[simp] theorem Chip.logAs_ecat_foeLast (b : Chip) (e : Ev) (x : Bool) :
    (b.logAs e x).ecat.foeLast = b.ecat.foeLast := by obtain ⟨_, _, _, _, h⟩ := b.logAs_ecat e x; rw [h]
@[simp] theorem Chip.logEvent_ecat_foeLast (b : Chip) (e : Ev) :
    (b.logEvent e).ecat.foeLast = b.ecat.foeLast := b.logAs_ecat_foeLast e false
@[simp] theorem Chip.logAs_ecat_foeReply (b : Chip) (e : Ev) (x : Bool) :
    (b.logAs e x).ecat.foeReply = b.ecat.foeReply := by obtain ⟨_, _, _, _, h⟩ := b.logAs_ecat e x; rw [h]
@[simp] theorem Chip.logEvent_ecat_foeReply (b : Chip) (e : Ev) :
    (b.logEvent e).ecat.foeReply = b.ecat.foeReply := b.logAs_ecat_foeReply e false
@[simp] theorem Chip.logAs_ecat_foeData (b : Chip) (e : Ev) (x : Bool) :
    (b.logAs e x).ecat.foeData = b.ecat.foeData := by obtain ⟨_, _, _, _, h⟩ := b.logAs_ecat e x; rw [h]
@[simp] theorem Chip.logEvent_ecat_foeData (b : Chip) (e : Ev) :
    (b.logEvent e).ecat.foeData = b.ecat.foeData := b.logAs_ecat_foeData e false
/-- Of the dictionary an entry changes registers alone, and of those only the three that count entries. -/
theorem Chip.reg_setReg (b : Chip) (i j k l v : Nat) (h : key k l ≠ key i j) : (b.setReg i j v).reg k l = b.reg k l := by
  simp [Chip.reg, Chip.setReg, h]
@[simp] theorem Chip.reg_setReg_self (b : Chip) (i j v : Nat) : (b.setReg i j v).reg i j = v := by
  simp [Chip.reg, Chip.setReg]
theorem Chip.reg_congr {b c : Chip} (h : b.dict = c.dict) (i j : Nat) : b.reg i j = c.reg i j := by simp [Chip.reg, h]

@[simp] theorem Chip.emergency_dict_octets (b : Chip) (e : LogEntry) :
    (b.emergency e).dict.octets = b.dict.octets := by
  simp only [Chip.emergency]; (repeat' split) <;> rfl
@[simp] theorem Chip.pushEntry_dict_octets (b : Chip) (e : Ev) (x : Bool) :
    (b.pushEntry e x).dict.octets = b.dict.octets := by
  simp only [Chip.pushEntry, Chip.emergency_dict_octets, apply_ite Chip.dict, Chip.raiseOwner_dict, ite_self, Chip.setReg_dict]
  split <;> rfl
@[simp] theorem Chip.logAs_dict_octets (b : Chip) (e : Ev) (x : Bool) :
    (b.logAs e x).dict.octets = b.dict.octets := by
  simp only [Chip.logAs]; split; · rfl
  split <;> simp
@[simp] theorem Chip.logEvent_dict_octets (b : Chip) (e : Ev) :
    (b.logEvent e).dict.octets = b.dict.octets := Chip.logAs_dict_octets b e false
@[simp] theorem Chip.emergency_dict_cmds (b : Chip) (e : LogEntry) :
    (b.emergency e).dict.cmds = b.dict.cmds := by
  simp only [Chip.emergency]; (repeat' split) <;> rfl
@[simp] theorem Chip.pushEntry_dict_cmds (b : Chip) (e : Ev) (x : Bool) :
    (b.pushEntry e x).dict.cmds = b.dict.cmds := by
  simp only [Chip.pushEntry, Chip.emergency_dict_cmds, apply_ite Chip.dict, Chip.raiseOwner_dict, ite_self, Chip.setReg_dict]
  split <;> rfl
@[simp] theorem Chip.logAs_dict_cmds (b : Chip) (e : Ev) (x : Bool) :
    (b.logAs e x).dict.cmds = b.dict.cmds := by
  simp only [Chip.logAs]; split; · rfl
  split <;> simp
@[simp] theorem Chip.logEvent_dict_cmds (b : Chip) (e : Ev) :
    (b.logEvent e).dict.cmds = b.dict.cmds := Chip.logAs_dict_cmds b e false
@[simp] theorem Chip.emergency_dict_replies (b : Chip) (e : LogEntry) :
    (b.emergency e).dict.replies = b.dict.replies := by
  simp only [Chip.emergency]; (repeat' split) <;> rfl
@[simp] theorem Chip.pushEntry_dict_replies (b : Chip) (e : Ev) (x : Bool) :
    (b.pushEntry e x).dict.replies = b.dict.replies := by
  simp only [Chip.pushEntry, Chip.emergency_dict_replies, apply_ite Chip.dict, Chip.raiseOwner_dict, ite_self, Chip.setReg_dict]
  split <;> rfl
@[simp] theorem Chip.logAs_dict_replies (b : Chip) (e : Ev) (x : Bool) :
    (b.logAs e x).dict.replies = b.dict.replies := by
  simp only [Chip.logAs]; split; · rfl
  split <;> simp
@[simp] theorem Chip.logEvent_dict_replies (b : Chip) (e : Ev) :
    (b.logEvent e).dict.replies = b.dict.replies := Chip.logAs_dict_replies b e false
@[simp] theorem Chip.emergency_dict_segs (b : Chip) (e : LogEntry) :
    (b.emergency e).dict.segs = b.dict.segs := by
  simp only [Chip.emergency]; (repeat' split) <;> rfl
@[simp] theorem Chip.pushEntry_dict_segs (b : Chip) (e : Ev) (x : Bool) :
    (b.pushEntry e x).dict.segs = b.dict.segs := by
  simp only [Chip.pushEntry, Chip.emergency_dict_segs, apply_ite Chip.dict, Chip.raiseOwner_dict, ite_self, Chip.setReg_dict]
  split <;> rfl
@[simp] theorem Chip.logAs_dict_segs (b : Chip) (e : Ev) (x : Bool) :
    (b.logAs e x).dict.segs = b.dict.segs := by
  simp only [Chip.logAs]; split; · rfl
  split <;> simp
@[simp] theorem Chip.logEvent_dict_segs (b : Chip) (e : Ev) :
    (b.logEvent e).dict.segs = b.dict.segs := Chip.logAs_dict_segs b e false
@[simp] theorem Chip.emergency_dict_logSeq (b : Chip) (e : LogEntry) :
    (b.emergency e).dict.logSeq = b.dict.logSeq := by
  simp only [Chip.emergency]; (repeat' split) <;> rfl
@[simp] theorem Chip.pushEntry_dict_logSeq (b : Chip) (e : Ev) (x : Bool) :
    (b.pushEntry e x).dict.logSeq = b.dict.logSeq := by
  simp only [Chip.pushEntry, Chip.emergency_dict_logSeq, apply_ite Chip.dict, Chip.raiseOwner_dict, ite_self, Chip.setReg_dict]
  split <;> rfl
@[simp] theorem Chip.logAs_dict_logSeq (b : Chip) (e : Ev) (x : Bool) :
    (b.logAs e x).dict.logSeq = b.dict.logSeq := by
  simp only [Chip.logAs]; split; · rfl
  split <;> simp
@[simp] theorem Chip.logEvent_dict_logSeq (b : Chip) (e : Ev) :
    (b.logEvent e).dict.logSeq = b.dict.logSeq := Chip.logAs_dict_logSeq b e false
@[simp] theorem Chip.emergency_dict_logCount (b : Chip) (e : LogEntry) :
    (b.emergency e).dict.logCount = b.dict.logCount := by
  simp only [Chip.emergency]; (repeat' split) <;> rfl
@[simp] theorem Chip.pushEntry_dict_logCount (b : Chip) (e : Ev) (x : Bool) :
    (b.pushEntry e x).dict.logCount = b.dict.logCount := by
  simp only [Chip.pushEntry, Chip.emergency_dict_logCount, apply_ite Chip.dict, Chip.raiseOwner_dict, ite_self, Chip.setReg_dict]
  split <;> rfl
@[simp] theorem Chip.logAs_dict_logCount (b : Chip) (e : Ev) (x : Bool) :
    (b.logAs e x).dict.logCount = b.dict.logCount := by
  simp only [Chip.logAs]; split; · rfl
  split <;> simp
@[simp] theorem Chip.logEvent_dict_logCount (b : Chip) (e : Ev) :
    (b.logEvent e).dict.logCount = b.dict.logCount := Chip.logAs_dict_logCount b e false
theorem Chip.emergency_reg (b : Chip) (e : LogEntry) (i j : Nat) (h : key i j ≠ key 0x2010 7) :
    (b.emergency e).reg i j = b.reg i j := by
  simp only [Chip.emergency]
  (repeat' split) <;> first | rfl | exact (Chip.reg_setReg _ _ _ _ _ _ h)

theorem Chip.pushEntry_reg (b : Chip) (e : Ev) (x : Bool) (i j : Nat) (h1 : key i j ≠ key 0x6100 4)
    (h2 : key i j ≠ key 0x2010 7) (h3 : key i j ≠ key 0x2B00 6) : (b.pushEntry e x).reg i j = b.reg i j := by
  simp only [Chip.pushEntry]
  rw [Chip.emergency_reg _ _ _ _ h2]
  simp only [Chip.reg, Chip.setReg, Chip.raiseOwner_dict, apply_ite Chip.dict, ite_self] at *
  rw [Tab.get_set_ne _ _ _ _ _ h1]
  split
  · exact Tab.get_set_ne _ _ _ _ _ h3
  · rfl

theorem Chip.logAs_reg (b : Chip) (e : Ev) (x : Bool) (i j : Nat) (h1 : key i j ≠ key 0x6100 4)
    (h2 : key i j ≠ key 0x2010 7) (h3 : key i j ≠ key 0x2B00 6) : (b.logAs e x).reg i j = b.reg i j := by
  simp only [Chip.logAs]
  split
  · rfl
  · split
    · rw [Chip.pushEntry_reg _ _ _ _ _ h1 h2 h3]
      exact Chip.pushEntry_reg b e x i j h1 h2 h3
    · exact Chip.pushEntry_reg b e x i j h1 h2 h3

theorem Chip.logEvent_reg (b : Chip) (e : Ev) (i j : Nat) (h1 : key i j ≠ key 0x6100 4)
    (h2 : key i j ≠ key 0x2010 7) (h3 : key i j ≠ key 0x2B00 6) : (b.logEvent e).reg i j = b.reg i j :=
  b.logAs_reg e false i j h1 h2 h3

end Sys2Proof.Machine
end

