-- ==== Sys2Proof/Laws/Faults.lean ====
section
/-! SUPPORT. What a change of the device state and a chip-level fault do. -/

namespace Sys2Proof.Machine

open Sys2Proof

/-- A change of state records the previous state and the cause, and shows itself at the host ports alone (R29, R30). -/
@[simp] theorem Chip.toState_dev (b : Chip) (st : DeviceState) (cause : Nat) :
    (b.toState st cause).dev = { b.dev with prev := b.dev.st, cause := cause, st := st } := by
  simp [Chip.toState]

@[simp] theorem Chip.changeState_st (b : Chip) (st : DeviceState) (cause : Nat) (x : Bool) :
    (b.changeState st cause x).dev.st = st := by simp [Chip.changeState]

@[simp] theorem Chip.changeState_prev (b : Chip) (st : DeviceState) (cause : Nat) (x : Bool) :
    (b.changeState st cause x).dev.prev = b.dev.st := by simp [Chip.changeState]

/-- Where no other decision of the present C36 cycle is taken back, the device is as it was (R35). -/
theorem Chip.takeBack_none (b : Chip) (h : b.sameDecision (b.dev.decidedAt.map Prod.fst) = false) : b.takeBack = b := by
  unfold Chip.takeBack
  split
  · rfl
  · next t o hd => simp only [hd, Option.map_some] at h; simp [h]

/-- In SAFE no decision is taken back. -/
theorem Chip.takeBack_in_safe (b : Chip) (h : b.dev.st = .safe) : b.takeBack = b := by
  simp only [Chip.takeBack, h]
  split
  · rfl
  · split <;> rfl

/-- A chip-level fault in REDUCED, FULL or CLOSING leads to SAFE, with its event code as the cause and in the P00 fault
record beside the state that it interrupted (R27, R30, R35, R424). -/
theorem Chip.chipFault_safe (b : Chip) (e : Ev)
    (h : b.takeBack.dev.st = .reduced ∨ b.takeBack.dev.st = .full ∨ b.takeBack.dev.st = .closing) :
    (b.chipFault e).dev.st = .safe ∧ (b.chipFault e).dev.cause = e.code ∧ (b.chipFault e).aon.faultCode = e.code ∧
      (b.chipFault e).aon.faultState = b.takeBack.dev.st.code := by
  rcases h with h | h | h <;> simp [Chip.chipFault, h]

/-- A chip-level fault in SAFE leaves the device in SAFE (R475). -/
theorem Chip.chipFault_in_safe (b : Chip) (e : Ev) (h : b.dev.st = .safe) : (b.chipFault e).dev.st = .safe := by
  simp only [Chip.chipFault, b.takeBack_in_safe h, h, Chip.logAs_st]
  split
  · exact h
  · split <;> first | exact h | rfl

end Sys2Proof.Machine
end

