-- ==== Sys2Proof/Laws/Access.lean ====
section
/-! SUPPORT. What a request of the dictionary does: the write of an entry and the complete-access write of a command
object, when they are taken. -/

namespace Sys2Proof.Machine

open Sys2Proof

/-- A write that its checks refuse does not depend on its effect; one that they take is its effect. -/
theorem Chip.writeEntry_cases (b : Chip) (o idx sub v : Nat) (eff : Chip → Res) :
    ((b.writeEntry o idx sub v Except.ok).isOk = true ∧ b.writeEntry o idx sub v eff = eff b) ∨
      (∃ a, b.writeEntry o idx sub v eff = .error a ∧ b.writeEntry o idx sub v Except.ok = .error a) := by
  unfold Chip.writeEntry
  split
  · exact .inl ⟨rfl, rfl⟩
  · exact .inr ⟨_, rfl, rfl⟩

/-- A write that passes its checks is its effect. -/
theorem Chip.writeEntry_ok (b : Chip) (o idx sub v : Nat) (eff : Chip → Res)
    (h : (b.writeEntry o idx sub v Except.ok).isOk = true) : b.writeEntry o idx sub v eff = eff b := by
  rcases b.writeEntry_cases o idx sub v eff with g | ⟨a, _, g⟩
  · exact g.2
  · rw [g] at h; cases h

/-- A row that writes one entry, when the write is allowed: the effect, and its answer. -/
theorem writeRow_allowed (s : State) (q : Req) (idx sub v : Nat) (eff : Chip → Res)
    (h : WriteAllowed s q idx sub v = true) :
    s.toChip.writeRow q idx sub v eff = (s.served q).finish q.owner (eff (s.served q)) := by
  simp only [WriteAllowed, Bool.and_eq_true] at h
  simp only [Chip.writeRow, Chip.request]
  have hd : (s.toChip.upTo q.t).dictAlive = true := h.1
  rw [if_pos hd]
  exact congrArg ((s.served q).finish q.owner) (Chip.writeEntry_ok _ _ _ _ _ eff h.2)

/-- A command row, when the command is taken: the command starts on the device with its parameters and serial stored, and
the write is answered. -/
theorem commandRow_taken (s : State) (q : Req) (idx n : Nat) (params : List (Nat × Nat)) (start : Chip → Nat → Chip)
    (h : CommandTaken s q idx n params = true) :
    s.toChip.commandRow q idx n params start =
      (start ((s.withParams q idx params).modCmd (cmdKey idx) fun c =>
        { c with serials := Tab.set c.serials q.owner n }) q.owner).answer q.owner .done := by
  simp only [CommandTaken, Bool.and_eq_true, decide_eq_true_eq, Option.isNone_iff_eq_none] at h
  obtain ⟨⟨⟨⟨⟨h1, h2⟩, h3⟩, h4⟩, h5⟩, h6⟩ := h
  simp only [Chip.commandRow, Chip.request]
  have hd : (s.toChip.upTo q.t).dictAlive = true := h1
  rw [if_pos hd]
  have hw : ((s.withParams q idx params).writeEntry q.owner idx 1 n fun b => b.serial q.owner idx n start) =
      .ok (start ((s.withParams q idx params).modCmd (cmdKey idx) fun c =>
        { c with serials := Tab.set c.serials q.owner n }) q.owner) := by
    rw [Chip.writeEntry_ok _ _ _ _ _ _ h3]
    simp [Chip.serial, h4, h5, h6]
  unfold wholeWrite
  show (s.served q).finish q.owner (match (s.withParams q idx params).writeEntry q.owner idx 1 n _,
    ((s.served q).storeParams q.owner (cmdKey idx) params).2 with
    | .ok b, none => .ok b | .ok _, some a => .error a | .error a, _ => .error a) = _
  rw [hw, h2]
  rfl

@[simp] theorem Chip.closeSegment_cmd (b : Chip) (o i : Nat) : (b.closeSegment o).cmd i = b.cmd i := rfl

/-- The parameters that a complete-access write stores are registers of the dictionary. -/
theorem Chip.storeParams_keeps {β : Type} (g : Chip → β) (hg : ∀ b i j v, g (Chip.setReg b i j v) = g b) (o idx : Nat)
    (l : List (Nat × Nat)) (b : Chip) : g (b.storeParams o idx l).1 = g b := by
  induction l generalizing b with
  | nil => rfl
  | cons x t ih =>
    obtain ⟨sub, v⟩ := x
    simp only [Chip.storeParams]
    rcases b.writeEntry_cases o idx sub v fun b => .ok (b.setReg idx sub v) with h | ⟨a, h, _⟩
    · rw [h.2]; exact (ih _).trans (hg _ _ _ _)
    · rw [h]; exact ih b

@[simp] theorem State.withParams_dev (s : State) (q : Req) (i : Nat) (l : List (Nat × Nat)) :
    (s.withParams q i l).dev = s.dev := Chip.storeParams_keeps Chip.dev (fun _ _ _ _ => rfl) _ _ _ _
@[simp] theorem State.served_dev (s : State) (q : Req) : (s.served q).dev = s.dev := rfl
@[simp] theorem State.withParams_belfry (s : State) (q : Req) (i : Nat) (l : List (Nat × Nat)) :
    (s.withParams q i l).belfry = { s.belfry with tick := max s.belfry.tick q.t % 2 ^ 64 } := Chip.storeParams_keeps Chip.belfry (fun _ _ _ _ => rfl) _ _ _ _
@[simp] theorem State.served_belfry (s : State) (q : Req) : (s.served q).belfry = { s.belfry with tick := max s.belfry.tick q.t % 2 ^ 64 } := rfl
@[simp] theorem State.withParams_banks (s : State) (q : Req) (i : Nat) (l : List (Nat × Nat)) :
    (s.withParams q i l).banks = s.banks := Chip.storeParams_keeps Chip.banks (fun _ _ _ _ => rfl) _ _ _ _
@[simp] theorem State.served_banks (s : State) (q : Req) : (s.served q).banks = s.banks := rfl
@[simp] theorem State.withParams_vanes (s : State) (q : Req) (i : Nat) (l : List (Nat × Nat)) :
    (s.withParams q i l).vanes = s.vanes := Chip.storeParams_keeps Chip.vanes (fun _ _ _ _ => rfl) _ _ _ _
@[simp] theorem State.served_vanes (s : State) (q : Req) : (s.served q).vanes = s.vanes := rfl
@[simp] theorem State.withParams_parts (s : State) (q : Req) (i : Nat) (l : List (Nat × Nat)) :
    (s.withParams q i l).parts = s.parts := Chip.storeParams_keeps Chip.parts (fun _ _ _ _ => rfl) _ _ _ _
@[simp] theorem State.served_parts (s : State) (q : Req) : (s.served q).parts = s.parts := rfl
@[simp] theorem State.withParams_regions (s : State) (q : Req) (i : Nat) (l : List (Nat × Nat)) :
    (s.withParams q i l).regions = s.regions := Chip.storeParams_keeps Chip.regions (fun _ _ _ _ => rfl) _ _ _ _
@[simp] theorem State.served_regions (s : State) (q : Req) : (s.served q).regions = s.regions := rfl
@[simp] theorem State.withParams_lanes (s : State) (q : Req) (i : Nat) (l : List (Nat × Nat)) :
    (s.withParams q i l).lanes = s.lanes := Chip.storeParams_keeps Chip.lanes (fun _ _ _ _ => rfl) _ _ _ _
@[simp] theorem State.served_lanes (s : State) (q : Req) : (s.served q).lanes = s.lanes := rfl
@[simp] theorem State.withParams_mem (s : State) (q : Req) (i : Nat) (l : List (Nat × Nat)) :
    (s.withParams q i l).mem = s.mem := Chip.storeParams_keeps Chip.mem (fun _ _ _ _ => rfl) _ _ _ _
@[simp] theorem State.served_mem (s : State) (q : Req) : (s.served q).mem = s.mem := rfl
@[simp] theorem State.withParams_queues (s : State) (q : Req) (i : Nat) (l : List (Nat × Nat)) :
    (s.withParams q i l).queues = s.queues := Chip.storeParams_keeps Chip.queues (fun _ _ _ _ => rfl) _ _ _ _
@[simp] theorem State.served_queues (s : State) (q : Req) : (s.served q).queues = s.queues := rfl
@[simp] theorem State.withParams_slices (s : State) (q : Req) (i : Nat) (l : List (Nat × Nat)) :
    (s.withParams q i l).slices = s.slices := Chip.storeParams_keeps Chip.slices (fun _ _ _ _ => rfl) _ _ _ _
@[simp] theorem State.served_slices (s : State) (q : Req) : (s.served q).slices = s.slices := rfl
@[simp] theorem State.withParams_hub (s : State) (q : Req) (i : Nat) (l : List (Nat × Nat)) :
    (s.withParams q i l).hub = s.hub := Chip.storeParams_keeps Chip.hub (fun _ _ _ _ => rfl) _ _ _ _
@[simp] theorem State.served_hub (s : State) (q : Req) : (s.served q).hub = s.hub := rfl
@[simp] theorem State.withParams_cupola (s : State) (q : Req) (i : Nat) (l : List (Nat × Nat)) :
    (s.withParams q i l).cupola = s.cupola := Chip.storeParams_keeps Chip.cupola (fun _ _ _ _ => rfl) _ _ _ _
@[simp] theorem State.served_cupola (s : State) (q : Req) : (s.served q).cupola = s.cupola := rfl
@[simp] theorem State.withParams_ports (s : State) (q : Req) (i : Nat) (l : List (Nat × Nat)) :
    (s.withParams q i l).ports = s.ports := Chip.storeParams_keeps Chip.ports (fun _ _ _ _ => rfl) _ _ _ _
@[simp] theorem State.served_ports (s : State) (q : Req) : (s.served q).ports = s.ports := rfl
@[simp] theorem State.withParams_ecat (s : State) (q : Req) (i : Nat) (l : List (Nat × Nat)) :
    (s.withParams q i l).ecat = s.ecat := Chip.storeParams_keeps Chip.ecat (fun _ _ _ _ => rfl) _ _ _ _
@[simp] theorem State.served_ecat (s : State) (q : Req) : (s.served q).ecat = s.ecat := rfl
@[simp] theorem State.withParams_loader (s : State) (q : Req) (i : Nat) (l : List (Nat × Nat)) :
    (s.withParams q i l).loader = s.loader := Chip.storeParams_keeps Chip.loader (fun _ _ _ _ => rfl) _ _ _ _
@[simp] theorem State.served_loader (s : State) (q : Req) : (s.served q).loader = s.loader := rfl
@[simp] theorem State.withParams_watch (s : State) (q : Req) (i : Nat) (l : List (Nat × Nat)) :
    (s.withParams q i l).watch = s.watch := Chip.storeParams_keeps Chip.watch (fun _ _ _ _ => rfl) _ _ _ _
@[simp] theorem State.served_watch (s : State) (q : Req) : (s.served q).watch = s.watch := rfl
@[simp] theorem State.withParams_test (s : State) (q : Req) (i : Nat) (l : List (Nat × Nat)) :
    (s.withParams q i l).test = s.test := Chip.storeParams_keeps Chip.test (fun _ _ _ _ => rfl) _ _ _ _
@[simp] theorem State.served_test (s : State) (q : Req) : (s.served q).test = s.test := rfl
@[simp] theorem State.withParams_aon (s : State) (q : Req) (i : Nat) (l : List (Nat × Nat)) :
    (s.withParams q i l).aon = s.aon := Chip.storeParams_keeps Chip.aon (fun _ _ _ _ => rfl) _ _ _ _
@[simp] theorem State.served_aon (s : State) (q : Req) : (s.served q).aon = s.aon := rfl
@[simp] theorem State.withParams_lantern (s : State) (q : Req) (i : Nat) (l : List (Nat × Nat)) :
    (s.withParams q i l).lantern = s.lantern := Chip.storeParams_keeps Chip.lantern (fun _ _ _ _ => rfl) _ _ _ _
@[simp] theorem State.served_lantern (s : State) (q : Req) : (s.served q).lantern = s.lantern := rfl
@[simp] theorem State.withParams_log (s : State) (q : Req) (i : Nat) (l : List (Nat × Nat)) :
    (s.withParams q i l).log = s.log := Chip.storeParams_keeps Chip.log (fun _ _ _ _ => rfl) _ _ _ _
@[simp] theorem State.served_log (s : State) (q : Req) : (s.served q).log = s.log := rfl
@[simp] theorem State.withParams_debug (s : State) (q : Req) (i : Nat) (l : List (Nat × Nat)) :
    (s.withParams q i l).dbg = s.dbg := Chip.storeParams_keeps Chip.dbg (fun _ _ _ _ => rfl) _ _ _ _
@[simp] theorem State.served_debug (s : State) (q : Req) : (s.served q).dbg = s.dbg := rfl
@[simp] theorem State.withParams_inject (s : State) (q : Req) (i : Nat) (l : List (Nat × Nat)) :
    (s.withParams q i l).inject = s.inject := Chip.storeParams_keeps Chip.inject (fun _ _ _ _ => rfl) _ _ _ _
@[simp] theorem State.served_inject (s : State) (q : Req) : (s.served q).inject = s.inject := rfl
@[simp] theorem State.withParams_free (s : State) (q : Req) (i : Nat) (l : List (Nat × Nat)) :
    (s.withParams q i l).free = s.free := Chip.storeParams_keeps Chip.free (fun _ _ _ _ => rfl) _ _ _ _
@[simp] theorem State.served_free (s : State) (q : Req) : (s.served q).free = s.free := rfl
/-- Parameters that are all taken stand in their registers. -/
theorem Chip.storeParams_ok (o idx : Nat) (l : List (Nat × Nat)) (b : Chip) (h : (b.storeParams o idx l).2 = none) :
    (b.storeParams o idx l).1 = l.foldl (fun b x => b.setReg idx x.1 x.2) b := by
  induction l generalizing b with
  | nil => rfl
  | cons x t ih =>
    obtain ⟨sub, v⟩ := x
    simp only [Chip.storeParams] at h ⊢
    rcases b.writeEntry_cases o idx sub v fun b => .ok (b.setReg idx sub v) with g | ⟨a, g, _⟩
    · rw [g.2] at h ⊢; exact ih _ h
    · rw [g] at h; cases h

theorem withParams_taken (s : State) (q : Req) (idx n : Nat) (l : List (Nat × Nat)) (h : CommandTaken s q idx n l = true) :
    s.withParams q idx l = l.foldl (fun b x => b.setReg (cmdKey idx) x.1 x.2) (s.served q) := by
  simp only [CommandTaken, Bool.and_eq_true, Option.isNone_iff_eq_none] at h
  exact Chip.storeParams_ok _ _ _ _ h.1.1.1.1.2

@[simp] theorem State.withParams_cmds (s : State) (q : Req) (i : Nat) (l : List (Nat × Nat)) :
    (s.withParams q i l).dict.cmds = s.dict.cmds := Chip.storeParams_keeps (fun b => b.dict.cmds) (fun _ _ _ _ => rfl) _ _ _ _
@[simp] theorem State.served_od (s : State) (q : Req) : (s.served q).dict.od = s.dict.od := rfl
@[simp] theorem State.served_cmds (s : State) (q : Req) : (s.served q).dict.cmds = s.dict.cmds := rfl
@[simp] theorem State.served_reg (s : State) (q : Req) (i j : Nat) : (s.served q).reg i j = s.reg i j := rfl

/-- An answer leaves the registers and the command objects as they are, and is the last answer of its path. -/
@[simp] theorem Chip.answer_od (b : Chip) (o : Nat) (r : Reply) : (b.answer o r).dict.od = b.dict.od := by
  simp only [Chip.answer, Chip.sendResponse]; (repeat' split) <;> rfl
@[simp] theorem Chip.answer_cmds (b : Chip) (o : Nat) (r : Reply) : (b.answer o r).dict.cmds = b.dict.cmds := by
  simp only [Chip.answer, Chip.sendResponse]; (repeat' split) <;> rfl
@[simp] theorem Chip.answer_replies (b : Chip) (o : Nat) (r : Reply) :
    (b.answer o r).dict.replies = Tab.set b.dict.replies o r := by
  simp only [Chip.answer, Chip.sendResponse]; (repeat' split) <;> rfl
@[simp] theorem Chip.answer_reg (b : Chip) (o : Nat) (r : Reply) (i j : Nat) : (b.answer o r).reg i j = b.reg i j := by
  simp [Chip.reg]
@[simp] theorem Chip.answer_cmd (b : Chip) (o : Nat) (r : Reply) (i : Nat) : (b.answer o r).cmd i = b.cmd i := by
  simp [Chip.cmd]

/-- A status that is set is the status of that owner's last command. -/
@[simp] theorem Chip.setStatus_status (b : Chip) (i o st : Nat) : Tab.get 0 ((b.setStatus i o st).cmd i).status o = st := by
  simp [Chip.setStatus, Chip.cmd]
@[simp] theorem Chip.setStatus_busy (b : Chip) (i o st : Nat) : ((b.setStatus i o st).cmd i).busy = (b.cmd i).busy := by
  simp [Chip.setStatus, Chip.cmd]
@[simp] theorem Chip.beginCmd_status (b : Chip) (i o : Nat) : Tab.get 0 ((b.beginCmd i o).cmd i).status o = 1 := by
  simp [Chip.beginCmd, Chip.setStatus, Chip.cmd]
@[simp] theorem Chip.beginCmd_busy (b : Chip) (i o : Nat) : ((b.beginCmd i o).cmd i).busy = some o := by
  simp [Chip.beginCmd, Chip.setStatus, Chip.cmd]
@[simp] theorem Chip.setStatus_reg (b : Chip) (i o st k l : Nat) : (b.setStatus i o st).reg k l = b.reg k l := rfl
@[simp] theorem Chip.beginCmd_reg (b : Chip) (i o k l : Nat) : (b.beginCmd i o).reg k l = b.reg k l := rfl

/-- A busy command that ends gives its owner the status and leaves the object free. -/
theorem Chip.endCmd_busy (b : Chip) (i st o : Nat) (h : (b.cmd i).busy = some o) :
    ((b.endCmd i st).cmd i).busy = none ∧ Tab.get 0 ((b.endCmd i st).cmd i).status o = st := by
  unfold Chip.endCmd
  rw [h]
  simp [Chip.setStatus, Chip.cmd]

end Sys2Proof.Machine
end

