-- ==== Sys2Proof/Laws/Planes.lean ====
section
/-! SUPPORT. The configuration planes as runs of frames: what a cut, a put and a copy leave at each frame, and that they keep
the canonical form; and the DRAM bytes: writes and fills keep theirs. -/

namespace Sys2Proof.Machine

open Sys2Proof

/-- The run holds the frame number. -/
abbrev FrameRun.has (x : FrameRun) (n : Nat) : Prop := x.first ≤ n ∧ n < x.first + x.count

/-- The runs share no frame. -/
def FrameRun.apart (x y : FrameRun) : Prop := x.first + x.count ≤ y.first ∨ y.first + y.count ≤ x.first

theorem runGet_none (l : List FrameRun) (n : Nat) (h : ∀ x ∈ l, ¬ x.has n) : runGet l n = 0#2048 := by
  induction l with
  | nil => rfl
  | cons x t ih =>
    have := h x (by simp)
    simp only [FrameRun.has] at this
    simp only [runGet, this, if_false]
    exact ih fun y hy => h y (by simp [hy])

theorem runGet_append (a b : List FrameRun) (n : Nat) (h : ∀ x ∈ a, ¬ x.has n) : runGet (a ++ b) n = runGet b n := by
  induction a with
  | nil => rfl
  | cons x t ih =>
    have := h x (by simp)
    simp only [FrameRun.has] at this
    simp only [List.cons_append, runGet, this, if_false]
    exact ih fun y hy => h y (by simp [hy])

theorem FrameRun.mem_below {x y : FrameRun} {n : Nat} (h : y ∈ x.below n) :
    y.first = x.first ∧ x.first < n ∧ y.count = min x.count (n - x.first) ∧ y.frame = x.frame := by
  unfold FrameRun.below at h
  split at h
  · simp only [List.mem_singleton] at h
    subst h
    exact ⟨rfl, ‹_›, rfl, rfl⟩
  · cases h

theorem FrameRun.mem_above {x y : FrameRun} {n : Nat} (h : y ∈ x.above n) :
    y.first = max x.first n ∧ n < x.first + x.count ∧ y.count = x.first + x.count - max x.first n ∧ y.frame = x.frame := by
  unfold FrameRun.above at h
  split at h
  · simp only [List.mem_singleton] at h
    subst h
    exact ⟨rfl, ‹_›, rfl, rfl⟩
  · cases h

/-- Every run of a cut plane is a part of a run outside the cut. -/
theorem mem_runCut {l : List FrameRun} {lo hi : Nat} {y : FrameRun} (h : y ∈ runCut l lo hi) :
    ∃ x ∈ l, x.first ≤ y.first ∧ y.first + y.count ≤ x.first + x.count ∧ y.frame = x.frame ∧
      (0 < x.count → 0 < y.count) ∧ (y.first + y.count ≤ lo ∨ hi ≤ y.first) := by
  simp only [runCut, List.mem_flatMap] at h
  obtain ⟨x, hx, h⟩ := h
  refine ⟨x, hx, ?_⟩
  split at h
  · simp only [List.mem_singleton] at h
    subst h
    exact ⟨Nat.le_refl _, Nat.le_refl _, rfl, id, ‹_›⟩
  · rcases List.mem_append.1 h with h | h
    · obtain ⟨h1, h2, h3, h4⟩ := FrameRun.mem_below h
      refine ⟨by omega, by omega, h4, by omega, by omega⟩
    · obtain ⟨h1, h2, h3, h4⟩ := FrameRun.mem_above h
      refine ⟨by omega, by omega, h4, by omega, by omega⟩

/-- The frames of a cut are empty, the others stay. -/
theorem runGet_runCut (l : List FrameRun) (lo hi n : Nat) (hl : lo ≤ hi) :
    runGet (runCut l lo hi) n = if lo ≤ n ∧ n < hi then 0#2048 else runGet l n := by
  split
  · next h =>
    apply runGet_none
    intro y hy
    obtain ⟨_, _, _, _, _, _, h6⟩ := mem_runCut hy
    simp only [FrameRun.has]
    omega
  · next h =>
    induction l with
    | nil => rfl
    | cons x t ih =>
      simp only [runCut, List.flatMap_cons] at ih ⊢
      by_cases hx : x.first + x.count ≤ lo ∨ hi ≤ x.first
      · simp only [hx, if_true, List.singleton_append, runGet, ih]
      · simp only [hx, if_false]
        by_cases hn : x.first ≤ n ∧ n < x.first + x.count
        · simp only [runGet, hn]
          by_cases hlo : n < lo
          · have : x.first < lo := by omega
            simp only [FrameRun.below, this, if_true, List.cons_append, runGet]
            have : x.first ≤ n ∧ n < x.first + min x.count (lo - x.first) := by omega
            simp [this]
          · have hhi : hi < x.first + x.count := by omega
            rw [List.append_assoc, runGet_append]
            · simp only [FrameRun.above, hhi, if_true, List.cons_append, runGet]
              have : max x.first hi ≤ n ∧ n < max x.first hi + (x.first + x.count - max x.first hi) := by omega
              simp [this]
            · intro y hy
              obtain ⟨h1, h2, h3, h4⟩ := FrameRun.mem_below hy
              simp only [FrameRun.has]
              omega
        · rw [runGet_append]
          · simp only [runGet, hn, if_false]
            exact ih
          · intro y hy
            simp only [FrameRun.has]
            rcases List.mem_append.1 hy with hy | hy
            · obtain ⟨h1, h2, h3, h4⟩ := FrameRun.mem_below hy
              omega
            · obtain ⟨h1, h2, h3, h4⟩ := FrameRun.mem_above hy
              omega

theorem mem_runInsert {x y : FrameRun} {l : List FrameRun} : y ∈ runInsert x l ↔ y = x ∨ y ∈ l := by
  induction l with
  | nil => simp [runInsert]
  | cons z t ih =>
    simp only [runInsert]
    split
    · simp
    · simp only [List.mem_cons, ih]
      constructor
      · rintro (h | h | h) <;> simp [h]
      · rintro (h | h | h) <;> simp [h]

/-- The frames of an inserted run hold its frame, the others stay. -/
theorem runGet_runInsert (x : FrameRun) (l : List FrameRun) (n : Nat) (h : ∀ y ∈ l, x.apart y) :
    runGet (runInsert x l) n = if x.first ≤ n ∧ n < x.first + x.count then x.frame else runGet l n := by
  induction l with
  | nil => rfl
  | cons z t ih =>
    simp only [runInsert]
    split
    · rfl
    · have hz := h z (by simp)
      simp only [FrameRun.apart] at hz
      simp only [runGet, ih fun y hy => h y (by simp [hy])]
      split
      · next h1 => rw [if_neg (by omega)]
      · rfl

/-- Inserting a run that shares no frame with a canonical plane leaves it canonical. -/
theorem planeWf_runInsert (x : FrameRun) (l : List FrameRun) (hw : planeWf l) (hc : 0 < x.count) (hf : x.frame ≠ 0#2048)
    (h : ∀ y ∈ l, x.apart y) : planeWf (runInsert x l) := by
  refine ⟨?_, ?_⟩
  · obtain ⟨hp, hm⟩ := hw
    induction l with
    | nil => simp [runInsert]
    | cons z t ih =>
      have hz := h z (by simp)
      have hcz := (hm z (by simp)).1
      simp only [FrameRun.apart] at hz
      have hp' := List.pairwise_cons.1 hp
      simp only [runInsert]
      split
      · refine List.pairwise_cons.2 ⟨?_, hp⟩
        intro y hy
        rcases List.mem_cons.1 hy with rfl | hy
        · omega
        · have := hp'.1 y hy
          omega
      · refine List.pairwise_cons.2 ⟨?_, ih (fun y hy => h y (by simp [hy])) hp'.2 fun y hy => hm y (by simp [hy])⟩
        intro y hy
        rcases mem_runInsert.1 hy with rfl | hy
        · omega
        · exact hp'.1 y hy
  · intro y hy
    rcases mem_runInsert.1 hy with rfl | hy
    · exact ⟨hc, hf⟩
    · exact hw.2 y hy

theorem planeWf_nil : planeWf [] := ⟨List.Pairwise.nil, by simp⟩

theorem planeWf_runCut (l : List FrameRun) (lo hi : Nat) (hl : lo ≤ hi) (hw : planeWf l) : planeWf (runCut l lo hi) := by
  refine ⟨?_, ?_⟩
  · refine List.pairwise_flatMap.2 ⟨?_, ?_⟩
    · intro x hx
      split
      · simp
      · refine List.pairwise_append.2 ⟨?_, ?_, ?_⟩
        · unfold FrameRun.below
          split <;> simp
        · unfold FrameRun.above
          split <;> simp
        · intro a ha b hb
          obtain ⟨h1, h2, h3, h4⟩ := FrameRun.mem_below ha
          obtain ⟨g1, g2, g3, g4⟩ := FrameRun.mem_above hb
          omega
    · refine hw.1.imp ?_
      intro a b hab y hy z hz
      have part : ∀ (x y : FrameRun),
          y ∈ (if x.first + x.count ≤ lo ∨ hi ≤ x.first then [x] else x.below lo ++ x.above hi) →
          x.first ≤ y.first ∧ y.first + y.count ≤ x.first + x.count := by
        intro x y h
        split at h
        · simp only [List.mem_singleton] at h
          subst h
          omega
        · rcases List.mem_append.1 h with h | h
          · obtain ⟨h1, h2, h3, h4⟩ := FrameRun.mem_below h
            omega
          · obtain ⟨h1, h2, h3, h4⟩ := FrameRun.mem_above h
            omega
      have h1 := part a y hy
      have h2 := part b z hz
      omega
  · intro y hy
    obtain ⟨x, hx, _, _, h3, h4, _⟩ := mem_runCut hy
    exact ⟨h4 (hw.2 x hx).1, h3 ▸ (hw.2 x hx).2⟩

/-- A put run shares no frame with the plane cut at its place. -/
theorem runCut_apart {l : List FrameRun} {lo n : Nat} {f : BitVec 2048} {y : FrameRun} (h : y ∈ runCut l lo (lo + n)) :
    FrameRun.apart { first := lo, count := n, frame := f } y := by
  obtain ⟨_, _, _, _, _, _, h6⟩ := mem_runCut h
  simp only [FrameRun.apart]
  omega

/-- After a put, frames lo to lo + n hold f, the others stay. -/
theorem runGet_runPut (l : List FrameRun) (lo n k : Nat) (f : BitVec 2048) :
    runGet (runPut l lo n f) k = if lo ≤ k ∧ k < lo + n then f else runGet l k := by
  simp only [runPut]
  split
  · next h =>
    rw [runGet_runCut _ _ _ _ (Nat.le_add_right lo n)]
    split
    · rcases h with h | h
      · omega
      · exact h.symm
    · rfl
  · rw [runGet_runInsert _ _ _ fun y hy => runCut_apart hy, runGet_runCut _ _ _ _ (Nat.le_add_right lo n)]
    split
    · rfl
    · rfl

theorem planeWf_runPut (l : List FrameRun) (lo n : Nat) (f : BitVec 2048) (hw : planeWf l) : planeWf (runPut l lo n f) := by
  simp only [runPut]
  have hc := planeWf_runCut l lo (lo + n) (Nat.le_add_right lo n) hw
  split
  · exact hc
  · next h =>
    exact planeWf_runInsert _ _ hc (Nat.pos_of_ne_zero fun e => h (.inl e)) (fun e => h (.inr e)) fun y hy => runCut_apart hy

/-- Every run of a slice is the part of a run of the plane between the bounds. -/
theorem mem_runSlice {l : List FrameRun} {lo hi : Nat} {y : FrameRun} (h : y ∈ runSlice l lo hi) :
    ∃ x ∈ l, y.first = max x.first lo ∧ y.first + y.count = min (x.first + x.count) hi ∧ y.frame = x.frame ∧
      (0 < x.count → 0 < y.count) ∧ lo ≤ y.first ∧ y.first < hi := by
  simp only [runSlice, List.mem_flatMap] at h
  obtain ⟨x, hx, z, hz, hy⟩ := h
  obtain ⟨h1, h2, h3, h4⟩ := FrameRun.mem_above hz
  obtain ⟨g1, g2, g3, g4⟩ := FrameRun.mem_below hy
  exact ⟨x, hx, by omega, by omega, g4.trans h4, by omega, by omega, by omega⟩

/-- A slice of a canonical plane is canonical. -/
theorem planeWf_runSlice (l : List FrameRun) (lo hi : Nat) (hw : planeWf l) : planeWf (runSlice l lo hi) := by
  refine ⟨?_, ?_⟩
  · refine List.pairwise_flatMap.2 ⟨?_, ?_⟩
    · intro x _
      unfold FrameRun.above
      split
      · simp only [List.flatMap_cons, List.flatMap_nil, List.append_nil]
        unfold FrameRun.below
        split <;> simp
      · simp
    · refine hw.1.imp ?_
      intro a b hab y hy z hz
      have part : ∀ (x y : FrameRun), (y ∈ (x.above lo).flatMap fun y => y.below hi) →
          x.first ≤ y.first ∧ y.first + y.count ≤ x.first + x.count := by
        intro x y h
        obtain ⟨z, hz, hy⟩ := List.mem_flatMap.1 h
        obtain ⟨h1, h2, h3, h4⟩ := FrameRun.mem_above hz
        obtain ⟨g1, g2, g3, g4⟩ := FrameRun.mem_below hy
        omega
      have h1 := part a y hy
      have h2 := part b z hz
      omega
  · intro y hy
    obtain ⟨x, hx, _, _, h3, h4, _⟩ := mem_runSlice hy
    exact ⟨h4 (hw.2 x hx).1, h3 ▸ (hw.2 x hx).2⟩

/-- The frames of a slice are those of the plane between the bounds. -/
theorem runGet_runSlice (l : List FrameRun) (lo hi n : Nat) (h : lo ≤ n ∧ n < hi) :
    runGet (runSlice l lo hi) n = runGet l n := by
  induction l with
  | nil => rfl
  | cons x t ih =>
    simp only [runSlice, List.flatMap_cons] at ih ⊢
    by_cases hn : x.first ≤ n ∧ n < x.first + x.count
    · have h1 : lo < x.first + x.count := by omega
      have h2 : max x.first lo < hi := by omega
      have h3 : max x.first lo ≤ n ∧
          n < max x.first lo + min (x.first + x.count - max x.first lo) (hi - max x.first lo) := by omega
      simp [FrameRun.above, FrameRun.below, h1, h2, runGet, hn, h3]
    · rw [runGet_append]
      · simp only [runGet, hn, if_false]
        exact ih
      · intro y hy
        obtain ⟨z, hz, hy⟩ := List.mem_flatMap.1 hy
        obtain ⟨h1, h2, h3, h4⟩ := FrameRun.mem_above hz
        obtain ⟨g1, g2, g3, g4⟩ := FrameRun.mem_below hy
        simp only [FrameRun.has]
        omega

/-- Runs inserted one after another, that share no frame among themselves or with the plane. -/
theorem runInsert_foldl (s l : List FrameRun) (hs : planeWf s) (hl : planeWf l) (h : ∀ x ∈ s, ∀ y ∈ l, x.apart y) :
    planeWf (s.foldl (fun l x => runInsert x l) l) ∧
      ∀ n, runGet (s.foldl (fun l x => runInsert x l) l) n =
        if (∃ x ∈ s, x.has n) then runGet s n else runGet l n := by
  induction s generalizing l with
  | nil => exact ⟨hl, fun n => by simp⟩
  | cons x t ih =>
    have hp := List.pairwise_cons.1 hs.1
    have hx := hs.2 x (by simp)
    have ht : planeWf t := ⟨hp.2, fun y hy => hs.2 y (by simp [hy])⟩
    have hxl := h x (by simp)
    have ha : ∀ y ∈ t, ∀ z ∈ runInsert x l, y.apart z := by
      intro y hy z hz
      rcases mem_runInsert.1 hz with rfl | hz
      · exact .inr (hp.1 y hy)
      · exact h y (by simp [hy]) z hz
    obtain ⟨i1, i2⟩ := ih _ ht (planeWf_runInsert x l hl hx.1 hx.2 hxl) ha
    refine ⟨i1, fun n => ?_⟩
    simp only [List.foldl_cons]
    rw [i2 n, runGet_runInsert x l n hxl]
    by_cases hn : x.first ≤ n ∧ n < x.first + x.count
    · have hno : ¬ ∃ y ∈ t, y.has n := by
        rintro ⟨y, hy, hyn⟩
        have := hp.1 y hy
        simp only [FrameRun.has] at hyn
        omega
      have hyes : ∃ y ∈ x :: t, y.has n := ⟨x, by simp, hn⟩
      simp [hno, runGet, hn]
    · have : (∃ y ∈ x :: t, y.has n) ↔ ∃ y ∈ t, y.has n := by
        simp only [FrameRun.has, List.mem_cons, exists_eq_or_imp]
        constructor
        · rintro (h | h)
          · exact absurd h hn
          · exact h
        · exact .inr
      simp [runGet, hn]

/-- After a copy, frames lo to hi are those of the source, the others stay; the plane stays canonical. -/
theorem runCopy_spec (dst src : List FrameRun) (lo hi : Nat) (hl : lo ≤ hi) (hd : planeWf dst) (hs : planeWf src) :
    planeWf (runCopy dst src lo hi) ∧
      ∀ n, runGet (runCopy dst src lo hi) n = if lo ≤ n ∧ n < hi then runGet src n else runGet dst n := by
  have hap : ∀ x ∈ runSlice src lo hi, ∀ y ∈ runCut dst lo hi, x.apart y := by
    intro x hx y hy
    obtain ⟨z, _, h1, h2, _, _, h5, h6⟩ := mem_runSlice hx
    obtain ⟨_, _, _, _, _, _, g6⟩ := mem_runCut hy
    simp only [FrameRun.apart]
    omega
  obtain ⟨h1, h2⟩ := runInsert_foldl _ _ (planeWf_runSlice src lo hi hs) (planeWf_runCut dst lo hi hl hd) hap
  refine ⟨h1, fun n => ?_⟩
  simp only [runCopy]
  rw [h2 n, runGet_runCut dst lo hi n hl]
  by_cases hn : lo ≤ n ∧ n < hi
  · simp only [hn, and_self, if_true]
    split
    · exact runGet_runSlice src lo hi n hn
    · next hno =>
      rw [← runGet_runSlice src lo hi n hn, runGet_none]
      exact fun x hx hxn => hno ⟨x, hx, hxn⟩
  · have hno : ¬ ∃ x ∈ runSlice src lo hi, x.has n := by
      rintro ⟨x, hx, hxn⟩
      obtain ⟨z, _, h1, h2, _, _, h5, h6⟩ := mem_runSlice hx
      simp only [FrameRun.has] at hxn
      omega
    simp [hno, hn]

/-- After the copy of a region, its frames are those of the source (R353, R366). -/
theorem copyRegion_spec (dst src : List FrameRun) (r : Nat) (hd : planeWf dst) (hs : planeWf src) :
    planeWf (copyRegion dst src r) ∧ ∀ n, runGet (copyRegion dst src r) n =
      if r * regionFrames ≤ n ∧ n < (r + 1) * regionFrames then runGet src n else runGet dst n :=
  runCopy_spec dst src _ _ (Nat.mul_le_mul_right _ (Nat.le_succ r)) hd hs

/-! ### The DRAM bytes -/

theorem cellGet_set (m : List Host.Cell) (a k : Nat) (v : Byte) :
    cellGet (Tab.set (α := BitVec 8) m a v) k = if k = a then some v else cellGet m k := by
  induction m with
  | nil =>
    by_cases h : k = a
    · simp [Tab.set, cellGet, h]
    · have : ¬ a = k := fun e => h e.symm
      simp [Tab.set, cellGet, h, this]
  | cons x t ih =>
    obtain ⟨i, w⟩ := x
    simp only [Tab.set]
    by_cases hk : k = a
    · subst hk
      split
      · simp [cellGet]
      · next hi =>
        split
        · simp [cellGet]
        · simp [cellGet, hi, ih]
    · have hak : ¬ a = k := fun e => hk e.symm
      split
      · next hi => simp [cellGet, hak, hi]
      · split
        · simp [cellGet, hak]
        · simp [cellGet, ih, hk]

theorem cellGet_drop (m : List Host.Cell) (a k : Nat) :
    cellGet (Tab.drop (α := BitVec 8) (fun i => i == a) m) k = if k = a then none else cellGet m k := by
  induction m with
  | nil => simp [Tab.drop, cellGet]
  | cons x t ih =>
    obtain ⟨i, w⟩ := x
    simp only [Tab.drop] at ih ⊢
    by_cases hi : i = a
    · subst hi
      simp only [List.filter, beq_self_eq_true, Bool.not_true, ih, cellGet]
      by_cases h : k = i
      · simp [h]
      · have : ¬ i = k := fun e => h e.symm
        simp [h, this]
    · have : (!(i == a)) = true := by simp [hi]
      simp only [List.filter, this, cellGet, ih]
      by_cases h : i = k
      · subst h
        simp [hi]
      · simp [h]

/-- A stored byte reads as stored, and the other bytes as before. -/
theorem Chip.dramByte_dramStore (b : Chip) (a k : Nat) (v : Byte) :
    (b.dramStore a v).dramByte k = if k = a then v else b.dramByte k := by
  have hu : ∀ x, (b.dramStore a v).unwrittenByte x = b.unwrittenByte x := fun _ => rfl
  have hm : cellGet (b.dramStore a v).hub.mem k =
      if k = a then (if v = 0#8 ∧ b.unwrittenByte a = .zeros then none else some v) else cellGet b.hub.mem k := by
    simp only [Chip.dramStore]
    by_cases h : v = 0#8 ∧ b.unwrittenByte a = .zeros
    · simp only [h, and_self, if_true, cellGet_drop]
    · simp only [h, if_false, cellGet_set]
  simp only [Chip.dramByte, hu, hm]
  by_cases hk : k = a
  · subst hk
    by_cases h : v = 0#8 ∧ b.unwrittenByte k = .zeros
    · simp [h.1, h.2, Blank.byte]
    · simp only [if_true, h, if_false]
  · simp only [hk, if_false]

theorem Chip.dramStore_wf (b : Chip) (a : Nat) (v : Byte) (h : cellsWf b.hub.mem = true) :
    cellsWf (b.dramStore a v).hub.mem = true := by
  simp only [Chip.dramStore, cellsWf] at h ⊢
  split
  · exact Tab.sorted_drop _ _ h
  · exact Tab.sorted_set _ _ _ h

theorem Chip.dramWrite_wf (b : Chip) (a : Nat) (mask : Nat → Bool) (d : Bytes) (h : cellsWf b.hub.mem = true) :
    cellsWf (b.dramWrite a mask d).hub.mem = true := by
  unfold Chip.dramWrite
  generalize d.zipIdx = l
  induction l generalizing b with
  | nil => exact h
  | cons x t ih =>
    refine ih _ ?_
    dsimp only
    split
    · exact Chip.dramStore_wf b _ _ h
    · exact h

theorem Chip.fillRange_wf (b : Chip) (lo hi : Nat) (c : Option Nat) (z : Bool) (h : cellsWf b.hub.mem = true) :
    cellsWf (b.fillRange lo hi c z).hub.mem = true :=
  Tab.sorted_filter _ _ h

end Sys2Proof.Machine
end

