-- ==== Sys2Proof/Machine/Signals.lean ====
section
/-! DEFINITION. The signals that the block presents to the fabric and on its pins, as functions of the state: no command
reads them. vane_ev_ready, xs_ready, hub_rdy and q_src_down stand beside the commands that they gate (Chip.vaneReady,
Chip.laneReady, Chip.hubReady, Chip.srcDown), ALERT_N in Chip.alertLow, and the drive of a test point in Chip.pinDrive. -/

namespace Sys2Proof.Machine

open Sys2Proof

/-! ### The tick count and the schedule engine (R37, R79, R80, R86, R94, R98, R100) -/

/-- tb_count. -/
def Chip.tbCountOut (b : Chip) (r : Nat) : BitVec 64 := BitVec.ofNat 64 (b.tbCount r)

/-- The region's partition holds slot tables, so its schedule signals are valid. -/
def Chip.schedValid (b : Chip) (r : Nat) : Bool := (b.regionK r).isSome

/-- sched_cycle. -/
def Chip.schedCycle (b : Chip) (r : Nat) : BitVec 20 := BitVec.ofNat 20 (b.frameCycle r)

/-- sched_frame. -/
def Chip.schedFrame (b : Chip) (r : Nat) : BitVec 54 :=
  match b.regionK r with
  | some k => BitVec.ofNat 54 (b.now / 2 ^ k)
  | none => 0#54

/-- sched_frame_start. -/
def Chip.schedFrameStart (b : Chip) (r : Nat) : Bool := b.schedValid r && b.frameCycle r == 0

/-- sched_round_cycle. -/
def Chip.schedRoundCycle (b : Chip) (r : Nat) : BitVec 12 := BitVec.ofNat 12 (b.roundCycle r)

/-- sched_round_start: 0 in a region without base-1 entries. -/
def Chip.schedRoundStart (b : Chip) (r : Nat) : Bool :=
  b.schedValid r && b.roundCycle r == 0 && (b.region r).slots.any entryBase

/-- sched_status. -/
def Chip.schedStatus (b : Chip) (r : Nat) : BitVec 2 :=
  BitVec.ofNat 2 (b.regionStatus r)

/-- sched_hot. -/
def Chip.schedHot (b : Chip) : Bool := b.hub.hotRefresh

/-! ### Vanes (R63, R64) -/

/-- The region cycle of a test point's ports. -/
def Chip.vaneCycle (b : Chip) (tp : Nat) : Nat := b.isle (bankRegion (tpBank tp))

/-- vane_cap_valid and vane_cap_data: an entry that is popped in this cycle still shows in it. -/
def Chip.vaneCapture (b : Chip) (tp : Nat) : Option (BitVec 32) :=
  match (b.vane tp).popped with
  | some (c, e) => if c = b.vaneCycle tp then some e else (b.vane tp).fifo.head?
  | none => (b.vane tp).fifo.head?

/-- vane_in: the pin level that the input register took at the edge that began the present cycle. A level that the device does not
drive is a free value. -/
def Chip.vaneIn (b : Chip) (tp : Nat) : Bool :=
  let c := b.vaneCycle tp
  let d := match (b.bank (tpBank tp)).shown with
    | some (e, oe, level) => if e = c then (oe.getLsbD (tpPos tp), level.getLsbD (tpPos tp)) else b.pinAtEdge tp
    | none => b.pinAtEdge tp
  if d.1 then d.2 else Config.ballLevel tp c

/-- vane_epoch. -/
def Chip.vaneEpoch (b : Chip) (tp : Nat) : BitVec 42 := BitVec.ofNat 42 (b.vaneQe tp)

/-- vane_parked: at park level through PARK, a park of the bank, or a fault. -/
def Chip.vaneParked (b : Chip) (tp : Nat) : Bool :=
  (b.bank (tpBank tp)).parked || (b.bank (tpBank tp)).parkedPins.getLsbD (tpPos tp)

/-- vane_fail. -/
def Chip.vaneFail (b : Chip) (tp : Nat) : Bool := (b.vane tp).fail

/-- vane_win_done with vane_win_fail: in the one cycle of its pulse (R63). -/
def Chip.vaneWindow (b : Chip) (tp : Nat) : Option Bool :=
  ((b.vane tp).winOut.find? fun x => x.1 == b.vaneCycle tp).map fun x => x.2

/-! ### Nets and resets (R137) -/

/-- clk_cur of a net. -/
def Chip.clkCur (b : Chip) (r n : Nat) : Bool := (b.net r n).cur

/-- blk_safe: a block's bit follows its safe state in the next net-0 cycle. -/
def Chip.blkSafe (b : Chip) (r : Nat) : BitVec 64 :=
  let g := b.region r
  if g.safeSince = b.isle r then g.safeBefore else g.safeBlocks

/-- rst_hard: the first net-0 cycle after the release. -/
def Chip.rstHard (b : Chip) (r : Nat) : Bool := !(b.region r).inReset && b.isle r == (b.region r).released

/-- A source's level as the fabric carries it in the present cycle (R108 to R116). -/
def Chip.levelNow (b : Chip) (r : Nat) (s : Source) : Bool := (b.regionNow r).levelIn r (b.isle r) s

/-! ### Crossings (R148) -/

/-- xr_data, xr_valid, xr_poison and xr_sched at the receiving end l: a delivery is shown in its one cycle. -/
def Chip.crossingOut (b : Chip) (l : Lane) : Option Delivery :=
  match senderOf l with
  | some tx => (b.lane tx).delivered.filter fun d => d.cycle == b.isle l.r
  | none => none

/-! ### Memories (R158, R159, R165 to R167) -/

/-- bm_rdy of a port: 0 in the second cycle of a bit-set or bit-clear. -/
def Chip.bmReady (b : Chip) (m : BmSel) (p : BmPort) : Bool :=
  match (b.bmState (bmKey m.r m.b m.m)).last p with
  | some x => !(x.op.rmw && x.cyc + 1 == b.bmCycle m)
  | none => true

/-- bm_rdata, bm_cor, bm_err, bm_uut and bm_coll or bm_busy of a port in the present cycle; all 0 where no result is shown. -/
def Chip.bmResult (b : Chip) (m : BmSel) (p : BmPort) : PortOut :=
  (outIn ((b.bmState (bmKey m.r m.b m.m)).out p) (b.bmCycle m)).getD {}

/-- sp_rdy: 0 from the cycle after a refused access through the cycle in which it wins. -/
def Chip.spReady (b : Chip) (r p : Nat) : Bool := (b.spPort r p).ready (b.isle r)

/-- sp_rvalid, sp_rdata, sp_cor, sp_err and sp_uut in the present cycle. -/
def Chip.spResult (b : Chip) (r p : Nat) : PortOut := (outIn (b.spPort r p).out (b.isle r)).getD {}

/-! ### Slice groups (R205, R207, R214, R226 to R229) -/

/-- sg_run: 1 in RUN or WAIT; a start shows from the next cycle on. -/
def Chip.sgRun (b : Chip) (g : Grp) : Bool := [GroupState.run, .wait].contains (b.groupShown g)

/-- sg_done: 1 for one cycle when STOP enters STOP. -/
def Chip.sgDone (b : Chip) (g : Grp) : Bool := (b.groupNow g).done == some (b.groupCycle g)

/-- sx_take, sy_take and sz_take as bits 0 to 2: 1 in the issue cycle that takes the element. -/
def Chip.sgTake (b : Chip) (g : Grp) : BitVec 3 :=
  match (b.group g).took with
  | some (c, m) => if c = b.groupCycle g then m else 0#3
  | none => 0#3

/-- sg_hnd. -/
def Chip.sgHandler (b : Chip) (g : Grp) : BitVec 3 :=
  match (b.groupNow g).handler with
  | some h => BitVec.ofNat 3 (4 + h.ev % 4)
  | none => 0#3

/-- sg_flags: both register sets. -/
def Chip.sgFlags (b : Chip) (g : Grp) : BitVec 5 := (b.group g).main.flags ||| (b.group g).shadow.flags

/-- sl_out of a lane: OUTR one cycle after it holds its value. -/
def Chip.slOut (b : Chip) (g : Grp) (lane : Nat) : BitVec 32 := (b.group g).outrSeen (b.groupCycle g) lane

/-- sl_out_valid: for one group cycle, the lanes that OUT wrote. -/
def Chip.slOutValid (b : Chip) (g : Grp) : BitVec 8 :=
  let c := b.groupCycle g
  (((b.group g).shown.find? fun x => x.1 == c).map fun x => x.2).getD 0#8

/-- sl_accv of a lane: the viewed accumulator, one cycle behind it. -/
def Chip.slAccv (b : Chip) (g : Grp) (lane : Nat) : BitVec 80 :=
  (b.group g).accRead (b.groupCycle g) lane (b.group g).view

/-- cm_rdy: the sequencer leaves an access free in the present cycle. -/
def Chip.cmReady (b : Chip) (g : Grp) : Bool :=
  let b := b.settleGroup g
  decide (b.cmUse g (b.groupCycle g) ≤ 1)

/-- cm_rvalid, cm_rdata, cm_cor, cm_err and cm_uut in the present cycle. -/
def Chip.cmResult (b : Chip) (g : Grp) : PortOut := (outIn (b.groupNow g).cmOut (b.groupCycle g)).getD {}

/-- ds_rvalid and ds_rdata in the present cycle. -/
def Chip.dsResult (b : Chip) (g : Grp) : PortOut := (outIn (b.group g).dsOut (b.groupCycle g)).getD {}

/-! ### Hub ports (R248, R250) -/

/-- A delivery of a hub port that stands in the present cycle of its region. -/
def Chip.portNow {α : Type} (b : Chip) (r h : Nat) (t : Tab (Nat × α)) : Option α :=
  (t.find? fun x => x.1 == 2 * r + h && x.2.1 == b.isle r).map fun x => x.2.2

/-- hub_rsched with hub_rerr and hub_rdata, in a return slot's cycle. -/
def Chip.hubSched (b : Chip) (r h : Nat) : Option (Nat × Bytes) := b.portNow r h b.hub.schedOut

/-- hub_rvalid without hub_rsched: hub_rerr, hub_rdata and hub_rtag of a best-effort read. -/
def Chip.hubRead (b : Chip) (r h : Nat) : Option (Nat × Bytes × Nat) := b.portNow r h b.hub.readOut

/-- hub_rvalid. -/
def Chip.hubValid (b : Chip) (r h : Nat) : Bool := (b.hubSched r h).isSome || (b.hubRead r h).isSome

/-- hub_wack with hub_werr and hub_wtag. -/
def Chip.hubAck (b : Chip) (r h : Nat) : Option (Nat × Nat) := b.portNow r h b.hub.ackOut

/-! ### BAR0 of the host ports (R305 to R309) -/

/-- The port status register (R306). -/
def Chip.portStatus (b : Chip) (h : Nat) : BitVec 32 :=
  BitVec.ofNat 32 (flag b.fromReduced 7 + b.dev.st.code % 8 * 2 ^ 4 + flag b.dev.dramOk 3 + (h + 1) % 8)

/-- A word of a channel's block (R308). -/
def Dma.word (d : Dma) (c off : Nat) : BitVec 32 :=
  match off with
  | 0x00 => BitVec.ofNat 32 d.base
  | 0x04 => BitVec.ofNat 32 (d.base / 2 ^ 32)
  | 0x08 => BitVec.ofNat 32 d.size
  | 0x0C => BitVec.ofNat 32 (d.vec c % 64 * 2 ^ 8 + flag d.enable 0)
  | 0x10 => d.p
  | 0x14 => d.c
  | 0x18 => BitVec.ofNat 32 (d.err % 8 * 2 ^ 8 + d.st % 8)
  | _ => 0#32

/-- What BAR0 of a port reads at a 32-bit offset; reserved offsets read as 0 (R305). -/
def Chip.bar0Word (b : Chip) (h offset : Nat) : BitVec 32 :=
  let p := b.port h
  let o := offset / 4 * 4
  if o < 0x2000 then p.mbox.word b.fromReduced o
  else if o < 0x2800 then (p.channel ((o - 0x2000) / 128)).word ((o - 0x2000) / 128) (o % 128)
  else if o = 0x2800 then p.events
  else if o = 0x2804 then p.evEnable
  else if o = 0x2808 then BitVec.ofNat 32 p.windowBase
  else if o = 0x280C then BitVec.ofNat 32 (p.windowBase / 2 ^ 32)
  else if o = 0x2810 then b.portStatus h
  else if 0x3000 ≤ o ∧ o < 0x3400 then p.msixDword ((o - 0x3000) / 16) (o % 16 / 4)
  else if o = 0x3800 then BitVec.ofNat 32 p.pba.toNat
  else if o = 0x3804 then BitVec.ofNat 32 (p.pba.toNat / 2 ^ 32)
  else 0#32

/-- What configuration space of a port reads at a 32-bit offset: vendor and device, revision and class code, subsystem (R302).
PRESUMED: the offsets are those of the standard header; the manual gives nothing of the rest. -/
def Chip.configWord (b : Chip) (offset : Nat) : Option (BitVec 32) :=
  if !b.hostOn then none
  else
    match offset with
    | 0x00 => some 0x46001FA7#32
    | 0x08 => some 0x11800010#32
    | 0x2C => some 0x00011FA7#32
    | _ => none

/-! ### Process data (R325, R329) -/

/-- pd_o_data: a word that is not assigned to the region reads as 0. -/
def Chip.pdOut (b : Chip) (r w : Nat) : BitVec 32 :=
  if (b.region r).pdOut.getLsbD w then Tab.get 0#32 b.ecat.applied w else 0#32

/-- A pulse of a partition at a tick stands in the present cycle of a region of it. -/
def Chip.pulseNow (b : Chip) (r : Nat) (t : Tab Nat) : Bool :=
  match b.regionPart r with
  | none => false
  | some p => t.any fun x => x.1 == p && ({ b with belfry := { b.belfry with tick := x.2 } } : Chip).isle r == b.isle r

/-- pd_o_new and pd_i_latch: 1 in the cycle of the apply edge and of the latch edge (R329). -/
def Chip.pdONew (b : Chip) (r : Nat) : Bool := b.pulseNow r b.ecat.pdNew
def Chip.pdILatch (b : Chip) (r : Nat) : Bool := b.pulseNow r b.ecat.pdLatch

/-- pd_o_stale. -/
def Chip.pdStale (b : Chip) : Bool := b.ecat.al != .op

end Sys2Proof.Machine
end

