-- ==== Sys2Proof/WellFormed.lean ====
section
/-! DEFINITION. Well-formed commands: every operand names a unit that the device has. -/

namespace Sys2Proof

/-- The owners O0 to O6 have a path to the dictionary (R22, R336). -/
def Req.wf (q : Req) : Bool := decide (q.owner < 7)

/-- A lane of a side of a region of the grid (R11, R143). -/
def Lane.wf (l : Lane) : Bool := decide (l.r < 32) && decide (l.side < 4) && decide (l.lane < 256)

/-- A block memory of the device (R156). -/
def BmSel.wf (m : BmSel) : Bool := decide (m.r < 32) && decide (m.b < 64) && decide (m.m < 8)

/-- A slice group of the device (R200). -/
def Grp.wf (g : Grp) : Bool := decide (g.r < 32) && decide (g.b < 64)

/-- A memory unit of the device (R156, R164, R225). -/
def MemUnit.wf : MemUnit → Bool
  | .bm m => m.wf
  | .spBank r bank => decide (r < 32) && decide (bank < 16)
  | .im r b => decide (r < 32) && decide (b < 64)
  | .cm r b => decide (r < 32) && decide (b < 64)
  | .ds r b => decide (r < 32) && decide (b < 64)

/-- The operands of a command name units of the device. -/
def Instr.wf : Instr → Bool
  | .p00SupplyGood => true
  | .p00SupplyFail => true
  | .mainSuppliesGood _ _ => true
  | .mainSuppliesLost => true
  | .mainRailCollapse _ => true
  | .wakePulse _ _ => true
  | .refClkStart => true
  | .domainPowerGood d => decide (d < 20)
  | .domainPowerTimeout d => decide (d < 20)
  | .imageStart => true
  | .enterReduced vcco _ => decide (vcco.length ≤ 24)
  | .voltageMonitorFault d _ _ => decide (d < 20)
  | .clockLoss c _ _ => decide (c < 40)
  | .shutdown q serial => q.wf && decide (serial < 2 ^ 32)
  | .recover q serial => q.wf && decide (serial < 2 ^ 32)
  | .recoverRelease r => decide (r < 32)
  | .closingSelfRefreshDone => true
  | .recordSealed => true
  | .disciplineSourceWrite q _ => q.wf
  | .dcMeasurement _ _ => true
  | .ppsInEdge _ => true
  | .correctionSerial q serial => q.wf && decide (serial < 2 ^ 32)
  | .ppsWindowClose => true
  | .sourceTimeout => true
  | .holdoverLimitExpiry => true
  | .belfryStep q serial => q.wf && decide (serial < 2 ^ 32)
  | .ppsOutRise => true
  | .ppsOutFall => true
  | .bankModeWrite q bb _ => q.wf && decide (bb < 24)
  | .ioVoltageWrite q bb _ => q.wf && decide (bb < 24)
  | .directOutputWrite q bb _ _ => q.wf && decide (bb < 24)
  | .patternControlWrite q bb _ => q.wf && decide (bb < 24)
  | .patternEntryApply bb => decide (bb < 24)
  | .patternRunEnd bb => decide (bb < 24)
  | .clearContention q bb _ => q.wf && decide (bb < 24)
  | .bankControlWrite bb pin pull _ => decide (bb < 24) && decide (pin < 64) && decide (pull < 4)
  | .vccoFault bb _ _ => decide (bb < 24)
  | .vccoRecovery bb _ _ => decide (bb < 24)
  | .vaneEventWord tp _ _ => decide (tp < 1536)
  | .epoch tp _ _ => decide (tp < 1536)
  | .vaneNop tp => decide (tp < 1536)
  | .driveLow tp => decide (tp < 1536)
  | .driveHigh tp => decide (tp < 1536)
  | .release tp => decide (tp < 1536)
  | .captureRise tp => decide (tp < 1536)
  | .captureFall tp => decide (tp < 1536)
  | .captureAny tp => decide (tp < 1536)
  | .sample tp _ => decide (tp < 1536)
  | .windowLow tp _ => decide (tp < 1536)
  | .windowHigh tp _ => decide (tp < 1536)
  | .windowClose tp => decide (tp < 1536)
  | .disarm tp => decide (tp < 1536)
  | .reflexArm tp => decide (tp < 1536)
  | .reflexDisarm tp => decide (tp < 1536)
  | .park tp => decide (tp < 1536)
  | .captureEdge tp _ _ => decide (tp < 1536)
  | .windowDeviation tp _ _ _ => decide (tp < 1536)
  | .capturePop tp _ => decide (tp < 1536)
  | .vaneFailClear tp _ => decide (tp < 1536)
  | .calibrationRun tp => decide (tp < 1536)
  | .lineSwitch tp => decide (tp < 1536)
  | .calibrationDeferred tp => decide (tp < 1536)
  | .calibrationLimit tp => decide (tp < 1536)
  | .scheduledTokenSend l _ _ _ => l.wf
  | .unscheduledTokenSend l _ _ => l.wf
  | .tokenRelease l _ _ => l.wf
  | .slotMiss r m _ => decide (r < 32) && decide (1 ≤ m.cause) && decide (m.cause ≤ 9)
  | .rearm q serial p _ => q.wf && decide (serial < 2 ^ 32) && decide (p < 8)
  | .rearmBoundary p => decide (p < 8)
  | .sequencerOverrun r b ev _ => decide (r < 32) && decide (b < 64) && decide (ev < 4)
  | .clockSwitch r net _ _ => decide (r < 32) && decide (1 ≤ net) && decide (net < 16)
  | .clockSwitchComplete r net _ => decide (r < 32) && decide (1 ≤ net) && decide (net < 16)
  | .clockSwitchStall r net _ => decide (r < 32) && decide (1 ≤ net) && decide (net < 16)
  | .clockGateChange r net _ _ => decide (r < 32) && decide (1 ≤ net) && decide (net < 16)
  | .userReset r n _ _ => decide (r < 32) && decide (n < 4)
  | .probeSelectWrite q _ _ _ => q.wf
  | .islandUnlock r _ _ => decide (r < 32)
  | .islandRestart q serial r _ => q.wf && decide (serial < 2 ^ 32) && decide (r < 32)
  | .standbyLockDone r => decide (r < 32)
  | .standbyLockTimeout r => decide (r < 32)
  | .islandRestartRelease r => decide (r < 32)
  | .bmRead m _ addr _ => m.wf && decide (addr < 1024)
  | .bmWrite m _ addr _ _ => m.wf && decide (addr < 1024)
  | .bmBitSet m _ addr _ _ => m.wf && decide (addr < 1024)
  | .bmBitClear m _ addr _ _ => m.wf && decide (addr < 1024)
  | .demandWriteBack u _ => u.wf
  | .spRead r port addr _ _ => decide (r < 32) && decide (port < 8) && decide (addr < 65536)
  | .spWrite r port addr _ _ _ _ => decide (r < 32) && decide (port < 8) && decide (addr < 65536)
  | .spStallRetry r port _ => decide (r < 32) && decide (port < 8)
  | .memoryDataRead q r => q.wf && decide (r < 32)
  | .memoryDataWrite q r _ => q.wf && decide (r < 32)
  | .regionClearEnd r => decide (r < 32)
  | .queuePush r k _ _ _ => decide (r < 32) && decide (k < 16)
  | .queueClose r k _ => decide (r < 32) && decide (k < 16)
  | .queuePop r k _ => decide (r < 32) && decide (k < 16)
  | .heldPopTake r k _ => decide (r < 32) && decide (k < 16)
  | .heldPushComplete r k _ => decide (r < 32) && decide (k < 16)
  | .watermarkClear r k _ => decide (r < 32) && decide (k < 16)
  | .clearWatermarks q r _ => q.wf && decide (r < 32)
  | .queuePointerMismatch r k _ _ => decide (r < 32) && decide (k < 16)
  | .dualClockWordReadable r k _ _ => decide (r < 32) && decide (k < 16)
  | .hostQueuePush h _ _ _ _ => decide (h < 4)
  | .hostQueueClose h _ _ => decide (h < 4)
  | .hostQueuePop h _ _ => decide (h < 4)
  | .nop g _ => g.wf
  | .stop g _ => g.wf
  | .jmp g _ => g.wf
  | .djnz g _ => g.wf
  | .loop g _ => g.wf
  | .rep g _ => g.wf
  | .ret g _ => g.wf
  | .waitg g _ => g.wf
  | .evmask g _ => g.wf
  | .seta g _ => g.wf
  | .adda g _ => g.wf
  | .setm g _ => g.wf
  | .clrf g _ => g.wf
  | .mac g _ => g.wf
  | .msu g _ => g.wf
  | .mul g _ => g.wf
  | .add g _ => g.wf
  | .sub g _ => g.wf
  | .absd g _ => g.wf
  | .mova g _ => g.wf
  | .lda g _ => g.wf
  | .sha g _ => g.wf
  | .mina g _ => g.wf
  | .maxa g _ => g.wf
  | .fma g _ => g.wf
  | .fms g _ => g.wf
  | .fmul g _ => g.wf
  | .fadd g _ => g.wf
  | .cvtf g _ => g.wf
  | .cvti g _ => g.wf
  | .acs2 g _ => g.wf
  | .acs4 g _ => g.wf
  | .minp g _ => g.wf
  | .out g _ => g.wf
  | .stc g _ => g.wf
  | .sgEventAssert g n _ => g.wf && decide (n < 4)
  | .eventEntry g _ => g.wf
  | .sgStart g _ => g.wf
  | .sgStop g _ => g.wf
  | .startMaskWrite q r _ => q.wf && decide (r < 32)
  | .stopMaskWrite q r _ => q.wf && decide (r < 32)
  | .clearFlags q r _ => q.wf && decide (r < 32)
  | .cmRead g row _ => g.wf && decide (row < 2048)
  | .cmWrite g row _ _ => g.wf && decide (row < 2048)
  | .dsRead g addr _ => g.wf && decide (addr < 4096)
  | .imWrite g addr _ _ => g.wf && decide (addr < 4096)
  | .groupMemoryDataRead q r => q.wf && decide (r < 32)
  | .groupMemoryDataWrite q r _ => q.wf && decide (r < 32)
  | .channelTrainingEnd c _ _ _ => decide (c < 8)
  | .rateChange q serial _ => q.wf && decide (serial < 2 ^ 32)
  | .rateChangeDone _ => true
  | .refreshRound => true
  | .hotSpanRefresh => true
  | .dimmTemperaturePoll c dimm _ _ => decide (c < 8) && decide (dimm < 2)
  | .scheduledReadRequest r h _ _ _ => decide (r < 32) && decide (h < 2)
  | .scheduledWriteRequest r h _ _ _ _ _ => decide (r < 32) && decide (h < 2)
  | .scheduledReturnSlot r h _ => decide (r < 32) && decide (h < 2)
  | .bestEffortRead _ _ _ _ => true
  | .bestEffortWrite _ _ _ _ _ _ => true
  | .bestEffortReadReturn _ => true
  | .bestEffortWriteAck _ => true
  | .writeCrcError _ => true
  | .selfRefreshEntry c => decide (c < 8)
  | .selfRefreshExit c => decide (c < 8)
  | .dramScrubRead _ => true
  | .metadataLoad rr _ _ _ _ => decide (rr < 64)
  | .metadataWriteBack _ _ _ => true
  | .pageRewriteDone rr _ => decide (rr < 64)
  | .rightsWrite q rr _ _ => q.wf && decide (rr < 64)
  | .regionDefine q serial rr => q.wf && decide (serial < 2 ^ 32) && decide (rr < 64)
  | .regionDelete q serial rr => q.wf && decide (serial < 2 ^ 32) && decide (rr < 64)
  | .regionRekey q serial rr => q.wf && decide (serial < 2 ^ 32) && decide (rr < 64)
  | .regionReinitialize q serial rr _ => q.wf && decide (serial < 2 ^ 32) && decide (rr < 64)
  | .metadataInitDone rr => decide (rr < 64)
  | .regionZeroFillDone rr => decide (rr < 64)
  | .rekeySweepDone rr => decide (rr < 64)
  | .reinitializeDone rr => decide (rr < 64)
  | .fundamentalReset h => decide (h < 4)
  | .hotReset h => decide (h < 4)
  | .functionLevelReset h => decide (h < 4)
  | .pcieLinkDown h => decide (h < 4)
  | .pcieLinkUp h _ _ => decide (h < 4)
  | .portEventClear h _ => decide (h < 4)
  | .dmaEnable h c _ => decide (h < 4) && decide (c < 16)
  | .dmaDisable h c => decide (h < 4) && decide (c < 16)
  | .dmaResume h c => decide (h < 4) && decide (c < 16)
  | .dmaDoorbell h c _ => decide (h < 4) && decide (c < 16)
  | .dmaDescriptorStart h c _ _ => decide (h < 4) && decide (c < 16)
  | .dmaDescriptorFinish h c => decide (h < 4) && decide (c < 16)
  | .bar2Read h _ _ => decide (h < 4)
  | .bar2Write h _ _ => decide (h < 4)
  | .mailboxDoorbell h _ _ => decide (h < 4)
  | .partitionOwnerWrite q p _ => q.wf && decide (p < 8)
  | .partitionClaimWrite q p _ => q.wf && decide (p < 8)
  | .partitionReset q serial p _ => q.wf && decide (serial < 2 ^ 32) && decide (p < 8)
  | .partitionResetRelease p => decide (p < 8)
  | .alStateRequest _ => true
  | .syncActivation _ _ _ _ => true
  | .sync0Event _ => true
  | .sm2BufferWrite _ _ => true
  | .sm3BufferRead _ => true
  | .processOutputApply p => decide (p < 8)
  | .processInputLatch p => decide (p < 8)
  | .pdInputWrite r w _ _ => decide (r < 32) && decide (w < 256)
  | .smWatchdogExpiry => true
  | .mailboxWrite _ _ => true
  | .mailboxRepeatRequest => true
  | .sdoDownload q idx sb _ _ _ => q.wf && decide (idx < 65536) && decide (sb < 256)
  | .sdoUpload q idx sb _ _ => q.wf && decide (idx < 65536) && decide (sb < 256)
  | .sdoDownloadSegment q _ _ _ => q.wf
  | .sdoUploadSegment q _ => q.wf
  | .sdoInformation q _ _ => q.wf
  | .sdoTransferTimeout _ => true
  | .registerWrite q _ _ => q.wf
  | .foeWriteStream _ => true
  | .foeWriteFirmware _ => true
  | .foeReadLog => true
  | .foeDataPacket _ _ _ => true
  | .siiWrite _ _ => true
  | .siiRead _ => true
  | .ecatLinkLost p => decide (p < 2)
  | .ecatLinkUp p => decide (p < 2)
  | .loadFromHost q serial _ _ => q.wf && decide (serial < 2 ^ 32)
  | .loadFromFlash q serial _ => q.wf && decide (serial < 2 ^ 32)
  | .bootStreamLoad => true
  | .streamHeaderReceived _ => true
  | .frames _ _ set => set.all Machine.settingOk
  | .fill _ _ _ set => set.all Machine.settingOk
  | .region r _ => decide (r < 256)
  | .table r _ => decide (r < 256)
  | .contract p k => decide (p < 16) && decide (k < 2 ^ 24)
  | .pdmap r _ _ => decide (r < 256)
  | .streamEnd => true
  | .streamTagCheck _ _ => true
  | .streamCutShort => true
  | .twinRebuildEnd r => decide (r < 32)
  | .commitNextBoundary q serial _ => q.wf && decide (serial < 2 ^ 32)
  | .commitAtFrame q serial _ _ => q.wf && decide (serial < 2 ^ 32)
  | .commitAtInstant q serial _ _ => q.wf && decide (serial < 2 ^ 32)
  | .commitGate q serial _ => q.wf && decide (serial < 2 ^ 32)
  | .commitCancel q => q.wf
  | .commitConditionsMet => true
  | .commitFreeze => true
  | .commitResetAssert => true
  | .commitInstant => true
  | .commitRelease => true
  | .gateDriveChange => true
  | .gateSample _ => true
  | .gateWaitLimit => true
  | .frameCheck _ _ _ => true
  | .passEnd _ => true
  | .heartbeatMissed => true
  | .voterMismatch _ => true
  | .onChipScrubAccess u _ _ _ => u.wf
  | .scrubPeriodEnd _ _ => true
  | .selfTestStepEnd _ _ => true
  | .testBlockMemories q serial r b => q.wf && decide (serial < 2 ^ 32) && decide (r < 32) && decide (b < 64)
  | .testScratchpadBank q serial r b => q.wf && decide (serial < 2 ^ 32) && decide (r < 32) && decide (b < 16)
  | .testGroupMemories q serial r b => q.wf && decide (serial < 2 ^ 32) && decide (r < 32) && decide (b < 64)
  | .testDramChannel q serial _ => q.wf && decide (serial < 2 ^ 32)
  | .acceptPowerUpResult q serial => q.wf && decide (serial < 2 ^ 32)
  | .onDemandTestEnd _ _ => true
  | .flashWriteImage q serial _ _ => q.wf && decide (serial < 2 ^ 32)
  | .confirmImage q serial => q.wf && decide (serial < 2 ^ 32)
  | .advanceRollback q serial => q.wf && decide (serial < 2 ^ 32)
  | .writeBootStreamEntry0 q serial _ _ => q.wf && decide (serial < 2 ^ 32)
  | .writeBootStreamEntry1 q serial _ _ => q.wf && decide (serial < 2 ^ 32)
  | .flashOperationEnd x =>
    match x with
    | .valid _ rollback _ policy => decide (rollback < 256) && decide (policy.length ≤ 8)
    | _ => true
  | .sensorSample readings _ => decide (readings.length ≤ 40)
  | .watchdogKick _ => true
  | .watchdogTimeoutWrite q _ => q.wf
  | .watchdogExpiry _ => true
  | .sramError _ _ => true
  | .logRingWrite _ => true
  | .logRead q => q.wf
  | .clearSticky q _ => q.wf
  | .installKey q serial _ _ => q.wf && decide (serial < 2 ^ 32)
  | .deleteKey q serial _ => q.wf && decide (serial < 2 ^ 32)
  | .revokeKey q serial _ => q.wf && decide (serial < 2 ^ 32)
  | .idcode => true
  | .samplePreload _ => true
  | .bypass _ _ => true
  | .dmboxRead offset => decide (offset < 2 ^ 14)
  | .dmboxWrite offset _ => decide (offset < 2 ^ 14)
  | .dmboxPoll => true
  | .trdrain => true
  | .debugSessionOpen q => q.wf
  | .debugSessionClose q => q.wf
  | .tapReset => true
  | .halt q serial r => q.wf && decide (serial < 2 ^ 32) && decide (r < 32)
  | .resume q serial r => q.wf && decide (serial < 2 ^ 32) && decide (r < 32)
  | .step q serial r _ => q.wf && decide (serial < 2 ^ 32) && decide (r < 32)
  | .haltTick r => decide (r < 32)
  | .restartTick r => decide (r < 32)
  | .monitorEnter q => q.wf
  | .ebreak _ => true
  | .breakpointMatch unit _ => decide (unit < 4)
  | .monitorResume q => q.wf
  | .watchdogHold q _ => q.wf
  | .observeQueueHead q r k => q.wf && decide (r < 32) && decide (k < 16)
  | .observeCaptureHead q bb n => q.wf && decide (bb < 24) && decide (n < 64)
  | .lanternStimulus port len _ _ => decide (port < 32) && (len == 1 || len == 2 || len == 4)
  | .fabricStimulus r port len _ _ => decide (r < 32) && decide (port < 64) && decide (1 ≤ len) && decide (len ≤ 4)
  | .probeTraceSample _ => true
  | .traceEnable q _ => q.wf
  | .tracePacketWrite _ _ => true
  | .triggerFire n _ => decide (n < 4)
  | .injectionEnable q _ => q.wf
  | .injectSelfTestFailure q _ => q.wf
  | .injectClosingTestCutShort q _ => q.wf
  | .injectClockSwitchStall q => q.wf
  | .injectMemoryBitFlip q => q.wf
  | .injectMemoryDoubleFlip q => q.wf
  | .injectWritePointerMismatch q => q.wf
  | .injectReadPointerMismatch q => q.wf
  | .injectIllegalInstruction q => q.wf
  | .injectCoefficientBitFlip q => q.wf
  | .injectCoefficientDoubleFlip q => q.wf
  | .injectInstructionBitFlip q => q.wf
  | .injectInstructionDoubleFlip q => q.wf
  | .injectUnlock q => q.wf
  | .injectSourceLoss q _ => q.wf
  | .injectPpsDisplacement q _ => q.wf
  | .injectMissCrossingLate q => q.wf
  | .injectMissBankConflict q => q.wf
  | .injectMissUnplannedBank q => q.wf
  | .injectMissHubNotReady q => q.wf
  | .injectMissWindowTarget q => q.wf
  | .injectMissHubLate q => q.wf
  | .injectMissQueueStall q => q.wf
  | .injectMissVaneLate q => q.wf
  | .injectMissSequencerOverrun q => q.wf
  | .injectVaneLate q => q.wf
  | .injectVaneOutOfOrder q => q.wf
  | .injectVaneFifoOverflow q => q.wf
  | .injectVaneRateViolation q => q.wf
  | .injectVaneContention q => q.wf
  | .injectVaneVccoFault q => q.wf
  | .injectVaneCalibrationLimit q => q.wf
  | .injectDramCorrectable q => q.wf
  | .injectDramUncorrectable q => q.wf
  | .injectDramCrcError q => q.wf
  | .injectTrainingFailure q => q.wf
  | .injectDimmTemperature q _ => q.wf
  | .injectDimmSensorFailure q _ => q.wf
  | .injectTagFailure q => q.wf
  | .injectMetadataUncorrectable q => q.wf
  | .injectMinorOverflow q => q.wf
  | .injectMajorWrap q => q.wf
  | .injectCacheCorrectable q => q.wf
  | .injectPcieLinkDown q => q.wf
  | .injectDmaError q => q.wf
  | .injectDoorbellOverrun q => q.wf
  | .injectEcatLinkLoss q => q.wf
  | .injectSmWatchdog q => q.wf
  | .injectEventMissed q => q.wf
  | .injectMailboxRepeat q => q.wf
  | .injectStreamTagFailure q => q.wf
  | .injectStreamCutShort q => q.wf
  | .injectStandbyLockFailure q => q.wf
  | .injectBootDirectoryEmpty q => q.wf
  | .injectFrameBitFlip q => q.wf
  | .injectFrameTripleFlip q => q.wf
  | .injectFrameAndTwinFlip q => q.wf
  | .injectFrameStuckBit q => q.wf
  | .injectWithheldHeartbeat q => q.wf
  | .injectPassPointerCorruption q => q.wf
  | .injectCrcSingleError q => q.wf
  | .injectCrcUncorrectable q => q.wf
  | .injectSensorFailure q => q.wf
  | .injectPowerFault q => q.wf
  | .injectClockLoss q => q.wf
  | .injectWatchdogExpiry q => q.wf
  | .injectSramUncorrectable q => q.wf
  | .injectSramCorrectable q => q.wf
  | .injectSensorTemperature q _ => q.wf
  | .injectTraceSinkError q => q.wf
  | .injectTracePacketDrop q => q.wf
  | .injectTriggerFire q => q.wf
  | .clockReturn c => decide (c < 40)
  | .voltageReturn d => decide (d < 20)
  | .sm1MailboxRead => true
  | .unscheduledTokenDelivery l _ => l.wf

end Sys2Proof
end

