-- ==== Sys2Proof/Tests/Slice0.lean ====
section
/-! SUPPORT. The author's tests: an ill-formed term for each check of WellFormed, and for each clause of each statement a state
and operands that meet its hypotheses, with what the command then leaves, evaluated by the kernel. Values stand at the
boundaries of their ranges. -/

namespace Sys2Proof.Machine.Tests
open Sys2Proof
set_option autoImplicit false
set_option Elab.async false

def after (i : Instr) (s : State) : State := match exec i s with | .next t => t | _ => s

def sameB : Area → Chip → Chip → Bool
  | .dev, a, b => b.dev = a.dev
  | .belfry, a, b => b.belfry = a.belfry
  | .banks, a, b => b.banks = a.banks
  | .vanes, a, b => b.vanes = a.vanes
  | .parts, a, b => b.parts = a.parts
  | .regions, a, b => b.regions = a.regions
  | .lanes, a, b => b.lanes = a.lanes
  | .mem, a, b => b.mem = a.mem
  | .queues, a, b => b.queues = a.queues
  | .slices, a, b => b.slices = a.slices
  | .hub, a, b => b.hub = a.hub
  | .cupola, a, b => b.cupola = a.cupola
  | .ports, a, b => b.ports = a.ports
  | .ecat, a, b => b.ecat = a.ecat
  | .dict, a, b => b.dict = a.dict
  | .loader, a, b => b.loader = a.loader
  | .watch, a, b => b.watch = a.watch
  | .test, a, b => b.test = a.test
  | .aon, a, b => b.aon = a.aon
  | .lantern, a, b => b.lantern = a.lantern
  | .log, a, b => b.log = a.log
  | .dbg, a, b => b.dbg = a.dbg
  | .inject, a, b => b.inject = a.inject
  | .free, a, b => b.free = a.free

def allAreas : List Area := [.dev, .belfry, .banks, .vanes, .parts, .regions, .lanes, .mem, .queues, .slices, .hub, .cupola, .ports, .ecat, .dict, .loader, .watch, .test, .aon, .lantern, .log, .dbg, .inject, .free]

def keptBut (l : List Area) (s t : State) : Bool := t.pending = s.pending ∧ (allAreas.all fun a => l.contains a || sameB a s.toChip t.toChip)

def slicesSame (a b : Chip) : Bool := b.slices.im = a.slices.im && b.slices.cm = a.slices.cm && b.slices.ds = a.slices.ds

def q0 : Req := { owner := 0, t := 5 }

def dm (s : State) (f : Device → Device) : State := { s with dev := f s.dev }
def st (s : State) (x : DeviceState) : State := { s with dev := { s.dev with st := x } }
def S0 : State := State.reset
def S0b : State := { State.reset with test := { State.reset.test with st := 2 } }
def nx : Out → Option State | .next t => some t | _ => none
def od (s : State) (l : Tab Nat) : State := { s with dict := { s.dict with od := l } }
def bf (s : State) (f : Belfry → Belfry) : State := { s with belfry := f s.belfry }
def rg (s : State) (r : Nat) (x : Region) : State := { s with regions := [(r, x)] }
def q1 : Req := { owner := 1, t := 5 }
def bk (s : State) (k : Nat) (x : Bank) : State := { s with banks := [(k, x)] }
def vn (s : State) (k : Nat) (x : Vane) : State := { s with vanes := [(k, x)] }
def reg_ (s : State) (r : Nat) (x : Region) : State := { s with regions := Tab.set s.regions r x }
/-- Region r configured, in partition 0 with owner 1, released and running. -/
def run (_r : Nat) : Region := { part := some 0, inReset := false }
def pt (s : State) (x : Partition) : State := { s with parts := [(0, x)] }
/-- A slot entry of R83. -/
def slot (base : Bool) (off cnt cls res tag : Nat) : BitVec 64 :=
  BitVec.ofNat 64 ((if base then 2 ^ 63 else 0) + off * 2 ^ 43 + (cnt - 1) * 2 ^ 31 + cls * 2 ^ 27 + res * 2 ^ 16 + tag)
/-- Partition 0 of owner 1 with regions 0 and 1, slot tables and frames of 1,024 ticks, in FULL. -/
def P0 : Partition := { owner := 1, claim := 3#32, regions := 3#32, committed := true, status := .armed, k := 10, tables := true }
def F0 : State := { (st S0b .full) with parts := [(0, P0)], regions := [(0, run 0), (1, run 1)] }
/-- F0 with a record of region r. -/
def fr (r : Nat) (x : Region) : State := reg_ F0 r x
def rb (s : State) (p : Partition) : State := { s with parts := [(0, p)] }
def cm (s : State) (i : Nat) (x : Cmd) : State := { s with dict := { s.dict with cmds := [(cmdKey i, x)] } }
def ln (s : State) (l : Lane) (x : LaneState) : State := { s with lanes := [(laneKey l, x)] }
def E0 : Lane := { r := 0, side := 1, lane := 3 }
def W1 : Lane := { r := 1, side := 3, lane := 3 }
def lanesKept (s t : State) (l : Lane) : Bool :=
  [W1, E0, { r := 0, side := 1, lane := 4 }, { r := 0, side := 0, lane := 3 }].all fun k =>
    laneKey k == laneKey l || decide (t.lane k = s.lane k)
def mm (s : State) (x : Memories) : State := { s with mem := x }
def m7 : BmSel := { r := 1, b := 63, m := 7 }
def u7 : Nat := bmKey 1 63 7
def k7 : Nat := bmWordKey m7 1023
def g1 : Grp := { r := 0, b := 2 }
def qu (s : State) (k : Nat) (x : Queue) : State := { s with queues := [(k, x)] }
def words (n : Nat) : List (BitVec 128 × BitVec 16) := List.replicate n (1#128, 1#16)
def W3 : List (BitVec 128 × BitVec 16) := [(7#128, 0xFFFF#16), (9#128, 3#16)]
def g8 : Grp := { r := 1, b := 63 }
/-- An instruction word: opcode, ACCd, ACCa, sources and address registers of P and Q, lanes, mode and immediate (R208). -/
def iw (op d a p q pa qa lanes mode imm : Nat) : BitVec 64 :=
  BitVec.ofNat 64 (op * 2 ^ 58 + d * 2 ^ 55 + a * 2 ^ 52 + p * 2 ^ 48 + q * 2 ^ 44 + pa * 2 ^ 41 + qa * 2 ^ 38 +
    lanes * 2 ^ 28 + mode * 2 ^ 24 + imm)
def X1 : Issue := { x := 0xFFFFFFFF00000003400000003F800000#256, y := 0x3F8000003F80000000000005#256, z := 0#256, t := 100 }
/-- Slice group 63 of region 1 runs at PC 5 with word w; group 2 runs beside it. -/
def sg (w : BitVec 64) (x : Group) : State :=
  { F0 with slices := { groups := [(66, { st := .run }), (127, { x with st := .run, pc := 5 })], im := [(memKey g8 5, w)], cm := [(memKey g8 0, 0x80000000#32)] } }
def GA : Group := { acc := [(3, 9#80), (accKey 0 1, 0x3F800000#80), (accKey 0 2, 0x7FFFFFFFFFFFFFFFFFFF#80), (accKey 1 1, 0x40000000#80)], main := { a := [(0, 1#14), (1, 8#14)], m := [(1, 0x40070001#32)] } }
def D0 : Dimm := { channel := 0, gb := 16, ranks := 1, width := 8, devGb := 16, registered := true, trfc1 := 295, rates := [4800, 5600], trp := 16000, trcd := 16000, taa := 16000, tras := 32000 }
def Ch : Channel := { st := .ready, dimms := [D0] }
/-- The hub ready with channels 0 and 1, all of DRAM filled with zeros. -/
def Hb : Hub := { st := 2, rate := 4800, target := 5600, set_ := 3#8, capacity := 2 ^ 35, window := 3#8, trained := [(4800, 1)], uses := 1, channels := [(0, Ch), (1, { Ch with dimms := [{ D0 with channel := 1 }] }), (2, { st := .empty })], fills := [{ lo := 0, hi := 2 ^ 41, channel := none, blank := .zeros }] }
/-- F0 with the hub ready and region 0 of Cupola clear over the first 2^20 bytes in mode m. -/
def cup (s : State) (m : Nat) (h : Hub) : State :=
  od { s with hub := h, dev := { s.dev with dramOk := true }, cupola := { regions := [(0, { st := 2, keyGen := 1 })] } } [(0x271002, 0), (0x271003, 20), (0x271004, m), (0x271006, 0x7F), (0x271007, 0x7F)]
def hubOf (s : State) (f : Hub → Hub) : State := { s with hub := f s.hub }
/-- Region 0 with window channel 0 at its first port and a table entry over cycles 0 to 49 of the round. -/
def win (cls res : Nat) : State := fr 0 { run 0 with port0 := some 0, slots := [slot true 0 50 cls res 0] }
def wd : Bytes := (List.range 32).map fun i => BitVec.ofNat 8 (i + 1)
/-- A window due at tick 100 whose request stood in round cycle c. -/
def wo (c : Nat) : Window := { code := 0, data := wd, due := 100, addr := 64, inj := false, cycle := c }
def cupR (s : State) (f : Cupola → Cupola) : State := { s with cupola := f s.cupola }
/-- Region 1 of Cupola as a sealed region over 2^20 to 2^21 with its metadata at 2^24. -/
def sealed (st : Nat) : State :=
  od { F0 with hub := Hb, dev := { F0.dev with dramOk := true }, cupola := { regions := [(1, { st := st, owner := 1, keyGen := 1 })] } } [(0x271102, 2 ^ 20), (0x271103, 20), (0x271104, 2), (0x271105, 2 ^ 24), (0x271106, 0x7F), (0x271107, 0x7F)]
def po (s : State) (h : Nat) (x : HostPort) : State := { s with ports := [(h, x)] }
def dma1 (x : Dma) : HostPort := { dma := [(15, x)] }
def desc (hub len flags : Nat) : Bytes := toBytes 8 0 ++ toBytes 8 hub ++ toBytes 4 len ++ toBytes 4 flags ++ toBytes 8 0
def ec (s : State) (x : Ecat) : State := { s with ecat := x }
def dc (s : State) (f : Dict → Dict) : State := { s with dict := f s.dict }
def sgm (x : Segment) : State := dc S0b fun d => { d with segs := [(0, x)] }
def HS : StreamHeader := { magic := 0x534C4541#32, device := 0xAE810100#32, version := 1, partMask := 1#8, keyId := 0, length := 100000, reservedZero := true, section_ := [(1, 3#32)] }
def L0 : Load := { source := 1, requester := 1, viaCommand := true, hdr := some HS, received := 1000 }
def L1 : Load := { L0 with received := 99984, ended := true, frames := [(0, 34816), (1, 34816)], regioned := [0, 1] }
def SS (k : Nat) : Staged := { parts := 1#8, length := 100000, requester := 1, section_ := [(0, 1, 3#32, k)], records := [(0, {}), (1, { pdOut := 7#256 })] }
def ldr (s : State) (x : Loader) : State := { s with loader := x }
/-- F0 with a usable key slot and the loader's record x; load commands are O1's. -/
def lo (x : Loader) : State :=
  let s := cm F0 0x2E22 { busy := some 1 }
  { s with loader := x, lantern := { s.lantern with keys := [(0, { owner := some 1 })] } }
def lob (l : Load) : State := lo { load := some l, active := [{ first := 3, count := 2, frame := 9#2048 }], staging := [{ first := 0, count := 40000, frame := 5#2048 }] }
def Cm : Commit := { mask := 1#8, mode := 0, target := 0, owner := 1 }
def co (c : Commit) : State := cm (ldr F0 { staged := [SS 10], commit := some c, active := [{ first := 3, count := 2, frame := 9#2048 }], staging := [{ first := 0, count := 40000, frame := 5#2048 }] }) 0x2210 { busy := some 1 }
/-- F0 with Watchtower at frame 5 of region 0, whose planes agree. -/
def wt (n : Nat) (w : Watch) (stg : BitVec 2048) (inv : BitVec 32) : State :=
  { (ldr F0 { active := [{ first := 0, count := 34816, frame := 9#2048 }], activeRef := [{ first := 0, count := 34816, frame := 9#2048 }], staging := [{ first := 0, count := 34816, frame := stg }], twinInvalid := inv, staged := [SS 0] }) with watch := { w with ptr := n, ptr2 := n, ptr3 := n } }
def ts (s : State) (x : SelfTest) : State := { s with test := x }
/-- A failure entry of R400. -/
def fe (kind r blk addr bit : Nat) : BitVec 64 := BitVec.ofNat 64 (kind * 2 ^ 60 + r * 2 ^ 55 + blk * 2 ^ 49 + addr * 2 ^ 32 + bit)
def la (s : State) (x : Lantern) : State := { s with lantern := x }
def fop (a : Nat) (conf : Bool) : State := cm (la S0b { op := some { action := a, owner := 1, foe := false }, confirmed := if conf then some false else none, rollback := 5, slotB := { version := 9, valid := true } }) 0x2E2A { busy := some 1 }
def lge (n : Nat) : LogEntry := { seq := n, code := 1, tick := 2, sev := 1, injected := false, flags := 0, dev := 3, owner := 0, d0 := 0, d1 := 0, d2 := 0 }
def db (s : State) (x : Debug) : State := { s with dbg := x }
def q6 : Req := { owner := 6, t := 5 }
def PH : Partition := { P0 with halt := .halted, haltTick := 512, status := .suspended }
/-- F0 with both regions halted at tick 512. -/
def Fh (p : Partition) : State := { (rb F0 p) with regions := [(0, { run 0 with halted := true }), (1, { run 1 with halted := true })], dbg := { session := true } }
def pk : Packet := { kind := 1, len := 4, port := 2, time := 3, payload := 5#32 }
/-- s with injection enabled and the register values l. -/
def ij (s : State) (l : Tab Nat) : State := { od s l with inject := { enabled := true } }
/-! ### Ill-formed commands: one for each check of WellFormed, beside a well-formed one of each command -/

def q7 : Req := { owner := 7, t := 5 }
def gx : Grp := { r := 32, b := 0 }
def lx : Lane := { r := 0, side := 4, lane := 0 }
def mx : BmSel := { r := 0, b := 64, m := 0 }
def ms : MissInfo := { cause := 9, slot := 0, tag := 0, lower := 0, cycle := 0 }

theorem test_wf_requester_1 : ([
    Instr.commitCancel, Instr.logRead, Instr.debugSessionOpen, Instr.debugSessionClose, Instr.monitorEnter,
    Instr.monitorResume, Instr.injectClockSwitchStall, Instr.injectMemoryBitFlip, Instr.injectMemoryDoubleFlip,
    Instr.injectWritePointerMismatch, Instr.injectReadPointerMismatch, Instr.injectIllegalInstruction,
    Instr.injectCoefficientBitFlip, Instr.injectCoefficientDoubleFlip, Instr.injectInstructionBitFlip,
    Instr.injectInstructionDoubleFlip, Instr.injectUnlock, Instr.injectMissCrossingLate,
    Instr.injectMissBankConflict, Instr.injectMissUnplannedBank, Instr.injectMissHubNotReady,
    Instr.injectMissWindowTarget, Instr.injectMissHubLate, Instr.injectMissQueueStall, Instr.injectMissVaneLate,
    Instr.injectMissSequencerOverrun, Instr.injectVaneLate, Instr.injectVaneOutOfOrder,
    Instr.injectVaneFifoOverflow, Instr.injectVaneRateViolation, Instr.injectVaneContention,
    Instr.injectVaneVccoFault, Instr.injectVaneCalibrationLimit, Instr.injectDramCorrectable,
    Instr.injectDramUncorrectable, Instr.injectDramCrcError, Instr.injectTrainingFailure, Instr.injectTagFailure,
    Instr.injectMetadataUncorrectable, Instr.injectMinorOverflow, Instr.injectMajorWrap,
    Instr.injectCacheCorrectable, Instr.injectPcieLinkDown, Instr.injectDmaError, Instr.injectDoorbellOverrun,
    Instr.injectEcatLinkLoss, Instr.injectSmWatchdog, Instr.injectEventMissed, Instr.injectMailboxRepeat,
    Instr.injectStreamTagFailure, Instr.injectStreamCutShort, Instr.injectStandbyLockFailure,
    Instr.injectBootDirectoryEmpty, Instr.injectFrameBitFlip, Instr.injectFrameTripleFlip,
    Instr.injectFrameAndTwinFlip, Instr.injectFrameStuckBit, Instr.injectWithheldHeartbeat,
    Instr.injectPassPointerCorruption, Instr.injectCrcSingleError, Instr.injectCrcUncorrectable,
    Instr.injectSensorFailure, Instr.injectPowerFault, Instr.injectClockLoss, Instr.injectWatchdogExpiry,
    Instr.injectSramUncorrectable, Instr.injectSramCorrectable, Instr.injectTraceSinkError,
    Instr.injectTracePacketDrop, Instr.injectTriggerFire] : List (Req → Instr)).all (fun f => (f q0).wf && !(f q7).wf) = true := by decide
theorem test_wf_group_1 : ([
    Instr.nop, Instr.stop, Instr.jmp, Instr.djnz, Instr.loop, Instr.rep, Instr.ret, Instr.waitg, Instr.evmask,
    Instr.seta, Instr.adda, Instr.setm, Instr.clrf, Instr.mac, Instr.msu, Instr.mul, Instr.add, Instr.sub,
    Instr.absd, Instr.mova, Instr.lda, Instr.sha, Instr.mina, Instr.maxa, Instr.fma, Instr.fms, Instr.fmul,
    Instr.fadd, Instr.cvtf, Instr.cvti, Instr.acs2, Instr.acs4, Instr.minp, Instr.out, Instr.stc] : List (Grp → Issue → Instr)).all (fun f => (f g8 X1).wf && !(f gx X1).wf) = true := by decide
theorem test_illFormed_1 : ([
    .domainPowerGood 20, .domainPowerTimeout 20, .enterReduced (List.replicate 25 0) [],
    .voltageMonitorFault 20 0 0, .clockLoss 40 0 0, .shutdown q7 0, .shutdown q0 (2 ^ 32), .recover q7 0,
    .recover q0 (2 ^ 32), .recoverRelease 32, .disciplineSourceWrite q7 0, .correctionSerial q7 0,
    .correctionSerial q0 (2 ^ 32), .belfryStep q7 0, .belfryStep q0 (2 ^ 32), .bankModeWrite q7 0 0,
    .bankModeWrite q0 24 0, .ioVoltageWrite q7 0 0, .ioVoltageWrite q0 24 0, .directOutputWrite q7 0 false 0,
    .directOutputWrite q0 24 false 0, .patternControlWrite q7 0 0, .patternControlWrite q0 24 0,
    .patternEntryApply 24, .patternRunEnd 24, .clearContention q7 0 0, .clearContention q0 24 0,
    .bankControlWrite 24 0 0 0, .bankControlWrite 0 64 0 0, .bankControlWrite 0 0 4 0, .vccoFault 24 0 0,
    .vccoRecovery 24 0 0, .vaneEventWord 1536 0 0, .epoch 1536 0 0, .vaneNop 1536, .driveLow 1536, .driveHigh 1536,
    .release 1536, .captureRise 1536, .captureFall 1536, .captureAny 1536, .sample 1536 false,
    .windowLow 1536 false, .windowHigh 1536 false, .windowClose 1536, .disarm 1536, .reflexArm 1536,
    .reflexDisarm 1536, .park 1536, .captureEdge 1536 false 0, .windowDeviation 1536 0 false 0, .capturePop 1536 0,
    .vaneFailClear 1536 0, .calibrationRun 1536, .lineSwitch 1536, .calibrationDeferred 1536,
    .calibrationLimit 1536, .scheduledTokenSend lx false 0 0, .unscheduledTokenSend lx 0 0, .tokenRelease lx false 0] : List Instr).all (fun i => !i.wf) = true := by decide
theorem test_illFormed_2 : ([
    .slotMiss 32 ms 0, .slotMiss 0 { ms with cause := 0 } 0, .slotMiss 0 { ms with cause := 10 } 0,
    .rearm q7 0 0 0, .rearm q0 (2 ^ 32) 0 0, .rearm q0 0 8 0, .rearmBoundary 8, .sequencerOverrun 32 0 0 0,
    .sequencerOverrun 0 64 0 0, .sequencerOverrun 0 0 4 0, .clockSwitch 32 1 false 0, .clockSwitch 0 0 false 0,
    .clockSwitch 0 16 false 0, .clockSwitchComplete 32 1 0, .clockSwitchComplete 0 0 0,
    .clockSwitchComplete 0 16 0, .clockSwitchStall 32 1 0, .clockSwitchStall 0 0 0, .clockSwitchStall 0 16 0,
    .clockGateChange 32 1 false 0, .clockGateChange 0 0 false 0, .clockGateChange 0 16 false 0,
    .userReset 32 0 false 0, .userReset 0 4 false 0, .probeSelectWrite q7 0 0 0, .islandUnlock 32 0 0,
    .islandRestart q7 0 0 0, .islandRestart q0 (2 ^ 32) 0 0, .islandRestart q0 0 32 0, .standbyLockDone 32,
    .standbyLockTimeout 32, .islandRestartRelease 32, .bmRead mx .a 0 0, .bmRead m7 .a 1024 0,
    .bmWrite mx .a 0 0 0, .bmWrite m7 .a 1024 0 0, .bmBitSet mx .a 0 0 0, .bmBitSet m7 .a 1024 0 0,
    .bmBitClear mx .a 0 0 0, .bmBitClear m7 .a 1024 0 0, .demandWriteBack (.bm mx) 0, .spRead 32 0 0 false 0,
    .spRead 0 8 0 false 0, .spRead 0 0 65536 false 0, .spWrite 32 0 0 0 0 false 0, .spWrite 0 8 0 0 0 false 0,
    .spWrite 0 0 65536 0 0 false 0, .spStallRetry 32 0 0, .spStallRetry 0 8 0, .memoryDataRead q7 0,
    .memoryDataRead q0 32, .memoryDataWrite q7 0 [], .memoryDataWrite q0 32 [], .regionClearEnd 32,
    .queuePush 32 0 0 false 0, .queuePush 0 16 0 false 0, .queueClose 32 0 0, .queueClose 0 16 0, .queuePop 32 0 0,
    .queuePop 0 16 0] : List Instr).all (fun i => !i.wf) = true := by decide
theorem test_illFormed_3 : ([
    .heldPopTake 32 0 0, .heldPopTake 0 16 0, .heldPushComplete 32 0 0, .heldPushComplete 0 16 0,
    .watermarkClear 32 0 0, .watermarkClear 0 16 0, .clearWatermarks q7 0 0, .clearWatermarks q0 32 0,
    .queuePointerMismatch 32 0 0 0, .queuePointerMismatch 0 16 0 0, .dualClockWordReadable 32 0 false 0,
    .dualClockWordReadable 0 16 false 0, .hostQueuePush 4 0 0 false 0, .hostQueueClose 4 0 0, .hostQueuePop 4 0 0,
    .sgEventAssert gx 0 0, .sgEventAssert g8 4 0, .eventEntry gx 0, .sgStart gx 0, .sgStop gx 0,
    .startMaskWrite q7 0 0, .startMaskWrite q0 32 0, .stopMaskWrite q7 0 0, .stopMaskWrite q0 32 0,
    .clearFlags q7 0 0, .clearFlags q0 32 0, .cmRead gx 0 0, .cmRead g8 2048 0, .cmWrite gx 0 0 0,
    .cmWrite g8 2048 0 0, .dsRead gx 0 0, .dsRead g8 4096 0, .imWrite gx 0 0 0, .imWrite g8 4096 0 0,
    .groupMemoryDataRead q7 0, .groupMemoryDataRead q0 32, .groupMemoryDataWrite q7 0 [],
    .groupMemoryDataWrite q0 32 [], .channelTrainingEnd 8 false 0 0, .rateChange q7 0 0, .rateChange q0 (2 ^ 32) 0,
    .dimmTemperaturePoll 8 0 none 0, .dimmTemperaturePoll 0 2 none 0, .scheduledReadRequest 32 0 0 false 0,
    .scheduledReadRequest 0 2 0 false 0, .scheduledWriteRequest 32 0 0 false 0 [] 0,
    .scheduledWriteRequest 0 2 0 false 0 [] 0, .scheduledReturnSlot 32 0 0, .scheduledReturnSlot 0 2 0,
    .selfRefreshEntry 8, .selfRefreshExit 8, .metadataLoad 64 0 0 .verified 0, .pageRewriteDone 64 0,
    .rightsWrite q7 0 false 0, .rightsWrite q0 64 false 0, .regionDefine q7 0 0, .regionDefine q0 (2 ^ 32) 0,
    .regionDefine q0 0 64, .regionDelete q7 0 0, .regionDelete q0 (2 ^ 32) 0] : List Instr).all (fun i => !i.wf) = true := by decide
theorem test_illFormed_4 : ([
    .regionDelete q0 0 64, .regionRekey q7 0 0, .regionRekey q0 (2 ^ 32) 0, .regionRekey q0 0 64,
    .regionReinitialize q7 0 0 0, .regionReinitialize q0 (2 ^ 32) 0 0, .regionReinitialize q0 0 64 0,
    .metadataInitDone 64, .regionZeroFillDone 64, .rekeySweepDone 64, .reinitializeDone 64, .fundamentalReset 4,
    .hotReset 4, .functionLevelReset 4, .pcieLinkDown 4, .pcieLinkUp 4 0 0, .portEventClear 4 0, .dmaEnable 4 0 0,
    .dmaEnable 0 16 0, .dmaDisable 4 0, .dmaDisable 0 16, .dmaResume 4 0, .dmaResume 0 16, .dmaDoorbell 4 0 0,
    .dmaDoorbell 0 16 0, .dmaDescriptorStart 4 0 [] [], .dmaDescriptorStart 0 16 [] [], .dmaDescriptorFinish 4 0,
    .dmaDescriptorFinish 0 16, .bar2Read 4 0 0, .bar2Write 4 0 [], .mailboxDoorbell 4 0 0,
    .partitionOwnerWrite q7 0 0, .partitionOwnerWrite q0 8 0, .partitionClaimWrite q7 0 0,
    .partitionClaimWrite q0 8 0, .partitionReset q7 0 0 0, .partitionReset q0 (2 ^ 32) 0 0,
    .partitionReset q0 0 8 0, .partitionResetRelease 8, .processOutputApply 8, .processInputLatch 8,
    .pdInputWrite 32 0 0 0, .pdInputWrite 0 256 0 0, .sdoDownload q7 0 0 false [] 0,
    .sdoDownload q0 65536 0 false [] 0, .sdoDownload q0 0 256 false [] 0, .sdoUpload q7 0 0 false false,
    .sdoUpload q0 65536 0 false false, .sdoUpload q0 0 256 false false, .sdoDownloadSegment q7 false false [],
    .sdoUploadSegment q7 false, .sdoInformation q7 0 0, .registerWrite q7 (.dict 0 0) 0, .ecatLinkLost 2,
    .ecatLinkUp 2, .loadFromHost q7 0 0 0, .loadFromHost q0 (2 ^ 32) 0 0, .loadFromFlash q7 0 0,
    .loadFromFlash q0 (2 ^ 32) 0] : List Instr).all (fun i => !i.wf) = true := by decide
theorem test_illFormed_5 : ([
    .region 256 0, .table 256 [], .contract 16 0, .contract 0 (2 ^ 24), .pdmap 256 0 0, .twinRebuildEnd 32,
    .commitNextBoundary q7 0 0, .commitNextBoundary q0 (2 ^ 32) 0, .commitAtFrame q7 0 0 0,
    .commitAtFrame q0 (2 ^ 32) 0 0, .commitAtInstant q7 0 0 0, .commitAtInstant q0 (2 ^ 32) 0 0,
    .commitGate q7 0 0, .commitGate q0 (2 ^ 32) 0, .onChipScrubAccess (.bm mx) 0 .clean 0,
    .testBlockMemories q7 0 0 0, .testBlockMemories q0 (2 ^ 32) 0 0, .testBlockMemories q0 0 32 0,
    .testBlockMemories q0 0 0 64, .testScratchpadBank q7 0 0 0, .testScratchpadBank q0 (2 ^ 32) 0 0,
    .testScratchpadBank q0 0 32 0, .testScratchpadBank q0 0 0 16, .testGroupMemories q7 0 0 0,
    .testGroupMemories q0 (2 ^ 32) 0 0, .testGroupMemories q0 0 32 0, .testGroupMemories q0 0 0 64,
    .testDramChannel q7 0 0, .testDramChannel q0 (2 ^ 32) 0, .acceptPowerUpResult q7 0,
    .acceptPowerUpResult q0 (2 ^ 32), .flashWriteImage q7 0 0 0, .flashWriteImage q0 (2 ^ 32) 0 0,
    .confirmImage q7 0, .confirmImage q0 (2 ^ 32), .advanceRollback q7 0, .advanceRollback q0 (2 ^ 32),
    .writeBootStreamEntry0 q7 0 0 0, .writeBootStreamEntry0 q0 (2 ^ 32) 0 0, .writeBootStreamEntry1 q7 0 0 0,
    .writeBootStreamEntry1 q0 (2 ^ 32) 0 0, .sensorSample (List.replicate 41 none) 0, .watchdogTimeoutWrite q7 0,
    .clearSticky q7 0, .installKey q7 0 0 [], .installKey q0 (2 ^ 32) 0 [], .deleteKey q7 0 0,
    .deleteKey q0 (2 ^ 32) 0, .revokeKey q7 0 0, .revokeKey q0 (2 ^ 32) 0, .dmboxRead (2 ^ 14),
    .dmboxWrite (2 ^ 14) 0, .halt q7 0 0, .halt q0 (2 ^ 32) 0, .halt q0 0 32, .resume q7 0 0,
    .resume q0 (2 ^ 32) 0, .resume q0 0 32, .step q7 0 0 0, .step q0 (2 ^ 32) 0 0] : List Instr).all (fun i => !i.wf) = true := by decide
theorem test_illFormed_6 : ([
    .step q0 0 32 0, .haltTick 32, .restartTick 32, .breakpointMatch 4 0, .watchdogHold q7 false,
    .observeQueueHead q7 0 0, .observeQueueHead q0 32 0, .observeQueueHead q0 0 16, .observeCaptureHead q7 0 0,
    .observeCaptureHead q0 24 0, .observeCaptureHead q0 0 64, .lanternStimulus 32 1 0 0, .lanternStimulus 0 3 0 0,
    .fabricStimulus 32 0 1 0 0, .fabricStimulus 0 64 1 0 0, .fabricStimulus 0 0 0 0 0, .fabricStimulus 0 0 5 0 0,
    .traceEnable q7 false, .triggerFire 4 0, .injectionEnable q7 false, .injectSelfTestFailure q7 0,
    .injectClosingTestCutShort q7 0, .injectSourceLoss q7 false, .injectPpsDisplacement q7 0,
    .injectDimmTemperature q7 0, .injectDimmSensorFailure q7 false, .injectSensorTemperature q7 0, .clockReturn 40,
    .voltageReturn 20, .unscheduledTokenDelivery lx 0] : List Instr).all (fun i => !i.wf) = true := by decide
theorem test_wellFormed_1 : ([
    .domainPowerGood 0, .domainPowerTimeout 0, .enterReduced [] [], .voltageMonitorFault 0 0 0, .clockLoss 0 0 0,
    .shutdown q0 0, .recover q0 0, .recoverRelease 0, .disciplineSourceWrite q0 0, .correctionSerial q0 0,
    .belfryStep q0 0, .bankModeWrite q0 0 0, .ioVoltageWrite q0 0 0, .directOutputWrite q0 0 false 0,
    .patternControlWrite q0 0 0, .patternEntryApply 0, .patternRunEnd 0, .clearContention q0 0 0,
    .bankControlWrite 0 0 0 0, .vccoFault 0 0 0, .vccoRecovery 0 0 0, .vaneEventWord 0 0 0, .epoch 0 0 0,
    .vaneNop 0, .driveLow 0, .driveHigh 0, .release 0, .captureRise 0, .captureFall 0, .captureAny 0,
    .sample 0 false, .windowLow 0 false, .windowHigh 0 false, .windowClose 0, .disarm 0, .reflexArm 0,
    .reflexDisarm 0, .park 0, .captureEdge 0 false 0, .windowDeviation 0 0 false 0, .capturePop 0 0,
    .vaneFailClear 0 0, .calibrationRun 0, .lineSwitch 0, .calibrationDeferred 0, .calibrationLimit 0,
    .scheduledTokenSend E0 false 0 0, .unscheduledTokenSend E0 0 0, .tokenRelease E0 false 0, .slotMiss 0 ms 0,
    .rearm q0 0 0 0, .rearmBoundary 0, .sequencerOverrun 0 0 0 0, .clockSwitch 0 1 false 0,
    .clockSwitchComplete 0 1 0, .clockSwitchStall 0 1 0, .clockGateChange 0 1 false 0, .userReset 0 0 false 0,
    .probeSelectWrite q0 0 0 0, .islandUnlock 0 0 0] : List Instr).all (fun i => i.wf) = true := by decide
theorem test_wellFormed_2 : ([
    .islandRestart q0 0 0 0, .standbyLockDone 0, .standbyLockTimeout 0, .islandRestartRelease 0, .bmRead m7 .a 0 0,
    .bmWrite m7 .a 0 0 0, .bmBitSet m7 .a 0 0 0, .bmBitClear m7 .a 0 0 0, .demandWriteBack (.bm m7) 0,
    .spRead 0 0 0 false 0, .spWrite 0 0 0 0 0 false 0, .spStallRetry 0 0 0, .memoryDataRead q0 0,
    .memoryDataWrite q0 0 [], .regionClearEnd 0, .queuePush 0 0 0 false 0, .queueClose 0 0 0, .queuePop 0 0 0,
    .heldPopTake 0 0 0, .heldPushComplete 0 0 0, .watermarkClear 0 0 0, .clearWatermarks q0 0 0,
    .queuePointerMismatch 0 0 0 0, .dualClockWordReadable 0 0 false 0, .hostQueuePush 0 0 0 false 0,
    .hostQueueClose 0 0 0, .hostQueuePop 0 0 0, .sgEventAssert g8 0 0, .eventEntry g8 0, .sgStart g8 0,
    .sgStop g8 0, .startMaskWrite q0 0 0, .stopMaskWrite q0 0 0, .clearFlags q0 0 0, .cmRead g8 0 0,
    .cmWrite g8 0 0 0, .dsRead g8 0 0, .imWrite g8 0 0 0, .groupMemoryDataRead q0 0, .groupMemoryDataWrite q0 0 [],
    .channelTrainingEnd 0 false 0 0, .rateChange q0 0 0, .dimmTemperaturePoll 0 0 none 0,
    .scheduledReadRequest 0 0 0 false 0, .scheduledWriteRequest 0 0 0 false 0 [] 0, .scheduledReturnSlot 0 0 0,
    .selfRefreshEntry 0, .selfRefreshExit 0, .metadataLoad 0 0 0 .verified 0, .pageRewriteDone 0 0,
    .rightsWrite q0 0 false 0, .regionDefine q0 0 0, .regionDelete q0 0 0, .regionRekey q0 0 0,
    .regionReinitialize q0 0 0 0, .metadataInitDone 0, .regionZeroFillDone 0, .rekeySweepDone 0,
    .reinitializeDone 0, .fundamentalReset 0] : List Instr).all (fun i => i.wf) = true := by decide
theorem test_wellFormed_3 : ([
    .hotReset 0, .functionLevelReset 0, .pcieLinkDown 0, .pcieLinkUp 0 0 0, .portEventClear 0 0, .dmaEnable 0 0 0,
    .dmaDisable 0 0, .dmaResume 0 0, .dmaDoorbell 0 0 0, .dmaDescriptorStart 0 0 [] [], .dmaDescriptorFinish 0 0,
    .bar2Read 0 0 0, .bar2Write 0 0 [], .mailboxDoorbell 0 0 0, .partitionOwnerWrite q0 0 0,
    .partitionClaimWrite q0 0 0, .partitionReset q0 0 0 0, .partitionResetRelease 0, .processOutputApply 0,
    .processInputLatch 0, .pdInputWrite 0 0 0 0, .sdoDownload q0 0 0 false [] 0, .sdoUpload q0 0 0 false false,
    .sdoDownloadSegment q0 false false [], .sdoUploadSegment q0 false, .sdoInformation q0 0 0,
    .registerWrite q0 (.dict 0 0) 0, .ecatLinkLost 0, .ecatLinkUp 0, .loadFromHost q0 0 0 0, .loadFromFlash q0 0 0,
    .frames 0 [] [], .fill 0 0 0 [], .region 0 0, .table 0 [], .contract 0 0, .pdmap 0 0 0, .twinRebuildEnd 0,
    .commitNextBoundary q0 0 0, .commitAtFrame q0 0 0 0, .commitAtInstant q0 0 0 0, .commitGate q0 0 0,
    .onChipScrubAccess (.bm m7) 0 .clean 0, .testBlockMemories q0 0 0 0, .testScratchpadBank q0 0 0 0,
    .testGroupMemories q0 0 0 0, .testDramChannel q0 0 0, .acceptPowerUpResult q0 0, .flashWriteImage q0 0 0 0,
    .confirmImage q0 0, .advanceRollback q0 0, .writeBootStreamEntry0 q0 0 0 0, .writeBootStreamEntry1 q0 0 0 0,
    .sensorSample [] 0, .watchdogTimeoutWrite q0 0, .clearSticky q0 0, .installKey q0 0 0 [], .deleteKey q0 0 0,
    .revokeKey q0 0 0, .dmboxRead 0] : List Instr).all (fun i => i.wf) = true := by decide
theorem test_wellFormed_4 : ([
    .dmboxWrite 0 0, .halt q0 0 0, .resume q0 0 0, .step q0 0 0 0, .haltTick 0, .restartTick 0,
    .breakpointMatch 0 0, .watchdogHold q0 false, .observeQueueHead q0 0 0, .observeCaptureHead q0 0 0,
    .lanternStimulus 0 1 0 0, .fabricStimulus 0 0 1 0 0, .traceEnable q0 false, .triggerFire 0 0,
    .injectionEnable q0 false, .injectSelfTestFailure q0 0, .injectClosingTestCutShort q0 0,
    .injectSourceLoss q0 false, .injectPpsDisplacement q0 0, .injectDimmTemperature q0 0,
    .injectDimmSensorFailure q0 false, .injectSensorTemperature q0 0, .clockReturn 0, .voltageReturn 0,
    .unscheduledTokenDelivery E0 0] : List Instr).all (fun i => i.wf) = true := by decide
theorem test_illFormed_settings : ([.net 0 1 3 1 none none false, .net 0 0 1 1 none none false, .net 0 16 1 1 none none false, .net 0 2 1 1 (some 2) none false,
    .bmMode 32 0 0 false 0, .bmMode 0 0 8 false 0, .queue 0 16 0 0 0 0, .bankUse 24, .driveWords 1536] : List Setting).all
    (fun x => !(Instr.frames 0 [] [x]).wf && !(Instr.fill 0 1 0 [x]).wf) = true ∧
    (Instr.frames 0 [] [.net 0 2 16 1 (some 1) none true, .bankUse 23]).wf = true := by decide
theorem test_illFormed_units : ([.spBank 32 0, .spBank 0 16, .im 32 0, .im 0 64, .cm 32 0, .cm 0 64, .ds 32 0, .ds 0 64, .bm { r := 32, b := 0, m := 0 },
    .bm { r := 0, b := 0, m := 8 }] : List MemUnit).all (fun u => !u.wf) = true ∧
    ({ r := 32, side := 0, lane := 0 } : Lane).wf = false ∧ ({ r := 0, side := 0, lane := 256 } : Lane).wf = false ∧
    ({ r := 0, b := 64 } : Grp).wf = false := by decide
theorem test_illFormed_image : (Instr.flashOperationEnd (.valid 0 256 0 [])).wf = false ∧
    (Instr.flashOperationEnd (.valid 0 0 0 (List.replicate 9 0))).wf = false ∧
    (Instr.flashOperationEnd (.valid 0 255 0 (List.replicate 8 0))).wf = true := by decide

/-! ### Witnesses of chapter 0 -/

theorem test_StepRunsTheFrontCommand :
    (let s : State := { S0 with pending := [.p00SupplyFail, .p00SupplyGood] };
    let c : Instr := .p00SupplyFail;
    let rest : List Instr := [.p00SupplyGood];
    (s.pending = c :: rest) ∧ (nx (step s) = nx (exec c { s with pending := rest }))) ∧
    (let s : State := { S0 with pending := [.p00SupplyGood] };
    let c : Instr := .p00SupplyFail;
    let t : State := after c s;
    (t.pending = s.pending)) ∧
    (let s : State := S0;
    (s.pending = []) ∧ (((nx (step s)).map (fun (t : State) => t.belfry) = some { s.belfry with tick := s.belfry.tick + 1 })
        ∧ ((nx (step s)).map (fun (t : State) => t.dev) = some s.dev) ∧ ((nx (step s)).map (fun (t : State) =>
        t.hub) = some s.hub) ∧ (s.powered 0 = true))) :=
  ⟨by decide +kernel, by decide +kernel, by decide +kernel⟩

/-! ### Witnesses of chapter 1 -/

theorem test_SuppliesMoveTheDeviceState_1 :
    (let s : State := st S0 .off;
    let t : State := after .p00SupplyGood s;
    (s.dev.st = .off) ∧ (t.dev.st = .standby) ∧ (t.dev.prev = .off) ∧ (t.dev.power = 1#20) ∧ (t.dev.mainEn = true) ∧
        (t.aon.powerLoss = true) ∧ (t.aon.intact = false)) ∧
    (let s : State := S0;
    let t : State := after .p00SupplyFail s;
    (t.dev.st = .off) ∧ (t.dev.power = 0#20) ∧ (t.log.ring = s.log.ring) ∧ (t.lantern.keys = s.lantern.keys)) ∧
    (let s : State := st S0 .standby;
    let mode : BitVec 3 := 3#3;
    let ref : Bool := false;
    let t : State := after (.mainSuppliesGood mode ref) s;
    (s.dev.st = .standby) ∧ (s.dev.mainEn = true) ∧ (t.dev.st = .boot) ∧ (t.dev.prev = .standby) ∧ (t.dev.mode =
        mode) ∧ (t.dev.refClk = ref) ∧ (t.dev.power = 1#20) ∧ (t.dev.gateDrive = true) ∧ (t.dbg.session = false) ∧
        (t.aon = s.aon)) ∧
    (let s : State := st S0 .boot;
    let t : State := after .mainSuppliesLost s;
    (s.dev.st = .boot) ∧ (t.dev.st = .standby) ∧ (t.dev.mainEn = true) ∧ (t.dev.gateDrive = true) ∧ (t.dev.power =
        1#20) ∧ (t.aon = s.aon)) ∧
    (let s : State := st S0 .full;
    let rails : BitVec 5 := 1#5;
    let t : State := after (.mainRailCollapse rails) s;
    (rails ≠ 0#5) ∧ (s.dev.st = .reduced ∨ s.dev.st = .full ∨ s.dev.st = .closing ∨ s.dev.st = .safe) ∧ (t.dev.st =
        .standby) ∧ (t.dev.mainEn = true) ∧ (t.dev.gateDrive = true) ∧ (t.dev.power = 1#20) ∧ (t.aon.intact = false)
        ∧ (t.aon.faultCode = evCode 4 14 (railUnit rails) 5) ∧ (t.aon.faultState = s.dev.st.code) ∧ (t.aon.unlogged
        = some s.aon.seconds)) ∧
    (let s : State := dm S0 fun d => { d with st := .standby, mainEn := false };
    let mode : BitVec 3 := 3#3;
    let ref : Bool := true;
    let t : State := after (.wakePulse mode ref) s;
    (s.dev.st = .standby) ∧ (s.dev.mainEn = false) ∧ (t.dev.mainEn = true) ∧ (s.dev.mainGood = true → t.dev.st =
        .boot ∧ t.dev.mode = mode) ∧ (s.dev.mainGood = false → t.dev.st = .standby ∧ t.dev.power = s.dev.power)) :=
  ⟨by decide +kernel, by decide +kernel, by decide +kernel, by decide +kernel, by decide +kernel, by decide +kernel⟩
theorem test_SuppliesMoveTheDeviceState_2 :
    (let s : State := dm S0 fun d => { d with st := .standby, mainEn := false, mainGood := false };
    let mode : BitVec 3 := 3#3;
    let ref : Bool := true;
    let t : State := after (.wakePulse mode ref) s;
    (s.dev.st = .standby) ∧ (s.dev.mainEn = false) ∧ (t.dev.mainEn = true) ∧ (s.dev.mainGood = true → t.dev.st =
        .boot ∧ t.dev.mode = mode) ∧ (s.dev.mainGood = false → t.dev.st = .standby ∧ t.dev.power = s.dev.power)) ∧
    (let s : State := st S0 .boot;
    let t : State := after .refClkStart s;
    (t.dev.refClk = true) ∧ (t.dev.st = s.dev.st) ∧ (s.powered 15 = true → s.clockState 35 = .notStarted →
        t.clockState 35 = .running) ∧ (s.dev.st = .boot → t.lantern.held = false ∧ t.lantern.remaining = 2000) ∧
        (keptBut [.dev, .lantern] s t = true)) ∧
    (let s : State := S0;
    let t : State := after .refClkStart s;
    (t.dev.refClk = true) ∧ (t.dev.st = s.dev.st) ∧ (s.powered 15 = true → s.clockState 35 = .notStarted →
        t.clockState 35 = .running) ∧ (s.dev.st = .boot → t.lantern.held = false ∧ t.lantern.remaining = 2000) ∧
        (keptBut [.dev, .lantern] s t = true)) :=
  ⟨by decide +kernel, by decide +kernel, by decide +kernel⟩
theorem test_BootRunsToReduced :
    (let s : State := dm S0 fun d => { d with st := .boot, power := 1#20 };
    let d : Nat := 1;
    let t : State := after (.domainPowerGood d) s;
    (s.dev.st = .boot) ∧ (s.dev.bootFault = false) ∧ (([1, 2, 15, 14, 11, 12, 13, 16, 17, 18, 3, 4, 5, 6, 7, 8, 9,
        10, 19].find? fun n => !s.powered n) = some d) ∧ (s.dev.refClk = true ∨ d = 1 ∨ d = 2 ∨ d = 15 ∨ d = 14) ∧
        (d = 19 → s.lantern.running = true) ∧ (t.powered d = true) ∧ (∀ n, n < 40 → n ≠ d → t.powered n = s.powered
        n) ∧ (d = 15 → s.dev.refClk = false → t.clockState 35 = s.clockState 35) ∧ (d = 16 → t.belfry.tick = 0) ∧
        (t.dev.st = .boot) ∧ (keptBut [.dev, .belfry] s t = true)) ∧
    (let s : State := { (dm S0 fun d => { d with st := .boot, power := 0xF807#20 }) with belfry := { S0.belfry with tick := 77 } };
    let d : Nat := 16;
    let t : State := after (.domainPowerGood d) s;
    (s.dev.st = .boot) ∧ (s.dev.bootFault = false) ∧ (([1, 2, 15, 14, 11, 12, 13, 16, 17, 18, 3, 4, 5, 6, 7, 8, 9,
        10, 19].find? fun n => !s.powered n) = some d) ∧ (s.dev.refClk = true ∨ d = 1 ∨ d = 2 ∨ d = 15 ∨ d = 14) ∧
        (d = 19 → s.lantern.running = true) ∧ (t.powered d = true) ∧ (∀ n, n < 40 → n ≠ d → t.powered n = s.powered
        n) ∧ (d = 15 → s.dev.refClk = false → t.clockState 35 = s.clockState 35) ∧ (d = 16 → t.belfry.tick = 0) ∧
        (t.dev.st = .boot) ∧ (keptBut [.dev, .belfry] s t = true)) ∧
    (let s : State := dm S0 fun d => { d with st := .boot, power := 1#20 };
    let d : Nat := 1;
    let t : State := after (.domainPowerTimeout d) s;
    (s.dev.st = .boot) ∧ (s.dev.bootFault = false) ∧ (([1, 2, 15, 14, 11, 12, 13, 16, 17, 18, 3, 4, 5, 6, 7, 8, 9,
        10, 19].find? fun n => !s.powered n) = some d) ∧ (s.dev.refClk = true ∨ d = 1 ∨ d = 2 ∨ d = 15 ∨ d = 14) ∧
        (d = 19 → s.lantern.running = true) ∧ (t.dev.st = .boot) ∧ (t.dev.bootFault = true) ∧ (t.aon.faultCode =
        evCode 4 14 d 5) ∧ (t.dev.power = s.dev.power) ∧ (keptBut (.aon :: logAreas) s t = true)) ∧
    (let s : State := { (st S0 .boot) with lantern := { S0.lantern with running := false } };
    let p : Bool := false;
    let t : State := after .imageStart s;
    (s.dev.st = .boot) ∧ (s.dev.bootFault = false) ∧ (s.dev.recovery = false) ∧ (s.lantern.running = false) ∧ (∀ n,
        n < 19 → s.powered n = true) ∧ (s.lantern.pendingSlot = none) ∧ (s.lantern.trial = false) ∧
        (s.lantern.confirmed = some p) ∧ (s.candidate p = true) ∧ (t.lantern.running = true) ∧ (t.lantern.runB = p)
        ∧ (t.dev = s.dev) ∧ (t.aon.unlogged = none)) ∧
    (let s : State := st S0 .boot;
    let vcco : List Nat := [];
    let dimms : List Dimm := [];
    let t : State := after (.enterReduced vcco dimms) s;
    (s.dev.st = .boot) ∧ (s.lantern.running = true) ∧ (s.dev.bootFault = false) ∧ (∀ n, n < 19 → s.powered n = true)
        ∧ (t.powered 19 = true) ∧ (t.inject = {}) ∧ (t.test.st = (if s.skipCheck = 0 then 2 else 1)) ∧
        (t.test.recordCheck = s.skipCheck) ∧ (t.dev.st = .reduced ∨ (t.dev.st = .full ∧ t.readiness = 15)) ∧ (∀ o, o
        < 40 → 1 ≤ o → o ≤ 6 → t.rights o = s.runningSlot.policy.getD o 0 % 16) ∧ (t.belfry = s.belfry)) :=
  ⟨by decide +kernel, by decide +kernel, by decide +kernel, by decide +kernel, by decide +kernel⟩
abbrev before_monitorsLeadToSafeOrFence := fun (s : State) (t0 : Nat) => if s.dev.st = .full ∧ (s.toChip.upTo
    t0).sameDecision (s.dev.decidedAt.map fun x => x.1) = true then 3 else s.dev.st.code
theorem test_MonitorsLeadToSafeOrFence_1 :
    (let s : State := S0;
    let d : Nat := 19;
    let mV : Nat := 900;
    let t0 : Nat := 4;
    let t : State := after (.voltageMonitorFault d mV t0) s;
    (d < 20) ∧ (s.dev.st = .reduced ∨ s.dev.st = .full) ∧ (s.powered d = true) ∧ (s.dev.powerFault.getLsbD d =
        false) ∧ (t.dev.st = .safe) ∧ (t.dev.cause = evCode 4 14 d 5) ∧ (t.aon.faultCode = evCode 4 14 d 5) ∧
        (t.aon.faultState = before_monitorsLeadToSafeOrFence s t0)) ∧
    (let s : State := S0;
    let c : Nat := 32;
    let kHz : Nat := 1;
    let t0 : Nat := 4;
    let t : State := after (.clockLoss c kHz t0) s;
    (c = 32 ∨ c = 33 ∨ c = 36 ∨ c = 37 ∨ c = 39) ∧ (s.dev.st = .reduced ∨ s.dev.st = .full) ∧ (s.clockState c =
        .running) ∧ (t.dev.st = .safe) ∧ (t.dev.cause = evCode 4 14 c 6) ∧ (t.aon.faultCode = evCode 4 14 c 6) ∧
        (t.aon.faultState = before_monitorsLeadToSafeOrFence s t0)) ∧
    (let s : State := S0;
    let c : Nat := 39;
    let kHz : Nat := 1;
    let t0 : Nat := 4;
    let t : State := after (.clockLoss c kHz t0) s;
    (c = 32 ∨ c = 33 ∨ c = 36 ∨ c = 37 ∨ c = 39) ∧ (s.dev.st = .reduced ∨ s.dev.st = .full) ∧ (s.clockState c =
        .running) ∧ (t.dev.st = .safe) ∧ (t.dev.cause = evCode 4 14 c 6) ∧ (t.aon.faultCode = evCode 4 14 c 6) ∧
        (t.aon.faultState = before_monitorsLeadToSafeOrFence s t0)) ∧
    (let s : State := S0;
    let c : Nat := 34;
    let kHz : Nat := 1;
    let t0 : Nat := 4;
    let t : State := after (.clockLoss c kHz t0) s;
    (c = 34 ∨ c = 35 ∨ c = 38) ∧ (s.dev.st = .reduced ∨ s.dev.st = .full) ∧ (s.clockState c = .running) ∧ (t.dev.st
        = s.dev.st) ∧ (t.clockState c = .lost) ∧ (keptBut (.belfry :: logAreas) s t = true)) ∧
    (let s : State := S0;
    let r : Nat := 0;
    let kHz : Nat := 1;
    let t0 : Nat := 4;
    let t : State := after (.clockLoss r kHz t0) s;
    (r < 32) ∧ (s.dev.st = .reduced ∨ s.dev.st = .full) ∧ (s.clockState r = .running) ∧ (t.dev.st = s.dev.st) ∧
        (t.clockState r = .lost) ∧ ((t.region r).fenced = true)) ∧
    (let s : State := S0;
    let r : Nat := 31;
    let kHz : Nat := 1;
    let t0 : Nat := 4;
    let t : State := after (.clockLoss r kHz t0) s;
    (r < 32) ∧ (s.dev.st = .reduced ∨ s.dev.st = .full) ∧ (s.clockState r = .running) ∧ (t.dev.st = s.dev.st) ∧
        (t.clockState r = .lost) ∧ ((t.region r).fenced = true)) :=
  ⟨by decide +kernel, by decide +kernel, by decide +kernel, by decide +kernel, by decide +kernel, by decide +kernel⟩
theorem test_MonitorsLeadToSafeOrFence_2 :
    (let s : State := dm S0 fun d => { d with clocks := [(32, .lost)] };
    let c : Nat := 32;
    let t : State := after (.clockReturn c) s;
    (s.clockState c = .lost) ∧ (t.clockState c = .running) ∧ (keptBut [.dev] s t = true)) ∧
    (let s : State := dm S0 fun d => { d with powerFault := 8#20 };
    let d : Nat := 3;
    let t : State := after (.voltageReturn d) s;
    (t.dev.powerFault.getLsbD d = false) ∧ (∀ n, n < 40 → n ≠ d → t.dev.powerFault.getLsbD n =
        s.dev.powerFault.getLsbD n) ∧ (keptBut [.dev] s t = true)) :=
  ⟨by decide +kernel, by decide +kernel⟩

/-! ### Witnesses of chapter 2 -/

theorem test_ShutdownAndRecoverChangeTheDeviceState_1 :
    (let s : State := S0;
    let q : Req := q0;
    let n : Nat := 5;
    let t : State := after (.shutdown q n) s;
    (CommandTaken s q 0x2E01 n [(3, 1)] = true) ∧ (s.dev.st = .reduced ∨ s.dev.st = .full ∨ s.dev.st = .safe ∧
        (s.toChip.upTo q.t).sameDecision s.dev.faultTick = false) ∧ (t.dev.st = .closing) ∧ (t.dev.prev = s.dev.st)
        ∧ (t.dev.closingFromSafe = decide (s.dev.st = .safe)) ∧ (t.status 0x2E01 q.owner = 0) ∧ (t.powered 16 =
        false) ∧ (t.powered 17 = false) ∧ (t.powered 18 = false) ∧ (∀ k, k < 24 → (t.bank k).parkedPins =
        BitVec.allOnes 64)) ∧
    (let s : State := st S0b .safe;
    let q : Req := q0;
    let n : Nat := 5;
    let t : State := after (.shutdown q n) s;
    (CommandTaken s q 0x2E01 n [(3, 1)] = true) ∧ (s.dev.st = .reduced ∨ s.dev.st = .full ∨ s.dev.st = .safe ∧
        (s.toChip.upTo q.t).sameDecision s.dev.faultTick = false) ∧ (t.dev.st = .closing) ∧ (t.dev.prev = s.dev.st)
        ∧ (t.dev.closingFromSafe = decide (s.dev.st = .safe)) ∧ (t.status 0x2E01 q.owner = 0) ∧ (t.powered 16 =
        false) ∧ (t.powered 17 = false) ∧ (t.powered 18 = false) ∧ (∀ k, k < 24 → (t.bank k).parkedPins =
        BitVec.allOnes 64)) ∧
    (let s : State := dm S0b fun d => { d with st := .safe, faultTick := some 5 };
    let q : Req := q0;
    let n : Nat := 5;
    let t : State := after (.shutdown q n) s;
    (CommandTaken s q 0x2E01 n [(3, 1)] = true) ∧ (s.dev.st = .safe) ∧ ((s.toChip.upTo q.t).sameDecision
        s.dev.faultTick = true) ∧ (t.dev = s.dev) ∧ (t.status 0x2E01 q.owner = 2)) ∧
    (let s : State := st S0b .safe;
    let q : Req := q0;
    let n : Nat := 5;
    let t : State := after (.recover q n) s;
    (CommandTaken s q 0x2E01 n [(3, 2)] = true) ∧ (s.dev.st = .safe) ∧ (s.faultPresent = false) ∧ ((s.toChip.upTo
        q.t).sameDecision s.dev.faultTick = false) ∧ (t.dev.st = .reduced ∨ (t.dev.st = .full ∧ t.readiness = 15)) ∧
        (t.status 0x2E01 q.owner = 0) ∧ (t.inject = {}) ∧ (∀ r, r < 40 → (t.region r).fenced = (s.region r).fenced)) ∧
    (let s : State := dm S0b fun d => { d with st := .safe, powerFault := 8#20 };
    let q : Req := q0;
    let n : Nat := 5;
    let t : State := after (.recover q n) s;
    (CommandTaken s q 0x2E01 n [(3, 2)] = true) ∧ (s.dev.st = .safe) ∧ (s.faultPresent = true ∨ (s.toChip.upTo
        q.t).sameDecision s.dev.faultTick = true) ∧ (t.dev = s.dev) ∧ (t.status 0x2E01 q.owner = 3)) ∧
    (let s : State := dm S0b fun d => { d with st := .safe, faultTick := some 5 };
    let q : Req := q0;
    let n : Nat := 5;
    let t : State := after (.recover q n) s;
    (CommandTaken s q 0x2E01 n [(3, 2)] = true) ∧ (s.dev.st = .safe) ∧ (s.faultPresent = true ∨ (s.toChip.upTo
        q.t).sameDecision s.dev.faultTick = true) ∧ (t.dev = s.dev) ∧ (t.status 0x2E01 q.owner = 3)) :=
  ⟨by decide +kernel, by decide +kernel, by decide +kernel, by decide +kernel, by decide +kernel, by decide +kernel⟩
theorem test_ShutdownAndRecoverChangeTheDeviceState_2 :
    (let s : State := rg S0b 31 { recoverAt := some 9 };
    let r : Nat := 31;
    let due : Nat := 9;
    let t : State := after (.recoverRelease r) s;
    ((s.region r).recoverAt = some due) ∧ ((s.region r).fenced = false) ∧ ((t.region r).inReset = false) ∧
        ((t.region r).recoverAt = none) ∧ ((t.region r).released = (s.toChip.upTo due).isle r)) ∧
    (let s : State := dm S0b fun d => { d with st := .closing, closingStage := 1 };
    let t : State := after .closingSelfRefreshDone s;
    (s.dev.st = .closing) ∧ (s.dev.closingStage = 1) ∧ (s.dev.closingFromSafe = false) ∧ (t.dev.st = .closing) ∧
        (t.dev.closingStage = 2) ∧ (t.aon.intact = false) ∧ (t.test.closing = true) ∧ (t.powered 11 = false) ∧
        (t.powered 12 = false) ∧ (t.powered 13 = false)) ∧
    (let s : State := dm S0b fun d => { d with st := .closing, closingStage := 1, closingFromSafe := true };
    let t : State := after .closingSelfRefreshDone s;
    (s.dev.st = .closing) ∧ (s.dev.closingStage = 1) ∧ (s.dev.closingFromSafe = true) ∧ (t.dev.st = .standby) ∧
        (t.aon.intact = false) ∧ (t.dev.mainEn = false)) :=
  ⟨by decide +kernel, by decide +kernel, by decide +kernel⟩
abbrev law_measurementsFollowTheControlLaw := fun (s t : State) (x : Int) (T : Nat) => t.belfry.offset = x ∧
    t.belfry.st = .locked ∧ t.belfry.missed = 0 ∧ t.belfry.term = clampInt (s.belfry.term - Int.tdiv (x * 1000000000)
    (16 * (T : Int))) (-100000000) 100000000 ∧ t.belfry.corr = clampInt (t.belfry.term - Int.tdiv (x * 1000000000) (4
    * (T : Int))) (-100000000) 100000000
abbrev steady_measurementsFollowTheControlLaw := fun (s : State) (x : Int) => s.belfry.st = .locked ∧
    s.belfry.returnFrom = none ∧ s.belfry.frozenCorr = none ∧ s.belfry.fresh = false ∧ x.natAbs ≤ 10 * s.threshold ∧
    s.reg 0x2D60 1 = 0
theorem test_MeasurementsFollowTheControlLaw_1 :
    (let s : State := od (bf S0b fun b => { b with st := .locked }) [(0x230101, 1)];
    let x : Int := -200000;
    let t0 : Nat := 4;
    let t : State := after (.dcMeasurement x t0) s;
    (s.source = 1) ∧ (s.powered 16 = true) ∧ (steady_measurementsFollowTheControlLaw s x) ∧
        (law_measurementsFollowTheControlLaw s t x 1000000) ∧ (t.now = max s.now t0 % 2 ^ 64) ∧ (keptBut [.belfry] s
        t = true)) ∧
    (let s : State := od (bf S0b fun b => { b with st := .holdover, missed := 1 }) [(0x230101, 1)];
    let x : Int := 5;
    let t0 : Nat := 4;
    let t : State := after (.dcMeasurement x t0) s;
    (s.source = 1) ∧ (s.powered 16 = true) ∧ (s.reg 0x2D60 1 ≠ 1) ∧ (t.belfry.offset = x) ∧ (t.belfry.missed = 0)) ∧
    (let s : State := od (bf S0b fun b => { b with st := .holdover }) [(0x230101, 1)];
    let x : Int := -9000000;
    let t0 : Nat := 4;
    let t : State := after (.dcMeasurement x t0) s;
    (s.source = 1) ∧ (s.powered 16 = true) ∧ (s.reg 0x2D60 1 ≠ 1) ∧ (t.belfry.offset = x) ∧ (t.belfry.missed = 0)) ∧
    (let s : State := od (bf S0b fun b => { b with st := .locked }) [(0x230101, 2), (0x230104, 1000000000)];
    let fine : Nat := 1000000000 * 64 + 3;
    let t : State := after (.ppsInEdge fine) s;
    (s.source = 2) ∧ (s.reg 0x2D60 2 = 0) ∧ (s.reg 0x2301 4 ≠ 0) ∧ (s.ppsOutside fine = false) ∧
        (steady_measurementsFollowTheControlLaw s (edgeOffset fine (s.reg 0x2301 4))) ∧
        (law_measurementsFollowTheControlLaw s t (edgeOffset fine (s.reg 0x2301 4)) 1000000000) ∧ (t.reg 0x2301 4 =
        (s.reg 0x2301 4 + 1000000000) % 2 ^ 64) ∧ (t.reg 0x2303 1 = fine % 2 ^ 64) ∧ (t.belfry.ppsWin = some (fine +
        64000000000)) ∧ (keptBut [.belfry, .dict] s t = true)) ∧
    (let s : State := od (bf S0b fun b => { b with st := .locked, ppsWin := some (1000000000 * 64 + 3 - 64000000) })
        [(0x230101, 2), (0x230104, 1000000000)];
    let fine : Nat := 1000000000 * 64 + 3;
    let t : State := after (.ppsInEdge fine) s;
    (s.source = 2) ∧ (s.reg 0x2D60 2 = 0) ∧ (s.reg 0x2301 4 ≠ 0) ∧ (s.ppsOutside fine = false) ∧
        (steady_measurementsFollowTheControlLaw s (edgeOffset fine (s.reg 0x2301 4))) ∧
        (law_measurementsFollowTheControlLaw s t (edgeOffset fine (s.reg 0x2301 4)) 1000000000) ∧ (t.reg 0x2301 4 =
        (s.reg 0x2301 4 + 1000000000) % 2 ^ 64) ∧ (t.reg 0x2303 1 = fine % 2 ^ 64) ∧ (t.belfry.ppsWin = some (fine +
        64000000000)) ∧ (keptBut [.belfry, .dict] s t = true)) ∧
    (let s : State := od (bf S0b fun b => { b with st := .locked }) [(0x230101, 2), (0x230104, 1000000000)];
    let fine : Nat := 1000000000 * 64 + 3;
    let t : State := after (.ppsInEdge fine) s;
    (t.reg 0x2303 1 = s.ppsInstant fine % 2 ^ 64) ∧ (s.source = 2 → s.reg 0x2D60 1 ≠ 1 → s.ppsOutside (s.ppsInstant
        fine) = false → t.belfry.missed = 0 ∧ t.belfry.offset = edgeOffset (s.ppsInstant fine) (if s.reg 0x2301 4 =
        0 then nearestSecond (s.ppsInstant fine / 64) else s.reg 0x2301 4))) :=
  ⟨by decide +kernel, by decide +kernel, by decide +kernel, by decide +kernel, by decide +kernel, by decide +kernel⟩
theorem test_MeasurementsFollowTheControlLaw_2 :
    (let s : State := od (bf S0b fun b => { b with st := .locked, offset := 7 }) [(0x230101, 1)];
    let fine : Nat := 1000000000 * 64 + 3;
    let t : State := after (.ppsInEdge fine) s;
    (t.reg 0x2303 1 = s.ppsInstant fine % 2 ^ 64) ∧ (s.source ≠ 2 ∨ s.reg 0x2D60 1 = 1 ∨ s.ppsOutside (s.ppsInstant
        fine) = true → t.belfry.offset = s.belfry.offset ∧ t.belfry.st = s.belfry.st ∧ keptBut (.belfry :: logAreas)
        s t = true)) ∧
    (let s : State := od (bf S0b fun b => { b with st := .locked }) [(0x230101, 3), (0x230202, 1000)];
    let q : Req := q0;
    let n : Nat := 7;
    let t : State := after (.correctionSerial q n) s;
    (WriteAllowed s q 0x2302 1 n = true) ∧ (s.reg 0x2302 1 ≠ n) ∧ (s.source = 3) ∧ (s.belfry.lastCorr = none) ∧
        (steady_measurementsFollowTheControlLaw s (signed 64 (s.reg 0x2302 2))) ∧
        (law_measurementsFollowTheControlLaw s t (signed 64 (s.reg 0x2302 2)) 1000000000) ∧ (t.reg 0x2302 1 = n) ∧
        (t.belfry.lastCorr = some (t.now : Int)) ∧ (t.reply q.owner = .done)) ∧
    (let s : State := od (bf S0b fun b => { b with st := .free, offset := 9 }) [(0x230101, 3), (0x230202, 1000)];
    let q : Req := q0;
    let n : Nat := 7;
    let t : State := after (.correctionSerial q n) s;
    (WriteAllowed s q 0x2302 1 n = true) ∧ (t.reg 0x2302 1 = n) ∧ (t.reply q.owner = .done) ∧ (s.reg 0x2302 1 ≠ n →
        s.source = 3 → s.reg 0x2D60 1 ≠ 1 → t.belfry.offset = signed 64 (s.reg 0x2302 2) ∧ t.belfry.missed = 0) ∧
        (s.reg 0x2302 1 = n → t.belfry.offset = s.belfry.offset)) ∧
    (let s : State := od (bf S0b fun b => { b with st := .free, offset := 9 }) [(0x230101, 3), (0x230202, 1000)];
    let q : Req := q0;
    let n : Nat := 0;
    let t : State := after (.correctionSerial q n) s;
    (WriteAllowed s q 0x2302 1 n = true) ∧ (t.reg 0x2302 1 = n) ∧ (t.reply q.owner = .done) ∧ (s.reg 0x2302 1 ≠ n →
        s.source = 3 → s.reg 0x2D60 1 ≠ 1 → t.belfry.offset = signed 64 (s.reg 0x2302 2) ∧ t.belfry.missed = 0) ∧
        (s.reg 0x2302 1 = n → t.belfry.offset = s.belfry.offset)) :=
  ⟨by decide +kernel, by decide +kernel, by decide +kernel, by decide +kernel⟩
theorem test_BelfrySourcesAndSteps_1 :
    (let s : State := od (bf S0b fun b => { b with st := .locked, term := 44, frozenCorr := some 33 }) [(0x230101,
        1)];
    let t : State := after .sourceTimeout s;
    (s.source ≠ 0) ∧ (s.belfry.st = .locked) ∧ (t.belfry.st = .holdover) ∧ (t.belfry.corr = s.belfry.term) ∧
        (t.corrNow = 33)) ∧
    (let s : State := od (bf S0b fun b => { b with st := .locked, term := 44 }) [(0x230101, 1)];
    let t : State := after .sourceTimeout s;
    (s.source ≠ 0) ∧ (s.belfry.st = .locked) ∧ (t.belfry.st = .holdover) ∧ (t.belfry.corr = s.belfry.term) ∧
        (t.corrNow = 44)) ∧
    (let s : State := od (bf S0b fun b => { b with st := .locking }) [(0x230101, 1)];
    let t : State := after .sourceTimeout s;
    (s.source ≠ 0) ∧ (s.belfry.st = .locking) ∧ (t.belfry.st = .free)) ∧
    (let s : State := od (bf S0b fun b => { b with st := .locked }) [(0x230101, 2), (0x230104, 1000000000)];
    let t : State := after .ppsWindowClose s;
    (s.source = 2) ∧ (s.reg 0x2301 4 ≠ 0) ∧ (s.belfry.missed = 0) ∧ (t.reg 0x2301 4 = (s.reg 0x2301 4 + 1000000000)
        % 2 ^ 64) ∧ (t.belfry.missed = 1) ∧ (t.belfry.st = s.belfry.st) ∧ (keptBut [.belfry, .dict] s t = true)) ∧
    (let s : State := od (bf S0b fun b => { b with st := .locked, missed := 1 }) [(0x230101, 2), (0x230104,
        1000000000)];
    let t : State := after .ppsWindowClose s;
    (s.source = 2) ∧ (s.belfry.missed = 1) ∧ (s.belfry.st = .locked) ∧ (t.belfry.st = .holdover) ∧ (t.belfry.corr =
        s.belfry.term)) ∧
    (let s : State := bf S0b fun b => { b with st := .holdover };
    let t : State := after .holdoverLimitExpiry s;
    (s.belfry.st = .holdover) ∧ (t.belfry.st = .free) ∧ (t.belfry.returnFrom = some (s.now, s.corrNow, s.termNow))) :=
  ⟨by decide +kernel, by decide +kernel, by decide +kernel, by decide +kernel, by decide +kernel, by decide +kernel⟩
theorem test_BelfrySourcesAndSteps_2 :
    (let s : State := bf S0b fun b => { b with st := .locked };
    let q : Req := q0;
    let v : Nat := 3;
    let t : State := after (.disciplineSourceWrite q v) s;
    (WriteAllowed s q 0x2301 1 v = true) ∧ (v ≠ 0) ∧ (v ≠ s.source) ∧ (t.source = v) ∧ (t.reply q.owner = .done) ∧
        (t.belfry.st = (if s.belfry.st = .locked then .locking else s.belfry.st)) ∧ (t.belfry.good = 0)) ∧
    (let s : State := od S0b [(0x230101, 1)];
    let x : Int := 1000001;
    let t0 : Nat := 2000;
    let t : State := after (.dcMeasurement x t0) s;
    (s.source = 1) ∧ (s.powered 16 = true) ∧ (s.reg 0x2D60 1 = 0) ∧ (s.entersLocking x = true) ∧ (1000000 <
        x.natAbs) ∧ (s.reg 0x2301 5 = 0) ∧ (s.anyArmed = false) ∧ (s.belfry.frozenCorr = none) ∧
        (s.belfry.returnFrom = none) ∧ (t.belfry.st = .locking) ∧ (t.belfry.offset = x) ∧ (t.now = (((max s.now t0 %
        2 ^ 64 : Nat) : Int) - Int.tdiv x 1000).toNat % 2 ^ 64) ∧ (t.belfry.corr = s.belfry.corr) ∧ (t.belfry.term =
        s.belfry.term)) ∧
    (let s : State := od (bf S0b fun b => { b with st := .locking, fresh := true }) [(0x230101, 1)];
    let x : Int := -5000000000;
    let t0 : Nat := 2000;
    let t : State := after (.dcMeasurement x t0) s;
    (s.source = 1) ∧ (s.powered 16 = true) ∧ (s.reg 0x2D60 1 = 0) ∧ (s.entersLocking x = true) ∧ (1000000 <
        x.natAbs) ∧ (s.reg 0x2301 5 = 0) ∧ (s.anyArmed = false) ∧ (s.belfry.frozenCorr = none) ∧
        (s.belfry.returnFrom = none) ∧ (t.belfry.st = .locking) ∧ (t.belfry.offset = x) ∧ (t.now = (((max s.now t0 %
        2 ^ 64 : Nat) : Int) - Int.tdiv x 1000).toNat % 2 ^ 64) ∧ (t.belfry.corr = s.belfry.corr) ∧ (t.belfry.term =
        s.belfry.term)) ∧
    (let s : State := od S0b [(0x2E3003, 2 ^ 63)];
    let q : Req := q0;
    let n : Nat := 7;
    let t : State := after (.belfryStep q n) s;
    (CommandTaken s q 0x2E30 n [] = true) ∧ (s.anyArmed = false) ∧ (s.belfry.frozenCorr = none) ∧ (t.now = s.reg
        0x2E30 3 % 2 ^ 64) ∧ (t.status 0x2E30 q.owner = 0) ∧ (∀ k, k < 24 → (t.bank k).qeBase = s.reg 0x2E30 3 % 2 ^
        64 / 2 ^ 22) ∧ (∀ tp, tp < 1536 → (t.vane tp).queue = [] ∧ (t.vane tp).armed = none ∧ (t.vane tp).window =
        none ∧ t.vaneQe tp = s.reg 0x2E30 3 % 2 ^ 64 / 2 ^ 22)) :=
  ⟨by decide +kernel, by decide +kernel, by decide +kernel, by decide +kernel⟩
theorem test_PpsOutMarksEverySecond :
    (let s : State := od S0b [(0x230106, 1)];
    let t : State := after .ppsOutRise s;
    (s.reg 0x2301 6 = 1) ∧ (s.powered 16 = true) ∧ (t.belfry.pps = true) ∧ (t.now % 1000000000 = 0) ∧ (s.now ≤
        18446744073000000000 → s.now ≤ t.now ∧ t.now < s.now + 1000000000) ∧ (t.belfry.ppsFall = t.now + 10000000) ∧
        (keptBut [.belfry] s t = true)) ∧
    (let s : State := od (bf S0b fun b => { b with tick := 1 }) [(0x230106, 1)];
    let t : State := after .ppsOutRise s;
    (s.reg 0x2301 6 = 1) ∧ (s.powered 16 = true) ∧ (t.belfry.pps = true) ∧ (t.now % 1000000000 = 0) ∧ (s.now ≤
        18446744073000000000 → s.now ≤ t.now ∧ t.now < s.now + 1000000000) ∧ (t.belfry.ppsFall = t.now + 10000000) ∧
        (keptBut [.belfry] s t = true)) ∧
    (let s : State := S0b;
    let t : State := after .ppsOutRise s;
    (s.reg 0x2301 6 ≠ 1) ∧ (t = s)) ∧
    (let s : State := bf S0b fun b => { b with pps := true, ppsFall := 10000000 };
    let t : State := after .ppsOutFall s;
    (s.belfry.pps = true) ∧ (t.belfry.pps = false) ∧ (t.now = max s.now s.belfry.ppsFall % 2 ^ 64) ∧ (keptBut
        [.belfry] s t = true)) ∧
    (let s : State := bf (od S0b [(0x230106, 1)]) fun b => { b with pps := true, ppsFall := 10000000 };
    let q : Req := q0;
    let t : State := after (.registerWrite q (.dict 0x2301 6) 0) s;
    (WriteAllowed s q 0x2301 6 0 = true) ∧ (t.belfry.pps = false) ∧ (t.reg 0x2301 6 = 0)) :=
  ⟨by decide +kernel, by decide +kernel, by decide +kernel, by decide +kernel, by decide +kernel⟩

/-! ### Witnesses of chapter 3 -/

abbrev others_bankWritesAndPatterns := fun (s t : State) (k : Nat) => ∀ j, j < 40 → j ≠ k → t.bank j = s.bank j
theorem test_BankWritesAndPatterns_1 :
    (let s : State := S0b;
    let q : Req := q0;
    let k : Nat := 23;
    let v : Nat := 0;
    let t : State := after (.bankModeWrite q k v) s;
    (v < 3) ∧ (k < 24) ∧ (WriteAllowed s q (0x2400 + k) 1 v = true) ∧ (v = 1 → (s.bank k).mode = 2 → s.bankArmed k =
        false) ∧ (v = 2 → (s.bank k).used = true) ∧ ((t.bank k).mode = v) ∧ ((t.bank k).faultParked = false) ∧ (v =
        0 → (t.bank k).parkedPins = BitVec.allOnes 64) ∧ (t.reply q.owner = .done) ∧ (others_bankWritesAndPatterns s
        t k) ∧ (keptBut (.belfry :: .banks :: .vanes :: answerAreas) s t = true)) ∧
    (let s : State := bk S0b 0 { used := true };
    let q : Req := q0;
    let k : Nat := 0;
    let v : Nat := 2;
    let t : State := after (.bankModeWrite q k v) s;
    (v < 3) ∧ (k < 24) ∧ (WriteAllowed s q (0x2400 + k) 1 v = true) ∧ (v = 1 → (s.bank k).mode = 2 → s.bankArmed k =
        false) ∧ (v = 2 → (s.bank k).used = true) ∧ ((t.bank k).mode = v) ∧ ((t.bank k).faultParked = false) ∧ (v =
        0 → (t.bank k).parkedPins = BitVec.allOnes 64) ∧ (t.reply q.owner = .done) ∧ (others_bankWritesAndPatterns s
        t k) ∧ (keptBut (.belfry :: .banks :: .vanes :: answerAreas) s t = true)) ∧
    (let s : State := bk S0b 0 { faultParked := true };
    let q : Req := q0;
    let k : Nat := 0;
    let v : Nat := 1;
    let t : State := after (.ioVoltageWrite q k v) s;
    (k < 24) ∧ (WriteAllowed s q (0x2400 + k) 2 v = true) ∧ ((t.bank k).code = v) ∧ ((t.bank k).vccoParked =
        !codeMatches v (s.bank k).mV) ∧ (t.reply q.owner = .done) ∧ (others_bankWritesAndPatterns s t k) ∧ (keptBut
        (.belfry :: .banks :: answerAreas) s t = true)) ∧
    (let s : State := bk S0b 23 { faultParked := true };
    let q : Req := q0;
    let k : Nat := 23;
    let v : Nat := 5;
    let t : State := after (.ioVoltageWrite q k v) s;
    (k < 24) ∧ (WriteAllowed s q (0x2400 + k) 2 v = true) ∧ ((t.bank k).code = v) ∧ ((t.bank k).vccoParked =
        !codeMatches v (s.bank k).mV) ∧ (t.reply q.owner = .done) ∧ (others_bankWritesAndPatterns s t k) ∧ (keptBut
        (.belfry :: .banks :: answerAreas) s t = true)) ∧
    (let s : State := bk S0b 0 { parkedPins := 7#64 };
    let q : Req := q0;
    let k : Nat := 0;
    let v : BitVec 64 := 0x8000000000000001#64;
    let t : State := after (.directOutputWrite q k false v) s;
    (k < 24) ∧ (WriteAllowed s q (0x2400 + k) 9 v.toNat = true) ∧ ((s.bank k).mode ≠ 2) ∧ ((t.bank k).oe = v) ∧
        ((t.bank k).level = (s.bank k).level) ∧ ((s.bank k).mode = 1 → (s.bank k).parked = false → (t.bank
        k).parkedPins = 0#64) ∧ (others_bankWritesAndPatterns s t k)) ∧
    (let s : State := S0b;
    let q : Req := q0;
    let k : Nat := 23;
    let v : BitVec 64 := 0x8000000000000001#64;
    let t : State := after (.directOutputWrite q k true v) s;
    (k < 24) ∧ (WriteAllowed s q (0x2400 + k) 0x0A v.toNat = true) ∧ ((s.bank k).mode ≠ 2) ∧ ((t.bank k).level = v)
        ∧ ((t.bank k).oe = (s.bank k).oe) ∧ (others_bankWritesAndPatterns s t k)) :=
  ⟨by decide +kernel, by decide +kernel, by decide +kernel, by decide +kernel, by decide +kernel, by decide +kernel⟩
theorem test_BankWritesAndPatterns_2 :
    (let s : State := od S0b [(0x24000D, 50), (0x24000E, 6), (0x24000F, 2)];
    let q : Req := q0;
    let k : Nat := 0;
    let v : Nat := 1;
    let t : State := after (.patternControlWrite q k v) s;
    (k < 24) ∧ (WriteAllowed s q (0x2400 + k) 0x10 v = true) ∧ (v ≠ 0) ∧ ((s.bank k).mode = 1) ∧ ((s.bank k).parked
        = false) ∧ (max s.now q.t ≤ s.reg (0x2400 + k) 0x0D) ∧ ((t.bank k).patCtl = v) ∧ ((t.bank k).patNext = 0) ∧
        ((t.bank k).patDue = s.reg (0x2400 + k) 0x0D) ∧ (others_bankWritesAndPatterns s t k)) ∧
    (let s : State := od (bk S0b 0 { patCtl := 1, patNext := 1, patDue := 50, pattern := [(1, 0x10000000000000003#128)] })
        [(0x24000D, 50), (0x24000E, 6), (0x24000F, 2)];
    let k : Nat := 0;
    let t : State := after (.patternEntryApply k) s;
    ((s.bank k).patCtl ≠ 0) ∧ ((s.bank k).patNext < s.reg (0x2400 + k) 0x0F) ∧ ((t.bank k).oe = (Mem.get (s.bank
        k).pattern (s.bank k).patNext).setWidth 64) ∧ ((t.bank k).level = (Mem.get (s.bank k).pattern (s.bank
        k).patNext >>> 64).setWidth 64) ∧ ((t.bank k).parkedPins = 0#64) ∧ ((t.bank k).patNext = (s.bank k).patNext
        + 1) ∧ ((t.bank k).patDue = (s.bank k).patDue + s.reg (0x2400 + k) 0x0E) ∧ (t.now = max s.now (s.bank
        k).patDue % 2 ^ 64) ∧ (others_bankWritesAndPatterns s t k) ∧ (keptBut [.belfry, .banks] s t = true)) ∧
    (let s : State := od (bk S0b 0 { patCtl := 1, patNext := 2, patDue := 50, oe := 3#64 }) [(0x24000D, 50),
        (0x24000E, 6), (0x24000F, 2)];
    let k : Nat := 0;
    let t : State := after (.patternRunEnd k) s;
    ((s.bank k).patCtl = 1) ∧ (s.reg (0x2400 + k) 0x0F ≤ (s.bank k).patNext) ∧ ((t.bank k).patCtl = 0) ∧ ((t.bank
        k).oe = (s.bank k).oe) ∧ ((t.bank k).level = (s.bank k).level) ∧ (others_bankWritesAndPatterns s t k) ∧
        (keptBut [.belfry, .banks] s t = true)) ∧
    (let s : State := bk S0b 0 { contention := 7#64 };
    let q : Req := q0;
    let k : Nat := 0;
    let m : BitVec 64 := 5#64;
    let t : State := after (.clearContention q k m) s;
    (k < 24) ∧ (WriteAllowed s q (0x2400 + k) 0x13 m.toNat = true) ∧ ((t.bank k).contention = (s.bank k).contention
        &&& ~~~m) ∧ (others_bankWritesAndPatterns s t k)) ∧
    (let s : State := bk (reg_ S0b 0 (run 0)) 0 { mode := 2 };
    let k : Nat := 0;
    let pin : Nat := 63;
    let pull : Nat := 2;
    let t0 : Nat := 4;
    let t : State := after (.bankControlWrite k pin pull t0) s;
    (s.fabricRuns (bankRegion k) = true) ∧ ((s.bank k).mode = 2) ∧ (Tab.get 99 (t.bank k).ctlPull pin = pull) ∧ (∀
        n, n < 40 → n ≠ pin → Tab.get 99 (t.bank k).ctlPull n = Tab.get 99 (s.bank k).ctlPull n) ∧
        (others_bankWritesAndPatterns s t k) ∧ (keptBut [.belfry, .banks] s t = true)) ∧
    (let s : State := bk (reg_ S0b 0 (run 0)) 0 { mode := 1 };
    let k : Nat := 0;
    let pin : Nat := 63;
    let pull : Nat := 2;
    let t0 : Nat := 4;
    let t : State := after (.bankControlWrite k pin pull t0) s;
    (s.fabricRuns (bankRegion k) = true) ∧ ((s.bank k).mode ≠ 2) ∧ (t.reg 0x2418 7 = sat32 (s.reg 0x2418 7 + 1)) ∧
        (keptBut [.belfry, .dict] s t = true)) :=
  ⟨by decide +kernel, by decide +kernel, by decide +kernel, by decide +kernel, by decide +kernel, by decide +kernel⟩
theorem test_BankWritesAndPatterns_3 :
    (let s : State := bk S0b 3 { code := 5, mode := 1 };
    let k : Nat := 3;
    let mV : Nat := 2900;
    let t0 : Nat := 4;
    let t : State := after (.vccoFault k mV t0) s;
    (codeMatches (s.bank k).code mV = false) ∧ ((s.bank k).parked = false) ∧ ((t.bank k).vccoParked = true) ∧
        ((t.bank k).mV = mV) ∧ ((t.bank k).parkedPins = BitVec.allOnes 64) ∧ ((t.bank k).patCtl = 0) ∧ ((t.bank
        k).mode = (s.bank k).mode) ∧ (others_bankWritesAndPatterns s t k) ∧ (keptBut (.belfry :: .banks :: .vanes ::
        logAreas) s t = true)) ∧
    (let s : State := bk S0b 3 { vccoParked := true, mV := 2900 };
    let k : Nat := 3;
    let mV : Nat := 3300;
    let t0 : Nat := 4;
    let t : State := after (.vccoRecovery k mV t0) s;
    (codeMatches (s.bank k).code mV = true) ∧ ((t.bank k).vccoParked = false) ∧ ((t.bank k).mV = mV) ∧ ((t.bank
        k).mode = (s.bank k).mode) ∧ (others_bankWritesAndPatterns s t k) ∧ (keptBut [.belfry, .banks] s t = true)) :=
  ⟨by decide +kernel, by decide +kernel⟩
abbrev tick_vanesAcceptEventWords := fun (s : State) (t0 : Nat) => (s.toChip.upTo t0).now
abbrev cycle_vanesAcceptEventWords := fun (s : State) (tp t0 : Nat) => (s.toChip.upTo t0).isle (bankRegion (tpBank
    tp))
abbrev ready_vanesAcceptEventWords := fun (s : State) (tp t0 : Nat) => s.vaneReady tp = true ∧ s.fabricRuns
    (bankRegion (tpBank tp)) = true ∧ (s.vane tp).accepted ≠ some (cycle_vanesAcceptEventWords s tp t0)
abbrev instant_vanesAcceptEventWords := fun (s : State) (tp : Nat) (w : BitVec 32) => (s.vaneQe tp * 2 ^ 22 + w.toNat
    % 2 ^ 22) * 64 + w.toNat / 2 ^ 22 % 64
theorem test_VanesAcceptEventWords :
    (let ready := fun (s : State) (tp t0 : Nat) => s.vaneReady tp = true ∧ s.fabricRuns (bankRegion (tpBank tp)) =
        true ∧ (s.vane tp).accepted ≠ some (cycle_vanesAcceptEventWords s tp t0);
    let s : State := bk (reg_ S0b 0 (run 0)) 0 { mode := 2, used := true };
    let tp : Nat := 0;
    let t0 : Nat := 5;
    let w : BitVec 32 := 0x20000020#32;
    let t : State := after (.vaneEventWord tp w t0) s;
    (ready s tp t0) ∧ (w.toNat / 2 ^ 28 ≠ 15) ∧ ((tick_vanesAcceptEventWords s t0 + 12) * 64 ≤
        instant_vanesAcceptEventWords s tp w) ∧ (instant_vanesAcceptEventWords s tp w ≤ (tick_vanesAcceptEventWords
        s t0 + 8388608) * 64) ∧ (∀ x ∈ (s.vane tp).queue, x.1 ≠ .epoch) ∧ ((t.vane tp).queue = (s.vane tp).queue ++
        [(actOf (w.toNat / 2 ^ 28), instant_vanesAcceptEventWords s tp w, w)]) ∧ ((t.vane tp).last = some
        (instant_vanesAcceptEventWords s tp w)) ∧ (t.now = tick_vanesAcceptEventWords s t0) ∧ (∀ j, j < 40 → j ≠ tp
        → t.vane j = s.vane j) ∧ (keptBut [.belfry, .vanes] s t = true)) ∧
    (let ready := fun (s : State) (tp t0 : Nat) => s.vaneReady tp = true ∧ s.fabricRuns (bankRegion (tpBank tp)) =
        true ∧ (s.vane tp).accepted ≠ some (cycle_vanesAcceptEventWords s tp t0);
    let s : State := bk (reg_ S0b 0 { run 0 with part := none }) 0 { mode := 2, used := true };
    let tp : Nat := 63;
    let t0 : Nat := 5;
    let w : BitVec 32 := 0x20000005#32;
    let t : State := after (.vaneEventWord tp w t0) s;
    (ready s tp t0) ∧ (w.toNat / 2 ^ 28 ≠ 15) ∧ (instant_vanesAcceptEventWords s tp w < (tick_vanesAcceptEventWords
        s t0 + 12) * 64) ∧ (s.regionPart (bankRegion (tpBank tp)) = none) ∧ (t.reg 0x2418 3 = sat32 (s.reg 0x2418 3
        + 1)) ∧ (t.vane tp = { s.vane tp with accepted := some (cycle_vanesAcceptEventWords s tp t0) }) ∧ (∀ j, j <
        40 → j ≠ tp → t.vane j = s.vane j) ∧ (keptBut [.belfry, .vanes, .dict] s t = true)) ∧
    (let s : State := vn (bk (reg_ S0b 0 (run 0)) 0 { mode := 2, used := true }) 0 { accepted := some 0 };
    let tp : Nat := 0;
    let t0 : Nat := 5;
    let w : BitVec 32 := 0x20000020#32;
    let t : State := after (.vaneEventWord tp w t0) s;
    ((s.vane tp).accepted = some (cycle_vanesAcceptEventWords s tp t0)) ∧ (t.vanes = s.vanes) ∧ (t.now =
        tick_vanesAcceptEventWords s t0) ∧ (keptBut [.belfry] s t = true)) ∧
    (let ready := fun (s : State) (tp t0 : Nat) => s.vaneReady tp = true ∧ s.fabricRuns (bankRegion (tpBank tp)) =
        true ∧ (s.vane tp).accepted ≠ some (cycle_vanesAcceptEventWords s tp t0);
    let s : State := bk (reg_ S0b 0 (run 0)) 0 { mode := 2, used := true };
    let tp : Nat := 0;
    let t0 : Nat := 5;
    let w : BitVec 32 := 0xF0000001#32;
    let t : State := after (.epoch tp w t0) s;
    (ready s tp t0) ∧ (w.toNat / 2 ^ 28 = 15) ∧ (w.toNat / 2 ^ 22 % 64 = 0) ∧ (w.toNat % 2 ^ 22 ≠ 0) ∧ (t.vaneQe tp
        = (s.vaneQe tp + w.toNat % 2 ^ 22) % 2 ^ 42) ∧ ((t.vane tp).last = (s.vane tp).last) ∧ (∀ j, j < 40 → j ≠ tp
        → t.vane j = s.vane j) ∧ (keptBut [.belfry, .vanes] s t = true)) :=
  ⟨by decide +kernel, by decide +kernel, by decide +kernel, by decide +kernel⟩

/-! ### Witnesses of chapter 4 -/

abbrev head_vaneActionsTakeEffectAtTheirInstant := fun (s : State) (tp : Nat) (a : Act) (i : Nat) => (s.vane
    tp).queue.head?.map (fun x => (x.1, x.2.1)) = some (a, i)
abbrev then__vaneActionsTakeEffectAtTheirInstant := fun (s : State) (tp : Nat) (a : Act) (i : Nat) => s.toChip.upTo
    ((s.vane tp).deskewed a i / 64)
abbrev ran_vaneActionsTakeEffectAtTheirInstant := fun (s t : State) (tp : Nat) (a : Act) (i : Nat) => (t.vane
    tp).queue = ((s.vane tp).queue.drop 1).dropWhile (fun x => x.1 == .epoch) ∧ t.now =
    (then__vaneActionsTakeEffectAtTheirInstant s tp a i).now ∧ (∀ j, j < 40 → j ≠ tp → t.vane j = s.vane j) ∧ keptBut
    [.belfry, .banks, .vanes] s t = true
abbrev free_vaneActionsTakeEffectAtTheirInstant := fun (s : State) (tp i : Nat) => (s.vane tp).reflex = false ∧
    s.paired (tpBank tp) (tpPos tp) = false ∧ s.tooSoon tp i = false ∧ ∀ x ∈ (s.vane tp).queue.tail, x.2.1 ≠ i
abbrev pin_vaneActionsTakeEffectAtTheirInstant := fun (t : State) (tp : Nat) (oe parked : Bool) => (t.bank (tpBank
    tp)).vOe.getLsbD (tpPos tp) = oe ∧ (t.bank (tpBank tp)).parkedPins.getLsbD (tpPos tp) = parked
abbrev room_vaneActionsTakeEffectAtTheirInstant := fun (s : State) (tp i : Nat) => (s.vane tp).lost = 0 ∧ (s.vane
    tp).fifo.length < 32 ∧ (s.vane tp).fifoEpoch = some (i / 64 / 2 ^ 22)
abbrev entered_vaneActionsTakeEffectAtTheirInstant := fun (s t : State) (tp kind : Nat) (level : Bool) (i : Nat) =>
    (t.vane tp).fifo = (s.vane tp).fifo ++ [capEntry kind level i (i / 64)]
theorem test_VaneActionsTakeEffectAtTheirInstant_1 :
    (let ran := fun (s t : State) (tp : Nat) (a : Act) (i : Nat) => (t.vane tp).queue = ((s.vane tp).queue.drop
        1).dropWhile (fun x => x.1 == .epoch) ∧ t.now = (then__vaneActionsTakeEffectAtTheirInstant s tp a i).now ∧
        (∀ j, j < 40 → j ≠ tp → t.vane j = s.vane j) ∧ keptBut [.belfry, .banks, .vanes] s t = true;
    let s : State := bk (vn (reg_ S0b 0 (run 0)) 0 { queue := [(.nop, 6400, 0#32), (.epoch, 0, 0xF0000001#32), (.nop, 7000, 0#32)] })
        0 { mode := 2, used := true };
    let tp : Nat := 0;
    let i : Nat := 6400;
    let t : State := after (.vaneNop tp) s;
    (head_vaneActionsTakeEffectAtTheirInstant s tp .nop i) ∧ (ran s t tp .nop i) ∧ (t.banks = s.banks)) ∧
    (let ran := fun (s t : State) (tp : Nat) (a : Act) (i : Nat) => (t.vane tp).queue = ((s.vane tp).queue.drop
        1).dropWhile (fun x => x.1 == .epoch) ∧ t.now = (then__vaneActionsTakeEffectAtTheirInstant s tp a i).now ∧
        (∀ j, j < 40 → j ≠ tp → t.vane j = s.vane j) ∧ keptBut [.belfry, .banks, .vanes] s t = true;
    let s : State := bk (vn (reg_ S0b 0 (run 0)) 63 { queue := [(.driveLow, 6400, 0#32), (.epoch, 0, 0xF0000001#32), (.nop, 7000, 0#32)] })
        0 { mode := 2, used := true };
    let tp : Nat := 63;
    let i : Nat := 6400;
    let t : State := after (.driveLow tp) s;
    (head_vaneActionsTakeEffectAtTheirInstant s tp .driveLow i) ∧ (free_vaneActionsTakeEffectAtTheirInstant s tp i)
        ∧ (ran s t tp .driveLow i) ∧ (pin_vaneActionsTakeEffectAtTheirInstant t tp true false) ∧ ((t.bank (tpBank
        tp)).vLevel.getLsbD (tpPos tp) = false)) ∧
    (let ran := fun (s t : State) (tp : Nat) (a : Act) (i : Nat) => (t.vane tp).queue = ((s.vane tp).queue.drop
        1).dropWhile (fun x => x.1 == .epoch) ∧ t.now = (then__vaneActionsTakeEffectAtTheirInstant s tp a i).now ∧
        (∀ j, j < 40 → j ≠ tp → t.vane j = s.vane j) ∧ keptBut [.belfry, .banks, .vanes] s t = true;
    let s : State := bk (vn (reg_ S0b 0 (run 0)) 0 { queue := [(.driveHigh, 6400, 0#32), (.epoch, 0, 0xF0000001#32), (.nop, 7000, 0#32)] })
        0 { mode := 2, used := true };
    let tp : Nat := 0;
    let i : Nat := 6400;
    let t : State := after (.driveHigh tp) s;
    (head_vaneActionsTakeEffectAtTheirInstant s tp .driveHigh i) ∧ (free_vaneActionsTakeEffectAtTheirInstant s tp i)
        ∧ (ran s t tp .driveHigh i) ∧ (pin_vaneActionsTakeEffectAtTheirInstant t tp true false) ∧ ((t.bank (tpBank
        tp)).vLevel.getLsbD (tpPos tp) = true)) ∧
    (let ran := fun (s t : State) (tp : Nat) (a : Act) (i : Nat) => (t.vane tp).queue = ((s.vane tp).queue.drop
        1).dropWhile (fun x => x.1 == .epoch) ∧ t.now = (then__vaneActionsTakeEffectAtTheirInstant s tp a i).now ∧
        (∀ j, j < 40 → j ≠ tp → t.vane j = s.vane j) ∧ keptBut [.belfry, .banks, .vanes] s t = true;
    let s : State := bk (vn (reg_ S0b 0 (run 0)) 0 { queue := [(.release, 6400, 0#32), (.epoch, 0, 0xF0000001#32), (.nop, 7000, 0#32)] })
        0 { mode := 2, used := true };
    let tp : Nat := 0;
    let i : Nat := 6400;
    let t : State := after (.release tp) s;
    (head_vaneActionsTakeEffectAtTheirInstant s tp .release i) ∧ (free_vaneActionsTakeEffectAtTheirInstant s tp i) ∧
        (ran s t tp .release i) ∧ (pin_vaneActionsTakeEffectAtTheirInstant t tp false false)) ∧
    (let ran := fun (s t : State) (tp : Nat) (a : Act) (i : Nat) => (t.vane tp).queue = ((s.vane tp).queue.drop
        1).dropWhile (fun x => x.1 == .epoch) ∧ t.now = (then__vaneActionsTakeEffectAtTheirInstant s tp a i).now ∧
        (∀ j, j < 40 → j ≠ tp → t.vane j = s.vane j) ∧ keptBut [.belfry, .banks, .vanes] s t = true;
    let s : State := bk (vn (reg_ S0b 0 (run 0)) 0 { queue := [(.park, 6400, 0#32), (.epoch, 0, 0xF0000001#32), (.nop, 7000, 0#32)] })
        0 { mode := 2, used := true };
    let tp : Nat := 0;
    let i : Nat := 6400;
    let t : State := after (.park tp) s;
    (head_vaneActionsTakeEffectAtTheirInstant s tp .park i) ∧ (free_vaneActionsTakeEffectAtTheirInstant s tp i) ∧
        (ran s t tp .park i) ∧ (pin_vaneActionsTakeEffectAtTheirInstant t tp (s.pinParkDrive tp).1 true)) ∧
    (let ran := fun (s t : State) (tp : Nat) (a : Act) (i : Nat) => (t.vane tp).queue = ((s.vane tp).queue.drop
        1).dropWhile (fun x => x.1 == .epoch) ∧ t.now = (then__vaneActionsTakeEffectAtTheirInstant s tp a i).now ∧
        (∀ j, j < 40 → j ≠ tp → t.vane j = s.vane j) ∧ keptBut [.belfry, .banks, .vanes] s t = true;
    let s : State := bk (vn (reg_ S0b 0 (run 0)) 0 { queue := [(.captureRise, 6400, 0#32), (.epoch, 0, 0xF0000001#32), (.nop, 7000, 0#32)] })
        0 { mode := 2, used := true };
    let tp : Nat := 0;
    let i : Nat := 6400;
    let t : State := after (.captureRise tp) s;
    (head_vaneActionsTakeEffectAtTheirInstant s tp .captureRise i) ∧ (ran s t tp .captureRise i) ∧ ((t.vane
        tp).armed = some (.rise, i)) ∧ (t.banks = s.banks)) :=
  ⟨by decide +kernel, by decide +kernel, by decide +kernel, by decide +kernel, by decide +kernel, by decide +kernel⟩
theorem test_VaneActionsTakeEffectAtTheirInstant_2 :
    (let ran := fun (s t : State) (tp : Nat) (a : Act) (i : Nat) => (t.vane tp).queue = ((s.vane tp).queue.drop
        1).dropWhile (fun x => x.1 == .epoch) ∧ t.now = (then__vaneActionsTakeEffectAtTheirInstant s tp a i).now ∧
        (∀ j, j < 40 → j ≠ tp → t.vane j = s.vane j) ∧ keptBut [.belfry, .banks, .vanes] s t = true;
    let s : State := bk (vn (reg_ S0b 0 (run 0)) 0 { queue := [(.captureFall, 6400, 0#32), (.epoch, 0, 0xF0000001#32), (.nop, 7000, 0#32)] })
        0 { mode := 2, used := true };
    let tp : Nat := 0;
    let i : Nat := 6400;
    let t : State := after (.captureFall tp) s;
    (head_vaneActionsTakeEffectAtTheirInstant s tp .captureFall i) ∧ (ran s t tp .captureFall i) ∧ ((t.vane
        tp).armed = some (.fall, i)) ∧ (t.banks = s.banks)) ∧
    (let ran := fun (s t : State) (tp : Nat) (a : Act) (i : Nat) => (t.vane tp).queue = ((s.vane tp).queue.drop
        1).dropWhile (fun x => x.1 == .epoch) ∧ t.now = (then__vaneActionsTakeEffectAtTheirInstant s tp a i).now ∧
        (∀ j, j < 40 → j ≠ tp → t.vane j = s.vane j) ∧ keptBut [.belfry, .banks, .vanes] s t = true;
    let s : State := bk (vn (reg_ S0b 0 (run 0)) 0 { queue := [(.captureAny, 6400, 0#32), (.epoch, 0, 0xF0000001#32), (.nop, 7000, 0#32)] })
        0 { mode := 2, used := true };
    let tp : Nat := 0;
    let i : Nat := 6400;
    let t : State := after (.captureAny tp) s;
    (head_vaneActionsTakeEffectAtTheirInstant s tp .captureAny i) ∧ (ran s t tp .captureAny i) ∧ ((t.vane tp).armed
        = some (.any, i)) ∧ (t.banks = s.banks)) ∧
    (let ran := fun (s t : State) (tp : Nat) (a : Act) (i : Nat) => (t.vane tp).queue = ((s.vane tp).queue.drop
        1).dropWhile (fun x => x.1 == .epoch) ∧ t.now = (then__vaneActionsTakeEffectAtTheirInstant s tp a i).now ∧
        (∀ j, j < 40 → j ≠ tp → t.vane j = s.vane j) ∧ keptBut [.belfry, .banks, .vanes] s t = true;
    let s : State := bk (vn (reg_ S0b 0 (run 0)) 0 { queue := [(.sample, 6400, 0#32), (.epoch, 0, 0xF0000001#32), (.nop, 7000, 0#32)], fifoEpoch := some 0, fifo := [7#32] })
        0 { mode := 2, used := true };
    let tp : Nat := 0;
    let i : Nat := 6400;
    let level : Bool := true;
    let t : State := after (.sample tp level) s;
    (head_vaneActionsTakeEffectAtTheirInstant s tp .sample i) ∧ (room_vaneActionsTakeEffectAtTheirInstant s tp i) ∧
        (ran s t tp .sample i) ∧ (entered_vaneActionsTakeEffectAtTheirInstant s t tp 2 level i) ∧ (t.banks =
        s.banks)) ∧
    (let ran := fun (s t : State) (tp : Nat) (a : Act) (i : Nat) => (t.vane tp).queue = ((s.vane tp).queue.drop
        1).dropWhile (fun x => x.1 == .epoch) ∧ t.now = (then__vaneActionsTakeEffectAtTheirInstant s tp a i).now ∧
        (∀ j, j < 40 → j ≠ tp → t.vane j = s.vane j) ∧ keptBut [.belfry, .banks, .vanes] s t = true;
    let s : State := bk (vn (reg_ S0b 0 (run 0)) 0 { queue := [(.disarm, 6400, 0#32), (.epoch, 0, 0xF0000001#32), (.nop, 7000, 0#32)], fifoEpoch := some 0, fifo := [7#32], armed := some (.rise, 3) })
        0 { mode := 2, used := true };
    let tp : Nat := 0;
    let i : Nat := 6400;
    let t : State := after (.disarm tp) s;
    (head_vaneActionsTakeEffectAtTheirInstant s tp .disarm i) ∧ (room_vaneActionsTakeEffectAtTheirInstant s tp i) ∧
        ((s.vane tp).armed.isSome = true) ∧ (ran s t tp .disarm i) ∧ (entered_vaneActionsTakeEffectAtTheirInstant s
        t tp 4 false i) ∧ ((t.vane tp).armed = none)) ∧
    (let ran := fun (s t : State) (tp : Nat) (a : Act) (i : Nat) => (t.vane tp).queue = ((s.vane tp).queue.drop
        1).dropWhile (fun x => x.1 == .epoch) ∧ t.now = (then__vaneActionsTakeEffectAtTheirInstant s tp a i).now ∧
        (∀ j, j < 40 → j ≠ tp → t.vane j = s.vane j) ∧ keptBut [.belfry, .banks, .vanes] s t = true;
    let s : State := bk (vn (reg_ S0b 0 (run 0)) 0 { queue := [(.windowLow, 6400, 0#32), (.epoch, 0, 0xF0000001#32), (.nop, 7000, 0#32)] })
        0 { mode := 2, used := true };
    let tp : Nat := 0;
    let i : Nat := 6400;
    let t : State := after (.windowLow tp false) s;
    (head_vaneActionsTakeEffectAtTheirInstant s tp .windowLow i) ∧ (ran s t tp .windowLow i) ∧ ((t.vane tp).window =
        some (false, false)) ∧ ((t.vane tp).fail = (s.vane tp).fail)) ∧
    (let ran := fun (s t : State) (tp : Nat) (a : Act) (i : Nat) => (t.vane tp).queue = ((s.vane tp).queue.drop
        1).dropWhile (fun x => x.1 == .epoch) ∧ t.now = (then__vaneActionsTakeEffectAtTheirInstant s tp a i).now ∧
        (∀ j, j < 40 → j ≠ tp → t.vane j = s.vane j) ∧ keptBut [.belfry, .banks, .vanes] s t = true;
    let s : State := bk (vn (reg_ S0b 0 (run 0)) 0 { queue := [(.windowHigh, 6400, 0#32), (.epoch, 0, 0xF0000001#32), (.nop, 7000, 0#32)] })
        0 { mode := 2, used := true };
    let tp : Nat := 0;
    let i : Nat := 6400;
    let t : State := after (.windowHigh tp true) s;
    (head_vaneActionsTakeEffectAtTheirInstant s tp .windowHigh i) ∧ (ran s t tp .windowHigh i) ∧ ((t.vane tp).window
        = some (true, false)) ∧ ((t.vane tp).fail = (s.vane tp).fail)) :=
  ⟨by decide +kernel, by decide +kernel, by decide +kernel, by decide +kernel, by decide +kernel, by decide +kernel⟩
theorem test_VaneActionsTakeEffectAtTheirInstant_3 :
    (let ran := fun (s t : State) (tp : Nat) (a : Act) (i : Nat) => (t.vane tp).queue = ((s.vane tp).queue.drop
        1).dropWhile (fun x => x.1 == .epoch) ∧ t.now = (then__vaneActionsTakeEffectAtTheirInstant s tp a i).now ∧
        (∀ j, j < 40 → j ≠ tp → t.vane j = s.vane j) ∧ keptBut [.belfry, .banks, .vanes] s t = true;
    let s : State := bk (vn (reg_ S0b 0 (run 0)) 0 { queue := [(.windowLow, 6400, 0#32), (.epoch, 0, 0xF0000001#32), (.nop, 7000, 0#32)], fifoEpoch := some 0, fifo := [7#32] })
        0 { mode := 2, used := true };
    let tp : Nat := 0;
    let i : Nat := 6400;
    let t : State := after (.windowLow tp true) s;
    (head_vaneActionsTakeEffectAtTheirInstant s tp .windowLow i) ∧ (room_vaneActionsTakeEffectAtTheirInstant s tp i)
        ∧ (ran s t tp .windowLow i) ∧ (entered_vaneActionsTakeEffectAtTheirInstant s t tp 5 true i) ∧ ((t.vane
        tp).window = some (false, true)) ∧ ((t.vane tp).fail = true)) ∧
    (let ran := fun (s t : State) (tp : Nat) (a : Act) (i : Nat) => (t.vane tp).queue = ((s.vane tp).queue.drop
        1).dropWhile (fun x => x.1 == .epoch) ∧ t.now = (then__vaneActionsTakeEffectAtTheirInstant s tp a i).now ∧
        (∀ j, j < 40 → j ≠ tp → t.vane j = s.vane j) ∧ keptBut [.belfry, .banks, .vanes] s t = true;
    let s : State := bk (vn (reg_ S0b 0 (run 0)) 0 { queue := [(.windowClose, 6400, 0#32), (.epoch, 0, 0xF0000001#32), (.nop, 7000, 0#32)], window := some (true, true) })
        0 { mode := 2, used := true };
    let tp : Nat := 0;
    let i : Nat := 6400;
    let e : Bool := true;
    let f : Bool := true;
    let t : State := after (.windowClose tp) s;
    (head_vaneActionsTakeEffectAtTheirInstant s tp .windowClose i) ∧ ((s.vane tp).window = some (e, f)) ∧ (ran s t
        tp .windowClose i) ∧ ((t.vane tp).window = none) ∧ ((∀ x ∈ (s.vane tp).winOut, x.1 ≤
        (then__vaneActionsTakeEffectAtTheirInstant s tp .windowClose i).isle (bankRegion (tpBank tp))) → (t.vane
        tp).winOut.getLast? = some ((then__vaneActionsTakeEffectAtTheirInstant s tp .windowClose i).isle (bankRegion
        (tpBank tp)) + 1, f))) ∧
    (let ran := fun (s t : State) (tp : Nat) (a : Act) (i : Nat) => (t.vane tp).queue = ((s.vane tp).queue.drop
        1).dropWhile (fun x => x.1 == .epoch) ∧ t.now = (then__vaneActionsTakeEffectAtTheirInstant s tp a i).now ∧
        (∀ j, j < 40 → j ≠ tp → t.vane j = s.vane j) ∧ keptBut [.belfry, .banks, .vanes] s t = true;
    let s : State := bk (vn (reg_ S0b 0 (run 0)) 0 { queue := [(.reflexArm, 6400, 0#32), (.epoch, 0, 0xF0000001#32), (.nop, 7000, 0#32)] })
        0 { mode := 2, used := true };
    let tp : Nat := 0;
    let i : Nat := 6400;
    let t : State := after (.reflexArm tp) s;
    (head_vaneActionsTakeEffectAtTheirInstant s tp .reflexArm i) ∧ (ran s t tp .reflexArm i) ∧ ((t.vane tp).reflex =
        true) ∧ ((t.vane tp).reflexAt = i) ∧ ((t.bank (tpBank tp)).parkedPins.getLsbD (tpPos tp) = false)) ∧
    (let ran := fun (s t : State) (tp : Nat) (a : Act) (i : Nat) => (t.vane tp).queue = ((s.vane tp).queue.drop
        1).dropWhile (fun x => x.1 == .epoch) ∧ t.now = (then__vaneActionsTakeEffectAtTheirInstant s tp a i).now ∧
        (∀ j, j < 40 → j ≠ tp → t.vane j = s.vane j) ∧ keptBut [.belfry, .banks, .vanes] s t = true;
    let s : State := reg_ (bk (vn (reg_ S0b 0 (run 0)) 0 { queue := [(.reflexDisarm, 6400, 0#32), (.epoch, 0, 0xF0000001#32), (.nop, 7000, 0#32)], reflex := true })
        0 { mode := 2, used := true }) 0 { run 0 with rfx := [(0, (true, true))] };
    let tp : Nat := 0;
    let i : Nat := 6400;
    let t : State := after (.reflexDisarm tp) s;
    (head_vaneActionsTakeEffectAtTheirInstant s tp .reflexDisarm i) ∧ ((s.vane tp).reflex = true) ∧ (ran s t tp
        .reflexDisarm i) ∧ ((t.vane tp).reflex = false) ∧ ((t.bank (tpBank tp)).vOe.getLsbD (tpPos tp) =
        ((then__vaneActionsTakeEffectAtTheirInstant s tp .reflexDisarm i).rfxDrive tp).1) ∧ ((t.bank (tpBank
        tp)).vLevel.getLsbD (tpPos tp) = ((then__vaneActionsTakeEffectAtTheirInstant s tp .reflexDisarm i).rfxDrive
        tp).2)) ∧
    (let ran := fun (s t : State) (tp : Nat) (a : Act) (i : Nat) => (t.vane tp).queue = ((s.vane tp).queue.drop
        1).dropWhile (fun x => x.1 == .epoch) ∧ t.now = (then__vaneActionsTakeEffectAtTheirInstant s tp a i).now ∧
        (∀ j, j < 40 → j ≠ tp → t.vane j = s.vane j) ∧ keptBut [.belfry, .banks, .vanes] s t = true;
    let s : State := od (bk (vn (reg_ S0b 0 (run 0)) 2 { queue := [(.driveHigh, 6400, 0#32), (.epoch, 0, 0xF0000001#32), (.nop, 7000, 0#32)] })
        0 { mode := 2, used := true }) [(0x240008, 2)];
    let tp : Nat := 2;
    let i : Nat := 6400;
    let t : State := after (.driveHigh tp) s;
    (head_vaneActionsTakeEffectAtTheirInstant s tp .driveHigh i) ∧ ((s.vane tp).reflex = false) ∧ (s.paired (tpBank
        tp) (tpPos tp) = true) ∧ (tpPos tp % 2 = 0) ∧ (s.tooSoon tp i = false) ∧ (∀ x ∈ (s.vane tp).queue.tail,
        x.2.1 ≠ i) ∧ (ran s t tp .driveHigh i) ∧ (pin_vaneActionsTakeEffectAtTheirInstant t tp true false) ∧
        ((t.bank (tpBank tp)).vLevel.getLsbD (tpPos tp) = true) ∧ ((t.bank (tpBank tp)).vOe.getLsbD (tpPos tp + 1) =
        true) ∧ ((t.bank (tpBank tp)).vLevel.getLsbD (tpPos tp + 1) = false)) ∧
    (let s : State := od (bk (vn (reg_ S0b 0 (run 0)) 3 { queue := [(.driveHigh, 6400, 0#32), (.epoch, 0, 0xF0000001#32), (.nop, 7000, 0#32)] })
        0 { mode := 2, used := true }) [(0x240008, 2)];
    let tp : Nat := 3;
    let i : Nat := 6400;
    let t : State := after (.driveHigh tp) s;
    (head_vaneActionsTakeEffectAtTheirInstant s tp .driveHigh i) ∧ (s.paired (tpBank tp) (tpPos tp) = true) ∧ (tpPos
        tp % 2 = 1) ∧ ((t.bank (tpBank tp)).contention.getLsbD (tpPos tp) = true) ∧ ((t.bank (tpBank tp)).vOe =
        (s.bank (tpBank tp)).vOe) ∧ ((t.bank (tpBank tp)).vLevel = (s.bank (tpBank tp)).vLevel) ∧ (t.reg 0x2418 7 =
        sat32 (s.reg 0x2418 7 + 1))) :=
  ⟨by decide +kernel, by decide +kernel, by decide +kernel, by decide +kernel, by decide +kernel, by decide +kernel⟩
abbrev room_vaneCapturesAndCalibration := fun (s : State) (tp i : Nat) => (s.vane tp).lost = 0 ∧ (s.vane
    tp).fifo.length < 32 ∧ (s.vane tp).fifoEpoch = some (i / 64 / 2 ^ 22)
abbrev others_vaneCapturesAndCalibration := fun (s t : State) (tp : Nat) => ∀ j, j < 40 → j ≠ tp → t.vane j = s.vane j
abbrev cycle_vaneCapturesAndCalibration := fun (s : State) (tp t0 : Nat) => (s.toChip.upTo t0).isle (bankRegion
    (tpBank tp))
theorem test_VaneCapturesAndCalibration_1 :
    (let s : State := vn (reg_ S0b 0 (run 0)) 0 { armed := some (.any, 640), fifoEpoch := some 0, fifo := [7#32] };
    let tp : Nat := 0;
    let fine : Nat := 640;
    let from_ : Nat := 640;
    let e : EdgeSel := .any;
    let rising : Bool := false;
    let t : State := after (.captureEdge tp rising fine) s;
    ((s.vane tp).armed = some (e, from_)) ∧ (e.matches rising = true) ∧ (from_ ≤ s.recorded tp fine) ∧
        (room_vaneCapturesAndCalibration s tp (s.recorded tp fine)) ∧ ((t.vane tp).armed = none) ∧ ((t.vane tp).fifo
        = (s.vane tp).fifo ++ [capEntry (if rising then 0 else 1) rising (s.recorded tp fine) (s.recorded tp fine /
        64)]) ∧ (others_vaneCapturesAndCalibration s t tp) ∧ (keptBut [.belfry, .vanes] s t = true)) ∧
    (let s : State := vn (reg_ S0b 0 (run 0)) 0 { window := some (true, false), fifoEpoch := some 0, fifo := [7#32] };
    let tp : Nat := 0;
    let fine : Nat := 640;
    let ps : Nat := 500;
    let e : Bool := true;
    let t : State := after (.windowDeviation tp fine (!e) ps) s;
    ((s.vane tp).window = some (e, false)) ∧ (500 ≤ ps) ∧ (room_vaneCapturesAndCalibration s tp (s.recorded tp
        fine)) ∧ ((t.vane tp).fail = true) ∧ ((t.vane tp).window = some (e, true)) ∧ ((t.vane tp).fifo = (s.vane
        tp).fifo ++ [capEntry 5 (!e) (s.recorded tp fine) (s.recorded tp fine / 64)]) ∧
        (others_vaneCapturesAndCalibration s t tp)) ∧
    (let s : State := vn (reg_ S0b 0 (run 0)) 0 { fifo := [1#32, 2#32] };
    let tp : Nat := 0;
    let t0 : Nat := 4;
    let t : State := after (.capturePop tp t0) s;
    (s.fabricRuns (bankRegion (tpBank tp)) = true) ∧ (((s.vane tp).popped.map fun x => x.1) ≠ some
        (cycle_vaneCapturesAndCalibration s tp t0)) ∧ ((t.vane tp).fifo = (s.vane tp).fifo.tail) ∧
        (others_vaneCapturesAndCalibration s t tp) ∧ (keptBut [.belfry, .vanes] s t = true)) ∧
    (let s : State := vn (reg_ S0b 0 (run 0)) 0 { fail := true };
    let tp : Nat := 0;
    let t0 : Nat := 4;
    let t : State := after (.vaneFailClear tp t0) s;
    (s.fabricRuns (bankRegion (tpBank tp)) = true) ∧ ((t.vane tp).fail = ((s.vane tp).fail && (s.vane tp).failAt ==
        some (cycle_vaneCapturesAndCalibration s tp t0))) ∧ (others_vaneCapturesAndCalibration s t tp) ∧ (keptBut
        [.belfry, .vanes] s t = true)) ∧
    (let s : State := od (vn (reg_ S0b 0 (run 0)) 0 { line := true }) [(0x241801, 1)];
    let tp : Nat := 0;
    let t : State := after (.calibrationRun tp) s;
    (s.reg 0x2418 1 = 1) ∧ ((t.vane tp).calibrated = true) ∧ (others_vaneCapturesAndCalibration s t tp) ∧ (keptBut
        [.vanes] s t = true)) ∧
    (let s : State := vn (reg_ S0b 0 (run 0)) 0 { calibrated := true, degraded := true };
    let tp : Nat := 0;
    let t : State := after (.lineSwitch tp) s;
    ((s.vane tp).calibrated = true) ∧ (s.tickFree tp = true) ∧ ((t.vane tp).line = !(s.vane tp).line) ∧ ((t.vane
        tp).calibrated = false) ∧ ((t.vane tp).degraded = false) ∧ (others_vaneCapturesAndCalibration s t tp) ∧
        (keptBut [.vanes] s t = true)) :=
  ⟨by decide +kernel, by decide +kernel, by decide +kernel, by decide +kernel, by decide +kernel, by decide +kernel⟩
theorem test_VaneCapturesAndCalibration_2 :
    (let s : State := vn (reg_ S0b 0 (run 0)) 0 { calibrated := true };
    let tp : Nat := 0;
    let t : State := after (.calibrationDeferred tp) s;
    ((s.vane tp).calibrated = true) ∧ ((s.vane tp).deferred = false) ∧ ((t.vane tp).deferred = true) ∧
        (others_vaneCapturesAndCalibration s t tp) ∧ (keptBut (.vanes :: logAreas) s t = true)) ∧
    (let s : State := S0b;
    let tp : Nat := 1535;
    let t : State := after (.calibrationLimit tp) s;
    ((s.vane tp).degraded = false) ∧ (s.log.pending < 256) ∧ ((t.vane tp).degraded = true) ∧
        (others_vaneCapturesAndCalibration s t tp) ∧ (t.log = s.log.push (s.entry (bankEv (tpBank tp) 8 3 false tp
        0) false))) :=
  ⟨by decide +kernel, by decide +kernel⟩

/-! ### Witnesses of chapter 5 -/

abbrev live_slotMissesBreakTheContract := fun (s : State) (r p t0 : Nat) => r < 32 ∧ p < 8 ∧ (s.region r).part = some
    p ∧ (s.toChip.upTo t0).checksSlots r = true
abbrev preceded_slotMissesBreakTheContract := fun (s : State) (r t0 : Nat) (m : MissInfo) => s.pending.any
    ((s.toChip.upTo t0).precedes r m.slot)
theorem test_SlotMissesBreakTheContract :
    (let s : State := F0;
    let r : Nat := 1;
    let p : Nat := 0;
    let t0 : Nat := 100;
    let m : MissInfo := { cause := 4, slot := 7, tag := 9, lower := 1, cycle := 3 };
    let t : State := after (.slotMiss r m t0) s;
    (live_slotMissesBreakTheContract s r p t0) ∧ ((s.part p).status = .armed ∨ (s.part p).status = .broken) ∧
        ((t.region r).lastMiss.map (fun x => (x.cause, x.slot, x.tag, x.tick)) = some (m.cause, m.slot, m.tag,
        (s.toChip.upTo t0).tbCount r)) ∧ (t.reg (0x2530 + r) 8 = m.cause) ∧ (t.dev.st = s.dev.st)) ∧
    (let s : State := F0;
    let r : Nat := 1;
    let p : Nat := 0;
    let t0 : Nat := 100;
    let m : MissInfo := { cause := 4, slot := 7, tag := 9, lower := 1, cycle := 3 };
    let t : State := after (.slotMiss r m t0) s;
    (live_slotMissesBreakTheContract s r p t0) ∧ ((s.part p).status = .armed) ∧ (preceded_slotMissesBreakTheContract
        s r t0 m = false) ∧ ((s.region r).fenced = false) ∧ ((t.region r).fenced = true) ∧ ((t.part p).status =
        .broken) ∧ (t.reg (0x2500 + r) 6 = evCode 3 6 r (0x100 + m.cause)) ∧ (∀ j, j < 40 → j ≠ r → (t.region
        j).fenced = (s.region j).fenced)) ∧
    (let s : State := rb F0 { P0 with status := .broken };
    let r : Nat := 0;
    let p : Nat := 0;
    let t0 : Nat := 100;
    let m : MissInfo := { cause := 4, slot := 7, tag := 9, lower := 1, cycle := 3 };
    let t : State := after (.slotMiss r m t0) s;
    (live_slotMissesBreakTheContract s r p t0) ∧ (s.isArmed 0x2D62 m.cause r = false) ∧ ((s.part p).status = .broken
        ∨ (s.part p).status = .armed ∧ preceded_slotMissesBreakTheContract s r t0 m = true) ∧ (t.reg (0x2521 + p)
        0x0C = sat32 (s.reg (0x2521 + p) 0x0C + 1)) ∧ ((t.region r).fenced = (s.region r).fenced) ∧ (t.parts =
        s.parts) ∧ (keptBut [.belfry, .dict, .regions, .lanes, .dbg] s t = true)) ∧
    (let s : State := { F0 with pending := [.slotMiss 0 { cause := 4, slot := 7, tag := 9, lower := 1, cycle := 3 } 100] };
    let r : Nat := 1;
    let p : Nat := 0;
    let t0 : Nat := 100;
    let m : MissInfo := { cause := 4, slot := 7, tag := 9, lower := 1, cycle := 3 };
    let t : State := after (.slotMiss r m t0) s;
    (live_slotMissesBreakTheContract s r p t0) ∧ (s.isArmed 0x2D62 m.cause r = false) ∧ ((s.part p).status = .broken
        ∨ (s.part p).status = .armed ∧ preceded_slotMissesBreakTheContract s r t0 m = true) ∧ (t.reg (0x2521 + p)
        0x0C = sat32 (s.reg (0x2521 + p) 0x0C + 1)) ∧ ((t.region r).fenced = (s.region r).fenced) ∧ (t.parts =
        s.parts) ∧ (keptBut [.belfry, .dict, .regions, .lanes, .dbg] s t = true)) ∧
    (let s : State := S0b;
    let r : Nat := 31;
    let t0 : Nat := 100;
    let m : MissInfo := { cause := 4, slot := 7, tag := 9, lower := 1, cycle := 3 };
    let t : State := after (.slotMiss r m t0) s;
    (s.isArmed 0x2D62 m.cause r = false) ∧ ((s.region r).part = none ∨ (s.toChip.upTo t0).checksSlots r = false) ∧
        (keptBut [.belfry] s t = true)) ∧
    (let s : State := fr 0 { run 0 with halted := true };
    let r : Nat := 0;
    let t0 : Nat := 100;
    let m : MissInfo := { cause := 4, slot := 7, tag := 9, lower := 1, cycle := 3 };
    let t : State := after (.slotMiss r m t0) s;
    (s.isArmed 0x2D62 m.cause r = false) ∧ ((s.region r).part = none ∨ (s.toChip.upTo t0).checksSlots r = false) ∧
        (keptBut [.belfry] s t = true)) :=
  ⟨by decide +kernel, by decide +kernel, by decide +kernel, by decide +kernel, by decide +kernel, by decide +kernel⟩
theorem test_RearmRestoresTheContract :
    (let s : State := rb F0 { P0 with status := .broken };
    let q : Req := q1;
    let n : Nat := 4;
    let p : Nat := 0;
    let t : State := after (.rearm q n p 0) s;
    (CommandTaken s q 0x2E25 n [(3, p), (4, 0)] = true) ∧ (s.dev.st = .full) ∧ ((s.part p).status = .broken) ∧ (∀ r
        ∈ s.partRegions p, (s.region r).fenced = false ∧ (s.region r).halted = false ∧ (s.region r).safeBlocks =
        0#64) ∧ ((t.cmd (cmdKey 0x2E25)).busy = some q.owner ∧ t.status 0x2E25 q.owner = 1) ∧ ((t.part p).rearmAt =
        some ((max s.now q.t % 2 ^ 64 / 2 ^ (s.part p).k + 1) * 2 ^ (s.part p).k)) ∧ ((t.part p).status = .broken) ∧
        (∀ j, j < 40 → j ≠ p → t.part j = s.part j) ∧ (keptBut (.belfry :: .parts :: answerAreas) s t = true)) ∧
    (let s : State := cm (rb F0 { P0 with status := .broken, rearmAt := some 2048 }) 0x2E25 { busy := some 1 };
    let p : Nat := 0;
    let due : Nat := 2048;
    let o : Nat := 1;
    let t : State := after (.rearmBoundary p) s;
    (p < 8) ∧ ((s.part p).rearmAt = some due) ∧ ((s.cmd 0x2E25).busy = some o) ∧ ((t.part p).status = .armed) ∧
        ((t.part p).firstMiss = none) ∧ ((t.part p).rearmAt = none) ∧ (t.reg (0x2521 + p) 0x0C = 0) ∧ (t.reg (0x2521
        + p) 4 = due / 2 ^ (s.part p).k) ∧ ((t.cmd 0x2E25).busy = none) ∧ (t.status 0x2E25 o = 0) ∧ (t.now = max
        s.now due % 2 ^ 64) ∧ (∀ j, j < 40 → j ≠ p → t.part j = s.part j) ∧ (keptBut (.belfry :: .parts :: logAreas)
        s t = true)) :=
  ⟨by decide +kernel, by decide +kernel⟩
theorem test_IslandsUnlockAndRestart_1 :
    (let s : State := F0;
    let r : Nat := 1;
    let d : Nat := 7;
    let t0 : Nat := 10;
    let t : State := after (.islandUnlock r d t0) s;
    (r < 32) ∧ (d ≠ 2) ∧ ((s.region r).halted = false ∨ d ≠ 1) ∧ ((s.region r).fenced = false) ∧ ((t.region
        r).fenced = true) ∧ ((t.region r).unlock = true) ∧ (t.reg (0x2500 + r) 7 = sat32 (s.reg (0x2500 + r) 7 + 1))
        ∧ (t.reg (0x2500 + r) 6 = evCode 3 5 r 1) ∧ (t.dev.st = s.dev.st)) ∧
    (let s : State := S0b;
    let r : Nat := 31;
    let d : Nat := 7;
    let t0 : Nat := 10;
    let t : State := after (.islandUnlock r d t0) s;
    (r < 32) ∧ (d ≠ 2) ∧ ((s.region r).halted = false ∨ d ≠ 1) ∧ ((s.region r).fenced = false) ∧ ((t.region
        r).fenced = true) ∧ ((t.region r).unlock = true) ∧ (t.reg (0x2500 + r) 7 = sat32 (s.reg (0x2500 + r) 7 + 1))
        ∧ (t.reg (0x2500 + r) 6 = evCode 3 5 r 1) ∧ (t.dev.st = s.dev.st)) ∧
    (let s : State := reg_ S0b 31 { part := none, halted := true };
    let r : Nat := 31;
    let t0 : Nat := 9;
    let t : State := after (.islandUnlock r 1 t0) s;
    ((s.region r).halted = true) ∧ (keptBut [.belfry] s t = true)) ∧
    (let s : State := reg_ S0b 31 { part := none, fenced := true };
    let q : Req := q0;
    let n : Nat := 4;
    let r : Nat := 31;
    let t : State := after (.islandRestart q n r 0) s;
    (CommandTaken s q 0x2E05 n [(3, r), (4, 0)] = true) ∧ (s.serving = true) ∧ ((s.region r).fenced = true) ∧
        ((s.region r).halted = false) ∧ (s.causePresent r = false) ∧ (s.tabledPart r = none) ∧ ((t.cmd (cmdKey
        0x2E05)).busy = some q.owner ∧ t.status 0x2E05 q.owner = 1) ∧ ((t.region r).inReset = true) ∧ ((t.region
        r).standby = .locking (s.region r).m) ∧ ((t.region r).restartAt.isSome = true) ∧ ((t.region r).fenced =
        true)) ∧
    (let s : State := reg_ S0b 31 { part := none, fenced := true, standby := .locking 80, restartAt := some 0 };
    let r : Nat := 31;
    let m : Nat := 80;
    let t : State := after (.standbyLockDone r) s;
    ((s.region r).standby = .locking m) ∧ (s.isArmed 0x2DC0 3 0 = false) ∧ (s.tabledPart r = none) ∧ ((s.region
        r).restartAt.isSome = true) ∧ ((t.region r).standby = .locked m) ∧ ((t.region r).restartAt = some (((s.now *
        8 / (s.region r).m + 2) * (s.region r).m + 7) / 8)) ∧ (∀ j, j < 40 → j ≠ r → t.region j = s.region j) ∧
        (keptBut [.regions] s t = true)) ∧
    (let s : State := bf (reg_ F0 1 { run 1 with fenced := true, standby := .locking 80, restartAt := some 4096 })
        fun b => { b with tick := 4000 };
    let r : Nat := 1;
    let m : Nat := 80;
    let p : Nat := 0;
    let due : Nat := 4096;
    let t : State := after (.standbyLockDone r) s;
    ((s.region r).standby = .locking m) ∧ (s.isArmed 0x2DC0 3 0 = false) ∧ (s.tabledPart r = some p) ∧ ((s.region
        r).restartAt = some due) ∧ ((t.region r).standby = .locked m) ∧ ((t.region r).restartAt = some (if due <
        s.now then (s.now / 2 ^ (s.part p).k + 1) * 2 ^ (s.part p).k else due)) ∧ (keptBut [.regions] s t = true)) :=
  ⟨by decide +kernel, by decide +kernel, by decide +kernel, by decide +kernel, by decide +kernel, by decide +kernel⟩
theorem test_IslandsUnlockAndRestart_2 :
    (let s : State := bf (reg_ F0 1 { run 1 with fenced := true, standby := .locking 80, restartAt := some 4096 })
        fun b => { b with tick := 5000 };
    let r : Nat := 1;
    let m : Nat := 80;
    let p : Nat := 0;
    let due : Nat := 4096;
    let t : State := after (.standbyLockDone r) s;
    ((s.region r).standby = .locking m) ∧ (s.isArmed 0x2DC0 3 0 = false) ∧ (s.tabledPart r = some p) ∧ ((s.region
        r).restartAt = some due) ∧ ((t.region r).standby = .locked m) ∧ ((t.region r).restartAt = some (if due <
        s.now then (s.now / 2 ^ (s.part p).k + 1) * 2 ^ (s.part p).k else due)) ∧ (keptBut [.regions] s t = true)) ∧
    (let s : State := cm (reg_ S0b 31 { part := none, fenced := true, standby := .locking 80, restartAt := some 0 })
        0x2E05 { busy := some 1 };
    let r : Nat := 31;
    let m : Nat := 80;
    let due : Nat := 0;
    let o : Nat := 1;
    let t : State := after (.standbyLockTimeout r) s;
    ((s.region r).standby = .locking m) ∧ ((s.region r).restartAt = some due) ∧ ((s.cmd 0x2E05).busy = some o) ∧
        ((t.region r).restartAt = none) ∧ (t.status 0x2E05 o = 5) ∧ ((t.cmd 0x2E05).busy = none) ∧ ((t.region
        r).fenced = (s.region r).fenced)) ∧
    (let s : State := cm (reg_ S0b 31 { part := none, fenced := true, standby := .locked 80, restartAt := some 50 })
        0x2E05 { busy := some 1 };
    let r : Nat := 31;
    let m : Nat := 80;
    let due : Nat := 50;
    let o : Nat := 1;
    let t : State := after (.islandRestartRelease r) s;
    ((s.region r).standby = .locked m) ∧ ((s.region r).restartAt = some due) ∧ ((s.cmd 0x2E05).busy = some o) ∧
        (s.inject.armed = []) ∧ ((t.region r).fenced = false) ∧ ((t.region r).inReset = false) ∧ ((t.region
        r).unlock = false) ∧ ((t.region r).restartAt = none) ∧ ((t.region r).released = ((s.toChip.upTo
        due).startIsle r).isle r) ∧ ((t.region r).phase = some s.free) ∧ (∀ k ∈ regionBanks r, (t.bank
        k).faultParked = false) ∧ (t.status 0x2E05 o = 0) ∧ ((t.cmd 0x2E05).busy = none) ∧ (∀ j, j < 40 → j ≠ r →
        t.region j = s.region j)) :=
  ⟨by decide +kernel, by decide +kernel, by decide +kernel⟩
abbrev others_tokensCrossBetweenRegions := fun (s t : State) (l : Lane) => lanesKept s t l = true
abbrev cycle_tokensCrossBetweenRegions := fun (s : State) (r t0 : Nat) => (s.toChip.upTo t0).isle r
theorem test_TokensCrossBetweenRegions_1 :
    (let s : State := fr 0 { run 0 with slots := [slot false 0 50 1 (512 + 3) 0] };
    let l : Lane := E0;
    let v : Bool := true;
    let d : BitVec 32 := 7#32;
    let n : Nat := 1;
    let t0 : Nat := 100;
    let t : State := after (.scheduledTokenSend l v d t0) s;
    (neighbor l.r l.side = some n) ∧ (s.fabricRuns l.r = true) ∧ (((s.toChip.upTo t0).slotAt l.r 1 (laneRes
        l)).isSome = true) ∧ ((s.lane l).sent ≠ some (cycle_tokensCrossBetweenRegions s l.r t0)) ∧ ((s.region
        n).fenced = false) ∧ ((t.lane l).sent = some (cycle_tokensCrossBetweenRegions s l.r t0)) ∧ ((t.lane
        l).inFlight = (if (s.region n).inReset then (s.lane l).inFlight else (s.lane l).inFlight ++ [{ data := d, valid := v, due := (s.toChip.upTo t0).releaseCycle l.r n }]))
        ∧ (others_tokensCrossBetweenRegions s t l) ∧ (keptBut [.belfry, .lanes] s t = true)) ∧
    (let s : State := reg_ (fr 0 { run 0 with slots := [slot false 0 50 1 (512 + 3) 0] }) 1 { run 1 with fenced := true };
    let l : Lane := E0;
    let v : Bool := true;
    let d : BitVec 32 := 7#32;
    let n : Nat := 1;
    let t0 : Nat := 100;
    let t : State := after (.scheduledTokenSend l v d t0) s;
    (neighbor l.r l.side = some n) ∧ (s.fabricRuns l.r = true) ∧ (((s.toChip.upTo t0).slotAt l.r 1 (laneRes
        l)).isSome = true) ∧ ((s.lane l).sent ≠ some (cycle_tokensCrossBetweenRegions s l.r t0)) ∧ ((s.region
        n).fenced = true) ∧ (t.reg (0x2500 + l.r) 0x0A = sat32 (s.reg (0x2500 + l.r) 0x0A + 1)) ∧ ((t.lane
        l).inFlight = (s.lane l).inFlight) ∧ (others_tokensCrossBetweenRegions s t l) ∧ (keptBut [.belfry, .lanes,
        .dict] s t = true)) ∧
    (let s : State := ln (fr 0 { run 0 with slots := [slot false 0 50 1 (512 + 3) 0] }) E0 { sent := some 10 };
    let l : Lane := E0;
    let v : Bool := true;
    let d : BitVec 32 := 7#32;
    let t0 : Nat := 100;
    let t : State := after (.scheduledTokenSend l v d t0) s;
    ((s.lane l).sent = some (cycle_tokensCrossBetweenRegions s l.r t0)) ∧ (keptBut [.belfry] s t = true)) ∧
    (let s : State := ln F0 E0 { buffer := [{ data := 1#32 }, { data := 2#32 }, { data := 3#32 }] };
    let l : Lane := E0;
    let d : BitVec 32 := 7#32;
    let n : Nat := 1;
    let t0 : Nat := 100;
    let t : State := after (.unscheduledTokenSend l d t0) s;
    (neighbor l.r l.side = some n) ∧ (s.fabricRuns l.r = true) ∧ ((s.toChip.upTo t0).slotNext l.r 1 (laneRes l) =
        false) ∧ ((s.lane l).sent ≠ some (cycle_tokensCrossBetweenRegions s l.r t0 + 1)) ∧ ((s.lane l).buffer.length
        < 4) ∧ ((s.region n).fenced = false) ∧ ((t.lane l).buffer = (s.lane l).buffer ++ [{ data := d, valid := true, due := cycle_tokensCrossBetweenRegions s n t0 + 3 }])
        ∧ (others_tokensCrossBetweenRegions s t l) ∧ (keptBut [.belfry, .lanes] s t = true)) ∧
    (let s : State := ln (fr 1 { run 1 with slots := [slot false 0 50 2 (3 * 512 + 3) 0] }) E0 { inFlight := [{ data := 5#32, valid := true, due := 10 }] };
    let l : Lane := W1;
    let tx : Lane := E0;
    let t0 : Nat := 100;
    let t : State := after (.tokenRelease l true t0) s;
    (senderOf l = some tx ∧ s.fabricRuns l.r = true ∧ ((s.toChip.upTo t0).slotAt l.r 2 (laneRes l)).isSome = true ∧
        s.isArmed 0x2D62 1 l.r = false ∧ (s.lane tx).delivered = none) ∧ ((s.region tx.r).fenced = false) ∧
        ((s.region tx.r).unlock = false) ∧ ((s.region tx.r).unlockInj = false) ∧ ((t.lane tx).delivered = some { data := 5#32, valid := true, poison := false, sched := true, cycle := cycle_tokensCrossBetweenRegions s l.r t0 })
        ∧ (others_tokensCrossBetweenRegions s t tx) ∧ (keptBut [.belfry, .lanes, .free] s t = true)) ∧
    (let s : State := ln (fr 1 { run 1 with slots := [slot false 0 50 2 (3 * 512 + 3) 0] }) E0 { inFlight := [{ data := 5#32, valid := true, due := 11 }] };
    let l : Lane := W1;
    let tx : Lane := E0;
    let t0 : Nat := 100;
    let t : State := after (.tokenRelease l true t0) s;
    (senderOf l = some tx ∧ s.fabricRuns l.r = true ∧ ((s.toChip.upTo t0).slotAt l.r 2 (laneRes l)).isSome = true ∧
        s.isArmed 0x2D62 1 l.r = false ∧ (s.lane tx).delivered = none) ∧ ((s.region tx.r).fenced = false) ∧
        ((s.region tx.r).unlock = false) ∧ ((s.region tx.r).unlockInj = false) ∧ ((t.lane tx).delivered.map (fun d
        => (d.valid, d.poison, d.sched, d.cycle)) = some (false, false, true, cycle_tokensCrossBetweenRegions s l.r
        t0)) ∧ (others_tokensCrossBetweenRegions s t tx) ∧ (keptBut [.belfry, .lanes, .free] s t = true)) :=
  ⟨by decide +kernel, by decide +kernel, by decide +kernel, by decide +kernel, by decide +kernel, by decide +kernel⟩
theorem test_TokensCrossBetweenRegions_2 :
    (let s : State := reg_ (fr 1 { run 1 with slots := [slot false 0 50 2 (3 * 512 + 3) 0] }) 0 { run 0 with fenced := true };
    let l : Lane := W1;
    let tx : Lane := E0;
    let b : Bool := true;
    let t0 : Nat := 100;
    let t : State := after (.tokenRelease l b t0) s;
    (senderOf l = some tx ∧ s.fabricRuns l.r = true ∧ ((s.toChip.upTo t0).slotAt l.r 2 (laneRes l)).isSome = true ∧
        s.isArmed 0x2D62 1 l.r = false ∧ (s.lane tx).delivered = none) ∧ ((s.region tx.r).fenced = true) ∧ ((t.lane
        tx).delivered = some { data := 0#32, valid := false, poison := true, sched := true, cycle := cycle_tokensCrossBetweenRegions s l.r t0 })
        ∧ (t.reg (0x2500 + l.r) 9 = sat32 (s.reg (0x2500 + l.r) 9 + 1)) ∧ (others_tokensCrossBetweenRegions s t tx)) ∧
    (let s : State := ln F0 E0 { buffer := [{ data := 1#32, valid := true, due := 10 }] };
    let l : Lane := W1;
    let tx : Lane := E0;
    let k : Token := { data := 1#32, valid := true, due := 10 };
    let t0 : Nat := 100;
    let rest : List Token := [];
    let t : State := after (.unscheduledTokenDelivery l t0) s;
    (senderOf l = some tx) ∧ (s.fabricRuns l.r = true) ∧ ((s.region tx.r).fenced = false) ∧ (((s.toChip.upTo
        t0).slotAt l.r 2 (laneRes l)).isSome = false) ∧ ((s.lane tx).buffer = k :: rest) ∧ (k.due ≤
        cycle_tokensCrossBetweenRegions s l.r t0) ∧ ((s.lane tx).delivered = none) ∧ ((t.lane tx).buffer = rest) ∧
        ((t.lane tx).delivered = some { data := k.data, valid := true, poison := false, sched := false, cycle := cycle_tokensCrossBetweenRegions s l.r t0 })
        ∧ (others_tokensCrossBetweenRegions s t tx) ∧ (keptBut [.belfry, .lanes] s t = true)) :=
  ⟨by decide +kernel, by decide +kernel⟩
abbrev cycle_netsSwitchAndGate := fun (s : State) (r t0 : Nat) => (s.toChip.upTo t0).isle r
abbrev before_netsSwitchAndGate := fun (s : State) (r t0 : Nat) => (s.region r).settle r (cycle_netsSwitchAndGate s r
    t0)
abbrev others_netsSwitchAndGate := fun (s t : State) (r n : Nat) (g : Region) => [0, 1, 2, 31].all (fun j => j == r ||
    decide (t.region j = s.region j)) && [0, 1, 2, 3, 15].all (fun k => k == n || decide ((t.region r).net k = g.net
    k))
theorem test_NetsSwitchAndGate_1 :
    (let before := fun (s : State) (r t0 : Nat) => (s.region r).settle r (cycle_netsSwitchAndGate s r t0);
    let s : State := fr 0 { run 0 with settled := 0, nets := [(3, { gate := true })] };
    let r : Nat := 0;
    let n : Nat := 3;
    let t0 : Nat := 100;
    let v : Bool := true;
    let t : State := after (.clockSwitch r n v t0) s;
    (s.fabricRuns r = true) ∧ (n ≠ 0) ∧ (s.isArmed 0x2D10 n r = false) ∧ ((t.region r).net n = { (before s r t0).net n with sel := v })
        ∧ (others_netsSwitchAndGate s t r n (before s r t0)) ∧ (keptBut [.belfry, .regions] s t = true)) ∧
    (let s : State := fr 0 { run 0 with settled := 60, nets := [(3, { sel := true, switching := some { sel := true, fall := 0, seen := 1 } })] };
    let r : Nat := 0;
    let n : Nat := 3;
    let t0 : Nat := 600;
    let t : State := after (.clockSwitchComplete r n t0) s;
    (s.fabricRuns r = true) ∧ (n ≠ 0) ∧ (t.region r = (s.toChip.upTo t0).regionNow r) ∧ (((t.region r).net n).cur =
        true ∧ ((t.region r).net n).switching = none) ∧ (∀ j, j < 40 → j ≠ r → t.region j = s.region j) ∧ (keptBut
        [.belfry, .regions] s t = true)) ∧
    (let s : State := fr 0 { run 0 with settled := 61, nets := [(3, { sel := true, switching := some { sel := true, fall := 0, cycles := 64 } })] };
    let r : Nat := 0;
    let n : Nat := 3;
    let t0 : Nat := 600;
    let w : NetSwitch := { sel := true, fall := 0, cycles := 64 };
    let t : State := after (.clockSwitchStall r n t0) s;
    (s.fabricRuns r = true) ∧ (((s.toChip.upTo t0).net r n).switching = some w) ∧ (w.injected = false) ∧ (w.stalled
        = false) ∧ (64 ≤ w.cycles) ∧ ((t.region r).net n = { (s.toChip.upTo t0).net r n with switching := some { w with stalled := true } })
        ∧ (others_netsSwitchAndGate s t r n ((s.toChip.upTo t0).regionNow r)) ∧ (keptBut (.belfry :: .regions ::
        logAreas) s t = true)) ∧
    (let before := fun (s : State) (r t0 : Nat) => (s.region r).settle r (cycle_netsSwitchAndGate s r t0);
    let s : State := fr 0 { run 0 with settled := 0, nets := [(3, { gate := true })] };
    let r : Nat := 0;
    let n : Nat := 3;
    let t0 : Nat := 600;
    let e : Bool := false;
    let t : State := after (.clockGateChange r n e t0) s;
    (s.fabricRuns r = true) ∧ (n ≠ 0) ∧ ((t.region r).net n = { (before s r t0).net n with enIn := e }) ∧
        (others_netsSwitchAndGate s t r n (before s r t0)) ∧ (keptBut [.belfry, .regions] s t = true)) ∧
    (let s : State := F0;
    let r : Nat := 1;
    let n : Nat := 3;
    let t0 : Nat := 600;
    let v : Bool := true;
    let t : State := after (.userReset r n v t0) s;
    (s.fabricRuns r = true) ∧ (n < 4) ∧ ((t.region r).urst.getLsbD n = v) ∧ (∀ k, k < 40 → k ≠ n → (t.region
        r).urst.getLsbD k = (s.region r).urst.getLsbD k) ∧ (∀ j, j < 40 → j ≠ r → t.region j = s.region j) ∧
        (keptBut [.belfry, .regions] s t = true)) ∧
    (let s : State := S0b;
    let q : Req := q0;
    let i : Nat := 0x2C20;
    let j : Nat := 1;
    let v : Nat := 0xFF;
    let t : State := after (.probeSelectWrite q i j v) s;
    (i = 0x2C20 ∨ 0x2C40 ≤ i ∧ i < 0x2C60) ∧ (WriteAllowed s q i j v = true) ∧ (t.reg i j = v) ∧ (t.reply q.owner =
        .done) ∧ (keptBut (.belfry :: answerAreas) s t = true)) :=
  ⟨by decide +kernel, by decide +kernel, by decide +kernel, by decide +kernel, by decide +kernel, by decide +kernel⟩
theorem test_NetsSwitchAndGate_2 :
    let s : State := S0b;
    let q : Req := q0;
    let i : Nat := 0x2C5F;
    let j : Nat := 1;
    let v : Nat := 3;
    let t : State := after (.probeSelectWrite q i j v) s;
    (i = 0x2C20 ∨ 0x2C40 ≤ i ∧ i < 0x2C60) ∧ (WriteAllowed s q i j v = true) ∧ (t.reg i j = v) ∧ (t.reply q.owner =
        .done) ∧ (keptBut (.belfry :: answerAreas) s t = true) := by decide +kernel

/-! ### Witnesses of chapter 6 -/

abbrev cycle_blockMemoryPortsReadAndWrite := fun (s : State) (m : BmSel) (t0 : Nat) => (s.toChip.upTo t0).bmCycle m
theorem test_BlockMemoryPortsReadAndWrite :
    (let idle := fun (s : State) (m : BmSel) (p : BmPort) (a t0 : Nat) => let b := s.toChip.upTo t0;
    let u := bmKey m.r m.b m.m;
    let c := b.bmCycle m;
    b.bmRuns m = true ∧ b.bmFree u p c = true ∧ b.underTest (.bm m) = false ∧ b.bmMeets u p a c = none ∧
        b.maintMeets u a c = none ∧ s.pending.any (b.writesToo m p a c) = false;
    let plain := fun (s : State) (k : Nat) => s.bmBypass k = false ∧ (s.bmFlips k).1 = 0#40 ∧ high8 (s.bmStored k) =
        0#8;
    let out := fun (s t : State) (m : BmSel) (p : BmPort) (t0 : Nat) (d : BitVec 32) (v : Bool) => ((t.bmState
        (bmKey m.r m.b m.m)).out p).getLast? = some { data := BitVec.setWidth 256 d, valid := v, at_ := cycle_blockMemoryPortsReadAndWrite s m t0 + 2 };
    let s : State := mm F0 { bm := [(k7, 0x00FFFF0F0F#40)] };
    let m : BmSel := m7;
    let p : BmPort := .a;
    let a : Nat := 1023;
    let t0 : Nat := 100;
    let t : State := after (.bmRead m p a t0) s;
    (a < 1024) ∧ (idle s m p a t0) ∧ (plain s (bmWordKey m a)) ∧ (out s t m p t0 (low32 (s.bmStored (bmWordKey m
        a))) true) ∧ (t.mem.bm = s.mem.bm) ∧ (t.mem.sp = s.mem.sp) ∧ (keptBut [.belfry, .mem] s t = true)) ∧
    (let idle := fun (s : State) (m : BmSel) (p : BmPort) (a t0 : Nat) => let b := s.toChip.upTo t0;
    let u := bmKey m.r m.b m.m;
    let c := b.bmCycle m;
    b.bmRuns m = true ∧ b.bmFree u p c = true ∧ b.underTest (.bm m) = false ∧ b.bmMeets u p a c = none ∧
        b.maintMeets u a c = none ∧ s.pending.any (b.writesToo m p a c) = false;
    let others := fun (s t : State) (k : Nat) => ∀ j, j < 40 → j ≠ k → Mem.get t.mem.bm j = Mem.get s.mem.bm j;
    let s : State := mm F0 { bm := [(0, 7#40), (k7, 0x00FFFF0F0F#40)], bmErr := [(k7, (3#40, false))] };
    let m : BmSel := m7;
    let p : BmPort := .b;
    let a : Nat := 1023;
    let t0 : Nat := 100;
    let d : BitVec 40 := 0xFF12345678#40;
    let t : State := after (.bmWrite m p a d t0) s;
    (a < 1024) ∧ (idle s m p a t0) ∧ (s.bmBypass (bmWordKey m a) = false) ∧ (t.bmStored (bmWordKey m a) =
        BitVec.setWidth 40 (low32 d)) ∧ ((t.bmFlips (bmWordKey m a)).1 = 0#40) ∧ (others s t (bmWordKey m a)) ∧
        (t.mem.sp = s.mem.sp) ∧ (keptBut [.belfry, .mem, .inject] s t = true)) ∧
    (let idle := fun (s : State) (m : BmSel) (p : BmPort) (a t0 : Nat) => let b := s.toChip.upTo t0;
    let u := bmKey m.r m.b m.m;
    let c := b.bmCycle m;
    b.bmRuns m = true ∧ b.bmFree u p c = true ∧ b.underTest (.bm m) = false ∧ b.bmMeets u p a c = none ∧
        b.maintMeets u a c = none ∧ s.pending.any (b.writesToo m p a c) = false;
    let plain := fun (s : State) (k : Nat) => s.bmBypass k = false ∧ (s.bmFlips k).1 = 0#40 ∧ high8 (s.bmStored k) =
        0#8;
    let out := fun (s t : State) (m : BmSel) (p : BmPort) (t0 : Nat) (d : BitVec 32) (v : Bool) => ((t.bmState
        (bmKey m.r m.b m.m)).out p).getLast? = some { data := BitVec.setWidth 256 d, valid := v, at_ := cycle_blockMemoryPortsReadAndWrite s m t0 + 2 };
    let others := fun (s t : State) (k : Nat) => ∀ j, j < 40 → j ≠ k → Mem.get t.mem.bm j = Mem.get s.mem.bm j;
    let s : State := mm F0 { bm := [(k7, 0x00FFFF0F0F#40)] };
    let m : BmSel := m7;
    let p : BmPort := .a;
    let a : Nat := 1023;
    let t0 : Nat := 100;
    let d : BitVec 40 := 0x8000F0F0#40;
    let t : State := after (.bmBitSet m p a d t0) s;
    (a < 1024) ∧ (idle s m p a t0) ∧ (plain s (bmWordKey m a)) ∧ (low32 (t.bmStored (bmWordKey m a)) = low32
        (s.bmStored (bmWordKey m a)) ||| low32 d) ∧ (out s t m p t0 (low32 (s.bmStored (bmWordKey m a))) true) ∧
        (others s t (bmWordKey m a)) ∧ (keptBut [.belfry, .mem, .inject] s t = true)) ∧
    (let idle := fun (s : State) (m : BmSel) (p : BmPort) (a t0 : Nat) => let b := s.toChip.upTo t0;
    let u := bmKey m.r m.b m.m;
    let c := b.bmCycle m;
    b.bmRuns m = true ∧ b.bmFree u p c = true ∧ b.underTest (.bm m) = false ∧ b.bmMeets u p a c = none ∧
        b.maintMeets u a c = none ∧ s.pending.any (b.writesToo m p a c) = false;
    let plain := fun (s : State) (k : Nat) => s.bmBypass k = false ∧ (s.bmFlips k).1 = 0#40 ∧ high8 (s.bmStored k) =
        0#8;
    let out := fun (s t : State) (m : BmSel) (p : BmPort) (t0 : Nat) (d : BitVec 32) (v : Bool) => ((t.bmState
        (bmKey m.r m.b m.m)).out p).getLast? = some { data := BitVec.setWidth 256 d, valid := v, at_ := cycle_blockMemoryPortsReadAndWrite s m t0 + 2 };
    let others := fun (s t : State) (k : Nat) => ∀ j, j < 40 → j ≠ k → Mem.get t.mem.bm j = Mem.get s.mem.bm j;
    let s : State := mm F0 { bm := [(k7, 0x00FFFF0F0F#40)] };
    let m : BmSel := m7;
    let p : BmPort := .b;
    let a : Nat := 1023;
    let t0 : Nat := 100;
    let d : BitVec 40 := 0x8000F0F0#40;
    let t : State := after (.bmBitClear m p a d t0) s;
    (a < 1024) ∧ (idle s m p a t0) ∧ (plain s (bmWordKey m a)) ∧ (low32 (t.bmStored (bmWordKey m a)) = low32
        (s.bmStored (bmWordKey m a)) &&& ~~~(low32 d)) ∧ (out s t m p t0 (low32 (s.bmStored (bmWordKey m a))) true)
        ∧ (others s t (bmWordKey m a)) ∧ (keptBut [.belfry, .mem, .inject] s t = true)) :=
  ⟨by decide +kernel, by decide +kernel, by decide +kernel, by decide +kernel⟩
theorem test_BlockMemoryCollisionsAndTests :
    (let s : State := mm F0 { bm := [(k7, 0x00FFFF0F0F#40)], bmState := [(u7, { lastB := some { cyc := 10, op := .write, addr := 1023, old := 3#40, oldErr := (0#40, false) } })] };
    let m : BmSel := m7;
    let p : BmPort := .a;
    let a : Nat := 1023;
    let t0 : Nat := 100;
    let b := s.toChip.upTo t0;
    let u := bmKey m.r m.b m.m;
    let c := b.bmCycle m;
    let t : State := after (.bmRead m p a t0) s;
    let o := (((t.bmState u).out p).getLast?).getD {};
    (a < 1024) ∧ (b.bmRuns m = true) ∧ (b.bmFree u p c = true) ∧ (b.underTest (.bm m) = false) ∧ ((b.bmMeets u p a
        c).map (fun y => y.lands c) = some true) ∧ (((t.bmState u).out p).getLast?.isSome = true) ∧ (o.coll = true)
        ∧ (o.valid = true) ∧ (o.at_ = c + 2) ∧ (t.mem.bm = s.mem.bm) ∧ (t.free = s.free + 1) ∧ (keptBut [.belfry,
        .mem, .free] s t = true)) ∧
    (let s : State := { mm F0 { bm := [(k7, 0x00FFFF0F0F#40)] } with test := { S0b.test with onDemand := some { action := 1, r := 1, b := 63 } } };
    let m : BmSel := m7;
    let p : BmPort := .a;
    let a : Nat := 1023;
    let t0 : Nat := 100;
    let d : BitVec 40 := 3#40;
    let b := s.toChip.upTo t0;
    let u := bmKey m.r m.b m.m;
    let t : State := after (.bmWrite m p a d t0) s;
    let o := (((t.bmState u).out p).getLast?).getD {};
    (m.r < 32) ∧ (b.bmRuns m = true) ∧ (b.bmFree u p (b.bmCycle m) = true) ∧ (b.underTest (.bm m) = true) ∧
        (((t.bmState u).out p).getLast? = some o) ∧ (o.uut = true) ∧ (o.data = 0#256) ∧ (t.mem.bm = s.mem.bm) ∧
        (t.reg (0x2500 + m.r) 0x1E = sat32 (s.reg (0x2500 + m.r) 0x1E + 1)) ∧ (keptBut [.belfry, .mem, .dict] s t =
        true)) :=
  ⟨by decide +kernel, by decide +kernel⟩
abbrev cycle_scratchpadPortsAndMaintenance := fun (s : State) (r t0 : Nat) => (s.toChip.upTo t0).isle r
abbrev alone_scratchpadPortsAndMaintenance := fun (s : State) (r t0 : Nat) => ∀ x ∈ s.pending, (s.toChip.upTo
    t0).spWaiting r (cycle_scratchpadPortsAndMaintenance s r t0) x = none
abbrev ready_scratchpadPortsAndMaintenance := fun (s : State) (r port a t0 : Nat) => s.fabricRuns r = true ∧ (s.spPort
    r port).takes (cycle_scratchpadPortsAndMaintenance s r t0) = true ∧ s.underTest (.spBank r (spBankOf a)) = false ∧
    s.isArmed 0x2D62 2 r = false ∧ alone_scratchpadPortsAndMaintenance s r t0
abbrev bankFree_scratchpadPortsAndMaintenance := fun (s : State) (r a t0 : Nat) => (s.spServed r (spBankOf a)).all
    (fun x => x.2.1 != (s.toChip.upTo t0).isle r) = true
abbrev others_scratchpadPortsAndMaintenance := fun (s t : State) (k : Nat) => ∀ j, j < 40 → j ≠ k → Mem.get t.mem.sp j
    = Mem.get s.mem.sp j
theorem test_ScratchpadPortsAndMaintenance :
    (let alone := fun (s : State) (r t0 : Nat) => ∀ x ∈ s.pending, (s.toChip.upTo t0).spWaiting r
        (cycle_scratchpadPortsAndMaintenance s r t0) x = none;
    let ready := fun (s : State) (r port a t0 : Nat) => s.fabricRuns r = true ∧ (s.spPort r port).takes
        (cycle_scratchpadPortsAndMaintenance s r t0) = true ∧ s.underTest (.spBank r (spBankOf a)) = false ∧
        s.isArmed 0x2D62 2 r = false ∧ alone s r t0;
    let s : State := mm F0 { sp := [(spWordKey 1 65535, 77#256)] };
    let r : Nat := 1;
    let port : Nat := 7;
    let a : Nat := 65535;
    let t0 : Nat := 100;
    let t : State := after (.spRead r port a false t0) s;
    (a < 65536) ∧ (ready s r port a t0) ∧ (bankFree_scratchpadPortsAndMaintenance s r a t0) ∧ ((s.spFlips (spWordKey
        r a)).1 = 0#288) ∧ ((t.spPort r port).out.getLast? = some { data := s.spStored (spWordKey r a), valid := true, at_ := cycle_scratchpadPortsAndMaintenance s r t0 + 3 })
        ∧ (t.mem.sp = s.mem.sp) ∧ (t.mem.bm = s.mem.bm) ∧ (keptBut [.belfry, .mem] s t = true)) ∧
    (let alone := fun (s : State) (r t0 : Nat) => ∀ x ∈ s.pending, (s.toChip.upTo t0).spWaiting r
        (cycle_scratchpadPortsAndMaintenance s r t0) x = none;
    let ready := fun (s : State) (r port a t0 : Nat) => s.fabricRuns r = true ∧ (s.spPort r port).takes
        (cycle_scratchpadPortsAndMaintenance s r t0) = true ∧ s.underTest (.spBank r (spBankOf a)) = false ∧
        s.isArmed 0x2D62 2 r = false ∧ alone s r t0;
    let s : State := mm F0 { sp := [(0, 3#256), (spWordKey 1 65535, 77#256)] };
    let r : Nat := 1;
    let port : Nat := 7;
    let a : Nat := 65535;
    let t0 : Nat := 100;
    let lanes : BitVec 4 := 9#4;
    let d : BitVec 256 := BitVec.allOnes 256;
    let t : State := after (.spWrite r port a lanes d false t0) s;
    (a < 65536) ∧ (ready s r port a t0) ∧ (bankFree_scratchpadPortsAndMaintenance s r a t0) ∧ (t.spStored (spWordKey
        r a) = (s.spStored (spWordKey r a) &&& ~~~(laneMask256 lanes)) ||| (d &&& laneMask256 lanes)) ∧
        (others_scratchpadPortsAndMaintenance s t (spWordKey r a)) ∧ (t.mem.bm = s.mem.bm) ∧ (keptBut [.belfry,
        .mem, .inject] s t = true)) ∧
    (let alone := fun (s : State) (r t0 : Nat) => ∀ x ∈ s.pending, (s.toChip.upTo t0).spWaiting r
        (cycle_scratchpadPortsAndMaintenance s r t0) x = none;
    let ready := fun (s : State) (r port a t0 : Nat) => s.fabricRuns r = true ∧ (s.spPort r port).takes
        (cycle_scratchpadPortsAndMaintenance s r t0) = true ∧ s.underTest (.spBank r (spBankOf a)) = false ∧
        s.isArmed 0x2D62 2 r = false ∧ alone s r t0;
    let s : State := mm F0 { banks := [(16 + spBankOf 65535, { served := some ({ port := 2, we := false, lanes := 0#4, addr := 65535, data := 0#256, sched := true, cyc := 10 }, 10, 0#256, (0#288, false)) })] };
    let r : Nat := 1;
    let port : Nat := 7;
    let a : Nat := 65535;
    let t0 : Nat := 100;
    let c : Nat := 10;
    let z : SpAccess := { port := 2, we := false, lanes := 0#4, addr := 65535, data := 0#256, sched := true, cyc := 10 };
    let o : BitVec 256 := 0#256;
    let e : BitVec 288 × Bool := (0#288, false);
    let t : State := after (.spRead r port a false t0) s;
    (r < 32) ∧ (ready s r port a t0) ∧ (c = cycle_scratchpadPortsAndMaintenance s r t0) ∧ (s.spServed r (spBankOf a)
        = some (z, c, o, e)) ∧ (z.sched = true) ∧ (z.cyc < 2 ^ 64) ∧ (z.port < 8) ∧ ((t.spPort r port).held.isSome =
        true) ∧ (t.mem.sp = s.mem.sp) ∧ (t.reg (0x2500 + r) 0x16 = sat32 (s.reg (0x2500 + r) 0x16 + 1)) ∧ (keptBut
        [.belfry, .mem, .dict] s t = true)) ∧
    (let alone := fun (s : State) (r t0 : Nat) => ∀ x ∈ s.pending, (s.toChip.upTo t0).spWaiting r
        (cycle_scratchpadPortsAndMaintenance s r t0) x = none;
    let s : State := mm F0 { ports := [(15, { held := some { port := 7, we := true, lanes := 3#4, addr := 65535, data := 5#256, sched := false, cyc := 9 } })] };
    let r : Nat := 1;
    let port : Nat := 7;
    let t0 : Nat := 100;
    let x : SpAccess := { port := 7, we := true, lanes := 3#4, addr := 65535, data := 5#256, sched := false, cyc := 9 };
    let t : State := after (.spStallRetry r port t0) s;
    ((s.spPort r port).held = some x) ∧ (x.we = true) ∧ (x.port = port) ∧ (x.addr < 65536) ∧ (s.fabricRuns r = true)
        ∧ (x.cyc < cycle_scratchpadPortsAndMaintenance s r t0) ∧ ((s.spPort r port).tried <
        cycle_scratchpadPortsAndMaintenance s r t0) ∧ (alone s r t0) ∧ (bankFree_scratchpadPortsAndMaintenance s r
        x.addr t0) ∧ ((t.spPort r port).held = none) ∧ (t.spStored (spWordKey r x.addr) = (s.spStored (spWordKey r
        x.addr) &&& ~~~(laneMask256 x.lanes)) ||| (x.data &&& laneMask256 x.lanes)) ∧
        (others_scratchpadPortsAndMaintenance s t (spWordKey r x.addr))) ∧
    (let s : State := mm F0 { bm := [(k7, 0x00FFFF0F0F#40)], bmErr := [(k7, (8#40, false))], demandBm := [(u7, some k7)] };
    let m : BmSel := m7;
    let w : Nat := k7;
    let n : Nat := 3;
    let t0 : Nat := 100;
    let t : State := after (.demandWriteBack (.bm m) t0) s;
    (Tab.get none s.mem.demandBm (bmKey m.r m.b m.m) = some w) ∧ ((s.toChip.upTo t0).bmMaintenance m = true) ∧
        (s.bmFound w = .single n) ∧ (s.undefIn (.bm (bmSelOf w)) w = none) ∧ ((s.bmState (bmKey m.r m.b m.m)).lastA
        = none) ∧ ((t.bmFlips w).1 = 0#40) ∧ (t.bmStored w = BitVec.setWidth 40 (corrected (bitsWith (s.bmStored w)
        (s.bmFlips w).1) n)) ∧ (∀ k, k < 40 → k ≠ w → Mem.get t.mem.bm k = Mem.get s.mem.bm k) ∧ (Tab.get none
        t.mem.demandBm (bmKey m.r m.b m.m) = none) ∧ (keptBut [.belfry, .mem] s t = true)) ∧
    (let s : State := mm (reg_ F0 1 { run 1 with clearing := true }) { bm := [(0, 1#40), (k7, 0x00FFFF0F0F#40)], sp := [(0, 3#256), (spWordKey 1 65535, 77#256)] };
    let r : Nat := 1;
    let t : State := after (.regionClearEnd r) s;
    ((s.region r).clearing = true) ∧ ((t.region r).clearing = false) ∧ ([0, 524287, 524288, k7, 1048575,
        1048576].all (fun k => decide (Mem.get t.mem.bm k = if r * 524288 ≤ k ∧ k < (r + 1) * 524288 then 0#40 else
        Mem.get s.mem.bm k)) = true) ∧ ([0, 65535, 65536, 131071, 131072].all (fun k => decide (Mem.get t.mem.sp k =
        if r * 65536 ≤ k ∧ k < (r + 1) * 65536 then 0#256 else Mem.get s.mem.sp k)) = true) ∧ (∀ j, j < 40 → j ≠ r →
        t.region j = s.region j)) :=
  ⟨by decide +kernel, by decide +kernel, by decide +kernel, by decide +kernel, by decide +kernel, by decide +kernel⟩
abbrev one_memoryTransfersMoveWordsAndAdvance := fun (s : State) (q : Req) (r a : Nat) => ReadAllowed s q (0x2500 + r)
    0x11 = true ∧ (s.served q).transferCheck r a 1 = 0 ∧ s.reg (0x2500 + r) 0x10 = a ∧ s.reg (0x2500 + r) 0x12 = 1
theorem test_MemoryTransfersMoveWordsAndAdvance_1 :
    (let s : State := od (mm S0b { bm := [(7, 0x04030201#40), (8, 0x08070605#40)], sp := [(6, 9#256)] }) [(0x250010,
        7), (0x250012, 1)];
    let q : Req := q0;
    let r : Nat := 0;
    let a : Nat := 7;
    let t : State := after (.memoryDataRead q r) s;
    let d : Bytes := [1#8, 2#8, 3#8, 4#8];
    (a < 2 ^ 19) ∧ (one_memoryTransfersMoveWordsAndAdvance s q r a) ∧ (s.bmBypass (r * 524288 + a) = false) ∧
        (s.bmFound (r * 524288 + a) = .clean) ∧ (t.reply q.owner = .data d ∧ t.mem.bm = s.mem.bm ∧ t.mem.sp =
        s.mem.sp ∧ t.reg (0x2500 + r) 0x10 = if q.owner = 6 then a else nextAddress a 1)) ∧
    (let s : State := od (mm S0b { bm := [(7, 0x04030201#40), (8, 0x08070605#40)], sp := [(6, 9#256)] }) [(0x250010,
        7), (0x250012, 1)];
    let q : Req := q6;
    let r : Nat := 0;
    let a : Nat := 7;
    let t : State := after (.memoryDataRead q r) s;
    let d : Bytes := [1#8, 2#8, 3#8, 4#8];
    (a < 2 ^ 19) ∧ (one_memoryTransfersMoveWordsAndAdvance s q r a) ∧ (s.bmBypass (r * 524288 + a) = false) ∧
        (s.bmFound (r * 524288 + a) = .clean) ∧ (t.reply q.owner = .data d ∧ t.mem.bm = s.mem.bm ∧ t.mem.sp =
        s.mem.sp ∧ t.reg (0x2500 + r) 0x10 = if q.owner = 6 then a else nextAddress a 1)) ∧
    (let s : State := od (mm S0b { sp := [(spWordKey 0 65535, 3#256)] }) [(0x250010, 2 ^ 31 + 65535), (0x250012, 1)];
    let q : Req := q0;
    let r : Nat := 0;
    let a : Nat := 2 ^ 31 + 65535;
    let t : State := after (.memoryDataRead q r) s;
    let d : Bytes := 3#8 :: List.replicate 31 0#8;
    (2 ^ 31 ≤ a) ∧ (one_memoryTransfersMoveWordsAndAdvance s q r a) ∧ ((s.spFlips (spWordKey r (a % 65536))).1 =
        0#288) ∧ (t.reply q.owner = .data d ∧ t.mem.bm = s.mem.bm ∧ t.mem.sp = s.mem.sp ∧ t.reg (0x2500 + r) 0x10 =
        if q.owner = 6 then a else nextAddress a 1)) ∧
    (let s : State := od (mm S0b { bm := [(7, 0x04030201#40), (8, 0x08070605#40)], sp := [(6, 9#256)] }) [(0x250010,
        7), (0x250012, 2)];
    let q : Req := q0;
    let r : Nat := 0;
    let d : Bytes := [1#8, 2#8, 3#8, 4#8, 5#8, 6#8, 7#8, 8#8];
    let c : Chip := ((s.served q).readWords r 7 2).1;
    let t : State := after (.memoryDataRead q r) s;
    (ReadAllowed s q (0x2500 + r) 0x11 = true) ∧ ((s.served q).transferCheck r (s.reg (0x2500 + r) 0x10) (s.reg
        (0x2500 + r) 0x12) = 0) ∧ (((s.served q).readWords r 7 2).2 = some d) ∧ (t.reply q.owner = .data d) ∧ (t.mem
        = c.mem) ∧ (q.owner ≠ 6 → t.reg (0x2500 + r) 0x10 = nextAddress (s.reg (0x2500 + r) 0x10) (s.reg (0x2500 +
        r) 0x12))) ∧
    (let s : State := od (mm S0b { bm := [(7, 0x04030201#40), (8, 0x08070605#40)], sp := [(6, 9#256)] }) [(0x250010,
        524287), (0x250012, 1)];
    let q : Req := q0;
    let r : Nat := 0;
    let d : Bytes := [1#8, 2#8, 3#8, 4#8];
    let t : State := after (.memoryDataWrite q r d) s;
    (BytesAllowed s q (0x2500 + r) 0x11 4 = true) ∧ (d.length = 4) ∧ (s.reg (0x2500 + r) 0x12 = 1) ∧ (s.reg (0x2500
        + r) 0x10 < 2 ^ 19) ∧ (s.bmBypass (r * 524288 + s.reg (0x2500 + r) 0x10) = false) ∧ ((s.served
        q).transferCheck r (s.reg (0x2500 + r) 0x10) 1 = 0) ∧ ((s.bmState ((r * 524288 + s.reg (0x2500 + r) 0x10) /
        1024)).lastA = none) ∧ (t.reply q.owner = .done) ∧ (t.bmStored (r * 524288 + s.reg (0x2500 + r) 0x10) =
        BitVec.ofNat 40 (ofBytes d)) ∧ (∀ k, k < 40 → k ≠ r * 524288 + s.reg (0x2500 + r) 0x10 → Mem.get t.mem.bm k
        = Mem.get s.mem.bm k) ∧ (t.mem.sp = s.mem.sp) ∧ (t.reg (0x2500 + r) 0x10 = (s.reg (0x2500 + r) 0x10 + 1) % 2
        ^ 19)) ∧
    (let s : State := od (mm S0b { bm := [(7, 0x04030201#40), (8, 0x08070605#40)], sp := [(6, 9#256)] }) [(0x250010,
        2 ^ 31 + 65535), (0x250012, 1)];
    let q : Req := q0;
    let r : Nat := 0;
    let a : Nat := 2 ^ 31 + 65535;
    let k : Nat := spWordKey 0 65535;
    let d : Bytes := 7#8 :: List.replicate 31 0#8;
    let t : State := after (.memoryDataWrite q r d) s;
    (BytesAllowed s q (0x2500 + r) 0x11 32 = true) ∧ (d.length = 32) ∧ (s.reg (0x2500 + r) 0x12 = 1) ∧ (s.reg
        (0x2500 + r) 0x10 = a) ∧ (2 ^ 31 ≤ a) ∧ (k = spWordKey r (a % 65536)) ∧ ((s.served q).transferCheck r a 1 =
        0) ∧ (t.reply q.owner = .done) ∧ (t.spStored k = BitVec.ofNat 256 (ofBytes d)) ∧ (∀ j, j < 40 → j ≠ k →
        Mem.get t.mem.sp j = Mem.get s.mem.sp j) ∧ (t.mem.bm = s.mem.bm) ∧ (t.reg (0x2500 + r) 0x10 = nextAddress a
        1)) :=
  ⟨by decide +kernel, by decide +kernel, by decide +kernel, by decide +kernel, by decide +kernel, by decide +kernel⟩
theorem test_MemoryTransfersMoveWordsAndAdvance_2 :
    let s : State := od (mm S0b { bm := [(7, 0x04030201#40), (8, 0x08070605#40)], sp := [(6, 9#256)] }) [(0x250010,
        6), (0x250012, 2)];
    let q : Req := q0;
    let r : Nat := 0;
    let a : Nat := 6;
    let n : Nat := 2;
    let d : Bytes := [9#8, 2#8, 3#8, 4#8, 5#8, 6#8, 7#8, 8#8];
    let t : State := after (.memoryDataWrite q r d) s;
    (BytesAllowed s q (0x2500 + r) 0x11 d.length = true) ∧ (s.reg (0x2500 + r) 0x10 = a) ∧ (s.reg (0x2500 + r) 0x12
        = n) ∧ ((s.served q).transferCheck r a n = 0) ∧ (d.length = n * (s.served q).wordBytes r a) ∧ (upperBytes
        ((s.served q).wordBytes r a) d = false) ∧ (t.reply q.owner = .done) ∧ (t.mem = ((s.served q).writeWords r a
        ((s.served q).wordBytes r a) d n).mem) ∧ (t.reg (0x2500 + r) 0x10 = nextAddress a n) := by decide +kernel

/-! ### Witnesses of chapter 7 -/

abbrev open__queueBlocksPackPushAndPop := fun (s : State) (r k : Nat) => r < 32 ∧ k < 16 ∧ (s.queue (queueKey r
    k)).mode = 1 ∧ s.fabricRuns r = true
abbrev cyc_queueBlocksPackPushAndPop := fun (s : State) (r t0 : Nat) => (s.toChip.upTo t0).isle r
abbrev now_queueBlocksPackPushAndPop := fun (s : State) (r k t0 : Nat) => (s.toChip.upTo t0).queueNow (queueKey r k)
abbrev rest_queueBlocksPackPushAndPop := fun (s t : State) (r k : Nat) => (∀ j, j < 40 → j ≠ queueKey r k → t.queue j
    = s.queue j) ∧ keptBut [.belfry, .queues] s t = true
abbrev pushes_queueBlocksPackPushAndPop := fun (s : State) (r k t0 : Nat) => (now_queueBlocksPackPushAndPop s r k
    t0).disabled = false ∧ (now_queueBlocksPackPushAndPop s r k t0).heldPush = none ∧ (now_queueBlocksPackPushAndPop s
    r k t0).wrdy = true ∧ (now_queueBlocksPackPushAndPop s r k t0).pushCycle ≠ some (cyc_queueBlocksPackPushAndPop s r
    t0)
abbrev pops_queueBlocksPackPushAndPop := fun (s : State) (r k t0 : Nat) => (now_queueBlocksPackPushAndPop s r k
    t0).disabled = false ∧ (now_queueBlocksPackPushAndPop s r k t0).readShow.held = false ∧
    (now_queueBlocksPackPushAndPop s r k t0).heldPop = false ∧ (now_queueBlocksPackPushAndPop s r k t0).popCycle ≠
    some (cyc_queueBlocksPackPushAndPop s r t0) ∧ (s.toChip.upTo t0).slotAt r 6 k = none
theorem test_QueueBlocksPackPushAndPop_1 :
    (let pushes := fun (s : State) (r k t0 : Nat) => (now_queueBlocksPackPushAndPop s r k t0).disabled = false ∧
        (now_queueBlocksPackPushAndPop s r k t0).heldPush = none ∧ (now_queueBlocksPackPushAndPop s r k t0).wrdy =
        true ∧ (now_queueBlocksPackPushAndPop s r k t0).pushCycle ≠ some (cyc_queueBlocksPackPushAndPop s r t0);
    let s : State := qu F0 (queueKey 1 15) { mode := 1, width := 1, pack := [1#8, 2#8] };
    let r : Nat := 1;
    let k : Nat := 15;
    let t0 : Nat := 100;
    let x : BitVec 32 := 0xABCD#32;
    let t : State := after (.queuePush r k x false t0) s;
    (open__queueBlocksPackPushAndPop s r k) ∧ (pushes s r k t0) ∧ (((now_queueBlocksPackPushAndPop s r k t0).pack ++
        (now_queueBlocksPackPushAndPop s r k t0).itemBytes x).length < 16) ∧ (rest_queueBlocksPackPushAndPop s t r
        k) ∧ ((t.queue (queueKey r k)).pack = (now_queueBlocksPackPushAndPop s r k t0).pack ++
        (now_queueBlocksPackPushAndPop s r k t0).itemBytes x) ∧ ((t.queue (queueKey r k)).words =
        (now_queueBlocksPackPushAndPop s r k t0).words)) ∧
    (let pushes := fun (s : State) (r k t0 : Nat) => (now_queueBlocksPackPushAndPop s r k t0).disabled = false ∧
        (now_queueBlocksPackPushAndPop s r k t0).heldPush = none ∧ (now_queueBlocksPackPushAndPop s r k t0).wrdy =
        true ∧ (now_queueBlocksPackPushAndPop s r k t0).pushCycle ≠ some (cyc_queueBlocksPackPushAndPop s r t0);
    let s : State := qu F0 (queueKey 1 15) { mode := 1, width := 2, pack := [1#8, 2#8, 3#8, 4#8, 5#8, 6#8, 7#8, 8#8, 9#8, 10#8, 11#8, 12#8], words := W3 };
    let r : Nat := 1;
    let k : Nat := 15;
    let t0 : Nat := 100;
    let x : BitVec 32 := 0xABCD#32;
    let t : State := after (.queuePush r k x true t0) s;
    (open__queueBlocksPackPushAndPop s r k) ∧ (pushes s r k t0) ∧ ((now_queueBlocksPackPushAndPop s r k
        t0).writeShow.depth < 256) ∧ (rest_queueBlocksPackPushAndPop s t r k) ∧ ((t.queue (queueKey r k)).pack = [])
        ∧ ((t.queue (queueKey r k)).words = (now_queueBlocksPackPushAndPop s r k t0).words ++ [packedWord
        ((now_queueBlocksPackPushAndPop s r k t0).pack ++ (now_queueBlocksPackPushAndPop s r k t0).itemBytes x)])) ∧
    (let pushes := fun (s : State) (r k t0 : Nat) => (now_queueBlocksPackPushAndPop s r k t0).disabled = false ∧
        (now_queueBlocksPackPushAndPop s r k t0).heldPush = none ∧ (now_queueBlocksPackPushAndPop s r k t0).wrdy =
        true ∧ (now_queueBlocksPackPushAndPop s r k t0).pushCycle ≠ some (cyc_queueBlocksPackPushAndPop s r t0);
    let s : State := qu F0 (queueKey 1 15) { mode := 1, width := 2, pack := [1#8], words := words 255 };
    let r : Nat := 1;
    let k : Nat := 15;
    let t0 : Nat := 100;
    let t : State := after (.queueClose r k t0) s;
    (open__queueBlocksPackPushAndPop s r k) ∧ (pushes s r k t0) ∧ ((now_queueBlocksPackPushAndPop s r k
        t0).writeShow.depth < 256) ∧ ((now_queueBlocksPackPushAndPop s r k t0).pack ≠ []) ∧
        (rest_queueBlocksPackPushAndPop s t r k) ∧ ((t.queue (queueKey r k)).pack = []) ∧ ((t.queue (queueKey r
        k)).words = (now_queueBlocksPackPushAndPop s r k t0).words ++ [packedWord (now_queueBlocksPackPushAndPop s r
        k t0).pack])) ∧
    (let pushes := fun (s : State) (r k t0 : Nat) => (now_queueBlocksPackPushAndPop s r k t0).disabled = false ∧
        (now_queueBlocksPackPushAndPop s r k t0).heldPush = none ∧ (now_queueBlocksPackPushAndPop s r k t0).wrdy =
        true ∧ (now_queueBlocksPackPushAndPop s r k t0).pushCycle ≠ some (cyc_queueBlocksPackPushAndPop s r t0);
    let s : State := qu F0 (queueKey 1 15) { mode := 1, width := 2, pack := [1#8], words := words 256 };
    let r : Nat := 1;
    let k : Nat := 15;
    let t0 : Nat := 100;
    let x : BitVec 32 := 3#32;
    let t : State := after (.queuePush r k x true t0) s;
    (open__queueBlocksPackPushAndPop s r k) ∧ (pushes s r k t0) ∧ (256 ≤ (now_queueBlocksPackPushAndPop s r k
        t0).writeShow.depth) ∧ ((now_queueBlocksPackPushAndPop s r k t0).popCycle ≠ some
        (cyc_queueBlocksPackPushAndPop s r t0)) ∧ (rest_queueBlocksPackPushAndPop s t r k) ∧ ((t.queue (queueKey r
        k)).heldPush.isSome = true) ∧ ((t.queue (queueKey r k)).words = (now_queueBlocksPackPushAndPop s r k
        t0).words)) ∧
    (let pops := fun (s : State) (r k t0 : Nat) => (now_queueBlocksPackPushAndPop s r k t0).disabled = false ∧
        (now_queueBlocksPackPushAndPop s r k t0).readShow.held = false ∧ (now_queueBlocksPackPushAndPop s r k
        t0).heldPop = false ∧ (now_queueBlocksPackPushAndPop s r k t0).popCycle ≠ some
        (cyc_queueBlocksPackPushAndPop s r t0) ∧ (s.toChip.upTo t0).slotAt r 6 k = none;
    let s : State := qu F0 (queueKey 1 15) { mode := 1, width := 2, words := W3 };
    let r : Nat := 1;
    let k : Nat := 15;
    let t0 : Nat := 100;
    let w : BitVec 128 × BitVec 16 := (7#128, 0xFFFF#16);
    let l : List (BitVec 128 × BitVec 16) := [(9#128, 3#16)];
    let t : State := after (.queuePop r k t0) s;
    (open__queueBlocksPackPushAndPop s r k) ∧ (pops s r k t0) ∧ ((now_queueBlocksPackPushAndPop s r k t0).heldPush =
        none) ∧ ((now_queueBlocksPackPushAndPop s r k t0).readShow.depth ≠ 0) ∧ ((now_queueBlocksPackPushAndPop s r
        k t0).words = w :: l) ∧ (rest_queueBlocksPackPushAndPop s t r k) ∧ ((t.queue (queueKey r k)).words = l) ∧
        ((t.queue (queueKey r k)).out.getLast? = some (cyc_queueBlocksPackPushAndPop s r t0 + 1, w))) ∧
    (let pops := fun (s : State) (r k t0 : Nat) => (now_queueBlocksPackPushAndPop s r k t0).disabled = false ∧
        (now_queueBlocksPackPushAndPop s r k t0).readShow.held = false ∧ (now_queueBlocksPackPushAndPop s r k
        t0).heldPop = false ∧ (now_queueBlocksPackPushAndPop s r k t0).popCycle ≠ some
        (cyc_queueBlocksPackPushAndPop s r t0) ∧ (s.toChip.upTo t0).slotAt r 6 k = none;
    let s : State := qu F0 (queueKey 1 15) { mode := 1, width := 2 };
    let r : Nat := 1;
    let k : Nat := 15;
    let t0 : Nat := 100;
    let t : State := after (.queuePop r k t0) s;
    (open__queueBlocksPackPushAndPop s r k) ∧ (pops s r k t0) ∧ ((now_queueBlocksPackPushAndPop s r k
        t0).readShow.depth = 0) ∧ (rest_queueBlocksPackPushAndPop s t r k) ∧ ((t.queue (queueKey r k)).heldPop =
        true) ∧ ((t.queue (queueKey r k)).words = (now_queueBlocksPackPushAndPop s r k t0).words)) :=
  ⟨by decide +kernel, by decide +kernel, by decide +kernel, by decide +kernel, by decide +kernel, by decide +kernel⟩
theorem test_QueueBlocksPackPushAndPop_2 :
    (let s : State := qu F0 (queueKey 1 15) { mode := 1, width := 2, words := W3, heldPop := true, popReady := some 10 };
    let r : Nat := 1;
    let k : Nat := 15;
    let t0 : Nat := 100;
    let c : Nat := 10;
    let w : BitVec 128 × BitVec 16 := (7#128, 0xFFFF#16);
    let l : List (BitVec 128 × BitVec 16) := [(9#128, 3#16)];
    let t : State := after (.heldPopTake r k t0) s;
    (open__queueBlocksPackPushAndPop s r k) ∧ ((now_queueBlocksPackPushAndPop s r k t0).disabled = false) ∧
        ((now_queueBlocksPackPushAndPop s r k t0).heldPush = none) ∧ ((now_queueBlocksPackPushAndPop s r k
        t0).heldPop = true) ∧ ((now_queueBlocksPackPushAndPop s r k t0).popReady = some c) ∧ (c ≤
        cyc_queueBlocksPackPushAndPop s r t0) ∧ ((now_queueBlocksPackPushAndPop s r k t0).words = w :: l) ∧
        (rest_queueBlocksPackPushAndPop s t r k) ∧ ((t.queue (queueKey r k)).words = l) ∧ ((t.queue (queueKey r
        k)).heldPop = false) ∧ ((t.queue (queueKey r k)).out.getLast? = some (cyc_queueBlocksPackPushAndPop s r t0 +
        1, w))) ∧
    (let s : State := qu F0 (queueKey 1 15) { mode := 1, width := 2, words := W3, heldPush := some ([5#8], 4), pushReady := some 10 };
    let r : Nat := 1;
    let k : Nat := 15;
    let t0 : Nat := 100;
    let c : Nat := 10;
    let e : Nat := 4;
    let b : List Byte := [5#8];
    let t : State := after (.heldPushComplete r k t0) s;
    (open__queueBlocksPackPushAndPop s r k) ∧ ((now_queueBlocksPackPushAndPop s r k t0).heldPush = some (b, e)) ∧
        ((now_queueBlocksPackPushAndPop s r k t0).pushReady = some c) ∧ (c ≤ cyc_queueBlocksPackPushAndPop s r t0) ∧
        (rest_queueBlocksPackPushAndPop s t r k) ∧ ((t.queue (queueKey r k)).heldPush = none) ∧ ((t.queue (queueKey
        r k)).words = (now_queueBlocksPackPushAndPop s r k t0).words ++ [packedWord ((now_queueBlocksPackPushAndPop
        s r k t0).pack ++ b)])) ∧
    (let s : State := qu F0 (queueKey 1 15) { mode := 1, width := 2, disabled := true, words := W3 };
    let r : Nat := 1;
    let k : Nat := 15;
    let t0 : Nat := 100;
    let x : BitVec 32 := 5#32;
    let f : Bool := true;
    let t : State := after (.queuePush r k x f t0) s;
    (open__queueBlocksPackPushAndPop s r k) ∧ ((now_queueBlocksPackPushAndPop s r k t0).disabled = true) ∧
        ((now_queueBlocksPackPushAndPop s r k t0).pushCycle ≠ some (cyc_queueBlocksPackPushAndPop s r t0)) ∧ (t.reg
        (0x2500 + r) 0x32 = sat32 (s.reg (0x2500 + r) 0x32 + 1)) ∧ ((t.queue (queueKey r k)).words =
        (now_queueBlocksPackPushAndPop s r k t0).words) ∧ (keptBut [.belfry, .queues, .dict] s t = true)) :=
  ⟨by decide +kernel, by decide +kernel, by decide +kernel⟩
abbrev quiet_queueFlagsMismatchesAndVisibility := fun (b : Chip) (k : Nat) => ((b.queueNow k).wmAt.map fun x => x.1) ≠
    some (b.sideCycle ((b.queue k).reader k))
abbrev now_queueFlagsMismatchesAndVisibility := fun (s : State) (r k t0 : Nat) => (s.toChip.upTo t0).queueNow
    (queueKey r k)
theorem test_QueueFlagsMismatchesAndVisibility :
    (let s : State := qu F0 (queueKey 1 15) { mode := 1, wmHi := true, words := W3 };
    let r : Nat := 1;
    let k : Nat := 15;
    let t0 : Nat := 100;
    let t : State := after (.watermarkClear r k t0) s;
    (r < 32) ∧ (k < 16) ∧ ((s.queue (queueKey r k)).reader (queueKey r k) = some r) ∧ (s.fabricRuns r = true) ∧
        (quiet_queueFlagsMismatchesAndVisibility (s.toChip.upTo t0) (queueKey r k)) ∧ ((t.queue (queueKey r k)).wmHi
        = false) ∧ ((t.queue (queueKey r k)).wmLo = false) ∧ ((t.queue (queueKey r k)).words =
        (now_queueFlagsMismatchesAndVisibility s r k t0).words) ∧ (∀ j, j < 40 → j ≠ queueKey r k → t.queue j =
        s.queue j) ∧ (keptBut [.belfry, .queues] s t = true)) ∧
    (let s : State := qu S0b 15 { mode := 1, wmHi := true, words := W3 };
    let q : Req := q0;
    let r : Nat := 0;
    let m : BitVec 16 := 0x8000#16;
    let t : State := after (.clearWatermarks q r m) s;
    (r < 32) ∧ (WriteAllowed s q (0x2500 + r) 0x30 m.toNat = true) ∧ (∀ k, k < 16 →
        quiet_queueFlagsMismatchesAndVisibility (s.served q) (queueKey r k)) ∧ (t.reply q.owner = .done) ∧ (∀ k, k <
        16 → m.getLsbD k = true → (t.queue (queueKey r k)).wmHi = false ∧ (t.queue (queueKey r k)).wmLo = false) ∧
        (∀ k, k < 16 → m.getLsbD k = false → t.queue (queueKey r k) = s.queue (queueKey r k)) ∧ (keptBut (.belfry ::
        .queues :: answerAreas) s t = true)) ∧
    (let s : State := qu F0 (queueKey 1 15) { mode := 1, width := 2, words := W3, wptr := 2 };
    let r : Nat := 1;
    let k : Nat := 15;
    let which : Nat := 1;
    let t0 : Nat := 100;
    let t : State := after (.queuePointerMismatch r k which t0) s;
    (r < 32) ∧ (k < 16) ∧ (s.pointerRuns (queueKey r k) which = true) ∧ (s.queueScheduled (queueKey r k) = false) ∧
        ((t.queue (queueKey r k)).words = []) ∧ ((t.queue (queueKey r k)).pack = []) ∧ ((t.queue (queueKey r
        k)).wptr = 0) ∧ ((t.queue (queueKey r k)).rptr = 0) ∧ (t.reg (0x2500 + r) 0x31 = sat32 (s.reg (0x2500 + r)
        0x31 + 1)) ∧ (∀ j, j < 40 → j ≠ queueKey r k → t.queue j = s.queue j) ∧ (keptBut (.belfry :: .queues ::
        logAreas) s t = true)) ∧
    (let s : State := qu (reg_ F0 1 { run 1 with slots := [slot false 0 50 6 15 0] }) (queueKey 1 15) { mode := 1, width := 2, words := W3, wptr := 2 };
    let r : Nat := 1;
    let k : Nat := 15;
    let which : Nat := 2;
    let t0 : Nat := 100;
    let p : Nat := 0;
    let t : State := after (.queuePointerMismatch r k which t0) s;
    (r < 32) ∧ (k < 16) ∧ (s.pointerRuns (queueKey r k) which = true) ∧ (s.queueScheduled (queueKey r k) = true) ∧
        ((s.region r).part = some p) ∧ ((s.part p).status = .armed) ∧ ((s.region r).fenced = false) ∧ ((t.region
        r).fenced = true) ∧ ((t.part p).status = .broken) ∧ (t.reg (0x2500 + r) 6 = evCode 3 3 r 1)) ∧
    (let s : State := qu F0 (queueKey 1 15) { mode := 2, width := 2, words := W3, unread := [10] };
    let r : Nat := 1;
    let k : Nat := 15;
    let t0 : Nat := 100;
    let c : Nat := 10;
    let l : List Nat := [];
    let t : State := after (.dualClockWordReadable r k false t0) s;
    ((s.queue (queueKey r k)).split = true) ∧ ((now_queueFlagsMismatchesAndVisibility s r k t0).unread = c :: l) ∧
        (c ≤ (s.toChip.upTo t0).sideCycle ((s.queue (queueKey r k)).reader (queueKey r k))) ∧ ((t.queue (queueKey r
        k)).unread = l) ∧ ((t.queue (queueKey r k)).words = (now_queueFlagsMismatchesAndVisibility s r k t0).words)
        ∧ (keptBut [.belfry, .queues] s t = true)) ∧
    (let s : State := qu F0 (queueKey 1 15) { mode := 2, width := 2, words := W3, unfreed := [10] };
    let r : Nat := 1;
    let k : Nat := 15;
    let t0 : Nat := 100;
    let c : Nat := 10;
    let l : List Nat := [];
    let t : State := after (.dualClockWordReadable r k true t0) s;
    ((s.queue (queueKey r k)).split = true) ∧ ((now_queueFlagsMismatchesAndVisibility s r k t0).unfreed = c :: l) ∧
        (c ≤ (s.toChip.upTo t0).sideCycle ((s.queue (queueKey r k)).writer (queueKey r k))) ∧ ((t.queue (queueKey r
        k)).unfreed = l) ∧ ((t.queue (queueKey r k)).words = (now_queueFlagsMismatchesAndVisibility s r k t0).words)
        ∧ (keptBut [.belfry, .queues] s t = true)) :=
  ⟨by decide +kernel, by decide +kernel, by decide +kernel, by decide +kernel, by decide +kernel, by decide +kernel⟩
abbrev now_hostQueueWindows := fun (s : State) (k t0 : Nat) => (s.toChip.upTo t0).queueNow k
theorem test_HostQueueWindows :
    (let s : State := qu (od F0 [(0x211003, 0)]) 16 { mode := 3, width := 2, pack := [1#8] };
    let h : Nat := 0;
    let o : Nat := (16 * 4096) + 0xFC;
    let t0 : Nat := 100;
    let d : BitVec 32 := 0x04030201#32;
    let t : State := after (.hostQueuePush h o d true t0) s;
    (s.hostOn = true) ∧ (s.windowOpen h (windowQueue o) = true) ∧ ((s.queue (windowQueue o)).mode = 3) ∧ (o % 4096 <
        0x100) ∧ ((now_hostQueueWindows s (windowQueue o) t0).disabled = false) ∧ ((now_hostQueueWindows s
        (windowQueue o) t0).pack.length < 12) ∧ ((t.queue (windowQueue o)).pack = (now_hostQueueWindows s
        (windowQueue o) t0).pack ++ toBytes 4 d.toNat) ∧ (∀ j, j < 40 → j ≠ windowQueue o → t.queue j = s.queue j) ∧
        (keptBut [.belfry, .queues] s t = true)) ∧
    (let s : State := qu (od F0 [(0x211003, 0)]) 16 { mode := 3, width := 2, pack := [1#8], words := W3 };
    let h : Nat := 0;
    let o : Nat := (16 * 4096) + 0x200;
    let t0 : Nat := 100;
    let t : State := after (.hostQueueClose h o t0) s;
    (s.hostOn = true) ∧ (s.windowOpen h (windowQueue o) = true) ∧ ((s.queue (windowQueue o)).mode = 3) ∧ (o % 4096 =
        0x200) ∧ ((now_hostQueueWindows s (windowQueue o) t0).disabled = false) ∧ ((now_hostQueueWindows s
        (windowQueue o) t0).pack ≠ []) ∧ ((now_hostQueueWindows s (windowQueue o) t0).writeDepth < 256) ∧ ((t.queue
        (windowQueue o)).pack = []) ∧ ((t.queue (windowQueue o)).words = (now_hostQueueWindows s (windowQueue o)
        t0).words ++ [packedWord (now_hostQueueWindows s (windowQueue o) t0).pack]) ∧ (∀ j, j < 40 → j ≠ windowQueue
        o → t.queue j = s.queue j) ∧ (keptBut [.belfry, .queues] s t = true)) ∧
    (let s : State := qu (od F0 [(0x211003, 0)]) 16 { mode := 4, width := 2, words := W3 };
    let h : Nat := 0;
    let o : Nat := (16 * 4096);
    let t0 : Nat := 100;
    let w : BitVec 128 × BitVec 16 := (7#128, 0xFFFF#16);
    let l : List (BitVec 128 × BitVec 16) := [(9#128, 3#16)];
    let t : State := after (.hostQueuePop h o t0) s;
    (s.hostOn = true) ∧ (s.windowOpen h (windowQueue o) = true) ∧ ((s.queue (windowQueue o)).mode = 4) ∧ (o % 4096 =
        0) ∧ ((now_hostQueueWindows s (windowQueue o) t0).disabled = false) ∧ ((now_hostQueueWindows s (windowQueue
        o) t0).readDepth ≠ 0) ∧ ((now_hostQueueWindows s (windowQueue o) t0).words = w :: l) ∧ ((t.queue
        (windowQueue o)).words = l) ∧ ((t.port h).cpl = 0) ∧ ((t.port h).data = toBytes 16 w.1.toNat ++ toBytes 16
        w.2.toNat) ∧ (∀ j, j < 40 → j ≠ windowQueue o → t.queue j = s.queue j) ∧ (keptBut [.belfry, .queues, .ports]
        s t = true)) ∧
    (let s : State := qu (od F0 [(0x211003, 0)]) 16 { mode := 3 };
    let h : Nat := 3;
    let o : Nat := (16 * 4096);
    let t0 : Nat := 100;
    let d : BitVec 32 := 1#32;
    let f : Bool := true;
    let t : State := after (.hostQueuePush h o d f t0) s;
    (h < 4) ∧ (s.hostOn = true) ∧ (s.windowOpen h (windowQueue o) = false) ∧ (t.reg (0x2800 + h) 0x0C = sat32 (s.reg
        (0x2800 + h) 0x0C + 1)) ∧ (keptBut [.belfry, .dict] s t = true)) ∧
    (let s : State := qu (od F0 [(0x211003, 0)]) 16 { mode := 4 };
    let h : Nat := 3;
    let o : Nat := (16 * 4096);
    let t0 : Nat := 100;
    let t : State := after (.hostQueuePop h o t0) s;
    (h < 4) ∧ (s.hostOn = true) ∧ (s.windowOpen h (windowQueue o) = false) ∧ ((t.port h).cpl = 1) ∧ ((t.port h).data
        = []) ∧ (t.reg (0x2800 + h) 0x0C = sat32 (s.reg (0x2800 + h) 0x0C + 1)) ∧ (keptBut [.belfry, .dict, .ports]
        s t = true)) ∧
    (let s : State := dm (qu (od F0 [(0x211003, 0)]) 16 { mode := 3 }) fun d => { d with clocks := [(34, .lost)] };
    let h : Nat := 0;
    let o : Nat := (16 * 4096);
    let t0 : Nat := 100;
    let d : BitVec 32 := 1#32;
    let f : Bool := true;
    let t : State := after (.hostQueuePush h o d f t0) s;
    (s.hostOn = false) ∧ (keptBut [.belfry] s t = true)) :=
  ⟨by decide +kernel, by decide +kernel, by decide +kernel, by decide +kernel, by decide +kernel, by decide +kernel⟩

/-! ### Witnesses of chapter 8 -/

abbrev nextPc_controlInstructionsSteerTheSequencer := fun (x : Group) => if 1 < x.rep then x.pc else match x.regs.loop with | some l => if x.pc = l.last ∧ x.regs.lc ≠ 0#16 then l.first else x.pc + 1 | none => x.pc + 1
abbrev kept_controlInstructionsSteerTheSequencer := fun (s t : State) (g : Grp) (x : Issue) => (t.group g).acc =
    ((s.atIssue g x).group g).acc ∧ (t.group g).outr = ((s.atIssue g x).group g).outr ∧ (∀ j, j < 40 → j ≠ groupKey
    g.r g.b → Tab.get {} t.slices.groups j = Tab.get {} (s.atIssue g x).slices.groups j) ∧ slicesSame (s.atIssue g x)
    t.toChip = true ∧ keptBut [.slices] (s.on (s.atIssue g x)) t = true
abbrev regsKept_controlInstructionsSteerTheSequencer := fun (s t : State) (g : Grp) (x : Issue) => (∀ i, i < 40 →
    (t.group g).regs.addr i = ((s.atIssue g x).group g).regs.addr i) ∧ (t.group g).regs.m = ((s.atIssue g x).group
    g).regs.m ∧ (t.group g).regs.flags = ((s.atIssue g x).group g).regs.flags ∧ (t.group g).bix = ((s.atIssue g
    x).group g).bix ∧ (t.group g).st = .run
abbrev goes_controlInstructionsSteerTheSequencer := fun (s t : State) (g : Grp) (x : Issue) =>
    kept_controlInstructionsSteerTheSequencer s t g x ∧ (t.group g).st = .run ∧ (t.group g).pc =
    nextPc_controlInstructionsSteerTheSequencer ((s.atIssue g x).group g) ∧ (t.group g).rep = ((s.atIssue g x).group
    g).rep - 1
abbrev issues_controlInstructionsSteerTheSequencer := fun (s : State) (g : Grp) (x : Issue) (op : Nat) => s.Issues g x
    op = true ∧ ((s.atIssue g x).group g).stopReq = false
abbrev low_controlInstructionsSteerTheSequencer := fun (k : Ctx) (n : Nat) => field k.w.toNat 0 n
abbrev regOf_controlInstructionsSteerTheSequencer := fun (k : Ctx) => field k.w.toNat 55 3
theorem test_ControlInstructionsSteerTheSequencer_1 :
    (let s : State := sg (iw 0x2 0 0 0 0 0 0 0 0 0) GA;
    let g : Grp := g8;
    let x : Issue := X1;
    ((s.group g).fetchAt = none) ∧ ((s.group g).cmHeld = none) ∧ (Tab.get {} (s.atIssue g x).slices.groups 66 =
        Tab.get {} s.slices.groups 66 ∧ slicesSame s.toChip (s.atIssue g x) = true ∧ keptBut [.belfry, .slices] s
        (s.on (s.atIssue g x)) = true)) ∧
    (let goes := fun (s t : State) (g : Grp) (x : Issue) => kept_controlInstructionsSteerTheSequencer s t g x ∧
        (t.group g).st = .run ∧ (t.group g).pc = nextPc_controlInstructionsSteerTheSequencer ((s.atIssue g x).group
        g) ∧ (t.group g).rep = ((s.atIssue g x).group g).rep - 1;
    let i : Grp → Issue → Instr := Instr.nop;
    let op : Nat := 0x00;
    let s : State := sg (iw 0x0 0 0 0 0 0 0 0 0 0) GA;
    let g : Grp := g8;
    let x : Issue := X1;
    let t : State := after (i g x) s;
    (issues_controlInstructionsSteerTheSequencer s g x op) ∧ (goes s t g x) ∧
        (regsKept_controlInstructionsSteerTheSequencer s t g x)) ∧
    (let goes := fun (s t : State) (g : Grp) (x : Issue) => kept_controlInstructionsSteerTheSequencer s t g x ∧
        (t.group g).st = .run ∧ (t.group g).pc = nextPc_controlInstructionsSteerTheSequencer ((s.atIssue g x).group
        g) ∧ (t.group g).rep = ((s.atIssue g x).group g).rep - 1;
    let i : Grp → Issue → Instr := Instr.nop;
    let op : Nat := 0x00;
    let s : State := sg (iw 0x0 0 0 0 0 0 0 0 0 0) { GA with rep := 3 };
    let g : Grp := g8;
    let x : Issue := X1;
    let t : State := after (i g x) s;
    (issues_controlInstructionsSteerTheSequencer s g x op) ∧ (goes s t g x) ∧
        (regsKept_controlInstructionsSteerTheSequencer s t g x)) ∧
    (let s : State := sg (iw 0x1 0 0 0 0 0 0 0 0 0) { GA with pending := 3#4, evMask := 0#4 };
    let g : Grp := g8;
    let x : Issue := X1;
    let t : State := after (.stop g x) s;
    (issues_controlInstructionsSteerTheSequencer s g x 0x01) ∧ (kept_controlInstructionsSteerTheSequencer s t g x ∧
        (t.group g).st = .run ∧ (t.group g).pc = ((s.atIssue g x).group g).pc + 1 ∧ (t.group g).main = ((s.atIssue g
        x).group g).main ∧ (t.group g).stopping = some (s.issueCycle g x + 1, true) ∧ ((t.group g).settle
        (s.issueCycle g x + 1)).st = .stop ∧ ((t.group g).settle (s.issueCycle g x + 1)).done = some (s.issueCycle g
        x + 1) ∧ ((t.group g).settle (s.issueCycle g x + 1)).pending = 0#4 ∧ ((t.group g).settle (s.issueCycle g x))
        = t.group g)) ∧
    (let s : State := sg (iw 2 0 0 0 0 0 0 0 0 4095) GA;
    let g : Grp := g8;
    let x : Issue := X1;
    let t : State := after (.jmp g x) s;
    (issues_controlInstructionsSteerTheSequencer s g x 0x02) ∧ (kept_controlInstructionsSteerTheSequencer s t g x) ∧
        (regsKept_controlInstructionsSteerTheSequencer s t g x) ∧ ((t.group g).pc =
        low_controlInstructionsSteerTheSequencer (s.issueCtx g x) 12) ∧ ((t.group g).gap = 2) ∧ ((t.group
        g).regs.loop = none)) ∧
    (let s : State := sg (iw 3 0 0 0 0 0 0 0 0 9) GA;
    let g : Grp := g8;
    let x : Issue := X1;
    let t : State := after (.djnz g x) s;
    (issues_controlInstructionsSteerTheSequencer s g x 0x03) ∧ (kept_controlInstructionsSteerTheSequencer s t g x) ∧
        (∀ j, j < 40 → (t.group g).regs.addr j = if j = regOf_controlInstructionsSteerTheSequencer (s.issueCtx g x)
        then ((s.atIssue g x).group g).regs.addr j - 1#14 else ((s.atIssue g x).group g).regs.addr j) ∧ (if
        ((s.atIssue g x).group g).regs.addr (regOf_controlInstructionsSteerTheSequencer (s.issueCtx g x)) = 1#14
        then (t.group g).pc = nextPc_controlInstructionsSteerTheSequencer ((s.atIssue g x).group g) ∧ (t.group
        g).gap = 0 else (t.group g).pc = low_controlInstructionsSteerTheSequencer (s.issueCtx g x) 12 ∧ (t.group
        g).gap = 2 ∧ (t.group g).regs.loop = none)) :=
  ⟨by decide +kernel, by decide +kernel, by decide +kernel, by decide +kernel, by decide +kernel, by decide +kernel⟩
theorem test_ControlInstructionsSteerTheSequencer_2 :
    (let s : State := sg (iw 3 1 0 0 0 0 0 0 0 9) GA;
    let g : Grp := g8;
    let x : Issue := X1;
    let t : State := after (.djnz g x) s;
    (issues_controlInstructionsSteerTheSequencer s g x 0x03) ∧ (kept_controlInstructionsSteerTheSequencer s t g x) ∧
        (∀ j, j < 40 → (t.group g).regs.addr j = if j = regOf_controlInstructionsSteerTheSequencer (s.issueCtx g x)
        then ((s.atIssue g x).group g).regs.addr j - 1#14 else ((s.atIssue g x).group g).regs.addr j) ∧ (if
        ((s.atIssue g x).group g).regs.addr (regOf_controlInstructionsSteerTheSequencer (s.issueCtx g x)) = 1#14
        then (t.group g).pc = nextPc_controlInstructionsSteerTheSequencer ((s.atIssue g x).group g) ∧ (t.group
        g).gap = 0 else (t.group g).pc = low_controlInstructionsSteerTheSequencer (s.issueCtx g x) 12 ∧ (t.group
        g).gap = 2 ∧ (t.group g).regs.loop = none)) ∧
    (let s : State := sg (iw 4 0 0 0 0 0 0 0 0 (9 * 65536 + 3)) GA;
    let g : Grp := g8;
    let x : Issue := X1;
    let t : State := after (.loop g x) s;
    (issues_controlInstructionsSteerTheSequencer s g x 0x04) ∧ (((s.atIssue g x).group g).regs.loop = none) ∧
        (((s.atIssue g x).group g).pc < field (s.issueCtx g x).w.toNat 16 12) ∧
        (kept_controlInstructionsSteerTheSequencer s t g x) ∧ (regsKept_controlInstructionsSteerTheSequencer s t g
        x) ∧ ((t.group g).pc = ((s.atIssue g x).group g).pc + 1) ∧ ((t.group g).regs.lc = BitVec.ofNat 16
        (low_controlInstructionsSteerTheSequencer (s.issueCtx g x) 16)) ∧ ((t.group g).regs.loop = some { first := ((s.atIssue g x).group g).pc + 1, last := field (s.issueCtx g x).w.toNat 16 12 })) ∧
    (let s : State := sg (iw 5 0 0 0 0 0 0 0 0 4095) GA;
    let g : Grp := g8;
    let x : Issue := X1;
    let t : State := after (.rep g x) s;
    (issues_controlInstructionsSteerTheSequencer s g x 0x05) ∧ (((s.atIssue g x).group g).regs.loop = none) ∧
        (kept_controlInstructionsSteerTheSequencer s t g x) ∧ (regsKept_controlInstructionsSteerTheSequencer s t g
        x) ∧ ((t.group g).rep = low_controlInstructionsSteerTheSequencer (s.issueCtx g x) 12 + 1) ∧ ((t.group g).pc
        = ((s.atIssue g x).group g).pc + 1)) ∧
    (let s : State := sg (iw 0x6 0 0 0 0 0 0 0 0 0) { GA with handler := some { ev := 2, since := 0 }, saved := 77, bound := [9, 9, 9000000, 9] };
    let g : Grp := g8;
    let x : Issue := X1;
    let h : Handler := { ev := 2, since := 0 };
    let t : State := after (.ret g x) s;
    (issues_controlInstructionsSteerTheSequencer s g x 0x06) ∧ (((s.atIssue g x).group g).handler = some h) ∧
        (h.late = true ∨ (s.atIssue g x).overdue g h.ev h.since ((s.atIssue g x).groupNet0 g) = false) ∧
        (((s.atIssue g x).group g).pending &&& ((s.atIssue g x).group g).evMask = 0#4) ∧
        (kept_controlInstructionsSteerTheSequencer s t g x) ∧ ((t.group g).handler = none) ∧ ((t.group g).pc =
        ((s.atIssue g x).group g).saved) ∧ ((t.group g).gap = 2) ∧ ((t.group g).regs = ((s.atIssue g x).group
        g).main) ∧ ((t.group g).shadow = ((s.atIssue g x).group g).shadow)) ∧
    (let s : State := sg (iw 0x6 0 0 0 0 0 0 0 0 0) { GA with handler := some { ev := 2, since := 0 }, saved := 77, bound := [9, 9, 9000000, 9], pending := 2#4, evEnable := 2#4, entry := [0, 44, 0, 0] };
    let g : Grp := g8;
    let x : Issue := X1;
    let h : Handler := { ev := 2, since := 0 };
    let ev : Nat := 1;
    let t : State := after (.ret g x) s;
    (issues_controlInstructionsSteerTheSequencer s g x 0x06) ∧ (((s.atIssue g x).group g).handler = some h) ∧
        (h.late = true ∨ (s.atIssue g x).overdue g h.ev h.since ((s.atIssue g x).groupNet0 g) = false) ∧
        (((s.atIssue g x).group g).eventReady (s.issueCycle g x) = some ev) ∧
        (kept_controlInstructionsSteerTheSequencer s t g x) ∧ ((t.group g).handler.map (·.ev) = some ev) ∧ ((t.group
        g).pc = ((s.atIssue g x).group g).entry.getD ev 0) ∧ ((t.group g).gap = 0) ∧ ((t.group g).saved =
        ((s.atIssue g x).group g).saved) ∧ ((t.group g).pending.getLsbD ev = false) ∧ ((t.group g).main =
        ((s.atIssue g x).group g).main) ∧ ((t.group g).shadow = ((s.atIssue g x).group g).shadow)) ∧
    (let goes := fun (s t : State) (g : Grp) (x : Issue) => kept_controlInstructionsSteerTheSequencer s t g x ∧
        (t.group g).st = .run ∧ (t.group g).pc = nextPc_controlInstructionsSteerTheSequencer ((s.atIssue g x).group
        g) ∧ (t.group g).rep = ((s.atIssue g x).group g).rep - 1;
    let s : State := sg (iw 8 0 0 0 0 0 0 0 0 5) GA;
    let g : Grp := g8;
    let x : Issue := X1;
    let t : State := after (.evmask g x) s;
    (issues_controlInstructionsSteerTheSequencer s g x 0x08) ∧ (goes s t g x) ∧
        (regsKept_controlInstructionsSteerTheSequencer s t g x) ∧ ((t.group g).evMask = BitVec.ofNat 4
        (low_controlInstructionsSteerTheSequencer (s.issueCtx g x) 4))) :=
  ⟨by decide +kernel, by decide +kernel, by decide +kernel, by decide +kernel, by decide +kernel, by decide +kernel⟩
theorem test_ControlInstructionsSteerTheSequencer_3 :
    (let goes := fun (s t : State) (g : Grp) (x : Issue) => kept_controlInstructionsSteerTheSequencer s t g x ∧
        (t.group g).st = .run ∧ (t.group g).pc = nextPc_controlInstructionsSteerTheSequencer ((s.atIssue g x).group
        g) ∧ (t.group g).rep = ((s.atIssue g x).group g).rep - 1;
    let s : State := sg (iw 9 7 0 0 0 0 0 0 0 16383) GA;
    let g : Grp := g8;
    let x : Issue := X1;
    let t : State := after (.seta g x) s;
    (issues_controlInstructionsSteerTheSequencer s g x 0x09) ∧ (goes s t g x) ∧ (∀ j, j < 40 → (t.group g).regs.addr
        j = if j = regOf_controlInstructionsSteerTheSequencer (s.issueCtx g x) then BitVec.ofNat 14
        (low_controlInstructionsSteerTheSequencer (s.issueCtx g x) 14) else ((s.atIssue g x).group g).regs.addr j)) ∧
    (let goes := fun (s t : State) (g : Grp) (x : Issue) => kept_controlInstructionsSteerTheSequencer s t g x ∧
        (t.group g).st = .run ∧ (t.group g).pc = nextPc_controlInstructionsSteerTheSequencer ((s.atIssue g x).group
        g) ∧ (t.group g).rep = ((s.atIssue g x).group g).rep - 1;
    let s : State := sg (iw 10 1 0 0 0 0 0 0 0 65535) GA;
    let g : Grp := g8;
    let x : Issue := X1;
    let t : State := after (.adda g x) s;
    (issues_controlInstructionsSteerTheSequencer s g x 0x0A) ∧ (goes s t g x) ∧ (∀ j, j < 40 → (t.group g).regs.addr
        j = if j = regOf_controlInstructionsSteerTheSequencer (s.issueCtx g x) then ((s.atIssue g x).group
        g).regs.addr j + BitVec.ofNat 14 (low_controlInstructionsSteerTheSequencer (s.issueCtx g x) 16) else
        ((s.atIssue g x).group g).regs.addr j)) ∧
    (let goes := fun (s t : State) (g : Grp) (x : Issue) => kept_controlInstructionsSteerTheSequencer s t g x ∧
        (t.group g).st = .run ∧ (t.group g).pc = nextPc_controlInstructionsSteerTheSequencer ((s.atIssue g x).group
        g) ∧ (t.group g).rep = ((s.atIssue g x).group g).rep - 1;
    let s : State := sg (BitVec.ofNat 64 (11 * 2 ^ 58 + 7 * 2 ^ 55 + 0x80020003)) GA;
    let g : Grp := g8;
    let x : Issue := X1;
    let t : State := after (.setm g x) s;
    (issues_controlInstructionsSteerTheSequencer s g x 0x0B) ∧ (goes s t g x) ∧ (∀ j, j < 40 → (t.group
        g).regs.modifier j = if j = regOf_controlInstructionsSteerTheSequencer (s.issueCtx g x) then BitVec.ofNat 32
        (low_controlInstructionsSteerTheSequencer (s.issueCtx g x) 32) else ((s.atIssue g x).group g).regs.modifier
        j)) ∧
    (let goes := fun (s t : State) (g : Grp) (x : Issue) => kept_controlInstructionsSteerTheSequencer s t g x ∧
        (t.group g).st = .run ∧ (t.group g).pc = nextPc_controlInstructionsSteerTheSequencer ((s.atIssue g x).group
        g) ∧ (t.group g).rep = ((s.atIssue g x).group g).rep - 1;
    let s : State := sg (iw 12 0 0 0 0 0 0 0 0 3) GA;
    let g : Grp := g8;
    let x : Issue := X1;
    let t : State := after (.clrf g x) s;
    (issues_controlInstructionsSteerTheSequencer s g x 0x0C) ∧ (goes s t g x) ∧ ((t.group g).regs.flags = (if
        (s.issueCtx g x).w.getLsbD 0 then 0#5 else ((s.atIssue g x).group g).regs.flags)) ∧ (∀ l, l < 8 → (t.group
        g).bixNow l = if (s.issueCtx g x).w.getLsbD 1 then BitVec.ofNat 16 l else if (s.issueCtx g x).w.getLsbD 2
        then 0#16 else ((s.atIssue g x).group g).bixNow l)) ∧
    (let goes := fun (s t : State) (g : Grp) (x : Issue) => kept_controlInstructionsSteerTheSequencer s t g x ∧
        (t.group g).st = .run ∧ (t.group g).pc = nextPc_controlInstructionsSteerTheSequencer ((s.atIssue g x).group
        g) ∧ (t.group g).rep = ((s.atIssue g x).group g).rep - 1;
    let s : State := sg (iw 12 0 0 0 0 0 0 0 0 4) GA;
    let g : Grp := g8;
    let x : Issue := X1;
    let t : State := after (.clrf g x) s;
    (issues_controlInstructionsSteerTheSequencer s g x 0x0C) ∧ (goes s t g x) ∧ ((t.group g).regs.flags = (if
        (s.issueCtx g x).w.getLsbD 0 then 0#5 else ((s.atIssue g x).group g).regs.flags)) ∧ (∀ l, l < 8 → (t.group
        g).bixNow l = if (s.issueCtx g x).w.getLsbD 1 then BitVec.ofNat 16 l else if (s.issueCtx g x).w.getLsbD 2
        then 0#16 else ((s.atIssue g x).group g).bixNow l)) :=
  ⟨by decide +kernel, by decide +kernel, by decide +kernel, by decide +kernel, by decide +kernel⟩
abbrev prod_integerInstructionsWriteAccumulators := fun (s : State) (g : Grp) (x : Issue) (l : Nat) => extInt
    (pUnsigned (s.issueCtx g x).w) ((s.atIssue g x).opP (s.issueCtx g x) l) * extInt (qUnsigned (s.issueCtx g x).w)
    ((s.atIssue g x).opQ (s.issueCtx g x) l)
abbrev accD_integerInstructionsWriteAccumulators := fun (s : State) (g : Grp) (x : Issue) (l : Nat) => ((s.atIssue g
    x).group g).accNow l (wAccD (s.issueCtx g x).w)
abbrev sat_integerInstructionsWriteAccumulators := fun (s : State) (g : Grp) (x : Issue) => bit (wMode (s.issueCtx g
    x).w) 2
abbrev writes_integerInstructionsWriteAccumulators := fun (s t : State) (g : Grp) (x : Issue) (v : Nat → BitVec 80 ×
    BitVec 5) => (∀ l, l < 8 → ∀ n, n < 8 → (t.group g).accNow l n = if n = wAccD (s.issueCtx g x).w ∧ wLane
    (s.issueCtx g x).w l = true then (v l).1 else ((s.atIssue g x).group g).accNow l n) ∧ (t.group g).regs.flags =
    (enabled (s.issueCtx g x).w).foldl (fun f l => f ||| (v l).2) ((s.atIssue g x).group g).regs.flags ∧ (t.group
    g).bix = ((s.atIssue g x).group g).bix ∧ (t.group g).outr = ((s.atIssue g x).group g).outr ∧ (∀ j, j < 40 → j ≠
    groupKey g.r g.b → Tab.get {} t.slices.groups j = Tab.get {} (s.atIssue g x).slices.groups j) ∧ slicesSame
    (s.atIssue g x) t.toChip = true ∧ keptBut [.slices] (s.on (s.atIssue g x)) t = true
abbrev issues_integerInstructionsWriteAccumulators := fun (s : State) (g : Grp) (x : Issue) (op : Nat) => s.Issues g x
    op = true ∧ ((s.atIssue g x).group g).stopReq = false
abbrev p_integerInstructionsWriteAccumulators := fun (s : State) (g : Grp) (x : Issue) (l : Nat) => extInt (bit (wMode
    (s.issueCtx g x).w) 0) ((s.atIssue g x).opP (s.issueCtx g x) l)
abbrev accA_integerInstructionsWriteAccumulators := fun (s : State) (g : Grp) (x : Issue) (l : Nat) => ((s.atIssue g
    x).group g).accRead (s.issueCycle g x) l (wAccA (s.issueCtx g x).w)
theorem test_IntegerInstructionsWriteAccumulators_1 :
    (let s : State := sg (iw 0x10 2 0 3 5 0 0 0xC3 0 0) GA;
    let g : Grp := g8;
    let x : Issue := X1;
    let t : State := after (.mac g x) s;
    (issues_integerInstructionsWriteAccumulators s g x 0x10) ∧ (writes_integerInstructionsWriteAccumulators s t g x
        fun l => narrow (sat_integerInstructionsWriteAccumulators s g x) ((accD_integerInstructionsWriteAccumulators
        s g x l).toInt + prod_integerInstructionsWriteAccumulators s g x l))) ∧
    (let s : State := sg (iw 0x11 2 0 3 5 0 0 0xC3 4 0) GA;
    let g : Grp := g8;
    let x : Issue := X1;
    let t : State := after (.msu g x) s;
    (issues_integerInstructionsWriteAccumulators s g x 0x11) ∧ (writes_integerInstructionsWriteAccumulators s t g x
        fun l => narrow (sat_integerInstructionsWriteAccumulators s g x) ((accD_integerInstructionsWriteAccumulators
        s g x l).toInt - prod_integerInstructionsWriteAccumulators s g x l))) ∧
    (let s : State := sg (iw 0x12 2 0 3 5 0 0 0xC3 3 0) GA;
    let g : Grp := g8;
    let x : Issue := X1;
    let t : State := after (.mul g x) s;
    (issues_integerInstructionsWriteAccumulators s g x 0x12) ∧ (writes_integerInstructionsWriteAccumulators s t g x
        fun l => (BitVec.ofInt 80 (prod_integerInstructionsWriteAccumulators s g x l), 0#5))) ∧
    (let s : State := sg (iw 0x13 2 2 3 0 0 0 0xC3 4 0) GA;
    let g : Grp := g8;
    let x : Issue := X1;
    let t : State := after (.add g x) s;
    (issues_integerInstructionsWriteAccumulators s g x 0x13) ∧ (writes_integerInstructionsWriteAccumulators s t g x
        fun l => narrow (sat_integerInstructionsWriteAccumulators s g x) ((accA_integerInstructionsWriteAccumulators
        s g x l).toInt + p_integerInstructionsWriteAccumulators s g x l))) ∧
    (let s : State := sg (iw 0x14 2 1 3 0 0 0 0xC3 0 0) GA;
    let g : Grp := g8;
    let x : Issue := X1;
    let t : State := after (.sub g x) s;
    (issues_integerInstructionsWriteAccumulators s g x 0x14) ∧ (writes_integerInstructionsWriteAccumulators s t g x
        fun l => narrow (sat_integerInstructionsWriteAccumulators s g x) ((accA_integerInstructionsWriteAccumulators
        s g x l).toInt - p_integerInstructionsWriteAccumulators s g x l))) ∧
    (let q := fun (s : State) (g : Grp) (x : Issue) (l : Nat) => extInt (bit (wMode (s.issueCtx g x).w) 0)
        ((s.atIssue g x).opQ (s.issueCtx g x) l);
    let s : State := sg (iw 0x15 2 0 3 5 0 0 0xC3 0 0) GA;
    let g : Grp := g8;
    let x : Issue := X1;
    let t : State := after (.absd g x) s;
    (issues_integerInstructionsWriteAccumulators s g x 0x15) ∧ (writes_integerInstructionsWriteAccumulators s t g x
        fun l => narrow false ((accD_integerInstructionsWriteAccumulators s g x l).toInt +
        ((p_integerInstructionsWriteAccumulators s g x l - q s g x l).natAbs : Nat)))) :=
  ⟨by decide +kernel, by decide +kernel, by decide +kernel, by decide +kernel, by decide +kernel, by decide +kernel⟩
theorem test_IntegerInstructionsWriteAccumulators_2 :
    (let s : State := sg (iw 0x16 2 1 0 0 0 0 0xC3 0 0) GA;
    let g : Grp := g8;
    let x : Issue := X1;
    let t : State := after (.mova g x) s;
    (issues_integerInstructionsWriteAccumulators s g x 0x16) ∧ (writes_integerInstructionsWriteAccumulators s t g x
        fun l => (accA_integerInstructionsWriteAccumulators s g x (sourceLane (s.issueCtx g x).w l), 0#5))) ∧
    (let s : State := sg (iw 0x17 2 0 3 0 0 0 0xC3 0 47) GA;
    let g : Grp := g8;
    let x : Issue := X1;
    let t : State := after (.lda g x) s;
    (issues_integerInstructionsWriteAccumulators s g x 0x17) ∧ (writes_integerInstructionsWriteAccumulators s t g x
        fun l => (BitVec.ofInt 80 (p_integerInstructionsWriteAccumulators s g x l * 2 ^ (wImm (s.issueCtx g x).w %
        64)), 0#5))) ∧
    (let s : State := sg (iw 0x18 2 1 0 0 0 0 0xC3 0 4) GA;
    let g : Grp := g8;
    let x : Issue := X1;
    let t : State := after (.sha g x) s;
    (issues_integerInstructionsWriteAccumulators s g x 0x18) ∧ (writes_integerInstructionsWriteAccumulators s t g x
        (fun l => narrow false ((accA_integerInstructionsWriteAccumulators s g x l).toInt * 2 ^ 4)))) ∧
    (let s : State := sg (iw 0x18 2 1 0 0 0 0 0xC3 0 252) GA;
    let g : Grp := g8;
    let x : Issue := X1;
    let t : State := after (.sha g x) s;
    (issues_integerInstructionsWriteAccumulators s g x 0x18) ∧ (writes_integerInstructionsWriteAccumulators s t g x
        (fun l => (BitVec.ofInt 80 ((accA_integerInstructionsWriteAccumulators s g x l).toInt / 2 ^ 4), 0#5)))) ∧
    (let s : State := sg (iw 0x19 2 1 0 0 0 0 0xC3 0 0) GA;
    let g : Grp := g8;
    let x : Issue := X1;
    let t : State := after (.mina g x) s;
    (issues_integerInstructionsWriteAccumulators s g x 0x19) ∧ (writes_integerInstructionsWriteAccumulators s t g x
        fun l => (BitVec.ofInt 80 (min (accA_integerInstructionsWriteAccumulators s g x l).toInt
        (accD_integerInstructionsWriteAccumulators s g x l).toInt), 0#5))) ∧
    (let s : State := sg (iw 0x1A 2 1 0 0 0 0 0xC3 0 0) GA;
    let g : Grp := g8;
    let x : Issue := X1;
    let t : State := after (.maxa g x) s;
    (issues_integerInstructionsWriteAccumulators s g x 0x1A) ∧ (writes_integerInstructionsWriteAccumulators s t g x
        fun l => (BitVec.ofInt 80 (max (accA_integerInstructionsWriteAccumulators s g x l).toInt
        (accD_integerInstructionsWriteAccumulators s g x l).toInt), 0#5))) :=
  ⟨by decide +kernel, by decide +kernel, by decide +kernel, by decide +kernel, by decide +kernel, by decide +kernel⟩
abbrev op1_fpTrellisAndResultInstructions := fun (s : State) (g : Grp) (x : Issue) (l : Nat) => (s.atIssue g x).opP
    (s.issueCtx g x) l
abbrev op2_fpTrellisAndResultInstructions := fun (s : State) (g : Grp) (x : Issue) (l : Nat) => (s.atIssue g x).opQ
    (s.issueCtx g x) l
abbrev accD_fpTrellisAndResultInstructions := fun (s : State) (g : Grp) (x : Issue) (l : Nat) => ((s.atIssue g
    x).group g).accNow l (wAccD (s.issueCtx g x).w)
abbrev fp_fpTrellisAndResultInstructions := fun (v : BitVec 80) => fpOf (BitVec.setWidth 32 v)
abbrev inv_fpTrellisAndResultInstructions := fun (r : FpResult) => (BitVec.setWidth 80 r.bits, (if r.fi then flagFI
    else 0#5) ||| (if r.fo then flagFO else 0#5) ||| (if r.fu then flagFU else 0#5))
abbrev lanes_fpTrellisAndResultInstructions := fun (s : State) (g : Grp) (x : Issue) => enabled (s.issueCtx g x).w
abbrev others_fpTrellisAndResultInstructions := fun (s t : State) (g : Grp) (x : Issue) (l : List Area) => (∀ j, j <
    40 → j ≠ groupKey g.r g.b → Tab.get {} t.slices.groups j = Tab.get {} (s.atIssue g x).slices.groups j) ∧
    t.slices.im = (s.atIssue g x).slices.im ∧ keptBut (.slices :: l) (s.on (s.atIssue g x)) t = true
abbrev flags_fpTrellisAndResultInstructions := fun (s t : State) (g : Grp) (x : Issue) (v : Nat → BitVec 5) =>
    (t.group g).regs.flags = (lanes_fpTrellisAndResultInstructions s g x).foldl (fun f l => f ||| v l) ((s.atIssue g
    x).group g).regs.flags
abbrev accs_fpTrellisAndResultInstructions := fun (s t : State) (g : Grp) (x : Issue) (v : Nat → BitVec 80) => ∀ l, l
    < 8 → ∀ n, n < 8 → (t.group g).accNow l n = if n = wAccD (s.issueCtx g x).w ∧ wLane (s.issueCtx g x).w l = true
    then v l else ((s.atIssue g x).group g).accNow l n
abbrev writes_fpTrellisAndResultInstructions := fun (s t : State) (g : Grp) (x : Issue) (v : Nat → BitVec 80 × BitVec
    5) => accs_fpTrellisAndResultInstructions s t g x (fun l => (v l).1) ∧ flags_fpTrellisAndResultInstructions s t g
    x (fun l => (v l).2) ∧ (t.group g).bix = ((s.atIssue g x).group g).bix ∧ (t.group g).outr = ((s.atIssue g x).group
    g).outr ∧ t.slices.cm = (s.atIssue g x).slices.cm ∧ t.slices.ds = (s.atIssue g x).slices.ds ∧
    others_fpTrellisAndResultInstructions s t g x []
abbrev issues_fpTrellisAndResultInstructions := fun (s : State) (g : Grp) (x : Issue) (op : Nat) => s.Issues g x op =
    true ∧ ((s.atIssue g x).group g).stopReq = false
abbrev accR_fpTrellisAndResultInstructions := fun (s : State) (g : Grp) (x : Issue) (l n : Nat) => ((s.atIssue g
    x).group g).accRead (s.issueCycle g x) l (wAccA (s.issueCtx g x).w + n)
abbrev metric_fpTrellisAndResultInstructions := fun (s : State) (g : Grp) (x : Issue) (l j : Nat) => field (if j < 2
    then op1_fpTrellisAndResultInstructions s g x l else op2_fpTrellisAndResultInstructions s g x l).toNat (16 * (j %
    2)) 16
abbrev path_fpTrellisAndResultInstructions := fun (s : State) (g : Grp) (x : Issue) (l j : Nat) => narrow false
    ((accR_fpTrellisAndResultInstructions s g x l j).toInt + metric_fpTrellisAndResultInstructions s g x l j)
abbrev best_fpTrellisAndResultInstructions := fun (s : State) (g : Grp) (x : Issue) (n l j : Nat) => j < n ∧ (∀ i, i <
    n → (path_fpTrellisAndResultInstructions s g x l j).1.toInt ≤ (path_fpTrellisAndResultInstructions s g x l
    i).1.toInt) ∧ (∀ i, i < j → (path_fpTrellisAndResultInstructions s g x l j).1.toInt <
    (path_fpTrellisAndResultInstructions s g x l i).1.toInt)
abbrev result_fpTrellisAndResultInstructions := fun (s : State) (g : Grp) (x : Issue) (l : Nat) => conv
    (accR_fpTrellisAndResultInstructions s g x l 0) (wImm (s.issueCtx g x).w % 128) (wMode (s.issueCtx g x).w % 4)
    (bit (wMode (s.issueCtx g x).w) 2)
theorem test_FpTrellisAndResultInstructions_1 :
    (let flags := fun (s t : State) (g : Grp) (x : Issue) (v : Nat → BitVec 5) => (t.group g).regs.flags =
        (lanes_fpTrellisAndResultInstructions s g x).foldl (fun f l => f ||| v l) ((s.atIssue g x).group
        g).regs.flags;
    let writes := fun (s t : State) (g : Grp) (x : Issue) (v : Nat → BitVec 80 × BitVec 5) =>
        accs_fpTrellisAndResultInstructions s t g x (fun l => (v l).1) ∧ flags s t g x (fun l => (v l).2) ∧ (t.group
        g).bix = ((s.atIssue g x).group g).bix ∧ (t.group g).outr = ((s.atIssue g x).group g).outr ∧ t.slices.cm =
        (s.atIssue g x).slices.cm ∧ t.slices.ds = (s.atIssue g x).slices.ds ∧ others_fpTrellisAndResultInstructions
        s t g x [];
    let s : State := sg (iw 0x20 2 0 3 5 0 0 0xC3 0 0) GA;
    let g : Grp := g8;
    let x : Issue := X1;
    let t : State := after (.fma g x) s;
    (issues_fpTrellisAndResultInstructions s g x 0x20) ∧ (writes s t g x fun l => inv_fpTrellisAndResultInstructions
        (fpFma (fp_fpTrellisAndResultInstructions (accD_fpTrellisAndResultInstructions s g x l)) (fpOf
        (op1_fpTrellisAndResultInstructions s g x l)) (fpOf (op2_fpTrellisAndResultInstructions s g x l))))) ∧
    (let flags := fun (s t : State) (g : Grp) (x : Issue) (v : Nat → BitVec 5) => (t.group g).regs.flags =
        (lanes_fpTrellisAndResultInstructions s g x).foldl (fun f l => f ||| v l) ((s.atIssue g x).group
        g).regs.flags;
    let writes := fun (s t : State) (g : Grp) (x : Issue) (v : Nat → BitVec 80 × BitVec 5) =>
        accs_fpTrellisAndResultInstructions s t g x (fun l => (v l).1) ∧ flags s t g x (fun l => (v l).2) ∧ (t.group
        g).bix = ((s.atIssue g x).group g).bix ∧ (t.group g).outr = ((s.atIssue g x).group g).outr ∧ t.slices.cm =
        (s.atIssue g x).slices.cm ∧ t.slices.ds = (s.atIssue g x).slices.ds ∧ others_fpTrellisAndResultInstructions
        s t g x [];
    let s : State := sg (iw 0x21 2 0 3 5 0 0 0xC3 0 0) GA;
    let g : Grp := g8;
    let x : Issue := X1;
    let t : State := after (.fms g x) s;
    (issues_fpTrellisAndResultInstructions s g x 0x21) ∧ (writes s t g x fun l => inv_fpTrellisAndResultInstructions
        (fpFma (fp_fpTrellisAndResultInstructions (accD_fpTrellisAndResultInstructions s g x l)) (fpOf
        (op1_fpTrellisAndResultInstructions s g x l)).neg (fpOf (op2_fpTrellisAndResultInstructions s g x l))))) ∧
    (let flags := fun (s t : State) (g : Grp) (x : Issue) (v : Nat → BitVec 5) => (t.group g).regs.flags =
        (lanes_fpTrellisAndResultInstructions s g x).foldl (fun f l => f ||| v l) ((s.atIssue g x).group
        g).regs.flags;
    let writes := fun (s t : State) (g : Grp) (x : Issue) (v : Nat → BitVec 80 × BitVec 5) =>
        accs_fpTrellisAndResultInstructions s t g x (fun l => (v l).1) ∧ flags s t g x (fun l => (v l).2) ∧ (t.group
        g).bix = ((s.atIssue g x).group g).bix ∧ (t.group g).outr = ((s.atIssue g x).group g).outr ∧ t.slices.cm =
        (s.atIssue g x).slices.cm ∧ t.slices.ds = (s.atIssue g x).slices.ds ∧ others_fpTrellisAndResultInstructions
        s t g x [];
    let s : State := sg (iw 0x22 2 0 3 5 0 0 0x2 0 0) GA;
    let g : Grp := g8;
    let x : Issue := X1;
    let t : State := after (.fmul g x) s;
    (issues_fpTrellisAndResultInstructions s g x 0x22) ∧ (writes s t g x fun l => inv_fpTrellisAndResultInstructions
        (fpMul (fpOf (op1_fpTrellisAndResultInstructions s g x l)) (fpOf (op2_fpTrellisAndResultInstructions s g x
        l))))) ∧
    (let flags := fun (s t : State) (g : Grp) (x : Issue) (v : Nat → BitVec 5) => (t.group g).regs.flags =
        (lanes_fpTrellisAndResultInstructions s g x).foldl (fun f l => f ||| v l) ((s.atIssue g x).group
        g).regs.flags;
    let writes := fun (s t : State) (g : Grp) (x : Issue) (v : Nat → BitVec 80 × BitVec 5) =>
        accs_fpTrellisAndResultInstructions s t g x (fun l => (v l).1) ∧ flags s t g x (fun l => (v l).2) ∧ (t.group
        g).bix = ((s.atIssue g x).group g).bix ∧ (t.group g).outr = ((s.atIssue g x).group g).outr ∧ t.slices.cm =
        (s.atIssue g x).slices.cm ∧ t.slices.ds = (s.atIssue g x).slices.ds ∧ others_fpTrellisAndResultInstructions
        s t g x [];
    let s : State := sg (iw 0x23 2 1 3 0 0 0 0xC3 0 0) GA;
    let g : Grp := g8;
    let x : Issue := X1;
    let t : State := after (.fadd g x) s;
    (issues_fpTrellisAndResultInstructions s g x 0x23) ∧ (writes s t g x fun l => inv_fpTrellisAndResultInstructions
        (fpAdd (fp_fpTrellisAndResultInstructions (accR_fpTrellisAndResultInstructions s g x l 0)) (fpOf
        (op1_fpTrellisAndResultInstructions s g x l))))) ∧
    (let flags := fun (s t : State) (g : Grp) (x : Issue) (v : Nat → BitVec 5) => (t.group g).regs.flags =
        (lanes_fpTrellisAndResultInstructions s g x).foldl (fun f l => f ||| v l) ((s.atIssue g x).group
        g).regs.flags;
    let writes := fun (s t : State) (g : Grp) (x : Issue) (v : Nat → BitVec 80 × BitVec 5) =>
        accs_fpTrellisAndResultInstructions s t g x (fun l => (v l).1) ∧ flags s t g x (fun l => (v l).2) ∧ (t.group
        g).bix = ((s.atIssue g x).group g).bix ∧ (t.group g).outr = ((s.atIssue g x).group g).outr ∧ t.slices.cm =
        (s.atIssue g x).slices.cm ∧ t.slices.ds = (s.atIssue g x).slices.ds ∧ others_fpTrellisAndResultInstructions
        s t g x [];
    let s : State := sg (iw 0x24 2 1 0 0 0 0 0xC3 0 3) GA;
    let g : Grp := g8;
    let x : Issue := X1;
    let t : State := after (.cvtf g x) s;
    (issues_fpTrellisAndResultInstructions s g x 0x24) ∧ (writes s t g x fun l => inv_fpTrellisAndResultInstructions
        (fpOfInt (accR_fpTrellisAndResultInstructions s g x l 0).toInt (wImm (s.issueCtx g x).w % 128)))) ∧
    (let flags := fun (s t : State) (g : Grp) (x : Issue) (v : Nat → BitVec 5) => (t.group g).regs.flags =
        (lanes_fpTrellisAndResultInstructions s g x).foldl (fun f l => f ||| v l) ((s.atIssue g x).group
        g).regs.flags;
    let writes := fun (s t : State) (g : Grp) (x : Issue) (v : Nat → BitVec 80 × BitVec 5) =>
        accs_fpTrellisAndResultInstructions s t g x (fun l => (v l).1) ∧ flags s t g x (fun l => (v l).2) ∧ (t.group
        g).bix = ((s.atIssue g x).group g).bix ∧ (t.group g).outr = ((s.atIssue g x).group g).outr ∧ t.slices.cm =
        (s.atIssue g x).slices.cm ∧ t.slices.ds = (s.atIssue g x).slices.ds ∧ others_fpTrellisAndResultInstructions
        s t g x [];
    let s : State := sg (iw 0x25 2 1 0 0 0 0 0xC3 0 4) GA;
    let g : Grp := g8;
    let x : Issue := X1;
    let t : State := after (.cvti g x) s;
    (issues_fpTrellisAndResultInstructions s g x 0x25) ∧ (writes s t g x fun l => match fpToInt
        (fp_fpTrellisAndResultInstructions (accR_fpTrellisAndResultInstructions s g x l 0)) (wImm (s.issueCtx g x).w
        % 128) with | some v => narrow true v | none => (0#80, flagFI))) :=
  ⟨by decide +kernel, by decide +kernel, by decide +kernel, by decide +kernel, by decide +kernel, by decide +kernel⟩
theorem test_FpTrellisAndResultInstructions_2 :
    (let flags := fun (s t : State) (g : Grp) (x : Issue) (v : Nat → BitVec 5) => (t.group g).regs.flags =
        (lanes_fpTrellisAndResultInstructions s g x).foldl (fun f l => f ||| v l) ((s.atIssue g x).group
        g).regs.flags;
    let writes := fun (s t : State) (g : Grp) (x : Issue) (v : Nat → BitVec 80 × BitVec 5) =>
        accs_fpTrellisAndResultInstructions s t g x (fun l => (v l).1) ∧ flags s t g x (fun l => (v l).2) ∧ (t.group
        g).bix = ((s.atIssue g x).group g).bix ∧ (t.group g).outr = ((s.atIssue g x).group g).outr ∧ t.slices.cm =
        (s.atIssue g x).slices.cm ∧ t.slices.ds = (s.atIssue g x).slices.ds ∧ others_fpTrellisAndResultInstructions
        s t g x [];
    let s : State := sg (iw 0x25 2 1 0 0 0 0 0x1 0 4) GA;
    let g : Grp := g8;
    let x : Issue := X1;
    let t : State := after (.cvti g x) s;
    (issues_fpTrellisAndResultInstructions s g x 0x25) ∧ (writes s t g x fun l => match fpToInt
        (fp_fpTrellisAndResultInstructions (accR_fpTrellisAndResultInstructions s g x l 0)) (wImm (s.issueCtx g x).w
        % 128) with | some v => narrow true v | none => (0#80, flagFI))) ∧
    (let flags := fun (s t : State) (g : Grp) (x : Issue) (v : Nat → BitVec 5) => (t.group g).regs.flags =
        (lanes_fpTrellisAndResultInstructions s g x).foldl (fun f l => f ||| v l) ((s.atIssue g x).group
        g).regs.flags;
    let metric := fun (s : State) (g : Grp) (x : Issue) (l j : Nat) => field (if j < 2 then
        op1_fpTrellisAndResultInstructions s g x l else op2_fpTrellisAndResultInstructions s g x l).toNat (16 * (j %
        2)) 16;
    let path := fun (s : State) (g : Grp) (x : Issue) (l j : Nat) => narrow false
        ((accR_fpTrellisAndResultInstructions s g x l j).toInt + metric s g x l j);
    let i : Grp → Issue → Instr := Instr.acs2;
    let op : Nat := 0x28;
    let n : Nat := 2;
    let s : State := sg (iw 0x28 2 1 3 5 0 0 0xC3 0 (1 * 2 ^ 21)) { GA with main := { a := [(1, 3#14)] } };
    let g : Grp := g8;
    let x : Issue := X1;
    let j : Nat → Nat := fun l => if l < 3 then 1 else 0;
    let t : State := after (i g x) s;
    (issues_fpTrellisAndResultInstructions s g x op) ∧ (∀ l, l < 8 → best_fpTrellisAndResultInstructions s g x n l
        (j l)) ∧ (accs_fpTrellisAndResultInstructions s t g x (fun l => (path s g x l (j l)).1)) ∧ (flags s t g x
        (fun l => (List.range n).foldl (fun f i => f ||| (path s g x l i).2) 0#5)) ∧ ((t.group g).bix = ((s.atIssue
        g x).group g).bix) ∧ (t.slices.cm = (s.atIssue g x).slices.cm) ∧ (others_fpTrellisAndResultInstructions s t
        g x [.mem, .inject]) ∧ ((t.dsWord g ((((s.atIssue g x).group g).regs.addr (wKreg (s.issueCtx g x).w)).toNat
        % 8192 / 2)).toNat = (let d := ((lanes_fpTrellisAndResultInstructions s g x).map fun l => j l * 2 ^ (n / 2 *
        l)).sum; if n = 4 then d else d * 256)) ∧ ([(g8, 0), (g8, 1), (g8, 4095), (g1, 0)].all (fun z => (z.1 == g
        && z.2 == (((s.atIssue g x).group g).regs.addr (wKreg (s.issueCtx g x).w)).toNat % 8192 / 2) || decide
        (t.dsWord z.1 z.2 = s.dsWord z.1 z.2)) = true)) ∧
    (let flags := fun (s t : State) (g : Grp) (x : Issue) (v : Nat → BitVec 5) => (t.group g).regs.flags =
        (lanes_fpTrellisAndResultInstructions s g x).foldl (fun f l => f ||| v l) ((s.atIssue g x).group
        g).regs.flags;
    let metric := fun (s : State) (g : Grp) (x : Issue) (l j : Nat) => field (if j < 2 then
        op1_fpTrellisAndResultInstructions s g x l else op2_fpTrellisAndResultInstructions s g x l).toNat (16 * (j %
        2)) 16;
    let path := fun (s : State) (g : Grp) (x : Issue) (l j : Nat) => narrow false
        ((accR_fpTrellisAndResultInstructions s g x l j).toInt + metric s g x l j);
    let i : Grp → Issue → Instr := Instr.acs4;
    let op : Nat := 0x29;
    let n : Nat := 4;
    let s : State := sg (iw 0x29 2 0 3 5 0 0 0xC 0 (1 * 2 ^ 21)) GA;
    let g : Grp := g8;
    let x : Issue := X1;
    let j : Nat → Nat := fun l => if l = 0 then 2 else if l = 2 then 1 else if l = 3 then 2 else 0;
    let t : State := after (i g x) s;
    (issues_fpTrellisAndResultInstructions s g x op) ∧ (∀ l, l < 8 → best_fpTrellisAndResultInstructions s g x n l
        (j l)) ∧ (accs_fpTrellisAndResultInstructions s t g x (fun l => (path s g x l (j l)).1)) ∧ (flags s t g x
        (fun l => (List.range n).foldl (fun f i => f ||| (path s g x l i).2) 0#5)) ∧ ((t.group g).bix = ((s.atIssue
        g x).group g).bix) ∧ (t.slices.cm = (s.atIssue g x).slices.cm) ∧ (others_fpTrellisAndResultInstructions s t
        g x [.mem, .inject]) ∧ ((t.dsWord g ((((s.atIssue g x).group g).regs.addr (wKreg (s.issueCtx g x).w)).toNat
        % 8192 / 2)).toNat = (let d := ((lanes_fpTrellisAndResultInstructions s g x).map fun l => j l * 2 ^ (n / 2 *
        l)).sum; if n = 4 then d else d * 256)) ∧ ([(g8, 0), (g8, 1), (g8, 4095), (g1, 0)].all (fun z => (z.1 == g
        && z.2 == (((s.atIssue g x).group g).regs.addr (wKreg (s.issueCtx g x).w)).toNat % 8192 / 2) || decide
        (t.dsWord z.1 z.2 = s.dsWord z.1 z.2)) = true)) ∧
    (let s : State := sg (iw 0x2A 2 1 3 0 0 0 0xC3 0 (1 * 2 ^ 21)) GA;
    let g : Grp := g8;
    let x : Issue := X1;
    let t : State := after (.minp g x) s;
    (issues_fpTrellisAndResultInstructions s g x 0x2A) ∧ (others_fpTrellisAndResultInstructions s t g x []) ∧
        (t.slices.cm = (s.atIssue g x).slices.cm) ∧ (t.slices.ds = (s.atIssue g x).slices.ds) ∧ ((t.group g).outr =
        ((s.atIssue g x).group g).outr) ∧ (∀ l, l < 8 → ∀ n, n < 8 → (n ≠ wAccD (s.issueCtx g x).w ∨ wLane
        (s.issueCtx g x).w l = false) → (t.group g).accNow l n = ((s.atIssue g x).group g).accNow l n) ∧ (∀ l, l < 8
        → wLane (s.issueCtx g x).w l = false → (t.group g).bixNow l = ((s.atIssue g x).group g).bixNow l)) ∧
    (let s : State := sg (iw 0x2A 2 1 3 0 0 0 0xC3 0 (1 * 2 ^ 21)) GA;
    let g : Grp := g8;
    let x : Issue := X1;
    let t : State := after (.minp g x) s;
    (issues_fpTrellisAndResultInstructions s g x 0x2A) ∧ ((∀ l, l < 8 → wLane (s.issueCtx g x).w l = true → (if
        (narrow false ((accR_fpTrellisAndResultInstructions s g x (sourceLane (s.issueCtx g x).w l) 0).toInt +
        (op1_fpTrellisAndResultInstructions s g x l).toInt)).1.toInt < (accD_fpTrellisAndResultInstructions s g x
        l).toInt then (t.group g).accNow l (wAccD (s.issueCtx g x).w) = (narrow false
        ((accR_fpTrellisAndResultInstructions s g x (sourceLane (s.issueCtx g x).w l) 0).toInt +
        (op1_fpTrellisAndResultInstructions s g x l).toInt)).1 ∧ (t.group g).bixNow l = (if wMode (s.issueCtx g x).w
        / 4 = 0 then BitVec.setWidth 16 (((s.atIssue g x).group g).regs.addr (wKreg (s.issueCtx g x).w)) else
        ((s.atIssue g x).group g).bixRead (s.issueCycle g x) (sourceLane (s.issueCtx g x).w l)) else (t.group
        g).accNow l (wAccD (s.issueCtx g x).w) = accD_fpTrellisAndResultInstructions s g x l ∧ (t.group g).bixNow l
        = ((s.atIssue g x).group g).bixNow l)))) ∧
    (let flags := fun (s t : State) (g : Grp) (x : Issue) (v : Nat → BitVec 5) => (t.group g).regs.flags =
        (lanes_fpTrellisAndResultInstructions s g x).foldl (fun f l => f ||| v l) ((s.atIssue g x).group
        g).regs.flags;
    let result := fun (s : State) (g : Grp) (x : Issue) (l : Nat) => conv (accR_fpTrellisAndResultInstructions s g x
        l 0) (wImm (s.issueCtx g x).w % 128) (wMode (s.issueCtx g x).w % 4) (bit (wMode (s.issueCtx g x).w) 2);
    let s : State := sg (iw 0x30 2 1 0 0 0 0 0xC3 0 3) GA;
    let g : Grp := g8;
    let x : Issue := X1;
    let t : State := after (.out g x) s;
    (issues_fpTrellisAndResultInstructions s g x 0x30) ∧ (others_fpTrellisAndResultInstructions s t g x []) ∧
        ((t.group g).bix = ((s.atIssue g x).group g).bix) ∧ (flags s t g x (fun l => if bit (wMode (s.issueCtx g
        x).w) 3 then 0#5 else (result s g x l).2)) ∧ ((t.group g).acc = ((s.atIssue g x).group g).acc) ∧
        (t.slices.cm = (s.atIssue g x).slices.cm) ∧ (t.slices.ds = (s.atIssue g x).slices.ds) ∧ ((t.group
        g).shown.getLast? = some (s.issueCycle g x + 4, BitVec.ofNat 8 (wLanes (s.issueCtx g x).w))) ∧ (∀ l, l < 8 →
        Tab.get 0#32 (t.group g).outr l = if wLane (s.issueCtx g x).w l = false then Tab.get 0#32 ((s.atIssue g
        x).group g).outr l else if bit (wMode (s.issueCtx g x).w) 3 then BitVec.setWidth 32 (((s.atIssue g x).group
        g).bixRead (s.issueCycle g x) l) else (result s g x l).1)) :=
  ⟨by decide +kernel, by decide +kernel, by decide +kernel, by decide +kernel, by decide +kernel, by decide +kernel⟩
theorem test_FpTrellisAndResultInstructions_3 :
    (let flags := fun (s t : State) (g : Grp) (x : Issue) (v : Nat → BitVec 5) => (t.group g).regs.flags =
        (lanes_fpTrellisAndResultInstructions s g x).foldl (fun f l => f ||| v l) ((s.atIssue g x).group
        g).regs.flags;
    let result := fun (s : State) (g : Grp) (x : Issue) (l : Nat) => conv (accR_fpTrellisAndResultInstructions s g x
        l 0) (wImm (s.issueCtx g x).w % 128) (wMode (s.issueCtx g x).w % 4) (bit (wMode (s.issueCtx g x).w) 2);
    let s : State := sg (iw 0x30 2 1 0 0 0 0 0xC3 8 0) GA;
    let g : Grp := g8;
    let x : Issue := X1;
    let t : State := after (.out g x) s;
    (issues_fpTrellisAndResultInstructions s g x 0x30) ∧ (others_fpTrellisAndResultInstructions s t g x []) ∧
        ((t.group g).bix = ((s.atIssue g x).group g).bix) ∧ (flags s t g x (fun l => if bit (wMode (s.issueCtx g
        x).w) 3 then 0#5 else (result s g x l).2)) ∧ ((t.group g).acc = ((s.atIssue g x).group g).acc) ∧
        (t.slices.cm = (s.atIssue g x).slices.cm) ∧ (t.slices.ds = (s.atIssue g x).slices.ds) ∧ ((t.group
        g).shown.getLast? = some (s.issueCycle g x + 4, BitVec.ofNat 8 (wLanes (s.issueCtx g x).w))) ∧ (∀ l, l < 8 →
        Tab.get 0#32 (t.group g).outr l = if wLane (s.issueCtx g x).w l = false then Tab.get 0#32 ((s.atIssue g
        x).group g).outr l else if bit (wMode (s.issueCtx g x).w) 3 then BitVec.setWidth 32 (((s.atIssue g x).group
        g).bixRead (s.issueCycle g x) l) else (result s g x l).1)) ∧
    (let flags := fun (s t : State) (g : Grp) (x : Issue) (v : Nat → BitVec 5) => (t.group g).regs.flags =
        (lanes_fpTrellisAndResultInstructions s g x).foldl (fun f l => f ||| v l) ((s.atIssue g x).group
        g).regs.flags;
    let result := fun (s : State) (g : Grp) (x : Issue) (l : Nat) => conv (accR_fpTrellisAndResultInstructions s g x
        l 0) (wImm (s.issueCtx g x).w % 128) (wMode (s.issueCtx g x).w % 4) (bit (wMode (s.issueCtx g x).w) 2);
    let s : State := sg (iw 0x31 2 1 1 0 0 0 0xC3 0 3) GA;
    let g : Grp := g8;
    let x : Issue := X1;
    let t : State := after (.stc g x) s;
    (issues_fpTrellisAndResultInstructions s g x 0x31) ∧ (others_fpTrellisAndResultInstructions s t g x [.mem,
        .inject]) ∧ ((t.group g).bix = ((s.atIssue g x).group g).bix) ∧ ((t.group g).outr = ((s.atIssue g x).group
        g).outr) ∧ (flags s t g x (fun l => (result s g x l).2)) ∧ ((t.group g).stcAt = some (s.issueCycle g x)) ∧
        ((t.group g).acc = ((s.atIssue g x).group g).acc) ∧ (t.slices.ds = (s.atIssue g x).slices.ds) ∧ ([0, 1, 6,
        7].all (fun l => t.cmWord g l = (result s g x l).1) = true ∧ [2, 3, 4, 5, 8, 16383].all (fun i => t.cmWord g
        i = s.cmWord g i) = true ∧ t.cmWord g1 0 = s.cmWord g1 0)) :=
  ⟨by decide +kernel, by decide +kernel⟩
theorem test_IssuePostModifiesAndIllegalWordsFault_1 :
    (let i : Grp → Issue → Instr := Instr.mac;
    let op : Nat := 0x10;
    let s : State := sg (BitVec.ofNat 64 (0x10 * 2 ^ 58 + 1 * 2 ^ 48 + 1 * 2 ^ 37 + 0x2 * 2 ^ 28)) { GA with main := { GA.main with loop := some { first := 2, last := 5 }, lc := 3#16 } };
    let g : Grp := g8;
    let x : Issue := X1;
    let t : State := after (i g x) s;
    (s.Issues g x op = true) ∧ (((s.atIssue g x).group g).stopReq = false) ∧ (∀ j, j < 40 → (t.group g).regs.addr j
        = if j ∈ modified (s.issueCtx g x).w then postModify (((s.atIssue g x).group g).regs.addr j) (((s.atIssue g
        x).group g).regs.modifier j) else ((s.atIssue g x).group g).regs.addr j) ∧ ((t.group g).regs.m = ((s.atIssue
        g x).group g).regs.m) ∧ ((t.group g).st = .run) ∧ ((t.group g).last = some (s.issueCycle g x)) ∧ ((t.group
        g).rep = ((s.atIssue g x).group g).rep - 1) ∧ ((t.group g).pc = 2)) ∧
    (let i : Grp → Issue → Instr := Instr.stc;
    let op : Nat := 0x31;
    let s : State := sg (BitVec.ofNat 64 (0x31 * 2 ^ 58 + 1 * 2 ^ 48 + 1 * 2 ^ 37 + 0x2 * 2 ^ 28)) { GA with main := { GA.main with loop := some { first := 2, last := 5 }, lc := 3#16 } };
    let g : Grp := g8;
    let x : Issue := X1;
    let t : State := after (i g x) s;
    (s.Issues g x op = true) ∧ (((s.atIssue g x).group g).stopReq = false) ∧ (∀ j, j < 40 → (t.group g).regs.addr j
        = if j ∈ modified (s.issueCtx g x).w then postModify (((s.atIssue g x).group g).regs.addr j) (((s.atIssue g
        x).group g).regs.modifier j) else ((s.atIssue g x).group g).regs.addr j) ∧ ((t.group g).regs.m = ((s.atIssue
        g x).group g).regs.m) ∧ ((t.group g).st = .run) ∧ ((t.group g).last = some (s.issueCycle g x)) ∧ ((t.group
        g).rep = ((s.atIssue g x).group g).rep - 1) ∧ ((t.group g).pc = 2)) ∧
    (let i : Grp → Issue → Instr := Instr.mac;
    let op : Nat := 0x10;
    let code : Nat := 1;
    let s : State := sg (BitVec.ofNat 64 (0x3F * 2 ^ 58)) GA;
    let g : Grp := g8;
    let x : Issue := X1;
    let t : State := after (i g x) s;
    (g.r < 32) ∧ (g.b < 64) ∧ (s.mayIssue g x = true) ∧ (((s.atIssue g x).group g).pc < 4096) ∧ (((s.atIssue g
        x).gmErr g 0 ((s.atIssue g x).group g).pc).1 = 0) ∧ ((s.atIssue g x).isArmed 0x2D40 1 (groupKey g.r g.b) =
        false) ∧ (wOp (s.issueCtx g x).w = op ∨ opDefined (wOp (s.issueCtx g x).w) = false) ∧ (waits (s.issueCtx g
        x).w x = false) ∧ ((s.atIssue g x).illegal g (s.issueCtx g x).w = some code) ∧ ((t.group g).st = .fault) ∧
        ((t.region g.r).safeBlocks.getLsbD g.b = true) ∧ (t.reg (0x2500 + g.r) 0x39 = g.b * 256 + code) ∧ ((t.group
        g).acc = []) ∧ (slicesSame (s.atIssue g x) t.toChip = true) ∧ (∀ j, j < 40 → j ≠ groupKey g.r g.b → Tab.get
        {} t.slices.groups j = Tab.get {} (s.atIssue g x).slices.groups j)) ∧
    (let i : Grp → Issue → Instr := Instr.ret;
    let op : Nat := 0x06;
    let code : Nat := 4;
    let s : State := sg (BitVec.ofNat 64 (6 * 2 ^ 58)) GA;
    let g : Grp := g8;
    let x : Issue := X1;
    let t : State := after (i g x) s;
    (g.r < 32) ∧ (g.b < 64) ∧ (s.mayIssue g x = true) ∧ (((s.atIssue g x).group g).pc < 4096) ∧ (((s.atIssue g
        x).gmErr g 0 ((s.atIssue g x).group g).pc).1 = 0) ∧ ((s.atIssue g x).isArmed 0x2D40 1 (groupKey g.r g.b) =
        false) ∧ (wOp (s.issueCtx g x).w = op ∨ opDefined (wOp (s.issueCtx g x).w) = false) ∧ (waits (s.issueCtx g
        x).w x = false) ∧ ((s.atIssue g x).illegal g (s.issueCtx g x).w = some code) ∧ ((t.group g).st = .fault) ∧
        ((t.region g.r).safeBlocks.getLsbD g.b = true) ∧ (t.reg (0x2500 + g.r) 0x39 = g.b * 256 + code) ∧ ((t.group
        g).acc = []) ∧ (slicesSame (s.atIssue g x) t.toChip = true) ∧ (∀ j, j < 40 → j ≠ groupKey g.r g.b → Tab.get
        {} t.slices.groups j = Tab.get {} (s.atIssue g x).slices.groups j)) ∧
    (let i : Grp → Issue → Instr := Instr.mac;
    let op : Nat := 0x10;
    let s : State := sg (iw 0x10 2 0 3 5 0 0 0xC3 0 0) GA;
    let g : Grp := g8;
    let x : Issue := { X1 with xv := false };
    let t : State := after (i g x) s;
    (s.mayIssue g x = true) ∧ (((s.atIssue g x).group g).pc < 4096) ∧ (((s.atIssue g x).gmErr g 0 ((s.atIssue g
        x).group g).pc).1 = 0) ∧ (wOp (s.issueCtx g x).w = op) ∧ (waits (s.issueCtx g x).w x = true) ∧ (t.group g =
        { (s.atIssue g x).group g with st := .wait }) ∧ (∀ j, j < 40 → j ≠ groupKey g.r g.b → Tab.get {}
        t.slices.groups j = Tab.get {} (s.atIssue g x).slices.groups j) ∧ (slicesSame (s.atIssue g x) t.toChip =
        true) ∧ (keptBut [.slices] (s.on (s.atIssue g x)) t = true)) ∧
    (let i : Grp → Issue → Instr := Instr.waitg;
    let op : Nat := 0x07;
    let s : State := sg (iw 7 0 0 0 0 0 0 0 0 0) GA;
    let g : Grp := g8;
    let x : Issue := { X1 with go := false };
    let t : State := after (i g x) s;
    (s.mayIssue g x = true) ∧ (((s.atIssue g x).group g).pc < 4096) ∧ (((s.atIssue g x).gmErr g 0 ((s.atIssue g
        x).group g).pc).1 = 0) ∧ (wOp (s.issueCtx g x).w = op) ∧ (waits (s.issueCtx g x).w x = true) ∧ (t.group g =
        { (s.atIssue g x).group g with st := .wait }) ∧ (∀ j, j < 40 → j ≠ groupKey g.r g.b → Tab.get {}
        t.slices.groups j = Tab.get {} (s.atIssue g x).slices.groups j) ∧ (slicesSame (s.atIssue g x) t.toChip =
        true) ∧ (keptBut [.slices] (s.on (s.atIssue g x)) t = true)) :=
  ⟨by decide +kernel, by decide +kernel, by decide +kernel, by decide +kernel, by decide +kernel, by decide +kernel⟩
theorem test_IssuePostModifiesAndIllegalWordsFault_2 :
    let i : Grp → Issue → Instr := Instr.nop;
    let op : Nat := 0x00;
    let s : State := { F0 with slices := { groups := [(127, { st := .run, pc := 4096 })] } };
    let g : Grp := g8;
    let x : Issue := X1;
    let t : State := after (i g x) s;
    (g.r < 32) ∧ (g.b < 64) ∧ (s.mayIssue g x = true) ∧ (4096 ≤ ((s.atIssue g x).group g).pc) ∧ ((t.group g).st =
        .fault) ∧ (t.reg (0x2500 + g.r) 0x39 = g.b * 256 + 3) := by decide +kernel
abbrev now_eventsStartsAndStops := fun (s : State) (g : Grp) (t0 : Nat) => (s.toChip.upTo t0).settleGroup g
abbrev others_eventsStartsAndStops := fun (b : Chip) (t : State) (g : Grp) => ∀ j, j < 40 → j ≠ groupKey g.r g.b →
    Tab.get {} t.slices.groups j = Tab.get {} b.slices.groups j
abbrev only_eventsStartsAndStops := fun (s t : State) (g : Grp) (t0 : Nat) => others_eventsStartsAndStops
    (now_eventsStartsAndStops s g t0) t g ∧ slicesSame (now_eventsStartsAndStops s g t0) t.toChip = true ∧ keptBut
    [.slices] (s.on (now_eventsStartsAndStops s g t0)) t = true
abbrev quiet_eventsStartsAndStops := fun (b : Chip) (g : Grp) => ∀ e, e < 4 → ∀ i, i < 3 → (b.group
    g).evEnable.getLsbD e = true → (b.gmErr g 0 ((b.group g).entry.getD e 0 + i)).1 = 0
abbrev enters_eventsStartsAndStops := fun (x : Group) (c : Nat) => max (c + 1) ((x.last.map fun l => l + 3).getD 0)
abbrev idle_eventsStartsAndStops := fun (b : Chip) (g : Grp) => (b.group g).fetchAt = none ∧ (b.group g).cmHeld = none
abbrev named_eventsStartsAndStops := fun (r : Nat) (m : BitVec 64) (j : Nat) => (j / 64 = r ∧ m.getLsbD (j % 64) =
    true : Bool)
theorem test_EventsStartsAndStops_1 :
    (let only := fun (s t : State) (g : Grp) (t0 : Nat) => others_eventsStartsAndStops (now_eventsStartsAndStops s g
        t0) t g ∧ slicesSame (now_eventsStartsAndStops s g t0) t.toChip = true ∧ keptBut [.slices] (s.on
        (now_eventsStartsAndStops s g t0)) t = true;
    let s : State := { F0 with slices := { groups := [(66, { st := .run }), (127, { st := .run, start := 9, pc := 5, evEnable := 6#4, entry := [0, 44, 55, 0], bound := [9, 9, 9, 9], main := { flags := 3#5 } })] } };
    let g : Grp := g8;
    let n : Nat := 2;
    let t0 : Nat := 100;
    let d := now_eventsStartsAndStops s g t0;
    let t : State := after (.sgEventAssert g n t0) s;
    (d.groupClock g = true) ∧ ((d.group g).st = .run ∨ (d.group g).st = .wait) ∧ (n < 4) ∧ ((d.group
        g).evEnable.getLsbD n = true) ∧ ((d.group g).pending.getLsbD n = false) ∧ (only s t g t0) ∧ ((t.group
        g).pending.getLsbD n = true) ∧ (∀ i, i < 4 → i ≠ n → (t.group g).pending.getLsbD i = (d.group
        g).pending.getLsbD i) ∧ ((t.group g).pc = (d.group g).pc)) ∧
    (let only := fun (s t : State) (g : Grp) (t0 : Nat) => others_eventsStartsAndStops (now_eventsStartsAndStops s g
        t0) t g ∧ slicesSame (now_eventsStartsAndStops s g t0) t.toChip = true ∧ keptBut [.slices] (s.on
        (now_eventsStartsAndStops s g t0)) t = true;
    let s : State := { F0 with slices := { groups := [(66, { st := .run }), (127, { st := .run, pending := 4#4, evStart := [(2, { net0 := 0, cyc := 0 })], start := 9, pc := 5, evEnable := 6#4, entry := [0, 44, 55, 0], bound := [9, 9, 9, 9], main := { flags := 3#5 } })] } };
    let g : Grp := g8;
    let t0 : Nat := 100;
    let ev : Nat := 2;
    let d := now_eventsStartsAndStops s g t0;
    let t : State := after (.eventEntry g t0) s;
    (d.groupClock g = true) ∧ ((d.group g).running = true) ∧ ((d.group g).handler = none) ∧ ((d.group g).rep = 0) ∧
        ((d.group g).last.getD 0 ≤ d.groupCycle g) ∧ ((d.group g).eventReady (d.groupCycle g) = some ev) ∧ (only s t
        g t0) ∧ ((t.group g).handler.map (·.ev) = some ev) ∧ ((t.group g).pc = (d.group g).entry.getD ev 0) ∧
        ((t.group g).saved = (d.group g).pc) ∧ ((t.group g).regs = (d.group g).shadow) ∧ ((t.group g).main =
        (d.group g).main) ∧ ((t.group g).pending.getLsbD ev = false)) ∧
    (let s : State := reg_ ({ F0 with slices := { groups := [(66, { st := .run }), (127, { st := .run, handler := some { ev := 2, since := 0 }, start := 9, pc := 5, evEnable := 6#4, entry := [0, 44, 55, 0], bound := [9, 9, 9, 9], main := { flags := 3#5 } })] } })
        1 { part := none, inReset := false };
    let r : Nat := 1;
    let blk : Nat := 63;
    let ev : Nat := 2;
    let t0 : Nat := 100;
    let h : Handler := { ev := 2, since := 0 };
    let d := now_eventsStartsAndStops s ⟨r, blk⟩ t0;
    let t : State := after (.sequencerOverrun r blk ev t0) s;
    (r < 32) ∧ (blk < 64) ∧ ((d.group ⟨r, blk⟩).handler = some h) ∧ (h.ev = ev) ∧ (h.late = false) ∧ (h.since +
        (d.group ⟨r, blk⟩).bound.getD ev 0 < d.isle r) ∧ (t.reg (0x2500 + r) 0x3D = sat32 (d.reg (0x2500 + r) 0x3D +
        1)) ∧ ((t.group ⟨r, blk⟩).handler = some { h with late := true } ∧ others_eventsStartsAndStops d t ⟨r, blk⟩)) ∧
    (let s : State := { F0 with slices := { groups := [(66, { st := .run }), (127, { st := .run, handler := some { ev := 2, since := 0 }, start := 9, pc := 5, evEnable := 6#4, entry := [0, 44, 55, 0], bound := [9, 9, 9, 9], main := { flags := 3#5 } })] } };
    let r : Nat := 1;
    let blk : Nat := 63;
    let ev : Nat := 2;
    let t0 : Nat := 100;
    let h : Handler := { ev := 2, since := 0 };
    let d := now_eventsStartsAndStops s ⟨r, blk⟩ t0;
    let t : State := after (.sequencerOverrun r blk ev t0) s;
    (r < 32) ∧ (blk < 64) ∧ ((d.group ⟨r, blk⟩).handler = some h) ∧ (h.ev = ev) ∧ (h.late = false) ∧ (h.since +
        (d.group ⟨r, blk⟩).bound.getD ev 0 < d.isle r) ∧ (t.reg (0x2500 + r) 0x3D = sat32 (d.reg (0x2500 + r) 0x3D +
        1)) ∧ ((t.part 0).status = .broken ∧ (t.region r).fenced = true ∧ (t.region r).lastMiss.map (fun x =>
        (x.cause, x.slot, x.tag)) = some (9, 0xFFFF, blk * 4 + ev))) ∧
    (let only := fun (s t : State) (g : Grp) (t0 : Nat) => others_eventsStartsAndStops (now_eventsStartsAndStops s g
        t0) t g ∧ slicesSame (now_eventsStartsAndStops s g t0) t.toChip = true ∧ keptBut [.slices] (s.on
        (now_eventsStartsAndStops s g t0)) t = true;
    let s : State := { F0 with slices := { groups := [(66, { st := .run }), (127, { st := .stop, pending := 4#4, start := 9, pc := 5, evEnable := 6#4, entry := [0, 44, 55, 0], bound := [9, 9, 9, 9], main := { flags := 3#5 } })] } };
    let g : Grp := g8;
    let t0 : Nat := 100;
    let d := now_eventsStartsAndStops s g t0;
    let t : State := after (.sgStart g t0) s;
    (d.groupClock g = true) ∧ (d.groupUnderTest g = false) ∧ ((d.group g).st = .stop) ∧ ((d.group g).stopAt ≠ some
        (d.groupCycle g)) ∧ (quiet_eventsStartsAndStops d g) ∧ (only s t g t0) ∧ ((t.group g).st = .run) ∧ ((t.group
        g).pc = (d.group g).start) ∧ ((t.group g).pending = 0#4) ∧ ((t.group g).last = some (d.groupCycle g)) ∧
        ((t.group g).gap = 2) ∧ ((t.group g).acc = (d.group g).acc) ∧ ((t.group g).main = (d.group g).main)) ∧
    (let only := fun (s t : State) (g : Grp) (t0 : Nat) => others_eventsStartsAndStops (now_eventsStartsAndStops s g
        t0) t g ∧ slicesSame (now_eventsStartsAndStops s g t0) t.toChip = true ∧ keptBut [.slices] (s.on
        (now_eventsStartsAndStops s g t0)) t = true;
    let s : State := { F0 with slices := { groups := [(66, { st := .run }), (127, { st := .run, pending := 4#4, start := 9, pc := 5, evEnable := 6#4, entry := [0, 44, 55, 0], bound := [9, 9, 9, 9], main := { flags := 3#5 } })] } };
    let g : Grp := g8;
    let t0 : Nat := 100;
    let d := now_eventsStartsAndStops s g t0;
    let t : State := after (.sgStop g t0) s;
    (d.groupClock g = true) ∧ ((d.group g).running = true) ∧ (only s t g t0) ∧ ((t.group g).acc = (d.group g).acc) ∧
        ((t.group g).main = (d.group g).main) ∧ ((t.group g).pc = (d.group g).pc) ∧ ((t.group g).st = (d.group
        g).st) ∧ ((t.group g).stopping = some (enters_eventsStartsAndStops (d.group g) (d.groupCycle g), false) ∧
        ((t.group g).settle (enters_eventsStartsAndStops (d.group g) (d.groupCycle g))).st = .stop ∧ ((t.group
        g).settle (enters_eventsStartsAndStops (d.group g) (d.groupCycle g))).pending = 0#4)) :=
  ⟨by decide +kernel, by decide +kernel, by decide +kernel, by decide +kernel, by decide +kernel, by decide +kernel⟩
theorem test_EventsStartsAndStops_2 :
    (let s : State := { F0 with slices := { groups := [(66, { st := .run }), (127, { st := .stop, pending := 4#4, start := 9, pc := 5, evEnable := 6#4, entry := [0, 44, 55, 0], bound := [9, 9, 9, 9], main := { flags := 3#5 } })] } };
    let q : Req := q0;
    let r : Nat := 1;
    let m : BitVec 64 := 0x8000000000000000#64;
    let t : State := after (.startMaskWrite q r m) s;
    (r < 32) ∧ (WriteAllowed s q (0x2500 + r) 0x36 m.toNat = true) ∧ (let d := s.served q; d.groupClock ⟨r, 63⟩ =
        true ∧ d.groupUnderTest ⟨r, 63⟩ = false ∧ idle_eventsStartsAndStops d ⟨r, 63⟩ ∧ (d.groupNow ⟨r, 63⟩).st =
        .stop ∧ (d.group ⟨r, 63⟩).stopAt ≠ some (d.groupCycle ⟨r, 63⟩) ∧ quiet_eventsStartsAndStops d ⟨r, 63⟩) ∧
        (t.reply q.owner = .done) ∧ ((t.group ⟨r, 63⟩).st = .run ∧ (t.group ⟨r, 63⟩).pc = (s.group ⟨r, 63⟩).start) ∧
        (∀ j, j < 40 → ¬ named_eventsStartsAndStops r m j → Tab.get {} t.slices.groups j = Tab.get {}
        s.slices.groups j) ∧ (slicesSame s.toChip t.toChip = true) ∧ (keptBut (.belfry :: .slices :: answerAreas) s
        t = true)) ∧
    (let s : State := { F0 with slices := { groups := [(66, { st := .run }), (127, { st := .run, pending := 4#4, start := 9, pc := 5, evEnable := 6#4, entry := [0, 44, 55, 0], bound := [9, 9, 9, 9], main := { flags := 3#5 } })] } };
    let q : Req := q0;
    let r : Nat := 1;
    let m : BitVec 64 := 0x8000000000000000#64;
    let t : State := after (.stopMaskWrite q r m) s;
    (r < 32) ∧ (WriteAllowed s q (0x2500 + r) 0x37 m.toNat = true) ∧ (let d := s.served q; d.groupClock ⟨r, 63⟩ =
        true ∧ idle_eventsStartsAndStops d ⟨r, 63⟩ ∧ (d.groupNow ⟨r, 63⟩).running = true ∧ (d.groupNow ⟨r, 63⟩).rep
        = 0) ∧ (t.reply q.owner = .done) ∧ ((t.group ⟨r, 63⟩).acc = (s.group ⟨r, 63⟩).acc ∧ (t.group ⟨r,
        63⟩).stopping = some (enters_eventsStartsAndStops ((s.served q).groupNow ⟨r, 63⟩) ((s.served q).groupCycle
        ⟨r, 63⟩), false)) ∧ (∀ j, j < 40 → ¬ named_eventsStartsAndStops r m j → Tab.get {} t.slices.groups j =
        Tab.get {} s.slices.groups j) ∧ (slicesSame s.toChip t.toChip = true) ∧ (keptBut (.belfry :: .slices ::
        answerAreas) s t = true)) ∧
    (let s : State := { F0 with slices := { groups := [(66, { st := .run }), (127, { st := .run, pending := 4#4, start := 9, pc := 5, evEnable := 6#4, entry := [0, 44, 55, 0], bound := [9, 9, 9, 9], main := { flags := 3#5 } })] } };
    let q : Req := q0;
    let r : Nat := 1;
    let m : BitVec 64 := 0x8000000000000000#64;
    let t : State := after (.clearFlags q r m) s;
    (r < 32) ∧ (WriteAllowed s q (0x2500 + r) 0x3F m.toNat = true) ∧ (idle_eventsStartsAndStops s.toChip ⟨r, 63⟩) ∧
        (t.reply q.owner = .done) ∧ ((t.group ⟨r, 63⟩).main.flags = 0#5 ∧ (t.group ⟨r, 63⟩).shadow.flags = 0#5 ∧
        (t.group ⟨r, 63⟩).main.a = (s.group ⟨r, 63⟩).main.a) ∧ (∀ j, j < 40 → ¬ named_eventsStartsAndStops r m j →
        Tab.get {} t.slices.groups j = Tab.get {} s.slices.groups j) ∧ (slicesSame s.toChip t.toChip = true) ∧
        (keptBut (.belfry :: .slices :: answerAreas) s t = true)) :=
  ⟨by decide +kernel, by decide +kernel, by decide +kernel⟩
abbrev now_groupMemoriesReadAndWrite := fun (s : State) (g : Grp) (t0 : Nat) => (s.toChip.upTo t0).settleGroup g
abbrev clean_groupMemoriesReadAndWrite := fun (b : Chip) (g : Grp) (space i : Nat) => (b.gmErr g space i).1 = 0
abbrev free_groupMemoriesReadAndWrite := fun (d : Chip) (g : Grp) => d.groupClock g = true ∧ d.underTest (cmUnit g) =
    false ∧ (d.group g).cmHeld = none ∧ (d.group g).cmTaken ≠ some (d.groupCycle g)
abbrev left_groupMemoriesReadAndWrite := fun (s : State) (d : Chip) (g : Grp) (t0 : Nat) => d.cmUse g (d.groupCycle g)
    ≤ 1 ∧ s.pending.any ((s.toChip.upTo t0).issuesToo g) = false
abbrev unitV_groupMemoriesReadAndWrite := fun (b : Chip) (g : Grp) (space i : Nat) => if space = 0 then (b.imWord g
    i).toNat else if space = 1 then (b.cmWord g i).toNat else (b.dsWord g i).toNat
theorem test_GroupMemoriesReadAndWrite_1 :
    (let s : State := { F0 with slices := { groups := [(66, { st := .run }), (127, { st := .stop })], im := [(memKey g8 5, 77#64)], cm := [(memKey g8 0, 0x80000000#32), (memKey g8 8, 5#32), (memKey g8 16376, 9#32)], ds := [(memKey g8 4095, 0xABCD#16)] } };
    let g : Grp := g8;
    let row : Nat := 2047;
    let t0 : Nat := 100;
    let d := now_groupMemoriesReadAndWrite s g t0;
    let t : State := after (.cmRead g row t0) s;
    (row < 2048) ∧ (free_groupMemoriesReadAndWrite d g) ∧ (left_groupMemoriesReadAndWrite s d g t0) ∧ (∀ e, e < 8 →
        clean_groupMemoriesReadAndWrite d g 1 (8 * row + e)) ∧ (keptBut [.slices] (s.on d) t = true) ∧ (slicesSame d
        t.toChip = true) ∧ ((t.group g).cmTaken = some (d.groupCycle g)) ∧ ((t.group g).cmOut.getLast?.map (fun o =>
        (o.valid, o.err, o.cor, o.at_, busLane o.data 0)) = some (true, false, false, d.groupCycle g + 2, 9#32))) ∧
    (let s : State := { F0 with slices := { groups := [(66, { st := .run }), (127, { st := .stop })], im := [(memKey g8 5, 77#64)], cm := [(memKey g8 0, 0x80000000#32), (memKey g8 8, 5#32), (memKey g8 16376, 9#32)], ds := [(memKey g8 4095, 0xABCD#16)] } };
    let g : Grp := g8;
    let row : Nat := 0;
    let t0 : Nat := 100;
    let v : BitVec 256 := 5#256;
    let d := now_groupMemoriesReadAndWrite s g t0;
    let t : State := after (.cmWrite g row v t0) s;
    (row < 2048) ∧ (g.b < 64) ∧ (free_groupMemoriesReadAndWrite d g) ∧ (left_groupMemoriesReadAndWrite s d g t0) ∧
        (keptBut [.slices, .mem, .inject] (s.on d) t = true) ∧ ((t.group g).cmTaken = some (d.groupCycle g)) ∧ (∀ e,
        e < 8 → t.cmWord g (8 * row + e) = busLane v e) ∧ ([(g8, 0, 5), (g8, 0, 4095), (g8, 1, 0), (g8, 1, 7), (g8,
        1, 16383), (g8, 2, 0), (g8, 2, 4095), (g1, 0, 5), (g1, 1, 0), (g1, 2, 0)].all (fun z => (fun g' space i =>
        decide (g' = g ∧ space = 1 ∧ i / 8 = row)) z.1 z.2.1 z.2.2 || decide (unitV_groupMemoriesReadAndWrite
        t.toChip z.1 z.2.1 z.2.2 = unitV_groupMemoriesReadAndWrite s.toChip z.1 z.2.1 z.2.2)) = true)) ∧
    (let s : State := { F0 with slices := { groups := [(66, { st := .run }), (127, { st := .run })], im := [(memKey g8 5, 77#64)], cm := [(memKey g8 0, 0x80000000#32), (memKey g8 8, 5#32), (memKey g8 16376, 9#32)], ds := [(memKey g8 4095, 0xABCD#16)] } };
    let g : Grp := g8;
    let row : Nat := 3;
    let t0 : Nat := 100;
    let i : Instr := Instr.cmRead g8 3 100;
    let we : Bool := false;
    let v : BitVec 256 := 0#256;
    let d := now_groupMemoriesReadAndWrite s g t0;
    let t : State := after i { s with pending := [.stc g8 X1] };
    let s : State := { s with pending := [.stc g8 X1] };
    (free_groupMemoriesReadAndWrite d g) ∧ (¬ left_groupMemoriesReadAndWrite s d g t0 ∧ keptBut [.slices] (s.on d) t
        = true ∧ (t.group g).cmHeld.map (fun a => (a.we, a.row, a.data)) = some (we, row, v))) ∧
    (let s : State := { F0 with slices := { groups := [(66, { st := .run }), (127, { st := .stop })], im := [(memKey g8 5, 77#64)], cm := [(memKey g8 0, 0x80000000#32), (memKey g8 8, 5#32), (memKey g8 16376, 9#32)], ds := [(memKey g8 4095, 0xABCD#16)] } };
    let g : Grp := g8;
    let a : Nat := 4095;
    let t0 : Nat := 100;
    let d := now_groupMemoriesReadAndWrite s g t0;
    let t : State := after (.dsRead g a t0) s;
    (a < 4096) ∧ (d.groupClock g = true) ∧ (d.underTest (dsUnit g) = false) ∧ (clean_groupMemoriesReadAndWrite d g 2
        a) ∧ (keptBut [.slices] (s.on d) t = true) ∧ (slicesSame d t.toChip = true) ∧ ((t.group
        g).dsOut.getLast?.map (fun o => (o.valid, o.at_, o.data)) = some (true, d.groupCycle g + 2, 0xABCD#256))) ∧
    (let s : State := { F0 with slices := { groups := [(66, { st := .run }), (127, { st := .stop })], im := [(memKey g8 5, 77#64)], cm := [(memKey g8 0, 0x80000000#32), (memKey g8 8, 5#32), (memKey g8 16376, 9#32)], ds := [(memKey g8 4095, 0xABCD#16)] } };
    let g : Grp := g8;
    let a : Nat := 4095;
    let t0 : Nat := 100;
    let v : BitVec 64 := 5#64;
    let d := now_groupMemoriesReadAndWrite s g t0;
    let t : State := after (.imWrite g a v t0) s;
    (a < 4096) ∧ (g.b < 64) ∧ (d.groupClock g = true) ∧ (d.underTest (imUnit g) = false) ∧ ((d.group g).st = .stop)
        ∧ (keptBut [.slices, .mem, .inject] (s.on d) t = true) ∧ (t.imWord g a = v) ∧ ([(g8, 0, 5), (g8, 0, 4095),
        (g8, 1, 0), (g8, 1, 7), (g8, 1, 16383), (g8, 2, 0), (g8, 2, 4095), (g1, 0, 5), (g1, 1, 0), (g1, 2, 0)].all
        (fun z => (fun g' space i => decide (g' = g ∧ space = 0 ∧ i = a)) z.1 z.2.1 z.2.2 || decide
        (unitV_groupMemoriesReadAndWrite t.toChip z.1 z.2.1 z.2.2 = unitV_groupMemoriesReadAndWrite s.toChip z.1
        z.2.1 z.2.2)) = true)) ∧
    (let s : State := { F0 with slices := { groups := [(66, { st := .run }), (127, { st := .run })], im := [(memKey g8 5, 77#64)], cm := [(memKey g8 0, 0x80000000#32), (memKey g8 8, 5#32), (memKey g8 16376, 9#32)], ds := [(memKey g8 4095, 0xABCD#16)] } };
    let g : Grp := g8;
    let a : Nat := 4095;
    let t0 : Nat := 100;
    let v : BitVec 64 := 5#64;
    let d := now_groupMemoriesReadAndWrite s g t0;
    let t : State := after (.imWrite g a v t0) s;
    (g.r < 32) ∧ (d.groupClock g = true ∨ (d.group g).st = .fault ∧ d.fabricRuns g.r = true ∧ d.netRuns g.r (d.group
        g).net = true) ∧ (d.underTest (imUnit g) = false) ∧ ((d.group g).st ≠ .stop) ∧ (keptBut [.dict] (s.on d) t =
        true) ∧ (t.reg (0x2500 + g.r) 0x3C = sat32 (d.reg (0x2500 + g.r) 0x3C + 1))) :=
  ⟨by decide +kernel, by decide +kernel, by decide +kernel, by decide +kernel, by decide +kernel, by decide +kernel⟩
theorem test_GroupMemoriesReadAndWrite_2 :
    (let s : State := reg_ ({ F0 with slices := { groups := [(66, { st := .run }), (127, { st := .fault })], im := [(memKey g8 5, 77#64)], cm := [(memKey g8 0, 0x80000000#32), (memKey g8 8, 5#32), (memKey g8 16376, 9#32)], ds := [(memKey g8 4095, 0xABCD#16)] } })
        1 { run 1 with safeBlocks := 1#64 <<< 63 };
    let g : Grp := g8;
    let a : Nat := 4095;
    let t0 : Nat := 100;
    let v : BitVec 64 := 5#64;
    let d := now_groupMemoriesReadAndWrite s g t0;
    let t : State := after (.imWrite g a v t0) s;
    (g.r < 32) ∧ (d.groupClock g = true ∨ (d.group g).st = .fault ∧ d.fabricRuns g.r = true ∧ d.netRuns g.r (d.group
        g).net = true) ∧ (d.underTest (imUnit g) = false) ∧ ((d.group g).st ≠ .stop) ∧ (keptBut [.dict] (s.on d) t =
        true) ∧ (t.reg (0x2500 + g.r) 0x3C = sat32 (d.reg (0x2500 + g.r) 0x3C + 1))) ∧
    (let s : State := { (od F0 [(0x250133, 0 * 2 ^ 30 + 63 * 2 ^ 18 + 5), (0x250135, 1)]) with slices := { groups := [(66, { st := .run }), (127, { st := .stop })], im := [(memKey g8 5, 77#64)], cm := [(memKey g8 0, 0x80000000#32), (memKey g8 8, 5#32), (memKey g8 16376, 9#32)], ds := [(memKey g8 4095, 0xABCD#16)] } };
    let q : Req := q0;
    let r : Nat := 1;
    let a := s.reg (0x2500 + r) 0x33;
    let t : State := after (.groupMemoryDataRead q r) s;
    (r < 32) ∧ (q.owner < 6) ∧ (ReadAllowed s q (0x2500 + r) 0x34 = true) ∧ (s.reg (0x2500 + r) 0x35 = 1) ∧
        ((s.group (gmGroup r a)).fetchAt = none) ∧ ((s.group (gmGroup r a)).cmHeld = none) ∧ ((s.served q).gmCheck r
        a 1 false = 0) ∧ (clean_groupMemoriesReadAndWrite s.toChip (gmGroup r a) (gmSpace a) (gmIndex a)) ∧ (t.reply
        q.owner = .data (toBytes (gmBytes (gmSpace a)) (unitV_groupMemoriesReadAndWrite s.toChip (gmGroup r a)
        (gmSpace a) (gmIndex a)))) ∧ (t.reg (0x2500 + r) 0x33 = gmNext a 1) ∧ (slicesSame s.toChip t.toChip = true)
        ∧ (keptBut (.belfry :: .slices :: answerAreas) s t = true)) ∧
    (let s : State := { (od F0 [(0x250133, 2 * 2 ^ 30 + 63 * 2 ^ 18 + 4095), (0x250135, 1)]) with slices := { groups := [(66, { st := .run }), (127, { st := .stop })], im := [(memKey g8 5, 77#64)], cm := [(memKey g8 0, 0x80000000#32), (memKey g8 8, 5#32), (memKey g8 16376, 9#32)], ds := [(memKey g8 4095, 0xABCD#16)] } };
    let q : Req := q0;
    let r : Nat := 1;
    let a := s.reg (0x2500 + r) 0x33;
    let t : State := after (.groupMemoryDataRead q r) s;
    (r < 32) ∧ (q.owner < 6) ∧ (ReadAllowed s q (0x2500 + r) 0x34 = true) ∧ (s.reg (0x2500 + r) 0x35 = 1) ∧
        ((s.group (gmGroup r a)).fetchAt = none) ∧ ((s.group (gmGroup r a)).cmHeld = none) ∧ ((s.served q).gmCheck r
        a 1 false = 0) ∧ (clean_groupMemoriesReadAndWrite s.toChip (gmGroup r a) (gmSpace a) (gmIndex a)) ∧ (t.reply
        q.owner = .data (toBytes (gmBytes (gmSpace a)) (unitV_groupMemoriesReadAndWrite s.toChip (gmGroup r a)
        (gmSpace a) (gmIndex a)))) ∧ (t.reg (0x2500 + r) 0x33 = gmNext a 1) ∧ (slicesSame s.toChip t.toChip = true)
        ∧ (keptBut (.belfry :: .slices :: answerAreas) s t = true)) ∧
    (let s : State := { (od F0 [(0x250133, 0 * 2 ^ 30 + 63 * 2 ^ 18 + 5), (0x250135, 1)]) with slices := { groups := [(66, { st := .run }), (127, { st := .stop })], im := [(memKey g8 5, 77#64)], cm := [(memKey g8 0, 0x80000000#32), (memKey g8 8, 5#32), (memKey g8 16376, 9#32)], ds := [(memKey g8 4095, 0xABCD#16)] } };
    let q : Req := q0;
    let r : Nat := 1;
    let n : Nat := 1;
    let d : Bytes := toBytes 8 77;
    let c : Chip := ((s.served q).gmReadUnits (gmGroup r (s.reg (0x2500 + r) 0x33)) (gmSpace (s.reg (0x2500 + r)
        0x33)) (gmIndex (s.reg (0x2500 + r) 0x33)) n).1;
    let a := s.reg (0x2500 + r) 0x33;
    let t : State := after (.groupMemoryDataRead q r) s;
    (r < 32) ∧ (ReadAllowed s q (0x2500 + r) 0x34 = true) ∧ (s.reg (0x2500 + r) 0x35 = n) ∧ ((s.served q).gmCheck r
        a n false = 0) ∧ (((s.served q).gmReadUnits (gmGroup r a) (gmSpace a) (gmIndex a) n).2 = some d) ∧ (t.reply
        q.owner = .data d) ∧ (slicesSame c t.toChip = true) ∧ (t.reg (0x2500 + r) 0x33 = if q.owner = 6 then a else
        gmNext a n)) ∧
    (let s : State := { (od F0 [(0x250133, 2 * 2 ^ 30 + 63 * 2 ^ 18 + 4095), (0x250135, 1)]) with slices := { groups := [(66, { st := .run }), (127, { st := .stop })], im := [(memKey g8 5, 77#64)], cm := [(memKey g8 0, 0x80000000#32), (memKey g8 8, 5#32), (memKey g8 16376, 9#32)], ds := [(memKey g8 4095, 0xABCD#16)] } };
    let q : Req := q0;
    let r : Nat := 1;
    let n : Nat := 1;
    let d : Bytes := toBytes 2 0xABCD;
    let c : Chip := ((s.served q).gmReadUnits (gmGroup r (s.reg (0x2500 + r) 0x33)) (gmSpace (s.reg (0x2500 + r)
        0x33)) (gmIndex (s.reg (0x2500 + r) 0x33)) n).1;
    let a := s.reg (0x2500 + r) 0x33;
    let t : State := after (.groupMemoryDataRead q r) s;
    (r < 32) ∧ (ReadAllowed s q (0x2500 + r) 0x34 = true) ∧ (s.reg (0x2500 + r) 0x35 = n) ∧ ((s.served q).gmCheck r
        a n false = 0) ∧ (((s.served q).gmReadUnits (gmGroup r a) (gmSpace a) (gmIndex a) n).2 = some d) ∧ (t.reply
        q.owner = .data d) ∧ (slicesSame c t.toChip = true) ∧ (t.reg (0x2500 + r) 0x33 = if q.owner = 6 then a else
        gmNext a n)) ∧
    (let s : State := { (od F0 [(0x250133, 0 * 2 ^ 30 + 63 * 2 ^ 18 + 5), (0x250135, 1)]) with slices := { groups := [(66, { st := .run }), (127, { st := .stop })], im := [(memKey g8 5, 77#64)], cm := [(memKey g8 0, 0x80000000#32), (memKey g8 8, 5#32), (memKey g8 16376, 9#32)], ds := [(memKey g8 4095, 0xABCD#16)] } };
    let q : Req := q0;
    let r : Nat := 1;
    let n : Nat := 1;
    let v : Bytes := toBytes 8 0x1234;
    let a := s.reg (0x2500 + r) 0x33;
    let t : State := after (.groupMemoryDataWrite q r v) s;
    (r < 32) ∧ (BytesAllowed s q (0x2500 + r) 0x34 v.length = true) ∧ (s.reg (0x2500 + r) 0x35 = n) ∧ ((s.served
        q).gmCheck r a n true = 0) ∧ (v.length = n * gmBytes (gmSpace a)) ∧ (t.reply q.owner = .done) ∧ (slicesSame
        ((s.served q).gmWriteUnits (gmGroup r a) (gmSpace a) (gmIndex a) v n) t.toChip = true) ∧ (t.reg (0x2500 + r)
        0x33 = gmNext a n)) :=
  ⟨by decide +kernel, by decide +kernel, by decide +kernel, by decide +kernel, by decide +kernel, by decide +kernel⟩
theorem test_GroupMemoriesReadAndWrite_3 :
    (let s : State := { (od F0 [(0x250133, 2 * 2 ^ 30 + 63 * 2 ^ 18 + 4095), (0x250135, 1)]) with slices := { groups := [(66, { st := .run }), (127, { st := .stop })], im := [(memKey g8 5, 77#64)], cm := [(memKey g8 0, 0x80000000#32), (memKey g8 8, 5#32), (memKey g8 16376, 9#32)], ds := [(memKey g8 4095, 0xABCD#16)] } };
    let q : Req := q0;
    let r : Nat := 1;
    let n : Nat := 1;
    let v : Bytes := toBytes 2 0x1234;
    let a := s.reg (0x2500 + r) 0x33;
    let t : State := after (.groupMemoryDataWrite q r v) s;
    (r < 32) ∧ (BytesAllowed s q (0x2500 + r) 0x34 v.length = true) ∧ (s.reg (0x2500 + r) 0x35 = n) ∧ ((s.served
        q).gmCheck r a n true = 0) ∧ (v.length = n * gmBytes (gmSpace a)) ∧ (t.reply q.owner = .done) ∧ (slicesSame
        ((s.served q).gmWriteUnits (gmGroup r a) (gmSpace a) (gmIndex a) v n) t.toChip = true) ∧ (t.reg (0x2500 + r)
        0x33 = gmNext a n)) ∧
    (let s : State := { (od F0 [(0x250133, 0 * 2 ^ 30 + 63 * 2 ^ 18 + 5), (0x250135, 1)]) with slices := { groups := [(66, { st := .run }), (127, { st := .stop })], im := [(memKey g8 5, 77#64)], cm := [(memKey g8 0, 0x80000000#32), (memKey g8 8, 5#32), (memKey g8 16376, 9#32)], ds := [(memKey g8 4095, 0xABCD#16)] } };
    let q : Req := q0;
    let r : Nat := 1;
    let v : Bytes := toBytes 8 0x1234;
    let a := s.reg (0x2500 + r) 0x33;
    let t : State := after (.groupMemoryDataWrite q r v) s;
    (r < 32) ∧ (BytesAllowed s q (0x2500 + r) 0x34 v.length = true) ∧ (s.reg (0x2500 + r) 0x35 = 1) ∧ ((s.group
        (gmGroup r a)).fetchAt = none) ∧ ((s.group (gmGroup r a)).cmHeld = none) ∧ ((s.served q).gmCheck r a 1 true
        = 0) ∧ (v.length = gmBytes (gmSpace a)) ∧ (t.reply q.owner = .done) ∧ (unitV_groupMemoriesReadAndWrite
        t.toChip (gmGroup r a) (gmSpace a) (gmIndex a) = ofBytes v) ∧ ([(g8, 0, 5), (g8, 0, 4095), (g8, 1, 0), (g8,
        1, 7), (g8, 1, 16383), (g8, 2, 0), (g8, 2, 4095), (g1, 0, 5), (g1, 1, 0), (g1, 2, 0)].all (fun z => (fun g'
        space i => decide (g' = gmGroup r (s.reg (0x2500 + r) 0x33) ∧ i = gmIndex (s.reg (0x2500 + r) 0x33) ∧ space
        = min 2 (gmSpace (s.reg (0x2500 + r) 0x33)))) z.1 z.2.1 z.2.2 || decide (unitV_groupMemoriesReadAndWrite
        t.toChip z.1 z.2.1 z.2.2 = unitV_groupMemoriesReadAndWrite s.toChip z.1 z.2.1 z.2.2)) = true) ∧ (t.reg
        (0x2500 + r) 0x33 = gmNext a 1) ∧ (keptBut (.belfry :: .slices :: .mem :: .inject :: answerAreas) s t =
        true)) ∧
    (let s : State := { (od F0 [(0x250133, 2 * 2 ^ 30 + 63 * 2 ^ 18 + 4095), (0x250135, 1)]) with slices := { groups := [(66, { st := .run }), (127, { st := .stop })], im := [(memKey g8 5, 77#64)], cm := [(memKey g8 0, 0x80000000#32), (memKey g8 8, 5#32), (memKey g8 16376, 9#32)], ds := [(memKey g8 4095, 0xABCD#16)] } };
    let q : Req := q0;
    let r : Nat := 1;
    let v : Bytes := toBytes 2 0x1234;
    let a := s.reg (0x2500 + r) 0x33;
    let t : State := after (.groupMemoryDataWrite q r v) s;
    (r < 32) ∧ (BytesAllowed s q (0x2500 + r) 0x34 v.length = true) ∧ (s.reg (0x2500 + r) 0x35 = 1) ∧ ((s.group
        (gmGroup r a)).fetchAt = none) ∧ ((s.group (gmGroup r a)).cmHeld = none) ∧ ((s.served q).gmCheck r a 1 true
        = 0) ∧ (v.length = gmBytes (gmSpace a)) ∧ (t.reply q.owner = .done) ∧ (unitV_groupMemoriesReadAndWrite
        t.toChip (gmGroup r a) (gmSpace a) (gmIndex a) = ofBytes v) ∧ ([(g8, 0, 5), (g8, 0, 4095), (g8, 1, 0), (g8,
        1, 7), (g8, 1, 16383), (g8, 2, 0), (g8, 2, 4095), (g1, 0, 5), (g1, 1, 0), (g1, 2, 0)].all (fun z => (fun g'
        space i => decide (g' = gmGroup r (s.reg (0x2500 + r) 0x33) ∧ i = gmIndex (s.reg (0x2500 + r) 0x33) ∧ space
        = min 2 (gmSpace (s.reg (0x2500 + r) 0x33)))) z.1 z.2.1 z.2.2 || decide (unitV_groupMemoriesReadAndWrite
        t.toChip z.1 z.2.1 z.2.2 = unitV_groupMemoriesReadAndWrite s.toChip z.1 z.2.1 z.2.2)) = true) ∧ (t.reg
        (0x2500 + r) 0x33 = gmNext a 1) ∧ (keptBut (.belfry :: .slices :: .mem :: .inject :: answerAreas) s t =
        true)) :=
  ⟨by decide +kernel, by decide +kernel, by decide +kernel⟩

/-! ### Witnesses of chapter 9 -/

theorem test_TrainingAndRateChanges_1 :
    (let s : State := { S0b with hub := { st := 1, target := 4800, epoch := 4, channels := [(0, { st := .training, dimms := [D0] }), (1, { st := .training, dimms := [D0] }), (2, { st := .training, dimms := [D0] }), (3, { st := .training, dimms := [D0] }), (4, { st := .training, dimms := [D0] }), (5, { st := .training, dimms := [D0] }), (6, { st := .training, dimms := [D0] }), (7, { st := .training, dimms := [D0] })] } };
    let c : Nat := 7;
    let c' : Nat := 3;
    let ms : Nat := 9;
    let t0 : Nat := 5;
    let ok : Bool := true;
    let t : State := after (.channelTrainingEnd c ok ms t0) s;
    (c < 8) ∧ (c' < 8) ∧ (c' ≠ c) ∧ ((s.channel c).st = .training) ∧ ((s.channel c').st = .training) ∧ (s.hub.st =
        1) ∧ (s.isArmed 0x2D80 4 c = false) ∧ ((t.channel c).st = (if ok then .ready else .mappedOut)) ∧ ((t.channel
        c).mapOut = (if ok then (s.channel c).mapOut else 1)) ∧ (t.reg (0x2610 + c) 0x10 = ms) ∧ (t.hub.st = 1) ∧ (∀
        j, j < 40 → j ≠ c → t.channel j = s.channel j) ∧ (keptBut (.belfry :: .hub :: logAreas) s t = true)) ∧
    (let s : State := { S0b with hub := { st := 1, target := 4800, epoch := 4, channels := [(0, { st := .training, dimms := [D0] }), (1, { st := .training, dimms := [D0] }), (2, { st := .training, dimms := [D0] }), (3, { st := .training, dimms := [D0] }), (4, { st := .training, dimms := [D0] }), (5, { st := .training, dimms := [D0] }), (6, { st := .training, dimms := [D0] }), (7, { st := .training, dimms := [D0] })] } };
    let c : Nat := 7;
    let c' : Nat := 3;
    let ms : Nat := 9;
    let t0 : Nat := 5;
    let ok : Bool := false;
    let t : State := after (.channelTrainingEnd c ok ms t0) s;
    (c < 8) ∧ (c' < 8) ∧ (c' ≠ c) ∧ ((s.channel c).st = .training) ∧ ((s.channel c').st = .training) ∧ (s.hub.st =
        1) ∧ (s.isArmed 0x2D80 4 c = false) ∧ ((t.channel c).st = (if ok then .ready else .mappedOut)) ∧ ((t.channel
        c).mapOut = (if ok then (s.channel c).mapOut else 1)) ∧ (t.reg (0x2610 + c) 0x10 = ms) ∧ (t.hub.st = 1) ∧ (∀
        j, j < 40 → j ≠ c → t.channel j = s.channel j) ∧ (keptBut (.belfry :: .hub :: logAreas) s t = true)) ∧
    (let s : State := { S0b with hub := { st := 1, target := 4800, epoch := 4, channels := [(0, { st := .training, dimms := [D0] }), (1, { st := .empty, dimms := [D0] }), (2, { st := .empty, dimms := [D0] }), (3, { st := .empty, dimms := [D0] }), (4, { st := .empty, dimms := [D0] }), (5, { st := .empty, dimms := [D0] }), (6, { st := .empty, dimms := [D0] }), (7, { st := .empty, dimms := [D0] })] } };
    let c : Nat := 0;
    let ms : Nat := 9;
    let t0 : Nat := 5;
    let t : State := after (.channelTrainingEnd c true ms t0) s;
    (c < 8) ∧ ((s.channel c).st = .training) ∧ (s.hub.st = 1) ∧ (s.hub.pending = 0) ∧ (s.isArmed 0x2D80 4 c = false)
        ∧ (∀ j, j < 8 → j ≠ c → (s.channel j).st ≠ .training) ∧ ((t.channel c).st = .ready ∨ (t.channel c).st =
        .idle) ∧ (t.hub.st = 2) ∧ (t.hub.rate = t.hub.target) ∧ (t.hub.mem = []) ∧ (t.hub.base = s.hub.epoch + 1) ∧
        (t.dev.dramOk = true) ∧ (t.reg (0x2610 + c) 0x10 = ms)) ∧
    (let s : State := S0b;
    let q : Req := q0;
    let n : Nat := 4;
    let rate : Nat := 5600;
    let t : State := after (.rateChange q n rate) s;
    (CommandTaken s q 0x2E26 n [(3, rate)] = true) ∧ (s.serving = true) ∧ (s.hub.st = 1) ∧ (t.hub.pending = rate) ∧
        (t.hub.pendingOwner = q.owner) ∧ (t.status 0x2E26 q.owner = 2) ∧ (t.hub.rate = s.hub.rate) ∧ (keptBut
        (.belfry :: .hub :: answerAreas) s t = true)) ∧
    (let s : State := { S0b with hub := Hb };
    let q : Req := q0;
    let n : Nat := 4;
    let rate : Nat := 5600;
    let t : State := after (.rateChange q n rate) s;
    (CommandTaken s q 0x2E26 n [(3, rate)] = true) ∧ (s.serving = true) ∧ (s.hub.st = 2) ∧ (s.rateSupported rate =
        true) ∧ (∀ p, p < 8 → (s.part p).status ≠ .armed) ∧ (t.hub.rate = s.hub.rate) ∧ (if rate = s.hub.rate then
        t.hub = s.hub ∧ t.status 0x2E26 q.owner = 0 else t.hub.st = 3 ∧ (t.cmd (cmdKey 0x2E26)).busy = some q.owner
        ∧ t.status 0x2E26 q.owner = 1 ∧ t.hub.changing = some (rate, !(s.hub.trained.any fun x => x.1 == rate))) ∧
        (keptBut (.belfry :: .hub :: answerAreas) s t = true)) ∧
    (let s : State := { S0b with hub := Hb };
    let q : Req := q0;
    let n : Nat := 4;
    let rate : Nat := 4800;
    let t : State := after (.rateChange q n rate) s;
    (CommandTaken s q 0x2E26 n [(3, rate)] = true) ∧ (s.serving = true) ∧ (s.hub.st = 2) ∧ (s.rateSupported rate =
        true) ∧ (∀ p, p < 8 → (s.part p).status ≠ .armed) ∧ (t.hub.rate = s.hub.rate) ∧ (if rate = s.hub.rate then
        t.hub = s.hub ∧ t.status 0x2E26 q.owner = 0 else t.hub.st = 3 ∧ (t.cmd (cmdKey 0x2E26)).busy = some q.owner
        ∧ t.status 0x2E26 q.owner = 1 ∧ t.hub.changing = some (rate, !(s.hub.trained.any fun x => x.1 == rate))) ∧
        (keptBut (.belfry :: .hub :: answerAreas) s t = true)) :=
  ⟨by decide +kernel, by decide +kernel, by decide +kernel, by decide +kernel, by decide +kernel, by decide +kernel⟩
theorem test_TrainingAndRateChanges_2 :
    (let s : State := cm { S0b with hub := { Hb with st := 3, changing := some (5600, true) } } 0x2E26 { busy := some 0 };
    let rate : Nat := 5600;
    let o : Nat := 0;
    let trains : Bool := true;
    let t : State := after (.rateChangeDone true) s;
    (s.hub.st = 3) ∧ (s.hub.changing = some (rate, trains)) ∧ (s.inject.armed = []) ∧ ((s.cmd 0x2E26).busy = some o)
        ∧ (t.hub.st = 2) ∧ (t.hub.rate = rate) ∧ (t.hub.changing = none) ∧ (t.status 0x2E26 o = 0) ∧ ((t.cmd
        0x2E26).busy = none) ∧ (trains = false → t.hub.mem = s.hub.mem) ∧ (keptBut (.hub :: logAreas) s t = true)) ∧
    (let s : State := cm { S0b with hub := { Hb with st := 3, changing := some (5600, false) } } 0x2E26 { busy := some 0 };
    let rate : Nat := 5600;
    let o : Nat := 0;
    let trains : Bool := false;
    let t : State := after (.rateChangeDone false) s;
    (s.hub.st = 3) ∧ (s.hub.changing = some (rate, trains)) ∧ (s.inject.armed = []) ∧ ((s.cmd 0x2E26).busy = some o)
        ∧ (t.hub.st = 2) ∧ (t.hub.rate = s.hub.rate) ∧ (t.status 0x2E26 o = 5) ∧ (keptBut [.hub, .dict] s t = true)) :=
  ⟨by decide +kernel, by decide +kernel⟩
theorem test_RefreshAndDimmTemperatures_1 :
    (let s : State := { S0b with hub := { Hb with channels := [(0, { Ch with hot := [(0, true)] })] } };
    let t : State := after .refreshRound s;
    (s.refreshes = true) ∧ (t.hub.refreshAt = some t.now) ∧ (t.hub.hotRefresh = s.hotWanted) ∧ (s.now + 3900 < 2 ^
        64 → t.now % 3900 = 0 ∧ s.now ≤ t.now ∧ t.now < s.now + 3900) ∧ (t.hub.channels = s.hub.channels) ∧ (keptBut
        (.belfry :: .hub :: logAreas) s t = true)) ∧
    (let s : State := { S0b with hub := { Hb with st := 1, channels := [(0, { Ch with st := .empty, hot := [(0, true)] })] } };
    let t : State := after .refreshRound s;
    (s.refreshes = false) ∧ (t.hub = { s.hub with hotRefresh := s.hotWanted }) ∧ (keptBut (.belfry :: .hub ::
        logAreas) s t = true)) ∧
    (let s : State := { S0b with hub := { Hb with hotRefresh := true } };
    let t : State := after .hotSpanRefresh s;
    (s.refreshes = true) ∧ (s.hub.hotRefresh = true) ∧ (t.hub.hotAt = some t.now) ∧ (s.now + 3900 < 2 ^ 64 → t.now %
        3900 = 1950 ∧ s.now ≤ t.now ∧ t.now < s.now + 3900) ∧ (keptBut [.belfry, .hub] s t = true)) ∧
    (let s : State := { S0b with hub := Hb };
    let c : Nat := 0;
    let d : Nat := 0;
    let t0 : Nat := 5;
    let v : Int := 380;
    let t : State := after (.dimmTemperaturePoll c d (some v) t0) s;
    (c < 8) ∧ (d < (s.channel c).dimms.length) ∧ (s.inject.enabled = false) ∧ (v ≤ 380) ∧ (t.reg (0x2610 + c) (7 +
        d) = tempRaw v) ∧ (Tab.get false (t.channel c).hot d = decide (340 < v)) ∧ (Tab.get 0 (t.channel c).fails d
        = 0) ∧ (t.dev.st = s.dev.st) ∧ (∀ j, j < 40 → j ≠ c → t.channel j = s.channel j) ∧ (keptBut [.belfry, .hub,
        .dict, .dev] s t = true)) ∧
    (let s : State := { S0b with hub := Hb };
    let c : Nat := 0;
    let d : Nat := 0;
    let t0 : Nat := 5;
    let v : Int := -7;
    let t : State := after (.dimmTemperaturePoll c d (some v) t0) s;
    (c < 8) ∧ (d < (s.channel c).dimms.length) ∧ (s.inject.enabled = false) ∧ (v ≤ 380) ∧ (t.reg (0x2610 + c) (7 +
        d) = tempRaw v) ∧ (Tab.get false (t.channel c).hot d = decide (340 < v)) ∧ (Tab.get 0 (t.channel c).fails d
        = 0) ∧ (t.dev.st = s.dev.st) ∧ (∀ j, j < 40 → j ≠ c → t.channel j = s.channel j) ∧ (keptBut [.belfry, .hub,
        .dict, .dev] s t = true)) ∧
    (let s : State := { S0b with hub := Hb };
    let c : Nat := 0;
    let d : Nat := 0;
    let t0 : Nat := 5;
    let v : Int := 381;
    let t : State := after (.dimmTemperaturePoll c d (some v) t0) s;
    (c < 8) ∧ (d < (s.channel c).dimms.length) ∧ (s.inject.enabled = false) ∧ (380 < v) ∧ (s.dev.st = .reduced ∨
        s.dev.st = .full) ∧ (evCode 4 8 c 8 ∉ s.dev.raised) ∧ (t.dev.st = .safe) ∧ (t.dev.cause = evCode 4 8 c 8) ∧
        (t.aon.faultCode = evCode 4 8 c 8)) :=
  ⟨by decide +kernel, by decide +kernel, by decide +kernel, by decide +kernel, by decide +kernel, by decide +kernel⟩
theorem test_RefreshAndDimmTemperatures_2 :
    let s : State := { S0b with hub := { Hb with channels := [(0, { Ch with fails := [(0, 2)] })] } };
    let c : Nat := 0;
    let d : Nat := 0;
    let t0 : Nat := 5;
    let t : State := after (.dimmTemperaturePoll c d none t0) s;
    (c < 8) ∧ (d < (s.channel c).dimms.length) ∧ (s.inject.enabled = false) ∧ (Tab.get 0 (t.channel c).fails d =
        Tab.get 0 (s.channel c).fails d + 1) ∧ (Tab.get false (t.channel c).hot d = (if 2 ≤ Tab.get 0 (s.channel
        c).fails d then true else Tab.get false (s.channel c).hot d)) ∧ (∀ j, j < 40 → j ≠ c → t.channel j =
        s.channel j) ∧ (keptBut (.belfry :: .hub :: logAreas) s t = true) := by decide +kernel
abbrev ready_scheduledWindowsAndReturns := fun (s : State) (r h a t0 : Nat) (we pinned part : Bool) (rr : Nat) =>
    ((s.toChip.upTo t0).requestSlot r h we pinned).isSome = true ∧ s.fabricRuns r = true ∧ s.inject.armed = [] ∧
    (s.toChip.upTo t0).windowTaken r h a = true ∧ (s.toChip.upTo t0).windowTarget (s.regionOwner r) a we part pinned =
    0 ∧ s.protAt a = some rr ∧ s.protMode rr ≤ 3 ∧ a / 64 ∉ s.hub.badLines ∧ a % 32 = 0 ∧ s.cupola.cache.length ≤
    s.cacheRoom
abbrev before_scheduledWindowsAndReturns := fun (s : State) (rr a x : Nat) => if 2 ≤ s.protMode rr ∧ s.minorOf a = 0 ∧
    x / 64 = a / 64 then 0#8 else s.dramByte x
abbrev tick_scheduledWindowsAndReturns := fun (s : State) (t0 : Nat) => (s.toChip.upTo t0).now
abbrev answers_scheduledWindowsAndReturns := fun (s : State) (r t0 : Nat) (x : Nat × BitVec 64) (w : Window) =>
    w.cycle + latencyOf (s.region r).m x.2 = tick_scheduledWindowsAndReturns s t0 % 3900 * 8 / (s.region r).m
theorem test_ScheduledWindowsAndReturns_1 :
    (let s : State := hubOf (cup (win 4 0) 1 Hb) (fun h => { h with mem := [(64, 7#8), (65, 8#8), (127, 9#8)] });
    let r : Nat := 0;
    let h : Nat := 0;
    let a : Nat := 64;
    let t0 : Nat := 100;
    let rr : Nat := 0;
    let pinned : Bool := false;
    let t : State := after (.scheduledReadRequest r h a pinned t0) s;
    (r < 32) ∧ (h < 2) ∧ (ready_scheduledWindowsAndReturns s r h a t0 false pinned false rr) ∧ ((Tab.get []
        t.hub.windowsOut (2 * r + h)).map (fun w => (w.code, w.addr, w.due, w.data)) = [(0, a, max s.now t0 + (if
        pinned then 90 else 80), s.dramBytes a 32)]) ∧ (t.hub.mem = s.hub.mem) ∧ (keptBut [.belfry, .hub] s t =
        true)) ∧
    (let s : State := hubOf (cup (win 4 4) 3 Hb) (fun h => { h with mem := [(64, 7#8), (65, 8#8), (127, 9#8)] });
    let r : Nat := 0;
    let h : Nat := 0;
    let a : Nat := 64;
    let t0 : Nat := 100;
    let rr : Nat := 0;
    let pinned : Bool := true;
    let t : State := after (.scheduledReadRequest r h a pinned t0) s;
    (r < 32) ∧ (h < 2) ∧ (ready_scheduledWindowsAndReturns s r h a t0 false pinned false rr) ∧ ((Tab.get []
        t.hub.windowsOut (2 * r + h)).map (fun w => (w.code, w.addr, w.due, w.data)) = [(0, a, max s.now t0 + (if
        pinned then 90 else 80), List.replicate 32 0#8)]) ∧ (t.hub.mem = s.hub.mem) ∧ (keptBut [.belfry, .hub] s t =
        true)) ∧
    (let s : State := hubOf (cup (win 4 2) 1 Hb) (fun h => { h with mem := [(64, 7#8), (65, 8#8), (127, 9#8)] });
    let r : Nat := 0;
    let h : Nat := 0;
    let a : Nat := 64;
    let t0 : Nat := 100;
    let rr : Nat := 0;
    let pinned : Bool := false;
    let m : BitVec 32 := 0x80000001#32;
    let d : Bytes := wd;
    let t : State := after (.scheduledWriteRequest r h a pinned m d t0) s;
    (r < 32) ∧ (h < 2) ∧ (d.length = 32) ∧ (ready_scheduledWindowsAndReturns s r h a t0 true pinned (m !=
        BitVec.allOnes 32) rr) ∧ (∀ i, i < 32 → t.dramByte (a + i) = if m.getLsbD i then d.getD i 0#8 else
        before_scheduledWindowsAndReturns s rr a (a + i)) ∧ ([63, 96, 127, 128].all (fun x => t.dramByte x =
        s.dramByte x) = true) ∧ (Tab.get (0, 0, 0) t.hub.writes (2 * r + h) = (a, tick_scheduledWindowsAndReturns s
        t0, 0)) ∧ ((t.region r).fenced = (s.region r).fenced) ∧ (keptBut [.belfry, .hub, .cupola, .dict] s t = true)) ∧
    (let s : State := hubOf (cup (win 4 6) 3 Hb) (fun h => { h with mem := [(64, 7#8), (65, 8#8), (127, 9#8)] });
    let r : Nat := 0;
    let h : Nat := 0;
    let a : Nat := 64;
    let t0 : Nat := 100;
    let rr : Nat := 0;
    let pinned : Bool := true;
    let m : BitVec 32 := 0xFFFFFFFF#32;
    let d : Bytes := wd;
    let t : State := after (.scheduledWriteRequest r h a pinned m d t0) s;
    (r < 32) ∧ (h < 2) ∧ (d.length = 32) ∧ (ready_scheduledWindowsAndReturns s r h a t0 true pinned (m !=
        BitVec.allOnes 32) rr) ∧ (∀ i, i < 32 → t.dramByte (a + i) = if m.getLsbD i then d.getD i 0#8 else
        before_scheduledWindowsAndReturns s rr a (a + i)) ∧ ([63, 96, 128].all (fun x => t.dramByte x = s.dramByte
        x) = true) ∧ (Tab.get (0, 0, 0) t.hub.writes (2 * r + h) = (a, tick_scheduledWindowsAndReturns s t0, 0)) ∧
        ((t.region r).fenced = (s.region r).fenced) ∧ (keptBut [.belfry, .hub, .cupola, .dict] s t = true)) ∧
    (let answers := fun (s : State) (r t0 : Nat) (x : Nat × BitVec 64) (w : Window) => w.cycle + latencyOf (s.region
        r).m x.2 = tick_scheduledWindowsAndReturns s t0 % 3900 * 8 / (s.region r).m;
    let s : State := hubOf (cup (win 5 0) 0 Hb) (fun h => { h with windowsOut := [(0, [wo 1, wo 2, wo 3])] });
    let r : Nat := 0;
    let h : Nat := 0;
    let t0 : Nat := 150;
    let x : Nat × BitVec 64 := (0, slot true 0 50 5 0 0);
    let l0 : List Window := [wo 1];
    let l : List Window := [wo 3];
    let w : Window := wo 2;
    let t : State := after (.scheduledReturnSlot r h t0) s;
    (r < 32) ∧ (h < 2) ∧ (s.fabricRuns r = true) ∧ (s.isArmed 0x2D62 6 r = false) ∧ ((s.toChip.upTo t0).returnEntry
        r h = some x) ∧ (Tab.get [] s.hub.windowsOut (2 * r + h) = l0 ++ w :: l) ∧ (answers s r t0 x w) ∧ (∀ v ∈ l,
        ¬ answers s r t0 x v) ∧ (w.due ≤ tick_scheduledWindowsAndReturns s t0) ∧ (w.code = 0) ∧ (Tab.get (9, [])
        t.hub.returned (2 * r + h) = (0, w.data)) ∧ (Tab.get (0, 9, []) t.hub.schedOut (2 * r + h) = ((s.toChip.upTo
        t0).isle r, 0, w.data)) ∧ (Tab.get [] t.hub.windowsOut (2 * r + h) = l) ∧ (keptBut [.belfry, .hub] s t =
        true)) ∧
    (let answers := fun (s : State) (r t0 : Nat) (x : Nat × BitVec 64) (w : Window) => w.cycle + latencyOf (s.region
        r).m x.2 = tick_scheduledWindowsAndReturns s t0 % 3900 * 8 / (s.region r).m;
    let s : State := hubOf (cup (win 5 4) 0 Hb) (fun h => { h with windowsOut := [(0, [wo 0, wo 1, wo 2])] });
    let r : Nat := 0;
    let h : Nat := 0;
    let t0 : Nat := 150;
    let x : Nat × BitVec 64 := (0, slot true 0 50 5 4 0);
    let l0 : List Window := [wo 0];
    let l : List Window := [wo 2];
    let w : Window := wo 1;
    let t : State := after (.scheduledReturnSlot r h t0) s;
    (r < 32) ∧ (h < 2) ∧ (s.fabricRuns r = true) ∧ (s.isArmed 0x2D62 6 r = false) ∧ ((s.toChip.upTo t0).returnEntry
        r h = some x) ∧ (Tab.get [] s.hub.windowsOut (2 * r + h) = l0 ++ w :: l) ∧ (answers s r t0 x w) ∧ (∀ v ∈ l,
        ¬ answers s r t0 x v) ∧ (w.due ≤ tick_scheduledWindowsAndReturns s t0) ∧ (w.code = 0) ∧ (Tab.get (9, [])
        t.hub.returned (2 * r + h) = (0, w.data)) ∧ (Tab.get (0, 9, []) t.hub.schedOut (2 * r + h) = ((s.toChip.upTo
        t0).isle r, 0, w.data)) ∧ (Tab.get [] t.hub.windowsOut (2 * r + h) = l) ∧ (keptBut [.belfry, .hub] s t =
        true)) :=
  ⟨by decide +kernel, by decide +kernel, by decide +kernel, by decide +kernel, by decide +kernel, by decide +kernel⟩
theorem test_ScheduledWindowsAndReturns_2 :
    (let answers := fun (s : State) (r t0 : Nat) (x : Nat × BitVec 64) (w : Window) => w.cycle + latencyOf (s.region
        r).m x.2 = tick_scheduledWindowsAndReturns s t0 % 3900 * 8 / (s.region r).m;
    let s : State := hubOf (cup (win 5 0) 0 Hb) (fun h => { h with windowsOut := [(0, [])] });
    let r : Nat := 0;
    let h : Nat := 0;
    let t0 : Nat := 150;
    let x : Nat × BitVec 64 := (0, slot true 0 50 5 0 0);
    let t : State := after (.scheduledReturnSlot r h t0) s;
    (r < 32) ∧ (h < 2) ∧ (s.fabricRuns r = true) ∧ (s.isArmed 0x2D62 6 r = false) ∧ ((s.toChip.upTo t0).returnEntry
        r h = some x) ∧ (∀ v ∈ Tab.get [] s.hub.windowsOut (2 * r + h), ¬ answers s r t0 x v) ∧ (t.hub = s.hub) ∧
        ((t.region r).fenced = (s.region r).fenced) ∧ (keptBut [.belfry] s t = true)) ∧
    (let answers := fun (s : State) (r t0 : Nat) (x : Nat × BitVec 64) (w : Window) => w.cycle + latencyOf (s.region
        r).m x.2 = tick_scheduledWindowsAndReturns s t0 % 3900 * 8 / (s.region r).m;
    let s : State := hubOf (cup (win 5 0) 0 Hb) (fun h => { h with windowsOut := [(0, [wo 1, wo 3])] });
    let r : Nat := 0;
    let h : Nat := 0;
    let t0 : Nat := 150;
    let x : Nat × BitVec 64 := (0, slot true 0 50 5 0 0);
    let t : State := after (.scheduledReturnSlot r h t0) s;
    (r < 32) ∧ (h < 2) ∧ (s.fabricRuns r = true) ∧ (s.isArmed 0x2D62 6 r = false) ∧ ((s.toChip.upTo t0).returnEntry
        r h = some x) ∧ (∀ v ∈ Tab.get [] s.hub.windowsOut (2 * r + h), ¬ answers s r t0 x v) ∧ (t.hub = s.hub) ∧
        ((t.region r).fenced = (s.region r).fenced) ∧ (keptBut [.belfry] s t = true)) ∧
    (let s : State := { (win 5 0) with inject := { enabled := true, armed := [{ obj := 0x2D62, code := 6, target := 0, target2 := 0 }] } };
    let r : Nat := 0;
    let h : Nat := 0;
    let t0 : Nat := 150;
    let p : Nat := 0;
    let x : Nat × BitVec 64 := (0, slot true 0 50 5 0 0);
    let t : State := after (.scheduledReturnSlot r h t0) s;
    (r < 32) ∧ (p < 8) ∧ (s.fabricRuns r = true) ∧ ((s.toChip.upTo t0).returnEntry r h = some x) ∧ (s.isArmed 0x2D62
        6 r = true) ∧ (s.regionPart r = some p) ∧ ((s.part p).status = .armed) ∧ ((s.region r).fenced = false) ∧
        ((t.region r).fenced = true) ∧ ((t.part p).status = .broken) ∧ ((t.region r).lastMiss.map (·.cause) = some
        6)) ∧
    (let answers := fun (s : State) (r t0 : Nat) (x : Nat × BitVec 64) (w : Window) => w.cycle + latencyOf (s.region
        r).m x.2 = tick_scheduledWindowsAndReturns s t0 % 3900 * 8 / (s.region r).m;
    let s : State := hubOf (win 5 0) (fun h => { h with windowsOut := [(0, [{ wo 2 with due := 151 }])] });
    let r : Nat := 0;
    let h : Nat := 0;
    let t0 : Nat := 150;
    let p : Nat := 0;
    let x : Nat × BitVec 64 := (0, slot true 0 50 5 0 0);
    let t : State := after (.scheduledReturnSlot r h t0) s;
    (r < 32) ∧ (p < 8) ∧ (s.fabricRuns r = true) ∧ ((s.toChip.upTo t0).returnEntry r h = some x) ∧ (Tab.get []
        s.hub.windowsOut (2 * r + h) = [{ wo 2 with due := 151 }] ∧ (answers s r t0 x { wo 2 with due := 151 }) ∧
        max s.now t0 < 151) ∧ (s.regionPart r = some p) ∧ ((s.part p).status = .armed) ∧ ((s.region r).fenced =
        false) ∧ ((t.region r).fenced = true) ∧ ((t.part p).status = .broken) ∧ ((t.region r).lastMiss.map (·.cause)
        = some 6)) ∧
    (let s : State := hubOf (cup (win 4 0) 1 Hb) (fun h => h);
    let r : Nat := 0;
    let h : Nat := 1;
    let a : Nat := 64;
    let t0 : Nat := 100;
    let p : Nat := 0;
    let pinned : Bool := false;
    let t : State := after (.scheduledReadRequest r h a pinned t0) s;
    (r < 32) ∧ (p < 8) ∧ (((s.toChip.upTo t0).requestSlot r h false pinned).isSome = false) ∧ (s.fabricRuns r =
        true) ∧ ((s.regionK r).isSome = true) ∧ (s.regionPart r = some p) ∧ ((s.part p).status = .armed) ∧
        ((s.region r).fenced = false) ∧ ((t.region r).fenced = true) ∧ ((t.part p).status = .broken) ∧ ((t.region
        r).lastMiss.map (fun x => (x.cause, x.slot)) = some (3, 0xFFFF)) ∧ (t.hub.mem = s.hub.mem)) :=
  ⟨by decide +kernel, by decide +kernel, by decide +kernel, by decide +kernel, by decide +kernel⟩
abbrev taken_bestEffortRequestsAndChannels := fun (s : State) (src a t0 : Nat) (we part : Bool) (rr : Nat) =>
    (s.toChip.upTo t0).hubReady src a we = true ∧ s.channelTakes a = 1 ∧ a < s.hub.capacity ∧ (s.channel (s.hubChannel
    a)).underTest = false ∧ s.cupolaCode ((s.sourceOwner src).getD 9) a we part = 0 ∧ s.protAt a = some rr ∧
    s.inject.armed = [] ∧ a / 64 ∉ s.hub.badLines ∧ a % 32 = 0
abbrev unwritten_bestEffortRequestsAndChannels := fun (s : State) (rr a : Nat) => 2 ≤ s.protMode rr ∧ s.minorOf a = 0
theorem test_BestEffortRequestsAndChannels_1 :
    (let s : State := hubOf (cup F0 1 Hb) (fun h => { h with mem := [(64, 7#8), (65, 8#8), (127, 9#8)] });
    let src : Nat := 64;
    let a : Nat := 64;
    let tag : Nat := 5;
    let t0 : Nat := 9;
    let rr : Nat := 0;
    let t : State := after (.bestEffortRead src a tag t0) s;
    let d : Bytes := ((t.hub.queue.getLast?).map (·.data)).getD [];
    (taken_bestEffortRequestsAndChannels s src a t0 false false rr) ∧ (t.hub.queue = s.hub.queue ++ [{ src := src, we := false, addr := a, tag := tag, code := 0, data := d }])
        ∧ (unwritten_bestEffortRequestsAndChannels s rr a → d = List.replicate 32 0#8) ∧ ((¬
        unwritten_bestEffortRequestsAndChannels s rr a → d = s.dramBytes a 32))) ∧
    (let s : State := hubOf (cup F0 2 Hb) (fun h => { h with mem := [(64, 7#8), (65, 8#8), (127, 9#8)] });
    let src : Nat := 64;
    let a : Nat := 64;
    let tag : Nat := 5;
    let t0 : Nat := 9;
    let rr : Nat := 0;
    let t : State := after (.bestEffortRead src a tag t0) s;
    let d : Bytes := ((t.hub.queue.getLast?).map (·.data)).getD [];
    (taken_bestEffortRequestsAndChannels s src a t0 false false rr) ∧ (t.hub.queue = s.hub.queue ++ [{ src := src, we := false, addr := a, tag := tag, code := 0, data := d }])
        ∧ (unwritten_bestEffortRequestsAndChannels s rr a → d = List.replicate 32 0#8) ∧ ((¬
        unwritten_bestEffortRequestsAndChannels s rr a → d = s.dramBytes a 32))) ∧
    (let s : State := hubOf (cup F0 1 Hb) (fun h => { h with mem := [(64, 7#8), (65, 8#8), (127, 9#8)] });
    let src : Nat := 1;
    let a : Nat := 64;
    let tag : Nat := 5;
    let t0 : Nat := 9;
    let rr : Nat := 0;
    let m : BitVec 32 := 0x80000001#32;
    let d : Bytes := wd;
    let t : State := after (.bestEffortWrite src a m d tag t0) s;
    (d.length = 32) ∧ (taken_bestEffortRequestsAndChannels s src a t0 true (m != BitVec.allOnes 32) rr) ∧
        (t.hub.queue.map (fun x => (x.src, x.we, x.addr, x.tag, x.code)) = [(src, true, a, tag, 0)] ∧ [0, 1, 30,
        31].all (fun i => decide (t.dramByte (a + i) = if m.getLsbD i then d.getD i 0#8 else s.dramByte (a + i))) =
        true ∧ [63, 96, 127, 128].all (fun x => t.dramByte x = s.dramByte x) = true)) ∧
    (let i : Nat → Instr := Instr.bestEffortReadReturn;
    let we : Bool := false;
    let s : State := hubOf (cup F0 1 Hb) (fun h => { h with queue := [{ src := 64, we := false, addr := 64, tag := 5, code := 0, data := wd }] });
    let src : Nat := 64;
    let q : Request := { src := 64, we := false, addr := 64, tag := 5, code := 0, data := wd };
    let t : State := after (i src) s;
    ((s.hub.queue.find? fun x => x.src == src) = some q) ∧ (q.we = we) ∧ (s.mayReturn q = true) ∧ (q.drop = false) ∧
        (t.hub.queue = s.hub.queue.erase q) ∧ (Tab.get (9, [], 0) t.hub.results src = (q.code, q.data, q.tag)) ∧
        (src < 64 → if we then Tab.get (0, 9, 0) t.hub.ackOut src = (s.isle (src / 2), q.code, q.tag) else Tab.get
        (0, 9, [], 0) t.hub.readOut src = (s.isle (src / 2), q.code, q.data, q.tag)) ∧ (keptBut [.hub] s t = true)) ∧
    (let i : Nat → Instr := Instr.bestEffortWriteAck;
    let we : Bool := true;
    let s : State := hubOf (cup F0 1 Hb) (fun h => { h with queue := [{ src := 64, we := true, addr := 64, tag := 5, code := 0, data := wd }] });
    let src : Nat := 64;
    let q : Request := { src := 64, we := true, addr := 64, tag := 5, code := 0, data := wd };
    let t : State := after (i src) s;
    ((s.hub.queue.find? fun x => x.src == src) = some q) ∧ (q.we = we) ∧ (s.mayReturn q = true) ∧ (q.drop = false) ∧
        (t.hub.queue = s.hub.queue.erase q) ∧ (Tab.get (9, [], 0) t.hub.results src = (q.code, q.data, q.tag)) ∧
        (src < 64 → if we then Tab.get (0, 9, 0) t.hub.ackOut src = (s.isle (src / 2), q.code, q.tag) else Tab.get
        (0, 9, [], 0) t.hub.readOut src = (s.isle (src / 2), q.code, q.data, q.tag)) ∧ (keptBut [.hub] s t = true)) ∧
    (let s : State := hubOf (cup F0 1 Hb) (fun h => { h with queue := [{ src := 64, we := true, addr := 64, tag := 5, code := 0, data := wd }] });
    let src : Nat := 64;
    let q : Request := { src := 64, we := true, addr := 64, tag := 5, code := 0, data := wd };
    let l : List Request := [];
    let t : State := after (.writeCrcError src) s;
    (s.hub.queue = q :: l) ∧ (q.src = src) ∧ (q.we = true) ∧ (q.code = 0) ∧ (q.retries < 4) ∧ (t.hub.queue = { q with retries := q.retries + 1 }
        :: l) ∧ (t.reg (0x2610 + s.hubChannel q.addr) 0x0B = sat32 (s.reg (0x2610 + s.hubChannel q.addr) 0x0B + 1))
        ∧ (t.hub.mem = s.hub.mem) ∧ (keptBut [.hub, .dict] s t = true)) :=
  ⟨by decide +kernel, by decide +kernel, by decide +kernel, by decide +kernel, by decide +kernel, by decide +kernel⟩
theorem test_BestEffortRequestsAndChannels_2 :
    (let s : State := hubOf (cup F0 1 Hb) (fun h => { h with queue := [{ src := 64, we := true, retries := 4, addr := 64, tag := 5, code := 0, data := wd }] });
    let src : Nat := 64;
    let q : Request := { src := 64, we := true, retries := 4, addr := 64, tag := 5, code := 0, data := wd };
    let l : List Request := [];
    let t : State := after (.writeCrcError src) s;
    (s.hub.queue = q :: l) ∧ (q.src = src) ∧ (q.we = true) ∧ (q.code = 0) ∧ (4 ≤ q.retries) ∧ (t.hub.queue = { q with code := 1 }
        :: l) ∧ (t.reg (0x2610 + s.hubChannel q.addr) 0x0C = q.addr) ∧ (keptBut (.hub :: logAreas) s t = true)) ∧
    (let s : State := od { F0 with hub := Hb } [(0x260009, 50)];
    let c : Nat := 1;
    let t : State := after (.selfRefreshEntry c) s;
    (c < 8) ∧ (s.hub.st = 2) ∧ ((s.channel c).st = .ready ∨ (s.channel c).st = .idle) ∧ (c ∉ s.windowChannels) ∧
        (s.reg 0x2600 9 ≠ 0) ∧ ((if s.hub.queue.any (fun q => s.hubChannel q.addr == c) then (t.channel c).st =
        (s.channel c).st ∧ t.reg (0x2610 + c) 0x0E = sat32 (s.reg (0x2610 + c) 0x0E + 1) else (t.channel c).st =
        .selfRefresh ∧ t.reg (0x2610 + c) 0x0D = sat32 (s.reg (0x2610 + c) 0x0D + 1))) ∧ (t.now = (s.toChip.upTo
        ((s.channel c).usedAt + s.reg 0x2600 9 * 1000)).now) ∧ (∀ j, j < 40 → j ≠ c → t.channel j = s.channel j) ∧
        (t.hub.mem = s.hub.mem) ∧ (keptBut [.belfry, .hub, .dict] s t = true)) ∧
    (let s : State := od { F0 with hub := { Hb with queue := [{ src := 64, we := true, addr := 8192, tag := 5, code := 0, data := [] }] } }
        [(0x260009, 50)];
    let c : Nat := 1;
    let t : State := after (.selfRefreshEntry c) s;
    (c < 8) ∧ (s.hub.st = 2) ∧ ((s.channel c).st = .ready ∨ (s.channel c).st = .idle) ∧ (c ∉ s.windowChannels) ∧
        (s.reg 0x2600 9 ≠ 0) ∧ ((if s.hub.queue.any (fun q => s.hubChannel q.addr == c) then (t.channel c).st =
        (s.channel c).st ∧ t.reg (0x2610 + c) 0x0E = sat32 (s.reg (0x2610 + c) 0x0E + 1) else (t.channel c).st =
        .selfRefresh ∧ t.reg (0x2610 + c) 0x0D = sat32 (s.reg (0x2610 + c) 0x0D + 1))) ∧ (t.now = (s.toChip.upTo
        ((s.channel c).usedAt + s.reg 0x2600 9 * 1000)).now) ∧ (∀ j, j < 40 → j ≠ c → t.channel j = s.channel j) ∧
        (t.hub.mem = s.hub.mem) ∧ (keptBut [.belfry, .hub, .dict] s t = true)) ∧
    (let s : State := hubOf (cup F0 1 Hb) (fun h => { h with channels := [(0, { Ch with st := .selfRefresh }), (1, Ch)] });
    let c : Nat := 0;
    let t : State := after (.selfRefreshExit c) s;
    ((s.channel c).st = .selfRefresh) ∧ (s.dev.st ≠ .closing) ∧ ((t.channel c).st = (if s.hub.set_.getLsbD c then
        .ready else .idle)) ∧ (∀ j, j < 40 → j ≠ c → t.channel j = s.channel j) ∧ (t.hub.mem = s.hub.mem) ∧ (keptBut
        [.hub] s t = true)) ∧
    (let s : State := { hubOf (cup F0 1 Hb) (fun h => { h with capacity := 128 }) with watch := { scrubPtr := 64 } };
    let e : EccOutcome := .clean;
    let t : State := after (.dramScrubRead e) s;
    (s.hub.st = 2) ∧ (s.hub.capacity ≠ 0) ∧ (s.bestEffortFrozen = false) ∧ (s.reg 0x2910 3 ≠ 0) ∧ (s.inject.armed =
        []) ∧ ((s.channel (s.hubChannel (s.watch.scrubPtr % s.hub.capacity))).underTest = false) ∧ (s.watch.scrubPtr
        % s.hub.capacity / 64 ∉ s.hub.badLines) ∧ (t.watch.scrubPtr = (s.watch.scrubPtr % s.hub.capacity + 64) %
        s.hub.capacity) ∧ (s.hub.capacity ≤ s.watch.scrubPtr % s.hub.capacity + 64 → t.reg 0x2910 5 = sat32 (s.reg
        0x2910 5 + 1)) ∧ (e = .clean → keptBut [.watch, .dict] s t = true)) ∧
    (let s : State := { hubOf (cup F0 1 Hb) (fun h => { h with capacity := 128 }) with watch := { scrubPtr := 64 } };
    let e : EccOutcome := .uncorrectable 3;
    let t : State := after (.dramScrubRead e) s;
    (s.hub.st = 2) ∧ (s.hub.capacity ≠ 0) ∧ (s.bestEffortFrozen = false) ∧ (s.reg 0x2910 3 ≠ 0) ∧ (s.inject.armed =
        []) ∧ ((s.channel (s.hubChannel (s.watch.scrubPtr % s.hub.capacity))).underTest = false) ∧ (s.watch.scrubPtr
        % s.hub.capacity / 64 ∉ s.hub.badLines) ∧ (t.watch.scrubPtr = (s.watch.scrubPtr % s.hub.capacity + 64) %
        s.hub.capacity) ∧ (s.hub.capacity ≤ s.watch.scrubPtr % s.hub.capacity + 64 → t.reg 0x2910 5 = sat32 (s.reg
        0x2910 5 + 1)) ∧ (s.watch.scrubPtr % s.hub.capacity / 64 ∈ t.hub.badLines)) :=
  ⟨by decide +kernel, by decide +kernel, by decide +kernel, by decide +kernel, by decide +kernel, by decide +kernel⟩

/-! ### Witnesses of chapter 10 -/

abbrev inside_regionCommandsChangeRegions := fun (s : State) (rr x : Nat) => s.protBase rr ≤ x ∧ x < s.protBase rr +
    s.protSize rr
abbrev others_regionCommandsChangeRegions := fun (s t : State) (rr : Nat) => ∀ j, j < 40 → j ≠ rr → t.prot j = s.prot
    j
theorem test_RegionCommandsChangeRegions_1 :
    (let areas : List Area := .belfry :: .hub :: .cupola :: .dbg :: .free :: logAreas;
    let s : State := od (cupR (hubOf (sealed 2) (fun h => { h with mem := [(2 ^ 20 - 1, 4#8), (2 ^ 20, 5#8), (2 ^ 20 + 64, 5#8), (2 ^ 21, 6#8)] }))
        (fun c => { c with regions := [] })) [(0x271102, 2 ^ 20), (0x271103, 20), (0x271104, 0), (0x271105, 2 ^
        24)];
    let q : Req := q1;
    let n : Nat := 4;
    let rr : Nat := 1;
    let t : State := after (.regionDefine q n rr) s;
    (rr < 64) ∧ (CommandTaken s q 0x2E27 n [(3, rr), (4, 1)] = true) ∧ ((s.prot rr).st = 0) ∧ (s.hub.st = 2) ∧
        (s.hasMemory q.owner = true) ∧ (s.descriptorOk rr = true) ∧ (s.cupola.pinned + (if s.protMode rr = 3 then
        metaBytes (s.protExp rr) else 0) ≤ 6291456) ∧ ((t.prot rr).owner = q.owner) ∧ (t.protReg rr 6 = 0) ∧
        (t.protReg rr 7 = 0) ∧ ((t.prot rr).keyGen = (if s.protMode rr = 0 then 0 else 1)) ∧ ((t.prot rr).st = 2 ∧
        t.status 0x2E27 q.owner = 0) ∧ ([(2 ^ 20 - 1), 2 ^ 20, (2 ^ 21 - 1), 2 ^ 21].all (fun x => decide
        (t.dramByte x = s.dramByte x)) = true) ∧ (t.cupola.pinned = s.cupola.pinned + (if s.protMode rr = 3 then
        metaBytes (s.protExp rr) else 0)) ∧ (∀ x, x < 40 → s.protMode rr ≠ 1 ∨ ¬ inside_regionCommandsChangeRegions
        s rr x → t.dramByte x = s.dramByte x) ∧ (others_regionCommandsChangeRegions s t rr) ∧ (keptBut areas s t =
        true)) ∧
    (let areas : List Area := .belfry :: .hub :: .cupola :: .dbg :: .free :: logAreas;
    let s : State := od (cupR (hubOf (sealed 2) (fun h => { h with mem := [(2 ^ 20 - 1, 4#8), (2 ^ 20, 5#8), (2 ^ 20 + 64, 5#8), (2 ^ 21, 6#8)] }))
        (fun c => { c with regions := [] })) [(0x271102, 2 ^ 20), (0x271103, 20), (0x271104, 2), (0x271105, 2 ^
        24)];
    let q : Req := q1;
    let n : Nat := 4;
    let rr : Nat := 1;
    let t : State := after (.regionDefine q n rr) s;
    (rr < 64) ∧ (CommandTaken s q 0x2E27 n [(3, rr), (4, 1)] = true) ∧ ((s.prot rr).st = 0) ∧ (s.hub.st = 2) ∧
        (s.hasMemory q.owner = true) ∧ (s.descriptorOk rr = true) ∧ (s.cupola.pinned + (if s.protMode rr = 3 then
        metaBytes (s.protExp rr) else 0) ≤ 6291456) ∧ ((t.prot rr).owner = q.owner) ∧ (t.protReg rr 6 = 0) ∧
        (t.protReg rr 7 = 0) ∧ ((t.prot rr).keyGen = (if s.protMode rr = 0 then 0 else 1)) ∧ ((t.prot rr).st = 1 ∧
        (t.cmd (cmdKey 0x2E27)).busy = some 1) ∧ (t.cupola.pinned = s.cupola.pinned + (if s.protMode rr = 3 then
        metaBytes (s.protExp rr) else 0)) ∧ (∀ x, x < 40 → s.protMode rr ≠ 1 ∨ ¬ inside_regionCommandsChangeRegions
        s rr x → t.dramByte x = s.dramByte x) ∧ (others_regionCommandsChangeRegions s t rr) ∧ (keptBut areas s t =
        true)) ∧
    (let s : State := cm (sealed 1) 0x2E27 { busy := some 1 };
    let rr : Nat := 1;
    let o : Nat := 1;
    let t : State := after (.metadataInitDone rr) s;
    (rr < 64) ∧ ((s.prot rr).st = 1) ∧ ((s.cmd 0x2E27).busy = some o) ∧ ((t.prot rr).st = 2) ∧ (t.status 0x2E27 o =
        0) ∧ ((t.cmd 0x2E27).busy = none) ∧ (others_regionCommandsChangeRegions s t rr) ∧ (keptBut [.hub, .cupola,
        .dict, .ports] s t = true)) ∧
    (let areas : List Area := .belfry :: .hub :: .cupola :: .dbg :: .free :: logAreas;
    let s : State := hubOf (sealed 2) (fun h => { h with mem := [(2 ^ 20 - 1, 4#8), (2 ^ 20, 5#8), (2 ^ 20 + 64, 5#8), (2 ^ 21, 6#8)] });
    let q : Req := q1;
    let n : Nat := 4;
    let rr : Nat := 1;
    let t : State := after (.regionDelete q n rr) s;
    (rr < 64) ∧ (CommandTaken s q 0x2E27 n [(3, rr), (4, 2)] = true) ∧ ((s.prot rr).st ≠ 0) ∧ ((s.prot rr).st ≠ 6) ∧
        (q.owner = 0 ∨ q.owner = (s.prot rr).owner) ∧ (others_regionCommandsChangeRegions s t rr) ∧ (keptBut areas s
        t = true) ∧ ((t.prot rr).st = 0 ∧ (t.prot rr).keyGen = 0 ∧ t.status 0x2E27 q.owner = 0 ∧ t.cupola.poison =
        []) ∧ (2 ≤ s.protMode rr → s.protBase rr % 64 = 0 → 6 ≤ s.protExp rr → (∀ x, x < 40 →
        inside_regionCommandsChangeRegions s rr x → s.protAt x = some rr) → (∀ x, x < 40 →
        inside_regionCommandsChangeRegions s rr x → t.dramByte x = (s.rawLine x).getD (x % 64) 0#8) ∧ ∀ x, x < 40 →
        ¬ inside_regionCommandsChangeRegions s rr x → t.dramByte x = s.dramByte x)) ∧
    (let areas : List Area := .belfry :: .hub :: .cupola :: .dbg :: .free :: logAreas;
    let s : State := hubOf (cup F0 0 Hb) (fun h => { h with mem := [(2 ^ 20 - 1, 4#8), (2 ^ 20, 5#8), (2 ^ 20 + 64, 5#8), (2 ^ 21, 6#8)] });
    let q : Req := q0;
    let n : Nat := 4;
    let rr : Nat := 0;
    let t : State := after (.regionDelete q n rr) s;
    (rr < 64) ∧ (CommandTaken s q 0x2E27 n [(3, rr), (4, 2)] = true) ∧ ((s.prot rr).st ≠ 0) ∧ ((s.prot rr).st ≠ 6) ∧
        (q.owner = 0 ∨ q.owner = (s.prot rr).owner) ∧ (others_regionCommandsChangeRegions s t rr) ∧ (keptBut areas s
        t = true) ∧ ((t.prot rr).st = 6 ∧ (t.cmd (cmdKey 0x2E27)).busy = some 0 ∧ [(2 ^ 20 - 1), 2 ^ 20, (2 ^ 21 -
        1), 2 ^ 21].all (fun x => decide (t.dramByte x = s.dramByte x)) = true) ∧ (2 ≤ s.protMode rr → s.protBase rr
        % 64 = 0 → 6 ≤ s.protExp rr → (∀ x, x < 40 → inside_regionCommandsChangeRegions s rr x → s.protAt x = some
        rr) → (∀ x, x < 40 → inside_regionCommandsChangeRegions s rr x → t.dramByte x = (s.rawLine x).getD (x % 64)
        0#8) ∧ ∀ x, x < 40 → ¬ inside_regionCommandsChangeRegions s rr x → t.dramByte x = s.dramByte x)) ∧
    (let s : State := cm (hubOf (sealed 6) (fun h => { h with mem := [(2 ^ 20 - 1, 4#8), (2 ^ 20, 5#8), (2 ^ 20 + 64, 5#8), (2 ^ 21, 6#8)] }))
        0x2E27 { busy := some 1 };
    let rr : Nat := 1;
    let o : Nat := 1;
    let t : State := after (.regionZeroFillDone rr) s;
    (rr < 64) ∧ ((s.prot rr).st = 6) ∧ ((s.cmd 0x2E27).busy = some o) ∧ ((t.prot rr).st = 0) ∧ (t.status 0x2E27 o =
        0) ∧ ([(2 ^ 20 - 1), 2 ^ 20, (2 ^ 21 - 1), 2 ^ 21].all (fun x => s.protBase rr ≤ x && x < s.protBase rr +
        s.protSize rr && decide (t.dramByte x = 0#8) || !(s.protBase rr ≤ x && x < s.protBase rr + s.protSize rr) &&
        decide (t.dramByte x = s.dramByte x)) = true) ∧ (others_regionCommandsChangeRegions s t rr) ∧ (keptBut (.hub
        :: .cupola :: logAreas) s t = true)) :=
  ⟨by decide +kernel, by decide +kernel, by decide +kernel, by decide +kernel, by decide +kernel, by decide +kernel⟩
theorem test_RegionCommandsChangeRegions_2 :
    (let areas : List Area := .belfry :: .hub :: .cupola :: .dbg :: .free :: logAreas;
    let s : State := sealed 2;
    let q : Req := q1;
    let n : Nat := 4;
    let rr : Nat := 1;
    let t : State := after (.regionRekey q n rr) s;
    (rr < 64) ∧ (CommandTaken s q 0x2E27 n [(3, rr), (4, 3)] = true) ∧ ((s.prot rr).st = 2) ∧ (s.protMode rr ≠ 0) ∧
        ((s.prot rr).owner = q.owner) ∧ ((t.prot rr).st = 3) ∧ ((t.prot rr).keyGen = (s.prot rr).keyGen + 1) ∧
        ((t.prot rr).key = s.free) ∧ ((t.prot rr).oldKey = (s.prot rr).key) ∧ ((t.cmd (cmdKey 0x2E27)).busy = some
        q.owner ∧ t.status 0x2E27 q.owner = 1) ∧ (t.hub = s.hub) ∧ (others_regionCommandsChangeRegions s t rr) ∧
        (keptBut areas s t = true)) ∧
    (let s : State := cm (cupR (sealed 3) (fun c => { c with sweepCmd := some 1, minor := [(16384, 9), (16385, 1)] }))
        0x2E27 { busy := some 1 };
    let rr : Nat := 1;
    let o : Nat := 1;
    let t : State := after (.rekeySweepDone rr) s;
    (rr < 64) ∧ ((s.prot rr).st = 3) ∧ (s.cupola.sweepCmd = some rr) ∧ ((s.cmd 0x2E27).busy = some o) ∧ ((t.prot
        rr).st = 2) ∧ ((t.prot rr).high = 0) ∧ (t.status 0x2E27 o = 0) ∧ (t.minorOf (2 ^ 20) = 1 ∧ t.minorOf (2 ^ 20
        + 64) = 1 ∧ t.minorOf (2 ^ 20 + 128) = 0) ∧ (others_regionCommandsChangeRegions s t rr) ∧ (∀ a, a < 40 →
        s.protMode rr < 2 ∨ 24 ≤ s.protExp rr ∧ (a < s.protReg rr 5 ∨ s.protReg rr 5 + metaBytes (s.protExp rr) ≤ a)
        → t.dramByte a = s.dramByte a) ∧ (keptBut (.hub :: .cupola :: logAreas) s t = true)) ∧
    (let s : State := cupR (sealed 2) (fun c => { c with poison := [(3, (1, 0, 2 ^ 20))] });
    let q : Req := q1;
    let n : Nat := 4;
    let rr : Nat := 1;
    let e : Nat := 3;
    let t : State := after (.regionReinitialize q n rr e) s;
    (rr < 64) ∧ (CommandTaken s q 0x2E27 n [(3, rr), (4, 4), (5, e)] = true) ∧ ((s.prot rr).owner = q.owner) ∧
        ((s.prot rr).high < 0xFFFFFFFF) ∧ ((s.prot rr).st = 2 ∧ (s.cupola.poison.any fun x => x.1 == e && x.2.1 ==
        rr) = true) ∧ (t.cupola.reinit = some (rr, e)) ∧ ((t.cmd (cmdKey 0x2E27)).busy = some q.owner ∧ t.status
        0x2E27 q.owner = 1) ∧ (∀ j, j < 40 → t.prot j = s.prot j) ∧ (keptBut (.belfry :: .cupola :: answerAreas) s t
        = true)) ∧
    (let s : State := sealed 5;
    let q : Req := q1;
    let n : Nat := 4;
    let rr : Nat := 1;
    let e : Nat := 0xFF;
    let t : State := after (.regionReinitialize q n rr e) s;
    (rr < 64) ∧ (CommandTaken s q 0x2E27 n [(3, rr), (4, 4), (5, e)] = true) ∧ ((s.prot rr).owner = q.owner) ∧
        ((s.prot rr).high < 0xFFFFFFFF) ∧ ((s.prot rr).st = 5) ∧ (t.cupola.reinit = some (rr, e)) ∧ ((t.cmd (cmdKey
        0x2E27)).busy = some q.owner ∧ t.status 0x2E27 q.owner = 1) ∧ (∀ j, j < 40 → t.prot j = s.prot j) ∧ (keptBut
        (.belfry :: .cupola :: answerAreas) s t = true)) ∧
    (let s : State := cm (hubOf (cupR (sealed 2) (fun c => { c with poison := [(3, (1, 0, 2 ^ 20))], reinit := some (1, 3) }))
        (fun h => { h with mem := [(2 ^ 20 - 1, 4#8), (2 ^ 20, 5#8), (2 ^ 20 + 64, 5#8), (2 ^ 21, 6#8)] })) 0x2E27 { busy := some 1 };
    let rr : Nat := 1;
    let e : Nat := 3;
    let o : Nat := 1;
    let x : Nat × Nat × Nat × Nat := (3, (1, 0, 2 ^ 20));
    let t : State := after (.reinitializeDone rr) s;
    (rr < 64) ∧ (s.cupola.reinit = some (rr, e)) ∧ ((s.prot rr).st = 2) ∧ (e ≠ 0xFF) ∧ ((s.cupola.poison.find? fun y
        => y.1 == e) = some x) ∧ ((s.cmd 0x2E27).busy = some o) ∧ (s.inject.armed = []) ∧ (s.cupola.cache.length + 2
        ≤ s.cacheRoom) ∧ (t.cupola.poison = []) ∧ (t.cupola.reinit = none) ∧ (t.status 0x2E27 o = 0) ∧ (t.minorOf (2
        ^ 20) = 0 ∧ t.minorOf (2 ^ 20 + 64) = 0) ∧ (t.dramByte (2 ^ 20 - 1) = s.dramByte (2 ^ 20 - 1)) ∧
        (others_regionCommandsChangeRegions s t rr)) ∧
    (let s : State := cm (hubOf (cupR (sealed 5) (fun c => { c with poison := [(3, (1, 0, 2 ^ 20))], reinit := some (1, 0xFF) }))
        (fun h => { h with mem := [(2 ^ 20 - 1, 4#8), (2 ^ 20, 5#8), (2 ^ 20 + 64, 5#8), (2 ^ 21, 6#8)] })) 0x2E27 { busy := some 1 };
    let rr : Nat := 1;
    let o : Nat := 1;
    let t : State := after (.reinitializeDone rr) s;
    (rr < 64) ∧ (s.cupola.reinit = some (rr, 0xFF)) ∧ ((s.prot rr).st = 5) ∧ ((s.cmd 0x2E27).busy = some o) ∧
        ((t.prot rr).st = 2) ∧ (t.cupola.poison = []) ∧ (t.status 0x2E27 o = 0) ∧ ((t.prot rr).high = (s.prot
        rr).high + 1) ∧ (t.minorOf (2 ^ 20) = 0 ∧ t.minorOf (2 ^ 20 + 64) = 0) ∧ (t.dramByte (2 ^ 20 - 1) =
        s.dramByte (2 ^ 20 - 1)) ∧ (others_regionCommandsChangeRegions s t rr)) :=
  ⟨by decide +kernel, by decide +kernel, by decide +kernel, by decide +kernel, by decide +kernel, by decide +kernel⟩
abbrev loads_rightsAndMetadataTraffic := fun (s : State) (rr level a : Nat) => rr < 64 ∧ ((s.prot rr).st = 2 ∨ (s.prot
    rr).st = 3) ∧ s.protMode rr = 2 ∧ (∀ x ∈ s.cupola.cache, x.1 ≠ s.metaAddr rr level a) ∧ level ≤ treeLevels
    (s.protExp rr) + 1 ∧ s.protAt a = some rr ∧ s.inject.armed = [] ∧ 24 ≤ s.protExp rr
abbrev dirty_rightsAndMetadataTraffic := fun (s : State) (rr a : Nat) => (s.cupola.cache.find? fun x => x.1 == a) =
    some (a, true) ∧ s.spanAt a = some rr ∧ s.protMode rr = 2 ∧ 24 ≤ s.protExp rr ∧ s.metaArea rr a ≠ .unused ∧
    s.inject.armed = []
theorem test_RightsAndMetadataTraffic_1 :
    (let s : State := sealed 4;
    let src : Nat := 64;
    let a : Nat := 2 ^ 20 + 5;
    let tag : Nat := 3;
    let t0 : Nat := 9;
    let o : Nat := 1;
    let c : Nat := 2;
    let t : State := after (.bestEffortRead src a tag t0) s;
    ((s.toChip.upTo t0).hubReady src (a / 32 * 32) false = true) ∧ (s.channelTakes (a / 32 * 32) = 1) ∧
        (s.sourceOwner src = some o) ∧ (s.hub.capacity ≤ a / 32 * 32 ∨ (s.channel (s.hubChannel (a / 32 *
        32))).underTest = false) ∧ (s.cupolaCode o (a / 32 * 32) false false = c) ∧ (c ≠ 0) ∧ (t.hub.queue =
        s.hub.queue ++ [{ src := src, we := false, addr := a / 32 * 32, tag := tag, code := c, data := List.replicate 32 0#8 }])
        ∧ (c = 4 → t.reg 0x2700 6 = sat32 (s.reg 0x2700 6 + 1)) ∧ (t.hub.mem = s.hub.mem) ∧ (keptBut [.belfry, .hub,
        .cupola, .dict] s t = true)) ∧
    (let s : State := sealed 2;
    let src : Nat := 64;
    let a : Nat := 5;
    let tag : Nat := 3;
    let t0 : Nat := 9;
    let o : Nat := 1;
    let c : Nat := 4;
    let t : State := after (.bestEffortRead src a tag t0) s;
    ((s.toChip.upTo t0).hubReady src (a / 32 * 32) false = true) ∧ (s.channelTakes (a / 32 * 32) = 1) ∧
        (s.sourceOwner src = some o) ∧ (s.hub.capacity ≤ a / 32 * 32 ∨ (s.channel (s.hubChannel (a / 32 *
        32))).underTest = false) ∧ (s.cupolaCode o (a / 32 * 32) false false = c) ∧ (c ≠ 0) ∧ (t.hub.queue =
        s.hub.queue ++ [{ src := src, we := false, addr := a / 32 * 32, tag := tag, code := c, data := List.replicate 32 0#8 }])
        ∧ (c = 4 → t.reg 0x2700 6 = sat32 (s.reg 0x2700 6 + 1)) ∧ (t.hub.mem = s.hub.mem) ∧ (keptBut [.belfry, .hub,
        .cupola, .dict] s t = true)) ∧
    (let s : State := sealed 2;
    let q : Req := q1;
    let rr : Nat := 1;
    let v : Nat := 0x41;
    let w : Bool := true;
    let t : State := after (.rightsWrite q rr w v) s;
    (rr < 64) ∧ (WriteAllowed s q (0x2710 + rr) (if w then 7 else 6) v = true) ∧ (t.reply q.owner = .done) ∧ (∀ o, o
        < 40 → t.protRight rr o w = bit v o) ∧ (∀ o, o < 40 → t.protRight rr o (!w) = s.protRight rr o (!w)) ∧ ([(0,
        0), (0, 6), (2, 1), (63, 6)].all (fun z => t.protRight z.1 z.2 w == s.protRight z.1 z.2 w && t.protRight z.1
        z.2 (!w) == s.protRight z.1 z.2 (!w)) = true) ∧ (keptBut (.belfry :: answerAreas) s t = true)) ∧
    (let s : State := sealed 2;
    let q : Req := q1;
    let rr : Nat := 1;
    let v : Nat := 0x41;
    let w : Bool := false;
    let t : State := after (.rightsWrite q rr w v) s;
    (rr < 64) ∧ (WriteAllowed s q (0x2710 + rr) (if w then 7 else 6) v = true) ∧ (t.reply q.owner = .done) ∧ (∀ o, o
        < 40 → t.protRight rr o w = bit v o) ∧ (∀ o, o < 40 → t.protRight rr o (!w) = s.protRight rr o (!w)) ∧ ([(0,
        0), (0, 6), (2, 1), (63, 6)].all (fun z => t.protRight z.1 z.2 w == s.protRight z.1 z.2 w && t.protRight z.1
        z.2 (!w) == s.protRight z.1 z.2 (!w)) = true) ∧ (keptBut (.belfry :: answerAreas) s t = true)) ∧
    (let s : State := od { F0 with hub := Hb, dev := { F0.dev with dramOk := true }, cupola := { regions := [(1, { st := 2, owner := 1, keyGen := 1 })] } }
        [(0x271102, 2 ^ 24), (0x271103, 24), (0x271104, 2), (0x271105, 2 ^ 25), (0x271106, 0x7F), (0x271107, 0x7F)];
    let rr : Nat := 1;
    let level : Nat := 1;
    let a : Nat := 2 ^ 24;
    let t0 : Nat := 9;
    let t : State := after (.metadataLoad rr level a .verified t0) s;
    (loads_rightsAndMetadataTraffic s rr level a) ∧ (s.cupola.cache.length < s.cacheRoom) ∧ (t.cupola.cache =
        (s.metaAddr rr level a, false) :: (if s.cupola.cache.length < s.cacheRoom then s.cupola.cache else
        s.cupola.cache.dropLast)) ∧ (t.reg 0x2700 5 = sat32 (s.reg 0x2700 5 + 1)) ∧ (t.hub = s.hub) ∧ (keptBut
        (.belfry :: .cupola :: logAreas) s t = true)) ∧
    (let s : State := od { F0 with hub := Hb, dev := { F0.dev with dramOk := true }, cupola := { regions := [(1, { st := 2, owner := 1, keyGen := 1 })] } }
        [(0x271102, 2 ^ 24), (0x271103, 24), (0x271104, 2), (0x271105, 2 ^ 25), (0x271106, 0x7F), (0x271107, 0x7F)];
    let rr : Nat := 1;
    let level : Nat := 0;
    let a : Nat := 2 ^ 24 + 777;
    let t0 : Nat := 9;
    let t : State := after (.metadataLoad rr level a .uncorrectable t0) s;
    (loads_rightsAndMetadataTraffic s rr level a) ∧ (s.freePoison.isSome = true) ∧ (t.cupola.poison = [(0, (rr,
        level, s.protBase rr + (a - s.protBase rr) / coverOf level * coverOf level))]) ∧ ((t.prot rr).failCode = 3)
        ∧ ((t.prot rr).failAddr = a) ∧ ((t.prot rr).st = (s.prot rr).st) ∧ (keptBut (.belfry :: .cupola :: logAreas)
        s t = true)) :=
  ⟨by decide +kernel, by decide +kernel, by decide +kernel, by decide +kernel, by decide +kernel, by decide +kernel⟩
theorem test_RightsAndMetadataTraffic_2 :
    (let s : State := od { F0 with hub := Hb, dev := { F0.dev with dramOk := true }, cupola := { regions := [(1, { st := 2, owner := 1, keyGen := 1 })] } }
        [(0x271102, 2 ^ 24), (0x271103, 24), (0x271104, 2), (0x271105, 2 ^ 25), (0x271106, 0x7F), (0x271107, 0x7F)];
    let rr : Nat := 1;
    let level : Nat := 1;
    let a : Nat := 2 ^ 24;
    let t0 : Nat := 9;
    let t : State := after (.metadataLoad rr level a .tagFailed t0) s;
    (loads_rightsAndMetadataTraffic s rr level a) ∧ (0 < level) ∧ (s.dev.st = .reduced ∨ s.dev.st = .full) ∧
        ((t.prot rr).st = 4) ∧ (t.dev.st = .safe) ∧ (t.dev.cause = evCode 4 9 rr 3)) ∧
    (let counts := fun (s : State) (rr a : Nat) => s.metaArea rr a ≠ .tags ∧ s.metaArea rr a ≠ .counterTags;
    let s : State := cupR (od { F0 with hub := Hb, dev := { F0.dev with dramOk := true }, cupola := { regions := [(1, { st := 2, owner := 1, keyGen := 1 })] } }
        [(0x271102, 2 ^ 24), (0x271103, 24), (0x271104, 2), (0x271105, 2 ^ 25), (0x271106, 0x7F), (0x271107, 0x7F)])
        (fun c => { c with cache := [((2 ^ 25 + 2 ^ 21), true)] });
    let rr : Nat := 1;
    let a : Nat := (2 ^ 25 + 2 ^ 21);
    let t0 : Nat := 9;
    let t : State := after (.metadataWriteBack a false t0) s;
    (dirty_rightsAndMetadataTraffic s rr a) ∧ (s.treeCounter a + 1 < 2 ^ 56) ∧ (s.cupola.cache.length + treeLevels
        (s.protExp rr) + 4 ≤ s.cacheRoom) ∧ ((a, true) ∉ t.cupola.cache) ∧ ((a, false) ∈ t.cupola.cache) ∧
        (t.treeCounter a = (if counts s rr a then s.treeCounter a + 1 else s.treeCounter a)) ∧ (keptBut [.belfry,
        .hub, .cupola, .dict] s t = true)) ∧
    (let s : State := cupR (od { F0 with hub := Hb, dev := { F0.dev with dramOk := true }, cupola := { regions := [(1, { st := 2, owner := 1, keyGen := 1 })] } }
        [(0x271102, 2 ^ 24), (0x271103, 24), (0x271104, 2), (0x271105, 2 ^ 25), (0x271106, 0x7F), (0x271107, 0x7F)])
        (fun c => { c with cache := [((2 ^ 25 + 2 ^ 21), true)] });
    let rr : Nat := 1;
    let a : Nat := (2 ^ 25 + 2 ^ 21);
    let t0 : Nat := 9;
    let t : State := after (.metadataWriteBack a true t0) s;
    (dirty_rightsAndMetadataTraffic s rr a) ∧ (s.freePoison.isSome = true) ∧ (∀ x ∈ t.cupola.cache, x.1 ≠ a) ∧
        (t.cupola.poison.map (fun x => x.2.1) = [rr]) ∧ (keptBut (.belfry :: .cupola :: logAreas) s t = true)) ∧
    (let s : State := cupR (sealed 2) (fun c => { c with reenc := [(1, 256, 5#64, 9#512)], minor := [(16384, 100), (16385, 3)] });
    let rr : Nat := 1;
    let page : Nat := 256;
    let m : BitVec 64 := 5#64;
    let old : BitVec 512 := 9#512;
    let t : State := after (.pageRewriteDone rr page) s;
    ((s.cupola.reenc.find? fun x => x.1 == rr && x.2.1 == page) = some (rr, page, m, old)) ∧ (t.cupola.reenc =
        s.cupola.reenc.erase (rr, page, m, old)) ∧ (∀ j, j < 64 → Tab.get 0 t.cupola.minor (page * 64 + j) = if
        m.getLsbD j then 1 else Tab.get 0 s.cupola.minor (page * 64 + j)) ∧ (keptBut [.cupola] s t = true)) :=
  ⟨by decide +kernel, by decide +kernel, by decide +kernel, by decide +kernel⟩

/-! ### Witnesses of chapter 11 -/

theorem test_PartitionsAreOwnedClaimedAndReset :
    (let s : State := S0b;
    let q : Req := q0;
    let p : Nat := 7;
    let v : Nat := 3;
    let t : State := after (.partitionOwnerWrite q p v) s;
    (p < 8) ∧ (WriteAllowed s q (0x2110 + p) 1 v = true) ∧ ((t.part p).owner = v) ∧ (t.reply q.owner = .done) ∧
        ((t.part p).claim = (s.part p).claim) ∧ (∀ j, j < 40 → j ≠ p → t.part j = s.part j) ∧ (keptBut (.belfry ::
        .parts :: .dbg :: logAreas) s t = true)) ∧
    (let s : State := S0b;
    let q : Req := q0;
    let p : Nat := 7;
    let m : BitVec 32 := 0xC0000000#32;
    let t : State := after (.partitionClaimWrite q p m) s;
    (p < 8) ∧ (WriteAllowed s q (0x2110 + p) 2 m.toNat = true) ∧ (s.claimedElsewhere p m = false) ∧ (m &&&
        s.test.excluded = 0#32) ∧ ((s.part p).regions &&& ~~~m = 0#32) ∧ ((t.part p).claim = m) ∧ (t.reply q.owner =
        .done) ∧ (∀ j, j < 40 → j ≠ p → t.part j = s.part j) ∧ (keptBut (.belfry :: .parts :: answerAreas) s t =
        true)) ∧
    (let s : State := F0;
    let q : Req := q0;
    let p : Nat := 7;
    let m : BitVec 32 := 0x80000002#32;
    let t : State := after (.partitionClaimWrite q p m) s;
    (p < 8) ∧ (WriteAllowed s q (0x2110 + p) 2 m.toNat = true) ∧ (s.claimedElsewhere p m = true) ∧ (t.reply q.owner
        = .abort 0x06090030) ∧ (keptBut (.belfry :: answerAreas) s t = true)) ∧
    (let s : State := rb F0 { P0 with status := .broken };
    let q : Req := q1;
    let n : Nat := 4;
    let p : Nat := 0;
    let f : Nat := 9;
    let t : State := after (.partitionReset q n p f) s;
    (CommandTaken s q 0x2E21 n [(3, p), (4, f)] = true) ∧ (s.serving = true) ∧ ((s.part p).committed = true) ∧
        ((s.part p).status ≠ .armed) ∧ ((s.part p).status ≠ .suspended) ∧ (∀ r ∈ s.partRegions p, (s.region
        r).fenced = false ∧ (s.region r).halted = false) ∧ ((s.part p).tables = false ∨ (s.served q).frameBegun p f
        = false) ∧ ((t.cmd (cmdKey 0x2E21)).busy = some q.owner ∧ t.status 0x2E21 q.owner = 1) ∧ (∀ r ∈
        s.partRegions p, (t.region r).inReset = true ∧ (t.region r).safeBlocks = 0#64) ∧ ((t.part p).resetAt = some
        (if (s.part p).tables = true then (if f = 0 then nextMultiple ((s.served q).now + 40000) (2 ^ (s.part p).k)
        else f * 2 ^ (s.part p).k) else (s.served q).now + 5)) ∧ ((t.part p).status = (s.part p).status) ∧ (t.mem =
        s.mem) ∧ (t.slices.im = s.slices.im) ∧ (t.slices.cm = s.slices.cm) ∧ (∀ r, r < 40 → r ∉ s.partRegions p →
        t.region r = s.region r) ∧ (∀ j, j < 40 → j ≠ p → t.part j = s.part j)) ∧
    (let s : State := rb F0 { P0 with status := .none, tables := false };
    let q : Req := q1;
    let n : Nat := 4;
    let p : Nat := 0;
    let f : Nat := 0;
    let t : State := after (.partitionReset q n p f) s;
    (CommandTaken s q 0x2E21 n [(3, p), (4, f)] = true) ∧ (s.serving = true) ∧ ((s.part p).committed = true) ∧
        ((s.part p).status ≠ .armed) ∧ ((s.part p).status ≠ .suspended) ∧ (∀ r ∈ s.partRegions p, (s.region
        r).fenced = false ∧ (s.region r).halted = false) ∧ ((s.part p).tables = false ∨ (s.served q).frameBegun p f
        = false) ∧ ((t.cmd (cmdKey 0x2E21)).busy = some q.owner ∧ t.status 0x2E21 q.owner = 1) ∧ (∀ r ∈
        s.partRegions p, (t.region r).inReset = true ∧ (t.region r).safeBlocks = 0#64) ∧ ((t.part p).resetAt = some
        (if (s.part p).tables = true then (if f = 0 then nextMultiple ((s.served q).now + 40000) (2 ^ (s.part p).k)
        else f * 2 ^ (s.part p).k) else (s.served q).now + 5)) ∧ ((t.part p).status = (s.part p).status) ∧ (t.mem =
        s.mem) ∧ (t.slices.im = s.slices.im) ∧ (t.slices.cm = s.slices.cm) ∧ (∀ r, r < 40 → r ∉ s.partRegions p →
        t.region r = s.region r) ∧ (∀ j, j < 40 → j ≠ p → t.part j = s.part j)) ∧
    (let s : State := reg_ (cm (rb F0 { P0 with status := .broken, resetAt := some 50, resetCmd := true }) 0x2E21 { busy := some 1 })
        0 { run 0 with fenced := true, inReset := true };
    let p : Nat := 0;
    let due : Nat := 50;
    let o : Nat := 1;
    let t : State := after (.partitionResetRelease p) s;
    ((s.part p).resetAt = some due) ∧ ((s.part p).resetCmd = true) ∧ ((s.cmd 0x2E21).busy = some o) ∧
        (s.inject.armed = []) ∧ ((t.part p).resetAt = none) ∧ (t.status 0x2E21 o = 0) ∧ ((t.cmd 0x2E21).busy = none)
        ∧ (∀ r ∈ s.partRegions p, (t.region r).fenced = (s.region r).fenced ∧ ((s.region r).fenced = false →
        (s.region r).halted = false → let u := (s.toChip.upTo due).upTo (if (s.part p).tables then due else
        (s.toChip.upTo due).secondEdge r due); (t.region r).inReset = false ∧ (t.region r).released = u.isle r ∧
        (t.region r).divStart = u.isle r) ∧ ((s.region r).halted = true → t.region r = { s.region r with relDue := true })
        ∧ ((s.region r).fenced = true → (s.region r).halted = false → t.region r = s.region r)) ∧ (∀ r, r < 40 → r ∉
        s.partRegions p → t.region r = s.region r)) :=
  ⟨by decide +kernel, by decide +kernel, by decide +kernel, by decide +kernel, by decide +kernel, by decide +kernel⟩
abbrev idle_portResetsLinksAndDoorbells := fun (s : State) (h : Nat) => s.loader.load = none ∧ s.loader.next = []
abbrev fresh_portResetsLinksAndDoorbells := fun (s t : State) (h : Nat) => (t.port h).dma = [] ∧ (t.port h).windowBase
    = 0 ∧ (t.port h).mbox = {} ∧ (t.port h).evEnable = 0#32 ∧ (t.port h).msix = [] ∧ (t.hub.queue = s.hub.queue.map
    fun q => if q.src = 64 + h then { q with drop := true } else q) ∧ t.dev.st = s.dev.st ∧ (∀ j, j < 40 → j ≠ h →
    (t.port j).dma = (s.port j).dma ∧ (t.port j).mbox = (s.port j).mbox)
theorem test_PortResetsLinksAndDoorbells_1 :
    (let s : State := { po S0b 3 { dma := [(15, { base := 5, size := 5, enable := true })], windowBase := 2 ^ 20, evEnable := 3#32, events := 7#32, msix := [(0, 5#32)], link := 2, mbox := { inService := true, doorbell := 5#32 } } with hub := { Hb with queue := [{ src := 67, we := false, addr := 64, tag := 5, code := 0, data := wd }, { src := 66, we := false, addr := 64, tag := 5, code := 0, data := wd }] } };
    let h : Nat := 3;
    let t : State := after (.fundamentalReset h) s;
    (h < 4) ∧ (idle_portResetsLinksAndDoorbells s h) ∧ (fresh_portResetsLinksAndDoorbells s t h) ∧ ((t.port h).link
        = (s.port h).link) ∧ ((t.port h).events = 0#32) ∧ (keptBut [.ports, .hub, .loader] s t = true)) ∧
    (let i : Nat → Instr := Instr.hotReset;
    let s : State := { po S0b 3 { dma := [(15, { base := 5, size := 5, enable := true })], windowBase := 2 ^ 20, evEnable := 3#32, events := 7#32, msix := [(0, 5#32)], link := 2, mbox := { inService := true, doorbell := 5#32 } } with hub := { Hb with queue := [{ src := 67, we := false, addr := 64, tag := 5, code := 0, data := wd }, { src := 66, we := false, addr := 64, tag := 5, code := 0, data := wd }] } };
    let h : Nat := 3;
    let t : State := after (i h) s;
    (h < 4) ∧ (idle_portResetsLinksAndDoorbells s h) ∧ (fresh_portResetsLinksAndDoorbells s t h) ∧ ((t.port h).link
        = (s.port h).link) ∧ (keptBut (.hub :: .loader :: logAreas) s t = true)) ∧
    (let i : Nat → Instr := Instr.functionLevelReset;
    let s : State := { po S0b 3 { dma := [(15, { base := 5, size := 5, enable := true })], windowBase := 2 ^ 20, evEnable := 3#32, events := 7#32, msix := [(0, 5#32)], link := 2, mbox := { inService := true, doorbell := 5#32 } } with hub := { Hb with queue := [{ src := 67, we := false, addr := 64, tag := 5, code := 0, data := wd }, { src := 66, we := false, addr := 64, tag := 5, code := 0, data := wd }] } };
    let h : Nat := 3;
    let t : State := after (i h) s;
    (h < 4) ∧ (idle_portResetsLinksAndDoorbells s h) ∧ (fresh_portResetsLinksAndDoorbells s t h) ∧ ((t.port h).link
        = (s.port h).link) ∧ (keptBut (.hub :: .loader :: logAreas) s t = true)) ∧
    (let s : State := { po S0b 3 { dma := [(15, { base := 5, size := 5, enable := true })], windowBase := 2 ^ 20, evEnable := 3#32, events := 7#32, msix := [(0, 5#32)], link := 1, mbox := { inService := true, doorbell := 5#32 } } with hub := { Hb with queue := [{ src := 67, we := false, addr := 64, tag := 5, code := 0, data := wd }, { src := 66, we := false, addr := 64, tag := 5, code := 0, data := wd }] } };
    let h : Nat := 3;
    let t : State := after (.pcieLinkDown h) s;
    (h < 4) ∧ (idle_portResetsLinksAndDoorbells s h) ∧ ((s.port h).link ≠ 0) ∧ (fresh_portResetsLinksAndDoorbells s
        t h) ∧ ((t.port h).link = 0) ∧ (t.reg (0x2800 + h) 0x0B = sat32 (s.reg (0x2800 + h) 0x0B + 1)) ∧ (keptBut
        (.hub :: .loader :: logAreas) s t = true)) ∧
    (let s : State := { po S0b 3 { dma := [(15, { base := 5, size := 5, enable := true })], windowBase := 2 ^ 20, evEnable := 3#32, events := 7#32, msix := [(0, 5#32)], link := 1, mbox := { inService := true, doorbell := 5#32 } } with hub := { Hb with queue := [{ src := 67, we := false, addr := 64, tag := 5, code := 0, data := wd }, { src := 66, we := false, addr := 64, tag := 5, code := 0, data := wd }] } };
    let h : Nat := 3;
    let v : Nat := 5;
    let w : Nat := 8;
    let t : State := after (.pcieLinkUp h v w) s;
    (h < 4) ∧ ((s.port h).link ≠ 2) ∧ (s.hostOn = true) ∧ (1 ≤ v) ∧ (v ≤ 5) ∧ (w ∈ [1, 2, 4, 8]) ∧ ((t.port h).link
        = 2) ∧ ((t.port h).speed = v) ∧ ((t.port h).width = w) ∧ ((t.port h).dma = (s.port h).dma) ∧ (keptBut
        logAreas s t = true)) ∧
    (let s : State := { po S0b 3 { dma := [(15, { base := 5, size := 5, enable := true })], windowBase := 2 ^ 20, evEnable := 3#32, events := 7#32, msix := [(0, 5#32)], link := 1, mbox := { inService := true, doorbell := 5#32 } } with hub := { Hb with queue := [{ src := 67, we := false, addr := 64, tag := 5, code := 0, data := wd }, { src := 66, we := false, addr := 64, tag := 5, code := 0, data := wd }] } };
    let h : Nat := 3;
    let m : BitVec 32 := 5#32;
    let t : State := after (.portEventClear h m) s;
    (s.hostOn = true) ∧ ((t.port h).events = (s.port h).events &&& ~~~m) ∧ ((t.port h).mbox = (s.port h).mbox) ∧ (∀
        j, j < 40 → j ≠ h → t.port j = s.port j) ∧ (keptBut [.ports] s t = true)) :=
  ⟨by decide +kernel, by decide +kernel, by decide +kernel, by decide +kernel, by decide +kernel, by decide +kernel⟩
theorem test_PortResetsLinksAndDoorbells_2 :
    (let s : State := { po S0b 3 { dma := [(15, { base := 5, size := 5, enable := true })], windowBase := 2 ^ 20, evEnable := 3#32, events := 7#32, msix := [(0, 5#32)], link := 1, mbox := { inService := true, doorbell := 5#32 } } with hub := { Hb with queue := [{ src := 67, we := false, addr := 64, tag := 5, code := 0, data := wd }, { src := 66, we := false, addr := 64, tag := 5, code := 0, data := wd }] } };
    let h : Nat := 3;
    let t0 : Nat := 9;
    let v : BitVec 32 := 6#32;
    let t : State := after (.mailboxDoorbell h v t0) s;
    (s.dictAlive = true) ∧ (s.hostOn = true) ∧ (∀ j, j < 40 → j ≠ h → t.port j = s.port j) ∧ (keptBut [.belfry,
        .ports] s t = true) ∧ (if (s.port h).mbox.inService then (t.port h).mbox.ignored = sat32 ((s.port
        h).mbox.ignored + 1) ∧ (t.port h).mbox.doorbell = (s.port h).mbox.doorbell else if v = (s.port
        h).mbox.doorbell then t.port h = s.port h else (t.port h).mbox.doorbell = v ∧ (if (s.port
        h).mbox.headerError = 0 then (t.port h).mbox.inService = true ∧ (t.port h).mbox.respSeq = (s.port
        h).mbox.respSeq else (t.port h).mbox.inService = false ∧ (t.port h).mbox.respSeq = v))) ∧
    (let s : State := po S0b 3 { mbox := { doorbell := 5#32 } };
    let h : Nat := 3;
    let t0 : Nat := 9;
    let v : BitVec 32 := 6#32;
    let t : State := after (.mailboxDoorbell h v t0) s;
    (s.dictAlive = true) ∧ (s.hostOn = true) ∧ (∀ j, j < 40 → j ≠ h → t.port j = s.port j) ∧ (keptBut [.belfry,
        .ports] s t = true) ∧ (if (s.port h).mbox.inService then (t.port h).mbox.ignored = sat32 ((s.port
        h).mbox.ignored + 1) ∧ (t.port h).mbox.doorbell = (s.port h).mbox.doorbell else if v = (s.port
        h).mbox.doorbell then t.port h = s.port h else (t.port h).mbox.doorbell = v ∧ (if (s.port
        h).mbox.headerError = 0 then (t.port h).mbox.inService = true ∧ (t.port h).mbox.respSeq = (s.port
        h).mbox.respSeq else (t.port h).mbox.inService = false ∧ (t.port h).mbox.respSeq = v))) :=
  ⟨by decide +kernel, by decide +kernel⟩
abbrev only_dmaAndBar2MoveBytes := fun (s t : State) (h c : Nat) => keptBut [.ports] s t = true ∧ (∀ j, j < 40 → j ≠ h
    → t.port j = s.port j) ∧ (∀ k, k < 40 → k ≠ c → t.dma h k = s.dma h k)
abbrev reach_dmaAndBar2MoveBytes := fun (s : State) (h a n : Nat) (w : Bool) => s.inject.armed = [] ∧ s.hubServes =
    true ∧ s.dev.dramOk = true ∧ s.closedChannel a = false ∧ ((List.range (a + n - a / 64 * 64)).all fun i =>
    s.cupolaCode (h + 1) (a / 64 * 64 + i) w w == 0 && !(s.channel (s.hubChannel (a / 64 * 64 + i))).underTest &&
    !(s.hub.badLines.contains ((a / 64 * 64 + i) / 64)) && s.protAt (a / 64 * 64 + i) == s.protAt ((a / 64 * 64 + i) /
    64 * 64)) = true
abbrev plain_dmaAndBar2MoveBytes := fun (s : State) (a n : Nat) => ((List.range (a + n - a / 64 * 64)).all fun i => match s.protAt (a / 64 * 64 + i) with | some rr => decide (s.protMode rr < 2) | none => true) = true
abbrev runs_dmaAndBar2MoveBytes := fun (s : State) => s.hostOn = true ∧ s.dev.st ≠ .safe
abbrev stored_dmaAndBar2MoveBytes := fun (s t : State) (a n : Nat) (d : Bytes) => (∀ i, i < n → t.dramByte (a + i) =
    d.getD i 0#8) ∧ t.dramByte (a - 1) = s.dramByte (a - 1) ∧ t.dramByte (a + n) = s.dramByte (a + n)
theorem test_DmaAndBar2MoveBytes_1 :
    (let s : State := dm (po S0b 3 (dma1 { st := 2 })) fun d => { d with clocks := [(34, .lost)] };
    let h : Nat := 3;
    let c : Nat := 15;
    let v : Nat := 1;
    let w : BitVec 32 := 5#32;
    let o : Nat := 64;
    let n : Nat := 4;
    let d : Bytes := [];
    let e : Bytes := [];
    let i : Instr := Instr.dmaEnable h c v;
    let t : State := after i s;
    (s.hostOn = false) ∧ (i ∈ [Instr.dmaEnable h c v, .dmaDisable h c, .dmaResume h c, .dmaDoorbell h c w,
        .dmaDescriptorStart h c d e, .dmaDescriptorFinish h c, .bar2Read h o n, .bar2Write h o d]) ∧ (t = s)) ∧
    (let s : State := dm (po S0b 3 (dma1 { st := 2 })) fun d => { d with clocks := [(34, .lost)] };
    let h : Nat := 3;
    let c : Nat := 15;
    let v : Nat := 1;
    let w : BitVec 32 := 5#32;
    let o : Nat := 64;
    let n : Nat := 4;
    let d : Bytes := [];
    let e : Bytes := [];
    let i : Instr := Instr.bar2Write h o d;
    let t : State := after i s;
    (s.hostOn = false) ∧ (i ∈ [Instr.dmaEnable h c v, .dmaDisable h c, .dmaResume h c, .dmaDoorbell h c w,
        .dmaDescriptorStart h c d e, .dmaDescriptorFinish h c, .bar2Read h o n, .bar2Write h o d]) ∧ (t = s)) ∧
    (let s : State := po S0b 3 (dma1 { size := 4 });
    let h : Nat := 3;
    let c : Nat := 15;
    let v : Nat := 31;
    let t : State := after (.dmaEnable h c v) s;
    (s.hostOn = true) ∧ ((s.dma h c).enable = false) ∧ (only_dmaAndBar2MoveBytes s t h c) ∧ ((t.dma h c).enable =
        true) ∧ ((t.dma h c).p = 0#32) ∧ ((t.dma h c).c = 0#32) ∧ ((t.dma h c).vector = some v) ∧ ((t.dma h c).st =
        (if 4 ≤ (s.dma h c).size % 32 ∧ (s.dma h c).size % 32 ≤ 16 then 1 else 5))) ∧
    (let s : State := po S0b 3 (dma1 { size := 17 });
    let h : Nat := 3;
    let c : Nat := 15;
    let v : Nat := 31;
    let t : State := after (.dmaEnable h c v) s;
    (s.hostOn = true) ∧ ((s.dma h c).enable = false) ∧ (only_dmaAndBar2MoveBytes s t h c) ∧ ((t.dma h c).enable =
        true) ∧ ((t.dma h c).p = 0#32) ∧ ((t.dma h c).c = 0#32) ∧ ((t.dma h c).vector = some v) ∧ ((t.dma h c).st =
        (if 4 ≤ (s.dma h c).size % 32 ∧ (s.dma h c).size % 32 ≤ 16 then 1 else 5))) ∧
    (let s : State := po S0b 3 (dma1 { st := 2, enable := true });
    let h : Nat := 3;
    let c : Nat := 15;
    let t : State := after (.dmaDisable h c) s;
    (s.hostOn = true) ∧ (only_dmaAndBar2MoveBytes s t h c) ∧ ((t.dma h c).enable = false) ∧ ((t.dma h c).cur =
        (s.dma h c).cur) ∧ ((t.dma h c).st = if (s.dma h c).cur.isSome then (s.dma h c).st else 0)) ∧
    (let s : State := po S0b 3 (dma1 { st := 2, enable := true, cur := some (true, 0, 5) });
    let h : Nat := 3;
    let c : Nat := 15;
    let t : State := after (.dmaDisable h c) s;
    (s.hostOn = true) ∧ (only_dmaAndBar2MoveBytes s t h c) ∧ ((t.dma h c).enable = false) ∧ ((t.dma h c).cur =
        (s.dma h c).cur) ∧ ((t.dma h c).st = if (s.dma h c).cur.isSome then (s.dma h c).st else 0)) :=
  ⟨by decide +kernel, by decide +kernel, by decide +kernel, by decide +kernel, by decide +kernel, by decide +kernel⟩
theorem test_DmaAndBar2MoveBytes_2 :
    (let s : State := po S0b 3 (dma1 { st := 3, enable := true, p := 7#32 });
    let h : Nat := 3;
    let c : Nat := 15;
    let t : State := after (.dmaResume h c) s;
    (s.hostOn = true) ∧ ((s.dma h c).st = 3 ∨ (s.dma h c).st = 4 ∧ s.dev.st ≠ .safe) ∧ ((s.dma h c).enable = true) ∧
        (only_dmaAndBar2MoveBytes s t h c) ∧ (t.dma h c = { s.dma h c with st := if (s.dma h c).p = (s.dma h c).c then 1 else 2 })) ∧
    (let s : State := po S0b 3 (dma1 { st := 4, enable := true, p := 7#32 });
    let h : Nat := 3;
    let c : Nat := 15;
    let t : State := after (.dmaResume h c) s;
    (s.hostOn = true) ∧ ((s.dma h c).st = 3 ∨ (s.dma h c).st = 4 ∧ s.dev.st ≠ .safe) ∧ ((s.dma h c).enable = true) ∧
        (only_dmaAndBar2MoveBytes s t h c) ∧ (t.dma h c = { s.dma h c with st := if (s.dma h c).p = (s.dma h c).c then 1 else 2 })) ∧
    (let s : State := po S0b 3 (dma1 { st := 2, size := 4, enable := true, c := 0xFFFFFFFE#32, p := 3#32 });
    let h : Nat := 3;
    let c : Nat := 15;
    let v : BitVec 32 := 14#32;
    let t : State := after (.dmaDoorbell h c v) s;
    (h < 4) ∧ (c < 16) ∧ (s.hostOn = true) ∧ ((s.dma h c).enable = true) ∧ (s.isArmed 0x2DA0 3 (h * 16 + c) = false)
        ∧ (keptBut logAreas s t = true) ∧ ((t.dma h c).c = (s.dma h c).c) ∧ (if 2 ^ ((s.dma h c).size % 32) < (v -
        (s.dma h c).c).toNat then (t.dma h c).st = 3 ∧ (t.dma h c).p = (s.dma h c).p else if ((s.dma h c).p - (s.dma
        h c).c).toNat ≤ (v - (s.dma h c).c).toNat then (t.dma h c).p = v else t.dma h c = s.dma h c ∧ t.reg (0x2800
        + h) 9 = sat32 (s.reg (0x2800 + h) 9 + 1))) ∧
    (let s : State := po S0b 3 (dma1 { st := 2, size := 4, enable := true, c := 0xFFFFFFFE#32, p := 3#32 });
    let h : Nat := 3;
    let c : Nat := 15;
    let v : BitVec 32 := 2#32;
    let t : State := after (.dmaDoorbell h c v) s;
    (h < 4) ∧ (c < 16) ∧ (s.hostOn = true) ∧ ((s.dma h c).enable = true) ∧ (s.isArmed 0x2DA0 3 (h * 16 + c) = false)
        ∧ (keptBut logAreas s t = true) ∧ ((t.dma h c).c = (s.dma h c).c) ∧ (if 2 ^ ((s.dma h c).size % 32) < (v -
        (s.dma h c).c).toNat then (t.dma h c).st = 3 ∧ (t.dma h c).p = (s.dma h c).p else if ((s.dma h c).p - (s.dma
        h c).c).toNat ≤ (v - (s.dma h c).c).toNat then (t.dma h c).p = v else t.dma h c = s.dma h c ∧ t.reg (0x2800
        + h) 9 = sat32 (s.reg (0x2800 + h) 9 + 1))) ∧
    (let s : State := { (hubOf (cup F0 1 Hb) (fun h => { h with mem := [(64, 7#8), (65, 8#8), (127, 9#8)] })) with ports := [(3, dma1 { st := 2, enable := true, size := 4, p := 3#32 })] };
    let h : Nat := 3;
    let c : Nat := 15;
    let desc : Bytes := desc 64 3 2;
    let data : Bytes := [1#8, 2#8, 3#8];
    let t : State := after (.dmaDescriptorStart h c desc data) s;
    (runs_dmaAndBar2MoveBytes s) ∧ ((s.dma h c).st = 2) ∧ ((s.dma h c).cur = none) ∧ (descOk desc = true) ∧ (bit
        (descFlags desc) 0 = false) ∧ (descLen desc ≤ data.length) ∧ (reach_dmaAndBar2MoveBytes s h (descHub desc)
        (descLen desc) true) ∧ ((t.dma h c).cur = some (bit (descFlags desc) 1, 0, descLen desc)) ∧
        (plain_dmaAndBar2MoveBytes s (descHub desc) (descLen desc) → stored_dmaAndBar2MoveBytes s t (descHub desc)
        (descLen desc) data) ∧ ((t.dma h c).c = (s.dma h c).c)) ∧
    (let s : State := { (hubOf (cup F0 1 Hb) (fun h => { h with mem := [(64, 7#8), (65, 8#8), (127, 9#8)] })) with ports := [(3, dma1 { st := 2, enable := true, size := 4, p := 3#32 })] };
    let h : Nat := 3;
    let c : Nat := 15;
    let desc : Bytes := desc 64 3 1;
    let data : Bytes := [];
    let t : State := after (.dmaDescriptorStart h c desc data) s;
    (runs_dmaAndBar2MoveBytes s) ∧ ((s.dma h c).st = 2) ∧ ((s.dma h c).cur = none) ∧ (descOk desc = true) ∧ (bit
        (descFlags desc) 0 = true) ∧ (reach_dmaAndBar2MoveBytes s h (descHub desc) (descLen desc) false) ∧ ((t.dma h
        c).cur = some (bit (descFlags desc) 1, 0, descLen desc)) ∧ ((t.dma h c).out.length = descLen desc) ∧
        (plain_dmaAndBar2MoveBytes s (descHub desc) (descLen desc) → t.hub = s.hub ∧ (t.dma h c).out = s.dramBytes
        (descHub desc) (descLen desc))) :=
  ⟨by decide +kernel, by decide +kernel, by decide +kernel, by decide +kernel, by decide +kernel, by decide +kernel⟩
theorem test_DmaAndBar2MoveBytes_3 :
    (let s : State := { (hubOf (cup F0 2 Hb) (fun h => { h with mem := [(64, 7#8), (65, 8#8), (127, 9#8)] })) with ports := [(3, dma1 { st := 2, enable := true, size := 4, p := 3#32 })] };
    let h : Nat := 3;
    let c : Nat := 15;
    let desc : Bytes := desc 64 3 1;
    let data : Bytes := [];
    let t : State := after (.dmaDescriptorStart h c desc data) s;
    (runs_dmaAndBar2MoveBytes s) ∧ ((s.dma h c).st = 2) ∧ ((s.dma h c).cur = none) ∧ (descOk desc = true) ∧ (bit
        (descFlags desc) 0 = true) ∧ (reach_dmaAndBar2MoveBytes s h (descHub desc) (descLen desc) false) ∧ ((t.dma h
        c).cur = some (bit (descFlags desc) 1, 0, descLen desc)) ∧ ((t.dma h c).out.length = descLen desc) ∧
        (plain_dmaAndBar2MoveBytes s (descHub desc) (descLen desc) → t.hub = s.hub ∧ (t.dma h c).out = s.dramBytes
        (descHub desc) (descLen desc))) ∧
    (let s : State := po S0b 3 (dma1 { st := 2, size := 4, enable := true, c := 0xFFFFFFFF#32, p := 0#32, cur := some (true, 0, 5) });
    let h : Nat := 3;
    let c : Nat := 15;
    let n : Nat := 5;
    let i : Bool := true;
    let t : State := after (.dmaDescriptorFinish h c) s;
    (s.hostOn = true) ∧ ((s.dma h c).cur = some (i, 0, n)) ∧ ((s.dma h c).enable = true) ∧ (keptBut [.ports] s t =
        true) ∧ ((t.dma h c).cur = none) ∧ ((t.dma h c).c = (s.dma h c).c + 1#32) ∧ ((t.dma h c).back = some
        (0x80000000#32, n)) ∧ ((t.dma h c).st = (if (s.dma h c).p = (s.dma h c).c + 1#32 then 1 else 2)) ∧ (i =
        false → (t.port h).sent = (s.port h).sent ∧ (t.port h).pba = (s.port h).pba) ∧ (∀ j, j < 40 → j ≠ h → t.port
        j = s.port j)) ∧
    (let s : State := po S0b 3 (dma1 { st := 2, size := 4, enable := true, c := 0xFFFFFFFF#32, p := 3#32, cur := some (false, 0, 5) });
    let h : Nat := 3;
    let c : Nat := 15;
    let n : Nat := 5;
    let i : Bool := false;
    let t : State := after (.dmaDescriptorFinish h c) s;
    (s.hostOn = true) ∧ ((s.dma h c).cur = some (i, 0, n)) ∧ ((s.dma h c).enable = true) ∧ (keptBut [.ports] s t =
        true) ∧ ((t.dma h c).cur = none) ∧ ((t.dma h c).c = (s.dma h c).c + 1#32) ∧ ((t.dma h c).back = some
        (0x80000000#32, n)) ∧ ((t.dma h c).st = (if (s.dma h c).p = (s.dma h c).c + 1#32 then 1 else 2)) ∧ (i =
        false → (t.port h).sent = (s.port h).sent ∧ (t.port h).pba = (s.port h).pba) ∧ (∀ j, j < 40 → j ≠ h → t.port
        j = s.port j)) ∧
    (let s : State := po S0b 3 (dma1 { st := 2, size := 4, enable := true, p := 3#32, cur := some (true, 4, 5) });
    let h : Nat := 3;
    let c : Nat := 15;
    let n : Nat := 5;
    let e : Nat := 4;
    let i : Bool := true;
    let t : State := after (.dmaDescriptorFinish h c) s;
    (h < 4) ∧ (s.hostOn = true) ∧ (e ≠ 0) ∧ ((s.dma h c).cur = some (i, e, n)) ∧ ((t.dma h c).st = 3) ∧ ((t.dma h
        c).err = e) ∧ ((t.dma h c).c = (s.dma h c).c + 1#32) ∧ (t.reg (0x2800 + h) 0x0A = sat32 (s.reg (0x2800 + h)
        0x0A + 1)) ∧ (keptBut logAreas s t = true)) ∧
    (let s : State := { (hubOf (cup F0 1 Hb) (fun h => { h with mem := [(64, 7#8), (65, 8#8), (127, 9#8)] })) with ports := [(3, dma1 {  })] };
    let h : Nat := 3;
    let o : Nat := 64;
    let n : Nat := 4;
    let t : State := after (.bar2Read h o n) s;
    (s.hostOn = true) ∧ (s.inBar2 h o n = true) ∧ (reach_dmaAndBar2MoveBytes s h ((s.port h).windowBase + o) n
        false) ∧ ((t.port h).cpl = 0) ∧ ((t.port h).data.length = n) ∧ (plain_dmaAndBar2MoveBytes s ((s.port
        h).windowBase + o) n → t.hub = s.hub ∧ (t.port h).data = s.dramBytes ((s.port h).windowBase + o) n)) ∧
    (let s : State := { (hubOf (cup F0 1 Hb) (fun h => { h with mem := [(64, 7#8), (65, 8#8), (127, 9#8)] })) with ports := [(3, dma1 {  })] };
    let h : Nat := 3;
    let o : Nat := 126;
    let d : Bytes := [1#8, 2#8, 3#8, 4#8];
    let t : State := after (.bar2Write h o d) s;
    (s.hostOn = true) ∧ (s.inBar2 h o d.length = true) ∧ (reach_dmaAndBar2MoveBytes s h ((s.port h).windowBase + o)
        d.length true) ∧ (plain_dmaAndBar2MoveBytes s ((s.port h).windowBase + o) d.length) ∧
        (stored_dmaAndBar2MoveBytes s t ((s.port h).windowBase + o) d.length d)) :=
  ⟨by decide +kernel, by decide +kernel, by decide +kernel, by decide +kernel, by decide +kernel, by decide +kernel⟩
theorem test_DmaAndBar2MoveBytes_4 :
    (let s : State := { (hubOf (cup F0 2 Hb) (fun h => { h with mem := [(64, 7#8), (65, 8#8), (127, 9#8)] })) with ports := [(3, dma1 {  })] };
    let h : Nat := 3;
    let o : Nat := 126;
    let d : Bytes := [1#8, 2#8, 3#8, 4#8];
    let t : State := after (.bar2Write h o d) s;
    (s.hostOn = true) ∧ (s.inBar2 h o d.length = true) ∧ (reach_dmaAndBar2MoveBytes s h ((s.port h).windowBase + o)
        d.length true) ∧ (t.reg (0x2800 + h) 6 = s.reg (0x2800 + h) 6) ∧ ((t.port h).cpl = (s.port h).cpl) ∧
        ((t.port h).dma = (s.port h).dma)) ∧
    (let s : State := S0b;
    let h : Nat := 3;
    let o : Nat := 64;
    let n : Nat := 4;
    let t : State := after (.bar2Read h o n) s;
    (h < 4) ∧ (s.hostOn = true) ∧ (s.inBar2 h o n = true) ∧ (s.hubServes = true) ∧ (s.dev.dramOk = false) ∧ ((t.port
        h).cpl = 2) ∧ (t.reg (0x2800 + h) 7 = 7) ∧ (t.reg (0x2800 + h) 8 = (s.port h).windowBase + o) ∧ (t.reg
        (0x2800 + h) 6 = sat32 (s.reg (0x2800 + h) 6 + 1)) ∧ (keptBut [.ports, .dict] s t = true)) :=
  ⟨by decide +kernel, by decide +kernel⟩

/-! ### Witnesses of chapter 12 -/

theorem test_AlStatesAndLinks_1 :
    (let s : State := S0b;
    let n : Nat := 2;
    let st : Al := .preop;
    let t : State := after (.alStateRequest n) s;
    (s.ecatOn = true) ∧ (alOfCode n = some st) ∧ (st ≠ .init) ∧ (s.dev.st = .boot → s.dev.recovery = true) ∧
        (s.alRefusal st = none) ∧ (t.ecat.al = st) ∧ (t.ecat.code = 0) ∧ (keptBut logAreas s t = true)) ∧
    (let s : State := S0b;
    let n : Nat := 8;
    let c : Nat := 0x0011;
    let st : Al := .op;
    let t : State := after (.alStateRequest n) s;
    (s.ecatOn = true) ∧ (alOfCode n = some st) ∧ (st ≠ .init) ∧ (s.dev.st = .boot → s.dev.recovery = true) ∧
        (s.alRefusal st = some c) ∧ (t.ecat = { s.ecat with code := c }) ∧ (keptBut [.ecat] s t = true)) ∧
    (let s : State := S0b;
    let n : Nat := 5;
    let t : State := after (.alStateRequest n) s;
    (s.ecatOn = true) ∧ (alOfCode n = none) ∧ (t.ecat = { s.ecat with code := 0x0011 }) ∧ (keptBut [.ecat] s t =
        true)) ∧
    (let s : State := ec S0b { al := .op, foe := 1 };
    let t : State := after (.alStateRequest 1) s;
    (s.ecatOn = true) ∧ (t.ecat.al = .init) ∧ (t.ecat.code = 0) ∧ (t.ecat.foe = 0) ∧ (t.segmentOf 5 = none)) ∧
    (let s : State := st S0b .boot;
    let n : Nat := 2;
    let st : Al := .preop;
    let t : State := after (.alStateRequest n) s;
    (s.ecatOn = true) ∧ (alOfCode n = some st) ∧ (st ≠ .init) ∧ (s.dev.st = .boot) ∧ (s.dev.recovery = false) ∧
        (t.ecat = { s.ecat with held := some n }) ∧ (keptBut [.ecat] s t = true)) ∧
    (let s : State := ec S0b { al := .op, applied := [(1, 3#32)] };
    let t : State := after .smWatchdogExpiry s;
    (s.ecat.al = .op) ∧ (t.ecat.al = .safeop) ∧ (t.ecat.code = 0x001B) ∧ (t.reg 0x2010 8 = sat32 (s.reg 0x2010 8 +
        1)) ∧ (t.ecat.applied = s.ecat.applied) ∧ (keptBut logAreas s t = true)) :=
  ⟨by decide +kernel, by decide +kernel, by decide +kernel, by decide +kernel, by decide +kernel, by decide +kernel⟩
theorem test_AlStatesAndLinks_2 :
    (let s : State := S0b;
    let m : BitVec 8 := 7#8;
    let c0 : Nat := 12499;
    let st : Nat := 5;
    let c1 : Nat := 6;
    let t : State := after (.syncActivation m c0 st c1) s;
    (s.ecatOn = true) ∧ (t.ecat.syncActive = (m.getLsbD 0 && m.getLsbD 1 && decide (12500 ≤ c0))) ∧ (t.ecat.cycle0 =
        c0) ∧ (t.ecat.start0 = st) ∧ (t.ecat.cycle1 = c1) ∧ (t.ecat.al = s.ecat.al) ∧ (keptBut [.ecat] s t = true)) ∧
    (let s : State := S0b;
    let m : BitVec 8 := 7#8;
    let c0 : Nat := 12500;
    let st : Nat := 5;
    let c1 : Nat := 6;
    let t : State := after (.syncActivation m c0 st c1) s;
    (s.ecatOn = true) ∧ (t.ecat.syncActive = (m.getLsbD 0 && m.getLsbD 1 && decide (12500 ≤ c0))) ∧ (t.ecat.cycle0 =
        c0) ∧ (t.ecat.start0 = st) ∧ (t.ecat.cycle1 = c1) ∧ (t.ecat.al = s.ecat.al) ∧ (keptBut [.ecat] s t = true)) ∧
    (let s : State := ec S0b { link := 3#2 };
    let p : Nat := 0;
    let t : State := after (.ecatLinkLost p) s;
    (p < 2) ∧ (s.ecatOn = true) ∧ (s.ecat.link.getLsbD p = true) ∧ (t.ecat.link.getLsbD p = false) ∧
        (t.ecat.link.getLsbD (1 - p) = s.ecat.link.getLsbD (1 - p)) ∧ (t.ecat.al = s.ecat.al) ∧ (keptBut logAreas s
        t = true)) ∧
    (let s : State := ec S0b { link := 3#2 };
    let p : Nat := 1;
    let t : State := after (.ecatLinkLost p) s;
    (p < 2) ∧ (s.ecatOn = true) ∧ (s.ecat.link.getLsbD p = true) ∧ (t.ecat.link.getLsbD p = false) ∧
        (t.ecat.link.getLsbD (1 - p) = s.ecat.link.getLsbD (1 - p)) ∧ (t.ecat.al = s.ecat.al) ∧ (keptBut logAreas s
        t = true)) ∧
    (let s : State := S0b;
    let p : Nat := 0;
    let t : State := after (.ecatLinkUp p) s;
    (p < 2) ∧ (s.ecatOn = true) ∧ (s.ecat.link.getLsbD p = false) ∧ (t.ecat.link.getLsbD p = true) ∧
        (t.ecat.link.getLsbD (1 - p) = s.ecat.link.getLsbD (1 - p)) ∧ (t.ecat.al = s.ecat.al) ∧ (keptBut logAreas s
        t = true)) ∧
    (let s : State := S0b;
    let p : Nat := 1;
    let t : State := after (.ecatLinkUp p) s;
    (p < 2) ∧ (s.ecatOn = true) ∧ (s.ecat.link.getLsbD p = false) ∧ (t.ecat.link.getLsbD p = true) ∧
        (t.ecat.link.getLsbD (1 - p) = s.ecat.link.getLsbD (1 - p)) ∧ (t.ecat.al = s.ecat.al) ∧ (keptBut logAreas s
        t = true)) :=
  ⟨by decide +kernel, by decide +kernel, by decide +kernel, by decide +kernel, by decide +kernel, by decide +kernel⟩
abbrev calm_processDataMovesAtItsEvents := fun (s : State) => s.ecat.al = .op ∧ s.isArmed 0x2DB0 3 0 = false
theorem test_ProcessDataMovesAtItsEvents_1 :
    (let s : State := od ({ fr 0 { run 0 with pdOut := 8#256, pdIn := 8#256 } with ecat := { al := .op, taken := [(3, 7#32)], applied := [(4, 1#32)], sm2 := [(5, 6#32)], cycle0 := 1000000 } })
        [(0x1C3201, 1)];
    let l : List (BitVec 32) := [1#32, 2#32];
    let t0 : Nat := 100;
    let t : State := after (.sm2BufferWrite l t0) s;
    (calm_processDataMovesAtItsEvents s) ∧ (s.reg 0x1C32 1 ≠ 2) ∧ (t.ecat.sm2 = s.sm2Words l) ∧ (t.ecat.taken =
        s.sm2Words l) ∧ (t.ecat.ev = t0) ∧ (t.ecat.misses = 0) ∧ (t.ecat.al = .op) ∧ (∀ p ∈ s.committedParts,
        Tab.get 0 t.ecat.applyDue p = s.applyEdge p t0) ∧ (keptBut [.belfry, .ecat, .dict] s t = true)) ∧
    (let s : State := od ({ fr 0 { run 0 with pdOut := 8#256, pdIn := 8#256 } with ecat := { al := .op, taken := [(3, 7#32)], applied := [(4, 1#32)], sm2 := [(5, 6#32)], cycle0 := 1000000 } })
        [(0x1C3201, 2)];
    let l : List (BitVec 32) := [1#32, 2#32];
    let t0 : Nat := 100;
    let t : State := after (.sm2BufferWrite l t0) s;
    (s.pdRuns = true) ∧ (s.reg 0x1C32 1 = 2) ∧ (t.ecat = { s.ecat with sm2 := s.sm2Words l, sm2New := true }) ∧
        (keptBut [.belfry, .ecat] s t = true)) ∧
    (let s : State := od ({ fr 0 { run 0 with pdOut := 8#256, pdIn := 8#256 } with ecat := { al := .op, taken := [(3, 7#32)], applied := [(4, 1#32)], sm2 := [(5, 6#32)], cycle0 := 1000000, syncActive := true, sm2New := true, misses := 1 } })
        [(0x1C3201, 2)];
    let t0 : Nat := 100;
    let t : State := after (.sync0Event t0) s;
    (calm_processDataMovesAtItsEvents s) ∧ (s.ecatOn = true) ∧ (s.ecat.syncActive = true) ∧ (s.reg 0x1C32 1 = 2) ∧
        (s.ecat.sm2New = true) ∧ (t.ecat.taken = s.ecat.sm2) ∧ (t.ecat.ev = t0) ∧ (t.ecat.sm2New = false) ∧
        (t.ecat.misses = 0) ∧ (t.reg 0x1C32 2 = s.ecat.cycle0) ∧ (∀ p ∈ s.committedParts, Tab.get 0 t.ecat.applyDue
        p = s.applyEdge p t0) ∧ (keptBut [.belfry, .ecat, .dict] s t = true)) ∧
    (let s : State := od ({ fr 0 { run 0 with pdOut := 8#256, pdIn := 8#256 } with ecat := { al := .op, taken := [(3, 7#32)], applied := [(4, 1#32)], sm2 := [(5, 6#32)], cycle0 := 1000000, syncActive := true, misses := 0 } })
        [(0x1C3201, 2)];
    let t0 : Nat := 100;
    let t : State := after (.sync0Event t0) s;
    (calm_processDataMovesAtItsEvents s) ∧ (s.ecatOn = true) ∧ (s.ecat.syncActive = true) ∧ (s.reg 0x1C32 1 = 2) ∧
        (s.ecat.sm2New = false) ∧ (t.ecat.misses = s.ecat.misses + 1) ∧ (t.ecat.taken = s.ecat.taken) ∧ (t.reg
        0x1C32 0x0B = min 0xFFFF (s.reg 0x1C32 0x0B + 1)) ∧ (if s.reg 0x10F1 2 ≤ s.ecat.misses + 1 then t.ecat.al =
        .safeop ∧ t.ecat.code = 0x001A else t.ecat.al = .op)) ∧
    (let s : State := od ({ fr 0 { run 0 with pdOut := 8#256, pdIn := 8#256 } with ecat := { al := .op, taken := [(3, 7#32)], applied := [(4, 1#32)], sm2 := [(5, 6#32)], cycle0 := 1000000, syncActive := true, misses := 60000 } })
        [(0x1C3201, 2)];
    let t0 : Nat := 100;
    let t : State := after (.sync0Event t0) s;
    (calm_processDataMovesAtItsEvents s) ∧ (s.ecatOn = true) ∧ (s.ecat.syncActive = true) ∧ (s.reg 0x1C32 1 = 2) ∧
        (s.ecat.sm2New = false) ∧ (t.ecat.misses = s.ecat.misses + 1) ∧ (t.ecat.taken = s.ecat.taken) ∧ (t.reg
        0x1C32 0x0B = min 0xFFFF (s.reg 0x1C32 0x0B + 1)) ∧ (if s.reg 0x10F1 2 ≤ s.ecat.misses + 1 then t.ecat.al =
        .safeop ∧ t.ecat.code = 0x001A else t.ecat.al = .op)) ∧
    (let s : State := { fr 0 { run 0 with pdOut := 8#256, pdIn := 8#256 } with ecat := { al := .op, taken := [(3, 7#32)], applied := [(4, 1#32)], sm2 := [(5, 6#32)], cycle0 := 1000000, applyDue := [(0, 2048)] } };
    let p : Nat := 0;
    let due : Nat := 2048;
    let t : State := after (.processOutputApply p) s;
    ((s.ecat.applyDue.find? fun (x : Nat × Nat) => x.1 == p) = some (p, due)) ∧ (s.ecat.al = .op) ∧ ((s.part
        p).pdFrozen = false) ∧ (s.dev.st ≠ .safe) ∧ (t.now = (s.toChip.upTo due).now) ∧ (Tab.get 0 t.ecat.pdNew p =
        due) ∧ (∀ w, w < 40 → Tab.get 0#32 t.ecat.applied w = if w ∈ s.outWords p then Tab.get 0#32 s.ecat.taken w
        else Tab.get 0#32 s.ecat.applied w) ∧ (keptBut [.belfry, .ecat] s t = true)) :=
  ⟨by decide +kernel, by decide +kernel, by decide +kernel, by decide +kernel, by decide +kernel, by decide +kernel⟩
theorem test_ProcessDataMovesAtItsEvents_2 :
    (let s : State := { { fr 0 { run 0 with pdOut := 8#256, pdIn := 8#256 } with ecat := { al := .op, taken := [(3, 7#32)], applied := [(4, 1#32)], sm2 := [(5, 6#32)], cycle0 := 1000000, applyDue := [(0, 2048)] } } with dev := { F0.dev with st := .safe } };
    let p : Nat := 0;
    let due : Nat := 2048;
    let t : State := after (.processOutputApply p) s;
    ((s.ecat.applyDue.find? fun (x : Nat × Nat) => x.1 == p) = some (p, due)) ∧ (s.ecat.al ≠ .op ∨ (s.part
        p).pdFrozen = true ∨ s.dev.st = .safe) ∧ (t.ecat.applied = s.ecat.applied) ∧ (keptBut [.belfry, .ecat] s t =
        true)) ∧
    (let s : State := { fr 0 { run 0 with pdOut := 8#256, pdIn := 8#256 } with ecat := { al := .op, taken := [(3, 7#32)], applied := [(4, 1#32)], sm2 := [(5, 6#32)], cycle0 := 1000000, latchDue := [(0, 2048)], inputs := [(3, 9#32)], inHist := [] } };
    let p : Nat := 0;
    let due : Nat := 2048;
    let t : State := after (.processInputLatch p) s;
    ((s.ecat.latchDue.find? fun (x : Nat × Nat) => x.1 == p) = some (p, due)) ∧ (s.pdRuns = true) ∧ ((s.part
        p).pdFrozen = false) ∧ (s.dev.st ≠ .safe) ∧ ((s.part p).committed = true) ∧ (Tab.get 0 t.ecat.pdLatch p =
        due) ∧ (∀ w, w < 40 → Tab.get 0#32 t.ecat.latched w = if w ∈ s.inWords p then (if (s.part p).tables then
        s.ecat.inputAt w (due / 2 ^ (s.part p).k) else Tab.get 0#32 s.ecat.inputs w) else Tab.get 0#32
        s.ecat.latched w) ∧ (keptBut [.belfry, .ecat] s t = true)) ∧
    (let s : State := { fr 0 { run 0 with pdOut := 8#256, pdIn := 8#256 } with ecat := { al := .op, taken := [(3, 7#32)], applied := [(4, 1#32)], sm2 := [(5, 6#32)], cycle0 := 1000000, latchDue := [(0, 2048)], inputs := [(3, 9#32)], inHist := [(3, (2, 8#32))] } };
    let p : Nat := 0;
    let due : Nat := 2048;
    let t : State := after (.processInputLatch p) s;
    ((s.ecat.latchDue.find? fun (x : Nat × Nat) => x.1 == p) = some (p, due)) ∧ (s.pdRuns = true) ∧ ((s.part
        p).pdFrozen = false) ∧ (s.dev.st ≠ .safe) ∧ ((s.part p).committed = true) ∧ (Tab.get 0 t.ecat.pdLatch p =
        due) ∧ (∀ w, w < 40 → Tab.get 0#32 t.ecat.latched w = if w ∈ s.inWords p then (if (s.part p).tables then
        s.ecat.inputAt w (due / 2 ^ (s.part p).k) else Tab.get 0#32 s.ecat.inputs w) else Tab.get 0#32
        s.ecat.latched w) ∧ (keptBut [.belfry, .ecat] s t = true)) ∧
    (let s : State := { fr 0 { run 0 with pdOut := 8#256, pdIn := 8#256 } with ecat := { al := .op, taken := [(3, 7#32)], applied := [(4, 1#32)], sm2 := [(5, 6#32)], cycle0 := 1000000, inputs := [(2, 9#32)] } };
    let r : Nat := 0;
    let w : Nat := 3;
    let p : Nat := 0;
    let t0 : Nat := 100;
    let v : BitVec 32 := 5#32;
    let t : State := after (.pdInputWrite r w v t0) s;
    (s.regionPart r = some p) ∧ (s.fabricRuns r = true) ∧ ((s.region r).pdIn.getLsbD w = true) ∧ (∀ j, j < 40 →
        Tab.get 0#32 t.ecat.inputs j = if j = w then v else Tab.get 0#32 s.ecat.inputs j) ∧ (t.ecat.latched =
        s.ecat.latched) ∧ (keptBut [.belfry, .ecat] s t = true)) ∧
    (let s : State := { fr 0 { run 0 with pdOut := 8#256, pdIn := 8#256 } with ecat := { al := .op, taken := [(3, 7#32)], applied := [(4, 1#32)], sm2 := [(5, 6#32)], cycle0 := 1000000, inputs := [(2, 9#32)] } };
    let r : Nat := 0;
    let w : Nat := 4;
    let p : Nat := 0;
    let t0 : Nat := 100;
    let v : BitVec 32 := 5#32;
    let t : State := after (.pdInputWrite r w v t0) s;
    (s.regionPart r = some p) ∧ ((s.region r).pdIn.getLsbD w = false) ∧ (keptBut [.belfry] s t = true)) ∧
    (let s : State := od ({ fr 0 { run 0 with pdOut := 8#256, pdIn := 8#256 } with ecat := { al := .op, taken := [(3, 7#32)], applied := [(4, 1#32)], sm2 := [(5, 6#32)], cycle0 := 1000000, latched := [(3, 9#32)] } })
        [(0x1C3201, 1)];
    let t0 : Nat := 100;
    let t : State := after (.sm3BufferRead t0) s;
    (s.pdRuns = true) ∧ (s.reg 0x1C32 1 ≠ 0 ∨ s.reg 0x1C12 0 ≠ 0) ∧ (t.ecat.sm3 = (s.toChip.upTo t0).sm3Words) ∧
        (keptBut [.belfry, .ecat] s t = true)) :=
  ⟨by decide +kernel, by decide +kernel, by decide +kernel, by decide +kernel, by decide +kernel, by decide +kernel⟩
abbrev open__fieldMailboxFoeAndSii := fun (s : State) (t0 : Nat) => (s.toChip.upTo t0).foeOn = true ∧ s.ecat.foe = 0 ∧
    s.ecat.al ≠ .bootstrap
theorem test_FieldMailboxFoeAndSii_1 :
    (let s : State := ec S0b { al := .preop, lastCounter := 3 };
    let c : Nat := 0;
    let d : Bytes := [1#8];
    let t : State := after (.mailboxWrite c d) s;
    (s.mailboxOn = true) ∧ (s.isArmed 0x2DB0 4 0 = false) ∧ (c = 0 ∨ c ≠ s.ecat.lastCounter) ∧ (t.ecat = { s.ecat with lastCounter := c, sm0 := d })
        ∧ (keptBut [.ecat] s t = true)) ∧
    (let s : State := ec S0b { al := .preop, lastCounter := 3 };
    let c : Nat := 4;
    let d : Bytes := [1#8];
    let t : State := after (.mailboxWrite c d) s;
    (s.mailboxOn = true) ∧ (s.isArmed 0x2DB0 4 0 = false) ∧ (c = 0 ∨ c ≠ s.ecat.lastCounter) ∧ (t.ecat = { s.ecat with lastCounter := c, sm0 := d })
        ∧ (keptBut [.ecat] s t = true)) ∧
    (let s : State := ec S0b { al := .preop, lastCounter := 3 };
    let d : Bytes := [1#8];
    let t : State := after (.mailboxWrite s.ecat.lastCounter d) s;
    (s.mailboxOn = true) ∧ (s.isArmed 0x2DB0 4 0 = false) ∧ (s.ecat.lastCounter ≠ 0) ∧ (t.reg 0x2010 6 = sat32
        (s.reg 0x2010 6 + 1)) ∧ (keptBut [.dict] s t = true)) ∧
    (let s : State := ec S0b { al := .preop, lastResp := some (3, [1#8]) };
    let m : Nat × Bytes := (3, [1#8]);
    let t : State := after .mailboxRepeatRequest s;
    (s.mailboxOn = true) ∧ (s.ecat.lastResp = some m) ∧ (t.ecat.sm1.head? = some m) ∧ (t.ecat.respCounter =
        s.ecat.respCounter) ∧ (keptBut [.ecat] s t = true)) ∧
    (let s : State := ec S0b { al := .preop, sm1 := [(1, [1#8]), (2, [2#8])], emergencies := [[7#8]] };
    let m : Nat × Bytes := (1, [1#8]);
    let x : Nat × Bytes := (2, [2#8]);
    let l : List (Nat × Bytes) := [];
    let t : State := after .sm1MailboxRead s;
    (s.mailboxOn = true) ∧ (s.ecat.sm1 = m :: x :: l) ∧ (t.ecat.sm1 = x :: l) ∧ (t.ecat.emergencies =
        s.ecat.emergencies) ∧ (keptBut [.ecat] s t = true)) ∧
    (let s : State := ec S0b { al := .preop, sm1 := [(1, [1#8])], emergencies := [[7#8]] };
    let m : Nat × Bytes := (1, [1#8]);
    let e : Bytes := [7#8];
    let l : List Bytes := [];
    let t : State := after .sm1MailboxRead s;
    (s.mailboxOn = true) ∧ (s.ecat.sm1 = [m]) ∧ (s.ecat.emergencies = e :: l) ∧ (t.ecat.sm1.map (·.2) = [e]) ∧
        (t.ecat.emergencies = l) ∧ (keptBut [.ecat] s t = true)) :=
  ⟨by decide +kernel, by decide +kernel, by decide +kernel, by decide +kernel, by decide +kernel, by decide +kernel⟩
theorem test_FieldMailboxFoeAndSii_2 :
    (let s : State := ec S0b { al := .preop, foe := 0 };
    let t0 : Nat := 9;
    let t : State := after (.foeWriteStream t0) s;
    (open__fieldMailboxFoeAndSii s t0) ∧ (s.hasStream 5 = true) ∧ (s.test.st ≠ 1) ∧ (s.loader.load = none) ∧
        (t.ecat.foe = 1) ∧ (t.ecat.foePacket = 1) ∧ (t.ecat.foeReply = 0) ∧ (t.loader.load.map (·.source) = some 5)
        ∧ (keptBut [.belfry, .ecat, .loader, .dict] s t = true)) ∧
    (let s : State := od (ec S0b { al := .preop, foe := 0 }) [(0x210006, 0)];
    let t0 : Nat := 9;
    let t : State := after (.foeWriteStream t0) s;
    (open__fieldMailboxFoeAndSii s t0) ∧ (s.hasStream 5 = false) ∧ (t.ecat = { s.ecat with foeReply := 0x8002 }) ∧
        (keptBut [.belfry, .ecat] s t = true)) ∧
    (let s : State := ec S0b { al := .preop, foe := 0 };
    let t0 : Nat := 9;
    let t : State := after (.foeWriteFirmware t0) s;
    (open__fieldMailboxFoeAndSii s t0) ∧ (s.hasControl 5 = true) ∧ (s.lantern.op = none) ∧ (s.lanternServes = true)
        ∧ (s.imageConfirmed = true) ∧ (t.ecat.foe = 2) ∧ (t.ecat.foePacket = 1) ∧ (t.ecat.foeReply = 0) ∧
        (t.lantern.op.isSome = true) ∧ (keptBut [.belfry, .ecat, .lantern] s t = true)) ∧
    (let s : State := { ec S0b { al := .preop, foe := 0 } with log := { ring := [{ seq := 0, code := 1, tick := 2, sev := 1, injected := false, flags := 0, dev := 3, owner := 0, d0 := 0, d1 := 0, d2 := 0 }] } };
    let t : State := after .foeReadLog s;
    (s.foeOn = true) ∧ (s.ecat.foe = 0) ∧ (s.lanternServes = true) ∧ (t.ecat.foeReply = 0) ∧ (t.log = s.log) ∧
        (t.ecat.foeData = (s.log.ring ++ s.log.recent.drop (s.log.recent.length - s.log.pending)).flatMap
        LogEntry.bytes) ∧ (keptBut [.ecat] s t = true)) ∧
    (let s : State := ec S0b { al := .preop, foe := 1, foePacket := 1 };
    let k : Nat := 1;
    let n : Nat := 512;
    let last : Bool := true;
    let t : State := after (.foeDataPacket k n last) s;
    (s.ecat.foe ≠ 0) ∧ (k ≠ 0) ∧ (s.ecat.foePacket = k) ∧ (s.ecat.foeLast = false) ∧ (t.ecat.foePacket = k + 1) ∧
        (t.ecat.foeBytes = s.ecat.foeBytes + n) ∧ (t.ecat.foeLast = last) ∧ (t.ecat.foeReply = 0) ∧ (keptBut [.ecat]
        s t = true)) ∧
    (let s : State := ec S0b { al := .preop, foe := 1, foePacket := 2 };
    let k : Nat := 1;
    let n : Nat := 512;
    let last : Bool := true;
    let t : State := after (.foeDataPacket k n last) s;
    (s.ecat.foe ≠ 0) ∧ (s.ecat.foePacket ≠ 0) ∧ (k ≠ s.ecat.foePacket) ∧ (t.ecat.foe = 0) ∧ (t.ecat.foeReply =
        0x8005)) :=
  ⟨by decide +kernel, by decide +kernel, by decide +kernel, by decide +kernel, by decide +kernel, by decide +kernel⟩
theorem test_FieldMailboxFoeAndSii_3 :
    (let s : State := S0b;
    let w : Nat := 7;
    let v : BitVec 16 := 5#16;
    let t : State := after (.siiWrite w v) s;
    (s.ecatOn = true) ∧ (s.dictAlive = true) ∧ (s.lanternServes = true) ∧ (keptBut [.ecat] s t = true) ∧ (if (w = 4
        ∨ w = 7) ∧ s.ecat.al = .init then Mem.get t.ecat.sii w = v ∧ t.ecat.eepromError = false else t.ecat.sii =
        s.ecat.sii ∧ t.ecat.eepromError = true)) ∧
    (let s : State := ec S0b { al := .preop, foe := 0 };
    let w : Nat := 4;
    let v : BitVec 16 := 5#16;
    let t : State := after (.siiWrite w v) s;
    (s.ecatOn = true) ∧ (s.dictAlive = true) ∧ (s.lanternServes = true) ∧ (keptBut [.ecat] s t = true) ∧ (if (w = 4
        ∨ w = 7) ∧ s.ecat.al = .init then Mem.get t.ecat.sii w = v ∧ t.ecat.eepromError = false else t.ecat.sii =
        s.ecat.sii ∧ t.ecat.eepromError = true)) ∧
    (let s : State := ec S0b { sii := [(4, 7#16)] };
    let w : Nat := 4;
    let t : State := after (.siiRead w) s;
    (s.ecatOn = true) ∧ (s.dictAlive = true) ∧ (s.lanternServes = true) ∧ (t.ecat.siiData = Mem.get s.ecat.sii w) ∧
        (t.ecat.eepromBusy = false) ∧ (t.ecat.sii = s.ecat.sii) ∧ (keptBut [.ecat] s t = true)) :=
  ⟨by decide +kernel, by decide +kernel, by decide +kernel⟩
abbrev plain_sdoTransfersServeTheDictionary := fun (idx sub n : Nat) => 0x2600 ≤ idx ∧ idx < 0x2900 ∧ n ≠ 0 ∧
    (DictTable.find idx sub).map (fun e => e.ty.bytes) = some n
abbrev only_sdoTransfersServeTheDictionary := fun (s t : State) => keptBut (.belfry :: answerAreas) s t = true
theorem test_SdoTransfersServeTheDictionary_1 :
    (let s : State := S0b;
    let q : Req := q0;
    let idx : Nat := 0x2600;
    let sub : Nat := 9;
    let n : Nat := 4;
    let v : Nat := 0xFFFFFFFE;
    let t : State := after (.sdoDownload q idx sub false (toBytes n v) n) s;
    (plain_sdoTransfersServeTheDictionary idx sub n) ∧ (v < 256 ^ n) ∧ (WriteAllowed s q idx sub v = true) ∧ (t.reg
        idx sub = v) ∧ (t.reply q.owner = .done) ∧ (only_sdoTransfersServeTheDictionary s t)) ∧
    (let s : State := S0b;
    let q : Req := q1;
    let idx : Nat := 0x2FFF;
    let sub : Nat := 9;
    let d : Bytes := [1#8];
    let t : State := after (.sdoDownload q idx sub false d d.length) s;
    (s.dictAlive = true) ∧ (DictTable.hasObject idx = false) ∧ (t.reply q.owner = .abort 0x06020000) ∧ ([(0x2600,
        9), (0x2600, 1), (0x2910, 3), (0x1018, 1)].all (fun z => t.reg z.1 z.2 == s.reg z.1 z.2) = true) ∧
        (only_sdoTransfersServeTheDictionary s t)) ∧
    (let s : State := S0b;
    let q : Req := q0;
    let idx : Nat := 0x2600;
    let sub : Nat := 9;
    let n : Nat := 4096;
    let d : Bytes := [1#8];
    let t : State := after (.sdoDownload q idx sub false d n) s;
    (s.dictAlive = true) ∧ (d.length < n) ∧ (n ≤ 4096) ∧ (t.reply q.owner = .done) ∧ (t.segmentOf q.owner = some { upload := false, idx := idx, sub := sub, complete := false, toggle := false, total := n, data := d })
        ∧ ([(0x2600, 9), (0x2600, 1), (0x2910, 3), (0x1018, 1)].all (fun z => t.reg z.1 z.2 == s.reg z.1 z.2) =
        true) ∧ (only_sdoTransfersServeTheDictionary s t)) ∧
    (let s : State := sgm { upload := false, idx := 0x2600, sub := 9, complete := false, toggle := true, total := 4, data := [] };
    let q : Req := q0;
    let g : Segment := { upload := false, idx := 0x2600, sub := 9, complete := false, toggle := true, total := 4, data := [] };
    let d : Bytes := [1#8];
    let t : State := after (.sdoDownloadSegment q g.toggle false d) s;
    (s.dictAlive = true) ∧ (s.segmentOf q.owner = some g) ∧ (g.upload = false) ∧ ((g.data ++ d).length ≤ g.total) ∧
        (t.reply q.owner = .done) ∧ (t.segmentOf q.owner = some { g with toggle := !g.toggle, data := g.data ++ d })
        ∧ ([(0x2600, 9), (0x2600, 1), (0x2910, 3), (0x1018, 1)].all (fun z => t.reg z.1 z.2 == s.reg z.1 z.2) =
        true) ∧ (only_sdoTransfersServeTheDictionary s t)) ∧
    (let s : State := sgm { upload := false, idx := 0x2600, sub := 9, complete := false, toggle := true, total := 4, data := [1#8] };
    let q : Req := q0;
    let g : Segment := { upload := false, idx := 0x2600, sub := 9, complete := false, toggle := true, total := 4, data := [1#8] };
    let d : Bytes := [2#8, 0#8, 0xFF#8];
    let n : Nat := 4;
    let v : Nat := 0xFF000201;
    let t : State := after (.sdoDownloadSegment q g.toggle true d) s;
    (s.segmentOf q.owner = some g) ∧ (g.upload = false) ∧ (g.complete = false) ∧
        (plain_sdoTransfersServeTheDictionary g.idx g.sub n) ∧ (g.total = n) ∧ (v < 256 ^ n) ∧ (g.data ++ d =
        toBytes n v) ∧ (WriteAllowed s q g.idx g.sub v = true) ∧ (t.reply q.owner = .done) ∧ (t.reg g.idx g.sub = v)
        ∧ (t.segmentOf q.owner = none) ∧ (only_sdoTransfersServeTheDictionary s t)) ∧
    (let s : State := sgm { upload := false, idx := 0x2600, sub := 9, complete := false, toggle := true, total := 4, data := [1#8] };
    let q : Req := q0;
    let g : Segment := { upload := false, idx := 0x2600, sub := 9, complete := false, toggle := true, total := 4, data := [1#8] };
    let x : Bool := false;
    let d : Bytes := [2#8];
    let t : State := after (.sdoDownloadSegment q x false d) s;
    (s.dictAlive = true) ∧ (s.segmentOf q.owner = some g) ∧ (g.upload = false) ∧ (x ≠ g.toggle) ∧ (t.reply q.owner =
        .abort 0x05030000) ∧ (t.segmentOf q.owner = none) ∧ ([(0x2600, 9), (0x2600, 1), (0x2910, 3), (0x1018,
        1)].all (fun z => t.reg z.1 z.2 == s.reg z.1 z.2) = true) ∧ (only_sdoTransfersServeTheDictionary s t)) :=
  ⟨by decide +kernel, by decide +kernel, by decide +kernel, by decide +kernel, by decide +kernel, by decide +kernel⟩
theorem test_SdoTransfersServeTheDictionary_2 :
    (let s : State := S0b;
    let q : Req := q0;
    let idx : Nat := 0x2600;
    let sub : Nat := 9;
    let n : Nat := 4;
    let t : State := after (.sdoUpload q idx sub false false) s;
    ((idx, sub) ∈ [(0x2600, 9), (0x2910, 3)]) ∧ ((DictTable.find idx sub).map (fun e => e.ty.bytes) = some n) ∧
        (ReadAllowed s q idx sub = true) ∧ (t.reply q.owner = .data (toBytes n (s.reg idx sub))) ∧ ([(0x2600, 9),
        (0x2600, 1), (0x2910, 3), (0x1018, 1)].all (fun z => t.reg z.1 z.2 == s.reg z.1 z.2) = true) ∧
        (only_sdoTransfersServeTheDictionary s t)) ∧
    (let s : State := S0b;
    let q : Req := q0;
    let idx : Nat := 0x2910;
    let sub : Nat := 3;
    let n : Nat := 1;
    let t : State := after (.sdoUpload q idx sub false false) s;
    ((idx, sub) ∈ [(0x2600, 9), (0x2910, 3)]) ∧ ((DictTable.find idx sub).map (fun e => e.ty.bytes) = some n) ∧
        (ReadAllowed s q idx sub = true) ∧ (t.reply q.owner = .data (toBytes n (s.reg idx sub))) ∧ ([(0x2600, 9),
        (0x2600, 1), (0x2910, 3), (0x1018, 1)].all (fun z => t.reg z.1 z.2 == s.reg z.1 z.2) = true) ∧
        (only_sdoTransfersServeTheDictionary s t)) ∧
    (let s : State := S0b;
    let q : Req := q0;
    let idx : Nat := 0x2600;
    let sub : Nat := 9;
    let complete : Bool := false;
    let segmented : Bool := true;
    let c : Chip := ((s.served q).readOne q.owner idx sub).1;
    let d : Bytes := toBytes 4 (s.reg idx sub);
    let t : State := after (.sdoUpload q idx sub complete segmented) s;
    (s.dictAlive = true) ∧ ((if complete then (s.served q).readWhole q.owner idx sub else (s.served q).readOne
        q.owner idx sub) = (c, .ok d)) ∧ (t.reply q.owner = .data [] ∧ t.segmentOf q.owner = some { upload := true, idx := idx, sub := sub, complete := complete, toggle := false, total := d.length, data := d })) ∧
    (let s : State := S0b;
    let q : Req := q0;
    let idx : Nat := 0x2600;
    let sub : Nat := 9;
    let complete : Bool := false;
    let segmented : Bool := false;
    let c : Chip := ((s.served q).readOne q.owner idx sub).1;
    let d : Bytes := toBytes 4 (s.reg idx sub);
    let t : State := after (.sdoUpload q idx sub complete segmented) s;
    (s.dictAlive = true) ∧ ((if complete then (s.served q).readWhole q.owner idx sub else (s.served q).readOne
        q.owner idx sub) = (c, .ok d)) ∧ (t.reply q.owner = .data d ∧ t.segmentOf q.owner = c.segmentOf q.owner)) ∧
    (let s : State := sgm { upload := true, idx := 0x2600, sub := 9, complete := false, toggle := true, total := 4, data := [1#8] };
    let q : Req := q0;
    let g : Segment := { upload := true, idx := 0x2600, sub := 9, complete := false, toggle := true, total := 4, data := [1#8] };
    let t : State := after (.sdoUploadSegment q g.toggle) s;
    (s.dictAlive = true) ∧ (s.segmentOf q.owner = some g) ∧ (g.upload = true) ∧ (only_sdoTransfersServeTheDictionary
        s t) ∧ (t.reply q.owner = .data (g.data.take segmentBytes)) ∧ (t.segmentOf q.owner = (if g.data.length ≤
        segmentBytes then none else some { g with toggle := !g.toggle, data := g.data.drop segmentBytes }))) ∧
    (let s : State := sgm { upload := true, idx := 0x2600, sub := 9, complete := false, toggle := true, total := 4, data := (List.replicate 1016 1#8) };
    let q : Req := q0;
    let g : Segment := { upload := true, idx := 0x2600, sub := 9, complete := false, toggle := true, total := 4, data := (List.replicate 1016 1#8) };
    let t : State := after (.sdoUploadSegment q g.toggle) s;
    (s.dictAlive = true) ∧ (s.segmentOf q.owner = some g) ∧ (g.upload = true) ∧ (only_sdoTransfersServeTheDictionary
        s t) ∧ (t.reply q.owner = .data (g.data.take segmentBytes)) ∧ (t.segmentOf q.owner = (if g.data.length ≤
        segmentBytes then none else some { g with toggle := !g.toggle, data := g.data.drop segmentBytes }))) :=
  ⟨by decide +kernel, by decide +kernel, by decide +kernel, by decide +kernel, by decide +kernel, by decide +kernel⟩
theorem test_SdoTransfersServeTheDictionary_3 :
    (let s : State := sgm { upload := true, idx := 0x2600, sub := 9, complete := false, toggle := true, total := 4, data := [1#8] };
    let o : Nat := 0;
    let g : Segment := { upload := true, idx := 0x2600, sub := 9, complete := false, toggle := true, total := 4, data := [1#8] };
    let t : State := after (.sdoTransferTimeout o) s;
    (s.segmentOf o = some g) ∧ (t.reply o = .abort 0x05040000) ∧ (t.segmentOf o = none) ∧ (keptBut answerAreas s t =
        true)) ∧
    (let s : State := S0b;
    let q : Req := q0;
    let idx : Nat := 0x2600;
    let sub : Nat := 9;
    let e : Entry := ⟨0x2600, 0x2600, 9, 9, .u32, .rw, .live, 0x21#8, .none, false, 0, .any⟩;
    let t : State := after (.sdoInformation q idx sub) s;
    (s.dictAlive = true) ∧ (DictTable.hasObject idx = true) ∧ ((DictTable.find idx sub).isSome = true) ∧ (t.reply
        q.owner = .info idx sub e.ty.coe e.acc.coe) ∧ (t.reply q.owner = .info idx sub e.ty.coe e.acc.coe)) ∧
    (let s : State := S0b;
    let q : Req := q0;
    let idx : Nat := 0x2600;
    let sub : Nat := 9;
    let n : Nat := 4;
    let v : Nat := 0xFFFFFFFE;
    let t : State := after (.registerWrite q (.dict idx sub) v) s;
    (plain_sdoTransfersServeTheDictionary idx sub n) ∧ (v < 256 ^ n) ∧ (WriteAllowed s q idx sub v = true) ∧ (t.reg
        idx sub = v) ∧ (t.reply q.owner = .done) ∧ (only_sdoTransfersServeTheDictionary s t)) ∧
    (let s : State := S0b;
    let q : Req := q0;
    let h : Nat := 3;
    let v : Nat := 0xFFFFFFFF;
    let t : State := after (.registerWrite q (.bar0 h 0x2804) v) s;
    (s.hostOn = true) ∧ ((t.port h).evEnable = BitVec.ofNat 32 v &&& 0x1F#32) ∧ ((t.port h).dma = (s.port h).dma) ∧
        (∀ j, j < 40 → j ≠ h → t.port j = s.port j) ∧ (keptBut [.belfry, .ports] s t = true)) ∧
    (let s : State := S0b;
    let q : Req := q0;
    let v : Nat := 65537;
    let t : State := after (.registerWrite q (.esc 0x10) v) s;
    (s.ecatOn = true) ∧ (t.ecat = { s.ecat with station := v % 65536 }) ∧ (keptBut [.belfry, .ecat] s t = true)) :=
  ⟨by decide +kernel, by decide +kernel, by decide +kernel, by decide +kernel, by decide +kernel⟩

/-! ### Witnesses of chapter 13 -/

theorem test_StreamsEnterTheLoader_1 :
    (let s : State := { F0 with loader := { load := none } };
    let q : Req := q1;
    let n : Nat := 4;
    let a : Nat := 4096;
    let k : Nat := 1;
    let t : State := after (.loadFromHost q n a k) s;
    (CommandTaken s q 0x2E22 n [(3, 1), (4, a), (5, k)] = true) ∧ (1 ≤ q.owner) ∧ (q.owner ≤ 4) ∧ ((t.cmd (cmdKey
        0x2E22)).busy = some q.owner ∧ t.status 0x2E22 q.owner = 1) ∧ ((if s.loader.load = none then t.loader.load =
        some { source := 1, requester := 1, viaCommand := true } ∧ t.loader.next = s.loader.next else t.loader.load
        = s.loader.load ∧ t.loader.next = s.loader.next ++ [{ source := 1, requester := 1, viaCommand := true }]))) ∧
    (let s : State := { F0 with loader := { load := some L0 } };
    let q : Req := q1;
    let n : Nat := 4;
    let a : Nat := 4096;
    let k : Nat := 1;
    let t : State := after (.loadFromHost q n a k) s;
    (CommandTaken s q 0x2E22 n [(3, 1), (4, a), (5, k)] = true) ∧ (1 ≤ q.owner) ∧ (q.owner ≤ 4) ∧ ((t.cmd (cmdKey
        0x2E22)).busy = some q.owner ∧ t.status 0x2E22 q.owner = 1) ∧ ((if s.loader.load = none then t.loader.load =
        some { source := 1, requester := 1, viaCommand := true } ∧ t.loader.next = s.loader.next else t.loader.load
        = s.loader.load ∧ t.loader.next = s.loader.next ++ [{ source := 1, requester := 1, viaCommand := true }]))) ∧
    (let s : State := F0;
    let q : Req := q0;
    let n : Nat := 4;
    let a : Nat := 4096;
    let k : Nat := 1;
    let t : State := after (.loadFromHost q n a k) s;
    (CommandTaken s q 0x2E22 n [(3, 1), (4, a), (5, k)] = true) ∧ (q.owner = 0 ∨ 4 < q.owner) ∧ (t.reg 0x2200 6 = 6)
        ∧ (t.status 0x2E22 q.owner = 2) ∧ (t.loader = s.loader)) ∧
    (let s : State := S0b;
    let q : Req := q0;
    let n : Nat := 4;
    let a : Nat := 4096;
    let t : State := after (.loadFromFlash q n a) s;
    (CommandTaken s q 0x2E22 n [(3, 2), (4, a)] = true) ∧ (s.loader.load = none) ∧ ((t.cmd (cmdKey 0x2E22)).busy =
        some q.owner ∧ t.status 0x2E22 q.owner = 1) ∧ (t.loader.load = some { source := 6, requester := q.owner, viaCommand := true })
        ∧ (t.reg 0x2200 2 = 6) ∧ (keptBut (.belfry :: .loader :: answerAreas) s t = true)) ∧
    (let s : State := { (dm S0b fun d => { d with mode := 5#3 }) with loader := { dir0 := 148 } };
    let t : State := after .bootStreamLoad s;
    (s.serving = true) ∧ (s.dev.mode.toNat % 4 = 1) ∧ (s.loader.bootTried = 0) ∧ (s.test.st ≠ 1) ∧ (s.loader.injDir
        = false) ∧ (s.loader.dir0 ≠ 0) ∧ (s.loader.load = none) ∧ (t.loader.bootTried = 1) ∧ (t.loader.load = some { source := 6, requester := 7, boot := some 0 })
        ∧ (keptBut [.loader, .dict] s t = true)) ∧
    (let s : State := { lo { load := some { source := 1, requester := 1, viaCommand := true }, staged := [SS 0], active := [{ first := 3, count := 2, frame := 9#2048 }] } with test := S0b.test };
    let h : StreamHeader := HS;
    let l : Load := { source := 1, requester := 1, viaCommand := true };
    let t : State := after (.streamHeaderReceived h) s;
    (s.test.st ≠ 1) ∧ (s.loader.load = some l) ∧ (l.hdr = none) ∧ (s.headerCode l.requester h false = 0) ∧
        (t.loader.load.map (·.hdr) = some (some h)) ∧ (t.loader.load.map (·.received) = some 128) ∧ (t.reg 0x2200 4
        = h.length) ∧ (t.loader.staged = (s.loader.staged.filter fun x => (x.parts &&& h.partMask) == 0#8)) ∧
        ((t.loader.load.map fun x : Load => x.keyTaken) = some (Tab.get {} s.lantern.keys h.keyId : KeySlot).key) ∧
        (t.reg 0x2040 6 = sat32 (s.reg 0x2040 6 + 1)) ∧ (t.loader.active = s.loader.active) ∧ (keptBut [.loader,
        .dict, .regions] s t = true)) :=
  ⟨by decide +kernel, by decide +kernel, by decide +kernel, by decide +kernel, by decide +kernel, by decide +kernel⟩
theorem test_StreamsEnterTheLoader_2 :
    (let s : State := lo { load := some { source := 1, requester := 1, viaCommand := true }, staged := [SS 0] };
    let h : StreamHeader := { HS with magic := 5#32 };
    let l : Load := { source := 1, requester := 1, viaCommand := true };
    let c : Nat := 1;
    let o : Nat := 1;
    let t : State := after (.streamHeaderReceived h) s;
    (s.test.st ≠ 1) ∧ (s.loader.load = some l) ∧ (l.hdr = none) ∧ (s.headerCode l.requester h false = c) ∧ (c ≠ 0) ∧
        (s.loader.next = []) ∧ (l.viaCommand = true) ∧ (l.boot = none) ∧ ((s.cmd 0x2E22).busy = some o) ∧
        (t.loader.load = none) ∧ (t.reg 0x2200 6 = c) ∧ (t.reg 0x2200 8 = sat32 (s.reg 0x2200 8 + 1)) ∧ (t.status
        0x2E22 o = 2) ∧ (t.loader.staged = s.loader.staged) ∧ (h.magic ≠ 0x534C4541#32 → c = 1) ∧ (keptBut (.loader
        :: logAreas) s t = true)) ∧
    (let s : State := lo { load := some { source := 1, requester := 1, viaCommand := true }, staged := [SS 0] };
    let h : StreamHeader := { HS with section_ := [(2, 3#32)] };
    let l : Load := { source := 1, requester := 1, viaCommand := true };
    let c : Nat := 6;
    let o : Nat := 1;
    let t : State := after (.streamHeaderReceived h) s;
    (s.test.st ≠ 1) ∧ (s.loader.load = some l) ∧ (l.hdr = none) ∧ (s.headerCode l.requester h false = c) ∧ (c ≠ 0) ∧
        (s.loader.next = []) ∧ (l.viaCommand = true) ∧ (l.boot = none) ∧ ((s.cmd 0x2E22).busy = some o) ∧
        (t.loader.load = none) ∧ (t.reg 0x2200 6 = c) ∧ (t.reg 0x2200 8 = sat32 (s.reg 0x2200 8 + 1)) ∧ (t.status
        0x2E22 o = 2) ∧ (t.loader.staged = s.loader.staged) ∧ (h.magic ≠ 0x534C4541#32 → c = 1) ∧ (keptBut (.loader
        :: logAreas) s t = true)) :=
  ⟨by decide +kernel, by decide +kernel⟩
abbrev body_bodyCommandsFillTheStagingSide := fun (s : State) (h : StreamHeader) (l : Load) (n : Nat) => s.loader.load
    = some l ∧ l.hdr = some h ∧ l.ended = false ∧ l.received + n ≤ h.length - 16 ∧ s.isArmed 0x2DC0 2 0 = false
abbrev got_bodyCommandsFillTheStagingSide := fun (s t : State) (l : Load) (n : Nat) => t.loader.load.map (·.received)
    = some (l.received + n) ∧ t.loader.load.map (·.content) = some l.content ∧ t.loader.active = s.loader.active ∧
    t.reg 0x2200 5 = l.received + n ∧ keptBut [.loader, .dict] s t = true
abbrev span_bodyCommandsFillTheStagingSide := fun (h : StreamHeader) (l : Load) (r lo n : Nat) => r < 32 ∧
    (streamRegions h).getLsbD r = true ∧ r * 34816 ≤ lo ∧ lo + n ≤ (r + 1) * 34816 ∧ 0 < n ∧ l.spans = []
abbrev record_bodyCommandsFillTheStagingSide := fun (t : State) (r : Nat) => t.loader.load.map fun l => Tab.get {}
    l.records r
theorem test_BodyCommandsFillTheStagingSide_1 :
    (let s : State := lob L0;
    let h : StreamHeader := HS;
    let l : Load := L0;
    let r : Nat := 1;
    let lo : Nat := 34816;
    let a : BitVec 32 := 0x00200000#32;
    let f : List (BitVec 2048) := [3#2048, 4#2048];
    let c : List Setting := [.bankUse 0];
    let t : State := after (.frames a f c) s;
    (body_bodyCommandsFillTheStagingSide s h l (8 + 256 * f.length)) ∧ (frameOf a = some lo) ∧
        (span_bodyCommandsFillTheStagingSide h l r lo f.length) ∧ (got_bodyCommandsFillTheStagingSide s t l (8 + 256
        * f.length)) ∧ (∀ i, i < f.length → runGet t.loader.staging (lo + i) = f.getD i 0#2048 ∧ runGet
        t.loader.stagingRef (lo + i) = f.getD i 0#2048) ∧ ([0, 34815, 34818, 39999, 40000].all (fun n => runGet
        t.loader.staging n == runGet s.loader.staging n) = true) ∧ (t.loader.twinInvalid.getLsbD r = true) ∧
        (t.loader.load.map (·.settings) = some (l.settings ++ c))) ∧
    (let s : State := lob L0;
    let h : StreamHeader := HS;
    let l : Load := L0;
    let r : Nat := 1;
    let lo : Nat := 34816;
    let n : Nat := 34816;
    let a : BitVec 32 := 0x00200000#32;
    let f : BitVec 2048 := 3#2048;
    let c : List Setting := [];
    let t : State := after (.fill a n f c) s;
    (body_bodyCommandsFillTheStagingSide s h l 264) ∧ (frameOf a = some lo) ∧ (span_bodyCommandsFillTheStagingSide h
        l r lo n) ∧ (got_bodyCommandsFillTheStagingSide s t l 264) ∧ ([0, 34815, 34816, 69631, 69632].all (fun i =>
        runGet t.loader.staging i == if lo ≤ i ∧ i < lo + n then f else runGet s.loader.staging i) = true) ∧
        (t.loader.twinInvalid.getLsbD r = true)) ∧
    (let s : State := lob L0;
    let h : StreamHeader := HS;
    let l : Load := L0;
    let r : Nat := 1;
    let w : BitVec 32 := 80#32;
    let t : State := after (.region r w) s;
    (body_bodyCommandsFillTheStagingSide s h l 8) ∧ (r < 32) ∧ (r ∉ l.regioned) ∧ (streamPart h r = some (field
        w.toNat 8 3)) ∧ (w.toNat < 2 ^ 14) ∧ (8 ≤ field w.toNat 0 8) ∧ (field w.toNat 0 8 ≤ 80) ∧
        (got_bodyCommandsFillTheStagingSide s t l 8) ∧ ((record_bodyCommandsFillTheStagingSide t r).map (·.m) = some
        (field w.toNat 0 8)) ∧ ((record_bodyCommandsFillTheStagingSide t r).map (·.part) = some (field w.toNat 8 3))
        ∧ ((record_bodyCommandsFillTheStagingSide t r).map (·.port0) = some none) ∧ (t.loader.staging =
        s.loader.staging)) ∧
    (let s : State := lob L0;
    let h : StreamHeader := HS;
    let l : Load := L0;
    let r : Nat := 1;
    let w : BitVec 32 := 8#32;
    let t : State := after (.region r w) s;
    (body_bodyCommandsFillTheStagingSide s h l 8) ∧ (r < 32) ∧ (r ∉ l.regioned) ∧ (streamPart h r = some (field
        w.toNat 8 3)) ∧ (w.toNat < 2 ^ 14) ∧ (8 ≤ field w.toNat 0 8) ∧ (field w.toNat 0 8 ≤ 80) ∧
        (got_bodyCommandsFillTheStagingSide s t l 8) ∧ ((record_bodyCommandsFillTheStagingSide t r).map (·.m) = some
        (field w.toNat 0 8)) ∧ ((record_bodyCommandsFillTheStagingSide t r).map (·.part) = some (field w.toNat 8 3))
        ∧ ((record_bodyCommandsFillTheStagingSide t r).map (·.port0) = some none) ∧ (t.loader.staging =
        s.loader.staging)) ∧
    (let s : State := lob L0;
    let h : StreamHeader := HS;
    let l : Load := L0;
    let r : Nat := 1;
    let e : List (BitVec 64) := [7#64, 0#64];
    let t : State := after (.table r e) s;
    (body_bodyCommandsFillTheStagingSide s h l (8 + 8 * e.length)) ∧ (r < 32) ∧ (r ∉ l.tabled) ∧ ((streamRegions
        h).getLsbD r = true) ∧ (1 ≤ e.length) ∧ (e.length ≤ 4096) ∧ (got_bodyCommandsFillTheStagingSide s t l (8 + 8
        * e.length)) ∧ ((record_bodyCommandsFillTheStagingSide t r).map (·.slots) = some e) ∧ (t.loader.staging =
        s.loader.staging)) ∧
    (let s : State := lob L0;
    let h : StreamHeader := HS;
    let l : Load := L0;
    let p : Nat := 0;
    let k : Nat := 10;
    let t : State := after (.contract p k) s;
    (body_bodyCommandsFillTheStagingSide s h l 4) ∧ (p < 8) ∧ (10 ≤ k) ∧ (k ≤ 20) ∧ (h.partMask.getLsbD p = true) ∧
        (l.ks = []) ∧ (got_bodyCommandsFillTheStagingSide s t l 4) ∧ ((t.loader.load.map fun l => Tab.get 0 l.ks p)
        = some k) ∧ (t.loader.staging = s.loader.staging)) :=
  ⟨by decide +kernel, by decide +kernel, by decide +kernel, by decide +kernel, by decide +kernel, by decide +kernel⟩
theorem test_BodyCommandsFillTheStagingSide_2 :
    (let s : State := lob L0;
    let h : StreamHeader := HS;
    let l : Load := L0;
    let p : Nat := 0;
    let k : Nat := 20;
    let t : State := after (.contract p k) s;
    (body_bodyCommandsFillTheStagingSide s h l 4) ∧ (p < 8) ∧ (10 ≤ k) ∧ (k ≤ 20) ∧ (h.partMask.getLsbD p = true) ∧
        (l.ks = []) ∧ (got_bodyCommandsFillTheStagingSide s t l 4) ∧ ((t.loader.load.map fun l => Tab.get 0 l.ks p)
        = some k) ∧ (t.loader.staging = s.loader.staging)) ∧
    (let s : State := lob L0;
    let h : StreamHeader := HS;
    let l : Load := L0;
    let r : Nat := 1;
    let o : BitVec 256 := 3#256;
    let i : BitVec 256 := 1#256;
    let t : State := after (.pdmap r o i) s;
    (body_bodyCommandsFillTheStagingSide s h l 68) ∧ (r < 32) ∧ (r ∉ l.pdmapped) ∧ ((streamRegions h).getLsbD r =
        true) ∧ (s.wordConflict h r o i = false) ∧ (got_bodyCommandsFillTheStagingSide s t l 68) ∧
        ((record_bodyCommandsFillTheStagingSide t r).map (·.pdOut) = some o) ∧
        ((record_bodyCommandsFillTheStagingSide t r).map (·.pdIn) = some i) ∧ (t.loader.staging = s.loader.staging)) ∧
    (let s : State := lob L0;
    let h : StreamHeader := HS;
    let l : Load := L0;
    let t : State := after .streamEnd s;
    (body_bodyCommandsFillTheStagingSide s h l 4) ∧ (got_bodyCommandsFillTheStagingSide s t l 4) ∧
        (t.loader.load.map (·.ended) = some true) ∧ (t.loader.staging = s.loader.staging)) ∧
    (let s : State := lob L1;
    let h : StreamHeader := HS;
    let l : Load := L1;
    let t : State := after .streamEnd s;
    (s.loader.load = some l) ∧ (l.hdr = some h) ∧ (l.ended = true) ∧ (s.isArmed 0x2DC0 2 0 = false) ∧ (l.content =
        0) ∧ (t.loader.load.map (·.content) = some 13) ∧ (t.loader.staging = s.loader.staging)) :=
  ⟨by decide +kernel, by decide +kernel, by decide +kernel, by decide +kernel⟩
abbrev present_streamsAreStagedOrRefused := fun (s : State) (l : Load) (h : StreamHeader) (o : Nat) => s.loader.load =
    some l ∧ l.hdr = some h ∧ s.isArmed 0x2DC0 1 0 = false ∧ s.loader.next = [] ∧ l.viaCommand = true ∧ l.boot = none
    ∧ l.requester ≠ 7 ∧ (s.cmd 0x2E22).busy = some o
abbrev failed_streamsAreStagedOrRefused := fun (s t : State) (c o : Nat) => t.loader.load = none ∧ t.loader.staged =
    s.loader.staged ∧ t.reg 0x2200 6 = c ∧ t.reg 0x2200 8 = sat32 (s.reg 0x2200 8 + 1) ∧ t.status 0x2E22 o = 2 ∧
    t.loader.active = s.loader.active ∧ keptBut (.loader :: logAreas) s t = true
theorem test_StreamsAreStagedOrRefused_1 :
    (let s : State := lob L1;
    let l : Load := L1;
    let h : StreamHeader := HS;
    let o : Nat := 1;
    let t : State := after (.streamTagCheck true 0) s;
    (present_streamsAreStagedOrRefused s l h o) ∧ (s.contentCode l h = 0) ∧ (t.loader.load = none) ∧
        (t.loader.staged = s.loader.staged ++ [l.staged h]) ∧ (t.reg 0x2200 6 = 0) ∧ (t.reg 0x2200 7 = sat32 (s.reg
        0x2200 7 + 1)) ∧ (t.status 0x2E22 o = 0) ∧ ((t.cmd 0x2E22).busy = none) ∧ (t.loader.active =
        s.loader.active) ∧ (t.parts = s.parts)) ∧
    (let s : State := lob L1;
    let l : Load := L1;
    let h : StreamHeader := HS;
    let o : Nat := 1;
    let n : Nat := 1;
    let ok : Bool := true;
    let t : State := after (.streamTagCheck ok n) s;
    (present_streamsAreStagedOrRefused s l h o) ∧ (n ≠ 0) ∧ (failed_streamsAreStagedOrRefused s t 11 o)) ∧
    (let s : State := lob L1;
    let l : Load := L1;
    let h : StreamHeader := HS;
    let o : Nat := 1;
    let t : State := after (.streamTagCheck false 0) s;
    (present_streamsAreStagedOrRefused s l h o) ∧ (failed_streamsAreStagedOrRefused s t 12 o)) ∧
    (let s : State := lob { L1 with received := 5 };
    let l : Load := { L1 with received := 5 };
    let h : StreamHeader := HS;
    let o : Nat := 1;
    let c : Nat := 13;
    let t : State := after (.streamTagCheck true 0) s;
    (present_streamsAreStagedOrRefused s l h o) ∧ (s.contentCode l h = c) ∧ (c ≠ 0) ∧
        (failed_streamsAreStagedOrRefused s t c o)) ∧
    (let s : State := lob { L1 with regioned := [0] };
    let l : Load := { L1 with regioned := [0] };
    let h : StreamHeader := HS;
    let o : Nat := 1;
    let c : Nat := 14;
    let t : State := after (.streamTagCheck true 0) s;
    (present_streamsAreStagedOrRefused s l h o) ∧ (s.contentCode l h = c) ∧ (c ≠ 0) ∧
        (failed_streamsAreStagedOrRefused s t c o)) ∧
    (let s : State := lob L1;
    let l : Load := L1;
    let h : StreamHeader := HS;
    let o : Nat := 1;
    let t : State := after .streamCutShort s;
    (present_streamsAreStagedOrRefused s l h o) ∧ (failed_streamsAreStagedOrRefused s t 10 o)) :=
  ⟨by decide +kernel, by decide +kernel, by decide +kernel, by decide +kernel, by decide +kernel, by decide +kernel⟩
theorem test_StreamsAreStagedOrRefused_2 :
    let apart := fun (l : List FrameRun) => l.Pairwise fun x y => x.first + x.count ≤ y.first ∨ y.first + y.count ≤
        x.first;
    let s : State := ldr S0b { rebuilding := 3#32, twinInvalid := 3#32, active := [{ first := 34000, count := 1000, frame := 9#2048 }], staging := [{ first := 0, count := 70000, frame := 5#2048 }] };
    let r : Nat := 1;
    let t : State := after (.twinRebuildEnd r) s;
    (r < 32) ∧ (s.loader.rebuilding.getLsbD r = true) ∧ (apart s.loader.active) ∧ (s.regionPart r = none ∨
        s.loader.active = s.loader.activeRef) ∧ (t.loader.rebuilding.getLsbD r = false) ∧
        (t.loader.twinInvalid.getLsbD r = false) ∧ (t.loader.active = s.loader.active) ∧ ([34816, 34999, 35000,
        69631].all (fun n => runGet t.loader.staging n == runGet s.loader.active n) = true) ∧ ([0, 34815, 69632].all
        (fun n => runGet t.loader.staging n == runGet s.loader.staging n) = true) ∧ (keptBut [.loader] s t = true) := by decide +kernel
abbrev accepted_commitsRunToTheirRelease := fun (s t : State) (q : Req) (m : BitVec 8) (mode : Nat) (tc : Option Nat)
    => (t.cmd (cmdKey 0x2210)).busy = some q.owner ∧ t.status 0x2210 q.owner = 1 ∧ t.loader.commit.map (fun c =>
    (c.mask, c.mode, c.owner, c.tc, c.phase)) = some (m, mode, q.owner, tc, 0) ∧ t.loader.staged = s.loader.staged ∧
    t.loader.active = s.loader.active ∧ keptBut (.belfry :: .loader :: answerAreas) s t = true
theorem test_CommitsRunToTheirRelease_1 :
    (let i : Req → Nat → BitVec 8 → Instr := Instr.commitNextBoundary;
    let mode : Nat := 0;
    let s : State := ldr F0 { staged := [SS 10] };
    let q : Req := q1;
    let n : Nat := 4;
    let m : BitVec 8 := 1#8;
    let t : State := after (i q n m) s;
    (CommandTaken s q 0x2210 n [(2, m.toNat), (3, mode)] = true) ∧ ((s.served q).commitRefusal q.owner m mode (s.reg
        0x2210 4) = 0) ∧ (accepted_commitsRunToTheirRelease s t q m mode none)) ∧
    (let i : Req → Nat → BitVec 8 → Instr := Instr.commitGate;
    let mode : Nat := 3;
    let s : State := ldr F0 { staged := [SS 10] };
    let q : Req := q1;
    let n : Nat := 4;
    let m : BitVec 8 := 1#8;
    let t : State := after (i q n m) s;
    (CommandTaken s q 0x2210 n [(2, m.toNat), (3, mode)] = true) ∧ ((s.served q).commitRefusal q.owner m mode (s.reg
        0x2210 4) = 0) ∧ (accepted_commitsRunToTheirRelease s t q m mode none)) ∧
    (let s : State := ldr F0 { staged := [SS 10] };
    let q : Req := q1;
    let n : Nat := 4;
    let v : Nat := 98;
    let m : BitVec 8 := 1#8;
    let t : State := after (.commitAtFrame q n m v) s;
    (CommandTaken s q 0x2210 n [(2, m.toNat), (3, 1), (4, v)] = true) ∧ ((s.served q).commitRefusal q.owner m 1 v =
        0) ∧ (accepted_commitsRunToTheirRelease s t q m 1 (some (v * 2 ^ kmax (s.commitStreams m))))) ∧
    (let s : State := ldr F0 { staged := [SS 10] };
    let q : Req := q1;
    let n : Nat := 4;
    let v : Nat := 100352;
    let m : BitVec 8 := 1#8;
    let t : State := after (.commitAtInstant q n m v) s;
    (CommandTaken s q 0x2210 n [(2, m.toNat), (3, 2), (4, v)] = true) ∧ ((s.served q).commitRefusal q.owner m 2 v =
        0) ∧ (accepted_commitsRunToTheirRelease s t q m 2 (some v))) ∧
    (let s : State := co Cm;
    let q : Req := q1;
    let c : Commit := Cm;
    let o : Nat := 1;
    let t : State := after (.commitCancel q) s;
    (WriteAllowed s q 0x2211 1 1 = true) ∧ (s.loader.commit = some c) ∧ (s.mayCommit q.owner c.mask = true) ∧
        (c.phase = 0) ∧ (s.loader.bootWait = 0#8) ∧ ((s.cmd 0x2210).busy = some o) ∧ (t.loader.commit = none) ∧
        (t.status 0x2210 o = 6) ∧ (t.reply q.owner = .done) ∧ (t.loader.staged = s.loader.staged) ∧ (keptBut
        (.belfry :: .loader :: answerAreas) s t = true)) ∧
    (let s : State := co Cm;
    let c : Commit := Cm;
    let t : State := after .commitConditionsMet s;
    (s.loader.commit = some c) ∧ (c.mode = 0 ∨ c.mode = 3) ∧ (c.phase = 0) ∧ (c.tc = none) ∧ (s.commitReady c.mask =
        true) ∧ (t.loader.commit = some { c with readyAt := some s.now, tc := if c.mode = 0 then some (nextMultiple (s.now + 64) (2 ^ kmax (s.commitStreams c.mask))) else none })
        ∧ (keptBut [.loader] s t = true)) :=
  ⟨by decide +kernel, by decide +kernel, by decide +kernel, by decide +kernel, by decide +kernel, by decide +kernel⟩
theorem test_CommitsRunToTheirRelease_2 :
    (let s : State := co { Cm with mode := 3 };
    let c : Commit := { Cm with mode := 3 };
    let t : State := after .commitConditionsMet s;
    (s.loader.commit = some c) ∧ (c.mode = 0 ∨ c.mode = 3) ∧ (c.phase = 0) ∧ (c.tc = none) ∧ (s.commitReady c.mask =
        true) ∧ (t.loader.commit = some { c with readyAt := some s.now, tc := if c.mode = 0 then some (nextMultiple (s.now + 64) (2 ^ kmax (s.commitStreams c.mask))) else none })
        ∧ (keptBut [.loader] s t = true)) ∧
    (let s : State := co { Cm with tc := some 102400 };
    let c : Commit := { Cm with tc := some 102400 };
    let tc : Nat := 102400;
    let t : State := after .commitFreeze s;
    (s.loader.commit = some c) ∧ (c.phase = 0) ∧ (c.tc = some tc) ∧ (s.commitReady c.mask = true) ∧ (t.now = max
        s.now (tc - 64) % 2 ^ 64) ∧ (t.loader.commit.map (·.phase) = some 1) ∧ (t.loader.commit.map (·.staged) =
        some (s.commitStreams c.mask)) ∧ (keptBut [.belfry, .loader] s t = true)) ∧
    (let s : State := ldr (co Cm) { commit := some { Cm with mode := 1, tc := some 102400 } };
    let c : Commit := { Cm with mode := 1, tc := some 102400 };
    let tc : Nat := 102400;
    let o : Nat := 1;
    let t : State := after .commitFreeze s;
    (s.loader.commit = some c) ∧ (c.phase = 0) ∧ (c.tc = some tc) ∧ (c.mode = 1 ∨ c.mode = 2) ∧ (s.commitReady
        c.mask = false) ∧ (s.loader.bootWait = 0#8) ∧ ((s.cmd 0x2210).busy = some o) ∧ (t.loader.commit = none) ∧
        (t.status 0x2210 o = 7) ∧ (t.loader.active = s.loader.active) ∧ (keptBut (.belfry :: .loader :: logAreas) s
        t = true)) ∧
    (let apart := fun (l : List FrameRun) => l.Pairwise fun x y => x.first + x.count ≤ y.first ∨ y.first + y.count ≤
        x.first;
    let s : State := co { Cm with tc := some 102400, phase := 1, regions := 3#32, staged := [SS 10] };
    let c : Commit := { Cm with tc := some 102400, phase := 1, regions := 3#32, staged := [SS 10] };
    let tc : Nat := 102400;
    let t : State := after .commitResetAssert s;
    (s.loader.commit = some c) ∧ (c.phase = 1) ∧ (c.tc = some tc) ∧ (apart s.loader.staging) ∧ (t.now = max s.now
        (tc - 48) % 2 ^ 64) ∧ (t.loader.commit.map (·.phase) = some 2) ∧ (∀ r, r < 32 → (c.regions |||
        c.removed).getLsbD r = true → (t.region r).inReset = true) ∧ ([0, 34815, 34816, 39999, 40000, 69631].all
        (fun n => runGet t.loader.active n == runGet s.loader.staging n) = true) ∧ (runGet t.loader.active 69632 =
        runGet s.loader.active 69632)) ∧
    (let s : State := co { Cm with tc := some 102400, phase := 2, regions := 3#32, staged := [SS 10] };
    let c : Commit := { Cm with tc := some 102400, phase := 2, regions := 3#32, staged := [SS 10] };
    let tc : Nat := 102400;
    let t : State := after .commitInstant s;
    (s.loader.commit = some c) ∧ (c.phase = 2) ∧ (c.tc = some tc) ∧ ((c.staged.flatMap (·.section_)).Pairwise (fun a
        b => a.1 ≠ b.1 ∧ a.2.2.1 &&& b.2.2.1 = 0#32)) ∧ (t.now = max s.now tc % 2 ^ 64) ∧ (t.reg 0x2210 5 = tc) ∧
        (t.loader.commit.map (·.phase) = some 3) ∧ (∀ x ∈ c.staged, ∀ e ∈ x.section_, (t.part e.1).committed = true
        ∧ (t.part e.1).regions = e.2.2.1 ∧ (t.part e.1).k = e.2.2.2 ∧ (t.part e.1).status = (if e.2.2.2 = 0 then
        .none else .armed) ∧ ∀ r, r < 32 → e.2.2.1.getLsbD r = true → (t.region r).part = some e.1 ∧ (t.region r).m
        = (Tab.get {} x.records r).m ∧ (t.region r).pdOut = (Tab.get {} x.records r).pdOut)) ∧
    (let s : State := reg_ (co { Cm with tc := some 102400, phase := 3, regions := 3#32 }) 1 { run 1 with fenced := true, inReset := true };
    let c : Commit := { Cm with tc := some 102400, phase := 3, regions := 3#32 };
    let o : Nat := 1;
    let t : State := after .commitRelease s;
    (s.loader.commit = some c) ∧ (c.phase = 3) ∧ (s.loader.bootWait = 0#8) ∧ ((s.cmd 0x2210).busy = some o) ∧
        (s.inject.armed = []) ∧ (t.loader.commit = none) ∧ (t.status 0x2210 o = 0) ∧ (∀ r, r < 32 →
        c.regions.getLsbD r = true → c.removed.getLsbD r = false → (t.region r).fenced = false ∧ (t.region
        r).inReset = false ∧ (t.region r).released = (t.region r).divStart) ∧ (∀ r, r < 32 → c.regions.getLsbD r =
        false → c.removed.getLsbD r = true → (t.region r).fenced = false ∧ (t.region r).clearing = true ∧ (t.region
        r).m = 80)) :=
  ⟨by decide +kernel, by decide +kernel, by decide +kernel, by decide +kernel, by decide +kernel, by decide +kernel⟩
theorem test_CommitsRunToTheirRelease_3 :
    let s : State := reg_ (co { Cm with tc := some 102400, phase := 3, regions := 3#32 }) 1 { run 1 with fenced := true, inReset := true };
    let c : Commit := { Cm with tc := some 102400, phase := 3, regions := 3#32 };
    let o : Nat := 1;
    let t : State := after .commitRelease s;
    (s.loader.commit = some c) ∧ (c.phase = 3) ∧ (s.loader.bootWait = 0#8) ∧ ((s.cmd 0x2210).busy = some o) ∧
        (s.inject.armed = []) ∧ (t.loader.commit = none) ∧ (t.status 0x2210 o = 0) ∧ (∀ r, r < 32 → (c.regions |||
        c.removed).getLsbD r = false → t.region r = s.region r) ∧ (t.loader.active = s.loader.active) := by decide +kernel
abbrev on_gateStartsACommit := fun (s : State) => s.dictAlive = true ∧ s.powered 16 = true
abbrev grid_gateStartsACommit := fun (n r t : Nat) => t % 65536 = r ∧ n ≤ t ∧ t < n + 65536
theorem test_GateStartsACommit :
    (let s : State := F0;
    let t : State := after .gateDriveChange s;
    (on_gateStartsACommit s) ∧ (grid_gateStartsACommit s.now 32768 t.now) ∧ (t.dev = { s.dev with gateDrive := s.holdsGate })
        ∧ (keptBut [.belfry, .dev] s t = true)) ∧
    (let s : State := bf F0 fun b => { b with tick := 32769 };
    let t : State := after .gateDriveChange s;
    (on_gateStartsACommit s) ∧ (grid_gateStartsACommit s.now 32768 t.now) ∧ (t.dev = { s.dev with gateDrive := s.holdsGate })
        ∧ (keptBut [.belfry, .dev] s t = true)) ∧
    (let s : State := dm F0 fun d => { d with gateDrive := false };
    let v : Bool := true;
    let t : State := after (.gateSample v) s;
    (on_gateStartsACommit s) ∧ (s.loader.commit = none) ∧ (grid_gateStartsACommit s.now 0 t.now) ∧ (t.dev.gateLevel
        = (v && !s.dev.gateDrive)) ∧ (t.reg 0x2230 3 = (if v = true ∧ s.dev.gateDrive = false ∧ s.dev.gateLevel =
        false then t.now else s.reg 0x2230 3)) ∧ (keptBut [.belfry, .dev, .dict] s t = true)) ∧
    (let s : State := { co { Cm with mode := 3 } with dev := { F0.dev with gateDrive := false } };
    let c : Commit := { Cm with mode := 3 };
    let t : State := after (.gateSample true) s;
    (on_gateStartsACommit s) ∧ (s.dev.gateDrive = false) ∧ (s.loader.commit = some c) ∧ (c.mode = 3) ∧ (c.phase = 0)
        ∧ (c.tc = none) ∧ (s.commitReady c.mask = true) ∧ (grid_gateStartsACommit s.now 0 t.now) ∧ (t.loader.commit
        = some { c with tc := some (nextMultiple (t.now + 65536) (2 ^ kmax (s.commitStreams c.mask))) }) ∧ (keptBut
        [.belfry, .dev, .dict, .loader] s t = true)) ∧
    (let s : State := co { Cm with mode := 3, readyAt := some 5 };
    let c : Commit := { Cm with mode := 3, readyAt := some 5 };
    let n : Nat := 5;
    let t : State := after .gateWaitLimit s;
    (s.loader.commit = some c) ∧ (c.mode = 3) ∧ (c.phase = 0) ∧ (c.tc = none) ∧ (c.waitLogged = false) ∧
        (s.dev.gateLevel = false) ∧ (s.commitReady c.mask = true) ∧ (c.readyAt = some n) ∧ (t.now = max s.now (n +
        s.reg 0x2230 4 * 1000000000) % 2 ^ 64) ∧ (t.loader.commit = some { c with waitLogged := true }) ∧ (keptBut
        (.belfry :: .loader :: logAreas) s t = true)) :=
  ⟨by decide +kernel, by decide +kernel, by decide +kernel, by decide +kernel, by decide +kernel⟩

/-! ### Witnesses of chapter 14 -/

abbrev reads_readbackChecksAndRepairsFrames := fun (s : State) (n : Nat) => s.watch.st = 0 ∧ s.watch.ptr = n ∧
    s.watch.ptr2 = n ∧ s.watch.ptr3 = n ∧ n < 1114112 ∧ (s.regionPart (n / 34816)).isSome = true ∧ s.inCommit (n /
    34816) = false ∧ s.frameArmed n = false ∧ runGet s.loader.active n = runGet s.loader.activeRef n ∧
    (s.watch.stuck.find? fun x => x.1 == n) = none ∧ n ∉ s.watch.bad ∧ s.watch.repaired = []
abbrev next_readbackChecksAndRepairsFrames := fun (s t : State) (n : Nat) => t.watch.ptr = (n + 1) % 1114112 ∧
    t.watch.ptr2 = t.watch.ptr ∧ t.watch.ptr3 = t.watch.ptr ∧ t.loader.activeRef = s.loader.activeRef
abbrev others_readbackChecksAndRepairsFrames := fun (a b : List FrameRun) (n : Nat) => [0, 1, 4, 6, 34814, 34816].all
    (fun m => m == n || runGet b m == runGet a m) = true
abbrev repaired_readbackChecksAndRepairsFrames := fun (s t : State) (n sub : Nat) =>
    next_readbackChecksAndRepairsFrames s t n ∧ runGet t.loader.active n = runGet s.loader.activeRef n ∧
    others_readbackChecksAndRepairsFrames s.loader.active t.loader.active n ∧ t.reg 0x2900 sub = sat32 (s.reg 0x2900
    sub + 1) ∧ t.reg 0x2900 9 = frameAddr n ∧ t.reg 0x2900 0x0A = s.now
theorem test_ReadbackChecksAndRepairsFrames_1 :
    (let s : State := wt 5 {} 9#2048 0#32;
    let n : Nat := 5;
    let t : State := after (.frameCheck [] [] .clean) s;
    (reads_readbackChecksAndRepairsFrames s n) ∧ (next_readbackChecksAndRepairsFrames s t n) ∧ (t.watch.checked =
        s.watch.checked + 1) ∧ (Tab.get 0 t.watch.clean n = s.now) ∧ (t.watch.mismatches = s.watch.mismatches) ∧
        (keptBut [.watch] s t = true)) ∧
    (let s : State := wt 34815 {} 9#2048 0#32;
    let n : Nat := 34815;
    let t : State := after (.frameCheck [] [] .clean) s;
    (reads_readbackChecksAndRepairsFrames s n) ∧ (next_readbackChecksAndRepairsFrames s t n) ∧ (t.watch.checked =
        s.watch.checked + 1) ∧ (Tab.get 0 t.watch.clean n = s.now) ∧ (t.watch.mismatches = s.watch.mismatches) ∧
        (keptBut [.watch] s t = true)) ∧
    (let s : State := wt 5 {} 9#2048 0#32;
    let n : Nat := 5;
    let k : Nat := 3;
    let t : State := after (.frameCheck [] [] (.single k)) s;
    (reads_readbackChecksAndRepairsFrames s n) ∧ (next_readbackChecksAndRepairsFrames s t n) ∧ (t.reg 0x2900 0x0B =
        sat32 (s.reg 0x2900 0x0B + 1)) ∧ (t.loader = s.loader) ∧ (keptBut [.watch, .dict] s t = true)) ∧
    (let repaired := fun (s t : State) (n sub : Nat) => next_readbackChecksAndRepairsFrames s t n ∧ runGet
        t.loader.active n = runGet s.loader.activeRef n ∧ others_readbackChecksAndRepairsFrames s.loader.active
        t.loader.active n ∧ t.reg 0x2900 sub = sat32 (s.reg 0x2900 sub + 1) ∧ t.reg 0x2900 9 = frameAddr n ∧ t.reg
        0x2900 0x0A = s.now;
    let s : State := wt 5 { mismatches := 63 } 9#2048 0#32;
    let n : Nat := 5;
    let l : List Nat := [0, 2047];
    let t : State := after (.frameCheck l [] .clean) s;
    (reads_readbackChecksAndRepairsFrames s n) ∧ (l ≠ []) ∧ (sameCrc (flipAll (runGet s.loader.active n) l) (runGet
        s.loader.activeRef n) = false) ∧ (s.twinValid n = true) ∧ (runGet s.loader.staging n = runGet
        s.loader.activeRef n) ∧ (s.watch.mismatches < 64) ∧ (repaired s t n 5) ∧ (t.loader.staging =
        s.loader.staging) ∧ (t.loader.staged = s.loader.staged) ∧ (t.watch.mismatches = s.watch.mismatches + 1) ∧
        (t.watch.bad = s.watch.bad) ∧ (keptBut (.watch :: .loader :: logAreas) s t = true)) ∧
    (let repaired := fun (s t : State) (n sub : Nat) => next_readbackChecksAndRepairsFrames s t n ∧ runGet
        t.loader.active n = runGet s.loader.activeRef n ∧ others_readbackChecksAndRepairsFrames s.loader.active
        t.loader.active n ∧ t.reg 0x2900 sub = sat32 (s.reg 0x2900 sub + 1) ∧ t.reg 0x2900 9 = frameAddr n ∧ t.reg
        0x2900 0x0A = s.now;
    let s : State := wt 0 { mismatches := 63 } 1#2048 0#32;
    let n : Nat := 0;
    let k : Nat := 2047;
    let t : State := after (.frameCheck [k] [] .clean) s;
    (reads_readbackChecksAndRepairsFrames s n) ∧ (k < 2048) ∧ (s.twinValid n = true) ∧ (sameCrc (flipAll (runGet
        s.loader.active n) [k]) (runGet s.loader.activeRef n) = false) ∧ (sameCrc (runGet s.loader.staging n)
        (runGet s.loader.activeRef n) = false) ∧ (s.watch.mismatches < 64) ∧ (repaired s t n 6) ∧ (runGet
        t.loader.staging n = runGet s.loader.activeRef n) ∧ (others_readbackChecksAndRepairsFrames s.loader.staging
        t.loader.staging n) ∧ (t.reg 0x2900 7 = sat32 (s.reg 0x2900 7 + 1)) ∧ (t.loader.staged =
        (s.loader.staged.filter fun x => !x.regionMask.getLsbD (n / 34816))) ∧ (keptBut (.watch :: .loader ::
        .regions :: logAreas) s t = true)) ∧
    (let s : State := wt 34815 {} 9#2048 1#32;
    let n : Nat := 34815;
    let a : Nat := 0;
    let b : Nat := 1;
    let c : Nat := 2047;
    let t : State := after (.frameCheck [a, b, c] [] .clean) s;
    (reads_readbackChecksAndRepairsFrames s n) ∧ (s.twinValid n = false) ∧ (a < b) ∧ (b < c) ∧ (c < 2048) ∧
        (s.watch.mismatches < 64) ∧ (sameCrc (flipAll (runGet s.loader.active n) [a, b, c]) (runGet
        s.loader.activeRef n) = false) ∧ (next_readbackChecksAndRepairsFrames s t n) ∧ (t.watch.bad = n ::
        s.watch.bad) ∧ ((t.region (n / 34816)).fenced = true) ∧ (t.reg 0x2900 8 = sat32 (s.reg 0x2900 8 + 1)) ∧
        ((t.reg 0x2900 0x0C).testBit (n / 34816) = true) ∧ (runGet t.loader.active n = flipAll (runGet
        s.loader.active n) [a, b, c])) :=
  ⟨by decide +kernel, by decide +kernel, by decide +kernel, by decide +kernel, by decide +kernel, by decide +kernel⟩
theorem test_ReadbackChecksAndRepairsFrames_2 :
    (let s : State := wt 5 { mismatches := 64 } 9#2048 0#32;
    let n : Nat := 5;
    let k : Nat := 3;
    let t : State := after (.frameCheck [k] [] .clean) s;
    (reads_readbackChecksAndRepairsFrames s n) ∧ (k < 2048) ∧ (s.twinValid n = true) ∧ (runGet s.loader.staging n =
        runGet s.loader.activeRef n) ∧ (s.watch.mismatches = 64) ∧ (s.serving = true) ∧ (sameCrc (flipAll (runGet
        s.loader.active n) [k]) (runGet s.loader.activeRef n) = false) ∧ (s.dev.decidedAt = none) ∧ (t.dev.st =
        .safe) ∧ (t.aon.faultCode = 0x40D00002) ∧ (t.dev.cause = 0x40D00002) ∧ (t.dev.prev = s.dev.st)) ∧
    (let s : State := { F0 with watch := { ptr := 7, ptr2 := 7, ptr3 := 7, checked := 9, mismatches := 3 } };
    let us : Nat := 77;
    let t : State := after (.passEnd us) s;
    (s.watch.st = 0) ∧ (s.isArmed 0x2DD0 5 noFrame = false) ∧ (t.reg 0x2900 2 = sat32 (s.reg 0x2900 2 + 1)) ∧ (t.reg
        0x2900 3 = us) ∧ (t.reg 0x2900 4 = s.watch.checked) ∧ (t.watch.ptr = 0) ∧ (t.watch.mismatches = 0) ∧
        (keptBut [.watch, .dict] s t = true)) ∧
    (let s : State := F0;
    let t : State := after .heartbeatMissed s;
    (s.watch.st ≠ 1) ∧ (s.serving = true) ∧ (t.dev.st = .safe) ∧ (t.aon.faultCode = 0x40D00001)) ∧
    (let s : State := { F0 with watch := { st := 1 } };
    let t : State := after .heartbeatMissed s;
    (s.watch.st = 1) ∧ (t = s)) :=
  ⟨by decide +kernel, by decide +kernel, by decide +kernel, by decide +kernel⟩
theorem test_VoterAndScrubCorrect_1 :
    (let s : State := { F0 with watch := { ptr := 7, ptr2 := 8, ptr3 := 7 } };
    let t : State := after (.voterMismatch false) s;
    (s.watch.ptr2 ≠ s.watch.ptr) ∧ (s.watch.ptr3 = s.watch.ptr) ∧ (s.isArmed 0x2DD0 6 noFrame = false) ∧ (t.watch =
        { s.watch with ptr2 := s.watch.ptr }) ∧ (t.reg 0x2900 0x0B = sat32 (s.reg 0x2900 0x0B + 1)) ∧ (keptBut
        (.watch :: logAreas) s t = true)) ∧
    (let s : State := { F0 with watch := { ptr := 7, ptr2 := 7, ptr3 := 7 } };
    let t : State := after (.voterMismatch false) s;
    (s.watch.ptr2 = s.watch.ptr) ∧ (s.watch.ptr3 = s.watch.ptr) ∧ (t.reg 0x2900 0x0B = sat32 (s.reg 0x2900 0x0B +
        1)) ∧ (keptBut logAreas s t = true)) ∧
    (let s : State := F0;
    let t : State := after (.voterMismatch true) s;
    (t.watch = { s.watch with st := 2 }) ∧ (keptBut [.watch] s t = true)) ∧
    (let s : State := mm F0 { bm := [(k7, 0x00FFFF0F0F#40)] };
    let m : BmSel := m7;
    let a : Nat := 1023;
    let n : Nat := 31;
    let t0 : Nat := 100;
    let t : State := after (.onChipScrubAccess (.bm m) a (.single n) t0) s;
    (m.r < 32) ∧ (m.b < 64) ∧ (m.m < 8) ∧ (s.testHoldsAll = false) ∧ (s.underTest (.bm m) = false) ∧ ((s.toChip.upTo
        t0).bmMaintenance m = true) ∧ (s.bmBypass (bmWordKey m a) = false) ∧ (s.bmFlips (bmWordKey m a) = (0#40,
        false)) ∧ (high8 (s.bmStored (bmWordKey m a)) = 0#8) ∧ (((s.bmState (bmKey m.r m.b m.m)).lastA.map fun x =>
        x.addr) ≠ some (a % 1024)) ∧ (t.bmFlips (bmWordKey m a) = (0#40, false)) ∧ (t.bmStored k7 = s.bmStored k7) ∧
        (t.bmFlips k7 = s.bmFlips k7) ∧ (t.mem.demandBm = s.mem.demandBm) ∧ (t.reg (0x2500 + m.r) 0x14 = sat32
        (s.reg (0x2500 + m.r) 0x14 + 1)) ∧ (keptBut (.belfry :: .mem :: logAreas) s t = true)) ∧
    (let s : State := mm F0 { sp := [(65536 + 1023 * 16 + 5, 3#256)] };
    let r : Nat := 1;
    let k : Nat := 5;
    let a : Nat := 1023;
    let t0 : Nat := 100;
    let t : State := after (.onChipScrubAccess (.spBank r k) a .clean t0) s;
    (r < 32) ∧ (s.testHoldsAll = false) ∧ (s.underTest (.spBank r k) = false) ∧ ((s.toChip.upTo t0).spMaintenance r
        k = true) ∧ ((s.spFlips (spWordKey r (a % 4096 * 16 + k))).1 = 0#288) ∧ (t.mem.sp = s.mem.sp) ∧ (t.mem.bm =
        s.mem.bm) ∧ ((t.spFlips (spWordKey r (a % 4096 * 16 + k))).1 = 0#288) ∧ (keptBut [.belfry, .mem] s t = true)) ∧
    (let s : State := F0;
    let r : Nat := 1;
    let b : Nat := 63;
    let a : Nat := 4095;
    let t0 : Nat := 100;
    let t : State := after (.onChipScrubAccess (.cm r b) a .clean t0) s;
    (s.testHoldsAll = false) ∧ (s.underTest (.cm r b) = false) ∧ (((s.toChip.upTo t0).settleGroup ⟨r,
        b⟩).gmMaintenance ⟨r, b⟩ 1 = true) ∧ ((((s.toChip.upTo t0).settleGroup ⟨r, b⟩).gmErr ⟨r, b⟩ 1 (a % 16384)).1
        = 0) ∧ (t.slices.cm = ((s.toChip.upTo t0).settleGroup ⟨r, b⟩).slices.cm) ∧ (t.slices.im = ((s.toChip.upTo
        t0).settleGroup ⟨r, b⟩).slices.im)) :=
  ⟨by decide +kernel, by decide +kernel, by decide +kernel, by decide +kernel, by decide +kernel, by decide +kernel⟩
theorem test_VoterAndScrubCorrect_2 :
    (let s : State := { mm F0 { bm := [(k7, 5#40)] } with test := { S0b.test with onDemand := some { action := 1, r := 1, b := 63 } } };
    let m : BmSel := m7;
    let a : Nat := 1023;
    let n : Nat := 31;
    let t0 : Nat := 100;
    let t : State := after (.onChipScrubAccess (.bm m) a (.single n) t0) s;
    (s.underTest (.bm m) = true) ∧ (keptBut [.belfry] s t = true)) ∧
    (let s : State := F0;
    let d : Bool := true;
    let u : Nat := 9;
    let t : State := after (.scrubPeriodEnd d u) s;
    (t.reg 0x2910 6 = sat32 (s.reg 0x2910 6 + 1)) ∧ (keptBut logAreas s t = true)) :=
  ⟨by decide +kernel, by decide +kernel⟩
abbrev quiet_selfTestsRunAndReport := fun (s : State) => s.reg 0x2D00 1 = 0 ∧ s.reg 0x2D00 2 = 0
abbrev holds_selfTestsRunAndReport := fun (s t : State) (q : Req) (o : OnDemand) => (t.cmd (cmdKey 0x2E29)).busy =
    some q.owner ∧ t.status 0x2E29 q.owner = 1 ∧ t.test.onDemand = some o ∧ keptBut (.belfry :: .test :: .hub ::
    answerAreas) s t = true
theorem test_SelfTestsRunAndReport_1 :
    (let s : State := ts S0b { st := 1, index := 0, failures := [] };
    let l : List (BitVec 64) := [0x20FE1C0500000003#64];
    let n : Nat := 3;
    let t : State := after (.selfTestStepEnd l n) s;
    (quiet_selfTestsRunAndReport s) ∧ (s.serving = true) ∧ (s.test.st = 1) ∧ (s.test.index < 39) ∧ (t.test.index =
        s.test.index + 1) ∧ (t.test.patterns = s.test.patterns + n) ∧ (t.test.failures = (s.test.failures ++ l).take
        256) ∧ (t.test.st = 1) ∧ (keptBut [.test] s t = true)) ∧
    (let s : State := ts S0b { st := 1, index := 38, failures := List.replicate 256 0#64 };
    let l : List (BitVec 64) := [0x20FE1C0500000003#64];
    let n : Nat := 3;
    let t : State := after (.selfTestStepEnd l n) s;
    (quiet_selfTestsRunAndReport s) ∧ (s.serving = true) ∧ (s.test.st = 1) ∧ (s.test.index < 39) ∧ (t.test.index =
        s.test.index + 1) ∧ (t.test.patterns = s.test.patterns + n) ∧ (t.test.failures = (s.test.failures ++ l).take
        256) ∧ (t.test.st = 1) ∧ (keptBut [.test] s t = true)) ∧
    (let s : State := { (ts S0b { st := 1, index := 39, failures := [] }) with mem := { bm := [(5, 1#40), (k7, 5#40)], sp := [(5, 3#256)] }, loader := { active := [{ first := 0, count := 3, frame := 9#2048 }] } };
    let l : List (BitVec 64) := [];
    let n : Nat := 3;
    let r : Nat := 0;
    let t : State := after (.selfTestStepEnd l n) s;
    (quiet_selfTestsRunAndReport s) ∧ (s.serving = true) ∧ (s.test.st = 1) ∧ (s.test.index = 39) ∧ (s.test.tooMany =
        false) ∧ ((s.test.failures ++ l).length ≤ 256) ∧ (r = (if s.test.failures ++ l = [] then 0 else if
        (s.test.failures ++ l).all failsMemory then 1 else 2)) ∧ (t.test.st = 3 + r) ∧ (t.test.record.map (fun x =>
        (x.kind, x.result, x.index)) = some (2, r, 40)) ∧ (t.dev.selftestOk = (if r = 2 then s.dev.selftestOk else
        true)) ∧ (t.watch.st = 0) ∧ (t.aon = { s.aon with intact := true, powerLoss := false }) ∧ (t.reg 0x2040 6 =
        sat32 (s.reg 0x2040 6 + 1)) ∧ ([0, 5, k7].all (fun k => Mem.get t.mem.bm k == 0#40) = true) ∧ ([0, 2, 3].all
        (fun n => runGet t.loader.active n == 0#2048) = true) ∧ (t.mem.badBm = if r = 1 then [1 * 512 + 63 * 8 + 7]
        else [])) ∧
    (let s : State := { (ts S0b { st := 1, index := 39, failures := [0x20FE1C0500000003#64] }) with mem := { bm := [(5, 1#40), (k7, 5#40)], sp := [(5, 3#256)] }, loader := { active := [{ first := 0, count := 3, frame := 9#2048 }] } };
    let l : List (BitVec 64) := [0x60FE00000000FFFF#64];
    let n : Nat := 3;
    let r : Nat := 2;
    let t : State := after (.selfTestStepEnd l n) s;
    (quiet_selfTestsRunAndReport s) ∧ (s.serving = true) ∧ (s.test.st = 1) ∧ (s.test.index = 39) ∧ (s.test.tooMany =
        false) ∧ ((s.test.failures ++ l).length ≤ 256) ∧ (r = (if s.test.failures ++ l = [] then 0 else if
        (s.test.failures ++ l).all failsMemory then 1 else 2)) ∧ (t.test.st = 3 + r) ∧ (t.test.record.map (fun x =>
        (x.kind, x.result, x.index)) = some (2, r, 40)) ∧ (t.dev.selftestOk = (if r = 2 then s.dev.selftestOk else
        true)) ∧ (t.watch.st = 0) ∧ (t.aon = { s.aon with intact := true, powerLoss := false }) ∧ (t.reg 0x2040 6 =
        sat32 (s.reg 0x2040 6 + 1)) ∧ ([0, 5, k7].all (fun k => Mem.get t.mem.bm k == 0#40) = true) ∧ ([0, 2, 3].all
        (fun n => runGet t.loader.active n == 0#2048) = true) ∧ (t.mem.badBm = if r = 1 then [1 * 512 + 63 * 8 + 7]
        else [])) ∧
    (let s : State := { (ts S0b { st := 2, index := 0, patterns := 50 }) with dev := { S0b.dev with st := .closing, closingStage := 2 } };
    let l : List (BitVec 64) := [];
    let n : Nat := 3;
    let t : State := after (.selfTestStepEnd l n) s;
    (quiet_selfTestsRunAndReport s) ∧ (s.dev.st = .closing) ∧ (s.dev.closingStage = 2) ∧ (t.test.index =
        s.test.index + 1) ∧ (t.dev = { s.dev with power := (if (s.test.index + 1) % 5 = 0 then s.dev.power &&& ~~~(1#20 <<< (2 + (s.test.index + 1) / 5)) else s.dev.power), closingStage := if s.test.index + 1 = 40 then 3 else 2 })
        ∧ (keptBut [.test, .dev] s t = true)) ∧
    (let s : State := { (ts S0b { st := 2, index := 39, patterns := 50 }) with dev := { S0b.dev with st := .closing, closingStage := 2 } };
    let l : List (BitVec 64) := [];
    let n : Nat := 3;
    let t : State := after (.selfTestStepEnd l n) s;
    (quiet_selfTestsRunAndReport s) ∧ (s.dev.st = .closing) ∧ (s.dev.closingStage = 2) ∧ (t.test.index =
        s.test.index + 1) ∧ (t.dev = { s.dev with power := (if (s.test.index + 1) % 5 = 0 then s.dev.power &&& ~~~(1#20 <<< (2 + (s.test.index + 1) / 5)) else s.dev.power), closingStage := if s.test.index + 1 = 40 then 3 else 2 })
        ∧ (keptBut [.test, .dev] s t = true)) :=
  ⟨by decide +kernel, by decide +kernel, by decide +kernel, by decide +kernel, by decide +kernel, by decide +kernel⟩
theorem test_SelfTestsRunAndReport_2 :
    (let s : State := { (ts S0b { st := 2, index := 40, patterns := 50 }) with dev := { S0b.dev with st := .closing, closingStage := 3 } };
    let t : State := after .recordSealed s;
    (s.dev.st = .closing) ∧ (s.dev.closingStage = 3) ∧ (s.test.index = 40) ∧ (t.dev.st = .standby) ∧ (t.dev.power =
        1#20) ∧ (t.aon = { s.aon with intact := true, powerLoss := false }) ∧ (t.test.record.map (fun x => (x.kind,
        x.index, x.patterns, x.seq, x.sealed)) = some (1, 40, s.test.patterns, s.aon.seq, s.aon.seconds)) ∧
        (t.test.record.map (fun x => (x.result, x.entries)) = some (testResult s.test.failures s.test.tooMany,
        (s.test.failures ++ s.test.kept).take 256))) ∧
    (let i : Req → Nat → Nat → Nat → Instr := Instr.testBlockMemories;
    let k : Nat := 1;
    let s : State := S0b;
    let q : Req := q0;
    let n : Nat := 4;
    let r : Nat := 1;
    let b : Nat := 63;
    let t : State := after (i q n r b) s;
    (CommandTaken s q 0x2E29 n [(3, k), (4, r), (5, b)] = true) ∧ ((s.served q).testRefusal q.owner k r b = 0) ∧
        (holds_selfTestsRunAndReport s t q { action := k, r := r, b := b }) ∧ (t.hub = s.hub)) ∧
    (let i : Req → Nat → Nat → Nat → Instr := Instr.testGroupMemories;
    let k : Nat := 3;
    let s : State := S0b;
    let q : Req := q0;
    let n : Nat := 4;
    let r : Nat := 1;
    let b : Nat := 63;
    let t : State := after (i q n r b) s;
    (CommandTaken s q 0x2E29 n [(3, k), (4, r), (5, b)] = true) ∧ ((s.served q).testRefusal q.owner k r b = 0) ∧
        (holds_selfTestsRunAndReport s t q { action := k, r := r, b := b }) ∧ (t.hub = s.hub)) ∧
    (let s : State := { S0b with hub := Hb };
    let q : Req := q0;
    let n : Nat := 4;
    let c : Nat := 1;
    let t : State := after (.testDramChannel q n c) s;
    (CommandTaken s q 0x2E29 n [(3, 4), (4, c)] = true) ∧ ((s.served q).testRefusal q.owner 4 c (s.reg 0x2E29 5) =
        0) ∧ (holds_selfTestsRunAndReport s t q { action := 4, r := c, b := s.reg 0x2E29 5 }) ∧ ((t.channel
        c).underTest = true)) ∧
    (let s : State := rb (ts F0 { st := 5, failures := [0x60FE00000000FFFF#64], record := some { kind := 2, result := 2, index := 40, patterns := 0, expected := 0, entries := [0x60FE00000000FFFF#64], overflow := false, seq := 0, sealed := 0, macOk := true } })
        { P0 with committed := false, status := .none, regions := 0#32 };
    let q : Req := q0;
    let n : Nat := 4;
    let t : State := after (.acceptPowerUpResult q n) s;
    (CommandTaken s q 0x2E29 n [(3, 5)] = true) ∧ ((s.served q).testRefusal q.owner 5 (s.reg 0x2E29 4) (s.reg 0x2E29
        5) = 0) ∧ (t.status 0x2E29 q.owner = 0) ∧ (t.test.st = 6) ∧ (t.dev.selftestOk = true) ∧ (t.test.excluded =
        2#32) ∧ (∀ p, p < 40 → (t.part p).claim = (s.part p).claim &&& ~~~t.test.excluded)) ∧
    (let s : State := { (cm S0b 0x2E29 { busy := some 0 }) with test := { S0b.test with onDemand := some { action := 1, r := 1, b := 63 } }, mem := { bm := [(5, 1#40), (k7, 5#40)], sp := [(65536 + 15, 3#256), (65536 + 31, 3#256)] }, slices := { ds := [(memKey g8 4095, 3#16)] } };
    let o : OnDemand := { action := 1, r := 1, b := 63 };
    let l : List (BitVec 64) := [];
    let us : Nat := 9;
    let w : Nat := 0;
    let t : State := after (.onDemandTestEnd l us) s;
    (quiet_selfTestsRunAndReport s) ∧ (s.test.onDemand = some o) ∧ (1 ≤ o.action) ∧ (o.action ≤ 3) ∧ ((s.cmd
        0x2E29).busy = some w) ∧ (t.test.onDemand = none) ∧ ((t.cmd 0x2E29).busy = none) ∧ (t.status 0x2E29 w = (if
        l = [] then 0 else 5)) ∧ (t.reg 0x2982 2 = l.length) ∧ (t.reg 0x2982 4 = us) ∧ ((o.action = 1 → [k7, bmKey 1
        63 0 * 1024].all (fun k => Mem.get t.mem.bm k == 0#40) = true)) ∧ ((o.action = 2 → [65536 + 15, 65536 +
        31].all (fun k => Mem.get t.mem.sp k == 0#256) = true)) ∧ ((o.action = 3 → Mem.get t.slices.ds (memKey g8
        4095) = 0#16)) ∧ (keptBut (.test :: .mem :: .slices :: logAreas) s t = true)) :=
  ⟨by decide +kernel, by decide +kernel, by decide +kernel, by decide +kernel, by decide +kernel, by decide +kernel⟩
theorem test_SelfTestsRunAndReport_3 :
    let s : State := { (cm S0b 0x2E29 { busy := some 0 }) with test := { S0b.test with onDemand := some { action := 3, r := 1, b := 63 } }, mem := { bm := [(5, 1#40), (k7, 5#40)], sp := [(65536 + 15, 3#256), (65536 + 31, 3#256)] }, slices := { ds := [(memKey g8 4095, 3#16)] } };
    let o : OnDemand := { action := 3, r := 1, b := 63 };
    let l : List (BitVec 64) := [0x20FE1C0500000003#64];
    let us : Nat := 9;
    let w : Nat := 0;
    let t : State := after (.onDemandTestEnd l us) s;
    (quiet_selfTestsRunAndReport s) ∧ (s.test.onDemand = some o) ∧ (1 ≤ o.action) ∧ (o.action ≤ 3) ∧ ((s.cmd
        0x2E29).busy = some w) ∧ (t.test.onDemand = none) ∧ ((t.cmd 0x2E29).busy = none) ∧ (t.status 0x2E29 w = (if
        l = [] then 0 else 5)) ∧ (t.reg 0x2982 2 = l.length) ∧ (t.reg 0x2982 4 = us) ∧ ((o.action = 1 → [k7, bmKey 1
        63 0 * 1024].all (fun k => Mem.get t.mem.bm k == 0#40) = true)) ∧ ((o.action = 2 → [65536 + 15, 65536 +
        31].all (fun k => Mem.get t.mem.sp k == 0#256) = true)) ∧ ((o.action = 3 → Mem.get t.slices.ds (memKey g8
        4095) = 0#16)) ∧ (keptBut (.test :: .mem :: .slices :: logAreas) s t = true) := by decide +kernel

/-! ### Witnesses of chapter 15 -/

abbrev free_flashAndKeyCommandsTakeEffect := fun (s : State) (q : Req) (a : Nat) => (s.served q).flashNoRight q.owner
    a = false ∧ s.lantern.op = none
abbrev began_flashAndKeyCommandsTakeEffect := fun (s t : State) (q : Req) (a : Nat) => (t.cmd (cmdKey 0x2E2A)).busy =
    some q.owner ∧ t.status 0x2E2A q.owner = 1 ∧ t.lantern = { s.lantern with op := some { action := a, owner := q.owner, foe := false } }
    ∧ keptBut (.belfry :: .lantern :: answerAreas) s t = true
abbrev runs_flashAndKeyCommandsTakeEffect := fun (s : State) (a o : Nat) => s.lantern.op = some { action := a, owner := o, foe := false }
    ∧ (s.cmd 0x2E2A).busy = some o
abbrev ended_flashAndKeyCommandsTakeEffect := fun (s t : State) (o st : Nat) => t.lantern.op = none ∧ (t.cmd
    0x2E2A).busy = none ∧ t.status 0x2E2A o = st ∧ keptBut (.lantern :: .loader :: logAreas) s t = true
abbrev slot_flashAndKeyCommandsTakeEffect := fun (s : State) (isB : Bool) => if isB then s.lantern.slotB else
    s.lantern.slotA
abbrev key_flashAndKeyCommandsTakeEffect := fun (s : State) (q : Req) (n a k : Nat) => CommandTaken s q 0x2E2C n [(3,
    a), (4, k)] = true ∧ (a = 3 ∨ (s.served q).keyNoRight q.owner k = false) ∧ (s.keySlot k).revoked = false
abbrev keyed_flashAndKeyCommandsTakeEffect := fun (s t : State) (q : Req) (k : Nat) (x : KeySlot) => t.keySlot k = x ∧
    (∀ i, i < 16 → i ≠ k → t.keySlot i = s.keySlot i) ∧ t.status 0x2E2C q.owner = 0 ∧ t.reg 0x2040 6 = sat32 (s.reg
    0x2040 6 + 1) ∧ keptBut (.belfry :: .lantern :: .dbg :: logAreas) s t = true
theorem test_FlashAndKeyCommandsTakeEffect_1 :
    (let s : State := S0b;
    let q : Req := q1;
    let n : Nat := 4;
    let a : Nat := 4096;
    let e : Nat := 1;
    let t : State := after (.flashWriteImage q n a e) s;
    (CommandTaken s q 0x2E2A n [(3, 1), (4, a), (5, e)] = true) ∧ (free_flashAndKeyCommandsTakeEffect s q 1) ∧
        (s.imageConfirmed = true) ∧ (began_flashAndKeyCommandsTakeEffect s t q 1)) ∧
    (let s : State := S0b;
    let q : Req := q1;
    let n : Nat := 4;
    let a : Nat := 4096;
    let e : Nat := 1;
    let t : State := after (.writeBootStreamEntry0 q n a e) s;
    (CommandTaken s q 0x2E2A n [(3, 4), (4, a), (5, e)] = true) ∧ (free_flashAndKeyCommandsTakeEffect s q 4) ∧
        (s.loaderOnFlash = false) ∧ (began_flashAndKeyCommandsTakeEffect s t q 4)) ∧
    (let s : State := S0b;
    let q : Req := q1;
    let n : Nat := 4;
    let a : Nat := 4096;
    let e : Nat := 1;
    let t : State := after (.writeBootStreamEntry1 q n a e) s;
    (CommandTaken s q 0x2E2A n [(3, 5), (4, a), (5, e)] = true) ∧ (free_flashAndKeyCommandsTakeEffect s q 5) ∧
        (s.loaderOnFlash = false) ∧ (began_flashAndKeyCommandsTakeEffect s t q 5)) ∧
    (let s : State := S0b;
    let q : Req := q0;
    let n : Nat := 4;
    let a : Nat := 4096;
    let e : Nat := 1;
    let t : State := after (.flashWriteImage q n a e) s;
    (CommandTaken s q 0x2E2A n [(3, 1), (4, a), (5, e)] = true) ∧ ((s.served q).flashNoRight q.owner 1 = true) ∧
        (t.status 0x2E2A q.owner = 2) ∧ (t.lantern = s.lantern)) ∧
    (let s : State := la S0b { rollback := 5, slotB := { version := 9 }, slotA := { version := 1, rollback := 7, valid := true }, confirmed := none, trial := true };
    let q : Req := q0;
    let n : Nat := 4;
    let t : State := after (.confirmImage q n) s;
    (CommandTaken s q 0x2E2A n [(3, 2)] = true) ∧ (free_flashAndKeyCommandsTakeEffect s q 2) ∧ (s.imageConfirmed =
        false) ∧ (t.status 0x2E2A q.owner = 0) ∧ (t.lantern.confirmed = some s.lantern.runB) ∧ (t.lantern.trial =
        false) ∧ (t.lantern.pendingSlot ≠ some s.lantern.runB) ∧ (keptBut (.belfry :: .lantern :: .dbg :: logAreas)
        s t = true)) ∧
    (let s : State := la S0b { rollback := 5, slotB := { version := 9 }, slotA := { version := 1, rollback := 7, valid := true } };
    let q : Req := q0;
    let n : Nat := 4;
    let t : State := after (.advanceRollback q n) s;
    (CommandTaken s q 0x2E2A n [(3, 3)] = true) ∧ (free_flashAndKeyCommandsTakeEffect s q 3) ∧ (s.imageConfirmed =
        true) ∧ (t.status 0x2E2A q.owner = 0) ∧ (t.lantern.rollback = max s.lantern.rollback s.runningSlot.rollback)
        ∧ (t.lantern.confirmed = s.lantern.confirmed) ∧ (keptBut (.belfry :: .lantern :: .dbg :: logAreas) s t =
        true)) :=
  ⟨by decide +kernel, by decide +kernel, by decide +kernel, by decide +kernel, by decide +kernel, by decide +kernel⟩
theorem test_FlashAndKeyCommandsTakeEffect_2 :
    (let s : State := fop 1 true;
    let o : Nat := 1;
    let v : Nat := 2;
    let rb : Nat := 64;
    let len : Nat := 0;
    let p : List Nat := [1, 2];
    let t : State := after (.flashOperationEnd (.valid v rb len p)) s;
    (runs_flashAndKeyCommandsTakeEffect s 1 o) ∧ (s.dev.recovery = false) ∧ (s.lantern.rollback ≤ rb) ∧ (rb ≤ 64) ∧
        (ended_flashAndKeyCommandsTakeEffect s t o 0) ∧ (slot_flashAndKeyCommandsTakeEffect t (!s.lantern.runB) = { version := v, rollback := rb, valid := true, policy := p })
        ∧ (slot_flashAndKeyCommandsTakeEffect t s.lantern.runB = slot_flashAndKeyCommandsTakeEffect s
        s.lantern.runB) ∧ (t.lantern.pendingSlot = some (!s.lantern.runB))) ∧
    (let s : State := fop 1 true;
    let o : Nat := 1;
    let v : Nat := 2;
    let rb : Nat := 4;
    let len : Nat := 0;
    let p : List Nat := [1, 2];
    let t : State := after (.flashOperationEnd (.valid v rb len p)) s;
    (runs_flashAndKeyCommandsTakeEffect s 1 o) ∧ (s.dev.recovery = false) ∧ (rb < s.lantern.rollback) ∧
        (ended_flashAndKeyCommandsTakeEffect s t o 4) ∧ (slot_flashAndKeyCommandsTakeEffect t (!s.lantern.runB) =
        {}) ∧ (slot_flashAndKeyCommandsTakeEffect t s.lantern.runB = slot_flashAndKeyCommandsTakeEffect s
        s.lantern.runB) ∧ (t.lantern.pendingSlot = none)) ∧
    (let out : FlashOutcome := FlashOutcome.invalid;
    let st : Nat := 4;
    let s : State := fop 1 true;
    let o : Nat := 1;
    let a : Nat := 1;
    let t : State := after (.flashOperationEnd out) s;
    (runs_flashAndKeyCommandsTakeEffect s a o) ∧ (s.dev.recovery = false) ∧ (ended_flashAndKeyCommandsTakeEffect s t
        o st) ∧ (t.loader = s.loader) ∧ (a = 1 → slot_flashAndKeyCommandsTakeEffect t (!s.lantern.runB) = {} ∧
        t.lantern.pendingSlot = none) ∧ (slot_flashAndKeyCommandsTakeEffect t s.lantern.runB =
        slot_flashAndKeyCommandsTakeEffect s s.lantern.runB)) ∧
    (let out : FlashOutcome := FlashOutcome.flashError;
    let st : Nat := 6;
    let s : State := fop 1 true;
    let o : Nat := 1;
    let a : Nat := 1;
    let t : State := after (.flashOperationEnd out) s;
    (runs_flashAndKeyCommandsTakeEffect s a o) ∧ (s.dev.recovery = false) ∧ (ended_flashAndKeyCommandsTakeEffect s t
        o st) ∧ (t.loader = s.loader) ∧ (a = 1 → slot_flashAndKeyCommandsTakeEffect t (!s.lantern.runB) = {} ∧
        t.lantern.pendingSlot = none) ∧ (slot_flashAndKeyCommandsTakeEffect t s.lantern.runB =
        slot_flashAndKeyCommandsTakeEffect s s.lantern.runB)) ∧
    (let s : State := fop 4 true;
    let o : Nat := 1;
    let a : Nat := 4;
    let v : Nat := 0;
    let rb : Nat := 0;
    let len : Nat := 777;
    let p : List Nat := [];
    let t : State := after (.flashOperationEnd (.valid v rb len p)) s;
    (runs_flashAndKeyCommandsTakeEffect s a o) ∧ (a = 4 ∨ a = 5) ∧ (ended_flashAndKeyCommandsTakeEffect s t o 0) ∧
        (t.loader = (if a = 4 then { s.loader with dir0 := len } else { s.loader with dir1 := len }))) ∧
    (let s : State := fop 5 true;
    let o : Nat := 1;
    let a : Nat := 5;
    let v : Nat := 0;
    let rb : Nat := 0;
    let len : Nat := 777;
    let p : List Nat := [];
    let t : State := after (.flashOperationEnd (.valid v rb len p)) s;
    (runs_flashAndKeyCommandsTakeEffect s a o) ∧ (a = 4 ∨ a = 5) ∧ (ended_flashAndKeyCommandsTakeEffect s t o 0) ∧
        (t.loader = (if a = 4 then { s.loader with dir0 := len } else { s.loader with dir1 := len }))) :=
  ⟨by decide +kernel, by decide +kernel, by decide +kernel, by decide +kernel, by decide +kernel, by decide +kernel⟩
theorem test_FlashAndKeyCommandsTakeEffect_3 :
    (let s : State := la S0b { keys := [(3, { owner := some 1 }), (15, { owner := some 1 })] };
    let q : Req := q1;
    let n : Nat := 4;
    let k : Nat := 7;
    let d : Bytes := List.replicate 137 1#8;
    let t : State := after (.installKey q n k d) s;
    (key_flashAndKeyCommandsTakeEffect s q n 1 k) ∧ (BytesAllowed s q 0x2E2C 5 d.length = true)) ∧
    (let s : State := la S0b { keys := [(3, { owner := some 1 }), (15, { owner := some 1 })] };
    let q : Req := q1;
    let n : Nat := 4;
    let k : Nat := 15;
    let t : State := after (.deleteKey q n k) s;
    (key_flashAndKeyCommandsTakeEffect s q n 2 k) ∧ (keyed_flashAndKeyCommandsTakeEffect s t q k {}) ∧ (t.free =
        s.free)) ∧
    (let s : State := la S0b { keys := [(3, { owner := some 1 }), (15, { owner := some 1 })] };
    let q : Req := q0;
    let n : Nat := 4;
    let k : Nat := 15;
    let t : State := after (.revokeKey q n k) s;
    (key_flashAndKeyCommandsTakeEffect s q n 3 k) ∧ (q.owner = 0) ∧ (keyed_flashAndKeyCommandsTakeEffect s t q k { revoked := true })
        ∧ (t.free = s.free)) :=
  ⟨by decide +kernel, by decide +kernel, by decide +kernel⟩
abbrev plain_lanternWatchesAndLogs := fun (s : State) => s.powered 1 = true ∧ s.reg 0x2DE0 2 = 0x7FFF ∧
    s.loader.commit = none ∧ s.inject.armed = []
theorem test_LanternWatchesAndLogs_1 :
    (let tenths := fun (v : Nat) => signed 16 v;
    let s : State := S0b;
    let l : List Int := (List.range 40).map fun n => (n : Int) + 100;
    let t0 : Nat := 9;
    let t : State := after (.sensorSample (l.map some) t0) s;
    (plain_lanternWatchesAndLogs s) ∧ (l.length = 40) ∧ (s.lantern.failed = 0#64) ∧ (s.lantern.warm = 0#64) ∧
        (s.lantern.warning = false) ∧ (∀ v ∈ l, v < tenths (s.reg 0x2A00 1) ∧ v < 420) ∧ (∀ n, n < 40 → Tab.get 0
        t.lantern.temps n = l.getD n 0) ∧ (t.lantern.warm = 0#64) ∧ (t.lantern.failed = 0#64) ∧ (t.lantern.highest =
        some 139) ∧ (keptBut [.belfry, .lantern] s t = true)) ∧
    (let s : State := la S0b { hotRuns := [(39, 1)] };
    let l : List (Option Int) := (List.range 40).map fun n => if n = 39 then some 420 else some 100;
    let t0 : Nat := 9;
    let n : Nat := 39;
    let v : Int := 420;
    let t : State := after (.sensorSample l t0) s;
    (plain_lanternWatchesAndLogs s) ∧ (s.serving = true) ∧ (n < 40) ∧ (l.getD n none = some v) ∧ (420 ≤ v) ∧
        (s.lantern.failed.getLsbD n = false) ∧ (Tab.get 0 s.lantern.hotRuns n = 1) ∧ (t.dev.st = .safe) ∧ (Tab.get 0
        t.lantern.temps n = v) ∧ (Tab.get 0 t.lantern.hotRuns n = 2)) ∧
    (let s : State := la S0b { invalid := [(0, 9)] };
    let l : List (Option Int) := (List.range 40).map fun n => if n = 0 then none else some 100;
    let t0 : Nat := 9;
    let n : Nat := 0;
    let t : State := after (.sensorSample l t0) s;
    (plain_lanternWatchesAndLogs s) ∧ (n < 40) ∧ (l.getD n none = none) ∧ (Tab.get 0 s.lantern.invalid n = 9) ∧
        (t.lantern.failed.getLsbD n = true)) ∧
    (let s : State := S0b;
    let t : State := after (.watchdogKick 0xA5C3#32) s;
    (s.lantern.running = true) ∧ (t.lantern = { s.lantern with kickHalf := true }) ∧ (keptBut [.lantern] s t = true)) ∧
    (let s : State := la S0b { kickHalf := true, remaining := 5 };
    let t : State := after (.watchdogKick 0x3C5A#32) s;
    (s.lantern.running = true) ∧ (s.lantern.kickHalf = true) ∧ (s.lantern.held = false) ∧ (t.lantern = { s.lantern with kickHalf := false, remaining := s.reg 0x2030 1, reloadAt := s.now })
        ∧ (keptBut [.lantern] s t = true)) ∧
    (let s : State := S0b;
    let v : BitVec 32 := 5#32;
    let t : State := after (.watchdogKick v) s;
    (s.lantern.running = true) ∧ (v ≠ 0xA5C3#32) ∧ (v ≠ 0x3C5A#32) ∧ (s.serving = true) ∧ (t.dev.st = .safe) ∧
        (t.dev.cause = 0x40E00010) ∧ (t.lantern.running = false) ∧ (t.aon.expiries = sat32 (s.aon.expiries + 1))) :=
  ⟨by decide +kernel, by decide +kernel, by decide +kernel, by decide +kernel, by decide +kernel, by decide +kernel⟩
theorem test_LanternWatchesAndLogs_2 :
    (let s : State := S0b;
    let q : Req := q0;
    let v : Nat := 2000;
    let t : State := after (.watchdogTimeoutWrite q v) s;
    (WriteAllowed s q 0x2030 1 v = true) ∧ (t.reply q.owner = .done) ∧ (t.reg 0x2030 1 = v) ∧ (t.lantern = { s.lantern with remaining := v, reloadAt := max s.now q.t % 2 ^ 64 })
        ∧ (keptBut (.belfry :: .lantern :: answerAreas) s t = true)) ∧
    (let s : State := S0b;
    let t0 : Nat := 9;
    let t : State := after (.watchdogExpiry t0) s;
    (s.watchdogCounts t0 = true) ∧ (s.powered 1 = true) ∧ (s.serving = true) ∧ (t.dev.st = .safe) ∧ (t.dev.cause =
        0x40E00010) ∧ (t.lantern.running = false) ∧ (t.lantern.wdogSeen = true) ∧ (t.aon.expiries = sat32
        (s.aon.expiries + 1))) ∧
    (let s : State := la S0b { held := true, heldAt := some 39 };
    let t0 : Nat := 40;
    let n : Nat := 39;
    let t : State := after (.watchdogExpiry t0) s;
    (s.lantern.held = true) ∧ (s.lantern.heldAt = some n) ∧ (n / 40 ≠ t0 / 40) ∧ (t = s)) ∧
    (let s : State := la S0b { held := true, heldAt := some 39 };
    let t0 : Nat := 9;
    let n : Nat := 39;
    (s.lantern.held = false ∨ s.lantern.heldAt = some n ∧ n / 40 = t0 / 40) ∧ (s.watchdogCounts t0 = true)) ∧
    (let s : State := la S0b { held := false, heldAt := some 39 };
    let t0 : Nat := 9;
    let n : Nat := 39;
    (s.lantern.held = false ∨ s.lantern.heldAt = some n ∧ n / 40 = t0 / 40) ∧ (s.watchdogCounts t0 = true)) ∧
    (let s : State := S0b;
    let t0 : Nat := 9;
    let t : State := after (.sramError false t0) s;
    (s.powered 1 = true) ∧ (t.lantern.sramCorrected = true) ∧ (t.reg 0x2002 7 = sat32 (s.reg 0x2002 7 + 1)) ∧
        (t.dev.st = s.dev.st) ∧ (keptBut (.belfry :: .lantern :: logAreas) s t = true)) :=
  ⟨by decide +kernel, by decide +kernel, by decide +kernel, by decide +kernel, by decide +kernel, by decide +kernel⟩
theorem test_LanternWatchesAndLogs_3 :
    (let s : State := S0b;
    let t0 : Nat := 9;
    let t : State := after (.sramError true t0) s;
    (s.powered 1 = true) ∧ (s.serving = true) ∧ (t.dev.st = .safe) ∧ (t.dev.cause = 0x40E00011) ∧ (t.lantern.running
        = false)) ∧
    (let s : State := { S0b with log := { next := 4, recent := [lge 1, lge 2, lge 3], ring := [lge 0, lge 1], pending := 2 } };
    let n : Nat := 1;
    let t : State := after (.logRingWrite n) s;
    (s.lanternServes = true) ∧ (n ≤ s.log.pending) ∧ (s.log.pending ≤ s.log.recent.length) ∧ (t.log.ring =
        (s.log.ring ++ (s.log.recent.drop (s.log.recent.length - s.log.pending)).take n).drop (s.log.ring.length + n
        - 8192)) ∧ (t.log.pending + n = s.log.pending) ∧ (t.log.recent = s.log.recent) ∧ (t.log.next = s.log.next) ∧
        (keptBut [.log] s t = true)) ∧
    (let entries := fun (s : State) (q : Req) => (s.log.held.filter fun x => seqAfter x.seq (s.logStart
        q.owner)).take (s.logCount q.owner);
    let s : State := { S0b with log := { next := 4, recent := [lge 1, lge 2, lge 3], ring := [lge 0, lge 1], pending := 2 } };
    let q : Req := q1;
    let e : LogEntry := lge 0;
    let l : List LogEntry := [lge 1, lge 2, lge 3];
    let t : State := after (.logRead q) s;
    (s.dictAlive = true) ∧ (s.lanternServes = true) ∧ (s.log.held = e :: l) ∧ (s.logStart q.owner = e.seq ∨ seqAfter
        e.seq (s.logStart q.owner) = false) ∧ (t.reply q.owner = .data ((entries s q).flatMap LogEntry.bytes)) ∧
        (t.logStart q.owner = 4) ∧ (t.log = s.log) ∧ (keptBut (.belfry :: answerAreas) s t = true)) ∧
    (let s : State := S0b;
    let q : Req := q1;
    let t : State := after (.logRead q) s;
    (s.dictAlive = true) ∧ (s.lanternServes = true) ∧ (s.log.held = []) ∧ (t.reply q.owner = .data []) ∧ (t.logStart
        q.owner = s.logStart q.owner) ∧ (t.log = s.log) ∧ (keptBut (.belfry :: answerAreas) s t = true)) ∧
    (let s : State := { S0b with log := { next := 4, recent := [lge 1, lge 2, lge 3], pending := 3 } };
    let q : Req := q1;
    let e : LogEntry := lge 1;
    let l : List LogEntry := [lge 2, lge 3];
    let t : State := after (.logRead q) s;
    (s.dictAlive = true) ∧ (s.lanternServes = true) ∧ (s.log.held = e :: l) ∧ (s.logStart q.owner ≠ e.seq) ∧
        (seqAfter e.seq (s.logStart q.owner) = true) ∧ (t.reply q.owner = .abort 0x06090030) ∧ (t.logStart q.owner =
        s.logStart q.owner)) ∧
    (let s : State := la S0b { logLoss := true, wdogSeen := true, sramCorrected := true, fwFallback := true };
    let q : Req := q0;
    let m : BitVec 32 := 0x840#32;
    let t : State := after (.clearSticky q m) s;
    (WriteAllowed s q 0x2002 2 m.toNat = true) ∧ (t.reply q.owner = .done) ∧ (t.lantern = { s.lantern with logLoss := s.lantern.logLoss && !m.getLsbD 11, fwFallback := s.lantern.fwFallback && !m.getLsbD 9, wdogSeen := s.lantern.wdogSeen && !m.getLsbD 6, sramCorrected := s.lantern.sramCorrected && !m.getLsbD 5 })
        ∧ (keptBut (.belfry :: .lantern :: answerAreas) s t = true)) :=
  ⟨by decide +kernel, by decide +kernel, by decide +kernel, by decide +kernel, by decide +kernel, by decide +kernel⟩

/-! ### Witnesses of chapter 16 -/

abbrev shifted_debugPortHaltsAndObserves := fun (s t : State) => t.dbg.dr = BitVec.ofNat 72 (s.dbg.dmStatus % 4 * 2 ^
    46 + s.dbg.dmData.toNat)
abbrev path_debugPortHaltsAndObserves := fun (s : State) => s.dbg.session = true ∧ s.fromReduced = true ∧ s.debugOn =
    true
abbrev at__debugPortHaltsAndObserves := fun (s : State) (q : Req) => max s.now q.t % 2 ^ 64
abbrev grid_debugPortHaltsAndObserves := fun (n g : Nat) => n + 256 ≤ g ∧ g < n + 320 ∧ g % 64 = 0
abbrev planned_debugPortHaltsAndObserves := fun (s t : State) (q : Req) => (t.cmd (cmdKey 0x2E2D)).busy = some q.owner
    ∧ t.status 0x2E2D q.owner = 1 ∧ keptBut (.belfry :: .parts :: .regions :: answerAreas) s t = true
abbrev restarts_debugPortHaltsAndObserves := fun (s : State) (q : Req) (p g : Nat) => (s.part p).haltTick ≤ g ∧
    at__debugPortHaltsAndObserves s q ≤ g ∧ (g - (s.part p).haltTick) % s.haltPeriod p = 0 ∧ ((s.part p).haltTick ≤
    at__debugPortHaltsAndObserves s q → g < at__debugPortHaltsAndObserves s q + s.haltPeriod p)
abbrev ran_debugPortHaltsAndObserves := fun (s t : State) (p : Nat) => (∀ r ∈ s.partRegions p, (t.region r).halted =
    false) ∧ ∀ r, r < 40 → r ∉ s.partRegions p → t.region r = s.region r
theorem test_DebugPortHaltsAndObserves_1 :
    (let s : State := S0b;
    let t : State := after .idcode s;
    (s.dev.st ≠ .off) ∧ (t.dbg.dr = 0x2AE81C4B#72) ∧ (keptBut [.dbg] s t = true)) ∧
    (let s : State := S0b;
    let c : BitVec 8 := 0xFF#8;
    let x : Bool := true;
    let t : State := after (.bypass c x) s;
    (s.dev.st ≠ .off) ∧ (c ∉ [0x01#8, 0x02#8, 0x20#8, 0x21#8]) ∧ (t.dbg.dr = (if x then 1#72 else 0#72)) ∧ (keptBut
        [.dbg] s t = true)) ∧
    (let s : State := S0b;
    let c : BitVec 8 := 0x03#8;
    let x : Bool := false;
    let t : State := after (.bypass c x) s;
    (s.dev.st ≠ .off) ∧ (c ∉ [0x01#8, 0x02#8, 0x20#8, 0x21#8]) ∧ (t.dbg.dr = (if x then 1#72 else 0#72)) ∧ (keptBut
        [.dbg] s t = true)) ∧
    (let s : State := S0b;
    let d : Bytes := [1#8];
    let t : State := after (.samplePreload d) s;
    (s.dev.st ≠ .off) ∧ (t.dbg = { s.dbg with boundary := d }) ∧ (keptBut [.dbg] s t = true)) ∧
    (let s : State := db S0b { session := true, dmStatus := 3, dmData := 0x12345678#32, mbox := { req := [(0, 1#8), (5, 9#8), (0x3FF, 7#8)], respSeq := 77#32 } };
    let t : State := after .dmboxPoll s;
    (s.dev.st ≠ .off) ∧ (shifted_debugPortHaltsAndObserves s t) ∧ (keptBut [.dbg] s t = true)) ∧
    (let s : State := db S0b { session := true, dmStatus := 3, dmData := 0x12345678#32, mbox := { req := [(0, 1#8), (5, 9#8), (0x3FF, 7#8)], respSeq := 77#32 } };
    let a : Nat := 0;
    let t : State := after (.dmboxRead a) s;
    (s.dev.st ≠ .off) ∧ (path_debugPortHaltsAndObserves s) ∧ (a ≤ 0x813) ∧ (shifted_debugPortHaltsAndObserves s t) ∧
        (t.dbg.dmStatus = 0) ∧ (a < 0x400 → a % 4 = 0 → ∀ i, i < 4 → t.dbg.dmData.toNat / 256 ^ i % 256 = (Mem.get
        s.dbg.mbox.req (a + i)).toNat) ∧ (a = 0x804 → t.dbg.dmData = s.dbg.mbox.respSeq) ∧ (keptBut [.dbg] s t =
        true)) :=
  ⟨by decide +kernel, by decide +kernel, by decide +kernel, by decide +kernel, by decide +kernel, by decide +kernel⟩
theorem test_DebugPortHaltsAndObserves_2 :
    (let s : State := db S0b { session := true, dmStatus := 3, dmData := 0x12345678#32, mbox := { req := [(0, 1#8), (5, 9#8), (0x3FF, 7#8)], respSeq := 77#32 } };
    let a : Nat := 0x813;
    let t : State := after (.dmboxRead a) s;
    (s.dev.st ≠ .off) ∧ (path_debugPortHaltsAndObserves s) ∧ (a ≤ 0x813) ∧ (shifted_debugPortHaltsAndObserves s t) ∧
        (t.dbg.dmStatus = 0) ∧ (a < 0x400 → a % 4 = 0 → ∀ i, i < 4 → t.dbg.dmData.toNat / 256 ^ i % 256 = (Mem.get
        s.dbg.mbox.req (a + i)).toNat) ∧ (a = 0x804 → t.dbg.dmData = s.dbg.mbox.respSeq) ∧ (keptBut [.dbg] s t =
        true)) ∧
    (let s : State := db S0b { session := true, dmStatus := 3, dmData := 0x12345678#32, mbox := { req := [(0, 1#8), (5, 9#8), (0x3FF, 7#8)], respSeq := 77#32 } };
    let a : Nat := 0;
    let v : BitVec 32 := 0x04030201#32;
    let t : State := after (.dmboxWrite a v) s;
    (s.dev.st ≠ .off) ∧ (path_debugPortHaltsAndObserves s) ∧ (a < 0x400) ∧ (a % 4 = 0) ∧ (s.dbg.mbox.inService =
        false) ∧ (shifted_debugPortHaltsAndObserves s t) ∧ (t.dbg.dmStatus = 0) ∧ (∀ i, i < 4 → Mem.get
        t.dbg.mbox.req (a + i) = BitVec.ofNat 8 (v.toNat / 256 ^ i)) ∧ ([0, 4, 5, 8, 0x3FB, 0x3FF].all (fun k =>
        (decide (a ≤ k) && decide (k < a + 4)) || Mem.get t.dbg.mbox.req k == Mem.get s.dbg.mbox.req k) = true) ∧
        (keptBut [.dbg] s t = true)) ∧
    (let s : State := db S0b { session := true, dmStatus := 3, dmData := 0x12345678#32, mbox := { req := [(0, 1#8), (5, 9#8), (0x3FF, 7#8)], respSeq := 77#32 } };
    let a : Nat := 0x3FC;
    let v : BitVec 32 := 0x04030201#32;
    let t : State := after (.dmboxWrite a v) s;
    (s.dev.st ≠ .off) ∧ (path_debugPortHaltsAndObserves s) ∧ (a < 0x400) ∧ (a % 4 = 0) ∧ (s.dbg.mbox.inService =
        false) ∧ (shifted_debugPortHaltsAndObserves s t) ∧ (t.dbg.dmStatus = 0) ∧ (∀ i, i < 4 → Mem.get
        t.dbg.mbox.req (a + i) = BitVec.ofNat 8 (v.toNat / 256 ^ i)) ∧ ([0, 4, 5, 8, 0x3FB, 0x3FF].all (fun k =>
        (decide (a ≤ k) && decide (k < a + 4)) || Mem.get t.dbg.mbox.req k == Mem.get s.dbg.mbox.req k) = true) ∧
        (keptBut [.dbg] s t = true)) ∧
    (let s : State := db S0b { session := true, mbox := { req := [(0, 0x10#8), (5, 3#8)] } };
    let v : BitVec 32 := 9#32;
    let t : State := after (.dmboxWrite 0x800 v) s;
    (s.dev.st ≠ .off) ∧ (path_debugPortHaltsAndObserves s) ∧ (s.dbg.mbox.inService = false) ∧ (v ≠
        s.dbg.mbox.doorbell) ∧ (s.dbg.mbox.headerError = 0) ∧ (t.dbg.mbox.inService = true) ∧ (t.dbg.mbox.doorbell =
        v) ∧ (keptBut [.dbg] s t = true)) ∧
    (let s : State := S0b;
    let a : Nat := 0;
    let t : State := after (.dmboxRead a) s;
    (s.dev.st ≠ .off) ∧ (s.dbg.session = false) ∧ (shifted_debugPortHaltsAndObserves s t) ∧ (t.dbg.dmStatus = 1) ∧
        (t.dbg.mbox = s.dbg.mbox)) ∧
    (let s : State := db S0b { session := true, dmStatus := 3, dmData := 0x12345678#32, mbox := { req := [(0, 1#8), (5, 9#8), (0x3FF, 7#8)], respSeq := 77#32 } };
    let a : Nat := 0x814;
    let t : State := after (.dmboxRead a) s;
    (s.dev.st ≠ .off) ∧ (path_debugPortHaltsAndObserves s) ∧ (0x813 < a) ∧ (t.dbg.dmStatus = 3) ∧ (t.dbg.mbox =
        s.dbg.mbox)) :=
  ⟨by decide +kernel, by decide +kernel, by decide +kernel, by decide +kernel, by decide +kernel, by decide +kernel⟩
theorem test_DebugPortHaltsAndObserves_3 :
    (let s : State := S0b;
    let q : Req := q0;
    let t : State := after (.debugSessionOpen q) s;
    (WriteAllowed s q 0x2C00 1 1 = true) ∧ (s.dbg.session = false) ∧ (t.dbg.session = true) ∧ (t.reply q.owner =
        .done) ∧ (keptBut (.belfry :: .dbg :: logAreas) s t = true)) ∧
    (let s : State := la (db S0b { session := true }) { held := true, remaining := 5 };
    let q : Req := q0;
    let t : State := after (.debugSessionClose q) s;
    (WriteAllowed s q 0x2C00 1 0 = true) ∧ (s.dbg.session = true) ∧ (s.lantern.held = true) ∧ (t.dbg.session =
        false) ∧ (t.reply q.owner = .done) ∧ (t.lantern.held = false) ∧ (t.lantern.remaining = s.reg 0x2030 1) ∧
        (keptBut (.belfry :: .dbg :: logAreas) s t = true)) ∧
    (let s : State := la (db S0b { session := true }) { held := true, remaining := 5 };
    let t : State := after .tapReset s;
    (s.dev.st ≠ .off) ∧ (s.dbg.session = true) ∧ (t.dbg.session = false) ∧ (t.lantern.held = false) ∧ (keptBut (.dbg
        :: logAreas) s t = true)) ∧
    (let s : State := db F0 { session := true };
    let q : Req := q1;
    let n : Nat := 4;
    let r : Nat := 1;
    let t : State := after (.halt q n r) s;
    let g : Nat := ((t.part 0).haltAt).getD 0;
    (CommandTaken s q 0x2E2D n [(3, 1), (4, r)] = true) ∧ (s.haltOf r = .running) ∧ ((s.region r).fenced = false) ∧
        (s.serving = true) ∧ ((t.cmd (cmdKey 0x2E2D)).busy = some q.owner ∧ t.status 0x2E2D q.owner = 1) ∧
        (grid_debugPortHaltsAndObserves (at__debugPortHaltsAndObserves s q) g) ∧ (s.loader.commit = none →
        planned_debugPortHaltsAndObserves s t q) ∧ ((t.part 0).halt = .pending ∧ (t.part 0).haltAt = some g) ∧
        (s.regionPart r = none → (t.region r).lone = .pending ∧ (t.region r).loneAt = some g)) ∧
    (let s : State := db (reg_ S0b 31 { part := none, inReset := false }) { session := true };
    let q : Req := q0;
    let n : Nat := 4;
    let r : Nat := 31;
    let t : State := after (.halt q n r) s;
    let g : Nat := ((t.region 31).loneAt).getD 0;
    (CommandTaken s q 0x2E2D n [(3, 1), (4, r)] = true) ∧ (s.haltOf r = .running) ∧ ((s.region r).fenced = false) ∧
        (s.serving = true) ∧ ((t.cmd (cmdKey 0x2E2D)).busy = some q.owner ∧ t.status 0x2E2D q.owner = 1) ∧
        (grid_debugPortHaltsAndObserves (at__debugPortHaltsAndObserves s q) g) ∧ (s.loader.commit = none →
        planned_debugPortHaltsAndObserves s t q) ∧ (∀ p, p < 40 → s.regionPart r = some p → (t.part p).halt =
        .pending ∧ (t.part p).haltAt = some g) ∧ (s.regionPart r = none → (t.region r).lone = .pending ∧ (t.region
        r).loneAt = some g)) ∧
    (let restarts := fun (s : State) (q : Req) (p g : Nat) => (s.part p).haltTick ≤ g ∧ at__debugPortHaltsAndObserves
        s q ≤ g ∧ (g - (s.part p).haltTick) % s.haltPeriod p = 0 ∧ ((s.part p).haltTick ≤
        at__debugPortHaltsAndObserves s q → g < at__debugPortHaltsAndObserves s q + s.haltPeriod p);
    let s : State := Fh PH;
    let q : Req := q1;
    let n : Nat := 4;
    let r : Nat := 1;
    let p : Nat := 0;
    let t : State := after (.resume q n r) s;
    let g : Nat := ((t.part 0).restartAt).getD 0;
    (CommandTaken s q 0x2E2D n [(3, 2), (4, r)] = true) ∧ (s.haltOf r = .halted) ∧ (s.serving = true) ∧
        (s.regionPart r = some p) ∧ ((s.part p).tables = true) ∧ (planned_debugPortHaltsAndObserves s t q) ∧
        ((t.part p).restartAt = some g) ∧ ((t.part p).stepTicks = none) ∧ (restarts s q p g)) :=
  ⟨by decide +kernel, by decide +kernel, by decide +kernel, by decide +kernel, by decide +kernel, by decide +kernel⟩
theorem test_DebugPortHaltsAndObserves_4 :
    (let restarts := fun (s : State) (q : Req) (p g : Nat) => (s.part p).haltTick ≤ g ∧ at__debugPortHaltsAndObserves
        s q ≤ g ∧ (g - (s.part p).haltTick) % s.haltPeriod p = 0 ∧ ((s.part p).haltTick ≤
        at__debugPortHaltsAndObserves s q → g < at__debugPortHaltsAndObserves s q + s.haltPeriod p);
    let s : State := Fh { PH with status := .broken };
    let q : Req := q1;
    let n : Nat := 4;
    let r : Nat := 1;
    let m : Nat := 320;
    let p : Nat := 0;
    let t : State := after (.step q n r m) s;
    let g : Nat := ((t.part 0).restartAt).getD 0;
    (CommandTaken s q 0x2E2D n [(3, 3), (4, r), (5, m)] = true) ∧ (s.haltOf r = .halted) ∧ (s.serving = true) ∧
        (s.regionPart r = some p) ∧ ((s.part p).tables = true) ∧ ((s.part p).status ≠ .suspended) ∧
        (planned_debugPortHaltsAndObserves s t q) ∧ ((t.part p).restartAt = some g) ∧ ((t.part p).stepTicks = some
        m) ∧ ((t.part p).halt = .stepping) ∧ (restarts s q p g)) ∧
    (let s : State := db (reg_ S0b 31 { part := none, inReset := false, lone := .halted, halted := true }) { session := true };
    let q : Req := q0;
    let n : Nat := 4;
    let r : Nat := 31;
    let t : State := after (.resume q n r) s;
    let g : Nat := ((t.region 31).loneRestart).getD 0;
    (CommandTaken s q 0x2E2D n [(3, 2), (4, r)] = true) ∧ (s.haltOf r = .halted) ∧ (s.serving = true) ∧
        (s.tabledPart r = none) ∧ ((s.regionPart r).isSome = true ∨ (s.region r).fenced = false) ∧
        (planned_debugPortHaltsAndObserves s t q) ∧ (grid_debugPortHaltsAndObserves (at__debugPortHaltsAndObserves s
        q) g) ∧ (∀ p, p < 40 → s.regionPart r = some p → (t.part p).restartAt = some g ∧ (t.part p).stepTicks =
        none) ∧ (s.regionPart r = none → (t.region r).loneRestart = some g ∧ (t.region r).loneStep = none)) ∧
    (let s : State := Fh { PH with tables := false, status := .none };
    let q : Req := q1;
    let n : Nat := 4;
    let r : Nat := 1;
    let t : State := after (.resume q n r) s;
    let g : Nat := ((t.part 0).restartAt).getD 0;
    (CommandTaken s q 0x2E2D n [(3, 2), (4, r)] = true) ∧ (s.haltOf r = .halted) ∧ (s.serving = true) ∧
        (s.tabledPart r = none) ∧ ((s.regionPart r).isSome = true ∨ (s.region r).fenced = false) ∧
        (planned_debugPortHaltsAndObserves s t q) ∧ (grid_debugPortHaltsAndObserves (at__debugPortHaltsAndObserves s
        q) g) ∧ (∀ p, p < 40 → s.regionPart r = some p → (t.part p).restartAt = some g ∧ (t.part p).stepTicks =
        none) ∧ (s.regionPart r = none → (t.region r).loneRestart = some g ∧ (t.region r).loneStep = none)) ∧
    (let s : State := db (reg_ S0b 31 { part := none, inReset := false, lone := .halted, halted := true }) { session := true };
    let q : Req := q0;
    let n : Nat := 4;
    let r : Nat := 31;
    let m : Nat := 320;
    let t : State := after (.step q n r m) s;
    let g : Nat := ((t.region 31).loneRestart).getD 0;
    (CommandTaken s q 0x2E2D n [(3, 3), (4, r), (5, m)] = true) ∧ (s.haltOf r = .halted) ∧ (s.serving = true) ∧
        (s.tabledPart r = none) ∧ (s.suspendedAt r = false) ∧ ((s.regionPart r).isSome = true ∨ (s.region r).fenced
        = false) ∧ (planned_debugPortHaltsAndObserves s t q) ∧ (grid_debugPortHaltsAndObserves
        (at__debugPortHaltsAndObserves s q) g) ∧ (∀ p, p < 40 → s.regionPart r = some p → (t.part p).restartAt =
        some g ∧ (t.part p).stepTicks = some m ∧ (t.part p).halt = .stepping) ∧ (s.regionPart r = none → (t.region
        r).loneRestart = some g ∧ (t.region r).loneStep = some m ∧ (t.region r).lone = .stepping)) ∧
    (let s : State := cm ((reg_ S0b 31 { part := none, inReset := false, lone := .pending, loneAt := some 512, loneCmd := true }))
        0x2E2D { busy := some 1 };
    let r : Nat := 31;
    let t0 : Nat := 512;
    let o : Nat := 1;
    let t : State := after (.haltTick r) s;
    (s.regionPart r = none) ∧ ((s.region r).loneAt = some t0) ∧ ((s.region r).loneCmd = true) ∧ ((s.cmd 0x2E2D).busy
        = some o) ∧ (t.now = max s.now t0 % 2 ^ 64) ∧ ((t.region r).lone = .halted) ∧ ((t.region r).halted = true) ∧
        (∀ k, k < 40 → k ≠ r → t.region k = s.region k) ∧ (t.status 0x2E2D o = 0)) ∧
    (let s : State := cm ((reg_ S0b 31 { part := none, inReset := false, lone := .halted, halted := true, loneRestart := some 512, loneCmd := true }))
        0x2E2D { busy := some 1 };
    let r : Nat := 31;
    let t0 : Nat := 512;
    let o : Nat := 1;
    let t : State := after (.restartTick r) s;
    (s.regionPart r = none) ∧ ((s.region r).loneRestart = some t0) ∧ ((s.region r).loneStep = none) ∧ ((s.region
        r).loneCmd = true) ∧ ((s.cmd 0x2E2D).busy = some o) ∧ (s.inject.armed = []) ∧ (t.now = max s.now t0 % 2 ^
        64) ∧ ((t.region r).lone = .running) ∧ ((t.region r).halted = false) ∧ (∀ k, k < 40 → k ≠ r → t.region k =
        s.region k) ∧ (t.status 0x2E2D o = 0)) :=
  ⟨by decide +kernel, by decide +kernel, by decide +kernel, by decide +kernel, by decide +kernel, by decide +kernel⟩
theorem test_DebugPortHaltsAndObserves_5 :
    (let s : State := cm (rb F0 { P0 with halt := .pending, haltAt := some 512, runCmd := some 1 }) 0x2E2D { busy := some 1 };
    let r : Nat := 1;
    let p : Nat := 0;
    let t0 : Nat := 512;
    let o : Nat := 1;
    let t : State := after (.haltTick r) s;
    (p < 8) ∧ (s.regionPart r = some p) ∧ ((s.part p).haltAt = some t0) ∧ (s.inWindow p = false) ∧ ((s.part
        p).runCmd = some r) ∧ ((s.cmd 0x2E2D).busy = some o) ∧ (t.now = max s.now t0 % 2 ^ 64) ∧ ((t.part p).halt =
        .halted) ∧ ((t.part p).haltTick = t.now) ∧ (∀ k ∈ s.partRegions p, (t.region k).halted = true) ∧ (∀ k, k <
        40 → k ∉ s.partRegions p → t.region k = s.region k) ∧ ((s.part p).status = .armed → (t.part p).status =
        .suspended) ∧ (t.reg (0x2C08 + p) 4 = t.now) ∧ (t.reg (0x2C08 + p) 6 = sat32 (s.reg (0x2C08 + p) 6 + 1)) ∧
        (t.status 0x2E2D o = 0)) ∧
    (let s : State := cm (Fh { PH with restartAt := some 1024, runCmd := some 1 }) 0x2E2D { busy := some 1 };
    let r : Nat := 1;
    let p : Nat := 0;
    let t0 : Nat := 1024;
    let o : Nat := 1;
    let t : State := after (.restartTick r) s;
    (p < 8) ∧ (s.regionPart r = some p) ∧ ((s.part p).restartAt = some t0) ∧ ((s.part p).stepTicks = none) ∧
        ((s.part p).runCmd = some r) ∧ ((s.cmd 0x2E2D).busy = some o) ∧ (s.inject.armed = []) ∧ ((t.part p).halt =
        .running) ∧ (ran_debugPortHaltsAndObserves s t p) ∧ (t.reg (0x2C08 + p) 5 = max s.now t0 % 2 ^ 64) ∧
        ((s.part p).status = .suspended → (t.part p).status = .armed) ∧ (t.status 0x2E2D o = 0)) ∧
    (let s : State := Fh { PH with restartAt := some 1024, stepTicks := some 320, runCmd := some 1 };
    let r : Nat := 1;
    let p : Nat := 0;
    let t0 : Nat := 1024;
    let m : Nat := 320;
    let t : State := after (.restartTick r) s;
    (p < 8) ∧ (s.regionPart r = some p) ∧ ((s.part p).restartAt = some t0) ∧ ((s.part p).stepTicks = some m) ∧
        (s.inject.armed = []) ∧ ((t.part p).halt = .stepping) ∧ (ran_debugPortHaltsAndObserves s t p) ∧ ((t.part
        p).haltAt = some (max s.now t0 % 2 ^ 64 + m)) ∧ ((t.part p).runCmd = (s.part p).runCmd)) ∧
    (let s : State := la (db S0b { session := true }) { reservation := some 5#32 };
    let q : Req := q0;
    let t : State := after (.monitorEnter q) s;
    (WriteAllowed s q 0x2C02 4 1 = true) ∧ (s.lantern.running = true) ∧ (s.lantern.inMonitor = false) ∧ (t.reply
        q.owner = .done) ∧ (t.lantern.inMonitor = true) ∧ (t.lantern.reservation = none) ∧ (t.reg 0x2C02 5 = sat32
        (s.reg 0x2C02 5 + 1)) ∧ (keptBut (.belfry :: .lantern :: .free :: answerAreas) s t = true)) ∧
    (let i : BitVec 32 → Instr := Instr.ebreak;
    let s : State := od (la S0b { reservation := some 5#32 }) [(0x2C0206, 1)];
    let pc : BitVec 32 := 0x77#32;
    let t : State := after (i pc) s;
    (s.reg 0x2C02 6 = 1) ∧ (s.lantern.running = true) ∧ (s.lantern.inMonitor = false) ∧ (t.reg 0x2C02 5 = sat32
        (s.reg 0x2C02 5 + 1)) ∧ (t.lantern = { s.lantern with inMonitor := true, debugPc := pc, reservation := none, resumeReq := false })
        ∧ (keptBut [.lantern, .dict] s t = true)) ∧
    (let i : BitVec 32 → Instr := Instr.breakpointMatch 3;
    let s : State := od (la S0b { reservation := some 5#32 }) [(0x2C0206, 1)];
    let pc : BitVec 32 := 0x77#32;
    let t : State := after (i pc) s;
    (s.reg 0x2C02 6 = 1) ∧ (s.lantern.running = true) ∧ (s.lantern.inMonitor = false) ∧ (t.reg 0x2C02 5 = sat32
        (s.reg 0x2C02 5 + 1)) ∧ (t.lantern = { s.lantern with inMonitor := true, debugPc := pc, reservation := none, resumeReq := false })
        ∧ (keptBut [.lantern, .dict] s t = true)) :=
  ⟨by decide +kernel, by decide +kernel, by decide +kernel, by decide +kernel, by decide +kernel, by decide +kernel⟩
theorem test_DebugPortHaltsAndObserves_6 :
    (let s : State := la (db S0b { session := true }) { inMonitor := true };
    let q : Req := q0;
    let t : State := after (.monitorResume q) s;
    (WriteAllowed s q 0x2C02 4 2 = true) ∧ (s.lantern.inMonitor = true) ∧ (t.reply q.owner = .done) ∧ (t.lantern = { s.lantern with inMonitor := false, resumeReq := true })
        ∧ (keptBut (.belfry :: .lantern :: answerAreas) s t = true)) ∧
    (let s : State := la (bf (db S0b { session := true }) fun b => { b with tick := 3000000 }) { remaining := 900, reloadAt := 999999 };
    let q : Req := q6;
    let t : State := after (.watchdogHold q true) s;
    (WriteAllowed s q 0x2C02 3 1 = true) ∧ (s.lantern.held = false) ∧ (t.reply q.owner = .done) ∧ (t.lantern = { s.lantern with held := true, heldAt := some (max s.now q.t), remaining := s.lantern.remaining - (max s.now q.t - s.lantern.reloadAt) / 1000000 })
        ∧ (keptBut (.belfry :: .lantern :: answerAreas) s t = true)) ∧
    (let s : State := la (db S0b { session := true }) { held := true, remaining := 5 };
    let q : Req := q6;
    let t : State := after (.watchdogHold q false) s;
    (WriteAllowed s q 0x2C02 3 0 = true) ∧ (s.lantern.held = true) ∧ (t.reply q.owner = .done) ∧ (t.lantern = { s.lantern with held := false, remaining := s.reg 0x2030 1, reloadAt := max s.now q.t % 2 ^ 64 })
        ∧ (keptBut (.belfry :: .lantern :: answerAreas) s t = true)) ∧
    (let s : State := qu (Fh PH) (queueKey 1 15) { mode := 1, words := W3 };
    let q : Req := q1;
    let r : Nat := 1;
    let k : Nat := 15;
    let d : BitVec 128 := 7#128;
    let m : BitVec 16 := 0xFFFF#16;
    let l : List (BitVec 128 × BitVec 16) := [(9#128, 3#16)];
    let t : State := after (.observeQueueHead q r k) s;
    (ReadAllowed s q (0x2C60 + r) (k + 1) = true) ∧ ((s.region r).halted = true) ∧ (((s.served q).queueNow (queueKey
        r k)).words = (d, m) :: l) ∧ (((s.served q).queueNow (queueKey r k)).readDepth ≠ 0) ∧ (t.reply q.owner =
        .data (toBytes 16 d.toNat ++ toBytes 2 m.toNat)) ∧ (keptBut (.belfry :: answerAreas) s t = true)) ∧
    (let s : State := qu F0 (queueKey 1 15) { mode := 1, words := W3 };
    let q : Req := q1;
    let r : Nat := 1;
    let k : Nat := 15;
    let t : State := after (.observeQueueHead q r k) s;
    (ReadAllowed s q (0x2C60 + r) (k + 1) = true) ∧ ((s.region r).halted = false) ∧ (t.reply q.owner = .abort
        0x08000022) ∧ (keptBut (.belfry :: answerAreas) s t = true)) ∧
    (let s : State := vn (Fh { PH with vaneOpt := 1 }) 63 { fifo := [5#32, 6#32] };
    let q : Req := q1;
    let bb : Nat := 0;
    let n : Nat := 63;
    let t : State := after (.observeCaptureHead q bb n) s;
    (ReadAllowed s q (0x2C80 + bb) (n + 1) = true) ∧ ((s.region (bankRegion bb)).halted = true) ∧ ((s.part
        0).vaneOpt ≠ 0) ∧ (t.reply q.owner = .data (toBytes 4 (((s.vane (bb * 64 + n)).fifo.headD
        0x60000000#32).toNat))) ∧ (t.vanes = s.vanes) ∧ (keptBut (.belfry :: answerAreas) s t = true)) :=
  ⟨by decide +kernel, by decide +kernel, by decide +kernel, by decide +kernel, by decide +kernel, by decide +kernel⟩
abbrev ready_traceEmitsStoresAndTriggers := fun (s : State) => s.tracing = true ∧ s.isArmed 0x2DF0 2 0 = false ∧
    s.dbg.lossDue = 0
abbrev emitted_traceEmitsStoresAndTriggers := fun (s t : State) (p : Packet) => (s.dbg.fifo.length < 64 → t.dbg = { s.dbg with fifo := s.dbg.fifo ++ [p] }
    ∧ keptBut [.belfry, .dbg] s t = true) ∧ (64 ≤ s.dbg.fifo.length → t.dbg = { s.dbg with lossDue := 1 } ∧ t.reg
    0x2C10 0x0A = sat32 (s.reg 0x2C10 0x0A + 1) ∧ keptBut [.belfry, .dbg, .dict] s t = true)
abbrev written_traceEmitsStoresAndTriggers := fun (s : State) (port t0 : Nat) => s.on { s.toChip with dbg := { s.dbg with portAt := Tab.set s.dbg.portAt port (max s.now t0 % 2 ^ 64) } }
abbrev drains_traceEmitsStoresAndTriggers := fun (s : State) (p : Packet) (l : List Packet) => s.dbg.state = 1 ∧
    s.debugOn = true ∧ s.dbg.lossDue = 0 ∧ s.dbg.fifo = p :: l ∧ p.kind ≠ 4
abbrev armed_traceEmitsStoresAndTriggers := fun (s : State) (n t0 : Nat) => n < 4 ∧ s.debugOn = true ∧ s.reg (0x2C18 +
    n) 5 = 1 ∧ s.reg (0x2C18 + n) 1 = 1 ∧ s.reg (0x2C18 + n) 2 = t0 ∧ s.triggerBlocked n = false
theorem test_TraceEmitsStoresAndTriggers_1 :
    (let s : State := od (db F0 { state := 1, enabled := true, fifo := [] }) [(0x2C1001, 1), (0x2C1003, 1),
        (0x2C1006, 0x80000001), (0x2C1007, 0x8000000000000001)];
    let port : Nat := 31;
    let len : Nat := 4;
    let t0 : Nat := 9;
    let d : BitVec 32 := 5#32;
    let t : State := after (.lanternStimulus port len d t0) s;
    (ready_traceEmitsStoresAndTriggers s) ∧ (bit (s.reg 0x2C10 6) port = true) ∧
        (emitted_traceEmitsStoresAndTriggers s t { kind := 0, len := len, port := port, time := max s.now t0 % 2 ^ 64, payload := d })) ∧
    (let s : State := od (db F0 { state := 1, enabled := true, fifo := List.replicate 64 pk }) [(0x2C1001, 1),
        (0x2C1003, 1), (0x2C1006, 0x80000001), (0x2C1007, 0x8000000000000001)];
    let port : Nat := 31;
    let len : Nat := 4;
    let t0 : Nat := 9;
    let d : BitVec 32 := 5#32;
    let t : State := after (.lanternStimulus port len d t0) s;
    (ready_traceEmitsStoresAndTriggers s) ∧ (bit (s.reg 0x2C10 6) port = true) ∧
        (emitted_traceEmitsStoresAndTriggers s t { kind := 0, len := len, port := port, time := max s.now t0 % 2 ^ 64, payload := d })) ∧
    (let s : State := od (db F0 { state := 1, enabled := true, fifo := [] }) [(0x2C1001, 1), (0x2C1003, 1),
        (0x2C1006, 0x80000001), (0x2C1007, 0x8000000000000001)];
    let port : Nat := 30;
    let len : Nat := 4;
    let t0 : Nat := 9;
    let d : BitVec 32 := 5#32;
    let t : State := after (.lanternStimulus port len d t0) s;
    (bit (s.reg 0x2C10 6) port = false) ∧ (keptBut [.belfry] s t = true)) ∧
    (let s : State := od (db F0 { state := 1, enabled := true, fifo := [] }) [(0x2C1001, 1), (0x2C1003, 1),
        (0x2C1006, 0x80000001), (0x2C1007, 0x8000000000000001)];
    let r : Nat := 1;
    let port : Nat := 0;
    let len : Nat := 4;
    let t0 : Nat := 9;
    let d : BitVec 32 := 5#32;
    let t : State := after (.fabricStimulus r port len d t0) s;
    (ready_traceEmitsStoresAndTriggers s) ∧ ((s.toChip.upTo t0).fabricRuns r = true) ∧ (bit (s.reg 0x2C10 7) port =
        true) ∧ (emitted_traceEmitsStoresAndTriggers (written_traceEmitsStoresAndTriggers s port t0) t { kind := 1, len := len, port := port, time := (s.toChip.upTo t0).tbCount r, payload := d })) ∧
    (let s : State := od (db F0 { state := 1, enabled := true, fifo := [] }) [(0x2C1001, 1), (0x2C1003, 1),
        (0x2C1006, 0x80000001), (0x2C1007, 0x8000000000000001)];
    let r : Nat := 1;
    let port : Nat := 63;
    let len : Nat := 4;
    let t0 : Nat := 9;
    let d : BitVec 32 := 5#32;
    let t : State := after (.fabricStimulus r port len d t0) s;
    (ready_traceEmitsStoresAndTriggers s) ∧ ((s.toChip.upTo t0).fabricRuns r = true) ∧ (bit (s.reg 0x2C10 7) port =
        true) ∧ (emitted_traceEmitsStoresAndTriggers (written_traceEmitsStoresAndTriggers s port t0) t { kind := 1, len := len, port := port, time := (s.toChip.upTo t0).tbCount r, payload := d })) ∧
    (let s : State := od (db F0 { state := 1, enabled := true, fifo := [] }) [(0x2C1001, 1), (0x2C1003, 1),
        (0x2C1006, 0x80000001), (0x2C1007, 0x8000000000000001)];
    let r : Nat := 1;
    let port : Nat := 5;
    let len : Nat := 4;
    let t0 : Nat := 9;
    let d : BitVec 32 := 5#32;
    let t : State := after (.fabricStimulus r port len d t0) s;
    ((s.toChip.upTo t0).fabricRuns r = true) ∧ (bit (s.reg 0x2C10 7) port = false) ∧ (t.dbg =
        (written_traceEmitsStoresAndTriggers s port t0).dbg) ∧ (keptBut [.belfry, .dbg] s t = true)) :=
  ⟨by decide +kernel, by decide +kernel, by decide +kernel, by decide +kernel, by decide +kernel, by decide +kernel⟩
theorem test_TraceEmitsStoresAndTriggers_2 :
    (let s : State := Fh PH;
    let r : Nat := 1;
    let port : Nat := 0;
    let len : Nat := 4;
    let t0 : Nat := 9;
    let d : BitVec 32 := 5#32;
    let t : State := after (.fabricStimulus r port len d t0) s;
    ((s.region r).halted = true) ∧ (keptBut [.belfry] s t = true)) ∧
    (let s : State := od (db F0 { state := 1, enabled := true, fifo := [], lastProbe := 0xFF#8 }) [(0x2C1001, 1),
        (0x2C1003, 1), (0x2C1006, 0x80000001), (0x2C1007, 0x8000000000000001)];
    let x : BitVec 8 := (s.upTo 9).probeSample;
    let t0 : Nat := 9;
    let t : State := after (.probeTraceSample t0) s;
    (ready_traceEmitsStoresAndTriggers s) ∧ (x = (s.toChip.upTo t0).probeSample) ∧ (x ≠ s.dbg.lastProbe) ∧
        (s.dbg.fifo.length < 64) ∧ (t.dbg.lastProbe = x) ∧ (t.dbg.fifo = s.dbg.fifo ++ [{ kind := 2, len := 1, port := 0, time := max s.now t0 % 2 ^ 64, payload := BitVec.setWidth 32 x }])
        ∧ (keptBut [.belfry, .dbg] s t = true)) ∧
    (let s : State := od (db F0 { state := 1, enabled := true, lastProbe := 0#8 }) [(0x2C1001, 1), (0x2C1003, 1),
        (0x2C1006, 0x80000001), (0x2C1007, 0x8000000000000001)];
    let t0 : Nat := 9;
    let t : State := after (.probeTraceSample t0) s;
    ((s.toChip.upTo t0).probeSample = s.dbg.lastProbe) ∧ (t.dbg.fifo = s.dbg.fifo) ∧ (t.dbg.lastProbe =
        s.dbg.lastProbe) ∧ (keptBut [.belfry, .dbg] s t = true)) ∧
    (let s : State := od (db F0 { state := 1, enabled := true, fifo := [] }) [(0x2C1001, 1), (0x2C1003, 1),
        (0x2C1006, 0x80000001), (0x2C1007, 0x8000000000000001)];
    let t0 : Nat := 9;
    let t : State := after (.probeTraceSample t0) s;
    (∀ n, n < 4 → Tab.get false s.dbg.trigLevel n = false → (s.toChip.upTo t0).probeOf (s.reg (0x2C18 + n) 2 %
        65536) = true → Tab.get 0 t.dbg.roseAt n = max s.now t0 % 2 ^ 64)) ∧
    (let s : State := S0b;
    let q : Req := q0;
    let t : State := after (.traceEnable q true) s;
    (WriteAllowed s q 0x2C10 2 1 = true) ∧ (s.dbg.enabled = false) ∧ (t.reply q.owner = .done) ∧ (t.dbg.enabled =
        true) ∧ (t.dbg.state = 1) ∧ (t.dbg.fifo = []) ∧ (t.dbg.writeSlot = 0) ∧ (t.reg 0x2C10 9 = 0) ∧ (keptBut
        (.belfry :: .dbg :: answerAreas) s t = true)) ∧
    (let s : State := od (db S0b { state := 1, enabled := true, fifo := [pk] }) [(0x2C1001, 1), (0x2C1003, 1),
        (0x2C1006, 0x80000001), (0x2C1007, 0x8000000000000001)];
    let q : Req := q0;
    let t : State := after (.traceEnable q false) s;
    (WriteAllowed s q 0x2C10 2 0 = true) ∧ (s.dbg.enabled = true) ∧ (t.reply q.owner = .done) ∧ (t.dbg.enabled =
        false) ∧ (t.dbg.state = 0) ∧ (t.dbg.fifo = s.dbg.fifo) ∧ (keptBut (.belfry :: .dbg :: .free :: answerAreas)
        s t = true)) :=
  ⟨by decide +kernel, by decide +kernel, by decide +kernel, by decide +kernel, by decide +kernel, by decide +kernel⟩
theorem test_TraceEmitsStoresAndTriggers_3 :
    (let s : State := od (db F0 { state := 1, enabled := true, fifo := [pk], writeSlot := 65534 }) [(0x2C1001, 1)];
    let p : Packet := pk;
    let l : List Packet := [];
    let e : Nat := 0;
    let t0 : Nat := 9;
    let t : State := after (.tracePacketWrite e t0) s;
    (drains_traceEmitsStoresAndTriggers s p l) ∧ (s.reg 0x2C10 1 = 1) ∧ (s.dbg.writeSlot < 65535) ∧ (t.dbg.fifo = l)
        ∧ (t.dbg.writeSlot = s.dbg.writeSlot + 1) ∧ (t.traceSlot s.dbg.writeSlot = BitVec.ofNat 128 (ofBytes
        p.bytes)) ∧ (t.reg 0x2C10 9 = (s.reg 0x2C10 9 + 1) % 2 ^ 64) ∧ (keptBut [.belfry, .dbg, .dict] s t = true)) ∧
    (let s : State := od (db F0 { state := 1, enabled := true, fifo := [pk], writeSlot := 65535 }) [(0x2C1001, 1),
        (0x2C1003, 1)];
    let p : Packet := pk;
    let l : List Packet := [];
    let e : Nat := 0;
    let t0 : Nat := 9;
    let t : State := after (.tracePacketWrite e t0) s;
    (drains_traceEmitsStoresAndTriggers s p l) ∧ (s.reg 0x2C10 1 = 1) ∧ (s.dbg.writeSlot = 65535) ∧ (t.dbg.fifo = l)
        ∧ (if s.reg 0x2C10 3 = 1 then t.dbg.state = 2 else t.dbg.state = 1 ∧ t.dbg.writeSlot = 0)) ∧
    (let s : State := od (db F0 { state := 1, enabled := true, fifo := [pk], writeSlot := 65535 }) [(0x2C1001, 1),
        (0x2C1003, 0)];
    let p : Packet := pk;
    let l : List Packet := [];
    let e : Nat := 0;
    let t0 : Nat := 9;
    let t : State := after (.tracePacketWrite e t0) s;
    (drains_traceEmitsStoresAndTriggers s p l) ∧ (s.reg 0x2C10 1 = 1) ∧ (s.dbg.writeSlot = 65535) ∧ (t.dbg.fifo = l)
        ∧ (if s.reg 0x2C10 3 = 1 then t.dbg.state = 2 else t.dbg.state = 1 ∧ t.dbg.writeSlot = 0)) ∧
    (let s : State := od (db F0 { state := 1, enabled := true, fifo := [pk], line := List.replicate 40 1#8 })
        [(0x2C1001, 2)];
    let p : Packet := pk;
    let l : List Packet := [];
    let e : Nat := 0;
    let t0 : Nat := 9;
    let t : State := after (.tracePacketWrite e t0) s;
    (drains_traceEmitsStoresAndTriggers s p l) ∧ (s.reg 0x2C10 1 = 2) ∧ (s.dbg.line.length + p.bytes.length < 64) ∧
        (t.dbg.fifo = l) ∧ (t.dbg.line = s.dbg.line ++ p.bytes) ∧ (t.hub = s.hub) ∧ (keptBut [.belfry, .dbg, .dict]
        s t = true)) ∧
    (let s : State := od (db F0 { state := 1, enabled := true, fifo := [pk], sink := List.replicate 5 1#8 })
        [(0x2C1001, 3)];
    let p : Packet := pk;
    let l : List Packet := [];
    let e : Nat := 0;
    let t0 : Nat := 9;
    let t : State := after (.tracePacketWrite e t0) s;
    (drains_traceEmitsStoresAndTriggers s p l) ∧ (s.reg 0x2C10 1 = 3) ∧ (s.dbg.sink.length ≤ 4080) ∧ (t.dbg.fifo =
        l) ∧ (t.dbg.sink = s.dbg.sink ++ p.bytes) ∧ (keptBut [.belfry, .dbg, .dict] s t = true)) ∧
    (let s : State := od (db F0 { state := 1, enabled := true }) [(0x2C1B01, 1), (0x2C1B02, 700), (0x2C1B03, 1),
        (0x2C1B04, 1), (0x2C1B05, 1)];
    let n : Nat := 3;
    let t0 : Nat := 700;
    let r : Nat := 1;
    let p : Nat := 0;
    let t : State := after (.triggerFire n t0) s;
    let g : Nat := ((t.part 0).haltAt).getD 0;
    (armed_traceEmitsStoresAndTriggers s n t0) ∧ (s.reg (0x2C18 + n) 3 = 1) ∧ (s.reg (0x2C18 + n) 4 = r) ∧
        (s.serving = true) ∧ ((s.region r).fenced = false) ∧ (s.regionPart r = some p) ∧ (s.loader.commit = none) ∧
        (t.reg (0x2C18 + n) 5 = 0) ∧ ((t.part p).halt = .pending) ∧ ((t.part p).haltAt = some g) ∧ (t0 + 256 ≤ g) ∧
        (g < t0 + 320) ∧ (g % 64 = 0) ∧ (keptBut [.belfry, .parts, .dict] s t = true)) :=
  ⟨by decide +kernel, by decide +kernel, by decide +kernel, by decide +kernel, by decide +kernel, by decide +kernel⟩
theorem test_TraceEmitsStoresAndTriggers_4 :
    (let s : State := od (db F0 { state := 1, enabled := true }) [(0x2C1B01, 1), (0x2C1B02, 700), (0x2C1B03, 8),
        (0x2C1B04, 1), (0x2C1B05, 1)];
    let n : Nat := 3;
    let t0 : Nat := 700;
    let t : State := after (.triggerFire n t0) s;
    (armed_traceEmitsStoresAndTriggers s n t0) ∧ (s.reg (0x2C18 + n) 3 = 8) ∧ (ready_traceEmitsStoresAndTriggers s)
        ∧ (s.dbg.fifo.length < 64) ∧ (t.reg (0x2C18 + n) 5 = 0) ∧ (t.dbg.fifo = s.dbg.fifo ++ [{ kind := 3, len := 1, port := n, time := t0, payload := 1#32 }])
        ∧ (keptBut [.belfry, .dbg, .dict] s t = true)) ∧
    (let s : State := od (db F0 { state := 0, enabled := false }) [(0x2C1B01, 1), (0x2C1B02, 700), (0x2C1B03, 2),
        (0x2C1B04, 1), (0x2C1B05, 1)];
    let n : Nat := 3;
    let t0 : Nat := 700;
    let t : State := after (.triggerFire n t0) s;
    (armed_traceEmitsStoresAndTriggers s n t0) ∧ (s.reg (0x2C18 + n) 3 = 2) ∧ (s.dbg.enabled = false) ∧ (t.reg
        (0x2C18 + n) 5 = 0) ∧ (t.dbg.enabled = true) ∧ (t.dbg.state = 1) ∧ (keptBut [.belfry, .dbg, .dict] s t =
        true)) ∧
    (let s : State := od (db F0 { roseAt := [(3, 700)] }) [(0x2C1B01, 2)];
    let n : Nat := 3;
    let t0 : Nat := 700;
    (s.reg (0x2C18 + n) 1 = 2) ∧ ((s.dbg.roseAt.find? fun x => x.1 == n) = some (n, t0)) ∧ (s.triggerMatches n t0 =
        true)) ∧
    (let s : State := F0;
    let n : Nat := 3;
    let t0 : Nat := 700;
    let t : State := after (.triggerFire n t0) s;
    (s.debugOn = false ∨ s.reg (0x2C18 + n) 5 ≠ 1 ∨ s.triggerMatches n t0 = false) ∧ (t = s)) :=
  ⟨by decide +kernel, by decide +kernel, by decide +kernel, by decide +kernel⟩
theorem test_DrainRemovesUpToEightBytes :
    (let s : State := db S0b { session := true, sink := [1#8, 2#8, 3#8, 4#8, 5#8, 6#8, 7#8, 8#8, 9#8] };
    let t : State := after .trdrain s;
    (s.dev.st ≠ .off) ∧ (keptBut [.dbg] s t = true) ∧ (t.dbg.sink = [9#8] ∧ t.dbg.dr = 0x080807060504030201#72)) ∧
    (let s : State := db S0b { sink := [1#8] };
    let t : State := after .trdrain s;
    (s.dev.st ≠ .off) ∧ (keptBut [.dbg] s t = true) ∧ (t.dbg.sink = [1#8] ∧ t.dbg.dr.toNat / 2 ^ 64 = 0)) :=
  ⟨by decide +kernel, by decide +kernel⟩

/-! ### Witnesses of chapter 17 -/

abbrev set_injectionsArmOverrideOrAct := fun (s t : State) (q : Req) (idx sub v : Nat) => t.reply q.owner = .done ∧
    t.reg idx sub = v ∧ keptBut (.belfry :: answerAreas) s t = true
abbrev arms_injectionsArmOverrideOrAct := fun (s t : State) (q : Req) (a : Armed) => t.reply q.owner = .done ∧
    t.inject.armed = s.inject.armed ++ [a] ∧ t.inject.enabled = s.inject.enabled
abbrev tick_injectionsArmOverrideOrAct := fun (s : State) (q : Req) => s.toChip.upTo q.t
abbrev acts_injectionsArmOverrideOrAct := fun (s t : State) (q : Req) (code : Nat) => t.reply q.owner = .done ∧ t.reg
    0x2DFF 3 = sat32 (s.reg 0x2DFF 3 + 1) ∧ t.reg 0x2DFF 4 = code ∧ t.inject = s.inject
theorem test_InjectionsArmOverrideOrAct_1 :
    (let s : State := S0b;
    let q : Req := q0;
    let t : State := after (.injectionEnable q true) s;
    (WriteAllowed s q 0x2DFF 1 1 = true) ∧ (t.reply q.owner = .done) ∧ (t.inject = { s.inject with enabled := true })
        ∧ (keptBut (.belfry :: .inject :: answerAreas) s t = true)) ∧
    (let s : State := { (ij (S0b) [(0x2D0001, 5), (0x2D0002, 3), (0x2D6001, 1), (0x2D6002, 9), (0x2D8003, 7), (0x2D8004, 1), (0x2DE002, 4)]) with inject := { enabled := true, armed := [{ obj := 0x2DF0, code := 1, target := 0, target2 := 0 }] } };
    let q : Req := q0;
    let t : State := after (.injectionEnable q false) s;
    (WriteAllowed s q 0x2DFF 1 0 = true) ∧ (t.reply q.owner = .done) ∧ (t.inject = {}) ∧ (t.reg 0x2D00 1 = 0) ∧
        (t.reg 0x2D00 2 = 0) ∧ (t.reg 0x2D60 1 = 0) ∧ (t.reg 0x2D60 2 = 0) ∧ (t.reg 0x2D80 3 = 0x7FFF) ∧ (t.reg
        0x2D80 4 = 0) ∧ (t.reg 0x2DE0 2 = 0x7FFF)) ∧
    (let s : State := ij (S0b) [];
    let q : Req := q0;
    let v : BitVec 64 := 0xFFFFFFFF0000FFFE#64;
    let t : State := after (.injectSelfTestFailure q v) s;
    (WriteAllowed s q 0x2D00 1 v.toNat = true) ∧ (set_injectionsArmOverrideOrAct s t q 0x2D00 1 v.toNat)) ∧
    (let s : State := ij (S0b) [];
    let q : Req := q0;
    let v : Nat := 39;
    let t : State := after (.injectClosingTestCutShort q v) s;
    (WriteAllowed s q 0x2D00 2 v = true) ∧ (set_injectionsArmOverrideOrAct s t q 0x2D00 2 v)) ∧
    (let s : State := ij (S0b) [];
    let q : Req := q0;
    let v : Bool := true;
    let t : State := after (.injectSourceLoss q v) s;
    (WriteAllowed s q 0x2D60 1 (flag v 0) = true) ∧ (set_injectionsArmOverrideOrAct s t q 0x2D60 1 (flag v 0))) ∧
    (let s : State := ij (S0b) [];
    let q : Req := q0;
    let v : BitVec 32 := 0x80000000#32;
    let t : State := after (.injectPpsDisplacement q v) s;
    (WriteAllowed s q 0x2D60 2 v.toNat = true) ∧ (set_injectionsArmOverrideOrAct s t q 0x2D60 2 v.toNat)) :=
  ⟨by decide +kernel, by decide +kernel, by decide +kernel, by decide +kernel, by decide +kernel, by decide +kernel⟩
theorem test_InjectionsArmOverrideOrAct_2 :
    (let s : State := ij (S0b) [];
    let q : Req := q0;
    let v : BitVec 16 := 0x8000#16;
    let t : State := after (.injectDimmTemperature q v) s;
    (WriteAllowed s q 0x2D80 3 v.toNat = true) ∧ (set_injectionsArmOverrideOrAct s t q 0x2D80 3 v.toNat)) ∧
    (let s : State := ij (S0b) [];
    let q : Req := q0;
    let v : Bool := true;
    let t : State := after (.injectDimmSensorFailure q v) s;
    (WriteAllowed s q 0x2D80 4 (flag v 0) = true) ∧ (set_injectionsArmOverrideOrAct s t q 0x2D80 4 (flag v 0))) ∧
    (let s : State := ij (S0b) [];
    let q : Req := q0;
    let v : BitVec 16 := 850#16;
    let t : State := after (.injectSensorTemperature q v) s;
    (WriteAllowed s q 0x2DE0 2 v.toNat = true) ∧ (set_injectionsArmOverrideOrAct s t q 0x2DE0 2 v.toNat)) ∧
    (let i : Req → Instr := Instr.injectMissCrossingLate;
    let idx : Nat := 0x2d62;
    let sub : Nat := 2;
    let code : Nat := 1;
    let tsub : Nat := 1;
    let s : State := ij (S0b) [(0x2d6201, 31)];
    let q : Req := q0;
    let t : State := after (i q) s;
    (WriteAllowed s q idx sub code = true) ∧ (arms_injectionsArmOverrideOrAct s t q { obj := idx, code := code, target := s.reg idx tsub, target2 := 0 })
        ∧ (keptBut (.belfry :: .inject :: answerAreas) s t = true)) ∧
    (let i : Req → Instr := Instr.injectMajorWrap;
    let idx : Nat := 0x2d90;
    let sub : Nat := 3;
    let code : Nat := 4;
    let tsub : Nat := 1;
    let s : State := ij (S0b) [(0x2d9001, 0)];
    let q : Req := q0;
    let t : State := after (i q) s;
    (WriteAllowed s q idx sub code = true) ∧ (arms_injectionsArmOverrideOrAct s t q { obj := idx, code := code, target := s.reg idx tsub, target2 := 0 })
        ∧ (keptBut (.belfry :: .inject :: answerAreas) s t = true)) ∧
    (let i : Req → Instr := Instr.injectEventMissed;
    let idx : Nat := 0x2db0;
    let sub : Nat := 2;
    let code : Nat := 3;
    let s : State := ij (S0b) [];
    let q : Req := q0;
    let t : State := after (i q) s;
    (WriteAllowed s q idx sub code = true) ∧ (arms_injectionsArmOverrideOrAct s t q { obj := idx, code := code, target := 0, target2 := 0 })
        ∧ (keptBut (.belfry :: .inject :: answerAreas) s t = true)) :=
  ⟨by decide +kernel, by decide +kernel, by decide +kernel, by decide +kernel, by decide +kernel, by decide +kernel⟩
theorem test_InjectionsArmOverrideOrAct_3 :
    (let i : Req → Instr := Instr.injectTracePacketDrop;
    let idx : Nat := 0x2df0;
    let sub : Nat := 1;
    let code : Nat := 2;
    let s : State := ij (S0b) [];
    let q : Req := q0;
    let t : State := after (i q) s;
    (WriteAllowed s q idx sub code = true) ∧ (arms_injectionsArmOverrideOrAct s t q { obj := idx, code := code, target := 0, target2 := 0 })
        ∧ (keptBut (.belfry :: .inject :: answerAreas) s t = true)) ∧
    (let s : State := ij (S0b) [(0x2D9001, 63), (0x2D9002, 10)];
    let q : Req := q0;
    let t : State := after (.injectMetadataUncorrectable q) s;
    (WriteAllowed s q 0x2D90 3 2 = true) ∧ (arms_injectionsArmOverrideOrAct s t q { obj := 0x2D90, code := 2, target := s.reg 0x2D90 1, target2 := s.reg 0x2D90 2 })
        ∧ (keptBut (.belfry :: .inject :: answerAreas) s t = true)) ∧
    (let s : State := ij (S0b) [(0x2DA001, 3), (0x2DA002, 15)];
    let q : Req := q0;
    let t : State := after (.injectDmaError q) s;
    (WriteAllowed s q 0x2DA0 3 2 = true) ∧ (arms_injectionsArmOverrideOrAct s t q { obj := 0x2DA0, code := 2, target := s.reg 0x2DA0 1 * 16 + s.reg 0x2DA0 2, target2 := 0 })
        ∧ (keptBut (.belfry :: .inject :: answerAreas) s t = true)) ∧
    (let s : State := ij (S0b) [(0x2D1001, 31), (0x2D1002, 15)];
    let q : Req := q0;
    let t : State := after (.injectClockSwitchStall q) s;
    (WriteAllowed s q 0x2D10 3 1 = true) ∧ (s.isArmed 0x2D10 (s.reg 0x2D10 2) (s.reg 0x2D10 1) = false) ∧
        (arms_injectionsArmOverrideOrAct s t q { obj := 0x2D10, code := s.reg 0x2D10 2, target := s.reg 0x2D10 1, target2 := 0 })
        ∧ (keptBut (.belfry :: .inject :: answerAreas) s t = true)) ∧
    (let s : State := ij (S0b) [(0x2D4001, 31), (0x2D4002, 63)];
    let q : Req := q0;
    let t : State := after (.injectIllegalInstruction q) s;
    (WriteAllowed s q 0x2D40 4 1 = true) ∧ (arms_injectionsArmOverrideOrAct s t q { obj := 0x2D40, code := 1, target := groupKey (s.reg 0x2D40 1) (s.reg 0x2D40 2), target2 := 0 })
        ∧ (keptBut (.belfry :: .inject :: answerAreas) s t = true)) ∧
    (let i : Req → Instr := Instr.injectCoefficientBitFlip;
    let code : Nat := 2;
    let space : Nat := 1;
    let size : Nat := 16384;
    let n : Nat := 1;
    let s : State := ij (S0b) [(0x2D4001, 31), (0x2D4002, 63), (0x2D4003, 16383)];
    let q : Req := q0;
    let k : Nat := gmKey ⟨31, 63⟩ 1 16383;
    let t : State := after (i q) s;
    (WriteAllowed s q 0x2D40 4 code = true) ∧ (s.reg 0x2D40 3 < size) ∧ (k = gmKey ⟨s.reg 0x2D40 1, s.reg 0x2D40 2⟩
        space (s.reg 0x2D40 3)) ∧ ((Tab.get (0, false) s.slices.err k).1 = 0) ∧ (s.isArmed 0x2D40 code k = false) ∧
        (arms_injectionsArmOverrideOrAct s t q { obj := 0x2D40, code := code, target := k, target2 := 0 }) ∧
        (Tab.get (0, false) t.slices.err k = (n, true)) ∧ (t.slices.im = s.slices.im) ∧ (t.slices.cm = s.slices.cm)
        ∧ (keptBut (.belfry :: .inject :: .slices :: answerAreas) s t = true)) :=
  ⟨by decide +kernel, by decide +kernel, by decide +kernel, by decide +kernel, by decide +kernel, by decide +kernel⟩
theorem test_InjectionsArmOverrideOrAct_4 :
    (let i : Req → Instr := Instr.injectInstructionDoubleFlip;
    let code : Nat := 5;
    let space : Nat := 0;
    let size : Nat := 4096;
    let n : Nat := 2;
    let s : State := ij (S0b) [(0x2D4001, 31), (0x2D4002, 63), (0x2D4003, 4095)];
    let q : Req := q0;
    let k : Nat := gmKey ⟨31, 63⟩ 0 4095;
    let t : State := after (i q) s;
    (WriteAllowed s q 0x2D40 4 code = true) ∧ (s.reg 0x2D40 3 < size) ∧ (k = gmKey ⟨s.reg 0x2D40 1, s.reg 0x2D40 2⟩
        space (s.reg 0x2D40 3)) ∧ ((Tab.get (0, false) s.slices.err k).1 = 0) ∧ (s.isArmed 0x2D40 code k = false) ∧
        (arms_injectionsArmOverrideOrAct s t q { obj := 0x2D40, code := code, target := k, target2 := 0 }) ∧
        (Tab.get (0, false) t.slices.err k = (n, true)) ∧ (t.slices.im = s.slices.im) ∧ (t.slices.cm = s.slices.cm)
        ∧ (keptBut (.belfry :: .inject :: .slices :: answerAreas) s t = true)) ∧
    (let i : Req → Instr := Instr.injectMemoryBitFlip;
    let code : Nat := 1;
    let s : State := ij (S0b) [(0x2D2001, 31), (0x2D2002, 524287), (0x2D2003, 39)];
    let q : Req := q0;
    let a : Nat := 524287;
    let n : Nat := 39;
    let k : Nat := 31 * 524288 + 524287;
    let t : State := after (i q) s;
    (WriteAllowed s q 0x2D20 4 code = true) ∧ (s.reg 0x2D20 2 = a) ∧ (a < 2 ^ 31) ∧ (s.reg 0x2D20 3 = n) ∧ (n < 40)
        ∧ (k = s.reg 0x2D20 1 * 524288 + a % 524288) ∧ (s.bmBypass k = false) ∧ (s.bmFlips k = (0#40, false)) ∧
        (arms_injectionsArmOverrideOrAct s t q { obj := 0x2D20, code := code, target := k, target2 := n }) ∧
        (t.bmFlips k = (if code = 1 then 1#40 <<< n else 1#40 <<< n ||| 1#40 <<< ((n + 1) % 40), true)) ∧ (t.mem.bm
        = s.mem.bm) ∧ (keptBut (.belfry :: .inject :: .mem :: answerAreas) s t = true)) ∧
    (let i : Req → Instr := Instr.injectMemoryDoubleFlip;
    let code : Nat := 2;
    let s : State := ij (S0b) [(0x2D2001, 31), (0x2D2002, 524287), (0x2D2003, 39)];
    let q : Req := q0;
    let a : Nat := 524287;
    let n : Nat := 39;
    let k : Nat := 31 * 524288 + 524287;
    let t : State := after (i q) s;
    (WriteAllowed s q 0x2D20 4 code = true) ∧ (s.reg 0x2D20 2 = a) ∧ (a < 2 ^ 31) ∧ (s.reg 0x2D20 3 = n) ∧ (n < 40)
        ∧ (k = s.reg 0x2D20 1 * 524288 + a % 524288) ∧ (s.bmBypass k = false) ∧ (s.bmFlips k = (0#40, false)) ∧
        (arms_injectionsArmOverrideOrAct s t q { obj := 0x2D20, code := code, target := k, target2 := n }) ∧
        (t.bmFlips k = (if code = 1 then 1#40 <<< n else 1#40 <<< n ||| 1#40 <<< ((n + 1) % 40), true)) ∧ (t.mem.bm
        = s.mem.bm) ∧ (keptBut (.belfry :: .inject :: .mem :: answerAreas) s t = true)) ∧
    (let s : State := ij (qu F0 (queueKey 1 15) { mode := 1, words := W3 }) [(0x2D3001, 1), (0x2D3002, 15)];
    let q : Req := q0;
    let which : Nat := 1;
    let k : Nat := queueKey 1 15;
    let i : Req → Instr := Instr.injectWritePointerMismatch;
    let t : State := after (i q) s;
    (WriteAllowed s q 0x2D30 3 which = true) ∧ (k = queueKey (s.reg 0x2D30 1) (s.reg 0x2D30 2)) ∧ (s.isArmed 0x2D30
        1 k = false) ∧ (s.isArmed 0x2D30 2 k = false) ∧ (t.reply q.owner = .done) ∧
        ((tick_injectionsArmOverrideOrAct s q).pointerRuns k which = false → t.inject.armed = s.inject.armed ++ [{ obj := 0x2D30, code := which, target := k, target2 := 0 }]
        ∧ t.queues = s.queues) ∧ ((tick_injectionsArmOverrideOrAct s q).pointerRuns k which = true →
        s.queueScheduled k = false → t.inject.armed = s.inject.armed ∧ (t.queue k).words = [] ∧ t.reg (0x2500 + k /
        16) 0x31 = sat32 (s.reg (0x2500 + k / 16) 0x31 + 1) ∧ t.reg 0x2DFF 4 = evCode 1 3 (k / 16) 1)) ∧
    (let s : State := ij (S0b) [(0x2D3001, 31), (0x2D3002, 15)];
    let q : Req := q0;
    let which : Nat := 2;
    let k : Nat := queueKey 31 15;
    let i : Req → Instr := Instr.injectReadPointerMismatch;
    let t : State := after (i q) s;
    (WriteAllowed s q 0x2D30 3 which = true) ∧ (k = queueKey (s.reg 0x2D30 1) (s.reg 0x2D30 2)) ∧ (s.isArmed 0x2D30
        1 k = false) ∧ (s.isArmed 0x2D30 2 k = false) ∧ (t.reply q.owner = .done) ∧
        ((tick_injectionsArmOverrideOrAct s q).pointerRuns k which = false → t.inject.armed = s.inject.armed ++ [{ obj := 0x2D30, code := which, target := k, target2 := 0 }]
        ∧ t.queues = s.queues) ∧ ((tick_injectionsArmOverrideOrAct s q).pointerRuns k which = true →
        s.queueScheduled k = false → t.inject.armed = s.inject.armed ∧ (t.queue k).words = [] ∧ t.reg (0x2500 + k /
        16) 0x31 = sat32 (s.reg (0x2500 + k / 16) 0x31 + 1) ∧ t.reg 0x2DFF 4 = evCode 1 3 (k / 16) 1)) ∧
    (let s : State := ij F0 [(0x2D5001, 1)];
    let q : Req := q0;
    let r : Nat := 1;
    let t : State := after (.injectUnlock q) s;
    (WriteAllowed s q 0x2D50 2 1 = true) ∧ (s.reg 0x2D50 1 = r) ∧ (r < 32) ∧ ((s.region r).fenced = false) ∧
        (acts_injectionsArmOverrideOrAct s t q (evCode 3 5 r 1)) ∧ ((t.region r).fenced = true) ∧ ((t.region
        r).unlockInj = true) ∧ (t.reg (0x2500 + r) 7 = sat32 (s.reg (0x2500 + r) 7 + 1))) :=
  ⟨by decide +kernel, by decide +kernel, by decide +kernel, by decide +kernel, by decide +kernel, by decide +kernel⟩
theorem test_InjectionsArmOverrideOrAct_5 :
    (let i : Req → Instr := Instr.injectMissUnplannedBank;
    let cause : Nat := 3;
    let s : State := ij F0 [(0x2D6201, 1)];
    let q : Req := q0;
    let r : Nat := 1;
    let p : Nat := 0;
    let t : State := after (i q) s;
    (WriteAllowed s q 0x2D62 2 cause = true) ∧ (s.reg 0x2D62 1 = r) ∧ (r < 32) ∧ (p < 8) ∧ ((s.region r).part = some
        p) ∧ ((s.region r).inReset = false) ∧ ((s.region r).halted = false) ∧ ((s.region r).fenced = false) ∧
        ((s.part p).status = .armed) ∧ (acts_injectionsArmOverrideOrAct s t q (evCode 3 6 r (0x100 + cause))) ∧
        ((t.region r).fenced = true) ∧ ((t.part p).status = .broken) ∧ ((t.region r).lastMiss.map (fun x =>
        (x.cause, x.slot, x.tag, x.injected)) = some (cause, 0xFFFF, 0, true))) ∧
    (let i : Req → Instr := Instr.injectMissSequencerOverrun;
    let cause : Nat := 9;
    let s : State := ij F0 [(0x2D6201, 1)];
    let q : Req := q0;
    let r : Nat := 1;
    let p : Nat := 0;
    let t : State := after (i q) s;
    (WriteAllowed s q 0x2D62 2 cause = true) ∧ (s.reg 0x2D62 1 = r) ∧ (r < 32) ∧ (p < 8) ∧ ((s.region r).part = some
        p) ∧ ((s.region r).inReset = false) ∧ ((s.region r).halted = false) ∧ ((s.region r).fenced = false) ∧
        ((s.part p).status = .armed) ∧ (acts_injectionsArmOverrideOrAct s t q (evCode 3 6 r (0x100 + cause))) ∧
        ((t.region r).fenced = true) ∧ ((t.part p).status = .broken) ∧ ((t.region r).lastMiss.map (fun x =>
        (x.cause, x.slot, x.tag, x.injected)) = some (cause, 0xFFFF, 0, true))) ∧
    (let i : Req → Instr := Instr.injectVaneLate;
    let code : Nat := 1;
    let sub : Nat := 3;
    let s : State := ij (vn S0b 1535 { fifo := [5#32, 6#32] }) [(0x2D7001, 1535)];
    let q : Req := q0;
    let tp : Nat := 1535;
    let t : State := after (i q) s;
    (WriteAllowed s q 0x2D70 2 code = true) ∧ (s.reg 0x2D70 1 = tp) ∧ (acts_injectionsArmOverrideOrAct s t q (evCode
        1 7 (tpBank tp) code)) ∧ (t.reg 0x2418 sub = sat32 (s.reg 0x2418 sub + 1))) ∧
    (let i : Req → Instr := Instr.injectVaneContention;
    let code : Nat := 5;
    let sub : Nat := 7;
    let s : State := ij (vn S0b 1535 { fifo := [5#32, 6#32] }) [(0x2D7001, 1535)];
    let q : Req := q0;
    let tp : Nat := 1535;
    let t : State := after (i q) s;
    (WriteAllowed s q 0x2D70 2 code = true) ∧ (s.reg 0x2D70 1 = tp) ∧ (acts_injectionsArmOverrideOrAct s t q (evCode
        1 7 (tpBank tp) code)) ∧ (t.reg 0x2418 sub = sat32 (s.reg 0x2418 sub + 1))) ∧
    (let s : State := ij (S0b) [(0x2D7001, 1535)];
    let q : Req := q0;
    let tp : Nat := 1535;
    let t : State := after (.injectVaneVccoFault q) s;
    (WriteAllowed s q 0x2D70 2 6 = true) ∧ (s.reg 0x2D70 1 = tp) ∧ (acts_injectionsArmOverrideOrAct s t q (evCode 1
        7 (tpBank tp) 6)) ∧ ((t.bank (tpBank tp)).vccoParked = true) ∧ ((t.bank (tpBank tp)).mV = (s.bank (tpBank
        tp)).mV)) ∧
    (let s : State := ij (S0b) [(0x2D7001, 1535)];
    let q : Req := q0;
    let tp : Nat := 1535;
    let t : State := after (.injectVaneCalibrationLimit q) s;
    (WriteAllowed s q 0x2D70 2 7 = true) ∧ (s.reg 0x2D70 1 = tp) ∧ (acts_injectionsArmOverrideOrAct s t q (evCode 1
        7 (tpBank tp) 8)) ∧ ((t.vane tp).degraded = true)) :=
  ⟨by decide +kernel, by decide +kernel, by decide +kernel, by decide +kernel, by decide +kernel, by decide +kernel⟩
theorem test_InjectionsArmOverrideOrAct_6 :
    (let s : State := ij (po S0b 3 { link := 2 }) [(0x2DA001, 3)];
    let q : Req := q0;
    let h : Nat := 3;
    let t : State := after (.injectPcieLinkDown q) s;
    (WriteAllowed s q 0x2DA0 3 1 = true) ∧ (s.reg 0x2DA0 1 = h) ∧ (h < 4) ∧ ((s.port h).link = 2) ∧
        (acts_injectionsArmOverrideOrAct s t q (evCode 4 10 h 2)) ∧ ((t.port h).link = 0)) ∧
    (let s : State := ij (po S0b 3 (dma1 { enable := true })) [(0x2DA001, 3), (0x2DA002, 15)];
    let q : Req := q0;
    let h : Nat := 3;
    let c : Nat := 15;
    let t : State := after (.injectDoorbellOverrun q) s;
    (WriteAllowed s q 0x2DA0 3 3 = true) ∧ (s.reg 0x2DA0 1 = h) ∧ (s.reg 0x2DA0 2 = c) ∧ ((s.dma h c).enable = true)
        ∧ (acts_injectionsArmOverrideOrAct s t q (evCode 4 10 h 5)) ∧ ((t.dma h c).st = 3)) ∧
    (let s : State := ij (ec S0b { link := 3#2 }) [(0x2DB001, 1)];
    let q : Req := q0;
    let p : Nat := 1;
    let t : State := after (.injectEcatLinkLoss q) s;
    (WriteAllowed s q 0x2DB0 2 1 = true) ∧ (s.reg 0x2DB0 1 = p) ∧ (s.ecat.link.getLsbD p = true) ∧
        (acts_injectionsArmOverrideOrAct s t q (evCode 4 11 p 4)) ∧ (t.ecat.link.getLsbD p = false)) ∧
    (let s : State := ij (ec S0b { al := .op }) [];
    let q : Req := q0;
    let t : State := after (.injectSmWatchdog q) s;
    (WriteAllowed s q 0x2DB0 2 2 = true) ∧ (s.ecat.al = .op) ∧ (acts_injectionsArmOverrideOrAct s t q 0x40B00002) ∧
        (t.ecat.al = .safeop) ∧ (t.ecat.code = 0x001B)) ∧
    (let s : State := ij (S0b) [];
    let q : Req := q0;
    let t : State := after (.injectBootDirectoryEmpty q) s;
    (WriteAllowed s q 0x2DC0 1 4 = true) ∧ (t.reply q.owner = .done) ∧ (t.loader = { s.loader with injDir := true })
        ∧ (keptBut (.belfry :: .loader :: answerAreas) s t = true)) ∧
    (let i : Req → Instr := Instr.injectFrameBitFlip;
    let code : Nat := 1;
    let w : Nat := 1;
    let s : State := ij (S0b) [(0x2DD001, 0x020F8087)];
    let q : Req := q0;
    let n : Nat := frameNo 16 31 0x87;
    let t : State := after (i q) s;
    (WriteAllowed s q 0x2DD0 2 code = true) ∧ (frameOf (BitVec.ofNat 32 (s.reg 0x2DD0 1)) = some n) ∧
        ((s.watch.stuck.find? fun x => x.1 == n) = none) ∧ (arms_injectionsArmOverrideOrAct s t q { obj := 0x2DD0, code := code, target := n, target2 := 0 })
        ∧ (code ≠ 3 → t.loader.staging = s.loader.staging) ∧ (t.loader.activeRef = s.loader.activeRef) ∧ (keptBut
        (.belfry :: .inject :: .loader :: .watch :: .free :: answerAreas) s t = true)) :=
  ⟨by decide +kernel, by decide +kernel, by decide +kernel, by decide +kernel, by decide +kernel, by decide +kernel⟩
theorem test_InjectionsArmOverrideOrAct_7 :
    (let i : Req → Instr := Instr.injectFrameStuckBit;
    let code : Nat := 4;
    let w : Nat := 1;
    let s : State := ij (S0b) [(0x2DD001, 0x020F8087)];
    let q : Req := q0;
    let n : Nat := frameNo 16 31 0x87;
    let t : State := after (i q) s;
    (WriteAllowed s q 0x2DD0 2 code = true) ∧ (frameOf (BitVec.ofNat 32 (s.reg 0x2DD0 1)) = some n) ∧
        ((s.watch.stuck.find? fun x => x.1 == n) = none) ∧ (arms_injectionsArmOverrideOrAct s t q { obj := 0x2DD0, code := code, target := n, target2 := 0 })
        ∧ (code ≠ 3 → t.loader.staging = s.loader.staging) ∧ (t.loader.activeRef = s.loader.activeRef) ∧ (keptBut
        (.belfry :: .inject :: .loader :: .watch :: .free :: answerAreas) s t = true)) ∧
    (let s : State := ij (S0b) [];
    let q : Req := q0;
    let t : State := after (.injectWithheldHeartbeat q) s;
    (WriteAllowed s q 0x2DD0 2 5 = true) ∧ (arms_injectionsArmOverrideOrAct s t q { obj := 0x2DD0, code := 5, target := noFrame, target2 := 0 })
        ∧ (keptBut (.belfry :: .inject :: answerAreas) s t = true)) ∧
    (let s : State := ij (S0b) [];
    let q : Req := q0;
    let t : State := after (.injectPassPointerCorruption q) s;
    (WriteAllowed s q 0x2DD0 2 6 = true) ∧ (arms_injectionsArmOverrideOrAct s t q { obj := 0x2DD0, code := 6, target := noFrame, target2 := 0 })
        ∧ (t.watch = { s.watch with ptr2 := s.watch.ptr + 1 }) ∧ (keptBut (.belfry :: .inject :: .watch ::
        answerAreas) s t = true)) ∧
    (let i : Req → Instr := Instr.injectCrcSingleError;
    let code : Nat := 1;
    let s : State := ij (S0b) [(0x2DD101, 0x020F8087)];
    let q : Req := q0;
    let n : Nat := frameNo 16 31 0x87;
    let t : State := after (i q) s;
    (WriteAllowed s q 0x2DD1 2 code = true) ∧ (frameOf (BitVec.ofNat 32 (s.reg 0x2DD1 1)) = some n) ∧
        (arms_injectionsArmOverrideOrAct s t q { obj := 0x2DD1, code := code, target := n, target2 := 0 }) ∧
        (keptBut (.belfry :: .inject :: answerAreas) s t = true)) ∧
    (let i : Req → Instr := Instr.injectCrcUncorrectable;
    let code : Nat := 2;
    let s : State := ij (S0b) [(0x2DD101, 0x020F8087)];
    let q : Req := q0;
    let n : Nat := frameNo 16 31 0x87;
    let t : State := after (i q) s;
    (WriteAllowed s q 0x2DD1 2 code = true) ∧ (frameOf (BitVec.ofNat 32 (s.reg 0x2DD1 1)) = some n) ∧
        (arms_injectionsArmOverrideOrAct s t q { obj := 0x2DD1, code := code, target := n, target2 := 0 }) ∧
        (keptBut (.belfry :: .inject :: answerAreas) s t = true)) ∧
    (let s : State := ij (S0b) [(0x2DE001, 0)];
    let q : Req := q0;
    let n : Nat := 0;
    let t : State := after (.injectPowerFault q) s;
    (WriteAllowed s q 0x2DE0 3 2 = true) ∧ (s.reg 0x2DE0 1 = n) ∧ (n < 20) ∧ (s.serving = true) ∧ (t.reply q.owner =
        .done) ∧ (t.dev.st = .safe) ∧ (t.dev.cause = evCode 4 14 n 5)) :=
  ⟨by decide +kernel, by decide +kernel, by decide +kernel, by decide +kernel, by decide +kernel, by decide +kernel⟩
theorem test_InjectionsArmOverrideOrAct_8 :
    (let s : State := ij (S0b) [(0x2DE001, 19)];
    let q : Req := q0;
    let n : Nat := 19;
    let t : State := after (.injectPowerFault q) s;
    (WriteAllowed s q 0x2DE0 3 2 = true) ∧ (s.reg 0x2DE0 1 = n) ∧ (n < 20) ∧ (s.serving = true) ∧ (t.reply q.owner =
        .done) ∧ (t.dev.st = .safe) ∧ (t.dev.cause = evCode 4 14 n 5)) ∧
    (let s : State := ij (S0b) [(0x2DE001, 32)];
    let q : Req := q0;
    let n : Nat := 32;
    let t : State := after (.injectClockLoss q) s;
    (WriteAllowed s q 0x2DE0 3 3 = true) ∧ (s.reg 0x2DE0 1 = n) ∧ (n ∈ [32, 33, 36, 37, 39]) ∧ (s.serving = true) ∧
        (t.reply q.owner = .done) ∧ (t.dev.st = .safe) ∧ (t.dev.cause = evCode 4 14 n 6)) ∧
    (let s : State := ij (S0b) [(0x2DE001, 39)];
    let q : Req := q0;
    let n : Nat := 39;
    let t : State := after (.injectClockLoss q) s;
    (WriteAllowed s q 0x2DE0 3 3 = true) ∧ (s.reg 0x2DE0 1 = n) ∧ (n ∈ [32, 33, 36, 37, 39]) ∧ (s.serving = true) ∧
        (t.reply q.owner = .done) ∧ (t.dev.st = .safe) ∧ (t.dev.cause = evCode 4 14 n 6)) ∧
    (let s : State := ij (S0b) [(0x2DE001, 34)];
    let q : Req := q0;
    let n : Nat := 34;
    let t : State := after (.injectClockLoss q) s;
    (WriteAllowed s q 0x2DE0 3 3 = true) ∧ (s.reg 0x2DE0 1 = n) ∧ (n ∈ [34, 35, 38]) ∧
        (acts_injectionsArmOverrideOrAct s t q (evCode 4 14 n 7)) ∧ (t.dev.st = s.dev.st)) ∧
    (let s : State := ij (S0b) [(0x2DE001, 38)];
    let q : Req := q0;
    let n : Nat := 38;
    let t : State := after (.injectClockLoss q) s;
    (WriteAllowed s q 0x2DE0 3 3 = true) ∧ (s.reg 0x2DE0 1 = n) ∧ (n ∈ [34, 35, 38]) ∧
        (acts_injectionsArmOverrideOrAct s t q (evCode 4 14 n 7)) ∧ (t.dev.st = s.dev.st)) ∧
    (let i : Req → Instr := Instr.injectWatchdogExpiry;
    let code : Nat := 4;
    let ev : Nat := 0x40E00010;
    let s : State := ij (S0b) [];
    let q : Req := q0;
    let t : State := after (i q) s;
    (WriteAllowed s q 0x2DE0 3 code = true) ∧ (s.serving = true) ∧ (t.reply q.owner = .done) ∧ (t.dev.st = .safe) ∧
        (t.dev.cause = ev) ∧ (t.lantern.running = false)) :=
  ⟨by decide +kernel, by decide +kernel, by decide +kernel, by decide +kernel, by decide +kernel, by decide +kernel⟩
theorem test_InjectionsArmOverrideOrAct_9 :
    (let i : Req → Instr := Instr.injectSramUncorrectable;
    let code : Nat := 5;
    let ev : Nat := 0x40E00011;
    let s : State := ij (S0b) [];
    let q : Req := q0;
    let t : State := after (i q) s;
    (WriteAllowed s q 0x2DE0 3 code = true) ∧ (s.serving = true) ∧ (t.reply q.owner = .done) ∧ (t.dev.st = .safe) ∧
        (t.dev.cause = ev) ∧ (t.lantern.running = false)) ∧
    (let s : State := ij (S0b) [];
    let q : Req := q0;
    let t : State := after (.injectSramCorrectable q) s;
    (WriteAllowed s q 0x2DE0 3 6 = true) ∧ (acts_injectionsArmOverrideOrAct s t q 0x40E00012) ∧
        (t.lantern.sramCorrected = true) ∧ (t.reg 0x2002 7 = sat32 (s.reg 0x2002 7 + 1)) ∧ (t.dev.st = s.dev.st)) ∧
    (let s : State := ij (S0b) [(0x2C1805, 1), (0x2C1803, 0)];
    let q : Req := q0;
    let t : State := after (.injectTriggerFire q) s;
    (WriteAllowed s q 0x2DF0 1 3 = true) ∧ (s.reg 0x2C18 5 = 1) ∧ (s.triggerBlocked 0 = false) ∧ (s.reg 0x2C18 3 =
        0) ∧ (t.reply q.owner = .done) ∧ (t.reg 0x2C18 5 = 0) ∧ (t.reg 0x2DFF 3 = sat32 (s.reg 0x2DFF 3 + 1)) ∧
        (keptBut (.belfry :: answerAreas) s t = true)) :=
  ⟨by decide +kernel, by decide +kernel, by decide +kernel⟩

/-! ### Witnesses of the statements about the whole machine -/

theorem test_DeviceStatesFollowTheTable : ∃ c s t, exec c s = .next t ∧ s.dev.st = .reduced ∧
    t.dev.st = .off ∧ DeviceState.edge s.dev.st t.dev.st = true :=
  ⟨.p00SupplyFail, S0, after .p00SupplyFail S0, rfl, by decide +kernel, by decide +kernel, by decide +kernel⟩

/-- Reset with words in a block memory, in both planes and in the SII, and a supply command waiting. -/
def full : State :=
  { mm S0 { bm := [(5, 3#40), (k7, 9#40)] } with
    loader := { active := [{ first := 0, count := 2, frame := 9#2048 }, { first := 2, count := 1, frame := 7#2048 }], staged := [SS 10] }
    ecat := { sii := [(4, 7#16)] }
    pending := [.voltageMonitorFault 3 0 4] }
theorem test_canonical_full : full.Canonical where
  bm := by decide +kernel
  sp := by decide +kernel
  im := by decide +kernel
  cm := by decide +kernel
  ds := by decide +kernel
  sii := by decide +kernel
  dram := by decide +kernel
  active := ⟨by decide +kernel, by decide +kernel⟩
  activeRef := ⟨by decide +kernel, by decide +kernel⟩
  staging := ⟨by decide +kernel, by decide +kernel⟩
  stagingRef := ⟨by decide +kernel, by decide +kernel⟩
  streams := by
    have h : full.stagedStreams = [SS 10] := by decide +kernel
    rw [h]
    simp [Staged.sectionsApart, SS]
theorem test_StepsKeepTheCanonicalForm : ∃ s t, s.Canonical ∧ step s = .next t ∧ t.dev.st = .safe :=
  ⟨full, (nx (step full)).getD full, test_canonical_full, rfl, by decide +kernel⟩

end Sys2Proof.Machine.Tests
end

/-! # The dictionary's SDO service (O43)

A request that the device answers works on `s.served q`; every row of the SDO service then leaves a state of the form
`s.on (b.answer o r)`. The first parts say what an answer leaves alone and what the open transfer of a path is after each
operation; then there is one equation for each outcome of a row; the obligation follows from those. -/

namespace Sys2Proof.Machine

open Sys2Proof

/-! ### Frames -/

theorem Area.same.trans {x : Area} {a b c : Chip} (h : x.same a b) (k : x.same b c) : x.same a c := by
  cases x <;> exact Eq.trans k h

/-- An answer leaves every area alone that is not on a requester's path. -/
theorem Area.same_answer {x : Area} (h : x ∉ answerAreas) (b : Chip) (o : Nat) (r : Reply) :
    x.same b (b.answer o r) := by
  cases x <;> simp_all [answerAreas, Area.same]

theorem Area.same_dict {x : Area} (h : x ≠ .dict) (b : Chip) (d : Dict) : x.same b { b with dict := d } := by
  cases x <;> simp_all [Area.same]

theorem Area.same_upTo {x : Area} (h : x ≠ .belfry) (b : Chip) (t : Nat) : x.same b (b.upTo t) := by
  cases x <;> simp_all [Area.same]

section
variable {l : List Area} {s : State} {b : Chip}

theorem OnlyTouches.refl (l : List Area) (s : State) : OnlyTouches l s (s.on s.toChip) :=
  ⟨rfl, fun x _ => by cases x <;> rfl⟩

/-- A further change that keeps to the listed areas. -/
theorem OnlyTouches.extend {c : Chip} (h : OnlyTouches l s (s.on b)) (k : ∀ x, x ∉ l → x.same b c) :
    OnlyTouches l s (s.on c) :=
  ⟨rfl, fun x hx => (h.2 x hx).trans (k x hx)⟩

theorem OnlyTouches.answer (h : OnlyTouches l s (s.on b)) (hl : answerAreas ⊆ l) (o : Nat) (r : Reply) :
    OnlyTouches l s (s.on (b.answer o r)) :=
  h.extend fun _ hx => Area.same_answer (fun ha => hx (hl ha)) b o r

theorem OnlyTouches.withDict (h : OnlyTouches l s (s.on b)) (hl : .dict ∈ l) (d : Dict) :
    OnlyTouches l s (s.on { b with dict := d }) :=
  h.extend fun _ hx => Area.same_dict (by rintro rfl; exact hx hl) b d

theorem OnlyTouches.upTo (hl : .belfry ∈ l) (s : State) (t : Nat) : OnlyTouches l s (s.on (s.toChip.upTo t)) :=
  (OnlyTouches.refl l s).extend fun _ hx => Area.same_upTo (by rintro rfl; exact hx hl) s.toChip t

end

/-! ### The open transfer of a path, and the last answer -/

theorem Tab.find?_set_self {α : Type} (t : Tab α) (k : Nat) (v : α) :
    (Tab.set t k v).find? (fun x : Nat × α => x.1 == k) = some (k, v) := by
  induction t with
  | nil => simp [Tab.set]
  | cons x t ih =>
    obtain ⟨i, a⟩ := x
    simp only [Tab.set]
    split
    · simp
    · split
      · simp
      · rename_i hne _
        simp [hne, ih]

@[simp] theorem Chip.segmentOf_openSegment_self (b : Chip) (o : Nat) (g : Segment) :
    (b.openSegment o g).segmentOf o = some g := by
  simp [Chip.segmentOf, Chip.openSegment, Tab.find?_set_self]

@[simp] theorem Chip.segmentOf_closeSegment_self (b : Chip) (o : Nat) : (b.closeSegment o).segmentOf o = none := by
  have h : (b.closeSegment o).dict.segs.find? (fun x : Nat × Segment => x.1 == o) = none := by
    simp [Chip.closeSegment, Tab.drop, List.find?_eq_none]
  simp [Chip.segmentOf, h]

@[simp] theorem Chip.segmentOf_upTo (b : Chip) (t o : Nat) : (b.upTo t).segmentOf o = b.segmentOf o := rfl
@[simp] theorem Chip.segmentOf_setReg (b : Chip) (i j v o : Nat) : (b.setReg i j v).segmentOf o = b.segmentOf o := rfl
@[simp] theorem State.segmentOf_served_self (s : State) (q : Req) : (s.served q).segmentOf q.owner = none :=
  Chip.segmentOf_closeSegment_self _ _

@[simp] theorem Chip.segmentOf_answer (b : Chip) (o p : Nat) (r : Reply) :
    (b.answer o r).segmentOf p = b.segmentOf p := by
  simp [Chip.answer, Chip.segmentOf]

@[simp] theorem State.reply_on_answer (s : State) (b : Chip) (o : Nat) (r : Reply) :
    (s.on (b.answer o r)).reply o = r := by
  simp [State.reply, State.on]

@[simp] theorem State.on_toChip (s : State) (b : Chip) : (s.on b).toChip = b := rfl

@[simp] theorem Chip.reg_openSegment (b : Chip) (o i j : Nat) (g : Segment) :
    (b.openSegment o g).reg i j = b.reg i j := rfl
@[simp] theorem Chip.reg_upTo (b : Chip) (t i j : Nat) : (b.upTo t).reg i j = b.reg i j := rfl

/-- What the answer of a request may touch: time, and the requester's path. -/
theorem OnlyTouches.served (s : State) (q : Req) : OnlyTouches (.belfry :: answerAreas) s (s.on (s.served q)) :=
  (OnlyTouches.upTo (by simp) s q.t).withDict (by simp [answerAreas]) _

/-! ### Numbers as bytes -/

@[simp] theorem length_toBytes (n v : Nat) : (toBytes n v).length = n := by
  induction n generalizing v with
  | zero => rfl
  | succ n ih => simp [toBytes, ih]

theorem ofBytes_toBytes {n v : Nat} (h : v < 256 ^ n) : ofBytes (toBytes n v) = v := by
  induction n generalizing v with
  | zero => simp_all [toBytes, ofBytes]
  | succ n ih =>
    have hd : v / 256 < 256 ^ n := Nat.div_lt_of_lt_mul (by rwa [Nat.pow_succ'] at h)
    simp only [toBytes, ofBytes, ih hd, BitVec.toNat_ofNat]
    omega

/-! ### The write of a plain number -/

theorem Chip.find_of_checkWrite_ok {b : Chip} {o idx sub len v : Nat} {e : Entry}
    (h : b.checkWrite o idx sub len v = .ok e) : DictTable.find idx sub = some e := by
  unfold Chip.checkWrite at h
  split at h
  · cases h
  · split at h
    · cases h
    · rename_i e' he
      split_ifs at h
      obtain rfl : e' = e := Except.ok.inj h
      exact he

/-- The checks of a number's write look at its value and at the length of its type. -/
theorem Chip.checkWrite_of_writeEntry_ok {b : Chip} {o idx sub v n : Nat}
    (h : (b.writeEntry o idx sub v Except.ok).isOk = true)
    (hn : (DictTable.find idx sub).map (fun e => e.ty.bytes) = some n) :
    ∃ e, b.checkWrite o idx sub n v = .ok e ∧ e.ty.bytes = n := by
  obtain ⟨e, he, rfl⟩ := Option.map_eq_some_iff.1 hn
  simp only [Chip.writeEntry, he] at h
  split at h
  · rename_i e' hc
    obtain rfl : e = e' := Option.some.inj (he.symm.trans (Chip.find_of_checkWrite_ok hc))
    exact ⟨e, hc, rfl⟩
  · cases h

/-- The objects of the memory hub, of Cupola and of the host ports hold plain registers only. -/
theorem Chip.effect_plain {idx : Nat} (hlo : 0x2600 ≤ idx) (hhi : idx < 0x2900) (b : Chip) (o sub v : Nat) :
    b.effect o idx sub v = .ok (b.setReg idx sub v) := by
  have hp : idx / 256 = 0x26 ∨ idx / 256 = 0x27 ∨ idx / 256 = 0x28 := by omega
  rcases hp with hp | hp | hp <;> simp [Chip.effect, hp, Chip.storeReg]

/-- A number for an entry of these objects, as its bytes (R339). -/
structure PlainNumber (idx sub n v : Nat) : Prop where
  lo : 0x2600 ≤ idx
  hi : idx < 0x2900
  ne : n ≠ 0
  entry : (DictTable.find idx sub).map (fun e => e.ty.bytes) = some n
  lt : v < 256 ^ n

/-- An allowed write of a plain number stores it. -/
theorem Chip.writeOne_plain {b : Chip} {o idx sub n v : Nat} (hp : PlainNumber idx sub n v)
    (h : (b.writeEntry o idx sub v Except.ok).isOk = true) :
    b.writeOne o idx sub (toBytes n v) = (b.setReg idx sub v, none) := by
  obtain ⟨e, hc, hb⟩ := Chip.checkWrite_of_writeEntry_ok h hp.entry
  have hw : b.writeBytes o idx sub (toBytes n v) n = (b.setReg idx sub v, none) := by
    simp [Chip.writeBytes, ofBytes_toBytes hp.lt, hc, hb, hp.ne, Chip.effect_plain hp.lo hp.hi]
  have h1 := hp.lo
  have h2 : idx ≠ 0x1C12 := by omega
  have h3 : idx ≠ 0x1C13 := by omega
  simp [Chip.writeOne, hw, Chip.checkAssign, h2, h3]

theorem dictAlive_of_writeAllowed {s : State} {q : Req} {idx sub v : Nat} (h : WriteAllowed s q idx sub v = true) :
    s.dictAlive = true := (Bool.and_eq_true_iff.1 h).1

theorem writeOne_of_writeAllowed {s : State} {q : Req} {idx sub n v : Nat} (h : WriteAllowed s q idx sub v = true)
    (hp : PlainNumber idx sub n v) :
    (s.served q).writeOne q.owner idx sub (toBytes n v) = ((s.served q).setReg idx sub v, none) :=
  Chip.writeOne_plain hp (Bool.and_eq_true_iff.1 h).2

/-- A write to an object that does not exist is refused whatever its data. -/
theorem Chip.writeOne_no_object {idx : Nat} (h : DictTable.hasObject idx = false) (b : Chip) (o sub : Nat)
    (d : Bytes) : b.writeOne o idx sub d = (b, some 0x06020000) := by
  simp [Chip.writeOne, Chip.writeBytes, Chip.checkWrite, h, Chip.checkAssign]

/-! ### The requests that are answered -/

/-! Each row of the service as what it does to the device. -/

theorem exec_sdoDownload (q : Req) (idx sub : Nat) (complete : Bool) (d : Bytes) (n : Nat) (s : State) :
    exec (.sdoDownload q idx sub complete d n) s =
      .next (s.on (s.toChip.request q fun b => b.sdoDown q.owner idx sub complete d n)) := rfl

theorem exec_sdoDownloadSegment (q : Req) (toggle last : Bool) (d : Bytes) (s : State) :
    exec (.sdoDownloadSegment q toggle last d) s =
      .next (s.on (s.toChip.segmentRequest q fun b => b.downSegment q.owner toggle last d)) := rfl

theorem exec_sdoUpload (q : Req) (idx sub : Nat) (complete segmented : Bool) (s : State) :
    exec (.sdoUpload q idx sub complete segmented) s =
      .next (s.on (s.toChip.request q fun b => b.sdoUp q.owner idx sub complete segmented)) := rfl

theorem exec_sdoUploadSegment (q : Req) (toggle : Bool) (s : State) :
    exec (.sdoUploadSegment q toggle) s =
      .next (s.on (s.toChip.segmentRequest q fun b => b.upSegment q.owner toggle)) := rfl

theorem exec_sdoInformation (q : Req) (idx sub : Nat) (s : State) :
    exec (.sdoInformation q idx sub) s = .next (s.on (s.toChip.request q fun b => b.sdoInfo q.owner idx sub)) := rfl

theorem exec_registerWrite (q : Req) (g : Register) (v : Nat) (s : State) :
    exec (.registerWrite q g v) s = .next (s.on (s.toChip.registerWrite q g v)) := rfl

theorem request_alive {s : State} (h : s.dictAlive = true) (q : Req) (f : Chip → Chip) :
    s.toChip.request q f = f (s.served q) := if_pos h

theorem segmentRequest_alive {s : State} (h : s.dictAlive = true) (q : Req) (f : Chip → Chip) :
    s.toChip.segmentRequest q f = f (s.toChip.upTo q.t) := if_pos h

/-! ### Downloads -/

section
variable {s : State} {q : Req} {idx sub n v : Nat} {g : Segment} {d : Bytes}

/-- The whole of a plain number takes effect, and is answered (R337). -/
theorem download_plain (hp : PlainNumber idx sub n v) (h : WriteAllowed s q idx sub v = true) :
    (s.served q).download q.owner idx sub false (toBytes n v) =
      ((s.served q).setReg idx sub v).answer q.owner .done := by
  simp [Chip.download, writeOne_of_writeAllowed h hp, finishWrite]

theorem exec_sdoDownload_plain (hp : PlainNumber idx sub n v) (h : WriteAllowed s q idx sub v = true) :
    exec (.sdoDownload q idx sub false (toBytes n v) n) s =
      .next (s.on (((s.served q).setReg idx sub v).answer q.owner .done)) := by
  rw [exec_sdoDownload, request_alive (dictAlive_of_writeAllowed h), Chip.sdoDown, if_pos (length_toBytes n v),
    download_plain hp h]

theorem exec_sdoDownload_no_object (ha : s.dictAlive = true) (h : DictTable.hasObject idx = false) (sub : Nat)
    (d : Bytes) :
    exec (.sdoDownload q idx sub false d d.length) s =
      .next (s.on ((s.served q).answer q.owner (.abort 0x06020000))) := by
  rw [exec_sdoDownload, request_alive ha]
  simp [Chip.sdoDown, Chip.download, Chip.writeOne_no_object h, finishWrite]

/-- A request that does not carry all of its data opens a transfer. -/
theorem exec_sdoDownload_opens (ha : s.dictAlive = true) (hd : d.length < n) (hn : n ≤ 4096) (idx sub : Nat) :
    exec (.sdoDownload q idx sub false d n) s =
      .next (s.on (((s.served q).openSegment q.owner
        { upload := false, idx := idx, sub := sub, complete := false, toggle := false, total := n, data := d }).answer
          q.owner .done)) := by
  rw [exec_sdoDownload, request_alive ha]
  have h1 : d.length ≠ n := by omega
  have h2 : ¬ n < d.length := by omega
  have h3 : ¬ 4096 < n := by omega
  simp [Chip.sdoDown, h1, h2, h3]

theorem exec_sdoDownloadSegment_continues (ha : s.dictAlive = true) (hg : s.segmentOf q.owner = some g)
    (hu : g.upload = false) (hl : (g.data ++ d).length ≤ g.total) :
    exec (.sdoDownloadSegment q g.toggle false d) s =
      .next (s.on (((s.toChip.upTo q.t).openSegment q.owner { g with toggle := !g.toggle, data := g.data ++ d }).answer
        q.owner .done)) := by
  rw [exec_sdoDownloadSegment, segmentRequest_alive ha]
  have h1 : ¬ g.total < (g.data ++ d).length := by omega
  simp only [Chip.downSegment, Chip.segmentOf_upTo, hg, hu, h1]
  simp

/-- The last segment of a plain number. -/
theorem exec_sdoDownloadSegment_last (hg : s.segmentOf q.owner = some g) (hu : g.upload = false)
    (hc : g.complete = false) (hp : PlainNumber g.idx g.sub n v) (ht : g.total = n) (hd : g.data ++ d = toBytes n v)
    (h : WriteAllowed s q g.idx g.sub v = true) :
    exec (.sdoDownloadSegment q g.toggle true d) s =
      .next (s.on (((s.served q).setReg g.idx g.sub v).answer q.owner .done)) := by
  rw [exec_sdoDownloadSegment, segmentRequest_alive (dictAlive_of_writeAllowed h), ← download_plain hp h]
  simp only [Chip.downSegment, Chip.segmentOf_upTo, hg, hu, hc, hd, ht, length_toBytes]
  simp [State.served]

theorem exec_sdoDownloadSegment_toggle (ha : s.dictAlive = true) (hg : s.segmentOf q.owner = some g)
    (hu : g.upload = false) {x : Bool} (hx : x ≠ g.toggle) (last : Bool) (d : Bytes) :
    exec (.sdoDownloadSegment q x last d) s = .next (s.on ((s.served q).answer q.owner (.abort 0x05030000))) := by
  rw [exec_sdoDownloadSegment, segmentRequest_alive ha]
  simp only [Chip.downSegment, Chip.segmentOf_upTo, hg, hu, if_pos hx]
  rfl

end

/-! ### Uploads -/

section
variable {s : State} {q : Req} {idx sub n : Nat} {g : Segment}

/-- An entry that the requester may read passes the checks of a read, where its object does not wait for Lantern. -/
theorem checkRead_of_readAllowed (ho : DictTable.hasObject idx = true) (hl : needsLantern idx = false)
    (h : ReadAllowed s q idx sub = true) :
    ∃ e, DictTable.find idx sub = some e ∧ (s.served q).checkRead q.owner idx sub = .ok e := by
  cases hf : DictTable.find idx sub with
  | none => simp [ReadAllowed, hf] at h
  | some e =>
    simp only [ReadAllowed, hf, Bool.and_eq_true, bne_iff_ne] at h
    obtain ⟨-, hw, hr⟩ := h
    exact ⟨e, rfl, by simp [Chip.checkRead, ho, hf, hl, hw, hr]⟩

theorem dictAlive_of_readAllowed (h : ReadAllowed s q idx sub = true) : s.dictAlive = true :=
  (Bool.and_eq_true_iff.1 h).1

/-- The two entries read as their registers, in the bytes of their type. -/
theorem readEntry_plain (h : (idx, sub) ∈ [(0x2600, 9), (0x2910, 3)]) {e : Entry} (he : e.ty.bytes ≠ 0) (b : Chip)
    (o : Nat) :
    b.readEntry o idx sub e = (b, .ok (toBytes e.ty.bytes (b.reg idx sub))) := by
  simp only [List.mem_cons, Prod.mk.injEq, List.not_mem_nil, or_false] at h
  rcases h with ⟨rfl, rfl⟩ | ⟨rfl, rfl⟩
  · simp [Chip.readEntry, he, Chip.view, Chip.view26]
  · simp [Chip.readEntry, he, Chip.view, Chip.view29]

theorem readOne_plain (h : (idx, sub) ∈ [(0x2600, 9), (0x2910, 3)])
    (hn : (DictTable.find idx sub).map (fun e => e.ty.bytes) = some n) (hr : ReadAllowed s q idx sub = true) :
    (s.served q).readOne q.owner idx sub = (s.served q, .ok (toBytes n (s.reg idx sub))) := by
  have hx : DictTable.hasObject idx = true ∧ needsLantern idx = false ∧
      (DictTable.find idx sub).map (fun e => e.ty.bytes) ≠ some 0 := by
    simp only [List.mem_cons, Prod.mk.injEq, List.not_mem_nil, or_false] at h
    rcases h with ⟨rfl, rfl⟩ | ⟨rfl, rfl⟩ <;> decide
  obtain ⟨ho, hl, h0⟩ := hx
  obtain ⟨e, he, hc⟩ := checkRead_of_readAllowed ho hl hr
  obtain rfl : e.ty.bytes = n := by simpa [he] using hn
  have hb : e.ty.bytes ≠ 0 := by simpa [he] using h0
  simp [Chip.readOne, hc, readEntry_plain h hb]

/-- SDO_UPLOAD answers with what the read gives, or opens a transfer of it (R337). -/
theorem exec_sdoUpload_read {complete : Bool} {c : Chip} {d : Bytes} (ha : s.dictAlive = true)
    (h : (if complete then (s.served q).readWhole q.owner idx sub else (s.served q).readOne q.owner idx sub) =
      (c, .ok d))
    (segmented : Bool) :
    exec (.sdoUpload q idx sub complete segmented) s =
      .next (s.on (if segmented then
          (c.openSegment q.owner { upload := true, idx := idx, sub := sub, complete := complete, toggle := false,
                                   total := d.length, data := d }).answer q.owner (.data [])
        else c.answer q.owner (.data d))) := by
  rw [exec_sdoUpload, request_alive ha, Chip.sdoUp, h]

/-- An upload segment: the last one closes the transfer (R337). -/
theorem exec_sdoUploadSegment_open (ha : s.dictAlive = true) (hg : s.segmentOf q.owner = some g)
    (hu : g.upload = true) :
    exec (.sdoUploadSegment q g.toggle) s =
      .next (s.on ((if g.data.length ≤ segmentBytes then s.served q
        else (s.toChip.upTo q.t).openSegment q.owner
          { g with toggle := !g.toggle, data := g.data.drop segmentBytes }).answer q.owner
        (.data (g.data.take segmentBytes)))) := by
  rw [exec_sdoUploadSegment, segmentRequest_alive ha]
  simp only [Chip.upSegment, Chip.segmentOf_upTo, hg, hu]
  by_cases hl : g.data.length ≤ segmentBytes
  · simp [hl, List.take_of_length_le hl, State.served]
  · simp [hl]

/-- SDO_TRANSFER_TIMEOUT of an open transfer. -/
theorem exec_sdoTransferTimeout_open {o : Nat} (hg : s.segmentOf o = some g) :
    exec (.sdoTransferTimeout o) s = .next (s.on ((s.toChip.closeSegment o).answer o (.abort 0x05040000))) := by
  show execSdoTransferTimeout o s = _
  simp [execSdoTransferTimeout, hg, Chip.abortSegment, State.on]

theorem exec_sdoInformation_entry {e : Entry} (ha : s.dictAlive = true) (ho : DictTable.hasObject idx = true)
    (he : DictTable.find idx sub = some e) :
    exec (.sdoInformation q idx sub) s =
      .next (s.on ((s.served q).answer q.owner (.info idx sub e.ty.coe e.acc.coe))) := by
  rw [exec_sdoInformation, request_alive ha]
  simp [Chip.sdoInfo, ho, he]

end

/-! ### REGISTER_WRITE -/

section
variable {s : State} {q : Req}

theorem exec_registerWrite_plain {idx sub n v : Nat} (hp : PlainNumber idx sub n v)
    (h : WriteAllowed s q idx sub v = true) :
    exec (.registerWrite q (.dict idx sub) v) s =
      .next (s.on (((s.served q).setReg idx sub v).answer q.owner .done)) := by
  rw [exec_registerWrite]
  obtain ⟨e, he, hn⟩ := Option.map_eq_some_iff.1 hp.entry
  have hw : (s.served q).writeNumber q.owner idx sub v = ((s.served q).setReg idx sub v, none) := by
    simp [Chip.writeNumber, he, hn, hp.ne, hp.lt, writeOne_of_writeAllowed h hp]
  simp only [Chip.registerWrite, request_alive (dictAlive_of_writeAllowed h), hw, finishWrite]

/-- The event enable of BAR0 (R305). -/
theorem exec_registerWrite_evEnable (h v : Nat) (ho : s.hostOn = true) :
    exec (.registerWrite q (.bar0 h 0x2804) v) s =
      .next (s.on ((s.toChip.upTo q.t).modPort h fun p => { p with evEnable := BitVec.ofNat 32 v &&& 0x1F#32 })) := by
  rw [exec_registerWrite]
  simp [Chip.registerWrite, ho, Chip.writeBar0]

/-- The station address of the slave controller. -/
theorem exec_registerWrite_station (v : Nat) (ho : s.ecatOn = true) :
    exec (.registerWrite q (.esc 0x10) v) s =
      .next (s.on { s.toChip.upTo q.t with ecat := { s.ecat with station := v % 65536 } }) := by
  rw [exec_registerWrite]
  have h : (s.toChip.upTo q.t).ecatOn = true := ho
  simp [Chip.registerWrite, Chip.writeEsc, h]

end

/-! ### The obligation -/

section
variable {s : State} {q : Req} {b : Chip}

/-- What a request leaves whose answer is its last effect. -/
theorem OnlyTouches.requestAnswer (h : OnlyTouches (.belfry :: answerAreas) s (s.on b)) (r : Reply) :
    OnlyTouches (.belfry :: answerAreas) s (s.on (b.answer q.owner r)) :=
  h.answer (List.subset_cons_self _ _) _ r

theorem OnlyTouches.servedWithDict (s : State) (q : Req) (d : Dict) :
    OnlyTouches (.belfry :: answerAreas) s (s.on { s.served q with dict := d }) :=
  (OnlyTouches.served s q).withDict (by simp [answerAreas]) d

theorem OnlyTouches.upToWithDict (s : State) (q : Req) (d : Dict) :
    OnlyTouches (.belfry :: answerAreas) s (s.on { s.toChip.upTo q.t with dict := d }) :=
  (OnlyTouches.upTo (by simp) s q.t).withDict (by simp [answerAreas]) d

end

/-- Settles O43: each clause is the equation of its row, and what that row's answer leaves. -/
theorem sdoTransfersServeTheDictionary : Obligations.SdoTransfersServeTheDictionary := by
  unfold Obligations.SdoTransfersServeTheDictionary
  refine ⟨?_, ?_, ?_, ?_, ?_, ?_, ?_, ?_, ?_, ?_, ?_, ?_, ?_, ?_⟩
  · rintro s q idx sub n v ⟨hlo, hhi, hne, he⟩ hv h
    exact ⟨_, exec_sdoDownload_plain ⟨hlo, hhi, hne, he, hv⟩ h, by simp, by simp,
      (OnlyTouches.servedWithDict s q _).requestAnswer _⟩
  · intro s q idx sub d ha ho
    exact ⟨_, exec_sdoDownload_no_object ha ho sub d, by simp, by simp, (OnlyTouches.served s q).requestAnswer _⟩
  · intro s q idx sub n d ha hd hn
    exact ⟨_, exec_sdoDownload_opens ha hd hn idx sub, by simp, by simp, by simp,
      (OnlyTouches.servedWithDict s q _).requestAnswer _⟩
  · intro s q g d ha hg hu hl
    exact ⟨_, exec_sdoDownloadSegment_continues ha hg hu hl, by simp, by simp, by simp,
      (OnlyTouches.upToWithDict s q _).requestAnswer _⟩
  · rintro s q g d n v hg hu hc ⟨hlo, hhi, hne, he⟩ ht hv hd h
    exact ⟨_, exec_sdoDownloadSegment_last hg hu hc ⟨hlo, hhi, hne, he, hv⟩ ht hd h, by simp, by simp, by simp,
      (OnlyTouches.servedWithDict s q _).requestAnswer _⟩
  · intro s q g x d ha hg hu hx
    exact ⟨_, exec_sdoDownloadSegment_toggle ha hg hu hx false d, by simp, by simp, by simp,
      (OnlyTouches.served s q).requestAnswer _⟩
  · intro s q idx sub n hm hn hr
    exact ⟨_, exec_sdoUpload_read (complete := false) (dictAlive_of_readAllowed hr) (readOne_plain hm hn hr) false,
      by simp, by simp, (OnlyTouches.served s q).requestAnswer _⟩
  · intro s q idx sub complete segmented c d ha h
    refine ⟨_, exec_sdoUpload_read ha h segmented, ?_⟩
    cases segmented <;> simp
  · intro s q g ha hg hu
    refine ⟨_, exec_sdoUploadSegment_open ha hg hu, ?_, by simp, ?_⟩
    · split
      · exact (OnlyTouches.served s q).requestAnswer _
      · exact (OnlyTouches.upToWithDict s q _).requestAnswer _
    · split <;> simp
  · intro s o g hg
    exact ⟨_, exec_sdoTransferTimeout_open hg, by simp, by simp,
      ((OnlyTouches.refl answerAreas s).withDict (by simp [answerAreas]) _).answer (List.Subset.refl _) _ _⟩
  · intro s q idx sub e ha ho he
    exact ⟨_, exec_sdoInformation_entry ha ho he, by simp, (OnlyTouches.served s q).requestAnswer _⟩
  · rintro s q idx sub n v ⟨hlo, hhi, hne, he⟩ hv h
    exact ⟨_, exec_registerWrite_plain ⟨hlo, hhi, hne, he, hv⟩ h, by simp, by simp,
      (OnlyTouches.servedWithDict s q _).requestAnswer _⟩
  · intro s q h v ho
    refine ⟨_, exec_registerWrite_evEnable h v ho, ?_, ?_, ?_, ?_⟩
    · simp [Chip.port, Chip.modPort]
    · simp [Chip.port, Chip.modPort]
    · intro j hj
      simp [Chip.port, Chip.modPort, hj]
    · exact (OnlyTouches.upTo (by simp) s q.t).extend fun x hx => by cases x <;> simp_all [Area.same, Chip.modPort]
  · intro s q v ho
    refine ⟨_, exec_registerWrite_station v ho, rfl, ?_⟩
    exact (OnlyTouches.upTo (by simp) s q.t).extend fun x hx => by cases x <;> simp_all [Area.same]

end Sys2Proof.Machine

namespace Sys2Proof.Machine
open Sys2Proof

/-! ### The monitors of supplies and clocks -/

/-- The device with the supply of domain d outside its limits. -/
def Chip.noteVolts (b : Chip) (d mV : Nat) : Chip :=
  { b with dev := { b.dev with powerFault := b.dev.powerFault ||| (1#20 <<< d), volts := Tab.set b.dev.volts d mV } }

/-- The device with the loss of clock c noted. -/
def Chip.noteLoss (b : Chip) (c kHz : Nat) : Chip :=
  { b with dev := { b.dev with clocks := Tab.set b.dev.clocks c .lost, freqs := Tab.set b.dev.freqs c kHz } }

@[simp] theorem Chip.noteLoss_clockState (b : Chip) (c kHz : Nat) : (b.noteLoss c kHz).clockState c = .lost := by
  simp [Chip.clockState, Chip.noteLoss]

section
variable {b : Chip} {d c mV kHz : Nat}

/-- A supply that leaves its limits past BOOT is a chip-level fault (R21, R472). -/
theorem Chip.voltageFault_new (hp : b.powered d = true) (hf : b.dev.powerFault.getLsbD d = false)
    (hs : b.dev.st ≠ .boot) (inj : Bool) :
    b.voltageFault d mV inj =
      (b.noteVolts d mV).chipFault { code := evCode 4 14 d 5, sev := 5, inj := inj, d0 := mV } := by
  simp only [Chip.voltageFault, hp, hf]
  exact if_neg hs

/-- The loss of a running clock (R17, R18). -/
theorem Chip.clockLost_new (hr : b.clockState c = .running) (ho : b.dev.st ≠ .off) (hs : b.dev.st ≠ .standby)
    (inj : Bool) :
    b.clockLost c kHz inj =
      if c < 32 then (b.noteLoss c kHz).lockLost c 2 inj
      else if clockToSafe c then
        (b.noteLoss c kHz).chipFault { code := evCode 4 14 c 6, sev := 5, inj := inj, d0 := kHz }
      else (b.noteLoss c kHz).logEvent { code := evCode 4 14 c 7, sev := 3, inj := inj, d0 := kHz } := by
  simp only [Chip.clockLost, hr, ho, hs]
  rfl

end

/-- A fault that takes a shutdown back to BOOT makes its entry alone (R35, R414). -/
theorem Chip.chipFault_in_boot (b : Chip) (e : Ev) (h : b.takeBack.dev.st = .boot) :
    (b.chipFault e).dev.st = .boot := by
  simp [Chip.chipFault, h]

/-- CLOSING, decided at the present tick, with BOOT noted as the state before it. No run leads here, but nothing in the statement
excludes it. -/
def closingFromBoot : State := { dev := { st := .closing, prev := .boot, decidedAt := some (0, 0) } }

/-- A voltage fault of P00 in this state takes the shutdown back and leaves the device in BOOT. -/
theorem voltageFault_closingFromBoot :
    ((closingFromBoot.toChip.upTo 0).voltageFault 0 0 false).dev.st = .boot := by
  rw [Chip.voltageFault_new (by decide) (by decide) (by decide)]
  exact Chip.chipFault_in_boot ((closingFromBoot.toChip.upTo 0).noteVolts 0 0) _ rfl

/-- Refutes O58: where the state noted before CLOSING is BOOT, a fault in the C36 cycle of the shutdown leads from CLOSING to BOOT,
which the table of R32 has not. -/
theorem not_deviceStatesFollowTheTable : ¬ Obligations.DeviceStatesFollowTheTable := by
  unfold Obligations.DeviceStatesFollowTheTable
  intro h
  have ht := h (.voltageMonitorFault 0 0 0) closingFromBoot
    (closingFromBoot.on ((closingFromBoot.toChip.upTo 0).voltageFault 0 0 false)) rfl
  rw [State.on_toChip, voltageFault_closingFromBoot] at ht
  rcases ht with h | h | ⟨-, h, -⟩ <;> cases h

/-- Settles O60: the initial state evaluates to it, with empty planes as the canonical ones. -/
theorem resetIsEntryToReduced : Obligations.ResetIsEntryToReduced := by
  unfold Obligations.ResetIsEntryToReduced
  refine ⟨?_, rfl, rfl, rfl, rfl, fun _ => rfl, fun _ => rfl, ?_, fun _ => rfl, fun _ => ⟨rfl, rfl, rfl⟩, ?_, rfl⟩
  · have hp : planeWf [] := ⟨.nil, List.forall_mem_nil _⟩
    exact ⟨rfl, rfl, rfl, rfl, rfl, rfl, rfl, hp, hp, hp, hp, List.forall_mem_nil _⟩
  · intro n
    show runGet [] n = 0#2048
    rw [runGet]
  · decide

end Sys2Proof.Machine

namespace Sys2Proof.Machine
open Sys2Proof

/-! ### Supplies, pins and REF_CLK -/

section
variable {b : Chip}

/-- P00 powers up from OFF (R32, R492). -/
theorem Chip.p00Good_off (h : b.dev.st = .off) :
    b.p00Good =
      { b.enterStandby true true with aon := {}, dev := { (b.enterStandby true true).dev with mainGood := false } } := by
  simp [Chip.p00Good, h]

/-- Good main supplies take STANDBY to BOOT where MAIN_EN is high (R32). -/
theorem Chip.mainGoodEvent_standby (h : b.dev.st = .standby) (he : b.dev.mainEn = true) (mode : BitVec 3) (ref : Bool) :
    b.mainGoodEvent mode ref = b.enterBoot mode ref := by
  simp [Chip.mainGoodEvent, h, he]

theorem Chip.mainLost_boot (h : b.dev.st = .boot) :
    b.mainLost = { b.enterStandby true true with dev := { (b.enterStandby true true).dev with mainGood := false } } := by
  simp [Chip.mainLost, h]

/-- A rail that falls past BOOT leads to STANDBY, with P00's fault record of it (R495). -/
theorem Chip.railCollapse_on {rails : BitVec 5} (hr : rails ≠ 0#5)
    (h : b.dev.st = .reduced ∨ b.dev.st = .full ∨ b.dev.st = .closing ∨ b.dev.st = .safe) :
    b.railCollapse rails =
      { b.enterStandby true true with
        dev := { (b.enterStandby true true).dev with mainGood := false }
        aon := { b.aon with
          faultCode := evCode 4 14 (railUnit rails) 5
          faultState := b.dev.st.code
          intact := false
          unlogged := some b.aon.seconds } } := by
  rcases h with h | h | h | h <;> simp [Chip.railCollapse, h, hr, Chip.enterStandby, Chip.powerDown]

/-- A wake pulse raises MAIN_EN; main rails that stayed on count as becoming good (R492). -/
theorem Chip.wake_standby (h : b.dev.st = .standby) (he : b.dev.mainEn = false) (mode : BitVec 3) (ref : Bool) :
    b.wake mode ref =
      if b.dev.mainGood then { b with dev := { b.dev with mainEn := true } }.enterBoot mode ref
      else { b with dev := { b.dev with mainEn := true } } := by
  simp [Chip.wake, h, he]

/-- What REF_CLK's start makes of the device record (R19). -/
theorem Chip.refStart_dev :
    b.refStart.dev = { b.dev with
      refClk := true
      clocks := if b.powered 15 && b.clockState 35 == .notStarted then Tab.drop (fun c => c == 35) b.dev.clocks
        else b.dev.clocks } := by
  simp only [Chip.refStart]
  split <;> rfl

/-- BOOT goes on with a fresh watchdog timeout; any other state keeps Lantern as it is. -/
theorem Chip.refStart_lantern :
    b.refStart.lantern = if b.dev.st = .boot then { b.lantern with held := false, remaining := 2000 } else b.lantern := by
  simp only [Chip.refStart]
  split <;> rfl

theorem Chip.refStart_same {x : Area} (h : x ∉ [Area.dev, .lantern]) : x.same b b.refStart := by
  simp only [Chip.refStart]
  split <;> cases x <;> simp_all [Area.same]

/-- A clock that is no longer listed runs. -/
theorem Chip.clockState_drop (b : Chip) (c : Nat) : Tab.get ClockState.running (Tab.drop (fun k => k == c) b.dev.clocks) c = .running :=
  Tab.get_drop_hit _ _ _ _ (by simp)

end

/-- Settles O2: each supply event is one equation, and the fields are read off it. -/
theorem suppliesMoveTheDeviceState : Obligations.SuppliesMoveTheDeviceState := by
  unfold Obligations.SuppliesMoveTheDeviceState
  refine ⟨?_, ?_, ?_, ?_, ?_, ?_, ?_⟩
  · intro s h
    refine ⟨s.on s.toChip.p00Good, rfl, ?_⟩
    rw [State.on_toChip, Chip.p00Good_off h]
    exact ⟨rfl, h, rfl, rfl, rfl, rfl⟩
  · intro s
    exact ⟨s.on s.toChip.p00Fail, rfl, rfl, rfl, rfl, rfl⟩
  · intro s mode ref h he
    refine ⟨s.on (s.toChip.mainGoodEvent mode ref), rfl, ?_⟩
    rw [State.on_toChip, Chip.mainGoodEvent_standby h he]
    exact ⟨rfl, rfl, rfl, rfl, rfl, rfl, rfl, rfl⟩
  · intro s h
    refine ⟨s.on s.toChip.mainLost, rfl, ?_⟩
    rw [State.on_toChip, Chip.mainLost_boot h]
    exact ⟨rfl, rfl, rfl, rfl, rfl⟩
  · intro s rails hr h
    refine ⟨s.on (s.toChip.railCollapse rails), rfl, ?_⟩
    rw [State.on_toChip, Chip.railCollapse_on hr h]
    exact ⟨rfl, rfl, rfl, rfl, rfl, rfl, rfl, rfl⟩
  · intro s mode ref h he
    refine ⟨s.on (s.toChip.wake mode ref), rfl, ?_⟩
    rw [State.on_toChip, Chip.wake_standby h he]
    cases hg : s.dev.mainGood
    · exact ⟨rfl, nofun, fun _ => ⟨h, rfl⟩⟩
    · exact ⟨rfl, fun _ => ⟨rfl, rfl⟩, nofun⟩
  · intro s
    refine ⟨s.on s.toChip.refStart, rfl, ?_, ?_, ?_, ?_, rfl, fun _ hx => Chip.refStart_same hx⟩
    · simp [Chip.refStart_dev]
    · simp [Chip.refStart_dev]
    · intro hp hc
      simp [Chip.clockState, Chip.refStart_dev, hp, Chip.clockState_drop, show Tab.get _ _ _ = _ from hc]
    · intro h
      simp [Chip.refStart_lantern, h]

end Sys2Proof.Machine

namespace Sys2Proof.Machine
open Sys2Proof

/-! ### Monitors lead to SAFE or fence a region -/

section
variable {b : Chip}

/-- In REDUCED and FULL a fault takes back the entry to FULL of its own C36 cycle, and nothing else (R35). -/
theorem Chip.takeBack_serving (h : b.dev.st = .reduced ∨ b.dev.st = .full) :
    b.takeBack.dev.st =
      if b.dev.st = .full ∧ b.sameDecision (b.dev.decidedAt.map fun x => x.1) = true then .reduced else b.dev.st := by
  cases hd : b.sameDecision (b.dev.decidedAt.map fun x => x.1)
  · simp [Chip.takeBack_none b hd]
  · unfold Chip.takeBack
    split
    · next hn => simp [hn, Chip.sameDecision] at hd
    · next t o hn =>
      simp only [hn, Option.map_some] at hd
      rcases h with h | h <;> simp [hd, h]

/-- A chip-level fault in REDUCED or FULL: SAFE with its cause, and P00's record of the state that it met (R27, R35). -/
theorem Chip.chipFault_serving (h : b.dev.st = .reduced ∨ b.dev.st = .full) (e : Ev) :
    (b.chipFault e).dev.st = .safe ∧ (b.chipFault e).dev.cause = e.code ∧ (b.chipFault e).aon.faultCode = e.code ∧
      (b.chipFault e).aon.faultState =
        if b.dev.st = .full ∧ b.sameDecision (b.dev.decidedAt.map fun x => x.1) = true then 3 else b.dev.st.code := by
  have ht := Chip.takeBack_serving h
  have hs : b.takeBack.dev.st = .reduced ∨ b.takeBack.dev.st = .full := by
    rw [ht]; split
    · exact .inl rfl
    · exact h
  obtain ⟨h1, h2, h3, h4⟩ := Chip.chipFault_safe b e (hs.imp_right .inl)
  refine ⟨h1, h2, h3, h4.trans ?_⟩
  rw [ht]; split <;> rfl

theorem Area.same_dev {x : Area} (h : x ≠ .dev) (b : Chip) (d : Device) : x.same b { b with dev := d } := by
  cases x <;> simp_all [Area.same]

theorem Area.same_logEvent {x : Area} (h : x ∉ logAreas) (b : Chip) (e : Ev) : x.same b (b.logEvent e) := by
  cases x <;> simp_all [logAreas, Area.same]

@[simp] theorem Chip.logEvent_clockState (b : Chip) (e : Ev) (c : Nat) :
    (b.logEvent e).clockState c = b.clockState c := by simp [Chip.clockState]

/-- A lost lock leaves the state and the monitors of the clocks as they are, and fences its region (R140). -/
@[simp] theorem Chip.lockLost_st (b : Chip) (r d : Nat) (i : Bool) : (b.lockLost r d i).dev.st = b.dev.st := by
  simp only [Chip.lockLost]; split <;> simp

@[simp] theorem Chip.lockLost_clockState (b : Chip) (r d c : Nat) (i : Bool) :
    (b.lockLost r d i).clockState c = b.clockState c := by
  have hf : ∀ (b : Chip) (r : Nat) (e : Ev), (b.fence r e).clockState c = b.clockState c := fun b r e => by
    rcases Chip.fence_dev b r e with h | h <;> simp [Chip.clockState, h]
  simp only [Chip.lockLost, hf]
  split <;> simp [Chip.clockState]

theorem Chip.lockLost_fenced (b : Chip) (r d : Nat) (i : Bool) : ((b.lockLost r d i).region r).fenced = true :=
  Chip.fence_fenced _ _ _

theorem ne_off_of_serving (h : b.dev.st = .reduced ∨ b.dev.st = .full) :
    b.dev.st ≠ .off ∧ b.dev.st ≠ .standby ∧ b.dev.st ≠ .boot := by
  rcases h with h | h <;> simp [h]

theorem Chip.clockReturn_lost {c : Nat} (h : b.clockState c = .lost) :
    b.clockReturn c = { b with dev := { b.dev with
      clocks := Tab.drop (fun k => k == c) b.dev.clocks, freqs := Tab.drop (fun k => k == c) b.dev.freqs } } :=
  if_pos h

/-- A mask without bit d. -/
theorem getLsbD_and_not_one_shiftLeft (p : BitVec 20) (d n : Nat) :
    (p &&& ~~~(1#20 <<< d)).getLsbD n = (p.getLsbD n && n != d) := by
  simp only [BitVec.getLsbD_and, BitVec.getLsbD_not, getLsbD_one_shiftLeft]
  by_cases hn : n < 20
  · by_cases h : n = d
    · subst h; simp [hn]
    · simp [hn, h]
  · simp [BitVec.getLsbD_of_ge _ n (Nat.le_of_not_lt hn)]

/-- The condition of one supply clears, and no other. -/
theorem Chip.voltageReturn_powerFault (b : Chip) (d n : Nat) :
    (b.voltageReturn d).dev.powerFault.getLsbD n = (b.dev.powerFault.getLsbD n && n != d) :=
  getLsbD_and_not_one_shiftLeft _ _ _

end

/-- Settles O4: a monitor's event is a chip-level fault, an entry or a fence, of which the laws say the rest. -/
theorem monitorsLeadToSafeOrFence : Obligations.MonitorsLeadToSafeOrFence := by
  unfold Obligations.MonitorsLeadToSafeOrFence
  refine ⟨?_, ?_, ?_, ?_, ?_, ?_⟩
  · intro s d mV t0 _ hs hp hf
    obtain ⟨-, -, hb⟩ := ne_off_of_serving hs
    refine ⟨s.on ((s.toChip.upTo t0).voltageFault d mV false), rfl, ?_⟩
    rw [State.on_toChip, Chip.voltageFault_new (b := s.toChip.upTo t0) hp hf hb]
    exact Chip.chipFault_serving (b := (s.toChip.upTo t0).noteVolts d mV) hs _
  · intro s c kHz t0 hc hs hr
    obtain ⟨ho, hst, -⟩ := ne_off_of_serving hs
    have h32 : ¬ c < 32 := by omega
    have hsafe : clockToSafe c = true := by rcases hc with rfl | rfl | rfl | rfl | rfl <;> rfl
    refine ⟨s.on ((s.toChip.upTo t0).clockLost c kHz false), rfl, ?_⟩
    rw [State.on_toChip, Chip.clockLost_new (b := s.toChip.upTo t0) hr ho hst, if_neg h32, if_pos hsafe]
    exact Chip.chipFault_serving (b := (s.toChip.upTo t0).noteLoss c kHz) hs _
  · intro s c kHz t0 hc hs hr
    obtain ⟨ho, hst, -⟩ := ne_off_of_serving hs
    have h32 : ¬ c < 32 := by omega
    have hsafe : ¬ clockToSafe c = true := by rcases hc with rfl | rfl | rfl <;> decide
    refine ⟨s.on ((s.toChip.upTo t0).clockLost c kHz false), rfl, ?_⟩
    rw [State.on_toChip, Chip.clockLost_new (b := s.toChip.upTo t0) hr ho hst, if_neg h32, if_neg hsafe]
    refine ⟨by simp [Chip.noteLoss], by simp, (OnlyTouches.upTo (by simp) s t0).extend fun x hx => ?_⟩
    have hl : x ∉ logAreas := fun hl => hx (List.mem_cons_of_mem _ hl)
    have hd : x ≠ .dev := by rintro rfl; exact hl (by decide)
    exact (Area.same_dev hd _ _).trans (Area.same_logEvent hl _ _)
  · intro s r kHz t0 h32 hs hr
    obtain ⟨ho, hst, -⟩ := ne_off_of_serving hs
    refine ⟨s.on ((s.toChip.upTo t0).clockLost r kHz false), rfl, ?_⟩
    rw [State.on_toChip, Chip.clockLost_new (b := s.toChip.upTo t0) hr ho hst, if_pos h32]
    exact ⟨by simp [Chip.noteLoss], by simp, Chip.lockLost_fenced _ _ _ _⟩
  · intro s c h
    refine ⟨s.on (s.toChip.clockReturn c), rfl, ?_⟩
    rw [Chip.clockReturn_lost h]
    exact ⟨Chip.clockState_drop _ _, rfl, fun x hx => Area.same_dev (by simpa using hx) _ _⟩
  · intro s d
    refine ⟨s.on (s.toChip.voltageReturn d), rfl, ?_, ?_, rfl,
      fun x hx => Area.same_dev (by simpa using hx) _ _⟩
    · simp [Chip.voltageReturn_powerFault]
    · intro n hn
      simp [Chip.voltageReturn_powerFault, hn]

end Sys2Proof.Machine

namespace Sys2Proof.Machine
open Sys2Proof

/-! ### Settling leaves the mode of a queue block alone -/

/-- What every round of a fold keeps, the fold keeps. -/
theorem foldl_keep {α β γ : Type} (g : α → γ) (f : α → β → α) (h : ∀ a x, g (f a x) = g a) (l : List β) (a : α) :
    g (l.foldl f a) = g a := by
  induction l generalizing a with
  | nil => rfl
  | cons x l ih => rw [List.foldl_cons, ih, h]

section
variable (q : Queue) (x : QueueClock) (c : Nat)

/-- The watermark flags are all that a note of them changes. -/
theorem Queue.logFlags_keep {β : Type} (g : Queue → β)
    (h : ∀ (q : Queue) s l, g { q with wmSeen := s, wmLog := l } = g q) : g (q.logFlags x c) = g q := by
  simp only [Queue.logFlags, apply_ite g, h, ite_self]

@[simp] theorem Queue.change_mode (f : Queue → Queue) : (q.change x c f).mode = (f q).mode :=
  Queue.logFlags_keep _ _ _ Queue.mode fun _ _ _ => rfl

@[simp] theorem Queue.change_words (f : Queue → Queue) : (q.change x c f).words = (f q).words :=
  Queue.logFlags_keep _ _ _ Queue.words fun _ _ _ => rfl

@[simp] theorem Queue.enter_mode (l : List Byte) : (q.enter x l c).mode = q.mode := by
  simp only [Queue.enter]
  split <;> simp

@[simp] theorem Queue.leave_mode : (q.leave x c).mode = q.mode := by
  simp only [Queue.leave]
  split <;> simp

@[simp] theorem Queue.completePush_mode : (q.completePush x c).mode = q.mode := by
  simp only [Queue.completePush]
  split <;> simp

@[simp] theorem Queue.catchUp_mode : (q.catchUp x).mode = q.mode := by
  simp only [Queue.catchUp]
  (repeat' split) <;> simp

@[simp] theorem Queue.arrivals_mode : (q.arrivals x).mode = q.mode := by
  simp only [Queue.arrivals]
  rw [foldl_keep Queue.mode _ fun q c => ?_, foldl_keep Queue.mode _ fun q c => ?_]
  · simp [Queue.arrive]
  · simp [Queue.freed]

@[simp] theorem Queue.takeFlags_mode : (q.takeFlags c).mode = q.mode := by
  simp only [Queue.takeFlags]
  split <;> rfl

@[simp] theorem Queue.settle_mode : (q.settle x).mode = q.mode := by
  show ((((q.catchUp x).arrivals x).catchUp x).takeFlags x.cw).mode = _
  simp

end

/-! ### A change of one queue block -/

section
variable (b : Chip) (k : Nat) (f : Queue → Queue)

@[simp] theorem Chip.queue_modQueue : (b.modQueue k f).queue k = f (b.queue k) := by
  simp [Chip.queue, Chip.modQueue]

theorem Chip.queue_modQueue_ne {j : Nat} (h : j ≠ k) : (b.modQueue k f).queue j = b.queue j := by
  simp [Chip.queue, Chip.modQueue, h]

theorem Area.same_modQueue {x : Area} (h : x ≠ .queues) : x.same b (b.modQueue k f) := by
  cases x <;> simp_all [Area.same, Chip.modQueue]

theorem Chip.queueNow_mode : (b.queueNow k).mode = (b.queue k).mode := by
  simp [Chip.queueNow, Chip.settleQueue]

/-- A change of a settled queue block leaves the others as they are, and touches the queue blocks alone. -/
theorem Chip.queue_settled_ne {j : Nat} (h : j ≠ k) : ((b.settleQueue k).modQueue k f).queue j = b.queue j := by
  rw [Chip.queue_modQueue_ne _ _ _ h, Chip.settleQueue, Chip.queue_modQueue_ne _ _ _ h]

theorem Area.same_settled {x : Area} (h : x ≠ .queues) : x.same b ((b.settleQueue k).modQueue k f) :=
  (Area.same_modQueue _ _ _ h).trans (Area.same_modQueue _ _ _ h)

theorem OnlyTouches.settled {l : List Area} (hb : .belfry ∈ l) (hq : .queues ∈ l) (s : State) (t0 : Nat) :
    OnlyTouches l s (s.on (((s.toChip.upTo t0).settleQueue k).modQueue k f)) :=
  (OnlyTouches.upTo hb s t0).extend fun _ hx => Area.same_settled _ _ _ (by rintro rfl; exact hx hq)

end

/-! ### Words that enter and leave -/

section
variable {q : Queue} (x : QueueClock) (c : Nat)

/-- Where the two sides have clocks of their own, a completed word joins the words and empties the packing register (R181). -/
theorem Queue.enter_split (h : q.split = true) (l : List Byte) :
    (q.enter x l c).words = q.words ++ [packedWord l] ∧ (q.enter x l c).pack = [] := by
  simp [Queue.enter, h]

theorem Queue.leave_words {w : BitVec 128 × BitVec 16} {l : List (BitVec 128 × BitVec 16)} (h : q.words = w :: l) :
    (q.leave x c).words = l := by
  simp [Queue.leave, h]

end

/-! ### Host windows -/

section
variable {b : Chip} {h o : Nat}

/-- A dword that does not fill the packing register joins it (R192). -/
theorem Chip.hostPush_joins (hon : b.hostOn = true) (hw : b.windowOpen h (windowQueue o) = true)
    (hm : (b.queue (windowQueue o)).mode = 3) (ho : o % 4096 < 0x100)
    (hd : (b.queueNow (windowQueue o)).disabled = false) (hl : (b.queueNow (windowQueue o)).pack.length < 12)
    (d : BitVec 32) :
    b.hostPush h o d true = (b.settleQueue (windowQueue o)).modQueue (windowQueue o) fun q =>
      { q with pack := (b.queueNow (windowQueue o)).pack ++ toBytes 4 d.toNat } := by
  have h1 : ¬ 0x100 ≤ o % 4096 := by omega
  have h2 : (b.queueNow (windowQueue o)).pack.length + 4 < 16 := by omega
  simp only [Chip.queueNow] at hd h2
  simp [Chip.hostPush, hon, hw, hm, h1, hd, h2, Chip.queueNow]

/-- A close strobe completes the word that the packing register holds (R192). -/
theorem Chip.hostClose_completes (hon : b.hostOn = true) (hw : b.windowOpen h (windowQueue o) = true)
    (hm : (b.queue (windowQueue o)).mode = 3) (ho : o % 4096 = 0x200)
    (hd : (b.queueNow (windowQueue o)).disabled = false) (hp : (b.queueNow (windowQueue o)).pack ≠ [])
    (hr : (b.queueNow (windowQueue o)).writeDepth < 256) :
    b.hostClose h o = (b.settleQueue (windowQueue o)).onQueue (windowQueue o) fun x q => q.enter x q.pack x.cw := by
  simp only [Chip.queueNow] at hd hp hr
  simp [Chip.hostClose, hon, hw, hm, ho, hd, hp, hr]

/-- A read at offset 0 takes the oldest word, with its mask (R310). -/
theorem Chip.hostPop_takes (hon : b.hostOn = true) (hw : b.windowOpen h (windowQueue o) = true)
    (hm : (b.queue (windowQueue o)).mode = 4) (ho : o % 4096 = 0)
    (hd : (b.queueNow (windowQueue o)).disabled = false) (hr : (b.queueNow (windowQueue o)).readDepth ≠ 0)
    {w : BitVec 128 × BitVec 16} {l : List (BitVec 128 × BitVec 16)} (hq : (b.queueNow (windowQueue o)).words = w :: l) :
    b.hostPop h o =
      ((b.settleQueue (windowQueue o)).onQueue (windowQueue o) fun x q => q.leave x x.cr).complete h 0
        (toBytes 16 w.1.toNat ++ toBytes 16 w.2.toNat) := by
  have hm' := (b.queueNow_mode (windowQueue o)).trans hm
  simp only [Chip.queueNow] at hd hr hq hm'
  simp [Chip.hostPop, hon, hw, ho, hd, hr, hq, hm']

theorem Chip.hostPush_shut (hon : b.hostOn = true) (hw : b.windowOpen h (windowQueue o) = false) (d : BitVec 32)
    (f : Bool) : b.hostPush h o d f = b.count (0x2800 + h) 0x0C := by
  simp [Chip.hostPush, hon, hw]

theorem Chip.hostPop_shut (hon : b.hostOn = true) (hw : b.windowOpen h (windowQueue o) = false) :
    b.hostPop h o = (b.count (0x2800 + h) 0x0C).complete h 1 [] := by
  simp [Chip.hostPop, hon, hw]

theorem Chip.hostPush_off (hon : b.hostOn = false) (d : BitVec 32) (f : Bool) : b.hostPush h o d f = b := by
  simp [Chip.hostPush, hon]

theorem Chip.queue_complete (b : Chip) (h cpl k : Nat) (d : Bytes) : (b.complete h cpl d).queue k = b.queue k := rfl

theorem Chip.port_complete (b : Chip) (h cpl : Nat) (d : Bytes) :
    ((b.complete h cpl d).port h).cpl = cpl ∧ ((b.complete h cpl d).port h).data = d := by
  simp [Chip.complete, Chip.port]

theorem Area.same_complete {x : Area} (hx : x ≠ .ports) (b : Chip) (h cpl : Nat) (d : Bytes) :
    x.same b (b.complete h cpl d) := by
  cases x <;> simp_all [Area.same, Chip.complete]

theorem Area.same_count {x : Area} (hx : x ≠ .dict) (b : Chip) (i j : Nat) : x.same b (b.count i j) :=
  Area.same_dict hx b _

end

/-- Settles O24: each read or write of a window is one equation, by what the window is open to. -/
theorem hostQueueWindows : Obligations.HostQueueWindows := by
  unfold Obligations.HostQueueWindows
  refine ⟨?_, ?_, ?_, ?_, ?_, ?_⟩
  · intro s h o t0 d hon hw hm ho hd hl
    refine ⟨s.on ((s.toChip.upTo t0).hostPush h o d true), rfl, ?_⟩
    rw [Chip.hostPush_joins (b := s.toChip.upTo t0) hon hw hm ho hd hl]
    exact ⟨by simp, fun j hj => Chip.queue_settled_ne _ _ _ hj, OnlyTouches.settled _ _ (by simp) (by simp) s t0⟩
  · intro s h o t0 hon hw hm ho hd hp hr
    refine ⟨s.on ((s.toChip.upTo t0).hostClose h o), rfl, ?_⟩
    rw [Chip.hostClose_completes (b := s.toChip.upTo t0) hon hw hm ho hd hp hr]
    have hs : ((s.toChip.upTo t0).queueNow (windowQueue o)).split = true := by
      simp [Queue.split, Chip.queueNow_mode, show ((s.toChip.upTo t0).queue (windowQueue o)).mode = 3 from hm]
    refine ⟨?_, ?_, fun j hj => Chip.queue_settled_ne _ _ _ hj, OnlyTouches.settled _ _ (by simp) (by simp) s t0⟩
    · rw [State.on_toChip, Chip.onQueue, Chip.queue_modQueue]; exact (Queue.enter_split _ _ hs _).2
    · rw [State.on_toChip, Chip.onQueue, Chip.queue_modQueue]; exact (Queue.enter_split _ _ hs _).1
  · intro s h o t0 w l hon hw hm ho hd hr hq
    refine ⟨s.on ((s.toChip.upTo t0).hostPop h o), rfl, ?_⟩
    rw [Chip.hostPop_takes (b := s.toChip.upTo t0) hon hw hm ho hd hr hq]
    refine ⟨?_, (Chip.port_complete _ _ _ _).1, (Chip.port_complete _ _ _ _).2, fun j hj => Chip.queue_settled_ne _ _ _ hj,
      (OnlyTouches.settled _ _ (by simp) (by simp) s t0).extend fun x hx =>
        Area.same_complete (by rintro rfl; simp at hx) _ _ _ _⟩
    rw [State.on_toChip, Chip.queue_complete, Chip.onQueue, Chip.queue_modQueue]
    exact Queue.leave_words _ _ hq
  · intro s h o t0 d f _ hon hw
    refine ⟨s.on ((s.toChip.upTo t0).hostPush h o d f), rfl, ?_⟩
    rw [Chip.hostPush_shut (b := s.toChip.upTo t0) hon hw]
    exact ⟨Chip.reg_setReg_self _ _ _ _, (OnlyTouches.upTo (by simp) s t0).extend fun x hx =>
      Area.same_count (by rintro rfl; simp at hx) _ _ _⟩
  · intro s h o t0 _ hon hw
    refine ⟨s.on ((s.toChip.upTo t0).hostPop h o), rfl, ?_⟩
    rw [Chip.hostPop_shut (b := s.toChip.upTo t0) hon hw]
    exact ⟨(Chip.port_complete _ _ _ _).1, (Chip.port_complete _ _ _ _).2, Chip.reg_setReg_self _ _ _ _,
      ((OnlyTouches.upTo (by simp) s t0).extend fun x hx => Area.same_count (by rintro rfl; simp at hx) _ _ _).extend
        fun x hx => Area.same_complete (by rintro rfl; simp at hx) _ _ _ _⟩
  · intro s h o t0 d f hon
    refine ⟨s.on ((s.toChip.upTo t0).hostPush h o d f), rfl, ?_⟩
    rw [Chip.hostPush_off (b := s.toChip.upTo t0) hon]
    exact OnlyTouches.upTo (by simp) s t0

end Sys2Proof.Machine

namespace Sys2Proof.Machine
open Sys2Proof

/-! ### The device record but for the note of a withheld entry -/

/-- The device record without the note that SAFE withheld an entry, which is all of it that an entry can change. -/
def Device.plain (d : Device) : Device := { d with withheld := false }

theorem Device.st_of_plain {d e : Device} (h : d.plain = e.plain) : d.st = e.st := by
  show d.plain.st = e.plain.st; rw [h]
theorem Device.prev_of_plain {d e : Device} (h : d.plain = e.plain) : d.prev = e.prev := by
  show d.plain.prev = e.plain.prev; rw [h]
theorem Device.closingFromSafe_of_plain {d e : Device} (h : d.plain = e.plain) :
    d.closingFromSafe = e.closingFromSafe := by
  show d.plain.closingFromSafe = e.plain.closingFromSafe; rw [h]

@[simp] theorem Chip.logAs_plain (b : Chip) (e : Ev) (x : Bool) : (b.logAs e x).dev.plain = b.dev.plain := by
  rcases b.logAs_dev e x with h | h
  · rw [h]
  · rw [h, Device.plain, Device.plain]

@[simp] theorem Chip.logEvent_plain (b : Chip) (e : Ev) : (b.logEvent e).dev.plain = b.dev.plain := b.logAs_plain e false

/-! ### Loads and commits that end -/

section
variable (b : Chip)

@[simp] theorem Chip.bootCommit_dev (parts : BitVec 8) : (b.bootCommit parts).dev = b.dev := by
  simp only [Chip.bootCommit]
  split <;> simp

@[simp] theorem Chip.endCommit_plain (st : Nat) (inj : Bool) : (b.endCommit st inj).dev.plain = b.dev.plain := by
  simp only [Chip.endCommit]
  (repeat' split) <;> simp

@[simp] theorem Chip.pushLoad_dev (l : Load) : (b.pushLoad l).dev = b.dev := by
  simp only [Chip.pushLoad]
  split <;> rfl

@[simp] theorem Chip.noBootStream_plain : b.noBootStream.dev.plain = b.dev.plain := by
  simp [Chip.noBootStream]

@[simp] theorem Chip.bootFallback_plain (inj : Bool) : (b.bootFallback inj).dev.plain = b.dev.plain := by
  simp only [Chip.bootFallback]
  split <;> simp

@[simp] theorem Chip.bootFailed_plain (l : Load) (code : Nat) : (b.bootFailed l code).dev.plain = b.dev.plain := by
  simp only [Chip.bootFailed]
  (repeat' split) <;> simp

@[simp] theorem Chip.refuseStream_plain (l : Load) (code : Nat) (inj : Bool) :
    (b.refuseStream l code inj).dev.plain = b.dev.plain := by
  simp only [Chip.refuseStream]
  (repeat' split) <;> simp

@[simp] theorem Chip.nextLoad_dev : b.nextLoad.dev = b.dev := by
  simp only [Chip.nextLoad]
  split <;> rfl

@[simp] theorem Chip.rebuild_dev (mask : BitVec 32) : (b.rebuild mask).dev = b.dev := rfl

@[simp] theorem Chip.endLoad_plain (code : Nat) (inj : Bool) : (b.endLoad code inj).dev.plain = b.dev.plain := by
  simp only [Chip.endLoad]
  split <;> simp

@[simp] theorem Chip.endLoads_plain (hit : Load → Bool) (code : Nat) :
    (b.endLoads hit code).dev.plain = b.dev.plain := by
  simp only [Chip.endLoads]
  rw [foldl_keep (fun b : Chip => b.dev.plain) _ fun b l => by simp]
  (repeat' split) <;> simp

@[simp] theorem Chip.dropStaged_dev (hit : Staged → Bool) : (b.dropStaged hit).dev = b.dev :=
  Chip.forEach_keep Chip.dev _ (fun b r => by split <;> simp) _ _

end

/-! ### Parks and power domains -/

section
variable (b : Chip) (k : Nat)

theorem Chip.parkBank_parkedPins : ((b.parkBank k).bank k).parkedPins = BitVec.allOnes 64 := by
  simp [Chip.parkBank, Chip.bank, Chip.modBank]

theorem Chip.parkBank_bank_ne {j : Nat} (h : j ≠ k) : (b.parkBank k).bank j = b.bank j := by
  simp [Chip.parkBank, Chip.flushBank, Chip.modPins, Chip.noteDrive, Chip.bank, Chip.modBank, h]

/-- Every bank of a list parks. -/
theorem Chip.forEach_parkBank_parkedPins (l : List Nat) (hk : k ∈ l ∨ (b.bank k).parkedPins = BitVec.allOnes 64) :
    ((b.forEach l Chip.parkBank).bank k).parkedPins = BitVec.allOnes 64 := by
  induction l generalizing b with
  | nil => simpa [Chip.forEach] using hk
  | cons j l ih =>
    refine ih (b.parkBank j) ?_
    by_cases hj : k = j
    · subst hj; exact .inr (b.parkBank_parkedPins k)
    · rw [Chip.parkBank_bank_ne _ _ hj]
      exact hk.imp_left fun h => (List.mem_cons.1 h).resolve_left hj

/-- A domain that goes off is off; any other is as it was. -/
theorem Chip.powerOff_powered (l : List Nat) : (b.powerOff l).powered k = (b.powered k && !l.contains k) := by
  simp only [Chip.powered, Chip.powerOff]
  generalize b.dev.power = p
  induction l generalizing p with
  | nil => simp
  | cons d l ih =>
    rw [List.foldl_cons, ih, getLsbD_and_not_one_shiftLeft, List.contains_cons, Bool.not_or, Bool.and_assoc]
    rfl

@[simp] theorem Chip.powerOff_st (l : List Nat) : (b.powerOff l).dev.st = b.dev.st := rfl
@[simp] theorem Chip.powerOff_prev (l : List Nat) : (b.powerOff l).dev.prev = b.dev.prev := rfl

end

/-! ### Entry to CLOSING -/

section
variable (b : Chip)

/-- What entry to CLOSING comes to before the banks park: the state, and the ends of streams, commit and rate change (R362, R365). -/
def Chip.closingEnds (b : Chip) : Chip :=
  let b := ((((b.changeState .closing 0 false).endCommit 5 false).endLoads (fun _ => true) 9).dropStaged fun _ => true)
  if (b.cmd 0x2E26).busy.isSome then b.endCmd 0x2E26 6 else b

theorem Chip.closingEnds_plain : b.closingEnds.dev.plain = (b.changeState .closing 0 false).dev.plain := by
  simp only [Chip.closingEnds]
  split <;> simp

/-- Then the banks park, and P17, P18 and P16 go off (R20, R398). -/
theorem Chip.enterClosing_eq : b.enterClosing =
    Chip.powerOff { (b.closingEnds.forEach (List.range 24) Chip.parkBank) with
      dev := { (b.closingEnds.forEach (List.range 24) Chip.parkBank).dev with
        closingFromSafe := b.dev.st == .safe, closingStage := 1 }
      hub := { (b.closingEnds.forEach (List.range 24) Chip.parkBank).hub with pending := 0, changing := none }
      ecat := (b.closingEnds.forEach (List.range 24) Chip.parkBank).ecat.forcedFall true } [17, 18, 16] := rfl

theorem Chip.closingParked_dev : (b.closingEnds.forEach (List.range 24) Chip.parkBank).dev = b.closingEnds.dev :=
  Chip.forEach_keep Chip.dev Chip.parkBank Chip.parkBank_dev _ _

@[simp] theorem Chip.enterClosing_st : b.enterClosing.dev.st = .closing := by
  rw [Chip.enterClosing_eq, Chip.powerOff_st]
  show (b.closingEnds.forEach (List.range 24) Chip.parkBank).dev.st = .closing
  rw [Chip.closingParked_dev, Device.st_of_plain b.closingEnds_plain, Chip.changeState_st]

@[simp] theorem Chip.enterClosing_prev : b.enterClosing.dev.prev = b.dev.st := by
  rw [Chip.enterClosing_eq, Chip.powerOff_prev]
  show (b.closingEnds.forEach (List.range 24) Chip.parkBank).dev.prev = _
  rw [Chip.closingParked_dev, Device.prev_of_plain b.closingEnds_plain, Chip.changeState_prev]

@[simp] theorem Chip.enterClosing_closingFromSafe : b.enterClosing.dev.closingFromSafe = (b.dev.st == .safe) := rfl

theorem Chip.enterClosing_powered {d : Nat} (h : d ∈ [17, 18, 16]) : b.enterClosing.powered d = false := by
  rw [Chip.enterClosing_eq, Chip.powerOff_powered]
  simp only [List.contains_iff_mem.2 h, Bool.not_true, Bool.and_false]

theorem Chip.enterClosing_parkedPins {k : Nat} (h : k < 24) :
    (b.enterClosing.bank k).parkedPins = BitVec.allOnes 64 := by
  have hb : b.enterClosing.banks = (b.closingEnds.forEach (List.range 24) Chip.parkBank).banks := by
    rw [Chip.enterClosing_eq, Chip.powerOff]
  have hp := Chip.forEach_parkBank_parkedPins b.closingEnds k (List.range 24) (.inl (List.mem_range.2 h))
  rwa [Chip.bank, ← hb] at hp

end

end Sys2Proof.Machine

namespace Sys2Proof.Machine
open Sys2Proof

/-! ### The start of a command that is taken -/

/-- The device in which a command that is taken starts: its parameters and its serial are stored (R343). -/
def State.started (s : State) (q : Req) (idx n : Nat) (params : List (Nat × Nat)) : Chip :=
  (s.withParams q idx params).modCmd (cmdKey idx) fun c => { c with serials := Tab.set c.serials q.owner n }

section
variable (s : State) (q : Req) (idx n : Nat) (l : List (Nat × Nat))

@[simp] theorem State.started_dev : (s.started q idx n l).dev = s.dev := by simp [State.started]
@[simp] theorem State.started_regions : (s.started q idx n l).regions = s.regions := by simp [State.started]
@[simp] theorem State.started_lantern : (s.started q idx n l).lantern = s.lantern := by simp [State.started]
@[simp] theorem State.started_watch : (s.started q idx n l).watch = s.watch := by simp [State.started]
@[simp] theorem State.started_now : (s.started q idx n l).now = (s.toChip.upTo q.t).now := by
  simp [State.started, Chip.now]

variable {s q idx n l}

/-- The one parameter of a command stands in its register. -/
theorem State.started_reg {sub v : Nat} (h : CommandTaken s q idx n [(sub, v)] = true) :
    (s.started q idx n [(sub, v)]).reg (cmdKey idx) sub = v := by
  rw [State.started, withParams_taken s q idx n _ h]
  exact Chip.reg_setReg_self _ _ _ _

end

theorem Chip.sameDecision_congr {b c : Chip} (h : b.now = c.now) (t : Option Nat) :
    b.sameDecision t = c.sameDecision t := by
  simp [Chip.sameDecision, h]

theorem Chip.faultPresent_congr {b c : Chip} (hd : b.dev = c.dev) (hl : b.lantern = c.lantern) (hw : b.watch = c.watch) :
    b.faultPresent = c.faultPresent := by
  simp [Chip.faultPresent, hd, hl, hw]

/-! ### The commands of 0x2E01 -/

section
variable {s : State} {q : Req} {n : Nat}

/-- The state after a row of 0x2E01 whose command is taken, where d is what the command makes of the device. -/
theorem exec_shutdown_taken (h : CommandTaken s q 0x2E01 n [(3, 1)] = true) :
    exec (.shutdown q n) s =
      .next (s.on (((s.started q 0x2E01 n [(3, 1)]).startShutdown q.owner).answer q.owner .done)) := by
  show Host.Outcome.next (s.on (s.toChip.commandRow q 0x2E01 n [(3, 1)] Chip.startDevice)) = _
  rw [commandRow_taken s q 0x2E01 n _ _ h]
  have hr := State.started_reg h
  simp only [State.started, show cmdKey 0x2E01 = 0x2E01 from rfl] at hr ⊢
  simp only [Chip.startDevice, hr]

theorem exec_recover_taken (h : CommandTaken s q 0x2E01 n [(3, 2)] = true) :
    exec (.recover q n) s =
      .next (s.on (((s.started q 0x2E01 n [(3, 2)]).startRecover q.owner).answer q.owner .done)) := by
  show Host.Outcome.next (s.on (s.toChip.commandRow q 0x2E01 n [(3, 2)] Chip.startDevice)) = _
  rw [commandRow_taken s q 0x2E01 n _ _ h]
  have hr := State.started_reg h
  simp only [State.started, show cmdKey 0x2E01 = 0x2E01 from rfl] at hr ⊢
  simp only [Chip.startDevice, hr]

variable {b : Chip} {o : Nat}

/-- A shutdown in REDUCED or FULL, or in SAFE after the cycle of its fault, enters CLOSING (R32, R35). -/
theorem Chip.startShutdown_enters
    (h : b.dev.st = .reduced ∨ b.dev.st = .full ∨ b.dev.st = .safe ∧ b.sameDecision b.dev.faultTick = false) :
    b.startShutdown o = (b.enterClosing.decided o).setStatus 0x2E01 o 0 := by
  rcases h with h | h | ⟨h, hf⟩
  · simp [Chip.startShutdown, Chip.serving, h]
  · simp [Chip.startShutdown, Chip.serving, h]
  · simp [Chip.startShutdown, h, hf]

/-- In the C36 cycle of the fault that led to SAFE it has lost (R35). -/
theorem Chip.startShutdown_lost (h : b.dev.st = .safe) (hf : b.sameDecision b.dev.faultTick = true) :
    b.startShutdown o = b.setStatus 0x2E01 o 2 := by
  simp [Chip.startShutdown, h, hf]

/-- A fault that is present, or one of this C36 cycle, keeps the device in SAFE (R34, R35). -/
theorem Chip.startRecover_stays (h : b.dev.st = .safe)
    (hf : b.faultPresent = true ∨ b.sameDecision b.dev.faultTick = true) :
    b.startRecover o = b.setStatus 0x2E01 o 3 := by
  have hf' : (b.faultPresent || b.sameDecision b.dev.faultTick) = true := by simpa using hf
  simp [Chip.startRecover, h, hf']

/-- The status that a command object shows for an owner after the last answer. -/
theorem State.status_on_answer (s : State) (b : Chip) (idx p : Nat) (r : Reply) (o : Nat) :
    (s.on (b.answer p r)).status idx o = Tab.get 0 (b.cmd (cmdKey idx)).status o := by
  simp [State.status]

end

/-! ### Recovery -/

/-- What a change of region records keeps of each, it keeps of every region. -/
theorem Chip.modRegion_keep {β : Type} (p : Region → β) (b : Chip) (r : Nat) (f : Region → Region)
    (h : ∀ g, p (f g) = p g) (j : Nat) : p ((b.modRegion r f).region j) = p (b.region j) := by
  by_cases hj : j = r
  · subst hj; rw [Chip.region_modRegion, h]
  · rw [Chip.region_modRegion_ne _ _ _ _ hj]

/-- Net-0 edges act on the nets, the flip-flops, the reflex registers and the count of what is settled alone. -/
theorem Region.settle_keep {β : Type} (p : Region → β)
    (h : ∀ (g : Region) n f fw x xw l c,
      p { g with nets := n, ff := f, ffWas := fw, rfx := x, rfxWas := xw, live := l, settled := c } = p g)
    (g : Region) (r c : Nat) : p (g.settle r c) = p g := by
  have he : ∀ (g : Region) (c : Nat), p (g.edge r c) = p g := fun g c => by
    simp only [Region.edge]
    split
    · exact h g _ g.ff g.ffWas g.rfx g.rfxWas g.live _
    · exact h g _ _ _ _ _ _ _
  have hr : ∀ (n : Nat) (g : Region), p (Region.run r n g) = p g := by
    intro n
    induction n with
    | zero => exact fun _ => rfl
    | succ n ih => exact fun g => (ih _).trans (he g _)
  simp only [Region.settle]
  split
  · exact h g g.nets g.ff g.ffWas g.rfx g.rfxWas g.live _
  · exact hr _ _

section
variable (b : Chip) (r j : Nat)

theorem Chip.settleRegion_fenced (x : Bool) :
    ((b.settleRegion r x).region j).fenced = (b.region j).fenced :=
  Chip.modRegion_keep Region.fenced b r _
    (fun g => Region.settle_keep Region.fenced (fun _ _ _ _ _ _ _ _ => rfl) g r _) j

theorem Chip.startIsle_fenced : ((b.startIsle r).region j).fenced = (b.region j).fenced :=
  Chip.modRegion_keep Region.fenced b r _ (fun g => by split <;> rfl) j

theorem Chip.assertReset_fenced : ((b.assertReset r).region j).fenced = (b.region j).fenced := by
  have h : (b.assertReset r).regions =
      (((((b.stopSlots r).dropPacking r).settleRegion r true).loseTokens r).modRegion r fun g =>
        { g with inReset := true, relDue := false, urst := 0#4, ff := [], live := 0#16 }).regions := rfl
  rw [Chip.region_congr h, Chip.modRegion_keep Region.fenced, Chip.region_congr (Chip.loseTokens_regions _ _),
    Chip.settleRegion_fenced, Chip.region_congr (Chip.dropPacking_regions _ _), Chip.stopSlots,
    Chip.modRegion_keep Region.fenced]
  · intro g; rfl
  · intro g; rfl

/-- One region at the return from SAFE: its halt ends, and one that is not fenced restarts under its hard reset, with its release
planned (R34, R448). -/
def Chip.recoverRegion (b : Chip) (r : Nat) : Chip :=
  let b := b.modRegion r fun g => { g with lone := .running, halted := false }
  if (b.region r).fenced then b
  else
    let b := b.startIsle r
    match b.regionPart r with
    | some p =>
      let t := b.planRelease p r
      (b.assertReset r).modRegion r fun g => { g with recoverAt := some t }
    | none => b

theorem Chip.recoverRegion_fenced : ((b.recoverRegion r).region j).fenced = (b.region j).fenced := by
  have hm : ((b.modRegion r fun g => { g with lone := .running, halted := false }).region j).fenced =
      (b.region j).fenced := Chip.modRegion_keep Region.fenced b r _ (by intro g; rfl) j
  simp only [Chip.recoverRegion]
  split
  · exact hm
  · split
    · rw [Chip.modRegion_keep Region.fenced, Chip.assertReset_fenced, Chip.startIsle_fenced, hm]
      intro g; rfl
    · rw [Chip.startIsle_fenced, hm]

end

section
variable (b : Chip)

theorem Chip.clearSession_regions : b.clearSession.regions = b.regions := rfl

theorem Chip.measureBanks_regions : b.measureBanks.regions = b.regions :=
  Chip.forEach_keep Chip.regions _ (fun b k => by (repeat' split) <;> rfl) _ _

theorem Chip.undoInjection_regions (a : Armed) : (b.undoInjection a).regions = b.regions := by
  simp only [Chip.undoInjection]
  (repeat' split) <;> rfl

theorem Chip.undoInjection_dev (a : Armed) : (b.undoInjection a).dev = b.dev := by
  simp only [Chip.undoInjection]
  (repeat' split) <;> rfl

theorem Chip.disableInjection_regions : b.disableInjection.regions = b.regions := by
  rw [Chip.disableInjection]
  simp only [Chip.clearRegs_regions]
  exact foldl_keep Chip.regions Chip.undoInjection Chip.undoInjection_regions _ _

theorem Chip.disableInjection_dev : b.disableInjection.dev = b.dev := by
  rw [Chip.disableInjection]
  simp only [Chip.clearRegs_dev]
  exact foldl_keep Chip.dev Chip.undoInjection Chip.undoInjection_dev _ _

theorem Chip.disableInjection_inject : b.disableInjection.inject = {} := rfl

/-- A change of state leaves alone what neither an entry nor a port event touches. -/
theorem Chip.changeState_regions (st : DeviceState) (cause : Nat) (x : Bool) :
    (b.changeState st cause x).regions = b.regions := by simp [Chip.changeState, Chip.toState]
theorem Chip.changeState_inject (st : DeviceState) (cause : Nat) (x : Bool) :
    (b.changeState st cause x).inject = b.inject := by simp [Chip.changeState, Chip.toState]
theorem Chip.changeState_cmds (st : DeviceState) (cause : Nat) (x : Bool) :
    (b.changeState st cause x).dict.cmds = b.dict.cmds := by simp [Chip.changeState, Chip.toState]
theorem Chip.changeState_readiness (st : DeviceState) (cause : Nat) (x : Bool) :
    (b.changeState st cause x).readiness = b.readiness := by simp [Chip.changeState, Chip.readiness]

theorem Chip.decided_st (o : Nat) : (b.decided o).dev.st = b.dev.st := rfl
theorem Chip.decided_readiness (o : Nat) : (b.decided o).readiness = b.readiness := rfl

/-- What the change to FULL keeps, the trial of it keeps. -/
theorem Chip.tryFull_keep {β : Type} (g : Chip → β) (hd : ∀ b : Chip, g (b.decided 0) = g b)
    (hc : g (b.changeState .full 0 false) = g b) : g b.tryFull = g b := by
  rw [Chip.tryFull, apply_ite g, hd, hc, ite_self]

theorem Chip.tryFull_regions : b.tryFull.regions = b.regions :=
  b.tryFull_keep Chip.regions (by intro c; rfl) (b.changeState_regions _ _ _)
theorem Chip.tryFull_inject : b.tryFull.inject = b.inject :=
  b.tryFull_keep Chip.inject (by intro c; rfl) (b.changeState_inject _ _ _)
theorem Chip.tryFull_cmds : b.tryFull.dict.cmds = b.dict.cmds :=
  b.tryFull_keep (fun c => c.dict.cmds) (by intro c; rfl) (b.changeState_cmds _ _ _)

/-- REDUCED stays, or becomes FULL with every readiness bit set (R32). -/
theorem Chip.tryFull_reduced (h : b.dev.st = .reduced) :
    b.tryFull.dev.st = .reduced ∨ (b.tryFull.dev.st = .full ∧ b.tryFull.readiness = 15) := by
  rw [Chip.tryFull]
  split
  · next hr => exact .inr (by simp only [Chip.decided_st, Chip.changeState_st, Chip.decided_readiness,
      Chip.changeState_readiness, hr, and_self])
  · exact .inl h

/-- The device as the return from SAFE leaves it before its change of state. -/
def Chip.recovering (b : Chip) : Chip :=
  (({ b.releaseCorr with
      dev := { b.dev with withheld := false, faultTick := none }
      parts := Tab.mapIf (fun _ => true)
        (fun q => { q with halt := .running, pdFrozen := false, beFrozen := false }) b.parts } : Chip).forEach
    (List.range 32) Chip.recoverRegion).clearSession.measureBanks

variable {b} in
/-- The return from SAFE (R34). -/
theorem Chip.startRecover_returns {o : Nat} (h : b.dev.st = .safe) (hp : b.faultPresent = false)
    (hf : b.sameDecision b.dev.faultTick = false) :
    b.startRecover o =
      (((b.recovering.changeState .reduced 0 b.dev.withheld).disableInjection.clearRegs 0x2DFF 3 3).setStatus 0x2E01 o
        0).tryFull := by
  have hb : (b.faultPresent || b.sameDecision b.dev.faultTick) ≠ true := by simp [hp, hf]
  rw [Chip.startRecover, if_neg (not_not.2 h), if_neg hb, Chip.recovering]
  rfl

theorem Chip.recovering_fenced (j : Nat) : (b.recovering.region j).fenced = (b.region j).fenced := by
  have hr : b.releaseCorr.regions = b.regions := by
    simp only [Chip.releaseCorr]; split <;> rfl
  rw [Chip.recovering, Chip.region_congr (Chip.measureBanks_regions _), Chip.region_congr (Chip.clearSession_regions _)]
  refine (Chip.forEach_keep (fun b : Chip => (b.region j).fenced) Chip.recoverRegion
    (fun b r => b.recoverRegion_fenced r j) _ _).trans ?_
  exact congrArg Region.fenced (Chip.region_congr hr j)

end

end Sys2Proof.Machine

namespace Sys2Proof.Machine
open Sys2Proof

section
variable {b : Chip} {o : Nat}

/-- What the return from SAFE comes to: REDUCED or FULL, status 0, injection off, and the fences as they were (R34, R486). -/
theorem Chip.startRecover_result (h : b.dev.st = .safe) (hp : b.faultPresent = false)
    (hf : b.sameDecision b.dev.faultTick = false) :
    ((b.startRecover o).dev.st = .reduced ∨ (b.startRecover o).dev.st = .full ∧ (b.startRecover o).readiness = 15) ∧
      Tab.get 0 ((b.startRecover o).cmd 0x2E01).status o = 0 ∧ (b.startRecover o).inject = {} ∧
      ∀ j, ((b.startRecover o).region j).fenced = (b.region j).fenced := by
  rw [Chip.startRecover_returns h hp hf]
  generalize hr : b.recovering.changeState .reduced 0 b.dev.withheld = r
  have hst : r.disableInjection.dev.st = .reduced := by rw [Chip.disableInjection_dev, ← hr, Chip.changeState_st]
  have hst' : ((r.disableInjection.clearRegs 0x2DFF 3 3).setStatus 0x2E01 o 0).dev.st = .reduced := by
    rw [Chip.setStatus_dev, Chip.clearRegs_dev, hst]
  refine ⟨Chip.tryFull_reduced _ hst', ?_, ?_, fun j => ?_⟩
  · rw [Chip.cmd, Chip.tryFull_cmds]
    exact Chip.setStatus_status _ _ _ _
  · rw [Chip.tryFull_inject, Chip.setStatus_inject, Chip.clearRegs_inject, Chip.disableInjection_inject]
  · rw [← b.recovering_fenced j]
    refine congrArg Region.fenced (Chip.region_congr ?_ j)
    rw [Chip.tryFull_regions, Chip.setStatus_regions, Chip.clearRegs_regions, Chip.disableInjection_regions, ← hr,
      Chip.changeState_regions]

end

/-! ### The release edge of a region -/

/-- Of a region's record, what its release edge sets and no fence changes. -/
def Region.releaseView (g : Region) : Bool × Option Nat × Nat := (g.inReset, g.recoverAt, g.released)

section
variable (b : Chip) (r j : Nat)

theorem Chip.stopSlots_view : ((b.stopSlots r).region j).releaseView = (b.region j).releaseView :=
  Chip.modRegion_keep Region.releaseView b r _ (by intro g; rfl) j

theorem Chip.startSlots_view : ((b.startSlots r).region j).releaseView = (b.region j).releaseView := by
  rw [Chip.startSlots]
  split
  · exact Chip.modRegion_keep Region.releaseView b r _ (by intro g; rfl) j
  · rfl

theorem Chip.gateIsle_view (c : Nat) : ((b.gateIsle r c).region j).releaseView = (b.region j).releaseView := by
  rw [Chip.gateIsle, Chip.stopIsle, Chip.modRegion_keep Region.releaseView, Chip.modRegion_keep Region.releaseView]
  · intro g; rfl
  · intro g; rfl

theorem Chip.endRestart_view (st : Nat) : ((b.endRestart r st).region j).releaseView = (b.region j).releaseView := by
  simp only [Chip.endRestart]
  split
  · rw [Chip.freeRegionStandby, Chip.modRegion_keep Region.releaseView, Chip.modRegion_keep Region.releaseView,
      Chip.region_congr (Chip.endCmd_regions _ _ _)]
    · intro g; rfl
    · intro g; rfl
  · rfl

theorem Chip.endPendingHalt_view : ((b.endPendingHalt r).region j).releaseView = (b.region j).releaseView := by
  simp only [Chip.endPendingHalt]
  (repeat' split)
  · simp [Chip.region]
  · rfl
  · rw [Chip.modRegion_keep Region.releaseView, Chip.region_congr (Chip.endCmd_regions _ _ _)]
    intro g; rfl
  · exact Chip.modRegion_keep Region.releaseView b r _ (by intro g; rfl) j
  · rfl

/-- The first part of a fence: the region's clock stops, and the region is marked (R26). -/
def Chip.fenceMark (b : Chip) (r : Nat) : Chip :=
  ((((b.stopSlots r).dropPacking r).dropHeld r).gateIsle r (b.isle r)).modRegion r fun g => { g with fenced := true }

theorem Chip.fenceMark_view : ((b.fenceMark r).region j).releaseView = (b.region j).releaseView := by
  rw [Chip.fenceMark, Chip.modRegion_keep Region.releaseView, Chip.gateIsle_view,
    Chip.region_congr (Chip.dropHeld_regions _ _), Chip.region_congr (Chip.dropPacking_regions _ _), Chip.stopSlots_view]
  intro g; rfl

/-- A fence leaves the reset and the planned release of every region as they are (R26). -/
theorem Chip.fence_view (e : Ev) : ((b.fence r e).region j).releaseView = (b.region j).releaseView := by
  simp only [Chip.fence]
  split
  · exact Chip.endRestart_view _ _ _ _
  · rw [Chip.region_congr (Chip.logEvent_regions _ _), Chip.region_congr (Chip.raiseOwner_regions _ _ _),
      Chip.endPendingHalt_view, Chip.region_congr (Chip.abandonOnDemand_regions _ _)]
    refine (congrArg Region.releaseView (Chip.region_congr (c := b.fenceMark r) ?_ j)).trans (b.fenceMark_view r j)
    split <;> simp [Chip.fenceMark, Chip.forEach_keep Chip.regions Chip.faultPark (fun _ _ => rfl)]

theorem Chip.disableQueue_regions (k which : Nat) (inj : Bool) : (b.disableQueue k which inj).regions = b.regions := by
  simp only [Chip.disableQueue]
  (repeat' split) <;> simp [Chip.modQueue]

/-- So does an injected mismatch of a queue block's pointers, which may fence a region (R188, R199). -/
theorem Chip.mismatch_view (k which : Nat) (inj : Bool) :
    ((b.mismatch k which inj).region j).releaseView = (b.region j).releaseView := by
  simp only [Chip.mismatch]
  rw [Chip.region_congr (Chip.disableQueue_regions _ _ _ _)]
  generalize hd : Chip.count (b.modQueue k _) _ _ = d
  have hr : d.regions = b.regions := by rw [← hd]; rfl
  have hi : ∀ (c : Chip) (code : Nat), ((if inj then c.injected code else c).region j) = c.region j := fun c code => by
    split <;> simp [Chip.region]
  rw [hi]
  generalize (b.queueScheduled k && _) = hard
  split
  · rw [Chip.fence_view, Chip.region_congr hr]
  · rw [Chip.region_congr (Chip.logEvent_regions _ _), Chip.region_congr hr]

theorem Chip.injectQueue_view (k : Nat) : ((b.injectQueue k).region j).releaseView = (b.region j).releaseView := by
  rw [Chip.injectQueue]
  refine Chip.forEach_keep (fun b : Chip => (b.region j).releaseView) _ (fun b which => ?_) _ _
  split
  · exact Chip.mismatch_view _ _ _ _ _
  · rfl

theorem Chip.injectQueues_view : ((b.injectQueues r).region j).releaseView = (b.region j).releaseView := by
  rw [Chip.injectQueues]
  refine foldl_keep (fun b : Chip => (b.region j).releaseView) _ (fun b x => ?_) _ _
  exact b.injectQueue_view j x.1

/-- Where none is armed, nothing is injected. -/
theorem Chip.injectQueues_unarmed (h : ∀ which k, b.isArmed 0x2D30 which k = false) : b.injectQueues r = b := by
  refine List.foldl_fixed' (fun x => ?_) _
  simp [Chip.injectQueue, Chip.forEach, h]

/-- The region's record at its release edge (R125), before its slots are checked from there on. -/
def Chip.releaseEdge (b : Chip) (r : Nat) : Chip :=
  (b.settleRegion r false).modRegion r fun g =>
    { g with inReset := false, relDue := false, released := b.isle r, divStart := b.isle r }

theorem Chip.releaseReset_regions : ∃ c : Chip, b.releaseReset r = c.startSlots r ∧ c.regions = (b.releaseEdge r).regions :=
  ⟨_, rfl, rfl⟩

theorem Chip.releaseReset_view :
    ((b.releaseReset r).region r).releaseView = (false, (b.region r).recoverAt, b.isle r) := by
  obtain ⟨c, hc, hr⟩ := b.releaseReset_regions r
  have hk : ((b.settleRegion r false).region r).recoverAt = (b.region r).recoverAt :=
    Chip.modRegion_keep Region.recoverAt b r _
      (fun g => Region.settle_keep Region.recoverAt (fun _ _ _ _ _ _ _ _ => rfl) g r _) r
  rw [hc, Chip.startSlots_view, Chip.region_congr hr, Chip.releaseEdge, Chip.region_modRegion, Region.releaseView, hk]

theorem Chip.releaseReset_region_ne {j : Nat} (h : j ≠ r) : (b.releaseReset r).region j = b.region j := by
  obtain ⟨c, hc, hr⟩ := b.releaseReset_regions r
  have hs : (c.startSlots r).region j = c.region j := by
    rw [Chip.startSlots]
    split
    · exact Chip.region_modRegion_ne _ _ _ _ h
    · rfl
  rw [hc, hs, Chip.region_congr hr, Chip.releaseEdge, Chip.region_modRegion_ne _ _ _ _ h, Chip.settleRegion,
    Chip.region_modRegion_ne _ _ _ _ h]

/-- The region as its planned release finds it: the instant has come, and its banks and queue blocks are out of their park and reset
(R34, R72). -/
def Chip.recoverReady (due : Nat) : Chip :=
  ((((b.upTo due).modRegion r fun g => { g with recoverAt := none }).endFaultPark r).resetQueues r false)

variable {b r} in
theorem Chip.recoverRelease_due {due : Nat} (h : (b.region r).recoverAt = some due) (hf : (b.region r).fenced = false) :
    b.recoverRelease r = (b.recoverReady r due).releaseRegion r := by
  have hf' : (((b.upTo due).modRegion r fun g => { g with recoverAt := none }).region r).fenced ≠ true := by
    rw [Chip.region_modRegion]; exact Bool.eq_false_iff.1 hf
  simp only [Chip.recoverRelease, h, if_neg hf']
  rfl

theorem Chip.recoverReady_regions (due : Nat) :
    (b.recoverReady r due).regions = ((b.upTo due).modRegion r fun g => { g with recoverAt := none }).regions := by
  rw [Chip.recoverReady, Chip.resetQueues_regions, Chip.endFaultPark_regions]

theorem Chip.recoverReady_isle (due : Nat) : (b.recoverReady r due).isle r = (b.upTo due).isle r := by
  have hr : (b.recoverReady r due).region r = { b.region r with recoverAt := none } :=
    (Chip.region_congr (b.recoverReady_regions r due) r).trans (Chip.region_modRegion _ _ _)
  have hb : (b.recoverReady r due).belfry = (b.upTo due).belfry := by simp [Chip.recoverReady]
  simp only [Chip.isle, Chip.period, Chip.now, hr, hb]
  rfl

end

/-! ### The end of self-refresh in CLOSING -/

section
variable (b : Chip) (rr : Nat)

@[simp] theorem Chip.setProt_dev (st : Nat) (f : ProtRegion → ProtRegion) : (b.setProt rr st f).dev = b.dev := by
  simp only [Chip.setProt]
  (repeat' split) <;> simp

@[simp] theorem Chip.dramWrite_dev (a : Nat) (mask : Nat → Bool) (d : Bytes) : (b.dramWrite a mask d).dev = b.dev :=
  foldl_keep Chip.dev _ (fun b x => by split <;> rfl) _ _

@[simp] theorem Chip.storeMeta_dev (m : Nat) : (b.storeMeta rr m).dev = b.dev := Chip.dramWrite_dev _ _ _ _

@[simp] theorem Chip.addPoison_plain (level first : Nat) (inj : Bool) :
    (b.addPoison rr level first inj).dev.plain = b.dev.plain := by
  simp only [Chip.addPoison]
  (repeat' split) <;> simp

@[simp] theorem Chip.poisonLine_plain (m : Nat) (inj : Bool) : (b.poisonLine rr m inj).dev.plain = b.dev.plain := by
  simp only [Chip.poisonLine]
  split
  · rfl
  · rw [foldl_keep (fun b : Chip => b.dev.plain) _ (fun b i => by simp), Chip.logEvent_plain]

@[simp] theorem Chip.cacheHit_plain (a : Nat) : (b.cacheHit rr a).dev.plain = b.dev.plain := by
  simp only [Chip.cacheHit]
  split
  · rw [Chip.logEvent_plain]; rfl
  · rfl

@[simp] theorem Chip.useMeta_plain (level m a : Nat) (dirty : Bool) :
    (b.useMeta rr level m a dirty).1.dev.plain = b.dev.plain := by
  simp only [Chip.useMeta]
  (repeat' split)
  · exact Chip.cacheHit_plain _ _ _
  · exact Chip.cacheHit_plain _ _ _
  · exact Chip.cacheHit_plain _ _ _
  · exact Chip.poisonLine_plain _ _ _ _
  · rfl

@[simp] theorem Chip.useNode_plain (level a : Nat) (dirty : Bool) :
    (b.useNode rr level a dirty).1.dev.plain = b.dev.plain :=
  foldl_keep (fun x : Chip × Bool => x.1.dev.plain) _ (fun x y => by split <;> simp) _ _

@[simp] theorem Chip.startRekey_plain : (b.startRekey rr).dev.plain = b.dev.plain := by
  simp [Chip.startRekey, Chip.newKey, Chip.keepServed]

/-- A line of metadata that goes back to DRAM leaves the device record alone. -/
@[simp] theorem Chip.writeBackMeta_plain (m : Nat) : (b.writeBackMeta m).dev.plain = b.dev.plain := by
  simp only [Chip.writeBackMeta]
  (repeat' split) <;> simp

@[simp] theorem Chip.flushCache_plain : b.flushCache.dev.plain = b.dev.plain := by
  refine foldl_keep (fun b : Chip => b.dev.plain) _ (fun b k => ?_) _ _
  exact foldl_keep (fun b : Chip => b.dev.plain) _ (fun b m => by simp) _ _

end

section
variable {b : Chip}

@[simp] theorem Chip.clearIntact_dev (b : Chip) : b.clearIntact.dev = b.dev := rfl

/-- The end of self-refresh: after SAFE to STANDBY, otherwise on to the closing test with P12, P13 and P11 off (R398, R494). -/
theorem Chip.selfRefreshDone_closing (h : b.dev.st = .closing) (h1 : b.dev.closingStage = 1) :
    b.selfRefreshDone =
      if b.dev.closingFromSafe then b.flushCache.clearIntact.flushLog.enterStandby false false
      else { b.flushCache.clearIntact.powerOff [12, 13, 11] with
        cupola := {}
        hub := { b.flushCache.clearIntact.hub with st := 0 }
        dev := { (b.flushCache.clearIntact.powerOff [12, 13, 11]).dev with closingStage := 2 }
        test := { b.flushCache.test with closing := true, index := 0, patterns := 0, failures := [], tooMany := false }
        watch := { b.flushCache.watch with st := 1 } } := by
  have hf : b.flushCache.clearIntact.dev.closingFromSafe = b.dev.closingFromSafe := by
    rw [Chip.clearIntact_dev, Device.closingFromSafe_of_plain b.flushCache_plain]
  rw [Chip.selfRefreshDone, if_pos ⟨h, h1⟩]
  simp only [hf]
  generalize b.flushCache = c
  rfl

end

end Sys2Proof.Machine

namespace Sys2Proof.Machine
open Sys2Proof

section
variable {b : Chip} {o : Nat}

theorem Chip.bank_congr {c : Chip} (h : b.banks = c.banks) (k : Nat) : b.bank k = c.bank k := by simp [Chip.bank, h]
theorem Chip.powered_congr {c : Chip} (h : b.dev.power = c.dev.power) (d : Nat) : b.powered d = c.powered d := by
  simp [Chip.powered, h]

/-- What a shutdown that is taken comes to: CLOSING from the state before, status 0, P16 to P18 off and every bank parked (R32, R398). -/
theorem Chip.startShutdown_result
    (h : b.dev.st = .reduced ∨ b.dev.st = .full ∨ b.dev.st = .safe ∧ b.sameDecision b.dev.faultTick = false) :
    (b.startShutdown o).dev.st = .closing ∧ (b.startShutdown o).dev.prev = b.dev.st ∧
      (b.startShutdown o).dev.closingFromSafe = decide (b.dev.st = .safe) ∧
      Tab.get 0 ((b.startShutdown o).cmd 0x2E01).status o = 0 ∧
      (∀ d ∈ [17, 18, 16], (b.startShutdown o).powered d = false) ∧
      ∀ k, k < 24 → ((b.startShutdown o).bank k).parkedPins = BitVec.allOnes 64 := by
  have hbanks : ∀ c : Chip, ((c.decided o).setStatus 0x2E01 o 0).banks = c.banks := fun _ => rfl
  have hpower : ∀ c : Chip, ((c.decided o).setStatus 0x2E01 o 0).dev.power = c.dev.power := fun _ => rfl
  rw [Chip.startShutdown_enters h]
  exact ⟨b.enterClosing_st, b.enterClosing_prev, b.enterClosing_closingFromSafe.trans (Bool.beq_eq_decide_eq _ _),
    Chip.setStatus_status _ _ _ _, fun d hd => (Chip.powered_congr (hpower _) d).trans (b.enterClosing_powered hd),
    fun k hk => (congrArg Bank.parkedPins (Chip.bank_congr (hbanks _) k)).trans (b.enterClosing_parkedPins hk)⟩

end

section
variable {b : Chip} {r : Nat}

/-- What the planned release of a region that is not fenced comes to: the reset is over from this edge on, and nothing is planned. -/
theorem Chip.recoverRelease_view {due : Nat} (h : (b.region r).recoverAt = some due) (hf : (b.region r).fenced = false) :
    ((b.recoverRelease r).region r).releaseView = (false, none, (b.upTo due).isle r) := by
  rw [Chip.recoverRelease_due h hf, Chip.releaseRegion, Chip.injectQueues_view, Chip.releaseReset_view,
    Chip.recoverReady_isle, Chip.region_congr (Chip.recoverReady_regions _ _ _), Chip.region_modRegion]

/-- Where no mismatch is armed, it is the release of this region alone. -/
theorem Chip.recoverRelease_region_ne {due : Nat} (h : (b.region r).recoverAt = some due) (hf : (b.region r).fenced = false)
    (ha : ∀ which k, b.isArmed 0x2D30 which k = false) {j : Nat} (hj : j ≠ r) :
    (b.recoverRelease r).region j = b.region j := by
  have hn : ∀ which k, ((b.recoverReady r due).releaseReset r).isArmed 0x2D30 which k = false := fun which k => by
    simpa [Chip.isArmed, Chip.recoverReady] using ha which k
  rw [Chip.recoverRelease_due h hf, Chip.releaseRegion, Chip.injectQueues_unarmed _ _ hn,
    Chip.releaseReset_region_ne _ _ hj, Chip.region_congr (Chip.recoverReady_regions _ _ _),
    Chip.region_modRegion_ne _ _ _ _ hj]
  rfl

/-- The end of self-refresh of a shutdown outside SAFE: the closing test runs, without P11 to P13 (R494). -/
theorem Chip.selfRefreshDone_test (h : b.dev.st = .closing) (h1 : b.dev.closingStage = 1)
    (hc : b.dev.closingFromSafe = false) :
    b.selfRefreshDone.dev.st = .closing ∧ b.selfRefreshDone.dev.closingStage = 2 ∧
      b.selfRefreshDone.aon.intact = false ∧ b.selfRefreshDone.test.closing = true ∧
      ∀ d ∈ [12, 13, 11], b.selfRefreshDone.powered d = false := by
  have hst : b.flushCache.dev.st = .closing := (Device.st_of_plain b.flushCache_plain).trans h
  rw [Chip.selfRefreshDone_closing h h1, if_neg (Bool.eq_false_iff.1 hc)]
  generalize b.flushCache = c at hst
  refine ⟨hst, rfl, rfl, rfl, fun d hd => ?_⟩
  have hp := c.clearIntact.powerOff_powered d [12, 13, 11]
  rwa [List.contains_iff_mem.2 hd, Bool.not_true, Bool.and_false] at hp

/-- After SAFE it is entry to STANDBY (R32). -/
theorem Chip.selfRefreshDone_standby (h : b.dev.st = .closing) (h1 : b.dev.closingStage = 1)
    (hc : b.dev.closingFromSafe = true) :
    b.selfRefreshDone.dev.st = .standby ∧ b.selfRefreshDone.aon.intact = false ∧ b.selfRefreshDone.dev.mainEn = false := by
  rw [Chip.selfRefreshDone_closing h h1, if_pos hc]
  generalize b.flushCache = c
  exact ⟨rfl, rfl, rfl⟩

end

/-- Settles O5: the rows of 0x2E01 by what their command makes of the device, the planned release by the region's record at its edge, and
the end of self-refresh by its two continuations. -/
theorem shutdownAndRecoverChangeTheDeviceState : Obligations.ShutdownAndRecoverChangeTheDeviceState := by
  unfold Obligations.ShutdownAndRecoverChangeTheDeviceState
  refine ⟨?_, ?_, ?_, ?_, ?_, ?_, ?_⟩
  · intro s q n ht hs
    refine ⟨_, exec_shutdown_taken ht, ?_⟩
    generalize hb : s.started q 0x2E01 n [(3, 1)] = b
    have hd : b.dev = s.dev := by rw [← hb, State.started_dev]
    have hn : b.now = (s.toChip.upTo q.t).now := by rw [← hb, State.started_now]
    rw [← hd, ← Chip.sameDecision_congr hn] at hs
    obtain ⟨hst, hprev, hfrom, hstatus, hpow, hpark⟩ := Chip.startShutdown_result (o := q.owner) hs
    have hdev : ((b.startShutdown q.owner).answer q.owner .done).dev = (b.startShutdown q.owner).dev := Chip.answer_dev _ _ _
    have hoff : ∀ d ∈ [17, 18, 16], ((b.startShutdown q.owner).answer q.owner .done).powered d = false := fun d hd =>
      (Chip.powered_congr (by rw [hdev]) d).trans (hpow d hd)
    rw [State.on_toChip, hdev, State.status_on_answer, ← hd]
    refine ⟨hst, hprev, hfrom, hstatus, hoff 16 (by simp), hoff 17 (by simp), hoff 18 (by simp), fun k hk => ?_⟩
    rw [Chip.bank_congr (Chip.answer_banks _ _ _), hpark k hk]
  · intro s q n ht hs hf
    refine ⟨_, exec_shutdown_taken ht, ?_⟩
    rw [Chip.startShutdown_lost (by simpa using hs) (by simpa [Chip.sameDecision_congr (State.started_now s q _ n _)] using hf)]
    exact ⟨by simp, by simp [State.status_on_answer, cmdKey]⟩
  · intro s q n ht hs hp hf
    refine ⟨_, exec_recover_taken ht, ?_⟩
    generalize hb : s.started q 0x2E01 n [(3, 2)] = b
    have hd : b.dev = s.dev := by rw [← hb, State.started_dev]
    have hn : b.now = (s.toChip.upTo q.t).now := by rw [← hb, State.started_now]
    have hp' : b.faultPresent = false := by
      rw [Chip.faultPresent_congr hd (by simp [← hb]) (by simp [← hb]), hp]
    rw [← hd, ← Chip.sameDecision_congr hn] at hf
    rw [← hd] at hs
    obtain ⟨hst, hstatus, hi, hfen⟩ := Chip.startRecover_result (o := q.owner) hs hp' hf
    refine ⟨?_, ?_, ?_, fun r => ?_⟩
    · simpa [Chip.readiness] using hst
    · simpa [State.status_on_answer, cmdKey] using hstatus
    · simpa using hi
    · refine (congrArg Region.fenced (Chip.region_congr (Chip.answer_regions _ _ _) r)).trans ((hfen r).trans ?_)
      exact congrArg Region.fenced (Chip.region_congr (by rw [← hb, State.started_regions]) r)
  · intro s q n ht hs hf
    refine ⟨_, exec_recover_taken ht, ?_⟩
    have hp : (s.started q 0x2E01 n [(3, 2)]).faultPresent = s.faultPresent :=
      Chip.faultPresent_congr (by simp) (by simp) (by simp)
    rw [Chip.startRecover_stays (by simpa using hs)
      (by simpa [hp, Chip.sameDecision_congr (State.started_now s q _ n _)] using hf)]
    exact ⟨by simp, by simp [State.status_on_answer, cmdKey]⟩
  · intro s r due hr hf
    refine ⟨s.on (s.toChip.recoverRelease r), rfl, ?_⟩
    obtain ⟨h1, h2, h3⟩ : _ ∧ _ ∧ _ := by simpa [Region.releaseView] using Chip.recoverRelease_view hr hf
    exact ⟨h1, h2, h3, fun ha j hj => Chip.recoverRelease_region_ne hr hf ha hj⟩
  · intro s hs h1 hc
    obtain ⟨hst, hstage, hi, ht, hoff⟩ := Chip.selfRefreshDone_test hs h1 hc
    exact ⟨s.on s.toChip.selfRefreshDone, rfl, hst, hstage, hi, ht, hoff 11 (by simp), hoff 12 (by simp), hoff 13 (by simp)⟩
  · intro s hs h1 hc
    exact ⟨s.on s.toChip.selfRefreshDone, rfl, Chip.selfRefreshDone_standby hs h1 hc⟩

end Sys2Proof.Machine

namespace Sys2Proof.Machine
open Sys2Proof

/-! ### The queue of commands -/

/-- Every command makes of the device another device, and leaves the queue of commands as it stands. -/
theorem exec_on (c : Instr) (s : State) : ∃ b, exec c s = .next (s.on b) := by
  cases c <;> exact ⟨_, rfl⟩

section
variable (b : Chip)

/-- The idle step: a tick passes while P16 is on, and while P00 is on a free value says whether a second ends (R36, R396). -/
theorem Chip.idle_eq : b.idle = { b with
    belfry := { b.belfry with tick := if b.powered 16 then (b.now + 1) % 2 ^ 64 else b.now }
    aon := { b.aon with
      seconds := if b.powered 0 ∧ Config.secondPasses b.free = true then (b.aon.seconds + 1) % 2 ^ 32
        else b.aon.seconds }
    free := if b.powered 0 then b.free + 1 else b.free } := by
  simp only [Chip.idle, Chip.secondMayPass, Chip.powered, Chip.now]
  split_ifs <;> simp_all [Chip.tookFree]

theorem Area.same_idle {x : Area} (h : x ∉ [Area.belfry, .aon, .free]) : x.same b b.idle := by
  rw [Chip.idle_eq]
  cases x <;> simp_all [Area.same]

end

/-- Settles O1: a step is exec of the front command, exec changes the device alone, and the idle step is read off it. -/
theorem stepRunsTheFrontCommand : Obligations.StepRunsTheFrontCommand := by
  unfold Obligations.StepRunsTheFrontCommand
  refine ⟨?_, ?_, ?_⟩
  · intro s c rest h
    simp only [step, h]
    rfl
  · intro s c
    obtain ⟨b, hb⟩ := exec_on c s
    exact ⟨s.on b, hb, rfl⟩
  · intro s h
    refine ⟨s.on s.toChip.idle, ?_, ⟨rfl, fun x hx => Area.same_idle _ hx⟩, ?_⟩
    · simp only [step, State.on, h]
    · rw [State.on_toChip, Chip.idle_eq]
      exact ⟨rfl, rfl⟩

/-! ### PPS_OUT -/

section
variable {b : Chip}

theorem Area.same_belfry {x : Area} (h : x ≠ .belfry) (b : Chip) (y : Belfry) : x.same b { b with belfry := y } := by
  cases x <;> simp_all [Area.same]

/-- What touches Belfry alone. -/
theorem OnlyTouches.withBelfry (s : State) (y : Belfry) : OnlyTouches [.belfry] s (s.on { s.toChip with belfry := y }) :=
  (OnlyTouches.refl _ s).extend fun _ hx => Area.same_belfry (by simpa using hx) _ _

/-- The tick of the next rise of PPS_OUT: the next whole second, or 0 where the count passes its end first (R36, R44). -/
def ppsTick (n : Nat) : Nat :=
  if nextMultiple n 1000000000 < 2 ^ 64 then nextMultiple n 1000000000 else 0

theorem ppsTick_whole (n : Nat) : ppsTick n % 1000000000 = 0 := by
  unfold ppsTick nextMultiple
  split
  · exact Nat.mul_mod_left _ _
  · rfl

theorem ppsTick_next {n : Nat} (h : n ≤ 18446744073000000000) : n ≤ ppsTick n ∧ ppsTick n < n + 1000000000 := by
  unfold ppsTick nextMultiple
  split <;> omega

theorem Chip.ppsRise_enabled (he : b.reg 0x2301 6 = 1) (hp : b.powered 16 = true) :
    b.ppsRise =
      { b with belfry := { b.belfry with tick := ppsTick b.now, pps := true, ppsFall := ppsTick b.now + 10000000 } } := by
  simp only [Chip.ppsRise, he, hp, ppsTick]
  rfl

theorem Chip.ppsRise_disabled (he : b.reg 0x2301 6 ≠ 1) : b.ppsRise = b := by
  simp [Chip.ppsRise, he]

theorem Chip.ppsFallEvent_high (h : b.belfry.pps = true) :
    b.ppsFallEvent =
      { b with belfry := { b.belfry with tick := max b.now b.belfry.ppsFall % 2 ^ 64, pps := false } } :=
  if_pos h

end

section
variable {s : State} {q : Req}

/-- An allowed write of a number whose entry takes it: the entry's effect, and its answer (R337). -/
theorem exec_registerWrite_number {idx sub n v : Nat} {c : Chip} (hi : idx ≠ 0x1C12 ∧ idx ≠ 0x1C13)
    (he : (DictTable.find idx sub).map (fun e => e.ty.bytes) = some n) (hn : n ≠ 0) (hv : v < 256 ^ n)
    (hc : (s.served q).effect q.owner idx sub v = .ok c) (h : WriteAllowed s q idx sub v = true) :
    exec (.registerWrite q (.dict idx sub) v) s = .next (s.on (c.answer q.owner .done)) := by
  rw [exec_registerWrite]
  obtain ⟨e, hf, hb⟩ := Option.map_eq_some_iff.1 he
  obtain ⟨e', hok, hb'⟩ := Chip.checkWrite_of_writeEntry_ok (Bool.and_eq_true_iff.1 h).2 he
  have hw : (s.served q).writeBytes q.owner idx sub (toBytes n v) n = (c, none) := by
    simp [Chip.writeBytes, ofBytes_toBytes hv, hok, hb', hn, hc]
  have hwn : (s.served q).writeNumber q.owner idx sub v = (c, none) := by
    simp [Chip.writeNumber, hf, hb, hn, hv, Chip.writeOne, hw, Chip.checkAssign, hi.1, hi.2]
  simp only [Chip.registerWrite, request_alive (dictAlive_of_writeAllowed h), hwn, finishWrite]

end

theorem Chip.effect_ppsEnable (b : Chip) (o v : Nat) : b.effect o 0x2301 6 v = .ok (b.setPpsEnable v) := by
  simp [Chip.effect]

/-- 0x2301:06 is a BOOLEAN. -/
theorem find_ppsEnable : (DictTable.find 0x2301 6).map (fun e => e.ty.bytes) = some 1 := by decide

/-- Settles O8: a rise, a fall and the write of FALSE are one equation each. -/
theorem ppsOutMarksEverySecond : Obligations.PpsOutMarksEverySecond := by
  unfold Obligations.PpsOutMarksEverySecond
  refine ⟨?_, ?_, ?_, ?_⟩
  · intro s he hp
    refine ⟨s.on s.toChip.ppsRise, rfl, ?_⟩
    rw [Chip.ppsRise_enabled he hp]
    have ht : ∀ y : Belfry, (s.on { s.toChip with belfry := y }).now = y.tick := fun _ => rfl
    rw [ht]
    exact ⟨rfl, ppsTick_whole _, fun h => ppsTick_next h, rfl, OnlyTouches.withBelfry _ _⟩
  · intro s he
    exact congrArg (fun b => Host.Outcome.next (s.on b)) (Chip.ppsRise_disabled he)
  · intro s h
    refine ⟨s.on s.toChip.ppsFallEvent, rfl, ?_⟩
    rw [Chip.ppsFallEvent_high h]
    exact ⟨rfl, rfl, OnlyTouches.withBelfry _ _⟩
  · intro s q h
    refine ⟨_, exec_registerWrite_number (n := 1) ⟨by decide, by decide⟩ find_ppsEnable (by decide) (by decide)
      (Chip.effect_ppsEnable _ _ _) h, ?_, ?_⟩
    · simp [Chip.setPpsEnable]
    · simp [Chip.setPpsEnable, Chip.reg]

end Sys2Proof.Machine

namespace Sys2Proof.Machine
open Sys2Proof

/-! ### BOOT powers the domains -/

section
variable {b : Chip} {d : Nat}

theorem lt_of_nextDomain (h : b.nextDomain = some d) : d < 20 := by
  have hm : d ∈ powerOrder := List.mem_of_find?_eq_some h
  exact (show ∀ n ∈ powerOrder, n < 20 by decide) d hm

theorem Chip.mayPower_of {b : Chip} {d : Nat} (h : b.dev.refClk = true ∨ d = 1 ∨ d = 2 ∨ d = 15 ∨ d = 14) :
    b.mayPower d = true := by
  simpa [Chip.mayPower] using h

/-- A domain that is powered is on, and every other is as it was. -/
theorem Chip.powerOn_powered (b : Chip) (d n : Nat) :
    (b.powerOn d).powered n = (b.powered n || (decide (n = d) && decide (d < 20))) := by
  simp only [Chip.powerOn, Chip.powered, BitVec.getLsbD_or, getLsbD_one_shiftLeft]

/-- C35 waits for REF_CLK (R19). -/
theorem Chip.powerOn_clockState_refClk (h : b.dev.refClk = false) (d : Nat) :
    (b.powerOn d).clockState 35 = b.clockState 35 := by
  rw [Chip.powerOn, Chip.clockState, Tab.get_drop_miss _ _ _ _ (by simp [h])]
  rfl

theorem Area.same_powerOn {x : Area} (h : x ≠ .dev) (b : Chip) (d : Nat) : x.same b (b.powerOn d) :=
  Area.same_dev h _ _

/-- The next domain of the order that is good is on; with P16 Belfry's count starts (R36, R493). -/
theorem Chip.domainGood_next (hs : b.dev.st = .boot) (hf : b.dev.bootFault = false) (hn : b.nextDomain = some d)
    (hm : b.mayPower d = true) (hl : d = 19 → b.lantern.running = true) :
    b.domainGood d = if d = 16 then { b.powerOn d with belfry := {} } else b.powerOn d := by
  rw [Chip.domainGood, if_pos ⟨hs, hf, hn, hm, Decidable.not_or_of_imp hl⟩]

/-- The next domain of the order that is not good in time is a power fault (R414). -/
theorem Chip.domainTimeout_next (hs : b.dev.st = .boot) (hf : b.dev.bootFault = false) (hn : b.nextDomain = some d)
    (hm : b.mayPower d = true) (hl : d = 19 → b.lantern.running = true) :
    b.domainTimeout d = b.bootHalt (evCode 4 14 d 5) 0 := by
  rw [Chip.domainTimeout, if_pos ⟨hs, hf, hn, hm, Decidable.not_or_of_imp hl⟩]

/-- A fault of BOOT stays with the device, and P00 keeps its code (R414, R476). -/
theorem Chip.bootHalt_bootFault (b : Chip) (code d0 : Nat) : (b.bootHalt code d0).dev.bootFault = true := by
  simp [Chip.bootHalt]
theorem Chip.bootHalt_faultCode (b : Chip) (code d0 : Nat) : (b.bootHalt code d0).aon.faultCode = code := by
  simp [Chip.bootHalt]
theorem Chip.bootHalt_st (b : Chip) (code d0 : Nat) : (b.bootHalt code d0).dev.st = b.dev.st := by
  simp [Chip.bootHalt]
theorem Chip.bootHalt_power (b : Chip) (code d0 : Nat) : (b.bootHalt code d0).dev.power = b.dev.power := by
  simp [Chip.bootHalt]

theorem Area.same_bootHalt {x : Area} (h : x ∉ Area.aon :: logAreas) (b : Chip) (code d0 : Nat) :
    x.same b (b.bootHalt code d0) := by
  have hl : x ∉ logAreas := fun hl => h (List.mem_cons_of_mem _ hl)
  refine Area.same.trans ?_ (Area.same_logEvent hl _ _)
  cases x <;> simp_all [Area.same, logAreas]

end

/-! ### The image -/

section
variable {b : Chip}

theorem Chip.domainsReady_of (h : ∀ n, n < 19 → b.powered n = true) : b.domainsReady = true := by
  have ho : ∀ d ∈ powerOrder, d = 19 ∨ d < 19 := by decide
  refine List.all_eq_true.2 fun d hd => ?_
  rcases ho d hd with rfl | hlt
  · rfl
  · simp [h d hlt]

/-- With no update pending the ROM selects the confirmed slot where it is a candidate (R415). -/
theorem Chip.selectSlot_confirmed {p : Bool} (hn : b.lantern.pendingSlot = none) (ht : b.lantern.trial = false)
    (hp : b.lantern.confirmed = some p) (hc : b.candidate p = true) : b.selectSlot = (b, some p) := by
  simp [Chip.selectSlot, hn, ht, hp, hc]

/-- The device in which the image of slot p runs. -/
def Chip.runImage (b : Chip) (p : Bool) : Chip :=
  { b with lantern := { b.lantern with running := true, runB := p } }.reloadWatchdog

/-- The selected image starts, and the fault record is logged unless its entry stands in the buffer (R413, R415). -/
theorem Chip.imageStart_confirmed {p : Bool} (hs : b.dev.st = .boot) (hf : b.dev.bootFault = false)
    (hr : b.dev.recovery = false) (hl : b.lantern.running = false) (hd : b.domainsReady = true)
    (hsel : b.selectSlot = (b, some p)) :
    b.imageStart = (b.runImage p).logUnlogged ∨
      b.imageStart = { b.runImage p with aon := { b.aon with unlogged := none } } := by
  rw [Chip.imageStart, if_pos ⟨hs, hf, hl, hd, hr⟩, hsel]
  simp only
  split
  · exact .inr rfl
  · exact .inl rfl

/-- After it the record holds nothing unlogged, and of the rest it changes the log alone (R476). -/
theorem Chip.logUnlogged_result (b : Chip) :
    b.logUnlogged.aon.unlogged = none ∧ b.logUnlogged.lantern = b.lantern ∧ b.logUnlogged.dev = b.dev := by
  unfold Chip.logUnlogged
  split
  · exact ⟨‹_›, rfl, rfl⟩
  · exact ⟨rfl, rfl, rfl⟩

theorem Chip.imageStart_result {p : Bool} (hs : b.dev.st = .boot) (hf : b.dev.bootFault = false)
    (hr : b.dev.recovery = false) (hl : b.lantern.running = false) (hd : b.domainsReady = true)
    (hsel : b.selectSlot = (b, some p)) :
    b.imageStart.lantern.running = true ∧ b.imageStart.lantern.runB = p ∧ b.imageStart.dev = b.dev ∧
      b.imageStart.aon.unlogged = none := by
  rcases Chip.imageStart_confirmed hs hf hr hl hd hsel with h | h <;> rw [h]
  · obtain ⟨hu, hla, hdev⟩ := (b.runImage p).logUnlogged_result
    rw [hu, hla, hdev]
    exact ⟨rfl, rfl, rfl, rfl⟩
  · exact ⟨rfl, rfl, rfl, rfl⟩

end

/-! ### Entry to REDUCED -/

/-- What entry to REDUCED settles before its change of state, and what follows leaves alone: the power domains, the injections, the
self-test, Belfry, and the rights register of an owner. -/
def Chip.entryView (b : Chip) (o : Nat) : BitVec 20 × Inject × SelfTest × Belfry × Nat :=
  (b.dev.power, b.inject, b.test, b.belfry, b.reg 0x2100 (o + 1))

section
variable (b : Chip) {o : Nat}

theorem Chip.entryView_setReg {i j : Nat} (h : key 0x2100 (o + 1) ≠ key i j) (v : Nat) :
    (b.setReg i j v).entryView o = b.entryView o := by
  simp only [Chip.entryView, Chip.reg_setReg _ _ _ _ _ _ h]
  rfl

section
variable (ho : o ≤ 6)
include ho

/-- The registers of the rights are none of an object's of a higher index. -/
theorem rightsKey_ne {i j : Nat} (hi : 0x2101 ≤ i ∨ i < 0x2100) (hj : j < 256) : key 0x2100 (o + 1) ≠ key i j := by
  unfold key; omega

theorem Chip.entryView_logAs (e : Ev) (x : Bool) : (b.logAs e x).entryView o = b.entryView o := by
  have hr := b.logAs_reg e x 0x2100 (o + 1) (rightsKey_ne ho (by decide) (by decide))
    (rightsKey_ne ho (by decide) (by decide)) (rightsKey_ne ho (by decide) (by decide))
  simp [Chip.entryView, hr]

theorem Chip.entryView_logEvent (e : Ev) : (b.logEvent e).entryView o = b.entryView o := b.entryView_logAs ho e false

theorem Chip.entryView_repairObjects : b.repairObjects.entryView o = b.entryView o := by
  refine foldl_keep (fun b : Chip => b.entryView o) _ (fun b r => ?_) _ _
  rw [Chip.entryView_setReg _ (rightsKey_ne ho (by omega) (by decide)),
    Chip.entryView_setReg _ (rightsKey_ne ho (by omega) (by decide))]

theorem Chip.entryView_changeState (st : DeviceState) (cause : Nat) (x : Bool) :
    (b.changeState st cause x).entryView o = b.entryView o := by
  rw [Chip.changeState, Chip.entryView_logAs _ ho]
  simp [Chip.entryView, Chip.toState, Chip.reg]

theorem Chip.entryView_tryFull : b.tryFull.entryView o = b.entryView o :=
  b.tryFull_keep (fun b => b.entryView o) (fun _ => rfl) (b.entryView_changeState ho _ _ _)

theorem Chip.entryView_alEnter (st : Al) : (b.alEnter st).entryView o = b.entryView o := by
  have hs : ∀ c : Chip, (c.setReg 0x1C32 0x20 0).entryView o = c.entryView o := fun c =>
    c.entryView_setReg (rightsKey_ne ho (by decide) (by decide)) 0
  have he : ∀ (c : Chip) (y : Ecat), ({ c with ecat := y } : Chip).entryView o = c.entryView o := fun _ _ => rfl
  simp only [Chip.alEnter]
  split <;> split <;> simp only [Chip.entryView_logEvent _ ho, he, hs]

theorem Chip.entryView_heldRequest : b.heldRequest.entryView o = b.entryView o := by
  simp only [Chip.heldRequest]
  split
  · rfl
  · split
    · simp only [Chip.alRequest]
      split
      · rfl
      · exact Chip.entryView_alEnter _ ho _
    · rfl

theorem Chip.entryView_setDramOk : b.setDramOk.entryView o = b.entryView o := Chip.entryView_tryFull _ ho

theorem Chip.entryView_setSelftestOk : b.setSelftestOk.entryView o = b.entryView o := Chip.entryView_tryFull _ ho

theorem Chip.entryView_refreshChannel (c : Nat) : (b.refreshChannel c).entryView o = b.entryView o := by
  have h : ∀ j < 256, key 0x2100 (o + 1) ≠ key (0x2610 + c) j := fun j hj => rightsKey_ne ho (by omega) hj
  simp only [Chip.refreshChannel]
  rw [Chip.entryView_setReg _ (h 6 (by decide)), Chip.entryView_setReg _ (h 5 (by decide)),
    Chip.entryView_setReg _ (h 4 (by decide)), Chip.entryView_setReg _ (h 3 (by decide))]

theorem Chip.entryView_mapChannelOut (c cause : Nat) (inj : Bool) :
    (b.mapChannelOut c cause inj).entryView o = b.entryView o := by
  rw [Chip.mapChannelOut, Chip.entryView_logEvent _ ho]
  rfl

end

end

/-- The device is in REDUCED, or with all readiness bits set in FULL (R32). -/
def Chip.Entered (b : Chip) : Prop := b.dev.st = .reduced ∨ b.dev.st = .full ∧ b.readiness = 15

section
variable {b : Chip}

theorem Chip.readiness_eq_15 :
    b.readiness = 15 ↔ b.dev.selftestOk = true ∧ b.dev.timebaseOk = true ∧ b.dev.configOk = true ∧ b.dev.dramOk = true := by
  unfold Chip.readiness flag
  cases b.dev.selftestOk <;> cases b.dev.timebaseOk <;> cases b.dev.configOk <;> cases b.dev.dramOk <;> decide

theorem Chip.Entered.of_plain {c : Chip} (h : b.Entered) (hp : c.dev.plain = b.dev.plain) : c.Entered := by
  have hr : c.readiness = b.readiness := by
    show flag c.dev.plain.selftestOk 3 + flag c.dev.plain.timebaseOk 2 + flag c.dev.plain.configOk 1 +
      flag c.dev.plain.dramOk 0 = _
    rw [hp]
    rfl
  rwa [Chip.Entered, Device.st_of_plain hp, hr]

/-- No readiness bit that is set is cleared by a trial of FULL. -/
theorem Chip.Entered.of_ready {c : Chip} (h : b.Entered) (hs : c.dev.st = b.dev.st)
    (hr : b.readiness = 15 → c.readiness = 15) : c.Entered :=
  h.imp hs.trans fun ⟨hf, h15⟩ => ⟨hs.trans hf, hr h15⟩

theorem Chip.Entered.tryFull (h : b.Entered) : b.tryFull.Entered := by
  rcases h with h | h
  · exact b.tryFull_reduced h
  · rw [Chip.tryFull, if_neg (by simp [h.1])]
    exact .inr h

theorem Chip.Entered.standingReady (h : b.Entered) : b.standingReady.Entered :=
  h.of_ready rfl fun hr => by
    obtain ⟨h1, h2, h3, h4⟩ := Chip.readiness_eq_15.1 hr
    exact Chip.readiness_eq_15.2 ⟨h1, by simp [Chip.standingReady, h2], by simp [Chip.standingReady, h3], h4⟩

theorem Chip.Entered.setDramOk (h : b.Entered) : b.setDramOk.Entered :=
  Chip.Entered.tryFull <| h.standingReady.of_ready rfl fun hr => by
    obtain ⟨h1, h2, h3, -⟩ := Chip.readiness_eq_15.1 hr
    exact Chip.readiness_eq_15.2 ⟨h1, h2, h3, rfl⟩

theorem Chip.Entered.setSelftestOk (h : b.Entered) : b.setSelftestOk.Entered :=
  Chip.Entered.tryFull <| h.standingReady.of_ready rfl fun hr => by
    obtain ⟨-, h2, h3, h4⟩ := Chip.readiness_eq_15.1 hr
    exact Chip.readiness_eq_15.2 ⟨rfl, h2, h3, h4⟩

theorem Chip.Entered.logEvent (h : b.Entered) (e : Ev) : (b.logEvent e).Entered := h.of_plain (b.logEvent_plain e)

theorem Chip.alEnter_plain (b : Chip) (st : Al) : (b.alEnter st).dev.plain = b.dev.plain := by
  simp only [Chip.alEnter]
  split <;> split <;> simp

theorem Chip.Entered.heldRequest (h : b.Entered) : b.heldRequest.Entered := by
  refine h.of_plain ?_
  simp only [Chip.heldRequest]
  split
  · rfl
  · split
    · simp only [Chip.alRequest]
      split
      · rfl
      · exact Chip.alEnter_plain _ _
    · rfl

end

/-! ### Training starts -/

section
variable {P : Chip → Prop} {b : Chip}

/-- What every round of a loop keeps holds after it. -/
theorem Chip.forEach_induct {f : Chip → Nat → Chip} (hf : ∀ c n, P c → P (f c n)) (l : List Nat) (h : P b) :
    P (b.forEach l f) := by
  unfold Chip.forEach
  induction l generalizing b with
  | nil => exact h
  | cons n l ih => exact ih (hf b n h)

/-- The set forms: the hub changes, and then dram_ok is set (R240, R243). -/
theorem Chip.formSet_induct (hh : ∀ c y, P c → P { c with hub := y }) (hd : ∀ c, P c → P c.setDramOk) (h : P b) :
    P b.formSet := by
  unfold Chip.formSet
  extract_lets grp b1 hub b2 per rate hub' b3 b4
  have h1 : P b1 := Chip.forEach_induct (fun c n hp => by
    split
    · exact hh _ _ hp
    · exact hp) _ h
  have h2 : P b2 := hh b1 _ h1
  have h3 : P b3 := hh b2 _ h2
  have h4 : P b4 := by
    unfold b4
    split
    · exact h3
    · exact hh b3 _ h3
  exact hd _ (hh b4 _ h4)

/-- The start of training: the hub changes, the channels that hold a DIMM are refreshed or mapped out, and the set forms at once
where none trains. -/
theorem Chip.startTraining_induct (hh : ∀ c y, P c → P { c with hub := y }) (hd : ∀ c, P c → P c.setDramOk)
    (hr : ∀ c n, P c → P (Chip.refreshChannel c n)) (hm : ∀ c n x, P c → P (Chip.mapChannelOut c n x false))
    (l : List Dimm) (h : P b) : P (b.startTraining l) := by
  unfold Chip.startTraining
  extract_lets hub b1 b2
  have h2 : P b2 := Chip.forEach_induct (fun c n hp => by
    extract_lets c'
    split
    · exact hr _ _ hp
    · exact hm _ _ _ (hr _ _ hp)) _ (hh b _ h)
  split
  · exact Chip.formSet_induct hh hd h2
  · exact h2

end

/-! ### Entry to REDUCED as a whole -/

section
variable {b : Chip} {o : Nat}

theorem Chip.refreshChannel_dev (b : Chip) (c : Nat) : (b.refreshChannel c).dev = b.dev := rfl

theorem Chip.mapChannelOut_plain (b : Chip) (c cause : Nat) (inj : Bool) :
    (b.mapChannelOut c cause inj).dev.plain = b.dev.plain := Chip.logEvent_plain _ _

theorem Chip.startTraining_entered (ho : o ≤ 6) (l : List Dimm) (h : b.Entered) :
    (b.startTraining l).Entered ∧ (b.startTraining l).entryView o = b.entryView o :=
  Chip.startTraining_induct (P := fun c => c.Entered ∧ c.entryView o = b.entryView o)
    (fun _ _ hp => ⟨hp.1.of_plain rfl, hp.2⟩)
    (fun c hp => ⟨hp.1.setDramOk, (c.entryView_setDramOk ho).trans hp.2⟩)
    (fun c n hp => ⟨hp.1.of_plain (congrArg Device.plain (c.refreshChannel_dev n)),
      (c.entryView_refreshChannel ho n).trans hp.2⟩)
    (fun c n x hp => ⟨hp.1.of_plain (c.mapChannelOut_plain n x false),
      (c.entryView_mapChannelOut ho n x false).trans hp.2⟩)
    l ⟨h, rfl⟩

theorem Chip.readyAtEntry_entered (ho : o ≤ 6) (dimms : List Dimm) (skip : Nat) (h : b.Entered) :
    (b.readyAtEntry dimms skip).Entered ∧ (b.readyAtEntry dimms skip).entryView o = b.entryView o := by
  simp only [Chip.readyAtEntry]
  split
  · obtain ⟨he, hv⟩ := Chip.startTraining_entered ho dimms
      (h.standingReady.setSelftestOk.logEvent { code := 0x41000002, sev := 1 })
    exact ⟨he, hv.trans ((Chip.entryView_logEvent _ ho _).trans (Chip.entryView_setSelftestOk _ ho))⟩
  · exact Chip.startTraining_entered ho dimms h.standingReady

/-- What entry to REDUCED has settled before its change of state (R172, R297, R396, R413, R486). -/
def Chip.enteringReduced (b : Chip) (vcco : List Nat) : Chip :=
  ((b.clearSession.powerOn 19).applyPolicy).unitsAtEntry vcco b.skipCheck

theorem Chip.enterReduced_boot (hs : b.dev.st = .boot) (hl : b.lantern.running = true) (hf : b.dev.bootFault = false)
    (hd : b.domainsReady = true) (vcco : List Nat) (dimms : List Dimm) :
    b.enterReduced vcco dimms =
      ((b.enteringReduced vcco).repairObjects.changeState .reduced 0 false).heldRequest.readyAtEntry dimms b.skipCheck := by
  rw [Chip.enterReduced, if_pos ⟨hs, hl, hf, hd⟩, Chip.enteringReduced]

theorem Chip.enterReduced_result (hs : b.dev.st = .boot) (hl : b.lantern.running = true) (hf : b.dev.bootFault = false)
    (hd : b.domainsReady = true) (vcco : List Nat) (dimms : List Dimm) :
    (b.enterReduced vcco dimms).Entered ∧
      ∀ o ≤ 6, (b.enterReduced vcco dimms).entryView o = (b.enteringReduced vcco).entryView o := by
  rw [Chip.enterReduced_boot hs hl hf hd]
  generalize b.enteringReduced vcco = c
  have he : (c.repairObjects.changeState .reduced 0 false).heldRequest.Entered :=
    Chip.Entered.heldRequest (.inl (Chip.changeState_st _ _ _ _))
  refine ⟨(Chip.readyAtEntry_entered (o := 0) (by decide) dimms _ he).1, fun o ho => ?_⟩
  rw [(Chip.readyAtEntry_entered ho dimms _ he).2, Chip.entryView_heldRequest _ ho, Chip.entryView_changeState _ ho,
    Chip.entryView_repairObjects _ ho]

/-- The rights registers take the policy of the running image (R297, R412). -/
theorem Chip.applyPolicy_reg (h1 : 1 ≤ o) (h6 : o ≤ 6) :
    b.applyPolicy.reg 0x2100 (o + 1) = b.runningSlot.policy.getD o 0 % 16 := by
  have hk : ∀ (c : Chip) (i j v : Nat), (c.setReg i j v).runningSlot = c.runningSlot := fun _ _ _ _ => rfl
  have hm : o ∈ [1, 2, 3, 4, 5, 6] := by simp; omega
  simp only [Chip.applyPolicy, Chip.forEach, List.foldl_cons, List.foldl_nil, hk]
  fin_cases hm <;> simp [Chip.reg, key]

theorem Chip.applyPolicy_dev (b : Chip) : b.applyPolicy.dev = b.dev := Chip.forEach_keep Chip.dev _ (by intro c o; rfl) _ _
theorem Chip.applyPolicy_belfry (b : Chip) : b.applyPolicy.belfry = b.belfry :=
  Chip.forEach_keep Chip.belfry _ (by intro c o; rfl) _ _

theorem Chip.rights_of_reg (h1 : 1 ≤ o) (h6 : o ≤ 6) : b.rights o = b.reg 0x2100 (o + 1) := by
  rw [Chip.rights, if_neg (by omega), if_neg (by omega)]

theorem Chip.enteringReduced_test (b : Chip) (vcco : List Nat) :
    (b.enteringReduced vcco).test.st = (if b.skipCheck = 0 then 2 else 1) ∧
      (b.enteringReduced vcco).test.recordCheck = b.skipCheck := ⟨rfl, rfl⟩

theorem Chip.enteringReduced_inject (b : Chip) (vcco : List Nat) : (b.enteringReduced vcco).inject = {} := rfl

theorem Chip.enteringReduced_belfry (b : Chip) (vcco : List Nat) : (b.enteringReduced vcco).belfry = b.belfry :=
  Chip.applyPolicy_belfry (b.clearSession.powerOn 19)

theorem Chip.enteringReduced_powered (b : Chip) (vcco : List Nat) : (b.enteringReduced vcco).powered 19 = true := by
  have hp : (b.enteringReduced vcco).dev = (b.clearSession.powerOn 19).dev :=
    Chip.applyPolicy_dev (b.clearSession.powerOn 19)
  rw [Chip.powered_congr (congrArg Device.power hp), Chip.powerOn_powered]
  simp

theorem Chip.enteringReduced_reg (h1 : 1 ≤ o) (h6 : o ≤ 6) (vcco : List Nat) :
    (b.enteringReduced vcco).reg 0x2100 (o + 1) = b.runningSlot.policy.getD o 0 % 16 :=
  Chip.applyPolicy_reg (b := b.clearSession.powerOn 19) h1 h6

end

/-- Settles O3: a domain, its fault and the image are one equation each; entry to REDUCED settles its view first, and the change of
state and what follows keep that. -/
theorem bootRunsToReduced : Obligations.BootRunsToReduced := by
  unfold Obligations.BootRunsToReduced
  refine ⟨?_, ?_, ?_, ?_⟩
  · intro s d hs hf hn hm hl
    have hd := lt_of_nextDomain hn
    have hon : (s.toChip.powerOn d).powered d = true := by simp [Chip.powerOn_powered, hd]
    have hne : ∀ n, n ≠ d → (s.toChip.powerOn d).powered n = s.powered n := fun n hn => by
      simp [Chip.powerOn_powered, hn]
    refine ⟨s.on (s.toChip.domainGood d), rfl, ?_⟩
    rw [Chip.domainGood_next hs hf hn (Chip.mayPower_of hm) hl]
    have hframe : OnlyTouches [.dev, .belfry] s (s.on (s.toChip.powerOn d)) :=
      (OnlyTouches.refl _ s).extend fun x hx => Area.same_powerOn (by rintro rfl; simp at hx) _ _
    split
    · exact ⟨hon, hne, fun _ hr => Chip.powerOn_clockState_refClk hr d, fun _ => rfl, hs,
        hframe.extend fun x hx => Area.same_belfry (by rintro rfl; simp at hx) _ _⟩
    · exact ⟨hon, hne, fun _ hr => Chip.powerOn_clockState_refClk hr d, fun h => absurd h ‹_›, hs, hframe⟩
  · intro s d hs hf hn hm hl
    refine ⟨s.on (s.toChip.domainTimeout d), rfl, ?_⟩
    rw [Chip.domainTimeout_next hs hf hn (Chip.mayPower_of hm) hl]
    exact ⟨(Chip.bootHalt_st _ _ _).trans hs, Chip.bootHalt_bootFault _ _ _, Chip.bootHalt_faultCode _ _ _,
      Chip.bootHalt_power _ _ _, (OnlyTouches.refl _ s).extend fun x hx => Area.same_bootHalt hx _ _ _⟩
  · intro s p hs hf hr hl hp hn ht hc hcand
    exact ⟨s.on s.toChip.imageStart, rfl, Chip.imageStart_result hs hf hr hl (Chip.domainsReady_of hp)
      (Chip.selectSlot_confirmed hn ht hc hcand)⟩
  · intro s vcco dimms hs hl hf hp
    obtain ⟨he, hv⟩ := Chip.enterReduced_result hs hl hf (Chip.domainsReady_of hp) vcco dimms
    refine ⟨s.on (s.toChip.enterReduced vcco dimms), rfl, ?_⟩
    generalize s.toChip.enterReduced vcco dimms = c at he hv
    have h0 := hv 0 (by decide)
    simp only [Chip.entryView, Prod.mk.injEq] at h0
    obtain ⟨hpow, hinj, htest, hbel, -⟩ := h0
    obtain ⟨hst, hcheck⟩ := s.enteringReduced_test vcco
    refine ⟨?_, ?_, ?_, ?_, he, fun o h1 h6 => ?_, ?_⟩ <;> rw [State.on_toChip]
    · rw [Chip.powered_congr hpow, Chip.enteringReduced_powered]
    · rw [hinj, Chip.enteringReduced_inject]
    · rw [htest, hst]
    · rw [htest, hcheck]
    · have hv := hv o h6
      simp only [Chip.entryView, Prod.mk.injEq] at hv
      obtain ⟨-, -, -, -, hreg⟩ := hv
      rw [Chip.rights_of_reg h1 h6, hreg, Chip.enteringReduced_reg h1 h6]
    · rw [hbel, Chip.enteringReduced_belfry]

end Sys2Proof.Machine

namespace Sys2Proof.Machine
open Sys2Proof

/-! ### Registers that no entry counts in -/

/-- No count of entries or of injections is kept in entry i:j, so that no entry of the log changes it. -/
def QuietReg (i j : Nat) : Prop :=
  key i j ∉ [key 0x6100 4, key 0x2010 7, key 0x2B00 6, key 0x2DFF 3, key 0x2DFF 4]

section
variable {b : Chip} {i j : Nat}

theorem Chip.logAs_reg_quiet (h : QuietReg i j) (e : Ev) (x : Bool) : (b.logAs e x).reg i j = b.reg i j := by
  simp only [QuietReg, List.mem_cons, List.not_mem_nil, or_false, not_or] at h
  exact b.logAs_reg e x i j h.1 h.2.1 h.2.2.1

theorem Chip.logEvent_reg_quiet (h : QuietReg i j) (e : Ev) : (b.logEvent e).reg i j = b.reg i j :=
  Chip.logAs_reg_quiet h e false

theorem Chip.logInj_reg_quiet (h : QuietReg i j) (e : Ev) : (b.logInj e).reg i j = b.reg i j := by
  simp only [Chip.logInj]
  split
  · rw [Chip.logEvent_reg_quiet h]
    simp only [QuietReg, List.mem_cons, List.not_mem_nil, or_false, not_or] at h
    obtain ⟨-, -, -, h3, h4⟩ := h
    rw [Chip.injected, Chip.reg_setReg _ _ _ _ _ _ h4, Chip.count, Chip.reg_setReg _ _ _ _ _ _ h3]
  · exact Chip.logEvent_reg_quiet h e

theorem Chip.changeState_reg_quiet (h : QuietReg i j) (st : DeviceState) (cause : Nat) (x : Bool) :
    (b.changeState st cause x).reg i j = b.reg i j := by
  rw [Chip.changeState, Chip.logAs_reg_quiet h]
  simp [Chip.toState, Chip.reg]

theorem Chip.setTimebaseOk_reg_quiet (h : QuietReg i j) : b.setTimebaseOk.reg i j = b.reg i j := by
  simp only [Chip.setTimebaseOk]
  split
  · exact Chip.tryFull_keep _ (fun c => c.reg i j) (fun _ => rfl) (Chip.changeState_reg_quiet h _ _ _)
  · rfl

@[simp] theorem Chip.setTimebaseOk_belfry (b : Chip) : b.setTimebaseOk.belfry = b.belfry := by
  simp only [Chip.setTimebaseOk]
  split
  · exact Chip.tryFull_keep _ Chip.belfry (fun _ => rfl) (by simp [Chip.changeState, Chip.toState])
  · rfl

end

/-! ### A step of the count -/

section
variable (b : Chip) (n : Nat)

/-- The regions whose slots are being checked. -/
def Chip.liveRegions : List Nat := (List.range 32).filter fun r => (b.region r).checkedAt.isSome

/-- The count is n, and the marks have moved with it (R42). -/
def Chip.movedTo : Chip :=
  { b.moveMarks b.now n with belfry := { (b.moveMarks b.now n).belfry with tick := n } }

/-- The islands count on from the cycles that they are in (R43). -/
def Chip.rebaseIsles (cycles : List (Nat × Nat)) : Chip := cycles.foldl (fun b x => b.rebaseIsle x.1 x.2) b

/-- The count steps to n: the marks move, and the islands and the checks of slots go on from there (R42, R43). -/
def Chip.stepCount : Chip :=
  let c := b.forEach b.liveRegions Chip.stopSlots
  ((c.movedTo n).rebaseIsles ((List.range 32).map fun r => (r, (c.moveMarks c.now n).isle r))).forEach b.liveRegions
    Chip.startSlots

/-- The banks take the queue epoch of tick n (R43, R57). -/
def Chip.bankEpochs : Chip :=
  b.forEach (List.range 24) fun b k => b.modBank k fun q => { q with qeBase := n / 2 ^ 22 }

/-- Every vane flushes and takes its bank's queue epoch (R43). -/
def Chip.clearVanes : Chip :=
  { b with vanes := b.vanes.map fun (x : Nat × Vane) => (x.1, (x.2.clear (b.isle (bankRegion (tpBank x.1)))).noEpoch) }

/-- The SUSPENDED contracts break (R95). -/
def Chip.breakSuspended : Chip :=
  b.forEach (List.range 8) fun b p => if (b.part p).status = .suspended then b.setContract p .broken else b

/-- The step before its entry. -/
def Chip.stepped : Chip := (((b.stepCount n).bankEpochs n).clearVanes).breakSuspended

theorem Chip.stepTo_eq (inj : Bool) :
    b.stepTo n inj = (b.stepped (n % 2 ^ 64)).logInj ((b.stepped (n % 2 ^ 64)).belfryEv 4 1 inj) := rfl

theorem Chip.rebaseIsles_keep {β : Type} (g : Chip → β) (h : ∀ c r k, g (Chip.rebaseIsle c r k) = g c)
    (l : List (Nat × Nat)) : g (b.rebaseIsles l) = g b := by
  unfold Chip.rebaseIsles
  exact foldl_keep g _ (fun c x => h c x.1 x.2) l b

theorem Chip.movedTo_dict : (b.movedTo n).dict = b.dict := rfl

theorem Chip.stepCount_dict : (b.stepCount n).dict = b.dict := by
  rw [Chip.stepCount, Chip.forEach_keep Chip.dict Chip.startSlots Chip.startSlots_dict,
    Chip.rebaseIsles_keep _ Chip.dict (fun _ _ _ => rfl), Chip.movedTo_dict]
  exact Chip.forEach_keep Chip.dict Chip.stopSlots (fun _ _ => rfl) _ _

theorem Chip.movedTo_belfry_congr {c : Chip} (h : c.belfry = b.belfry) : (c.movedTo n).belfry = (b.movedTo n).belfry := by
  simp only [Chip.movedTo, Chip.moveMarks, Chip.now, h]

theorem Chip.stepCount_belfry : (b.stepCount n).belfry = (b.movedTo n).belfry := by
  rw [Chip.stepCount, Chip.forEach_keep Chip.belfry Chip.startSlots Chip.startSlots_belfry,
    Chip.rebaseIsles_keep _ Chip.belfry (fun _ _ _ => rfl)]
  exact Chip.movedTo_belfry_congr _ _ (Chip.forEach_keep Chip.belfry Chip.stopSlots (fun _ _ => rfl) _ _)

theorem Chip.breakSuspended_keep {β : Type} (g : Chip → β) (h : ∀ c p st, g (Chip.setContract c p st) = g c) :
    g b.breakSuspended = g b :=
  Chip.forEach_keep g _ (fun c p => by rw [apply_ite g, h, ite_self]) _ _

theorem Chip.bankEpochs_dict : (b.bankEpochs n).dict = b.dict := Chip.forEach_keep Chip.dict _ (by intro c k; rfl) _ _
theorem Chip.bankEpochs_belfry : (b.bankEpochs n).belfry = b.belfry :=
  Chip.forEach_keep Chip.belfry _ (by intro c k; rfl) _ _
theorem Chip.clearVanes_dict : b.clearVanes.dict = b.dict := rfl
theorem Chip.clearVanes_belfry : b.clearVanes.belfry = b.belfry := rfl
theorem Chip.clearVanes_banks : b.clearVanes.banks = b.banks := rfl

theorem Chip.stepped_dict : (b.stepped n).dict = b.dict := by
  rw [Chip.stepped, Chip.breakSuspended_keep _ Chip.dict (by simp), Chip.clearVanes_dict, Chip.bankEpochs_dict,
    Chip.stepCount_dict]

theorem Chip.stepped_belfry : (b.stepped n).belfry = (b.movedTo n).belfry := by
  rw [Chip.stepped, Chip.breakSuspended_keep _ Chip.belfry (by simp), Chip.clearVanes_belfry, Chip.bankEpochs_belfry,
    Chip.stepCount_belfry]

theorem Chip.stepTo_belfry (inj : Bool) :
    (b.stepTo n inj).belfry = (b.movedTo (n % 2 ^ 64)).belfry := by
  rw [Chip.stepTo_eq, Chip.logInj_belfry, Chip.stepped_belfry]

theorem Chip.stepTo_reg_quiet {i j : Nat} (h : QuietReg i j) (inj : Bool) : (b.stepTo n inj).reg i j = b.reg i j := by
  rw [Chip.stepTo_eq, Chip.logInj_reg_quiet h, Chip.reg_congr (b.stepped_dict _)]

end

/-! ### A measurement -/

section
variable {b : Chip}

/-- Belfry after a measurement of offset x over the interval T by the control law of R510. -/
def Belfry.disciplined (y : Belfry) (x : Int) (T : Nat) : Belfry :=
  let i := clampInt (y.term - Int.tdiv (x * 1000000000) (16 * (T : Int))) (-100000000) 100000000
  { y with term := i, corr := clampInt (i - Int.tdiv (x * 1000000000) (4 * (T : Int))) (-100000000) 100000000 }

/-- Belfry as a measurement notes its offset. -/
def Belfry.measured (y : Belfry) (x : Int) : Belfry := { y with offset := x, missed := 0, fresh := false }

/-- The device after a measurement in LOCKED: Belfry alone is another. -/
def Chip.disciplined (b : Chip) (x : Int) (T : Nat) : Chip :=
  { b with belfry := (b.belfry.measured x).disciplined x T }

@[simp] theorem Chip.disciplined_belfry (b : Chip) (x : Int) (T : Nat) :
    (b.disciplined x T).belfry = (b.belfry.measured x).disciplined x T := rfl

theorem Chip.disciplined_reg (b : Chip) (x : Int) (T i j : Nat) : (b.disciplined x T).reg i j = b.reg i j := rfl

theorem Chip.controlLaw_plain (hf : b.belfry.frozenCorr = none) (hr : b.belfry.returnFrom = none) (x : Int) (T : Nat) :
    b.controlLaw x T = { b with belfry := b.belfry.disciplined x T } := by
  simp [Chip.controlLaw, Chip.frozen, Chip.termNow, Belfry.disciplined, hf, hr]

/-- In LOCKED a measurement within ten times the threshold disciplines the correction, and that is all (R39, R510). -/
theorem Chip.measure_steady {x : Int} (hs : b.belfry.st = .locked) (hr : b.belfry.returnFrom = none)
    (hf : b.belfry.frozenCorr = none) (hn : b.belfry.fresh = false) (hx : x.natAbs ≤ 10 * b.threshold)
    (T : Chip → Nat) :
    b.measure x T = b.disciplined x (T { b with belfry := b.belfry.measured x }) := by
  have he : b.entersLocking x = false := by simp [Chip.entersLocking, hs, hn, hx]
  have hg : ∀ c : Chip, c.belfry.st = .locked → c.countGood x = c := fun c h => if_pos (by simp [h])
  unfold Chip.measure
  extract_lets enters old b1 law
  rw [if_neg (by simp [enters, he])]
  show (b1.countGood x).controlLaw x (T b1) = _
  rw [hg b1 hs, Chip.controlLaw_plain (b := b1) hf hr]
  rfl

/-- What the parts of a measurement keep, a measurement keeps: changes of Belfry that leave offset and missed edges alone, entries,
timebase_ok, and a step. -/
theorem Chip.measure_induct {P : Chip → Prop} {x : Int}
    (hy : ∀ (c : Chip) (y : Belfry), y.offset = c.belfry.offset → y.missed = c.belfry.missed → P c →
      P { c with belfry := y })
    (hl : ∀ (c : Chip) (e : Ev), P c → P (c.logEvent e)) (hi : ∀ (c : Chip) (e : Ev), P c → P (c.logInj e))
    (ht : ∀ c : Chip, P c → P c.setTimebaseOk) (hs : ∀ (c : Chip) (n : Nat) (inj : Bool), P c → P (c.stepTo n inj))
    (h : P { b with belfry := b.belfry.measured x }) (T : Chip → Nat) : P (b.measure x T) := by
  have hlaw : ∀ (c : Chip) (n : Nat), P c → P ((c.countGood x).controlLaw x n) := by
    intro c n hc
    have hg : P (c.countGood x) := by
      unfold Chip.countGood
      split
      · exact hc
      · extract_lets g old c1 old' c2
        have h1 : P c1 := hy c _ rfl rfl hc
        split
        · exact ht _ (hl _ _ (hy c1 _ rfl rfl h1))
        · exact h1
    unfold Chip.controlLaw
    split
    · exact hg
    · exact hy _ _ rfl rfl hg
  unfold Chip.measure
  extract_lets enters old b1 law old' b2
  have h2 : P b2 := hy b1 _ rfl rfl h
  split
  · split
    · split
      · exact hlaw _ _ (hi _ _ h2)
      · exact hs _ _ _ h2
    · exact hlaw _ _ h2
  · exact hlaw _ _ h

/-- Whatever it leads to, a measurement records its offset, and no edge counts as missed (R45). -/
theorem Chip.measure_offset (b : Chip) (x : Int) (T : Chip → Nat) :
    (b.measure x T).belfry.offset = x ∧ (b.measure x T).belfry.missed = 0 :=
  Chip.measure_induct (P := fun c => c.belfry.offset = x ∧ c.belfry.missed = 0)
    (fun _ _ ho hm hp => ⟨ho.trans hp.1, hm.trans hp.2⟩) (fun c e hp => by rwa [c.logEvent_belfry e])
    (fun c e hp => by rwa [c.logInj_belfry e]) (fun c hp => by rwa [c.setTimebaseOk_belfry])
    (fun c n inj hp => by rwa [c.stepTo_belfry n inj]) ⟨rfl, rfl⟩ T

theorem Chip.measure_reg_quiet {i j : Nat} (h : QuietReg i j) (x : Int) (T : Chip → Nat) :
    (b.measure x T).reg i j = b.reg i j :=
  Chip.measure_induct (P := fun c => c.reg i j = b.reg i j) (fun _ _ _ _ hp => hp)
    (fun _ e hp => (Chip.logEvent_reg_quiet h e).trans hp) (fun _ e hp => (Chip.logInj_reg_quiet h e).trans hp)
    (fun _ hp => (Chip.setTimebaseOk_reg_quiet h).trans hp) (fun c n inj hp => (c.stepTo_reg_quiet n h inj).trans hp)
    rfl T

/-- A measurement that enters LOCKING more than 1 µs off, with step policy 0 and no contract ARMED, steps the count (R42). -/
theorem Chip.measure_step {x : Int} (he : b.entersLocking x = true) (hx : 1000000 < x.natAbs)
    (hp : b.reg 0x2301 5 = 0) (ha : b.anyArmed = false) (hf : b.belfry.frozenCorr = none) (T : Chip → Nat) :
    b.measure x T = ({ b with belfry := { b.belfry.measured x with
      st := .locking, good := 0, corr := b.corrNow, term := b.termNow, returnFrom := none, lastCorr := none } }).stepTo
        ((b.now : Int) - Int.tdiv x 1000).toNat b.belfryInj := by
  unfold Chip.measure
  extract_lets enters old b1 law old' b2
  have hw : b2.wantsStep x = true := by
    rw [Chip.wantsStep, show b2.reg 0x2301 5 = 0 from hp]
    simp [hx]
  have hn : (b2.anyArmed || b2.frozen) = false := by
    rw [show b2.anyArmed = false from ha, show b2.frozen = false by simp [Chip.frozen, b2, b1, old, old', hf]]
    rfl
  rw [if_pos he, if_pos hw, if_neg (by simp [hn])]
  rfl

end

end Sys2Proof.Machine

namespace Sys2Proof.Machine
open Sys2Proof

/-! ### Edges of PPS_IN -/

section
variable {b : Chip} {fine : Nat}

/-- The device as an edge of PPS_IN at fine finds it: its instant stands in 0x2303:01 (R76). -/
def Chip.ppsSeen (b : Chip) (fine : Nat) : Chip :=
  (b.upTo (fine / 64)).setReg 0x2303 1 (b.ppsInstant fine % 2 ^ 64)

theorem Chip.ppsSeen_reg (b : Chip) (fine : Nat) {i j : Nat} (h : key i j ≠ key 0x2303 1) :
    (b.ppsSeen fine).reg i j = b.reg i j := Chip.reg_setReg _ _ _ _ _ _ h

theorem Area.same_refl (x : Area) (b : Chip) : x.same b b := by cases x <;> rfl

theorem Area.same_setReg {x : Area} (h : x ≠ .dict) (b : Chip) (i j v : Nat) : x.same b (b.setReg i j v) :=
  Area.same_dict h _ _

theorem Area.same_logInj {x : Area} (h : x ∉ logAreas) (b : Chip) (e : Ev) : x.same b (b.logInj e) := by
  have hd : x ≠ .dict := by rintro rfl; exact h (by decide)
  unfold Chip.logInj
  refine Area.same.trans ?_ (Area.same_logEvent h _ _)
  split
  · exact (Area.same_count hd _ _ _).trans (Area.same_setReg hd _ _ _ _)
  · cases x <;> rfl

/-- An edge without a source 2 to measure is seen alone (R38, R78). -/
theorem Chip.ppsEdge_seen (h : b.source ≠ 2 ∨ b.sourceLost = true) : b.ppsEdge fine = b.ppsSeen fine := by
  have hs : (b.ppsSeen fine).source = b.source := b.ppsSeen_reg fine (by decide)
  have hl : (b.ppsSeen fine).sourceLost = b.sourceLost := by
    rw [Chip.sourceLost, b.ppsSeen_reg fine (by decide), Chip.sourceLost]
  unfold Chip.ppsEdge
  exact if_pos (show (b.ppsSeen fine).source ≠ 2 ∨ (b.ppsSeen fine).sourceLost = true by rwa [hs, hl])

/-- An edge outside its window makes its entry (R38). -/
theorem Chip.ppsEdge_outside (hs : b.source = 2) (hl : b.sourceLost = false)
    (ho : b.ppsOutside (b.ppsInstant fine) = true) :
    b.ppsEdge fine = (b.ppsSeen fine).logInj
      { (b.ppsSeen fine).belfryEv 6 3 false with inj := (b.ppsSeen fine).reg 0x2D60 2 != 0 } := by
  have hs' : (b.ppsSeen fine).source = 2 := (b.ppsSeen_reg fine (by decide)).trans hs
  have hl' : (b.ppsSeen fine).sourceLost = false := by
    rw [Chip.sourceLost, b.ppsSeen_reg fine (by decide)]; exact hl
  unfold Chip.ppsEdge
  exact (if_neg (show ¬((b.ppsSeen fine).source ≠ 2 ∨ (b.ppsSeen fine).sourceLost = true) by simp [hs', hl'])).trans
    (if_pos ho)

/-- The designated time d is v from here on, where the edges have one (R38). -/
def Chip.designate (b : Chip) (d v : Nat) : Chip := if d = 0 then b else b.setReg 0x2301 4 v

theorem Chip.designate_belfry (b : Chip) (d v : Nat) : (b.designate d v).belfry = b.belfry := by
  unfold Chip.designate
  split <;> rfl

theorem Chip.designate_reg (b : Chip) (d v : Nat) {i j : Nat} (h : key i j ≠ key 0x2301 4) :
    (b.designate d v).reg i j = b.reg i j := by
  unfold Chip.designate
  split
  · rfl
  · exact Chip.reg_setReg _ _ _ _ _ _ h

theorem Chip.designate_self {d : Nat} (h : d ≠ 0) (b : Chip) (v : Nat) : (b.designate d v).reg 0x2301 4 = v := by
  rw [Chip.designate, if_neg h]
  exact Chip.reg_setReg_self _ _ _ _

theorem Area.same_designate {x : Area} (hd : x ≠ .dict) (b : Chip) (d v : Nat) : x.same b (b.designate d v) := by
  unfold Chip.designate
  split
  · exact Area.same_refl _ _
  · exact Area.same_setReg hd _ _ _ _

/-- The window of the next edge is about w (R38). -/
def Chip.ppsNext (b : Chip) (w : Nat) : Chip := { b with belfry := { b.belfry with ppsWin := some w } }

theorem Chip.ppsNext_belfry (b : Chip) (w : Nat) : (b.ppsNext w).belfry = { b.belfry with ppsWin := some w } := rfl
theorem Chip.ppsNext_reg (b : Chip) (w i j : Nat) : (b.ppsNext w).reg i j = b.reg i j := rfl

/-- The device as an edge inside its window leaves it to the measurement: the designated time advances, and the next edge has its
window (R38). -/
def Chip.ppsTaken (b : Chip) (fine : Nat) : Chip :=
  ((b.ppsSeen fine).designate (b.reg 0x2301 4) ((b.reg 0x2301 4 + 1000000000) % 2 ^ 64)).ppsNext (b.ppsInstant fine + ppsSecond)

/-- The time against which the edge is measured: its designated tick, or the nearest second (R38). -/
def Chip.ppsTime (b : Chip) (fine : Nat) : Nat :=
  if b.reg 0x2301 4 = 0 then nearestSecond (b.ppsInstant fine / 64) else b.reg 0x2301 4

theorem Chip.ppsEdge_inside (hs : b.source = 2) (hl : b.sourceLost = false)
    (ho : b.ppsOutside (b.ppsInstant fine) = false) :
    b.ppsEdge fine =
      (b.ppsTaken fine).measure (edgeOffset (b.ppsInstant fine) (b.ppsTime fine)) fun _ => 1000000000 := by
  have hs' : (b.ppsSeen fine).source = 2 := (b.ppsSeen_reg fine (by decide)).trans hs
  have hl' : (b.ppsSeen fine).sourceLost = false := by
    rw [Chip.sourceLost, b.ppsSeen_reg fine (by decide)]; exact hl
  have hd : (b.ppsSeen fine).reg 0x2301 4 = b.reg 0x2301 4 := b.ppsSeen_reg fine (by decide)
  have ho' : ¬ (b.ppsSeen fine).ppsOutside (b.ppsInstant fine) = true := by
    rw [Bool.not_eq_true]; exact ho
  rw [Chip.ppsTaken, Chip.ppsTime, ← hd]
  unfold Chip.ppsEdge
  exact (if_neg (show ¬((b.ppsSeen fine).source ≠ 2 ∨ (b.ppsSeen fine).sourceLost = true) by simp [hs', hl'])).trans
    (if_neg ho')

theorem Chip.ppsSeen_belfry (b : Chip) (fine : Nat) :
    (b.ppsSeen fine).belfry = { b.belfry with tick := max b.now (fine / 64) % 2 ^ 64 } := rfl

theorem Chip.ppsTaken_belfry (b : Chip) (fine : Nat) :
    (b.ppsTaken fine).belfry =
      { b.belfry with tick := max b.now (fine / 64) % 2 ^ 64, ppsWin := some (b.ppsInstant fine + ppsSecond) } := by
  rw [Chip.ppsTaken, Chip.ppsNext_belfry, Chip.designate_belfry, Chip.ppsSeen_belfry]

theorem Chip.ppsTaken_reg (b : Chip) (fine : Nat) {i j : Nat} (h1 : key i j ≠ key 0x2303 1)
    (h2 : key i j ≠ key 0x2301 4) : (b.ppsTaken fine).reg i j = b.reg i j := by
  rw [Chip.ppsTaken, Chip.ppsNext_reg, Chip.designate_reg _ _ _ h2, b.ppsSeen_reg fine h1]

/-- The instant of the edge stands in 0x2303:01 whatever becomes of it. -/
theorem Chip.ppsSeen_instant (b : Chip) (fine : Nat) : (b.ppsSeen fine).reg 0x2303 1 = b.ppsInstant fine % 2 ^ 64 :=
  Chip.reg_setReg_self _ _ _ _

theorem Chip.ppsTaken_instant (b : Chip) (fine : Nat) : (b.ppsTaken fine).reg 0x2303 1 = b.ppsInstant fine % 2 ^ 64 := by
  rw [Chip.ppsTaken, Chip.ppsNext_reg, Chip.designate_reg _ _ _ (by decide), b.ppsSeen_instant fine]

theorem Chip.ppsTaken_designated (h : b.reg 0x2301 4 ≠ 0) (fine : Nat) :
    (b.ppsTaken fine).reg 0x2301 4 = (b.reg 0x2301 4 + 1000000000) % 2 ^ 64 := by
  rw [Chip.ppsTaken, Chip.ppsNext_reg, Chip.designate_self h]

theorem Area.same_ppsSeen {x : Area} (hb : x ≠ .belfry) (hd : x ≠ .dict) (b : Chip) (fine : Nat) :
    x.same b (b.ppsSeen fine) := (Area.same_upTo hb _ _).trans (Area.same_setReg hd _ _ _ _)

theorem Area.same_ppsTaken {x : Area} (hb : x ≠ .belfry) (hd : x ≠ .dict) (b : Chip) (fine : Nat) :
    x.same b (b.ppsTaken fine) := 
  ((Area.same_ppsSeen hb hd b fine).trans (Area.same_designate hd _ _ _)).trans (Area.same_belfry hb _ _)

/-- With no displacement injected the measured instant is the edge's own (R78). -/
theorem Chip.ppsInstant_plain (h : b.reg 0x2D60 2 = 0) (fine : Nat) : b.ppsInstant fine = fine := by
  simp [Chip.ppsInstant, h, signed]

end

/-! ### Corrections of source 3 -/

section
variable {b : Chip} {n : Nat}

/-- The interval of a correction: since the previous one, or 1 s for the first (R510). -/
def Chip.corrInterval (now : Int) (b : Chip) : Nat :=
  match b.belfry.lastCorr with
  | some t => max 1 (min 4000000000 (now - t).toNat)
  | none => 1000000000

/-- The measurement that a new serial makes of source 3 (R45). -/
def Chip.corrected (b : Chip) (n : Nat) : Chip :=
  (b.setReg 0x2302 1 n).measure (signed 64 (b.reg 0x2302 2)) (Chip.corrInterval b.now)

theorem Chip.correction_same (h : b.reg 0x2302 1 = n) : b.correction n = b := if_pos h

theorem Chip.correction_stored (h : b.reg 0x2302 1 ≠ n) (hs : b.source ≠ 3 ∨ b.sourceLost = true) :
    b.correction n = b.setReg 0x2302 1 n := by
  have hs' : (b.setReg 0x2302 1 n).source = b.source := Chip.reg_setReg _ _ _ _ _ _ (by decide)
  have hl : (b.setReg 0x2302 1 n).sourceLost = b.sourceLost := by
    rw [Chip.sourceLost, Chip.reg_setReg _ _ _ _ _ _ (by decide), Chip.sourceLost]
  rw [Chip.correction, if_neg h]
  exact if_pos (by rwa [hs', hl])

theorem Chip.correction_measured (h : b.reg 0x2302 1 ≠ n) (hs : b.source = 3) (hl : b.sourceLost = false) :
    b.correction n = { b.corrected n with belfry := { (b.corrected n).belfry with
      lastCorr := if (b.corrected n).now = (b.now : Int) then some (b.now : Int) else none } } := by
  have hs' : (b.setReg 0x2302 1 n).source = 3 := (Chip.reg_setReg _ _ _ _ _ _ (by decide)).trans hs
  have hl' : (b.setReg 0x2302 1 n).sourceLost = false := by
    rw [Chip.sourceLost, Chip.reg_setReg _ _ _ _ _ _ (by decide)]; exact hl
  have hx : (b.setReg 0x2302 1 n).reg 0x2302 2 = b.reg 0x2302 2 := Chip.reg_setReg _ _ _ _ _ _ (by decide)
  rw [Chip.correction, if_neg h, Chip.corrected, ← hx]
  exact if_neg (by simp [hs', hl'])

end

end Sys2Proof.Machine

namespace Sys2Proof.Machine
open Sys2Proof

/-! ### The control law -/

theorem Chip.sourceLost_eq_false {b : Chip} (h : b.reg 0x2D60 1 ≠ 1) : b.sourceLost = false := by
  simp [Chip.sourceLost, h]

section
variable {b : Chip} {x : Int}

/-- Belfry after a steady measurement, as R510 words it. -/
theorem Chip.disciplined_law (hs : b.belfry.st = .locked) (x : Int) (T : Nat) :
    let z := (b.disciplined x T).belfry
    z.offset = x ∧ z.st = .locked ∧ z.missed = 0 ∧
      z.term = clampInt (b.belfry.term - Int.tdiv (x * 1000000000) (16 * (T : Int))) (-100000000) 100000000 ∧
      z.corr = clampInt (z.term - Int.tdiv (x * 1000000000) (4 * (T : Int))) (-100000000) 100000000 :=
  ⟨rfl, hs, rfl, rfl, rfl⟩

theorem OnlyTouches.disciplined {l : List Area} {s : State} (h : OnlyTouches l s (s.on b)) (hl : .belfry ∈ l) (x : Int)
    (T : Nat) : OnlyTouches l s (s.on (b.disciplined x T)) :=
  h.extend fun _ hx => Area.same_belfry (by rintro rfl; exact hx hl) _ _

theorem Chip.dcMeasure_taken (hs : b.source = 1) (hp : b.powered 16 = true) (hl : b.reg 0x2D60 1 ≠ 1) :
    b.dcMeasure x = b.measure x fun _ => 1000000 := if_pos ⟨hs, hp, Chip.sourceLost_eq_false hl⟩

end

section
variable {b : Chip} {n : Nat}

/-- The start of the interval of the next correction is now (R510). -/
def Chip.corrMarked (b : Chip) : Chip := { b with belfry := { b.belfry with lastCorr := some (b.now : Int) } }

theorem Chip.corrMarked_reg (b : Chip) (i j : Nat) : b.corrMarked.reg i j = b.reg i j := rfl

/-- The first correction of source 3 that a steady Belfry takes: its interval is 1 s (R510). -/
theorem Chip.correction_steady (h : b.reg 0x2302 1 ≠ n) (hs : b.source = 3) (hz : b.reg 0x2D60 1 ≠ 1)
    (hl : b.belfry.st = .locked) (hr : b.belfry.returnFrom = none) (hf : b.belfry.frozenCorr = none)
    (hn : b.belfry.fresh = false) (hx : (signed 64 (b.reg 0x2302 2)).natAbs ≤ 10 * b.threshold)
    (hc : b.belfry.lastCorr = none) :
    b.correction n = ((b.setReg 0x2302 1 n).disciplined (signed 64 (b.reg 0x2302 2)) 1000000000).corrMarked := by
  have ht : (b.setReg 0x2302 1 n).threshold = b.threshold := by
    rw [Chip.threshold, Chip.reg_setReg _ _ _ _ _ _ (by decide), Chip.threshold]
  have hT : ∀ y : Belfry, y.lastCorr = none →
      Chip.corrInterval b.now { b.setReg 0x2302 1 n with belfry := y } = 1000000000 := by
    intro y hy
    simp only [Chip.corrInterval, hy]
  have hm : b.corrected n = (b.setReg 0x2302 1 n).disciplined (signed 64 (b.reg 0x2302 2)) 1000000000 := by
    rw [Chip.corrected, Chip.measure_steady (b := b.setReg 0x2302 1 n) hl hr hf hn (by rw [ht]; exact hx)]
    exact congrArg _ (hT _ hc)
  rw [Chip.correction_measured h hs (Chip.sourceLost_eq_false hz), hm]
  exact congrArg (fun t => { (b.setReg 0x2302 1 n).disciplined (signed 64 (b.reg 0x2302 2)) 1000000000 with
    belfry := { ((b.setReg 0x2302 1 n).disciplined (signed 64 (b.reg 0x2302 2)) 1000000000).belfry with lastCorr := t } })
    (if_pos rfl)

/-- A correction stores its serial, and touches of Belfry and the registers what its measurement does. -/
theorem Chip.correction_serial (b : Chip) (n : Nat) : (b.correction n).reg 0x2302 1 = n := by
  by_cases h : b.reg 0x2302 1 = n
  · rw [Chip.correction_same h, h]
  · by_cases hs : b.source = 3 ∧ b.sourceLost = false
    · rw [Chip.correction_measured h hs.1 hs.2]
      refine (Chip.measure_reg_quiet (b := b.setReg 0x2302 1 n) (by simp [QuietReg, key]) _ _).trans ?_
      exact Chip.reg_setReg_self _ _ _ _
    · rw [Chip.correction_stored h (by simpa [imp_iff_not_or] using hs)]
      exact Chip.reg_setReg_self _ _ _ _

/-- A new correction of source 3 records its offset (R45). -/
theorem Chip.correction_offset (h : b.reg 0x2302 1 ≠ n) (hs : b.source = 3) (hz : b.reg 0x2D60 1 ≠ 1) :
    (b.correction n).belfry.offset = signed 64 (b.reg 0x2302 2) ∧ (b.correction n).belfry.missed = 0 := by
  rw [Chip.correction_measured h hs (Chip.sourceLost_eq_false hz)]
  exact Chip.measure_offset (b.setReg 0x2302 1 n) _ _

end

section
variable {b : Chip} {fine : Nat}

/-- An edge shows its instant, whatever becomes of it (R76). -/
theorem Chip.ppsEdge_instant (b : Chip) (fine : Nat) : (b.ppsEdge fine).reg 0x2303 1 = b.ppsInstant fine % 2 ^ 64 := by
  by_cases hs : b.source = 2 ∧ b.sourceLost = false
  · cases ho : b.ppsOutside (b.ppsInstant fine) with
    | false =>
      rw [Chip.ppsEdge_inside hs.1 hs.2 ho, Chip.measure_reg_quiet (by simp [QuietReg, key]), Chip.ppsTaken_instant]
    | true =>
      rw [Chip.ppsEdge_outside hs.1 hs.2 ho, Chip.logInj_reg_quiet (by simp [QuietReg, key]), Chip.ppsSeen_instant]
  · rw [Chip.ppsEdge_seen (by simpa [imp_iff_not_or] using hs), Chip.ppsSeen_instant]

/-- An edge that is not measured leaves offset and state of Belfry, and makes an entry at most (R38). -/
theorem Chip.ppsEdge_unmeasured
    (h : b.source ≠ 2 ∨ b.sourceLost = true ∨ b.ppsOutside (b.ppsInstant fine) = true) :
    (b.ppsEdge fine).belfry = (b.ppsSeen fine).belfry ∧
      ∀ x, x ∉ Area.belfry :: logAreas → x.same b (b.ppsEdge fine) := by
  have hseen : ∀ x, x ∉ Area.belfry :: logAreas → x.same b (b.ppsSeen fine) := fun x hx =>
    Area.same_ppsSeen (by rintro rfl; exact hx (by decide)) (by rintro rfl; exact hx (by decide)) b fine
  by_cases hs : b.source = 2 ∧ b.sourceLost = false
  · have ho : b.ppsOutside (b.ppsInstant fine) = true := by simpa [hs.1, hs.2] using h
    rw [Chip.ppsEdge_outside hs.1 hs.2 ho]
    exact ⟨Chip.logInj_belfry _ _, fun x hx => (hseen x hx).trans (Area.same_logInj (fun h => hx (by simp [h])) _ _)⟩
  · rw [Chip.ppsEdge_seen (by simpa [imp_iff_not_or] using hs)]
    exact ⟨rfl, hseen⟩

end

section
variable {s : State} {x : Int}

theorem exec_dcMeasurement_taken (t0 : Nat) (hs : s.source = 1) (hp : s.powered 16 = true) (hl : s.reg 0x2D60 1 ≠ 1) :
    exec (.dcMeasurement x t0) s = .next (s.on ((s.toChip.upTo t0).measure x fun _ => 1000000)) :=
  congrArg (fun b => Host.Outcome.next (s.on b)) (Chip.dcMeasure_taken (b := s.toChip.upTo t0) hs hp hl)

theorem exec_correctionSerial_allowed {q : Req} {n : Nat} (h : WriteAllowed s q 0x2302 1 n = true) :
    exec (.correctionSerial q n) s = .next (s.on (((s.served q).correction n).answer q.owner .done)) :=
  congrArg (fun b => Host.Outcome.next (s.on b)) (writeRow_allowed s q 0x2302 1 n _ h)

end

/-- Settles O6: a steady measurement is the control law alone (`Chip.measure_steady`), and any measurement records its offset
(`Chip.measure_offset`). -/
theorem measurementsFollowTheControlLaw : Obligations.MeasurementsFollowTheControlLaw := by
  unfold Obligations.MeasurementsFollowTheControlLaw
  intro law steady
  refine ⟨?_, ?_, ?_, ?_, ?_, ?_⟩
  · intro s x t0 hsrc hp ⟨hl, hr, hf, hn, hx, hz⟩
    have hm : ((s.toChip.upTo t0).measure x fun _ => 1000000) = (s.toChip.upTo t0).disciplined x 1000000 :=
      Chip.measure_steady (b := s.toChip.upTo t0) hl hr hf hn hx _
    refine ⟨_, exec_dcMeasurement_taken t0 hsrc hp (by rw [hz]; decide), ?_, ?_, ?_⟩
    all_goals rw [hm]
    · exact Chip.disciplined_law (b := s.toChip.upTo t0) hl x 1000000
    · rfl
    · exact (OnlyTouches.upTo (by simp) s t0).disciplined (by simp) _ _
  · intro s x t0 hsrc hp hz
    refine ⟨_, exec_dcMeasurement_taken t0 hsrc hp hz, ?_⟩
    rw [State.on_toChip]
    exact Chip.measure_offset (s.toChip.upTo t0) x fun _ => 1000000
  · intro s fine hsrc hd hdes ho ⟨hl, hr, hf, hn, hx, hz⟩
    have hi : s.toChip.ppsInstant fine = fine := Chip.ppsInstant_plain hd fine
    have ht : s.toChip.ppsTime fine = s.reg 0x2301 4 := if_neg hdes
    have he := Chip.ppsEdge_inside (fine := fine) hsrc (Chip.sourceLost_eq_false (by rw [hz]; decide))
      (by rw [hi]; exact ho)
    have hy := s.toChip.ppsTaken_belfry fine
    have hth : (s.toChip.ppsTaken fine).threshold = s.threshold := by
      rw [Chip.threshold, s.toChip.ppsTaken_reg fine (by decide) (by decide), Chip.threshold]
    have hl' : (s.toChip.ppsTaken fine).belfry.st = .locked := by rw [hy]; exact hl
    have hw := Chip.disciplined_law hl' (edgeOffset fine (s.reg 0x2301 4)) 1000000000
    rw [hi, ht, Chip.measure_steady hl' (by rw [hy]; exact hr) (by rw [hy]; exact hf)
      (by rw [hy]; exact hn) (by rw [hth]; exact hx)] at he
    refine ⟨_, congrArg (fun b => Host.Outcome.next (s.on b)) he, ?_, ?_, ?_, ?_, ?_⟩
    · rw [hy] at hw
      exact hw
    · exact Chip.ppsTaken_designated hdes fine
    · exact (s.toChip.ppsTaken_instant fine).trans (by rw [hi])
    · rw [State.on_toChip, Chip.disciplined_belfry, hy, hi]
      rfl
    · refine (OnlyTouches.refl _ s).extend fun x hx => ?_
      obtain ⟨hb, hdi⟩ : x ≠ .belfry ∧ x ≠ .dict := by simpa using hx
      exact (Area.same_ppsTaken hb hdi _ _).trans (Area.same_belfry hb _ _)
  · intro s fine
    refine ⟨s.on (s.toChip.ppsEdge fine), rfl, s.toChip.ppsEdge_instant fine, ?_, ?_⟩
    · intro hsrc hz ho
      rw [State.on_toChip, Chip.ppsEdge_inside hsrc (Chip.sourceLost_eq_false hz) ho]
      exact (Chip.measure_offset (s.toChip.ppsTaken fine) _ _).symm
    · intro h
      have hu := Chip.ppsEdge_unmeasured (b := s.toChip) (fine := fine) (by simpa [Chip.sourceLost] using h)
      refine ⟨?_, ?_, (OnlyTouches.refl _ s).extend hu.2⟩
      · rw [State.on_toChip, hu.1]
        rfl
      · rw [State.on_toChip, hu.1]
        rfl
  · intro s q n h hne hsrc hlc ⟨hl, hr, hf, hn, hx, hz⟩
    refine ⟨_, exec_correctionSerial_allowed h, ?_⟩
    have hc := Chip.correction_steady (b := s.served q) hne hsrc (by rw [State.served_reg, hz]; decide) hl hr hf hn hx hlc
    rw [State.on_toChip, hc]
    refine ⟨?_, ?_, ?_, by simp⟩
    · simp only [law, State.on_toChip, Chip.answer_belfry]
      exact Chip.disciplined_law (b := (s.served q).setReg 0x2302 1 n) hl _ _
    · rw [Chip.answer_reg, Chip.corrMarked_reg, Chip.disciplined_reg, Chip.reg_setReg_self]
    · simp only [Chip.now, Chip.answer_belfry]
      rfl
  · intro s q n h
    refine ⟨_, exec_correctionSerial_allowed h, ?_, by simp, ?_, ?_⟩
    · rw [State.on_toChip, Chip.answer_reg, Chip.correction_serial]
    · intro hne hsrc hz
      rw [State.on_toChip, Chip.answer_belfry]
      exact Chip.correction_offset (b := s.served q) hne hsrc hz
    · intro he
      rw [State.on_toChip, Chip.answer_belfry, Chip.correction_same (b := s.served q) he]
      rfl

end Sys2Proof.Machine

namespace Sys2Proof.Machine
open Sys2Proof

/-! ### The loss of a source -/

section
variable {b : Chip}

theorem Chip.toHoldover_belfry (b : Chip) :
    b.toHoldover.belfry = { b.belfry with st := .holdover, good := 0, corr := b.belfry.term } := by
  rw [Chip.toHoldover, Chip.logInj_belfry]

theorem Chip.toFree_belfry (b : Chip) (inj : Bool) :
    (b.toFree inj).belfry =
      { b.belfry with st := .free, good := 0, missed := 0, returnFrom := some (b.now, b.corrNow, b.termNow) } := by
  rw [Chip.toFree, Chip.logInj_belfry]

/-- The next edge has no window (R38). -/
def Chip.noWindow (b : Chip) : Chip := { b with belfry := { b.belfry with ppsWin := none } }

/-- The loss of the source in LOCKED (R39). -/
theorem Chip.sourceSilent_locked (h : b.belfry.st = .locked) : b.sourceSilent = b.noWindow.toHoldover := by
  simp only [Chip.sourceSilent, h]
  rfl

theorem Chip.sourceSilent_locking (h : b.belfry.st = .locking) :
    b.sourceSilent = b.noWindow.toFree b.noWindow.belfryInj := by
  simp only [Chip.sourceSilent, h]
  rfl

theorem Chip.sourceSilent_holdover (h : b.belfry.st = .locked) :
    b.sourceSilent.belfry.st = .holdover ∧ b.sourceSilent.belfry.corr = b.belfry.term ∧
      b.sourceSilent.belfry.frozenCorr = b.belfry.frozenCorr := by
  rw [Chip.sourceSilent_locked h, Chip.toHoldover_belfry]
  exact ⟨rfl, rfl, rfl⟩

theorem Chip.corrNow_frozen {c : Int} (h : b.belfry.frozenCorr = some c) : b.corrNow = c := by
  simp [Chip.corrNow, h]

theorem Chip.corrNow_plain (hf : b.belfry.frozenCorr = none) (hr : b.belfry.returnFrom = none) :
    b.corrNow = b.belfry.corr := by
  simp [Chip.corrNow, hf, hr]

theorem Chip.termNow_plain (hr : b.belfry.returnFrom = none) : b.termNow = b.belfry.term := by
  simp [Chip.termNow, hr]

/-! ### A missing edge -/

/-- The device at the end of the window, with the designated time advanced (R38). -/
def Chip.ppsPassed (b : Chip) : Chip :=
  let c := match b.belfry.ppsWin with
    | some c => b.upTo ((c + ppsHalf) / 64)
    | none => b
  c.designate (b.reg 0x2301 4) ((b.reg 0x2301 4 + 1000000000) % 2 ^ 64)

/-- One more missing edge (R38). -/
def Chip.ppsMiss (b : Chip) : Chip :=
  { b with belfry := { b.belfry with
    missed := b.belfry.missed + 1
    ppsWin := if 2 ≤ b.belfry.missed + 1 then none else b.belfry.ppsWin.map fun c => c + ppsSecond } }

theorem Chip.ppsMissing_eq (h : b.source = 2) :
    b.ppsMissing = if 2 ≤ b.ppsPassed.belfry.missed + 1 then b.ppsPassed.ppsMiss.sourceSilent else b.ppsPassed.ppsMiss :=
  if_neg (not_not.2 h)

/-- The end of a window moves the count, and nothing else of Belfry. -/
theorem Chip.ppsPassed_belfry (b : Chip) : ∃ n, b.ppsPassed.belfry = { b.belfry with tick := n } := by
  unfold Chip.ppsPassed
  cases h : b.belfry.ppsWin with
  | none => exact ⟨b.belfry.tick, Chip.designate_belfry _ _ _⟩
  | some c => exact ⟨_, Chip.designate_belfry _ _ _⟩

theorem Chip.ppsPassed_designated (h : b.reg 0x2301 4 ≠ 0) :
    b.ppsPassed.reg 0x2301 4 = (b.reg 0x2301 4 + 1000000000) % 2 ^ 64 := Chip.designate_self h _ _

theorem Area.same_ppsPassed {x : Area} (hb : x ≠ .belfry) (hd : x ≠ .dict) (b : Chip) : x.same b b.ppsPassed := by
  unfold Chip.ppsPassed
  refine Area.same.trans ?_ (Area.same_designate hd _ _ _)
  cases b.belfry.ppsWin with
  | none => exact Area.same_refl _ _
  | some c => exact Area.same_upTo hb _ _

end

/-! ### A step of the count, seen by banks and vanes -/

/-- What holds of the default record and of every mapped one, holds of every record of the mapped table. -/
theorem Tab.get_map_induct {α : Type} {P : α → Prop} {d : α} (hd : P d) {f : Nat × α → α} (hf : ∀ x, P (f x))
    (t : Tab α) (k : Nat) : P (Tab.get d (t.map fun x => (x.1, f x)) k) := by
  induction t with
  | nil => exact hd
  | cons x t ih =>
    simp only [List.map_cons, Tab.get]
    split
    · exact hf x
    · exact ih

/-- A vane as a step leaves it: flushed, and on its bank's queue epoch (R43). -/
def Vane.Fresh (v : Vane) : Prop := v.queue = [] ∧ v.armed = none ∧ v.window = none ∧ v.qe = none

theorem Vane.winClose_window (v : Vane) (c : Nat) : (v.winClose c).window = none := by
  unfold Vane.winClose
  split
  · rfl
  · assumption

section
variable (b : Chip) (n : Nat)

theorem Chip.clearVanes_fresh (tp : Nat) : (b.clearVanes.vane tp).Fresh :=
  Tab.get_map_induct (P := Vane.Fresh) (d := {}) ⟨rfl, rfl, rfl, rfl⟩
    (f := fun x => (x.2.clear (b.isle (bankRegion (tpBank x.1)))).noEpoch)
    (fun _ => ⟨rfl, rfl, Vane.winClose_window _ _, rfl⟩) b.vanes tp

theorem Chip.forEach_qeBase (m k : Nat) (l : List Nat) (h : k ∈ l ∨ (b.bank k).qeBase = m) :
    ((b.forEach l fun b k => b.modBank k fun q => { q with qeBase := m }).bank k).qeBase = m := by
  induction l generalizing b with
  | nil => simpa [Chip.forEach] using h
  | cons j l ih =>
    refine ih (b.modBank j fun q => { q with qeBase := m }) ?_
    by_cases hj : k = j
    · subst hj
      exact .inr (by simp [Chip.bank, Chip.modBank])
    · rw [show (b.modBank j fun q => { q with qeBase := m }).bank k = b.bank k by simp [Chip.bank, Chip.modBank, hj]]
      exact h.imp_left fun h => (List.mem_cons.1 h).resolve_left hj

theorem Chip.stepped_qeBase {k : Nat} (h : k < 24) : ((b.stepped n).bank k).qeBase = n / 2 ^ 22 := by
  have hb : (b.stepped n).banks = ((b.stepCount n).bankEpochs n).banks := by
    rw [Chip.stepped, Chip.breakSuspended_keep _ Chip.banks (by simp), Chip.clearVanes_banks]
  rw [Chip.bank_congr hb]
  exact Chip.forEach_qeBase _ _ _ _ (.inl (List.mem_range.2 h))

theorem Chip.stepTo_qeBase (inj : Bool) {k : Nat} (h : k < 24) :
    ((b.stepTo n inj).bank k).qeBase = n % 2 ^ 64 / 2 ^ 22 := by
  rw [Chip.stepTo_eq, Chip.bank_congr (Chip.logInj_banks _ _), Chip.stepped_qeBase _ _ h]

theorem Chip.vane_congr {b c : Chip} (h : b.vanes = c.vanes) (tp : Nat) : b.vane tp = c.vane tp := by
  simp [Chip.vane, h]

theorem Chip.vaneQe_congr {b c : Chip} (hb : b.banks = c.banks) (hv : b.vanes = c.vanes) (tp : Nat) :
    b.vaneQe tp = c.vaneQe tp := by
  simp [Chip.vaneQe, Chip.vane_congr hv, Chip.bank_congr hb]

theorem Chip.stepTo_vane_fresh (inj : Bool) (tp : Nat) : ((b.stepTo n inj).vane tp).Fresh := by
  have hv : (b.stepTo n inj).vanes = (((b.stepCount (n % 2 ^ 64)).bankEpochs (n % 2 ^ 64)).clearVanes).vanes := by
    rw [Chip.stepTo_eq, Chip.logInj_vanes, Chip.stepped, Chip.breakSuspended_keep _ Chip.vanes (by simp)]
  rw [Chip.vane_congr hv]
  exact Chip.clearVanes_fresh _ _

theorem Chip.stepTo_vaneQe (inj : Bool) {tp : Nat} (h : tp < 1536) :
    (b.stepTo n inj).vaneQe tp = n % 2 ^ 64 / 2 ^ 22 := by
  rw [Chip.vaneQe, (b.stepTo_vane_fresh n inj tp).2.2.2]
  exact b.stepTo_qeBase n inj (Nat.div_lt_of_lt_mul h)

theorem Chip.stepTo_now (inj : Bool) : (b.stepTo n inj).now = n % 2 ^ 64 :=
  congrArg Belfry.tick (b.stepTo_belfry n inj)

end

section
variable {s : State} {q : Req} {n : Nat}

/-- The step command, where no contract is ARMED and no compare freeze holds the correction. -/
theorem Chip.startStep_steps {b : Chip} (ha : b.anyArmed = false) (hf : b.belfry.frozenCorr = none) (o : Nat) :
    b.startStep o = (b.stepTo (b.reg 0x2E30 3) false).setStatus 0x2E30 o 0 := by
  simp [Chip.startStep, ha, Chip.frozen, hf]

theorem State.started_nil_reg (h : CommandTaken s q 0x2E30 n [] = true) (i j : Nat) :
    (s.started q 0x2E30 n []).reg i j = s.reg i j := by
  rw [State.started, withParams_taken s q _ n _ h]
  rfl

theorem exec_belfryStep_taken (h : CommandTaken s q 0x2E30 n [] = true) (ha : s.anyArmed = false)
    (hf : s.belfry.frozenCorr = none) :
    exec (.belfryStep q n) s = .next (s.on ((((s.started q 0x2E30 n []).stepTo (s.reg 0x2E30 3) false).setStatus 0x2E30
      q.owner 0).answer q.owner .done)) := by
  have hb : (s.started q 0x2E30 n []).belfry.frozenCorr = none := by simp [State.started, hf]
  have hp : (s.started q 0x2E30 n []).anyArmed = false := by
    rw [← ha]; simp [Chip.anyArmed, Chip.part, State.started]
  refine congrArg (fun b => Host.Outcome.next (s.on b)) ((commandRow_taken s q 0x2E30 n [] Chip.startStep h).trans ?_)
  rw [← State.started_nil_reg h 0x2E30 3, ← Chip.startStep_steps hp hb]
  rfl

theorem exec_disciplineSourceWrite_allowed {v : Nat} (h : WriteAllowed s q 0x2301 1 v = true) :
    exec (.disciplineSourceWrite q v) s = .next (s.on (((s.served q).setSource v).answer q.owner .done)) :=
  congrArg (fun b => Host.Outcome.next (s.on b)) (writeRow_allowed s q 0x2301 1 v _ h)

/-- Another source: Belfry begins anew from LOCKED (R39). -/
def Chip.resourced (b : Chip) (v : Nat) : Chip :=
  { b.setReg 0x2301 1 v with belfry := { b.belfry with
    st := if b.belfry.st = .locked then .locking else b.belfry.st
    good := 0, missed := 0, lastCorr := none, ppsWin := none, fresh := true } }

theorem Chip.resourced_source (b : Chip) (v : Nat) : (b.resourced v).source = v := Chip.reg_setReg_self _ _ _ _

theorem Chip.setSource_other {b : Chip} {v : Nat} (h0 : v ≠ 0) (h : v ≠ b.source) : b.setSource v = b.resourced v :=
  (if_neg h0).trans (if_neg h)

end

/-- Settles O7: each change of Belfry's state as one equation, and a step of the count by what it leaves in the banks and
vanes. -/
theorem belfrySourcesAndSteps : Obligations.BelfrySourcesAndSteps := by
  unfold Obligations.BelfrySourcesAndSteps
  refine ⟨?_, ?_, ?_, ?_, ?_, ?_, ?_, ?_⟩
  · intro s h0 hl
    refine ⟨s.on s.toChip.sourceSilent, congrArg (fun b => Host.Outcome.next (s.on b)) (if_neg h0), ?_⟩
    obtain ⟨hst, hc, hf⟩ := Chip.sourceSilent_holdover hl
    exact ⟨hst, hc, fun c h => Chip.corrNow_frozen (hf.trans h)⟩
  · intro s h0 hl
    refine ⟨s.on s.toChip.sourceSilent, congrArg (fun b => Host.Outcome.next (s.on b)) (if_neg h0), ?_⟩
    rw [State.on_toChip, Chip.sourceSilent_locking hl, Chip.toFree_belfry]
  · intro s hs hd hm
    obtain ⟨n, hy⟩ := s.toChip.ppsPassed_belfry
    have he : s.toChip.ppsMissing = s.toChip.ppsPassed.ppsMiss := by
      rw [Chip.ppsMissing_eq hs, hy, hm]
      rfl
    refine ⟨_, congrArg (fun b => Host.Outcome.next (s.on b)) he, Chip.ppsPassed_designated hd, ?_, ?_,
      (OnlyTouches.refl _ s).extend fun x hx => ?_⟩
    · simp only [State.on_toChip, Chip.ppsMiss, hy, hm]
    · simp only [State.on_toChip, Chip.ppsMiss, hy]
    · obtain ⟨hb, hdi⟩ : x ≠ .belfry ∧ x ≠ .dict := by simpa using hx
      exact (Area.same_ppsPassed hb hdi _).trans (Area.same_belfry hb _ _)
  · intro s hs hm hl
    obtain ⟨n, hy⟩ := s.toChip.ppsPassed_belfry
    have he : s.toChip.ppsMissing = s.toChip.ppsPassed.ppsMiss.sourceSilent := by
      rw [Chip.ppsMissing_eq hs, hy, hm]
      rfl
    refine ⟨_, congrArg (fun b => Host.Outcome.next (s.on b)) he, ?_⟩
    obtain ⟨hst, hc, -⟩ := Chip.sourceSilent_holdover (b := s.toChip.ppsPassed.ppsMiss)
      (by simp only [Chip.ppsMiss, hy]; exact hl)
    exact ⟨hst, hc.trans (by simp only [Chip.ppsMiss, hy])⟩
  · intro s hl
    refine ⟨s.on (s.toChip.toFree s.toChip.belfryInj), congrArg (fun b => Host.Outcome.next (s.on b)) (if_pos hl), ?_⟩
    rw [State.on_toChip, Chip.toFree_belfry]
    exact ⟨rfl, rfl⟩
  · intro s q v h h0 hv
    have he := Chip.setSource_other (b := s.served q) h0 hv
    refine ⟨_, exec_disciplineSourceWrite_allowed h, ?_, by simp, ?_⟩
    · rw [he, Chip.source, State.on_toChip, Chip.answer_reg]
      exact Chip.resourced_source _ _
    · rw [he, State.on_toChip, Chip.answer_belfry]
      exact ⟨rfl, rfl⟩
  · intro s x t0 hs hp hz he hx hpol ha hf hr
    have hm := Chip.measure_step (b := s.toChip.upTo t0) he hx hpol ha hf fun _ => 1000000
    refine ⟨_, exec_dcMeasurement_taken t0 hs hp (by rw [hz]; decide), ?_⟩
    rw [hm]
    simp only [State.on_toChip, Chip.stepTo_now, Chip.stepTo_belfry]
    exact ⟨rfl, rfl, rfl, Chip.corrNow_plain (b := s.toChip.upTo t0) hf hr, Chip.termNow_plain (b := s.toChip.upTo t0) hr⟩
  · intro s q n h ha hf
    have hb := fun c : Chip => (Chip.answer_banks (c.setStatus 0x2E30 q.owner 0) q.owner .done).trans
      (Chip.setStatus_banks c 0x2E30 q.owner 0)
    have hv := fun c : Chip => (Chip.answer_vanes (c.setStatus 0x2E30 q.owner 0) q.owner .done).trans
      (Chip.setStatus_vanes c 0x2E30 q.owner 0)
    refine ⟨_, exec_belfryStep_taken h ha hf, ?_, ?_, ?_, ?_⟩
    · rw [State.on_toChip, Chip.now, Chip.answer_belfry, Chip.setStatus_belfry]
      exact Chip.stepTo_now _ _ _
    · rw [State.status_on_answer]
      exact Chip.setStatus_status _ _ _ _
    · intro k hk
      rw [State.on_toChip, Chip.bank_congr (hb _), Chip.stepTo_qeBase _ _ _ hk]
    · intro tp htp
      obtain ⟨hq, har, hw, -⟩ := Chip.stepTo_vane_fresh (s.started q 0x2E30 n []) (s.reg 0x2E30 3) false tp
      rw [State.on_toChip, Chip.vaneQe_congr (hb _) (hv _), Chip.vane_congr (hv _), Chip.stepTo_vaneQe _ _ _ htp]
      exact ⟨hq, har, hw, rfl⟩

end Sys2Proof.Machine

namespace Sys2Proof.Machine
open Sys2Proof

/-! ### One bank changes -/

section
variable {b : Chip} {k : Nat} {f : Bank → Bank} {l : List Area}

@[simp] theorem Chip.bank_modBank (b : Chip) (k : Nat) (f : Bank → Bank) : (b.modBank k f).bank k = f (b.bank k) :=
  Tab.get_mod_self _ _ _ _

theorem Chip.bank_modBank_ne {j : Nat} (h : j ≠ k) : (b.modBank k f).bank j = b.bank j := Tab.get_mod_ne _ _ _ _ _ h

/-- What stays noted of a bank's drivers for the edge that began the present region cycle (R64, R69). -/
def Chip.noted (b : Chip) (k : Nat) : Option (Nat × BitVec 64 × BitVec 64) := ((b.noteDrive k).bank k).shown

@[simp] theorem Chip.bank_modPins (b : Chip) (k : Nat) (f : Bank → Bank) :
    (b.modPins k f).bank k = f { b.bank k with shown := b.noted k } := by
  rw [Chip.modPins, Chip.bank_modBank, Chip.noted, Chip.noteDrive, Chip.bank_modBank]

/-- From b to c bank k alone of the banks has changed, and of the areas those of l alone. -/
def AltersBank (l : List Area) (k : Nat) (b c : Chip) : Prop :=
  (∀ j, j ≠ k → c.bank j = b.bank j) ∧ ∀ x, x ∉ l → x.same b c

theorem AltersBank.trans {c d : Chip} (h : AltersBank l k b c) (h' : AltersBank l k c d) : AltersBank l k b d :=
  ⟨fun j hj => (h'.1 j hj).trans (h.1 j hj), fun x hx => (h.2 x hx).trans (h'.2 x hx)⟩

/-- A change of other areas than the banks. -/
theorem AltersBank.of_banks {c : Chip} (hb : c.banks = b.banks) (h : ∀ x, x ∉ l → x.same b c) : AltersBank l k b c :=
  ⟨fun j _ => Chip.bank_congr hb j, h⟩

theorem AltersBank.refl (l : List Area) (k : Nat) (b : Chip) : AltersBank l k b b :=
  .of_banks rfl fun x _ => Area.same_refl x b

theorem AltersBank.upTo (hl : .belfry ∈ l) (b : Chip) (t : Nat) : AltersBank l k b (b.upTo t) :=
  .of_banks rfl fun _ hx => Area.same_upTo (by rintro rfl; exact hx hl) b t

theorem AltersBank.served (hl : .belfry :: answerAreas ⊆ l) (s : State) (q : Req) : AltersBank l k s.toChip (s.served q) :=
  .of_banks rfl fun x hx => (OnlyTouches.served s q).2 x fun h => hx (hl h)

theorem AltersBank.answer (hl : answerAreas ⊆ l) (b : Chip) (o : Nat) (r : Reply) : AltersBank l k b (b.answer o r) :=
  .of_banks (Chip.answer_banks _ _ _) fun _ hx => Area.same_answer (fun ha => hx (hl ha)) b o r

theorem AltersBank.logEvent (hl : logAreas ⊆ l) (b : Chip) (e : Ev) : AltersBank l k b (b.logEvent e) :=
  .of_banks (Chip.logEvent_banks _ _) fun _ hx => Area.same_logEvent (fun ha => hx (hl ha)) b e

theorem Area.same_banks {x : Area} (h : x ≠ .banks) (b : Chip) (t : Tab Bank) : x.same b { b with banks := t } := by
  cases x <;> simp_all [Area.same]

theorem Area.same_vanes {x : Area} (h : x ≠ .vanes) (b : Chip) (t : Tab Vane) : x.same b { b with vanes := t } := by
  cases x <;> simp_all [Area.same]

theorem AltersBank.modBank (hl : .banks ∈ l) (b : Chip) (f : Bank → Bank) : AltersBank l k b (b.modBank k f) :=
  ⟨fun _ hj => Chip.bank_modBank_ne hj, fun _ hx => Area.same_banks (by rintro rfl; exact hx hl) _ _⟩

theorem AltersBank.modPins (hl : .banks ∈ l) (b : Chip) (f : Bank → Bank) : AltersBank l k b (b.modPins k f) :=
  .trans (.modBank hl b _) (.modBank hl _ f)

theorem AltersBank.vanes (hl : .vanes ∈ l) (b : Chip) (t : Tab Vane) : AltersBank l k b { b with vanes := t } :=
  .of_banks rfl fun _ hx => Area.same_vanes (by rintro rfl; exact hx hl) _ _

theorem AltersBank.flushBank (hl : .banks ∈ l) (hv : .vanes ∈ l) (b : Chip) : AltersBank l k b (b.flushBank k) :=
  .trans (.modPins hl b _) (.vanes hv _ _)

theorem AltersBank.parkBank (hl : .banks ∈ l) (hv : .vanes ∈ l) (b : Chip) : AltersBank l k b (b.parkBank k) :=
  .trans (.flushBank hl hv b) (.modBank hl _ _)

theorem AltersBank.leaveVaneMode (hl : .banks ∈ l) (hv : .vanes ∈ l) (b : Chip) :
    AltersBank l k b (b.leaveVaneMode k) := by
  unfold Chip.leaveVaneMode
  split
  · exact .trans (.flushBank hl hv b) (.modBank hl _ _)
  · exact .refl _ _ _

theorem AltersBank.enterVaneMode (hl : .banks ∈ l) (hv : .vanes ∈ l) (b : Chip) :
    AltersBank l k b (b.enterVaneMode k) := by
  unfold Chip.enterVaneMode
  split
  · exact .refl _ _ _
  · exact .trans (.modPins hl b _) (.vanes hv _ _)

/-- What the bank's change comes to for the state. -/
theorem AltersBank.onlyTouches {s : State} {c : Chip} (h : AltersBank l k s.toChip c) : OnlyTouches l s (s.on c) :=
  (OnlyTouches.refl _ s).extend h.2

theorem AltersBank.others {s : State} {c : Chip} (h : AltersBank l k s.toChip c) :
    ∀ j, j ≠ k → (s.on c).bank j = s.bank j := h.1

/-! ### A bank's mode -/

theorem Chip.flushBank_bank (b : Chip) (k : Nat) : (b.flushBank k).bank k =
    { b.bank k with shown := b.noted k, vOe := (b.vaneDrivers k).1, vLevel := (b.vaneDrivers k).2 } := by
  show (b.modPins k fun q => { q with vOe := (b.vaneDrivers k).1, vLevel := (b.vaneDrivers k).2 }).bank k = _
  rw [Chip.bank_modPins]

/-- A park keeps of a bank what says how it is used, and a pattern stops (R50, R71). -/
theorem Chip.parkBank_bank (b : Chip) (k : Nat) :
    ((b.parkBank k).bank k).mode = (b.bank k).mode ∧ ((b.parkBank k).bank k).code = (b.bank k).code ∧
      ((b.parkBank k).bank k).mV = (b.bank k).mV ∧ ((b.parkBank k).bank k).patCtl = 0 := by
  rw [Chip.parkBank, Chip.bank_modBank, Chip.flushBank_bank]
  exact ⟨rfl, rfl, rfl, rfl⟩

theorem Chip.leaveVaneMode_parkedPins (b : Chip) (k : Nat) :
    ((b.leaveVaneMode k).bank k).parkedPins = (b.bank k).parkedPins := by
  unfold Chip.leaveVaneMode
  split
  · rw [Chip.bank_modBank, Chip.flushBank_bank]
  · rfl

theorem Chip.enterVaneMode_mode (b : Chip) (k : Nat) : ((b.enterVaneMode k).bank k).mode = 2 := by
  unfold Chip.enterVaneMode
  split
  · assumption
  · unfold Chip.toVaneMode
    extract_lets bk qe c
    exact (congrArg Bank.mode (Chip.bank_modPins b k _) : (c.bank k).mode = 2)

/-- A write of the mode that its checks let through (R49, R71, R72). -/
theorem Chip.setBankMode_ok {v : Nat} (hv : v < 3) (h1 : v = 1 → (b.bank k).mode = 2 → b.bankArmed k = false)
    (h2 : v = 2 → (b.bank k).used = true) (hl : .banks ∈ l) (hva : .vanes ∈ l) :
    ∃ c, b.setBankMode k v = .ok c ∧ AltersBank l k b c ∧ (c.bank k).mode = v ∧ (c.bank k).faultParked = false ∧
      (v = 0 → (c.bank k).parkedPins = BitVec.allOnes 64) := by
  obtain rfl | rfl | rfl : v = 0 ∨ v = 1 ∨ v = 2 := by omega
  · refine ⟨_, rfl, .trans (.trans (.parkBank hl hva b) (.leaveVaneMode hl hva _)) (.modBank hl _ _), ?_, ?_, fun _ => ?_⟩
    · rw [Chip.bank_modBank]
    · rw [Chip.bank_modBank]
    · rw [Chip.bank_modBank]
      exact (Chip.leaveVaneMode_parkedPins _ _).trans (Chip.parkBank_parkedPins _ _)
  · refine ⟨_, if_neg fun h => ?_, .trans (.leaveVaneMode hl hva b) (.modPins hl _ _), ?_, ?_, by simp⟩
    · simp [h1 rfl h.1] at h
    · rw [Chip.bank_modPins]
    · rw [Chip.bank_modPins]
  · refine ⟨_, if_pos (h2 rfl), .trans (.enterVaneMode hl hva b) (.modPins hl _ _), ?_, ?_, by simp⟩
    · rw [Chip.bank_modPins]
      exact Chip.enterVaneMode_mode b k
    · rw [Chip.bank_modPins]

/-! ### Direct outputs and patterns -/

theorem Chip.setDirect_ok (h : (b.bank k).mode ≠ 2) (level : Bool) (v : BitVec 64) (hl : .banks ∈ l) :
    ∃ c, b.setDirect k level v = .ok c ∧ (c.bank k).oe = (if level then (b.bank k).oe else v) ∧
      (c.bank k).level = (if level then v else (b.bank k).level) ∧
      ((b.bank k).mode = 1 → (b.bank k).parked = false → (c.bank k).parkedPins = 0#64) ∧ AltersBank l k b c := by
  refine ⟨_, if_neg h, ?_, ?_, fun h1 hp => ?_, .modPins hl b _⟩
  · rw [Chip.bank_modPins]
  · rw [Chip.bank_modPins]
  · rw [Chip.bank_modPins]
    exact if_pos ⟨h1, hp⟩

theorem Chip.setPattern_started {v : Nat} (hv : v ≠ 0) (h1 : (b.bank k).mode = 1) (hp : (b.bank k).parked = false)
    (hs : b.now ≤ b.reg (0x2400 + k) 0x0D) :
    b.setPattern k v =
      .ok (b.modBank k fun q => { q with patCtl := v, patNext := 0, patDue := b.reg (0x2400 + k) 0x0D }) := by
  simp [Chip.setPattern, hv, h1, hp, hs]

/-- The entry that is due, before the end of the table (R50). -/
theorem Chip.patternApply_due (hc : (b.bank k).patCtl ≠ 0) (hn : (b.bank k).patNext < b.patLength k) :
    b.patternApply k = (b.upTo (b.bank k).patDue).modPins k fun q =>
      { q with
        oe := BitVec.ofNat 64 (Mem.get (b.bank k).pattern (b.bank k).patNext).toNat
        level := BitVec.ofNat 64 ((Mem.get (b.bank k).pattern (b.bank k).patNext).toNat / 2 ^ 64)
        parkedPins := 0#64
        patNext := (b.bank k).patNext + 1
        patDue := q.patDue + b.reg (0x2400 + k) 0x0E } := by
  simp only [Chip.patternApply, if_neg (Nat.not_le.2 hn)]
  exact if_neg (by simp [hc, hn])

theorem Chip.patternEnd_due (hc : (b.bank k).patCtl = 1) (hn : b.patLength k ≤ (b.bank k).patNext) :
    b.patternEnd k = (b.upTo (b.bank k).patDue).modBank k fun q => { q with patCtl := 0 } := if_pos ⟨hc, hn⟩

/-! ### Pulls and VCCO -/

theorem Chip.bankControl_vane (hf : b.fabricRuns (bankRegion k) = true) (hm : (b.bank k).mode = 2) (pin pull : Nat) :
    b.bankControl k pin pull = b.modBank k fun q => { q with ctlPull := Tab.set q.ctlPull pin pull } :=
  (if_neg (by simp [hf])).trans (if_pos hm)

theorem Chip.bankControl_other (hf : b.fabricRuns (bankRegion k) = true) (hm : (b.bank k).mode ≠ 2) (pin pull : Nat) :
    b.bankControl k pin pull = b.count 0x2418 7 := (if_neg (by simp [hf])).trans (if_neg hm)

theorem Chip.vccoPark_unparked (h : (b.bank k).parked = false) (inj : Bool) :
    b.vccoPark k inj =
      ((b.parkBank k).modBank k fun q => { q with vccoParked := true }).logEvent (bankEv k 6 3 inj 0xFFFF 0) := by
  simp [Chip.vccoPark, h]

/-- A measured VCCO outside the code's level parks the bank, with its event (R48). -/
theorem Chip.vccoFault_parks {mV : Nat} (hm : codeMatches (b.bank k).code mV = false) (hp : (b.bank k).parked = false) :
    b.vccoFault k mV = (((b.modBank k fun q => { q with mV := mV }).parkBank k).modBank k
      fun q => { q with vccoParked := true }).logEvent (bankEv k 6 3 false 0xFFFF 0) := by
  have hq : ((b.modBank k fun q => { q with mV := mV }).bank k).parked = false := by
    rw [Chip.bank_modBank]; exact hp
  unfold Chip.vccoFault
  extract_lets hit c
  have hh : hit = false := hm
  rw [if_neg (by simp [hh])]
  exact Chip.vccoPark_unparked hq false

theorem Chip.vccoRecover_ends {mV : Nat} (h : codeMatches (b.bank k).code mV = true) :
    b.vccoRecover k mV = b.modPins k fun q => { q with mV := mV, vccoParked := false } := if_pos h

end

/-- The low half of a pattern entry, and the high half. -/
theorem ofNat_toNat_low (e : BitVec 128) : BitVec.ofNat 64 e.toNat = e.setWidth 64 := by
  apply BitVec.eq_of_toNat_eq; simp
theorem ofNat_toNat_high (e : BitVec 128) : BitVec.ofNat 64 (e.toNat / 2 ^ 64) = (e >>> 64).setWidth 64 := by
  apply BitVec.eq_of_toNat_eq; simp [Nat.shiftRight_eq_div_pow]

/-! ### Writes of a bank's registers -/

section
variable {s : State} {q : Req} {k : Nat} {c : Chip}

theorem exec_bankModeWrite_allowed {v : Nat} (h : WriteAllowed s q (0x2400 + k) 1 v = true)
    (hc : (s.served q).setBankMode k v = .ok c) :
    exec (.bankModeWrite q k v) s = .next (s.on (c.answer q.owner .done)) :=
  congrArg (fun b => Host.Outcome.next (s.on b)) ((writeRow_allowed s q _ _ v _ h).trans (by rw [hc]; rfl))

theorem exec_ioVoltageWrite_allowed {v : Nat} (h : WriteAllowed s q (0x2400 + k) 2 v = true)
    (hc : (s.served q).setVoltage k v = .ok c) :
    exec (.ioVoltageWrite q k v) s = .next (s.on (c.answer q.owner .done)) :=
  congrArg (fun b => Host.Outcome.next (s.on b)) ((writeRow_allowed s q _ _ v _ h).trans (by rw [hc]; rfl))

theorem exec_directOutputWrite_allowed {level : Bool} {v : BitVec 64}
    (h : WriteAllowed s q (0x2400 + k) (if level then 0x0A else 9) v.toNat = true)
    (hc : (s.served q).setDirect k level v = .ok c) :
    exec (.directOutputWrite q k level v) s = .next (s.on (c.answer q.owner .done)) :=
  congrArg (fun b => Host.Outcome.next (s.on b)) ((writeRow_allowed s q _ _ v.toNat _ h).trans (by rw [hc]; rfl))

theorem exec_patternControlWrite_allowed {v : Nat} (h : WriteAllowed s q (0x2400 + k) 0x10 v = true)
    (hc : (s.served q).setPattern k v = .ok c) :
    exec (.patternControlWrite q k v) s = .next (s.on (c.answer q.owner .done)) :=
  congrArg (fun b => Host.Outcome.next (s.on b)) ((writeRow_allowed s q _ _ v _ h).trans (by rw [hc]; rfl))

theorem exec_clearContention_allowed {m : BitVec 64} (h : WriteAllowed s q (0x2400 + k) 0x13 m.toNat = true) :
    exec (.clearContention q k m) s = .next (s.on (((s.served q).clearContention k m).answer q.owner .done)) :=
  congrArg (fun b => Host.Outcome.next (s.on b)) (writeRow_allowed s q _ _ m.toNat _ h)

@[simp] theorem State.bank_on_answer (b : Chip) (o : Nat) (r : Reply) (j : Nat) :
    (s.on (b.answer o r)).bank j = b.bank j := Chip.bank_congr (Chip.answer_banks _ _ _) j

/-- What a write that changes one bank comes to, with its answer. -/
theorem AltersBank.written {l : List Area} (hl : .belfry :: answerAreas ⊆ l) (h : AltersBank l k (s.served q) c)
    (o : Nat) (r : Reply) : AltersBank l k s.toChip (c.answer o r) :=
  .trans (.trans (.served hl s q) h) (.answer (fun _ hx => hl (List.mem_cons_of_mem _ hx)) c o r)

end

/-- Settles O9: every command changes one bank (`AltersBank`), and the bank's record is read off the change. -/
theorem bankWritesAndPatterns : Obligations.BankWritesAndPatterns := by
  unfold Obligations.BankWritesAndPatterns
  intro others
  refine ⟨?_, ?_, ?_, ?_, ?_, ?_, ?_, ?_, ?_, ?_, ?_, ?_⟩
  · intro s q k v hv _ h h1 h2
    obtain ⟨c, hc, ha, hm, hf, hp⟩ := Chip.setBankMode_ok (b := s.served q)
      (l := .belfry :: .banks :: .vanes :: answerAreas) hv h1 h2 (by simp) (by simp)
    have hw := ha.written (by decide) q.owner .done
    refine ⟨_, exec_bankModeWrite_allowed h hc, ?_, ?_, ?_, by simp, hw.others, hw.onlyTouches⟩
    all_goals rw [State.bank_on_answer]; assumption
  · intro s q k v _ h
    have hw := (AltersBank.modPins (l := .belfry :: .banks :: answerAreas) (k := k) (by simp) (s.served q) fun y =>
      { y with code := v, vccoParked := !codeMatches v (s.bank k).mV }).written (by decide) q.owner .done
    refine ⟨_, exec_ioVoltageWrite_allowed h rfl, ?_, ?_, by simp, hw.others, hw.onlyTouches⟩
    · rw [State.bank_on_answer, Chip.bank_modPins]
    · rw [State.bank_on_answer, Chip.bank_modPins]
      rfl
  · intro s q k v _ h hm
    obtain ⟨c, hc, ho, hl, hp, ha⟩ := Chip.setDirect_ok (b := s.served q)
      (l := .belfry :: .banks :: answerAreas) hm false v (by simp)
    refine ⟨_, exec_directOutputWrite_allowed h hc, ?_, ?_, ?_, (ha.written (by decide) q.owner .done).others⟩
    all_goals rw [State.bank_on_answer]; assumption
  · intro s q k v _ h hm
    obtain ⟨c, hc, ho, hl, hp, ha⟩ := Chip.setDirect_ok (b := s.served q)
      (l := .belfry :: .banks :: answerAreas) hm true v (by simp)
    refine ⟨_, exec_directOutputWrite_allowed h hc, ?_, ?_, (ha.written (by decide) q.owner .done).others⟩
    all_goals rw [State.bank_on_answer]; assumption
  · intro s q k v _ h hv hm hp hs
    have hc := Chip.setPattern_started (b := s.served q) hv hm hp ((Nat.mod_le _ _).trans hs)
    have ha := AltersBank.modBank (l := .belfry :: .banks :: answerAreas) (k := k) (by simp) (s.served q) fun y =>
      { y with patCtl := v, patNext := 0, patDue := (s.served q).reg (0x2400 + k) 0x0D }
    refine ⟨_, exec_patternControlWrite_allowed h hc, ?_, ?_, ?_, (ha.written (by decide) q.owner .done).others⟩
    all_goals rw [State.bank_on_answer, Chip.bank_modBank]
    rfl
  · intro s k hc hn
    have he := Chip.patternApply_due (b := s.toChip) hc hn
    have ha : AltersBank [.belfry, .banks] k s.toChip (s.toChip.patternApply k) := by
      rw [he]; exact .trans (.upTo (by simp) _ _) (.modPins (by simp) _ _)
    refine ⟨s.on (s.toChip.patternApply k), rfl, ?_, ?_, ?_, ?_, ?_, ?_, ha.others, ha.onlyTouches⟩
    all_goals rw [State.on_toChip, he]
    · rw [Chip.bank_modPins]
      exact ofNat_toNat_low _
    · rw [Chip.bank_modPins]
      exact ofNat_toNat_high _
    · rw [Chip.bank_modPins]
    · rw [Chip.bank_modPins]
    · rw [Chip.bank_modPins]
      rfl
    · rfl
  · intro s k hc hn
    have he := Chip.patternEnd_due (b := s.toChip) hc hn
    have ha : AltersBank [.belfry, .banks] k s.toChip (s.toChip.patternEnd k) := by
      rw [he]; exact .trans (.upTo (by simp) _ _) (.modBank (by simp) _ _)
    refine ⟨s.on (s.toChip.patternEnd k), rfl, ?_, ?_, ?_, ha.others, ha.onlyTouches⟩
    all_goals rw [State.on_toChip, he, Chip.bank_modBank]
    · rfl
    · rfl
  · intro s q k m _ h
    have ha := AltersBank.modBank (l := .belfry :: .banks :: answerAreas) (k := k) (by simp) (s.served q) fun y =>
      { y with contention := y.contention &&& ~~~m }
    refine ⟨_, exec_clearContention_allowed h, ?_, (ha.written (by decide) q.owner .done).others⟩
    rw [State.bank_on_answer, Chip.clearContention, Chip.bank_modBank]
    rfl
  · intro s k pin pull t0 hf hm
    have he : (s.toChip.upTo t0).bankControl k pin pull =
        (s.toChip.upTo t0).modBank k fun y => { y with ctlPull := Tab.set y.ctlPull pin pull } :=
      Chip.bankControl_vane (b := s.toChip.upTo t0) hf hm pin pull
    have ha : AltersBank [.belfry, .banks] k s.toChip ((s.toChip.upTo t0).bankControl k pin pull) := by
      rw [he]; exact .trans (.upTo (by simp) _ _) (.modBank (by simp) _ _)
    refine ⟨s.on ((s.toChip.upTo t0).bankControl k pin pull), rfl, ?_, fun n hn => ?_, ha.others, ha.onlyTouches⟩
    all_goals rw [State.on_toChip, he, Chip.bank_modBank]
    · exact Tab.get_set_self _ _ _ _
    · exact Tab.get_set_ne _ _ _ _ _ hn
  · intro s k pin pull t0 hf hm
    have he := Chip.bankControl_other (b := s.toChip.upTo t0) hf hm pin pull
    refine ⟨_, congrArg (fun b => Host.Outcome.next (s.on b)) he, ?_, ?_⟩
    · exact Chip.reg_setReg_self _ _ _ _
    · exact (OnlyTouches.upTo (by simp) s t0).extend fun x hx => Area.same_count (by simp at hx; exact hx.2) _ _ _
  · intro s k mV t0 hm hp
    have he := Chip.vccoFault_parks (b := s.toChip.upTo t0) hm hp
    have ha : AltersBank (.belfry :: .banks :: .vanes :: logAreas) k s.toChip ((s.toChip.upTo t0).vccoFault k mV) := by
      rw [he]
      exact .trans (.upTo (by simp) _ _) (.trans (.trans (.trans (.modBank (by simp) _ _) (.parkBank (by simp) (by simp) _))
        (.modBank (by simp) _ _)) (.logEvent (by decide) _ _))
    obtain ⟨hmode, -, hmv, hctl⟩ := Chip.parkBank_bank ((s.toChip.upTo t0).modBank k fun y => { y with mV := mV }) k
    refine ⟨s.on ((s.toChip.upTo t0).vccoFault k mV), rfl, ?_, ?_, ?_, ?_, ?_, ha.others, ha.onlyTouches⟩
    all_goals rw [State.on_toChip, he, Chip.bank_congr (Chip.logEvent_banks _ _), Chip.bank_modBank]
    · exact hmv.trans (by rw [Chip.bank_modBank])
    · exact Chip.parkBank_parkedPins _ _
    · exact hctl
    · exact hmode.trans (by rw [Chip.bank_modBank]; rfl)
  · intro s k mV t0 hm
    have he := Chip.vccoRecover_ends (b := s.toChip.upTo t0) hm
    have ha : AltersBank [.belfry, .banks] k s.toChip ((s.toChip.upTo t0).vccoRecover k mV) := by
      rw [he]; exact .trans (.upTo (by simp) _ _) (.modPins (by simp) _ _)
    refine ⟨s.on ((s.toChip.upTo t0).vccoRecover k mV), rfl, ?_, ?_, ?_, ha.others, ha.onlyTouches⟩
    all_goals rw [State.on_toChip, he, Chip.bank_modPins]
    rfl

end Sys2Proof.Machine

namespace Sys2Proof.Machine
open Sys2Proof

/-! ### One vane changes -/

section
variable {b : Chip} {tp : Nat} {f : Vane → Vane} {l : List Area}

@[simp] theorem Chip.vane_modVane (b : Chip) (tp : Nat) (f : Vane → Vane) : (b.modVane tp f).vane tp = f (b.vane tp) :=
  Tab.get_mod_self _ _ _ _

theorem Chip.vane_modVane_ne {j : Nat} (h : j ≠ tp) : (b.modVane tp f).vane j = b.vane j := Tab.get_mod_ne _ _ _ _ _ h

/-- From b to c the vane of tp alone of the vanes has changed, and of the areas those of l alone. -/
def AltersVane (l : List Area) (tp : Nat) (b c : Chip) : Prop :=
  (∀ j, j ≠ tp → c.vane j = b.vane j) ∧ ∀ x, x ∉ l → x.same b c

theorem AltersVane.trans {c d : Chip} (h : AltersVane l tp b c) (h' : AltersVane l tp c d) : AltersVane l tp b d :=
  ⟨fun j hj => (h'.1 j hj).trans (h.1 j hj), fun x hx => (h.2 x hx).trans (h'.2 x hx)⟩

theorem AltersVane.mono {m : List Area} {c : Chip} (h : AltersVane l tp b c) (hl : l ⊆ m) : AltersVane m tp b c :=
  ⟨h.1, fun x hx => h.2 x fun hm => hx (hl hm)⟩

/-- A change of other areas than the vanes. -/
theorem AltersVane.of_vanes {c : Chip} (hb : c.vanes = b.vanes) (h : ∀ x, x ∉ l → x.same b c) : AltersVane l tp b c :=
  ⟨fun j _ => Chip.vane_congr hb j, h⟩

theorem AltersVane.refl (l : List Area) (tp : Nat) (b : Chip) : AltersVane l tp b b :=
  .of_vanes rfl fun x _ => Area.same_refl x b

theorem AltersVane.upTo (hl : .belfry ∈ l) (b : Chip) (t : Nat) : AltersVane l tp b (b.upTo t) :=
  .of_vanes rfl fun _ hx => Area.same_upTo (by rintro rfl; exact hx hl) b t

theorem AltersVane.modVane (hl : .vanes ∈ l) (b : Chip) (f : Vane → Vane) : AltersVane l tp b (b.modVane tp f) :=
  ⟨fun _ hj => Chip.vane_modVane_ne hj, fun _ hx => Area.same_vanes (by rintro rfl; exact hx hl) _ _⟩

theorem AltersVane.modBank (hl : .banks ∈ l) (b : Chip) (k : Nat) (g : Bank → Bank) : AltersVane l tp b (b.modBank k g) :=
  .of_vanes rfl fun _ hx => Area.same_banks (by rintro rfl; exact hx hl) _ _

theorem AltersVane.modPins (hl : .banks ∈ l) (b : Chip) (k : Nat) (g : Bank → Bank) : AltersVane l tp b (b.modPins k g) :=
  .trans (.modBank hl b k _) (.modBank hl _ k g)

theorem AltersVane.count (hl : .dict ∈ l) (b : Chip) (i j : Nat) : AltersVane l tp b (b.count i j) :=
  .of_vanes rfl fun _ hx => Area.same_count (by rintro rfl; exact hx hl) _ _ _

theorem AltersVane.logEvent (hl : logAreas ⊆ l) (b : Chip) (e : Ev) : AltersVane l tp b (b.logEvent e) :=
  .of_vanes (Chip.logEvent_vanes _ _) fun _ hx => Area.same_logEvent (fun ha => hx (hl ha)) b e

/-- What the vane's change comes to for the state. -/
theorem AltersVane.onlyTouches {s : State} {c : Chip} (h : AltersVane l tp s.toChip c) : OnlyTouches l s (s.on c) :=
  (OnlyTouches.refl _ s).extend h.2

theorem AltersVane.others {s : State} {c : Chip} (h : AltersVane l tp s.toChip c) :
    ∀ j, j ≠ tp → (s.on c).vane j = s.vane j := h.1

end

/-! ### The fields of a word -/

section
variable (w : BitVec 32)

theorem wordAction_eq : wordAction w = w.toNat / 2 ^ 28 := by
  have := w.isLt
  rw [wordAction, field, Nat.mod_eq_of_lt (by omega)]

theorem wordOffset_eq : wordOffset w = w.toNat % 2 ^ 22 := by simp [wordOffset, field]
theorem wordFine_eq : wordFine w = w.toNat / 2 ^ 22 % 64 := rfl

end

/-- Every action but EPOCH has a code below 15 (R56). -/
theorem actOf_ne_epoch {n : Nat} (h : n < 16) (h' : n ≠ 15) : actOf n ≠ .epoch := by
  interval_cases n <;> simp_all [actOf]

/-- A queue without EPOCH words stays as it is. -/
theorem dropEpochs_of_none {q : List (Act × Nat × BitVec 32)} (h : ∀ x ∈ q, x.1 ≠ .epoch) : dropEpochs q = q := by
  cases q with
  | nil => rfl
  | cons x t =>
    exact List.dropWhile_cons_of_neg (by simpa using h x (by simp))

/-! ### Acceptance of a word -/

section
variable {b : Chip} {tp : Nat} {w : BitVec 32}

/-- The vane has accepted a word in the present region cycle (R58). -/
def Chip.accepting (b : Chip) (tp : Nat) : Chip :=
  b.modVane tp fun v => { v with accepted := some (b.isle (bankRegion (tpBank tp))) }

theorem Chip.accepting_vane (b : Chip) (tp : Nat) :
    (b.accepting tp).vane tp = { b.vane tp with accepted := some (b.isle (bankRegion (tpBank tp))) } :=
  Chip.vane_modVane b tp fun v => { v with accepted := some (b.isle (bankRegion (tpBank tp))) }

/-- Acceptance leaves the queue epoch. -/
theorem Chip.accepting_vaneQe (b : Chip) (tp : Nat) : (b.accepting tp).vaneQe tp = b.vaneQe tp := by
  rw [Chip.vaneQe, Chip.accepting_vane]
  rfl

/-- The instant of a word by its vane's queue epoch (R57). -/
def Chip.wordAt (b : Chip) (tp : Nat) (w : BitVec 32) : Nat :=
  (b.vaneQe tp * 2 ^ 22 + w.toNat % 2 ^ 22) * 64 + w.toNat / 2 ^ 22 % 64

theorem Chip.accepting_wordInstant (b : Chip) (tp : Nat) (w : BitVec 32) :
    (b.accepting tp).wordInstant tp w = b.wordAt tp w := by
  rw [Chip.wordInstant, Chip.accepting_vaneQe, wordOffset_eq, wordFine_eq, Chip.wordAt]

theorem Chip.vaneWord_accepts (hr : b.vaneReady tp = true) (hf : b.fabricRuns (bankRegion (tpBank tp)) = true)
    (ha : (b.vane tp).accepted ≠ some (b.isle (bankRegion (tpBank tp)))) :
    b.vaneWord tp w =
      if wordAction w = 15 then (b.accepting tp).acceptEpoch tp w else (b.accepting tp).acceptTimed tp w :=
  if_pos (by simp [hr, hf, ha])

/-- A second word in one region cycle is not taken (R58). -/
theorem Chip.vaneWord_second (ha : (b.vane tp).accepted = some (b.isle (bankRegion (tpBank tp)))) :
    b.vaneWord tp w = b := if_neg (by simp [ha])

theorem Chip.acceptTimed_late (h : b.wordInstant tp w < (b.now + 12) * 64) : b.acceptTimed tp w = b.lateWord tp false :=
  if_pos h

theorem Chip.acceptTimed_queued (h : (b.now + 12) * 64 ≤ b.wordInstant tp w)
    (h' : b.wordInstant tp w ≤ (b.now + 8388608) * 64)
    (hl : ∀ x, (b.vane tp).last = some x → x ≤ b.wordInstant tp w) :
    b.acceptTimed tp w = b.queueWord tp (actOf (wordAction w)) (b.wordInstant tp w) w (some (b.wordInstant tp w)) := by
  refine (if_neg (Nat.not_lt.2 h)).trans (if_neg ?_)
  cases hv : (b.vane tp).last with
  | none => simp [h']
  | some x => simp [h', hl x hv]

/-- In a region that no partition holds no slot is checked (R92). -/
theorem Chip.slotMiss_free {r : Nat} (h : b.regionPart r = none) (m : MissInfo) (inj : Bool) : b.slotMiss r m inj = b := by
  have hn : (if b.checksSlots r then b.regionPart r else none) = none := by rw [h, ite_self]
  simp only [Chip.slotMiss, Chip.slotMissAs, hn]

/-- A late word of a region without a partition is counted, and no more (R58, R90). -/
theorem Chip.lateWord_free (h : b.regionPart (bankRegion (tpBank tp)) = none) (inj : Bool) :
    b.lateWord tp inj = b.count 0x2418 3 := Chip.slotMiss_free (b := b.count 0x2418 3) h _ _

/-- An EPOCH word with an offset adds it to the queue epoch (R57). -/
theorem Chip.acceptEpoch_offset (hf : wordFine w = 0) (ho : wordOffset w ≠ 0) :
    b.acceptEpoch tp w = (b.modVane tp fun v => { v with qe := some ((b.vaneQe tp + wordOffset w) % 2 ^ 42) }).queueWord
      tp .epoch 0 w (b.vane tp).last := by
  simp only [Chip.acceptEpoch, hf, ho, ne_eq, not_true_eq_false, if_false]

theorem Chip.accepting_alters {l : List Area} (hl : .vanes ∈ l) (b : Chip) (tp : Nat) : AltersVane l tp b (b.accepting tp) :=
  .modVane hl b _

theorem AltersVane.queueWord {l : List Area} (hl : .vanes ∈ l) (b : Chip) (a : Act) (i : Nat) (w : BitVec 32)
    (x : Option Nat) : AltersVane l tp b (b.queueWord tp a i w x) := .modVane hl b _

theorem Chip.vaneQe_upTo (b : Chip) (t tp : Nat) : (b.upTo t).vaneQe tp = b.vaneQe tp := Chip.vaneQe_congr rfl rfl tp

theorem Chip.wordAt_upTo (b : Chip) (t tp : Nat) (w : BitVec 32) : (b.upTo t).wordAt tp w = b.wordAt tp w := by
  rw [Chip.wordAt, Chip.vaneQe_upTo, Chip.wordAt]

/-- A timed word in time and in order joins the queue behind words that are not EPOCH words (R58). -/
theorem Chip.acceptTimed_joins (hw : w.toNat / 2 ^ 28 ≠ 15) (h1 : (b.now + 12) * 64 ≤ b.wordAt tp w)
    (h2 : b.wordAt tp w ≤ (b.now + 8388608) * 64) (hl : ∀ x, (b.vane tp).last = some x → x ≤ b.wordAt tp w)
    (hq : ∀ x ∈ (b.vane tp).queue, x.1 ≠ .epoch) :
    ((b.accepting tp).acceptTimed tp w).vane tp = { b.vane tp with
        accepted := some (b.isle (bankRegion (tpBank tp)))
        queue := (b.vane tp).queue ++ [(actOf (w.toNat / 2 ^ 28), b.wordAt tp w, w)]
        last := some (b.wordAt tp w) } ∧
      AltersVane [.vanes] tp b ((b.accepting tp).acceptTimed tp w) := by
  have hi : (b.accepting tp).wordInstant tp w = b.wordAt tp w := b.accepting_wordInstant tp w
  have ha : actOf (w.toNat / 2 ^ 28) ≠ .epoch := actOf_ne_epoch (by have := w.isLt; omega) hw
  have hj : dropEpochs ((b.vane tp).queue ++ [(actOf (w.toNat / 2 ^ 28), b.wordAt tp w, w)]) =
      (b.vane tp).queue ++ [(actOf (w.toNat / 2 ^ 28), b.wordAt tp w, w)] := dropEpochs_of_none fun x hx => by
    rcases List.mem_append.1 hx with hx | hx
    · exact hq x hx
    · rw [List.mem_singleton.1 hx]
      exact ha
  rw [Chip.acceptTimed_queued (by rw [hi]; exact h1) (by rw [hi]; exact h2)
    (by rw [hi, Chip.accepting_vane]; exact hl), hi, wordAction_eq]
  refine ⟨?_, .trans (Chip.accepting_alters (by simp) b tp) (.queueWord (by simp) _ _ _ _ _)⟩
  rw [Chip.queueWord, Chip.vane_modVane, Chip.accepting_vane, hj]

end

/-- Settles O10: acceptance is one equation (`Chip.vaneWord_accepts`), and each check of the word one more. -/
theorem vanesAcceptEventWords : Obligations.VanesAcceptEventWords := by
  unfold Obligations.VanesAcceptEventWords
  intro tick cycle ready instant
  refine ⟨?_, ?_, ?_, ?_⟩
  · intro s tp t0 w ⟨hr, hf, ha⟩ hw h1 h2 hl hq
    have hi := s.toChip.wordAt_upTo t0 tp w
    have h1' : ((s.toChip.upTo t0).now + 12) * 64 ≤ s.toChip.wordAt tp w := h1
    have h2' : s.toChip.wordAt tp w ≤ ((s.toChip.upTo t0).now + 8388608) * 64 := h2
    have hl' : ∀ x, (s.vane tp).last = some x → x ≤ s.toChip.wordAt tp w := hl
    have he := Chip.vaneWord_accepts (b := s.toChip.upTo t0) (w := w) hr hf ha
    rw [if_neg (by rw [wordAction_eq]; exact hw)] at he
    obtain ⟨hv, hc⟩ := Chip.acceptTimed_joins (b := s.toChip.upTo t0) hw (by rw [hi]; exact h1') (by rw [hi]; exact h2')
      (by rw [hi]; exact hl') hq
    rw [hi] at hv
    have hs := (AltersVane.upTo (l := [.belfry, .vanes]) (tp := tp) (by simp) s.toChip t0).trans (hc.mono (by simp))
    refine ⟨_, congrArg (fun b => Host.Outcome.next (s.on b)) he, ?_, ?_, ?_, hs.others, hs.onlyTouches⟩
    · rw [State.on_toChip, hv]
      rfl
    · rw [State.on_toChip, hv]
      rfl
    · have hb : ((s.toChip.upTo t0).accepting tp |>.acceptTimed tp w).belfry = (s.toChip.upTo t0).belfry :=
        hc.2 .belfry (by simp)
      rw [State.on_toChip, Chip.now, hb]
      rfl
  · intro s tp t0 w ⟨hr, hf, ha⟩ hw h1 hp
    have h1' : s.toChip.wordAt tp w < ((s.toChip.upTo t0).now + 12) * 64 := h1
    have he := Chip.vaneWord_accepts (b := s.toChip.upTo t0) (w := w) hr hf ha
    rw [if_neg (by rw [wordAction_eq]; exact hw), Chip.acceptTimed_late (by
      rw [Chip.accepting_wordInstant, Chip.wordAt_upTo]; exact h1'),
      Chip.lateWord_free (b := (s.toChip.upTo t0).accepting tp) hp] at he
    have hs : AltersVane [.belfry, .vanes, .dict] tp s.toChip (((s.toChip.upTo t0).accepting tp).count 0x2418 3) :=
      .trans (.trans (.upTo (by simp) _ _) (Chip.accepting_alters (by simp) _ _)) (.count (by simp) _ _ _)
    refine ⟨_, congrArg (fun b => Host.Outcome.next (s.on b)) he, ?_, ?_, hs.others, hs.onlyTouches⟩
    · exact Chip.reg_setReg_self _ _ _ _
    · exact Chip.accepting_vane _ _
  · intro s tp t0 w ha
    exact ⟨_, congrArg (fun b => Host.Outcome.next (s.on b)) (Chip.vaneWord_second (b := s.toChip.upTo t0) ha), rfl, rfl,
      OnlyTouches.upTo (by simp) s t0⟩
  · intro s tp t0 w ⟨hr, hf, ha⟩ hw hfine hoff
    have hw' : wordAction w = 15 := by rw [wordAction_eq]; exact hw
    have he := Chip.vaneWord_accepts (b := s.toChip.upTo t0) (w := w) hr hf ha
    rw [if_pos hw', Chip.acceptEpoch_offset hfine (by rw [wordOffset_eq]; exact hoff), Chip.accepting_vaneQe,
      Chip.vaneQe_upTo, wordOffset_eq] at he
    have hs : AltersVane [.belfry, .vanes] tp s.toChip ((s.toChip.upTo t0).vaneWord tp w) := by
      rw [he]
      exact .trans (.trans (.trans (.upTo (by simp) _ _) (Chip.accepting_alters (by simp) _ _)) (.modVane (by simp) _ _))
        (.queueWord (by simp) _ _ _ _ _)
    refine ⟨s.on ((s.toChip.upTo t0).vaneWord tp w), congrArg (fun b => Host.Outcome.next (s.on b)) (if_pos hw'), ?_, ?_,
      hs.others, hs.onlyTouches⟩
    all_goals rw [State.on_toChip, he]
    · rw [Chip.vaneQe, Chip.queueWord, Chip.vane_modVane, Chip.vane_modVane]
    · rw [Chip.queueWord, Chip.vane_modVane, Chip.accepting_vane]
      rfl

end Sys2Proof.Machine

namespace Sys2Proof.Machine
open Sys2Proof

/-! ### Pins of a bank -/

section
variable {v : BitVec 64} {n : Nat} {x : Bool}

theorem getLsbD_setPin_self (h : n < 64) : (setPin v n x).getLsbD n = x := by
  cases x <;> simp [setPin, h]

theorem getLsbD_setPin_ne {m : Nat} (h : m ≠ n) : (setPin v n x).getLsbD m = v.getLsbD m := by
  by_cases hm : m < 64
  · have hs : (1#64 <<< n).getLsbD m = false := by
      by_cases hl : m < n
      · simp [hl]
      · have : m - n ≠ 0 := by omega
        simp [this]
    cases x with
    | false => simp only [setPin, Bool.false_eq_true, if_false, BitVec.getLsbD_and, BitVec.getLsbD_not, hs, hm,
        Bool.not_false, decide_true, Bool.and_true]
    | true => simp only [setPin, if_true, BitVec.getLsbD_or, hs, Bool.or_false]
  · rw [BitVec.getLsbD_of_ge _ _ (by omega), BitVec.getLsbD_of_ge _ _ (by omega)]

end

section
variable (q : Bank) {n : Nat} (oe level parked : Bool)

/-- What a vane sets on its pin. -/
theorem Bank.drivePin_self (h : n < 64) :
    (q.drivePin n oe level parked).vOe.getLsbD n = oe ∧ (q.drivePin n oe level parked).parkedPins.getLsbD n = parked ∧
      (oe = true → (q.drivePin n oe level parked).vLevel.getLsbD n = level) := by
  refine ⟨getLsbD_setPin_self h, getLsbD_setPin_self h, fun ho => ?_⟩
  simp only [Bank.drivePin, ho, if_true]
  exact getLsbD_setPin_self h

/-- Every other pin stays as it is. -/
theorem Bank.drivePin_ne {m : Nat} (h : m ≠ n) :
    (q.drivePin n oe level parked).vOe.getLsbD m = q.vOe.getLsbD m ∧
      (q.drivePin n oe level parked).parkedPins.getLsbD m = q.parkedPins.getLsbD m ∧
      (q.drivePin n oe level parked).vLevel.getLsbD m = q.vLevel.getLsbD m := by
  refine ⟨getLsbD_setPin_ne h, getLsbD_setPin_ne h, ?_⟩
  simp only [Bank.drivePin]
  split
  · exact getLsbD_setPin_ne h
  · rfl

end

theorem tpPos_lt (tp : Nat) : tpPos tp < 64 := Nat.mod_lt _ (by decide)

/-! ### The word at the head -/

section
variable {b : Chip} {tp i : Nat} {a : Act}

/-- The device at the instant of the head word with deskew, which has left the queue (R56, R67). -/
def Chip.headRun (b : Chip) (tp : Nat) (a : Act) (i : Nat) : Chip :=
  (b.upTo ((b.vane tp).deskewed a i / 64)).modVane tp fun v => { v with queue := dropEpochs (v.queue.drop 1) }

theorem Chip.headRun_vane (b : Chip) (tp : Nat) (a : Act) (i : Nat) :
    (b.headRun tp a i).vane tp = { b.vane tp with queue := dropEpochs ((b.vane tp).queue.drop 1) } :=
  Chip.vane_modVane (b.upTo ((b.vane tp).deskewed a i / 64)) tp fun v => { v with queue := dropEpochs (v.queue.drop 1) }

theorem Chip.headRun_bank (b : Chip) (tp : Nat) (a : Act) (i k : Nat) : (b.headRun tp a i).bank k = b.bank k := rfl

theorem Chip.runWord_head (h : ∃ w rest, (b.vane tp).queue = (a, i, w) :: rest) (f : Chip → Nat → Chip) :
    b.runWord tp a f = f (b.headRun tp a i) i := by
  obtain ⟨w, rest, h⟩ := h
  have hh : b.headWord tp a = some i := by simp [Chip.headWord, h]
  simp only [Chip.runWord, hh]
  rfl

/-- What the effect of a vane's word may change: the banks, and its own vane, whose queue stays. -/
def VaneEffect (tp : Nat) (c d : Chip) : Prop :=
  AltersVane [.banks, .vanes] tp c d ∧ (d.vane tp).queue = (c.vane tp).queue

theorem VaneEffect.refl (tp : Nat) (c : Chip) : VaneEffect tp c c := ⟨.refl _ _ _, rfl⟩

theorem VaneEffect.trans {c d e : Chip} (h : VaneEffect tp c d) (h' : VaneEffect tp d e) : VaneEffect tp c e :=
  ⟨h.1.trans h'.1, h'.2.trans h.2⟩

theorem VaneEffect.modVane (c : Chip) {f : Vane → Vane} (h : ∀ v, (f v).queue = v.queue) :
    VaneEffect tp c (c.modVane tp f) := ⟨.modVane (by simp) _ _, by rw [Chip.vane_modVane, h]⟩

theorem VaneEffect.modPins (c : Chip) (k : Nat) (g : Bank → Bank) : VaneEffect tp c (c.modPins k g) :=
  ⟨.modPins (by simp) _ _ _, congrArg Vane.queue (Chip.vane_congr rfl tp)⟩

/-- What a word that has run leaves: the rest of the queue without EPOCH words at its head, the tick of its instant with deskew, and
every other vane (R56, R67). -/
def RanWord (s t : State) (tp : Nat) (a : Act) (i : Nat) : Prop :=
  (t.vane tp).queue = ((s.vane tp).queue.drop 1).dropWhile (fun x => x.1 == .epoch) ∧
    t.now = (s.toChip.upTo ((s.vane tp).deskewed a i / 64)).now ∧
      (∀ j, j ≠ tp → t.vane j = s.vane j) ∧ OnlyTouches [.belfry, .banks, .vanes] s t

theorem VaneEffect.ran {s : State} {d : Chip} (h : VaneEffect tp (s.toChip.headRun tp a i) d) :
    RanWord s (s.on d) tp a i := by
  have hs : AltersVane [.belfry, .banks, .vanes] tp s.toChip d :=
    .trans (.trans (.upTo (by simp) _ _) (.modVane (by simp) _ _)) (h.1.mono (by simp))
  have hb : d.belfry = (s.toChip.headRun tp a i).belfry := h.1.2 .belfry (by simp)
  refine ⟨?_, ?_, hs.others, hs.onlyTouches⟩
  · rw [State.on_toChip, h.2, Chip.headRun_vane]
    rfl
  · rw [State.on_toChip, Chip.now, hb]
    rfl

end

/-! ### The effects of the actions -/

section
variable {b : Chip} {tp i : Nat}

theorem Chip.fifoPut_room {e : BitVec 32} (hl : (b.vane tp).lost = 0) (hf : (b.vane tp).fifo.length < 32) :
    b.fifoPut tp e = b.modVane tp fun v =>
      { v with fifo := v.fifo ++ [e], lost := if field e.toNat 29 3 = 7 then 0 else v.lost } := if_pos ⟨hf, .inl hl⟩

/-- The FIFO has room for an entry at instant i, in the epoch of the one before it (R60, R61). -/
def Chip.Room (b : Chip) (tp i : Nat) : Prop :=
  (b.vane tp).lost = 0 ∧ (b.vane tp).fifo.length < 32 ∧ (b.vane tp).fifoEpoch = some (i / 64 / 2 ^ 22)

/-- What keeps FIFO, loss and epoch keeps the room. -/
theorem Chip.Room.congr {c : Chip} (h : b.Room tp i) (hl : (c.vane tp).lost = (b.vane tp).lost)
    (hf : (c.vane tp).fifo = (b.vane tp).fifo) (he : (c.vane tp).fifoEpoch = (b.vane tp).fifoEpoch) : c.Room tp i := by
  rwa [Chip.Room, hl, hf, he]

/-- A capture entry that finds room in the FIFO, in the epoch of the one before it (R60, R61). -/
theorem Chip.capture_room (h : b.Room tp i) (kind : Nat) (level : Bool) :
    b.capture tp kind level i = (b.modVane tp fun v => { v with fifoEpoch := some (i / 64 / 2 ^ 22) }).modVane tp fun v =>
      { v with
        fifo := v.fifo ++ [capEntry kind level i (i / 64)]
        lost := if field (capEntry kind level i (i / 64)).toNat 29 3 = 7 then 0 else v.lost } := by
  obtain ⟨hl, hf, he⟩ := h
  have ho : b.fifoOverflow tp = b := if_neg (by simp [hl])
  unfold Chip.capture
  extract_lets epoch b1 b2 b3
  have h2 : b2 = b := (if_pos (show (b1.vane tp).fifoEpoch = some epoch by rw [show b1 = b from ho, he])).trans ho
  have h3 : b3 = b.modVane tp fun v => { v with fifoEpoch := some epoch } :=
    (if_pos (show (b2.vane tp).lost = 0 by rw [h2, hl])).trans (by rw [h2])
  rw [h3]
  exact Chip.fifoPut_room (by rw [Chip.vane_modVane]; exact hl) (by rw [Chip.vane_modVane]; exact hf)

theorem Chip.capture_vane (h : b.Room tp i) (kind : Nat) (level : Bool) :
    (b.capture tp kind level i).vane tp =
      { b.vane tp with fifo := (b.vane tp).fifo ++ [capEntry kind level i (i / 64)] } := by
  rw [Chip.capture_room h, Chip.vane_modVane, Chip.vane_modVane]
  obtain ⟨hl, -, he⟩ := h
  simp [hl, he]

theorem Chip.capture_alters (h : b.Room tp i) (kind : Nat) (level : Bool) :
    AltersVane [.vanes] tp b (b.capture tp kind level i) := by
  rw [Chip.capture_room h]
  exact .trans (.modVane (by simp) _ _) (.modVane (by simp) _ _)

end

/-! ### Drive actions -/

section
variable {b : Chip} {tp i : Nat}

theorem VaneEffect.setDriver (c : Chip) (oe level parked : Bool) : VaneEffect tp c (c.setDriver tp oe level parked) :=
  .modPins c _ _

/-- A drive, RELEASE or PARK action that nothing keeps from its pin sets the driver (R58, R59). -/
theorem Chip.driveAction_sets (hr : (b.vane tp).reflex = false)
    (hp : (b.paired (tpBank tp) (tpPos tp) && tpPos tp % 2 == 1) = false) (hs : b.superseded tp i = false)
    (ht : b.tooSoon tp i = false) (oe level parked : Bool) :
    (b.driveAction tp i oe level parked).banks = (b.setDriver tp oe level parked).banks ∧
      VaneEffect tp b (b.driveAction tp i oe level parked) := by
  unfold Chip.driveAction
  extract_lets k n q v same
  rw [if_neg (by simp only [show v.reflex = false from hr, Bool.false_and, Bool.false_or]; exact Bool.eq_false_iff.1 hp),
    if_neg (Bool.eq_false_iff.1 hs), if_neg (Bool.eq_false_iff.1 ht)]
  split
  · exact ⟨rfl, .setDriver b _ _ _⟩
  · exact ⟨rfl, .trans (.setDriver b _ _ _) (.modVane _ fun _ => rfl)⟩

/-- The odd pin of a pair is its even pin's (R74). -/
theorem Chip.driveAction_contends (hp : b.paired (tpBank tp) (tpPos tp) = true) (hn : tpPos tp % 2 = 1)
    (oe level parked : Bool) : b.driveAction tp i oe level parked = b.contend tp false :=
  if_pos (by simp [hp, hn])

theorem Chip.setDriver_bank (b : Chip) (tp : Nat) (oe level parked : Bool) :
    (b.setDriver tp oe level parked).bank (tpBank tp) =
      let q := ({ b.bank (tpBank tp) with shown := b.noted (tpBank tp) } : Bank).drivePin (tpPos tp) oe level parked
      if b.paired (tpBank tp) (tpPos tp) then q.drivePin (tpPos tp + 1) oe (!level) false else q :=
  Chip.bank_modPins b (tpBank tp) _

/-- What a driver that is set shows of its pin. -/
theorem Chip.setDriver_pin (b : Chip) (tp : Nat) (oe level parked : Bool) :
    ((b.setDriver tp oe level parked).bank (tpBank tp)).vOe.getLsbD (tpPos tp) = oe ∧
      ((b.setDriver tp oe level parked).bank (tpBank tp)).parkedPins.getLsbD (tpPos tp) = parked ∧
      (oe = true → ((b.setDriver tp oe level parked).bank (tpBank tp)).vLevel.getLsbD (tpPos tp) = level) := by
  have hs := Bank.drivePin_self { b.bank (tpBank tp) with shown := b.noted (tpBank tp) } oe level parked (tpPos_lt tp)
  rw [Chip.setDriver_bank]
  extract_lets src q
  split
  · obtain ⟨h1, h2, h3⟩ := Bank.drivePin_ne q oe (!level) false (n := tpPos tp + 1) (m := tpPos tp) (by omega)
    rw [h1, h2, h3]
    exact hs
  · exact hs

/-- In a pair the odd pin takes the complement (R74). -/
theorem Chip.setDriver_odd (hp : b.paired (tpBank tp) (tpPos tp) = true) (hn : tpPos tp % 2 = 0) (level parked : Bool) :
    ((b.setDriver tp true level parked).bank (tpBank tp)).vOe.getLsbD (tpPos tp + 1) = true ∧
      ((b.setDriver tp true level parked).bank (tpBank tp)).vLevel.getLsbD (tpPos tp + 1) = !level := by
  have hlt : tpPos tp + 1 < 64 := by have := tpPos_lt tp; omega
  rw [Chip.setDriver_bank]
  extract_lets src q
  obtain ⟨h1, -, h3⟩ := Bank.drivePin_self q true (!level) false hlt
  rw [if_pos hp]
  exact ⟨h1, h3 rfl⟩

/-- No word of another instant takes the place of one (R58). -/
theorem Chip.headRun_superseded (a : Act) (h : ∀ x ∈ (b.vane tp).queue.tail, x.2.1 ≠ i) :
    (b.headRun tp a i).superseded tp i = false := by
  rw [Chip.superseded, Chip.headRun_vane, List.any_eq_false]
  intro x hx
  have hm : x ∈ (b.vane tp).queue.tail := by
    rw [← List.drop_one]
    exact (List.dropWhile_sublist _).subset hx
  simp [h x hm]

theorem Chip.headRun_tooSoon (b : Chip) (tp : Nat) (a : Act) (i : Nat) :
    (b.headRun tp a i).tooSoon tp i = b.tooSoon tp i := by
  rw [Chip.tooSoon, Chip.headRun_vane, Chip.headRun_bank, Chip.tooSoon]

/-- A contention shows on its pin and is counted; it drives nothing (R74). -/
theorem Chip.contend_result (b : Chip) (tp : Nat) (inj : Bool) :
    ((b.contend tp inj).bank (tpBank tp)).contention.getLsbD (tpPos tp) = true ∧
      ((b.contend tp inj).bank (tpBank tp)).vOe = (b.bank (tpBank tp)).vOe ∧
      ((b.contend tp inj).bank (tpBank tp)).vLevel = (b.bank (tpBank tp)).vLevel ∧
      (b.contend tp inj).reg 0x2418 7 = sat32 (b.reg 0x2418 7 + 1) := by
  unfold Chip.contend
  extract_lets k seen c
  have hb : c.bank k = { b.bank k with contention := setPin (b.bank k).contention (tpPos tp) true } :=
    Chip.bank_modBank b k fun q => { q with contention := setPin q.contention (tpPos tp) true }
  have hc : c.reg 0x2418 7 = sat32 (b.reg 0x2418 7 + 1) := Chip.reg_setReg_self _ _ _ _
  have h : (c.bank k).contention.getLsbD (tpPos tp) = true ∧ (c.bank k).vOe = (b.bank k).vOe ∧
      (c.bank k).vLevel = (b.bank k).vLevel := by
    rw [hb]
    exact ⟨getLsbD_setPin_self (tpPos_lt tp), rfl, rfl⟩
  split
  · exact ⟨h.1, h.2.1, h.2.2, hc⟩
  · rw [Chip.bank_congr (Chip.logEvent_banks _ _), Chip.logEvent_reg_quiet (by simp [QuietReg, key])]
    exact ⟨h.1, h.2.1, h.2.2, hc⟩

end

/-! ### Windows and the reflex path -/

section
variable {b : Chip} {tp i : Nat}

theorem Vane.winClose_keeps (v : Vane) (c : Nat) : (v.winClose c).queue = v.queue ∧ (v.winClose c).fail = v.fail ∧
    (v.winClose c).lost = v.lost ∧ (v.winClose c).fifo = v.fifo ∧ (v.winClose c).fifoEpoch = v.fifoEpoch := by
  unfold Vane.winClose
  split <;> exact ⟨rfl, rfl, rfl, rfl, rfl⟩

/-- The pulse of a window that closes comes in the next cycle, where no earlier one is still to come (R63). -/
theorem Vane.winClose_pulse {v : Vane} {c : Nat} {e f : Bool} (h : v.window = some (e, f)) (ho : ∀ x ∈ v.winOut, x.1 ≤ c) :
    (v.winClose c).winOut.getLast? = some (c + 1, f) := by
  simp only [Vane.winClose, h, List.getLast?_append, List.getLast?_singleton, Option.some_or]
  cases hl : v.winOut.getLast? with
  | none => rfl
  | some x => simp [ho x (List.mem_of_getLast? hl)]

/-- The window that the action opens, before a wrong level fails it (R63). -/
def Chip.windowOpened (b : Chip) (tp : Nat) (expect : Bool) : Chip :=
  (b.closeWindow tp).modVane tp fun v => { v with window := some (expect, false) }

theorem Chip.windowOpened_vane (b : Chip) (tp : Nat) (expect : Bool) :
    (b.windowOpened tp expect).vane tp =
      { (b.vane tp).winClose (b.isle (bankRegion (tpBank tp))) with window := some (expect, false) } := by
  rw [Chip.windowOpened, Chip.vane_modVane, Chip.closeWindow, Chip.vane_modVane]

theorem VaneEffect.closeWindow (c : Chip) : VaneEffect tp c (c.closeWindow tp) :=
  .modVane c fun v => (v.winClose_keeps _).1

theorem VaneEffect.windowOpened (c : Chip) (expect : Bool) : VaneEffect tp c (c.windowOpened tp expect) :=
  .trans (.closeWindow c) (.modVane _ fun _ => rfl)

theorem Chip.openWindow_good (b : Chip) (tp : Nat) (expect : Bool) (i : Nat) :
    b.openWindow tp expect expect i = b.windowOpened tp expect := if_pos rfl

theorem Chip.openWindow_fails {expect level : Bool} (h : level ≠ expect) (b : Chip) (tp i : Nat) :
    b.openWindow tp expect level i = (b.windowOpened tp expect).failWindow tp level i := if_neg h

/-- The window has failed, before its entry (R63). -/
def Chip.windowFailed (b : Chip) (tp : Nat) : Chip :=
  let c := b.isle (bankRegion (tpBank tp))
  b.modVane tp fun v =>
    { v with fail := true, failAt := some c, window := v.window.map fun (x : Bool × Bool) => (x.1, true) }

theorem Chip.windowFailed_vane (b : Chip) (tp : Nat) : (b.windowFailed tp).vane tp =
    { b.vane tp with
      fail := true
      failAt := some (b.isle (bankRegion (tpBank tp)))
      window := (b.vane tp).window.map fun (x : Bool × Bool) => (x.1, true) } := by
  rw [Chip.windowFailed, Chip.vane_modVane]

/-- The first deviation of a window that finds room for its entry (R63). -/
theorem Chip.failWindow_vane (h : b.Room tp i) (level : Bool) :
    (b.failWindow tp level i).vane tp = { b.vane tp with
        fail := true
        failAt := some (b.isle (bankRegion (tpBank tp)))
        window := (b.vane tp).window.map fun (x : Bool × Bool) => (x.1, true)
        fifo := (b.vane tp).fifo ++ [capEntry 5 level i (i / 64)] } ∧
      AltersVane [.vanes] tp b (b.failWindow tp level i) := by
  have hd := b.windowFailed_vane tp
  have hr : (b.windowFailed tp).Room tp i := h.congr (by rw [hd]) (by rw [hd]) (by rw [hd])
  exact ⟨(Chip.capture_vane hr 5 level).trans (by rw [hd]),
    .trans (.modVane (by simp) _ _) (Chip.capture_alters hr 5 level)⟩

theorem VaneEffect.reflexArm (c : Chip) (i : Nat) : VaneEffect tp c (c.reflexArm tp i) :=
  .trans (.modPins c _ _) (.modVane _ fun _ => rfl)

theorem Chip.reflexArm_vane (b : Chip) (tp i : Nat) :
    (b.reflexArm tp i).vane tp = { b.vane tp with reflex := true, reflexAt := i } := by
  rw [Chip.reflexArm, Chip.vane_modVane]
  rfl

theorem Chip.reflexArm_bank (b : Chip) (tp i : Nat) : (b.reflexArm tp i).bank (tpBank tp) =
    { b.bank (tpBank tp) with
      shown := b.noted (tpBank tp), parkedPins := setPin (b.bank (tpBank tp)).parkedPins (tpPos tp) false } :=
  (Chip.bank_congr (b := b.reflexArm tp i)
    (c := b.modPins (tpBank tp) fun q => { q with parkedPins := setPin q.parkedPins (tpPos tp) false }) rfl _).trans
    (by rw [Chip.bank_modPins])

theorem Chip.reflexArm_parked (b : Chip) (tp i : Nat) :
    ((b.reflexArm tp i).bank (tpBank tp)).parkedPins.getLsbD (tpPos tp) = false := by
  rw [Chip.reflexArm_bank]
  exact getLsbD_setPin_self (tpPos_lt tp)

/-- The pin as the vane gets it back from the reflex path (R56, R70). -/
def Chip.reflexReturned (b : Chip) (tp : Nat) : Chip :=
  b.modPins (tpBank tp) fun q =>
    { q with vOe := setPin q.vOe (tpPos tp) (b.rfxDrive tp).1, vLevel := setPin q.vLevel (tpPos tp) (b.rfxDrive tp).2 }

theorem Chip.reflexReturned_pin (b : Chip) (tp : Nat) :
    ((b.reflexReturned tp).bank (tpBank tp)).vOe.getLsbD (tpPos tp) = (b.rfxDrive tp).1 ∧
      ((b.reflexReturned tp).bank (tpBank tp)).vLevel.getLsbD (tpPos tp) = (b.rfxDrive tp).2 := by
  rw [Chip.reflexReturned, Chip.bank_modPins]
  exact ⟨getLsbD_setPin_self (tpPos_lt tp), getLsbD_setPin_self (tpPos_lt tp)⟩

theorem Chip.reflexDisarm_held (h : (b.vane tp).reflex = true) :
    b.reflexDisarm tp = (b.reflexReturned tp).modVane tp fun v => { v with reflex := false } := if_pos h

theorem VaneEffect.reflexDisarm (h : (b.vane tp).reflex = true) : VaneEffect tp b (b.reflexDisarm tp) := by
  rw [Chip.reflexDisarm_held h]
  exact .trans (.modPins b _ _) (.modVane _ fun _ => rfl)

end

end Sys2Proof.Machine

namespace Sys2Proof.Machine
open Sys2Proof

section
variable {b : Chip} {tp i : Nat} {a : Act}

theorem act_runWord {s : State} (h : ∃ w rest, (s.vane tp).queue = (a, i, w) :: rest) (f : Chip → Nat → Chip) :
    act s (fun b => b.runWord tp a f) = .next (s.on (f (s.toChip.headRun tp a i) i)) :=
  congrArg (fun b => Host.Outcome.next (s.on b)) (Chip.runWord_head h f)

/-- A drive, RELEASE or PARK word that runs freely: its effect, and its pin (R58, R59). -/
theorem Chip.driveAction_runs (hr : (b.vane tp).reflex = false)
    (hp : (b.paired (tpBank tp) (tpPos tp) && tpPos tp % 2 == 1) = false) (ht : b.tooSoon tp i = false)
    (hq : ∀ x ∈ (b.vane tp).queue.tail, x.2.1 ≠ i) (oe level parked : Bool) :
    let d := (b.headRun tp a i).driveAction tp i oe level parked
    VaneEffect tp (b.headRun tp a i) d ∧ d.banks = ((b.headRun tp a i).setDriver tp oe level parked).banks ∧
      ((d.bank (tpBank tp)).vOe.getLsbD (tpPos tp) = oe ∧ (d.bank (tpBank tp)).parkedPins.getLsbD (tpPos tp) = parked) ∧
        (oe = true → (d.bank (tpBank tp)).vLevel.getLsbD (tpPos tp) = level) := by
  have hr' : ((b.headRun tp a i).vane tp).reflex = false := by rw [Chip.headRun_vane]; exact hr
  obtain ⟨hb, he⟩ := Chip.driveAction_sets (b := b.headRun tp a i) hr' hp (Chip.headRun_superseded a hq)
    ((Chip.headRun_tooSoon b tp a i).trans ht) oe level parked
  obtain ⟨h1, h2, h3⟩ := (b.headRun tp a i).setDriver_pin tp oe level parked
  intro d
  rw [Chip.bank_congr (b := d) hb]
  exact ⟨he, hb, ⟨h1, h2⟩, h3⟩

theorem Chip.armed_effect (b : Chip) (tp : Nat) (e : EdgeSel) (i : Nat) :
    VaneEffect tp b (b.arm tp e i) ∧ ((b.arm tp e i).vane tp).armed = some (e, i) :=
  ⟨.modVane b fun _ => rfl, by rw [Chip.arm, Chip.vane_modVane]⟩

/-- A capture entry in time for its FIFO, as the effect of a word. -/
theorem Chip.capture_effect (h : b.Room tp i) (kind : Nat) (level : Bool) :
    VaneEffect tp b (b.capture tp kind level i) ∧
      (b.capture tp kind level i).vane tp = { b.vane tp with fifo := (b.vane tp).fifo ++ [capEntry kind level i (i / 64)] } := by
  have hv := Chip.capture_vane h kind level
  exact ⟨⟨(Chip.capture_alters h kind level).mono (by simp), by rw [hv]⟩, hv⟩

theorem Chip.headRun_room (h : b.Room tp i) (a : Act) (j : Nat) : (b.headRun tp a j).Room tp i :=
  h.congr (by rw [Chip.headRun_vane]) (by rw [Chip.headRun_vane]) (by rw [Chip.headRun_vane])

/-- DISARM with a capture armed: the no-edge entry (R56). -/
theorem Chip.disarm_effect (h : b.Room tp i) (ha : (b.vane tp).armed.isSome = true) :
    VaneEffect tp b (b.disarm tp i) ∧ (b.disarm tp i).vane tp =
      { b.vane tp with armed := none, fifo := (b.vane tp).fifo ++ [capEntry 4 false i (i / 64)] } := by
  have hv := Chip.vane_modVane b tp fun v => { v with armed := none }
  obtain ⟨he, hc⟩ := Chip.capture_effect (b := b.modVane tp fun v => { v with armed := none }) (i := i)
    (h.congr (by rw [hv]) (by rw [hv]) (by rw [hv])) 4 false
  rw [Chip.disarm, if_pos ha]
  exact ⟨.trans (.modVane b (f := fun v => { v with armed := none }) fun _ => rfl) he, hc.trans (by rw [hv])⟩

/-- A window that opens with a wrong level fails at its opening (R63). -/
theorem Chip.openWindow_fail_effect (h : b.Room tp i) {expect level : Bool} (hn : level ≠ expect) :
    let d := b.openWindow tp expect level i
    VaneEffect tp b d ∧ (d.vane tp).fifo = (b.vane tp).fifo ++ [capEntry 5 level i (i / 64)] ∧
      (d.vane tp).window = some (expect, true) ∧ (d.vane tp).fail = true := by
  intro d
  have hw := b.windowOpened_vane tp expect
  obtain ⟨hq, -, hl, hf, he⟩ := (b.vane tp).winClose_keeps (b.isle (bankRegion (tpBank tp)))
  obtain ⟨hv, ha⟩ := Chip.failWindow_vane (b := b.windowOpened tp expect) (i := i)
    (h.congr (by rw [hw, hl]) (by rw [hw, hf]) (by rw [hw, he])) level
  have hd : d = (b.windowOpened tp expect).failWindow tp level i := Chip.openWindow_fails hn b tp i
  rw [hd, hv, hw]
  exact ⟨.trans (.windowOpened b expect) ⟨ha.mono (by simp), by rw [hv]⟩, by rw [hf], rfl, rfl⟩

end

/-- Settles O11: the head word leaves the queue (`Chip.runWord_head`), its action is a `VaneEffect`, and what it sets is read off
its equation. -/
theorem vaneActionsTakeEffectAtTheirInstant : Obligations.VaneActionsTakeEffectAtTheirInstant := by
  unfold Obligations.VaneActionsTakeEffectAtTheirInstant
  intro head then_ ran free pin room entered
  refine ⟨?_, ?_, ?_, ?_, ?_, ?_, ?_, ?_, ?_, ?_, ?_, ?_, ?_, ?_, ?_, ?_, ?_, ?_⟩
  · intro s tp i h
    exact ⟨_, act_runWord h _, (VaneEffect.refl tp _).ran, rfl⟩
  · intro s tp i h ⟨hr, hp, ht, hq⟩
    obtain ⟨he, -, hpin, hlev⟩ := Chip.driveAction_runs (a := .driveLow) hr (by simp [hp]) ht hq true false false
    exact ⟨_, act_runWord h _, he.ran, hpin, hlev rfl⟩
  · intro s tp i h ⟨hr, hp, ht, hq⟩
    obtain ⟨he, -, hpin, hlev⟩ := Chip.driveAction_runs (a := .driveHigh) hr (by simp [hp]) ht hq true true false
    exact ⟨_, act_runWord h _, he.ran, hpin, hlev rfl⟩
  · intro s tp i h ⟨hr, hp, ht, hq⟩
    obtain ⟨he, -, hpin, -⟩ := Chip.driveAction_runs (a := .release) hr (by simp [hp]) ht hq false false false
    exact ⟨_, act_runWord h _, he.ran, hpin⟩
  · intro s tp i h ⟨hr, hp, ht, hq⟩
    obtain ⟨he, -, hpin, -⟩ := Chip.driveAction_runs (a := .park) hr (by simp [hp]) ht hq (s.pinParkDrive tp).1
      (s.pinParkDrive tp).2 true
    exact ⟨_, act_runWord h _, he.ran, hpin⟩
  · intro s tp i h
    obtain ⟨he, ha⟩ := (s.toChip.headRun tp .captureRise i).armed_effect tp .rise i
    exact ⟨_, act_runWord h _, he.ran, ha, rfl⟩
  · intro s tp i h
    obtain ⟨he, ha⟩ := (s.toChip.headRun tp .captureFall i).armed_effect tp .fall i
    exact ⟨_, act_runWord h _, he.ran, ha, rfl⟩
  · intro s tp i h
    obtain ⟨he, ha⟩ := (s.toChip.headRun tp .captureAny i).armed_effect tp .any i
    exact ⟨_, act_runWord h _, he.ran, ha, rfl⟩
  · intro s tp i level h hroom
    obtain ⟨he, hv⟩ := Chip.capture_effect (Chip.headRun_room (b := s.toChip) hroom .sample i) 2 level
    refine ⟨_, act_runWord h _, he.ran, ?_, ?_⟩
    · simp only [entered, State.on_toChip, hv, Chip.headRun_vane]
    · exact (Chip.capture_alters (Chip.headRun_room (b := s.toChip) hroom .sample i) 2 level).2 .banks (by simp)
  · intro s tp i h hroom ha
    obtain ⟨he, hv⟩ := Chip.disarm_effect (Chip.headRun_room (b := s.toChip) hroom .disarm i)
      (by rw [Chip.headRun_vane]; exact ha)
    refine ⟨_, act_runWord h _, he.ran, ?_, ?_⟩
    · simp only [entered, State.on_toChip, hv, Chip.headRun_vane]
    · rw [State.on_toChip, hv]
  · intro s tp i h
    refine ⟨_, (act_runWord h _).trans (by rw [Chip.openWindow_good]), (VaneEffect.windowOpened _ false).ran, ?_, ?_⟩
    · rw [State.on_toChip, Chip.windowOpened_vane]
    · rw [State.on_toChip, Chip.windowOpened_vane, (Vane.winClose_keeps _ _).2.1, Chip.headRun_vane]
  · intro s tp i h
    refine ⟨_, (act_runWord h _).trans (by rw [Chip.openWindow_good]), (VaneEffect.windowOpened _ true).ran, ?_, ?_⟩
    · rw [State.on_toChip, Chip.windowOpened_vane]
    · rw [State.on_toChip, Chip.windowOpened_vane, (Vane.winClose_keeps _ _).2.1, Chip.headRun_vane]
  · intro s tp i h hroom
    obtain ⟨he, hf, hw, hfail⟩ := Chip.openWindow_fail_effect (Chip.headRun_room (b := s.toChip) hroom .windowLow i)
      (expect := false) (level := true) (by decide)
    refine ⟨_, act_runWord h _, he.ran, ?_, ?_, ?_⟩
    · simp only [entered, State.on_toChip, hf, Chip.headRun_vane]
    · rw [State.on_toChip, hw]
    · rw [State.on_toChip, hfail]
  · intro s tp i e f h hw
    have hv : ((s.toChip.headRun tp .windowClose i).closeWindow tp).vane tp = _ := Chip.vane_modVane _ _ _
    refine ⟨_, act_runWord h _, (VaneEffect.closeWindow _).ran, ?_, fun ho => ?_⟩
    · rw [State.on_toChip, hv, Vane.winClose_window]
    · rw [State.on_toChip, hv, Chip.headRun_vane]
      exact Vane.winClose_pulse (e := e) hw ho
  · intro s tp i h
    refine ⟨_, act_runWord h _, (VaneEffect.reflexArm _ i).ran, ?_, ?_, Chip.reflexArm_parked _ tp i⟩
    · rw [State.on_toChip, Chip.reflexArm_vane]
    · rw [State.on_toChip, Chip.reflexArm_vane]
  · intro s tp i h hr
    have hr' : ((s.toChip.headRun tp .reflexDisarm i).vane tp).reflex = true := by rw [Chip.headRun_vane]; exact hr
    obtain ⟨h1, h2⟩ := (s.toChip.headRun tp .reflexDisarm i).reflexReturned_pin tp
    have he := VaneEffect.reflexDisarm hr'
    refine ⟨_, act_runWord h _, he.ran, ?_, ?_⟩
    all_goals rw [State.on_toChip, Chip.reflexDisarm_held hr']
    · rw [Chip.vane_modVane]
    · exact ⟨h1, h2⟩
  · intro s tp i h hr hp hn ht hq
    obtain ⟨he, hb, hpin, hlev⟩ := Chip.driveAction_runs (a := .driveHigh) hr (by simp [hn]) ht hq true true false
    obtain ⟨h1, h2⟩ := Chip.setDriver_odd (b := s.toChip.headRun tp .driveHigh i) hp hn true false
    refine ⟨_, act_runWord h _, he.ran, hpin, hlev rfl, ?_⟩
    rw [State.on_toChip, Chip.bank_congr hb]
    exact ⟨h1, h2⟩
  · intro s tp i h hp hn
    refine ⟨_, (act_runWord h _).trans (by rw [Chip.driveAction_contends (b := s.toChip.headRun tp .driveHigh i) hp hn]), ?_⟩
    exact (s.toChip.headRun tp .driveHigh i).contend_result tp false

end Sys2Proof.Machine

namespace Sys2Proof.Machine
open Sys2Proof

/-! ### An entry of the log -/

section
variable {b : Chip}

theorem Chip.pushEntry_log (b : Chip) (e : Ev) (x : Bool) : (b.pushEntry e x).log = b.log.push (b.entry e x) := by
  unfold Chip.pushEntry
  extract_lets le lost b1 lan b2 b3 b4 po b5
  have h2 : b2.log = b.log.push (b.entry e x) := by
    unfold b2
    split <;> rfl
  have h5 : b5.log = b.log.push (b.entry e x) := by
    unfold b5 b4
    split <;> simp only [Chip.raiseOwner_log] <;> exact h2
  rw [Chip.emergency_log, h5]

/-- An event of another level than block and region makes its entry, and no other one where the buffer has room (R426, R475). -/
theorem Chip.logEvent_log {e : Ev} (h2 : e.code / 2 ^ 28 ≠ 2) (h3 : e.code / 2 ^ 28 ≠ 3) (hp : b.log.pending < 256) :
    (b.logEvent e).log = b.log.push (b.entry e false) := by
  unfold Chip.logEvent Chip.logAs
  extract_lets level lost c
  rw [if_neg fun h => h.2.elim h2 h3, if_neg fun h => (Nat.ne_of_lt hp) h.1]
  exact Chip.pushEntry_log _ _ _

/-- A bank's event is of level 1 (R76). -/
theorem bankEv_level {code : Nat} (h : code < 2 ^ 12) (k sev : Nat) (inj : Bool) (tp w : Nat) :
    (bankEv k code sev inj tp w).code / 2 ^ 28 = 1 := by
  simp only [bankEv, evCode]
  omega

/-- A vane is no part of an entry. -/
theorem Chip.modVane_entry (b : Chip) (tp : Nat) (f : Vane → Vane) (e : Ev) (x : Bool) :
    (b.modVane tp f).entry e x = b.entry e x := rfl

end

/-! ### Edges, deviations and the fabric's access -/

section
variable {b : Chip} {tp i : Nat}

/-- The first matching edge from the armed instant on (R62). -/
theorem Chip.captureEdge_recorded {e : EdgeSel} {from_ fine : Nat} {rising : Bool} (ha : (b.vane tp).armed = some (e, from_))
    (hm : e.matches rising = true) (hf : from_ ≤ b.recorded tp fine) (h : b.Room tp (b.recorded tp fine)) :
    (b.captureEdge tp rising fine).vane tp = { b.vane tp with
        armed := none
        fifo := (b.vane tp).fifo ++
          [capEntry (if rising then 0 else 1) rising (b.recorded tp fine) (b.recorded tp fine / 64)] } ∧
      AltersVane [.vanes] tp b (b.captureEdge tp rising fine) := by
  have hv := Chip.vane_modVane b tp fun v => { v with armed := none }
  have hr := Chip.Room.congr (c := b.modVane tp fun v => { v with armed := none }) h (by rw [hv]) (by rw [hv]) (by rw [hv])
  have he : b.captureEdge tp rising fine = (b.modVane tp fun v => { v with armed := none }).capture tp
      (if rising then 0 else 1) rising (b.recorded tp fine) := by
    simp only [Chip.captureEdge, ha, hm, hf, decide_true, Bool.and_true, if_true]
  rw [he]
  exact ⟨(Chip.capture_vane hr _ _).trans (by rw [hv]), .trans (.modVane (by simp) b _) (Chip.capture_alters hr _ _)⟩

/-- A deviation of 500 ps or more in a window that has not failed (R63). -/
theorem Chip.deviation_fails {e : Bool} {ps fine : Nat} (hw : (b.vane tp).window = some (e, false)) (hp : 500 ≤ ps) :
    b.deviation tp fine (!e) ps = b.failWindow tp (!e) (b.recorded tp fine) := by
  simp only [Chip.deviation, hw]
  exact (if_neg (by simp)).trans (if_pos hp)

/-- One pop in a region cycle removes the oldest entry, where there is one (R64). -/
theorem Chip.capturePop_pops (hf : b.fabricRuns (bankRegion (tpBank tp)) = true)
    (hp : ((b.vane tp).popped.map fun (x : Nat × BitVec 32) => x.1) ≠ some (b.isle (bankRegion (tpBank tp)))) :
    ((b.capturePop tp).vane tp).fifo = (b.vane tp).fifo.tail ∧ AltersVane [.vanes] tp b (b.capturePop tp) := by
  unfold Chip.capturePop
  extract_lets r c
  cases hq : (b.vane tp).fifo with
  | nil => exact ⟨hq, .refl _ _ _⟩
  | cons e rest =>
    dsimp only
    rw [if_pos (by simp only [Bool.and_eq_true, bne_iff_ne]; exact ⟨hf, hp⟩)]
    exact ⟨by rw [Chip.vane_modVane]; rfl, .modVane (by simp) _ _⟩

theorem Chip.vaneFailClear_runs (h : b.fabricRuns (bankRegion (tpBank tp)) = true) :
    b.vaneFailClear tp = b.modVane tp fun v =>
      { v with fail := v.fail && v.failAt == some (b.isle (bankRegion (tpBank tp))) } := if_pos h

/-! ### Calibration -/

theorem Chip.calibrated_enabled (h : b.reg 0x2418 1 = 1) :
    b.calibrated tp = b.modVane tp fun v => { v with calibrated := true } := if_pos h

theorem Chip.lineSwitch_switches (h : (b.vane tp).calibrated = true) (ht : b.tickFree tp = true) :
    b.lineSwitch tp = b.modVane tp fun v =>
      { v with line := !v.line, calibrated := false, deferred := false, degraded := false } := if_pos (by simp [h, ht])

theorem Chip.calibrationDeferred_logs (h : (b.vane tp).calibrated = true) (hd : (b.vane tp).deferred = false) :
    b.calibrationDeferred tp =
      (b.modVane tp fun v => { v with deferred := true }).logEvent (bankEv (tpBank tp) 7 1 false tp 0) :=
  if_pos (by simp [h, hd])

theorem Chip.calibrationLimit_logs (h : (b.vane tp).degraded = false) (inj : Bool) :
    b.calibrationLimit tp inj =
      (b.modVane tp fun v => { v with degraded := true }).logEvent (bankEv (tpBank tp) 8 3 inj tp 0) :=
  if_neg (by simp [h])

end

/-- Settles O12: each command changes its vane (`AltersVane`), whose record is read off the command's equation. -/
theorem vaneCapturesAndCalibration : Obligations.VaneCapturesAndCalibration := by
  unfold Obligations.VaneCapturesAndCalibration
  intro cycle room others
  refine ⟨?_, ?_, ?_, ?_, ?_, ?_, ?_, ?_⟩
  · intro s tp fine from_ e rising ha hm hf hr
    obtain ⟨hv, hc⟩ := Chip.captureEdge_recorded (b := s.toChip.upTo (fine / 64)) ha hm hf hr
    have hs := (AltersVane.upTo (l := [.belfry, .vanes]) (tp := tp) (by simp) s.toChip (fine / 64)).trans (hc.mono (by simp))
    refine ⟨s.on ((s.toChip.upTo (fine / 64)).captureEdge tp rising fine), rfl, ?_, ?_, hs.others, hs.onlyTouches⟩
    all_goals rw [State.on_toChip, hv]
    rfl
  · intro s tp fine ps e hw hp hr
    have he := Chip.deviation_fails (b := s.toChip.upTo (fine / 64)) (fine := fine) hw hp
    obtain ⟨hv, hc⟩ := Chip.failWindow_vane (b := s.toChip.upTo (fine / 64)) hr (!e)
    have hs := (AltersVane.upTo (l := [.belfry, .vanes]) (tp := tp) (by simp) s.toChip (fine / 64)).trans (hc.mono (by simp))
    refine ⟨_, congrArg (fun b => Host.Outcome.next (s.on b)) he, ?_, ?_, ?_, hs.others⟩
    all_goals rw [State.on_toChip]
    · exact congrArg Vane.fail hv
    · refine (congrArg Vane.window hv).trans ?_
      rw [show ((s.toChip.upTo (fine / 64)).vane tp).window = some (e, false) from hw]
      rfl
    · exact congrArg Vane.fifo hv
  · intro s tp t0 hf hp
    obtain ⟨hv, hc⟩ := Chip.capturePop_pops (b := s.toChip.upTo t0) hf hp
    have hs := (AltersVane.upTo (l := [.belfry, .vanes]) (tp := tp) (by simp) s.toChip t0).trans (hc.mono (by simp))
    exact ⟨s.on ((s.toChip.upTo t0).capturePop tp), rfl, hv, hs.others, hs.onlyTouches⟩
  · intro s tp t0 hf
    have he := Chip.vaneFailClear_runs (b := s.toChip.upTo t0) hf
    have hs : AltersVane [.belfry, .vanes] tp s.toChip ((s.toChip.upTo t0).vaneFailClear tp) := by
      rw [he]; exact .trans (.upTo (by simp) _ _) (.modVane (by simp) _ _)
    refine ⟨s.on ((s.toChip.upTo t0).vaneFailClear tp), rfl, ?_, hs.others, hs.onlyTouches⟩
    rw [State.on_toChip, he, Chip.vane_modVane]
    rfl
  · intro s tp h
    have he := Chip.calibrated_enabled (tp := tp) h
    have hs : AltersVane [.vanes] tp s.toChip (s.toChip.calibrated tp) := by
      rw [he]; exact .modVane (by simp) _ _
    refine ⟨s.on (s.toChip.calibrated tp), rfl, ?_, hs.others, hs.onlyTouches⟩
    rw [State.on_toChip, he, Chip.vane_modVane]
  · intro s tp h ht
    have he := Chip.lineSwitch_switches h ht
    have hs : AltersVane [.vanes] tp s.toChip (s.toChip.lineSwitch tp) := by
      rw [he]; exact .modVane (by simp) _ _
    refine ⟨s.on (s.toChip.lineSwitch tp), rfl, ?_, ?_, ?_, hs.others, hs.onlyTouches⟩
    all_goals rw [State.on_toChip, he, Chip.vane_modVane]
  · intro s tp h hd
    have he := Chip.calibrationDeferred_logs h hd
    have hs : AltersVane (.vanes :: logAreas) tp s.toChip (s.toChip.calibrationDeferred tp) := by
      rw [he]; exact .trans (.modVane (by simp) _ _) (.logEvent (by simp) _ _)
    refine ⟨s.on (s.toChip.calibrationDeferred tp), rfl, ?_, hs.others, hs.onlyTouches⟩
    rw [State.on_toChip, he, Chip.vane_congr (Chip.logEvent_vanes _ _), Chip.vane_modVane]
  · intro s tp h hp
    have he := Chip.calibrationLimit_logs h false
    have hs : AltersVane (.vanes :: logAreas) tp s.toChip (s.toChip.calibrationLimit tp false) := by
      rw [he]; exact .trans (.modVane (by simp) _ _) (.logEvent (by simp) _ _)
    have hl := bankEv_level (code := 8) (by decide) (tpBank tp) 3 false tp 0
    refine ⟨s.on (s.toChip.calibrationLimit tp false), rfl, ?_, hs.others, ?_⟩
    all_goals rw [State.on_toChip, he]
    · rw [Chip.vane_congr (Chip.logEvent_vanes _ _), Chip.vane_modVane]
    · rw [Chip.logEvent_log (by rw [hl]; decide) (by rw [hl]; decide) (by exact hp), Chip.modVane_entry]
      rfl

end Sys2Proof.Machine

namespace Sys2Proof.Machine
open Sys2Proof

/-! ### One partition changes -/

section
variable {l : List Area} {p : Nat} {b : Chip}

theorem Chip.part_congr {c : Chip} (h : c.parts = b.parts) (p : Nat) : c.part p = b.part p := by simp [Chip.part, h]

@[simp] theorem Chip.part_modPart (b : Chip) (p : Nat) (f : Partition → Partition) : (b.modPart p f).part p = f (b.part p) :=
  Tab.get_mod_self _ _ _ _

theorem Chip.part_modPart_ne {j : Nat} (h : j ≠ p) (f : Partition → Partition) : (b.modPart p f).part j = b.part j :=
  Tab.get_mod_ne _ _ _ _ _ h

/-- From b to c partition p alone of the partitions has changed, and of the areas those of l alone. -/
def AltersPart (l : List Area) (p : Nat) (b c : Chip) : Prop :=
  (∀ j, j ≠ p → c.part j = b.part j) ∧ ∀ x, x ∉ l → x.same b c

theorem AltersPart.trans {c d : Chip} (h : AltersPart l p b c) (h' : AltersPart l p c d) : AltersPart l p b d :=
  ⟨fun j hj => (h'.1 j hj).trans (h.1 j hj), fun x hx => (h.2 x hx).trans (h'.2 x hx)⟩

/-- A change of other areas than the partitions. -/
theorem AltersPart.of_parts {c : Chip} (hp : c.parts = b.parts) (h : ∀ x, x ∉ l → x.same b c) : AltersPart l p b c :=
  ⟨fun j _ => Chip.part_congr hp j, h⟩

theorem AltersPart.upTo (hl : .belfry ∈ l) (b : Chip) (t : Nat) : AltersPart l p b (b.upTo t) :=
  .of_parts rfl fun _ hx => Area.same_upTo (by rintro rfl; exact hx hl) b t

theorem AltersPart.modPart (hl : .parts ∈ l) (b : Chip) (f : Partition → Partition) : AltersPart l p b (b.modPart p f) :=
  ⟨fun _ hj => Chip.part_modPart_ne hj f, fun x hx => by cases x <;> simp_all [Area.same]⟩

/-- A change of the dictionary alone. -/
theorem AltersPart.withDict (hl : .dict ∈ l) (b : Chip) (d : Dict) : AltersPart l p b { b with dict := d } :=
  .of_parts rfl fun _ hx => Area.same_dict (by rintro rfl; exact hx hl) b d

theorem AltersPart.setReg (hl : .dict ∈ l) (b : Chip) (i j v : Nat) : AltersPart l p b (b.setReg i j v) :=
  .withDict hl b _

theorem AltersPart.endCmd (hl : .dict ∈ l) (b : Chip) (i st : Nat) : AltersPart l p b (b.endCmd i st) := by
  unfold Chip.endCmd
  split
  · exact .withDict hl _ _
  · exact .withDict hl _ _

theorem AltersPart.setContract (hl : .parts ∈ l) (hp : .ports ∈ l) (b : Chip) (st : Contract) :
    AltersPart l p b (b.setContract p st) :=
  ⟨fun _ hj => Chip.setContract_other _ _ _ _ hj, fun x hx => by cases x <;> simp_all [Area.same]⟩

theorem AltersPart.logEvent (hl : logAreas ⊆ l) (b : Chip) (e : Ev) : AltersPart l p b (b.logEvent e) :=
  .of_parts (Chip.logEvent_parts _ _) fun _ hx => Area.same_logEvent (fun h => hx (hl h)) b e

theorem AltersPart.answer (hl : answerAreas ⊆ l) (b : Chip) (o : Nat) (r : Reply) : AltersPart l p b (b.answer o r) :=
  .of_parts (Chip.answer_parts _ _ _) fun _ hx => Area.same_answer (fun h => hx (hl h)) b o r

theorem AltersPart.onlyTouches {s : State} {c : Chip} (h : AltersPart l p s.toChip c) : OnlyTouches l s (s.on c) := ⟨rfl, h.2⟩

theorem Chip.upTo_now (b : Chip) (t : Nat) : (b.upTo t).now = max b.now t % 2 ^ 64 := rfl

@[simp] theorem Chip.endCmd_reg (b : Chip) (i st k l : Nat) : (b.endCmd i st).reg k l = b.reg k l := by
  unfold Chip.endCmd
  split <;> rfl

/-- A contract status that is set changes nothing else of its partition. -/
theorem Chip.setContract_part (b : Chip) (p : Nat) (st : Contract) :
    (b.setContract p st).part p = { b.part p with status := st } := by
  rw [Chip.setContract]
  split
  · next h => rw [← h]
  · rw [Chip.part_congr (Chip.raiseOwner_parts _ _ _), Chip.part_modPart]

end

/-! ### Re-arm -/

section
variable {s : State} {q : Req} {n p : Nat}

theorem State.started_parts (s : State) (q : Req) (i n : Nat) (l : List (Nat × Nat)) : (s.started q i n l).parts = s.parts := by
  simp [State.started]

theorem exec_rearm_taken {frame : Nat} (h : CommandTaken s q 0x2E25 n [(3, p), (4, frame)] = true) :
    exec (.rearm q n p frame) s =
      .next (s.on (((s.started q 0x2E25 n [(3, p), (4, frame)]).startRearm q.owner).answer q.owner .done)) :=
  congrArg (fun b => Host.Outcome.next (s.on b)) (commandRow_taken s q 0x2E25 n _ Chip.startRearm h)

theorem State.started_rearm_reg {frame : Nat} (h : CommandTaken s q 0x2E25 n [(3, p), (4, frame)] = true) :
    (s.started q 0x2E25 n [(3, p), (4, frame)]).reg 0x2E25 3 = p ∧
      (s.started q 0x2E25 n [(3, p), (4, frame)]).reg 0x2E25 4 = frame := by
  have hk : key 0x2E25 3 ≠ key 0x2E25 4 := by decide
  rw [State.started, withParams_taken s q _ n _ h]
  exact ⟨(Chip.reg_setReg _ _ _ _ _ _ hk).trans (Chip.reg_setReg_self _ _ _ _), Chip.reg_setReg_self _ _ _ _⟩

/-- A start writes its parameters and its serial, on the device as the request finds it. -/
theorem AltersPart.started {l : List Area} (hl : .belfry :: answerAreas ⊆ l) (s : State) (q : Req) (i n : Nat)
    (ps : List (Nat × Nat)) : AltersPart l p s.toChip (s.started q i n ps) := by
  refine .of_parts (State.started_parts _ _ _ _ _) fun x hx => ?_
  have hw : x.same (s.served q) (s.withParams q i ps) := by
    have hd : x ≠ .dict := by rintro rfl; exact hx (hl (by simp [answerAreas]))
    cases x <;> simp_all [Area.same]
  exact (((OnlyTouches.served s q).2 x fun ha => hx (hl ha)).trans hw).trans
    (Area.same_dict (by rintro rfl; exact hx (hl (by simp [answerAreas]))) _ _)

variable {b : Chip} {o : Nat}

/-- A re-arm that waits for the next frame boundary of its partition (R96). -/
def Chip.rearmWaits (b : Chip) (p o : Nat) : Chip :=
  (b.beginCmd 0x2E25 o).modPart p fun x => { x with rearmAt := some (b.nextBoundary p) }

/-- In FULL a BROKEN partition that no fence, halt or safe state holds back waits (R96, R511). -/
theorem Chip.startRearm_waits (hd : b.dev.st = .full) (hp : b.reg 0x2E25 3 = p) (hf : b.reg 0x2E25 4 = 0)
    (hs : (b.part p).status = .broken) (ha : b.partAny p (fun g => g.fenced || g.halted || g.safeBlocks != 0#64) = false) :
    b.startRearm o = b.rearmWaits p o := by
  have hb : b.frameBegun p 0 = false := rfl
  simp [Chip.startRearm, Chip.rearmWaits, hd, hp, hf, hs, ha, hb]

theorem Chip.rearmWaits_part (b : Chip) (p o : Nat) :
    (b.rearmWaits p o).part p = { b.part p with rearmAt := some (b.nextBoundary p) } :=
  Chip.part_modPart (b.beginCmd 0x2E25 o) p _

theorem Chip.rearmWaits_cmd (b : Chip) (p o : Nat) :
    ((b.rearmWaits p o).cmd 0x2E25).busy = some o ∧ Tab.get 0 ((b.rearmWaits p o).cmd 0x2E25).status o = 1 :=
  ⟨b.beginCmd_busy 0x2E25 o, b.beginCmd_status 0x2E25 o⟩

theorem Chip.rearmWaits_alters (b : Chip) (p o : Nat) : AltersPart (.belfry :: .parts :: answerAreas) p b (b.rearmWaits p o) :=
  AltersPart.trans (.withDict (by decide) b (b.beginCmd 0x2E25 o).dict) (.modPart (by decide) (b.beginCmd 0x2E25 o) _)

/-- At the boundary of a re-arm the first miss and the count of misses while BROKEN clear (R96). -/
def Chip.missesCleared (b : Chip) (p due : Nat) : Chip :=
  (((b.upTo due).modPart p fun x => { x with rearmAt := none, firstMiss := none }).setReg (0x2521 + p) 0x0C 0).setReg
    (0x2521 + p) 4 (due / 2 ^ (b.part p).k)

/-- The contract is ARMED and the command ends; the entry that the boundary logs follows (R96). -/
def Chip.rearmed (b : Chip) (p due : Nat) : Chip := ((b.missesCleared p due).setContract p .armed).endCmd 0x2E25 0

theorem Chip.rearmBoundary_due {due : Nat} (h : (b.part p).rearmAt = some due) :
    ∃ e, b.rearmBoundary p = (b.rearmed p due).logEvent e := by
  have hk : (((b.upTo due).modPart p fun x => { x with rearmAt := none, firstMiss := none }).part p).k = (b.part p).k := by
    rw [Chip.part_modPart]
    rfl
  simp only [Chip.rearmBoundary, h, hk]
  exact ⟨_, rfl⟩

theorem Chip.missesCleared_part (b : Chip) (p due : Nat) :
    (b.missesCleared p due).part p = { b.part p with rearmAt := none, firstMiss := none } :=
  Chip.part_modPart (b.upTo due) p fun x => { x with rearmAt := none, firstMiss := none }

theorem Chip.rearmed_part (b : Chip) (p due : Nat) :
    (b.rearmed p due).part p = { b.part p with rearmAt := none, firstMiss := none, status := .armed } := by
  rw [Chip.rearmed, Chip.part_congr (Chip.endCmd_parts _ _ _), Chip.setContract_part, Chip.missesCleared_part]

theorem Chip.rearmed_reg (b : Chip) (p due : Nat) :
    (b.rearmed p due).reg (0x2521 + p) 0x0C = 0 ∧ (b.rearmed p due).reg (0x2521 + p) 4 = due / 2 ^ (b.part p).k := by
  simp only [Chip.rearmed, Chip.endCmd_reg, Chip.reg_congr (Chip.setContract_dict _ _ _), Chip.missesCleared,
    Chip.reg_setReg_self, and_true]
  rw [Chip.reg_setReg _ _ _ _ _ _ (by simp only [key]; omega), Chip.reg_setReg_self]

/-- The command ends with status 0 (R96). -/
theorem Chip.rearmed_cmd {due : Nat} (h : (b.cmd 0x2E25).busy = some o) :
    ((b.rearmed p due).cmd 0x2E25).busy = none ∧ Tab.get 0 ((b.rearmed p due).cmd 0x2E25).status o = 0 := by
  refine Chip.endCmd_busy _ _ _ _ ?_
  rw [Chip.cmd, Chip.setContract_dict]
  exact h

theorem Chip.rearmed_alters (b : Chip) (p due : Nat) : AltersPart (.belfry :: .parts :: logAreas) p b (b.rearmed p due) := by
  have hd : Area.dict ∈ Area.belfry :: .parts :: logAreas := by decide
  have hm : AltersPart (.belfry :: .parts :: logAreas) p b (b.missesCleared p due) :=
    (((AltersPart.upTo (by decide) b due).trans (.modPart (by decide) _ _)).trans (.setReg hd _ _ _ _)).trans
      (.setReg hd _ _ _ _)
  exact (hm.trans (.setContract (by decide) (by decide) _ _)).trans (.endCmd hd _ _ _)

theorem Chip.rearmed_now (b : Chip) (p due : Nat) : (b.rearmed p due).now = (b.upTo due).now := by
  rw [Chip.rearmed, Chip.now, Chip.endCmd_belfry, Chip.setContract_belfry]
  rfl

/-- Where no region of a partition is fenced, halted or in a safe state, none holds its re-arm back. -/
theorem Chip.partAny_free (h : ∀ r ∈ b.partRegions p, (b.region r).fenced = false ∧ (b.region r).halted = false ∧
    (b.region r).safeBlocks = 0#64) : b.partAny p (fun g => g.fenced || g.halted || g.safeBlocks != 0#64) = false := by
  rw [Chip.partAny, List.any_eq_false]
  intro r hr
  simp [h r hr]

end

/-- Settles O14: the command's start and its boundary are one equation each, and the contract's record is read off them. -/
theorem rearmRestoresTheContract : Obligations.RearmRestoresTheContract := by
  unfold Obligations.RearmRestoresTheContract
  refine ⟨?_, ?_⟩
  · intro s q n p h hd hb hr
    set c := s.started q 0x2E25 n [(3, p), (4, 0)] with hc
    have hpart : ∀ j, c.part j = s.part j := Chip.part_congr (State.started_parts _ _ _ _ _)
    have hreg : ∀ j, c.region j = s.region j := Chip.region_congr (State.started_regions _ _ _ _ _)
    obtain ⟨h3, h4⟩ := State.started_rearm_reg h
    have hw : c.startRearm q.owner = c.rearmWaits p q.owner :=
      Chip.startRearm_waits ((congrArg Device.st (State.started_dev _ _ _ _ _)).trans hd) h3 h4 (by rw [hpart, hb])
        (Chip.partAny_free fun r hm => by
          rw [hreg]
          exact hr r (by simpa only [Chip.partRegions, hpart] using hm))
    have hp : ((c.rearmWaits p q.owner).answer q.owner .done).part p =
        { s.part p with rearmAt := some (c.nextBoundary p) } := by
      rw [Chip.part_congr (Chip.answer_parts _ _ _), Chip.rearmWaits_part, hpart]
    have ha := ((AltersPart.started (by decide) s q _ n _).trans
      (c.rearmWaits_alters p q.owner)).trans (.answer (by decide) _ q.owner .done)
    obtain ⟨hbusy, hst⟩ := c.rearmWaits_cmd p q.owner
    refine ⟨s.on ((c.rearmWaits p q.owner).answer q.owner .done), hw ▸ exec_rearm_taken h, ⟨?_, ?_⟩, ?_, ?_, ha.1,
      ha.onlyTouches⟩
    · rw [State.on_toChip, show cmdKey 0x2E25 = 0x2E25 from rfl, Chip.answer_cmd, hbusy]
    · rw [State.status_on_answer, show cmdKey 0x2E25 = 0x2E25 from rfl, hst]
    · rw [State.on_toChip, hp, Chip.nextBoundary, hpart, hc, State.started_now, Chip.upTo_now]
    · rw [State.on_toChip, hp]
      exact hb
  · intro s p due o _ hdue hbusy
    obtain ⟨e, he⟩ := Chip.rearmBoundary_due hdue
    have hpart := Chip.part_congr (Chip.logEvent_parts (s.rearmed p due) e) p
    have ha := (s.rearmed_alters p due).trans (AltersPart.logEvent (by simp [logAreas]) _ e)
    obtain ⟨h12, h4⟩ := s.rearmed_reg p due
    obtain ⟨hb, hst⟩ := Chip.rearmed_cmd (p := p) (due := due) hbusy
    have hcmd : ((s.rearmed p due).logEvent e).cmd 0x2E25 = (s.rearmed p due).cmd 0x2E25 := by simp [Chip.cmd]
    have hq : ∀ j, j < 256 → ((s.rearmed p due).logEvent e).reg (0x2521 + p) j = (s.rearmed p due).reg (0x2521 + p) j :=
      fun j hj => Chip.logEvent_reg_quiet (by simp [QuietReg, key]; omega) e
    refine ⟨_, congrArg (fun b => Host.Outcome.next (s.on b)) he, ?_, ?_, ?_, ?_, ?_, ?_, ?_, ?_, ha.1, ha.onlyTouches⟩
    · rw [State.on_toChip, hpart, Chip.rearmed_part]
    · rw [State.on_toChip, hpart, Chip.rearmed_part]
    · rw [State.on_toChip, hpart, Chip.rearmed_part]
    · rw [State.on_toChip, hq _ (by decide), h12]
    · rw [State.on_toChip, hq _ (by decide), h4]
    · rw [State.on_toChip, hcmd, hb]
    · rw [State.status, State.on_toChip, show cmdKey 0x2E25 = 0x2E25 from rfl, hcmd, hst]
    · rw [State.on_toChip, Chip.now, Chip.logEvent_belfry]
      exact (s.rearmed_now p due).trans (Chip.upTo_now _ _)

end Sys2Proof.Machine

namespace Sys2Proof.Machine
open Sys2Proof

/-! ### Ticks of a refresh round -/

theorem nextMultiple_spec {m : Nat} (hm : 0 < m) (n : Nat) :
    nextMultiple n m % m = 0 ∧ n ≤ nextMultiple n m ∧ nextMultiple n m < n + m := by
  have hd := Nat.div_add_mod (n + m - 1) m
  have hlt := Nat.mod_lt (n + m - 1) hm
  refine ⟨Nat.mul_mod_left _ _, ?_⟩
  rw [nextMultiple, Nat.mul_comm]
  omega

theorem shifted_multiple_spec {k n o : Nat} (ho : o < 3900) (hm : k % 3900 = 0) (hle : n + 3900 - o ≤ k)
    (hlt : k < n + 3900 - o + 3900) :
    (k + o - 3900) % 3900 = o ∧ n ≤ k + o - 3900 ∧ k + o - 3900 < n + 3900 := by
  omega

/-- The tick at an offset of a round is the first such at or after the present one (R86, R245). -/
theorem Chip.roundTick_spec (b : Chip) {o : Nat} (ho : o < 3900) :
    b.roundTick o % 3900 = o ∧ b.now ≤ b.roundTick o ∧ b.roundTick o < b.now + 3900 :=
  have h := nextMultiple_spec (m := 3900) (by decide) (b.now + 3900 - o)
  shifted_multiple_spec ho h.1 h.2.1 h.2.2

/-- The device that has run on to that tick, while the count does not wrap. -/
theorem Chip.roundTick_reached {b c : Chip} {o : Nat} (ho : o < 3900) (hc : c.belfry = (b.upTo (b.roundTick o)).belfry)
    (h : b.now + 3900 < 2 ^ 64) : c.now % 3900 = o ∧ b.now ≤ c.now ∧ c.now < b.now + 3900 := by
  have hs := b.roundTick_spec ho
  have hn : c.now = b.roundTick o := by
    rw [Chip.now, hc]
    exact (Chip.upTo_now _ _).trans (by rw [Nat.max_eq_right hs.2.1, Nat.mod_eq_of_lt (hs.2.2.trans h)])
  rwa [hn]

/-! ### Refresh rounds -/

theorem Area.same_hub {x : Area} (h : x ≠ .hub) (b : Chip) (y : Hub) : x.same b { b with hub := y } := by
  cases x <;> simp_all [Area.same]

/-- Hot refresh follows what is wanted; a change is logged (R98). -/
def Chip.hotSwitched (b : Chip) : Chip :=
  if b.hotWanted = b.hub.hotRefresh then b
  else { b with hub := { b.hub with hotRefresh := b.hotWanted } }.logEvent
    { code := if b.hotWanted then 0x40600010 else 0x40600011, sev := 1 }

section
variable (b : Chip)

theorem Chip.hotSwitched_hub : b.hotSwitched.hub = { b.hub with hotRefresh := b.hotWanted } := by
  rw [Chip.hotSwitched]
  split
  · next h => rw [h]
  · rw [Chip.logEvent_hub]

theorem Chip.hotSwitched_belfry : b.hotSwitched.belfry = b.belfry := by
  rw [Chip.hotSwitched]
  split
  · rfl
  · rw [Chip.logEvent_belfry]

theorem Area.same_hotSwitched {x : Area} (hh : x ≠ .hub) (hl : x ∉ logAreas) : x.same b b.hotSwitched := by
  rw [Chip.hotSwitched]
  split
  · exact Area.same_refl x b
  · exact (Area.same_hub hh b _).trans (Area.same_logEvent hl _ _)

/-- Neither time nor hot refresh decides on which channels the hub refreshes. -/
theorem Chip.hotSwitched_refreshes (t : Nat) : (b.upTo t).hotSwitched.refreshes = b.refreshes := by
  simp only [Chip.refreshes, Chip.channel, Chip.hotSwitched_hub]
  rfl

/-- The tick of the refresh sequence that begins now (R245). -/
def Chip.refreshNoted (b : Chip) : Chip := { b with hub := { b.hub with refreshAt := some b.now } }
def Chip.hotSpanNoted (b : Chip) : Chip := { b with hub := { b.hub with hotAt := some b.now } }

theorem Chip.refreshRound_eq : b.refreshRound =
    if b.refreshes then (b.upTo (b.roundTick 0)).hotSwitched.refreshNoted else (b.upTo (b.roundTick 0)).hotSwitched := by
  rw [← b.hotSwitched_refreshes (b.roundTick 0)]
  rfl

theorem Chip.hotSpan_eq : b.hotSpan =
    if b.hub.hotRefresh && b.refreshes then (b.upTo (b.roundTick 1950)).hotSpanNoted else b.upTo (b.roundTick 1950) := rfl

end

/-! ### One channel changes -/

section
variable {l : List Area} {c : Nat} {b : Chip}

theorem Chip.channel_congr {d : Chip} (h : d.hub = b.hub) (j : Nat) : d.channel j = b.channel j := by simp [Chip.channel, h]

@[simp] theorem Chip.channel_modChannel (b : Chip) (c : Nat) (f : Channel → Channel) :
    (b.modChannel c f).channel c = f (b.channel c) := Tab.get_mod_self _ _ _ _

theorem Chip.channel_modChannel_ne {j : Nat} (h : j ≠ c) (f : Channel → Channel) :
    (b.modChannel c f).channel j = b.channel j := Tab.get_mod_ne _ _ _ _ _ h

/-- From b to d channel c alone of the channels has changed, and of the areas those of l alone. -/
def AltersChannel (l : List Area) (c : Nat) (b d : Chip) : Prop :=
  (∀ j, j ≠ c → d.channel j = b.channel j) ∧ ∀ x, x ∉ l → x.same b d

theorem AltersChannel.trans {d e : Chip} (h : AltersChannel l c b d) (h' : AltersChannel l c d e) : AltersChannel l c b e :=
  ⟨fun j hj => (h'.1 j hj).trans (h.1 j hj), fun x hx => (h.2 x hx).trans (h'.2 x hx)⟩

/-- A change of other areas than the hub. -/
theorem AltersChannel.of_hub {d : Chip} (hh : d.hub = b.hub) (h : ∀ x, x ∉ l → x.same b d) : AltersChannel l c b d :=
  ⟨fun j _ => Chip.channel_congr hh j, h⟩

theorem AltersChannel.upTo (hl : .belfry ∈ l) (b : Chip) (t : Nat) : AltersChannel l c b (b.upTo t) :=
  .of_hub rfl fun _ hx => Area.same_upTo (by rintro rfl; exact hx hl) b t

theorem AltersChannel.modChannel (hl : .hub ∈ l) (b : Chip) (f : Channel → Channel) : AltersChannel l c b (b.modChannel c f) :=
  ⟨fun _ hj => Chip.channel_modChannel_ne hj f, fun _ hx => Area.same_hub (by rintro rfl; exact hx hl) b _⟩

theorem AltersChannel.setReg (hl : .dict ∈ l) (b : Chip) (i j v : Nat) : AltersChannel l c b (b.setReg i j v) :=
  .of_hub rfl fun _ hx => Area.same_setReg (by rintro rfl; exact hx hl) b i j v

theorem AltersChannel.withDev (hl : .dev ∈ l) (b : Chip) (d : Device) : AltersChannel l c b { b with dev := d } :=
  .of_hub rfl fun _ hx => Area.same_dev (by rintro rfl; exact hx hl) b d

theorem AltersChannel.onlyTouches {s : State} {d : Chip} (h : AltersChannel l c s.toChip d) : OnlyTouches l s (s.on d) :=
  ⟨rfl, h.2⟩

end

/-! ### DIMM temperatures -/

section
variable {b : Chip} {c d : Nat}

/-- With injection off the poll of a DIMM is its reading, or the lack of one (R246). -/
theorem Chip.dimmPoll_plain (hd : d < (b.channel c).dimms.length) (hi : b.inject.enabled = false) (reading : Option Int) :
    b.dimmPoll c d reading = match reading with
      | some v => b.dimmRead c d v false
      | none => b.dimmUnread c d false := by
  have hn : ¬ (b.channel c).dimms.length ≤ d := Nat.not_le.2 hd
  cases reading <;> simp [Chip.dimmPoll, hn, hi]

/-- A reading stands in its entry, and the DIMM's channel notes whether it is hot (R246). -/
def Chip.dimmNoted (b : Chip) (c d : Nat) (v : Int) : Chip :=
  (b.setReg (0x2610 + c) (7 + d) (tempRaw v)).modChannel c fun x =>
    { x with fails := Tab.set x.fails d 0, hot := Tab.set x.hot d (decide (340 < v)) }

/-- Where every DIMM of the channel can be read, the condition of those that cannot ends (R472). -/
def Chip.dimmQuiet (b : Chip) (c : Nat) : Chip :=
  if (b.channel c).fails.all fun x => decide (x.2 < 3) then b.conditionEnds (evCode 4 8 c 7) else b

/-- The end of a condition changes the list of raised conditions alone. -/
theorem Chip.dimmQuiet_dev (b : Chip) (c : Nat) :
    ∃ l, b.dimmQuiet c = { b with dev := { b.dev with raised := l } } ∧ l ⊆ b.dev.raised := by
  rw [Chip.dimmQuiet]
  split
  · exact ⟨_, rfl, List.filter_subset_self _⟩
  · exact ⟨b.dev.raised, rfl, List.Subset.refl _⟩

theorem Chip.dimmRead_warm {v : Int} (hv : v ≤ 380) (inj : Bool) :
    ∃ l, b.dimmRead c d v inj = { b.dimmNoted c d v with dev := { b.dev with raised := l } } := by
  obtain ⟨l, hl, -⟩ := (b.dimmNoted c d v).dimmQuiet_dev c
  have h : b.dimmRead c d v inj = if (List.range 2).all (fun i => decide (signed 16
      (((b.dimmNoted c d v).dimmQuiet c).reg (0x2610 + c) (7 + i)) ≤ 380))
      then ((b.dimmNoted c d v).dimmQuiet c).conditionEnds (evCode 4 8 c 8) else (b.dimmNoted c d v).dimmQuiet c :=
    if_neg (Int.not_lt.2 hv)
  rw [h]
  split
  · rw [hl]
    exact ⟨_, rfl⟩
  · exact ⟨l, hl⟩

/-- Above 95 °C the condition is raised as a chip-level fault (R246). -/
theorem Chip.dimmRead_fault {v : Int} (hv : 380 < v) (hr : evCode 4 8 c 8 ∉ b.dev.raised) :
    ∃ l, b.dimmRead c d v false = ({ b.dimmNoted c d v with dev := { b.dev with raised := l } } : Chip).chipFault
      { code := evCode 4 8 c 8, sev := 5, d2 := d } := by
  obtain ⟨l, hl, hs⟩ := (b.dimmNoted c d v).dimmQuiet_dev c
  have hn : evCode 4 8 c 8 ∉ l := fun hm => hr (hs hm)
  have h : b.dimmRead c d v false = ((b.dimmNoted c d v).dimmQuiet c).raiseOnce (evCode 4 8 c 8) fun b =>
      b.chipFault { code := evCode 4 8 c 8, sev := 5, d2 := d } := if_pos hv
  refine ⟨evCode 4 8 c 8 :: l, h.trans ?_⟩
  rw [hl, Chip.raiseOnce, if_neg (by simpa using hn)]
  rfl

theorem Chip.dimmNoted_channel (b : Chip) (c d : Nat) (v : Int) : (b.dimmNoted c d v).channel c =
    { b.channel c with fails := Tab.set (b.channel c).fails d 0, hot := Tab.set (b.channel c).hot d (decide (340 < v)) } :=
  Chip.channel_modChannel (b.setReg (0x2610 + c) (7 + d) (tempRaw v)) c _

theorem Chip.dimmNoted_alters (b : Chip) (c d : Nat) (v : Int) :
    AltersChannel [.belfry, .hub, .dict, .dev] c b (b.dimmNoted c d v) :=
  (AltersChannel.setReg (by decide) b _ _ _).trans (.modChannel (by decide) _ _)

/-- One more poll that fails; from the third in turn the DIMM counts as hot (R246). -/
def Chip.dimmFailed (b : Chip) (c d : Nat) : Chip :=
  let n := Tab.get 0 (b.channel c).fails d + 1
  let b := b.modChannel c fun x => { x with fails := Tab.set x.fails d n }
  if n < 3 then b else b.modChannel c fun x => { x with hot := Tab.set x.hot d true }

theorem Chip.dimmFailed_fails (b : Chip) (c d : Nat) :
    Tab.get 0 ((b.dimmFailed c d).channel c).fails d = Tab.get 0 (b.channel c).fails d + 1 := by
  rw [Chip.dimmFailed]
  split <;> simp

theorem Chip.dimmFailed_hot (b : Chip) (c d : Nat) : Tab.get false ((b.dimmFailed c d).channel c).hot d =
    if 2 ≤ Tab.get 0 (b.channel c).fails d then true else Tab.get false (b.channel c).hot d := by
  rw [Chip.dimmFailed]
  split
  · rw [if_neg (by omega), Chip.channel_modChannel]
  · rw [if_pos (by omega), Chip.channel_modChannel, Tab.get_set_self]

theorem Chip.dimmFailed_alters {l : List Area} (hl : .hub ∈ l) (b : Chip) (c d : Nat) : AltersChannel l c b (b.dimmFailed c d) := by
  rw [Chip.dimmFailed]
  split
  · exact .modChannel hl _ _
  · exact AltersChannel.trans (.modChannel hl _ _) (.modChannel hl _ _)

/-- A poll that fails is noted; beyond that it may raise the condition and make its entry. -/
theorem Chip.dimmUnread_alters (b : Chip) (c d : Nat) :
    (b.dimmUnread c d false).hub = (b.dimmFailed c d).hub ∧
      ∀ x, x ∉ logAreas → x.same (b.dimmFailed c d) (b.dimmUnread c d false) := by
  simp only [Chip.dimmUnread, Chip.dimmFailed]
  split
  · exact ⟨rfl, fun x _ => Area.same_refl x _⟩
  · simp only [Chip.raiseOnce]
    split
    · exact ⟨rfl, fun x _ => Area.same_refl x _⟩
    · exact ⟨Chip.logEvent_hub _ _, fun x hx =>
        (Area.same_dev (by rintro rfl; simp [logAreas] at hx) _ _).trans (Area.same_logEvent hx _ _)⟩

end

/-- Settles O32: a round, a hot span and each outcome of a poll are one equation, from which the fields are read off. -/
theorem refreshAndDimmTemperatures : Obligations.RefreshAndDimmTemperatures := by
  unfold Obligations.RefreshAndDimmTemperatures
  refine ⟨?_, ?_, ?_, ?_, ?_, ?_⟩
  · intro s h
    have he : s.refreshRound = (s.upTo (s.roundTick 0)).hotSwitched.refreshNoted := s.refreshRound_eq.trans (if_pos h)
    have hb : (s.upTo (s.roundTick 0)).hotSwitched.refreshNoted.belfry = (s.upTo (s.roundTick 0)).belfry :=
      Chip.hotSwitched_belfry _
    have hh := (s.upTo (s.roundTick 0)).hotSwitched_hub
    refine ⟨_, congrArg (fun b => Host.Outcome.next (s.on b)) he, rfl, (congrArg Hub.hotRefresh hh :),
      Chip.roundTick_reached (by decide) hb, (congrArg Hub.channels hh :),
      (OnlyTouches.upTo (by decide) s (s.roundTick 0)).extend fun x hx => ?_⟩
    simp only [List.mem_cons, not_or] at hx
    exact (Area.same_hotSwitched _ hx.2.1 hx.2.2).trans (Area.same_hub hx.2.1 _ _)
  · intro s h
    refine ⟨_, congrArg (fun b => Host.Outcome.next (s.on b)) (s.refreshRound_eq.trans (if_neg (by simp [h]))),
      Chip.hotSwitched_hub _, (OnlyTouches.upTo (by decide) s (s.roundTick 0)).extend fun x hx => ?_⟩
    simp only [List.mem_cons, not_or] at hx
    exact Area.same_hotSwitched _ hx.2.1 hx.2.2
  · intro s h hh
    refine ⟨_, congrArg (fun b => Host.Outcome.next (s.on b)) (s.hotSpan_eq.trans (if_pos (by simp [h, hh]))), rfl,
      Chip.roundTick_reached (by decide) rfl,
      (OnlyTouches.upTo (by decide) s (s.roundTick 1950)).extend fun x hx => Area.same_hub (by rintro rfl; simp at hx) _ _⟩
  · intro s c d t0 v _ hd hi hv
    obtain ⟨l, hl⟩ := Chip.dimmRead_warm (b := s.toChip.upTo t0) (c := c) (d := d) hv false
    have hc := (s.toChip.upTo t0).dimmNoted_channel c d v
    have ha := ((AltersChannel.upTo (by decide) s.toChip t0).trans ((s.toChip.upTo t0).dimmNoted_alters c d v)).trans
      (.withDev (by decide) _ { s.dev with raised := l })
    refine ⟨_, congrArg (fun b => Host.Outcome.next (s.on b))
      ((Chip.dimmPoll_plain (b := s.toChip.upTo t0) hd hi (some v)).trans hl), ?_, ?_, ?_, rfl, ha.1, ha.onlyTouches⟩
    · exact Chip.reg_setReg_self (s.toChip.upTo t0) _ _ _
    · exact (congrArg (fun x : Channel => Tab.get false x.hot d) hc).trans (Tab.get_set_self _ _ _ _)
    · exact (congrArg (fun x : Channel => Tab.get 0 x.fails d) hc).trans (Tab.get_set_self _ _ _ _)
  · intro s c d t0 v _ hd hi hv hst hr
    obtain ⟨l, hl⟩ := Chip.dimmRead_fault (b := s.toChip.upTo t0) (c := c) (d := d) hv hr
    obtain ⟨h1, h2, h3, -⟩ := Chip.chipFault_serving
      (b := { (s.toChip.upTo t0).dimmNoted c d v with dev := { s.dev with raised := l } }) hst
      { code := evCode 4 8 c 8, sev := 5, d2 := d }
    exact ⟨_, congrArg (fun b => Host.Outcome.next (s.on b))
      ((Chip.dimmPoll_plain (b := s.toChip.upTo t0) hd hi (some v)).trans hl), h1, h2, h3⟩
  · intro s c d t0 _ hd hi
    obtain ⟨hh, hx⟩ := (s.toChip.upTo t0).dimmUnread_alters c d
    have ha := (AltersChannel.upTo (l := .belfry :: .hub :: logAreas) (c := c) (by decide) s.toChip t0).trans
      (((s.toChip.upTo t0).dimmFailed_alters (by decide) c d).trans
        (.of_hub hh fun x hn => hx x fun hm => hn (List.mem_cons_of_mem _ (List.mem_cons_of_mem _ hm))))
    refine ⟨_, congrArg (fun b => Host.Outcome.next (s.on b)) (Chip.dimmPoll_plain (b := s.toChip.upTo t0) hd hi none), ?_, ?_,
      ha.1, ha.onlyTouches⟩
    · rw [State.on_toChip, Chip.channel_congr hh, Chip.dimmFailed_fails]
      rfl
    · rw [State.on_toChip, Chip.channel_congr hh, Chip.dimmFailed_hot]
      rfl

end Sys2Proof.Machine

namespace Sys2Proof.Machine
open Sys2Proof

/-! ### Keys of the register store -/

/-- Entries of different subindex have different keys. -/
theorem key_ne_of_sub {i j k l : Nat} (hj : j < 256) (hl : l < 256) (h : j ≠ l) : key i j ≠ key k l := by
  rw [key, key]
  omega

theorem key_ne_of_index {i j k l : Nat} (hj : j < 256) (hl : l < 256) (h : i ≠ k) : key i j ≠ key k l := by
  rw [key, key]
  omega

/-- The objects of a region's unit keep no count of entries. -/
theorem quietReg_region {i j : Nat} (hi : 0x2500 ≤ i) (hi' : i < 0x2600) (hj : j < 256) : QuietReg i j := by
  have h : ∀ k l, l < 256 → i ≠ k → key i j ≠ key k l := fun k l hl hk => key_ne_of_index hj hl hk
  simp only [QuietReg, List.mem_cons, List.not_mem_nil, or_false, not_or]
  exact ⟨h _ _ (by decide) (by omega), h _ _ (by decide) (by omega), h _ _ (by decide) (by omega),
    h _ _ (by decide) (by omega), h _ _ (by decide) (by omega)⟩

/-! ### What a fence changes -/

/-- A region's record without what a fence changes of it: the fence itself, the slots checked, the stopped clock, and the
commands that the fence ends (R26, R151, R467). -/
def Region.beyondFence (g : Region) : Region :=
  { g with
    fenced := false
    checked := 0
    checkedAt := none
    heldProbe := 0#8
    isleHold := none
    restartAt := none
    standby := .idle
    lone := .running
    loneAt := none
    loneCmd := false }

/-- From b to c region r alone of the regions has changed, and only in what a fence changes. -/
def FenceAlters (r : Nat) (b c : Chip) : Prop :=
  (∀ j, j ≠ r → c.region j = b.region j) ∧ (c.region r).beyondFence = (b.region r).beyondFence

section
variable {r : Nat} {b c d : Chip}

theorem FenceAlters.trans (h : FenceAlters r b c) (h' : FenceAlters r c d) : FenceAlters r b d :=
  ⟨fun j hj => (h'.1 j hj).trans (h.1 j hj), h'.2.trans h.2⟩

theorem FenceAlters.of_regions (h : c.regions = b.regions) : FenceAlters r b c :=
  ⟨fun j _ => Chip.region_congr h j, congrArg Region.beyondFence (Chip.region_congr h r)⟩

theorem FenceAlters.modRegion {f : Region → Region} (h : ∀ g, (f g).beyondFence = g.beyondFence) (b : Chip) :
    FenceAlters r b (b.modRegion r f) :=
  ⟨fun j hj => Chip.region_modRegion_ne b r j f hj, by rw [Chip.region_modRegion, h]⟩

theorem FenceAlters.part (h : FenceAlters r b c) : c.regionPart r = b.regionPart r :=
  (congrArg (fun g : Region => g.part) h.2 :)

theorem FenceAlters.lastMiss (h : FenceAlters r b c) : (c.region r).lastMiss = (b.region r).lastMiss :=
  (congrArg (fun g : Region => g.lastMiss) h.2 :)

theorem FenceAlters.fenceMark (b : Chip) (r : Nat) : FenceAlters r b (b.fenceMark r) := by
  have hs : FenceAlters r b (b.stopSlots r) := .modRegion (by intro _; rfl) b
  have hd : FenceAlters r (b.stopSlots r) (((b.stopSlots r).dropPacking r).dropHeld r) :=
    .of_regions ((Chip.dropHeld_regions _ _).trans (Chip.dropPacking_regions _ _))
  exact ((hs.trans hd).trans (.trans (.modRegion (by intro _; rfl) _) (.modRegion (by intro _; rfl) _))).trans
    (.modRegion (by intro _; rfl) _)

theorem FenceAlters.endRestart (b : Chip) (r st : Nat) : FenceAlters r b (b.endRestart r st) := by
  rw [Chip.endRestart]
  split
  · exact .trans (.of_regions (Chip.endCmd_regions _ _ _))
      (.trans (.modRegion (by intro _; rfl) _) (.modRegion (by intro _; rfl) _))
  · exact .of_regions rfl

theorem FenceAlters.endPendingHalt (b : Chip) (r : Nat) : FenceAlters r b (b.endPendingHalt r) := by
  rw [Chip.endPendingHalt]
  split
  · split
    · exact .of_regions (Chip.endCmd_regions b _ _)
    · exact .of_regions rfl
  · split
    · refine .trans (.of_regions ?_) (.modRegion (by intro _; rfl) _)
      split
      · exact Chip.endCmd_regions _ _ _
      · rfl
    · exact .of_regions rfl

end

/-! ### The parts of a fence -/

section
variable (b : Chip) (r : Nat) (e : Ev)

/-- The fence is marked and its code shown, the banks park, and what the region had on its way is dropped (R26). -/
def Chip.fenceFlushed (b : Chip) (r : Nat) (e : Ev) : Chip :=
  ((((((b.fenceMark r).setReg (0x2500 + r) 0x06 e.code).forEach (regionBanks r) Chip.faultPark).dropToward r).loseTokens
    r).stopLanes r).flushHubPorts r

/-- The commands of the partition that holds a region end with status 3 (R26). -/
def Chip.endPartCmds (b : Chip) (r : Nat) : Chip :=
  match b.regionPart r with
  | some p => (b.endPartReset p 3).endRearm p 3
  | none => b

/-- The contract breaks, and what waits for the region ends (R26, R95). -/
def Chip.fenceBreaks (b : Chip) (r : Nat) : Chip :=
  (((b.breakRegion r).endPartCmds r).abandonOnDemand fun o => o.r == r).endPendingHalt r

/-- The device as a fence leaves it, but for the entry. -/
def Chip.fenceDone (b : Chip) (r : Nat) (e : Ev) : Chip :=
  ((b.fenceFlushed r e).fenceBreaks r).raiseOwner (((b.fenceFlushed r e).fenceBreaks r).regionOwner r) 2

variable {b r} in
theorem Chip.fence_unfenced (h : (b.region r).fenced = false) : b.fence r e = (b.fenceDone r e).logEvent e :=
  if_neg (by simp [h])

theorem Chip.fence_again (h : (b.region r).fenced = true) : b.fence r e = b.endRestart r 3 := if_pos h

theorem Chip.fenceFlushed_regions : (b.fenceFlushed r e).regions = (b.fenceMark r).regions := by
  simp [Chip.fenceFlushed, Chip.forEach_keep Chip.regions Chip.faultPark (fun _ _ => rfl)]

theorem Chip.endPartCmds_regions : (b.endPartCmds r).regions = b.regions := by
  rw [Chip.endPartCmds]
  split
  · rw [Chip.endRearm_regions, Chip.endPartReset_regions]
  · rfl

theorem FenceAlters.fenceBreaks : FenceAlters r b (b.fenceBreaks r) := by
  refine .trans (.of_regions ?_) (.endPendingHalt _ r)
  rw [Chip.abandonOnDemand_regions, Chip.endPartCmds_regions, Chip.breakRegion_regions]

/-- A fence changes the record of its region alone, and that only in what `Region.beyondFence` leaves out (R26). -/
theorem FenceAlters.fence : FenceAlters r b (b.fence r e) := by
  cases h : (b.region r).fenced with
  | true =>
    rw [Chip.fence_again b r e h]
    exact .endRestart b r 3
  | false =>
    rw [Chip.fence_unfenced e h]
    refine .trans (.trans (.trans (.fenceMark b r) (.of_regions (b.fenceFlushed_regions r e))) (.fenceBreaks _ r))
      (.of_regions ?_)
    rw [Chip.logEvent_regions, Chip.fenceDone, Chip.raiseOwner_regions]

/-! ### A fence and the contract -/

theorem Chip.modPart_keep {β : Type} (g : Partition → β) (b : Chip) (p : Nat) (f : Partition → Partition)
    (h : ∀ q, g (f q) = g q) (j : Nat) : g ((b.modPart p f).part j) = g (b.part j) := by
  by_cases hj : j = p
  · subst hj; rw [Chip.part_modPart, h]
  · rw [Chip.part_modPart_ne hj]

theorem Chip.endPartCmds_status (p : Nat) : ((b.endPartCmds r).part p).status = (b.part p).status := by
  have hr : ∀ (c : Chip) (q : Nat), ((c.endPartReset q 3).part p).status = (c.part p).status := fun c q => by
    rw [Chip.endPartReset]
    split
    · rw [Chip.modPart_keep Partition.status _ _ _ (by intro _; rfl), Chip.part_congr (Chip.endCmd_parts _ _ _)]
    · rfl
  have ha : ∀ (c : Chip) (q : Nat), ((c.endRearm q 3).part p).status = (c.part p).status := fun c q => by
    rw [Chip.endRearm]
    split
    · rw [Chip.modPart_keep Partition.status _ _ _ (by intro _; rfl), Chip.part_congr (Chip.endCmd_parts _ _ _)]
    · rfl
  rw [Chip.endPartCmds]
  split
  · rw [ha, hr]
  · rfl

theorem Chip.endPendingHalt_status (p : Nat) : ((b.endPendingHalt r).part p).status = (b.part p).status := by
  rw [Chip.endPendingHalt]
  split
  · split
    · rw [Chip.modPart_keep Partition.status _ _ _ (by intro _; rfl), Chip.part_congr (Chip.endCmd_parts _ _ _)]
    · rfl
  · split
    · rw [Chip.part_congr (Chip.modRegion_parts _ _ _)]
      split
      · rw [Chip.part_congr (Chip.endCmd_parts _ _ _)]
      · rfl
    · rfl

theorem Chip.fenceFlushed_parts : (b.fenceFlushed r e).parts = b.parts := by
  simp [Chip.fenceFlushed, Chip.fenceMark, Chip.forEach_keep Chip.parts Chip.faultPark (fun _ _ => rfl)]

variable {b r} in
/-- A fence breaks the contract of the partition that holds its region (R95). -/
theorem Chip.fence_breaks {p : Nat} (h : (b.region r).fenced = false) (hp : b.regionPart r = some p)
    (hs : (b.part p).status = .armed ∨ (b.part p).status = .suspended) : ((b.fence r e).part p).status = .broken := by
  have hf : (b.fenceFlushed r e).regionPart r = some p :=
    (FenceAlters.trans (.fenceMark b r) (.of_regions (b.fenceFlushed_regions r e))).part.trans hp
  have hq : (b.fenceFlushed r e).part p = b.part p := Chip.part_congr (b.fenceFlushed_parts r e) p
  have hb : (b.fenceFlushed r e).breakRegion r = (b.fenceFlushed r e).breakContract p := by
    rw [Chip.breakRegion, hf]
  rw [Chip.fence_unfenced e h, Chip.part_congr (Chip.logEvent_parts _ _), Chip.fenceDone,
    Chip.part_congr (Chip.raiseOwner_parts _ _ _), Chip.fenceBreaks, Chip.endPendingHalt_status,
    Chip.part_congr (Chip.abandonOnDemand_parts _ _), Chip.endPartCmds_status, hb, Chip.breakContract_status, hq, if_pos hs]

/-! ### A fence and the registers -/

theorem Chip.countBy_reg (i j n : Nat) {k l : Nat} (h : key k l ≠ key i j) : (b.countBy i j n).reg k l = b.reg k l :=
  Chip.reg_setReg _ _ _ _ _ _ h

theorem Chip.count_reg (i j : Nat) {k l : Nat} (h : key k l ≠ key i j) : (b.count i j).reg k l = b.reg k l :=
  Chip.reg_setReg _ _ _ _ _ _ h

theorem Chip.fenceMark_reg {k l : Nat} (hl : l < 256) (h : l ≠ 0x32) : (b.fenceMark r).reg k l = b.reg k l := by
  refine (Chip.reg_congr (c := ((b.stopSlots r).dropPacking r).dropHeld r) (by simp [Chip.fenceMark]) k l).trans ?_
  exact (Chip.countBy_reg _ _ _ _ (key_ne_of_sub hl (by decide) h)).trans
    (Chip.reg_congr (by simp) k l)

theorem Chip.dropToward_reg {k l : Nat} (hl : l < 256) (h : l ≠ 0x0A) : (b.dropToward r).reg k l = b.reg k l := by
  refine Chip.forEach_keep (fun c : Chip => c.reg k l) _ (fun c side => ?_) _ _
  split
  · rfl
  · exact Chip.countBy_reg _ _ _ _ (key_ne_of_sub hl (by decide) h)

theorem Chip.fenceFlushed_reg {k l : Nat} (hl : l < 256) (h : l ≠ 0x0A) :
    (b.fenceFlushed r e).reg k l = ((b.fenceMark r).setReg (0x2500 + r) 0x06 e.code).reg k l := by
  generalize hm : (b.fenceMark r).setReg (0x2500 + r) 0x06 e.code = m
  have hd : (b.fenceFlushed r e).dict = ((m.forEach (regionBanks r) Chip.faultPark).dropToward r).dict := by
    simp [Chip.fenceFlushed, hm]
  rw [Chip.reg_congr hd, Chip.dropToward_reg _ r hl h]
  exact Chip.reg_congr (Chip.forEach_keep Chip.dict Chip.faultPark (fun _ _ => rfl) _ _) k l

theorem Chip.abandonOnDemand_reg (hit : OnDemand → Bool) (k l : Nat) : (b.abandonOnDemand hit).reg k l = b.reg k l := by
  rw [Chip.abandonOnDemand]
  split
  · split
    · exact (b.tookFree.endCmd_reg 0x2E29 6 k l)
    · rfl
  · rfl

theorem Chip.endPartCmds_reg (k l : Nat) : (b.endPartCmds r).reg k l = b.reg k l := by
  have hr : ∀ (c : Chip) (q : Nat), (c.endPartReset q 3).reg k l = c.reg k l := fun c q => by
    rw [Chip.endPartReset]
    split
    · exact c.endCmd_reg 0x2E21 3 k l
    · rfl
  rw [Chip.endPartCmds]
  split
  · next p _ =>
    rw [Chip.endRearm]
    split
    · exact (Chip.endCmd_reg _ 0x2E25 3 k l).trans (hr b p)
    · exact hr b p
  · rfl

theorem Chip.endPendingHalt_reg (k l : Nat) : (b.endPendingHalt r).reg k l = b.reg k l := by
  rw [Chip.endPendingHalt]
  split
  · split
    · exact b.endCmd_reg 0x2E2D 6 k l
    · rfl
  · split
    · refine (Chip.reg_congr (Chip.modRegion_dict _ _ _) k l).trans ?_
      split
      · exact b.endCmd_reg 0x2E2D 6 k l
      · rfl
    · rfl

theorem Chip.fenceBreaks_reg (k l : Nat) : (b.fenceBreaks r).reg k l = b.reg k l := by
  rw [Chip.fenceBreaks, Chip.endPendingHalt_reg, Chip.abandonOnDemand_reg, Chip.endPartCmds_reg,
    Chip.reg_congr (Chip.breakRegion_dict _ _)]

variable {b r} in
/-- Of the registers that no entry counts in, a fence writes 0x25ii:06 and the counts 0x25ii:32 and :0A alone. -/
theorem Chip.fence_reg {k l : Nat} (h : (b.region r).fenced = false) (hq : QuietReg k l) (hl : l < 256) (hA : l ≠ 0x0A)
    : (b.fence r e).reg k l = ((b.fenceMark r).setReg (0x2500 + r) 0x06 e.code).reg k l := by
  rw [Chip.fence_unfenced e h, Chip.logEvent_reg_quiet hq, Chip.fenceDone, Chip.reg_congr (Chip.raiseOwner_dict _ _ _),
    Chip.fenceBreaks_reg, Chip.fenceFlushed_reg b r e hl hA]

variable {b r} in
/-- The code of the fence stands in 0x25ii:06 (R26). -/
theorem Chip.fence_code (h : (b.region r).fenced = false) (hr : r < 32) : (b.fence r e).reg (0x2500 + r) 6 = e.code := by
  rw [Chip.fence_reg e h (quietReg_region (by omega) (by omega) (by decide)) (by decide) (by decide),
    Chip.reg_setReg_self]

/-- The other registers that no entry counts in stay. -/
theorem Chip.fence_reg_keep {k l : Nat} (hq : QuietReg k l) (hl : l < 256) (h : l ∉ [0x06, 0x0A, 0x32]) :
    (b.fence r e).reg k l = b.reg k l := by
  simp only [List.mem_cons, List.not_mem_nil, or_false, not_or] at h
  obtain ⟨h6, hA, h32⟩ := h
  cases hf : (b.region r).fenced with
  | true =>
    rw [Chip.fence_again b r e hf, Chip.endRestart]
    split
    · exact b.endCmd_reg 0x2E05 3 k l
    · rfl
  | false =>
    rw [Chip.fence_reg e hf hq hl hA, Chip.reg_setReg _ _ _ _ _ _ (key_ne_of_sub hl (by decide) h6),
      Chip.fenceMark_reg b r hl h32]

/-- A fence flushes the region's ports of the hub; DRAM stays (R26, R366). -/
theorem Chip.fence_hubMem : (b.fence r e).hub.mem = b.hub.mem := by
  cases hf : (b.region r).fenced with
  | true => rw [Chip.fence_again b r e hf, Chip.endRestart_hub]
  | false =>
    have hh : (b.fenceDone r e).hub = (b.fenceFlushed r e).hub := by
      rw [Chip.fenceDone, Chip.raiseOwner_hub, Chip.fenceBreaks, Chip.endPendingHalt_hub, Chip.abandonOnDemand_hub,
        Chip.endPartCmds]
      split
      · rw [Chip.endRearm_hub, Chip.endPartReset_hub, Chip.breakRegion_hub]
      · rw [Chip.breakRegion_hub]
    have hm : (b.fenceFlushed r e).hub.mem = (b.fenceMark r).hub.mem := by
      simp [Chip.fenceFlushed, Chip.flushHubPorts, Chip.forEach_keep Chip.hub Chip.faultPark (by intros; rfl)]
    rw [Chip.fence_unfenced e hf, Chip.logEvent_hub, hh, hm]
    simp [Chip.fenceMark]

end
end Sys2Proof.Machine

namespace Sys2Proof.Machine
open Sys2Proof

/-! ### A slot miss of a checked region -/

section
variable {b : Chip} {r p : Nat} {m : MissInfo} {inj preceded : Bool}

/-- The miss record, its count and its cause stand in the region's objects (R91). -/
def Chip.missNoted (b : Chip) (r p : Nat) (m : MissInfo) (inj : Bool) : Chip :=
  let c := ((b.count (0x2530 + r) 7).setReg (0x2530 + r) 8 m.cause).modRegion r fun g =>
    { g with lastMiss := some (b.missRecord r m (b.part p).k inj) }
  { c with dbg := { c.dbg with missAt := Tab.set c.dbg.missAt p c.now } }

/-- The miss is the first of its partition's contract (R92). -/
def Chip.missFirst (b : Chip) (r p : Nat) (m : MissInfo) (inj : Bool) : Chip :=
  (b.missNoted r p m inj).modPart p fun q => { q with firstMiss := some (b.missRecord r m (b.part p).k inj) }

theorem Chip.slotMissAs_unchecked (h : b.regionPart r = none ∨ b.checksSlots r = false) :
    b.slotMissAs r m inj preceded = b := by
  have hn : (if b.checksSlots r then b.regionPart r else none) = none := by
    rcases h with h | h
    · rw [h, ite_self]
    · rw [h]; rfl
  simp only [Chip.slotMissAs, hn]

/-- The miss of an ARMED partition that none of its tick precedes fences (R92, R93). -/
theorem Chip.slotMissAs_breaks (hc : b.checksSlots r = true) (hp : b.regionPart r = some p)
    (hs : (b.part p).status = .armed) :
    ∃ e, e.code = evCode 3 6 r (0x100 + m.cause) ∧ b.slotMissAs r m inj false = (b.missFirst r p m inj).fence r e := by
  simp only [Chip.slotMissAs, hc, hp, hs, if_true]
  exact ⟨_, rfl, rfl⟩

/-- While BROKEN a miss is counted, and so is one of an ARMED partition that another of its tick precedes (R92, R93). -/
theorem Chip.slotMissAs_counts (hc : b.checksSlots r = true) (hp : b.regionPart r = some p)
    (hs : (b.part p).status = .broken ∨ (b.part p).status = .armed ∧ preceded = true) :
    b.slotMissAs r m inj preceded = (b.missNoted r p m inj).count (0x2521 + p) 0x0C := by
  simp only [Chip.slotMissAs, hc, hp, if_true]
  rcases hs with hs | ⟨hs, rfl⟩
  · simp only [hs]
    rfl
  · simp only [hs]
    rfl

theorem Chip.missNoted_region (b : Chip) (r p : Nat) (m : MissInfo) (inj : Bool) :
    (b.missNoted r p m inj).region r = { b.region r with lastMiss := some (b.missRecord r m (b.part p).k inj) } :=
  Chip.region_modRegion ((b.count (0x2530 + r) 7).setReg (0x2530 + r) 8 m.cause) r fun g =>
    { g with lastMiss := some (b.missRecord r m (b.part p).k inj) }

theorem Chip.missNoted_region_ne (p : Nat) (m : MissInfo) (inj : Bool) {j : Nat} (h : j ≠ r) :
    (b.missNoted r p m inj).region j = b.region j :=
  Chip.region_modRegion_ne ((b.count (0x2530 + r) 7).setReg (0x2530 + r) 8 m.cause) r j (fun g =>
    { g with lastMiss := some (b.missRecord r m (b.part p).k inj) }) h

theorem Chip.missNoted_reg_cause (b : Chip) (r p : Nat) (m : MissInfo) (inj : Bool) :
    (b.missNoted r p m inj).reg (0x2530 + r) 8 = m.cause :=
  Chip.reg_setReg_self (b.count (0x2530 + r) 7) _ _ _

theorem Chip.missNoted_reg {k l : Nat} (hl : l < 256) (h7 : l ≠ 7) (h8 : l ≠ 8) :
    (b.missNoted r p m inj).reg k l = b.reg k l :=
  (Chip.reg_setReg _ _ _ _ _ _ (key_ne_of_sub hl (by decide) h8)).trans
    (Chip.count_reg _ _ _ (key_ne_of_sub hl (by decide) h7))

theorem Area.same_missNoted {x : Area} (h : x ∉ [Area.dict, .regions, .dbg]) :
    x.same b (b.missNoted r p m inj) := by
  cases x <;> simp_all [Area.same, Chip.missNoted]

theorem Chip.missFirst_status (b : Chip) (r p : Nat) (m : MissInfo) (inj : Bool) (j : Nat) :
    ((b.missFirst r p m inj).part j).status = (b.part j).status :=
  Chip.modPart_keep Partition.status (b.missNoted r p m inj) p _ (by intro q; rfl) j

/-- Every miss of a checked region of an ARMED or BROKEN partition is its last, whether it fences or is counted (R91, R92). -/
theorem Chip.slotMissAs_seen (hc : b.checksSlots r = true) (hp : b.regionPart r = some p)
    (hs : (b.part p).status = .armed ∨ (b.part p).status = .broken) (hr : r < 32) :
    ((b.slotMissAs r m inj preceded).region r).lastMiss = some (b.missRecord r m (b.part p).k inj) ∧
      (b.slotMissAs r m inj preceded).reg (0x2530 + r) 8 = m.cause ∧
      (b.slotMissAs r m inj preceded).dev.st = b.dev.st ∧
      (b.slotMissAs r m inj preceded).hub.mem = b.hub.mem := by
  by_cases h : (b.part p).status = .broken ∨ (b.part p).status = .armed ∧ preceded = true
  · rw [Chip.slotMissAs_counts (m := m) (inj := inj) hc hp h]
    exact ⟨congrArg Region.lastMiss (b.missNoted_region r p m inj),
      (Chip.count_reg _ _ _ (key_ne_of_sub (by decide) (by decide) (by decide))).trans (b.missNoted_reg_cause r p m inj),
      rfl, rfl⟩
  · obtain ⟨ha, rfl⟩ : (b.part p).status = .armed ∧ preceded = false := by
      rcases hs with hs | hs <;> simp_all
    obtain ⟨e, -, he⟩ := Chip.slotMissAs_breaks (m := m) (inj := inj) hc hp ha
    rw [he]
    refine ⟨(FenceAlters.fence (b.missFirst r p m inj) r e).lastMiss.trans
      (congrArg Region.lastMiss (b.missNoted_region r p m inj)), ?_, Chip.fence_st _ _ _, Chip.fence_hubMem _ _ _⟩
    rw [Chip.fence_reg_keep _ _ _ (quietReg_region (by omega) (by omega) (by decide)) (by decide) (by decide)]
    exact b.missNoted_reg_cause r p m inj

/-- The miss that breaks the contract of a region without a fence (R92). -/
theorem Chip.slotMissAs_broken (hc : b.checksSlots r = true) (hp : b.regionPart r = some p)
    (hs : (b.part p).status = .armed) (hf : (b.region r).fenced = false) (hr : r < 32) :
    ((b.slotMissAs r m inj false).region r).fenced = true ∧
      ((b.slotMissAs r m inj false).part p).status = .broken ∧
      (b.slotMissAs r m inj false).reg (0x2500 + r) 6 = evCode 3 6 r (0x100 + m.cause) ∧
      ∀ j, j ≠ r → (b.slotMissAs r m inj false).region j = b.region j := by
  obtain ⟨e, hcode, he⟩ := Chip.slotMissAs_breaks (m := m) (inj := inj) hc hp hs
  have hg : (b.missFirst r p m inj).region r = _ := b.missNoted_region r p m inj
  have hf' : ((b.missFirst r p m inj).region r).fenced = false := by rw [hg]; exact hf
  have hp' : (b.missFirst r p m inj).regionPart r = some p := by rw [Chip.regionPart, hg]; exact hp
  rw [he]
  refine ⟨Chip.fence_fenced _ _ _, Chip.fence_breaks e hf' hp' (.inl ?_), (Chip.fence_code e hf' hr).trans hcode,
    fun j hj => ((FenceAlters.fence (b.missFirst r p m inj) r e).1 j hj).trans
      (Chip.missNoted_region_ne (b := b) p m inj hj)⟩
  rw [Chip.missFirst_status, hs]

end

/-! ### What precedes the check of a miss: an armed injection and a late crossing -/

section
variable (b : Chip) (r : Nat) (m : MissInfo)

/-- An armed injection of the cause is applied (R106). -/
def Chip.missApplied (b : Chip) (r : Nat) (m : MissInfo) : Chip :=
  if b.isArmed 0x2D62 m.cause r then b.applyArmed 0x2D62 m.cause r (evCode 3 6 r (0x100 + m.cause)) else b

/-- A late crossing takes effect on its lane (R145). -/
def Chip.crossingLate (b : Chip) (r : Nat) (m : MissInfo) : Chip :=
  match if m.cause = 1 && b.checksSlots r && (b.regionPart r).isSome then b.receiveLane r m.slot else none with
  | some l => b.lateToken l
  | none => b

/-- The device that the check of a miss finds. -/
def Chip.missMet (b : Chip) (r : Nat) (m : MissInfo) : Chip := (b.missApplied r m).crossingLate r m

theorem Chip.missAs_eq (preceded : Bool) :
    b.missAs r m preceded = (b.missMet r m).slotMissAs r m (b.isArmed 0x2D62 m.cause r) preceded := rfl

theorem Area.same_lateToken {x : Area} (h : x ∉ [Area.dict, .lanes]) (b : Chip) (l : Lane) : x.same b (b.lateToken l) := by
  rw [Chip.lateToken]
  split
  · cases x <;> simp_all [Area.same, Chip.deliver, Chip.modLane]
  · cases x <;> simp_all [Area.same]

theorem Area.same_crossingLate {x : Area} (h : x ∉ [Area.dict, .lanes]) : x.same b (b.crossingLate r m) := by
  rw [Chip.crossingLate]
  split
  · exact Area.same_lateToken h _ _
  · exact Area.same_refl x b

theorem Area.same_missApplied {x : Area} (h : x ∉ [Area.dict, .inject]) : x.same b (b.missApplied r m) := by
  rw [Chip.missApplied]
  split
  · cases x <;> simp_all [Area.same, Chip.applyArmed, Chip.unarm]
  · exact Area.same_refl x b

theorem Area.same_missMet {x : Area} (h : x ∉ [Area.dict, .lanes, .inject]) : x.same b (b.missMet r m) := by
  simp only [List.mem_cons, List.not_mem_nil, or_false, not_or] at h
  obtain ⟨hd, hl, hi⟩ := h
  exact (Area.same_missApplied b r m (by simp [hd, hi])).trans (Area.same_crossingLate _ r m (by simp [hd, hl]))

theorem Chip.missMet_regions : (b.missMet r m).regions = b.regions := Area.same_missMet b r m (x := .regions) (by decide)
theorem Chip.missMet_parts : (b.missMet r m).parts = b.parts := Area.same_missMet b r m (x := .parts) (by decide)
theorem Chip.missMet_belfry : (b.missMet r m).belfry = b.belfry := Area.same_missMet b r m (x := .belfry) (by decide)
theorem Chip.missMet_dev : (b.missMet r m).dev = b.dev := Area.same_missMet b r m (x := .dev) (by decide)
theorem Chip.missMet_hub : (b.missMet r m).hub = b.hub := Area.same_missMet b r m (x := .hub) (by decide)

theorem Chip.missMet_region (j : Nat) : (b.missMet r m).region j = b.region j := Chip.region_congr (b.missMet_regions r m) j
theorem Chip.missMet_part (p : Nat) : (b.missMet r m).part p = b.part p := Chip.part_congr (b.missMet_parts r m) p
theorem Chip.missMet_now : (b.missMet r m).now = b.now := congrArg Belfry.tick (b.missMet_belfry r m)

theorem Chip.missMet_regionPart (j : Nat) : (b.missMet r m).regionPart j = b.regionPart j :=
  congrArg Region.part (b.missMet_region r m j)

theorem Chip.missMet_checksSlots (j : Nat) : (b.missMet r m).checksSlots j = b.checksSlots j := by
  simp only [Chip.checksSlots, Chip.missMet_region, Chip.missMet_now]

theorem Chip.missMet_tbCount (j : Nat) : (b.missMet r m).tbCount j = b.tbCount j := by
  have hper : (b.missMet r m).period j = b.period j := by rw [Chip.period, Chip.period, b.missMet_region, b.missMet_now]
  have hph : (b.missMet r m).phaseOf j = b.phaseOf j := by rw [Chip.phaseOf, Chip.phaseOf, b.missMet_region]
  rw [Chip.tbCount, Chip.tbCount, hper, hph, b.missMet_region]

variable {b r m} in
theorem Chip.missApplied_unarmed (h : b.isArmed 0x2D62 m.cause r = false) : b.missApplied r m = b := if_neg (by simp [h])

variable {b r m} in
/-- Where no slot is checked and nothing is armed, a miss changes nothing (R92). -/
theorem Chip.missMet_unchecked (h : b.isArmed 0x2D62 m.cause r = false)
    (hu : b.regionPart r = none ∨ b.checksSlots r = false) : b.missMet r m = b := by
  have hn : (m.cause = 1 && b.checksSlots r && (b.regionPart r).isSome) = false := by
    rcases hu with hu | hu <;> simp [hu]
  rw [Chip.missMet, Chip.missApplied_unarmed h, Chip.crossingLate, hn]
  rfl

theorem Chip.lateToken_reg (l : Lane) {i j : Nat} (hj : j < 256) (h : j ≠ 8) : (b.lateToken l).reg i j = b.reg i j := by
  have hc := Chip.count_reg b (0x2500 + l.r) 8 (key_ne_of_sub (i := i) hj (by decide) h)
  rw [Chip.lateToken]
  split
  · exact hc
  · exact hc

variable {b r m} in
theorem Chip.missMet_reg {i j : Nat} (h : b.isArmed 0x2D62 m.cause r = false) (hj : j < 256) (h8 : j ≠ 8) :
    (b.missMet r m).reg i j = b.reg i j := by
  rw [Chip.missMet, Chip.missApplied_unarmed h, Chip.crossingLate]
  split
  · exact b.lateToken_reg _ hj h8
  · rfl

variable {b r m} in
theorem Area.same_missMet_unarmed {x : Area} (h : b.isArmed 0x2D62 m.cause r = false) (hx : x ∉ [Area.dict, .lanes]) :
    x.same b (b.missMet r m) := by
  rw [Chip.missMet, Chip.missApplied_unarmed h]
  exact Area.same_crossingLate b r m hx

end

/-! ### A slot miss as it is seen -/

section
variable {b : Chip} {r p : Nat} {m : MissInfo} {preceded : Bool}

/-- A miss of a region that holds no contract, or checks no slot, changes nothing (R92, R366). -/
theorem Chip.missAs_unchecked (h : b.isArmed 0x2D62 m.cause r = false)
    (hu : b.regionPart r = none ∨ b.checksSlots r = false) : b.missAs r m preceded = b := by
  rw [Chip.missAs_eq, Chip.missMet_unchecked h hu, Chip.slotMissAs_unchecked hu]

/-- What every miss of a checked region shows of itself (R91). -/
theorem Chip.missAs_seen (hc : b.checksSlots r = true) (hp : b.regionPart r = some p)
    (hs : (b.part p).status = .armed ∨ (b.part p).status = .broken) (hr : r < 32) :
    ((b.missAs r m preceded).region r).lastMiss.map (fun x => (x.cause, x.slot, x.tag, x.tick)) =
        some (m.cause, m.slot, m.tag, b.tbCount r) ∧
      (b.missAs r m preceded).reg (0x2530 + r) 8 = m.cause ∧ (b.missAs r m preceded).dev.st = b.dev.st ∧
      (b.missAs r m preceded).hub.mem = b.hub.mem := by
  rw [Chip.missAs_eq]
  obtain ⟨hl, hreg, hst, hmem⟩ := Chip.slotMissAs_seen (b := b.missMet r m) (m := m) (inj := b.isArmed 0x2D62 m.cause r)
    (preceded := preceded) ((b.missMet_checksSlots r m r).trans hc) ((b.missMet_regionPart r m r).trans hp)
    (by rw [Chip.missMet_part]; exact hs) hr
  refine ⟨?_, hreg, by rw [hst, Chip.missMet_dev], by rw [hmem, Chip.missMet_hub]⟩
  rw [hl, Option.map_some, Chip.missRecord, Chip.missMet_tbCount]

/-- The first miss of an ARMED partition fences its region alone and breaks the contract (R92, R95). -/
theorem Chip.missAs_breaks (hc : b.checksSlots r = true) (hp : b.regionPart r = some p) (hs : (b.part p).status = .armed)
    (hf : (b.region r).fenced = false) (hr : r < 32) :
    ((b.missAs r m false).region r).fenced = true ∧ ((b.missAs r m false).part p).status = .broken ∧
      (b.missAs r m false).reg (0x2500 + r) 6 = evCode 3 6 r (0x100 + m.cause) ∧
      ∀ j, j ≠ r → (b.missAs r m false).region j = b.region j := by
  rw [Chip.missAs_eq]
  obtain ⟨hfen, hst, hreg, hne⟩ := Chip.slotMissAs_broken (b := b.missMet r m) (m := m)
    (inj := b.isArmed 0x2D62 m.cause r) ((b.missMet_checksSlots r m r).trans hc) ((b.missMet_regionPart r m r).trans hp)
    (by rw [Chip.missMet_part]; exact hs) (by rw [Chip.missMet_region]; exact hf) hr
  exact ⟨hfen, hst, hreg, fun j hj => (hne j hj).trans (b.missMet_region r m j)⟩

/-- The device that has counted a miss while BROKEN (R92, R93). -/
def Chip.missCounted (b : Chip) (r p : Nat) (m : MissInfo) : Chip :=
  ((b.missMet r m).missNoted r p m false).count (0x2521 + p) 0x0C

theorem Chip.missAs_counts (hc : b.checksSlots r = true) (hp : b.regionPart r = some p)
    (hs : (b.part p).status = .broken ∨ (b.part p).status = .armed ∧ preceded = true)
    (ha : b.isArmed 0x2D62 m.cause r = false) : b.missAs r m preceded = b.missCounted r p m := by
  rw [Chip.missAs_eq, ha]
  exact Chip.slotMissAs_counts ((b.missMet_checksSlots r m r).trans hc) ((b.missMet_regionPart r m r).trans hp)
    (by rw [Chip.missMet_part]; exact hs)

theorem Chip.missCounted_count (ha : b.isArmed 0x2D62 m.cause r = false) :
    (b.missCounted r p m).reg (0x2521 + p) 0x0C = sat32 (b.reg (0x2521 + p) 0x0C + 1) := by
  rw [Chip.missCounted, Chip.count, Chip.reg_setReg_self, Chip.missNoted_reg (by decide) (by decide) (by decide),
    Chip.missMet_reg ha (by decide) (by decide)]

theorem Chip.missCounted_fenced (b : Chip) (r p : Nat) (m : MissInfo) :
    ((b.missCounted r p m).region r).fenced = (b.region r).fenced := by
  rw [← b.missMet_region r m r]
  exact (congrArg Region.fenced ((b.missMet r m).missNoted_region r p m false) :)

theorem Area.same_missCounted {x : Area} (ha : b.isArmed 0x2D62 m.cause r = false)
    (h : x ∉ [Area.dict, .regions, .lanes, .dbg]) : x.same b (b.missCounted r p m) := by
  simp only [List.mem_cons, List.not_mem_nil, or_false, not_or] at h
  obtain ⟨hd, hr, hl, hg⟩ := h
  exact ((Area.same_missMet_unarmed ha (by simp [hd, hl])).trans (Area.same_missNoted (by simp [hd, hr, hg]))).trans
    (Area.same_count hd _ _ _)

end

/-- Settles O13: of a checked region each miss is noted, and then fences or is counted; elsewhere it changes nothing. -/
theorem slotMissesBreakTheContract : Obligations.SlotMissesBreakTheContract := by
  unfold Obligations.SlotMissesBreakTheContract
  intro live preceded
  refine ⟨?_, ?_, ?_, ?_⟩
  · intro s r p t0 m ⟨hr, _, hp, hc⟩ hs
    obtain ⟨hl, hreg, hst, -⟩ := Chip.missAs_seen (b := s.toChip.upTo t0) (m := m) (preceded := preceded s r t0 m) hc hp hs hr
    exact ⟨_, rfl, hl, hreg, hst⟩
  · intro s r p t0 m ⟨hr, _, hp, hc⟩ hs hq hf
    obtain ⟨hfen, hst, hreg, hne⟩ := Chip.missAs_breaks (b := s.toChip.upTo t0) (m := m) hc hp hs hf hr
    exact ⟨_, congrArg (fun x => Host.Outcome.next (s.on ((s.toChip.upTo t0).missAs r m x))) hq, hfen, hst, hreg,
      fun j hj => congrArg Region.fenced (hne j hj)⟩
  · intro s r p t0 m ⟨_, _, hp, hc⟩ ha hs
    have he := Chip.missAs_counts (b := s.toChip.upTo t0) (m := m) (preceded := preceded s r t0 m) hc hp hs ha
    refine ⟨_, congrArg (fun b => Host.Outcome.next (s.on b)) he, Chip.missCounted_count (b := s.toChip.upTo t0) ha,
      Chip.missCounted_fenced (s.toChip.upTo t0) r p m,
      Area.same_missCounted (b := s.toChip.upTo t0) (x := .parts) ha (by decide),
      (OnlyTouches.upTo (by decide) s t0).extend fun x hx => Area.same_missCounted ha ?_⟩
    simp only [List.mem_cons, not_or] at hx ⊢
    exact hx.2
  · intro s r t0 m ha hu
    exact ⟨_, congrArg (fun b => Host.Outcome.next (s.on b)) (Chip.missAs_unchecked (b := s.toChip.upTo t0) ha hu),
      OnlyTouches.upTo (by decide) s t0⟩

end Sys2Proof.Machine

namespace Sys2Proof.Machine
open Sys2Proof

/-! ### What the bytes of DRAM depend on -/

/-- The contents of DRAM and the map of its addresses are the same. -/
def SameDram (b c : Chip) : Prop :=
  (c.hub.mem, c.hub.fills, c.hub.base, c.hub.set_) = (b.hub.mem, b.hub.fills, b.hub.base, b.hub.set_) ∧
    ∀ k, (c.channel k).dimms = (b.channel k).dimms

section
variable {b c d : Chip}

theorem SameDram.of_hub (h : c.hub = b.hub) : SameDram b c := by
  simp [SameDram, Chip.channel, h]

theorem SameDram.trans (h : SameDram b c) (h' : SameDram c d) : SameDram b d :=
  ⟨h'.1.trans h.1, fun k => (h'.2 k).trans (h.2 k)⟩

theorem SameDram.hubChannel (h : SameDram b c) (a : Nat) : c.hubChannel a = b.hubChannel a := by
  obtain ⟨hv, hd⟩ := h
  have hs : c.channelSet = b.channelSet := by
    simp only [Prod.mk.injEq] at hv
    rw [Chip.channelSet, Chip.channelSet, hv.2.2.2]
  have hm : c.hubMap = b.hubMap := by
    simp only [Chip.hubMap, Chip.setDimms, hs, hd]
  rw [Chip.hubChannel, Chip.hubChannel, hm, hs]

theorem SameDram.dramByte (h : SameDram b c) (a : Nat) : c.dramByte a = b.dramByte a := by
  have hr : ∀ x, c.reaches x a = b.reaches x a := fun x => by
    simp only [Chip.reaches, h.hubChannel]
  have hv := h.1
  simp only [Prod.mk.injEq] at hv
  obtain ⟨hm, hf, hb, -⟩ := hv
  have hu : c.unwrittenByte a = b.unwrittenByte a := by
    simp only [Chip.unwrittenByte, hr, hf, hb]
  rw [Chip.dramByte, Chip.dramByte, hm, hu]

theorem SameDram.dramBytes (h : SameDram b c) (a n : Nat) : c.dramBytes a n = b.dramBytes a n := by
  simp only [Chip.dramBytes, h.dramByte]

/-- The bytes that a write enables read as written, the others as before. -/
theorem Chip.dramByte_dramWrite (b : Chip) (a : Nat) (mask : Nat → Bool) (d : Bytes) (k : Nat) :
    (b.dramWrite a mask d).dramByte k =
      if a ≤ k ∧ k < a + d.length ∧ mask (k - a) = true then d.getD (k - a) 0#8 else b.dramByte k := by
  induction d using List.reverseRecOn with
  | nil => exact (if_neg (by simp only [List.length_nil]; omega)).symm
  | append_singleton d v ih =>
    have hw : b.dramWrite a mask (d ++ [v]) =
        if mask d.length then (b.dramWrite a mask d).dramStore (a + d.length) v else b.dramWrite a mask d := by
      simp [Chip.dramWrite, List.zipIdx_append]
    have hold : k ≠ a + d.length → ((a ≤ k ∧ k < a + d.length ∧ mask (k - a) = true) ↔
        (a ≤ k ∧ k < a + (d ++ [v]).length ∧ mask (k - a) = true)) := fun hk => by
      rw [List.length_append, List.length_singleton]
      constructor <;> rintro ⟨h1, h2, h3⟩ <;> exact ⟨h1, by omega, h3⟩
    have hget : k - a < d.length → (d ++ [v]).getD (k - a) 0#8 = d.getD (k - a) 0#8 := fun hk => by
      rw [List.getD_append _ _ _ _ hk]
    rw [hw]
    by_cases hk : k = a + d.length
    · subst hk
      cases hm : mask d.length with
      | true => simp [Chip.dramByte_dramStore, hm]
      | false => simp [ih, hm]
    · have hs : (if mask d.length then (b.dramWrite a mask d).dramStore (a + d.length) v
          else b.dramWrite a mask d).dramByte k = (b.dramWrite a mask d).dramByte k := by
        split
        · rw [Chip.dramByte_dramStore, if_neg hk]
        · rfl
      rw [hs, ih, if_congr (hold hk) rfl rfl]
      split
      · next h =>
        rw [hget]
        rw [List.length_append, List.length_singleton] at h
        omega
      · rfl

theorem Area.same_foldl {β : Type} {x : Area} {f : Chip → β → Chip} (h : ∀ c y, x.same c (f c y)) (l : List β) (b : Chip) :
    x.same b (l.foldl f b) := by
  induction l generalizing b with
  | nil => exact Area.same_refl x b
  | cons y l ih => exact (h b y).trans (ih (f b y))

theorem Area.same_dramWrite {x : Area} (h : x ≠ .hub) (b : Chip) (a : Nat) (mask : Nat → Bool) (d : Bytes) :
    x.same b (b.dramWrite a mask d) :=
  Area.same_foldl (fun c y => by
    split
    · exact Area.same_hub h c _
    · exact Area.same_refl x c) _ _

theorem Chip.dramWrite_writes (b : Chip) (a : Nat) (mask : Nat → Bool) (d : Bytes) :
    (b.dramWrite a mask d).hub.writes = b.hub.writes :=
  foldl_keep (fun b : Chip => b.hub.writes) _ (fun b x => by split <;> rfl) _ _

end

/-! ### Requests where no injection is armed -/

section
variable {b : Chip} {rr a : Nat}

theorem Chip.isArmed_nil (h : b.inject.armed = []) (o c t : Nat) : b.isArmed o c t = false := by
  simp [Chip.isArmed, h]

theorem Chip.readLine_unarmed (h : b.inject.armed = []) (hb : a / 64 ∉ b.hub.badLines) (sched : Bool) :
    b.readLine a sched = (b, false, false) := by
  simp [Chip.readLine, Chip.isArmed_nil h, hb]

theorem Chip.tagFails_unarmed (h : b.inject.armed = []) (part : Bool) : b.tagFails rr a part = (b, false) := by
  simp [Chip.tagFails, Chip.isArmed_nil h]

theorem Chip.writeFails_unarmed (h : b.inject.armed = []) (sched : Bool) : b.writeFails a sched = (b, false) := by
  simp [Chip.writeFails, Chip.isArmed_nil h]

/-- A line of a pinned-sealed region is always in the cache (R277, R278). -/
theorem Chip.useMeta_pinned (h : b.inject.armed = []) (hm : b.protMode rr = 3) (level m : Nat) (dirty : Bool) :
    b.useMeta rr level m a dirty = (if dirty then b.pinDirty m else b, true) := by
  simp [Chip.useMeta, Chip.cacheHit, Chip.isArmed_nil h, hm]

theorem Chip.trimCache_room (h : b.cupola.cache.length ≤ b.cacheRoom) : b.trimCache = b := by
  rw [Chip.trimCache, show 16 * (b.cupola.cache.length + 1) = 16 * b.cupola.cache.length + 15 + 1 by omega, Chip.evict,
    if_neg (Nat.not_lt.2 h)]

/-- The metadata of a data line of a pinned-sealed region that a write makes dirty. -/
def Chip.metaDirtied (b : Chip) (rr a : Nat) : Chip :=
  (b.pinDirty (b.metaAddr rr 1 a)).pinDirty (b.metaAddr rr 0 a)

theorem Chip.useChain_pinned_read (h : b.inject.armed = []) (hm : b.protMode rr = 3)
    (hc : b.cupola.cache.length ≤ b.cacheRoom) (tag : Bool) : b.useChain rr a tag false = (b, true) := by
  have hu : ∀ level m, b.useMeta rr level m a false = (b, true) := fun level m => Chip.useMeta_pinned h hm level m false
  have hk : ∀ m, b.cached rr m = true := fun m => by simp [Chip.cached, hm]
  cases tag <;> simp [Chip.useChain, Chip.useLines, hk, hu, Chip.trimCache_room hc]

theorem Chip.useChain_pinned_write (h : b.inject.armed = []) (hm : b.protMode rr = 3)
    (hc : b.cupola.cache.length ≤ b.cacheRoom) : b.useChain rr a true true = (b.metaDirtied rr a, true) := by
  have hk : ∀ m, b.cached rr m = true := fun m => by simp [Chip.cached, hm]
  have h1 : b.useMeta rr 1 (b.metaAddr rr 1 a) a true = (b.pinDirty (b.metaAddr rr 1 a), true) :=
    Chip.useMeta_pinned h hm _ _ true
  have h0 : (b.pinDirty (b.metaAddr rr 1 a)).useMeta rr 0 (b.metaAddr rr 0 a) a true = (b.metaDirtied rr a, true) :=
    Chip.useMeta_pinned (b := b.pinDirty (b.metaAddr rr 1 a)) h hm _ _ true
  have ht : (b.metaDirtied rr a).trimCache = b.metaDirtied rr a := Chip.trimCache_room (b := b.metaDirtied rr a) hc
  simp [Chip.useChain, Chip.useLines, hk, h1, h0, ht]

/-- What a read serves: the bytes in DRAM, or zeros of a sealed line not yet written (R273). -/
def Chip.lineRead (b : Chip) (rr a n : Nat) : Bytes :=
  if 2 ≤ b.protMode rr ∧ b.minorOf a = 0 then List.replicate n 0#8 else b.dramBytes a n

/-- A read of an open or pinned-sealed line that nothing stands against is served and changes nothing (R273, R284). -/
theorem Chip.serveRead_served (h : b.inject.armed = []) (hb : a / 64 ∉ b.hub.badLines)
    (hm : b.protMode rr < 2 ∨ b.protMode rr = 3) (hc : b.cupola.cache.length ≤ b.cacheRoom) (n : Nat) (sched : Bool) :
    b.serveRead rr a n sched = (b, { code := 0, data := b.lineRead rr a n }) := by
  have hl := Chip.readLine_unarmed h hb sched
  rcases hm with hm | hm
  · have hu : ¬ (2 ≤ b.protMode rr ∧ b.minorOf a = 0) := by omega
    simp [Chip.serveRead, Chip.lineRead, hm, hl, hu]
  · by_cases hf : b.minorOf a = 0
    · simp [Chip.serveRead, Chip.lineRead, hm, hf, Chip.useChain_pinned_read h hm hc, failWith]
    · simp [Chip.serveRead, Chip.lineRead, hm, hf, Chip.useChain_pinned_read h hm hc, hl, Chip.tagFails_unarmed h]

/-- A sealed line is made ready for a write: its metadata is dirty, and its minor counter raised (R273, R279). -/
def Chip.lineReady (b : Chip) (rr a : Nat) : Chip :=
  if 2 ≤ b.protMode rr then (b.metaDirtied rr a).bumpMinor rr a else b

/-- The rest of a sealed line not yet written becomes 0 (R273). -/
def Chip.lineCleared (b : Chip) (rr a : Nat) : Chip :=
  if 2 ≤ b.protMode rr ∧ b.minorOf a = 0 then
    (b.lineReady rr a).dramWrite (a / 64 * 64) (fun _ => true) (List.replicate 64 0#8)
  else b.lineReady rr a

/-- A write of part of an open or pinned-sealed line that nothing stands against is served (R247, R273, R283). -/
theorem Chip.serveWrite_served (h : b.inject.armed = []) (hb : a / 64 ∉ b.hub.badLines)
    (hm : b.protMode rr < 2 ∨ b.protMode rr = 3) (hc : b.cupola.cache.length ≤ b.cacheRoom) (mask : Nat → Bool) (d : Bytes)
    (sched : Bool) :
    b.serveWrite rr a mask d false sched = ((b.lineCleared rr a).dramWrite a mask d, failWith 0 0 false) := by
  rcases hm with hm | hm
  · have hs : ¬ 2 ≤ b.protMode rr := by omega
    simp [Chip.serveWrite, Chip.oldLine, Chip.lineCleared, Chip.lineReady, hs, Chip.readLine_unarmed h hb,
      Chip.writeFails_unarmed h, failWith, Chip.storeLine]
  · have hs : 2 ≤ b.protMode rr := by omega
    have hk := Chip.useChain_pinned_write (a := a) h hm hc
    have hw : (b.metaDirtied rr a).writeFails a sched = (b.metaDirtied rr a, false) :=
      Chip.writeFails_unarmed (b := b.metaDirtied rr a) h sched
    by_cases hf : b.minorOf a = 0
    · simp [Chip.serveWrite, Chip.lineCleared, Chip.lineReady, hs, hf, hk, hw, failWith, Chip.storeLine]
    · have hl : (b.metaDirtied rr a).readLine a sched = (b.metaDirtied rr a, false, false) :=
        Chip.readLine_unarmed (b := b.metaDirtied rr a) h hb sched
      have ht : (b.metaDirtied rr a).tagFails rr a true = (b.metaDirtied rr a, false) :=
        Chip.tagFails_unarmed (b := b.metaDirtied rr a) h true
      have ho : (b.metaDirtied rr a).oldLine rr a sched = (b.metaDirtied rr a, failWith 0 0 false) := by
        rw [Chip.oldLine, hl]
        simp [ht]
      simp [Chip.serveWrite, Chip.lineCleared, Chip.lineReady, hs, hf, hk, ho, hw, failWith, Chip.storeLine]

/-! ### What a served write leaves -/

theorem Area.same_bumpMinor {x : Area} (h : b.inject.armed = []) (hx : x ∉ [Area.cupola, .dict]) :
    x.same b (b.bumpMinor rr a) := by
  rw [Chip.bumpMinor]
  split
  · cases x <;> simp_all [Area.same]
  · split
    · rw [Chip.overflowPage]
      simp only [Chip.isArmed_nil h]
      cases x <;> simp_all [Area.same]
    · cases x <;> simp_all [Area.same]

theorem Area.same_lineReady {x : Area} (h : b.inject.armed = []) (hx : x ∉ [Area.cupola, .dict]) :
    x.same b (b.lineReady rr a) := by
  have hd : x.same b (b.metaDirtied rr a) := by
    cases x <;> simp_all [Area.same, Chip.metaDirtied, Chip.pinDirty]
  rw [Chip.lineReady]
  split
  · exact hd.trans (Area.same_bumpMinor (b := b.metaDirtied rr a) h hx)
  · exact Area.same_refl x b

theorem Area.same_lineCleared {x : Area} (h : b.inject.armed = []) (hx : x ∉ [Area.hub, .cupola, .dict]) :
    x.same b (b.lineCleared rr a) := by
  simp only [List.mem_cons, not_or] at hx
  have hr : x.same b (b.lineReady rr a) := Area.same_lineReady h (by simp only [List.mem_cons, not_or]; exact hx.2)
  rw [Chip.lineCleared]
  split
  · exact hr.trans (Area.same_dramWrite hx.1 _ _ _ _)
  · exact hr

theorem Chip.lineReady_hub (h : b.inject.armed = []) (rr a : Nat) : (b.lineReady rr a).hub = b.hub :=
  Area.same_lineReady (x := .hub) h (by decide)

theorem Chip.lineCleared_writes (h : b.inject.armed = []) (rr a : Nat) : (b.lineCleared rr a).hub.writes = b.hub.writes := by
  rw [Chip.lineCleared]
  split
  · rw [Chip.dramWrite_writes, Chip.lineReady_hub h]
  · rw [Chip.lineReady_hub h]

theorem Chip.lineCleared_dramByte (h : b.inject.armed = []) (rr a k : Nat) :
    (b.lineCleared rr a).dramByte k =
      if 2 ≤ b.protMode rr ∧ b.minorOf a = 0 ∧ k / 64 = a / 64 then 0#8 else b.dramByte k := by
  have hr := (SameDram.of_hub (Chip.lineReady_hub h rr a)).dramByte k
  by_cases hf : 2 ≤ b.protMode rr ∧ b.minorOf a = 0
  · rw [Chip.lineCleared, if_pos hf, Chip.dramByte_dramWrite, hr]
    obtain ⟨hs, h0⟩ := hf
    simp only [hs, h0, true_and, and_true]
    rw [List.length_replicate]
    by_cases hk : k / 64 = a / 64
    · rw [if_pos (by omega), if_pos hk, List.getD_replicate _ (by omega)]
    · rw [if_neg (by omega), if_neg hk]
  · rw [Chip.lineCleared, if_neg hf, hr, if_neg fun hc => hf ⟨hc.1, hc.2.1⟩]

end
end Sys2Proof.Machine

namespace Sys2Proof.Machine
open Sys2Proof

/-! ### Scheduled requests that are served -/

/-- A scheduled request of a port meets its slot and its window, and nothing stands against it (R250, R252, R286). -/
structure Chip.WindowServed (b : Chip) (r h a : Nat) (we pinned part : Bool) (rr : Nat) : Prop where
  slot : (b.requestSlot r h we pinned).isSome = true
  runs : b.fabricRuns r = true
  unarmed : b.inject.armed = []
  taken : b.windowTaken r h a = true
  target : b.windowTarget (b.regionOwner r) a we part pinned = 0
  region : b.protAt a = some rr
  mode : b.protMode rr ≤ 3
  line : a / 64 ∉ b.hub.badLines
  aligned : a % 32 = 0
  cache : b.cupola.cache.length ≤ b.cacheRoom

theorem Area.same_beginWindow {x : Area} (h : x ≠ .hub) (b : Chip) (a : Nat) (we : Bool) : x.same b (b.beginWindow a we) :=
  Area.same_hub h b _

theorem SameDram.beginWindow (b : Chip) (a : Nat) (we : Bool) : SameDram b (b.beginWindow a we) := by
  refine ⟨rfl, fun k => ?_⟩
  rw [Chip.beginWindow]
  by_cases hk : k = b.hubChannel a
  · rw [hk, Chip.channel_modChannel]
  · rw [Chip.channel_modChannel_ne hk]

section
variable {b : Chip} {r h a rr : Nat} {we pinned part : Bool}

theorem Chip.WindowServed.addr (hw : b.WindowServed r h a we pinned part rr) : a / 32 * 32 = a := by
  have := hw.aligned
  omega

/-- A target of mode 2 is no target of a scheduled request (R286). -/
theorem Chip.WindowServed.mode_cases (hw : b.WindowServed r h a we pinned part rr) :
    b.protMode rr < 2 ∨ b.protMode rr = 3 := by
  have hm := hw.mode
  have h2 : b.protMode rr ≠ 2 := fun h2 => by
    have ht := hw.target
    cases ho : b.regionOwner r <;> simp [Chip.windowTarget, hw.region, ho, h2] at ht
  omega

theorem Chip.WindowServed.scheduled (hw : b.WindowServed r h a we pinned part rr) (f : Chip → Nat → Chip) :
    b.scheduled r h a we part pinned f = f (b.beginWindow a we) 0 := by
  obtain ⟨x, hx⟩ := Option.isSome_iff_exists.1 hw.slot
  have ha : b.armedWindow r = none := by simp [Chip.armedWindow, Chip.isArmed_nil hw.unarmed]
  simp only [Chip.scheduled, hx, hw.runs, ha, hw.taken, hw.target]
  rfl

/-- A read in flight to the return register of its port (R82, R250). -/
def Chip.readSent (b : Chip) (r h a : Nat) (pinned : Bool) (rr : Nat) : Chip :=
  (b.beginWindow a false).sendWindow r h a pinned { code := 0, data := b.lineRead rr a 32 }

theorem Chip.schedRead_served (hw : b.WindowServed r h a false pinned false rr) :
    b.schedRead r h a pinned = b.readSent r h a pinned rr := by
  have hs := Chip.serveRead_served (b := b.beginWindow a false) (a := a) (rr := rr) hw.unarmed hw.line hw.mode_cases
    hw.cache 32 true
  have hl : (b.beginWindow a false).lineRead rr a 32 = b.lineRead rr a 32 := by
    rw [Chip.lineRead, Chip.lineRead, (SameDram.beginWindow b a false).dramBytes]
    rfl
  have hp : (b.beginWindow a false).protAt a = some rr := hw.region
  rw [Chip.schedRead, hw.addr, hw.scheduled]
  simp only [hp, hs, hl]
  rfl

theorem Chip.readSent_window (b : Chip) (r h a : Nat) (pinned : Bool) (rr : Nat) :
    ∃ w, Tab.get [] (b.readSent r h a pinned rr).hub.windowsOut (2 * r + h) =
        Tab.get [] b.hub.windowsOut (2 * r + h) ++ [w] ∧
      w.code = 0 ∧ w.addr = a ∧ w.due = b.now + (if pinned then 90 else 80) ∧ w.cycle = b.roundCycle r ∧
      w.data = b.lineRead rr a 32 :=
  ⟨_, Tab.get_set_self _ _ _ _, rfl, rfl, rfl, rfl, rfl⟩

/-- The port remembers its write and the tick of it (R87). -/
def Chip.writeNoted (b : Chip) (k a : Nat) : Chip :=
  { b with hub := { b.hub with writes := Tab.set b.hub.writes k (a, b.now, 0) } }

/-- A served write stands in DRAM at once (R87). -/
def Chip.writeDone (b : Chip) (r h a rr : Nat) (mask : Nat → Bool) (d : Bytes) : Chip :=
  (((b.beginWindow a true).writeNoted (2 * r + h) a).lineCleared rr a).dramWrite a mask d

theorem Chip.schedWrite_served {m : BitVec 32} (hw : b.WindowServed r h a true pinned (m != BitVec.allOnes 32) rr)
    (d : Bytes) : b.schedWrite r h a pinned m d = b.writeDone r h a rr m.getLsbD d := by
  have hs := Chip.serveWrite_served (b := (b.beginWindow a true).writeNoted (2 * r + h) a) (a := a) (rr := rr) hw.unarmed
    hw.line hw.mode_cases hw.cache m.getLsbD d true
  have hp : (b.beginWindow a true).protAt a = some rr := hw.region
  rw [Chip.writeNoted] at hs
  rw [Chip.schedWrite, hw.addr, hw.scheduled]
  simp only [hp, hs, failWith]
  rfl

/-- The bytes that a served write enables are its own; of a sealed line not yet written the others are 0 (R87, R273). -/
theorem Chip.writeDone_dramByte (ha : b.inject.armed = []) (mask : Nat → Bool) (d : Bytes) (k : Nat) :
    (b.writeDone r h a rr mask d).dramByte k =
      if a ≤ k ∧ k < a + d.length ∧ mask (k - a) = true then d.getD (k - a) 0#8
      else if 2 ≤ b.protMode rr ∧ b.minorOf a = 0 ∧ k / 64 = a / 64 then 0#8 else b.dramByte k := by
  have hd : SameDram b ((b.beginWindow a true).writeNoted (2 * r + h) a) :=
    (SameDram.beginWindow b a true).trans ⟨rfl, fun _ => rfl⟩
  rw [Chip.writeDone, Chip.dramByte_dramWrite,
    Chip.lineCleared_dramByte (b := (b.beginWindow a true).writeNoted (2 * r + h) a) ha, hd.dramByte]
  rfl

theorem Chip.writeDone_writes (ha : b.inject.armed = []) (mask : Nat → Bool) (d : Bytes) :
    Tab.get (0, 0, 0) (b.writeDone r h a rr mask d).hub.writes (2 * r + h) = (a, b.now, 0) := by
  rw [Chip.writeDone, Chip.dramWrite_writes,
    Chip.lineCleared_writes (b := (b.beginWindow a true).writeNoted (2 * r + h) a) ha]
  exact Tab.get_set_self _ _ _ _

theorem Area.same_writeDone {x : Area} (ha : b.inject.armed = []) (hx : x ∉ [Area.hub, .cupola, .dict]) (mask : Nat → Bool)
    (d : Bytes) : x.same b (b.writeDone r h a rr mask d) := by
  have hh : x ≠ .hub := by rintro rfl; simp at hx
  have hn : x.same b ((b.beginWindow a true).writeNoted (2 * r + h) a) :=
    (Area.same_beginWindow hh b a true).trans (Area.same_hub hh _ _)
  exact (hn.trans (Area.same_lineCleared (b := (b.beginWindow a true).writeNoted (2 * r + h) a) ha hx)).trans
    (Area.same_dramWrite hh _ _ _ _)

end

/-! ### Return slots -/

section
variable {f : Window → Bool}

theorem lastWindow_none {l : List Window} (hl : ∀ v ∈ l, f v = false) : lastWindow f l = none := by
  induction l with
  | nil => rfl
  | cons v l ih =>
    rw [List.forall_mem_cons] at hl
    simp [lastWindow, ih hl.2, hl.1]

/-- The last window that satisfies f is the one that none behind it does. -/
theorem lastWindow_last (l0 : List Window) {w : Window} {l : List Window} (hw : f w = true) (hl : ∀ v ∈ l, f v = false) :
    lastWindow f (l0 ++ w :: l) = some (w, l) := by
  induction l0 with
  | nil => simp [lastWindow, lastWindow_none hl, hw]
  | cons v l0 ih => simp [lastWindow, ih]

end

section
variable {b : Chip} {r h : Nat} {x : Nat × BitVec 64} {w : Window} {l : List Window}

/-- The window's request stands a hub latency of the region before the return entry e in the present cycle (R85, R87). -/
def Chip.answers (b : Chip) (r : Nat) (e : BitVec 64) (w : Window) : Prop :=
  w.cycle + latencyOf (b.region r).m e = b.roundCycle r

theorem Chip.matchingWindow_last {e : BitVec 64} {l0 : List Window}
    (hq : Tab.get [] b.hub.windowsOut (2 * r + h) = l0 ++ w :: l) (hw : b.answers r e w) (hl : ∀ v ∈ l, ¬ b.answers r e v) :
    b.matchingWindow r h e = some (w, l) := by
  rw [Chip.matchingWindow, hq]
  exact lastWindow_last l0 (beq_iff_eq.2 hw) fun v hv => beq_eq_false_iff_ne.2 (hl v hv)

theorem Chip.matchingWindow_none {e : BitVec 64}
    (hl : ∀ v ∈ Tab.get [] b.hub.windowsOut (2 * r + h), ¬ b.answers r e v) : b.matchingWindow r h e = none :=
  lastWindow_none fun v hv => beq_eq_false_iff_ne.2 (hl v hv)

/-- The return register of a port holds the data of a window, and those behind it wait (R250). -/
def Chip.windowHanded (b : Chip) (r h : Nat) (w : Window) (l : List Window) : Chip :=
  { b with hub := { b.hub with
      windowsOut := Tab.set b.hub.windowsOut (2 * r + h) l
      returned := Tab.set b.hub.returned (2 * r + h) (w.code, w.data)
      schedOut := Tab.set b.hub.schedOut (2 * r + h) (b.isle r, w.code, w.data) } }

section
variable (he : b.returnEntry r h = some x) (hr : b.fabricRuns r = true)
include he hr

/-- Late data, injected or not, is a miss with cause 6 (R90, R106). -/
theorem Chip.returnSlot_late
    (hl : b.isArmed 0x2D62 6 r = true ∨ ∃ w l, b.matchingWindow r h x.2 = some (w, l) ∧ b.now < w.due) :
    b.returnSlot r h = b.missSeen r (b.slotMissInfo r 6 x) := by
  cases ha : b.isArmed 0x2D62 6 r with
  | true => simp [Chip.returnSlot, he, hr, ha]
  | false =>
    obtain ⟨w, l, hm, hd⟩ := hl.resolve_left (by simp [ha])
    simp [Chip.returnSlot, he, hr, ha, hm, hd]

/-- The slot of an unused request is no miss (R90). -/
theorem Chip.returnSlot_unused (ha : b.isArmed 0x2D62 6 r = false) (hm : b.matchingWindow r h x.2 = none) :
    b.returnSlot r h = b := by
  simp [Chip.returnSlot, he, hr, ha, hm]

theorem Chip.returnSlot_handed (ha : b.isArmed 0x2D62 6 r = false) (hm : b.matchingWindow r h x.2 = some (w, l))
    (hd : w.due ≤ b.now) (hc : w.code = 0) : b.returnSlot r h = b.windowHanded r h w l := by
  simp [Chip.returnSlot, Chip.windowHanded, he, hr, ha, hm, Nat.not_lt.2 hd, hc]

end

/-- A region whose fabric runs checks its slots. -/
theorem Chip.checksSlots_of_runs (hr : b.fabricRuns r = true) : b.checksSlots r = true := by
  simp only [Chip.fabricRuns, Bool.and_eq_true, Bool.not_eq_true'] at hr
  obtain ⟨⟨-, hh⟩, hi⟩ := hr
  simp [Chip.checksSlots, hh, hi]

/-- A miss of an ARMED partition whose region runs fences it, breaks the contract and stands in the region's record; DRAM stays
(R91, R92). -/
theorem Chip.missSeen_breaks {p : Nat} {m : MissInfo} (hf : b.fabricRuns r = true) (hp : b.regionPart r = some p)
    (hs : (b.part p).status = .armed) (hfen : (b.region r).fenced = false) (hr : r < 32) :
    ((b.missSeen r m).region r).fenced = true ∧ ((b.missSeen r m).part p).status = .broken ∧
      (∃ y, ((b.missSeen r m).region r).lastMiss = some y ∧ y.cause = m.cause ∧ y.slot = m.slot) ∧
      (b.missSeen r m).hub.mem = b.hub.mem := by
  have hc := Chip.checksSlots_of_runs hf
  obtain ⟨hfen', hst, -, -⟩ := Chip.missAs_breaks (m := m) hc hp hs hfen hr
  obtain ⟨hrec, -, -, hmem⟩ := Chip.missAs_seen (m := m) (preceded := false) hc hp (.inl hs) hr
  obtain ⟨y, hy, he⟩ := Option.map_eq_some_iff.1 hrec
  simp only [Prod.mk.injEq] at he
  exact ⟨hfen', hst, ⟨y, hy, he.1, he.2.1⟩, hmem⟩

/-- A scheduled request outside its slots is a miss with cause 3, for which no entry is at fault (R89, log entry 20). -/
theorem Chip.schedRead_stray {a : Nat} {pinned : Bool} (hs : (b.requestSlot r h false pinned).isSome = false)
    (hr : b.fabricRuns r = true) (hk : (b.regionK r).isSome = true) :
    b.schedRead r h a pinned =
      b.tookFree.missSeen r (b.looseMissInfo r 3 (Config.strayHubTag b.free % 4096) 0) := by
  have hn : b.requestSlot r h false pinned = none := Option.not_isSome_iff_eq_none.1 (by simp [hs])
  simp [Chip.schedRead, Chip.scheduled, Chip.strayRequest, hn, hr, hk]

end

/-- Settles O33: a request that is served is one equation (`Chip.schedRead_served`, `Chip.schedWrite_served`), and each
outcome of a return slot one more; a miss is that of `Chip.missAs_breaks`. -/
theorem scheduledWindowsAndReturns : Obligations.ScheduledWindowsAndReturns := by
  unfold Obligations.ScheduledWindowsAndReturns
  intro ready unwritten before tick answers
  have served : ∀ {s : State} {r h a t0 : Nat} {we pinned part : Bool} {rr : Nat}, ready s r h a t0 we pinned part rr →
      (s.toChip.upTo t0).WindowServed r h a we pinned part rr := by
    rintro s r h a t0 we pinned part rr ⟨h1, h2, h3, h4, h5, h6, h7, h8, h9, h10⟩
    exact ⟨h1, h2, h3, h4, h5, h6, h7, h8, h9, h10⟩
  refine ⟨?_, ?_, ?_, ?_, ?_, ?_⟩
  · intro s r h a t0 rr pinned _ _ hready
    obtain ⟨w, hq, hcode, haddr, hdue, hcycle, hdata⟩ := (s.toChip.upTo t0).readSent_window r h a pinned rr
    refine ⟨_, congrArg (fun b => Host.Outcome.next (s.on b)) (Chip.schedRead_served (served hready)), ?_, rfl,
      (OnlyTouches.upTo (by decide) s t0).extend fun x hx => Area.same_hub (by rintro rfl; simp at hx) _ _⟩
    rintro l rfl
    exact ⟨w, hq, hcode, haddr, hdue, hcycle, fun hu => hdata.trans (if_pos hu), fun hu => hdata.trans (if_neg hu)⟩
  · intro s r h a t0 rr pinned m d _ _ hd hready
    have hw := served hready
    have hbyte := fun k => Chip.writeDone_dramByte (r := r) (h := h) (a := a) (rr := rr) hw.unarmed m.getLsbD d k
    refine ⟨_, congrArg (fun b => Host.Outcome.next (s.on b)) (Chip.schedWrite_served hw d), fun i hi => ?_, fun k hk => ?_,
      Chip.writeDone_writes hw.unarmed _ _, ?_,
      (OnlyTouches.upTo (by decide) s t0).extend fun x hx => Area.same_writeDone hw.unarmed ?_ _ _⟩
    · refine (hbyte (a + i)).trans (if_congr ?_ ?_ rfl)
      · rw [hd, Nat.add_sub_cancel_left]
        exact ⟨fun h => h.2.2, fun h => ⟨by omega, by omega, h⟩⟩
      · rw [Nat.add_sub_cancel_left]
    · exact (hbyte k).trans (if_neg (by rw [hd]; omega))
    · exact congrArg Region.fenced (Chip.region_congr (Area.same_writeDone (x := .regions) hw.unarmed (by decide) _ _) r)
    · simp only [List.mem_cons, not_or] at hx ⊢
      exact hx.2
  · intro s r h t0 x l0 l w _ _ hr ha he hq hw hl hd hc
    have hm := Chip.matchingWindow_last (b := s.toChip.upTo t0) hq hw hl
    exact ⟨_, congrArg (fun b => Host.Outcome.next (s.on b)) (Chip.returnSlot_handed he hr ha hm hd hc),
      (Tab.get_set_self _ _ _ _).trans (by rw [hc]), (Tab.get_set_self _ _ _ _).trans (by rw [hc]),
      Tab.get_set_self _ _ _ _,
      (OnlyTouches.upTo (by decide) s t0).extend fun x hx => Area.same_hub (by rintro rfl; simp at hx) _ _⟩
  · intro s r h t0 x _ _ hr ha he hl
    have hm := Chip.matchingWindow_none (b := s.toChip.upTo t0) hl
    exact ⟨_, congrArg (fun b => Host.Outcome.next (s.on b)) (Chip.returnSlot_unused he hr ha hm), rfl, rfl,
      OnlyTouches.upTo (by decide) s t0⟩
  · intro s r h t0 p x hr _ hf he hl hp hs hfen
    obtain ⟨hfen', hst, ⟨y, hy, hcause, -⟩, -⟩ := Chip.missSeen_breaks (b := s.toChip.upTo t0)
      (m := (s.toChip.upTo t0).slotMissInfo r 6 x) hf hp hs hfen hr
    have hlate : (s.toChip.upTo t0).isArmed 0x2D62 6 r = true ∨ ∃ w l,
        (s.toChip.upTo t0).matchingWindow r h x.2 = some (w, l) ∧ (s.toChip.upTo t0).now < w.due :=
      hl.imp_right fun ⟨_, w, l, hq, hw, hl, hd⟩ =>
        ⟨w, l, Chip.matchingWindow_last (b := s.toChip.upTo t0) hq hw hl, hd⟩
    exact ⟨_, congrArg (fun b => Host.Outcome.next (s.on b)) (Chip.returnSlot_late he hf hlate), hfen', hst,
      (congrArg (Option.map fun z : MissRecord => z.cause) hy).trans (congrArg some hcause)⟩
  · intro s r h a t0 p pinned hr _ hslot hf hk hp hs hfen
    obtain ⟨hfen', hst, ⟨y, hy, hcause, hno⟩, hmem⟩ := Chip.missSeen_breaks (b := (s.toChip.upTo t0).tookFree)
      (m := (s.toChip.upTo t0).looseMissInfo r 3 (Config.strayHubTag s.free % 4096) 0) hf hp hs hfen hr
    exact ⟨_, congrArg (fun b => Host.Outcome.next (s.on b)) (Chip.schedRead_stray hslot hf hk), hfen', hst,
      (congrArg (Option.map fun z : MissRecord => (z.cause, z.slot)) hy).trans (congrArg some (Prod.ext hcause hno)), hmem⟩

end Sys2Proof.Machine

namespace Sys2Proof.Machine
open Sys2Proof

/-! ### One region changes -/

section
variable {l : List Area} {r : Nat} {b c d : Chip}

/-- From b to c region r alone of the regions has changed, and of the areas those of l alone. -/
def AltersRegion (l : List Area) (r : Nat) (b c : Chip) : Prop :=
  (∀ j, j ≠ r → c.region j = b.region j) ∧ ∀ x, x ∉ l → x.same b c

theorem AltersRegion.trans (h : AltersRegion l r b c) (h' : AltersRegion l r c d) : AltersRegion l r b d :=
  ⟨fun j hj => (h'.1 j hj).trans (h.1 j hj), fun x hx => (h.2 x hx).trans (h'.2 x hx)⟩

theorem AltersRegion.upTo (hl : .belfry ∈ l) (b : Chip) (t : Nat) : AltersRegion l r b (b.upTo t) :=
  ⟨fun _ _ => rfl, fun _ hx => Area.same_upTo (by rintro rfl; exact hx hl) b t⟩

theorem AltersRegion.modRegion (hl : .regions ∈ l) (b : Chip) (f : Region → Region) : AltersRegion l r b (b.modRegion r f) :=
  ⟨fun _ hj => Chip.region_modRegion_ne _ _ _ _ hj, fun x hx => by cases x <;> simp_all [Area.same]⟩

theorem AltersRegion.settleRegion (hl : .regions ∈ l) (b : Chip) (through : Bool) :
    AltersRegion l r b (b.settleRegion r through) := .modRegion hl b _

theorem AltersRegion.logEvent (hl : logAreas ⊆ l) (b : Chip) (e : Ev) : AltersRegion l r b (b.logEvent e) :=
  ⟨fun _ _ => Chip.region_congr (Chip.logEvent_regions _ _) _, fun _ hx => Area.same_logEvent (fun h => hx (hl h)) b e⟩

theorem AltersRegion.onlyTouches {s : State} (h : AltersRegion l r s.toChip c) : OnlyTouches l s (s.on c) := ⟨rfl, h.2⟩

end

/-! ### The net-0 edges of a region -/

section
variable (g : Region) (r c : Nat)

theorem Region.edge_settled : (g.edge r c).settled = c + 1 := by
  rw [Region.edge]
  split <;> rfl

theorem Region.edge_nets : (g.edge r c).nets = (g.netsEdge c).1 := by
  rw [Region.edge]
  split <;> rfl

/-- The last of the edges that act is that of the cycle before the end. -/
theorem Region.run_succ (n : Nat) : Region.run r (n + 1) g = (Region.run r n g).edge r (g.settled + n) := by
  induction n generalizing g with
  | zero => rfl
  | succ n ih =>
    rw [Region.run, ih, Region.edge_settled, Nat.add_right_comm g.settled 1 n]
    rfl

theorem Region.netsEdge_nil (h : g.nets = []) : (g.netsEdge c).1 = [] := by rw [Region.netsEdge, h]; rfl

variable {g c} in
/-- The nets in cycle c + 1 are those in cycle c, after the edge that ends it. -/
theorem Region.net_settle_succ (h : g.settled ≤ c) (n : Nat) :
    (g.settle r (c + 1)).net n = ((g.settle r c).edge r c).net n := by
  rw [Region.net, Region.net, Region.edge_nets, Region.settle, Region.settle]
  split
  · next he =>
    have hn : g.nets = [] := by simp_all
    exact congrArg (Tab.get {} · n) (hn.trans (Region.netsEdge_nil { g with settled := max g.settled c } c hn).symm)
  · rw [Nat.succ_sub h, Region.run_succ, Nat.add_sub_cancel' h, Region.edge_nets]

end

/-! ### The nets at an edge -/

section
variable (g : Region) (rise : BitVec 16) (c : Nat)

/-- A net after the edge of cycle c, and whether it rises: its multiplexer, then its gate (R120 to R122). -/
def Region.netAfter (x : Net) : Net × Bool := (g.muxEdge rise c x).1.gateEdge (g.muxEdge rise c x).2

/-- The nets of a list after the edge of cycle c, where rise holds what has risen before them. -/
def Region.netsFrom (rise : BitVec 16) : Tab Net → Tab Net
  | [] => []
  | (i, x) :: t => (i, (g.netAfter rise c x).1) ::
      Region.netsFrom (if (g.netAfter rise c x).2 then rise else rise &&& ~~~(1#16 <<< i)) t

theorem Region.netsEdge_eq_netsFrom : (g.netsEdge c).1 = g.netsFrom c (BitVec.allOnes 16) g.nets := by
  have h : ∀ (t : Tab Net) (done : Tab Net) (rise : BitVec 16),
      (t.foldl (fun acc e =>
        (acc.1 ++ [(e.1, (g.netAfter acc.2 c e.2).1)],
          if (g.netAfter acc.2 c e.2).2 then acc.2 else acc.2 &&& ~~~(1#16 <<< e.1))) (done, rise)).1 =
        done ++ g.netsFrom c rise t := by
    intro t
    induction t with
    | nil => exact fun done _ => (List.append_nil done).symm
    | cons e t ih => exact fun done _ => (ih _ _).trans (List.append_assoc _ _ _)
  exact h g.nets [] _

/-- A listed net is, after the edge, what its multiplexer and its gate make of it. -/
theorem Region.get_netsFrom {n : Nat} {t : Tab Net} (h : Tab.get {} t n ≠ {}) :
    ∃ rise', Tab.get {} (g.netsFrom c rise t) n = (g.netAfter rise' c (Tab.get {} t n)).1 := by
  induction t generalizing rise with
  | nil => exact absurd rfl h
  | cons e t ih =>
    obtain ⟨i, x⟩ := e
    simp only [Region.netsFrom, Tab.get_cons] at h ⊢
    split
    · exact ⟨rise, rfl⟩
    · next hi => exact ih _ (by rwa [if_neg hi] at h)

@[simp] theorem Net.gateEdge_cur (x : Net) (up : Bool) : (x.gateEdge up).1.cur = x.cur := by
  rw [Net.gateEdge]; split <;> rfl
@[simp] theorem Net.gateEdge_switching (x : Net) (up : Bool) : (x.gateEdge up).1.switching = x.switching := by
  rw [Net.gateEdge]; split <;> rfl

variable {g c} {x : Net} {w : NetSwitch}

/-- A switch to a tap that has seen one edge since the old input fell ends at the next (R120, R121). -/
theorem Region.muxEdge_completes (hw : x.switching = some w) (hi : w.injected = false) (hs : w.seen = 1)
    (hf : w.fall < 2 * c) (hx : x.src w.sel = none) (ht : g.tapEdge (x.div w.sel) c = true) :
    g.muxEdge rise c x = ({ x with cur := w.sel, switching := none }, true) := by
  simp [Region.muxEdge, Region.inputEdge, hw, hi, hs, hf, hx, ht]

/-- So it stands in the cycle that the edge begins. -/
theorem Region.switch_completes {r n : Nat} (hc : g.settled ≤ c) (hw : ((g.settle r c).net n).switching = some w)
    (hi : w.injected = false) (hs : w.seen = 1) (hf : w.fall < 2 * c)
    (hx : ((g.settle r c).net n).src w.sel = none)
    (ht : (g.settle r c).tapEdge (((g.settle r c).net n).div w.sel) c = true) :
    ((g.settle r (c + 1)).net n).cur = w.sel ∧ ((g.settle r (c + 1)).net n).switching = none := by
  have hl : (g.settle r c).net n ≠ {} := by
    intro h
    rw [h] at hw
    cases hw
  obtain ⟨rise, he⟩ := (g.settle r c).get_netsFrom (BitVec.allOnes 16) c hl
  rw [Region.net_settle_succ r hc, Region.net, Region.edge_nets, Region.netsEdge_eq_netsFrom, he, Region.netAfter]
  rw [show Tab.get {} (g.settle r c).nets n = (g.settle r c).net n from rfl,
    Region.muxEdge_completes rise hw hi hs hf hx ht]
  exact ⟨Net.gateEdge_cur _ _, Net.gateEdge_switching _ _⟩

end

/-! ### Bits of a vector -/

/-- A bit that is put into a vector, and the bits that stay. -/
theorem getLsbD_putBit {w n : Nat} (x : BitVec w) (hn : n < w) (v : Bool) (k : Nat) :
    (if v then x ||| (1#w <<< n) else x &&& ~~~(1#w <<< n)).getLsbD k = if k = n then v else x.getLsbD k := by
  cases v with
  | true =>
    rw [if_pos rfl, BitVec.getLsbD_or, getLsbD_one_shiftLeft]
    by_cases hk : k = n <;> simp [hk, hn]
  | false =>
    rw [if_neg Bool.false_ne_true, BitVec.getLsbD_and, BitVec.getLsbD_not, getLsbD_one_shiftLeft]
    by_cases hk : k = n
    · simp [hk, hn]
    · by_cases hw : k < w
      · simp [hk, hw]
      · simp [hk, BitVec.getLsbD_of_ge _ _ (Nat.not_lt.1 hw)]

/-! ### A region and its nets in the present cycle -/

section
variable (b : Chip) (r n : Nat)

theorem Chip.region_settleRegion (through : Bool) :
    (b.settleRegion r through).region r = (b.region r).settle r (b.isle r + if through then 1 else 0) :=
  Chip.region_modRegion _ _ _

theorem Chip.region_settleRegion_through : (b.settleRegion r true).region r = b.regionNow r := b.region_settleRegion r true

@[simp] theorem Chip.net_modNet (f : Net → Net) : ((b.modNet r n f).region r).net n = f ((b.region r).net n) := by
  rw [Chip.modNet, Chip.region_modRegion]
  exact Tab.get_mod_self _ _ _ _

theorem Chip.net_modNet_ne {k : Nat} (h : k ≠ n) (f : Net → Net) :
    ((b.modNet r n f).region r).net k = (b.region r).net k := by
  rw [Chip.modNet, Chip.region_modRegion]
  exact Tab.get_mod_ne _ _ _ _ _ h

theorem AltersRegion.modNet {l : List Area} (hl : .regions ∈ l) (f : Net → Net) : AltersRegion l r b (b.modNet r n f) :=
  .modRegion hl b _

variable {b r n}

/-- A new clk_sel stands at its net; no stall is armed that would hold the switch (R120, R136). -/
theorem Chip.clockSwitch_presents (hr : b.fabricRuns r = true) (hn : n ≠ 0) (ha : b.isArmed 0x2D10 n r = false) (v : Bool) :
    b.clockSwitch r n v = (b.settleRegion r false).modNet r n fun x => { x with sel := v } := by
  have ha' : (b.settleRegion r false).isArmed 0x2D10 n r = false := ha
  simp [Chip.clockSwitch, hr, hn, ha']

theorem Chip.gateChange_presents (hr : b.fabricRuns r = true) (hn : n ≠ 0) (e : Bool) :
    b.gateChange r n e = (b.settleRegion r false).modNet r n fun x => { x with enIn := e } := by
  simp [Chip.gateChange, hr, hn]

theorem Chip.switchComplete_settles (hr : b.fabricRuns r = true) (hn : n ≠ 0) :
    b.switchComplete r n = b.settleRegion r true := by
  simp [Chip.switchComplete, hr, hn]

/-- A switch that no injection holds raises its stall once, 64 net-0 cycles after it began (R121). -/
theorem Chip.switchStall_raises {w : NetSwitch} (hr : b.fabricRuns r = true) (hw : (b.net r n).switching = some w)
    (hi : w.injected = false) (hs : w.stalled = false) (hc : 64 ≤ w.cycles) :
    ∃ e, b.switchStall r n = ((b.settleRegion r true).logEvent e).modNet r n fun x =>
      { x with switching := some { w with stalled := true } } := by
  have hw' : (((b.settleRegion r true).region r).net n).switching = some w := by
    rw [Chip.region_settleRegion_through]; exact hw
  refine ⟨(b.settleRegion r true).regionEv r (evCode 3 1 r 1) 3 false n 0 0, ?_⟩
  simp [Chip.switchStall, hr, hw', hi, hs, Nat.not_lt.2 hc]

/-- A user reset register takes its input, and the other three stay (R126). -/
theorem Chip.userReset_bit (hr : b.fabricRuns r = true) (hn : n < 4) (v : Bool) (k : Nat) :
    ((b.userReset r n v).region r).urst.getLsbD k = if k = n then v else (b.region r).urst.getLsbD k := by
  have hu : (b.regionNow r).urst = (b.region r).urst :=
    Region.settle_keep Region.urst (fun _ _ _ _ _ _ _ _ => rfl) _ _ _
  rw [Chip.userReset, if_pos hr, Chip.region_modRegion, Chip.region_settleRegion_through, hu]
  exact getLsbD_putBit _ hn v k

end

section
variable {s : State} {q : Req}

theorem exec_probeSelectWrite_allowed {i j v : Nat} (hi : i = 0x2C20 ∨ 0x2C40 ≤ i ∧ i < 0x2C60)
    (h : WriteAllowed s q i j v = true) :
    exec (.probeSelectWrite q i j v) s = .next (s.on (((s.served q).setReg i j v).answer q.owner .done)) :=
  congrArg (fun b => Host.Outcome.next (s.on b)) ((if_pos hi).trans (writeRow_allowed s q i j v _ h))

end

/-- Settles O17: a new input and a new enable are one change of the settled record, a switch ends at the edge that
`Region.switch_completes` speaks of, and the stall, the user reset and the probe select are one equation each. -/
theorem netsSwitchAndGate : Obligations.NetsSwitchAndGate := by
  unfold Obligations.NetsSwitchAndGate
  intro cycle before others
  have presents : ∀ (s : State) (r n t0 : Nat) (f : Net → Net),
      let c := ((s.toChip.upTo t0).settleRegion r false).modNet r n f
      (c.region r).net n = f ((before s r t0).net n) ∧ others s (s.on c) r n (before s r t0) ∧
        OnlyTouches [.belfry, .regions] s (s.on c) := by
    intro s r n t0 f c
    have ha : AltersRegion [.belfry, .regions] r s.toChip c :=
      ((AltersRegion.upTo (by simp) s.toChip t0).trans (.settleRegion (by simp) _ false)).trans (.modNet _ _ _ (by simp) f)
    have hr : ((s.toChip.upTo t0).settleRegion r false).region r = before s r t0 := Chip.region_settleRegion _ _ _
    refine ⟨?_, ⟨ha.1, fun k hk => ?_⟩, ha.onlyTouches⟩
    · rw [Chip.net_modNet, hr]
    · rw [State.on_toChip, Chip.net_modNet_ne _ _ _ hk, hr]
  refine ⟨?_, ?_, ?_, ?_, ?_, ?_⟩
  · intro s r n t0 v hr hn ha
    exact ⟨_, congrArg (fun b => Host.Outcome.next (s.on b)) (Chip.clockSwitch_presents (b := s.toChip.upTo t0) hr hn ha v),
      presents s r n t0 _⟩
  · intro s r n t0 hr hn
    have ha : AltersRegion [.belfry, .regions] r s.toChip ((s.toChip.upTo t0).settleRegion r true) :=
      (AltersRegion.upTo (by simp) s.toChip t0).trans (.settleRegion (by simp) _ true)
    have hg := (s.toChip.upTo t0).region_settleRegion_through r
    refine ⟨_, congrArg (fun b => Host.Outcome.next (s.on b)) (Chip.switchComplete_settles (b := s.toChip.upTo t0) hr hn),
      hg, fun w hc hw hi hs hf hx ht => ?_, ha.1, ha.onlyTouches⟩
    rw [State.on_toChip, hg]
    exact Region.switch_completes hc hw hi hs hf hx ht
  · intro s r n t0 w hr hw hi hs hc
    obtain ⟨e, he⟩ := Chip.switchStall_raises (b := s.toChip.upTo t0) hr hw hi hs hc
    have ha : AltersRegion (.belfry :: .regions :: logAreas) r s.toChip ((s.toChip.upTo t0).switchStall r n) := by
      rw [he]
      exact (((AltersRegion.upTo (by simp) s.toChip t0).trans (.settleRegion (by simp) _ true)).trans
        (.logEvent (by simp) _ e)).trans (.modNet _ _ _ (by simp) _)
    have hg : (((s.toChip.upTo t0).settleRegion r true).logEvent e).region r = (s.toChip.upTo t0).regionNow r :=
      (Chip.region_congr (Chip.logEvent_regions _ e) r).trans (Chip.region_settleRegion_through _ r)
    refine ⟨s.on ((s.toChip.upTo t0).switchStall r n), rfl, ?_, ⟨ha.1, fun k hk => ?_⟩, ha.onlyTouches⟩
    · rw [State.on_toChip, he, Chip.net_modNet, hg]
      rfl
    · rw [State.on_toChip, he, Chip.net_modNet_ne _ _ _ hk, hg]
  · intro s r n t0 e hr hn
    exact ⟨_, congrArg (fun b => Host.Outcome.next (s.on b)) (Chip.gateChange_presents (b := s.toChip.upTo t0) hr hn e),
      presents s r n t0 _⟩
  · intro s r n t0 v hr hn
    have ha : AltersRegion [.belfry, .regions] r s.toChip ((s.toChip.upTo t0).userReset r n v) := by
      rw [Chip.userReset, if_pos (show (s.toChip.upTo t0).fabricRuns r = true from hr)]
      exact ((AltersRegion.upTo (by simp) s.toChip t0).trans (.settleRegion (by simp) _ true)).trans
        (.modRegion (by simp) _ _)
    have hb := Chip.userReset_bit (b := s.toChip.upTo t0) hr hn v
    exact ⟨s.on ((s.toChip.upTo t0).userReset r n v), rfl, (hb n).trans (if_pos rfl), fun k hk => (hb k).trans (if_neg hk),
      ha.1, ha.onlyTouches⟩
  · intro s q i j v hi h
    refine ⟨_, exec_probeSelectWrite_allowed hi h, ?_, by simp, (OnlyTouches.servedWithDict s q _).requestAnswer _⟩
    rw [State.on_toChip, Chip.answer_reg, Chip.reg_setReg_self]

end Sys2Proof.Machine

namespace Sys2Proof.Machine
open Sys2Proof

/-! ### One region after another changes -/

section
variable {β : Type} {k : β → Nat} {f : Chip → β → Chip}

theorem foldl_region_ne (hf : ∀ c x j, j ≠ k x → (f c x).region j = c.region j) (l : List β) (b : Chip) {j : Nat}
    (hj : j ∉ l.map k) : (l.foldl f b).region j = b.region j := by
  induction l generalizing b with
  | nil => rfl
  | cons x l ih =>
    obtain ⟨hx, hl⟩ : j ≠ k x ∧ j ∉ l.map k := by simpa using hj
    exact (ih _ hl).trans (hf b x j hx)

/-- Where each region has one turn, a region's record changes in its turn alone. -/
theorem foldl_region_mem (hf : ∀ c x j, j ≠ k x → (f c x).region j = c.region j) {l : List β} (hl : (l.map k).Nodup)
    (b : Chip) {x : β} (hx : x ∈ l) :
    ∃ l₁ l₂, l = l₁ ++ x :: l₂ ∧ (l₁.foldl f b).region (k x) = b.region (k x) ∧
      (l.foldl f b).region (k x) = (f (l₁.foldl f b) x).region (k x) := by
  obtain ⟨l₁, l₂, rfl⟩ := List.append_of_mem hx
  rw [List.map_append, List.map_cons, List.nodup_middle, List.nodup_cons, List.mem_append, not_or] at hl
  refine ⟨l₁, l₂, rfl, foldl_region_ne hf l₁ b hl.1.1, ?_⟩
  rw [List.foldl_append, List.foldl_cons, foldl_region_ne hf l₂ _ hl.1.2]

end

section
variable {f : Chip → Nat → Chip} {l : List Nat} {r : Nat}

theorem Chip.forEach_region_ne (hf : ∀ c r j, j ≠ r → (f c r).region j = c.region j) (b : Chip) (hr : r ∉ l) :
    (b.forEach l f).region r = b.region r :=
  foldl_region_ne (k := id) hf l b (by rwa [List.map_id])

theorem Chip.forEach_region_mem (hf : ∀ c r j, j ≠ r → (f c r).region j = c.region j) (hl : l.Nodup) (b : Chip)
    (hr : r ∈ l) : ∃ c : Chip, c.region r = b.region r ∧ (b.forEach l f).region r = (f c r).region r := by
  obtain ⟨l₁, -, -, h⟩ := foldl_region_mem (k := id) hf (by rwa [List.map_id]) b hr
  exact ⟨_, h⟩

end

/-! ### Regions in the order of their ticks -/

theorem insertTick_perm (x : Nat × Nat) (l : List (Nat × Nat)) : (insertTick x l).Perm (x :: l) := by
  induction l with
  | nil => exact .refl _
  | cons y l ih =>
    rw [insertTick]
    split
    · exact .refl _
    · exact (ih.cons y).trans (.swap x y l)

theorem insertTick_sorted (x : Nat × Nat) {l : List (Nat × Nat)} (h : l.Pairwise fun a b => a.1 ≤ b.1) :
    (insertTick x l).Pairwise fun a b => a.1 ≤ b.1 := by
  induction l with
  | nil => exact List.pairwise_singleton _ _
  | cons y l ih =>
    rw [List.pairwise_cons] at h
    rw [insertTick]
    split
    · next hxy =>
      refine List.pairwise_cons.2 ⟨fun z hz => ?_, List.pairwise_cons.2 h⟩
      rcases List.mem_cons.1 hz with rfl | hz
      · exact hxy.le
      · exact hxy.le.trans (h.1 z hz)
    · next hxy =>
      refine List.pairwise_cons.2 ⟨fun z hz => ?_, ih h.2⟩
      rcases List.mem_cons.1 ((insertTick_perm x l).mem_iff.1 hz) with rfl | hz
      · exact Nat.not_lt.1 hxy
      · exact h.1 z hz

/-- A list of ticks and regions, earliest first. -/
def ticksSorted (l : List (Nat × Nat)) : List (Nat × Nat) := l.foldl (fun acc x => insertTick x acc) []

theorem ticksSorted_spec (l : List (Nat × Nat)) :
    (ticksSorted l).Perm l ∧ (ticksSorted l).Pairwise fun a b => a.1 ≤ b.1 := by
  have h : ∀ l acc : List (Nat × Nat), (acc.Pairwise fun a b => a.1 ≤ b.1) →
      (l.foldl (fun acc x => insertTick x acc) acc).Perm (l ++ acc) ∧
        (l.foldl (fun acc x => insertTick x acc) acc).Pairwise fun a b => a.1 ≤ b.1 := by
    intro l
    induction l with
    | nil => exact fun acc h => ⟨.refl _, h⟩
    | cons x l ih =>
      intro acc h
      obtain ⟨hp, hs⟩ := ih (insertTick x acc) (insertTick_sorted x h)
      exact ⟨hp.trans (((insertTick_perm x acc).append_left l).trans List.perm_middle), hs⟩
  simpa [ticksSorted] using h l [] .nil

theorem Chip.inTickOrder_eq (b : Chip) (l : List (Nat × Nat)) (f : Chip → Nat → Chip) :
    b.inTickOrder l f = (ticksSorted l).foldl (fun b x => f (b.upTo x.1) x.2) b := rfl

/-- The device that runs on to a tick and from there to a later one is as late as one that runs on to the later one; the count
wraps in both. -/
theorem Chip.upTo_upTo_now {b : Chip} (hb : b.now < 2 ^ 64) {x y : Nat} (h : x ≤ y) :
    ((b.upTo x).upTo y).now = (b.upTo y).now := by
  simp only [Chip.upTo_now]
  omega

section
variable {f : Chip → Nat → Chip} {l : List (Nat × Nat)} {b : Chip}

theorem foldl_upTo_now (hn : ∀ c r, (f c r).now = c.now) (hb : b.now < 2 ^ 64) {t : Nat} (ht : ∀ x ∈ l, x.1 ≤ t) :
    ((l.foldl (fun b x => f (b.upTo x.1) x.2) b).upTo t).now = (b.upTo t).now := by
  induction l generalizing b with
  | nil => rfl
  | cons x l ih =>
    obtain ⟨hx, hl⟩ := List.forall_mem_cons.1 ht
    have hnow : (f (b.upTo x.1) x.2).now = (b.upTo x.1).now := hn _ _
    have hlt : (f (b.upTo x.1) x.2).now < 2 ^ 64 := by
      rw [hnow, Chip.upTo_now]
      exact Nat.mod_lt _ (by decide)
    refine (ih hlt hl).trans ?_
    rw [Chip.upTo_now, hnow, ← Chip.upTo_now (b.upTo x.1), Chip.upTo_upTo_now hb hx]

variable (hf : ∀ c r j, j ≠ r → (f c r).region j = c.region j)
include hf

theorem Chip.inTickOrder_region_ne {j : Nat} (hj : j ∉ l.map Prod.snd) : (b.inTickOrder l f).region j = b.region j := by
  rw [Chip.inTickOrder_eq]
  have hu : ∀ (c : Chip) (x : Nat × Nat) i, i ≠ x.2 → (f (c.upTo x.1) x.2).region i = c.region i :=
    fun c x => hf (c.upTo x.1) x.2
  refine foldl_region_ne hu _ b ?_
  rwa [((ticksSorted_spec l).1.map Prod.snd).mem_iff]

/-- A region's turn in the order of the ticks finds the region as it was, at its own tick. -/
theorem Chip.inTickOrder_region_mem (hn : ∀ c r, (f c r).now = c.now) (hb : b.now < 2 ^ 64)
    (hl : (l.map Prod.snd).Nodup) {t r : Nat} (hx : (t, r) ∈ l) :
    ∃ c : Chip, c.region r = b.region r ∧ c.now = (b.upTo t).now ∧ (b.inTickOrder l f).region r = (f c r).region r := by
  obtain ⟨hp, hs⟩ := ticksSorted_spec l
  have hu : ∀ (c : Chip) (x : Nat × Nat) i, i ≠ x.2 → (f (c.upTo x.1) x.2).region i = c.region i :=
    fun c x => hf (c.upTo x.1) x.2
  obtain ⟨l₁, l₂, he, h1, h2⟩ := foldl_region_mem hu (((hp.map Prod.snd).nodup_iff).2 hl) b (hp.mem_iff.2 hx)
  rw [he] at hs
  have hle : ∀ y ∈ l₁, y.1 ≤ t := fun y hy => (List.pairwise_append.1 hs).2.2 y hy _ (List.mem_cons_self ..)
  exact ⟨(l₁.foldl (fun (b : Chip) (x : Nat × Nat) => f (b.upTo x.1) x.2) b).upTo t, h1, foldl_upTo_now hn hb hle, h2⟩

end

/-! ### The release of a region where no injection is armed -/

section
variable {b : Chip} {r : Nat}

theorem Chip.isle_congr {c : Chip} (hr : c.region r = b.region r) (hn : c.now = b.now) : c.isle r = b.isle r := by
  simp only [Chip.isle, Chip.period, hr, hn]

theorem Chip.secondEdge_congr {c : Chip} (hr : c.region r = b.region r) (t : Nat) : c.secondEdge r t = b.secondEdge r t := by
  simp only [Chip.secondEdge, hr]

/-- At its release edge a region leaves the reset, its dividers count from here, and its fence stays (R118, R125). -/
theorem Chip.releaseReset_region (b : Chip) (r : Nat) :
    ((b.releaseReset r).region r).inReset = false ∧ ((b.releaseReset r).region r).released = b.isle r ∧
      ((b.releaseReset r).region r).divStart = b.isle r ∧
      ((b.releaseReset r).region r).fenced = (b.region r).fenced := by
  have hk : ∀ {β : Type} (p : Region → β), (∀ g x, p { g with checkedAt := x } = p g) →
      p ((b.releaseReset r).region r) = p ((b.releaseEdge r).region r) := by
    intro β p hp
    obtain ⟨c, hc, hr⟩ := b.releaseReset_regions r
    rw [hc, ← Chip.region_congr hr, Chip.startSlots]
    split
    · exact Chip.modRegion_keep p c r _ (fun g => hp g _) r
    · rfl
  have he : (b.releaseEdge r).region r = { (b.settleRegion r false).region r with
      inReset := false, relDue := false, released := b.isle r, divStart := b.isle r } := Chip.region_modRegion _ _ _
  refine ⟨?_, ?_, ?_, ?_⟩
  · rw [hk Region.inReset (fun _ _ => rfl), he]
  · rw [hk Region.released (fun _ _ => rfl), he]
  · rw [hk Region.divStart (fun _ _ => rfl), he]
  · rw [hk Region.fenced (fun _ _ => rfl), he]
    exact Chip.settleRegion_fenced b r r false

theorem Chip.releaseRegion_unarmed (h : b.inject.armed = []) (r : Nat) : b.releaseRegion r = b.releaseReset r :=
  Chip.injectQueues_unarmed _ _ fun _ _ => Chip.isArmed_nil (by rw [Chip.releaseReset_inject, h]) _ _ _

theorem Chip.inTickOrder_unarmed (h : b.inject.armed = []) (l : List (Nat × Nat)) :
    b.inTickOrder l Chip.releaseRegion = b.inTickOrder l Chip.releaseReset := by
  rw [Chip.inTickOrder_eq, Chip.inTickOrder_eq]
  generalize ticksSorted l = l
  induction l generalizing b with
  | nil => rfl
  | cons x l ih =>
    rw [List.foldl_cons, List.foldl_cons, Chip.releaseRegion_unarmed (b := b.upTo x.1) h]
    exact ih ((congrArg Inject.armed (Chip.releaseReset_inject _ _)).trans h)

end

/-! ### The regions of a partition -/

theorem Chip.partRegions_nodup (b : Chip) (p : Nat) : (b.partRegions p).Nodup := List.nodup_range.filter _

theorem Chip.partRegions_congr {b c : Chip} {p : Nat} (h : (c.part p).regions = (b.part p).regions) :
    c.partRegions p = b.partRegions p := by simp only [Chip.partRegions, h]

/-! ### The reset of a partition is asserted -/

section
variable (b : Chip) (r : Nat)

theorem Chip.assertReset_regions : (b.assertReset r).regions =
    (((((b.stopSlots r).dropPacking r).settleRegion r true).loseTokens r).modRegion r fun g =>
      { g with inReset := true, relDue := false, urst := 0#4, ff := [], live := 0#16 }).regions := rfl

theorem Chip.assertReset_region_ne {j : Nat} (h : j ≠ r) : (b.assertReset r).region j = b.region j := by
  rw [Chip.region_congr (b.assertReset_regions r), Chip.region_modRegion_ne _ _ _ _ h,
    Chip.region_congr (Chip.loseTokens_regions _ _), Chip.settleRegion, Chip.region_modRegion_ne _ _ _ _ h,
    Chip.region_congr (Chip.dropPacking_regions _ _), Chip.stopSlots, Chip.region_modRegion_ne _ _ _ _ h]

theorem Chip.assertReset_inReset : ((b.assertReset r).region r).inReset = true := by
  rw [Chip.region_congr (b.assertReset_regions r), Chip.region_modRegion]

/-- The hard reset of one region of a partition reset: its blocks leave their safe states (R25, R301). -/
def Chip.resetRegion (b : Chip) (r : Nat) : Chip := (b.assertReset r).setSafe r 0#64

theorem Chip.resetRegion_region_ne {j : Nat} (h : j ≠ r) : (b.resetRegion r).region j = b.region j := by
  rw [Chip.resetRegion, Chip.setSafe, Chip.region_modRegion_ne _ _ _ _ h, Chip.settleRegion,
    Chip.region_modRegion_ne _ _ _ _ h, Chip.assertReset_region_ne _ _ h]

theorem Chip.resetRegion_parts : (b.resetRegion r).parts = b.parts := by
  rw [Chip.resetRegion, Chip.setSafe_parts, Chip.assertReset_parts]

theorem Chip.resetRegion_mem : (b.resetRegion r).mem = b.mem := by
  rw [Chip.resetRegion, Chip.setSafe_mem, Chip.assertReset_mem]

/-- Of the slices the groups alone change. -/
theorem Chip.resetRegion_slices : ∃ t, (b.resetRegion r).slices = { b.slices with groups := t } :=
  ⟨_, Chip.setSafe_slices _ _ _⟩

theorem Chip.resetRegion_region :
    ((b.resetRegion r).region r).inReset = true ∧ ((b.resetRegion r).region r).safeBlocks = 0#64 := by
  have hk : (((b.assertReset r).settleRegion r true).region r).inReset = true :=
    (Chip.modRegion_keep Region.inReset (b.assertReset r) r _
      (fun g => Region.settle_keep Region.inReset (fun _ _ _ _ _ _ _ _ => rfl) g r _) r).trans (b.assertReset_inReset r)
  rw [Chip.resetRegion, Chip.setSafe, Chip.region_modRegion]
  exact ⟨hk, rfl⟩

end

section
variable {b : Chip} {p frame o : Nat}

/-- The release that a partition reset plans: at a frame, or 5 ns on (R125, R301). -/
def Chip.resetTick (b : Chip) (p frame : Nat) : Nat :=
  if (b.part p).tables then (if frame = 0 then b.releaseFrame p else frame * 2 ^ (b.part p).k) else b.now + 5

/-- The partition with its reset asserted, its command busy and its release planned. -/
def Chip.resetPlanned (b : Chip) (p frame o : Nat) : Chip :=
  ((b.forEach (b.partRegions p) Chip.resetRegion).beginCmd 0x2E21 o).modPart p fun q =>
    { q with resetAt := some (b.resetTick p frame), resetCmd := true }

theorem Chip.startPartReset_plans (h3 : b.reg 0x2E21 3 = p) (h4 : b.reg 0x2E21 4 = frame) (hs : b.serving = true)
    (hc : (b.part p).committed = true) (ha : (b.part p).status ≠ .armed) (hu : (b.part p).status ≠ .suspended)
    (hr : ∀ r ∈ b.partRegions p, (b.region r).fenced = false ∧ (b.region r).halted = false)
    (hf : (b.part p).tables = false ∨ b.frameBegun p frame = false) :
    b.startPartReset o = b.resetPlanned p frame o := by
  have hany : b.partAny p (fun g => g.fenced || g.halted) = false := by
    rw [Chip.partAny, List.any_eq_false]
    intro r hm
    simp [hr r hm]
  have hfb : ((b.part p).tables && b.frameBegun p frame) = false := by
    rcases hf with h | h <;> simp [h]
  simp only [Chip.startPartReset, h3, h4, hs, hc, ha, hu, hany, hfb, Bool.not_true, Bool.false_eq_true, or_self, if_false]
  rfl

variable (b p frame o)

theorem Chip.resetPlanned_regions :
    (b.resetPlanned p frame o).regions = (b.forEach (b.partRegions p) Chip.resetRegion).regions := rfl

theorem Chip.resetPlanned_region_mem {r : Nat} (hr : r ∈ b.partRegions p) :
    ((b.resetPlanned p frame o).region r).inReset = true ∧ ((b.resetPlanned p frame o).region r).safeBlocks = 0#64 := by
  obtain ⟨c, -, he⟩ := Chip.forEach_region_mem (fun c r _ h => c.resetRegion_region_ne r h) (b.partRegions_nodup p) b hr
  rw [Chip.region_congr (b.resetPlanned_regions p frame o), he]
  exact c.resetRegion_region r

theorem Chip.resetPlanned_region_ne {r : Nat} (hr : r ∉ b.partRegions p) :
    (b.resetPlanned p frame o).region r = b.region r :=
  Chip.forEach_region_ne (fun c r _ h => c.resetRegion_region_ne r h) b hr

theorem Chip.forEach_resetRegion_part (l : List Nat) (j : Nat) : (b.forEach l Chip.resetRegion).part j = b.part j :=
  Chip.part_congr (Chip.forEach_keep Chip.parts _ Chip.resetRegion_parts l b) j

theorem Chip.resetPlanned_part : (b.resetPlanned p frame o).part p =
    { b.part p with resetAt := some (b.resetTick p frame), resetCmd := true } := by
  rw [Chip.resetPlanned, Chip.part_modPart, Chip.part_congr (Chip.beginCmd_parts _ _ _),
    Chip.forEach_resetRegion_part]

theorem Chip.resetPlanned_part_ne {j : Nat} (h : j ≠ p) : (b.resetPlanned p frame o).part j = b.part j := by
  rw [Chip.resetPlanned, Chip.part_modPart_ne h, Chip.part_congr (Chip.beginCmd_parts _ _ _),
    Chip.forEach_resetRegion_part]

theorem Chip.resetPlanned_cmd : ((b.resetPlanned p frame o).cmd 0x2E21).busy = some o ∧
    Tab.get 0 ((b.resetPlanned p frame o).cmd 0x2E21).status o = 1 :=
  ⟨Chip.beginCmd_busy _ _ _, Chip.beginCmd_status _ _ _⟩

/-- The memories of the regions and of the slice groups stay (R301). -/
theorem Chip.resetPlanned_mem : (b.resetPlanned p frame o).mem = b.mem := by
  rw [Chip.resetPlanned, Chip.modPart_mem, Chip.beginCmd_mem, Chip.forEach_keep Chip.mem _ Chip.resetRegion_mem]

theorem Chip.resetPlanned_slices {β : Type} (g : Slices → β) (h : ∀ (x : Slices) t, g { x with groups := t } = g x) :
    g (b.resetPlanned p frame o).slices = g b.slices := by
  rw [Chip.resetPlanned, Chip.modPart_slices, Chip.beginCmd_slices]
  refine Chip.forEach_keep (fun c => g c.slices) _ (fun c r => ?_) _ b
  obtain ⟨t, ht⟩ := c.resetRegion_slices r
  rw [ht, h]

end

/-! ### The planned release -/

section
variable {b : Chip} {p due : Nat}

/-- A halted region is released when its halt ends (R301). -/
def Chip.markHalted (b : Chip) (r : Nat) : Chip :=
  if (b.region r).halted then b.modRegion r fun g => { g with relDue := true } else b

theorem Chip.markHalted_keep {β : Type} (g : Chip → β) (h : ∀ c r (f : Region → Region), g (Chip.modRegion c r f) = g c)
    (b : Chip) (r : Nat) : g (b.markHalted r) = g b := by
  rw [Chip.markHalted]
  split
  · exact h _ _ _
  · rfl

theorem Chip.markHalted_region (b : Chip) (r : Nat) : (b.markHalted r).region r =
    if (b.region r).halted then { b.region r with relDue := true } else b.region r := by
  rw [Chip.markHalted]
  split
  · exact Chip.region_modRegion _ _ _
  · rfl

theorem Chip.markHalted_region_ne (b : Chip) (r j : Nat) (h : j ≠ r) : (b.markHalted r).region j = b.region j := by
  rw [Chip.markHalted]
  split
  · exact Chip.region_modRegion_ne _ _ _ _ h
  · rfl

/-- The partition at its planned release, with its halted regions marked. -/
def Chip.resetDue (b : Chip) (p due : Nat) : Chip :=
  ((b.upTo due).modPart p fun q => { q with resetAt := none }).forEach (b.partRegions p) Chip.markHalted

/-- The regions that the release releases, each at its edge. -/
def Chip.resetEdges (b : Chip) (p due : Nat) (tabled : Bool) : List (Nat × Nat) :=
  ((b.partRegions p).filter fun r => !(b.region r).fenced && !(b.region r).halted).map fun r =>
    (if tabled then due else b.secondEdge r due, r)

/-- They leave their resets in the order of their edges. -/
def Chip.resetReleased (b : Chip) (p due : Nat) : Chip :=
  (b.resetDue p due).inTickOrder ((b.resetDue p due).resetEdges p due (b.part p).tables) Chip.releaseRegion

theorem Chip.resetDue_part (b : Chip) (p due : Nat) : (b.resetDue p due).part p = { b.part p with resetAt := none } :=
  (Chip.part_congr (Chip.forEach_keep Chip.parts _ (Chip.markHalted_keep Chip.parts (by intro _ _ _; rfl)) _ _) p).trans
    (Chip.part_modPart _ _ _)

theorem Chip.resetDue_keep {β : Type} (g : Chip → β) (h : ∀ c r (f : Region → Region), g (Chip.modRegion c r f) = g c)
    (hp : ∀ c p (f : Partition → Partition), g (Chip.modPart c p f) = g c) (b : Chip) (p due : Nat) :
    g (b.resetDue p due) = g (b.upTo due) :=
  (Chip.forEach_keep g _ (Chip.markHalted_keep g h) _ _).trans (hp _ _ _)

theorem Chip.resetDue_partRegions (b : Chip) (p due : Nat) : (b.resetDue p due).partRegions p = b.partRegions p :=
  Chip.partRegions_congr (by rw [Chip.resetDue_part])

theorem Chip.resetDue_region (b : Chip) (p due : Nat) {r : Nat} (hr : r ∈ b.partRegions p) :
    (b.resetDue p due).region r =
      if (b.region r).halted then { b.region r with relDue := true } else b.region r := by
  obtain ⟨c, hc, he⟩ := Chip.forEach_region_mem Chip.markHalted_region_ne (b.partRegions_nodup p)
    ((b.upTo due).modPart p fun q => { q with resetAt := none }) hr
  rw [Chip.resetDue, he, Chip.markHalted_region, hc]
  rfl

theorem Chip.resetDue_region_ne (b : Chip) (p due : Nat) {r : Nat} (hr : r ∉ b.partRegions p) :
    (b.resetDue p due).region r = b.region r := Chip.forEach_region_ne Chip.markHalted_region_ne _ hr

theorem Chip.resetEdges_regions (b : Chip) (p due : Nat) (x : Bool) : (b.resetEdges p due x).map Prod.snd =
    (b.partRegions p).filter fun r => !(b.region r).fenced && !(b.region r).halted := by
  simp [Chip.resetEdges, Function.comp_def]

theorem Chip.resetReleased_unarmed (h : b.inject.armed = []) (p due : Nat) : b.resetReleased p due =
    (b.resetDue p due).inTickOrder ((b.resetDue p due).resetEdges p due (b.part p).tables) Chip.releaseReset :=
  Chip.inTickOrder_unarmed
    ((congrArg Inject.armed (Chip.resetDue_keep Chip.inject (by intro _ _ _; rfl) (by intro _ _ _; rfl) b p due)).trans h) _

theorem Chip.resetReleased_keep {β : Type} (g : Chip → β) (h : b.inject.armed = [])
    (hu : ∀ c t, g (Chip.upTo c t) = g c) (hr : ∀ c r, g (Chip.releaseReset c r) = g c) (p due : Nat) :
    g (b.resetReleased p due) = g (b.resetDue p due) := by
  rw [Chip.resetReleased_unarmed h, Chip.inTickOrder_eq]
  exact foldl_keep g _ (fun c x => (hr _ _).trans (hu _ _)) _ _

section
variable (h : b.inject.armed = [])
include h

/-- A region that the release does not reach keeps its record. -/
theorem Chip.resetReleased_region_kept {r : Nat}
    (hr : r ∈ b.partRegions p → ((b.resetDue p due).region r).fenced = true ∨ ((b.resetDue p due).region r).halted = true) :
    (b.resetReleased p due).region r = (b.resetDue p due).region r := by
  rw [Chip.resetReleased_unarmed h]
  refine Chip.inTickOrder_region_ne (fun c r _ => c.releaseReset_region_ne r) ?_
  rw [Chip.resetEdges_regions, List.mem_filter, Chip.resetDue_partRegions, not_and]
  intro hm
  rcases hr hm with hf | hf <;> simp [hf]

variable {r : Nat}

theorem Chip.resetReleased_region_ne (hr : r ∉ b.partRegions p) : (b.resetReleased p due).region r = b.region r := by
  rw [Chip.resetReleased_region_kept h fun hm => absurd hm hr, Chip.resetDue_region_ne _ _ _ hr]

variable (hr : r ∈ b.partRegions p)
include hr

theorem Chip.resetReleased_region_halted (hh : (b.region r).halted = true) :
    (b.resetReleased p due).region r = { b.region r with relDue := true } := by
  have hd := b.resetDue_region p due hr
  rw [if_pos hh] at hd
  rw [Chip.resetReleased_region_kept h fun _ => .inr (by rw [hd]; exact hh), hd]

theorem Chip.resetReleased_region_fenced (hf : (b.region r).fenced = true) (hh : (b.region r).halted = false) :
    (b.resetReleased p due).region r = b.region r := by
  have hd := b.resetDue_region p due hr
  rw [hh, if_neg Bool.false_ne_true] at hd
  rw [Chip.resetReleased_region_kept h fun _ => .inl (by rw [hd, hf]), hd]

/-- One that is neither fenced nor halted is released at its edge (R125, R301). -/
theorem Chip.resetReleased_region_free (hf : (b.region r).fenced = false) (hh : (b.region r).halted = false) :
    let u := (b.upTo due).upTo (if (b.part p).tables then due else (b.upTo due).secondEdge r due)
    ((b.resetReleased p due).region r).inReset = false ∧ ((b.resetReleased p due).region r).released = u.isle r ∧
      ((b.resetReleased p due).region r).divStart = u.isle r ∧
      ((b.resetReleased p due).region r).fenced = (b.region r).fenced := by
  intro u
  have hd := b.resetDue_region p due hr
  rw [hh, if_neg Bool.false_ne_true] at hd
  have hn : (b.resetDue p due).now = (b.upTo due).now :=
    congrArg Belfry.tick (Chip.resetDue_keep Chip.belfry (by intro _ _ _; rfl) (by intro _ _ _; rfl) b p due)
  have hs : (b.resetDue p due).secondEdge r due = (b.upTo due).secondEdge r due := Chip.secondEdge_congr hd due
  have hm : (if (b.part p).tables then due else (b.upTo due).secondEdge r due, r) ∈
      (b.resetDue p due).resetEdges p due (b.part p).tables := by
    refine List.mem_map.2 ⟨r, List.mem_filter.2 ⟨?_, ?_⟩, by rw [hs]⟩
    · rwa [Chip.resetDue_partRegions]
    · rw [hd, hf, hh]
      rfl
  have hlt : (b.resetDue p due).now < 2 ^ 64 := hn ▸ Nat.mod_lt _ (by decide)
  obtain ⟨c, hc, hcn, he⟩ := Chip.inTickOrder_region_mem (f := Chip.releaseReset) (fun c r _ => c.releaseReset_region_ne r)
    (fun c r => congrArg Belfry.tick (c.releaseReset_belfry r)) hlt
    (by rw [Chip.resetEdges_regions]; exact (Chip.partRegions_nodup _ p).filter _) hm
  have hu : c.isle r = u.isle r := Chip.isle_congr (hc.trans hd) (by
    rw [hcn, Chip.upTo_now, hn, ← Chip.upTo_now (b.upTo due)])
  obtain ⟨hi, hrel, hdiv, hfen⟩ := c.releaseReset_region r
  rw [Chip.resetReleased_unarmed h, he]
  exact ⟨hi, hrel.trans hu, hdiv.trans hu, hfen.trans (by rw [hc, hd])⟩

/-- The release ends no fence. -/
theorem Chip.resetReleased_fenced : ((b.resetReleased p due).region r).fenced = (b.region r).fenced := by
  cases hh : (b.region r).halted with
  | true => rw [Chip.resetReleased_region_halted h hr hh]
  | false =>
    cases hf : (b.region r).fenced with
    | true => rw [Chip.resetReleased_region_fenced h hr hf hh, hf]
    | false => exact (Chip.resetReleased_region_free h hr hf hh).2.2.2.trans hf

end

theorem Chip.resetReleased_part (h : b.inject.armed = []) :
    (b.resetReleased p due).part p = { b.part p with resetAt := none } :=
  (Chip.part_congr (Chip.resetReleased_keep Chip.parts h (by intro _ _; rfl) Chip.releaseReset_parts p due) p).trans (b.resetDue_part p due)

theorem Chip.resetReleased_cmd (h : b.inject.armed = []) (i : Nat) : (b.resetReleased p due).cmd i = b.cmd i := by
  rw [Chip.cmd, Chip.resetReleased_keep Chip.dict h (by intro _ _; rfl) Chip.releaseReset_dict p due,
    Chip.resetDue_keep Chip.dict (by intro _ _ _; rfl) (by intro _ _ _; rfl)]
  rfl

theorem Chip.endPartReset_busy {o st : Nat} (hc : (b.part p).resetCmd = true) (hb : (b.cmd 0x2E21).busy = some o) :
    ((b.endPartReset p st).cmd 0x2E21).busy = none ∧ Tab.get 0 ((b.endPartReset p st).cmd 0x2E21).status o = st ∧
      (b.endPartReset p st).part p = { b.part p with resetCmd := false } := by
  obtain ⟨hbusy, hst⟩ := Chip.endCmd_busy b 0x2E21 st o hb
  rw [Chip.endPartReset, if_pos hc]
  exact ⟨hbusy, hst, (Chip.part_modPart _ _ _).trans (by rw [Chip.part_congr (Chip.endCmd_parts _ _ _)])⟩

theorem Chip.partResetRelease_due (h : (b.part p).resetAt = some due) :
    b.partResetRelease p = (b.resetReleased p due).endPartReset p 0 ∨
      ∃ e, b.partResetRelease p = ((b.resetReleased p due).endPartReset p 0).logEvent e := by
  have hp : ((b.upTo due).modPart p fun q => { q with resetAt := none }).partRegions p = b.partRegions p :=
    Chip.partRegions_congr (by rw [Chip.part_modPart]; rfl)
  simp only [Chip.partResetRelease, h, hp]
  split
  · exact .inl rfl
  · exact .inr ⟨_, rfl⟩

/-- The release ends the command with status 0, and the regions are as their edges leave them; its entry touches none of it. -/
theorem Chip.partResetRelease_ends {o : Nat} (h : (b.part p).resetAt = some due) (hc : (b.part p).resetCmd = true)
    (hb : (b.cmd 0x2E21).busy = some o) (ha : b.inject.armed = []) :
    ((b.partResetRelease p).part p).resetAt = none ∧ Tab.get 0 ((b.partResetRelease p).cmd 0x2E21).status o = 0 ∧
      ((b.partResetRelease p).cmd 0x2E21).busy = none ∧
      ∀ r, (b.partResetRelease p).region r = (b.resetReleased p due).region r := by
  have hp := Chip.resetReleased_part (p := p) (due := due) ha
  obtain ⟨hbusy, hst, hpart⟩ := Chip.endPartReset_busy (b := b.resetReleased p due) (p := p) (st := 0)
    (by rw [hp]; exact hc) ((congrArg Cmd.busy (Chip.resetReleased_cmd ha _)).trans hb)
  have hreg := Chip.region_congr (Chip.endPartReset_regions (b.resetReleased p due) p 0)
  rcases Chip.partResetRelease_due h with he | ⟨e, he⟩
  · rw [he, hpart, hp]
    exact ⟨rfl, hst, hbusy, hreg⟩
  · have hcmd : (((b.resetReleased p due).endPartReset p 0).logEvent e).cmd 0x2E21 =
        ((b.resetReleased p due).endPartReset p 0).cmd 0x2E21 := by rw [Chip.cmd, Chip.logEvent_dict_cmds]; rfl
    rw [he, Chip.part_congr (Chip.logEvent_parts _ _), hpart, hp, hcmd]
    exact ⟨rfl, hst, hbusy, fun r => (Chip.region_congr (Chip.logEvent_regions _ _) r).trans (hreg r)⟩

end

section
variable {s : State} {q : Req} {n p : Nat}

theorem exec_partitionOwnerWrite_allowed {v : Nat} (h : WriteAllowed s q (0x2110 + p) 1 v = true) :
    exec (.partitionOwnerWrite q p v) s = .next (s.on (((s.served q).setPartOwner p v).answer q.owner .done)) :=
  congrArg (fun b => Host.Outcome.next (s.on b)) (writeRow_allowed s q _ _ v _ h)

theorem exec_partitionClaimWrite_allowed {m : BitVec 32} (h : WriteAllowed s q (0x2110 + p) 2 m.toNat = true) :
    exec (.partitionClaimWrite q p m) s = .next (s.on ((s.served q).finish q.owner ((s.served q).setClaim p m))) :=
  congrArg (fun b => Host.Outcome.next (s.on b)) (writeRow_allowed s q _ _ m.toNat _ h)

theorem exec_partitionReset_taken {frame : Nat} (h : CommandTaken s q 0x2E21 n [(3, p), (4, frame)] = true) :
    exec (.partitionReset q n p frame) s =
      .next (s.on (((s.started q 0x2E21 n [(3, p), (4, frame)]).startPartReset q.owner).answer q.owner .done)) :=
  congrArg (fun b => Host.Outcome.next (s.on b)) (commandRow_taken s q 0x2E21 n _ Chip.startPartReset h)

/-- A command with two parameters finds them in their registers. -/
theorem State.started_reg_pair {idx u v : Nat} (h : CommandTaken s q idx n [(3, u), (4, v)] = true) :
    (s.started q idx n [(3, u), (4, v)]).reg (cmdKey idx) 3 = u ∧
      (s.started q idx n [(3, u), (4, v)]).reg (cmdKey idx) 4 = v := by
  have hk : key (cmdKey idx) 3 ≠ key (cmdKey idx) 4 := key_ne_of_sub (by decide) (by decide) (by decide)
  rw [State.started, withParams_taken s q _ n _ h]
  exact ⟨(Chip.reg_setReg _ _ _ _ _ _ hk).trans (Chip.reg_setReg_self _ _ _ _), Chip.reg_setReg_self _ _ _ _⟩

theorem State.started_mem (s : State) (q : Req) (i n : Nat) (l : List (Nat × Nat)) : (s.started q i n l).mem = s.mem := by
  simp [State.started]

theorem State.started_slices (s : State) (q : Req) (i n : Nat) (l : List (Nat × Nat)) :
    (s.started q i n l).slices = s.slices := by
  simp [State.started]

theorem AltersPart.served {l : List Area} (hl : .belfry :: answerAreas ⊆ l) (s : State) (q : Req) :
    AltersPart l p s.toChip (s.served q) :=
  .of_parts rfl fun x hx => (OnlyTouches.served s q).2 x fun h => hx (hl h)

/-- What a write that changes one partition comes to, with its answer. -/
theorem AltersPart.written {l : List Area} {c : Chip} (hl : .belfry :: answerAreas ⊆ l) (h : AltersPart l p (s.served q) c)
    (o : Nat) (r : Reply) : AltersPart l p s.toChip (c.answer o r) :=
  .trans (.trans (.served hl s q) h) (.answer (fun _ hx => hl (List.mem_cons_of_mem _ hx)) c o r)

/-- An owner that is written stands at its partition; the change is logged (R299). -/
theorem Chip.setPartOwner_logs (b : Chip) (p v : Nat) :
    ∃ e, b.setPartOwner p v = (b.modPart p fun x => { x with owner := v }).logEvent e := by
  rw [Chip.setPartOwner]
  split <;> exact ⟨_, rfl⟩

/-- A claim is taken where no other partition holds a region of it, none is excluded, and it covers the stream's regions (R300). -/
theorem Chip.setClaim_taken {b : Chip} {m : BitVec 32} (h : b.claimedElsewhere p m = false)
    (hx : m &&& b.test.excluded = 0#32) (hr : (b.part p).regions &&& ~~~m = 0#32) :
    b.setClaim p m = .ok (b.modPart p fun x => { x with claim := m }) := by
  simp [Chip.setClaim, h, hx, hr]

theorem Chip.setClaim_refused {b : Chip} {m : BitVec 32} (h : b.claimedElsewhere p m = true) :
    b.setClaim p m = .error 0x06090030 := by
  simp [Chip.setClaim, h]

end

/-- Settles O37: the writes change one partition (`AltersPart`), the reset asserted is one equation (`Chip.resetPlanned`), and at the
release each region has its turn in the order of the edges (`Chip.resetReleased`). -/
theorem partitionsAreOwnedClaimedAndReset : Obligations.PartitionsAreOwnedClaimedAndReset := by
  unfold Obligations.PartitionsAreOwnedClaimedAndReset
  refine ⟨?_, ?_, ?_, ?_, ?_⟩
  · intro s q p v _ h
    obtain ⟨e, he⟩ := (s.served q).setPartOwner_logs p v
    have ha : AltersPart (.belfry :: .parts :: .dbg :: logAreas) p (s.served q) ((s.served q).setPartOwner p v) := by
      rw [he]
      exact (AltersPart.modPart (by simp) (s.served q) _).trans (.logEvent (by decide) _ e)
    have hw := ha.written (by decide) q.owner .done
    have hp : (((s.served q).setPartOwner p v).answer q.owner .done).part p = { s.part p with owner := v } := by
      rw [Chip.part_congr (Chip.answer_parts _ _ _), he, Chip.part_congr (Chip.logEvent_parts _ _), Chip.part_modPart]
      rfl
    refine ⟨_, exec_partitionOwnerWrite_allowed h, ?_, by simp, ?_, hw.1, hw.onlyTouches⟩
    · rw [State.on_toChip, hp]
    · rw [State.on_toChip, hp]
  · intro s q p m _ h hc hx hr
    have ht : (s.served q).setClaim p m = .ok ((s.served q).modPart p fun x => { x with claim := m }) :=
      Chip.setClaim_taken hc hx hr
    have hw := (AltersPart.modPart (l := .belfry :: .parts :: answerAreas) (p := p) (by simp) (s.served q) fun x =>
      { x with claim := m }).written (by decide) q.owner .done
    refine ⟨_, (exec_partitionClaimWrite_allowed h).trans (by rw [ht]; rfl), ?_, by simp, hw.1, hw.onlyTouches⟩
    rw [State.on_toChip, Chip.part_congr (Chip.answer_parts _ _ _), Chip.part_modPart]
  · intro s q p m _ h hc
    have ht : (s.served q).setClaim p m = .error 0x06090030 := Chip.setClaim_refused hc
    exact ⟨_, (exec_partitionClaimWrite_allowed h).trans (by rw [ht]; rfl), by simp,
      (OnlyTouches.served s q).requestAnswer _⟩
  · intro s q n p f h hs hc ha hu hr hf
    set c := s.started q 0x2E21 n [(3, p), (4, f)]
    have hpart : ∀ j, c.part j = s.part j := Chip.part_congr (State.started_parts _ _ _ _ _)
    have hreg : ∀ j, c.region j = s.region j := Chip.region_congr (State.started_regions _ _ _ _ _)
    have hl : c.partRegions p = s.partRegions p := Chip.partRegions_congr (by rw [hpart])
    have hnow : c.now = (s.served q).now := State.started_now _ _ _ _ _
    have hfb : c.frameBegun p f = (s.served q).frameBegun p f := by rw [Chip.frameBegun, hpart, hnow]; rfl
    obtain ⟨h3, h4⟩ := State.started_reg_pair h
    have he : c.startPartReset q.owner = c.resetPlanned p f q.owner :=
      Chip.startPartReset_plans h3 h4 (by rw [Chip.serving, State.started_dev]; exact hs) (by rwa [hpart]) (by rwa [hpart])
        (by rwa [hpart]) (by simpa only [hl, hreg] using hr) (by rwa [hpart, hfb])
    have hp : ∀ j, ((c.resetPlanned p f q.owner).answer q.owner .done).part j = (c.resetPlanned p f q.owner).part j :=
      Chip.part_congr (Chip.answer_parts _ _ _)
    have hrg : ∀ j, ((c.resetPlanned p f q.owner).answer q.owner .done).region j =
        (c.resetPlanned p f q.owner).region j := Chip.region_congr (Chip.answer_regions _ _ _)
    obtain ⟨hbusy, hst⟩ := c.resetPlanned_cmd p f q.owner
    refine ⟨s.on ((c.resetPlanned p f q.owner).answer q.owner .done), he ▸ exec_partitionReset_taken h, ⟨?_, ?_⟩,
      fun r hm => ?_, ?_, ?_, ?_, ?_, ?_, fun r hm => ?_, fun j hj => ?_⟩
    · rw [State.on_toChip, show cmdKey 0x2E21 = 0x2E21 from rfl, Chip.answer_cmd, hbusy]
    · rw [State.status_on_answer, show cmdKey 0x2E21 = 0x2E21 from rfl, hst]
    · rw [State.on_toChip, hrg]
      exact c.resetPlanned_region_mem p f q.owner (hl ▸ hm)
    · rw [State.on_toChip, hp, Chip.resetPlanned_part, Chip.resetTick, Chip.releaseFrame, hpart, hnow]
    · rw [State.on_toChip, hp, Chip.resetPlanned_part, hpart]
    · rw [State.on_toChip, Chip.answer_mem, Chip.resetPlanned_mem, State.started_mem]
    · rw [State.on_toChip, Chip.answer_slices, c.resetPlanned_slices p f q.owner Slices.im (fun _ _ => rfl),
        State.started_slices]
    · rw [State.on_toChip, Chip.answer_slices, c.resetPlanned_slices p f q.owner Slices.cm (fun _ _ => rfl),
        State.started_slices]
    · rw [State.on_toChip, hrg, c.resetPlanned_region_ne p f q.owner (hl ▸ hm), hreg]
    · rw [State.on_toChip, hp, c.resetPlanned_part_ne p f q.owner hj, hpart]
  · intro s p due o hdue hcmd hbusy harm
    obtain ⟨hat, hst, hb, hreg⟩ := Chip.partResetRelease_ends (b := s.toChip) hdue hcmd hbusy harm
    refine ⟨s.on (s.toChip.partResetRelease p), rfl, hat, hst, hb, fun r hm => ?_, fun r hm => ?_⟩
    · rw [State.on_toChip, hreg]
      refine ⟨Chip.resetReleased_fenced harm hm, fun hf hh => ?_, Chip.resetReleased_region_halted harm hm,
        Chip.resetReleased_region_fenced harm hm⟩
      obtain ⟨hi, hrel, hdiv, -⟩ := Chip.resetReleased_region_free (due := due) harm hm hf hh
      exact ⟨hi, hrel, hdiv⟩
    · rw [State.on_toChip, hreg, Chip.resetReleased_region_ne harm hm]

end Sys2Proof.Machine

namespace Sys2Proof.Machine
open Sys2Proof

/-! ### One lane changes -/

section
variable {l : List Area} {x : Lane} {b c d : Chip}

theorem Chip.lane_congr (h : c.lanes = b.lanes) (k : Lane) : c.lane k = b.lane k := by simp [Chip.lane, h]

@[simp] theorem Chip.lane_modLane (b : Chip) (x : Lane) (f : LaneState → LaneState) :
    (b.modLane x f).lane x = f (b.lane x) := Tab.get_mod_self _ _ _ _

theorem Chip.lane_modLane_ne {k : Lane} (h : laneKey k ≠ laneKey x) (f : LaneState → LaneState) :
    (b.modLane x f).lane k = b.lane k := Tab.get_mod_ne _ _ _ _ _ h

/-- From b to c lane x alone of the lanes has changed, and of the areas those of l alone. -/
def AltersLane (l : List Area) (x : Lane) (b c : Chip) : Prop :=
  (∀ k, laneKey k ≠ laneKey x → c.lane k = b.lane k) ∧ ∀ a, a ∉ l → a.same b c

theorem AltersLane.trans (h : AltersLane l x b c) (h' : AltersLane l x c d) : AltersLane l x b d :=
  ⟨fun k hk => (h'.1 k hk).trans (h.1 k hk), fun a ha => (h.2 a ha).trans (h'.2 a ha)⟩

/-- A change of other areas than the lanes. -/
theorem AltersLane.of_lanes (hb : c.lanes = b.lanes) (h : ∀ a, a ∉ l → a.same b c) : AltersLane l x b c :=
  ⟨fun k _ => Chip.lane_congr hb k, h⟩

theorem AltersLane.upTo (hl : .belfry ∈ l) (b : Chip) (t : Nat) : AltersLane l x b (b.upTo t) :=
  .of_lanes rfl fun _ ha => Area.same_upTo (by rintro rfl; exact ha hl) b t

theorem AltersLane.modLane (hl : .lanes ∈ l) (b : Chip) (f : LaneState → LaneState) : AltersLane l x b (b.modLane x f) :=
  ⟨fun _ hk => Chip.lane_modLane_ne hk f, fun a ha => by cases a <;> simp_all [Area.same, Chip.modLane]⟩

theorem AltersLane.count (hl : .dict ∈ l) (b : Chip) (i j : Nat) : AltersLane l x b (b.count i j) :=
  .of_lanes rfl fun _ ha => Area.same_count (by rintro rfl; exact ha hl) b i j

theorem AltersLane.tookFree (hl : .free ∈ l) (b : Chip) : AltersLane l x b b.tookFree :=
  .of_lanes rfl fun a ha => by cases a <;> simp_all [Area.same]

/-- A row that changes one lane at its tick. -/
theorem AltersLane.atTick (b : Chip) (t : Nat) (f : LaneState → LaneState) :
    AltersLane [.belfry, .lanes] x b ((b.upTo t).modLane x f) :=
  .trans (.upTo (by simp) b t) (.modLane (by simp) _ f)

theorem AltersLane.onlyTouches {s : State} (h : AltersLane l x s.toChip c) : OnlyTouches l s (s.on c) := ⟨rfl, h.2⟩

theorem AltersLane.others {s : State} (h : AltersLane l x s.toChip c) :
    ∀ k, laneKey k ≠ laneKey x → (s.on c).lane k = s.lane k := h.1

end

/-- A row answers with the device that its equation gives. -/
theorem next_congr {s : State} {b c : Chip} (h : b = c) : (Host.Outcome.next (s.on b) : Out) = .next (s.on c) := by rw [h]

/-! ### Tokens that are sent -/

section
variable {b : Chip} {l : Lane} {n c : Nat} {v : Bool} {data : BitVec 32}

/-- A lane whose send register takes the token of cycle c; the token is in flight where the receiver does not lose it (R144). -/
def LaneState.sentIn (x : LaneState) (c : Nat) (lost : Bool) (k : Token) : LaneState :=
  { x with sent := some c, inFlight := if lost then x.inFlight else x.inFlight ++ [k] }

/-- A lane whose buffer takes an unscheduled token, which uses the sender's cycle c (R147). -/
def LaneState.waitingIn (x : LaneState) (c : Nat) (k : Token) : LaneState :=
  { x with sent := some c, buffer := x.buffer ++ [k] }

/-- A token toward a fenced receiver: sent, discarded and counted (R147). -/
def Chip.discarded (b : Chip) (l : Lane) (c : Nat) : Chip :=
  (b.modLane l fun x => { x with sent := some c }).count (0x2500 + l.r) 0x0A

theorem Chip.discarded_inFlight (b : Chip) (l : Lane) (c : Nat) :
    ((b.discarded l c).lane l).inFlight = (b.lane l).inFlight :=
  (congrArg LaneState.inFlight (b.lane_modLane l fun x => { x with sent := some c }) :)

theorem Chip.discarded_count (b : Chip) (l : Lane) (c : Nat) :
    (b.discarded l c).reg (0x2500 + l.r) 0x0A = sat32 (b.reg (0x2500 + l.r) 0x0A + 1) := Chip.reg_setReg_self _ _ _ _

theorem Chip.discarded_alters {a : List Area} (hl : .lanes ∈ a) (hd : .dict ∈ a) (b : Chip) (l : Lane) (c : Nat) :
    AltersLane a l b (b.discarded l c) := .trans (.modLane hl b _) (.count hd _ _ _)

/-- In a send slot a token of a cycle that has none yet goes off toward a receiver that is not fenced (R143, R144). -/
theorem Chip.sendScheduled_goes (hn : neighbor l.r l.side = some n) (hr : b.fabricRuns l.r = true)
    (hs : (b.slotAt l.r 1 (laneRes l)).isSome = true) (hc : (b.lane l).sent ≠ some (b.isle l.r))
    (hf : (b.region n).fenced = false) :
    b.sendScheduled l v data = b.modLane l fun x =>
      x.sentIn (b.isle l.r) (b.region n).inReset { data := data, valid := v, due := b.releaseCycle l.r n } := by
  have hsl : (b.slotAt l.r 1 (laneRes l)).isNone = false := by simpa using hs
  have hfree : b.laneFree l (b.isle l.r) = true := by simpa [Chip.laneFree] using hc
  simp only [Chip.sendScheduled, hn, hr, hsl, hfree, hf]
  rfl

/-- Toward a fenced receiver it is discarded (R147). -/
theorem Chip.sendScheduled_discards (hn : neighbor l.r l.side = some n) (hr : b.fabricRuns l.r = true)
    (hs : (b.slotAt l.r 1 (laneRes l)).isSome = true) (hc : (b.lane l).sent ≠ some (b.isle l.r))
    (hf : (b.region n).fenced = true) : b.sendScheduled l v data = b.discarded l (b.isle l.r) := by
  have hsl : (b.slotAt l.r 1 (laneRes l)).isNone = false := by simpa using hs
  have hfree : b.laneFree l (b.isle l.r) = true := by simpa [Chip.laneFree] using hc
  simp only [Chip.sendScheduled, hn, hr, hsl, hfree, hf]
  rfl

/-- A second token of one sender cycle is not taken (R143). -/
theorem Chip.sendScheduled_second (hc : (b.lane l).sent = some (b.isle l.r)) : b.sendScheduled l v data = b := by
  have hfree : b.laneFree l (b.isle l.r) = false := by simp [Chip.laneFree, hc]
  simp only [Chip.sendScheduled]
  split
  · rfl
  · simp [hfree]

/-- An unscheduled token takes the next sender cycle and waits in the buffer (R147). -/
theorem Chip.sendUnscheduled_waits (hn : neighbor l.r l.side = some n) (hr : b.fabricRuns l.r = true)
    (hs : b.slotNext l.r 1 (laneRes l) = false) (hc : (b.lane l).sent ≠ some (b.isle l.r + 1))
    (hl : (b.lane l).buffer.length < 4) (hf : (b.region n).fenced = false) :
    b.sendUnscheduled l data = b.modLane l fun x =>
      x.waitingIn (b.isle l.r + 1) { data := data, valid := true, due := b.isle n + 3 } := by
  have hready : b.laneReady l n = true := by simp [Chip.laneReady, hs, hl]
  have hfree : b.laneFree l (b.isle l.r + 1) = true := by simpa [Chip.laneFree] using hc
  simp only [Chip.sendUnscheduled, hn, hr, hready, hfree, hf]
  rfl

end

/-! ### Tokens that are delivered -/

section
variable {b : Chip} {l tx : Lane} {v p : Bool} {data : BitVec 32}

/-- A running region is in none of the states that stop its fabric (R124). -/
theorem Chip.fabricRuns_iff {r : Nat} : b.fabricRuns r = true ↔
    b.serving = true ∧ (b.region r).fenced = false ∧ (b.region r).halted = false ∧ (b.region r).inReset = false := by
  simp [Chip.fabricRuns, and_assoc]

theorem Chip.deliver_delivered (b : Chip) (l tx : Lane) (data : BitVec 32) (v p : Bool) :
    ((b.deliver l tx data v p).lane tx).delivered =
      some { data := data, valid := v, poison := p, sched := true, cycle := b.isle l.r } :=
  congrArg LaneState.delivered (b.lane_modLane tx _)

/-- A lane that has delivered the first unscheduled token of its buffer in the receiver's cycle c (R147). -/
def LaneState.passed (x : LaneState) (k : Token) (rest : List Token) (c : Nat) : LaneState :=
  { x with
    buffer := rest
    delivered := some { data := k.data, valid := true, poison := false, sched := false, cycle := c } }

/-- The lane has delivered nothing in this receiver cycle yet. -/
theorem Chip.undelivered {c : Nat} (h : ∀ d, (b.lane tx).delivered = some d → d.cycle ≠ c) :
    ((b.lane tx).delivered.any fun d => d.cycle == c) = false := by
  cases hd : (b.lane tx).delivered with
  | none => rfl
  | some d => simpa using h d hd

/-- A receive slot of the lane in which the receiver takes a token: no late crossing is injected, and the cycle has had no
delivery (R144, R106). -/
structure Chip.TakesToken (b : Chip) (l tx : Lane) : Prop where
  sender : senderOf l = some tx
  runs : b.fabricRuns l.r = true
  slot : (b.slotAt l.r 2 (laneRes l)).isSome = true
  unarmed : b.isArmed 0x2D62 1 l.r = false
  fresh : ∀ d, (b.lane tx).delivered = some d → d.cycle ≠ b.isle l.r

/-- From a sender that is fenced or unlocked poison is delivered and counted (R146). -/
theorem Chip.TakesToken.poison (h : b.TakesToken l tx) (hf : (b.region tx.r).fenced = true) (landed : Bool) :
    b.releaseToken l landed = (b.deliver l tx 0#32 false true).count (0x2500 + l.r) 9 := by
  obtain ⟨x, hx⟩ := Option.isSome_iff_exists.1 h.slot
  simp only [Chip.releaseToken, h.sender, hx, h.runs, Chip.undelivered h.fresh, h.unarmed, hf]
  rfl

/-- A handshake that has completed delivers the token of the slot (R144). -/
theorem Chip.TakesToken.lands (h : b.TakesToken l tx) (hf : (b.region tx.r).fenced = false)
    (hu : (b.region tx.r).unlock = false) (hi : (b.region tx.r).unlockInj = false) :
    b.releaseToken l true = b.tookFree.deliver l tx (b.landedToken tx (b.isle l.r)).data
      (b.landedToken tx (b.isle l.r)).valid false := by
  obtain ⟨x, hx⟩ := Option.isSome_iff_exists.1 h.slot
  simp only [Chip.releaseToken, h.sender, hx, h.runs, Chip.undelivered h.fresh, h.unarmed, hf, hu, hi]
  rfl

theorem Chip.landedToken_due {c : Nat} {k : Token} (h : (b.lane tx).inFlight.find? (fun k => k.due == c) = some k) :
    b.landedToken tx c = k := by simp [Chip.landedToken, h]

/-- Where none was presented, the token of the slot is not valid (R144). -/
theorem Chip.landedToken_invalid {c : Nat} (h : ∀ k ∈ (b.lane tx).inFlight, k.due ≠ c) :
    (b.landedToken tx c).valid = false := by
  have hn : (b.lane tx).inFlight.find? (fun k => k.due == c) = none := by simpa using h
  simp [Chip.landedToken, hn]

/-- The first token of the buffer is delivered where its time has come and no receive entry covers the cycle (R147). -/
theorem Chip.deliverUnscheduled_first {k : Token} {rest : List Token} (hs : senderOf l = some tx)
    (hr : b.fabricRuns l.r = true) (hf : (b.region tx.r).fenced = false)
    (hx : (b.slotAt l.r 2 (laneRes l)).isSome = false) (hb : (b.lane tx).buffer = k :: rest) (hk : k.due ≤ b.isle l.r)
    (hd : ∀ d, (b.lane tx).delivered = some d → d.cycle ≠ b.isle l.r) :
    b.deliverUnscheduled l = b.modLane tx fun x => x.passed k rest (b.isle l.r) := by
  obtain ⟨hserving, hfenced, hhalted, hreset⟩ := Chip.fabricRuns_iff.1 hr
  have hdue : decide (b.isle l.r < k.due) = false := by simpa using hk
  simp only [Chip.deliverUnscheduled, hs, hb, hserving, hfenced, hhalted, hreset, hf, hx, hdue, Chip.undelivered hd]
  rfl

end

/-- Settles O16: each row is an equation of the device, at the tick of the row, of which `AltersLane` says what it leaves. -/
theorem tokensCrossBetweenRegions : Obligations.TokensCrossBetweenRegions := by
  unfold Obligations.TokensCrossBetweenRegions
  intro others cycle idle takes
  have htakes : ∀ {s : State} {l tx : Lane} {t0 : Nat}, takes s l tx t0 → (s.toChip.upTo t0).TakesToken l tx := by
    rintro s l tx t0 ⟨hs, hr, hx, ha, hd⟩
    exact ⟨hs, hr, hx, ha, hd⟩
  refine ⟨?_, ?_, ?_, ?_, ?_, ?_, ?_⟩
  · intro s l v d n t0 hn hr hx hc hf
    have ha := AltersLane.atTick (x := l) s.toChip t0 fun x => x.sentIn (cycle s l.r t0) (s.region n).inReset
      { data := d, valid := v, due := (s.toChip.upTo t0).releaseCycle l.r n }
    have hl := Chip.lane_modLane (s.toChip.upTo t0) l fun x => x.sentIn (cycle s l.r t0) (s.region n).inReset
      { data := d, valid := v, due := (s.toChip.upTo t0).releaseCycle l.r n }
    exact ⟨_, next_congr (Chip.sendScheduled_goes hn hr hx hc hf), congrArg LaneState.sent hl,
      congrArg LaneState.inFlight hl, ha.others, ha.onlyTouches⟩
  · intro s l v d n t0 hn hr hx hc hf
    have ha : AltersLane [.belfry, .lanes, .dict] l s.toChip ((s.toChip.upTo t0).discarded l (cycle s l.r t0)) :=
      .trans (.upTo (by simp) _ t0) (Chip.discarded_alters (by simp) (by simp) _ _ _)
    exact ⟨_, next_congr (Chip.sendScheduled_discards hn hr hx hc hf), Chip.discarded_count _ _ _,
      Chip.discarded_inFlight _ _ _, ha.others, ha.onlyTouches⟩
  · intro s l v d t0 hc
    exact ⟨_, next_congr (Chip.sendScheduled_second hc), OnlyTouches.upTo (by simp) s t0⟩
  · intro s l d n t0 hn hr hx hc hb hf
    have ha := AltersLane.atTick (x := l) s.toChip t0 fun x =>
      x.waitingIn (cycle s l.r t0 + 1) { data := d, valid := true, due := cycle s n t0 + 3 }
    exact ⟨_, next_congr (Chip.sendUnscheduled_waits hn hr hx hc hb hf),
      congrArg LaneState.buffer (Chip.lane_modLane _ _ _), ha.others, ha.onlyTouches⟩
  · intro s l tx t0 ht hf hu hi
    set b := s.toChip.upTo t0
    set k := b.landedToken tx (cycle s l.r t0)
    have ha : AltersLane [.belfry, .lanes, .free] tx s.toChip (b.tookFree.deliver l tx k.data k.valid false) :=
      .trans (.upTo (by simp) _ t0) (.trans (.tookFree (by simp) _) (.modLane (by simp) _ _))
    have hd := Chip.deliver_delivered b.tookFree l tx k.data k.valid false
    refine ⟨_, next_congr ((htakes ht).lands hf hu hi), fun j hj => ?_, fun hj => ⟨k.data, ?_⟩, ha.others, ha.onlyTouches⟩
    · exact hd.trans (by rw [show k = j from Chip.landedToken_due hj]; rfl)
    · exact hd.trans (by rw [show k.valid = false from Chip.landedToken_invalid hj]; rfl)
  · intro s l tx landed t0 ht hf
    have ha : AltersLane [.belfry, .lanes, .dict] tx s.toChip
        (((s.toChip.upTo t0).deliver l tx 0#32 false true).count (0x2500 + l.r) 9) :=
      .trans (.upTo (by simp) _ t0) (.trans (.modLane (by simp) _ _) (.count (by simp) _ _ _))
    exact ⟨_, next_congr ((htakes ht).poison hf landed), Chip.deliver_delivered _ _ _ _ _ _,
      Chip.reg_setReg_self _ _ _ _, ha.others⟩
  · intro s l tx k t0 rest hs hr hf hx hb hk hd
    have ha := AltersLane.atTick (x := tx) s.toChip t0 fun x => x.passed k rest (cycle s l.r t0)
    have hl := Chip.lane_modLane (s.toChip.upTo t0) tx fun x => x.passed k rest (cycle s l.r t0)
    exact ⟨_, next_congr (Chip.deliverUnscheduled_first hs hr hf hx hb hk hd), congrArg LaneState.buffer hl,
      congrArg LaneState.delivered hl, ha.others, ha.onlyTouches⟩

end Sys2Proof.Machine

namespace Sys2Proof.Machine
open Sys2Proof

/-! ### Lost lock -/

section
variable {b : Chip} {r d : Nat}

/-- The device with a detection counted and the unlock indicator of the region up (R140). -/
def Chip.unlockSeen (b : Chip) (r : Nat) : Chip :=
  (b.count (0x2500 + r) 7).modRegion r fun g => { g with unlock := true }

theorem Chip.lockLost_seen (hd : d ≠ 2) : ∃ e, e.code = evCode 3 5 r 1 ∧ b.lockLost r d false = (b.unlockSeen r).fence r e := by
  refine ⟨(b.unlockSeen r).regionEv r (evCode 3 5 r 1) 4 false d 0 0, rfl, ?_⟩
  simp [Chip.lockLost, if_neg hd, Chip.unlockSeen]

theorem Chip.unlockSeen_region (b : Chip) (r : Nat) : (b.unlockSeen r).region r = { b.region r with unlock := true } :=
  Chip.region_modRegion _ _ _

theorem Chip.unlockSeen_count (b : Chip) (r : Nat) :
    (b.unlockSeen r).reg (0x2500 + r) 7 = sat32 (b.reg (0x2500 + r) 7 + 1) := Chip.reg_setReg_self _ _ _ _

/-- The indicator does not rise during a halt (R142). -/
theorem Chip.islandUnlock_halted (h : (b.region r).halted = true) : b.islandUnlock r 1 = b := by
  simp [Chip.islandUnlock, h]

theorem Chip.islandUnlock_running (h : (b.region r).halted = false ∨ d ≠ 1) : b.islandUnlock r d = b.lockLost r d false := by
  rcases h with h | h <;> simp [Chip.islandUnlock, h]

/-- A lost lock raises the indicator, is counted in 0x25ii:07, and shows its code as the cause of the fence (R26, R140). -/
theorem Chip.lockLost_unfenced (hr : r < 32) (hd : d ≠ 2) (hf : (b.region r).fenced = false) :
    ((b.lockLost r d false).region r).unlock = true ∧
      (b.lockLost r d false).reg (0x2500 + r) 7 = sat32 (b.reg (0x2500 + r) 7 + 1) ∧
      (b.lockLost r d false).reg (0x2500 + r) 6 = evCode 3 5 r 1 := by
  obtain ⟨e, hc, he⟩ := Chip.lockLost_seen (b := b) (r := r) hd
  have hf' : ((b.unlockSeen r).region r).fenced = false := by rw [Chip.unlockSeen_region]; exact hf
  have hu := congrArg (fun g : Region => g.unlock) (FenceAlters.fence (b.unlockSeen r) r e).2
  have hq : QuietReg (0x2500 + r) 7 := quietReg_region (by omega) (by omega) (by decide)
  rw [he]
  refine ⟨hu.trans (congrArg Region.unlock (b.unlockSeen_region r)), ?_, ?_⟩
  · rw [Chip.fence_reg_keep _ _ _ hq (by decide) (by decide), Chip.unlockSeen_count]
  · rw [Chip.fence_code _ hf' hr, hc]

end

/-! ### The restart is taken -/

section
variable {b c : Chip} {r o : Nat}

theorem Chip.tabledPart_congr (hr : c.regions = b.regions) (hp : c.parts = b.parts) (r : Nat) :
    c.tabledPart r = b.tabledPart r := by
  simp only [Chip.tabledPart, Chip.regionPart, Chip.region_congr hr, Chip.part_congr hp]

theorem Chip.causePresent_congr (hr : c.regions = b.regions) (hd : c.dev = b.dev)
    (hg : c.reg 0x2900 0x0C = b.reg 0x2900 0x0C) (r : Nat) : c.causePresent r = b.causePresent r := by
  simp only [Chip.causePresent, Chip.clockState, Chip.region_congr hr, hd, hg]

/-- The region under reset with its command busy, its standby locking to the committed ratio, and the release meant for
tick t (R150). -/
def Chip.restartPlanned (b : Chip) (r o t : Nat) : Chip :=
  ((b.beginCmd 0x2E05 o).assertReset r).modRegion r fun g => { g with restartAt := some t, standby := .locking g.m }

theorem Chip.startRestart_plans (h3 : b.reg 0x2E05 3 = r) (hs : b.serving = true)
    (hf : (b.region r).fenced = true) (hh : (b.region r).halted = false) (hc : b.causePresent r = false)
    (ht : b.tabledPart r = none) : b.startRestart o = b.restartPlanned r o b.now := by
  simp only [Chip.startRestart, h3, hs, hf, Chip.debugHalted, hh, hc, ht]
  rfl

theorem Chip.assertReset_m (b : Chip) (r j : Nat) : ((b.assertReset r).region j).m = (b.region j).m := by
  have hs : ∀ c : Chip, ((c.settleRegion r true).region j).m = (c.region j).m := fun c =>
    Chip.modRegion_keep Region.m c r _ (fun g => Region.settle_keep Region.m (fun _ _ _ _ _ _ _ _ => rfl) g r _) j
  rw [Chip.region_congr (b.assertReset_regions r), Chip.modRegion_keep Region.m _ r _ (by intro _; rfl),
    Chip.region_congr (Chip.loseTokens_regions _ _), hs, Chip.region_congr (Chip.dropPacking_regions _ _), Chip.stopSlots,
    Chip.modRegion_keep Region.m _ r _ (by intro _; rfl)]

/-- The region's record, its fence still up (R150). -/
theorem Chip.restartPlanned_record (b : Chip) (r o t : Nat) :
    ((b.restartPlanned r o t).region r).inReset = true ∧
      ((b.restartPlanned r o t).region r).standby = .locking (b.region r).m ∧
      ((b.restartPlanned r o t).region r).restartAt = some t ∧
      ((b.restartPlanned r o t).region r).fenced = (b.region r).fenced := by
  rw [Chip.restartPlanned, Chip.region_modRegion]
  exact ⟨Chip.assertReset_inReset _ _, congrArg Standby.locking (Chip.assertReset_m (b.beginCmd 0x2E05 o) r r), rfl,
    Chip.assertReset_fenced (b.beginCmd 0x2E05 o) r r⟩

theorem Chip.restartPlanned_cmd (b : Chip) (r o t : Nat) :
    ((b.restartPlanned r o t).cmd 0x2E05).busy = some o ∧
      Tab.get 0 ((b.restartPlanned r o t).cmd 0x2E05).status o = 1 := by
  have hc : (b.restartPlanned r o t).cmd 0x2E05 = (b.beginCmd 0x2E05 o).cmd 0x2E05 := by
    simp [Chip.restartPlanned, Chip.cmd]
  rw [hc]
  exact ⟨Chip.beginCmd_busy _ _ _, Chip.beginCmd_status _ _ _⟩

theorem exec_islandRestart_taken {s : State} {q : Req} {n r frame : Nat}
    (h : CommandTaken s q 0x2E05 n [(3, r), (4, frame)] = true) :
    exec (.islandRestart q n r frame) s =
      .next (s.on (((s.started q 0x2E05 n [(3, r), (4, frame)]).startRestart q.owner).answer q.owner .done)) :=
  next_congr (commandRow_taken s q 0x2E05 n _ Chip.startRestart h)

/-- The parameters of a command are the registers of its own object alone. -/
theorem State.started_reg_ne {s : State} {q : Req} {idx n i j u v : Nat}
    (h : CommandTaken s q idx n [(3, u), (4, v)] = true) (hj : j < 256) (hi : i ≠ cmdKey idx) :
    (s.started q idx n [(3, u), (4, v)]).reg i j = s.reg i j := by
  have hk : ∀ k, k < 256 → key i j ≠ key (cmdKey idx) k := fun k hk => key_ne_of_index hj hk hi
  rw [State.started, withParams_taken s q _ n _ h]
  exact (Chip.reg_setReg _ _ _ _ _ _ (hk 4 (by decide))).trans (Chip.reg_setReg _ _ _ _ _ _ (hk 3 (by decide)))

end

/-! ### The standby locks, or does not -/

section
variable {b : Chip} {r m st o due : Nat}

/-- The release of a restart as the lock finds it (R150): the second edge after it, or in a partition with slot tables the frame
named, or the next one where that has begun. -/
def Chip.restartEdge (b : Chip) (r t : Nat) : Nat :=
  match b.tabledPart r with
  | none => b.secondEdge r b.now
  | some p => if t < b.now then b.nextBoundary p else t

theorem Chip.standbyLocked_locks (h : (b.region r).standby = .locking m) (ha : b.isArmed 0x2DC0 3 0 = false) :
    b.standbyLocked r = b.modRegion r fun g =>
      { g with standby := .locked m, restartAt := g.restartAt.map (b.restartEdge r) } := by
  simp only [Chip.standbyLocked, h, ha]
  rfl

theorem Chip.standbyLocked_record (h : (b.region r).standby = .locking m) (ha : b.isArmed 0x2DC0 3 0 = false) :
    ((b.standbyLocked r).region r).standby = .locked m ∧
      ((b.standbyLocked r).region r).restartAt = (b.region r).restartAt.map (b.restartEdge r) := by
  rw [Chip.standbyLocked_locks h ha, Chip.region_modRegion]
  exact ⟨rfl, rfl⟩

theorem AltersRegion.standbyLocked (h : (b.region r).standby = .locking m) (ha : b.isArmed 0x2DC0 3 0 = false) :
    AltersRegion [.regions] r b (b.standbyLocked r) :=
  Chip.standbyLocked_locks h ha ▸ .modRegion (by simp) b _

theorem Chip.endRestart_planned (h : (b.region r).restartAt = some due) : b.endRestart r st =
    ((b.endCmd 0x2E05 st).modRegion r fun g => { g with restartAt := none }).freeRegionStandby r := by
  rw [Chip.endRestart, h]

/-- A restart that ends has no release, and its command has the status (R151). -/
theorem Chip.endRestart_ends (h : (b.region r).restartAt = some due) (hb : (b.cmd 0x2E05).busy = some o) :
    ((b.endRestart r st).region r).restartAt = none ∧ ((b.endRestart r st).cmd 0x2E05).busy = none ∧
      Tab.get 0 ((b.endRestart r st).cmd 0x2E05).status o = st := by
  have hc : (((b.endCmd 0x2E05 st).modRegion r fun g => { g with restartAt := none }).freeRegionStandby r).cmd 0x2E05 =
      (b.endCmd 0x2E05 st).cmd 0x2E05 := by simp [Chip.cmd]
  rw [Chip.endRestart_planned h, hc, Chip.freeRegionStandby, Chip.region_modRegion, Chip.region_modRegion]
  exact ⟨rfl, Chip.endCmd_busy b 0x2E05 st o hb⟩

theorem Chip.standbyFailed_restart (h : (b.region r).standby = .locking m) (ht : (b.region r).restartAt = some due)
    (inj : Bool) : ∃ e, b.standbyFailed r inj = (b.endRestart r 5).logEvent e :=
  ⟨b.regionEv r (evCode 3 5 r 2) 3 inj 3 0 0, by simp only [Chip.standbyFailed, h, ht]⟩

theorem Chip.logEvent_cmd (b : Chip) (e : Ev) (i : Nat) : (b.logEvent e).cmd i = b.cmd i := by simp [Chip.cmd]

end

/-! ### The restart's release -/

section
variable (b : Chip) (r due : Nat)

/-- The island runs on its standby with a new phase; the fence and the unlock indicator end (R139, R150, R155). -/
def Chip.restartFreed (b : Chip) (r due : Nat) : Chip :=
  ((b.upTo due).startIsle r).tookFree.modRegion r fun g =>
    { g with
      restartAt := none, fenced := false, unlock := false, unlockInj := false
      phase := some ((b.upTo due).startIsle r).free }

/-- The standby is free, the banks leave their fault park, and the queue blocks reset (R72, R194). -/
def Chip.restartReady (b : Chip) (r due : Nat) : Chip :=
  (((b.restartFreed r due).freeRegionStandby r).endFaultPark r).resetQueues r true

theorem Chip.restartRelease_due {m : Nat} (ht : (b.region r).restartAt = some due)
    (hs : (b.region r).standby = .locked m) :
    ∃ e, b.restartRelease r = (((b.restartReady r due).releaseRegion r).endCmd 0x2E05 0).logEvent e := by
  rw [Chip.restartRelease, ht, hs]
  exact ⟨_, rfl⟩

theorem Chip.restartReady_regions :
    (b.restartReady r due).regions = ((b.restartFreed r due).freeRegionStandby r).regions := by
  rw [Chip.restartReady, Chip.resetQueues_regions, Chip.endFaultPark_regions]

theorem Chip.restartReady_region : ∃ x, (b.restartReady r due).region r =
    { ((b.upTo due).startIsle r).region r with
      restartAt := none, fenced := false, unlock := false, unlockInj := false, phase := some b.free, standby := x } := by
  rw [Chip.region_congr (b.restartReady_regions r due), Chip.freeRegionStandby, Chip.region_modRegion, Chip.restartFreed,
    Chip.region_modRegion, Chip.startIsle_free]
  exact ⟨_, rfl⟩

theorem Chip.restartReady_region_ne {j : Nat} (h : j ≠ r) : (b.restartReady r due).region j = b.region j := by
  rw [Chip.region_congr (b.restartReady_regions r due), Chip.freeRegionStandby, Chip.region_modRegion_ne _ _ _ _ h,
    Chip.restartFreed, Chip.region_modRegion_ne _ _ _ _ h, Chip.region_congr (Chip.tookFree_regions _), Chip.startIsle,
    Chip.region_modRegion_ne _ _ _ _ h]
  rfl

theorem Chip.restartReady_isle : (b.restartReady r due).isle r = ((b.upTo due).startIsle r).isle r := by
  obtain ⟨x, hx⟩ := b.restartReady_region r due
  have hn : (b.restartReady r due).now = ((b.upTo due).startIsle r).now := by
    simp [Chip.now, Chip.restartReady, Chip.restartFreed]
  simp only [Chip.isle, Chip.period, hx, hn]

theorem Chip.restartReady_inject : (b.restartReady r due).inject = b.inject := by
  simp [Chip.restartReady, Chip.restartFreed]

theorem Chip.restartReady_dict : (b.restartReady r due).dict = b.dict := by
  simp [Chip.restartReady, Chip.restartFreed]

/-- The banks of a list have no fault park once each of them has left it. -/
theorem Chip.forEach_faultParked (k : Nat) (l : List Nat) (h : k ∈ l ∨ (b.bank k).faultParked = false) :
    ((b.forEach l fun b k => b.modPins k fun q => { q with faultParked := false }).bank k).faultParked = false := by
  induction l generalizing b with
  | nil => simpa [Chip.forEach] using h
  | cons j l ih =>
    refine ih (b.modPins j fun q => { q with faultParked := false }) ?_
    by_cases hj : k = j
    · subst hj; exact .inr (by rw [Chip.bank_modPins])
    · rw [(AltersBank.modPins (l := [.banks]) (k := j) (by simp) b _).1 k hj]
      exact h.imp_left fun h => (List.mem_cons.1 h).resolve_left hj

theorem Chip.restartReady_faultParked {k : Nat} (h : k ∈ regionBanks r) :
    ((b.restartReady r due).bank k).faultParked = false := by
  rw [Chip.restartReady, Chip.bank_congr (Chip.resetQueues_banks _ _ _)]
  exact Chip.forEach_faultParked _ k _ (.inl h)

/-- What the release edge of a region keeps of its record (R125). -/
theorem Chip.releaseReset_keep {β : Type} (p : Region → β)
    (hs : ∀ (g : Region) n f fw x xw l c,
      p { g with nets := n, ff := f, ffWas := fw, rfx := x, rfxWas := xw, live := l, settled := c } = p g)
    (he : ∀ (g : Region) i d n c x,
      p { g with inReset := i, relDue := d, released := n, divStart := c, checkedAt := x } = p g) (j : Nat) :
    p ((b.releaseReset r).region j) = p (b.region j) := by
  have hk : p ((b.releaseEdge r).region j) = p (b.region j) :=
    (Chip.modRegion_keep p _ r _ (fun g => he g _ _ _ _ g.checkedAt) j).trans
      (Chip.modRegion_keep p b r _ (fun g => Region.settle_keep p hs g r _) j)
  obtain ⟨c, hc, hr⟩ := b.releaseReset_regions r
  rw [hc, ← hk, ← Chip.region_congr hr, Chip.startSlots]
  split
  · exact Chip.modRegion_keep p c r _ (fun g => he g g.inReset g.relDue g.released g.divStart _) j
  · rfl

variable {b r due} in
/-- The restart's release, where no queue block's mismatch is armed: one region leaves its fence and its reset, and the command
ends with status 0 (R150). -/
theorem Chip.restartRelease_unarmed {m : Nat} (ht : (b.region r).restartAt = some due)
    (hs : (b.region r).standby = .locked m) (ha : ∀ which k, b.isArmed 0x2D30 which k = false) :
    ∃ e, b.restartRelease r = (((b.restartReady r due).releaseReset r).endCmd 0x2E05 0).logEvent e := by
  have hu : (b.restartReady r due).releaseRegion r = (b.restartReady r due).releaseReset r :=
    Chip.injectQueues_unarmed _ _ fun which k => by
      rw [Chip.isArmed, Chip.releaseReset_inject, Chip.restartReady_inject]
      exact ha which k
  exact hu ▸ b.restartRelease_due r due ht hs

/-- The region's record after it. -/
theorem Chip.restartReady_released :
    (((b.restartReady r due).releaseReset r).region r).fenced = false ∧
      (((b.restartReady r due).releaseReset r).region r).inReset = false ∧
      (((b.restartReady r due).releaseReset r).region r).unlock = false ∧
      (((b.restartReady r due).releaseReset r).region r).restartAt = none ∧
      (((b.restartReady r due).releaseReset r).region r).released = ((b.upTo due).startIsle r).isle r ∧
      (((b.restartReady r due).releaseReset r).region r).phase = some b.free := by
  obtain ⟨hin, hrel, -, hfen⟩ := Chip.releaseReset_region (b.restartReady r due) r
  obtain ⟨x, hx⟩ := b.restartReady_region r due
  have hu := Chip.releaseReset_keep (b.restartReady r due) r Region.unlock (by intros; rfl) (by intros; rfl) r
  have ht := Chip.releaseReset_keep (b.restartReady r due) r Region.restartAt (by intros; rfl) (by intros; rfl) r
  have hp := Chip.releaseReset_keep (b.restartReady r due) r Region.phase (by intros; rfl) (by intros; rfl) r
  rw [hx] at hu ht hp hfen
  exact ⟨hfen, hin, hu, ht, hrel.trans (b.restartReady_isle r due), hp⟩

end

/-- Settles O15: a lost lock is a fence with its indicator and count, the restart taken is `Chip.restartPlanned`, and its end and
its release are the operations that R150 and R151 list, each with what it leaves of the region's record. -/
theorem islandsUnlockAndRestart : Obligations.IslandsUnlockAndRestart := by
  unfold Obligations.IslandsUnlockAndRestart
  refine ⟨?_, ?_, ?_, ?_, ?_, ?_, ?_⟩
  · intro s r d t0 hr hd hh hf
    obtain ⟨hu, h7, h6⟩ := Chip.lockLost_unfenced (b := s.toChip.upTo t0) hr hd hf
    exact ⟨_, next_congr (Chip.islandUnlock_running (b := s.toChip.upTo t0) hh), Chip.lockLost_fenced _ _ _ _, hu, h7, h6,
      Chip.lockLost_st _ _ _ _⟩
  · intro s r t0 hh
    exact ⟨_, next_congr (Chip.islandUnlock_halted (b := s.toChip.upTo t0) hh), OnlyTouches.upTo (by simp) s t0⟩
  · intro s q n r h hs hf hh hc ht
    set c := s.started q 0x2E05 n [(3, r), (4, 0)]
    have hregs : c.regions = s.regions := State.started_regions _ _ _ _ _
    have hdev : c.dev = s.dev := State.started_dev _ _ _ _ _
    have hreg : c.region r = s.region r := Chip.region_congr hregs r
    have he : c.startRestart q.owner = c.restartPlanned r q.owner c.now :=
      Chip.startRestart_plans (State.started_reg_pair h).1 (by rwa [Chip.serving, hdev]) (by rwa [hreg]) (by rwa [hreg])
        (by rwa [Chip.causePresent_congr hregs hdev (State.started_reg_ne h (by decide) (by decide))])
        (by rwa [Chip.tabledPart_congr hregs (State.started_parts _ _ _ _ _)])
    obtain ⟨hin, hsb, hat, hfen⟩ := c.restartPlanned_record r q.owner c.now
    obtain ⟨hbusy, hst⟩ := c.restartPlanned_cmd r q.owner c.now
    have hans : ∀ j, ((c.restartPlanned r q.owner c.now).answer q.owner .done).region j =
        (c.restartPlanned r q.owner c.now).region j := Chip.region_congr (Chip.answer_regions _ _ _)
    refine ⟨_, he ▸ exec_islandRestart_taken h, ⟨?_, ?_⟩, ?_, ?_, ?_, ?_⟩
    · rw [State.on_toChip, show cmdKey 0x2E05 = 0x2E05 from rfl, Chip.answer_cmd, hbusy]
    · rw [State.status_on_answer, show cmdKey 0x2E05 = 0x2E05 from rfl, hst]
    · rw [State.on_toChip, hans, hin]
    · rw [State.on_toChip, hans, hsb, hreg]
    · rw [State.on_toChip, hans, hat]; rfl
    · rw [State.on_toChip, hans, hfen, hreg, hf]
  · intro s r m hs ha ht hd
    obtain ⟨due, hdue⟩ := Option.isSome_iff_exists.1 hd
    obtain ⟨hsb, hat⟩ := Chip.standbyLocked_record hs ha
    have hal := AltersRegion.standbyLocked hs ha
    refine ⟨s.on (s.toChip.standbyLocked r), rfl, hsb, hat.trans ?_, hal.1, hal.onlyTouches⟩
    rw [hdue, Option.map_some, Chip.restartEdge, ht]
    rfl
  · intro s r m p due hs ha ht hdue
    obtain ⟨hsb, hat⟩ := Chip.standbyLocked_record hs ha
    refine ⟨s.on (s.toChip.standbyLocked r), rfl, hsb, hat.trans ?_, (AltersRegion.standbyLocked hs ha).onlyTouches⟩
    rw [hdue, Option.map_some, Chip.restartEdge, ht]
    rfl
  · intro s r m due o hs hdue hb
    obtain ⟨e, he⟩ := Chip.standbyFailed_restart hs hdue false
    obtain ⟨hat, hbusy, hst⟩ := Chip.endRestart_ends (st := 5) hdue hb
    have hreg := Chip.region_congr (Chip.logEvent_regions (s.toChip.endRestart r 5) e)
    refine ⟨_, next_congr he, ?_, ?_, ?_, ?_⟩
    · rw [State.on_toChip, hreg, hat]
    · rw [State.status, State.on_toChip, show cmdKey 0x2E05 = 0x2E05 from rfl, Chip.logEvent_cmd, hst]
    · rw [State.on_toChip, Chip.logEvent_cmd, hbusy]
    · rw [State.on_toChip, hreg, Chip.fenced_endRestart]
  · intro s r m due o hs hdue hb ha
    obtain ⟨e, he⟩ := Chip.restartRelease_unarmed hdue hs ha
    set c := (s.toChip.restartReady r due).releaseReset r with hc
    have hdict : c.dict = s.dict := by rw [hc, Chip.releaseReset_dict, Chip.restartReady_dict]
    obtain ⟨hbusy, hst⟩ := Chip.endCmd_busy c 0x2E05 0 o (by rw [Chip.cmd, hdict]; exact hb)
    have hreg : ∀ j, ((c.endCmd 0x2E05 0).logEvent e).region j = c.region j := fun j =>
      (Chip.region_congr (Chip.logEvent_regions _ _) j).trans (Chip.region_congr (Chip.endCmd_regions _ _ _) j)
    have hbank : ((c.endCmd 0x2E05 0).logEvent e).banks = (s.toChip.restartReady r due).banks := by
      rw [Chip.logEvent_banks, Chip.endCmd_banks, hc, Chip.releaseReset_banks]
    obtain ⟨hfen, hin, hu, hat, hrel, hph⟩ := s.toChip.restartReady_released r due
    refine ⟨_, next_congr he, ?_, ?_, ?_, ?_, ?_, ?_, fun k hk => ?_, ?_, ?_, fun j hj => ?_⟩
    · rw [State.on_toChip, hreg, hfen]
    · rw [State.on_toChip, hreg, hin]
    · rw [State.on_toChip, hreg, hu]
    · rw [State.on_toChip, hreg, hat]
    · rw [State.on_toChip, hreg, hrel]
    · rw [State.on_toChip, hreg, hph]
    · rw [State.on_toChip, Chip.bank_congr hbank, Chip.restartReady_faultParked _ _ _ hk]
    · rw [State.status, State.on_toChip, show cmdKey 0x2E05 = 0x2E05 from rfl, Chip.logEvent_cmd, hst]
    · rw [State.on_toChip, Chip.logEvent_cmd, hbusy]
    · rw [State.on_toChip, hreg, hc, Chip.releaseReset_region_ne _ _ hj, Chip.restartReady_region_ne _ _ _ hj]

end Sys2Proof.Machine

/-! # Every step keeps the canonical form (O59)

`State.Canonical` speaks of twelve places of the device: its memories, the DRAM bytes, the planes and the streams.
`Chip.stores` collects them, so that one equation says of an operation that it writes none of them
(`F_stores : (F b).stores = b.stores`, first part). The operations that do write them keep their canonical form
(`F_canonical`, second part), each for the reason of the write: a word is set or cleared, a run is put in a plane, the
bytes of a line are laid in DRAM, a verified stream joins those staged, a commit takes streams that are staged. The
third part goes through the commands once. Equations that hold by unfolding end in `(rfl)`, so that `simp` rewrites with
them instead of unfolding. -/

namespace Sys2Proof.Machine

open Sys2Proof

/-! ## The places that the canonical form is about -/

/-- What `State.Canonical` reads of a device. -/
structure Stores where
  bm : Mem 40
  sp : Mem 256
  im : Mem 64
  cm : Mem 32
  ds : Mem 16
  sii : Mem 16
  dram : List Host.Cell
  active : List FrameRun
  activeRef : List FrameRun
  staging : List FrameRun
  stagingRef : List FrameRun
  streams : List Staged

/-- The staged streams of a loader and those that its commit has taken. -/
def Loader.streams (l : Loader) : List Staged :=
  l.staged ++ match l.commit with
    | some c => c.staged
    | none => []

def Chip.stores (b : Chip) : Stores where
  bm := b.mem.bm
  sp := b.mem.sp
  im := b.slices.im
  cm := b.slices.cm
  ds := b.slices.ds
  sii := b.ecat.sii
  dram := b.hub.mem
  active := b.loader.active
  activeRef := b.loader.activeRef
  staging := b.loader.staging
  stagingRef := b.loader.stagingRef
  streams := b.loader.streams

structure Stores.Canonical (x : Stores) : Prop where
  bm : Mem.wf x.bm = true
  sp : Mem.wf x.sp = true
  im : Mem.wf x.im = true
  cm : Mem.wf x.cm = true
  ds : Mem.wf x.ds = true
  sii : Mem.wf x.sii = true
  dram : cellsWf x.dram = true
  active : planeWf x.active
  activeRef : planeWf x.activeRef
  staging : planeWf x.staging
  stagingRef : planeWf x.stagingRef
  streams : ∀ s ∈ x.streams, s.sectionsApart

theorem State.canonical_iff (s : State) : s.Canonical ↔ s.stores.Canonical :=
  ⟨fun ⟨h1, h2, h3, h4, h5, h6, h7, h8, h9, h10, h11, h12⟩ => ⟨h1, h2, h3, h4, h5, h6, h7, h8, h9, h10, h11, h12⟩,
    fun ⟨h1, h2, h3, h4, h5, h6, h7, h8, h9, h10, h11, h12⟩ => ⟨h1, h2, h3, h4, h5, h6, h7, h8, h9, h10, h11, h12⟩⟩

/-! ### Records -/

section
variable (b : Chip) (dev : Device) (belfry : Belfry) (banks : Tab Bank) (vanes : Tab Vane) (parts : Tab Partition)
  (regions : Tab Region) (lanes : Tab LaneState) (queues : Tab Queue) (cupola : Cupola) (ports : Tab HostPort)
  (dict : Dict) (watch : Watch) (test : SelfTest) (aon : Aon) (lantern : Lantern) (log : Log) (dbg : Debug)
  (inject : Inject) (free : Nat)

@[simp] theorem Chip.stores_mk :
    (Chip.mk dev belfry banks vanes parts regions lanes b.mem queues b.slices b.hub cupola
    ports b.ecat dict b.loader watch test aon lantern log dbg inject free).stores = b.stores := (rfl)

@[simp] theorem Chip.stores_mk_mem {mem : Memories} (h : mem.bm = b.mem.bm) (h' : mem.sp = b.mem.sp) :
    (Chip.mk dev belfry banks vanes parts regions lanes mem queues b.slices b.hub cupola ports b.ecat dict b.loader
      watch test aon lantern log dbg inject free).stores = b.stores := by
  simp [Chip.stores, h, h']

@[simp] theorem Chip.stores_mk_slices {slices : Slices} (h : slices.im = b.slices.im) (h' : slices.cm = b.slices.cm)
    (h'' : slices.ds = b.slices.ds) :
    (Chip.mk dev belfry banks vanes parts regions lanes b.mem queues slices b.hub cupola ports b.ecat dict b.loader
      watch test aon lantern log dbg inject free).stores = b.stores := by
  simp [Chip.stores, h, h', h'']

@[simp] theorem Chip.stores_mk_hub {hub : Hub} (h : hub.mem = b.hub.mem) :
    (Chip.mk dev belfry banks vanes parts regions lanes b.mem queues b.slices hub cupola ports b.ecat dict b.loader
      watch test aon lantern log dbg inject free).stores = b.stores := by
  simp [Chip.stores, h]

@[simp] theorem Chip.stores_mk_ecat {ecat : Ecat} (h : ecat.sii = b.ecat.sii) :
    (Chip.mk dev belfry banks vanes parts regions lanes b.mem queues b.slices b.hub cupola ports ecat dict b.loader
      watch test aon lantern log dbg inject free).stores = b.stores := by
  simp [Chip.stores, h]

@[simp] theorem Chip.stores_mk_loader {loader : Loader} (h1 : loader.active = b.loader.active)
    (h2 : loader.activeRef = b.loader.activeRef) (h3 : loader.staging = b.loader.staging)
    (h4 : loader.stagingRef = b.loader.stagingRef) (h5 : loader.staged = b.loader.staged)
    (h6 : loader.commit = b.loader.commit) :
    (Chip.mk dev belfry banks vanes parts regions lanes b.mem queues b.slices b.hub cupola ports b.ecat dict loader
      watch test aon lantern log dbg inject free).stores = b.stores := by
  simp [Chip.stores, h1, h2, h3, h4, Loader.streams, h5, h6]

end

/-! ### Branches and loops -/

@[simp] theorem Chip.stores_ite (p : Prop) [Decidable p] (b c : Chip) :
    (if p then b else c).stores = if p then b.stores else c.stores := apply_ite Chip.stores p b c

@[simp] theorem Chip.stores_forEach {f : Chip → Nat → Chip} (h : ∀ b n, (f b n).stores = b.stores) (l : List Nat)
    (b : Chip) : (b.forEach l f).stores = b.stores := foldl_keep Chip.stores f h l b

@[simp] theorem Chip.stores_foldl {β : Type} {f : Chip → β → Chip} (h : ∀ b n, (f b n).stores = b.stores)
    (l : List β) (b : Chip) : (l.foldl f b).stores = b.stores := foldl_keep Chip.stores f h l b

/-! ## Operations that leave the stores alone -/

section
variable (b : Chip)

/-! ### Ops -/

@[simp] theorem Chip.modRegion_stores (r : Nat) (f : Region → Region) : (b.modRegion r f).stores = b.stores := (rfl)
@[simp] theorem Chip.modPart_stores (p : Nat) (f : Partition → Partition) : (b.modPart p f).stores = b.stores := (rfl)
@[simp] theorem Chip.modBank_stores (k : Nat) (f : Bank → Bank) : (b.modBank k f).stores = b.stores := (rfl)
@[simp] theorem Chip.modVane_stores (tp : Nat) (f : Vane → Vane) : (b.modVane tp f).stores = b.stores := (rfl)
@[simp] theorem Chip.modPort_stores (h : Nat) (f : HostPort → HostPort) : (b.modPort h f).stores = b.stores := (rfl)
@[simp] theorem Chip.modProt_stores (rr : Nat) (f : ProtRegion → ProtRegion) : (b.modProt rr f).stores = b.stores :=
  (rfl)

@[simp] theorem Chip.modChannel_stores (c : Nat) (f : Channel → Channel) : (b.modChannel c f).stores = b.stores :=
  (rfl)

@[simp] theorem Chip.modCmd_stores (idx : Nat) (f : Cmd → Cmd) : (b.modCmd idx f).stores = b.stores := (rfl)
@[simp] theorem Chip.setReg_stores (idx sub v : Nat) : (b.setReg idx sub v).stores = b.stores := (rfl)
@[simp] theorem Chip.count_stores (idx sub : Nat) : (b.count idx sub).stores = b.stores := (rfl)
@[simp] theorem Chip.countBy_stores (idx sub n : Nat) : (b.countBy idx sub n).stores = b.stores := (rfl)
@[simp] theorem Chip.keepServed_stores : b.keepServed.stores = b.stores := (rfl)
@[simp] theorem Chip.clearRegs_stores (idx lo hi : Nat) : (b.clearRegs idx lo hi).stores = b.stores := (rfl)
@[simp] theorem Chip.tookFree_stores : b.tookFree.stores = b.stores := (rfl)
@[simp] theorem Chip.upTo_stores (t : Nat) : (b.upTo t).stores = b.stores := (rfl)
@[simp] theorem Chip.secondMayPass_stores : b.secondMayPass.stores = b.stores := by simp [Chip.secondMayPass]
@[simp] theorem Chip.idle_stores : b.idle.stores = b.stores := by simp [Chip.idle]
@[simp] theorem Chip.holdCorr_stores : b.holdCorr.stores = b.stores := (rfl)
@[simp] theorem Chip.releaseCorr_stores : b.releaseCorr.stores = b.stores := by simp [Chip.releaseCorr]
@[simp] theorem Chip.startIsle_stores (r : Nat) : (b.startIsle r).stores = b.stores := (rfl)
@[simp] theorem Chip.rebaseIsle_stores (r c : Nat) : (b.rebaseIsle r c).stores = b.stores := (rfl)
@[simp] theorem Chip.raiseOwner_stores (o : Option Nat) (k : Nat) : (b.raiseOwner o k).stores = b.stores := by
  simp only [Chip.raiseOwner]
  split <;> simp

@[simp] theorem Chip.emergency_stores (b : Chip) (e : LogEntry) : (b.emergency e).stores = b.stores := by
  simp only [Chip.emergency]
  split
  · split
    · rfl
    · split <;> simp
  · rfl

@[simp] theorem Chip.pushEntry_stores (e : Ev) (noLower : Bool) : (b.pushEntry e noLower).stores = b.stores := by
  simp [Chip.pushEntry]

@[simp] theorem Chip.logAs_stores (b : Chip) (e : Ev) (noLower : Bool) : (b.logAs e noLower).stores = b.stores := by
  simp only [Chip.logAs]
  split
  · simp
  · split
    · rw [Chip.pushEntry_stores]
      exact Chip.pushEntry_stores b e noLower
    · exact Chip.pushEntry_stores b e noLower

@[simp] theorem Chip.logEvent_stores (e : Ev) : (b.logEvent e).stores = b.stores := by simp [Chip.logEvent]
@[simp] theorem Chip.injected_stores (code : Nat) : (b.injected code).stores = b.stores := (rfl)
@[simp] theorem Chip.logInj_stores (e : Ev) : (b.logInj e).stores = b.stores := by simp [Chip.logInj]
@[simp] theorem Chip.setStatus_stores (idx owner st : Nat) : (b.setStatus idx owner st).stores = b.stores := (rfl)
@[simp] theorem Chip.beginCmd_stores (idx owner : Nat) : (b.beginCmd idx owner).stores = b.stores := (rfl)
@[simp] theorem Chip.endCmd_stores (idx st : Nat) : (b.endCmd idx st).stores = b.stores := by
  simp only [Chip.endCmd]
  split <;> simp

@[simp] theorem Chip.setContract_stores (p : Nat) (st : Contract) : (b.setContract p st).stores = b.stores := by
  simp [Chip.setContract]

@[simp] theorem Chip.breakContract_stores (p : Nat) : (b.breakContract p).stores = b.stores := by
  simp only [Chip.breakContract]
  split <;> simp

@[simp] theorem Chip.breakRegion_stores (r : Nat) : (b.breakRegion r).stores = b.stores := by
  simp only [Chip.breakRegion]
  split <;> simp

/-! ### Slots -/

@[simp] theorem Chip.stopSlots_stores (r : Nat) : (b.stopSlots r).stores = b.stores := (rfl)
@[simp] theorem Chip.startSlots_stores (r : Nat) : (b.startSlots r).stores = b.stores := by simp [Chip.startSlots]
@[simp] theorem Chip.armInject_stores (obj code target target2 : Nat) :
    (b.armInject obj code target target2).stores = b.stores :=
  (rfl)

@[simp] theorem Chip.unarm_stores (obj code target : Nat) : (b.unarm obj code target).stores = b.stores := (rfl)
@[simp] theorem Chip.applyArmed_stores (obj code target ev : Nat) :
    (b.applyArmed obj code target ev).stores = b.stores :=
  (rfl)

@[simp] theorem Chip.applyAt_stores (obj target ev : Nat) : (b.applyAt obj target ev).stores = b.stores := by
  simp [Chip.applyAt]

@[simp] theorem Chip.unarmAt_stores (obj target : Nat) : (b.unarmAt obj target).stores = b.stores := (rfl)

/-! ### Fabric -/

@[simp] theorem Chip.settleRegion_stores (r : Nat) (through : Bool) : (b.settleRegion r through).stores = b.stores :=
  (rfl)

@[simp] theorem Chip.gateIsle_stores (r c : Nat) : (b.gateIsle r c).stores = b.stores := (rfl)
@[simp] theorem Chip.setSafe_stores (r : Nat) (v : BitVec 64) : (b.setSafe r v).stores = b.stores := (rfl)

/-! ### QueueSides -/

@[simp] theorem Chip.modQueue_stores (k : Nat) (f : Queue → Queue) : (b.modQueue k f).stores = b.stores := (rfl)

/-! ### Regions -/

@[simp] theorem Chip.noteDrive_stores (k : Nat) : (b.noteDrive k).stores = b.stores := (rfl)
@[simp] theorem Chip.modPins_stores (k : Nat) (f : Bank → Bank) : (b.modPins k f).stores = b.stores := (rfl)
@[simp] theorem Chip.flushBank_stores (k : Nat) : (b.flushBank k).stores = b.stores := (rfl)
@[simp] theorem Chip.parkBank_stores (k : Nat) : (b.parkBank k).stores = b.stores := (rfl)
@[simp] theorem Chip.faultPark_stores (k : Nat) : (b.faultPark k).stores = b.stores := (rfl)
@[simp] theorem Chip.endFaultPark_stores (r : Nat) : (b.endFaultPark r).stores = b.stores := by
  simp [Chip.endFaultPark]

@[simp] theorem Chip.toVaneMode_stores (k : Nat) : (b.toVaneMode k).stores = b.stores := (rfl)
@[simp] theorem Chip.enterVaneMode_stores (k : Nat) : (b.enterVaneMode k).stores = b.stores := by
  simp [Chip.enterVaneMode]

@[simp] theorem Chip.leaveVaneMode_stores (k : Nat) : (b.leaveVaneMode k).stores = b.stores := by
  simp [Chip.leaveVaneMode]

@[simp] theorem Chip.resetQueues_stores (r : Nat) (enable : Bool) : (b.resetQueues r enable).stores = b.stores :=
  (rfl)

@[simp] theorem Chip.dropPacking_stores (r : Nat) : (b.dropPacking r).stores = b.stores := (rfl)
@[simp] theorem Chip.dropHeld_stores (r : Nat) : (b.dropHeld r).stores = b.stores := (rfl)
@[simp] theorem Chip.modLane_stores (l : Lane) (f : LaneState → LaneState) : (b.modLane l f).stores = b.stores :=
  (rfl)

@[simp] theorem Chip.dropToward_stores (b : Chip) (r : Nat) : (b.dropToward r).stores = b.stores :=
  Chip.stores_forEach (fun b side => by split <;> simp) _ b

@[simp] theorem Chip.stopLanes_stores (r : Nat) : (b.stopLanes r).stores = b.stores := (rfl)
@[simp] theorem Chip.loseTokens_stores (r : Nat) : (b.loseTokens r).stores = b.stores := (rfl)
@[simp] theorem Chip.assertReset_stores (r : Nat) : (b.assertReset r).stores = b.stores := (rfl)
@[simp] theorem Chip.releaseReset_stores (r : Nat) : (b.releaseReset r).stores = b.stores := by
  simp [Chip.releaseReset]

@[simp] theorem Chip.flushHubPorts_stores (r : Nat) : (b.flushHubPorts r).stores = b.stores := (rfl)
@[simp] theorem Chip.abandonOnDemand_stores (hit : OnDemand → Bool) : (b.abandonOnDemand hit).stores = b.stores := by
  simp only [Chip.abandonOnDemand]
  split <;> simp

@[simp] theorem Chip.freeRegionStandby_stores (r : Nat) : (b.freeRegionStandby r).stores = b.stores := (rfl)
@[simp] theorem Chip.endRestart_stores (r st : Nat) : (b.endRestart r st).stores = b.stores := by
  simp only [Chip.endRestart]
  split <;> simp

@[simp] theorem Chip.endPartReset_stores (p st : Nat) : (b.endPartReset p st).stores = b.stores := by
  simp [Chip.endPartReset]

@[simp] theorem Chip.endRearm_stores (p st : Nat) : (b.endRearm p st).stores = b.stores := by
  simp only [Chip.endRearm]
  split <;> simp

@[simp] theorem Chip.endPendingHalt_stores (r : Nat) : (b.endPendingHalt r).stores = b.stores := by
  simp only [Chip.endPendingHalt]
  split <;> simp

@[simp] theorem Chip.fence_stores (r : Nat) (e : Ev) : (b.fence r e).stores = b.stores := by
  simp only [Chip.fence]
  split
  · simp
  · split <;> simp

@[simp] theorem Chip.disableQueue_stores (k which : Nat) (inj : Bool) :
    (b.disableQueue k which inj).stores = b.stores := by
  simp only [Chip.disableQueue]
  split <;> simp

@[simp] theorem Chip.mismatch_stores (k which : Nat) (inj : Bool) : (b.mismatch k which inj).stores = b.stores := by
  simp [Chip.mismatch]

@[simp] theorem Chip.injectQueue_stores (k : Nat) : (b.injectQueue k).stores = b.stores := by simp [Chip.injectQueue]
@[simp] theorem Chip.injectQueues_stores (r : Nat) : (b.injectQueues r).stores = b.stores := by
  simp [Chip.injectQueues]

@[simp] theorem Chip.releaseRegion_stores (r : Nat) : (b.releaseRegion r).stores = b.stores := by
  simp [Chip.releaseRegion]

@[simp] theorem Chip.slotMissAs_stores (r : Nat) (m : MissInfo) (inj preceded : Bool) :
    (b.slotMissAs r m inj preceded).stores = b.stores := by
  simp only [Chip.slotMissAs]
  split <;> simp

@[simp] theorem Chip.slotMiss_stores (r : Nat) (m : MissInfo) (inj : Bool) :
    (b.slotMiss r m inj).stores = b.stores := by
  simp [Chip.slotMiss]

@[simp] theorem Chip.inTickOrder_stores {f : Chip → Nat → Chip} (h : ∀ b r, (f b r).stores = b.stores) (b : Chip)
    (l : List (Nat × Nat)) : (b.inTickOrder l f).stores = b.stores := by
  simp [Chip.inTickOrder, h]

@[simp] theorem Chip.deliver_stores (l tx : Lane) (data : BitVec 32) (valid poison : Bool) :
    (b.deliver l tx data valid poison).stores = b.stores :=
  (rfl)

@[simp] theorem Chip.lateToken_stores (l : Lane) : (b.lateToken l).stores = b.stores := by
  simp only [Chip.lateToken]
  split <;> simp

@[simp] theorem Chip.blockSafe_stores (r blk : Nat) (e : Ev) : (b.blockSafe r blk e).stores = b.stores := by
  simp [Chip.blockSafe]

/-! ### Access -/

@[simp] theorem Chip.sendResponse_stores (b : Chip) (o : Nat) (frame : Bytes) :
    (b.sendResponse o frame).stores = b.stores := by
  simp only [Chip.sendResponse]
  split
  · split <;> simp
  · split
    · split <;> rfl
    · split <;> simp

@[simp] theorem Chip.answer_stores (o : Nat) (r : Reply) : (b.answer o r).stores = b.stores := by simp [Chip.answer]
@[simp] theorem Chip.closeSegment_stores (o : Nat) : (b.closeSegment o).stores = b.stores := (rfl)

/-! ### Planes -/

@[simp] theorem Chip.applySetting_stores (x : Setting) : (b.applySetting x).stores = b.stores := by
  simp only [Chip.applySetting]
  split <;> simp

@[simp] theorem Chip.applySettings_stores (b : Chip) (r : Nat) (l : List Setting) :
    (b.applySettings r l).stores = b.stores := by
  simp only [Chip.applySettings]
  rw [Chip.stores_foldl Chip.applySetting_stores, Chip.modRegion_stores, Chip.settleRegion_stores]
  rfl

@[simp] theorem Chip.rebuild_stores (mask : BitVec 32) : (b.rebuild mask).stores = b.stores := (rfl)
@[simp] theorem Chip.freeStandby_stores (mask : BitVec 32) : (b.freeStandby mask).stores = b.stores := by
  simp [Chip.freeStandby]

@[simp] theorem Chip.commitAssert_stores (c : Commit) : (b.commitAssert c).stores = b.stores := by
  simp [Chip.commitAssert]

@[simp] theorem Chip.setSchedule_stores (b : Chip) (r k m : Nat) (slots : List (BitVec 64)) :
    (b.setSchedule r k m slots).stores = b.stores := by
  simp only [Chip.setSchedule, Chip.modRegion_stores, Chip.clearRegs_stores, Chip.setReg_stores]

@[simp] theorem Chip.clearSchedule_stores (r : Nat) : (b.clearSchedule r).stores = b.stores := (rfl)
@[simp] theorem Chip.setRatio_stores (r m : Nat) : (b.setRatio r m).stores = b.stores := (rfl)
@[simp] theorem Chip.switchIsland_stores (r m : Nat) : (b.switchIsland r m).stores = b.stores := by
  simp [Chip.switchIsland]

@[simp] theorem Chip.commitBank_stores (l : List Setting) (k : Nat) : (b.commitBank l k).stores = b.stores := by
  simp [Chip.commitBank]

@[simp] theorem Chip.supersede_stores (regions : BitVec 32) (p : Nat) :
    (b.supersede regions p).stores = b.stores := by
  simp [Chip.supersede]

@[simp] theorem Chip.commitPart_stores (c : Commit) (s : Staged) (p : Nat) (broken : Bool) :
    (b.commitPart c s p broken).stores = b.stores := by
  simp [Chip.commitPart]

@[simp] theorem Chip.commitReleaseRegion_stores (r : Nat) : (b.commitReleaseRegion r).stores = b.stores := by
  simp [Chip.commitReleaseRegion]

@[simp] theorem Chip.commitReleaseRegions_stores (c : Commit) : (b.commitReleaseRegions c).stores = b.stores := by
  simp [Chip.commitReleaseRegions]

/-! ### Faults -/

@[simp] theorem Chip.toState_stores (st : DeviceState) (cause : Nat) : (b.toState st cause).stores = b.stores := (rfl)
@[simp] theorem Chip.changeState_stores (st : DeviceState) (cause : Nat) (noLower : Bool) :
    (b.changeState st cause noLower).stores = b.stores := by
  simp [Chip.changeState]

@[simp] theorem Chip.decided_stores (o : Nat) : (b.decided o).stores = b.stores := (rfl)
@[simp] theorem Chip.tryFull_stores : b.tryFull.stores = b.stores := by simp [Chip.tryFull]
@[simp] theorem Chip.standingReady_stores : b.standingReady.stores = b.stores := (rfl)
@[simp] theorem Chip.setTimebaseOk_stores : b.setTimebaseOk.stores = b.stores := by simp [Chip.setTimebaseOk]
@[simp] theorem Chip.setSelftestOk_stores : b.setSelftestOk.stores = b.stores := by simp [Chip.setSelftestOk]
@[simp] theorem Chip.setDramOk_stores : b.setDramOk.stores = b.stores := by simp [Chip.setDramOk]
@[simp] theorem Chip.refuseStream_stores (l : Load) (code : Nat) (inj : Bool) :
    (b.refuseStream l code inj).stores = b.stores := by
  simp [Chip.refuseStream]

@[simp] theorem Chip.pushLoad_stores (l : Load) : (b.pushLoad l).stores = b.stores := by simp [Chip.pushLoad]
@[simp] theorem Chip.noBootStream_stores (b : Chip) : b.noBootStream.stores = b.stores := by
  have h := Chip.logEvent_stores b { code := 0x40C00006, sev := 3, owner := some 7 }
  generalize hc : b.logEvent { code := 0x40C00006, sev := 3, owner := some 7 } = c at h
  have hl : c.loader = b.loader := by rw [← hc, Chip.logEvent_loader]
  simp [Chip.noBootStream, hc, ← hl, h]

@[simp] theorem Chip.bootFallback_stores (inj : Bool) : (b.bootFallback inj).stores = b.stores := by
  simp [Chip.bootFallback]

@[simp] theorem Chip.bootFailed_stores (l : Load) (code : Nat) : (b.bootFailed l code).stores = b.stores := by
  simp only [Chip.bootFailed]
  split <;> simp

@[simp] theorem Chip.nextLoad_stores : b.nextLoad.stores = b.stores := by
  simp only [Chip.nextLoad]
  split <;> simp

@[simp] theorem Chip.endLoad_stores (code : Nat) (inj : Bool) : (b.endLoad code inj).stores = b.stores := by
  simp only [Chip.endLoad]
  split <;> simp

@[simp] theorem Chip.endLoads_stores (hit : Load → Bool) (code : Nat) : (b.endLoads hit code).stores = b.stores := by
  simp only [Chip.endLoads]
  split <;> simp

@[simp] theorem Chip.stopDma_stores : b.stopDma.stores = b.stores := by simp [Chip.stopDma]
@[simp] theorem Chip.endRunControl_stores : b.endRunControl.stores = b.stores := by simp [Chip.endRunControl]
@[simp] theorem Chip.bootCommitted_stores (c : Commit) : (b.bootCommitted c).stores = b.stores := by
  simp [Chip.bootCommitted]

@[simp] theorem Chip.takeBack_stores : b.takeBack.stores = b.stores := by
  simp only [Chip.takeBack]
  split
  · simp
  · split
    · simp
    · split <;> simp

@[simp] theorem Chip.lockLost_stores (r detector : Nat) (inj : Bool) :
    (b.lockLost r detector inj).stores = b.stores := by
  simp [Chip.lockLost]

/-! ### Hub -/

@[simp] theorem Chip.mapChannelOut_stores (c cause : Nat) (inj : Bool) :
    (b.mapChannelOut c cause inj).stores = b.stores := by
  simp [Chip.mapChannelOut]

@[simp] theorem Chip.refreshChannel_stores (c : Nat) : (b.refreshChannel c).stores = b.stores := (rfl)

/-! ### AlStates -/

@[simp] theorem Chip.alEnter_stores (st : Al) : (b.alEnter st).stores = b.stores := by simp [Chip.alEnter]
@[simp] theorem Chip.alRequest_stores (st : Al) : (b.alRequest st).stores = b.stores := by
  simp only [Chip.alRequest]
  split <;> simp

@[simp] theorem Chip.heldRequest_stores : b.heldRequest.stores = b.stores := by
  simp only [Chip.heldRequest]
  split
  · simp
  · split <;> simp

/-! ### Injections -/

@[simp] theorem Chip.flipBm_stores (k : Nat) (f : BitVec 40) : (b.flipBm k f).stores = b.stores := (rfl)
@[simp] theorem Chip.flipSp_stores (k : Nat) (f : BitVec 288) : (b.flipSp k f).stores = b.stores := (rfl)
@[simp] theorem Chip.setGmErr_stores (k n : Nat) : (b.setGmErr k n).stores = b.stores := (rfl)

/-! ### Power -/

@[simp] theorem Chip.refStart_stores : b.refStart.stores = b.stores := by simp [Chip.refStart]
@[simp] theorem Chip.powerOn_stores (d : Nat) : (b.powerOn d).stores = b.stores := (rfl)
@[simp] theorem Chip.domainGood_stores (d : Nat) : (b.domainGood d).stores = b.stores := by simp [Chip.domainGood]
@[simp] theorem Chip.bootHalt_stores (code d0 : Nat) : (b.bootHalt code d0).stores = b.stores := by
  simp [Chip.bootHalt]

@[simp] theorem Chip.domainTimeout_stores (d : Nat) : (b.domainTimeout d).stores = b.stores := by
  simp [Chip.domainTimeout]

@[simp] theorem Chip.logFallback_stores : b.logFallback.stores = b.stores := by simp [Chip.logFallback]
@[simp] theorem Chip.selectSlot_stores : b.selectSlot.1.stores = b.stores := by
  simp only [Chip.selectSlot]
  split
  · simp
  · split_ifs <;> simp

@[simp] theorem Chip.enterRecovery_stores : b.enterRecovery.stores = b.stores := by simp [Chip.enterRecovery]
@[simp] theorem Chip.logUnlogged_stores : b.logUnlogged.stores = b.stores := by
  simp only [Chip.logUnlogged]
  split <;> simp

@[simp] theorem Chip.reloadWatchdog_stores : b.reloadWatchdog.stores = b.stores := (rfl)
@[simp] theorem Chip.imageStart_stores (b : Chip) : (b.imageStart).stores = b.stores := by
  have h := Chip.selectSlot_stores b
  simp only [Chip.imageStart]
  generalize b.selectSlot = x at h ⊢
  obtain ⟨c, _ | p⟩ := x
  · simp [← h]
  · simp [← h]

@[simp] theorem Chip.measureBanks_stores (b : Chip) : (b.measureBanks).stores = b.stores :=
  Chip.stores_forEach (fun b n => by simp) _ b

@[simp] theorem Chip.clearSession_stores : b.clearSession.stores = b.stores := (rfl)
@[simp] theorem Chip.applyPolicy_stores (b : Chip) : (b.applyPolicy).stores = b.stores :=
  Chip.stores_forEach (fun b n => by simp) _ b

@[simp] theorem Chip.unitsAtEntry_stores (vcco : List Nat) (skip : Nat) :
    (b.unitsAtEntry vcco skip).stores = b.stores :=
  (rfl)

@[simp] theorem Chip.repairObjects_stores : b.repairObjects.stores = b.stores := by simp [Chip.repairObjects]
@[simp] theorem Chip.voltageReturn_stores (d : Nat) : (b.voltageReturn d).stores = b.stores := (rfl)
@[simp] theorem Chip.clockReturn_stores (c : Nat) : (b.clockReturn c).stores = b.stores := by simp [Chip.clockReturn]
@[simp] theorem Chip.powerOff_stores (l : List Nat) : (b.powerOff l).stores = b.stores := (rfl)
@[simp] theorem Chip.recoverRelease_stores (r : Nat) : (b.recoverRelease r).stores = b.stores := by
  simp only [Chip.recoverRelease]
  split <;> simp

@[simp] theorem Chip.clearIntact_stores : b.clearIntact.stores = b.stores := (rfl)
@[simp] theorem Chip.flushLog_stores (b : Chip) : (b.flushLog).stores = b.stores := by
  rw [Chip.flushLog]
  exact Chip.stores_mk b ..

/-! ### Banks -/

@[simp] theorem Chip.patternApply_stores (k : Nat) : (b.patternApply k).stores = b.stores := by
  simp [Chip.patternApply]

@[simp] theorem Chip.patternEnd_stores (k : Nat) : (b.patternEnd k).stores = b.stores := by simp [Chip.patternEnd]
@[simp] theorem Chip.clearContention_stores (k : Nat) (mask : BitVec 64) :
    (b.clearContention k mask).stores = b.stores :=
  (rfl)

@[simp] theorem Chip.bankControl_stores (k pin pull : Nat) : (b.bankControl k pin pull).stores = b.stores := by
  simp [Chip.bankControl]

@[simp] theorem Chip.vccoPark_stores (k : Nat) (inj : Bool) : (b.vccoPark k inj).stores = b.stores := by
  simp [Chip.vccoPark]

@[simp] theorem Chip.vccoFault_stores (k mV : Nat) : (b.vccoFault k mV).stores = b.stores := by simp [Chip.vccoFault]
@[simp] theorem Chip.vccoRecover_stores (k mV : Nat) : (b.vccoRecover k mV).stores = b.stores := by
  simp [Chip.vccoRecover]

/-! ### Belfry -/

@[simp] theorem Chip.toFree_stores (inj : Bool) : (b.toFree inj).stores = b.stores := by simp [Chip.toFree]
@[simp] theorem Chip.toHoldover_stores : b.toHoldover.stores = b.stores := by simp [Chip.toHoldover]
@[simp] theorem Chip.moveMarks_stores (b : Chip) (old n : Nat) : (b.moveMarks old n).stores = b.stores := by
  simp only [Chip.moveMarks, Chip.stores, Loader.streams]
  cases b.loader.commit <;> rfl

@[simp] theorem Chip.controlLaw_stores (x : Int) (T : Nat) : (b.controlLaw x T).stores = b.stores := by
  simp [Chip.controlLaw]

@[simp] theorem Chip.countGood_stores (x : Int) : (b.countGood x).stores = b.stores := by simp [Chip.countGood]
@[simp] theorem Chip.sourceSilent_stores : b.sourceSilent.stores = b.stores := by
  simp only [Chip.sourceSilent]
  split <;> simp

@[simp] theorem Chip.holdoverExpiry_stores : b.holdoverExpiry.stores = b.stores := by simp [Chip.holdoverExpiry]
@[simp] theorem Chip.ppsMissing_stores : b.ppsMissing.stores = b.stores := by
  simp only [Chip.ppsMissing]
  split
  · simp
  · split
    · split <;> simp
    · split <;> simp

@[simp] theorem Chip.setSource_stores (v : Nat) : (b.setSource v).stores = b.stores := by
  simp only [Chip.setSource]
  split_ifs <;> simp

@[simp] theorem Chip.ppsRise_stores : b.ppsRise.stores = b.stores := by simp [Chip.ppsRise]
@[simp] theorem Chip.ppsFallEvent_stores : b.ppsFallEvent.stores = b.stores := by simp [Chip.ppsFallEvent]
@[simp] theorem Chip.setPpsEnable_stores (v : Nat) : (b.setPpsEnable v).stores = b.stores := by
  simp [Chip.setPpsEnable]

/-! ### Vanes -/

@[simp] theorem Chip.lateWord_stores (tp : Nat) (inj : Bool) : (b.lateWord tp inj).stores = b.stores := by
  simp [Chip.lateWord]

@[simp] theorem Chip.disorderWord_stores (tp : Nat) (w : BitVec 32) (inj : Bool) :
    (b.disorderWord tp w inj).stores = b.stores := by
  simp [Chip.disorderWord]

@[simp] theorem Chip.queueWord_stores (tp : Nat) (a : Act) (inst : Nat) (w : BitVec 32) (last : Option Nat) :
    (b.queueWord tp a inst w last).stores = b.stores :=
  (rfl)

@[simp] theorem Chip.acceptTimed_stores (tp : Nat) (w : BitVec 32) : (b.acceptTimed tp w).stores = b.stores := by
  simp [Chip.acceptTimed]

@[simp] theorem Chip.acceptEpoch_stores (tp : Nat) (w : BitVec 32) : (b.acceptEpoch tp w).stores = b.stores := by
  simp [Chip.acceptEpoch]

@[simp] theorem Chip.vaneWord_stores (tp : Nat) (w : BitVec 32) : (b.vaneWord tp w).stores = b.stores := by
  simp [Chip.vaneWord]

@[simp] theorem Chip.loseEntry_stores (tp : Nat) (e : BitVec 32) (inj : Bool) :
    (b.loseEntry tp e inj).stores = b.stores := by
  simp [Chip.loseEntry]

@[simp] theorem Chip.fifoPut_stores (tp : Nat) (e : BitVec 32) : (b.fifoPut tp e).stores = b.stores := by
  simp [Chip.fifoPut]

@[simp] theorem Chip.fifoOverflow_stores (tp : Nat) : (b.fifoOverflow tp).stores = b.stores := by
  simp [Chip.fifoOverflow]

@[simp] theorem Chip.capture_stores (b : Chip) (tp kind : Nat) (level : Bool) (inst : Nat) :
    (b.capture tp kind level inst).stores = b.stores := by
  simp only [Chip.capture, Chip.fifoPut_stores, Chip.stores_ite, Chip.modVane_stores, Chip.fifoOverflow_stores,
    ite_self]

@[simp] theorem Chip.runWord_stores {f : Chip → Nat → Chip} (h : ∀ b n, (f b n).stores = b.stores) (b : Chip)
    (tp : Nat)
    (a : Act) : (b.runWord tp a f).stores = b.stores := by
  simp only [Chip.runWord]
  split <;> simp [h]

@[simp] theorem Chip.contend_stores (tp : Nat) (inj : Bool) : (b.contend tp inj).stores = b.stores := by
  simp [Chip.contend]

@[simp] theorem Chip.rateViolation_stores (tp : Nat) (inj : Bool) : (b.rateViolation tp inj).stores = b.stores := by
  simp [Chip.rateViolation]

@[simp] theorem Chip.setDriver_stores (tp : Nat) (oe level parked : Bool) :
    (b.setDriver tp oe level parked).stores = b.stores :=
  (rfl)

@[simp] theorem Chip.driveAction_stores (tp inst : Nat) (oe level parked : Bool) :
    (b.driveAction tp inst oe level parked).stores = b.stores := by
  simp [Chip.driveAction]

@[simp] theorem Chip.arm_stores (tp : Nat) (e : EdgeSel) (inst : Nat) : (b.arm tp e inst).stores = b.stores := (rfl)
@[simp] theorem Chip.disarm_stores (tp inst : Nat) : (b.disarm tp inst).stores = b.stores := by simp [Chip.disarm]
@[simp] theorem Chip.closeWindow_stores (tp : Nat) : (b.closeWindow tp).stores = b.stores := (rfl)
@[simp] theorem Chip.failWindow_stores (b : Chip) (tp : Nat) (level : Bool) (inst : Nat) :
    (b.failWindow tp level inst).stores = b.stores := by
  simp only [Chip.failWindow, Chip.capture_stores, Chip.modVane_stores]

@[simp] theorem Chip.openWindow_stores (tp : Nat) (expect level : Bool) (inst : Nat) :
    (b.openWindow tp expect level inst).stores = b.stores := by
  simp [Chip.openWindow]

@[simp] theorem Chip.reflexArm_stores (tp inst : Nat) : (b.reflexArm tp inst).stores = b.stores := (rfl)
@[simp] theorem Chip.reflexDisarm_stores (tp : Nat) : (b.reflexDisarm tp).stores = b.stores := by
  simp [Chip.reflexDisarm]

@[simp] theorem Chip.captureEdge_stores (tp : Nat) (rising : Bool) (fine : Nat) :
    (b.captureEdge tp rising fine).stores = b.stores := by
  simp only [Chip.captureEdge]
  split <;> simp

@[simp] theorem Chip.deviation_stores (tp fine : Nat) (level : Bool) (ps : Nat) :
    (b.deviation tp fine level ps).stores = b.stores := by
  simp only [Chip.deviation]
  split <;> simp

@[simp] theorem Chip.capturePop_stores (tp : Nat) : (b.capturePop tp).stores = b.stores := by
  simp only [Chip.capturePop]
  split <;> simp

@[simp] theorem Chip.vaneFailClear_stores (tp : Nat) : (b.vaneFailClear tp).stores = b.stores := by
  simp [Chip.vaneFailClear]

@[simp] theorem Chip.calibrated_stores (tp : Nat) : (b.calibrated tp).stores = b.stores := by simp [Chip.calibrated]
@[simp] theorem Chip.lineSwitch_stores (tp : Nat) : (b.lineSwitch tp).stores = b.stores := by simp [Chip.lineSwitch]
@[simp] theorem Chip.calibrationDeferred_stores (tp : Nat) : (b.calibrationDeferred tp).stores = b.stores := by
  simp [Chip.calibrationDeferred]

@[simp] theorem Chip.calibrationLimit_stores (tp : Nat) (inj : Bool) :
    (b.calibrationLimit tp inj).stores = b.stores := by
  simp [Chip.calibrationLimit]

/-! ### Schedule -/

@[simp] theorem Chip.missAs_stores (r : Nat) (m : MissInfo) (preceded : Bool) :
    (b.missAs r m preceded).stores = b.stores := by
  simp only [Chip.missAs]
  split <;> simp

@[simp] theorem Chip.missSeen_stores (r : Nat) (m : MissInfo) : (b.missSeen r m).stores = b.stores := by
  simp [Chip.missSeen]

@[simp] theorem Chip.startRearm_stores (o : Nat) : (b.startRearm o).stores = b.stores := by simp [Chip.startRearm]
@[simp] theorem Chip.rearmBoundary_stores (p : Nat) : (b.rearmBoundary p).stores = b.stores := by
  simp only [Chip.rearmBoundary]
  split <;> simp

/-! ### Islands -/

@[simp] theorem Chip.islandUnlock_stores (r detector : Nat) : (b.islandUnlock r detector).stores = b.stores := by
  simp [Chip.islandUnlock]

@[simp] theorem Chip.startRestart_stores (o : Nat) : (b.startRestart o).stores = b.stores := by
  simp [Chip.startRestart]

@[simp] theorem Chip.restartRelease_stores (r : Nat) : (b.restartRelease r).stores = b.stores := by
  simp only [Chip.restartRelease]
  split <;> simp

/-! ### Crossing -/

@[simp] theorem Chip.sendScheduled_stores (l : Lane) (valid : Bool) (data : BitVec 32) :
    (b.sendScheduled l valid data).stores = b.stores := by
  simp only [Chip.sendScheduled]
  split <;> simp

@[simp] theorem Chip.sendUnscheduled_stores (l : Lane) (data : BitVec 32) :
    (b.sendUnscheduled l data).stores = b.stores := by
  simp only [Chip.sendUnscheduled]
  split <;> simp

@[simp] theorem Chip.releaseToken_stores (l : Lane) (landed : Bool) :
    (b.releaseToken l landed).stores = b.stores := by
  simp only [Chip.releaseToken]
  split <;> simp

@[simp] theorem Chip.deliverUnscheduled_stores (l : Lane) : (b.deliverUnscheduled l).stores = b.stores := by
  simp only [Chip.deliverUnscheduled]
  split
  · simp
  · split <;> simp

/-! ### Nets -/

@[simp] theorem Chip.modNet_stores (r n : Nat) (f : Net → Net) : (b.modNet r n f).stores = b.stores := (rfl)
@[simp] theorem Chip.clockSwitch_stores (r n : Nat) (sel : Bool) : (b.clockSwitch r n sel).stores = b.stores := by
  simp [Chip.clockSwitch]

@[simp] theorem Chip.switchComplete_stores (r n : Nat) : (b.switchComplete r n).stores = b.stores := by
  simp [Chip.switchComplete]

@[simp] theorem Chip.switchStall_stores (r n : Nat) : (b.switchStall r n).stores = b.stores := by
  simp only [Chip.switchStall]
  split
  · simp
  · split <;> simp

@[simp] theorem Chip.gateChange_stores (r n : Nat) (en : Bool) : (b.gateChange r n en).stores = b.stores := by
  simp [Chip.gateChange]

@[simp] theorem Chip.userReset_stores (r n : Nat) (v : Bool) : (b.userReset r n v).stores = b.stores := by
  simp [Chip.userReset]

/-! ### Memories -/

@[simp] theorem Chip.noteWritten_stores (u : MemUnit) (k : Nat) : (b.noteWritten u k).stores = b.stores := by
  simp only [Chip.noteWritten]
  split <;> simp

@[simp] theorem Chip.noteError_stores (r addr bit : Nat) (hard : Bool) :
    (b.noteError r addr bit hard).stores = b.stores :=
  (rfl)

@[simp] theorem Chip.memCorrection_stores (r space addr bit reader key : Nat) (inj : Bool) :
    (b.memCorrection r space addr bit reader key inj).stores = b.stores := by
  simp [Chip.memCorrection]

@[simp] theorem Chip.uncorrectable_stores (r space addr bit reader key : Nat) (inj : Bool) :
    (b.uncorrectable r space addr bit reader key inj).stores = b.stores := by
  simp [Chip.uncorrectable]

@[simp] theorem Chip.demandTake_stores (sp : Bool) (unit k : Nat) : (b.demandTake sp unit k).stores = b.stores := by
  simp [Chip.demandTake]

@[simp] theorem Chip.bmRead_stores (k reader : Nat) : (b.bmRead k reader).1.stores = b.stores := by
  simp only [Chip.bmRead]
  split
  · simp
  · split <;> simp

@[simp] theorem Chip.modBm_stores (u : Nat) (f : BmState → BmState) : (b.modBm u f).stores = b.stores := (rfl)
@[simp] theorem Chip.collided_stores (k : Nat) : (b.collided k).1.stores = b.stores := (rfl)
@[simp] theorem Chip.bLoses_stores (u k : Nat) (x : BmAccess) (cancel : Bool) :
    (b.bLoses u k x cancel).stores = b.stores := by
  simp only [Chip.bLoses]
  split_ifs <;> simp

@[simp] theorem Chip.readSpoiled_stores (u k : Nat) (p : BmPort) (c : Nat) :
    (b.readSpoiled u k p c).stores = b.stores :=
  (rfl)

@[simp] theorem Chip.bmOut_stores (u : Nat) (p : BmPort) (c : Nat) (d : BitVec 40) (cor err coll uut valid : Bool) :
    (b.bmOut u p c d cor err coll uut valid).stores = b.stores :=
  (rfl)

@[simp] theorem Chip.bmNote_stores (u : Nat) (p : BmPort) (c addr : Nat) (op : BmOp) (old : BitVec 40)
    (oe : BitVec 40 × Bool) (cancelled : Bool) : (b.bmNote u p c addr op old oe cancelled).stores = b.stores :=
  (rfl)

@[simp] theorem Chip.bDiscarded_stores (u r addr c : Nat) (op : BmOp) (k : Nat) :
    (b.bDiscarded u r addr c op k).stores = b.stores := by
  simp only [Chip.bDiscarded]
  split <;> simp

@[simp] theorem Chip.bmTested_stores (m : BmSel) (p : BmPort) (c : Nat) : (b.bmTested m p c).stores = b.stores :=
  (rfl)

@[simp] theorem Chip.spLane_stores (k reader : Nat) (x : Chip × BitVec 256 × Bool × Bool) (j : Nat) :
    (Chip.spLane k reader x j).1.stores = x.1.stores := by
  simp only [Chip.spLane]
  split <;> simp

@[simp] theorem Chip.spRead_stores (b : Chip) (k reader : Nat) : (b.spRead k reader).1.stores = b.stores :=
  foldl_keep (fun x => x.1.stores) _ (fun x j => Chip.spLane_stores k reader x j) _ _

@[simp] theorem Chip.modSpPort_stores (r p : Nat) (f : SpPort → SpPort) : (b.modSpPort r p f).stores = b.stores :=
  (rfl)

@[simp] theorem Chip.spLose_stores (r : Nat) (a : SpAccess) (c : Nat) : (b.spLose r a c).stores = b.stores := by
  simp only [Chip.spLose]
  split
  · simp
  · split
    · split <;> simp
    · simp

@[simp] theorem Chip.spCheck_stores (r bank : Nat) (sched : Bool) : (b.spCheck r bank sched).stores = b.stores := by
  simp only [Chip.spCheck]
  split <;> simp

@[simp] theorem Chip.spRepair_stores (k : Nat) : (b.spRepair k).stores = b.stores := (rfl)
@[simp] theorem Chip.bmMaint_stores {f : Chip → Chip} (h : ∀ b, (f b).stores = b.stores) (b : Chip) (m : BmSel)
    (k : Nat)
    (op : BmOp) : (b.bmMaint m k op f).stores = b.stores := by
  simp [Chip.bmMaint, h]

@[simp] theorem Chip.spMaint_stores (r bank : Nat) : (b.spMaint r bank).stores = b.stores := (rfl)
@[simp] theorem Chip.transferRefused_stores (r a : Nat) : (b.transferRefused r a).stores = b.stores := by
  simp [Chip.transferRefused]

@[simp] theorem Chip.awaitMaintenance_stores (r a : Nat) : (b.awaitMaintenance r a).stores = b.stores := by
  simp [Chip.awaitMaintenance]

@[simp] theorem Chip.readWord_stores (b : Chip) (r a : Nat) : (b.readWord r a).1.stores = b.stores := by
  simp only [Chip.readWord]
  split
  · simp
  · simp

@[simp] theorem Chip.readWords_stores (b : Chip) (r a n : Nat) : (b.readWords r a n).1.stores = b.stores := by
  induction n generalizing b a with
  | zero => rfl
  | succ n ih =>
    have h := Chip.readWord_stores b r a
    rw [Chip.readWords]
    generalize b.readWord r a = x at h ⊢
    obtain ⟨c, _ | d⟩ := x
    · exact h
    · have h' := (ih c (a + 1)).trans h
      dsimp only
      generalize c.readWords r (a + 1) n = y at h' ⊢
      obtain ⟨c', _ | d'⟩ := y <;> exact h'

@[simp] theorem Chip.memoryRead_stores (b : Chip) (o r : Nat) : (b.memoryRead o r).1.stores = b.stores := by
  have h := Chip.readWords_stores b r (b.reg (0x2500 + r) 0x10) (b.reg (0x2500 + r) 0x12)
  simp only [Chip.memoryRead]
  split
  · generalize b.readWords r _ _ = x at h ⊢
    obtain ⟨c, _ | d⟩ := x
    · exact h
    · simp [← h]
  · simp

/-! ### Operands -/

@[simp] theorem Chip.modGroup_stores (g : Grp) (f : Group → Group) : (b.modGroup g f).stores = b.stores := (rfl)

/-! ### GroupMem -/

@[simp] theorem Chip.seqFault_stores (g : Grp) (code lane space idx : Nat) (inj : Bool) :
    (b.seqFault g code lane space idx inj).stores = b.stores := by
  simp [Chip.seqFault]

@[simp] theorem Chip.gmCorrection_stores (b : Chip) (g : Grp) (space i lane : Nat) (inj : Bool) :
    (b.gmCorrection g space i lane inj).stores = b.stores := by
  have h : ((b.count (0x2500 + g.r) 0x3B).logEvent
      (b.regionEv g.r (evCode 1 4 g.r 1) 2 inj (g.b + lane * 256 + space * 65536) i 0)).stores = b.stores := by simp
  simp only [Chip.gmCorrection]
  generalize Chip.logEvent _ _ = c at h ⊢
  split <;> split <;> simpa using h

@[simp] theorem Chip.gmHard_stores (g : Grp) (space i lane : Nat) (inj : Bool) :
    (b.gmHard g space i lane inj).stores = b.stores := by
  simp [Chip.gmHard]

@[simp] theorem Chip.gmMeet_stores (g : Grp) (space i lane : Nat) :
    (b.gmMeet g space i lane).1.stores = b.stores := by
  simp only [Chip.gmMeet]
  split <;> simp

@[simp] theorem Chip.gmMeetAll_stores (b : Chip) (g : Grp) (space : Nat) (l : List (Nat × Nat)) :
    (b.gmMeetAll g space l).1.stores = b.stores :=
  foldl_keep (fun x : Chip × Bool × Bool => x.1.stores) _ (fun x i => by simp) _ _

@[simp] theorem Chip.gmClean_stores (g : Grp) (space i : Nat) (u : MemUnit) :
    (b.gmClean g space i u).stores = b.stores := by
  simp [Chip.gmClean]

@[simp] theorem Chip.asOf_stores {f : Chip → Chip} (h : ∀ b, (f b).stores = b.stores) (b : Chip) (t : Nat) :
    (b.asOf t f).stores = b.stores := by
  simp [Chip.asOf, h]

@[simp] theorem Chip.groupTested_stores (g : Grp) : (b.groupTested g).stores = b.stores := (rfl)
@[simp] theorem Chip.prefetch_stores (g : Grp) : (b.prefetch g).stores = b.stores := by simp [Chip.prefetch]
@[simp] theorem Chip.gmRepair_stores (g : Grp) (space i : Nat) : (b.gmRepair g space i).stores = b.stores := by
  simp [Chip.gmRepair]

@[simp] theorem Chip.gmMaint_stores (g : Grp) (space : Nat) : (b.gmMaint g space).stores = b.stores := (rfl)

/-! ### Sequencer -/

@[simp] theorem Chip.overrun_stores (g : Grp) (ev : Nat) : (b.overrun g ev).stores = b.stores := by
  simp [Chip.overrun]

@[simp] theorem Chip.waitingOverrun_stores (g : Grp) (ev c : Nat) : (b.waitingOverrun g ev c).stores = b.stores := by
  simp [Chip.waitingOverrun]

@[simp] theorem Chip.fetchMeet_stores (g : Grp) : (b.fetchMeet g).1.stores = b.stores := by
  simp only [Chip.fetchMeet]
  split_ifs <;> simp

@[simp] theorem Chip.endHandler_stores (g : Grp) (c : Nat) : (b.endHandler g c).stores = b.stores := by
  simp only [Chip.endHandler]
  split <;> simp

@[simp] theorem Chip.follow_stores (k : Ctx) (fl : Flow) : (b.follow k fl).stores = b.stores := by
  simp only [Chip.follow]
  split <;> simp

@[simp] theorem Chip.setAddr_stores (k : Ctx) (i : Nat) (v : BitVec 14) : (b.setAddr k i v).stores = b.stores := (rfl)

/-! ### Slices -/

@[simp] theorem acsLanes_stores (k : Ctx) (n : Nat) : (acsLanes b k n).stores = b.stores := (rfl)

/-! ### Cupola -/

@[simp] theorem Chip.cupolaNote_stores (a code : Nat) : (b.cupolaNote a code).stores = b.stores := by
  simp only [Chip.cupolaNote]
  split <;> simp

@[simp] theorem Chip.setProt_stores (rr st : Nat) (f : ProtRegion → ProtRegion) :
    (b.setProt rr st f).stores = b.stores := by
  simp [Chip.setProt]

@[simp] theorem Chip.addPoison_stores (rr level first : Nat) (inj : Bool) :
    (b.addPoison rr level first inj).stores = b.stores := by
  simp only [Chip.addPoison]
  split
  · simp
  · split <;> simp

@[simp] theorem Chip.poisonLine_stores (rr m : Nat) (inj : Bool) : (b.poisonLine rr m inj).stores = b.stores := by
  simp [Chip.poisonLine]

@[simp] theorem Chip.newKey_stores (rr : Nat) : (b.newKey rr).stores = b.stores := (rfl)
@[simp] theorem Chip.startRekey_stores (rr : Nat) : (b.startRekey rr).stores = b.stores := by simp [Chip.startRekey]
@[simp] theorem Chip.cacheInsert_stores (m : Nat) (dirty : Bool) : (b.cacheInsert m dirty).stores = b.stores := (rfl)
@[simp] theorem Chip.cacheHit_stores (rr a : Nat) : (b.cacheHit rr a).stores = b.stores := by simp [Chip.cacheHit]
@[simp] theorem Chip.applyMeta_stores (rr level : Nat) : (b.applyMeta rr level).stores = b.stores := (rfl)
@[simp] theorem Chip.pinDirty_stores (m : Nat) : (b.pinDirty m).stores = b.stores := (rfl)
@[simp] theorem Chip.useMeta_stores (rr level m a : Nat) (dirty : Bool) :
    (b.useMeta rr level m a dirty).1.stores = b.stores := by
  simp only [Chip.useMeta]
  split
  · simp
  · split
    · simp
    · split <;> simp

@[simp] theorem Chip.useLines_stores (b : Chip) (rr a : Nat) (l : List (Nat × Nat × Bool)) :
    (b.useLines rr a l).1.stores = b.stores :=
  foldl_keep (fun x : Chip × Bool => x.1.stores) _ (fun x y => by split <;> simp) _ _

@[simp] theorem Chip.useNode_stores (rr level a : Nat) (dirty : Bool) :
    (b.useNode rr level a dirty).1.stores = b.stores := by
  simp [Chip.useNode]

@[simp] theorem Chip.wrapRekey_stores (rr a : Nat) : (b.wrapRekey rr a).stores = b.stores := by simp [Chip.wrapRekey]
@[simp] theorem Chip.overflowPage_stores (rr a : Nat) : (b.overflowPage rr a).stores = b.stores := by
  simp [Chip.overflowPage]

@[simp] theorem Chip.bumpMinor_stores (rr a : Nat) : (b.bumpMinor rr a).stores = b.stores := by simp [Chip.bumpMinor]
@[simp] theorem Chip.readLine_stores (a : Nat) (sched : Bool) : (b.readLine a sched).1.stores = b.stores := by
  simp only [Chip.readLine]
  split_ifs <;> simp

@[simp] theorem Chip.writeFails_stores (a : Nat) (sched : Bool) : (b.writeFails a sched).1.stores = b.stores := by
  simp only [Chip.writeFails]
  split <;> simp

@[simp] theorem Chip.rewriteDone_stores (rr page : Nat) : (b.rewriteDone rr page).stores = b.stores := by
  simp only [Chip.rewriteDone]
  split <;> simp

@[simp] theorem Chip.forgetRegion_stores (rr : Nat) : (b.forgetRegion rr).stores = b.stores := (rfl)
@[simp] theorem Chip.freeRegion_stores (rr : Nat) : (b.freeRegion rr).stores = b.stores := by simp [Chip.freeRegion]
@[simp] theorem Chip.rekeyRegion_stores (o rr : Nat) : (b.rekeyRegion o rr).stores = b.stores := by
  simp [Chip.rekeyRegion]

@[simp] theorem Chip.reinitRegion_stores (o rr entry : Nat) : (b.reinitRegion o rr entry).stores = b.stores := by
  simp [Chip.reinitRegion]

/-! ### Dram -/

@[simp] theorem Chip.changeRate_stores (o rate : Nat) : (b.changeRate o rate).stores = b.stores := by
  simp [Chip.changeRate]

@[simp] theorem Chip.startRate_stores (o : Nat) : (b.startRate o).stores = b.stores := by simp [Chip.startRate]
@[simp] theorem Chip.applyPending_stores : b.applyPending.stores = b.stores := by simp [Chip.applyPending]
@[simp] theorem Chip.refreshRound_stores (b : Chip) : b.refreshRound.stores = b.stores := by
  have hk : ∀ c : Chip, c.stores = b.stores →
      (if c.refreshes then { c with hub := { c.hub with refreshAt := some c.now } } else c).stores = b.stores :=
    fun c h => by split <;> exact h
  refine hk _ ?_
  split <;> simp

@[simp] theorem Chip.hotSpan_stores : b.hotSpan.stores = b.stores := by simp [Chip.hotSpan]
@[simp] theorem Chip.raiseOnce_stores {f : Chip → Chip} (h : ∀ b, (f b).stores = b.stores) (b : Chip) (code : Nat) :
    (b.raiseOnce code f).stores = b.stores := by
  simp [Chip.raiseOnce, h]

@[simp] theorem Chip.conditionEnds_stores (code : Nat) : (b.conditionEnds code).stores = b.stores := (rfl)
@[simp] theorem Chip.dimmUnread_stores (c d : Nat) (inj : Bool) : (b.dimmUnread c d inj).stores = b.stores := by
  simp [Chip.dimmUnread]

@[simp] theorem Chip.beginWindow_stores (a : Nat) (we : Bool) : (b.beginWindow a we).stores = b.stores := (rfl)
@[simp] theorem Chip.fencePort_stores (r sub code a err : Nat) (inj : Bool) :
    (b.fencePort r sub code a err inj).stores = b.stores := by
  simp [Chip.fencePort]

@[simp] theorem Chip.strayRequest_stores (r : Nat) : (b.strayRequest r).stores = b.stores := by
  simp [Chip.strayRequest]

@[simp] theorem Chip.sendWindow_stores (r h a : Nat) (pinned : Bool) (x : Served) :
    (b.sendWindow r h a pinned x).stores = b.stores :=
  (rfl)

@[simp] theorem Chip.returnSlot_stores (b : Chip) (r h : Nat) : (b.returnSlot r h).stores = b.stores := by
  simp only [Chip.returnSlot]
  split
  · rfl
  · split
    · rfl
    · split
      · simp
      · split
        · rfl
        · split
          · simp
          · split <;> simp

@[simp] theorem Chip.useChannel_stores (a : Nat) : (b.useChannel a).stores = b.stores := (rfl)
@[simp] theorem Chip.completeOldest_stores (b : Chip) (src : Nat) (we : Bool) :
    (b.completeOldest src we).stores = b.stores := by
  have h : ∀ (x : Hub) q c, (x.show_ q c).mem = x.mem := fun x q c => by unfold Hub.show_; split_ifs <;> rfl
  simp only [Chip.completeOldest]
  split
  · simp [apply_ite Hub.mem, h]
  · rfl

@[simp] theorem Chip.selfRefreshEntry_stores (c : Nat) : (b.selfRefreshEntry c).stores = b.stores := by
  simp [Chip.selfRefreshEntry]

@[simp] theorem Chip.selfRefreshExit_stores (c : Nat) : (b.selfRefreshExit c).stores = b.stores := by
  simp [Chip.selfRefreshExit]

@[simp] theorem Chip.dramScrub_stores (b : Chip) (err : EccOutcome) : (b.dramScrub err).stores = b.stores := by
  unfold Chip.dramScrub
  split
  · rfl
  · extract_lets a c b1 w b2
    have h2 : b2.stores = b.stores := by
      show b1.stores = b.stores
      simp [b1]
    clear_value b2
    have h3 : (b2.readLine a false).1.stores = b.stores := by simpa using h2
    split
    · exact h2
    · generalize b2.readLine a false = x at h3 ⊢
      obtain ⟨d, bad, i⟩ := x
      dsimp only at h3 ⊢
      split
      · split <;> simp [h3]
      · split
        · exact h3
        · simp [h3]
        · split <;> simp [h3]

/-! ### Owners -/

@[simp] theorem Chip.setPartOwner_stores (p v : Nat) : (b.setPartOwner p v).stores = b.stores := by
  simp [Chip.setPartOwner]

@[simp] theorem Chip.startPartReset_stores (o : Nat) : (b.startPartReset o).stores = b.stores := by
  simp [Chip.startPartReset]

@[simp] theorem Chip.partResetRelease_stores (p : Nat) : (b.partResetRelease p).stores = b.stores := by
  simp only [Chip.partResetRelease]
  split <;> simp

/-! ### Ports -/

@[simp] theorem Chip.resetPort_stores (h : Nat) : (b.resetPort h).stores = b.stores := by simp [Chip.resetPort]
@[simp] theorem Chip.linkDown_stores (h : Nat) (inj : Bool) : (b.linkDown h inj).stores = b.stores := by
  simp [Chip.linkDown]

@[simp] theorem Chip.modDma_stores (h c : Nat) (f : Dma → Dma) : (b.modDma h c f).stores = b.stores := (rfl)
@[simp] theorem Chip.dmaOverrun_stores (h c : Nat) (inj : Bool) : (b.dmaOverrun h c inj).stores = b.stores := by
  simp [Chip.dmaOverrun]

@[simp] theorem Chip.doorbell_stores (h c : Nat) (v : BitVec 32) : (b.doorbell h c v).stores = b.stores := by
  simp [Chip.doorbell]

@[simp] theorem Chip.finishDesc_stores (h c : Nat) : (b.finishDesc h c).stores = b.stores := by
  simp only [Chip.finishDesc]
  split <;> simp

@[simp] theorem Chip.bar2Error_stores (h code a : Nat) : (b.bar2Error h code a).stores = b.stores := (rfl)
@[simp] theorem Chip.answerBar_stores (h cpl : Nat) (d : Bytes) : (b.answerBar h cpl d).stores = b.stores := (rfl)

/-! ### Loader -/

@[simp] theorem Chip.startLoad_stores (o : Nat) : (b.startLoad o).stores = b.stores := by simp [Chip.startLoad]
@[simp] theorem Chip.bootStream_stores : b.bootStream.stores = b.stores := by simp [Chip.bootStream]
@[simp] theorem Chip.modLoad_stores (f : Load → Load) : (b.modLoad f).stores = b.stores := (rfl)
@[simp] theorem Chip.note_stores (code : Nat) : (b.note code).stores = b.stores := (rfl)
@[simp] theorem Chip.injectedCut_stores : b.injectedCut.stores = b.stores := by
  simp only [Chip.injectedCut]
  split <;> simp

@[simp] theorem Chip.touchFrames_stores (r lo hi : Nat) : (b.touchFrames r lo hi).stores = b.stores := by
  simp [Chip.touchFrames]

@[simp] theorem Chip.addSettings_stores (l : List Setting) : (b.addSettings l).stores = b.stores := (rfl)
@[simp] theorem Chip.regionRecord_stores (h : StreamHeader) (r : Nat) (w : BitVec 32) :
    (b.regionRecord h r w).stores = b.stores := by
  simp [Chip.regionRecord]

@[simp] theorem Chip.tableRecord_stores (r : Nat) (l : List (BitVec 64)) : (b.tableRecord r l).stores = b.stores := by
  simp [Chip.tableRecord]

@[simp] theorem Chip.contractRecord_stores (h : StreamHeader) (p k : Nat) :
    (b.contractRecord h p k).stores = b.stores := by
  simp [Chip.contractRecord]

@[simp] theorem Chip.pdmapRecord_stores (h : StreamHeader) (r : Nat) (out inp : BitVec 256) :
    (b.pdmapRecord h r out inp).stores = b.stores := by
  simp [Chip.pdmapRecord]

@[simp] theorem Chip.adoptParts_stores (h : StreamHeader) : (b.adoptParts h).stores = b.stores := by
  simp [Chip.adoptParts]

@[simp] theorem Chip.lockStandbys_stores (mask : BitVec 32) : (b.lockStandbys mask).stores = b.stores := by
  simp [Chip.lockStandbys]

/-! ### Commit -/

@[simp] theorem Chip.gateDriveChange_stores : b.gateDriveChange.stores = b.stores := by simp [Chip.gateDriveChange]

/-! ### Watchtower -/

@[simp] theorem Chip.stopWatch_stores : b.stopWatch.stores = b.stores := (rfl)
@[simp] theorem Chip.voterCorrection_stores (inj : Bool) : (b.voterCorrection inj).stores = b.stores := by
  simp [Chip.voterCorrection]

@[simp] theorem Chip.vote_stores : b.vote.stores = b.stores := by simp [Chip.vote]
@[simp] theorem Chip.voterMismatch_stores (all : Bool) : (b.voterMismatch all).stores = b.stores := by
  simp [Chip.voterMismatch]

@[simp] theorem Chip.applyFrame_stores (n ev : Nat) : (b.applyFrame n ev).stores = b.stores := by
  simp [Chip.applyFrame]

@[simp] theorem Chip.frameClean_stores (n : Nat) : (b.frameClean n).stores = b.stores := (rfl)
@[simp] theorem Chip.unrepairable_stores (n code : Nat) (diff : List Nat) :
    (b.unrepairable n code diff).stores = b.stores := by
  simp [Chip.unrepairable]

@[simp] theorem Chip.repaired_stores (n code : Nat) (diff : List Nat) :
    (b.repaired n code diff).stores = b.stores := by
  simp [Chip.repaired]

@[simp] theorem Chip.passEnd_stores (us : Nat) : (b.passEnd us).stores = b.stores := by
  simp only [Chip.passEnd]
  split_ifs <;> simp

@[simp] theorem Chip.scrubSp_stores (r bank addr : Nat) (e : EccOutcome) :
    (b.scrubSp r bank addr e).stores = b.stores := by
  simp [Chip.scrubSp]

/-! ### SelfTest -/

@[simp] theorem Chip.markFailing_stores (l : List (BitVec 64)) : (b.markFailing l).stores = b.stores := (rfl)
@[simp] theorem Chip.acceptResult_stores (o : Nat) : (b.acceptResult o).stores = b.stores := by
  simp [Chip.acceptResult]

@[simp] theorem Chip.startTest_stores (o : Nat) : (b.startTest o).stores = b.stores := by simp [Chip.startTest]

/-! ### Lantern -/

@[simp] theorem Chip.confirm_stores : b.confirm.stores = b.stores := by simp [Chip.confirm]
@[simp] theorem Chip.burnRollback_stores : b.burnRollback.stores = b.stores := by simp [Chip.burnRollback]
@[simp] theorem Chip.startFlash_stores (o : Nat) : (b.startFlash o).stores = b.stores := by simp [Chip.startFlash]
@[simp] theorem Chip.imageFailed_stores : b.imageFailed.stores = b.stores := (rfl)
@[simp] theorem Chip.imageWritten_stores (x : Slot) : (b.imageWritten x).stores = b.stores := by
  simp [Chip.imageWritten]

@[simp] theorem Chip.bootWritten_stores (a len : Nat) : (b.bootWritten a len).stores = b.stores := by
  simp only [Chip.bootWritten]
  split <;> simp

@[simp] theorem Chip.flashResult_stores (a : Nat) (out : FlashOutcome) :
    (b.flashResult a out).1.stores = b.stores := by
  simp only [Chip.flashResult]
  split
  · split_ifs <;> simp
  · split_ifs <;> simp
  · split_ifs <;> simp
  · split_ifs <;> simp

@[simp] theorem Chip.flashEnd_stores (out : FlashOutcome) : (b.flashEnd out).stores = b.stores := by
  simp only [Chip.flashEnd]
  split <;> simp

@[simp] theorem Chip.sramCorrect_stores (inj : Bool) : (b.sramCorrect inj).stores = b.stores := by
  simp [Chip.sramCorrect]

@[simp] theorem Chip.logAdvance_stores (o : Nat) (l : List LogEntry) : (b.logAdvance o l).stores = b.stores := by
  simp only [Chip.logAdvance]
  split <;> simp

@[simp] theorem Chip.readLog_stores (o : Nat) : (b.readLog o).stores = b.stores := by
  simp only [Chip.readLog]
  split
  · simp
  · split <;> simp

@[simp] theorem Chip.unstick_stores (mask : BitVec 32) : (b.unstick mask).stores = b.stores := (rfl)
@[simp] theorem Chip.setKey_stores (n : Nat) (k : KeySlot) : (b.setKey n k).stores = b.stores := (rfl)
@[simp] theorem Chip.startKey_stores (o : Nat) : (b.startKey o).stores = b.stores := by simp [Chip.startKey]

/-! ### FieldNet -/

@[simp] theorem Chip.abortEcat_stores : b.abortEcat.stores = b.stores := by
  simp only [Chip.abortEcat]
  split <;> simp

@[simp] theorem Chip.alCommand_stores (n : Nat) : (b.alCommand n).stores = b.stores := by
  simp only [Chip.alCommand]
  split
  · simp
  · split <;> simp

@[simp] theorem Chip.alFall_stores (code ev : Nat) (inj : Bool) : (b.alFall code ev inj).stores = b.stores := by
  simp [Chip.alFall]

@[simp] theorem Chip.smWatchdog_stores (inj : Bool) : (b.smWatchdog inj).stores = b.stores := by
  simp [Chip.smWatchdog]

@[simp] theorem Chip.syncActivate_stores (bits : BitVec 8) (cycle0 start cycle1 : Nat) :
    (b.syncActivate bits cycle0 start cycle1).stores = b.stores := by
  simp [Chip.syncActivate]

@[simp] theorem Chip.selectOutputs_stores (e : Nat) : (b.selectOutputs e).stores = b.stores := (rfl)
@[simp] theorem Chip.eventMissed_stores (inj : Bool) : (b.eventMissed inj).stores = b.stores := by
  simp only [Chip.eventMissed]
  split_ifs <;> simp

@[simp] theorem Chip.selectInputs_stores (e : Nat) : (b.selectInputs e).stores = b.stores := by
  simp [Chip.selectInputs]

@[simp] theorem Chip.pdEvent_stores (e : Nat) : (b.pdEvent e).stores = b.stores := by simp [Chip.pdEvent]
@[simp] theorem Chip.sync0_stores (t : Nat) : (b.sync0 t).stores = b.stores := by
  simp only [Chip.sync0]
  split_ifs <;> simp

@[simp] theorem Chip.sm2Write_stores (words : List (BitVec 32)) (t : Nat) :
    (b.sm2Write words t).stores = b.stores := by
  simp only [Chip.sm2Write]
  split_ifs <;> simp

@[simp] theorem Chip.sm3Read_stores (t : Nat) : (b.sm3Read t).stores = b.stores := by
  simp only [Chip.sm3Read]
  split_ifs <;> simp

@[simp] theorem Chip.applyOutputs_stores (p : Nat) : (b.applyOutputs p).stores = b.stores := by
  simp only [Chip.applyOutputs]
  split
  · simp
  · split <;> simp

@[simp] theorem Chip.latchInputs_stores (p : Nat) : (b.latchInputs p).stores = b.stores := by
  simp only [Chip.latchInputs]
  split
  · simp
  · split <;> simp

@[simp] theorem Chip.pdWrite_stores (r w : Nat) (v : BitVec 32) (t : Nat) :
    (b.pdWrite r w v t).stores = b.stores := by
  simp only [Chip.pdWrite]
  split <;> simp

@[simp] theorem Chip.mailboxIn_stores (counter : Nat) (data : Bytes) :
    (b.mailboxIn counter data).stores = b.stores := by
  simp [Chip.mailboxIn]

@[simp] theorem Chip.mailboxAgain_stores : b.mailboxAgain.stores = b.stores := by
  simp only [Chip.mailboxAgain]
  split <;> simp

@[simp] theorem Chip.sm1Read_stores (b : Chip) : b.sm1Read.stores = b.stores := by
  simp only [Chip.sm1Read]
  split
  · rfl
  · split <;> rfl

@[simp] theorem Chip.foeAnswer_stores (code : Nat) : (b.foeAnswer code).stores = b.stores := (rfl)
@[simp] theorem Chip.foeStream_stores : b.foeStream.stores = b.stores := by simp [Chip.foeStream]
@[simp] theorem Chip.foeImage_stores : b.foeImage.stores = b.stores := (rfl)
@[simp] theorem Chip.foeFirmware_stores : b.foeFirmware.stores = b.stores := by simp [Chip.foeFirmware]
@[simp] theorem Chip.foeLog_stores : b.foeLog.stores = b.stores := by simp [Chip.foeLog]
@[simp] theorem Chip.foeAbort_stores (code : Nat) : (b.foeAbort code).stores = b.stores := by simp [Chip.foeAbort]
@[simp] theorem Chip.foePacketIn_stores (number bytes : Nat) (last : Bool) :
    (b.foePacketIn number bytes last).stores = b.stores := by
  simp [Chip.foePacketIn]

@[simp] theorem Chip.siiFetch_stores (word : Nat) : (b.siiFetch word).stores = b.stores := by simp [Chip.siiFetch]
@[simp] theorem Chip.ecatDown_stores (p : Nat) (inj : Bool) : (b.ecatDown p inj).stores = b.stores := by
  simp [Chip.ecatDown]

/-! ### Queues -/

@[simp] theorem Chip.settleQueue_stores (k : Nat) : (b.settleQueue k).stores = b.stores := (rfl)
@[simp] theorem Chip.onQueue_stores (k : Nat) (f : QueueClock → Queue → Queue) : (b.onQueue k f).stores = b.stores :=
  (rfl)

@[simp] theorem Chip.discardPush_stores (k : Nat) : (b.discardPush k).stores = b.stores := (rfl)
@[simp] theorem Chip.fabricPush_stores (k : Nat) (bytes : Queue → List Byte) (close : Bool) :
    (b.fabricPush k bytes close).stores = b.stores := by
  simp only [Chip.fabricPush]
  split <;> simp

@[simp] theorem Chip.scheduledRead_stores (k : Nat) (stalls : Bool) :
    (b.scheduledRead k stalls).stores = b.stores := by
  simp only [Chip.scheduledRead]
  split <;> simp

@[simp] theorem Chip.pop_stores (k : Nat) : (b.pop k).stores = b.stores := by
  simp only [Chip.pop]
  split <;> simp

@[simp] theorem Chip.heldPopTake_stores (k : Nat) : (b.heldPopTake k).stores = b.stores := by
  simp only [Chip.heldPopTake]
  split <;> simp

@[simp] theorem Chip.heldPushComplete_stores (k : Nat) : (b.heldPushComplete k).stores = b.stores := by
  simp only [Chip.heldPushComplete]
  split <;> simp

@[simp] theorem Chip.clearFlags_stores (k : Nat) : (b.clearFlags k).stores = b.stores := (rfl)
@[simp] theorem Chip.watermarkClear_stores (k : Nat) : (b.watermarkClear k).stores = b.stores := by
  simp only [Chip.watermarkClear]
  split <;> simp

@[simp] theorem Chip.clearWatermarks_stores (r mask : Nat) : (b.clearWatermarks r mask).stores = b.stores := by
  simp [Chip.clearWatermarks]

@[simp] theorem Chip.pointerMismatch_stores (k which : Nat) : (b.pointerMismatch k which).stores = b.stores := by
  simp [Chip.pointerMismatch]

@[simp] theorem Chip.dualReadable_stores (k : Nat) (freed : Bool) : (b.dualReadable k freed).stores = b.stores := by
  simp only [Chip.dualReadable]
  split <;> split <;> simp

@[simp] theorem Chip.hostPush_stores (h offset : Nat) (data : BitVec 32) (full : Bool) :
    (b.hostPush h offset data full).stores = b.stores := by
  simp [Chip.hostPush]

@[simp] theorem Chip.hostClose_stores (h offset : Nat) : (b.hostClose h offset).stores = b.stores := by
  simp [Chip.hostClose]

@[simp] theorem Chip.complete_stores (h cpl : Nat) (d : Bytes) : (b.complete h cpl d).stores = b.stores := (rfl)
@[simp] theorem Chip.hostPop_stores (b : Chip) (h offset : Nat) : (b.hostPop h offset).stores = b.stores := by
  simp only [Chip.hostPop]
  split
  · rfl
  · split
    · simp
    · split
      · simp
      · split
        · simp
        · split <;> simp

/-! ### Debug -/

@[simp] theorem Chip.setDr_stores (v : BitVec 72) : (b.setDr v).stores = b.stores := by simp [Chip.setDr]
@[simp] theorem Chip.endSession_stores : b.endSession.stores = b.stores := by simp [Chip.endSession]
@[simp] theorem Chip.openSession_stores : b.openSession.stores = b.stores := by simp [Chip.openSession]
@[simp] theorem Chip.setAccess_stores (v : Nat) : (b.setAccess v).stores = b.stores := by simp [Chip.setAccess]
@[simp] theorem Chip.planRestart_stores (r : Nat) (n : Option Nat) : (b.planRestart r n).stores = b.stores := by
  simp only [Chip.planRestart]
  split <;> simp

@[simp] theorem Chip.startResume_stores (o r : Nat) (n : Option Nat) : (b.startResume o r n).stores = b.stores := by
  simp [Chip.startResume]

@[simp] theorem Chip.gateRegions_stores (l : List Nat) : (b.gateRegions l).stores = b.stores := by
  simp [Chip.gateRegions]

@[simp] theorem Chip.freezeVanes_stores (r opt : Nat) : (b.freezeVanes r opt).stores = b.stores := by
  simp only [Chip.freezeVanes]
  split <;> simp

@[simp] theorem Chip.logRun_stores (unit code : Nat) : (b.logRun unit code).stores = b.stores := by simp [Chip.logRun]
@[simp] theorem Chip.logFrame_stores (p code : Nat) : (b.logFrame p code).stores = b.stores := by simp [Chip.logFrame]
@[simp] theorem Chip.haltPart_stores (p : Nat) : (b.haltPart p).stores = b.stores := by simp [Chip.haltPart]
@[simp] theorem Chip.haltLone_stores (r : Nat) : (b.haltLone r).stores = b.stores := by simp [Chip.haltLone]
@[simp] theorem Chip.haltAtTick_stores (r : Nat) : (b.haltAtTick r).stores = b.stores := by
  simp only [Chip.haltAtTick]
  split <;> split <;> simp

@[simp] theorem Chip.runAgain_stores (r : Nat) : (b.runAgain r).stores = b.stores := by simp [Chip.runAgain]
@[simp] theorem Chip.runRegions_stores (l : List Nat) : (b.runRegions l).stores = b.stores := by
  simp [Chip.runRegions]

@[simp] theorem Chip.restartPart_stores (p : Nat) : (b.restartPart p).stores = b.stores := by simp [Chip.restartPart]
@[simp] theorem Chip.restartLone_stores (r : Nat) : (b.restartLone r).stores = b.stores := by simp [Chip.restartLone]
@[simp] theorem Chip.restartAtTick_stores (r : Nat) : (b.restartAtTick r).stores = b.stores := by
  simp only [Chip.restartAtTick]
  split <;> split <;> simp

@[simp] theorem Chip.enterMonitor_stores (pc : BitVec 32) : (b.enterMonitor pc).stores = b.stores := by
  simp [Chip.enterMonitor]

@[simp] theorem Chip.leaveMonitor_stores : b.leaveMonitor.stores = b.stores := by simp [Chip.leaveMonitor]
@[simp] theorem Chip.monitorRequest_stores (v : Nat) : (b.monitorRequest v).stores = b.stores := by
  simp only [Chip.monitorRequest]
  split <;> simp

@[simp] theorem Chip.setHold_stores (v : Nat) : (b.setHold v).stores = b.stores := by simp [Chip.setHold]

/-! ### Trace -/

@[simp] theorem Chip.count64_stores (idx sub : Nat) : (b.count64 idx sub).stores = b.stores := (rfl)
@[simp] theorem Chip.losePacket_stores : b.losePacket.stores = b.stores := (rfl)
@[simp] theorem Chip.emit_stores (p : Packet) : (b.emit p).stores = b.stores := by simp [Chip.emit]
@[simp] theorem Chip.sampleTriggers_stores : b.sampleTriggers.stores = b.stores := (rfl)
@[simp] theorem Chip.setTrace_stores (v : Nat) : (b.setTrace v).stores = b.stores := by simp [Chip.setTrace]
@[simp] theorem Chip.sinkEnd_stores (wrap : Debug → Debug) : (b.sinkEnd wrap).stores = b.stores := by
  simp [Chip.sinkEnd]

@[simp] theorem Chip.bufferSlot_stores (d : Bytes) : (b.bufferSlot d).stores = b.stores := by simp [Chip.bufferSlot]
@[simp] theorem Chip.drain_stores : b.drain.stores = b.stores := by simp [Chip.drain]

/-! ### DictRead -/

@[simp] theorem Chip.takeFree_stores (f : Nat → Nat) : (b.takeFree f).1.stores = b.stores := (rfl)
@[simp] theorem Chip.inputLevels_stores (k : Nat) : (b.inputLevels k).1.stores = b.stores := (rfl)
@[simp] theorem Chip.measuredNow_stores (w : Nat) (t : Tab Nat) (n : Nat) :
    (b.measuredNow w t n).1.stores = b.stores := by
  simp only [Chip.measuredNow]
  split <;> simp

@[simp] theorem Chip.temperature_stores (n : Nat) : (b.temperature n).1.stores = b.stores := by
  simp only [Chip.temperature]
  split <;> simp

/-! ### Sdo -/

@[simp] theorem Chip.openSegment_stores (o : Nat) (g : Segment) : (b.openSegment o g).stores = b.stores := (rfl)
@[simp] theorem Chip.abortSegment_stores (o code : Nat) : (b.abortSegment o code).stores = b.stores := by
  simp [Chip.abortSegment]

@[simp] theorem Chip.upSegment_stores (o : Nat) (toggle : Bool) : (b.upSegment o toggle).stores = b.stores := by
  simp only [Chip.upSegment]
  split <;> simp

@[simp] theorem Chip.sdoInfo_stores (o idx sub : Nat) : (b.sdoInfo o idx sub).stores = b.stores := by
  simp only [Chip.sdoInfo]
  split
  · simp
  · split <;> simp

/-! ### Mailboxes -/

@[simp] theorem Chip.portDoorbell_stores (h : Nat) (v : BitVec 32) : (b.portDoorbell h v).stores = b.stores := by
  simp [Chip.portDoorbell]

@[simp] theorem Chip.setMbox_stores (m : Mailbox) : (b.setMbox m).stores = b.stores := (rfl)
@[simp] theorem Chip.debugMailboxWrite_stores (offset : Nat) (v : BitVec 32) :
    (b.debugMailboxWrite offset v).stores = b.stores := by
  simp only [Chip.debugMailboxWrite]
  split
  · simp
  · split
    · split <;> simp
    · simp

@[simp] theorem Chip.shiftResult_stores : b.shiftResult.stores = b.stores := by simp [Chip.shiftResult]
@[simp] theorem Chip.dmResult_stores (status : Nat) (data : BitVec 32) : (b.dmResult status data).stores = b.stores :=
  (rfl)

@[simp] theorem Chip.dmScan_stores {f : Chip → Chip × BitVec 32} (h : ∀ b, (f b).1.stores = b.stores) (b : Chip)
    (offset : Nat) : (b.dmScan offset f).stores = b.stores := by
  simp [Chip.dmScan, h]

@[simp] theorem Chip.writeDma_stores (h c off v : Nat) : (b.writeDma h c off v).stores = b.stores := by
  simp only [Chip.writeDma]
  split <;> simp

@[simp] theorem Chip.setWindowBase_stores (h v : Nat) : (b.setWindowBase h v).stores = b.stores := (rfl)
@[simp] theorem Chip.writeBar0_stores (h offset v : Nat) : (b.writeBar0 h offset v).stores = b.stores := by
  simp [Chip.writeBar0]

@[simp] theorem Chip.writeEsc_stores (addr v : Nat) : (b.writeEsc addr v).stores = b.stores := by
  simp only [Chip.writeEsc]
  split
  · simp
  · split <;> simp

end

/-! ## Operations that write the stores -/

@[simp] theorem Stores.canonical_ite (p : Prop) [Decidable p] (x y : Stores) :
    (if p then x else y).Canonical ↔ if p then x.Canonical else y.Canonical := by split <;> rfl

@[simp] theorem Chip.forEach_canonical {f : Chip → Nat → Chip}
    (hf : ∀ b n, b.stores.Canonical → (f b n).stores.Canonical) (l : List Nat) {b : Chip} (h : b.stores.Canonical) :
    (b.forEach l f).stores.Canonical :=
  Chip.forEach_induct (P := fun b => b.stores.Canonical) hf l h

@[simp] theorem Chip.foldl_canonical {β : Type} {f : Chip → β → Chip}
    (hf : ∀ b x, b.stores.Canonical → (f b x).stores.Canonical) (l : List β) {b : Chip} (h : b.stores.Canonical) :
    (l.foldl f b).stores.Canonical :=
  List.foldlRecOn l f (motive := fun b => b.stores.Canonical) h fun b hb x _ => hf b x hb

/-- A write that succeeds leaves a canonical device. -/
def Res.Canonical (r : Res) : Prop := ∀ b, r = .ok b → b.stores.Canonical

@[simp] theorem Res.canonical_ok {b : Chip} : Res.Canonical (.ok b) ↔ b.stores.Canonical := by
  simp [Res.Canonical]

@[simp] theorem Res.canonical_error (a : Nat) : Res.Canonical (.error a) := by
  simp [Res.Canonical]

@[simp] theorem Res.canonical_ite (p : Prop) [Decidable p] (x y : Res) :
    Res.Canonical (if p then x else y) ↔ if p then Res.Canonical x else Res.Canonical y := by split <;> rfl

/-- An instruction that executes leaves a canonical device. -/
def Eff.Canonical (e : Eff) : Prop := ∀ b f, e = .ok (b, f) → b.stores.Canonical

@[simp] theorem Eff.canonical_ok {x : Chip × Flow} : Eff.Canonical (.ok x) ↔ x.1.stores.Canonical := by
  obtain ⟨b, f⟩ := x
  simp [Eff.Canonical]

@[simp] theorem Eff.canonical_error (a : Nat) : Eff.Canonical (.error a) := by
  simp [Eff.Canonical]

@[simp] theorem Eff.canonical_ite (p : Prop) [Decidable p] (x y : Eff) :
    Eff.Canonical (if p then x else y) ↔ if p then Eff.Canonical x else Eff.Canonical y := by split <;> rfl

/-! ### Access -/

@[simp] theorem Chip.request_canonical {b : Chip} (h : b.stores.Canonical) (q : Req) {f : Chip → Chip}
    (hf : ∀ b, b.stores.Canonical → (f b).stores.Canonical) : (b.request q f).stores.Canonical := by
  have h' := hf ((b.upTo q.t).closeSegment q.owner) (by simpa using h)
  simp [Chip.request, h, h']

@[simp] theorem Chip.finish_canonical {b : Chip} (h : b.stores.Canonical) (o : Nat) {r : Res} (hr : r.Canonical) :
    (b.finish o r).stores.Canonical := by
  cases r with
  | ok c => simpa [Chip.finish] using hr
  | error a => simpa [Chip.finish] using h

theorem Chip.writeEntry_canonical {b : Chip} (h : b.stores.Canonical) (o idx sub v : Nat) {eff : Chip → Res}
    (hf : ∀ b, b.stores.Canonical → (eff b).Canonical) : (b.writeEntry o idx sub v eff).Canonical := by
  simp only [Chip.writeEntry]
  split
  · exact hf b h
  · exact Res.canonical_error _

theorem Chip.writeRow_canonical {b : Chip} (h : b.stores.Canonical) (q : Req) (idx sub v : Nat) {eff : Chip → Res}
    (hf : ∀ b, b.stores.Canonical → (eff b).Canonical) : (b.writeRow q idx sub v eff).stores.Canonical :=
  Chip.request_canonical h q fun _ hb => Chip.finish_canonical hb _ (Chip.writeEntry_canonical hb _ _ _ _ hf)

@[simp] theorem Chip.serial_canonical {b : Chip} (h : b.stores.Canonical) (o idx n : Nat)
    {start : Chip → Nat → Chip}
    (hf : ∀ b o, b.stores.Canonical → (start b o).stores.Canonical) : (b.serial o idx n start).Canonical := by
  simp only [Chip.serial]
  split_ifs
  · simpa using h
  · exact Res.canonical_error _
  · exact Res.canonical_error _
  · exact Res.canonical_ok.2 (hf _ _ (by simpa using h))

@[simp] theorem Chip.storeParams_canonical {b : Chip} (h : b.stores.Canonical) (o idx : Nat)
    (l : List (Nat × Nat)) : (b.storeParams o idx l).1.stores.Canonical := by
  induction l generalizing b with
  | nil => exact h
  | cons x t ih =>
    obtain ⟨sub, v⟩ := x
    have h' := Chip.writeEntry_canonical h o idx sub v (eff := fun b => .ok (b.setReg idx sub v)) fun _ hb => by
      simpa using hb
    simp only [Chip.storeParams]
    split
    · next c hc => exact ih (h' c hc)
    · exact ih h

theorem wholeWrite_canonical {x : Chip × Option Nat} (h : x.1.stores.Canonical) {serial : Chip → Res}
    (hf : ∀ b, b.stores.Canonical → (serial b).Canonical) : (wholeWrite x serial).Canonical := by
  have h' := hf _ h
  simp only [wholeWrite]
  split
  · next c hc _ => exact Res.canonical_ok.2 (h' c hc)
  · exact Res.canonical_error _
  · exact Res.canonical_error _

theorem Chip.commandRow_canonical {b : Chip} (h : b.stores.Canonical) (q : Req) (idx n : Nat)
    (params : List (Nat × Nat))
    {start : Chip → Nat → Chip} (hf : ∀ b o, b.stores.Canonical → (start b o).stores.Canonical) :
    (b.commandRow q idx n params start).stores.Canonical :=
  Chip.request_canonical h q fun _ hb => Chip.finish_canonical hb _
    (wholeWrite_canonical (Chip.storeParams_canonical hb _ _ _) fun _ hb =>
      Chip.writeEntry_canonical hb _ _ _ _ fun _ hb => Chip.serial_canonical hb _ _ _ hf)

/-! ### Planes -/

/-- The streams of a loader are those staged and those of the commit. -/
theorem Loader.mem_streams {l : Loader} {s : Staged} :
    s ∈ l.streams ↔ s ∈ l.staged ∨ ∃ c, l.commit = some c ∧ s ∈ c.staged := by
  unfold Loader.streams
  rw [List.mem_append]
  cases l.commit <;> simp

theorem Chip.filterStaged_canonical {b : Chip} (h : b.stores.Canonical) (p : Staged → Bool) :
    ({ b with loader := { b.loader with staged := b.loader.staged.filter p } } : Chip).stores.Canonical := by
  refine { h with streams := fun s hs => h.streams s ?_ }
  exact Loader.mem_streams.2 ((Loader.mem_streams.1 hs).imp_left fun hs => (List.mem_filter.1 hs).1)

@[simp] theorem Chip.dropStaged_canonical {b : Chip} (h : b.stores.Canonical) (hit : Staged → Bool) :
    (b.dropStaged hit).stores.Canonical := by
  simp only [Chip.dropStaged, Chip.freeStandby_stores, Chip.rebuild_stores]
  exact Chip.filterStaged_canonical h _

/-- A commit that has taken no stream yet, or none, may stand in the loader. -/
theorem Chip.withCommit_canonical {b : Chip} (h : b.stores.Canonical) {c : Option Commit}
    (hc : ∀ x, c = some x → x.staged = [])
    (w : BitVec 8) : ({ b with loader := { b.loader with commit := c, bootWait := w } } : Chip).stores.Canonical := by
  refine { h with streams := fun s hs => h.streams s (Loader.mem_streams.2 (.inl ?_)) }
  rcases Loader.mem_streams.1 hs with hs | ⟨x, hx, hs⟩
  · exact hs
  · rw [hc x hx] at hs
    cases hs

@[simp] theorem Chip.bootCommit_canonical {b : Chip} (h : b.stores.Canonical) (parts : BitVec 8) :
    (b.bootCommit parts).stores.Canonical := by
  simp only [Chip.bootCommit]
  split
  · simpa using h
  · exact Chip.withCommit_canonical (b := b.beginCmd 0x2210 7) (by simpa using h) (fun _ hx => by cases hx; rfl) _

@[simp] theorem Chip.endCommit_canonical {b : Chip} (h : b.stores.Canonical) (st : Nat) (inj : Bool) :
    (b.endCommit st inj).stores.Canonical := by
  simp only [Chip.endCommit]
  split
  · exact h
  · have h' := Chip.withCommit_canonical h (c := none) (fun _ hx => by cases hx) b.loader.bootWait
    simp [h']

/-- The planes of the loader are in canonical form. -/
def Loader.PlanesWf (l : Loader) : Prop :=
  planeWf l.active ∧ planeWf l.activeRef ∧ planeWf l.staging ∧ planeWf l.stagingRef

theorem planeWf_copyRegion {dst src : List FrameRun} (r : Nat) (hd : planeWf dst) (hs : planeWf src) :
    planeWf (copyRegion dst src r) := (copyRegion_spec dst src r hd hs).1

/-- A loop that keeps the planes canonical and leaves the streams alone does so over all its rounds. -/
theorem Loader.foldl_planes {f : Loader → Nat → Loader} (hf : ∀ x r, x.PlanesWf → (f x r).PlanesWf)
    (hs : ∀ x r, (f x r).streams = x.streams) (l : List Nat) {x : Loader} (h : x.PlanesWf) :
    (l.foldl f x).PlanesWf ∧ (l.foldl f x).streams = x.streams :=
  List.foldlRecOn l f (motive := fun y => y.PlanesWf ∧ y.streams = x.streams) ⟨h, rfl⟩
    fun y hy r _ => ⟨hf y r hy.1, (hs y r).trans hy.2⟩

theorem Chip.withPlanes_canonical {b : Chip} (h : b.stores.Canonical) {l : Loader} (hp : l.PlanesWf)
    (hs : l.streams = b.loader.streams) : ({ b with loader := l } : Chip).stores.Canonical :=
  { h with active := hp.1, activeRef := hp.2.1, staging := hp.2.2.1, stagingRef := hp.2.2.2
           streams := fun s hm => h.streams s (hs ▸ hm : s ∈ b.loader.streams) }

@[simp] theorem Chip.commitCopy_canonical {b : Chip} (h : b.stores.Canonical) (c : Commit) :
    (b.commitCopy c).stores.Canonical := by
  simp only [Chip.commitCopy]
  rw [Chip.stores_forEach (fun b r => by simp), Chip.stores_forEach (fun b r => by simp)]
  have hp : b.loader.PlanesWf := ⟨h.active, h.activeRef, h.staging, h.stagingRef⟩
  obtain ⟨h1, s1⟩ := Loader.foldl_planes (f := fun (ld : Loader) r =>
      { ld with active := copyRegion ld.active ld.staging r, activeRef := copyRegion ld.activeRef ld.stagingRef r })
    (fun x r ⟨ha, har, hs, hsr⟩ => ⟨planeWf_copyRegion r ha hs, planeWf_copyRegion r har hsr, hs, hsr⟩)
    (fun _ _ => rfl)
    (bitsOf c.regions.toNat 32) hp
  obtain ⟨h2, s2⟩ := Loader.foldl_planes (f := fun (ld : Loader) r =>
      { ld with active := copyRegion ld.active [] r, activeRef := copyRegion ld.activeRef [] r,
                staging := copyRegion ld.staging [] r, stagingRef := copyRegion ld.stagingRef [] r })
    (fun x r ⟨ha, har, hs, hsr⟩ => ⟨planeWf_copyRegion r ha planeWf_nil, planeWf_copyRegion r har planeWf_nil,
      planeWf_copyRegion r hs planeWf_nil, planeWf_copyRegion r hsr planeWf_nil⟩) (fun _ _ => rfl)
    (bitsOf c.removed.toNat 32) h1
  exact Chip.withPlanes_canonical h h2 (s2.trans s1)

@[simp] theorem Chip.commitInstant_canonical {b : Chip} (h : b.stores.Canonical) (c : Commit) (broken : Bool) :
    (b.commitInstant c broken).stores.Canonical := by
  simp only [Chip.commitInstant]
  refine Chip.filterStaged_canonical ?_ _
  simp only [Chip.stores_ite, Chip.setReg_stores, ite_self]
  refine Chip.foldl_canonical (fun b s hb => Chip.foldl_canonical (fun b x hb => ?_) _ hb) _
    (Chip.forEach_canonical (fun b r hb => ?_) _ (by simpa using h))
  · rw [Chip.stores_forEach fun b r => by simp]
    simpa using hb
  · simpa using hb

/-! ### Faults -/

@[simp] theorem Chip.commitInSafe_canonical {b : Chip} (h : b.stores.Canonical) :
    b.commitInSafe.stores.Canonical := by
  simp only [Chip.commitInSafe]
  split
  · exact h
  · next c _ =>
    have h1 : (if c.phase = 1 then (b.commitAssert c).commitCopy c else b).stores.Canonical := by simp [h]
    have h2 : ∀ d : Chip, d.stores.Canonical → (if c.phase ≤ 2 then d.commitInstant c true else d).stores.Canonical :=
      fun d hd => by simp [hd]
    split
    · simp [h]
    · refine Chip.endCommit_canonical ?_ _ _
      simpa using h2 _ h1

@[simp] theorem Ecat.forcedFall_sii (e : Ecat) (closing : Bool) : (e.forcedFall closing).sii = e.sii := by
  unfold Ecat.forcedFall
  split
  · split <;> rfl
  · split <;> rfl
  · rfl

@[simp] theorem Chip.stopForSafe_canonical {b : Chip} (h : b.stores.Canonical) :
    b.stopForSafe.stores.Canonical := by
  simp only [Chip.stopForSafe]
  rw [Chip.stores_mk_ecat (h := Ecat.forcedFall_sii _ _), Chip.stopDma_stores]
  refine Chip.dropStaged_canonical ?_ _
  simpa using Chip.commitInSafe_canonical h

@[simp] theorem Chip.chipFault_canonical {b : Chip} (h : b.stores.Canonical) (e : Ev) :
    (b.chipFault e).stores.Canonical := by
  simp only [Chip.chipFault]
  split <;> simp [h]

@[simp] theorem Chip.powerDown_canonical {b : Chip} (h : b.stores.Canonical) (st : DeviceState)
    (power : BitVec 20) : (b.powerDown st power).stores.Canonical :=
  ⟨rfl, rfl, rfl, rfl, rfl, h.sii, rfl, planeWf_nil, planeWf_nil, planeWf_nil, planeWf_nil, List.forall_mem_nil _⟩

/-! ### Hub -/

@[simp] theorem Chip.undefineDram_canonical {b : Chip} (h : b.stores.Canonical) : b.undefineDram.stores.Canonical :=
  { h with dram := rfl }

@[simp] theorem Chip.layFill_canonical {b : Chip} (h : b.stores.Canonical) (x : Fill) :
    (b.layFill x).stores.Canonical :=
  { h with dram := Tab.sorted_filter _ _ h.dram }

@[simp] theorem Chip.fillRange_canonical {b : Chip} (h : b.stores.Canonical) (lo hi : Nat) (channel : Option Nat)
    (zero : Bool) : (b.fillRange lo hi channel zero).stores.Canonical := by
  simp [Chip.fillRange, h]

@[simp] theorem Chip.freshSpan_canonical {b : Chip} (h : b.stores.Canonical) (x : MetaSpan) :
    (b.freshSpan x).stores.Canonical := by
  simp [Chip.freshSpan, h]

@[simp] theorem Chip.dramStore_canonical {b : Chip} (h : b.stores.Canonical) (a : Nat) (v : Byte) :
    (b.dramStore a v).stores.Canonical :=
  { h with dram := b.dramStore_wf a v h.dram }

@[simp] theorem Chip.dramWrite_canonical {b : Chip} (h : b.stores.Canonical) (a : Nat) (mask : Nat → Bool)
    (d : Bytes) : (b.dramWrite a mask d).stores.Canonical :=
  List.foldlRecOn _ _ (motive := fun c : Chip => c.stores.Canonical) h fun c hc x _ => by simp [hc]

@[simp] theorem Hub.useSet_mem (x : Hub) (rate : Nat) : (x.useSet rate).mem = x.mem := by
  simp only [Hub.useSet]
  split
  · rfl
  · split <;> rfl

@[simp] theorem Chip.formSet_canonical {b : Chip} (h : b.stores.Canonical) : b.formSet.stores.Canonical := by
  simp only [Chip.formSet, Chip.setDramOk_stores]
  refine Chip.undefineDram_canonical ?_
  simpa using h

@[simp] theorem Chip.startTraining_canonical {b : Chip} (h : b.stores.Canonical) (l : List Dimm) :
    (b.startTraining l).stores.Canonical := by
  simp [Chip.startTraining, h]

/-! ### Injections -/

@[simp] theorem Chip.undoFrame_canonical {b : Chip} (h : b.stores.Canonical) (code n : Nat) :
    (b.undoFrame code n).stores.Canonical :=
  { h with
    active := planeWf_runPut _ _ _ _ h.active
    staging := by
      show planeWf (if code = 3 then _ else _)
      split
      · exact planeWf_runPut _ _ _ _ h.staging
      · exact h.staging }

@[simp] theorem Chip.undoInjection_canonical {b : Chip} (h : b.stores.Canonical) (a : Armed) :
    (b.undoInjection a).stores.Canonical := by
  simp [Chip.undoInjection, h]

@[simp] theorem Chip.disableInjection_canonical {b : Chip} (h : b.stores.Canonical) :
    b.disableInjection.stores.Canonical := by
  simp only [Chip.disableInjection, Chip.clearRegs_stores]
  change (b.inject.armed.foldl Chip.undoInjection b).stores.Canonical
  exact Chip.foldl_canonical (fun b a hb => Chip.undoInjection_canonical hb a) _ h

/-! ### Power -/

@[simp] theorem Chip.enterBoot_canonical {b : Chip} (h : b.stores.Canonical) (mode : BitVec 3) (refClk : Bool) :
    (b.enterBoot mode refClk).stores.Canonical := by
  simp [Chip.enterBoot, h]

@[simp] theorem Chip.enterStandby_canonical {b : Chip} (h : b.stores.Canonical) (gate mainEn : Bool) :
    (b.enterStandby gate mainEn).stores.Canonical := by
  simp [Chip.enterStandby, h]

@[simp] theorem Chip.p00Good_canonical {b : Chip} (h : b.stores.Canonical) : b.p00Good.stores.Canonical := by
  simp [Chip.p00Good, h]

@[simp] theorem Chip.p00Fail_canonical {b : Chip} (h : b.stores.Canonical) : b.p00Fail.stores.Canonical := by
  simp [Chip.p00Fail, h]

@[simp] theorem Chip.mainGoodEvent_canonical {b : Chip} (h : b.stores.Canonical) (mode : BitVec 3) (refClk : Bool) :
    (b.mainGoodEvent mode refClk).stores.Canonical := by
  simp [Chip.mainGoodEvent, h]

@[simp] theorem Chip.mainLost_canonical {b : Chip} (h : b.stores.Canonical) : b.mainLost.stores.Canonical := by
  simp only [Chip.mainLost]
  split <;> simp [h]

@[simp] theorem Chip.railCollapse_canonical {b : Chip} (h : b.stores.Canonical) (rails : BitVec 5) :
    (b.railCollapse rails).stores.Canonical := by
  simp only [Chip.railCollapse]
  split <;> simp [h]

@[simp] theorem Chip.wake_canonical {b : Chip} (h : b.stores.Canonical) (mode : BitVec 3) (refClk : Bool) :
    (b.wake mode refClk).stores.Canonical := by
  simp [Chip.wake, h]

@[simp] theorem Chip.readyAtEntry_canonical {b : Chip} (h : b.stores.Canonical) (dimms : List Dimm) (skip : Nat) :
    (b.readyAtEntry dimms skip).stores.Canonical := by
  simp [Chip.readyAtEntry, h]

@[simp] theorem Chip.enterReduced_canonical {b : Chip} (h : b.stores.Canonical) (vcco : List Nat)
    (dimms : List Dimm) : (b.enterReduced vcco dimms).stores.Canonical := by
  simp [Chip.enterReduced, h]

@[simp] theorem Chip.voltageFault_canonical {b : Chip} (h : b.stores.Canonical) (d mV : Nat) (inj : Bool) :
    (b.voltageFault d mV inj).stores.Canonical := by
  simp [Chip.voltageFault, h]

@[simp] theorem Chip.clockLost_canonical {b : Chip} (h : b.stores.Canonical) (c kHz : Nat) (inj : Bool) :
    (b.clockLost c kHz inj).stores.Canonical := by
  simp [Chip.clockLost, h]

@[simp] theorem Chip.enterClosing_canonical {b : Chip} (h : b.stores.Canonical) :
    b.enterClosing.stores.Canonical := by
  have hk : ∀ (c : Chip) d x, x.mem = c.hub.mem →
      ({ c with dev := d, hub := x, ecat := c.ecat.forcedFall true } : Chip).stores = c.stores := fun c d x hx => by
    simp [Chip.stores, hx]
  simp only [Chip.enterClosing, Chip.powerOff_stores]
  rw [hk]
  · simp [h]
  · rfl

@[simp] theorem Chip.startShutdown_canonical {b : Chip} (h : b.stores.Canonical) (o : Nat) :
    (b.startShutdown o).stores.Canonical := by
  simp [Chip.startShutdown, h]

@[simp] theorem Chip.startRecover_canonical {b : Chip} (h : b.stores.Canonical) (o : Nat) :
    (b.startRecover o).stores.Canonical := by
  simp only [Chip.startRecover]
  split
  · simpa using h
  · split
    · simpa using h
    · rw [Chip.tryFull_stores, Chip.setStatus_stores, Chip.clearRegs_stores]
      refine Chip.disableInjection_canonical ?_
      rw [Chip.changeState_stores, Chip.measureBanks_stores, Chip.clearSession_stores, Chip.stores_forEach]
      · simpa using h
      · intro b r
        split
        · simp
        · split <;> simp

@[simp] theorem Chip.startDevice_canonical {b : Chip} (h : b.stores.Canonical) (o : Nat) :
    (b.startDevice o).stores.Canonical := by
  simp only [Chip.startDevice]
  split <;> simp [h]

/-! ### Banks -/

@[simp] theorem Chip.setBankMode_canonical {b : Chip} (h : b.stores.Canonical) (k v : Nat) :
    Res.Canonical (b.setBankMode k v) := by
  simp only [Chip.setBankMode]
  split <;> simp [h]

@[simp] theorem Chip.setVoltage_canonical {b : Chip} (h : b.stores.Canonical) (k v : Nat) :
    Res.Canonical (b.setVoltage k v) := by
  simp [Chip.setVoltage, h]

@[simp] theorem Chip.setDirect_canonical {b : Chip} (h : b.stores.Canonical) (k : Nat) (level : Bool)
    (v : BitVec 64) : Res.Canonical (b.setDirect k level v) := by
  simp [Chip.setDirect, h]

@[simp] theorem Chip.setPattern_canonical {b : Chip} (h : b.stores.Canonical) (k v : Nat) :
    Res.Canonical (b.setPattern k v) := by
  simp [Chip.setPattern, h]

/-! ### Belfry -/

@[simp] theorem Chip.stepTo_canonical {b : Chip} (h : b.stores.Canonical) (n : Nat) (inj : Bool) :
    (b.stepTo n inj).stores.Canonical := by
  simp [Chip.stepTo, h]

@[simp] theorem Chip.measure_canonical {b : Chip} (h : b.stores.Canonical) (x : Int) (T : Chip → Nat) :
    (b.measure x T).stores.Canonical := by
  simp [Chip.measure, h]

@[simp] theorem Chip.dcMeasure_canonical {b : Chip} (h : b.stores.Canonical) (x : Int) :
    (b.dcMeasure x).stores.Canonical := by
  simp [Chip.dcMeasure, h]

@[simp] theorem Chip.ppsEdge_canonical {b : Chip} (h : b.stores.Canonical) (fine : Nat) :
    (b.ppsEdge fine).stores.Canonical := by
  simp [Chip.ppsEdge, h]

@[simp] theorem Chip.correction_canonical {b : Chip} (h : b.stores.Canonical) (n : Nat) :
    (b.correction n).stores.Canonical := by
  simp [Chip.correction, h]

@[simp] theorem Chip.startStep_canonical {b : Chip} (h : b.stores.Canonical) (o : Nat) :
    (b.startStep o).stores.Canonical := by
  simp [Chip.startStep, h]

/-! ### Islands -/

@[simp] theorem Chip.standbyFailed_canonical {b : Chip} (h : b.stores.Canonical) (r : Nat) (inj : Bool) :
    (b.standbyFailed r inj).stores.Canonical := by
  simp only [Chip.standbyFailed]
  split
  · simp [h]
  · split <;> simp [h]
  · simp [h]

@[simp] theorem Chip.standbyLocked_canonical {b : Chip} (h : b.stores.Canonical) (r : Nat) :
    (b.standbyLocked r).stores.Canonical := by
  simp only [Chip.standbyLocked]
  split <;> simp [h]

/-! ### Memories -/

@[simp] theorem Chip.bmStore_canonical {b : Chip} (h : b.stores.Canonical) (k : Nat) (d : BitVec 40) :
    (b.bmStore k d).stores.Canonical := by
  have h' : (b.noteWritten (.bm (bmSelOf k)) k).stores.Canonical := by simpa using h
  simp only [Chip.bmStore, Chip.unarmAt_stores]
  exact { h' with bm := Mem.wf_set _ _ _ h'.bm }

@[simp] theorem Chip.bmUndo_canonical {b : Chip} (h : b.stores.Canonical) (k : Nat) (x : BmAccess) :
    (b.bmUndo k x).stores.Canonical :=
  { h with bm := Mem.wf_set _ _ _ h.bm }

/-- A read of the word as it was keeps the stored words. -/
@[simp] theorem Chip.bmWithOld_canonical {b : Chip} (h : b.stores.Canonical) (k : Nat) (y : BmAccess)
    {f : Chip → Chip × BitVec 40 × Bool × Bool} (hf : ∀ b, (f b).1.stores = b.stores) :
    (b.bmWithOld k y f).1.stores.Canonical := by
  have h' : (f (b.bmUndo k y)).1.stores.Canonical := by simp [hf, h]
  exact { h' with bm := h.bm }

@[simp] theorem Chip.maintLoses_canonical {b : Chip} (h : b.stores.Canonical) (u k addr c : Nat) :
    (b.maintLoses u k addr c).stores.Canonical := by
  simp only [Chip.maintLoses]
  split <;> simp [h]

@[simp] theorem Chip.bmPortRead_canonical {b : Chip} (h : b.stores.Canonical) (m : BmSel) (p : BmPort)
    (addr c : Nat) (spoiled : Bool) : (b.bmPortRead m p addr c spoiled).stores.Canonical := by
  simp only [Chip.bmPortRead]
  split <;> simp [h]

@[simp] theorem Chip.bmPortWrite_canonical {b : Chip} (h : b.stores.Canonical) (m : BmSel) (p : BmPort)
    (addr c : Nat) (d : BitVec 40) : (b.bmPortWrite m p addr c d).stores.Canonical := by
  simp only [Chip.bmPortWrite]
  split <;> simp [h]

@[simp] theorem Chip.bmPortRmw_canonical {b : Chip} (h : b.stores.Canonical) (m : BmSel) (p : BmPort) (addr c : Nat)
    (op : BmOp) (mask : BitVec 40) : (b.bmPortRmw m p addr c op mask).stores.Canonical := by
  simp only [Chip.bmPortRmw]
  split <;> simp [h]

theorem Chip.bmAccess_canonical {b : Chip} (h : b.stores.Canonical) (m : BmSel) (p : BmPort) {f : Chip → Nat → Chip}
    (hf : ∀ b c, b.stores.Canonical → (f b c).stores.Canonical) : (b.bmAccess m p f).stores.Canonical := by
  have h' := hf b (b.bmCycle m) h
  simp [Chip.bmAccess, h, h']

@[simp] theorem Chip.spStore_canonical {b : Chip} (h : b.stores.Canonical) (k : Nat) (lanes : BitVec 4)
    (d : BitVec 256) : (b.spStore k lanes d).stores.Canonical := by
  have h' : (b.noteWritten (.spBank (k / 65536) (k % 16)) k).stores.Canonical := by simpa using h
  simp only [Chip.spStore, Chip.stores_ite, Chip.unarmAt_stores, ite_self]
  exact { h' with sp := Mem.wf_set _ _ _ h'.sp }

@[simp] theorem Chip.spServe_canonical {b : Chip} (h : b.stores.Canonical) (r : Nat) (a : SpAccess) (c : Nat) :
    (b.spServe r a c).stores.Canonical := by
  simp [Chip.spServe, h]

@[simp] theorem Chip.spUndo_canonical {b : Chip} (h : b.stores.Canonical) (r : Nat) (a : SpAccess) (c : Nat)
    (old : BitVec 256)
    (oe : BitVec 288 × Bool) : (b.spUndo r a c old oe).stores.Canonical := by
  simp only [Chip.spUndo]
  split
  · exact { h with sp := Mem.wf_set _ _ _ h.sp }
  · simp [h]

@[simp] theorem Chip.spCompete_canonical {b : Chip} (h : b.stores.Canonical) (r : Nat) (a : SpAccess) (c : Nat) :
    (b.spCompete r a c).stores.Canonical := by
  simp only [Chip.spCompete]
  split <;> simp [h]

@[simp] theorem Chip.spPresent_canonical {b : Chip} (h : b.stores.Canonical) (r port addr : Nat) (we : Bool)
    (lanes : BitVec 4) (data : BitVec 256) (sched : Bool) :
    (b.spPresent r port addr we lanes data sched).stores.Canonical := by
  simp [Chip.spPresent, h]

@[simp] theorem Chip.spRetry_canonical {b : Chip} (h : b.stores.Canonical) (r port : Nat) :
    (b.spRetry r port).stores.Canonical := by
  simp only [Chip.spRetry]
  split <;> simp [h]

@[simp] theorem Chip.spRun_canonical {b : Chip} (h : b.stores.Canonical) (r : Nat) (a : SpAccess) :
    (b.spRun r a).stores.Canonical := by
  simp [Chip.spRun, h]

@[simp] theorem Chip.spTogether_canonical {b : Chip} (h : b.stores.Canonical) (r : Nat) (a : SpAccess)
    (l : List Instr) : (b.spTogether r a l).stores.Canonical :=
  Chip.spRun_canonical (Chip.foldl_canonical (fun _ y hb => Chip.spRun_canonical hb r y) _ h) r a

@[simp] theorem Chip.bmRepair_canonical {b : Chip} (h : b.stores.Canonical) (k : Nat) :
    (b.bmRepair k).stores.Canonical := by
  simp only [Chip.bmRepair]
  split
  · exact { h with bm := Mem.wf_set _ _ _ h.bm }
  · exact h

@[simp] theorem Chip.bmMaint_canonical {b : Chip} (h : b.stores.Canonical) {f : Chip → Chip}
    (hf : ∀ b, b.stores.Canonical → (f b).stores.Canonical) (m : BmSel) (k : Nat) (op : BmOp) :
    (b.bmMaint m k op f).stores.Canonical := by
  simpa [Chip.bmMaint] using hf b h

@[simp] theorem Chip.bmMaintWrite_canonical {b : Chip} (h : b.stores.Canonical) {f : Chip → Chip}
    (hf : ∀ b, b.stores.Canonical → (f b).stores.Canonical) (m : BmSel) (k : Nat) :
    (b.bmMaintWrite m k f).stores.Canonical := by
  have h' := Chip.bmMaint_canonical h hf m k .write
  have h'' := Chip.bmMaint_canonical (b := b.readSpoiled (bmKey m.r m.b m.m) k .a (b.bmCycle m)) (by simpa using h) hf
    m k .write
  simp only [Chip.bmMaintWrite]
  split
  · simp [h, h', h'']
  · exact h'

@[simp] theorem Chip.demandBack_canonical {b : Chip} (h : b.stores.Canonical) (u : MemUnit) :
    (b.demandBack u).stores.Canonical := by
  have hr : ∀ m w, (b.bmMaintWrite m w fun b => b.bmRepair w).stores.Canonical := fun m w =>
    Chip.bmMaintWrite_canonical h (fun _ hb => Chip.bmRepair_canonical hb w) m w
  simp only [Chip.demandBack]
  split
  · split
    · simp [h, hr]
    · exact h
  · split <;> simp [h]
  · exact h

@[simp] theorem Chip.writeWords_canonical {b : Chip} (h : b.stores.Canonical) (r a w : Nat) (d : Bytes) (n : Nat) :
    (b.writeWords r a w d n).stores.Canonical := by
  induction n generalizing b a d with
  | zero => exact h
  | succ n ih =>
    have hw : ∀ m k v, ((b.awaitMaintenance r a).bmMaintWrite m k fun b => b.bmStore k v).stores.Canonical :=
      fun m k v => Chip.bmMaintWrite_canonical (by simpa using h) (fun _ hb => Chip.bmStore_canonical hb k v) m k
    rw [Chip.writeWords]
    refine ih ?_ _ _
    simp [h, hw]

@[simp] theorem Chip.memoryWrite_canonical {b : Chip} (h : b.stores.Canonical) (r : Nat) (d : Bytes) :
    (b.memoryWrite r d).1.stores.Canonical := by
  simp only [Chip.memoryWrite]
  split
  · split_ifs <;> simp [h]
  · simp [h]

theorem Chip.readRow_canonical {b : Chip} (h : b.stores.Canonical) (q : Req) (idx sub : Nat)
    {f : Chip → Chip × Except Nat Bytes}
    (hf : ∀ b, b.stores.Canonical → (f b).1.stores.Canonical) : (b.readRow q idx sub f).stores.Canonical := by
  refine Chip.request_canonical h q fun b hb => ?_
  split
  · simpa using hb
  · split
    · simpa using hb
    · split
      · have h' := hf b hb
        generalize f b = x at h' ⊢
        obtain ⟨c, _ | _⟩ := x <;> simpa using h'
      · simpa using hb

theorem Chip.writeBytesRow_canonical {b : Chip} (h : b.stores.Canonical) (q : Req) (idx sub : Nat) (d : Bytes)
    {f : Chip → Chip × Except Nat Unit} (hf : ∀ b, b.stores.Canonical → (f b).1.stores.Canonical) :
    (b.writeBytesRow q idx sub d f).stores.Canonical := by
  refine Chip.request_canonical h q fun b hb => ?_
  split
  · simpa using hb
  · have h' := hf b hb
    generalize f b = x at h' ⊢
    obtain ⟨c, _ | _⟩ := x <;> simpa using h'

@[simp] theorem Chip.clearGroups_canonical {b : Chip} (h : b.stores.Canonical) (r : Nat) :
    (b.clearGroups r).stores.Canonical :=
  { h with im := Mem.wf_clear _ _ _ h.im, cm := Mem.wf_clear _ _ _ h.cm, ds := Mem.wf_clear _ _ _ h.ds }

@[simp] theorem Chip.clearEnd_canonical {b : Chip} (h : b.stores.Canonical) (r : Nat) :
    (b.clearEnd r).stores.Canonical := by
  simp only [Chip.clearEnd]
  split
  · simp only [Chip.modRegion_stores, Chip.clearRegs_stores, Chip.stores_mk]
    refine Chip.clearGroups_canonical ?_ r
    exact { h with bm := Mem.wf_clear _ _ _ h.bm, sp := Mem.wf_clear _ _ _ h.sp }
  · exact h

/-! ### GroupMem -/

@[simp] theorem Chip.imStore_canonical {b : Chip} (h : b.stores.Canonical) (g : Grp) (i : Nat) (v : BitVec 64) :
    (b.imStore g i v).stores.Canonical := by
  have h' : (b.gmClean g 0 i (imUnit g)).stores.Canonical := by simpa using h
  exact { h' with im := Mem.wf_set _ _ _ h'.im }

@[simp] theorem Chip.cmStore_canonical {b : Chip} (h : b.stores.Canonical) (g : Grp) (i c : Nat) (v : BitVec 32) :
    (b.cmStore g i c v).stores.Canonical := by
  have h' : (b.gmClean g 1 i (cmUnit g)).stores.Canonical := by simpa using h
  exact { h' with cm := Mem.wf_set _ _ _ h'.cm }

@[simp] theorem Chip.dsStore_canonical {b : Chip} (h : b.stores.Canonical) (g : Grp) (i c : Nat) (v : BitVec 16) :
    (b.dsStore g i c v).stores.Canonical := by
  have h' : (b.gmClean g 2 i (dsUnit g)).stores.Canonical := by simpa using h
  exact { h' with ds := Mem.wf_set _ _ _ h'.ds }

@[simp] theorem Chip.asOf_canonical {b : Chip} (h : b.stores.Canonical) (t : Nat) {f : Chip → Chip}
    (hf : ∀ b, b.stores.Canonical → (f b).stores.Canonical) : (b.asOf t f).stores.Canonical := by
  simpa [Chip.asOf] using hf { b with belfry := { b.belfry with tick := t } } (by simpa using h)

@[simp] theorem Chip.cmTake_canonical {b : Chip} (h : b.stores.Canonical) (g : Grp) (a : CmAccess) (c : Nat) :
    (b.cmTake g a c).stores.Canonical := by
  simp only [Chip.cmTake]
  split
  · exact Chip.forEach_canonical (fun _ e hb => Chip.cmStore_canonical hb _ _ _ _) _ (by simpa using h)
  · simp [h]

@[simp] theorem Chip.cmSettle_canonical {b : Chip} (h : b.stores.Canonical) (g : Grp) (c : Nat) :
    (b.cmSettle g c).stores.Canonical := by
  simp only [Chip.cmSettle]
  split
  · exact h
  · split
    · exact Chip.asOf_canonical h _ fun _ hb => Chip.cmTake_canonical hb _ _ _
    · simp [h]

@[simp] theorem Chip.settleGroup_canonical {b : Chip} (h : b.stores.Canonical) (g : Grp) :
    (b.settleGroup g).stores.Canonical := by
  simp only [Chip.settleGroup]
  split <;> simp [h]

@[simp] theorem Chip.cmPresent_canonical {b : Chip} (h : b.stores.Canonical) (g : Grp) (we : Bool) (row : Nat)
    (data : BitVec 256) (later : Bool) : (b.cmPresent g we row data later).stores.Canonical := by
  simp [Chip.cmPresent, h]

@[simp] theorem Chip.dsRead_canonical {b : Chip} (h : b.stores.Canonical) (g : Grp) (addr : Nat) :
    (b.dsRead g addr).stores.Canonical := by
  simp [Chip.dsRead, h]

@[simp] theorem Chip.imWrite_canonical {b : Chip} (h : b.stores.Canonical) (g : Grp) (addr : Nat) (data : BitVec 64) :
    (b.imWrite g addr data).stores.Canonical := by
  simp [Chip.imWrite, h]

@[simp] theorem Chip.gmDemand_canonical {b : Chip} (h : b.stores.Canonical) (g : Grp) (space : Nat) :
    (b.gmDemand g space).stores.Canonical := by
  simp only [Chip.gmDemand]
  split <;> simp [h]

@[simp] theorem Chip.demandWriteBack_canonical {b : Chip} (h : b.stores.Canonical) (u : MemUnit) :
    (b.demandWriteBack u).stores.Canonical := by
  simp only [Chip.demandWriteBack]
  split <;> simp [h]

@[simp] theorem Chip.awaitGroup_canonical {b : Chip} (h : b.stores.Canonical) (g : Grp) (space : Nat) :
    (b.awaitGroup g space).stores.Canonical := by
  simp [Chip.awaitGroup, h]

@[simp] theorem Chip.gmReadUnits_canonical {b : Chip} (h : b.stores.Canonical) (g : Grp) (space i n : Nat) :
    (b.gmReadUnits g space i n).1.stores.Canonical := by
  induction n generalizing b i with
  | zero => exact h
  | succ n ih =>
    have h1 : (((b.awaitGroup g space).gmMaint g space).gmMeet g space i 0xFF).1.stores.Canonical := by simp [h]
    rw [Chip.gmReadUnits]
    generalize ((b.awaitGroup g space).gmMaint g space).gmMeet g space i 0xFF = x at h1 ⊢
    obtain ⟨c, _, _ | _⟩ := x
    · have h2 := ih h1 (i + 1)
      dsimp only
      generalize c.gmReadUnits g space (i + 1) n = y at h2 ⊢
      obtain ⟨d, _ | _⟩ := y <;> exact h2
    · exact h1

@[simp] theorem Chip.groupRead_canonical {b : Chip} (h : b.stores.Canonical) (o r : Nat) :
    (b.groupRead o r).1.stores.Canonical := by
  have h1 := Chip.gmReadUnits_canonical h (gmGroup r (b.reg (0x2500 + r) 0x33)) (gmSpace (b.reg (0x2500 + r) 0x33))
    (gmIndex (b.reg (0x2500 + r) 0x33)) (b.reg (0x2500 + r) 0x35)
  simp only [Chip.groupRead]
  split
  · generalize b.gmReadUnits _ _ _ _ = x at h1 ⊢
    obtain ⟨c, _ | _⟩ := x
    · exact h1
    · simpa using h1
  · simp [h]

@[simp] theorem Chip.gmStore_canonical {b : Chip} (h : b.stores.Canonical) (g : Grp) (space i v : Nat) :
    (b.gmStore g space i v).stores.Canonical := by
  simp only [Chip.gmStore]
  split <;> simp [h]

@[simp] theorem Chip.gmWriteUnits_canonical {b : Chip} (h : b.stores.Canonical) (g : Grp) (space i : Nat)
    (d : Bytes) (n : Nat) : (b.gmWriteUnits g space i d n).stores.Canonical := by
  induction n generalizing b i d with
  | zero => exact h
  | succ n ih => exact ih (Chip.gmStore_canonical (by simp [h]) _ _ _ _) _ _

@[simp] theorem Chip.groupWrite_canonical {b : Chip} (h : b.stores.Canonical) (r : Nat) (d : Bytes) :
    (b.groupWrite r d).1.stores.Canonical := by
  simp only [Chip.groupWrite]
  split
  · split_ifs <;> simp [h]
  · simp [h]

/-! ### Sequencer -/

@[simp] theorem Chip.assertEvent_canonical {b : Chip} (h : b.stores.Canonical) (g : Grp) (n : Nat) :
    (b.assertEvent g n).stores.Canonical := by
  simp [Chip.assertEvent, h]

@[simp] theorem Chip.enterEvent_canonical {b : Chip} (h : b.stores.Canonical) (g : Grp) :
    (b.enterEvent g).stores.Canonical := by
  simp [Chip.enterEvent, h]

@[simp] theorem Chip.overrunSeen_canonical {b : Chip} (h : b.stores.Canonical) (g : Grp) (ev : Nat) :
    (b.overrunSeen g ev).stores.Canonical := by
  simp only [Chip.overrunSeen]
  split <;> simp [h]

@[simp] theorem Chip.startGroup_canonical {b : Chip} (h : b.stores.Canonical) (g : Grp) :
    (b.startGroup g).stores.Canonical := by
  simp [Chip.startGroup, h]

@[simp] theorem Chip.stopGroup_canonical {b : Chip} (h : b.stores.Canonical) (g : Grp) :
    (b.stopGroup g).stores.Canonical := by
  simp [Chip.stopGroup, h]

@[simp] theorem Chip.startMask_canonical {b : Chip} (h : b.stores.Canonical) (r : Nat) (mask : BitVec 64) :
    (b.startMask r mask).stores.Canonical :=
  Chip.foldl_canonical (fun _ g hb => Chip.startGroup_canonical hb g) _ h

@[simp] theorem Chip.stopMask_canonical {b : Chip} (h : b.stores.Canonical) (r : Nat) (mask : BitVec 64) :
    (b.stopMask r mask).stores.Canonical :=
  Chip.foldl_canonical (fun _ g hb => Chip.stopGroup_canonical hb g) _ h

@[simp] theorem Chip.clearFlagMask_canonical {b : Chip} (h : b.stores.Canonical) (r : Nat) (mask : BitVec 64) :
    (b.clearFlagMask r mask).stores.Canonical :=
  Chip.foldl_canonical (fun _ g hb => by simp [hb]) _ h

@[simp] theorem Chip.issueAt_canonical {b : Chip} (h : b.stores.Canonical) (g : Grp) (x : Issue) (op c : Nat)
    {f : Chip → Ctx → Eff} (hf : ∀ b k, b.stores.Canonical → (f b k).Canonical) :
    (b.issueAt g x op c f).stores.Canonical := by
  simp only [Chip.issueAt]
  split
  · simpa using h
  have h1 : (b.fetchMeet g).1.stores.Canonical := by simpa using h
  generalize b.fetchMeet g = y at h1 ⊢
  obtain ⟨b1, err⟩ := y
  dsimp only at h1 ⊢
  iterate 4
    split
    · simpa using h1
  split
  · simpa using h1
  have h2 : (b1.gmMeetAll g 1 (operandReads (b1.group g).regs (b1.imWord g (b.group g).pc))).1.stores.Canonical := by
    simpa using h1
  generalize b1.gmMeetAll g 1 _ = y at h2 ⊢
  obtain ⟨b2, _, err'⟩ := y
  dsimp only at h2 ⊢
  split
  · exact h2
  split
  · next d fl hd => simpa using hf b2 _ h2 d fl hd
  · simpa using h2

@[simp] theorem Chip.toIssue_canonical {b : Chip} (h : b.stores.Canonical) (g : Grp) :
    (b.toIssue g).stores.Canonical := by
  simp [Chip.toIssue, h]

@[simp] theorem Chip.issue_canonical {b : Chip} (h : b.stores.Canonical) (g : Grp) (x : Issue) (op : Nat)
    {f : Chip → Ctx → Eff} (hf : ∀ b k, b.stores.Canonical → (f b k).Canonical) :
    (b.issue g x op f).stores.Canonical := by
  simp only [Chip.issue]
  split
  · exact Chip.issueAt_canonical (by simp [h]) _ _ _ _ hf
  · simp [h]

@[simp] theorem djnzEff_canonical {b : Chip} (h : b.stores.Canonical) (k : Ctx) : Eff.Canonical (djnzEff b k) := by
  simp [djnzEff, h]

@[simp] theorem loopEff_canonical {b : Chip} (h : b.stores.Canonical) (k : Ctx) : Eff.Canonical (loopEff b k) := by
  simp [loopEff, h]

@[simp] theorem repEff_canonical {b : Chip} (h : b.stores.Canonical) (k : Ctx) : Eff.Canonical (repEff b k) := by
  simp only [repEff]
  split <;> simp [h]

@[simp] theorem clrfEff_canonical {b : Chip} (h : b.stores.Canonical) (k : Ctx) : Eff.Canonical (clrfEff b k) := by
  simp [clrfEff, h]

/-! ### Slices -/

@[simp] theorem accEff_canonical {b : Chip} (h : b.stores.Canonical) (k : Ctx) (f : Nat → BitVec 80 × BitVec 5) :
    Eff.Canonical (accEff b k f) := by
  simp [accEff, h]

@[simp] theorem macEff_canonical {b : Chip} (h : b.stores.Canonical) (k : Ctx) : Eff.Canonical (macEff b k) := by
  simp [macEff, h]

@[simp] theorem msuEff_canonical {b : Chip} (h : b.stores.Canonical) (k : Ctx) : Eff.Canonical (msuEff b k) := by
  simp [msuEff, h]

@[simp] theorem mulEff_canonical {b : Chip} (h : b.stores.Canonical) (k : Ctx) : Eff.Canonical (mulEff b k) := by
  simp [mulEff, h]

@[simp] theorem addEff_canonical {b : Chip} (h : b.stores.Canonical) (k : Ctx) : Eff.Canonical (addEff b k) := by
  simp [addEff, h]

@[simp] theorem subEff_canonical {b : Chip} (h : b.stores.Canonical) (k : Ctx) : Eff.Canonical (subEff b k) := by
  simp [subEff, h]

@[simp] theorem absdEff_canonical {b : Chip} (h : b.stores.Canonical) (k : Ctx) : Eff.Canonical (absdEff b k) := by
  simp [absdEff, h]

@[simp] theorem movaEff_canonical {b : Chip} (h : b.stores.Canonical) (k : Ctx) : Eff.Canonical (movaEff b k) := by
  simp [movaEff, h]

@[simp] theorem ldaEff_canonical {b : Chip} (h : b.stores.Canonical) (k : Ctx) : Eff.Canonical (ldaEff b k) := by
  simp [ldaEff, h]

@[simp] theorem shaEff_canonical {b : Chip} (h : b.stores.Canonical) (k : Ctx) : Eff.Canonical (shaEff b k) := by
  simp [shaEff, h]

@[simp] theorem minaEff_canonical {b : Chip} (h : b.stores.Canonical) (k : Ctx) : Eff.Canonical (minaEff b k) := by
  simp [minaEff, h]

@[simp] theorem maxaEff_canonical {b : Chip} (h : b.stores.Canonical) (k : Ctx) : Eff.Canonical (maxaEff b k) := by
  simp [maxaEff, h]

@[simp] theorem fmaEff_canonical {b : Chip} (h : b.stores.Canonical) (k : Ctx) : Eff.Canonical (fmaEff b k) := by
  simp [fmaEff, h]

@[simp] theorem fmsEff_canonical {b : Chip} (h : b.stores.Canonical) (k : Ctx) : Eff.Canonical (fmsEff b k) := by
  simp [fmsEff, h]

@[simp] theorem fmulEff_canonical {b : Chip} (h : b.stores.Canonical) (k : Ctx) : Eff.Canonical (fmulEff b k) := by
  simp [fmulEff, h]

@[simp] theorem faddEff_canonical {b : Chip} (h : b.stores.Canonical) (k : Ctx) : Eff.Canonical (faddEff b k) := by
  simp [faddEff, h]

@[simp] theorem cvtfEff_canonical {b : Chip} (h : b.stores.Canonical) (k : Ctx) : Eff.Canonical (cvtfEff b k) := by
  simp [cvtfEff, h]

@[simp] theorem cvtiEff_canonical {b : Chip} (h : b.stores.Canonical) (k : Ctx) : Eff.Canonical (cvtiEff b k) := by
  simp [cvtiEff, h]

@[simp] theorem acs2Eff_canonical {b : Chip} (h : b.stores.Canonical) (k : Ctx) : Eff.Canonical (acs2Eff b k) := by
  simp [acs2Eff, h]

@[simp] theorem acs4Eff_canonical {b : Chip} (h : b.stores.Canonical) (k : Ctx) : Eff.Canonical (acs4Eff b k) := by
  simp [acs4Eff, h]

@[simp] theorem minpEff_canonical {b : Chip} (h : b.stores.Canonical) (k : Ctx) : Eff.Canonical (minpEff b k) := by
  simp [minpEff, h]

@[simp] theorem outEff_canonical {b : Chip} (h : b.stores.Canonical) (k : Ctx) : Eff.Canonical (outEff b k) := by
  simp [outEff, h]

@[simp] theorem stcEff_canonical {b : Chip} (h : b.stores.Canonical) (k : Ctx) : (stcEff b k).Canonical := by
  rw [stcEff, Eff.canonical_ok, Chip.modGroup_stores]
  exact Chip.foldl_canonical (fun _ l hb => Chip.cmStore_canonical hb _ _ _ _) _ h

/-! ### Cupola -/

@[simp] theorem Chip.tamper_canonical {b : Chip} (h : b.stores.Canonical) (rr a : Nat) (part : Bool) (level : Nat)
    (inj : Bool) : (b.tamper rr a part level inj).stores.Canonical := by
  simp [Chip.tamper, h]

@[simp] theorem Chip.storeMeta_canonical {b : Chip} (h : b.stores.Canonical) (rr m : Nat) :
    (b.storeMeta rr m).stores.Canonical := by
  simp [Chip.storeMeta, h]

@[simp] theorem Chip.leaveRaw_canonical {b : Chip} (h : b.stores.Canonical) (lines : List Nat) :
    (b.leaveRaw lines).stores.Canonical :=
  Chip.foldl_canonical (fun _ _ hb => Chip.dramWrite_canonical hb _ _ _) _ h

@[simp] theorem Chip.leaveCipher_canonical {b : Chip} (h : b.stores.Canonical) (rr : Nat) :
    (b.leaveCipher rr).stores.Canonical := by
  simp only [Chip.leaveCipher]
  split
  · exact Chip.foldl_canonical (fun _ _ hb => Chip.dramWrite_canonical hb _ _ _) _ (by simp [h])
  · simp [h]

@[simp] theorem Chip.sweepMeta_canonical {b : Chip} (h : b.stores.Canonical) (rr : Nat) :
    (b.sweepMeta rr).stores.Canonical := by
  have hs : ∀ (l : List Nat) {b : Chip}, b.stores.Canonical →
      (l.foldl (fun b m => b.storeMeta rr m) b).stores.Canonical := fun l =>
    Chip.foldl_canonical (fun _ m hb => Chip.storeMeta_canonical hb rr m) l
  exact hs _ (hs _ (hs _ (by simp [h])))

@[simp] theorem Chip.endRekey_canonical {b : Chip} (h : b.stores.Canonical) (rr : Nat) :
    (b.endRekey rr).stores.Canonical := by
  simp [Chip.endRekey, h]

@[simp] theorem Chip.writeBackMeta_canonical {b : Chip} (h : b.stores.Canonical) (m : Nat) :
    (b.writeBackMeta m).stores.Canonical := by
  simp only [Chip.writeBackMeta]
  split
  · simp [h]
  · split <;> simp [h]

@[simp] theorem Chip.evict_canonical (fuel : Nat) {b : Chip} (h : b.stores.Canonical) :
    (b.evict fuel).stores.Canonical := by
  induction fuel generalizing b with
  | zero => exact h
  | succ n ih =>
    rw [Chip.evict]
    split
    · split
      · exact h
      · exact ih (by simp [h])
    · exact h

@[simp] theorem Chip.trimCache_canonical {b : Chip} (h : b.stores.Canonical) : b.trimCache.stores.Canonical := by
  simp [Chip.trimCache, h]

@[simp] theorem Chip.useChain_canonical {b : Chip} (h : b.stores.Canonical) (rr a : Nat) (tag dirty : Bool) :
    (b.useChain rr a tag dirty).1.stores.Canonical := by
  simp [Chip.useChain, h]

@[simp] theorem Chip.flushCache_canonical {b : Chip} (h : b.stores.Canonical) : b.flushCache.stores.Canonical :=
  Chip.foldl_canonical (fun _ _ hb => Chip.foldl_canonical (fun _ m hb =>
    Chip.writeBackMeta_canonical (by simpa using hb) m) _ hb) _ h

@[simp] theorem Chip.tagFails_canonical {b : Chip} (h : b.stores.Canonical) (rr a : Nat) (part : Bool) :
    (b.tagFails rr a part).1.stores.Canonical := by
  simp only [Chip.tagFails]
  split <;> simp [h]

@[simp] theorem Chip.serveRead_canonical {b : Chip} (h : b.stores.Canonical) (rr a n : Nat) (sched : Bool) :
    (b.serveRead rr a n sched).1.stores.Canonical := by
  simp only [Chip.serveRead]
  split
  · have h1 : (b.readLine a sched).1.stores.Canonical := by simpa using h
    generalize b.readLine a sched = x at h1 ⊢
    obtain ⟨c, _ | _, i⟩ := x <;> exact h1
  · have h1 := Chip.useChain_canonical h rr a (!(b.minorOf a == 0)) false
    generalize b.useChain rr a _ false = x at h1 ⊢
    obtain ⟨c, _ | _⟩ := x
    · simpa using h1
    · dsimp only
      split
      · exact h1
      · have h2 : (c.readLine a sched).1.stores.Canonical := by simpa using h1
        generalize c.readLine a sched = y at h2 ⊢
        obtain ⟨d, _ | _, i⟩ := y
        · have h3 := Chip.tagFails_canonical h2 rr a false
          simp only
          generalize d.tagFails rr a false = z at h3 ⊢
          obtain ⟨e, _ | _⟩ := z
          · exact h3
          · simpa using h3
        · exact h2

@[simp] theorem Chip.oldLine_canonical {b : Chip} (h : b.stores.Canonical) (rr a : Nat) (sched : Bool) :
    (b.oldLine rr a sched).1.stores.Canonical := by
  have h1 : (b.readLine a sched).1.stores.Canonical := by simpa using h
  simp only [Chip.oldLine]
  generalize b.readLine a sched = x at h1 ⊢
  obtain ⟨c, _ | _, i⟩ := x
  · have h2 := Chip.tagFails_canonical h1 rr a true
    dsimp only at h2 ⊢
    split
    · generalize c.tagFails rr a true = y at h2 ⊢
      obtain ⟨d, _ | _⟩ := y
      · exact h2
      · simpa using h2
    · exact h1
  · exact h1

@[simp] theorem Chip.storeLine_canonical {b : Chip} (h : b.stores.Canonical) (a : Nat) (mask : Nat → Bool)
    (d : Bytes) (whole : Bool) : (b.storeLine a mask d whole).stores.Canonical := by
  simp [Chip.storeLine, h]

@[simp] theorem Chip.serveWrite_canonical {b : Chip} (h : b.stores.Canonical) (rr a : Nat) (mask : Nat → Bool)
    (d : Bytes)
    (whole sched : Bool) : (b.serveWrite rr a mask d whole sched).1.stores.Canonical := by
  simp only [Chip.serveWrite]
  generalize decide (2 ≤ b.protMode rr) = sealed
  generalize (whole || (sealed && b.minorOf a == 0)) = new
  have h1 : (if sealed then b.useChain rr a true true else (b, true)).1.stores.Canonical := by
    split <;> simp [h]
  generalize (if sealed then b.useChain rr a true true else (b, true)) = x at h1 ⊢
  obtain ⟨c, _ | _⟩ := x
  · simpa using h1
  · have h2 : (if new then (c, failWith 0 0 false) else c.oldLine rr a sched).1.stores.Canonical := by
      split
      · exact h1
      · exact Chip.oldLine_canonical h1 _ _ _
    dsimp only
    generalize (if new then (c, failWith 0 0 false) else c.oldLine rr a sched) = y at h2 ⊢
    split
    · next e d' i =>
      have h3 : (e.writeFails a sched).1.stores.Canonical := by simpa using h2
      generalize e.writeFails a sched = z at h3 ⊢
      obtain ⟨g, _ | _⟩ := z
      · simp [h3]
      · exact h3
    · exact h2

@[simp] theorem Chip.serve_canonical {b : Chip} (h : b.stores.Canonical) (o : Nat) (we : Bool) (a : Nat)
    (mask : Nat → Bool) (d : Bytes) (n : Nat) : (b.serve o we a mask d n).1.stores.Canonical := by
  simp only [Chip.serve]
  split
  · simp [h]
  · split
    · split <;> simp [h]
    · simp [h]

@[simp] theorem Chip.loadMeta_canonical {b : Chip} (h : b.stores.Canonical) (rr level addr : Nat)
    (out : LoadOutcome) : (b.loadMeta rr level addr out).stores.Canonical := by
  simp only [Chip.loadMeta]
  split
  · simp [h]
  · split
    · simp [h]
    · split <;> simp [h]

@[simp] theorem Chip.metaWriteBack_canonical {b : Chip} (h : b.stores.Canonical) (m : Nat) (ecc : Bool) :
    (b.metaWriteBack m ecc).stores.Canonical := by
  simp only [Chip.metaWriteBack]
  split
  · exact h
  · split_ifs
    · exact h
    · simp [h]
    · simp [h]
    · simp [h]
    · exact Chip.trimCache_canonical (Chip.writeBackMeta_canonical (by simp [h]) _)
    · exact h

@[simp] theorem Chip.defineContents_canonical {b : Chip} (h : b.stores.Canonical) (rr : Nat) :
    (b.defineContents rr).stores.Canonical := by
  simp [Chip.defineContents, h]

@[simp] theorem Chip.defineRegion_canonical {b : Chip} (h : b.stores.Canonical) (o rr : Nat) :
    (b.defineRegion o rr).stores.Canonical := by
  simp [Chip.defineRegion, h]

@[simp] theorem Chip.deleteRegion_canonical {b : Chip} (h : b.stores.Canonical) (o rr : Nat) :
    (b.deleteRegion o rr).stores.Canonical := by
  simp [Chip.deleteRegion, h]

@[simp] theorem Chip.startRegionCmd_canonical {b : Chip} (h : b.stores.Canonical) (o : Nat) :
    (b.startRegionCmd o).stores.Canonical := by
  simp only [Chip.startRegionCmd]
  split <;> simp [h]

@[simp] theorem Chip.freshLines_canonical {b : Chip} (h : b.stores.Canonical) (rr level lo hi : Nat) :
    (b.freshLines rr level lo hi).stores.Canonical := by
  simp [Chip.freshLines, h]

@[simp] theorem Chip.freshMeta_canonical {b : Chip} (h : b.stores.Canonical) (rr : Nat) (entry : Option (Nat × Nat)) :
    (b.freshMeta rr entry).stores.Canonical := by
  simp only [Chip.freshMeta]
  split <;> simp [h]

@[simp] theorem Chip.reinitDone_canonical {b : Chip} (h : b.stores.Canonical) (rr : Nat) :
    (b.reinitDone rr).stores.Canonical := by
  simp only [Chip.reinitDone]
  split
  · split
    · exact h
    · split
      · simpa using h
      · simp only [Chip.endCmd_stores, Chip.logEvent_stores]
        split
        · exact Chip.freshMeta_canonical (by simp [h]) _ _
        · split
          · exact Chip.freshMeta_canonical (by simp [h]) _ _
          · simpa using h
  · exact h

/-! ### Dram -/

@[simp] theorem Chip.trainingEnd_canonical {b : Chip} (h : b.stores.Canonical) (c : Nat) (ok : Bool) (ms : Nat) :
    (b.trainingEnd c ok ms).stores.Canonical := by
  simp [Chip.trainingEnd, h]

@[simp] theorem Chip.rateDone_canonical {b : Chip} (h : b.stores.Canonical) (ok : Bool) :
    (b.rateDone ok).stores.Canonical := by
  unfold Chip.rateDone
  split
  · extract_lets fail b1 b2 good old idle hub b3
    clear_value fail good
    have h1 : b1.stores.Canonical := by
      simp only [b1]
      split <;> simp [h]
    have h2 : b2.stores.Canonical := by simp [b2, h1]
    have hm : hub.mem = b2.hub.mem := by
      simp only [hub]
      split <;> simp [idle, old]
    have h3 : b3.stores.Canonical := by
      rw [show b3.stores = b2.stores from Chip.stores_mk_hub b2 (h := hm) ..]
      exact h2
    split <;> simp [h3]
  · exact h

@[simp] theorem Chip.raiseOnce_canonical {b : Chip} (h : b.stores.Canonical) (code : Nat) {f : Chip → Chip}
    (hf : ∀ b, b.stores.Canonical → (f b).stores.Canonical) : (b.raiseOnce code f).stores.Canonical := by
  have h' := hf { b with dev := { b.dev with raised := code :: b.dev.raised } } (by simpa using h)
  simp [Chip.raiseOnce, h, h']

@[simp] theorem Chip.dimmRead_canonical {b : Chip} (h : b.stores.Canonical) (c d : Nat) (v : Int) (inj : Bool) :
    (b.dimmRead c d v inj).stores.Canonical := by
  simp only [Chip.dimmRead]
  split
  · exact Chip.raiseOnce_canonical (by simp [h]) _ fun _ hb => Chip.chipFault_canonical (by simp [hb]) _
  · simp [h]

@[simp] theorem Chip.dimmPoll_canonical {b : Chip} (h : b.stores.Canonical) (c d : Nat) (reading : Option Int) :
    (b.dimmPoll c d reading).stores.Canonical := by
  simp only [Chip.dimmPoll]
  split
  · simp [h]
  · split
    · simp [h]
    · split
      · simp [h]
      · split <;> simp [h]

@[simp] theorem Chip.scheduled_canonical {b : Chip} (h : b.stores.Canonical) (r hp a : Nat) (we part pinned : Bool)
    {f : Chip → Nat → Chip} (hf : ∀ b n, b.stores.Canonical → (f b n).stores.Canonical) :
    (b.scheduled r hp a we part pinned f).stores.Canonical := by
  have h' : (b.beginWindow a we).stores.Canonical := by simpa using h
  simp only [Chip.scheduled]
  split
  · simpa using h
  · split
    · exact h
    · split
      · simpa using h
      · split
        · split <;> simp [h]
        · split
          · simpa using h
          · split <;> split <;> simp [h]
          · exact hf _ _ h'
          · exact hf _ _ h'

@[simp] theorem Chip.schedRead_canonical {b : Chip} (h : b.stores.Canonical) (r hp addr : Nat) (pinned : Bool) :
    (b.schedRead r hp addr pinned).stores.Canonical := by
  refine Chip.scheduled_canonical h _ _ _ _ _ _ fun b n hb => ?_
  dsimp only
  split
  · split <;> simp [hb]
  · simpa using hb

@[simp] theorem Chip.schedWrite_canonical {b : Chip} (h : b.stores.Canonical) (r hp addr : Nat) (pinned : Bool)
    (mask : BitVec 32)
    (d : Bytes) : (b.schedWrite r hp addr pinned mask d).stores.Canonical := by
  refine Chip.scheduled_canonical h _ _ _ _ _ _ fun b n hb => ?_
  dsimp only
  split
  · split <;> simp [hb]
  · simpa using hb

@[simp] theorem Chip.accept_canonical {b : Chip} (h : b.stores.Canonical) (src a : Nat) (we : Bool)
    (mask : Nat → Bool) (d : Bytes)
    (tag : Nat) : (b.accept src a we mask d tag).stores.Canonical := by
  simp only [Chip.accept]
  split
  · split <;> simp [h]
  · split
    · split <;> simp [h]
    · exact h

@[simp] theorem Chip.undefineHalf_canonical {b : Chip} (h : b.stores.Canonical) (a : Nat) :
    (b.undefineHalf a).stores.Canonical := by
  simp [Chip.undefineHalf, h]

@[simp] theorem Chip.crcError_canonical {b : Chip} (h : b.stores.Canonical) (src : Nat) :
    (b.crcError src).stores.Canonical := by
  simp only [Chip.crcError]
  split <;> split <;> simp [h]

@[simp] theorem Chip.selfRefreshDone_canonical {b : Chip} (h : b.stores.Canonical) :
    b.selfRefreshDone.stores.Canonical := by
  simp only [Chip.selfRefreshDone]
  split_ifs <;> simp [h]

/-! ### Owners -/

@[simp] theorem Chip.setClaim_canonical {b : Chip} (h : b.stores.Canonical) (p : Nat) (mask : BitVec 32) :
    Res.Canonical (b.setClaim p mask) := by
  simp [Chip.setClaim, h]

/-! ### Ports -/

@[simp] theorem Chip.putBytes_canonical {b : Chip} (h : b.stores.Canonical) (o a : Nat) (d : Bytes)
    (moved fuel : Nat) : (b.putBytes o a d moved fuel).1.stores.Canonical := by
  induction fuel generalizing b a d moved with
  | zero => exact h
  | succ fuel ih =>
    rw [Chip.putBytes]
    split
    · exact h
    · extract_lets n base lo
      split
      next c x hc =>
        have h' : c.stores.Canonical := (congrArg (·.1.stores.Canonical) hc).mp (Chip.serve_canonical h ..)
        split
        · exact ih h' _ _ _
        · exact h'

@[simp] theorem Chip.getBytes_canonical {b : Chip} (h : b.stores.Canonical) (o a n : Nat) (got : Bytes)
    (fuel : Nat) : (b.getBytes o a n got fuel).1.stores.Canonical := by
  induction fuel generalizing b a n got with
  | zero => exact h
  | succ fuel ih =>
    rw [Chip.getBytes]
    split
    · exact h
    · dsimp only
      split
      · exact ih (Chip.serve_canonical h ..) _ _ _
      · exact Chip.serve_canonical h ..

@[simp] theorem Chip.startDesc_canonical {b : Chip} (h : b.stores.Canonical) (hp c : Nat) (desc data : Bytes) :
    (b.startDesc hp c desc data).stores.Canonical := by
  simp only [Chip.startDesc]
  split_ifs <;> simp [h]

@[simp] theorem Chip.bar2Read_canonical {b : Chip} (h : b.stores.Canonical) (hp offset len : Nat) :
    (b.bar2Read hp offset len).stores.Canonical := by
  simp only [Chip.bar2Read]
  split_ifs <;> simp [h]

@[simp] theorem Chip.bar2Write_canonical {b : Chip} (h : b.stores.Canonical) (hp offset : Nat) (d : Bytes) :
    (b.bar2Write hp offset d).stores.Canonical := by
  simp only [Chip.bar2Write]
  split_ifs <;> simp [h]

/-! ### Loader -/

@[simp] theorem Chip.headerPassed_canonical {b : Chip} (h : b.stores.Canonical) (hp : StreamHeader) :
    (b.headerPassed hp).stores.Canonical := by
  simp [Chip.headerPassed, h]

@[simp] theorem Chip.header_canonical {b : Chip} (h : b.stores.Canonical) (hp : StreamHeader) :
    (b.header hp).stores.Canonical := by
  simp only [Chip.header]
  split
  · simp [h]
  · split
    · simp [h]
    · split
      · simp [h]
      · split <;> simp [h]

theorem Chip.body_canonical {b : Chip} (h : b.stores.Canonical) (n : Nat) {f : StreamHeader → Chip → Chip}
    (hf : ∀ hd b, b.stores.Canonical → (f hd b).stores.Canonical) : (b.body n f).stores.Canonical := by
  simp only [Chip.body]
  split
  · exact h
  · split
    · exact h
    · simp only [Chip.injectedCut_stores, Chip.stores_ite, Stores.canonical_ite]
      split
      · simpa using h
      · exact hf _ _ (by simpa using h)

@[simp] theorem Chip.writeRegion_canonical {b : Chip} (h : b.stores.Canonical) (sh : StreamHeader) (lo hi r : Nat)
    {put : Nat → Nat → List FrameRun → List FrameRun} (hp : ∀ a z l, planeWf l → planeWf (put a z l)) :
    (b.writeRegion sh lo hi r put).stores.Canonical := by
  simp only [Chip.writeRegion]
  split_ifs
  · exact h
  · have h' : (b.touchFrames r (max lo (r * regionFrames)) (min hi ((r + 1) * regionFrames))).stores.Canonical := by
      simpa using h
    exact { h' with staging := hp _ _ _ h'.staging, stagingRef := hp _ _ _ h'.stagingRef }
  · simpa using h

@[simp] theorem Chip.writeFrames_canonical {b : Chip} (h : b.stores.Canonical) (sh : StreamHeader)
    (addr : BitVec 32) (n : Nat)
    {put : Nat → Nat → Nat → List FrameRun → List FrameRun} (hp : ∀ lo a z l, planeWf l → planeWf (put lo a z l)) :
    (b.writeFrames sh addr n put).stores.Canonical := by
  simp only [Chip.writeFrames]
  split
  · simpa using h
  · split
    · simpa using h
    · exact Chip.forEach_canonical (fun c r hc => Chip.writeRegion_canonical hc _ _ _ _ (hp _)) _ h

theorem Chip.forRegion_canonical {b : Chip} (h : b.stores.Canonical) (hd : StreamHeader) (r : Nat)
    (seen : Load → List Nat)
    {f : Chip → Chip} (hf : ∀ b, b.stores.Canonical → (f b).stores.Canonical) :
    (b.forRegion hd r seen f).stores.Canonical := by
  have h' := hf b h
  simp [Chip.forRegion, h, h']

@[simp] theorem Chip.streamVerified_canonical {b : Chip} (h : b.stores.Canonical) {l : Load} {hd : StreamHeader}
    (hs : (l.staged hd).sectionsApart) : (b.streamVerified l hd).stores.Canonical := by
  have h' : ({ b with loader := { b.loader with load := none, staged := b.loader.staged ++ [l.staged hd] } } :
      Chip).stores.Canonical := by
    refine { h with streams := fun s hm => ?_ }
    rcases Loader.mem_streams.1 hm with hm | hm
    · rcases List.mem_append.1 hm with hm | hm
      · exact h.streams s (Loader.mem_streams.2 (.inl hm))
      · rwa [List.mem_singleton.1 hm]
    · exact h.streams s (Loader.mem_streams.2 (.inr hm))
  simp only [Chip.streamVerified]
  generalize ({ b with loader := { b.loader with
    load := none, staged := b.loader.staged ++ [l.staged hd] } } : Chip) = c at h' ⊢
  simp [h']

theorem pairwise_of_pairwiseOk {α : Type} {clash : α → α → Bool} {l : List α} (h : pairwiseOk clash l = true) :
    l.Pairwise fun x y => clash x y = false := by
  induction l with
  | nil => exact .nil
  | cons x t ih =>
    obtain ⟨hx, ht⟩ := Bool.and_eq_true_iff.1 h
    exact .cons (fun y hy => by simpa using List.all_eq_true.1 hx y hy) (ih ht)

/-- A stream whose content is accepted is complete (R359). -/
theorem Chip.complete_of_contentCode {b : Chip} {l : Load} {hd : StreamHeader} (h : b.contentCode l hd = 0) :
    l.complete hd = true := by
  by_contra hn
  rw [Bool.not_eq_true] at hn
  simp only [Chip.contentCode, hn, Bool.not_false, Bool.or_true, if_true] at h
  split at h <;> cases h

theorem Load.sectionsApart_of_complete {l : Load} {hd : StreamHeader} (h : l.complete hd = true) :
    (l.staged hd).sectionsApart := by
  simp only [Load.complete, Bool.and_eq_true] at h
  obtain ⟨⟨hclaims, -⟩, -⟩ := h
  refine List.pairwise_map.2 (List.Pairwise.imp₂ (fun p q hne hc => ⟨hne, ?_⟩) (List.nodup_range.filter _)
    (pairwise_of_pairwiseOk hclaims))
  simpa using hc

@[simp] theorem Chip.tagCheck_canonical {b : Chip} (h : b.stores.Canonical) (ok : Bool) (extra : Nat) :
    (b.tagCheck ok extra).stores.Canonical := by
  simp only [Chip.tagCheck]
  split
  · exact h
  · split
    · exact h
    · next l _ hd _ =>
      have h' : (b.setReg 0x2200 5 (hd.length + extra)).stores.Canonical := by simpa using h
      generalize b.setReg 0x2200 5 (hd.length + extra) = c at h' ⊢
      split_ifs with h1 h2 h3 h4
      · simp [h']
      · simp [h']
      · simp [h']
      · exact Chip.streamVerified_canonical h' (Load.sectionsApart_of_complete (Chip.complete_of_contentCode h4))
      · simp [h']

/-! ### Commit -/

@[simp] theorem Chip.startCommit_canonical {b : Chip} (h : b.stores.Canonical) (o : Nat) :
    (b.startCommit o).stores.Canonical := by
  simp only [Chip.startCommit]
  split
  · simpa using h
  · exact Chip.withCommit_canonical (b := b.beginCmd 0x2210 o) (by simpa using h) (fun _ hx => by cases hx; rfl) _

@[simp] theorem Chip.cancelCommit_canonical {b : Chip} (h : b.stores.Canonical) (o v : Nat) :
    Res.Canonical (b.cancelCommit o v) := by
  simp only [Chip.cancelCommit]
  split <;> simp [h]

/-- A change of the commit that takes no stream but those it has or those staged. -/
theorem Chip.modCommit_canonical {b : Chip} (h : b.stores.Canonical) {f : Commit → Commit}
    (hf : ∀ c, b.loader.commit = some c → ∀ s ∈ (f c).staged, s ∈ c.staged ∨ s ∈ b.loader.staged) :
    (b.modCommit f).stores.Canonical := by
  refine { h with streams := fun s hs => h.streams s (Loader.mem_streams.2 ?_) }
  rcases Loader.mem_streams.1 hs with hs | ⟨x, hx, hs⟩
  · exact .inl hs
  · obtain ⟨c, hc, rfl⟩ := Option.map_eq_some_iff.1 hx
    exact (hf c hc s hs).symm.imp_right fun hs => ⟨c, hc, hs⟩

@[simp] theorem Chip.conditionsMet_canonical {b : Chip} (h : b.stores.Canonical) :
    b.conditionsMet.stores.Canonical := by
  simp only [Chip.conditionsMet]
  split
  · exact h
  · split
    · exact Chip.modCommit_canonical h fun _ _ _ hs => .inl hs
    · exact h

/-- The streams that a commit takes are staged. -/
theorem Chip.mem_commitStreams {b : Chip} {mask : BitVec 8} {s : Staged} (h : s ∈ b.commitStreams mask) :
    s ∈ b.loader.staged :=
  (List.mem_filter.1 h).1

@[simp] theorem Chip.freezeCommit_canonical {b : Chip} (h : b.stores.Canonical) :
    b.freezeCommit.stores.Canonical := by
  have h' : ∀ t, (b.upTo t).stores.Canonical := by simpa using h
  simp only [Chip.freezeCommit]
  split
  · split
    · exact Chip.modCommit_canonical (h' _) fun _ _ _ hs => .inr (Chip.mem_commitStreams hs)
    · split
      · exact Chip.endCommit_canonical (h' _) _ _
      · exact Chip.modCommit_canonical (h' _) fun _ _ _ hs => .inl hs
  · exact h

@[simp] theorem Chip.commitResets_canonical {b : Chip} (h : b.stores.Canonical) :
    b.commitResets.stores.Canonical := by
  simp only [Chip.commitResets]
  split
  · split
    · exact Chip.modCommit_canonical (by simp [h]) fun _ _ _ hs => .inl hs
    · exact h
  · exact h

@[simp] theorem Chip.commitTakes_canonical {b : Chip} (h : b.stores.Canonical) :
    b.commitTakes.stores.Canonical := by
  simp only [Chip.commitTakes]
  split
  · split
    · exact Chip.modCommit_canonical (by simp [h]) fun _ _ _ hs => .inl hs
    · exact h
  · exact h

@[simp] theorem Chip.commitDone_canonical {b : Chip} (h : b.stores.Canonical) : b.commitDone.stores.Canonical := by
  simp only [Chip.commitDone]
  split <;> simp [h]

@[simp] theorem Chip.gateSample_canonical {b : Chip} (h : b.stores.Canonical) (high : Bool) :
    (b.gateSample high).stores.Canonical := by
  have hk : ∀ (c : Chip) v, c.stores.Canonical →
      ({ c with dev := { c.dev with gateLevel := v } } : Chip).stores.Canonical := fun c v hc => by simpa using hc
  simp only [Chip.gateSample]
  split
  · split
    · exact hk _ _ (by simpa using h)
    · refine iteInduction (motive := fun c : Chip => c.stores.Canonical) (fun _ => ?_) fun _ => ?_
      · exact Chip.modCommit_canonical (hk _ _ (by simpa using h)) fun _ _ _ hs => .inl hs
      · exact hk _ _ (by simpa using h)
  · exact h

@[simp] theorem Chip.gateWaitLimit_canonical {b : Chip} (h : b.stores.Canonical) :
    b.gateWaitLimit.stores.Canonical := by
  simp only [Chip.gateWaitLimit]
  split
  · exact h
  · split
    · rw [Chip.logEvent_stores]
      exact Chip.modCommit_canonical (by simp [h]) fun _ _ _ hs => .inl hs
    · exact h

/-! ### Watchtower -/

@[simp] theorem Chip.heartbeatMissed_canonical {b : Chip} (h : b.stores.Canonical) :
    b.heartbeatMissed.stores.Canonical := by
  simp [Chip.heartbeatMissed, h]

@[simp] theorem Chip.writeActive_canonical {b : Chip} (h : b.stores.Canonical) (n : Nat) (f : BitVec 2048) :
    (b.writeActive n f).stores.Canonical :=
  { h with active := planeWf_runPut _ _ _ _ h.active }

@[simp] theorem Chip.writeTwin_canonical {b : Chip} (h : b.stores.Canonical) (n : Nat) (f : BitVec 2048) :
    (b.writeTwin n f).stores.Canonical :=
  { h with staging := planeWf_runPut _ _ _ _ h.staging }

@[simp] theorem Chip.writeRef_canonical {b : Chip} (h : b.stores.Canonical) (n : Nat) (f : BitVec 2048) :
    (b.writeRef n f).stores.Canonical :=
  { h with activeRef := planeWf_runPut _ _ _ _ h.activeRef }

@[simp] theorem Chip.repairFrame_canonical {b : Chip} (h : b.stores.Canonical) (n : Nat) :
    (b.repairFrame n).stores.Canonical := by
  simp only [Chip.repairFrame]
  split
  · simp [h]
  · split
    · rw [Chip.repaired_stores]
      split
      · rw [Chip.count_stores]
        exact Chip.dropStaged_canonical (by simp [h]) _
      · simp [h]
    · simp [h]

@[simp] theorem Chip.frameMismatch_canonical {b : Chip} (h : b.stores.Canonical) (n : Nat) :
    (b.frameMismatch n).stores.Canonical := by
  have h' : ({ b with watch := { b.watch with mismatches := b.watch.mismatches + 1 } } : Chip).stores.Canonical := by
    simpa using h
  simp only [Chip.frameMismatch]
  generalize ({ b with watch := { b.watch with mismatches := b.watch.mismatches + 1 } } : Chip) = c at h' ⊢
  simp [h']

@[simp] theorem Chip.crcLost_canonical {b : Chip} (h : b.stores.Canonical) (n : Nat) :
    (b.crcLost n).stores.Canonical := by
  simp [Chip.crcLost, h]

@[simp] theorem Chip.compareFrame_canonical {b : Chip} (h : b.stores.Canonical) (n : Nat) :
    (b.compareFrame n).stores.Canonical := by
  simp [Chip.compareFrame, h]

@[simp] theorem Chip.checkFrame_canonical {b : Chip} (h : b.stores.Canonical) (n : Nat) (crc : EccOutcome) :
    (b.checkFrame n crc).stores.Canonical := by
  simp only [Chip.checkFrame]
  split
  · simp [h]
  · simp [h]
  · split <;> simp [h]

@[simp] theorem Chip.flipFrame_canonical {b : Chip} (h : b.stores.Canonical) (code n : Nat) :
    (b.flipFrame code n).stores.Canonical := by
  simp [Chip.flipFrame, h]

@[simp] theorem Chip.reflip_canonical {b : Chip} (h : b.stores.Canonical) (n : Nat) :
    (b.reflip n).stores.Canonical := by
  simp only [Chip.reflip]
  split
  · simp [h]
  · split <;> simp [h]

@[simp] theorem Chip.frameCheck_canonical {b : Chip} (h : b.stores.Canonical) (flips twinFlips : List Nat)
    (crc : EccOutcome) : (b.frameCheck flips twinFlips crc).stores.Canonical := by
  simp [Chip.frameCheck, h]

@[simp] theorem Chip.rebuildEnd_canonical {b : Chip} (h : b.stores.Canonical) (r : Nat) :
    (b.rebuildEnd r).stores.Canonical := by
  have hf : ∀ l, (b.forEach l fun b n => if b.crcMatches n then b else b.frameMismatch n).stores.Canonical := fun l =>
    Chip.forEach_canonical (fun b n hb => by simp [hb]) l h
  have hc : ∀ l, (if (b.regionPart r).isSome then
      b.forEach l fun b n => if b.crcMatches n then b else b.frameMismatch n else b).stores.Canonical := fun l => by
    simp [h, hf]
  simp only [Chip.rebuildEnd]
  split
  · refine Chip.withPlanes_canonical (hc _) ⟨(hc _).active, (hc _).activeRef, ?_, ?_⟩ rfl
    · exact planeWf_copyRegion r (hc _).staging (hc _).active
    · exact planeWf_copyRegion r (hc _).stagingRef (hc _).activeRef
  · exact h

@[simp] theorem Chip.scrubBm_canonical {b : Chip} (h : b.stores.Canonical) (m : BmSel) (addr : Nat)
    (e : EccOutcome) : (b.scrubBm m addr e).stores.Canonical := by
  have hk : ∀ (c : Chip) d, c.stores.Canonical →
      ({ c with mem := { c.mem with demandBm := d } } : Chip).stores.Canonical := fun c v hc => by simpa using hc
  simp only [Chip.scrubBm]
  split
  · exact h
  · refine hk _ _ ?_
    split
    · exact Chip.bmMaintWrite_canonical (by simp [h]) (fun _ hb => Chip.bmRepair_canonical hb _) _ _
    · exact Chip.bmMaint_canonical (by simp [h]) (fun _ hb => hb) _ _ _

@[simp] theorem Chip.scrubGroup_canonical {b : Chip} (h : b.stores.Canonical) (g : Grp) (space addr : Nat)
    (e : EccOutcome) : (b.scrubGroup g space addr e).stores.Canonical := by
  simp [Chip.scrubGroup, h]

@[simp] theorem Chip.scrub_canonical {b : Chip} (h : b.stores.Canonical) (u : MemUnit) (addr : Nat) (e : EccOutcome) :
    (b.scrub u addr e).stores.Canonical := by
  simp only [Chip.scrub]
  split
  · simp [h]
  · split
    · split <;> simp [h]
    · split <;> simp [h]

/-! ### SelfTest -/

@[simp] theorem Chip.clearedMemories_canonical {b : Chip} (h : b.stores.Canonical) :
    b.clearedMemories.stores.Canonical :=
  ⟨rfl, rfl, rfl, rfl, rfl, h.sii, h.dram, planeWf_nil, planeWf_nil, planeWf_nil, planeWf_nil, h.streams⟩

@[simp] theorem Chip.powerUpEnd_canonical {b : Chip} (h : b.stores.Canonical) : b.powerUpEnd.stores.Canonical := by
  simp [Chip.powerUpEnd, h]

@[simp] theorem Chip.closingAbandoned_canonical {b : Chip} (h : b.stores.Canonical) :
    b.closingAbandoned.stores.Canonical := by
  simp [Chip.closingAbandoned, h]

@[simp] theorem Chip.closingStep_canonical {b : Chip} (h : b.stores.Canonical) : b.closingStep.stores.Canonical := by
  simp [Chip.closingStep, h]

@[simp] theorem Chip.testStep_canonical {b : Chip} (h : b.stores.Canonical) (l : List (BitVec 64)) (patterns : Nat) :
    (b.testStep l patterns).stores.Canonical := by
  simp [Chip.testStep, h]

@[simp] theorem Chip.recordSealed_canonical {b : Chip} (h : b.stores.Canonical) :
    b.recordSealed.stores.Canonical := by
  simp [Chip.recordSealed, h]

@[simp] theorem Chip.clearUnit_canonical {b : Chip} (h : b.stores.Canonical) (u : MemUnit) :
    (b.clearUnit u).stores.Canonical := by
  simp only [Chip.clearUnit]
  split
  · exact { h with bm := Mem.wf_clear _ _ _ h.bm }
  · exact { h with sp := Mem.wf_filter _ _ h.sp }
  · exact { h with im := Mem.wf_clear _ _ _ h.im }
  · exact { h with cm := Mem.wf_clear _ _ _ h.cm }
  · exact { h with ds := Mem.wf_clear _ _ _ h.ds }

@[simp] theorem Chip.onDemandEnd_canonical {b : Chip} (h : b.stores.Canonical) (l : List (BitVec 64)) (us : Nat) :
    (b.onDemandEnd l us).stores.Canonical := by
  simp only [Chip.onDemandEnd]
  split
  · exact h
  · next o _ =>
    have h' := Chip.forEach_canonical (fun b i hb => Chip.clearUnit_canonical hb (o.units.getD i (.im 0 0)))
      (List.range o.units.length) (b := { b with test := { b.test with
        onDemand := none, kept := b.test.kept ++ (l ++ b.injectedFailure o.covers).filter failsMemory } })
      (by simpa using h)
    generalize Chip.forEach _ _ _ = c at h' ⊢
    simp [h']

/-! ### Lantern -/

@[simp] theorem Chip.sensorFails_canonical {b : Chip} (h : b.stores.Canonical) (n : Nat) (inj : Bool) :
    (b.sensorFails n inj).stores.Canonical := by
  simp [Chip.sensorFails, h]

@[simp] theorem Chip.sensorRead_canonical {b : Chip} (h : b.stores.Canonical) (n : Nat) (v : Int) (inj : Bool) :
    (b.sensorRead n v inj).stores.Canonical := by
  simp [Chip.sensorRead, h]

@[simp] theorem Chip.sensorOne_canonical {b : Chip} (h : b.stores.Canonical) (n : Nat) (reading : Option Int) :
    (b.sensorOne n reading).stores.Canonical := by
  simp only [Chip.sensorOne]
  split
  · simp [h]
  · split <;> simp [h]

@[simp] theorem Chip.sensorSample_canonical {b : Chip} (h : b.stores.Canonical) (readings : List (Option Int)) :
    (b.sensorSample readings).stores.Canonical := by
  simp only [Chip.sensorSample]
  split
  · exact h
  · have h' := Chip.forEach_canonical (fun b n hb => Chip.sensorOne_canonical hb n (readings.getD n none))
      (List.range 40) h
    generalize Chip.forEach _ _ _ = c at h' ⊢
    simp [h']

@[simp] theorem Chip.expire_canonical {b : Chip} (h : b.stores.Canonical) (code : Nat) (inj : Bool) :
    (b.expire code inj).stores.Canonical := by
  simp [Chip.expire, h]

@[simp] theorem Chip.kick_canonical {b : Chip} (h : b.stores.Canonical) (v : BitVec 32) :
    (b.kick v).stores.Canonical := by
  simp [Chip.kick, h]

@[simp] theorem Chip.keyRow_canonical {b : Chip} (h : b.stores.Canonical) (q : Req) (serial : Nat)
    (params : List (Nat × Nat))
    (blob : Option Bytes) : (b.keyRow q serial params blob).stores.Canonical := by
  refine Chip.request_canonical h q fun b hb => Chip.finish_canonical hb _ (wholeWrite_canonical ?_ fun _ hb =>
    Chip.writeEntry_canonical hb _ _ _ _ fun _ hb => Chip.serial_canonical hb _ _ _ fun b o hb => ?_)
  · have h' := Chip.storeParams_canonical hb q.owner 0x2E2C params
    split
    · exact h'
    · split
      · exact h'
      · simpa using h'
  · simpa using hb

/-! ### FieldNet -/

@[simp] theorem Chip.siiStore_canonical {b : Chip} (h : b.stores.Canonical) (word : Nat) (v : BitVec 16) :
    (b.siiStore word v).stores.Canonical := by
  have h' : ({ b with ecat := { b.ecat with
      sii := Mem.set b.ecat.sii word v, eepromError := false, eepromBusy := false } } : Chip).stores.Canonical :=
    { h with sii := Mem.wf_set _ _ _ h.sii }
  simp [Chip.siiStore, h, h']

/-! ### Debug -/

@[simp] theorem Chip.haltMeetsCommit_canonical {b : Chip} (h : b.stores.Canonical) (r : Nat) :
    (b.haltMeetsCommit r).stores.Canonical := by
  simp only [Chip.haltMeetsCommit]
  split <;> simp [h]

@[simp] theorem Chip.planHalt_canonical {b : Chip} (h : b.stores.Canonical) (r t : Nat) (cmd : Bool) :
    (b.planHalt r t cmd).stores.Canonical := by
  simp only [Chip.planHalt]
  split <;> simp [h]

@[simp] theorem Chip.startHalt_canonical {b : Chip} (h : b.stores.Canonical) (o r : Nat) :
    (b.startHalt o r).stores.Canonical := by
  simp [Chip.startHalt, h]

@[simp] theorem Chip.startRun_canonical {b : Chip} (h : b.stores.Canonical) (o : Nat) :
    (b.startRun o).stores.Canonical := by
  simp only [Chip.startRun]
  split <;> simp [h]

@[simp] theorem Chip.restrictedRead_canonical {b : Chip} (h : b.stores.Canonical) (q : Req) (idx sub : Nat)
    (r : Chip → Except Nat Bytes) : (b.restrictedRead q idx sub r).stores.Canonical := by
  refine Chip.request_canonical h q fun b hb => ?_
  split
  · simpa using hb
  · split
    · simpa using hb
    · split <;> simpa using hb

/-! ### Trace -/

@[simp] theorem Chip.sinkLine_canonical {b : Chip} (h : b.stores.Canonical) (d : Bytes) (err : Nat) :
    (b.sinkLine d err).stores.Canonical := by
  simp only [Chip.sinkLine]
  split_ifs <;> simp [h]

@[simp] theorem Chip.dramSlot_canonical {b : Chip} (h : b.stores.Canonical) (d : Bytes) (err : Nat) :
    (b.dramSlot d err).stores.Canonical := by
  simp [Chip.dramSlot, h]

@[simp] theorem Chip.sinkTake_canonical {b : Chip} (h : b.stores.Canonical) (d : Bytes) (err : Nat) :
    (b.sinkTake d err).stores.Canonical := by
  simp only [Chip.sinkTake]
  split <;> simp [h]

@[simp] theorem Chip.writePacket_canonical {b : Chip} (h : b.stores.Canonical) (err : Nat) :
    (b.writePacket err).stores.Canonical := by
  simp only [Chip.writePacket]
  split
  · simp [h]
  · split
    · simp [h]
    · split <;> simp [h]

@[simp] theorem Chip.fireTrigger_canonical {b : Chip} (h : b.stores.Canonical) (n t : Nat) :
    (b.fireTrigger n t).stores.Canonical := by
  simp [Chip.fireTrigger, h]

@[simp] theorem Chip.trigger_canonical {b : Chip} (h : b.stores.Canonical) (n t : Nat) :
    (b.trigger n t).stores.Canonical := by
  simp [Chip.trigger, h]

/-! ### Inject -/

@[simp] theorem Chip.setInjection_canonical {b : Chip} (h : b.stores.Canonical) (v : Nat) :
    Res.Canonical (b.setInjection v) := by
  simp [Chip.setInjection, h]

@[simp] theorem Chip.override_canonical {b : Chip} (h : b.stores.Canonical) (idx sub v : Nat) :
    Res.Canonical (b.override idx sub v) := by
  simp [Chip.override, h]

@[simp] theorem Chip.injectStall_canonical {b : Chip} (h : b.stores.Canonical) (v : Nat) :
    Res.Canonical (b.injectStall v) := by
  simp [Chip.injectStall, h]

@[simp] theorem Chip.injectUnlock_canonical {b : Chip} (h : b.stores.Canonical) (v : Nat) :
    Res.Canonical (b.injectUnlock v) := by
  simp [Chip.injectUnlock, h]

@[simp] theorem Chip.injectMemory_canonical {b : Chip} (h : b.stores.Canonical) (code : Nat) :
    Res.Canonical (b.injectMemory code) := by
  simp [Chip.injectMemory, h]

@[simp] theorem Chip.injectMismatch_canonical {b : Chip} (h : b.stores.Canonical) (which : Nat) :
    Res.Canonical (b.injectMismatch which) := by
  simp [Chip.injectMismatch, h]

@[simp] theorem Chip.injectSlices_canonical {b : Chip} (h : b.stores.Canonical) (code : Nat) :
    Res.Canonical (b.injectSlices code) := by
  simp [Chip.injectSlices, h]

@[simp] theorem Chip.injectMiss_canonical {b : Chip} (h : b.stores.Canonical) (cause : Nat) :
    Res.Canonical (b.injectMiss cause) := by
  simp [Chip.injectMiss, h]

@[simp] theorem Chip.injectVane_canonical {b : Chip} (h : b.stores.Canonical) (code : Nat) :
    Res.Canonical (b.injectVane code) := by
  simp only [Chip.injectVane]
  split <;> simp [h]

@[simp] theorem Chip.injectHub_canonical {b : Chip} (h : b.stores.Canonical) (code : Nat) :
    Res.Canonical (b.injectHub code) := by
  simp [Chip.injectHub, h]

@[simp] theorem Chip.injectCupola_canonical {b : Chip} (h : b.stores.Canonical) (code : Nat) :
    Res.Canonical (b.injectCupola code) := by
  simp [Chip.injectCupola, h]

@[simp] theorem Chip.injectHost_canonical {b : Chip} (h : b.stores.Canonical) (code : Nat) :
    Res.Canonical (b.injectHost code) := by
  simp only [Chip.injectHost]
  split <;> simp [h]

@[simp] theorem Chip.injectField_canonical {b : Chip} (h : b.stores.Canonical) (code : Nat) :
    Res.Canonical (b.injectField code) := by
  simp only [Chip.injectField]
  split <;> simp [h]

@[simp] theorem Chip.injectLoader_canonical {b : Chip} (h : b.stores.Canonical) (code : Nat) :
    Res.Canonical (b.injectLoader code) := by
  simp [Chip.injectLoader, h]

@[simp] theorem Chip.injectWatch_canonical {b : Chip} (h : b.stores.Canonical) (code : Nat) :
    Res.Canonical (b.injectWatch code) := by
  simp only [Chip.injectWatch]
  split
  · simp [h]
  · split
    · simp [h]
    · split <;> simp [h]

@[simp] theorem Chip.injectCrc_canonical {b : Chip} (h : b.stores.Canonical) (code : Nat) :
    Res.Canonical (b.injectCrc code) := by
  simp only [Chip.injectCrc]
  split <;> simp [h]

@[simp] theorem Chip.injectMonitor_canonical {b : Chip} (h : b.stores.Canonical) (code sev : Nat) :
    (b.injectMonitor code sev).stores.Canonical := by
  simp [Chip.injectMonitor, h]

@[simp] theorem Chip.injectLantern_canonical {b : Chip} (h : b.stores.Canonical) (code : Nat) :
    Res.Canonical (b.injectLantern code) := by
  simp only [Chip.injectLantern]
  split <;> simp [h]

@[simp] theorem Chip.injectDebug_canonical {b : Chip} (h : b.stores.Canonical) (code : Nat) :
    Res.Canonical (b.injectDebug code) := by
  simp [Chip.injectDebug, h]

/-! ### DictRead -/

theorem numBytes_fst (n : Nat) (x : Chip × Nat) : (numBytes n x).1 = x.1 := rfl

theorem Chip.fst_ite_canonical {α : Type} {p : Prop} [Decidable p] {x y : Chip × α} (hx : x.1.stores.Canonical)
    (hy : y.1.stores.Canonical) : (if p then x else y).1.stores.Canonical := by
  split
  · exact hx
  · exact hy

@[simp] theorem Chip.readEntry_canonical {b : Chip} (h : b.stores.Canonical) (o idx sub : Nat) (e : Entry) :
    (b.readEntry o idx sub e).1.stores.Canonical := by
  refine Chip.fst_ite_canonical ?_ <| Chip.fst_ite_canonical ?_ <|
    Chip.fst_ite_canonical (Chip.groupRead_canonical h _ _) <| Chip.fst_ite_canonical ?_ <|
    Chip.fst_ite_canonical ?_ <| Chip.fst_ite_canonical ?_ <| Chip.fst_ite_canonical ?_ <|
    Chip.fst_ite_canonical ?_ <|
    Chip.fst_ite_canonical h <| Chip.fst_ite_canonical h <| Chip.fst_ite_canonical h h
  · simpa [numBytes_fst] using h
  · simpa using h
  · simpa [numBytes_fst] using h
  · simpa [numBytes_fst] using h
  · simpa [numBytes_fst] using h
  · simpa [numBytes_fst] using h
  · split
    · exact h
    · simpa using h

@[simp] theorem Chip.readOne_canonical {b : Chip} (h : b.stores.Canonical) (o idx sub : Nat) :
    (b.readOne o idx sub).1.stores.Canonical := by
  simp only [Chip.readOne]
  split
  · exact h
  · exact Chip.readEntry_canonical h _ _ _ _

@[simp] theorem Chip.wholePart_canonical {b : Chip} (h : b.stores.Canonical) (o idx sub : Nat) :
    (b.wholePart o idx sub).1.stores.Canonical := by
  simp only [Chip.wholePart]
  split
  · split <;> exact h
  · split
    · exact h
    · exact Chip.readEntry_canonical h _ _ _ _

@[simp] theorem Chip.readParts_canonical {b : Chip} (h : b.stores.Canonical) (o idx : Nat) (l : List Nat) :
    (b.readParts o idx l).1.stores.Canonical := by
  induction l generalizing b with
  | nil => exact h
  | cons sub t ih =>
    have h1 := Chip.wholePart_canonical h o idx sub
    simp only [Chip.readParts]
    generalize b.wholePart o idx sub = x at h1 ⊢
    obtain ⟨c, _ | _⟩ := x
    · exact h1
    · have h2 := ih h1
      dsimp only at h2 ⊢
      generalize c.readParts o idx t = y at h2 ⊢
      obtain ⟨d, _ | _⟩ := y <;> exact h2

@[simp] theorem Chip.readWhole_canonical {b : Chip} (h : b.stores.Canonical) (o idx lo : Nat) :
    (b.readWhole o idx lo).1.stores.Canonical := by
  simp only [Chip.readWhole]
  split_ifs
  · exact h
  · exact h
  · exact Chip.readParts_canonical h _ _ _

/-! ### DictWrite -/

@[simp] theorem Chip.storeReg_canonical {b : Chip} (h : b.stores.Canonical) (idx sub v : Nat) :
    Res.Canonical (b.storeReg idx sub v) := by
  simp [Chip.storeReg, h]

@[simp] theorem Chip.writeBank_canonical {b : Chip} (h : b.stores.Canonical) (k sub v : Nat) :
    Res.Canonical (b.writeBank k sub v) := by
  simp only [Chip.writeBank]
  split <;> simp [h]

@[simp] theorem Chip.writeRegionEntry_canonical {b : Chip} (h : b.stores.Canonical) (r sub v : Nat) :
    Res.Canonical (b.writeRegionEntry r sub v) := by
  simp only [Chip.writeRegionEntry]
  split <;> simp [h]

@[simp] theorem Chip.writePart_canonical {b : Chip} (h : b.stores.Canonical) (p sub v : Nat) :
    Res.Canonical (b.writePart p sub v) := by
  simp [Chip.writePart, h]

@[simp] theorem Chip.setDeskew_canonical {b : Chip} (h : b.stores.Canonical) (idx sub v : Nat) :
    Res.Canonical (b.setDeskew idx sub v) := by
  simp [Chip.setDeskew, h]

@[simp] theorem Chip.setLogPath_canonical {b : Chip} (h : b.stores.Canonical) (o sub v : Nat) :
    Res.Canonical (b.setLogPath o sub v) := by
  simp [Chip.setLogPath, h]

@[simp] theorem Chip.writeInject_canonical {b : Chip} (h : b.stores.Canonical) (idx sub v : Nat) :
    Res.Canonical (b.writeInject idx sub v) := by
  simp only [Chip.writeInject]
  split <;> simp [h]

theorem startOf_canonical {b : Chip} (h : b.stores.Canonical) {idx : Nat} {f : Chip → Nat → Chip}
    (hf : startOf idx = some f)
    (o : Nat) : (f b o).stores.Canonical := by
  unfold startOf at hf
  split at hf <;> cases hf <;> simp [h]

@[simp] theorem Chip.writeDebug_canonical {b : Chip} (h : b.stores.Canonical) (idx sub v : Nat) :
    Res.Canonical (b.writeDebug idx sub v) := by
  simp only [Chip.writeDebug]
  split <;> simp [h]

@[simp] theorem Chip.effect_canonical {b : Chip} (h : b.stores.Canonical) (o idx sub v : Nat) :
    (Chip.effect o idx sub v b).Canonical := by
  have hs : Res.Canonical (b.storeReg idx sub v) := Chip.storeReg_canonical h _ _ _
  unfold Chip.effect
  split
  · split_ifs <;> simp [h, hs]
  · split_ifs <;> simp [h, hs]
  · split_ifs
    · exact Chip.serial_canonical h _ _ _ fun _ o hb => Chip.startCommit_canonical hb o
    · simp [h]
    · exact hs
  · split_ifs <;> simp [h, hs]
  · split_ifs <;> simp [h, hs]
  · split_ifs <;> simp [h, hs]
  · split_ifs <;> simp [h, hs]
  · simp [h]
  · simp [h]
  · simp [h]
  · split
    · split
      · next hf => exact Chip.serial_canonical h _ _ _ fun _ o hb => startOf_canonical hb hf o
      · exact hs
    · exact hs
  · exact hs

theorem asAbort_fst (x : Chip × Except Nat Unit) : (asAbort x).1 = x.1 := rfl

@[simp] theorem Chip.stringEffect_canonical {b : Chip} (h : b.stores.Canonical) (idx sub : Nat) (d : Bytes) :
    (b.stringEffect idx sub d).1.stores.Canonical := by
  simp only [Chip.stringEffect]
  split_ifs
  · simp [asAbort_fst, h]
  · simp [asAbort_fst, h]
  · exact h
  · simpa using h
  · simpa using h

@[simp] theorem Chip.writeBytes_canonical {b : Chip} (h : b.stores.Canonical) (o idx sub : Nat) (d : Bytes)
    (len : Nat) : (b.writeBytes o idx sub d len).1.stores.Canonical := by
  simp only [Chip.writeBytes]
  split
  · exact h
  · split
    · exact Chip.stringEffect_canonical h _ _ _
    · split
      · next c hc => exact Chip.effect_canonical h _ _ _ _ c hc
      · exact h

theorem Chip.checkAssign_canonical {b : Chip} (h : b.stores.Canonical) (idx : Nat) {x : Chip × Option Nat}
    (hx : x.1.stores.Canonical) : (Chip.checkAssign idx b x).1.stores.Canonical := by
  simp only [Chip.checkAssign]
  split
  · exact hx
  · split
    · exact h
    · exact hx

@[simp] theorem Chip.writeOne_canonical {b : Chip} (h : b.stores.Canonical) (o idx sub : Nat) (d : Bytes) :
    (b.writeOne o idx sub d).1.stores.Canonical :=
  Chip.checkAssign_canonical h _ (Chip.writeBytes_canonical h _ _ _ _ _)

@[simp] theorem Chip.storeWhole_canonical {b : Chip} (h : b.stores.Canonical) (o idx : Nat) (serial : Bool)
    (d sn : Bytes)
    (l : List Nat) : (b.storeWhole o idx serial d sn l).1.stores.Canonical := by
  induction l generalizing b d sn with
  | nil => exact h
  | cons sub t ih =>
    unfold Chip.storeWhole
    split
    · exact ih h _ _
    · next e _ =>
      extract_lets n
      split
      · exact h
      split
      · exact ih h _ _
      split
      · exact ih h _ _
      have h' := Chip.writeBytes_canonical h o idx sub (d.take n) (if e.ty.bytes = 0 then n else e.ty.bytes)
      generalize b.writeBytes o idx sub (d.take n) _ = x at h' ⊢
      obtain ⟨c, _ | _⟩ := x
      · exact ih h' _ _
      · exact ih h' _ _

@[simp] theorem Chip.writeWhole_canonical {b : Chip} (h : b.stores.Canonical) (o idx lo : Nat) (d : Bytes) :
    (b.writeWhole o idx lo d).Canonical := by
  unfold Chip.writeWhole
  extract_lets subs serial
  split
  · exact Res.canonical_error _
  split
  · exact Res.canonical_error _
  split
  · exact Res.canonical_error _
  have h1 := Chip.storeWhole_canonical h o idx serial d [] subs
  generalize b.storeWhole o idx serial d [] subs = x at h1 ⊢
  obtain ⟨c, r, sn, rest⟩ := x
  refine wholeWrite_canonical (Chip.checkAssign_canonical h _ h1) fun c hc => ?_
  split
  · exact Res.canonical_ok.2 hc
  · have h2 := Chip.writeBytes_canonical hc o idx 1 sn sn.length
    generalize c.writeBytes o idx 1 sn sn.length = y at h2 ⊢
    obtain ⟨e, _ | _⟩ := y
    · exact Res.canonical_ok.2 h2
    · exact Res.canonical_error _

/-! ### Sdo -/

@[simp] theorem Chip.finishWrite_canonical {x : Chip × Option Nat} (h : x.1.stores.Canonical) (o : Nat) :
    (finishWrite o x).stores.Canonical := by
  simp only [finishWrite]
  split <;> simpa using h

@[simp] theorem Chip.download_canonical {b : Chip} (h : b.stores.Canonical) (o idx sub : Nat) (complete : Bool)
    (d : Bytes) : (b.download o idx sub complete d).stores.Canonical := by
  simp only [Chip.download]
  split
  · exact Chip.finish_canonical h _ (Chip.writeWhole_canonical h _ _ _ _)
  · exact Chip.finishWrite_canonical (Chip.writeOne_canonical h _ _ _ _) _

@[simp] theorem Chip.sdoDown_canonical {b : Chip} (h : b.stores.Canonical) (o idx sub : Nat) (complete : Bool)
    (d : Bytes) (total : Nat) : (b.sdoDown o idx sub complete d total).stores.Canonical := by
  simp [Chip.sdoDown, h]

@[simp] theorem Chip.sdoUp_canonical {b : Chip} (h : b.stores.Canonical) (o idx sub : Nat)
    (complete segmented : Bool) : (b.sdoUp o idx sub complete segmented).stores.Canonical := by
  have h' : (if complete then b.readWhole o idx sub else b.readOne o idx sub).1.stores.Canonical := by
    split <;> simp [h]
  simp only [Chip.sdoUp]
  generalize (if complete then b.readWhole o idx sub else b.readOne o idx sub) = x at h' ⊢
  obtain ⟨c, _ | _⟩ := x
  · simpa using h'
  · dsimp only
    split <;> simpa using h'

@[simp] theorem Chip.segmentRequest_canonical {b : Chip} (h : b.stores.Canonical) (q : Req) {f : Chip → Chip}
    (hf : ∀ b, b.stores.Canonical → (f b).stores.Canonical) : (b.segmentRequest q f).stores.Canonical := by
  have h' := hf (b.upTo q.t) (by simpa using h)
  simp [Chip.segmentRequest, h, h']

@[simp] theorem Chip.downSegment_canonical {b : Chip} (h : b.stores.Canonical) (o : Nat) (toggle last : Bool)
    (d : Bytes) : (b.downSegment o toggle last d).stores.Canonical := by
  simp only [Chip.downSegment]
  split <;> simp [h]

/-! ### Mailboxes -/

@[simp] theorem Chip.writeNumber_canonical {b : Chip} (h : b.stores.Canonical) (o idx sub v : Nat) :
    (b.writeNumber o idx sub v).1.stores.Canonical := by
  simp only [Chip.writeNumber]
  split_ifs <;> simp [h]

@[simp] theorem Chip.registerWrite_canonical {b : Chip} (h : b.stores.Canonical) (q : Req) (g : Register)
    (v : Nat) : (b.registerWrite q g v).stores.Canonical := by
  cases g with
  | dict idx sub =>
    exact Chip.request_canonical h q fun _ hb => Chip.finishWrite_canonical (Chip.writeNumber_canonical hb _ _ _ _) _
  | bar0 hp offset => simp [Chip.registerWrite, h]
  | esc addr => simp [Chip.registerWrite, h]
  | lanternWindowBase => simp [Chip.registerWrite, h]
  | lanternMonitorVector => simp [Chip.registerWrite, h]

/-! ## The commands -/

theorem planeWf_putFrames {plane : List FrameRun} (l : List (BitVec 2048)) (lo a z : Nat) (h : planeWf plane) :
    planeWf (putFrames l lo a z plane) :=
  List.foldlRecOn _ _ (motive := planeWf) h fun _ hp _ _ => planeWf_runPut _ _ _ _ hp

theorem next_canonical {s : State} {b : Chip} (hb : b.stores.Canonical) :
    ∀ t, (.next (s.on b) : Out) = .next t → t.Canonical := by
  rintro t ⟨⟩
  exact (State.canonical_iff _).2 hb

/-- The cases name the rows by their form: the write of an entry, a command object, an instruction of a group, a body
command of a stream, and so on; the rest are plain functions of the device. -/
theorem exec_canonical {s : State} (hb : s.toChip.stores.Canonical) (i : Instr) :
    ∀ t, exec i s = .next t → t.Canonical := by
  cases i
  case disciplineSourceWrite | correctionSerial | bankModeWrite | ioVoltageWrite | directOutputWrite |
      patternControlWrite | clearContention | clearWatermarks | startMaskWrite | stopMaskWrite | clearFlags |
      partitionOwnerWrite | partitionClaimWrite | commitCancel | watchdogTimeoutWrite | clearSticky |
      debugSessionOpen | debugSessionClose | monitorEnter | monitorResume | watchdogHold | traceEnable |
      injectionEnable | injectSelfTestFailure | injectClosingTestCutShort | injectClockSwitchStall |
      injectMemoryBitFlip | injectMemoryDoubleFlip | injectWritePointerMismatch | injectReadPointerMismatch |
      injectIllegalInstruction | injectCoefficientBitFlip | injectCoefficientDoubleFlip |
      injectInstructionBitFlip | injectInstructionDoubleFlip | injectUnlock | injectSourceLoss |
      injectPpsDisplacement | injectMissCrossingLate | injectMissBankConflict | injectMissUnplannedBank |
      injectMissHubNotReady | injectMissWindowTarget | injectMissHubLate | injectMissQueueStall |
      injectMissVaneLate | injectMissSequencerOverrun | injectVaneLate | injectVaneOutOfOrder |
      injectVaneFifoOverflow | injectVaneRateViolation | injectVaneContention | injectVaneVccoFault |
      injectVaneCalibrationLimit | injectDramCorrectable | injectDramUncorrectable | injectDramCrcError |
      injectTrainingFailure | injectDimmTemperature | injectDimmSensorFailure | injectTagFailure |
      injectMetadataUncorrectable | injectMinorOverflow | injectMajorWrap | injectCacheCorrectable |
      injectPcieLinkDown | injectDmaError | injectDoorbellOverrun | injectEcatLinkLoss | injectSmWatchdog |
      injectEventMissed | injectMailboxRepeat | injectStreamTagFailure | injectStreamCutShort |
      injectStandbyLockFailure | injectBootDirectoryEmpty | injectFrameBitFlip | injectFrameTripleFlip |
      injectFrameAndTwinFlip | injectFrameStuckBit | injectWithheldHeartbeat | injectPassPointerCorruption |
      injectCrcSingleError | injectCrcUncorrectable | injectSensorFailure | injectPowerFault |
      injectClockLoss | injectWatchdogExpiry | injectSramUncorrectable | injectSramCorrectable |
      injectSensorTemperature | injectTraceSinkError | injectTracePacketDrop | injectTriggerFire |
      rightsWrite =>
    exact next_canonical (Chip.writeRow_canonical hb _ _ _ _ fun _ hb => by simp [hb])
  case shutdown | recover | belfryStep | rearm | islandRestart | rateChange | regionDefine | regionDelete |
      regionRekey | regionReinitialize | partitionReset | loadFromHost | loadFromFlash | commitNextBoundary |
      commitAtFrame | commitAtInstant | commitGate | testDramChannel | acceptPowerUpResult | flashWriteImage |
      confirmImage | advanceRollback | writeBootStreamEntry0 | writeBootStreamEntry1 | halt | resume | step |
      testBlockMemories | testScratchpadBank | testGroupMemories =>
    exact next_canonical (Chip.commandRow_canonical hb _ _ _ _ fun _ _ hb => by simp [hb])
  case nop | stop | jmp | djnz | loop | rep | ret | waitg | evmask | seta | adda | setm | clrf | mac | msu |
      mul | add | sub | absd | mova | lda | sha | mina | maxa | fma | fms | fmul | fadd | cvtf | cvti | acs2 |
      acs4 | minp | out | stc =>
    exact next_canonical (Chip.issue_canonical hb _ _ _ fun _ _ hb => by simp [hb])
  case contract | streamEnd =>
    exact next_canonical (Chip.body_canonical hb _ fun _ _ hb => by simp [hb])
  case region | table | pdmap =>
    exact next_canonical (Chip.body_canonical hb _ fun _ _ hb =>
      Chip.forRegion_canonical hb _ _ _ fun _ hb => by simp [hb])
  case frames =>
    exact next_canonical (Chip.body_canonical hb _ fun _ _ hb => by
      rw [Chip.addSettings_stores]
      exact Chip.writeFrames_canonical hb _ _ _ fun _ _ _ _ hp => planeWf_putFrames _ _ _ _ hp)
  case fill =>
    exact next_canonical (Chip.body_canonical hb _ fun _ _ hb => by
      rw [Chip.addSettings_stores]
      exact Chip.writeFrames_canonical hb _ _ _ fun _ _ _ _ hp => planeWf_runPut _ _ _ _ hp)
  case memoryDataRead | groupMemoryDataRead =>
    exact next_canonical (Chip.readRow_canonical hb _ _ _ fun _ hb => by simp [hb])
  case memoryDataWrite | groupMemoryDataWrite =>
    exact next_canonical (Chip.writeBytesRow_canonical hb _ _ _ _ fun _ hb => by simp [hb])
  case observeQueueHead | observeCaptureHead =>
    exact next_canonical (Chip.restrictedRead_canonical hb _ _ _ _)
  case bmRead | bmWrite | bmBitSet | bmBitClear =>
    exact next_canonical (Chip.bmAccess_canonical (by simp [hb]) _ _ fun _ _ hb => by simp [hb])
  case sdoDownload | sdoUpload | sdoInformation | logRead =>
    exact next_canonical (Chip.request_canonical hb _ fun _ hb => by simp [hb])
  case sdoDownloadSegment | sdoUploadSegment =>
    exact next_canonical (Chip.segmentRequest_canonical hb _ fun _ hb => by simp [hb])
  case probeSelectWrite =>
    refine next_canonical ?_
    split
    · exact Chip.writeRow_canonical hb _ _ _ _ fun _ hb => by simp [hb]
    · exact hb
  case spStallRetry =>
    refine next_canonical ?_
    dsimp only
    split <;> simp [hb]
  case sdoTransferTimeout =>
    refine next_canonical ?_
    dsimp only
    split <;> simp [hb]
  case fabricStimulus =>
    refine next_canonical ?_
    dsimp only
    split_ifs <;> simp [hb]
  case lanternStimulus =>
    refine next_canonical ?_
    dsimp only
    split_ifs <;> simp [hb]
  all_goals exact next_canonical (by simp [hb])

/-- Settles O59: a step is the idle cycle, which leaves the stores alone, or the command at the front of the queue. -/
theorem stepsKeepTheCanonicalForm : Obligations.StepsKeepTheCanonicalForm := by
  unfold Obligations.StepsKeepTheCanonicalForm
  intro s t h hs
  have hb := (State.canonical_iff s).1 h
  unfold step at hs
  split at hs
  · exact next_canonical (s := s) (by simpa using hb) t hs
  · next rest _ => exact exec_canonical (s := s.withPending rest) hb _ t hs

end Sys2Proof.Machine

/-! # Block memories, scratchpads and their transfers (O18 to O21)

The first part says once what an operation of a memory does to its words, to the results that its ports show and to the
areas of the device; the accesses of the ports, of maintenance and of the dictionary are then compositions of these. -/

namespace Sys2Proof.Machine

open Sys2Proof

/-! ## The stored words of a block memory -/

theorem bmUnit_bmWordKey (m : BmSel) (a : Nat) : bmUnit (bmWordKey m a) = bmKey m.r m.b m.m := by
  unfold bmUnit bmWordKey
  omega

/-- A word that has been written has no undefined contents. -/
theorem Chip.undefIn_noteWritten (b : Chip) (u : MemUnit) (k : Nat) : (b.noteWritten u k).undefIn u k = none := by
  unfold Chip.noteWritten
  cases h : b.undefIn u k with
  | none => exact h
  | some e =>
    have hkey : ((fun x : MemUnit × Nat × List Nat => x.1 == u) ∘
        fun x => if x.1 == u then (x.1, x.2.1, k :: x.2.2) else x) = fun x => x.1 == u := by
      funext x
      by_cases hx : x.1 = u <;> simp [hx]
    simp only [Chip.undefIn, List.find?_map, hkey]
    cases hf : b.mem.undef.find? fun x => x.1 == u with
    | none => rfl
    | some x =>
      have hx : x.1 = u := by simpa using List.find?_some hf
      simp [hx]

/-- A write notes its word in the records of undefined contents and nowhere else. -/
theorem Chip.noteWritten_eq (b : Chip) (u : MemUnit) (k : Nat) :
    b.noteWritten u k = { b with mem := { b.mem with undef := (b.noteWritten u k).mem.undef } } := by
  unfold Chip.noteWritten
  cases b.undefIn u k <;> rfl

theorem Area.same_mem {x : Area} (h : x ≠ .mem) (b : Chip) (y : Memories) : x.same b { b with mem := y } := by
  cases x <;> simp_all [Area.same]

theorem Area.same_mem_inject {x : Area} (h : x ∉ [Area.mem, .inject]) (b : Chip) (y : Memories) (z : Inject) :
    x.same b { b with mem := y, inject := z } := by
  cases x <;> simp_all [Area.same]

theorem Area.same_tookFree {x : Area} (h : x ≠ .free) (b : Chip) : x.same b b.tookFree := by
  cases x <;> simp_all [Area.same, Chip.tookFree]

section
variable {b : Chip} {k : Nat}

/-! ### A store -/

/-- The word that a store leaves, and what else it changes. -/
theorem Chip.bmStore_eq (b : Chip) (k : Nat) (d : BitVec 40) : b.bmStore k d =
    Chip.unarmAt { b with mem := { b.mem with
      undef := (b.noteWritten (.bm (bmSelOf k)) k).mem.undef
      bm := Mem.set b.mem.bm k
        (if b.bmBypass k then join40 (high8 d ^^^ Config.bmCheck (low32 d) (k % 1024)) (low32 d)
          else BitVec.setWidth 40 (low32 d))
      bmErr := Tab.drop (fun i => i == k) b.mem.bmErr } } 0x2D20 k := by
  unfold Chip.bmStore
  rw [b.noteWritten_eq (.bm (bmSelOf k)) k]

theorem Chip.bmStored_bmStore (hb : b.bmBypass k = false) (d : BitVec 40) :
    (b.bmStore k d).bmStored k = BitVec.setWidth 40 (low32 d) := by
  have hu : (b.bmStore k d).undefIn (.bm (bmSelOf k)) k = none := b.undefIn_noteWritten (.bm (bmSelOf k)) k
  rw [Chip.bmStored, hu]
  show Mem.get (b.bmStore k d).mem.bm k = _
  rw [Chip.bmStore_eq, hb]
  exact Mem.get_set_self _ _ _

theorem Chip.bmFlips_bmStore (b : Chip) (k : Nat) (d : BitVec 40) : (b.bmStore k d).bmFlips k = (0#40, false) := by
  rw [Chip.bmFlips, Chip.bmStore_eq]
  exact Tab.get_drop_hit _ (fun i => i == k) _ _ (beq_self_eq_true k)

theorem Chip.get_bmStore_ne (b : Chip) {j : Nat} (h : j ≠ k) (d : BitVec 40) :
    Mem.get (b.bmStore k d).mem.bm j = Mem.get b.mem.bm j := by
  rw [Chip.bmStore_eq]
  exact Mem.get_set_ne _ _ _ _ h

@[simp] theorem Chip.sp_bmStore (b : Chip) (k : Nat) (d : BitVec 40) : (b.bmStore k d).mem.sp = b.mem.sp := by
  rw [Chip.bmStore_eq]
  rfl

theorem Area.same_bmStore {x : Area} (h : x ∉ [Area.mem, .inject]) (b : Chip) (k : Nat) (d : BitVec 40) :
    x.same b (b.bmStore k d) := by
  rw [Chip.bmStore_eq]
  exact Area.same_mem_inject h b _ _

/-! ### A read -/

theorem eccFind_zero (addr w : Nat) : eccFind 0 addr w = .clean := by
  have h : ones 0 w = 0 := by simp [ones, bitsOf]
  simp [eccFind, h]

theorem bitsWith_zero (w : BitVec 40) : bitsWith w 0#40 = low32 w := by
  simp [bitsWith]

theorem low32_setWidth (d : BitVec 32) : low32 (BitVec.setWidth 40 d) = d := by
  simp [low32]

/-- The word holds data written in ECC mode, without flipped bits. -/
structure Chip.BmPlain (b : Chip) (k : Nat) : Prop where
  ecc : b.bmBypass k = false
  flips : (b.bmFlips k).1 = 0#40
  upper : high8 (b.bmStored k) = 0#8

theorem Chip.BmPlain.found (h : b.BmPlain k) : b.bmFound k = .clean := by
  have h0 : bmPattern (b.bmStored k) (b.bmFlips k).1 = 0#40 := by
    rw [bmPattern, h.upper, h.flips]
    rfl
  rw [Chip.bmFound, h0]
  exact eccFind_zero _ _

theorem Chip.bmRead_clean (he : b.bmBypass k = false) (hf : b.bmFound k = .clean) (reader : Nat) :
    b.bmRead k reader = (b, BitVec.setWidth 40 (bitsWith (b.bmStored k) (b.bmFlips k).1), false, false) := by
  simp [Chip.bmRead, he, hf]

theorem Chip.BmPlain.read (h : b.BmPlain k) (reader : Nat) :
    b.bmRead k reader = (b, BitVec.setWidth 40 (low32 (b.bmStored k)), false, false) := by
  rw [Chip.bmRead_clean h.ecc h.found, h.flips, bitsWith_zero]

end

/-! ### Results and records of a port -/

theorem BmState.out_setOut (x : BmState) (p : BmPort) (o : List PortOut) : (x.setOut p o).out p = o := by
  cases p <;> rfl

theorem BmState.out_setLast (x : BmState) (p q : BmPort) (y : Option BmAccess) : (x.setLast p y).out q = x.out q := by
  cases p <;> cases q <;> rfl

theorem getLast?_addOut (l : List PortOut) (c : Nat) (o : PortOut) : (addOut l c o).getLast? = some o := by
  simp [addOut]

section
variable (b : Chip) (u : Nat) (f : BmState → BmState)

theorem Chip.bmState_modBm : (b.modBm u f).bmState u = f (b.bmState u) :=
  Tab.get_mod_self _ _ _ _

theorem Area.same_modBm {x : Area} (h : x ≠ .mem) : x.same b (b.modBm u f) := Area.same_mem h b _

end

/-- An access of a port that no detection meets ends with its result, shown two cycles later, and its record. -/
def Chip.bmEnds (b : Chip) (m : BmSel) (p : BmPort) (c a : Nat) (op : BmOp) (d : BitVec 40) (coll valid : Bool)
    (old : BitVec 40 × BitVec 40 × Bool) : Chip :=
  (b.bmOut (bmKey m.r m.b m.m) p c d false false coll false valid).bmNote (bmKey m.r m.b m.m) p c a op old.1 old.2 false

section
variable (b : Chip) (m : BmSel) (p : BmPort) (c a : Nat) (op : BmOp) (d : BitVec 40) (coll valid : Bool)
  (old : BitVec 40 × BitVec 40 × Bool)

theorem Chip.getLast?_bmOut (u : Nat) (cor err uut : Bool) :
    (((b.bmOut u p c d cor err coll uut valid).bmState u).out p).getLast? =
      some { data := BitVec.setWidth 256 d, cor, err, uut, coll, valid, at_ := c + 2 } := by
  rw [Chip.bmOut, Chip.bmState_modBm, BmState.out_setOut, getLast?_addOut]

theorem Chip.getLast?_bmEnds :
    (((b.bmEnds m p c a op d coll valid old).bmState (bmKey m.r m.b m.m)).out p).getLast? =
      some { data := BitVec.setWidth 256 d, coll, valid, at_ := c + 2 } := by
  rw [Chip.bmEnds, Chip.bmNote, Chip.bmState_modBm, BmState.out_setLast, Chip.getLast?_bmOut]

@[simp] theorem Chip.sp_bmEnds : (b.bmEnds m p c a op d coll valid old).mem.sp = b.mem.sp := rfl
@[simp] theorem Chip.bmStored_bmEnds (k : Nat) : (b.bmEnds m p c a op d coll valid old).bmStored k = b.bmStored k := rfl
@[simp] theorem Chip.bmFlips_bmEnds (k : Nat) : (b.bmEnds m p c a op d coll valid old).bmFlips k = b.bmFlips k := rfl

theorem Area.same_bmEnds {x : Area} (h : x ≠ .mem) : x.same b (b.bmEnds m p c a op d coll valid old) :=
  (Area.same_modBm _ _ _ h).trans (Area.same_modBm _ _ _ h)

end

/-! ## Block memory ports (O18, O19) -/

section
variable {b : Chip} {m : BmSel} {p : BmPort} {a : Nat}

/-- The port takes an access now: its memory runs and is not under test (R158, R171). -/
structure Chip.BmTakes (b : Chip) (m : BmSel) (p : BmPort) : Prop where
  runs : b.bmRuns m = true
  free : b.bmFree (bmKey m.r m.b m.m) p (b.bmCycle m) = true
  untested : b.underTest (.bm m) = false

theorem Chip.BmTakes.bmAccess (h : b.BmTakes m p) (f : Chip → Nat → Chip) : b.bmAccess m p f = f b (b.bmCycle m) := by
  simp [Chip.bmAccess, h.runs, h.free, h.untested]

theorem Chip.bmAccess_tested (hr : b.bmRuns m = true) (hf : b.bmFree (bmKey m.r m.b m.m) p (b.bmCycle m) = true)
    (ht : b.underTest (.bm m) = true) (f : Chip → Nat → Chip) : b.bmAccess m p f = b.bmTested m p (b.bmCycle m) := by
  simp [Chip.bmAccess, hr, hf, ht]

/-- No access of the other port or of maintenance meets an access to the word in cycle c. -/
structure Chip.BmAlone (b : Chip) (m : BmSel) (p : BmPort) (a c : Nat) : Prop where
  port : b.bmMeets (bmKey m.r m.b m.m) p a c = none
  maint : b.maintMeets (bmKey m.r m.b m.m) a c = none

theorem Chip.BmAlone.maintLoses {c : Nat} (h : b.BmAlone m p a c) (k : Nat) :
    b.maintLoses (bmKey m.r m.b m.m) k a c = b := by
  simp [Chip.maintLoses, h.maint]

theorem Chip.BmAlone.bmPortRead {c : Nat} (h : b.BmAlone m p a c) (hk : b.BmPlain (bmWordKey m a)) :
    b.bmPortRead m p a c false = b.bmEnds m p c a .read (BitVec.setWidth 40 (low32 (b.bmStored (bmWordKey m a)))) false
      true (b.bmStored (bmWordKey m a), b.bmFlips (bmWordKey m a)) := by
  simp [Chip.bmPortRead, bmUnit_bmWordKey, h.port, h.maint, hk.read, Chip.bmEnds]

theorem Chip.BmAlone.bmPortWrite {c : Nat} (h : b.BmAlone m p a c) (d : BitVec 40) :
    b.bmPortWrite m p a c d = (b.bmStore (bmWordKey m a) d).bmEnds m p c a .write 0#40 false false
      (b.bmStored (bmWordKey m a), b.bmFlips (bmWordKey m a)) := by
  simp [Chip.bmPortWrite, bmUnit_bmWordKey, h.port, h.maintLoses, Chip.bmEnds]

/-- The word that a bit-set or a bit-clear stores for an old one (R161). -/
def rmwWord (op : BmOp) (d mask : BitVec 40) : BitVec 40 := if op = .set then d ||| mask else d &&& ~~~mask

theorem Chip.BmAlone.bmPortRmw {c : Nat} (h : b.BmAlone m p a c) (hk : b.BmPlain (bmWordKey m a)) (op : BmOp)
    (mask : BitVec 40) :
    b.bmPortRmw m p a c op mask =
      (b.bmStore (bmWordKey m a) (rmwWord op (BitVec.setWidth 40 (low32 (b.bmStored (bmWordKey m a)))) mask)).bmEnds m p c a
        op (BitVec.setWidth 40 (low32 (b.bmStored (bmWordKey m a)))) false true
        (b.bmStored (bmWordKey m a), b.bmFlips (bmWordKey m a)) := by
  simp [Chip.bmPortRmw, bmUnit_bmWordKey, h.port, h.maintLoses, hk.read, Chip.bmEnds, rmwWord]

/-- A read that meets a write of its cycle takes undefined data (R160). -/
theorem Chip.bmPortRead_undefined {c : Nat} {spoiled : Bool}
    (h : (∃ y, b.bmMeets (bmKey m.r m.b m.m) p a c = some y ∧ y.lands c = true) ∨
      b.bmMeets (bmKey m.r m.b m.m) p a c = none ∧ spoiled = true) :
    ∃ d, b.bmPortRead m p a c spoiled = b.tookFree.bmEnds m p c a .read d true true
      (b.bmStored (bmWordKey m a), b.bmFlips (bmWordKey m a)) := by
  obtain ⟨y, hy, hl⟩ | ⟨hy, rfl⟩ := h
  · exact ⟨_, by simp only [Chip.bmPortRead, bmUnit_bmWordKey, hy, hl]; rfl⟩
  · exact ⟨_, by simp only [Chip.bmPortRead, bmUnit_bmWordKey, hy]; rfl⟩

end

theorem exec_bmRead (s : State) (m : BmSel) (p : BmPort) (a t0 : Nat) : exec (.bmRead m p a t0) s =
    .next (s.on ((s.toChip.upTo t0).bmAccess m p fun b c =>
      b.bmPortRead m p a c (s.pending.any (b.writesToo m p a c)))) := rfl

theorem exec_bmWrite (s : State) (m : BmSel) (p : BmPort) (a t0 : Nat) (d : BitVec 40) : exec (.bmWrite m p a d t0) s =
    .next (s.on ((s.toChip.upTo t0).bmAccess m p fun b c => b.bmPortWrite m p a c d)) := rfl

theorem exec_bmBitSet (s : State) (m : BmSel) (p : BmPort) (a t0 : Nat) (d : BitVec 40) : exec (.bmBitSet m p a d t0) s =
    .next (s.on ((s.toChip.upTo t0).bmAccess m p fun b c => b.bmPortRmw m p a c .set d)) := rfl

theorem exec_bmBitClear (s : State) (m : BmSel) (p : BmPort) (a t0 : Nat) (d : BitVec 40) :
    exec (.bmBitClear m p a d t0) s =
    .next (s.on ((s.toChip.upTo t0).bmAccess m p fun b c => b.bmPortRmw m p a c .clear d)) := rfl

/-- An access that ends at its tick, after a change of the listed areas, touches time, the memory and those. -/
theorem OnlyTouches.bmEnds {l : List Area} {s : State} {b : Chip} {m : BmSel} {p : BmPort} {a : Nat}
    (h : OnlyTouches l s (s.on b)) (hm : .mem ∈ l) (c : Nat) (op : BmOp) (d : BitVec 40)
    (coll valid : Bool) (old : BitVec 40 × BitVec 40 × Bool) :
    OnlyTouches l s (s.on (b.bmEnds m p c a op d coll valid old)) :=
  h.extend fun _ hx => Area.same_bmEnds _ _ _ _ _ _ _ _ _ _ (by rintro rfl; exact hx hm)

/-- A store at a tick. -/
theorem OnlyTouches.bmStore (s : State) (t0 k : Nat) (d : BitVec 40) :
    OnlyTouches [.belfry, .mem, .inject] s (s.on ((s.toChip.upTo t0).bmStore k d)) :=
  (OnlyTouches.upTo (by simp) s t0).extend fun _ hx => Area.same_bmStore (by simp_all) _ _ _

/-- What a port shows of a word in ECC mode. -/
theorem setWidth_bmData (d : BitVec 32) : BitVec.setWidth 256 (BitVec.setWidth 40 d) = BitVec.setWidth 256 d := by
  simp

theorem low32_rmwWord (op : BmOp) (w d : BitVec 40) :
    low32 (BitVec.setWidth 40 (low32 (rmwWord op (BitVec.setWidth 40 (low32 w)) d))) =
      if op = .set then low32 w ||| low32 d else low32 w &&& ~~~low32 d := by
  rw [low32_setWidth]
  unfold rmwWord
  split
  · ext i hi
    simp [low32]
  · ext i hi
    have hi40 : i < 40 := by omega
    simp [low32, hi40]

/-- A bit-set or a bit-clear whose access nothing else meets: the old word is shown, the new one is stored (R161). -/
theorem bmPortRmw_effect (s : State) (m : BmSel) (p : BmPort) (a t0 c : Nat) (op : BmOp) (d : BitVec 40)
    (hal : (s.toChip.upTo t0).BmAlone m p a c) (hk : (s.toChip.upTo t0).BmPlain (bmWordKey m a)) :
    let t := s.on ((s.toChip.upTo t0).bmPortRmw m p a c op d)
    low32 (t.bmStored (bmWordKey m a)) = (if op = .set then low32 (s.bmStored (bmWordKey m a)) ||| low32 d
      else low32 (s.bmStored (bmWordKey m a)) &&& ~~~low32 d) ∧
    ((t.bmState (bmKey m.r m.b m.m)).out p).getLast? =
      some { data := BitVec.setWidth 256 (low32 (s.bmStored (bmWordKey m a))), valid := true, at_ := c + 2 } ∧
    (∀ j, j ≠ bmWordKey m a → Mem.get t.mem.bm j = Mem.get s.mem.bm j) ∧
    OnlyTouches [.belfry, .mem, .inject] s t := by
  dsimp only
  rw [hal.bmPortRmw hk]
  refine ⟨?_, ?_, fun j hj => Chip.get_bmStore_ne _ hj _,
    (OnlyTouches.bmStore s t0 _ _).bmEnds (by simp) _ _ _ _ _ _⟩
  · rw [State.on_toChip, Chip.bmStored_bmEnds, Chip.bmStored_bmStore hk.ecc, low32_rmwWord]
    rfl
  · rw [State.on_toChip, Chip.getLast?_bmEnds, setWidth_bmData]
    rfl

/-- Settles O18: each command reduces to the access of its port, whose branch no other access changes. -/
theorem blockMemoryPortsReadAndWrite : Obligations.BlockMemoryPortsReadAndWrite := by
  unfold Obligations.BlockMemoryPortsReadAndWrite
  dsimp only
  refine ⟨?_, ?_, ?_, ?_⟩
  · rintro s m p a t0 - ⟨hr, hf, ht, hm, hx, hp⟩ ⟨he, hfl, hu⟩
    have hk : (s.toChip.upTo t0).BmPlain (bmWordKey m a) := ⟨he, hfl, hu⟩
    refine ⟨_, exec_bmRead s m p a t0, ?_⟩
    rw [Chip.BmTakes.bmAccess ⟨hr, hf, ht⟩, hp, Chip.BmAlone.bmPortRead ⟨hm, hx⟩ hk]
    refine ⟨?_, rfl, rfl, (OnlyTouches.upTo (by simp) s t0).bmEnds (by simp) _ _ _ _ _ _⟩
    rw [State.on_toChip, Chip.getLast?_bmEnds, setWidth_bmData]
    rfl
  · rintro s m p a t0 d - ⟨hr, hf, ht, hm, hx, -⟩ he
    refine ⟨_, exec_bmWrite s m p a t0 d, ?_⟩
    rw [Chip.BmTakes.bmAccess ⟨hr, hf, ht⟩, Chip.BmAlone.bmPortWrite ⟨hm, hx⟩]
    refine ⟨?_, ?_, fun j hj => Chip.get_bmStore_ne _ hj d, ?_,
      (OnlyTouches.bmStore s t0 _ d).bmEnds (by simp) _ _ _ _ _ _⟩
    · rw [State.on_toChip, Chip.bmStored_bmEnds]
      exact Chip.bmStored_bmStore (b := s.toChip.upTo t0) he d
    · rw [State.on_toChip, Chip.bmFlips_bmEnds, Chip.bmFlips_bmStore]
    · rw [State.on_toChip, Chip.sp_bmEnds, Chip.sp_bmStore]; rfl
  · rintro s m p a t0 d - ⟨hr, hf, ht, hm, hx, -⟩ ⟨he, hfl, hu⟩
    refine ⟨_, exec_bmBitSet s m p a t0 d, ?_⟩
    rw [Chip.BmTakes.bmAccess ⟨hr, hf, ht⟩]
    exact bmPortRmw_effect s m p a t0 _ .set d ⟨hm, hx⟩ ⟨he, hfl, hu⟩
  · rintro s m p a t0 d - ⟨hr, hf, ht, hm, hx, -⟩ ⟨he, hfl, hu⟩
    refine ⟨_, exec_bmBitClear s m p a t0 d, ?_⟩
    rw [Chip.BmTakes.bmAccess ⟨hr, hf, ht⟩]
    exact bmPortRmw_effect s m p a t0 _ .clear d ⟨hm, hx⟩ ⟨he, hfl, hu⟩

/-- Settles O19: the branch of the undefined read, and the branch of the memory under test. -/
theorem blockMemoryCollisionsAndTests : Obligations.BlockMemoryCollisionsAndTests := by
  unfold Obligations.BlockMemoryCollisionsAndTests
  dsimp only
  refine ⟨?_, ?_⟩
  · rintro s m p a t0 - hr hf ht hmeet
    obtain ⟨d, hd⟩ := Chip.bmPortRead_undefined hmeet
    refine ⟨_, { data := BitVec.setWidth 256 d, coll := true, valid := true, at_ := (s.toChip.upTo t0).bmCycle m + 2 },
      exec_bmRead s m p a t0, ?_⟩
    rw [Chip.BmTakes.bmAccess ⟨hr, hf, ht⟩, hd]
    have htouch : OnlyTouches [.belfry, .mem, .free] s (s.on (s.toChip.upTo t0).tookFree) :=
      (OnlyTouches.upTo (by simp) s t0).extend fun x hx => Area.same_tookFree (by simp_all) _
    refine ⟨?_, rfl, rfl, rfl, rfl, rfl, htouch.bmEnds (by simp) _ _ _ _ _ _⟩
    rw [State.on_toChip, Chip.getLast?_bmEnds]
  · rintro s m p a t0 d - hr hf ht
    refine ⟨_, { data := 0#256, uut := true, valid := true, at_ := (s.toChip.upTo t0).bmCycle m + 2 },
      exec_bmWrite s m p a t0 d, ?_⟩
    rw [Chip.bmAccess_tested hr hf ht]
    refine ⟨?_, rfl, rfl, rfl, ?_, ?_⟩
    · rw [State.on_toChip, Chip.bmTested, Chip.getLast?_bmOut]
      rfl
    · exact Chip.reg_setReg_self _ _ _ _
    · refine (OnlyTouches.upTo (by simp) s t0).extend fun x hx => ?_
      obtain ⟨-, hm, hd⟩ : x ≠ .belfry ∧ x ≠ .mem ∧ x ≠ .dict := by simpa using hx
      exact (Area.same_count hd (s.toChip.upTo t0) _ _).trans (Area.same_modBm _ _ _ hm)

/-! ## The scratchpad (O20) -/

section
variable {b : Chip} {k : Nat}

/-! ### A store -/

/-- What a store changes: the word and its flips, the records of its contents, and the injections. -/
theorem Chip.spStore_eq (b : Chip) (k : Nat) (lanes : BitVec 4) (d : BitVec 256) : b.spStore k lanes d =
    { b with
      mem := { b.mem with
        undef := (b.noteWritten (.spBank (k / 65536) (k % 16)) k).mem.undef
        sp := Mem.set b.mem.sp k ((b.spStored k &&& ~~~(laneMask256 lanes)) ||| (d &&& laneMask256 lanes))
        spErr := (b.spStore k lanes d).mem.spErr }
      inject := (b.spStore k lanes d).inject } := by
  dsimp only [Chip.spStore]
  rw [b.noteWritten_eq (.spBank (k / 65536) (k % 16)) k]
  split <;> rfl

theorem Chip.spStored_spStore (b : Chip) (k : Nat) (lanes : BitVec 4) (d : BitVec 256) :
    (b.spStore k lanes d).spStored k = (b.spStored k &&& ~~~(laneMask256 lanes)) ||| (d &&& laneMask256 lanes) := by
  have hu : (b.spStore k lanes d).undefIn (.spBank (k / 65536) (k % 16)) k = none := by
    rw [Chip.spStore_eq]
    exact b.undefIn_noteWritten (.spBank (k / 65536) (k % 16)) k
  rw [Chip.spStored, hu]
  show Mem.get (b.spStore k lanes d).mem.sp k = _
  rw [Chip.spStore_eq]
  exact Mem.get_set_self _ _ _

theorem Chip.get_spStore_ne (b : Chip) {j : Nat} (h : j ≠ k) (lanes : BitVec 4) (d : BitVec 256) :
    Mem.get (b.spStore k lanes d).mem.sp j = Mem.get b.mem.sp j := by
  rw [Chip.spStore_eq]
  exact Mem.get_set_ne _ _ _ _ h

@[simp] theorem Chip.bm_spStore (b : Chip) (k : Nat) (lanes : BitVec 4) (d : BitVec 256) :
    (b.spStore k lanes d).mem.bm = b.mem.bm := by
  rw [Chip.spStore_eq]

theorem Area.same_spStore {x : Area} (h : x ∉ [Area.mem, .inject]) (b : Chip) (k : Nat) (lanes : BitVec 4)
    (d : BitVec 256) : x.same b (b.spStore k lanes d) := by
  rw [Chip.spStore_eq]
  exact Area.same_mem_inject h b _ _

/-! ### A read -/

theorem laneFlips_zero (j : Nat) : laneFlips 0#288 j = 0 := by
  rw [laneFlips, BitVec.toNat_zero]
  simp [field]

theorem spBits_zero (w : BitVec 256) : spBits w 0#288 = w := by
  simp [spBits, laneFlips_zero]

theorem Chip.spLane_clean (h : (b.spFlips k).1 = 0#288) (reader : Nat) (x : BitVec 256 × Bool × Bool) (j : Nat) :
    Chip.spLane k reader (b, x) j = (b, x) := by
  simp [Chip.spLane, h, laneFlips_zero, eccFind_zero]

theorem Chip.spRead_clean (h : (b.spFlips k).1 = 0#288) (reader : Nat) :
    b.spRead k reader = (b, b.spStored k, false, false) := by
  simp [Chip.spRead, Chip.spLane_clean h, h, spBits_zero]

end

/-! ### Records of ports and banks -/

theorem Chip.spPort_modSpPort (b : Chip) (r p : Nat) (f : SpPort → SpPort) :
    (b.modSpPort r p f).spPort r p = f (b.spPort r p) :=
  Tab.get_mod_self _ _ _ _

/-- A port after its access won in cycle c. -/
def SpAccess.leaves (a : SpAccess) (c : Nat) (p : SpPort) : SpPort :=
  { p with held := none, freed := if a.cyc < c then some c else p.freed }

/-- The records of an access that its bank serves in cycle c: its port's and the bank's. -/
def Chip.spEnds (b : Chip) (r : Nat) (a : SpAccess) (c : Nat) (f : SpPort → SpPort)
    (old : BitVec 256 × BitVec 288 × Bool) : Chip :=
  { b with mem := { b.mem with
      ports := Tab.mod {} b.mem.ports (portKey r a.port) f
      banks := Tab.mod {} b.mem.banks (bankKey r (spBankOf a.addr)) fun x => { x with served := some (a, c, old) } } }

section
variable (b : Chip) (r : Nat) (a : SpAccess) (c : Nat) (f : SpPort → SpPort) (old : BitVec 256 × BitVec 288 × Bool)

theorem Chip.spPort_spEnds : (b.spEnds r a c f old).spPort r a.port = f (b.spPort r a.port) :=
  Tab.get_mod_self _ _ _ _

@[simp] theorem Chip.sp_spEnds : (b.spEnds r a c f old).mem.sp = b.mem.sp := rfl
@[simp] theorem Chip.bm_spEnds : (b.spEnds r a c f old).mem.bm = b.mem.bm := rfl
@[simp] theorem Chip.spStored_spEnds (k : Nat) : (b.spEnds r a c f old).spStored k = b.spStored k := rfl

theorem Area.same_spEnds {x : Area} (h : x ≠ .mem) : x.same b (b.spEnds r a c f old) := Area.same_mem h b _

theorem Area.same_modSpPort {x : Area} (h : x ≠ .mem) (p : Nat) : x.same b (b.modSpPort r p f) := Area.same_mem h b _

end

/-! ### Arbitration (R166) -/

section
variable {b : Chip} {r c : Nat} {a : SpAccess}

theorem Chip.spServe_write (hw : a.we = true) : b.spServe r a c =
    (b.spStore (spWordKey r a.addr) a.lanes a.data).spEnds r a c (a.leaves c)
      (b.spStored (spWordKey r a.addr), b.spFlips (spWordKey r a.addr)) := by
  simp only [Chip.spServe, hw, if_true]
  rfl

/-- A port whose read of a word with data d won in cycle c (R167). -/
def SpAccess.shows (a : SpAccess) (c : Nat) (d : BitVec 256) (p : SpPort) : SpPort :=
  { a.leaves c p with out := addOut p.out c { data := d, valid := true, at_ := c + 3 } }

theorem Chip.spServe_read (hw : a.we = false) (h : (b.spFlips (spWordKey r a.addr)).1 = 0#288) : b.spServe r a c =
    b.spEnds r a c (a.shows c (b.spStored (spWordKey r a.addr)))
      (b.spStored (spWordKey r a.addr), b.spFlips (spWordKey r a.addr)) := by
  simp only [Chip.spServe, hw, Chip.spRead_clean h]
  rfl

/-- The bank serves no other access in the cycle. -/
def Chip.SpBankFree (b : Chip) (r bank c : Nat) : Prop := ∀ z c' o e, b.spServed r bank = some (z, c', o, e) → c' ≠ c

theorem Chip.spCompete_free (h : b.SpBankFree r (spBankOf a.addr) c) : b.spCompete r a c = b.spServe r a c := by
  unfold Chip.spCompete
  split
  next z c' o e hz => exact if_pos (h z c' o e hz)
  next => rfl

theorem Chip.spCompete_loses {z : SpAccess} {o : BitVec 256} {e : BitVec 288 × Bool}
    (h : b.spServed r (spBankOf a.addr) = some (z, c, o, e)) (hr : z.rank c ≤ a.rank c) :
    b.spCompete r a c = b.spLose r a c := by
  simp [Chip.spCompete, h, Nat.not_lt.2 hr]

theorem Chip.spLose_unscheduled (h : a.sched = false) : b.spLose r a c =
    (b.modSpPort r a.port fun p => { p with held := some a, tried := c }).count (0x2500 + r) 0x16 := by
  simp [Chip.spLose, h]

/-- A scheduled access comes before an unscheduled one (R166). -/
theorem SpAccess.rank_scheduled_le {z : SpAccess} (hz : z.sched = true) (hc : z.cyc < 2 ^ 64) (hp : z.port < 8)
    (ha : a.sched = false) : z.rank c ≤ a.rank c := by
  have h1 : (if z.cyc = c then 0 else 1) ≤ 1 := by split <;> decide
  simp only [SpAccess.rank, hz, ha, if_true, Bool.false_eq_true, if_false]
  omega

/-! ### Commands of a port -/

/-- No waiting command presents an access at the region's scratchpad in this cycle. -/
theorem Chip.spTogether_alone {l : List Instr} (h : ∀ x ∈ l, b.spWaiting r (b.isle r) x = none) (a : SpAccess) :
    b.spTogether r a l = b.spRun r a := by
  simp [Chip.spTogether, Chip.spBefore, List.filterMap_eq_nil_iff.2 h]

theorem Chip.spCheck_unscheduled (h : b.isArmed 0x2D62 2 r = false) (bank : Nat) : b.spCheck r bank false = b := by
  unfold Chip.spCheck
  split
  · rw [h]; rfl
  · rfl

/-- The port takes an unscheduled access to a word now, and no injection waits for it. -/
structure Chip.SpTakes (b : Chip) (r port addr : Nat) : Prop where
  runs : b.fabricRuns r = true
  takes : (b.spPort r port).takes (b.isle r) = true
  untested : b.underTest (.spBank r (spBankOf addr)) = false
  unarmed : b.isArmed 0x2D62 2 r = false

/-- A port has taken an access in the region's present cycle. -/
def Chip.spTaken (b : Chip) (r port : Nat) : Chip := b.modSpPort r port fun p => { p with taken := some (b.isle r) }

/-- An unscheduled access that is presented now. -/
def Chip.spFresh (b : Chip) (r port addr : Nat) (we : Bool) (lanes : BitVec 4) (data : BitVec 256) : SpAccess :=
  { port, we, lanes, addr, data, sched := false, cyc := b.isle r }

theorem Chip.SpTakes.spRun {port addr : Nat} (h : b.SpTakes r port addr) (we : Bool) (lanes : BitVec 4)
    (data : BitVec 256) : b.spRun r (b.spFresh r port addr we lanes data) =
      (b.spTaken r port).spCompete r (b.spFresh r port addr we lanes data) (b.isle r) := by
  simp [Chip.spRun, Chip.spPresent, Chip.spFresh, h.runs, h.takes, h.untested, Chip.spCheck_unscheduled h.unarmed,
    Chip.spTaken]

theorem Chip.spRun_retry (hc : a.cyc < b.isle r) (hh : (b.spPort r a.port).held = some a) (hr : b.fabricRuns r = true)
    (ht : (b.spPort r a.port).tried < b.isle r) : b.spRun r a = b.spCompete r a (b.isle r) := by
  simp [Chip.spRun, hc.ne, Chip.spRetry, hh, hr, ht]

end

/-! ### What the clear of a region leaves (R170) -/

section
variable (b : Chip) (r : Nat)

/-- The words and the regions when a region's clear has ended. -/
theorem Chip.clearEnd_effect (h : (b.region r).clearing = true) :
    (b.clearEnd r).mem.bm = Mem.clear b.mem.bm (r * 524288) ((r + 1) * 524288) ∧
    (b.clearEnd r).mem.sp = Mem.clear b.mem.sp (r * 65536) ((r + 1) * 65536) ∧
    (b.clearEnd r).regions = Tab.mod {} b.regions r (fun g => { g with clearing := false }) := by
  rw [Chip.clearEnd, if_pos h]
  exact ⟨rfl, rfl, rfl⟩

end

/-! ### A demand register's word (R162, R168) -/

section
variable {b : Chip} {m : BmSel} {k n : Nat}

/-- Port A's last access does not meet a maintenance access to the word in the present cycle. -/
def Chip.MaintAlone (b : Chip) (m : BmSel) (k : Nat) : Prop :=
  ∀ x, (b.bmState (bmKey m.r m.b m.m)).lastA = some x → x.addr = k % 1024 → x.cyc + 1 < b.bmCycle m

theorem Chip.MaintAlone.bmMaintWrite (h : b.MaintAlone m k) (f : Chip → Chip) :
    b.bmMaintWrite m k f = b.bmMaint m k .write f := by
  unfold Chip.bmMaintWrite
  dsimp only
  split
  next x hx =>
    refine if_neg ?_
    rintro ⟨ha, -, hc⟩
    have := h x hx ha
    omega
  next => rfl

@[simp] theorem Chip.bm_bmMaint (op : BmOp) (f : Chip → Chip) : (b.bmMaint m k op f).mem.bm = (f b).mem.bm := rfl
@[simp] theorem Chip.sp_bmMaint (op : BmOp) (f : Chip → Chip) : (b.bmMaint m k op f).mem.sp = (f b).mem.sp := rfl
@[simp] theorem Chip.reg_bmMaint (op : BmOp) (f : Chip → Chip) (i j : Nat) :
    (b.bmMaint m k op f).reg i j = (f b).reg i j := rfl
@[simp] theorem Chip.bmStored_bmMaint (op : BmOp) (f : Chip → Chip) (i : Nat) :
    (b.bmMaint m k op f).bmStored i = (f b).bmStored i := rfl
@[simp] theorem Chip.bmFlips_bmMaint (op : BmOp) (f : Chip → Chip) (i : Nat) :
    (b.bmMaint m k op f).bmFlips i = (f b).bmFlips i := rfl

theorem Chip.bmRepair_single (h : b.bmFound k = .single n) : b.bmRepair k =
    { b with mem := { b.mem with
        bm := Mem.set b.mem.bm k (BitVec.setWidth 40 (Machine.corrected (bitsWith (b.bmStored k) (b.bmFlips k).1) n))
        bmErr := Tab.drop (fun i => i == k) b.mem.bmErr } } := by
  simp only [Chip.bmRepair, h]

theorem Chip.bmFlips_bmRepair (h : b.bmFound k = .single n) : (b.bmRepair k).bmFlips k = (0#40, false) := by
  rw [Chip.bmFlips, Chip.bmRepair_single h]
  exact Tab.get_drop_hit _ (fun i => i == k) _ _ (beq_self_eq_true k)

theorem Chip.bmStored_bmRepair (h : b.bmFound k = .single n) (hu : b.undefIn (.bm (bmSelOf k)) k = none) :
    (b.bmRepair k).bmStored k =
      BitVec.setWidth 40 (Machine.corrected (bitsWith (b.bmStored k) (b.bmFlips k).1) n) := by
  have hu' : (b.bmRepair k).undefIn (.bm (bmSelOf k)) k = none := by
    rw [Chip.bmRepair_single h]
    exact hu
  rw [Chip.bmStored, hu']
  show Mem.get (b.bmRepair k).mem.bm k = _
  rw [Chip.bmRepair_single h]
  exact Mem.get_set_self _ _ _

theorem Chip.get_bmRepair_ne (h : b.bmFound k = .single n) {j : Nat} (hj : j ≠ k) :
    Mem.get (b.bmRepair k).mem.bm j = Mem.get b.mem.bm j := by
  rw [Chip.bmRepair_single h]
  exact Mem.get_set_ne _ _ _ _ hj

theorem Area.same_bmRepair {x : Area} (h : x ≠ .mem) (b : Chip) (k : Nat) : x.same b (b.bmRepair k) := by
  unfold Chip.bmRepair
  split
  · exact Area.same_mem h b _
  · exact Area.same_refl x b

/-- The demand register of a block memory is empty again. -/
def Chip.demandDone (b : Chip) (m : BmSel) : Chip :=
  { b with mem := { b.mem with demandBm := Tab.set b.mem.demandBm (bmKey m.r m.b m.m) none } }

@[simp] theorem Chip.bm_demandDone : (b.demandDone m).mem.bm = b.mem.bm := rfl
@[simp] theorem Chip.bmStored_demandDone (i : Nat) : (b.demandDone m).bmStored i = b.bmStored i := rfl
@[simp] theorem Chip.bmFlips_demandDone (i : Nat) : (b.demandDone m).bmFlips i = b.bmFlips i := rfl

theorem Area.same_demandDone {x : Area} (h : x ≠ .mem) (b : Chip) (m : BmSel) : x.same b (b.demandDone m) :=
  Area.same_mem h b _

theorem Chip.demandBack_bm (hd : Tab.get none b.mem.demandBm (bmKey m.r m.b m.m) = some k)
    (hm : b.bmMaintenance m = true) (ha : b.MaintAlone m k) :
    b.demandBack (.bm m) =
      (b.bmMaint m k .write fun b => b.bmRepair k).demandDone m := by
  simp only [Chip.demandBack, hd, hm, if_true, ha.bmMaintWrite]
  rfl

end

section
variable {s : State} {r port t0 : Nat}

theorem exec_spRead (s : State) (r port a t0 : Nat) : exec (.spRead r port a false t0) s =
    .next (s.on ((s.toChip.upTo t0).spTogether r ((s.toChip.upTo t0).spFresh r port a false 0#4 0#256) s.pending)) := rfl

theorem exec_spWrite (s : State) (r port a t0 : Nat) (lanes : BitVec 4) (d : BitVec 256) :
    exec (.spWrite r port a lanes d false t0) s =
    .next (s.on ((s.toChip.upTo t0).spTogether r ((s.toChip.upTo t0).spFresh r port a true lanes d) s.pending)) := rfl

/-- A retry of a held access that no other command's access joins. -/
theorem exec_spStallRetry {x : SpAccess} (h : (s.spPort r port).held = some x) : exec (.spStallRetry r port t0) s =
    .next (s.on ((s.toChip.upTo t0).spTogether r x s.pending)) := by
  have hx : ((s.toChip.upTo t0).spPort r port).held = some x := h
  show execSpStallRetry r port t0 s = _
  simp only [execSpStallRetry, act_eq, hx]
  rfl

/-- An access that its bank serves as a write changes its lanes of its word. -/
theorem spServe_write_effect {b : Chip} {a : SpAccess} {c : Nat} (hb : b.mem.sp = s.mem.sp ∧ b.mem.undef = s.mem.undef)
    (hw : a.we = true) :
    (b.spServe r a c).spStored (spWordKey r a.addr) = (s.spStored (spWordKey r a.addr) &&& ~~~(laneMask256 a.lanes)) |||
      (a.data &&& laneMask256 a.lanes) ∧
    (∀ j, j ≠ spWordKey r a.addr → Mem.get (b.spServe r a c).mem.sp j = Mem.get s.mem.sp j) := by
  obtain ⟨hsp, hun⟩ := hb
  have hst : b.spStored (spWordKey r a.addr) = s.spStored (spWordKey r a.addr) := by
    simp only [Chip.spStored, Chip.undefIn, hsp, hun]
  rw [Chip.spServe_write hw]
  refine ⟨?_, fun j hj => ?_⟩
  · rw [Chip.spStored_spEnds, Chip.spStored_spStore, hst]
  · rw [Chip.sp_spEnds, Chip.get_spStore_ne _ hj, hsp]

end

/-- Settles O20: the access alone at a free bank is served, behind a better one it is held; the register and the clear. -/
theorem scratchpadPortsAndMaintenance : Obligations.ScratchpadPortsAndMaintenance := by
  unfold Obligations.ScratchpadPortsAndMaintenance
  dsimp only
  refine ⟨?_, ?_, ?_, ?_, ?_, ?_⟩
  · rintro s r port a t0 - ⟨hr, ht, hu, hi, hal⟩ hfree hfl
    have htakes : (s.toChip.upTo t0).SpTakes r port a := ⟨hr, ht, hu, hi⟩
    have hbank : ((s.toChip.upTo t0).spTaken r port).SpBankFree r (spBankOf a) ((s.toChip.upTo t0).isle r) := hfree
    refine ⟨_, exec_spRead s r port a t0, ?_⟩
    rw [Chip.spTogether_alone hal, htakes.spRun, Chip.spCompete_free hbank, Chip.spServe_read rfl hfl]
    refine ⟨?_, rfl, rfl, (OnlyTouches.upTo (by simp) s t0).extend fun x hx => ?_⟩
    · exact (congrArg (fun p : SpPort => p.out.getLast?) (Chip.spPort_spEnds _ _ _ _ _ _)).trans (getLast?_addOut _ _ _)
    · obtain ⟨-, hm⟩ : x ≠ .belfry ∧ x ≠ .mem := by simpa using hx
      exact (Area.same_modSpPort _ _ _ hm _).trans (Area.same_spEnds _ _ _ _ _ _ hm)
  · rintro s r port a t0 lanes d - ⟨hr, ht, hu, hi, hal⟩ hfree
    have htakes : (s.toChip.upTo t0).SpTakes r port a := ⟨hr, ht, hu, hi⟩
    have hbank : ((s.toChip.upTo t0).spTaken r port).SpBankFree r (spBankOf a) ((s.toChip.upTo t0).isle r) := hfree
    refine ⟨_, exec_spWrite s r port a t0 lanes d, ?_⟩
    rw [Chip.spTogether_alone hal, htakes.spRun, Chip.spCompete_free hbank]
    have hb : ((s.toChip.upTo t0).spTaken r port).mem.sp = s.mem.sp ∧
      ((s.toChip.upTo t0).spTaken r port).mem.undef = s.mem.undef := ⟨rfl, rfl⟩
    obtain ⟨hst, hot⟩ := spServe_write_effect (r := r) (c := (s.toChip.upTo t0).isle r)
      (a := (s.toChip.upTo t0).spFresh r port a true lanes d) hb rfl
    refine ⟨hst, hot, ?_, (OnlyTouches.upTo (by simp) s t0).extend fun x hx => ?_⟩
    · rw [State.on_toChip, Chip.spServe_write rfl, Chip.bm_spEnds, Chip.bm_spStore]
      rfl
    · obtain ⟨-, hm, hj⟩ : x ≠ .belfry ∧ x ≠ .mem ∧ x ≠ .inject := by simpa using hx
      rw [Chip.spServe_write rfl]
      exact ((Area.same_modSpPort _ _ _ hm _).trans (Area.same_spStore (by simp [hm, hj]) _ _ _ _)).trans
        (Area.same_spEnds _ _ _ _ _ _ hm)
  · rintro s r port a t0 c z o e - ⟨hr, ht, hu, hi, hal⟩ rfl hz hs hc hp
    have htakes : (s.toChip.upTo t0).SpTakes r port a := ⟨hr, ht, hu, hi⟩
    have hserved : ((s.toChip.upTo t0).spTaken r port).spServed r (spBankOf a) =
      some (z, (s.toChip.upTo t0).isle r, o, e) := hz
    refine ⟨_, exec_spRead s r port a t0, ?_⟩
    rw [Chip.spTogether_alone hal, htakes.spRun,
      Chip.spCompete_loses hserved (SpAccess.rank_scheduled_le hs hc hp rfl), Chip.spLose_unscheduled rfl]
    refine ⟨?_, rfl, Chip.reg_setReg_self _ _ _ _, (OnlyTouches.upTo (by simp) s t0).extend fun x hx => ?_⟩
    · exact congrArg (fun p : SpPort => p.held.isSome) (Chip.spPort_modSpPort _ _ _ _)
    · obtain ⟨-, hm, hd⟩ : x ≠ .belfry ∧ x ≠ .mem ∧ x ≠ .dict := by simpa using hx
      exact ((Area.same_modSpPort _ _ _ hm _).trans (Area.same_modSpPort _ _ _ hm _)).trans (Area.same_count hd _ _ _)
  · rintro s r port t0 x hh hw rfl - hr hc htr hal hfree
    have hbank : (s.toChip.upTo t0).SpBankFree r (spBankOf x.addr) ((s.toChip.upTo t0).isle r) := hfree
    refine ⟨_, exec_spStallRetry hh, ?_⟩
    rw [Chip.spTogether_alone hal, Chip.spRun_retry hc hh hr htr, Chip.spCompete_free hbank]
    have hb : (s.toChip.upTo t0).mem.sp = s.mem.sp ∧ (s.toChip.upTo t0).mem.undef = s.mem.undef := ⟨rfl, rfl⟩
    refine ⟨?_, spServe_write_effect hb hw⟩
    rw [State.on_toChip, Chip.spServe_write hw, Chip.spPort_spEnds]
    rfl
  · rintro s m w n t0 hd hm hn hu ha
    refine ⟨s.on ((s.toChip.upTo t0).demandWriteBack (.bm m)), rfl, ?_⟩
    rw [show (s.toChip.upTo t0).demandWriteBack (.bm m) = _ from Chip.demandBack_bm hd hm ha]
    have hfound : (s.toChip.upTo t0).bmFound w = .single n := hn
    have hundef : (s.toChip.upTo t0).undefIn (.bm (bmSelOf w)) w = none := hu
    simp only [State.on_toChip, Chip.bmFlips_demandDone, Chip.bmFlips_bmMaint, Chip.bmStored_demandDone,
      Chip.bmStored_bmMaint, Chip.bm_demandDone, Chip.bm_bmMaint]
    refine ⟨?_, Chip.bmStored_bmRepair hfound hundef, fun k hk => Chip.get_bmRepair_ne hfound hk, Tab.get_set_self _ _ _ _,
      (OnlyTouches.upTo (by simp) s t0).extend fun x hx => ?_⟩
    · rw [Chip.bmFlips_bmRepair hfound]
    · obtain ⟨-, hm⟩ : x ≠ .belfry ∧ x ≠ .mem := by simpa using hx
      exact ((Area.same_bmRepair hm _ _).trans (Area.same_modBm _ _ _ hm)).trans (Area.same_demandDone hm _ _)
  · rintro s r hcl
    obtain ⟨hbm, hsp, hreg⟩ := Chip.clearEnd_effect s.toChip r hcl
    refine ⟨s.on (s.toChip.clearEnd r), rfl, ?_, fun k => ?_, fun k => ?_, fun j hj => ?_⟩
    · simp only [Chip.region, State.on_toChip, hreg, Tab.get_mod_self]
    · rw [State.on_toChip, hbm, Mem.get_clear]
    · rw [State.on_toChip, hsp, Mem.get_clear]
    · simp only [Chip.region, State.on_toChip, hreg, Tab.get_mod_ne _ _ _ _ _ hj]

/-! ## The dictionary's transfers (O21) -/

section
variable {s : State} {q : Req} {idx sub : Nat}

/-- A read that its checks accept answers with the data of its entry. -/
theorem readRow_of_readAllowed (h : ReadAllowed s q idx sub = true) {f : Chip → Chip × Except Nat Bytes} {c : Chip}
    {d : Bytes} (hf : f (s.served q) = (c, .ok d)) : s.toChip.readRow q idx sub f = c.answer q.owner (.data d) := by
  rw [Chip.readRow, request_alive (dictAlive_of_readAllowed h)]
  cases he : DictTable.find idx sub with
  | none => simp [ReadAllowed, he] at h
  | some e =>
    obtain ⟨-, hw, hr⟩ : _ ∧ e.acc ≠ .wo ∧ (s.served q).mayRead q.owner idx sub e = true := by
      simpa [ReadAllowed, he] using h
    simp [hw, hr, hf]

/-- A write that its checks accept takes its entry's effect and is answered. -/
theorem writeBytesRow_of_bytesAllowed {d : Bytes} (h : BytesAllowed s q idx sub d.length = true)
    {f : Chip → Chip × Except Nat Unit} {c : Chip} (hf : f (s.served q) = (c, .ok ())) :
    s.toChip.writeBytesRow q idx sub d f = c.answer q.owner .done := by
  obtain ⟨ha, hok⟩ := Bool.and_eq_true_iff.1 h
  rw [Chip.writeBytesRow, request_alive ha]
  cases hc : (s.served q).checkWrite q.owner idx sub d.length 0 with
  | error a => rw [hc] at hok; cases hok
  | ok e => simp [hf]

end

/-! ### The wait for a maintenance cycle -/

/-- The wait of an access moves time only. -/
theorem Chip.awaitMaintenance_eq (b : Chip) (r a : Nat) :
    b.awaitMaintenance r a = { b with belfry := (b.awaitMaintenance r a).belfry } := by
  unfold Chip.awaitMaintenance
  dsimp only
  split
  · rfl
  split
  · split <;> rfl
  split
  · rfl
  split <;> rfl

section
variable (b : Chip) (r a : Nat)

@[simp] theorem Chip.awaitMaintenance_mem : (b.awaitMaintenance r a).mem = b.mem := by
  rw [Chip.awaitMaintenance_eq]

@[simp] theorem Chip.awaitMaintenance_dict : (b.awaitMaintenance r a).dict = b.dict := by
  rw [Chip.awaitMaintenance_eq]

@[simp] theorem Chip.awaitMaintenance_reg (i j : Nat) : (b.awaitMaintenance r a).reg i j = b.reg i j :=
  Chip.reg_congr (b.awaitMaintenance_dict r a) i j

end

/-- Two devices with the same memories read the same words. -/
theorem Chip.bmStored_congr {b c : Chip} (h : c.mem = b.mem) (k : Nat) : c.bmStored k = b.bmStored k := by
  simp only [Chip.bmStored, Chip.undefIn, h]

theorem Chip.bmFlips_congr {b c : Chip} (h : c.mem = b.mem) (k : Nat) : c.bmFlips k = b.bmFlips k := by
  simp only [Chip.bmFlips, h]

theorem Chip.bmFound_congr {b c : Chip} (h : c.mem = b.mem) (k : Nat) : c.bmFound k = b.bmFound k := by
  simp only [Chip.bmFound, Chip.bmStored_congr h, Chip.bmFlips_congr h]

theorem Chip.bmBypass_congr {b c : Chip} (h : c.mem = b.mem) (k : Nat) : c.bmBypass k = b.bmBypass k := by
  simp only [Chip.bmBypass, h]

theorem Chip.spStored_congr {b c : Chip} (h : c.mem = b.mem) (k : Nat) : c.spStored k = b.spStored k := by
  simp only [Chip.spStored, Chip.undefIn, h]

theorem Chip.spFlips_congr {b c : Chip} (h : c.mem = b.mem) (k : Nat) : c.spFlips k = b.spFlips k := by
  simp only [Chip.spFlips, h]

theorem Chip.mem_setReg (b : Chip) (i j v : Nat) : (b.setReg i j v).mem = b.mem := rfl

@[simp] theorem Chip.sp_spMaint (b : Chip) (r k : Nat) : (b.spMaint r k).mem.sp = b.mem.sp := rfl
@[simp] theorem Chip.bm_spMaint (b : Chip) (r k : Nat) : (b.spMaint r k).mem.bm = b.mem.bm := rfl
@[simp] theorem Chip.spStored_spMaint (b : Chip) (r k i : Nat) : (b.spMaint r k).spStored i = b.spStored i := rfl
@[simp] theorem Chip.spFlips_spMaint (b : Chip) (r k i : Nat) : (b.spMaint r k).spFlips i = b.spFlips i := rfl
@[simp] theorem Chip.reg_spMaint (b : Chip) (r k i j : Nat) : (b.spMaint r k).reg i j = b.reg i j := rfl

/-! ### One word of a transfer -/

section
variable {b : Chip} {r a : Nat}

theorem Chip.wordBytes_ecc (ha : a < 2 ^ 19) (he : b.bmBypass (r * 524288 + a) = false) : b.wordBytes r a = 4 := by
  have h1 : ¬ 2 ^ 31 ≤ a := by omega
  have h2 : a % 524288 = a := Nat.mod_eq_of_lt (by omega)
  rw [Chip.wordBytes, if_neg h1, h2, he]
  rfl

theorem Chip.wordBytes_sp (ha : 2 ^ 31 ≤ a) : b.wordBytes r a = 32 := if_pos ha

/-- A word of a block memory in ECC mode, read in a maintenance cycle (R173). -/
theorem Chip.readWord_bm (ha : a < 2 ^ 19) (he : b.bmBypass (r * 524288 + a) = false)
    (hf : b.bmFound (r * 524288 + a) = .clean) :
    b.readWord r a = ((b.awaitMaintenance r a).bmMaint (bmSelOf (r * 524288 + a)) (r * 524288 + a) .read id,
      some (toBytes 4 (bitsWith (b.bmStored (r * 524288 + a)) (b.bmFlips (r * 524288 + a)).1).toNat)) := by
  have h1 : ¬ 2 ^ 31 ≤ a := by omega
  have h2 : a % 524288 = a := Nat.mod_eq_of_lt (by omega)
  have hm := b.awaitMaintenance_mem r a
  have he' := (Chip.bmBypass_congr hm (r * 524288 + a)).trans he
  have hf' := (Chip.bmFound_congr hm (r * 524288 + a)).trans hf
  have hread := Chip.bmRead_clean
    (b := (b.awaitMaintenance r a).bmMaint (bmSelOf (r * 524288 + a)) (r * 524288 + a) .read id) he' hf' 3
  simp only [Chip.readWord, if_neg h1, h2, hread, Chip.wordBytes_ecc ha he']
  rw [BitVec.toNat_setWidth_of_le (by decide)]
  simp only [Chip.bmStored_bmMaint, Chip.bmFlips_bmMaint, id, Chip.bmStored_congr hm, Chip.bmFlips_congr hm]
  rfl

/-- A word of the scratchpad without flipped bits, read in a maintenance cycle. -/
theorem Chip.readWord_sp (ha : 2 ^ 31 ≤ a) (hf : (b.spFlips (spWordKey r (a % 65536))).1 = 0#288) :
    b.readWord r a = ((b.awaitMaintenance r a).spMaint r (a % 16),
      some (toBytes 32 (b.spStored (spWordKey r (a % 65536))).toNat)) := by
  have hm := b.awaitMaintenance_mem r a
  have hf' : (((b.awaitMaintenance r a).spMaint r (a % 16)).spFlips (spWordKey r (a % 65536))).1 = 0#288 := by
    rw [Chip.spFlips_spMaint, Chip.spFlips_congr hm, hf]
  simp only [Chip.readWord, if_pos ha, Chip.spRead_clean hf', Chip.spStored_spMaint, Chip.spStored_congr hm]
  rfl

theorem Chip.readWords_one {c : Chip} {d : Bytes} (h : b.readWord r a = (c, some d)) :
    b.readWords r a 1 = (c, some d) := by
  simp [Chip.readWords, h]

end

/-! ### The commands -/

section
variable {s : State} {q : Req} {r n a : Nat} {d : Bytes} {c : Chip}

/-- The device after a read of the memory data entry: the address advances, but not for an observe read (R175, R452). -/
def Chip.readMoved (c : Chip) (o r a n : Nat) : Chip :=
  if o = 6 then c else c.setReg (0x2500 + r) 0x10 (nextAddress a n)

theorem Chip.mem_readMoved (c : Chip) (o r a n : Nat) : (c.readMoved o r a n).mem = c.mem := by
  unfold Chip.readMoved
  split <;> rfl

theorem Chip.reg_readMoved (c : Chip) (o r a n : Nat) : (c.readMoved o r a n).reg (0x2500 + r) 0x10 =
    if o = 6 then c.reg (0x2500 + r) 0x10 else nextAddress a n := by
  unfold Chip.readMoved
  split
  · rfl
  · exact Chip.reg_setReg_self _ _ _ _

theorem exec_memoryDataRead (h : ReadAllowed s q (0x2500 + r) 0x11 = true) (ha : s.reg (0x2500 + r) 0x10 = a)
    (hn : s.reg (0x2500 + r) 0x12 = n) (hc : (s.served q).transferCheck r a n = 0)
    (hw : (s.served q).readWords r a n = (c, some d)) :
    exec (.memoryDataRead q r) s = .next (s.on ((c.readMoved q.owner r a n).answer q.owner (.data d))) := by
  have hread : (s.served q).memoryRead q.owner r = (c.readMoved q.owner r a n, .ok d) := by
    simp only [Chip.memoryRead, State.served_reg, ha, hn, hc, hw]
    rfl
  exact congrArg (fun x => Host.Outcome.next (s.on x)) (readRow_of_readAllowed h hread)

theorem exec_memoryDataWrite (h : BytesAllowed s q (0x2500 + r) 0x11 d.length = true)
    (ha : s.reg (0x2500 + r) 0x10 = a) (hn : s.reg (0x2500 + r) 0x12 = n)
    (hc : (s.served q).transferCheck r a n = 0) {w : Nat} (hw : (s.served q).wordBytes r a = w)
    (hl : d.length = n * w) (hu : upperBytes w d = false) :
    exec (.memoryDataWrite q r d) s = .next (s.on ((((s.served q).writeWords r a w d n).setReg (0x2500 + r) 0x10
      (nextAddress a n)).answer q.owner .done)) := by
  have hwrite : (s.served q).memoryWrite r d =
      (((s.served q).writeWords r a w d n).setReg (0x2500 + r) 0x10 (nextAddress a n), .ok ()) := by
    simp only [Chip.memoryWrite, State.served_reg, ha, hn, hc, hw, hl, hu]
    simp
  exact congrArg (fun x => Host.Outcome.next (s.on x)) (writeBytesRow_of_bytesAllowed h hwrite)

end

/-! ### One word of a write -/

theorem ofBytes_lt (d : Bytes) : ofBytes d < 256 ^ d.length := by
  induction d with
  | nil => simp [ofBytes]
  | cons x d ih =>
    have hx := x.isLt
    rw [ofBytes, List.length_cons, Nat.pow_succ']
    omega

theorem laneMask256_all : laneMask256 0xF#4 = BitVec.allOnes 256 := by decide

theorem bmKey_bmSelOf (k : Nat) : bmKey (bmSelOf k).r (bmSelOf k).b (bmSelOf k).m = k / 1024 := by
  simp only [bmKey, bmSelOf]
  omega

theorem setWidth_low32_ofNat {v : Nat} (h : v < 2 ^ 32) :
    BitVec.setWidth 40 (low32 (BitVec.ofNat 40 v)) = BitVec.ofNat 40 v := by
  apply BitVec.eq_of_toNat_eq
  simp [low32]
  omega

section
variable {b : Chip} {r a : Nat} {d : Bytes}

theorem Chip.writeWords_bm (ha : a < 2 ^ 19) (hd : d.length = 4)
    (hal : (b.awaitMaintenance r a).MaintAlone (bmSelOf (r * 524288 + a)) (r * 524288 + a)) :
    b.writeWords r a 4 d 1 = (b.awaitMaintenance r a).bmMaint (bmSelOf (r * 524288 + a)) (r * 524288 + a) .write
      fun b => b.bmStore (r * 524288 + a) (BitVec.ofNat 40 (ofBytes d)) := by
  have h1 : ¬ 2 ^ 31 ≤ a := by omega
  have h2 : a % 524288 = a := Nat.mod_eq_of_lt (by omega)
  simp only [Chip.writeWords, if_neg h1, h2, List.take_of_length_le hd.le, hal.bmMaintWrite]

theorem Chip.writeWords_sp (ha : 2 ^ 31 ≤ a) (hd : d.length = 32) : b.writeWords r a 32 d 1 =
    ((b.awaitMaintenance r a).spStore (spWordKey r (a % 65536)) 0xF#4 (BitVec.ofNat 256 (ofBytes d))).spMaint r
      (a % 16) := by
  simp only [Chip.writeWords, if_pos ha, List.take_of_length_le hd.le]

end

/-- Settles O21: one equation for each direction, and the word of each memory. -/
theorem memoryTransfersMoveWordsAndAdvance : Obligations.MemoryTransfersMoveWordsAndAdvance := by
  unfold Obligations.MemoryTransfersMoveWordsAndAdvance
  dsimp only
  refine ⟨?_, ?_, ?_, ?_, ?_, ?_⟩
  · rintro s q r a ha ⟨hr, hc, hreg, hn⟩ he hf
    refine ⟨_, exec_memoryDataRead hr hreg hn hc (Chip.readWords_one (Chip.readWord_bm ha he hf)), ?_⟩
    refine ⟨State.reply_on_answer _ _ _ _, ?_, ?_, ?_⟩
    · simp [Chip.mem_readMoved]
    · simp [Chip.mem_readMoved]
    · rw [State.on_toChip, Chip.answer_reg, Chip.reg_readMoved, Chip.reg_bmMaint, id, Chip.awaitMaintenance_reg,
        State.served_reg, hreg]
  · rintro s q r a ha ⟨hr, hc, hreg, hn⟩ hf
    refine ⟨_, exec_memoryDataRead hr hreg hn hc (Chip.readWords_one (Chip.readWord_sp ha hf)), ?_⟩
    refine ⟨State.reply_on_answer _ _ _ _, ?_, ?_, ?_⟩
    · simp [Chip.mem_readMoved]
    · simp [Chip.mem_readMoved]
    · rw [State.on_toChip, Chip.answer_reg, Chip.reg_readMoved, Chip.reg_spMaint, Chip.awaitMaintenance_reg,
        State.served_reg, hreg]
  · rintro s q r d c hr hc hw
    refine ⟨_, exec_memoryDataRead hr rfl rfl hc hw, State.reply_on_answer _ _ _ _, ?_, fun ho => ?_⟩
    · simp [Chip.mem_readMoved]
    · simp [Chip.reg_readMoved, ho]
  · rintro s q r d h hl hn ha he hc hal
    obtain ⟨a, hreg⟩ : ∃ a, s.reg (0x2500 + r) 0x10 = a := ⟨_, rfl⟩
    simp only [hreg] at ha he hc hal ⊢
    have hb : (s.served q).wordBytes r a = 4 := Chip.wordBytes_ecc ha he
    have hm := (s.served q).awaitMaintenance_mem r a
    have halone : ((s.served q).awaitMaintenance r a).MaintAlone (bmSelOf (r * 524288 + a)) (r * 524288 + a) := by
      intro x hx hxa
      refine hal x ?_ (by omega)
      rw [bmKey_bmSelOf] at hx
      simpa only [Chip.bmState, hm, State.served_mem] using hx
    have hd : ofBytes d < 2 ^ 32 := by
      have := ofBytes_lt d
      rwa [hl] at this
    refine ⟨_, exec_memoryDataWrite (h := by rwa [hl]) hreg hn hc hb (by omega) rfl, State.reply_on_answer _ _ _ _, ?_⟩
    rw [Chip.writeWords_bm ha hl halone, State.on_toChip]
    refine ⟨?_, fun k hk => ?_, ?_, ?_⟩
    · rw [Chip.bmStored_congr (Chip.answer_mem _ _ _), Chip.bmStored_congr (Chip.mem_setReg _ _ _ _), Chip.bmStored_bmMaint,
        Chip.bmStored_bmStore ((Chip.bmBypass_congr hm _).trans he), setWidth_low32_ofNat hd]
    · rw [Chip.answer_mem, Chip.mem_setReg, Chip.bm_bmMaint, Chip.get_bmStore_ne _ hk, hm]
      rfl
    · rw [Chip.answer_mem, Chip.mem_setReg, Chip.sp_bmMaint, Chip.sp_bmStore, hm]
      rfl
    · rw [Chip.answer_reg, Chip.reg_setReg_self]
      exact if_pos (by omega)
  · rintro s q r a k d h hl hn hreg ha rfl hc
    have hb : (s.served q).wordBytes r a = 32 := Chip.wordBytes_sp ha
    have hm := (s.served q).awaitMaintenance_mem r a
    refine ⟨_, exec_memoryDataWrite (h := by rwa [hl]) hreg hn hc hb (by omega) rfl, State.reply_on_answer _ _ _ _, ?_⟩
    rw [Chip.writeWords_sp ha hl, State.on_toChip]
    refine ⟨?_, fun j hj => ?_, ?_, ?_⟩
    · rw [Chip.spStored_congr (Chip.answer_mem _ _ _), Chip.spStored_congr (Chip.mem_setReg _ _ _ _), Chip.spStored_spMaint,
        Chip.spStored_spStore, laneMask256_all, BitVec.not_allOnes, BitVec.and_zero, BitVec.zero_or,
        BitVec.and_allOnes]
    · rw [Chip.answer_mem, Chip.mem_setReg, Chip.sp_spMaint, Chip.get_spStore_ne _ hj, hm]
      rfl
    · rw [Chip.answer_mem, Chip.mem_setReg, Chip.bm_spMaint, Chip.bm_spStore, hm]
      rfl
    · rw [Chip.answer_reg, Chip.reg_setReg_self]
  · rintro s q r a n d h hreg hn hc hl hu
    refine ⟨_, exec_memoryDataWrite h hreg hn hc rfl hl hu, State.reply_on_answer _ _ _ _, ?_, ?_⟩
    · simp [Chip.setReg]
    · simp

end Sys2Proof.Machine

namespace Sys2Proof.Machine
open Sys2Proof

/-! ### What a word that enters or leaves makes of a queue block -/

section
variable (q : Queue) (x : QueueClock) (c : Nat)

@[simp] theorem Queue.change_pack (f : Queue → Queue) : (q.change x c f).pack = (f q).pack :=
  Queue.logFlags_keep _ _ _ Queue.pack fun _ _ _ => rfl

@[simp] theorem Queue.change_heldPush (f : Queue → Queue) : (q.change x c f).heldPush = (f q).heldPush :=
  Queue.logFlags_keep _ _ _ Queue.heldPush fun _ _ _ => rfl

@[simp] theorem Queue.change_heldPop (f : Queue → Queue) : (q.change x c f).heldPop = (f q).heldPop :=
  Queue.logFlags_keep _ _ _ Queue.heldPop fun _ _ _ => rfl

@[simp] theorem Queue.change_out (f : Queue → Queue) : (q.change x c f).out = (f q).out :=
  Queue.logFlags_keep _ _ _ Queue.out fun _ _ _ => rfl

/-- A completed word enters behind the others, whatever the clocks of the two sides (R180, R182). -/
@[simp] theorem Queue.enter_words (l : List Byte) : (q.enter x l c).words = q.words ++ [packedWord l] := by
  simp only [Queue.enter]
  split <;> simp

@[simp] theorem Queue.enter_pack (l : List Byte) : (q.enter x l c).pack = [] := by
  simp only [Queue.enter]
  split <;> simp

@[simp] theorem Queue.enter_heldPush (l : List Byte) : (q.enter x l c).heldPush = none := by
  simp only [Queue.enter]
  split <;> simp

@[simp] theorem Queue.leave_heldPush : (q.leave x c).heldPush = q.heldPush := by
  simp only [Queue.leave]
  split <;> simp

variable {q}

theorem Queue.leave_heldPop {w : BitVec 128 × BitVec 16} {l : List (BitVec 128 × BitVec 16)} (h : q.words = w :: l) :
    (q.leave x c).heldPop = false := by
  simp [Queue.leave, h]

/-- The word that leaves is shown one cycle later (R183). -/
theorem Queue.leave_out {w : BitVec 128 × BitVec 16} {l : List (BitVec 128 × BitVec 16)} (h : q.words = w :: l) :
    (q.leave x c).out.getLast? = some (c + 1, w) := by
  simp [Queue.leave, h]

theorem Queue.take_of_no_push (h : q.heldPush = none) : q.take x = q.leave x x.cr := by
  simp [Queue.take, h]

theorem Queue.completePush_held {l : List Byte} {e : Nat} (h : q.heldPush = some (l, e)) :
    q.completePush x c = q.enter x (q.pack ++ l) c := by
  simp [Queue.completePush, h]

theorem Queue.itemBytes_ne_nil (q : Queue) (item : BitVec 32) : q.itemBytes item ≠ [] := by
  rw [← List.length_pos_iff, Queue.itemBytes, length_toBytes]
  positivity

/-! ### The three outcomes of a push (R180, R181, R184) -/

theorem Queue.push_joins {l : List Byte} (hl : l ≠ []) (h : (q.pack ++ l).length < 16) :
    q.push x l false = { q with pack := q.pack ++ l, pushCycle := some x.cw } := by
  simp only [Queue.push]
  rw [if_neg (by simp [hl]), if_pos ⟨h, trivial⟩]

theorem Queue.push_completes {l : List Byte} (hl : q.pack ++ l ≠ []) (hd : q.writeShow.depth < 256) :
    q.push x l true = { q.enter x (q.pack ++ l) x.cw with pushCycle := some x.cw } := by
  simp only [Queue.push]
  rw [if_neg hl, if_neg (by simp), if_pos (.inl hd)]

theorem Queue.push_stalls {l : List Byte} (hl : q.pack ++ l ≠ []) (hd : 256 ≤ q.writeShow.depth)
    (hp : q.popCycle ≠ some x.cw) :
    q.push x l true = { q with heldPush := some (l, x.cw), pushCycle := some x.cw } := by
  simp only [Queue.push]
  rw [if_neg hl, if_neg (by simp), if_neg]
  rintro (h | ⟨-, h⟩)
  · omega
  · exact hp h

end

/-! ### A change of a settled queue block -/

section
variable (b : Chip) (k : Nat)

/-- The clocks of the two sides in the present cycle. -/
def Chip.clockNow (b : Chip) (k : Nat) : QueueClock := b.queueClock k (b.queueNow k)

/-- The device with queue block k settled and then changed by f, on the clocks of its sides. -/
def Chip.alterQueue (b : Chip) (k : Nat) (f : QueueClock → Queue → Queue) : Chip := (b.settleQueue k).onQueue k f

theorem Chip.queue_alterQueue (f : QueueClock → Queue → Queue) :
    (b.alterQueue k f).queue k = f (b.clockNow k) (b.queueNow k) :=
  Chip.queue_modQueue _ _ _

theorem Chip.queue_alterQueue_ne (f : QueueClock → Queue → Queue) {j : Nat} (h : j ≠ k) :
    (b.alterQueue k f).queue j = b.queue j :=
  Chip.queue_settled_ne b k _ h

theorem Area.same_alterQueue {x : Area} (h : x ≠ .queues) (f : QueueClock → Queue → Queue) :
    x.same b (b.alterQueue k f) :=
  Area.same_settled b k _ h

theorem Chip.queueNow_reader : (b.queueNow k).reader k = (b.queue k).reader k := by
  simp only [Queue.reader, Chip.queueNow_mode]

theorem Chip.queueNow_writer : (b.queueNow k).writer k = (b.queue k).writer k := by
  simp only [Queue.writer, Chip.queueNow_mode]

theorem Chip.clockNow_cr : (b.clockNow k).cr = b.sideCycle ((b.queue k).reader k) :=
  congrArg b.sideCycle (b.queueNow_reader k)

theorem Chip.clockNow_cw : (b.clockNow k).cw = b.sideCycle ((b.queue k).writer k) :=
  congrArg b.sideCycle (b.queueNow_writer k)

end

/-- A row that alters one settled queue block: what holds of the altered record holds of the block, and the row leaves
every other block, and every area but time and the queues. -/
theorem queueRow_alters {s : State} {i : Instr} {k t0 : Nat} {c : Chip} {f : QueueClock → Queue → Queue}
    (P : Queue → Prop) (hi : exec i s = .next (s.on c)) (hc : c = (s.toChip.upTo t0).alterQueue k f)
    (hP : P (f ((s.toChip.upTo t0).clockNow k) ((s.toChip.upTo t0).queueNow k))) :
    ∃ t, exec i s = .next t ∧
      ((∀ j, j ≠ k → t.queue j = s.queue j) ∧ OnlyTouches [.belfry, .queues] s t) ∧ P (t.queue k) := by
  subst hc
  refine ⟨_, hi, ⟨fun j hj => Chip.queue_alterQueue_ne _ _ _ hj, OnlyTouches.settled _ _ (by simp) (by simp) s t0⟩, ?_⟩
  rw [State.on_toChip, Chip.queue_alterQueue]
  exact hP

/-! ### Same-clock queue blocks (R179) -/

@[simp] theorem queueKey_div {r k : Nat} (h : k < 16) : queueKey r k / 16 = r := by
  simp only [queueKey]; omega

@[simp] theorem queueKey_mod {r k : Nat} (h : k < 16) : queueKey r k % 16 = k := by
  simp only [queueKey]; omega

/-- A same-clock queue block of region r, whose fabric runs. -/
structure Chip.SameClock (b : Chip) (r k : Nat) : Prop where
  home : k / 16 = r
  mode : (b.queue k).mode = 1
  runs : b.fabricRuns r = true

section
variable {b : Chip} {r k : Nat}

theorem Chip.SameClock.writer (h : b.SameClock r k) : (b.queue k).writer k = some r := by
  simp [Queue.writer, h.mode, h.home]

theorem Chip.SameClock.reader (h : b.SameClock r k) : (b.queue k).reader k = some r := by
  simp [Queue.reader, h.mode, h.home]

theorem Chip.SameClock.cw (h : b.SameClock r k) : (b.clockNow k).cw = b.isle r := by
  rw [Chip.clockNow_cw, h.writer, Chip.sideCycle]

theorem Chip.SameClock.cr (h : b.SameClock r k) : (b.clockNow k).cr = b.isle r := by
  rw [Chip.clockNow_cr, h.reader, Chip.sideCycle]

/-- The write port takes a push: q_wrdy is 1, nothing is held, and no item of this cycle came before (R184). -/
theorem Chip.fabricPush_taken (h : b.SameClock r k) {bytes : Queue → List Byte} {close : Bool}
    (hd : (b.queueNow k).disabled = false) (hh : (b.queueNow k).heldPush = none) (hw : (b.queueNow k).wrdy = true)
    (ho : (b.queueNow k).pushCycle ≠ some (b.isle r)) :
    b.fabricPush k bytes close = b.alterQueue k fun x q => q.push x (bytes q) close := by
  have hm := (b.queueNow_mode k).trans h.mode
  have hr : (b.settleQueue k).fabricRuns r = true := h.runs
  have ho' : ((b.queueNow k).pushCycle == some ((b.settleQueue k).sideCycle (some r))) = false := beq_false_of_ne ho
  simp only [Chip.queueNow] at hd hh hw hm ho'
  simp [Chip.fabricPush, h.writer, hr, hd, hh, hw, hm, ho', Chip.alterQueue]

/-- A disabled block discards the push and counts it (R189). -/
theorem Chip.fabricPush_disabled (h : b.SameClock r k) {bytes : Queue → List Byte} {close : Bool}
    (hd : (b.queueNow k).disabled = true) (hb : bytes (b.queueNow k) ≠ [])
    (ho : (b.queueNow k).pushCycle ≠ some (b.isle r)) :
    b.fabricPush k bytes close = (b.settleQueue k).discardPush k := by
  have hr : (b.settleQueue k).fabricRuns r = true := h.runs
  have ho' : ((b.queueNow k).pushCycle == some ((b.settleQueue k).sideCycle (some r))) = false := beq_false_of_ne ho
  simp only [Chip.queueNow] at hd hb ho'
  simp [Chip.fabricPush, h.writer, hr, hd, hb, ho']

/-- The read port may take a pop: nothing is held or popped in this cycle, and no slot of class 0x6 covers it. -/
structure Chip.PopFree (b : Chip) (r k : Nat) : Prop where
  shown : (b.queueNow k).readShow.held = false
  held : (b.queueNow k).heldPop = false
  once : (b.queueNow k).popCycle ≠ some (b.isle r)
  slot : b.slotAt r 6 (k % 16) = none

/-- Outside every slot of class 0x6 a pop is the change of its block alone (R186). -/
theorem Chip.scheduledRead_unslotted {c : Chip} (h : c.slotAt (k / 16) 6 (k % 16) = none) (stalls : Bool) :
    c.scheduledRead k stalls = c := by
  simp [Chip.scheduledRead, h]

theorem Chip.pop_presented (h : b.SameClock r k) (hp : b.PopFree r k) :
    b.pop k = b.alterQueue k fun x q =>
      if ((b.queueNow k).disabled || (b.queueNow k).readShow.depth == 0) = true then
        { q with heldPop := true, popReady := if q.split || q.words.isEmpty then none else some (x.cr + 1) }
      else q.take x := by
  obtain ⟨hs, hh, ho, hx⟩ := hp
  have hr : (b.settleQueue k).fabricRuns r = true := h.runs
  have ho' : ((b.queueNow k).popCycle == some ((b.settleQueue k).sideCycle (some r))) = false := beq_false_of_ne ho
  have hx' : ∀ f, ((b.settleQueue k).onQueue k f).slotAt (k / 16) 6 (k % 16) = none := fun f => by
    rw [h.home]; exact hx
  simp only [Chip.queueNow] at hs hh ho'
  simp only [Chip.pop, h.reader, hr, hs, hh, ho', Chip.scheduledRead_unslotted (hx' _)]
  rfl

/-- A pop while a word can be read takes it; one of an empty block is held (R183). -/
theorem Chip.pop_takes (h : b.SameClock r k) (hp : b.PopFree r k) (hd : (b.queueNow k).disabled = false)
    (hn : (b.queueNow k).readShow.depth ≠ 0) : b.pop k = b.alterQueue k fun x q => q.take x := by
  rw [Chip.pop_presented h hp]
  simp [hd, hn]

theorem Chip.pop_stalls (h : b.SameClock r k) (hp : b.PopFree r k) (hn : (b.queueNow k).readShow.depth = 0) :
    b.pop k = b.alterQueue k fun x q =>
      { q with heldPop := true, popReady := if q.split || q.words.isEmpty then none else some (x.cr + 1) } := by
  rw [Chip.pop_presented h hp]
  simp [hn]

/-- A held pop that is due takes the head word (R183). -/
theorem Chip.heldPopTake_due (h : b.SameClock r k) {c : Nat} (hd : (b.queueNow k).disabled = false)
    (hh : (b.queueNow k).heldPop = true) (hp : (b.queueNow k).popReady = some c) (hc : c ≤ b.isle r) :
    b.heldPopTake k = b.alterQueue k fun x q => q.take x := by
  have hr : (b.settleQueue k).fabricRuns r = true := h.runs
  have hc' : c ≤ (b.settleQueue k).sideCycle (some r) := hc
  simp only [Chip.queueNow] at hd hh hp
  simp [Chip.heldPopTake, h.reader, hr, hd, hh, hp, hc', Chip.alterQueue]

/-- A held push that is due completes its word (R184). -/
theorem Chip.heldPushComplete_due (h : b.SameClock r k) {c : Nat} (hp : (b.queueNow k).pushReady = some c)
    (hc : c ≤ b.isle r) : b.heldPushComplete k = b.alterQueue k fun x q => q.completePush x x.cw := by
  have hr : (b.settleQueue k).fabricRuns r = true := h.runs
  have hc' : c ≤ (b.settleQueue k).sideCycle (some r) := hc
  simp only [Chip.queueNow] at hp
  simp [Chip.heldPushComplete, h.writer, hr, hp, hc', Chip.alterQueue]

end

/-- Settles O22: each row is one equation, by the port's state, and the block's record is read off the word that joins,
enters or leaves. -/
theorem queueBlocksPackPushAndPop : Obligations.QueueBlocksPackPushAndPop := by
  unfold Obligations.QueueBlocksPackPushAndPop
  extract_lets open_ cyc now rest pushes pops
  have same : ∀ s r k t0, open_ s r k → (s.toChip.upTo t0).SameClock r (queueKey r k) :=
    fun s r k t0 ⟨_, hk, hm, hr⟩ => ⟨queueKey_div hk, hm, hr⟩
  have free : ∀ s r k t0, open_ s r k → pops s r k t0 → (s.toChip.upTo t0).PopFree r (queueKey r k) :=
    fun s r k t0 ⟨_, hk, _⟩ ⟨_, hs, hh, ho, hx⟩ => ⟨hs, hh, ho, by rw [queueKey_mod hk]; exact hx⟩
  refine ⟨?_, ?_, ?_, ?_, ?_, ?_, ?_, ?_, ?_⟩
  · rintro s r k t0 x ho ⟨hd, hh, hw, hp⟩ hl
    refine queueRow_alters (fun q => q.pack = (now s r k t0).pack ++ (now s r k t0).itemBytes x ∧
      q.words = (now s r k t0).words) rfl (Chip.fabricPush_taken (same s r k t0 ho) hd hh hw hp) ?_
    rw [Queue.push_joins _ (Queue.itemBytes_ne_nil _ _) hl]
    exact ⟨rfl, rfl⟩
  · rintro s r k t0 x ho ⟨hd, hh, hw, hp⟩ hn
    refine queueRow_alters (fun q => q.pack = [] ∧ q.words = (now s r k t0).words ++
      [packedWord ((now s r k t0).pack ++ (now s r k t0).itemBytes x)]) rfl
      (Chip.fabricPush_taken (same s r k t0 ho) hd hh hw hp) ?_
    rw [Queue.push_completes _ (List.append_ne_nil_of_right_ne_nil _ (Queue.itemBytes_ne_nil _ _)) hn]
    exact ⟨Queue.enter_pack _ _ _ _, Queue.enter_words _ _ _ _⟩
  · rintro s r k t0 ho ⟨hd, hh, hw, hp⟩ hn hk
    refine queueRow_alters (fun q => q.pack = [] ∧ q.words = (now s r k t0).words ++
      [packedWord (now s r k t0).pack]) rfl (Chip.fabricPush_taken (same s r k t0 ho) hd hh hw hp) ?_
    rw [Queue.push_completes _ (by simpa using hk) hn, List.append_nil]
    exact ⟨Queue.enter_pack _ _ _ _, Queue.enter_words _ _ _ _⟩
  · rintro s r k t0 x ho ⟨hd, hh, hw, hp⟩ hn hc
    refine queueRow_alters (fun q => q.heldPush.isSome = true ∧ q.words = (now s r k t0).words) rfl
      (Chip.fabricPush_taken (same s r k t0 ho) hd hh hw hp) ?_
    rw [Queue.push_stalls _ (List.append_ne_nil_of_right_ne_nil _ (Queue.itemBytes_ne_nil _ _)) hn
      (by rw [(same s r k t0 ho).cw]; exact hc)]
    exact ⟨rfl, rfl⟩
  · rintro s r k t0 w l ho hp hh hn hq
    refine queueRow_alters (fun q => q.words = l ∧ q.out.getLast? = some (cyc s r t0 + 1, w)) rfl
      (Chip.pop_takes (same s r k t0 ho) (free s r k t0 ho hp) hp.1 hn) ?_
    rw [Queue.take_of_no_push _ hh, (same s r k t0 ho).cr]
    exact ⟨Queue.leave_words _ _ hq, Queue.leave_out _ _ hq⟩
  · rintro s r k t0 ho hp hn
    exact queueRow_alters (fun q => q.heldPop = true ∧ q.words = (now s r k t0).words) rfl
      (Chip.pop_stalls (same s r k t0 ho) (free s r k t0 ho hp) hn) ⟨rfl, rfl⟩
  · rintro s r k t0 c w l ho hd hh hp hr hc hq
    refine queueRow_alters (fun q => q.words = l ∧ q.heldPop = false ∧ q.out.getLast? = some (cyc s r t0 + 1, w)) rfl
      (Chip.heldPopTake_due (same s r k t0 ho) hd hp hr hc) ?_
    rw [Queue.take_of_no_push _ hh, (same s r k t0 ho).cr]
    exact ⟨Queue.leave_words _ _ hq, Queue.leave_heldPop _ _ hq, Queue.leave_out _ _ hq⟩
  · rintro s r k t0 c e l ho hh hr hc
    refine queueRow_alters (fun q => q.heldPush = none ∧ q.words = (now s r k t0).words ++
      [packedWord ((now s r k t0).pack ++ l)]) rfl (Chip.heldPushComplete_due (same s r k t0 ho) hr hc) ?_
    rw [Queue.completePush_held _ _ hh]
    exact ⟨Queue.enter_heldPush _ _ _ _, Queue.enter_words _ _ _ _⟩
  · rintro s r k t0 x f ho hd hp
    have hk : queueKey r k / 16 = r := (same s r k t0 ho).home
    refine ⟨s.on ((s.toChip.upTo t0).fabricPush (queueKey r k) (fun q => q.itemBytes x) f), rfl, ?_⟩
    rw [Chip.fabricPush_disabled (same s r k t0 ho) hd (Queue.itemBytes_ne_nil _ _) hp, Chip.discardPush, hk]
    exact ⟨Chip.reg_setReg_self _ _ _ _, rfl, (OnlyTouches.upTo (by simp) s t0).extend fun y hy =>
      (Area.same_modQueue _ _ _ (by rintro rfl; simp at hy)).trans (Area.same_count (by rintro rfl; simp at hy) _ _ _)⟩

end Sys2Proof.Machine

namespace Sys2Proof.Machine
open Sys2Proof

/-! ### Watermark flags that clear (R187) -/

section
variable (q : Queue) (x : QueueClock)

theorem Queue.clearMarks_words : (q.clearMarks x).words = q.words :=
  Queue.logFlags_keep _ _ _ Queue.words fun _ _ _ => rfl

variable {q}

/-- Where no change of the present reader cycle has judged the flags, the depth from which a clear judges them is the
present one. -/
theorem Queue.clearMarks_steady (h : (q.wmAt.map fun w => w.1) ≠ some x.cr) :
    q.clearMarks x =
      ({ q with wmAt := some (x.cr, false, false, q.readDepth) }.judge x.cr q.readDepth).logFlags x x.cr := by
  simp only [Queue.clearMarks]
  split
  · next c hi lo d hw => rw [if_neg fun hc => h (by rw [hw, ← hc]; rfl)]
  · rfl

/-- No depth crosses a watermark from itself, so no flag is set again. -/
theorem Queue.clearMarks_clears (h : (q.wmAt.map fun w => w.1) ≠ some x.cr) :
    (q.clearMarks x).wmHi = false ∧ (q.clearMarks x).wmLo = false := by
  rw [Queue.clearMarks_steady x h, Queue.logFlags_keep _ _ _ Queue.wmHi fun _ _ _ => rfl,
    Queue.logFlags_keep _ _ _ Queue.wmLo fun _ _ _ => rfl]
  simp only [Queue.judge, if_true, Bool.false_or]
  change (decide (q.readDepth < q.hi) && decide (q.hi ≤ q.readDepth)) = false ∧
    (decide (q.lo < q.readDepth) && decide (q.readDepth ≤ q.lo)) = false
  simp only [Bool.and_eq_false_iff, decide_eq_false_iff_not]
  exact ⟨by omega, by omega⟩

end

/-- No change of depth in the present reader cycle has judged the flags of queue block k. -/
def Chip.DepthSteady (b : Chip) (k : Nat) : Prop :=
  ((b.queueNow k).wmAt.map fun w => w.1) ≠ some (b.sideCycle ((b.queue k).reader k))

section
variable {b : Chip} {r k : Nat}

theorem Chip.DepthSteady.clears (h : b.DepthSteady k) :
    ((b.queueNow k).clearMarks (b.clockNow k)).wmHi = false ∧ ((b.queueNow k).clearMarks (b.clockNow k)).wmLo = false :=
  Queue.clearMarks_clears _ (by rw [Chip.clockNow_cr]; exact h)

theorem Chip.clearFlags_eq (b : Chip) (k : Nat) : b.clearFlags k = b.alterQueue k fun x q => q.clearMarks x := rfl

theorem Chip.watermarkClear_runs (hr : (b.queue k).reader k = some r) (hf : b.fabricRuns r = true) :
    b.watermarkClear k = b.alterQueue k fun x q => q.clearMarks x := by
  simp only [Chip.watermarkClear, hr, hf, if_true, Chip.clearFlags_eq]

theorem Chip.queueNow_eq (b : Chip) (k : Nat) : b.queueNow k = (b.queue k).settle (b.queueClock k (b.queue k)) :=
  Chip.queue_modQueue _ _ _

/-- A clear of another block leaves a steady block steady. -/
theorem Chip.DepthSteady.clearFlags {j : Nat} (hj : j ≠ k) (h : b.DepthSteady j) : (b.clearFlags k).DepthSteady j := by
  have hq : (b.clearFlags k).queue j = b.queue j := Chip.queue_alterQueue_ne b k _ hj
  rw [Chip.DepthSteady, Chip.queueNow_eq, hq]
  rw [Chip.DepthSteady, Chip.queueNow_eq] at h
  exact h

/-! ### The dictionary's mask (R187, R197) -/

theorem queueKey_ne {i j : Nat} (h : i ≠ j) : queueKey r i ≠ queueKey r j := by
  simp only [queueKey]; omega

/-- The watermark flags of the listed queue blocks of region r clear one after the other. -/
def Chip.clearEach (b : Chip) (r : Nat) (l : List Nat) : Chip := b.forEach l fun b k => b.clearFlags (queueKey r k)

theorem Chip.clearEach_cons (b : Chip) (r i : Nat) (l : List Nat) :
    b.clearEach r (i :: l) = (b.clearFlags (queueKey r i)).clearEach r l := rfl

theorem Chip.clearEach_unlisted {l : List Nat} {j : Nat} (hj : j ∉ l) (b : Chip) :
    (b.clearEach r l).queue (queueKey r j) = b.queue (queueKey r j) := by
  induction l generalizing b with
  | nil => rfl
  | cons i l ih =>
    rw [List.mem_cons, not_or] at hj
    rw [Chip.clearEach_cons, ih hj.2, Chip.clearFlags_eq, Chip.queue_alterQueue_ne _ _ _ (queueKey_ne hj.1)]

theorem Chip.clearEach_listed {l : List Nat} {j : Nat} (hl : l.Nodup) (hj : j ∈ l) (h : b.DepthSteady (queueKey r j)) :
    ((b.clearEach r l).queue (queueKey r j)).wmHi = false ∧ ((b.clearEach r l).queue (queueKey r j)).wmLo = false := by
  induction l generalizing b with
  | nil => cases hj
  | cons i l ih =>
    obtain ⟨hi, hl⟩ := List.nodup_cons.1 hl
    rw [Chip.clearEach_cons]
    rcases List.mem_cons.1 hj with rfl | hj
    · rw [Chip.clearEach_unlisted hi, Chip.clearFlags_eq, Chip.queue_alterQueue]
      exact h.clears
    · exact ih hl hj (h.clearFlags (queueKey_ne (ne_of_mem_of_not_mem hj hi)))

theorem mem_bitsOf_toNat {w j : Nat} {m : BitVec w} : j ∈ bitsOf m.toNat w ↔ m.getLsbD j = true := by
  simp only [bitsOf, List.mem_filter, List.mem_range, BitVec.testBit_toNat]
  exact ⟨And.right, fun h => ⟨BitVec.lt_of_getLsbD h, h⟩⟩

theorem exec_clearWatermarks_allowed {s : State} {q : Req} {m : BitVec 16}
    (h : WriteAllowed s q (0x2500 + r) 0x30 m.toNat = true) :
    exec (.clearWatermarks q r m) s =
      .next (s.on (((s.served q).clearEach r (bitsOf m.toNat 16)).answer q.owner .done)) :=
  congrArg (fun b => Host.Outcome.next (s.on b)) (writeRow_allowed s q _ _ m.toNat _ h)

theorem OnlyTouches.clearEach (s : State) (q : Req) (r : Nat) (l : List Nat) :
    OnlyTouches (.belfry :: .queues :: answerAreas) s (s.on ((s.served q).clearEach r l)) :=
  ((OnlyTouches.upTo (by simp) s q.t).withDict (by simp [answerAreas]) _).extend fun _ hx =>
    Area.same_foldl (fun _ _ => Area.same_alterQueue _ _ (by rintro rfl; simp at hx) _) _ _

/-! ### Pointer mismatches (R188, R189) -/

theorem Chip.queue_congr {c : Chip} (h : c.queues = b.queues) (k : Nat) : c.queue k = b.queue k := by
  simp only [Chip.queue, h]

/-- The fourth mismatch notes itself in its block, may disable the block, and may log that (R189). -/
theorem Chip.disableQueue_induct {P : Chip → Prop} {which : Nat} {inj : Bool}
    (hm : ∀ c l, P c → P (c.modQueue k fun q => { q with mism := l }))
    (hd : ∀ c, P c → P (c.modQueue k fun q => { q with disabled := true })) (he : ∀ c e, P c → P (c.logEvent e))
    (h : P b) : P (b.disableQueue k which inj) := by
  simp only [Chip.disableQueue]
  split
  · split
    · exact he _ _ (hd _ (hm _ _ h))
    · exact hm _ _ h
  · exact hm _ _ h

section
variable (b : Chip) (k which : Nat) (inj : Bool)

theorem Chip.disableQueue_queue_keep {β : Type} (g : Queue → β)
    (hg : ∀ (q : Queue) l d, g { q with mism := l, disabled := d } = g q) :
    g ((b.disableQueue k which inj).queue k) = g (b.queue k) := by
  refine Chip.disableQueue_induct (P := fun c => g (c.queue k) = g (b.queue k)) (fun c l h => ?_) (fun c h => ?_)
    (fun c e h => ?_) rfl
  · rw [Chip.queue_modQueue]; exact (hg _ l _).trans h
  · rw [Chip.queue_modQueue]; exact (hg _ _ true).trans h
  · rw [Chip.queue_congr (Chip.logEvent_queues c e)]; exact h

theorem Chip.disableQueue_queue_ne {j : Nat} (hj : j ≠ k) : (b.disableQueue k which inj).queue j = b.queue j :=
  Chip.disableQueue_induct (P := fun c => c.queue j = b.queue j)
    (fun c _ h => (Chip.queue_modQueue_ne c k _ hj).trans h) (fun c h => (Chip.queue_modQueue_ne c k _ hj).trans h)
    (fun c e h => (Chip.queue_congr (Chip.logEvent_queues c e) j).trans h) rfl

theorem Chip.disableQueue_parts : (b.disableQueue k which inj).parts = b.parts :=
  Chip.disableQueue_induct (P := fun c => c.parts = b.parts) (fun _ _ h => h) (fun _ h => h)
    (fun c e h => (Chip.logEvent_parts c e).trans h) rfl

theorem Chip.disableQueue_reg_quiet {i j : Nat} (hq : QuietReg i j) :
    (b.disableQueue k which inj).reg i j = b.reg i j :=
  Chip.disableQueue_induct (P := fun c => c.reg i j = b.reg i j) (fun _ _ h => h) (fun _ h => h)
    (fun _ e h => (Chip.logEvent_reg_quiet hq e).trans h) rfl

theorem Area.same_disableQueue {x : Area} (hx : x ∉ Area.queues :: logAreas) :
    x.same b (b.disableQueue k which inj) := by
  rw [List.mem_cons, not_or] at hx
  exact Chip.disableQueue_induct (P := x.same b) (fun c _ h => h.trans (Area.same_modQueue c k _ hx.1))
    (fun c h => h.trans (Area.same_modQueue c k _ hx.1)) (fun c e h => h.trans (Area.same_logEvent hx.2 c e))
    (Area.same_refl x b)

/-- The mismatched block as it is reset, and counted in 0x25ii:31 (R188). -/
def Chip.mismatchCounted (b : Chip) (k : Nat) : Chip :=
  (b.modQueue k fun q => q.reset (b.sideCycle (q.writer k)) (b.sideCycle (q.reader k))).count (0x2500 + k / 16) 0x31

theorem Chip.queue_mismatchCounted : (b.mismatchCounted k).queue k =
    (b.queue k).reset (b.sideCycle ((b.queue k).writer k)) (b.sideCycle ((b.queue k).reader k)) :=
  Chip.queue_modQueue b k fun q => q.reset (b.sideCycle (q.writer k)) (b.sideCycle (q.reader k))

theorem Chip.queue_mismatchCounted_ne {j : Nat} (hj : j ≠ k) : (b.mismatchCounted k).queue j = b.queue j :=
  Chip.queue_modQueue_ne b k (fun q => q.reset (b.sideCycle (q.writer k)) (b.sideCycle (q.reader k))) hj

theorem Chip.reg_mismatchCounted :
    (b.mismatchCounted k).reg (0x2500 + k / 16) 0x31 = sat32 (b.reg (0x2500 + k / 16) 0x31 + 1) :=
  Chip.reg_setReg_self _ _ _ _

theorem Area.same_mismatchCounted {x : Area} (hq : x ≠ .queues) (hd : x ≠ .dict) : x.same b (b.mismatchCounted k) :=
  (Area.same_modQueue b k _ hq).trans (Area.same_count hd _ _ _)

end

/-- A logged mismatch keeps to time, the queue blocks and what an entry may change. -/
theorem OnlyTouches.mismatchLogged (s : State) (t0 k which : Nat) (e : Ev) :
    OnlyTouches (.belfry :: .queues :: logAreas) s
      (s.on ((((s.toChip.upTo t0).mismatchCounted k).logEvent e).disableQueue k which false)) := by
  refine (OnlyTouches.upTo (by simp) s t0).extend fun x hx => ?_
  rw [List.mem_cons, not_or] at hx
  obtain ⟨-, hx⟩ := hx
  have hl : x ∉ logAreas := fun h => hx (List.mem_cons_of_mem _ h)
  have hc : x.same (s.toChip.upTo t0) ((s.toChip.upTo t0).mismatchCounted k) :=
    Area.same_mismatchCounted _ _ (by rintro rfl; simp at hx) (by rintro rfl; simp [logAreas] at hx)
  exact (hc.trans (Area.same_logEvent hl _ _)).trans (Area.same_disableQueue _ _ _ _ hx)

/-- Where no slot names the block, its mismatch is an entry (R188). -/
theorem Chip.pointerMismatch_unscheduled {which : Nat} (hr : b.pointerRuns k which = true)
    (hs : b.queueScheduled k = false) :
    ∃ e, b.pointerMismatch k which = ((b.mismatchCounted k).logEvent e).disableQueue k which false := by
  simp only [Chip.pointerMismatch, hr, if_true, Chip.mismatch, hs, Bool.false_and]
  exact ⟨_, rfl⟩

/-- Where a slot of an ARMED partition names it, the region is fenced (R188). -/
theorem Chip.pointerMismatch_armed {which p : Nat} (hr : b.pointerRuns k which = true) (hs : b.queueScheduled k = true)
    (hp : b.regionPart (k / 16) = some p) (ha : (b.part p).status = .armed) :
    ∃ e : Ev, e.code = evCode 3 3 (k / 16) 1 ∧
      b.pointerMismatch k which = ((b.mismatchCounted k).fence (k / 16) e).disableQueue k which false := by
  simp only [Chip.pointerMismatch, hr, if_true, Chip.mismatch, hs, hp, ha, Bool.true_and, beq_self_eq_true]
  exact ⟨_, rfl, rfl⟩

/-! ### The edges of the dual-clock mode (R190) -/

theorem Queue.arrive_unread (q : Queue) (x : QueueClock) (c : Nat) : (q.arrive x c).unread = q.unread.drop 1 :=
  Queue.logFlags_keep _ _ _ Queue.unread fun _ _ _ => rfl

theorem Queue.arrive_words (q : Queue) (x : QueueClock) (c : Nat) : (q.arrive x c).words = q.words :=
  Queue.change_words _ _ _ _

theorem Chip.queueNow_split : (b.queueNow k).split = (b.queue k).split := by
  simp only [Queue.split, Chip.queueNow_mode]

/-- What a side shows of the depth in the present cycle. -/
def seenDepth (o : Option QueueShow) (d : Nat) : Option QueueShow := o.map fun s => { s with depth := d }

/-- At its edge the oldest unread word becomes readable. -/
theorem Chip.dualReadable_arrives {c : Nat} {l : List Nat} (hs : (b.queue k).split = true)
    (hu : (b.queueNow k).unread = c :: l) (hc : c ≤ b.sideCycle ((b.queue k).reader k)) :
    b.dualReadable k false = b.alterQueue k fun x q =>
      { q.arrive x c with shownR := seenDepth (q.arrive x c).shownR (q.readShow.depth + 1) } := by
  have hs' := (b.queueNow_split (k := k)).trans hs
  have hc' : c ≤ (b.settleQueue k).sideCycle ((b.queueNow k).reader k) := by rw [Chip.queueNow_reader]; exact hc
  simp only [Chip.queueNow] at hu hs' hc'
  simp [Chip.dualReadable, hu, hs', hc', Chip.alterQueue, seenDepth]

/-- At its edge the oldest place freed becomes known to the writer. -/
theorem Chip.dualReadable_frees {c : Nat} {l : List Nat} (hs : (b.queue k).split = true)
    (hu : (b.queueNow k).unfreed = c :: l) (hc : c ≤ b.sideCycle ((b.queue k).writer k)) :
    b.dualReadable k true = b.alterQueue k fun _ q =>
      { q.freed c with shownW := seenDepth (q.freed c).shownW (q.writeShow.depth - 1) } := by
  have hs' := (b.queueNow_split (k := k)).trans hs
  have hc' : c ≤ (b.settleQueue k).sideCycle ((b.queueNow k).writer k) := by rw [Chip.queueNow_writer]; exact hc
  simp only [Chip.queueNow] at hu hs' hc'
  simp [Chip.dualReadable, hu, hs', hc', Chip.alterQueue, seenDepth]

end

/-- Settles O23: a clear of a steady block, the reset of a mismatched one with its entry or fence, and the edge that
shows a word or a place are one equation each, from which the block's record is read off. -/
theorem queueFlagsMismatchesAndVisibility : Obligations.QueueFlagsMismatchesAndVisibility := by
  unfold Obligations.QueueFlagsMismatchesAndVisibility
  refine ⟨?_, ?_, ?_, ?_, ?_, ?_⟩
  · intro s r k t0 _ _ hrd hf hq
    obtain ⟨t, ht, ⟨hne, ho⟩, hhi, hlo, hw⟩ := queueRow_alters (i := .watermarkClear r k t0)
      (fun q => q.wmHi = false ∧ q.wmLo = false ∧ q.words = ((s.toChip.upTo t0).queueNow (queueKey r k)).words) rfl
      (Chip.watermarkClear_runs (b := s.toChip.upTo t0) hrd hf)
      ⟨(Chip.DepthSteady.clears hq).1, (Chip.DepthSteady.clears hq).2, Queue.clearMarks_words _ _⟩
    exact ⟨t, ht, hhi, hlo, hw, hne, ho⟩
  · intro s q r m _ hw hq
    have hqs : ∀ c : Chip, (s.on (c.answer q.owner .done)).queues = c.queues := fun c => Chip.answer_queues _ _ _
    refine ⟨_, exec_clearWatermarks_allowed hw, State.reply_on_answer _ _ _ _, fun k hk hb => ?_, fun k _ hb => ?_,
      (OnlyTouches.clearEach s q r _).answer (by simp [answerAreas]) _ _⟩
    · rw [Chip.queue_congr (hqs _)]
      exact Chip.clearEach_listed (List.nodup_range.filter _) (mem_bitsOf_toNat.2 hb) (hq k hk)
    · rw [Chip.queue_congr (hqs _), Chip.clearEach_unlisted (by rw [mem_bitsOf_toNat, hb]; decide)]
      rfl
  · intro s r k which t0 hr hk hp hs
    obtain ⟨e, he⟩ := Chip.pointerMismatch_unscheduled (b := s.toChip.upTo t0) hp hs
    have hq : ∀ j, (((s.toChip.upTo t0).mismatchCounted (queueKey r k)).logEvent e).queue j =
        ((s.toChip.upTo t0).mismatchCounted (queueKey r k)).queue j := Chip.queue_congr (Chip.logEvent_queues _ _)
    have hquiet : QuietReg (0x2500 + r) 0x31 := quietReg_region (by omega) (by omega) (by decide)
    have hreg := (s.toChip.upTo t0).reg_mismatchCounted (queueKey r k)
    rw [queueKey_div hk] at hreg
    refine ⟨s.on ((s.toChip.upTo t0).pointerMismatch (queueKey r k) which), rfl, ?_⟩
    rw [he, State.on_toChip, Chip.disableQueue_queue_keep _ _ _ _ Queue.words fun _ _ _ => rfl,
      Chip.disableQueue_queue_keep _ _ _ _ Queue.pack fun _ _ _ => rfl,
      Chip.disableQueue_queue_keep _ _ _ _ Queue.wptr fun _ _ _ => rfl,
      Chip.disableQueue_queue_keep _ _ _ _ Queue.rptr fun _ _ _ => rfl, hq, Chip.queue_mismatchCounted,
      Chip.disableQueue_reg_quiet _ _ _ _ hquiet, Chip.logEvent_reg_quiet hquiet]
    refine ⟨rfl, rfl, rfl, rfl, hreg, fun j hj => ?_, OnlyTouches.mismatchLogged s t0 _ which e⟩
    rw [Chip.disableQueue_queue_ne _ _ _ _ hj, hq, Chip.queue_mismatchCounted_ne _ _ hj]
    rfl
  · intro s r k which t0 p hr hk hp hs hpart ha hf
    obtain ⟨e, hcode, he⟩ := Chip.pointerMismatch_armed (b := s.toChip.upTo t0) (k := queueKey r k) hp hs
      (by rw [queueKey_div hk]; exact hpart) ha
    rw [queueKey_div hk] at hcode he
    have hf' : (((s.toChip.upTo t0).mismatchCounted (queueKey r k)).region r).fenced = false := hf
    refine ⟨s.on ((s.toChip.upTo t0).pointerMismatch (queueKey r k) which), rfl, ?_⟩
    rw [he, State.on_toChip, Chip.region_congr (Chip.disableQueue_regions _ _ _ _),
      Chip.part_congr (Chip.disableQueue_parts _ _ _ _),
      Chip.disableQueue_reg_quiet _ _ _ _ (quietReg_region (by omega) (by omega) (by decide)), Chip.fence_code e hf' hr]
    exact ⟨Chip.fence_fenced _ _ _, Chip.fence_breaks e hf' hpart (.inl ha), hcode⟩
  · intro s r k t0 c l hs hu hc
    obtain ⟨t, ht, ⟨-, ho⟩, hl, hw⟩ := queueRow_alters (i := .dualClockWordReadable r k false t0)
      (fun q => q.unread = l ∧ q.words = ((s.toChip.upTo t0).queueNow (queueKey r k)).words) rfl
      (Chip.dualReadable_arrives (b := s.toChip.upTo t0) hs hu hc)
      ⟨(Queue.arrive_unread _ _ _).trans (by rw [hu]; rfl), Queue.arrive_words _ _ _⟩
    exact ⟨t, ht, hl, hw, ho⟩
  · intro s r k t0 c l hs hu hc
    obtain ⟨t, ht, ⟨-, ho⟩, hl, hw⟩ := queueRow_alters (i := .dualClockWordReadable r k true t0)
      (fun q => q.unfreed = l ∧ q.words = ((s.toChip.upTo t0).queueNow (queueKey r k)).words) rfl
      (Chip.dualReadable_frees (b := s.toChip.upTo t0) hs hu hc)
      ⟨(congrArg (List.drop 1) hu : _), rfl⟩
    exact ⟨t, ht, hl, hw, ho⟩

end Sys2Proof.Machine

/-! # Slice groups (O25 to O30)

Two statements fail on a state that nothing in them excludes, which is written out. -/

namespace Sys2Proof.Machine
open Sys2Proof

/-! ## A fault that waits for the issue cycle (O28) -/

/-- A slice group that has started in cycle 10, with an opcode of no instruction as its first word, while a read of the
fabric waits for a coefficient row that holds an uncorrectable word. -/
def badRowWaits : State :=
  { dev := { st := .full }
    parts := [(0, { owner := 1, claim := 2#32, regions := 2#32, committed := true, status := .armed })]
    regions := [(1, { part := some 0, inReset := false })]
    slices :=
      { groups := [(64,
          { st := .run, last := some 10, gap := 2, cmHeld := some { cyc := 10, we := false, row := 0, data := 0#256 } })],
        im := [(memKey ⟨1, 0⟩ 0, 0xFC00000000000000#64)],
        err := [(gmKey ⟨1, 0⟩ 1 0, (2, false))] } }

/-- The buses of tick 100, which lies in cycle 10 of the group. -/
def busesAt100 : Issue := { x := 0#256, y := 0#256, z := 0#256, t := 100 }

/-- The group may issue, and the word at its PC in the issue cycle is illegal with code 1. -/
theorem badRowWaits_illegal : badRowWaits.mayIssue ⟨1, 0⟩ busesAt100 = true ∧
    ((badRowWaits.atIssue ⟨1, 0⟩ busesAt100).group ⟨1, 0⟩).pc < 4096 ∧
    ((badRowWaits.atIssue ⟨1, 0⟩ busesAt100).gmErr ⟨1, 0⟩ 0
      ((badRowWaits.atIssue ⟨1, 0⟩ busesAt100).group ⟨1, 0⟩).pc).1 = 0 ∧
    (badRowWaits.atIssue ⟨1, 0⟩ busesAt100).isArmed 0x2D40 1 (groupKey 1 0) = false ∧
    opDefined (wOp (badRowWaits.issueCtx ⟨1, 0⟩ busesAt100).w) = false ∧
    waits (badRowWaits.issueCtx ⟨1, 0⟩ busesAt100).w busesAt100 = false ∧
    (badRowWaits.atIssue ⟨1, 0⟩ busesAt100).illegal ⟨1, 0⟩ (badRowWaits.issueCtx ⟨1, 0⟩ busesAt100).w = some 1 := by
  decide +kernel

/-- The read that waits meets its word before the issue cycle, so the group is in FAULT with code 5 by then. -/
theorem badRowWaits_faultCode : (badRowWaits.toChip.issue ⟨1, 0⟩ busesAt100 0x10 macEff).reg 0x2501 0x39 = 5 := by
  decide +kernel

/-- Refutes O28: a coefficient read that waits is taken on the way to the issue cycle. Where it meets an uncorrectable word, the block
is in its safe state when the illegal word stands to issue, and 0x25ii:39 keeps code 5 of the word (R231). -/
theorem not_issuePostModifiesAndIllegalWordsFault : ¬ Obligations.IssuePostModifiesAndIllegalWordsFault := by
  unfold Obligations.IssuePostModifiesAndIllegalWordsFault
  intro h
  obtain ⟨-, h, -⟩ := h
  obtain ⟨hmay, hpc, herr, harm, hop, hwait, hill⟩ := badRowWaits_illegal
  obtain ⟨t, ht, -, -, hcode, -⟩ := h Instr.mac 0x10 1 (List.mem_append_left _ (List.mem_cons_self ..)) badRowWaits ⟨1, 0⟩
    busesAt100 (by decide) (by decide) hmay hpc herr harm (.inr hop) hwait hill
  have he : exec (.mac ⟨1, 0⟩ busesAt100) badRowWaits =
    .next (badRowWaits.on (badRowWaits.toChip.issue ⟨1, 0⟩ busesAt100 0x10 macEff)) := rfl
  rw [he, Host.Outcome.next.injEq] at ht
  rw [← ht, State.on_toChip] at hcode
  have h1 := badRowWaits_faultCode.symm.trans hcode
  exact absurd h1 (by decide)

/-! ## An overrun in a fenced region (O29) -/

/-- A slice group of a fenced region is late in a handler, while the contract of the partition is ARMED. No run leads here, for
a fence breaks the contract, but nothing in the statement excludes it. -/
def fencedArmed : State :=
  { dev := { st := .full }
    parts := [(0, { owner := 1, claim := 2#32, regions := 2#32, committed := true, status := .armed })]
    regions := [(1, { part := some 0, inReset := false, fenced := true })]
    slices := { groups := [(64, { st := .run, handler := some { ev := 2, since := 0 }, bound := [9, 9, 9, 9] })] } }

/-- The handler is beyond its bound at tick 100, and the region checks its slots. -/
theorem fencedArmed_late :
    (((fencedArmed.toChip.upTo 100).settleGroup ⟨1, 0⟩).group ⟨1, 0⟩).handler = some { ev := 2, since := 0 } ∧
    (((fencedArmed.toChip.upTo 100).settleGroup ⟨1, 0⟩).group ⟨1, 0⟩).bound.getD 2 0 <
      ((fencedArmed.toChip.upTo 100).settleGroup ⟨1, 0⟩).isle 1 ∧
    ((fencedArmed.toChip.upTo 100).settleGroup ⟨1, 0⟩).checksSlots 1 = true := by
  decide +kernel

/-- A region that is fenced already is not fenced again, and its contract is not broken. -/
theorem fencedArmed_status : (((fencedArmed.toChip.upTo 100).overrunSeen ⟨1, 0⟩ 2).part 0).status = .armed := by
  decide +kernel

/-- Refutes O29: the miss of an overrun breaks the contract by the fence, which a region that is fenced already does not
enter again (R92, R26). -/
theorem not_eventsStartsAndStops : ¬ Obligations.EventsStartsAndStops := by
  unfold Obligations.EventsStartsAndStops
  rintro ⟨-, -, h, -⟩
  obtain ⟨hh, hlate, hchecks⟩ := fencedArmed_late
  obtain ⟨t, ht, -, -, hbreak⟩ := h fencedArmed 1 0 2 100 { ev := 2, since := 0 } (by decide) (by decide) hh rfl rfl
    (by simpa using hlate)
  obtain rfl := Host.Outcome.next.inj ht
  obtain ⟨hbroken, -⟩ := hbreak 0 (by decide) rfl hchecks rfl
  exact absurd (hbroken.symm.trans fencedArmed_status) (by decide)

end Sys2Proof.Machine

/-! # Slice groups: the rules of their records and memories

The first part says how a record of a group is read after each change of it, and what such a change leaves alone. -/

namespace Sys2Proof.Machine
open Sys2Proof

/-! ## One group changes -/

/-- Two changes of one record are one. -/
theorem Tab.set_set {α : Type} (t : Tab α) (k : Nat) (v w : α) : Tab.set (Tab.set t k v) k w = Tab.set t k w := by
  induction t with
  | nil => simp [Tab.set]
  | cons x t ih =>
    obtain ⟨i, a⟩ := x
    simp only [Tab.set]
    split
    · simp [Tab.set]
    · split
      · simp [Tab.set]
      · rename_i h h'
        simp [Tab.set, h, h', ih]

section
variable (b : Chip) (g : Grp) (f : Group → Group)

@[simp] theorem Chip.group_modGroup : (b.modGroup g f).group g = f (b.group g) := Tab.get_mod_self _ _ _ _

theorem Chip.modGroup_modGroup (f' : Group → Group) :
    (b.modGroup g f).modGroup g f' = b.modGroup g fun x => f' (f x) := by
  simp only [Chip.modGroup, Tab.mod, Tab.get_set_self, Tab.set_set]

theorem Chip.groups_modGroup_ne {j : Nat} (h : j ≠ groupKey g.r g.b) :
    Tab.get {} (b.modGroup g f).slices.groups j = Tab.get {} b.slices.groups j := Tab.get_mod_ne _ _ _ _ _ h

theorem Chip.modGroup_congr {f f' : Group → Group} (h : f (b.group g) = f' (b.group g)) :
    b.modGroup g f = b.modGroup g f' := by
  simp only [Chip.modGroup, Tab.mod]
  rw [show f (Tab.get {} b.slices.groups (groupKey g.r g.b)) = _ from h]
  rfl

theorem Area.same_slices {x : Area} (h : x ≠ .slices) (b : Chip) (y : Slices) : x.same b { b with slices := y } := by
  cases x <;> simp_all [Area.same]

theorem Area.same_modGroup {x : Area} (h : x ≠ .slices) : x.same b (b.modGroup g f) := Area.same_slices h _ _

end

/-- From b to c the record of group g alone of the groups has changed, no word of the group memories, and of the areas those of l
alone. -/
def AltersGroup (l : List Area) (g : Grp) (b c : Chip) : Prop :=
  (∀ j, j ≠ groupKey g.r g.b → Tab.get {} c.slices.groups j = Tab.get {} b.slices.groups j) ∧ SlicesKept b c ∧
    ∀ x, x ∉ l → x.same b c

section
variable {l : List Area} {g : Grp} {b c d : Chip}

theorem SlicesKept.trans (h : SlicesKept b c) (h' : SlicesKept c d) : SlicesKept b d :=
  ⟨h'.1.trans h.1, h'.2.1.trans h.2.1, h'.2.2.trans h.2.2⟩

theorem SlicesKept.of_slices (h : c.slices = b.slices) : SlicesKept b c := by
  rw [SlicesKept, h]
  exact ⟨rfl, rfl, rfl⟩

theorem SlicesKept.modGroup (b : Chip) (g : Grp) (f : Group → Group) : SlicesKept b (b.modGroup g f) := ⟨rfl, rfl, rfl⟩

theorem AltersGroup.trans (h : AltersGroup l g b c) (h' : AltersGroup l g c d) : AltersGroup l g b d :=
  ⟨fun j hj => (h'.1 j hj).trans (h.1 j hj), h.2.1.trans h'.2.1, fun x hx => (h.2.2 x hx).trans (h'.2.2 x hx)⟩

theorem AltersGroup.of_slices (hs : c.slices = b.slices) (h : ∀ x, x ∉ l → x.same b c) : AltersGroup l g b c :=
  ⟨fun j _ => by rw [hs], .of_slices hs, h⟩

theorem AltersGroup.upTo (hl : .belfry ∈ l) (b : Chip) (t : Nat) : AltersGroup l g b (b.upTo t) :=
  .of_slices rfl fun _ hx => Area.same_upTo (by rintro rfl; exact hx hl) b t

theorem AltersGroup.modGroup (hl : .slices ∈ l) (b : Chip) (f : Group → Group) : AltersGroup l g b (b.modGroup g f) :=
  ⟨fun _ hj => Chip.groups_modGroup_ne b g f hj, .modGroup b g f,
    fun _ hx => Area.same_modGroup b g f (by rintro rfl; exact hx hl)⟩

/-- What the group's change comes to for the state. -/
theorem AltersGroup.onlyTouches {s : State} (h : AltersGroup l g s.toChip c) : OnlyTouches l s (s.on c) :=
  (OnlyTouches.refl _ s).extend h.2.2

end

/-! ## The register set in use (R220) -/

section
variable (x : Group) (f : RegSet → RegSet)

/-- A change of the set in use, as a change of both sets. -/
theorem Group.modRegs_eq : x.modRegs f =
    { x with
      main := if x.handler.isSome then x.main else f x.main
      shadow := if x.handler.isSome then f x.shadow else x.shadow } := by
  unfold Group.modRegs Group.setRegs Group.regs
  split <;> rfl

@[simp] theorem Group.regs_modRegs : (x.modRegs f).regs = f x.regs := by
  rw [Group.modRegs_eq]
  unfold Group.regs
  split <;> simp_all

/-- The register sets are all that a change of the set in use changes. -/
theorem Group.modRegs_keep {β : Type} (v : Group → β) (h : ∀ m s, v { x with main := m, shadow := s } = v x) :
    v (x.modRegs f) = v x := by
  rw [Group.modRegs_eq]
  exact h _ _

end

/-! ### Address registers (R206) -/

section
variable (s : RegSet) (l : List Nat)

/-- The address registers are all that post-modification changes. -/
theorem RegSet.modifyAll_keep {β : Type} (v : RegSet → β) (h : ∀ s a, v { s with a := a } = v s) :
    v (s.modifyAll l) = v s := foldl_keep v _ (fun _ _ => h _ _) _ _

@[simp] theorem RegSet.modifyAll_nil : s.modifyAll [] = s := rfl

end

/-! ## The pipeline's writes (R207) -/

/-- The registers of a lane in the pipeline's record have keys of their own. -/
theorem accKey_inj {i j m n : Nat} (hm : m < 16) (hn : n < 16) : accKey i m = accKey j n ↔ i = j ∧ m = n := by
  unfold accKey
  omega

section
variable (x : Group) (c : Nat)

theorem Group.accNow_accWrite (lane n : Nat) (v : BitVec 80) {i m : Nat} (hm : m < 16) (hn : n < 16) :
    (x.accWrite c lane n v).accNow i m = if i = lane ∧ m = n then v else x.accNow i m := by
  split
  · next h => rw [h.1, h.2]; exact Tab.get_set_self _ _ _ _
  · next h => exact Tab.get_set_ne _ _ _ _ _ (mt (accKey_inj hm hn).1 h)

theorem Group.bixNow_bixWrite (lane : Nat) (v : BitVec 16) (i : Nat) :
    (x.bixWrite c lane v).bixNow i = if i = lane then v else x.bixNow i := by
  split
  · next h => rw [h]; exact Tab.get_set_self _ _ _ _
  · next h => exact Tab.get_set_ne _ _ _ _ _ h

theorem Group.setFlags_keep {β : Type} (v : Group → β) (h : ∀ x m s, v { x with main := m, shadow := s } = v x)
    (f : BitVec 5) : v (x.setFlags f) = v x := Group.modRegs_keep _ _ v (h x)

@[simp] theorem Group.regs_setFlags (f : BitVec 5) :
    (x.setFlags f).regs = { x.regs with flags := x.regs.flags ||| f } := Group.regs_modRegs _ _

end

end Sys2Proof.Machine

/-! ## What an issued instruction does (R207 to R211, R217, R218) -/

namespace Sys2Proof.Machine
open Sys2Proof

/-! ### The sequencer after an instruction, as a change of its group -/

/-- The part of an instruction's end that every instruction has: each address register that the word names is post-modified. -/
def Group.goOn (x : Group) (k : Ctx) : Group :=
  { x.modRegs fun s => s.modifyAll (modified k.w) with
    st := .run
    last := some k.c
    gap := 0
    took := if busesOf k.w = 0#3 then x.took else some (k.c, busesOf k.w)
    handler := x.handler.map fun h => { h with issued := h.issued + 1 } }

/-- Where the sequencer goes from there; `prev` is the issue cycle before this one. The end of a handler is Chip.endHandler. -/
def Group.flow (x : Group) (k : Ctx) (prev : Option Nat) : Flow → Group
  | .next => if 1 < x.rep then { x with rep := x.rep - 1 } else { x with rep := 0 }.advance
  | .jump a => x.branch a
  | .loop last n =>
    { x.modRegs fun s => { s with lc := n, loop := some { first := x.pc + 1, last := last } } with pc := x.pc + 1 }
  | .rep n => { x with rep := n, pc := x.pc + 1 }
  | .stop => { x.stopAfter k.c prev true with pc := x.pc + 1 }
  | .ret => x

/-- The group after an instruction. -/
def Group.after (k : Ctx) (fl : Flow) (x : Group) : Group := (x.goOn k).flow k x.last fl

section
variable {β : Type} (x : Group) (k : Ctx) (prev : Option Nat) (fl : Flow)

/-- What does not look at the sequencer's own registers is the same before and after a change of them. -/
def SequencerFree (v : Group → β) : Prop :=
  ∀ (x : Group) main shadow st last gap took handler pc rep stopping stopReq,
    v { x with main, shadow, st, last, gap, took, handler, pc, rep, stopping, stopReq } = v x

theorem Group.goOn_keep {v : Group → β} (h : SequencerFree v) : v (x.goOn k) = v x := by
  unfold Group.goOn
  rw [Group.modRegs_eq]
  exact h x ..

/-- The next word, or the first of a loop body. -/
def Group.nextPc (x : Group) : Nat :=
  match x.regs.loop with
  | some l => if x.pc = l.last ∧ x.regs.lc ≠ 0#16 then l.first else x.pc + 1
  | none => x.pc + 1

/-- The loop registers after word `pc`. -/
def RegSet.passed (pc : Nat) (s : RegSet) : RegSet :=
  match s.loop with
  | some l =>
    if pc = l.last then
      if s.lc = 0#16 then { s with loop := none } else { s with lc := s.lc - 1#16, loop := some { l with again := true } }
    else s
  | none => s

theorem Group.modRegs_self {f : RegSet → RegSet} (h : f x.regs = x.regs) : x.modRegs f = x := by
  unfold Group.modRegs
  rw [h]
  unfold Group.setRegs Group.regs
  split <;> rfl

theorem Group.modRegs_congr {f f' : RegSet → RegSet} (h : f x.regs = f' x.regs) : x.modRegs f = x.modRegs f' := by
  unfold Group.modRegs
  rw [h]

theorem Group.advance_eq : x.advance = { x.modRegs (RegSet.passed x.pc) with pc := x.nextPc } := by
  unfold Group.advance Group.nextPc
  cases hl : x.regs.loop with
  | none =>
    rw [Group.modRegs_self x (f := RegSet.passed x.pc) (by simp [RegSet.passed, hl])]
  | some l =>
    by_cases hp : x.pc = l.last
    · by_cases hc : x.regs.lc = 0#16
      · simp only [hp, hc, if_true, ne_eq, not_true, and_false, if_false]
        rw [Group.modRegs_congr x (f' := RegSet.passed l.last) (by simp [RegSet.passed, hl, hc])]
      · simp only [hp, hc, if_true, ne_eq, not_false_eq_true, and_self, if_false]
        rw [Group.modRegs_congr x (f' := RegSet.passed l.last) (by simp [RegSet.passed, hl, hc])]
    · simp only [hp, if_false, false_and]
      rw [Group.modRegs_self x (f := RegSet.passed x.pc) (by simp [RegSet.passed, hl, hp])]

theorem RegSet.passed_keep {v : RegSet → β} (h : ∀ s lc loop, v { s with lc, loop } = v s) (pc : Nat) (s : RegSet) :
    v (s.passed pc) = v s := by
  unfold RegSet.passed
  split
  · split
    · split <;> exact h s ..
    · rfl
  · rfl

theorem Group.flow_keep {v : Group → β} (h : SequencerFree v) : v (x.flow k prev fl) = v x := by
  cases fl with
  | next =>
    simp only [Group.flow]
    split
    · exact h x ..
    · rw [Group.advance_eq, Group.modRegs_eq]; exact h x ..
  | jump a => simp only [Group.flow, Group.branch, Group.modRegs_eq]; exact h x ..
  | loop last n => simp only [Group.flow, Group.modRegs_eq]; exact h x ..
  | rep n => exact h x ..
  | stop => exact h x ..
  | ret => rfl

theorem Group.after_keep {v : Group → β} (h : SequencerFree v) : v (x.after k fl) = v x :=
  (Group.flow_keep _ k _ fl h).trans (Group.goOn_keep x k h)

@[simp] theorem Group.acc_after : (x.after k fl).acc = x.acc := Group.after_keep x k fl fun _ => by intros; rfl
@[simp] theorem Group.outr_after : (x.after k fl).outr = x.outr := Group.after_keep x k fl fun _ => by intros; rfl
@[simp] theorem Group.bix_after : (x.after k fl).bix = x.bix := Group.after_keep x k fl fun _ => by intros; rfl
@[simp] theorem Group.shown_after : (x.after k fl).shown = x.shown := Group.after_keep x k fl fun _ => by intros; rfl
@[simp] theorem Group.stcAt_after : (x.after k fl).stcAt = x.stcAt := Group.after_keep x k fl fun _ => by intros; rfl
@[simp] theorem Group.evMask_after : (x.after k fl).evMask = x.evMask := Group.after_keep x k fl fun _ => by intros; rfl

@[simp] theorem Group.regs_goOn : (x.goOn k).regs = x.regs.modifyAll (modified k.w) := by
  unfold Group.goOn
  rw [Group.modRegs_eq]
  unfold Group.regs
  cases x.handler <;> rfl

/-- Of the registers in use, the loop's alone change with the sequencer's flow. -/
theorem Group.regs_flow_keep {v : RegSet → β} (h : ∀ s lc loop, v { s with lc, loop } = v s) :
    v (x.flow k prev fl).regs = v x.regs := by
  cases fl with
  | next =>
    simp only [Group.flow]
    split
    · rfl
    · rw [Group.advance_eq]
      exact (congrArg v (Group.regs_modRegs _ _)).trans (RegSet.passed_keep h _ _)
  | jump a => exact (congrArg v (Group.regs_modRegs _ _)).trans (h _ _ _)
  | loop last n => exact (congrArg v (Group.regs_modRegs _ _)).trans (h _ _ _)
  | rep n => rfl
  | stop => rfl
  | ret => rfl

theorem Group.regs_after_keep {v : RegSet → β} (h : ∀ s lc loop, v { s with lc, loop } = v s) :
    v (x.after k fl).regs = v (x.regs.modifyAll (modified k.w)) :=
  (Group.regs_flow_keep _ k _ fl h).trans (congrArg v (Group.regs_goOn x k))

@[simp] theorem Group.flags_after : (x.after k fl).regs.flags = x.regs.flags :=
  (Group.regs_after_keep x k fl (v := (·.flags)) fun _ _ _ => rfl).trans
    (RegSet.modifyAll_keep _ _ (·.flags) fun _ _ => rfl)

@[simp] theorem Group.m_after : (x.after k fl).regs.m = x.regs.m :=
  (Group.regs_after_keep x k fl (v := (·.m)) fun _ _ _ => rfl).trans (RegSet.modifyAll_keep _ _ (·.m) fun _ _ => rfl)

/-- An instruction that names no address register for post-modification leaves them. -/
theorem Group.a_after (h : modified k.w = []) : (x.after k fl).regs.a = x.regs.a := by
  rw [Group.regs_after_keep x k fl (v := (·.a)) fun _ _ _ => rfl, h, RegSet.modifyAll_nil]

theorem Group.addr_after (h : modified k.w = []) (i : Nat) : (x.after k fl).regs.addr i = x.regs.addr i := by
  unfold RegSet.addr
  rw [Group.a_after x k fl h]

@[simp] theorem Group.st_after : (x.after k fl).st = .run := by
  have hg : (x.goOn k).st = .run := rfl
  cases fl with
  | next =>
    simp only [Group.after, Group.flow]
    split
    · exact hg
    · rw [Group.advance_eq, Group.modRegs_eq]; exact hg
  | jump a => simp only [Group.after, Group.flow, Group.branch, Group.modRegs_eq]; exact hg
  | loop last n => simp only [Group.after, Group.flow, Group.modRegs_eq]; exact hg
  | rep n => rfl
  | stop => rfl
  | ret => rfl

end

/-! ### The end of an instruction -/

section
variable (b : Chip) (k : Ctx) (fl : Flow)

theorem Group.stopReq_goOn (x : Group) : (x.goOn k).stopReq = x.stopReq := by
  unfold Group.goOn
  rw [Group.modRegs_eq]

theorem Group.stopReq_after (x : Group) (h : x.stopReq = false) : (x.after k fl).stopReq = false := by
  have hg := (Group.stopReq_goOn k x).trans h
  cases fl with
  | next =>
    simp only [Group.after, Group.flow]
    split
    · exact hg
    · rw [Group.advance_eq, Group.modRegs_eq]; exact hg
  | jump a => simp only [Group.after, Group.flow, Group.branch, Group.modRegs_eq]; exact hg
  | loop last n => simp only [Group.after, Group.flow, Group.modRegs_eq]; exact hg
  | rep n => exact hg
  | stop => rfl
  | ret => exact hg

/-- Without a stop that waits for the end of a REP, an instruction ends in one change of its group. -/
theorem Chip.follow_eq (hs : (b.group k.g).stopReq = false) (hr : fl ≠ .ret) :
    b.follow k fl = b.modGroup k.g (Group.after k fl) := by
  have key : ∀ F : Group → Group, F ((b.group k.g).goOn k) = (b.group k.g).after k fl →
      (b.modGroup k.g (Group.goOn · k)).modGroup k.g F = b.modGroup k.g (Group.after k fl) := fun F h =>
    (Chip.modGroup_modGroup b k.g _ F).trans (Chip.modGroup_congr b k.g h)
  have ends : ∀ c, c = b.modGroup k.g (Group.after k fl) →
      (if (c.group k.g).stopReq && (c.group k.g).rep == 0 then
        c.modGroup k.g fun x => x.stopAfter k.c x.last false else c) = b.modGroup k.g (Group.after k fl) := by
    rintro c rfl
    rw [Chip.group_modGroup, Group.stopReq_after k fl _ hs, Bool.false_and, if_neg Bool.false_ne_true]
  cases fl with
  | next => exact ends _ (key (fun x => x.flow k none .next) rfl)
  | jump a => exact ends _ (key (fun x => x.branch a) rfl)
  | loop last n => exact ends _ (key (fun x => x.flow k none (.loop last n)) rfl)
  | rep n => exact ends _ (key (fun x => x.flow k none (.rep n)) rfl)
  | stop => exact ends _ (key (fun x => x.flow k (b.group k.g).last .stop) rfl)
  | ret => exact absurd rfl hr

end

end Sys2Proof.Machine

namespace Sys2Proof.Machine
open Sys2Proof

/-! ### Words without wrong bits (R230) -/

section
variable {b : Chip} {g : Grp} {space : Nat}

theorem Chip.gmMeet_clean {i : Nat} (h : (b.gmErr g space i).1 = 0) (lane : Nat) :
    b.gmMeet g space i lane = (b, false, false) := by
  unfold Chip.gmMeet
  split
  · rfl
  · next hn => rw [hn] at h; cases h
  · next n inj h0 _ hn =>
    rw [hn] at h
    exact absurd h h0

theorem Chip.gmMeetAll_clean {l : List (Nat × Nat)} (h : ∀ i ∈ l, (b.gmErr g space i.1).1 = 0) :
    b.gmMeetAll g space l = (b, false, false) := by
  unfold Chip.gmMeetAll
  induction l with
  | nil => rfl
  | cons i l ih =>
    simp only [List.foldl_cons, Chip.gmMeet_clean (h i List.mem_cons_self), Bool.or_self]
    exact ih fun j hj => h j (List.mem_cons_of_mem _ hj)

theorem Chip.fetchMeet_clean (h : (b.gmErr g 0 (b.group g).pc).1 = 0) : b.fetchMeet g = (b, false) := by
  simp only [Chip.fetchMeet, Chip.gmMeet_clean h, ite_self]

end

/-! ### Issue -/

section
variable {s : State} {g : Grp} {x : Issue} {op : Nat}

theorem issues_op (h : s.Issues g x op = true) : wOp (s.issueCtx g x).w = op := by
  simp only [State.Issues, Bool.and_eq_true, beq_iff_eq] at h
  exact h.1.1.1.2

theorem issues_legal (h : s.Issues g x op = true) : (s.atIssue g x).illegal g (s.issueCtx g x).w = none := by
  simp only [State.Issues, Bool.and_eq_true, Option.isNone_iff_eq_none] at h
  exact h.1.2

theorem issues_mayIssue (h : s.Issues g x op = true) : s.mayIssue g x = true := by
  simp only [State.Issues, Bool.and_eq_true] at h
  exact h.1.1.1.1.1.1.1

/-- What issues takes effect, and the sequencer goes on. -/
theorem issue_eq_of_issues (h : s.Issues g x op = true) {f : Chip → Ctx → Eff} {c : Chip} {fl : Flow}
    (hf : f (s.atIssue g x) (s.issueCtx g x) = .ok (c, fl)) :
    s.toChip.issue g x op f = c.follow (s.issueCtx g x) fl := by
  simp only [State.Issues, Bool.and_eq_true, decide_eq_true_eq, beq_iff_eq, Bool.not_eq_true', Option.isNone_iff_eq_none,
    List.all_eq_true] at h
  obtain ⟨⟨⟨⟨⟨⟨⟨hmay, hpc⟩, hclean⟩, harmed⟩, hop⟩, hwait⟩, hlegal⟩, hreads⟩ := h
  have hat : s.toChip.issue g x op f = (s.atIssue g x).issueAt g x op (s.issueCycle g x) f := if_pos hmay
  have hat' : (s.atIssue g x).isArmed 0x2D40 1 (groupKey g.r g.b) = false := harmed
  rw [hat, Chip.issueAt, if_neg (by omega), Chip.fetchMeet_clean hclean]
  have hw : (s.atIssue g x).imWord g ((s.atIssue g x).group g).pc = (s.issueCtx g x).w := rfl
  simp only [hw, Bool.false_eq_true, if_false, hop, ne_eq, not_true, false_and, hwait, harmed, hlegal,
    Chip.gmMeetAll_clean hreads]
  have hk : ({ g, w := (s.issueCtx g x).w, c := s.issueCycle g x, x } : Ctx) = s.issueCtx g x := rfl
  rw [hk, hf]

variable {i : Instr} {f : Chip → Ctx → Eff} {c : Chip} {fl : Flow}

/-- The command of an instruction that issues, and does not end a handler. -/
theorem exec_of_issues (h : s.Issues g x op = true) (he : exec i s = act s fun b => b.issue g x op f)
    (hf : f (s.atIssue g x) (s.issueCtx g x) = .ok (c, fl)) (hs : (c.group g).stopReq = false) (hr : fl ≠ .ret) :
    exec i s = .next (s.on (c.modGroup g (Group.after (s.issueCtx g x) fl))) := by
  rw [he]
  exact congrArg (fun d => Host.Outcome.next (s.on d))
    ((issue_eq_of_issues h hf).trans (Chip.follow_eq c (s.issueCtx g x) fl hs hr))

end

/-- A legal word has a defined opcode and legal operands, and a control instruction but NOP stands in no repetition. -/
theorem Chip.illegal_eq_none {b : Chip} {g : Grp} {w : BitVec 64} (h : b.illegal g w = none) :
    operandsLegal (b.group g).regs w = true ∧ (isControl (wOp w) = true → wOp w ≠ 0 → (b.group g).rep = 0) := by
  simp only [Chip.illegal] at h
  split at h
  · cases h
  · next h1 =>
    simp only [Bool.or_eq_true, Bool.not_eq_true', not_or, Bool.not_eq_false] at h1
    split at h
    · cases h
    · next h2 =>
      refine ⟨h1.2, fun hc h0 => ?_⟩
      by_contra hn
      exact h2 (by simp [hc, h0, hn])

end Sys2Proof.Machine

/-! ## The integer instructions (R210, R212) -/

namespace Sys2Proof.Machine
open Sys2Proof

/-! ### Enabled lanes write an accumulator -/

/-- Lanes of a list write accumulator n in cycle c, each with its value and flags. -/
def Group.writeLanes (c n : Nat) (v : Nat → BitVec 80 × BitVec 5) (lanes : List Nat) (x : Group) : Group :=
  lanes.foldl (fun x l => (x.accWrite c l n (v l).1).setFlags (v l).2) x

/-- What does not look at the accumulators, their pipeline and the register sets. -/
def LanesFree {β : Type} (v : Group → β) : Prop :=
  ∀ (x : Group) acc pipe main shadow, v { x with acc, pipe, main, shadow } = v x

section
variable (c n : Nat) (v : Nat → BitVec 80 × BitVec 5) (lanes : List Nat) (x : Group)

theorem Group.writeLanes_keep {β : Type} {w : Group → β} (h : LanesFree w) : w (x.writeLanes c n v lanes) = w x :=
  foldl_keep w _ (fun x _ => (Group.setFlags_keep _ w (fun y => h y y.acc y.pipe) _).trans
    (h x _ _ x.main x.shadow)) lanes x

theorem Group.accNow_setFlags (f : BitVec 5) (i m : Nat) : (x.setFlags f).accNow i m = x.accNow i m :=
  Group.setFlags_keep x (fun y => y.accNow i m) (fun _ _ _ => rfl) f

theorem Group.accNow_writeLanes (hn : n < 16) {i m : Nat} (hm : m < 16) :
    (x.writeLanes c n v lanes).accNow i m = if m = n ∧ i ∈ lanes then (v i).1 else x.accNow i m := by
  unfold Group.writeLanes
  induction lanes generalizing x with
  | nil => simp
  | cons l lanes ih =>
    rw [List.foldl_cons, ih, Group.accNow_setFlags, Group.accNow_accWrite _ _ _ _ _ hm hn]
    by_cases hl : i = l
    · subst hl
      by_cases hmn : m = n <;> simp [hmn]
    · simp [hl]

theorem Group.regs_accWrite (l : Nat) (a : BitVec 80) : (x.accWrite c l n a).regs = x.regs := rfl

theorem Group.regs_writeLanes :
    (x.writeLanes c n v lanes).regs =
      { x.regs with flags := lanes.foldl (fun f l => f ||| (v l).2) x.regs.flags } := by
  unfold Group.writeLanes
  induction lanes generalizing x with
  | nil => rfl
  | cons l lanes ih => rw [List.foldl_cons, ih, Group.regs_setFlags, Group.regs_accWrite, List.foldl_cons]

end

theorem wAccD_lt (w : BitVec 64) : wAccD w < 8 := Nat.mod_lt _ (by decide)

theorem mem_enabled {w : BitVec 64} {l : Nat} : l ∈ enabled w ↔ l < 8 ∧ wLane w l = true := by simp [enabled]

/-! ### Instructions that write ACCd and flags -/

section
variable {s : State} {g : Grp} {x : Issue} {op : Nat} {i : Instr} {f : Chip → Ctx → Eff}

/-- The instruction issues, and no stop waits for the end of a REP. -/
def IssuesFreely (s : State) (g : Grp) (x : Issue) (op : Nat) : Prop :=
  s.Issues g x op = true ∧ ((s.atIssue g x).group g).stopReq = false

/-- From the issue cycle to t, each enabled lane has written ACCd with the first part of v and joined the second to the flags. -/
def WritesLanes (s t : State) (g : Grp) (x : Issue) (v : Nat → BitVec 80 × BitVec 5) : Prop :=
  (∀ l n, l < 8 → n < 8 → (t.group g).accNow l n =
    if n = wAccD (s.issueCtx g x).w ∧ wLane (s.issueCtx g x).w l = true then (v l).1
    else ((s.atIssue g x).group g).accNow l n) ∧
  (t.group g).regs.flags = (enabled (s.issueCtx g x).w).foldl (fun f l => f ||| (v l).2)
    ((s.atIssue g x).group g).regs.flags ∧
  (t.group g).bix = ((s.atIssue g x).group g).bix ∧ (t.group g).outr = ((s.atIssue g x).group g).outr ∧
  (∀ j, j ≠ groupKey g.r g.b → Tab.get {} t.slices.groups j = Tab.get {} (s.atIssue g x).slices.groups j) ∧
  SlicesKept (s.atIssue g x) t.toChip ∧ OnlyTouches [.slices] (s.on (s.atIssue g x)) t

/-- An accumulator after the lanes have written and the sequencer has gone on. -/
theorem Group.accNow_after_writeLanes (y : Group) (k : Ctx) (fl : Flow) (v : Nat → BitVec 80 × BitVec 5) {l n : Nat}
    (hl : l < 8) (hn : n < 8) :
    ((y.writeLanes k.c (wAccD k.w) v (enabled k.w)).after k fl).accNow l n =
      if n = wAccD k.w ∧ wLane k.w l = true then (v l).1 else y.accNow l n := by
  have hd := wAccD_lt k.w
  rw [Group.after_keep _ k fl (v := (·.accNow l n)) fun _ => by intros; rfl,
    Group.accNow_writeLanes k.c (wAccD k.w) v _ y (by omega) (by omega)]
  simp only [mem_enabled, hl, true_and]

theorem Group.flags_after_writeLanes (y : Group) (k : Ctx) (fl : Flow) (v : Nat → BitVec 80 × BitVec 5) :
    ((y.writeLanes k.c (wAccD k.w) v (enabled k.w)).after k fl).regs.flags =
      (enabled k.w).foldl (fun f l => f ||| (v l).2) y.regs.flags := by
  rw [Group.flags_after, Group.regs_writeLanes]

/-- The device and the group in the issue cycle, and what the instruction makes of them. -/
theorem writesLanes_of_accEff (h : IssuesFreely s g x op) (he : exec i s = act s fun b => b.issue g x op f)
    {v : Nat → BitVec 80 × BitVec 5} (hf : f (s.atIssue g x) (s.issueCtx g x) = accEff (s.atIssue g x) (s.issueCtx g x) v) :
    ∃ t, exec i s = .next t ∧ WritesLanes s t g x v := by
  let k := s.issueCtx g x
  let c := (s.atIssue g x).modGroup g (Group.writeLanes k.c (wAccD k.w) v (enabled k.w))
  have hc : c.group g = ((s.atIssue g x).group g).writeLanes k.c (wAccD k.w) v (enabled k.w) :=
    Chip.group_modGroup _ _ _
  have hs : (c.group g).stopReq = false := by
    rw [hc, Group.writeLanes_keep _ _ _ _ _ (w := (·.stopReq)) fun _ _ _ _ _ => rfl]
    exact h.2
  have hAlter : AltersGroup [.slices] g (s.atIssue g x) (c.modGroup g (Group.after k .next)) :=
    (AltersGroup.modGroup (by decide) _ _).trans (.modGroup (by decide) _ _)
  have hg : (c.modGroup g (Group.after k .next)).group g =
      (((s.atIssue g x).group g).writeLanes k.c (wAccD k.w) v (enabled k.w)).after k .next := by
    rw [Chip.group_modGroup, hc]
  refine ⟨_, exec_of_issues h.1 he (hf.trans rfl) hs Flow.noConfusion, fun l n hl hn => ?_, ?_, ?_, ?_, hAlter.1, hAlter.2.1,
    AltersGroup.onlyTouches (s := s.on (s.atIssue g x)) hAlter⟩
  · exact (congrArg (·.accNow l n) hg).trans (Group.accNow_after_writeLanes _ k _ v hl hn)
  · exact (congrArg (·.regs.flags) hg).trans (Group.flags_after_writeLanes _ k _ v)
  · refine (congrArg (·.bix) hg).trans ?_
    rw [Group.bix_after, Group.writeLanes_keep _ _ _ _ _ (w := (·.bix)) fun _ _ _ _ _ => rfl]
  · refine (congrArg (·.outr) hg).trans ?_
    rw [Group.outr_after, Group.writeLanes_keep _ _ _ _ _ (w := (·.outr)) fun _ _ _ _ _ => rfl]

end

/-! ### Narrowing (R212) -/

theorem narrow_of_fits (sat : Bool) {v : Int} (h : -(2 ^ 79) ≤ v) (h' : v ≤ 2 ^ 79 - 1) :
    narrow sat v = (BitVec.ofInt 80 v, 0#5) := if_pos ⟨h, h'⟩

theorem abs_extInt_le (u : Bool) (v : BitVec 32) : |extInt u v| ≤ 2 ^ 32 - 1 := by
  have h := v.isLt
  have h1 := v.toInt_lt
  have h2 := v.le_toInt
  unfold extInt
  rw [abs_le]
  split <;> omega

theorem narrow_product (u u' : Bool) (p q : BitVec 32) :
    narrow false (extInt u p * extInt u' q) = (BitVec.ofInt 80 (extInt u p * extInt u' q), 0#5) := by
  have h : |extInt u p * extInt u' q| ≤ (2 ^ 32 - 1) * (2 ^ 32 - 1) := by
    rw [abs_mul]
    exact mul_le_mul (abs_extInt_le u p) (abs_extInt_le u' q) (abs_nonneg _) (by norm_num)
  obtain ⟨h1, h2⟩ := abs_le.mp h
  exact narrow_of_fits false (by omega) (by omega)

/-- A shift to the left by at most 47 keeps an operand of 33 bits in 80. -/
theorem narrow_shiftLeft (u : Bool) (p : BitVec 32) {n : Nat} (hn : n ≤ 47) :
    narrow false (extInt u p * 2 ^ n) = (BitVec.ofInt 80 (extInt u p * 2 ^ n), 0#5) := by
  have h : |extInt u p * 2 ^ n| ≤ (2 ^ 32 - 1) * 2 ^ 47 := by
    rw [abs_mul, abs_pow, abs_two]
    exact mul_le_mul (abs_extInt_le u p) (pow_le_pow_right₀ (by norm_num) hn) (by positivity) (by norm_num)
  obtain ⟨h1, h2⟩ := abs_le.mp h
  exact narrow_of_fits false (by omega) (by omega)

theorem narrow_shiftRight (v : BitVec 80) (n : Nat) :
    narrow false (v.toInt / 2 ^ n) = (BitVec.ofInt 80 (v.toInt / 2 ^ n), 0#5) := by
  have h1 := v.toInt_lt
  have h2 := v.le_toInt
  have hp : (1 : Int) ≤ 2 ^ n := one_le_pow₀ (by norm_num)
  simp only [Nat.reduceSub] at h1 h2
  refine narrow_of_fits false ?_ ?_
  · rw [Int.le_ediv_iff_mul_le (by omega)]
    nlinarith
  · have : v.toInt / 2 ^ n < 2 ^ 79 := by
      rw [Int.ediv_lt_iff_lt_mul (by omega)]
      nlinarith
    omega

theorem ofInt_min (a d : BitVec 80) : BitVec.ofInt 80 (min a.toInt d.toInt) = if a.toInt < d.toInt then a else d := by
  split
  · next h => rw [min_eq_left h.le, BitVec.ofInt_toInt]
  · next h => rw [min_eq_right (not_lt.mp h), BitVec.ofInt_toInt]

theorem ofInt_max (a d : BitVec 80) : BitVec.ofInt 80 (max a.toInt d.toInt) = if d.toInt < a.toInt then a else d := by
  split
  · next h => rw [max_eq_left h.le, BitVec.ofInt_toInt]
  · next h => rw [max_eq_right (not_lt.mp h), BitVec.ofInt_toInt]

/-! ### What the rows name -/

section
variable {b : Chip} {k : Ctx}

/-- A legal LDA shifts by at most 47 places. -/
theorem lda_shift_le (h : b.illegal k.g k.w = none) (ho : wOp k.w = 0x17) : wImm k.w % 64 ≤ 47 := by
  have hl := (Chip.illegal_eq_none h).1
  simp only [operandsLegal, ho, Bool.and_eq_true, Bool.or_eq_true, bne_self_eq_false, Bool.false_or, decide_eq_true_eq] at hl
  simpa [field] using hl.1.1.1.1.2

/-- ACCa as an instruction in its issue cycle reads it. -/
theorem Chip.accA_issueCtx (s : State) (g : Grp) (x : Issue) (l : Nat) : (s.atIssue g x).accA (s.issueCtx g x) l =
    ((s.atIssue g x).group g).accRead (s.issueCycle g x) l (wAccA (s.issueCtx g x).w) := by
  simp only [Chip.accA, State.issueCtx]

theorem mulEff_eq : mulEff b k = accEff b k fun l => (BitVec.ofInt 80 (b.product k l), 0#5) :=
  congrArg (accEff b k) (funext fun _ => narrow_product _ _ _ _)

theorem ldaEff_eq (h : b.illegal k.g k.w = none) (ho : wOp k.w = 0x17) :
    ldaEff b k = accEff b k fun l => (BitVec.ofInt 80 (b.extP k l * 2 ^ (wImm k.w % 64)), 0#5) := by
  refine congrArg (accEff b k) (funext fun l => ?_)
  rw [field, pow_zero, Nat.div_one]
  exact narrow_shiftLeft _ _ (lda_shift_le h ho)

theorem shaEff_eq : shaEff b k = accEff b k fun l =>
    let n := (BitVec.ofNat 8 (wImm k.w)).toInt
    if 0 ≤ n then narrow false ((b.accA k l).toInt * 2 ^ n.toNat)
    else (BitVec.ofInt 80 ((b.accA k l).toInt / 2 ^ n.natAbs), 0#5) := by
  refine congrArg (accEff b k) (funext fun l => ?_)
  have hn : signed 8 (field (wImm k.w) 0 8) = (BitVec.ofNat 8 (wImm k.w)).toInt := by
    rw [signed, field, pow_zero, Nat.div_one]
    exact congrArg BitVec.toInt (BitVec.eq_of_toNat_eq (by simp))
  rw [hn, shift80, narrow_shiftRight]

theorem minaEff_eq :
    minaEff b k = accEff b k fun l => (BitVec.ofInt 80 (min (b.accA k l).toInt (b.accD k l).toInt), 0#5) :=
  congrArg (accEff b k) (funext fun _ => by rw [ofInt_min])

theorem maxaEff_eq :
    maxaEff b k = accEff b k fun l => (BitVec.ofInt 80 (max (b.accA k l).toInt (b.accD k l).toInt), 0#5) :=
  congrArg (accEff b k) (funext fun _ => by rw [ofInt_max])

end

/-- Settles O26: every row is a write of the enabled lanes; what is left for each is that its value fits in 80 bits where
the row names it without narrowing. -/
theorem integerInstructionsWriteAccumulators : Obligations.IntegerInstructionsWriteAccumulators := by
  unfold Obligations.IntegerInstructionsWriteAccumulators
  intro p q prod accD accA sat writes issues
  have hA : accA = fun s g x l => (s.atIssue g x).accA (s.issueCtx g x) l := by
    funext s g x l
    exact (Chip.accA_issueCtx s g x l).symm
  rw [hA]
  have lanes : ∀ {s g x op i f v}, IssuesFreely s g x op → exec i s = act s (fun b => b.issue g x op f) →
      f (s.atIssue g x) (s.issueCtx g x) = accEff (s.atIssue g x) (s.issueCtx g x) v →
      ∃ t, exec i s = .next t ∧ writes s t g x v :=
    fun h he hf => writesLanes_of_accEff h he hf
  refine ⟨fun s g x h => ?mac, fun s g x h => ?msu, fun s g x h => ?mul, fun s g x h => ?add, fun s g x h => ?sub,
    fun s g x h => ?absd, fun s g x h => ?mova, fun s g x h => ?lda, fun s g x h => ?sha, fun s g x h => ?mina,
    fun s g x h => ?maxa⟩
  case mac => exact lanes h rfl rfl
  case msu => exact lanes h rfl rfl
  case mul => exact lanes h rfl mulEff_eq
  case add => exact lanes h rfl rfl
  case sub => exact lanes h rfl rfl
  case absd => exact lanes h rfl rfl
  case mova => exact lanes h rfl rfl
  case lda => exact lanes h rfl (ldaEff_eq (issues_legal h.1) (issues_op h.1))
  case sha => exact lanes h rfl shaEff_eq
  case mina => exact lanes h rfl minaEff_eq
  case maxa => exact lanes h rfl maxaEff_eq

end Sys2Proof.Machine

/-! ## The control instructions (R209, R217, R218, R220, R224) -/

namespace Sys2Proof.Machine
open Sys2Proof

/-! ### What the accesses of a group memory leave of its record -/

/-- A property of a group that a sequencer fault and the accesses of the fabric and of a prefetch keep. -/
structure AccessKeeps (P : Group → Prop) : Prop where
  fault : ∀ y : Group, P y → P { y.registers with st := .fault }
  access : ∀ (y : Group) fetchAt cmHeld cmTaken cmOut cmPipe, P y → P { y with fetchAt, cmHeld, cmTaken, cmOut, cmPipe }

section
variable {P : Group → Prop} {b : Chip} {g : Grp}

theorem Chip.group_congr {c : Chip} (h : c.slices.groups = b.slices.groups) (g : Grp) : c.group g = b.group g :=
  congrArg (fun t : Tab Group => Tab.get ({} : Group) t (groupKey g.r g.b)) h

theorem Chip.group_asOf (b : Chip) (t : Nat) (f : Chip → Chip) (g : Grp) :
    (b.asOf t f).group g = (f { b with belfry := { b.belfry with tick := t } }).group g := rfl

@[simp] theorem Chip.applyAt_slices (b : Chip) (obj target ev : Nat) : (b.applyAt obj target ev).slices = b.slices := by
  unfold Chip.applyAt
  split
  · exact Chip.injected_slices _ _
  · rfl

theorem Chip.group_seqFault (hP : AccessKeeps P) (code lane space i : Nat) (inj : Bool) (h : P (b.group g)) :
    P ((b.seqFault g code lane space i inj).group g) := by
  unfold Chip.seqFault
  split
  · exact h
  · rw [Chip.group_congr (congrArg Slices.groups (Chip.blockSafe_slices _ _ _ _)),
      Chip.group_congr (congrArg Slices.groups (Chip.setReg_slices _ _ _ _)), Chip.group_modGroup]
    exact hP.fault _ h

theorem Chip.groups_gmCorrection (space i lane : Nat) (inj : Bool) :
    (b.gmCorrection g space i lane inj).slices.groups = b.slices.groups := by
  simp only [Chip.gmCorrection]
  split <;> split <;> simp

theorem Chip.group_gmHard (hP : AccessKeeps P) (space i lane : Nat) (inj : Bool) (h : P (b.group g)) :
    P ((b.gmHard g space i lane inj).group g) := by
  have key : ∀ c : Chip, P (c.group g) → ∀ code, P ((if inj then c.applyAt 0x2D40 (gmKey g space i) code else c).group g) :=
    fun c hc code => by
      split
      · rwa [Chip.group_congr (congrArg Slices.groups (Chip.applyAt_slices _ _ _ _))]
      · exact hc
  unfold Chip.gmHard
  refine key _ ?_ _
  split
  · exact Chip.group_seqFault hP _ _ _ _ _ h
  · rwa [Chip.group_congr (congrArg Slices.groups (Chip.logEvent_slices _ _))]

theorem Chip.group_gmMeet (hP : AccessKeeps P) (space i lane : Nat) (h : P (b.group g)) :
    P ((b.gmMeet g space i lane).1.group g) := by
  unfold Chip.gmMeet
  split
  · exact h
  · rwa [Chip.group_congr (Chip.groups_gmCorrection _ _ _ _)]
  · exact Chip.group_gmHard hP _ _ _ _ h

theorem Chip.group_gmMeetAll (hP : AccessKeeps P) (space : Nat) (l : List (Nat × Nat)) (h : P (b.group g)) :
    P ((b.gmMeetAll g space l).1.group g) := by
  unfold Chip.gmMeetAll
  refine List.foldlRecOn l _ (motive := fun x : Chip × Bool × Bool => P (x.1.group g)) h fun x hx i _ => ?_
  exact Chip.group_gmMeet hP _ _ _ hx

theorem Chip.group_prefetch (hP : AccessKeeps P) (h : P (b.group g)) : P ((b.prefetch g).group g) :=
  List.foldlRecOn _ _ (motive := fun c : Chip => P (c.group g)) h fun _ hc _ _ => Chip.group_gmMeetAll hP _ _ hc

theorem Chip.gmClean_groups (space i : Nat) (u : MemUnit) : (b.gmClean g space i u).slices.groups = b.slices.groups := by
  unfold Chip.gmClean
  rw [Chip.noteWritten_eq]
  rfl

/-- The record of a group after a store into its coefficient memory. -/
theorem Chip.group_cmStore (i c : Nat) (v : BitVec 32) : (b.cmStore g i c v).group g =
    { b.group g with
      cmPipe := ((b.group g).cmPipe.filter fun y => decide (c < y.1 + 8)) ++ [(c, i, b.cmWord g i)] } := by
  have h : (b.cmStore g i c v).group g = ((b.gmClean g 1 i (cmUnit g)).modGroup g fun x =>
    { x with cmPipe := (x.cmPipe.filter fun y => decide (c < y.1 + 8)) ++ [(c, i, b.cmWord g i)] }).group g := rfl
  rw [h, Chip.group_modGroup, Chip.group_congr (Chip.gmClean_groups _ _ _)]

theorem Chip.group_cmTake (hP : AccessKeeps P) (a : CmAccess) (c : Nat) (h : P (b.group g)) :
    P ((b.cmTake g a c).group g) := by
  have h1 : P ((b.modGroup g fun x => { x with cmHeld := none, cmTaken := some c }).group g) := by
    rw [Chip.group_modGroup]
    exact hP.access (b.group g) _ _ _ _ _ h
  unfold Chip.cmTake
  split
  · refine List.foldlRecOn _ _ (motive := fun d : Chip => P (d.group g)) h1 fun d hd e _ => ?_
    rw [Chip.group_cmStore]
    exact hP.access (d.group g) _ _ _ _ _ hd
  · have h2 := Chip.group_gmMeetAll hP 1 ((rowElements a.row).map fun i => (i, 0xFF)) h1
    dsimp only
    generalize (b.modGroup g fun x => { x with cmHeld := none, cmTaken := some c }).gmMeetAll g 1 _ = y at h2 ⊢
    obtain ⟨d, cor, err⟩ := y
    refine (congrArg P (Chip.group_modGroup d g _)).mpr ?_
    exact hP.access (d.group g) _ _ _ _ _ h2

theorem Chip.group_cmSettle (hP : AccessKeeps P) (c : Nat) (h : P (b.group g)) : P ((b.cmSettle g c).group g) := by
  unfold Chip.cmSettle
  split
  · exact h
  · split
    · rw [Chip.group_asOf]
      exact Chip.group_cmTake (b := { b with belfry := _ }) hP _ _ h
    · rw [Chip.group_modGroup]
      exact hP.access (b.group g) _ _ _ _ _ h

theorem Chip.group_settleGroup (hP : AccessKeeps P) (hs : ∀ y c, P y → P (y.settle c)) (h : P (b.group g)) :
    P ((b.settleGroup g).group g) := by
  have h1 : ∀ t, P (((b.modGroup g fun x => { x with fetchAt := none }).asOf t fun b => b.prefetch g).group g) := fun t => by
    rw [Chip.group_asOf]
    refine Chip.group_prefetch hP ?_
    refine (congrArg P (Chip.group_modGroup b g _)).mpr ?_
    exact hP.access (b.group g) _ _ _ _ _ h
  unfold Chip.settleGroup
  rw [Chip.group_modGroup]
  refine hs _ _ (Chip.group_cmSettle hP _ ?_)
  split
  · exact h1 _
  · exact h

/-- With no fetch and no access that waits, a group settles by its own cycle alone. -/
theorem Chip.settleGroup_idle (hf : (b.group g).fetchAt = none) (hh : (b.group g).cmHeld = none) :
    b.settleGroup g = b.modGroup g fun x => x.settle (b.groupCycle g) := by
  unfold Chip.settleGroup Chip.cmSettle
  simp only [hf, hh]

end

/-! ### The way to the issue cycle -/

section
variable {β : Type} {v : Group → β} (x : Group)

/-- What does not look at what the entry of an event changes. -/
def EntryFree (v : Group → β) : Prop :=
  ∀ (x : Group) st pc last gap handler saved pending evStart,
    v { x with st, pc, last, gap, handler, saved, pending, evStart } = v x

theorem Group.takeEvent_keep (h : EntryFree v) (c : Nat) : v (x.takeEvent c) = v x := by
  unfold Group.takeEvent
  split
  · split
    · exact h x ..
    · rfl
  · rfl

theorem Group.nextIssue_keep (h : EntryFree v) (now : Nat) : v (x.nextIssue now).1 = v x := by
  have key : ∀ (p : Bool) (a m d : Nat), v (if p then (x.takeEvent a, m) else (x, d)).1 = v x := fun p a m d => by
    cases p
    · rfl
    · exact Group.takeEvent_keep x h a
  exact key _ _ _ _

theorem Group.settle_of_going {x : Group} (h : x.stopping = none) (c : Nat) : x.settle c = x := by
  unfold Group.settle
  rw [h]

theorem Group.settle_keep (h : ∀ (x : Group) st pending evStart handler rep stopReq stopping gap done,
    v { x with st, pending, evStart, handler, rep, stopReq, stopping, gap, done } = v x) (c : Nat) : v (x.settle c) = v x := by
  unfold Group.settle
  split
  · split
    · exact h x ..
    · rfl
  · rfl

end

section
variable {s : State} {b : Chip} {g : Grp} {x : Issue}

theorem accessKeeps_going : AccessKeeps fun y => y.stopping = none := ⟨fun _ _ => rfl, fun _ _ _ _ _ _ h => h⟩

theorem Chip.going_settleGroup (h : (b.group g).stopping = none) : ((b.settleGroup g).group g).stopping = none :=
  Chip.group_settleGroup accessKeeps_going (fun y c hy => by rwa [Group.settle_of_going hy]) h

/-- No stop has taken effect in a group that issues. -/
theorem going_atIssue (h : s.mayIssue g x = true) : ((s.atIssue g x).group g).stopping = none := by
  simp only [State.mayIssue, Chip.mayIssue, Group.running, Bool.and_eq_true, Option.isNone_iff_eq_none] at h
  obtain ⟨⟨-, -, hgo⟩, -⟩ := h
  refine Chip.going_settleGroup ?_
  rw [Chip.group_congr (congrArg Slices.groups (Chip.upTo_slices _ _)), Chip.group_modGroup,
    Group.nextIssue_keep (v := (·.stopping)) _ fun _ => by intros; rfl]
  exact hgo

/-- On its way to its issue cycle a group for which nothing waits changes alone. -/
theorem Chip.alters_toIssue (hf : (b.group g).fetchAt = none) (hh : (b.group g).cmHeld = none) :
    AltersGroup [.belfry, .slices] g b (b.toIssue g) := by
  let y := b.group g
  have h1 : AltersGroup [.belfry, .slices] g b (b.settleGroup g) := by
    rw [Chip.settleGroup_idle hf hh]
    exact .modGroup (by decide) _ _
  have hy : (b.settleGroup g).group g = y.settle (b.groupCycle g) := by
    rw [Chip.settleGroup_idle hf hh, Chip.group_modGroup]
  let n := ((b.settleGroup g).group g).nextIssue ((b.settleGroup g).groupCycle g)
  let d := ((b.settleGroup g).modGroup g fun _ => n.1).upTo
    ((b.settleGroup g).groupTickIn g (n.2 - (b.settleGroup g).groupCycle g))
  have hd : d.group g = n.1 := Chip.group_modGroup (b.settleGroup g) g _
  have hkeep : ∀ {β : Type} {v : Group → β}, EntryFree v → (∀ (x : Group) st pending evStart handler rep stopReq stopping gap
      done, v { x with st, pending, evStart, handler, rep, stopReq, stopping, gap, done } = v x) → v (d.group g) = v y :=
    fun he hs => by rw [hd, Group.nextIssue_keep _ he, hy, Group.settle_keep _ hs]
  have h2 : AltersGroup [.belfry, .slices] g b d :=
    (h1.trans (.modGroup (by decide) _ _)).trans (.upTo (by decide) _ _)
  have hlast : d.settleGroup g = d.modGroup g fun x => x.settle (d.groupCycle g) :=
    Chip.settleGroup_idle
      ((hkeep (v := (·.fetchAt)) (fun _ => by intros; rfl) fun _ => by intros; rfl).trans hf)
      ((hkeep (v := (·.cmHeld)) (fun _ => by intros; rfl) fun _ => by intros; rfl).trans hh)
  have heq : b.toIssue g = d.settleGroup g := rfl
  rw [heq, hlast]
  exact h2.trans (.modGroup (by decide) _ _)

end

/-! ### Control instructions and the flow -/

/-- A control instruction post-modifies nothing. -/
theorem modified_control {w : BitVec 64} (h : wOp w ≤ 0x0C) : modified w = [] := by
  have key : ∀ op, op ≤ 0x0C → usesP op = false ∧ usesQ op = false ∧ op ≠ 0x31 ∧ op ≠ 0x28 ∧ op ≠ 0x29 ∧ op ≠ 0x2A := by
    decide
  obtain ⟨hp, hq, h1, h2, h3, h4⟩ := key _ h
  simp [modified, hp, hq, h1, h2, h3, h4]

section
variable (x : Group) (k : Ctx)

theorem Group.goOn_control (h : modified k.w = []) : x.goOn k =
    { x with
      st := .run
      last := some k.c
      gap := 0
      took := if busesOf k.w = 0#3 then x.took else some (k.c, busesOf k.w)
      handler := x.handler.map fun h => { h with issued := h.issued + 1 } } := by
  unfold Group.goOn
  rw [h, Group.modRegs_self x (f := fun s => s.modifyAll []) rfl]

theorem Group.nextPc_congr {x y : Group} (hp : x.pc = y.pc) (hl : x.regs.loop = y.regs.loop) (hc : x.regs.lc = y.regs.lc) :
    x.nextPc = y.nextPc := by
  unfold Group.nextPc
  rw [hp, hl, hc]

theorem Group.goOn_seq : (x.goOn k).pc = x.pc ∧ (x.goOn k).rep = x.rep ∧ (x.goOn k).nextPc = x.nextPc := by
  have hp : (x.goOn k).pc = x.pc := by unfold Group.goOn; rw [Group.modRegs_eq]
  refine ⟨hp, by unfold Group.goOn; rw [Group.modRegs_eq], Group.nextPc_congr hp ?_ ?_⟩
  · rw [Group.regs_goOn, RegSet.modifyAll_keep _ _ (·.loop) fun _ _ => rfl]
  · rw [Group.regs_goOn, RegSet.modifyAll_keep _ _ (·.lc) fun _ _ => rfl]

/-- After an instruction that does not steer, a repetition stays at its word, and else the next word follows. -/
def Group.onwardPc (x : Group) : Nat := if 1 < x.rep then x.pc else x.nextPc

theorem Group.pc_after_next : (x.after k .next).pc = x.onwardPc := by
  obtain ⟨hp, hr, hn⟩ := Group.goOn_seq x k
  simp only [Group.after, Group.flow, hr, Group.onwardPc]
  split
  · exact hp
  · rw [Group.advance_eq, ← hn]
    rfl

theorem Group.rep_after_next : (x.after k .next).rep = x.rep - 1 := by
  obtain ⟨-, hr, -⟩ := Group.goOn_seq x k
  simp only [Group.after, Group.flow, hr]
  split
  · rfl
  · rw [Group.advance_eq, Group.modRegs_eq]
    show 0 = x.rep - 1
    omega

theorem Group.gap_after_next : (x.after k .next).gap = 0 := by
  simp only [Group.after, Group.flow]
  split
  · rfl
  · rw [Group.advance_eq, Group.modRegs_eq]
    rfl

end

end Sys2Proof.Machine

namespace Sys2Proof.Machine
open Sys2Proof

/-! ### What every control instruction keeps (O25) -/

/-- From the issue cycle to t, the accumulators, OUTR, the memories, the other groups and the other areas are the same. -/
def KeepsData (s t : State) (g : Grp) (x : Issue) : Prop :=
  (t.group g).acc = ((s.atIssue g x).group g).acc ∧ (t.group g).outr = ((s.atIssue g x).group g).outr ∧
  (∀ j, j ≠ groupKey g.r g.b → Tab.get {} t.slices.groups j = Tab.get {} (s.atIssue g x).slices.groups j) ∧
  SlicesKept (s.atIssue g x) t.toChip ∧ OnlyTouches [.slices] (s.on (s.atIssue g x)) t

/-- The address registers, modifiers, flags and BIX are the same, and the group is in RUN. -/
def KeepsRegs (s t : State) (g : Grp) (x : Issue) : Prop :=
  (∀ i, (t.group g).regs.addr i = ((s.atIssue g x).group g).regs.addr i) ∧
  (t.group g).regs.m = ((s.atIssue g x).group g).regs.m ∧ (t.group g).regs.flags = ((s.atIssue g x).group g).regs.flags ∧
  (t.group g).bix = ((s.atIssue g x).group g).bix ∧ (t.group g).st = .run

/-- The sequencer goes on behind an instruction that does not steer. -/
def GoesOn (s t : State) (g : Grp) (x : Issue) : Prop :=
  KeepsData s t g x ∧ (t.group g).st = .run ∧
  (t.group g).pc = ((s.atIssue g x).group g).onwardPc ∧
  (t.group g).rep = ((s.atIssue g x).group g).rep - 1

/-- An instruction takes its group, from `y` as it made it, along flow `fl`. -/
structure Steers (s t : State) (g : Grp) (x : Issue) (y : Group) (fl : Flow) : Prop where
  group : t.group g = y.after (s.issueCtx g x) fl
  alters : AltersGroup [.slices] g (s.atIssue g x) t.toChip
  pending : t.pending = s.pending

section
variable {s t : State} {g : Grp} {x : Issue} {op : Nat} {i : Instr} {f : Chip → Ctx → Eff} {c : Chip} {fl : Flow} {y : Group}

/-- What an instruction does that changes its group alone, and then lets the sequencer go on. -/
theorem steers_of_issues (h : IssuesFreely s g x op) (he : exec i s = act s fun b => b.issue g x op f)
    (hf : f (s.atIssue g x) (s.issueCtx g x) = .ok (c, fl)) (hr : fl ≠ .ret)
    (hc : AltersGroup [.slices] g (s.atIssue g x) c) (hy : c.group g = y)
    (hq : y.stopReq = ((s.atIssue g x).group g).stopReq) : ∃ t, exec i s = .next t ∧ Steers s t g x y fl := by
  subst hy
  refine ⟨_, exec_of_issues h.1 he hf (hq.trans h.2) hr, ?_, ?_, rfl⟩
  · exact Chip.group_modGroup c g _
  · exact hc.trans (.modGroup (by decide) c _)

theorem AltersGroup.refl {l : List Area} (b : Chip) : AltersGroup l g b b :=
  .of_slices rfl fun a _ => Area.same_refl a b

/-- An instruction that changes nothing itself. -/
theorem steers_of_flow (h : IssuesFreely s g x op) (he : exec i s = act s fun b => b.issue g x op f)
    (hf : f (s.atIssue g x) (s.issueCtx g x) = .ok (s.atIssue g x, fl)) (hr : fl ≠ .ret) :
    ∃ t, exec i s = .next t ∧ Steers s t g x ((s.atIssue g x).group g) fl :=
  steers_of_issues h he hf hr (.refl _) rfl rfl

/-- An instruction that changes registers of its group. -/
theorem steers_of_modGroup (F : Group → Group) (h : IssuesFreely s g x op)
    (he : exec i s = act s fun b => b.issue g x op f)
    (hf : f (s.atIssue g x) (s.issueCtx g x) = .ok ((s.atIssue g x).modGroup g F, fl)) (hr : fl ≠ .ret)
    (hq : (F ((s.atIssue g x).group g)).stopReq = ((s.atIssue g x).group g).stopReq) :
    ∃ t, exec i s = .next t ∧ Steers s t g x (F ((s.atIssue g x).group g)) fl :=
  steers_of_issues h he hf hr (.modGroup (by decide) _ _) (Chip.group_modGroup _ _ _) hq

theorem Steers.onlyTouches (h : Steers s t g x y fl) : OnlyTouches [.slices] (s.on (s.atIssue g x)) t :=
  ⟨h.pending, h.alters.2.2⟩

theorem Steers.keepsData (h : Steers s t g x y fl) (ha : y.acc = ((s.atIssue g x).group g).acc)
    (ho : y.outr = ((s.atIssue g x).group g).outr) : KeepsData s t g x :=
  ⟨by rw [h.group, Group.acc_after, ha], by rw [h.group, Group.outr_after, ho], h.alters.1, h.alters.2.1, h.onlyTouches⟩

theorem Steers.keepsRegs (h : Steers s t g x y fl) (hm : modified (s.issueCtx g x).w = [])
    (hy : y.regs = ((s.atIssue g x).group g).regs) (hb : y.bix = ((s.atIssue g x).group g).bix) : KeepsRegs s t g x :=
  ⟨fun i => by rw [h.group, Group.addr_after _ _ _ hm, hy], by rw [h.group, Group.m_after, hy],
    by rw [h.group, Group.flags_after, hy], by rw [h.group, Group.bix_after, hb], by rw [h.group, Group.st_after]⟩

theorem Steers.goesOn (h : Steers s t g x y .next) (ha : y.acc = ((s.atIssue g x).group g).acc)
    (ho : y.outr = ((s.atIssue g x).group g).outr) (hp : y.pc = ((s.atIssue g x).group g).pc)
    (hr : y.rep = ((s.atIssue g x).group g).rep) (hn : y.nextPc = ((s.atIssue g x).group g).nextPc) : GoesOn s t g x :=
  ⟨h.keepsData ha ho, by rw [h.group, Group.st_after], by rw [h.group, Group.pc_after_next, Group.onwardPc, hr, hp, hn, ← Group.onwardPc],
    by rw [h.group, Group.rep_after_next, hr]⟩

theorem modified_of_issues (h : IssuesFreely s g x op) (ho : op ≤ 0x0C) : modified (s.issueCtx g x).w = [] :=
  modified_control ((issues_op h.1).trans_le ho)

/-- A control instruction other than NOP stands in no repetition. -/
theorem rep_of_issues (h : IssuesFreely s g x op) (ho : op ≤ 0x0C) (h0 : op ≠ 0) : ((s.atIssue g x).group g).rep = 0 :=
  (Chip.illegal_eq_none (issues_legal h.1)).2 (by simp [isControl, issues_op h.1, ho]) (by rwa [issues_op h.1])

end

/-! ### Changes of the registers in use -/

section
variable (y : Group) (f : RegSet → RegSet)

@[simp] theorem Group.acc_modRegs : (y.modRegs f).acc = y.acc := by rw [Group.modRegs_eq]
@[simp] theorem Group.outr_modRegs : (y.modRegs f).outr = y.outr := by rw [Group.modRegs_eq]
@[simp] theorem Group.pc_modRegs : (y.modRegs f).pc = y.pc := by rw [Group.modRegs_eq]
@[simp] theorem Group.rep_modRegs : (y.modRegs f).rep = y.rep := by rw [Group.modRegs_eq]
@[simp] theorem Group.stopReq_modRegs : (y.modRegs f).stopReq = y.stopReq := by rw [Group.modRegs_eq]

/-- A change of the registers in use that leaves the loop's leaves where the sequencer goes. -/
theorem Group.nextPc_modRegs (hl : (f y.regs).loop = y.regs.loop) (hc : (f y.regs).lc = y.regs.lc) :
    (y.modRegs f).nextPc = y.nextPc :=
  Group.nextPc_congr (Group.pc_modRegs y f) ((congrArg (·.loop) (Group.regs_modRegs y f)).trans hl)
    ((congrArg (·.lc) (Group.regs_modRegs y f)).trans hc)

/-- An address register written. -/
def RegSet.setAddr (i : Nat) (v : BitVec 14) (s : RegSet) : RegSet := { s with a := Tab.set s.a i v }

theorem RegSet.addr_setAddr (i j : Nat) (v : BitVec 14) (s : RegSet) :
    (s.setAddr i v).addr j = if j = i then v else s.addr j := by
  split
  · next h => rw [h]; exact Tab.get_set_self _ _ _ _
  · next h => exact Tab.get_set_ne _ _ _ _ _ h

end

section
variable {s : State} {g : Grp} {x : Issue} {op : Nat} {i : Instr} {f : Chip → Ctx → Eff} {fl : Flow} {F : RegSet → RegSet}

/-- An instruction that changes the registers in use, but not the loop's. -/
theorem steers_of_modRegs (h : IssuesFreely s g x op) (he : exec i s = act s fun b => b.issue g x op f)
    (hf : f (s.atIssue g x) (s.issueCtx g x) = .ok ((s.atIssue g x).modGroup g fun y => y.modRegs F, fl)) (hr : fl ≠ .ret) :
    ∃ t, exec i s = .next t ∧ Steers s t g x (((s.atIssue g x).group g).modRegs F) fl :=
  steers_of_modGroup (fun y => y.modRegs F) h he hf hr (Group.stopReq_modRegs _ _)

theorem Steers.goesOn_modRegs {t : State} (h : Steers s t g x (((s.atIssue g x).group g).modRegs F) .next)
    (hF : ∀ s, (F s).loop = s.loop ∧ (F s).lc = s.lc) : GoesOn s t g x :=
  h.goesOn (Group.acc_modRegs _ _) (Group.outr_modRegs _ _) (Group.pc_modRegs _ _) (Group.rep_modRegs _ _)
    (Group.nextPc_modRegs _ _ (hF _).1 (hF _).2)

/-- SETA and ADDA, and DJNZ before it steers: the address register i becomes v. -/
theorem Steers.addr_setAddr {t : State} {n : Nat} {v : BitVec 14} (hm : modified (s.issueCtx g x).w = [])
    (h : Steers s t g x (((s.atIssue g x).group g).modRegs (RegSet.setAddr n v)) fl) (j : Nat) :
    (t.group g).regs.addr j = if j = n then v else ((s.atIssue g x).group g).regs.addr j := by
  rw [h.group, Group.addr_after _ _ _ hm, Group.regs_modRegs, RegSet.addr_setAddr]

end

/-! ### The control instructions one by one (R209) -/

section
variable {s t : State} {g : Grp} {x : Issue} {y : Group}

/-- The cycle in which a group enters STOP after STOP in issue cycle c (R224). -/
def stopCycle (c : Nat) (last : Option Nat) : Nat :=
  match last with
  | some l => max (c + 1) (l + 3)
  | none => c + 1

/-- The group after STOP: its stop is under way, and its registers are the same. -/
theorem Group.after_stop (k : Ctx) (h : modified k.w = []) : (y.after k .stop).pc = y.pc + 1 ∧
    (y.after k .stop).main = y.main ∧ (y.after k .stop).shadow = y.shadow ∧
    (y.after k .stop).stopping = some (stopCycle k.c y.last, true) := by
  unfold Group.after
  rw [Group.goOn_control y k h]
  exact ⟨rfl, rfl, rfl, rfl⟩

theorem Group.settle_before {n c : Nat} {byStop : Bool} (h : y.stopping = some (n, byStop)) (hc : c < n) : y.settle c = y := by
  unfold Group.settle
  rw [h]
  exact if_neg (by omega)

theorem Group.settle_from {n c : Nat} (h : y.stopping = some (n, true)) (hc : n ≤ c) :
    y.settle c = { y.stopped with done := some n } := by
  unfold Group.settle
  rw [h]
  exact if_pos hc

/-- A taken branch leaves the loop and two empty cycles. -/
theorem Group.after_jump (k : Ctx) (a : Nat) : (y.after k (.jump a)).pc = a ∧ (y.after k (.jump a)).gap = 2 ∧
    (y.after k (.jump a)).regs.loop = none := by
  refine ⟨rfl, rfl, ?_⟩
  exact congrArg (·.loop) (Group.regs_modRegs _ _)

theorem Group.after_loop (k : Ctx) (last : Nat) (n : BitVec 16) :
    (y.after k (.loop last n)).pc = y.pc + 1 ∧ (y.after k (.loop last n)).regs.lc = n ∧
    (y.after k (.loop last n)).regs.loop = some { first := y.pc + 1, last := last } := by
  obtain ⟨hp, -, -⟩ := Group.goOn_seq y k
  have hr := Group.regs_modRegs (y.goOn k) fun s =>
    { s with lc := n, loop := some { first := (y.goOn k).pc + 1, last := last } }
  exact ⟨congrArg (· + 1) hp, congrArg (·.lc) hr, (congrArg (·.loop) hr).trans (by rw [hp])⟩

/-- What DJNZ makes of its group: the register counts down. -/
def Group.countDown (k : Ctx) (y : Group) : Group :=
  y.modRegs (RegSet.setAddr (wReg k.w) (y.regs.addr (wReg k.w) - 1#14))

/-- Where DJNZ goes: on where its register was 1. -/
def Group.djnzFlow (k : Ctx) (y : Group) : Flow :=
  if y.regs.addr (wReg k.w) - 1#14 = 0#14 then .next else .jump (wTarget k.w)

theorem djnzEff_eq (b : Chip) (k : Ctx) :
    djnzEff b k = .ok (b.modGroup k.g (Group.countDown k), (b.group k.g).djnzFlow k) :=
  congrArg (fun c => Except.ok (c, (b.group k.g).djnzFlow k)) (Chip.modGroup_congr b k.g rfl)

theorem Group.djnzFlow_ne_ret (k : Ctx) : y.djnzFlow k ≠ .ret := by
  unfold Group.djnzFlow
  split <;> exact Flow.noConfusion

theorem Group.addr_after_djnz (k : Ctx) (fl : Flow) (h : modified k.w = []) (j : Nat) :
    ((y.countDown k).after k fl).regs.addr j = if j = wReg k.w then y.regs.addr j - 1#14 else y.regs.addr j := by
  rw [Group.addr_after _ _ _ h, Group.countDown, Group.regs_modRegs, RegSet.addr_setAddr]
  split
  · next hj => rw [hj]
  · rfl

/-- How DJNZ leaves its group: behind it where its register was 1, and else at its target. -/
def DjnzEnds (k : Ctx) (y z : Group) : Prop :=
  if y.regs.addr (wReg k.w) = 1#14 then z.pc = y.onwardPc ∧ z.gap = 0
  else z.pc = wTarget k.w ∧ z.gap = 2 ∧ z.regs.loop = none

theorem djnzEnds_after (k : Ctx) : DjnzEnds k y ((y.countDown k).after k (y.djnzFlow k)) := by
  have h0 : ∀ v : BitVec 14, v - 1#14 = 0#14 ↔ v = 1#14 := fun v => by bv_omega
  have hn : (y.countDown k).nextPc = y.nextPc := Group.nextPc_modRegs _ _ rfl rfl
  unfold DjnzEnds
  split
  · next h =>
    rw [Group.djnzFlow, if_pos ((h0 _).2 h)]
    refine ⟨?_, Group.gap_after_next _ k⟩
    rw [Group.pc_after_next, Group.onwardPc, hn, Group.countDown, Group.rep_modRegs, Group.pc_modRegs, ← Group.onwardPc]
  · next h =>
    rw [Group.djnzFlow, if_neg (mt (h0 _).1 h)]
    exact Group.after_jump k _

/-- A modifier written. -/
def RegSet.setModifier (i : Nat) (v : BitVec 32) (s : RegSet) : RegSet := { s with m := Tab.set s.m i v }

theorem RegSet.modifier_setModifier (i j : Nat) (v : BitVec 32) (s : RegSet) :
    (s.setModifier i v).modifier j = if j = i then v else s.modifier j := by
  split
  · next h => rw [h]; exact Tab.get_set_self _ _ _ _
  · next h => exact Tab.get_set_ne _ _ _ _ _ h

/-- EVMASK written. -/
def Group.setEvMask (m : BitVec 4) (y : Group) : Group := { y with evMask := m }

theorem Group.setEvMask_others (m : BitVec 4) :
    (y.setEvMask m).acc = y.acc ∧ (y.setEvMask m).outr = y.outr ∧ (y.setEvMask m).bix = y.bix ∧
    (y.setEvMask m).regs = y.regs ∧ (y.setEvMask m).pc = y.pc ∧ (y.setEvMask m).rep = y.rep ∧
    (y.setEvMask m).stopReq = y.stopReq ∧ (y.setEvMask m).nextPc = y.nextPc :=
  ⟨rfl, rfl, rfl, rfl, rfl, rfl, rfl, rfl⟩

theorem Group.after_rep (k : Ctx) (n : Nat) : (y.after k (.rep n)).rep = n ∧ (y.after k (.rep n)).pc = y.pc + 1 :=
  ⟨rfl, congrArg (· + 1) (Group.goOn_seq y k).1⟩

/-- The flags that CLRF leaves. -/
def RegSet.clearFlags (s : RegSet) : RegSet := { s with flags := 0#5 }

/-- BIX of every lane written in cycle c. -/
def Group.bixWrites (c : Nat) (v : Nat → BitVec 16) (lanes : List Nat) (y : Group) : Group :=
  lanes.foldl (fun y l => y.bixWrite c l (v l)) y

theorem Group.bixNow_bixWrites (c : Nat) (v : Nat → BitVec 16) (lanes : List Nat) (l : Nat) :
    (y.bixWrites c v lanes).bixNow l = if l ∈ lanes then v l else y.bixNow l := by
  unfold Group.bixWrites
  induction lanes generalizing y with
  | nil => simp
  | cons j lanes ih =>
    rw [List.foldl_cons, ih, Group.bixNow_bixWrite]
    by_cases hj : l = j
    · subst hj; simp
    · simp [hj]

theorem Group.bixWrites_keep {β : Type} {w : Group → β} (h : ∀ (y : Group) bix pipe, w { y with bix, pipe } = w y) (c : Nat)
    (v : Nat → BitVec 16) (lanes : List Nat) : w (y.bixWrites c v lanes) = w y :=
  foldl_keep w _ (fun y _ => h y _ _) _ _

/-- What CLRF makes of its group: bit 0 clears the flags, bits 1 and 2 write BIX. -/
def Group.clrf (k : Ctx) (y : Group) : Group :=
  let y := if k.w.getLsbD 0 then y.modRegs RegSet.clearFlags else y
  if k.w.getLsbD 1 || k.w.getLsbD 2 then
    y.bixWrites k.c (fun l => if k.w.getLsbD 1 then BitVec.ofNat 16 l else 0#16) (List.range 8)
  else y

theorem bit_field_three (w : BitVec 64) {n : Nat} (h : n < 3) : bit (field w.toNat 0 3) n = w.getLsbD n := by
  rw [bit, field, pow_zero, Nat.div_one, Nat.testBit_mod_two_pow]
  simp [h, BitVec.getLsbD]

end

/-! ### The clauses of O25 -/

theorem State.issueCtx_c (s : State) (g : Grp) (x : Issue) : (s.issueCtx g x).c = s.issueCycle g x := by
  rw [State.issueCtx]

theorem State.issueCtx_g (s : State) (g : Grp) (x : Issue) : (s.issueCtx g x).g = g := by
  rw [State.issueCtx]

section
variable {s : State} {g : Grp} {x : Issue}

/-- NOP, and WAITG once sg_go is 1. -/
theorem nop_goesOn {i : Instr} {op : Nat} (h : IssuesFreely s g x op) (ho : op ≤ 0x0C)
    (he : exec i s = act s fun b => b.issue g x op fun b _ => .ok (b, .next)) :
    ∃ t, exec i s = .next t ∧ GoesOn s t g x ∧ KeepsRegs s t g x := by
  obtain ⟨t, ht, hst⟩ := steers_of_flow h he rfl Flow.noConfusion
  exact ⟨t, ht, hst.goesOn rfl rfl rfl rfl rfl, hst.keepsRegs (modified_of_issues h ho) rfl rfl⟩

theorem stop_steers (h : IssuesFreely s g x 0x01) :
    ∃ t, exec (.stop g x) s = .next t ∧ KeepsData s t g x ∧ (t.group g).st = .run ∧
      (t.group g).pc = ((s.atIssue g x).group g).pc + 1 ∧ (t.group g).main = ((s.atIssue g x).group g).main ∧
      (t.group g).shadow = ((s.atIssue g x).group g).shadow ∧
      let n := stopCycle (s.issueCycle g x) ((s.atIssue g x).group g).last
      (t.group g).stopping = some (n, true) ∧ (∀ c, c < n → (t.group g).settle c = t.group g) ∧
      ∀ c, n ≤ c → ((t.group g).settle c).st = .stop ∧ ((t.group g).settle c).done = some n ∧
        ((t.group g).settle c).handler = none ∧ ((t.group g).settle c).pending = 0#4 ∧
        ((t.group g).settle c).acc = (t.group g).acc ∧ ((t.group g).settle c).main = (t.group g).main := by
  obtain ⟨t, ht, hst⟩ := steers_of_flow (i := .stop g x) h rfl rfl Flow.noConfusion
  have hk := hst.keepsData rfl rfl
  obtain ⟨hpc, hmain, hshadow, hstop⟩ :=
    Group.after_stop (y := (s.atIssue g x).group g) (s.issueCtx g x) (modified_of_issues h (by decide))
  rw [← hst.group] at hpc hmain hshadow hstop
  rw [State.issueCtx_c] at hstop
  refine ⟨t, ht, hk, by rw [hst.group, Group.st_after], hpc, hmain, hshadow, hstop,
    fun c hc => Group.settle_before hstop hc, fun c hc => ?_⟩
  rw [Group.settle_from hstop hc]
  exact ⟨rfl, rfl, rfl, rfl, rfl, rfl⟩

theorem jmp_steers (h : IssuesFreely s g x 0x02) :
    ∃ t, exec (.jmp g x) s = .next t ∧ KeepsData s t g x ∧ KeepsRegs s t g x ∧
      (t.group g).pc = wTarget (s.issueCtx g x).w ∧ (t.group g).gap = 2 ∧ (t.group g).regs.loop = none := by
  obtain ⟨t, ht, hst⟩ := steers_of_flow (i := .jmp g x) h rfl rfl Flow.noConfusion
  refine ⟨t, ht, hst.keepsData rfl rfl, hst.keepsRegs (modified_of_issues h (by decide)) rfl rfl, ?_⟩
  rw [hst.group]
  exact Group.after_jump _ _

theorem djnz_steers (h : IssuesFreely s g x 0x03) :
    ∃ t, exec (.djnz g x) s = .next t ∧ KeepsData s t g x ∧
      (∀ j, (t.group g).regs.addr j = if j = wReg (s.issueCtx g x).w then ((s.atIssue g x).group g).regs.addr j - 1#14
        else ((s.atIssue g x).group g).regs.addr j) ∧
      DjnzEnds (s.issueCtx g x) ((s.atIssue g x).group g) (t.group g) := by
  have hf := djnzEff_eq (s.atIssue g x) (s.issueCtx g x)
  rw [State.issueCtx_g] at hf
  obtain ⟨t, ht, hst⟩ := steers_of_modGroup (i := .djnz g x) (Group.countDown (s.issueCtx g x)) h rfl hf
    (Group.djnzFlow_ne_ret _) (Group.stopReq_modRegs _ _)
  refine ⟨t, ht, hst.keepsData (Group.acc_modRegs _ _) (Group.outr_modRegs _ _), fun j => ?_, ?_⟩
  · rw [hst.group]
    exact Group.addr_after_djnz _ _ (modified_of_issues h (by decide)) j
  · rw [hst.group]
    generalize s.issueCtx g x = k, (s.atIssue g x).group g = y
    exact djnzEnds_after k

theorem loop_steers (h : IssuesFreely s g x 0x04) (hl : ((s.atIssue g x).group g).regs.loop = none)
    (hpc : ((s.atIssue g x).group g).pc < field (s.issueCtx g x).w.toNat 16 12) :
    ∃ t, exec (.loop g x) s = .next t ∧ KeepsData s t g x ∧ KeepsRegs s t g x ∧
      (t.group g).pc = ((s.atIssue g x).group g).pc + 1 ∧
      (t.group g).regs.lc = BitVec.ofNat 16 (field (s.issueCtx g x).w.toNat 0 16) ∧
      (t.group g).regs.loop =
        some { first := ((s.atIssue g x).group g).pc + 1, last := field (s.issueCtx g x).w.toNat 16 12 } := by
  have hf : loopEff (s.atIssue g x) (s.issueCtx g x) = .ok (s.atIssue g x,
      .loop (field (s.issueCtx g x).w.toNat 16 12) (BitVec.ofNat 16 (field (s.issueCtx g x).w.toNat 0 16))) := by
    have hn : ¬(((s.atIssue g x).group (s.issueCtx g x).g).regs.loop.isSome ||
        decide (field (s.issueCtx g x).w.toNat 16 12 ≤ ((s.atIssue g x).group (s.issueCtx g x).g).pc)) = true := by
      rw [State.issueCtx_g]
      simp [hl, hpc]
    exact if_neg hn
  obtain ⟨t, ht, hst⟩ := steers_of_flow (i := .loop g x) h rfl hf Flow.noConfusion
  refine ⟨t, ht, hst.keepsData rfl rfl, hst.keepsRegs (modified_of_issues h (by decide)) rfl rfl, ?_⟩
  rw [hst.group]
  exact Group.after_loop _ _ _

theorem rep_steers (h : IssuesFreely s g x 0x05)
    (hl : ∀ l, ((s.atIssue g x).group g).regs.loop = some l → ((s.atIssue g x).group g).pc ≠ l.last) :
    ∃ t, exec (.rep g x) s = .next t ∧ KeepsData s t g x ∧ KeepsRegs s t g x ∧
      (t.group g).rep = wTarget (s.issueCtx g x).w + 1 ∧ (t.group g).pc = ((s.atIssue g x).group g).pc + 1 := by
  have hf : repEff (s.atIssue g x) (s.issueCtx g x) = .ok (s.atIssue g x, .rep (wTarget (s.issueCtx g x).w + 1)) := by
    simp only [repEff, State.issueCtx_g]
    split
    · next l hs => exact if_neg (hl l hs)
    · rfl
  obtain ⟨t, ht, hst⟩ := steers_of_flow (i := .rep g x) h rfl hf Flow.noConfusion
  refine ⟨t, ht, hst.keepsData rfl rfl, hst.keepsRegs (modified_of_issues h (by decide)) rfl rfl, ?_⟩
  rw [hst.group]
  exact Group.after_rep _ _

theorem evmask_steers (h : IssuesFreely s g x 0x08) :
    ∃ t, exec (.evmask g x) s = .next t ∧ GoesOn s t g x ∧ KeepsRegs s t g x ∧
      (t.group g).evMask = BitVec.ofNat 4 (field (s.issueCtx g x).w.toNat 0 4) := by
  let m := BitVec.ofNat 4 (field (s.issueCtx g x).w.toNat 0 4)
  obtain ⟨hacc, houtr, hbix, hregs, hpc, hrep, hstop, hnext⟩ := Group.setEvMask_others (y := (s.atIssue g x).group g) m
  obtain ⟨t, ht, hst⟩ := steers_of_modGroup (i := .evmask g x) (Group.setEvMask m) h rfl rfl Flow.noConfusion hstop
  refine ⟨t, ht, hst.goesOn hacc houtr hpc hrep hnext, hst.keepsRegs (modified_of_issues h (by decide)) hregs hbix, ?_⟩
  rw [hst.group, Group.evMask_after, Group.setEvMask]

theorem seta_steers (h : IssuesFreely s g x 0x09) :
    ∃ t, exec (.seta g x) s = .next t ∧ GoesOn s t g x ∧
      (∀ j, (t.group g).regs.addr j = if j = wReg (s.issueCtx g x).w then
        BitVec.ofNat 14 (field (s.issueCtx g x).w.toNat 0 14) else ((s.atIssue g x).group g).regs.addr j) := by
  obtain ⟨t, ht, hst⟩ := steers_of_modRegs (i := .seta g x) (F := RegSet.setAddr (wReg (s.issueCtx g x).w)
    (BitVec.ofNat 14 (field (s.issueCtx g x).w.toNat 0 14))) h rfl rfl Flow.noConfusion
  exact ⟨t, ht, hst.goesOn_modRegs fun _ => ⟨rfl, rfl⟩, hst.addr_setAddr (modified_of_issues h (by decide))⟩

theorem ofInt_signed_sixteen (n : Nat) : BitVec.ofInt 14 (signed 16 n) = BitVec.ofNat 14 n := by
  refine BitVec.eq_of_toNat_eq ?_
  have h : signed 16 n % 2 ^ 14 = (n : Int) % 2 ^ 14 := by
    rw [signed, BitVec.toInt_ofNat', Int.bmod]
    split <;> omega
  rw [BitVec.toNat_ofInt, BitVec.toNat_ofNat]
  push_cast
  omega

theorem adda_steers (h : IssuesFreely s g x 0x0A) :
    ∃ t, exec (.adda g x) s = .next t ∧ GoesOn s t g x ∧
      (∀ j, (t.group g).regs.addr j = if j = wReg (s.issueCtx g x).w then
        ((s.atIssue g x).group g).regs.addr j + BitVec.ofNat 14 (field (s.issueCtx g x).w.toNat 0 16)
        else ((s.atIssue g x).group g).regs.addr j) := by
  obtain ⟨t, ht, hst⟩ := steers_of_modRegs (i := .adda g x) (F := RegSet.setAddr (wReg (s.issueCtx g x).w)
    (((s.atIssue g x).group g).regs.addr (wReg (s.issueCtx g x).w) +
      BitVec.ofInt 14 (signed 16 (field (s.issueCtx g x).w.toNat 0 16)))) h rfl rfl Flow.noConfusion
  refine ⟨t, ht, hst.goesOn_modRegs fun _ => ⟨rfl, rfl⟩, fun j => ?_⟩
  rw [hst.addr_setAddr (modified_of_issues h (by decide)) j, ofInt_signed_sixteen]
  split
  · next hj => rw [hj]
  · rfl

theorem setm_steers (h : IssuesFreely s g x 0x0B) :
    ∃ t, exec (.setm g x) s = .next t ∧ GoesOn s t g x ∧
      (∀ j, (t.group g).regs.modifier j = if j = wReg (s.issueCtx g x).w then
        BitVec.ofNat 32 (field (s.issueCtx g x).w.toNat 0 32) else ((s.atIssue g x).group g).regs.modifier j) := by
  obtain ⟨t, ht, hst⟩ := steers_of_modRegs (i := .setm g x)
    (F := RegSet.setModifier (wReg (s.issueCtx g x).w) (BitVec.ofNat 32 (field (s.issueCtx g x).w.toNat 0 32))) h rfl rfl
    Flow.noConfusion
  refine ⟨t, ht, hst.goesOn_modRegs fun _ => ⟨rfl, rfl⟩, fun j => ?_⟩
  have hm : ∀ r r' : RegSet, r.m = r'.m → r.modifier j = r'.modifier j := fun r r' hr => by rw [RegSet.modifier, hr]; rfl
  rw [hm _ _ ((congrArg (·.regs.m) hst.group).trans (Group.m_after _ _ _)), Group.regs_modRegs, RegSet.modifier_setModifier]

end

/-! ### RET and CLRF -/

section
variable {s : State} {g : Grp} {x : Issue} (y : Group) (k : Ctx)

/-- The group after RET, where the handler has kept its bound: another event, or the interrupted code. -/
def Group.returned (y : Group) : Group :=
  { y.goOn k with handler := none, pc := (y.goOn k).saved, gap := 2 }.takeEvent k.c

theorem Group.saved_goOn : (y.goOn k).saved = y.saved := by unfold Group.goOn; rw [Group.modRegs_eq]

/-- RET within the bound is one change of the group. -/
theorem Chip.follow_ret {b : Chip} {h : Handler} (hs : (b.group k.g).stopReq = false) (hh : (b.group k.g).handler = some h)
    (hb : h.late = true ∨ b.overdue k.g h.ev h.since (b.groupNet0 k.g) = false) :
    b.follow k .ret = b.modGroup k.g (Group.returned k) := by
  let d := b.modGroup k.g (Group.goOn · k)
  have hd : d.group k.g = (b.group k.g).goOn k := Chip.group_modGroup _ _ _
  have hkeep : (d.group k.g).bound = (b.group k.g).bound ∧ (d.group k.g).net = (b.group k.g).net ∧
      (d.group k.g).stopReq = (b.group k.g).stopReq := by
    rw [hd]
    unfold Group.goOn
    rw [Group.modRegs_eq]
    exact ⟨rfl, rfl, rfl⟩
  obtain ⟨hbound, hnet, hstop⟩ := hkeep
  have hdh : (d.group k.g).handler = some { h with issued := h.issued + 1 } := by
    rw [hd]
    exact congrArg (Option.map fun h : Handler => { h with issued := h.issued + 1 }) hh
  have hover : d.overdue k.g h.ev h.since (d.groupNet0 k.g) = b.overdue k.g h.ev h.since (b.groupNet0 k.g) := by
    unfold Chip.overdue Chip.groupNet0
    rw [hbound, hnet]
    rfl
  have hend : d.endHandler k.g k.c = b.modGroup k.g (Group.returned k) := by
    have hno : (!h.late && d.overdue k.g h.ev h.since (d.groupNet0 k.g)) = false := by
      rw [hover]
      rcases hb with hl | ho
      · rw [hl]; rfl
      · rw [ho, Bool.and_false]
    simp only [Chip.endHandler, hdh, hno, Bool.false_eq_true, if_false]
    exact (Chip.modGroup_modGroup b k.g _ _).trans (Chip.modGroup_congr b k.g rfl)
  have hq : ((d.endHandler k.g k.c).group k.g).stopReq = false := by
    rw [hend, Chip.group_modGroup, Group.returned, Group.takeEvent_keep (v := (·.stopReq)) _ fun _ => by intros; rfl]
    exact (Group.stopReq_goOn k _).trans hs
  have hf : b.follow k .ret = if ((d.endHandler k.g k.c).group k.g).stopReq && ((d.endHandler k.g k.c).group k.g).rep == 0
      then (d.endHandler k.g k.c).modGroup k.g fun x => x.stopAfter k.c x.last false else d.endHandler k.g k.c := rfl
  rw [hf, hq, Bool.false_and, if_neg Bool.false_ne_true, hend]

/-- A group that returns as RET leaves it before an event is looked for. -/
def Group.resumes (y : Group) : Group :=
  { y with
    st := .run
    last := some k.c
    gap := 2
    took := if busesOf k.w = 0#3 then y.took else some (k.c, busesOf k.w)
    handler := none
    pc := y.saved }

theorem Group.returned_eq (hm : modified k.w = []) : y.returned k = (y.resumes k).takeEvent k.c := by
  unfold Group.returned
  rw [Group.goOn_control y k hm]
  rfl

theorem Group.eventReady_masked (h : y.pending &&& y.evMask = 0#4) (c : Nat) : y.eventReady c = none := by
  unfold Group.eventReady
  rw [List.find?_eq_none]
  intro e _ he
  simp only [Bool.and_eq_true] at he
  have : (y.pending &&& y.evMask).getLsbD e = true := by rw [BitVec.getLsbD_and, he.1.1, he.1.2]; rfl
  simp [h] at this

theorem Group.takeEvent_none {c : Nat} (h : y.eventReady c = none) : y.takeEvent c = y := by
  unfold Group.takeEvent
  rw [h]
  exact ite_self _

theorem Group.takeEvent_some {c ev : Nat} (hr : y.running = true) (hh : y.handler = none) (h0 : y.rep = 0)
    (h : y.eventReady c = some ev) : y.takeEvent c = y.enter ev c y.pc := by
  unfold Group.takeEvent
  rw [h]
  exact if_pos ⟨hr, hh, h0⟩

theorem getLsbD_setEv_false (p : BitVec 4) {n : Nat} (h : n < 4) : (setEv p n false).getLsbD n = false := by
  simp [setEv, h]

theorem Group.eventReady_lt {c ev : Nat} (h : y.eventReady c = some ev) : ev < 4 :=
  List.mem_range.mp (List.mem_of_find?_eq_some h)

/-- Where nothing is pending that EVMASK allows, the interrupted code goes on. -/
theorem Group.resumes_idle (h : y.pending &&& y.evMask = 0#4) (c : Nat) :
    let z := (y.resumes k).takeEvent c
    z.acc = y.acc ∧ z.outr = y.outr ∧ z.handler = none ∧ z.pc = y.saved ∧ z.gap = 2 ∧ z.regs = y.main ∧
      z.shadow = y.shadow := by
  rw [Group.takeEvent_none (y.resumes k) (Group.eventReady_masked (y.resumes k) h c)]
  exact ⟨rfl, rfl, rfl, rfl, rfl, rfl, rfl⟩

/-- Where an event is ready, its handler begins. -/
theorem Group.resumes_enters {c ev : Nat} (hs : y.stopping = none) (h0 : y.rep = 0) (he : y.eventReady c = some ev) :
    let z := (y.resumes k).takeEvent c
    z.acc = y.acc ∧ z.outr = y.outr ∧ z.handler.map (·.ev) = some ev ∧ z.pc = y.entry.getD ev 0 ∧ z.gap = 0 ∧
      z.saved = y.saved ∧ z.pending.getLsbD ev = false ∧ z.main = y.main ∧ z.shadow = y.shadow := by
  rw [Group.takeEvent_some (y.resumes k) (by simp [Group.running, Group.resumes, hs]) rfl h0 he]
  exact ⟨rfl, rfl, rfl, rfl, rfl, rfl, getLsbD_setEv_false _ (Group.eventReady_lt y he), rfl, rfl⟩

end

section
variable {s : State} {g : Grp} {x : Issue} {h : Handler}

theorem ret_returns (hi : IssuesFreely s g x 0x06) (hh : ((s.atIssue g x).group g).handler = some h)
    (hb : h.late = true ∨ (s.atIssue g x).overdue g h.ev h.since ((s.atIssue g x).groupNet0 g) = false) :
    ∃ t, exec (.ret g x) s = .next t ∧
      t.group g = (((s.atIssue g x).group g).resumes (s.issueCtx g x)).takeEvent (s.issueCycle g x) ∧
      AltersGroup [.slices] g (s.atIssue g x) t.toChip ∧ t.pending = s.pending := by
  have hf := Chip.follow_ret (s.issueCtx g x) (b := s.atIssue g x) (h := h)
  rw [State.issueCtx_g] at hf
  refine ⟨s.on ((s.atIssue g x).modGroup g (Group.returned (s.issueCtx g x))), ?_, ?_, .modGroup (by decide) _ _, rfl⟩
  · have he : exec (.ret g x) s = act s fun b => b.issue g x 0x06 fun b _ => .ok (b, .ret) := rfl
    rw [he]
    exact congrArg (fun d => Host.Outcome.next (s.on d)) ((issue_eq_of_issues hi.1 rfl).trans (hf hi.2 hh hb))
  · rw [State.on_toChip, Chip.group_modGroup, Group.returned_eq _ _ (modified_of_issues hi (by decide)), State.issueCtx_c]

theorem AltersGroup.keepsData {t : State} (h : AltersGroup [.slices] g (s.atIssue g x) t.toChip)
    (hp : t.pending = s.pending) (ha : (t.group g).acc = ((s.atIssue g x).group g).acc)
    (ho : (t.group g).outr = ((s.atIssue g x).group g).outr) : KeepsData s t g x :=
  ⟨ha, ho, h.1, h.2.1, hp, h.2.2⟩

/-- RET with no event to enter: the interrupted code goes on. -/
theorem ret_resumes (hi : IssuesFreely s g x 0x06) (hh : ((s.atIssue g x).group g).handler = some h)
    (hb : h.late = true ∨ (s.atIssue g x).overdue g h.ev h.since ((s.atIssue g x).groupNet0 g) = false)
    (hp : ((s.atIssue g x).group g).pending &&& ((s.atIssue g x).group g).evMask = 0#4) :
    ∃ t, exec (.ret g x) s = .next t ∧ KeepsData s t g x ∧ (t.group g).handler = none ∧
      (t.group g).pc = ((s.atIssue g x).group g).saved ∧ (t.group g).gap = 2 ∧
      (t.group g).regs = ((s.atIssue g x).group g).main ∧ (t.group g).shadow = ((s.atIssue g x).group g).shadow := by
  obtain ⟨t, ht, hg, hc, hq⟩ := ret_returns hi hh hb
  obtain ⟨hacc, houtr, hrest⟩ := Group.resumes_idle ((s.atIssue g x).group g) (s.issueCtx g x) hp (s.issueCycle g x)
  rw [← hg] at hacc houtr hrest
  exact ⟨t, ht, hc.keepsData hq hacc houtr, hrest⟩

/-- RET with an event that is ready: its handler begins, for the same interrupted code. -/
theorem ret_enters {ev : Nat} (hi : IssuesFreely s g x 0x06) (hh : ((s.atIssue g x).group g).handler = some h)
    (hb : h.late = true ∨ (s.atIssue g x).overdue g h.ev h.since ((s.atIssue g x).groupNet0 g) = false)
    (hev : ((s.atIssue g x).group g).eventReady (s.issueCycle g x) = some ev) :
    ∃ t, exec (.ret g x) s = .next t ∧ KeepsData s t g x ∧ (t.group g).handler.map (·.ev) = some ev ∧
      (t.group g).pc = ((s.atIssue g x).group g).entry.getD ev 0 ∧ (t.group g).gap = 0 ∧
      (t.group g).saved = ((s.atIssue g x).group g).saved ∧ (t.group g).pending.getLsbD ev = false ∧
      (t.group g).main = ((s.atIssue g x).group g).main ∧ (t.group g).shadow = ((s.atIssue g x).group g).shadow := by
  obtain ⟨t, ht, hg, hc, hq⟩ := ret_returns hi hh hb
  obtain ⟨hacc, houtr, hrest⟩ := Group.resumes_enters ((s.atIssue g x).group g) (s.issueCtx g x)
    (going_atIssue (issues_mayIssue hi.1)) (rep_of_issues hi (by decide) (by decide)) hev
  rw [← hg] at hacc houtr hrest
  exact ⟨t, ht, hc.keepsData hq hacc houtr, hrest⟩

end

section
variable {s : State} {g : Grp} {x : Issue} (y : Group) (k : Ctx)

theorem clrfEff_eq (b : Chip) : ∃ c, clrfEff b k = .ok (c, .next) ∧ AltersGroup [.slices] k.g b c ∧
    c.group k.g = (b.group k.g).clrf k := by
  have h0 := bit_field_three k.w (n := 0) (by decide)
  have h1 := bit_field_three k.w (n := 1) (by decide)
  have h2 := bit_field_three k.w (n := 2) (by decide)
  let d := if k.w.getLsbD 0 then b.modGroup k.g fun y => y.modRegs RegSet.clearFlags else b
  have hd : AltersGroup [.slices] k.g b d ∧
      d.group k.g = if k.w.getLsbD 0 then (b.group k.g).modRegs RegSet.clearFlags else b.group k.g := by
    show AltersGroup _ _ _ (if _ then _ else _) ∧ Chip.group (if _ then _ else _) _ = _
    split
    · exact ⟨.modGroup (by decide) _ _, Chip.group_modGroup _ _ _⟩
    · exact ⟨.refl b, rfl⟩
  refine ⟨_, rfl, ?_⟩
  rw [h0, h1, h2]
  unfold Group.clrf
  rw [← hd.2]
  show AltersGroup _ _ _ (if _ then d.modGroup k.g _ else d) ∧ Chip.group (if _ then d.modGroup k.g _ else d) _ = _
  split
  · exact ⟨hd.1.trans (.modGroup (by decide) _ _), Chip.group_modGroup _ _ _⟩
  · exact ⟨hd.1, rfl⟩

theorem Group.clrf_keep {β : Type} {v : Group → β} (h : ∀ (y : Group) main shadow bix pipe,
    v { y with main, shadow, bix, pipe } = v y) : v (y.clrf k) = v y := by
  have h1 : v (if k.w.getLsbD 0 then y.modRegs RegSet.clearFlags else y) = v y := by
    split
    · exact Group.modRegs_keep y _ v fun m s => h y m s y.bix y.pipe
    · rfl
  simp only [Group.clrf]
  split
  · exact (Group.bixWrites_keep (fun z bix pipe => h z z.main z.shadow bix pipe) _ _ _).trans h1
  · exact h1

theorem Group.regs_clrf : (y.clrf k).regs = if k.w.getLsbD 0 then y.regs.clearFlags else y.regs := by
  have h1 : (if k.w.getLsbD 0 then y.modRegs RegSet.clearFlags else y).regs =
      if k.w.getLsbD 0 then y.regs.clearFlags else y.regs := by
    split
    · exact Group.regs_modRegs _ _
    · rfl
  simp only [Group.clrf]
  split
  · exact (Group.bixWrites_keep (w := (·.regs)) (fun _ _ _ => rfl) _ _ _).trans h1
  · exact h1

theorem Group.bixNow_clrf {l : Nat} (hl : l < 8) : (y.clrf k).bixNow l =
    if k.w.getLsbD 1 then BitVec.ofNat 16 l else if k.w.getLsbD 2 then 0#16 else y.bixNow l := by
  have h1 : (if k.w.getLsbD 0 then y.modRegs RegSet.clearFlags else y).bixNow l = y.bixNow l := by
    split
    · exact Group.modRegs_keep _ _ (·.bixNow l) fun _ _ => rfl
    · rfl
  simp only [Group.clrf]
  split
  · next h =>
    rw [Group.bixNow_bixWrites, if_pos (List.mem_range.mpr hl)]
    by_cases hb : k.w.getLsbD 1 = true
    · rw [if_pos hb, if_pos hb]
    · rw [Bool.eq_false_iff.mpr hb, Bool.false_or] at h
      rw [if_neg hb, if_neg hb, if_pos h]
  · next h =>
    simp only [Bool.or_eq_true, not_or] at h
    rw [h1, if_neg h.1, if_neg h.2]

theorem Group.clrf_others : (y.clrf k).acc = y.acc ∧ (y.clrf k).outr = y.outr ∧ (y.clrf k).pc = y.pc ∧
    (y.clrf k).rep = y.rep ∧ (y.clrf k).stopReq = y.stopReq ∧ (y.clrf k).nextPc = y.nextPc := by
  have hpc := Group.clrf_keep y k (v := (·.pc)) fun _ _ _ _ _ => rfl
  refine ⟨Group.clrf_keep y k (v := (·.acc)) fun _ _ _ _ _ => rfl, Group.clrf_keep y k (v := (·.outr)) fun _ _ _ _ _ => rfl,
    hpc, Group.clrf_keep y k (v := (·.rep)) fun _ _ _ _ _ => rfl,
    Group.clrf_keep y k (v := (·.stopReq)) fun _ _ _ _ _ => rfl, Group.nextPc_congr hpc ?_ ?_⟩
  all_goals
    rw [Group.regs_clrf]
    split <;> rfl

theorem clrf_steers (h : IssuesFreely s g x 0x0C) :
    ∃ t, exec (.clrf g x) s = .next t ∧ GoesOn s t g x ∧
      (t.group g).regs.flags =
        (if (s.issueCtx g x).w.getLsbD 0 then 0#5 else ((s.atIssue g x).group g).regs.flags) ∧
      (∀ l, l < 8 → (t.group g).bixNow l = if (s.issueCtx g x).w.getLsbD 1 then BitVec.ofNat 16 l
        else if (s.issueCtx g x).w.getLsbD 2 then 0#16 else ((s.atIssue g x).group g).bixNow l) := by
  obtain ⟨c, hf, hc, hg⟩ := clrfEff_eq (s.issueCtx g x) (s.atIssue g x)
  rw [State.issueCtx_g] at hc hg
  obtain ⟨hacc, houtr, hpc, hrep, hstop, hnext⟩ := Group.clrf_others ((s.atIssue g x).group g) (s.issueCtx g x)
  obtain ⟨t, ht, hst⟩ := steers_of_issues (i := .clrf g x) h rfl hf Flow.noConfusion hc hg hstop
  refine ⟨t, ht, hst.goesOn hacc houtr hpc hrep hnext, ?_, fun l hl => ?_⟩
  · rw [hst.group, Group.flags_after, Group.regs_clrf, apply_ite RegSet.flags]
    rfl
  · rw [hst.group, Group.after_keep _ _ _ (v := (·.bixNow l)) fun _ => by intros; rfl]
    exact Group.bixNow_clrf _ _ hl

end

/-- Settles O25: each control instruction changes registers of its group alone, and the sequencer then goes where the row's flow
takes it; RET within its bound is such a change too. -/
theorem controlInstructionsSteerTheSequencer : Obligations.ControlInstructionsSteerTheSequencer := by
  unfold Obligations.ControlInstructionsSteerTheSequencer
  intro regOf low nextPc kept regsKept goes issues
  have hn : nextPc = Group.onwardPc := by
    funext y
    rfl
  have hk : kept = KeepsData := rfl
  have hr : regsKept = KeepsRegs := rfl
  have hg : goes = GoesOn := by
    funext s t g x
    simp only [goes, hk, hn, GoesOn]
  rw [hk, hr, hg, hn]
  refine ⟨fun s g x hf hh => ?way, fun i op hi s g x h => ?nop, fun s g x h => ?stop, fun s g x h => ?jmp,
    fun s g x h => ?djnz, fun s g x h hl hpc => ?loop, fun s g x h hl => ?rep, fun s g x d h hd hb hp => ?ret,
    fun s g x d ev h hd hb hev => ?enter, fun s g x h => ?evmask, fun s g x h => ?seta, fun s g x h => ?adda,
    fun s g x h => ?setm, fun s g x h => ?clrf⟩
  case way =>
    have hc := (AltersGroup.upTo (g := g) (l := [.belfry, .slices]) (by decide) s.toChip x.t).trans
      (Chip.alters_toIssue (b := s.toChip.upTo x.t) hf hh)
    exact ⟨hc.1, hc.2.1, hc.onlyTouches⟩
  case nop =>
    simp only [List.mem_cons, Prod.mk.injEq, List.not_mem_nil, or_false] at hi
    rcases hi with ⟨rfl, rfl⟩ | ⟨rfl, rfl⟩
    · exact nop_goesOn h (by decide) rfl
    · exact nop_goesOn h (by decide) rfl
  case stop =>
    have hs := stop_steers h
    generalize s.issueCycle g x = c, ((s.atIssue g x).group g).last = l at hs ⊢
    exact hs
  case jmp => exact jmp_steers h
  case djnz => exact djnz_steers h
  case loop => exact loop_steers h hl hpc
  case rep => exact rep_steers h hl
  case ret => exact ret_resumes h hd hb hp
  case enter => exact ret_enters h hd hb hev
  case evmask => exact evmask_steers h
  case seta => exact seta_steers h
  case adda => exact adda_steers h
  case setm => exact setm_steers h
  case clrf => exact clrf_steers h

end Sys2Proof.Machine

/-! ## The words of the group memories (R203, R225) -/

namespace Sys2Proof.Machine
open Sys2Proof

/-! ### Keys and records of undefined contents -/

/-- A word of a group memory has a key of its own. -/
theorem memKey_inj {g g' : Grp} {i j : Nat} (hg : g.b < 64) (hg' : g'.b < 64) (hi : i < 16384) (hj : j < 16384)
    (h : memKey g i = memKey g' j) : g = g' ∧ i = j := by
  unfold memKey groupKey at h
  obtain ⟨r, k⟩ := g
  obtain ⟨r', k'⟩ := g'
  simp only at hg hg' h
  refine ⟨?_, by omega⟩
  rw [Grp.mk.injEq]
  omega

theorem Chip.undefIn_noteWritten_ne (b : Chip) {u u' : MemUnit} {k k' : Nat} (h : u' ≠ u ∨ k' ≠ k) :
    (b.noteWritten u k).undefIn u' k' = b.undefIn u' k' := by
  unfold Chip.noteWritten
  cases b.undefIn u k with
  | none => rfl
  | some e =>
    have hkey : ((fun x : MemUnit × Nat × List Nat => x.1 == u') ∘
        fun x => if x.1 == u then (x.1, x.2.1, k :: x.2.2) else x) = fun x => x.1 == u' := by
      funext x
      by_cases hx : x.1 = u <;> simp [hx]
    simp only [Chip.undefIn, List.find?_map, hkey]
    cases hf : b.mem.undef.find? fun x => x.1 == u' with
    | none => rfl
    | some x =>
      have hx : x.1 = u' := by simpa using List.find?_some hf
      by_cases hu : u' = u
      · have hk : k' ≠ k := h.resolve_left (not_not.mpr hu)
        simp [hx, hu, hk]
      · simp [hx, hu]

/-! ### One word -/

/-- The word of a group memory: space 0 instructions, 1 coefficients, else decisions. -/
def Chip.gmWord (b : Chip) (g : Grp) (space i : Nat) : Nat :=
  if space = 0 then (b.imWord g i).toNat else if space = 1 then (b.cmWord g i).toNat else (b.dsWord g i).toNat

section
variable {b c : Chip} {g : Grp} {i : Nat}

theorem Chip.imWord_congr (hu : c.undefIn (imUnit g) (memKey g i) = b.undefIn (imUnit g) (memKey g i))
    (hm : Mem.get c.slices.im (memKey g i) = Mem.get b.slices.im (memKey g i)) : c.imWord g i = b.imWord g i := by
  unfold Chip.imWord
  rw [hu, hm]

theorem Chip.cmWord_congr (hu : c.undefIn (cmUnit g) (memKey g i) = b.undefIn (cmUnit g) (memKey g i))
    (hm : Mem.get c.slices.cm (memKey g i) = Mem.get b.slices.cm (memKey g i)) : c.cmWord g i = b.cmWord g i := by
  unfold Chip.cmWord
  rw [hu, hm]

theorem Chip.dsWord_congr (hu : c.undefIn (dsUnit g) (memKey g i) = b.undefIn (dsUnit g) (memKey g i))
    (hm : Mem.get c.slices.ds (memKey g i) = Mem.get b.slices.ds (memKey g i)) : c.dsWord g i = b.dsWord g i := by
  unfold Chip.dsWord
  rw [hu, hm]

/-- What reads the memories and the records of undefined contents as they were finds the words as they were. -/
theorem Chip.gmWord_congr (hu : c.mem.undef = b.mem.undef) (hs : SlicesKept b c) (g : Grp) (space i : Nat) :
    c.gmWord g space i = b.gmWord g space i := by
  have h : ∀ u k, c.undefIn u k = b.undefIn u k := fun u k => by
    unfold Chip.undefIn
    rw [hu]
  unfold Chip.gmWord
  rw [Chip.imWord_congr (h _ _) (by rw [hs.1]), Chip.cmWord_congr (h _ _) (by rw [hs.2.1]),
    Chip.dsWord_congr (h _ _) (by rw [hs.2.2])]

end

/-! ### Stores -/

/-- From b to c the records of the other groups are the same, and the areas but those of l. -/
def AltersRecord (l : List Area) (g : Grp) (b c : Chip) : Prop :=
  (∀ j, j ≠ groupKey g.r g.b → Tab.get {} c.slices.groups j = Tab.get {} b.slices.groups j) ∧ ∀ x, x ∉ l → x.same b c

theorem AltersRecord.trans {l : List Area} {g : Grp} {b c d : Chip} (h : AltersRecord l g b c) (h' : AltersRecord l g c d) :
    AltersRecord l g b d :=
  ⟨fun j hj => (h'.1 j hj).trans (h.1 j hj), fun x hx => (h.2 x hx).trans (h'.2 x hx)⟩

theorem AltersGroup.record {l l' : List Area} {g : Grp} {b c : Chip} (h : AltersGroup l g b c) (hl : ∀ x ∈ l, x ∈ l') :
    AltersRecord l' g b c := ⟨h.1, fun x hx => h.2.2 x fun hm => hx (hl x hm)⟩

section
variable (b : Chip) (g : Grp) (i c : Nat)

theorem Chip.imStore_eq (v : BitVec 64) : b.imStore g i v =
    Chip.unarmAt { b with
      mem := { b.mem with undef := (b.noteWritten (imUnit g) (memKey g i)).mem.undef }
      slices := { b.slices with
        err := Tab.drop (fun x => x == gmKey g 0 i) b.slices.err
        im := Mem.set b.slices.im (memKey g i) v } } 0x2D40 (gmKey g 0 i) := by
  unfold Chip.imStore Chip.gmClean
  rw [b.noteWritten_eq (imUnit g) (memKey g i)]
  rfl

/-- A write into the coefficient memory in cycle c, as the group's record shows it for reads of that cycle (R203). -/
def Group.cmWrote (i c : Nat) (old : BitVec 32) (x : Group) : Group :=
  { x with cmPipe := (x.cmPipe.filter fun y => decide (c < y.1 + 8)) ++ [(c, i, old)] }

/-- A write into the decision store in cycle c. -/
def Group.dsWrote (i c : Nat) (old : BitVec 16) (x : Group) : Group :=
  { x with dsPipe := (x.dsPipe.filter fun y => decide (c < y.1 + 8)) ++ [(c, i, old)] }

theorem Chip.cmStore_eq (v : BitVec 32) : b.cmStore g i c v =
    Chip.unarmAt { b with
      mem := { b.mem with undef := (b.noteWritten (cmUnit g) (memKey g i)).mem.undef }
      slices := { b.slices with
        groups := Tab.mod {} b.slices.groups (groupKey g.r g.b) (Group.cmWrote i c (b.cmWord g i))
        err := Tab.drop (fun x => x == gmKey g 1 i) b.slices.err
        cm := Mem.set b.slices.cm (memKey g i) v } } 0x2D40 (gmKey g 1 i) := by
  unfold Chip.cmStore Chip.gmClean
  rw [b.noteWritten_eq (cmUnit g) (memKey g i)]
  rfl

theorem Chip.dsStore_eq (v : BitVec 16) : b.dsStore g i c v =
    Chip.unarmAt { b with
      mem := { b.mem with undef := (b.noteWritten (dsUnit g) (memKey g i)).mem.undef }
      slices := { b.slices with
        groups := Tab.mod {} b.slices.groups (groupKey g.r g.b) (Group.dsWrote i c (b.dsWord g i))
        err := Tab.drop (fun x => x == gmKey g 2 i) b.slices.err
        ds := Mem.set b.slices.ds (memKey g i) v } } 0x2D40 (gmKey g 2 i) := by
  unfold Chip.dsStore Chip.gmClean
  rw [b.noteWritten_eq (dsUnit g) (memKey g i)]
  rfl

theorem Area.same_gmStore {x : Area} (h : x ∉ [Area.slices, .mem, .inject]) (y : Memories) (z : Slices) (w : Inject) :
    x.same b { b with mem := y, slices := z, inject := w } := by
  cases x <;> simp_all [Area.same]

theorem Chip.alters_imStore (v : BitVec 64) : AltersRecord [.slices, .mem, .inject] g b (b.imStore g i v) := by
  rw [Chip.imStore_eq]
  exact ⟨fun _ _ => rfl, fun _ hx => Area.same_gmStore b hx _ _ _⟩

theorem Chip.alters_cmStore (v : BitVec 32) : AltersRecord [.slices, .mem, .inject] g b (b.cmStore g i c v) := by
  rw [Chip.cmStore_eq]
  exact ⟨fun _ hj => Tab.get_mod_ne _ _ _ _ _ hj, fun _ hx => Area.same_gmStore b hx _ _ _⟩

theorem Chip.alters_dsStore (v : BitVec 16) : AltersRecord [.slices, .mem, .inject] g b (b.dsStore g i c v) := by
  rw [Chip.dsStore_eq]
  exact ⟨fun _ hj => Tab.get_mod_ne _ _ _ _ _ hj, fun _ hx => Area.same_gmStore b hx _ _ _⟩

@[simp] theorem Chip.group_imStore (v : BitVec 64) (g' : Grp) : (b.imStore g i v).group g' = b.group g' := by
  rw [Chip.imStore_eq]
  rfl

theorem Chip.group_dsStore (v : BitVec 16) : (b.dsStore g i c v).group g = (b.group g).dsWrote i c (b.dsWord g i) := by
  rw [Chip.dsStore_eq]
  exact Tab.get_mod_self _ _ _ _

/-! ### Words after a store -/

/-- A store into unit u at key k is noted there and nowhere else. -/
structure NotesWord (u : MemUnit) (k : Nat) (b c : Chip) : Prop where
  here : c.undefIn u k = none
  other : ∀ u' k', (u' ≠ u ∨ k' ≠ k) → c.undefIn u' k' = b.undefIn u' k'

theorem notesWord_of_undef {u : MemUnit} {k : Nat} {b d : Chip} (h : d.mem.undef = (b.noteWritten u k).mem.undef) :
    NotesWord u k b d := by
  have hd : ∀ u' k', d.undefIn u' k' = (b.noteWritten u k).undefIn u' k' := fun u' k' => by
    unfold Chip.undefIn
    rw [h]
  exact ⟨(hd u k).trans (b.undefIn_noteWritten u k), fun u' k' h' => (hd u' k').trans (b.undefIn_noteWritten_ne h')⟩

theorem Chip.notes_imStore (v : BitVec 64) : NotesWord (imUnit g) (memKey g i) b (b.imStore g i v) :=
  notesWord_of_undef (by rw [Chip.imStore_eq]; rfl)

theorem Chip.notes_cmStore (v : BitVec 32) : NotesWord (cmUnit g) (memKey g i) b (b.cmStore g i c v) :=
  notesWord_of_undef (by rw [Chip.cmStore_eq]; rfl)

theorem Chip.notes_dsStore (v : BitVec 16) : NotesWord (dsUnit g) (memKey g i) b (b.dsStore g i c v) :=
  notesWord_of_undef (by rw [Chip.dsStore_eq]; rfl)

theorem Chip.imWord_imStore (v : BitVec 64) : (b.imStore g i v).imWord g i = v := by
  rw [Chip.imWord, (b.notes_imStore g i v).here, Chip.imStore_eq]
  exact Mem.get_set_self _ _ _

theorem Chip.cmWord_cmStore (v : BitVec 32) : (b.cmStore g i c v).cmWord g i = v := by
  rw [Chip.cmWord, (b.notes_cmStore g i c v).here, Chip.cmStore_eq]
  exact Mem.get_set_self _ _ _

theorem Chip.dsWord_dsStore (v : BitVec 16) : (b.dsStore g i c v).dsWord g i = v := by
  rw [Chip.dsWord, (b.notes_dsStore g i c v).here, Chip.dsStore_eq]
  exact Mem.get_set_self _ _ _

/-- A word of another group or index than the one written. -/
def OtherWord (g : Grp) (i : Nat) (g' : Grp) (j : Nat) : Prop := memKey g' j ≠ memKey g i

theorem otherWord_of {g g' : Grp} {i j : Nat} (hg : g.b < 64) (hg' : g'.b < 64) (hi : i < 16384) (hj : j < 16384)
    (h : g' ≠ g ∨ j ≠ i) : OtherWord g i g' j := fun hk => by
  obtain ⟨h1, h2⟩ := memKey_inj hg' hg hj hi hk
  exact h.elim (· h1) (· h2)

theorem otherWord_same {g : Grp} {i j : Nat} (h : j ≠ i) : OtherWord g i g j := fun hk => h (by
  unfold memKey at hk
  omega)

variable {g i} {g' : Grp} {j : Nat}

theorem Chip.imWord_imStore_ne (v : BitVec 64) (h : OtherWord g i g' j) : (b.imStore g i v).imWord g' j = b.imWord g' j :=
  Chip.imWord_congr ((b.notes_imStore g i v).other _ _ (.inr h)) (by
    rw [Chip.imStore_eq]
    exact Mem.get_set_ne _ _ _ _ h)

theorem Chip.cmWord_cmStore_ne (v : BitVec 32) (h : OtherWord g i g' j) :
    (b.cmStore g i c v).cmWord g' j = b.cmWord g' j :=
  Chip.cmWord_congr ((b.notes_cmStore g i c v).other _ _ (.inr h)) (by
    rw [Chip.cmStore_eq]
    exact Mem.get_set_ne _ _ _ _ h)

theorem Chip.dsWord_dsStore_ne (v : BitVec 16) (h : OtherWord g i g' j) :
    (b.dsStore g i c v).dsWord g' j = b.dsWord g' j :=
  Chip.dsWord_congr ((b.notes_dsStore g i c v).other _ _ (.inr h)) (by
    rw [Chip.dsStore_eq]
    exact Mem.get_set_ne _ _ _ _ h)

/-- A store into one memory leaves the words of the other two. -/
theorem Chip.gmWord_imStore_ne (v : BitVec 64) {space : Nat} (h : space = 0 → OtherWord g i g' j) :
    (b.imStore g i v).gmWord g' space j = b.gmWord g' space j := by
  have hn := (b.notes_imStore g i v).other
  unfold Chip.gmWord
  split
  · next h0 => rw [Chip.imWord_imStore_ne b v (h h0)]
  · split
    · rw [Chip.cmWord_congr (hn _ _ (.inl MemUnit.noConfusion)) (by rw [Chip.imStore_eq]; rfl)]
    · rw [Chip.dsWord_congr (hn _ _ (.inl MemUnit.noConfusion)) (by rw [Chip.imStore_eq]; rfl)]

theorem Chip.gmWord_cmStore_ne (v : BitVec 32) {space : Nat} (h : space = 1 → OtherWord g i g' j) :
    (b.cmStore g i c v).gmWord g' space j = b.gmWord g' space j := by
  have hn := (b.notes_cmStore g i c v).other
  unfold Chip.gmWord
  split
  · rw [Chip.imWord_congr (hn _ _ (.inl MemUnit.noConfusion)) (by rw [Chip.cmStore_eq]; rfl)]
  · split
    · next h1 => rw [Chip.cmWord_cmStore_ne b c v (h h1)]
    · rw [Chip.dsWord_congr (hn _ _ (.inl MemUnit.noConfusion)) (by rw [Chip.cmStore_eq]; rfl)]

theorem Chip.gmWord_dsStore_ne (v : BitVec 16) {space : Nat} (h : space ≠ 0 → space ≠ 1 → OtherWord g i g' j) :
    (b.dsStore g i c v).gmWord g' space j = b.gmWord g' space j := by
  have hn := (b.notes_dsStore g i c v).other
  unfold Chip.gmWord
  split
  · rw [Chip.imWord_congr (hn _ _ (.inl MemUnit.noConfusion)) (by rw [Chip.dsStore_eq]; rfl)]
  · next h0 =>
    split
    · rw [Chip.cmWord_congr (hn _ _ (.inl MemUnit.noConfusion)) (by rw [Chip.dsStore_eq]; rfl)]
    · next h1 => rw [Chip.dsWord_dsStore_ne b c v (h h0 h1)]

end

/-! ### Several elements of one row -/

/-- Elements a + l of the coefficient memory written in cycle c, for the lanes l of a list. -/
def Chip.cmStores (b : Chip) (g : Grp) (a c : Nat) (v : Nat → BitVec 32) (lanes : List Nat) : Chip :=
  lanes.foldl (fun d l => d.cmStore g (a + l) c (v l)) b

section
variable (b : Chip) (g : Grp) (a c : Nat) (v : Nat → BitVec 32) (lanes : List Nat)

theorem Chip.alters_cmStores : AltersRecord [.slices, .mem, .inject] g b (b.cmStores g a c v lanes) :=
  List.foldlRecOn lanes _ (motive := AltersRecord [.slices, .mem, .inject] g b) ⟨fun _ _ => rfl, fun x _ => Area.same_refl x b⟩
    fun _ hd _ _ => hd.trans (Chip.alters_cmStore ..)

theorem Chip.cmStores_memories : (b.cmStores g a c v lanes).slices.im = b.slices.im ∧
    (b.cmStores g a c v lanes).slices.ds = b.slices.ds :=
  List.foldlRecOn lanes _ (motive := fun d : Chip => d.slices.im = b.slices.im ∧ d.slices.ds = b.slices.ds) ⟨rfl, rfl⟩
    fun d hd l _ => by
      rw [Chip.cmStore_eq]
      exact hd

theorem Chip.gmWord_cmStores_ne {g' : Grp} {space j : Nat} (h : space = 1 → ∀ l ∈ lanes, OtherWord g (a + l) g' j) :
    (b.cmStores g a c v lanes).gmWord g' space j = b.gmWord g' space j :=
  List.foldlRecOn lanes _ (motive := fun d : Chip => d.gmWord g' space j = b.gmWord g' space j) rfl
    fun d hd l hl => (Chip.gmWord_cmStore_ne d c (v l) fun h1 => h h1 l hl).trans hd

theorem Chip.cmWord_cmStores_ne {g' : Grp} {j : Nat} (h : ∀ l ∈ lanes, OtherWord g (a + l) g' j) :
    (b.cmStores g a c v lanes).cmWord g' j = b.cmWord g' j :=
  BitVec.eq_of_toNat_eq (Chip.gmWord_cmStores_ne b g a c v lanes (space := 1) fun _ => h)

theorem Chip.cmWord_cmStores {l : Nat} (h : l ∈ lanes) : (b.cmStores g a c v lanes).cmWord g (a + l) = v l := by
  unfold Chip.cmStores
  induction lanes generalizing b with
  | nil => cases h
  | cons n lanes ih =>
    rw [List.foldl_cons]
    by_cases hl : l ∈ lanes
    · exact ih _ hl
    · obtain rfl : l = n := (List.mem_cons.mp h).resolve_right hl
      rw [← Chip.cmStores, Chip.cmWord_cmStores_ne _ _ _ _ _ _ fun m hm => otherWord_same fun he => hl ?_]
      · exact Chip.cmWord_cmStore ..
      · obtain rfl : l = m := by omega
        exact hm

/-- The group's record after such stores differs in the record of the coefficient memory's writes alone. -/
theorem Chip.group_cmStores_keep {β : Type} {w : Group → β} (h : ∀ (x : Group) cmPipe, w { x with cmPipe } = w x) :
    w ((b.cmStores g a c v lanes).group g) = w (b.group g) :=
  List.foldlRecOn lanes _ (motive := fun d : Chip => w (d.group g) = w (b.group g)) rfl fun d hd l _ => by
    rw [Chip.group_cmStore]
    exact (h _ _).trans hd

end

end Sys2Proof.Machine

/-! ## FP, trellis and result instructions (R203, R213 to R216) -/

namespace Sys2Proof.Machine
open Sys2Proof

/-! ### FP rows (R213) -/

/-- From the issue cycle to t, the other groups, the instruction memory and the areas but the slices and those of l are the
same. -/
def OthersKept (s t : State) (g : Grp) (x : Issue) (l : List Area) : Prop :=
  (∀ j, j ≠ groupKey g.r g.b → Tab.get {} t.slices.groups j = Tab.get {} (s.atIssue g x).slices.groups j) ∧
  t.slices.im = (s.atIssue g x).slices.im ∧ OnlyTouches (.slices :: l) (s.on (s.atIssue g x)) t

/-- The flags v of the enabled lanes have joined those of the set in use. -/
def JoinsFlags (s t : State) (g : Grp) (x : Issue) (v : Nat → BitVec 5) : Prop :=
  (t.group g).regs.flags =
    (enabled (s.issueCtx g x).w).foldl (fun f l => f ||| v l) ((s.atIssue g x).group g).regs.flags

/-- Each enabled lane has written ACCd with v; no other accumulator has changed. -/
def WritesAccs (s t : State) (g : Grp) (x : Issue) (v : Nat → BitVec 80) : Prop := ∀ l n, l < 8 → n < 8 →
  (t.group g).accNow l n = if n = wAccD (s.issueCtx g x).w ∧ wLane (s.issueCtx g x).w l = true then v l
    else ((s.atIssue g x).group g).accNow l n

/-- The two together; BIX, OUTR and the memories are the same. -/
def WritesOnly (s t : State) (g : Grp) (x : Issue) (v : Nat → BitVec 80 × BitVec 5) : Prop :=
  WritesAccs s t g x (fun l => (v l).1) ∧ JoinsFlags s t g x (fun l => (v l).2) ∧
  (t.group g).bix = ((s.atIssue g x).group g).bix ∧ (t.group g).outr = ((s.atIssue g x).group g).outr ∧
  t.slices.cm = (s.atIssue g x).slices.cm ∧ t.slices.ds = (s.atIssue g x).slices.ds ∧ OthersKept s t g x []

/-- Accumulator ACCa + n as an instruction in its issue cycle reads it. -/
def readAcc (s : State) (g : Grp) (x : Issue) (l n : Nat) : BitVec 80 :=
  ((s.atIssue g x).group g).accRead (s.issueCycle g x) l (wAccA (s.issueCtx g x).w + n)

section
variable {s : State} {g : Grp} {x : Issue} {op : Nat} {i : Instr} {f : Chip → Ctx → Eff}

theorem WritesLanes.only {t : State} {v : Nat → BitVec 80 × BitVec 5} (h : WritesLanes s t g x v) : WritesOnly s t g x v := by
  obtain ⟨haccs, hflags, hbix, houtr, hgroups, ⟨him, hcm, hds⟩, htouch⟩ := h
  exact ⟨haccs, hflags, hbix, houtr, hcm, hds, hgroups, him, htouch⟩

theorem writesOnly_of_accEff (h : IssuesFreely s g x op) (he : exec i s = act s fun b => b.issue g x op f)
    {v : Nat → BitVec 80 × BitVec 5} (hf : f (s.atIssue g x) (s.issueCtx g x) = accEff (s.atIssue g x) (s.issueCtx g x) v) :
    ∃ t, exec i s = .next t ∧ WritesOnly s t g x v := by
  obtain ⟨t, ht, hw⟩ := writesLanes_of_accEff h he hf
  exact ⟨t, ht, hw.only⟩

theorem accA_eq_readAcc (s : State) (g : Grp) (x : Issue) (l : Nat) :
    (s.atIssue g x).accA (s.issueCtx g x) l = readAcc s g x l 0 := by
  rw [Chip.accA_issueCtx, readAcc, Nat.add_zero]

theorem field_imm_seven (w : BitVec 64) : field (wImm w) 0 7 = wImm w % 128 := by
  simp [field]

theorem faddEff_eq : faddEff (s.atIssue g x) (s.issueCtx g x) = accEff (s.atIssue g x) (s.issueCtx g x) fun l =>
    fpWrite (fpAdd (accFp (readAcc s g x l 0)) (fpOf ((s.atIssue g x).opP (s.issueCtx g x) l))) := by
  simp only [faddEff, accA_eq_readAcc]

theorem cvtfEff_eq : cvtfEff (s.atIssue g x) (s.issueCtx g x) = accEff (s.atIssue g x) (s.issueCtx g x) fun l =>
    fpWrite (fpOfInt (readAcc s g x l 0).toInt (wImm (s.issueCtx g x).w % 128)) := by
  simp only [cvtfEff, accA_eq_readAcc, field_imm_seven]

theorem cvtiEff_eq : cvtiEff (s.atIssue g x) (s.issueCtx g x) = accEff (s.atIssue g x) (s.issueCtx g x) fun l =>
    cvtiWrite (fpToInt (accFp (readAcc s g x l 0)) (wImm (s.issueCtx g x).w % 128)) := by
  simp only [cvtiEff, accA_eq_readAcc, field_imm_seven]

theorem cvtiWrite_eq (v : Option Int) : cvtiWrite v = match v with
    | some n => narrow true n
    | none => (0#80, flagFI) := by cases v <;> rfl

end

/-! ### The winner of a trellis step (R215) -/

/-- One comparison: a smaller sum takes the place of the best so far. -/
def better (w : Nat × BitVec 80) (x : (BitVec 80 × BitVec 5) × Nat) : Nat × BitVec 80 :=
  if x.1.1.toInt < w.2.toInt then (x.2, x.1.1) else w

section
variable {l : List ((BitVec 80 × BitVec 5) × Nat)} {w : Nat × BitVec 80}

/-- Sums that are not smaller leave the best. -/
theorem foldl_better_of_le (h : ∀ x ∈ l, w.2.toInt ≤ x.1.1.toInt) : l.foldl better w = w := by
  induction l with
  | nil => rfl
  | cons x l ih =>
    have hx : better w x = w := if_neg (not_lt.mpr (h x List.mem_cons_self))
    rw [List.foldl_cons, hx]
    exact ih fun y hy => h y (List.mem_cons_of_mem _ hy)

/-- The best of sums that are all above v is above v. -/
theorem lt_foldl_better {v : Int} (hw : v < w.2.toInt) (h : ∀ x ∈ l, v < x.1.1.toInt) : v < (l.foldl better w).2.toInt := by
  induction l generalizing w with
  | nil => exact hw
  | cons x l ih =>
    refine ih ?_ fun y hy => h y (List.mem_cons_of_mem _ hy)
    unfold better
    split
    · exact h x List.mem_cons_self
    · exact hw

end

/-- The winner of sums p 0 to p (n − 1) is the first least one. -/
theorem winner_eq (p : Nat → BitVec 80 × BitVec 5) {n j : Nat} (hj : j < n)
    (hle : ∀ i, i < n → (p j).1.toInt ≤ (p i).1.toInt) (hlt : ∀ i, i < j → (p j).1.toInt < (p i).1.toInt) :
    winner ((List.range n).map p) = (j, (p j).1) := by
  have hzip : ((List.range n).map p).zipIdx = (List.range n).map fun i => (p i, i) := by
    refine List.ext_getElem (by simp) fun i _ _ => by simp
  have hsplit : List.range n = List.range j ++ j :: List.range' (j + 1) (n - (j + 1)) := by
    rw [List.range_eq_range', List.range_eq_range', ← List.range'_succ, show n - (j + 1) + 1 = n - j by omega]
    have := List.range'_append_1 (s := 0) (m := j) (n := n - j)
    rw [Nat.zero_add] at this
    rw [this, show j + (n - j) = n by omega]
  have hhead : (((List.range n).map p).headD (0#80, 0#5)).1 = (p 0).1 := by
    obtain ⟨m, rfl⟩ : ∃ m, n = m + 1 := ⟨n - 1, by omega⟩
    simp [List.range_succ_eq_map]
  have htail : ∀ x ∈ (List.range' (j + 1) (n - (j + 1))).map fun i => (p i, i), (p j).1.toInt ≤ x.1.1.toInt := by
    intro x hx
    obtain ⟨i, hi, rfl⟩ := List.mem_map.mp hx
    exact hle i (by have := List.mem_range'_1.mp hi; omega)
  have hwin : winner ((List.range n).map p) = ((List.range n).map fun i => (p i, i)).foldl better (0, (p 0).1) := by
    rw [winner, hzip, hhead]
    rfl
  rw [hwin, hsplit, List.map_append, List.foldl_append, List.map_cons, List.foldl_cons]
  rcases Nat.eq_zero_or_pos j with rfl | hpos
  · have h0 : better (0, (p 0).1) (p 0, 0) = (0, (p 0).1) := if_neg (lt_irrefl _)
    simp only [List.range_zero, List.map_nil, List.foldl_nil, h0]
    exact foldl_better_of_le htail
  · have hbefore : (p j).1.toInt < (((List.range j).map fun i => (p i, i)).foldl better (0, (p 0).1)).2.toInt := by
      refine lt_foldl_better (hlt 0 hpos) fun x hx => ?_
      obtain ⟨i, hi, rfl⟩ := List.mem_map.mp hx
      exact hlt i (List.mem_range.mp hi)
    have hnow : ∀ w : Nat × BitVec 80, (p j).1.toInt < w.2.toInt → better w (p j, j) = (j, (p j).1) := fun w hw => if_pos hw
    rw [hnow _ hbefore]
    exact foldl_better_of_le htail

/-- Digits below B of different places add up to less than B to the number of places. -/
theorem sum_digits_lt (p : Nat → Bool) (d : Nat → Nat) {B : Nat} (m : Nat) (h : ∀ l, l < m → d l < B) :
    (((List.range m).filter p).map fun l => d l * B ^ l).sum < B ^ m := by
  induction m with
  | zero => simp
  | succ m ih =>
    have h1 := ih fun l hl => h l (by omega)
    have h2 : d m * B ^ m + B ^ m ≤ B ^ (m + 1) := by
      rw [pow_succ, mul_comm (B ^ m) B, ← Nat.succ_mul]
      exact Nat.mul_le_mul_right _ (h m (by omega))
    rw [List.range_succ, List.filter_append, List.map_append, List.sum_append]
    by_cases hp : p m = true
    · simp only [List.filter_cons_of_pos hp, List.filter_nil, List.map_cons, List.map_nil, List.sum_cons, List.sum_nil]
      omega
    · simp only [List.filter_cons_of_neg hp, List.filter_nil, List.map_nil, List.sum_nil]
      omega

/-! ### An instruction that also writes a group memory -/

/-- An instruction has brought the device to c, and the sequencer has gone on. -/
structure EndsFrom (s t : State) (g : Grp) (x : Issue) (c : Chip) : Prop where
  group : t.group g = (c.group g).after (s.issueCtx g x) .next
  others : ∀ j, j ≠ groupKey g.r g.b → Tab.get {} t.slices.groups j = Tab.get {} c.slices.groups j
  kept : SlicesKept c t.toChip
  areas : ∀ a : Area, a ≠ .slices → a.same c t.toChip
  pending : t.pending = s.pending

section
variable {s t : State} {g : Grp} {x : Issue} {op : Nat} {i : Instr} {f : Chip → Ctx → Eff} {c : Chip}

theorem endsFrom_of_issues (h : IssuesFreely s g x op) (he : exec i s = act s fun b => b.issue g x op f)
    (hf : f (s.atIssue g x) (s.issueCtx g x) = .ok (c, .next))
    (hq : (c.group g).stopReq = ((s.atIssue g x).group g).stopReq) : ∃ t, exec i s = .next t ∧ EndsFrom s t g x c := by
  refine ⟨_, exec_of_issues h.1 he hf (hq.trans h.2) Flow.noConfusion, ?_, ?_, .modGroup _ _ _, ?_, rfl⟩
  · exact Chip.group_modGroup c g _
  · exact fun _ hj => Chip.groups_modGroup_ne c g _ hj
  · exact fun _ ha => Area.same_modGroup c g _ ha

/-- The words of the group memories are those that the instruction left. -/
theorem EndsFrom.gmWord (h : EndsFrom s t g x c) (g' : Grp) (space j : Nat) :
    t.gmWord g' space j = c.gmWord g' space j := by
  have hm : t.mem = c.mem := h.areas .mem (by decide)
  exact Chip.gmWord_congr (by rw [hm]) h.kept g' space j

theorem EndsFrom.cmWord (h : EndsFrom s t g x c) (g' : Grp) (j : Nat) : t.cmWord g' j = c.cmWord g' j :=
  BitVec.eq_of_toNat_eq (h.gmWord g' 1 j)

theorem EndsFrom.dsWord (h : EndsFrom s t g x c) (g' : Grp) (j : Nat) : t.dsWord g' j = c.dsWord g' j :=
  BitVec.eq_of_toNat_eq (h.gmWord g' 2 j)

theorem EndsFrom.othersKept {l : List Area} (h : EndsFrom s t g x c) (hc : AltersRecord (.slices :: l) g (s.atIssue g x) c)
    (him : c.slices.im = (s.atIssue g x).slices.im) : OthersKept s t g x l :=
  ⟨fun j hj => (h.others j hj).trans (hc.1 j hj), h.kept.1.trans him, h.pending,
    fun a ha => (hc.2 a ha).trans (h.areas a (by rintro rfl; exact ha List.mem_cons_self))⟩

theorem EndsFrom.keep {β : Type} {v : Group → β} (h : EndsFrom s t g x c) (hv : SequencerFree v) :
    v (t.group g) = v (c.group g) := by
  rw [h.group]
  exact Group.after_keep _ _ _ hv

theorem EndsFrom.flags (h : EndsFrom s t g x c) : (t.group g).regs.flags = (c.group g).regs.flags := by
  rw [h.group, Group.flags_after]

end

/-! ### ACS2 and ACS4 (R215) -/

/-- What ACS writes in a lane: the winner's sum, and the flags of all sums. -/
def Chip.acsWrite (b : Chip) (k : Ctx) (n l : Nat) : BitVec 80 × BitVec 5 :=
  ((winner (b.paths k n l)).2, (b.paths k n l).foldl (fun f y => f ||| y.2) 0#5)

/-- The byte address of the decisions. -/
def Chip.acsAddr (b : Chip) (k : Ctx) : Nat := ((b.group k.g).regs.addr (wKreg k.w)).toNat % 8192

/-- The device after an ACS that writes v into the decision store. -/
def Chip.acsEnd (b : Chip) (k : Ctx) (n v : Nat) : Chip :=
  (acsLanes b k n).dsStore k.g (b.acsAddr k / 2) (k.c + 2) (BitVec.ofNat 16 v)

/-- The halfword that ACS2 writes: the byte that it does not address stays. -/
def Chip.acs2Value (b : Chip) (k : Ctx) : Nat :=
  let d := b.decisions k 2 1
  let old := (b.dsWord k.g (b.acsAddr k / 2)).toNat
  if b.acsAddr k % 2 = 0 then old / 256 * 256 + d else old % 256 + d * 256

section
variable (b : Chip) (k : Ctx) (n v : Nat)

theorem acs2Eff_eq : acs2Eff b k = .ok (b.acsEnd k 2 (b.acs2Value k), .next) := rfl

theorem acs4Eff_eq : acs4Eff b k = .ok (b.acsEnd k 4 (b.decisions k 4 2), .next) := rfl

theorem acsLanes_eq : acsLanes b k n =
    b.modGroup k.g (Group.writeLanes k.c (wAccD k.w) (b.acsWrite k n) (enabled k.w)) := rfl

/-- The group's record: its lanes have written, and the decision store's record of writes has changed. -/
theorem Chip.group_acsEnd_keep {β : Type} {w : Group → β} (h : ∀ (x : Group) dsPipe, w { x with dsPipe } = w x) :
    w ((b.acsEnd k n v).group k.g) =
      w ((b.group k.g).writeLanes k.c (wAccD k.w) (b.acsWrite k n) (enabled k.w)) := by
  rw [Chip.acsEnd, Chip.group_dsStore, acsLanes_eq, Chip.group_modGroup]
  exact h _ _

theorem Chip.alters_acsEnd : AltersRecord [.slices, .mem, .inject] k.g b (b.acsEnd k n v) :=
  ((AltersGroup.modGroup (l := [.slices]) (by decide) b _).record (by simp)).trans (Chip.alters_dsStore ..)

theorem Chip.memories_acsEnd : (b.acsEnd k n v).slices.im = b.slices.im ∧ (b.acsEnd k n v).slices.cm = b.slices.cm := by
  rw [Chip.acsEnd, Chip.dsStore_eq]
  exact ⟨rfl, rfl⟩

theorem Chip.dsWord_acsEnd : (b.acsEnd k n v).dsWord k.g (b.acsAddr k / 2) = BitVec.ofNat 16 v := Chip.dsWord_dsStore ..

theorem Chip.dsWord_acsEnd_ne {g' : Grp} {j : Nat} (h : OtherWord k.g (b.acsAddr k / 2) g' j) :
    (b.acsEnd k n v).dsWord g' j = b.dsWord g' j := Chip.dsWord_dsStore_ne _ _ _ h

theorem Chip.acsAddr_lt : b.acsAddr k < 8192 := Nat.mod_lt _ (by decide)

end

/-- Path j of a lane in the issue cycle: its sum with its flags. -/
def pathOf (s : State) (g : Grp) (x : Issue) (l j : Nat) : BitVec 80 × BitVec 5 :=
  narrow false ((readAcc s g x l j).toInt +
    branchMetric ((s.atIssue g x).opP (s.issueCtx g x) l) ((s.atIssue g x).opQ (s.issueCtx g x) l) j)

/-- Path j is the first least one of n. -/
def BestPath (s : State) (g : Grp) (x : Issue) (n l j : Nat) : Prop := j < n ∧
  (∀ i, i < n → (pathOf s g x l j).1.toInt ≤ (pathOf s g x l i).1.toInt) ∧
  (∀ i, i < j → (pathOf s g x l j).1.toInt < (pathOf s g x l i).1.toInt)

section
variable {s : State} {g : Grp} {x : Issue} {op n v : Nat} {i : Instr} {f : Chip → Ctx → Eff} {j : Nat → Nat}

theorem paths_eq (s : State) (g : Grp) (x : Issue) (n l : Nat) :
    (s.atIssue g x).paths (s.issueCtx g x) n l = (List.range n).map (pathOf s g x l) := by
  simp only [Chip.paths, State.issueCtx_c, State.issueCtx_g]
  rfl

theorem winner_paths {l j : Nat} (h : BestPath s g x n l j) :
    winner ((s.atIssue g x).paths (s.issueCtx g x) n l) = (j, (pathOf s g x l j).1) := by
  rw [paths_eq]
  exact winner_eq _ h.1 h.2.1 h.2.2

theorem acs_ends (h : IssuesFreely s g x op) (he : exec i s = act s fun b => b.issue g x op f)
    (hf : f (s.atIssue g x) (s.issueCtx g x) = .ok ((s.atIssue g x).acsEnd (s.issueCtx g x) n v, .next))
    (hj : ∀ l, l < 8 → BestPath s g x n l (j l)) :
    ∃ t, exec i s = .next t ∧ WritesAccs s t g x (fun l => (pathOf s g x l (j l)).1) ∧
      JoinsFlags s t g x (fun l => (List.range n).foldl (fun f i => f ||| (pathOf s g x l i).2) 0#5) ∧
      (t.group g).bix = ((s.atIssue g x).group g).bix ∧ t.slices.cm = (s.atIssue g x).slices.cm ∧
      OthersKept s t g x [.mem, .inject] ∧
      t.dsWord g ((s.atIssue g x).acsAddr (s.issueCtx g x) / 2) = BitVec.ofNat 16 v ∧
      (∀ g' i, g.b < 64 → g'.b < 64 → i < 4096 → (g' ≠ g ∨ i ≠ (s.atIssue g x).acsAddr (s.issueCtx g x) / 2) →
        t.dsWord g' i = (s.atIssue g x).dsWord g' i) := by
  let k := s.issueCtx g x
  have hkg : k.g = g := State.issueCtx_g s g x
  let c := (s.atIssue g x).acsEnd k n v
  let y := ((s.atIssue g x).group g).writeLanes k.c (wAccD k.w) ((s.atIssue g x).acsWrite k n) (enabled k.w)
  have keep : ∀ {β : Type} {w : Group → β}, (∀ (x : Group) dsPipe, w { x with dsPipe } = w x) → w (c.group g) = w y :=
    fun hw => by
      have h1 := Chip.group_acsEnd_keep (s.atIssue g x) k n v hw
      rwa [hkg] at h1
  have hlanes : ∀ {β : Type} {w : Group → β}, LanesFree w → w y = w ((s.atIssue g x).group g) := fun hw =>
    Group.writeLanes_keep _ _ _ _ _ hw
  have halter := Chip.alters_acsEnd (s.atIssue g x) k n v
  have hword := Chip.dsWord_acsEnd (s.atIssue g x) k n v
  have hne := fun (g' : Grp) (j : Nat) => Chip.dsWord_acsEnd_ne (s.atIssue g x) k n v (g' := g') (j := j)
  rw [hkg] at halter hword hne
  obtain ⟨him, hcm⟩ := Chip.memories_acsEnd (s.atIssue g x) k n v
  have haddr := (s.atIssue g x).acsAddr_lt k
  obtain ⟨t, ht, hend⟩ := endsFrom_of_issues h he hf
    ((keep (w := (·.stopReq)) fun _ _ => rfl).trans (hlanes (w := (·.stopReq)) fun _ _ _ _ _ => rfl))
  refine ⟨t, ht, fun l m hl hm => ?_, ?_, ?_, hend.kept.2.1.trans hcm, hend.othersKept halter him,
    (hend.dsWord _ _).trans hword, fun g' i hg hg' hi hne' => ?_⟩
  · have hd := wAccD_lt k.w
    rw [hend.keep (v := (·.accNow l m)) fun _ => by intros; rfl, keep (w := (·.accNow l m)) fun _ _ => rfl,
      Group.accNow_writeLanes _ _ _ _ _ (by omega) (by omega), Chip.acsWrite, winner_paths (hj l hl)]
    simp only [mem_enabled, hl, true_and]
    rfl
  · unfold JoinsFlags
    rw [hend.flags, keep (w := (·.regs.flags)) fun _ _ => rfl, Group.regs_writeLanes]
    simp only [Chip.acsWrite, k, paths_eq, List.foldl_map]
  · rw [hend.keep (v := (·.bix)) fun _ => by intros; rfl, keep (w := (·.bix)) fun _ _ => rfl,
      hlanes (w := (·.bix)) fun _ _ _ _ _ => rfl]
  · rw [hend.dsWord]
    exact hne g' i (otherWord_of hg hg' (by omega) (by omega) hne')

end

/-! ### The decisions of a trellis step -/

section
variable {s : State} {g : Grp} {x : Issue} {n : Nat} {j : Nat → Nat}

theorem decisions_eq (width : Nat) (hj : ∀ l, l < 8 → BestPath s g x n l (j l)) :
    (s.atIssue g x).decisions (s.issueCtx g x) n width =
      ((enabled (s.issueCtx g x).w).map fun l => j l * 2 ^ (width * l)).sum := by
  rw [Chip.decisions, List.sum_eq_foldl, List.foldl_map]
  refine List.foldl_ext _ _ _ fun d l hl => ?_
  rw [winner_paths (hj l (mem_enabled.mp hl).1)]

theorem decisions_lt (width : Nat) (hn : n = 2 ^ width) (w : BitVec 64) (hj : ∀ l, l < 8 → BestPath s g x n l (j l)) :
    ((enabled w).map fun l => j l * 2 ^ (width * l)).sum < n ^ 8 := by
  simp only [pow_mul, ← hn]
  exact sum_digits_lt (wLane w) j 8 fun l hl => (hj l hl).1

end

/-- The halfword that an ACS of n paths leaves at byte address a, over the old one and with decisions d. -/
def acsHalf (n a old d : Nat) : Nat :=
  if n = 4 then d else if a % 2 = 0 then old / 256 * 256 + d else old % 256 + d * 256

theorem acsHalf_toNat {n a old d : Nat} (hn : n = 2 ∨ n = 4) (ho : old < 65536) (hd : d < n ^ 8) :
    (BitVec.ofNat 16 (acsHalf n a old d)).toNat = acsHalf n a old d := by
  rw [BitVec.toNat_ofNat, Nat.mod_eq_of_lt]
  unfold acsHalf
  rcases hn with rfl | rfl
  · rw [if_neg (by decide)]
    split <;> omega
  · rw [if_pos rfl]
    exact hd

theorem acs2Value_eq (b : Chip) (k : Ctx) : b.acs2Value k =
    acsHalf 2 (b.acsAddr k) (b.dsWord k.g (b.acsAddr k / 2)).toNat (b.decisions k 2 1) := by
  unfold acsHalf
  rw [if_neg (by decide)]
  rfl

theorem acs4Value_eq (b : Chip) (k : Ctx) (a old : Nat) : b.decisions k 4 2 = acsHalf 4 a old (b.decisions k 4 2) :=
  (if_pos rfl).symm

/-! ### MINP (R216) -/

/-- The sum that MINP forms for a lane, and the index it takes with it. -/
def Chip.minpSum (b : Chip) (k : Ctx) (l : Nat) : BitVec 80 × BitVec 5 :=
  narrow false ((b.accA k (sourceLane k.w l)).toInt + (b.opP k l).toInt)
def Chip.minpIndex (b : Chip) (k : Ctx) (l : Nat) : BitVec 16 :=
  if minpOwn k.w then BitVec.setWidth 16 ((b.group k.g).regs.addr (wKreg k.w))
  else (b.group k.g).bixRead k.c (sourceLane k.w l)

/-- The sum is less than ACCd. -/
def Chip.minpTakes (b : Chip) (k : Ctx) (l : Nat) : Bool := decide ((b.minpSum k l).1.toInt < (b.accD k l).toInt)

section
variable (b : Chip) (k : Ctx) (y : Group) (lanes : List Nat)

theorem minpLane_takes {l : Nat} (h : b.minpTakes k l = true) : minpLane b k y l =
    ((y.setFlags (b.minpSum k l).2).accWrite k.c l (wAccD k.w) (b.minpSum k l).1).bixWrite k.c l (b.minpIndex k l) :=
  if_pos (of_decide_eq_true h)

theorem minpLane_leaves {l : Nat} (h : ¬b.minpTakes k l = true) : minpLane b k y l = y.setFlags (b.minpSum k l).2 :=
  if_neg fun hlt => h (decide_eq_true hlt)

/-- What does not look at ACC, BIX, their pipeline and the register sets. -/
theorem minpLane_keep {β : Type} {w : Group → β} (h : ∀ (x : Group) acc bix pipe main shadow,
    w { x with acc, bix, pipe, main, shadow } = w x) (l : Nat) : w (minpLane b k y l) = w y := by
  have hf : w (y.setFlags (b.minpSum k l).2) = w y :=
    Group.setFlags_keep y w (fun z m s => h z z.acc z.bix z.pipe m s) _
  by_cases ht : b.minpTakes k l = true
  · rw [minpLane_takes b k y ht, ← hf]
    exact h (y.setFlags (b.minpSum k l).2) _ _ _ _ _
  · rw [minpLane_leaves b k y ht, hf]

theorem Group.bixNow_setFlags (f : BitVec 5) (i : Nat) : (y.setFlags f).bixNow i = y.bixNow i :=
  Group.setFlags_keep y (fun z => z.bixNow i) (fun _ _ _ => rfl) f

theorem accNow_minpLane (l : Nat) {i m : Nat} (hm : m < 16) : (minpLane b k y l).accNow i m =
    if b.minpTakes k l ∧ i = l ∧ m = wAccD k.w then (b.minpSum k l).1 else y.accNow i m := by
  have hd := wAccD_lt k.w
  by_cases ht : b.minpTakes k l = true
  · have h1 := (Group.accNow_accWrite (y.setFlags (b.minpSum k l).2) k.c l (wAccD k.w) (b.minpSum k l).1 (i := i) hm
      (by omega))
    rw [minpLane_takes b k y ht]
    refine Eq.trans ?_ (h1.trans ?_)
    · rfl
    · simp only [ht, true_and, Group.accNow_setFlags]
  · rw [minpLane_leaves b k y ht, Group.accNow_setFlags, if_neg fun h => ht h.1]

theorem bixNow_minpLane (l i : Nat) : (minpLane b k y l).bixNow i =
    if b.minpTakes k l ∧ i = l then b.minpIndex k l else y.bixNow i := by
  by_cases ht : b.minpTakes k l = true
  · rw [minpLane_takes b k y ht, Group.bixNow_bixWrite]
    simp only [ht, true_and]
    split
    · rfl
    · exact Group.bixNow_setFlags y _ i
  · rw [minpLane_leaves b k y ht, Group.bixNow_setFlags, if_neg fun h => ht h.1]

theorem accNow_minpLanes {i m : Nat} (hm : m < 16) : (lanes.foldl (minpLane b k) y).accNow i m =
    if b.minpTakes k i ∧ i ∈ lanes ∧ m = wAccD k.w then (b.minpSum k i).1 else y.accNow i m := by
  induction lanes generalizing y with
  | nil => simp
  | cons l lanes ih =>
    rw [List.foldl_cons, ih, accNow_minpLane b k y l hm]
    by_cases hl : i = l
    · subst hl
      by_cases ht : b.minpTakes k i = true <;> by_cases hd : m = wAccD k.w <;> simp [ht, hd]
    · simp [hl]

theorem bixNow_minpLanes (i : Nat) : (lanes.foldl (minpLane b k) y).bixNow i =
    if b.minpTakes k i ∧ i ∈ lanes then b.minpIndex k i else y.bixNow i := by
  induction lanes generalizing y with
  | nil => simp
  | cons l lanes ih =>
    rw [List.foldl_cons, ih, bixNow_minpLane b k y l]
    by_cases hl : i = l
    · subst hl
      by_cases ht : b.minpTakes k i = true <;> simp [ht]
    · simp [hl]

end

section
variable {s : State} {g : Grp} {x : Issue}

theorem minpSum_issueCtx (l : Nat) : (s.atIssue g x).minpSum (s.issueCtx g x) l =
    narrow false ((readAcc s g x (sourceLane (s.issueCtx g x).w l) 0).toInt +
      ((s.atIssue g x).opP (s.issueCtx g x) l).toInt) := by
  rw [Chip.minpSum, accA_eq_readAcc]

theorem minpIndex_issueCtx (l : Nat) : (s.atIssue g x).minpIndex (s.issueCtx g x) l =
    if wMode (s.issueCtx g x).w / 4 = 0 then
      BitVec.setWidth 16 (((s.atIssue g x).group g).regs.addr (wKreg (s.issueCtx g x).w))
    else ((s.atIssue g x).group g).bixRead (s.issueCycle g x) (sourceLane (s.issueCtx g x).w l) := by
  rw [Chip.minpIndex, minpOwn, State.issueCtx_g, State.issueCtx_c]
  simp only [beq_iff_eq]

theorem accD_issueCtx (l : Nat) : (s.atIssue g x).accD (s.issueCtx g x) l =
    ((s.atIssue g x).group g).accNow l (wAccD (s.issueCtx g x).w) := by
  rw [Chip.accD, State.issueCtx_g]

/-- A lane takes the sum v with index ix where it is less than its own value d, and else keeps d and its index. -/
structure MinpLeaves (v d acc : BitVec 80) (ix old bix : BitVec 16) : Prop where
  takes : v.toInt < d.toInt → acc = v ∧ bix = ix
  leaves : ¬v.toInt < d.toInt → acc = d ∧ bix = old

theorem minpLeaves_iff {v d acc : BitVec 80} {ix old bix : BitVec 16} : MinpLeaves v d acc ix old bix ↔
    if v.toInt < d.toInt then acc = v ∧ bix = ix else acc = d ∧ bix = old := by
  split
  · next ht => exact ⟨fun h => h.takes ht, fun h => ⟨fun _ => h, fun hn => absurd ht hn⟩⟩
  · next hl => exact ⟨fun h => h.leaves hl, fun h => ⟨fun hn => absurd hn hl, fun _ => h⟩⟩

theorem minpLeaves_of_takes {v d acc : BitVec 80} {ix old bix : BitVec 16} {p : Bool} (hp : p = decide (v.toInt < d.toInt))
    (ha : acc = if p then v else d) (hb : bix = if p then ix else old) : MinpLeaves v d acc ix old bix := by
  subst hp
  refine ⟨fun h => ?_, fun h => ?_⟩
  · rw [decide_eq_true h] at ha hb
    exact ⟨ha, hb⟩
  · rw [decide_eq_false h] at ha hb
    exact ⟨ha, hb⟩

/-- What MINP leaves in a lane that it names. -/
def MinpLane (s t : State) (g : Grp) (x : Issue) (l : Nat) : Prop :=
  MinpLeaves (narrow false ((readAcc s g x (sourceLane (s.issueCtx g x).w l) 0).toInt +
      ((s.atIssue g x).opP (s.issueCtx g x) l).toInt)).1
    (((s.atIssue g x).group g).accNow l (wAccD (s.issueCtx g x).w))
    ((t.group g).accNow l (wAccD (s.issueCtx g x).w))
    (if wMode (s.issueCtx g x).w / 4 = 0 then
      BitVec.setWidth 16 (((s.atIssue g x).group g).regs.addr (wKreg (s.issueCtx g x).w))
    else ((s.atIssue g x).group g).bixRead (s.issueCycle g x) (sourceLane (s.issueCtx g x).w l))
    (((s.atIssue g x).group g).bixNow l) ((t.group g).bixNow l)

theorem minp_ends (h : IssuesFreely s g x 0x2A) :
    ∃ t, exec (.minp g x) s = .next t ∧ OthersKept s t g x [] ∧ t.slices.cm = (s.atIssue g x).slices.cm ∧
      t.slices.ds = (s.atIssue g x).slices.ds ∧ (t.group g).outr = ((s.atIssue g x).group g).outr ∧
      (∀ l n, l < 8 → n < 8 → (n ≠ wAccD (s.issueCtx g x).w ∨ wLane (s.issueCtx g x).w l = false) →
        (t.group g).accNow l n = ((s.atIssue g x).group g).accNow l n) ∧
      (∀ l, l < 8 → wLane (s.issueCtx g x).w l = false → (t.group g).bixNow l = ((s.atIssue g x).group g).bixNow l) ∧
      ∀ l, l < 8 → wLane (s.issueCtx g x).w l = true → MinpLane s t g x l := by
  let b := s.atIssue g x
  let k := s.issueCtx g x
  let c := b.modGroup g fun y => (enabled k.w).foldl (minpLane b k) y
  have hf : minpEff b k = .ok (c, .next) := by rw [minpEff, State.issueCtx_g]
  have hc : c.group g = (enabled k.w).foldl (minpLane b k) (b.group g) := Chip.group_modGroup _ _ _
  have keep : ∀ {β : Type} {w : Group → β}, (∀ (x : Group) acc bix pipe main shadow,
      w { x with acc, bix, pipe, main, shadow } = w x) → w (c.group g) = w (b.group g) := fun hw => by
    rw [hc]
    exact foldl_keep _ _ (fun y l => minpLane_keep b k y hw l) _ _
  obtain ⟨t, ht, hend⟩ := endsFrom_of_issues (i := .minp g x) h rfl hf (keep (w := (·.stopReq)) fun _ _ _ _ _ _ => rfl)
  have hacc : ∀ l n, n < 16 → (t.group g).accNow l n =
      if b.minpTakes k l ∧ l ∈ enabled k.w ∧ n = wAccD k.w then (b.minpSum k l).1 else (b.group g).accNow l n := fun l n hn => by
    rw [hend.keep (v := (·.accNow l n)) fun _ => by intros; rfl, hc, accNow_minpLanes b k _ _ hn]
  have hbix : ∀ l, (t.group g).bixNow l =
      if b.minpTakes k l ∧ l ∈ enabled k.w then b.minpIndex k l else (b.group g).bixNow l := fun l => by
    rw [hend.keep (v := (·.bixNow l)) fun _ => by intros; rfl, hc, bixNow_minpLanes b k]
  have halter : AltersGroup [.slices] g b c := .modGroup (by decide) b _
  have hothers : OthersKept s t g x [] := hend.othersKept (halter.record fun _ h => h) halter.2.1.1
  obtain ⟨-, hcm, hds⟩ := halter.2.1.trans hend.kept
  refine ⟨t, ht, hothers, hcm, hds, ?_, fun l n hl hn hno => ?_, fun l hl hno => ?_, fun l hl hyes => ?_⟩
  · rw [hend.keep (v := (·.outr)) fun _ => by intros; rfl, keep (w := (·.outr)) fun _ _ _ _ _ _ => rfl]
  · rw [hacc l n (by omega), if_neg]
    rintro ⟨-, hen, hd⟩
    exact hno.elim (· hd) fun hf => Bool.false_ne_true (hf.symm.trans (mem_enabled.mp hen).2)
  · rw [hbix, if_neg]
    rintro ⟨-, hen⟩
    exact Bool.false_ne_true (hno.symm.trans (mem_enabled.mp hen).2)
  · have hen : l ∈ enabled k.w := mem_enabled.mpr ⟨hl, hyes⟩
    have hd := wAccD_lt k.w
    have h1 := hacc l (wAccD k.w) (by omega)
    have h2 := hbix l
    simp only [hen, and_true] at h1 h2
    rw [← State.issueCtx_g s g x, ← Chip.accD] at h1
    have hleaves := minpLeaves_of_takes (p := b.minpTakes k l) rfl h1 h2
    rw [minpSum_issueCtx, minpIndex_issueCtx, accD_issueCtx] at hleaves
    exact hleaves

end

/-! ### OUT and STC (R214) -/

/-- Lanes of a list write OUTR in cycle c and join their flags. -/
def Group.outLanes (c : Nat) (v : Nat → BitVec 32 × BitVec 5) (lanes : List Nat) (y : Group) : Group :=
  lanes.foldl (fun y l => (y.outrWrite c l (v l).1).setFlags (v l).2) y

/-- Lanes of a list join their flags. -/
def Group.flagLanes (v : Nat → BitVec 5) (lanes : List Nat) (y : Group) : Group := lanes.foldl (fun y l => y.setFlags (v l)) y

section
variable (y : Group) (c : Nat) (v : Nat → BitVec 32 × BitVec 5) (f : Nat → BitVec 5) (lanes : List Nat)

theorem Group.outLanes_keep {β : Type} {w : Group → β} (h : ∀ (x : Group) outr pipe main shadow,
    w { x with outr, pipe, main, shadow } = w x) : w (y.outLanes c v lanes) = w y :=
  foldl_keep w _ (fun y _ => (Group.setFlags_keep _ w (fun z => h z z.outr z.pipe) _).trans
    (h y _ _ y.main y.shadow)) lanes y

theorem Group.flagLanes_keep {β : Type} {w : Group → β} (h : ∀ (x : Group) main shadow, w { x with main, shadow } = w x) :
    w (y.flagLanes f lanes) = w y :=
  foldl_keep w _ (fun y _ => Group.setFlags_keep y w h _) lanes y

theorem Group.flags_flagLanes :
    (y.flagLanes f lanes).regs.flags = lanes.foldl (fun z l => z ||| f l) y.regs.flags := by
  unfold Group.flagLanes
  induction lanes generalizing y with
  | nil => rfl
  | cons l lanes ih => rw [List.foldl_cons, ih, Group.regs_setFlags, List.foldl_cons]

theorem Group.flags_outLanes :
    (y.outLanes c v lanes).regs.flags = lanes.foldl (fun z l => z ||| (v l).2) y.regs.flags := by
  unfold Group.outLanes
  induction lanes generalizing y with
  | nil => rfl
  | cons l lanes ih =>
    rw [List.foldl_cons, ih, Group.regs_setFlags, List.foldl_cons]
    rfl

theorem Group.outr_setFlags (z : BitVec 5) : (y.setFlags z).outr = y.outr :=
  Group.setFlags_keep y (·.outr) (fun _ _ _ => rfl) z

theorem Group.outr_outLanes (i : Nat) : Tab.get 0#32 (y.outLanes c v lanes).outr i =
    if i ∈ lanes then (v i).1 else Tab.get 0#32 y.outr i := by
  unfold Group.outLanes
  induction lanes generalizing y with
  | nil => simp
  | cons l lanes ih =>
    have h1 : Tab.get 0#32 ((y.outrWrite c l (v l).1).setFlags (v l).2).outr i =
        if i = l then (v l).1 else Tab.get 0#32 y.outr i := by
      rw [Group.outr_setFlags]
      split
      · next h => rw [h]; exact Tab.get_set_self _ _ _ _
      · next h => exact Tab.get_set_ne _ _ _ _ _ h
    rw [List.foldl_cons, ih, h1]
    by_cases hl : i = l
    · subst hl; simp
    · simp [hl]

end

/-- What OUT writes in a lane: its index with mode bit 3, and else ACCa converted. -/
def Chip.outWrite (b : Chip) (k : Ctx) (l : Nat) : BitVec 32 × BitVec 5 :=
  if bit (wMode k.w) 3 then (BitVec.setWidth 32 ((b.group k.g).bixRead k.c l), 0#5) else b.converted k l

/-- The group after OUT: sl_out shows the lanes in the fourth cycle from now. -/
def Group.outEnd (b : Chip) (k : Ctx) (y : Group) : Group :=
  { y.outLanes k.c (b.outWrite k) (enabled k.w) with
    shown := ((y.outLanes k.c (b.outWrite k) (enabled k.w)).shown.filter fun z => decide (k.c ≤ z.1)) ++
      [(k.c + 4, BitVec.ofNat 8 (wLanes k.w))] }

/-- What OUT leaves and what it shows. -/
theorem Group.outEnd_keeps (b : Chip) (k : Ctx) (y : Group) :
    (y.outEnd b k).bix = y.bix ∧ (y.outEnd b k).acc = y.acc ∧ (y.outEnd b k).stopReq = y.stopReq ∧
    (y.outEnd b k).shown.getLast? = some (k.c + 4, BitVec.ofNat 8 (wLanes k.w)) :=
  ⟨Group.outLanes_keep y _ _ _ (w := (·.bix)) fun _ _ _ _ _ => rfl,
    Group.outLanes_keep y _ _ _ (w := (·.acc)) fun _ _ _ _ _ => rfl,
    Group.outLanes_keep y _ _ _ (w := (·.stopReq)) fun _ _ _ _ _ => rfl, List.getLast?_concat⟩

theorem Group.flags_outEnd (b : Chip) (k : Ctx) (y : Group) : (y.outEnd b k).regs.flags =
    (enabled k.w).foldl (fun z l => z ||| (b.outWrite k l).2) y.regs.flags := Group.flags_outLanes y _ _ _

theorem Group.outr_outEnd (b : Chip) (k : Ctx) (y : Group) (i : Nat) : Tab.get 0#32 (y.outEnd b k).outr i =
    if i ∈ enabled k.w then (b.outWrite k i).1 else Tab.get 0#32 y.outr i := Group.outr_outLanes y _ _ _ i

theorem outEff_eq (b : Chip) (k : Ctx) : outEff b k = .ok (b.modGroup k.g (Group.outEnd b k), .next) := rfl

section
variable {s : State} {g : Grp} {x : Issue}

/-- conv of ACCa as the word selects. -/
def resultOf (s : State) (g : Grp) (x : Issue) (l : Nat) : BitVec 32 × BitVec 5 :=
  conv (readAcc s g x l 0) (wImm (s.issueCtx g x).w % 128) (wMode (s.issueCtx g x).w % 4) (bit (wMode (s.issueCtx g x).w) 2)

theorem converted_issueCtx (l : Nat) : (s.atIssue g x).converted (s.issueCtx g x) l = resultOf s g x l := by
  rw [Chip.converted, accA_eq_readAcc, field_imm_seven, resultOf]

theorem outWrite_issueCtx (l : Nat) : (s.atIssue g x).outWrite (s.issueCtx g x) l =
    if bit (wMode (s.issueCtx g x).w) 3 then
      (BitVec.setWidth 32 (((s.atIssue g x).group g).bixRead (s.issueCycle g x) l), 0#5) else resultOf s g x l := by
  rw [Chip.outWrite, converted_issueCtx, State.issueCtx_g, State.issueCtx_c]

/-- OUTR of a lane after OUT. -/
def OutLane (s t : State) (g : Grp) (x : Issue) (l : Nat) : Prop := Tab.get 0#32 (t.group g).outr l =
  if wLane (s.issueCtx g x).w l = false then Tab.get 0#32 ((s.atIssue g x).group g).outr l
  else if bit (wMode (s.issueCtx g x).w) 3 then BitVec.setWidth 32 (((s.atIssue g x).group g).bixRead (s.issueCycle g x) l)
  else (resultOf s g x l).1

theorem out_ends (h : IssuesFreely s g x 0x30) :
    ∃ t, exec (.out g x) s = .next t ∧ OthersKept s t g x [] ∧ (t.group g).bix = ((s.atIssue g x).group g).bix ∧
      JoinsFlags s t g x (fun l => if bit (wMode (s.issueCtx g x).w) 3 then 0#5 else (resultOf s g x l).2) ∧
      (t.group g).acc = ((s.atIssue g x).group g).acc ∧ t.slices.cm = (s.atIssue g x).slices.cm ∧
      t.slices.ds = (s.atIssue g x).slices.ds ∧
      (t.group g).shown.getLast? = some (s.issueCycle g x + 4, BitVec.ofNat 8 (wLanes (s.issueCtx g x).w)) ∧
      ∀ l, l < 8 → OutLane s t g x l := by
  have hf := outEff_eq (s.atIssue g x) (s.issueCtx g x)
  rw [State.issueCtx_g] at hf
  obtain ⟨hbix, hacc, hstop, hshown⟩ := Group.outEnd_keeps (s.atIssue g x) (s.issueCtx g x) ((s.atIssue g x).group g)
  have hflags := Group.flags_outEnd (s.atIssue g x) (s.issueCtx g x) ((s.atIssue g x).group g)
  have houtr := Group.outr_outEnd (s.atIssue g x) (s.issueCtx g x) ((s.atIssue g x).group g)
  have halter : AltersGroup [.slices] g (s.atIssue g x)
      ((s.atIssue g x).modGroup g (Group.outEnd (s.atIssue g x) (s.issueCtx g x))) := .modGroup (by decide) _ _
  have hg := Chip.group_modGroup (s.atIssue g x) g (Group.outEnd (s.atIssue g x) (s.issueCtx g x))
  rw [← hg] at hbix hacc hstop hshown hflags houtr
  obtain ⟨t, ht, hend⟩ := endsFrom_of_issues (i := .out g x) h rfl hf hstop
  obtain ⟨him, hcm, hds⟩ := halter.2.1
  refine ⟨t, ht, hend.othersKept (halter.record fun _ h => h) him, ?_, ?_, ?_, hend.kept.2.1.trans hcm,
    hend.kept.2.2.trans hds, ?_, fun l hl => ?_⟩
  · rw [hend.keep (v := (·.bix)) fun _ => by intros; rfl, hbix]
  · unfold JoinsFlags
    rw [hend.flags, hflags]
    simp only [outWrite_issueCtx, apply_ite Prod.snd]
  · rw [hend.keep (v := (·.acc)) fun _ => by intros; rfl, hacc]
  · rw [hend.keep (v := (·.shown)) fun _ => by intros; rfl, hshown, State.issueCtx_c]
  · unfold OutLane
    rw [hend.keep (v := (·.outr)) fun _ => by intros; rfl, houtr, outWrite_issueCtx, apply_ite Prod.fst]
    by_cases hw : wLane (s.issueCtx g x).w l = true
    · rw [if_pos (mem_enabled.mpr ⟨hl, hw⟩), if_neg (Bool.eq_false_iff.not.mpr (not_not.mpr hw))]
    · rw [if_neg (mt (fun hm => (mem_enabled.mp hm).2) hw), if_pos (Bool.eq_false_iff.mpr hw)]

/-- The first element of the row that STC writes. -/
def Chip.stcBase (b : Chip) (k : Ctx) : Nat := ((b.group k.g).regs.addr (wPAreg k.w)).toNat / 8 * 8

/-- The device after the writes of STC. -/
def Chip.stcWrites (b : Chip) (k : Ctx) : Chip :=
  b.cmStores k.g (b.stcBase k) k.c (fun l => (b.converted k l).1) (enabled k.w)

/-- The group after STC. -/
def Group.stcEnd (b : Chip) (k : Ctx) (y : Group) : Group :=
  { y.flagLanes (fun l => (b.converted k l).2) (enabled k.w) with stcAt := some k.c }

theorem stcEff_eq (b : Chip) (k : Ctx) :
    stcEff b k = .ok ((b.stcWrites k).modGroup k.g (Group.stcEnd b k), .next) := rfl

theorem Chip.stcBase_add_lt (b : Chip) (k : Ctx) {l : Nat} (h : l < 8) : b.stcBase k + l < 16384 := by
  have := ((b.group k.g).regs.addr (wPAreg k.w)).isLt
  unfold Chip.stcBase
  omega

theorem Group.stcEnd_keep (b : Chip) (k : Ctx) (y : Group) {β : Type} {w : Group → β}
    (h : ∀ (x : Group) main shadow stcAt, w { x with main, shadow, stcAt } = w x) : w (y.stcEnd b k) = w y :=
  (h _ _ _ _).trans (Group.flagLanes_keep y _ _ fun x main shadow => h x main shadow x.stcAt)

theorem stc_ends (h : IssuesFreely s g x 0x31) :
    ∃ t, exec (.stc g x) s = .next t ∧ OthersKept s t g x [.mem, .inject] ∧
      (t.group g).bix = ((s.atIssue g x).group g).bix ∧ (t.group g).outr = ((s.atIssue g x).group g).outr ∧
      JoinsFlags s t g x (fun l => (resultOf s g x l).2) ∧ (t.group g).stcAt = some (s.issueCycle g x) ∧
      (t.group g).acc = ((s.atIssue g x).group g).acc ∧ t.slices.ds = (s.atIssue g x).slices.ds ∧
      let a := (s.atIssue g x).stcBase (s.issueCtx g x)
      (∀ l, l < 8 → wLane (s.issueCtx g x).w l = true → t.cmWord g (a + l) = (resultOf s g x l).1) ∧
      (∀ i, i < 16384 → (∀ l, l < 8 → wLane (s.issueCtx g x).w l = true → i ≠ a + l) →
        t.cmWord g i = (s.atIssue g x).cmWord g i) ∧
      (∀ g' i, g.b < 64 → g'.b < 64 → g' ≠ g → i < 16384 → t.cmWord g' i = (s.atIssue g x).cmWord g' i) := by
  let b := s.atIssue g x
  let k := s.issueCtx g x
  let v := fun l => (b.converted k l).1
  let d := b.cmStores g (b.stcBase k) k.c v (enabled k.w)
  let c := d.modGroup g (Group.stcEnd b k)
  have hf : stcEff b k = .ok (c, .next) := by rw [stcEff_eq, Chip.stcWrites, State.issueCtx_g]
  have hc : c.group g = (d.group g).stcEnd b k := Chip.group_modGroup _ _ _
  have keep : ∀ {β : Type} {w : Group → β}, (∀ (x : Group) main shadow stcAt, w { x with main, shadow, stcAt } = w x) →
      (∀ (x : Group) cmPipe, w { x with cmPipe } = w x) → w (c.group g) = w (b.group g) := fun h1 h2 => by
    rw [hc, Group.stcEnd_keep _ _ _ h1]
    exact Chip.group_cmStores_keep b g _ _ _ _ h2
  obtain ⟨t, ht, hend⟩ := endsFrom_of_issues (i := .stc g x) h rfl hf (keep (w := (·.stopReq)) (fun _ _ _ _ => rfl) fun _ _ => rfl)
  have halter : AltersGroup [.slices] g d c := .modGroup (by decide) d _
  have hrecord : AltersRecord [.slices, .mem, .inject] g b c :=
    (Chip.alters_cmStores b g _ _ _ _).trans (halter.record (by simp))
  obtain ⟨him, hds⟩ := Chip.cmStores_memories b g (b.stcBase k) k.c v (enabled k.w)
  have hword : ∀ g' i, t.cmWord g' i = d.cmWord g' i := fun g' i => hend.cmWord g' i
  refine ⟨t, ht, hend.othersKept hrecord (halter.2.1.1.trans him), ?_, ?_, ?_, ?_, ?_,
    hend.kept.2.2.trans (halter.2.1.2.2.trans hds), fun l hl hw => ?_, fun i hi hno => ?_, fun g' i hg hg' hne hi => ?_⟩
  · rw [hend.keep (v := (·.bix)) fun _ => by intros; rfl, keep (w := (·.bix)) (fun _ _ _ _ => rfl) fun _ _ => rfl]
  · rw [hend.keep (v := (·.outr)) fun _ => by intros; rfl, keep (w := (·.outr)) (fun _ _ _ _ => rfl) fun _ _ => rfl]
  · have hfl : ((d.group g).stcEnd b k).regs.flags =
        (enabled k.w).foldl (fun z l => z ||| (b.converted k l).2) (d.group g).regs.flags := Group.flags_flagLanes _ _ _
    have hd : (d.group g).regs.flags = (b.group g).regs.flags :=
      Chip.group_cmStores_keep b g _ _ _ _ (w := (·.regs.flags)) fun _ _ => rfl
    unfold JoinsFlags
    rw [hend.flags, hc, hfl, hd]
    simp only [b, k, converted_issueCtx]
  · rw [hend.keep (v := (·.stcAt)) fun _ => by intros; rfl, hc, Group.stcEnd, State.issueCtx_c]
  · rw [hend.keep (v := (·.acc)) fun _ => by intros; rfl, keep (w := (·.acc)) (fun _ _ _ _ => rfl) fun _ _ => rfl]
  · rw [hword, Chip.cmWord_cmStores _ _ _ _ _ _ (mem_enabled.mpr ⟨hl, hw⟩)]
    exact congrArg Prod.fst (converted_issueCtx l)
  · rw [hword]
    exact Chip.cmWord_cmStores_ne _ _ _ _ _ _ fun l hl =>
      otherWord_same (hno l (mem_enabled.mp hl).1 (mem_enabled.mp hl).2)
  · rw [hword]
    exact Chip.cmWord_cmStores_ne _ _ _ _ _ _ fun l hl =>
      otherWord_of hg hg' (b.stcBase_add_lt k (mem_enabled.mp hl).1) hi (.inl hne)

end

/-! ### The clauses of O27 -/

section
variable {s t : State} {g : Grp} {x : Issue} {op n v : Nat} {i : Instr} {f : Chip → Ctx → Eff} {j : Nat → Nat}

/-- The decisions of the enabled lanes, n / 2 bits each. -/
def decisionBits (s : State) (g : Grp) (x : Issue) (n : Nat) (j : Nat → Nat) : Nat :=
  ((enabled (s.issueCtx g x).w).map fun l => j l * 2 ^ (n / 2 * l)).sum

/-- What an ACS of n paths does, where path j l of lane l is the best. -/
def AcsEnds (s t : State) (g : Grp) (x : Issue) (n : Nat) (j : Nat → Nat) : Prop :=
  let a := (s.atIssue g x).acsAddr (s.issueCtx g x)
  WritesAccs s t g x (fun l => (pathOf s g x l (j l)).1) ∧
  JoinsFlags s t g x (fun l => (List.range n).foldl (fun f i => f ||| (pathOf s g x l i).2) 0#5) ∧
  (t.group g).bix = ((s.atIssue g x).group g).bix ∧ t.slices.cm = (s.atIssue g x).slices.cm ∧
  OthersKept s t g x [.mem, .inject] ∧
  (t.dsWord g (a / 2)).toNat = acsHalf n a ((s.atIssue g x).dsWord g (a / 2)).toNat (decisionBits s g x n j) ∧
  (∀ g' i, g.b < 64 → g'.b < 64 → i < 4096 → (g' ≠ g ∨ i ≠ a / 2) → t.dsWord g' i = (s.atIssue g x).dsWord g' i)

theorem acsEnds_of_eff (h : IssuesFreely s g x op) (he : exec i s = act s fun b => b.issue g x op f)
    (hf : f (s.atIssue g x) (s.issueCtx g x) = .ok ((s.atIssue g x).acsEnd (s.issueCtx g x) n v, .next))
    (hn : n = 2 ∨ n = 4) (hj : ∀ l, l < 8 → BestPath s g x n l (j l))
    (hv : v = acsHalf n ((s.atIssue g x).acsAddr (s.issueCtx g x))
      ((s.atIssue g x).dsWord g ((s.atIssue g x).acsAddr (s.issueCtx g x) / 2)).toNat (decisionBits s g x n j)) :
    ∃ t, exec i s = .next t ∧ AcsEnds s t g x n j := by
  obtain ⟨t, ht, haccs, hflags, hbix, hcm, hothers, hword, hne⟩ := acs_ends h he hf hj
  have hd : decisionBits s g x n j < n ^ 8 := decisions_lt (n / 2) (by rcases hn with rfl | rfl <;> rfl) _ hj
  refine ⟨t, ht, haccs, hflags, hbix, hcm, hothers, ?_, hne⟩
  rw [hword, hv]
  exact acsHalf_toNat hn (BitVec.isLt _) hd

theorem acs2_ends (h : IssuesFreely s g x 0x28) (hj : ∀ l, l < 8 → BestPath s g x 2 l (j l)) :
    ∃ t, exec (.acs2 g x) s = .next t ∧ AcsEnds s t g x 2 j :=
  acsEnds_of_eff h rfl (acs2Eff_eq _ _) (.inl rfl) hj (by
    rw [acs2Value_eq, decisions_eq 1 hj, State.issueCtx_g, decisionBits])

theorem acs4_ends (h : IssuesFreely s g x 0x29) (hj : ∀ l, l < 8 → BestPath s g x 4 l (j l)) :
    ∃ t, exec (.acs4 g x) s = .next t ∧ AcsEnds s t g x 4 j :=
  acsEnds_of_eff h rfl (acs4Eff_eq _ _) (.inr rfl) hj ((acs4Value_eq _ _ _ _).trans (by
    rw [decisions_eq 2 hj, decisionBits]))

end

/-- Settles O27: the FP rows are writes of the enabled lanes; ACS also writes its decisions, STC elements of its row, and MINP
and OUT the indices and OUTR, with the first least sum as the winner. -/
theorem fpTrellisAndResultInstructions : Obligations.FpTrellisAndResultInstructions := by
  unfold Obligations.FpTrellisAndResultInstructions
  intro op1 op2 accD accR fp inv lanes others flags accs writes issues result metric path best
  have hR : accR = readAcc := rfl
  have hothers : others = OthersKept := rfl
  have hflags : flags = JoinsFlags := rfl
  have haccs : accs = WritesAccs := rfl
  have hwrites : writes = WritesOnly := rfl
  have hresult : result = resultOf := rfl
  have hpath : path = pathOf := rfl
  have hbest : best = BestPath := rfl
  have hinv : inv = fpWrite := rfl
  have hfp : fp = accFp := rfl
  have hD : accD = fun s g x l => (s.atIssue g x).accD (s.issueCtx g x) l := by
    funext s g x l
    exact (accD_issueCtx l).symm
  rw [hothers, hflags, haccs, hwrites, hresult, hpath, hbest, hinv, hfp, hD, hR]
  refine ⟨fun s g x h => ?fma, fun s g x h => ?fms, fun s g x h => ?fmul, fun s g x h => ?fadd, fun s g x h => ?cvtf,
    fun s g x h => ?cvti, fun i op n hi s g x j h hj => ?acs, fun s g x h => ?minp, fun s g x h => ?out, fun s g x h => ?stc⟩
  case fma => exact writesOnly_of_accEff h rfl rfl
  case fms => exact writesOnly_of_accEff h rfl rfl
  case fmul => exact writesOnly_of_accEff h rfl rfl
  case fadd => exact writesOnly_of_accEff h rfl faddEff_eq
  case cvtf => exact writesOnly_of_accEff h rfl cvtfEff_eq
  case cvti =>
    have hw := writesOnly_of_accEff (i := .cvti g x) h rfl cvtiEff_eq
    simp only [cvtiWrite_eq] at hw
    exact hw
  case acs =>
    simp only [List.mem_cons, Prod.mk.injEq, List.not_mem_nil, or_false] at hi
    rcases hi with ⟨rfl, rfl, rfl⟩ | ⟨rfl, rfl, rfl⟩
    · exact acs2_ends h hj
    · exact acs4_ends h hj
  case minp =>
    have hm := minp_ends h
    simp only [MinpLane, minpLeaves_iff, ← accD_issueCtx] at hm
    exact hm
  case out => exact out_ends h
  case stc => exact stc_ends h

end Sys2Proof.Machine

/-! ## The accesses of the fabric and of the dictionary (R203, R225 to R235) -/

namespace Sys2Proof.Machine
open Sys2Proof

/-! ### A row of elements as one word -/

theorem ofBytes_append (l m : Bytes) : ofBytes (l ++ m) = ofBytes l + 256 ^ l.length * ofBytes m := by
  induction l with
  | nil => simp [ofBytes]
  | cons x l ih =>
    rw [List.cons_append, ofBytes, ih, ofBytes, List.length_cons, pow_succ]
    ring

/-- Element e of a row, as a field of its bytes. -/
theorem ofBytes_elements (l : List (BitVec 32)) {e : Nat} (he : e < l.length) :
    ofBytes (l.flatMap fun x => toBytes 4 x.toNat) / 2 ^ (32 * e) % 2 ^ 32 = l[e].toNat := by
  induction l generalizing e with
  | nil => simp at he
  | cons x l ih =>
    have hx : x.toNat < 256 ^ 4 := x.isLt
    have hcons : ofBytes ((x :: l).flatMap fun x => toBytes 4 x.toNat) =
        x.toNat + 2 ^ 32 * ofBytes (l.flatMap fun x => toBytes 4 x.toNat) := by
      rw [List.flatMap_cons, ofBytes_append, ofBytes_toBytes hx, length_toBytes]
      norm_num
    rw [hcons]
    cases e with
    | zero =>
      rw [mul_zero, pow_zero, Nat.div_one, Nat.add_mul_mod_self_left, Nat.mod_eq_of_lt x.isLt]
      rfl
    | succ e =>
      have hdiv : (x.toNat + 2 ^ 32 * ofBytes (l.flatMap fun x => toBytes 4 x.toNat)) / 2 ^ 32 =
          ofBytes (l.flatMap fun x => toBytes 4 x.toNat) := by
        rw [Nat.add_mul_div_left _ _ (by positivity), Nat.div_eq_of_lt x.isLt, zero_add]
      rw [mul_add, mul_one, pow_add, mul_comm (2 ^ (32 * e)), ← Nat.div_div_eq_div_mul, hdiv]
      exact ih (by simpa using he)

theorem length_elements (l : List (BitVec 32)) : (l.flatMap fun x => toBytes 4 x.toNat).length = 4 * l.length := by
  induction l with
  | nil => rfl
  | cons x l ih =>
    rw [List.flatMap_cons, List.length_append, ih, length_toBytes, List.length_cons]
    omega

/-- A lane of a row of eight elements is its element. -/
theorem busLane_rowBits {l : List (BitVec 32)} (hl : l.length = 8) {e : Nat} (he : e < l.length) :
    busLane (rowBits l) e = l[e] := by
  have hlt := ofBytes_lt (l.flatMap fun x => toBytes 4 x.toNat)
  rw [length_elements, hl] at hlt
  refine BitVec.eq_of_toNat_eq ?_
  rw [busLane, rowBits, BitVec.toNat_setWidth, BitVec.toNat_ushiftRight, BitVec.toNat_ofNat, Nat.mod_eq_of_lt (b := 2 ^ 256) hlt,
    Nat.shiftRight_eq_div_pow]
  exact ofBytes_elements l he

/-! ### Doing something as of an earlier tick -/

section
variable {l : List Area} {g : Grp} {b : Chip} {f : Chip → Chip} {t : Nat}

/-- The device as of a tick. -/
def Chip.atTick (b : Chip) (t : Nat) : Chip := { b with belfry := { b.belfry with tick := t } }

theorem Chip.asOf_eq (b : Chip) (t : Nat) (f : Chip → Chip) : b.asOf t f =
    { f (b.atTick t) with belfry := { (f (b.atTick t)).belfry with tick := b.now } } := rfl

/-- What is done as of a tick alters what it alters there, but not the time. -/
theorem AltersRecord.asOf (h : AltersRecord l g (b.atTick t) (f (b.atTick t))) : AltersRecord l g b (b.asOf t f) := by
  refine ⟨h.1, fun x hx => ?_⟩
  have hs := h.2 x hx
  by_cases hbel : x = .belfry
  · subst hbel
    have hs' : (f (b.atTick t)).belfry = { b.belfry with tick := t } := hs
    show (b.asOf t f).belfry = b.belfry
    rw [Chip.asOf_eq, hs']
    rfl
  · rw [Chip.asOf_eq]
    exact (Area.same_belfry hbel b _).trans (hs.trans (Area.same_belfry hbel _ _))

end

/-! ### A coefficient access in its own cycle (R226) -/

section
variable {b d : Chip} {g : Grp} {c : Nat}

/-- The port takes an access: the group's clock passes edges, the memory is not under test, no access waits and none has been
taken in this cycle. -/
structure CmFree (d : Chip) (g : Grp) : Prop where
  clock : d.groupClock g = true
  untested : d.underTest (cmUnit g) = false
  notHeld : (d.group g).cmHeld = none
  notTaken : (d.group g).cmTaken ≠ some (d.groupCycle g)

/-- The group with an access that waits. -/
def Group.holds (a : CmAccess) (x : Group) : Group := { x with cmHeld := some a }

/-- An access that waits changes nothing of what the sequencer uses. -/
theorem Chip.cmUse_holds (d : Chip) (g : Grp) (a : CmAccess) (c : Nat) : (d.modGroup g (Group.holds a)).cmUse g c = d.cmUse g c := by
  have key : ∀ x : Group, ((x.holds a).takeEvent c).last = (x.takeEvent c).last ∧
      ((x.holds a).takeEvent c).gap = (x.takeEvent c).gap ∧ ((x.holds a).takeEvent c).pc = (x.takeEvent c).pc ∧
      ((x.holds a).takeEvent c).running = (x.takeEvent c).running := by
    intro x
    have h1 : (x.holds a).takeEvent c = (x.takeEvent c).holds a := by
      unfold Group.takeEvent
      by_cases h : x.running = true ∧ x.handler = none ∧ x.rep = 0
      · rw [if_pos h, if_pos (show (x.holds a).running = true ∧ (x.holds a).handler = none ∧ (x.holds a).rep = 0 from h),
          show (x.holds a).eventReady c = x.eventReady c from rfl]
        cases x.eventReady c <;> rfl
      · rw [if_neg h, if_neg (show ¬((x.holds a).running = true ∧ (x.holds a).handler = none ∧ (x.holds a).rep = 0) from h)]
    rw [h1]
    exact ⟨rfl, rfl, rfl, rfl⟩
  have hw : ∀ i, (d.modGroup g (Group.holds a)).imWord g i = d.imWord g i := fun _ => rfl
  obtain ⟨h1, h2, h3, h4⟩ := key (d.group g)
  simp only [Chip.cmUse, Chip.group_modGroup, h1, h2, h3, h4, hw]
  rfl

theorem Chip.cmPresent_free (h : CmFree ((b).settleGroup g) g) (we : Bool) (row : Nat) (data : BitVec 256) (later : Bool) :
    b.cmPresent g we row data later =
      let d := b.settleGroup g
      let e := d.modGroup g (Group.holds { cyc := d.groupCycle g, we, row, data })
      if later then e else e.cmSettle g (d.groupCycle g + 1) := by
  have hheld : ((((b.settleGroup g).group g).cmHeld.isSome) ||
      ((b.settleGroup g).group g).cmTaken == some ((b.settleGroup g).groupCycle g)) = false := by
    rw [h.notHeld]
    simpa using h.notTaken
  simp only [Chip.cmPresent, h.clock, h.untested, hheld, Bool.not_true, Bool.false_eq_true, if_false]
  rfl

/-- The cycles in which an access that was presented in cycle c competes before c + 1. -/
theorem find_competing {p : Nat → Bool} : (List.range 4).find? (fun k => decide (c + k < c + 1) && p (c + k)) =
    if p c then some 0 else none := by
  have h : ∀ k, (decide (c + (k + 1) < c + 1) && p (c + (k + 1))) = false := fun k => by simp
  rw [show List.range 4 = [0, 0 + 1, 1 + 1, 2 + 1] from rfl, List.find?_cons, List.find?_cons, List.find?_cons, List.find?_cons,
    h 0, h 1, h 2]
  by_cases hp : p c = true <;> simp [hp]

/-- The sequencer leaves the access its cycle: it is taken there. -/
theorem Chip.cmSettle_taken {a : CmAccess} (ha : a.cyc = c) (hu : d.cmUse g c ≤ 1) :
    (d.modGroup g (Group.holds a)).cmSettle g (c + 1) =
      (d.modGroup g (Group.holds a)).asOf ((d.modGroup g (Group.holds a)).groupTick g c) fun e => e.cmTake g a c := by
  subst ha
  have hf := find_competing (c := a.cyc) (p := fun c => decide (d.cmUse g c ≤ 1))
  have hh : ((d.modGroup g (Group.holds a)).group g).cmHeld = some a := by rw [Chip.group_modGroup, Group.holds]
  rw [if_pos (decide_eq_true hu)] at hf
  simp only [Chip.cmSettle, hh, Chip.cmUse_holds, hf]
  rfl

/-- The sequencer needs both accesses of the cycle: the fabric's waits. -/
theorem Chip.cmSettle_waits {a : CmAccess} (ha : a.cyc = c) (hu : ¬d.cmUse g c ≤ 1) :
    (d.modGroup g (Group.holds a)).cmSettle g (c + 1) = d.modGroup g (Group.holds { a with cyc := c + 1 }) := by
  subst ha
  have hf := find_competing (c := a.cyc) (p := fun c => decide (d.cmUse g c ≤ 1))
  have hh : ((d.modGroup g (Group.holds a)).group g).cmHeld = some a := by rw [Chip.group_modGroup, Group.holds]
  rw [if_neg (by simpa using hu)] at hf
  simp only [Chip.cmSettle, hh, Chip.cmUse_holds, hf]
  rw [Nat.max_eq_right (Nat.le_succ _), Chip.modGroup_modGroup]
  rfl

/-! ### The access that is taken -/

/-- The group as the access leaves it before it moves data. -/
def Group.takes (c : Nat) (x : Group) : Group := { x with cmHeld := none, cmTaken := some c }

theorem rowElements_eq {row : Nat} (h : row < 2048) : rowElements row = (List.range 8).map fun e => 8 * row + e := by
  rw [rowElements, Nat.mod_eq_of_lt h]

/-- What a read in cycle c shows two cycles later. -/
def readOut (data : BitVec 256) (c : Nat) (cor err : Bool) : PortOut := { data, cor, err, valid := true, at_ := c + 2 }

/-- A row as it stood at the start of cycle c. -/
def Chip.rowAt (e : Chip) (g : Grp) (row c : Nat) : BitVec 256 :=
  rowBits ((List.range 8).map fun i => e.cmAt g (8 * row + i) c)

/-- A result at the coefficient port. -/
def Group.showsRow (c : Nat) (o : PortOut) (x : Group) : Group := { x with cmOut := addOut x.cmOut c o }

/-- A read of a row without wrong bits. -/
theorem Chip.cmTake_read {e : Chip} {a : CmAccess} (hw : a.we = false) (hrow : a.row < 2048)
    (h : ∀ i, i < 8 → (e.gmErr g 1 (8 * a.row + i)).1 = 0) :
    e.cmTake g a c = e.modGroup g fun x => (x.takes c).showsRow c (readOut (e.rowAt g a.row c) c false false) := by
  let e' := e.modGroup g (Group.takes c)
  have hclean : ∀ i ∈ (rowElements a.row).map fun i => (i, 0xFF), (e'.gmErr g 1 i.1).1 = 0 := by
    intro i hi
    rw [rowElements_eq hrow, List.map_map] at hi
    obtain ⟨n, hn, rfl⟩ := List.mem_map.mp hi
    exact h n (List.mem_range.mp hn)
  have hout : rowBits ((rowElements a.row).map fun i => e'.cmAt g i c) = e.rowAt g a.row c := by
    have hat : ∀ i, e'.cmAt g i c = e.cmAt g i c := fun i => by
      unfold Chip.cmAt
      rw [Chip.group_modGroup]
      rfl
    simp only [hat, rowElements_eq hrow, List.map_map]
    rfl
  have hmeet : (e.modGroup g fun x => { x with cmHeld := none, cmTaken := some c }).gmMeetAll g 1
      ((rowElements a.row).map fun i => (i, 0xFF)) = (e', false, false) := Chip.gmMeetAll_clean hclean
  rw [← hout]
  simp only [Chip.cmTake, hw, Bool.false_eq_true, if_false, hmeet]
  exact Chip.modGroup_modGroup e g _ _

theorem Chip.cmTake_write {e : Chip} {a : CmAccess} (hw : a.we = true) (hrow : a.row < 2048) : e.cmTake g a c =
    (e.modGroup g (Group.takes c)).cmStores g (8 * a.row) c (busLane a.data) (List.range 8) := by
  unfold Chip.cmTake
  rw [if_pos hw, Nat.mod_eq_of_lt hrow]
  rfl

end

/-! ### cm_en (R226) -/

section
variable {b : Chip} {g : Grp} {f : Chip → Chip} {t : Nat} {F : Group → Group}

/-- A change of one record as of a tick is that change. -/
theorem Chip.asOf_modGroup (h : f (b.atTick t) = (b.atTick t).modGroup g F) : b.asOf t f = b.modGroup g F := by
  rw [Chip.asOf_eq, h]
  rfl

theorem Chip.rowAt_congr {d e : Chip} {c : Nat} (hp : (e.group g).cmPipe = (d.group g).cmPipe)
    (hw : ∀ i, e.cmWord g i = d.cmWord g i) (row : Nat) : e.rowAt g row c = d.rowAt g row c := by
  unfold Chip.rowAt Chip.cmAt
  rw [hp]
  simp only [hw]

/-- The record of a group whose read of a row is taken. -/
def Group.reads (a : CmAccess) (c : Nat) (row : BitVec 256) (x : Group) : Group :=
  ((x.holds a).takes c).showsRow c (readOut row c false false)

theorem Chip.atTick_modGroup (d : Chip) : (d.modGroup g F).atTick t = (d.atTick t).modGroup g F := rfl

theorem Chip.rowAt_atTick_modGroup (d : Chip) (hF : ∀ x, (F x).cmPipe = x.cmPipe) (row c : Nat) :
    ((d.modGroup g F).atTick t).rowAt g row c = d.rowAt g row c := by
  have hword : ∀ i, ((d.modGroup g F).atTick t).cmWord g i = d.cmWord g i := fun i =>
    BitVec.eq_of_toNat_eq (Chip.gmWord_congr (b := d) rfl ⟨rfl, rfl, rfl⟩ g 1 i)
  refine Chip.rowAt_congr ?_ hword row
  rw [Chip.atTick_modGroup, Chip.group_modGroup, hF]
  rfl

theorem Chip.asOf_cmTake_read (d : Chip) {a : CmAccess} {c : Nat} (hw : a.we = false) (hrow : a.row < 2048)
    (h : ∀ i, i < 8 → (d.gmErr g 1 (8 * a.row + i)).1 = 0) :
    ((d.modGroup g (Group.holds a)).asOf t fun e => e.cmTake g a c) =
      d.modGroup g (Group.reads a c (d.rowAt g a.row c)) := by
  have hread := Chip.cmTake_read (e := (d.modGroup g (Group.holds a)).atTick t) (g := g) (c := c) hw hrow h
  rw [Chip.rowAt_atTick_modGroup (F := Group.holds a) d fun _ => rfl] at hread
  rw [Chip.asOf_modGroup hread, Chip.modGroup_modGroup]
  rfl

/-- A read that finds the port free and a cycle left is taken. -/
theorem Chip.cmRead_taken {row : Nat} (hrow : row < 2048) (hfree : CmFree (b.settleGroup g) g)
    (hu : (b.settleGroup g).cmUse g ((b.settleGroup g).groupCycle g) ≤ 1)
    (hclean : ∀ e, e < 8 → ((b.settleGroup g).gmErr g 1 (8 * row + e)).1 = 0) :
    b.cmPresent g false row 0#256 false = (b.settleGroup g).modGroup g
      (Group.reads { cyc := (b.settleGroup g).groupCycle g, we := false, row, data := 0#256 }
        ((b.settleGroup g).groupCycle g) ((b.settleGroup g).rowAt g row ((b.settleGroup g).groupCycle g))) := by
  rw [Chip.cmPresent_free hfree]
  generalize b.settleGroup g = d at hfree hu hclean ⊢
  simp only [Bool.false_eq_true, if_false]
  rw [Chip.cmSettle_taken rfl hu, Chip.asOf_cmTake_read d rfl hrow hclean]

/-- A write that is taken: the group notes the access, and the row's elements are written. -/
def Chip.cmWrites (d : Chip) (g : Grp) (a : CmAccess) (c : Nat) : Chip :=
  (d.modGroup g fun x => (x.holds a).takes c).cmStores g (8 * a.row) c (busLane a.data) (List.range 8)

theorem Chip.asOf_cmTake_write (d : Chip) {a : CmAccess} {c : Nat} (hw : a.we = true) (hrow : a.row < 2048) :
    ((d.modGroup g (Group.holds a)).asOf t fun e => e.cmTake g a c) = d.asOf t fun e => e.cmWrites g a c := by
  have hwrite : ((d.modGroup g (Group.holds a)).atTick t).cmTake g a c = (d.atTick t).cmWrites g a c := by
    rw [Chip.cmTake_write hw hrow, Chip.atTick_modGroup, Chip.modGroup_modGroup]
    rfl
  rw [Chip.asOf_eq, Chip.asOf_eq, hwrite]
  rfl

theorem Chip.cmWrite_taken {row : Nat} (hrow : row < 2048) (hfree : CmFree (b.settleGroup g) g)
    (hu : (b.settleGroup g).cmUse g ((b.settleGroup g).groupCycle g) ≤ 1) (v : BitVec 256) : ∃ T,
    b.cmPresent g true row v false = (b.settleGroup g).asOf T fun d =>
      d.cmWrites g { cyc := (b.settleGroup g).groupCycle g, we := true, row, data := v } ((b.settleGroup g).groupCycle g) := by
  rw [Chip.cmPresent_free hfree]
  generalize b.settleGroup g = d at hfree hu ⊢
  simp only [Bool.false_eq_true, if_false]
  rw [Chip.cmSettle_taken rfl hu]
  exact ⟨_, Chip.asOf_cmTake_write d rfl hrow⟩

theorem Chip.alters_cmWrites (d : Chip) (a : CmAccess) (c : Nat) :
    AltersRecord [.slices, .mem, .inject] g d (d.cmWrites g a c) :=
  ((AltersGroup.modGroup (l := [.slices]) (by decide) d _).record (by simp)).trans (Chip.alters_cmStores ..)

theorem Chip.cmTaken_cmWrites (d : Chip) (a : CmAccess) (c : Nat) : ((d.cmWrites g a c).group g).cmTaken = some c := by
  rw [Chip.cmWrites, Chip.group_cmStores_keep _ _ _ _ _ _ (w := (·.cmTaken)) fun _ _ => rfl, Chip.group_modGroup]
  rfl

theorem Chip.cmWord_cmWrites (d : Chip) (a : CmAccess) (c : Nat) {e : Nat} (he : e < 8) :
    (d.cmWrites g a c).cmWord g (8 * a.row + e) = busLane a.data e :=
  Chip.cmWord_cmStores _ _ _ _ _ _ (List.mem_range.mpr he)

theorem Chip.gmWord_cmWrites_ne (d : Chip) {a : CmAccess} {c : Nat} (hrow : a.row < 2048) {g' : Grp} {space i : Nat}
    (hg : g.b < 64) (hg' : g'.b < 64) (hi : i < gmSize space) (h : ¬(g' = g ∧ space = 1 ∧ i / 8 = a.row)) :
    (d.cmWrites g a c).gmWord g' space i = d.gmWord g' space i := by
  refine (Chip.gmWord_cmStores_ne _ g _ _ _ _ fun h1 l hl => ?_).trans
    (Chip.gmWord_congr (b := d) rfl ⟨rfl, rfl, rfl⟩ g' space i)
  have hl8 := List.mem_range.mp hl
  subst h1
  refine otherWord_of hg hg' (by omega) hi ?_
  by_cases hgg : g' = g
  · exact .inr fun he => h ⟨hgg, rfl, by omega⟩
  · exact .inl hgg

/-- An access that finds no cycle left, or whose cycle is not over, waits. -/
theorem Chip.cmPresent_waits {we later : Bool} {row : Nat} {v : BitVec 256} (hfree : CmFree (b.settleGroup g) g)
    (hleft : ¬((b.settleGroup g).cmUse g ((b.settleGroup g).groupCycle g) ≤ 1 ∧ later = false)) :
    ∃ cyc, b.cmPresent g we row v later = (b.settleGroup g).modGroup g (Group.holds { cyc, we, row, data := v }) := by
  rw [Chip.cmPresent_free hfree]
  generalize b.settleGroup g = d at hfree hleft ⊢
  cases later with
  | true => exact ⟨d.groupCycle g, rfl⟩
  | false => exact ⟨d.groupCycle g + 1, Chip.cmSettle_waits rfl fun hu => hleft ⟨hu, rfl⟩⟩

end

/-! ### Decision store and instruction memory (R227, R228) -/

section
variable {b : Chip} {g : Grp} {a : Nat}

/-- A result at the decision port. -/
def Group.showsHalf (c : Nat) (o : PortOut) (x : Group) : Group := { x with dsOut := addOut x.dsOut c o }

theorem Chip.dsRead_clean (ha : a < 4096) (hc : (b.settleGroup g).groupClock g = true)
    (hu : (b.settleGroup g).underTest (dsUnit g) = false) (hclean : ((b.settleGroup g).gmErr g 2 a).1 = 0) :
    b.dsRead g a = (b.settleGroup g).modGroup g (Group.showsHalf ((b.settleGroup g).groupCycle g)
      (readOut (BitVec.setWidth 256 ((b.settleGroup g).dsAt g a ((b.settleGroup g).groupCycle g)))
        ((b.settleGroup g).groupCycle g) false false)) := by
  unfold Chip.dsRead
  generalize b.settleGroup g = d at hc hu hclean ⊢
  simp only [hc, hu, Nat.mod_eq_of_lt ha, Chip.gmMeet_clean hclean, Bool.not_true, Bool.false_eq_true, if_false]
  rfl

theorem Chip.imWrite_stop {v : BitVec 64} (ha : a < 4096) (hc : (b.settleGroup g).groupClock g = true)
    (hu : (b.settleGroup g).underTest (imUnit g) = false) (hs : ((b.settleGroup g).group g).st = .stop) :
    b.imWrite g a v = (b.settleGroup g).imStore g a v := by
  unfold Chip.imWrite
  generalize b.settleGroup g = d at hc hu hs ⊢
  simp only [hc, hu, hs, Nat.mod_eq_of_lt ha, Bool.true_or, Bool.not_true, Bool.false_eq_true, if_false, if_true]

theorem Chip.imWrite_other {v : BitVec 64} (hc : (b.settleGroup g).groupClock g = true ∨
      ((b.settleGroup g).group g).st = .fault ∧ (b.settleGroup g).fabricRuns g.r = true ∧
        (b.settleGroup g).netRuns g.r ((b.settleGroup g).group g).net = true)
    (hu : (b.settleGroup g).underTest (imUnit g) = false) (hs : ((b.settleGroup g).group g).st ≠ .stop) :
    b.imWrite g a v = (b.settleGroup g).count (0x2500 + g.r) 0x3C := by
  unfold Chip.imWrite
  generalize b.settleGroup g = d at hc hu hs ⊢
  have hruns : (d.groupClock g || ((d.group g).st == .fault && d.fabricRuns g.r && d.netRuns g.r (d.group g).net)) = true := by
    rcases hc with hc | ⟨h1, h2, h3⟩
    · rw [hc, Bool.true_or]
    · rw [h1, h2, h3, Bool.or_eq_true]
      exact .inr rfl
  simp only [hruns, hu, hs, Bool.not_true, Bool.false_eq_true, if_false]

/-- After a store into the instruction memory, every other word is the same. -/
theorem Chip.gmWord_imStore_other (d : Chip) (v : BitVec 64) {g' : Grp} {space i : Nat} (ha : a < 16384) (hg : g.b < 64)
    (hg' : g'.b < 64) (hi : i < gmSize space) (h : ¬(g' = g ∧ space = 0 ∧ i = a)) :
    (d.imStore g a v).gmWord g' space i = d.gmWord g' space i := by
  refine Chip.gmWord_imStore_ne d v fun h0 => otherWord_of hg hg' ha ?_ ?_
  · unfold gmSize at hi
    split at hi <;> omega
  · by_cases hgg : g' = g
    · exact .inr fun hia => h ⟨hgg, h0, hia⟩
    · exact .inl hgg

end

/-! ### A group for which nothing waits -/

/-- No fetch and no access of the fabric waits for the group. -/
structure IdleGroup (b : Chip) (g : Grp) : Prop where
  fetch : (b.group g).fetchAt = none
  held : (b.group g).cmHeld = none

/-- From b to c time has passed for an idle group, and nothing else but its record has changed. -/
structure PassesIdle (g : Grp) (b c : Chip) : Prop where
  alters : AltersGroup [.belfry, .slices] g b c
  err : c.slices.err = b.slices.err
  idle : IdleGroup c g

section
variable {b c d : Chip} {g : Grp} {F : Group → Group}

theorem PassesIdle.trans (h : PassesIdle g b c) (h' : PassesIdle g c d) : PassesIdle g b d :=
  ⟨h.alters.trans h'.alters, h'.err.trans h.err, h'.idle⟩

theorem PassesIdle.modGroup (h : IdleGroup b g) (hf : ∀ x, (F x).fetchAt = x.fetchAt) (hh : ∀ x, (F x).cmHeld = x.cmHeld) :
    PassesIdle g b (b.modGroup g F) := by
  refine ⟨.modGroup (by decide) b F, rfl, ?_, ?_⟩
  · rw [Chip.group_modGroup, hf, h.fetch]
  · rw [Chip.group_modGroup, hh, h.held]

theorem PassesIdle.upTo (h : IdleGroup b g) (t : Nat) : PassesIdle g b (b.upTo t) :=
  ⟨.upTo (by decide) b t, rfl, h.fetch, h.held⟩

theorem PassesIdle.settleGroup (h : IdleGroup b g) : PassesIdle g b (b.settleGroup g) := by
  rw [Chip.settleGroup_idle h.fetch h.held]
  exact .modGroup h (fun x => Group.settle_keep (v := (·.fetchAt)) x (fun _ => by intros; rfl) _)
    fun x => Group.settle_keep (v := (·.cmHeld)) x (fun _ => by intros; rfl) _

theorem PassesIdle.awaitGroup (h : IdleGroup b g) (space : Nat) : PassesIdle g b (b.awaitGroup g space) := by
  have h1 := PassesIdle.settleGroup h
  unfold Chip.awaitGroup
  dsimp only
  split
  · exact h1
  · have h2 := h1.trans (.upTo h1.idle ((b.settleGroup g).groupTickIn g 1))
    exact h2.trans (.settleGroup h2.idle)

/-- The device at the maintenance cycle that an access of the dictionary takes. -/
def Chip.atMaintenance (b : Chip) (g : Grp) (space : Nat) : Chip := (b.awaitGroup g space).gmMaint g space

theorem PassesIdle.atMaintenance (h : IdleGroup b g) (space : Nat) : PassesIdle g b (b.atMaintenance g space) := by
  have h1 := PassesIdle.awaitGroup h space
  exact h1.trans (.modGroup h1.idle (fun _ => rfl) fun _ => rfl)

theorem PassesIdle.gmWord (h : PassesIdle g b c) (g' : Grp) (space i : Nat) : c.gmWord g' space i = b.gmWord g' space i := by
  have hm : c.mem = b.mem := h.alters.2.2 .mem (by decide)
  exact Chip.gmWord_congr (by rw [hm]) h.alters.2.1 g' space i

theorem PassesIdle.gmErr (h : PassesIdle g b c) (g' : Grp) (space i : Nat) : c.gmErr g' space i = b.gmErr g' space i := by
  unfold Chip.gmErr
  rw [h.err]

/-! ### Units of the dictionary (R234, R235) -/

theorem Chip.gmUnitBytes_eq (b : Chip) (g : Grp) (space i : Nat) :
    b.gmUnitBytes g space i = toBytes (gmBytes space) (b.gmWord g space i) := by
  match space with
  | 0 => rfl
  | 1 => rfl
  | _ + 2 => rfl

theorem Chip.gmReadUnits_one {space i : Nat} (h : ((b.atMaintenance g space).gmErr g space i).1 = 0) :
    b.gmReadUnits g space i 1 =
      (b.atMaintenance g space, some (toBytes (gmBytes space) ((b.atMaintenance g space).gmWord g space i))) := by
  have hm := Chip.gmMeet_clean h 0xFF
  unfold Chip.atMaintenance at hm
  simp only [Chip.gmReadUnits, hm, List.append_nil, Chip.gmUnitBytes_eq]
  rfl

theorem Chip.gmWriteUnits_one {space i : Nat} {v : Bytes} (h : v.length = gmBytes space) :
    b.gmWriteUnits g space i v 1 = (b.atMaintenance g space).gmStore g space i (ofBytes v) := by
  rw [Chip.gmWriteUnits, Chip.gmWriteUnits, ← h, List.take_length]
  rfl

theorem Chip.alters_gmStore (b : Chip) (space i v : Nat) :
    AltersRecord [.slices, .mem, .inject] g b (b.gmStore g space i v) := by
  match space with
  | 0 => exact Chip.alters_imStore ..
  | 1 => exact Chip.alters_cmStore ..
  | _ + 2 => exact Chip.alters_dsStore ..

/-- The unit that a store leaves. -/
theorem Chip.gmWord_gmStore (b : Chip) {space i v : Nat} (hv : v < 256 ^ gmBytes space) :
    (b.gmStore g space i v).gmWord g space i = v := by
  match space, hv with
  | 0, hv => exact (congrArg BitVec.toNat (Chip.imWord_imStore ..)).trans (Nat.mod_eq_of_lt hv)
  | 1, hv => exact (congrArg BitVec.toNat (Chip.cmWord_cmStore ..)).trans (Nat.mod_eq_of_lt hv)
  | _ + 2, hv => exact (congrArg BitVec.toNat (Chip.dsWord_dsStore ..)).trans (Nat.mod_eq_of_lt hv)

theorem gmSize_le (space : Nat) : gmSize space ≤ 16384 := by
  unfold gmSize
  split <;> omega

/-- Every other unit is the same; space 3 is space 2. -/
theorem Chip.gmWord_gmStore_ne (b : Chip) {space i v space' j : Nat} {g' : Grp} (hg : g.b < 64) (hg' : g'.b < 64)
    (hi : i < 16384) (hs : space' < 3) (hj : j < gmSize space') (h : ¬(g' = g ∧ j = i ∧ space' = min 2 space)) :
    (b.gmStore g space i v).gmWord g' space' j = b.gmWord g' space' j := by
  have hj' := hj.trans_le (gmSize_le space')
  have hother : space' = min 2 space → OtherWord g i g' j := fun he => by
    refine otherWord_of hg hg' hi hj' ?_
    by_cases hgg : g' = g
    · exact .inr fun hji => h ⟨hgg, hji, he⟩
    · exact .inl hgg
  match space, hother with
  | 0, hother => exact Chip.gmWord_imStore_ne _ _ hother
  | 1, hother => exact Chip.gmWord_cmStore_ne _ _ _ hother
  | n + 2, hother => exact Chip.gmWord_dsStore_ne _ _ _ fun h0 h1 => hother (by omega)

end

/-! ### Registers that the group memories do not write -/

/-- Entry i:j holds no count, no code and no fault of region r's groups, and no count of entries. -/
structure ApartFromGroups (r i j : Nat) : Prop where
  quiet : QuietReg i j
  fault : key i j ≠ key (0x2500 + r) 0x39
  count : key i j ≠ key (0x2500 + r) 0x3B

/-- The address of 0x25ii:33 is such an entry. -/
theorem apartFromGroups_address {r : Nat} (h : r < 32) : ApartFromGroups r (0x2500 + r) 0x33 :=
  ⟨quietReg_region (by omega) (by omega) (by decide), key_ne_of_sub (by decide) (by decide) (by decide),
    key_ne_of_sub (by decide) (by decide) (by decide)⟩

section
variable {b : Chip} {g : Grp} {i j : Nat}

theorem QuietReg.applied (h : QuietReg i j) : key i j ≠ key 0x2DFF 3 ∧ key i j ≠ key 0x2DFF 4 := by
  simp only [QuietReg, List.mem_cons, List.not_mem_nil, or_false, not_or] at h
  exact h.2.2.2

theorem Chip.reg_applyAt (h : QuietReg i j) (b : Chip) (obj target ev : Nat) :
    (b.applyAt obj target ev).reg i j = b.reg i j := by
  unfold Chip.applyAt
  split
  · rw [Chip.injected, Chip.reg_setReg _ _ _ _ _ _ h.applied.2, Chip.count_reg _ _ _ h.applied.1]
    rfl
  · rfl

/-- The same where it is an injection that is applied. -/
theorem Chip.reg_ifApplied (h : QuietReg i j) {b c : Chip} (hc : c.reg i j = b.reg i j) (inj : Bool) (obj target ev : Nat) :
    (if inj then c.applyAt obj target ev else c).reg i j = b.reg i j := by
  split
  · rw [Chip.reg_applyAt h, hc]
  · exact hc

theorem Chip.reg_asOf (b : Chip) (t : Nat) (f : Chip → Chip) : (b.asOf t f).reg i j = (f (b.atTick t)).reg i j := rfl

theorem Chip.reg_blockSafe (h : QuietReg i j) (b : Chip) (r blk : Nat) (e : Ev) :
    (b.blockSafe r blk e).reg i j = b.reg i j := by
  rw [Chip.blockSafe, Chip.logEvent_reg_quiet h, Chip.reg_congr (Chip.breakRegion_dict _ _), Chip.reg_congr (Chip.modRegion_dict _ _ _),
    Chip.reg_congr (Chip.setSafe_dict _ _ _)]

variable (h : ApartFromGroups g.r i j)
include h

theorem Chip.reg_seqFault (b : Chip) (code lane space n : Nat) (inj : Bool) :
    (b.seqFault g code lane space n inj).reg i j = b.reg i j := by
  unfold Chip.seqFault
  split
  · rfl
  · rw [Chip.reg_blockSafe h.quiet, Chip.reg_setReg _ _ _ _ _ _ h.fault]
    rfl

theorem Chip.reg_gmCorrection (b : Chip) (space n lane : Nat) (inj : Bool) :
    (b.gmCorrection g space n lane inj).reg i j = b.reg i j := by
  have h1 : ∀ e : Ev, ((b.count (0x2500 + g.r) 0x3B).logEvent e).reg i j = b.reg i j := fun e => by
    rw [Chip.logEvent_reg_quiet h.quiet, Chip.count_reg _ _ _ h.count]
  unfold Chip.gmCorrection
  refine Chip.reg_ifApplied h.quiet ?_ inj _ _ _
  split <;> exact h1 _

theorem Chip.reg_gmHard (b : Chip) (space n lane : Nat) (inj : Bool) :
    (b.gmHard g space n lane inj).reg i j = b.reg i j := by
  unfold Chip.gmHard
  refine Chip.reg_ifApplied h.quiet ?_ inj _ _ _
  split
  · exact Chip.reg_seqFault h b _ _ _ _ _
  · exact Chip.logEvent_reg_quiet h.quiet _

theorem Chip.reg_gmMeet (b : Chip) (space n lane : Nat) : (b.gmMeet g space n lane).1.reg i j = b.reg i j := by
  unfold Chip.gmMeet
  split
  · rfl
  · exact Chip.reg_gmCorrection h b _ _ _ _
  · exact Chip.reg_gmHard h b _ _ _ _

theorem Chip.reg_gmMeetAll (b : Chip) (space : Nat) (l : List (Nat × Nat)) :
    (b.gmMeetAll g space l).1.reg i j = b.reg i j :=
  List.foldlRecOn l _ (motive := fun x : Chip × Bool × Bool => x.1.reg i j = b.reg i j) rfl fun x hx n _ =>
    (Chip.reg_gmMeet h x.1 space n.1 n.2).trans hx

theorem Chip.reg_prefetch (b : Chip) : (b.prefetch g).reg i j = b.reg i j :=
  Chip.forEach_keep (fun c => c.reg i j) _ (fun c _ => Chip.reg_gmMeetAll h c 0 _) _ b

theorem Chip.reg_cmTake (b : Chip) (a : CmAccess) (c : Nat) : (b.cmTake g a c).reg i j = b.reg i j := by
  unfold Chip.cmTake
  split
  · exact Chip.forEach_keep (fun c => c.reg i j) _ (fun d e => by rw [Chip.cmStore_eq]; rfl) _ _
  · have h2 := Chip.reg_gmMeetAll h (b.modGroup g fun x => { x with cmHeld := none, cmTaken := some c }) 1
      ((rowElements a.row).map fun i => (i, 0xFF))
    dsimp only
    generalize (b.modGroup g fun x => { x with cmHeld := none, cmTaken := some c }).gmMeetAll g 1 _ = y at h2 ⊢
    obtain ⟨d, cor, err⟩ := y
    exact h2

theorem Chip.reg_settleGroup (b : Chip) : (b.settleGroup g).reg i j = b.reg i j := by
  have hsettle : ∀ (d : Chip) (c : Nat), (d.cmSettle g c).reg i j = d.reg i j := fun d c => by
    unfold Chip.cmSettle
    split
    · rfl
    · split
      · rw [Chip.reg_asOf]
        exact Chip.reg_cmTake h _ _ _
      · rfl
  have hfetch : ∀ t, ((b.modGroup g fun x => { x with fetchAt := none }).asOf t fun b => b.prefetch g).reg i j = b.reg i j :=
    fun t => by
      rw [Chip.reg_asOf]
      exact Chip.reg_prefetch h _
  unfold Chip.settleGroup
  refine (hsettle _ _).trans ?_
  split
  · exact hfetch _
  · rfl

theorem Chip.reg_atMaintenance (b : Chip) (space : Nat) : (b.atMaintenance g space).reg i j = b.reg i j := by
  have h1 : (b.awaitGroup g space).reg i j = b.reg i j := by
    unfold Chip.awaitGroup
    dsimp only
    split
    · exact Chip.reg_settleGroup h b
    · rw [Chip.reg_settleGroup h, Chip.reg_upTo, Chip.reg_settleGroup h]
  exact h1

/-- A transfer's reads leave such an entry. -/
theorem Chip.reg_gmReadUnits (b : Chip) (space n m : Nat) : (b.gmReadUnits g space n m).1.reg i j = b.reg i j := by
  induction m generalizing b n with
  | zero => rfl
  | succ m ih =>
    have hm : ((b.atMaintenance g space).gmMeet g space n 0xFF).1.reg i j = b.reg i j := by
      rw [Chip.reg_gmMeet h, Chip.reg_atMaintenance h]
    unfold Chip.atMaintenance at hm
    rw [Chip.gmReadUnits]
    split
    · next hd => rw [hd] at hm; exact hm
    · next d _ hd =>
      rw [hd] at hm
      have hrest := (ih d (n + 1)).trans hm
      split
      · next hn => rw [hn] at hrest; exact hrest
      · next hn => rw [hn] at hrest; exact hrest

end

/-! ### The clauses of O30 -/

/-- The group settled at a tick. -/
def settledAt (s : State) (g : Grp) (t0 : Nat) : Chip := (s.toChip.upTo t0).settleGroup g

/-- The sequencer leaves the access its cycle, and no command of that cycle waits. -/
def CycleLeft (s : State) (d : Chip) (g : Grp) (t0 : Nat) : Prop := d.cmUse g (d.groupCycle g) ≤ 1 ∧
  s.pending.any ((s.toChip.upTo t0).issuesToo g) = false

section
variable {s : State} {g : Grp} {row a t0 : Nat}

/-- What has changed one record alone. -/
theorem onlyTouches_modGroup (s : State) (d : Chip) (g : Grp) (F : Group → Group) :
    OnlyTouches [.slices] (s.on d) (s.on (d.modGroup g F)) :=
  AltersGroup.onlyTouches (s := s.on d) (.modGroup (g := g) (by decide) d F)

theorem cmRead_shows (hrow : row < 2048) (hfree : CmFree (settledAt s g t0) g) (hleft : CycleLeft s (settledAt s g t0) g t0)
    (hclean : ∀ e, e < 8 → ((settledAt s g t0).gmErr g 1 (8 * row + e)).1 = 0) :
    ∃ t, exec (.cmRead g row t0) s = .next t ∧ OnlyTouches [.slices] (s.on (settledAt s g t0)) t ∧
      SlicesKept (settledAt s g t0) t.toChip ∧ (t.group g).cmTaken = some ((settledAt s g t0).groupCycle g) ∧
      ∃ o, (t.group g).cmOut.getLast? = some o ∧ o.valid = true ∧ o.err = false ∧ o.cor = false ∧
        o.at_ = (settledAt s g t0).groupCycle g + 2 ∧ ∀ e, e < 8 →
          busLane o.data e = (settledAt s g t0).cmAt g (8 * row + e) ((settledAt s g t0).groupCycle g) := by
  have he : exec (.cmRead g row t0) s = .next (s.on ((s.toChip.upTo t0).cmPresent g false row 0#256
      (s.pending.any ((s.toChip.upTo t0).issuesToo g)))) := rfl
  rw [he, hleft.2, Chip.cmRead_taken hrow hfree hleft.1 hclean]
  change ∃ t, Host.Outcome.next (s.on ((settledAt s g t0).modGroup g (Group.reads
    { cyc := (settledAt s g t0).groupCycle g, we := false, row, data := 0#256 } ((settledAt s g t0).groupCycle g)
    ((settledAt s g t0).rowAt g row ((settledAt s g t0).groupCycle g))))) = .next t ∧ _
  generalize settledAt s g t0 = d
  generalize d.groupCycle g = c
  have hg := Chip.group_modGroup d g (Group.reads { cyc := c, we := false, row, data := 0#256 } c (d.rowAt g row c))
  refine ⟨_, rfl, onlyTouches_modGroup s d g _, .modGroup d g _, congrArg Group.cmTaken hg,
    readOut (d.rowAt g row c) c false false, (congrArg (fun y : Group => y.cmOut.getLast?) hg).trans (getLast?_addOut _ _ _),
    rfl, rfl, rfl, rfl, fun e he => ?_⟩
  have hl : ((List.range 8).map fun i => d.cmAt g (8 * row + i) c).length = 8 := by simp
  exact (busLane_rowBits hl (by rwa [hl])).trans (by simp)

/-- What a write that is taken leaves. -/
theorem Chip.asOf_cmWrites (d : Chip) (T : Nat) (acc : CmAccess) (c : Nat) (hrow : acc.row < 2048) (hg : g.b < 64) :
    AltersRecord [.slices, .mem, .inject] g d (d.asOf T fun d => d.cmWrites g acc c) ∧
      ((d.asOf T fun d => d.cmWrites g acc c).group g).cmTaken = some c ∧
      (∀ e, e < 8 → (d.asOf T fun d => d.cmWrites g acc c).cmWord g (8 * acc.row + e) = busLane acc.data e) ∧
      ∀ g' space i, g'.b < 64 → space < 3 → i < gmSize space → ¬(g' = g ∧ space = 1 ∧ i / 8 = acc.row) →
        (d.asOf T fun d => d.cmWrites g acc c).gmWord g' space i = d.gmWord g' space i := by
  have halter := (Chip.alters_cmWrites (g := g) (d.atTick T) acc c).asOf (f := fun d => d.cmWrites g acc c)
  have htaken := Chip.cmTaken_cmWrites (g := g) (d.atTick T) acc c
  have hstored := fun e he => Chip.cmWord_cmWrites (g := g) (d.atTick T) acc c (e := e) he
  have hother := fun g' space i hg' hi => Chip.gmWord_cmWrites_ne (g := g) (d.atTick T) (c := c) hrow (g' := g')
    (space := space) (i := i) hg hg' hi
  refine ⟨halter, ?_⟩
  clear halter
  rw [Chip.asOf_eq]
  generalize (d.atTick T).cmWrites g acc c = w at htaken hstored hother ⊢
  have hword : ∀ g' space i, Chip.gmWord { w with belfry := { w.belfry with tick := d.now } } g' space i =
      w.gmWord g' space i := fun g' space i => Chip.gmWord_congr (b := w) rfl ⟨rfl, rfl, rfl⟩ g' space i
  refine ⟨htaken, fun e he => ?_, fun g' space i hg' _ hi hno => ?_⟩
  · exact (BitVec.eq_of_toNat_eq (hword g 1 (8 * acc.row + e))).trans (hstored e he)
  · exact ((hword g' space i).trans (hother g' space i hg' hi hno)).trans
      (Chip.gmWord_congr (b := d) rfl ⟨rfl, rfl, rfl⟩ g' space i)

theorem cmWrite_writes (v : BitVec 256) (hrow : row < 2048) (hg : g.b < 64) (hfree : CmFree (settledAt s g t0) g)
    (hleft : CycleLeft s (settledAt s g t0) g t0) :
    ∃ t, exec (.cmWrite g row v t0) s = .next t ∧
      OnlyTouches [.slices, .mem, .inject] (s.on (settledAt s g t0)) t ∧
      (t.group g).cmTaken = some ((settledAt s g t0).groupCycle g) ∧
      (∀ e, e < 8 → t.cmWord g (8 * row + e) = busLane v e) ∧
      ∀ g' space i, g'.b < 64 → space < 3 → i < gmSize space → ¬(g' = g ∧ space = 1 ∧ i / 8 = row) →
        t.gmWord g' space i = (settledAt s g t0).gmWord g' space i := by
  have he : exec (.cmWrite g row v t0) s = .next (s.on ((s.toChip.upTo t0).cmPresent g true row v
      (s.pending.any ((s.toChip.upTo t0).issuesToo g)))) := rfl
  obtain ⟨T, hT⟩ := Chip.cmWrite_taken hrow hfree hleft.1 v
  rw [he, hleft.2, hT]
  change ∃ t, Host.Outcome.next (s.on ((settledAt s g t0).asOf T fun d => d.cmWrites g
    { cyc := (settledAt s g t0).groupCycle g, we := true, row, data := v } ((settledAt s g t0).groupCycle g))) = .next t ∧ _
  generalize settledAt s g t0 = d
  generalize d.groupCycle g = c
  generalize ha : ({ cyc := c, we := true, row, data := v } : CmAccess) = acc
  have hr : acc.row = row := by rw [← ha]
  have hv : acc.data = v := by rw [← ha]
  clear ha
  subst hr hv
  have hwrites := Chip.asOf_cmWrites d T acc c hrow hg
  generalize (d.asOf T fun d => d.cmWrites g acc c) = w at hwrites ⊢
  obtain ⟨halter, htaken, hword, hkept⟩ := hwrites
  exact ⟨_, rfl, ⟨rfl, halter.2⟩, htaken, hword, hkept⟩

theorem cmAccess_waits {i : Instr} {we : Bool} {v : BitVec 256}
    (hi : i = .cmRead g row t0 ∧ we = false ∧ v = 0#256 ∨ i = .cmWrite g row v t0 ∧ we = true)
    (hfree : CmFree (settledAt s g t0) g) (hleft : ¬CycleLeft s (settledAt s g t0) g t0) :
    ∃ t a, exec i s = .next t ∧ OnlyTouches [.slices] (s.on (settledAt s g t0)) t ∧
      SlicesKept (settledAt s g t0) t.toChip ∧ (t.group g).cmHeld = some a ∧ a.we = we ∧ a.row = row ∧ a.data = v ∧
      (t.group g).cmOut = ((settledAt s g t0).group g).cmOut := by
  have he : exec i s = .next (s.on ((s.toChip.upTo t0).cmPresent g we row v
      (s.pending.any ((s.toChip.upTo t0).issuesToo g)))) := by
    rcases hi with ⟨rfl, rfl, rfl⟩ | ⟨rfl, rfl⟩ <;> rfl
  obtain ⟨cyc, hw⟩ := Chip.cmPresent_waits (we := we) (row := row) (v := v) hfree hleft
  rw [he, hw]
  change ∃ t a, Host.Outcome.next (s.on ((settledAt s g t0).modGroup g (Group.holds { cyc, we, row, data := v }))) =
    .next t ∧ _
  generalize settledAt s g t0 = d
  have hg := Chip.group_modGroup d g (Group.holds { cyc, we, row, data := v })
  exact ⟨_, { cyc, we, row, data := v }, rfl, onlyTouches_modGroup s d g _, .modGroup d g _, congrArg Group.cmHeld hg, rfl, rfl, rfl,
    (congrArg Group.cmOut hg).trans rfl⟩

theorem dsRead_shows (ha : a < 4096) (hc : (settledAt s g t0).groupClock g = true)
    (hu : (settledAt s g t0).underTest (dsUnit g) = false) (hclean : ((settledAt s g t0).gmErr g 2 a).1 = 0) :
    ∃ t, exec (.dsRead g a t0) s = .next t ∧ OnlyTouches [.slices] (s.on (settledAt s g t0)) t ∧
      SlicesKept (settledAt s g t0) t.toChip ∧
      ∃ o, (t.group g).dsOut.getLast? = some o ∧ o.valid = true ∧ o.at_ = (settledAt s g t0).groupCycle g + 2 ∧
        o.data = BitVec.setWidth 256 ((settledAt s g t0).dsAt g a ((settledAt s g t0).groupCycle g)) := by
  have he : exec (.dsRead g a t0) s = .next (s.on ((s.toChip.upTo t0).dsRead g a)) := rfl
  rw [he, Chip.dsRead_clean ha hc hu hclean]
  change ∃ t, Host.Outcome.next (s.on ((settledAt s g t0).modGroup g (Group.showsHalf ((settledAt s g t0).groupCycle g)
    (readOut (BitVec.setWidth 256 ((settledAt s g t0).dsAt g a ((settledAt s g t0).groupCycle g)))
      ((settledAt s g t0).groupCycle g) false false)))) = .next t ∧ _
  generalize settledAt s g t0 = d
  generalize d.groupCycle g = c
  generalize BitVec.setWidth 256 (d.dsAt g a c) = v
  have hg := Chip.group_modGroup d g (Group.showsHalf c (readOut v c false false))
  exact ⟨_, rfl, onlyTouches_modGroup s d g _, .modGroup d g _, readOut v c false false,
    (congrArg (fun y : Group => y.dsOut.getLast?) hg).trans (getLast?_addOut _ _ _), rfl, rfl, rfl⟩

theorem imWrite_stores (v : BitVec 64) (ha : a < 4096) (hg : g.b < 64) (hc : (settledAt s g t0).groupClock g = true)
    (hu : (settledAt s g t0).underTest (imUnit g) = false) (hs : ((settledAt s g t0).group g).st = .stop) :
    ∃ t, exec (.imWrite g a v t0) s = .next t ∧ OnlyTouches [.slices, .mem, .inject] (s.on (settledAt s g t0)) t ∧
      t.imWord g a = v ∧ ∀ g' space i, g'.b < 64 → space < 3 → i < gmSize space → ¬(g' = g ∧ space = 0 ∧ i = a) →
        t.gmWord g' space i = (settledAt s g t0).gmWord g' space i := by
  have he : exec (.imWrite g a v t0) s = .next (s.on ((s.toChip.upTo t0).imWrite g a v)) := rfl
  rw [he, Chip.imWrite_stop ha hc hu hs]
  refine ⟨_, rfl, ⟨rfl, (Chip.alters_imStore _ g a v).2⟩, Chip.imWord_imStore _ g a v, fun g' space i hg' _ hi hno => ?_⟩
  exact Chip.gmWord_imStore_other _ v (by omega) hg hg' hi hno

theorem imWrite_counts (v : BitVec 64) (hc : (settledAt s g t0).groupClock g = true ∨
      ((settledAt s g t0).group g).st = .fault ∧ (settledAt s g t0).fabricRuns g.r = true ∧
        (settledAt s g t0).netRuns g.r ((settledAt s g t0).group g).net = true)
    (hu : (settledAt s g t0).underTest (imUnit g) = false) (hs : ((settledAt s g t0).group g).st ≠ .stop) :
    ∃ t, exec (.imWrite g a v t0) s = .next t ∧ OnlyTouches [.dict] (s.on (settledAt s g t0)) t ∧
      t.reg (0x2500 + g.r) 0x3C = sat32 ((settledAt s g t0).reg (0x2500 + g.r) 0x3C + 1) := by
  have he : exec (.imWrite g a v t0) s = .next (s.on ((s.toChip.upTo t0).imWrite g a v)) := rfl
  rw [he, Chip.imWrite_other hc hu hs]
  exact ⟨_, rfl, ⟨rfl, fun x hx => Area.same_count (by rintro rfl; simp at hx) _ _ _⟩, Chip.reg_setReg_self _ _ _ _⟩

end

/-! ### The dictionary's clauses -/

section
variable {s : State} {q : Req} {r a n : Nat} {c : Chip} {d v : Bytes}

/-- The address after a read: an observe read leaves it (R452). -/
def Chip.gmMoved (c : Chip) (o r a n : Nat) : Chip := if o = 6 then c else c.setReg (0x2500 + r) 0x33 (gmNext a n)

theorem exec_groupMemoryDataRead (h : ReadAllowed s q (0x2500 + r) 0x34 = true) (ha : s.reg (0x2500 + r) 0x33 = a)
    (hn : s.reg (0x2500 + r) 0x35 = n) (hc : (s.served q).gmCheck r a n false = 0)
    (hw : (s.served q).gmReadUnits (gmGroup r a) (gmSpace a) (gmIndex a) n = (c, some d)) :
    exec (.groupMemoryDataRead q r) s = .next (s.on ((c.gmMoved q.owner r a n).answer q.owner (.data d))) := by
  have hread : (s.served q).groupRead q.owner r = (c.gmMoved q.owner r a n, .ok d) := by
    simp only [Chip.groupRead, State.served_reg, ha, hn, hc, hw]
    rfl
  exact congrArg (fun x => Host.Outcome.next (s.on x)) (readRow_of_readAllowed h hread)

theorem exec_groupMemoryDataWrite (h : BytesAllowed s q (0x2500 + r) 0x34 v.length = true)
    (ha : s.reg (0x2500 + r) 0x33 = a) (hn : s.reg (0x2500 + r) 0x35 = n) (hc : (s.served q).gmCheck r a n true = 0)
    (hl : v.length = n * gmBytes (gmSpace a)) :
    exec (.groupMemoryDataWrite q r v) s = .next (s.on ((((s.served q).gmWriteUnits (gmGroup r a) (gmSpace a) (gmIndex a)
      v n).setReg (0x2500 + r) 0x33 (gmNext a n)).answer q.owner .done)) := by
  have hwrite : (s.served q).groupWrite r v = (((s.served q).gmWriteUnits (gmGroup r a) (gmSpace a) (gmIndex a)
      v n).setReg (0x2500 + r) 0x33 (gmNext a n), .ok ()) := by
    simp only [Chip.groupWrite, State.served_reg, ha, hn, hc, hl]
    simp
  exact congrArg (fun x => Host.Outcome.next (s.on x)) (writeBytesRow_of_bytesAllowed h hwrite)

theorem slices_moved_answer (o : Nat) (m : Reply) : ((c.gmMoved o r a n).answer o m).slices = c.slices := by
  rw [Chip.answer_slices, Chip.gmMoved]
  split <;> rfl

theorem groupMemoryRead_moves (hr : r < 32) (h : ReadAllowed s q (0x2500 + r) 0x34 = true)
    (ha : s.reg (0x2500 + r) 0x33 = a) (hn : s.reg (0x2500 + r) 0x35 = n) (hc : (s.served q).gmCheck r a n false = 0)
    (hw : (s.served q).gmReadUnits (gmGroup r a) (gmSpace a) (gmIndex a) n = (c, some d)) :
    ∃ t, exec (.groupMemoryDataRead q r) s = .next t ∧ t.reply q.owner = .data d ∧ SlicesKept c t.toChip ∧
      t.reg (0x2500 + r) 0x33 = if q.owner = 6 then a else gmNext a n := by
  refine ⟨_, exec_groupMemoryDataRead h ha hn hc hw, State.reply_on_answer _ _ _ _, .of_slices (slices_moved_answer _ _), ?_⟩
  rw [State.on_toChip, Chip.answer_reg, Chip.gmMoved]
  split
  · have hkeep := Chip.reg_gmReadUnits (g := gmGroup r a) (apartFromGroups_address hr) (s.served q) (gmSpace a) (gmIndex a) n
    rw [hw, State.served_reg] at hkeep
    change c.reg (0x2500 + r) 0x33 = s.reg (0x2500 + r) 0x33 at hkeep
    rw [ha] at hkeep
    exact hkeep
  · exact Chip.reg_setReg_self _ _ _ _

/-- A request that finds its group idle leaves it so till its cycle. -/
theorem served_passes {g : Grp} (hf : (s.group g).fetchAt = none) (hh : (s.group g).cmHeld = none) (space : Nat) :
    PassesIdle g (s.served q) ((s.served q).atMaintenance g space) :=
  PassesIdle.atMaintenance (b := s.served q) ⟨hf, hh⟩ space

theorem OnlyTouches.servedWithin {l : List Area} (hb : .belfry ∈ l) (ha : answerAreas ⊆ l) (s : State) (q : Req) :
    OnlyTouches l s (s.on (s.served q)) := (OnlyTouches.upTo hb s q.t).withDict (ha (by simp [answerAreas])) _

theorem groupMemoryRead_unit (hr : r < 32) (ho : q.owner < 6) (h : ReadAllowed s q (0x2500 + r) 0x34 = true)
    (ha : s.reg (0x2500 + r) 0x33 = a) (hn : s.reg (0x2500 + r) 0x35 = 1) (hf : (s.group (gmGroup r a)).fetchAt = none)
    (hh : (s.group (gmGroup r a)).cmHeld = none) (hc : (s.served q).gmCheck r a 1 false = 0)
    (hclean : (s.toChip.gmErr (gmGroup r a) (gmSpace a) (gmIndex a)).1 = 0) :
    ∃ t, exec (.groupMemoryDataRead q r) s = .next t ∧
      t.reply q.owner = .data (toBytes (gmBytes (gmSpace a)) (s.toChip.gmWord (gmGroup r a) (gmSpace a) (gmIndex a))) ∧
      t.reg (0x2500 + r) 0x33 = gmNext a 1 ∧ SlicesKept s.toChip t.toChip ∧
      OnlyTouches (.belfry :: .slices :: answerAreas) s t := by
  have hpass := served_passes (q := q) hf hh (gmSpace a)
  have hunit := Chip.gmReadUnits_one (b := s.served q) (g := gmGroup r a) (space := gmSpace a) (i := gmIndex a) (by
    rw [hpass.gmErr]
    exact hclean)
  have hword : ((s.served q).atMaintenance (gmGroup r a) (gmSpace a)).gmWord (gmGroup r a) (gmSpace a) (gmIndex a) =
      s.toChip.gmWord (gmGroup r a) (gmSpace a) (gmIndex a) :=
    (hpass.gmWord _ _ _).trans (Chip.gmWord_congr (b := s.toChip) rfl ⟨rfl, rfl, rfl⟩ _ _ _)
  rw [hword] at hunit
  obtain ⟨t, ht, hreply, hkept, hreg⟩ := groupMemoryRead_moves hr h ha hn hc hunit
  have hexec := exec_groupMemoryDataRead h ha hn hc hunit
  rw [if_neg (by omega)] at hreg
  refine ⟨t, ht, hreply, hreg, (SlicesKept.trans (b := s.toChip) ⟨rfl, rfl, rfl⟩ hpass.alters.2.1).trans hkept, ?_⟩
  obtain rfl := Host.Outcome.next.inj (ht.symm.trans hexec)
  have h0 : OnlyTouches (.belfry :: .slices :: answerAreas) s (s.on (s.served q)) :=
    .servedWithin (by simp) (fun x hx => by simp [hx]) s q
  refine ((h0.extend fun x hx => hpass.alters.2.2 x ?_).extend fun x hx => ?_).answer (by simp) _ _
  · simp only [List.mem_cons, not_or] at hx
    simp [hx.1, hx.2.1]
  · rw [Chip.gmMoved, if_neg (by omega)]
    exact Area.same_setReg (by rintro rfl; simp [answerAreas] at hx) _ _ _ _

theorem groupMemoryWrite_moves (h : BytesAllowed s q (0x2500 + r) 0x34 v.length = true)
    (ha : s.reg (0x2500 + r) 0x33 = a) (hn : s.reg (0x2500 + r) 0x35 = n) (hc : (s.served q).gmCheck r a n true = 0)
    (hl : v.length = n * gmBytes (gmSpace a)) :
    ∃ t, exec (.groupMemoryDataWrite q r v) s = .next t ∧ t.reply q.owner = .done ∧
      SlicesKept ((s.served q).gmWriteUnits (gmGroup r a) (gmSpace a) (gmIndex a) v n) t.toChip ∧
      t.reg (0x2500 + r) 0x33 = gmNext a n :=
  ⟨_, exec_groupMemoryDataWrite h ha hn hc hl, State.reply_on_answer _ _ _ _, .of_slices (Chip.answer_slices _ _ _),
    (Chip.answer_reg _ _ _ _ _).trans (Chip.reg_setReg_self _ _ _ _)⟩

/-- One unit written: it is stored, the address moves on, and the request is answered. -/
def Chip.gmUnitWritten (e : Chip) (o r a v : Nat) : Chip :=
  ((e.gmStore (gmGroup r a) (gmSpace a) (gmIndex a) v).setReg (0x2500 + r) 0x33 (gmNext a 1)).answer o .done

theorem Chip.gmWord_gmUnitWritten (e : Chip) (o r a v : Nat) (g : Grp) (space i : Nat) : (e.gmUnitWritten o r a v).gmWord g space i =
    (e.gmStore (gmGroup r a) (gmSpace a) (gmIndex a) v).gmWord g space i := by
  unfold Chip.gmUnitWritten
  generalize e.gmStore (gmGroup r a) (gmSpace a) (gmIndex a) v = f
  have hmem := Chip.answer_mem (f.setReg (0x2500 + r) 0x33 (gmNext a 1)) o .done
  have hslices := Chip.answer_slices (f.setReg (0x2500 + r) 0x33 (gmNext a 1)) o .done
  exact Chip.gmWord_congr (b := f) (congrArg (fun m => m.undef) hmem) (.of_slices hslices) g space i

theorem Chip.reg_gmUnitWritten (e : Chip) (o r a v : Nat) : (e.gmUnitWritten o r a v).reg (0x2500 + r) 0x33 = gmNext a 1 :=
  (Chip.answer_reg _ _ _ _ _).trans (Chip.reg_setReg_self _ _ _ _)

theorem OnlyTouches.gmUnitWritten {e : Chip} (h : OnlyTouches (.belfry :: .slices :: .mem :: .inject :: answerAreas) s (s.on e))
    (o r a v : Nat) : OnlyTouches (.belfry :: .slices :: .mem :: .inject :: answerAreas) s (s.on (e.gmUnitWritten o r a v)) := by
  have hstore := Chip.alters_gmStore (g := gmGroup r a) e (gmSpace a) (gmIndex a) v
  have hstored := h.extend fun x hx => hstore.2 x fun hm => hx (by simp at hm ⊢; tauto)
  exact (hstored.extend fun x hx => Area.same_setReg (by rintro rfl; simp [answerAreas] at hx) _ _ _ _).answer
    (fun x hx => by simp [hx]) o .done

theorem groupMemoryWrite_unit (h : BytesAllowed s q (0x2500 + r) 0x34 v.length = true)
    (ha : s.reg (0x2500 + r) 0x33 = a) (hn : s.reg (0x2500 + r) 0x35 = 1) (hf : (s.group (gmGroup r a)).fetchAt = none)
    (hh : (s.group (gmGroup r a)).cmHeld = none) (hc : (s.served q).gmCheck r a 1 true = 0)
    (hl : v.length = gmBytes (gmSpace a)) :
    ∃ t, exec (.groupMemoryDataWrite q r v) s = .next t ∧ t.reply q.owner = .done ∧
      t.gmWord (gmGroup r a) (gmSpace a) (gmIndex a) = ofBytes v ∧
      (∀ g space i, g.b < 64 → space < 3 → i < gmSize space →
        ¬(g = gmGroup r a ∧ i = gmIndex a ∧ space = min 2 (gmSpace a)) → t.gmWord g space i = s.toChip.gmWord g space i) ∧
      t.reg (0x2500 + r) 0x33 = gmNext a 1 ∧
      OnlyTouches (.belfry :: .slices :: .mem :: .inject :: answerAreas) s t := by
  have hpass := served_passes (q := q) hf hh (gmSpace a)
  have hexec := exec_groupMemoryDataWrite h ha hn hc (by rw [hl, one_mul])
  rw [Chip.gmWriteUnits_one hl] at hexec
  change _ = Host.Outcome.next (s.on (((s.served q).atMaintenance (gmGroup r a) (gmSpace a)).gmUnitWritten q.owner r a (ofBytes v)))
    at hexec
  have hserved : OnlyTouches (.belfry :: .slices :: .mem :: .inject :: answerAreas) s (s.on (s.served q)) :=
    .servedWithin (by simp) (fun x hx => by simp [hx]) s q
  have hmaint := hserved.extend (l := .belfry :: .slices :: .mem :: .inject :: answerAreas) fun x hx =>
    hpass.alters.2.2 x fun hm => hx (by simp at hm ⊢; tauto)
  have hbefore : ∀ g space j, ((s.served q).atMaintenance (gmGroup r a) (gmSpace a)).gmWord g space j =
      s.toChip.gmWord g space j := fun g space j =>
    (hpass.gmWord _ _ _).trans (Chip.gmWord_congr (b := s.toChip) rfl ⟨rfl, rfl, rfl⟩ _ _ _)
  clear hserved hpass
  generalize (s.served q).atMaintenance (gmGroup r a) (gmSpace a) = e at hexec hmaint hbefore
  have hb : (gmGroup r a).b < 64 := Nat.mod_lt _ (by decide)
  have hi : gmIndex a < 16384 := Nat.mod_lt _ (by decide)
  refine ⟨_, hexec, State.reply_on_answer _ _ _ _, ?stored, fun g space j hg hs hj hno => ?other,
    Chip.reg_gmUnitWritten e q.owner r a (ofBytes v), hmaint.gmUnitWritten q.owner r a (ofBytes v)⟩
  case stored =>
    exact (Chip.gmWord_gmUnitWritten e q.owner r a (ofBytes v) _ _ _).trans (Chip.gmWord_gmStore e (hl ▸ ofBytes_lt v))
  case other =>
    exact (Chip.gmWord_gmUnitWritten e q.owner r a (ofBytes v) _ _ _).trans
      ((Chip.gmWord_gmStore_ne e hb hg hi hs hj hno).trans (hbefore _ _ _))

end

/-- Settles O30: an access is taken in its own cycle or waits in the group's record, a store is one word of one memory, and a unit
of the dictionary goes through the maintenance cycle of its group. -/
theorem groupMemoriesReadAndWrite : Obligations.GroupMemoriesReadAndWrite := by
  unfold Obligations.GroupMemoriesReadAndWrite
  intro now clean unitV kept free left
  have hfree : ∀ {d g}, free d g → CmFree d g := fun ⟨hc, hu, hh, ht⟩ => ⟨hc, hu, hh, ht⟩
  refine ⟨?cmRead, ?cmWrite, ?waits, ?dsRead, ?imStore, ?imCount, ?readUnit, ?read, ?write, ?writeUnit⟩
  case cmRead =>
    intro s g row t0 d hrow hf hl hclean
    exact cmRead_shows hrow (hfree hf) hl hclean
  case cmWrite =>
    intro s g row t0 v d hrow hg hf hl
    exact cmWrite_writes v hrow hg (hfree hf) hl
  case waits =>
    intro s g row t0 i we v d hi hf hl
    exact cmAccess_waits hi (hfree hf) hl
  case dsRead =>
    intro s g a t0 d ha hc hu hclean
    exact dsRead_shows ha hc hu hclean
  case imStore =>
    intro s g a t0 v d ha hg hc hu hs
    exact imWrite_stores v ha hg hc hu hs
  case imCount =>
    intro s g a t0 v d _ hc hu hs
    exact imWrite_counts v hc hu hs
  case readUnit =>
    intro s q r a hr ho h hn hf hh hc hclean
    exact groupMemoryRead_unit hr ho h rfl hn hf hh hc hclean
  case read =>
    intro s q r n v c a hr h hn hc hw
    exact groupMemoryRead_moves hr h rfl hn hc hw
  case write =>
    intro s q r n v a _ h hn hc hl
    exact groupMemoryWrite_moves h rfl hn hc hl
  case writeUnit =>
    intro s q r v a _ h hn hf hh hc hl
    exact groupMemoryWrite_unit h rfl hn hf hh hc hl

end Sys2Proof.Machine
